-- ==== Sys2Proof/Word.lean ====
section
/-! DEFINITION. The plainest types of the model: a byte and a 64-bit register word. -/

namespace Sys2Proof

/-- One byte (R8). -/
abbrev Byte := BitVec 8

/-- The contents of one register, 64 bits wide (a 32-bit register uses its low half). -/
abbrev Word := BitVec 64

end Sys2Proof
end

