-- ==== Sys2Proof/Syntax.lean ====
section
/-! DEFINITION. The commands the block takes, one constructor per row of the opcode table, and the types of their operands. -/

namespace Sys2Proof

/-! ### Operand types -/

/-- The two worlds (R10, R405). -/
inductive World where
  | secure | normal
  deriving DecidableEq, Repr

/-- The privilege modes of a hart (R296). -/
inductive Priv where
  | m | s | u | vs | vu
  deriving DecidableEq, Repr

/-- A hart by its `mhartid`, 0 to 12 (R272): 0 to 7 AC0 to AC7, 8 to 11 TK0 to TK3, 12 the warden core. -/
abbrev Hart := Fin 13
/-- An application core AC0 to AC7. -/
abbrev AppCore := Fin 8
/-- A timekeeper TK0 to TK3. -/
abbrev TkCore := Fin 4
/-- A local interrupt controller: of TK0 to TK3, and 4 of the warden core (R312). -/
abbrev Lic := Fin 5
/-- A time domain (R73). -/
abbrev Dom := Fin 4
/-- An Ethernet port that has a PTP port engine (R216). -/
abbrev PtpPort := Fin 17
/-- A switch port, the cascade ports 17 and 18 included (R216). -/
abbrev EthPort := Fin 19
/-- A time pin. -/
abbrev Pin := Fin 16
/-- A capture slice. -/
abbrev Slice := Fin 64
/-- A wheel entry by index (R115). -/
abbrev WIdx := Fin 65536
/-- A stream table entry by index (R165). -/
abbrev StreamIdx := BitVec 18
/-- A lockstep pair (R293). -/
abbrev Pair := Fin 4
/-- A cluster of application cores (R272). -/
abbrev Cluster := Fin 2
/-- A power and reset domain (R437, R473). -/
abbrev DomId := Fin 8
/-- A hardware lock (R443). -/
abbrev LockIdx := Fin 64
/-- A module of a cascade (R521). -/
abbrev ModId := Fin 4
/-- A cascade link. -/
abbrev LinkIdx := Fin 2
/-- A requester port of the DRAM arbiter (R387). -/
abbrev ArbPort := Fin 11
/-- A register number of a hart. -/
abbrev RegIdx := Fin 32
/-- A physical address (R28). -/
abbrev PAddr := BitVec 44
/-- A 64-byte line by number: its physical address divided by 64. -/
abbrev LineNo := BitVec 38

/-- Who makes an access to a register window (R11, R43): a hart, the debug module with the world of
`DAP_SBCTL.WORLD`, or a device with its source identifier and world. -/
inductive Agent where
  | hart (h : Hart)
  | dap (w : World)
  | device (src : BitVec 16) (w : World)
  deriving DecidableEq, Repr

/-- An access size: 1, 2, 4 or 8 bytes. -/
inductive AccSize where
  | b1 | b2 | b4 | b8
  deriving DecidableEq, Repr

/-- The size in bytes. -/
def AccSize.bytes : AccSize → Nat
  | .b1 => 1 | .b2 => 2 | .b4 => 4 | .b8 => 8

/-- What a LOAD loads into: an integer register, a floating-point register, or the fetch of an instruction. -/
inductive LoadKind where
  | int | float | fetch
  deriving DecidableEq, Repr

/-- An error a RAM of the hart's core shows at an access (R382): none, a corrected one, an uncorrectable one. -/
inductive SramErr where
  | none | corrected | uncorrectable
  deriving DecidableEq, Repr

/-- The operations of the RISC-V A extension. -/
inductive AmoOp where
  | swap | add | xor | and | or | min | max | minu | maxu
  deriving DecidableEq, Repr

/-- The multiplies of RV32M. -/
inductive MulOp where
  | mul | mulh | mulhsu | mulhu
  deriving DecidableEq, Repr

/-- The divides of RV32M. -/
inductive DivOp where
  | div | divu | rem | remu
  deriving DecidableEq, Repr

/-- The translation fences (R276). -/
inductive FenceKind where
  | sfence | hfenceV | hfenceG
  deriving DecidableEq, Repr

/-- The CSR operations: read and write, read and set, read and clear; `read` is CSRRS with x0. -/
inductive CsrOp where
  | write | set | clear | read
  deriving DecidableEq, Repr

/-- The mode CSRs (R277, R278). -/
inductive ModeCsr where
  | mvtctl | svtctl | vsvtctl | ezsag | ezpm | ezepoch
  deriving DecidableEq, Repr

/-- A generator parameter of a time pin (R107). -/
inductive GenParam where
  | anchor | period | width
  deriving DecidableEq, Repr

/-- Which part of a 64-bit register an access takes (R557, R558). -/
inductive Half where
  | full | low | high
  deriving DecidableEq, Repr

/-- A requester of coherent lines (R327): an application core's L2, or the device bridge port of a domain. -/
inductive Requester where
  | core (c : AppCore)
  | dev (d : DomId)
  deriving DecidableEq, Repr

/-- Bits of a stored DRAM word an upset has flipped (R373): word 0 to 7 of the line and bit 0 to 71. -/
abbrev Upset := List (Fin 8 × Fin 72)

/-- The device_id of a DMA requester (R306). -/
abbrev DevId := BitVec 24

/-- The status codes every engine reports (R17). -/
inductive Status where
  | ok | full | denied | tooLate | unavailable | stale | fenced | poison
  deriving DecidableEq, Repr

/-- What a remote module answers to an access through a cascade window (R36). -/
inductive RemoteAnswer where
  | data (v : Word)
  | refused (st : Status)
  deriving DecidableEq, Repr

/-- An abstract command of the debug module (R490). -/
inductive AbsCmd where
  | readReg (no : BitVec 16)
  | writeReg (no : BitVec 16) (v : Word)
  | readMem (size : AccSize) (va : Word)
  | writeMem (size : AccSize) (va : Word) (v : Word)
  deriving DecidableEq, Repr

/-- A block that has a counter page (R506). -/
inductive PmuBlock where
  | core (c : AppCore)
  | mem
  | port (p : EthPort)
  deriving DecidableEq, Repr

/-- What makes a lockstep pair diverge (R294, R461). -/
inductive LksCause where
  | regWrite | csrWrite | storeAddr | storeData | otherRequest | privateState
  deriving DecidableEq, Repr

/-- A source of wake-up (R480). -/
inductive WakeSrc where
  | tc10 (p : Fin 16) | can (c : Fin 2) | pin (n : Pin) | alarm | podl | software
  deriving DecidableEq, Repr

/-- The two ends of a slice's mailbox (R208): the manager's registers of slice `s`, or the doorbell page. -/
inductive MbxSide where
  | manager (s : Slice)
  | tenant
  deriving DecidableEq, Repr

/-- A write of the capture engine that completes with an error (R183): a buffer write of the open frame of a
stream, or an access to the rings of a slice's ring. -/
inductive CapErr where
  | buffer (i : StreamIdx)
  | ring (s : Slice) (r : Fin 8)
  deriving DecidableEq, Repr

/-- A CAN frame as received (R244). -/
structure CanFrame where
  fmt : Fin 3
  id : BitVec 29
  ide : Bool
  rtr : Bool
  brs : Bool
  esi : Bool
  sec : Bool
  dlc : BitVec 4
  sdt : BitVec 8
  vcid : BitVec 8
  af : BitVec 32
  data : List Byte
  deriving DecidableEq, Repr

/-- The priority vector an Announce carries (R93, R95): priority1, clockClass, clockAccuracy,
offsetScaledLogVariance, priority2, grandmaster identity, stepsRemoved. -/
structure PrioVec where
  prio1 : Nat
  cls : Nat
  accuracy : Nat
  variance : Nat
  prio2 : Nat
  gm : Nat
  steps : Nat
  deriving DecidableEq, Repr

/-- A stamp taken in a time domain with its companions (R70, R89). -/
structure Stamp where
  /-- Compact VT (R71). -/
  ns : Nat
  /-- Fraction of a nanosecond, unit 2^-16 ns. -/
  frac : Nat
  /-- Low 8 bits of the discontinuity sequence. -/
  dseq : Nat
  /-- Quality (R89). -/
  qual : Nat
  deriving DecidableEq, Repr

/-- A heartbeat of a cascade module (R523, R525, R526). -/
structure Heartbeat where
  src : ModId
  master : Bool
  /-- The master's ID as the sender knows it. -/
  known : ModId
  /-- The hops from the receiving link to the master. -/
  hops : Nat
  /-- One above the highest cascade stream identifier in use, 0 for none. -/
  csid : Nat
  /-- Compact VT and FRAC (2^-16 ns) of each enabled domain, at the link. -/
  times : List (Dom × Nat × Nat)
  deriving DecidableEq, Repr

/-- What crosses the links to a mailbox (R531): a message with its sequence number, or the acknowledgement of one. -/
inductive MbxIn where
  | message (words : List (BitVec 32)) (seq : BitVec 16)
  | ack (seq : BitVec 16)
  deriving DecidableEq, Repr

/-- A unit another module forwards to this one (R530), with its stamp. -/
inductive FwdUnit where
  | csi (p : Fin 8) (vc : Fin 16) (dt : BitVec 6) (data : List Byte) (crcErr : Bool) (lost : Bool) (st : Stamp)
  | eth (vid : BitVec 12) (bytes : List Byte) (fcsErr : Bool) (st : Stamp)
  deriving DecidableEq, Repr

/-- A ledger record (R252). `payload` holds bytes 16 to 63 of the record, byte 16 least significant. -/
structure Rec where
  vt : Nat
  dseq : Nat
  qual : Nat
  dom : Nat
  nsw : Bool
  cont : Bool
  typ : Nat
  len : Nat
  src : Nat
  sub : Nat
  payload : Nat
  deriving DecidableEq, Repr

/-- A block of the ledger (R259); `magic` is kept because a block read back may carry another. -/
structure LBlock where
  magic : Nat
  unsigned : Bool
  provisional : Bool
  lastgasp : Bool
  short : Bool
  firstboot : Bool
  seq : Nat
  bootno : Nat
  vtOpen : Nat
  /-- PREV as a number, byte 0 least significant. -/
  prev : Nat
  recs : List Rec
  deriving DecidableEq, Repr

/-- A control copy of the ring as it is stored (R263). -/
structure CtlCopy where
  magic : Nat
  upd : Nat
  next : Nat
  signed : Nat
  ringlen : Nat
  bootno : Nat
  lasthash : Nat
  crc : Nat
  deriving DecidableEq, Repr

/-- What waits for an orderly close to complete (R266). -/
inductive CloseFor where
  | flush
  /-- The power controller isolates HST for Keep, Sleep or a domain power-down. -/
  | powerDown
  /-- The quiesce step of a hand-over of the ledger block. -/
  | handover
  /-- `FIRE_CTL.REBOOT` or a watchdog chip reset. -/
  | reset
  deriving DecidableEq, Repr

/-- The commands: one constructor per row of the opcode table, in its order. Operands carry what the environment
decides: who makes an access, the data, what a partner sends, which value was measured. -/
inductive Instr where
  /-- A write to a register that has no row of its own acts on each field according to its access code (R10). -/
  | registerWrite (a : Agent) (addr : PAddr) (bytes : Nat) (data : Word)
  /-- A 32-bit write to the half of a command register that does not hold the start field only stores that half for the next command (R558). -/
  | halfWriteStage (a : Agent) (addr : PAddr) (data : BitVec 32)
  /-- A hart load is translated, checked by PMP and the physical check, and served from the buffer, the caches, memory or a device (R364). -/
  | load (h : Hart) (va : Word) (size : AccSize) (rd : RegIdx) (signed : Bool) (kind : LoadKind) (err : SramErr)
  /-- A hart store retires into the store buffer after translation and checks, sharing an entry when its line matches the youngest unwritten entry (R275). -/
  | store (h : Hart) (va : Word) (size : AccSize) (data : Word)
  /-- A store buffer entry leaves the buffer and is accepted by L1, the mesh or the device fabric (R367). -/
  | storeBufferDrain (h : Hart) (idx : Nat)
  /-- A device store is acknowledged by its target or refused by a fence or the physical check, and a refusal raises a precise store access fault (R353). -/
  | deviceStoreAck (h : Hart)
  /-- An atomic memory operation is performed at the requesting core's L2, or at the home slice for the scratch window (R362). -/
  | amo (h : Hart) (op : AmoOp) (va : Word) (size : AccSize) (rd : RegIdx) (src : Word)
  /-- An LR loads a value and sets a reservation on its 64-byte line (R362). -/
  | loadReserved (h : Hart) (va : Word) (size : AccSize) (rd : RegIdx)
  /-- An SC writes only if the reservation still stands and clears the reservation in either case (R362). -/
  | storeConditional (h : Hart) (va : Word) (size : AccSize) (rd : RegIdx) (data : Word)
  /-- A FENCE orders earlier and later accesses by its predecessor and successor sets, including device input and output (R354). -/
  | fence (h : Hart) (pi : Bool) (po : Bool) (pr : Bool) (pw : Bool) (si : Bool) (so : Bool) (sr : Bool) (sw : Bool)
  /-- FENCE.I makes instruction bytes written earlier, by this hart or by others it has observed, visible to later fetches (R282). -/
  | fenceI (h : Hart)
  /-- SFENCE.VMA or an HFENCE invalidates cached translations (R276). -/
  | sfenceVma (h : Hart) (kind : FenceKind) (va : Option Word) (asid : Option Nat)
  /-- cbo.zero writes a whole line of zeros and clears any poison on it (R378). -/
  | cboZero (h : Hart) (va : Word)
  /-- A CSR instruction reads or writes a standard CSR, and a write of an unsupported translation mode leaves the register unchanged (R300). -/
  | csrAccess (h : Hart) (csr : BitVec 12) (op : CsrOp) (rd : RegIdx) (src : Word)
  /-- A write to a mode CSR takes effect from the third following instruction (R278). -/
  | modeCsrWrite (h : Hart) (csr : ModeCsr) (op : CsrOp) (rd : RegIdx) (src : Word)
  /-- MRET returns to a lower mode and places an application core in the world held in ACC_WORLD.NEXT (R298). -/
  | mret (h : Hart)
  /-- SRET returns to a lower mode without changing the world (R298). -/
  | sret (h : Hart)
  /-- WFI stalls the hart until an interrupt is pending (R284). -/
  | wfi (h : Hart)
  /-- An exception or interrupt is taken, and a trap into M-mode places the application core in the secure world (R298). -/
  | trapEntry (h : Hart) (cause : Word) (tval : Word)
  /-- mtime reaches ACC_MTIMECMP and asserts the machine timer interrupt (R320). -/
  | mtimecmpMatch (h : AppCore)
  /-- time reaches stimecmp or vstimecmp and asserts the supervisor or guest timer interrupt (R320). -/
  | stimecmpMatch (h : AppCore) (guest : Bool)
  /-- Supply arrives from nothing and a cold boot begins (R59). -/
  | supplyArrival (vin : Nat) (cid : BitVec 2)
  /-- PORST_N falls and every domain except the retained always-on parts is held in reset (R539). -/
  | porstNFall
  /-- PORST_N rises, the CID straps are latched and a cold boot begins (R539). -/
  | porstNRise (cid : BitVec 2)
  /-- A REBOOT or watchdog chip reset takes effect once any burn in progress is complete and the ledger has closed (R66). -/
  | chipReset
  /-- The boot ROM reads the control block, picks the slot order and verifies images until one passes (R55). -/
  | bootRomImageSelect (badA : Bool) (badB : Bool)
  /-- The bisque stage locks PLLs, releases domains behind closed fences and applies the structural sections (R60). -/
  | bisqueApply
  /-- DRAM training completes and boot wedging of DRAM and SRAM starts (R60). -/
  | dramTrainingDone (ok : Bool)
  /-- Boot wedging completes and FIRE_STATUS.STRUCT_LOCK sets (R60). -/
  | bootWedgeDone
  /-- The glost stage copies firmware, calibrates lead times and releases the warden, timekeeper and application cores (R60). -/
  | glostStage (medians : List Nat)
  /-- FIRE_CTL.COMMIT burns the image-version cone up to ROLLBACK, then writes the control block with TRIAL cleared (R61). -/
  | fireCommit (a : Agent)
  /-- FIRE_CTL.NWREL releases the normal world and writes a HANDOVER ledger record with SUB 1 (R60). -/
  | fireNwrel (a : Agent)
  /-- FIRE_CTL.REBOOT requests a cold boot (R59). -/
  | fireReboot (a : Agent)
  /-- FIRE_CTL.TRIAL_ARM verifies the other slot and writes a control block that puts it on trial with TRIES attempts (R68). -/
  | fireTrialArm (a : Agent) (tries : BitVec 4)
  /-- A control block write to boot flash completes with the new SEQ (R54). -/
  | controlBlockWriteDone
  /-- FIRE_FL_CMD OP 1 erases the 64 KiB sector at ADDR unless it holds the running slot (R68). -/
  | flashErase (a : Agent)
  /-- FIRE_FL_CMD OP 2 programs DATA at ADDR as the AND with the present contents (R68). -/
  | flashProgram (a : Agent)
  /-- FIRE_FL_CMD OP 3 does nothing and sets FIRE_FL_STAT to DENIED (R68). -/
  | flashOpDenied (a : Agent)
  /-- A flash command ends, BUSY clears and FIRE_FL_STAT takes its status (R68). -/
  | flashCmdComplete
  /-- A read of FIRE_FL_DATA returns 8 flash bytes at ADDR and advances ADDR by 8 (R68). -/
  | flashDataRead (a : Agent) (half : Half)
  /-- CONE_BURN with GO judges the request and starts burning one step of the named cone (R63). -/
  | coneBurn (a : Agent) (cone : BitVec 3) (expect : BitVec 7) (value : BitVec 4)
  /-- A burn ends, the step counts as burnt, a burn record entry is written and BUSY clears (R64). -/
  | coneBurnComplete
  /-- The ledger engine copies a burn record entry whose LEDGERED bit is clear and then sets LEDGERED (R64). -/
  | burnRecordCopy (n : Fin 128)
  /-- VT_CTL.SNAP latches the full VT and sequence of all four domains at one tick (R77). -/
  | vtSnap (a : Agent)
  /-- DISC_GO OP 1 starts a slew of the domain by DISC_STEP at SLEW_PPM (R79). -/
  | discSlew (a : Agent) (d : Dom) (ppm : BitVec 10)
  /-- DISC_GO OP 2 accepts a jump of the domain by DISC_STEP (R79). -/
  | discJumpBy (a : Agent) (d : Dom) (ppm : BitVec 10)
  /-- DISC_GO OP 3 accepts a jump of the domain to DISC_SET_S and DISC_SET_NS (R79). -/
  | discJumpTo (a : Agent) (d : Dom) (ppm : BitVec 10)
  /-- At the jump tick the domain's time changes, its sequence increments and every consumer is given the discontinuity (R78). -/
  | jumpTakeEffect (d : Dom)
  /-- Every consumer has taken the jump and DISC_STATUS.BUSY clears (R81). -/
  | jumpDeliveryDone (d : Dom)
  /-- The whole offset of a slew has been taken up and SLEWING clears (R78). -/
  | slewComplete (d : Dom)
  /-- A write of DISC_RATE sets the rate word from the next tick, clamped to nominal plus or minus 1,000 ppm (R75). -/
  | rateWordWrite (a : Agent) (d : Dom) (rate : Word)
  /-- A write of DISC_CTL changes control mode, reloads DISC_THR on a new preset or declares SWSTATE (R82). -/
  | discCtlWrite (a : Agent) (d : Dom) (mode : Bool) (preset : BitVec 2) (swstate : BitVec 3)
  /-- A Sync on a slave port gives an offset that drives the servo's jump, slew and state table, and is relayed by master ports (R85). -/
  | syncReceived (p : PtpPort) (dn : BitVec 7) (phase : Fin 8) (origin : Option (Nat × Int))
  /-- A Follow_Up completes a two-step Sync with its precise origin time and correction (R99). -/
  | followUpReceived (p : PtpPort) (dn : BitVec 7) (origin : Nat) (corr : Int)
  /-- syncReceiptTimeout expires and the domain enters HOLDOVER or FREERUN with the rate word frozen (R85). -/
  | syncReceiptTimeout (p : PtpPort) (d : Dom)
  /-- A master port sends a Sync, one-step or two-step, at its sync interval (R99). -/
  | syncSend (p : PtpPort) (d : Dom) (phase : Fin 8)
  /-- An Announce feeds the best master clock algorithm, which may change port states and grandmaster (R93). -/
  | announceReceived (p : PtpPort) (dn : BitVec 7) (v : PrioVec)
  /-- announceReceiptTimeout expires and BMCA reselects (R93). -/
  | announceReceiptTimeout (p : PtpPort) (d : Dom)
  /-- A port sends an Announce at its announce interval (R95). -/
  | announceSend (p : PtpPort) (d : Dom)
  /-- A port sends a Pdelay_Req at its path delay interval (R95). -/
  | pdelayReqSend (p : PtpPort) (phase : Fin 8)
  /-- A received Pdelay_Req is answered with Pdelay_Resp (R95). -/
  | pdelayReqReceived (p : PtpPort) (phase : Fin 8)
  /-- A Pdelay_Resp and its follow-up update meanLinkDelay and the neighbour rate ratio (R95). -/
  | pdelayRespReceived (p : PtpPort) (phase : Fin 8) (t2 : Nat) (t3 : Nat)
  /-- A Signaling message with a message interval request TLV changes the port's intervals (R95). -/
  | signalingReceived (p : PtpPort) (dn : BitVec 7) (sync : Option (BitVec 8)) (announce : Option (BitVec 8)) (pdelay : Option (BitVec 8))
  /-- TP_n_CFG.LEVEL_SET drives an output pin with SRC 0 active (R104). -/
  | tpLevelSet (a : Agent) (n : Pin)
  /-- TP_n_CFG.LEVEL_CLR drives an output pin with SRC 0 inactive (R104). -/
  | tpLevelClr (a : Agent) (n : Pin)
  /-- A write of RUN = 1 starts the pin generator if its period and width are valid (R107). -/
  | tpGenRunStart (a : Agent) (n : Pin)
  /-- A write of RUN = 0 stops further activations and lets an active one finish its width (R107). -/
  | tpGenRunStop (a : Agent) (n : Pin)
  /-- A write of ANCHOR, PERIOD or WIDTH while running is ignored if it breaks the conditions, otherwise taken into use at once (R107). -/
  | tpGenParamWrite (a : Agent) (n : Pin) (which : GenParam) (v : Word)
  /-- The pin's domain reaches a grid instant and the generator drives the pin active (R107). -/
  | tpGenActivate (n : Pin)
  /-- The activation width ends and the generator returns the pin to inactive (R107). -/
  | tpGenDeactivate (n : Pin)
  /-- A deglitched selected edge on a capture pin is stamped into its FIFO, and into the ledger and stream table as configured (R108). -/
  | tpCaptureEdge (n : Pin) (rising : Bool) (phase : Fin 8) (stableNs : Nat)
  /-- A read of TP_n_CAP returns the head stamp and pops it (R108). -/
  | tpCapRead (a : Agent) (n : Pin) (half : Half)
  /-- A wheel pulse's width ends, its trailing edge is driven and the entry completes (R106). -/
  | pulseTrailingEdge (n : Pin)
  /-- vt.rd returns the compact VT of domain 0, latching the high half on timekeepers (R137). -/
  | vtRd (h : Hart) (rd : RegIdx)
  /-- vt.wt stalls the hart until domain 0 reaches rs1 or retires at once if it has passed (R138). -/
  | vtWt (h : Hart) (target : Word)
  /-- Domain 0 reaches the target of a waiting vt.wt and the instruction retires (R138). -/
  | vtWtEnd (h : Hart)
  /-- vt.sta arms a 64-bit timed STORE entry at vtarm and returns a handle or a status (R137). -/
  | vtSta (h : Hart) (va : Word) (data : Word) (rd : RegIdx)
  /-- vt.sta.w arms a 32-bit timed STORE entry at vtarm and returns a handle or a status (R137). -/
  | vtStaW (h : Hart) (va : Word) (data : Word) (rd : RegIdx)
  /-- vt.ev reads a 32-byte descriptor and arms its entry, returning a handle or a status (R137). -/
  | vtEv (h : Hart) (va : Word) (rd : RegIdx)
  /-- vt.abt aborts the entry of a handle, returning OK, TOO_LATE, STALE_HANDLE or DENIED (R144). -/
  | vtAbt (h : Hart) (handle : BitVec 32) (rd : RegIdx)
  /-- An ARMED entry whose intended instant comes within 1 ms ranks into the 64-slot horizon and becomes IMMINENT (R127). -/
  | horizonAdmit (idx : WIdx)
  /-- Domain 0 reaches an IMMINENT entry's intended instant and its action is issued (R128). -/
  | wheelFireImminent (idx : WIdx)
  /-- Every 256 ns the calendar issues ARMED entries whose instant has arrived, flagged COARSE (R128). -/
  | calendarSweep
  /-- A fired action's target acknowledges and the entry goes to DONE with its status and completion VT (R123). -/
  | wheelActionComplete (idx : WIdx) (ok : Bool)
  /-- A completion record is written to the owner's ring when there is room, and the entry returns to FREE (R125). -/
  | completionRecordWrite (idx : WIdx)
  /-- TWH_CTL.CAL starts measuring the lead time of every present target class (R135). -/
  | wheelCalibrate (a : Agent)
  /-- The calibration reads complete, each LEAD takes the median and CALBUSY clears (R135). -/
  | calibrationDone (medians : List Nat)
  /-- A read of TWH_INSP0 snapshots the inspected entry's four words (R154). -/
  | twhInspRead (a : Agent) (half : Half)
  /-- A write of TWH_S_QUOTA is reduced to the largest value that fits the partition (R117). -/
  | wheelQuotaWrite (a : Agent) (sl : Slice) (quota : Nat)
  /-- A CSI-2 packet is stamped, steered, looked up and assembled, or discarded as a miss, orphan or header error (R176). -/
  | csiPacketReceive (p : Fin 8) (vc : Fin 16) (dt : BitVec 6) (data : List Byte) (hdrErr : Bool) (crcErr : Bool) (phase : Fin 8)
  /-- An Ethernet frame is stamped, classified, filtered by 802.1Qci and captured, switched or both (R219). -/
  | ethFrameReceive (p : EthPort) (bytes : List Byte) (fcsErr : Bool) (ipErr : Bool) (phase : Fin 8)
  /-- A CAN frame is acknowledged, stamped, steered and captured or discarded as a miss (R244). -/
  | canFrameReceive (c : Fin 2) (f : CanFrame)
  /-- A buffer's descriptor is written after its data and the ring tail advances; a LAST descriptor completes the frame (R180). -/
  | captureDescriptorWrite (st : StreamIdx)
  /-- IDLE_MS pass with no unit for an open frame and it ends with UNCLOSED (R175). -/
  | frameIdleClose (st : StreamIdx)
  /-- A faulted buffer write ends the frame with XLATE, or a faulted ring access stops the ring (R183). -/
  | captureWriteError (e : CapErr)
  /-- A change of CAP_RING_CFG.EN from 0 to 1 clears STOPPED and resets heads and tails (R193). -/
  | capRingEnable (a : Agent) (sl : Slice) (r : Fin 8)
  /-- Update OP 1 writes the staged fields to the entry, keeps COUNT and advances GEN (R167). -/
  | sttWrite (a : Agent) (p : Fin 4) (idx : BitVec 18) (expgen : BitVec 8) (anygen : Bool)
  /-- Update OP 2 writes the staged fields with COUNT 0 and advances GEN (R167). -/
  | sttWriteZero (a : Agent) (p : Fin 4) (idx : BitVec 18) (expgen : BitVec 8) (anygen : Bool)
  /-- Update OP 3 clears VALID and advances GEN (R167). -/
  | sttInvalidate (a : Agent) (p : Fin 4) (idx : BitVec 18) (expgen : BitVec 8) (anygen : Bool)
  /-- Update OP 4 writes the staged entry to the lowest free entry of its key's bucket (R167). -/
  | sttPlace (a : Agent) (p : Fin 4)
  /-- Update OP 5 to 7 is refused with DENIED (R168). -/
  | sttUpdReservedOp (a : Agent) (p : Fin 4) (op : BitVec 3)
  /-- An update command ends with its status, index and new GEN, and BUSY clears (R168). -/
  | sttUpdateComplete (p : Fin 5)
  /-- A read of STT_RD0 snapshots the entry at STT_RD_IDX (R194). -/
  | sttRdSnapshot (a : Agent) (half : Half)
  /-- A write of STT_PROBE looks up a key and returns slice, steering, hit, index and hash (R194). -/
  | sttProbe (a : Agent) (key : BitVec 48) (kind : BitVec 2)
  /-- A read of STT_MISSQ returns the head miss and pops it (R194). -/
  | missqRead (a : Agent) (half : Half)
  /-- CAP_CAM_PRESET with GO builds a camera entry, sets steering if invalid and performs a PLACE (R191). -/
  | camPreset (a : Agent) (v : Word)
  /-- CSL_CMD OP 1 binds a FREE slice to the key in CSL_KEY (R197). -/
  | sliceBind (a : Agent) (sl : Slice)
  /-- CSL_CMD OP 2 starts a slice reset that keeps the binding (R206). -/
  | sliceReset (a : Agent) (sl : Slice)
  /-- CSL_CMD OP 3 starts a slice reset that drops the binding when quiet (R206). -/
  | sliceUnbind (a : Agent) (sl : Slice)
  /-- A RESETTING slice has no writes outstanding and no wheel entries, and becomes BOUND or FREE with RESET_DONE (R198). -/
  | sliceQuiet (sl : Slice)
  /-- A doorbell write of DB_BRING_TAIL moves a ring's buffer tail, accepted or refused whole (R200). -/
  | dbSubmission (h : Hart) (r : Fin 8) (tail : BitVec 16)
  /-- A write of DB_DL_QUERY latches the handle of the stream's pending coupled EXPECT, or a status (R213). -/
  | dlQuery (h : Hart) (stream : BitVec 18)
  /-- HOLDOFF passes after the first unsignalled descriptor and the ring's COMPL bit sets (R205). -/
  | modHoldoffExpire (sl : Slice) (r : Fin 8)
  /-- SEND with EXPSEQ delivers the staged words to the receiver of that direction or returns a status (R209). -/
  | mailboxSend (a : Agent) (side : MbxSide) (expseq : BitVec 16)
  /-- A write of the received SEQ to ACK clears VALID and PEND and sets the sender's ACKED event (R210). -/
  | mailboxAck (a : Agent) (side : MbxSide) (seq : BitVec 16)
  /-- An idle port starts transmitting the head of the highest-numbered eligible queue (R221). -/
  | egressSelect (p : EthPort) (phase : Fin 8)
  /-- A frame's last bit leaves the PHY and the port becomes idle (R221). -/
  | frameTransmitEnd (p : EthPort)
  /-- A gate list interval ends and the next entry or cycle sets the gates (R226). -/
  | gclEntryAdvance (p : PtpPort)
  /-- PORT_GCL_CTL.CHANGE judges the shadow list and sets PENDING with a change time (R227). -/
  | gclChange (a : Agent) (p : PtpPort)
  /-- The change time arrives and the shadow list becomes active, extending or cutting the old cycle (R227). -/
  | gclChangeTakeEffect (p : PtpPort)
  /-- The switch takes an injection descriptor and queues, parks or completes it with a status (R234). -/
  | injDescTake (r : Fin 8)
  /-- An injected frame completes and its descriptor is written back with OWN 0 (R233). -/
  | injDescComplete (r : Fin 8)
  /-- A change of SW_INJ_CFG.EN from 0 to 1 resets the ring and clears STOPPED (R249). -/
  | injRingEnable (a : Agent) (r : Fin 8)
  /-- SW_UNPARK completes a parked frame with UNPARKED, or returns UNAVAILABLE or TOO_LATE (R235). -/
  | swUnpark (a : Agent) (port : BitVec 5) (queue : BitVec 3) (tag : BitVec 16)
  /-- SW_FDB_CMD OP 1 writes a forwarding database entry (R249). -/
  | fdbWrite (a : Agent)
  /-- SW_FDB_CMD OP 2 deletes a forwarding database entry (R249). -/
  | fdbDelete (a : Agent)
  /-- SW_FDB_CMD OP 3 reads a forwarding database entry into SW_FDB_DATA (R249). -/
  | fdbRead (a : Agent)
  /-- A learned entry unseen for AGE_S seconds is removed (R219). -/
  | fdbAgeExpire (mac : BitVec 48) (vid : BitVec 12)
  /-- A recovery function sees no frame for RESET_MS and resets its history (R232). -/
  | frerResetTimeout (f : Fin 64)
  /-- An Ethernet port's link comes up and LINK sets (R217). -/
  | linkUp (p : PtpPort) (rate : BitVec 2) (master : Bool)
  /-- An Ethernet link drops and its parked frames complete UNAVAILABLE (R235). -/
  | linkDown (p : PtpPort)
  /-- Software writes SLEEP and the port sends a low-power sleep request (R239). -/
  | tc10SleepReq (a : Agent) (p : Fin 16)
  /-- Software writes WAKE, withdrawing a request or sending a wake-up pulse (R239). -/
  | tc10WakeCmd (a : Agent) (p : Fin 16)
  /-- A partner's sleep request is accepted or rejected by ACCEPT (R239). -/
  | tc10PartnerSleepReq (p : Fin 16)
  /-- The partner acknowledges the sleep request and the port enters SLEEP (R239). -/
  | tc10PartnerAck (p : Fin 16)
  /-- The partner rejects the sleep request and SLEEPFAIL sets (R239). -/
  | tc10PartnerReject (p : Fin 16)
  /-- 16 ms pass without acknowledgement and the port returns to ACTIVE with SLEEPFAIL (R239). -/
  | tc10RequestTimeout (p : Fin 16)
  /-- A wake-up pulse or request arrives in SLEEP and the port wakes and forwards the wake (R239). -/
  | tc10WakePulse (p : Fin 16)
  /-- 100 ms pass in WAKING without link and the port returns to SLEEP with WAKEFAIL (R239). -/
  | tc10WakeTimeout (p : Fin 16)
  /-- A PSE detects and classifies E0 with PODL_CFG.CLASS (R238). -/
  | podlClassify
  /-- PoDL power arrives at E0 and is watched or taken as input (R462). -/
  | podlPowerArrive (vin : Nat)
  /-- A software GPIO back-channel command is queued or refused (R241). -/
  | bcGpioCmd (a : Agent) (n : Fin 8) (v : Word)
  /-- A software I2C write back-channel command is queued or refused (R241). -/
  | bcI2cWriteCmd (a : Agent) (n : Fin 8) (v : Word)
  /-- A software I2C read back-channel command is queued or refused (R241). -/
  | bcI2cReadCmd (a : Agent) (n : Fin 8) (v : Word)
  /-- The remote side acknowledges the command being served and the next one starts (R241). -/
  | bcAck (n : Fin 8) (nack : Bool) (rdata : BitVec 32)
  /-- TIMEOUT passes without acknowledgement and the command completes UNAVAILABLE (R242). -/
  | bcTimeout (n : Fin 8)
  /-- A camera port's A-PHY link comes up (R240). -/
  | camLinkUp (n : Fin 8) (gear : BitVec 3)
  /-- A camera link drops and its queued and running back-channel commands complete UNAVAILABLE (R242). -/
  | camLinkDown (n : Fin 8)
  /-- A CAN controller takes a transmit descriptor and starts its frame or completes it DENIED (R245). -/
  | canTxDescTake (c : Fin 2)
  /-- A CAN frame is transmitted successfully and its descriptor completes with TXSTAMP (R245). -/
  | canTxComplete (c : Fin 2) (sofAgo : Nat)
  /-- The controller enters bus-off and pending frames complete UNAVAILABLE (R243). -/
  | canBusOff (c : Fin 2)
  /-- Bus-off recovery completes under the standard and the controller rejoins the bus (R243). -/
  | canBusoffRecovery (c : Fin 2)
  /-- The ledger engine accepts or refuses a hardware record and places it in the open block (R253). -/
  | ledgerRecordAccept (r : Rec)
  /-- LDG_W_CMD with GO writes a software record from a world page (R258). -/
  | ledgerSwRecord (a : Agent) (w : World) (typ : BitVec 8) (len : BitVec 6) (sub : BitVec 16)
  /-- A non-empty block has been open CLOSE_MS and closes (R260). -/
  | blockCloseTimer
  /-- LDG_CTL.FLUSH closes the open block if it holds a record (R260). -/
  | ledgerFlush (a : Agent)
  /-- The trust services return a signature and a SIGNATURE pair is appended (R261). -/
  | signatureReturn (ok : Bool) (r : BitVec 256) (s2 : BitVec 256)
  /-- A signing request gets no answer within TIMEOUT_MS and SIGUNAVAIL sets (R261). -/
  | signTimeout
  /-- Every RETRY_MS while signing is unavailable, a signature of the latest closed block is requested (R261). -/
  | signRetry
  /-- A block write completes, or fails and is retried or stops the engine, and a group end updates the control copy (R264). -/
  | nvmeWriteComplete (seq : Nat) (ok : Bool)
  /-- LDG_CTL.EN from 0 to 1 starts the resume and reads the control copies (R265). -/
  | ledgerResume (a : Agent)
  /-- A resume read completes and the chain is checked until the chain end, then the engine runs (R265). -/
  | resumeReadComplete (ok : Bool) (copies : List (Option CtlCopy)) (blocks : List LBlock)
  /-- LDG_CTL.REINIT marks the ring for initialisation at the next resume (R265). -/
  | ledgerReinit (a : Agent)
  /-- A CLOSE record is appended and staged blocks and the control copy are written before a power-down, hand-over or reset (R266). -/
  | ledgerOrderlyClose (reason : CloseFor)
  /-- The close completes or 5 ms pass, and the waiting power-down, hand-over or reset proceeds (R266). -/
  | orderlyCloseDone
  /-- LDG_RPL_CMD OP 1 copies ledger blocks to the replay buffer (R268). -/
  | replayCopy (a : Agent)
  /-- LDG_RPL_CMD OP 2 checks the chain of ledger blocks (R268). -/
  | replayCheck (a : Agent)
  /-- LDG_RPL_CMD OP 3 copies and checks ledger blocks (R268). -/
  | replayCopyCheck (a : Agent)
  /-- A replay command ends with its status and any break, and RPLDONE sets (R268). -/
  | replayDone (blocks : List LBlock) (ok : Bool)
  /-- TKC_CTL.RUN written 0 holds the timekeeper in reset after its write buffer completes (R290). -/
  | tkRunStop (a : Agent) (n : TkCore)
  /-- TKC_CTL.RUN written 1 restarts the timekeeper at TKC_RESETPC (R290). -/
  | tkRunStart (a : Agent) (n : TkCore)
  /-- A timekeeper multiply result becomes ready two cycles after it entered X (R285). -/
  | tkMultiplyResult (n : TkCore) (op : MulOp) (rd : RegIdx) (x : BitVec 32) (y : BitVec 32)
  /-- A timekeeper divide result is written 34 cycles after it entered X (R285). -/
  | tkDivideResult (n : TkCore) (op : DivOp) (rd : RegIdx) (x : BitVec 32) (y : BitVec 32)
  /-- A load through the device fabric returns and the stalled pipe resumes (R289). -/
  | fabricLoadResponse (n : TkCore)
  /-- A timekeeper fabric store leaves the write buffer after the previous one is acknowledged (R357). -/
  | tkWriteBufferDrain (n : TkCore)
  /-- The comparators find a mismatch or unmendable parity error and the pair stops retiring (R294). -/
  | lockstepDivergence (p : Pair) (cause : LksCause) (addr : PAddr)
  /-- LKS_CTL.RESTART flushes the stopped pair's caches and restarts it at ACC_RESETPC (R447). -/
  | lockstepRestart (a : Agent) (p : Pair)
  /-- LKS_CTL.INJECT forces a mismatch at the pair's next retirement (R461). -/
  | lockstepInject (a : Agent) (p : Pair)
  /-- A secure write of ACC_WORLD.NEXT changes the world of the hart's lower files if the hart is in M-mode, halted or off (R299). -/
  | accWorldWrite (a : Agent) (c : AppCore) (next : World)
  /-- sag.enter enters a saggar and jumps to its ENTRY, or raises illegal-instruction with CAUSE (R417). -/
  | sagEnter (h : Hart) (rd : RegIdx) (sag : BitVec 6)
  /-- sag.exit clears IN and jumps to rs1 (R418). -/
  | sagExit (h : Hart) (target : Word)
  /-- A device agent's DMA is translated by the IOMMU per world and checked by the physical check (R308). -/
  | dmaRequest (dev : DevId) (pasid : Option (BitVec 20)) (write : Bool) (iova : Word) (size : Nat) (data : List Byte)
  /-- An inbound PCIe request to the ledger staging window is served or returned as Unsupported Request (R33). -/
  | pcieInboundRequest (write : Bool) (off : BitVec 20) (size : Nat) (data : List Byte)
  /-- A wired source's level changes and its APLIC domain sends an MSI when pending and enabled (R313). -/
  | aplicSourceChange (src : BitVec 7)
  /-- An MSI reaches an interrupt file or local controller and is written only if the file is in the sender's world (R315). -/
  | msiWrite (w : World) (addr : PAddr) (data : BitVec 32)
  /-- A write of TKC_MSG sets a local interrupt line pending (R316). -/
  | localMsg (a : Agent) (n : Lic) (eiid : BitVec 32)
  /-- A read of TKC_CLAIM returns and clears the lowest pending enabled line (R316). -/
  | localClaim (a : Agent) (n : Lic) (half : Half)
  /-- An access through a cascade window is sent to the remote module or answered UNAVAILABLE (R36). -/
  | cascadeWindowAccess (a : Agent) (va : Word) (addr : PAddr) (write : Bool) (rd : RegIdx) (data : Word) (answer : RemoteAnswer)
  /-- A remote module serves or denies an access arriving through the cascade (R36). -/
  | cascadeRemoteServe (fromId : ModId) (write : Bool) (addr : PAddr) (size : AccSize) (data : Word)
  /-- A ReadShared reaches the home and is served by the directory table or refused with NACK (R329). -/
  | readShared (r : Requester) (line : LineNo)
  /-- A ReadUnique, with or without WRITE, reaches the home and is served or refused with NACK (R329). -/
  | readUnique (r : Requester) (line : LineNo) (mask : BitVec 64) (data : BitVec 512)
  /-- An Upgrade reaches the home and grants E or is served as a ReadUnique (R329). -/
  | upgrade (c : AppCore) (line : LineNo)
  /-- A WriteBack gives up an M line with data to an SLC cache way (R329). -/
  | writeback (c : AppCore) (line : LineNo)
  /-- An Evict notice gives up an S or E line without data (R329). -/
  | evictNotice (c : AppCore) (line : LineNo)
  /-- A stash hint writes a line and places it in the named L2 or in the SLC (R335). -/
  | stashHint (r : Requester) (core : AppCore) (line : LineNo) (mask : BitVec 64) (data : BitVec 512)
  /-- A SnpShared reaches an L2, answered after any hold time, moving the line to S (R328). -/
  | snpShared (c : AppCore) (line : LineNo)
  /-- A SnpOnce reaches an L2 and is answered without changing its state (R328). -/
  | snpOnce (c : AppCore) (line : LineNo)
  /-- A SnpInvalid reaches an L2 and invalidates its copy (R328). -/
  | snpInvalid (c : AppCore) (line : LineNo)
  /-- SnpData, SnpAck or SnpEvicting reaches the home and completes the open transaction (R336). -/
  | snoopResponse (c : AppCore) (line : LineNo)
  /-- A StashFill delivers a stashed line to the target L2 in M (R335). -/
  | stashFill (c : AppCore) (line : LineNo)
  /-- Data, Comp, NACK or Error reaches the requesting L2 or bridge (R327). -/
  | coherentResponse (line : LineNo)
  /-- A refused requester retries after its backoff or reservation interval (R330). -/
  | nackRetry (r : Requester) (line : LineNo)
  /-- A reserved requester's 64 mesh cycles pass and the next reservation takes its place (R331). -/
  | reservationWindowExpire (slice : Fin 4)
  /-- A line's minimum hold time ends and a delayed snoop or waiting fill proceeds (R332). -/
  | holdTimeExpire (c : AppCore) (line : LineNo)
  /-- A write of DIR_INSP_ADDR looks up a line's directory and SLC state as one snapshot (R345). -/
  | dirInspect (a : Agent) (line : LineNo)
  /-- A write of SLC_RETIRE retires SLC ways after writing back their dirty lines (R342). -/
  | slcRetire (a : Agent) (ways : BitVec 24)
  /-- A write of DIR_L2RET retires L2 ways of a core, or records them pending if the core is off (R343). -/
  | l2WayRetire (a : Agent) (c : AppCore) (ways : BitVec 16)
  /-- A write of DIR_RETIRE retires directory ways by victimising their entries (R344). -/
  | dirWayRetire (a : Agent) (ways : BitVec 12)
  /-- A way retirement completes, BUSY clears and RETDONE sets (R345). -/
  | retirementDone
  /-- A slot begins and its owner, a held grant or the background takes the controller (R388). -/
  | arbSlotBoundary
  /-- A port starts requesting and may preempt a background grant in its slot (R388). -/
  | arbRequest (p : ArbPort)
  /-- A port drops its request and its grant passes to the slot owner or the background (R388). -/
  | arbRequestDrop (p : ArbPort)
  /-- ARB_CTL.SWAP arms a copy of the shadow table and weights at the next rotation boundary (R391). -/
  | arbSwap (a : Agent)
  /-- The controller reads a line, corrects single-bit errors and poisons uncorrectable lines (R373). -/
  | dramRead (p : ArbPort) (line : LineNo) (upset : Upset)
  /-- The controller writes a full line, or performs a partial write as a read-modify-write (R379). -/
  | dramWrite (p : ArbPort) (line : LineNo) (mask : BitVec 64) (data : BitVec 512) (upset : Upset)
  /-- WDG_CMD OP 1 wedges a range of DRAM pages (R384). -/
  | wedgeCmd (a : Agent)
  /-- WDG_CMD OP 2 tests a range with two patterns and then wedges it (R384). -/
  | wedgeTestCmd (a : Agent) (fails : List LineNo)
  /-- WDG_CMD OP 3 is refused with DENIED (R384). -/
  | wedgeReservedOp (a : Agent)
  /-- A run-time or watermark wedge finishes filling its range and BUSY clears (R385). -/
  | wedgeDone
  /-- The patrol scrub reads its next line and corrects or poisons it (R386). -/
  | scrubRead (upset : Upset)
  /-- SHD_POP removes the head entry of the sherd log (R398). -/
  | sherdPop (a : Agent)
  /-- A read of SHD_HEAD0 snapshots the four words of the oldest entry (R398). -/
  | sherdHeadRead (a : Agent) (half : Half)
  /-- Every DECAY_H hours every crazing count is halved (R399). -/
  | crazingDecay
  /-- SHD_CRZ_CNT.CLEAR frees the selected entry and clears ADVISE (R405). -/
  | crazingClear (a : Agent)
  /-- DMC_REMAP_CMD with GO starts copying a page to the lowest unused spare (R401). -/
  | pageRemap (a : Agent) (page : BitVec 32)
  /-- A remap copy finishes, the page is redirected and held accesses are released (R401). -/
  | remapDone
  /-- WMK_REQ with GO judges a watermark change and burns a cone step (R411). -/
  | watermarkChange (a : Agent) (new : BitVec 8) (expect : BitVec 8)
  /-- The invalidation after a raise completes and BUSY clears (R413). -/
  | watermarkRaiseDone
  /-- HOV_W_REQ with GO requests a give or take of a block (R423). -/
  | handoverRequest (a : Agent) (w : World) (block : BitVec 16)
  /-- The requester withdraws a REQUESTED normal take (R424). -/
  | handoverWithdraw (a : Agent) (w : World)
  /-- Secure consent GRANT starts quiescing a REQUESTED take (R424). -/
  | handoverGrant (a : Agent)
  /-- Secure consent REFUSE ends a REQUESTED take with DENIED (R424). -/
  | handoverRefuse (a : Agent)
  /-- Outstanding work completes or QUIESCE_US passes and the block is reset (R425). -/
  | quiesceEnd (dom : DomId) (blk : BitVec 8)
  /-- The block reset completes and the hand-over moves to REASSIGNING (R424). -/
  | blockResetComplete (dom : DomId) (blk : BitVec 8)
  /-- The owner changes, interrupt sources move and a HANDOVER record is written (R317). -/
  | handoverReassign (dom : DomId) (blk : BitVec 8)
  /-- Secure GRANT lets a held normal-world power-down request proceed (R429). -/
  | pmConsentGrant (a : Agent)
  /-- Secure REFUSE ends a held power-down request with DENIED (R429). -/
  | pmConsentRefuse (a : Agent)
  /-- A write of SWD_KICK with NEXT restarts the class period, otherwise sets STALE_HANDLE (R430). -/
  | swdKick (a : Agent) (c : Fin 2) (seq : BitVec 16)
  /-- WARN_MS remain in a class period and its warning bit sets (R430). -/
  | swdWarn (c : Fin 2)
  /-- Class 0 expires and the chip resets after an orderly ledger close (R431). -/
  | swdClass0Expire
  /-- Class 1 expires, TSDOWN sets and the warden core restarts (R431). -/
  | swdClass1Expire
  /-- A domain enters reset, its fence closes at once and crossing requests are settled (R441). -/
  | domainResetEnter (d : DomId)
  /-- A write of ACQ takes a free lock for the writing hart (R443). -/
  | lockAcquire (a : Agent) (n : LockIdx)
  /-- A write of REL by the owner frees the lock and clears BROKEN (R443). -/
  | lockRelease (a : Agent) (n : LockIdx)
  /-- One epoch length passes and the cluster commits (R448). -/
  | epochTimerCommit (c : Cluster)
  /-- EPO_CMD.COMMIT forces an early commit (R448). -/
  | epochCommitCmd (a : Agent) (c : Cluster)
  /-- The last queued output is acknowledged, the checkpoint stands and the harts resume (R453). -/
  | epochCommitDone (c : Cluster)
  /-- A deferred output refused when issued is dropped and recorded in EPO_OUTREF (R451). -/
  | epochOutputRefused (c : Cluster) (idx : Nat) (status : Status)
  /-- A secure EPO_CMD.ROLLBACK rolls the cluster back (R454). -/
  | epochRollbackCmd (a : Agent) (c : Cluster)
  /-- A rollback ends and the harts resume, or the cluster enters FAILED at RBLIMIT (R456). -/
  | epochRollbackDone (c : Cluster)
  /-- EPO_CMD.RESUME rolls a FAILED cluster back once more and runs on (R456). -/
  | epochResume (a : Agent) (c : Cluster)
  /-- The module switches between VSUP and PoDL and writes a SUPPLY record (R462). -/
  | inputSwitchover (toPodl : Bool) (vin : Nat)
  /-- VSUP leaves its range without PoDL, dropping under the dip rules or disconnecting above range (R463). -/
  | vsupOutOfRange (above : Bool) (vin : Nat)
  /-- VSUP has stood in range for 10 ms after an over-voltage disconnect and the module cold-boots (R463). -/
  | vsupRangeStable (vin : Nat)
  /-- A world writes PWR_W_MODEREQ and the governor recomputes the mode (R466). -/
  | modeRequest (a : Agent) (w : World) (req : BitVec 2)
  /-- Each millisecond the governor steps the cluster clock cap against the budget (R468). -/
  | governorPowerSample (draw : BitVec 10)
  /-- The module closes the ledger and powers domains down into Keep (R469). -/
  | keepEntry
  /-- The module closes the ledger, records time and powers everything but AON down (R469). -/
  | sleepEntry
  /-- The governor powers domains up from Keep and cores start at ACC_RESETPC (R470). -/
  | keepExit
  /-- A world sets a PWR_W_DOMREQ.OFF bit, judged and applied or held (R472). -/
  | domainPowerDownReq (a : Agent) (w : World) (d : DomId)
  /-- A world clears a PWR_W_DOMREQ.OFF bit and the domain powers up (R472). -/
  | domainPowerUpReq (a : Agent) (w : World) (d : DomId)
  /-- PWR_W_GATE with GATE 1 gates a block's clock (R472). -/
  | blockClockGate (a : Agent) (w : World) (block : BitVec 16)
  /-- PWR_W_GATE with GATE 0 ungates a block's clock (R472). -/
  | blockClockUngate (a : Agent) (w : World) (block : BitVec 16)
  /-- A domain's PLL locks and the domain leaves reset and is wedged (R473). -/
  | domainPllLock (d : DomId)
  /-- A domain's SRAM wedging completes and its fence opens (R439). -/
  | domainWedgeDone (d : DomId)
  /-- A quiesced domain closes its fence and is isolated (R442). -/
  | domainIsolated (d : DomId)
  /-- Secure software writes PWR_S_CORE with ON, RETAIN or OFF (R474). -/
  | corePowerReq (a : Agent) (c : AppCore) (req : BitVec 2)
  /-- A RETAIN or OFF request is taken once the hart is in WFI (R474). -/
  | corePowerTransition (c : AppCore)
  /-- A cluster clock moves one 100 MHz step toward its new limit (R476). -/
  | apcClockStep (c : Cluster)
  /-- The always-on timer reaches AOT_ALARM and the alarm fires (R479). -/
  | aotAlarmFire
  /-- A 64 s average completes and AOT_RATE is set from the measured source period (R477). -/
  | aotRateLearn (period : BitVec 48)
  /-- An enabled wake source fires, sets WAKE_CAUSE and sets both mode requests to Full (R481). -/
  | wakeEvent (src : WakeSrc)
  /-- A timekeeper writes WAKE_SWREQ as a wake source in Keep (R480). -/
  | wakeSwRequest (a : Agent)
  /-- The input falls below WARN and the clusters are clamped to 400 MHz (R483). -/
  | dipStart (vin : Nat)
  /-- The input has stayed at or above RESTORE for 1 ms and the clamp lifts (R484). -/
  | dipEnd
  /-- The input falls below RESET and the last gasp starts on hold-up (R485). -/
  | supplyBelowReset (vin : Nat)
  /-- The hold-up ends and every domain except AON enters reset (R485). -/
  | holdupEnd
  /-- The input has stood at or above RESTORE for 10 ms and the module cold-boots (R485). -/
  | resetRecovery
  /-- The input falls below 4.5 V, AON stops and the always-on timer loses valid time (R542). -/
  | aonDropout
  /-- A haltreq halts a hart in a permitted world or stays pending (R492). -/
  | haltRequest (h : Hart)
  /-- A resumereq returns a halted hart to execution (R490). -/
  | resumeRequest (h : Hart)
  /-- An abstract command accesses a register or memory of a halted hart within the world's rights (R493). -/
  | abstractCommand (h : Hart) (c : AbsCmd)
  /-- A system bus access is performed with DAP_SBCTL.WORLD or refused by the enables (R494). -/
  | systemBusAccess (write : Bool) (addr : PAddr) (size : AccSize) (data : Word)
  /-- A write of XTRG_PULSE sends an event on the named channels (R498). -/
  | xtrgPulse (a : Agent) (ch : BitVec 16)
  /-- DAP_LOCKREL with GO withdraws a lock grant for the debugger (R500). -/
  | dapLockRelease (a : Agent) (n : LockIdx)
  /-- A write of CWD_KICK reloads the per-core watchdog (R519). -/
  | cwdKick (a : Agent) (c : AppCore)
  /-- A per-core watchdog expires, raising its source or restarting the core (R501). -/
  | cwdExpire (c : AppCore)
  /-- dmactive goes to 1 and software power-downs are emulated (R503). -/
  | debugAttach
  /-- dmactive goes to 0 and emulated-off units power down for real (R504). -/
  | debugDetach
  /-- A counter write stands over a same-clock increment while any wrap still carries (R509). -/
  | pmuCounterWrite (a : Agent) (b : PmuBlock) (k : BitVec 7) (v : BitVec 32) (inc : Bool)
  /-- A read of PMU_SNAP latches two adjacent counters at one clock (R508). -/
  | pmuSnapRead (a : Agent) (b : PmuBlock)
  /-- A bandwidth window ends and LAST, PEAK and BWSEQ update (R511). -/
  | bwWindowEnd
  /-- A write of WIN_US restarts the windows and clears LAST and PEAK (R511). -/
  | bwWindowRestart (a : Agent) (us : BitVec 20)
  /-- CLRPEAK clears every PEAK register (R511). -/
  | bwClearPeak (a : Agent)
  /-- Every 250 µs a module sends a heartbeat on each up link (R523). -/
  | heartbeatSend
  /-- A heartbeat marks its sender present, settles mastership, is relayed and counts as a Sync on the time link (R526). -/
  | heartbeatReceive (l : LinkIdx) (hb : Heartbeat)
  /-- Four heartbeat periods pass with no heartbeat and the module counts as absent (R523). -/
  | moduleAbsent (k : ModId)
  /-- A 1 ms listen ends without MASTER heard and the lowest present ID becomes master (R524). -/
  | cascadeListenEnd
  /-- A cascade link trains with distinct IDs and a good key, and comes up (R521). -/
  | cascadeLinkUp (l : LinkIdx) (partner : ModId) (sameKey : Bool)
  /-- A cascade link goes down and in-flight window accesses to unreachable modules complete UNAVAILABLE (R532). -/
  | cascadeLinkDown (l : LinkIdx)
  /-- Every 10 ms an enabled link that is down retries training (R521). -/
  | cascadeLinkRetrain (l : LinkIdx) (partner : ModId) (sameKey : Bool)
  /-- Every 125 ms a link measures its path delay by a two-way exchange (R526). -/
  | cascadePdelayMeasure (l : LinkIdx) (delay : Word)
  /-- CSC_KEYCMD.GO burns a port key cone step and installs the staged key (R522). -/
  | cscKeyInstall (a : Agent)
  /-- Setting VALID in a forward rule asks the master for a CSID (R529). -/
  | forwardRuleValid (a : Agent) (n : Fin 64)
  /-- A forwarded unit arrives with its source stamp and enters classification at the destination (R530). -/
  | forwardedUnitReceive (u : FwdUnit)
  /-- A SEND to another module's mailbox crosses the links or returns UNAVAILABLE (R531). -/
  | cascadeMbxSend (a : Agent) (k : ModId) (expseq : BitVec 16)
  /-- A cascade message arrives whole and is delivered to the receiving mailbox (R531). -/
  | cascadeMbxDeliver (k : ModId) (m : MbxIn)
  /-- At each tick of the 250 MHz time clock every domain accumulator adds its rate word, with any slew in progress taken up at tick granularity (R74). -/
  | timeClockTick (n : Nat)
  /-- At each edge of the 32.768 kHz source the always-on timer is loaded from domain 0 with offsets and state recorded while TKD is ON, or adds AOT_RATE while it runs free (R100). -/
  | alwaysOnEdge
  /-- The input rises to or above RESTORE and the 1 ms (during a dip) or 10 ms (after reset) restore count starts (R484). -/
  | inputAboveRestore (vin : Nat)
  /-- The PCIe root port's link comes up, making the PCIe lead class present and the NVMe store reachable (R135). -/
  | pcieLinkUp
  /-- The PCIe root port's link goes down, so the PCIe class is absent and ledger resume and NVMe writes fail (R265). -/
  | pcieLinkDown
  /-- An error on the CAN bus changes the controller's error counts and may move it into error passive or back to error active (R243). -/
  | canBusError (c : Fin 2) (tec : BitVec 8) (rec : BitVec 8)
  deriving DecidableEq, Repr

end Sys2Proof
end

