-- ==== Sys2Proof/Machine/Bits.lean ====
section
/-! DEFINITION. Bit fields, two's complement and byte order: the helpers every chapter uses.
All are plain arithmetic on natural numbers, so a field of `w` bits is a number below `2 ^ w`. -/

namespace Sys2Proof.Machine

/-- Bits `[lo + w - 1 : lo]` of `x`. -/
def bitsOf (x lo w : Nat) : Nat := x / 2 ^ lo % 2 ^ w

/-- `x` with its bits `[lo + w - 1 : lo]` replaced by the low `w` bits of `v`. -/
def putBits (x lo w v : Nat) : Nat :=
  2 ^ (lo + w) * (x / 2 ^ (lo + w)) + 2 ^ lo * (v % 2 ^ w) + x % 2 ^ lo

/-- Bit `i` of `x`. -/
def bitAt (x i : Nat) : Bool := bitsOf x i 1 == 1

/-- 1 for true, 0 for false. -/
def b2n (b : Bool) : Nat := if b then 1 else 0

/-- The integer that `w` bits hold in two's complement. -/
def toSigned (w n : Nat) : Int :=
  if n % 2 ^ w < 2 ^ (w - 1) then (n % 2 ^ w : Nat) else (n % 2 ^ w : Nat) - (2 ^ w : Nat)

/-- An integer in `w` bits of two's complement (R18). -/
def ofSigned (w : Nat) (i : Int) : Nat := (i % (2 ^ w : Nat)).toNat

/-- The low `n` bytes of `x`, byte 0 first (R8). -/
def leBytes : Nat → Nat → List Byte
  | 0, _ => []
  | n + 1, x => BitVec.ofNat 8 x :: leBytes n (x / 256)

/-- The number that bytes hold, byte 0 least significant (R8). -/
def leNat : List Byte → Nat
  | [] => 0
  | b :: bs => b.toNat + 256 * leNat bs

/-- The number that bytes hold, the first byte most significant. -/
def beNat (bs : List Byte) : Nat := bs.foldl (fun a b => 256 * a + b.toNat) 0

/-- `n` bytes of `x`, the most significant first. -/
def beBytes (n x : Nat) : List Byte := (leBytes n x).reverse

/-- Fields laid into a number: each is an offset in bits, a width and a value. -/
def packBits : List (Nat × Nat × Nat) → Nat
  | [] => 0
  | (lo, w, v) :: r => 2 ^ lo * (v % 2 ^ w) + packBits r

/-- Floor of the logarithm to base 2, at most `fuel`. -/
def log2Up : Nat → Nat → Nat
  | 0, _ => 0
  | fuel + 1, n => if n ≤ 1 then 0 else 1 + log2Up fuel ((n + 1) / 2)

/-- The lowest set bit of `x` below `n`, if any. -/
def lowestSet (n x : Nat) : Option Nat := (List.range n).find? (fun i => bitAt x i)

/-- How many of the low `n` bits of `x` are 1. -/
def popCount (n x : Nat) : Nat := ((List.range n).filter (fun i => bitAt x i)).length

/-- The values `l` holds at `i`, or `d`. -/
def listAt {α : Type} (l : List α) (i : Nat) (d : α) : α := l.getD i d

/-- `base + k` saturating at `2 ^ w - 1`. -/
def satAdd (w base k : Nat) : Nat := if base + k < 2 ^ w then base + k else 2 ^ w - 1

/-- Insert `a` before the first element it comes before. -/
def insBefore {α : Type} (lt : α → α → Bool) (a : α) : List α → List α
  | [] => [a]
  | b :: r => if lt a b then a :: b :: r else b :: insBefore lt a r

/-- The list in the order of `lt`; elements that are equal in it keep their order. -/
def insSort {α : Type} (lt : α → α → Bool) (l : List α) : List α := l.foldl (fun r a => insBefore lt a r) []

end Sys2Proof.Machine
end

