-- ==== Sys2Proof/Machine/Hash.lean ====
section
/-! DEFINITION. The published algorithms the spec names: CRC-32 (IEEE 802.3), CRC-32C, SHA-256,
SHA-384 and ECDSA P-384 verification (FIPS 180-4, FIPS 186-5). -/

namespace Sys2Proof.Machine

/-- One bit of a reflected CRC with polynomial `p`. -/
def crcBit (p c : Nat) : Nat := if c % 2 == 1 then Nat.xor (c / 2) p else c / 2

/-- One byte of a reflected CRC. -/
def crcByte (p c b : Nat) : Nat :=
  crcBit p (crcBit p (crcBit p (crcBit p (crcBit p (crcBit p (crcBit p (crcBit p (Nat.xor c b))))))))

/-- A reflected 32-bit CRC of bytes, start and final inversion all ones. -/
def crcReflected (p : Nat) (bs : List Byte) : Nat :=
  Nat.xor (bs.foldl (fun c b => crcByte p c b.toNat) 0xFFFFFFFF) 0xFFFFFFFF

/-- CRC-32 with the IEEE 802.3 polynomial. -/
def crc32 (bs : List Byte) : Nat := crcReflected 0xEDB88320 bs

/-- CRC-32C (Castagnoli). -/
def crc32c (bs : List Byte) : Nat := crcReflected 0x82F63B78 bs

/-- Rotation right of a `w`-bit number. -/
def rotR (w n x : Nat) : Nat := x / 2 ^ n + x % 2 ^ n * 2 ^ (w - n)

/-- The round constants of SHA-256. -/
def sha256K : List Nat :=
  [0x428a2f98, 0x71374491, 0xb5c0fbcf, 0xe9b5dba5, 0x3956c25b, 0x59f111f1, 0x923f82a4, 0xab1c5ed5, 0xd807aa98, 0x12835b01, 0x243185be, 0x550c7dc3, 0x72be5d74, 0x80deb1fe, 0x9bdc06a7, 0xc19bf174] ++
  [0xe49b69c1, 0xefbe4786, 0xfc19dc6, 0x240ca1cc, 0x2de92c6f, 0x4a7484aa, 0x5cb0a9dc, 0x76f988da, 0x983e5152, 0xa831c66d, 0xb00327c8, 0xbf597fc7, 0xc6e00bf3, 0xd5a79147, 0x6ca6351, 0x14292967] ++
  [0x27b70a85, 0x2e1b2138, 0x4d2c6dfc, 0x53380d13, 0x650a7354, 0x766a0abb, 0x81c2c92e, 0x92722c85, 0xa2bfe8a1, 0xa81a664b, 0xc24b8b70, 0xc76c51a3, 0xd192e819, 0xd6990624, 0xf40e3585, 0x106aa070] ++
  [0x19a4c116, 0x1e376c08, 0x2748774c, 0x34b0bcb5, 0x391c0cb3, 0x4ed8aa4a, 0x5b9cca4f, 0x682e6ff3, 0x748f82ee, 0x78a5636f, 0x84c87814, 0x8cc70208, 0x90befffa, 0xa4506ceb, 0xbef9a3f7, 0xc67178f2]

/-- The round constants of SHA-384. -/
def sha512K : List Nat :=
  [0x428a2f98d728ae22, 0x7137449123ef65cd, 0xb5c0fbcfec4d3b2f, 0xe9b5dba58189dbbc, 0x3956c25bf348b538, 0x59f111f1b605d019, 0x923f82a4af194f9b, 0xab1c5ed5da6d8118, 0xd807aa98a3030242, 0x12835b0145706fbe, 0x243185be4ee4b28c, 0x550c7dc3d5ffb4e2, 0x72be5d74f27b896f, 0x80deb1fe3b1696b1, 0x9bdc06a725c71235, 0xc19bf174cf692694] ++
  [0xe49b69c19ef14ad2, 0xefbe4786384f25e3, 0xfc19dc68b8cd5b5, 0x240ca1cc77ac9c65, 0x2de92c6f592b0275, 0x4a7484aa6ea6e483, 0x5cb0a9dcbd41fbd4, 0x76f988da831153b5, 0x983e5152ee66dfab, 0xa831c66d2db43210, 0xb00327c898fb213f, 0xbf597fc7beef0ee4, 0xc6e00bf33da88fc2, 0xd5a79147930aa725, 0x6ca6351e003826f, 0x142929670a0e6e70] ++
  [0x27b70a8546d22ffc, 0x2e1b21385c26c926, 0x4d2c6dfc5ac42aed, 0x53380d139d95b3df, 0x650a73548baf63de, 0x766a0abb3c77b2a8, 0x81c2c92e47edaee6, 0x92722c851482353b, 0xa2bfe8a14cf10364, 0xa81a664bbc423001, 0xc24b8b70d0f89791, 0xc76c51a30654be30, 0xd192e819d6ef5218, 0xd69906245565a910, 0xf40e35855771202a, 0x106aa07032bbd1b8] ++
  [0x19a4c116b8d2d0c8, 0x1e376c085141ab53, 0x2748774cdf8eeb99, 0x34b0bcb5e19b48a8, 0x391c0cb3c5c95a63, 0x4ed8aa4ae3418acb, 0x5b9cca4f7763e373, 0x682e6ff3d6b2b8a3, 0x748f82ee5defb2fc, 0x78a5636f43172f60, 0x84c87814a1f0ab72, 0x8cc702081a6439ec, 0x90befffa23631e28, 0xa4506cebde82bde9, 0xbef9a3f7b2c67915, 0xc67178f2e372532b] ++
  [0xca273eceea26619c, 0xd186b8c721c0c207, 0xeada7dd6cde0eb1e, 0xf57d4f7fee6ed178, 0x6f067aa72176fba, 0xa637dc5a2c898a6, 0x113f9804bef90dae, 0x1b710b35131c471b, 0x28db77f523047d84, 0x32caab7b40c72493, 0x3c9ebe0a15c9bebc, 0x431d67c49c100d4c, 0x4cc5d4becb3e42b6, 0x597f299cfc657e2a, 0x5fcb6fab3ad6faec, 0x6c44198c4a475817]

/-- The initial hash value of SHA-256. -/
def sha256H : List Nat :=
  [0x6a09e667, 0xbb67ae85, 0x3c6ef372, 0xa54ff53a, 0x510e527f, 0x9b05688c, 0x1f83d9ab, 0x5be0cd19]

/-- The initial hash value of SHA-384. -/
def sha384H : List Nat :=
  [0xcbbb9d5dc1059ed8, 0x629a292a367cd507, 0x9159015a3070dd17, 0x152fecd8f70e5939, 0x67332667ffc00b31, 0x8eb44a8768581511, 0xdb0c2e0d64f98fa7, 0x47b5481dbefa4fa4]

/-- One word of the message schedule: `ws` holds the words so far, the latest first. -/
def shaNextW (w : Nat) (a1 a2 a3 b1 b2 b3 : Nat) (ws : List Nat) : Nat :=
  let x := listAt ws 14 0
  let y := listAt ws 1 0
  let s0 := Nat.xor (Nat.xor (rotR w a1 x) (rotR w a2 x)) (x / 2 ^ a3)
  let s1 := Nat.xor (Nat.xor (rotR w b1 y) (rotR w b2 y)) (y / 2 ^ b3)
  (s1 + listAt ws 6 0 + s0 + listAt ws 15 0) % 2 ^ w

/-- The working variables of a SHA-2 round. -/
structure ShaVars where
  a : Nat
  b : Nat
  c : Nat
  d : Nat
  e : Nat
  f : Nat
  g : Nat
  h : Nat

/-- One round of SHA-2 with word width `w`, round constant `k` and schedule word `m`. -/
def shaRound (w e1 e2 e3 a1 a2 a3 : Nat) (v : ShaVars) (k m : Nat) : ShaVars :=
  let s1 := Nat.xor (Nat.xor (rotR w e1 v.e) (rotR w e2 v.e)) (rotR w e3 v.e)
  let ch := Nat.xor (Nat.land v.e v.f) (Nat.land (2 ^ w - 1 - v.e) v.g)
  let t1 := (v.h + s1 + ch + k + m) % 2 ^ w
  let s0 := Nat.xor (Nat.xor (rotR w a1 v.a) (rotR w a2 v.a)) (rotR w a3 v.a)
  let mj := Nat.xor (Nat.xor (Nat.land v.a v.b) (Nat.land v.a v.c)) (Nat.land v.b v.c)
  let t2 := (s0 + mj) % 2 ^ w
  ⟨(t1 + t2) % 2 ^ w, v.a, v.b, v.c, (v.d + t1) % 2 ^ w, v.e, v.f, v.g⟩

/-- All rounds over a block: the schedule is extended as the rounds go. -/
def shaRounds (w e1 e2 e3 a1 a2 a3 m1 m2 m3 n1 n2 n3 : Nat) :
    List Nat → List Nat → List Nat → ShaVars → ShaVars
  | [], _, _, v => v
  | k :: ks, m :: ms, ws, v =>
    shaRounds w e1 e2 e3 a1 a2 a3 m1 m2 m3 n1 n2 n3 ks ms (m :: ws) (shaRound w e1 e2 e3 a1 a2 a3 v k m)
  | k :: ks, [], ws, v =>
    let m := shaNextW w m1 m2 m3 n1 n2 n3 ws
    shaRounds w e1 e2 e3 a1 a2 a3 m1 m2 m3 n1 n2 n3 ks [] (m :: ws) (shaRound w e1 e2 e3 a1 a2 a3 v k m)

/-- The words of a block, `n` bytes each, most significant byte first. -/
def shaWords (n : Nat) : Nat → List Byte → List Nat
  | 0, _ => []
  | k + 1, bs => beNat (bs.take n) :: shaWords n k (bs.drop n)

/-- The padding of a message of `len` bytes for blocks of `blk` bytes and a length field of `lf` bytes. -/
def shaPad (blk lf len : Nat) : List Byte :=
  [0x80] ++ List.replicate ((2 * blk - 1 - lf - len % blk) % blk) 0 ++ beBytes lf (8 * len)

/-- Add the round result to the hash value, word by word. -/
def shaAdd (w : Nat) (h : List Nat) (v : ShaVars) : List Nat :=
  List.zipWith (fun x y => (x + y) % 2 ^ w) h [v.a, v.b, v.c, v.d, v.e, v.f, v.g, v.h]

/-- The working variables that a hash value starts. -/
def shaVars (h : List Nat) : ShaVars :=
  ⟨listAt h 0 0, listAt h 1 0, listAt h 2 0, listAt h 3 0, listAt h 4 0, listAt h 5 0, listAt h 6 0, listAt h 7 0⟩

/-- SHA-256 of the blocks of a padded message. -/
def sha256Blocks : Nat → List Byte → List Nat → List Nat
  | 0, _, h => h
  | n + 1, bs, h =>
    sha256Blocks n (bs.drop 64)
      (shaAdd 32 h (shaRounds 32 6 11 25 2 13 22 7 18 3 17 19 10 sha256K (shaWords 4 16 bs) [] (shaVars h)))

/-- SHA-256 of a message, as 32 bytes. -/
def sha256 (m : List Byte) : List Byte :=
  let p := m ++ shaPad 64 8 m.length
  (sha256Blocks (p.length / 64) p sha256H).flatMap (beBytes 4)

/-- SHA-384 blocks. -/
def sha384Blocks : Nat → List Byte → List Nat → List Nat
  | 0, _, h => h
  | n + 1, bs, h =>
    sha384Blocks n (bs.drop 128)
      (shaAdd 64 h (shaRounds 64 14 18 41 28 34 39 1 8 7 19 61 6 sha512K (shaWords 8 16 bs) [] (shaVars h)))

/-- SHA-384 of a message, as 48 bytes. -/
def sha384 (m : List Byte) : List Byte :=
  let p := m ++ shaPad 128 16 m.length
  ((sha384Blocks (p.length / 128) p sha384H).take 6).flatMap (beBytes 8)

/-- The prime of P-384. -/
def p384P : Nat := 0xfffffffffffffffffffffffffffffffffffffffffffffffffffffffffffffffeffffffff0000000000000000ffffffff
/-- The order of P-384. -/
def p384N : Nat := 0xffffffffffffffffffffffffffffffffffffffffffffffffc7634d81f4372ddf581a0db248b0a77aecec196accc52973
/-- The coefficient b of P-384. -/
def p384B : Nat := 0xb3312fa7e23ee7e4988e056be3f82d19181d9c6efe8141120314088f5013875ac656398d8a2ed19d2a85c8edd3ec2aef
/-- The x coordinate of the base point of P-384. -/
def p384Gx : Nat := 0xaa87ca22be8b05378eb1c71ef320ad746e1d3b628ba79b9859f741e082542a385502f25dbf55296c3a545e3872760ab7
/-- The y coordinate of the base point of P-384. -/
def p384Gy : Nat := 0x3617de4a96262c6f5d9e98bf9292dc29f8f41dbd289a147ce9da3113b5f0b8c00a60b1ce1d7e819d7a431d7c90ea0e5f

/-- `b ^ e` modulo `m` by squaring, over the low `fuel` bits of `e`. -/
def powMod (m : Nat) : Nat → Nat → Nat → Nat
  | 0, _, _ => 1
  | fuel + 1, b, e =>
    let r := powMod m fuel (b * b % m) (e / 2)
    if e % 2 == 1 then b * r % m else r

/-- The inverse of `x` modulo a prime `m` of 384 bits. -/
def invMod (m x : Nat) : Nat := powMod m 384 (x % m) (m - 2)

/-- The sum of two points of P-384; none is the point at infinity. -/
def p384Add : Option (Nat × Nat) → Option (Nat × Nat) → Option (Nat × Nat)
  | none, q => q
  | p, none => p
  | some (x1, y1), some (x2, y2) =>
    let m := p384P
    if x1 = x2 ∧ (y1 + y2) % m = 0 then none
    else
      let l :=
        if x1 = x2 ∧ y1 = y2 then (3 * x1 * x1 + (m - 3)) % m * invMod m (2 * y1) % m
        else (y2 + (m - y1)) % m * invMod m (x2 + (m - x1)) % m
      let x3 := (l * l + (m - x1) + (m - x2)) % m
      some (x3, (l * (x1 + (m - x3)) + (m - y1)) % m)

/-- A multiple of a point of P-384, over the low `fuel` bits of `k`. -/
def p384Mul : Nat → Nat → Option (Nat × Nat) → Option (Nat × Nat)
  | 0, _, _ => none
  | fuel + 1, k, p =>
    let r := p384Mul fuel (k / 2) (p384Add p p)
    if k % 2 == 1 then p384Add p r else r

/-- ECDSA P-384 verification of signature (`r`, `s`) over the digest `h` with the public key (`qx`, `qy`). -/
def ecdsaP384 (qx qy h r s : Nat) : Bool :=
  let n := p384N
  let onCurve : Bool := decide (qx < p384P) && decide (qy < p384P) &&
    decide (qy * qy % p384P = (qx * qx * qx + (p384P - 3) * qx + p384B) % p384P)
  let inRange : Bool := decide (0 < r) && decide (r < n) && decide (0 < s) && decide (s < n)
  let w := invMod n s
  match p384Add (p384Mul 384 (h * w % n) (some (p384Gx, p384Gy))) (p384Mul 384 (r * w % n) (some (qx, qy))) with
  | none => false
  | some (x, _) => onCurve && inRange && decide (x % n = r)

end Sys2Proof.Machine
end

