-- ==== Sys2Proof/Config.lean ====
section
/-! DEFINITION. What an implementation fixes and the values the specification leaves open.
Each is a constant without a body: nothing is known of its value, so a claim about the model holds for every value. -/

namespace Sys2Proof.Config

/-- A fresh unstated value, by the number of values taken before it (log entry 2). -/
opaque free : Nat → Nat

/-- The set of the forwarding database that an address and a VLAN fall in (R219 gives no hash; log entry 10). -/
opaque fdbSet : Nat → Nat → Nat

/-- The 4 KiB pages of the ledger staging window in which the ledger engine's queues lie: "design" in R269, within the window
by R33 (log entry 11). -/
opaque ldgSqPage : BitVec 8
opaque ldgCqPage : BitVec 8

/-- Bus addresses of the ledger engine's queues (R33, R309). -/
def ldgSqAddr : Nat := 0x38000000 + 4096 * ldgSqPage.toNat
def ldgCqAddr : Nat := 0x38000000 + 4096 * ldgCqPage.toNat

/-- The module's EUI-64 (R254, R111), which manufacture gives (log entry 12). -/
opaque eui : Nat

/-- The rate correction the servo of a preset makes for an offset, from its state so far (R83 names only the loop
bandwidth; log entry 13): domain, preset, offset in 2^-16 ns, rate word. -/
opaque servoRate : Nat → Nat → Int → Nat → Int

end Sys2Proof.Config
end

