-- ==== Sys2Proof/Machine/Regs.lean ====
section
/-! DEFINITION. The registers of the spec by name: the physical address of each (R21, R23 and the register
tables of every chapter) and the place of each field. Index letters are those of the tables.
Generated from the register tables of spec/. -/

namespace Sys2Proof.Machine

/-- A register field: the address of its register, its lowest bit and its width. -/
structure Fld where
  reg : Nat
  lo : Nat
  w : Nat
  deriving DecidableEq, Repr

/-! ### R67 (02_firing_image_and_boot.md) -/

/-- `CONE_STEPS`, R67. -/
def CONE_STEPS : Nat := 0x40040000
def CONE_STEPS_WMK : Fld := ⟨CONE_STEPS, 0, 5⟩
def CONE_STEPS_IMG : Fld := ⟨CONE_STEPS, 8, 7⟩
def CONE_STEPS_DBG : Fld := ⟨CONE_STEPS, 16, 4⟩
def CONE_STEPS_PKEY : Fld := ⟨CONE_STEPS, 24, 3⟩
def CONE_STEPS_KEYSET : Fld := ⟨CONE_STEPS, 27, 1⟩

/-- `CONE_DBG`, R67. -/
def CONE_DBG : Nat := 0x40040008
def CONE_DBG_EN : Fld := ⟨CONE_DBG, 0, 4⟩

/-- `CONE_BURN`, R67. -/
def CONE_BURN : Nat := 0x40040010
def CONE_BURN_CONE : Fld := ⟨CONE_BURN, 0, 3⟩
def CONE_BURN_EXPECT : Fld := ⟨CONE_BURN, 8, 7⟩
def CONE_BURN_VALUE : Fld := ⟨CONE_BURN, 16, 4⟩
def CONE_BURN_GO : Fld := ⟨CONE_BURN, 31, 1⟩

/-- `CONE_RESULT`, R67. -/
def CONE_RESULT : Nat := 0x40040018
def CONE_RESULT_STATUS : Fld := ⟨CONE_RESULT, 0, 8⟩
def CONE_RESULT_BUSY : Fld := ⟨CONE_RESULT, 8, 1⟩
def CONE_RESULT_NEW_STEP : Fld := ⟨CONE_RESULT, 16, 7⟩

/-- `CONE_BR_COUNT`, R67. -/
def CONE_BR_COUNT : Nat := 0x40040020
def CONE_BR_COUNT_COUNT : Fld := ⟨CONE_BR_COUNT, 0, 8⟩

/-- `CONE_KEYHASH`, R67. -/
def CONE_KEYHASH (i : Nat) : Nat := 0x40040040 + 0x8 * i
def CONE_KEYHASH_HASH (i : Nat) : Fld := ⟨CONE_KEYHASH i, 0, 64⟩

/-- `CONE_KEYPROG`, R67. -/
def CONE_KEYPROG (i : Nat) : Nat := 0x40040080 + 0x8 * i
def CONE_KEYPROG_HASH (i : Nat) : Fld := ⟨CONE_KEYPROG i, 0, 64⟩

/-- `CONE_BR`, R67. -/
def CONE_BR (n : Nat) (i : Nat) : Nat := 0x40041000 + 0x20 * n + 0x8 * i
def CONE_BR_VALUE (n : Nat) (i : Nat) : Fld := ⟨CONE_BR n i, 0, 64⟩

/-! ### R68 (02_firing_image_and_boot.md) -/

/-- `FIRE_STATUS`, R68. -/
def FIRE_STATUS : Nat := 0x40050000
def FIRE_STATUS_STAGE : Fld := ⟨FIRE_STATUS, 0, 2⟩
def FIRE_STATUS_SLOT : Fld := ⟨FIRE_STATUS, 2, 1⟩
def FIRE_STATUS_TRIAL : Fld := ⟨FIRE_STATUS, 3, 1⟩
def FIRE_STATUS_FALLBACK : Fld := ⟨FIRE_STATUS, 4, 1⟩
def FIRE_STATUS_PROVISIONAL : Fld := ⟨FIRE_STATUS, 5, 1⟩
def FIRE_STATUS_STRUCT_LOCK : Fld := ⟨FIRE_STATUS, 6, 1⟩
def FIRE_STATUS_COMMITTED : Fld := ⟨FIRE_STATUS, 7, 1⟩
def FIRE_STATUS_REASON : Fld := ⟨FIRE_STATUS, 8, 4⟩
def FIRE_STATUS_ROLLBACK : Fld := ⟨FIRE_STATUS, 16, 7⟩

/-- `FIRE_IMGVER`, R68. -/
def FIRE_IMGVER : Nat := 0x40050008
def FIRE_IMGVER_IMGVER : Fld := ⟨FIRE_IMGVER, 0, 32⟩

/-- `FIRE_HASH`, R68. -/
def FIRE_HASH (i : Nat) : Nat := 0x40050010 + 0x8 * i
def FIRE_HASH_HASH (i : Nat) : Fld := ⟨FIRE_HASH i, 0, 64⟩

/-- `FIRE_CTL`, R68. -/
def FIRE_CTL : Nat := 0x40050040
def FIRE_CTL_COMMIT : Fld := ⟨FIRE_CTL, 0, 1⟩
def FIRE_CTL_NWREL : Fld := ⟨FIRE_CTL, 1, 1⟩
def FIRE_CTL_REBOOT : Fld := ⟨FIRE_CTL, 2, 1⟩
def FIRE_CTL_TRIAL_ARM : Fld := ⟨FIRE_CTL, 3, 1⟩
def FIRE_CTL_TRIES : Fld := ⟨FIRE_CTL, 8, 4⟩

/-- `FIRE_RESULT`, R68. -/
def FIRE_RESULT : Nat := 0x40050048
def FIRE_RESULT_STATUS : Fld := ⟨FIRE_RESULT, 0, 8⟩

/-- `FIRE_FL_ADDR`, R68. -/
def FIRE_FL_ADDR : Nat := 0x40050080
def FIRE_FL_ADDR_ADDR : Fld := ⟨FIRE_FL_ADDR, 0, 26⟩

/-- `FIRE_FL_DATA`, R68. -/
def FIRE_FL_DATA : Nat := 0x40050088
def FIRE_FL_DATA_DATA : Fld := ⟨FIRE_FL_DATA, 0, 64⟩

/-- `FIRE_FL_CMD`, R68. -/
def FIRE_FL_CMD : Nat := 0x40050090
def FIRE_FL_CMD_OP : Fld := ⟨FIRE_FL_CMD, 0, 2⟩
def FIRE_FL_CMD_BUSY : Fld := ⟨FIRE_FL_CMD, 31, 1⟩

/-- `FIRE_FL_STAT`, R68. -/
def FIRE_FL_STAT : Nat := 0x40050098
def FIRE_FL_STAT_STATUS : Fld := ⟨FIRE_FL_STAT, 0, 8⟩

/-! ### R111 (03_vehicle_time.md) -/

/-- `VT_CTL`, R111. -/
def VT_CTL : Nat := 0x42000000
def VT_CTL_SNAP : Fld := ⟨VT_CTL, 0, 1⟩
def VT_CTL_DOMEN : Fld := ⟨VT_CTL, 1, 3⟩

/-- `VT_STATUS`, R111. -/
def VT_STATUS : Nat := 0x42000008
def VT_STATUS_STATE (d : Nat) : Fld := ⟨VT_STATUS, 0 + 4 * d, 3⟩
def VT_STATUS_AOT_LOADED : Fld := ⟨VT_STATUS, 16, 1⟩

/-- `VT_NOW`, R111. -/
def VT_NOW (d : Nat) : Nat := 0x42000010 + 0x8 * d
def VT_NOW_VT (d : Nat) : Fld := ⟨VT_NOW d, 0, 64⟩

/-- `VT_DSEQ`, R111. -/
def VT_DSEQ (d : Nat) : Nat := 0x42000040 + 0x8 * d
def VT_DSEQ_DSEQ (d : Nat) : Fld := ⟨VT_DSEQ d, 0, 16⟩

/-- `VT_SNAP_LO`, R111. -/
def VT_SNAP_LO (d : Nat) : Nat := 0x42000100 + 0x10 * d
def VT_SNAP_LO_FRAC (d : Nat) : Fld := ⟨VT_SNAP_LO d, 0, 16⟩
def VT_SNAP_LO_NS (d : Nat) : Fld := ⟨VT_SNAP_LO d, 16, 32⟩

/-- `VT_SNAP_HI`, R111. -/
def VT_SNAP_HI (d : Nat) : Nat := 0x42000108 + 0x10 * d
def VT_SNAP_HI_SEC (d : Nat) : Fld := ⟨VT_SNAP_HI d, 0, 48⟩
def VT_SNAP_HI_DSEQ (d : Nat) : Fld := ⟨VT_SNAP_HI d, 48, 16⟩

/-- `VT_DOM_CFG`, R111. -/
def VT_DOM_CFG (d : Nat) : Nat := 0x42000200 + 0x8 * d
def VT_DOM_CFG_GPTP_DN (d : Nat) : Fld := ⟨VT_DOM_CFG d, 0, 7⟩
def VT_DOM_CFG_UTC_OFFSET (d : Nat) : Fld := ⟨VT_DOM_CFG d, 16, 16⟩

/-- `VT_IRQ_STATUS`, R111. -/
def VT_IRQ_STATUS : Nat := 0x42000300
def VT_IRQ_STATUS_DISC : Fld := ⟨VT_IRQ_STATUS, 0, 4⟩
def VT_IRQ_STATUS_STATE : Fld := ⟨VT_IRQ_STATUS, 4, 4⟩
def VT_IRQ_STATUS_CLAMP : Fld := ⟨VT_IRQ_STATUS, 8, 1⟩

/-- `VT_IRQ_EN`, R111. -/
def VT_IRQ_EN : Nat := 0x42000308
def VT_IRQ_EN_EN : Fld := ⟨VT_IRQ_EN, 0, 9⟩

/-- `VT_LASTJ_OLD`, R111. -/
def VT_LASTJ_OLD : Nat := 0x42000310
def VT_LASTJ_OLD_VT : Fld := ⟨VT_LASTJ_OLD, 0, 64⟩

/-- `VT_LASTJ_NEW`, R111. -/
def VT_LASTJ_NEW : Nat := 0x42000318
def VT_LASTJ_NEW_VT : Fld := ⟨VT_LASTJ_NEW, 0, 64⟩

/-- `VT_LASTJ_INFO`, R111. -/
def VT_LASTJ_INFO : Nat := 0x42000320
def VT_LASTJ_INFO_DOM : Fld := ⟨VT_LASTJ_INFO, 0, 2⟩
def VT_LASTJ_INFO_CAUSE : Fld := ⟨VT_LASTJ_INFO, 2, 2⟩
def VT_LASTJ_INFO_DSEQ : Fld := ⟨VT_LASTJ_INFO, 16, 16⟩

/-! ### R112 (03_vehicle_time.md) -/

/-- `DISC_CTL`, R112. -/
def DISC_CTL (d : Nat) : Nat := 0x42004000 + 0x100 * d
def DISC_CTL_MODE (d : Nat) : Fld := ⟨DISC_CTL d, 0, 1⟩
def DISC_CTL_PRESET (d : Nat) : Fld := ⟨DISC_CTL d, 1, 2⟩
def DISC_CTL_SWSTATE (d : Nat) : Fld := ⟨DISC_CTL d, 4, 3⟩

/-- `DISC_RATE`, R112. -/
def DISC_RATE (d : Nat) : Nat := 0x42004008 + 0x100 * d
def DISC_RATE_RATE (d : Nat) : Fld := ⟨DISC_RATE d, 0, 64⟩

/-- `DISC_STEP`, R112. -/
def DISC_STEP (d : Nat) : Nat := 0x42004010 + 0x100 * d
def DISC_STEP_OFFSET (d : Nat) : Fld := ⟨DISC_STEP d, 0, 64⟩

/-- `DISC_SET_S`, R112. -/
def DISC_SET_S (d : Nat) : Nat := 0x42004018 + 0x100 * d
def DISC_SET_S_SEC (d : Nat) : Fld := ⟨DISC_SET_S d, 0, 48⟩

/-- `DISC_SET_NS`, R112. -/
def DISC_SET_NS (d : Nat) : Nat := 0x42004020 + 0x100 * d
def DISC_SET_NS_NS (d : Nat) : Fld := ⟨DISC_SET_NS d, 0, 32⟩

/-- `DISC_GO`, R112. -/
def DISC_GO (d : Nat) : Nat := 0x42004028 + 0x100 * d
def DISC_GO_OP (d : Nat) : Fld := ⟨DISC_GO d, 0, 2⟩
def DISC_GO_SLEW_PPM (d : Nat) : Fld := ⟨DISC_GO d, 16, 10⟩

/-- `DISC_STATUS`, R112. -/
def DISC_STATUS (d : Nat) : Nat := 0x42004030 + 0x100 * d
def DISC_STATUS_RESULT (d : Nat) : Fld := ⟨DISC_STATUS d, 0, 8⟩
def DISC_STATUS_BUSY (d : Nat) : Fld := ⟨DISC_STATUS d, 8, 1⟩
def DISC_STATUS_SLEWING (d : Nat) : Fld := ⟨DISC_STATUS d, 9, 1⟩
def DISC_STATUS_CLAMPED (d : Nat) : Fld := ⟨DISC_STATUS d, 10, 1⟩

/-- `DISC_REMAIN`, R112. -/
def DISC_REMAIN (d : Nat) : Nat := 0x42004038 + 0x100 * d
def DISC_REMAIN_OFFSET (d : Nat) : Fld := ⟨DISC_REMAIN d, 0, 64⟩

/-- `DISC_OFFSET`, R112. -/
def DISC_OFFSET (d : Nat) : Nat := 0x42004040 + 0x100 * d
def DISC_OFFSET_OFFSET (d : Nat) : Fld := ⟨DISC_OFFSET d, 0, 64⟩

/-- `DISC_THR`, R112. -/
def DISC_THR (d : Nat) : Nat := 0x42004048 + 0x100 * d
def DISC_THR_JUMP_THR (d : Nat) : Fld := ⟨DISC_THR d, 0, 32⟩
def DISC_THR_LOCK_THR (d : Nat) : Fld := ⟨DISC_THR d, 32, 16⟩
def DISC_THR_LOCK_COUNT (d : Nat) : Fld := ⟨DISC_THR d, 48, 8⟩

/-! ### R113 (03_vehicle_time.md) -/

/-- `PTP_CLKID`, R113. -/
def PTP_CLKID : Nat := 0x42008000
def PTP_CLKID_ID : Fld := ⟨PTP_CLKID, 0, 64⟩

/-- `PTP_D_PRIO`, R113. -/
def PTP_D_PRIO (d : Nat) : Nat := 0x42008100 + 0x40 * d
def PTP_D_PRIO_PRIO1 (d : Nat) : Fld := ⟨PTP_D_PRIO d, 0, 8⟩
def PTP_D_PRIO_PRIO2 (d : Nat) : Fld := ⟨PTP_D_PRIO d, 8, 8⟩
def PTP_D_PRIO_CLASS (d : Nat) : Fld := ⟨PTP_D_PRIO d, 16, 8⟩
def PTP_D_PRIO_ACCURACY (d : Nat) : Fld := ⟨PTP_D_PRIO d, 24, 8⟩
def PTP_D_PRIO_VARIANCE (d : Nat) : Fld := ⟨PTP_D_PRIO d, 32, 16⟩
def PTP_D_PRIO_SOURCE (d : Nat) : Fld := ⟨PTP_D_PRIO d, 48, 8⟩

/-- `PTP_D_INTV`, R113. -/
def PTP_D_INTV (d : Nat) : Nat := 0x42008108 + 0x40 * d
def PTP_D_INTV_LOG_SYNC (d : Nat) : Fld := ⟨PTP_D_INTV d, 0, 8⟩
def PTP_D_INTV_LOG_ANN (d : Nat) : Fld := ⟨PTP_D_INTV d, 8, 8⟩
def PTP_D_INTV_LOG_PDLY (d : Nat) : Fld := ⟨PTP_D_INTV d, 16, 8⟩
def PTP_D_INTV_SYNC_TO (d : Nat) : Fld := ⟨PTP_D_INTV d, 24, 4⟩
def PTP_D_INTV_ANN_TO (d : Nat) : Fld := ⟨PTP_D_INTV d, 28, 4⟩

/-- `PTP_D_GMID`, R113. -/
def PTP_D_GMID (d : Nat) : Nat := 0x42008110 + 0x40 * d
def PTP_D_GMID_ID (d : Nat) : Fld := ⟨PTP_D_GMID d, 0, 64⟩

/-- `PTP_D_GMINFO`, R113. -/
def PTP_D_GMINFO (d : Nat) : Nat := 0x42008118 + 0x40 * d
def PTP_D_GMINFO_STEPS (d : Nat) : Fld := ⟨PTP_D_GMINFO d, 0, 16⟩
def PTP_D_GMINFO_TBI (d : Nat) : Fld := ⟨PTP_D_GMINFO d, 16, 16⟩

/-- `PTP_P_CFG`, R113. -/
def PTP_P_CFG (p : Nat) : Nat := 0x42009000 + 0x100 * p
def PTP_P_CFG_ONESTEP (p : Nat) : Fld := ⟨PTP_P_CFG p, 0, 1⟩
def PTP_P_CFG_ROLE (p : Nat) : Fld := ⟨PTP_P_CFG p, 1, 3⟩
def PTP_P_CFG_DMASK (p : Nat) : Fld := ⟨PTP_P_CFG p, 4, 4⟩
def PTP_P_CFG_CMLDS (p : Nat) : Fld := ⟨PTP_P_CFG p, 8, 1⟩

/-- `PTP_P_STATE`, R113. -/
def PTP_P_STATE (p : Nat) : Nat := 0x42009008 + 0x100 * p
def PTP_P_STATE_STATE (p : Nat) (d : Nat) : Fld := ⟨PTP_P_STATE p, 0 + 4 * d, 4⟩

/-- `PTP_P_LAT`, R113. -/
def PTP_P_LAT (p : Nat) : Nat := 0x42009010 + 0x100 * p
def PTP_P_LAT_INGRESS (p : Nat) : Fld := ⟨PTP_P_LAT p, 0, 16⟩
def PTP_P_LAT_EGRESS (p : Nat) : Fld := ⟨PTP_P_LAT p, 16, 16⟩

/-- `PTP_P_ASYM`, R113. -/
def PTP_P_ASYM (p : Nat) : Nat := 0x42009018 + 0x100 * p
def PTP_P_ASYM_ASYM (p : Nat) : Fld := ⟨PTP_P_ASYM p, 0, 32⟩

/-- `PTP_P_PDLY`, R113. -/
def PTP_P_PDLY (p : Nat) : Nat := 0x42009020 + 0x100 * p
def PTP_P_PDLY_DELAY (p : Nat) : Fld := ⟨PTP_P_PDLY p, 0, 64⟩

/-- `PTP_P_NRR`, R113. -/
def PTP_P_NRR (p : Nat) : Nat := 0x42009028 + 0x100 * p
def PTP_P_NRR_OFFSET (p : Nat) : Fld := ⟨PTP_P_NRR p, 0, 32⟩

/-- `PTP_P_FIXED`, R113. -/
def PTP_P_FIXED (p : Nat) : Nat := 0x42009030 + 0x100 * p
def PTP_P_FIXED_DELAY (p : Nat) : Fld := ⟨PTP_P_FIXED p, 0, 32⟩

/-- `PTP_P_CNT`, R113. -/
def PTP_P_CNT (p : Nat) : Nat := 0x42009038 + 0x100 * p
def PTP_P_CNT_RX_DROP (p : Nat) : Fld := ⟨PTP_P_CNT p, 0, 16⟩
def PTP_P_CNT_SYNC_TO (p : Nat) : Fld := ⟨PTP_P_CNT p, 16, 16⟩

/-! ### R114 (03_vehicle_time.md) -/

/-- `TP_CFG`, R114. -/
def TP_CFG (n : Nat) : Nat := 0x42010000 + 0x40 * n
def TP_CFG_FUNC (n : Nat) : Fld := ⟨TP_CFG n, 0, 2⟩
def TP_CFG_POL (n : Nat) : Fld := ⟨TP_CFG n, 2, 1⟩
def TP_CFG_DOM (n : Nat) : Fld := ⟨TP_CFG n, 3, 2⟩
def TP_CFG_LEDGER (n : Nat) : Fld := ⟨TP_CFG n, 5, 1⟩
def TP_CFG_SRC (n : Nat) : Fld := ⟨TP_CFG n, 6, 1⟩
def TP_CFG_EDGE (n : Nat) : Fld := ⟨TP_CFG n, 8, 2⟩
def TP_CFG_DEGLITCH (n : Nat) : Fld := ⟨TP_CFG n, 12, 4⟩
def TP_CFG_LEVEL_SET (n : Nat) : Fld := ⟨TP_CFG n, 16, 1⟩
def TP_CFG_LEVEL_CLR (n : Nat) : Fld := ⟨TP_CFG n, 17, 1⟩

/-- `TP_GEN_ANCHOR`, R114. -/
def TP_GEN_ANCHOR (n : Nat) : Nat := 0x42010008 + 0x40 * n
def TP_GEN_ANCHOR_VT (n : Nat) : Fld := ⟨TP_GEN_ANCHOR n, 0, 64⟩

/-- `TP_GEN_PERIOD`, R114. -/
def TP_GEN_PERIOD (n : Nat) : Nat := 0x42010010 + 0x40 * n
def TP_GEN_PERIOD_NS (n : Nat) : Fld := ⟨TP_GEN_PERIOD n, 0, 32⟩

/-- `TP_GEN_WIDTH`, R114. -/
def TP_GEN_WIDTH (n : Nat) : Nat := 0x42010018 + 0x40 * n
def TP_GEN_WIDTH_NS (n : Nat) : Fld := ⟨TP_GEN_WIDTH n, 0, 32⟩

/-- `TP_GEN_CTL`, R114. -/
def TP_GEN_CTL (n : Nat) : Nat := 0x42010020 + 0x40 * n
def TP_GEN_CTL_RUN (n : Nat) : Fld := ⟨TP_GEN_CTL n, 0, 1⟩
def TP_GEN_CTL_ACTIVE (n : Nat) : Fld := ⟨TP_GEN_CTL n, 1, 1⟩

/-- `TP_CAPX`, R114. -/
def TP_CAPX (n : Nat) : Nat := 0x42010028 + 0x40 * n
def TP_CAPX_FRAC (n : Nat) : Fld := ⟨TP_CAPX n, 0, 16⟩
def TP_CAPX_RISE (n : Nat) : Fld := ⟨TP_CAPX n, 16, 1⟩
def TP_CAPX_VALID (n : Nat) : Fld := ⟨TP_CAPX n, 17, 1⟩
def TP_CAPX_LOST (n : Nat) : Fld := ⟨TP_CAPX n, 18, 1⟩
def TP_CAPX_QUAL (n : Nat) : Fld := ⟨TP_CAPX n, 19, 2⟩
def TP_CAPX_DSEQ (n : Nat) : Fld := ⟨TP_CAPX n, 24, 8⟩

/-- `TP_CAP`, R114. -/
def TP_CAP (n : Nat) : Nat := 0x42010030 + 0x40 * n
def TP_CAP_VT (n : Nat) : Fld := ⟨TP_CAP n, 0, 64⟩

/-- `TP_STAT`, R114. -/
def TP_STAT (n : Nat) : Nat := 0x42010038 + 0x40 * n
def TP_STAT_DEPTH (n : Nat) : Fld := ⟨TP_STAT n, 0, 5⟩
def TP_STAT_LOST (n : Nat) : Fld := ⟨TP_STAT n, 8, 8⟩
def TP_STAT_DROPPED (n : Nat) : Fld := ⟨TP_STAT n, 16, 16⟩

/-- `TP_IRQ_STATUS`, R114. -/
def TP_IRQ_STATUS : Nat := 0x42010400
def TP_IRQ_STATUS_CAP : Fld := ⟨TP_IRQ_STATUS, 0, 16⟩

/-- `TP_IRQ_EN`, R114. -/
def TP_IRQ_EN : Nat := 0x42010408
def TP_IRQ_EN_EN : Fld := ⟨TP_IRQ_EN, 0, 16⟩

/-! ### R154 (04_time_wheel.md) -/

/-- `TWH_CTL`, R154. -/
def TWH_CTL : Nat := 0x42020000
def TWH_CTL_CAL : Fld := ⟨TWH_CTL, 0, 1⟩
def TWH_CTL_CALBUSY : Fld := ⟨TWH_CTL, 1, 1⟩

/-- `TWH_PART`, R154. -/
def TWH_PART : Nat := 0x42020008
def TWH_PART_SECURE : Fld := ⟨TWH_PART, 0, 17⟩
def TWH_PART_NORMAL : Fld := ⟨TWH_PART, 32, 17⟩

/-- `TWH_HORIZON`, R154. -/
def TWH_HORIZON : Nat := 0x42020010
def TWH_HORIZON_USED : Fld := ⟨TWH_HORIZON, 0, 7⟩
def TWH_HORIZON_COARSE : Fld := ⟨TWH_HORIZON, 16, 16⟩

/-- `TWH_LATECNT`, R154. -/
def TWH_LATECNT : Nat := 0x42020018
def TWH_LATECNT_LATE : Fld := ⟨TWH_LATECNT, 0, 32⟩

/-- `TWH_LEAD`, R154. -/
def TWH_LEAD (k : Nat) : Nat := 0x42020100 + 0x8 * k
def TWH_LEAD_NS (k : Nat) : Fld := ⟨TWH_LEAD k, 0, 16⟩
def TWH_LEAD_MEAS (k : Nat) : Fld := ⟨TWH_LEAD k, 16, 1⟩

/-- `TWH_INSP_IDX`, R154. -/
def TWH_INSP_IDX : Nat := 0x42020200
def TWH_INSP_IDX_INDEX : Fld := ⟨TWH_INSP_IDX, 0, 16⟩

/-- `TWH_INSP`, R154. -/
def TWH_INSP (i : Nat) : Nat := 0x42020210 + 0x8 * i
def TWH_INSP_WORD (i : Nat) : Fld := ⟨TWH_INSP i, 0, 64⟩

/-! ### R155 (04_time_wheel.md) -/

/-- `TWH_W_POOL`, R155. -/
def TWH_W_POOL (w : Nat) : Nat := 0x42022000 + 0x1000 * w
def TWH_W_POOL_SIZE (w : Nat) : Fld := ⟨TWH_W_POOL w, 0, 17⟩
def TWH_W_POOL_USED (w : Nat) : Fld := ⟨TWH_W_POOL w, 32, 17⟩

/-- `TWH_W_RING_BASE`, R155. -/
def TWH_W_RING_BASE (w : Nat) : Nat := 0x42022008 + 0x1000 * w
def TWH_W_RING_BASE_BASE (w : Nat) : Fld := ⟨TWH_W_RING_BASE w, 0, 44⟩

/-- `TWH_W_RING_CFG`, R155. -/
def TWH_W_RING_CFG (w : Nat) : Nat := 0x42022010 + 0x1000 * w
def TWH_W_RING_CFG_EN (w : Nat) : Fld := ⟨TWH_W_RING_CFG w, 0, 1⟩
def TWH_W_RING_CFG_LOG2 (w : Nat) : Fld := ⟨TWH_W_RING_CFG w, 1, 4⟩

/-- `TWH_W_RING_TAIL`, R155. -/
def TWH_W_RING_TAIL (w : Nat) : Nat := 0x42022018 + 0x1000 * w
def TWH_W_RING_TAIL_TAIL (w : Nat) : Fld := ⟨TWH_W_RING_TAIL w, 0, 16⟩

/-- `TWH_W_RING_HEAD`, R155. -/
def TWH_W_RING_HEAD (w : Nat) : Nat := 0x42022020 + 0x1000 * w
def TWH_W_RING_HEAD_HEAD (w : Nat) : Fld := ⟨TWH_W_RING_HEAD w, 0, 16⟩

/-- `TWH_W_IRQ_STATUS`, R155. -/
def TWH_W_IRQ_STATUS (w : Nat) : Nat := 0x42022028 + 0x1000 * w
def TWH_W_IRQ_STATUS_POSTED (w : Nat) : Fld := ⟨TWH_W_IRQ_STATUS w, 0, 1⟩
def TWH_W_IRQ_STATUS_RINGFULL (w : Nat) : Fld := ⟨TWH_W_IRQ_STATUS w, 1, 1⟩
def TWH_W_IRQ_STATUS_MISSED (w : Nat) : Fld := ⟨TWH_W_IRQ_STATUS w, 2, 1⟩
def TWH_W_IRQ_STATUS_LATE (w : Nat) : Fld := ⟨TWH_W_IRQ_STATUS w, 3, 1⟩
def TWH_W_IRQ_STATUS_ARMFULL (w : Nat) : Fld := ⟨TWH_W_IRQ_STATUS w, 4, 1⟩
def TWH_W_IRQ_STATUS_RINGERR (w : Nat) : Fld := ⟨TWH_W_IRQ_STATUS w, 5, 1⟩

/-- `TWH_W_IRQ_EN`, R155. -/
def TWH_W_IRQ_EN (w : Nat) : Nat := 0x42022030 + 0x1000 * w
def TWH_W_IRQ_EN_EN (w : Nat) : Fld := ⟨TWH_W_IRQ_EN w, 0, 6⟩

/-! ### R156 (04_time_wheel.md) -/

/-- `TWH_S_QUOTA`, R156. -/
def TWH_S_QUOTA (s : Nat) : Nat := 0x42024000 + 0x40 * s
def TWH_S_QUOTA_QUOTA (s : Nat) : Fld := ⟨TWH_S_QUOTA s, 0, 17⟩

/-- `TWH_S_USED`, R156. -/
def TWH_S_USED (s : Nat) : Nat := 0x42024008 + 0x40 * s
def TWH_S_USED_USED (s : Nat) : Fld := ⟨TWH_S_USED s, 0, 17⟩

/-- `TWH_S_RING_BASE`, R156. -/
def TWH_S_RING_BASE (s : Nat) : Nat := 0x42024010 + 0x40 * s
def TWH_S_RING_BASE_BASE (s : Nat) : Fld := ⟨TWH_S_RING_BASE s, 0, 44⟩

/-- `TWH_S_RING_CFG`, R156. -/
def TWH_S_RING_CFG (s : Nat) : Nat := 0x42024018 + 0x40 * s
def TWH_S_RING_CFG_EN (s : Nat) : Fld := ⟨TWH_S_RING_CFG s, 0, 1⟩
def TWH_S_RING_CFG_LOG2 (s : Nat) : Fld := ⟨TWH_S_RING_CFG s, 1, 4⟩

/-- `TWH_S_RING_TAIL`, R156. -/
def TWH_S_RING_TAIL (s : Nat) : Nat := 0x42024020 + 0x40 * s
def TWH_S_RING_TAIL_TAIL (s : Nat) : Fld := ⟨TWH_S_RING_TAIL s, 0, 16⟩

/-- `TWH_S_RING_HEAD`, R156. -/
def TWH_S_RING_HEAD (s : Nat) : Nat := 0x42024028 + 0x40 * s
def TWH_S_RING_HEAD_HEAD (s : Nat) : Fld := ⟨TWH_S_RING_HEAD s, 0, 16⟩

/-- `TWH_S_IRQ_STATUS`, R156. -/
def TWH_S_IRQ_STATUS (s : Nat) : Nat := 0x42024030 + 0x40 * s
def TWH_S_IRQ_STATUS_POSTED (s : Nat) : Fld := ⟨TWH_S_IRQ_STATUS s, 0, 1⟩
def TWH_S_IRQ_STATUS_RINGFULL (s : Nat) : Fld := ⟨TWH_S_IRQ_STATUS s, 1, 1⟩
def TWH_S_IRQ_STATUS_MISSED (s : Nat) : Fld := ⟨TWH_S_IRQ_STATUS s, 2, 1⟩
def TWH_S_IRQ_STATUS_LATE (s : Nat) : Fld := ⟨TWH_S_IRQ_STATUS s, 3, 1⟩
def TWH_S_IRQ_STATUS_ARMFULL (s : Nat) : Fld := ⟨TWH_S_IRQ_STATUS s, 4, 1⟩
def TWH_S_IRQ_STATUS_RINGERR (s : Nat) : Fld := ⟨TWH_S_IRQ_STATUS s, 5, 1⟩

/-- `TWH_S_IRQ_EN`, R156. -/
def TWH_S_IRQ_EN (s : Nat) : Nat := 0x42024038 + 0x40 * s
def TWH_S_IRQ_EN_EN (s : Nat) : Fld := ⟨TWH_S_IRQ_EN s, 0, 6⟩

/-! ### R192 (05_streams_and_capture.md) -/

/-- `CAP_CTL`, R192. -/
def CAP_CTL : Nat := 0x46000000
def CAP_CTL_EN : Fld := ⟨CAP_CTL, 0, 1⟩
def CAP_CTL_NOSTASH : Fld := ⟨CAP_CTL, 1, 1⟩
def CAP_CTL_IDLE_MS : Fld := ⟨CAP_CTL, 8, 8⟩

/-- `CAP_IRQ_STATUS`, R192. -/
def CAP_IRQ_STATUS : Nat := 0x46000008
def CAP_IRQ_STATUS_DLFAIL : Fld := ⟨CAP_IRQ_STATUS, 0, 1⟩
def CAP_IRQ_STATUS_RINGSTOP : Fld := ⟨CAP_IRQ_STATUS, 1, 1⟩
def CAP_IRQ_STATUS_NOBUF : Fld := ⟨CAP_IRQ_STATUS, 2, 1⟩
def CAP_IRQ_STATUS_MISSQ : Fld := ⟨CAP_IRQ_STATUS, 3, 1⟩

/-- `CAP_IRQ_EN`, R192. -/
def CAP_IRQ_EN : Nat := 0x46000010
def CAP_IRQ_EN_EN : Fld := ⟨CAP_IRQ_EN, 0, 4⟩

/-- `CAP_CAM_PRESET`, R192. -/
def CAP_CAM_PRESET : Nat := 0x46000020
def CAP_CAM_PRESET_PORT : Fld := ⟨CAP_CAM_PRESET, 0, 3⟩
def CAP_CAM_PRESET_VC : Fld := ⟨CAP_CAM_PRESET, 3, 4⟩
def CAP_CAM_PRESET_DT : Fld := ⟨CAP_CAM_PRESET, 7, 6⟩
def CAP_CAM_PRESET_SLICE : Fld := ⟨CAP_CAM_PRESET, 13, 6⟩
def CAP_CAM_PRESET_RING : Fld := ⟨CAP_CAM_PRESET, 19, 3⟩
def CAP_CAM_PRESET_STASH_HART : Fld := ⟨CAP_CAM_PRESET, 22, 3⟩
def CAP_CAM_PRESET_STASH_EN : Fld := ⟨CAP_CAM_PRESET, 25, 1⟩
def CAP_CAM_PRESET_DL_EN : Fld := ⟨CAP_CAM_PRESET, 26, 1⟩
def CAP_CAM_PRESET_LEDGER : Fld := ⟨CAP_CAM_PRESET, 27, 1⟩
def CAP_CAM_PRESET_GO : Fld := ⟨CAP_CAM_PRESET, 31, 1⟩
def CAP_CAM_PRESET_DL_NS : Fld := ⟨CAP_CAM_PRESET, 32, 32⟩

/-- `CAP_PRESET_RES`, R192. -/
def CAP_PRESET_RES : Nat := 0x46000028
def CAP_PRESET_RES_STATUS : Fld := ⟨CAP_PRESET_RES, 0, 8⟩
def CAP_PRESET_RES_BUSY : Fld := ⟨CAP_PRESET_RES, 8, 1⟩
def CAP_PRESET_RES_INDEX : Fld := ⟨CAP_PRESET_RES, 32, 18⟩

/-- `CAP_CNT`, R192. -/
def CAP_CNT (i : Nat) : Nat := 0x46000100 + 0x8 * i
def CAP_CNT_COUNT (i : Nat) : Fld := ⟨CAP_CNT i, 0, 32⟩

/-! ### R193 (05_streams_and_capture.md) -/

/-- `CAP_DRING_BASE`, R193. -/
def CAP_DRING_BASE (s : Nat) (r : Nat) : Nat := 0x46004000 + 0x200 * s + 0x40 * r
def CAP_DRING_BASE_BASE (s : Nat) (r : Nat) : Fld := ⟨CAP_DRING_BASE s r, 0, 64⟩

/-- `CAP_BRING_BASE`, R193. -/
def CAP_BRING_BASE (s : Nat) (r : Nat) : Nat := 0x46004008 + 0x200 * s + 0x40 * r
def CAP_BRING_BASE_BASE (s : Nat) (r : Nat) : Fld := ⟨CAP_BRING_BASE s r, 0, 64⟩

/-- `CAP_RING_CFG`, R193. -/
def CAP_RING_CFG (s : Nat) (r : Nat) : Nat := 0x46004010 + 0x200 * s + 0x40 * r
def CAP_RING_CFG_EN (s : Nat) (r : Nat) : Fld := ⟨CAP_RING_CFG s r, 0, 1⟩
def CAP_RING_CFG_DLOG2 (s : Nat) (r : Nat) : Fld := ⟨CAP_RING_CFG s r, 1, 4⟩
def CAP_RING_CFG_BLOG2 (s : Nat) (r : Nat) : Fld := ⟨CAP_RING_CFG s r, 5, 4⟩
def CAP_RING_CFG_BUFSZ (s : Nat) (r : Nat) : Fld := ⟨CAP_RING_CFG s r, 9, 5⟩
def CAP_RING_CFG_STOPPED (s : Nat) (r : Nat) : Fld := ⟨CAP_RING_CFG s r, 16, 1⟩

/-- `CAP_DRING_TAIL`, R193. -/
def CAP_DRING_TAIL (s : Nat) (r : Nat) : Nat := 0x46004018 + 0x200 * s + 0x40 * r
def CAP_DRING_TAIL_TAIL (s : Nat) (r : Nat) : Fld := ⟨CAP_DRING_TAIL s r, 0, 16⟩

/-- `CAP_DRING_HEAD`, R193. -/
def CAP_DRING_HEAD (s : Nat) (r : Nat) : Nat := 0x46004020 + 0x200 * s + 0x40 * r
def CAP_DRING_HEAD_HEAD (s : Nat) (r : Nat) : Fld := ⟨CAP_DRING_HEAD s r, 0, 16⟩

/-- `CAP_BRING_HEAD`, R193. -/
def CAP_BRING_HEAD (s : Nat) (r : Nat) : Nat := 0x46004028 + 0x200 * s + 0x40 * r
def CAP_BRING_HEAD_HEAD (s : Nat) (r : Nat) : Fld := ⟨CAP_BRING_HEAD s r, 0, 16⟩

/-- `CAP_BRING_TAIL`, R193. -/
def CAP_BRING_TAIL (s : Nat) (r : Nat) : Nat := 0x46004030 + 0x200 * s + 0x40 * r
def CAP_BRING_TAIL_TAIL (s : Nat) (r : Nat) : Fld := ⟨CAP_BRING_TAIL s r, 0, 16⟩

/-- `CAP_RING_STAT`, R193. -/
def CAP_RING_STAT (s : Nat) (r : Nat) : Nat := 0x46004038 + 0x200 * s + 0x40 * r
def CAP_RING_STAT_FRAMES (s : Nat) (r : Nat) : Fld := ⟨CAP_RING_STAT s r, 0, 16⟩
def CAP_RING_STAT_DROPS (s : Nat) (r : Nat) : Fld := ⟨CAP_RING_STAT s r, 16, 16⟩

/-! ### R194 (05_streams_and_capture.md) -/

/-- `STT_UPD_DATA`, R194. -/
def STT_UPD_DATA (p : Nat) (i : Nat) : Nat := 0x46010000 + 0x40 * p + 0x8 * i
def STT_UPD_DATA_WORD (p : Nat) (i : Nat) : Fld := ⟨STT_UPD_DATA p i, 0, 64⟩

/-- `STT_UPD_CMD`, R194. -/
def STT_UPD_CMD (p : Nat) : Nat := 0x46010020 + 0x40 * p
def STT_UPD_CMD_INDEX (p : Nat) : Fld := ⟨STT_UPD_CMD p, 0, 18⟩
def STT_UPD_CMD_EXPGEN (p : Nat) : Fld := ⟨STT_UPD_CMD p, 24, 8⟩
def STT_UPD_CMD_OP (p : Nat) : Fld := ⟨STT_UPD_CMD p, 32, 3⟩
def STT_UPD_CMD_ANYGEN (p : Nat) : Fld := ⟨STT_UPD_CMD p, 63, 1⟩

/-- `STT_UPD_RES`, R194. -/
def STT_UPD_RES (p : Nat) : Nat := 0x46010028 + 0x40 * p
def STT_UPD_RES_STATUS (p : Nat) : Fld := ⟨STT_UPD_RES p, 0, 8⟩
def STT_UPD_RES_BUSY (p : Nat) : Fld := ⟨STT_UPD_RES p, 8, 1⟩
def STT_UPD_RES_IGNORED (p : Nat) : Fld := ⟨STT_UPD_RES p, 9, 1⟩
def STT_UPD_RES_NEWGEN (p : Nat) : Fld := ⟨STT_UPD_RES p, 16, 8⟩
def STT_UPD_RES_INDEX (p : Nat) : Fld := ⟨STT_UPD_RES p, 32, 18⟩

/-- `STT_RD_IDX`, R194. -/
def STT_RD_IDX : Nat := 0x46010100
def STT_RD_IDX_INDEX : Fld := ⟨STT_RD_IDX, 0, 18⟩

/-- `STT_RD`, R194. -/
def STT_RD (i : Nat) : Nat := 0x46010110 + 0x8 * i
def STT_RD_WORD (i : Nat) : Fld := ⟨STT_RD i, 0, 64⟩

/-- `STT_PROBE`, R194. -/
def STT_PROBE : Nat := 0x46010140
def STT_PROBE_KEY : Fld := ⟨STT_PROBE, 0, 48⟩
def STT_PROBE_KIND : Fld := ⟨STT_PROBE, 48, 2⟩

/-- `STT_PROBE_RES`, R194. -/
def STT_PROBE_RES : Nat := 0x46010148
def STT_PROBE_RES_INDEX : Fld := ⟨STT_PROBE_RES, 0, 18⟩
def STT_PROBE_RES_SLICE : Fld := ⟨STT_PROBE_RES, 24, 6⟩
def STT_PROBE_RES_STEERED : Fld := ⟨STT_PROBE_RES, 30, 1⟩
def STT_PROBE_RES_HIT : Fld := ⟨STT_PROBE_RES, 31, 1⟩
def STT_PROBE_RES_HASH : Fld := ⟨STT_PROBE_RES, 32, 32⟩

/-- `STT_MISSQ`, R194. -/
def STT_MISSQ : Nat := 0x46010180
def STT_MISSQ_KEY : Fld := ⟨STT_MISSQ, 0, 48⟩
def STT_MISSQ_KIND : Fld := ⟨STT_MISSQ, 48, 2⟩
def STT_MISSQ_SLICE : Fld := ⟨STT_MISSQ, 50, 6⟩
def STT_MISSQ_STEERED : Fld := ⟨STT_MISSQ, 56, 1⟩
def STT_MISSQ_VALID : Fld := ⟨STT_MISSQ, 63, 1⟩

/-- `STT_MISSQ_CTL`, R194. -/
def STT_MISSQ_CTL : Nat := 0x46010188
def STT_MISSQ_CTL_EN : Fld := ⟨STT_MISSQ_CTL, 0, 1⟩
def STT_MISSQ_CTL_DEPTH : Fld := ⟨STT_MISSQ_CTL, 8, 5⟩
def STT_MISSQ_CTL_LOST : Fld := ⟨STT_MISSQ_CTL, 16, 16⟩

/-- `STT_MISS`, R194. -/
def STT_MISS (k : Nat) : Nat := 0x46010200 + 0x8 * k
def STT_MISS_COUNT (k : Nat) : Fld := ⟨STT_MISS k, 0, 32⟩

/-- `STT_PART`, R194. -/
def STT_PART (s : Nat) : Nat := 0x46010400 + 0x8 * s
def STT_PART_FIRST (s : Nat) : Fld := ⟨STT_PART s, 0, 18⟩
def STT_PART_COUNT (s : Nat) : Fld := ⟨STT_PART s, 32, 19⟩

/-! ### R195 (05_streams_and_capture.md) -/

/-- `STT_STEER_CSI`, R195. -/
def STT_STEER_CSI (j : Nat) : Nat := 0x46011000 + 0x4 * j
def STT_STEER_CSI_STEER (j : Nat) (b : Nat) : Fld := ⟨STT_STEER_CSI j, 0 + 8 * b, 8⟩

/-- `STT_STEER_PIN`, R195. -/
def STT_STEER_PIN (j : Nat) : Nat := 0x46011080 + 0x4 * j
def STT_STEER_PIN_STEER (j : Nat) (b : Nat) : Fld := ⟨STT_STEER_PIN j, 0 + 8 * b, 8⟩

/-- `STT_STEER_CAN_ID`, R195. -/
def STT_STEER_CAN_ID (n : Nat) : Nat := 0x46011100 + 0x10 * n
def STT_STEER_CAN_ID_LOW (n : Nat) : Fld := ⟨STT_STEER_CAN_ID n, 0, 29⟩
def STT_STEER_CAN_ID_HIGH (n : Nat) : Fld := ⟨STT_STEER_CAN_ID n, 32, 29⟩

/-- `STT_STEER_CAN_CFG`, R195. -/
def STT_STEER_CAN_CFG (n : Nat) : Nat := 0x46011108 + 0x10 * n
def STT_STEER_CAN_CFG_SLICE (n : Nat) : Fld := ⟨STT_STEER_CAN_CFG n, 0, 6⟩
def STT_STEER_CAN_CFG_FORMAT (n : Nat) : Fld := ⟨STT_STEER_CAN_CFG n, 6, 2⟩
def STT_STEER_CAN_CFG_VALID (n : Nat) : Fld := ⟨STT_STEER_CAN_CFG n, 8, 1⟩

/-- `STT_STEER_VID`, R195. -/
def STT_STEER_VID (j : Nat) : Nat := 0x46012000 + 0x4 * j
def STT_STEER_VID_STEER (j : Nat) (b : Nat) : Fld := ⟨STT_STEER_VID j, 0 + 8 * b, 8⟩

/-! ### R212 (06_capture_slices.md) -/

/-- `CSL_KEY`, R212. -/
def CSL_KEY (s : Nat) : Nat := 0x46020000 + 0x80 * s
def CSL_KEY_VMID (s : Nat) : Fld := ⟨CSL_KEY s, 0, 14⟩
def CSL_KEY_ASID (s : Nat) : Fld := ⟨CSL_KEY s, 16, 16⟩
def CSL_KEY_ASIDANY (s : Nat) : Fld := ⟨CSL_KEY s, 32, 1⟩
def CSL_KEY_TWORLD (s : Nat) : Fld := ⟨CSL_KEY s, 33, 1⟩

/-- `CSL_CMD`, R212. -/
def CSL_CMD (s : Nat) : Nat := 0x46020008 + 0x80 * s
def CSL_CMD_OP (s : Nat) : Fld := ⟨CSL_CMD s, 0, 2⟩

/-- `CSL_STAT`, R212. -/
def CSL_STAT (s : Nat) : Nat := 0x46020010 + 0x80 * s
def CSL_STAT_STATE (s : Nat) : Fld := ⟨CSL_STAT s, 0, 2⟩
def CSL_STAT_RESULT (s : Nat) : Fld := ⟨CSL_STAT s, 8, 8⟩
def CSL_STAT_OUTSTANDING (s : Nat) : Fld := ⟨CSL_STAT s, 32, 16⟩

/-- `CSL_SHARE`, R212. -/
def CSL_SHARE (s : Nat) : Nat := 0x46020018 + 0x80 * s
def CSL_SHARE_DEPTH (s : Nat) : Fld := ⟨CSL_SHARE s, 0, 16⟩
def CSL_SHARE_WEIGHT (s : Nat) : Fld := ⟨CSL_SHARE s, 16, 4⟩

/-- `CSL_MOD`, R212. -/
def CSL_MOD (s : Nat) : Nat := 0x46020020 + 0x80 * s
def CSL_MOD_COUNT (s : Nat) : Fld := ⟨CSL_MOD s, 0, 8⟩
def CSL_MOD_HOLDOFF (s : Nat) : Fld := ⟨CSL_MOD s, 8, 10⟩

/-- `CSL_VEC_COMPL`, R212. -/
def CSL_VEC_COMPL (s : Nat) : Nat := 0x46020028 + 0x80 * s
def CSL_VEC_COMPL_HART (s : Nat) : Fld := ⟨CSL_VEC_COMPL s, 0, 4⟩
def CSL_VEC_COMPL_FILE (s : Nat) : Fld := ⟨CSL_VEC_COMPL s, 4, 3⟩
def CSL_VEC_COMPL_EN (s : Nat) : Fld := ⟨CSL_VEC_COMPL s, 7, 1⟩
def CSL_VEC_COMPL_EIID (s : Nat) : Fld := ⟨CSL_VEC_COMPL s, 8, 11⟩

/-- `CSL_VEC_WHEEL`, R212. -/
def CSL_VEC_WHEEL (s : Nat) : Nat := 0x46020030 + 0x80 * s
def CSL_VEC_WHEEL_HART (s : Nat) : Fld := ⟨CSL_VEC_WHEEL s, 0, 4⟩
def CSL_VEC_WHEEL_FILE (s : Nat) : Fld := ⟨CSL_VEC_WHEEL s, 4, 3⟩
def CSL_VEC_WHEEL_EN (s : Nat) : Fld := ⟨CSL_VEC_WHEEL s, 7, 1⟩
def CSL_VEC_WHEEL_EIID (s : Nat) : Fld := ⟨CSL_VEC_WHEEL s, 8, 11⟩

/-- `CSL_VEC_MBX`, R212. -/
def CSL_VEC_MBX (s : Nat) : Nat := 0x46020038 + 0x80 * s
def CSL_VEC_MBX_HART (s : Nat) : Fld := ⟨CSL_VEC_MBX s, 0, 4⟩
def CSL_VEC_MBX_FILE (s : Nat) : Fld := ⟨CSL_VEC_MBX s, 4, 3⟩
def CSL_VEC_MBX_EN (s : Nat) : Fld := ⟨CSL_VEC_MBX s, 7, 1⟩
def CSL_VEC_MBX_EIID (s : Nat) : Fld := ⟨CSL_VEC_MBX s, 8, 11⟩

/-- `CSL_IRQ_STATUS`, R212. -/
def CSL_IRQ_STATUS (s : Nat) : Nat := 0x46020040 + 0x80 * s
def CSL_IRQ_STATUS_COMPL (s : Nat) : Fld := ⟨CSL_IRQ_STATUS s, 0, 8⟩
def CSL_IRQ_STATUS_MBX (s : Nat) : Fld := ⟨CSL_IRQ_STATUS s, 8, 1⟩
def CSL_IRQ_STATUS_MBXACK (s : Nat) : Fld := ⟨CSL_IRQ_STATUS s, 9, 1⟩
def CSL_IRQ_STATUS_TRESET (s : Nat) : Fld := ⟨CSL_IRQ_STATUS s, 10, 1⟩

/-- `CSL_DEVID`, R212. -/
def CSL_DEVID (s : Nat) : Nat := 0x46020048 + 0x80 * s
def CSL_DEVID_DEVID (s : Nat) : Fld := ⟨CSL_DEVID s, 0, 20⟩

/-! ### R213 (06_capture_slices.md) -/

/-- `DB_BRING_TAIL`, R213. -/
def DB_BRING_TAIL (s : Nat) (r : Nat) : Nat := 0x100000000000 + 0x1000 * s + 0x10 * r
def DB_BRING_TAIL_TAIL (s : Nat) (r : Nat) : Fld := ⟨DB_BRING_TAIL s r, 0, 16⟩

/-- `DB_DRING_HEAD`, R213. -/
def DB_DRING_HEAD (s : Nat) (r : Nat) : Nat := 0x100000000004 + 0x1000 * s + 0x10 * r
def DB_DRING_HEAD_HEAD (s : Nat) (r : Nat) : Fld := ⟨DB_DRING_HEAD s r, 0, 16⟩

/-- `DB_DRING_TAIL`, R213. -/
def DB_DRING_TAIL (s : Nat) (r : Nat) : Nat := 0x100000000008 + 0x1000 * s + 0x10 * r
def DB_DRING_TAIL_TAIL (s : Nat) (r : Nat) : Fld := ⟨DB_DRING_TAIL s r, 0, 16⟩

/-- `DB_BRING_HEAD`, R213. -/
def DB_BRING_HEAD (s : Nat) (r : Nat) : Nat := 0x10000000000C + 0x1000 * s + 0x10 * r
def DB_BRING_HEAD_HEAD (s : Nat) (r : Nat) : Fld := ⟨DB_BRING_HEAD s r, 0, 16⟩

/-- `DB_RESULT`, R213. -/
def DB_RESULT (s : Nat) : Nat := 0x100000000080 + 0x1000 * s
def DB_RESULT_STATUS (s : Nat) : Fld := ⟨DB_RESULT s, 0, 8⟩
def DB_RESULT_RING (s : Nat) : Fld := ⟨DB_RESULT s, 8, 3⟩
def DB_RESULT_OUTSTANDING (s : Nat) : Fld := ⟨DB_RESULT s, 16, 16⟩

/-- `DB_SLICE`, R213. -/
def DB_SLICE (s : Nat) : Nat := 0x100000000084 + 0x1000 * s
def DB_SLICE_SLICE (s : Nat) : Fld := ⟨DB_SLICE s, 0, 6⟩
def DB_SLICE_STATE (s : Nat) : Fld := ⟨DB_SLICE s, 8, 2⟩
def DB_SLICE_DEPTH (s : Nat) : Fld := ⟨DB_SLICE s, 16, 16⟩

/-- `DB_IRQ_STATUS`, R213. -/
def DB_IRQ_STATUS (s : Nat) : Nat := 0x100000000100 + 0x1000 * s
def DB_IRQ_STATUS_COMPL (s : Nat) : Fld := ⟨DB_IRQ_STATUS s, 0, 8⟩
def DB_IRQ_STATUS_MBX (s : Nat) : Fld := ⟨DB_IRQ_STATUS s, 8, 1⟩
def DB_IRQ_STATUS_MBXACK (s : Nat) : Fld := ⟨DB_IRQ_STATUS s, 9, 1⟩
def DB_IRQ_STATUS_TRESET (s : Nat) : Fld := ⟨DB_IRQ_STATUS s, 10, 1⟩

/-- `DB_IRQ_EN`, R213. -/
def DB_IRQ_EN (s : Nat) : Nat := 0x100000000104 + 0x1000 * s
def DB_IRQ_EN_EN (s : Nat) : Fld := ⟨DB_IRQ_EN s, 0, 11⟩

/-- `DB_TX`, R213. -/
def DB_TX (s : Nat) (i : Nat) : Nat := 0x100000000200 + 0x1000 * s + 0x4 * i
def DB_TX_WORD (s : Nat) (i : Nat) : Fld := ⟨DB_TX s i, 0, 32⟩

/-- `DB_TX_CMD`, R213. -/
def DB_TX_CMD (s : Nat) : Nat := 0x100000000220 + 0x1000 * s
def DB_TX_CMD_SEND (s : Nat) : Fld := ⟨DB_TX_CMD s, 0, 1⟩
def DB_TX_CMD_EXPSEQ (s : Nat) : Fld := ⟨DB_TX_CMD s, 16, 16⟩

/-- `DB_TX_STAT`, R213. -/
def DB_TX_STAT (s : Nat) : Nat := 0x100000000224 + 0x1000 * s
def DB_TX_STAT_RESULT (s : Nat) : Fld := ⟨DB_TX_STAT s, 0, 8⟩
def DB_TX_STAT_PEND (s : Nat) : Fld := ⟨DB_TX_STAT s, 8, 1⟩
def DB_TX_STAT_NEXTSEQ (s : Nat) : Fld := ⟨DB_TX_STAT s, 16, 16⟩

/-- `DB_RX`, R213. -/
def DB_RX (s : Nat) (i : Nat) : Nat := 0x100000000240 + 0x1000 * s + 0x4 * i
def DB_RX_WORD (s : Nat) (i : Nat) : Fld := ⟨DB_RX s i, 0, 32⟩

/-- `DB_RX_SEQ`, R213. -/
def DB_RX_SEQ (s : Nat) : Nat := 0x100000000260 + 0x1000 * s
def DB_RX_SEQ_SEQ (s : Nat) : Fld := ⟨DB_RX_SEQ s, 0, 16⟩
def DB_RX_SEQ_VALID (s : Nat) : Fld := ⟨DB_RX_SEQ s, 16, 1⟩

/-- `DB_RX_ACK`, R213. -/
def DB_RX_ACK (s : Nat) : Nat := 0x100000000264 + 0x1000 * s
def DB_RX_ACK_SEQ (s : Nat) : Fld := ⟨DB_RX_ACK s, 0, 16⟩

/-- `DB_WRING_TAIL`, R213. -/
def DB_WRING_TAIL (s : Nat) : Nat := 0x100000000300 + 0x1000 * s
def DB_WRING_TAIL_TAIL (s : Nat) : Fld := ⟨DB_WRING_TAIL s, 0, 16⟩

/-- `DB_WRING_HEAD`, R213. -/
def DB_WRING_HEAD (s : Nat) : Nat := 0x100000000304 + 0x1000 * s
def DB_WRING_HEAD_HEAD (s : Nat) : Fld := ⟨DB_WRING_HEAD s, 0, 16⟩

/-- `DB_WIRQ_STATUS`, R213. -/
def DB_WIRQ_STATUS (s : Nat) : Nat := 0x100000000308 + 0x1000 * s
def DB_WIRQ_STATUS_POSTED (s : Nat) : Fld := ⟨DB_WIRQ_STATUS s, 0, 1⟩
def DB_WIRQ_STATUS_RINGFULL (s : Nat) : Fld := ⟨DB_WIRQ_STATUS s, 1, 1⟩
def DB_WIRQ_STATUS_MISSED (s : Nat) : Fld := ⟨DB_WIRQ_STATUS s, 2, 1⟩
def DB_WIRQ_STATUS_LATE (s : Nat) : Fld := ⟨DB_WIRQ_STATUS s, 3, 1⟩
def DB_WIRQ_STATUS_ARMFULL (s : Nat) : Fld := ⟨DB_WIRQ_STATUS s, 4, 1⟩
def DB_WIRQ_STATUS_RINGERR (s : Nat) : Fld := ⟨DB_WIRQ_STATUS s, 5, 1⟩

/-- `DB_DL_QUERY`, R213. -/
def DB_DL_QUERY (s : Nat) : Nat := 0x100000000310 + 0x1000 * s
def DB_DL_QUERY_STREAM (s : Nat) : Fld := ⟨DB_DL_QUERY s, 0, 18⟩

/-- `DB_DL_HANDLE`, R213. -/
def DB_DL_HANDLE (s : Nat) : Nat := 0x100000000314 + 0x1000 * s
def DB_DL_HANDLE_HANDLE (s : Nat) : Fld := ⟨DB_DL_HANDLE s, 0, 32⟩

/-! ### R214 (06_capture_slices.md) -/

/-- `MBX_MTX`, R214. -/
def MBX_MTX (s : Nat) (i : Nat) : Nat := 0x46030000 + 0x80 * s + 0x4 * i
def MBX_MTX_WORD (s : Nat) (i : Nat) : Fld := ⟨MBX_MTX s i, 0, 32⟩

/-- `MBX_MCMD`, R214. -/
def MBX_MCMD (s : Nat) : Nat := 0x46030020 + 0x80 * s
def MBX_MCMD_SEND (s : Nat) : Fld := ⟨MBX_MCMD s, 0, 1⟩
def MBX_MCMD_EXPSEQ (s : Nat) : Fld := ⟨MBX_MCMD s, 16, 16⟩

/-- `MBX_MSTAT`, R214. -/
def MBX_MSTAT (s : Nat) : Nat := 0x46030024 + 0x80 * s
def MBX_MSTAT_RESULT (s : Nat) : Fld := ⟨MBX_MSTAT s, 0, 8⟩
def MBX_MSTAT_PEND (s : Nat) : Fld := ⟨MBX_MSTAT s, 8, 1⟩
def MBX_MSTAT_NEXTSEQ (s : Nat) : Fld := ⟨MBX_MSTAT s, 16, 16⟩

/-- `MBX_MRX`, R214. -/
def MBX_MRX (s : Nat) (i : Nat) : Nat := 0x46030040 + 0x80 * s + 0x4 * i
def MBX_MRX_WORD (s : Nat) (i : Nat) : Fld := ⟨MBX_MRX s i, 0, 32⟩

/-- `MBX_MRXSEQ`, R214. -/
def MBX_MRXSEQ (s : Nat) : Nat := 0x46030060 + 0x80 * s
def MBX_MRXSEQ_SEQ (s : Nat) : Fld := ⟨MBX_MRXSEQ s, 0, 16⟩
def MBX_MRXSEQ_VALID (s : Nat) : Fld := ⟨MBX_MRXSEQ s, 16, 1⟩

/-- `MBX_MACK`, R214. -/
def MBX_MACK (s : Nat) : Nat := 0x46030064 + 0x80 * s
def MBX_MACK_SEQ (s : Nat) : Fld := ⟨MBX_MACK s, 0, 16⟩

/-- `MBX_MEVT`, R214. -/
def MBX_MEVT (s : Nat) : Nat := 0x46030068 + 0x80 * s
def MBX_MEVT_DOORBELL (s : Nat) : Fld := ⟨MBX_MEVT s, 0, 1⟩
def MBX_MEVT_ACKED (s : Nat) : Fld := ⟨MBX_MEVT s, 1, 1⟩
def MBX_MEVT_RESET_DONE (s : Nat) : Fld := ⟨MBX_MEVT s, 2, 1⟩
def MBX_MEVT_DISCARD (s : Nat) : Fld := ⟨MBX_MEVT s, 3, 1⟩

/-- `MBX_MEVT_EN`, R214. -/
def MBX_MEVT_EN (s : Nat) : Nat := 0x4603006C + 0x80 * s
def MBX_MEVT_EN_EN (s : Nat) : Fld := ⟨MBX_MEVT_EN s, 0, 4⟩

/-- `MBX_MVEC`, R214. -/
def MBX_MVEC (s : Nat) : Nat := 0x46030070 + 0x80 * s
def MBX_MVEC_HART (s : Nat) : Fld := ⟨MBX_MVEC s, 0, 4⟩
def MBX_MVEC_FILE (s : Nat) : Fld := ⟨MBX_MVEC s, 4, 3⟩
def MBX_MVEC_EN (s : Nat) : Fld := ⟨MBX_MVEC s, 7, 1⟩
def MBX_MVEC_EIID (s : Nat) : Fld := ⟨MBX_MVEC s, 8, 11⟩

/-- `MBX_DISC`, R214. -/
def MBX_DISC (s : Nat) : Nat := 0x46030078 + 0x80 * s
def MBX_DISC_DROPPED (s : Nat) : Fld := ⟨MBX_DISC s, 0, 16⟩
def MBX_DISC_BADACK (s : Nat) : Fld := ⟨MBX_DISC s, 16, 16⟩

/-! ### R247 (07_ports_and_switch.md) -/

/-- `PORT_CFG`, R247. -/
def PORT_CFG (p : Nat) : Nat := 0x45100000 + 0x10000 * p
def PORT_CFG_EN (p : Nat) : Fld := ⟨PORT_CFG p, 0, 1⟩
def PORT_CFG_UPLINK (p : Nat) : Fld := ⟨PORT_CFG p, 1, 1⟩
def PORT_CFG_SPEED (p : Nat) : Fld := ⟨PORT_CFG p, 2, 2⟩
def PORT_CFG_ANEG (p : Nat) : Fld := ⟨PORT_CFG p, 4, 1⟩
def PORT_CFG_MSREQ (p : Nat) : Fld := ⟨PORT_CFG p, 5, 1⟩
def PORT_CFG_CT (p : Nat) : Fld := ⟨PORT_CFG p, 6, 1⟩
def PORT_CFG_PLCA (p : Nat) : Fld := ⟨PORT_CFG p, 7, 1⟩
def PORT_CFG_PLCA_ID (p : Nat) : Fld := ⟨PORT_CFG p, 8, 8⟩
def PORT_CFG_PLCA_CNT (p : Nat) : Fld := ⟨PORT_CFG p, 16, 8⟩
def PORT_CFG_MAXFRAME (p : Nat) : Fld := ⟨PORT_CFG p, 32, 14⟩

/-- `PORT_VLAN`, R247. -/
def PORT_VLAN (p : Nat) : Nat := 0x45100008 + 0x10000 * p
def PORT_VLAN_PVID (p : Nat) : Fld := ⟨PORT_VLAN p, 0, 12⟩
def PORT_VLAN_DEFPCP (p : Nat) : Fld := ⟨PORT_VLAN p, 12, 3⟩

/-- `PORT_PCPMAP`, R247. -/
def PORT_PCPMAP (p : Nat) : Nat := 0x45100010 + 0x10000 * p
def PORT_PCPMAP_MAP (p : Nat) : Fld := ⟨PORT_PCPMAP p, 0, 24⟩

/-- `PORT_STATUS`, R247. -/
def PORT_STATUS (p : Nat) : Nat := 0x45100018 + 0x10000 * p
def PORT_STATUS_LINK (p : Nat) : Fld := ⟨PORT_STATUS p, 0, 1⟩
def PORT_STATUS_RATE (p : Nat) : Fld := ⟨PORT_STATUS p, 1, 2⟩
def PORT_STATUS_MASTER (p : Nat) : Fld := ⟨PORT_STATUS p, 3, 1⟩
def PORT_STATUS_TC10 (p : Nat) : Fld := ⟨PORT_STATUS p, 4, 3⟩

/-- `PORT_IRQ_STATUS`, R247. -/
def PORT_IRQ_STATUS (p : Nat) : Nat := 0x45100020 + 0x10000 * p
def PORT_IRQ_STATUS_LINK (p : Nat) : Fld := ⟨PORT_IRQ_STATUS p, 0, 1⟩
def PORT_IRQ_STATUS_SLEEPFAIL (p : Nat) : Fld := ⟨PORT_IRQ_STATUS p, 1, 1⟩
def PORT_IRQ_STATUS_WAKE (p : Nat) : Fld := ⟨PORT_IRQ_STATUS p, 2, 1⟩
def PORT_IRQ_STATUS_WAKEFAIL (p : Nat) : Fld := ⟨PORT_IRQ_STATUS p, 3, 1⟩
def PORT_IRQ_STATUS_OVERRUN (p : Nat) : Fld := ⟨PORT_IRQ_STATUS p, 4, 1⟩
def PORT_IRQ_STATUS_BUFDROP (p : Nat) : Fld := ⟨PORT_IRQ_STATUS p, 5, 1⟩

/-- `PORT_IRQ_EN`, R247. -/
def PORT_IRQ_EN (p : Nat) : Nat := 0x45100028 + 0x10000 * p
def PORT_IRQ_EN_EN (p : Nat) : Fld := ⟨PORT_IRQ_EN p, 0, 6⟩

/-- `PORT_TC10`, R247. -/
def PORT_TC10 (p : Nat) : Nat := 0x45100030 + 0x10000 * p
def PORT_TC10_SLEEP (p : Nat) : Fld := ⟨PORT_TC10 p, 0, 1⟩
def PORT_TC10_WAKE (p : Nat) : Fld := ⟨PORT_TC10 p, 1, 1⟩
def PORT_TC10_ACCEPT (p : Nat) : Fld := ⟨PORT_TC10 p, 2, 1⟩
def PORT_TC10_WAKE_EN (p : Nat) : Fld := ⟨PORT_TC10 p, 3, 1⟩
def PORT_TC10_FWD (p : Nat) : Fld := ⟨PORT_TC10 p, 4, 16⟩

/-- `PORT_TXLAT`, R247. -/
def PORT_TXLAT (p : Nat) : Nat := 0x45100038 + 0x10000 * p
def PORT_TXLAT_LAUNCH (p : Nat) : Fld := ⟨PORT_TXLAT p, 0, 16⟩

/-- `PORT_Q`, R247. -/
def PORT_Q (p : Nat) (q : Nat) : Nat := 0x45100040 + 0x10000 * p + 0x8 * q
def PORT_Q_MAXSDU (p : Nat) (q : Nat) : Fld := ⟨PORT_Q p q, 0, 14⟩
def PORT_Q_CBS_EN (p : Nat) (q : Nat) : Fld := ⟨PORT_Q p q, 14, 1⟩
def PORT_Q_LIMIT (p : Nat) (q : Nat) : Fld := ⟨PORT_Q p q, 16, 15⟩
def PORT_Q_IDLE_SLOPE (p : Nat) (q : Nat) : Fld := ⟨PORT_Q p q, 32, 32⟩

/-- `PORT_BUF`, R247. -/
def PORT_BUF (p : Nat) : Nat := 0x45100080 + 0x10000 * p
def PORT_BUF_RESERVE (p : Nat) : Fld := ⟨PORT_BUF p, 0, 15⟩
def PORT_BUF_USED (p : Nat) : Fld := ⟨PORT_BUF p, 32, 15⟩

/-- `PORT_GCL_CTL`, R247. -/
def PORT_GCL_CTL (p : Nat) : Nat := 0x45100100 + 0x10000 * p
def PORT_GCL_CTL_GATE_EN (p : Nat) : Fld := ⟨PORT_GCL_CTL p, 0, 1⟩
def PORT_GCL_CTL_CHANGE (p : Nat) : Fld := ⟨PORT_GCL_CTL p, 1, 1⟩
def PORT_GCL_CTL_PENDING (p : Nat) : Fld := ⟨PORT_GCL_CTL p, 2, 1⟩
def PORT_GCL_CTL_DOM (p : Nat) : Fld := ⟨PORT_GCL_CTL p, 3, 2⟩
def PORT_GCL_CTL_LEN (p : Nat) : Fld := ⟨PORT_GCL_CTL p, 8, 9⟩
def PORT_GCL_CTL_RESULT (p : Nat) : Fld := ⟨PORT_GCL_CTL p, 24, 8⟩

/-- `PORT_GCL_BASE`, R247. -/
def PORT_GCL_BASE (p : Nat) : Nat := 0x45100108 + 0x10000 * p
def PORT_GCL_BASE_VT (p : Nat) : Fld := ⟨PORT_GCL_BASE p, 0, 64⟩

/-- `PORT_GCL_CYCLE`, R247. -/
def PORT_GCL_CYCLE (p : Nat) : Nat := 0x45100110 + 0x10000 * p
def PORT_GCL_CYCLE_NS (p : Nat) : Fld := ⟨PORT_GCL_CYCLE p, 0, 32⟩
def PORT_GCL_CYCLE_EXT (p : Nat) : Fld := ⟨PORT_GCL_CYCLE p, 32, 32⟩

/-- `PORT_GCL_OPER`, R247. -/
def PORT_GCL_OPER (p : Nat) : Nat := 0x45100118 + 0x10000 * p
def PORT_GCL_OPER_VT (p : Nat) : Fld := ⟨PORT_GCL_OPER p, 0, 64⟩

/-- `PORT_GCL_POS`, R247. -/
def PORT_GCL_POS (p : Nat) : Nat := 0x45100120 + 0x10000 * p
def PORT_GCL_POS_ENTRY (p : Nat) : Fld := ⟨PORT_GCL_POS p, 0, 8⟩

/-- `PORT_GCL_ADMINENT`, R247. -/
def PORT_GCL_ADMINENT (p : Nat) (i : Nat) : Nat := 0x45100800 + 0x10000 * p + 0x4 * i
def PORT_GCL_ADMINENT_ENTRY (p : Nat) (i : Nat) : Fld := ⟨PORT_GCL_ADMINENT p i, 0, 32⟩

/-- `PORT_GCL_OPERENT`, R247. -/
def PORT_GCL_OPERENT (p : Nat) (i : Nat) : Nat := 0x45100C00 + 0x10000 * p + 0x4 * i
def PORT_GCL_OPERENT_ENTRY (p : Nat) (i : Nat) : Fld := ⟨PORT_GCL_OPERENT p i, 0, 32⟩

/-! ### R249 (07_ports_and_switch.md) -/

/-- `SW_CTL`, R249. -/
def SW_CTL : Nat := 0x45000000
def SW_CTL_LEARN : Fld := ⟨SW_CTL, 0, 1⟩
def SW_CTL_AGE_S : Fld := ⟨SW_CTL, 16, 16⟩

/-- `SW_BUF`, R249. -/
def SW_BUF : Nat := 0x45000008
def SW_BUF_SHARED : Fld := ⟨SW_BUF, 0, 15⟩
def SW_BUF_USED : Fld := ⟨SW_BUF, 32, 15⟩

/-- `SW_IRQ_STATUS`, R249. -/
def SW_IRQ_STATUS : Nat := 0x45000010
def SW_IRQ_STATUS_INJDONE : Fld := ⟨SW_IRQ_STATUS, 0, 8⟩
def SW_IRQ_STATUS_INJSTOP : Fld := ⟨SW_IRQ_STATUS, 8, 8⟩

/-- `SW_IRQ_EN`, R249. -/
def SW_IRQ_EN : Nat := 0x45000018
def SW_IRQ_EN_EN : Fld := ⟨SW_IRQ_EN, 0, 16⟩

/-- `SW_FDB_KEY`, R249. -/
def SW_FDB_KEY : Nat := 0x45000100
def SW_FDB_KEY_MAC : Fld := ⟨SW_FDB_KEY, 0, 48⟩
def SW_FDB_KEY_VID : Fld := ⟨SW_FDB_KEY, 48, 12⟩

/-- `SW_FDB_DATA`, R249. -/
def SW_FDB_DATA : Nat := 0x45000108
def SW_FDB_DATA_PORTS : Fld := ⟨SW_FDB_DATA, 0, 19⟩
def SW_FDB_DATA_STATIC : Fld := ⟨SW_FDB_DATA, 19, 1⟩
def SW_FDB_DATA_VALID : Fld := ⟨SW_FDB_DATA, 20, 1⟩
def SW_FDB_DATA_AGE : Fld := ⟨SW_FDB_DATA, 32, 16⟩

/-- `SW_FDB_CMD`, R249. -/
def SW_FDB_CMD : Nat := 0x45000110
def SW_FDB_CMD_OP : Fld := ⟨SW_FDB_CMD, 0, 2⟩

/-- `SW_FDB_RES`, R249. -/
def SW_FDB_RES : Nat := 0x45000118
def SW_FDB_RES_STATUS : Fld := ⟨SW_FDB_RES, 0, 8⟩
def SW_FDB_RES_BUSY : Fld := ⟨SW_FDB_RES, 8, 1⟩

/-- `SW_VLAN_IDX`, R249. -/
def SW_VLAN_IDX : Nat := 0x45000200
def SW_VLAN_IDX_VID : Fld := ⟨SW_VLAN_IDX, 0, 12⟩

/-- `SW_VLAN_DATA`, R249. -/
def SW_VLAN_DATA : Nat := 0x45000208
def SW_VLAN_DATA_MEMBER : Fld := ⟨SW_VLAN_DATA, 0, 19⟩
def SW_VLAN_DATA_UNTAG : Fld := ⟨SW_VLAN_DATA, 32, 19⟩

/-- `SW_INJ_BASE`, R249. -/
def SW_INJ_BASE (r : Nat) : Nat := 0x45001000 + 0x40 * r
def SW_INJ_BASE_BASE (r : Nat) : Fld := ⟨SW_INJ_BASE r, 0, 64⟩

/-- `SW_INJ_CFG`, R249. -/
def SW_INJ_CFG (r : Nat) : Nat := 0x45001008 + 0x40 * r
def SW_INJ_CFG_EN (r : Nat) : Fld := ⟨SW_INJ_CFG r, 0, 1⟩
def SW_INJ_CFG_LOG2 (r : Nat) : Fld := ⟨SW_INJ_CFG r, 1, 4⟩
def SW_INJ_CFG_STOPPED (r : Nat) : Fld := ⟨SW_INJ_CFG r, 5, 1⟩

/-- `SW_INJ_TAIL`, R249. -/
def SW_INJ_TAIL (r : Nat) : Nat := 0x45001010 + 0x40 * r
def SW_INJ_TAIL_TAIL (r : Nat) : Fld := ⟨SW_INJ_TAIL r, 0, 16⟩

/-- `SW_INJ_HEAD`, R249. -/
def SW_INJ_HEAD (r : Nat) : Nat := 0x45001018 + 0x40 * r
def SW_INJ_HEAD_HEAD (r : Nat) : Fld := ⟨SW_INJ_HEAD r, 0, 16⟩

/-- `SW_UNPARK`, R249. -/
def SW_UNPARK : Nat := 0x45001400
def SW_UNPARK_PORT : Fld := ⟨SW_UNPARK, 0, 5⟩
def SW_UNPARK_QUEUE : Fld := ⟨SW_UNPARK, 5, 3⟩
def SW_UNPARK_TAG : Fld := ⟨SW_UNPARK, 16, 16⟩

/-- `SW_UNPARK_RES`, R249. -/
def SW_UNPARK_RES : Nat := 0x45001408
def SW_UNPARK_RES_STATUS : Fld := ⟨SW_UNPARK_RES, 0, 8⟩

/-- `SW_SGATE`, R249. -/
def SW_SGATE (g : Nat) : Nat := 0x45002000 + 0x8 * g
def SW_SGATE_OPEN (g : Nat) : Fld := ⟨SW_SGATE g, 0, 1⟩
def SW_SGATE_CLOSE_INV (g : Nat) : Fld := ⟨SW_SGATE g, 1, 1⟩
def SW_SGATE_LATCHED (g : Nat) : Fld := ⟨SW_SGATE g, 2, 1⟩
def SW_SGATE_IPV_EN (g : Nat) : Fld := ⟨SW_SGATE g, 3, 1⟩
def SW_SGATE_IPV (g : Nat) : Fld := ⟨SW_SGATE g, 4, 3⟩
def SW_SGATE_DROPS (g : Nat) : Fld := ⟨SW_SGATE g, 32, 32⟩

/-- `SW_FRER_MATCH`, R249. -/
def SW_FRER_MATCH (f : Nat) : Nat := 0x45003000 + 0x20 * f
def SW_FRER_MATCH_VID (f : Nat) : Fld := ⟨SW_FRER_MATCH f, 0, 12⟩
def SW_FRER_MATCH_DMAC (f : Nat) : Fld := ⟨SW_FRER_MATCH f, 12, 48⟩
def SW_FRER_MATCH_VALID (f : Nat) : Fld := ⟨SW_FRER_MATCH f, 60, 1⟩
def SW_FRER_MATCH_GEN (f : Nat) : Fld := ⟨SW_FRER_MATCH f, 61, 1⟩
def SW_FRER_MATCH_RCV (f : Nat) : Fld := ⟨SW_FRER_MATCH f, 62, 1⟩
def SW_FRER_MATCH_RMTAG (f : Nat) : Fld := ⟨SW_FRER_MATCH f, 63, 1⟩

/-- `SW_FRER_PORTS`, R249. -/
def SW_FRER_PORTS (f : Nat) : Nat := 0x45003008 + 0x20 * f
def SW_FRER_PORTS_SPLIT (f : Nat) : Fld := ⟨SW_FRER_PORTS f, 0, 19⟩
def SW_FRER_PORTS_ALG (f : Nat) : Fld := ⟨SW_FRER_PORTS f, 19, 1⟩
def SW_FRER_PORTS_HIST (f : Nat) : Fld := ⟨SW_FRER_PORTS f, 20, 6⟩
def SW_FRER_PORTS_RESET_MS (f : Nat) : Fld := ⟨SW_FRER_PORTS f, 32, 10⟩

/-- `SW_FRER_RCV`, R249. -/
def SW_FRER_RCV (f : Nat) : Nat := 0x45003010 + 0x20 * f
def SW_FRER_RCV_PASSED (f : Nat) : Fld := ⟨SW_FRER_RCV f, 0, 32⟩
def SW_FRER_RCV_DISCARDED (f : Nat) : Fld := ⟨SW_FRER_RCV f, 32, 32⟩

/-- `SW_FRER_CNT`, R249. -/
def SW_FRER_CNT (f : Nat) : Nat := 0x45003018 + 0x20 * f
def SW_FRER_CNT_OUTOFORDER (f : Nat) : Fld := ⟨SW_FRER_CNT f, 0, 16⟩
def SW_FRER_CNT_ROGUE (f : Nat) : Fld := ⟨SW_FRER_CNT f, 16, 16⟩
def SW_FRER_CNT_LOST (f : Nat) : Fld := ⟨SW_FRER_CNT f, 32, 16⟩
def SW_FRER_CNT_RESETS (f : Nat) : Fld := ⟨SW_FRER_CNT f, 48, 16⟩

/-- `SW_FMETER_RATE`, R249. -/
def SW_FMETER_RATE (m : Nat) : Nat := 0x45004000 + 0x10 * m
def SW_FMETER_RATE_CIR (m : Nat) : Fld := ⟨SW_FMETER_RATE m, 0, 32⟩
def SW_FMETER_RATE_EIR (m : Nat) : Fld := ⟨SW_FMETER_RATE m, 32, 32⟩

/-- `SW_FMETER_BURST`, R249. -/
def SW_FMETER_BURST (m : Nat) : Nat := 0x45004008 + 0x10 * m
def SW_FMETER_BURST_CBS (m : Nat) : Fld := ⟨SW_FMETER_BURST m, 0, 24⟩
def SW_FMETER_BURST_EBS (m : Nat) : Fld := ⟨SW_FMETER_BURST m, 24, 24⟩
def SW_FMETER_BURST_CF (m : Nat) : Fld := ⟨SW_FMETER_BURST m, 48, 1⟩
def SW_FMETER_BURST_DROP_YELLOW (m : Nat) : Fld := ⟨SW_FMETER_BURST m, 49, 1⟩
def SW_FMETER_BURST_MARK_RED_EN (m : Nat) : Fld := ⟨SW_FMETER_BURST m, 50, 1⟩
def SW_FMETER_BURST_MARK_RED (m : Nat) : Fld := ⟨SW_FMETER_BURST m, 51, 1⟩

/-! ### R250 (07_ports_and_switch.md) -/

/-- `PODL_CFG`, R250. -/
def PODL_CFG : Nat := 0x45010000
def PODL_CFG_CLASS : Fld := ⟨PODL_CFG, 0, 4⟩

/-- `PODL_STATUS`, R250. -/
def PODL_STATUS : Nat := 0x45010008
def PODL_STATUS_POWERED : Fld := ⟨PODL_STATUS, 0, 1⟩
def PODL_STATUS_CLASSIFIED : Fld := ⟨PODL_STATUS, 1, 1⟩
def PODL_STATUS_VIN : Fld := ⟨PODL_STATUS, 8, 8⟩

/-- `CAN_CFG`, R250. -/
def CAN_CFG (c : Nat) : Nat := 0x45020000 + 0x10000 * c
def CAN_CFG_EN (c : Nat) : Fld := ⟨CAN_CFG c, 0, 1⟩
def CAN_CFG_NBR (c : Nat) : Fld := ⟨CAN_CFG c, 1, 2⟩
def CAN_CFG_DBR (c : Nat) : Fld := ⟨CAN_CFG c, 3, 3⟩
def CAN_CFG_XL_EN (c : Nat) : Fld := ⟨CAN_CFG c, 6, 1⟩
def CAN_CFG_AUTO_RECOVER (c : Nat) : Fld := ⟨CAN_CFG c, 7, 1⟩
def CAN_CFG_LISTEN (c : Nat) : Fld := ⟨CAN_CFG c, 8, 1⟩

/-- `CAN_STATUS`, R250. -/
def CAN_STATUS (c : Nat) : Nat := 0x45020008 + 0x10000 * c
def CAN_STATUS_STATE (c : Nat) : Fld := ⟨CAN_STATUS c, 0, 2⟩
def CAN_STATUS_TEC (c : Nat) : Fld := ⟨CAN_STATUS c, 8, 8⟩
def CAN_STATUS_REC (c : Nat) : Fld := ⟨CAN_STATUS c, 16, 8⟩

/-- `CAN_TX_BASE`, R250. -/
def CAN_TX_BASE (c : Nat) : Nat := 0x45020010 + 0x10000 * c
def CAN_TX_BASE_BASE (c : Nat) : Fld := ⟨CAN_TX_BASE c, 0, 64⟩

/-- `CAN_TX_CFG`, R250. -/
def CAN_TX_CFG (c : Nat) : Nat := 0x45020018 + 0x10000 * c
def CAN_TX_CFG_EN (c : Nat) : Fld := ⟨CAN_TX_CFG c, 0, 1⟩
def CAN_TX_CFG_LOG2 (c : Nat) : Fld := ⟨CAN_TX_CFG c, 1, 4⟩

/-- `CAN_TX_TAIL`, R250. -/
def CAN_TX_TAIL (c : Nat) : Nat := 0x45020020 + 0x10000 * c
def CAN_TX_TAIL_TAIL (c : Nat) : Fld := ⟨CAN_TX_TAIL c, 0, 16⟩

/-- `CAN_TX_HEAD`, R250. -/
def CAN_TX_HEAD (c : Nat) : Nat := 0x45020028 + 0x10000 * c
def CAN_TX_HEAD_HEAD (c : Nat) : Fld := ⟨CAN_TX_HEAD c, 0, 16⟩

/-- `CAN_WAKE`, R250. -/
def CAN_WAKE (c : Nat) : Nat := 0x45020030 + 0x10000 * c
def CAN_WAKE_ID (c : Nat) : Fld := ⟨CAN_WAKE c, 0, 29⟩
def CAN_WAKE_FORMAT (c : Nat) : Fld := ⟨CAN_WAKE c, 29, 2⟩
def CAN_WAKE_EN (c : Nat) : Fld := ⟨CAN_WAKE c, 31, 1⟩
def CAN_WAKE_MASK (c : Nat) : Fld := ⟨CAN_WAKE c, 32, 29⟩

/-- `CAN_IRQ_STATUS`, R250. -/
def CAN_IRQ_STATUS (c : Nat) : Nat := 0x45020038 + 0x10000 * c
def CAN_IRQ_STATUS_TXDONE (c : Nat) : Fld := ⟨CAN_IRQ_STATUS c, 0, 1⟩
def CAN_IRQ_STATUS_BUSOFF (c : Nat) : Fld := ⟨CAN_IRQ_STATUS c, 1, 1⟩
def CAN_IRQ_STATUS_PASSIVE (c : Nat) : Fld := ⟨CAN_IRQ_STATUS c, 2, 1⟩

/-! ### R251 (07_ports_and_switch.md) -/

/-- `CAM_LINK`, R251. -/
def CAM_LINK (a : Nat) : Nat := 0x46100000 + 0x10000 * a
def CAM_LINK_UP (a : Nat) : Fld := ⟨CAM_LINK a, 0, 1⟩
def CAM_LINK_GEAR (a : Nat) : Fld := ⟨CAM_LINK a, 1, 3⟩

/-- `CAM_BC_CFG`, R251. -/
def CAM_BC_CFG (a : Nat) : Nat := 0x46100008 + 0x10000 * a
def CAM_BC_CFG_TIMEOUT (a : Nat) : Fld := ⟨CAM_BC_CFG a, 0, 16⟩
def CAM_BC_CFG_DEPTH (a : Nat) : Fld := ⟨CAM_BC_CFG a, 16, 5⟩

/-- `CAM_BC_CMD`, R251. -/
def CAM_BC_CMD (a : Nat) : Nat := 0x46100010 + 0x10000 * a
def CAM_BC_CMD_ARG (a : Nat) : Fld := ⟨CAM_BC_CMD a, 0, 56⟩
def CAM_BC_CMD_I2C (a : Nat) : Fld := ⟨CAM_BC_CMD a, 56, 1⟩
def CAM_BC_CMD_READ (a : Nat) : Fld := ⟨CAM_BC_CMD a, 57, 1⟩
def CAM_BC_CMD_NBYTES (a : Nat) : Fld := ⟨CAM_BC_CMD a, 58, 3⟩
def CAM_BC_CMD_GO (a : Nat) : Fld := ⟨CAM_BC_CMD a, 63, 1⟩

/-- `CAM_BC_RES`, R251. -/
def CAM_BC_RES (a : Nat) : Nat := 0x46100018 + 0x10000 * a
def CAM_BC_RES_STATUS (a : Nat) : Fld := ⟨CAM_BC_RES a, 0, 8⟩
def CAM_BC_RES_BUSY (a : Nat) : Fld := ⟨CAM_BC_RES a, 8, 1⟩
def CAM_BC_RES_RDATA (a : Nat) : Fld := ⟨CAM_BC_RES a, 32, 32⟩

/-! ### R269 (08_event_ledger.md) -/

/-- `LDG_CTL`, R269. -/
def LDG_CTL : Nat := 0x47020000
def LDG_CTL_EN : Fld := ⟨LDG_CTL, 0, 1⟩
def LDG_CTL_FLUSH : Fld := ⟨LDG_CTL, 1, 1⟩
def LDG_CTL_SHERD_CE : Fld := ⟨LDG_CTL, 2, 1⟩
def LDG_CTL_REINIT : Fld := ⟨LDG_CTL, 3, 1⟩
def LDG_CTL_CLOSE_MS : Fld := ⟨LDG_CTL, 16, 16⟩

/-- `LDG_STATUS`, R269. -/
def LDG_STATUS : Nat := 0x47020008
def LDG_STATUS_STATE : Fld := ⟨LDG_STATUS, 0, 2⟩
def LDG_STATUS_SIGUNAVAIL : Fld := ⟨LDG_STATUS, 2, 1⟩
def LDG_STATUS_STORE_ERR : Fld := ⟨LDG_STATUS, 3, 1⟩
def LDG_STATUS_PROVISIONAL : Fld := ⟨LDG_STATUS, 4, 1⟩
def LDG_STATUS_RESULT : Fld := ⟨LDG_STATUS, 8, 8⟩
def LDG_STATUS_STAGED : Fld := ⟨LDG_STATUS, 16, 9⟩

/-- `LDG_NS`, R269. -/
def LDG_NS : Nat := 0x47020010
def LDG_NS_NSID : Fld := ⟨LDG_NS, 0, 32⟩
def LDG_NS_LBADS : Fld := ⟨LDG_NS, 32, 8⟩

/-- `LDG_RING`, R269. -/
def LDG_RING : Nat := 0x47020018
def LDG_RING_LBAS : Fld := ⟨LDG_RING, 0, 48⟩

/-- `LDG_NVME_CFG`, R269. -/
def LDG_NVME_CFG : Nat := 0x47020020
def LDG_NVME_CFG_SQID : Fld := ⟨LDG_NVME_CFG, 0, 16⟩
def LDG_NVME_CFG_CQID : Fld := ⟨LDG_NVME_CFG, 16, 16⟩
def LDG_NVME_CFG_DSTRD : Fld := ⟨LDG_NVME_CFG, 32, 4⟩

/-- `LDG_NVME_BAR`, R269. -/
def LDG_NVME_BAR : Nat := 0x47020028
def LDG_NVME_BAR_ADDR : Fld := ⟨LDG_NVME_BAR, 0, 64⟩

/-- `LDG_NVME_SQADDR`, R269. -/
def LDG_NVME_SQADDR : Nat := 0x47020030
def LDG_NVME_SQADDR_ADDR : Fld := ⟨LDG_NVME_SQADDR, 0, 64⟩

/-- `LDG_NVME_CQADDR`, R269. -/
def LDG_NVME_CQADDR : Nat := 0x47020038
def LDG_NVME_CQADDR_ADDR : Fld := ⟨LDG_NVME_CQADDR, 0, 64⟩

/-- `LDG_SEQ`, R269. -/
def LDG_SEQ : Nat := 0x47020040
def LDG_SEQ_SEQ : Fld := ⟨LDG_SEQ, 0, 64⟩

/-- `LDG_SIGNED`, R269. -/
def LDG_SIGNED : Nat := 0x47020048
def LDG_SIGNED_SEQ : Fld := ⟨LDG_SIGNED, 0, 64⟩

/-- `LDG_LASTHASH`, R269. -/
def LDG_LASTHASH (i : Nat) : Nat := 0x47020050 + 0x8 * i
def LDG_LASTHASH_HASH (i : Nat) : Fld := ⟨LDG_LASTHASH i, 0, 64⟩

/-- `LDG_BOOTNO`, R269. -/
def LDG_BOOTNO : Nat := 0x47020070
def LDG_BOOTNO_BOOTNO : Fld := ⟨LDG_BOOTNO, 0, 32⟩

/-- `LDG_SIG_CFG`, R269. -/
def LDG_SIG_CFG : Nat := 0x47020078
def LDG_SIG_CFG_TIMEOUT_MS : Fld := ⟨LDG_SIG_CFG, 0, 16⟩
def LDG_SIG_CFG_RETRY_MS : Fld := ⟨LDG_SIG_CFG, 16, 16⟩

/-- `LDG_KEYID`, R269. -/
def LDG_KEYID : Nat := 0x47020080
def LDG_KEYID_KEYID : Fld := ⟨LDG_KEYID, 0, 64⟩

/-- `LDG_LOST`, R269. -/
def LDG_LOST : Nat := 0x47020088
def LDG_LOST_COUNT : Fld := ⟨LDG_LOST, 0, 32⟩

/-- `LDG_IRQ_STATUS`, R269. -/
def LDG_IRQ_STATUS : Nat := 0x47020090
def LDG_IRQ_STATUS_WRITTEN : Fld := ⟨LDG_IRQ_STATUS, 0, 1⟩
def LDG_IRQ_STATUS_SIGFAIL : Fld := ⟨LDG_IRQ_STATUS, 1, 1⟩
def LDG_IRQ_STATUS_SIGNED : Fld := ⟨LDG_IRQ_STATUS, 2, 1⟩
def LDG_IRQ_STATUS_STORE_ERR : Fld := ⟨LDG_IRQ_STATUS, 3, 1⟩
def LDG_IRQ_STATUS_LOST : Fld := ⟨LDG_IRQ_STATUS, 4, 1⟩
def LDG_IRQ_STATUS_RPLDONE : Fld := ⟨LDG_IRQ_STATUS, 5, 1⟩

/-- `LDG_IRQ_EN`, R269. -/
def LDG_IRQ_EN : Nat := 0x47020098
def LDG_IRQ_EN_EN : Fld := ⟨LDG_IRQ_EN, 0, 6⟩

/-- `LDG_RPL_FIRST`, R269. -/
def LDG_RPL_FIRST : Nat := 0x47020100
def LDG_RPL_FIRST_SEQ : Fld := ⟨LDG_RPL_FIRST, 0, 64⟩

/-- `LDG_RPL_COUNT`, R269. -/
def LDG_RPL_COUNT : Nat := 0x47020108
def LDG_RPL_COUNT_COUNT : Fld := ⟨LDG_RPL_COUNT, 0, 32⟩

/-- `LDG_RPL_BUF`, R269. -/
def LDG_RPL_BUF : Nat := 0x47020110
def LDG_RPL_BUF_ADDR : Fld := ⟨LDG_RPL_BUF, 0, 64⟩

/-- `LDG_RPL_CMD`, R269. -/
def LDG_RPL_CMD : Nat := 0x47020118
def LDG_RPL_CMD_OP : Fld := ⟨LDG_RPL_CMD, 0, 2⟩

/-- `LDG_RPL_RES`, R269. -/
def LDG_RPL_RES : Nat := 0x47020120
def LDG_RPL_RES_STATUS : Fld := ⟨LDG_RPL_RES, 0, 8⟩
def LDG_RPL_RES_BUSY : Fld := ⟨LDG_RPL_RES, 8, 1⟩
def LDG_RPL_RES_BREAK : Fld := ⟨LDG_RPL_RES, 9, 3⟩

/-- `LDG_RPL_BREAKSEQ`, R269. -/
def LDG_RPL_BREAKSEQ : Nat := 0x47020128
def LDG_RPL_BREAKSEQ_SEQ : Fld := ⟨LDG_RPL_BREAKSEQ, 0, 64⟩

/-! ### R271 (08_event_ledger.md) -/

/-- `LDG_W_DATA`, R271. -/
def LDG_W_DATA (w : Nat) (i : Nat) : Nat := 0x47022000 + 0x1000 * w + 0x8 * i
def LDG_W_DATA_WORD (w : Nat) (i : Nat) : Fld := ⟨LDG_W_DATA w i, 0, 64⟩

/-- `LDG_W_CMD`, R271. -/
def LDG_W_CMD (w : Nat) : Nat := 0x47022030 + 0x1000 * w
def LDG_W_CMD_TYPE (w : Nat) : Fld := ⟨LDG_W_CMD w, 0, 8⟩
def LDG_W_CMD_LEN (w : Nat) : Fld := ⟨LDG_W_CMD w, 8, 6⟩
def LDG_W_CMD_SUB (w : Nat) : Fld := ⟨LDG_W_CMD w, 16, 16⟩
def LDG_W_CMD_GO (w : Nat) : Fld := ⟨LDG_W_CMD w, 63, 1⟩

/-- `LDG_W_RES`, R271. -/
def LDG_W_RES (w : Nat) : Nat := 0x47022038 + 0x1000 * w
def LDG_W_RES_STATUS (w : Nat) : Fld := ⟨LDG_W_RES w, 0, 8⟩
def LDG_W_RES_BUSY (w : Nat) : Fld := ⟨LDG_W_RES w, 8, 1⟩

/-! ### R295 (09_cores_and_pipelines.md) -/

/-- `ACC_STATUS`, R295. -/
def ACC_STATUS (a : Nat) : Nat := 0x43000000 + 0x10000 * a
def ACC_STATUS_POWER (a : Nat) : Fld := ⟨ACC_STATUS a, 0, 2⟩
def ACC_STATUS_WFI (a : Nat) : Fld := ⟨ACC_STATUS a, 2, 1⟩
def ACC_STATUS_HALTED (a : Nat) : Fld := ⟨ACC_STATUS a, 3, 1⟩
def ACC_STATUS_FUSED (a : Nat) : Fld := ⟨ACC_STATUS a, 4, 1⟩
def ACC_STATUS_SHADOW (a : Nat) : Fld := ⟨ACC_STATUS a, 5, 1⟩
def ACC_STATUS_WORLD (a : Nat) : Fld := ⟨ACC_STATUS a, 6, 1⟩
def ACC_STATUS_VIRT (a : Nat) : Fld := ⟨ACC_STATUS a, 7, 1⟩
def ACC_STATUS_PRIV (a : Nat) : Fld := ⟨ACC_STATUS a, 8, 2⟩

/-- `ACC_RESETPC`, R295. -/
def ACC_RESETPC (a : Nat) : Nat := 0x43000008 + 0x10000 * a
def ACC_RESETPC_PC (a : Nat) : Fld := ⟨ACC_RESETPC a, 2, 62⟩

/-! ### R296 (09_cores_and_pipelines.md) -/

/-- `TKC_CTL`, R296. -/
def TKC_CTL (n : Nat) : Nat := 0x42040000 + 0x10000 * n
def TKC_CTL_RUN (n : Nat) : Fld := ⟨TKC_CTL n, 0, 1⟩

/-- `TKC_RESETPC`, R296. -/
def TKC_RESETPC (n : Nat) : Nat := 0x42040008 + 0x10000 * n
def TKC_RESETPC_OFFSET (n : Nat) : Fld := ⟨TKC_RESETPC n, 0, 17⟩

/-- `TKC_STATUS`, R296. -/
def TKC_STATUS (n : Nat) : Nat := 0x42040010 + 0x10000 * n
def TKC_STATUS_RUNNING (n : Nat) : Fld := ⟨TKC_STATUS n, 0, 1⟩
def TKC_STATUS_WFI (n : Nat) : Fld := ⟨TKC_STATUS n, 1, 1⟩
def TKC_STATUS_WAITVT (n : Nat) : Fld := ⟨TKC_STATUS n, 2, 1⟩
def TKC_STATUS_HALTED (n : Nat) : Fld := ⟨TKC_STATUS n, 3, 1⟩
def TKC_STATUS_FABRIC (n : Nat) : Fld := ⟨TKC_STATUS n, 4, 1⟩

/-- `TKC_CYCLE`, R296. -/
def TKC_CYCLE (n : Nat) : Nat := 0x42040018 + 0x10000 * n
def TKC_CYCLE_CYCLE (n : Nat) : Fld := ⟨TKC_CYCLE n, 0, 64⟩

/-! ### R316 (10_privilege_and_translation.md) -/

/-- `TKC_MSG`, R316. -/
def TKC_MSG (n : Nat) : Nat := 0x42040100 + 0x10000 * n
def TKC_MSG_EIID (n : Nat) : Fld := ⟨TKC_MSG n, 0, 6⟩

/-- `TKC_IPEND`, R316. -/
def TKC_IPEND (n : Nat) : Nat := 0x42040108 + 0x10000 * n
def TKC_IPEND_PEND (n : Nat) : Fld := ⟨TKC_IPEND n, 1, 63⟩

/-- `TKC_IEN`, R316. -/
def TKC_IEN (n : Nat) : Nat := 0x42040110 + 0x10000 * n
def TKC_IEN_EN (n : Nat) : Fld := ⟨TKC_IEN n, 1, 63⟩

/-- `TKC_CLAIM`, R316. -/
def TKC_CLAIM (n : Nat) : Nat := 0x42040118 + 0x10000 * n
def TKC_CLAIM_EIID (n : Nat) : Fld := ⟨TKC_CLAIM n, 0, 6⟩

/-! ### R345 (11_caches_and_coherence.md) -/

/-- `DIR_CTL`, R345. -/
def DIR_CTL : Nat := 0x44040000
def DIR_CTL_RESV_AFTER : Fld := ⟨DIR_CTL, 0, 4⟩
def DIR_CTL_BO_CAP : Fld := ⟨DIR_CTL, 4, 4⟩

/-- `DIR_HOLD`, R345. -/
def DIR_HOLD : Nat := 0x44040008
def DIR_HOLD_HOLD0 : Fld := ⟨DIR_HOLD, 0, 11⟩
def DIR_HOLD_HOLD1 : Fld := ⟨DIR_HOLD, 16, 11⟩

/-- `DIR_NACKCNT`, R345. -/
def DIR_NACKCNT : Nat := 0x44040010
def DIR_NACKCNT_COUNT : Fld := ⟨DIR_NACKCNT, 0, 32⟩

/-- `DIR_RESVCNT`, R345. -/
def DIR_RESVCNT : Nat := 0x44040018
def DIR_RESVCNT_RESERVED : Fld := ⟨DIR_RESVCNT, 0, 16⟩
def DIR_RESVCNT_RESVFULL : Fld := ⟨DIR_RESVCNT, 16, 16⟩

/-- `DIR_IRQ_STATUS`, R345. -/
def DIR_IRQ_STATUS : Nat := 0x44040020
def DIR_IRQ_STATUS_RETDONE : Fld := ⟨DIR_IRQ_STATUS, 0, 1⟩
def DIR_IRQ_STATUS_RESVFULL : Fld := ⟨DIR_IRQ_STATUS, 1, 1⟩

/-- `DIR_IRQ_EN`, R345. -/
def DIR_IRQ_EN : Nat := 0x44040028
def DIR_IRQ_EN_EN : Fld := ⟨DIR_IRQ_EN, 0, 2⟩

/-- `DIR_INSP_ADDR`, R345. -/
def DIR_INSP_ADDR : Nat := 0x44040100
def DIR_INSP_ADDR_LINE : Fld := ⟨DIR_INSP_ADDR, 6, 38⟩

/-- `DIR_INSP_RES`, R345. -/
def DIR_INSP_RES : Nat := 0x44040108
def DIR_INSP_RES_VALID : Fld := ⟨DIR_INSP_RES, 0, 1⟩
def DIR_INSP_RES_OPEN : Fld := ⟨DIR_INSP_RES, 1, 1⟩
def DIR_INSP_RES_STATE : Fld := ⟨DIR_INSP_RES, 2, 2⟩
def DIR_INSP_RES_SHARERS : Fld := ⟨DIR_INSP_RES, 4, 8⟩
def DIR_INSP_RES_OWNER : Fld := ⟨DIR_INSP_RES, 12, 3⟩
def DIR_INSP_RES_SLICE : Fld := ⟨DIR_INSP_RES, 16, 2⟩
def DIR_INSP_RES_SET : Fld := ⟨DIR_INSP_RES, 18, 12⟩
def DIR_INSP_RES_WAY : Fld := ⟨DIR_INSP_RES, 30, 4⟩
def DIR_INSP_RES_INSLC : Fld := ⟨DIR_INSP_RES, 34, 1⟩
def DIR_INSP_RES_SLCDIRTY : Fld := ⟨DIR_INSP_RES, 35, 1⟩
def DIR_INSP_RES_POISON : Fld := ⟨DIR_INSP_RES, 36, 1⟩
def DIR_INSP_RES_BUSY : Fld := ⟨DIR_INSP_RES, 63, 1⟩

/-- `DIR_RETIRE`, R345. -/
def DIR_RETIRE : Nat := 0x44040200
def DIR_RETIRE_WAYS : Fld := ⟨DIR_RETIRE, 0, 12⟩
def DIR_RETIRE_STATUS : Fld := ⟨DIR_RETIRE, 20, 8⟩
def DIR_RETIRE_BUSY : Fld := ⟨DIR_RETIRE, 28, 1⟩

/-- `DIR_L2RET`, R345. -/
def DIR_L2RET (a : Nat) : Nat := 0x44040300 + 0x8 * a
def DIR_L2RET_WAYS (a : Nat) : Fld := ⟨DIR_L2RET a, 0, 16⟩
def DIR_L2RET_STATUS (a : Nat) : Fld := ⟨DIR_L2RET a, 16, 8⟩
def DIR_L2RET_BUSY (a : Nat) : Fld := ⟨DIR_L2RET a, 24, 1⟩
def DIR_L2RET_PENDING (a : Nat) : Fld := ⟨DIR_L2RET a, 25, 1⟩

/-! ### R346 (11_caches_and_coherence.md) -/

/-- `SLC_WAYMAP`, R346. -/
def SLC_WAYMAP : Nat := 0x44050000
def SLC_WAYMAP_WAY (w : Nat) : Fld := ⟨SLC_WAYMAP, 0 + 2 * w, 2⟩

/-- `SLC_RETIRE`, R346. -/
def SLC_RETIRE : Nat := 0x44050008
def SLC_RETIRE_WAYS : Fld := ⟨SLC_RETIRE, 0, 24⟩

/-- `SLC_RET_RES`, R346. -/
def SLC_RET_RES : Nat := 0x44050010
def SLC_RET_RES_STATUS : Fld := ⟨SLC_RET_RES, 0, 8⟩
def SLC_RET_RES_BUSY : Fld := ⟨SLC_RET_RES, 8, 1⟩
def SLC_RET_RES_EPOCHWAIT : Fld := ⟨SLC_RET_RES, 9, 1⟩

/-! ### R402 (13_memory_and_integrity.md) -/

/-- `DMC_STATUS`, R402. -/
def DMC_STATUS : Nat := 0x44000000
def DMC_STATUS_TRAINED : Fld := ⟨DMC_STATUS, 0, 1⟩

/-- `DMC_SCRUB`, R402. -/
def DMC_SCRUB : Nat := 0x44000008
def DMC_SCRUB_HOURS : Fld := ⟨DMC_SCRUB, 0, 8⟩
def DMC_SCRUB_POS : Fld := ⟨DMC_SCRUB, 32, 22⟩

/-- `DMC_REMAP_CMD`, R402. -/
def DMC_REMAP_CMD : Nat := 0x44000010
def DMC_REMAP_CMD_PAGE : Fld := ⟨DMC_REMAP_CMD, 0, 32⟩
def DMC_REMAP_CMD_GO : Fld := ⟨DMC_REMAP_CMD, 63, 1⟩

/-- `DMC_REMAP_RES`, R402. -/
def DMC_REMAP_RES : Nat := 0x44000018
def DMC_REMAP_RES_STATUS : Fld := ⟨DMC_REMAP_RES, 0, 8⟩
def DMC_REMAP_RES_BUSY : Fld := ⟨DMC_REMAP_RES, 8, 1⟩
def DMC_REMAP_RES_SPARE : Fld := ⟨DMC_REMAP_RES, 32, 10⟩
def DMC_REMAP_RES_USED : Fld := ⟨DMC_REMAP_RES, 48, 11⟩

/-- `DMC_INJ`, R402. -/
def DMC_INJ : Nat := 0x44000020
def DMC_INJ_WORD : Fld := ⟨DMC_INJ, 0, 3⟩
def DMC_INJ_DOUBLE : Fld := ⟨DMC_INJ, 3, 1⟩
def DMC_INJ_ARM : Fld := ⟨DMC_INJ, 4, 1⟩
def DMC_INJ_LINE : Fld := ⟨DMC_INJ, 6, 38⟩

/-- `DMC_REMAP`, R402. -/
def DMC_REMAP (i : Nat) : Nat := 0x44001000 + 0x8 * i
def DMC_REMAP_PAGE (i : Nat) : Fld := ⟨DMC_REMAP i, 0, 32⟩
def DMC_REMAP_VALID (i : Nat) : Fld := ⟨DMC_REMAP i, 32, 1⟩

/-! ### R403 (13_memory_and_integrity.md) -/

/-- `ARB_CTL`, R403. -/
def ARB_CTL : Nat := 0x44010000
def ARB_CTL_SWAP : Fld := ⟨ARB_CTL, 0, 1⟩

/-- `ARB_STATUS`, R403. -/
def ARB_STATUS : Nat := 0x44010008
def ARB_STATUS_SWAPPENDING : Fld := ⟨ARB_STATUS, 0, 1⟩
def ARB_STATUS_IGNORED : Fld := ⟨ARB_STATUS, 1, 1⟩
def ARB_STATUS_GRANT : Fld := ⟨ARB_STATUS, 8, 4⟩
def ARB_STATUS_BG : Fld := ⟨ARB_STATUS, 12, 1⟩
def ARB_STATUS_SLOT : Fld := ⟨ARB_STATUS, 16, 10⟩
def ARB_STATUS_PRESENT : Fld := ⟨ARB_STATUS, 32, 11⟩

/-- `ARB_SH_WEIGHT`, R403. -/
def ARB_SH_WEIGHT : Nat := 0x44010010
def ARB_SH_WEIGHT_W (i : Nat) : Fld := ⟨ARB_SH_WEIGHT, 0 + 4 * i, 4⟩

/-- `ARB_ACT_WEIGHT`, R403. -/
def ARB_ACT_WEIGHT : Nat := 0x44010018
def ARB_ACT_WEIGHT_VALUE : Fld := ⟨ARB_ACT_WEIGHT, 0, 44⟩

/-- `ARB_LOST`, R403. -/
def ARB_LOST (i : Nat) : Nat := 0x44010100 + 0x8 * i
def ARB_LOST_COUNT (i : Nat) : Fld := ⟨ARB_LOST i, 0, 32⟩

/-- `ARB_SHADOW`, R403. -/
def ARB_SHADOW (j : Nat) : Nat := 0x44011000 + 0x8 * j
def ARB_SHADOW_OWNER (j : Nat) (b : Nat) : Fld := ⟨ARB_SHADOW j, 0 + 8 * b, 4⟩

/-- `ARB_ACTIVE`, R403. -/
def ARB_ACTIVE (j : Nat) : Nat := 0x44012000 + 0x8 * j
def ARB_ACTIVE_VALUE (j : Nat) : Fld := ⟨ARB_ACTIVE j, 0, 64⟩

/-! ### R404 (13_memory_and_integrity.md) -/

/-- `WDG_BASE`, R404. -/
def WDG_BASE : Nat := 0x44020000
def WDG_BASE_BASE : Fld := ⟨WDG_BASE, 12, 32⟩

/-- `WDG_LEN`, R404. -/
def WDG_LEN : Nat := 0x44020008
def WDG_LEN_PAGES : Fld := ⟨WDG_LEN, 0, 32⟩

/-- `WDG_CMD`, R404. -/
def WDG_CMD : Nat := 0x44020010
def WDG_CMD_OP : Fld := ⟨WDG_CMD, 0, 2⟩

/-- `WDG_RES`, R404. -/
def WDG_RES : Nat := 0x44020018
def WDG_RES_STATUS : Fld := ⟨WDG_RES, 0, 8⟩
def WDG_RES_BUSY : Fld := ⟨WDG_RES, 8, 1⟩
def WDG_RES_FAILS : Fld := ⟨WDG_RES, 32, 32⟩

/-- `WDG_PROG`, R404. -/
def WDG_PROG : Nat := 0x44020020
def WDG_PROG_FRONT : Fld := ⟨WDG_PROG, 12, 32⟩

/-- `WDG_FIRSTFAIL`, R404. -/
def WDG_FIRSTFAIL : Nat := 0x44020028
def WDG_FIRSTFAIL_LINE : Fld := ⟨WDG_FIRSTFAIL, 6, 38⟩

/-! ### R405 (13_memory_and_integrity.md) -/

/-- `SHD_CTL`, R405. -/
def SHD_CTL : Nat := 0x44030000
def SHD_CTL_LOG_CE : Fld := ⟨SHD_CTL, 0, 1⟩

/-- `SHD_STAT`, R405. -/
def SHD_STAT : Nat := 0x44030008
def SHD_STAT_COUNT : Fld := ⟨SHD_STAT, 0, 13⟩
def SHD_STAT_OVERWRITTEN : Fld := ⟨SHD_STAT, 32, 32⟩

/-- `SHD_POP`, R405. -/
def SHD_POP : Nat := 0x44030010
def SHD_POP_POP : Fld := ⟨SHD_POP, 0, 1⟩

/-- `SHD_HEAD`, R405. -/
def SHD_HEAD (i : Nat) : Nat := 0x44030020 + 0x8 * i
def SHD_HEAD_WORD (i : Nat) : Fld := ⟨SHD_HEAD i, 0, 64⟩

/-- `SHD_IRQ_STATUS`, R405. -/
def SHD_IRQ_STATUS : Nat := 0x44030040
def SHD_IRQ_STATUS_CE : Fld := ⟨SHD_IRQ_STATUS, 0, 1⟩
def SHD_IRQ_STATUS_UE : Fld := ⟨SHD_IRQ_STATUS, 1, 1⟩
def SHD_IRQ_STATUS_REFUSED : Fld := ⟨SHD_IRQ_STATUS, 2, 1⟩
def SHD_IRQ_STATUS_ADVICE : Fld := ⟨SHD_IRQ_STATUS, 3, 1⟩
def SHD_IRQ_STATUS_CONSUMED : Fld := ⟨SHD_IRQ_STATUS, 4, 1⟩
def SHD_IRQ_STATUS_HALF : Fld := ⟨SHD_IRQ_STATUS, 5, 1⟩

/-- `SHD_IRQ_EN`, R405. -/
def SHD_IRQ_EN : Nat := 0x44030048
def SHD_IRQ_EN_EN : Fld := ⟨SHD_IRQ_EN, 0, 6⟩

/-- `SHD_CRZ_CFG`, R405. -/
def SHD_CRZ_CFG : Nat := 0x44030100
def SHD_CRZ_CFG_DECAY_H : Fld := ⟨SHD_CRZ_CFG, 0, 16⟩
def SHD_CRZ_CFG_THR0 : Fld := ⟨SHD_CRZ_CFG, 16, 8⟩
def SHD_CRZ_CFG_THR1 : Fld := ⟨SHD_CRZ_CFG, 24, 8⟩
def SHD_CRZ_CFG_THR2 : Fld := ⟨SHD_CRZ_CFG, 32, 8⟩
def SHD_CRZ_CFG_THR3 : Fld := ⟨SHD_CRZ_CFG, 40, 8⟩
def SHD_CRZ_CFG_THR4 : Fld := ⟨SHD_CRZ_CFG, 48, 8⟩

/-- `SHD_CRZ_IDX`, R405. -/
def SHD_CRZ_IDX : Nat := 0x44030200
def SHD_CRZ_IDX_INDEX : Fld := ⟨SHD_CRZ_IDX, 0, 8⟩

/-- `SHD_CRZ_ENT`, R405. -/
def SHD_CRZ_ENT : Nat := 0x44030208
def SHD_CRZ_ENT_SOURCE : Fld := ⟨SHD_CRZ_ENT, 0, 16⟩
def SHD_CRZ_ENT_UKIND : Fld := ⟨SHD_CRZ_ENT, 16, 3⟩
def SHD_CRZ_ENT_VALID : Fld := ⟨SHD_CRZ_ENT, 19, 1⟩
def SHD_CRZ_ENT_ADVISE : Fld := ⟨SHD_CRZ_ENT, 20, 1⟩
def SHD_CRZ_ENT_UNIT : Fld := ⟨SHD_CRZ_ENT, 32, 32⟩

/-- `SHD_CRZ_CNT`, R405. -/
def SHD_CRZ_CNT : Nat := 0x44030210
def SHD_CRZ_CNT_COUNT : Fld := ⟨SHD_CRZ_CNT, 0, 16⟩
def SHD_CRZ_CNT_CLEAR : Fld := ⟨SHD_CRZ_CNT, 16, 1⟩

/-- `SHD_CRZ_LAST`, R405. -/
def SHD_CRZ_LAST : Nat := 0x44030218
def SHD_CRZ_LAST_VT : Fld := ⟨SHD_CRZ_LAST, 0, 64⟩

/-! ### R434 (14_worlds_and_saggars.md) -/

/-- `WMK_REQ`, R434. -/
def WMK_REQ : Nat := 0x41020000
def WMK_REQ_NEW : Fld := ⟨WMK_REQ, 0, 8⟩
def WMK_REQ_EXPECT : Fld := ⟨WMK_REQ, 8, 8⟩
def WMK_REQ_GO : Fld := ⟨WMK_REQ, 31, 1⟩

/-- `WMK_STATUS`, R434. -/
def WMK_STATUS : Nat := 0x41020008
def WMK_STATUS_N : Fld := ⟨WMK_STATUS, 0, 8⟩
def WMK_STATUS_TARGET : Fld := ⟨WMK_STATUS, 8, 8⟩
def WMK_STATUS_BUSY : Fld := ⟨WMK_STATUS, 16, 1⟩
def WMK_STATUS_CLOSED : Fld := ⟨WMK_STATUS, 17, 1⟩
def WMK_STATUS_RESULT : Fld := ⟨WMK_STATUS, 24, 8⟩

/-- `WMK_IRQ_STATUS`, R434. -/
def WMK_IRQ_STATUS : Nat := 0x41020010
def WMK_IRQ_STATUS_DONE : Fld := ⟨WMK_IRQ_STATUS, 0, 1⟩

/-- `WMK_IRQ_EN`, R434. -/
def WMK_IRQ_EN : Nat := 0x41020018
def WMK_IRQ_EN_EN : Fld := ⟨WMK_IRQ_EN, 0, 1⟩

/-! ### R435 (14_worlds_and_saggars.md) -/

/-- `SAG_STATUS`, R435. -/
def SAG_STATUS : Nat := 0x41030000
def SAG_STATUS_NSAG : Fld := ⟨SAG_STATUS, 0, 7⟩
def SAG_STATUS_NRNG : Fld := ⟨SAG_STATUS, 16, 9⟩

/-- `SAG_DESC_ENTRY`, R435. -/
def SAG_DESC_ENTRY (k : Nat) : Nat := 0x41031000 + 0x10 * k
def SAG_DESC_ENTRY_ENTRY (k : Nat) : Fld := ⟨SAG_DESC_ENTRY k, 0, 64⟩

/-- `SAG_DESC_ATTR`, R435. -/
def SAG_DESC_ATTR (k : Nat) : Nat := 0x41031008 + 0x10 * k
def SAG_DESC_ATTR_MODES (k : Nat) : Fld := ⟨SAG_DESC_ATTR k, 0, 4⟩
def SAG_DESC_ATTR_SECACC (k : Nat) : Fld := ⟨SAG_DESC_ATTR k, 4, 1⟩
def SAG_DESC_ATTR_CLR (k : Nat) : Fld := ⟨SAG_DESC_ATTR k, 5, 2⟩
def SAG_DESC_ATTR_VALID (k : Nat) : Fld := ⟨SAG_DESC_ATTR k, 7, 1⟩
def SAG_DESC_ATTR_VMID (k : Nat) : Fld := ⟨SAG_DESC_ATTR k, 8, 14⟩
def SAG_DESC_ATTR_VMIDANY (k : Nat) : Fld := ⟨SAG_DESC_ATTR k, 22, 1⟩

/-- `SAG_RNG_PAGE`, R435. -/
def SAG_RNG_PAGE (i : Nat) : Nat := 0x41032000 + 0x10 * i
def SAG_RNG_PAGE_BASE (i : Nat) : Fld := ⟨SAG_RNG_PAGE i, 0, 32⟩
def SAG_RNG_PAGE_PAGES (i : Nat) : Fld := ⟨SAG_RNG_PAGE i, 32, 32⟩

/-- `SAG_RNG_ATTR`, R435. -/
def SAG_RNG_ATTR (i : Nat) : Nat := 0x41032008 + 0x10 * i
def SAG_RNG_ATTR_SID (i : Nat) : Fld := ⟨SAG_RNG_ATTR i, 0, 6⟩
def SAG_RNG_ATTR_R (i : Nat) : Fld := ⟨SAG_RNG_ATTR i, 6, 1⟩
def SAG_RNG_ATTR_W (i : Nat) : Fld := ⟨SAG_RNG_ATTR i, 7, 1⟩
def SAG_RNG_ATTR_X (i : Nat) : Fld := ⟨SAG_RNG_ATTR i, 8, 1⟩
def SAG_RNG_ATTR_VALID (i : Nat) : Fld := ⟨SAG_RNG_ATTR i, 9, 1⟩

/-! ### R436 (14_worlds_and_saggars.md) -/

/-- `HOV_CFG`, R436. -/
def HOV_CFG : Nat := 0x41040000
def HOV_CFG_QUIESCE_US : Fld := ⟨HOV_CFG, 0, 16⟩

/-- `HOV_OWN`, R436. -/
def HOV_OWN (d : Nat) (i : Nat) : Nat := 0x41040100 + 0x20 * d + 0x8 * i
def HOV_OWN_NORMAL (d : Nat) (i : Nat) : Fld := ⟨HOV_OWN d i, 0, 64⟩

/-- `HOV_W_REQ`, R436. -/
def HOV_W_REQ (w : Nat) : Nat := 0x41042000 + 0x1000 * w
def HOV_W_REQ_BLOCK (w : Nat) : Fld := ⟨HOV_W_REQ w, 0, 16⟩
def HOV_W_REQ_WITHDRAW (w : Nat) : Fld := ⟨HOV_W_REQ w, 16, 1⟩
def HOV_W_REQ_GO (w : Nat) : Fld := ⟨HOV_W_REQ w, 31, 1⟩

/-- `HOV_W_RES`, R436. -/
def HOV_W_RES (w : Nat) : Nat := 0x41042008 + 0x1000 * w
def HOV_W_RES_STATUS (w : Nat) : Fld := ⟨HOV_W_RES w, 0, 8⟩
def HOV_W_RES_STATE (w : Nat) : Fld := ⟨HOV_W_RES w, 8, 3⟩
def HOV_W_RES_WITHDRAWN (w : Nat) : Fld := ⟨HOV_W_RES w, 11, 1⟩
def HOV_W_RES_BLOCK (w : Nat) : Fld := ⟨HOV_W_RES w, 16, 16⟩
def HOV_W_RES_DURATION (w : Nat) : Fld := ⟨HOV_W_RES w, 32, 32⟩

/-- `HOV_W_IRQ_STATUS`, R436. -/
def HOV_W_IRQ_STATUS (w : Nat) : Nat := 0x41042010 + 0x1000 * w
def HOV_W_IRQ_STATUS_DONE (w : Nat) : Fld := ⟨HOV_W_IRQ_STATUS w, 0, 1⟩

/-- `HOV_W_IRQ_EN`, R436. -/
def HOV_W_IRQ_EN (w : Nat) : Nat := 0x41042018 + 0x1000 * w
def HOV_W_IRQ_EN_EN (w : Nat) : Fld := ⟨HOV_W_IRQ_EN w, 0, 1⟩

/-- `HOV_W_VEC`, R436. -/
def HOV_W_VEC (w : Nat) : Nat := 0x41042080 + 0x1000 * w
def HOV_W_VEC_HART (w : Nat) : Fld := ⟨HOV_W_VEC w, 0, 4⟩
def HOV_W_VEC_FILE (w : Nat) : Fld := ⟨HOV_W_VEC w, 4, 3⟩
def HOV_W_VEC_EN (w : Nat) : Fld := ⟨HOV_W_VEC w, 7, 1⟩
def HOV_W_VEC_EIID (w : Nat) : Fld := ⟨HOV_W_VEC w, 8, 11⟩

/-- `HOV_S_PEND`, R436. -/
def HOV_S_PEND : Nat := 0x41042020
def HOV_S_PEND_BLOCK : Fld := ⟨HOV_S_PEND, 0, 16⟩
def HOV_S_PEND_VALID : Fld := ⟨HOV_S_PEND, 16, 1⟩

/-- `HOV_S_CONSENT`, R436. -/
def HOV_S_CONSENT : Nat := 0x41042028
def HOV_S_CONSENT_GRANT : Fld := ⟨HOV_S_CONSENT, 0, 1⟩
def HOV_S_CONSENT_REFUSE : Fld := ⟨HOV_S_CONSENT, 1, 1⟩

/-- `HOV_S_PMPEND`, R436. -/
def HOV_S_PMPEND : Nat := 0x41042030
def HOV_S_PMPEND_DOMAIN : Fld := ⟨HOV_S_PMPEND, 0, 3⟩
def HOV_S_PMPEND_VALID : Fld := ⟨HOV_S_PMPEND, 8, 1⟩

/-- `HOV_S_PMCONSENT`, R436. -/
def HOV_S_PMCONSENT : Nat := 0x41042038
def HOV_S_PMCONSENT_GRANT : Fld := ⟨HOV_S_PMCONSENT, 0, 1⟩
def HOV_S_PMCONSENT_REFUSE : Fld := ⟨HOV_S_PMCONSENT, 1, 1⟩

/-- `HOV_S_IRQ_STATUS`, R436. -/
def HOV_S_IRQ_STATUS : Nat := 0x41042040
def HOV_S_IRQ_STATUS_TAKE : Fld := ⟨HOV_S_IRQ_STATUS, 0, 1⟩
def HOV_S_IRQ_STATUS_PM : Fld := ⟨HOV_S_IRQ_STATUS, 1, 1⟩

/-- `HOV_S_IRQ_EN`, R436. -/
def HOV_S_IRQ_EN : Nat := 0x41042048
def HOV_S_IRQ_EN_EN : Fld := ⟨HOV_S_IRQ_EN, 0, 2⟩

/-! ### R437 (14_worlds_and_saggars.md) -/

/-- `SWD_CFG`, R437. -/
def SWD_CFG : Nat := 0x41050000
def SWD_CFG_TA_MS : Fld := ⟨SWD_CFG, 0, 10⟩
def SWD_CFG_TS_MS : Fld := ⟨SWD_CFG, 16, 10⟩
def SWD_CFG_WARN_MS : Fld := ⟨SWD_CFG, 32, 10⟩

/-- `SWD_KICK`, R437. -/
def SWD_KICK (c : Nat) : Nat := 0x41050010 + 0x10 * c
def SWD_KICK_SEQ (c : Nat) : Fld := ⟨SWD_KICK c, 0, 16⟩

/-- `SWD_CLS`, R437. -/
def SWD_CLS (c : Nat) : Nat := 0x41050018 + 0x10 * c
def SWD_CLS_NEXT (c : Nat) : Fld := ⟨SWD_CLS c, 0, 16⟩
def SWD_CLS_REMAIN_MS (c : Nat) : Fld := ⟨SWD_CLS c, 16, 10⟩
def SWD_CLS_RESULT (c : Nat) : Fld := ⟨SWD_CLS c, 32, 8⟩

/-- `SWD_STATUS`, R437. -/
def SWD_STATUS : Nat := 0x41050040
def SWD_STATUS_TSDOWN : Fld := ⟨SWD_STATUS, 0, 1⟩
def SWD_STATUS_FROZEN : Fld := ⟨SWD_STATUS, 1, 1⟩
def SWD_STATUS_TSEXP : Fld := ⟨SWD_STATUS, 8, 8⟩

/-- `SWD_IRQ_STATUS`, R437. -/
def SWD_IRQ_STATUS : Nat := 0x41050048
def SWD_IRQ_STATUS_WARN : Fld := ⟨SWD_IRQ_STATUS, 0, 2⟩
def SWD_IRQ_STATUS_TSEXP : Fld := ⟨SWD_IRQ_STATUS, 2, 1⟩

/-- `SWD_IRQ_EN`, R437. -/
def SWD_IRQ_EN : Nat := 0x41050050
def SWD_IRQ_EN_EN : Fld := ⟨SWD_IRQ_EN, 0, 3⟩

/-! ### R438 (14_worlds_and_saggars.md) -/

/-- `KEY_LDGPUB_QX`, R438. -/
def KEY_LDGPUB_QX (i : Nat) : Nat := 0x41060000 + 0x8 * i
def KEY_LDGPUB_QX_QX (i : Nat) : Fld := ⟨KEY_LDGPUB_QX i, 0, 64⟩

/-- `KEY_LDGPUB_QY`, R438. -/
def KEY_LDGPUB_QY (i : Nat) : Nat := 0x41060020 + 0x8 * i
def KEY_LDGPUB_QY_QY (i : Nat) : Fld := ⟨KEY_LDGPUB_QY i, 0, 64⟩

/-- `KEY_LDGPUB_STAT`, R438. -/
def KEY_LDGPUB_STAT : Nat := 0x41060040
def KEY_LDGPUB_STAT_VALID : Fld := ⟨KEY_LDGPUB_STAT, 0, 1⟩

/-! ### R459 (15_guarantees_and_recovery.md) -/

/-- `EPO_CFG`, R459. -/
def EPO_CFG (c : Nat) : Nat := 0x43080000 + 0x100 * c
def EPO_CFG_EPOCH (c : Nat) : Fld := ⟨EPO_CFG c, 0, 1⟩
def EPO_CFG_RBLIMIT (c : Nat) : Fld := ⟨EPO_CFG c, 8, 8⟩
def EPO_CFG_LEN_US (c : Nat) : Fld := ⟨EPO_CFG c, 16, 10⟩

/-- `EPO_CMD`, R459. -/
def EPO_CMD (c : Nat) : Nat := 0x43080008 + 0x100 * c
def EPO_CMD_COMMIT (c : Nat) : Fld := ⟨EPO_CMD c, 0, 1⟩
def EPO_CMD_ROLLBACK (c : Nat) : Fld := ⟨EPO_CMD c, 1, 1⟩
def EPO_CMD_RESUME (c : Nat) : Fld := ⟨EPO_CMD c, 2, 1⟩

/-- `EPO_STATUS`, R459. -/
def EPO_STATUS (c : Nat) : Nat := 0x43080010 + 0x100 * c
def EPO_STATUS_STATE (c : Nat) : Fld := ⟨EPO_STATUS c, 0, 2⟩
def EPO_STATUS_RBRUN (c : Nat) : Fld := ⟨EPO_STATUS c, 8, 8⟩

/-- `EPO_STORE`, R459. -/
def EPO_STORE (c : Nat) : Nat := 0x43080018 + 0x100 * c
def EPO_STORE_USED (c : Nat) : Fld := ⟨EPO_STORE c, 0, 18⟩
def EPO_STORE_SIZE (c : Nat) : Fld := ⟨EPO_STORE c, 32, 18⟩

/-- `EPO_OUTQ`, R459. -/
def EPO_OUTQ (c : Nat) : Nat := 0x43080020 + 0x100 * c
def EPO_OUTQ_USED (c : Nat) : Fld := ⟨EPO_OUTQ c, 0, 9⟩

/-- `EPO_COMMITS`, R459. -/
def EPO_COMMITS (c : Nat) : Nat := 0x43080028 + 0x100 * c
def EPO_COMMITS_COUNT (c : Nat) : Fld := ⟨EPO_COMMITS c, 0, 64⟩

/-- `EPO_CNT`, R459. -/
def EPO_CNT (c : Nat) : Nat := 0x43080030 + 0x100 * c
def EPO_CNT_ROLLBACKS (c : Nat) : Fld := ⟨EPO_CNT c, 0, 32⟩
def EPO_CNT_EARLY (c : Nat) : Fld := ⟨EPO_CNT c, 32, 32⟩

/-- `EPO_LASTCOMMIT`, R459. -/
def EPO_LASTCOMMIT (c : Nat) : Nat := 0x43080038 + 0x100 * c
def EPO_LASTCOMMIT_VT (c : Nat) : Fld := ⟨EPO_LASTCOMMIT c, 0, 64⟩

/-- `EPO_LASTRB`, R459. -/
def EPO_LASTRB (c : Nat) : Nat := 0x43080040 + 0x100 * c
def EPO_LASTRB_VT (c : Nat) : Fld := ⟨EPO_LASTRB c, 0, 64⟩

/-- `EPO_RBCAUSE`, R459. -/
def EPO_RBCAUSE (c : Nat) : Nat := 0x43080048 + 0x100 * c
def EPO_RBCAUSE_CAUSE (c : Nat) : Fld := ⟨EPO_RBCAUSE c, 0, 2⟩
def EPO_RBCAUSE_HART (c : Nat) : Fld := ⟨EPO_RBCAUSE c, 8, 3⟩

/-- `EPO_IRQ_STATUS`, R459. -/
def EPO_IRQ_STATUS (c : Nat) : Nat := 0x43080050 + 0x100 * c
def EPO_IRQ_STATUS_ROLLBACK (c : Nat) : Fld := ⟨EPO_IRQ_STATUS c, 0, 1⟩
def EPO_IRQ_STATUS_FAILED (c : Nat) : Fld := ⟨EPO_IRQ_STATUS c, 1, 1⟩
def EPO_IRQ_STATUS_OUTREFUSED (c : Nat) : Fld := ⟨EPO_IRQ_STATUS c, 2, 1⟩

/-- `EPO_IRQ_EN`, R459. -/
def EPO_IRQ_EN (c : Nat) : Nat := 0x43080058 + 0x100 * c
def EPO_IRQ_EN_EN (c : Nat) : Fld := ⟨EPO_IRQ_EN c, 0, 3⟩

/-- `EPO_OUTREF`, R459. -/
def EPO_OUTREF (c : Nat) : Nat := 0x43080060 + 0x100 * c
def EPO_OUTREF_ADDR (c : Nat) : Fld := ⟨EPO_OUTREF c, 0, 44⟩
def EPO_OUTREF_STATUS (c : Nat) : Fld := ⟨EPO_OUTREF c, 44, 8⟩
def EPO_OUTREF_HART (c : Nat) : Fld := ⟨EPO_OUTREF c, 52, 4⟩

/-! ### R460 (15_guarantees_and_recovery.md) -/

/-- `EPO_LOCK`, R460. -/
def EPO_LOCK (n : Nat) : Nat := 0x43081000 + 0x8 * n
def EPO_LOCK_OWNER (n : Nat) : Fld := ⟨EPO_LOCK n, 0, 4⟩
def EPO_LOCK_BROKEN (n : Nat) : Fld := ⟨EPO_LOCK n, 4, 1⟩
def EPO_LOCK_ACQ (n : Nat) : Fld := ⟨EPO_LOCK n, 8, 1⟩
def EPO_LOCK_REL (n : Nat) : Fld := ⟨EPO_LOCK n, 9, 1⟩

/-! ### R461 (15_guarantees_and_recovery.md) -/

/-- `LKS_STATUS`, R461. -/
def LKS_STATUS (p : Nat) : Nat := 0x43090000 + 0x40 * p
def LKS_STATUS_FUSED (p : Nat) : Fld := ⟨LKS_STATUS p, 0, 1⟩
def LKS_STATUS_STOPPED (p : Nat) : Fld := ⟨LKS_STATUS p, 1, 1⟩
def LKS_STATUS_KIND (p : Nat) : Fld := ⟨LKS_STATUS p, 8, 8⟩

/-- `LKS_PC`, R461. -/
def LKS_PC (p : Nat) : Nat := 0x43090008 + 0x40 * p
def LKS_PC_PC (p : Nat) : Fld := ⟨LKS_PC p, 0, 64⟩

/-- `LKS_CTL`, R461. -/
def LKS_CTL (p : Nat) : Nat := 0x43090010 + 0x40 * p
def LKS_CTL_RESTART (p : Nat) : Fld := ⟨LKS_CTL p, 0, 1⟩
def LKS_CTL_INJECT (p : Nat) : Fld := ⟨LKS_CTL p, 1, 1⟩

/-- `LKS_CNT`, R461. -/
def LKS_CNT (p : Nat) : Nat := 0x43090018 + 0x40 * p
def LKS_CNT_COUNT (p : Nat) : Fld := ⟨LKS_CNT p, 0, 32⟩

/-- `LKS_IRQ_STATUS`, R461. -/
def LKS_IRQ_STATUS : Nat := 0x43090100
def LKS_IRQ_STATUS_DIV : Fld := ⟨LKS_IRQ_STATUS, 0, 4⟩

/-- `LKS_IRQ_EN`, R461. -/
def LKS_IRQ_EN : Nat := 0x43090108
def LKS_IRQ_EN_EN : Fld := ⟨LKS_IRQ_EN, 0, 4⟩

/-! ### R486 (16_power_clocks_sleep.md) -/

/-- `PWR_ID`, R486. -/
def PWR_ID : Nat := 0x40000000
def PWR_ID_PART : Fld := ⟨PWR_ID, 0, 16⟩
def PWR_ID_STEP : Fld := ⟨PWR_ID, 16, 8⟩

/-- `PWR_GOV`, R486. -/
def PWR_GOV : Nat := 0x40000008
def PWR_GOV_MODE : Fld := ⟨PWR_GOV, 0, 2⟩
def PWR_GOV_BMODE : Fld := ⟨PWR_GOV, 2, 2⟩
def PWR_GOV_CEIL : Fld := ⟨PWR_GOV, 4, 2⟩
def PWR_GOV_BUDGET : Fld := ⟨PWR_GOV, 8, 10⟩
def PWR_GOV_EFFECTIVE : Fld := ⟨PWR_GOV, 32, 10⟩
def PWR_GOV_DRAW : Fld := ⟨PWR_GOV, 42, 10⟩

/-- `PWR_STATUS`, R486. -/
def PWR_STATUS : Nat := 0x40000010
def PWR_STATUS_LASTMODE : Fld := ⟨PWR_STATUS, 0, 2⟩

/-- `PWR_DOMSTATE`, R486. -/
def PWR_DOMSTATE : Nat := 0x40000018
def PWR_DOMSTATE_STATE (d : Nat) : Fld := ⟨PWR_DOMSTATE, 0 + 4 * d, 3⟩

/-- `PWR_APCCLK`, R486. -/
def PWR_APCCLK : Nat := 0x40000020
def PWR_APCCLK_CLK0 : Fld := ⟨PWR_APCCLK, 0, 12⟩
def PWR_APCCLK_CLK1 : Fld := ⟨PWR_APCCLK, 16, 12⟩
def PWR_APCCLK_CLAMP : Fld := ⟨PWR_APCCLK, 31, 1⟩

/-- `PWR_W_MODEREQ`, R486. -/
def PWR_W_MODEREQ (w : Nat) : Nat := 0x40002000 + 0x1000 * w
def PWR_W_MODEREQ_REQ (w : Nat) : Fld := ⟨PWR_W_MODEREQ w, 0, 2⟩

/-- `PWR_W_DOMREQ`, R486. -/
def PWR_W_DOMREQ (w : Nat) : Nat := 0x40002008 + 0x1000 * w
def PWR_W_DOMREQ_OFF (w : Nat) : Fld := ⟨PWR_W_DOMREQ w, 0, 8⟩

/-- `PWR_W_GATE`, R486. -/
def PWR_W_GATE (w : Nat) : Nat := 0x40002010 + 0x1000 * w
def PWR_W_GATE_BLOCK (w : Nat) : Fld := ⟨PWR_W_GATE w, 0, 16⟩
def PWR_W_GATE_GATE (w : Nat) : Fld := ⟨PWR_W_GATE w, 16, 1⟩
def PWR_W_GATE_GO (w : Nat) : Fld := ⟨PWR_W_GATE w, 31, 1⟩

/-- `PWR_W_RES`, R486. -/
def PWR_W_RES (w : Nat) : Nat := 0x40002018 + 0x1000 * w
def PWR_W_RES_STATUS (w : Nat) : Fld := ⟨PWR_W_RES w, 0, 8⟩
def PWR_W_RES_PEND (w : Nat) : Fld := ⟨PWR_W_RES w, 8, 1⟩

/-- `PWR_W_APCCLK`, R486. -/
def PWR_W_APCCLK (w : Nat) : Nat := 0x40002020 + 0x1000 * w
def PWR_W_APCCLK_MAX0 (w : Nat) : Fld := ⟨PWR_W_APCCLK w, 0, 12⟩
def PWR_W_APCCLK_MAX1 (w : Nat) : Fld := ⟨PWR_W_APCCLK w, 16, 12⟩

/-- `PWR_S_CORE`, R486. -/
def PWR_S_CORE (a : Nat) : Nat := 0x40002100 + 0x8 * a
def PWR_S_CORE_REQ (a : Nat) : Fld := ⟨PWR_S_CORE a, 0, 2⟩
def PWR_S_CORE_STATE (a : Nat) : Fld := ⟨PWR_S_CORE a, 8, 2⟩

/-! ### R487 (16_power_clocks_sleep.md) -/

/-- `WAKE_EN`, R487. -/
def WAKE_EN : Nat := 0x40010000
def WAKE_EN_ALARM : Fld := ⟨WAKE_EN, 0, 1⟩
def WAKE_EN_PODL : Fld := ⟨WAKE_EN, 1, 1⟩
def WAKE_EN_TC10 : Fld := ⟨WAKE_EN, 2, 1⟩
def WAKE_EN_CAN0 : Fld := ⟨WAKE_EN, 3, 1⟩
def WAKE_EN_CAN1 : Fld := ⟨WAKE_EN, 4, 1⟩
def WAKE_EN_TP : Fld := ⟨WAKE_EN, 5, 1⟩
def WAKE_EN_SW : Fld := ⟨WAKE_EN, 6, 1⟩
def WAKE_EN_PINS : Fld := ⟨WAKE_EN, 16, 16⟩

/-- `WAKE_CAUSE`, R487. -/
def WAKE_CAUSE : Nat := 0x40010008
def WAKE_CAUSE_CAUSE : Fld := ⟨WAKE_CAUSE, 0, 7⟩
def WAKE_CAUSE_FIRST : Fld := ⟨WAKE_CAUSE, 8, 3⟩
def WAKE_CAUSE_PORT : Fld := ⟨WAKE_CAUSE, 11, 5⟩
def WAKE_CAUSE_PIN : Fld := ⟨WAKE_CAUSE, 16, 4⟩

/-- `WAKE_SWREQ`, R487. -/
def WAKE_SWREQ : Nat := 0x40010010
def WAKE_SWREQ_GO : Fld := ⟨WAKE_SWREQ, 0, 1⟩

/-! ### R488 (16_power_clocks_sleep.md) -/

/-- `SUP_STATUS`, R488. -/
def SUP_STATUS : Nat := 0x40020000
def SUP_STATUS_INPUT : Fld := ⟨SUP_STATUS, 0, 2⟩
def SUP_STATUS_NOMINAL : Fld := ⟨SUP_STATUS, 2, 2⟩
def SUP_STATUS_DIP : Fld := ⟨SUP_STATUS, 4, 1⟩
def SUP_STATUS_VSUP_OK : Fld := ⟨SUP_STATUS, 5, 1⟩
def SUP_STATUS_PODL_OK : Fld := ⟨SUP_STATUS, 6, 1⟩
def SUP_STATUS_VIN : Fld := ⟨SUP_STATUS, 16, 16⟩

/-- `SUP_LEVELS`, R488. -/
def SUP_LEVELS : Nat := 0x40020008
def SUP_LEVELS_WARN : Fld := ⟨SUP_LEVELS, 0, 16⟩
def SUP_LEVELS_RESTORE : Fld := ⟨SUP_LEVELS, 16, 16⟩
def SUP_LEVELS_RESET : Fld := ⟨SUP_LEVELS, 32, 16⟩

/-- `SUP_DIPCNT`, R488. -/
def SUP_DIPCNT : Nat := 0x40020010
def SUP_DIPCNT_DIPS : Fld := ⟨SUP_DIPCNT, 0, 32⟩
def SUP_DIPCNT_LONGEST : Fld := ⟨SUP_DIPCNT, 32, 32⟩

/-- `SUP_W_IRQ_STATUS`, R488. -/
def SUP_W_IRQ_STATUS (w : Nat) : Nat := 0x40022000 + 0x1000 * w
def SUP_W_IRQ_STATUS_DIPSTART (w : Nat) : Fld := ⟨SUP_W_IRQ_STATUS w, 0, 1⟩
def SUP_W_IRQ_STATUS_DIPEND (w : Nat) : Fld := ⟨SUP_W_IRQ_STATUS w, 1, 1⟩
def SUP_W_IRQ_STATUS_INPUTCHG (w : Nat) : Fld := ⟨SUP_W_IRQ_STATUS w, 2, 1⟩
def SUP_W_IRQ_STATUS_MODECHG (w : Nat) : Fld := ⟨SUP_W_IRQ_STATUS w, 3, 1⟩

/-- `SUP_W_IRQ_EN`, R488. -/
def SUP_W_IRQ_EN (w : Nat) : Nat := 0x40022008 + 0x1000 * w
def SUP_W_IRQ_EN_EN (w : Nat) : Fld := ⟨SUP_W_IRQ_EN w, 0, 4⟩

/-- `SUP_W_VEC`, R488. -/
def SUP_W_VEC (w : Nat) : Nat := 0x40022010 + 0x1000 * w
def SUP_W_VEC_HART (w : Nat) : Fld := ⟨SUP_W_VEC w, 0, 4⟩
def SUP_W_VEC_FILE (w : Nat) : Fld := ⟨SUP_W_VEC w, 4, 3⟩
def SUP_W_VEC_EN (w : Nat) : Fld := ⟨SUP_W_VEC w, 7, 1⟩
def SUP_W_VEC_EIID (w : Nat) : Fld := ⟨SUP_W_VEC w, 8, 11⟩

/-! ### R489 (16_power_clocks_sleep.md) -/

/-- `AOT_NOW`, R489. -/
def AOT_NOW : Nat := 0x40030000
def AOT_NOW_VT : Fld := ⟨AOT_NOW, 0, 64⟩

/-- `AOT_STATUS`, R489. -/
def AOT_STATUS : Nat := 0x40030008
def AOT_STATUS_VALID : Fld := ⟨AOT_STATUS, 0, 1⟩
def AOT_STATUS_TRACKING : Fld := ⟨AOT_STATUS, 1, 1⟩
def AOT_STATUS_LEARNED : Fld := ⟨AOT_STATUS, 2, 1⟩

/-- `AOT_RATE`, R489. -/
def AOT_RATE : Nat := 0x40030010
def AOT_RATE_RATE : Fld := ⟨AOT_RATE, 0, 48⟩

/-- `AOT_ALARM`, R489. -/
def AOT_ALARM : Nat := 0x40030018
def AOT_ALARM_VT : Fld := ⟨AOT_ALARM, 0, 64⟩

/-- `AOT_CTL`, R489. -/
def AOT_CTL : Nat := 0x40030020
def AOT_CTL_ALARM_EN : Fld := ⟨AOT_CTL, 0, 1⟩
def AOT_CTL_LEARN : Fld := ⟨AOT_CTL, 1, 1⟩

/-- `AOT_IRQ_STATUS`, R489. -/
def AOT_IRQ_STATUS : Nat := 0x40030028
def AOT_IRQ_STATUS_ALARM : Fld := ⟨AOT_IRQ_STATUS, 0, 1⟩

/-- `AOT_IRQ_EN`, R489. -/
def AOT_IRQ_EN : Nat := 0x40030030
def AOT_IRQ_EN_EN : Fld := ⟨AOT_IRQ_EN, 0, 1⟩

/-! ### R515 (17_debug_and_counters.md) -/

/-- `PMU_CNT`, R515. -/
def PMU_CNT (b : Nat) (i : Nat) : Nat := b + 0xF000 + 0x4 * i
def PMU_CNT_COUNT (b : Nat) (i : Nat) : Fld := ⟨PMU_CNT b i, 0, 32⟩

/-- `PMU_CHAIN`, R515. -/
def PMU_CHAIN (b : Nat) (j : Nat) : Nat := b + 0xF800 + 0x8 * j
def PMU_CHAIN_CHAIN (b : Nat) (j : Nat) : Fld := ⟨PMU_CHAIN b j, 0, 64⟩

/-- `PMU_UMASK`, R515. -/
def PMU_UMASK (b : Nat) (j : Nat) : Nat := b + 0xF810 + 0x8 * j
def PMU_UMASK_UMASK (b : Nat) (j : Nat) : Fld := ⟨PMU_UMASK b j, 0, 64⟩

/-- `PMU_OVF`, R515. -/
def PMU_OVF (b : Nat) (j : Nat) : Nat := b + 0xF820 + 0x8 * j
def PMU_OVF_OVF (b : Nat) (j : Nat) : Fld := ⟨PMU_OVF b j, 0, 64⟩

/-- `PMU_SNAPSEL`, R515. -/
def PMU_SNAPSEL (b : Nat) : Nat := b + 0xF830
def PMU_SNAPSEL_IDX (b : Nat) : Fld := ⟨PMU_SNAPSEL b, 0, 7⟩

/-- `PMU_SNAP`, R515. -/
def PMU_SNAP (b : Nat) : Nat := b + 0xF838
def PMU_SNAP_LOW (b : Nat) : Fld := ⟨PMU_SNAP b, 0, 32⟩
def PMU_SNAP_HIGH (b : Nat) : Fld := ⟨PMU_SNAP b, 32, 32⟩

/-- `PMU_INFO`, R515. -/
def PMU_INFO (b : Nat) : Nat := b + 0xF840
def PMU_INFO_N (b : Nat) : Fld := ⟨PMU_INFO b, 0, 8⟩

/-- `PMU_BWCFG`, R515. -/
def PMU_BWCFG (b : Nat) : Nat := b + 0xF900
def PMU_BWCFG_WIN_US (b : Nat) : Fld := ⟨PMU_BWCFG b, 0, 20⟩
def PMU_BWCFG_CLRPEAK (b : Nat) : Fld := ⟨PMU_BWCFG b, 31, 1⟩

/-- `PMU_BWSEQ`, R515. -/
def PMU_BWSEQ (b : Nat) : Nat := b + 0xF908
def PMU_BWSEQ_SEQ (b : Nat) : Fld := ⟨PMU_BWSEQ b, 0, 32⟩

/-- `PMU_BWLAST`, R515. -/
def PMU_BWLAST (b : Nat) (k : Nat) : Nat := b + 0xFA00 + 0x8 * k
def PMU_BWLAST_BYTES (b : Nat) (k : Nat) : Fld := ⟨PMU_BWLAST b k, 0, 64⟩

/-- `PMU_BWPEAK`, R515. -/
def PMU_BWPEAK (b : Nat) (k : Nat) : Nat := b + 0xFB00 + 0x8 * k
def PMU_BWPEAK_BYTES (b : Nat) (k : Nat) : Fld := ⟨PMU_BWPEAK b k, 0, 64⟩

/-! ### R516 (17_debug_and_counters.md) -/

/-- `CSL_PMU_CTL`, R516. -/
def CSL_PMU_CTL (s : Nat) : Nat := 0x46020050 + 0x80 * s
def CSL_PMU_CTL_CHAIN (s : Nat) : Fld := ⟨CSL_PMU_CTL s, 0, 16⟩
def CSL_PMU_CTL_SNAPIDX (s : Nat) : Fld := ⟨CSL_PMU_CTL s, 16, 4⟩

/-- `CSL_PMU_UMASK`, R516. -/
def CSL_PMU_UMASK (s : Nat) : Nat := 0x46020058 + 0x80 * s
def CSL_PMU_UMASK_UMASK (s : Nat) : Fld := ⟨CSL_PMU_UMASK s, 0, 16⟩

/-- `CSL_PMU_OVF`, R516. -/
def CSL_PMU_OVF (s : Nat) : Nat := 0x46020060 + 0x80 * s
def CSL_PMU_OVF_OVF (s : Nat) : Fld := ⟨CSL_PMU_OVF s, 0, 16⟩

/-- `CSL_PMU_SNAP`, R516. -/
def CSL_PMU_SNAP (s : Nat) : Nat := 0x46020068 + 0x80 * s
def CSL_PMU_SNAP_VALUE (s : Nat) : Fld := ⟨CSL_PMU_SNAP s, 0, 64⟩

/-- `DB_CNT`, R516. -/
def DB_CNT (s : Nat) (i : Nat) : Nat := 0x100000000400 + 0x1000 * s + 0x4 * i
def DB_CNT_COUNT (s : Nat) (i : Nat) : Fld := ⟨DB_CNT s i, 0, 32⟩

/-! ### R517 (17_debug_and_counters.md) -/

/-- `XTRG_IN`, R517. -/
def XTRG_IN (s : Nat) : Nat := 0x4F010000 + 0x8 * s
def XTRG_IN_CH (s : Nat) : Fld := ⟨XTRG_IN s, 0, 16⟩

/-- `XTRG_OUT`, R517. -/
def XTRG_OUT (t : Nat) : Nat := 0x4F010800 + 0x8 * t
def XTRG_OUT_CH (t : Nat) : Fld := ⟨XTRG_OUT t, 0, 16⟩

/-- `XTRG_PULSE`, R517. -/
def XTRG_PULSE : Nat := 0x4F011000
def XTRG_PULSE_CH : Fld := ⟨XTRG_PULSE, 0, 16⟩

/-- `XTRG_STATUS`, R517. -/
def XTRG_STATUS : Nat := 0x4F011008
def XTRG_STATUS_SEEN : Fld := ⟨XTRG_STATUS, 0, 16⟩
def XTRG_STATUS_DROPPED : Fld := ⟨XTRG_STATUS, 32, 32⟩

/-! ### R518 (17_debug_and_counters.md) -/

/-- `DAP_STATUS`, R518. -/
def DAP_STATUS : Nat := 0x4F000000
def DAP_STATUS_ATTACHED : Fld := ⟨DAP_STATUS, 0, 1⟩
def DAP_STATUS_EN : Fld := ⟨DAP_STATUS, 1, 4⟩
def DAP_STATUS_EMUL : Fld := ⟨DAP_STATUS, 8, 8⟩
def DAP_STATUS_SBSTATUS : Fld := ⟨DAP_STATUS, 16, 8⟩

/-- `DAP_SBCTL`, R518. -/
def DAP_SBCTL : Nat := 0x4F000008
def DAP_SBCTL_WORLD : Fld := ⟨DAP_SBCTL, 0, 1⟩

/-- `DAP_LOCKREL`, R518. -/
def DAP_LOCKREL : Nat := 0x4F000010
def DAP_LOCKREL_LOCK : Fld := ⟨DAP_LOCKREL, 0, 6⟩
def DAP_LOCKREL_GO : Fld := ⟨DAP_LOCKREL, 31, 1⟩

/-- `DAP_LOCKRES`, R518. -/
def DAP_LOCKRES : Nat := 0x4F000018
def DAP_LOCKRES_STATUS : Fld := ⟨DAP_LOCKRES, 0, 8⟩
def DAP_LOCKRES_OWNER : Fld := ⟨DAP_LOCKRES, 8, 4⟩

/-! ### R519 (17_debug_and_counters.md) -/

/-- `CWD_CFG`, R519. -/
def CWD_CFG (a : Nat) : Nat := 0x430A0000 + 0x40 * a
def CWD_CFG_PERIOD_US (a : Nat) : Fld := ⟨CWD_CFG a, 0, 20⟩
def CWD_CFG_EN (a : Nat) : Fld := ⟨CWD_CFG a, 20, 1⟩
def CWD_CFG_RESTART (a : Nat) : Fld := ⟨CWD_CFG a, 21, 1⟩

/-- `CWD_KICK`, R519. -/
def CWD_KICK (a : Nat) : Nat := 0x430A0008 + 0x40 * a
def CWD_KICK_VALUE (a : Nat) : Fld := ⟨CWD_KICK a, 0, 32⟩

/-- `CWD_COUNT`, R519. -/
def CWD_COUNT (a : Nat) : Nat := 0x430A0010 + 0x40 * a
def CWD_COUNT_REMAIN (a : Nat) : Fld := ⟨CWD_COUNT a, 0, 20⟩
def CWD_COUNT_FROZEN (a : Nat) : Fld := ⟨CWD_COUNT a, 20, 1⟩

/-- `CWD_STATUS`, R519. -/
def CWD_STATUS (a : Nat) : Nat := 0x430A0018 + 0x40 * a
def CWD_STATUS_EXPIRED (a : Nat) : Fld := ⟨CWD_STATUS a, 0, 1⟩
def CWD_STATUS_RESTARTED (a : Nat) : Fld := ⟨CWD_STATUS a, 1, 1⟩

/-! ### R533 (18_cascade.md) -/

/-- `CSC_STATUS`, R533. -/
def CSC_STATUS : Nat := 0x47030000
def CSC_STATUS_MYID : Fld := ⟨CSC_STATUS, 0, 2⟩
def CSC_STATUS_MASTER : Fld := ⟨CSC_STATUS, 2, 1⟩
def CSC_STATUS_MASTERID : Fld := ⟨CSC_STATUS, 3, 2⟩
def CSC_STATUS_PRESENT : Fld := ⟨CSC_STATUS, 5, 4⟩
def CSC_STATUS_TIMELINK : Fld := ⟨CSC_STATUS, 9, 2⟩

/-- `CSC_CTL`, R533. -/
def CSC_CTL : Nat := 0x47030008
def CSC_CTL_LINKEN : Fld := ⟨CSC_CTL, 0, 2⟩

/-- `CSC_LINK`, R533. -/
def CSC_LINK (l : Nat) : Nat := 0x47030010 + 0x8 * l
def CSC_LINK_UP (l : Nat) : Fld := ⟨CSC_LINK l, 0, 1⟩
def CSC_LINK_PARTNER (l : Nat) : Fld := ⟨CSC_LINK l, 1, 2⟩
def CSC_LINK_IDCLASH (l : Nat) : Fld := ⟨CSC_LINK l, 3, 1⟩
def CSC_LINK_AUTHFAIL (l : Nat) : Fld := ⟨CSC_LINK l, 4, 1⟩

/-- `CSC_PDLY`, R533. -/
def CSC_PDLY (l : Nat) : Nat := 0x47030020 + 0x8 * l
def CSC_PDLY_DELAY (l : Nat) : Fld := ⟨CSC_PDLY l, 0, 64⟩

/-- `CSC_HBMISS`, R533. -/
def CSC_HBMISS : Nat := 0x47030030
def CSC_HBMISS_MISS (k : Nat) : Fld := ⟨CSC_HBMISS, 0 + 8 * k, 8⟩

/-- `CSC_IRQ_STATUS`, R533. -/
def CSC_IRQ_STATUS : Nat := 0x47030040
def CSC_IRQ_STATUS_LINK : Fld := ⟨CSC_IRQ_STATUS, 0, 1⟩
def CSC_IRQ_STATUS_MASTER : Fld := ⟨CSC_IRQ_STATUS, 1, 1⟩
def CSC_IRQ_STATUS_LOST : Fld := ⟨CSC_IRQ_STATUS, 2, 1⟩
def CSC_IRQ_STATUS_JOIN : Fld := ⟨CSC_IRQ_STATUS, 3, 1⟩
def CSC_IRQ_STATUS_MBX : Fld := ⟨CSC_IRQ_STATUS, 4, 1⟩
def CSC_IRQ_STATUS_MBXACK : Fld := ⟨CSC_IRQ_STATUS, 5, 1⟩
def CSC_IRQ_STATUS_FWDDROP : Fld := ⟨CSC_IRQ_STATUS, 6, 1⟩

/-- `CSC_IRQ_EN`, R533. -/
def CSC_IRQ_EN : Nat := 0x47030048
def CSC_IRQ_EN_EN : Fld := ⟨CSC_IRQ_EN, 0, 7⟩

/-- `CSC_KEYSTAGE`, R533. -/
def CSC_KEYSTAGE (i : Nat) : Nat := 0x47030080 + 0x8 * i
def CSC_KEYSTAGE_KEY (i : Nat) : Fld := ⟨CSC_KEYSTAGE i, 0, 64⟩

/-- `CSC_KEYCMD`, R533. -/
def CSC_KEYCMD : Nat := 0x470300A0
def CSC_KEYCMD_GO : Fld := ⟨CSC_KEYCMD, 0, 1⟩
def CSC_KEYCMD_STATUS : Fld := ⟨CSC_KEYCMD, 8, 8⟩

/-- `CSC_FWD_RULE`, R533. -/
def CSC_FWD_RULE (n : Nat) : Nat := 0x47031000 + 0x10 * n
def CSC_FWD_RULE_VALID (n : Nat) : Fld := ⟨CSC_FWD_RULE n, 0, 1⟩
def CSC_FWD_RULE_KIND (n : Nat) : Fld := ⟨CSC_FWD_RULE n, 1, 1⟩
def CSC_FWD_RULE_LOCAL (n : Nat) : Fld := ⟨CSC_FWD_RULE n, 2, 1⟩
def CSC_FWD_RULE_DEST (n : Nat) : Fld := ⟨CSC_FWD_RULE n, 3, 2⟩
def CSC_FWD_RULE_SPORT (n : Nat) : Fld := ⟨CSC_FWD_RULE n, 5, 3⟩
def CSC_FWD_RULE_SVC (n : Nat) : Fld := ⟨CSC_FWD_RULE n, 8, 4⟩
def CSC_FWD_RULE_DPORT (n : Nat) : Fld := ⟨CSC_FWD_RULE n, 12, 3⟩
def CSC_FWD_RULE_DVC (n : Nat) : Fld := ⟨CSC_FWD_RULE n, 15, 4⟩
def CSC_FWD_RULE_SVID (n : Nat) : Fld := ⟨CSC_FWD_RULE n, 32, 12⟩
def CSC_FWD_RULE_DVID (n : Nat) : Fld := ⟨CSC_FWD_RULE n, 44, 12⟩

/-- `CSC_FWD_ID`, R533. -/
def CSC_FWD_ID (n : Nat) : Nat := 0x47031008 + 0x10 * n
def CSC_FWD_ID_CSID (n : Nat) : Fld := ⟨CSC_FWD_ID n, 0, 10⟩
def CSC_FWD_ID_STATUS (n : Nat) : Fld := ⟨CSC_FWD_ID n, 16, 8⟩
def CSC_FWD_ID_DROPS (n : Nat) : Fld := ⟨CSC_FWD_ID n, 32, 32⟩

/-! ### R299 (10_privilege_and_translation.md) -/

/-- `ACC_WORLD`, R299. -/
def ACC_WORLD (a : Nat) : Nat := 0x43000010 + 0x10000 * a
def ACC_WORLD_NEXT (a : Nat) : Fld := ⟨ACC_WORLD a, 0, 1⟩
def ACC_WORLD_RESULT (a : Nat) : Fld := ⟨ACC_WORLD a, 8, 8⟩

/-! ### R320 (10_privilege_and_translation.md) -/

/-- `ACC_MTIMECMP`, R320. -/
def ACC_MTIMECMP (a : Nat) : Nat := 0x43000018 + 0x10000 * a
def ACC_MTIMECMP_CMP (a : Nat) : Fld := ⟨ACC_MTIMECMP a, 0, 64⟩

/-! ### R215 (06_capture_slices.md) -/

/-- `CSL_CNT`, R215. -/
def CSL_CNT (s : Nat) (i : Nat) : Nat := 0x4602F000 + 0x40 * s + 0x4 * i
def CSL_CNT_COUNT (s : Nat) (i : Nat) : Fld := ⟨CSL_CNT s i, 0, 32⟩

/-! ### R533 (18_cascade.md) -/

/-- `CSC_MBX_TX`, R533. -/
def CSC_MBX_TX (k : Nat) (i : Nat) : Nat := 0x47032000 + 0x100 * k + 0x4 * i
def CSC_MBX_TX_WORD (k : Nat) (i : Nat) : Fld := ⟨CSC_MBX_TX k i, 0, 32⟩

/-- `CSC_MBX_RX`, R533. -/
def CSC_MBX_RX (k : Nat) (i : Nat) : Nat := 0x47032040 + 0x100 * k + 0x4 * i
def CSC_MBX_RX_WORD (k : Nat) (i : Nat) : Fld := ⟨CSC_MBX_RX k i, 0, 32⟩

/-- `CSC_MBX_TX_CMD`, R533. -/
def CSC_MBX_TX_CMD (k : Nat) : Nat := 0x47032020 + 0x100 * k
def CSC_MBX_TX_CMD_SEND (k : Nat) : Fld := ⟨CSC_MBX_TX_CMD k, 0, 1⟩
def CSC_MBX_TX_CMD_EXPSEQ (k : Nat) : Fld := ⟨CSC_MBX_TX_CMD k, 16, 16⟩

/-- `CSC_MBX_TX_STAT`, R533. -/
def CSC_MBX_TX_STAT (k : Nat) : Nat := 0x47032024 + 0x100 * k
def CSC_MBX_TX_STAT_RESULT (k : Nat) : Fld := ⟨CSC_MBX_TX_STAT k, 0, 8⟩
def CSC_MBX_TX_STAT_PEND (k : Nat) : Fld := ⟨CSC_MBX_TX_STAT k, 8, 1⟩
def CSC_MBX_TX_STAT_NEXTSEQ (k : Nat) : Fld := ⟨CSC_MBX_TX_STAT k, 16, 16⟩

/-- `CSC_MBX_RX_SEQ`, R533. -/
def CSC_MBX_RX_SEQ (k : Nat) : Nat := 0x47032060 + 0x100 * k
def CSC_MBX_RX_SEQ_SEQ (k : Nat) : Fld := ⟨CSC_MBX_RX_SEQ k, 0, 16⟩
def CSC_MBX_RX_SEQ_VALID (k : Nat) : Fld := ⟨CSC_MBX_RX_SEQ k, 16, 1⟩

/-- `CSC_MBX_RX_ACK`, R533. -/
def CSC_MBX_RX_ACK (k : Nat) : Nat := 0x47032064 + 0x100 * k
def CSC_MBX_RX_ACK_SEQ (k : Nat) : Fld := ⟨CSC_MBX_RX_ACK k, 0, 16⟩

/-! ### R316 (10_privilege_and_translation.md) -/

/-- `WDN_MSG`, R316. -/
def WDN_MSG : Nat := 0x41000100
def WDN_MSG_EIID : Fld := ⟨WDN_MSG, 0, 6⟩

/-- `WDN_IPEND`, R316. -/
def WDN_IPEND : Nat := 0x41000108
def WDN_IPEND_PEND : Fld := ⟨WDN_IPEND, 1, 63⟩

/-- `WDN_IEN`, R316. -/
def WDN_IEN : Nat := 0x41000110
def WDN_IEN_EN : Fld := ⟨WDN_IEN, 1, 63⟩

/-- `WDN_CLAIM`, R316. -/
def WDN_CLAIM : Nat := 0x41000118
def WDN_CLAIM_EIID : Fld := ⟨WDN_CLAIM, 0, 6⟩

end Sys2Proof.Machine
end

