-- ==== Sys2Proof/Machine/RegMap.lean ====
section
/-! DEFINITION. The register map: for every register of the spec the access code and the reset value of each
field (R9, R10), found by physical address. Fields whose reset value the firing image, the fuses or a live quantity gives
are listed with 0 here; the commands that load them say so. Generated from the register tables of spec/. -/

namespace Sys2Proof.Machine

/-- The access codes of R10. -/
inductive Acc where
  | rw | ro | wo | w1c | w1s | rp
  deriving DecidableEq, Repr

/-- One field of a register: lowest bit, width, access code, reset value. -/
structure FieldRow where
  lo : Nat
  w : Nat
  acc : Acc
  reset : Nat
  deriving DecidableEq, Repr

/-- One row of the map: an array of registers with the base address, the counts and strides of its indices
(the largest stride first), the width in bytes and the fields. -/
structure RegRow where
  base : Nat
  dims : List (Nat × Nat)
  bytes : Nat
  fields : List FieldRow
  deriving DecidableEq, Repr

/-- The registers of R67. -/
def regRowsR67 : List RegRow :=
  [ ⟨0x40040000, [], 8, [⟨0, 5, .ro, 0⟩, ⟨8, 7, .ro, 0⟩, ⟨16, 4, .ro, 0⟩, ⟨24, 3, .ro, 0⟩, ⟨27, 1, .ro, 0⟩]⟩,
    ⟨0x40040008, [], 8, [⟨0, 4, .ro, 0⟩]⟩,
    ⟨0x40040010, [], 8, [⟨0, 3, .wo, 0⟩, ⟨8, 7, .wo, 0⟩, ⟨16, 4, .wo, 0⟩, ⟨31, 1, .wo, 0⟩]⟩,
    ⟨0x40040018, [], 8, [⟨0, 8, .ro, 0⟩, ⟨8, 1, .ro, 0⟩, ⟨16, 7, .ro, 0⟩]⟩,
    ⟨0x40040020, [], 8, [⟨0, 8, .ro, 0⟩]⟩,
    ⟨0x40040040, [(6, 0x8)], 8, [⟨0, 64, .ro, 0⟩]⟩,
    ⟨0x40040080, [(6, 0x8)], 8, [⟨0, 64, .rw, 0⟩]⟩,
    ⟨0x40041000, [(128, 0x20), (4, 0x8)], 8, [⟨0, 64, .ro, 0⟩]⟩ ]

/-- The registers of R68. -/
def regRowsR68 : List RegRow :=
  [ ⟨0x40050000, [], 8, [⟨0, 2, .ro, 0⟩, ⟨2, 1, .ro, 0⟩, ⟨3, 1, .ro, 0⟩, ⟨4, 1, .ro, 0⟩, ⟨5, 1, .ro, 0⟩, ⟨6, 1, .ro, 0⟩, ⟨7, 1, .ro, 0⟩, ⟨8, 4, .ro, 0⟩, ⟨16, 7, .ro, 0⟩]⟩,
    ⟨0x40050008, [], 8, [⟨0, 32, .ro, 0⟩]⟩,
    ⟨0x40050010, [(6, 0x8)], 8, [⟨0, 64, .ro, 0⟩]⟩,
    ⟨0x40050040, [], 8, [⟨0, 1, .wo, 0⟩, ⟨1, 1, .wo, 0⟩, ⟨2, 1, .wo, 0⟩, ⟨3, 1, .wo, 0⟩, ⟨8, 4, .wo, 0⟩]⟩,
    ⟨0x40050048, [], 8, [⟨0, 8, .ro, 0⟩]⟩,
    ⟨0x40050080, [], 8, [⟨0, 26, .rw, 0⟩]⟩,
    ⟨0x40050088, [], 8, [⟨0, 64, .rw, 0⟩]⟩,
    ⟨0x40050090, [], 8, [⟨0, 2, .wo, 0⟩, ⟨31, 1, .ro, 0⟩]⟩,
    ⟨0x40050098, [], 8, [⟨0, 8, .ro, 0⟩]⟩ ]

/-- The registers of R111. -/
def regRowsR111 : List RegRow :=
  [ ⟨0x42000000, [], 8, [⟨0, 1, .wo, 0⟩, ⟨1, 3, .rw, 0⟩]⟩,
    ⟨0x42000008, [], 8, [⟨0, 3, .ro, 0⟩, ⟨4, 3, .ro, 0⟩, ⟨8, 3, .ro, 0⟩, ⟨12, 3, .ro, 0⟩, ⟨16, 1, .ro, 0⟩]⟩,
    ⟨0x42000010, [(4, 0x8)], 8, [⟨0, 64, .ro, 0⟩]⟩,
    ⟨0x42000040, [(4, 0x8)], 8, [⟨0, 16, .ro, 0⟩]⟩,
    ⟨0x42000100, [(4, 0x10)], 8, [⟨0, 16, .ro, 0⟩, ⟨16, 32, .ro, 0⟩]⟩,
    ⟨0x42000108, [(4, 0x10)], 8, [⟨0, 48, .ro, 0⟩, ⟨48, 16, .ro, 0⟩]⟩,
    ⟨0x42000200, [], 8, [⟨0, 7, .rw, 0⟩, ⟨16, 16, .rw, 37⟩]⟩,
    ⟨0x42000208, [], 8, [⟨0, 7, .rw, 1⟩, ⟨16, 16, .rw, 37⟩]⟩,
    ⟨0x42000210, [], 8, [⟨0, 7, .rw, 2⟩, ⟨16, 16, .rw, 37⟩]⟩,
    ⟨0x42000218, [], 8, [⟨0, 7, .rw, 3⟩, ⟨16, 16, .rw, 37⟩]⟩,
    ⟨0x42000300, [], 8, [⟨0, 4, .w1c, 0⟩, ⟨4, 4, .w1c, 0⟩, ⟨8, 1, .w1c, 0⟩]⟩,
    ⟨0x42000308, [], 8, [⟨0, 9, .rw, 0⟩]⟩ ] ++
  [ ⟨0x42000310, [], 8, [⟨0, 64, .ro, 0⟩]⟩,
    ⟨0x42000318, [], 8, [⟨0, 64, .ro, 0⟩]⟩,
    ⟨0x42000320, [], 8, [⟨0, 2, .ro, 0⟩, ⟨2, 2, .ro, 0⟩, ⟨16, 16, .ro, 0⟩]⟩ ]

/-- The registers of R112. -/
def regRowsR112 : List RegRow :=
  [ ⟨0x42004000, [(4, 0x100)], 8, [⟨0, 1, .rw, 0⟩, ⟨1, 2, .rw, 0⟩, ⟨4, 3, .rw, 0⟩]⟩,
    ⟨0x42004008, [(4, 0x100)], 8, [⟨0, 64, .rw, 0x40000000000⟩]⟩,
    ⟨0x42004010, [(4, 0x100)], 8, [⟨0, 64, .rw, 0⟩]⟩,
    ⟨0x42004018, [(4, 0x100)], 8, [⟨0, 48, .rw, 0⟩]⟩,
    ⟨0x42004020, [(4, 0x100)], 8, [⟨0, 32, .rw, 0⟩]⟩,
    ⟨0x42004028, [(4, 0x100)], 8, [⟨0, 2, .wo, 0⟩, ⟨16, 10, .wo, 0⟩]⟩,
    ⟨0x42004030, [(4, 0x100)], 8, [⟨0, 8, .ro, 0⟩, ⟨8, 1, .ro, 0⟩, ⟨9, 1, .ro, 0⟩, ⟨10, 1, .w1c, 0⟩]⟩,
    ⟨0x42004038, [(4, 0x100)], 8, [⟨0, 64, .ro, 0⟩]⟩,
    ⟨0x42004040, [(4, 0x100)], 8, [⟨0, 64, .ro, 0⟩]⟩,
    ⟨0x42004048, [(4, 0x100)], 8, [⟨0, 32, .rw, 10000⟩, ⟨32, 16, .rw, 50⟩, ⟨48, 8, .rw, 8⟩]⟩ ]

/-- The registers of R113. -/
def regRowsR113 : List RegRow :=
  [ ⟨0x42008000, [], 8, [⟨0, 64, .ro, 0⟩]⟩,
    ⟨0x42008100, [(4, 0x40)], 8, [⟨0, 8, .rw, 246⟩, ⟨8, 8, .rw, 248⟩, ⟨16, 8, .rw, 248⟩, ⟨24, 8, .rw, 254⟩, ⟨32, 16, .rw, 17258⟩, ⟨48, 8, .rw, 160⟩]⟩,
    ⟨0x42008108, [(4, 0x40)], 8, [⟨0, 8, .rw, 253⟩, ⟨8, 8, .rw, 0⟩, ⟨16, 8, .rw, 0⟩, ⟨24, 4, .rw, 3⟩, ⟨28, 4, .rw, 3⟩]⟩,
    ⟨0x42008110, [(4, 0x40)], 8, [⟨0, 64, .ro, 0⟩]⟩,
    ⟨0x42008118, [(4, 0x40)], 8, [⟨0, 16, .ro, 0⟩, ⟨16, 16, .ro, 0⟩]⟩,
    ⟨0x42009000, [(17, 0x100)], 8, [⟨0, 1, .rw, 0⟩, ⟨1, 3, .ro, 0⟩, ⟨4, 4, .ro, 0⟩, ⟨8, 1, .ro, 0⟩]⟩,
    ⟨0x42009008, [(17, 0x100)], 8, [⟨0, 4, .ro, 0⟩, ⟨4, 4, .ro, 0⟩, ⟨8, 4, .ro, 0⟩, ⟨12, 4, .ro, 0⟩]⟩,
    ⟨0x42009010, [(17, 0x100)], 8, [⟨0, 16, .rw, 0⟩, ⟨16, 16, .rw, 0⟩]⟩,
    ⟨0x42009018, [(17, 0x100)], 8, [⟨0, 32, .rw, 0⟩]⟩,
    ⟨0x42009020, [(17, 0x100)], 8, [⟨0, 64, .ro, 0⟩]⟩,
    ⟨0x42009028, [(17, 0x100)], 8, [⟨0, 32, .ro, 0⟩]⟩,
    ⟨0x42009030, [(17, 0x100)], 8, [⟨0, 32, .rw, 0⟩]⟩ ] ++
  [ ⟨0x42009038, [(17, 0x100)], 8, [⟨0, 16, .ro, 0⟩, ⟨16, 16, .ro, 0⟩]⟩ ]

/-- The registers of R114. -/
def regRowsR114 : List RegRow :=
  [ ⟨0x42010000, [(16, 0x40)], 8, [⟨0, 2, .ro, 0⟩, ⟨2, 1, .ro, 0⟩, ⟨3, 2, .ro, 0⟩, ⟨5, 1, .ro, 0⟩, ⟨6, 1, .rw, 0⟩, ⟨8, 2, .rw, 1⟩, ⟨12, 4, .rw, 0⟩, ⟨16, 1, .wo, 0⟩, ⟨17, 1, .wo, 0⟩]⟩,
    ⟨0x42010008, [(16, 0x40)], 8, [⟨0, 64, .rw, 0⟩]⟩,
    ⟨0x42010010, [(16, 0x40)], 8, [⟨0, 32, .rw, 0x3B9ACA00⟩]⟩,
    ⟨0x42010018, [(16, 0x40)], 8, [⟨0, 32, .rw, 10000⟩]⟩,
    ⟨0x42010020, [(16, 0x40)], 8, [⟨0, 1, .rw, 0⟩, ⟨1, 1, .ro, 0⟩]⟩,
    ⟨0x42010028, [(16, 0x40)], 8, [⟨0, 16, .ro, 0⟩, ⟨16, 1, .ro, 0⟩, ⟨17, 1, .ro, 0⟩, ⟨18, 1, .ro, 0⟩, ⟨19, 2, .ro, 0⟩, ⟨24, 8, .ro, 0⟩]⟩,
    ⟨0x42010030, [(16, 0x40)], 8, [⟨0, 64, .rp, 0⟩]⟩,
    ⟨0x42010038, [(16, 0x40)], 8, [⟨0, 5, .ro, 0⟩, ⟨8, 8, .ro, 0⟩, ⟨16, 16, .ro, 0⟩]⟩,
    ⟨0x42010400, [], 8, [⟨0, 16, .w1c, 0⟩]⟩,
    ⟨0x42010408, [], 8, [⟨0, 16, .rw, 0⟩]⟩ ]

/-- The registers of R154. -/
def regRowsR154 : List RegRow :=
  [ ⟨0x42020000, [], 8, [⟨0, 1, .wo, 0⟩, ⟨1, 1, .ro, 0⟩]⟩,
    ⟨0x42020008, [], 8, [⟨0, 17, .ro, 0⟩, ⟨32, 17, .ro, 0⟩]⟩,
    ⟨0x42020010, [], 8, [⟨0, 7, .ro, 0⟩, ⟨16, 16, .ro, 0⟩]⟩,
    ⟨0x42020018, [], 8, [⟨0, 32, .ro, 0⟩]⟩,
    ⟨0x42020100, [], 8, [⟨0, 16, .rw, 170⟩, ⟨16, 1, .ro, 0⟩]⟩,
    ⟨0x42020108, [], 8, [⟨0, 16, .rw, 90⟩, ⟨16, 1, .ro, 0⟩]⟩,
    ⟨0x42020110, [], 8, [⟨0, 16, .rw, 80⟩, ⟨16, 1, .ro, 0⟩]⟩,
    ⟨0x42020118, [], 8, [⟨0, 16, .rw, 50⟩, ⟨16, 1, .ro, 0⟩]⟩,
    ⟨0x42020120, [], 8, [⟨0, 16, .rw, 80⟩, ⟨16, 1, .ro, 0⟩]⟩,
    ⟨0x42020128, [], 8, [⟨0, 16, .rw, 100⟩, ⟨16, 1, .ro, 0⟩]⟩,
    ⟨0x42020130, [], 8, [⟨0, 16, .rw, 100⟩, ⟨16, 1, .ro, 0⟩]⟩,
    ⟨0x42020138, [], 8, [⟨0, 16, .rw, 100⟩, ⟨16, 1, .ro, 0⟩]⟩ ] ++
  [ ⟨0x42020140, [], 8, [⟨0, 16, .rw, 100⟩, ⟨16, 1, .ro, 0⟩]⟩,
    ⟨0x42020148, [], 8, [⟨0, 16, .rw, 100⟩, ⟨16, 1, .ro, 0⟩]⟩,
    ⟨0x42020150, [], 8, [⟨0, 16, .rw, 100⟩, ⟨16, 1, .ro, 0⟩]⟩,
    ⟨0x42020158, [], 8, [⟨0, 16, .rw, 100⟩, ⟨16, 1, .ro, 0⟩]⟩,
    ⟨0x42020160, [], 8, [⟨0, 16, .rw, 100⟩, ⟨16, 1, .ro, 0⟩]⟩,
    ⟨0x42020168, [], 8, [⟨0, 16, .rw, 600⟩, ⟨16, 1, .ro, 0⟩]⟩,
    ⟨0x42020170, [], 8, [⟨0, 16, .rw, 900⟩, ⟨16, 1, .ro, 0⟩]⟩,
    ⟨0x42020178, [], 8, [⟨0, 16, .rw, 0⟩, ⟨16, 1, .ro, 0⟩]⟩,
    ⟨0x42020200, [], 8, [⟨0, 16, .rw, 0⟩]⟩,
    ⟨0x42020210, [(4, 0x8)], 8, [⟨0, 64, .ro, 0⟩]⟩ ]

/-- The registers of R155. -/
def regRowsR155 : List RegRow :=
  [ ⟨0x42022000, [(2, 0x1000)], 8, [⟨0, 17, .ro, 0⟩, ⟨32, 17, .ro, 0⟩]⟩,
    ⟨0x42022008, [(2, 0x1000)], 8, [⟨0, 44, .rw, 0⟩]⟩,
    ⟨0x42022010, [(2, 0x1000)], 8, [⟨0, 1, .rw, 0⟩, ⟨1, 4, .rw, 4⟩]⟩,
    ⟨0x42022018, [(2, 0x1000)], 8, [⟨0, 16, .ro, 0⟩]⟩,
    ⟨0x42022020, [(2, 0x1000)], 8, [⟨0, 16, .rw, 0⟩]⟩,
    ⟨0x42022028, [(2, 0x1000)], 8, [⟨0, 1, .w1c, 0⟩, ⟨1, 1, .w1c, 0⟩, ⟨2, 1, .w1c, 0⟩, ⟨3, 1, .w1c, 0⟩, ⟨4, 1, .w1c, 0⟩, ⟨5, 1, .w1c, 0⟩]⟩,
    ⟨0x42022030, [(2, 0x1000)], 8, [⟨0, 6, .rw, 0⟩]⟩ ]

/-- The registers of R156. -/
def regRowsR156 : List RegRow :=
  [ ⟨0x42024000, [(64, 0x40)], 8, [⟨0, 17, .rw, 0⟩]⟩,
    ⟨0x42024008, [(64, 0x40)], 8, [⟨0, 17, .ro, 0⟩]⟩,
    ⟨0x42024010, [(64, 0x40)], 8, [⟨0, 44, .rw, 0⟩]⟩,
    ⟨0x42024018, [(64, 0x40)], 8, [⟨0, 1, .rw, 0⟩, ⟨1, 4, .rw, 4⟩]⟩,
    ⟨0x42024020, [(64, 0x40)], 8, [⟨0, 16, .ro, 0⟩]⟩,
    ⟨0x42024028, [(64, 0x40)], 8, [⟨0, 16, .rw, 0⟩]⟩,
    ⟨0x42024030, [(64, 0x40)], 8, [⟨0, 1, .w1c, 0⟩, ⟨1, 1, .w1c, 0⟩, ⟨2, 1, .w1c, 0⟩, ⟨3, 1, .w1c, 0⟩, ⟨4, 1, .w1c, 0⟩, ⟨5, 1, .w1c, 0⟩]⟩,
    ⟨0x42024038, [(64, 0x40)], 8, [⟨0, 6, .rw, 0⟩]⟩ ]

/-- The registers of R192. -/
def regRowsR192 : List RegRow :=
  [ ⟨0x46000000, [], 8, [⟨0, 1, .rw, 0⟩, ⟨1, 1, .rw, 0⟩, ⟨8, 8, .rw, 10⟩]⟩,
    ⟨0x46000008, [], 8, [⟨0, 1, .w1c, 0⟩, ⟨1, 1, .w1c, 0⟩, ⟨2, 1, .w1c, 0⟩, ⟨3, 1, .w1c, 0⟩]⟩,
    ⟨0x46000010, [], 8, [⟨0, 4, .rw, 0⟩]⟩,
    ⟨0x46000020, [], 8, [⟨0, 3, .wo, 0⟩, ⟨3, 4, .wo, 0⟩, ⟨7, 6, .wo, 0⟩, ⟨13, 6, .wo, 0⟩, ⟨19, 3, .wo, 0⟩, ⟨22, 3, .wo, 0⟩, ⟨25, 1, .wo, 0⟩, ⟨26, 1, .wo, 0⟩, ⟨27, 1, .wo, 0⟩, ⟨31, 1, .wo, 0⟩, ⟨32, 32, .wo, 0⟩]⟩,
    ⟨0x46000028, [], 8, [⟨0, 8, .ro, 0⟩, ⟨8, 1, .ro, 0⟩, ⟨32, 18, .ro, 0⟩]⟩,
    ⟨0x46000100, [(5, 0x8)], 8, [⟨0, 32, .ro, 0⟩]⟩ ]

/-- The registers of R193. -/
def regRowsR193 : List RegRow :=
  [ ⟨0x46004000, [(64, 0x200), (8, 0x40)], 8, [⟨0, 64, .rw, 0⟩]⟩,
    ⟨0x46004008, [(64, 0x200), (8, 0x40)], 8, [⟨0, 64, .rw, 0⟩]⟩,
    ⟨0x46004010, [(64, 0x200), (8, 0x40)], 8, [⟨0, 1, .rw, 0⟩, ⟨1, 4, .rw, 4⟩, ⟨5, 4, .rw, 4⟩, ⟨9, 5, .rw, 12⟩, ⟨16, 1, .ro, 0⟩]⟩,
    ⟨0x46004018, [(64, 0x200), (8, 0x40)], 8, [⟨0, 16, .ro, 0⟩]⟩,
    ⟨0x46004020, [(64, 0x200), (8, 0x40)], 8, [⟨0, 16, .rw, 0⟩]⟩,
    ⟨0x46004028, [(64, 0x200), (8, 0x40)], 8, [⟨0, 16, .ro, 0⟩]⟩,
    ⟨0x46004030, [(64, 0x200), (8, 0x40)], 8, [⟨0, 16, .rw, 0⟩]⟩,
    ⟨0x46004038, [(64, 0x200), (8, 0x40)], 8, [⟨0, 16, .ro, 0⟩, ⟨16, 16, .ro, 0⟩]⟩ ]

/-- The registers of R194. -/
def regRowsR194 : List RegRow :=
  [ ⟨0x46010000, [(4, 0x40), (4, 0x8)], 8, [⟨0, 64, .rw, 0⟩]⟩,
    ⟨0x46010020, [(4, 0x40)], 8, [⟨0, 18, .wo, 0⟩, ⟨24, 8, .wo, 0⟩, ⟨32, 3, .wo, 0⟩, ⟨63, 1, .wo, 0⟩]⟩,
    ⟨0x46010028, [(4, 0x40)], 8, [⟨0, 8, .ro, 0⟩, ⟨8, 1, .ro, 0⟩, ⟨9, 1, .w1c, 0⟩, ⟨16, 8, .ro, 0⟩, ⟨32, 18, .ro, 0⟩]⟩,
    ⟨0x46010100, [], 8, [⟨0, 18, .rw, 0⟩]⟩,
    ⟨0x46010110, [(4, 0x8)], 8, [⟨0, 64, .ro, 0⟩]⟩,
    ⟨0x46010140, [], 8, [⟨0, 48, .wo, 0⟩, ⟨48, 2, .wo, 0⟩]⟩,
    ⟨0x46010148, [], 8, [⟨0, 18, .ro, 0⟩, ⟨24, 6, .ro, 0⟩, ⟨30, 1, .ro, 0⟩, ⟨31, 1, .ro, 0⟩, ⟨32, 32, .ro, 0⟩]⟩,
    ⟨0x46010180, [], 8, [⟨0, 48, .rp, 0⟩, ⟨48, 2, .rp, 0⟩, ⟨50, 6, .rp, 0⟩, ⟨56, 1, .rp, 0⟩, ⟨63, 1, .rp, 0⟩]⟩,
    ⟨0x46010188, [], 8, [⟨0, 1, .rw, 0⟩, ⟨8, 5, .ro, 0⟩, ⟨16, 16, .ro, 0⟩]⟩,
    ⟨0x46010200, [(4, 0x8)], 8, [⟨0, 32, .ro, 0⟩]⟩,
    ⟨0x46010400, [(64, 0x8)], 8, [⟨0, 18, .ro, 0⟩, ⟨32, 19, .ro, 0⟩]⟩ ]

/-- The registers of R195. -/
def regRowsR195 : List RegRow :=
  [ ⟨0x46011000, [(32, 0x4)], 4, [⟨0, 8, .rw, 0⟩, ⟨8, 8, .rw, 0⟩, ⟨16, 8, .rw, 0⟩, ⟨24, 8, .rw, 0⟩]⟩,
    ⟨0x46011080, [(4, 0x4)], 4, [⟨0, 8, .rw, 0⟩, ⟨8, 8, .rw, 0⟩, ⟨16, 8, .rw, 0⟩, ⟨24, 8, .rw, 0⟩]⟩,
    ⟨0x46011100, [(16, 0x10)], 8, [⟨0, 29, .rw, 0⟩, ⟨32, 29, .rw, 0⟩]⟩,
    ⟨0x46011108, [(16, 0x10)], 8, [⟨0, 6, .rw, 0⟩, ⟨6, 2, .rw, 0⟩, ⟨8, 1, .rw, 0⟩]⟩,
    ⟨0x46012000, [(1024, 0x4)], 4, [⟨0, 8, .rw, 0⟩, ⟨8, 8, .rw, 0⟩, ⟨16, 8, .rw, 0⟩, ⟨24, 8, .rw, 0⟩]⟩ ]

/-- The registers of R212. -/
def regRowsR212 : List RegRow :=
  [ ⟨0x46020000, [(64, 0x80)], 8, [⟨0, 14, .rw, 0⟩, ⟨16, 16, .rw, 0⟩, ⟨32, 1, .rw, 0⟩, ⟨33, 1, .rw, 0⟩]⟩,
    ⟨0x46020008, [(64, 0x80)], 8, [⟨0, 2, .wo, 0⟩]⟩,
    ⟨0x46020010, [(64, 0x80)], 8, [⟨0, 2, .ro, 0⟩, ⟨8, 8, .ro, 0⟩, ⟨32, 16, .ro, 0⟩]⟩,
    ⟨0x46020018, [(64, 0x80)], 8, [⟨0, 16, .rw, 256⟩, ⟨16, 4, .rw, 1⟩]⟩,
    ⟨0x46020020, [(64, 0x80)], 8, [⟨0, 8, .rw, 1⟩, ⟨8, 10, .rw, 0⟩]⟩,
    ⟨0x46020028, [(64, 0x80)], 8, [⟨0, 4, .rw, 0⟩, ⟨4, 3, .rw, 0⟩, ⟨7, 1, .rw, 0⟩, ⟨8, 11, .rw, 0⟩]⟩,
    ⟨0x46020030, [(64, 0x80)], 8, [⟨0, 4, .rw, 0⟩, ⟨4, 3, .rw, 0⟩, ⟨7, 1, .rw, 0⟩, ⟨8, 11, .rw, 0⟩]⟩,
    ⟨0x46020038, [(64, 0x80)], 8, [⟨0, 4, .rw, 0⟩, ⟨4, 3, .rw, 0⟩, ⟨7, 1, .rw, 0⟩, ⟨8, 11, .rw, 0⟩]⟩,
    ⟨0x46020040, [(64, 0x80)], 8, [⟨0, 8, .w1c, 0⟩, ⟨8, 1, .w1c, 0⟩, ⟨9, 1, .w1c, 0⟩, ⟨10, 1, .w1c, 0⟩]⟩,
    ⟨0x46020048, [(64, 0x80)], 8, [⟨0, 20, .ro, 0⟩]⟩ ]

/-- The registers of R213. -/
def regRowsR213 : List RegRow :=
  [ ⟨0x100000000000, [(64, 0x1000), (8, 0x10)], 4, [⟨0, 16, .rw, 0⟩]⟩,
    ⟨0x100000000004, [(64, 0x1000), (8, 0x10)], 4, [⟨0, 16, .rw, 0⟩]⟩,
    ⟨0x100000000008, [(64, 0x1000), (8, 0x10)], 4, [⟨0, 16, .ro, 0⟩]⟩,
    ⟨0x10000000000C, [(64, 0x1000), (8, 0x10)], 4, [⟨0, 16, .ro, 0⟩]⟩,
    ⟨0x100000000080, [(64, 0x1000)], 4, [⟨0, 8, .ro, 0⟩, ⟨8, 3, .ro, 0⟩, ⟨16, 16, .ro, 0⟩]⟩,
    ⟨0x100000000084, [(64, 0x1000)], 4, [⟨0, 6, .ro, 0⟩, ⟨8, 2, .ro, 0⟩, ⟨16, 16, .ro, 256⟩]⟩,
    ⟨0x100000000100, [(64, 0x1000)], 4, [⟨0, 8, .w1c, 0⟩, ⟨8, 1, .w1c, 0⟩, ⟨9, 1, .w1c, 0⟩, ⟨10, 1, .w1c, 0⟩]⟩,
    ⟨0x100000000104, [(64, 0x1000)], 4, [⟨0, 11, .rw, 0⟩]⟩,
    ⟨0x100000000200, [(64, 0x1000), (8, 0x4)], 4, [⟨0, 32, .rw, 0⟩]⟩,
    ⟨0x100000000220, [(64, 0x1000)], 4, [⟨0, 1, .wo, 0⟩, ⟨16, 16, .wo, 0⟩]⟩,
    ⟨0x100000000224, [(64, 0x1000)], 4, [⟨0, 8, .ro, 0⟩, ⟨8, 1, .ro, 0⟩, ⟨16, 16, .ro, 1⟩]⟩,
    ⟨0x100000000240, [(64, 0x1000), (8, 0x4)], 4, [⟨0, 32, .ro, 0⟩]⟩ ] ++
  [ ⟨0x100000000260, [(64, 0x1000)], 4, [⟨0, 16, .ro, 0⟩, ⟨16, 1, .ro, 0⟩]⟩,
    ⟨0x100000000264, [(64, 0x1000)], 4, [⟨0, 16, .wo, 0⟩]⟩,
    ⟨0x100000000300, [(64, 0x1000)], 4, [⟨0, 16, .ro, 0⟩]⟩,
    ⟨0x100000000304, [(64, 0x1000)], 4, [⟨0, 16, .rw, 0⟩]⟩,
    ⟨0x100000000308, [(64, 0x1000)], 4, [⟨0, 1, .w1c, 0⟩, ⟨1, 1, .w1c, 0⟩, ⟨2, 1, .w1c, 0⟩, ⟨3, 1, .w1c, 0⟩, ⟨4, 1, .w1c, 0⟩, ⟨5, 1, .w1c, 0⟩]⟩,
    ⟨0x100000000310, [(64, 0x1000)], 4, [⟨0, 18, .rw, 0⟩]⟩,
    ⟨0x100000000314, [(64, 0x1000)], 4, [⟨0, 32, .ro, 0⟩]⟩ ]

/-- The registers of R214. -/
def regRowsR214 : List RegRow :=
  [ ⟨0x46030000, [(64, 0x80), (8, 0x4)], 4, [⟨0, 32, .rw, 0⟩]⟩,
    ⟨0x46030020, [(64, 0x80)], 4, [⟨0, 1, .wo, 0⟩, ⟨16, 16, .wo, 0⟩]⟩,
    ⟨0x46030024, [(64, 0x80)], 4, [⟨0, 8, .ro, 0⟩, ⟨8, 1, .ro, 0⟩, ⟨16, 16, .ro, 1⟩]⟩,
    ⟨0x46030040, [(64, 0x80), (8, 0x4)], 4, [⟨0, 32, .ro, 0⟩]⟩,
    ⟨0x46030060, [(64, 0x80)], 4, [⟨0, 16, .ro, 0⟩, ⟨16, 1, .ro, 0⟩]⟩,
    ⟨0x46030064, [(64, 0x80)], 4, [⟨0, 16, .wo, 0⟩]⟩,
    ⟨0x46030068, [(64, 0x80)], 4, [⟨0, 1, .w1c, 0⟩, ⟨1, 1, .w1c, 0⟩, ⟨2, 1, .w1c, 0⟩, ⟨3, 1, .w1c, 0⟩]⟩,
    ⟨0x4603006C, [(64, 0x80)], 4, [⟨0, 4, .rw, 0⟩]⟩,
    ⟨0x46030070, [(64, 0x80)], 8, [⟨0, 4, .rw, 0⟩, ⟨4, 3, .rw, 0⟩, ⟨7, 1, .rw, 0⟩, ⟨8, 11, .rw, 0⟩]⟩,
    ⟨0x46030078, [(64, 0x80)], 8, [⟨0, 16, .ro, 0⟩, ⟨16, 16, .ro, 0⟩]⟩ ]

/-- The registers of R247. -/
def regRowsR247 : List RegRow :=
  [ ⟨0x45100000, [(19, 0x10000)], 8, [⟨0, 1, .ro, 0⟩, ⟨1, 1, .ro, 0⟩, ⟨2, 2, .rw, 0⟩, ⟨4, 1, .rw, 1⟩, ⟨5, 1, .rw, 0⟩, ⟨6, 1, .rw, 0⟩, ⟨7, 1, .rw, 0⟩, ⟨8, 8, .rw, 0⟩, ⟨16, 8, .rw, 8⟩, ⟨32, 14, .rw, 1522⟩]⟩,
    ⟨0x45100008, [(19, 0x10000)], 8, [⟨0, 12, .rw, 1⟩, ⟨12, 3, .rw, 0⟩]⟩,
    ⟨0x45100010, [(19, 0x10000)], 8, [⟨0, 24, .rw, 0xFAC681⟩]⟩,
    ⟨0x45100018, [(19, 0x10000)], 8, [⟨0, 1, .ro, 0⟩, ⟨1, 2, .ro, 0⟩, ⟨3, 1, .ro, 0⟩, ⟨4, 3, .ro, 0⟩]⟩,
    ⟨0x45100020, [(19, 0x10000)], 8, [⟨0, 1, .w1c, 0⟩, ⟨1, 1, .w1c, 0⟩, ⟨2, 1, .w1c, 0⟩, ⟨3, 1, .w1c, 0⟩, ⟨4, 1, .w1c, 0⟩, ⟨5, 1, .w1c, 0⟩]⟩,
    ⟨0x45100028, [(19, 0x10000)], 8, [⟨0, 6, .rw, 0⟩]⟩,
    ⟨0x45100030, [(19, 0x10000)], 8, [⟨0, 1, .wo, 0⟩, ⟨1, 1, .wo, 0⟩, ⟨2, 1, .rw, 1⟩, ⟨3, 1, .rw, 1⟩, ⟨4, 16, .rw, 0⟩]⟩,
    ⟨0x45100038, [(19, 0x10000)], 8, [⟨0, 16, .ro, 0⟩]⟩,
    ⟨0x45100040, [(19, 0x10000), (8, 0x8)], 8, [⟨0, 14, .rw, 0⟩, ⟨14, 1, .rw, 0⟩, ⟨16, 15, .rw, 24576⟩, ⟨32, 32, .rw, 0⟩]⟩,
    ⟨0x45100080, [(19, 0x10000)], 8, [⟨0, 15, .rw, 256⟩, ⟨32, 15, .ro, 0⟩]⟩,
    ⟨0x45100100, [(19, 0x10000)], 8, [⟨0, 1, .rw, 0⟩, ⟨1, 1, .wo, 0⟩, ⟨2, 1, .ro, 0⟩, ⟨3, 2, .rw, 0⟩, ⟨8, 9, .rw, 1⟩, ⟨24, 8, .ro, 0⟩]⟩,
    ⟨0x45100108, [(19, 0x10000)], 8, [⟨0, 64, .rw, 0⟩]⟩ ] ++
  [ ⟨0x45100110, [(19, 0x10000)], 8, [⟨0, 32, .rw, 0xF4240⟩, ⟨32, 32, .rw, 0⟩]⟩,
    ⟨0x45100118, [(19, 0x10000)], 8, [⟨0, 64, .ro, 0⟩]⟩,
    ⟨0x45100120, [(19, 0x10000)], 8, [⟨0, 8, .ro, 0⟩]⟩,
    ⟨0x45100800, [(19, 0x10000), (256, 0x4)], 4, [⟨0, 32, .rw, 0⟩]⟩,
    ⟨0x45100C00, [(19, 0x10000), (256, 0x4)], 4, [⟨0, 32, .ro, 0⟩]⟩ ]

/-- The registers of R249. -/
def regRowsR249 : List RegRow :=
  [ ⟨0x45000000, [], 8, [⟨0, 1, .rw, 1⟩, ⟨16, 16, .rw, 300⟩]⟩,
    ⟨0x45000008, [], 8, [⟨0, 15, .ro, 19712⟩, ⟨32, 15, .ro, 0⟩]⟩,
    ⟨0x45000010, [], 8, [⟨0, 8, .w1c, 0⟩, ⟨8, 8, .w1c, 0⟩]⟩,
    ⟨0x45000018, [], 8, [⟨0, 16, .rw, 0⟩]⟩,
    ⟨0x45000100, [], 8, [⟨0, 48, .rw, 0⟩, ⟨48, 12, .rw, 0⟩]⟩,
    ⟨0x45000108, [], 8, [⟨0, 19, .rw, 0⟩, ⟨19, 1, .rw, 0⟩, ⟨20, 1, .rw, 0⟩, ⟨32, 16, .ro, 0⟩]⟩,
    ⟨0x45000110, [], 8, [⟨0, 2, .wo, 0⟩]⟩,
    ⟨0x45000118, [], 8, [⟨0, 8, .ro, 0⟩, ⟨8, 1, .ro, 0⟩]⟩,
    ⟨0x45000200, [], 8, [⟨0, 12, .rw, 0⟩]⟩,
    ⟨0x45000208, [], 8, [⟨0, 19, .rw, 0⟩, ⟨32, 19, .rw, 0⟩]⟩,
    ⟨0x45001000, [(16, 0x40)], 8, [⟨0, 64, .rw, 0⟩]⟩,
    ⟨0x45001008, [(16, 0x40)], 8, [⟨0, 1, .rw, 0⟩, ⟨1, 4, .rw, 4⟩, ⟨5, 1, .ro, 0⟩]⟩ ] ++
  [ ⟨0x45001010, [(16, 0x40)], 8, [⟨0, 16, .rw, 0⟩]⟩,
    ⟨0x45001018, [(16, 0x40)], 8, [⟨0, 16, .ro, 0⟩]⟩,
    ⟨0x45001400, [], 8, [⟨0, 5, .wo, 0⟩, ⟨5, 3, .wo, 0⟩, ⟨16, 16, .wo, 0⟩]⟩,
    ⟨0x45001408, [], 8, [⟨0, 8, .ro, 0⟩]⟩,
    ⟨0x45002000, [(256, 0x8)], 8, [⟨0, 1, .rw, 1⟩, ⟨1, 1, .rw, 0⟩, ⟨2, 1, .w1c, 0⟩, ⟨3, 1, .rw, 0⟩, ⟨4, 3, .rw, 0⟩, ⟨32, 32, .ro, 0⟩]⟩,
    ⟨0x45003000, [(64, 0x20)], 8, [⟨0, 12, .rw, 0⟩, ⟨12, 48, .rw, 0⟩, ⟨60, 1, .rw, 0⟩, ⟨61, 1, .rw, 0⟩, ⟨62, 1, .rw, 0⟩, ⟨63, 1, .rw, 0⟩]⟩,
    ⟨0x45003008, [(64, 0x20)], 8, [⟨0, 19, .rw, 0⟩, ⟨19, 1, .rw, 0⟩, ⟨20, 6, .rw, 32⟩, ⟨32, 10, .rw, 100⟩]⟩,
    ⟨0x45003010, [(64, 0x20)], 8, [⟨0, 32, .ro, 0⟩, ⟨32, 32, .ro, 0⟩]⟩,
    ⟨0x45003018, [(64, 0x20)], 8, [⟨0, 16, .ro, 0⟩, ⟨16, 16, .ro, 0⟩, ⟨32, 16, .ro, 0⟩, ⟨48, 16, .ro, 0⟩]⟩,
    ⟨0x45004000, [(1024, 0x10)], 8, [⟨0, 32, .rw, 0⟩, ⟨32, 32, .rw, 0⟩]⟩,
    ⟨0x45004008, [(1024, 0x10)], 8, [⟨0, 24, .rw, 0⟩, ⟨24, 24, .rw, 0⟩, ⟨48, 1, .rw, 0⟩, ⟨49, 1, .rw, 0⟩, ⟨50, 1, .rw, 0⟩, ⟨51, 1, .w1c, 0⟩]⟩ ]

/-- The registers of R250. -/
def regRowsR250 : List RegRow :=
  [ ⟨0x45010000, [], 8, [⟨0, 4, .rw, 9⟩]⟩,
    ⟨0x45010008, [], 8, [⟨0, 1, .ro, 0⟩, ⟨1, 1, .ro, 0⟩, ⟨8, 8, .ro, 0⟩]⟩,
    ⟨0x45020000, [(2, 0x10000)], 8, [⟨0, 1, .rw, 0⟩, ⟨1, 2, .rw, 2⟩, ⟨3, 3, .rw, 0⟩, ⟨6, 1, .rw, 0⟩, ⟨7, 1, .rw, 1⟩, ⟨8, 1, .rw, 0⟩]⟩,
    ⟨0x45020008, [(2, 0x10000)], 8, [⟨0, 2, .ro, 0⟩, ⟨8, 8, .ro, 0⟩, ⟨16, 8, .ro, 0⟩]⟩,
    ⟨0x45020010, [(2, 0x10000)], 8, [⟨0, 64, .rw, 0⟩]⟩,
    ⟨0x45020018, [(2, 0x10000)], 8, [⟨0, 1, .rw, 0⟩, ⟨1, 4, .rw, 4⟩]⟩,
    ⟨0x45020020, [(2, 0x10000)], 8, [⟨0, 16, .rw, 0⟩]⟩,
    ⟨0x45020028, [(2, 0x10000)], 8, [⟨0, 16, .ro, 0⟩]⟩,
    ⟨0x45020030, [(2, 0x10000)], 8, [⟨0, 29, .rw, 0⟩, ⟨29, 2, .rw, 0⟩, ⟨31, 1, .rw, 0⟩, ⟨32, 29, .rw, 0⟩]⟩,
    ⟨0x45020038, [(2, 0x10000)], 8, [⟨0, 1, .w1c, 0⟩, ⟨1, 1, .w1c, 0⟩, ⟨2, 1, .w1c, 0⟩]⟩ ]

/-- The registers of R251. -/
def regRowsR251 : List RegRow :=
  [ ⟨0x46100000, [(8, 0x10000)], 8, [⟨0, 1, .ro, 0⟩, ⟨1, 3, .ro, 0⟩]⟩,
    ⟨0x46100008, [(8, 0x10000)], 8, [⟨0, 16, .rw, 500⟩, ⟨16, 5, .ro, 0⟩]⟩,
    ⟨0x46100010, [(8, 0x10000)], 8, [⟨0, 56, .wo, 0⟩, ⟨56, 1, .wo, 0⟩, ⟨57, 1, .wo, 0⟩, ⟨58, 3, .wo, 0⟩, ⟨63, 1, .wo, 0⟩]⟩,
    ⟨0x46100018, [(8, 0x10000)], 8, [⟨0, 8, .ro, 0⟩, ⟨8, 1, .ro, 0⟩, ⟨32, 32, .ro, 0⟩]⟩ ]

/-- The registers of R269. -/
def regRowsR269 : List RegRow :=
  [ ⟨0x47020000, [], 8, [⟨0, 1, .rw, 0⟩, ⟨1, 1, .wo, 0⟩, ⟨2, 1, .rw, 0⟩, ⟨3, 1, .wo, 0⟩, ⟨16, 16, .rw, 1000⟩]⟩,
    ⟨0x47020008, [], 8, [⟨0, 2, .ro, 0⟩, ⟨2, 1, .ro, 0⟩, ⟨3, 1, .ro, 0⟩, ⟨4, 1, .ro, 0⟩, ⟨8, 8, .ro, 0⟩, ⟨16, 9, .ro, 0⟩]⟩,
    ⟨0x47020010, [], 8, [⟨0, 32, .rw, 1⟩, ⟨32, 8, .rw, 12⟩]⟩,
    ⟨0x47020018, [], 8, [⟨0, 48, .rw, 0⟩]⟩,
    ⟨0x47020020, [], 8, [⟨0, 16, .rw, 0⟩, ⟨16, 16, .rw, 0⟩, ⟨32, 4, .rw, 0⟩]⟩,
    ⟨0x47020028, [], 8, [⟨0, 64, .rw, 0⟩]⟩,
    ⟨0x47020030, [], 8, [⟨0, 64, .ro, 0⟩]⟩,
    ⟨0x47020038, [], 8, [⟨0, 64, .ro, 0⟩]⟩,
    ⟨0x47020040, [], 8, [⟨0, 64, .ro, 0⟩]⟩,
    ⟨0x47020048, [], 8, [⟨0, 64, .ro, 0xFFFFFFFFFFFFFFFF⟩]⟩,
    ⟨0x47020050, [(4, 0x8)], 8, [⟨0, 64, .ro, 0⟩]⟩,
    ⟨0x47020070, [], 8, [⟨0, 32, .ro, 0⟩]⟩ ] ++
  [ ⟨0x47020078, [], 8, [⟨0, 16, .rw, 100⟩, ⟨16, 16, .rw, 1000⟩]⟩,
    ⟨0x47020080, [], 8, [⟨0, 64, .ro, 0⟩]⟩,
    ⟨0x47020088, [], 8, [⟨0, 32, .ro, 0⟩]⟩,
    ⟨0x47020090, [], 8, [⟨0, 1, .w1c, 0⟩, ⟨1, 1, .w1c, 0⟩, ⟨2, 1, .w1c, 0⟩, ⟨3, 1, .w1c, 0⟩, ⟨4, 1, .w1c, 0⟩, ⟨5, 1, .w1c, 0⟩]⟩,
    ⟨0x47020098, [], 8, [⟨0, 6, .rw, 0⟩]⟩,
    ⟨0x47020100, [], 8, [⟨0, 64, .rw, 0⟩]⟩,
    ⟨0x47020108, [], 8, [⟨0, 32, .rw, 0⟩]⟩,
    ⟨0x47020110, [], 8, [⟨0, 64, .rw, 0⟩]⟩,
    ⟨0x47020118, [], 8, [⟨0, 2, .wo, 0⟩]⟩,
    ⟨0x47020120, [], 8, [⟨0, 8, .ro, 0⟩, ⟨8, 1, .ro, 0⟩, ⟨9, 3, .ro, 0⟩]⟩,
    ⟨0x47020128, [], 8, [⟨0, 64, .ro, 0⟩]⟩ ]

/-- The registers of R271. -/
def regRowsR271 : List RegRow :=
  [ ⟨0x47022000, [(2, 0x1000), (6, 0x8)], 8, [⟨0, 64, .rw, 0⟩]⟩,
    ⟨0x47022030, [(2, 0x1000)], 8, [⟨0, 8, .wo, 0⟩, ⟨8, 6, .wo, 0⟩, ⟨16, 16, .wo, 0⟩, ⟨63, 1, .wo, 0⟩]⟩,
    ⟨0x47022038, [(2, 0x1000)], 8, [⟨0, 8, .ro, 0⟩, ⟨8, 1, .ro, 0⟩]⟩ ]

/-- The registers of R295. -/
def regRowsR295 : List RegRow :=
  [ ⟨0x43000000, [(8, 0x10000)], 8, [⟨0, 2, .ro, 0⟩, ⟨2, 1, .ro, 0⟩, ⟨3, 1, .ro, 0⟩, ⟨4, 1, .ro, 0⟩, ⟨5, 1, .ro, 0⟩, ⟨6, 1, .ro, 0⟩, ⟨7, 1, .ro, 0⟩, ⟨8, 2, .ro, 3⟩]⟩,
    ⟨0x43000008, [(8, 0x10000)], 8, [⟨2, 62, .rw, 0⟩]⟩ ]

/-- The registers of R296. -/
def regRowsR296 : List RegRow :=
  [ ⟨0x42040000, [(4, 0x10000)], 8, [⟨0, 1, .rw, 0⟩]⟩,
    ⟨0x42040008, [(4, 0x10000)], 8, [⟨0, 17, .rw, 0⟩]⟩,
    ⟨0x42040010, [(4, 0x10000)], 8, [⟨0, 1, .ro, 0⟩, ⟨1, 1, .ro, 0⟩, ⟨2, 1, .ro, 0⟩, ⟨3, 1, .ro, 0⟩, ⟨4, 1, .ro, 0⟩]⟩,
    ⟨0x42040018, [(4, 0x10000)], 8, [⟨0, 64, .ro, 0⟩]⟩ ]

/-- The registers of R316. -/
def regRowsR316 : List RegRow :=
  [ ⟨0x42040100, [(4, 0x10000)], 8, [⟨0, 6, .wo, 0⟩]⟩,
    ⟨0x42040108, [(4, 0x10000)], 8, [⟨1, 63, .ro, 0⟩]⟩,
    ⟨0x42040110, [(4, 0x10000)], 8, [⟨1, 63, .rw, 0⟩]⟩,
    ⟨0x42040118, [(4, 0x10000)], 8, [⟨0, 6, .rp, 0⟩]⟩,
    ⟨0x41000100, [], 8, [⟨0, 6, .wo, 0⟩]⟩,
    ⟨0x41000108, [], 8, [⟨1, 63, .ro, 0⟩]⟩,
    ⟨0x41000110, [], 8, [⟨1, 63, .rw, 0⟩]⟩,
    ⟨0x41000118, [], 8, [⟨0, 6, .rp, 0⟩]⟩ ]

/-- The registers of R345. -/
def regRowsR345 : List RegRow :=
  [ ⟨0x44040000, [], 8, [⟨0, 4, .rw, 8⟩, ⟨4, 4, .rw, 6⟩]⟩,
    ⟨0x44040008, [], 8, [⟨0, 11, .rw, 64⟩, ⟨16, 11, .rw, 64⟩]⟩,
    ⟨0x44040010, [], 8, [⟨0, 32, .ro, 0⟩]⟩,
    ⟨0x44040018, [], 8, [⟨0, 16, .ro, 0⟩, ⟨16, 16, .ro, 0⟩]⟩,
    ⟨0x44040020, [], 8, [⟨0, 1, .w1c, 0⟩, ⟨1, 1, .w1c, 0⟩]⟩,
    ⟨0x44040028, [], 8, [⟨0, 2, .rw, 0⟩]⟩,
    ⟨0x44040100, [], 8, [⟨6, 38, .rw, 0⟩]⟩,
    ⟨0x44040108, [], 8, [⟨0, 1, .ro, 0⟩, ⟨1, 1, .ro, 0⟩, ⟨2, 2, .ro, 0⟩, ⟨4, 8, .ro, 0⟩, ⟨12, 3, .ro, 0⟩, ⟨16, 2, .ro, 0⟩, ⟨18, 12, .ro, 0⟩, ⟨30, 4, .ro, 0⟩, ⟨34, 1, .ro, 0⟩, ⟨35, 1, .ro, 0⟩, ⟨36, 1, .ro, 0⟩, ⟨63, 1, .ro, 0⟩]⟩,
    ⟨0x44040200, [], 8, [⟨0, 12, .w1s, 0⟩, ⟨20, 8, .ro, 0⟩, ⟨28, 1, .ro, 0⟩]⟩,
    ⟨0x44040300, [(8, 0x8)], 8, [⟨0, 16, .w1s, 0⟩, ⟨16, 8, .ro, 0⟩, ⟨24, 1, .ro, 0⟩, ⟨25, 1, .ro, 0⟩]⟩ ]

/-- The registers of R346. -/
def regRowsR346 : List RegRow :=
  [ ⟨0x44050000, [], 8, [⟨0, 2, .ro, 0⟩, ⟨2, 2, .ro, 0⟩, ⟨4, 2, .ro, 0⟩, ⟨6, 2, .ro, 0⟩, ⟨8, 2, .ro, 0⟩, ⟨10, 2, .ro, 0⟩, ⟨12, 2, .ro, 0⟩, ⟨14, 2, .ro, 0⟩, ⟨16, 2, .ro, 0⟩, ⟨18, 2, .ro, 0⟩, ⟨20, 2, .ro, 0⟩, ⟨22, 2, .ro, 0⟩, ⟨24, 2, .ro, 0⟩, ⟨26, 2, .ro, 0⟩, ⟨28, 2, .ro, 0⟩, ⟨30, 2, .ro, 0⟩, ⟨32, 2, .ro, 0⟩, ⟨34, 2, .ro, 0⟩, ⟨36, 2, .ro, 0⟩, ⟨38, 2, .ro, 0⟩, ⟨40, 2, .ro, 0⟩, ⟨42, 2, .ro, 0⟩, ⟨44, 2, .ro, 0⟩, ⟨46, 2, .ro, 0⟩]⟩,
    ⟨0x44050008, [], 8, [⟨0, 24, .w1s, 0⟩]⟩,
    ⟨0x44050010, [], 8, [⟨0, 8, .ro, 0⟩, ⟨8, 1, .ro, 0⟩, ⟨9, 1, .ro, 0⟩]⟩ ]

/-- The registers of R402. -/
def regRowsR402 : List RegRow :=
  [ ⟨0x44000000, [], 8, [⟨0, 1, .ro, 0⟩]⟩,
    ⟨0x44000008, [], 8, [⟨0, 8, .rw, 24⟩, ⟨32, 22, .ro, 0⟩]⟩,
    ⟨0x44000010, [], 8, [⟨0, 32, .wo, 0⟩, ⟨63, 1, .wo, 0⟩]⟩,
    ⟨0x44000018, [], 8, [⟨0, 8, .ro, 0⟩, ⟨8, 1, .ro, 0⟩, ⟨32, 10, .ro, 0⟩, ⟨48, 11, .ro, 0⟩]⟩,
    ⟨0x44000020, [], 8, [⟨0, 3, .rw, 0⟩, ⟨3, 1, .rw, 0⟩, ⟨4, 1, .rw, 0⟩, ⟨6, 38, .rw, 0⟩]⟩,
    ⟨0x44001000, [(1024, 0x8)], 8, [⟨0, 32, .ro, 0⟩, ⟨32, 1, .ro, 0⟩]⟩ ]

/-- The registers of R403. -/
def regRowsR403 : List RegRow :=
  [ ⟨0x44010000, [], 8, [⟨0, 1, .wo, 0⟩]⟩,
    ⟨0x44010008, [], 8, [⟨0, 1, .ro, 0⟩, ⟨1, 1, .w1c, 0⟩, ⟨8, 4, .ro, 15⟩, ⟨12, 1, .ro, 0⟩, ⟨16, 10, .ro, 0⟩, ⟨32, 11, .ro, 0⟩]⟩,
    ⟨0x44010010, [], 8, [⟨0, 4, .rw, 0⟩, ⟨4, 4, .rw, 0⟩, ⟨8, 4, .rw, 0⟩, ⟨12, 4, .rw, 0⟩, ⟨16, 4, .rw, 0⟩, ⟨20, 4, .rw, 0⟩, ⟨24, 4, .rw, 0⟩, ⟨28, 4, .rw, 0⟩, ⟨32, 4, .rw, 0⟩, ⟨36, 4, .rw, 0⟩, ⟨40, 4, .rw, 0⟩]⟩,
    ⟨0x44010018, [], 8, [⟨0, 44, .ro, 0⟩]⟩,
    ⟨0x44010100, [(11, 0x8)], 8, [⟨0, 32, .ro, 0⟩]⟩,
    ⟨0x44011000, [(128, 0x8)], 8, [⟨0, 4, .rw, 0⟩, ⟨8, 4, .rw, 0⟩, ⟨16, 4, .rw, 0⟩, ⟨24, 4, .rw, 0⟩, ⟨32, 4, .rw, 0⟩, ⟨40, 4, .rw, 0⟩, ⟨48, 4, .rw, 0⟩, ⟨56, 4, .rw, 0⟩]⟩,
    ⟨0x44012000, [(128, 0x8)], 8, [⟨0, 64, .ro, 0⟩]⟩ ]

/-- The registers of R404. -/
def regRowsR404 : List RegRow :=
  [ ⟨0x44020000, [], 8, [⟨12, 32, .rw, 0⟩]⟩,
    ⟨0x44020008, [], 8, [⟨0, 32, .rw, 0⟩]⟩,
    ⟨0x44020010, [], 8, [⟨0, 2, .wo, 0⟩]⟩,
    ⟨0x44020018, [], 8, [⟨0, 8, .ro, 0⟩, ⟨8, 1, .ro, 0⟩, ⟨32, 32, .ro, 0⟩]⟩,
    ⟨0x44020020, [], 8, [⟨12, 32, .ro, 0⟩]⟩,
    ⟨0x44020028, [], 8, [⟨6, 38, .ro, 0⟩]⟩ ]

/-- The registers of R405. -/
def regRowsR405 : List RegRow :=
  [ ⟨0x44030000, [], 8, [⟨0, 1, .rw, 1⟩]⟩,
    ⟨0x44030008, [], 8, [⟨0, 13, .ro, 0⟩, ⟨32, 32, .ro, 0⟩]⟩,
    ⟨0x44030010, [], 8, [⟨0, 1, .wo, 0⟩]⟩,
    ⟨0x44030020, [(4, 0x8)], 8, [⟨0, 64, .ro, 0⟩]⟩,
    ⟨0x44030040, [], 8, [⟨0, 1, .w1c, 0⟩, ⟨1, 1, .w1c, 0⟩, ⟨2, 1, .w1c, 0⟩, ⟨3, 1, .w1c, 0⟩, ⟨4, 1, .w1c, 0⟩, ⟨5, 1, .w1c, 0⟩]⟩,
    ⟨0x44030048, [], 8, [⟨0, 6, .rw, 0⟩]⟩,
    ⟨0x44030100, [], 8, [⟨0, 16, .rw, 24⟩, ⟨16, 8, .rw, 8⟩, ⟨24, 8, .rw, 16⟩, ⟨32, 8, .rw, 16⟩, ⟨40, 8, .rw, 16⟩, ⟨48, 8, .rw, 32⟩]⟩,
    ⟨0x44030200, [], 8, [⟨0, 8, .rw, 0⟩]⟩,
    ⟨0x44030208, [], 8, [⟨0, 16, .ro, 0⟩, ⟨16, 3, .ro, 0⟩, ⟨19, 1, .ro, 0⟩, ⟨20, 1, .ro, 0⟩, ⟨32, 32, .ro, 0⟩]⟩,
    ⟨0x44030210, [], 8, [⟨0, 16, .ro, 0⟩, ⟨16, 1, .wo, 0⟩]⟩,
    ⟨0x44030218, [], 8, [⟨0, 64, .ro, 0⟩]⟩ ]

/-- The registers of R434. -/
def regRowsR434 : List RegRow :=
  [ ⟨0x41020000, [], 8, [⟨0, 8, .wo, 0⟩, ⟨8, 8, .wo, 0⟩, ⟨31, 1, .wo, 0⟩]⟩,
    ⟨0x41020008, [], 8, [⟨0, 8, .ro, 0⟩, ⟨8, 8, .ro, 0⟩, ⟨16, 1, .ro, 0⟩, ⟨17, 1, .ro, 0⟩, ⟨24, 8, .ro, 0⟩]⟩,
    ⟨0x41020010, [], 8, [⟨0, 1, .w1c, 0⟩]⟩,
    ⟨0x41020018, [], 8, [⟨0, 1, .rw, 0⟩]⟩ ]

/-- The registers of R435. -/
def regRowsR435 : List RegRow :=
  [ ⟨0x41030000, [], 8, [⟨0, 7, .ro, 0⟩, ⟨16, 9, .ro, 0⟩]⟩,
    ⟨0x41031000, [(64, 0x10)], 8, [⟨0, 64, .ro, 0⟩]⟩,
    ⟨0x41031008, [(64, 0x10)], 8, [⟨0, 4, .ro, 0⟩, ⟨4, 1, .ro, 0⟩, ⟨5, 2, .ro, 0⟩, ⟨7, 1, .ro, 0⟩, ⟨8, 14, .ro, 0⟩, ⟨22, 1, .ro, 0⟩]⟩,
    ⟨0x41032000, [(256, 0x10)], 8, [⟨0, 32, .ro, 0⟩, ⟨32, 32, .ro, 0⟩]⟩,
    ⟨0x41032008, [(256, 0x10)], 8, [⟨0, 6, .ro, 0⟩, ⟨6, 1, .ro, 0⟩, ⟨7, 1, .ro, 0⟩, ⟨8, 1, .ro, 0⟩, ⟨9, 1, .ro, 0⟩]⟩ ]

/-- The registers of R436. -/
def regRowsR436 : List RegRow :=
  [ ⟨0x41040000, [], 8, [⟨0, 16, .rw, 100⟩]⟩,
    ⟨0x41040100, [(8, 0x20), (4, 0x8)], 8, [⟨0, 64, .ro, 0⟩]⟩,
    ⟨0x41042000, [(2, 0x1000)], 8, [⟨0, 16, .wo, 0⟩, ⟨16, 1, .wo, 0⟩, ⟨31, 1, .wo, 0⟩]⟩,
    ⟨0x41042008, [(2, 0x1000)], 8, [⟨0, 8, .ro, 0⟩, ⟨8, 3, .ro, 0⟩, ⟨11, 1, .ro, 0⟩, ⟨16, 16, .ro, 0⟩, ⟨32, 32, .ro, 0⟩]⟩,
    ⟨0x41042010, [(2, 0x1000)], 8, [⟨0, 1, .w1c, 0⟩]⟩,
    ⟨0x41042018, [(2, 0x1000)], 8, [⟨0, 1, .rw, 0⟩]⟩,
    ⟨0x41042080, [(2, 0x1000)], 8, [⟨0, 4, .rw, 0⟩, ⟨4, 3, .rw, 0⟩, ⟨7, 1, .rw, 0⟩, ⟨8, 11, .rw, 0⟩]⟩,
    ⟨0x41042020, [], 8, [⟨0, 16, .ro, 0⟩, ⟨16, 1, .ro, 0⟩]⟩,
    ⟨0x41042028, [], 8, [⟨0, 1, .wo, 0⟩, ⟨1, 1, .wo, 0⟩]⟩,
    ⟨0x41042030, [], 8, [⟨0, 3, .ro, 0⟩, ⟨8, 1, .ro, 0⟩]⟩,
    ⟨0x41042038, [], 8, [⟨0, 1, .wo, 0⟩, ⟨1, 1, .wo, 0⟩]⟩,
    ⟨0x41042040, [], 8, [⟨0, 1, .w1c, 0⟩, ⟨1, 1, .w1c, 0⟩]⟩ ] ++
  [ ⟨0x41042048, [], 8, [⟨0, 2, .rw, 0⟩]⟩ ]

/-- The registers of R437. -/
def regRowsR437 : List RegRow :=
  [ ⟨0x41050000, [], 8, [⟨0, 10, .rw, 200⟩, ⟨16, 10, .rw, 200⟩, ⟨32, 10, .rw, 20⟩]⟩,
    ⟨0x41050010, [(2, 0x10)], 8, [⟨0, 16, .wo, 0⟩]⟩,
    ⟨0x41050018, [(2, 0x10)], 8, [⟨0, 16, .ro, 1⟩, ⟨16, 10, .ro, 0⟩, ⟨32, 8, .ro, 0⟩]⟩,
    ⟨0x41050040, [], 8, [⟨0, 1, .ro, 0⟩, ⟨1, 1, .ro, 0⟩, ⟨8, 8, .ro, 0⟩]⟩,
    ⟨0x41050048, [], 8, [⟨0, 2, .w1c, 0⟩, ⟨2, 1, .w1c, 0⟩]⟩,
    ⟨0x41050050, [], 8, [⟨0, 3, .rw, 0⟩]⟩ ]

/-- The registers of R438. -/
def regRowsR438 : List RegRow :=
  [ ⟨0x41060000, [(4, 0x8)], 8, [⟨0, 64, .ro, 0⟩]⟩,
    ⟨0x41060020, [(4, 0x8)], 8, [⟨0, 64, .ro, 0⟩]⟩,
    ⟨0x41060040, [], 8, [⟨0, 1, .ro, 0⟩]⟩ ]

/-- The registers of R459. -/
def regRowsR459 : List RegRow :=
  [ ⟨0x43080000, [(2, 0x100)], 8, [⟨0, 1, .ro, 0⟩, ⟨8, 8, .rw, 8⟩, ⟨16, 10, .rw, 0⟩]⟩,
    ⟨0x43080008, [(2, 0x100)], 8, [⟨0, 1, .wo, 0⟩, ⟨1, 1, .wo, 0⟩, ⟨2, 1, .wo, 0⟩]⟩,
    ⟨0x43080010, [(2, 0x100)], 8, [⟨0, 2, .ro, 0⟩, ⟨8, 8, .ro, 0⟩]⟩,
    ⟨0x43080018, [(2, 0x100)], 8, [⟨0, 18, .ro, 0⟩, ⟨32, 18, .ro, 0⟩]⟩,
    ⟨0x43080020, [(2, 0x100)], 8, [⟨0, 9, .ro, 0⟩]⟩,
    ⟨0x43080028, [(2, 0x100)], 8, [⟨0, 64, .ro, 0⟩]⟩,
    ⟨0x43080030, [(2, 0x100)], 8, [⟨0, 32, .ro, 0⟩, ⟨32, 32, .ro, 0⟩]⟩,
    ⟨0x43080038, [(2, 0x100)], 8, [⟨0, 64, .ro, 0⟩]⟩,
    ⟨0x43080040, [(2, 0x100)], 8, [⟨0, 64, .ro, 0⟩]⟩,
    ⟨0x43080048, [(2, 0x100)], 8, [⟨0, 2, .ro, 0⟩, ⟨8, 3, .ro, 0⟩]⟩,
    ⟨0x43080050, [(2, 0x100)], 8, [⟨0, 1, .w1c, 0⟩, ⟨1, 1, .w1c, 0⟩, ⟨2, 1, .w1c, 0⟩]⟩,
    ⟨0x43080058, [(2, 0x100)], 8, [⟨0, 3, .rw, 0⟩]⟩ ] ++
  [ ⟨0x43080060, [(2, 0x100)], 8, [⟨0, 44, .ro, 0⟩, ⟨44, 8, .ro, 0⟩, ⟨52, 4, .ro, 0⟩]⟩ ]

/-- The registers of R460. -/
def regRowsR460 : List RegRow :=
  [ ⟨0x43081000, [(64, 0x8)], 8, [⟨0, 4, .ro, 15⟩, ⟨4, 1, .ro, 0⟩, ⟨8, 1, .wo, 0⟩, ⟨9, 1, .wo, 0⟩]⟩ ]

/-- The registers of R461. -/
def regRowsR461 : List RegRow :=
  [ ⟨0x43090000, [(4, 0x40)], 8, [⟨0, 1, .ro, 0⟩, ⟨1, 1, .ro, 0⟩, ⟨8, 8, .ro, 0⟩]⟩,
    ⟨0x43090008, [(4, 0x40)], 8, [⟨0, 64, .ro, 0⟩]⟩,
    ⟨0x43090010, [(4, 0x40)], 8, [⟨0, 1, .wo, 0⟩, ⟨1, 1, .wo, 0⟩]⟩,
    ⟨0x43090018, [(4, 0x40)], 8, [⟨0, 32, .ro, 0⟩]⟩,
    ⟨0x43090100, [], 8, [⟨0, 4, .w1c, 0⟩]⟩,
    ⟨0x43090108, [], 8, [⟨0, 4, .rw, 0⟩]⟩ ]

/-- The registers of R486. -/
def regRowsR486 : List RegRow :=
  [ ⟨0x40000000, [], 8, [⟨0, 16, .ro, 114⟩, ⟨16, 8, .ro, 176⟩]⟩,
    ⟨0x40000008, [], 8, [⟨0, 2, .ro, 0⟩, ⟨2, 2, .ro, 0⟩, ⟨4, 2, .rw, 0⟩, ⟨8, 10, .rw, 0⟩, ⟨32, 10, .ro, 0⟩, ⟨42, 10, .ro, 0⟩]⟩,
    ⟨0x40000010, [], 8, [⟨0, 2, .ro, 0⟩]⟩,
    ⟨0x40000018, [], 8, [⟨0, 3, .ro, 0⟩, ⟨4, 3, .ro, 0⟩, ⟨8, 3, .ro, 0⟩, ⟨12, 3, .ro, 0⟩, ⟨16, 3, .ro, 0⟩, ⟨20, 3, .ro, 0⟩, ⟨24, 3, .ro, 0⟩, ⟨28, 3, .ro, 0⟩]⟩,
    ⟨0x40000020, [], 8, [⟨0, 12, .ro, 0⟩, ⟨16, 12, .ro, 0⟩, ⟨31, 1, .ro, 0⟩]⟩,
    ⟨0x40002000, [(2, 0x1000)], 8, [⟨0, 2, .rw, 0⟩]⟩,
    ⟨0x40002008, [(2, 0x1000)], 8, [⟨0, 8, .rw, 0⟩]⟩,
    ⟨0x40002010, [(2, 0x1000)], 8, [⟨0, 16, .wo, 0⟩, ⟨16, 1, .wo, 0⟩, ⟨31, 1, .wo, 0⟩]⟩,
    ⟨0x40002018, [(2, 0x1000)], 8, [⟨0, 8, .ro, 0⟩, ⟨8, 1, .ro, 0⟩]⟩,
    ⟨0x40002020, [(2, 0x1000)], 8, [⟨0, 12, .rw, 2400⟩, ⟨16, 12, .rw, 2400⟩]⟩,
    ⟨0x40002100, [(8, 0x8)], 8, [⟨0, 2, .rw, 0⟩, ⟨8, 2, .ro, 0⟩]⟩ ]

/-- The registers of R487. -/
def regRowsR487 : List RegRow :=
  [ ⟨0x40010000, [], 8, [⟨0, 1, .rw, 1⟩, ⟨1, 1, .rw, 1⟩, ⟨2, 1, .rw, 1⟩, ⟨3, 1, .rw, 1⟩, ⟨4, 1, .rw, 1⟩, ⟨5, 1, .rw, 0⟩, ⟨6, 1, .rw, 1⟩, ⟨16, 16, .rw, 0⟩]⟩,
    ⟨0x40010008, [], 8, [⟨0, 7, .w1c, 0⟩, ⟨8, 3, .ro, 0⟩, ⟨11, 5, .ro, 0⟩, ⟨16, 4, .ro, 0⟩]⟩,
    ⟨0x40010010, [], 8, [⟨0, 1, .wo, 0⟩]⟩ ]

/-- The registers of R488. -/
def regRowsR488 : List RegRow :=
  [ ⟨0x40020000, [], 8, [⟨0, 2, .ro, 0⟩, ⟨2, 2, .ro, 0⟩, ⟨4, 1, .ro, 0⟩, ⟨5, 1, .ro, 0⟩, ⟨6, 1, .ro, 0⟩, ⟨16, 16, .ro, 0⟩]⟩,
    ⟨0x40020008, [], 8, [⟨0, 16, .ro, 0⟩, ⟨16, 16, .ro, 0⟩, ⟨32, 16, .ro, 0⟩]⟩,
    ⟨0x40020010, [], 8, [⟨0, 32, .ro, 0⟩, ⟨32, 32, .ro, 0⟩]⟩,
    ⟨0x40022000, [(2, 0x1000)], 8, [⟨0, 1, .w1c, 0⟩, ⟨1, 1, .w1c, 0⟩, ⟨2, 1, .w1c, 0⟩, ⟨3, 1, .w1c, 0⟩]⟩,
    ⟨0x40022008, [(2, 0x1000)], 8, [⟨0, 4, .rw, 0⟩]⟩,
    ⟨0x40022010, [(2, 0x1000)], 8, [⟨0, 4, .rw, 0⟩, ⟨4, 3, .rw, 0⟩, ⟨7, 1, .rw, 0⟩, ⟨8, 11, .rw, 0⟩]⟩ ]

/-- The registers of R489. -/
def regRowsR489 : List RegRow :=
  [ ⟨0x40030000, [], 8, [⟨0, 64, .ro, 0⟩]⟩,
    ⟨0x40030008, [], 8, [⟨0, 1, .ro, 0⟩, ⟨1, 1, .ro, 0⟩, ⟨2, 1, .ro, 0⟩]⟩,
    ⟨0x40030010, [], 8, [⟨0, 48, .rw, 0x773594000000⟩]⟩,
    ⟨0x40030018, [], 8, [⟨0, 64, .rw, 0⟩]⟩,
    ⟨0x40030020, [], 8, [⟨0, 1, .rw, 0⟩, ⟨1, 1, .rw, 1⟩]⟩,
    ⟨0x40030028, [], 8, [⟨0, 1, .w1c, 0⟩]⟩,
    ⟨0x40030030, [], 8, [⟨0, 1, .rw, 0⟩]⟩ ]

/-- The registers of R515. -/
def regRowsR515 : List RegRow :=
  [ ⟨0x4300F000, [(8, 0x10000), (96, 0x4)], 4, [⟨0, 32, .rw, 0⟩]⟩,
    ⟨0x4403F000, [(64, 0x4)], 4, [⟨0, 32, .rw, 0⟩]⟩,
    ⟨0x4510F000, [(19, 0x10000), (32, 0x4)], 4, [⟨0, 32, .rw, 0⟩]⟩,
    ⟨0x4300F800, [(8, 0x10000), (2, 0x8)], 8, [⟨0, 64, .rw, 0⟩]⟩,
    ⟨0x4403F800, [(2, 0x8)], 8, [⟨0, 64, .rw, 0⟩]⟩,
    ⟨0x4510F800, [(19, 0x10000), (2, 0x8)], 8, [⟨0, 64, .rw, 0⟩]⟩,
    ⟨0x4300F810, [(8, 0x10000), (2, 0x8)], 8, [⟨0, 64, .rw, 0⟩]⟩,
    ⟨0x4403F810, [(2, 0x8)], 8, [⟨0, 64, .rw, 0⟩]⟩,
    ⟨0x4510F810, [(19, 0x10000), (2, 0x8)], 8, [⟨0, 64, .rw, 0⟩]⟩,
    ⟨0x4300F820, [(8, 0x10000), (2, 0x8)], 8, [⟨0, 64, .w1c, 0⟩]⟩,
    ⟨0x4403F820, [(2, 0x8)], 8, [⟨0, 64, .w1c, 0⟩]⟩,
    ⟨0x4510F820, [(19, 0x10000), (2, 0x8)], 8, [⟨0, 64, .w1c, 0⟩]⟩ ] ++
  [ ⟨0x4300F830, [(8, 0x10000)], 8, [⟨0, 7, .rw, 1⟩]⟩,
    ⟨0x4403F830, [], 8, [⟨0, 7, .rw, 1⟩]⟩,
    ⟨0x4510F830, [(19, 0x10000)], 8, [⟨0, 7, .rw, 1⟩]⟩,
    ⟨0x4300F838, [(8, 0x10000)], 8, [⟨0, 32, .ro, 0⟩, ⟨32, 32, .ro, 0⟩]⟩,
    ⟨0x4403F838, [], 8, [⟨0, 32, .ro, 0⟩, ⟨32, 32, .ro, 0⟩]⟩,
    ⟨0x4510F838, [(19, 0x10000)], 8, [⟨0, 32, .ro, 0⟩, ⟨32, 32, .ro, 0⟩]⟩,
    ⟨0x4300F840, [(8, 0x10000)], 8, [⟨0, 8, .ro, 0⟩]⟩,
    ⟨0x4403F840, [], 8, [⟨0, 8, .ro, 0⟩]⟩,
    ⟨0x4510F840, [(19, 0x10000)], 8, [⟨0, 8, .ro, 0⟩]⟩,
    ⟨0x4403F900, [], 8, [⟨0, 20, .rw, 0⟩, ⟨31, 1, .wo, 0⟩]⟩,
    ⟨0x4403F908, [], 8, [⟨0, 32, .ro, 0⟩]⟩,
    ⟨0x4403FA00, [(11, 0x8)], 8, [⟨0, 64, .ro, 0⟩]⟩ ] ++
  [ ⟨0x4403FB00, [(11, 0x8)], 8, [⟨0, 64, .ro, 0⟩]⟩ ]

/-- The registers of R516. -/
def regRowsR516 : List RegRow :=
  [ ⟨0x46020050, [(64, 0x80)], 8, [⟨0, 16, .rw, 0⟩, ⟨16, 4, .rw, 1⟩]⟩,
    ⟨0x46020058, [(64, 0x80)], 8, [⟨0, 16, .rw, 0⟩]⟩,
    ⟨0x46020060, [(64, 0x80)], 8, [⟨0, 16, .w1c, 0⟩]⟩,
    ⟨0x46020068, [(64, 0x80)], 8, [⟨0, 64, .ro, 0⟩]⟩,
    ⟨0x100000000400, [(64, 0x1000), (16, 0x4)], 4, [⟨0, 32, .ro, 0⟩]⟩ ]

/-- The registers of R517. -/
def regRowsR517 : List RegRow :=
  [ ⟨0x4F010000, [(48, 0x8)], 8, [⟨0, 16, .rw, 0⟩]⟩,
    ⟨0x4F010800, [(48, 0x8)], 8, [⟨0, 16, .rw, 0⟩]⟩,
    ⟨0x4F011000, [], 8, [⟨0, 16, .wo, 0⟩]⟩,
    ⟨0x4F011008, [], 8, [⟨0, 16, .w1c, 0⟩, ⟨32, 32, .ro, 0⟩]⟩ ]

/-- The registers of R518. -/
def regRowsR518 : List RegRow :=
  [ ⟨0x4F000000, [], 8, [⟨0, 1, .ro, 0⟩, ⟨1, 4, .ro, 0⟩, ⟨8, 8, .ro, 0⟩, ⟨16, 8, .ro, 0⟩]⟩,
    ⟨0x4F000008, [], 8, [⟨0, 1, .rw, 1⟩]⟩,
    ⟨0x4F000010, [], 8, [⟨0, 6, .wo, 0⟩, ⟨31, 1, .wo, 0⟩]⟩,
    ⟨0x4F000018, [], 8, [⟨0, 8, .ro, 0⟩, ⟨8, 4, .ro, 0⟩]⟩ ]

/-- The registers of R519. -/
def regRowsR519 : List RegRow :=
  [ ⟨0x430A0000, [(8, 0x40)], 8, [⟨0, 20, .rw, 100000⟩, ⟨20, 1, .rw, 0⟩, ⟨21, 1, .rw, 0⟩]⟩,
    ⟨0x430A0008, [(8, 0x40)], 8, [⟨0, 32, .wo, 0⟩]⟩,
    ⟨0x430A0010, [(8, 0x40)], 8, [⟨0, 20, .ro, 0⟩, ⟨20, 1, .ro, 0⟩]⟩,
    ⟨0x430A0018, [(8, 0x40)], 8, [⟨0, 1, .w1c, 0⟩, ⟨1, 1, .w1c, 0⟩]⟩ ]

/-- The registers of R533. -/
def regRowsR533 : List RegRow :=
  [ ⟨0x47030000, [], 8, [⟨0, 2, .ro, 0⟩, ⟨2, 1, .ro, 0⟩, ⟨3, 2, .ro, 0⟩, ⟨5, 4, .ro, 0⟩, ⟨9, 2, .ro, 3⟩]⟩,
    ⟨0x47030008, [], 8, [⟨0, 2, .rw, 3⟩]⟩,
    ⟨0x47030010, [(2, 0x8)], 8, [⟨0, 1, .ro, 0⟩, ⟨1, 2, .ro, 0⟩, ⟨3, 1, .ro, 0⟩, ⟨4, 1, .ro, 0⟩]⟩,
    ⟨0x47030020, [(2, 0x8)], 8, [⟨0, 64, .ro, 0⟩]⟩,
    ⟨0x47030030, [], 8, [⟨0, 8, .ro, 0⟩, ⟨8, 8, .ro, 0⟩, ⟨16, 8, .ro, 0⟩, ⟨24, 8, .ro, 0⟩]⟩,
    ⟨0x47030040, [], 8, [⟨0, 1, .w1c, 0⟩, ⟨1, 1, .w1c, 0⟩, ⟨2, 1, .w1c, 0⟩, ⟨3, 1, .w1c, 0⟩, ⟨4, 1, .w1c, 0⟩, ⟨5, 1, .w1c, 0⟩, ⟨6, 1, .w1c, 0⟩]⟩,
    ⟨0x47030048, [], 8, [⟨0, 7, .rw, 0⟩]⟩,
    ⟨0x47030080, [(4, 0x8)], 8, [⟨0, 64, .wo, 0⟩]⟩,
    ⟨0x470300A0, [], 8, [⟨0, 1, .wo, 0⟩, ⟨8, 8, .ro, 0⟩]⟩,
    ⟨0x47031000, [(64, 0x10)], 8, [⟨0, 1, .rw, 0⟩, ⟨1, 1, .rw, 0⟩, ⟨2, 1, .rw, 0⟩, ⟨3, 2, .rw, 0⟩, ⟨5, 3, .rw, 0⟩, ⟨8, 4, .rw, 0⟩, ⟨12, 3, .rw, 0⟩, ⟨15, 4, .rw, 0⟩, ⟨32, 12, .rw, 0⟩, ⟨44, 12, .rw, 0⟩]⟩,
    ⟨0x47031008, [(64, 0x10)], 8, [⟨0, 10, .ro, 0⟩, ⟨16, 8, .ro, 0⟩, ⟨32, 32, .ro, 0⟩]⟩,
    ⟨0x47032000, [(4, 0x100), (8, 0x4)], 4, [⟨0, 32, .rw, 0⟩]⟩ ] ++
  [ ⟨0x47032040, [(4, 0x100), (8, 0x4)], 4, [⟨0, 32, .ro, 0⟩]⟩,
    ⟨0x47032020, [(4, 0x100)], 4, [⟨0, 1, .wo, 0⟩, ⟨16, 16, .wo, 0⟩]⟩,
    ⟨0x47032024, [(4, 0x100)], 4, [⟨0, 8, .ro, 0⟩, ⟨8, 1, .ro, 0⟩, ⟨16, 16, .ro, 1⟩]⟩,
    ⟨0x47032060, [(4, 0x100)], 4, [⟨0, 16, .ro, 0⟩, ⟨16, 1, .ro, 0⟩]⟩,
    ⟨0x47032064, [(4, 0x100)], 4, [⟨0, 16, .wo, 0⟩]⟩ ]

/-- The registers of R299. -/
def regRowsR299 : List RegRow :=
  [ ⟨0x43000010, [(8, 0x10000)], 8, [⟨0, 1, .rw, 0⟩, ⟨8, 8, .ro, 0⟩]⟩ ]

/-- The registers of R320. -/
def regRowsR320 : List RegRow :=
  [ ⟨0x43000018, [(8, 0x10000)], 8, [⟨0, 64, .rw, 0xFFFFFFFFFFFFFFFF⟩]⟩ ]

/-- The registers of R215. -/
def regRowsR215 : List RegRow :=
  [ ⟨0x4602F000, [(64, 0x40), (16, 0x4)], 4, [⟨0, 32, .rw, 0⟩]⟩ ]

/-- Every register of the device. -/
def regRows : List RegRow :=
  regRowsR67 ++ regRowsR68 ++ regRowsR111 ++ regRowsR112 ++ regRowsR113 ++ regRowsR114 ++ regRowsR154 ++ regRowsR155 ++ regRowsR156 ++ regRowsR192 ++ regRowsR193 ++ regRowsR194 ++ regRowsR195 ++ regRowsR212 ++ regRowsR213 ++ regRowsR214 ++ regRowsR247 ++ regRowsR249 ++ regRowsR250 ++ regRowsR251 ++ regRowsR269 ++ regRowsR271 ++ regRowsR295 ++ regRowsR296 ++ regRowsR316 ++ regRowsR345 ++ regRowsR346 ++ regRowsR402 ++ regRowsR403 ++ regRowsR404 ++ regRowsR405 ++ regRowsR434 ++ regRowsR435 ++ regRowsR436 ++ regRowsR437 ++ regRowsR438 ++ regRowsR459 ++ regRowsR460 ++ regRowsR461 ++ regRowsR486 ++ regRowsR487 ++ regRowsR488 ++ regRowsR489 ++ regRowsR515 ++ regRowsR516 ++ regRowsR517 ++ regRowsR518 ++ regRowsR519 ++ regRowsR533 ++ regRowsR299 ++ regRowsR320 ++ regRowsR215

/-- A register array whose fields do not all reset to zero: base, indices, reset value of the whole register. -/
structure ResetRow where
  base : Nat
  dims : List (Nat × Nat)
  value : Nat
  deriving DecidableEq, Repr

/-- The registers whose reset value is not zero (R9). -/
def resetRows : List ResetRow :=
  [ ⟨0x42000200, [], 0x250000⟩,
    ⟨0x42000208, [], 0x250001⟩,
    ⟨0x42000210, [], 0x250002⟩,
    ⟨0x42000218, [], 0x250003⟩,
    ⟨0x42004008, [(4, 0x100)], 0x40000000000⟩,
    ⟨0x42004048, [(4, 0x100)], 0x8003200002710⟩,
    ⟨0x42008100, [(4, 0x40)], 0xA0436AFEF8F8F6⟩,
    ⟨0x42008108, [(4, 0x40)], 0x330000FD⟩,
    ⟨0x42010000, [(16, 0x40)], 0x100⟩,
    ⟨0x42010010, [(16, 0x40)], 0x3B9ACA00⟩,
    ⟨0x42010018, [(16, 0x40)], 0x2710⟩,
    ⟨0x42020100, [], 0xAA⟩,
    ⟨0x42020108, [], 0x5A⟩,
    ⟨0x42020110, [], 0x50⟩,
    ⟨0x42020118, [], 0x32⟩,
    ⟨0x42020120, [], 0x50⟩ ] ++
  [ ⟨0x42020128, [], 0x64⟩,
    ⟨0x42020130, [], 0x64⟩,
    ⟨0x42020138, [], 0x64⟩,
    ⟨0x42020140, [], 0x64⟩,
    ⟨0x42020148, [], 0x64⟩,
    ⟨0x42020150, [], 0x64⟩,
    ⟨0x42020158, [], 0x64⟩,
    ⟨0x42020160, [], 0x64⟩,
    ⟨0x42020168, [], 0x258⟩,
    ⟨0x42020170, [], 0x384⟩,
    ⟨0x42022010, [(2, 0x1000)], 0x8⟩,
    ⟨0x42024018, [(64, 0x40)], 0x8⟩,
    ⟨0x46000000, [], 0xA00⟩,
    ⟨0x46004010, [(64, 0x200), (8, 0x40)], 0x1888⟩,
    ⟨0x46020018, [(64, 0x80)], 0x10100⟩,
    ⟨0x46020020, [(64, 0x80)], 0x1⟩ ] ++
  [ ⟨0x100000000084, [(64, 0x1000)], 0x1000000⟩,
    ⟨0x100000000224, [(64, 0x1000)], 0x10000⟩,
    ⟨0x46030024, [(64, 0x80)], 0x10000⟩,
    ⟨0x45100000, [(19, 0x10000)], 0x5F200080010⟩,
    ⟨0x45100008, [(19, 0x10000)], 0x1⟩,
    ⟨0x45100010, [(19, 0x10000)], 0xFAC681⟩,
    ⟨0x45100030, [(19, 0x10000)], 0xC⟩,
    ⟨0x45100040, [(19, 0x10000), (8, 0x8)], 0x60000000⟩,
    ⟨0x45100080, [(19, 0x10000)], 0x100⟩,
    ⟨0x45100100, [(19, 0x10000)], 0x100⟩,
    ⟨0x45100110, [(19, 0x10000)], 0xF4240⟩,
    ⟨0x45000000, [], 0x12C0001⟩,
    ⟨0x45000008, [], 0x4D00⟩,
    ⟨0x45001008, [(16, 0x40)], 0x8⟩,
    ⟨0x45002000, [(256, 0x8)], 0x1⟩,
    ⟨0x45003008, [(64, 0x20)], 0x6402000000⟩ ] ++
  [ ⟨0x45010000, [], 0x9⟩,
    ⟨0x45020000, [(2, 0x10000)], 0x84⟩,
    ⟨0x45020018, [(2, 0x10000)], 0x8⟩,
    ⟨0x46100008, [(8, 0x10000)], 0x1F4⟩,
    ⟨0x47020000, [], 0x3E80000⟩,
    ⟨0x47020010, [], 0xC00000001⟩,
    ⟨0x47020048, [], 0xFFFFFFFFFFFFFFFF⟩,
    ⟨0x47020078, [], 0x3E80064⟩,
    ⟨0x43000000, [(8, 0x10000)], 0x300⟩,
    ⟨0x44040000, [], 0x68⟩,
    ⟨0x44040008, [], 0x400040⟩,
    ⟨0x44000008, [], 0x18⟩,
    ⟨0x44010008, [], 0xF00⟩,
    ⟨0x44030000, [], 0x1⟩,
    ⟨0x44030100, [], 0x20101010080018⟩,
    ⟨0x41040000, [], 0x64⟩ ] ++
  [ ⟨0x41050000, [], 0x1400C800C8⟩,
    ⟨0x41050018, [(2, 0x10)], 0x1⟩,
    ⟨0x43080000, [(2, 0x100)], 0x800⟩,
    ⟨0x43081000, [(64, 0x8)], 0xF⟩,
    ⟨0x40000000, [], 0xB00072⟩,
    ⟨0x40002020, [(2, 0x1000)], 0x9600960⟩,
    ⟨0x40010000, [], 0x5F⟩,
    ⟨0x40030010, [], 0x773594000000⟩,
    ⟨0x40030020, [], 0x2⟩,
    ⟨0x4300F830, [(8, 0x10000)], 0x1⟩,
    ⟨0x4403F830, [], 0x1⟩,
    ⟨0x4510F830, [(19, 0x10000)], 0x1⟩,
    ⟨0x4300F840, [(8, 0x10000)], 0x60⟩,
    ⟨0x4403F840, [], 0x40⟩,
    ⟨0x4510F840, [(19, 0x10000)], 0x20⟩,
    ⟨0x46020050, [(64, 0x80)], 0x10000⟩ ] ++
  [ ⟨0x4F000008, [], 0x1⟩,
    ⟨0x430A0000, [(8, 0x40)], 0x186A0⟩,
    ⟨0x47030000, [], 0x600⟩,
    ⟨0x47030008, [], 0x3⟩,
    ⟨0x43000018, [(8, 0x10000)], 0xFFFFFFFFFFFFFFFF⟩,
    ⟨0x47032024, [(4, 0x100)], 0x10000⟩ ]

/-- Whether an offset from the base of an array is the offset of one of its registers. -/
def inDims : Nat → List (Nat × Nat) → Bool
  | off, [] => off == 0
  | off, (c, st) :: ds => decide (off / st < c) && inDims (off % st) ds

/-- Whether address `a` is a register of the array at `base`. -/
def inArray (a base : Nat) (dims : List (Nat × Nat)) : Bool := decide (base ≤ a) && inDims (a - base) dims

/-- The row of the register at address `a`, if there is one. -/
def regRowAt (a : Nat) : Option RegRow := regRows.find? (fun r => inArray a r.base r.dims)

/-- The reset value of the register at address `a`; an address with no register reads as zero (R12). -/
def resetVal (a : Nat) : Word :=
  match resetRows.find? (fun r => inArray a r.base r.dims) with
  | some r => BitVec.ofNat 64 r.value
  | none => 0

end Sys2Proof.Machine
end

