-- ==== Sys2Proof/Machine/Tab.lean ====
section
/-! DEFINITION. Tables: the one form in which the model holds anything that is addressed by a number
(bytes of memory, registers by their address, entries by their index).
A table is a list of keys and values, keys strictly rising, and no listed value equals what an
unlisted key reads as, so equal tables are equal lists. -/

namespace Sys2Proof.Machine

/-- A table from natural numbers to `α`, in canonical form. -/
abbrev Tab (α : Type) := List (Nat × α)

/-- What key `k` reads as: its listed value, or `d k`. -/
def tabGet {α : Type} (d : Nat → α) : Tab α → Nat → α
  | [], k => d k
  | (j, v) :: t, k => if j = k then v else tabGet d t k

/-- The table without key `k`. -/
def tabDel {α : Type} : Tab α → Nat → Tab α
  | [], _ => []
  | (j, v) :: t, k => if j = k then tabDel t k else (j, v) :: tabDel t k

/-- The table with `v` at key `k`, listed in its place. -/
def tabIns {α : Type} : Tab α → Nat → α → Tab α
  | [], k, v => [(k, v)]
  | (j, w) :: t, k, v =>
    if j = k then (k, v) :: t else if k < j then (k, v) :: (j, w) :: t else (j, w) :: tabIns t k v

/-- Write `v` at key `k`; writing what an unlisted key reads as removes the entry. -/
def tabSet {α : Type} [DecidableEq α] (d : Nat → α) (t : Tab α) (k : Nat) (v : α) : Tab α :=
  if v = d k then tabDel t k else tabIns t k v

/-- Every listed key is above `b` and the keys rise strictly. -/
def tabAbove {α : Type} : Nat → Tab α → Bool
  | _, [] => true
  | b, (j, _) :: t => decide (b < j) && tabAbove j t

/-- The canonical form: keys strictly rising, no listed value equal to what its key would read unlisted. -/
def tabWf {α : Type} [DecidableEq α] (d : Nat → α) (t : Tab α) : Bool :=
  (match t with
   | [] => true
   | (j, _) :: r => tabAbove j r) && t.all (fun e => decide (e.2 ≠ d e.1))

/-- The table without the keys in `[lo, hi)`. -/
def tabDrop {α : Type} (t : Tab α) (lo hi : Nat) : Tab α := t.filter (fun e => e.1 < lo || hi ≤ e.1)

end Sys2Proof.Machine
end

