-- ==== Sys2Proof/Machine/State.lean ====
section
/-! DEFINITION. The state of the module as plain data: every piece of state the specification names. -/

namespace Sys2Proof.Machine

open Sys2Proof

/-! ### Fuses, flash and boot (02_firing_image_and_boot.md) -/

/-- An entry of the burn record (R64). -/
structure BurnEntry where
  vt : Nat
  tag : Nat
  cone : Nat
  step : Nat
  ledgered : Bool
  recovered : Bool
  deriving DecidableEq, Repr

/-- The cone fuse array (R62 to R64): one-time fuses, never reset. -/
structure FuseSt where
  /-- Steps burnt of cones 0 to 4. -/
  steps : Tab Nat
  /-- The enables stored with each step of the world debug cone, oldest first (R62). -/
  dbg : List Nat
  /-- The fused key hash, byte 0 least significant (R58). -/
  keyHash : Nat
  /-- The burn record, entry 0 first. -/
  record : List BurnEntry
  /-- The port key of the key store (R522), in non-volatile storage. -/
  portKey : Nat
  deriving DecidableEq, Repr

/-- What a burn in progress is for. -/
inductive BurnFor where
  /-- A write of `CONE_BURN`. -/
  | software
  /-- One step of `FIRE_CTL.COMMIT` (R61). -/
  | commit
  /-- A watermark change (R411). -/
  | watermark
  /-- A port key replacement (R522). -/
  | portKey (key : Nat)
  deriving DecidableEq, Repr

/-- A burn in progress (R63). -/
structure Burn where
  cone : Nat
  value : Nat
  src : BurnFor
  deriving DecidableEq, Repr

/-- A section of the running image: TYPE, and its contents (R48, R51). -/
structure Section where
  typ : Nat
  data : List Byte
  deriving DecidableEq, Repr

/-- A control block write in progress (R54). -/
structure CbWrite where
  /-- Copy written, 0 or 1. -/
  copy : Nat
  seq : Nat
  active : Nat
  trial : Nat
  tries : Nat
  /-- Written by `FIRE_CTL.COMMIT`, which then sets COMMITTED. -/
  commit : Bool
  deriving DecidableEq, Repr

/-- A flash command in progress (R68): OP, ADDR, DATA. -/
structure FlashCmd where
  op : Nat
  addr : Nat
  data : Nat
  deriving DecidableEq, Repr

/-- The commands of `FIRE_CTL` (R68). -/
inductive FireOp where
  | commit | trialArm (tries : Nat) | nwrel | reboot
  deriving DecidableEq, Repr

/-- Boot and flash, apart from registers. -/
structure BootSt where
  fuses : FuseSt
  burn : Option Burn
  /-- The 64 MiB boot flash by byte offset; unlisted bytes read `0xFF` (R53). -/
  flash : Tab Byte
  flashCmd : Option FlashCmd
  cbWrite : Option CbWrite
  /-- The sections of the running image. -/
  sections : List Section
  /-- An image runs. -/
  imageRunning : Bool
  /-- The unfired state (R56). -/
  unfired : Bool
  /-- The slot that last booted, for the wake from Sleep (R59). -/
  lastSlot : Nat
  lastTrial : Bool
  /-- The boot in progress is a wake from Sleep. -/
  wakeBoot : Bool
  /-- A boot is in progress: the boot ROM may run BOOT_ROM_IMAGE_SELECT. -/
  booting : Bool
  /-- Slots of R55's order still to be tried; none before the boot ROM has chosen the order. -/
  order : Option (List Nat)
  /-- The slot tried is on trial when it is the first of the order. -/
  orderTrial : Bool
  /-- BISQUE_APPLY has run in this boot. -/
  bisqued : Bool
  /-- DRAM training has completed in this boot (R60). -/
  trained : Bool
  /-- A chip reset or REBOOT waits for a burn and the ledger: BOOT cause (R66). -/
  resetWait : Option Nat
  /-- The stamp of the load of domain 0 at this cold boot (R86, R101, R254). -/
  load : Stamp
  /-- Commands of the present `FIRE_CTL` write not yet begun (R68). -/
  ctlQueue : List FireOp
  /-- The statuses of those that have completed. -/
  ctlDone : List Status
  /-- A COMMIT or TRIAL_ARM runs: its burns or its control block write are not complete (R61). -/
  ctlBusy : Bool
  deriving DecidableEq, Repr

/-! ### Vehicle time (03_vehicle_time.md) -/

/-- A jump that has been accepted and takes effect at the following tick (R78). -/
structure Jump where
  /-- The time to set, in units of 2^-40 ns; none for a jump by `delta`. -/
  set : Option Nat
  /-- The signed offset of a jump by an offset, unit 2^-40 ns. -/
  delta : Int
  /-- CAUSE of `VT_LASTJ_INFO`: 0 software step, 1 software set, 2 servo. -/
  cause : Nat
  deriving DecidableEq, Repr

/-- One time domain (R73, R74). -/
structure DomSt where
  /-- The accumulator: ns with 40 fraction bits (R74). -/
  acc : Nat
  /-- The part of a slew not yet taken up, signed, unit 2^-40 ns (R78). -/
  slew : Int
  /-- SLEW_PPM of the slew in progress. -/
  slewPpm : Nat
  /-- Jumps accepted and not yet in effect, oldest first (R78, R81). -/
  jumps : List Jump
  /-- The last jump is still being delivered to its consumers (R81). -/
  delivering : Bool
  /-- Consecutive Syncs counted toward LOCK_COUNT (R85). -/
  syncRun : Nat
  /-- MASTER was left for ACQUIRING and no Sync has been handled since (R85). -/
  fromMaster : Bool
  /-- LOCKED since boot (R85). -/
  everLocked : Bool
  /-- The rate words after the latest Syncs, newest first, at most 16 (R85). -/
  rates : List Nat
  /-- BMCA or external configuration has made this system the grandmaster of the domain (R85, R93). -/
  isGm : Bool
  /-- lastGmPhaseChange of the follow-up information TLV, unit 2^-16 ns (R88). -/
  gmPhase : Int
  /-- The stamp (unit 2^-16 ns) and port of a two-step Sync that waits for its Follow_Up (R99). -/
  sync : Option (Nat × Nat)
  /-- Origin time (ns), correction and ingress stamp (unit 2^-16 ns) of the last Sync on the slave port, for relaying (R99). -/
  lastRx : Option (Nat × Int × Nat)
  /-- The offset of the domain from domain 0 recorded in always-on storage, in ns (R100). -/
  aotOffset : Option Int
  deriving DecidableEq, Repr

/-- A domain before the vehicle time unit has been loaded. -/
def DomSt.init : DomSt := ⟨0, 0, 0, [], false, 0, false, false, [], false, 0, none, none, none⟩

/-- An entry of a capture pin's FIFO (R108). -/
structure CapEntry where
  stamp : Stamp
  rise : Bool
  /-- Stamps were lost before this one. -/
  lost : Bool
  deriving DecidableEq, Repr

/-- One time pin (R103 to R109). -/
structure PinSt where
  /-- The active level is driven (R104). -/
  active : Bool
  /-- The wheel entry whose pulse is active on the pin, if any (R106). -/
  pulse : Option Nat
  /-- The FIFO of stamps, oldest first, at most 16 (R108). -/
  fifo : List CapEntry
  /-- A stamp was discarded and the next stored entry carries LOST (R108). -/
  lostMark : Bool
  /-- The compact VT of the next activation of the generator (R107). -/
  genNext : Nat
  /-- The width, in ns, of the activation that is active (R107). -/
  genWidth : Nat
  /-- Instant of the last edge seen, in half nanoseconds of `State.ticks` (R108). -/
  lastEdge : Option Nat
  deriving DecidableEq, Repr

/-- A pin with no source active and an empty FIFO. -/
def PinSt.init : PinSt := ⟨false, none, [], false, 0, 0, none⟩

/-- A gPTP message as a port sends it (R95, R99). -/
inductive GptpSent where
  /-- Sync or, two-step, its Follow_Up: domain number, origin time (ns), correction (unit 2^-16 ns), gmTimeBaseIndicator
  and lastGmPhaseChange (unit 2^-16 ns), one-step. -/
  | sync (dn origin : Nat) (corr : Int) (tbi : Nat) (phase : Int) (oneStep : Bool)
  /-- Announce: domain number, vector, currentUtcOffset and timeSource. -/
  | announce (dn : Nat) (v : PrioVec) (utc source : Nat)
  /-- Pdelay_Req with its egress stamp (unit 2^-16 ns). -/
  | pdelayReq (t1 : Nat)
  /-- Pdelay_Resp with the ingress stamp of the request (unit 2^-16 ns). -/
  | pdelayResp (t2 : Nat)
  deriving DecidableEq, Repr

/-- The vehicle time unit, gPTP and the time pins, apart from their registers. -/
structure TimeSt where
  /-- The four time domains (R73). -/
  doms : Tab DomSt
  /-- The best Announce held per port and domain, keyed by 4 * port + domain (R93). -/
  announce : Tab (Option PrioVec)
  /-- Instants of the last Pdelay_Req sent per port, unit 2^-16 ns (R95). -/
  pdReq : Tab (Option Nat)
  /-- Turnaround stamps (t1, t4, t2, t3) of the last peer exchange per port, for the rate ratio (R95). -/
  pdLast : Tab (Option (Nat × Nat))
  /-- Log intervals a partner has asked for, keyed by 3 * (4 * port + domain) + (0 Sync, 1 Announce, 2 Pdelay) (R95). -/
  intv : Tab (Option Nat)
  /-- The last gPTP message each port has sent. -/
  sent : Tab (Option GptpSent)
  /-- The sixteen time pins. -/
  pins : Tab PinSt
  deriving DecidableEq, Repr

/-! ### Time wheel (04_time_wheel.md) -/

/-- The states of a wheel entry (R120, R123). -/
inductive EState where
  | free | armed | imminent | fired | done | aborted
  deriving DecidableEq, Repr

/-- A wheel entry (R120) with what the wheel keeps beside its 32 bytes. -/
structure WEntry where
  time : Nat
  arg0 : Nat
  addr : Nat
  action : Nat
  notify : Bool
  sz : Bool
  ledger : Bool
  sel : Nat
  sub : Nat
  state : EState
  late : Bool
  coarse : Bool
  /-- The owner's world (WORLD: 0 secure, 1 normal). -/
  world : World
  /-- The slice charged (OWNKIND 1), or none for a world pool. -/
  slice : Option Nat
  /-- The arming hart, 15 for the capture engine. -/
  hart : Nat
  gen : Nat
  /-- The order of acceptance (R127, R129). -/
  seq : Nat
  /-- A reservation of a cluster in epoch mode, not yet released by a commit (R153). -/
  reserved : Option Nat
  /-- Status, MISSED, completion VT, QUAL and DSEQ of the entry once it is DONE or ABORTED (R125). -/
  status : Status
  missed : Bool
  doneVt : Nat
  doneQual : Nat
  doneDseq : Nat
  /-- Compact VT of the tick on which the action was issued (R132). -/
  issueVt : Nat
  deriving DecidableEq, Repr

/-- An entry that has never been used: FREE, generation 1. -/
def WEntry.init : WEntry :=
  ⟨0, 0, 0, 0, false, false, false, 0, 0, .free, false, false, .secure, none, 0, 1, 0, none, .ok, false, 0, 0, 0, 0⟩

/-- The time wheel, apart from its registers. -/
structure WheelSt where
  /-- The 65,536 entries by index (R115). -/
  entries : Tab WEntry
  /-- Indices that are not FREE, in order of acceptance. -/
  live : List Nat
  /-- How many indices of each partition have ever been allocated, secure then normal. -/
  freshS : Nat
  freshN : Nat
  /-- Indices of each partition that have been freed, the one freed longest ago first (R119). -/
  freedS : List Nat
  freedN : List Nat
  /-- The number the next accepted entry takes. -/
  nextSeq : Nat
  /-- The snapshot of the inspected entry (R154). -/
  insp : Nat
  /-- The tick of the latest firing, and the handles of the entries fired on it (R145). -/
  firedTick : Nat
  fired : List Nat
  deriving DecidableEq, Repr

/-! ### Stream table, capture engine and slices (05, 06) -/

/-- The context of a frame being assembled (R169, R174 to R183). -/
structure FrameCtx where
  /-- Stream table index. -/
  stream : Nat
  slice : Nat
  ring : Nat
  /-- The 256 bits of the entry its first unit hit (R169). -/
  entry : Nat
  stamp : Stamp
  /-- Address of the buffer being filled, and the bytes written to it. -/
  buf : Nat
  len : Nat
  /-- Bytes of the whole frame so far. -/
  total : Nat
  /-- The buffer being filled is the frame's first. -/
  first : Bool
  /-- FAULT[3:0] so far (R180). -/
  fault : Nat
  /-- SRCINFO (R180). -/
  srcinfo : Nat
  /-- Datagrams so far (UDP_GROUP). -/
  units : Nat
  /-- The rest of the frame is discarded: not admitted (R179), truncated, XLATE. -/
  discard : Bool
  deriving DecidableEq, Repr

/-- A descriptor that waits to be written (R180, R181). -/
structure PendDesc where
  stream : Nat
  slice : Nat
  ring : Nat
  entry : Nat
  stamp : Stamp
  buf : Nat
  len : Nat
  /-- Bytes of the whole frame, for the capture record. -/
  total : Nat
  first : Bool
  last : Bool
  fault : Nat
  srcinfo : Nat
  deriving DecidableEq, Repr

/-- An entry of the miss queue (R163). -/
structure Miss where
  kind : Nat
  key : Nat
  /-- The steered slice; none when unsteered. -/
  slice : Option Nat
  deriving DecidableEq, Repr

/-- The stream table and the capture engine, apart from registers. -/
structure CapSt where
  /-- The entries of the stream table as 256-bit numbers (R165), by index. -/
  stt : Tab Nat
  /-- Open frames (R169). -/
  ctx : List FrameCtx
  /-- Descriptors not yet written, oldest first. -/
  descs : List PendDesc
  /-- The miss queue, oldest first, at most 16 (R163). -/
  missq : List Miss
  /-- Outcome (status, index, new GEN) of the command in progress on update ports 0 to 3 and of the preset, 4 (R168). -/
  upd : Tab (Option (Nat × Nat × Nat))
  /-- Handle of the pending coupled EXPECT per stream; 0 for none (R187). -/
  dl : Tab Nat
  /-- PHASE is inverted on a ring's present pass, keyed by 8 * slice + ring (R180). -/
  phase : Tab Bool
  /-- Bytes written per slice and not yet counted in a 64-byte unit (R215). -/
  rest : Tab Nat
  deriving DecidableEq, Repr

/-- Nothing in the stream table, no frame open. -/
def CapSt.init : CapSt := ⟨[], [], [], [], [], [], [], []⟩

/-- A capture slice (R196 to R207), apart from its registers. -/
structure SliceSt where
  /-- The binding in force: world, VMID, ASID, ASIDANY (R196). -/
  key : Option (World × Nat × Nat × Bool)
  /-- RESETTING ends in FREE (UNBIND), not BOUND (RESET) (R198). -/
  unbind : Bool
  /-- Descriptors of each ring posted since its COMPL bit was last set (R205). -/
  mod : Tab Nat
  deriving DecidableEq, Repr

/-- A FREE slice. -/
def SliceSt.init : SliceSt := ⟨none, false, []⟩

/-! ### Switch, camera back channels and CAN (07) -/

/-- An entry of the forwarding database (R219). -/
structure FdbEntry where
  mac : Nat
  vid : Nat
  ports : Nat
  static : Bool
  /-- Clock at which the address was last seen. -/
  seen : Nat
  deriving DecidableEq, Repr

/-- Where the descriptor of a frame lies: ring (8 and 9 the transmit rings of CAN0 and CAN1) and I/O virtual address (R233). -/
structure InjRef where
  ring : Nat
  addr : Nat
  /-- The descriptor as taken. -/
  desc : Nat
  deriving DecidableEq, Repr

/-- A frame in an egress queue: from destination MAC, without FCS. -/
structure QFrame where
  bytes : List Byte
  /-- Length from destination MAC to FCS. -/
  len : Nat
  inj : Option InjRef
  /-- Cut-through, and the FCS is to be inverted (R224). -/
  stomp : Bool
  /-- Its cells are charged to the shared pool, not to the reserve of the port (R225). -/
  shared : Bool
  /-- Clock at which it became the head of its queue. -/
  since : Nat
  deriving DecidableEq, Repr

/-- A parked frame (R235). -/
structure Parked where
  port : Nat
  queue : Nat
  tag : Nat
  frame : QFrame
  deriving DecidableEq, Repr

/-- A frame released by a LAUNCH that waits for its port (R236): the wheel entry and the tick of the release. -/
structure Released where
  parked : Parked
  entry : Nat
  tick : Nat
  deriving DecidableEq, Repr

/-- A frame in transmission. -/
structure TxFrame where
  frame : QFrame
  queue : Nat
  /-- Stamp of the first bit (R98). -/
  stamp : Stamp
  /-- The wheel entry of a launched frame. -/
  entry : Option Nat
  deriving DecidableEq, Repr

/-- A completion of an injection or CAN transmit descriptor not yet written back (R233). -/
structure InjDone where
  ref : InjRef
  status : Status
  unparked : Bool
  stamp : Option Stamp
  deriving DecidableEq, Repr

/-- The gate control list of a port (R226, R227); its entries are in registers. -/
structure GclSt where
  dom : Nat
  base : Nat
  cycle : Nat
  len : Nat
  /-- A pending change: change time, EXT, and dom, base, cycle, len to come. -/
  pend : Option (Nat × Nat × Nat × Nat × Nat × Nat)
  deriving DecidableEq, Repr

/-- The list as at reset (R247). -/
def GclSt.init : GclSt := ⟨0, 0, 1000000, 1, none⟩

/-- The buckets of a flow meter, in units of 1/250000 bit so that a rate in kb/s adds `rate` units a clock. -/
structure MeterSt where
  c : Nat
  e : Nat
  last : Nat
  deriving DecidableEq, Repr

/-- A replication and elimination function (R232). -/
structure FrerSt where
  /-- Next sequence number generated. -/
  gen : Nat
  /-- Newest number received; none after a reset ("take any"). -/
  recov : Option Nat
  /-- Bit `i`: number `recov - i` was received. -/
  hist : Nat
  deriving DecidableEq, Repr

/-- A function before its first frame. -/
def FrerSt.init : FrerSt := ⟨0, none, 0⟩

/-- A back-channel command (R241). -/
structure BcCmd where
  i2c : Bool
  read : Bool
  nbytes : Nat
  arg : Nat
  /-- The wheel entry of a BCW; none for a software command. -/
  entry : Option Nat
  deriving DecidableEq, Repr

/-- The CAN frame being transmitted and where its descriptor lies (R245). -/
structure CanTx where
  ref : InjRef
  bytes : List Byte
  deriving DecidableEq, Repr

/-- The switch, the camera links and the CAN controllers, apart from registers. -/
structure SwSt where
  fdb : List FdbEntry
  /-- VLAN entries written, as `SW_VLAN_DATA`; VID 1 unwritten has the enabled ports (R249). -/
  vlan : Tab (Option Nat)
  /-- Egress queues, keyed by 8 * port + queue, head first. -/
  queues : Tab (List QFrame)
  parked : List Parked
  released : List Released
  tx : Tab (Option TxFrame)
  done : List InjDone
  gcl : Tab GclSt
  /-- Credit (units of 1/250000 bit) of each shaped queue and the clock it was last brought up to. -/
  credit : Tab (Int × Nat)
  meters : Tab (Option MeterSt)
  frer : Tab FrerSt
  /-- The last release by a LAUNCH: clock, port, queue, tag (R237). -/
  lastLaunch : Option (Nat × Nat × Nat × Nat)
  /-- Back-channel queues of the camera ports, the command served first (R241). -/
  bc : Tab (List BcCmd)
  canTx : Tab (Option CanTx)
  /-- Bits [7:0]: the levels last driven on the remote GPIO lines of each camera port (R241). -/
  gpio : Tab Nat
  /-- The transmit ring of a controller stopped (R245 as R234). -/
  canStop : Tab Bool
  deriving DecidableEq, Repr

/-- Empty queues and tables. -/
def SwSt.init : SwSt := ⟨[], [], [], [], [], [], [], [], [], [], [], none, [], [], [], []⟩

/-! ### Event ledger (08_event_ledger.md) -/

/-- The ledger engine, apart from its registers. -/
structure LdgSt where
  /-- Records held in staging before blocks are formed (R257). -/
  held : List Rec
  /-- The open block (R259). -/
  opened : Option LBlock
  /-- Closed blocks not yet written, in SEQ order (R256). -/
  staged : List LBlock
  /-- SEQ of the Write commands outstanding, at most 8 (R264). -/
  outstanding : List Nat
  /-- Failures so far of each outstanding write, keyed by SEQ (R264). -/
  fails : Tab Nat
  /-- Hash of the last closed block as a number (the chain end, R260). -/
  lastHash : Nat
  /-- The outstanding signature request: the block signed and whether it is a catch-up (R261). -/
  signReq : Option (Nat × Bool)
  /-- A group end that closed while a request was outstanding (R261). -/
  signDue : Option Nat
  /-- Instants of the first and last refused record and their count, until the GAP record (R256). -/
  gap : Option (Nat × Nat × Nat)
  /-- The CLOSE tick and the records refused since, while the engine is closed (R266). -/
  closed : Option (Nat × Nat)
  /-- What the orderly close in progress is for. -/
  closing : Option CloseFor
  /-- REINIT was written before EN (R265). -/
  reinit : Bool
  /-- The resume waits for its reads (R265). -/
  resuming : Bool
  /-- The first resume of this cold boot has completed (R265). -/
  resumedOnce : Bool
  /-- The next block opened carries FIRSTBOOT (R265). -/
  firstBoot : Bool
  /-- UPD of the control copy last written and which of the two it was (R264). -/
  ctlUpd : Nat
  ctlLast : Nat
  /-- The control copies this engine has written, keyed 0 and 1. -/
  ctl : Tab (Option CtlCopy)
  /-- RINGLEN in force (R263). -/
  ringlen : Nat
  /-- The last gasp is in progress: every further record is refused (R267). -/
  gasp : Bool
  /-- The replay command in progress: its OP (R268). -/
  replay : Option Nat
  deriving DecidableEq, Repr

/-- The ledger engine as HST leaves reset. -/
def LdgSt.init : LdgSt :=
  ⟨[], none, [], [], [], 0, none, none, none, none, none, false, false, false, false, 0, 1, [], 0, false, none⟩

/-! ### Harts, caches and interrupt files (09 to 12) -/

/-- An entry of an application core's store buffer (R275). -/
structure SbEntry where
  /-- The line by number. -/
  line : Nat
  /-- The bytes of the line that the entry writes (bit `i` byte `i`), and their values, byte 0 least significant. -/
  mask : Nat
  data : Nat
  /-- The entry is bound for a device region (R347): its store is `HartSt.dev`. -/
  device : Bool
  /-- The page is non-cacheable: the entry leaves by the mesh (R303). -/
  nc : Bool
  /-- Fences executed before it whose predecessors hold W: it leaves after every entry with a lower number (R354). -/
  fence : Nat
  /-- Its write to L1 has begun, so no later store shares it (R275). -/
  started : Bool
  /-- The world and, inside a saggar, the identifier the store carries (R298, R407). -/
  world : World
  sag : Option Nat
  deriving DecidableEq, Repr

/-- A device store that is not yet acknowledged (R353), or a store in the fabric write buffer of a timekeeper (R289). -/
structure DevStore where
  addr : Nat
  vaddr : Nat
  size : Nat
  data : Nat
  /-- The pc of the store, for the precise exception. -/
  pc : Nat
  /-- The world the store carries (R298). -/
  world : World
  /-- Its hart has been stopped since: the answer is discarded. -/
  orphan : Bool
  deriving DecidableEq, Repr

/-- A load of a timekeeper through the fabric, which stalls the pipe (R289). -/
structure FabLoad where
  addr : Nat
  size : Nat
  rd : Nat
  signed : Bool
  deriving DecidableEq, Repr

/-- One hart (R272). Registers that do not exist on a core keep their reset value. -/
structure HartSt where
  /-- The core runs: powered and out of reset. -/
  running : Bool
  /-- In debug mode (R496). -/
  halted : Bool
  /-- Waiting in WFI (R284). -/
  wfi : Bool
  /-- The target of a waiting `vt.wt` (R138). -/
  waitVt : Option Nat
  priv : Priv
  world : World
  pc : Nat
  /-- Integer, floating-point and vector registers by number. -/
  x : Tab Nat
  f : Tab Nat
  v : Tab Nat
  /-- CSRs by address; the guest copy of `svtctl` at `0x15C0` (R141). -/
  csr : Tab Nat
  /-- Instructions executed so far: the position of the next one (R278). -/
  pos : Nat
  /-- Mode-CSR writes not yet in effect: CSR, value in force until then, position of the effect (R278). -/
  modeOld : List (Nat × Nat × Nat)
  /-- The store buffer, oldest first, at most 64 (R275). -/
  sb : List SbEntry
  /-- The outstanding device store (R353). -/
  dev : Option DevStore
  /-- The line of the reservation held, if any (R362). -/
  resv : Option Nat
  /-- Instruction lines this hart has written and the position from which the new form is certain (R281, R287). -/
  smc : List (Nat × Nat)
  /-- Fences executed whose predecessors hold W. -/
  fences : Nat
  /-- `minstret`. -/
  instret : Nat
  /-- Timekeepers: cycle counter, fabric write buffer, outstanding fabric load. -/
  cycle : Nat
  wbuf : List DevStore
  fabric : Option FabLoad
  deriving DecidableEq, Repr

/-- A hart held in reset. -/
def HartSt.init : HartSt :=
  ⟨false, false, false, none, .m, .secure, 0, [], [], [], [], 0, [], [], none, none, [], 0, 0, 0, [], none⟩

/-- MESI states of an L2 line (R325). -/
inductive Mesi where
  | s | e | m
  deriving DecidableEq, Repr

/-- A line in an L2 (R325); `data` holds the 64 bytes, byte 0 least significant. -/
structure L2Line where
  st : Mesi
  data : Nat
  poison : Bool
  way : Nat
  /-- Within its minimum hold time (R332). -/
  hold : Bool
  /-- Order of the fill, for the choice of a victim. -/
  age : Nat
  deriving DecidableEq, Repr

/-- A line in the SLC (R324). -/
structure SlcLine where
  data : Nat
  dirty : Bool
  poison : Bool
  way : Nat
  age : Nat
  deriving DecidableEq, Repr

/-- The kinds of snoop (R328). -/
inductive SnpKind where
  | shared | once | invalid
  deriving DecidableEq, Repr

/-- The answers to a snoop (R327). -/
inductive SnpAnswer where
  | data | ack | evicting
  deriving DecidableEq, Repr

/-- The kinds of coherent request (R327). -/
inductive CohKind where
  | readShared | readUnique | upgrade
  /-- Device write (ReadUnique with WRITE), or a stash to the core named. -/
  | write | stash (core : Nat)
  deriving DecidableEq, Repr

/-- An open transaction on a line (R326, R329). `req` is the L2 0 to 7, or 8 plus the domain of a device bridge port. -/
structure Txn where
  req : Nat
  kind : CohKind
  /-- Snoops sent and not yet at their L2. -/
  toSnoop : List (Nat × SnpKind)
  /-- Cores whose snoop has reached the L2 within the line's hold time and waits for its end (R332). -/
  held : List Nat
  /-- Answers on their way to the home. -/
  answers : List (Nat × SnpAnswer)
  /-- Data an answer or an eviction brought, with its poison flag. -/
  data : Option (Nat × Bool)
  /-- The bytes a device write carries: mask (64 bits) and data. -/
  wmask : Nat
  wdata : Nat
  /-- An eviction of the line held until the snoop completes: core and whether it carried data (R336). -/
  evict : Option (Nat × Bool)
  /-- The response has been sent and is on its way to the requester (R327). -/
  responded : Bool
  deriving DecidableEq, Repr

/-- A directory entry (R326). -/
structure DirEntry where
  /-- The sharer vector of state S; 0 for none. -/
  sharers : Nat
  /-- The owner of state X. -/
  owner : Option Nat
  txn : Option Txn
  way : Nat
  age : Nat
  deriving DecidableEq, Repr

/-- A line no L2 holds. -/
def DirEntry.free : DirEntry := ⟨0, none, none, 0, 0⟩

/-- A request that has received NACK (R330): who, which line, what, and how many NACKs so far. -/
structure NackReq where
  req : Nat
  line : Nat
  kind : CohKind
  wmask : Nat
  wdata : Nat
  count : Nat
  deriving DecidableEq, Repr

/-- An IMSIC interrupt file (R37, R310). -/
structure ImsicFile where
  eidelivery : Nat
  eithreshold : Nat
  /-- Pending and enable arrays, bit `i` for identity `i`, 1 to 2,047. -/
  eip : Nat
  eie : Nat
  deriving DecidableEq, Repr

/-- One source of an APLIC domain (R311, R313). -/
structure AplicSrc where
  sourcecfg : Nat
  target : Nat
  pend : Bool
  en : Bool
  deriving DecidableEq, Repr

/-- Harts, caches, directory and interrupt controllers. -/
structure CpuSt where
  /-- The thirteen harts by `mhartid`. -/
  harts : Tab HartSt
  /-- L2 lines, keyed by core * 2^38 + line number. -/
  l2 : Tab (Option L2Line)
  /-- SLC lines in cache and epoch ways by line number. -/
  slc : Tab (Option SlcLine)
  /-- The directory by line number. -/
  dir : Tab DirEntry
  /-- Fill order counter, for the ages of lines and entries. -/
  age : Nat
  /-- Requests refused with NACK, which their requesters retry (R330). -/
  nacks : List NackReq
  /-- Reservation queues of the four home slices: requester and line number, oldest first (R331). -/
  resvq : Tab (List (Nat × Nat))
  /-- Stash queues: lines waiting in the target L2, per core (R335). -/
  stashq : Tab (List Nat)
  /-- IMSIC files keyed by 8 * hart + file (0 machine, 1 supervisor, 2 to 6 guest 1 to 5). -/
  imsic : Tab ImsicFile
  /-- APLIC sources keyed by 128 * domain + source (domain 0 machine-level, 1 supervisor-level). -/
  aplic : Tab AplicSrc
  /-- `domaincfg` of the two APLIC domains. -/
  domaincfg : Tab Nat
  /-- Levels of the wired sources as the APLICs last saw them. -/
  levels : Tab Bool
  /-- Directory, SLC and L2 ways whose retirement is in progress: kind (0 L2, 1 SLC, 2 directory), core, ways. -/
  retiring : List (Nat × Nat × Nat)
  deriving DecidableEq, Repr

/-! ### DRAM, arbitration and data integrity (13_memory_and_integrity.md) -/

/-- A sherd log entry (R395); its KIND, STATUS and SYNDROME as R396 gives. -/
structure SherdEntry where
  vt : Nat
  dseq : Nat
  qual : Nat
  /-- WORLD: 0 secure, 1 normal. -/
  world : World
  /-- Reports were lost before this entry. -/
  gap : Bool
  scrub : Bool
  kind : Nat
  status : Status
  source : Nat
  /-- Source identifier of the requester, `0xFFFF` for none. -/
  requester : Nat
  addr : Nat
  /-- Requester port, `0xF` for none. -/
  port : Nat
  syndrome : Nat
  /-- ADDR lay in secure memory when the entry was written (R397). -/
  secureAddr : Bool
  deriving DecidableEq, Repr

/-- An entry of the crazing table (R399). -/
structure CrazeEntry where
  source : Nat
  ukind : Nat
  unit : Nat
  count : Nat
  advise : Bool
  lastVt : Nat
  /-- The order in which entries were taken ("oldest first among equals"). -/
  age : Nat
  deriving DecidableEq, Repr

/-- A wedge in progress (R384, R385). -/
structure WedgeJob where
  /-- First byte address and number of 4 KiB pages. -/
  base : Nat
  pages : Nat
  /-- OP 2: test before the fill. -/
  test : Bool
  /-- Requested by the watermark unit. -/
  forWmk : Bool
  /-- Line addresses of the range that an access has reached and that are already filled. -/
  filled : List Nat
  deriving DecidableEq, Repr

/-- The grant of the slot-table arbiter (R388). -/
structure Grant where
  port : Nat
  /-- Granted from the background. -/
  bg : Bool
  deriving DecidableEq, Repr

/-- The memory domain's arrays and engines, apart from registers. -/
structure MemSt where
  /-- Every byte of physical memory that the device holds: boot ROM, secure SRAM, local memories, warden
  memory, staging, SLC scratch window and DRAM, keyed by physical address (R30). -/
  bytes : Tab Byte
  /-- Per DRAM line address, the stored check bytes XOR the check bytes of the stored data: byte `i` is the
  syndrome of word `i` (R556); all ones is the poison encoding (R374). -/
  synd : Tab Nat
  /-- SRAM and scratch lines stored with the poison encoding (R382), by line address. -/
  sramPoison : Tab Bool
  /-- The sherd log, oldest first (R394). -/
  sherd : List SherdEntry
  /-- Entries accepted so far, modulo 4,096: the log index the next one takes. -/
  sherdNext : Nat
  /-- Reports were lost while MEM was down (R394). -/
  sherdLost : Bool
  /-- The four words of the head latched by the last read of `SHD_HEAD0` (R398). -/
  sherdLatch : Nat
  /-- The crazing table by entry index (R399). -/
  craze : Tab (Option CrazeEntry)
  /-- Corrections counted so far, the age given to the next crazing entry. -/
  crazeAge : Nat
  /-- The wedge in progress (R385). -/
  wedge : Option WedgeJob
  /-- The page a remap in progress copies (R401). -/
  remap : Option Nat
  /-- Line within `DMC_SCRUB.POS` that the patrol scrub reads next (R386). -/
  scrubLine : Nat
  /-- Bit `i`: port `i` is requesting (R388). -/
  requests : Nat
  /-- The grant in force. -/
  grant : Option Grant
  /-- Credits of the weighted round robin, per port (R389). -/
  credit : Tab Int
  /-- `ARB_CTL.SWAP` was written in the present slot (R391). -/
  swapFresh : Bool
  deriving DecidableEq, Repr

/-! ### Worlds, saggars, hand-over, watchdog (14_worlds_and_saggars.md) -/

/-- The states of a hand-over (R424). -/
inductive HovState where
  | idle | requested | quiescing | resetting | reassigning
  deriving DecidableEq, Repr

/-- A hand-over (R423, R424). -/
structure HovReq where
  /-- Domain and block. -/
  dom : Nat
  blk : Nat
  /-- The requesting world. -/
  req : World
  /-- The world that will own the block. -/
  dst : World
  stage : HovState
  /-- Tick of the request, for DURATION. -/
  start : Nat
  deriving DecidableEq, Repr

/-- A watermark change after its burn was accepted (R411). -/
structure WmkChange where
  old : Nat
  new : Nat
  /-- The burn is complete. -/
  burnt : Bool
  deriving DecidableEq, Repr

/-- Worlds and their units, apart from registers. -/
structure WorldSt where
  /-- Hand-overs in progress, oldest first (R424). -/
  hov : List HovReq
  /-- The watermark change in progress. -/
  wmk : Option WmkChange
  /-- A normal-world power-down held for consent (R429): the domain, and identifier and port of its requester. -/
  pmPending : Option (Nat × Nat × Nat)
  /-- Bytes of warden memory that hold WARDEN_FW are in `MemSt.bytes`; this is its entry address (R431). -/
  wardenEntry : Nat
  /-- Clocks of 4 ns left of the period of a class of the secure watchdog (R430). -/
  swdLeft : Tab Nat
  /-- Tick of the last expiry of a class, for a kick of the same clock (R431). -/
  swdExp : Tab (Option Nat)
  deriving DecidableEq, Repr

/-! ### Epochs, locks and lockstep (15_guarantees_and_recovery.md) -/

/-- An output deferred until commit (R451). -/
inductive EpochOut where
  /-- A device store: hart, its world, the capture slice it is routed to, address, size in bytes, data. -/
  | store (hart : Nat) (world : World) (slice : Option Nat) (addr size data : Nat)
  /-- A wheel reservation to release, by entry index. -/
  | arm (idx : Nat)
  deriving DecidableEq, Repr

/-- The epoch state of a cluster (R448 to R456). -/
structure EpochSt where
  /-- The checkpoint: the harts and interrupt files as they stood, by number. -/
  ckptHarts : Tab HartSt
  ckptImsic : Tab ImsicFile
  /-- The uncommitted lines, by number (R450). -/
  lines : List Nat
  /-- Uncommitted lines that have left their L2 and stand in epoch ways: data and poison flag. -/
  places : Tab (Option (Nat × Bool))
  /-- The output queue, oldest first, at most 256 (R451). -/
  outq : List EpochOut
  /-- Outputs a commit in progress has released and not yet issued (R453). -/
  released : List EpochOut
  /-- Interrupts that have arrived since the checkpoint: identities per interrupt file, bit `i` for identity `i` (R454). -/
  arrived : Tab Nat
  deriving DecidableEq, Repr

/-- No checkpoint, nothing deferred. -/
def EpochSt.init : EpochSt := ⟨[], [], [], [], [], [], []⟩

/-- The guarantee units. -/
structure GuardSt where
  /-- The epoch state of the two clusters. -/
  epoch : Tab EpochSt
  /-- A mismatch is forced at the next retirement of the pair (R461). -/
  inject : Tab Bool
  /-- Clocks of 4 ns left on each core's watchdog, the period in force in µs, and the tick of its last expiry (R501). -/
  cwdLeft : Tab Nat
  cwdPeriod : Tab Nat
  cwdExp : Tab (Option Nat)
  deriving DecidableEq, Repr

/-! ### Power, supply, sleep, debug (16, 17) -/

/-- The states of a domain, coded as `PWR_DOMSTATE` (R473): 0 OFF, 1 UP, 2 ON, 3 RET, 4 DOWN. -/
inductive DomPower where
  | off | up | on | ret | down
  deriving DecidableEq, Repr

/-- Power and reset of one domain (R439, R473). -/
structure DomainSt where
  power : DomPower
  /-- Held in reset. -/
  inReset : Bool
  /-- The fence is open (R439). -/
  fence : Bool
  /-- Emulated power-down by a debugger (R503): the state it stands for. -/
  emul : Bool
  deriving DecidableEq, Repr

/-- A domain before its power-up. -/
def DomainSt.init : DomainSt := ⟨.off, true, false, false⟩

/-- The supply (R462 to R464, R482 to R485), apart from registers. -/
structure SupplySt where
  /-- Supply is present: the input in use stands above the always-on dropout voltage (R542). -/
  supplied : Bool
  /-- Lowest input since the start of the dip, 10 mV units. -/
  lowest : Nat
  /-- Tick at which the dip started. -/
  dipStart : Nat
  /-- The input stands at or above RESTORE after a dip or a reset, and its 1 ms or 10 ms run (R484, R485). -/
  restoring : Bool
  /-- Below RESET: the last gasp runs on hold-up. -/
  holdup : Bool
  /-- The module is held in reset by the supply. -/
  supplyReset : Bool
  /-- VSUP was disconnected for over-voltage (R463). -/
  overVolt : Bool
  /-- The class E0 presented when it was last classified (R238), and that it has been. -/
  podlClass : Nat
  classified : Bool
  /-- Voltage at E0, 10 mV units. -/
  podlVin : Nat
  deriving DecidableEq, Repr

/-- Power, clocks, the always-on timer and wake, apart from registers. -/
structure PowerSt where
  /-- The eight domains. -/
  doms : Tab DomainSt
  sup : SupplySt
  /-- The always-on timer: ns with 32 fraction bits (R477). -/
  aot : Nat
  aotValid : Bool
  /-- State of domain 0 recorded at the last edge (R100). -/
  aotState : Nat
  /-- `PORST_N` is high. -/
  porst : Bool
  /-- BOOT cause of the cold boot that a rise of `PORST_N` starts (R539). -/
  riseCause : Nat
  /-- Latched CID strap. -/
  cid : Nat
  /-- The mode whose column of R467 the domains follow: it lags `PWR_GOV.MODE` until an entry or an exit is carried out (R469, R470). -/
  layout : Nat
  /-- Clock gated blocks, keyed by 256 * domain + block (R472). -/
  gated : Tab Bool
  /-- The clock cap of R468 in MHz, per cluster. -/
  cap : Tab Nat
  /-- Copies in AON retention storage: active slot table and weights, remap table (R393). -/
  retArb : Tab Word
  /-- What the wake controller watches once NET is down: per port `PORT_TC10` and its TC10 state, and bit c for CAN c (R217, R239, R243). -/
  tc10 : Tab (Nat × Nat)
  canWake : Nat
  /-- The port whose wake-up pulse woke the module from Sleep, until NET is up (R239). -/
  tc10Wake : Option Nat
  /-- Tick of the latest wake event, for the rank of causes of one clock (R481). -/
  wakeTick : Option Nat
  /-- Cause of the present cold boot, BOOT SUB (R254). -/
  bootCause : Nat
  deriving DecidableEq, Repr

/-- Debug module and cross-trigger state, apart from registers. -/
structure DebugSt where
  /-- `dmcontrol.dmactive` (R503). -/
  active : Bool
  /-- Halt requests that wait for a permitted world or for power, by hart (R492). -/
  haltReq : Tab Bool
  /-- `abstractcs.cmderr`, and what the last abstract command read. -/
  cmderr : Nat
  data : Nat
  /-- `sbcs.sberror`, and what the last system bus access read. -/
  sberror : Nat
  sbdata : Nat
  /-- Domains and cores that stand emulated off: PWR_S_CORE requests recorded (R503). -/
  coreEmul : Tab Bool
  deriving DecidableEq, Repr

/-- Counters: events counted since the domain left reset are in the registers; this holds the bytes of the
bandwidth window in progress per arbiter port (R511). -/
structure PmuSt where
  bw : Tab Nat
  deriving DecidableEq, Repr

/-! ### Cascade (18_cascade.md) -/

/-- A message that has been sent to another module and is not yet acknowledged (R531). -/
structure CscMsg where
  dest : Nat
  words : List Nat
  seq : Nat
  deriving DecidableEq, Repr

/-- The cascade unit, apart from registers. -/
structure CascadeSt where
  /-- Hop count to the master per link, as the last heartbeats told; 255 for none (R526). -/
  hops : Tab Nat
  /-- A link that has come up on an isolated module and is in its 1 ms of listening (R524). -/
  listening : Tab Bool
  /-- The first decision of R524 has been made. -/
  settled : Bool
  /-- Cascade stream identifiers in use are those below this number (R525, R529). -/
  csids : Nat
  /-- Messages on their way or held by their receivers. -/
  mail : List CscMsg
  /-- The heartbeat last sent on each link (R523). -/
  sent : Tab (Option Heartbeat)
  /-- The unit last forwarded, and its destination (R530). -/
  fwdSent : Option (Nat × FwdUnit)
  deriving DecidableEq, Repr

/-! ### The module -/

/-- Reset contents of the memories no rule gives contents for (log entry 3): every byte reads 0. -/
def byteDefault (_ : Nat) : Byte := 0

/-- Erased flash (R53). -/
def flashDefault (_ : Nat) : Byte := 0xFF

/-- A bad ledger copy reads as none. -/
def DomainSt.at (t : Tab DomainSt) (d : Nat) : DomainSt := tabGet (fun _ => DomainSt.init) t d

/-- The whole state of the module: every register, FIFO, table, engine and memory the specification names, and the
queue of the commands that wait. -/
structure State where
  /-- Clocks of 4 ns since cold boot (R74). -/
  ticks : Nat
  /-- Clocks of the 100 MHz reference, as 4 ns clocks (R288). -/
  mticks : Nat
  /-- Every memory-mapped register by its physical address (R12); a slice's doorbell registers at their own pseudo
  addresses. Registers whose value is computed are not listed. -/
  regs : Tab Word
  /-- The half of a 64-bit register staged by a 32-bit write, per register address, and the world that staged it (R558). -/
  staged : Tab (Option Nat)
  /-- The half left by the 32-bit read of the other half of a read-pop register (R557). -/
  latch : Tab (Option Nat)
  boot : BootSt
  time : TimeSt
  wheel : WheelSt
  cap : CapSt
  /-- The 64 capture slices. -/
  slices : Tab SliceSt
  sw : SwSt
  ldg : LdgSt
  cpu : CpuSt
  mem : MemSt
  world : WorldSt
  guard : GuardSt
  power : PowerSt
  dbgm : DebugSt
  pmu : PmuSt
  casc : CascadeSt
  /-- The link of the PCIe root port is up (R135, R265). -/
  pcieLink : Bool
  /-- The model's own counter of free values taken (log entry 2); no statement rests on it. -/
  freeCtr : Nat
  /-- Commands that wait, first in first out. -/
  pending : List Instr
  deriving DecidableEq, Repr

/-- The cone fuses as delivered: nothing burnt (log entry 5). -/
def FuseSt.blank : FuseSt := ⟨[], [], 0, [], 0⟩

/-- Boot before the supply arrives. -/
def BootSt.init : BootSt :=
  ⟨FuseSt.blank, none, [], none, none, [], false, false, 0, false, false, false, none, false, false, false, none, ⟨0, 0, 0, 0⟩,
    [], [], false⟩

def TimeSt.init : TimeSt := ⟨[], [], [], [], [], [], []⟩

/-- Every entry FREE and never used (R115). -/
def WheelSt.init : WheelSt := ⟨[], [], 0, 0, [], [], 0, 0, 0, []⟩

def CpuSt.init : CpuSt := ⟨[], [], [], [], 0, [], [], [], [], [], [], [], []⟩

def MemSt.init : MemSt := ⟨[], [], [], [], 0, false, 0, [], 0, none, none, 0, 0, none, [], false⟩

def WorldSt.init : WorldSt := ⟨[], none, none, 0, [], []⟩

def GuardSt.init : GuardSt := ⟨[], [], [], [], []⟩

def SupplySt.init : SupplySt := ⟨false, 0, 0, false, false, false, false, 9, false, 0⟩

/-- No domain powered, the always-on timer without valid time (R477, R478). -/
def PowerSt.init : PowerSt := ⟨[], .init, 0, false, 0, true, 0, 0, 0, [], [], [], [], 0, none, none, 0⟩

def DebugSt.init : DebugSt := ⟨false, [], 0, 0, 0, 0, []⟩

def PmuSt.init : PmuSt := ⟨[]⟩

def CascadeSt.init : CascadeSt := ⟨[], [], false, 0, [], [], none⟩

/-- The module right after its power-on reset, before the supply's arrival starts the boot: every register at its
reset value, nothing in any memory, no command waiting (log entry 1). -/
def State.reset : State where
  ticks := 0
  mticks := 0
  regs := []
  staged := []
  latch := []
  boot := .init
  time := .init
  wheel := .init
  cap := .init
  slices := []
  sw := .init
  ldg := .init
  cpu := .init
  mem := .init
  world := .init
  guard := .init
  power := .init
  dbgm := .init
  pmu := .init
  casc := .init
  pcieLink := false
  freeCtr := 0
  pending := []

/-- Why the machine stops. Every command the specification describes has an effect there, so no meaning answers with
either; both exist because the interface asks for them. -/
inductive Fault where
  /-- Raised by no meaning; safe. -/
  | none
  deriving DecidableEq, Repr

/-- Why a command has no meaning. -/
inductive Refusal where
  /-- Raised by the dispatch for a command that is not modelled; safe. -/
  | notModelled (mnemonic : String)
  deriving DecidableEq, Repr

end Sys2Proof.Machine
end

