-- ==== Sys2Proof/Machine/Ops.lean ====
section
/-! DEFINITION. The named operations over registers, domains, harts and time that every chapter uses. -/

namespace Sys2Proof.Machine

open Sys2Proof

/-! ### Status codes (R17, R18) -/

/-- The value of a status code (R17). -/
def statusCode : Status → Int
  | .ok => 0 | .full => -1 | .denied => -2 | .tooLate => -3
  | .unavailable => -4 | .stale => -5 | .fenced => -6 | .poison => -7

/-- A status in a field of `w` bits (R18). -/
def stBits (w : Nat) (st : Status) : Nat := ofSigned w (statusCode st)

/-- A status in an 8-bit field. -/
def st8 (st : Status) : Nat := stBits 8 st

/-- The failing status that stands highest in R17 of the conditions that hold, or OK (R19). -/
def highest (rows : List (Bool × Status)) : Status :=
  match [Status.full, .denied, .tooLate, .unavailable, .stale, .fenced, .poison].find? (fun st => rows.any (fun r => r.1 && r.2 == st)) with
  | some st => st
  | none => .ok

/-- The first condition of a table that holds decides (R19). -/
def firstThat (rows : List (Bool × Status)) (otherwise : Status) : Status :=
  match rows with
  | [] => otherwise
  | (c, st) :: r => if c then st else firstThat r otherwise

/-! ### Registers (R9 to R12) -/

/-- The stored value of the register at an address. -/
def State.rd (s : State) (a : Nat) : Nat := (tabGet resetVal s.regs a).toNat

/-- Store a register. -/
def State.wr (s : State) (a v : Nat) : State := { s with regs := tabSet resetVal s.regs a (BitVec.ofNat 64 v) }

/-- Read a field. -/
def State.get (s : State) (f : Fld) : Nat := bitsOf (s.rd f.reg) f.lo f.w

/-- Write a field. -/
def State.put (s : State) (f : Fld) (v : Nat) : State := s.wr f.reg (putBits (s.rd f.reg) f.lo f.w v)

/-- A one-bit field as a truth value. -/
def State.on (s : State) (f : Fld) : Bool := s.get f == 1

/-- Set bits of a status field; those set stay set (R13). -/
def State.raise (s : State) (f : Fld) (m : Nat) : State := s.put f (Nat.lor (s.get f) m)

/-- Clear bits of a status field (W1C). -/
def State.clear (s : State) (f : Fld) (m : Nat) : State := s.put f (Nat.lor (s.get f) m - m)

/-- Add to a counter field, wrapping. -/
def State.inc (s : State) (f : Fld) (k : Nat) : State := s.put f (s.get f + k)

/-- Store a status in an 8-bit field. -/
def State.res (s : State) (f : Fld) (st : Status) : State := s.put f (st8 st)

/-- Apply an operation to each element of a list in order. -/
def State.each {α : Type} (l : List α) (f : α → State → State) (s : State) : State := l.foldl (fun t a => f a t) s

/-- Apply an operation when a condition holds. -/
def State.when (s : State) (c : Bool) (f : State → State) : State := if c then f s else s

/-- Registers at the addresses from `lo` up to `hi` back at their reset values (R9). -/
def State.resetRegs (s : State) (lo hi : Nat) : State :=
  { s with regs := tabDrop s.regs lo hi, staged := tabDrop s.staged lo hi, latch := tabDrop s.latch lo hi }

/-- A fresh free value (log entry 2). -/
def State.freeNat (s : State) : Nat := Config.free s.freeCtr

/-- Count a free value as taken. -/
def State.tookFree (s : State) : State := { s with freeCtr := s.freeCtr + 1 }

/-! ### Domains, blocks and worlds (R20 to R25) -/

def AON : Nat := 0
def SEC : Nat := 1
def TKD : Nat := 2
def APC : Nat := 3
def MEM : Nat := 4
def NET : Nat := 5
def SNS : Nat := 6
def HST : Nat := 7

/-- The source identifier of block `b` of domain `d` (R25). -/
def srcId (d b : Nat) : Nat := 256 * d + b

def State.dom (s : State) (d : Nat) : DomainSt := tabGet (fun _ => DomainSt.init) s.power.doms d

def State.setDom (s : State) (d : Nat) (v : DomainSt) : State :=
  { s with power := { s.power with doms := tabSet (fun _ => DomainSt.init) s.power.doms d v } }

/-- The domain's fence is open; the AON fence is always open (R439). -/
def State.fenceOpen (s : State) (d : Nat) : Bool := d == AON || (s.dom d).fence

/-- The domain is out of reset, fence open or not; AON is in reset only without supply or while `PORST_N` is low (R539). -/
def State.outOfReset (s : State) (d : Nat) : Bool :=
  if d == AON then s.power.sup.supplied && s.power.porst
  else !(s.dom d).inReset && (s.dom d).power != .off && (s.dom d).power != .ret

/-- Block `b` of domain `d` is clocked: neither gated (R472) nor in a domain whose power-down a debugger emulates (R503). -/
def State.clocked (s : State) (d b : Nat) : Bool := !(s.dom d).emul && !tabGet (fun _ => false) s.power.gated (256 * d + b)

/-- The function of a block runs: its domain is out of reset, and it is clocked. -/
def State.runs (s : State) (d b : Nat) : Bool := s.outOfReset d && s.clocked d b

/-- As `runs`, behind an open fence. -/
def State.opens (s : State) (d b : Nat) : Bool := s.fenceOpen d && s.clocked d b

/-- Block `b` of domain `d` belongs to the normal world (R406). -/
def State.normalOwned (s : State) (d b : Nat) : Bool := bitAt (s.rd (HOV_OWN d (b / 64))) (b % 64)

/-- The world that owns block `b` of domain `d`. -/
def State.owner (s : State) (d b : Nat) : World := if s.normalOwned d b then .normal else .secure

/-- 0 secure, 1 normal. -/
def worldNum : World → Nat
  | .secure => 0 | .normal => 1

def otherWorld : World → World
  | .secure => .normal | .normal => .secure

/-- The world a bit names. -/
def worldOf (n : Nat) : World := if n == 0 then .secure else .normal

/-! ### Harts and agents -/

def State.hart (s : State) (h : Nat) : HartSt := tabGet (fun _ => HartSt.init) s.cpu.harts h

def State.setHart (s : State) (h : Nat) (v : HartSt) : State :=
  { s with cpu := { s.cpu with harts := tabSet (fun _ => HartSt.init) s.cpu.harts h v } }

/-- Change one hart. -/
def State.updHart (s : State) (h : Nat) (f : HartSt → HartSt) : State := s.setHart h (f (s.hart h))

/-- The world of a hart (R297): an application core's world bit, the owner of a timekeeper's block, secure for the
warden core. -/
def State.hartWorld (s : State) (h : Nat) : World :=
  if h < 8 then (s.hart h).world else if h < 12 then s.owner TKD (h - 4) else .secure

/-- The source identifier of a hart's block (R395). -/
def hartSrc (h : Nat) : Nat := if h < 8 then srcId APC h else if h < 12 then srcId TKD (h - 4) else srcId SEC 0

/-- The domain a hart belongs to. -/
def hartDom (h : Nat) : Nat := if h < 8 then APC else if h < 12 then TKD else SEC

/-- The world of an agent (R11, R494). -/
def State.agentWorld (s : State) : Agent → World
  | .hart h => s.hartWorld h.val
  | .dap w => w
  | .device _ w => w

/-- The source identifier of an agent (R25). -/
def agentSrc : Agent → Nat
  | .hart h => hartSrc h.val
  | .dap _ => srcId AON 0xF0
  | .device src _ => src.toNat

/-- The requester port of an agent (R387). -/
def agentPort : Agent → Nat
  | .hart h => if h.val < 4 then 0 else if h.val < 8 then 1 else if h.val < 12 then 2 else 3
  | .dap _ => 8
  | .device src _ =>
    let d := src.toNat / 256
    if d == SNS then 4 else if d == NET then 5
    else if src.toNat == srcId HST 3 then 7 else if src.toNat == srcId HST 2 then 9 else if d == HST then 6
    else if src.toNat == srcId TKD 2 then 10 else if d == TKD then 2 else if d == SEC then 3 else 8

/-- The register file of a hart; `x0` reads 0 and ignores writes. -/
def State.xreg (s : State) (h r : Nat) : Nat := if r == 0 then 0 else tabGet (fun _ => 0) (s.hart h).x r

/-- The register width of a hart in bits (R272). -/
def hartXlen (h : Nat) : Nat := if h < 8 then 64 else 32

/-- Write an integer register of a hart, cut to its width. -/
def State.setX (s : State) (h r v : Nat) : State :=
  if r == 0 then s else s.updHart h (fun t => { t with x := tabSet (fun _ => 0) t.x r (v % 2 ^ hartXlen h) })

/-- A status as a value of a hart's register (R17), sign-extended. -/
def stReg (h : Nat) (st : Status) : Nat := stBits (hartXlen h) st

/-! ### Vehicle time (R70 to R74, R89) -/

def State.tdom (s : State) (d : Nat) : DomSt := tabGet (fun _ => DomSt.init) s.time.doms d

def State.setTdom (s : State) (d : Nat) (v : DomSt) : State :=
  { s with time := { s.time with doms := tabSet (fun _ => DomSt.init) s.time.doms d v } }

/-- Compact VT of a domain (R71). -/
def State.vt (s : State) (d : Nat) : Nat := (s.tdom d).acc / 2 ^ 40 % 2 ^ 64

/-- The synchronisation state of a domain as `VT_STATUS` codes it. -/
def State.syncState (s : State) (d : Nat) : Nat := s.get (VT_STATUS_STATE d)

/-- The quality of a domain (R89): 3 for LOCKED and MASTER. -/
def State.quality (s : State) (d : Nat) : Nat := Nat.min (s.syncState d) 3

/-- Low 8 bits of the discontinuity sequence of a domain. -/
def State.dseq8 (s : State) (d : Nat) : Nat := s.get (VT_DSEQ_DSEQ d) % 256

/-- The stamp of an instant given as an accumulator value (2^-40 ns) of domain `d`. -/
def State.stampAt (s : State) (d acc : Nat) : Stamp :=
  ⟨acc / 2 ^ 40 % 2 ^ 64, acc / 2 ^ 24 % 2 ^ 16, s.dseq8 d, s.quality d⟩

/-- The stamp of an event `phase` half nanoseconds after the present tick (0.5 ns granularity). -/
def State.stampNow (s : State) (d phase : Nat) : Stamp := s.stampAt d ((s.tdom d).acc + 2 ^ 39 * phase)

/-- A stamp in units of 2^-16 ns. -/
def stampFine (st : Stamp) : Nat := 2 ^ 16 * st.ns + st.frac

/-- Domain `d` is enabled; domain 0 always is (R73). -/
def State.domEnabled (s : State) (d : Nat) : Bool := d == 0 || bitAt (s.get VT_CTL_DOMEN) (d - 1)

/-- `mtime`, the 100 MHz count (R320). -/
def State.mtime (s : State) : Nat := s.mticks * 2 / 5

/-- The world debug enables: secure invasive, secure non-invasive, normal invasive, normal non-invasive (R62). -/
def State.dbgEn (s : State) : Nat := s.boot.fuses.dbg.getLast?.getD 0xF

/-- The secure watchdog is frozen for debug (R502). -/
def State.swdFrozen (s : State) : Bool := bitAt s.dbgEn 0 && s.cpu.harts.any (fun p => p.2.halted)

/-- The secure watchdog counts (R430). -/
def State.swdRuns (s : State) : Bool := s.runs SEC 5 && !s.swdFrozen

/-- The watchdog of core `c` is frozen: the core is halted, retained or off (R501). -/
def State.cwdFrozen (s : State) (c : Nat) : Bool :=
  (s.hart c).halted || !(s.hart c).running || s.get (ACC_STATUS_POWER c) != 1 || !s.runs APC c

/-- The watchdog of core `c` counts down. -/
def State.cwdRuns (s : State) (c : Nat) : Bool := s.on (CWD_CFG_EN c) && !s.cwdFrozen c

/-- The watchdog of core `c` starts a full period (R501). -/
def State.cwdLoad (s : State) (c us : Nat) : State :=
  let g := s.guard
  { s with guard := { g with cwdLeft := tabSet (fun _ => 0) g.cwdLeft c (250 * us), cwdPeriod := tabSet (fun _ => 100000) g.cwdPeriod c us } }

/-- `n` clocks of 4 ns pass on the watchdogs. -/
def State.dogTicks (s : State) (n : Nat) : State :=
  let w := s.world
  let g := s.guard
  let left (t : Tab Nat) (c : Nat) : Tab Nat := tabSet (fun _ => 0) t c (tabGet (fun _ => 0) t c - n)
  let s := if s.swdRuns then { s with world := { w with swdLeft := left (left w.swdLeft 0) 1 } } else s
  { s with guard := { g with cwdLeft := ((List.range 8).filter (fun c => s.cwdRuns c)).foldl left g.cwdLeft } }

/-- How a command ends: it always answers a next state. -/
abbrev Ans := Host.Outcome State Fault Refusal

end Sys2Proof.Machine
end

