-- ==== Sys2Proof/Machine/LedgerCore.lean ====
section
/-! DEFINITION. The ledger engine: records, blocks, the chain, staging and the writes it issues (R252 to R264). -/

namespace Sys2Proof.Machine

open Sys2Proof

/-! ### Layouts -/

/-- A record as a 512-bit number (R252). -/
def recNat (r : Rec) : Nat :=
  packBits [(0, 64, r.vt), (64, 8, r.dseq), (72, 2, r.qual), (74, 2, r.dom), (76, 1, b2n r.nsw), (77, 1, b2n r.cont),
    (80, 8, r.typ), (88, 8, r.len), (96, 16, r.src), (112, 16, r.sub), (128, 384, r.payload)]

/-- `EZLB` (R259). -/
def magicBlock : Nat := 0x424C5A45
/-- `EZLC` (R263). -/
def magicCtl : Nat := 0x434C5A45

/-- The header slot of a block (R259). -/
def headNat (b : LBlock) : Nat :=
  packBits [(0, 32, b.magic), (32, 16, 0x0100), (48, 1, b2n b.unsigned), (49, 1, b2n b.provisional), (50, 1, b2n b.lastgasp),
    (51, 1, b2n b.short), (52, 1, b2n b.firstboot), (64, 64, b.seq), (128, 32, b.bootno), (160, 6, b.recs.length),
    (192, 64, b.vtOpen), (256, 256, b.prev)]

/-- A block as its 4,096 bytes: the header, the records, empty slots of zeros. -/
def blockBytes (b : LBlock) : List Byte :=
  leBytes 64 (headNat b) ++ (b.recs.map (fun r => leBytes 64 (recNat r))).flatten ++
    List.replicate (64 * (63 - b.recs.length)) 0

/-- The hash of a block (R260), byte 0 least significant. -/
def blockHash (b : LBlock) : Nat := leNat (sha256 (blockBytes b))

/-- Bytes `0x00` to `0x4F` of a control copy (R263). -/
def ctlHead (c : CtlCopy) : List Byte :=
  leBytes 80 (packBits [(0, 32, c.magic), (32, 16, 0x0100), (64, 64, c.upd), (128, 64, c.next), (192, 64, c.signed),
    (256, 64, c.ringlen), (320, 32, c.bootno), (384, 256, c.lasthash)])

/-- A control copy with its CRC. -/
def ctlSeal (c : CtlCopy) : CtlCopy := { c with crc := crc32 (ctlHead c) }

/-- A control copy is good (R265). -/
def ctlGood (c : CtlCopy) : Bool := c.magic == magicCtl && c.crc == crc32 (ctlHead c)

/-! ### Building records -/

/-- A record of domain `d` at instant `t` with its companions. -/
def recAt (d : Nat) (t : Stamp) (typ len src sub payload : Nat) : Rec :=
  ⟨t.ns, t.dseq, t.qual, d, false, false, typ, len, src, sub, payload⟩

/-- A record of the present tick of domain `d`. -/
def State.recNow (s : State) (d typ len src sub payload : Nat) : Rec := recAt d (s.stampNow d 0) typ len src sub payload

/-- The record types for which the last 64 slots of staging are reserved (R256): BOOT, CLOSE, GAP, SIGNATURE, DISC,
SUPPLY, HANDOVER, BURN. -/
def recReserved (typ : Nat) : Bool := [0x01, 0x02, 0x03, 0x04, 0x10, 0x30, 0x32, 0x33].contains typ

/-! ### Staging and blocks -/

def State.setLdg (s : State) (v : LdgSt) : State := { s with ldg := v }

/-- Free record slots of staging (R256): 256 blocks of 63 records. -/
def ldgFree (l : LdgSt) : Nat :=
  (256 - l.staged.length - (if l.opened.isSome then 1 else 0)) * 63 +
    (match l.opened with | some b => 63 - b.recs.length | none => 0) - l.held.length

/-- An empty block that follows SEQ - 1 with hash `prev` (R259). -/
def State.newBlock (s : State) (seq prev : Nat) : LBlock :=
  ⟨magicBlock, false, s.on LDG_STATUS_PROVISIONAL, false, false, false, seq, s.get LDG_BOOTNO_BOOTNO, s.vt 0, prev, []⟩

/-- Bring `LDG_STATUS.STAGED` and `LDG_SEQ` up to the engine, and issue writes: the first eight closed blocks in SEQ
order while the engine runs (R264). -/
def State.ldgSync (s : State) : State :=
  let l := s.ldg
  let out := if s.get LDG_STATUS_STATE == 2 && s.on LDG_CTL_EN then (l.staged.take 8).map (fun b => b.seq) else l.outstanding
  let s := { s with ldg := { l with outstanding := out } }
  let s := s.put LDG_STATUS_STAGED l.staged.length
  match l.opened with
  | some b => s.put LDG_SEQ_SEQ b.seq
  | none => s

/-- Ask the trust services for a signature of the block `seq` (R261). -/
def State.ldgSign (s : State) (seq : Nat) (catchUp : Bool) : State :=
  { s with ldg := { s.ldg with signReq := some (seq, catchUp) } }

/-- Close the open block and open its successor (R260, R261). -/
def State.ldgClose (s : State) (lastgasp : Bool) : State :=
  match s.ldg.opened with
  | none => s
  | some b =>
    let unav := s.on LDG_STATUS_SIGUNAVAIL
    let b := { b with short := decide (b.recs.length < 63), unsigned := unav, lastgasp := lastgasp,
                      provisional := s.on LDG_STATUS_PROVISIONAL }
    let h := blockHash b
    let s := { s with ldg := { s.ldg with staged := s.ldg.staged ++ [b], lastHash := h, opened := some (s.newBlock (b.seq + 1) h) } }
    let s := State.each [0, 1, 2, 3] (fun i t => t.put (LDG_LASTHASH_HASH i) (h / 2 ^ (64 * i))) s
    let s := s.when (b.seq % 64 == 63 && !unav) (fun t =>
      if t.ldg.signReq.isNone then t.ldgSign b.seq false else { t with ldg := { t.ldg with signDue := some b.seq } })
    s.ldgSync

/-- Append a record to the open block, which closes when slot 63 is filled (R260). -/
def State.ldgAppend (s : State) (r : Rec) : State :=
  match s.ldg.opened with
  | none => { s with ldg := { s.ldg with held := s.ldg.held ++ [r] } }
  | some b =>
    let b := { b with recs := b.recs ++ [r] }
    let s := { s with ldg := { s.ldg with opened := some b } }
    if b.recs.length == 63 then s.ldgClose false else s

/-- A record refused for want of room, or while the engine is closed (R256, R266). -/
def State.ldgRefuse (s : State) (t : Nat) : State :=
  let g := match s.ldg.gap with
    | none => (t, t, 1)
    | some (f, _, n) => (f, t, n + 1)
  let s := { s with ldg := { s.ldg with gap := some g } }
  (s.inc LDG_LOST_COUNT 1).raise LDG_IRQ_STATUS_LOST 1

/-- A GAP record (R254, R256). -/
def State.gapRec (s : State) (sub first last n : Nat) : Rec :=
  s.recNow 0 0x03 20 (srcId HST 2) sub (packBits [(0, 64, first), (64, 64, last), (128, 32, n)])

/-- When room has returned, the GAP record of the records refused goes first (R256). -/
def State.ldgGap (s : State) : State :=
  match s.ldg.gap with
  | none => s
  | some (f, l, n) =>
    if ldgFree s.ldg > 64 then ({ s with ldg := { s.ldg with gap := none } }).ldgAppend (s.gapRec 1 f l n) else s

/-- Room in staging for a record of this type (R256). -/
def ldgRoom (l : LdgSt) (typ : Nat) : Bool :=
  if recReserved typ then decide (0 < ldgFree l) else decide (64 < ldgFree l)

/-- The engine accepts a record, or refuses it (R253, R256, R257, R266, R267). Records produced while HST is down are
not kept. -/
def State.ldgAccept (s : State) (r : Rec) : State :=
  if !s.runs HST 2 then s
  else if s.ldg.gasp && !(r.typ == 0x30 && r.sub == 3) then s.ldgRefuse r.vt
  else match s.ldg.closed with
  | some (t, n) => ({ s with ldg := { s.ldg with closed := some (t, n + 1) } }.inc LDG_LOST_COUNT 1).raise LDG_IRQ_STATUS_LOST 1
  | none =>
    let s := s.ldgGap
    if ldgRoom s.ldg r.typ then s.ldgAppend r else s.ldgRefuse r.vt

/-- Append a SIGNATURE pair, which never spans two blocks (R255, R260). -/
def State.ldgPair (s : State) (a b : Rec) : State :=
  let s := match s.ldg.opened with
    | some k => if k.recs.length == 62 then s.ldgClose false else s
    | none => s
  (s.ldgAppend a).ldgAppend b

/-- KEYID of the published key (R255, R433). -/
def State.keyId (s : State) : Nat :=
  let bs := ((List.range 4).map (fun i => leBytes 8 (s.rd (KEY_LDGPUB_QX i)))).flatten ++
    ((List.range 4).map (fun i => leBytes 8 (s.rd (KEY_LDGPUB_QY i)))).flatten
  leNat ((sha256 bs).take 8)

/-- SEQ of the next block to write and the hash of the block before it. -/
def ldgNext (l : LdgSt) : Nat × Nat :=
  match l.staged with
  | b :: _ => (b.seq, b.prev)
  | [] => match l.opened with
    | some b => (b.seq, b.prev)
    | none => (0, 0)

/-- Write the control copy not last written, with UPD + 1 (R264). -/
def State.ldgCtlWrite (s : State) : State :=
  let l := s.ldg
  let (nx, h) := ldgNext l
  let c := ctlSeal ⟨magicCtl, l.ctlUpd + 1, nx, s.rd LDG_SIGNED, l.ringlen, s.get LDG_BOOTNO_BOOTNO, h, 0⟩
  let k := 1 - l.ctlLast
  s.setLdg { l with ctlUpd := l.ctlUpd + 1, ctlLast := k, ctl := tabSet (fun _ => none) l.ctl k (some c) }

/-- The PROVISIONAL flag of the engine follows the boot (R58). -/
def State.ldgProvisional (s : State) (p : Bool) : State := s.put LDG_STATUS_PROVISIONAL (b2n p)

end Sys2Proof.Machine
end

