-- ==== Sys2Proof/Machine/Map.lean ====
section
/-! DEFINITION. The physical address map (R30 to R36) and the world, watermark and saggar check (R407 to R412). -/

namespace Sys2Proof.Machine

open Sys2Proof

/-- What a physical address reaches (R30). Offsets count from the start of the range or window. -/
inductive Region where
  | bootRom
  | secSram
  | tkLocal (n off : Nat)
  | warden
  | staging
  | regs (d b off : Nat)
  | debug (b off : Nat)
  | scratch (way off : Nat)
  | dram
  | pcie
  | cascade (k off : Nat)
  | reserved
  deriving DecidableEq, Repr

/-- First address of DRAM (R30). -/
def dramBase : Nat := 0x800000000
/-- First address beyond DRAM. -/
def dramEnd : Nat := 0xB80000000
/-- First byte of the SLC scratch window. -/
def scratchBase : Nat := 0x80000000

/-- `lo ≤ a < hi`. -/
def within (a lo hi : Nat) : Bool := decide (lo ≤ a) && decide (a < hi)

/-- Whether way `w` of the SLC is a scratch way (R35). -/
def State.scratchWay (s : State) (w : Nat) : Bool := w < 24 && bitsOf (s.rd SLC_WAYMAP) (2 * w) 2 == 2

/-- The range an address lies in (R30 to R36). -/
def State.region (s : State) (a : Nat) : Region :=
  if a < 0x40000 then .bootRom
  else if within a 0x10000000 0x10400000 then .secSram
  else if within a 0x20000000 0x20200000 then
    let o := (a - 0x20000000) % 0x80000
    if o < 0x60000 then .tkLocal ((a - 0x20000000) / 0x80000) o else .reserved
  else if within a 0x30000000 0x30040000 then .warden
  else if within a 0x38000000 0x38100000 then .staging
  else if within a 0x40000000 0x48000000 then
    .regs ((a - 0x40000000) / 0x1000000) (bitsOf a 16 8) (bitsOf a 0 24)
  else if within a 0x4F000000 0x50000000 then .debug (bitsOf a 16 8) (bitsOf a 0 24)
  else if within a scratchBase 0x81800000 then
    let w := (a - scratchBase) / 0x100000
    if s.scratchWay w then .scratch w ((a - scratchBase) % 0x100000) else .reserved
  else if within a dramBase dramEnd then .dram
  else if within a 0x1000000000 0x2000000000 then .pcie
  else if within a 0x2000000000 0x6000000000 then
    let k := (a - 0x2000000000) / 0x1000000000
    if k == s.get CSC_STATUS_MYID then .reserved else .cascade k ((a - 0x2000000000) % 0x1000000000)
  else .reserved

/-- The domain that serves a region, none for a reserved range. -/
def regionDom : Region → Option Nat
  | .bootRom | .secSram | .warden => some SEC
  | .tkLocal _ _ => some TKD
  | .staging | .pcie | .cascade _ _ => some HST
  | .regs d _ _ => some d
  | .debug _ _ => some AON
  | .scratch _ _ | .dram => some MEM
  | .reserved => none

/-- The block that answers for a region (R395, R555; the block of DRAM and of the memories is log entry 14). -/
def regionSrc : Region → Nat
  | .bootRom | .warden => srcId SEC 0
  | .secSram => srcId SEC 1
  | .tkLocal n _ => srcId TKD (4 + n)
  | .staging => srcId HST 2
  | .regs d b _ => srcId d b
  | .debug b _ => srcId AON (0xF0 + b)
  | .scratch _ _ => srcId MEM 5
  | .dram => srcId MEM 0
  | .pcie => srcId HST 0
  | .cascade _ _ => srcId HST 3
  | .reserved => 0xFFFF

/-- Register windows, the debug window, the PCIe and cascade windows and the staging window are I/O (R32, R347). -/
def regionIo : Region → Bool
  | .staging | .regs _ _ _ | .debug _ _ | .pcie | .cascade _ _ => true
  | _ => false

/-- The watermark as an address (R410): DRAM below it is secure. -/
def State.watermark (s : State) : Nat := dramBase + 0x4000000 * s.get WMK_STATUS_N

/-- DRAM that a lowering has closed to both worlds (R412). -/
def State.wmkClosed (s : State) (a : Nat) : Bool :=
  s.on WMK_STATUS_CLOSED && within a (dramBase + 0x4000000 * s.get WMK_STATUS_TARGET) s.watermark

/-- The kinds of access a saggar range's permissions tell apart. -/
inductive AccKind where
  | read | write | exec
  deriving DecidableEq, Repr

/-- The saggar ranges that hold an address, by index. -/
def State.saggarRanges (s : State) (a : Nat) : List Nat :=
  (List.range 256).filter (fun i =>
    s.on (SAG_RNG_ATTR_VALID i) &&
    within a (4096 * s.get (SAG_RNG_PAGE_BASE i)) (4096 * (s.get (SAG_RNG_PAGE_BASE i) + s.get (SAG_RNG_PAGE_PAGES i))))

/-- A range's permission for a kind of access. -/
def State.rangeAllows (s : State) (i : Nat) : AccKind → Bool
  | .read => s.on (SAG_RNG_ATTR_R i)
  | .write => s.on (SAG_RNG_ATTR_W i)
  | .exec => s.on (SAG_RNG_ATTR_X i)

/-- One saggar range admits an access of world `w` that carries saggar identifier `sid` (R407). -/
def State.rangeOk (s : State) (w : World) (sid : Option Nat) (k : AccKind) (i : Nat) : Bool :=
  s.rangeAllows i k &&
  (match w with
   | .secure => s.on (SAG_DESC_ATTR_SECACC (s.get (SAG_RNG_ATTR_SID i)))
   | .normal => sid == some (s.get (SAG_RNG_ATTR_SID i)))

/-- The world check of R407 for everything but register windows: true where the access is permitted. -/
def State.worldOk (s : State) (w : World) (sid : Option Nat) (k : AccKind) (a : Nat) : Bool :=
  match s.region a with
  | .bootRom | .secSram | .warden => w == .secure
  | .tkLocal n _ => w == s.owner TKD (4 + n)
  | .scratch _ _ => w == s.owner MEM 5
  | .pcie => w == s.owner HST 0
  | .cascade _ _ => w == s.owner HST 3
  | .dram =>
    !s.wmkClosed a && (w == .secure || decide (s.watermark ≤ a)) &&
      (s.saggarRanges a).all (fun i => s.rangeOk w sid k i)
  | _ => true

/-- Memory that the physical check denies to the normal world by reason of world (R397). -/
def State.secureMem (s : State) (a : Nat) : Bool :=
  match s.region a with
  | .bootRom | .secSram | .warden => true
  | .tkLocal n _ => s.owner TKD (4 + n) == .secure
  | .scratch _ _ => s.owner MEM 5 == .secure
  | .pcie => s.owner HST 0 == .secure
  | .cascade _ _ => s.owner HST 3 == .secure
  | .regs d b _ => s.owner d b == .secure
  | .dram => decide (a < s.watermark)
  | _ => false

end Sys2Proof.Machine
end

