-- ==== Sys2Proof/Machine/Pmu.lean ====
section
/-! DEFINITION. The performance counters: counting an event, chaining and overflow (R506, R507, R511). -/

namespace Sys2Proof.Machine

open Sys2Proof

/-- Where counters lie: the counter page of a block by its window's address (R515), or a capture slice (R516). -/
inductive PmuPlace where
  | page (base : Nat)
  | slice (n : Nat)
  deriving DecidableEq, Repr

/-- Counter `i` of a place. -/
def pmuCnt : PmuPlace → Nat → Fld
  | .page b, i => PMU_CNT_COUNT b i
  | .slice n, i => CSL_CNT_COUNT n i

/-- The bit of CHAIN that stands for counter `i`. -/
def pmuChain : PmuPlace → Nat → Fld
  | .page b, i => ⟨PMU_CHAIN b (i / 64), i % 64, 1⟩
  | .slice n, i => ⟨CSL_PMU_CTL n, i, 1⟩

/-- The bit of OVF that stands for counter `i`. -/
def pmuOvf : PmuPlace → Nat → Fld
  | .page b, i => ⟨PMU_OVF b (i / 64), i % 64, 1⟩
  | .slice n, i => ⟨CSL_PMU_OVF n, i, 1⟩

/-- The bit of UMASK that stands for counter `i`. -/
def pmuUmask : PmuPlace → Nat → Fld
  | .page b, i => ⟨PMU_UMASK b (i / 64), i % 64, 1⟩
  | .slice n, i => ⟨CSL_PMU_UMASK n, i, 1⟩

/-- The register window of a core's, of the MEM domain's and of a port's counters. -/
def pmuCoreBase (c : Nat) : Nat := 0x43000000 + 0x10000 * c
def pmuMemBase : Nat := 0x44030000
def pmuPortBase (p : Nat) : Nat := 0x45100000 + 0x10000 * p

/-- Counters of a place, R506. -/
def pmuN : PmuPlace → Nat
  | .page b => if b == pmuMemBase then 64 else if b < pmuMemBase then 96 else 32
  | .slice _ => 16

/-- Add `k` to counter `i`; a wrap sets OVF and reaches the chained counter above (R507). -/
def State.pmuCarry (s : State) (p : PmuPlace) : Nat → Nat → Nat → State
  | 0, _, _ => s
  | fuel + 1, i, k =>
    let v := s.get (pmuCnt p i) + k
    let s := s.put (pmuCnt p i) v
    if v < 2 ^ 32 then s
    else
      let s := s.put (pmuOvf p i) 1
      if i + 1 < pmuN p && s.on (pmuChain p (i + 1)) then s.pmuCarry p fuel (i + 1) (v / 2 ^ 32) else s

/-- `k` events of counter `i`: a chained counter does not count its own event (R507). -/
def State.pmuCount (s : State) (p : PmuPlace) (i k : Nat) : State :=
  if k == 0 || (i != 0 && s.on (pmuChain p i)) then s else s.pmuCarry p (pmuN p) i k

/-- An event of the MEM domain (R514). -/
def State.memCount (s : State) (i : Nat) : State := s.pmuCount (.page pmuMemBase) i 1

/-- An event of a switch port (R248). -/
def State.portCount (s : State) (p i k : Nat) : State := s.pmuCount (.page (pmuPortBase p)) i k

/-- An event of a slice (R215). -/
def State.sliceCount (s : State) (n i k : Nat) : State := s.pmuCount (.slice n) i k

/-- The counters of a core stand still: it is halted with `dcsr.stopcount` (R506). -/
def State.countStopped (s : State) (c : Nat) : Bool :=
  (s.hart c).halted && bitAt (tabGet (fun _ => 0x40000403) (s.hart c).csr 0x7B0) 10

/-- The pair of a core is fused (R292). -/
def State.fused (s : State) (c : Nat) : Bool := s.on (LKS_STATUS_FUSED (c / 2))

/-- The mode-inhibit bit of an `mhpmevent` for a mode (R512). -/
def inhibitBit : Priv → Nat
  | .m => 62 | .s => 61 | .u => 60 | .vs => 59 | .vu => 58

/-- The Zihpm counters of a core that select event `i` count it; a wrap sets OF, and LCOFIP where OF was clear (R512). -/
def State.hpmCount (s : State) (c i : Nat) : State :=
  let get (h : HartSt) (a : Nat) : Nat := tabGet (fun _ => 0) h.csr a
  let put (h : HartSt) (a v : Nat) : HartSt := { h with csr := tabSet (fun _ => 0) h.csr a v }
  s.updHart c (fun h => ((List.range 29).filter (fun j =>
      let e := get h (0x323 + j)
      e % 128 == i + 1 && !bitAt e (inhibitBit h.priv) && !bitAt (get h 0x320) (3 + j))).foldl (fun h j =>
    let v := (get h (0xB03 + j) + 1) % 2 ^ 64
    let h := put h (0xB03 + j) v
    if v != 0 then h
    else
      let h := if bitAt (get h (0x323 + j)) 63 then h else put h 0x344 (putBits (get h 0x344) 13 1 1)
      put h (0x323 + j) (putBits (get h (0x323 + j)) 63 1 1)) h)

/-- An event of an application core. The odd core of a fused pair has no counters of its own: its page shows the even core's
(R293, R506). -/
def State.coreCount (s : State) (c i : Nat) : State :=
  if c ≥ 8 || s.countStopped c then s else (s.pmuCount (.page (pmuCoreBase c)) i 1).hpmCount c i

/-- A 64-byte unit passes between port `port` and the DRAM controller (R511, R514). -/
def State.bwCount (s : State) (port : Nat) : State :=
  let s := s.when (port < 11) (fun t => t.pmuCount (.page pmuMemBase) (22 + port) 1)
  if 11 ≤ port || s.get (PMU_BWCFG_WIN_US pmuMemBase) == 0 then s
  else { s with pmu := { s.pmu with bw := tabSet (fun _ => 0) s.pmu.bw port (tabGet (fun _ => 0) s.pmu.bw port + 64) } }

end Sys2Proof.Machine
end

