-- ==== Sys2Proof/Machine/Sherd.lean ====
section
/-! DEFINITION. The sherd log and the crazing table (R394 to R400). -/

namespace Sys2Proof.Machine

open Sys2Proof

/-- The kinds of a sherd entry (R396). -/
def kDramCe : Nat := 0x01
def kDramUe : Nat := 0x02
def kSramCe : Nat := 0x03
def kSramUe : Nat := 0x04
def kRefetch : Nat := 0x05
def kConsumed : Nat := 0x06
def kPartial : Nat := 0x07
def kWedgeFail : Nat := 0x08
def kRefusedWorld : Nat := 0x10
def kRefusedRange : Nat := 0x11
def kFenced : Nat := 0x12
def kVtRefused : Nat := 0x13
def kLockstep : Nat := 0x20
def kWatchdog : Nat := 0x21
def kPmRefused : Nat := 0x22

/-- Correctable errors: they make entries only while `SHD_CTL.LOG_CE` is 1 (R394). -/
def kindCe (k : Nat) : Bool := k == kDramCe || k == kSramCe || k == kRefetch

/-- The entry as 256 bits (R395); `masked` withholds ADDR and SYNDROME (R397). -/
def sherdNat (e : SherdEntry) (masked : Bool) : Nat :=
  packBits [(0, 64, e.vt), (64, 8, e.dseq), (72, 2, e.qual), (74, 1, worldNum e.world), (75, 1, b2n e.gap), (76, 1, b2n e.scrub),
    (77, 1, b2n masked), (80, 8, e.kind), (88, 8, st8 e.status), (96, 16, e.source), (112, 16, e.requester),
    (128, 44, if masked then 0 else e.addr), (172, 4, e.port), (192, 64, if masked then 0 else e.syndrome)]

/-- An entry reads masked while the sherd log block belongs to the normal world (R397). -/
def State.sherdMasked (s : State) (e : SherdEntry) : Bool :=
  s.normalOwned MEM 3 && (e.world == .secure || e.secureAddr)

/-- The entry as it reads through the block. -/
def State.sherdView (s : State) (e : SherdEntry) : Nat := sherdNat e (s.sherdMasked e)

/-- The interrupt bits an entry sets (R405). -/
def sherdIrq (e : SherdEntry) : Nat :=
  packBits [(0, 1, b2n (kindCe e.kind)), (1, 1, b2n (e.kind == kDramUe || e.kind == kSramUe)),
    (2, 1, b2n (e.status == .denied || e.status == .fenced)), (4, 1, b2n (e.kind == kConsumed))]

/-- The entry goes to the ledger too (R254): an uncorrectable error, DENIED or FENCED; a correctable error only with
`LDG_CTL.SHERD_CE`. -/
def State.sherdToLedger (s : State) (e : SherdEntry) : Bool :=
  if kindCe e.kind then s.on LDG_CTL_SHERD_CE else e.status == .poison || e.status == .denied || e.status == .fenced

/-- Add an entry to the log (R394). -/
def State.sherdAdd (s : State) (e : SherdEntry) : State :=
  if !s.outOfReset MEM then { s with mem := { s.mem with sherdLost := true } }
  else
    let s := s.raise ⟨SHD_IRQ_STATUS, 0, 6⟩ (sherdIrq e)
    if kindCe e.kind && !s.on SHD_CTL_LOG_CE then s
    else
      let e := { e with gap := s.mem.sherdLost }
      let ov := decide (4096 ≤ s.mem.sherd.length)
      let log := (if ov then s.mem.sherd.tail else s.mem.sherd) ++ [e]
      let idx := s.mem.sherdNext
      let s := { s with mem := { s.mem with sherd := log, sherdLost := false, sherdNext := (idx + 1) % 4096 } }
      let s := s.when ov (fun t => t.inc SHD_STAT_OVERWRITTEN 1)
      let s := s.put SHD_STAT_COUNT log.length
      let s := s.when (!ov && log.length == 2048) (fun t => t.raise SHD_IRQ_STATUS_HALF 1)
      s.when (s.sherdToLedger e) (fun t =>
        t.ldgAccept (recAt 0 ⟨e.vt, 0, e.dseq, e.qual⟩ 0x31 32 (srcId MEM 3) idx (t.sherdView e)))

/-- An entry of the present tick (R395). -/
def State.sherd (s : State) (kind : Nat) (st : Status) (source : Nat) (w : World) (requester addr port syndrome : Nat) : State :=
  let t := s.stampNow 0 0
  s.sherdAdd ⟨t.ns, t.dseq, t.qual, w, false, false, kind, st, source, requester, addr % 2 ^ 44, port, syndrome, s.secureMem addr⟩

/-- As `sherd`, found by patrol scrub or wedge test (SCRUB). -/
def State.sherdScrub (s : State) (kind : Nat) (st : Status) (source : Nat) (addr syndrome : Nat) : State :=
  let t := s.stampNow 0 0
  s.sherdAdd ⟨t.ns, t.dseq, t.qual, .secure, false, true, kind, st, source, 0xFFFF, addr % 2 ^ 44, 0xF, syndrome, s.secureMem addr⟩

/-- An access refused with DENIED or FENCED, recorded with the block that refused it (R42, R43, R407, R440). -/
def State.sherdRefused (s : State) (a : Agent) (st : Status) (r : Region) (addr : Nat) : State :=
  match st with
  | .fenced => s.sherd kFenced .fenced (regionSrc r) (s.agentWorld a) (agentSrc a) addr (agentPort a) ((regionDom r).getD 0)
  | _ => s.sherd kRefusedWorld .denied (regionSrc r) (s.agentWorld a) (agentSrc a) addr (agentPort a) 0

/-- An access to a reserved range (R31): a hart takes its exception without an entry; a device agent's attempt is
recorded with its own identifier (log entry 15). -/
def State.sherdRange (s : State) (a : Agent) (addr : Nat) : State :=
  match a with
  | .hart _ => s
  | _ => s.sherd kRefusedRange .denied (agentSrc a) (s.agentWorld a) (agentSrc a) addr (agentPort a) 0

/-! ### The crazing table (R399, R400) -/

/-- The threshold of a unit kind (R405). -/
def State.crazeThr (s : State) (ukind : Nat) : Nat :=
  if ukind == 0 then s.get SHD_CRZ_CFG_THR0 else if ukind == 1 then s.get SHD_CRZ_CFG_THR1
  else if ukind == 2 then s.get SHD_CRZ_CFG_THR2 else if ukind == 3 then s.get SHD_CRZ_CFG_THR3 else s.get SHD_CRZ_CFG_THR4

def State.crazeAt (s : State) (i : Nat) : Option CrazeEntry := tabGet (fun _ => none) s.mem.craze i

def State.setCraze (s : State) (i : Nat) (e : Option CrazeEntry) : State :=
  { s with mem := { s.mem with craze := tabSet (fun _ => none) s.mem.craze i e } }

/-- Indices of the crazing table. -/
def crazeIdx : List Nat := List.range 256

/-- The entry that a new unit takes when none is free: the lowest count without ADVISE, oldest first among equals. -/
def State.crazeVictim (s : State) : Option Nat :=
  (crazeIdx.foldl (fun (b : Option (Nat × Nat × Nat)) i =>
    match s.crazeAt i with
    | some e =>
      if e.advise then b
      else match b with
        | none => some (i, e.count, e.age)
        | some (_, c, g) => if e.count < c || (e.count == c && e.age < g) then some (i, e.count, e.age) else b
    | none => b) none).map (fun v => v.1)

/-- Count one correction of a unit (R399, R400). -/
def State.crazeCount (s : State) (source ukind unit : Nat) : State :=
  let now := s.vt 0
  let put (i : Nat) (c : Nat) (adv : Bool) (age : Nat) (t : State) : State :=
    let hit := decide (t.crazeThr ukind ≤ c)
    let t := t.setCraze i (some ⟨source, ukind, unit, c, adv || hit, now, age⟩)
    t.when (hit && !adv) (fun u => u.raise SHD_IRQ_STATUS_ADVICE 1)
  let fresh (i : Nat) : State :=
    let s := { s with mem := { s.mem with crazeAge := s.mem.crazeAge + 1 } }
    put i 1 false (s.mem.crazeAge - 1) s
  match crazeIdx.find? (fun i => match s.crazeAt i with
      | some e => e.source == source && e.ukind == ukind && e.unit == unit
      | none => false) with
  | some i => match s.crazeAt i with
    | some e => put i (Nat.min (e.count + 1) 65535) e.advise e.age s
    | none => s
  | none => match crazeIdx.find? (fun i => (s.crazeAt i).isNone) with
    | some i => fresh i
    | none => match s.crazeVictim with
      | some i => fresh i
      | none => s

end Sys2Proof.Machine
end

