-- ==== Sys2Proof/Machine/Dram.lean ====
section
/-! DEFINITION. Memory arrays and the DRAM controller: bytes, SEC-DED, poison, partial writes, wedging (R372 to R386). -/

namespace Sys2Proof.Machine

open Sys2Proof

/-- Who asks for a DRAM line: world, source identifier, requester port (R395). -/
structure MemReq where
  world : World
  src : Nat
  port : Nat
  deriving DecidableEq, Repr

/-- The request of an agent. -/
def State.memReq (s : State) (a : Agent) : MemReq := ⟨s.agentWorld a, agentSrc a, agentPort a⟩

/-! ### Bytes and lines -/

/-- One byte of physical memory. -/
def State.byteAt (s : State) (a : Nat) : Byte := tabGet byteDefault s.mem.bytes a

/-- Store one byte of physical memory. -/
def State.setByte (s : State) (a : Nat) (b : Byte) : State :=
  { s with mem := { s.mem with bytes := tabSet byteDefault s.mem.bytes a b } }

/-- `n` bytes from `a` as a number, byte `a` least significant. -/
def State.bytesAt (s : State) (a : Nat) : Nat → Nat
  | 0 => 0
  | n + 1 => (s.byteAt a).toNat + 256 * s.bytesAt (a + 1) n

/-- Store the low `n` bytes of `v` from `a`. -/
def State.setBytes (s : State) (a v : Nat) : Nat → State
  | 0 => s
  | n + 1 => (s.setByte a (BitVec.ofNat 8 v)).setBytes (a + 1) (v / 256) n

/-- The first byte of a line. -/
def lineAddr (line : Nat) : Nat := 64 * line

/-- All eight syndromes `0xFF`: the poison encoding (R374). -/
def allFF : Nat := 2 ^ 64 - 1

/-- The syndromes of a DRAM line, byte `i` of word `i` (R556). -/
def State.synd (s : State) (line : Nat) : Nat := tabGet (fun _ => 0) s.mem.synd line

def State.setSynd (s : State) (line v : Nat) : State :=
  { s with mem := { s.mem with synd := tabSet (fun _ => 0) s.mem.synd line v } }

/-- The bytes of a 64-byte value that a mask of 64 bits names, over those of another. -/
def mergeBytes : Nat → Nat → Nat → Nat → Nat
  | 0, _, _, _ => 0
  | n + 1, mask, new, old =>
    (if mask % 2 == 1 then new % 256 else old % 256) + 256 * mergeBytes n (mask / 2) (new / 256) (old / 256)

/-- A mask that names every byte of a line. -/
def fullMask : Nat := 2 ^ 64 - 1

/-! ### SEC-DED (R373, R556) -/

/-- The columns of data bits 0 to 55: the values with exactly three bits set, ascending. -/
def cols3 : List Nat :=
  [7, 11, 13, 14, 19, 21, 22, 25, 26, 28, 35, 37, 38, 41, 42, 44, 49, 50, 52, 56, 67, 69, 70, 73, 74, 76, 81, 82] ++
  [84, 88, 97, 98, 100, 104, 112, 131, 133, 134, 137, 138, 140, 145, 146, 148, 152, 161, 162, 164, 168, 176, 193, 194, 196, 200, 208, 224]

/-- The column of bit `i` of a stored word: data bits 0 to 63, check bits 64 to 71 (R556). -/
def column (i : Nat) : Nat :=
  if i < 56 then cols3.getD i 0
  else if i < 64 then [0x1F, 0x2F, 0x37, 0x3B, 0x3D, 0x3E, 0x4F, 0x57].getD (i - 56) 0
  else 2 ^ (i - 64)

/-- The bit of a word whose single error gives a syndrome. -/
def bitOfSyndrome (y : Nat) : Option Nat := (List.range 72).find? (fun i => column i == y)

/-- Flip one stored bit of a word of a line: data bit 0 to 63, or check bit 64 to 71. -/
def State.flipBit (s : State) (line w b : Nat) : State :=
  let y := Nat.xor (s.synd line) (column b * 2 ^ (8 * w))
  let s := s.setSynd line y
  if b < 64 then
    let a := lineAddr line + 8 * w + b / 8
    s.setByte a (s.byteAt a ^^^ BitVec.ofNat 8 (2 ^ (b % 8)))
  else s

/-- Apply an upset to a stored line. -/
def State.upset (s : State) (line : Nat) (u : Upset) : State := State.each u (fun p t => t.flipBit line p.1.val p.2.val) s

/-- The words of a line whose syndrome is not 0, with it. -/
def syndWords (y : Nat) : List (Nat × Nat) :=
  ((List.range 8).map (fun w => (w, bitsOf y (8 * w) 8))).filter (fun p => p.2 != 0)

/-- Every error of the line is a single-bit error of its word (R373). -/
def correctable (y : Nat) : Bool := (syndWords y).all (fun p => (bitOfSyndrome p.2).isSome)

/-! ### Wedging in progress (R385) -/

/-- The line lies in a wedge in progress that has not reached it. -/
def State.wedgeWaits (s : State) (line : Nat) : Bool :=
  match s.mem.wedge with
  | some j => within (lineAddr line) j.base (j.base + 4096 * j.pages) && !j.filled.contains line
  | none => false

/-- An access to such a line waits until the fill has passed it, and so finds it filled with zeros (R385). -/
def State.wedgeTouch (s : State) (line : Nat) : State :=
  if s.wedgeWaits line then
    let s := ((s.memCount 63).setBytes (lineAddr line) 0 64).setSynd line 0
    match s.mem.wedge with
    | some j => { s with mem := { s.mem with wedge := some { j with filled := line :: j.filled } } }
    | none => s
  else s

/-! ### The controller -/

/-- A DRAM line as it is read: data (byte 0 least significant) and its poison flag. A single-bit error is corrected,
written back, logged and counted; any other error poisons the line and is logged once (R373 to R375). -/
def State.dramRead (s : State) (q : MemReq) (line : Nat) (scrub : Bool) : State × Nat × Bool :=
  let s := (s.wedgeTouch line).memCount 44
  let s := if scrub then s.memCount 50 else s.bwCount q.port
  let y := s.synd line
  if y == 0 then (s, s.bytesAt (lineAddr line) 64, false)
  else if y == allFF then (s.memCount 49, s.bytesAt (lineAddr line) 64, true)
  else if correctable y then
    let s := State.each (syndWords y) (fun p t => match bitOfSyndrome p.2 with
      | some b => t.flipBit line p.1 b
      | none => t) s
    let s := (s.memCount 47).crazeCount (srcId MEM 0) 0 (lineAddr line / 4096)
    let s := if scrub then s.sherdScrub kDramCe .ok (srcId MEM 0) (lineAddr line) y
      else s.sherd kDramCe .ok (srcId MEM 0) q.world q.src (lineAddr line) q.port y
    (s, s.bytesAt (lineAddr line) 64, false)
  else
    let s := ((s.setSynd line allFF).memCount 48).memCount 49
    let s := if scrub then s.sherdScrub kDramUe .poison (srcId MEM 0) (lineAddr line) y
      else s.sherd kDramUe .poison (srcId MEM 0) q.world q.src (lineAddr line) q.port y
    (s, s.bytesAt (lineAddr line) 64, true)

/-- The armed flip of `DMC_INJ` meets a write of its line (R560). -/
def State.dmcInject (s : State) (line : Nat) : State :=
  if s.on DMC_INJ_ARM && s.get DMC_INJ_LINE == line then
    let s := s.put DMC_INJ_ARM 0
    if s.synd line == allFF then s
    else
      let w := s.get DMC_INJ_WORD
      let s := s.flipBit line w 0
      if s.on DMC_INJ_DOUBLE then s.flipBit line w 1 else s
  else s

/-- Write a line of DRAM, whole or in part; `poison` stores it with the poison encoding (R374, R378, R379). -/
def State.dramWrite (s : State) (q : MemReq) (line mask data : Nat) (poison : Bool) : State :=
  if mask == fullMask then
    let s := ((s.wedgeTouch line).memCount 45).bwCount q.port
    ((s.setBytes (lineAddr line) data 64).setSynd line (if poison then allFF else 0)).dmcInject line
  else
    let (s, old, p) := ((s.memCount 45).memCount 46).dramRead q line false
    let s := s.setBytes (lineAddr line) (mergeBytes 64 mask data old) 64
    let s := s.when p (fun t => t.sherd kPartial .poison (srcId MEM 0) q.world q.src (lineAddr line) q.port mask)
    (s.setSynd line (if p || poison then allFF else 0)).dmcInject line

/-! ### Arrays that no cache covers: SRAM, local memories, the scratch window -/

def State.sramPoisoned (s : State) (line : Nat) : Bool := tabGet (fun _ => false) s.mem.sramPoison line

def State.setSramPoison (s : State) (line : Nat) (p : Bool) : State :=
  { s with mem := { s.mem with sramPoison := tabSet (fun _ => false) s.mem.sramPoison line p } }

/-- Read `n` bytes at `a` of an array, with the poison flag of the line (R382). -/
def State.sramRead (s : State) (a n : Nat) : Nat × Bool := (s.bytesAt a n, s.sramPoisoned (a / 64))

/-- Write `n` bytes at `a` of an array; only a write of a whole line clears poison (R378, R379). -/
def State.sramWrite (s : State) (q : MemReq) (src a v n : Nat) : State :=
  let line := a / 64
  let s := s.setBytes a v n
  if n == 64 && a % 64 == 0 then s.setSramPoison line false
  else s.when (s.sramPoisoned line) (fun t =>
    t.sherd kPartial .poison src q.world q.src a q.port ((2 ^ n - 1) * 2 ^ (a % 64) % 2 ^ 64))

/-- Zero fill of whole memory ranges with valid check bits (R383): nothing listed, nothing poisoned. -/
def State.wedgeArray (s : State) (lo hi : Nat) : State :=
  { s with mem := { s.mem with bytes := tabDrop s.mem.bytes lo hi, synd := tabDrop s.mem.synd (lo / 64) (hi / 64),
                               sramPoison := tabDrop s.mem.sramPoison (lo / 64) (hi / 64) } }

end Sys2Proof.Machine
end

