-- ==== Sys2Proof/Machine/Coherence.lean ====
section
/-! DEFINITION. The L2 caches, the system-level cache and the directory: requests, snoops, answers and grants (R321 to R341),
and the release of an epoch's lines that a snoop from outside forces (R450, R453). -/

namespace Sys2Proof.Machine

open Sys2Proof

/-! ### The arrays -/

/-- The key of a core's line in the L2 table. -/
def l2Key (c line : Nat) : Nat := 2 ^ 38 * c + line

def State.l2 (s : State) (c line : Nat) : Option L2Line := tabGet (fun _ => none) s.cpu.l2 (l2Key c line)

def State.setL2 (s : State) (c line : Nat) (v : Option L2Line) : State :=
  { s with cpu := { s.cpu with l2 := tabSet (fun _ => none) s.cpu.l2 (l2Key c line) v } }

def State.slcAt (s : State) (line : Nat) : Option SlcLine := tabGet (fun _ => none) s.cpu.slc line

def State.setSlc (s : State) (line : Nat) (v : Option SlcLine) : State :=
  { s with cpu := { s.cpu with slc := tabSet (fun _ => none) s.cpu.slc line v } }

def State.dirAt (s : State) (line : Nat) : DirEntry := tabGet (fun _ => DirEntry.free) s.cpu.dir line

def State.setDir (s : State) (line : Nat) (v : DirEntry) : State :=
  { s with cpu := { s.cpu with dir := tabSet (fun _ => DirEntry.free) s.cpu.dir line v } }

def State.epoch (s : State) (c : Nat) : EpochSt := tabGet (fun _ => EpochSt.init) s.guard.epoch c

def State.setEpoch (s : State) (c : Nat) (v : EpochSt) : State :=
  { s with guard := { s.guard with epoch := tabSet (fun _ => EpochSt.init) s.guard.epoch c v } }

/-- The application cluster of a core (R21). -/
def clusterOf (c : Nat) : Nat := c / 4

/-- A cluster is in epoch mode (R40). -/
def State.epochMode (s : State) (c : Nat) : Bool := s.on (EPO_CFG_EPOCH c)

/-- The home slice of a line (R323). -/
def homeSlice (line : Nat) : Nat := Nat.xor (bitsOf line 0 2) (bitsOf line 14 2)

/-- The home set of a line (R323). -/
def homeSet (line : Nat) : Nat := bitsOf line 2 12

/-- The next fill order number. -/
def State.tickAge (s : State) : State := { s with cpu := { s.cpu with age := s.cpu.age + 1 } }

/-- The lowest of `n` ways neither used nor out of service. -/
def freeWay (n : Nat) (used : List Nat) (out : Nat → Bool) : Option Nat :=
  (List.range n).find? (fun w => !used.contains w && !out w)

/-- One of several victims: pseudo-LRU does not say which, so a free value picks (log entry 16). -/
def State.pick (s : State) (l : List Nat) (d : Nat) : Nat := l.getD (s.freeNat % l.length) d

/-! ### Memory behind the home: the SLC, epoch ways and DRAM -/

/-- Whether SLC way `w` is a cache way in service (R324, R342). -/
def State.cacheWay (s : State) (w : Nat) : Bool := w < 24 && bitsOf (s.rd SLC_WAYMAP) (2 * w) 2 == 0 && !bitAt (s.get SLC_RETIRE_WAYS) w

/-- Lines of the SLC in the set of `line`, with their ways. -/
def State.slcSet (s : State) (line : Nat) : List (Nat × Nat) :=
  s.cpu.slc.filterMap (fun e => match e.2 with
    | some v => if homeSlice e.1 == homeSlice line && homeSet e.1 == homeSet line then some (e.1, v.way) else none
    | none => none)

/-- Drop a line of the SLC, writing dirty data back to DRAM. -/
def State.slcEvict (s : State) (q : MemReq) (line : Nat) : State :=
  match s.slcAt line with
  | some v => (s.setSlc line none).when v.dirty (fun t => (t.memCount 57).dramWrite q line fullMask v.data v.poison)
  | none => s

/-- Put a line into an SLC cache way (R324). With no cache way in service dirty data go to DRAM. -/
def State.slcPut (s : State) (q : MemReq) (line data : Nat) (dirty poison : Bool) : State :=
  match s.slcAt line with
  | some v => s.setSlc line (some { v with data := data, dirty := dirty || v.dirty, poison := poison })
  | none =>
    let s := s.memCount 56
    let set := s.slcSet line
    match freeWay 24 (set.map (fun e => e.2)) (fun w => !s.cacheWay w) with
    | some w => (s.setSlc line (some ⟨data, dirty, poison, w, s.cpu.age⟩)).tickAge
    | none =>
      let cand := set.filter (fun e => s.cacheWay e.2)
      if cand.isEmpty then s.when dirty (fun t => t.dramWrite q line fullMask data poison)
      else
        let v := s.pick (cand.map (fun e => e.1)) 0
        let w := ((cand.find? (fun e => e.1 == v)).map (fun e => e.2)).getD 0
        let s := s.tookFree.slcEvict q v
        (s.setSlc line (some ⟨data, dirty, poison, w, s.cpu.age⟩)).tickAge

/-- An uncommitted line that stands in an epoch way, with its cluster (R450). -/
def State.placeOf (s : State) (line : Nat) : Option (Nat × Bool) :=
  match tabGet (fun _ => none) (s.epoch 0).places line with
  | some v => some v
  | none => tabGet (fun _ => none) (s.epoch 1).places line

/-- Data of a line from memory (R329): the SLC when it holds the line, DRAM otherwise; a line kept in an epoch way from there. -/
def State.memLine (s : State) (q : MemReq) (line : Nat) : State × Nat × Bool :=
  match s.placeOf line with
  | some v => (s, v.1, v.2)
  | none => match s.slcAt line with
    | some v => (s.memCount 54, v.data, v.poison)
    | none => (s.memCount 55).dramRead q line false

/-- A device write performed at the SLC if the line is there, otherwise at DRAM (R329, R334). -/
def State.memWriteLine (s : State) (q : MemReq) (line mask data : Nat) : State :=
  match s.slcAt line with
  | some v =>
    let p := v.poison && mask != fullMask
    let s := s.setSlc line (some { v with data := mergeBytes 64 mask data v.data, dirty := true, poison := p })
    s.when p (fun t => t.sherd kPartial .poison (srcId MEM 5) q.world q.src (lineAddr line) q.port mask)
  | none => s.dramWrite q line mask data false

/-! ### Epoch release (R450, R453) -/

/-- The harts of a cluster that run. -/
def clusterHarts (c : Nat) : List Nat := [4 * c, 4 * c + 1, 4 * c + 2, 4 * c + 3]

/-- The line is uncommitted in a cluster. -/
def State.uncommitted (s : State) (c line : Nat) : Bool := (s.epoch c).lines.contains line

/-- A commit of a cluster begins: the harts and their interrupt files are copied to the checkpoint, uncommitted lines
become ordinary dirty lines, places in epoch ways are written back, the output queue is released (R453). The store
buffers are part of the checkpoint, which has the effect of draining them first. -/
def State.epochRelease (s : State) (c : Nat) (early : Bool) : State :=
  if s.get (EPO_STATUS_STATE c) != 0 then s
  else
    let e := s.epoch c
    let q : MemReq := ⟨.secure, srcId APC 8, c⟩
    let s := State.each e.places (fun p t => match p.2 with
      | some v => (t.setSlc p.1 none).dramWrite q p.1 fullMask v.1 v.2
      | none => t) s
    let harts := s.cpu.harts.filter (fun p => p.1 / 4 == c && p.1 < 8)
    let files := s.cpu.imsic.filter (fun p => p.1 / 32 == c && p.1 < 64)
    let s := s.setEpoch c { e with ckptHarts := harts, ckptImsic := files, lines := [], places := [],
                                   released := e.released ++ e.outq, outq := [], arrived := [] }
    let s := ((s.put (EPO_STATUS_STATE c) 1).put (EPO_OUTQ_USED c) 0).put (EPO_STORE_USED c) 0
    s.when early (fun t => t.inc (EPO_CNT_EARLY c) 1)

/-- A request from outside a cluster that needs an uncommitted line of it forces an early commit (R450). -/
def State.forceCommit (s : State) (line : Nat) (outsideOf : Nat → Bool) : State :=
  State.each [0, 1] (fun c t => if outsideOf c && t.uncommitted c line then t.epochRelease c true else t) s

/-! ### Giving lines up -/

/-- A hart's reservation on a line is cleared (R362). -/
def State.clearResv (s : State) (line : Nat) (who : Nat → Bool) : State :=
  { s with cpu := { s.cpu with harts := s.cpu.harts.map (fun p =>
      if p.1 < 8 && who p.1 && p.2.resv == some line then (p.1, { p.2 with resv := none }) else p) } }

/-- Remove a holder from a directory entry. -/
def dirDrop (e : DirEntry) (c : Nat) : DirEntry :=
  { e with sharers := putBits e.sharers c 1 0, owner := if e.owner == some c then none else e.owner }

/-- Dirty data of core `c`'s copy of a line leave its L2: into a cache way, or, while the line is uncommitted, into its place of the
epoch store, since an uncommitted line is never written to DRAM or to a cache way (R329, R450). -/
def State.dirtyDown (s : State) (q : MemReq) (c line data : Nat) (poison : Bool) : State :=
  if s.uncommitted (clusterOf c) line then
    let ep := s.epoch (clusterOf c)
    s.setEpoch (clusterOf c) { ep with places := tabSet (fun _ => none) ep.places line (some (data, poison)) }
  else s.slcPut q line data true poison

/-- Core `c` gives a line up: a WriteBack of M, an Evict notice of S or E. When a snoop of an open transaction is on its
way to it, the line stands in the eviction buffer and the snoop will be answered SnpEvicting (R329, R336, R450). -/
def State.giveUp (s : State) (q : MemReq) (c line : Nat) : State :=
  match s.l2 c line with
  | none => s
  | some v =>
    let s := (s.setL2 c line none).clearResv line (fun h => h == c)
    let e := s.dirAt line
    if s.uncommitted (clusterOf c) line then (s.dirtyDown q c line v.data v.poison).setDir line (dirDrop e c)
    else match e.txn with
    | some t =>
      if (t.toSnoop.map (fun p => p.1)).contains c || t.held.contains c then
        s.setDir line { e with txn := some { t with
          evict := some (c, v.st == .m), data := if v.st == .m then some (v.data, v.poison) else t.data } }
      else (s.slcPut q line v.data (v.st == .m) v.poison).setDir line (dirDrop e c)
    | none => (s.slcPut q line v.data (v.st == .m) v.poison).setDir line (dirDrop e c)

/-- Invalidate every copy of a line in L2 caches, dirty data going to an SLC cache way: a victim of the directory (R329, R337). -/
def State.backInvalidate (s : State) (q : MemReq) (line : Nat) : State :=
  let s := State.each (List.range 8) (fun c t => t.giveUp q c line) s
  s.setDir line DirEntry.free

/-- Take a line into an L2, evicting a victim that is not within its hold time (R332, R333). -/
def State.l2Install (s : State) (q : MemReq) (c line : Nat) (st : Mesi) (data : Nat) (poison : Bool) : State :=
  let s := s.setL2 c line none
  let set := s.cpu.l2.filterMap (fun e => match e.2 with
    | some v => if e.1 / 2 ^ 38 == c && e.1 % 1024 == line % 1024 then some (e.1 % 2 ^ 38, v) else none
    | none => none)
  let out (w : Nat) : Bool := bitAt (s.get (DIR_L2RET_WAYS c)) w && !s.on (DIR_L2RET_PENDING c)
  match freeWay 16 (set.map (fun p => p.2.way)) out with
  | some w => (s.setL2 c line (some ⟨st, data, poison, w, true, s.cpu.age⟩)).tickAge
  | none =>
    let free := set.filter (fun p => !p.2.hold && !out p.2.way)
    let cand := if free.isEmpty then set.filter (fun p => !out p.2.way) else free
    let v := s.pick (cand.map (fun p => p.1)) 0
    let w := ((cand.find? (fun p => p.1 == v)).map (fun p => p.2.way)).getD 0
    let s := s.tookFree.giveUp q c v
    (s.setL2 c line (some ⟨st, data, poison, w, true, s.cpu.age⟩)).tickAge

/-! ### Transactions (R327 to R329) -/

/-- The request of a requester number: L2 0 to 7, or 8 plus the domain of a device bridge port. -/
def reqMem (r : Nat) (w : World) : MemReq :=
  if r < 8 then ⟨w, srcId APC r, r / 4⟩
  else
    let d := r - 8
    ⟨w, srcId d 0, if d == TKD then 2 else if d == SEC then 3 else if d == SNS then 4 else if d == NET then 5 else if d == HST then 6 else 8⟩

/-- A requester as a number. -/
def reqNum : Requester → Nat
  | .core c => c.val
  | .dev d => 8 + d.val

/-- The holders of a line as the directory records them. -/
def dirHolders (e : DirEntry) : List Nat :=
  match e.owner with
  | some o => [o]
  | none => (List.range 8).filter (fun c => bitAt e.sharers c)

/-- The snoops a request sends (R329). -/
def snoopsFor (e : DirEntry) (r : Nat) (k : CohKind) : List (Nat × SnpKind) :=
  match k with
  | .readShared => match e.owner with
    | some o => if o == r then [] else [(o, if r < 8 then .shared else .once)]
    | none => []
  | .readUnique | .upgrade => ((dirHolders e).filter (fun c => c != r)).map (fun c => (c, .invalid))
  | .write | .stash _ => (dirHolders e).map (fun c => (c, .invalid))

/-- Entries of the directory in the set of a line, that line apart. -/
def State.dirSet (s : State) (line : Nat) : List (Nat × DirEntry) :=
  s.cpu.dir.filter (fun e => e.1 != line && homeSlice e.1 == homeSlice line && homeSet e.1 == homeSet line)

/-- The entry of a line that needs one: a free way of the set, else the least recently allocated entry without an open
transaction, which is back-invalidated (R321, R337). None when every entry of the set is open. -/
def State.dirAlloc (s : State) (q : MemReq) (line : Nat) : Option State :=
  let e := s.dirAt line
  if e.owner.isSome || e.sharers != 0 then some s
  else
    let set := s.dirSet line
    let put (w : Nat) (t : State) : State := (t.setDir line { t.dirAt line with way := w, age := t.cpu.age }).tickAge
    match freeWay 12 (set.map (fun p => p.2.way)) (fun w => bitAt (s.get DIR_RETIRE_WAYS) w) with
    | some w => some (put w s)
    | none =>
      match (set.filter (fun p => p.2.txn.isNone)).foldl (fun (b : Option (Nat × DirEntry)) p => match b with
          | none => some p
          | some x => if p.2.age < x.2.age then some p else some x) none with
      | some v => some (put v.2.way ((s.memCount 59).backInvalidate q v.1))
      | none => none

/-- Open a transaction on a line that has none open. -/
def State.cohOpen (s : State) (r : Nat) (k : CohKind) (line mask data : Nat) : State :=
  let e := s.dirAt line
  s.setDir line { e with txn := some ⟨r, k, snoopsFor e r k, [], [], none, mask, data, none, false⟩ }

/-- A snoop acts at an L2 and its answer starts back (R328, R336). -/
def State.snoopAct (s : State) (c line : Nat) (k : SnpKind) : State :=
  let e := s.dirAt line
  match e.txn with
  | none => s
  | some t =>
    let t := { t with toSnoop := t.toSnoop.filter (fun p => p.1 != c), held := t.held.filter (fun x => x != c) }
    let q := reqMem t.req .secure
    let ans (a : SnpAnswer) (d : Option (Nat × Bool)) (u : State) : State :=
      u.setDir line { u.dirAt line with txn := some { t with answers := t.answers ++ [(c, a)], data := if d.isSome then d else t.data } }
    match s.l2 c line with
    | none => if (t.evict.map (fun p => p.1)) == some c then ans .evicting none s else ans .ack none s
    | some v => match k, v.st with
      | .shared, .m => ((ans .data (some (v.data, v.poison)) s).setL2 c line (some { v with st := .s })).dirtyDown q c line v.data v.poison
      | .shared, _ => (ans .ack none s).setL2 c line (some { v with st := .s })
      | .once, .m => ans .data (some (v.data, v.poison)) s
      | .once, _ => ans .ack none s
      | .invalid, .m => ((ans .data (some (v.data, v.poison)) s).setL2 c line none).clearResv line (fun h => h == c)
      | .invalid, _ => ((ans .ack none s).setL2 c line none).clearResv line (fun h => h == c)

/-- An answer reaches the home. -/
def State.answerAct (s : State) (c line : Nat) : State :=
  let e := s.dirAt line
  match e.txn with
  | some t => s.setDir line { e with txn := some { t with answers := t.answers.filter (fun p => p.1 != c) } }
  | none => s

/-- Every snoop has been sent and answered. -/
def txnReady (t : Txn) : Bool := t.toSnoop.isEmpty && t.held.isEmpty && t.answers.isEmpty

/-- A stash finds its target able to take the line (R335): domain and core powered, fewer than 32 lines waiting. -/
def State.stashOk (s : State) (c : Nat) : Bool :=
  (s.dom APC).power == .on && s.get (ACC_STATUS_POWER c) == 1 && (s.hart c).running &&
    (tabGet (fun _ => []) s.cpu.stashq c).length < 32

/-- The data of a ready transaction: what a snoop or an eviction brought, else memory's. -/
def State.txnData (s : State) (q : MemReq) (t : Txn) (line : Nat) : State × Nat × Bool :=
  match t.data with
  | some v => (s, v.1, v.2)
  | none => s.memLine q line

/-- An L2 takes a line for writing: an SLC copy moves to it; dirty data of that copy are written to DRAM on the way (R324, log entry 17). -/
def State.slcMove (s : State) (q : MemReq) (line : Nat) : State := s.slcEvict q line

/-- A kept epoch place returns to an L2 of its cluster. -/
def State.placeTake (s : State) (line : Nat) : State :=
  State.each [0, 1] (fun c t =>
    let e := t.epoch c
    t.setEpoch c { e with places := tabDel e.places line }) s

/-- The home completes a ready transaction: the new directory state, the data granted, the writes performed (R329). A
stash whose target can take the line stays open until its StashFill (R335). -/
def State.grantAct (s : State) (line : Nat) : State :=
  let e := s.dirAt line
  match e.txn with
  | none => s
  | some t =>
    if !txnReady t || t.responded then s
    else
      let q := reqMem t.req .secure
      let gone : Option Nat := t.evict.map (fun p => p.1)
      match t.kind with
      | .readShared =>
        if t.req < 8 then
          let place := (s.placeOf line).isSome
          let (s, d, p) := s.txnData q t line
          let free := e.owner.isNone && e.sharers == 0
          if free then
            ((s.placeTake line).setDir line { s.dirAt line with owner := some t.req, sharers := 0, txn := none }).l2Install q t.req line (if place then .m else .e) d p
          else
            let keep := (dirHolders e).filter (fun c => some c != gone)
            let sh := (t.req :: keep).foldl (fun m c => putBits m c 1 1) 0
            let s := s.when (gone.isSome && t.data.isSome) (fun u => u.slcPut q line d true p)
            (s.setDir line { s.dirAt line with owner := none, sharers := sh, txn := none }).l2Install q t.req line .s d p
        else
          let s := match gone, t.data with
            | some c, some v => (s.slcPut q line v.1 true v.2).setDir line { dirDrop (s.dirAt line) c with txn := none }
            | some c, none => s.setDir line { dirDrop (s.dirAt line) c with txn := none }
            | none, _ => s.setDir line { s.dirAt line with txn := none }
          s
      | .readUnique | .upgrade =>
        let had := match s.l2 t.req line with
          | some v => if t.kind == CohKind.upgrade && bitAt e.sharers t.req then some v else none
          | none => none
        match had with
        | some v =>
          ((s.placeTake line).setDir line { s.dirAt line with owner := some t.req, sharers := 0, txn := none }).setL2 t.req line
            (some { v with st := if (s.placeOf line).isSome then .m else .e })
        | none =>
          let place := (s.placeOf line).isSome
          let (s, d, p) := s.txnData q t line
          let s := s.placeTake line
          let s := s.slcMove q line
          (s.setDir line { s.dirAt line with owner := some t.req, sharers := 0, txn := none }).l2Install q t.req line
            (if t.data.isSome || place then .m else .e) d p
      | .write =>
        let s := (s.clearResv line (fun _ => true)).setDir line DirEntry.free
        match t.data with
        | some v => s.slcPut q line (mergeBytes 64 t.wmask t.wdata v.1) true (v.2 && t.wmask != fullMask)
        | none => s.memWriteLine q line t.wmask t.wdata
      | .stash c =>
        let (s, d, p) := if t.wmask == fullMask then (s, 0, false) else s.txnData q t line
        let v := mergeBytes 64 t.wmask t.wdata d
        let s := s.clearResv line (fun _ => true)
        if s.stashOk c then
          let s := (s.memCount 60).setSlc line none
          let s := { s with cpu := { s.cpu with stashq := tabSet (fun _ => []) s.cpu.stashq c (tabGet (fun _ => []) s.cpu.stashq c ++ [line]) } }
          s.setDir line { s.dirAt line with owner := none, sharers := 0, txn := some { t with data := some (v, p), responded := true } }
        else ((s.memCount 61).setDir line DirEntry.free).slcPut q line v true p

/-- A StashFill reaches its target, which takes the line in M (R335). -/
def State.stashFillAct (s : State) (c line : Nat) : State :=
  let e := s.dirAt line
  match e.txn with
  | some t =>
    if t.responded && t.kind == CohKind.stash c then
      let (d, p) := t.data.getD (0, false)
      let s := { s with cpu := { s.cpu with stashq := tabSet (fun _ => []) s.cpu.stashq c ((tabGet (fun _ => []) s.cpu.stashq c).erase line) } }
      (s.setDir line { e with owner := some c, sharers := 0, txn := none }).l2Install (reqMem t.req .secure) c line .m d p
    else s
  | none => s

/-- The hold time of a core's copy of a line ends. -/
def State.endHold (s : State) (c line : Nat) : State :=
  match s.l2 c line with
  | some v => s.setL2 c line (some { v with hold := false })
  | none => s

/-- A request that meets an open transaction retries until it is served: the transaction runs to its end, hold times
and a forced commit included (R330, R332, R450). -/
def State.cohFinish (s : State) (line : Nat) : State :=
  match (s.dirAt line).txn with
  | none => s
  | some t =>
    let kind (c : Nat) : SnpKind := ((t.toSnoop.find? (fun p => p.1 == c)).map (fun p => p.2)).getD (match t.kind with
      | .readShared => if t.req < 8 then .shared else .once
      | _ => .invalid)
    let s := s.forceCommit line (fun c => t.req ≥ 8 || clusterOf t.req != c)
    let s := State.each (t.toSnoop.map (fun p => p.1) ++ t.held) (fun c u => (u.endHold c line).snoopAct c line (kind c)) s
    let s := State.each (List.range 8) (fun c u => u.answerAct c line) s
    let s := s.grantAct line
    match t.kind with
    | .stash c => s.stashFillAct c line
    | _ => s

/-- Serve a whole request at the home, from the state its line is in. -/
def State.cohServe (s : State) (r : Nat) (k : CohKind) (line mask data : Nat) : State :=
  let s := s.cohFinish line
  let q := reqMem r .secure
  let s := match k with
    | .readShared | .readUnique | .upgrade => if r < 8 then (s.dirAlloc q line).getD s else s
    | .stash _ => (s.dirAlloc q line).getD s
    | .write => s
  (s.cohOpen r k line mask data).cohFinish line

/-- Core `c` comes to hold a line, for writing where `unique` (R325, R329). -/
def State.l2Acquire (s : State) (c line : Nat) (unique : Bool) : State :=
  let s := s.cohFinish line
  match s.l2 c line with
  | some v => if unique && v.st == .s then s.cohServe c .upgrade line 0 0 else s
  | none => s.cohServe c (if unique then .readUnique else .readShared) line 0 0

/-- A line as an agent without caches reads it (R334): the owner's data when it holds the line in M, else memory's. -/
def State.devReadLine (s : State) (q : MemReq) (line : Nat) : State × Nat × Bool :=
  let s := (s.cohFinish line).forceCommit line (fun _ => true)
  match (s.dirAt line).owner with
  | some o => match s.l2 o line with
    | some v => if v.st == .m then (s, v.data, v.poison) else s.memLine q line
    | none => s.memLine q line
  | none => s.memLine q line

/-- A device write of a line, whole or in part (R329, R334). -/
def State.devWriteLine (s : State) (r line mask data : Nat) : State :=
  (s.forceCommit line (fun _ => true)).cohServe r .write line mask data

/-- A device write with a stash hint (R335). -/
def State.stashLine (s : State) (r c line mask data : Nat) : State :=
  (s.forceCommit line (fun _ => true)).cohServe r (.stash c) line mask data

/-- Every cached copy of a line dropped, dirty data discarded (R385). -/
def State.dropCopies (s : State) (line : Nat) : State :=
  let s := State.each (List.range 8) (fun c t => (t.setL2 c line none).clearResv line (fun h => h == c)) s
  (s.setSlc line none).setDir line DirEntry.free

/-- Every cached copy of a line written back and dropped (R413). -/
def State.flushCopies (s : State) (q : MemReq) (line : Nat) : State :=
  ((s.cohFinish line).backInvalidate q line).slcEvict q line

/-- The lines that any cache or the directory lists, in a range of addresses. -/
def State.cachedLines (s : State) (lo hi : Nat) : List Nat :=
  (s.cpu.l2.map (fun e : Nat × Option L2Line => e.1 % 2 ^ 38) ++ s.cpu.slc.map (fun e : Nat × Option SlcLine => e.1) ++
    s.cpu.dir.map (fun e : Nat × DirEntry => e.1)).filter
    (fun l : Nat => within (lineAddr l) lo hi)

/-- Write back and drop every line of an L2 before its core powers off (R341). -/
def State.l2Drain (s : State) (c : Nat) : State :=
  State.each ((s.cpu.l2.filter (fun e => e.1 / 2 ^ 38 == c)).map (fun e => e.1 % 2 ^ 38)) (fun l t =>
    (t.cohFinish l).giveUp (reqMem c .secure) c l) s

/-- APC is reset without a drain: every entry naming an L2 is freed, a line in X going to an SLC cache way marked
poisoned (R341). -/
def State.apcLost (s : State) : State :=
  State.each s.cpu.dir (fun e t =>
    let q := reqMem 0 .secure
    match e.2.owner with
    | some o =>
      let (t, d, _) := match t.l2 o e.1 with
        | some v => (t, v.data, v.poison)
        | none => t.memLine q e.1
      (t.setDir e.1 DirEntry.free).slcPut q e.1 d true true
    | none => t.setDir e.1 DirEntry.free) { s with cpu := { s.cpu with l2 := [], stashq := [] } }

end Sys2Proof.Machine
end

