-- ==== Sys2Proof/Machine/Trap.lean ====
section
/-! DEFINITION. Taking a trap and returning from one: the standard entry and return of the RISC-V privileged architecture
with the hypervisor extension (R297; log entry 18) and what the device adds (R278, R298, R362, R419). -/

namespace Sys2Proof.Machine

open Sys2Proof

/-! ### CSRs -/

/-- The identification CSRs of a hart (R272); every other CSR starts at 0 but those of R141 and R490. -/
def csrDflt (h a : Nat) : Nat :=
  if a == 0xF14 then h
  else if a == 0xF13 then 0xB0
  else if a == 0xF12 then (if h < 8 then 0x8000000000000072 else if h < 12 then 0x80000073 else 0x80000074)
  else if a == 0x7B0 then 0x40000403
  else if 0x10000 ≤ a && a % 16 == 1 then 15 * 2 ^ (hartXlen h - 4)
  else if a == 0x7C0 then (if h < 12 then 0x10 else 0)
  else if a == 0x303 then (if h < 8 then 0x1444 else 0)
  else if a == 0xC21 then (if h < 8 then 2 ^ 63 else 0)
  else if a == 0x301 then (if h < 8 then 0x80000000003411AF else if h < 12 then 0x40001104 else 0x40101104)
  else 0

/-- The stored value of a CSR. -/
def State.csr (s : State) (h a : Nat) : Nat := tabGet (csrDflt h) (s.hart h).csr a

/-- Store a CSR, cut to the hart's width. -/
def State.setCsr (s : State) (h a v : Nat) : State :=
  s.updHart h (fun t => { t with csr := tabSet (csrDflt h) t.csr a (v % 2 ^ hartXlen h) })

def csrMstatus : Nat := 0x300
def csrVsstatus : Nat := 0x200
def csrHstatus : Nat := 0x600
def csrEzsag : Nat := 0x5C1
def csrEzpm : Nat := 0x7C1
def csrEzepoch : Nat := 0x7C2

/-- The value of a mode CSR in force at the instruction about to execute (R278). -/
def State.modeVal (s : State) (h a : Nat) : Nat :=
  let t := s.hart h
  match t.modeOld.find? (fun p => p.1 == a && t.pos < p.2.2) with
  | some p => p.2.1
  | none => s.csr h a

/-- A mode CSR is written: the instruction at position `k` runs under the value of the latest write at `k - 3` or before (R278), so
the value this write replaces stays in force for the two instructions that follow, where no write before it still waits. -/
def State.setModeCsr (s : State) (h a v : Nat) : State :=
  let old := s.csr h a
  let s := s.setCsr h a v
  s.updHart h (fun t => { t with modeOld := t.modeOld.filter (fun p => decide (t.pos < p.2.2)) ++ [(a, old, t.pos + 3)] })

/-- Every mode CSR written is in force from now on: a trap or debug entry (R278). -/
def State.modesNow (s : State) (h : Nat) : State := s.updHart h (fun t => { t with modeOld := [] })

/-! ### Modes -/

/-- The mode is virtual (V = 1). -/
def virt : Priv → Bool
  | .vs | .vu => true
  | _ => false

/-- 0 U, 1 S, 3 M: the nominal privilege of a mode. -/
def privNum : Priv → Nat
  | .m => 3 | .s | .vs => 1 | .u | .vu => 0

/-- The mode of a nominal privilege and a V bit. -/
def privOf (n : Nat) (v : Bool) : Priv :=
  if n == 3 then .m else if n == 1 then (if v then .vs else .s) else (if v then .vu else .u)

/-! ### Retirement -/

/-- The counter of R513 that counts instructions retired in a mode. -/
def retiredIn : Priv → Nat
  | .m => 2 | .s => 3 | .vs => 4 | .u => 5 | .vu => 6

/-- An instruction of hart `h` retires: `minstret`, and the counters of R513. -/
def State.countRetired (s : State) (h : Nat) : State :=
  let s := s.when (!bitAt (s.csr h 0x320) 2) (fun t => t.updHart h (fun k => { k with instret := (k.instret + 1) % 2 ^ 64 }))
  let s := (s.coreCount h 1).coreCount h (retiredIn (s.hart h).priv)
  s.when (s.hartWorld h == .normal) (fun t => t.coreCount h 7)

/-- One instruction has executed and goes on at `pc`. -/
def State.retireTo (s : State) (h pc : Nat) : State :=
  (s.countRetired h).updHart h (fun t => { t with pc := pc % 2 ^ hartXlen h, pos := t.pos + 1 })

/-- One instruction has executed and the next is 4 bytes on. -/
def State.retire (s : State) (h : Nat) : State := s.retireTo h ((s.hart h).pc + 4)

/-! ### Saggar state (R419, R421) -/

/-- The hart is inside a saggar. -/
def State.inSaggar (s : State) (h : Nat) : Bool := h < 8 && bitAt (s.csr h csrEzsag) 6

/-- The saggar identifier a hart's request carries (R407). -/
def State.hartSag (s : State) (h : Nat) : Option Nat :=
  if s.inSaggar h then some (bitsOf (s.csr h csrEzsag) 0 6) else none

/-- Clear registers as the saggar's CLR says (R419). -/
def State.saggarClear (s : State) (h clr : Nat) : State :=
  let s := s.when (clr == 1 || clr == 2) (fun t => t.updHart h (fun k => { k with x := [] }))
  s.when (clr == 2) (fun t =>
    State.each [0x003, 0x008, 0xC20, 0xC21] (fun a u => u.setCsr h a 0) (t.updHart h (fun k => { k with f := [], v := [] })))

/-- The exit from a saggar that a trap or debug entry makes (R419): IN clears, LAST and LASTV are set, registers clear. -/
def State.saggarLeave (s : State) (h : Nat) : State :=
  let z := s.csr h csrEzsag
  let k := bitsOf z 0 6
  let z := putBits (putBits (putBits z 6 1 0) 8 6 k) 14 1 1
  (s.setCsr h csrEzsag z).saggarClear h (s.get (SAG_DESC_ATTR_CLR k))

/-! ### Trap entry -/

/-- Where a trap goes (log entry 18): M-mode unless delegated, HS or VS then. -/
def State.trapTarget (s : State) (h : Nat) (irq : Bool) (code : Nat) : Priv :=
  let p := (s.hart h).priv
  if h ≥ 8 || p == .m || !bitAt (s.csr h (if irq then 0x303 else 0x302)) code then .m
  else if virt p && bitAt (s.csr h (if irq then 0x603 else 0x602)) code then .vs
  else .s

/-- The address of the handler: the vector base, plus 4 times the code for a vectored interrupt. -/
def vector (tvec : Nat) (irq : Bool) (code : Nat) : Nat :=
  tvec / 4 * 4 + (if irq && tvec % 4 == 1 then 4 * code else 0)

/-- Take a trap. `cause` is the exception or interrupt code, `tval` the value for `xtval`. -/
def State.trap (s : State) (h : Nat) (irq : Bool) (code tval : Nat) : State :=
  let t := s.hart h
  let tgt := s.trapTarget h irq code
  let sag := s.inSaggar h
  let k := bitsOf (s.csr h csrEzsag) 0 6
  let epc := if sag then s.get (SAG_DESC_ENTRY_ENTRY k) else t.pc
  let tv := if sag then 0 else tval
  let s := if sag then (s.saggarLeave h).coreCount h 59 else s
  let s := ((s.modesNow h).coreCount h (if irq then 11 else 10)).when (tgt == .m) (fun u => u.coreCount h 63)
  let top := if irq then 2 ^ (hartXlen h - 1) else 0
  let s := s.updHart h (fun u => { u with resv := none, wfi := false, waitVt := none })
  match tgt with
  | .vs =>
    let c := if irq then code - 1 else code
    let m := s.csr h csrVsstatus
    let m := putBits (putBits (putBits m 5 1 (bitsOf m 1 1)) 1 1 0) 8 1 (privNum t.priv)
    let s := (((s.setCsr h 0x241 epc).setCsr h 0x242 (top + c)).setCsr h 0x243 tv).setCsr h csrVsstatus m
    s.updHart h (fun u => { u with priv := .vs, pc := vector (s.csr h 0x205) irq c })
  | .s =>
    let m := s.csr h csrMstatus
    let m := putBits (putBits (putBits m 5 1 (bitsOf m 1 1)) 1 1 0) 8 1 (privNum t.priv)
    let hs := s.csr h csrHstatus
    let hs := putBits hs 7 1 (b2n (virt t.priv))
    let hs := if virt t.priv then putBits hs 8 1 (privNum t.priv) else hs
    let s := ((((s.setCsr h 0x141 epc).setCsr h 0x142 (top + code)).setCsr h 0x143 tv).setCsr h csrMstatus m).setCsr h csrHstatus hs
    s.updHart h (fun u => { u with priv := .s, pc := vector (s.csr h 0x105) irq code })
  | _ =>
    let m := s.csr h csrMstatus
    let m := putBits (putBits (putBits m 7 1 (bitsOf m 3 1)) 3 1 0) 11 2 (privNum t.priv)
    let m := if h < 8 then putBits m 39 1 (b2n (virt t.priv)) else m
    let s := (((s.setCsr h 0x341 epc).setCsr h 0x342 (top + code)).setCsr h 0x343 tv).setCsr h csrMstatus m
    s.updHart h (fun u => { u with priv := .m, world := .secure, pc := vector (s.csr h 0x305) irq code })

/-- Exception codes of the RISC-V privileged architecture. -/
def excInstAccess : Nat := 1
def excIllegal : Nat := 2
def excLoadMisaligned : Nat := 4
def excLoadAccess : Nat := 5
def excStoreMisaligned : Nat := 6
def excStoreAccess : Nat := 7
def excVirtual : Nat := 22

/-- An exception of the instruction about to execute. -/
def State.exception (s : State) (h code tval : Nat) : State := s.trap h false code tval

/-- An illegal-instruction exception; `mtval` 0 (log entry 18). -/
def State.illegal (s : State) (h : Nat) : State := s.exception h excIllegal 0

/-! ### Return -/

/-- MRET: the mode of MPP and MPV, in the world of `ACC_WORLD.NEXT` below M-mode (R298). -/
def State.mret (s : State) (h : Nat) : State :=
  let m := s.csr h csrMstatus
  let p := if h < 8 then privOf (bitsOf m 11 2) (bitAt m 39) else if h == 12 then privOf (bitsOf m 11 2) false else .m
  let m' := putBits (putBits (putBits m 3 1 (bitsOf m 7 1)) 7 1 1) 11 2 (if h < 8 || h == 12 then 0 else 3)
  let m' := if h < 8 then putBits (if p == .m then m' else putBits m' 17 1 0) 39 1 0 else m'
  let w := if p == .m then .secure else worldOf (s.get (ACC_WORLD_NEXT h))
  let s := ((s.setCsr h csrMstatus m').retireTo h (s.csr h 0x341)).coreCount h 94
  s.updHart h (fun t => { t with priv := p, world := if h < 8 then w else t.world })

/-- SRET: from HS by `sstatus` and `hstatus`, from VS by `vsstatus`; the world does not change (R298). -/
def State.sret (s : State) (h : Nat) : State :=
  let p := (s.hart h).priv
  let s := s.coreCount h 95
  if virt p then
    let m := s.csr h csrVsstatus
    let m' := putBits (putBits (putBits m 1 1 (bitsOf m 5 1)) 5 1 1) 8 1 0
    let s := (s.setCsr h csrVsstatus m').retireTo h (s.csr h 0x241)
    s.updHart h (fun t => { t with priv := if bitAt m 8 then .vs else .vu })
  else
    let m := s.csr h csrMstatus
    let hs := s.csr h csrHstatus
    let m' := putBits (putBits (putBits (putBits m 1 1 (bitsOf m 5 1)) 5 1 1) 8 1 0) 17 1 0
    let s := ((s.setCsr h csrMstatus m').setCsr h csrHstatus (putBits hs 7 1 0)).retireTo h (s.csr h 0x141)
    s.updHart h (fun t => { t with priv := privOf (bitsOf m 8 1) (bitAt hs 7) })

end Sys2Proof.Machine
end

