-- ==== Sys2Proof/Machine/Access.lean ====
section
/-! DEFINITION. Reaching the register windows: size, ownership, hand-over, fence, and what a refusal leaves
(R11, R19, R42, R43, R60, R426, R440, R510; the register chapters for the exceptions to R43). -/

namespace Sys2Proof.Machine

open Sys2Proof

/-- What a register window answers to an access. -/
inductive RegVerdict where
  | ok
  /-- Wrong size or alignment: an access fault without a record (R11). -/
  | bad
  /-- Refused with a status, which the sherd log records (R42, R43). -/
  | refuse (st : Status)
  deriving DecidableEq, Repr

/-- The first number of the block that block number `b` of domain `d` belongs to (R23). -/
def blkFirst (d b : Nat) : Nat := if d == APC && 0x20 ≤ b && b ≤ 0x23 then 0x20 else b

/-- The block that a hand-over of block `b` names: the SNS group is handed over as one (R422). -/
def hovBlk (d b : Nat) : Nat := if d == SNS && b < 4 then 0 else blkFirst d b

/-- The block is between RESETTING and the grant of a hand-over: neither world reaches it (R426). -/
def State.hovClosed (s : State) (d b : Nat) : Bool :=
  s.world.hov.any (fun h => h.dom == d && h.blk == hovBlk d b && (h.stage == .resetting || h.stage == .reassigning))

/-- A hand-over of the block is past REQUESTED: it takes no new work (R424). -/
def State.hovBusy (s : State) (d b : Nat) : Bool :=
  s.world.hov.any (fun h => h.dom == d && h.blk == hovBlk d b && h.stage != .requested)

/-- The world pages: each is reached only from its own world (R154, R271, R436, R486, R488). -/
def pageOwner (d page : Nat) : Option World :=
  if d == TKD && page == 0x22 then some .secure
  else if d == TKD && page == 0x23 then some .normal
  else if d == HST && page == 0x22 then some .secure
  else if d == HST && page == 0x23 then some .normal
  else if d == SEC && page == 0x42 then some .secure
  else if d == SEC && page == 0x43 then some .normal
  else if d == AON && (page == 0x02 || page == 0x22) then some .secure
  else if d == AON && (page == 0x03 || page == 0x23) then some .normal
  else none

/-- Registers that both worlds read whatever world owns the block (R76, R406, R433, R486). -/
def readsBoth (a : Nat) : Bool :=
  (List.range 4).any (fun d => a / 8 == VT_NOW d / 8 || a / 8 == VT_DSEQ d / 8) ||
  (List.range 8).any (fun d => (List.range 4).any (fun k => a / 8 == HOV_OWN d k / 8)) ||
  within a (KEY_LDGPUB_QX 0) (KEY_LDGPUB_QX 0 + 0x48) ||
  [PWR_ID, PWR_STATUS, PWR_DOMSTATE].any (fun r => a / 8 == r / 8)

/-- Registers that only the secure world writes, whatever else holds (R295, R402, R466, R522). -/
def writesSecure (a : Nat) : Bool :=
  (List.range 8).any (fun c => a / 8 == ACC_RESETPC c / 8 || a / 8 == ACC_WORLD c / 8 || a / 8 == ACC_MTIMECMP c / 8) ||
  a / 8 == DMC_INJ / 8 || a / 8 == PWR_GOV / 8 || within a (CSC_KEYSTAGE 0) (CSC_KEYCMD + 8)

/-- The three core registers that the secure world reaches whatever world owns the block (R295). -/
def coreSecure (a : Nat) : Bool :=
  (List.range 8).any (fun c => a / 8 == ACC_RESETPC c / 8 || a / 8 == ACC_WORLD c / 8 || a / 8 == ACC_MTIMECMP c / 8)

/-- The counter page of a block, by the offset in its domain, and whether the block has counters (R24, R506). -/
def counterPage (d off : Nat) : Bool :=
  bitsOf off 12 4 == 0xF &&
    ((d == APC && off < 0x80000) || (d == MEM && off / 0x10000 == 3) || (d == NET && within off 0x100000 0x230000) ||
     (d == SNS && off / 0x10000 == 2))

/-- Counter rights of a hart's mode (R510): writes from M, HS or S with V = 0; lower modes read only the counters UMASK
names. Counters lie in the first half of a page. -/
def State.counterOk (s : State) (h : Nat) (write : Bool) (addr : Nat) : Bool :=
  let p := (s.hart h).priv
  let page := 0x1000 * (addr / 0x1000)
  let o := addr % 0x1000
  if write then p == .m || p == .s
  else if p == .m || p == .s then true
  else if addr / 0x1000 == 0x4602F then s.on (pmuUmask (.slice (o / 0x40)) (o % 0x40 / 4))
  else if o < 0x800 then s.on (pmuUmask (.page (page - 0xF000)) (o / 4))
  else true

/-- The normal world has been released (R60): `FIRE_STATUS.STAGE` 3. -/
def State.nwrel (s : State) : Bool := s.get FIRE_STATUS_STAGE == 3

/-- The world and ownership check of a register window (R43 and its exceptions). -/
def State.regWorldOk (s : State) (a : Agent) (write : Bool) (addr d b off : Nat) : Bool :=
  let w := s.agentWorld a
  let own := w == s.owner d (blkFirst d b) && (w == .secure || s.nwrel)
  let mode := match a with
    | .hart h => !counterPage d off || s.counterOk h.val write addr
    | _ => true
  mode && !s.hovClosed d (blkFirst d b) &&
    (match pageOwner d (off / 0x1000) with
     | some o => w == o
     | none =>
       if write && writesSecure addr then w == .secure && (coreSecure addr || own)
       else if coreSecure addr && w == .secure then true
       else if !write && readsBoth addr then true
       else if d == TKD && within off 0x24000 0x25000 then w == s.owner SNS 2 && (w == .secure || s.nwrel)
       else own)

/-- The agent is the debug module. -/
def isDap : Agent → Bool
  | .dap _ => true
  | _ => false

/-- In the unfired state the debug module reaches the FIRE_ block, and nothing else (R56). -/
def State.dapFires (s : State) (a : Agent) (d b : Nat) : Bool := isDap a && s.boot.unfired && d == AON && b == 5

/-- What a register window answers. DENIED stands above FENCED (R19, R43). -/
def State.regVerdict (s : State) (a : Agent) (write : Bool) (addr bytes : Nat) : RegVerdict :=
  if !(bytes == 4 || bytes == 8) || addr % bytes != 0 then .bad
  else match s.region addr with
    | .regs d b off =>
      if s.dapFires a d b then .ok
      else if !s.regWorldOk a write addr d b off then .refuse .denied
      else if !s.fenceOpen d then .refuse .fenced
      else .ok
    | .debug _ _ =>
      if write && (addr / 8 == DAP_SBCTL / 8 || addr / 8 == DAP_LOCKREL / 8) && !isDap a then .refuse .denied else .ok
    | _ => .bad

/-- A system bus access of the debug module ends (R494). -/
def State.sbEnd (s : State) (err : Nat) (st : Status) : State :=
  ({ s with dbgm := { s.dbgm with sberror := err } }).res DAP_STATUS_SBSTATUS st

/-- The world debug enables permit the debug module a system bus access with world `w` (R491, R494). In the unfired state only
the FIRE_ block is permitted, whatever the enables (R56). -/
def State.sbAllowed (s : State) (w : World) (write : Bool) (addr : Nat) : Bool :=
  if s.boot.unfired then addr / 0x10000 == FIRE_STATUS / 0x10000
  else bitAt s.dbgEn (2 * worldNum w) || (!write && bitAt s.dbgEn (2 * worldNum w + 1))

/-- The access fault of a hart: a load or store/AMO access fault with the address (R42, R301). -/
def State.accessFault (s : State) (h : Nat) (write : Bool) (va : Nat) : State :=
  s.exception h (if write then excStoreAccess else excLoadAccess) va

/-- An agent's register access answered with an access fault. -/
def State.regFault (s : State) (a : Agent) (write : Bool) (addr : Nat) : State :=
  match a with
  | .hart h => s.accessFault h.val write addr
  | .dap _ => s.sbEnd 2 .denied
  | .device _ _ => s

/-- A refused register access: the record, then the access fault; for the debug module `SBSTATUS` too (R494). -/
def State.regRefused (s : State) (a : Agent) (write : Bool) (addr : Nat) (st : Status) : State :=
  let s := s.sherdRefused a st (s.region addr) addr
  if isDap a then s.sbEnd 2 st else s.regFault a write addr

/-- A hart that executes instructions now: running, not in debug mode, its pair not stopped (R447)
nor about to diverge by INJECT (R461), its cluster not in a
rollback or stopped (R453, R456). -/
def State.hartRuns (s : State) (h : Nat) : Bool :=
  (s.hart h).running && s.runs (hartDom h) (hartSrc h % 256) && !(s.hart h).halted &&
    (h ≥ 8 || (!(s.on (LKS_STATUS_STOPPED (h / 2))) && !(tabGet (fun _ => false) s.guard.inject (h / 2)) && (!s.epochMode (clusterOf h) || s.get (EPO_STATUS_STATE (clusterOf h)) == 0)))

/-- The agent is able to make accesses: a running hart, a device of a domain out of reset, the debug
module with AON, while it is active and in the world `DAP_SBCTL` gives it. -/
def State.agentLive (s : State) : Agent → Bool
  | .hart h => (s.hart h.val).running && s.outOfReset (hartDom h.val)
  | .dap w => s.outOfReset AON && s.dbgm.active && worldOf (s.get DAP_SBCTL_WORLD) == w
  | .device src _ => s.outOfReset (src.toNat / 256 % 8)

/-- An access to the register at `addr`: carried out by `f` when the window permits it, else refused. -/
def State.regAccess (s : State) (a : Agent) (write : Bool) (addr bytes : Nat) (f : State → State) : State :=
  if !s.agentLive a then s
  else if isDap a && !s.sbAllowed (s.agentWorld a) write addr then s.sbEnd 7 .denied
  else match s.regVerdict a write addr bytes with
    | .ok => if isDap a then (f s).sbEnd 0 .ok else f s
    | .bad => s.regFault a write addr
    | .refuse st => s.regRefused a write addr st

/-- Address and size of a read of a 64-bit register, whole or by halves (R557). -/
def halfAddr (reg : Nat) (h : Half) : Nat := if h == .high then reg + 4 else reg
def halfSize (h : Half) : Nat := if h == .full then 8 else 4

/-- A read of a 64-bit register with a read side effect `f`, and what it returns: the low half performs the effect and latches
the high half; the high half returns the latch (R557). -/
def State.readEffect (s : State) (reg : Nat) (half : Half) (f : State → State × Nat) : State × Nat :=
  match half with
  | .full => f s
  | .low =>
    let (t, v) := f s
    ({ t with latch := tabSet (fun _ => none) t.latch reg (some (v / 2 ^ 32)) }, v % 2 ^ 32)
  | .high => (s, (tabGet (fun _ => none) s.latch reg).getD 0)

/-- The half of a command register stored by an earlier 32-bit write returns to 0 (R558). -/
def State.unstaged (s : State) (reg : Nat) : State := { s with staged := tabSet (fun _ => none) s.staged reg none }

/-- A read by this agent has the debug attribute: no side effect (R495). -/
def State.debugRead (s : State) (a : Agent) : Bool :=
  match a with
  | .hart h => (s.hart h.val).halted
  | .dap _ => true
  | .device _ _ => false

/-- The command of such a read. -/
def State.readCmd (s : State) (a : Agent) (reg : Nat) (half : Half) (f : State → State × Nat) : State :=
  s.regAccess a false (halfAddr reg half) (halfSize half) (fun t => if t.debugRead a then t else (t.readEffect reg half f).1)

end Sys2Proof.Machine
end

