-- ==== Sys2Proof/Machine/CacheCmds.lean ====
section
/-! DEFINITION. The commands of the coherent mesh: requests, snoops, answers, retries, hold times, stash fills, and the
registers of the directory and of the system-level cache (R321 to R346). -/

namespace Sys2Proof.Machine

open Sys2Proof

/-- The L2 that stands for a core: the even core's in a fused pair (R326, R293). -/
def State.l2Of (s : State) (c : Nat) : Nat := if s.fused c then c - c % 2 else c

/-- A requester as a number, a fused pair as its even core. -/
def State.reqOf (s : State) : Requester → Nat
  | .core c => s.l2Of c.val
  | .dev d => 8 + d.val

/-- The line lies in DRAM, the memory the directory covers. -/
def lineCoherent (line : Nat) : Bool := within (lineAddr line) dramBase dramEnd

/-- The requester can send: its domain is out of reset, a core runs or at least is powered. -/
def State.reqLive (s : State) (r : Nat) : Bool := if r < 8 then s.outOfReset APC else s.outOfReset (r - 8)

/-- The refusal of requests by NACK, counted, with the entry into the reservation queue (R330, R331). -/
def State.nack (s : State) (r : Nat) (k : CohKind) (line mask data : Nat) : State :=
  let old := s.cpu.nacks.find? (fun n => n.req == r && n.line == line)
  let n := (old.map (fun n => n.count)).getD 0 + 1
  let rest := s.cpu.nacks.filter (fun n => !(n.req == r && n.line == line))
  let s := { s with cpu := { s.cpu with nacks := rest ++ [NackReq.mk r line k mask data n] } }
  let s := ((s.inc DIR_NACKCNT_COUNT 1).memCount 58).coreCount r 39
  let q := tabGet (fun _ => []) s.cpu.resvq (homeSlice line)
  let after := s.get DIR_CTL_RESV_AFTER
  if after == 0 || n < after || q.contains (r, line) then s
  else if q.length < 16 then
    let s := { s with cpu := { s.cpu with resvq := tabSet (fun _ => []) s.cpu.resvq (homeSlice line) (q ++ [(r, line)]) } }
    ((s.inc DIR_RESVCNT_RESERVED 1).memCount 62).coreCount r 41
  else (s.raise DIR_IRQ_STATUS_RESVFULL 1).inc DIR_RESVCNT_RESVFULL 1

/-- The oldest reserved requester for a line, if any. -/
def State.resvFirst (s : State) (line : Nat) : Option Nat :=
  ((tabGet (fun _ => []) s.cpu.resvq (homeSlice line)).find? (fun p => p.2 == line)).map (fun p => p.1)

/-- A request is accepted: its NACKs and its reservation end. -/
def State.cohAccept (s : State) (r line : Nat) : State :=
  let q := tabGet (fun _ => []) s.cpu.resvq (homeSlice line)
  { s with cpu := { s.cpu with nacks := s.cpu.nacks.filter (fun n => !(n.req == r && n.line == line)),
                               resvq := tabSet (fun _ => []) s.cpu.resvq (homeSlice line) (q.erase (r, line)) } }

/-- Outside whose clusters a request is made: an epoch-mode line standing in an epoch way of another cluster forces the
commit before it is served (R450). -/
def State.placeCommit (s : State) (r line : Nat) : State :=
  State.each [0, 1] (fun c t =>
    if (r ≥ 8 || clusterOf r != c) && t.uncommitted c line && (tabGet (fun _ => none) (t.epoch c).places line).isSome then
      t.epochRelease c true else t) s

/-- A request reaches the home of its line (R329, R330, R331, R337). -/
def State.cohRequest (s : State) (r : Nat) (k : CohKind) (line mask data : Nat) : State :=
  if !lineCoherent line || !s.reqLive r then s
  else if !s.fenceOpen MEM then
    let q := reqMem r .secure
    s.sherd kFenced .fenced (srcId MEM 0) q.world q.src (lineAddr line) q.port MEM
  else if (s.dirAt line).txn.isSome then s.nack r k line mask data
  else if (s.resvFirst line).isSome && s.resvFirst line != some r then s.nack r k line mask data
  else
    let need := match k with
      | .write => false
      | .readShared => r < 8
      | _ => true
    match (if need then s.dirAlloc (reqMem r .secure) line else some s) with
    | none => s.nack r k line mask data
    | some t => ((t.placeCommit r line).cohAccept r line).cohOpen r k line mask data

/-- ReadShared (R327, R329): from an L2 that lacks the line, or from a device bridge port. -/
def State.readShared (s : State) (r : Requester) (line : Nat) : State :=
  let n := s.reqOf r
  if n < 8 && (s.l2 n line).isSome then s else (s.coreCount n 33).cohRequest n .readShared line 0 0

def execReadShared (r : Requester) (line : LineNo) (s : State) : Ans := .next (s.readShared r line.toNat)

/-- ReadUnique (R327, R329): from an L2 that does not own the line; with WRITE from a device bridge port. -/
def State.readUnique (s : State) (r : Requester) (line mask data : Nat) : State :=
  let n := s.reqOf r
  if n < 8 then
    match s.l2 n line with
    | some v => if v.st == .s then s.cohRequest n .readUnique line 0 0 else s
    | none => (s.coreCount n 33).cohRequest n .readUnique line 0 0
  else s.cohRequest n .write line mask data

def execReadUnique (r : Requester) (line : LineNo) (mask : BitVec 64) (data : BitVec 512) (s : State) : Ans :=
  .next (s.readUnique r line.toNat mask.toNat data.toNat)

/-- Upgrade (R327, R338): for a line the L2 does not hold for writing. -/
def State.upgrade (s : State) (c line : Nat) : State :=
  match s.l2 c line with
  | some v => if v.st == .s then s.cohRequest c .upgrade line 0 0 else s
  | none => s.cohRequest c .upgrade line 0 0

def execUpgrade (c : AppCore) (line : LineNo) (s : State) : Ans := .next (s.upgrade (s.l2Of c.val) line.toNat)

/-- An eviction the L2 starts (R329, R330, R333): a line within its hold time is not chosen; on an open line whose
transaction has sent this L2 no snoop the notice receives NACK. -/
def State.l2Evict (s : State) (c line : Nat) (dirty : Bool) : State :=
  match s.l2 c line with
  | none => s
  | some v =>
    if (v.st == .m) != dirty || v.hold then s
    else match (s.dirAt line).txn with
      | some t =>
        if (t.toSnoop.map (fun p => p.1)).contains c || t.held.contains c then
          (s.coreCount c (if dirty then 34 else 35)).giveUp (reqMem c .secure) c line
        else ((s.inc DIR_NACKCNT_COUNT 1).memCount 58).coreCount c 39
      | none => (s.coreCount c (if dirty then 34 else 35)).giveUp (reqMem c .secure) c line

def execWriteback (c : AppCore) (line : LineNo) (s : State) : Ans := .next (s.l2Evict (s.l2Of c.val) line.toNat true)

def execEvictNotice (c : AppCore) (line : LineNo) (s : State) : Ans := .next (s.l2Evict (s.l2Of c.val) line.toNat false)

/-- A stash hint (R335, R339): only a device bridge port sends one; for an L2 it is no request. -/
def execStashHint (r : Requester) (core : AppCore) (line : LineNo) (mask : BitVec 64) (data : BitVec 512) (s : State) : Ans :=
  match r with
  | .core _ => .next s
  | .dev d => .next (s.cohRequest (8 + d.val) (.stash (s.l2Of core.val)) line.toNat mask.toNat data.toNat)

/-- A snoop reaches its L2 (R328, R332, R450): within the hold time it waits for its end; for an uncommitted line and a
requester outside the cluster it forces an early commit and waits for that. -/
def State.snoopReach (s : State) (c line : Nat) (k : SnpKind) : State :=
  let e := s.dirAt line
  match e.txn with
  | none => s
  | some t =>
    if !t.toSnoop.contains (c, k) then s
    else
      let s := s.coreCount c 36
      let out := t.req ≥ 8 || clusterOf t.req != clusterOf c
      let hold := match s.l2 c line with
        | some v => v.hold
        | none => false
      let wait (u : State) : State :=
        u.setDir line { e with txn := some { t with toSnoop := t.toSnoop.filter (fun p => p.1 != c), held := t.held ++ [c] } }
      if out && s.uncommitted (clusterOf c) line then ((wait s).epochRelease (clusterOf c) true).coreCount c 69
      else if hold then (wait s).coreCount c 38
      else
        let s := s.when (match s.l2 c line with
          | some v => v.st == .m
          | none => false) (fun u => u.coreCount c 37)
        s.snoopAct c line k

def execSnpShared (c : AppCore) (line : LineNo) (s : State) : Ans := .next (s.snoopReach (s.l2Of c.val) line.toNat .shared)

def execSnpOnce (c : AppCore) (line : LineNo) (s : State) : Ans := .next (s.snoopReach (s.l2Of c.val) line.toNat .once)

def execSnpInvalid (c : AppCore) (line : LineNo) (s : State) : Ans := .next (s.snoopReach (s.l2Of c.val) line.toNat .invalid)

/-- The answer of an L2 to a snoop reaches the home (R327, R336). -/
def execSnoopResponse (c : AppCore) (line : LineNo) (s : State) : Ans := .next (s.answerAct (s.l2Of c.val) line.toNat)

/-- A StashFill reaches its target, which never refuses it (R335). -/
def execStashFill (c : AppCore) (line : LineNo) (s : State) : Ans :=
  .next ((s.stashFillAct (s.l2Of c.val) line.toNat).when
    (match (s.dirAt line.toNat).txn with
     | some t => t.responded && t.kind == CohKind.stash (s.l2Of c.val)
     | none => false) (fun t => t.coreCount (s.l2Of c.val) 42))

/-- Data or Comp is sent for a transaction whose snoops are all answered, and the entry closes (R327, R329). -/
def execCoherentResponse (line : LineNo) (s : State) : Ans := .next (s.grantAct line.toNat)

/-- The retry of a request that received NACK (R330). -/
def State.nackRetry (s : State) (r line : Nat) : State :=
  match s.cpu.nacks.find? (fun n => n.req == r && n.line == line) with
  | none => s
  | some n => (s.coreCount r 40).cohRequest r n.kind line n.wmask n.wdata

def execNackRetry (r : Requester) (line : LineNo) (s : State) : Ans := .next (s.nackRetry (s.reqOf r) line.toNat)

/-- The 64 cycles of the oldest reserved requester of a closed line pass: its reservation ends (R331). -/
def State.resvExpire (s : State) (slice : Nat) : State :=
  let q := tabGet (fun _ => []) s.cpu.resvq slice
  match q.find? (fun p => (s.dirAt p.2).txn.isNone) with
  | some p => { s with cpu := { s.cpu with resvq := tabSet (fun _ => []) s.cpu.resvq slice (q.erase p) } }
  | none => s

def execReservationWindowExpire (slice : Fin 4) (s : State) : Ans := .next (s.resvExpire slice.val)

/-- The kind of snoop a waiting transaction sent. -/
def txnSnoop (t : Txn) : SnpKind :=
  match t.kind with
  | .readShared => if t.req < 8 then .shared else .once
  | _ => .invalid

/-- The hold time of a line ends and a snoop that waited for it is answered (R332). A snoop that waits for a commit of the
cluster waits on. -/
def State.holdExpire (s : State) (c line : Nat) : State :=
  let s := s.endHold c line
  match (s.dirAt line).txn with
  | some t =>
    if t.held.contains c && s.get (EPO_STATUS_STATE (clusterOf c)) == 0 then s.snoopAct c line (txnSnoop t) else s
  | none => s

def execHoldTimeExpire (c : AppCore) (line : LineNo) (s : State) : Ans := .next (s.holdExpire (s.l2Of c.val) line.toNat)

/-! ### Registers of the directory and of the SLC -/

/-- A lookup through `DIR_INSP_ADDR`: one snapshot of the entry (R345). -/
def State.dirLookup (s : State) (line : Nat) : State :=
  let e := s.dirAt line
  let state := if e.owner.isSome then 2 else if e.sharers != 0 then 1 else 0
  let slc := s.slcAt line
  let v := packBits [(0, 1, b2n (state != 0)), (1, 1, b2n e.txn.isSome), (2, 2, state), (4, 8, e.sharers), (12, 3, e.owner.getD 0),
    (16, 2, homeSlice line), (18, 12, homeSet line), (30, 4, if state == 0 then 0 else e.way), (34, 1, b2n slc.isSome),
    (35, 1, b2n ((slc.map (fun v => v.dirty)).getD false)), (36, 1, b2n ((slc.map (fun v => v.poison)).getD false))]
  (s.put DIR_INSP_ADDR_LINE line).wr DIR_INSP_RES v

def execDirInspect (a : Agent) (line : LineNo) (s : State) : Ans :=
  .next (s.regAccess a true DIR_INSP_ADDR 8 (fun t => t.dirLookup line.toNat))

/-- Cache ways that stay in service when `ways` are out. -/
def State.waysLeft (s : State) (kind ways : Nat) : Nat :=
  ((List.range 24).filter (fun w => bitsOf (s.rd SLC_WAYMAP) (2 * w) 2 == kind && !bitAt ways w)).length

/-- The epoch ways of a cluster (R449): all of them for the only cluster in epoch mode, else dealt in ascending order. -/
def State.epochWays (s : State) (c : Nat) : List Nat :=
  let l := (List.range 24).filter (fun w => bitsOf (s.rd SLC_WAYMAP) (2 * w) 2 == 1)
  if !s.epochMode c then []
  else if s.epochMode (1 - c) then (l.zipIdx.filter (fun p => p.2 % 2 == c)).map (fun p => p.1)
  else l

/-- A write of `SLC_RETIRE`, judged whole (R342). -/
def State.slcRetire (s : State) (ways : Nat) : State :=
  let all := Nat.lor (s.get SLC_RETIRE_WAYS) ways
  let st := firstThat [
    (s.on SLC_RET_RES_BUSY || s.on SLC_RET_RES_EPOCHWAIT, .unavailable),
    ((List.range 24).any (fun w => bitAt ways w && s.scratchWay w), .denied),
    (decide (s.waysLeft 0 all < 4), .denied),
    ([0, 1].any (fun c => s.epochMode c && (s.epochWays c).all (fun w => bitAt all w)), .denied)] .ok
  let s := s.res SLC_RET_RES_STATUS st
  if st == .ok then
    let new := all - s.get SLC_RETIRE_WAYS
    let ep := (List.range 24).any (fun w => bitAt new w && bitsOf (s.rd SLC_WAYMAP) (2 * w) 2 == 1)
    let s := ((s.put SLC_RETIRE_WAYS all).put SLC_RET_RES_BUSY 1).put SLC_RET_RES_EPOCHWAIT (b2n ep)
    { s with cpu := { s.cpu with retiring := s.cpu.retiring ++ [(1, 0, new)] } }
  else s

def execSlcRetire (a : Agent) (ways : BitVec 24) (s : State) : Ans :=
  .next (s.regAccess a true SLC_RETIRE 4 (fun t => t.slcRetire ways.toNat))

/-- A write of `DIR_L2RETa` (R343): ignored for the odd core of a fused pair; the even core's applies to both caches. -/
def State.l2Retire (s : State) (c ways : Nat) : State :=
  if s.fused c && c % 2 == 1 then s
  else
    let all := Nat.lor (s.get (DIR_L2RET_WAYS c)) ways
    if 4 < popCount 16 all then s.res (DIR_L2RET_STATUS c) .denied
    else
      let new := all - s.get (DIR_L2RET_WAYS c)
      State.each (if s.fused c then [c, c + 1] else [c]) (fun d t =>
        let t := (t.res (DIR_L2RET_STATUS d) .ok).put (DIR_L2RET_WAYS d) all
        if t.get (ACC_STATUS_POWER d) == 0 then t.put (DIR_L2RET_PENDING d) 1
        else
          let t := t.put (DIR_L2RET_BUSY d) 1
          { t with cpu := { t.cpu with retiring := t.cpu.retiring ++ [(0, d, new)] } }) s

def execL2WayRetire (a : Agent) (c : AppCore) (ways : BitVec 16) (s : State) : Ans :=
  .next (s.regAccess a true (DIR_L2RET c.val) 4 (fun t => t.l2Retire c.val ways.toNat))

/-- A write of `DIR_RETIRE` (R344). -/
def State.dirRetire (s : State) (ways : Nat) : State :=
  let all := Nat.lor (s.get DIR_RETIRE_WAYS) ways
  if 4 < popCount 12 all then s.res DIR_RETIRE_STATUS .denied
  else
    let new := all - s.get DIR_RETIRE_WAYS
    let s := ((s.res DIR_RETIRE_STATUS .ok).put DIR_RETIRE_WAYS all).put DIR_RETIRE_BUSY 1
    { s with cpu := { s.cpu with retiring := s.cpu.retiring ++ [(2, 0, new)] } }

def execDirWayRetire (a : Agent) (ways : BitVec 12) (s : State) : Ans :=
  .next (s.regAccess a true DIR_RETIRE 4 (fun t => t.dirRetire ways.toNat))

/-- A retirement completes: the lines of its ways have left them (R342 to R344). -/
def State.retireDone (s : State) : State :=
  match s.cpu.retiring with
  | [] => s
  | (kind, c, ways) :: rest =>
    let s := { s with cpu := { s.cpu with retiring := rest } }
    let q := reqMem c .secure
    let s :=
      if kind == 0 then
        (State.each (s.cpu.l2.filter (fun e => e.1 / 2 ^ 38 == c && (match e.2 with
          | some v => bitAt ways v.way
          | none => false))) (fun e t => (t.cohFinish (e.1 % 2 ^ 38)).giveUp q c (e.1 % 2 ^ 38)) s).put (DIR_L2RET_BUSY c) 0
      else if kind == 1 then
        (State.each (s.cpu.slc.filter (fun e => match e.2 with
          | some v => bitAt ways v.way
          | none => false)) (fun e t => t.slcEvict q e.1) s).put SLC_RET_RES_BUSY 0
      else
        (State.each (s.cpu.dir.filter (fun e => bitAt ways e.2.way && (e.2.owner.isSome || e.2.sharers != 0))) (fun e t =>
          (t.cohFinish e.1).backInvalidate q e.1) s).put DIR_RETIRE_BUSY 0
    s.raise DIR_IRQ_STATUS_RETDONE 1

def execRetirementDone (s : State) : Ans := .next s.retireDone

end Sys2Proof.Machine
end

