-- ==== Sys2Proof/Machine/Msi.lean ====
section
/-! DEFINITION. Interrupts: IMSIC files, local controllers, MSIs, vectors, the APLIC domains and the timer compares
(R37, R204, R310 to R320). The layout of the APLIC and IMSIC registers is that of the RISC-V Advanced Interrupt
Architecture (log entry 19). -/

namespace Sys2Proof.Machine

open Sys2Proof

/-! ### IMSIC files -/

/-- An interrupt file at reset (log entry 19). -/
def ImsicFile.init : ImsicFile := ⟨0, 0, 0, 0⟩

/-- File `f` of hart `h`: 0 machine, 1 supervisor, 2 to 6 guest 1 to 5; an odd core of a fused pair has the even core's (R293). -/
def State.imsicKey (s : State) (h f : Nat) : Nat := 8 * s.l2Of h + f

def State.imsic (s : State) (h f : Nat) : ImsicFile := tabGet (fun _ => ImsicFile.init) s.cpu.imsic (s.imsicKey h f)

def State.setImsic (s : State) (h f : Nat) (v : ImsicFile) : State :=
  { s with cpu := { s.cpu with imsic := tabSet (fun _ => ImsicFile.init) s.cpu.imsic (s.imsicKey h f) v } }

/-- The identity a file presents: the lowest pending and enabled one below the threshold, while delivery is enabled. -/
def State.imsicTop (s : State) (h f : Nat) : Option Nat :=
  let v := s.imsic h f
  if v.eidelivery != 1 then none
  else match lowestSet 2048 (Nat.land v.eip v.eie) with
    | some i => if v.eithreshold == 0 || i < v.eithreshold then some i else none
    | none => none

/-- The world a file belongs to (R315, R319). -/
def State.fileWorld (s : State) (h f : Nat) : World :=
  if f == 0 then .secure else worldOf (s.get (ACC_WORLD_NEXT (s.l2Of h)))

/-! ### Local controllers (R316) -/

/-- Pending and enable fields of local controller `n`: TK0 to TK3, and 4 the warden core. -/
def licPend (n : Nat) : Fld := if n < 4 then TKC_IPEND_PEND n else WDN_IPEND_PEND
def licEn (n : Nat) : Fld := if n < 4 then TKC_IEN_EN n else WDN_IEN_EN

/-- The world of a local controller (R315). -/
def State.licWorld (s : State) (n : Nat) : World := if n < 4 then s.owner TKD (4 + n) else .secure

/-- The block of a local controller. -/
def licSrc (n : Nat) : Nat := if n < 4 then srcId TKD (4 + n) else srcId SEC 0

/-- The lowest pending and enabled line (1 to 63), or 0. -/
def State.licTop (s : State) (n : Nat) : Nat :=
  match lowestSet 63 (Nat.land (s.get (licPend n)) (s.get (licEn n))) with
  | some i => i + 1
  | none => 0

/-! ### Pending interrupts of a hart -/

def State.timerDue (s : State) (h : Nat) : Bool := h < 8 && decide (s.rd (ACC_MTIMECMP h) ≤ s.mtime)

/-- `mip` of a hart (R316, R320; log entry 19): external bits from the files, timer bits from the compares, the rest as
written by software. -/
def State.mip (s : State) (h : Nat) : Nat :=
  if h < 8 then
    let soft := s.csr h 0x344
    let ext (f : Nat) : Bool := (s.imsicTop h f).isSome
    let vgein := bitsOf (s.csr h 0x600) 12 6
    let stce := bitAt (s.csr h 0x30A) 63
    let vstce := bitAt (s.csr h 0x60A) 63
    let gip := (List.range 5).any (fun g => ext (2 + g) && bitAt (s.csr h 0x607) (g + 1))
    packBits [(1, 1, bitsOf soft 1 1), (2, 1, bitsOf (s.csr h 0x645) 2 1),
      (5, 1, b2n (if stce then decide (s.csr h 0x14D ≤ s.mtime) else bitAt soft 5)),
      (6, 1, b2n (bitAt (s.csr h 0x645) 6 || (stce && vstce && decide (s.csr h 0x24D ≤ (s.mtime + s.csr h 0x605) % 2 ^ 64)))),
      (7, 1, b2n (s.timerDue h)),
      (9, 1, b2n (ext 1 || bitAt soft 9)),
      (10, 1, b2n (bitAt (s.csr h 0x645) 10 || (1 ≤ vgein && vgein ≤ 5 && ext (1 + vgein)))),
      (11, 1, b2n (ext 0)), (12, 1, b2n gip), (13, 1, bitsOf soft 13 1)]
  else packBits [(11, 1, b2n (s.licTop (h - 8) != 0))]

/-- An interrupt of a hart is pending and enabled, whatever the global enables say: it ends WFI (R284, R474). -/
def State.irqWaiting (s : State) (h : Nat) : Bool := Nat.land (s.mip h) (s.csr h 0x304) != 0

/-- A hart in WFI wakes when an interrupt becomes pending and enabled; a retained core's clock starts again (R474). -/
def State.irqWake (s : State) (h : Nat) : State :=
  if (s.hart h).wfi && s.irqWaiting h then
    let s := s.updHart h (fun t => { t with wfi := false })
    s.when (h < 8 && s.get (ACC_STATUS_POWER h) == 1 && !(s.hart h).running) (fun t => (t.updHart h (fun u => { u with running := true })).put (PWR_S_CORE_STATE h) 0)
  else s

/-! ### MSIs -/

/-- Refusal of an MSI: not written, DENIED recorded (R204, R314, R315, R316). -/
def State.msiRefused (s : State) (w : World) (block requester addr : Nat) : State :=
  s.sherd kRefusedWorld .denied block w requester addr 0xF 0

/-- The address of a file (R37). -/
def imsicAddr (h f : Nat) : Nat := if f == 0 then 0x43100000 + 0x1000 * h else 0x43200000 + 0x8000 * h + 0x1000 * (f - 1)

/-- An interrupt that reaches a cluster in epoch mode outlives a rollback (R454). -/
def State.noteArrival (s : State) (h f eiid : Nat) : State :=
  let c := clusterOf h
  if s.epochMode c then
    let e := s.epoch c
    let k := s.imsicKey h f
    s.setEpoch c { e with arrived := tabSet (fun _ => 0) e.arrived k (putBits (tabGet (fun _ => 0) e.arrived k) eiid 1 1) }
  else s

/-- Deliver identity `eiid` to file `f` of hart index `h` for a sender of world `w` and source `src` (R314 to R316). The
flag says whether it was written. -/
def State.msiTo (s : State) (w : World) (src h f eiid : Nat) : State × Bool :=
  if h < 8 then
    if s.fileWorld h f != w then (s.msiRefused w (srcId APC (if f == 0 then 0x10 else 0x20)) src (imsicAddr h f), false)
    else if !s.fenceOpen APC then
      (s.sherd kFenced .fenced (srcId APC (if f == 0 then 0x10 else 0x20)) w src (imsicAddr h f) 0xF APC, false)
    else if eiid == 0 || 2048 ≤ eiid || 7 ≤ f then (s, false)
    else
      let v := s.imsic h f
      ((s.setImsic h f { v with eip := putBits v.eip eiid 1 1 }).noteArrival h f eiid |>.irqWake h, true)
  else if h < 13 then
    let n := h - 8
    let d := if n < 4 then TKD else SEC
    if s.licWorld n != w then (s.msiRefused w (licSrc n) src (if n < 4 then TKC_MSG n else WDN_MSG), false)
    else if !s.fenceOpen d then (s.sherd kFenced .fenced (licSrc n) w src (if n < 4 then TKC_MSG n else WDN_MSG) 0xF d, false)
    else if 64 ≤ eiid then (s.msiRefused w (licSrc n) src (if n < 4 then TKC_MSG n else WDN_MSG), false)
    else if eiid == 0 then (s, false)
    else ((s.raise (licPend n) (2 ^ (eiid - 1))).irqWake h, true)
  else (s.msiRefused w src src 0, false)

/-- The file and its hart that an address names, with the byte order of the register written: offset 0 little-endian,
offset 4 big-endian (log entry 19). -/
def msiTarget (a : Nat) : Option (Nat × Nat × Nat) :=
  if within a 0x43100000 0x43108000 then some ((a - 0x43100000) / 0x1000, 0, a % 0x1000)
  else if within a 0x43200000 0x43240000 then some ((a - 0x43200000) / 0x8000, 1 + (a - 0x43200000) % 0x8000 / 0x1000, a % 0x1000)
  else match (List.range 4).find? (fun n => a == TKC_MSG n) with
    | some n => some (8 + n, 0, 0)
    | none => if a == WDN_MSG then some (12, 0, 0) else none

/-- A 32-bit write to an interrupt file's page or to a message register (R37, R318). -/
def State.msiWrite (s : State) (w : World) (src a data : Nat) : State :=
  match msiTarget a with
  | some (h, f, o) =>
    if h < 8 && 7 ≤ f then s
    else if o == 0 then (s.msiTo w src h f data).1
    else if o == 4 then (s.msiTo w src h f (beNat (leBytes 4 data))).1
    else if s.fileWorld h f != w then s.msiRefused w (srcId APC (if f == 0 then 0x10 else 0x20)) src a
    else s
  | none => s

def execMsiWrite (w : World) (addr : PAddr) (data : BitVec 32) (s : State) : Ans :=
  .next (s.msiWrite w 0xFFFF addr.toNat data.toNat)

/-! ### Vectors (R204) -/

/-- A vector register sends its MSI: hart [3:0], file [6:4], EN [7], EIID [18:8]. The flag says whether it was written. -/
def State.vecSend (s : State) (w : World) (src vec : Nat) : State × Bool :=
  let v := s.rd vec
  if !bitAt v 7 then (s, false)
  else
    let h := bitsOf v 0 4
    let eiid := bitsOf v 8 11
    if eiid == 0 || 12 ≤ h then (s.msiRefused w src src 0, false)
    else s.msiTo w src h (if h < 8 then bitsOf v 4 3 else 0) eiid

/-- Carry out `f`; where it makes the summary rise, send the vector (R204). -/
def State.withVec (s : State) (summary : State → Bool) (w : World) (src vec : Nat) (f : State → State) : State :=
  let t := f s
  if !summary s && summary t then (t.vecSend w src vec).1 else t

/-! ### Wired sources (R313) -/

/-- The block that raises a source: domain and block number. -/
def sourceBlock (i : Nat) : Nat × Nat :=
  if i ≤ 6 then (AON, i - 1) else if within i 8 16 then (SEC, i - 8) else if i ≤ 17 then (TKD, i - 16)
  else if i ≤ 19 then (TKD, 2) else if i ≤ 23 then (TKD, 4 + (i - 20)) else if i ≤ 25 then (APC, 8 + (i - 24))
  else if i ≤ 33 then (APC, 0xA) else if i ≤ 39 then (MEM, i - 34) else if i ≤ 43 then (NET, i - 40)
  else if i ≤ 60 then (NET, 0x10 + (i - 44)) else if i == 61 then (SNS, 0) else if i == 64 then (HST, 0)
  else if within i 65 69 then (HST, 1) else if i ≤ 70 then (HST, 2 + (i - 69)) else (AON, 0xF1)

/-- The numbers of R313 that name a source. -/
def sourceExists (i : Nat) : Bool :=
  within i 1 7 || within i 8 62 || within i 64 71 || i == 72

/-- A status and its enables. -/
def State.summary (s : State) (st en : Nat) : Bool := Nat.land (s.rd st) (s.rd en) != 0

/-- The level of a source: the summary of its block's interrupt status and enable registers. Sources whose block has no
interrupt registers in the manual stay low. -/
def State.sourceLevel (s : State) (i : Nat) : Bool :=
  match i with
  | 3 => s.summary (SUP_W_IRQ_STATUS 0) (SUP_W_IRQ_EN 0) || s.summary (SUP_W_IRQ_STATUS 1) (SUP_W_IRQ_EN 1)
  | 4 => s.summary AOT_IRQ_STATUS AOT_IRQ_EN
  | 10 => s.summary WMK_IRQ_STATUS WMK_IRQ_EN
  | 12 => s.summary (HOV_W_IRQ_STATUS 0) (HOV_W_IRQ_EN 0) || s.summary HOV_S_IRQ_STATUS HOV_S_IRQ_EN
  | 13 => s.summary SWD_IRQ_STATUS SWD_IRQ_EN
  | 16 => s.summary VT_IRQ_STATUS VT_IRQ_EN
  | 17 => s.summary TP_IRQ_STATUS TP_IRQ_EN
  | 18 => s.summary (TWH_W_IRQ_STATUS 0) (TWH_W_IRQ_EN 0)
  | 19 => s.summary (TWH_W_IRQ_STATUS 1) (TWH_W_IRQ_EN 1)
  | 24 => s.summary (EPO_IRQ_STATUS 0) (EPO_IRQ_EN 0) || s.summary (EPO_IRQ_STATUS 1) (EPO_IRQ_EN 1)
  | 25 => s.summary LKS_IRQ_STATUS LKS_IRQ_EN
  | 37 => s.summary SHD_IRQ_STATUS SHD_IRQ_EN
  | 38 => s.summary DIR_IRQ_STATUS DIR_IRQ_EN
  | 40 => s.summary SW_IRQ_STATUS SW_IRQ_EN
  | 42 => s.rd (CAN_IRQ_STATUS 0) != 0
  | 43 => s.rd (CAN_IRQ_STATUS 1) != 0
  | 61 => s.summary CAP_IRQ_STATUS CAP_IRQ_EN
  | 65 => bitAt (s.rd 0x47010054) 0
  | 66 => bitAt (s.rd 0x47010054) 1
  | 67 => bitAt (s.rd 0x47010054) 2
  | 68 => bitAt (s.rd 0x47010054) 3
  | 69 => s.summary LDG_IRQ_STATUS LDG_IRQ_EN
  | 70 => s.summary CSC_IRQ_STATUS CSC_IRQ_EN || s.summary (PORT_IRQ_STATUS 17) (PORT_IRQ_EN 17) || s.summary (PORT_IRQ_STATUS 18) (PORT_IRQ_EN 18)
  | i =>
    if within i 26 34 then s.on (CWD_STATUS_EXPIRED (i - 26))
    else if within i 44 61 then s.summary (PORT_IRQ_STATUS (i - 44)) (PORT_IRQ_EN (i - 44))
    else false

/-! ### The APLIC domains: 0 machine-level, 1 supervisor-level -/

/-- A source at reset: inactive, target 0. -/
def AplicSrc.init : AplicSrc := ⟨0, 0, false, false⟩

def State.aplic (s : State) (d i : Nat) : AplicSrc := tabGet (fun _ => AplicSrc.init) s.cpu.aplic (128 * d + i)

def State.setAplic (s : State) (d i : Nat) (v : AplicSrc) : State :=
  { s with cpu := { s.cpu with aplic := tabSet (fun _ => AplicSrc.init) s.cpu.aplic (128 * d + i) v } }

/-- The source is delegated to the supervisor-level domain (R312). -/
def State.srcDelegated (s : State) (i : Nat) : Bool :=
  if i == 18 then false else if i == 19 then true else s.normalOwned (sourceBlock i).1 (sourceBlock i).2

/-- The APLIC domain a source belongs to. -/
def State.srcDomain (s : State) (i : Nat) : Nat := b2n (s.srcDelegated i)

/-- `domaincfg` of a domain: IE in bit 8. -/
def State.aplicIe (s : State) (d : Nat) : Bool := bitAt (tabGet (fun _ => 0) s.cpu.domaincfg d) 8

/-- The world of an APLIC domain (R311). -/
def aplicWorld (d : Nat) : World := if d == 0 then .secure else .normal

/-- Forward a pending and enabled source of its domain as an MSI, which clears its pending bit. -/
def State.aplicForward (s : State) (d i : Nat) : State :=
  let v := s.aplic d i
  if s.aplicIe d && v.pend && v.en && v.sourcecfg % 8 != 0 && s.srcDomain i == d then
    let s := s.setAplic d i { v with pend := false }
    let h := bitsOf v.target 18 14
    let f := if d == 0 then 0 else 1 + bitsOf v.target 12 6
    (s.msiTo (aplicWorld d) (srcId APC (0x30 + d)) h f (bitsOf v.target 0 11)).1
  else s

/-- The rectified input of a source by its mode: 4 and 6 high, 5 and 7 low. -/
def rectified (sm : Nat) (level : Bool) : Bool :=
  if sm == 4 || sm == 6 then level else if sm == 5 || sm == 7 then !level else false

/-- A source's level as the APLIC sees it changes: pending on a rise, and for level modes no longer pending on a fall. -/
def State.sourceChange (s : State) (i : Nat) : State :=
  if !sourceExists i || !s.outOfReset APC then s
  else
    let old := tabGet (fun _ => false) s.cpu.levels i
    let lvl := s.sourceLevel i
    let s := { s with cpu := { s.cpu with levels := tabSet (fun _ => false) s.cpu.levels i lvl } }
    let d := s.srcDomain i
    let v := s.aplic d i
    let sm := v.sourcecfg % 8
    let r0 := rectified sm old
    let r1 := rectified sm lvl
    let s := if !r0 && r1 then s.setAplic d i { v with pend := true }
      else if r0 && !r1 && (sm == 6 || sm == 7) then s.setAplic d i { v with pend := false } else s
    s.aplicForward d i

def execAplicSourceChange (src : BitVec 7) (s : State) : Ans := .next (s.sourceChange src.toNat)

/-- A write of `sourcecfg` of a source of this domain: a mode the architecture defines, else inactive. A change to inactive
clears the enable and pending bits. A write of D is ignored (R312). -/
def State.aplicCfg (s : State) (d i v : Nat) : State :=
  if !sourceExists i || s.srcDomain i != d || bitAt v 10 then s
  else
    let sm := if v % 8 == 2 || v % 8 == 3 then 0 else v % 8
    let o := s.aplic d i
    let lvl := tabGet (fun _ => false) s.cpu.levels i
    let o := if sm == 0 then { o with sourcecfg := 0, pend := false, en := false }
      else { o with sourcecfg := sm, pend := if sm ≥ 6 then rectified sm lvl else o.pend }
    (s.setAplic d i o).aplicForward d i

/-- Set or clear a pending bit by software: a level source's bit follows its input. -/
def State.aplicPend (s : State) (d i : Nat) (set : Bool) : State :=
  let v := s.aplic d i
  if !sourceExists i || s.srcDomain i != d || v.sourcecfg % 8 == 0 then s
  else if set && v.sourcecfg % 8 ≥ 6 && !rectified (v.sourcecfg % 8) (tabGet (fun _ => false) s.cpu.levels i) then s
  else (s.setAplic d i { v with pend := set }).aplicForward d i

/-- Set or clear an enable bit. -/
def State.aplicEn (s : State) (d i : Nat) (set : Bool) : State :=
  let v := s.aplic d i
  if !sourceExists i || s.srcDomain i != d || v.sourcecfg % 8 == 0 then s
  else (s.setAplic d i { v with en := set }).aplicForward d i

/-- Apply an operation to the sources a 32-bit array word names. -/
def State.aplicBits (s : State) (word v : Nat) (f : Nat → State → State) : State :=
  State.each ((List.range 32).filter (fun b => bitAt v b)) (fun b t => f (32 * word + b) t) s

/-- A 32-bit write to an APLIC register (offsets of the architecture). `mmsiaddrcfg` and `smsiaddrcfg` are read-only (R314);
direct delivery mode is not supported (R310). -/
def State.aplicWrite (s : State) (d o v : Nat) : State :=
  if o == 0 then
    if !bitAt v 2 then s
    else
      let s := { s with cpu := { s.cpu with domaincfg := tabSet (fun _ => 0) s.cpu.domaincfg d (Nat.land v 0x100) } }
      State.each (List.range 128) (fun i t => t.aplicForward d i) s
  else if within o 4 0x200 then s.aplicCfg d (o / 4) v
  else if within o 0x1C00 0x1C10 then s.aplicBits ((o - 0x1C00) / 4) v (fun i t => t.aplicPend d i true)
  else if o == 0x1CDC then s.aplicPend d v true
  else if within o 0x1D00 0x1D10 then s.aplicBits ((o - 0x1D00) / 4) v (fun i t => t.aplicPend d i false)
  else if o == 0x1DDC then s.aplicPend d v false
  else if within o 0x1E00 0x1E10 then s.aplicBits ((o - 0x1E00) / 4) v (fun i t => t.aplicEn d i true)
  else if o == 0x1EDC then s.aplicEn d v true
  else if within o 0x1F00 0x1F10 then s.aplicBits ((o - 0x1F00) / 4) v (fun i t => t.aplicEn d i false)
  else if o == 0x1FDC then s.aplicEn d v false
  else if o == 0x2000 then s.aplicPend d v true
  else if o == 0x2004 then s.aplicPend d (beNat (leBytes 4 v)) true
  else if o == 0x3000 then
    (s.msiTo (aplicWorld d) (srcId APC (0x30 + d)) (bitsOf v 18 14) d (bitsOf v 0 11)).1
  else if within o 0x3004 0x3200 then
    let i := (o - 0x3000) / 4
    if !sourceExists i || s.srcDomain i != d then s
    else (s.setAplic d i { s.aplic d i with target := if d == 0 then Nat.land v 0xFFFC07FF else Nat.land v 0xFFFFF7FF }).aplicForward d i
  else s

/-- A 32-bit read of an APLIC register. -/
def State.aplicRead (s : State) (d o : Nat) : Nat :=
  let bits (word : Nat) (f : AplicSrc → Bool) : Nat :=
    (List.range 32).foldl (fun m b =>
      if sourceExists (32 * word + b) && s.srcDomain (32 * word + b) == d && f (s.aplic d (32 * word + b)) then m + 2 ^ b else m) 0
  if o == 0 then 0x80000004 + tabGet (fun _ => 0) s.cpu.domaincfg d
  else if within o 4 0x200 then
    let i := o / 4
    if !sourceExists i then 0
    else if d == 0 && s.srcDelegated i then 0x400
    else if s.srcDomain i == d then (s.aplic d i).sourcecfg else 0
  else if o == 0x1BC0 then 0x43100
  else if o == 0x1BC4 then 0x4000
  else if o == 0x1BC8 then 0x43200
  else if o == 0x1BCC then 0x300000
  else if within o 0x1C00 0x1C10 then bits ((o - 0x1C00) / 4) (fun v => v.pend)
  else if within o 0x1D00 0x1D10 then
    (List.range 32).foldl (fun m b =>
      let i := 32 * ((o - 0x1D00) / 4) + b
      if sourceExists i && s.srcDomain i == d && rectified ((s.aplic d i).sourcecfg % 8) (tabGet (fun _ => false) s.cpu.levels i)
      then m + 2 ^ b else m) 0
  else if within o 0x1E00 0x1E10 then bits ((o - 0x1E00) / 4) (fun v => v.en)
  else if within o 0x3004 0x3200 then
    let i := (o - 0x3000) / 4
    if sourceExists i && s.srcDomain i == d then (s.aplic d i).target else 0
  else 0

/-- A source moves to the domain of its block's new world: pending cleared, `sourcecfg` and `target` there reset (R317). -/
def State.sourceMove (s : State) (i : Nat) : State := (s.setAplic 0 i AplicSrc.init).setAplic 1 i AplicSrc.init

/-! ### Local controllers: commands -/

/-- A write of the message register of a local controller: a register of its block (R43), then R316. -/
def State.localMsg (s : State) (a : Agent) (n eiid : Nat) : State :=
  s.regAccess a true (if n < 4 then TKC_MSG n else WDN_MSG) 4 (fun t => (t.msiTo (t.agentWorld a) (agentSrc a) (8 + n) 0 eiid).1)

def execLocalMsg (a : Agent) (n : Lic) (eiid : BitVec 32) (s : State) : Ans := .next (s.localMsg a n.val eiid.toNat)

/-- Claim the lowest pending enabled line, which clears (R316): the new state and the line. -/
def State.licClaim (s : State) (n : Nat) : State × Nat :=
  let i := s.licTop n
  if i == 0 then (s, 0) else (s.clear (licPend n) (2 ^ (i - 1)), i)

def execLocalClaim (a : Agent) (n : Lic) (half : Half) (s : State) : Ans :=
  .next (s.readCmd a (if n.val < 4 then TKC_CLAIM n.val else WDN_CLAIM) half (fun t => t.licClaim n.val))

/-! ### Timers (R320) -/

/-- `mtime` reaches the compare of a core: `mip.MTIP` asserts, which wakes a hart that enables it. -/
def execMtimecmpMatch (h : AppCore) (s : State) : Ans := .next (if s.timerDue h.val then s.irqWake h.val else s)

/-- `stimecmp`, or `vstimecmp` for a guest, is reached. -/
def execStimecmpMatch (h : AppCore) (guest : Bool) (s : State) : Ans :=
  .next (if bitAt (s.mip h.val) (if guest then 6 else 5) then s.irqWake h.val else s)

/-! ### The world of a core's lower files (R299, R319) -/

/-- A write of `ACC_WORLD` by the secure world. -/
def State.worldWrite (s : State) (c : Nat) (next : World) : State :=
  if s.fused c && c % 2 == 1 then s
  else
    let t := s.hart c
    if t.priv == .m || t.halted || s.get (ACC_STATUS_POWER c) == 0 then
      let old := worldOf (s.get (ACC_WORLD_NEXT c))
      let s := (s.put (ACC_WORLD_NEXT c) (worldNum next)).res (ACC_WORLD_RESULT c) .ok
      s.when (old != next) (fun u =>
        State.each [1, 2, 3, 4, 5, 6] (fun f v => v.setImsic c f { v.imsic c f with eidelivery := 0, eip := 0, eie := 0 }) u)
    else s.res (ACC_WORLD_RESULT c) .unavailable

def execAccWorldWrite (a : Agent) (c : AppCore) (next : World) (s : State) : Ans :=
  .next (s.regAccess a true (ACC_WORLD c.val) 4 (fun t => t.worldWrite c.val next))

end Sys2Proof.Machine
end

