-- ==== Sys2Proof/Machine/Phys.lean ====
section
/-! DEFINITION. Accesses to physical memory: the check of R31, R407 and R440, and reads and writes by cores with caches, by
agents without, and to the arrays that no cache covers. -/

namespace Sys2Proof.Machine

open Sys2Proof

/-! ### The physical check -/

/-- What the physical check answers. -/
inductive PhysVerdict where
  | ok
  /-- A reserved range (R31). -/
  | range
  | denied
  | fenced
  deriving DecidableEq, Repr

/-- The check of an access to anything but a register window: reserved ranges, worlds, fences (R19: DENIED before FENCED). -/
def State.physVerdict (s : State) (w : World) (sid : Option Nat) (k : AccKind) (a : Nat) : PhysVerdict :=
  match s.region a with
  | .reserved | .staging => .range
  | .bootRom =>
    if k == .write then (if w == .secure then .range else .denied)
    else if w != .secure then .denied else if !s.fenceOpen SEC then .fenced else .ok
  | r =>
    if !s.worldOk w sid k a then .denied
    else match regionDom r with
      | some d => if s.fenceOpen d then .ok else .fenced
      | none => .range

/-- The check of an engine's transfer of more than 8 bytes, which no register window serves (R11, R31). -/
def State.dataVerdict (s : State) (w : World) (k : AccKind) (a : Nat) : PhysVerdict :=
  match s.region a with
  | .regs _ _ _ | .debug _ _ => .range
  | _ => s.physVerdict w none k a

/-- The record of a refused access: an exception's cause for a hart, an error completion for a device (R31, R407, R440, R555). -/
def State.physRefuse (s : State) (q : MemReq) (isHart : Bool) (v : PhysVerdict) (a : Nat) : State :=
  let r := s.region a
  match v with
  | .ok => s
  | .denied => s.sherd kRefusedWorld .denied (regionSrc r) q.world q.src a q.port 0
  | .fenced => s.sherd kFenced .fenced (regionSrc r) q.world q.src a q.port ((regionDom r).getD 0)
  | .range =>
    if r == .bootRom then s.sherd kRefusedRange .denied (srcId SEC 0) q.world q.src a q.port 0
    else if isHart then s
    else s.sherd kRefusedRange .denied q.src q.world q.src a q.port 0

/-- The status an engine reports for a refused access. -/
def verdictStatus : PhysVerdict → Status
  | .ok => .ok | .range => .denied | .denied => .denied | .fenced => .fenced

/-! ### Cores with caches -/

/-- `n` bytes at `a`, within one line, as core `c` reads them through its caches. -/
def State.coreRead (s : State) (c a n : Nat) : State × Nat × Bool :=
  let hit := (s.l2 c (a / 64)).isSome
  let s := (s.coreCount c 32).when (!hit) (fun t => t.coreCount c 33)
  let s := s.l2Acquire c (a / 64) false
  match s.l2 c (a / 64) with
  | some v => (s, bitsOf v.data (8 * (a % 64)) (8 * n), v.poison)
  | none => (s, 0, false)

/-- A write of cluster `c` needs a place in the epoch store and none is free (R450). -/
def State.epochFull (s : State) (c line : Nat) : Bool :=
  s.epochMode c && !s.uncommitted c line && decide (s.get (EPO_STORE_SIZE c) ≤ (s.epoch c).lines.length)

/-- The first write of an epoch to a line marks it uncommitted; a dirty committed line is written back first (R450). -/
def State.epochTake (s : State) (c line : Nat) : State :=
  let k := clusterOf c
  if s.epochMode k && !s.uncommitted k line then
    let s := match s.l2 c line with
      | some v => if v.st == Mesi.m then s.slcPut (reqMem c .secure) line v.data true v.poison else s
      | none => s
    let e := s.epoch k
    ((s.setEpoch k { e with lines := e.lines ++ [line] }).put (EPO_STORE_USED k) (e.lines.length + 1)).coreCount c 68
  else s

/-- Core `c` writes the bytes that `mask` names of a line through its caches. A write of the whole line clears poison, any
other keeps it (R376, R378). -/
def State.coreWrite (s : State) (c line mask data : Nat) : State :=
  let s := (s.coreCount c 32).when (s.l2 c line).isNone (fun t => t.coreCount c 33)
  let s := (s.l2Acquire c line true).epochTake c line
  match s.l2 c line with
  | some v => s.setL2 c line (some { v with st := .m, data := mergeBytes 64 mask data v.data, poison := v.poison && mask != fullMask })
  | none => s

/-! ### Any memory, without caches -/

/-- The bytes of a line that an access of `n` bytes at `a` covers, from the line's first byte. -/
def lineMask (a n : Nat) : Nat := (2 ^ n - 1) * 2 ^ (a % 64) % 2 ^ 64

/-- `n` bytes at `a`, within one line, as the device bridge or the array answers: value and poison flag. -/
def State.memRead (s : State) (q : MemReq) (a n : Nat) : State × Nat × Bool :=
  match s.region a with
  | .dram =>
    let (s, d, p) := s.devReadLine q (a / 64)
    (s, bitsOf d (8 * (a % 64)) (8 * n), p)
  | .pcie | .cascade _ _ => (s.tookFree, s.freeNat % 2 ^ (8 * n), false)
  | .regs _ _ _ | .debug _ _ => (s, 0, false)
  | _ =>
    let (v, p) := s.sramRead a n
    (s, v, p)

/-- The device bridge port a request comes through. -/
def bridgeReq (q : MemReq) : Nat :=
  8 + (if q.port ≤ 1 then APC else if q.port == 2 || q.port == 10 then TKD else if q.port == 3 then SEC
    else if q.port == 4 then SNS else if q.port == 5 then NET else if q.port == 8 then AON else HST)

/-- Write `n` bytes at `a`, within one line, without caches: every cached copy goes and reservations on the line end. -/
def State.memWrite (s : State) (q : MemReq) (a n v : Nat) : State :=
  match s.region a with
  | .dram => s.devWriteLine (bridgeReq q) (a / 64) (lineMask a n) (v % 2 ^ (8 * n) * 2 ^ (8 * (a % 64)))
  | .pcie | .cascade _ _ | .regs _ _ _ | .debug _ _ => s
  | r => (s.sramWrite q (regionSrc r) a v n).clearResv (a / 64) (fun _ => true)

/-- Bytes from `a` to the end of its line, at most `n`. -/
def chunk (a n : Nat) : Nat := Nat.min n (64 - a % 64)

/-- Read `n` bytes at `a` of any memory without caches, line by line; `fuel` bounds the lines. -/
def State.memReadAll (s : State) (q : MemReq) : Nat → Nat → Nat → State × List Byte × Bool
  | 0, _, _ => (s, [], false)
  | fuel + 1, a, n =>
    if n == 0 then (s, [], false)
    else
      let k := chunk a n
      let (s, v, p) := s.memRead q a k
      let (s, r, p') := s.memReadAll q fuel (a + k) (n - k)
      (s, leBytes k v ++ r, p || p')

/-- Write bytes from `a` of any memory without caches, line by line. -/
def State.memWriteAll (s : State) (q : MemReq) : Nat → Nat → List Byte → State
  | 0, _, _ => s
  | fuel + 1, a, bs =>
    match bs with
    | [] => s
    | _ =>
      let k := chunk a bs.length
      (s.memWrite q a k (leNat (bs.take k))).memWriteAll q fuel (a + k) (bs.drop k)

/-- The worst answer of the physical check over the lines of an access. -/
def State.physSpan (s : State) (w : World) (sid : Option Nat) (k : AccKind) : Nat → Nat → Nat → PhysVerdict × Nat
  | 0, a, _ => (.ok, a)
  | fuel + 1, a, n =>
    if n == 0 then (.ok, a)
    else match s.physVerdict w sid k a with
      | .ok => s.physSpan w sid k fuel (a + chunk a n) (n - chunk a n)
      | v => (v, a)

/-- Poisoned data is consumed by a hart (R376): the record. -/
def State.consumed (s : State) (h a : Nat) : State :=
  s.sherd kConsumed .poison (hartSrc h) (s.hartWorld h) (hartSrc h) a (if h < 4 then 0 else if h < 8 then 1 else if h < 12 then 2 else 3) 0

/-- The request a hart's access makes. -/
def State.hartReq (s : State) (h : Nat) : MemReq :=
  ⟨s.hartWorld h, hartSrc h, if h < 4 then 0 else if h < 8 then 1 else if h < 12 then 2 else 3⟩

end Sys2Proof.Machine
end

