-- ==== Sys2Proof/Machine/Translate.lean ====
section
/-! DEFINITION. Physical memory protection and two-stage translation (R300 to R305), by the walks of the RISC-V privileged
architecture (log entry 20). The model keeps no TLB: every access walks the tables as they stand. -/

namespace Sys2Proof.Machine

open Sys2Proof

/-! ### PMP (R304) -/

/-- PMP entries of a hart. -/
def pmpCount (h : Nat) : Nat := if h < 8 then 16 else if h == 12 then 8 else 0

def State.pmpCfg (s : State) (h i : Nat) : Nat :=
  if h < 8 then bitsOf (s.csr h (0x3A0 + i / 8 * 2)) (8 * (i % 8)) 8 else bitsOf (s.csr h (0x3A0 + i / 4)) (8 * (i % 4)) 8

def State.pmpAddr (s : State) (h i : Nat) : Nat := s.csr h (0x3B0 + i)

/-- Trailing ones of a number, at most `fuel`. -/
def trailOnes : Nat → Nat → Nat
  | 0, _ => 0
  | fuel + 1, x => if x % 2 == 1 then 1 + trailOnes fuel (x / 2) else 0

/-- The entry matches the 4 KiB page of an address: TOR (1) or NAPOT (3) with G = 10. -/
def State.pmpMatch (s : State) (h i a : Nat) : Bool :=
  match bitsOf (s.pmpCfg h i) 3 2 with
  | 1 => within (a / 4096) (if i == 0 then 0 else s.pmpAddr h (i - 1) / 1024) (s.pmpAddr h i / 1024)
  | 3 =>
    let p := Nat.lor (s.pmpAddr h i) 511
    let k := 2 ^ (trailOnes 54 p + 1)
    p / k == a / 4 / k
  | _ => false

/-- The rights an entry gives: to M-mode or below, for a kind of access; with Smepmp's MML the shared encodings too. -/
def pmpRights (cfg : Nat) (mml m : Bool) (k : AccKind) : Bool :=
  let r := bitAt cfg 0
  let w := bitAt cfg 1
  let x := bitAt cfg 2
  let l := bitAt cfg 7
  let plain := match k with
    | .read => r
    | .write => w && r
    | .exec => x
  if !mml then (m && !l) || plain
  else if !r && w then
    if !l then (if x then k != .exec else if m then k != .exec else k == .read)
    else if x then (if m then k == .exec || k == .read else k == .exec) else k == .exec
  else if !l then !m && plain
  else if r && w && x then k == .read
  else m && plain

/-- PMP permits an access of a hart: `m` for M-mode rights. -/
def State.pmpOk (s : State) (h : Nat) (m : Bool) (k : AccKind) (a : Nat) : Bool :=
  if pmpCount h == 0 then true
  else
    let sec := s.csr h 0x747
    match (List.range (pmpCount h)).find? (fun i => s.pmpMatch h i a) with
    | some i => pmpRights (s.pmpCfg h i) (bitAt sec 0) m k
    | none => m && !bitAt sec 1 && !(bitAt sec 0 && k == .exec)

/-! ### Walks -/

/-- Who walks: a hart, or the IOMMU for DMA of a world. -/
inductive Walker where
  | hart (h : Nat)
  | iommu (w : World)
  deriving DecidableEq, Repr

/-- The outcome of a translation: physical address and PBMT, or the class of fault. -/
inductive XOut where
  | ok (pa pbmt : Nat)
  | page
  | guest
  | access
  deriving DecidableEq, Repr

/-- The request a walk makes: without a saggar identifier (R302). -/
def State.walkReq (s : State) : Walker → MemReq
  | .hart h => s.hartReq h
  | .iommu w => ⟨w, srcId HST 1, 6⟩

def isHart : Walker → Bool
  | .hart _ => true
  | .iommu _ => false

/-- A page-table entry at a physical address: none is an access fault on the walk (R301, R302). -/
def State.pteRead (s : State) (k : Walker) (a : Nat) : State × Option Nat :=
  let q := s.walkReq k
  let pmp := match k with
    | .hart h => s.pmpOk h false .read a
    | .iommu _ => true
  if !pmp || 2 ^ 44 ≤ a || regionIo (s.region a) then (s, none)
  else match s.physVerdict q.world none .read a with
    | .ok =>
      let (s, v, p) := match k, s.region a with
        | .hart h, .dram => s.coreRead h a 8
        | _, _ => s.memRead q a 8
      match k with
      | .hart h => if p then (s.consumed h a, none) else (s, some v)
      | .iommu _ => (s, if p then none else some v)
    | v => (s.physRefuse q (isHart k) v a, none)

/-- The update of the A and D bits of an entry, atomic with the walk (R300). -/
def State.pteWrite (s : State) (k : Walker) (a v : Nat) : State :=
  match k, s.region a with
  | .hart h, .dram => s.coreWrite h (a / 64) (lineMask a 8) (v * 2 ^ (8 * (a % 64)))
  | _, _ => s.memWrite (s.walkReq k) a 8 v

/-- A stage of translation. -/
structure Stage where
  k : Walker
  kind : AccKind
  va : Nat
  /-- The G-stage: every leaf must have U set. -/
  g : Bool
  user : Bool
  sum : Bool
  mxr : Bool
  adue : Bool
  /-- PBMT is enabled in the leaves of this stage. -/
  pbmte : Bool

/-- A leaf gives the access its right. -/
def leafOk (t : Stage) (pte : Nat) : Bool :=
  let u := bitAt pte 4
  let mode := if t.g then u else if t.user then u else !u || (t.sum && t.kind != .exec)
  mode && (match t.kind with
    | .read => bitAt pte 1 || (t.mxr && bitAt pte 3)
    | .write => bitAt pte 2
    | .exec => bitAt pte 3)

/-- The physical address a leaf at level `l` gives, or none for a misaligned superpage or a reserved NAPOT size (R300). -/
def leafAddr (va pte l : Nat) : Option Nat :=
  let ppn := bitsOf pte 10 44
  if bitAt pte 63 then
    if l == 0 && ppn % 16 == 8 then some (0x10000 * (ppn / 16) + va % 0x10000) else none
  else if ppn % 2 ^ (9 * l) == 0 then some (4096 * ppn + va % 2 ^ (12 + 9 * l))
  else none

/-- Walk the levels below `fuel` from a table. `tr` translates the address of an entry through the other stage. -/
def State.walk (t : Stage) (tr : State → AccKind → Nat → State × XOut) (extra : Nat) : Nat → State → Nat → State × XOut
  | 0, s, _ => (s, .page)
  | l + 1, s, table =>
    let a := table + 8 * bitsOf t.va (12 + 9 * l) (9 + extra)
    match tr s .read a with
    | (s, .ok pa _) =>
      match s.pteRead t.k pa with
      | (s, none) => (s, .access)
      | (s, some pte) =>
        if !bitAt pte 0 || (bitAt pte 2 && !bitAt pte 1) || bitsOf pte 54 7 != 0 then (s, .page)
        else if bitAt pte 1 || bitAt pte 3 then
          match leafAddr t.va pte l with
          | none => (s, .page)
          | some out =>
            if !leafOk t pte || bitsOf pte 61 2 == 3 || (!t.pbmte && bitsOf pte 61 2 != 0) then (s, .page)
            else if bitAt pte 6 && (t.kind != .write || bitAt pte 7) then (s, .ok out (bitsOf pte 61 2))
            else if t.adue then
              match tr s .write a with
              | (s, .ok pa2 _) =>
                let pte' := Nat.lor pte (if t.kind == .write then 0xC0 else 0x40)
                (s.pteWrite t.k pa2 pte', .ok out (bitsOf pte 61 2))
              | r => r
            else (s, .page)
        else if bitsOf pte 61 3 != 0 || bitAt pte 4 || bitsOf pte 6 2 != 0 then (s, .page)
        else State.walk t tr 0 l s (4096 * bitsOf pte 10 44)
    | r => r

/-- Levels of a MODE: 8 Sv39, 9 Sv48, 10 Sv57 (and the x4 forms). -/
def modeLevels (m : Nat) : Nat := if m == 8 then 3 else if m == 9 then 4 else if m == 10 then 5 else 0

/-- Entries of a bare or G-stage table need no further translation. -/
def plainTr (s : State) (_ : AccKind) (a : Nat) : State × XOut := (s, .ok a 0)

/-- PBMT is enabled in G-stage leaves: by `menvcfg.PBMTE` for a hart. -/
def State.gPbmte (s : State) : Walker → Bool
  | .hart h => bitAt (s.csr h 0x30A) 62
  | .iommu _ => true

/-- The G-stage with `hgatp` or `iohgatp` as given: a page fault there is a guest-page fault. -/
def State.gStage (s : State) (k : Walker) (atp : Nat) (adue : Bool) (kind : AccKind) (gpa : Nat) : State × XOut :=
  let l := modeLevels (bitsOf atp 60 4)
  if l == 0 then (s, .ok gpa 0)
  else if 2 ^ (14 + 9 * l) ≤ gpa then (s, .guest)
  else match State.walk ⟨k, kind, gpa, true, true, false, false, adue, s.gPbmte k⟩ plainTr 2 l s (16384 * (bitsOf atp 0 44 / 4)) with
    | (s, .page) => (s, .guest)
    | r => r

/-- The stricter of two PBMT values: IO, NC, PMA (R303). -/
def pbmtJoin (a b : Nat) : Nat := Nat.max a b

/-- Both stages: `atp` for the first, `gatp` for the second (0: none). -/
def State.twoStage (s : State) (t : Stage) (atp gatp : Nat) (gadue : Bool) : State × XOut :=
  let l := modeLevels (bitsOf atp 60 4)
  let first :=
    if l == 0 then (s, XOut.ok t.va 0)
    else
      let top := t.va / 2 ^ (11 + 9 * l)
      if top != 0 && top != 2 ^ (64 - (11 + 9 * l)) - 1 then (s, XOut.page)
      else State.walk t (fun u kind a => u.gStage t.k gatp gadue kind a) 0 l s (4096 * bitsOf atp 0 44)
  match first with
  | (s, .ok gpa p) =>
    match s.gStage t.k gatp gadue t.kind gpa with
    | (s, .ok pa p2) => (s, .ok pa (pbmtJoin p p2))
    | r => r
  | r => r

/-! ### A hart's translation -/

/-- Exception codes by kind of access: access fault, page fault, guest-page fault. -/
def excAccess : AccKind → Nat
  | .exec => excInstAccess | .read => excLoadAccess | .write => excStoreAccess
def excPage : AccKind → Nat
  | .exec => 12 | .read => 13 | .write => 15
def excGuest : AccKind → Nat
  | .exec => 20 | .read => 21 | .write => 23

/-- The mode whose rights a load or store uses: `mstatus.MPRV` (log entry 20). -/
def State.effPriv (s : State) (h : Nat) (k : AccKind) : Priv :=
  let t := s.hart h
  let m := s.csr h csrMstatus
  if k != .exec && bitAt m 17 && t.priv == .m && (h < 8 || h == 12) then privOf (bitsOf m 11 2) (h < 8 && bitAt m 39) else t.priv

/-- Translate an address of a hart and check PMP: the physical address and PBMT, or an exception code (R305). -/
def State.translate (s : State) (h : Nat) (k : AccKind) (va : Nat) : State × Except Nat (Nat × Nat) :=
  let p := s.effPriv h k
  let out : State × XOut :=
    if 8 ≤ h || p == .m then (s, .ok va 0)
    else
      let m := s.csr h csrMstatus
      let vs := s.csr h csrVsstatus
      if virt p then
        s.twoStage ⟨.hart h, k, va, false, p == .vu, bitAt vs 18, bitAt vs 19 || bitAt m 19, bitAt (s.csr h 0x60A) 61, bitAt (s.csr h 0x60A) 62⟩
          (s.csr h 0x280) (s.csr h 0x680) (bitAt (s.csr h 0x30A) 61)
      else
        s.twoStage ⟨.hart h, k, va, false, p == .u, bitAt m 18, bitAt m 19, bitAt (s.csr h 0x30A) 61, bitAt (s.csr h 0x30A) 62⟩ (s.csr h 0x180) 0 false
  match out with
  | (s, .page) => (s, .error (excPage k))
  | (s, .guest) => (s, .error (excGuest k))
  | (s, .access) => (s, .error (excAccess k))
  | (s, .ok pa b) =>
    if 2 ^ 44 ≤ pa then (s, .error (excAccess k))
    else if s.pmpOk h (p == .m) k pa then (s, .ok (pa, b)) else (s, .error (excAccess k))

end Sys2Proof.Machine
end

