-- ==== Sys2Proof/Machine/Iommu.lean ====
section
/-! DEFINITION. DMA through the IOMMU (R45, R306 to R309, R377): device directory, both stages, the fault queue and the
command queue, in the layout of the RISC-V IOMMU specification (log entry 21). -/

namespace Sys2Proof.Machine

open Sys2Proof

/-! ### Registers -/

def IOMMU : Nat := 0x47010000
def ioCap : Nat := IOMMU
def ioFctl : Nat := IOMMU + 8
def ioDdtp : Nat := IOMMU + 16
def ioCqb : Nat := IOMMU + 24
def ioCqh : Nat := IOMMU + 32
def ioCqt : Nat := IOMMU + 36
def ioFqb : Nat := IOMMU + 40
def ioFqh : Nat := IOMMU + 48
def ioFqt : Nat := IOMMU + 52
def ioCqcsr : Nat := IOMMU + 72
def ioFqcsr : Nat := IOMMU + 76
def ioIpsr : Nat := IOMMU + 84
def ioTrIova : Nat := IOMMU + 600
def ioTrCtl : Nat := IOMMU + 608
def ioTrResp : Nat := IOMMU + 616

/-- `capabilities` (R306): version 1.0, Sv39 to Sv57 in both stages, flat MSI, hardware A/D update, wired interrupts,
counters, the debug interface, 44-bit addresses, all process directory modes. -/
def ioCapabilities : Nat :=
  packBits [(0, 8, 0x10), (9, 3, 7), (17, 3, 7), (22, 1, 1), (24, 1, 1), (28, 2, 1), (30, 1, 1), (31, 1, 1), (32, 6, 44), (38, 3, 7)]

/-- The world in which the IOMMU reaches its own structures. -/
def State.ioWorld (s : State) : World := s.owner HST 1

def State.ioReq (s : State) : MemReq := ⟨s.ioWorld, srcId HST 1, 6⟩

/-- Read 8 bytes of an in-memory structure of the IOMMU. -/
def State.ioRead8 (s : State) (a : Nat) : State × Option Nat := s.pteRead (.iommu s.ioWorld) a

/-- Bytes of a structure written by the IOMMU, when the physical check permits. -/
def State.ioWriteAll (s : State) (a : Nat) (bs : List Byte) : State × Bool :=
  if (s.physSpan s.ioWorld none .write 4 a bs.length).1 == .ok && !regionIo (s.region a) then
    (s.memWriteAll s.ioReq 4 a bs, true)
  else (s, false)

/-! ### Faults -/

/-- A DMA request as a fault record names it. -/
structure DmaReq where
  dev : Nat
  pasid : Option Nat
  write : Bool
  iova : Nat
  deriving DecidableEq, Repr

/-- Report a fault in the fault queue. -/
def State.ioFault (s : State) (r : DmaReq) (cause iotval2 : Nat) : State :=
  let csr := s.rd ioFqcsr
  if !bitAt csr 16 then s
  else
    let b := s.rd ioFqb
    let size := 2 ^ (b % 32 + 1)
    let t := s.rd ioFqt % size
    let ip (u : State) : State := if bitAt csr 1 then u.wr ioIpsr (Nat.lor (u.rd ioIpsr) 2) else u
    if (t + 1) % size == s.rd ioFqh % size then ip (s.wr ioFqcsr (Nat.lor csr 0x200))
    else
      let rec0 := packBits [(0, 12, cause), (12, 20, r.pasid.getD 0), (32, 1, b2n r.pasid.isSome),
        (34, 6, if r.write then 3 else 2), (40, 24, r.dev)]
      let (s, ok) := s.ioWriteAll (4096 * bitsOf b 10 44 + 32 * t)
        (leBytes 8 rec0 ++ leBytes 8 0 ++ leBytes 8 r.iova ++ leBytes 8 iotval2)
      if ok then ip (s.wr ioFqt ((t + 1) % size)) else ip (s.wr ioFqcsr (Nat.lor csr 0x100))

/-! ### Contexts -/

/-- Find the device context: its address, or a fault cause. -/
def State.ddtWalk (s : State) (dev : Nat) : State × Except Nat Nat :=
  let p := s.rd ioDdtp
  let mode := p % 16
  let root := 4096 * bitsOf p 10 44
  let i0 := bitsOf dev 0 7
  let i1 := bitsOf dev 7 9
  let i2 := bitsOf dev 16 8
  let down (s : State) (a : Nat) : State × Except Nat Nat :=
    match s.ioRead8 a with
    | (s, none) => (s, .error 257)
    | (s, some e) =>
      if !bitAt e 0 then (s, .error 258)
      else if bitsOf e 1 9 != 0 || bitsOf e 54 10 != 0 then (s, .error 259)
      else (s, .ok (4096 * bitsOf e 10 44))
  if mode == 2 then
    if dev / 2 ^ 7 != 0 then (s, .error 260) else (s, .ok (root + 32 * i0))
  else if mode == 3 then
    if dev / 2 ^ 16 != 0 then (s, .error 260)
    else match down s (root + 8 * i1) with
      | (s, .ok t) => (s, .ok (t + 32 * i0))
      | r => r
  else if mode == 4 then
    match down s (root + 8 * i2) with
    | (s, .ok t) => match down s (t + 8 * i1) with
      | (s, .ok t) => (s, .ok (t + 32 * i0))
      | r => r
    | r => r
  else (s, .error 259)

/-- One eight-byte read of a process-directory walk, its address through the second stage. -/
def State.pdtGet (s : State) (gatp : Nat) (gade : Bool) (a : Nat) : State × Option Nat :=
  match s.gStage (.iommu s.ioWorld) gatp gade .read a with
  | (s, .ok pa _) => s.ioRead8 pa
  | (s, _) => (s, none)

/-- The next level of a process directory. -/
def State.pdtDown (s : State) (gatp : Nat) (gade : Bool) (a : Nat) : State × Except Nat Nat :=
  match s.pdtGet gatp gade a with
  | (s, none) => (s, .error 265)
  | (s, some e) => if !bitAt e 0 then (s, .error 266) else (s, .ok (4096 * bitsOf e 10 44))

/-- The process context in the leaf at `t`: fsc, and whether supervisor access is enabled. -/
def State.pdtLeaf (s : State) (gatp : Nat) (gade : Bool) (pid t : Nat) : State × Except Nat (Nat × Bool) :=
  match s.pdtGet gatp gade (t + 16 * bitsOf pid 0 8) with
  | (s, none) => (s, .error 265)
  | (s, some ta) =>
    if !bitAt ta 0 then (s, .error 266)
    else match s.pdtGet gatp gade (t + 16 * bitsOf pid 0 8 + 8) with
      | (s, none) => (s, .error 265)
      | (s, some fsc) => (s, .ok (fsc, bitAt ta 2))

/-- The first-stage `iosatp` of a process, through the process directory, with its SUM bit: or a fault cause. -/
def State.pdtWalk (s : State) (pdtp gatp : Nat) (gade : Bool) (pid : Nat) : State × Except Nat (Nat × Bool) :=
  let mode := bitsOf pdtp 60 4
  let root := 4096 * bitsOf pdtp 0 44
  if mode == 1 then (if pid / 2 ^ 8 != 0 then (s, .error 260) else s.pdtLeaf gatp gade pid root)
  else if mode == 2 then
    if pid / 2 ^ 17 != 0 then (s, .error 260)
    else match s.pdtDown gatp gade (root + 8 * bitsOf pid 8 9) with
      | (s, .ok t) => s.pdtLeaf gatp gade pid t
      | (s, .error c) => (s, .error c)
  else if mode == 3 then
    match s.pdtDown gatp gade (root + 8 * bitsOf pid 17 3) with
    | (s, .ok t) => match s.pdtDown gatp gade (t + 8 * bitsOf pid 8 9) with
      | (s, .ok t) => s.pdtLeaf gatp gade pid t
      | (s, .error c) => (s, .error c)
    | (s, .error c) => (s, .error c)
  else (s, .error 267)

/-- Translate a DMA address with the contexts of the device: the physical address, or a fault cause. -/
def State.ioTranslate (s : State) (r : DmaReq) : State × Except Nat Nat :=
  let mode := s.rd ioDdtp % 16
  if mode == 0 then (s, .error 256)
  else if mode == 1 then (s, .ok r.iova)
  else match s.ddtWalk r.dev with
    | (s, .error c) => (s, .error c)
    | (s, .ok dc) =>
      match s.ioRead8 dc with
      | (s, none) => (s, .error 257)
      | (s, some tc) =>
        if !bitAt tc 0 then (s, .error 258)
        else
          let (s, g) := s.ioRead8 (dc + 8)
          let (s, f) := s.ioRead8 (dc + 24)
          match g, f with
          | some gatp, some fsc =>
            let kind : AccKind := if r.write then .write else .read
            let go (s : State) (atp : Nat) (user sum : Bool) : State × Except Nat Nat :=
              match s.twoStage ⟨.iommu s.ioWorld, kind, r.iova, false, user, sum, false, bitAt tc 8, true⟩ atp gatp (bitAt tc 7) with
              | (s, .ok pa _) => (s, .ok pa)
              | (s, .page) => (s, .error (excPage kind))
              | (s, .guest) => (s, .error (excGuest kind))
              | (s, .access) => (s, .error (excAccess kind))
            if bitAt tc 5 then
              let pid := if r.pasid.isSome then r.pasid else if bitAt tc 9 then some 0 else none
              match pid with
              | none => go s 0 true false
              | some p => match s.pdtWalk fsc gatp (bitAt tc 7) p with
                | (s, .ok (atp, sum)) => go s atp true sum
                | (s, .error c) => (s, .error c)
            else if r.pasid.isSome then (s, .error 260)
            else go s fsc true false
          | _, _ => (s, .error 257)

/-- The physical address of a DMA access of an originating world, checked (R45, R308): or the status of its error
completion, the fault being reported in the fault queue. -/
def State.dmaAddr (s : State) (w : World) (src : Nat) (r : DmaReq) : State × Except Status Nat :=
  if !s.fenceOpen HST then (s.sherd kFenced .fenced (srcId HST 1) w src r.iova 6 HST, .error .fenced)
  else
    let io := s.owner HST 1
    let t := if w == .secure && io == .normal then (s, Except.ok r.iova) else s.ioTranslate r
    match t with
    | (s, .error c) => (s.ioFault r c 0, .error .denied)
    | (s, .ok pa) =>
      let k : AccKind := if r.write then .write else .read
      let q : MemReq := ⟨w, src, agentPort (.device (BitVec.ofNat 16 src) w)⟩
      if 2 ^ 44 ≤ pa then
        ((s.sherd kRefusedRange .denied src w src (pa % 2 ^ 44) q.port 0).ioFault r (excAccess k) 0, .error .denied)
      else match s.region pa with
        | .regs _ _ _ => (s, .ok pa)
        | .debug _ _ => (s, .ok pa)
        | _ => match s.physVerdict w none k pa with
          | .ok => (s, .ok pa)
          | v => ((s.physRefuse q false v pa).ioFault r (excAccess k) 0, .error (verdictStatus v))

/-! ### Engine DMA -/

/-- Bytes of an access up to the next line boundary of its I/O virtual address: the unit the engines work in. -/
def State.dmaWrite (s : State) (w : World) (src dev : Nat) : Nat → Nat → List Byte → State × Status
  | 0, _, _ => (s, .ok)
  | fuel + 1, iova, bs =>
    match bs with
    | [] => (s, .ok)
    | _ =>
      let k := chunk iova bs.length
      match s.dmaAddr w src ⟨dev, none, true, iova⟩ with
      | (s, .error st) => (s, st)
      | (s, .ok pa) =>
        if regionIo (s.region pa) then (s.ioFault ⟨dev, none, true, iova⟩ excStoreAccess 0, .denied)
        else
          let q : MemReq := ⟨w, src, agentPort (.device (BitVec.ofNat 16 src) w)⟩
          (s.memWrite q pa k (leNat (bs.take k))).dmaWrite w src dev fuel (iova + k) (bs.drop k)

/-- Read `n` bytes; POISON where the data is poisoned (R377). -/
def State.dmaRead (s : State) (w : World) (src dev : Nat) : Nat → Nat → Nat → State × Except Status (List Byte)
  | 0, _, _ => (s, .ok [])
  | fuel + 1, iova, n =>
    if n == 0 then (s, .ok [])
    else
      let k := chunk iova n
      match s.dmaAddr w src ⟨dev, none, false, iova⟩ with
      | (s, .error st) => (s, .error st)
      | (s, .ok pa) =>
        if regionIo (s.region pa) then (s.ioFault ⟨dev, none, false, iova⟩ excLoadAccess 0, .error .denied)
        else
          let q : MemReq := ⟨w, src, agentPort (.device (BitVec.ofNat 16 src) w)⟩
          let (s, v, p) := s.memRead q pa k
          if p then (s, .error .poison)
          else match s.dmaRead w src dev fuel (iova + k) (n - k) with
            | (s, .ok r) => (s, .ok (leBytes k v ++ r))
            | r => r

/-! ### The command queue and the other registers -/

/-- Carry out the commands between head and tail. The model keeps no translation caches, so only IOFENCE.C with AV set has
an effect of its own: its data word is written. -/
def State.ioCommands (s : State) : Nat → State
  | 0 => s
  | fuel + 1 =>
    let b := s.rd ioCqb
    let size := 2 ^ (b % 32 + 1)
    let h := s.rd ioCqh % size
    if !bitAt (s.rd ioCqcsr) 16 || bitAt (s.rd ioCqcsr) 8 || bitAt (s.rd ioCqcsr) 10 || h == s.rd ioCqt % size then s
    else
      let a := 4096 * bitsOf b 10 44 + 16 * h
      match s.ioRead8 a, s.ioRead8 (a + 8) with
      | (s, some lo), (_, some hi) =>
        let op := lo % 128
        let fn := bitsOf lo 7 3
        let next (u : State) : State := u.wr ioCqh ((h + 1) % size)
        if (op == 1 && fn ≤ 1) || (op == 3 && fn ≤ 1) then (next s).ioCommands fuel
        else if op == 2 && fn == 0 then
          let s := if bitAt lo 10 then (s.ioWriteAll (hi % 2 ^ 62 * 4) (leBytes 4 (lo / 2 ^ 32))).1 else s
          let s := if bitAt lo 11 then s.wr ioIpsr (Nat.lor (s.rd ioIpsr) 1) else s
          (next s).ioCommands fuel
        else
          let s := s.wr ioCqcsr (Nat.lor (s.rd ioCqcsr) 0x400)
          if bitAt (s.rd ioCqcsr) 1 then s.wr ioIpsr (Nat.lor (s.rd ioIpsr) 1) else s
      | (s, _), _ =>
        let s := s.wr ioCqcsr (Nat.lor (s.rd ioCqcsr) 0x100)
        if bitAt (s.rd ioCqcsr) 1 then s.wr ioIpsr (Nat.lor (s.rd ioIpsr) 1) else s

/-- A write to the IOMMU's register file: `o` the offset, `n` 4 or 8 bytes. Registers are kept at their own addresses. -/
def State.ioWrite (s : State) (o n v : Nat) : State :=
  let a := IOMMU + o
  if o < 8 || o == 8 then s
  else if a == ioDdtp then (if v % 16 ≤ 4 then s.wr ioDdtp (packBits [(0, 4, v), (10, 44, v / 1024)]) else s)
  else if a == ioCqb || a == ioFqb || o == 56 then s.wr a (packBits [(0, 5, v), (10, 44, v / 1024)])
  else if a == ioCqt then (s.wr ioCqt (v % 2 ^ 32)).ioCommands 65536
  else if a == ioCqh || a == ioFqt || o == 68 then s
  else if a == ioFqh || o == 64 then s.wr a (v % 2 ^ 32)
  else if a == ioCqcsr then
    let c := s.rd ioCqcsr
    let c := Nat.lor c (Nat.land v 0xF00) - Nat.land v 0xF00
    let s := s.wr ioCqcsr (packBits [(0, 2, v), (8, 4, c / 256), (16, 1, v)])
    (if bitAt v 0 && !bitAt c 16 then (s.wr ioCqh 0).wr ioCqt 0 else s).ioCommands 65536
  else if a == ioFqcsr || o == 80 then
    let c := s.rd a
    let c := Nat.lor c (Nat.land v 0x300) - Nat.land v 0x300
    let s := s.wr a (packBits [(0, 2, v), (8, 2, c / 256), (16, 1, v)])
    if bitAt v 0 && !bitAt c 16 then s.wr (if a == ioFqcsr then ioFqt else IOMMU + 68) 0 else s
  else if a == ioIpsr then s.wr ioIpsr (Nat.lor (s.rd ioIpsr) (v % 16) - v % 16)
  else if a == ioTrCtl then
    let r : DmaReq := ⟨bitsOf v 40 24, if bitAt v 32 then some (bitsOf v 12 20) else none, !bitAt v 3, s.rd ioTrIova⟩
    if !bitAt v 0 then s
    else match s.ioTranslate r with
      | (s, .ok pa) => (s.wr ioTrCtl (putBits v 0 1 0)).wr ioTrResp (packBits [(10, 44, pa / 4096)])
      | (s, .error c) => ((s.ioFault r c 0).wr ioTrCtl (putBits v 0 1 0)).wr ioTrResp 1
  else if o < 4096 && n ≤ 8 then s.wr a v
  else s

/-- A read of the IOMMU's register file. -/
def State.ioRead (s : State) (o : Nat) : Nat :=
  if o == 0 then ioCapabilities else if o == 8 then 2 else if o < 4096 then s.rd (IOMMU + o) else 0

end Sys2Proof.Machine
end

