-- ==== Sys2Proof/Machine/Wheel.lean ====
section
/-! DEFINITION. The time wheel: pools, arming, the horizon, firing, completion, records and aborts (R115 to R156, R559).
What an action does outside the wheel is in `Fire.lean`. -/

namespace Sys2Proof.Machine

open Sys2Proof

/-! ### Entries -/

def State.went (s : State) (i : Nat) : WEntry := tabGet (fun _ => WEntry.init) s.wheel.entries i

def State.setWent (s : State) (i : Nat) (e : WEntry) : State :=
  { s with wheel := { s.wheel with entries := tabSet (fun _ => WEntry.init) s.wheel.entries i e } }

/-- The handle of entry `i`: generation and index (R126). -/
def wHandle (i : Nat) (e : WEntry) : Nat := 65536 * e.gen + i

/-- STATE as R120 codes it. -/
def eStateNum : EState → Nat
  | .free => 0 | .armed => 1 | .imminent => 2 | .fired => 3 | .done => 4 | .aborted => 5

/-- The 32 bytes of an entry as a number (R120). -/
def wEntryNat (e : WEntry) : Nat :=
  packBits [(0, 64, e.time), (64, 64, e.arg0), (128, 64, e.addr), (192, 4, e.action), (196, 1, b2n e.notify), (197, 1, b2n e.sz),
    (198, 1, b2n e.ledger), (200, 8, e.sel), (208, 16, e.sub), (224, 3, eStateNum e.state), (227, 1, b2n e.late),
    (228, 1, b2n e.coarse), (229, 1, worldNum e.world), (230, 1, b2n e.slice.isSome), (231, 4, e.hart),
    (235, 6, e.slice.getD 0), (241, 15, e.gen)]

/-- The class of a target address (R135); none for the boot ROM, the debug window and reserved ranges. -/
def State.leadClass (s : State) (a : Nat) : Option Nat :=
  match s.region a with
  | .dram => some 0
  | .scratch _ _ => some 1
  | .secSram => some 2
  | .tkLocal _ _ => some 3
  | .warden => some 4
  | .regs d _ _ => some (5 + d)
  | .pcie => some 13
  | .cascade _ _ => some 14
  | _ => none

/-- The lead time of an entry: its class's for STORE and SAMPLE, else 0 (R129). -/
def State.lead (s : State) (e : WEntry) : Nat :=
  if e.action == 3 || e.action == 7 then
    match s.leadClass e.addr with
    | some k => s.get (TWH_LEAD_NS k)
    | none => 0
  else 0

/-- The intended instant (R129). -/
def State.intended (s : State) (e : WEntry) : Nat := e.time - s.lead e

/-- The intended instant has been reached. -/
def State.entryDue (s : State) (e : WEntry) : Bool := decide (s.intended e ≤ s.vt 0)

/-- TIME lies in an earlier tick than the present one (R130). -/
def State.timePassed (s : State) (t : Nat) : Bool :=
  let d := s.tdom 0
  decide (2 ^ 40 * t + s.get (DISC_RATE_RATE 0) ≤ d.acc)

/-- ARMED or IMMINENT and not a reservation of a cluster in epoch mode. -/
def wPending (e : WEntry) : Bool := (e.state == .armed || e.state == .imminent) && e.reserved.isNone

/-- `a` ranks before `b`, in TIME or intended instant, then acceptance (R127, R129). -/
def ranksBefore (ta qa tb qb : Nat) : Bool := decide (ta < tb) || (ta == tb && decide (qa < qb))

/-! ### Pools (R115 to R119) -/

/-- Size and first index of a world's partition (R115). -/
def State.partSize (s : State) (w : World) : Nat := if w == .secure then s.get TWH_PART_SECURE else s.get TWH_PART_NORMAL
def State.partBase (s : State) (w : World) : Nat := if w == .secure then 0 else s.get TWH_PART_SECURE

/-- The world whose partition the slice quotas are carved from (R117). -/
def State.sliceOwner (s : State) : World := s.owner SNS 2

/-- The quotas of all slices but `n`. -/
def State.quotasBut (s : State) (n : Nat) : Nat :=
  ((List.range 64).map (fun i => if i == n then 0 else s.get (TWH_S_QUOTA_QUOTA i))).foldl (· + ·) 0

/-- The size of a world's pool (R117). -/
def State.poolSize (s : State) (w : World) : Nat :=
  s.partSize w - (if w == s.sliceOwner then s.quotasBut 64 else 0)

/-- Who an entry is charged to: a world's pool, or a slice's quota. -/
structure WOwner where
  world : World
  slice : Option Nat
  deriving DecidableEq, Repr

/-- The owner of an entry. -/
def wOwner (e : WEntry) : WOwner := ⟨e.world, e.slice⟩

/-- Two owners are one pool. -/
def samePool (a b : WOwner) : Bool :=
  match a.slice, b.slice with
  | some m, some n => m == n
  | none, none => a.world == b.world
  | _, _ => false

/-- The partition an owner's entries lie in. -/
def State.ownerPart (s : State) (o : WOwner) : World := if o.slice.isSome then s.sliceOwner else o.world

/-- USED and size of the owner's pool. -/
def wUsed : WOwner → Fld
  | ⟨w, none⟩ => TWH_W_POOL_USED (worldNum w)
  | ⟨_, some n⟩ => TWH_S_USED_USED n
def State.wSize (s : State) (o : WOwner) : Nat :=
  match o.slice with
  | some n => s.get (TWH_S_QUOTA_QUOTA n)
  | none => s.poolSize o.world

/-- The partition index `i` lies in, if any. -/
def State.indexPart (s : State) (i : Nat) : Option World :=
  if i < s.get TWH_PART_SECURE then some .secure
  else if i < s.get TWH_PART_SECURE + s.get TWH_PART_NORMAL then some .normal
  else none

/-- Take the free index of a partition that was freed longest ago; indices never used come first (R119). -/
def State.wAlloc (s : State) (w : World) : Option (Nat × State) :=
  let k := s.wheel
  let fresh := if w == .secure then k.freshS else k.freshN
  if fresh < s.partSize w then
    let k := if w == .secure then { k with freshS := fresh + 1 } else { k with freshN := fresh + 1 }
    some (s.partBase w + fresh, { s with wheel := k })
  else match (if w == .secure then k.freedS else k.freedN) with
    | i :: r => some (i, { s with wheel := if w == .secure then { k with freedS := r } else { k with freedN := r } })
    | [] => none

/-! ### Interrupts of an owner (R155, R156, R204) -/

/-- The world of a slice's tenant: of the binding in force, else of `CSL_KEY`. -/
def State.slice (s : State) (n : Nat) : SliceSt := tabGet (fun _ => SliceSt.init) s.slices n
def State.setSlice (s : State) (n : Nat) (v : SliceSt) : State := { s with slices := tabSet (fun _ => SliceSt.init) s.slices n v }
def State.sliceWorld (s : State) (n : Nat) : World :=
  match (s.slice n).key with
  | some (w, _) => w
  | none => worldOf (s.get (CSL_KEY_TWORLD n))

/-- RESETTING (R198). -/
def State.sliceResetting (s : State) (n : Nat) : Bool := s.get (CSL_STAT_STATE n) == 2

/-- Carry out `f`; where a summary of slice `n` rises, its vector sends an MSI, which a completion vector counts. Nothing
is sent while the slice is RESETTING (R204, R206, R215). -/
def State.sliceVec (s : State) (n : Nat) (summary : State → Bool) (vec : Nat) (f : State → State) : State :=
  let t := f s
  if !summary s && summary t && !t.sliceResetting n then
    let (u, sent) := t.vecSend (t.sliceWorld n) (srcId SNS 2) vec
    u.when (sent && vec == CSL_VEC_COMPL n) (fun v => v.sliceCount n 7 1)
  else t

/-- The WHEEL summary of a slice. -/
def wheelSummary (n : Nat) (s : State) : Bool :=
  Nat.land (s.get ⟨TWH_S_IRQ_STATUS n, 0, 6⟩) (s.get (TWH_S_IRQ_EN_EN n)) != 0

/-- Set bit `b` of the owner's wheel interrupt status. -/
def State.wheelIrq (s : State) (o : WOwner) (b : Nat) : State :=
  match o.slice with
  | some n => s.sliceVec n (wheelSummary n) (CSL_VEC_WHEEL n) (fun t => t.raise ⟨TWH_S_IRQ_STATUS n, 0, 6⟩ (2 ^ b))
  | none => s.raise ⟨TWH_W_IRQ_STATUS (worldNum o.world), 0, 6⟩ (2 ^ b)

/-! ### Completion rings (R125, R155) -/

/-- The registers of an owner's ring: base, configuration, tail, head. -/
def ringBase : WOwner → Nat
  | ⟨w, none⟩ => TWH_W_RING_BASE (worldNum w)
  | ⟨_, some n⟩ => TWH_S_RING_BASE n
def ringEn : WOwner → Fld
  | ⟨w, none⟩ => TWH_W_RING_CFG_EN (worldNum w)
  | ⟨_, some n⟩ => TWH_S_RING_CFG_EN n
def ringLog : WOwner → Fld
  | ⟨w, none⟩ => TWH_W_RING_CFG_LOG2 (worldNum w)
  | ⟨_, some n⟩ => TWH_S_RING_CFG_LOG2 n
def ringTail : WOwner → Fld
  | ⟨w, none⟩ => TWH_W_RING_TAIL_TAIL (worldNum w)
  | ⟨_, some n⟩ => TWH_S_RING_TAIL_TAIL n
def ringHead : WOwner → Fld
  | ⟨w, none⟩ => TWH_W_RING_HEAD_HEAD (worldNum w)
  | ⟨_, some n⟩ => TWH_S_RING_HEAD_HEAD n

/-- The ring is full: TAIL + 1 = HEAD modulo its size. -/
def State.ringFull (s : State) (o : WOwner) : Bool :=
  (s.get (ringTail o) + 1) % 2 ^ s.get (ringLog o) == s.get (ringHead o) % 2 ^ s.get (ringLog o)

/-- An entry returns to FREE: generation advanced, pool credited (R123, R126). -/
def State.wheelFree (s : State) (i : Nat) : State :=
  let e := s.went i
  if e.state == .free then s
  else
    let s := s.put (wUsed (wOwner e)) (s.get (wUsed (wOwner e)) - 1)
    let k := s.wheel
    let k := { k with live := k.live.filter (· != i) }
    let k := if s.indexPart i == some .secure then { k with freedS := k.freedS ++ [i] } else { k with freedN := k.freedN ++ [i] }
    let s := { s with wheel := k }
    s.setWent i { e with state := .free, gen := e.gen % 0x7FFF + 1, reserved := none }

/-- IMMINENT entries, as `TWH_HORIZON.USED` shows. -/
def State.horizonCount (s : State) : State :=
  s.put TWH_HORIZON_USED ((s.wheel.live.filter (fun i => (s.went i).state == .imminent)).length)

/-- An entry that reached DONE or ABORTED goes to FREE at once, or its record waits (R123 to R125). -/
def State.wheelPost (s : State) (i : Nat) : State :=
  let e := s.went i
  let o := wOwner e
  if !e.notify || !s.on (ringEn o) then s.wheelFree i
  else s.when (s.ringFull o) (fun t => t.wheelIrq o 1)

/-- A fired entry, or an EXPECT, completes at instant `t` (R120, R123, R125, R131). -/
def State.wheelFinish (s : State) (i : Nat) (st : Status) (missed : Bool) (t : Nat) : State :=
  let e := s.went i
  let e := { e with state := .done, status := st, missed := missed, doneVt := t, doneQual := s.quality 0, doneDseq := s.dseq8 0 }
  let s := (s.setWent i e).horizonCount
  let h := wHandle i e
  let stamp : Stamp := ⟨t, 0, s.dseq8 0, s.quality 0⟩
  let s := s.when (e.ledger && e.action != 6) (fun u =>
    u.ldgAccept (recAt 0 stamp 0x23 24 (srcId TKD 2) e.action
      (packBits [(0, 32, h), (32, 8, st8 st), (40, 1, b2n e.late), (41, 1, b2n e.coarse), (64, 64, e.time), (128, 64, e.addr)])))
  let s := s.when missed (fun u =>
    let u := u.when e.ledger (fun v =>
      v.ldgAccept (recAt 0 stamp 0x22 24 (srcId TKD 2) (e.slice.getD 0xFFFF)
        (packBits [(0, 32, h), (32, 32, e.addr % 2 ^ 18), (64, 32, e.arg0),
          (96, 32, bitsOf (tabGet (fun _ => 0) v.cap.stt (e.addr % 2 ^ 18)) 64 32), (128, 64, e.time)])))
    let u := u.wheelIrq (wOwner e) 2
    match e.slice with
    | some n => u.sliceCount n 10 1
    | none => u)
  s.wheelPost i

/-! ### The horizon (R127, R128) -/

/-- The pending entries that rank before instant `t` and acceptance `q`. -/
def State.rankOf (s : State) (t q : Nat) : Nat :=
  (s.wheel.live.filter (fun j =>
    let e := s.went j
    wPending e && ranksBefore (s.intended e) e.seq t q)).length

/-- The entry qualifies for a comparator slot: intended within 1 ms and among the 64 first. -/
def State.horizonFits (s : State) (i : Nat) : Bool :=
  let e := s.went i
  decide (s.intended e ≤ s.vt 0 + 1000000) && decide (s.rankOf (s.intended e) e.seq < 64)

/-- The last-ranked of the IMMINENT entries. -/
def State.horizonLast (s : State) : Option Nat :=
  s.wheel.live.foldl (fun (b : Option Nat) j =>
    let e := s.went j
    if e.state != .imminent then b
    else match b with
      | none => some j
      | some k =>
        let f := s.went k
        if ranksBefore (s.intended f) f.seq (s.intended e) e.seq then some j else b) none

/-- The entry takes a slot, displacing the last-ranked of 64 occupants. -/
def State.horizonTake (s : State) (i : Nat) : State :=
  let s := (s.setWent i { s.went i with state := .imminent }).horizonCount
  if s.get TWH_HORIZON_USED ≤ 64 then s
  else match s.horizonLast with
    | some j => (s.setWent j { s.went j with state := .armed }).horizonCount
    | none => s

/-- An entry earns a slot, if it does. -/
def State.horizonAdmit (s : State) (i : Nat) : State :=
  let e := s.went i
  if e.state == .armed && e.reserved.isNone && !s.entryDue e && s.horizonFits i then s.horizonTake i else s

def execHorizonAdmit (idx : WIdx) (s : State) : Ans := .next (s.horizonAdmit idx.val)

/-! ### EXPECT (R131) -/

/-- The delivery count of a stream (R165). -/
def State.sttCount (s : State) (i : Nat) : Nat := bitsOf (tabGet (fun _ => 0) s.cap.stt (i % 2 ^ 18)) 64 32

/-- A count meets a target: count minus target, signed 32 bits, zero or more. -/
def countMet (count target : Nat) : Bool := decide (0 ≤ toSigned 32 (count + 2 ^ 32 - target % 2 ^ 32))

/-- An EXPECT's count is met now. -/
def State.expectMet (s : State) (e : WEntry) : Bool := e.action == 6 && countMet (s.sttCount e.addr) e.arg0

/-- A LAST descriptor of a stream was written: pending EXPECT entries that are met complete. -/
def State.expectUpdate (s : State) (stream : Nat) : State :=
  State.each s.wheel.live (fun i t =>
    let e := t.went i
    if wPending e && e.action == 6 && e.addr == stream && t.expectMet e then t.wheelFinish i .ok false (t.vt 0) else t) s

/-! ### Firing (R123, R130) -/

/-- The entry of a handle fired on this tick (R145). -/
def State.firedNow (s : State) (handle : Nat) : Bool := s.wheel.firedTick == s.ticks && s.wheel.fired.contains handle

/-- Note a firing (R145). -/
def State.noteFired (s : State) (handle : Nat) : State :=
  { s with wheel := { s.wheel with firedTick := s.ticks, fired := (if s.wheel.firedTick == s.ticks then s.wheel.fired else []) ++ [handle] } }

/-- An entry goes to FIRED; `jumped` is a firing by R150. The flag asks for its action to be issued; an EXPECT completes here,
MISSED. -/
def State.wheelFire (s : State) (i : Nat) (coarse jumped : Bool) : State × Bool :=
  let e := s.went i
  let late := jumped || s.timePassed e.time
  let s := ((s.setWent i { e with state := .fired, late := late, coarse := coarse, issueVt := s.vt 0 }).horizonCount).noteFired (wHandle i e)
  let s := s.when late (fun t => (t.inc TWH_LATECNT_LATE 1).wheelIrq (wOwner e) 3)
  let s := s.when coarse (fun t => t.inc TWH_HORIZON_COARSE 1)
  if e.action == 6 then (s.wheelFinish i .ok true (s.vt 0), false) else (s, true)

/-- An accepted entry takes its first state (R123, R131). The flag asks for its action to be issued. -/
def State.wheelPlace (s : State) (i : Nat) : State × Bool :=
  let e := s.went i
  if s.expectMet e then (s.wheelFinish i .ok false (s.vt 0), false)
  else if s.entryDue e then s.wheelFire i false false
  else (s.horizonAdmit i, false)

/-! ### Arming (R116, R118, R121, R122) -/

/-- What an arm asks for; ADDR is physical. `vm`: the arming hart is in U, VS or VU mode, with the one hart and file its IRQ
may name. -/
structure ArmReq where
  time : Nat
  arg0 : Nat
  addr : Nat
  action : Nat
  notify : Bool
  sz : Bool
  ledger : Bool
  sel : Nat
  sub : Nat
  owner : WOwner
  hart : Nat
  pastRej : Bool
  vm : Option (Option (Nat × Nat))
  /-- The cluster in epoch mode that reserves the entry (R153). -/
  epoch : Option Nat
  deriving DecidableEq, Repr

/-- A stream index lies in the partition of slice `n` (R164). -/
def State.inPart (s : State) (n i : Nat) : Bool :=
  decide (s.get (STT_PART_FIRST n) ≤ i) && decide (i < s.get (STT_PART_FIRST n) + s.get (STT_PART_COUNT n))

/-- The operands keep R121 and the arm is not refused by R122. -/
def State.armOk (s : State) (q : ArmReq) : Bool :=
  let w := q.owner.world
  let size := if q.sz then 8 else 4
  if q.action == 1 then q.sel < 16 && q.sub == 0 && q.arg0 < 2 && q.addr == 0 && s.owner TKD 1 == w
  else if q.action == 2 then q.sel < 16 && q.sub == 0 && decide (8 ≤ q.arg0) && decide (q.arg0 < 2 ^ 32) && q.addr == 0 && s.owner TKD 1 == w
  else if q.action == 3 then q.sel == 0 && q.sub == 0 && q.addr % size == 0 && (s.leadClass q.addr).isSome
  else if q.action == 4 then q.sel < 17 && q.sub < 8 && decide (q.arg0 < 2 ^ 16) && q.addr == 0 && s.owner NET (16 + q.sel) == w
  else if q.action == 5 then
    q.sel < 8 && q.addr == 0 && s.owner SNS (16 + q.sel) == w &&
      (if bitAt q.sub 0 then decide (1 ≤ bitsOf q.sub 1 3) && decide (bitsOf q.sub 1 3 ≤ 4) && q.sub < 16 && decide (q.arg0 < 2 ^ 56)
       else q.sub == 0 && decide (q.arg0 < 2 ^ 16))
  else if q.action == 6 then
    q.sel == 0 && q.sub == 0 && decide (q.arg0 < 2 ^ 32) && decide (q.addr < 2 ^ 18) &&
      (match q.owner.slice with
       | some n => s.inPart n q.addr
       | none => s.owner SNS 1 == w)
  else if q.action == 7 then q.sel == 0 && q.sub == 0 && q.arg0 % 32 == 0 && q.addr % size == 0 && (s.leadClass q.addr).isSome
  else if q.action == 8 then
    let f := bitsOf q.sub 0 3
    q.sel < 12 && q.sub < 2 ^ 14 && bitsOf q.sub 3 11 != 0 && q.arg0 == 0 && q.addr == 0 &&
      (if q.sel < 8 then f < 7 && s.fileWorld q.sel f == w else s.licWorld (q.sel - 8) == w) &&
      (match q.vm with
       | none => true
       | some own => own == some (q.sel, f))
  else false

/-- Judge an arm and place it: the new state, the outcome, the handle or 0, and whether its action is to be issued (R118, R122,
R123, R134, R142, R153, R206). -/
def State.arm (s : State) (q : ArmReq) : State × Status × Nat × Bool :=
  let o := q.owner
  let e : WEntry := { WEntry.init with time := q.time, arg0 := q.arg0, addr := q.addr, action := q.action, notify := q.notify,
                                       sz := q.sz, ledger := q.ledger, sel := q.sel, sub := q.sub, state := .armed,
                                       world := o.world, slice := o.slice, hart := q.hart, reserved := q.epoch }
  let past := q.pastRej && s.entryDue e && !(q.epoch.isNone && s.expectMet e)
  let slot := s.wAlloc (s.ownerPart o)
  let st := highest [(!s.armOk q, .denied), (!s.fenceOpen TKD, .fenced),
    (match o.slice with | some n => s.sliceResetting n | none => false, .unavailable),
    (decide (s.wSize o ≤ s.get (wUsed o)) || slot.isNone, .full), (past, .tooLate)]
  match st, slot with
  | .ok, some (i, s) =>
    let gen := (s.went i).gen
    let e := { e with gen := gen, seq := s.wheel.nextSeq }
    let s := { s with wheel := { s.wheel with nextSeq := s.wheel.nextSeq + 1, live := s.wheel.live ++ [i] } }
    let s := (s.setWent i e).inc (wUsed o) 1
    let s := match o.slice with
      | some n => s.sliceCount n 8 1
      | none => s
    let (s, issue) := if q.epoch.isSome then (s, false) else s.wheelPlace i
    (s, .ok, wHandle i e, issue)
  | .full, _ =>
    let s := s.wheelIrq o 4
    (match o.slice with
     | some n => s.sliceCount n 9 1
     | none => s, .full, 0, false)
  | st, _ => (s, st, 0, false)

/-! ### Aborting (R144 to R148) -/

/-- Abort the entry of a handle for an owner. An abort on the tick of the firing is too late, the entry being FREE again included
(R145). -/
def State.abort (s : State) (o : WOwner) (handle : Nat) : State × Status :=
  let i := handle % 65536
  let e := s.went i
  let live := e.state != .free
  let st := highest [(s.indexPart i != some (s.ownerPart o), .denied), (!s.fenceOpen TKD, .fenced),
    (live && !samePool (wOwner e) o, .denied), (!live || e.gen != handle / 65536 % 65536, if s.firedNow handle then .tooLate else .stale)]
  if st != .ok then (s, st)
  else if e.reserved.isSome then (s.wheelFree i, .ok)
  else match e.state with
    | .armed | .imminent =>
      if s.entryDue e then (s, .tooLate)
      else
        let e := { e with state := .aborted, status := .ok, missed := false, doneVt := s.vt 0, doneQual := s.quality 0, doneDseq := s.dseq8 0 }
        (((s.setWent i e).horizonCount).wheelPost i, .ok)
    | .aborted => (s, .ok)
    | _ => (s, .tooLate)

/-! ### Completion records (R125, R559) -/

/-- A completion record (R125). -/
def wRecord (i : Nat) (e : WEntry) : Nat :=
  packBits [(0, 32, wHandle i e), (32, 8, st8 e.status), (40, 3, eStateNum e.state), (43, 1, b2n e.late), (44, 1, b2n e.coarse),
    (45, 1, b2n e.missed), (46, 2, e.doneQual), (48, 8, e.doneDseq), (56, 4, e.action), (64, 64, e.doneVt)]

/-- The ring of an owner is disabled: every entry that waits for it returns to FREE without a record (R124, R559). -/
def State.ringDisabled (s : State) (o : WOwner) : State :=
  State.each s.wheel.live (fun i t =>
    let e := t.went i
    if (e.state == .done || e.state == .aborted) && samePool (wOwner e) o then t.wheelFree i else t) s

/-- The requests of the wheel (R133). -/
def wheelReq (w : World) : MemReq := ⟨w, srcId TKD 2, 10⟩

/-- The record of entry `i` goes to its ring. -/
def State.recordWrite (s : State) (i : Nat) : State :=
  let e := s.went i
  let o := wOwner e
  if !(e.state == .done || e.state == .aborted) then s
  else if !e.notify || !s.on (ringEn o) then s.wheelFree i
  else if s.ringFull o then s.wheelIrq o 1
  else
    let a := s.rd (ringBase o) + 16 * s.get (ringTail o)
    match s.dataVerdict o.world .write a with
    | .ok =>
      let s := s.memWrite (wheelReq o.world) a 16 (wRecord i e)
      let s := s.put (ringTail o) ((s.get (ringTail o) + 1) % 2 ^ s.get (ringLog o))
      (s.wheelIrq o 0).wheelFree i
    | v =>
      let s := s.physRefuse (wheelReq o.world) false v a
      ((s.put (ringEn o) 0).wheelIrq o 5).ringDisabled o

def execCompletionRecordWrite (idx : WIdx) (s : State) : Ans := .next (s.recordWrite idx.val)

/-! ### Resets and jumps -/

/-- TKD goes down: every entry is discarded without records (R134). -/
def State.wheelDrop (s : State) : State := { s with wheel := .init }

/-- The entries of slice `n` at its reset: pending ones are aborted and free, finished ones free (R206). -/
def State.wheelSliceReset (s : State) (n : Nat) : State :=
  State.each s.wheel.live (fun i t =>
    let e := t.went i
    if e.slice == some n && e.state != .fired then t.wheelFree i else t) (s.put (TWH_S_RING_CFG_EN n) 0)
    |>.horizonCount

/-- A backward jump: IMMINENT entries now more than 1 ms ahead return to ARMED (R151). -/
def State.horizonRelease (s : State) : State :=
  (State.each s.wheel.live (fun i t =>
    let e := t.went i
    if e.state == .imminent && decide (t.vt 0 + 1000000 < t.intended e) then t.setWent i { e with state := .armed } else t) s).horizonCount

/-- The due entries, in the order of TIME and then acceptance (R129, R150). -/
def State.dueOrder (s : State) (ok : WEntry → Bool) : List Nat :=
  let l := s.wheel.live.filter (fun i => let e := s.went i; wPending e && s.entryDue e && ok e)
  insSort (fun a b => let e := s.went a; let f := s.went b; ranksBefore e.time e.seq f.time f.seq) l

/-! ### Calibration (R135) -/

/-- The classes present: memory of a domain while its fence is open, PCIe and cascade while reachable. -/
def State.classPresent (s : State) (k : Nat) : Bool :=
  if k == 0 then s.fenceOpen MEM
  else if k == 1 then s.fenceOpen MEM && (List.range 24).any (fun w => s.scratchWay w)
  else if k == 2 || k == 4 then s.fenceOpen SEC
  else if k == 3 then s.fenceOpen TKD
  else if k ≤ 12 then s.fenceOpen (k - 5)
  else if k == 13 then s.pcieLink
  else (List.range 4).any (fun m => m != s.get CSC_STATUS_MYID && bitAt (s.get CSC_STATUS_PRESENT) m)

/-- Default lead times (R135). -/
def leadDefault (k : Nat) : Nat :=
  if k == 0 then 170 else if k == 1 then 90 else if k == 2 then 80 else if k == 3 then 50 else if k == 4 then 80
  else if k ≤ 12 then 100 else if k == 13 then 600 else 900

/-- Each present class takes the median measured for it; the others keep the default (R135). -/
def State.calibrated (s : State) (medians : List Nat) : State :=
  State.each (List.range 15) (fun k t =>
    let p := t.classPresent k
    (t.put (TWH_LEAD_NS k) (if p then Nat.min (medians.getD k (leadDefault k)) 65535 else leadDefault k)).put (TWH_LEAD_MEAS k) (b2n p)) s

def execWheelCalibrate (a : Agent) (s : State) : Ans :=
  .next (s.regAccess a true TWH_CTL 4 (fun t => t.put TWH_CTL_CALBUSY 1))

def execCalibrationDone (medians : List Nat) (s : State) : Ans :=
  .next (if s.on TWH_CTL_CALBUSY then (s.calibrated medians).put TWH_CTL_CALBUSY 0 else s)

/-! ### Register commands -/

/-- The read of `TWH_INSP0` takes the snapshot of the entry (R154). -/
def State.inspRead (s : State) : State × Nat :=
  let v := wEntryNat (s.went (s.get TWH_INSP_IDX_INDEX))
  ({ s with wheel := { s.wheel with insp := v } }, v % 2 ^ 64)

def execTwhInspRead (a : Agent) (half : Half) (s : State) : Ans := .next (s.readCmd a (TWH_INSP 0) half State.inspRead)

/-- A quota is reduced to the largest value that fits the partition (R117). -/
def State.quotaWrite (s : State) (n q : Nat) : State :=
  s.put (TWH_S_QUOTA_QUOTA n) (Nat.min (q % 2 ^ 17) (s.partSize s.sliceOwner - s.quotasBut n))

def execWheelQuotaWrite (a : Agent) (n : Slice) (quota : Nat) (s : State) : Ans :=
  .next (s.regAccess a true (TWH_S_QUOTA n.val) 4 (fun t => t.quotaWrite n.val quota))

end Sys2Proof.Machine
end

