-- ==== Sys2Proof/Machine/Slices.lean ====
section
/-! DEFINITION. Capture slices: routing, binding, submissions, moderation, reset and mailboxes (R196 to R215). -/

namespace Sys2Proof.Machine

open Sys2Proof

/-! ### Routing (R196, R199) -/

/-- A binding matches a key. -/
def keyMatch (k : World × Nat × Nat × Bool) (w : World) (vmid asid : Nat) : Bool :=
  k.1 == w && k.2.1 == vmid && (k.2.2.1 == asid || k.2.2.2)

/-- The slice whose binding matches a key, if any (at most one does, R197). -/
def State.sliceMatch (s : State) (w : World) (vmid asid : Nat) : Option Nat :=
  (List.range 64).find? (fun n =>
    match (s.slice n).key with
    | some k => keyMatch k w vmid asid
    | none => false)

/-- The slice a hart's access is routed to, by the key it has now; M-mode matches none (R196). -/
def State.hartSlice (s : State) (h : Nat) : Option Nat :=
  if h ≥ 8 || (s.hart h).priv == .m then none
  else
    let v := (s.hart h).priv == .vs || (s.hart h).priv == .vu
    s.sliceMatch (s.hartWorld h) (if v then bitsOf (s.csr h 0x680) 44 14 else 0)
      (bitsOf (s.csr h (if v then 0x280 else 0x180)) 44 16)

/-- Who a hart's arms are charged to (R116). -/
def State.armOwner (s : State) (h : Nat) : WOwner := ⟨s.hartWorld h, s.hartSlice h⟩

/-- The physical address of the doorbell page. -/
def doorbellBase : Nat := 0x4602E000

/-- A hart's access at offset `off` of the doorbell page (R199, R207). -/
def State.doorbell (s : State) (h : Nat) (write : Bool) (off : Nat) (f : Nat → State → State) : State :=
  let a : Agent := .hart (Fin.ofNat 13 h)
  if !(s.hart h).running then s
  else if !s.fenceOpen SNS then s.regRefused a write (doorbellBase + off) .fenced
  else match s.hartSlice h with
    | some n => f n s
    | none => s.regRefused a write (doorbellBase + off) .denied

/-- The doorbell page (R199). -/
def isDoorbell (a : Nat) : Bool := a / 0x1000 == 0x4602E

/-- The pages of the interrupt files (R37). -/
def imsicPage (a : Nat) : Bool := within a 0x43100000 0x43108000 || within a 0x43200000 0x43240000

/-- The slice an agent's access is routed to: only a hart has a key (R199). -/
def State.agentSlice (s : State) : Agent → Option Nat
  | .hart h => s.hartSlice h.val
  | _ => none

/-- A mode below HS and S reads counter `i` of its slice only where UMASK names it (R510, R516). -/
def State.dbCounterOk (s : State) (a : Agent) (n i : Nat) : Bool :=
  match a with
  | .hart h => (s.hart h.val).priv == .m || (s.hart h.val).priv == .s || s.on (pmuUmask (.slice n) i)
  | _ => true

/-- What a register window answers, the doorbell page (R199, whose fence stands first, R42) and the interrupt files, which judge
the sender of a message themselves (R315), included; `sl` is the slice of the access. -/
def State.winJudge (s : State) (a : Agent) (sl : Option Nat) (write : Bool) (addr bytes : Nat) : RegVerdict :=
  if isDoorbell addr then
    if !(bytes == 4 || bytes == 8) || addr % bytes != 0 then .bad
    else if !s.fenceOpen SNS then .refuse .fenced
    else match sl with
      | none => .refuse .denied
      | some n =>
        let o := addr % 0x1000
        if !write && within o 0x400 0x440 && !(List.range (bytes / 4)).all (fun k => s.dbCounterOk a n (o % 0x40 / 4 + k)) then .refuse .denied
        else .ok
  else if write && imsicPage addr && s.fenceOpen APC && (bytes == 4 || bytes == 8) && addr % bytes == 0 then .ok
  else s.regVerdict a write addr bytes

/-! ### Interrupts (R204, R205) -/

/-- The COMPL and MBX summaries of a slice. -/
def complSummary (n : Nat) (s : State) : Bool := Nat.land (s.get (DB_IRQ_STATUS_COMPL n)) (s.get (DB_IRQ_EN_EN n)) != 0
def mbxSummary (n : Nat) (s : State) : Bool := Nat.land (s.get ⟨DB_IRQ_STATUS n, 8, 3⟩) (bitsOf (s.get (DB_IRQ_EN_EN n)) 8 3) != 0

/-- The manager's summary. -/
def mevtSummary (n : Nat) (s : State) : Bool := Nat.land (s.get ⟨MBX_MEVT n, 0, 4⟩) (s.get (MBX_MEVT_EN_EN n)) != 0

/-- Change a slice's interrupt state; vectors follow the rise of their summaries. -/
def State.sliceIrq (s : State) (n : Nat) (f : State → State) : State :=
  s.sliceVec n (complSummary n) (CSL_VEC_COMPL n) (fun t => t.sliceVec n (mbxSummary n) (CSL_VEC_MBX n) f)

/-- Change the manager's events; its vector follows. -/
def State.managerIrq (s : State) (n : Nat) (f : State → State) : State :=
  withVec s (mevtSummary n) (s.owner SNS 3) (srcId SNS 3) (MBX_MVEC n) f

/-- Bit `r` of COMPL sets and its count starts again. -/
def State.complSet (s : State) (n r : Nat) : State :=
  let s := s.setSlice n { s.slice n with mod := tabSet (fun _ => 0) (s.slice n).mod r 0 }
  s.sliceIrq n (fun t => t.raise (DB_IRQ_STATUS_COMPL n) (2 ^ r))

/-- A descriptor of ring `r` was posted (R184, R205). -/
def State.complPost (s : State) (n r : Nat) : State :=
  let k := tabGet (fun _ => 0) (s.slice n).mod r + 1
  let s := s.sliceCount n 6 1
  if Nat.max 1 (s.get (CSL_MOD_COUNT n)) ≤ k then s.complSet n r
  else s.setSlice n { s.slice n with mod := tabSet (fun _ => 0) (s.slice n).mod r k }

def execModHoldoffExpire (n : Slice) (r : Fin 8) (s : State) : Ans :=
  .next (if s.get (CSL_MOD_HOLDOFF n.val) != 0 && tabGet (fun _ => 0) (s.slice n.val).mod r.val != 0 && !s.sliceResetting n.val
    then s.complSet n.val r.val else s)

/-! ### Submissions (R200, R201) -/

/-- Buffers submitted to a ring and not taken. -/
def State.ringUsed (s : State) (n r : Nat) : Nat :=
  let size := 2 ^ s.get (CAP_RING_CFG_BLOG2 n r)
  (s.get (CAP_BRING_TAIL_TAIL n r) % size + size - s.get (CAP_BRING_HEAD_HEAD n r) % size) % size

/-- OUTSTANDING of a slice. -/
def State.outstanding (s : State) (n : Nat) : Nat := ((List.range 8).map (fun r => s.ringUsed n r)).foldl (· + ·) 0

/-- A submission: a write of a ring's buffer tail (R200). -/
def State.submit (s : State) (n r tail : Nat) : State :=
  let size := 2 ^ s.get (CAP_RING_CFG_BLOG2 n r)
  let old := s.get (CAP_BRING_TAIL_TAIL n r) % size
  let added := (tail % 2 ^ 16 % size + size - old) % size
  let st := firstThat
    [(s.sliceResetting n || !s.on (CAP_RING_CFG_EN n r) || s.on (CAP_RING_CFG_STOPPED n r), .unavailable),
     (added == 0, .ok),
     (decide (size - 1 ≤ s.ringUsed n r + added), .denied),
     (decide (s.get (CSL_SHARE_DEPTH n) < s.outstanding n + added), .full)] .ok
  let s := (s.res (DB_RESULT_STATUS n) st).put (DB_RESULT_RING n) r
  match st with
  | .ok => (s.put (CAP_BRING_TAIL_TAIL n r) ((old + added) % size)).sliceCount n 2 added
  | .full => s.sliceCount n 3 1
  | _ => s.sliceCount n 4 1

def execDbSubmission (h : Hart) (r : Fin 8) (tail : BitVec 16) (s : State) : Ans :=
  .next (s.doorbell h.val true (0x10 * r.val) (fun n t => t.submit n r.val tail.toNat))

/-! ### Deadline query (R187, R213) -/

/-- What `DB_DL_HANDLE` latches for a stream: the handle of its pending coupled EXPECT, or a status. -/
def State.dlHandle (s : State) (n stream : Nat) : Nat :=
  if !s.inPart n stream then stBits 32 .denied
  else
    let i := tabGet (fun _ => 0) s.cap.dl stream
    let e := s.went (i % 65536)
    if i != 0 && e.gen == i / 65536 && wPending e then i else stBits 32 .unavailable

/-- A write of `DB_DL_QUERY`. -/
def State.dlQuery (s : State) (n stream : Nat) : State :=
  let s := s.put (DB_DL_QUERY_STREAM n) stream
  s.put (DB_DL_HANDLE_HANDLE n) (s.dlHandle n (stream % 2 ^ 18))

def execDlQuery (h : Hart) (stream : BitVec 18) (s : State) : Ans :=
  .next (s.doorbell h.val true 0x310 (fun n t => t.dlQuery n stream.toNat))

/-! ### Mailboxes (R208 to R211) -/

/-- The registers of one direction: staging and received words, RESULT, PEND, NEXTSEQ of the sender, SEQ and VALID of the receiver. -/
structure MbxDir where
  stage : Nat → Fld
  recv : Nat → Fld
  result : Fld
  pend : Fld
  next : Fld
  seq : Fld
  valid : Fld

/-- Manager to tenant, and tenant to manager. -/
def mbxM2T (n : Nat) : MbxDir :=
  ⟨MBX_MTX_WORD n, DB_RX_WORD n, MBX_MSTAT_RESULT n, MBX_MSTAT_PEND n, MBX_MSTAT_NEXTSEQ n, DB_RX_SEQ_SEQ n, DB_RX_SEQ_VALID n⟩
def mbxT2M (n : Nat) : MbxDir :=
  ⟨DB_TX_WORD n, MBX_MRX_WORD n, DB_TX_STAT_RESULT n, DB_TX_STAT_PEND n, DB_TX_STAT_NEXTSEQ n, MBX_MRXSEQ_SEQ n, MBX_MRXSEQ_VALID n⟩

/-- A sequence number after `q`: from 65,535 to 1 (R208). -/
def mbxNext (q : Nat) : Nat := if q == 65535 then 1 else q + 1

/-- SEND with EXPSEQ (R209); `m2t` tells the direction. -/
def State.mbxSend (s : State) (n : Nat) (m2t : Bool) (expseq : Nat) : State :=
  let d := if m2t then mbxM2T n else mbxT2M n
  let next := s.get d.next
  let st := firstThat
    [(s.get (CSL_STAT_STATE n) != 1, .unavailable), (s.on d.pend, .full), (mbxNext expseq == next && expseq != 0, .tooLate),
     (expseq != next, .stale)] .ok
  let s := s.res d.result st
  if st != .ok then s
  else
    let s := State.each (List.range 8) (fun i t => t.put (d.recv i) (t.get (d.stage i))) s
    let s := (((s.put d.seq expseq).put d.valid 1).put d.next (mbxNext next)).put d.pend 1
    if m2t then (s.sliceIrq n (fun t => t.raise (DB_IRQ_STATUS_MBX n) 1)).sliceCount n 12 1
    else (s.managerIrq n (fun t => t.raise (MBX_MEVT_DOORBELL n) 1)).sliceCount n 11 1

/-- The receiver of a direction acknowledges (R210). -/
def State.mbxAck (s : State) (n : Nat) (m2t : Bool) (seq : Nat) : State :=
  let d := if m2t then mbxM2T n else mbxT2M n
  if s.on d.valid && s.get d.seq == seq then
    let s := (s.put d.valid 0).put d.pend 0
    if m2t then s.managerIrq n (fun t => t.raise (MBX_MEVT_ACKED n) 1)
    else s.sliceIrq n (fun t => t.raise (DB_IRQ_STATUS_MBXACK n) 1)
  else s.inc (MBX_DISC_BADACK n) 1

/-- A tenant's access through the doorbell page by any agent: only a hart has a key (R199). -/
def State.tenantAccess (s : State) (a : Agent) (write : Bool) (off : Nat) (f : Nat → State → State) : State :=
  match a with
  | .hart h => s.doorbell h.val write off f
  | _ => if s.fenceOpen SNS then s.regRefused a write (doorbellBase + off) .denied else s.regRefused a write (doorbellBase + off) .fenced

def execMailboxSend (a : Agent) (side : MbxSide) (expseq : BitVec 16) (s : State) : Ans :=
  .next (match side with
    | .manager n => s.regAccess a true (MBX_MCMD n.val) 4 (fun t => t.mbxSend n.val true expseq.toNat)
    | .tenant => s.tenantAccess a true 0x220 (fun n t => t.mbxSend n false expseq.toNat))

def execMailboxAck (a : Agent) (side : MbxSide) (seq : BitVec 16) (s : State) : Ans :=
  .next (match side with
    | .manager n => s.regAccess a true (MBX_MACK n.val) 4 (fun t => t.mbxAck n.val false seq.toNat)
    | .tenant => s.tenantAccess a true 0x264 (fun n t => t.mbxAck n true seq.toNat))

/-- A direction at a slice reset: a message not acknowledged is dropped (R211). -/
def State.mbxEmpty (s : State) (n : Nat) (m2t : Bool) : State :=
  let d := if m2t then mbxM2T n else mbxT2M n
  let s := s.when (s.on d.pend) (fun t =>
    (((t.put d.valid 0).put d.pend 0).inc (MBX_DISC_DROPPED n) 1).managerIrq n (fun u => u.raise (MBX_MEVT_DISCARD n) 1))
  State.each (List.range 8) (fun i t => t.put (d.stage i) 0) s

/-! ### Binding and reset (R197, R198, R206) -/

/-- A key overlaps the binding of another slice. -/
def State.keyOverlaps (s : State) (n : Nat) (k : World × Nat × Nat × Bool) : Bool :=
  (List.range 64).any (fun m => m != n &&
    (match (s.slice m).key with
     | some j => j.1 == k.1 && j.2.1 == k.2.1 && (j.2.2.1 == k.2.2.1 || j.2.2.2 || k.2.2.2)
     | none => false))

/-- The key in `CSL_KEY`. -/
def State.sliceKey (s : State) (n : Nat) : World × Nat × Nat × Bool :=
  (worldOf (s.get (CSL_KEY_TWORLD n)), s.get (CSL_KEY_VMID n), s.get (CSL_KEY_ASID n), s.on (CSL_KEY_ASIDANY n))

/-- A slice enters RESETTING (R206). -/
def State.sliceStartReset (s : State) (n : Nat) (unbind : Bool) : State :=
  let s := (s.setSlice n { s.slice n with unbind := unbind, mod := [] }).put (CSL_STAT_STATE n) 2
  let s := State.each (List.range 8) (fun r t => t.put (CAP_RING_CFG_EN n r) 0) s
  let ctx := s.cap.ctx.map (fun c => if c.slice == n then { c with discard := true } else c)
  let s := { s with cap := { s.cap with ctx := ctx, descs := s.cap.descs.filter (fun d => d.slice != n) } }
  let s := s.wheelSliceReset n
  let s := (s.mbxEmpty n true).mbxEmpty n false
  s.wr (DB_IRQ_STATUS n) 0

/-- A write of `CSL_CMD` (R197, R198). -/
def State.sliceCmd (s : State) (n op : Nat) : State :=
  let state := s.get (CSL_STAT_STATE n)
  let res := CSL_STAT_RESULT n
  if op == 0 then s
  else if op == 1 then
    let k := s.sliceKey n
    if state != 0 || s.keyOverlaps n k then s.res res .denied
    else ((s.setSlice n { s.slice n with key := some k, unbind := false }).put (CSL_STAT_STATE n) 1).res res .ok
  else if state == 2 then s.res res .unavailable
  else if state == 0 then (s.res res .ok).managerIrq n (fun t => t.raise (MBX_MEVT_RESET_DONE n) 1)
  else (s.res res .ok).sliceStartReset n (op == 3)

def execSliceBind (a : Agent) (n : Slice) (s : State) : Ans := .next (s.regAccess a true (CSL_CMD n.val) 4 (fun t => t.sliceCmd n.val 1))
def execSliceReset (a : Agent) (n : Slice) (s : State) : Ans := .next (s.regAccess a true (CSL_CMD n.val) 4 (fun t => t.sliceCmd n.val 2))
def execSliceUnbind (a : Agent) (n : Slice) (s : State) : Ans := .next (s.regAccess a true (CSL_CMD n.val) 4 (fun t => t.sliceCmd n.val 3))

/-- A RESETTING slice is quiet (R198, R206): no wheel entry is charged to it. -/
def State.sliceQuiet (s : State) (n : Nat) : State :=
  if s.sliceResetting n && s.get (TWH_S_USED_USED n) == 0 then
    let u := (s.slice n).unbind
    let s := s.put (CSL_STAT_STATE n) (if u then 0 else 1)
    let s := s.when u (fun t => t.setSlice n { t.slice n with key := none, unbind := false })
    let s := s.managerIrq n (fun t => t.raise (MBX_MEVT_RESET_DONE n) 1)
    s.when (!u) (fun t => t.sliceIrq n (fun v => v.raise (DB_IRQ_STATUS_TRESET n) 1))
  else s

def execSliceQuiet (n : Slice) (s : State) : Ans := .next (s.sliceQuiet n.val)

end Sys2Proof.Machine
end

