-- ==== Sys2Proof/Machine/Capture.lean ====
section
/-! DEFINITION. The stream table and the capture engine: keys, lookup, updates, frames, buffers and descriptors (R157 to R195). -/

namespace Sys2Proof.Machine

open Sys2Proof

/-! ### Entries of the stream table (R165) -/

def State.stt (s : State) (i : Nat) : Nat := tabGet (fun _ => 0) s.cap.stt i
def State.setStt (s : State) (i v : Nat) : State := { s with cap := { s.cap with stt := tabSet (fun _ => 0) s.cap.stt i v } }

def sttValid (e : Nat) : Bool := bitAt e 0
def sttKind (e : Nat) : Nat := bitsOf e 1 2
def sttGen (e : Nat) : Nat := bitsOf e 8 8
def sttKey (e : Nat) : Nat := bitsOf e 16 48
def sttRing (e : Nat) : Nat := bitsOf e 96 3
def sttAsm (e : Nat) : Nat := bitsOf e 99 3
def sttStashEn (e : Nat) : Bool := bitAt e 102
def sttStashHart (e : Nat) : Nat := bitsOf e 103 3
/-- Payload lines stashed: 1, 4, 16 or 64. -/
def sttStashLines (e : Nat) : Nat := 4 ^ bitsOf e 106 2
def sttDlEn (e : Nat) : Bool := bitAt e 108
def sttDlNotify (e : Nat) : Bool := bitAt e 109
def sttDlLedger (e : Nat) : Bool := bitAt e 110
def sttDlNs (e : Nat) : Nat := bitsOf e 112 32
def sttLrule (e : Nat) : Nat := bitsOf e 144 2
def sttLdiv (e : Nat) : Nat := bitsOf e 146 4
def sttFwd (e : Nat) : Nat := bitsOf e 150 2
def sttFmeter (e : Nat) : Nat := bitsOf e 152 10
def sttSgate (e : Nat) : Nat := bitsOf e 162 8
def sttMaxSdu (e : Nat) : Nat := bitsOf e 170 14
def sttMoff (e : Nat) : Nat := bitsOf e 184 8
def sttMmask (e : Nat) : Nat := bitsOf e 192 8
def sttMaxDg (e : Nat) : Nat := bitsOf e 200 16

/-- The fields an update writes: all but the reserved ones, GEN and COUNT (R165, R167). -/
def sttFields (e : Nat) : Nat :=
  packBits [(0, 3, e), (16, 48, e / 2 ^ 16), (96, 15, e / 2 ^ 96), (112, 104, e / 2 ^ 112)]

/-- A key that a unit of its kind could have (R160). -/
def keyOk (kind key : Nat) : Bool :=
  if kind == 0 then decide (key < 2 ^ 13)
  else if kind == 1 then decide (key < 2 ^ 44)
  else if kind == 2 then
    let fmt := bitsOf key 29 2
    decide (key < 2 ^ 40) && fmt != 3 && (fmt == 1 || bitsOf key 11 18 == 0) && (fmt == 2 || bitsOf key 32 8 == 0)
  else decide (key < 16)

/-- Staged fields that keep R160, R165 and R166. -/
def entryOk (e : Nat) : Bool :=
  let k := sttKind e
  let m := sttAsm e
  keyOk k (sttKey e) &&
  (if k == 0 then m == 0 || m == 1 else if k == 1 then m == 0 || m == 2 || m == 3 else m == 0) &&
  (k == 1 || (sttFwd e == 0 && sttFmeter e == 0 && sttSgate e == 0 && sttMaxSdu e == 0)) && sttFwd e != 3 &&
  (if m == 3 then sttMaxDg e != 0 else sttMoff e == 0 && sttMmask e == 0 && sttMaxDg e == 0)

/-! ### Steering and buckets (R159, R161) -/

/-- A steering byte as a slice. -/
def steerByte (b : Nat) : Option Nat := if bitAt b 7 then some (b % 64) else none

/-- The slice a key is steered to (R159). -/
def State.steer (s : State) (kind key : Nat) : Option Nat :=
  let byte (f : Nat → Nat → Fld) (n : Nat) : Option Nat := steerByte (s.get (f (n / 4) (n % 4)))
  if kind == 0 then byte STT_STEER_CSI_STEER (bitsOf key 0 3 * 16 + bitsOf key 3 4)
  else if kind == 1 then byte STT_STEER_VID_STEER (key % 4096)
  else if kind == 2 then
    let fmt := bitsOf key 29 2
    let id := key % 2 ^ 29
    ((List.range 8).map (fun i => 8 * bitsOf key 31 1 + i)).findSome? (fun n =>
      if s.on (STT_STEER_CAN_CFG_VALID n) && (s.get (STT_STEER_CAN_CFG_FORMAT n) == 3 || s.get (STT_STEER_CAN_CFG_FORMAT n) == fmt) &&
          decide (s.get (STT_STEER_CAN_ID_LOW n) ≤ id) && decide (id ≤ s.get (STT_STEER_CAN_ID_HIGH n))
      then some (s.get (STT_STEER_CAN_CFG_SLICE n)) else none)
  else byte STT_STEER_PIN_STEER (key % 16)

/-- The hash of a key (R161). -/
def keyHash (kind key : Nat) : Nat := crc32c (leBytes 6 key ++ [BitVec.ofNat 8 kind, 0])

/-- The first entry of a key's bucket in the partition of slice `n`; none in an empty partition (R161). -/
def State.bucket (s : State) (n kind key : Nat) : Option Nat :=
  let nb := s.get (STT_PART_COUNT n) / 8
  if nb == 0 then none else some (s.get (STT_PART_FIRST n) + 8 * (keyHash kind key * nb / 2 ^ 32))

/-- The entry of slice `n` that holds a valid kind and key (R162). -/
def State.sttFind (s : State) (n kind key : Nat) : Option Nat :=
  match s.bucket n kind key with
  | none => none
  | some b => ((List.range 8).map (fun j => b + j)).find? (fun i =>
      let e := s.stt i
      sttValid e && sttKind e == kind && sttKey e == key)

/-! ### Updates (R167, R168) -/

/-- The slice in whose partition an index lies. -/
def State.sttSlice (s : State) (i : Nat) : Option Nat := (List.range 64).find? (fun n => s.inPart n i)

/-- Write an entry: fields, COUNT, GEN advanced. -/
def State.sttPut (s : State) (i fields count : Nat) : State × Status × Nat × Nat :=
  let g := (sttGen (s.stt i) + 1) % 256
  (s.setStt i (fields + 2 ^ 8 * g + 2 ^ 64 * (count % 2 ^ 32)), .ok, i, g)

/-- Carry out an update: the array write, the status, and on OK the index written and the new GEN. -/
def State.sttExec (s : State) (op idx expgen : Nat) (anygen : Bool) (staged : Nat) : State × Status × Nat × Nat :=
  let v := sttFields staged
  let kind := sttKind v
  let key := sttKey v
  let old := s.stt idx
  let refuse (st : Status) : State × Status × Nat × Nat := (s, st, 0, 0)
  if op ≥ 5 || (op != 3 && !entryOk v) then refuse .denied
  else if op ≤ 3 then
    match s.sttSlice idx with
    | none => refuse .denied
    | some n =>
      let inBucket := match s.bucket n kind key with
        | some b => decide (b ≤ idx) && decide (idx < b + 8)
        | none => false
      let dup := match s.sttFind n kind key with
        | some i => i != idx
        | none => false
      if op != 3 && sttValid v && (!inBucket || dup) then refuse .denied
      else if !anygen && expgen != sttGen old then refuse .stale
      else if op == 1 then s.sttPut idx v (bitsOf old 64 32)
      else if op == 2 then s.sttPut idx v 0
      else s.sttPut idx (putBits (sttFields old) 0 1 0) (bitsOf old 64 32)
  else match s.steer kind key with
    | none => refuse .denied
    | some n =>
      if sttValid v && (s.sttFind n kind key).isSome then refuse .denied
      else match s.bucket n kind key with
        | none => refuse .full
        | some b => match ((List.range 8).map (fun j => b + j)).find? (fun i => !sttValid (s.stt i)) with
          | some i => s.sttPut i v 0
          | none => refuse .full

/-- Keep the outcome of a command until it ends; index and GEN are written only by a command that wrote an entry. -/
def State.updHold (s : State) (p : Nat) (r : Status × Nat × Nat) : State :=
  let v := if r.1 == .ok then (st8 .ok, r.2.1, r.2.2) else (st8 r.1, s.get (if p < 4 then STT_UPD_RES_INDEX p else CAP_PRESET_RES_INDEX),
    if p < 4 then s.get (STT_UPD_RES_NEWGEN p) else 0)
  { s with cap := { s.cap with upd := tabSet (fun _ => none) s.cap.upd p (some v) } }

/-- The staged entry of port `p`. -/
def State.staged256 (s : State) (p : Nat) : Nat :=
  packBits ((List.range 4).map (fun i => (64 * i, 64, s.rd (STT_UPD_DATA p i))))

/-- A write of `STT_UPDp_CMD` (R167, R168, R194). -/
def State.sttCmd (s : State) (p op idx expgen : Nat) (anygen : Bool) : State :=
  if op == 0 then s
  else if s.on (STT_UPD_RES_BUSY p) then s.raise (STT_UPD_RES_IGNORED p) 1
  else
    let (s, r) := s.sttExec op idx expgen anygen (s.staged256 p)
    (s.updHold p r).put (STT_UPD_RES_BUSY p) 1

def execSttWrite (a : Agent) (p : Fin 4) (idx : BitVec 18) (expgen : BitVec 8) (anygen : Bool) (s : State) : Ans :=
  .next (s.regAccess a true (STT_UPD_CMD p.val) 8 (fun t => (t.unstaged (STT_UPD_CMD p.val)).sttCmd p.val 1 idx.toNat expgen.toNat anygen))
def execSttWriteZero (a : Agent) (p : Fin 4) (idx : BitVec 18) (expgen : BitVec 8) (anygen : Bool) (s : State) : Ans :=
  .next (s.regAccess a true (STT_UPD_CMD p.val) 8 (fun t => (t.unstaged (STT_UPD_CMD p.val)).sttCmd p.val 2 idx.toNat expgen.toNat anygen))
def execSttInvalidate (a : Agent) (p : Fin 4) (idx : BitVec 18) (expgen : BitVec 8) (anygen : Bool) (s : State) : Ans :=
  .next (s.regAccess a true (STT_UPD_CMD p.val) 8 (fun t => (t.unstaged (STT_UPD_CMD p.val)).sttCmd p.val 3 idx.toNat expgen.toNat anygen))
def execSttPlace (a : Agent) (p : Fin 4) (s : State) : Ans :=
  .next (s.regAccess a true (STT_UPD_CMD p.val) 8 (fun t => (t.unstaged (STT_UPD_CMD p.val)).sttCmd p.val 4 0 0 true))

/-- OP 5 to 7; another OP has its own command. -/
def execSttUpdReservedOp (a : Agent) (p : Fin 4) (op : BitVec 3) (s : State) : Ans :=
  .next (if op.toNat < 5 then s else s.regAccess a true (STT_UPD_CMD p.val) 8 (fun t => (t.unstaged (STT_UPD_CMD p.val)).sttCmd p.val op.toNat 0 0 true))

/-- An update command, or the preset (4), ends. -/
def State.updDone (s : State) (p : Nat) : State :=
  match tabGet (fun _ => none) s.cap.upd p with
  | none => s
  | some (st, i, g) =>
    let s := { s with cap := { s.cap with upd := tabSet (fun _ => none) s.cap.upd p none } }
    if p < 4 then
      (((s.put (STT_UPD_RES_STATUS p) st).put (STT_UPD_RES_INDEX p) i).put (STT_UPD_RES_NEWGEN p) g).put (STT_UPD_RES_BUSY p) 0
    else ((s.put CAP_PRESET_RES_STATUS st).put CAP_PRESET_RES_INDEX i).put CAP_PRESET_RES_BUSY 0

def execSttUpdateComplete (p : Fin 5) (s : State) : Ans := .next (s.updDone p.val)

/-- The PLACE of a preset, whose outcome waits for STT_UPDATE_COMPLETE. -/
def State.presetWrite (s : State) (entry : Nat) : State :=
  (s.sttExec 4 0 0 true entry).1.updHold 4 (s.sttExec 4 0 0 true entry).2

/-- A write of `CAP_CAM_PRESET` (R191). -/
def State.camPreset (s : State) (v : Nat) : State :=
  if !bitAt v 31 then s
  else if s.on CAP_PRESET_RES_BUSY then s.res CAP_PRESET_RES_STATUS .unavailable
  else
    let port := bitsOf v 0 3
    let vc := bitsOf v 3 4
    let n := bitsOf v 13 6
    let pair := port * 16 + vc
    let led := bitAt v 27
    let entry := packBits [(0, 1, 1), (16, 48, bitsOf v 0 13), (96, 3, v / 2 ^ 19), (99, 3, 1), (102, 1, bitsOf v 25 1),
      (103, 3, v / 2 ^ 22), (106, 2, 1), (108, 1, bitsOf v 26 1), (109, 1, 1), (110, 1, 1), (112, 32, v / 2 ^ 32),
      (144, 2, b2n led)]
    let steer := steerByte (s.get (STT_STEER_CSI_STEER (pair / 4) (pair % 4)))
    let s := s.put CAP_PRESET_RES_BUSY 1
    match steer with
    | some m =>
      if m != n then s.updHold 4 (.denied, 0, 0)
      else
        s.presetWrite entry
    | none =>
      let s := s.put (STT_STEER_CSI_STEER (pair / 4) (pair % 4)) (0x80 + n)
      s.presetWrite entry

def execCamPreset (a : Agent) (v : Word) (s : State) : Ans :=
  .next (if !bitAt v.toNat 31 then s else s.regAccess a true CAP_CAM_PRESET 8 (fun t => (t.unstaged CAP_CAM_PRESET).camPreset v.toNat))

/-! ### Reads and probes (R194) -/

/-- A read of `STT_RD0`. -/
def State.sttSnap (s : State) : State × Nat :=
  let e := s.stt (s.get STT_RD_IDX_INDEX)
  (State.each (List.range 4) (fun i t => t.put (STT_RD_WORD i) (bitsOf e (64 * i) 64)) s, e % 2 ^ 64)

def execSttRdSnapshot (a : Agent) (half : Half) (s : State) : Ans := .next (s.readCmd a (STT_RD 0) half State.sttSnap)

/-- A write of `STT_PROBE`. -/
def State.probe (s : State) (kind key : Nat) : State :=
  let h := keyHash kind key
  let r := match s.steer kind key with
    | none => packBits [(32, 32, h)]
    | some n =>
      match s.sttFind n kind key with
      | some i => packBits [(0, 18, i), (24, 6, n), (30, 1, 1), (31, 1, 1), (32, 32, h)]
      | none => packBits [(0, 18, (s.bucket n kind key).getD (s.get (STT_PART_FIRST n))), (24, 6, n), (30, 1, 1), (32, 32, h)]
  s.wr STT_PROBE_RES r

def execSttProbe (a : Agent) (key : BitVec 48) (kind : BitVec 2) (s : State) : Ans :=
  .next (s.regAccess a true STT_PROBE 8 (fun t => (t.unstaged STT_PROBE).probe kind.toNat key.toNat))

/-- The miss queue's head as `STT_MISSQ` shows it, removed. -/
def State.missPop (s : State) : State × Nat :=
  match s.cap.missq with
  | [] => (s, 0)
  | m :: r =>
    (({ s with cap := { s.cap with missq := r } }).put STT_MISSQ_CTL_DEPTH r.length,
      packBits [(0, 48, m.key), (48, 2, m.kind), (50, 6, m.slice.getD 0), (56, 1, b2n m.slice.isSome), (63, 1, 1)])

def execMissqRead (a : Agent) (half : Half) (s : State) : Ans := .next (s.readCmd a STT_MISSQ half State.missPop)

/-- A miss (R163). -/
def State.miss (s : State) (kind key : Nat) (n : Option Nat) : State :=
  let s := s.inc (STT_MISS_COUNT kind) 1
  if !s.on STT_MISSQ_CTL_EN then s
  else if s.cap.missq.length ≥ 16 then s.inc STT_MISSQ_CTL_LOST 1
  else
    let q := s.cap.missq ++ [⟨kind, key, n⟩]
    (({ s with cap := { s.cap with missq := q } }).put STT_MISSQ_CTL_DEPTH q.length).raise CAP_IRQ_STATUS_MISSQ 1

/-- Look a unit up; a miss is counted. -/
def State.classify (s : State) (kind key : Nat) : State × Option (Nat × Nat) :=
  match s.steer kind key with
  | none => (s.miss kind key none, none)
  | some n => match s.sttFind n kind key with
    | some i => (s, some (n, i))
    | none => (s.miss kind key (some n), none)

/-! ### Rings (R178, R179, R183) -/

/-- The world that owns the capture blocks, and the source of their DMA (R164, R203). -/
def State.capWorld (s : State) : World := s.owner SNS 0
def capSrc : Nat := srcId SNS 0

/-- A ring stops (R183): its frames are discarded to their end, its descriptors not yet written are dropped. -/
def State.capStop (s : State) (n r : Nat) : State :=
  let s := (s.put (CAP_RING_CFG_STOPPED n r) 1).raise CAP_IRQ_STATUS_RINGSTOP 1
  { s with cap := { s.cap with ctx := s.cap.ctx.map (fun c => if c.slice == n && c.ring == r then { c with discard := true } else c),
                               descs := s.cap.descs.filter (fun d => !(d.slice == n && d.ring == r)) } }

/-- Descriptor slots in use or promised. -/
def State.slotsUsed (s : State) (n r : Nat) : Nat :=
  let size := 2 ^ s.get (CAP_RING_CFG_DLOG2 n r)
  (s.get (CAP_DRING_TAIL_TAIL n r) % size + size - s.get (CAP_DRING_HEAD_HEAD n r) % size) % size +
    (s.cap.descs.filter (fun d => d.slice == n && d.ring == r)).length +
    (s.cap.ctx.filter (fun c => c.slice == n && c.ring == r && !c.discard)).length

/-- Take a descriptor slot and, but for a PIN unit, a buffer: its address. -/
def State.capTake (s : State) (n r : Nat) (needBuf : Bool) : State × Option Nat :=
  let size := 2 ^ s.get (CAP_RING_CFG_DLOG2 n r)
  let head := s.get (CAP_BRING_HEAD_HEAD n r)
  if !s.on (CAP_RING_CFG_EN n r) || s.on (CAP_RING_CFG_STOPPED n r) || decide (size ≤ s.slotsUsed n r + 1) then (s, none)
  else if !needBuf then (s, some 0)
  else if s.ringUsed n r == 0 then (s, none)
  else match s.dmaRead s.capWorld capSrc (0x100 + n) 4 (s.rd (CAP_BRING_BASE n r) + 8 * head) 8 with
    | (s, .ok bs) => (s.put (CAP_BRING_HEAD_HEAD n r) ((head + 1) % 2 ^ s.get (CAP_RING_CFG_BLOG2 n r)), some (leNat bs))
    | (s, .error _) => (s.capStop n r, none)

/-- A frame is not admitted (R179, R183, R206). -/
def State.capDrop (s : State) (n r : Nat) (nobuf : Bool) : State :=
  let s := (s.inc (CAP_RING_STAT_DROPS n r) 1).sliceCount n 1 1
  s.when nobuf (fun t => (t.inc (CAP_CNT_COUNT 0) 1).raise CAP_IRQ_STATUS_NOBUF 1)

/-! ### Frames (R169, R174, R175) -/

/-- Two contexts are of one frame. -/
def sameFrame (a b : FrameCtx) : Bool := a.stream == b.stream && a.entry == b.entry

def State.setCtx (s : State) (c : FrameCtx) : State :=
  { s with cap := { s.cap with ctx := s.cap.ctx.map (fun d => if sameFrame d c then c else d) } }

def State.delCtx (s : State) (c : FrameCtx) : State :=
  { s with cap := { s.cap with ctx := s.cap.ctx.filter (fun d => !sameFrame d c) } }

/-- The frame as it stands, or `c` where it is gone. -/
def State.ctxOf (s : State) (c : FrameCtx) : FrameCtx := (s.cap.ctx.find? (fun d => sameFrame d c)).getD c

/-- The open frame of a unit's kind and key. -/
def State.openFrame (s : State) (kind key : Nat) : Option FrameCtx :=
  s.cap.ctx.find? (fun c => sttKind c.entry == kind && sttKey c.entry == key)

/-- A frame starts: admitted, or discarded whole (R179). -/
def State.capOpen (s : State) (n i : Nat) (stamp : Stamp) (srcinfo : Nat) : State × FrameCtx :=
  let e := s.stt i
  let r := sttRing e
  let dead := s.sliceResetting n || s.on (CAP_RING_CFG_STOPPED n r)
  let (s, got) := if dead then (s, none) else s.capTake n r (sttKind e != 3)
  let c : FrameCtx := ⟨i, n, r, e, stamp, got.getD 0, 0, 0, true, 0, srcinfo, 0, got.isNone⟩
  let s := s.when got.isNone (fun t => t.capDrop n r (!dead && !t.on (CAP_RING_CFG_STOPPED n r)))
  ({ s with cap := { s.cap with ctx := s.cap.ctx ++ [c] } }, c)

/-- The descriptor of the buffer in use is due; after LAST the rest of the frame is discarded. -/
def State.capPost (s : State) (c : FrameCtx) (last : Bool) : State :=
  let d : PendDesc := ⟨c.stream, c.slice, c.ring, c.entry, c.stamp, c.buf, c.len, c.total, c.first, last, c.fault, c.srcinfo⟩
  let s := { s with cap := { s.cap with descs := s.cap.descs ++ [d] } }
  s.setCtx { c with first := false, discard := c.discard || last }

/-- The frame ends with a further fault (R175). -/
def State.capEnd (s : State) (c : FrameCtx) (fault : Nat) : State :=
  let c := s.ctxOf c
  let s := if c.discard then s else s.capPost { c with fault := Nat.lor c.fault fault } true
  s.delCtx c

/-- Bytes written for a slice, counted in units of 64 (R215). -/
def State.capBytes (s : State) (n k : Nat) : State :=
  let t := tabGet (fun _ => 0) s.cap.rest n + k
  ({ s with cap := { s.cap with rest := tabSet (fun _ => 0) s.cap.rest n (t % 64) } }).sliceCount n 5 (t / 64)

/-- Write with a stash hint for core `c` (R185, R335, R44): into DRAM line by line; elsewhere as any write. -/
def State.dmaStash (s : State) (n c : Nat) : Nat → Nat → List Byte → State × Status
  | 0, _, _ => (s, .ok)
  | fuel + 1, iova, bs =>
    match bs with
    | [] => (s, .ok)
    | _ =>
      let k := chunk iova bs.length
      match s.dmaAddr s.capWorld capSrc ⟨0x100 + n, none, true, iova⟩ with
      | (s, .error st) => (s, st)
      | (s, .ok pa) =>
        let v := leNat (bs.take k)
        if regionIo (s.region pa) then (s, .denied)
        else
          let s := match s.region pa with
            | .dram =>
              let s := s.sliceCount n (if s.stashOk (s.l2Of c) then 13 else 14) 1
              s.stashLine (8 + SNS) (s.l2Of c) (pa / 64) (lineMask pa k) (v * 2 ^ (8 * (pa % 64)))
            | _ => s.memWrite ⟨s.capWorld, capSrc, 4⟩ pa k v
          s.dmaStash n c fuel (iova + k) (bs.drop k)

/-- The capture engine writes bytes for a slice, hinted or not. -/
def State.capWrite (s : State) (n : Nat) (hint : Option Nat) (iova : Nat) (bs : List Byte) : State × Status :=
  match hint with
  | some c => s.dmaStash n c (bs.length / 64 + 2) iova bs
  | none => s.dmaWrite s.capWorld capSrc (0x100 + n) (bs.length / 64 + 2) iova bs

/-- The stash target of an entry, if hints are on. -/
def State.stashOf (s : State) (e : Nat) : Option Nat :=
  if sttStashEn e && !s.on CAP_CTL_NOSTASH then some (sttStashHart e) else none

/-- Write a unit's bytes to the frame's buffers (R179, R183, R185). -/
def State.capFeed (s : State) (c : FrameCtx) : Nat → List Byte → State
  | 0, _ => s
  | fuel + 1, bs =>
    let c := s.ctxOf c
    if c.discard || bs.isEmpty then s
    else
      let size := 2 ^ s.get (CAP_RING_CFG_BUFSZ c.slice c.ring)
      if size ≤ c.len then
        match s.capTake c.slice c.ring true with
        | (s, none) =>
          let c := s.ctxOf c
          if c.discard then s else s.capPost { c with fault := Nat.lor c.fault 2 } true
        | (s, some b) =>
          let s := s.capPost c false
          let c := s.ctxOf c
          (s.setCtx { c with buf := b, len := 0 }).capFeed c fuel bs
      else
        let lim := 64 * sttStashLines c.entry
        let hint := if c.first && c.len < lim then s.stashOf c.entry else none
        let m := Nat.min bs.length (size - c.len)
        let m := if hint.isSome then Nat.min m (lim - c.len) else m
        match s.capWrite c.slice hint (c.buf + c.len) (bs.take m) with
        | (s, .ok) =>
          ((s.setCtx { c with len := c.len + m, total := c.total + m }).capBytes c.slice m).capFeed c fuel (bs.drop m)
        | (s, _) => (s.sliceCount c.slice 15 1).capPost { c with fault := Nat.lor c.fault 8 } true

/-- A unit of an open frame: its faults and bytes. -/
def State.capUnit (s : State) (c : FrameCtx) (fault : Nat) (bs : List Byte) : State :=
  let c := s.ctxOf c
  let s := if c.discard then s else s.setCtx { c with fault := Nat.lor c.fault fault }
  s.capFeed c (bs.length + 2) bs

/-- A frame of one unit. -/
def State.capSingle (s : State) (n i : Nat) (stamp : Stamp) (srcinfo fault : Nat) (bs : List Byte) : State :=
  let (s, c) := s.capOpen n i stamp srcinfo
  (s.capUnit c fault bs).capEnd c 0

/-- The engine takes units: SNS is out of reset with its fence open, and enabled (R192). -/
def State.capOn (s : State) : Bool := s.opens SNS 0 && s.on CAP_CTL_EN

/-! ### CSI units (R176) -/

/-- Frame start: frames of the port and channel that are open end UNCLOSED, and every CSI_FRAME stream opens. -/
def State.csiStart (s : State) (pv : Nat) (stamp : Stamp) (num : Nat) : State :=
  let s := State.each (s.cap.ctx.filter (fun c => sttKind c.entry == 0 && sttKey c.entry % 128 == pv)) (fun c t => t.capEnd c 4) s
  match s.steer 0 pv with
  | none => s
  | some n =>
    State.each ((s.cap.stt.map (fun e => e.1)).filter (fun i => s.inPart n i)) (fun i t =>
      let e := t.stt i
      if sttValid e && sttKind e == 0 && sttAsm e == 1 && sttKey e % 128 == pv then (t.capOpen n i stamp num).1 else t) s

/-- A CSI-2 packet. -/
def State.csiPacket (s : State) (p vc dt : Nat) (data : List Byte) (hdrErr crcErr lost : Bool) (stamp : Stamp) : State :=
  let pv := p + 8 * vc
  let wire := if crcErr || lost then 1 else 0
  if !s.capOn || !s.clocked SNS (0x10 + p) then s
  else if hdrErr then s.inc (CAP_CNT_COUNT 2) 1
  else if dt < 8 && s.hovClosed SNS (0x10 + p) then s
  else if dt == 0 then s.csiStart pv stamp (leNat (data.take 2))
  else if dt == 1 then
    State.each (s.cap.ctx.filter (fun c => sttKind c.entry == 0 && sttKey c.entry % 128 == pv)) (fun c t => t.capEnd c 0) s
  else if dt < 8 then s
  else
    let key := pv + 128 * dt
    if s.hovClosed SNS (0x10 + p) then s.miss 0 key none
    else match (if dt < 16 then none else s.openFrame 0 key) with
    | some c => s.capUnit c wire data
    | none => match s.classify 0 key with
      | (s, none) => s
      | (s, some (n, i)) =>
        if sttAsm (s.stt i) == 1 then s.when (dt ≥ 16) (fun t => t.inc (CAP_CNT_COUNT 1) 1)
        else s.capSingle n i stamp 0 wire (if dt < 16 then data.take 2 else data)

/-! ### CAN and PIN units (R160, R244) -/

/-- The format code of a CAN frame's key. -/
def canFormat (f : CanFrame) : Nat := if f.fmt.val == 2 then 2 else b2n f.ide

/-- The key of a CAN frame. -/
def canKey (c : Nat) (f : CanFrame) : Nat :=
  packBits [(0, 29, if canFormat f == 1 then f.id.toNat else f.id.toNat % 2 ^ 11), (29, 2, canFormat f), (31, 1, c),
    (32, 8, if f.fmt.val == 2 then f.vcid.toNat else 0)]

/-- A CAN frame as it is written (R244). -/
def canBytes (f : CanFrame) : List Byte :=
  let xl := f.fmt.val == 2
  leBytes 16 (packBits [(0, 29, if canFormat f == 1 then f.id.toNat else f.id.toNat % 2 ^ 11), (29, 1, b2n f.ide), (30, 1, b2n f.rtr), (32, 2, f.fmt.val),
    (34, 1, b2n f.brs), (35, 1, b2n f.esi), (36, 1, b2n f.sec), (40, 4, if xl then 0 else f.dlc.toNat), (48, 8, if xl then f.sdt.toNat else 0),
    (56, 8, if xl then f.vcid.toNat else 0), (64, 12, f.data.length), (96, 32, if xl then f.af.toNat else 0)]) ++ f.data

/-- A CAN frame reaches the capture engine. -/
def State.canUnit (s : State) (c : Nat) (f : CanFrame) (stamp : Stamp) : State :=
  if !s.capOn then s
  else match s.classify 2 (canKey c f) with
    | (s, none) => s
    | (s, some (n, i)) => s.capSingle n i stamp (packBits [(0, 1, c), (1, 4, f.dlc.toNat)]) 0 (canBytes f)

/-- An edge of a capture pin reaches the capture engine. -/
def State.pinUnit (s : State) (p : Nat) (rising : Bool) (stamp : Stamp) : State :=
  if !s.capOn then s
  else match s.classify 3 p with
    | (s, none) => s
    | (s, some (n, i)) => s.capSingle n i stamp (b2n rising) 0 []

/-! ### Forwarding to another module, at the source (R529, R530) -/

/-- A forward rule in force: VALID, and its identifier was given. -/
def State.fwdOk (s : State) (n : Nat) : Bool := s.on (CSC_FWD_RULE_VALID n) && s.get (CSC_FWD_ID_STATUS n) == 0

/-- The rule in force whose source is a camera port and virtual channel (KIND 0), or a VLAN (KIND 1). -/
def State.fwdRule (s : State) (kind port vc vid : Nat) : Option Nat :=
  if !s.opens HST 3 then none
  else (List.range 64).find? (fun n => s.fwdOk n && s.get (CSC_FWD_RULE_KIND n) == kind &&
    (if kind == 0 then s.get (CSC_FWD_RULE_SPORT n) == port && s.get (CSC_FWD_RULE_SVC n) == vc else s.get (CSC_FWD_RULE_SVID n) == vid))

/-- A unit of rule `n` leaves for its destination, or is counted in DROPS where that is absent; true when the unit is captured
here too. -/
def State.fwdUnit (s : State) (n : Nat) (u : FwdUnit) : State × Bool :=
  let d := s.get (CSC_FWD_RULE_DEST n)
  let s := if bitAt (s.get CSC_STATUS_PRESENT) d then { s with casc := { s.casc with fwdSent := some (d, u) } }
    else (s.inc (CSC_FWD_ID_DROPS n) 1).put CSC_IRQ_STATUS_FWDDROP 1
  (s, s.on (CSC_FWD_RULE_LOCAL n))

/-- A CSI packet under the forward rules: whether it is classified here. -/
def State.csiForward (s : State) (p vc dt : Nat) (data : List Byte) (crcErr : Bool) (stamp : Stamp) : State × Bool :=
  match s.fwdRule 0 p vc 0 with
  | none => (s, true)
  | some n => s.fwdUnit n (.csi (Fin.ofNat 8 (s.get (CSC_FWD_RULE_DPORT n))) (Fin.ofNat 16 (s.get (CSC_FWD_RULE_DVC n))) (BitVec.ofNat 6 dt)
      data crcErr false stamp)

/-- A frame of a VLAN under the forward rules. -/
def State.ethForward (s : State) (vid : Nat) (b : List Byte) (fcsErr : Bool) (stamp : Stamp) : State × Bool :=
  match s.fwdRule 1 0 0 vid with
  | none => (s, true)
  | some n => s.fwdUnit n (.eth (BitVec.ofNat 12 (s.get (CSC_FWD_RULE_DVID n))) b fcsErr stamp)

def execCsiPacketReceive (p : Fin 8) (vc : Fin 16) (dt : BitVec 6) (data : List Byte) (hdrErr crcErr : Bool) (phase : Fin 8) (s : State) : Ans :=
  let stamp := s.stampNow 0 phase.val
  .next (
    if !s.on (CAM_LINK_UP p.val) then s
    else if hdrErr || !s.opens SNS (0x10 + p.val) then s.csiPacket p.val vc.val dt.toNat data hdrErr crcErr false stamp
    else
      let (s, here) := s.csiForward p.val vc.val dt.toNat data crcErr stamp
      if here then s.csiPacket p.val vc.val dt.toNat data hdrErr crcErr false stamp else s)

/-! ### Ethernet units (R161, R174, R177) -/

/-- What classification needs of a frame: the EtherType after one VLAN tag and where the payload starts. -/
def ethTagged (b : List Byte) : Bool := beNat ((b.drop 12).take 2) == 0x8100
def ethTci (b : List Byte) : Nat := beNat ((b.drop 14).take 2)
def ethType (b : List Byte) : Nat := beNat ((b.drop (if ethTagged b then 16 else 12)).take 2)
def ethBody (b : List Byte) : List Byte := b.drop (if ethTagged b then 18 else 14)
def byteN (b : List Byte) (i : Nat) : Nat := (b.getD i 0).toNat

/-- IP protocol, whether the frame is a fragment and whether it is one other than the first, and the bytes after the IP header. -/
structure IpInfo where
  proto : Nat
  frag : Bool
  later : Bool
  addrs : List Byte
  rest : List Byte

/-- The IP header of a frame, if it has one. -/
def ipInfo (b : List Byte) : Option IpInfo :=
  let p := ethBody b
  if ethType b == 0x0800 && byteN p 0 / 16 == 4 then
    let off := beNat ((p.drop 6).take 2)
    some ⟨byteN p 9, off % 8192 != 0 || bitAt off 13, off % 8192 != 0, (p.drop 12).take 8, p.drop (4 * (byteN p 0 % 16))⟩
  else if ethType b == 0x86DD && byteN p 0 / 16 == 6 then
    some ⟨byteN p 6, byteN p 6 == 44, byteN p 6 == 44 && beNat ((p.drop 42).take 2) / 8 != 0, (p.drop 8).take 32, p.drop 40⟩
  else none

/-- FLOWHASH (R161). -/
def flowHash (b : List Byte) : Nat :=
  crc32c (b.take 12 ++
    (match ipInfo b with
     | some i =>
       i.addrs ++ [BitVec.ofNat 8 i.proto] ++
         (if (i.proto == 6 || i.proto == 17) && !i.later then (i.rest ++ [0, 0, 0, 0]).take 4 else [0, 0, 0, 0])
     | none => beBytes 2 (ethType b)))

/-- The key of an Ethernet frame. -/
def ethKey (vid : Nat) (b : List Byte) : Nat := vid % 4096 + 4096 * flowHash b

/-- The UDP payload of a frame, if it has one. -/
def udpPayload (i : IpInfo) : Option (List Byte) :=
  if i.proto == 17 then some ((i.rest.drop 8).take (beNat ((i.rest.drop 4).take 2) - 8)) else none

/-- The stream entry that decides about a frame: that of its open frame, else the one it hits; a miss is counted. -/
def State.ethLookup (s : State) (vid : Nat) (b : List Byte) : State × Option (Nat × Nat × Nat) :=
  let key := ethKey vid b
  match s.openFrame 1 key with
  | some c => (s, some (c.slice, c.stream, c.entry))
  | none => match s.classify 1 key with
    | (s, some (n, i)) => (s, some (n, i, s.stt i))
    | (s, none) => (s, none)

/-- Capture a frame that hit entry `e` at index `i` of slice `n`; `bytes` from destination MAC to the end of the payload. -/
def State.ethCapture (s : State) (n i e port : Nat) (b : List Byte) (fcsErr ipErr : Bool) (stamp : Stamp) : State :=
  let wire := if fcsErr then 1 else 0
  if sttAsm e == 0 then s.capSingle n i stamp port wire b
  else match ipInfo b with
    | none => s
    | some ip =>
      if ip.frag then (s.inc (CAP_CNT_COUNT 3) 1)
      else match udpPayload ip with
        | none => s
        | some pl =>
          let wire := if fcsErr || (ipErr && ethType b == 0x0800) then 1 else 0
          if sttAsm e == 2 then s.capSingle n i stamp port wire pl
          else
            let (s, c) := match s.openFrame 1 (sttKey e) with
              | some c => (s, c)
              | none => s.capOpen n i stamp port
            let s := s.capUnit c wire pl
            let c := s.ctxOf c
            let s := s.setCtx { c with units := c.units + 1 }
            let mark := sttMmask c.entry != 0 && decide (sttMoff c.entry < pl.length) &&
              Nat.land (byteN pl (sttMoff c.entry)) (sttMmask c.entry) != 0
            if mark || decide (sttMaxDg c.entry ≤ c.units + 1) then s.capEnd { c with units := c.units + 1 } 0 else s

/-! ### Descriptors (R180 to R188) -/

/-- A descriptor (R180). -/
def descNat (d : PendDesc) (frame : Nat) (phase : Bool) : Nat :=
  packBits [(0, 64, d.stamp.ns), (64, 64, d.buf), (128, 32, frame), (160, 24, d.len), (184, 18, d.stream), (202, 8, d.stamp.dseq),
    (210, 2, d.stamp.qual), (212, 1, b2n d.first), (213, 1, b2n d.last), (214, 1, b2n (d.fault % 16 != 0)), (215, 1, b2n phase),
    (216, 4, d.fault), (220, 1, bitsOf d.len 24 1), (224, 8, sttGen d.entry), (232, 16, d.srcinfo), (248, 8, d.stamp.frac / 256)]

/-- The frame is recorded in the ledger (R188). -/
def ledgerRule (e frame : Nat) (err : Bool) : Bool :=
  let r := sttLrule e
  r == 1 || (r == 2 && err) || (r == 3 && frame % 2 ^ sttLdiv e == 0)

/-- The coupled EXPECT of the next frame is armed (R186). -/
def State.deadlineArm (s : State) (d : PendDesc) (frame : Nat) : State :=
  let q : ArmReq := ⟨(d.stamp.ns + sttDlNs d.entry) % 2 ^ 64, (frame + 1) % 2 ^ 32, d.stream, 6, sttDlNotify d.entry, false, sttDlLedger d.entry,
    0, 0, ⟨s.sliceWorld d.slice, some d.slice⟩, 15, false, none, none⟩
  match s.arm q with
  | (s, .ok, h, _) => { s with cap := { s.cap with dl := tabSet (fun _ => 0) s.cap.dl d.stream h } }
  | (s, st, _, _) => s.when (st == .full || st == .fenced) (fun t => (t.inc (CAP_CNT_COUNT 4) 1).raise CAP_IRQ_STATUS_DLFAIL 1)

/-- What follows the writing of a LAST descriptor (R182, R186, R188). -/
def State.frameDone (s : State) (d : PendDesc) (frame : Nat) : State :=
  let s := s.setStt d.stream (putBits (s.stt d.stream) 64 32 frame)
  let s := (s.inc (CAP_RING_STAT_FRAMES d.slice d.ring) 1).sliceCount d.slice 0 1
  let s := s.expectUpdate d.stream
  let s := s.when (ledgerRule d.entry frame (d.fault % 16 != 0)) (fun t =>
    t.ldgAccept (t.recNow 0 0x20 25 capSrc d.slice (packBits [(0, 64, d.stamp.ns), (64, 32, d.stream), (96, 32, frame), (128, 32, d.total),
      (160, 8, d.stamp.dseq), (168, 8, d.stamp.qual), (176, 8, d.fault % 16 + 16 * bitsOf d.len 24 1), (184, 8, sttGen d.entry), (192, 8, d.ring)])))
  s.when (sttDlEn d.entry) (fun t => t.deadlineArm d frame)

/-- Write the oldest descriptor of stream `i` that waits. -/
def State.descWrite (s : State) (i : Nat) : State :=
  match s.cap.descs.find? (fun d => d.stream == i) with
  | none => s
  | some d =>
    let s := { s with cap := { s.cap with descs := s.cap.descs.erase d } }
    let n := d.slice
    let r := d.ring
    let frame := (s.sttCount i + 1) % 2 ^ 32
    let tail := s.get (CAP_DRING_TAIL_TAIL n r)
    let key := 8 * n + r
    let flip := tabGet (fun _ => false) s.cap.phase key
    match s.capWrite n (if d.first then s.stashOf d.entry else none) (s.rd (CAP_DRING_BASE n r) + 32 * tail) (leBytes 32 (descNat d frame (!flip))) with
    | (s, .ok) =>
      let size := 2 ^ s.get (CAP_RING_CFG_DLOG2 n r)
      let s := s.put (CAP_DRING_TAIL_TAIL n r) ((tail + 1) % size)
      let s := s.when (size ≤ tail + 1) (fun t => { t with cap := { t.cap with phase := tabSet (fun _ => false) t.cap.phase key (!flip) } })
      let s := (s.capBytes n 32).when d.last (fun t => t.frameDone d frame)
      s.complPost n r
    | (s, _) => s.capStop n r

def execCaptureDescriptorWrite (i : StreamIdx) (s : State) : Ans := .next (s.descWrite i.toNat)

/-- IDLE_MS pass with no unit for an open frame (R175). -/
def execFrameIdleClose (i : StreamIdx) (s : State) : Ans :=
  .next (if s.get CAP_CTL_IDLE_MS == 0 then s
    else match s.cap.ctx.find? (fun c => c.stream == i.toNat) with
      | some c => s.capEnd c 4
      | none => s)

/-- A write of the engine ends with an error (R183). -/
def execCaptureWriteError (e : CapErr) (s : State) : Ans :=
  .next (match e with
    | .ring n r => if s.on (CAP_RING_CFG_EN n.val r.val) then s.capStop n.val r.val else s
    | .buffer i => match s.cap.ctx.find? (fun c => c.stream == i.toNat && !c.discard) with
      | some c => (s.sliceCount c.slice 15 1).capPost { c with fault := Nat.lor c.fault 8 } true
      | none => s)

/-- EN of a ring is written (R193): from 0 to 1 clears STOPPED, heads and tails. -/
def State.capRingEn (s : State) (n r : Nat) (en : Bool) : State :=
  if s.on (CAP_RING_CFG_EN n r) == en then s
  else if !en then s.put (CAP_RING_CFG_EN n r) 0
  else
    let s := (s.put (CAP_RING_CFG_EN n r) 1).put (CAP_RING_CFG_STOPPED n r) 0
    let s := ((s.wr (CAP_DRING_TAIL n r) 0).wr (CAP_DRING_HEAD n r) 0).wr (CAP_BRING_HEAD n r) 0
    let s := s.wr (CAP_BRING_TAIL n r) 0
    { s with cap := { s.cap with phase := tabSet (fun _ => false) s.cap.phase (8 * n + r) false } }

def execCapRingEnable (a : Agent) (n : Slice) (r : Fin 8) (s : State) : Ans :=
  .next (s.regAccess a true (CAP_RING_CFG n.val r.val) 4 (fun t => t.capRingEn n.val r.val true))

end Sys2Proof.Machine
end

