-- ==== Sys2Proof/Machine/VTime.lean ====
section
/-! DEFINITION. Vehicle time: the counters, steps and rates, the servo, gPTP (R70 to R102). -/

namespace Sys2Proof.Machine

open Sys2Proof

/-! ### The counter (R72 to R77) -/

/-- The vehicle time unit runs: TKD is out of reset. -/
def State.vtOn (s : State) : Bool := s.runs TKD 0

/-- Vehicle time counts: TKD is out of reset and the unit is not gated; an emulated power-down does not stop it (R503, R505). -/
def State.timeRuns (s : State) : Bool := s.outOfReset TKD && !tabGet (fun _ => false) s.power.gated (256 * TKD)

/-- What `n` ticks add to a domain: its rate word each tick, and a slew in progress until its offset is taken up (R74, R78). -/
def State.domTicks (s : State) (n d : Nat) : State :=
  let v := s.tdom d
  let rate := s.get (DISC_RATE_RATE d)
  let most : Nat := n * (rate * v.slewPpm / 1000000)
  let part : Int := if 0 ≤ v.slew then min v.slew most else max v.slew (-(most : Int))
  s.setTdom d { v with acc := ((v.acc + n * rate : Nat) + part).toNat, slew := v.slew - part }

/-- The module is in Sleep, entered for real: `mtime` stops (R320). -/
def State.asleep (s : State) : Bool := s.power.layout == 3 && !(s.dom SEC).emul

/-- `mcycle` of the timekeepers: two cycles of 2 ns in a clock, unless inhibited or stopped by `dcsr.stopcount` (R284, R490). -/
def State.tkCycles (s : State) (n : Nat) : State :=
  State.each ((List.range 4).filter (fun k => (s.hart (8 + k)).running && s.runs TKD (4 + k) && !s.countStopped (8 + k) &&
      !bitAt (tabGet (fun _ => 0) (s.hart (8 + k)).csr 0x320) 0)) (fun k t =>
    t.updHart (8 + k) (fun h => { h with cycle := (h.cycle + 2 * n) % 2 ^ 64 })) s

/-- `n` clocks of 4 ns pass. -/
def State.tick (s : State) (n : Nat) : State :=
  let s := ({ s with ticks := s.ticks + n, mticks := if s.asleep then s.mticks else s.mticks + n }).dogTicks n
  (if s.timeRuns then State.each ((List.range 4).filter (fun d => s.domEnabled d)) (fun d t => t.domTicks n d) s else s).tkCycles n

def execTimeClockTick (n : Nat) (s : State) : Ans := .next (s.tick n)

/-- A snapshot of all domains at one tick (R77). -/
def State.vtSnap (s : State) : State :=
  State.each (List.range 4) (fun d t =>
    let a := (t.tdom d).acc
    let ns := a / 2 ^ 40
    (t.wr (VT_SNAP_LO d) (packBits [(0, 16, a / 2 ^ 24), (16, 32, ns % 1000000000)])).wr (VT_SNAP_HI d)
      (packBits [(0, 48, ns / 1000000000), (48, 16, t.get (VT_DSEQ_DSEQ d))])) s

def execVtSnap (a : Agent) (s : State) : Ans := .next (s.regAccess a true VT_CTL 4 State.vtSnap)

/-! ### Rates, slews and jumps (R75, R78 to R81) -/

def rateMin : Nat := 4393648464593
def rateMax : Nat := 4402444557615
/-- 4 ns per tick (R74). -/
def rateNominal : Nat := 0x0000040000000000

/-- Set a rate word, clamped (R75). -/
def State.setRate (s : State) (d v : Nat) : State :=
  let c := Nat.min (Nat.max v rateMin) rateMax
  let s := s.put (DISC_RATE_RATE d) c
  s.when (c != v) (fun t => (t.raise (DISC_STATUS_CLAMPED d) 1).raise VT_IRQ_STATUS_CLAMP 1)

/-- The remainder of a slew in progress is discarded and shown in `DISC_REMAIN` (R80). -/
def State.slewDiscard (s : State) (d : Nat) : State :=
  let v := s.tdom d
  let s := s.when (s.on (DISC_STATUS_SLEWING d)) (fun t => t.put (DISC_REMAIN_OFFSET d) (ofSigned 64 (v.slew / 2 ^ 24)))
  (s.setTdom d { v with slew := 0 }).put (DISC_STATUS_SLEWING d) 0

/-- Start a slew by an offset in units of 2^-40 ns (R78). -/
def State.slewStart (s : State) (d : Nat) (off : Int) (ppm : Nat) : State :=
  let s := s.slewDiscard d
  (s.setTdom d { s.tdom d with slew := off, slewPpm := ppm }).put (DISC_STATUS_SLEWING d) 1

/-- Accept a jump (R78, R80, R81). -/
def State.jumpAccept (s : State) (d : Nat) (j : Jump) : State :=
  let s := s.slewDiscard d
  (s.setTdom d { s.tdom d with jumps := (s.tdom d).jumps ++ [j] }).put (DISC_STATUS_BUSY d) 1

/-- The time a jump leads to, none outside the range of R72. -/
def jumpTarget (acc : Nat) (j : Jump) : Option Nat :=
  match j.set with
  | some v => if v < 2 ^ 104 then some v else none
  | none =>
    let v : Int := acc + j.delta
    if 0 ≤ v && v < 2 ^ 104 then some v.toNat else none

/-- A step or set out of range is recorded (R72). -/
def State.vtRefused (s : State) (d : Nat) (w : World) (requester port : Nat) : State :=
  s.sherd kVtRefused .denied (srcId TKD 0) w requester 0 port d

/-- Re-align the generators of the pins of a domain: the first grid instant strictly after `now` (R107). -/
def gridAfter (anchor period now : Nat) : Nat :=
  if now < anchor then anchor else anchor + ((now - anchor) / period + 1) * period

def State.pin (s : State) (n : Nat) : PinSt := tabGet (fun _ => PinSt.init) s.time.pins n
def State.setPin (s : State) (n : Nat) (v : PinSt) : State :=
  { s with time := { s.time with pins := tabSet (fun _ => PinSt.init) s.time.pins n v } }

def State.genAlign (s : State) (n : Nat) : State :=
  let now := s.vt (s.get (TP_CFG_DOM n))
  s.setPin n { s.pin n with genNext := gridAfter (s.get (TP_GEN_ANCHOR_VT n)) (s.get (TP_GEN_PERIOD_NS n)) now }

/-- A domain's time changes at the jump tick: sequence, interrupt, last-jump registers, ledger record, gPTP, generators (R87,
R88). The flag says whether the jump was carried out. -/
def State.jumpApply (s : State) (d : Nat) (j : Jump) : State × Bool :=
  let v := s.tdom d
  match jumpTarget v.acc j with
  | none => (s.vtRefused d .secure 0xFFFF 0xF, false)
  | some a =>
    let old := s.vt d
    let moved : Int := ((a : Int) - v.acc) / 2 ^ 24
    let s := s.setTdom d { v with acc := a, gmPhase := if v.isGm then moved else v.gmPhase, sync := none }
    let s := s.inc (VT_DSEQ_DSEQ d) 1
    let s := s.raise VT_IRQ_STATUS_DISC (2 ^ d)
    let s := s.when v.isGm (fun t => t.inc (PTP_D_GMINFO_TBI d) 1)
    let q := s.get (VT_DSEQ_DSEQ d)
    let s := (s.put VT_LASTJ_OLD_VT old).put VT_LASTJ_NEW_VT (s.vt d)
    let s := s.wr VT_LASTJ_INFO (packBits [(0, 2, d), (2, 2, j.cause), (16, 16, q)])
    let s := s.ldgAccept (s.recNow d 0x10 18 (srcId TKD 0) j.cause (packBits [(0, 64, old), (64, 64, s.vt d), (128, 16, q)]))
    let s := { s with time := { s.time with pdReq := [], pdLast := [] } }
    (State.each ((List.range 16).filter (fun n => s.on (TP_GEN_CTL_RUN n) && s.get (TP_CFG_DOM n) == d)) (fun n t => t.genAlign n) s, true)

def execJumpDeliveryDone (d : Dom) (s : State) : Ans :=
  .next (let v := s.tdom d.val
    if v.delivering then (s.setTdom d.val { v with delivering := false }).put (DISC_STATUS_BUSY d.val) (b2n (!v.jumps.isEmpty)) else s)

def execSlewComplete (d : Dom) (s : State) : Ans :=
  .next (if s.on (DISC_STATUS_SLEWING d.val) && (s.tdom d.val).slew == 0
    then (s.put (DISC_STATUS_SLEWING d.val) 0).put (DISC_REMAIN_OFFSET d.val) 0 else s)

/-- A write of `DISC_GO` (R79): OP 1 slew, 2 jump by STEP, 3 jump to SET. -/
def State.discGo (s : State) (a : Agent) (d op ppm : Nat) : State :=
  let step : Int := toSigned 64 (s.get (DISC_STEP_OFFSET d)) * 2 ^ 24
  let ppm := if ppm == 0 then 100 else ppm
  let j : Jump :=
    if op == 3 then ⟨some (2 ^ 40 * (1000000000 * s.get (DISC_SET_S_SEC d) + s.get (DISC_SET_NS_NS d))), 0, 1⟩ else ⟨none, step, 0⟩
  let range := (jumpTarget (s.tdom d).acc j).isNone || (op == 3 && decide (1000000000 ≤ s.get (DISC_SET_NS_NS d)))
  let big := op == 1 && decide (1000000000 * 2 ^ 40 < step.natAbs)
  if op == 0 then s
  else
    let st := firstThat [(!s.on (DISC_CTL_MODE d), .denied), (!s.domEnabled d, .unavailable), (s.on (DISC_STATUS_BUSY d), .unavailable),
      (range || big || decide (1000 < ppm), .denied)] .ok
    let refused := s.on (DISC_CTL_MODE d) && s.domEnabled d && !s.on (DISC_STATUS_BUSY d) && range
    let s := (s.res (DISC_STATUS_RESULT d) st).when refused (fun t => t.vtRefused d (t.agentWorld a) (agentSrc a) (agentPort a))
    if st != .ok then s else if op == 1 then s.slewStart d step ppm else s.jumpAccept d j

def execDiscSlew (a : Agent) (d : Dom) (ppm : BitVec 10) (s : State) : Ans :=
  .next (s.regAccess a true (DISC_GO d.val) 4 (fun t => t.discGo a d.val 1 ppm.toNat))
def execDiscJumpBy (a : Agent) (d : Dom) (ppm : BitVec 10) (s : State) : Ans :=
  .next (s.regAccess a true (DISC_GO d.val) 4 (fun t => t.discGo a d.val 2 ppm.toNat))
def execDiscJumpTo (a : Agent) (d : Dom) (ppm : BitVec 10) (s : State) : Ans :=
  .next (s.regAccess a true (DISC_GO d.val) 4 (fun t => t.discGo a d.val 3 ppm.toNat))

/-- A write of `DISC_RATE` (R75, R82). -/
def State.rateWrite (s : State) (d v : Nat) : State :=
  if !s.on (DISC_CTL_MODE d) then s.res (DISC_STATUS_RESULT d) .denied else (s.res (DISC_STATUS_RESULT d) .ok).setRate d v

def execRateWordWrite (a : Agent) (d : Dom) (rate : Word) (s : State) : Ans :=
  .next (s.regAccess a true (DISC_RATE d.val) 8 (fun t => t.rateWrite d.val rate.toNat))

/-! ### Synchronisation states (R82 to R85) -/

/-- The slave port of a domain, if any (R92). -/
def State.slavePort (s : State) (d : Nat) : Option Nat := (List.range 17).find? (fun p => s.get (PTP_P_STATE_STATE p d) == 2)

/-- The cascade link that acts as the slave port of every enabled domain, on a module that is not master (R526). -/
def State.timeLink (s : State) : Option Nat :=
  let l := s.get CSC_STATUS_TIMELINK
  if s.on CSC_STATUS_MASTER || l == 3 then none else some l

/-- A domain changes state: interrupt and TSTATE record (R85, R254). -/
def State.setTState (s : State) (d new : Nat) : State :=
  let old := s.syncState d
  if old == new then s
  else
    let v := s.tdom d
    let s := s.put (VT_STATUS_STATE d) new
    let s := s.setTdom d { v with syncRun := 0, fromMaster := false, everLocked := v.everLocked || new == 3 }
    let s := s.when (!s.on (DISC_CTL_MODE d)) (fun t => t.put (DISC_CTL_SWSTATE d) new)
    let s := s.raise VT_IRQ_STATUS_STATE (2 ^ d)
    s.ldgAccept (s.recNow d 0x11 9 (srcId TKD 0) (new + 16 * old)
      (packBits [(0, 64, s.get (DISC_OFFSET_OFFSET d)), (64, 8, (s.timeLink.map (fun l => 17 + l)).getD ((s.slavePort d).getD 0xFF))]))

/-- JUMP_THR, LOCK_THR and LOCK_COUNT of a preset; preset 3 leaves JUMP_THR (R83). -/
def presetThr (p old : Nat) : Nat × Nat × Nat :=
  if p == 0 then (10000, 50, 8) else if p == 1 then (0xFFFFFFFF, 100, 16) else if p == 2 then (1000, 20, 4) else (old, 50, 8)

/-- The slew rate of a preset in ppm. -/
def presetPpm (p : Nat) : Nat := if p == 0 then 200 else if p == 1 then 50 else 1000

/-- A write of `DISC_CTL` (R82, R83, R85). -/
def State.discCtl (s : State) (d : Nat) (mode : Bool) (preset sw : Nat) : State :=
  let was := s.on (DISC_CTL_MODE d)
  let s := s.when (preset != s.get (DISC_CTL_PRESET d)) (fun t =>
    let (j, l, c) := presetThr preset (t.get (DISC_THR_JUMP_THR d))
    ((t.put (DISC_THR_JUMP_THR d) j).put (DISC_THR_LOCK_THR d) l).put (DISC_THR_LOCK_COUNT d) c)
  let s := (s.put (DISC_CTL_PRESET d) preset).put (DISC_CTL_MODE d) (b2n mode)
  if was && mode && (sw < 4 || (sw == 4 && (s.tdom d).isGm)) then (s.put (DISC_CTL_SWSTATE d) sw).setTState d sw else s

def execDiscCtlWrite (a : Agent) (d : Dom) (mode : Bool) (preset : BitVec 2) (swstate : BitVec 3) (s : State) : Ans :=
  .next (s.regAccess a true (DISC_CTL d.val) 4 (fun t => t.discCtl d.val mode preset.toNat swstate.toNat))

/-- `|offset|` is above JUMP_THR, or above 1 s where JUMP_THR selects that (R84); unit 2^-16 ns. -/
def State.overJump (s : State) (d : Nat) (off : Int) : Bool :=
  let j := s.get (DISC_THR_JUMP_THR d)
  decide (2 ^ 16 * (if j == 0xFFFFFFFF then 1000000000 else j) < off.natAbs)

/-- The servo jumps by −offset; out of range it is refused and recorded (R72). -/
def State.servoJump (s : State) (d : Nat) (off : Int) : State :=
  let j : Jump := ⟨none, -off * 2 ^ 24, 2⟩
  if (jumpTarget (s.tdom d).acc j).isNone then s.vtRefused d .secure 0xFFFF 0xF else s.jumpAccept d j

/-- The servo slews by −offset at the preset's rate. -/
def State.servoSlew (s : State) (d : Nat) (off : Int) : State :=
  if off == 0 then s else s.slewStart d (-off * 2 ^ 24) (presetPpm (s.get (DISC_CTL_PRESET d)))

/-- The servo corrects the rate word at a Sync (R85); the rate words after the last 16 Syncs are kept. -/
def State.servoRate (s : State) (d : Nat) (off : Int) : State :=
  let r := Config.servoRate d (s.get (DISC_CTL_PRESET d)) off (s.get (DISC_RATE_RATE d))
  let s := s.setRate d r.toNat
  s.setTdom d { s.tdom d with rates := (s.get (DISC_RATE_RATE d) :: (s.tdom d).rates).take 16 }

/-- Count a Sync that meets, or does not meet, a condition: the new count. -/
def State.syncCount (s : State) (d : Nat) (hit : Bool) : State × Nat :=
  let k := if hit then (s.tdom d).syncRun + 1 else 0
  (s.setTdom d { s.tdom d with syncRun := k }, k)

/-- An offset measured at a Sync on the slave port (R82, R85). -/
def State.servo (s : State) (d : Nat) (off : Int) : State :=
  let s := s.put (DISC_OFFSET_OFFSET d) (ofSigned 64 off)
  let state := s.syncState d
  if s.on (DISC_CTL_MODE d) || s.get (DISC_CTL_PRESET d) == 3 || state == 4 then s
  else
    let big := s.overJump d off
    let small := decide (off.natAbs ≤ 2 ^ 16 * s.get (DISC_THR_LOCK_THR d))
    let count := s.get (DISC_THR_LOCK_COUNT d)
    if state == 0 then (s.setTState d 2).servoJump d off
    else if state == 1 || (s.tdom d).fromMaster then
      let s := s.setTState d 2
      let s := s.setTdom d { s.tdom d with fromMaster := false }
      if big then s.servoJump d off else (s.servoRate d off).servoSlew d off
    else if state == 2 then
      let (s, k) := s.syncCount d small
      if big then s.servoJump d off
      else
        let s := (s.servoRate d off).servoSlew d off
        if count ≤ k then s.setTState d 3 else s
    else
      let (s, k) := s.syncCount d (!small)
      if big then (s.setTState d 2).servoJump d off
      else
        let s := (s.servoRate d off).servoSlew d off
        if count ≤ k && !small then s.setTState d 2 else s

/-- The rate word is frozen at the average of the last 16 Syncs. -/
def State.rateFreeze (s : State) (d : Nat) : State :=
  let r := (s.tdom d).rates
  if r.isEmpty then s else s.setRate d (r.foldl (· + ·) 0 / r.length)

/-- syncReceiptTimeout expires (R85). -/
def execSyncReceiptTimeout (p : PtpPort) (d : Dom) (s : State) : Ans :=
  .next (if s.vtOn && s.get (PTP_P_STATE_STATE p.val d.val) == 2 then
      let s := s.inc (PTP_P_CNT_SYNC_TO p.val) 1
      let state := s.syncState d.val
      if s.on (DISC_CTL_MODE d.val) then s
      else if state == 3 then (s.rateFreeze d.val).setTState d.val 1
      else if state == 2 then (s.rateFreeze d.val).setTState d.val (if (s.tdom d.val).everLocked then 1 else 0)
      else s
    else s)

/-- This system becomes, or is no longer, the domain's grandmaster (R85). -/
def State.setGm (s : State) (d : Nat) (gm : Bool) : State :=
  let v := s.tdom d
  let s := s.setTdom d { v with isGm := gm }
  let s := s.when gm (fun t => t.put (DISC_OFFSET_OFFSET d) 0)
  if s.on (DISC_CTL_MODE d) then s
  else if gm then s.setTState d 4
  else if s.syncState d == 4 && ((s.slavePort d).isSome || s.timeLink.isSome) then
    let s := s.setTState d 2
    s.setTdom d { s.tdom d with fromMaster := true }
  else s

/-! ### Ports, roles and BMCA (R92 to R97) -/

/-- The domain that sends and accepts messages of a gPTP domain number (R73). -/
def State.dnDomain (s : State) (dn : Nat) : Option Nat :=
  (List.range 4).find? (fun d => s.domEnabled d && s.get (VT_DOM_CFG_GPTP_DN d) == dn)

/-- A domain whose number a lower-numbered enabled domain carries (R73). -/
def State.dnConflict (s : State) (d : Nat) : Bool := s.dnDomain (s.get (VT_DOM_CFG_GPTP_DN d)) != some d

/-- The role of a port; S0 takes 0 or 1 only (R97). -/
def State.ptpRole (s : State) (p : Nat) : Nat :=
  let r := s.get (PTP_P_CFG_ROLE p)
  if p == 16 && r != 1 then 0 else r

/-- The ports that serve a domain. -/
def State.domPorts (s : State) (d : Nat) : List Nat :=
  (List.range 17).filter (fun p => s.ptpRole p != 0 && bitAt (s.get (PTP_P_CFG_DMASK p)) d)

/-- External port configuration (R93). -/
def State.extPorts (s : State) (d : Nat) : Bool := (s.domPorts d).any (fun p => s.ptpRole p == 1 || s.ptpRole p == 4)

/-- One priority vector is better than another: compared field by field, then stepsRemoved. -/
def prioBetter (a b : PrioVec) : Bool :=
  let ka := [a.prio1, a.cls, a.accuracy, a.variance, a.prio2, a.gm, a.steps]
  let kb := [b.prio1, b.cls, b.accuracy, b.variance, b.prio2, b.gm, b.steps]
  match (ka.zip kb).find? (fun p => p.1 != p.2) with
  | some (x, y) => decide (x < y)
  | none => false

/-- The system's own vector for a domain. -/
def State.ownPrio (s : State) (d : Nat) : PrioVec :=
  ⟨s.get (PTP_D_PRIO_PRIO1 d), s.get (PTP_D_PRIO_CLASS d), s.get (PTP_D_PRIO_ACCURACY d), s.get (PTP_D_PRIO_VARIANCE d),
    s.get (PTP_D_PRIO_PRIO2 d), Config.eui % 2 ^ 64, 0⟩

/-- The Announce held for a port and domain. -/
def State.announceOf (s : State) (p d : Nat) : Option PrioVec := tabGet (fun _ => none) s.time.announce (4 * p + d)

/-- The best Announce over the ports that may be slave: port and vector. -/
def State.bestAnnounce (s : State) (d : Nat) : Option (Nat × PrioVec) :=
  (s.domPorts d).foldl (fun b p =>
    match s.ptpRole p == 2, s.announceOf p d, b with
    | true, some v, none => some (p, v)
    | true, some v, some (_, u) => if prioBetter v u then some (p, v) else b
    | _, _, _ => b) none

/-- Set the states of a domain's ports, the grandmaster and its identity: by external configuration or BMCA (R92 to R94), or
as the cascade has it (R527). -/
def State.ptpSelect (s : State) (d : Nat) : State :=
  let ports := s.domPorts d
  let set (f : Nat → Nat) (t : State) : State :=
    State.each (List.range 17) (fun p u => u.put (PTP_P_STATE_STATE p d) (if ports.contains p then f p else 0)) t
  if !s.domEnabled d then set (fun _ => 0) s
  else if s.dnConflict d then set (fun _ => 7) s
  else if s.timeLink.isSome then (set (fun p => if s.ptpRole p == 4 then 7 else 1) s).setGm d false
  else if s.extPorts d then
    let slave := ports.find? (fun p => s.ptpRole p == 4)
    let s := set (fun p => if s.ptpRole p == 4 then (if slave == some p then 2 else 7) else 1) s
    let s := s.setGm d slave.isNone
    if slave.isNone then (s.put (PTP_D_GMID_ID d) Config.eui).put (PTP_D_GMINFO_STEPS d) 0 else s
  else
    let own := s.ownPrio d
    match s.bestAnnounce d with
    | some (q, v) =>
      if prioBetter v own then
        let mine := { v with steps := v.steps + 1 }
        let s := set (fun p => if p == q then 2 else match s.announceOf p d with
          | some u => if prioBetter mine u then 1 else 3
          | none => 1) s
        let s := s.setGm d false
        (s.put (PTP_D_GMID_ID d) v.gm).put (PTP_D_GMINFO_STEPS d) (v.steps + 1)
      else
        let s := (set (fun _ => 1) s).setGm d (own.prio1 != 255)
        (s.put (PTP_D_GMID_ID d) own.gm).put (PTP_D_GMINFO_STEPS d) 0
    | none =>
      let s := (set (fun _ => 1) s).setGm d (!ports.isEmpty && own.prio1 != 255)
      if ports.isEmpty then s else (s.put (PTP_D_GMID_ID d) own.gm).put (PTP_D_GMINFO_STEPS d) 0

/-- Every domain selects anew: after the boot, or a change of enables or domain numbers. -/
def State.ptpSelectAll (s : State) : State := State.each [0, 1, 2, 3] (fun d t => t.ptpSelect d) s

/-- gPTP messages pass a port: TKD and NET run. -/
def State.ptpUp (s : State) : Bool := s.vtOn && s.fenceOpen NET

def execAnnounceReceived (p : PtpPort) (dn : BitVec 7) (v : PrioVec) (s : State) : Ans :=
  .next (match s.dnDomain dn.toNat with
    | some d =>
      if s.ptpUp && (s.domPorts d).contains p.val && !s.extPorts d && v.steps < 255 && v.gm != Config.eui % 2 ^ 64 then
        ({ s with time := { s.time with announce := tabSet (fun _ => none) s.time.announce (4 * p.val + d) (some v) } }).ptpSelect d
      else s
    | none => s)

def execAnnounceReceiptTimeout (p : PtpPort) (d : Dom) (s : State) : Ans :=
  .next (if s.vtOn && !s.extPorts d.val && (s.announceOf p.val d.val).isSome then
      ({ s with time := { s.time with announce := tabSet (fun _ => none) s.time.announce (4 * p.val + d.val) none } }).ptpSelect d.val
    else s)

/-- Record the message a port sends. -/
def State.ptpSend (s : State) (p : Nat) (m : GptpSent) : State :=
  { s with time := { s.time with sent := tabSet (fun _ => none) s.time.sent p (some m) } }

def execAnnounceSend (p : PtpPort) (d : Dom) (s : State) : Ans :=
  .next (if s.ptpUp && s.get (PTP_P_STATE_STATE p.val d.val) == 1 && !s.extPorts d.val then
      let v := match s.bestAnnounce d.val with
        | some (_, b) => if (s.tdom d.val).isGm then s.ownPrio d.val else { b with steps := b.steps + 1 }
        | none => s.ownPrio d.val
      s.ptpSend p.val (.announce (s.get (VT_DOM_CFG_GPTP_DN d.val)) v (s.get (VT_DOM_CFG_UTC_OFFSET d.val)) (s.get (PTP_D_PRIO_SOURCE d.val)))
    else s)

/-! ### Path delay and Sync (R95, R98, R99) -/

/-- An adjustment in signed ps as units of 2^-16 ns (R98). -/
def latFine (ps : Nat) : Int := toSigned 16 ps * 65536 / 1000

/-- The stamp of an event message at a port in domain `d`, unit 2^-16 ns, with the port's adjustment (R98). -/
def State.ptpStamp (s : State) (p d phase : Nat) (egress : Bool) : Nat :=
  let a := latFine (if egress then s.get (PTP_P_LAT_EGRESS p) else s.get (PTP_P_LAT_INGRESS p))
  (((stampFine (s.stampNow d phase) : Nat) : Int) + a).toNat

/-- The domain a port's path delay is measured in: the lowest enabled one it serves. -/
def State.pdDom (s : State) (p : Nat) : Nat :=
  ((List.range 4).find? (fun d => bitAt (s.get (PTP_P_CFG_DMASK p)) d && s.domEnabled d)).getD 0

/-- A port measures path delay: it has a role and is not S0 (R97). -/
def State.pdPort (s : State) (p : Nat) : Bool := s.ptpUp && p != 16 && s.ptpRole p != 0

def execPdelayReqSend (p : PtpPort) (phase : Fin 8) (s : State) : Ans :=
  .next (if s.pdPort p.val then
      let t1 := s.ptpStamp p.val (s.pdDom p.val) phase.val true
      ({ s with time := { s.time with pdReq := tabSet (fun _ => none) s.time.pdReq p.val (some t1) } }).ptpSend p.val (.pdelayReq t1)
    else s)

def execPdelayReqReceived (p : PtpPort) (phase : Fin 8) (s : State) : Ans :=
  .next (if s.pdPort p.val then s.ptpSend p.val (.pdelayResp (s.ptpStamp p.val (s.pdDom p.val) phase.val false)) else s)

/-- meanLinkDelay from an exchange: `nrr` is the neighbour rate ratio − 1 in units of 2^-41. -/
def meanLinkDelay (t1 t2 t3 t4 : Nat) (nrr : Int) : Int :=
  let d : Int := (t4 : Int) - t1
  (d + d * nrr / 2 ^ 41 - ((t3 : Int) - t2)) / 2

def execPdelayRespReceived (p : PtpPort) (phase : Fin 8) (t2 t3 : Nat) (s : State) : Ans :=
  .next (match s.pdPort p.val, tabGet (fun _ => none) s.time.pdReq p.val with
    | true, some t1 =>
      let t4 := s.ptpStamp p.val (s.pdDom p.val) phase.val false
      let s := match tabGet (fun _ => none) s.time.pdLast p.val with
        | some (u3, u4) =>
          if u4 < t4 then s.put (PTP_P_NRR_OFFSET p.val) (ofSigned 32 ((((t3 : Int) - u3) - ((t4 : Int) - u4)) * 2 ^ 41 / ((t4 : Int) - u4)))
          else s
        | none => s
      let s := s.put (PTP_P_PDLY_DELAY p.val) (ofSigned 64 (meanLinkDelay t1 t2 t3 t4 (toSigned 32 (s.get (PTP_P_NRR_OFFSET p.val)))))
      { s with time := { s.time with pdReq := tabSet (fun _ => none) s.time.pdReq p.val none,
                                     pdLast := tabSet (fun _ => none) s.time.pdLast p.val (some (t3, t4)) } }
    | _, _ => s)

/-- Requested message intervals: 127 stops, 126 restores the initial one, −128 keeps it. -/
def State.setIntv (s : State) (p d k : Nat) (v : Option (BitVec 8)) : State :=
  match v with
  | none => s
  | some b =>
    if b.toNat == 128 then s
    else { s with time := { s.time with intv := tabSet (fun _ => none) s.time.intv (3 * (4 * p + d) + k) (if b.toNat == 126 then none else some b.toNat) } }

def execSignalingReceived (p : PtpPort) (dn : BitVec 7) (sync announce pdelay : Option (BitVec 8)) (s : State) : Ans :=
  .next (match s.dnDomain dn.toNat with
    | some d =>
      if s.ptpUp && (s.domPorts d).contains p.val then ((s.setIntv p.val d 0 sync).setIntv p.val d 1 announce).setIntv p.val d 2 pdelay else s
    | none => s)

/-- The delay from the neighbour's port to this one, unit 2^-16 ns: meanLinkDelay and asymmetry, or the fixed delay of S0. -/
def State.linkDelay (s : State) (p : Nat) : Int :=
  if p == 16 then (65536 * s.get (PTP_P_FIXED_DELAY p) : Nat)
  else toSigned 64 (s.get (PTP_P_PDLY_DELAY p)) + toSigned 32 (s.get (PTP_P_ASYM_ASYM p))

/-- A Sync whose origin time (ns) and correction (unit 2^-16 ns) are known: the offset, and the servo. -/
def State.syncMeasured (s : State) (p d stamp origin : Nat) (corr : Int) : State :=
  let s := s.setTdom d { s.tdom d with sync := none, lastRx := some (origin, corr, stamp) }
  s.servo d ((stamp : Int) - ((65536 * origin : Nat) + corr + s.linkDelay p))

def execSyncReceived (p : PtpPort) (dn : BitVec 7) (phase : Fin 8) (origin : Option (Nat × Int)) (s : State) : Ans :=
  .next (match s.dnDomain dn.toNat with
    | some d =>
      if s.ptpUp && s.get (PTP_P_STATE_STATE p.val d) == 2 then
        let stamp := s.ptpStamp p.val d phase.val false
        match origin with
        | some (o, c) => s.syncMeasured p.val d stamp o c
        | none => s.setTdom d { s.tdom d with sync := some (stamp, p.val) }
      else s
    | none => s)

def execFollowUpReceived (p : PtpPort) (dn : BitVec 7) (origin : Nat) (corr : Int) (s : State) : Ans :=
  .next (match s.dnDomain dn.toNat with
    | some d =>
      match (s.tdom d).sync with
      | some (stamp, q) => if s.ptpUp && q == p.val && s.get (PTP_P_STATE_STATE p.val d) == 2 then s.syncMeasured p.val d stamp origin corr else s
      | none => s
    | none => s)

/-- A master port sends a Sync: its own time as grandmaster; otherwise the received time with residence time and upstream delay
(R92, R99). -/
def execSyncSend (p : PtpPort) (d : Dom) (phase : Fin 8) (s : State) : Ans :=
  .next (if s.ptpUp && s.get (PTP_P_STATE_STATE p.val d.val) == 1 then
      let v := s.tdom d.val
      let dn := s.get (VT_DOM_CFG_GPTP_DN d.val)
      let now := s.ptpStamp p.val d.val phase.val true
      let one := s.on (PTP_P_CFG_ONESTEP p.val) && p.val != 16
      let tbi := s.get (PTP_D_GMINFO_TBI d.val)
      match v.isGm, v.lastRx, s.slavePort d.val with
      | false, some (o, c, rx), some q =>
        let res : Int := (now : Int) - rx
        let ratio := toSigned 32 (s.get (PTP_P_NRR_OFFSET q))
        s.ptpSend p.val (.sync dn o (c + res + res * ratio / 2 ^ 41 + s.linkDelay q) tbi v.gmPhase one)
      | _, _, _ => s.ptpSend p.val (.sync dn (now / 65536) ((now % 65536 : Nat) : Int) tbi v.gmPhase one)
    else s)

/-! ### Boot and sleep (R86, R100, R101) -/

/-- Load the domains at cold boot: from the always-on timer if it holds valid time, else 0 (R86, R101). -/
def State.vtLoad (s : State) : State :=
  let valid := s.power.aotValid
  let base := if valid then s.power.aot / 2 ^ 32 % 2 ^ 64 else 0
  let offs := s.time
  let s := { s with time := { TimeSt.init with doms := [] } }
  let s := State.each (List.range 4) (fun d t =>
    let off := (tabGet (fun _ => DomSt.init) offs.doms d).aotOffset
    let t0 := match d, off with
      | 0, _ => base
      | _, some o => ((base : Int) + o).toNat
      | _, none => base
    let state := if d == 0 then b2n valid else b2n (valid && off.isSome)
    ((t.setTdom d { DomSt.init with acc := 2 ^ 40 * t0, aotOffset := off }).put (VT_STATUS_STATE d) state).put (DISC_CTL_SWSTATE d) state) s
  s.put VT_STATUS_AOT_LOADED (b2n valid)

end Sys2Proof.Machine
end

