-- ==== Sys2Proof/Machine/Pins.lean ====
section
/-! DEFINITION. The time pins: levels, pulses, generators, captures (R103 to R110, R152). -/

namespace Sys2Proof.Machine

open Sys2Proof

/-- An output pin driven by wheel actions and level writes (R104). -/
def State.pinOut (s : State) (n : Nat) : Bool := s.vtOn && s.get (TP_CFG_FUNC n) == 1 && !s.on (TP_CFG_SRC n)

/-- Drive a pin active or inactive. -/
def State.pinDrive (s : State) (n : Nat) (active : Bool) : State := s.setPin n { s.pin n with active := active }

/-- The level at a pin's ball: none where the T72 does not drive it; low while TKD is not powered (R103, R104, R110). -/
def State.pinLevel (s : State) (n : Nat) : Option Bool :=
  if !s.vtOn then some false
  else if s.get (TP_CFG_FUNC n) == 1 then some (xor (s.pin n).active (s.on (TP_CFG_POL n))) else none

/-- LEVEL_SET and LEVEL_CLR (R104): both set change no level. -/
def State.pinLevels (s : State) (n : Nat) (set clr : Bool) : State :=
  if s.pinOut n && set != clr then s.pinDrive n set else s

def execTpLevelSet (a : Agent) (n : Pin) (s : State) : Ans := .next (s.regAccess a true (TP_CFG n.val) 4 (fun t => t.pinLevels n.val true false))
def execTpLevelClr (a : Agent) (n : Pin) (s : State) : Ans := .next (s.regAccess a true (TP_CFG n.val) 4 (fun t => t.pinLevels n.val false true))

/-! ### Wheel actions on pins (R105, R106) -/

/-- A PIN action's edge: the entry completes at once. -/
def State.pinEdge (s : State) (n : Nat) (active : Bool) : State :=
  if s.pinOut n then s.pinDrive n active else s.inc (TP_STAT_DROPPED n) 1

/-- A PULSE of entry `i` starts at instant `t`. The flag says that the entry completes now because the pin does not change; a
pulse still active completes at this launch (R106). -/
def State.pinPulse (s : State) (n i t : Nat) : State × Bool :=
  if s.pinOut n then
    let old := (s.pin n).pulse
    let s := s.setPin n { s.pin n with active := true, pulse := some i }
    (match old with
     | some j => s.wheelFinish j .ok false t
     | none => s, false)
  else (s.inc (TP_STAT_DROPPED n) 1, true)

/-- The trailing edge of the active pulse. -/
def execPulseTrailingEdge (n : Pin) (s : State) : Ans :=
  .next (match (s.pin n.val).pulse with
    | some i => (s.setPin n.val { s.pin n.val with active := if s.on (TP_CFG_SRC n.val) then (s.pin n.val).active else false, pulse := none }).wheelFinish i .ok false (s.vt 0)
    | none => s)

/-! ### Generators (R107) -/

/-- The conditions on PERIOD and WIDTH. -/
def genOk (period width : Nat) : Bool := decide (8 ≤ period) && width != 0 && decide (width < period)

/-- A write of RUN. -/
def State.genRun (s : State) (n : Nat) (run : Bool) : State :=
  if run then
    if s.on (TP_GEN_CTL_RUN n) || !genOk (s.get (TP_GEN_PERIOD_NS n)) (s.get (TP_GEN_WIDTH_NS n)) then s
    else
      let now := s.vt (s.get (TP_CFG_DOM n))
      let next := gridAfter (s.get (TP_GEN_ANCHOR_VT n)) (s.get (TP_GEN_PERIOD_NS n)) (now - 1)
      let next := if now == 0 then s.get (TP_GEN_ANCHOR_VT n) else next
      (s.setPin n { s.pin n with genNext := next }).put (TP_GEN_CTL_RUN n) 1
  else s.put (TP_GEN_CTL_RUN n) 0

def execTpGenRunStart (a : Agent) (n : Pin) (s : State) : Ans := .next (s.regAccess a true (TP_GEN_CTL n.val) 4 (fun t => t.genRun n.val true))
def execTpGenRunStop (a : Agent) (n : Pin) (s : State) : Ans := .next (s.regAccess a true (TP_GEN_CTL n.val) 4 (fun t => t.genRun n.val false))

/-- The field of a generator parameter. -/
def genField (n : Nat) : GenParam → Fld
  | .anchor => TP_GEN_ANCHOR_VT n | .period => TP_GEN_PERIOD_NS n | .width => TP_GEN_WIDTH_NS n

/-- A write of ANCHOR, PERIOD or WIDTH: `v` the whole new value. -/
def State.genParam (s : State) (n : Nat) (k : GenParam) (v : Nat) : State :=
  let t := s.put (genField n k) v
  if !s.on (TP_GEN_CTL_RUN n) then t
  else if genOk (t.get (TP_GEN_PERIOD_NS n)) (t.get (TP_GEN_WIDTH_NS n)) then t.genAlign n else s

def execTpGenParamWrite (a : Agent) (n : Pin) (which : GenParam) (v : Word) (s : State) : Ans :=
  .next (s.regAccess a true (genField n.val which).reg (if which == .anchor then 8 else 4) (fun t => t.genParam n.val which v.toNat))

/-- The domain reaches a grid instant: the generator drives the pin active while SRC is 1. -/
def execTpGenActivate (n : Pin) (s : State) : Ans :=
  .next (let k := n.val
    let p := s.pin k
    if s.vtOn && s.clocked TKD 1 && s.on (TP_GEN_CTL_RUN k) && s.get (TP_CFG_FUNC k) == 1 && decide (p.genNext ≤ s.vt (s.get (TP_CFG_DOM k))) then
      let s := s.setPin k { p with genNext := p.genNext + s.get (TP_GEN_PERIOD_NS k), genWidth := s.get (TP_GEN_WIDTH_NS k),
                                   active := p.active || s.on (TP_CFG_SRC k) }
      s.put (TP_GEN_CTL_ACTIVE k) 1
    else s)

/-- The activation's width ends. -/
def execTpGenDeactivate (n : Pin) (s : State) : Ans :=
  .next (if s.on (TP_GEN_CTL_ACTIVE n.val) then
      (s.setPin n.val { s.pin n.val with active := if s.on (TP_CFG_SRC n.val) then false else (s.pin n.val).active }).put (TP_GEN_CTL_ACTIVE n.val) 0
    else s)

/-! ### Captures (R108, R109, R158) -/

/-- The instant of an edge in half nanoseconds of the 250 MHz clock. -/
def State.edgeTime (s : State) (phase : Nat) : Nat := 8 * s.ticks + phase

/-- An edge the pin resolves and selects, stable long enough. -/
def State.edgeTaken (s : State) (n : Nat) (rising : Bool) (phase stableNs : Nat) : Bool :=
  let e := s.get (TP_CFG_EDGE n)
  let g := s.get (TP_CFG_DEGLITCH n)
  s.vtOn && s.clocked TKD 1 && s.get (TP_CFG_FUNC n) == 2 && bitAt e (if rising then 0 else 1) && (g == 0 || decide (4 * g < stableNs)) &&
    (match (s.pin n).lastEdge with
     | some t => decide (t + 16 ≤ s.edgeTime phase)
     | none => true)

/-- A stamped edge: FIFO, ledger record, stream. -/
def State.captureEdge (s : State) (n : Nat) (rising : Bool) (phase : Nat) : State :=
  let d := s.get (TP_CFG_DOM n)
  let st := s.stampNow d phase
  let p := s.pin n
  let s := if p.fifo.length ≥ 16 then
      (s.setPin n { p with lostMark := true }).put (TP_STAT_LOST n) (satAdd 8 (s.get (TP_STAT_LOST n)) 1)
    else
      let f := p.fifo ++ [⟨st, rising, p.lostMark⟩]
      ((s.setPin n { p with fifo := f, lostMark := false }).put (TP_STAT_DEPTH n) f.length).raise TP_IRQ_STATUS_CAP (2 ^ n)
  let s := s.when (s.on (TP_CFG_LEDGER n)) (fun t =>
    t.ldgAccept (recAt d st 0x21 3 (srcId TKD 1) n (packBits [(0, 16, st.frac), (16, 1, b2n rising)])))
  s.pinUnit n rising st

/-- An edge at a capture pin; only an edge that is stamped starts the 8 ns of R108. -/
def State.pinEdgeSeen (s : State) (n : Nat) (rising : Bool) (phase stableNs : Nat) : State :=
  if s.edgeTaken n rising phase stableNs then
    (s.setPin n { s.pin n with lastEdge := some (s.edgeTime phase) }).captureEdge n rising phase
  else s

/-- `TP_n_CAPX` as it reads: the head's fraction, edge, companions. -/
def State.capxValue (s : State) (n : Nat) : Nat :=
  match (s.pin n).fifo with
  | [] => 0
  | e :: _ => packBits [(0, 16, e.stamp.frac), (16, 1, b2n e.rise), (17, 1, 1), (18, 1, b2n e.lost), (19, 2, e.stamp.qual), (24, 8, e.stamp.dseq)]

/-- A read of `TP_n_CAP` returns the head stamp and pops it. -/
def State.capPop (s : State) (n : Nat) : State × Nat :=
  match (s.pin n).fifo with
  | [] => (s, 0)
  | e :: r => ((s.setPin n { s.pin n with fifo := r }).put (TP_STAT_DEPTH n) r.length, e.stamp.ns)

def execTpCapRead (a : Agent) (n : Pin) (half : Half) (s : State) : Ans := .next (s.readCmd a (TP_CAP n.val) half (fun t => t.capPop n.val))

end Sys2Proof.Machine
end

