-- ==== Sys2Proof/Machine/Gates.lean ====
section
/-! DEFINITION. Egress of a switch port: rates, gate control lists, shapers, the choice of the next frame (R220 to R229, R236). -/

namespace Sys2Proof.Machine

open Sys2Proof

/-! ### Ports -/

/-- The rate of a port in Mb/s by its SPEED code (R216; two lanes of 16 Gb/s on a cascade link, R520). -/
def portMbps (p code : Nat) : Nat :=
  if p < 4 then (if code == 0 then 10000 else if code == 1 then 5000 else 2500)
  else if p < 12 then 1000 else if p < 16 then 100 else if p == 16 then 10 else 32000

/-- The port's rate: resolved while the link is up, else the one selected (R236). -/
def State.portRate (s : State) (p : Nat) : Nat :=
  portMbps p (if s.on (PORT_STATUS_LINK p) then s.get (PORT_STATUS_RATE p) else s.get (PORT_CFG_SPEED p))

/-- `PORT_TXLAT.LAUNCH` (R236). -/
def State.launchLat (s : State) (p : Nat) : Nat :=
  if p < 4 then (match s.portRate p with
    | 10000 => 1184
    | 5000 => 1536
    | _ => 2240)
  else if p < 12 then 312 else if p < 16 then 1560 else if p == 16 then 6400 else 0

/-- The port carries frames: NET runs, the port enabled, its link up, not asleep (R217, R239). -/
def State.portUp (s : State) (p : Nat) : Bool :=
  s.opens NET (0x10 + p) && s.clocked NET 0 && s.on (PORT_CFG_EN p) && s.on (PORT_STATUS_LINK p) && s.get (PORT_STATUS_TC10 p) != 2

def State.queue (s : State) (p q : Nat) : List QFrame := tabGet (fun _ => []) s.sw.queues (8 * p + q)
def State.setQueue (s : State) (p q : Nat) (l : List QFrame) : State :=
  { s with sw := { s.sw with queues := tabSet (fun _ => []) s.sw.queues (8 * p + q) l } }
def State.txOf (s : State) (p : Nat) : Option TxFrame := tabGet (fun _ => none) s.sw.tx p
def State.setTx (s : State) (p : Nat) (t : Option TxFrame) : State :=
  { s with sw := { s.sw with tx := tabSet (fun _ => none) s.sw.tx p t } }

/-! ### Buffer cells (R225) -/

/-- The cells of a frame. -/
def cellsOf (f : QFrame) : Nat := (f.len + 255) / 256

/-- The frames a port holds: queued, parked, released, in transmission. -/
def State.portFrames (s : State) (p : Nat) : List QFrame :=
  (List.range 8).flatMap (s.queue p) ++ ((s.sw.parked.filter (fun k => k.port == p)).map (fun k => k.frame)) ++
    ((s.sw.released.filter (fun r => r.parked.port == p)).map (fun r => r.parked.frame)) ++
    (match s.txOf p with | some t => [t.frame] | none => [])

def cellsSum (l : List QFrame) : Nat := (l.map cellsOf).foldl (· + ·) 0

/-- `PORT_BUF.USED`. -/
def State.portCells (s : State) (p : Nat) : Nat := cellsSum (s.portFrames p)

/-- `SW_BUF.SHARED`: all cells outside the reserves. -/
def State.sharedSize (s : State) : Nat := 24576 - ((List.range 19).map (fun p => s.get (PORT_BUF_RESERVE p))).foldl (· + ·) 0

/-- `SW_BUF.USED`. -/
def State.sharedCells (s : State) : Nat :=
  cellsSum (((List.range 19).flatMap s.portFrames).filter (fun f => f.shared))

/-- A port admits a frame to queue `q`: from its reserve (false) or the shared pool (true). -/
def State.admits (s : State) (p q : Nat) (f : QFrame) : Option Bool :=
  let n := cellsOf f
  if s.get (PORT_Q_LIMIT p q) ≤ cellsSum (s.queue p q) then none
  else if cellsSum ((s.portFrames p).filter (fun g => !g.shared)) + n ≤ s.get (PORT_BUF_RESERVE p) then some false
  else if s.sharedCells + n ≤ s.sharedSize then some true
  else none

/-! ### Gate control lists (R222, R226 to R228) -/

def State.gcl (s : State) (p : Nat) : GclSt := tabGet (fun _ => GclSt.init) s.sw.gcl p
def State.setGcl (s : State) (p : Nat) (g : GclSt) : State :=
  { s with sw := { s.sw with gcl := tabSet (fun _ => GclSt.init) s.sw.gcl p g } }

/-- Where an offset of a cycle falls in the entries `i, i + 1, …` that start at `start`: the entry and where it ends.
The last entry lasts to the end of the cycle. -/
def gclWalk (ent : Nat → Nat) (len cycle off : Nat) : Nat → Nat → Nat → Nat × Nat
  | 0, i, _ => (i, cycle)
  | fuel + 1, i, start =>
    let e := Nat.min cycle (start + ent i / 256)
    if i + 1 ≥ len then (i, cycle)
    else if off < e then (i, e)
    else gclWalk ent len cycle off fuel (i + 1) e

/-- Entry and end of entry of a list at instant `t`, and its gates. -/
def gclAt (ent : Nat → Nat) (base cycle len t : Nat) : Nat × Nat × Nat :=
  let c := Nat.max cycle 1
  let off := (((t : Int) - base) % c).toNat
  let r := gclWalk ent len c off len 0 0
  (r.1, t + (r.2 - off), ent r.1 % 256)

/-- The end of an old cycle that the pending change at `t'` extends, if it extends one (R227). -/
def gclExtended (g : GclSt) (t' ext : Nat) : Option Nat :=
  let r := (((t' : Int) - g.base) % (Nat.max g.cycle 1 : Nat)).toNat
  if r != 0 && r < ext then some (t' - r) else none

/-- Entry, end of entry and gates of port `p` at instant `t` of its list's domain, a pending change included. -/
def State.gateAt (s : State) (p t : Nat) : Nat × Nat × Nat :=
  let g := s.gcl p
  let oper := fun i => s.get (PORT_GCL_OPERENT_ENTRY p i)
  match g.pend with
  | none => gclAt oper g.base g.cycle g.len t
  | some (t', ext, d, base, cycle, len) =>
    if d != g.dom then gclAt oper g.base g.cycle g.len t
    else if t' ≤ t then gclAt (fun i => s.get (PORT_GCL_ADMINENT_ENTRY p i)) base cycle len t
    else match gclExtended g t' ext with
      | some e =>
        if e ≤ t then (g.len - 1, t', oper (g.len - 1) % 256) else gclAt oper g.base g.cycle g.len t
      | none =>
        let (i, stop, gates) := gclAt oper g.base g.cycle g.len t
        (i, Nat.min stop t', gates)

/-- The time until the gate of queue `q` next closes, from `t`; none when it stays open over the whole list. -/
def State.openLeft (s : State) (p q : Nat) : Nat → Nat → Option Nat
  | 0, _ => none
  | fuel + 1, t =>
    let (_, stop, gates) := s.gateAt p t
    if !bitAt gates q then some 0
    else match s.openLeft p q fuel stop with
      | none => none
      | some k => some (k + (stop - t))

/-- Enough entries to see every window of the lists in force and pending. -/
def State.gclFuel (s : State) (p : Nat) : Nat :=
  2 * ((s.gcl p).len + (match (s.gcl p).pend with | some (_, _, _, _, _, l) => l | none => 0)) + 4

/-- The gate of queue `q` is open. -/
def State.gateOpen (s : State) (p q : Nat) : Bool :=
  !s.on (PORT_GCL_CTL_GATE_EN p) || bitAt (s.get (PORT_GCL_OPERENT_ENTRY p (s.get (PORT_GCL_POS_ENTRY p)))) q

/-- The present time of the list's domain. -/
def State.gclNow (s : State) (p : Nat) : Nat := s.vt (s.gcl p).dom

/-- A frame of `len` bytes fits the open time `left` at the port's rate (R222). -/
def State.fitsTime (s : State) (p len : Nat) (left : Option Nat) : Bool :=
  match left with
  | none => true
  | some k => decide ((8 + len) * 8 * 1000 ≤ k * s.portRate p)

/-- A frame of `len` bytes of queue `q` fits from an instant `wait` ns from now. -/
def State.fits (s : State) (p q len wait : Nat) : Bool :=
  !s.on (PORT_GCL_CTL_GATE_EN p) ||
    (let left := s.openLeft p q (s.gclFuel p) (s.gclNow p + wait)
     left != some 0 && s.fitsTime p len left)

/-- No window of the active list is long enough for a frame of `len` bytes of queue `q`. -/
def State.neverFits (s : State) (p q len : Nat) : Bool :=
  let g := s.gcl p
  let ent := fun i => s.get (PORT_GCL_OPERENT_ENTRY p i)
  let starts := (List.range g.len).foldl (fun (a : List Nat × Nat) i => (a.1 ++ [a.2], a.2 + ent i / 256)) ([], 0)
  !(starts.1.filter (fun o => o < g.cycle)).any (fun o =>
    let left := ({ s with sw := { s.sw with gcl := tabSet (fun _ => GclSt.init) s.sw.gcl p { g with pend := none } } }).openLeft p q
      (s.gclFuel p) (g.base + o)
    left != some 0 && s.fitsTime p len left)

/-! ### Shapers (R229) -/

/-- The port rate in kb/s. -/
def State.portKbps (s : State) (p : Nat) : Nat := 1000 * s.portRate p

/-- The idle slope in force. -/
def State.idleSlope (s : State) (p q : Nat) : Nat := Nat.min (s.get (PORT_Q_IDLE_SLOPE p q)) (s.portKbps p)

/-- The credit limits of a queue, unit 1/250000 bit (IEEE 802.1Q-2018 Annex L, from MAXFRAME and the queues above). -/
def State.creditHi (s : State) (p q : Nat) : Int :=
  let m := 2000000 * s.get (PORT_CFG_MAXFRAME p)
  let r := s.portKbps p
  let above := (List.range 8).filter (fun k => q < k && s.on (PORT_Q_CBS_EN p k))
  let ia := (above.map (fun k => s.idleSlope p k)).foldl (· + ·) 0
  let i := s.idleSlope p q
  ((i * m / Nat.max 1 (r - ia) + (if above.isEmpty then 0 else i * m / r) : Nat) : Int)
def State.creditLo (s : State) (p q : Nat) : Int :=
  let m := 2000000 * s.get (PORT_CFG_MAXFRAME p)
  let r := s.portKbps p
  (0 : Int) - ((m * (r - s.idleSlope p q) / r : Nat) : Int)

def State.credit (s : State) (p q : Nat) : Int × Nat := tabGet (fun _ => (0, 0)) s.sw.credit (8 * p + q)
def State.setCredit (s : State) (p q : Nat) (c : Int) : State :=
  { s with sw := { s.sw with credit := tabSet (fun _ => (0, 0)) s.sw.credit (8 * p + q) (c, s.ticks) } }

/-- A credit after `n` clocks: falling while the queue transmits, rising while its gate is open and it waits or owes. -/
def State.creditAfter (s : State) (p q n : Nat) : Int :=
  let c := (s.credit p q).1
  let i := s.idleSlope p q
  let sending := match s.txOf p with
    | some t => t.queue == q && t.entry.isNone
    | none => false
  let waits := !(s.queue p q).isEmpty
  if sending then max (s.creditLo p q) (c - (n * (s.portKbps p - i) : Nat))
  else if !s.gateOpen p q then (if waits then c else min c 0)
  else if waits then min (s.creditHi p q) (c + (n * i : Nat))
  else min 0 (c + (n * i : Nat))

/-- Bring the credits of a port up to the present clock. -/
def State.creditUp (s : State) (p : Nat) : State :=
  State.each (List.range 8) (fun q t =>
    if t.on (PORT_Q_CBS_EN p q) then t.setCredit p q (t.creditAfter p q (t.ticks - (t.credit p q).2)) else t.setCredit p q 0) s

/-! ### Completion of injected frames (R233 to R235) -/

/-- A frame of a descriptor completes; its write-back waits. -/
def State.injDone (s : State) (p : Nat) (ref : Option InjRef) (st : Status) (unparked : Bool) (stamp : Option Stamp) : State :=
  match ref with
  | none => s
  | some r =>
    let s := { s with sw := { s.sw with done := s.sw.done ++ [(⟨r, st, unparked, stamp⟩ : InjDone)] } }
    s.when (p < 19) (fun t => t.portCount p 21 1)

/-! ### Queues -/

/-- Take the head of a queue; the next frame becomes the head now. -/
def State.dequeue (s : State) (p q : Nat) : State :=
  match (s.queue p q).drop 1 with
  | [] => s.setQueue p q []
  | f :: r => s.setQueue p q ({ f with since := s.ticks } :: r)

/-- Append a frame to a queue. -/
def State.enqueue (s : State) (p q : Nat) (f : QFrame) : State :=
  let s := s.creditUp p
  s.setQueue p q (s.queue p q ++ [{ f with since := s.ticks }])

/-- Queue `q` is eligible (R221). -/
def State.eligible (s : State) (p q : Nat) : Bool :=
  match s.queue p q with
  | [] => false
  | f :: _ => s.gateOpen p q && (!s.on (PORT_Q_CBS_EN p q) || decide (0 ≤ (s.credit p q).1)) && s.fits p q f.len 0

/-- The stamp of domain 0 `wait` ns after the present phase. -/
def State.stampIn (s : State) (wait phase : Nat) : Stamp :=
  s.stampAt 0 ((s.tdom 0).acc + 2 ^ 39 * phase + wait * s.get (DISC_RATE_RATE 0) / 4)

/-- A LAUNCH releases its parked frame (R235, R236); false when none matches. -/
def State.launch (s : State) (p q tag entry : Nat) : State × Bool :=
  match s.sw.parked.find? (fun k => k.port == p && k.queue == q && k.tag == tag) with
  | none => (s, false)
  | some k =>
    let s := { s with sw := { s.sw with parked := s.sw.parked.filter (fun j => !(j.port == p && j.queue == q && j.tag == tag)),
                                        released := s.sw.released ++ [(⟨k, entry, s.ticks⟩ : Released)],
                                        lastLaunch := some (s.ticks, p, q, tag) } }
    (s.portCount p 20 1, true)

/-- The port starts a frame at once, or a released frame at its instant. -/
def State.egressStart (s : State) (p phase : Nat) : State :=
  let s := s.creditUp p
  match s.sw.released.find? (fun r => r.parked.port == p) with
  | some r =>
    let wait := (4 * r.tick + s.launchLat p) - (4 * s.ticks + phase / 2)
    if s.fits p r.parked.queue r.parked.frame.len wait then
      let st := if wait == 0 then s.stampIn 0 phase else s.stampIn wait 0
      let s := { s with sw := { s.sw with released := s.sw.released.erase r } }
      let s := s.setTx p (some ⟨r.parked.frame, r.parked.queue, st, some r.entry⟩)
      s.wheelFinish r.entry .ok false st.ns
    else s
  | none =>
    match (List.range 8).reverse.find? (fun q => s.eligible p q) with
    | none => s
    | some q => match s.queue p q with
      | [] => s
      | f :: _ => (s.setTx p (some ⟨f, q, s.stampIn 0 phase, none⟩)).dequeue p q

def execEgressSelect (p : EthPort) (phase : Fin 8) (s : State) : Ans :=
  .next (if s.portUp p.val && (s.txOf p.val).isNone && !s.hovBusy NET (0x10 + p.val) then s.egressStart p.val phase.val else s)

/-- The frame in transmission ends: counters, the descriptor. -/
def State.egressEnd (s : State) (p : Nat) : State :=
  match s.txOf p with
  | none => s
  | some t =>
    let s := (s.creditUp p).setTx p none
    let s := ((s.portCount p 2 1).portCount p 3 ((t.frame.len + 63) / 64)).portCount p (8 + t.queue) 1
    s.injDone p t.frame.inj .ok false (some t.stamp)

def execFrameTransmitEnd (p : EthPort) (s : State) : Ans := .next (s.egressEnd p.val)

/-! ### Commands of the gate list -/

/-- `PORT_GCL_POS` follows the time; heads that have waited a full cycle without fitting are dropped (R223, R226, R228). -/
def State.gclMove (s : State) (p : Nat) : State :=
  let s := s.creditUp p
  s.put (PORT_GCL_POS_ENTRY p) (s.gateAt p (s.gclNow p)).1

def State.gateOverrun (s : State) (p : Nat) : State :=
  if !s.on (PORT_GCL_CTL_GATE_EN p) then s
  else State.each (List.range 8) (fun q t =>
    match t.queue p q with
    | [] => t
    | f :: _ =>
      if decide ((t.gcl p).cycle ≤ 4 * (t.ticks - f.since)) && t.neverFits p q f.len then
        ((((t.dequeue p q).portCount p 16 1).raise (PORT_IRQ_STATUS_OVERRUN p) 1)).injDone p f.inj .ok false none
      else t) s

def execGclEntryAdvance (p : PtpPort) (s : State) : Ans :=
  .next (if s.opens NET (0x10 + p.val) then (s.gclMove p.val).gateOverrun p.val else s)

/-- The change time of a list: the first `BASE + N × CYCLE` that is no earlier than `t`. -/
def firstCycle (base cycle t : Nat) : Nat := if t ≤ base then base else base + (t - base + cycle - 1) / cycle * cycle

/-- A write of `PORT_GCL_CTL` with CHANGE (R227). -/
def State.gclChange (s : State) (p : Nat) : State :=
  let len := s.get (PORT_GCL_CTL_LEN p)
  let cycle := s.get (PORT_GCL_CYCLE_NS p)
  let d := s.get (PORT_GCL_CTL_DOM p)
  let short := (List.range len).any (fun i => decide (s.get (PORT_GCL_ADMINENT_ENTRY p i) / 256 < 32))
  let st := firstThat [(len == 0 || decide (256 < len) || cycle == 0 || short, .denied), (!s.domEnabled d, .unavailable),
    (s.on (PORT_GCL_CTL_PENDING p), .unavailable)] .ok
  let s := s.res (PORT_GCL_CTL_RESULT p) st
  if st != .ok then s
  else
    let base := s.get (PORT_GCL_BASE_VT p)
    let t := firstCycle base cycle (s.vt d + 2000)
    (s.setGcl p { s.gcl p with pend := some (t, s.get (PORT_GCL_CYCLE_EXT p), d, base, cycle, len) }).put (PORT_GCL_CTL_PENDING p) 1

def execGclChange (a : Agent) (p : PtpPort) (s : State) : Ans :=
  .next (s.regAccess a true (PORT_GCL_CTL p.val) 4 (fun t => t.gclChange p.val))

/-- The pending list becomes active when its instant is reached. -/
def State.gclTake (s : State) (p : Nat) : State :=
  match (s.gcl p).pend with
  | none => s
  | some (t, _, d, base, cycle, len) =>
    if s.vt d < t then s
    else
      let s := s.creditUp p
      let s := State.each (List.range 256) (fun i u => u.put (PORT_GCL_OPERENT_ENTRY p i) (u.get (PORT_GCL_ADMINENT_ENTRY p i))) s
      let s := (s.setGcl p ⟨d, base, cycle, len, none⟩).put (PORT_GCL_OPER_VT p) t
      (s.put (PORT_GCL_CTL_PENDING p) 0).gclMove p

def execGclChangeTakeEffect (p : PtpPort) (s : State) : Ans := .next (if s.opens NET (0x10 + p.val) then s.gclTake p.val else s)

/-- Domain `d` jumped: pending changes that are reached take effect and positions are computed anew (R228). -/
def State.gclJump (s : State) (d : Nat) : State :=
  if !s.fenceOpen NET then s
  else State.each (List.range 17) (fun p t =>
    let t := t.gclTake p
    if (t.gcl p).dom == d then t.gclMove p else t) s

end Sys2Proof.Machine
end

