-- ==== Sys2Proof/Machine/Switch.lean ====
section
/-! DEFINITION. The switch: forwarding database, VLANs, per-stream filters, replication, ingress and injection (R219 to R237). -/

namespace Sys2Proof.Machine

open Sys2Proof

/-! ### VLANs and the forwarding database (R219, R249) -/

/-- The enabled ports. -/
def State.enabledPorts (s : State) : Nat := ((List.range 19).map (fun p => s.get (PORT_CFG_EN p) * 2 ^ p)).foldl (· + ·) 0

/-- `SW_VLAN_DATA` of a VLAN. -/
def State.vlanData (s : State) (vid : Nat) : Nat :=
  match tabGet (fun _ => none) s.sw.vlan vid with
  | some v => v
  | none => if vid == 1 then s.enabledPorts + 2 ^ 32 * s.enabledPorts else 0

/-- A write of `SW_VLAN_DATA` for the VLAN selected. -/
def State.vlanWrite (s : State) (v : Nat) : State :=
  let v := bitsOf v 0 19 + 2 ^ 32 * bitsOf v 32 19
  { s with sw := { s.sw with vlan := tabSet (fun _ => none) s.sw.vlan (s.get SW_VLAN_IDX_VID) (some v) } }

def State.setFdb (s : State) (l : List FdbEntry) : State := { s with sw := { s.sw with fdb := l } }

/-- The entry of an address in a VLAN. -/
def State.fdbFind (s : State) (mac vid : Nat) : Option FdbEntry := s.sw.fdb.find? (fun e => e.mac == mac && e.vid == vid)

/-- The set of an address. -/
def fdbSetOf (mac vid : Nat) : Nat := Config.fdbSet mac vid % 4096

/-- Put an entry in place of the one with its key, in a free way, or in place of a dynamic entry of its set, which of them is a
free value; false when all four ways hold static entries. -/
def State.fdbPut (s : State) (e : FdbEntry) : State × Bool :=
  let rest := s.sw.fdb.filter (fun x => !(x.mac == e.mac && x.vid == e.vid))
  let ways := rest.filter (fun x => fdbSetOf x.mac x.vid == fdbSetOf e.mac e.vid)
  if ways.length < 4 then (s.setFdb (rest ++ [e]), true)
  else
    let dyn := ways.filter (fun x => !x.static)
    match dyn[s.freeNat % Nat.max dyn.length 1]? with
    | some v => (s.tookFree.setFdb ((rest.erase v) ++ [e]), true)
    | none => (s, false)

/-- Learn a source address. -/
def State.fdbLearn (s : State) (p mac vid : Nat) : State :=
  if !s.on SW_CTL_LEARN || bitAt mac 40 || (match s.fdbFind mac vid with | some e => e.static | none => false) then s
  else (s.fdbPut ⟨mac, vid, 2 ^ p, false, s.ticks⟩).1

/-- A write of `SW_FDB_CMD`. -/
def State.fdbCmd (s : State) (op : Nat) : State :=
  let mac := s.get SW_FDB_KEY_MAC
  let vid := s.get SW_FDB_KEY_VID
  let del (t : State) : State := t.setFdb (t.sw.fdb.filter (fun x => !(x.mac == mac && x.vid == vid)))
  if op == 0 then s
  else if op == 1 then
    if s.on SW_FDB_DATA_VALID then
      match s.fdbPut ⟨mac, vid, s.get SW_FDB_DATA_PORTS, s.on SW_FDB_DATA_STATIC, s.ticks⟩ with
      | (t, true) => t.res SW_FDB_RES_STATUS .ok
      | (_, false) => s.res SW_FDB_RES_STATUS .full
    else (del s).res SW_FDB_RES_STATUS .ok
  else if op == 2 then (del s).res SW_FDB_RES_STATUS .ok
  else
    let v := match s.fdbFind mac vid with
      | some e => packBits [(0, 19, e.ports), (19, 1, b2n e.static), (20, 1, 1), (32, 16, Nat.min 65535 ((s.ticks - e.seen) / 250000000))]
      | none => 0
    (s.wr SW_FDB_DATA v).res SW_FDB_RES_STATUS .ok

def execFdbWrite (a : Agent) (s : State) : Ans := .next (s.regAccess a true SW_FDB_CMD 4 (fun t => t.fdbCmd 1))
def execFdbDelete (a : Agent) (s : State) : Ans := .next (s.regAccess a true SW_FDB_CMD 4 (fun t => t.fdbCmd 2))
def execFdbRead (a : Agent) (s : State) : Ans := .next (s.regAccess a true SW_FDB_CMD 4 (fun t => t.fdbCmd 3))

/-- A learned entry has not been seen for AGE_S seconds. -/
def execFdbAgeExpire (mac : BitVec 48) (vid : BitVec 12) (s : State) : Ans :=
  .next (match s.fdbFind mac.toNat vid.toNat with
    | some e =>
      if s.opens NET 0 && !e.static && decide (250000000 * s.get SW_CTL_AGE_S ≤ s.ticks - e.seen) then s.setFdb (s.sw.fdb.erase e) else s
    | none => s)

/-! ### Frames -/

def ethDst (b : List Byte) : Nat := beNat (b.take 6)
def ethSrc (b : List Byte) : Nat := beNat ((b.drop 6).take 6)

/-- The frame with a VLAN tag, if it has none. -/
def addTag (b : List Byte) (pcp vid : Nat) : List Byte :=
  b.take 12 ++ beBytes 2 0x8100 ++ beBytes 2 (pcp % 8 * 8192 + vid % 4096) ++ b.drop 12
/-- The frame without its VLAN tag. -/
def dropTag (b : List Byte) : List Byte := b.take 12 ++ b.drop 16
/-- DEI set. -/
def setDei (b : List Byte) : List Byte := b.take 14 ++ beBytes 2 (Nat.lor (ethTci b) 0x1000) ++ b.drop 16

/-- Where an R-tag stands: after the addresses and the VLAN tag. -/
def rtagAt (b : List Byte) : Nat := if ethTagged b then 16 else 12
def hasRtag (b : List Byte) : Bool := ethType b == 0xF1C1
def rtagSeq (b : List Byte) : Nat := beNat ((b.drop (rtagAt b + 4)).take 2)
def addRtag (b : List Byte) (seq : Nat) : List Byte :=
  b.take (rtagAt b) ++ beBytes 2 0xF1C1 ++ beBytes 2 0 ++ beBytes 2 seq ++ b.drop (rtagAt b)
def dropRtag (b : List Byte) : List Byte := if hasRtag b then b.take (rtagAt b) ++ b.drop (rtagAt b + 6) else b

/-- The length of a frame on the wire, from destination MAC to FCS, padded. -/
def wireLen (b : List Byte) : Nat := Nat.max 60 b.length + 4

/-- The length that the frame's length field announces, if it is a length (R224). -/
def fieldLen (b : List Byte) : Option Nat :=
  let t := ethType b
  if t < 1536 then some (Nat.max 64 ((if ethTagged b then 18 else 14) + t + 4)) else none

/-! ### Per-stream filters (R190, R230, R231) -/

/-- A flow meter's buckets, full before its first frame. -/
def State.meterNow (s : State) (m : Nat) : MeterSt :=
  let cb := 2000000 * s.get (SW_FMETER_BURST_CBS m)
  let eb := 2000000 * s.get (SW_FMETER_BURST_EBS m)
  match tabGet (fun _ => none) s.sw.meters m with
  | none => ⟨cb, eb, s.ticks⟩
  | some k =>
    let n := s.ticks - k.last
    let c := k.c + n * s.get (SW_FMETER_RATE_CIR m)
    let spill := if s.on (SW_FMETER_BURST_CF m) then c - cb else 0
    ⟨Nat.min cb c, Nat.min eb (k.e + n * s.get (SW_FMETER_RATE_EIR m) + spill), s.ticks⟩

/-- Meter a frame of `len` bytes: colour 0 green, 1 yellow, 2 red. -/
def State.meter (s : State) (m len : Nat) : State × Nat :=
  let k := s.meterNow m
  let need := 2000000 * len
  let set (t : State) (k : MeterSt) : State := { t with sw := { t.sw with meters := tabSet (fun _ => none) t.sw.meters m (some k) } }
  if s.on (SW_FMETER_BURST_MARK_RED m) then (set s k, 2)
  else if need ≤ k.c then (set s { k with c := k.c - need }, 0)
  else if need ≤ k.e then (set s { k with e := k.e - need }, 1)
  else ((set s k).when (s.on (SW_FMETER_BURST_MARK_RED_EN m)) (fun t => t.put (SW_FMETER_BURST_MARK_RED m) 1), 2)

/-- The filters of entry `e` on a frame of port `p`: the frame that passes and the queue a gate sets, or none. -/
def State.filter (s : State) (p e : Nat) (b : List Byte) : State × Option (List Byte × Option Nat) :=
  let len := b.length + 4
  let g := sttSgate e
  let m := sttFmeter e
  if sttMaxSdu e != 0 && decide (sttMaxSdu e < len) then (s.portCount p 22 1, none)
  else if g != 0 && (!s.on (SW_SGATE_OPEN g) || s.on (SW_SGATE_LATCHED g)) then
    let s := (s.inc (SW_SGATE_DROPS g) 1).when (s.on (SW_SGATE_CLOSE_INV g)) (fun t => t.put (SW_SGATE_LATCHED g) 1)
    (s.portCount p 23 1, none)
  else
    let ipv := if g != 0 && s.on (SW_SGATE_IPV_EN g) then some (s.get (SW_SGATE_IPV g)) else none
    if m == 0 then (s, some (b, ipv))
    else match s.meter m len with
      | (s, 0) => (s, some (b, ipv))
      | (s, 1) =>
        let s := s.portCount p 26 1
        if s.on (SW_FMETER_BURST_DROP_YELLOW m) then (s, none) else (s, some (if ethTagged b then setDei b else b, ipv))
      | (s, _) => (s.portCount p 24 1, none)

/-! ### Replication and elimination (R232) -/

def State.frer (s : State) (f : Nat) : FrerSt := tabGet (fun _ => FrerSt.init) s.sw.frer f
def State.setFrer (s : State) (f : Nat) (v : FrerSt) : State :=
  { s with sw := { s.sw with frer := tabSet (fun _ => FrerSt.init) s.sw.frer f v } }

/-- The function of a stream: VLAN and destination MAC. -/
def State.frerOf (s : State) (vid dst : Nat) : Option Nat :=
  (List.range 64).find? (fun f => s.on (SW_FRER_MATCH_VALID f) && s.get (SW_FRER_MATCH_VID f) == vid && s.get (SW_FRER_MATCH_DMAC f) == dst)

/-- Shift a history by `n` places: each place empty at the far end is a lost number. -/
def histShift (hist size : Nat) : Nat → Nat × Nat
  | 0 => (hist, 0)
  | n + 1 =>
    let (h, lost) := histShift hist size n
    (h * 2 % 2 ^ size, lost + (if bitAt h (size - 1) then 0 else 1))

/-- A sequence number reaches function `f`: true when the frame passes. -/
def State.frerRecover (s : State) (p f seq : Nat) : State × Bool :=
  let k := s.frer f
  let pass (t : State) : State × Bool := (t.inc (SW_FRER_RCV_PASSED f) 1, true)
  let drop (t : State) : State × Bool := ((t.inc (SW_FRER_RCV_DISCARDED f) 1).portCount p 27 1, false)
  match k.recov with
  | none => pass (s.setFrer f { k with recov := some seq, hist := 1 })
  | some r =>
    let delta := toSigned 16 (seq + 65536 - r)
    if s.on (SW_FRER_PORTS_ALG f) then
      if delta == 0 then drop s
      else pass ((s.setFrer f { k with recov := some seq }).when (delta != 1) (fun t => t.inc (SW_FRER_CNT_OUTOFORDER f) 1))
    else
      let size := Nat.min 32 (Nat.max 2 (s.get (SW_FRER_PORTS_HIST f)))
      if (size : Int) ≤ delta || delta ≤ -(size : Int) then ((s.inc (SW_FRER_CNT_ROGUE f) 1).portCount p 28 1, false)
      else if delta ≤ 0 then
        let i := (-delta).toNat
        if bitAt k.hist i then drop s
        else pass ((s.setFrer f { k with hist := putBits k.hist i 1 1 }).inc (SW_FRER_CNT_OUTOFORDER f) 1)
      else
        let (h, lost) := histShift k.hist size delta.toNat
        let s := s.setFrer f { k with recov := some seq, hist := putBits h 0 1 1 }
        pass ((s.inc (SW_FRER_CNT_LOST f) lost).when (delta != 1) (fun t => t.inc (SW_FRER_CNT_OUTOFORDER f) 1))

/-- RESET_MS without a frame: the function takes any number next. -/
def execFrerResetTimeout (f : Fin 64) (s : State) : Ans :=
  .next (if s.opens NET 0 && s.on (SW_FRER_MATCH_VALID f.val) && s.on (SW_FRER_MATCH_RCV f.val) && (s.frer f.val).recov.isSome then
      (s.setFrer f.val { s.frer f.val with recov := none, hist := 0 }).inc (SW_FRER_CNT_RESETS f.val) 1
    else s)

/-! ### Forwarding (R219, R220, R224, R225) -/

/-- A frame on its way to the egress ports. -/
structure Fwd where
  /-- Ingress port; none for an injected frame. -/
  ingress : Option Nat
  bytes : List Byte
  vid : Nat
  pcp : Nat
  queue : Nat
  rmtag : Bool
  fcsErr : Bool
  inj : Option InjRef

/-- The frame as port `e` sends it. -/
def State.egressBytes (s : State) (e : Nat) (f : Fwd) : List Byte :=
  let b := if f.rmtag then dropRtag f.bytes else f.bytes
  if bitAt (s.vlanData f.vid) (32 + e) then (if ethTagged b then dropTag b else b)
  else if !ethTagged b then addTag b f.pcp f.vid
  else if ethTci b % 4096 == 0 then addTag (dropTag b) f.pcp f.vid else b

/-- The greatest frame of a queue (R222). -/
def State.maxSdu (s : State) (p q : Nat) : Nat :=
  if s.get (PORT_Q_MAXSDU p q) == 0 then s.get (PORT_CFG_MAXFRAME p) else s.get (PORT_Q_MAXSDU p q)

/-- A frame may leave port `e` cut-through (R224). -/
def State.cutThrough (s : State) (e : Nat) (f : Fwd) : Bool :=
  match f.ingress with
  | none => false
  | some p =>
    s.on (PORT_CFG_CT e) && decide (s.portRate e ≤ s.portRate p) && (s.queue e f.queue).isEmpty && s.gateOpen e f.queue &&
      (!s.on (PORT_Q_CBS_EN e f.queue) || decide (0 ≤ ((s.creditUp e).credit e f.queue).1)) &&
      s.fits e f.queue ((fieldLen f.bytes).getD (s.get (PORT_CFG_MAXFRAME e))) 0

/-- One egress copy of a frame; true when the port took it. -/
def State.egressCopy (s : State) (e : Nat) (f : Fwd) : State × Bool :=
  let b := s.egressBytes e f
  let len := wireLen b
  let ct := s.cutThrough e f
  let long := decide (s.maxSdu e f.queue < len)
  let q : QFrame := ⟨b, len, f.inj, ct && (f.fcsErr || long), false, 0⟩
  if s.get (PORT_STATUS_TC10 e) == 2 then ((s.portCount e 6 1).raise (PORT_IRQ_STATUS_BUFDROP e) 1, false)
  else if !s.on (PORT_STATUS_LINK e) then (s, false)
  else if !ct && f.fcsErr then (s, false)
  else if !ct && long then (s.portCount e 17 1, false)
  else match s.admits e f.queue q with
    | none => ((s.portCount e 6 1).raise (PORT_IRQ_STATUS_BUFDROP e) 1, false)
    | some sh =>
      let s := s.when ct (fun t => (t.portCount e 18 1).when q.stomp (fun u => u.portCount e 19 1))
      (s.enqueue e f.queue { q with shared := sh }, true)

/-- Copies to the ports of a mask, in port order; the descriptor of an injected frame goes with the first copy taken. -/
def State.egressAll (s : State) (f : Fwd) (mask : Nat) : State × Bool :=
  (List.range 19).foldl (fun (r : State × Bool) e =>
    if bitAt mask e then
      let (t, ok) := r.1.egressCopy e (if r.2 then { f with inj := none } else f)
      (t, r.2 || ok)
    else r) (s, false)

/-- The ports a frame goes to by VLAN and database, and whether it is flooded. -/
def State.fwdPorts (s : State) (ingress : Option Nat) (vid dst : Nat) : Nat × Bool :=
  let members := Nat.land (Nat.land (s.vlanData vid) (2 ^ 19 - 1)) s.enabledPorts
  let members := match ingress with
    | some p => putBits members p 1 0
    | none => members
  if dst / 16 == 0x0180C200000 then (0, false)
  else if bitAt dst 40 then (members, true)
  else match s.fdbFind dst vid with
    | some e => (Nat.land e.ports members, false)
    | none => (members, true)

/-- Switch a frame: replication and elimination, the database, the egress copies. -/
def State.switch (s : State) (f : Fwd) : State × Bool :=
  let dst := ethDst f.bytes
  let fn := s.frerOf f.vid dst
  let cp := f.ingress.getD 19
  let (s, pass) := match fn with
    | some n => if s.on (SW_FRER_MATCH_RCV n) && hasRtag f.bytes then s.frerRecover cp n (rtagSeq f.bytes) else (s, true)
    | none => (s, true)
  if !pass then (s, false)
  else
    let (s, f, split) := match fn with
      | some n =>
        let gen := s.on (SW_FRER_MATCH_GEN n)
        let k := s.frer n
        let (s, b) := if gen && !hasRtag f.bytes then (s.setFrer n { k with gen := (k.gen + 1) % 65536 }, addRtag f.bytes k.gen) else (s, f.bytes)
        (s, { f with bytes := b, rmtag := s.on (SW_FRER_MATCH_RMTAG n) }, if gen then s.get (SW_FRER_PORTS_SPLIT n) else 0)
      | none => (s, f, 0)
    let (mask, flood) := s.fwdPorts f.ingress f.vid dst
    let s := s.when (flood && cp < 19) (fun t => t.portCount cp 7 1)
    s.egressAll f (Nat.land (Nat.lor mask split) s.enabledPorts)

/-- A PTP message in UDP (R96). -/
def ptpInUdp (b : List Byte) : Bool :=
  match ipInfo b with
  | some i =>
    let port := beNat ((i.rest.drop 2).take 2)
    i.proto == 17 && !i.later && (port == 319 || port == 320)
  | none => false

/-- Software's share of a frame: VLAN, queue, stream filters, capture, switching. -/
def State.ethClassify (s : State) (p : Nat) (b : List Byte) (fcsErr ipErr : Bool) (stamp : Stamp) : State :=
  let tagged := ethTagged b
  let tvid := if tagged then ethTci b % 4096 else 0
  let vid := if tvid == 0 then s.get (PORT_VLAN_PVID p) else tvid
  if !bitAt (s.vlanData vid) p then s.portCount p 25 1
  else
    let pcp := if tagged then ethTci b / 8192 else s.get (PORT_VLAN_DEFPCP p)
    let q := bitsOf (s.get (PORT_PCPMAP_MAP p)) (3 * pcp) 3
    let fwd (t : State) (b : List Byte) (q : Nat) : State :=
      let t := if fcsErr then t else t.fdbLearn p (ethSrc b) vid
      (t.switch ⟨some p, b, vid, pcp, q, false, fcsErr, none⟩).1
    let (s, here) := if 17 ≤ p then (s, false) else s.ethForward vid b fcsErr stamp
    if !s.capOn || !here then fwd s b q
    else match s.ethLookup vid b with
      | (s, none) => fwd s b q
      | (s, some (n, i, e)) =>
        match s.filter p e b with
        | (s, none) => s
        | (s, some (b, ipv)) =>
          let s := if sttFwd e == 1 then s else s.ethCapture n i e p b fcsErr ipErr stamp
          if sttFwd e == 0 then s else fwd s b (ipv.getD q)

/-- A frame arrives at a port whose link is up. -/
def State.ethReceive (s : State) (p : Nat) (b : List Byte) (fcsErr ipErr : Bool) (phase : Nat) : State :=
  if !s.portUp p then s
  else
    let len := b.length + 4
    let s := (s.portCount p 0 1).portCount p 1 ((len + 63) / 64)
    let s := s.when fcsErr (fun t => t.portCount p 4 1)
    if s.get (PORT_CFG_MAXFRAME p) < len then s.portCount p 5 1
    else if ethType b == 0x88F7 then
      if fcsErr then s
      else
        let s := s.portCount p 31 1
        let kind := byteN (ethBody b) 0 % 16
        s.when (p < 17 && (kind == 1 || kind == 9)) (fun t => t.inc (PTP_P_CNT_RX_DROP p) 1)
    else if ptpInUdp b && !fcsErr && p < 17 then s.inc (PTP_P_CNT_RX_DROP p) 1
    else s.ethClassify p b fcsErr ipErr (s.stampNow 0 phase)

def execEthFrameReceive (p : EthPort) (bytes : List Byte) (fcsErr ipErr : Bool) (phase : Fin 8) (s : State) : Ans :=
  .next (s.ethReceive p.val bytes fcsErr ipErr phase.val)

/-! ### Injection (R233 to R237) -/

/-- The registers of a descriptor ring: base, EN, LOG2, TAIL, HEAD. Rings 8 and 9 are those of CAN0 and CAN1. -/
def injBase (r : Nat) : Nat := if r < 8 then SW_INJ_BASE r else CAN_TX_BASE (r - 8)
def injEn (r : Nat) : Fld := if r < 8 then SW_INJ_CFG_EN r else CAN_TX_CFG_EN (r - 8)
def injLog (r : Nat) : Fld := if r < 8 then SW_INJ_CFG_LOG2 r else CAN_TX_CFG_LOG2 (r - 8)
def injTail (r : Nat) : Fld := if r < 8 then SW_INJ_TAIL_TAIL r else CAN_TX_TAIL_TAIL (r - 8)
def injHead (r : Nat) : Fld := if r < 8 then SW_INJ_HEAD_HEAD r else CAN_TX_HEAD_HEAD (r - 8)
/-- The ring's block and IOMMU device. -/
def injBlk (r : Nat) : Nat := if r < 8 then 0 else r - 6
def injDev (r : Nat) : Nat := 0x0E0 + r
def State.injWorld (s : State) (r : Nat) : World := s.owner NET (injBlk r)

/-- The ring is stopped. -/
def State.injStopped (s : State) (r : Nat) : Bool :=
  if r < 8 then s.on (SW_INJ_CFG_STOPPED r) else tabGet (fun _ => false) s.sw.canStop (r - 8)
def State.setInjStopped (s : State) (r : Nat) (v : Bool) : State :=
  if r < 8 then s.put (SW_INJ_CFG_STOPPED r) (b2n v)
  else { s with sw := { s.sw with canStop := tabSet (fun _ => false) s.sw.canStop (r - 8) v } }

/-- The IOMMU faults the ring's descriptor or buffer (R234). -/
def State.injStop (s : State) (r : Nat) : State :=
  (s.setInjStopped r true).when (r < 8) (fun t => t.raise SW_IRQ_STATUS_INJSTOP (2 ^ r))

/-- The descriptor as written back (R233). -/
def injBack (d : InjDone) : Nat :=
  let v := putBits (putBits (putBits d.ref.desc 89 1 0) 90 1 (b2n d.unparked)) 112 8 (st8 d.status)
  match d.stamp with
  | none => putBits v 128 128 0
  | some t => putBits v 128 128 (packBits [(0, 64, t.ns), (64, 8, t.dseq), (72, 2, t.qual), (80, 8, t.frac / 256)])

/-- Write a descriptor back. -/
def State.injWrite (s : State) (d : InjDone) : State :=
  let r := d.ref.ring
  if s.injStopped r then s
  else match s.dmaWrite (s.injWorld r) (srcId NET (injBlk r)) (injDev r) 2 d.ref.addr (leBytes 32 (injBack d)) with
    | (s, .ok) => if r < 8 then s.raise SW_IRQ_STATUS_INJDONE (2 ^ r) else s.raise (CAN_IRQ_STATUS_TXDONE (r - 8)) 1
    | (s, _) => s.injStop r

/-- A descriptor that completes as it is taken. -/
def State.injRefuse (s : State) (p : Nat) (ref : InjRef) (st : Status) : State :=
  (s.when (p < 19) (fun t => t.portCount p 21 1)).injWrite ⟨ref, st, false, none⟩

/-- HEAD moves on. -/
def State.injNext (s : State) (r : Nat) : State := s.put (injHead r) ((s.get (injHead r) + 1) % 2 ^ s.get (injLog r))

/-- The next descriptor of a ring that runs, if there is one. -/
def State.injFetch (s : State) (r : Nat) : State × Option InjRef :=
  let size := 2 ^ s.get (injLog r)
  if !s.opens NET 0 || !s.on (injEn r) || s.injStopped r || s.get (injHead r) % size == s.get (injTail r) % size then (s, none)
  else
    let a := s.rd (injBase r) + 32 * (s.get (injHead r) % size)
    match s.dmaRead (s.injWorld r) (srcId NET (injBlk r)) (injDev r) 2 a 32 with
    | (s, .error _) => (s.injStop r, none)
    | (s, .ok bs) => if bitAt (leNat bs) 89 then (s, some ⟨r, a, leNat bs⟩) else (s, none)

/-- The bytes a descriptor points to. -/
def State.injBuf (s : State) (ref : InjRef) : State × Option (List Byte) :=
  match s.dmaRead (s.injWorld ref.ring) (srcId NET (injBlk ref.ring)) (injDev ref.ring) 200 (bitsOf ref.desc 0 64) (bitsOf ref.desc 64 14) with
  | (s, .error _) => (s.injStop ref.ring, none)
  | (s, .ok bs) => (s, some bs)

/-- The judgement of a taken descriptor (R234). -/
def State.injJudge (s : State) (d : Nat) : Status :=
  let len := bitsOf d 64 14
  let p := bitsOf d 80 5
  let hold := bitAt d 88
  let res := bitsOf d 78 2 != 0 || bitsOf d 91 5 != 0 || bitsOf d 120 8 != 0 || bitsOf d 202 6 != 0 || bitsOf d 216 40 != 0
  let mf := s.get (PORT_CFG_MAXFRAME (if p < 19 then p else 0))
  firstThat
    [(hold && decide (64 ≤ (s.sw.parked.filter (fun k => k.port == p)).length), .full),
     (res || !(p < 19 || p == 31) || len < 14 || (p < 19 && decide (mf < len + 4)) || (p == 31 && decide (9212 < len)) || (hold && p == 31), .denied),
     (p < 19 && s.owner NET (16 + p) != s.owner NET 0, .denied),
     (hold && s.sw.parked.any (fun k => k.port == p && k.queue == bitsOf d 85 3 && k.tag == bitsOf d 96 16), .denied),
     (p < 19 && !s.portUp p, .unavailable)] .ok

/-- Take a descriptor of an injection ring. -/
def State.injTake (s : State) (r : Nat) : State :=
  match s.injFetch r with
  | (s, none) => s
  | (s, some ref) =>
    let d := ref.desc
    let p := bitsOf d 80 5
    let q := bitsOf d 85 3
    let st := s.injJudge d
    if st != .ok then (s.injRefuse p ref st).injNext r
    else match s.injBuf ref with
      | (s, none) => s
      | (s, some b) =>
        if p < 19 then
          let f : QFrame := ⟨b, wireLen b, some ref, false, false, 0⟩
          match s.admits p q f with
          | none => s
          | some sh =>
            let f := { f with shared := sh, since := s.ticks }
            if bitAt d 88 then ({ s with sw := { s.sw with parked := s.sw.parked ++ [(⟨p, q, bitsOf d 96 16, f⟩ : Parked)] } }).injNext r
            else if s.maxSdu p q < f.len then ((s.portCount p 17 1).injDone p (some ref) .ok false none).injNext r
            else (s.enqueue p q f).injNext r
        else
          let vid := if ethTagged b && ethTci b % 4096 != 0 then ethTci b % 4096 else 1
          let w : Fwd := ⟨none, b, vid, if ethTagged b then ethTci b / 8192 else 0, q, false, false, some ref⟩
          let mask := (s.fwdPorts none vid (ethDst b)).1
          let room := (List.range 19).all (fun e => !bitAt mask e || !s.portUp e || (s.admits e q ⟨b, wireLen b + 10, none, false, false, 0⟩).isSome)
          if !room then s
          else match s.switch w with
            | (s, true) => s.injNext r
            | (s, false) => (s.injDone 31 (some ref) .ok false none).injNext r

def execInjDescTake (r : Fin 8) (s : State) : Ans := .next (s.injTake r.val)

/-- The oldest completion of ring `r` that waits is written back. -/
def State.injComplete (s : State) (r : Nat) : State :=
  match s.sw.done.find? (fun d => d.ref.ring == r) with
  | none => s
  | some d => if s.opens NET 0 then ({ s with sw := { s.sw with done := s.sw.done.erase d } }).injWrite d else s

def execInjDescComplete (r : Fin 8) (s : State) : Ans := .next (s.injComplete r.val)

/-- EN of a ring is written: 0 to 1 starts it anew (R249). -/
def State.injEnWrite (s : State) (r : Nat) (en : Bool) : State :=
  if en && !s.on (injEn r) then
    (((s.put (injEn r) 1).put (injTail r) 0).put (injHead r) 0).setInjStopped r false
  else s.put (injEn r) (b2n en)

def execInjRingEnable (a : Agent) (r : Fin 8) (s : State) : Ans :=
  .next (s.regAccess a true (SW_INJ_CFG r.val) 4 (fun t => t.injEnWrite r.val true))

/-- A write of `SW_UNPARK` (R235, R237). -/
def State.unpark (s : State) (p q tag : Nat) : State :=
  match s.sw.parked.find? (fun k => k.port == p && k.queue == q && k.tag == tag) with
  | some k =>
    (({ s with sw := { s.sw with parked := s.sw.parked.erase k } }).injDone p k.frame.inj .ok true none).res SW_UNPARK_RES_STATUS .ok
  | none => s.res SW_UNPARK_RES_STATUS (if s.sw.lastLaunch == some (s.ticks, p, q, tag) then .tooLate else .unavailable)

def execSwUnpark (a : Agent) (port : BitVec 5) (queue : BitVec 3) (tag : BitVec 16) (s : State) : Ans :=
  .next (s.regAccess a true SW_UNPARK 4 (fun t => t.unpark port.toNat queue.toNat tag.toNat))

/-- The parked frames of a port complete with a status; a LAUNCH that waits for the port completes with it too (R235). -/
def State.unparkAll (s : State) (p : Nat) (st : Status) : State :=
  let out := s.sw.parked.filter (fun k => k.port == p)
  let rel := s.sw.released.filter (fun r => r.parked.port == p)
  let s := { s with sw := { s.sw with parked := s.sw.parked.filter (fun k => k.port != p), released := s.sw.released.filter (fun r => r.parked.port != p) } }
  let s := State.each rel (fun r t => (t.injDone p r.parked.frame.inj st false none).wheelFinish r.entry st false (t.vt 0)) s
  State.each out (fun k t => t.injDone p k.frame.inj st false none) s

end Sys2Proof.Machine
end

