-- ==== Sys2Proof/Machine/Links.lean ====
section
/-! DEFINITION. Links of the Ethernet ports, TC10 sleep, PoDL classification, the camera back channel and the CAN controllers
(R217, R218, R238 to R246). -/

namespace Sys2Proof.Machine

open Sys2Proof

/-! ### Links and TC10 (R217, R235, R239) -/

/-- The link of a port changes. -/
def State.linkDrop (s : State) (p : Nat) : State :=
  if !s.on (PORT_STATUS_LINK p) then s
  else
    let s := (s.put (PORT_STATUS_LINK p) 0).raise (PORT_IRQ_STATUS_LINK p) 1
    (s.portCount p 29 1).unparkAll p .unavailable

/-- TC10 applies to the port: NET runs and its PHY is powered. -/
def State.tc10On (s : State) (p : Nat) : Bool := s.opens NET (0x10 + p) && s.on (PORT_CFG_EN p)

/-- The port enters SLEEP: its transmitter is silent and it reports LINK 0. -/
def State.tc10Sleep (s : State) (p : Nat) : State := ((s.linkDrop p).put (PORT_STATUS_TC10 p) 2).portCount p 30 1

def State.linkRise (s : State) (p rate : Nat) (master : Bool) : State :=
  if !s.tc10On p || s.on (PORT_STATUS_LINK p) || s.get (PORT_STATUS_TC10 p) == 2 then s
  else
    let aneg := s.on (PORT_CFG_ANEG p)
    let rate := if p < 4 then (if aneg then Nat.min rate 2 else s.get (PORT_CFG_SPEED p)) else 0
    let master := if p < 16 then (if aneg then master else s.on (PORT_CFG_MSREQ p)) else false
    let s := ((s.put (PORT_STATUS_LINK p) 1).put (PORT_STATUS_RATE p) rate).put (PORT_STATUS_MASTER p) (b2n master)
    let s := s.raise (PORT_IRQ_STATUS_LINK p) 1
    if s.get (PORT_STATUS_TC10 p) == 3 then s.put (PORT_STATUS_TC10 p) 0 else s

def execLinkUp (p : PtpPort) (rate : BitVec 2) (master : Bool) (s : State) : Ans := .next (s.linkRise p.val rate.toNat master)
def execLinkDown (p : PtpPort) (s : State) : Ans := .next (if s.fenceOpen NET then s.linkDrop p.val else s)

/-- Software writes SLEEP. -/
def State.tc10Request (s : State) (p : Nat) : State :=
  if s.tc10On p && s.get (PORT_STATUS_TC10 p) == 0 then s.put (PORT_STATUS_TC10 p) 1 else s

/-- Software writes WAKE. -/
def State.tc10Wake (s : State) (p : Nat) : State :=
  if !s.tc10On p then s
  else if s.get (PORT_STATUS_TC10 p) == 1 then s.put (PORT_STATUS_TC10 p) 0
  else if s.get (PORT_STATUS_TC10 p) == 2 then s.put (PORT_STATUS_TC10 p) 3 else s

def execTc10SleepReq (a : Agent) (p : Fin 16) (s : State) : Ans := .next (s.regAccess a true (PORT_TC10 p.val) 4 (fun t => t.tc10Request p.val))
def execTc10WakeCmd (a : Agent) (p : Fin 16) (s : State) : Ans := .next (s.regAccess a true (PORT_TC10 p.val) 4 (fun t => t.tc10Wake p.val))

/-- The partner sends its own sleep request. -/
def execTc10PartnerSleepReq (p : Fin 16) (s : State) : Ans :=
  .next (if !s.tc10On p.val then s
    else if s.get (PORT_STATUS_TC10 p.val) == 0 then (if s.on (PORT_TC10_ACCEPT p.val) then s.tc10Sleep p.val else s)
    else if s.get (PORT_STATUS_TC10 p.val) == 1 then s.tc10Sleep p.val else s)

def execTc10PartnerAck (p : Fin 16) (s : State) : Ans :=
  .next (if s.tc10On p.val && s.get (PORT_STATUS_TC10 p.val) == 1 then s.tc10Sleep p.val else s)

/-- A sleep request fails. -/
def State.tc10Fail (s : State) (p : Nat) : State :=
  if s.tc10On p && s.get (PORT_STATUS_TC10 p) == 1 then (s.put (PORT_STATUS_TC10 p) 0).raise (PORT_IRQ_STATUS_SLEEPFAIL p) 1 else s

def execTc10PartnerReject (p : Fin 16) (s : State) : Ans := .next (s.tc10Fail p.val)
def execTc10RequestTimeout (p : Fin 16) (s : State) : Ans := .next (s.tc10Fail p.val)

/-- A wake-up pulse or request arrives: the port wakes, and so do the ports it forwards to. -/
def State.tc10Pulse (s : State) (p : Nat) : State :=
  if s.tc10On p && s.get (PORT_STATUS_TC10 p) == 2 then
    let s := (s.put (PORT_STATUS_TC10 p) 3).raise (PORT_IRQ_STATUS_WAKE p) 1
    State.each (List.range 16) (fun q t =>
      if bitAt (s.get (PORT_TC10_FWD p)) q && t.tc10On q && t.get (PORT_STATUS_TC10 q) == 2 then t.put (PORT_STATUS_TC10 q) 3 else t) s
  else s

def execTc10WakePulse (p : Fin 16) (s : State) : Ans := .next (s.tc10Pulse p.val)

def execTc10WakeTimeout (p : Fin 16) (s : State) : Ans :=
  .next (if s.tc10On p.val && s.get (PORT_STATUS_TC10 p.val) == 3 then
      ((s.put (PORT_STATUS_TC10 p.val) 2).raise (PORT_IRQ_STATUS_WAKEFAIL p.val) 1).portCount p.val 30 1
    else s)

/-! ### PoDL (R238) -/

/-- Classification: the class presented is the one in PODL_CFG now. -/
def execPodlClassify (s : State) : Ans :=
  .next { s with power := { s.power with sup := { s.power.sup with podlClass := s.get PODL_CFG_CLASS, classified := true } } }

/-! ### Camera links and the back channel (R240 to R242) -/

def State.bc (s : State) (n : Nat) : List BcCmd := tabGet (fun _ => []) s.sw.bc n
def State.setBc (s : State) (n : Nat) (l : List BcCmd) : State :=
  let s := { s with sw := { s.sw with bc := tabSet (fun _ => []) s.sw.bc n l } }
  (s.put (CAM_BC_CFG_DEPTH n) l.length).put (CAM_BC_RES_BUSY n) (b2n (l.any (fun c => c.entry.isNone)))

/-- A command ends: a BCW completes its entry, a software command reports. -/
def State.bcEnd (s : State) (n : Nat) (c : BcCmd) (st : Status) (rdata : Nat) : State :=
  match c.entry with
  | some i => s.wheelFinish i st false (s.vt 0)
  | none =>
    let s := s.res (CAM_BC_RES_STATUS n) st
    if c.read && st == .ok then s.put (CAM_BC_RES_RDATA n) (bitsOf rdata 0 (8 * c.nbytes)) else s

/-- The fields of a software command are consistent (R242). -/
def bcOk (v : Nat) : Bool :=
  let i2c := bitAt v 56
  let n := bitsOf v 58 3
  bitsOf v 61 2 == 0 && (i2c || !bitAt v 57) && (if i2c then 1 ≤ n && n ≤ 4 else n == 0 && bitsOf v 16 40 == 0)

/-- A write of `CAM_BC_CMD`. -/
def State.bcCmd (s : State) (n v : Nat) : State :=
  let c : BcCmd := ⟨bitAt v 56, bitAt v 57, bitsOf v 58 3, bitsOf v 0 56, none⟩
  if !bitAt v 63 then s
  else if !bcOk v then s.res (CAM_BC_RES_STATUS n) .denied
  else if 16 ≤ (s.bc n).length then s.res (CAM_BC_RES_STATUS n) .full
  else if !s.on (CAM_LINK_UP n) || s.hovBusy SNS (0x10 + n) then s.bcEnd n c .unavailable 0
  else s.setBc n (s.bc n ++ [c])

/-- A BCW fires (R241, R242): false when it completes UNAVAILABLE at once. -/
def State.bcWheel (s : State) (n i sub arg : Nat) : State × Bool :=
  if 16 ≤ (s.bc n).length || !s.on (CAM_LINK_UP n) || s.hovBusy SNS (0x10 + n) || !s.opens SNS (0x10 + n) then (s, false)
  else (s.setBc n (s.bc n ++ [(⟨bitAt sub 0, false, bitsOf sub 1 3, bitsOf arg 0 56, some i⟩ : BcCmd)]), true)

def execBcGpioCmd (a : Agent) (n : Fin 8) (v : Word) (s : State) : Ans :=
  .next (if !bitAt v.toNat 63 || bitAt v.toNat 56 || bitAt v.toNat 57 then s else s.regAccess a true (CAM_BC_CMD n.val) 8 (fun t => (t.unstaged (CAM_BC_CMD n.val)).bcCmd n.val v.toNat))
def execBcI2cWriteCmd (a : Agent) (n : Fin 8) (v : Word) (s : State) : Ans :=
  .next (if !bitAt v.toNat 63 || !bitAt v.toNat 56 || bitAt v.toNat 57 then s else s.regAccess a true (CAM_BC_CMD n.val) 8 (fun t => (t.unstaged (CAM_BC_CMD n.val)).bcCmd n.val v.toNat))
def execBcI2cReadCmd (a : Agent) (n : Fin 8) (v : Word) (s : State) : Ans :=
  .next (if !bitAt v.toNat 63 || !bitAt v.toNat 57 then s else s.regAccess a true (CAM_BC_CMD n.val) 8 (fun t => (t.unstaged (CAM_BC_CMD n.val)).bcCmd n.val v.toNat))

/-- The levels of the remote lines of a camera after a GPIO command. -/
def State.gpioSet (s : State) (n arg : Nat) : State :=
  let mask := bitsOf arg 0 8
  let old := tabGet (fun _ => 0) s.sw.gpio n
  { s with sw := { s.sw with gpio := tabSet (fun _ => 0) s.sw.gpio n (Nat.lor (Nat.land old (255 - mask)) (Nat.land (bitsOf arg 8 8) mask)) } }

/-- The command being served ends. -/
def State.bcServe (s : State) (n : Nat) (st : Status) (rdata : Nat) : State :=
  match s.bc n with
  | [] => s
  | c :: r =>
    let s := s.when (st == .ok && !c.i2c) (fun t => t.gpioSet n c.arg)
    (s.bcEnd n c st rdata).setBc n r

def execBcAck (n : Fin 8) (nack : Bool) (rdata : BitVec 32) (s : State) : Ans :=
  .next (if s.opens SNS (0x10 + n.val) then s.bcServe n.val (if nack then .unavailable else .ok) rdata.toNat else s)
def execBcTimeout (n : Fin 8) (s : State) : Ans := .next (if s.opens SNS (0x10 + n.val) then s.bcServe n.val .unavailable 0 else s)

def execCamLinkUp (n : Fin 8) (gear : BitVec 3) (s : State) : Ans :=
  .next (if s.fenceOpen SNS && decide (1 ≤ gear.toNat) && decide (gear.toNat ≤ 5) then
      (s.put (CAM_LINK_UP n.val) 1).put (CAM_LINK_GEAR n.val) gear.toNat
    else s)

/-- A camera link drops: every command of the port completes UNAVAILABLE. -/
def State.camDrop (s : State) (n : Nat) : State :=
  let l := s.bc n
  let s := (s.wr (CAM_LINK n) 0).setBc n []
  State.each l (fun c t => t.bcEnd n c .unavailable 0) s

def execCamLinkDown (n : Fin 8) (s : State) : Ans := .next (if s.on (CAM_LINK_UP n.val) then s.camDrop n.val else s)

/-! ### CAN (R243 to R245) -/

/-- The controller is on the bus. -/
def State.canOn (s : State) (c : Nat) : Bool := s.opens NET (2 + c) && s.on (CAN_CFG_EN c) && s.get (CAN_STATUS_STATE c) != 2

def execCanFrameReceive (c : Fin 2) (f : CanFrame) (s : State) : Ans :=
  .next (if s.canOn c.val && (f.fmt.val != 2 || s.on (CAN_CFG_XL_EN c.val)) then s.canUnit c.val f (s.stampNow 0 0) else s)

/-- Take a transmit descriptor: one frame at a time. -/
def State.canTake (s : State) (c : Nat) : State :=
  if !s.canOn c || s.on (CAN_CFG_LISTEN c) || (tabGet (fun _ => none) s.sw.canTx c).isSome then s
  else match s.injFetch (8 + c) with
    | (s, none) => s
    | (s, some ref) =>
      if bitsOf ref.desc 80 5 != 0 || bitsOf ref.desc 85 3 != 0 || bitAt ref.desc 88 || bitsOf ref.desc 96 16 != 0 then
        (s.injRefuse 31 ref .denied).injNext (8 + c)
      else match s.injBuf ref with
        | (s, none) => s
        | (s, some b) => ({ s with sw := { s.sw with canTx := tabSet (fun _ => none) s.sw.canTx c (some ⟨ref, b⟩) } }).injNext (8 + c)

def execCanTxDescTake (c : Fin 2) (s : State) : Ans := .next (s.canTake c.val)

/-- The frame of a controller ends. -/
def State.canEnd (s : State) (c : Nat) (st : Status) (stamp : Option Stamp) : State :=
  match tabGet (fun _ => none) s.sw.canTx c with
  | none => s
  | some t => ({ s with sw := { s.sw with canTx := tabSet (fun _ => none) s.sw.canTx c none } }).injWrite ⟨t.ref, st, false, stamp⟩

/-- The start-of-frame bit of the successful transmission fell `sofAgo` ns ago. -/
def execCanTxComplete (c : Fin 2) (sofAgo : Nat) (s : State) : Ans :=
  .next (if s.canOn c.val then s.canEnd c.val .ok (some (s.stampAt 0 ((s.tdom 0).acc - sofAgo * s.get (DISC_RATE_RATE 0) / 4))) else s)

def execCanBusOff (c : Fin 2) (s : State) : Ans :=
  .next (if s.canOn c.val then
      ((s.put (CAN_STATUS_STATE c.val) 2).raise (CAN_IRQ_STATUS_BUSOFF c.val) 1).canEnd c.val .unavailable none
    else s)

/-- Recovery starts by itself only when AUTO_RECOVER is 1. -/
def execCanBusoffRecovery (c : Fin 2) (s : State) : Ans :=
  .next (if s.opens NET (2 + c.val) && s.get (CAN_STATUS_STATE c.val) == 2 && s.on (CAN_CFG_AUTO_RECOVER c.val) then s.wr (CAN_STATUS c.val) 0 else s)

def execCanBusError (c : Fin 2) (tec rec : BitVec 8) (s : State) : Ans :=
  .next (if s.canOn c.val then
      let passive := decide (128 ≤ tec.toNat) || decide (128 ≤ rec.toNat)
      let was := s.get (CAN_STATUS_STATE c.val) == 1
      let s := ((s.put (CAN_STATUS_TEC c.val) tec.toNat).put (CAN_STATUS_REC c.val) rec.toNat).put (CAN_STATUS_STATE c.val) (b2n passive)
      s.when (passive && !was) (fun t => t.raise (CAN_IRQ_STATUS_PASSIVE c.val) 1)
    else s)

end Sys2Proof.Machine
end

