-- ==== Sys2Proof/Machine/Fire.lean ====
section
/-! DEFINITION. What fired entries of the wheel do: issue of actions, the horizon, the calendar, jumps (R121, R128, R129, R145 to R152). -/

namespace Sys2Proof.Machine

open Sys2Proof

/-- Issue the action of a fired entry. PIN and IRQ complete at once; PULSE at its trailing edge, LAUNCH at its first bit, BCW
at its acknowledgement, STORE and SAMPLE where they land. -/
def State.issue (s : State) (i : Nat) : State :=
  let e := s.went i
  let now := s.vt 0
  if e.action == 1 then (s.pinEdge e.sel (bitAt e.arg0 0)).wheelFinish i .ok false now
  else if e.action == 2 then
    let (s, done) := s.pinPulse e.sel i now
    if done then s.wheelFinish i .ok false now else s
  else if e.action == 4 then
    let (s, found) := s.launch e.sel e.sub (e.arg0 % 65536) i
    if found then s else s.wheelFinish i .unavailable false now
  else if e.action == 5 then
    let (s, queued) := s.bcWheel e.sel i e.sub e.arg0
    if queued then s else s.wheelFinish i .unavailable false now
  else if e.action == 8 then
    let fenced := !s.fenceOpen (hartDom e.sel)
    let (s, sent) := s.msiTo e.world (srcId TKD 2) e.sel (bitsOf e.sub 0 3) (bitsOf e.sub 3 11)
    s.wheelFinish i (if sent then .ok else if fenced then .fenced else .denied) false now
  else s

/-- Fire an entry and issue its action. -/
def State.fireIssue (s : State) (i : Nat) (coarse jumped : Bool) : State :=
  let (s, go) := s.wheelFire i coarse jumped
  if go then s.issue i else s

/-- Arm an entry, whose action is issued where its instant has passed: state, status, handle or 0. -/
def State.armIssue (s : State) (q : ArmReq) : State × Status × Nat :=
  let (s, st, h, go) := s.arm q
  (if go then s.issue (h % 65536) else s, st, h)

/-- An IMMINENT entry's intended instant is reached; those of one tick fire in order of TIME, then acceptance. -/
def execWheelFireImminent (idx : WIdx) (s : State) : Ans :=
  .next (if s.clocked TKD 2 && (s.dueOrder (fun e => e.state == .imminent)).head? == some idx.val then s.fireIssue idx.val false false else s)

/-- The calendar issues the ARMED entries whose instant has come. -/
def execCalendarSweep (s : State) : Ans :=
  .next (if s.clocked TKD 2 then State.each (s.dueOrder (fun e => e.state == .armed)) (fun i t => t.fireIssue i true false) s else s)

/-- The jump tick of a domain (R78, R88, R149 to R151, R228). -/
def State.jumpTick (s : State) (d : Nat) : State :=
  let v := s.tdom d
  match v.jumps with
  | [] => s
  | j :: r =>
    if v.delivering then s
    else
      let old := s.vt d
      let (s, done) := (s.setTdom d { v with jumps := r }).jumpApply d j
      if !done then s.put (DISC_STATUS_BUSY d) (b2n (!r.isEmpty))
      else
        let s := s.gclJump d
        let s := if d != 0 then s
          else if old ≤ s.vt 0 then State.each (s.dueOrder (fun _ => true)) (fun i t => t.fireIssue i false true) s
          else s.horizonRelease
        (s.setTdom d { s.tdom d with delivering := true }).put (DISC_STATUS_BUSY d) 1

def execJumpTakeEffect (d : Dom) (s : State) : Ans := .next (if s.vtOn then s.jumpTick d.val else s)

end Sys2Proof.Machine
end

