-- ==== Sys2Proof/Machine/MemCmds.lean ====
section
/-! DEFINITION. The commands of the memory domain: the slot-table arbiter, the controller, wedging, the patrol scrub, the sherd
log, crazing and remapping (R383 to R405). -/

namespace Sys2Proof.Machine

open Sys2Proof

/-! ### The arbiter (R387 to R392) -/

/-- The domain of a requester port (R387). -/
def portDom (p : Nat) : Nat :=
  if p < 2 then APC else if p == 2 || p == 10 then TKD else if p == 3 then SEC else if p == 4 then SNS else if p == 5 then NET
  else if p == 8 then AON else HST

/-- A port is present while its domain is powered and out of reset. -/
def State.portPresent (s : State) (p : Nat) : Bool := s.outOfReset (portDom p)

/-- `ARB_STATUS.PRESENT`. -/
def State.portsPresent (s : State) : Nat := ((List.range 11).map (fun p => b2n (s.portPresent p) * 2 ^ p)).foldl (· + ·) 0

/-- The owner of a slot in the active table. -/
def State.slotOwner (s : State) (n : Nat) : Nat := s.get ⟨ARB_ACTIVE (n / 8), 8 * (n % 8), 4⟩

/-- The owner of the current slot. -/
def State.curOwner (s : State) : Nat := s.slotOwner (s.get ARB_STATUS_SLOT)

/-- A port is requesting. -/
def State.requesting (s : State) (p : Nat) : Bool := p < 11 && bitAt s.mem.requests p && s.portPresent p

/-- The active weight of a port; 0 counts as 1 (R389). -/
def State.arbWeight (s : State) (p : Nat) : Nat := Nat.max 1 (s.get ⟨ARB_ACT_WEIGHT, 4 * p, 4⟩)

/-- Set the grant, as `ARB_STATUS` shows it. -/
def State.setGrant (s : State) (g : Option Grant) : State :=
  let s := { s with mem := { s.mem with grant := g } }
  match g with
  | none => (s.put ARB_STATUS_GRANT 15).put ARB_STATUS_BG 0
  | some k => (s.put ARB_STATUS_GRANT k.port).put ARB_STATUS_BG (b2n k.bg)

/-- Give the rest of the slot to the background: weighted round robin by credits, each requesting port gaining its weight and
the one served giving up the total. -/
def State.background (s : State) : State :=
  let l := (List.range 11).filter s.requesting
  let credit (p : Nat) : Int := tabGet (fun _ => 0) s.mem.credit p + s.arbWeight p
  match l.foldl (fun (b : Option Nat) p => match b with
      | none => some p
      | some q => if credit q < credit p then some p else b) none with
  | none => s.setGrant none
  | some w =>
    let total : Nat := (l.map s.arbWeight).foldl (· + ·) 0
    let t := l.foldl (fun t p => tabSet (fun _ => (0 : Int)) t p (if p == w then credit p - total else credit p)) s.mem.credit
    ({ s with mem := { s.mem with credit := t } }).setGrant (some ⟨w, true⟩)

/-- A grant has ended, or a slot begins without one: the owner of the slot if it requests, else the background. -/
def State.arbGrant (s : State) : State :=
  let o := s.curOwner
  if s.requesting o then s.setGrant (some ⟨o, false⟩) else s.background

/-- The swap takes effect (R391). -/
def State.arbCopy (s : State) : State :=
  let s := s.wr ARB_ACT_WEIGHT (s.rd ARB_SH_WEIGHT)
  (State.each (List.range 128) (fun j t => t.wr (ARB_ACTIVE j) (t.rd (ARB_SHADOW j))) s).put ARB_STATUS_SWAPPENDING 0

/-- A slot begins. -/
def State.slotBoundary (s : State) : State :=
  let n := (s.get ARB_STATUS_SLOT + 1) % 1024
  let s := s.put ARB_STATUS_SLOT n
  let s := s.when (n == 0 && s.on ARB_STATUS_SWAPPENDING && !s.mem.swapFresh) State.arbCopy
  let s := { s with mem := { s.mem with swapFresh := false } }
  match s.mem.grant with
  | some ⟨p, false⟩ => s.when (s.requesting s.curOwner && s.curOwner != p) (fun t => t.inc (ARB_LOST_COUNT t.curOwner) 1)
  | _ => s.arbGrant

def execArbSlotBoundary (s : State) : Ans := .next (if s.runs MEM 1 then s.slotBoundary else s)

def execArbRequest (p : ArbPort) (s : State) : Ans :=
  .next (if !s.runs MEM 1 || !s.portPresent p.val || s.requesting p.val then s
    else
      let s := { s with mem := { s.mem with requests := putBits s.mem.requests p.val 1 1 } }
      match s.mem.grant with
      | none => s.arbGrant
      | some ⟨_, true⟩ => if s.curOwner == p.val then s.setGrant (some ⟨p.val, false⟩) else s
      | _ => s)

/-- A port drops its request, and a grant it holds ends. -/
def State.arbDrop (s : State) (p : Nat) : State :=
  let s := { s with mem := { s.mem with requests := putBits s.mem.requests p 1 0 } }
  match s.mem.grant with
  | some g => if g.port == p then s.arbGrant else s
  | none => s

def execArbRequestDrop (p : ArbPort) (s : State) : Ans := .next (if s.runs MEM 1 then s.arbDrop p.val else s)

/-- Domain `d` stops being present: its ports' requests and grants are withdrawn (R392). -/
def State.arbWithdraw (s : State) (d : Nat) : State :=
  State.each ((List.range 11).filter (fun p => portDom p == d)) (fun p t =>
    let t := { t with mem := { t.mem with requests := putBits t.mem.requests p 1 0 } }
    match t.mem.grant with
    | some g => if g.port == p then t.background else t
    | none => t) s

/-- A write of `ARB_CTL.SWAP`. -/
def State.arbSwap (s : State) : State :=
  if s.on ARB_STATUS_SWAPPENDING then s
  else ({ s with mem := { s.mem with swapFresh := true } }).put ARB_STATUS_SWAPPENDING 1

def execArbSwap (a : Agent) (s : State) : Ans := .next (s.regAccess a true ARB_CTL 4 State.arbSwap)

/-! ### The controller -/

/-- A request of a port as the controller sees it. -/
def portReq (p : Nat) : MemReq := ⟨.secure, 0xFFFF, p⟩

/-- The controller serves a line: MEM runs and the line lies in DRAM. -/
def State.dramLine (s : State) (line : Nat) : Bool := s.outOfReset MEM && lineCoherent line

def execDramRead (p : ArbPort) (line : LineNo) (upset : Upset) (s : State) : Ans :=
  .next (if s.dramLine line.toNat then ((s.upset line.toNat upset).dramRead (portReq p.val) line.toNat false).1 else s)

def execDramWrite (p : ArbPort) (line : LineNo) (mask : BitVec 64) (data : BitVec 512) (upset : Upset) (s : State) : Ans :=
  .next (if s.dramLine line.toNat then (s.upset line.toNat upset).dramWrite (portReq p.val) line.toNat mask.toNat data.toNat false else s)

/-- The patrol scrub reads its next line and moves on (R386). -/
def State.scrub (s : State) (u : Upset) : State :=
  let page := s.get DMC_SCRUB_POS
  let line := dramBase / 64 + 64 * page + s.mem.scrubLine
  let s := ((s.upset line u).dramRead ⟨.secure, 0xFFFF, 0xF⟩ line true).1
  if s.mem.scrubLine == 63 then
    ({ s with mem := { s.mem with scrubLine := 0 } }).put DMC_SCRUB_POS ((page + 1) % ((dramEnd - dramBase) / 4096))
  else { s with mem := { s.mem with scrubLine := s.mem.scrubLine + 1 } }

def execScrubRead (upset : Upset) (s : State) : Ans :=
  .next (if s.runs MEM 0 && s.get DMC_SCRUB_HOURS != 0 then s.scrub upset else s)

/-! ### Wedging (R384, R385) -/

/-- The range is writable by a world: its side of the watermark, open, and no saggar range that refuses it. -/
def State.wedgeAllowed (s : State) (w : World) (lo hi : Nat) : Bool :=
  (w == .secure || decide (s.watermark ≤ lo)) &&
    !(s.on WMK_STATUS_CLOSED && decide (dramBase + 0x4000000 * s.get WMK_STATUS_TARGET < hi) && decide (lo < s.watermark)) &&
    (List.range 256).all (fun i =>
      let b := 4096 * s.get (SAG_RNG_PAGE_BASE i)
      let e := b + 4096 * s.get (SAG_RNG_PAGE_PAGES i)
      !(s.on (SAG_RNG_ATTR_VALID i) && decide (b < hi) && decide (lo < e)) || s.rangeOk w none .write i)

/-- A wedge begins: cached copies are dropped, dirty data discarded. -/
def State.wedgeStart (s : State) (lo pages : Nat) (test forWmk : Bool) : State :=
  let s := State.each (s.cachedLines lo (lo + 4096 * pages)) (fun line t => t.dropCopies line) s
  let s := { s with mem := { s.mem with wedge := some ⟨lo, pages, test, forWmk, []⟩ } }
  (s.put WDG_RES_BUSY 1).put WDG_PROG_FRONT (lo / 4096)

/-- The lines that fail the test are logged and counted. -/
def State.wedgeFails (s : State) (lines : List Nat) : State :=
  let s := State.each lines (fun line t =>
    (t.tookFree).sherdScrub kWedgeFail .ok (srcId MEM 2) (lineAddr line) (t.freeNat % 2 ^ 64)) s
  let s := s.put WDG_RES_FAILS (Nat.min (2 ^ 32 - 1) lines.length)
  s.put WDG_FIRSTFAIL_LINE (lines.headD 0)

/-- A write of `WDG_CMD`. -/
def State.wedgeCmd (s : State) (w : World) (op : Nat) (fails : List Nat) : State :=
  let lo := 4096 * s.get WDG_BASE_BASE
  let n := s.get WDG_LEN_PAGES
  let hi := lo + 4096 * n
  let st := firstThat [(s.on WDG_RES_BUSY, .unavailable), (op == 3 || n == 0 || decide (lo < dramBase) || decide (dramEnd < hi), .denied),
    (!s.wedgeAllowed w lo hi, .denied)] .ok
  if op == 0 then s
  else
    let s := s.res WDG_RES_STATUS st
    if st != .ok then s
    else
      let s := s.wedgeStart lo n (op == 2) false
      if op == 2 then s.wedgeFails (insSort (fun a b => decide (a < b)) (fails.filter (fun l => within (lineAddr l) lo hi))) else s

def execWedgeCmd (a : Agent) (s : State) : Ans := .next (s.regAccess a true WDG_CMD 4 (fun t => t.wedgeCmd (t.agentWorld a) 1 []))
def execWedgeTestCmd (a : Agent) (fails : List LineNo) (s : State) : Ans :=
  .next (s.regAccess a true WDG_CMD 4 (fun t => t.wedgeCmd (t.agentWorld a) 2 (fails.map (fun l => l.toNat))))
def execWedgeReservedOp (a : Agent) (s : State) : Ans := .next (s.regAccess a true WDG_CMD 4 (fun t => t.wedgeCmd (t.agentWorld a) 3 []))

/-- The fill passes the rest of the range; lines an access has reached were filled before. -/
def State.wedgeFill (s : State) (j : WedgeJob) : State :=
  let lo := j.base
  let hi := j.base + 4096 * j.pages
  let keep (line : Nat) : Bool := !within (lineAddr line) lo hi || j.filled.contains line
  let m := s.mem
  let s := { s with mem := { m with bytes := m.bytes.filter (fun e => keep (e.1 / 64)), synd := m.synd.filter (fun e => keep e.1), wedge := none } }
  (s.put WDG_RES_BUSY 0).put WDG_PROG_FRONT (hi / 4096)

/-! ### The sherd log (R398) and the crazing table (R399) -/

/-- Remove the head entry. -/
def State.sherdPop (s : State) : State :=
  let l := s.mem.sherd.drop 1
  ({ s with mem := { s.mem with sherd := l } }).put SHD_STAT_COUNT l.length

def execSherdPop (a : Agent) (s : State) : Ans := .next (s.regAccess a true SHD_POP 4 State.sherdPop)

/-- A read of `SHD_HEAD0`: the snapshot of the oldest entry and its first word. -/
def State.sherdHead (s : State) : State × Nat :=
  let v := match s.mem.sherd with
    | e :: _ => s.sherdView e
    | [] => 0
  ({ s with mem := { s.mem with sherdLatch := v } }, v % 2 ^ 64)

def execSherdHeadRead (a : Agent) (half : Half) (s : State) : Ans := .next (s.readCmd a (SHD_HEAD 0) half State.sherdHead)

/-- Every count is halved. -/
def execCrazingDecay (s : State) : Ans :=
  .next (if s.runs MEM 3 && s.get SHD_CRZ_CFG_DECAY_H != 0 then
      State.each crazeIdx (fun i t => match t.crazeAt i with
        | some e => t.setCraze i (some { e with count := e.count / 2 })
        | none => t) s
    else s)

def execCrazingClear (a : Agent) (s : State) : Ans :=
  .next (s.regAccess a true SHD_CRZ_CNT 4 (fun t => t.setCraze (t.get SHD_CRZ_IDX_INDEX) none))

/-- `SHD_CRZ_ENT`, `SHD_CRZ_CNT` and `SHD_CRZ_LAST` of the entry selected. -/
def State.crazeView (s : State) : Nat × Nat × Nat :=
  match s.crazeAt (s.get SHD_CRZ_IDX_INDEX) with
  | some e => (packBits [(0, 16, e.source), (16, 3, e.ukind), (19, 1, 1), (20, 1, b2n e.advise), (32, 32, e.unit)], e.count, e.lastVt)
  | none => (0, 0, 0)

/-! ### Remapping (R401) -/

/-- A write of `DMC_REMAP_CMD` with GO. -/
def State.remapCmd (s : State) (w : World) (page : Nat) : State :=
  let used := s.get DMC_REMAP_RES_USED
  let st := firstThat [(s.on DMC_REMAP_RES_BUSY, .unavailable), (!within (4096 * page) dramBase dramEnd, .denied),
    (w == .normal && decide (4096 * page < s.watermark), .denied), (decide (1024 ≤ used), .full)] .ok
  let s := s.res DMC_REMAP_RES_STATUS st
  if st != .ok then s
  else
    let s := ((s.put DMC_REMAP_RES_BUSY 1).put DMC_REMAP_RES_SPARE used).put DMC_REMAP_RES_USED (used + 1)
    { s with mem := { s.mem with remap := some page } }

def execPageRemap (a : Agent) (page : BitVec 32) (s : State) : Ans :=
  .next (s.regAccess a true DMC_REMAP_CMD 8 (fun t => (t.unstaged DMC_REMAP_CMD).remapCmd (t.agentWorld a) page.toNat))

/-- The copy of a page ends: its lines have been read and stored with good check bits or the poison encoding, and the page is
redirected. -/
def State.remapEnd (s : State) (page : Nat) : State :=
  let s := State.each (List.range 64) (fun i t => (t.dramRead ⟨.secure, 0xFFFF, 0xF⟩ (page * 64 + i) false).1) s
  let s := State.each (List.range (s.get DMC_REMAP_RES_USED)) (fun i t =>
    if t.on (DMC_REMAP_VALID i) && t.get (DMC_REMAP_PAGE i) == page then t.put (DMC_REMAP_VALID i) 0 else t) s
  let k := s.get DMC_REMAP_RES_SPARE
  let s := (s.put (DMC_REMAP_PAGE k) page).put (DMC_REMAP_VALID k) 1
  ({ s with mem := { s.mem with remap := none } }).put DMC_REMAP_RES_BUSY 0

def execRemapDone (s : State) : Ans :=
  .next (match s.mem.remap with
    | some page => if s.runs MEM 0 then s.remapEnd page else s
    | none => s)

end Sys2Proof.Machine
end

