-- ==== Sys2Proof/Machine/LedgerCmds.lean ====
section
/-! DEFINITION. The commands of the ledger engine: software records, closing, signing, the NVMe store, resume, replay (R253 to R271). -/

namespace Sys2Proof.Machine

open Sys2Proof

/-- The engine's block. -/
def ldgSrc : Nat := srcId HST 2

/-! ### Records -/

def execLedgerRecordAccept (r : Rec) (s : State) : Ans := .next (s.ldgAccept r)

/-- A write of `LDG_W_CMD` with GO on the page of world `w` (R258). -/
def State.swRecord (s : State) (w : World) (typ len sub : Nat) : State :=
  let n := worldNum w
  if s.on (LDG_W_RES_BUSY n) then s
  else if typ < 0x80 || 48 < len then s.res (LDG_W_RES_STATUS n) .denied
  else
    let s := if s.ldg.closed.isNone && !s.ldg.gasp then s.ldgGap else s
    let full := decide (ldgFree s.ldg ≤ 64)
    let data := packBits ((List.range 6).map (fun i => (64 * i, 64, s.rd (LDG_W_DATA n i)))) % 2 ^ (8 * len)
    let r := { s.recNow 0 typ len ldgSrc sub data with nsw := w == .normal }
    (s.ldgAccept r).res (LDG_W_RES_STATUS n) (if full then .full else .ok)

def execLedgerSwRecord (a : Agent) (w : World) (typ : BitVec 8) (len : BitVec 6) (sub : BitVec 16) (s : State) : Ans :=
  .next (s.regAccess a true (LDG_W_CMD (worldNum w)) 8 (fun t => (t.unstaged (LDG_W_CMD (worldNum w))).swRecord w typ.toNat len.toNat sub.toNat))

/-! ### Closing (R260, R266) -/

/-- Close the open block if it holds a record. -/
def State.ldgFlush (s : State) : State :=
  match s.ldg.opened with
  | some b => if b.recs.isEmpty then s else s.ldgClose false
  | none => s

def execBlockCloseTimer (s : State) : Ans :=
  .next (if s.runs HST 2 && s.get LDG_CTL_CLOSE_MS != 0 then s.ldgFlush else s)

def execLedgerFlush (a : Agent) (s : State) : Ans := .next (s.regAccess a true LDG_CTL 4 State.ldgFlush)

/-- CLOSE reasons (R254). -/
def closeSub : CloseFor → Nat
  | .flush => 1 | .powerDown => 2 | .handover => 3 | .reset => 4

/-- An orderly close is asked for: the power-down, hand-over or reset waits while it lasts. -/
def State.closeAsk (s : State) (reason : CloseFor) : State :=
  if s.runs HST 2 && s.ldg.closed.isNone && s.ldg.closing.isNone && !s.ldg.gasp then s.setLdg { s.ldg with closing := some reason } else s

/-- The orderly close: the CLOSE record, the open block closed, later records refused. -/
def State.orderlyClose (s : State) : State :=
  match s.ldg.closing with
  | none => s
  | some r =>
    if s.ldg.closed.isSome then s
    else
      let t := s.vt 0
      let s := (s.ldgAccept (s.recNow 0 0x02 0 ldgSrc (closeSub r) 0)).ldgFlush
      s.setLdg { s.ldg with closed := some (t, 0) }

def execLedgerOrderlyClose (reason : CloseFor) (s : State) : Ans :=
  .next (if s.ldg.closing == some reason then s.orderlyClose else s)

/-- The close is complete, or 5 ms have passed: the control copy follows once every block is written, and what waited goes on. -/
def State.closeDone (s : State) : State :=
  if s.ldg.closing.isSome && s.ldg.closed.isSome then
    let s := s.when (s.get LDG_STATUS_STATE == 2 && s.ldg.staged.isEmpty && s.pcieLink) State.ldgCtlWrite
    s.setLdg { s.ldg with closing := none }
  else s

def execOrderlyCloseDone (s : State) : Ans := .next s.closeDone

/-- The engine runs again after a CLOSE: the GAP record (R266). -/
def State.ldgReopen (s : State) : State :=
  match s.ldg.closed with
  | none => s.setLdg { s.ldg with closing := none }
  | some (t, n) => (s.setLdg { s.ldg with closed := none, closing := none }).ldgAccept (s.gapRec 2 t (s.vt 0) n)

/-! ### Signing (R255, R261, R262) -/

/-- Signing is unavailable: the request is over and later group ends ask for nothing. -/
def State.signFail (s : State) : State :=
  let s := s.setLdg { s.ldg with signReq := none, signDue := none }
  (s.put LDG_STATUS_SIGUNAVAIL 1).raise LDG_IRQ_STATUS_SIGFAIL 1

/-- A returned signature (FIPS 186-5 order) is appended as a pair; a closed engine refuses it. -/
def State.signAppend (s : State) (seq : Nat) (catchUp : Bool) (r t : Nat) : State :=
  let key := s.keyId
  let sub := b2n catchUp
  let a := s.recNow 0 0x04 48 ldgSrc sub (packBits [(0, 64, seq), (64, 64, key), (128, 256, leNat (beBytes 32 r))])
  let b := { s.recNow 0 0x04 48 ldgSrc sub (packBits [(0, 256, leNat (beBytes 32 t)), (256, 64, s.rd LDG_SIGNED + 1)]) with cont := true }
  if s.ldg.closed.isSome || s.ldg.gasp || ldgFree s.ldg < 3 then (s.ldgAccept a).ldgAccept b
  else
    let s := ((s.ldgPair a b).wr LDG_SIGNED seq).put LDG_KEYID_KEYID key
    s.raise LDG_IRQ_STATUS_SIGNED 1

def State.signReturn (s : State) (ok : Bool) (r t : Nat) : State :=
  match s.ldg.signReq with
  | none => s
  | some (seq, catchUp) =>
    if !ok then s.signFail
    else
      let due := s.ldg.signDue
      let s := (s.setLdg { s.ldg with signReq := none, signDue := none }).put LDG_STATUS_SIGUNAVAIL 0
      let s := s.signAppend seq catchUp r t
      match due with
      | some d => s.ldgSign d false
      | none => s

def execSignatureReturn (ok : Bool) (r s' : BitVec 256) (s : State) : Ans :=
  .next (if s.runs HST 2 then s.signReturn ok r.toNat s'.toNat else s)

def execSignTimeout (s : State) : Ans := .next (if s.ldg.signReq.isSome then s.signFail else s)

/-- A retry asks for a signature of the latest closed block. -/
def State.signRetry (s : State) : State :=
  match s.ldg.opened with
  | some b => if s.on LDG_STATUS_SIGUNAVAIL && s.ldg.signReq.isNone && b.seq != 0 then s.ldgSign (b.seq - 1) true else s
  | none => s

def execSignRetry (s : State) : Ans := .next s.signRetry

/-! ### The NVMe store (R263, R264) -/

/-- A block write completes; a group end with every earlier block complete updates the control copy. A write that fails is
issued again three times. -/
def State.nvmeDone (s : State) (seq : Nat) (ok : Bool) : State :=
  if !s.ldg.outstanding.contains seq then s
  else if ok then
    let old := (ldgNext s.ldg).1
    let l := s.ldg
    let s := s.setLdg { l with staged := l.staged.filter (fun b => b.seq != seq), outstanding := l.outstanding.filter (· != seq),
                               fails := tabSet (fun _ => 0) l.fails seq 0 }
    let s := s.raise LDG_IRQ_STATUS_WRITTEN 1
    let new := (ldgNext s.ldg).1
    let s := s.when (!s.ldg.gasp && old / 64 < new / 64) State.ldgCtlWrite
    let s := s.when (s.ldg.closed.isNone && !s.ldg.gasp) State.ldgGap
    s.ldgSync
  else
    let n := tabGet (fun _ => 0) s.ldg.fails seq + 1
    if n ≤ 3 then s.setLdg { s.ldg with fails := tabSet (fun _ => 0) s.ldg.fails seq n }
    else
      let s := s.setLdg { s.ldg with fails := [], outstanding := [] }
      ((s.put LDG_STATUS_STORE_ERR 1).put LDG_STATUS_STATE 3).raise LDG_IRQ_STATUS_STORE_ERR 1

def execNvmeWriteComplete (seq : Nat) (ok : Bool) (s : State) : Ans :=
  .next (if s.runs HST 2 then s.nvmeDone seq (ok && s.pcieLink) else s)

/-! ### Resume (R257, R265) -/

/-- EN is written. -/
def State.ldgEnWrite (s : State) (en : Bool) : State :=
  if s.on LDG_CTL_EN == en then s
  else if en then ((s.put LDG_CTL_EN 1).put LDG_STATUS_STATE 1).setLdg { s.ldg with resuming := true, fails := [] }
  else ((s.put LDG_CTL_EN 0).put LDG_STATUS_STATE 0).setLdg { s.ldg with resuming := false, outstanding := [], fails := [] }

def execLedgerResume (a : Agent) (s : State) : Ans := .next (s.regAccess a true LDG_CTL 4 (fun t => t.ldgEnWrite true))
def execLedgerReinit (a : Agent) (s : State) : Ans :=
  .next (s.regAccess a true LDG_CTL 4 (fun t => t.setLdg { t.ldg with reinit := true }))

/-- The good control copy with the higher UPD, and which it is. -/
def bestCopy (copies : List (Option CtlCopy)) : Option (Nat × CtlCopy) :=
  let good (i : Nat) : Option (Nat × CtlCopy) := match copies[i]? with
    | some (some c) => if ctlGood c then some (i, c) else none
    | _ => none
  match good 0, good 1 with
  | some a, some b => if a.2.upd < b.2.upd then some b else some a
  | some a, none => some a
  | none, b => b

/-- Walk the blocks that continue the chain: the next SEQ, the hash before it, and the highest SIGNED_SEQ + 1 found. -/
def chainWalk : Nat → List LBlock → Nat → Nat → Nat → Nat × Nat × Nat
  | 0, _, seq, prev, sg => (seq, prev, sg)
  | _, [], seq, prev, sg => (seq, prev, sg)
  | fuel + 1, b :: r, seq, prev, sg =>
    if b.magic != magicBlock || b.seq != seq || b.prev != prev then (seq, prev, sg)
    else
      let found := (b.recs.filter (fun k => k.typ == 4 && !k.cont)).map (fun k => k.payload % 2 ^ 64 + 1)
      chainWalk fuel r (seq + 1) (blockHash b) (found.foldl Nat.max sg)

/-- SIGNED as a count: 0 for none. -/
def signedCount (v : Nat) : Nat := if v == 2 ^ 64 - 1 then 0 else v + 1

/-- The BOOT record (R254). -/
def State.bootRec (s : State) : Rec :=
  recAt 0 s.boot.load 0x01 29 ldgSrc s.power.bootCause
    (packBits [(0, 64, s.rd (FIRE_HASH 0)), (64, 32, s.get FIRE_IMGVER_IMGVER), (96, 32, s.rd FIRE_STATUS), (128, 64, Config.eui),
      (192, 32, s.get LDG_BOOTNO_BOOTNO), (224, 1, s.get VT_STATUS_AOT_LOADED)])

/-- The resume ends with a status: the engine stops. -/
def State.resumeFail (s : State) (st : Status) : State :=
  ((s.res LDG_STATUS_RESULT st).put LDG_STATUS_STATE 3).setLdg { s.ldg with resuming := false }

/-- Blocks form from `seq` after the block with hash `prev`; the records held follow the BOOT record, or the GAP record. -/
def State.ldgBegin (s : State) (seq prev : Nat) : State :=
  let first := !s.ldg.resumedOnce
  let held := s.ldg.held
  let s := s.when first (fun t => t.inc LDG_BOOTNO_BOOTNO 1)
  let b := { s.newBlock seq prev with firstboot := first }
  let s := s.setLdg { s.ldg with opened := some b, held := [], lastHash := prev, resumedOnce := true }
  let s := if first then s.ldgAppend s.bootRec else s.ldgReopen
  State.each held (fun r t => t.ldgAppend r) s

/-- The reads of the resume have completed. -/
def State.resumeRead (s : State) (copies : List (Option CtlCopy)) (blocks : List LBlock) : State :=
  let lbas := s.get LDG_RING_LBAS
  let init := s.ldg.reinit
  let best := bestCopy copies
  let wrong := match best with
    | some (_, c) => !init && c.ringlen != lbas - 2
    | none => false
  if s.get LDG_NS_LBADS != 12 || lbas < 66 || wrong then s.resumeFail .denied
  else
    let kept := s.ldg.opened.isSome && !init
    let s := match best, init with
      | some (i, c), false =>
        let (seq, prev, sg) := chainWalk 256 blocks c.next c.lasthash (signedCount c.signed)
        let s := s.setLdg { s.ldg with ringlen := c.ringlen, ctlUpd := c.upd, ctlLast := i,
                                       ctl := tabSet (fun _ => none) s.ldg.ctl i (some c), resuming := false }
        if kept then s
        else
          let s := (s.put LDG_BOOTNO_BOOTNO c.bootno).wr LDG_SIGNED (sg + 2 ^ 64 - 1)
          s.ldgBegin seq prev
      | _, _ =>
        let recs := (s.ldg.staged.map (fun k : LBlock => k.recs)).flatten ++ (s.ldg.opened.map (fun k : LBlock => k.recs)).getD []
        let l := { s.ldg with held := recs ++ s.ldg.held, opened := none, staged := [], ringlen := lbas - 2, ctlUpd := 0, ctlLast := 1,
                              reinit := false, resuming := false, lastHash := 0, signReq := none, signDue := none }
        let s := ((s.setLdg l).put LDG_BOOTNO_BOOTNO 0).wr LDG_SIGNED (2 ^ 64 - 1)
        (s.ldgCtlWrite.ldgCtlWrite).ldgBegin 0 0
    let s := ((s.put LDG_STATUS_STORE_ERR 0).put LDG_STATUS_STATE 2).res LDG_STATUS_RESULT .ok
    let s := s.when kept State.ldgReopen
    let seq := match s.ldg.opened with | some b => b.seq | none => 0
    let s := s.when (s.ldg.signReq.isNone && !s.on LDG_STATUS_SIGUNAVAIL && signedCount (s.rd LDG_SIGNED) < seq && !kept)
      (fun t => t.ldgSign (seq - 1) true)
    s.ldgSync

def execResumeReadComplete (ok : Bool) (copies : List (Option CtlCopy)) (blocks : List LBlock) (s : State) : Ans :=
  .next (if !s.runs HST 2 || !s.ldg.resuming then s
    else if !ok || !s.pcieLink then s.resumeFail .unavailable
    else s.resumeRead copies blocks)

/-! ### Replay (R268) -/

/-- A write of `LDG_RPL_CMD`. -/
def State.replayCmd (s : State) (op : Nat) : State :=
  let first := s.rd LDG_RPL_FIRST
  let n := s.get LDG_RPL_COUNT_COUNT
  let next := (ldgNext s.ldg).1
  if op == 0 || s.on LDG_RPL_RES_BUSY then s
  else if n != 0 && (decide (next < first + n) || decide (first + s.ldg.ringlen < next) || s.ldg.opened.isNone) then
    s.res LDG_RPL_RES_STATUS .denied
  else (s.setLdg { s.ldg with replay := some op }).put LDG_RPL_RES_BUSY 1

def execReplayCopy (a : Agent) (s : State) : Ans := .next (s.regAccess a true LDG_RPL_CMD 4 (fun t => t.replayCmd 1))
def execReplayCheck (a : Agent) (s : State) : Ans := .next (s.regAccess a true LDG_RPL_CMD 4 (fun t => t.replayCmd 2))
def execReplayCopyCheck (a : Agent) (s : State) : Ans := .next (s.regAccess a true LDG_RPL_CMD 4 (fun t => t.replayCmd 3))

/-- The first block that breaks the chain, with its reason: 1 MAGIC, 2 SEQ, 3 PREV. -/
def replayBreak : List LBlock → Nat → Option Nat → Option (Nat × Nat)
  | [], _, _ => none
  | b :: r, seq, prev =>
    if b.magic != magicBlock then some (seq, 1)
    else if b.seq != seq then some (seq, 2)
    else if prev.isSome && prev != some b.prev then some (seq, 3)
    else replayBreak r (seq + 1) (some (blockHash b))

/-- Copy blocks to the replay buffer. -/
def State.replayOut (s : State) (iova : Nat) : List LBlock → State × Status
  | [] => (s, .ok)
  | b :: r =>
    match s.dmaWrite (s.owner HST 2) ldgSrc 0x0F0 65 iova (blockBytes b) with
    | (s, .ok) => s.replayOut (iova + 4096) r
    | (s, st) => (s, st)

/-- The command ends: the blocks read, whether all reads succeeded. The status of a command that a failure stopped is free. -/
def State.replayEnd (s : State) (op : Nat) (blocks : List LBlock) (ok : Bool) : State :=
  let first := s.rd LDG_RPL_FIRST
  let blocks := blocks.take (s.get LDG_RPL_COUNT_COUNT)
  let stop := match (if op ≥ 2 then replayBreak blocks first none else none) with
    | some k => some k
    | none => if ok then none else some (first + blocks.length, 4)
  let good := match stop with
    | some (seq, _) => blocks.take (seq - first)
    | none => blocks
  let (s, st) := if op % 2 == 1 then s.replayOut (s.rd LDG_RPL_BUF) good else (s, .ok)
  let s := match stop with
    | some (seq, why) =>
      ((s.put LDG_RPL_RES_BREAK why).wr LDG_RPL_BREAKSEQ seq).put LDG_RPL_RES_STATUS (ofSigned 8 (-((s.freeNat % 8 : Nat) : Int)))
        |>.tookFree
    | none => (s.put LDG_RPL_RES_BREAK 0).res LDG_RPL_RES_STATUS st
  ((s.setLdg { s.ldg with replay := none }).put LDG_RPL_RES_BUSY 0).raise LDG_IRQ_STATUS_RPLDONE 1

def execReplayDone (blocks : List LBlock) (ok : Bool) (s : State) : Ans :=
  .next (match s.ldg.replay with
    | some op => if s.runs HST 2 then s.replayEnd op blocks ok else s
    | none => s)

/-! ### The PCIe link (R135, R265) -/

def execPcieLinkUp (s : State) : Ans := .next (if s.fenceOpen HST then { s with pcieLink := true } else s)
def execPcieLinkDown (s : State) : Ans := .next { s with pcieLink := false }

end Sys2Proof.Machine
end

