-- ==== Sys2Proof/Machine/Epoch.lean ====
section
/-! DEFINITION. Locks, epochs and lockstep: acquiring and breaking a lock, the begin of a commit, rollback, and what follows a
divergence (R294, R443 to R461). What a commit issues is in `Bus.lean`. -/

namespace Sys2Proof.Machine

open Sys2Proof

/-! ### Locks (R443 to R445) -/

/-- The number a hart has as an owner: the odd core of a fused pair counts as its even core (R293, R443). -/
def State.lockHart (s : State) (h : Nat) : Nat := if h < 8 then s.l2Of h else h

/-- A write of ACQ: it takes a free lock for the writing hart, BROKEN staying as it is (R443, R445). -/
def State.lockAcq (s : State) (a : Agent) (n : Nat) : State :=
  match a with
  | .hart h => if s.get (EPO_LOCK_OWNER n) == 0xF then s.put (EPO_LOCK_OWNER n) (s.lockHart h.val) else s
  | _ => s

/-- A write of REL by the owner (R443). -/
def State.lockRel (s : State) (a : Agent) (n : Nat) : State :=
  match a with
  | .hart h =>
    if s.get (EPO_LOCK_OWNER n) == s.lockHart h.val then (s.put (EPO_LOCK_OWNER n) 0xF).put (EPO_LOCK_BROKEN n) 0 else s
  | _ => s

/-- A grant is withdrawn: the lock reads free and BROKEN (R445). -/
def State.lockBreak (s : State) (n : Nat) : State := (s.put (EPO_LOCK_OWNER n) 0xF).put (EPO_LOCK_BROKEN n) 1

/-- The grants of the owners that `who` names are withdrawn (R445). -/
def State.breakLocks (s : State) (who : Nat → Bool) : State :=
  State.each (List.range 64) (fun n t =>
    let o := t.get (EPO_LOCK_OWNER n)
    if o != 0xF && who o then t.lockBreak n else t) s

def execLockAcquire (a : Agent) (n : LockIdx) (s : State) : Ans :=
  .next (s.regAccess a true (EPO_LOCK n.val) 4 (fun t => t.lockAcq a n.val))

def execLockRelease (a : Agent) (n : LockIdx) (s : State) : Ans :=
  .next (s.regAccess a true (EPO_LOCK n.val) 4 (fun t => t.lockRel a n.val))

/-! ### Epochs (R448 to R457) -/

/-- The state of a cluster's harts and files becomes its checkpoint without a commit: its harts start. -/
def State.epochStart (s : State) (c : Nat) : State :=
  if s.epochMode c then
    let e := s.epoch c
    s.setEpoch c { e with ckptHarts := s.cpu.harts.filter (fun p => p.1 / 4 == c && p.1 < 8),
                          ckptImsic := s.cpu.imsic.filter (fun p => p.1 / 32 == c && p.1 < 64), arrived := [] }
  else s

/-- The checkpoint's CSRs with the present counters and debug CSRs (R454, R506). -/
def keepCounters (now ck : Tab Nat) : Tab Nat :=
  ([0xB00, 0x7B0, 0x7B1, 0x7B2, 0x7B3] ++ (List.range 29).map (fun i => 0xB03 + i)).foldl (fun t a => tabSet (fun _ => 0) t a (tabGet (fun _ => 0) now a)) ck

/-- A hart as the checkpoint has it; what a rollback does not restore stays: debug state, power, `mcycle`, `minstret` (R454). -/
def rolledHart (now ck : HartSt) : HartSt :=
  { ck with running := now.running, halted := now.halted, instret := now.instret, csr := keepCounters now.csr ck.csr }

/-- Cluster `c` rolls back (R454): uncommitted lines are invalidated, the output queue is discarded, harts and interrupt
files return to the checkpoint, halted harts apart (R497), interrupts that have arrived since are pending again, `ezepoch.RB` sets. -/
def State.rollback (s : State) (c cause hart : Nat) : State :=
  let e := s.epoch c
  let s := State.each e.lines (fun l t =>
    let t := State.each (clusterHarts c) (fun k u => ((u.setL2 k l none).clearResv l (fun h => h == k)).setDir l (dirDrop (u.dirAt l) k)) t
    t) s
  let s := State.each e.outq (fun o t => match o with
    | .arm i => t.wheelFree i
    | .store _ _ _ _ _ _ => t) s
  let s := State.each ((clusterHarts c).filter (fun h => !(s.hart h).halted)) (fun h t =>
    let ck := tabGet (fun _ => HartSt.init) e.ckptHarts h
    let t := t.setHart h (rolledHart (t.hart h) ck)
    t.setCsr h csrEzepoch (putBits (t.csr h csrEzepoch) 2 1 1)) s
  let s := State.each (List.range 32) (fun i t =>
    let k := 32 * c + i
    let f := tabGet (fun _ => ImsicFile.init) e.ckptImsic k
    let f := { f with eip := Nat.lor f.eip (tabGet (fun _ => 0) e.arrived k) }
    { t with cpu := { t.cpu with imsic := tabSet (fun _ => ImsicFile.init) t.cpu.imsic k f } }) s
  let s := State.each (clusterHarts c) (fun h t => t.coreCount h 66) (s.setEpoch c { e with lines := [], places := [], outq := [] })
  let s := (((s.put (EPO_STATUS_STATE c) 2).inc (EPO_STATUS_RBRUN c) 1).inc (EPO_CNT_ROLLBACKS c) 1).put (EPO_LASTRB_VT c) (s.vt 0)
  let s := ((s.put (EPO_RBCAUSE_CAUSE c) cause).put (EPO_RBCAUSE_HART c) hart).put (EPO_IRQ_STATUS_ROLLBACK c) 1
  (s.put (EPO_OUTQ_USED c) 0).put (EPO_STORE_USED c) 0

/-- A cause of rollback meets a cluster in epoch mode that runs. -/
def State.rollbackOn (s : State) (c cause hart : Nat) : State :=
  if s.epochMode c && s.get (EPO_STATUS_STATE c) == 0 then s.rollback c cause hart else s

def execEpochTimerCommit (c : Cluster) (s : State) : Ans :=
  .next (if s.epochMode c.val then s.epochRelease c.val false else s)

/-- `EPO_CMD.COMMIT` (R448). -/
def State.epoCommit (s : State) (c : Nat) : State := if s.epochMode c then s.epochRelease c true else s

def execEpochCommitCmd (a : Agent) (c : Cluster) (s : State) : Ans :=
  .next (s.regAccess a true (EPO_CMD c.val) 4 (fun t => t.epoCommit c.val))

/-- `EPO_CMD.ROLLBACK`: the secure world's only (R454, R459); the core of the cause is the writer's, where it is of the cluster. -/
def State.epoRollback (s : State) (a : Agent) (c : Nat) : State :=
  let h := match a with
    | .hart h => if h.val / 4 == c then h.val else 4 * c
    | _ => 4 * c
  if s.agentWorld a == .secure then s.rollbackOn c 3 h else s

def execEpochRollbackCmd (a : Agent) (c : Cluster) (s : State) : Ans :=
  .next (s.regAccess a true (EPO_CMD c.val) 4 (fun t => t.epoRollback a c.val))

/-- The rollback ends: the harts run, or the cluster stops at RBLIMIT (R456). -/
def execEpochRollbackDone (c : Cluster) (s : State) : Ans :=
  .next (
    let k := c.val
    if s.get (EPO_STATUS_STATE k) != 2 then s
    else if s.get (EPO_CFG_RBLIMIT k) != 0 && decide (s.get (EPO_CFG_RBLIMIT k) ≤ s.get (EPO_STATUS_RBRUN k)) then
      (s.put (EPO_STATUS_STATE k) 3).put (EPO_IRQ_STATUS_FAILED k) 1
    else s.put (EPO_STATUS_STATE k) 0)

/-- `EPO_CMD.RESUME`: one more rollback, after which the cluster runs on; the run of rollbacks counts anew (R456). -/
def State.epoResume (s : State) (c : Nat) : State :=
  if s.get (EPO_STATUS_STATE c) == 3 then (s.rollback c 3 (4 * c)).put (EPO_STATUS_RBRUN c) 0 else s

def execEpochResume (a : Agent) (c : Cluster) (s : State) : Ans :=
  .next (s.regAccess a true (EPO_CMD c.val) 4 (fun t => t.epoResume c.val))

/-- What a fence or owner answers to a released store (R451). -/
def State.outputStatus (s : State) (hart : Nat) (w : World) (sl : Option Nat) (addr size : Nat) : Status :=
  match s.region addr with
  | .regs _ _ _ | .debug _ _ => match s.winJudge (.device (BitVec.ofNat 16 (hartSrc hart)) w) sl true addr size with
    | .ok => .ok
    | .bad => .denied
    | .refuse st => st
  | _ => verdictStatus (s.physVerdict w none .write addr)

/-- A released store is dropped: `EPO_OUTREF`, the interrupt and the sherd entry (R451). -/
def State.outputDrop (s : State) (c idx : Nat) (st : Status) : State :=
  let e := s.epoch c
  match e.released[idx]? with
  | some (.store h w _ addr _ _) =>
    let s := s.setEpoch c { e with released := e.released.eraseIdx idx }
    let s := ((s.put (EPO_OUTREF_ADDR c) addr).res (EPO_OUTREF_STATUS c) st).put (EPO_OUTREF_HART c) h
    (s.put (EPO_IRQ_STATUS_OUTREFUSED c) 1).sherdRefused (.device (BitVec.ofNat 16 (hartSrc h)) w) st (s.region addr) addr
  | _ => s

def execEpochOutputRefused (c : Cluster) (idx : Nat) (status : Status) (s : State) : Ans :=
  .next (match (s.epoch c.val).released[idx]? with
    | some (.store h w sl addr size _) =>
      if s.get (EPO_STATUS_STATE c.val) == 1 && status != .ok && s.outputStatus h w sl addr size == status then s.outputDrop c.val idx status else s
    | _ => s)

/-! ### Lockstep (R294, R447, R461) -/

/-- KIND of a divergence (R461). -/
def lksKind : LksCause → Nat
  | .regWrite => 1 | .csrWrite => 2 | .storeAddr => 3 | .storeData => 4 | .otherRequest => 5 | .privateState => 6

/-- A fused pair diverges: the record and its registers, then a rollback in epoch mode or the stop in progress mode. -/
def State.diverge (s : State) (p kind addr : Nat) : State :=
  let c := clusterOf (2 * p)
  let epo := s.epochMode c
  let s := { s with guard := { s.guard with inject := tabSet (fun _ => false) s.guard.inject p false } }
  let s := s.sherd kLockstep .ok (srcId APC 9) (s.hartWorld (2 * p)) 0xFFFF (if kind == 3 || kind == 4 then addr else 0) 0xF
    (packBits [(0, 2, p), (2, 1, b2n epo), (8, 8, kind)])
  let s := ((s.put (LKS_STATUS_KIND p) kind).put (LKS_PC_PC p) (s.hart (2 * p)).pc).inc (LKS_CNT_COUNT p) 1
  let s := (s.raise LKS_IRQ_STATUS_DIV (2 ^ p)).coreCount (2 * p) 71
  if epo then s.rollbackOn c 1 (2 * p)
  else (s.put (LKS_STATUS_STOPPED p) 1).breakLocks (fun o => o == 2 * p)

def execLockstepDivergence (p : Pair) (cause : LksCause) (addr : PAddr) (s : State) : Ans :=
  .next (if s.on (LKS_STATUS_FUSED p.val) && !s.on (LKS_STATUS_STOPPED p.val) && (s.hart (2 * p.val)).running
    then s.diverge p.val (lksKind cause) addr.toNat else s)

/-- An application core starts at its reset address in M-mode and the secure world, its architectural state as at reset. -/
def State.coreStart (s : State) (h : Nat) : State :=
  let s := s.setHart h { HartSt.init with running := true, pc := s.rd (ACC_RESETPC h) }
  s.put (ACC_STATUS_POWER h) 1

/-- `LKS_CTL.RESTART` (R447). -/
def State.lksRestart (s : State) (p : Nat) : State :=
  if s.on (LKS_STATUS_STOPPED p) then
    ((s.l2Drain (2 * p)).coreStart (2 * p)).put (LKS_STATUS_STOPPED p) 0
  else s

def execLockstepRestart (a : Agent) (p : Pair) (s : State) : Ans :=
  .next (s.regAccess a true (LKS_CTL p.val) 4 (fun t => t.lksRestart p.val))

/-- `LKS_CTL.INJECT`: the secure world's only (R461). -/
def State.lksInject (s : State) (a : Agent) (p : Nat) : State :=
  if s.agentWorld a == .secure && s.on (LKS_STATUS_FUSED p) then
    { s with guard := { s.guard with inject := tabSet (fun _ => false) s.guard.inject p true } }
  else s

def execLockstepInject (a : Agent) (p : Pair) (s : State) : Ans :=
  .next (s.regAccess a true (LKS_CTL p.val) 4 (fun t => t.lksInject a p.val))

end Sys2Proof.Machine
end

