-- ==== Sys2Proof/Machine/Cone.lean ====
section
/-! DEFINITION. The cone fuse array: judging and starting a burn, the step and its record, the copy to the ledger, and the
registers it shows (R58, R62 to R67, R432). What follows a burn is in `Boot.lean`. -/

namespace Sys2Proof.Machine

open Sys2Proof

/-- Bytes of the boot flash (R53). -/
def State.flashRead (s : State) (a n : Nat) : List Byte := (List.range n).map (fun i => tabGet flashDefault s.boot.flash (a + i))

def State.flashPut (s : State) (a : Nat) (bs : List Byte) : State :=
  { s with boot := { s.boot with flash :=
      (List.range bs.length).foldl (fun t i => tabSet flashDefault t (a + i) (bs.getD i 0)) s.boot.flash } }

/-- Offset of an image slot: 0 A, 1 B (R53). -/
def slotBase (k : Nat) : Nat := if k == 0 then 0x100000 else 0x200000

/-- Steps of a cone (R62). -/
def coneMax : Nat → Nat
  | 0 => 16 | 1 => 64 | 2 => 8 | 3 => 4 | _ => 1

/-- Present step count. -/
def State.coneSteps (s : State) (c : Nat) : Nat := tabGet (fun _ => 0) s.boot.fuses.steps c

/-- The key hash of the running image: the SHA-384 of QX and QY of its signature block (R49). -/
def State.runningKeyHash (s : State) : Nat :=
  let base := slotBase (s.get FIRE_STATUS_SLOT)
  leNat (sha384 (s.flashRead (base + leNat (s.flashRead (base + 0x1C) 4)) 96))

/-- `CONE_KEYPROG` as a number, byte 0 least significant. -/
def State.keyProg (s : State) : Nat := packBits ((List.range 6).map (fun i => (64 * i, 64, s.rd (CONE_KEYPROG i))))

/-- The input is below the warning threshold (R63, R482). -/
def State.supplyLow (s : State) : Bool := decide (s.get SUP_STATUS_VIN < s.get SUP_LEVELS_WARN)

/-- What a request to burn a step answers (R63). -/
def State.coneJudge (s : State) (cone expect : Nat) : Status :=
  firstThat [(decide (4 < cone), .denied), (s.boot.burn.isSome, .unavailable), (s.supplyLow, .unavailable),
    (expect != s.coneSteps cone, .tooLate), (decide (coneMax cone ≤ s.coneSteps cone), .full),
    (cone == 4 && (!s.boot.imageRunning || s.keyProg != s.runningKeyHash), .denied)] .ok

/-- A judged request: `CONE_RESULT`, and on OK the burn starts. -/
def State.coneStart (s : State) (cone expect value : Nat) (src : BurnFor) : State × Status :=
  let st := s.coneJudge cone expect
  let s := s.res CONE_RESULT_STATUS st
  if st == .ok then
    (({ s with boot := { s.boot with burn := some ⟨cone, value, src⟩ } }).put CONE_RESULT_BUSY 1, st)
  else (s, st)

def execConeBurn (a : Agent) (cone : BitVec 3) (expect : BitVec 7) (value : BitVec 4) (s : State) : Ans :=
  .next (s.regAccess a true CONE_BURN 4 (fun t => (t.coneStart cone.toNat expect.toNat value.toNat .software).1))

/-- Blow the fuses of a burn and write its record (R62, R64). -/
def State.coneBlow (s : State) (b : Burn) : State :=
  let f := s.boot.fuses
  let n := s.coneSteps b.cone + 1
  let e : BurnEntry := ⟨if s.outOfReset TKD then s.vt 0 else 0, s.rd (FIRE_HASH 0), b.cone, n, false, false⟩
  let f := { f with steps := tabSet (fun _ => 0) f.steps b.cone n, record := f.record ++ [e],
                    dbg := if b.cone == 2 then f.dbg ++ [b.value] else f.dbg,
                    keyHash := if b.cone == 4 then s.runningKeyHash else f.keyHash }
  let s := { s with boot := { s.boot with fuses := f, burn := none } }
  (s.put CONE_RESULT_BUSY 0).put CONE_RESULT_NEW_STEP n

/-- A burn record entry as 32 bytes (R64). -/
def burnNat (e : BurnEntry) : Nat :=
  packBits [(0, 64, e.vt), (64, 64, e.tag), (128, 3, e.cone), (136, 7, e.step), (144, 1, b2n e.ledgered), (145, 1, b2n e.recovered)]

/-- The ledger engine copies entry `n` and LEDGERED is burnt, once a record is accepted (R64). -/
def State.burnCopy (s : State) (n : Nat) : State :=
  match s.boot.fuses.record[n]? with
  | some e =>
    if e.ledgered || !s.runs HST 2 || s.ldg.closed.isSome || s.ldg.gasp || ldgFree s.ldg ≤ 64 then s
    else
      let s := s.ldgAccept (s.recNow 0 0x33 48 (srcId AON 4) n (burnNat e))
      let f := s.boot.fuses
      { s with boot := { s.boot with fuses := { f with record := f.record.set n { e with ledgered := true } } } }
  | none => s

def execBurnRecordCopy (n : Fin 128) (s : State) : Ans := .next (s.burnCopy n.val)

/-- The burn record after the recovery by the boot ROM: an entry for every burnt step without one (R65). -/
def burnRecovered (f : FuseSt) : List BurnEntry :=
  (List.range 5).foldl (fun r c =>
    let n := tabGet (fun _ => 0) f.steps c
    let top := (f.record.filter (fun e => e.cone == c)).foldl (fun m e => Nat.max m e.step) 0
    r ++ (List.range (n - top)).map (fun i => (⟨0, 0, c, top + 1 + i, false, true⟩ : BurnEntry))) f.record

/-- Supply is lost during a burn: the step ends burnt or not burnt, and a free value says which (R65). -/
def State.burnLost (s : State) : State :=
  match s.boot.burn with
  | none => s
  | some b =>
    let f := s.boot.fuses
    let blown := s.freeNat % 2 == 1
    let f := if blown then { f with steps := tabSet (fun _ => 0) f.steps b.cone (s.coneSteps b.cone + 1),
                                    dbg := if b.cone == 2 then f.dbg ++ [b.value] else f.dbg,
                                    keyHash := if b.cone == 4 then s.runningKeyHash else f.keyHash } else f
    ({ s with boot := { s.boot with fuses := f, burn := none } }).tookFree

/-- The registers that show the fuses (R67). -/
def State.coneView (s : State) (a : Nat) : Option Nat :=
  let f := s.boot.fuses
  if a == CONE_STEPS then
    some (packBits [(0, 5, s.coneSteps 0), (8, 7, s.coneSteps 1), (16, 4, s.coneSteps 2), (24, 3, s.coneSteps 3), (27, 1, s.coneSteps 4)])
  else if a == CONE_DBG then some s.dbgEn
  else if a == CONE_BR_COUNT then some f.record.length
  else if within a (CONE_KEYHASH 0) (CONE_KEYHASH 0 + 48) then some (bitsOf f.keyHash (8 * (a - CONE_KEYHASH 0)) 64)
  else if within a (CONE_BR 0 0) (CONE_BR 0 0 + 0x1000) then
    match f.record[(a - CONE_BR 0 0) / 32]? with
    | some e => some (bitsOf (burnNat e) (8 * ((a - CONE_BR 0 0) % 32)) 64)
    | none => some 0
  else none

end Sys2Proof.Machine
end

