-- ==== Sys2Proof/Machine/Image.lean ====
section
/-! DEFINITION. The firing image: its layout, `verify`, the bisque check, and the registers its sections load (R46 to R52, R55). -/

namespace Sys2Proof.Machine

open Sys2Proof

/-! ### Reading bytes -/

/-- Little-endian number of `n` bytes at an offset of a byte string; bytes beyond its end read 0. -/
def rdN (b : List Byte) (off n : Nat) : Nat := leNat ((b.drop off).take n)

/-- Bytes from `a`, of the listed ones in rising order and `d` elsewhere. -/
def tabRun (d : Nat → Byte) : Nat → Nat → Tab Byte → List Byte
  | 0, _, _ => []
  | n + 1, a, [] => d a :: tabRun d n (a + 1) []
  | n + 1, a, (j, v) :: r => if j = a then v :: tabRun d n (a + 1) r else d a :: tabRun d n (a + 1) ((j, v) :: r)

/-- The bytes of an image slot up to the image's TOTAL, at most 1 MiB (R53). -/
def State.slotBytes (s : State) (k : Nat) : List Byte :=
  let lo := slotBase k
  let t := s.boot.flash.filter (fun e => within e.1 lo (lo + 0x100000))
  let total := leNat (s.flashRead (lo + 0x0C) 4)
  tabRun flashDefault (Nat.min (Nat.max total 64) 0x100000) lo t

/-! ### Header and sections (R47, R48) -/

/-- A row of the section table: TYPE, FLAGS, OFFSET, LENGTH, reserved word. -/
structure SectRow where
  typ : Nat
  flags : Nat
  off : Nat
  len : Nat
  res : Nat
  deriving DecidableEq, Repr

/-- The section table. -/
def imgTable (img : List Byte) : List SectRow :=
  (List.range (Nat.min (rdN img 0x14 2) 64)).map (fun i =>
    let o := 64 + 16 * i
    ⟨rdN img o 2, rdN img (o + 2) 2, rdN img (o + 4) 4, rdN img (o + 8) 4, rdN img (o + 12) 4⟩)

def imgTotal (img : List Byte) : Nat := rdN img 0x0C 4
def imgSigOff (img : List Byte) : Nat := rdN img 0x1C 4
def imgRollback (img : List Byte) : Nat := rdN img 0x0B 1

/-- Step 4 of `verify` (R47, R48, R55). -/
def imgBounds (img : List Byte) : Bool :=
  let t := imgTotal img
  let so := imgSigOff img
  let n := rdN img 0x14 2
  let tab := imgTable img
  let fine (r : SectRow) : Bool :=
    r.flags < 2 && r.res == 0 && r.off % 16 == 0 && decide (64 + 16 * n ≤ r.off) && decide (r.off + r.len ≤ so)
  let apart (i j : Nat) : Bool := match tab[i]?, tab[j]? with
    | some x, some y => i == j || decide (x.off + x.len ≤ y.off) || decide (y.off + y.len ≤ x.off)
    | _, _ => true
  t % 16 == 0 && t ≤ 0x100000 && decide (t ≤ img.length) && so + 192 == t && rdN img 0x18 4 == 64 && 1 ≤ n && n ≤ 64 &&
    decide (64 + 16 * n ≤ so) && rdN img 0x16 2 == 0 && rdN img 0x30 16 == 0 && tab.all fine &&
    (List.range n).all (fun i => (List.range n).all (apart i))

/-- The image digest (R49). -/
def imgDigest (img : List Byte) : List Byte := sha384 (img.take (imgSigOff img))

/-- One 48-byte field of the signature block, as FIPS 186-5 orders it. -/
def sigField (img : List Byte) (i : Nat) : Nat := beNat ((img.drop (imgSigOff img + 48 * i)).take 48)

/-- The key hash of an image, byte 0 least significant. -/
def imgKeyHash (img : List Byte) : Nat := leNat (sha384 ((img.drop (imgSigOff img)).take 96))

/-- The first reason that holds, 0 for none. -/
def firstReason : List (Bool × Nat) → Nat
  | [] => 0
  | (c, n) :: r => if c then n else firstReason r

/-- `verify`: the reason an image is refused, 0 for none (R55, R69). -/
def State.verify (s : State) (img : List Byte) (readError : Bool) : Nat :=
  firstReason
    [(rdN img 0 4 != 0x49465A45 || rdN img 6 2 != 64, 1),
     (rdN img 5 1 != 1, 2),
     (rdN img 0x10 4 != 0x72, 3),
     (!imgBounds img, 4),
     (readError, 5),
     (s.coneSteps 4 == 1 && imgKeyHash img != s.boot.fuses.keyHash, 6),
     (decide (imgRollback img < s.coneSteps 1) || decide (64 < imgRollback img), 7),
     (!ecdsaP384 (sigField img 0) (sigField img 1) (beNat (imgDigest img)) (sigField img 2) (sigField img 3), 8)]

/-! ### The bisque check (R41, R52, R164, R173, R415, R449, R475) -/

/-- The section types of R51. -/
def knownTypes : List Nat := (List.range 0x10).map (· + 1) ++ [0x20, 0x21, 0x22]

/-- The contents of the sections of a type, in table order. -/
def imgSecs (img : List Byte) (typ : Nat) : List (List Byte) :=
  ((imgTable img).filter (fun r => r.typ == typ)).map (fun r => (img.drop r.off).take r.len)

/-- The sections kept of an image that passes: those of known type. -/
def imgSections (img : List Byte) : List Section :=
  ((imgTable img).filter (fun r => knownTypes.contains r.typ)).map (fun r => ⟨r.typ, (img.drop r.off).take r.len⟩)

/-- The size a section's layout gives (R52). -/
def sectionLenOk (typ : Nat) (b : List Byte) : Bool :=
  let n := b.length
  match typ with
  | 1 => 8 ≤ n && n % 2 == 0
  | 2 => n == 1
  | 3 => n % 4 == 0
  | 4 => n == 4
  | 5 => 8 ≤ n && n == 8 + 16 * (rdN b 0 2 + rdN b 2 2)
  | 6 => n == 1040
  | 7 => n == 24
  | 8 => n == 8
  | 9 => n == 512
  | 10 => 8 ≤ n && n == 8 + 32 * rdN b 4 4
  | 11 => n == 8
  | 12 => n == 256
  | 13 => n == 68
  | 14 => n == 64
  | 15 => n == 16
  | 16 => n == 3
  | _ => 16 < n

/-- The blocks of R23, by domain and block number. -/
def blockListed (sid : Nat) : Bool :=
  let b := sid % 256
  match sid / 256 with
  | 0 => b ≤ 5 || b == 0xF0 || b == 0xF1
  | 1 => b ≤ 7
  | 2 => b ≤ 2 || within b 4 8
  | 3 => b ≤ 0xA || b == 0x10 || within b 0x20 0x24 || b == 0x30 || b == 0x31
  | 4 => b ≤ 5
  | 5 => b ≤ 3 || within b 0x10 0x23
  | 6 => b ≤ 3 || within b 0x10 0x18
  | 7 => b ≤ 3
  | _ => false

/-- A block under its first number (R23). -/
def sidFirst (sid : Nat) : Nat := 256 * (sid / 256) + blkFirst (sid / 256) (sid % 256)

/-- The entries of WORLDS: identifier, world byte, reserved byte. -/
def worldsOf (b : List Byte) : List (Nat × Nat × Nat) :=
  (List.range (b.length / 4)).map (fun i => (rdN b (4 * i) 2, rdN b (4 * i + 2) 1, rdN b (4 * i + 3) 1))

/-- No block named twice. -/
def distinctNats : List Nat → Bool
  | [] => true
  | a :: r => !r.contains a && distinctNats r

/-- A list of intervals (first, count) without overlap. -/
def disjoint : List (Nat × Nat) → Bool
  | [] => true
  | a :: r => r.all (fun b => a.2 == 0 || b.2 == 0 || decide (a.1 + a.2 ≤ b.1) || decide (b.1 + b.2 ≤ a.1)) && disjoint r

/-- The epoch ways a cluster receives (R449). -/
def epochShare (ways : List Nat) (m0 m1 c : Nat) : List Nat :=
  let e := (List.range 24).filter (fun w => ways.getD w 0 == 1)
  if (if c == 0 then m0 else m1) != 1 then []
  else if m0 == 1 && m1 == 1 then (List.range e.length).filterMap (fun i => if i % 2 == c then e[i]? else none)
  else e

/-- The maximum clock of each domain; AON is ignored (R475). -/
def clockMax : Nat → Nat
  | 0 => 65535 | 1 => 400 | 2 => 500 | 3 => 2400 | 4 => 0 | 5 => 500 | 6 => 800 | _ => 500

/-- The bytes of a section as numbers. -/
def natBytes (b : List Byte) : List Nat := b.map BitVec.toNat

/-- SAGGARS is well formed against the watermark (R415). -/
def saggarsOk (b : List Byte) (n : Nat) : Bool :=
  if b.isEmpty then true
  else
    let ns := rdN b 0 2
    let nr := rdN b 2 2
    let desc (k : Nat) : Bool :=
      let w := rdN b (16 + 16 * k) 8
      w < 2 ^ 23 && bitAt w 7 && w % 16 != 0
    let rng (i : Nat) : Bool :=
      let o := 8 + 16 * ns + 16 * i
      let w := rdN b (o + 8) 8
      let lo := 4096 * rdN b o 4
      let hi := lo + 4096 * rdN b (o + 4) 4
      w < 2 ^ 10 && bitAt w 9 && rdN b (o + 4) 4 != 0 && decide (w % 64 < ns) && decide (dramBase + 0x4000000 * n ≤ lo) && decide (hi ≤ dramEnd)
    ns ≤ 64 && nr ≤ 256 && rdN b 4 4 == 0 && (List.range ns).all desc && (List.range nr).all rng &&
      disjoint ((List.range nr).map (fun i => (rdN b (8 + 16 * ns + 16 * i) 4, rdN b (8 + 16 * ns + 16 * i + 4) 4)))

/-- Partitions of STREAM_PART: first and count. -/
def partsOf (b : List Byte) : List (Nat × Nat) := (List.range (b.length / 8)).map (fun i => (rdN b (8 * i) 4, rdN b (8 * i + 4) 4))

/-- Load the stream partitions. -/
def State.loadParts (s : State) (b : List Byte) : State :=
  State.each (List.range 64) (fun n t => (t.put (STT_PART_FIRST n) (rdN b (8 * n) 4)).put (STT_PART_COUNT n) (rdN b (8 * n + 4) 4)) s

/-- Load one STREAM_ENTRIES section: every entry as an OP 2 write with ANYGEN (R173); false once a status is not OK. -/
def State.loadEntries (s : State) (b : List Byte) : State × Bool :=
  (List.range (rdN b 4 4)).foldl (fun r j =>
    let q := r.1.sttExec 2 (rdN b 0 4 + j) 0 true (rdN b (8 + 32 * j) 32)
    (q.1, r.2 && q.2.1 == .ok)) (s, true)

/-- Every STREAM_ENTRIES section loads (R173). -/
def State.entriesOk (s : State) (parts : List Byte) (es : List (List Byte)) : Bool :=
  let s := ({ s with cap := { s.cap with stt := [] } }).loadParts parts
  (es.foldl (fun r b => let (t, ok) := r.1.loadEntries b; (t, r.2 && ok)) (s, true)).2

/-- A whole section, or the contents that stand for it when it is absent (R51). -/
def secOr (b d : List Byte) : List Byte := if b.isEmpty then d else b

/-- The image passes the bisque check (R52). -/
def State.bisqueOk (s : State) (img : List Byte) : Bool :=
  let tab := imgTable img
  let sec (t : Nat) : List Byte := ((imgSecs img t).head?).getD []
  let has (t : Nat) : Bool := tab.any (fun r => r.typ == t)
  let dom := rdN (sec 1) 0 1
  let off := (List.range ((sec 1).length / 2 - 4)).map (fun i => rdN (sec 1) (8 + 2 * i) 2)
  let wl := worldsOf (sec 3)
  let norm (sid : Nat) : Bool := wl.any (fun e => sidFirst e.1 == sid && e.2.1 == 1)
  let n := rdN (sec 4) 0 4
  let pairs := rdN (sec 2) 0 1
  let ways := natBytes (sec 7)
  let m0 := rdN (sec 8) 0 1
  let m1 := rdN (sec 8) 1 1
  let us := rdN (sec 8) 4 4
  let parts := partsOf (sec 9)
  let slots := sec 6
  let load := rdN (sec 0x21) 0 8
  let roles := sec 13
  let pins := sec 14
  [1, 3, 7, 8, 0x20, 0x21].all has &&
  tab.all (fun r => knownTypes.contains r.typ || bitAt r.flags 0) &&
  knownTypes.all (fun t => t == 10 || t == 0x22 || (tab.filter (fun r => r.typ == t)).length ≤ 1) &&
  tab.all (fun r => !knownTypes.contains r.typ || sectionLenOk r.typ ((img.drop r.off).take r.len)) &&
  dom % 4 == 3 &&
  (within load 0x10000000 0x10400000 || within load dramBase (dramBase + 0x4000000 * n)) &&
  wl.all (fun e => e.2.1 ≤ 1 && e.2.2 == 0 && blockListed e.1 && (e.2.1 == 0 || !(e.1 / 256 == 1 || e.1 == 4 || e.1 == 5))) &&
  distinctNats (wl.map (fun e => sidFirst e.1)) &&
  (let k := (List.range 4).map (fun b => norm (srcId SNS b)); k.all (fun x => x) || k.all (fun x => !x)) &&
  pairs < 16 &&
  (List.range 4).all (fun p => !bitAt pairs p || (bitAt dom 3 && !off.contains (srcId APC (2 * p)) && !off.contains (srcId APC (2 * p + 1)))) &&
  ways.all (fun w => w ≤ 2) && (ways.filter (· == 1)).length ≤ 8 && 8 ≤ (ways.filter (· == 0)).length &&
  m0 ≤ 1 && m1 ≤ 1 && 20 ≤ us && us ≤ 1000 &&
  (m0 == 0 || !(epochShare ways m0 m1 0).isEmpty) && (m1 == 0 || !(epochShare ways m0 m1 1).isEmpty) &&
  parts.all (fun p => p.1 % 8 == 0 && p.2 % 8 == 0 && decide (p.1 + p.2 ≤ 262144)) && disjoint parts &&
  (List.range 8).all (fun d => rdN (sec 15) (2 * d) 2 ≤ clockMax d) &&
  n ≤ 224 && saggarsOk (sec 5) n &&
  (slots.isEmpty || ((slots.take 1024).all (fun o => !(within (o.toNat % 16) 11 15)) &&
    ((slots.drop 1024).take 11).all (fun w => 1 ≤ w.toNat && w.toNat ≤ 15))) &&
  rdN (sec 11) 0 4 + rdN (sec 11) 4 4 ≤ 65536 &&
  (List.range 17).all (fun p => rdN roles (4 * p) 1 ≤ 1 && rdN roles (4 * p + 1) 1 ≤ 4 && rdN roles (4 * p + 2) 1 < 16 &&
    rdN roles (4 * p + 3) 1 < 4 && (p == 0 || !bitAt (rdN roles (4 * p + 3) 1) 1)) &&
  (List.range 16).all (fun i => rdN pins (4 * i) 1 ≤ 2 && rdN pins (4 * i + 1) 1 ≤ 1 && rdN pins (4 * i + 2) 1 ≤ 3 && rdN pins (4 * i + 3) 1 < 2) &&
  rdN (sec 16) 0 2 ≤ 300 && rdN (sec 16) 2 1 ≤ 2 &&
  (sec 0x20).length ≤ 16 + 0x40000 &&
  (imgSecs img 0x22).all (fun b => rdN b 0 1 ≤ 3 && rdN b 1 1 ≤ 1 &&
    decide (rdN b 4 4 + (b.length - 16) ≤ (if rdN b 1 1 == 0 then 0x20000 else 0x40000))) &&
  s.entriesOk (sec 9) (imgSecs img 10)

/-- The reason an image cannot boot: `verify`, then the bisque check; 0 for none. -/
def State.imageReason (s : State) (img : List Byte) (readError : Bool) : Nat :=
  match s.verify img readError with
  | 0 => if s.bisqueOk img then 0 else 9
  | r => r

/-! ### The registers that the sections of the running image load -/

/-- A section of the running image; empty when absent. -/
def State.sec (s : State) (typ : Nat) : List Byte :=
  match s.boot.sections.find? (fun e => e.typ == typ) with
  | some e => e.data
  | none => []

def State.secs (s : State) (typ : Nat) : List (List Byte) := (s.boot.sections.filter (fun e => e.typ == typ)).map (fun e => e.data)

/-- Domain `d` is present in the running image (R51). -/
def State.domPresent (s : State) (d : Nat) : Bool := bitAt (rdN (s.sec 1) 0 1) d

/-- The image leaves a block unpowered (R51). -/
def State.blockUnpowered (s : State) (sid : Nat) : Bool :=
  let b := s.sec 1
  (List.range (b.length / 2 - 4)).any (fun i => rdN b (8 + 2 * i) 2 == sid)

/-- The SECURE_FW entry address. -/
def State.fwEntry (s : State) : Nat := rdN (s.sec 0x21) 8 8

/-- The worlds of the blocks (R406). -/
def State.loadWorlds (s : State) : State :=
  State.each ((worldsOf (s.sec 3)).filter (fun e => e.2.1 == 1)) (fun e t =>
    let d := e.1 / 256
    let b := blkFirst d (e.1 % 256)
    let bits := if d == APC && b == 0x20 then [0x20, 0x21, 0x22, 0x23] else [b]
    State.each bits (fun k u => u.wr (HOV_OWN d (k / 64)) (putBits (u.rd (HOV_OWN d (k / 64))) (k % 64) 1 1)) t) s

/-- The watermark and the saggar table (R410, R415). -/
def State.loadSaggars (s : State) : State :=
  let b := s.sec 5
  let ns := rdN b 0 2
  let nr := rdN b 2 2
  let s := s.put WMK_STATUS_N (rdN (s.sec 4) 0 4)
  let s := (s.put SAG_STATUS_NSAG ns).put SAG_STATUS_NRNG nr
  let s := State.each (List.range ns) (fun k t =>
    (t.wr (SAG_DESC_ENTRY k) (rdN b (8 + 16 * k) 8)).wr (SAG_DESC_ATTR k) (rdN b (16 + 16 * k) 8)) s
  State.each (List.range nr) (fun i t =>
    let o := 8 + 16 * ns + 16 * i
    (t.wr (SAG_RNG_PAGE i) (rdN b o 8)).wr (SAG_RNG_ATTR i) (rdN b (o + 8) 8)) s

/-- The role of a port: S0 accepts roles 0 and 1 only (R97). -/
def roleOf (b : List Byte) (p : Nat) : Nat :=
  let r := rdN b (4 * p + 1) 1
  if p == 16 && 1 < r then 0 else r

/-- TKD: enabled time domains, port roles, pins, wheel partitions and quotas, timekeepers (R92, R95, R103, R115, R117, R290). -/
def State.loadTkd (s : State) : State :=
  let roles := s.sec 13
  let pins := s.sec 14
  let masks := (List.range 17).foldl (fun m p => Nat.lor m (rdN roles (4 * p + 2) 1)) 0
  let used := (List.range 16).foldl (fun m i => if rdN pins (4 * i) 1 == 0 then m else Nat.lor m (2 ^ rdN pins (4 * i + 2) 1)) masks
  let part := s.sec 11
  let s := s.put VT_CTL_DOMEN (used / 2)
  let s := State.each (List.range 17) (fun p t =>
    let m := rdN roles (4 * p + 2) 1
    ((t.put (PTP_P_CFG_ROLE p) (roleOf roles p)).put (PTP_P_CFG_DMASK p) m).put (PTP_P_CFG_CMLDS p) (b2n (decide (1 < popCount 4 m)))) s
  let s := State.each (List.range 16) (fun n t =>
    (((t.put (TP_CFG_FUNC n) (rdN pins (4 * n) 1)).put (TP_CFG_POL n) (rdN pins (4 * n + 1) 1)).put (TP_CFG_DOM n) (rdN pins (4 * n + 2) 1)).put
      (TP_CFG_LEDGER n) (rdN pins (4 * n + 3) 1)) s
  let s := (s.put TWH_PART_SECURE (if part.isEmpty then 32768 else rdN part 0 4)).put TWH_PART_NORMAL (if part.isEmpty then 32768 else rdN part 4 4)
  let s := State.each (List.range 64) (fun n t => t.put (TWH_S_QUOTA_QUOTA n) (rdN (s.sec 12) (4 * n) 4)) s
  State.each (List.range 4) (fun n t => t.put (TKC_CTL_RUN n) (b2n ((t.secs 0x22).any (fun b => rdN b 0 1 == n)))) s

/-- APC: start address, worlds, fused pairs, guarantee modes (R292, R295, R299, R449, R459). -/
def State.loadApc (s : State) : State :=
  let pairs := rdN (s.sec 2) 0 1
  let g := s.sec 8
  let m0 := rdN g 0 1
  let m1 := rdN g 1 1
  let ways := natBytes (s.sec 7)
  let s := State.each (List.range 8) (fun a t =>
    let t := (t.wr (ACC_RESETPC a) (t.fwEntry / 4 * 4)).put (ACC_WORLD_NEXT a) (b2n (t.normalOwned APC a))
    (t.put (ACC_STATUS_FUSED a) (bitsOf pairs (a / 2) 1)).put (ACC_STATUS_SHADOW a) (if a % 2 == 1 then bitsOf pairs (a / 2) 1 else 0)) s
  let s := State.each (List.range 4) (fun p t => t.put (LKS_STATUS_FUSED p) (bitsOf pairs p 1)) s
  State.each [0, 1] (fun c t =>
    ((t.put (EPO_CFG_EPOCH c) (if c == 0 then m0 else m1)).put (EPO_CFG_LEN_US c) (rdN g 4 4)).put (EPO_STORE_SIZE c)
      (16384 * (epochShare ways m0 m1 c).length)) s

/-- The ways of the SLC (R324). -/
def State.loadWays (s : State) : State :=
  State.each (List.range 24) (fun w t => t.put (SLC_WAYMAP_WAY w) (rdN (t.sec 7) w 1)) s

/-- The slot tables and weights of SLOTS, shadow and active (R393). -/
def State.loadSlots (s : State) : State :=
  let b := s.sec 6
  let owner (k : Nat) : Nat := if b.isEmpty then 0xF else rdN b k 1 % 16
  let weights := packBits ((List.range 11).map (fun i => (4 * i, 4, if b.isEmpty then 1 else rdN b (1024 + i) 1)))
  let s := (s.wr ARB_SH_WEIGHT weights).wr ARB_ACT_WEIGHT weights
  State.each (List.range 128) (fun j t =>
    let v := packBits ((List.range 8).map (fun k => (8 * k, 8, owner (8 * j + k))))
    (t.wr (ARB_SHADOW j) v).wr (ARB_ACTIVE j) v) s

/-- NET: the ports enabled, and the uplink, the first that carries the flag (R217). -/
def State.loadNet (s : State) : State :=
  let b := s.sec 13
  let up := (List.range 17).find? (fun p => bitAt (rdN b (4 * p + 3) 1) 0)
  State.each (List.range 17) (fun p t => (t.put (PORT_CFG_EN p) (rdN b (4 * p) 1)).put (PORT_CFG_UPLINK p) (b2n (up == some p))) s

/-- SNS: the partitions of the stream table. -/
def State.loadSns (s : State) : State := s.loadParts (s.sec 9)

/-- The stream table at cold boot (R173). -/
def State.loadStreams (s : State) : State := (s.secs 10).foldl (fun t b => (t.loadEntries b).1) s

end Sys2Proof.Machine
end

