-- ==== Sys2Proof/Machine/Domains.lean ====
section
/-! DEFINITION. A domain enters reset or loses power, and leaves reset: what it loses, what it keeps, what its registers load
(R9, R134, R198, R341, R383, R392, R393, R427, R439 to R445, R473). -/

namespace Sys2Proof.Machine

open Sys2Proof

/-- First address of a domain's register window (R22). -/
def regBase (d : Nat) : Nat := 0x40000000 + 0x1000000 * d

/-- STATE of `PWR_DOMSTATE` (R473). -/
def domCode : DomPower → Nat
  | .off => 0 | .up => 1 | .on => 2 | .ret => 3 | .down => 4

/-- Set the power state of a domain and the register that shows it. -/
def State.setPower (s : State) (d : Nat) (p : DomPower) : State :=
  (s.setDom d { s.dom d with power := p }).put (PWR_DOMSTATE_STATE d) (domCode p)

/-! ### What a domain loses -/

/-- The registers of a domain go to their reset values. Block ownership, the watermark and the saggar table outlive a reset of
SEC: a cold boot alone loads them (R406, R410, R415). A cold boot keeps the registers named in R486 in AON. -/
def State.domRegs (s : State) (d : Nat) (cold : Bool) : State :=
  let lo := regBase d
  if d == SEC && !cold then
    let n := s.rd WMK_STATUS
    ((((s.resetRegs lo SAG_STATUS).resetRegs HOV_CFG (HOV_OWN 0 0)).resetRegs (HOV_OWN 7 3 + 8) (lo + 0x1000000)).put WMK_STATUS_N (bitsOf n 0 8))
  else if d == AON then
    let cause := s.rd WAKE_CAUSE
    let dips := s.rd SUP_DIPCNT
    ((((s.resetRegs lo AOT_NOW).resetRegs (AOT_NOW + 0x10000) (lo + 0x1000000)).wr WAKE_CAUSE cause).wr SUP_DIPCNT dips)
  else s.resetRegs lo (lo + 0x1000000)

/-- Time domains hold no time; what always-on storage records of them stays (R100). -/
def timeLost (t : TimeSt) : TimeSt :=
  { TimeSt.init with doms := t.doms.filterMap (fun p =>
      if p.2.aotOffset.isSome then some (p.1, { DomSt.init with aotOffset := p.2.aotOffset }) else none) }

/-- The harts whose numbers `who` names are held in reset. -/
def State.hartsLost (s : State) (who : Nat → Bool) : State :=
  { s with cpu := { s.cpu with harts := s.cpu.harts.filter (fun p => !who p.1) } }

/-- The engines and arrays of a domain in reset. -/
def State.domState (s : State) (d : Nat) : State :=
  match d with
  | 1 => { s with world := { s.world with hov := [], wmk := none, pmPending := none } }.hartsLost (fun h => h == 12)
  | 2 => { s with time := timeLost s.time, wheel := WheelSt.init }.hartsLost (fun h => 8 ≤ h && h < 12)
  | 3 =>
    let s := State.each (s.cpu.dir.map (fun e : Nat × DirEntry => e.1)) (fun l t => t.cohFinish l) s
    let s := s.apcLost.hartsLost (fun h => decide (h < 8))
    { s with guard := GuardSt.init,
             cpu := { s.cpu with imsic := [], aplic := [], domaincfg := [], levels := [], nacks := s.cpu.nacks.filter (fun n => 8 ≤ n.req),
                                 retiring := s.cpu.retiring.filter (fun r => r.1 != 0) } }
  | 4 => { s with cpu := { s.cpu with slc := [], dir := [], resvq := [], nacks := [], retiring := s.cpu.retiring.filter (fun r => r.1 == 0) },
                  mem := { MemSt.init with bytes := s.mem.bytes, synd := s.mem.synd, sramPoison := s.mem.sramPoison, sherdLost := true } }
  | 5 =>
    let s := State.each s.sw.released (fun r t => t.wheelFinish r.entry .fenced false (t.vt 0)) s
    { s with sw := { SwSt.init with bc := s.sw.bc, gpio := s.sw.gpio },
             time := { s.time with announce := [], pdReq := [], pdLast := [], intv := [], sent := [] } }
  | 6 =>
    let s := State.each (s.sw.bc.map (fun e : Nat × List BcCmd => e.2)).flatten (fun c t => match c.entry with
      | some i => t.wheelFinish i .fenced false (t.vt 0)
      | none => t) s
    { s with cap := CapSt.init, slices := [], sw := { s.sw with bc := [], gpio := [] },
             regs := tabDrop s.regs 0x100000000000 0x100000040000, staged := tabDrop s.staged 0x100000000000 0x100000040000,
             latch := tabDrop s.latch 0x100000000000 0x100000040000 }
  | 7 => { s with ldg := { LdgSt.init with resumedOnce := s.ldg.resumedOnce, closed := s.ldg.closed, ringlen := s.ldg.ringlen },
                  casc := CascadeSt.init, pcieLink := false }
  | _ => s

/-- The copies AON retention storage takes as MEM stops (R393). -/
def State.retainMem (s : State) : State :=
  { s with power := { s.power with retArb := s.regs.filter (fun e =>
      within e.1 ARB_ACT_WEIGHT (ARB_ACT_WEIGHT + 8) || within e.1 (ARB_ACTIVE 0) (ARB_ACTIVE 128) || within e.1 (DMC_REMAP 0) (DMC_REMAP 1024)) } }

/-- Locks held when APC enters reset: they read free and BROKEN when it leaves (R445). -/
def State.heldLocks (s : State) : List Nat := (List.range 64).filter (fun n => s.get (EPO_LOCK_OWNER n) != 0xF || s.on (EPO_LOCK_BROKEN n))

/-- Hand-overs of the domain's blocks that stood in QUIESCING or RESETTING move on to the grant (R427). -/
def State.hovDomainReset (s : State) (d : Nat) : State :=
  { s with world := { s.world with hov := s.world.hov.map (fun h =>
      if h.dom == d && (h.stage == .quiescing || h.stage == .resetting) then { h with stage := .reassigning } else h) } }

/-- Domain `d` enters reset (`p` the state it then has): its fence is closed from this clock, locks of its harts are withdrawn,
its arbiter ports are absent, its state is lost. -/
def State.domDown (s : State) (d : Nat) (p : DomPower) (cold : Bool) : State :=
  let s := (s.arbWithdraw d).breakLocks (fun o => hartDom o == d)
  let s := s.hovDomainReset d
  let held := if d == APC then s.heldLocks else []
  let s := s.when (d == MEM && !cold && (s.dom MEM).power != .off) State.retainMem
  let s := (s.setDom d { s.dom d with inReset := true, fence := false, emul := false })
  let s := (s.domState d).domRegs d cold
  let s := State.each held (fun n t => t.put (EPO_LOCK_BROKEN n) 1) s
  (s.when (d == HST && s.vtOn) State.ptpSelectAll).setPower d p

/-! ### A domain leaves reset -/

/-- The registers and engines of a domain that leaves reset. -/
def State.domLoad (s : State) (d : Nat) (cold : Bool) : State :=
  match d with
  | 1 => if cold then s.loadWorlds.loadSaggars else s
  | 2 => s.loadTkd.vtLoad.ptpSelectAll
  | 3 => s.loadApc
  | 4 =>
    let s := s.loadWays
    if cold then s.loadSlots
    else
      let s := State.each s.power.retArb (fun e t => t.wr e.1 e.2.toNat) s
      let s := s.wr ARB_SH_WEIGHT (s.rd ARB_ACT_WEIGHT)
      State.each (List.range 128) (fun j t => t.wr (ARB_SHADOW j) (t.rd (ARB_ACTIVE j))) s
  | 5 => s.loadNet
  | 6 => if cold then s.loadSns.loadStreams else s.loadSns
  | 7 => (s.put LDG_STATUS_PROVISIONAL (s.get FIRE_STATUS_PROVISIONAL)).put CSC_STATUS_MYID s.power.cid
  | _ => s

/-- Domain `d` leaves reset behind its closed fence. -/
def State.domUp (s : State) (d : Nat) (cold : Bool) : State :=
  let s := s.setDom d { s.dom d with power := .on, inReset := false, fence := false, emul := false }
  let s := s.domLoad d cold
  s.setPower d .up

/-- The SRAM arrays of a domain are wedged (R383): zeros, valid check bits, nothing poisoned. -/
def State.domWedge (s : State) (d : Nat) : State :=
  match d with
  | 1 => (s.wedgeArray 0x10000000 0x10400000).wedgeArray 0x30000000 0x30040000
  | 2 => s.wedgeArray 0x20000000 0x20200000
  | 4 => s.wedgeArray scratchBase 0x81800000
  | _ => s

/-- The fence of a wedged domain opens (R439). -/
def State.fenceUp (s : State) (d : Nat) : State :=
  (s.setDom d { s.dom d with fence := true }).setPower d .on

/-! ### Cores -/

/-- The shadow of a fused pair, or a core the image leaves unpowered, never runs by itself. -/
def State.coreAbsent (s : State) (a : Nat) : Bool := (a % 2 == 1 && s.on (LKS_STATUS_FUSED (a / 2))) || s.blockUnpowered (srcId APC a)

/-- The application cores start in M-mode at `ACC_RESETPC`; a cluster in epoch mode has its checkpoint there (R60, R470). -/
def State.coresStart (s : State) : State :=
  let s := State.each (List.range 8) (fun a t => if t.coreAbsent a then t else t.coreStart a) s
  let s := State.each (List.range 4) (fun p t => if t.on (LKS_STATUS_FUSED p) then t.put (ACC_STATUS_POWER (2 * p + 1)) 1 else t) s
  (s.epochStart 0).epochStart 1

/-- Address of a timekeeper's ITCM (R34). -/
def itcmBase (n : Nat) : Nat := 0x20000000 + 0x80000 * n

/-- A timekeeper starts at an offset of its ITCM (R290). -/
def State.tkStart (s : State) (n off : Nat) : State :=
  s.setHart (8 + n) { HartSt.init with running := true, pc := itcmBase n + off / 2 * 2, wbuf := (s.hart (8 + n)).wbuf }

/-- The warden core starts at the WARDEN_FW entry (R60, R431). -/
def State.wardenStart (s : State) : State :=
  s.setHart 12 { HartSt.init with running := true, pc := s.world.wardenEntry }

/-- The harts of a domain whose fence has opened start: APC's cores, and the timekeepers whose RUN is 1. -/
def State.domStart (s : State) (d : Nat) : State :=
  match d with
  | 2 => State.each (List.range 4) (fun n t => if t.on (TKC_CTL_RUN n) then t.tkStart n (t.get (TKC_RESETPC_OFFSET n)) else t) s
  | 3 => s.coresStart
  | _ => s

end Sys2Proof.Machine
end

