-- ==== Sys2Proof/Machine/Power.lean ====
section
/-! DEFINITION. Power: cold boot, supply and its monitor, budget and governor, domains, cores and clocks, the always-on timer, wake
(R59, R100, R343, R393, R428, R429, R442, R462 to R485, R503, R542). -/

namespace Sys2Proof.Machine

open Sys2Proof

/-! ### Cold boot (R59, R486) -/

def State.setPow (s : State) (v : PowerSt) : State := { s with power := v }
def State.setSup (s : State) (v : SupplySt) : State := { s with power := { s.power with sup := v } }

/-- All domains but AON, in the order in which they go down. -/
def downOrder : List Nat := [HST, SNS, APC, MEM, NET, TKD, SEC]

/-- Every domain except AON enters reset. -/
def State.allDown (s : State) (cold : Bool) : State := State.each downOrder (fun d t => t.domDown d .off cold) s

/-- What the boot and flash engines were doing ends; fuses, flash and what the next boot needs to know stay. -/
def bootStopped (b : BootSt) : BootSt :=
  { b with flashCmd := none, cbWrite := none, sections := [], imageRunning := false, unfired := false, booting := false, order := none,
           orderTrial := false, bisqued := false, trained := false, resetWait := none, ctlQueue := [], ctlDone := [], ctlBusy := false }

/-- The secure watchdog starts with full periods (R430, R469). -/
def State.swdStart (s : State) : State :=
  { s with world := { s.world with swdLeft := tabSet (fun _ => 0) (tabSet (fun _ => 0) [] 0 (250000 * s.get SWD_CFG_TA_MS)) 1 (250000 * s.get SWD_CFG_TS_MS) } }

/-- What a cold boot clears apart from registers and domains. -/
def State.coldState (s : State) (cause : Nat) (wake : Bool) : State :=
  { s with mticks := 0, boot := { bootStopped s.boot with booting := true, wakeBoot := wake },
           ldg := LdgSt.init, mem := { s.mem with sherdLost := false }, dbgm := .init,
           power := { s.power with layout := 0, gated := [], cap := [], bootCause := cause } }

/-- A cold boot begins: every domain is reset, AON but for what R486 names and the supply it shows, and the boot ROM runs in SEC
behind its open fence (R60). -/
def State.coldBoot (s : State) (cause : Nat) (wake : Bool) : State :=
  let st := s.rd SUP_STATUS
  let lv := s.rd SUP_LEVELS
  let s := ((s.allDown true).domRegs AON true).resetRegs 0x4F000000 0x50000000
  let s := (((s.wr SUP_STATUS st).wr SUP_LEVELS lv).coldState cause wake).setPower AON .on
  (((s.setDom SEC { s.dom SEC with power := .on, inReset := false }).domWedge SEC).fenceUp SEC).swdStart

/-! ### The supply (R254, R462 to R465, R482 to R485) -/

/-- Set bits in both pages of the supply monitor; each page sends its own MSI (R483). -/
def State.supIrq (s : State) (m : Nat) : State :=
  State.each [0, 1] (fun w t => t.withVec (fun u => u.summary (SUP_W_IRQ_STATUS w) (SUP_W_IRQ_EN w)) (worldOf w) (srcId AON 2) (SUP_W_VEC w)
    (fun u => u.raise ⟨SUP_W_IRQ_STATUS w, 0, 4⟩ m)) s

/-- A SUPPLY record (R254). -/
def State.supplyRec (s : State) (sub lowest us : Nat) : Rec :=
  s.recNow 0 0x30 9 (srcId AON 2) sub
    (packBits [(0, 8, s.get SUP_STATUS_INPUT), (16, 16, lowest), (32, 32, us), (64, 8, s.get PWR_GOV_MODE)])

def State.supRec (s : State) (sub lowest us : Nat) : State := s.ldgAccept (s.supplyRec sub lowest us)

/-- Nominal voltage, 10 mV units, by the code of NOMINAL (R464). -/
def nominal (n : Nat) : Nat := if n == 0 then 1200 else if n == 1 then 2400 else 4800

/-- Code of the nominal voltage of VSUP at `vin`. -/
def vsupNominal (vin : Nat) : Nat := if vin < 1800 then 0 else if vin < 3600 then 1 else 2

/-- Code of the nominal voltage of a PoDL class (log entry 23). -/
def podlNominal (c : Nat) : Nat := if c < 4 then 0 else if c < 8 then 1 else 2

/-- Powered-device power of a PoDL class of IEEE 802.3bu, 0.1 W units (log entry 23). -/
def podlPower (c : Nat) : Nat := [5, 10, 30, 50, 10, 30, 50, 100, 300, 500].getD c 0

/-- An input is taken into use (R462, R464, R482). -/
def State.takeInput (s : State) (podl : Bool) (vin : Nat) : State :=
  let n := if podl then podlNominal s.power.sup.podlClass else vsupNominal vin
  let v := nominal n
  let s := ((s.put SUP_STATUS_INPUT (b2n podl)).put SUP_STATUS_NOMINAL n).put SUP_STATUS_VIN vin
  ((s.put SUP_LEVELS_WARN (v * 80 / 100)).put SUP_LEVELS_RESTORE (v * 84 / 100)).put SUP_LEVELS_RESET (v * 65 / 100)

/-- VSUP rises into its range: above 9.0 V, at or below 60.0 V (R542). -/
def vsupIn (vin : Nat) : Bool := decide (900 < vin) && decide (vin ≤ 6000)

/-- The input now reads `vin`; the lowest of a dip follows it. -/
def State.vinNow (s : State) (vin : Nat) : State :=
  let s := s.put SUP_STATUS_VIN vin
  s.when (s.on SUP_STATUS_DIP) (fun t => t.setSup { t.power.sup with lowest := Nat.min t.power.sup.lowest vin })

/-- Duration of the dip so far in µs. -/
def State.dipUs (s : State) : Nat := (s.ticks - s.power.sup.dipStart) * 4 / 1000

/-- The supply monitor works: supplied, not running on hold-up. -/
def State.supMon (s : State) : Bool := s.outOfReset AON && !s.power.sup.holdup

/-! ### Budget and clocks (R465, R466, R468, R475, R476) -/

/-- The effective budget. -/
def State.effBudget (s : State) : Nat :=
  let b := s.get PWR_GOV_BUDGET
  if s.get SUP_STATUS_INPUT == 1 then Nat.min b (podlPower s.power.sup.podlClass) else b

def State.budgetMode (s : State) : Nat :=
  let e := s.effBudget
  if 300 ≤ e then 0 else if 140 ≤ e then 1 else if 40 ≤ e then 2 else 3

/-- The mode of R466; the Full of a dip never deepens it. -/
def State.targetMode (s : State) : Nat :=
  Nat.max s.budgetMode (Nat.max (s.get PWR_GOV_CEIL) (Nat.min (s.get (PWR_W_MODEREQ_REQ 0)) (s.get (PWR_W_MODEREQ_REQ 1))))

def modeClock (m : Nat) : Nat := if m == 1 then 1200 else 2400

/-- The cap of R468. -/
def State.capOf (s : State) (c : Nat) : Nat := tabGet (fun _ => 2400) s.power.cap c

/-- The clock a cluster may run at (R476). -/
def State.apcLimit (s : State) (c : Nat) : Nat :=
  let plan := rdN (s.sec 15) 6 2
  let own := if c == 0 then Nat.min (s.get (PWR_W_APCCLK_MAX0 0)) (s.get (PWR_W_APCCLK_MAX0 1))
    else Nat.min (s.get (PWR_W_APCCLK_MAX1 0)) (s.get (PWR_W_APCCLK_MAX1 1))
  let l := Nat.min (Nat.min (if plan == 0 then 2400 else plan) (modeClock (s.get PWR_GOV_MODE))) (Nat.min (s.capOf c) own)
  if s.on SUP_STATUS_DIP then Nat.min l 400 else l

def clkFld (c : Nat) : Fld := if c == 0 then PWR_APCCLK_CLK0 else PWR_APCCLK_CLK1

/-- Both cluster clocks at once at their limits: APC leaves reset. -/
def State.clkStart (s : State) : State := State.each [0, 1] (fun c t => t.put (clkFld c) (t.apcLimit c)) s

/-- The clamp of a dip takes hold at its clock (R483). -/
def State.clkClamp (s : State) : State :=
  (State.each [0, 1] (fun c t => t.put (clkFld c) (Nat.min (t.get (clkFld c)) 400)) s).put PWR_APCCLK_CLAMP 1

/-- One step of 100 MHz toward the limit. -/
def State.clkStep (s : State) (c : Nat) : State :=
  let v := s.get (clkFld c)
  let l := s.apcLimit c
  s.put (clkFld c) (if l < v then Nat.max l (v - 100) else Nat.min l (v + 100))

def execApcClockStep (c : Cluster) (s : State) : Ans := .next (if s.outOfReset APC then s.clkStep c.val else s)

/-- The governor compares the 1 ms average with the budget (R468). -/
def State.powerSample (s : State) (draw : Nat) : State :=
  let s := s.put PWR_GOV_DRAW draw
  let e := s.effBudget
  let m := modeClock (s.get PWR_GOV_MODE)
  let step (c : Nat) (t : State) : State :=
    let v := Nat.min (t.capOf c) m
    let v := if e < draw then Nat.max 400 (v - 100) else if draw * 100 < e * 95 then Nat.min m (v + 100) else v
    t.setPow { t.power with cap := tabSet (fun _ => 2400) t.power.cap c v }
  State.each [0, 1] step s

def execGovernorPowerSample (draw : BitVec 10) (s : State) : Ans :=
  .next (if s.outOfReset AON && decide (s.power.layout < 2) && decide (2 ≤ s.get FIRE_STATUS_STAGE) then s.powerSample draw.toNat else s)

/-! ### Domains going down (R341, R370, R393, R442, R503) -/

/-- Watched by the wake controller once NET is down. -/
def State.netArm (s : State) : State :=
  s.setPow { s.power with
    tc10 := (List.range 16).map (fun p => (p, (s.rd (PORT_TC10 p), s.get (PORT_STATUS_TC10 p)))),
    canWake := packBits [(0, 1, s.get (CAN_WAKE_EN 0)), (1, 1, s.get (CAN_WAKE_EN 1))] }

/-- Stores of the application cores have drained and no device store waits (R370, R442). -/
def State.coresDrained (s : State) : Bool :=
  (List.range 8).all (fun h => !(s.hart h).running || ((s.hart h).sb.isEmpty && (s.hart h).dev.isNone))

/-- An orderly power-down of a domain that is powered (R442). -/
def State.domOff (s : State) (d : Nat) : State :=
  if (s.dom d).power == .off then s
  else
    let s := s.when (d == APC) (fun t => State.each (List.range 8) (fun c u => u.l2Drain c) t)
    let s := s.when (d == MEM) (fun t => State.each (t.cpu.slc.map (fun e => e.1)) (fun l u => u.slcEvict (reqMem 0 .secure) l) t)
    let s := s.when (d == NET) State.netArm
    s.domDown d .off false

/-- A debugger emulates the power-down of a domain: it reads off, its clocks are gated, its state is kept (R503). -/
def State.emulOff (s : State) (d : Nat) : State :=
  if (s.dom d).power == .off || (s.dom d).emul then s
  else
    let s := (s.setDom d { s.dom d with emul := true }).put (PWR_DOMSTATE_STATE d) 0
    s.when (d == APC) (fun t => State.each (List.range 8) (fun c u =>
      if u.get (ACC_STATUS_POWER c) == 1 then u.put (ACC_STATUS_POWER c) 2 else u) t)

/-- The clocks of an emulated domain run again; nothing is wedged. -/
def State.emulBack (s : State) (d : Nat) : State :=
  if !(s.dom d).emul then s
  else
    let s := s.setDom d { s.dom d with emul := false }
    let s := s.setPower d (s.dom d).power
    let s := s.when (d == APC) (fun t => State.each (List.range 8) (fun c u =>
      if u.get (ACC_STATUS_POWER c) == 2 && !tabGet (fun _ => false) u.dbgm.coreEmul c then u.put (ACC_STATUS_POWER c) 1 else u) t)
    s.when (d == HST && s.ldg.closed.isSome) State.ldgReopen

/-! ### Which domains are powered (R467, R472, R473) -/

/-- A domain request of R472 stands: a bit of either page whose request is not held for consent. -/
def State.offReq (s : State) (d : Nat) : Bool :=
  bitAt (s.get (PWR_W_DOMREQ_OFF 0)) d ||
    (bitAt (s.get (PWR_W_DOMREQ_OFF 1)) d && (s.world.pmPending.map (fun p => p.1)) != some d)

/-- The mode's column and the standing requests power the domain. -/
def State.domWanted (s : State) (d : Nat) : Bool :=
  s.domPresent d && (decide (s.power.layout < 2) || (s.power.layout == 2 && (d == TKD || d == NET))) && !s.offReq d && (d != APC || !s.offReq MEM)

/-- Bring one domain toward the state wanted of it: power-up begins, power-down begins. -/
def State.domStep (s : State) (d : Nat) : State :=
  let v := s.dom d
  if s.domWanted d then
    if v.emul then s.emulBack d
    else match v.power with
      | .off => s.setPower d .up
      | .down => (s.setPower d .on).when (d == HST) State.ldgReopen
      | _ => s
  else match v.power with
    | .on =>
      if v.emul then s
      else if s.dbgm.active then s.emulOff d
      else (s.setPower d .down).when (d == HST) (fun t => t.closeAsk .powerDown)
    | .up => s.domDown d .off false
    | _ => s

/-- The order in which domains come up (R470); TKD is never in the order of Keep. -/
def upOrder : List Nat := [TKD, MEM, APC, NET, SNS, HST]

/-- Every domain moves toward what is wanted, APC before MEM when going down (R442). -/
def State.domSync (s : State) : State :=
  if s.boot.booting || s.get FIRE_STATUS_STAGE < 2 then s
  else State.each (if s.domWanted MEM then upOrder else [APC, MEM, TKD, NET, SNS, HST]) (fun d t => t.domStep d) s

/-- The boot has ended, so that domains move one by one. -/
def State.booted (s : State) : Bool := !s.boot.booting && decide (2 ≤ s.get FIRE_STATUS_STAGE)

def execDomainPllLock (d : DomId) (s : State) : Ans :=
  .next (if s.booted && (s.dom d.val).power == .up && (s.dom d.val).inReset && (d.val != APC || s.fenceOpen MEM)
    then (s.domUp d.val false).when (d.val == APC) State.clkStart else s)

def execDomainWedgeDone (d : DomId) (s : State) : Ans :=
  .next (if s.booted && (s.dom d.val).power == .up && !(s.dom d.val).inReset
    then ((s.domWedge d.val).fenceUp d.val).domStart d.val else s)

/-- A domain that is going down has quiesced: the ledger is closed, stores have drained, APC is off before MEM. -/
def State.domQuiet (s : State) (d : Nat) : Bool :=
  if d == HST then s.ldg.closing.isNone else if d == APC then s.coresDrained else if d == MEM then (s.dom APC).power == .off else true

def execDomainIsolated (d : DomId) (s : State) : Ans :=
  .next (if (s.dom d.val).power == .down && s.domQuiet d.val then s.domOff d.val else s)

/-! ### The governor (R466, R469 to R471) -/

/-- A mode deeper than the domains' layout waits for the orderly close of the ledger. -/
def State.entering (s : State) : Bool := decide (2 ≤ s.get PWR_GOV_MODE) && decide (s.power.layout < s.get PWR_GOV_MODE)

/-- The mode changes: record and interrupts (R466); an entry begins with the close of the ledger, Full and Reduced differ in
clocks alone. -/
def State.setMode (s : State) (m : Nat) : State :=
  let s := (s.put PWR_STATUS_LASTMODE (s.get PWR_GOV_MODE)).put PWR_GOV_MODE m
  let s := (s.supRec 4 (s.get SUP_STATUS_VIN) 0).supIrq 8
  if s.power.layout < 2 && m < 2 then s.setPow { s.power with layout := m }
  else if s.entering then s.closeAsk .powerDown else s

/-- The mode is computed anew. -/
def State.governNow (s : State) : State :=
  let m := s.targetMode
  if m == s.get PWR_GOV_MODE then s.when s.entering (fun t => t.closeAsk .powerDown) else s.setMode m

/-- The governor acts once the image runs; an entry under way completes first, and Sleep ends by a wake alone (R481). -/
def State.govern (s : State) : State :=
  let s := (s.put PWR_GOV_BMODE s.budgetMode).put PWR_GOV_EFFECTIVE s.effBudget
  if !s.outOfReset AON || !s.booted || s.asleep || s.entering || s.power.sup.holdup then s else s.governNow

/-- The entry into a mode is emulated: a debugger is attached and the budget does not force the mode (R503). -/
def State.emulEntry (s : State) : Bool := s.dbgm.active && decide (s.budgetMode < s.get PWR_GOV_MODE)

/-- SEC is retained: powered, clocks stopped, fence closed (R467). -/
def State.secRetain (s : State) : State := (s.setDom SEC { s.dom SEC with fence := false, emul := false }).setPower SEC .ret

/-- A domain goes down for a mode. -/
def State.modeOff (s : State) (emul : Bool) (d : Nat) : State := if emul then s.emulOff d else s.domOff d

/-- Keep is entered (R469). -/
def State.keepEnter (s : State) : State :=
  let e := s.emulEntry
  let s := (State.each [HST, SNS, APC, MEM] (fun d t => t.modeOff e d) s).secRetain
  (s.setPow { s.power with layout := 2 }).govern

def execKeepEntry (s : State) : Ans :=
  .next (if s.get PWR_GOV_MODE == 2 && s.entering && s.ldg.closing.isNone && s.coresDrained then s.keepEnter else s)

/-! ### The always-on timer (R100, R477 to R479) -/

/-- TKD is ON and domain 0 counts: the timer tracks it. -/
def State.aotTracks (s : State) : Bool := s.timeRuns && s.fenceOpen TKD

/-- An edge of the 32.768 kHz source. -/
def State.aotEdge (s : State) : State :=
  if s.aotTracks then
    let now := s.vt 0
    let s := State.each [1, 2, 3] (fun d t =>
      t.setTdom d { t.tdom d with aotOffset := if t.domEnabled d then some ((t.vt d : Int) - now) else none }) s
    let s := s.setPow { s.power with aot := 2 ^ 32 * now, aotValid := true, aotState := s.syncState 0 }
    (s.put AOT_STATUS_VALID 1).put AOT_STATUS_TRACKING 1
  else
    let s := s.put AOT_STATUS_TRACKING 0
    if s.power.aotValid then s.setPow { s.power with aot := (s.power.aot + s.get AOT_RATE_RATE) % 2 ^ 96 } else s

/-- AON is supplied: the timer goes on counting while `PORST_N` is low (R478). -/
def execAlwaysOnEdge (s : State) : Ans := .next (if s.power.sup.supplied then s.aotEdge else s)

def execAotRateLearn (period : BitVec 48) (s : State) : Ans :=
  .next (if s.outOfReset AON && s.on AOT_STATUS_TRACKING && s.aotTracks && decide (3 ≤ s.syncState 0) && s.on AOT_CTL_LEARN
    then (s.put AOT_RATE_RATE period.toNat).put AOT_STATUS_LEARNED 1 else s)

/-- Sleep is entered: time is recorded at a last edge, DRAM is switched off (R469). -/
def State.sleepEnter (s : State) : State :=
  let e := s.emulEntry
  let s := (State.each [HST, SNS, APC, MEM, NET] (fun d t => t.modeOff e d) s).aotEdge
  let s := State.each [TKD, SEC] (fun d t => t.modeOff e d) s
  let s := s.when (!e) (fun t => { t with mem := { t.mem with bytes := tabDrop t.mem.bytes dramBase dramEnd } })
  s.setPow { s.power with layout := 3 }

def execSleepEntry (s : State) : Ans :=
  .next (if s.get PWR_GOV_MODE == 3 && s.entering && s.ldg.closing.isNone && s.coresDrained then s.sleepEnter else s)

/-- The governor brings domains up from Keep, or ungates those of an emulated entry (R470, R503). -/
def State.keepExit (s : State) : State :=
  let m := s.get PWR_GOV_MODE
  let s := s.setPow { s.power with layout := m }
  let s := if m < 2 then ((s.setDom SEC { s.dom SEC with fence := true, emul := false }).setPower SEC .on).swdStart else s.secRetain
  s.domSync

def execKeepExit (s : State) : Ans :=
  .next (if s.booted && decide (2 ≤ s.power.layout) && decide (s.get PWR_GOV_MODE < s.power.layout) && !s.asleep then s.keepExit else s)

/-- A world writes `PWR_W_MODEREQ`. -/
def execModeRequest (a : Agent) (w : World) (req : BitVec 2) (s : State) : Ans :=
  .next (s.regAccess a true (PWR_W_MODEREQ (worldNum w)) 4 (fun t => (t.put (PWR_W_MODEREQ_REQ (worldNum w)) req.toNat).govern))

/-! ### Wake (R480, R481) -/

/-- A source is watched: in Keep and Sleep, or on the clock of another wake event, while `WAKE_EN` has it. -/
def State.wakeOn (s : State) (b : Nat) : Bool :=
  s.outOfReset AON && !s.power.sup.holdup && !s.power.sup.supplyReset && bitAt (s.rd WAKE_EN) b &&
    ((s.booted && decide (2 ≤ s.get PWR_GOV_MODE)) || s.power.wakeTick == some s.ticks)

/-- A wake event: the cause, both requests at Full, and the governor, or the cold boot that ends Sleep. -/
def State.wake (s : State) (b : Nat) : State :=
  let first := s.get WAKE_CAUSE_FIRST
  let same := s.power.wakeTick == some s.ticks
  let s := s.raise WAKE_CAUSE_CAUSE (2 ^ b)
  let s := s.when (first == 0 || (same && b + 1 < first)) (fun t => t.put WAKE_CAUSE_FIRST (b + 1))
  let s := ((s.setPow { s.power with wakeTick := some s.ticks }).put (PWR_W_MODEREQ_REQ 0) 0).put (PWR_W_MODEREQ_REQ 1) 0
  if s.asleep then s.coldBoot 4 true
  else if s.entering then s.ldgReopen.governNow
  else s.govern

/-- The alarm fires (R479); in Keep and Sleep it is a wake event. -/
def State.alarmFire (s : State) : State :=
  if s.outOfReset AON && s.on AOT_CTL_ALARM_EN && s.power.aotValid && decide (s.rd AOT_ALARM ≤ s.power.aot / 2 ^ 32) then
    let s := (s.put AOT_CTL_ALARM_EN 0).raise AOT_IRQ_STATUS_ALARM 1
    if s.wakeOn 0 then s.wake 0 else s
  else s

def execAotAlarmFire (s : State) : Ans := .next s.alarmFire

/-- The wake detector of a port is armed (R217, R480). -/
def State.tc10Armed (s : State) (p : Nat) : Bool :=
  if s.fenceOpen NET then s.on (PORT_TC10_WAKE_EN p) || s.on (PORT_CFG_UPLINK p)
  else bitAt (tabGet (fun _ => (0, 0)) s.power.tc10 p).1 3 ||
    (List.range 17).find? (fun q => bitAt (rdN (s.sec 13) (4 * q + 3) 1) 0) == some p

def State.canArmed (s : State) (c : Nat) : Bool := if s.fenceOpen NET then s.on (CAN_WAKE_EN c) else bitAt s.power.canWake c

/-- A wake source fires. -/
def State.wakeEvent (s : State) (src : WakeSrc) : State :=
  match src with
  | .alarm => s.alarmFire
  | .podl => if s.wakeOn 1 && s.on SUP_STATUS_PODL_OK && s.get SUP_STATUS_INPUT == 0 then s.wake 1 else s
  | .tc10 p =>
    if s.wakeOn 2 && s.tc10Armed p.val then
      let s := s.when (s.get WAKE_CAUSE_CAUSE / 4 % 2 == 0) (fun t => t.put WAKE_CAUSE_PORT p.val)
      let s := s.when s.asleep (fun t => t.setPow { t.power with tc10Wake := some p.val })
      s.wake 2
    else s
  | .can c => if s.wakeOn (3 + c.val) && s.canArmed c.val then s.wake (3 + c.val) else s
  | .pin n =>
    if s.wakeOn 5 && bitAt (s.get WAKE_EN_PINS) n.val then
      (s.when (s.get WAKE_CAUSE_CAUSE / 32 % 2 == 0) (fun t => t.put WAKE_CAUSE_PIN n.val)).wake 5
    else s
  | .software => s

def execWakeEvent (src : WakeSrc) (s : State) : Ans := .next (s.wakeEvent src)

/-- A write of `WAKE_SWREQ` by a timekeeper core, in Keep only. -/
def State.wakeSw (s : State) (a : Agent) : State :=
  match a with
  | .hart h => if 8 ≤ h.val && h.val < 12 && s.wakeOn 6 && s.get PWR_GOV_MODE == 2 then s.wake 6 else s
  | _ => s

def execWakeSwRequest (a : Agent) (s : State) : Ans := .next (s.regAccess a true WAKE_SWREQ 4 (fun t => t.wakeSw a))

/-! ### Requests for domains, blocks and cores (R428, R429, R472, R474) -/

/-- A refused power or clock request is recorded (R428). -/
def State.pmRefused (s : State) (w : World) (src port d b : Nat) (power consent : Bool) : State :=
  s.sherd kPmRefused .denied (srcId AON 0) w src 0 port (packBits [(0, 8, b), (8, 3, d), (12, 1, b2n power), (13, 1, b2n consent)])

/-- Result of a domain or gate request. -/
def State.pmRes (s : State) (w : World) (st : Status) (pend : Bool) : State :=
  (s.res (PWR_W_RES_STATUS (worldNum w)) st).put (PWR_W_RES_PEND (worldNum w)) (b2n pend)

/-- A domain holds a block that the secure world owns. -/
def State.secureBlocks (s : State) (d : Nat) : Bool :=
  (List.range 256).any (fun b => blockListed (srcId d b) && !s.normalOwned d b)

/-- The secure page of the hand-over controller sets bits and sends its vector (R436). -/
def State.hovIrq (s : State) (w : World) (f : State → State) : State :=
  let n := worldNum w
  s.withVec (fun u => u.summary (HOV_W_IRQ_STATUS n) (HOV_W_IRQ_EN n) || (n == 0 && u.summary HOV_S_IRQ_STATUS HOV_S_IRQ_EN)) w (srcId SEC 4)
    (HOV_W_VEC n) f

/-- The request held for consent, as `HOV_S_PMPEND` shows it. -/
def State.setPending (s : State) (p : Option (Nat × Nat × Nat)) : State :=
  let s := { s with world := { s.world with pmPending := p } }
  match p with
  | some (d, _) => (s.put HOV_S_PMPEND_DOMAIN d).put HOV_S_PMPEND_VALID 1
  | none => s.put HOV_S_PMPEND_VALID 0

def State.domBit (s : State) (w : World) (d v : Nat) : State :=
  s.put (PWR_W_DOMREQ_OFF (worldNum w)) (putBits (s.get (PWR_W_DOMREQ_OFF (worldNum w))) d 1 v)

/-- A world sets the OFF bit of a domain (R472). -/
def State.domOffReq (s : State) (a : Agent) (w : World) (d : Nat) : State :=
  if d == AON || d == SEC then (s.pmRefused w (agentSrc a) (agentPort a) d 0 true false).pmRes w .denied false
  else if w == .normal && s.world.pmPending.isSome then s.pmRes w .unavailable true
  else if w == .normal && s.secureBlocks d then
    (((s.domBit w d 1).setPending (some (d, agentSrc a, agentPort a))).pmRes w .ok true).hovIrq .secure (fun t => t.raise HOV_S_IRQ_STATUS_PM 1)
  else ((s.domBit w d 1).pmRes w .ok false).domSync

/-- A world clears the OFF bit of a domain, or withdraws the request held (R429). -/
def State.domOnReq (s : State) (a : Agent) (w : World) (d : Nat) : State :=
  if d == AON || d == SEC then (s.pmRefused w (agentSrc a) (agentPort a) d 0 true false).pmRes w .denied false
  else if w == .normal && (s.world.pmPending.map (fun p => p.1)) == some d then ((s.setPending none).domBit w d 0).pmRes w .ok false
  else if w == .normal && s.world.pmPending.isSome then s.pmRes w .unavailable true
  else ((s.domBit w d 0).pmRes w .ok false).domSync

def execDomainPowerDownReq (a : Agent) (w : World) (d : DomId) (s : State) : Ans :=
  .next (s.regAccess a true (PWR_W_DOMREQ (worldNum w)) 4 (fun t => t.domOffReq a w d.val))

def execDomainPowerUpReq (a : Agent) (w : World) (d : DomId) (s : State) : Ans :=
  .next (s.regAccess a true (PWR_W_DOMREQ (worldNum w)) 4 (fun t => t.domOnReq a w d.val))

/-- A whole write of `PWR_W_DOMREQ`: the bits that change, lowest first. -/
def State.domReqWrite (s : State) (a : Agent) (w : World) (v : Nat) : State :=
  State.each (List.range 8) (fun d t =>
    let old := bitAt (t.get (PWR_W_DOMREQ_OFF (worldNum w))) d
    if bitAt v d && !old then t.domOffReq a w d else if !bitAt v d && old then t.domOnReq a w d else t) s

/-- A block has no work outstanding (R472). -/
def State.blockIdle (s : State) (d b : Nat) : Bool :=
  if d == AON then b != 4 && b != 5 || (s.boot.burn.isNone && s.boot.flashCmd.isNone && s.boot.cbWrite.isNone)
  else if d == TKD then
    if b == 0 then (List.range 4).all (fun k => (s.tdom k).slew == 0 && (s.tdom k).jumps.isEmpty)
    else if b == 1 then (List.range 16).all (fun n => (s.pin n).pulse.isNone)
    else if b == 2 then s.wheel.live.isEmpty
    else !(s.hart (b + 4)).running && (s.hart (b + 4)).wbuf.isEmpty
  else if d == APC then
    if b < 8 then !(s.hart b).running || ((s.hart b).wfi && (s.hart b).sb.isEmpty && (s.hart b).dev.isNone)
    else if b == 8 then s.get (EPO_STATUS_STATE 0) == 0 && s.get (EPO_STATUS_STATE 1) == 0
    else true
  else if d == MEM then
    if b == 0 then s.mem.remap.isNone else if b == 1 then s.mem.requests == 0 else if b == 2 then s.mem.wedge.isNone
    else if b == 4 || b == 5 then s.cpu.retiring.isEmpty && s.cpu.nacks.isEmpty else true
  else if d == NET then
    if b == 0 then s.sw.parked.isEmpty && s.sw.done.isEmpty && s.sw.queues.all (fun q : Nat × List QFrame => q.2.isEmpty)
    else if within b 2 4 then (tabGet (fun _ => none) s.sw.canTx (b - 2)).isNone
    else if within b 0x10 0x23 then
      (tabGet (fun _ => none) s.sw.tx (b - 0x10)).isNone && s.sw.queues.all (fun q : Nat × List QFrame => q.1 / 8 != b - 0x10 || q.2.isEmpty)
    else true
  else if d == SNS then
    if b == 0 || b == 1 then s.cap.ctx.isEmpty && s.cap.descs.isEmpty
    else if within b 0x10 0x18 then (s.bc (b - 0x10)).isEmpty else true
  else if d == HST then
    if b == 2 then s.ldg.staged.isEmpty && s.ldg.outstanding.isEmpty && s.ldg.closing.isNone && s.ldg.replay.isNone && !s.ldg.resuming
    else if b == 3 then s.casc.mail.isEmpty else true
  else true

/-- A write of `PWR_W_GATE` with GO (R428, R472). A block that the image leaves unpowered stays without clock. -/
def State.gateReq (s : State) (a : Agent) (w : World) (sid : Nat) (gate : Bool) : State :=
  let d := sid / 256 % 8
  let b := sid % 256
  if d == AON || d == SEC then s.pmRes w .denied (s.on (PWR_W_RES_PEND (worldNum w)))
  else if w == .normal && !s.normalOwned d b then
    (s.pmRefused w (agentSrc a) (agentPort a) d b false false).pmRes w .denied (s.on (PWR_W_RES_PEND (worldNum w)))
  else if w == .normal && s.world.pmPending.isSome then s.pmRes w .unavailable true
  else if gate && !s.blockIdle d b then s.pmRes w .unavailable false
  else
    let s := s.when (blockListed sid && !s.blockUnpowered sid) (fun t =>
      t.setPow { t.power with gated := tabSet (fun _ => false) t.power.gated (256 * d + b) gate })
    s.pmRes w .ok false

def execBlockClockGate (a : Agent) (w : World) (block : BitVec 16) (s : State) : Ans :=
  .next (s.regAccess a true (PWR_W_GATE (worldNum w)) 4 (fun t => t.gateReq a w block.toNat true))

def execBlockClockUngate (a : Agent) (w : World) (block : BitVec 16) (s : State) : Ans :=
  .next (s.regAccess a true (PWR_W_GATE (worldNum w)) 4 (fun t => t.gateReq a w block.toNat false))

/-- A core, and the shadow that follows it in a fused pair. -/
def State.corePower (s : State) (c p : Nat) : State :=
  let s := s.put (ACC_STATUS_POWER c) p
  s.when (s.on (LKS_STATUS_FUSED (c / 2))) (fun t => t.put (ACC_STATUS_POWER (c + 1)) p)

/-- A write of `PWR_S_COREa` (R474, R503). -/
def State.coreReq (s : State) (c req : Nat) : State :=
  if s.coreAbsent c || req == 3 then s
  else
    let s := s.put (PWR_S_CORE_REQ c) req
    if req != 0 || s.get (PWR_S_CORE_STATE c) == 0 || !s.outOfReset APC then s
    else if tabGet (fun _ => false) s.dbgm.coreEmul c then
      let s := { s with dbgm := { s.dbgm with coreEmul := tabSet (fun _ => false) s.dbgm.coreEmul c false } }
      ((s.updHart c (fun h => { h with running := true })).corePower c 1).put (PWR_S_CORE_STATE c) 0
    else if s.get (PWR_S_CORE_STATE c) == 1 then (s.updHart c (fun h => { h with running := true })).put (PWR_S_CORE_STATE c) 0
    else ((s.coreStart c).corePower c 1).put (PWR_S_CORE_STATE c) 0

def execCorePowerReq (a : Agent) (c : AppCore) (req : BitVec 2) (s : State) : Ans :=
  .next (s.regAccess a true (PWR_S_CORE c.val) 4 (fun t => t.coreReq c.val req.toNat))

/-- A RETAIN or OFF request is taken: the hart waits in WFI and its stores have drained. -/
def State.coreTransition (s : State) (c : Nat) : State :=
  let h := s.hart c
  let r := s.get (PWR_S_CORE_REQ c)
  let st := s.get (PWR_S_CORE_STATE c)
  if s.coreAbsent c || !s.outOfReset APC || !h.wfi || !h.sb.isEmpty || h.dev.isSome || !decide (st < r) then s
  else if r == 1 then (s.updHart c (fun t => { t with running := false })).put (PWR_S_CORE_STATE c) 1
  else if s.dbgm.active then
    let s := { s with dbgm := { s.dbgm with coreEmul := tabSet (fun _ => false) s.dbgm.coreEmul c true } }
    ((s.updHart c (fun t => { t with running := false })).corePower c 2).put (PWR_S_CORE_STATE c) 2
  else
    let s := (s.l2Drain c).breakLocks (fun o => o == c)
    ((s.setHart c HartSt.init).corePower c 0).put (PWR_S_CORE_STATE c) 2

def execCorePowerTransition (c : AppCore) (s : State) : Ans := .next (s.coreTransition c.val)

/-! ### Events of the supply -/

/-- Supply arrives from nothing (R59, R481, R486, R539): every always-on register is reset, and the boot starts unless `PORST_N` is
low. -/
def State.arrive (s : State) (podl : Bool) (vin : Nat) : State :=
  let s := (s.resetRegs (regBase AON) (regBase SEC)).resetRegs 0x4F000000 0x50000000
  let v : SupplySt := { s.power.sup with supplied := true, restoring := false, holdup := false, supplyReset := false, overVolt := false }
  let s := s.setPow { s.power with sup := v, aot := 0, aotValid := false, riseCause := 0 }
  let s := (s.takeInput podl vin).put (if podl then SUP_STATUS_PODL_OK else SUP_STATUS_VSUP_OK) 1
  if s.power.porst then s.coldBoot 0 false else s

/-- The input in use changes (R462): the record names the new one. -/
def State.switchTo (s : State) (podl : Bool) (vin : Nat) : State :=
  let s := (s.takeInput podl vin).setSup { s.power.sup with overVolt := false }
  ((s.supRec 5 vin 0).supIrq 4).govern

/-- VSUP and PoDL change places. -/
def execInputSwitchover (toPodl : Bool) (vin : Nat) (s : State) : Ans :=
  .next (if !s.outOfReset AON then s
    else if toPodl then
      (if s.get SUP_STATUS_INPUT == 0 && s.on SUP_STATUS_PODL_OK then (s.put SUP_STATUS_VSUP_OK 0).switchTo true vin else s)
    else if s.get SUP_STATUS_INPUT == 1 && vsupIn vin then (s.put SUP_STATUS_VSUP_OK 1).switchTo false vin else s)

/-- PoDL power arrives: it starts an unpowered module, takes over where VSUP is out of range, wakes a module that sleeps on VSUP, and
otherwise is watched (R462, R463, R480). -/
def State.podlArrive (s : State) (vin : Nat) : State :=
  let s := s.setSup { s.power.sup with podlVin := vin }
  if !s.power.sup.supplied then s.arrive true vin
  else
    let s := s.put SUP_STATUS_PODL_OK 1
    if s.get SUP_STATUS_INPUT == 0 && !s.on SUP_STATUS_VSUP_OK then s.switchTo true vin
    else s.wakeEvent .podl

def execPodlPowerArrive (vin : Nat) (s : State) : Ans := .next (s.podlArrive vin)

/-- A dip begins, or its restore count starts anew (R483, R484). -/
def State.dipStart (s : State) (vin : Nat) : State :=
  let s := s.vinNow vin
  if s.on SUP_STATUS_DIP then s.setSup { s.power.sup with restoring := false }
  else
    let s := (s.setSup { s.power.sup with lowest := vin, dipStart := s.ticks, restoring := false }).put SUP_STATUS_DIP 1
    ((s.clkClamp.inc SUP_DIPCNT_DIPS 1).supIrq 1).supRec 1 vin 0

def execDipStart (vin : Nat) (s : State) : Ans :=
  .next (if s.supMon && decide (vin < s.get SUP_LEVELS_WARN) then s.dipStart vin else s)

/-- The dip in force is over: its duration counts. -/
def State.dipOver (s : State) : State :=
  let s := s.put SUP_DIPCNT_LONGEST (Nat.min (Nat.max (s.get SUP_DIPCNT_LONGEST) s.dipUs) (2 ^ 32 - 1))
  ((s.put SUP_STATUS_DIP 0).put PWR_APCCLK_CLAMP 0).setSup { s.power.sup with restoring := false }

def State.dipEnd (s : State) : State :=
  let us := s.dipUs
  let low := s.power.sup.lowest
  (s.dipOver.supIrq 2).supRec 2 low us

def execDipEnd (s : State) : Ans := .next (if s.supMon && s.on SUP_STATUS_DIP && s.power.sup.restoring then s.dipEnd else s)

/-- The input reaches RESTORE: the 1 ms of a dip, or the 10 ms after a reset, begin. -/
def execInputAboveRestore (vin : Nat) (s : State) : Ans :=
  .next (if s.supMon && decide (s.get SUP_LEVELS_RESTORE ≤ vin) && (s.on SUP_STATUS_DIP || s.power.sup.supplyReset)
    then (s.vinNow vin).setSup { (s.vinNow vin).power.sup with restoring := true } else s)

/-- The last gasp (R267): the power-loss record, the block closed with LASTGASP, every other record refused. -/
def State.lastGasp (s : State) (low us : Nat) : State :=
  if !s.runs HST 2 then s
  else match s.ldg.closed, s.ldg.opened with
    | none, some b =>
      let r := s.supplyRec 3 low us
      let b := if b.recs.length < 63 then { b with recs := b.recs ++ [r] } else b
      (s.setLdg { s.ldg with gasp := true, gap := none, closing := none, opened := some b }).ldgClose true
    | _, _ => (s.supRec 3 low us).setLdg { (s.supRec 3 low us).ldg with gasp := true, closing := none }

/-- The input falls below RESET, or is disconnected: the dip ends without its record, and the module runs on hold-up (R485). -/
def State.supplyFall (s : State) (vin : Nat) (cut : Bool) : State :=
  let dip := s.on SUP_STATUS_DIP
  let s := s.vinNow vin
  let low := if dip then s.power.sup.lowest else vin
  let us := if dip then s.dipUs else 0
  let s := s.when dip State.dipOver
  let s := s.setSup { s.power.sup with holdup := true, overVolt := cut, restoring := false }
  s.lastGasp low us

def execSupplyBelowReset (vin : Nat) (s : State) : Ans :=
  .next (if s.supMon && !s.power.sup.supplyReset && decide (vin < s.get SUP_LEVELS_RESET) then s.supplyFall vin false else s)

/-- VSUP leaves its range while no PoDL power is present (R463). -/
def execVsupOutOfRange (above : Bool) (vin : Nat) (s : State) : Ans :=
  .next (if !s.supMon || s.get SUP_STATUS_INPUT != 0 || s.on SUP_STATUS_PODL_OK then s
    else if above then
      (if 6100 < vin && !s.power.sup.supplyReset then (s.put SUP_STATUS_VSUP_OK 0).supplyFall vin true else s)
    else if vin < 870 then (s.put SUP_STATUS_VSUP_OK 0).vinNow vin else s)

/-- Boot stops, and the module is held in reset by the supply. -/
def State.supplyHeld (s : State) : State :=
  { s with boot := bootStopped s.boot, power := { s.power with layout := 0, sup := { s.power.sup with holdup := false, supplyReset := true } } }

/-- The hold-up ends: every domain except AON enters reset; a burn is lost (R65, R485). -/
def State.holdupEnd (s : State) : State :=
  (s.burnLost.allDown false).supplyHeld

def execHoldupEnd (s : State) : Ans := .next (if s.power.sup.holdup then s.holdupEnd else s)

/-- The module leaves the reset of the supply and cold-boots with cause 0. -/
def State.supplyBoot (s : State) : State :=
  (s.setSup { s.power.sup with supplyReset := false, overVolt := false, restoring := false }).coldBoot 0 false

def execResetRecovery (s : State) : Ans :=
  .next (if s.supMon && s.power.sup.supplyReset && s.power.sup.restoring && !s.power.sup.overVolt then s.supplyBoot else s)

def execVsupRangeStable (vin : Nat) (s : State) : Ans :=
  .next (if s.supMon && s.power.sup.supplyReset && s.power.sup.overVolt && vsupIn vin
    then ((s.takeInput false vin).put SUP_STATUS_VSUP_OK 1).supplyBoot else s)

/-- Nothing is supplied: boot, debug module and the always-on timer's valid time are lost. -/
def State.unsupplied (s : State) : State :=
  { s with boot := bootStopped s.boot, dbgm := .init,
           power := { s.power with aotValid := false, layout := 0,
                                   sup := { s.power.sup with supplied := false, holdup := false, supplyReset := false } } }

/-- Below the always-on dropout voltage AON stops and the timer loses valid time (R478, R542). -/
def State.aonDropout (s : State) : State :=
  ((s.burnLost.allDown false).resetRegs (regBase AON) (regBase SEC)).unsupplied

def execAonDropout (s : State) : Ans := .next (if s.power.sup.supplied then s.aonDropout else s)

end Sys2Proof.Machine
end

