-- ==== Sys2Proof/Machine/Worlds.lean ====
section
/-! DEFINITION. The watermark, hand-over of blocks, consent to power requests, and the secure watchdog
(R317, R384, R385, R411 to R414, R422 to R431). -/

namespace Sys2Proof.Machine

open Sys2Proof

/-! ### The watermark (R411 to R413) -/

/-- A saggar range lies below a boundary of `n` steps. -/
def State.saggarBelow (s : State) (n : Nat) : Bool :=
  (List.range 256).any (fun i => s.on (SAG_RNG_ATTR_VALID i) && decide (4096 * s.get (SAG_RNG_PAGE_BASE i) < dramBase + 0x4000000 * n))

/-- A write of `WMK_REQ` with GO. -/
def State.wmkRequest (s : State) (new expect : Nat) : State :=
  let n := s.get WMK_STATUS_N
  let st := firstThat [(s.on WMK_STATUS_BUSY || s.on WDG_RES_BUSY, .unavailable), (decide (224 < new) || new == n, .denied),
    (decide (n < new) && s.saggarBelow new, .denied), (expect != n, .tooLate)] .ok
  if st != .ok then s.res WMK_STATUS_RESULT st
  else
    let (s, st) := s.coneStart 0 (s.coneSteps 0) 0 .watermark
    let s := s.res WMK_STATUS_RESULT st
    if st != .ok then s
    else
      let s := { s with world := { s.world with wmk := some ⟨n, new, false⟩ } }
      (s.put WMK_STATUS_TARGET new).put WMK_STATUS_BUSY 1

def execWatermarkChange (a : Agent) (new expect : BitVec 8) (s : State) : Ans :=
  .next (s.regAccess a true WMK_REQ 4 (fun t => t.wmkRequest new.toNat expect.toNat))

/-- First byte of step `n` of the watermark. -/
def wmkAddr (n : Nat) : Nat := dramBase + 0x4000000 * n

/-- The burn of a watermark change is complete: a lowering closes its range and wedges it, a raise takes effect and copies of the
range are written back and invalidated. -/
def State.wmkBurnt (s : State) : State :=
  match s.world.wmk with
  | none => s
  | some w =>
    let s := { s with world := { s.world with wmk := some { w with burnt := true } } }
    if w.new < w.old then (s.put WMK_STATUS_CLOSED 1).wedgeStart (wmkAddr w.new) (0x4000 * (w.old - w.new)) false true
    else State.each (s.cachedLines (wmkAddr w.old) (wmkAddr w.new)) (fun l t => t.flushCopies (reqMem 0 .secure) l) (s.put WMK_STATUS_N w.new)

/-- A watermark change ends. -/
def State.wmkEnd (s : State) (n : Nat) : State :=
  let s := { s with world := { s.world with wmk := none } }
  (((s.put WMK_STATUS_N n).put WMK_STATUS_CLOSED 0).put WMK_STATUS_BUSY 0).raise WMK_IRQ_STATUS_DONE 1

/-- A wedge finishes its range; one of the watermark unit ends the lowering (R385, R412). -/
def execWedgeDone (s : State) : Ans :=
  .next (match s.mem.wedge with
    | none => s
    | some j =>
      if !s.runs MEM 2 then s
      else
        let s := s.wedgeFill j
        match s.world.wmk, j.forWmk with
        | some w, true => s.wmkEnd w.new
        | _, _ => s)

def execWatermarkRaiseDone (s : State) : Ans :=
  .next (match s.world.wmk with
    | some w => if w.burnt && decide (w.old < w.new) then s.wmkEnd w.new else s
    | none => s)

/-! ### Hand-over: requests (R422 to R424) -/

/-- A block that is never handed over (R422). -/
def hovExcluded (d b : Nat) : Bool :=
  d == SEC || (d == AON && (b == 4 || b == 5 || 0xF0 ≤ b)) || (d == APC && (b < 8 || 0x10 ≤ b))

/-- The code of STATE (R436). -/
def hovCode : HovState → Nat
  | .idle => 0 | .requested => 1 | .quiescing => 2 | .resetting => 3 | .reassigning => 4

/-- The page of world `n` shows the block of a hand-over. -/
def State.hovShows (s : State) (n : Nat) (h : HovReq) : Bool :=
  let sid := s.get (HOV_W_RES_BLOCK n)
  sid / 256 == h.dom && hovBlk h.dom (sid % 256) == h.blk

/-- Change the stage of a hand-over, here and where a page shows it. -/
def State.hovStage (s : State) (h : HovReq) (st : HovState) : State :=
  let s := { s with world := { s.world with hov := s.world.hov.map (fun k => if k == h then { h with stage := st } else k) } }
  State.each [0, 1] (fun n t => if t.hovShows n h && (worldNum h.req == n || t.get (HOV_W_RES_STATE n) != 0) then t.put (HOV_W_RES_STATE n) (hovCode st) else t) s

/-- A hand-over is over: the result in each page that shows it, DONE in the requester's page. -/
def State.hovOver (s : State) (h : HovReq) (st : Status) (withdrawn : Bool) (dur : Nat) : State :=
  let s := { s with world := { s.world with hov := s.world.hov.filter (fun k => k != h) } }
  State.each [0, 1] (fun n t =>
    let shown := t.hovShows n h && t.get (HOV_W_RES_STATE n) != 0
    let t := t.when shown (fun u => (((u.res (HOV_W_RES_STATUS n) st).put (HOV_W_RES_STATE n) 0).put (HOV_W_RES_WITHDRAWN n) (b2n withdrawn)).put
      (HOV_W_RES_DURATION n) dur)
    if shown || worldNum h.req == n then t.hovIrq (worldOf n) (fun u => u.raise (HOV_W_IRQ_STATUS_DONE n) 1) else t) s

/-- A HANDOVER record (R254). -/
def State.hovRec (s : State) (h : HovReq) (st : Status) (dur : Nat) : State :=
  s.ldgAccept (s.recNow 0 0x32 12 (srcId SEC 4) 0
    (packBits [(0, 16, srcId h.dom h.blk), (16, 8, worldNum (otherWorld h.dst)), (24, 8, worldNum h.dst), (32, 8, st8 st), (64, 32, dur)]))

/-- ns since the request. -/
def State.hovDur (s : State) (h : HovReq) : Nat := (s.ticks - h.start) * 4

/-- RUN of a timekeeper is written 0 (R290): its write buffer completes, a fabric load is discarded, its registers become 0; its locks
are withdrawn (R445). -/
def State.tkStop (s : State) (n : Nat) : State :=
  let h := s.hart (8 + n)
  ((s.setHart (8 + n) { HartSt.init with wbuf := h.wbuf.map (fun d => { d with orphan := true }) }).put (TKC_CTL_RUN n) 0).breakLocks (fun o => o == 8 + n)

/-- QUIESCING begins (R425). -/
def State.hovQuiesce (s : State) (h : HovReq) : State :=
  let s := s.hovStage h .quiescing
  let d := h.dom
  let b := h.blk
  if d == SNS && 0x10 ≤ b then (State.each (s.bc (b - 0x10)) (fun c t => t.bcEnd (b - 0x10) c .unavailable 0) s).setBc (b - 0x10) []
  else if d == SNS then
    State.each ((List.range 64).filter (fun n => (s.slice n).key.isSome)) (fun n t => t.sliceStartReset n false) s
  else if d == HST && b == 2 then s.closeAsk .handover
  else if d == TKD && 4 ≤ b then s.tkStop (b - 4)
  else s

/-- `HOV_S_PEND`. -/
def State.hovPend (s : State) (v : Option Nat) : State :=
  match v with
  | some sid => (s.put HOV_S_PEND_BLOCK sid).put HOV_S_PEND_VALID 1
  | none => s.put HOV_S_PEND_VALID 0

/-- A write of `HOV_W_REQ` with GO. -/
def State.hovRequest (s : State) (w : World) (sid : Nat) : State :=
  let n := worldNum w
  let d := sid / 256
  let b := hovBlk d (sid % 256)
  let give := s.owner d (blkFirst d (sid % 256)) == w
  let cur := s.world.hov.find? (fun h => h.dom == d && h.blk == b)
  let joins := w == .secure && give && (match cur with | some h => h.stage == .requested | none => false)
  let taken := w == .normal && !give && s.world.hov.any (fun h => h.stage == .requested)
  let st := firstThat [(decide (8 ≤ d) || !blockListed sid || hovExcluded d b || !s.domPresent d, .denied),
    ((cur.isSome && !joins) || taken, .unavailable), (!s.outOfReset d, .fenced)] .ok
  let s := ((s.res (HOV_W_RES_STATUS n) st).put (HOV_W_RES_BLOCK n) sid).put (HOV_W_RES_WITHDRAWN n) 0
  let s := s.put (HOV_W_RES_STATE n) 0
  if st != .ok then s
  else match cur with
    | some h => ((s.hovPend none).put (HOV_W_RES_STATE n) 2).hovQuiesce h
    | none =>
      let wait := w == .normal && !give
      let h : HovReq := ⟨d, b, w, if give then otherWorld w else w, if wait then .requested else .quiescing, s.ticks⟩
      let s := { s with world := { s.world with hov := s.world.hov ++ [h] } }
      if wait then ((s.hovStage h .requested).hovPend (some sid)).hovIrq .secure (fun t => t.raise HOV_S_IRQ_STATUS_TAKE 1)
      else s.hovQuiesce h

def execHandoverRequest (a : Agent) (w : World) (block : BitVec 16) (s : State) : Ans :=
  .next (s.regAccess a true (HOV_W_REQ (worldNum w)) 4 (fun t => t.hovRequest w block.toNat))

/-- The take that waits for consent. -/
def State.hovWaiting (s : State) : Option HovReq := s.world.hov.find? (fun h => h.stage == .requested)

/-- WITHDRAW: it comes too late when nothing of the page waits. -/
def State.hovWithdraw (s : State) (w : World) : State :=
  match s.world.hov.find? (fun h => h.stage == .requested && h.req == w) with
  | some h => (s.hovPend none).hovOver h .ok true 0
  | none => s.res (HOV_W_RES_STATUS (worldNum w)) .tooLate

def execHandoverWithdraw (a : Agent) (w : World) (s : State) : Ans :=
  .next (s.regAccess a true (HOV_W_REQ (worldNum w)) 4 (fun t => t.hovWithdraw w))

/-- A write of `HOV_S_CONSENT`; with both bits set the grant is taken. -/
def State.hovConsent (s : State) (grant refuse : Bool) : State :=
  match s.hovWaiting with
  | none => s
  | some h =>
    if grant then (s.hovPend none).hovQuiesce h
    else if refuse then (((s.hovPend none).hovRec h .denied (s.hovDur h)).hovOver h .denied false 0)
    else s

def execHandoverGrant (a : Agent) (s : State) : Ans := .next (s.regAccess a true HOV_S_CONSENT 4 (fun t => t.hovConsent true false))
def execHandoverRefuse (a : Agent) (s : State) : Ans := .next (s.regAccess a true HOV_S_CONSENT 4 (fun t => t.hovConsent false true))

/-! ### Hand-over: block reset (R425) -/

/-- The windows of a block as a hand-over resets it: first address and the one beyond. -/
def hovWindow (d b : Nat) : Nat × Nat :=
  let n := if d == SNS && b == 0 then 4 else 1
  (regBase d + 0x10000 * b, regBase d + 0x10000 * (b + n))

/-- Registers that show what a block reset does not touch: links kept up, the supply and power in force, time (R425). -/
def hovKept (d b : Nat) : List Nat :=
  if d == AON then [PWR_GOV, PWR_STATUS, PWR_DOMSTATE, PWR_APCCLK, SUP_STATUS, SUP_LEVELS, AOT_STATUS]
  else if d == TKD && b == 0 then
    [VT_STATUS, VT_LASTJ_INFO] ++ (List.range 4).flatMap (fun k => [VT_DSEQ k, DISC_RATE k, DISC_STATUS k, DISC_REMAIN k])
  else if d == NET && 0x10 ≤ b then [PORT_STATUS (b - 0x10)]
  else if d == SNS && 0x10 ≤ b then [CAM_LINK (b - 0x10)]
  else []

/-- The block's registers return to their reset values, those of the image included. -/
def State.hovRegs (s : State) (d b : Nat) : State :=
  let (lo, hi) := hovWindow d b
  let kept := (hovKept d b).filter (fun a => within a lo hi)
  let t := s.resetRegs lo hi
  let loaded := ((s.resetRegs lo hi).domLoad d true).regs.filter (fun e => within e.1 lo hi)
  let t := State.each loaded (fun e u => u.wr e.1 e.2.toNat) t
  State.each kept (fun a u => u.wr a (s.rd a)) t

/-- Engines and arrays of the block. -/
def State.hovEngine (s : State) (d b : Nat) : State :=
  if d == TKD then
    if b == 0 then s.ptpSelectAll
    else if b == 1 then { s with time := { s.time with pins := [] } }
    else if b == 2 then { s with wheel := WheelSt.init }
    else
      let n := b - 4
      (s.setHart (8 + n) HartSt.init).wedgeArray (itcmBase n) (itcmBase n + 0x80000)
  else if d == APC then
    if b == 8 then (({ s with guard := { s.guard with epoch := [] } }).epochStart 0).epochStart 1
    else if b == 9 then { s with guard := { s.guard with inject := [] } } else s
  else if d == MEM then
    if b == 0 then { s with mem := { s.mem with remap := none, scrubLine := 0 } }
    else if b == 1 then { s with mem := { s.mem with requests := 0, grant := none, credit := [], swapFresh := false } }
    else if b == 2 then { s with mem := { s.mem with wedge := none } }
    else if b == 3 then { s with mem := { s.mem with sherd := [], sherdNext := 0, sherdLatch := 0, craze := [], crazeAge := 0 } }
    else State.each (s.cachedLines dramBase dramEnd) (fun l t => t.flushCopies (reqMem 0 .secure) l) s
  else if d == NET then
    if b == 0 then
      let s := State.each s.sw.released (fun r t => t.wheelFinish r.entry .fenced false (t.vt 0)) s
      { s with sw := { s.sw with fdb := [], vlan := [], queues := [], parked := [], released := [], done := [], meters := [], frer := [],
                                 lastLaunch := none } }
    else if within b 2 4 then
      { s with sw := { s.sw with canTx := tabSet (fun _ => none) s.sw.canTx (b - 2) none, canStop := tabSet (fun _ => false) s.sw.canStop (b - 2) false } }
    else if 0x10 ≤ b then
      let p := b - 0x10
      let s := s.unparkAll p .fenced
      { s with sw := { s.sw with queues := s.sw.queues.filter (fun q : Nat × List QFrame => q.1 / 8 != p), gcl := s.sw.gcl.filter (fun g : Nat × GclSt => g.1 != p),
                                 credit := s.sw.credit.filter (fun q : Nat × (Int × Nat) => q.1 / 8 != p), tx := tabSet (fun _ => none) s.sw.tx p none } }
    else s
  else if d == SNS then
    if b == 0 then
      { s with cap := CapSt.init, slices := [], regs := tabDrop s.regs 0x100000000000 0x100000040000,
               staged := tabDrop s.staged 0x100000000000 0x100000040000, latch := tabDrop s.latch 0x100000000000 0x100000040000 }
    else { s with sw := { s.sw with bc := tabSet (fun _ => []) s.sw.bc (b - 0x10) [], gpio := tabSet (fun _ => 0) s.sw.gpio (b - 0x10) 0 } }
  else if d == HST then
    if b == 2 then
      { s with ldg := { LdgSt.init with resumedOnce := s.ldg.resumedOnce, closed := s.ldg.closed, ringlen := s.ldg.ringlen } }
    else if b == 3 then { s with casc := CascadeSt.init }
    else if b == 0 then { s with pcieLink := false } else s
  else s

/-- Engines first, since they still speak through the registers; then the registers. -/
def State.hovReset (s : State) (d b : Nat) : State := (s.hovEngine d b).hovRegs d b

/-- The hand-over of a block in a given stage. -/
def State.hovAt (s : State) (d b : Nat) (st : HovState) : Option HovReq :=
  s.world.hov.find? (fun h => h.dom == d && h.blk == hovBlk d b && h.stage == st)

def execQuiesceEnd (dom : DomId) (blk : BitVec 8) (s : State) : Ans :=
  .next (match s.hovAt dom.val blk.toNat .quiescing with
    | some h => (s.hovStage h .resetting).hovReset h.dom h.blk
    | none => s)

def execBlockResetComplete (dom : DomId) (blk : BitVec 8) (s : State) : Ans :=
  .next (match s.hovAt dom.val blk.toNat .resetting with
    | some h => s.hovStage h .reassigning
    | none => s)

/-! ### Hand-over: the grant (R317, R424, R429) -/

/-- Block `b` of domain `d` changes owner: its bit, and its wired sources (R317). -/
def State.setOwner (s : State) (d b : Nat) (w : World) : State :=
  let s := s.put (HOV_OWN_NORMAL d (b / 64)) (putBits (s.get (HOV_OWN_NORMAL d (b / 64))) (b % 64) 1 (worldNum w))
  State.each ((List.range 73).filter (fun i => sourceExists i && sourceBlock i == (d, b))) (fun i t => t.sourceMove i) s

/-- A held power-down request goes on once no block of its domain is secure-owned. -/
def State.pmProceed (s : State) : State :=
  match s.world.pmPending with
  | none => s
  | some _ => ((s.setPending none).pmRes .normal .ok false).domSync

def State.hovGrant (s : State) (h : HovReq) : State :=
  let bs := if h.dom == SNS && h.blk == 0 then [0, 1, 2, 3] else [h.blk]
  let dur := s.hovDur h
  let s := State.each bs (fun b t => t.setOwner h.dom b h.dst) s
  let s := (s.hovRec h .ok dur).hovOver h .ok false dur
  match s.world.pmPending with
  | some (d, _) => if d == h.dom && !s.secureBlocks d then s.pmProceed else s
  | none => s

def execHandoverReassign (dom : DomId) (blk : BitVec 8) (s : State) : Ans :=
  .next (match s.hovAt dom.val blk.toNat .reassigning with
    | some h => s.hovGrant h
    | none => s)

/-! ### Consent to power requests (R429) -/

/-- A write of `HOV_S_PMCONSENT`; with both bits set the grant is taken. -/
def State.pmConsent (s : State) (grant refuse : Bool) : State :=
  match s.world.pmPending with
  | none => s
  | some (d, src, port) =>
    if grant then s.pmProceed
    else if refuse then (((s.setPending none).domBit .normal d 0).pmRefused .normal src port d 0 true true).pmRes .normal .denied false
    else s

def execPmConsentGrant (a : Agent) (s : State) : Ans := .next (s.regAccess a true HOV_S_PMCONSENT 4 (fun t => t.pmConsent true false))
def execPmConsentRefuse (a : Agent) (s : State) : Ans := .next (s.regAccess a true HOV_S_PMCONSENT 4 (fun t => t.pmConsent false true))

/-! ### The secure watchdog (R430, R431) -/

/-- Period of a class in ms. -/
def State.swdMs (s : State) (c : Nat) : Nat := s.get (if c == 0 then SWD_CFG_TA_MS else SWD_CFG_TS_MS)

/-- A class starts a full period. -/
def State.swdArm (s : State) (c : Nat) : State :=
  { s with world := { s.world with swdLeft := tabSet (fun _ => 0) s.world.swdLeft c (250000 * s.swdMs c) } }

/-- REMAIN_MS of a class. -/
def State.swdRemain (s : State) (c : Nat) : Nat := (tabGet (fun _ => 0) s.world.swdLeft c + 249999) / 250000

/-- A write of `SWD_KICKc`: NEXT restarts the class, and one of class 1 ends TSDOWN. An expiry of the same clock wins. -/
def State.swdKick (s : State) (c seq : Nat) : State :=
  if tabGet (fun _ => none) s.world.swdExp c == some s.ticks then s.res (SWD_CLS_RESULT c) .tooLate
  else if seq == s.get (SWD_CLS_NEXT c) then
    let s := ((s.put (SWD_CLS_NEXT c) (seq + 1)).res (SWD_CLS_RESULT c) .ok).swdArm c
    s.when (c == 1) (fun t => (t.put SWD_STATUS_TSDOWN 0).put SWD_STATUS_TSEXP 0)
  else s.res (SWD_CLS_RESULT c) .stale

def execSwdKick (a : Agent) (c : Fin 2) (seq : BitVec 16) (s : State) : Ans :=
  .next (s.regAccess a true (SWD_KICK c.val) 4 (fun t => t.swdKick c.val seq.toNat))

def execSwdWarn (c : Fin 2) (s : State) : Ans := .next (if s.swdRuns then s.raise SWD_IRQ_STATUS_WARN (2 ^ c.val) else s)

/-- A class expires on this clock. -/
def State.swdExpired (s : State) (c : Nat) : State :=
  { s with world := { s.world with swdExp := tabSet (fun _ => none) s.world.swdExp c (some s.ticks) } }

/-- A WATCHDOG sherd entry: class, action, consecutive expiries of class 1. -/
def State.swdSherd (s : State) (c act : Nat) : State :=
  s.sherd kWatchdog .ok (srcId SEC 5) .secure 0xFFFF 0 0xF (packBits [(0, 1, c), (1, 1, act), (8, 8, s.get SWD_STATUS_TSEXP)])

/-- Class 0 expires: the chip resets once a burn and the orderly close are complete. -/
def execSwdClass0Expire (s : State) : Ans :=
  .next (if s.swdRuns && s.boot.resetWait.isNone then
      let s := ((s.swdExpired 0).swdSherd 0 1).closeAsk .reset
      { s with boot := { s.boot with resetWait := some 3 } }
    else s)

/-- Class 1 expires: the warden core restarts with its memory kept. -/
def execSwdClass1Expire (s : State) : Ans :=
  .next (if s.swdRuns then
      let s := s.put SWD_STATUS_TSEXP (Nat.min 255 (s.get SWD_STATUS_TSEXP + 1))
      let s := ((s.swdExpired 1).swdSherd 1 0).put SWD_STATUS_TSDOWN 1
      let s := (s.raise SWD_IRQ_STATUS_TSEXP 1).swdArm 1
      (s.breakLocks (fun o => o == 12)).when s.boot.imageRunning State.wardenStart
    else s)

end Sys2Proof.Machine
end

