-- ==== Sys2Proof/Machine/Boot.lean ====
section
/-! DEFINITION. Boot: what starts it, the boot ROM, the bisque and glost stages, the firing image status block and the boot flash
(R53 to R61, R66, R68, R69, R101, R538, R539). -/

namespace Sys2Proof.Machine

open Sys2Proof

def State.setBoot (s : State) (v : BootSt) : State := { s with boot := v }

/-- Store a byte string in memory. -/
def State.putBytes (s : State) (a : Nat) (bs : List Byte) : State :=
  { s with mem := { s.mem with bytes :=
      (List.range bs.length).foldl (fun t i => tabSet (fun _ => 0) t (a + i) (bs.getD i 0)) (tabDrop s.mem.bytes a (a + bs.length)) } }

/-! ### What starts a boot (R59, R66, R538, R539) -/

/-- Supply arrives from nothing. Below the range of R542 nothing starts. -/
def execSupplyArrival (vin : Nat) (cid : BitVec 2) (s : State) : Ans :=
  .next (if s.power.sup.supplied || !vsupIn vin then s else ({ s with power := { s.power with cid := cid.toNat } }).arrive false vin)

/-- Boot stops and `PORST_N` is low. -/
def State.porstHeld (s : State) : State :=
  { s with boot := bootStopped s.boot,
           power := { s.power with porst := false, layout := 0, riseCause := b2n s.power.sup.supplied,
                                   sup := { s.power.sup with holdup := false, supplyReset := false } } }

/-- `PORST_N` falls: every domain is held in reset; the timer, its alarm, `WAKE_CAUSE`, `SUP_DIPCNT` and the retention storage stay. -/
def State.porstFall (s : State) : State :=
  let st := s.rd SUP_STATUS
  let lv := s.rd SUP_LEVELS
  ((((s.burnLost.allDown false).domRegs AON true).wr SUP_STATUS st).wr SUP_LEVELS lv).porstHeld

def execPorstNFall (s : State) : Ans := .next (if s.power.porst then s.porstFall else s)

/-- `PORST_N` rises: the straps are latched; with supply present the boot begins. -/
def State.porstRise (s : State) (cid : Nat) : State :=
  let s := { s with power := { s.power with porst := true, cid := cid } }
  if s.power.sup.supplied then s.coldBoot s.power.riseCause false else s

def execPorstNRise (cid : BitVec 2) (s : State) : Ans := .next (if s.power.porst then s else s.porstRise cid.toNat)

/-- A REBOOT or a chip reset of the watchdog takes effect: no burn runs and the ledger has closed (R66, R431). -/
def execChipReset (s : State) : Ans :=
  .next (match s.boot.resetWait with
    | some cause => if s.outOfReset AON && s.boot.burn.isNone && s.ldg.closing.isNone then s.coldBoot cause false else s
    | none => s)

/-! ### Control blocks (R54) -/

/-- A control block: copy, SEQ, ACTIVE, TRIAL, TRIES. -/
structure CtlBlock where
  copy : Nat
  seq : Nat
  active : Nat
  trial : Nat
  tries : Nat
  deriving DecidableEq, Repr

/-- A copy, if it is good. -/
def State.ctlCopy (s : State) (k : Nat) : Option CtlBlock :=
  let b := s.flashRead (0x1000 * k) 12
  let c : CtlBlock := ⟨k, rdN b 0 4, rdN b 4 1, rdN b 5 1, rdN b 6 1⟩
  if rdN b 8 4 == crc32 (b.take 8) && c.active ≤ 1 && c.trial ≤ 1 then some c else none

/-- The copy in use. -/
def State.ctlInUse (s : State) : Option CtlBlock :=
  match s.ctlCopy 0, s.ctlCopy 1 with
  | some a, some b => if a.seq < b.seq then some b else some a
  | some a, none => some a
  | none, b => b

/-- The write that follows: the copy not in use, SEQ one above. -/
def State.ctlNext (s : State) (active trial tries : Nat) (commit : Bool) : CbWrite :=
  match s.ctlInUse with
  | some c => ⟨1 - c.copy, (c.seq + 1) % 2 ^ 32, active, trial, tries, commit⟩
  | none => ⟨0, 1, active, trial, tries, commit⟩

/-- The bytes of a control block. -/
def ctlBytes (w : CbWrite) : List Byte :=
  let b := leBytes 8 (packBits [(0, 32, w.seq), (32, 8, w.active), (40, 8, w.trial), (48, 8, w.tries)])
  b ++ leBytes 4 (crc32 b)

/-- A control block is in flash. -/
def State.ctlPut (s : State) (w : CbWrite) : State :=
  let lo := 0x1000 * w.copy
  (s.setBoot { s.boot with flash := tabDrop s.boot.flash lo (lo + 0x1000) }).flashPut lo (ctlBytes w)

/-! ### The boot ROM (R55, R56, R58, R65) -/

/-- The order of R55: the slots, and whether the first is on trial; TRIES is written back before the trial. -/
def State.slotOrder (s : State) : State × List Nat × Bool :=
  if s.boot.wakeBoot then (s, [s.boot.lastSlot, 1 - s.boot.lastSlot], s.boot.lastTrial)
  else match s.ctlInUse with
    | none => (s, [0, 1], false)
    | some c =>
      if c.trial == 1 && c.tries != 0 then (s.ctlPut (s.ctlNext c.active c.trial (c.tries - 1) false), [1 - c.active, c.active], true)
      else (s, [c.active, 1 - c.active], false)

/-- The image of slot `k` boots; it stays in the top 1 MiB of secure SRAM. -/
def State.imageTaken (s : State) (k : Nat) (first trial : Bool) (rest : List Nat) : State :=
  let img := s.slotBytes k
  let digest := imgDigest img
  let s := s.putBytes 0x10300000 img
  let s := s.setBoot { s.boot with sections := imgSections img, imageRunning := true, order := some rest, orderTrial := trial }
  let s := ((s.put FIRE_STATUS_SLOT k).put FIRE_STATUS_TRIAL (b2n trial)).put FIRE_STATUS_FALLBACK (b2n (!first))
  let s := ((s.put FIRE_STATUS_PROVISIONAL (b2n (s.coneSteps 4 == 0))).put FIRE_STATUS_ROLLBACK (imgRollback img)).put FIRE_IMGVER_IMGVER (rdN img 8 4)
  (State.each (List.range 6) (fun i t => t.wr (FIRE_HASH i) (rdN digest (8 * i) 8)) s).put FIRE_STATUS_STAGE 1

/-- Try the slots in order; `first` says that the head of the list is the first of R55's order. -/
def State.trySlots (bad : Nat → Bool) (trial : Bool) : List Nat → Bool → State → State
  | [], _, s => s.setBoot { s.boot with unfired := true, booting := false, order := some [] }
  | k :: r, first, s =>
    let why := s.imageReason (s.slotBytes k) (bad k)
    if why == 0 then s.imageTaken k first (trial && first) r
    else State.trySlots bad trial r false (s.put FIRE_STATUS_REASON why)

/-- The boot ROM chooses the order, recovers the burn record, and boots the first image that passes. After a failed training the slot
that is left is tried. -/
def State.romSelect (s : State) (badA badB : Bool) : State :=
  let bad (k : Nat) : Bool := if k == 0 then badA else badB
  match s.boot.order with
  | some l => State.trySlots bad false l false s
  | none =>
    let s := s.setBoot { s.boot with fuses := { s.boot.fuses with record := burnRecovered s.boot.fuses } }
    let (s, l, trial) := s.slotOrder
    State.trySlots bad trial l true s

def execBootRomImageSelect (badA badB : Bool) (s : State) : Ans :=
  .next (if s.boot.booting && !s.boot.imageRunning && s.fenceOpen SEC then s.romSelect badA badB else s)

/-! ### Bisque (R60, R472, R475) -/

/-- The governor's registers and the blocks left without clock. -/
def State.loadPower (s : State) : State :=
  let b := s.sec 16
  let budget := if b.isEmpty then 300 else rdN b 0 2
  let s := (s.put PWR_GOV_BUDGET budget).put PWR_GOV_CEIL (rdN b 2 1)
  let s := (s.put PWR_GOV_EFFECTIVE s.effBudget).put PWR_GOV_BMODE s.budgetMode
  let off := (List.range ((s.sec 1).length / 2 - 4)).map (fun i => rdN (s.sec 1) (8 + 2 * i) 2)
  s.setPow { s.power with gated := off.foldl (fun t sid => tabSet (fun _ => false) t sid true) s.power.gated }

/-- Structure is applied: ownership and saggars, then every present domain leaves reset behind its closed fence. -/
def State.bisque (s : State) : State :=
  let s := (s.domLoad SEC true).loadPower
  let s := State.each ([TKD, APC, MEM, NET, SNS, HST].filter (fun d => s.domPresent d)) (fun d t => t.domUp d true) s
  let s := s.clkStart
  s.setBoot { s.boot with bisqued := true, load := s.stampNow 0 0 }

def execBisqueApply (s : State) : Ans :=
  .next (if s.boot.booting && s.boot.imageRunning && !s.boot.bisqued then s.bisque else s)

/-- The image no longer runs, and no block is left without clock. -/
def State.imageUndone (s : State) : State :=
  { s with boot := { s.boot with imageRunning := false, bisqued := false, sections := [] }, power := { s.power with gated := [] } }

/-- DRAM training fails: the image is refused with REASON 10, and what it applied is undone. -/
def State.trainFail (s : State) : State :=
  let s := State.each [HST, SNS, APC, MEM, NET, TKD] (fun d t => t.domDown d .off true) s
  let s := (s.resetRegs (HOV_OWN 0 0) (HOV_OWN 7 3 + 8)).resetRegs SAG_STATUS (SAG_STATUS + 0x10000)
  (s.imageUndone.wr FIRE_STATUS 0).put FIRE_STATUS_REASON 10

/-- Training ends; the slot has booted once its DRAM works. -/
def execDramTrainingDone (ok : Bool) (s : State) : Ans :=
  .next (if s.boot.booting && s.boot.bisqued && !s.boot.trained then
      (if ok then s.setBoot { s.boot with trained := true, lastSlot := s.get FIRE_STATUS_SLOT, lastTrial := s.on FIRE_STATUS_TRIAL }
       else s.trainFail)
    else s)

/-- The ports to which a wake-up pulse received in Sleep is forwarded wake once NET is up (R239). -/
def State.tc10Forward (s : State) : State :=
  match s.power.tc10Wake with
  | none => s
  | some p =>
    let copy (q : Nat) : Nat × Nat := tabGet (fun _ => (0, 0)) s.power.tc10 q
    let s := s.setPow { s.power with tc10Wake := none }
    if !s.fenceOpen NET then s
    else
      let s := (s.put (PORT_STATUS_TC10 p) 3).raise (PORT_IRQ_STATUS_WAKE p) 1
      State.each ((List.range 16).filter (fun q => q != p && bitAt (copy p).1 (4 + q) && (copy q).2 == 2)) (fun q t => t.put (PORT_STATUS_TC10 q) 3) s

/-- All DRAM and the SRAM of every present domain are wedged; fences open and structure is locked. -/
def State.bootWedge (s : State) : State :=
  let m := s.mem
  let out (a : Nat) : Bool := !within a dramBase dramEnd
  let s := { s with mem := { m with bytes := m.bytes.filter (fun e => out e.1), synd := m.synd.filter (fun e => out (lineAddr e.1)) } }
  let s := State.each ([TKD, MEM, APC, NET, SNS, HST].filter (fun d => s.domPresent d)) (fun d t => (t.domWedge d).fenceUp d) s
  s.tc10Forward.put FIRE_STATUS_STRUCT_LOCK 1

def execBootWedgeDone (s : State) : Ans :=
  .next (if s.boot.booting && s.boot.trained && !s.on FIRE_STATUS_STRUCT_LOCK then s.bootWedge else s)

/-! ### Glost (R60, R135, R290, R431) -/

/-- Copy the firmware sections. -/
def State.copyFirmware (s : State) : State :=
  let w := s.sec 0x20
  let s := (s.putBytes 0x30000000 (w.drop 16))
  let s := { s with world := { s.world with wardenEntry := 0x30000000 + rdN w 0 4 } }
  let s := s.putBytes (rdN (s.sec 0x21) 0 8) ((s.sec 0x21).drop 16)
  (s.secs 0x22).foldl (fun t b => t.putBytes (itcmBase (rdN b 0 1 % 4) + (if rdN b 1 1 == 0 then 0 else 0x20000) + rdN b 4 4) (b.drop 16)) s

/-- Lead times are calibrated (R135), the warden core, the loaded timekeepers and the application cores start; the governor begins to
act. -/
def State.glost (s : State) (medians : List Nat) : State :=
  let s := s.copyFirmware
  let s := s.when (s.fenceOpen TKD) (fun t => t.calibrated medians)
  let s := (s.setBoot { s.boot with booting := false }).put FIRE_STATUS_STAGE 2
  let s := s.wardenStart
  let s := s.when (s.fenceOpen TKD) (fun t => State.each ((List.range 4).filter (fun n => t.on (TKC_CTL_RUN n))) (fun n u => u.tkStart n 0) t)
  let s := s.when (s.fenceOpen APC) State.coresStart
  s.govern

def execGlostStage (medians : List Nat) (s : State) : Ans :=
  .next (if s.boot.booting && s.on FIRE_STATUS_STRUCT_LOCK then s.glost medians else s)

/-! ### FIRE_CTL (R60, R61, R68) -/

/-- Begin one command: done with a status, or running on a burn or a control block write. -/
def State.fireBegin (s : State) (op : FireOp) : State × Option Status :=
  match op with
  | .commit =>
    if !s.boot.imageRunning then (s, some .unavailable)
    else if s.coneSteps 1 < s.get FIRE_STATUS_ROLLBACK then
      match s.coneStart 1 (s.coneSteps 1) 0 .commit with
      | (t, .ok) => (t.setBoot { t.boot with ctlBusy := true }, none)
      | (t, st) => (t, some st)
    else
      let tries := (s.ctlInUse.map (fun c => c.tries)).getD 0
      (s.setBoot { s.boot with cbWrite := some (s.ctlNext (s.get FIRE_STATUS_SLOT) 0 tries true), ctlBusy := true }, none)
  | .trialArm tries =>
    let k := s.get FIRE_STATUS_SLOT
    if !s.boot.imageRunning then (s, some .unavailable)
    else if tries == 0 || s.verify (s.slotBytes (1 - k)) false != 0 then (s, some .denied)
    else (s.setBoot { s.boot with cbWrite := some (s.ctlNext k 1 tries false), ctlBusy := true }, none)
  | .nwrel =>
    if s.get FIRE_STATUS_STAGE == 2 then
      let s := s.put FIRE_STATUS_STAGE 3
      (s.ldgAccept (s.recNow 0 0x32 12 (srcId AON 5) 1 (packBits [(0, 16, srcId AON 5), (24, 8, 1)])), some .ok)
    else (s, some (if s.get FIRE_STATUS_STAGE == 3 then .tooLate else .denied))
  | .reboot => ((s.closeAsk .reset).setBoot { (s.closeAsk .reset).boot with resetWait := some 2 }, some .ok)

/-- Perform commands in order until one has to wait; when all have completed `FIRE_RESULT` takes the outcome. -/
def State.fireRun : List FireOp → State → State
  | [], s => (s.res FIRE_RESULT_STATUS (highest (s.boot.ctlDone.map (fun st => (st != .ok, st))))).setBoot { s.boot with ctlQueue := [], ctlDone := [] }
  | op :: r, s =>
    match s.fireBegin op with
    | (t, some st) => State.fireRun r (t.setBoot { t.boot with ctlDone := t.boot.ctlDone ++ [st] })
    | (t, none) => t.setBoot { t.boot with ctlQueue := r }

/-- A command that waited has ended with a status; the rest of its write goes on. -/
def State.fireNext (s : State) (st : Status) : State :=
  State.fireRun s.boot.ctlQueue (s.setBoot { s.boot with ctlBusy := false, ctlDone := s.boot.ctlDone ++ [st] })

/-- A write of `FIRE_CTL`: COMMIT, TRIAL_ARM, NWREL and REBOOT in that order. -/
def State.fireCtl (s : State) (ops : List FireOp) : State :=
  if ops.isEmpty then s
  else if s.boot.ctlBusy || s.boot.cbWrite.isSome then s.res FIRE_RESULT_STATUS .unavailable
  else State.fireRun ops s

def execFireCommit (a : Agent) (s : State) : Ans := .next (s.regAccess a true FIRE_CTL 4 (fun t => t.fireCtl [.commit]))
def execFireNwrel (a : Agent) (s : State) : Ans := .next (s.regAccess a true FIRE_CTL 4 (fun t => t.fireCtl [.nwrel]))
def execFireReboot (a : Agent) (s : State) : Ans := .next (s.regAccess a true FIRE_CTL 4 (fun t => t.fireCtl [.reboot]))
def execFireTrialArm (a : Agent) (tries : BitVec 4) (s : State) : Ans :=
  .next (s.regAccess a true FIRE_CTL 4 (fun t => t.fireCtl [.trialArm tries.toNat]))

/-- A control block write completes; that of a COMMIT ends the trial of the running image. -/
def State.ctlWritten (s : State) (w : CbWrite) : State :=
  let s := (s.ctlPut w).setBoot { (s.ctlPut w).boot with cbWrite := none }
  let s := s.when w.commit (fun t => ((t.put FIRE_STATUS_COMMITTED 1).put FIRE_STATUS_TRIAL 0).setBoot { t.boot with lastTrial := false })
  s.fireNext .ok

def execControlBlockWriteDone (s : State) : Ans :=
  .next (match s.boot.cbWrite with
    | some w => if s.outOfReset AON then s.ctlWritten w else s
    | none => s)

/-- A burn of a COMMIT is complete: the next step, or the control block (R61). -/
def State.commitStep (s : State) : State :=
  match s.fireBegin .commit with
  | (t, some st) => t.fireNext st
  | (t, none) => t

/-! ### The boot flash (R53, R57, R68) -/

/-- Bytes of the running image's slot. -/
def State.touchesRunning (s : State) (lo hi : Nat) : Bool :=
  let b := slotBase (s.get FIRE_STATUS_SLOT)
  s.boot.imageRunning && decide (lo < b + 0x100000) && decide (b < hi)

/-- A write of `FIRE_FL_CMD`: ignored while BUSY. -/
def State.flashStart (s : State) (op : Nat) : State :=
  if s.on FIRE_FL_CMD_BUSY || op == 0 then s
  else if op == 3 then s.res FIRE_FL_STAT_STATUS .denied
  else (s.setBoot { s.boot with flashCmd := some ⟨op, s.get FIRE_FL_ADDR_ADDR / 8 * 8, s.rd FIRE_FL_DATA⟩ }).put FIRE_FL_CMD_BUSY 1

def execFlashErase (a : Agent) (s : State) : Ans := .next (s.regAccess a true FIRE_FL_CMD 4 (fun t => t.flashStart 1))
def execFlashProgram (a : Agent) (s : State) : Ans := .next (s.regAccess a true FIRE_FL_CMD 4 (fun t => t.flashStart 2))
def execFlashOpDenied (a : Agent) (s : State) : Ans := .next (s.regAccess a true FIRE_FL_CMD 4 (fun t => t.flashStart 3))

/-- A flash command ends: one that touches the running slot with DENIED and no change (R57). -/
def State.flashDone (s : State) (c : FlashCmd) : State :=
  let lo := if c.op == 1 then 0x10000 * (c.addr / 0x10000) else c.addr
  let hi := if c.op == 1 then lo + 0x10000 else lo + 8
  let s := (s.setBoot { s.boot with flashCmd := none }).put FIRE_FL_CMD_BUSY 0
  if s.touchesRunning lo hi then s.res FIRE_FL_STAT_STATUS .denied
  else if c.op == 1 then (s.setBoot { s.boot with flash := tabDrop s.boot.flash lo hi }).res FIRE_FL_STAT_STATUS .ok
  else (s.flashPut lo (leBytes 8 (Nat.land c.data (leNat (s.flashRead lo 8))))).res FIRE_FL_STAT_STATUS .ok

def execFlashCmdComplete (s : State) : Ans :=
  .next (match s.boot.flashCmd with
    | some c => if s.outOfReset AON then s.flashDone c else s
    | none => s)

/-- A read of `FIRE_FL_DATA`: 8 bytes at ADDR, which advances. -/
def State.flashData (s : State) : State × Nat :=
  let a := s.get FIRE_FL_ADDR_ADDR / 8 * 8
  (s.put FIRE_FL_ADDR_ADDR (a + 8), leNat (s.flashRead a 8))

def execFlashDataRead (a : Agent) (half : Half) (s : State) : Ans := .next (s.readCmd a FIRE_FL_DATA half State.flashData)

end Sys2Proof.Machine
end

