-- ==== Sys2Proof/Machine/Debug.lean ====
section
/-! DEFINITION. Debug: entry into debug mode and resume, the cross-trigger matrix, release of locks, the watchdogs of the
cores, emulated power-down, and writes and snapshots of counters (R490 to R519). -/

namespace Sys2Proof.Machine

open Sys2Proof

/-! ### Entry and resume (R491 to R493, R496, R497) -/

/-- The invasive enable of a world (R491). -/
def State.invasive (s : State) (w : World) : Bool := bitAt s.dbgEn (2 * worldNum w)

/-- The non-invasive enable of a world; an invasive one grants its rights (R491). -/
def State.nonInvasive (s : State) (w : World) : Bool := s.invasive w || bitAt s.dbgEn (2 * worldNum w + 1)

/-- The hart that a debug request names: a fused pair is its even core (R490). -/
def State.debugHart (s : State) (h : Nat) : Nat := if h < 8 then s.l2Of h else h

/-- A device store of the hart, or a load of a timekeeper through the fabric, is not yet answered: nothing younger retires
(R289, R353). -/
def State.devPending (s : State) (h : Nat) : Bool :=
  (s.hart h).dev.isSome || (s.hart h).fabric.isSome || (s.hart h).wbuf.any (fun d => !d.orphan && regionIo (s.region d.addr))

/-- The hart is clocked and stands between two instructions, so that it can enter debug mode. -/
def State.debugReach (s : State) (h : Nat) : Bool :=
  (s.hart h).running && s.runs (hartDom h) (hartSrc h % 256) && !s.devPending h

def csrDcsr : Nat := 0x7B0
def csrDpc : Nat := 0x7B1

/-- `dcsr` as an entry leaves it: cause, V and prv (R490; log entry 24). -/
def dcsrEntry (d cause : Nat) (p : Priv) : Nat := putBits (putBits (putBits d 6 3 cause) 5 1 (b2n (virt p))) 0 2 (privNum p)

/-- Hart `h` enters debug mode (R496): saggar exit, mode CSRs in force, reservation and waits ended. -/
def State.debugEnter (s : State) (h cause : Nat) : State :=
  let t := s.hart h
  let dpc := if s.inSaggar h then s.get (SAG_DESC_ENTRY_ENTRY (bitsOf (s.csr h csrEzsag) 0 6)) else t.pc
  let s := (if s.inSaggar h then s.saggarLeave h else s).modesNow h
  let s := (s.setCsr h csrDcsr (dcsrEntry (s.csr h csrDcsr) cause t.priv)).setCsr h csrDpc dpc
  let s := { s with dbgm := { s.dbgm with haltReq := tabSet (fun _ => false) s.dbgm.haltReq h false } }
  s.updHart h (fun u => { u with halted := true, resv := none, wfi := false, waitVt := none })

/-- A halted hart resumes at `dpc` in the mode of `dcsr` (R493, R496). -/
def State.debugResume (s : State) (h : Nat) : State :=
  let d := s.csr h csrDcsr
  let p := privOf (bitsOf d 0 2) (bitAt d 5)
  let pc := s.csr h csrDpc
  s.updHart h (fun u => { u with halted := false, priv := p, pc := pc, world := if p == .m then .secure else u.world })

/-- A request to halt is a commit point of a cluster in epoch mode (R497). -/
def State.haltCommit (s : State) (h : Nat) : State :=
  if h < 8 && s.get (EPO_STATUS_STATE (clusterOf h)) == 0 then s.epoCommit (clusterOf h) else s

/-! ### The cross-trigger matrix (R498, R499) -/

/-- A request of the matrix is dropped and counted. -/
def State.xtrgDrop (s : State) : State := s.inc XTRG_STATUS_DROPPED 1

/-- What a channel event asks of hart `h`; a halt wins over a resume. Answers whether the hart entered debug mode. -/
def State.xtrgHart (s : State) (ch h : Nat) : State × Bool :=
  if !s.debugReach h || s.debugHart h != h then (s, false)
  else if Nat.land (s.get (XTRG_OUT_CH h)) ch != 0 then
    (if (s.hart h).halted then (s, false)
     else if s.invasive (s.hartWorld h) then ((s.haltCommit h).debugEnter h 6, true) else (s.xtrgDrop, false))
  else if Nat.land (s.get (XTRG_OUT_CH (16 + h))) ch != 0 then
    (if !(s.hart h).halted then (s, false)
     else if s.invasive (s.hartWorld h) then (s.debugResume h, false) else (s.xtrgDrop, false))
  else (s, false)

/-- An event on the channels `ch`. The entry events of the harts it halts follow; each reaches running harts alone, so `fuel` 14
bounds them. -/
def State.xtrgSend (s : State) : Nat → Nat → State
  | 0, _ => s
  | fuel + 1, ch =>
    if ch == 0 then s
    else
      let r := (List.range 13).foldl (fun (r : State × Nat) h =>
        let (t, entered) := r.1.xtrgHart ch h
        (t, if entered && t.nonInvasive (t.hartWorld h) then Nat.lor r.2 (t.get (XTRG_IN_CH h)) else r.2))
        (s.raise XTRG_STATUS_SEEN ch, 0)
      r.1.xtrgSend fuel r.2

/-- An event of source `i`. -/
def State.xtrgEvent (s : State) (i : Nat) : State := s.xtrgSend 14 (s.get (XTRG_IN_CH i))

/-- An event of hart `h` passes only under the non-invasive enable of its world. -/
def State.xtrgOfHart (s : State) (h i : Nat) : State := s.when (s.nonInvasive (s.hartWorld h)) (fun t => t.xtrgEvent i)

/-- Hart `h` enters debug mode and sends its entry event. -/
def State.debugHalt (s : State) (h cause : Nat) : State := (s.debugEnter h cause).xtrgOfHart h h

def execXtrgPulse (a : Agent) (ch : BitVec 16) (s : State) : Ans :=
  .next (s.regAccess a true XTRG_PULSE 4 (fun t => t.xtrgSend 14 ch.toNat))

/-- A capture pin's selected edge: the stamp, and the event whether or not the FIFO has room (R108, R498). -/
def execTpCaptureEdge (n : Pin) (rising : Bool) (phase : Fin 8) (stableNs : Nat) (s : State) : Ans :=
  .next ((s.pinEdgeSeen n.val rising phase.val stableNs).when (s.edgeTaken n.val rising phase.val stableNs)
    (fun t => t.xtrgEvent (32 + n.val)))

/-! ### Halt and resume requests -/

/-- A halt request waits for the hart. -/
def State.haltPend (s : State) (h : Nat) : State :=
  { s with dbgm := { s.dbgm with haltReq := tabSet (fun _ => false) s.dbgm.haltReq h true } }

/-- haltreq: at once where the hart's world permits it, else before its first instruction in a permitted world (R492). -/
def State.haltRequest (s : State) (h : Nat) : State :=
  if !s.dbgm.active || !s.outOfReset AON || (s.hart h).halted then s
  else if s.debugReach h && s.invasive (s.hartWorld h) then (s.haltCommit h).debugHalt h 3
  else s.haltPend h

def execHaltRequest (h : Hart) (s : State) : Ans := .next (s.haltRequest (s.debugHart h.val))

/-- A hart that waits for its halt request, or that single-steps, enters debug mode between two instructions (R492, R498). -/
def State.pollHalt (s : State) (h : Nat) : State :=
  if (s.hart h).halted || !s.debugReach h || !s.invasive (s.hartWorld h) then s
  else if tabGet (fun _ => false) s.dbgm.haltReq h then (s.haltCommit h).debugHalt h 3
  else s

/-- An instruction has ended: `dcsr.step` re-enters, or a waiting halt request does. -/
def State.pollStep (s : State) (h : Nat) : State :=
  if !(s.hart h).halted && bitAt (s.csr h csrDcsr) 2 && s.debugReach h && s.invasive (s.hartWorld h) then s.debugHalt h 4
  else s.pollHalt h

/-- resumereq: withdraws a request that waits, and resumes a halted hart. -/
def State.resumeRequest (s : State) (h : Nat) : State :=
  if !s.dbgm.active || !s.outOfReset AON then s
  else
    let s := { s with dbgm := { s.dbgm with haltReq := tabSet (fun _ => false) s.dbgm.haltReq h false } }
    if (s.hart h).halted && s.debugReach h then s.debugResume h else s

def execResumeRequest (h : Hart) (s : State) : Ans := .next (s.resumeRequest (s.debugHart h.val))

/-- Harts halted in a world whose invasive enable has been withdrawn resume (R432). -/
def State.debugWithdrawn (s : State) : State :=
  State.each (List.range 13) (fun h t => if (t.hart h).halted && !t.invasive (t.hartWorld h) then t.debugResume h else t) s

/-! ### Release of locks (R500) -/

/-- `DAP_LOCKREL`. -/
def State.dapLockRel (s : State) (n : Nat) : State :=
  let o := s.get (EPO_LOCK_OWNER n)
  if o == 0xF then s.res DAP_LOCKRES_STATUS .tooLate
  else if !s.invasive (s.hartWorld o) then s.res DAP_LOCKRES_STATUS .denied
  else ((s.lockBreak n).res DAP_LOCKRES_STATUS .ok).put DAP_LOCKRES_OWNER o

/-- A hart's write is refused, and the result says so. -/
def execDapLockRelease (a : Agent) (n : LockIdx) (s : State) : Ans :=
  .next ((s.regAccess a true DAP_LOCKREL 4 (fun t => t.dapLockRel n.val)).when (s.agentLive a && !isDap a)
    (fun t => t.res DAP_LOCKRES_STATUS .denied))

/-! ### The watchdogs of the cores (R501) -/

/-- A write of `CWD_KICK` reloads the period; an expiry of the same clock wins. -/
def State.cwdKick (s : State) (c : Nat) : State :=
  if tabGet (fun _ => none) s.guard.cwdExp c == some s.ticks then s else s.cwdLoad c (s.get (CWD_CFG_PERIOD_US c))

def execCwdKick (a : Agent) (c : AppCore) (s : State) : Ans := .next (s.regAccess a true (CWD_KICK c.val) 4 (fun t => t.cwdKick c.val))

/-- The core is stopped, its L2 drained and its locks withdrawn, and it starts anew; stores it has executed stay in its buffer. -/
def State.cwdRestart (s : State) (c : Nat) : State :=
  let h := s.hart c
  let s := (((s.l2Drain c).breakLocks (fun o => o == c)).coreStart c).updHart c (fun t =>
    { t with sb := h.sb, dev := h.dev.map (fun d => { d with orphan := true }) })
  s.put (CWD_STATUS_RESTARTED c) 1

/-- The watchdog of core `c` expires. -/
def State.cwdExpire (s : State) (c : Nat) : State :=
  let again := s.on (CWD_STATUS_EXPIRED c)
  let g := s.guard
  let s := { s with guard := { g with cwdExp := tabSet (fun _ => none) g.cwdExp c (some s.ticks) } }
  let s := s.cwdLoad c (tabGet (fun _ => 100000) g.cwdPeriod c)
  if again then s.when (s.on (CWD_CFG_RESTART c)) (fun t => t.cwdRestart c) else s.put (CWD_STATUS_EXPIRED c) 1

def execCwdExpire (c : AppCore) (s : State) : Ans := .next (if s.cwdRuns c.val then s.cwdExpire c.val else s)

/-! ### Attach and detach (R503, R504) -/

def execDebugAttach (s : State) : Ans :=
  .next (if s.outOfReset AON && !s.dbgm.active then { s with dbgm := { s.dbgm with active := true } } else s)

/-- A domain that stands emulated off for a mode is powered down for real. -/
def State.emulReal (s : State) (d : Nat) : State := if (s.dom d).emul then s.domOff d else s

/-- The domains that stand emulated off, as dmactive goes to 0: those of a mode at once, in the order of its entry; those that a
request switched off by the steps of R473. -/
def State.domsReal (s : State) : State :=
  if s.power.layout < 2 then (State.each upOrder (fun d t => t.emulBack d) s).domSync
  else if s.power.layout == 2 then State.each [HST, SNS, APC, MEM] (fun d t => t.emulReal d) s
  else
    let e := (s.dom SEC).emul
    let s := (State.each [HST, SNS, APC, MEM, NET] (fun d t => t.emulReal d) s).when e State.aotEdge
    let s := State.each [TKD, SEC] (fun d t => t.emulReal d) s
    s.when e (fun t => { t with mem := { t.mem with bytes := tabDrop t.mem.bytes dramBase dramEnd } })

/-- The cores that stand emulated off are powered off. -/
def State.coresReal (s : State) : State :=
  State.each ((List.range 8).filter (fun c => tabGet (fun _ => false) s.dbgm.coreEmul c)) (fun c t =>
    (((t.l2Drain c).breakLocks (fun o => o == c)).setHart c HartSt.init).corePower c 0) s

/-- The debug module's registers go to their reset values; whether a halted hart resumes then is free (log entry 25). -/
def State.debugDetach (s : State) : State :=
  let s := State.each ((List.range 13).filter (fun h => (s.hart h).halted)) (fun h t =>
    (t.when (t.freeNat % 2 == 1) (fun u => u.debugResume h)).tookFree) s
  let s := { s.coresReal with dbgm := .init }
  s.domsReal

def execDebugDetach (s : State) : Ans := .next (if s.outOfReset AON && s.dbgm.active then s.debugDetach else s)

/-! ### Counters (R507 to R511) -/

/-- The counter page of a block. -/
def pmuBase : PmuBlock → Nat
  | .core c => pmuCoreBase c.val
  | .mem => pmuMemBase
  | .port p => pmuPortBase p.val

/-- The counters of the odd core of a fused pair are those of the even core (R506): no write reaches them. -/
def State.pmuMirror (s : State) : PmuBlock → Bool
  | .core c => c.val % 2 == 1 && s.fused c.val
  | _ => false

/-- A write of counter `i`. Of an increment on the same clock only its wrap remains (R509). -/
def State.pmuWrite (s : State) (p : PmuPlace) (i v : Nat) (inc : Bool) : State :=
  let wrap := inc && s.get (pmuCnt p i) == 0xFFFFFFFF && !(i != 0 && s.on (pmuChain p i))
  let s := s.when wrap (fun t =>
    let t := t.put (pmuOvf p i) 1
    if i + 1 < pmuN p && t.on (pmuChain p (i + 1)) then t.pmuCarry p (pmuN p) (i + 1) 1 else t)
  s.put (pmuCnt p i) v

def execPmuCounterWrite (a : Agent) (b : PmuBlock) (i : BitVec 7) (v : BitVec 32) (inc : Bool) (s : State) : Ans :=
  let p := PmuPlace.page (pmuBase b)
  .next (s.regAccess a true (PMU_CNT (pmuBase b) i.toNat) 4 (fun t =>
    if i.toNat < pmuN p && !t.pmuMirror b then t.pmuWrite p i.toNat v.toNat inc else t))

/-- The snapshot of counters IDX and IDX − 1 at one clock (R508). -/
def State.snapValue (s : State) (p : PmuPlace) (idx : Nat) : Nat :=
  if idx == 0 || pmuN p ≤ idx then 0 else packBits [(0, 32, s.get (pmuCnt p (idx - 1))), (32, 32, s.get (pmuCnt p idx))]

def execPmuSnapRead (a : Agent) (b : PmuBlock) (s : State) : Ans :=
  .next (s.regAccess a false (PMU_SNAP (pmuBase b)) 8 (fun t =>
    if t.debugRead a then t
    else t.wr (PMU_SNAP (pmuBase b)) (t.snapValue (.page (pmuBase b)) (t.get (PMU_SNAPSEL_IDX (pmuBase b))))))

/-- A bandwidth window ends: LAST, PEAK and SEQ in one clock (R511). -/
def State.bwEnd (s : State) : State :=
  let s := State.each (List.range 11) (fun k t =>
    let n := tabGet (fun _ => 0) t.pmu.bw k
    (t.wr (PMU_BWLAST pmuMemBase k) n).wr (PMU_BWPEAK pmuMemBase k) (Nat.max n (t.rd (PMU_BWPEAK pmuMemBase k)))) s
  ({ s with pmu := { s.pmu with bw := [] } }).inc (PMU_BWSEQ_SEQ pmuMemBase) 1

def execBwWindowEnd (s : State) : Ans :=
  .next (if s.runs MEM 3 && s.get (PMU_BWCFG_WIN_US pmuMemBase) != 0 then s.bwEnd else s)

/-- Every PEAK is cleared. -/
def State.bwClearPeak (s : State) : State := State.each (List.range 11) (fun k t => t.wr (PMU_BWPEAK pmuMemBase k) 0) s

/-- A write of WIN_US restarts the windows. -/
def State.bwRestart (s : State) (us : Nat) : State :=
  let s := (State.each (List.range 11) (fun k t => t.wr (PMU_BWLAST pmuMemBase k) 0) s).bwClearPeak
  ({ s with pmu := { s.pmu with bw := [] } }).put (PMU_BWCFG_WIN_US pmuMemBase) us

def execBwWindowRestart (a : Agent) (us : BitVec 20) (s : State) : Ans :=
  .next (s.regAccess a true (PMU_BWCFG pmuMemBase) 4 (fun t => t.bwRestart us.toNat))

def execBwClearPeak (a : Agent) (s : State) : Ans := .next (s.regAccess a true (PMU_BWCFG pmuMemBase) 4 State.bwClearPeak)

end Sys2Proof.Machine
end

