-- ==== Sys2Proof/Machine/Cascade.lean ====
section
/-! DEFINITION. The cascade: links, presence and mastership, time over the links, forward rules, mailboxes, the port key
(R520 to R533), and what follows a fuse burn. Windows are in `Bus.lean`. -/

namespace Sys2Proof.Machine

open Sys2Proof

/-- The cascade block runs. -/
def State.cscOn (s : State) : Bool := s.opens HST 3

def State.myId (s : State) : Nat := s.get CSC_STATUS_MYID

/-- Module `k` counts as present (R523). -/
def State.cscPresent (s : State) (k : Nat) : Bool := k != s.myId && bitAt (s.get CSC_STATUS_PRESENT) k

/-- No other module is present (R524). -/
def State.cscIsolated (s : State) : Bool := (List.range 4).all (fun k => !s.cscPresent k)

/-- The lowest present ID, this module counted (R524). -/
def State.lowestId (s : State) : Nat := ((List.range 4).find? (fun k => k == s.myId || s.cscPresent k)).getD s.myId

def State.cscHops (s : State) (l : Nat) : Nat := tabGet (fun _ => 255) s.casc.hops l

def State.setHops (s : State) (l n : Nat) : State := { s with casc := { s.casc with hops := tabSet (fun _ => 255) s.casc.hops l n } }

def State.listens (s : State) (l : Nat) : Bool := tabGet (fun _ => false) s.casc.listening l

def State.setListens (s : State) (l : Nat) (v : Bool) : State :=
  { s with casc := { s.casc with listening := tabSet (fun _ => false) s.casc.listening l v } }

/-! ### Mastership and the time link (R524 to R527) -/

/-- The link with the fewer hops to the master, CL0 when equal; 3 on the master and where no link leads to it (R526). -/
def State.timeLinkNow (s : State) : Nat :=
  let h (l : Nat) : Nat := if s.on (CSC_LINK_UP l) then s.cscHops l else 255
  if s.on CSC_STATUS_MASTER || (h 0 == 255 && h 1 == 255) then 3 else if h 0 ≤ h 1 then 0 else 1

/-- The time link is chosen anew, and the port states of every domain with it (R527). -/
def State.timeLinkSet (s : State) : State :=
  let n := s.timeLinkNow
  if n == s.get CSC_STATUS_TIMELINK then s else (s.put CSC_STATUS_TIMELINK n).when s.vtOn State.ptpSelectAll

/-- On the module that becomes master every domain that was ACQUIRING or LOCKED enters HOLDOVER, with no step (R525). -/
def State.masterHoldover (s : State) : State :=
  State.each ((List.range 4).filter (fun d => s.domEnabled d && !s.on (DISC_CTL_MODE d) && (s.syncState d == 2 || s.syncState d == 3)))
    (fun d t => (t.rateFreeze d).setTState d 1) s

/-- The master is decided: a change sets the interrupt (R525). -/
def State.setMaster (s : State) (m : Nat) : State :=
  let me := m == s.myId
  if s.casc.settled && s.get CSC_STATUS_MASTERID == m && s.on CSC_STATUS_MASTER == me then s
  else
    let became := me && !s.on CSC_STATUS_MASTER
    let s := { s with casc := { s.casc with settled := true } }
    let s := ((s.put CSC_STATUS_MASTERID m).put CSC_STATUS_MASTER (b2n me)).put CSC_IRQ_STATUS_MASTER 1
    (s.when (became && s.vtOn) State.masterHoldover).timeLinkSet

/-- The 1 ms of listening, or the first 1 ms, ends with no heartbeat with MASTER set heard (R524). -/
def execCascadeListenEnd (s : State) : Ans :=
  .next (if s.cscOn && (!s.casc.settled || s.listens 0 || s.listens 1) then ((s.setListens 0 false).setListens 1 false).setMaster s.lowestId else s)

/-- A heartbeat with MASTER set decides (R524): while this module listens or before its first decision the sender is the master;
later the lower of two IDs is. -/
def State.masterHeard (s : State) (k : Nat) : State :=
  if !s.casc.settled || s.listens 0 || s.listens 1 then ((s.setListens 0 false).setListens 1 false).setMaster k
  else if k < s.get CSC_STATUS_MASTERID then s.setMaster k else s

/-- The enabled domains' time at the link: compact VT and the fraction in 2^-16 ns (R526). -/
def State.linkTimes (s : State) : List (Dom × Nat × Nat) :=
  if !s.vtOn then []
  else (([0, 1, 2, 3] : List Dom).filter (fun d => s.domEnabled d.val)).map (fun d => (d, (s.stampNow d.val 0).ns, (s.stampNow d.val 0).frac))

/-- The hops from this module's partner to the master. -/
def State.hopsOut (s : State) : Nat :=
  if s.on CSC_STATUS_MASTER then 1 else Nat.min 255 (Nat.min (s.cscHops 0) (s.cscHops 1) + 1)

def State.setSent (s : State) (l : Nat) (h : Heartbeat) : State :=
  { s with casc := { s.casc with sent := tabSet (fun _ => none) s.casc.sent l (some h) } }

/-- This module's heartbeat on link `l`: MASTER is clear while it listens there (R523, R524). -/
def State.heartbeat (s : State) (l : Nat) : Heartbeat :=
  ⟨Fin.ofNat 4 s.myId, s.on CSC_STATUS_MASTER && !s.listens l, Fin.ofNat 4 (s.get CSC_STATUS_MASTERID), s.hopsOut, s.casc.csids, s.linkTimes⟩

/-- A heartbeat period: one on each up link; a period more without one from each other module (R523). -/
def execHeartbeatSend (s : State) : Ans :=
  .next (if !s.cscOn then s
    else
      let s := State.each ([0, 1].filter (fun l => s.on (CSC_LINK_UP l))) (fun l t => t.setSent l (t.heartbeat l)) s
      State.each ((List.range 4).filter (fun k => k != s.myId)) (fun k t => t.put (CSC_HBMISS_MISS k) (satAdd 8 (t.get (CSC_HBMISS_MISS k)) 1)) s)

/-- The time transfer of a heartbeat is a Sync of every domain (R526): the offset from the sender's time plus the path delay. -/
def State.linkSync (s : State) (l : Nat) (hb : Heartbeat) : State :=
  State.each (hb.times.filter (fun e => s.domEnabled e.1.val)) (fun e t =>
    t.servo e.1.val ((stampFine (t.stampNow e.1.val 0) : Int) - (65536 * e.2.1 + e.2.2 : Nat) - toSigned 64 (t.get (CSC_PDLY_DELAY l)))) s

/-- A heartbeat is relayed onto the other link with this module's own time (R523, R526). -/
def State.relay (s : State) (l : Nat) (hb : Heartbeat) : State :=
  if s.on (CSC_LINK_UP (1 - l)) then s.setSent (1 - l) { hb with hops := s.hopsOut, times := s.linkTimes } else s

/-- A heartbeat arrives on link `l`. -/
def State.heartbeatIn (s : State) (l : Nat) (hb : Heartbeat) : State :=
  let k := hb.src.val
  if !s.cscOn || !s.on (CSC_LINK_UP l) || k == s.myId then s
  else
    let s := s.when (!s.cscPresent k) (fun t => (t.raise CSC_STATUS_PRESENT (2 ^ k)).put CSC_IRQ_STATUS_JOIN 1)
    let s := (s.put (CSC_HBMISS_MISS k) 0).setHops l (Nat.min 255 hb.hops)
    let s := { s with casc := { s.casc with csids := Nat.max s.casc.csids hb.csid } }
    let s := (if hb.master then s.masterHeard k else s).timeLinkSet
    let s := s.when (s.vtOn && s.timeLink == some l && k == s.get CSC_STATUS_MASTERID) (fun t => t.linkSync l hb)
    s.relay l hb

def execHeartbeatReceive (l : LinkIdx) (hb : Heartbeat) (s : State) : Ans := .next (s.heartbeatIn l.val hb)

/-- The missed heartbeats of the master are the syncReceiptTimeout of every domain of the time link (R85, R526). -/
def State.linkTimeout (s : State) : State :=
  if s.timeLink.isNone || !s.vtOn then s
  else State.each ((List.range 4).filter (fun d => s.domEnabled d && !s.on (DISC_CTL_MODE d))) (fun d t =>
    if t.syncState d == 3 then (t.rateFreeze d).setTState d 1
    else if t.syncState d == 2 then (t.rateFreeze d).setTState d (if (t.tdom d).everLocked then 1 else 0)
    else t) s

/-! ### Mailboxes (R531) -/

/-- The mailbox with module `k` is emptied as R211 has it; NEXTSEQ is kept. -/
def State.cscMbxDrop (s : State) (k : Nat) : State :=
  let s := { s with casc := { s.casc with mail := s.casc.mail.filter (fun m => m.dest != k) } }
  let s := ((s.put (CSC_MBX_TX_STAT_PEND k) 0).put (CSC_MBX_RX_SEQ_VALID k) 0)
  State.each (List.range 8) (fun i t => t.put (CSC_MBX_TX_WORD k i) 0) s

/-- What a SEND is judged as (R209, R531). -/
def State.cscMbxJudge (s : State) (k expseq : Nat) : Status :=
  let next := s.get (CSC_MBX_TX_STAT_NEXTSEQ k)
  firstThat [(!s.cscPresent k, .unavailable), (s.on (CSC_MBX_TX_STAT_PEND k), .full), (expseq != 0 && mbxNext expseq == next, .tooLate),
    (expseq != next, .stale)] .ok

/-- A write of `CSC_MBXk` TX command with SEND. -/
def State.cscMbxSend (s : State) (k expseq : Nat) : State :=
  let st := s.cscMbxJudge k expseq
  let s := s.res (CSC_MBX_TX_STAT_RESULT k) st
  if st != .ok then s
  else
    let m : CscMsg := ⟨k, (List.range 8).map (fun i => s.get (CSC_MBX_TX_WORD k i)), expseq⟩
    let s := { s with casc := { s.casc with mail := s.casc.mail ++ [m] } }
    (s.put (CSC_MBX_TX_STAT_NEXTSEQ k) (mbxNext expseq)).put (CSC_MBX_TX_STAT_PEND k) 1

def execCascadeMbxSend (a : Agent) (k : ModId) (expseq : BitVec 16) (s : State) : Ans :=
  .next (s.regAccess a true (CSC_MBX_TX_CMD k.val) 4 (fun t => t.cscMbxSend k.val expseq.toNat))

/-- A write of the RX acknowledge register. -/
def State.cscMbxAck (s : State) (k seq : Nat) : State :=
  if s.on (CSC_MBX_RX_SEQ_VALID k) && s.get (CSC_MBX_RX_SEQ_SEQ k) == seq then s.put (CSC_MBX_RX_SEQ_VALID k) 0 else s

/-- A message or an acknowledgement arrives whole from module `k`. -/
def State.cscMbxIn (s : State) (k : Nat) (m : MbxIn) : State :=
  if !s.cscOn || !s.cscPresent k then s
  else match m with
    | .message words seq =>
      if s.on (CSC_MBX_RX_SEQ_VALID k) then s
      else
        let s := State.each (List.range 8) (fun i t => t.put (CSC_MBX_RX_WORD k i) (words.getD i 0).toNat) s
        ((s.put (CSC_MBX_RX_SEQ_SEQ k) seq.toNat).put (CSC_MBX_RX_SEQ_VALID k) 1).put CSC_IRQ_STATUS_MBX 1
    | .ack seq =>
      if s.casc.mail.any (fun m => m.dest == k && m.seq == seq.toNat) then
        let s := { s with casc := { s.casc with mail := s.casc.mail.filter (fun m => m.dest != k) } }
        (s.put (CSC_MBX_TX_STAT_PEND k) 0).put CSC_IRQ_STATUS_MBXACK 1
      else s

def execCascadeMbxDeliver (k : ModId) (m : MbxIn) (s : State) : Ans := .next (s.cscMbxIn k.val m)

/-! ### Presence and links (R521, R523, R532) -/

/-- A store of a hart through the window of a module that cannot be reached completes UNAVAILABLE (R532): the precise access
fault of R353 for a core that waits for it; a timekeeper's write buffer drops it. -/
def State.windowsLost (s : State) (lost : Nat → Bool) : State :=
  let gone (a : Nat) : Bool := match s.region a with
    | .cascade k _ => lost k
    | _ => false
  State.each (List.range 13) (fun h t =>
    match (t.hart h).dev with
    | some d => if gone d.addr && !d.orphan && (t.hart h).sb.all (fun e => !e.device) then (t.updHart h (fun k => { k with dev := none, pc := d.pc })).accessFault h true d.vaddr else t
    | none => t) s

/-- Module `k` counts as absent after four periods without a heartbeat from it (R523). -/
def State.moduleLost (s : State) (k : Nat) : State :=
  if !s.cscOn || !s.cscPresent k || s.get (CSC_HBMISS_MISS k) < 4 then s
  else
    let s := s.windowsLost (fun j => j == k)
    let s := (s.clear CSC_STATUS_PRESENT (2 ^ k)).put CSC_IRQ_STATUS_LOST 1
    let s := s.cscMbxDrop k
    if s.get CSC_STATUS_MASTERID == k then (((s.linkTimeout).setHops 0 255).setHops 1 255).setMaster s.lowestId else s

def execModuleAbsent (k : ModId) (s : State) : Ans := .next (s.moduleLost k.val)

/-- A link trains (R521, R524): up where the IDs differ and the keys agree; an isolated module then listens. -/
def State.linkTrain (s : State) (l partner : Nat) (sameKey : Bool) : State :=
  if !s.cscOn || !bitAt (s.get CSC_CTL_LINKEN) l || s.on (CSC_LINK_UP l) then s
  else if partner == s.myId then (s.put (CSC_LINK_IDCLASH l) 1).put (CSC_LINK_AUTHFAIL l) 0
  else
    let s := (s.put (CSC_LINK_PARTNER l) partner).put (CSC_LINK_IDCLASH l) 0
    if !sameKey then s.put (CSC_LINK_AUTHFAIL l) 1
    else (((s.put (CSC_LINK_AUTHFAIL l) 0).put (CSC_LINK_UP l) 1).put CSC_IRQ_STATUS_LINK 1).when s.cscIsolated (fun t => t.setListens l true)

def execCascadeLinkUp (l : LinkIdx) (partner : ModId) (sameKey : Bool) (s : State) : Ans := .next (s.linkTrain l.val partner.val sameKey)
def execCascadeLinkRetrain (l : LinkIdx) (partner : ModId) (sameKey : Bool) (s : State) : Ans :=
  .next (s.linkTrain l.val partner.val sameKey)

/-- A link goes down: with no link left no window can be reached (R532); the absence of modules is counted on (R523). -/
def State.linkDown (s : State) (l : Nat) : State :=
  if !s.on (CSC_LINK_UP l) then s
  else
    let s := ((s.put (CSC_LINK_UP l) 0).put CSC_IRQ_STATUS_LINK 1).setListens l false
    let s := (s.setHops l 255).timeLinkSet
    if s.on (CSC_LINK_UP (1 - l)) then s else s.windowsLost (fun _ => true)

def execCascadeLinkDown (l : LinkIdx) (s : State) : Ans := .next (s.linkDown l.val)

def execCascadePdelayMeasure (l : LinkIdx) (delay : Word) (s : State) : Ans :=
  .next (if s.cscOn && s.on (CSC_LINK_UP l.val) then s.put (CSC_PDLY_DELAY l.val) delay.toNat else s)

/-! ### Forward rules (R529, R530) -/

/-- Two rules name the same source. -/
def State.sameSource (s : State) (n m : Nat) : Bool :=
  s.get (CSC_FWD_RULE_KIND n) == s.get (CSC_FWD_RULE_KIND m) &&
    (if s.get (CSC_FWD_RULE_KIND n) == 0 then
      s.get (CSC_FWD_RULE_SPORT n) == s.get (CSC_FWD_RULE_SPORT m) && s.get (CSC_FWD_RULE_SVC n) == s.get (CSC_FWD_RULE_SVC m)
    else s.get (CSC_FWD_RULE_SVID n) == s.get (CSC_FWD_RULE_SVID m))

/-- What setting VALID of rule `n` answers (R529). -/
def State.fwdJudge (s : State) (n : Nat) : Status :=
  firstThat [(!s.cscPresent (s.get (CSC_FWD_RULE_DEST n)), .unavailable),
    ((List.range 64).any (fun m => m != n && s.fwdOk m && s.sameSource n m), .denied), (decide (1024 ≤ s.casc.csids), .full)] .ok

/-- VALID of rule `n` is set: the status, and on OK the next free identifier. -/
def State.fwdValid (s : State) (n : Nat) : State :=
  let st := s.fwdJudge n
  let s := (s.put (CSC_FWD_RULE_VALID n) 1).res (CSC_FWD_ID_STATUS n) st
  if st != .ok then s
  else
    let c := s.casc
    ({ s with casc := { c with csids := c.csids + 1 } }).put (CSC_FWD_ID_CSID n) c.csids

def execForwardRuleValid (a : Agent) (n : Fin 64) (s : State) : Ans :=
  .next (s.regAccess a true (CSC_FWD_RULE n.val) 8 (fun t => t.fwdValid n.val))

/-- A forwarded unit enters classification with the stamp of its source (R530). -/
def State.fwdReceive (s : State) (u : FwdUnit) : State :=
  if !s.cscOn then s
  else match u with
    | .csi p vc dt data crcErr lost st => s.csiPacket p.val vc.val dt.toNat data false crcErr lost st
    | .eth vid b fcsErr st =>
      if !s.capOn then s
      else match s.ethLookup vid.toNat b with
        | (s, none) => s
        | (s, some (n, i, e)) => if sttFwd e == 1 then s else s.ethCapture n i e 17 b fcsErr false st

def execForwardedUnitReceive (u : FwdUnit) (s : State) : Ans := .next (s.fwdReceive u)

/-! ### The port key (R522), and the end of a burn (R62, R63, R432) -/

/-- A write of `CSC_KEYCMD.GO`. -/
def State.keyInstall (s : State) : State :=
  let (s, st) := s.coneStart 3 (s.coneSteps 3) 0 (.portKey (packBits ((List.range 4).map (fun i => (64 * i, 64, s.rd (CSC_KEYSTAGE i))))))
  s.res CSC_KEYCMD_STATUS st

def execCscKeyInstall (a : Agent) (s : State) : Ans := .next (s.regAccess a true CSC_KEYCMD 4 State.keyInstall)

/-- What a completed burn is for goes on. -/
def State.burnThen (s : State) (b : Burn) : State :=
  match b.src with
  | .software => s
  | .commit => s.commitStep
  | .watermark => s.wmkBurnt
  | .portKey key => { s with boot := { s.boot with fuses := { s.boot.fuses with portKey := key } } }

/-- A burn completes: the step and its record; new world debug enables resume harts of a withdrawn world, and the first key hash
ends the provisional state (R58, R432). -/
def execConeBurnComplete (s : State) : Ans :=
  .next (match s.boot.burn with
    | none => s
    | some b =>
      let s := s.coneBlow b
      let s := s.when (b.cone == 2) State.debugWithdrawn
      let s := s.when (b.cone == 4) (fun t => (t.put FIRE_STATUS_PROVISIONAL 0).put LDG_STATUS_PROVISIONAL 0)
      s.burnThen b)

end Sys2Proof.Machine
end

