-- ==== Sys2Proof/Machine/RegWrite.lean ====
section
/-! DEFINITION. What a write to a register does: each field by its access code (R10), and the registers whose write does more (the
register tables of spec/). -/

namespace Sys2Proof.Machine

open Sys2Proof

/-- A write as a register sees it: the writer, the index in its array, the register, the bits written and their values. -/
structure RegWr where
  a : Agent
  n : Nat
  reg : Nat
  mask : Nat
  v : Nat

/-- The value written to a field. -/
def RegWr.val (w : RegWr) (f : Fld) : Nat := bitsOf w.v f.lo f.w

/-- The write covers a field. -/
def RegWr.hits (w : RegWr) (f : Fld) : Bool := bitsOf w.mask f.lo f.w == 2 ^ f.w - 1

/-- A field is written other than 0. -/
def RegWr.has (w : RegWr) (f : Fld) : Bool := w.val f != 0

/-- Bits of a register's fields with an access code. -/
def rowMask (r : RegRow) (acc : Acc) : Nat := packBits ((r.fields.filter (fun f => f.acc == acc)).map (fun f => (f.lo, f.w, 2 ^ f.w - 1)))

/-- `x` with its bits in `m` replaced by those of `v`. -/
def mixBits (x m v : Nat) : Nat := Nat.lor (Nat.lor x m - m) (Nat.land v m)

/-- The register as the write leaves it if its fields followed their access codes alone (R10). -/
def State.codeWrite (s : State) (w : RegWr) : Nat :=
  match regRowAt w.reg with
  | some r =>
    let x := mixBits (s.rd w.reg) (Nat.land w.mask (rowMask r .rw)) w.v
    Nat.lor x (Nat.land w.v (rowMask r .w1c)) - Nat.land w.v (rowMask r .w1c)
  | none => s.rd w.reg

/-- A write by the access codes (R10). -/
def State.plain (s : State) (w : RegWr) : State := if (regRowAt w.reg).isSome then s.wr w.reg (s.codeWrite w) else s

/-- The whole register with the bits written (R558). -/
def State.whole (s : State) (w : RegWr) : Nat := mixBits (s.rd w.reg) w.mask w.v

/-- A field kept between two limits: a value outside goes to the nearer one. -/
def State.clampFld (s : State) (f : Fld) (lo hi : Nat) : State := s.put f (Nat.min hi (Nat.max lo (s.get f)))

/-- A register whose write does more than its access codes say, or an array of them: base, stride, count. -/
structure RegOp where
  base : Nat
  stride : Nat
  count : Nat
  act : RegWr → State → State

/-! ### AON and SEC -/

/-- The commands of a write of `FIRE_CTL`, in their order (R68). -/
def fireOps (w : RegWr) : List FireOp :=
  (if w.has FIRE_CTL_COMMIT then [FireOp.commit] else []) ++
  (if w.has FIRE_CTL_TRIAL_ARM then [FireOp.trialArm (w.val FIRE_CTL_TRIES)] else []) ++
  (if w.has FIRE_CTL_NWREL then [FireOp.nwrel] else []) ++ (if w.has FIRE_CTL_REBOOT then [FireOp.reboot] else [])

/-- A write of the interrupt enables of a supply page, whose vector follows the summary (R483). -/
def State.supEnable (s : State) (w : RegWr) : State :=
  s.withVec (fun u => u.summary (SUP_W_IRQ_STATUS w.n) (SUP_W_IRQ_EN w.n)) (worldOf w.n) (srcId AON 2) (SUP_W_VEC w.n) (fun t => t.plain w)

def regOpsAon : List RegOp :=
  [ ⟨CONE_BURN, 0, 1, fun w s => s.when (w.has CONE_BURN_GO) (fun t =>
      (t.coneStart (w.val CONE_BURN_CONE) (w.val CONE_BURN_EXPECT) (w.val CONE_BURN_VALUE) .software).1)⟩,
    ⟨FIRE_CTL, 0, 1, fun w s => s.fireCtl (fireOps w)⟩,
    ⟨FIRE_FL_CMD, 0, 1, fun w s => s.flashStart (w.val FIRE_FL_CMD_OP)⟩,
    ⟨PWR_GOV, 0, 1, fun w s => (s.plain w).govern⟩,
    ⟨PWR_W_MODEREQ 0, 0x1000, 2, fun w s => (s.plain w).govern⟩,
    ⟨PWR_W_DOMREQ 0, 0x1000, 2, fun w s => s.when (w.hits (PWR_W_DOMREQ_OFF 0)) (fun t =>
      t.domReqWrite w.a (worldOf w.n) (w.val (PWR_W_DOMREQ_OFF 0)))⟩,
    ⟨PWR_W_GATE 0, 0x1000, 2, fun w s => s.when (w.has (PWR_W_GATE_GO 0)) (fun t =>
      t.gateReq w.a (worldOf w.n) (w.val (PWR_W_GATE_BLOCK 0)) (w.has (PWR_W_GATE_GATE 0)))⟩,
    ⟨PWR_S_CORE 0, 8, 8, fun w s => s.when (w.hits (PWR_S_CORE_REQ 0)) (fun t => t.coreReq w.n (w.val (PWR_S_CORE_REQ 0)))⟩,
    ⟨WAKE_SWREQ, 0, 1, fun w s => s.when (w.has WAKE_SWREQ_GO) (fun t => t.wakeSw w.a)⟩,
    ⟨SUP_W_IRQ_EN 0, 0x1000, 2, fun w s => s.supEnable w⟩ ]

def regOpsSec : List RegOp :=
  [ ⟨WDN_MSG, 0, 1, fun w s => s.when (w.hits WDN_MSG_EIID) (fun t => (t.msiTo (t.agentWorld w.a) (agentSrc w.a) 12 0 (w.v % 2 ^ 32)).1)⟩,
    ⟨WDN_IEN, 0, 1, fun w s => (s.plain w).irqWake 12⟩,
    ⟨WMK_REQ, 0, 1, fun w s => s.when (w.has WMK_REQ_GO) (fun t => t.wmkRequest (w.val WMK_REQ_NEW) (w.val WMK_REQ_EXPECT))⟩,
    ⟨HOV_W_REQ 0, 0x1000, 2, fun w s =>
      if w.has (HOV_W_REQ_WITHDRAW 0) then s.hovWithdraw (worldOf w.n)
      else s.when (w.has (HOV_W_REQ_GO 0)) (fun t => t.hovRequest (worldOf w.n) (w.val (HOV_W_REQ_BLOCK 0)))⟩,
    ⟨HOV_S_CONSENT, 0, 1, fun w s => s.when (w.v % 4 != 0) (fun t => t.hovConsent (w.has HOV_S_CONSENT_GRANT) (w.has HOV_S_CONSENT_REFUSE))⟩,
    ⟨HOV_S_PMCONSENT, 0, 1, fun w s => s.when (w.v % 4 != 0) (fun t =>
      t.pmConsent (w.has HOV_S_PMCONSENT_GRANT) (w.has HOV_S_PMCONSENT_REFUSE))⟩,
    ⟨HOV_W_IRQ_EN 0, 0x1000, 2, fun w s => s.hovIrq (worldOf w.n) (fun t => t.plain w)⟩,
    ⟨HOV_S_IRQ_EN, 0, 1, fun w s => s.hovIrq .secure (fun t => t.plain w)⟩,
    ⟨SWD_KICK 0, 0x10, 2, fun w s => s.when (w.hits (SWD_KICK_SEQ 0)) (fun t => t.swdKick w.n (w.val (SWD_KICK_SEQ 0)))⟩,
    ⟨KEY_LDGPUB_QX 0, 8, 9, fun w s => if w.a == .hart 12 then s.wr w.reg (s.whole w) else s⟩ ]

/-! ### TKD -/

/-- A write of `VT_DOMd_CFG`: GPTP_DN stands while the domain is enabled (R111). -/
def State.domCfg (s : State) (w : RegWr) : State :=
  let t := s.plain w
  (if s.domEnabled w.n then t.put (VT_DOM_CFG_GPTP_DN w.n) (s.get (VT_DOM_CFG_GPTP_DN w.n)) else t).ptpSelectAll

/-- A write of RUN (R290): a core starts at `TKC_RESETPC`, its write buffer completing as it was. -/
def State.tkRun (s : State) (n : Nat) (run : Bool) : State :=
  if s.on (TKC_CTL_RUN n) == run then s
  else if run then (s.put (TKC_CTL_RUN n) 1).tkStart n (s.get (TKC_RESETPC_OFFSET n)) else s.tkStop n

/-- A ring configuration of the wheel: LOG2 within 4 to 15; a ring that is disabled frees the entries that wait for it (R124). -/
def State.wheelRing (s : State) (w : RegWr) (o : WOwner) : State :=
  let t := (s.plain w).clampFld (ringLog o) 4 15
  t.when (s.on (ringEn o) && !t.on (ringEn o)) (fun u => u.ringDisabled o)

def regOpsTkd : List RegOp :=
  [ ⟨VT_CTL, 0, 1, fun w s => ((s.when (w.has VT_CTL_SNAP) State.vtSnap).plain w).ptpSelectAll⟩,
    ⟨VT_DOM_CFG 0, 8, 4, fun w s => s.domCfg w⟩,
    ⟨DISC_CTL 0, 0x100, 4, fun w s => s.when (w.hits (DISC_CTL_MODE 0)) (fun t =>
      t.discCtl w.n (w.has (DISC_CTL_MODE 0)) (w.val (DISC_CTL_PRESET 0)) (w.val (DISC_CTL_SWSTATE 0)))⟩,
    ⟨DISC_RATE 0, 0x100, 4, fun w s => s.rateWrite w.n (bitsOf (s.whole w) 0 (DISC_RATE_RATE 0).w)⟩,
    ⟨DISC_GO 0, 0x100, 4, fun w s => s.discGo w.a w.n (w.val (DISC_GO_OP 0)) (w.val (DISC_GO_SLEW_PPM 0))⟩,
    ⟨PTP_D_PRIO 0, 0x40, 4, fun w s => (s.plain w).ptpSelect w.n⟩,
    ⟨TP_CFG 0, 0x40, 16, fun w s => (s.plain w).pinLevels w.n (w.has (TP_CFG_LEVEL_SET 0)) (w.has (TP_CFG_LEVEL_CLR 0))⟩,
    ⟨TP_GEN_ANCHOR 0, 0x40, 16, fun w s => s.genParam w.n .anchor (s.whole w)⟩,
    ⟨TP_GEN_PERIOD 0, 0x40, 16, fun w s => s.genParam w.n .period (bitsOf (s.whole w) 0 (TP_GEN_PERIOD_NS 0).w)⟩,
    ⟨TP_GEN_WIDTH 0, 0x40, 16, fun w s => s.genParam w.n .width (bitsOf (s.whole w) 0 (TP_GEN_WIDTH_NS 0).w)⟩,
    ⟨TP_GEN_CTL 0, 0x40, 16, fun w s => s.when (w.hits (TP_GEN_CTL_RUN 0)) (fun t => t.genRun w.n (w.has (TP_GEN_CTL_RUN 0)))⟩,
    ⟨TWH_CTL, 0, 1, fun w s => s.when (w.has TWH_CTL_CAL) (fun t => t.put TWH_CTL_CALBUSY 1)⟩,
    ⟨TWH_LEAD 0, 8, 16, fun w s => (s.plain w).when (w.hits (TWH_LEAD_NS 0)) (fun t => t.put (TWH_LEAD_MEAS w.n) 0)⟩,
    ⟨TWH_W_RING_CFG 0, 0x1000, 2, fun w s => s.wheelRing w ⟨worldOf w.n, none⟩⟩,
    ⟨TWH_S_RING_CFG 0, 0x40, 64, fun w s => s.wheelRing w ⟨s.sliceOwner, some w.n⟩⟩,
    ⟨TWH_S_QUOTA 0, 0x40, 64, fun w s => s.when (w.hits (TWH_S_QUOTA_QUOTA 0)) (fun t => t.quotaWrite w.n (w.val (TWH_S_QUOTA_QUOTA 0)))⟩,
    ⟨TWH_S_IRQ_EN 0, 0x40, 64, fun w s => s.sliceVec w.n (wheelSummary w.n) (CSL_VEC_WHEEL w.n) (fun t => t.plain w)⟩,
    ⟨TKC_CTL 0, 0x10000, 4, fun w s => s.when (w.hits (TKC_CTL_RUN 0)) (fun t => t.tkRun w.n (w.has (TKC_CTL_RUN 0)))⟩,
    ⟨TKC_MSG 0, 0x10000, 4, fun w s => s.when (w.hits (TKC_MSG_EIID 0)) (fun t =>
      (t.msiTo (t.agentWorld w.a) (agentSrc w.a) (8 + w.n) 0 (w.v % 2 ^ 32)).1)⟩,
    ⟨TKC_IEN 0, 0x10000, 4, fun w s => (s.plain w).irqWake (8 + w.n)⟩ ]

/-! ### APC and MEM -/

/-- A write of `EPO_CMD` (R459): a rollback comes before a commit. -/
def State.epoCmd (s : State) (w : RegWr) : State :=
  let s := s.when (w.has (EPO_CMD_ROLLBACK 0)) (fun t => t.epoRollback w.a w.n)
  let s := s.when (w.has (EPO_CMD_COMMIT 0)) (fun t => t.epoCommit w.n)
  s.when (w.has (EPO_CMD_RESUME 0)) (fun t => t.epoResume w.n)

/-- A write of `EPO_LOCKn`: a release comes before an acquisition. -/
def State.lockCmd (s : State) (w : RegWr) : State :=
  (s.when (w.has (EPO_LOCK_REL 0)) (fun t => t.lockRel w.a w.n)).when (w.has (EPO_LOCK_ACQ 0)) (fun t => t.lockAcq w.a w.n)

/-- A write of `CWD_CFG`: a watchdog that EN starts has a full period (R501). -/
def State.cwdCfg (s : State) (w : RegWr) : State :=
  let t := s.plain w
  t.when (!s.on (CWD_CFG_EN w.n) && t.on (CWD_CFG_EN w.n)) (fun u => u.cwdLoad w.n (u.get (CWD_CFG_PERIOD_US w.n)))

/-- A shadow write of the slot table or its weights while a swap is pending is ignored (R391). -/
def State.shadowWrite (s : State) (f : State → State) : State :=
  if s.on ARB_STATUS_SWAPPENDING then s.put ARB_STATUS_IGNORED 1 else f s

/-- A weight of 0 is taken as 1 (R389). -/
def fixWeights (v : Nat) : Nat := packBits ((List.range 11).map (fun i => (4 * i, 4, Nat.max 1 (bitsOf v (4 * i) 4))))

/-- Owners that name no port leave a slot to the background (R388). -/
def fixOwners (v : Nat) : Nat :=
  packBits ((List.range 8).map (fun b => (8 * b, 4, if bitsOf v (8 * b) 4 < 11 then bitsOf v (8 * b) 4 else 0xF)))

/-- Lines of the range of a wedge test that a register write asks for and that fail: which is free, at most one. -/
def State.freeFails (s : State) : List Nat :=
  if s.freeNat % 2 == 0 then [] else [s.get WDG_BASE_BASE * 64 + s.freeNat / 2 % (64 * (s.get WDG_LEN_PAGES + 1))]

/-- A write of `WDG_CMD`. -/
def State.wdgWrite (s : State) (w : RegWr) : State :=
  let op := w.val WDG_CMD_OP
  if op == 0 then s
  else (s.wedgeCmd (s.agentWorld w.a) op (if op == 2 then s.freeFails else [])).when (op == 2) State.tookFree

def regOpsApc : List RegOp :=
  [ ⟨ACC_WORLD 0, 0x10000, 8, fun w s => s.when (w.hits (ACC_WORLD_NEXT 0)) (fun t => t.worldWrite w.n (worldOf (w.val (ACC_WORLD_NEXT 0))))⟩,
    ⟨ACC_MTIMECMP 0, 0x10000, 8, fun w s => (s.plain w).irqWake w.n⟩,
    ⟨EPO_CFG 0, 0x100, 2, fun w s => (s.plain w).clampFld (EPO_CFG_LEN_US w.n) 20 1000⟩,
    ⟨EPO_CMD 0, 0x100, 2, fun w s => s.epoCmd w⟩,
    ⟨EPO_LOCK 0, 8, 64, fun w s => s.lockCmd w⟩,
    ⟨LKS_CTL 0, 0x40, 4, fun w s => (s.when (w.has (LKS_CTL_RESTART 0)) (fun t => t.lksRestart w.n)).when (w.has (LKS_CTL_INJECT 0))
      (fun t => t.lksInject w.a w.n)⟩,
    ⟨CWD_CFG 0, 0x40, 8, fun w s => s.cwdCfg w⟩,
    ⟨CWD_KICK 0, 0x40, 8, fun w s => s.when (w.hits (CWD_KICK_VALUE 0)) (fun t => t.cwdKick w.n)⟩ ]

def regOpsMem : List RegOp :=
  [ ⟨ARB_CTL, 0, 1, fun w s => s.when (w.has ARB_CTL_SWAP) State.arbSwap⟩,
    ⟨ARB_SH_WEIGHT, 0, 1, fun w s => s.shadowWrite (fun t => t.wr w.reg (fixWeights (t.codeWrite w)))⟩,
    ⟨ARB_SHADOW 0, 8, 128, fun w s => s.shadowWrite (fun t => t.wr w.reg (fixOwners (t.codeWrite w)))⟩,
    ⟨WDG_CMD, 0, 1, fun w s => s.wdgWrite w⟩,
    ⟨SHD_POP, 0, 1, fun w s => s.when (w.has SHD_POP_POP) State.sherdPop⟩,
    ⟨SHD_CRZ_CNT, 0, 1, fun w s => s.when (w.has SHD_CRZ_CNT_CLEAR) (fun t => t.setCraze (t.get SHD_CRZ_IDX_INDEX) none)⟩,
    ⟨PMU_BWCFG pmuMemBase, 0, 1, fun w s => (s.when (w.hits (PMU_BWCFG_WIN_US pmuMemBase)) (fun t =>
      t.bwRestart (w.val (PMU_BWCFG_WIN_US pmuMemBase)))).when (w.has (PMU_BWCFG_CLRPEAK pmuMemBase)) State.bwClearPeak⟩,
    ⟨DIR_CTL, 0, 1, fun w s => (s.plain w).clampFld DIR_CTL_BO_CAP 0 6⟩,
    ⟨DIR_INSP_ADDR, 0, 1, fun w s => s.dirLookup (bitsOf (s.whole w) DIR_INSP_ADDR_LINE.lo DIR_INSP_ADDR_LINE.w)⟩,
    ⟨DIR_RETIRE, 0, 1, fun w s => s.when (w.hits DIR_RETIRE_WAYS) (fun t => t.dirRetire (w.val DIR_RETIRE_WAYS))⟩,
    ⟨DIR_L2RET 0, 8, 8, fun w s => s.when (w.hits (DIR_L2RET_WAYS 0)) (fun t => t.l2Retire w.n (w.val (DIR_L2RET_WAYS 0)))⟩,
    ⟨SLC_RETIRE, 0, 1, fun w s => s.when (w.hits SLC_RETIRE_WAYS) (fun t => t.slcRetire (w.val SLC_RETIRE_WAYS))⟩ ]

/-! ### NET, SNS, HST and the debug window -/

/-- A write of `PORT_TC10`. -/
def State.tc10Write (s : State) (w : RegWr) : State :=
  let s := s.plain w
  (s.when (w.has (PORT_TC10_SLEEP 0)) (fun t => t.tc10Request w.n)).when (w.has (PORT_TC10_WAKE 0)) (fun t => t.tc10Wake w.n)

/-- A write of a ring's configuration: EN after the sizes (R193, R249). -/
def State.capRingCfg (s : State) (w : RegWr) : State :=
  let n := w.n / 8
  let r := w.n % 8
  let was := s.on (CAP_RING_CFG_EN n r)
  let t := (((s.plain w).clampFld (CAP_RING_CFG_DLOG2 n r) 4 15).clampFld (CAP_RING_CFG_BLOG2 n r) 4 15).clampFld (CAP_RING_CFG_BUFSZ n r) 8 24
  let en := t.on (CAP_RING_CFG_EN n r)
  (t.put (CAP_RING_CFG_EN n r) (b2n was)).capRingEn n r en

/-- A write of the configuration of injection ring `r`, or of a CAN transmit ring, 8 and 9. -/
def State.injCfg (s : State) (w : RegWr) (r : Nat) : State :=
  let was := s.on (injEn r)
  let t := (s.plain w).clampFld (injLog r) 4 12
  let en := t.on (injEn r)
  (t.put (injEn r) (b2n was)).injEnWrite r en

/-- A write of `LDG_CTL`: REINIT is seen by an EN of the same write. -/
def State.ldgCtl (s : State) (w : RegWr) : State :=
  let was := s.on LDG_CTL_EN
  let t := (s.plain w).when (w.has LDG_CTL_REINIT) (fun u => u.setLdg { u.ldg with reinit := true })
  let en := t.on LDG_CTL_EN
  ((t.put LDG_CTL_EN (b2n was)).ldgEnWrite en).when (w.has LDG_CTL_FLUSH) State.ldgFlush

/-- A write of `CSC_CTL`: a link whose enable is cleared goes down. -/
def State.cscCtl (s : State) (w : RegWr) : State :=
  let was := s.get CSC_CTL_LINKEN
  State.each [0, 1] (fun l t => t.when (bitAt was l && !bitAt (t.get CSC_CTL_LINKEN) l && t.on (CSC_LINK_UP l)) (fun u => u.linkDown l)) (s.plain w)

/-- A write of a forwarding rule: VALID set asks for a stream identifier (R529). -/
def State.fwdRuleWrite (s : State) (w : RegWr) : State :=
  let was := s.on (CSC_FWD_RULE_VALID w.n)
  let t := s.plain w
  t.when (!was && t.on (CSC_FWD_RULE_VALID w.n)) (fun u => u.fwdValid w.n)

def regOpsNet : List RegOp :=
  [ ⟨PORT_TC10 0, 0x10000, 16, fun w s => s.tc10Write w⟩,
    ⟨PORT_GCL_CTL 0, 0x10000, 17, fun w s => (s.plain w).when (w.has (PORT_GCL_CTL_CHANGE 0)) (fun t => t.gclChange w.n)⟩,
    ⟨SW_FDB_CMD, 0, 1, fun w s => s.fdbCmd (w.val SW_FDB_CMD_OP)⟩,
    ⟨SW_VLAN_DATA, 0, 1, fun w s => s.vlanWrite (mixBits (s.vlanData (s.get SW_VLAN_IDX_VID)) w.mask w.v)⟩,
    ⟨SW_INJ_CFG 0, 0x40, 8, fun w s => s.injCfg w w.n⟩,
    ⟨CAN_TX_CFG 0, 0x10000, 2, fun w s => s.injCfg w (8 + w.n)⟩,
    ⟨SW_UNPARK, 0, 1, fun w s => s.when (w.hits SW_UNPARK_TAG) (fun t =>
      t.unpark (w.val SW_UNPARK_PORT) (w.val SW_UNPARK_QUEUE) (w.val SW_UNPARK_TAG))⟩ ]

def regOpsSns : List RegOp :=
  [ ⟨CAP_RING_CFG 0 0, 0x40, 512, fun w s => s.capRingCfg w⟩,
    ⟨CSL_CMD 0, 0x80, 64, fun w s => s.sliceCmd w.n (w.val (CSL_CMD_OP 0))⟩,
    ⟨CSL_SHARE 0, 0x80, 64, fun w s => (s.plain w).clampFld (CSL_SHARE_WEIGHT w.n) 1 15⟩,
    ⟨CSL_IRQ_STATUS 0, 0x80, 64, fun w s => s.sliceIrq w.n (fun t => t.plain { w with reg := DB_IRQ_STATUS w.n })⟩,
    ⟨CSL_CNT 0 0, 4, 1024, fun w s => s.pmuWrite (.slice (w.n / 16)) (w.n % 16) w.v false⟩,
    ⟨MBX_MCMD 0, 0x80, 64, fun w s => s.when (w.has (MBX_MCMD_SEND 0)) (fun t => t.mbxSend w.n true (w.val (MBX_MCMD_EXPSEQ 0)))⟩,
    ⟨MBX_MACK 0, 0x80, 64, fun w s => s.mbxAck w.n false (w.val (MBX_MACK_SEQ 0))⟩,
    ⟨MBX_MEVT_EN 0, 0x80, 64, fun w s => s.managerIrq w.n (fun t => t.plain w)⟩ ]

def regOpsHst : List RegOp :=
  [ ⟨LDG_CTL, 0, 1, fun w s => s.when (w.hits LDG_CTL_EN) (fun t => t.ldgCtl w)⟩,
    ⟨LDG_RPL_CMD, 0, 1, fun w s => s.replayCmd (w.val LDG_RPL_CMD_OP)⟩,
    ⟨CSC_CTL, 0, 1, fun w s => s.cscCtl w⟩,
    ⟨CSC_KEYSTAGE 0, 8, 4, fun w s => s.wr w.reg (s.whole w)⟩,
    ⟨CSC_KEYCMD, 0, 1, fun w s => s.when (w.has CSC_KEYCMD_GO) State.keyInstall⟩,
    ⟨CSC_FWD_RULE 0, 0x10, 64, fun w s => s.fwdRuleWrite w⟩,
    ⟨CSC_MBX_TX_CMD 0, 0x100, 4, fun w s => s.when (w.has (CSC_MBX_TX_CMD_SEND 0)) (fun t => t.cscMbxSend w.n (w.val (CSC_MBX_TX_CMD_EXPSEQ 0)))⟩,
    ⟨CSC_MBX_RX_ACK 0, 0x100, 4, fun w s => s.cscMbxAck w.n (w.val (CSC_MBX_RX_ACK_SEQ 0))⟩,
    ⟨XTRG_PULSE, 0, 1, fun w s => s.xtrgSend 14 (w.val XTRG_PULSE_CH)⟩,
    ⟨DAP_LOCKREL, 0, 1, fun w s => s.when (w.has DAP_LOCKREL_GO) (fun t => t.dapLockRel (w.val DAP_LOCKREL_LOCK))⟩ ]

/-! ### Command registers built from two halves (R558) -/

/-- A command register whose fields stand in both halves: which half holds the start field, what starts it, what it does. -/
structure StartOp where
  base : Nat
  stride : Nat
  count : Nat
  high : Bool
  starts : Nat → Bool
  act : RegWr → State → State

def startOps : List StartOp :=
  [ ⟨STT_UPD_CMD 0, 0x40, 4, true, fun v => bitsOf v 32 3 != 0, fun w s =>
      s.sttCmd w.n (w.val (STT_UPD_CMD_OP 0)) (w.val (STT_UPD_CMD_INDEX 0)) (w.val (STT_UPD_CMD_EXPGEN 0)) (w.has (STT_UPD_CMD_ANYGEN 0))⟩,
    ⟨STT_PROBE, 0, 1, true, fun _ => true, fun w s => s.probe (w.val STT_PROBE_KIND) (w.val STT_PROBE_KEY)⟩,
    ⟨CAP_CAM_PRESET, 0, 1, false, fun v => bitAt v 31, fun w s => s.camPreset w.v⟩,
    ⟨CAM_BC_CMD 0, 0x10000, 8, true, fun v => bitAt v 63, fun w s => s.bcCmd w.n w.v⟩,
    ⟨LDG_W_CMD 0, 0x1000, 2, true, fun v => bitAt v 63, fun w s =>
      s.swRecord (worldOf w.n) (w.val (LDG_W_CMD_TYPE 0)) (w.val (LDG_W_CMD_LEN 0)) (w.val (LDG_W_CMD_SUB 0))⟩,
    ⟨DMC_REMAP_CMD, 0, 1, true, fun v => bitAt v 63, fun w s => s.remapCmd (s.agentWorld w.a) (w.val DMC_REMAP_CMD_PAGE)⟩ ]

/-- The index of an address in an array, if it is one of its registers. -/
def arrayIndex (base stride count a : Nat) : Option Nat :=
  if stride == 0 then (if a == base then some 0 else none)
  else if base ≤ a && (a - base) % stride == 0 && (a - base) / stride < count then some ((a - base) / stride)
  else none

/-- The start register at an address. -/
def startAt (a : Nat) : Option (StartOp × Nat) :=
  startOps.findSome? (fun o => (arrayIndex o.base o.stride o.count a).map (fun n => (o, n)))

/-- The half of a start register that does not hold the start field. -/
def otherHalf (high : Bool) (v : Nat) : Nat := if high then v % 2 ^ 32 else 2 ^ 32 * (v / 2 ^ 32)

/-- Keep the half that does not start the command for the next one. -/
def State.stage (s : State) (reg v : Nat) : State := { s with staged := tabSet (fun _ => none) s.staged reg (some v) }

/-- A write of a start register, whole or by halves (R558). -/
def State.startWrite (s : State) (o : StartOp) (w : RegWr) : State :=
  let full := w.mask == 2 ^ 64 - 1
  let hi := 2 ^ 32 ≤ w.mask
  if !full && hi != o.high then s.stage w.reg w.v
  else
    let v := if full then w.v else w.v + (tabGet (fun _ => none) s.staged w.reg).getD 0
    if o.starts v then o.act { w with mask := 2 ^ 64 - 1, v := v } (s.unstaged w.reg)
    else if full then s.stage w.reg (otherHalf o.high v) else s

/-! ### All registers -/

def regOps : List RegOp := regOpsAon ++ regOpsSec ++ regOpsTkd ++ regOpsApc ++ regOpsMem ++ regOpsNet ++ regOpsSns ++ regOpsHst

/-- The operation of the register at an address, and its index. -/
def opAt (a : Nat) : Option (RegOp × Nat) := regOps.findSome? (fun o => (arrayIndex o.base o.stride o.count a).map (fun n => (o, n)))

/-- The counter page that holds an address, and the counter's number where the address is that of a counter (R515). -/
def counterAt (a : Nat) : Option (PmuPlace × Nat) :=
  let b := 0x10000 * (a / 0x10000)
  let o := a % 0x10000
  if within o 0xF000 (0xF000 + 4 * pmuN (.page b)) && (regRowAt a).isSome && b != 0x46020000 then some (.page b, (o - 0xF000) / 4) else none

/-- The block of the odd core of a fused pair: it mirrors the even core's, and its registers ignore writes (R293). -/
def State.shadowBlock (s : State) (a : Nat) : Bool :=
  within a 0x43000000 0x43080000 && a / 0x10000 % 2 == 1 && s.fused (a / 0x10000 % 8)

/-- Gate list registers, `PORT_TC10` and `PORT_TXLAT` of the ports that have none (R247). -/
def portAbsent (a : Nat) : Bool :=
  within a (PORT_TC10 16) (PORT_TC10 16 + 8) ||
  (within a (PORT_CFG 17) 0x45230000 && (within (a % 0x10000) 0x30 0x40 || within (a % 0x10000) 0x100 0x1000))

/-- A write of the bits `mask` of the register at `reg`. -/
def State.regWrite (s : State) (a : Agent) (reg mask v : Nat) : State :=
  let w : RegWr := ⟨a, 0, reg, mask, v⟩
  if s.shadowBlock reg || portAbsent reg then s
  else match startAt reg with
    | some (o, n) => s.startWrite o { w with n := n }
    | none =>
      match opAt reg with
      | some (o, n) => o.act { w with n := n } s
      | none =>
        match counterAt reg with
        | some (p, i) => s.pmuWrite p i v false
        | none => s.plain w

/-- A 32-bit piece of a write. -/
def State.regWrite4 (s : State) (a : Agent) (addr v : Nat) : State :=
  match regRowAt (addr / 8 * 8) with
  | some r =>
    if r.bytes == 8 then
      let sh := 8 * (addr % 8)
      s.regWrite a (addr / 8 * 8) ((2 ^ 32 - 1) * 2 ^ sh) (v * 2 ^ sh)
    else s.regWrite a addr (2 ^ 32 - 1) v
  | none => s.regWrite a addr (2 ^ 32 - 1) v

/-- A write of 4 or 8 bytes to registers: one 64-bit register, its half, or two 32-bit registers. -/
def State.regStore (s : State) (a : Agent) (addr bytes v : Nat) : State :=
  if bytes == 4 then s.regWrite4 a addr (v % 2 ^ 32)
  else match regRowAt addr with
    | some r => if r.bytes == 8 then s.regWrite a addr (2 ^ 64 - 1) v else (s.regWrite4 a addr (v % 2 ^ 32)).regWrite4 a (addr + 4) (v / 2 ^ 32)
    | none => (s.regWrite4 a addr (v % 2 ^ 32)).regWrite4 a (addr + 4) (v / 2 ^ 32)

end Sys2Proof.Machine
end

