-- ==== Sys2Proof/Machine/RegRead.lean ====
section
/-! DEFINITION. What a read of a register returns: stored fields, write-only fields as zero (R10, R12), live values, and the
registers whose read has a side effect (R557). -/

namespace Sys2Proof.Machine

open Sys2Proof

/-- Stored fields, without the write-only ones. -/
def State.codeRead (s : State) (reg : Nat) : Nat :=
  match regRowAt reg with
  | some r => packBits ((r.fields.filter (fun f => f.acc != .wo)).map (fun f => (f.lo, f.w, bitsOf (s.rd reg) f.lo f.w)))
  | none => 0

/-- A field of a value replaced. -/
def setFld (x : Nat) (f : Fld) (v : Nat) : Nat := putBits x f.lo f.w v

/-- A register whose value is not only stored, or an array of them. -/
structure ViewOp where
  base : Nat
  stride : Nat
  count : Nat
  get : Nat → State → Nat

/-- A register whose read has a side effect. -/
structure ReadOp where
  base : Nat
  stride : Nat
  count : Nat
  act : Nat → State → State × Nat

/-! ### Live values -/

/-- `ACC_STATUS` (R295). The core of a pair that is the shadow shows the state of the even core's hart. -/
def State.accStatus (s : State) (c : Nat) : Nat :=
  let e := s.l2Of c
  let h := s.hart e
  let v := s.rd (ACC_STATUS e)
  let v := setFld v (ACC_STATUS_WFI c) (b2n (h.wfi || h.waitVt.isSome))
  let v := setFld v (ACC_STATUS_HALTED c) (b2n (h.halted && h.sb.isEmpty && h.dev.isNone))
  let v := setFld v (ACC_STATUS_SHADOW c) (s.get (ACC_STATUS_SHADOW c))
  let v := setFld v (ACC_STATUS_WORLD c) (worldNum h.world)
  setFld (setFld v (ACC_STATUS_VIRT c) (b2n (virt h.priv))) (ACC_STATUS_PRIV c) (privNum h.priv)

/-- `TKC_STATUS` (R296). -/
def State.tkStatus (s : State) (n : Nat) : Nat :=
  let h := s.hart (8 + n)
  packBits [(0, 1, b2n h.running), (1, 1, b2n h.wfi), (2, 1, b2n h.waitVt.isSome), (3, 1, b2n h.halted), (4, 1, b2n h.fabric.isSome)]

/-- `DAP_STATUS` (R518). -/
def State.dapStatus (s : State) : Nat :=
  let v := setFld (setFld (s.rd DAP_STATUS) DAP_STATUS_ATTACHED (b2n s.dbgm.active)) DAP_STATUS_EN s.dbgEn
  setFld v DAP_STATUS_EMUL (packBits ((List.range 8).map (fun d => (d, 1, b2n (s.dom d).emul))))

/-- `CWD_COUNT`: µs that remain, rounded up, and whether the watchdog is frozen (R519). -/
def State.cwdView (s : State) (c : Nat) : Nat :=
  packBits [(0, 20, (tabGet (fun _ => 0) s.guard.cwdLeft c + 249) / 250), (20, 1, b2n (s.cwdFrozen c))]

/-- `DISC_REMAIN` while a slew runs (R80). -/
def State.remainView (s : State) (d : Nat) : Nat :=
  if s.on (DISC_STATUS_SLEWING d) then ofSigned 64 ((s.tdom d).slew / 2 ^ 24) else s.rd (DISC_REMAIN d)

def viewOps : List ViewOp :=
  [ ⟨AOT_NOW, 0, 1, fun _ s => if s.power.aotValid then s.power.aot / 2 ^ 32 % 2 ^ 64 else 0⟩,
    ⟨SWD_CLS 0, 0x10, 2, fun c s => setFld (s.rd (SWD_CLS c)) (SWD_CLS_REMAIN_MS c) (s.swdRemain c)⟩,
    ⟨SWD_STATUS, 0, 1, fun _ s => setFld (s.rd SWD_STATUS) SWD_STATUS_FROZEN (b2n s.swdFrozen)⟩,
    ⟨VT_NOW 0, 8, 4, fun d s => if s.domEnabled d then s.vt d else 0⟩,
    ⟨DISC_REMAIN 0, 0x100, 4, fun d s => s.remainView d⟩,
    ⟨PTP_CLKID, 0, 1, fun _ _ => Config.eui % 2 ^ 64⟩,
    ⟨TP_CAPX 0, 0x40, 16, fun n s => s.capxValue n⟩,
    ⟨TWH_INSP 0, 8, 4, fun i s => bitsOf s.wheel.insp (64 * i) 64⟩,
    ⟨TWH_W_POOL 0, 0x1000, 2, fun w s => setFld (s.rd (TWH_W_POOL w)) (TWH_W_POOL_SIZE w) (s.poolSize (worldOf w))⟩,
    ⟨TKC_STATUS 0, 0x10000, 4, fun n s => s.tkStatus n⟩,
    ⟨TKC_CYCLE 0, 0x10000, 4, fun n s => (s.hart (8 + n)).cycle % 2 ^ 64⟩,
    ⟨ACC_STATUS 0, 0x10000, 8, fun c s => s.accStatus c⟩,
    ⟨CWD_COUNT 0, 0x40, 8, fun c s => s.cwdView c⟩,
    ⟨ARB_STATUS, 0, 1, fun _ s => setFld (s.rd ARB_STATUS) ARB_STATUS_PRESENT s.portsPresent⟩,
    ⟨SHD_HEAD 0, 8, 4, fun i s => bitsOf s.mem.sherdLatch (64 * i) 64⟩,
    ⟨SHD_CRZ_ENT, 0, 1, fun _ s => s.crazeView.1⟩,
    ⟨SHD_CRZ_CNT, 0, 1, fun _ s => s.crazeView.2.1⟩,
    ⟨SHD_CRZ_LAST, 0, 1, fun _ s => s.crazeView.2.2⟩ ] ++
  [ ⟨SW_BUF, 0, 1, fun _ s => packBits [(0, 15, s.sharedSize), (32, 15, s.sharedCells)]⟩,
    ⟨SW_VLAN_DATA, 0, 1, fun _ s => s.vlanData (s.get SW_VLAN_IDX_VID)⟩,
    ⟨PORT_TXLAT 0, 0x10000, 17, fun p s => s.launchLat p⟩,
    ⟨PORT_BUF 0, 0x10000, 19, fun p s => setFld (s.rd (PORT_BUF p)) (PORT_BUF_USED p) (s.portCells p)⟩,
    ⟨PODL_STATUS, 0, 1, fun _ s =>
      packBits [(0, 1, s.get SUP_STATUS_PODL_OK), (1, 1, b2n s.power.sup.classified), (8, 8, Nat.min 255 (s.power.sup.podlVin / 25))]⟩,
    ⟨CSL_STAT 0, 0x80, 64, fun n s => setFld (s.rd (CSL_STAT n)) (CSL_STAT_OUTSTANDING n) (s.outstanding n)⟩,
    ⟨CSL_IRQ_STATUS 0, 0x80, 64, fun n s => s.rd (DB_IRQ_STATUS n)⟩,
    ⟨CSL_DEVID 0, 0x80, 64, fun n _ => 0x100 + n⟩,
    ⟨CSL_PMU_SNAP 0, 0x80, 64, fun n s => s.snapValue (.slice n) (s.get (CSL_PMU_CTL_SNAPIDX n))⟩,
    ⟨LDG_NVME_SQADDR, 0, 1, fun _ _ => Config.ldgSqAddr % 2 ^ 64⟩,
    ⟨LDG_NVME_CQADDR, 0, 1, fun _ _ => Config.ldgCqAddr % 2 ^ 64⟩,
    ⟨DMC_STATUS, 0, 1, fun _ s => b2n s.boot.trained⟩,
    ⟨DAP_STATUS, 0, 1, fun _ s => s.dapStatus⟩ ] ++
  [ ⟨PMU_SNAP (pmuCoreBase 0), 0x10000, 8, fun c s => s.snapValue (.page (pmuCoreBase c)) (s.get (PMU_SNAPSEL_IDX (pmuCoreBase c)))⟩,
    ⟨PMU_SNAP pmuMemBase, 0, 1, fun _ s => s.snapValue (.page pmuMemBase) (s.get (PMU_SNAPSEL_IDX pmuMemBase))⟩,
    ⟨PMU_SNAP (pmuPortBase 0), 0x10000, 19, fun p s => s.snapValue (.page (pmuPortBase p)) (s.get (PMU_SNAPSEL_IDX (pmuPortBase p)))⟩ ]

/-- The present value of a register. -/
def State.regView (s : State) (reg : Nat) : Nat :=
  if portAbsent reg then 0
  else match s.coneView reg with
    | some v => v
    | none =>
      match viewOps.findSome? (fun o => (arrayIndex o.base o.stride o.count reg).map (fun n => o.get n s)) with
      | some v => v
      | none => s.codeRead reg

/-! ### Reads with a side effect (R557) -/

def readOps : List ReadOp :=
  [ ⟨FIRE_FL_DATA, 0, 1, fun _ s => s.flashData⟩,
    ⟨WDN_CLAIM, 0, 1, fun _ s => s.licClaim 4⟩,
    ⟨TP_CAP 0, 0x40, 16, fun n s => s.capPop n⟩,
    ⟨TWH_INSP 0, 0, 1, fun _ s => s.inspRead⟩,
    ⟨TKC_CLAIM 0, 0x10000, 4, fun n s => s.licClaim n⟩,
    ⟨SHD_HEAD 0, 0, 1, fun _ s => s.sherdHead⟩,
    ⟨STT_RD 0, 0, 1, fun _ s => s.sttSnap⟩,
    ⟨STT_MISSQ, 0, 1, fun _ s => s.missPop⟩ ]

/-- The read of the register at an address has a side effect. -/
def readAt (a : Nat) : Option (State → State × Nat) :=
  readOps.findSome? (fun o => (arrayIndex o.base o.stride o.count a).map o.act)

/-- Part of a register's value. -/
def halfOf (v : Nat) : Half → Nat
  | .full => v
  | .low => v % 2 ^ 32
  | .high => v / 2 ^ 32

/-- A read of the register at `reg`, whole or a half. The block of the odd core of a fused pair shows the even core's (R293). -/
def State.regRead (s : State) (dbg : Bool) (reg : Nat) (half : Half) : State × Nat :=
  let reg := if s.shadowBlock reg && reg % 0x10000 != 0 then reg - 0x10000 else reg
  match readAt reg with
  | some f => if dbg then (s, halfOf (f s).2 half) else s.readEffect reg half f
  | none => (s, halfOf (s.regView reg) half)

/-- A read of a 32-bit piece. -/
def State.regRead4 (s : State) (dbg : Bool) (addr : Nat) : State × Nat :=
  match regRowAt (addr / 8 * 8) with
  | some r => if r.bytes == 8 then s.regRead dbg (addr / 8 * 8) (if addr % 8 == 0 then .low else .high) else s.regRead dbg addr .full
  | none => s.regRead dbg addr .full

/-- A read of 4 or 8 bytes of registers. -/
def State.regLoad (s : State) (dbg : Bool) (addr bytes : Nat) : State × Nat :=
  let two : State × Nat :=
    let (t, lo) := s.regRead4 dbg addr
    let (t, hi) := t.regRead4 dbg (addr + 4)
    (t, lo + 2 ^ 32 * hi)
  if bytes == 4 then s.regRead4 dbg addr
  else match regRowAt addr with
    | some r => if r.bytes == 8 then s.regRead dbg addr .full else two
    | none => two

end Sys2Proof.Machine
end

