-- ==== Sys2Proof/Machine/Bus.lean ====
section
/-! DEFINITION. Accesses that reach register windows and memory from anywhere but a hart's pipe: register writes, the system bus of
the debug module, DMA, inbound PCIe, what a remote module asks for, landing timed actions, and what an epoch's commit issues
(R11, R12, R33, R36, R43, R123, R132, R133, R199, R213, R306 to R308, R451 to R453, R494, R558). -/

namespace Sys2Proof.Machine

open Sys2Proof

/-! ### The doorbell page (R213) -/

/-- A write of 4 bytes at offset `o` of the doorbell page of slice `n`. -/
def State.dbWrite (s : State) (n o v : Nat) : State :=
  if o < 0x80 then
    if o % 16 == 0 then s.submit n (o / 16) (v % 2 ^ 16)
    else if o % 16 == 4 then s.put (CAP_DRING_HEAD_HEAD n (o / 16)) v else s
  else if o == 0x100 then s.clear ⟨DB_IRQ_STATUS n, 0, 11⟩ (v % 2 ^ 11)
  else if o == 0x104 then s.sliceIrq n (fun t => t.put (DB_IRQ_EN_EN n) v)
  else if within o 0x200 0x220 && o % 4 == 0 then s.put (DB_TX_WORD n ((o - 0x200) / 4)) v
  else if o == 0x220 then s.when (bitAt v 0) (fun t => t.mbxSend n false (bitsOf v 16 16))
  else if o == 0x264 then s.mbxAck n true (v % 2 ^ 16)
  else if o == 0x304 then s.put (TWH_S_RING_HEAD_HEAD n) v
  else if o == 0x308 then s.clear ⟨TWH_S_IRQ_STATUS n, 0, 6⟩ (v % 2 ^ 6)
  else if o == 0x310 then s.dlQuery n (v % 2 ^ 18)
  else s

/-- A read of 4 bytes at offset `o` of the doorbell page of slice `n`. -/
def State.dbRead (s : State) (n o : Nat) : Nat :=
  let r := o / 16
  if o < 0x80 then
    if o % 16 == 0 then s.get (CAP_BRING_TAIL_TAIL n r) else if o % 16 == 4 then s.get (CAP_DRING_HEAD_HEAD n r)
    else if o % 16 == 8 then s.get (CAP_DRING_TAIL_TAIL n r) else if o % 16 == 12 then s.get (CAP_BRING_HEAD_HEAD n r) else 0
  else if o == 0x80 then setFld (s.codeRead (DB_RESULT n)) (DB_RESULT_OUTSTANDING n) (s.outstanding n)
  else if o == 0x84 then packBits [(0, 6, n), (8, 2, s.get (CSL_STAT_STATE n)), (16, 16, s.get (CSL_SHARE_DEPTH n))]
  else if o == 0x300 then s.get (TWH_S_RING_TAIL_TAIL n)
  else if o == 0x304 then s.get (TWH_S_RING_HEAD_HEAD n)
  else if o == 0x308 then s.get ⟨TWH_S_IRQ_STATUS n, 0, 6⟩
  else if within o 0x400 0x440 then s.get (CSL_CNT_COUNT n ((o - 0x400) / 4))
  else s.codeRead (DB_BRING_TAIL n 0 + o)

/-! ### Any register window -/

/-- The 64-bit registers of the IOMMU by their offset (log entry 21). -/
def ioWide (o : Nat) : Bool :=
  [0, 16, 24, 40, 56, 608, 616, 760].contains o || (within o 96 608 && o % 8 == 0) || (within o 768 1024 && o % 16 == 0)

/-- A write of 4 or 8 bytes in the IOMMU's register file: 64-bit registers whole or by halves, others 4 bytes each. -/
def State.ioStore (s : State) (o bytes v : Nat) : State :=
  let b := o / 8 * 8
  if ioWide b then s.ioWrite b 8 (if bytes == 8 then v else putBits (s.ioRead b) (8 * (o % 8)) 32 v)
  else if bytes == 8 then (s.ioWrite o 4 (v % 2 ^ 32)).ioWrite (o + 4) 4 (v / 2 ^ 32)
  else s.ioWrite o 4 (v % 2 ^ 32)

/-- A read of 4 bytes there. -/
def State.ioLoad4 (s : State) (o : Nat) : Nat :=
  if ioWide (o / 8 * 8) then bitsOf (s.ioRead (o / 8 * 8)) (8 * (o % 8)) 32 else s.ioRead o % 2 ^ 32

/-- A write of 4 or 8 bytes as one 32-bit write or two, the low one first. -/
def State.pieces (s : State) (bytes v : Nat) (f : Nat → Nat → State → State) : State :=
  if bytes == 4 then f 0 (v % 2 ^ 32) s else f 4 (v / 2 ^ 32) (f 0 (v % 2 ^ 32) s)

/-- A write that a register window performs; `sl` is the slice of an access to the doorbell page. -/
def State.winWrite (s : State) (a : Agent) (sl : Option Nat) (addr bytes v : Nat) : State :=
  if isDoorbell addr then
    match sl with
    | some n => s.pieces bytes v (fun k x t => t.dbWrite n (addr % 0x1000 + k) x)
    | none => s
  else if imsicPage addr then s.pieces bytes v (fun k x t => t.msiWrite (s.agentWorld a) (agentSrc a) (addr + k) x)
  else if addr / 0x10000 == IOMMU / 0x10000 then s.ioStore (addr % 0x10000) bytes v
  else if addr / 0x10000 == 0x4330 || addr / 0x10000 == 0x4331 then
    s.pieces bytes v (fun k x t => t.aplicWrite (addr / 0x10000 - 0x4330) (addr % 0x10000 + k) x)
  else s.regStore a addr bytes v

/-- A read that a register window performs; `dbg` is the debug attribute (R495). -/
def State.winRead (s : State) (sl : Option Nat) (dbg : Bool) (addr bytes : Nat) : State × Nat :=
  let two (f : Nat → Nat) : State × Nat := (s, if bytes == 4 then f addr else f addr + 2 ^ 32 * f (addr + 4))
  if isDoorbell addr then two (fun x => match sl with
    | some n => s.dbRead n (x % 0x1000)
    | none => 0)
  else if imsicPage addr then (s, 0)
  else if addr / 0x10000 == IOMMU / 0x10000 then two (fun x => s.ioLoad4 (x % 0x10000))
  else if addr / 0x10000 == 0x4330 || addr / 0x10000 == 0x4331 then
    two (fun x => s.aplicRead (addr / 0x10000 - 0x4330) (x % 0x10000) % 2 ^ 32)
  else s.regLoad dbg addr bytes

/-- The address lies in a register window or in the debug window. -/
def State.isWindow (s : State) (addr : Nat) : Bool :=
  match s.region addr with
  | .regs _ _ _ | .debug _ _ => true
  | _ => false

/-- A write of an agent to a register window (R11, R42, R43, R494). -/
def State.busWrite (s : State) (a : Agent) (addr bytes v : Nat) : State :=
  if !s.agentLive a then s
  else if isDap a && !s.sbAllowed (s.agentWorld a) true addr then s.sbEnd 7 .denied
  else match s.winJudge a (s.agentSlice a) true addr bytes with
    | .ok =>
      let t := s.winWrite a (s.agentSlice a) addr bytes v
      if isDap a then t.sbEnd 0 .ok else t
    | .bad => s.regFault a true addr
    | .refuse st =>
      (s.regRefused a true addr st).when (addr / 8 == DAP_LOCKREL / 8 && !isDap a) (fun t => t.res DAP_LOCKRES_STATUS .denied)

def execRegisterWrite (a : Agent) (addr : PAddr) (bytes : Nat) (data : Word) (s : State) : Ans :=
  .next (if s.isWindow addr.toNat then s.busWrite a addr.toNat bytes data.toNat else s)

/-- The half of a command register that does not hold its start field (R558). -/
def stageHalf (addr : Nat) : Bool :=
  match startAt (addr / 8 * 8) with
  | some (o, _) => addr % 8 == (if o.high then 0 else 4)
  | none => false

def execHalfWriteStage (a : Agent) (addr : PAddr) (data : BitVec 32) (s : State) : Ans :=
  .next (if stageHalf addr.toNat then s.busWrite a addr.toNat 4 data.toNat else s)

/-! ### Cascade windows (R36) -/

/-- The module whose window an address lies in is not present. -/
def State.windowAbsent (s : State) (addr : Nat) : Bool :=
  match s.region addr with
  | .cascade k _ => !s.cscPresent k
  | _ => false

/-- A remote module's DENIED is recorded by the module that made the access. -/
def State.remoteDenied (s : State) (q : MemReq) (addr : Nat) : State := s.sherd kRefusedWorld .denied (srcId HST 3) q.world q.src addr q.port 0

/-- What this module serves another module: normal DRAM above the watermark outside every saggar range, or a window of a
normal-owned block. -/
def State.serves (s : State) (addr : Nat) : Bool :=
  match s.region addr with
  | .dram => decide (s.watermark ≤ addr) && !s.wmkClosed addr && (s.saggarRanges addr).isEmpty && s.fenceOpen MEM
  | .regs _ _ _ => true
  | _ => false

/-- The agent a remote access is here. -/
def remoteAgent : Agent := .device (BitVec.ofNat 16 (srcId HST 3)) .normal

/-- A remote write of DRAM goes to the array, past the caches: cascade accesses are not coherent with them. -/
def State.remoteDram (s : State) (write : Bool) (addr n v : Nat) : State :=
  let q := s.memReq remoteAgent
  if write then s.dramWrite q (addr / 64) (lineMask addr n) (v % 2 ^ (8 * n) * 2 ^ (8 * (addr % 64))) false else (s.dramRead q (addr / 64) false).1

/-- An access of another module through its window onto this one. Refusals leave no trace here (R36). -/
def State.remoteServe (s : State) (write : Bool) (addr n v : Nat) : State :=
  if !s.cscOn || !s.serves addr || addr % n != 0 then s
  else match s.region addr with
    | .dram => s.remoteDram write addr n v
    | _ => match s.winJudge remoteAgent none write addr n with
      | .ok => if write then s.winWrite remoteAgent none addr n v else (s.winRead none false addr n).1
      | _ => s

def execCascadeRemoteServe (fromId : ModId) (write : Bool) (addr : PAddr) (size : AccSize) (data : Word) (s : State) : Ans :=
  .next (if s.cscPresent fromId.val then s.remoteServe write addr.toNat size.bytes data.toNat else s)

/-! ### The system bus of the debug module (R491, R494, R495) -/

/-- The value a system bus read returns. -/
def State.sbData (s : State) (v : Nat) : State := { s with dbgm := { s.dbgm with sbdata := v } }

/-- A system bus access to anything but a register window. -/
def State.sbMemory (s : State) (w : World) (write : Bool) (addr n v : Nat) : State :=
  let a : Agent := .dap w
  let q := s.memReq a
  match s.physVerdict w none (if write then .write else .read) addr with
  | .ok =>
    if s.windowAbsent addr then s.sbEnd 2 .unavailable
    else if write then (s.memWrite q addr n v).sbEnd 0 .ok
    else
      let (t, d, p) := s.memRead q addr n
      if p then (t.sbData 0).sbEnd 7 .poison else (t.sbData d).sbEnd 0 .ok
  | r => (s.physRefuse q false r addr).sbEnd 2 (verdictStatus r)

/-- A system bus access. -/
def State.sysBus (s : State) (write : Bool) (addr n v : Nat) : State :=
  let w := worldOf (s.get DAP_SBCTL_WORLD)
  let a : Agent := .dap w
  if !s.agentLive a then s
  else if !s.sbAllowed w write addr then s.sbEnd 7 .denied
  else if s.isWindow addr then
    if write then s.busWrite a addr n v
    else match s.winJudge a none false addr n with
      | .ok => (s.sbData (s.winRead none true addr n).2).sbEnd 0 .ok
      | .bad => s.sbEnd 2 .denied
      | .refuse st => s.regRefused a false addr st
  else if addr % n != 0 then { s with dbgm := { s.dbgm with sberror := 3 } }
  else s.sbMemory w write addr n v

def execSystemBusAccess (write : Bool) (addr : PAddr) (size : AccSize) (data : Word) (s : State) : Ans :=
  .next (s.sysBus write addr.toNat size.bytes data.toNat)

/-! ### DMA (R45, R306 to R308) -/

/-- The block a device_id's DMA originates from (R307, R308). -/
def dmaBlock (dev : Nat) : Option (Nat × Nat) :=
  if within dev 0xE0 0xE8 then some (NET, 0)
  else if dev == 0xE8 || dev == 0xE9 then some (NET, dev - 0xE6)
  else if dev == 0xF0 then some (HST, 2)
  else if within dev 0x100 0x140 then some (SNS, 0)
  else if within dev 0x10000 0x20000 then some (HST, 0)
  else none

/-- One piece of a DMA access, within a line, at its physical address: what it does, and whether the access goes on. -/
def State.dmaPiece (s : State) (w : World) (src : Nat) (r : DmaReq) (pa k v : Nat) : State × Bool :=
  let a : Agent := .device (BitVec.ofNat 16 src) w
  let fault (t : State) : State := t.ioFault r (if r.write then excStoreAccess else excLoadAccess) 0
  if s.isWindow pa then
    match s.winJudge a none r.write pa k with
    | .ok => (if r.write then s.winWrite a none pa k v else (s.winRead none false pa k).1, true)
    | .bad => (fault s, false)
    | .refuse st => (fault (s.sherdRefused a st (s.region pa) pa), false)
  else if s.windowAbsent pa then (s, false)
  else if r.write then (s.memWrite (s.memReq a) pa k v, true)
  else
    let (t, _, p) := s.memRead (s.memReq a) pa k
    (t, !p)

/-- A DMA access, in pieces up to each line boundary of its address. -/
def State.dmaAll (s : State) (w : World) (src : Nat) (r : DmaReq) : Nat → Nat → Nat → List Byte → State
  | 0, _, _, _ => s
  | fuel + 1, iova, n, bs =>
    if n == 0 then s
    else
      let k := chunk iova n
      let r := { r with iova := iova }
      match s.dmaAddr w src r with
      | (s, .error _) => s
      | (s, .ok pa) =>
        match s.dmaPiece w src r pa k (leNat (bs.take k)) with
        | (s, true) => s.dmaAll w src r fuel (iova + k) (n - k) (bs.drop k)
        | (s, false) => s

/-- A DMA access of a device. A process_id comes with a PCIe function alone. -/
def State.dmaRequest (s : State) (dev : Nat) (pasid : Option Nat) (write : Bool) (iova n : Nat) (bs : List Byte) : State :=
  match dmaBlock dev with
  | none => s
  | some (d, b) =>
    let pcie := d == HST && b == 0
    if !s.runs d b || (pcie && !s.pcieLink) then s
    else
      s.dmaAll (s.owner d b) (srcId d b) ⟨dev, if pcie then pasid else none, write, iova⟩ (n / 64 + 2) iova (if write then bs.length else n) bs

def execDmaRequest (dev : DevId) (pasid : Option (BitVec 20)) (write : Bool) (iova : Word) (size : Nat) (data : List Byte) (s : State) : Ans :=
  .next (s.dmaRequest dev.toNat (pasid.map (fun p => p.toNat)) write iova.toNat (if write then data.length else size) data)

/-- An inbound PCIe request to the staging window: completion queue entries are written, the two kinds of read permitted change
nothing, every other request is an Unsupported Request (R33). -/
def State.pcieInbound (s : State) (write : Bool) (off : Nat) (bs : List Byte) : State :=
  let a := 0x38000000 + off
  if s.pcieLink && s.fenceOpen HST && s.owner HST 0 == s.owner HST 2 && write && decide (Config.ldgCqAddr ≤ a) &&
      decide (a + bs.length ≤ Config.ldgCqAddr + 256) then s.putBytes a bs
  else s

def execPcieInboundRequest (write : Bool) (off : BitVec 20) (_size : Nat) (data : List Byte) (s : State) : Ans :=
  .next (s.pcieInbound write off.toNat data)

/-! ### Timed actions land (R123, R125, R132, R133) -/

/-- The wheel as an agent, with the rights of an entry's owner. -/
def wheelAgent (w : World) : Agent := .device (BitVec.ofNat 16 (srcId TKD 2)) w

/-- A timed access of the owner at a physical address, judged at landing; a value to write, or a read. -/
def State.wheelReach (s : State) (w : World) (a n : Nat) (wr : Option Nat) : State × Status × Nat :=
  let q := wheelReq w
  if s.isWindow a then
    match s.winJudge (wheelAgent w) none wr.isSome a n with
    | .ok => match wr with
      | some v => (s.winWrite (wheelAgent w) none a n v, .ok, 0)
      | none =>
        let (t, v) := s.winRead none false a n
        (t, .ok, v)
    | .bad => (s, .denied, 0)
    | .refuse st => (s.sherdRefused (wheelAgent w) st (s.region a) a, st, 0)
  else match s.physVerdict w none (if wr.isSome then .write else .read) a with
    | .ok =>
      if s.windowAbsent a then (s, .unavailable, 0)
      else match wr with
        | some v => (s.memWrite q a n v, .ok, 0)
        | none =>
          let (t, v, p) := s.memRead q a n
          (t, if p then .poison else .ok, if p then 0 else v)
    | r => (s.physRefuse q false r a, verdictStatus r, 0)

/-- The deposit of a SAMPLE (R132). -/
def deposit (s : State) (i : Nat) (e : WEntry) (st : Status) (v : Nat) : Nat :=
  packBits [(0, 64, if st == .ok then v else 0), (64, 64, e.issueVt + s.lead e), (128, 8, s.dseq8 0), (136, 2, s.quality 0), (138, 1, b2n e.late),
    (144, 8, st8 st), (160, 32, wHandle i e)]

/-- A deposit of 32 bytes: only memory takes it (R11). -/
def State.depositWrite (s : State) (w : World) (a v : Nat) : State × Status :=
  match s.dataVerdict w .write a with
  | .ok => if s.windowAbsent a then (s, .unavailable) else (s.memWrite (wheelReq w) a 32 v, .ok)
  | r => (s.physRefuse (wheelReq w) false r a, verdictStatus r)

/-- The action of a fired STORE or SAMPLE lands; `ok` false: a PCIe function or a remote module does not answer it. -/
def State.land (s : State) (i : Nat) (ok : Bool) : State :=
  let e := s.went i
  let n := if e.sz then 8 else 4
  let out := match s.region e.addr with
    | .pcie | .cascade _ _ => !ok
    | _ => false
  if e.state != .fired || !(e.action == 3 || e.action == 7) then s
  else if e.action == 3 then
    let (s, st, _) := if out then (s, .unavailable, 0) else s.wheelReach e.world e.addr n (some (e.arg0 % 2 ^ (8 * n)))
    s.wheelFinish i st false (s.vt 0)
  else
    let (s, st, v) := if out then (s, .unavailable, 0) else s.wheelReach e.world e.addr n none
    let (s, dt) := s.depositWrite e.world e.arg0 (deposit s i e st v)
    s.wheelFinish i (highest [(st != .ok, st), (dt != .ok, dt)]) false (s.vt 0)

def execWheelActionComplete (idx : WIdx) (ok : Bool) (s : State) : Ans := .next (if s.clocked TKD 2 then s.land idx.val ok else s)

/-! ### What a commit issues (R153, R451 to R453) -/

/-- A reservation becomes ARMED or IMMINENT, or fires (R153). -/
def State.releaseArm (s : State) (i : Nat) : State :=
  let e := s.went i
  if e.reserved.isNone then s
  else
    let (s, go) := (s.setWent i { e with reserved := none }).wheelPlace i
    if go then s.issue i else s

/-- A released store is performed with the world it was retired in. -/
def State.releaseStore (s : State) (h : Nat) (w : World) (sl : Option Nat) (addr n v : Nat) : State :=
  if s.isWindow addr then
    let now := (s.hart h).world
    let t := (s.updHart h (fun k => { k with world := w })).winWrite (.hart (Fin.ofNat 13 h)) sl addr n v
    t.updHart h (fun k => { k with world := if k.world == w then now else k.world })
  else s.memWrite ⟨w, hartSrc h, agentPort (.hart (Fin.ofNat 13 h))⟩ addr n v

/-- Issue the released outputs in queue order; `fuel` bounds their number. -/
def State.releaseAll (s : State) (c : Nat) : Nat → State
  | 0 => s
  | fuel + 1 =>
    let e := s.epoch c
    match e.released with
    | [] => s
    | .arm i :: r => ((s.setEpoch c { e with released := r }).releaseArm i).releaseAll c fuel
    | .store h w sl addr n v :: r =>
      let st := s.outputStatus h w sl addr n
      if st != .ok then (s.outputDrop c 0 st).releaseAll c fuel
      else ((s.setEpoch c { e with released := r }).releaseStore h w sl addr n v).releaseAll c fuel

/-- The outputs are issued and acknowledged, and the harts of the cluster run on (R453). -/
def State.commitDone (s : State) (c : Nat) : State :=
  if s.get (EPO_STATUS_STATE c) != 1 then s
  else
    let s := s.releaseAll c (s.epoch c).released.length
    let s := ((s.inc (EPO_COMMITS_COUNT c) 1).put (EPO_LASTCOMMIT_VT c) (s.vt 0)).put (EPO_STATUS_RBRUN c) 0
    State.each (clusterHarts c) (fun h t => t.coreCount h 64) (s.put (EPO_STATUS_STATE c) 0)

def execEpochCommitDone (c : Cluster) (s : State) : Ans := .next (s.commitDone c.val)

/-- A commit forced by an instruction of hart `h`, from its begin to its end (R448, R452). -/
def State.commitNow (s : State) (h : Nat) : State := ((s.epochRelease (clusterOf h) true).coreCount h 69).commitDone (clusterOf h)

end Sys2Proof.Machine
end

