-- ==== Sys2Proof/Machine/Triggers.lean ====
section
/-! DEFINITION. Triggers (R490, R492, R498), in the layout of Sdtrig 1.0 (log entry 24), and what stands around every instruction of
a hart: waiting halt requests, the interrupt a timekeeper takes first (R286), triggers, single steps. -/

namespace Sys2Proof.Machine

open Sys2Proof

/-- Triggers of a hart (R490): of an application core 6 mcontrol6, then icount, then etrigger. -/
def trigCount (h : Nat) : Nat := if h < 8 then 8 else if h < 12 then 4 else 2

/-- The type trigger `i` of a hart can have: 6 mcontrol6, 3 icount, 5 etrigger; 15 is disabled. -/
def trigType (h i : Nat) : Nat := if h < 8 && i == 6 then 3 else if h < 8 && i == 7 then 5 else 6

/-- Where `tdata1` to `tdata3` of trigger `i` are kept among the CSRs. -/
def trigCsr (i j : Nat) : Nat := 0x10000 + 16 * i + j

/-- The trigger is of its type, not disabled. -/
def State.trigOn (s : State) (h i : Nat) : Bool := s.csr h (trigCsr i 1) / 2 ^ (hartXlen h - 4) == trigType h i

/-- The mode bits of `tdata1` by type: m, s, u, vs, vu. -/
def trigModeBit (ty : Nat) (p : Priv) : Nat :=
  if ty == 3 then (match p with
    | .m => 9 | .s => 7 | .u => 6 | .vs => 26 | .vu => 25)
  else if ty == 5 then (match p with
    | .m => 9 | .s => 7 | .u => 6 | .vs => 12 | .vu => 11)
  else (match p with
    | .m => 6 | .s => 4 | .u => 3 | .vs => 24 | .vu => 23)

/-- The trigger is enabled in a mode. -/
def State.trigMode (s : State) (h i : Nat) (p : Priv) : Bool := s.trigOn h i && bitAt (s.csr h (trigCsr i 1)) (trigModeBit (trigType h i) p)

/-- An address matches an mcontrol6 trigger: equal, at least, or below. -/
def matchAddr (d1 d2 a : Nat) : Bool :=
  match bitsOf d1 7 4 with
  | 0 => a == d2
  | 2 => decide (d2 ≤ a)
  | 3 => decide (a < d2)
  | _ => false

/-- An mcontrol6 trigger matches an access of a kind at a virtual address. -/
def State.trigMatch (s : State) (h : Nat) (k : AccKind) (va i : Nat) : Bool :=
  let d := s.csr h (trigCsr i 1)
  trigType h i == 6 && s.trigMode h i (s.hart h).priv &&
    bitAt d (match k with
      | .read => 0 | .write => 1 | .exec => 2) && matchAddr d (s.csr h (trigCsr i 2)) va

/-- The action of a trigger: bits [15:12] of mcontrol6, [5:0] of the others. -/
def State.trigAction (s : State) (h i : Nat) : Nat :=
  if trigType h i == 6 then bitsOf (s.csr h (trigCsr i 1)) 12 4 else bitsOf (s.csr h (trigCsr i 1)) 0 6

/-- A trigger's action in a world that permits it (R492); the flag says that the instruction does not execute. -/
def State.trigFire (s : State) (h i va : Nat) : State × Bool :=
  let w := s.hartWorld h
  match s.trigAction h i with
  | 0 => (s.exception h 3 va, true)
  | 1 => if s.invasive w then (s.debugHalt h 2, true) else (s, false)
  | 8 => (s.xtrgOfHart h (16 + h), false)
  | 9 => (s.xtrgOfHart h (16 + h), false)
  | _ => (s, false)

/-- The first matching trigger of an access fires; its hit bit sets. -/
def State.trigAccess (s : State) (h : Nat) (k : AccKind) (va : Nat) : State × Bool :=
  match (List.range (trigCount h)).find? (fun i => s.trigMatch h k va i) with
  | some i => (s.setCsr h (trigCsr i 1) (putBits (s.csr h (trigCsr i 1)) 22 1 1)).trigFire h i va
  | none => (s, false)

/-- The cause and the kind of the trap the hart has just taken, from the CSR of its present mode. -/
def State.causeNow (s : State) (h : Nat) : Nat :=
  match (s.hart h).priv with
  | .vs => s.csr h 0x242
  | .s => s.csr h 0x142
  | _ => s.csr h 0x342

/-- The etrigger of an application core fires after an exception of a mode it watches. -/
def State.trigTrap (s : State) (h : Nat) (from_ : Priv) : State :=
  let c := s.causeNow h
  if h < 8 && s.trigMode h 7 from_ && c < 2 ^ 63 && bitAt (s.csr h (trigCsr 7 2)) c then (s.trigFire h 7 0).1 else s

/-- The icount of an application core counts an instruction down and fires at 0. -/
def State.trigCountDown (s : State) (h : Nat) (from_ : Priv) : State :=
  let d := s.csr h (trigCsr 6 1)
  let n := bitsOf d 10 14
  if h < 8 && s.trigMode h 6 from_ && n != 0 then
    let s := s.setCsr h (trigCsr 6 1) (putBits d 10 14 (n - 1))
    if n == 1 then (s.trigFire h 6 0).1 else s
  else s

/-- What `tdata1` of trigger `i` takes of a value: its type and the fields of Sdtrig that it has; only debug mode sets `dmode`,
and only with it action 1. -/
def trigWarl (h i v : Nat) (dbg : Bool) : Nat :=
  let x := hartXlen h
  let ty := v / 2 ^ (x - 4)
  let dm := dbg && bitAt v (x - 5)
  let act (n : Nat) : Nat := if n == 8 || n == 9 || (n == 1 && dm) then n else 0
  let top := ty * 2 ^ (x - 4) + b2n dm * 2 ^ (x - 5)
  if ty != trigType h i then 15 * 2 ^ (x - 4)
  else if ty == 6 then
    let m := bitsOf v 7 4
    top + packBits [(0, 5, bitsOf v 0 5), (6, 1, bitsOf v 6 1), (7, 4, if m == 2 || m == 3 then m else 0), (12, 4, act (bitsOf v 12 4)),
      (22, 1, bitsOf v 22 1), (23, 2, if h < 8 then bitsOf v 23 2 else 0)]
  else if ty == 3 then
    top + packBits [(0, 6, act (bitsOf v 0 6)), (6, 2, bitsOf v 6 2), (9, 1, bitsOf v 9 1), (10, 14, bitsOf v 10 14), (25, 2, bitsOf v 25 2)]
  else top + packBits [(0, 6, act (bitsOf v 0 6)), (6, 2, bitsOf v 6 2), (9, 1, bitsOf v 9 1), (11, 2, bitsOf v 11 2)]

/-! ### Around an instruction -/

/-- The hart can execute an instruction: it runs, waits for nothing, and every older device access has been answered (R352). -/
def State.hartFree (s : State) (h : Nat) : Bool :=
  s.hartRuns h && !(s.hart h).wfi && (s.hart h).waitVt.isNone && !s.devPending h

/-- A timekeeper takes a pending enabled interrupt before the next instruction (R286). -/
def State.tkIrqDue (s : State) (h : Nat) : Bool :=
  8 ≤ h && h < 12 && bitAt (s.csr h csrMstatus) 3 && bitAt (Nat.land (s.mip h) (s.csr h 0x304)) 11

/-- What follows an instruction that found the hart as `was`: once it has retired or trapped, the triggers that count it, then a
step or a waiting halt. An instruction that waits has done neither. -/
def State.afterInstr (s : State) (h : Nat) (was : HartSt) : State :=
  let now := s.hart h
  if now.halted then s
  else if now.pos != was.pos then (s.trigCountDown h was.priv).pollStep h
  else if now.pc != was.pc || now.priv != was.priv then (s.trigTrap h was.priv).pollStep h
  else s

/-- The instruction is the third after a write of 1 to `ezepoch.COMMIT`, and so a commit point (R457). -/
def State.commitDue (s : State) (h : Nat) : Bool := h < 8 && s.epochMode (clusterOf h) && bitAt (s.modeVal h csrEzepoch) 0

/-- Execute `f`, at a commit point where one is due: the cluster commits first, and its checkpoint takes the effect in (R452). -/
def State.commitThen (s : State) (h : Nat) (f : State → State) : State :=
  if !s.commitDue h then f s
  else
    let s := (s.commitNow h).setCsr h csrEzepoch (putBits (s.csr h csrEzepoch) 0 1 0)
    let s := s.updHart h (fun t => { t with modeOld := t.modeOld.map (fun p => if p.1 == csrEzepoch then (p.1, putBits p.2.1 0 1 0, p.2.2) else p) })
    (f s).epochStart (clusterOf h)

/-- Execute one instruction of hart `h`. -/
def State.instr (s : State) (h : Nat) (f : State → State) : State :=
  let s := (s.pollHalt h).irqWake h
  if !s.hartFree h then s
  else if s.tkIrqDue h then s.trap h true 11 0
  else match s.trigAccess h .exec (s.hart h).pc with
    | (t, true) => t
    | (t, false) => (t.commitThen h f).afterInstr h (t.hart h)

/-- As `instr` for an access to memory at `va`, which the triggers of its kind see first. -/
def State.memInstr (s : State) (h : Nat) (k : AccKind) (va : Nat) (f : State → State) : State :=
  s.instr h (fun t => match t.trigAccess h k va with
    | (u, true) => u
    | (u, false) => f u)

/-- An instruction that application cores alone implement. -/
def State.appInstr (s : State) (h : Nat) (f : State → State) : State := s.instr h (fun t => if h < 8 then f t else t.illegal h)

end Sys2Proof.Machine
end

