-- ==== Sys2Proof/Machine/HartMem.lean ====
section
/-! DEFINITION. Loads and stores of the harts: address checks, the store buffer and its drain, forwarding, device accesses, atomics,
the reservation, `cbo.zero`, and accesses through cascade windows (R31 to R36, R274, R275, R283, R287 to R289, R347 to R370, R376,
R378, R381, R382, R440, R451, R452). -/

namespace Sys2Proof.Machine

open Sys2Proof

/-! ### Addresses -/

/-- A part of an access within one line: virtual and physical address, bytes, and PBMT (R303). -/
structure Piece where
  va : Nat
  pa : Nat
  n : Nat
  pbmt : Nat
  deriving DecidableEq, Repr

/-- The parts of an access of at most 64 bytes, translated and checked by PMP (R305): or an exception and its `xtval`. -/
def State.piecesOf (s : State) (h : Nat) (k : AccKind) (va n : Nat) : State × Except (Nat × Nat) (List Piece) :=
  let m := chunk va n
  match s.translate h k va with
  | (s, .error c) => (s, .error (c, va))
  | (s, .ok (pa, b)) =>
    if m == n then (s, .ok [⟨va, pa, n, b⟩])
    else match s.translate h k (va + m) with
      | (s, .error c) => (s, .error (c, va + m))
      | (s, .ok (pb, b')) => (s, .ok [⟨va, pa, m, b⟩, ⟨va + m, pb, n - m, b'⟩])

/-- The part lies in a device region for ordering (R347). -/
def State.isDevice (s : State) (p : Piece) : Bool := regionIo (s.region p.pa) || p.pbmt == 2

/-- A timekeeper's own local memory, which it reaches by private ports (R283, R288). -/
def State.ownLocal (s : State) (h a : Nat) : Bool :=
  match s.region a with
  | .tkLocal n _ => h == 8 + n
  | _ => false

/-- Memory a hart can execute from (R32, R283, R291). -/
def State.execRegion (s : State) (h a : Nat) : Bool :=
  match s.region a with
  | .bootRom | .secSram | .dram => decide (h < 8)
  | .tkLocal n o => h == 8 + n && o < 0x20000
  | .warden => h == 12
  | _ => false

/-- The physical check of a part (R31, R407, R440). A register window answers when the access reaches it (R42, R43). -/
def State.pieceCheck (s : State) (h : Nat) (sid : Option Nat) (k : AccKind) (p : Piece) : PhysVerdict :=
  if s.isWindow p.pa then .ok else s.physVerdict (s.hartWorld h) sid k p.pa

/-- The check of all parts: the first that fails is recorded, with its `xtval`. -/
def State.piecesCheck (s : State) (h : Nat) (sid : Option Nat) (k : AccKind) : List Piece → State × Option Nat
  | [] => (s, none)
  | p :: r =>
    match s.pieceCheck h sid k p with
    | .ok => s.piecesCheck h sid k r
    | v => (s.physRefuse (s.hartReq h) true v p.pa, some p.va)

/-- Translate and check an access, then go on with its parts: every failure is the exception of its kind. -/
def State.withPieces (s : State) (h : Nat) (k : AccKind) (va n : Nat) (f : List Piece → State → State) : State :=
  match s.piecesOf h k va n with
  | (s, .error (c, tv)) => s.exception h c tv
  | (s, .ok ps) =>
    if ps.any (fun p => s.isDevice p) && (va % n != 0 || 1 < ps.length) then s.exception h (excAccess k) va
    else if k == .exec && !ps.all (fun p => s.execRegion h p.pa && p.pbmt != 2) then s.exception h excInstAccess va
    else match s.piecesCheck h (s.hartSag h) k ps with
      | (s, some tv) => s.exception h (excAccess k) tv
      | (s, none) => f ps s

/-! ### The store buffer (R275, R348 to R351, R364 to R368) -/

/-- The store buffer of a hart. -/
def State.sb (s : State) (h : Nat) : List SbEntry := (s.hart h).sb
def State.setSb (s : State) (h : Nat) (l : List SbEntry) : State := s.updHart h (fun k => { k with sb := l })

/-- Write the bytes that `mask` names of a line that no cache covers, one by one. -/
def State.maskWrite (s : State) (q : MemReq) (line mask data : Nat) : State :=
  if mask == fullMask then s.memWrite q (64 * line) 64 data
  else State.each ((List.range 64).filter (fun i => bitAt mask i)) (fun i t => t.memWrite q (64 * line + i) 1 (bitsOf data (8 * i) 8)) s

/-- Hart `h` writes bytes of a line: through its caches to cacheable memory, else by the mesh or the fabric, where a closed fence
refuses it (R367, R440). In a cluster in epoch mode a write that finds the epoch store full commits first (R450). -/
def State.lineWrite (s : State) (h : Nat) (w : World) (nc : Bool) (line mask data : Nat) : State :=
  let q : MemReq := ⟨w, hartSrc h, (s.hartReq h).port⟩
  match s.region (64 * line) with
  | .dram =>
    if nc || 8 ≤ h then s.devWriteLine (bridgeReq q) line mask data
    else (if s.epochFull (clusterOf h) line then s.commitNow h else s).coreWrite h line mask data
  | r =>
    if ((regionDom r).map (fun d => s.fenceOpen d)) == some false then s.physRefuse q true .fenced (64 * line) else s.maskWrite q line mask data

/-- Entry `e` of the buffer is performed. -/
def State.sbPerform (s : State) (h : Nat) (e : SbEntry) : State := s.lineWrite h e.world e.nc e.line e.mask e.data

/-- The first `k` entries of the buffer leave it in order. -/
def State.sbDrain (s : State) (h : Nat) : Nat → State
  | 0 => s
  | k + 1 =>
    match s.sb h with
    | [] => s
    | e :: r => ((s.setSb h r).sbPerform h e).sbDrain h k

/-- The whole buffer drains. -/
def State.sbDrainAll (s : State) (h : Nat) : State := s.sbDrain h (s.sb h).length

/-- The entry writes bytes of an access within a line. -/
def sbTouches (e : SbEntry) (pa n : Nat) : Bool := e.line == pa / 64 && Nat.land e.mask (lineMask pa n) != 0

/-- Every entry that overlaps an access, and what stands before it, leaves the buffer (R364, R365). -/
def State.sbWait (s : State) (h pa n : Nat) : State :=
  s.sbDrain h ((s.sb h).length - ((s.sb h).reverse.takeWhile (fun e => !sbTouches e pa n)).length)

/-- The youngest entry that writes any byte of an access. -/
def State.sbYoungest (s : State) (h pa n : Nat) : Option SbEntry := (s.sb h).reverse.find? (fun e => sbTouches e pa n)

/-- The line of an entry is writable in the hart's cache (R348). -/
def State.sbWritable (s : State) (h : Nat) (e : SbEntry) : Bool :=
  match s.l2 h e.line with
  | some v => v.st != .s
  | none => false

/-- The entry leaves by the mesh or the fabric. -/
def State.sbByMesh (s : State) (e : SbEntry) : Bool := e.device || e.nc || s.region (64 * e.line) != .dram

/-- Entry `e` may leave ahead of the older entry `o`: no fence and not the same line between them, and the older one waits for its
line (R348, R350, R354). -/
def State.sbPasses (s : State) (h : Nat) (e o : SbEntry) : Bool :=
  o.fence == e.fence && o.line != e.line && !s.sbByMesh o && !s.sbWritable h o && (s.sbByMesh e || s.sbWritable h e)

/-- Entry `i` leaves the buffer: a device store to be acknowledged by its target, any other performed. -/
def State.sbLeave (s : State) (h i : Nat) : State :=
  match (s.sb h)[i]? with
  | none => s
  | some e =>
    if !((s.sb h).take i).all (fun o => s.sbPasses h e o) then s
    else
      let s := s.setSb h ((s.sb h).eraseIdx i)
      if e.device then s else s.sbPerform h e

def execStoreBufferDrain (h : Hart) (idx : Nat) (s : State) : Ans :=
  .next (if s.outOfReset APC && h.val < 8 then s.sbLeave h.val idx else s)

/-- A store enters the buffer: it shares the youngest entry where R275 lets it, else it takes an entry. -/
def State.sbPush (s : State) (h : Nat) (p : Piece) (v : Nat) : State :=
  let k := s.hart h
  let mask := lineMask p.pa p.n
  let data := v % 2 ^ (8 * p.n) * 2 ^ (8 * (p.pa % 64))
  let e : SbEntry := ⟨p.pa / 64, mask, data, s.isDevice p, p.pbmt == 1, k.fences, false, s.hartWorld h, s.hartSag h⟩
  match k.sb.getLast? with
  | some y =>
    if y.line == e.line && !y.started && !y.device && !e.device && y.nc == e.nc && y.fence == e.fence && y.world == e.world && y.sag == e.sag then
      s.setSb h (k.sb.dropLast ++ [{ y with mask := Nat.lor y.mask mask, data := mergeBytes 64 mask data y.data }])
    else s.setSb h (k.sb ++ [e])
  | none => s.setSb h [e]

/-! ### Errors a core's RAM shows (R381, R382, R399, R454) -/

/-- A correction, or a refetch that counts as one, of hart `h`'s cache or local memory. -/
def State.ramMended (s : State) (h kind line ukind unit : Nat) : State :=
  let s := (s.sherd kind .ok (hartSrc h) (s.hartWorld h) (hartSrc h) (lineAddr line) (s.hartReq h).port (s.freeNat % 2 ^ 29)).tookFree
  (s.crazeCount (hartSrc h) ukind unit).coreCount h 45

/-- An uncorrectable error in hart `h`'s cache or local memory: the record. -/
def State.ramLost (s : State) (h line : Nat) : State :=
  (s.sherd kSramUe .poison (hartSrc h) (s.hartWorld h) (hartSrc h) (lineAddr line) (s.hartReq h).port (s.freeNat % 2 ^ 29)).tookFree

/-- The error an access to a line shows: in the L2 for cacheable memory, in a timekeeper's or the warden core's own memory. The flag
says that the cluster has rolled back (R454). -/
def State.ramError (s : State) (h line : Nat) (err : SramErr) : State × Bool :=
  match err, s.region (lineAddr line) with
  | .none, _ => (s, false)
  | .corrected, .dram => match s.l2 h line with
    | some v => (s.ramMended h kSramCe line 1 (16 * h + v.way), false)
    | none => (s, false)
  | .uncorrectable, .dram => match s.l2 h line with
    | some v =>
      if v.st != .m then ((s.setL2 h line none).setDir line (dirDrop (s.dirAt line) h) |>.ramMended h kRefetch line 1 (16 * h + v.way), false)
      else
        let t := s.ramLost h line
        if s.uncommitted (clusterOf h) line then (t.rollbackOn (clusterOf h) 2 h, true)
        else (t.setL2 h line (some { v with poison := true }), false)
    | none => (s, false)
  | .corrected, _ => (if 8 ≤ h then s.ramMended h kSramCe line 4 0 else s, false)
  | .uncorrectable, _ => (if 8 ≤ h then (s.ramLost h line).setSramPoison line true else s, false)

/-! ### Loads -/

/-- The bytes of a part in a normal region, as the caches, the mesh or an array give them, with the poison flag. -/
def State.normalRead (s : State) (h : Nat) (p : Piece) : State × Nat × Bool :=
  match s.region p.pa with
  | .dram => if 8 ≤ h || p.pbmt == 1 then s.memRead (s.hartReq h) p.pa p.n else s.coreRead h p.pa p.n
  | _ => s.memRead (s.hartReq h) p.pa p.n

/-- The parts of a load, low one first, each after the overlapping stores have left the buffer. -/
def State.partsRead (s : State) (h : Nat) : List Piece → State × Nat × Bool
  | [] => (s, 0, false)
  | p :: r =>
    let (s, v, b) := (s.sbWait h p.pa p.n).normalRead h p
    let (s, u, c) := s.partsRead h r
    (s, v + u * 2 ^ (8 * p.n), b || c)

/-- The outcome of a load: a value, poisoned data (R376), or a refusal of a device, already recorded. -/
inductive LdOut where
  | ok (v : Nat)
  | poison
  | refused
  deriving DecidableEq, Repr

/-- A load of a device region by hart `h` (R11, R36, R42, R43). What PCIe and remote modules answer is free. -/
def State.deviceRead (s : State) (h : Nat) (p : Piece) : State × LdOut :=
  let a : Agent := .hart (Fin.ofNat 13 h)
  if s.isWindow p.pa then
    match s.winJudge a (s.hartSlice h) false p.pa p.n with
    | .ok =>
      let (t, v) := s.winRead (s.hartSlice h) false p.pa p.n
      (t, .ok v)
    | .bad => (s, .refused)
    | .refuse st => (s.sherdRefused a st (s.region p.pa) p.pa, .refused)
  else if s.windowAbsent p.pa then (s, .refused)
  else
    let (t, v, b) := s.memRead (s.hartReq h) p.pa p.n
    (t, if b then .poison else .ok v)

/-- A load of a normal region by an application core: forwarded from the buffer, or read (R364). -/
def State.normalLoad (s : State) (h : Nat) (ps : List Piece) (err : SramErr) : State × LdOut × Bool :=
  let fwd := match ps with
    | [p] => match s.sbYoungest h p.pa p.n with
      | some e => if Nat.land e.mask (lineMask p.pa p.n) == lineMask p.pa p.n then some (bitsOf e.data (8 * (p.pa % 64)) (8 * p.n)) else none
      | none => none
    | _ => none
  match fwd with
  | some v => (s.coreCount h 23, .ok v, false)
  | none =>
    let s := s.when (ps.any (fun p => (s.sbYoungest h p.pa p.n).isSome)) (fun t => t.coreCount h 24)
    let (s, _, _) := if err == .none then (s, 0, false) else s.partsRead h ps
    let (s, rolled) := s.ramError h (((ps.head?).map (fun p => p.pa)).getD 0 / 64) err
    if rolled then (s, .refused, true)
    else
      let (s, v, b) := s.partsRead h ps
      (s, if b then .poison else .ok v, false)

/-- A value as a register receives it. -/
def loadExt (h n : Nat) (signed : Bool) (v : Nat) : Nat :=
  if signed then ofSigned (hartXlen h) (toSigned (8 * n) v) else v % 2 ^ (8 * n)

/-- The floating-point unit is on for the present mode: `mstatus.FS`, and `vsstatus.FS` when V = 1 (log entry 18). -/
def State.fpOn (s : State) (h : Nat) : Bool :=
  h < 8 && bitsOf (s.csr h csrMstatus) 13 2 != 0 && (!virt (s.hart h).priv || bitsOf (s.csr h csrVsstatus) 13 2 != 0)

/-- A floating-point register is written, NaN-boxed; FS becomes dirty. -/
def State.setF (s : State) (h r n v : Nat) : State :=
  let box := 2 ^ 64 - 2 ^ (8 * n) + v % 2 ^ (8 * n)
  let s := s.updHart h (fun k => { k with f := tabSet (fun _ => 0) k.f r box })
  let s := s.setCsr h csrMstatus (putBits (putBits (s.csr h csrMstatus) 13 2 3) 63 1 1)
  s.when (virt (s.hart h).priv) (fun t => t.setCsr h csrVsstatus (putBits (putBits (t.csr h csrVsstatus) 13 2 3) 63 1 1))

/-- A load retires with its value. -/
def State.loadRetire (s : State) (h rd n : Nat) (signed : Bool) (kind : LoadKind) (v : Nat) : State :=
  match kind with
  | .int => (s.setX h rd (loadExt h n signed v)).retire h
  | .float => (s.setF h rd n v).retire h
  | .fetch => s

/-- Poisoned data is consumed (R376): the record, and the exception of the access. -/
def State.poisonTrap (s : State) (h : Nat) (k : AccKind) (pa va : Nat) : State := (s.consumed h pa).exception h (excAccess k) va

/-- A load in a device region is a commit point: the cluster commits, and the checkpoint takes the value in (R452). -/
def State.asCommitPoint (s : State) (h : Nat) (f : State → State) : State :=
  if h < 8 && s.epochMode (clusterOf h) then (f ((s.commitNow h).coreCount h 70)).epochStart (clusterOf h) else f s

/-- A load or fetch of hart `h` with its parts checked. -/
def State.loadGo (s : State) (h va n rd : Nat) (signed : Bool) (kind : LoadKind) (err : SramErr) (ps : List Piece) : State :=
  let k : AccKind := if kind == .fetch then .exec else .read
  match ps with
  | [] => s
  | p :: _ =>
    if ps.any (fun p => s.isDevice p) then
      if 8 ≤ h && h < 12 then s.updHart h (fun t => { t with fabric := some ⟨p.pa, n, rd, signed⟩ })
      else (s.asCommitPoint h (fun t =>
        match t.deviceRead h p with
        | (u, .ok v) => ((u.coreCount h 52).coreCount h 87).loadRetire h rd n signed kind v
        | (u, .poison) => u.poisonTrap h k p.pa va
        | (u, .refused) => u.exception h excLoadAccess va))
    else if 8 ≤ h && h < 12 && !s.ownLocal h p.pa then s.updHart h (fun t => { t with fabric := some ⟨p.pa, n, rd, signed⟩ })
    else
      let s := (s.when (kind != .fetch) (fun t => t.coreCount h 18)).when (va % n != 0) (fun t => t.coreCount h 25)
      let s := s.when ((match s.region p.pa with
        | .scratch _ _ => true
        | _ => false)) (fun t => t.coreCount h 86)
      match s.normalLoad h ps err with
      | (s, _, true) => s
      | (s, .ok v, _) => s.loadRetire h rd n signed kind v
      | (s, _, _) => s.poisonTrap h k p.pa va

/-- A load, a floating-point load or an instruction fetch. -/
def State.load (s : State) (h va n rd : Nat) (signed : Bool) (kind : LoadKind) (err : SramErr) : State :=
  if kind == .float && (!s.fpOn h || n == 1) then s.illegal h
  else if 8 ≤ h && n == 8 then s.illegal h
  else if 8 ≤ h && kind != .fetch && va % n != 0 then s.exception h excLoadMisaligned va
  else s.withPieces h (if kind == .fetch then .exec else .read) va n (fun ps t => t.loadGo h va n rd signed kind err ps)

def execLoad (h : Hart) (va : Word) (size : AccSize) (rd : RegIdx) (signed : Bool) (kind : LoadKind) (err : SramErr) (s : State) : Ans :=
  let a := va.toNat % 2 ^ hartXlen h.val
  .next (if kind == .fetch then s.instr h.val (fun t => t.load h.val a size.bytes rd.val signed kind err)
    else s.memInstr h.val .read a (fun t => t.load h.val a size.bytes rd.val signed kind err))

/-- A store in the fabric write buffer writes a byte of an access. -/
def wbufTouches (d : DevStore) (a n : Nat) : Bool := decide (d.addr < a + n) && decide (a < d.addr + d.size)

/-- The response of a timekeeper's load through the fabric (R289, R357): a device load waits for the write buffer to empty, any other
for the stores that overlap it. -/
def State.fabricResponse (s : State) (h : Nat) : State :=
  match (s.hart h).fabric with
  | none => s
  | some l =>
    let p : Piece := ⟨l.addr, l.addr, l.size, 0⟩
    let dev := s.isDevice p
    if (dev && !(s.hart h).wbuf.isEmpty) || (s.hart h).wbuf.any (fun d => wbufTouches d l.addr l.size) then s
    else
      let was := s.hart h
      let s := s.updHart h (fun t => { t with fabric := none })
      let (s, out) : State × LdOut :=
        if dev then s.deviceRead h p
        else match s.pieceCheck h none .read p with
          | .ok =>
            let (t, v, b) := s.normalRead h p
            (t, if b then .poison else .ok v)
          | v => (s.physRefuse (s.hartReq h) true v p.pa, .refused)
      let s := match out with
        | .ok v => s.loadRetire h l.rd l.size l.signed .int v
        | .poison => s.poisonTrap h .read l.addr l.addr
        | .refused => s.exception h excLoadAccess l.addr
      s.afterInstr h was

def execFabricLoadResponse (n : TkCore) (s : State) : Ans := .next (if s.hartRuns (8 + n.val) then s.fabricResponse (8 + n.val) else s)

/-! ### Stores -/

/-- Positions for which a store into instruction bytes leaves the old form possible: one on an application core (R281), two on a
timekeeper (R287). -/
def smcSpan (h : Nat) : Nat := if h < 8 then 1 else 2

/-- Lines this hart has stored to and may execute from, while an old form can still execute. -/
def State.smcNote (s : State) (h : Nat) (ps : List Piece) : State :=
  let k := s.hart h
  let live := k.smc.filter (fun e => decide (k.pos ≤ e.2))
  s.updHart h (fun t => { t with smc := live ++ ((ps.filter (fun p => s.execRegion h p.pa)).map (fun p => (p.pa / 64, k.pos + 1 + smcSpan h))) })

/-- The form in which the next instruction of hart `h`, fetched from a line, executes. -/
inductive FetchForm where
  | new | old | either
  deriving DecidableEq, Repr

/-- R281: either form just after the store; R287: the old form for two instructions. -/
def State.fetchForm (s : State) (h line : Nat) : FetchForm :=
  if (s.hart h).smc.any (fun e => e.1 == line && decide ((s.hart h).pos < e.2)) then (if h < 8 then .either else .old) else .new

/-- The data of part `p` of a store at `va`. -/
def partData (va v : Nat) (p : Piece) : Nat := v / 2 ^ (8 * (p.va - va)) % 2 ^ (8 * p.n)

/-- What a device store meets at its target: performed, or refused with the record made (R11, R36, R42, R43, R440). -/
def State.deviceWrite (s : State) (h : Nat) (d : DevStore) : State × Bool :=
  let a : Agent := .hart (Fin.ofNat 13 h)
  if s.isWindow d.addr then
    match s.winJudge a (s.hartSlice h) true d.addr d.size with
    | .ok => (s.winWrite a (s.hartSlice h) d.addr d.size d.data, true)
    | .bad => (s, false)
    | .refuse st =>
      ((s.sherdRefused a st (s.region d.addr) d.addr).when (d.addr / 8 == DAP_LOCKREL / 8) (fun t => t.res DAP_LOCKRES_STATUS .denied), false)
  else if s.windowAbsent d.addr then (s, false)
  else
    let q : MemReq := ⟨d.world, hartSrc h, (s.hartReq h).port⟩
    match regionDom (s.region d.addr) with
    | some m => if s.fenceOpen m then (s.memWrite q d.addr d.size d.data, true) else (s.physRefuse q true .fenced d.addr, false)
    | none => (s, false)

/-- The outstanding device store of an application core is acknowledged or refused (R353). -/
def State.deviceAck (s : State) (h : Nat) : State :=
  match (s.hart h).dev with
  | none => s
  | some d =>
    if (s.sb h).any (fun e => e.device) then s
    else
      let was := s.hart h
      let (s, ok) := (s.updHart h (fun t => { t with dev := none })).deviceWrite h d
      if d.orphan || !s.hartRuns h then s
      else (if ok then s.retire h else s.accessFault h true d.vaddr).afterInstr h was

def execDeviceStoreAck (h : Hart) (s : State) : Ans := .next (if s.outOfReset APC && h.val < 8 then s.deviceAck h.val else s)

/-- The oldest store of a timekeeper's write buffer leaves it (R289, R357). -/
def State.wbufDrain (s : State) (h : Nat) : State :=
  match (s.hart h).wbuf with
  | [] => s
  | d :: r =>
    let was := s.hart h
    let dev := regionIo (s.region d.addr)
    let (s, ok) := (s.updHart h (fun t => { t with wbuf := r })).deviceWrite h d
    if d.orphan || !dev || !s.hartRuns h then s
    else (if ok then s.retire h else s.accessFault h true d.vaddr).afterInstr h was

def execTkWriteBufferDrain (n : TkCore) (s : State) : Ans := .next (if s.outOfReset TKD then s.wbufDrain (8 + n.val) else s)

/-- A device store of a cluster in epoch mode enters the output queue, checked as R451 has it; a full queue commits first. -/
def State.epochStore (s : State) (h va pa n v : Nat) : State :=
  let c := clusterOf h
  let a : Agent := .hart (Fin.ofNat 13 h)
  let push (t : State) : State :=
    let t := if 256 ≤ (t.epoch c).outq.length then t.commitNow h else t
    let e := t.epoch c
    let t := t.setEpoch c { e with outq := e.outq ++ [.store h (t.hartWorld h) (t.hartSlice h) pa n v] }
    ((t.put (EPO_OUTQ_USED c) (e.outq.length + 1)).coreCount h 67).retire h
  if !s.isWindow pa then push s
  else match s.winJudge a (s.hartSlice h) true pa n with
    | .ok => push s
    | .refuse .fenced => push s
    | .bad => s.accessFault h true va
    | .refuse st => (s.sherdRefused a st (s.region pa) pa).accessFault h true va

/-- A store of an application core with its parts checked. -/
def State.storeApp (s : State) (h va n v : Nat) (ps : List Piece) : State :=
  match ps with
  | [] => s
  | p :: _ =>
    let s := (s.coreCount h 19).when (va % n != 0) (fun t => t.coreCount h 25)
    if s.isDevice p then
      let s := s.coreCount h 53
      if s.epochMode (clusterOf h) then s.epochStore h va p.pa n v
      else if 64 ≤ (s.sb h).length then s
      else (s.sbPush h p v).updHart h (fun t => { t with dev := some ⟨p.pa, va, n, v, t.pc, s.hartWorld h, false⟩ })
    else
      let t := ps.foldl (fun t q => t.sbPush h q (partData va v q)) s
      if 64 < (t.sb h).length then s.coreCount h 13 else (t.smcNote h ps).retire h

/-- A store of a timekeeper: its own memory at once, anything else by the write buffer, which a device store leaves before the
instruction retires (R289, R352, R353, R357). -/
def State.storeTk (s : State) (h va n v : Nat) (ps : List Piece) : State :=
  match ps with
  | [] => s
  | p :: _ =>
    if s.ownLocal h p.pa then ((s.memWrite (s.hartReq h) p.pa n v).smcNote h ps).retire h
    else if 4 ≤ (s.hart h).wbuf.length then s
    else
      let s' := s.updHart h (fun t => { t with wbuf := t.wbuf ++ [⟨p.pa, va, n, v, t.pc, s.hartWorld h, false⟩] })
      if s.isDevice p then s' else s'.retire h

/-- A store of the warden core completes before its next access (R358). -/
def State.storeWarden (s : State) (h va n v : Nat) (ps : List Piece) : State :=
  match ps with
  | [] => s
  | p :: _ =>
    match s.deviceWrite h ⟨p.pa, va, n, v, (s.hart h).pc, .secure, false⟩ with
    | (s, true) => (s.smcNote h ps).retire h
    | (s, false) => s.accessFault h true va

def State.store (s : State) (h va n v : Nat) : State :=
  let v := v % 2 ^ (8 * n)
  if 8 ≤ h && n == 8 then s.illegal h
  else if 8 ≤ h && va % n != 0 then s.exception h excStoreMisaligned va
  else s.withPieces h .write va n (fun ps t => if h < 8 then t.storeApp h va n v ps else if h < 12 then t.storeTk h va n v ps else t.storeWarden h va n v ps)

def execStore (h : Hart) (va : Word) (size : AccSize) (data : Word) (s : State) : Ans :=
  let a := va.toNat % 2 ^ hartXlen h.val
  .next (s.memInstr h.val .write a (fun t => t.store h.val a size.bytes data.toNat))

/-! ### Atomics (R274, R303, R362, R376) -/

/-- The operation of an AMO on values of `w` bits. -/
def amoVal (op : AmoOp) (w old src : Nat) : Nat :=
  let a := old % 2 ^ w
  let b := src % 2 ^ w
  match op with
  | .swap => b
  | .add => (a + b) % 2 ^ w
  | .xor => Nat.xor a b
  | .and => Nat.land a b
  | .or => Nat.lor a b
  | .min => if toSigned w a ≤ toSigned w b then a else b
  | .max => if toSigned w a ≤ toSigned w b then b else a
  | .minu => Nat.min a b
  | .maxu => Nat.max a b

/-- LR, SC and AMOs reach DRAM with PBMT 0 and the scratch window (R32, R303). -/
def State.atomicRegion (s : State) (p : Piece) : Bool :=
  p.pbmt == 0 && (match s.region p.pa with
    | .dram => true
    | .scratch _ _ => true
    | _ => false)

/-- An atomic of application core `h` at an aligned address: translated and checked as `k` says, overlapping stores gone. -/
def State.atomic (s : State) (h : Nat) (k : AccKind) (va n : Nat) (f : Piece → State → State) : State :=
  if 8 ≤ h || !(n == 4 || n == 8) then s.illegal h
  else if va % n != 0 then s.exception h (if k == .read then excLoadMisaligned else excStoreMisaligned) va
  else s.withPieces h k va n (fun ps t => match ps with
    | [p] => if t.atomicRegion p then f p (t.sbWait h p.pa n) else t.exception h (excAccess k) va
    | _ => t)

/-- Hart `h` writes at once: at its L2, or at the home slice of the scratch window, its own reservation apart. -/
def State.atomicWrite (s : State) (h : Nat) (p : Piece) (v : Nat) : State :=
  let r := (s.hart h).resv
  let t := s.lineWrite h (s.hartWorld h) false (p.pa / 64) (lineMask p.pa p.n) (v % 2 ^ (8 * p.n) * 2 ^ (8 * (p.pa % 64)))
  match s.region p.pa with
  | .scratch _ _ => t.updHart h (fun k => { k with resv := r })
  | _ => t

def State.amo (s : State) (h : Nat) (op : AmoOp) (va n rd src : Nat) : State :=
  s.atomic h .write va n (fun p t =>
    match t.normalRead h p with
    | (t, _, true) => t.poisonTrap h .write p.pa va
    | (t, old, false) =>
      let t := (t.atomicWrite h p (amoVal op (8 * n) old src)).smcNote h [p]
      (((t.setX h rd (loadExt h n true old)).coreCount h 48).retire h))

def execAmo (h : Hart) (op : AmoOp) (va : Word) (size : AccSize) (rd : RegIdx) (src : Word) (s : State) : Ans :=
  .next (s.memInstr h.val .write va.toNat (fun t => t.amo h.val op va.toNat size.bytes rd.val src.toNat))

/-- LR sets the reservation on its line. -/
def State.loadReserved (s : State) (h va n rd : Nat) : State :=
  s.atomic h .read va n (fun p t =>
    match t.normalRead h p with
    | (t, _, true) => t.poisonTrap h .read p.pa va
    | (t, v, false) => ((t.updHart h (fun k => { k with resv := some (p.pa / 64) })).setX h rd (loadExt h n true v)).retire h)

def execLoadReserved (h : Hart) (va : Word) (size : AccSize) (rd : RegIdx) (s : State) : Ans :=
  .next (s.memInstr h.val .read va.toNat (fun t => t.loadReserved h.val va.toNat size.bytes rd.val))

/-- SC writes while the reservation stands on its line, and clears it in either case. -/
def State.storeConditional (s : State) (h va n rd v : Nat) : State :=
  s.atomic h .write va n (fun p t =>
    let clear (u : State) : State := u.updHart h (fun k => { k with resv := none })
    if (t.hart h).resv != some (p.pa / 64) then (((clear t).setX h rd 1).coreCount h 47).retire h
    else match t.normalRead h p with
      | (t, _, true) => t.poisonTrap h .write p.pa va
      | (t, _, false) => ((((clear (t.atomicWrite h p v)).smcNote h [p]).setX h rd 0).coreCount h 46).retire h)

def execStoreConditional (h : Hart) (va : Word) (size : AccSize) (rd : RegIdx) (data : Word) (s : State) : Ans :=
  .next (s.memInstr h.val .write va.toNat (fun t => t.storeConditional h.val va.toNat size.bytes rd.val data.toNat))

/-! ### `cbo.zero` (R378) -/

/-- `cbo.zero` is enabled for the mode: CBZE of `menvcfg`, `henvcfg`, `senvcfg` (log entry 18); none, or the exception. -/
def State.cbzeFault (s : State) (h : Nat) : Option Nat :=
  let p := (s.hart h).priv
  let m := bitAt (s.csr h 0x30A) 7
  let hv := bitAt (s.csr h 0x60A) 7
  let u := bitAt (s.csr h 0x10A) 7
  if p == .m then none
  else if !m || (p == .u && !u) then some excIllegal
  else if virt p && (!hv || (p == .vu && !u)) then some excVirtual
  else none

/-- A whole line of zeros, written at once. -/
def State.cboZero (s : State) (h va : Nat) : State :=
  if 8 ≤ h then s.illegal h
  else match s.cbzeFault h with
    | some c => s.exception h c 0
    | none =>
      s.withPieces h .write (va / 64 * 64) 64 (fun ps t => match ps with
        | [p] =>
          if t.isDevice p then t.exception h excStoreAccess va
          else (((t.sbWait h p.pa 64).lineWrite h (t.hartWorld h) (p.pbmt == 1) (p.pa / 64) fullMask 0).smcNote h ps).retire h
        | _ => t)

def execCboZero (h : Hart) (va : Word) (s : State) : Ans := .next (s.memInstr h.val .write va.toNat (fun t => t.cboZero h.val va.toNat))

/-! ### Cascade windows (R36, R532) -/

/-- What a hart's access through a cascade window ends in. -/
def State.remoteEnd (s : State) (h va addr : Nat) (write : Bool) (rd : Nat) (ans : RemoteAnswer) : State :=
  match ans with
  | .data v => if write then s.retire h else (s.setX h rd v.toNat).retire h
  | .refused st => (if st == .denied then s.remoteDenied (s.hartReq h) addr else s).accessFault h write va

/-- An access of an agent through the window of module `k`: this module's check, then the remote module's answer. -/
def State.remoteAccess (s : State) (a : Agent) (va addr : Nat) (write : Bool) (rd : Nat) (ans : RemoteAnswer) : State :=
  let k : AccKind := if write then .write else .read
  let sid := match a with
    | .hart h => s.hartSag h.val
    | _ => none
  match a, s.physVerdict (s.agentWorld a) sid k addr with
  | .hart h, .ok => if s.windowAbsent addr then s.accessFault h.val write va else s.remoteEnd h.val va addr write rd ans
  | .dap _, .ok =>
    if s.windowAbsent addr then s.sbEnd 2 .unavailable
    else match ans with
      | .data v => (if write then s else s.sbData v.toNat).sbEnd 0 .ok
      | .refused st => (if st == .denied then s.remoteDenied (s.memReq a) addr else s).sbEnd 2 st
  | _, .ok => match ans with
    | .refused .denied => if s.windowAbsent addr then s else s.remoteDenied (s.memReq a) addr
    | _ => s
  | .hart h, v => (s.physRefuse (s.memReq a) true v addr).accessFault h.val write va
  | _, v => (s.physRefuse (s.memReq a) false v addr).when (isDap a) (fun t => t.sbEnd 2 (verdictStatus v))

def execCascadeWindowAccess (a : Agent) (va : Word) (addr : PAddr) (write : Bool) (rd : RegIdx) (data : Word) (answer : RemoteAnswer)
    (s : State) : Ans :=
  let go (t : State) : State := t.remoteAccess a va.toNat addr.toNat write rd.val answer
  let _ := data
  .next (match s.region addr.toNat with
    | .cascade _ _ => (match a with
      | .hart h => s.instr h.val (fun t => t.asCommitPoint h.val go)
      | .dap w => if !s.agentLive a then s else if !s.sbAllowed w write addr.toNat then s.sbEnd 7 .denied else go s
      | .device _ _ => if s.agentLive a then go s else s)
    | _ => s)

end Sys2Proof.Machine
end

