-- ==== Sys2Proof/Machine/Csr.lean ====
section
/-! DEFINITION. The CSRs of the harts: which exist, who may reach them, what they read and what a write stores. The device's own are
those of R141 to R143, R277 to R280, R421 and R457; the others have the layout of the RISC-V privileged architecture and the Advanced
Interrupt Architecture (R297, R300, R304, R310, R320, R512; log entries 18, 19, 20, 24, 26). -/

namespace Sys2Proof.Machine

open Sys2Proof

/-! ### Which CSRs exist -/

/-- The address lies in one of the ranges. -/
def inRanges (l : List (Nat × Nat)) (a : Nat) : Bool := l.any (fun r => within a r.1 r.2)

/-- CSRs of an application core (R273, R277, R297, R304, R310, R320). -/
def csrsApp : List (Nat × Nat) :=
  [(0x001, 0x004), (0x008, 0x00B), (0x00F, 0x010), (0x100, 0x101), (0x104, 0x107), (0x10A, 0x10B), (0x10C, 0x110), (0x140, 0x145),
    (0x14D, 0x14E), (0x150, 0x152), (0x15C, 0x15D), (0x180, 0x181), (0x200, 0x201), (0x204, 0x206), (0x240, 0x245), (0x24D, 0x24E),
    (0x250, 0x252), (0x25C, 0x25D), (0x280, 0x281)] ++
  [(0x300, 0x307), (0x308, 0x30B), (0x30C, 0x310), (0x320, 0x321), (0x323, 0x345), (0x34A, 0x34C), (0x350, 0x352), (0x35C, 0x35D),
    (0x3A0, 0x3A1), (0x3A2, 0x3A3), (0x3B0, 0x3C0), (0x5C0, 0x5C2), (0x600, 0x601), (0x602, 0x60B), (0x60C, 0x610), (0x643, 0x648),
    (0x64A, 0x64B), (0x680, 0x681), (0x747, 0x748), (0x7A0, 0x7A5), (0x7B0, 0x7B4), (0x7C0, 0x7C3), (0x800, 0x802)] ++
  [(0xB00, 0xB01), (0xB02, 0xB20), (0xC00, 0xC23), (0xCC0, 0xCC1), (0xDA0, 0xDA1), (0xDB0, 0xDB1), (0xE12, 0xE13), (0xEB0, 0xEB1),
    (0xF11, 0xF16), (0xFB0, 0xFB1), (0xFC0, 0xFC1)]

/-- CSRs of an RV32 core in M-mode. -/
def csrsRv32 : List (Nat × Nat) :=
  [(0x300, 0x302), (0x304, 0x306), (0x310, 0x311), (0x320, 0x321), (0x323, 0x345), (0x7A0, 0x7A5), (0x7B0, 0x7B4), (0xB00, 0xB01),
    (0xB02, 0xB20), (0xB80, 0xB81), (0xB82, 0xBA0), (0xC00, 0xC03), (0xC80, 0xC83), (0xF11, 0xF16)]

/-- The CSR exists on hart `h` (R141, R273, R283, R291). -/
def csrKnown (h a : Nat) : Bool :=
  if h < 8 then inRanges csrsApp a
  else if h < 12 then inRanges csrsRv32 a || inRanges [(0x7C0, 0x7C1), (0x800, 0x802), (0x880, 0x881), (0xCC0, 0xCC2)] a
  else inRanges csrsRv32 a || inRanges [(0x306, 0x307), (0x30A, 0x30B), (0x31A, 0x31B), (0x3A0, 0x3A2), (0x3B0, 0x3B8)] a

/-- Supervisor CSRs that stand for their VS counterparts, 0x100 above, when V = 1. -/
def csrSwapped (a : Nat) : Bool :=
  a == 0x100 || a == 0x104 || a == 0x105 || within a 0x140 0x145 || a == 0x14D || a == 0x150 || a == 0x151 || a == 0x15C || a == 0x180 || a == 0xDB0

/-- The CSR an address reaches in a mode; with V = 1 address 0x5C0 is the guest copy of `svtctl`, kept at 0x15C0 (R141). -/
def csrEff (p : Priv) (a : Nat) : Nat :=
  if !virt p then a else if a == 0x5C0 then 0x15C0 else if csrSwapped a then a + 0x100 else a

/-! ### Who may reach them -/

/-- Use of Xeztime in the present mode (R142): none, or the exception. -/
def State.xezCheck (s : State) (h : Nat) : Option Nat :=
  let c := s.modeVal h 0x7C0
  let guest := bitAt (s.modeVal h 0x15C0) 0
  if h == 12 then some excIllegal
  else match (s.hart h).priv with
    | .m => none
    | p =>
      if !bitAt c 2 then some excIllegal
      else match p with
        | .u => if bitAt c 0 then none else some excIllegal
        | .vs => if bitAt c 1 then none else some excVirtual
        | .vu => if bitAt c 1 && guest then none else some excVirtual
        | _ => none

/-- A counter is readable in the present mode by `mcounteren`, `hcounteren` and `scounteren`. -/
def State.counterGate (s : State) (h i : Nat) : Option Nat :=
  let m := bitAt (s.csr h 0x306) i
  let sc := bitAt (s.csr h 0x106) i || 8 ≤ h
  let hc := bitAt (s.csr h 0x606) i
  match (s.hart h).priv with
  | .m => none
  | .s => if m then none else some excIllegal
  | .u => if m && sc then none else some excIllegal
  | .vs => if !m then some excIllegal else if hc then none else some excVirtual
  | .vu => if !m then some excIllegal else if hc && sc then none else some excVirtual

/-- The vector unit is on for the present mode. -/
def State.vecOn (s : State) (h : Nat) : Bool :=
  bitsOf (s.csr h csrMstatus) 9 2 != 0 && (!virt (s.hart h).priv || bitsOf (s.csr h csrVsstatus) 9 2 != 0)

/-- The bit of `mstateen0` and `hstateen0` that opens a CSR to lower modes. -/
def stateenBit (a : Nat) : Option Nat :=
  if within a 0x10C 0x110 || within a 0x60C 0x610 then some 63
  else if a == 0x10A || a == 0x60A then some 62
  else if a == 0x150 || a == 0x151 || a == 0x250 || a == 0x251 then some 60
  else if a == 0xDB0 || a == 0xEB0 || a == 0x608 || a == 0x609 || a == 0x646 || a == 0x647 then some 59
  else if a == 0x15C || a == 0x25C then some 58
  else none

/-- The state-enable registers permit a CSR to the present mode. -/
def State.stateenGate (s : State) (h a : Nat) : Option Nat :=
  match stateenBit a with
  | none => none
  | some b =>
    let i := if b == 63 then a % 4 else 0
    if !bitAt (s.csr h (0x30C + i)) b then some excIllegal
    else if virt (s.hart h).priv && !bitAt (s.csr h (0x60C + i)) b then some excVirtual
    else none

/-- The guest file that `hstatus.VGEIN` selects, as a file number: none where it selects no file. -/
def State.guestFile (s : State) (h : Nat) : Option Nat :=
  let g := bitsOf (s.csr h csrHstatus) 12 6
  if 1 ≤ g && g ≤ 5 then some (1 + g) else none

/-- The file behind an indirect or `topei` CSR of a level: 0x050 machine, 0 supervisor, 0x100 virtual supervisor, by its address. -/
def State.levelFile (s : State) (h a : Nat) : Option Nat :=
  if within a 0x350 0x360 then some 0 else if within a 0x150 0x160 then some 1 else s.guestFile h

/-- The register that an indirect CSR at `a` selects. -/
def State.iselect (s : State) (h a : Nat) : Nat := s.csr h (a / 16 * 16)

/-- An indirect or `topei` CSR at the effective address `a` reaches something. -/
def State.iregGate (s : State) (h a : Nat) : Option Nat :=
  let vs := virt (s.hart h).priv
  let sel := s.iselect h a
  let bad := some (if vs then excVirtual else excIllegal)
  if a == 0x15C || a == 0x35C then none
  else if a == 0x25C then (if (s.guestFile h).isSome then none else bad)
  else if within sel 0x30 0x40 then (if a == 0x251 then bad else if sel % 2 == 1 then some excIllegal else none)
  else if within sel 0x70 0x100 then
    (if (s.levelFile h a).isNone then bad else if 0x80 ≤ sel && sel % 2 == 1 then some excIllegal else none)
  else some excIllegal

/-- What stands in the way of a CSR that the present mode's privilege reaches. -/
def State.csrGate (s : State) (h a : Nat) : Option Nat :=
  let p := (s.hart h).priv
  let e := csrEff p a
  if within a 0x001 0x004 then (if s.fpOn h then none else some excIllegal)
  else if within a 0x008 0x010 || within a 0xC20 0xC23 then (if s.vecOn h then none else some excIllegal)
  else if within a 0xC00 0xC20 || within a 0xC80 0xCA0 then s.counterGate h (a % 32)
  else
    let st := if p == .m then none else s.stateenGate h a
    if st.isSome then st
    else if e == 0x151 || e == 0x251 || e == 0x351 || e == 0x15C || e == 0x25C then s.iregGate h e
    else if p == .s && (a == 0x180 || a == 0x680) && bitAt (s.csr h csrMstatus) 20 then some excIllegal
    else if p == .vs && a == 0x180 && bitAt (s.csr h csrHstatus) 20 then some excVirtual
    else if p != .m && (a == 0x14D || a == 0x24D) then
      (if !(bitAt (s.csr h 0x30A) 63 && bitAt (s.csr h 0x306) 1) then some excIllegal
       else if virt p && !(bitAt (s.csr h 0x60A) 63 && bitAt (s.csr h 0x606) 1) then some excVirtual
       else none)
    else none

/-- An access of the hart to a CSR: none, or the exception (R141, R142; log entry 18). -/
def State.csrCheck (s : State) (h a : Nat) (write : Bool) : Option Nat :=
  let p := (s.hart h).priv
  let q := a / 256 % 4
  if !csrKnown h a || within a 0x7B0 0x7B4 || (write && a / 1024 == 3) then some excIllegal
  else if a == 0x800 || a == 0x801 || a == 0x880 || a == 0xCC0 || a == 0xCC1 then s.xezCheck h
  else if p == .m then s.csrGate h a
  else if q == 3 then some excIllegal
  else if virt p then (if q == 2 || (p == .vu && q == 1) then some excVirtual else s.csrGate h a)
  else if p == .s || q == 0 then s.csrGate h a
  else some excIllegal

/-! ### Views of the status and interrupt CSRs -/

/-- The writable bits of `mstatus`. -/
def mstatusMask (h : Nat) : Nat := if h < 8 then 0xC0007E7FAA else if h < 12 then 0x88 else 0x221888

/-- The bits of `mstatus` that `sstatus` shows, and those of `vsstatus`. -/
def sstatusMask : Nat := 0xC6722

/-- A status with SD: FS or VS is dirty. -/
def withSd (v : Nat) : Nat := v + (if bitsOf v 13 2 == 3 || bitsOf v 9 2 == 3 then 2 ^ 63 else 0)

/-- `mstatus` as read. -/
def State.mstatusRead (s : State) (h : Nat) : Nat :=
  let v := Nat.land (s.csr h csrMstatus) (mstatusMask h)
  if h < 8 then withSd (v + 0xA00000000) else if h < 12 then v + 0x1800 else v

/-- Replace the bits of `mask` in `old`. -/
def merge (mask old v : Nat) : Nat := old - Nat.land old mask + Nat.land v mask

/-- A write of `mstatus`: an MPP of 2, and on the warden core of 1, leaves MPP as it was. -/
def State.mstatusWrite (s : State) (h v : Nat) : State :=
  let old := s.csr h csrMstatus
  let n := merge (mstatusMask h) old v
  let mpp := bitsOf n 11 2
  s.setCsr h csrMstatus (if mpp == 2 || (mpp == 1 && 8 ≤ h) then putBits n 11 2 (bitsOf old 11 2) else n)

/-- Interrupt bits of the supervisor level: SSI, STI, SEI, LCOFI, as far as `mideleg` delegates them. -/
def State.sieMask (s : State) (h : Nat) : Nat := Nat.land (s.csr h 0x303) 0x2222

/-- Interrupt bits of the VS level that `hideleg` delegates. -/
def State.vsieMask (s : State) (h : Nat) : Nat := Nat.land (s.csr h 0x603) 0x444

/-- A write of the software bits of `mip` within `mask`: VSSIP lies in `hvip`. -/
def State.mipWrite (s : State) (h mask v : Nat) : State :=
  let s := s.setCsr h 0x344 (merge (Nat.land mask 0x2222) (s.csr h 0x344) v)
  s.setCsr h 0x645 (merge (Nat.land mask 0x4) (s.csr h 0x645) v)

/-- Major interrupts in the order of their default priority. -/
def majorOrder : List Nat := [11, 3, 7, 9, 1, 5, 12, 10, 2, 6, 13]

/-- A `topi` register over pending and enabled interrupts. -/
def topi (pend : Nat) : Nat :=
  match majorOrder.find? (fun i => bitAt pend i) with
  | some i => packBits [(16, 12, i), (0, 8, 1)]
  | none => 0

/-- A `topei` register: the identity twice. -/
def State.topei (s : State) (h f : Nat) : Nat :=
  let v := s.imsic h f
  match lowestSet 2048 (Nat.land v.eip v.eie) with
  | some i => if v.eithreshold == 0 || i < v.eithreshold then 65537 * i else 0
  | none => 0

/-- The claim a write of `topei` makes. -/
def State.topeiClaim (s : State) (h f : Nat) : State :=
  let v := s.imsic h f
  let i := s.topei h f % 65536
  if i == 0 then s else s.setImsic h f { v with eip := putBits v.eip i 1 0 }

/-- A register of an interrupt file by its select value (log entry 19). -/
def State.iregRead (s : State) (h f sel : Nat) : Nat :=
  let v := s.imsic h f
  if sel == 0x70 then v.eidelivery
  else if sel == 0x72 then v.eithreshold
  else if within sel 0x80 0xC0 then bitsOf v.eip (32 * (sel - 0x80)) 64
  else if within sel 0xC0 0x100 then bitsOf v.eie (32 * (sel - 0xC0)) 64
  else 0

def State.iregWrite (s : State) (h f sel v : Nat) : State :=
  let k := s.imsic h f
  let arr (old o : Nat) : Nat := putBits (putBits old (32 * o) 64 v) 0 1 0
  if sel == 0x70 then s.setImsic h f { k with eidelivery := v % 2 }
  else if sel == 0x72 then s.setImsic h f { k with eithreshold := v % 2048 }
  else if within sel 0x80 0xC0 then s.setImsic h f { k with eip := arr k.eip (sel - 0x80) }
  else if within sel 0xC0 0x100 then s.setImsic h f { k with eie := arr k.eie (sel - 0xC0) }
  else s

/-! ### PMP (R304) -/

/-- Entry `i` is locked, or is the lower bound of a locked TOR entry: its address ignores writes. -/
def State.pmpLocked (s : State) (h i : Nat) : Bool :=
  let rlb := bitAt (s.csr h 0x747) 2
  let l (j : Nat) : Bool := j < pmpCount h && bitAt (s.pmpCfg h j) 7
  !rlb && (l i || (l (i + 1) && bitsOf (s.pmpCfg h (i + 1)) 3 2 == 1))

/-- A configuration byte as stored: NA4 becomes OFF (R304); write without read is reserved unless Smepmp's MML is set. -/
def pmpByte (mml : Bool) (v : Nat) : Nat :=
  let v := Nat.land v 0x9F
  let v := if bitsOf v 3 2 == 2 then putBits v 3 2 0 else v
  if !mml && bitsOf v 0 2 == 2 then putBits v 1 1 0 else v

/-- Smepmp refuses a new rule that lets M-mode execute, or everyone through a locked shared rule, while MML is set and RLB clear. -/
def pmpExecRule (v : Nat) : Bool := bitAt v 7 && ((!bitAt v 0 && (bitAt v 1 || bitAt v 2)) || (bitAt v 0 && !bitAt v 1 && bitAt v 2))

/-- A write of the configuration register at `a`, byte by byte. -/
def State.pmpCfgWrite (s : State) (h a v : Nat) : State :=
  let n := hartXlen h / 8
  let first := if h < 8 then (a - 0x3A0) * 4 else (a - 0x3A0) * n
  let sec := s.csr h 0x747
  State.each (List.range n) (fun k t =>
    let i := first + k
    let b := pmpByte (bitAt sec 0) (bitsOf v (8 * k) 8)
    if pmpCount h ≤ i || (bitAt (t.pmpCfg h i) 7 && !bitAt sec 2) || (bitAt sec 0 && !bitAt sec 2 && pmpExecRule b) then t
    else t.setCsr h a (putBits (t.csr h a) (8 * k) 8 b)) s

/-- An address register as read with a granularity of 4 KiB: low bits ones under NAPOT, zeros otherwise. -/
def State.pmpAddrRead (s : State) (h i : Nat) : Nat :=
  let v := s.csr h (0x3B0 + i)
  if bitAt (s.pmpCfg h i) 4 then putBits v 0 9 511 else putBits v 0 10 0

/-- A write of `mseccfg`: MML and MMWP stay set; RLB sets only while no entry is locked. -/
def State.mseccfgWrite (s : State) (h v : Nat) : State :=
  let old := s.csr h 0x747
  let anyLock := (List.range (pmpCount h)).any (fun i => bitAt (s.pmpCfg h i) 7)
  let rlb := if anyLock && !bitAt old 2 then 0 else bitsOf v 2 1
  s.setCsr h 0x747 (packBits [(0, 1, b2n (bitAt old 0 || bitAt v 0)), (1, 1, b2n (bitAt old 1 || bitAt v 1)), (2, 1, rlb), (32, 2, bitsOf v 32 2)])

/-! ### The device's own CSRs -/

/-- `vtstat` (R143). -/
def State.vtstat (s : State) (h : Nat) : Nat :=
  let o := s.armOwner h
  packBits [(0, 2, s.quality 0), (8, 8, s.dseq8 0), (16, 16, Nat.min 0xFFFF (s.wSize o - s.get (wUsed o)))]

/-- `ezcfg` (R280). -/
def State.ezcfg (s : State) (h : Nat) : Nat :=
  packBits [(0, 1, clusterOf h), (1, 1, b2n (s.epochMode (clusterOf h))), (2, 1, b2n (s.fused h))]

/-- `ezepoch` as read (R457). -/
def State.ezepochRead (s : State) (h : Nat) : Nat :=
  packBits [(1, 1, b2n (s.epochMode (clusterOf h))), (2, 1, bitsOf (s.csr h csrEzepoch) 2 1), (32, 16, s.get (EPO_COMMITS_COUNT (clusterOf h)))]

/-- The device's own CSR at an effective address is a mode CSR (R277). -/
def isModeCsr (a : Nat) : Bool := a == 0x801 || a == 0x5C0 || a == 0x7C0 || a == 0x15C0 || a == csrEzsag || a == csrEzpm || a == csrEzepoch

/-- A write of a mode CSR in mode `p`: each field from the views and modes that may write it (R141, R142, R279, R421, R457). -/
def State.modeCsrWrite (s : State) (h : Nat) (p : Priv) (a v : Nat) : State :=
  let c := s.csr h 0x7C0
  if a == 0x801 then s.setModeCsr h 0x7C0 (merge 0x18 c v)
  else if a == 0x5C0 then s.setModeCsr h 0x7C0 (merge (if p == .m then 0x1F else 0x1B) c v)
  else if a == 0x7C0 then s.setModeCsr h 0x7C0 (merge 0x1F c v)
  else if a == 0x15C0 then s.setModeCsr h 0x15C0 (v % 2)
  else if a == csrEzsag then s.setModeCsr h csrEzsag (merge 0x80 (s.csr h csrEzsag) v)
  else if a == csrEzpm then s.setModeCsr h csrEzpm (v % 8)
  else s.setModeCsr h csrEzepoch (packBits [(0, 1, if s.epochMode (clusterOf h) then v else 0), (2, 1, Nat.min (bitsOf v 2 1) (bitsOf (s.csr h csrEzepoch) 2 1))])

/-! ### Reads -/

/-- A 64-bit counter as `a` reads it: the high half at 0x80 above on an RV32 core. -/
def counterPart (h a v : Nat) : Nat := if h < 8 then v else if bitAt a 7 then v / 2 ^ 32 else v % 2 ^ 32

/-- The value of the `time` CSR: `mtime`, plus `htimedelta` when V = 1 (R320). -/
def State.timeRead (s : State) (h : Nat) : Nat :=
  if virt (s.hart h).priv then (s.mtime + s.csr h 0x605) % 2 ^ 64 else s.mtime

/-- OF of the counters that the present mode may read. -/
def State.scountovf (s : State) (h : Nat) : Nat :=
  let p := (s.hart h).priv
  packBits ((List.range 29).map (fun i => (3 + i, 1, b2n (bitAt (s.csr h (0x323 + i)) 63 && (p == .m ||
    (bitAt (s.csr h 0x306) (3 + i) && (!virt p || bitAt (s.csr h 0x606) (3 + i))))))))

/-- The value of the CSR at an effective address; counters of cycles on cores whose clock the model does not count apart. -/
def State.csrValue (s : State) (h a : Nat) : Nat :=
  let c := s.csr h
  let mip := s.mip h
  match a with
  | 0x001 => bitsOf (c 3) 0 5
  | 0x002 => bitsOf (c 3) 5 3
  | 0x00F => packBits [(0, 1, c 9), (1, 2, c 10)]
  | 0x100 => withSd (Nat.land (c 0x300) sstatusMask + 0x200000000)
  | 0x104 => Nat.land (c 0x304) (s.sieMask h)
  | 0x144 => Nat.land mip (s.sieMask h)
  | 0x151 => s.iregRead h 1 (s.iselect h a)
  | 0x15C => s.topei h 1
  | 0x200 => withSd (Nat.land (c 0x200) sstatusMask + 0x200000000)
  | 0x204 => Nat.land (c 0x304) (s.vsieMask h) / 2
  | 0x244 => Nat.land mip (s.vsieMask h) / 2
  | 0x251 => s.iregRead h ((s.guestFile h).getD 1) (s.iselect h a)
  | 0x25C => s.topei h ((s.guestFile h).getD 1)
  | 0x300 => s.mstatusRead h
  | 0x309 => Nat.land (c 0x344) 0x222
  | 0x344 => mip
  | 0x351 => s.iregRead h 0 (s.iselect h a)
  | 0x35C => s.topei h 0
  | 0x600 => Nat.land (c 0x600) 0x3000000703FC0 + 0x200000000
  | 0x604 => Nat.land (c 0x304) 0x1444
  | 0x644 => Nat.land mip 0x1444
  | 0x7A1 => c (trigCsr (c 0x7A0) 1)
  | 0x7A2 => c (trigCsr (c 0x7A0) 2)
  | 0x7A3 => 0
  | 0x7A4 => packBits [(15, 1, 1), (trigType h (c 0x7A0), 1, 1), (24, 8, 1)]
  | 0x801 => Nat.land (c 0x7C0) 0x18
  | 0x5C0 => c 0x7C0
  | 0x7C2 => s.ezepochRead h
  | 0xC22 => 32
  | 0xCC0 => s.vtstat h
  | 0xDA0 => s.scountovf h
  | 0xDB0 => topi (Nat.land (Nat.land mip (c 0x304)) (Nat.land (c 0x303) (2 ^ 64 - 1 - c 0x603)))
  | 0xEB0 => topi (Nat.land (Nat.land mip (c 0x304)) (s.vsieMask h) / 2)
  | 0xE12 => packBits ((List.range 5).map (fun g => (g + 1, 1, b2n (s.imsicTop h (2 + g)).isSome)))
  | 0xFB0 => topi (Nat.land (Nat.land mip (c 0x304)) (2 ^ 64 - 1 - c 0x303))
  | 0xFC0 => s.ezcfg h
  | _ =>
    if a == 0xC01 || a == 0xC81 then counterPart h a (s.timeRead h)
    else if a == 0xB02 || a == 0xB82 || a == 0xC02 || a == 0xC82 then counterPart h a (s.hart h).instret
    else if a == 0xB00 || a == 0xB80 || a == 0xC00 || a == 0xC80 then counterPart h a (s.hart h).cycle
    else if within a 0xC03 0xC20 then c (a - 0x100)
    else if within a 0x3B0 0x3C0 then s.pmpAddrRead h (a - 0x3B0)
    else c a

/-- Read the CSR at an effective address. `mcycle` of a core that is no timekeeper is a free value (log entry 27). -/
def State.csrRead (s : State) (h a : Nat) : State × Nat :=
  if (a == 0xB00 || a == 0xB80 || a == 0xC00 || a == 0xC80) && !(8 ≤ h && h < 12) then
    (s.tookFree, s.freeNat % 2 ^ hartXlen h)
  else (s, s.csrValue h a)

/-! ### Writes -/

/-- FS becomes dirty. -/
def State.fpDirty (s : State) (h lo : Nat) : State :=
  let s := s.setCsr h csrMstatus (putBits (s.csr h csrMstatus) lo 2 3)
  s.when (virt (s.hart h).priv) (fun t => t.setCsr h csrVsstatus (putBits (t.csr h csrVsstatus) lo 2 3))

/-- An address-translation register: an unsupported MODE leaves it unchanged (R300). -/
def State.atpWrite (s : State) (h a v : Nat) : State :=
  let m := bitsOf v 60 4
  if !(m == 0 || m == 8 || m == 9 || m == 10) then s
  else s.setCsr h a (if a == 0x680 then packBits [(0, 44, v), (44, 14, v / 2 ^ 44), (60, 4, m)] else v)

/-- `menvcfg`, and the bits of `henvcfg` that it permits. -/
def State.menvcfgWrite (s : State) (h v : Nat) : State :=
  let s := s.setCsr h 0x30A (Nat.land v 0xE0000003000000F1)
  s.setCsr h 0x60A (Nat.land (s.csr h 0x60A) (Nat.lor 0x3000000F1 (s.csr h 0x30A)))

/-- `mhpmevent`: EVENT values without an event store 0 (R512). -/
def hpmEvent (v : Nat) : Nat := packBits [(0, 7, if 97 ≤ v % 128 then 0 else v), (58, 6, v / 2 ^ 58)]

/-- A trigger register: a trigger owned by debug mode ignores writes from elsewhere. -/
def State.trigWrite (s : State) (h j v : Nat) (dbg : Bool) : State :=
  let i := s.csr h 0x7A0
  if bitAt (s.csr h (trigCsr i 1)) (hartXlen h - 5) && !dbg && s.trigOn h i then s
  else if j == 1 then s.setCsr h (trigCsr i 1) (trigWarl h i v dbg)
  else if j == 2 then s.setCsr h (trigCsr i 2) v
  else s

/-- The mask of plain CSRs that store part of what is written. -/
def csrMask (h a : Nat) : Option Nat :=
  match a with
  | 0x003 => some 0xFF | 0x008 => some 0xFF | 0x009 => some 1 | 0x00A => some 3
  | 0x106 => some 0xFFFFFFFF | 0x306 => some 0xFFFFFFFF | 0x606 => some 0xFFFFFFFF
  | 0x10A => some 0x3000000F1
  | 0x304 => some (if h < 8 then 0x3EE6 else 0x800)
  | 0x302 => some 0xF0B7FF | 0x602 => some 0xB1FF | 0x603 => some 0x444
  | 0x320 => some (if h < 8 then 0xFFFFFFFD else 5)
  | 0x30C => some 0xDC00000000000000 | 0x60C => some 0xDC00000000000000
  | 0x30D => some (2 ^ 63) | 0x30E => some (2 ^ 63) | 0x30F => some (2 ^ 63)
  | 0x60D => some (2 ^ 63) | 0x60E => some (2 ^ 63) | 0x60F => some (2 ^ 63)
  | 0x150 => some 0xFF | 0x250 => some 0xFF | 0x350 => some 0xFF
  | 0x607 => some 0x3E | 0x609 => some 0x4FFF03FF | 0x645 => some 0x444
  | _ =>
    if a == 0x301 || a == 0x308 || a == 0x310 || a == 0x31A || within a 0x10C 0x110 || a == 0x608 || a == 0x646 || a == 0x647 ||
      (8 ≤ h && (within a 0x323 0x340 || within a 0xB03 0xB20 || within a 0xB83 0xBA0)) then some 0
    else if a == 0x141 || a == 0x241 || a == 0x341 then some (2 ^ 64 - 2)
    else if a == 0x105 || a == 0x205 || a == 0x305 then some (2 ^ 64 - 3)
    else if within a 0x3B0 0x3C0 then some (2 ^ 54 - 1)
    else none

/-- A 64-bit counter written through `a`. -/
def counterWrite (h a old v : Nat) : Nat := if h < 8 then v else if bitAt a 7 then putBits old 32 32 v else putBits old 0 32 v

/-- Write the CSR at an effective address. -/
def State.csrWrite (s : State) (h a v : Nat) (dbg : Bool) : State :=
  let c := s.csr h
  match a with
  | 0x001 => (s.setCsr h 3 (putBits (c 3) 0 5 v)).fpDirty h 13
  | 0x002 => (s.setCsr h 3 (putBits (c 3) 5 3 v)).fpDirty h 13
  | 0x003 => (s.setCsr h 3 (v % 256)).fpDirty h 13
  | 0x008 => (s.setCsr h 8 (v % 256)).fpDirty h 9
  | 0x009 => (s.setCsr h 9 (v % 2)).fpDirty h 9
  | 0x00A => (s.setCsr h 10 (v % 4)).fpDirty h 9
  | 0x00F => ((s.setCsr h 9 (v % 2)).setCsr h 10 (v / 2 % 4)).fpDirty h 9
  | 0x100 => s.setCsr h csrMstatus (merge sstatusMask (c 0x300) v)
  | 0x104 => s.setCsr h 0x304 (merge (s.sieMask h) (c 0x304) v)
  | 0x144 => s.mipWrite h (Nat.land (s.sieMask h) 0x2002) v
  | 0x151 => s.iregWrite h 1 (s.iselect h a) v
  | 0x15C => s.topeiClaim h 1
  | 0x180 => s.atpWrite h a v
  | 0x200 => s.setCsr h 0x200 (merge sstatusMask (c 0x200) v)
  | 0x204 => s.setCsr h 0x304 (merge (s.vsieMask h) (c 0x304) (2 * v))
  | 0x244 => s.mipWrite h (Nat.land (s.vsieMask h) 0x4) (2 * v)
  | 0x251 => s.iregWrite h ((s.guestFile h).getD 1) (s.iselect h a) v
  | 0x25C => s.topeiClaim h ((s.guestFile h).getD 1)
  | 0x280 => s.atpWrite h a v
  | 0x300 => s.mstatusWrite h v
  | 0x303 => s.setCsr h 0x303 (Nat.land v 0x2222 + 0x1444)
  | 0x309 => s.mipWrite h 0x222 v
  | 0x30A => if h < 8 then s.menvcfgWrite h v else s.setCsr h a (v % 2)
  | 0x344 => if h < 8 then s.mipWrite h 0x2226 v else s
  | 0x351 => s.iregWrite h 0 (s.iselect h a) v
  | 0x35C => s.topeiClaim h 0
  | 0x600 =>
    let n := Nat.land v 0x3000000703FC0
    s.setCsr h 0x600 (if 5 < bitsOf n 12 6 then putBits n 12 6 0 else n)
  | 0x604 => s.setCsr h 0x304 (merge 0x1444 (c 0x304) v)
  | 0x60A => s.setCsr h a (Nat.land v (Nat.lor 0x3000000F1 (Nat.land (c 0x30A) (7 * 2 ^ 61))))
  | 0x644 => s.mipWrite h 0x4 v
  | 0x680 => s.atpWrite h a v
  | 0x747 => s.mseccfgWrite h v
  | 0x7A0 => if v < trigCount h then s.setCsr h 0x7A0 v else s
  | 0x7A1 => s.trigWrite h 1 v dbg
  | 0x7A2 => s.trigWrite h 2 v dbg
  | 0x7A3 => s
  | 0x7A4 => s
  | 0xB00 => s.updHart h (fun t => { t with cycle := counterWrite h a t.cycle v })
  | 0xB80 => s.updHart h (fun t => { t with cycle := counterWrite h a t.cycle v })
  | 0xB02 => s.updHart h (fun t => { t with instret := counterWrite h a t.instret v })
  | 0xB82 => s.updHart h (fun t => { t with instret := counterWrite h a t.instret v })
  | _ =>
    if isModeCsr a then s.modeCsrWrite h (s.hart h).priv a v
    else if within a 0x3A0 0x3A4 then s.pmpCfgWrite h a v
    else if within a 0x3B0 0x3C0 && s.pmpLocked h (a - 0x3B0) then s
    else if within a 0x323 0x340 && h < 8 then s.setCsr h a (hpmEvent v)
    else match csrMask h a with
      | some 0 => s
      | some m => s.setCsr h a (Nat.land v m)
      | none => s.setCsr h a v

/-! ### The instructions -/

/-- The new value an operation gives. -/
def csrNew (op : CsrOp) (old src : Nat) : Nat :=
  match op with
  | .write => src
  | .set => Nat.lor old src
  | .clear => old - Nat.land old src
  | .read => old

/-- The value a read-modify-write starts from: of `mip`, the software bits alone. -/
def State.csrRmw (s : State) (h a v : Nat) : Nat := if a == 0x344 then merge 0x200 v (s.csr h 0x344) else v

/-- A CSR instruction that is permitted: rd receives the old value, the new one is stored. A counter takes it after the
instruction has been counted. -/
def State.csrDo (s : State) (h a : Nat) (op : CsrOp) (rd src : Nat) : State :=
  let e := csrEff (s.hart h).priv a
  let (s, old) := s.csrRead h e
  let new := csrNew op (s.csrRmw h e old) src % 2 ^ hartXlen h
  let s := s.setX h rd old
  if op == .read then s.retire h
  else if within e 0xB00 0xC00 then (s.retire h).csrWrite h e new false
  else (s.csrWrite h e new false).retire h

/-- A CSR instruction of a hart. -/
def State.csrInstr (s : State) (h a : Nat) (op : CsrOp) (rd src : Nat) : State :=
  match s.csrCheck h a (op != .read) with
  | some c => s.exception h c 0
  | none => s.csrDo h a op rd (src % 2 ^ hartXlen h)

def execCsrAccess (h : Hart) (csr : BitVec 12) (op : CsrOp) (rd : RegIdx) (src : Word) (s : State) : Ans :=
  .next (s.instr h.val (fun t => t.csrInstr h.val csr.toNat op rd.val src.toNat))

/-- The address by which software names a mode CSR; the guest copy of `svtctl` is 0x5C0 with V = 1 (R141). -/
def modeCsrAddr : ModeCsr → Nat
  | .mvtctl => 0x7C0 | .svtctl => 0x5C0 | .vsvtctl => 0x5C0 | .ezsag => csrEzsag | .ezpm => csrEzpm | .ezepoch => csrEzepoch

/-- The mode reaches that copy. -/
def modeCsrHere (c : ModeCsr) (p : Priv) : Bool :=
  match c with
  | .svtctl => !virt p
  | .vsvtctl => virt p
  | _ => true

def execModeCsrWrite (h : Hart) (csr : ModeCsr) (op : CsrOp) (rd : RegIdx) (src : Word) (s : State) : Ans :=
  .next (if modeCsrHere csr (s.hart h.val).priv then s.instr h.val (fun t => t.csrInstr h.val (modeCsrAddr csr) op rd.val src.toNat) else s)

end Sys2Proof.Machine
end

