-- ==== Sys2Proof/Machine/Harts.lean ====
section
/-! DEFINITION. The other instructions of the harts: fences, trap entry and return, WFI, Xeztime, the saggar instructions; the results
of a timekeeper's multiplier and divider; the reset of a domain; abstract commands of the debug module (R136 to R149, R153, R276,
R285, R290, R297, R298, R355, R416 to R420, R441, R442, R490 to R497). -/

namespace Sys2Proof.Machine

open Sys2Proof

/-! ### Fences (R276, R281, R284, R347 to R356) -/

/-- FIOM holds in the present mode: fences order device accesses as memory accesses too (log entry 18). -/
def State.fiom (s : State) (h : Nat) : Bool :=
  match (s.hart h).priv with
  | .m => false
  | .s => bitAt (s.csr h 0x30A) 0
  | .u => bitAt (s.csr h 0x30A) 0 || (h < 8 && bitAt (s.csr h 0x10A) 0)
  | .vs => bitAt (s.csr h 0x30A) 0 || bitAt (s.csr h 0x60A) 0
  | .vu => bitAt (s.csr h 0x30A) 0 || bitAt (s.csr h 0x60A) 0 || bitAt (s.csr h 0x10A) 0

/-- FENCE. Earlier loads and device accesses have completed when it executes. Earlier stores drain where later loads or device accesses
are ordered after them; where only later stores are, they leave the buffer in order (R354). A timekeeper waits for its write buffer
(R284). -/
def State.fence (s : State) (h : Nat) (po pw si so sr : Bool) : State :=
  let m := s.fiom h
  let pw := pw || (m && po)
  if 8 ≤ h then (if (s.hart h).wbuf.isEmpty then s.retire h else s)
  else
    let s := s.coreCount h 49
    let s := if pw && (sr || si || so) then s.sbDrainAll h
      else if pw then s.updHart h (fun t => { t with fences := t.fences + 1 }) else s
    s.retire h

def execFence (h : Hart) (pi po pr pw si so sr sw : Bool) (s : State) : Ans :=
  let _ := (pi, pr, sw)
  .next (s.instr h.val (fun t => t.fence h.val po pw si so sr))

/-- FENCE.I: every store of the hart is visible to its fetches from now on (R281, R287). -/
def State.fenceI (s : State) (h : Nat) : State := ((s.updHart h (fun t => { t with smc := [] })).coreCount h 50).retire h

def execFenceI (h : Hart) (s : State) : Ans := .next (s.instr h.val (fun t => t.fenceI h.val))

/-- What stands in the way of a translation fence in the present mode (log entry 18). -/
def State.sfenceCheck (s : State) (h : Nat) (kind : FenceKind) : Option Nat :=
  let tvm := bitAt (s.csr h csrMstatus) 20
  match (s.hart h).priv, kind with
  | .m, _ => none
  | .u, _ => some excIllegal
  | .vu, _ => some excVirtual
  | .s, .hfenceV => none
  | .s, _ => if tvm then some excIllegal else none
  | .vs, .sfence => if bitAt (s.csr h csrHstatus) 20 then some excVirtual else none
  | .vs, _ => some excVirtual

/-- A translation fence: the model keeps no translation, so there is nothing to drop (log entry 20). -/
def State.sfence (s : State) (h : Nat) (kind : FenceKind) : State :=
  match s.sfenceCheck h kind with
  | some c => s.exception h c 0
  | none => (s.coreCount h 51).retire h

def execSfenceVma (h : Hart) (kind : FenceKind) (va : Option Word) (asid : Option Nat) (s : State) : Ans :=
  let _ := (va, asid)
  .next (s.appInstr h.val (fun t => t.sfence h.val kind))

/-! ### Trap entry and return, WFI -/

def execMret (h : Hart) (s : State) : Ans :=
  .next (s.instr h.val (fun t => if (t.hart h.val).priv == .m then t.mret h.val else t.illegal h.val))

/-- SRET in the modes that may execute it (log entry 18). -/
def State.sretCheck (s : State) (h : Nat) : Option Nat :=
  match (s.hart h).priv with
  | .m => none
  | .s => if bitAt (s.csr h csrMstatus) 22 then some excIllegal else none
  | .u => some excIllegal
  | .vs => if bitAt (s.csr h csrHstatus) 22 then some excVirtual else none
  | .vu => some excVirtual

def execSret (h : Hart) (s : State) : Ans :=
  .next (s.appInstr h.val (fun t => match t.sretCheck h.val with
    | some c => t.exception h.val c 0
    | none => t.sret h.val))

/-- WFI in the modes that may wait (log entry 18). -/
def State.wfiCheck (s : State) (h : Nat) : Option Nat :=
  let tw := bitAt (s.csr h csrMstatus) 21
  match (s.hart h).priv with
  | .m => none
  | .s => if tw then some excIllegal else none
  | .u => if tw || h < 8 then some excIllegal else none
  | .vs => if tw then some excIllegal else if bitAt (s.csr h csrHstatus) 21 then some excVirtual else none
  | .vu => if tw then some excIllegal else some excVirtual

/-- WFI: the hart waits until an interrupt is pending and enabled, whatever the global enables say (R284). -/
def State.waitIrq (s : State) (h : Nat) : State :=
  match s.wfiCheck h with
  | some c => s.exception h c 0
  | none => if s.irqWaiting h then s.retire h else (s.retire h).updHart h (fun t => { t with wfi := true })

def execWfi (h : Hart) (s : State) : Ans := .next (s.instr h.val (fun t => t.waitIrq h.val))

/-- The interrupt is taken at the level it is delegated to: 2 machine, 1 supervisor, 0 VS. -/
def State.irqLevel (s : State) (h code : Nat) : Nat :=
  if 8 ≤ h || !bitAt (s.csr h 0x303) code then 2 else if bitAt (s.csr h 0x603) code then 0 else 1

/-- Interrupts of a level are enabled in the present mode. -/
def State.levelOpen (s : State) (h lvl : Nat) : Bool :=
  let p := (s.hart h).priv
  if lvl == 2 then p != .m || bitAt (s.csr h csrMstatus) 3
  else if lvl == 1 then p != .m && (p != .s || bitAt (s.csr h csrMstatus) 1)
  else p == .vu || (p == .vs && bitAt (s.csr h csrVsstatus) 1)

/-- The interrupt the hart takes next: the highest level that has one, then the default priority (log entry 19). -/
def State.irqNext (s : State) (h : Nat) : Option Nat :=
  let pend := Nat.land (s.mip h) (s.csr h 0x304)
  [2, 1, 0].findSome? (fun l =>
    if s.levelOpen h l then majorOrder.find? (fun i => bitAt pend i && s.irqLevel h i == l) else none)

/-- An interrupt is taken between two instructions, once every older device access has been answered (R286, R353); a wait ends
(R138). -/
def State.takeIrq (s : State) (h code : Nat) : State :=
  if s.hartRuns h && !s.devPending h && s.irqNext h == some code then
    let was := s.hart h
    (s.trap h true code 0).afterInstr h was
  else s

/-- The exceptions an instruction of the hart can raise; an environment call's code names the mode. -/
def State.excOk (s : State) (h code : Nat) : Bool :=
  match (s.hart h).priv, code with
  | p, 8 => p == .u || p == .vu
  | p, 9 => p == .s
  | p, 10 => p == .vs
  | p, 11 => p == .m
  | _, c => c < 8 || (h < 8 && (c == 12 || c == 13 || c == 15 || within c 20 24))

/-- The bit of `dcsr` that makes EBREAK enter debug mode. -/
def ebreakBit : Priv → Nat
  | .m => 15 | .s => 13 | .u => 12 | .vs => 17 | .vu => 16

/-- The instruction raises an exception; EBREAK enters debug mode where `dcsr` and the world's invasive enable say so (R492). -/
def State.raiseExc (s : State) (h code tval : Nat) : State :=
  if !s.excOk h code then s
  else if code == 3 && bitAt (s.csr h csrDcsr) (ebreakBit (s.hart h).priv) && s.invasive (s.hartWorld h) then (s.haltCommit h).debugHalt h 1
  else s.exception h code tval

def execTrapEntry (h : Hart) (cause tval : Word) (s : State) : Ans :=
  let x := hartXlen h.val
  let code := cause.toNat % 2 ^ (x - 1)
  .next (if bitAt cause.toNat (x - 1) then (s.pollHalt h.val).takeIrq h.val code
    else s.instr h.val (fun t => t.raiseExc h.val code (tval.toNat % 2 ^ x)))

/-! ### Xeztime (R136 to R149, R153) -/

/-- An Xeztime instruction of hart `h` where its mode may use Xeztime (R142). -/
def State.xezInstr (s : State) (h : Nat) (f : State → State) : State :=
  s.instr h (fun t => match t.xezCheck h with
    | some c => t.exception h c 0
    | none => f t)

/-- `vt.rd`; a timekeeper latches the high half (R137, R139). -/
def State.vtRd (s : State) (h rd : Nat) : State :=
  let v := s.vt 0
  ((s.when (8 ≤ h) (fun t => t.setCsr h 0xCC1 (v / 2 ^ 32))).setX h rd v).retire h

def execVtRd (h : Hart) (rd : RegIdx) (s : State) : Ans := .next (s.xezInstr h.val (fun t => t.vtRd h.val rd.val))

/-- Domain 0 has reached the target of `vt.wt`; on a timekeeper by a signed 32-bit difference (R138, R139). -/
def State.vtReached (s : State) (h target : Nat) : Bool :=
  if h < 8 then decide (target ≤ s.vt 0) else decide (0 ≤ toSigned 32 (s.vt 0 % 2 ^ 32 + 2 ^ 32 - target % 2 ^ 32))

/-- `vt.wt`. -/
def State.vtWt (s : State) (h target : Nat) : State :=
  if s.vtReached h target then s.retire h else s.updHart h (fun t => { t with waitVt := some target })

def execVtWt (h : Hart) (target : Word) (s : State) : Ans :=
  .next (s.xezInstr h.val (fun t => t.vtWt h.val (target.toNat % 2 ^ hartXlen h.val)))

/-- The target of a waiting `vt.wt` is reached: it retires. -/
def State.vtWtEnd (s : State) (h : Nat) : State :=
  match (s.hart h).waitVt with
  | some target =>
    if s.hartRuns h && s.vtReached h target then
      let was := s.hart h
      ((s.updHart h (fun t => { t with waitVt := none })).retire h).afterInstr h was
    else s
  | none => s

def execVtWtEnd (h : Hart) (s : State) : Ans := .next (s.vtWtEnd h.val)

/-- The cluster in epoch mode that hart `h` belongs to (R153). -/
def State.armCluster (s : State) (h : Nat) : Option Nat := if h < 8 && s.epochMode (clusterOf h) then some (clusterOf h) else none

/-- The one file an IRQ of the hart's mode may name, below HS and S (R122). -/
def State.armFile (s : State) (h : Nat) : Option (Option (Nat × Nat)) :=
  match (s.hart h).priv with
  | .u => some (some (h, 1))
  | .vs | .vu => some ((s.guestFile h).map (fun f => (h, f)))
  | _ => none

/-- A reserved entry joins the output queue of its cluster (R451). -/
def State.armQueue (s : State) (h c i : Nat) : State :=
  let e := s.epoch c
  ((s.setEpoch c { e with outq := e.outq ++ [.arm i] }).put (EPO_OUTQ_USED c) (e.outq.length + 1)).coreCount h 67

/-- The outcome of an arm in rd: the handle, or the status; a refusal by the fence is recorded (R45, R137, R440). -/
def State.armRetire (s : State) (h rd : Nat) (st : Status) (handle : Nat) : State :=
  let s := s.coreCount h (if st == .ok then 55 else 56)
  let s := s.when (st == .fenced) (fun t => t.sherd kFenced .fenced (srcId TKD 2) (t.hartWorld h) (hartSrc h) 0 (t.hartReq h).port TKD)
  (s.setX h rd (if st == .ok then handle else stReg h st)).retire h

/-- An arming instruction of hart `h`: judged, placed, or in a cluster in epoch mode reserved. A full output queue commits first
(R451). -/
def State.armInstr (s : State) (h rd : Nat) (q : ArmReq) : State :=
  let full := match q.epoch with
    | some c => decide (256 ≤ (s.epoch c).outq.length) && (s.arm q).2.1 == .ok
    | none => false
  let s := s.when full (fun t => t.commitNow h)
  let (t, st, handle) := s.armIssue q
  let t := match q.epoch with
    | some c => t.when (st == Status.ok) (fun u => u.armQueue h c (handle % 65536))
    | none => t
  t.armRetire h rd st handle

/-- The arm of `vt.sta` and `vt.sta.w` (R137, R139). -/
def State.staReq (s : State) (h pa size data : Nat) : ArmReq :=
  let c := s.modeVal h 0x7C0
  let time := if h < 8 then s.csr h 0x800 else s.csr h 0x800 + 2 ^ 32 * s.csr h 0x880
  ⟨time, data % 2 ^ (8 * size), pa, 3, bitAt c 4, size == 8, false, 0, 0, s.armOwner h, h, bitAt c 3, s.armFile h, s.armCluster h⟩

/-- `vt.sta` (8 bytes) and `vt.sta.w` (4). -/
def State.vtSta (s : State) (h va data size rd : Nat) : State :=
  if 8 ≤ h && size == 8 then s.illegal h
  else if va % size != 0 then s.exception h excStoreMisaligned va
  else match s.translate h .write va with
    | (s, .error c) => s.exception h c va
    | (s, .ok (pa, _)) => s.armInstr h rd (s.staReq h pa size data)

def execVtSta (h : Hart) (va data : Word) (rd : RegIdx) (s : State) : Ans :=
  .next (s.xezInstr h.val (fun t => t.vtSta h.val (va.toNat % 2 ^ hartXlen h.val) data.toNat 8 rd.val))

def execVtStaW (h : Hart) (va data : Word) (rd : RegIdx) (s : State) : Ans :=
  .next (s.xezInstr h.val (fun t => t.vtSta h.val (va.toNat % 2 ^ hartXlen h.val) data.toNat 4 rd.val))

/-- Translate a field of a descriptor where the action has an address there; other operands stay as they are. -/
def State.descAddr (s : State) (h : Nat) (use : Bool) (k : AccKind) (va : Nat) : State × Except (Nat × Nat) Nat :=
  if !use then (s, .ok va)
  else
    let va := va % 2 ^ hartXlen h
    match s.translate h k va with
    | (s, .error c) => (s, .error (c, va))
    | (s, .ok (pa, _)) => (s, .ok pa)

/-- Arm the descriptor `d` (R120, R122, R137). -/
def State.armDesc (s : State) (h rd d : Nat) : State :=
  let act := bitsOf d 192 4
  let sample := act == 7
  match s.descAddr h (act == 3 || sample) (if sample then .read else .write) (bitsOf d 128 64) with
  | (s, .error (c, tv)) => s.exception h c tv
  | (s, .ok addr) =>
    match s.descAddr h sample .write (bitsOf d 64 64) with
    | (s, .error (c, tv)) => s.exception h c tv
    | (s, .ok arg0) =>
      let sz := bitAt d 197
      s.armInstr h rd ⟨bitsOf d 0 64, arg0, addr, act, bitAt d 196, sz, bitAt d 198, bitsOf d 200 8, bitsOf d 208 16, s.armOwner h, h,
        bitAt (s.modeVal h 0x7C0) 3, s.armFile h, s.armCluster h⟩

/-- `vt.ev`: the descriptor is read as a normal load (R137, R355); a timekeeper's waits for stores in its write buffer that write
it (R357). -/
def State.vtEv (s : State) (h va rd : Nat) : State :=
  if va % 32 != 0 then s.exception h excLoadMisaligned va
  else s.withPieces h .read va 32 (fun ps t =>
    if ps.any (fun p => t.isDevice p) then t.exception h excLoadAccess va
    else if ps.any (fun p => (t.hart h).wbuf.any (fun d => wbufTouches d p.pa p.n)) then t
    else match t.partsRead h ps with
      | (t, _, true) => t.poisonTrap h .read (((ps.head?).map (fun p => p.pa)).getD 0) va
      | (t, d, false) => t.armDesc h rd d)

def execVtEv (h : Hart) (va : Word) (rd : RegIdx) (s : State) : Ans :=
  .next (s.xezInstr h.val (fun t => t.vtEv h.val (va.toNat % 2 ^ hartXlen h.val) rd.val))

/-- A reservation that an abort releases leaves the output queue (R153). -/
def State.unqueue (s : State) (c i : Nat) : State :=
  let e := s.epoch c
  let q := e.outq.filter (fun o => o != .arm i)
  (s.setEpoch c { e with outq := q }).put (EPO_OUTQ_USED c) q.length

/-- `vt.abt`: of an entry already committed it is a commit point of a cluster in epoch mode (R144, R153, R452). -/
def State.vtAbt (s : State) (h handle rd : Nat) : State :=
  let i := handle % 65536
  let e := s.went i
  let go (t : State) : State :=
    let (t, st) := t.abort (t.armOwner h) handle
    let t := match e.reserved with
      | some c => t.when (st == Status.ok) (fun u => u.unqueue c i)
      | none => t
    let t := t.when (st == Status.fenced) (fun u => u.sherd kFenced .fenced (srcId TKD 2) (u.hartWorld h) (hartSrc h) 0 (u.hartReq h).port TKD)
    (t.setX h rd (stReg h st)).retire h
  if e.state != .free && e.reserved.isNone && (s.armCluster h).isSome then (go (s.commitNow h)).epochStart (clusterOf h) else go s

def execVtAbt (h : Hart) (handle : BitVec 32) (rd : RegIdx) (s : State) : Ans :=
  .next (s.xezInstr h.val (fun t => t.vtAbt h.val handle.toNat rd.val))

/-! ### Timekeepers: start, stop, results beside the pipe -/

def execTkRunStop (a : Agent) (n : TkCore) (s : State) : Ans := .next (s.regAccess a true (TKC_CTL n.val) 4 (fun t => t.tkRun n.val false))
def execTkRunStart (a : Agent) (n : TkCore) (s : State) : Ans := .next (s.regAccess a true (TKC_CTL n.val) 4 (fun t => t.tkRun n.val true))

/-- A product of 32-bit operands as RV32M gives it (R283, R285). -/
def mulVal (op : MulOp) (x y : Nat) : Nat :=
  match op with
  | .mul => x * y % 2 ^ 32
  | .mulh => ofSigned 32 (toSigned 32 x * toSigned 32 y / 2 ^ 32)
  | .mulhsu => ofSigned 32 (toSigned 32 x * (y : Int) / 2 ^ 32)
  | .mulhu => x * y / 2 ^ 32 % 2 ^ 32

/-- A quotient or remainder as RV32M gives it: by zero all ones and the dividend, on overflow the dividend and 0. -/
def divVal (op : DivOp) (x y : Nat) : Nat :=
  match op with
  | .div => if y == 0 then 2 ^ 32 - 1 else ofSigned 32 (Int.tdiv (toSigned 32 x) (toSigned 32 y))
  | .divu => if y == 0 then 2 ^ 32 - 1 else x / y
  | .rem => if y == 0 then x else ofSigned 32 (Int.tmod (toSigned 32 x) (toSigned 32 y))
  | .remu => if y == 0 then x else x % y

/-- A result arrives beside the pipe, whatever the core does meanwhile (R285, R286). -/
def State.tkResult (s : State) (n rd v : Nat) : State := if (s.hart (8 + n)).running && s.runs TKD (4 + n) then s.setX (8 + n) rd v else s

def execTkMultiplyResult (n : TkCore) (op : MulOp) (rd : RegIdx) (x y : BitVec 32) (s : State) : Ans :=
  .next (s.tkResult n.val rd.val (mulVal op x.toNat y.toNat))

def execTkDivideResult (n : TkCore) (op : DivOp) (rd : RegIdx) (x y : BitVec 32) (s : State) : Ans :=
  .next (s.tkResult n.val rd.val (divVal op x.toNat y.toNat))

/-! ### Saggars (R416 to R421) -/

/-- The bit of MODES that names a mode. -/
def modesBit : Priv → Nat
  | .u => 0 | .s => 1 | .vs => 2 | .vu => 3 | .m => 4

/-- The first cause for which `sag.enter` is refused, or 0 (R417). -/
def State.sagCause (s : State) (h k : Nat) : Nat :=
  let p := (s.hart h).priv
  let vmid := if virt p then bitsOf (s.csr h 0x680) 44 14 else 0
  if bitAt (s.modeVal h csrEzsag) 7 then 1
  else if s.inSaggar h then 2
  else if s.get SAG_STATUS_NSAG ≤ k then 3
  else if p == .m || !bitAt (s.get (SAG_DESC_ATTR_MODES k)) (modesBit p) then 4
  else if s.hartWorld h == .secure || (!s.on (SAG_DESC_ATTR_VMIDANY k) && vmid != s.get (SAG_DESC_ATTR_VMID k)) then 5
  else 0

/-- `sag.enter`. -/
def State.sagEnter (s : State) (h rd k : Nat) : State :=
  let c := s.sagCause h k
  let z := s.csr h csrEzsag
  if c != 0 then ((s.setCsr h csrEzsag (putBits z 16 3 c)).coreCount h 58).illegal h
  else
    let s := (s.setX h rd ((s.hart h).pc + 4)).setCsr h csrEzsag (putBits (putBits (putBits z 0 6 k) 6 1 1) 14 1 0)
    (s.coreCount h 57).retireTo h (s.get (SAG_DESC_ENTRY_ENTRY k))

def execSagEnter (h : Hart) (rd : RegIdx) (sag : BitVec 6) (s : State) : Ans :=
  .next (s.appInstr h.val (fun t => t.sagEnter h.val rd.val sag.toNat))

/-- `sag.exit` (R418). -/
def State.sagExit (s : State) (h target : Nat) : State :=
  if !s.inSaggar h then s.illegal h
  else (s.setCsr h csrEzsag (putBits (s.csr h csrEzsag) 6 1 0)).retireTo h (target / 2 * 2)

def execSagExit (h : Hart) (target : Word) (s : State) : Ans := .next (s.appInstr h.val (fun t => t.sagExit h.val target.toNat))

/-! ### Reset of a domain (R370, R441, R442) -/

/-- APC is drained and powered down before MEM is reset (R442). -/
def State.apcFirst (s : State) : State :=
  (State.each ((List.range 8).filter (fun h => (s.hart h).running)) (fun h t => t.sbDrainAll h) s).domOff APC

/-- Domain `d`, out of reset, enters reset; the modes and requests in force decide whether it is powered up again. -/
def State.domReset (s : State) (d : Nat) : State :=
  if d == AON || !s.outOfReset d then s
  else ((s.when (d == MEM) State.apcFirst).domDown d .up false).domSync

def execDomainResetEnter (d : DomId) (s : State) : Ans := .next (s.domReset d.val)

/-! ### Abstract commands (R490 to R497) -/

/-- An abstract command ends with `cmderr`. -/
def State.absEnd (s : State) (e : Nat) : State := { s with dbgm := { s.dbgm with cmderr := e } }

/-- It ends with what it read. -/
def State.absData (s : State) (v : Nat) : State := { s with dbgm := { s.dbgm with cmderr := 0, data := v } }

/-- A hart halted in the normal world while secure invasive debug is disabled (R493). -/
def State.absNormal (s : State) (h : Nat) : Bool := h < 8 && (s.hart h).world == .normal && !bitAt s.dbgEn 0

/-- The writable bits of `dcsr`. -/
def dcsrMask (h : Nat) : Nat := if h < 8 then 0x3BC37 else if h < 12 then 0x8C04 else 0x9C17

/-- A write of `dcsr`: a prv of 2, of 3 where R493 forbids it, or of a mode the core lacks is ignored. -/
def State.dcsrWrite (s : State) (h v : Nat) : State :=
  let old := s.csr h csrDcsr
  let n := merge (dcsrMask h) old v
  let prv := bitsOf n 0 2
  s.setCsr h csrDcsr (if prv == 2 || (prv == 1 && 8 ≤ h) || (prv == 3 && s.absNormal h) then putBits n 0 2 (bitsOf old 0 2) else n)

/-- A CSR that the debug module may not reach: absent, or M-level under R493. -/
def State.absCsrBad (s : State) (h a : Nat) : Bool := !csrKnown h a || (s.absNormal h && a / 256 % 4 == 3 && !within a 0x7B0 0x7B4)

/-- Access Register, reading. -/
def State.absRead (s : State) (h r : Nat) : State :=
  if r < 0x1000 then
    if s.absCsrBad h r then s.absEnd 3
    else
      let (t, v) := s.csrRead h r
      t.absData v
  else if within r 0x1000 0x1020 then s.absData (s.xreg h (r - 0x1000))
  else if within r 0x1020 0x1040 && h < 8 then s.absData (tabGet (fun _ => 0) (s.hart h).f (r - 0x1020))
  else s.absEnd 2

/-- Access Register, writing. A mode CSR is in force from the next instruction executed (R278). -/
def State.absWrite (s : State) (h r v : Nat) : State :=
  let v := v % 2 ^ hartXlen h
  if r < 0x1000 then
    if s.absCsrBad h r || r / 1024 == 3 then s.absEnd 3
    else if r == csrDcsr then (s.dcsrWrite h v).absEnd 0
    else if r == csrDpc then (s.setCsr h csrDpc (v / 2 * 2)).absEnd 0
    else ((s.csrWrite h r v true).modesNow h).absEnd 0
  else if within r 0x1000 0x1020 then (s.setX h (r - 0x1000) v).absEnd 0
  else if within r 0x1020 0x1040 && h < 8 then
    (s.updHart h (fun t => { t with f := tabSet (fun _ => 0) t.f (r - 0x1020) v })).absEnd 0
  else s.absEnd 2

/-- Translate an address with the privilege of `dcsr.prv` and `dcsr.v`, and its PMP (R493). -/
def State.absTranslate (s : State) (h : Nat) (k : AccKind) (va : Nat) : State × Except Nat (Nat × Nat) :=
  let d := s.csr h csrDcsr
  let p := privOf (bitsOf d 0 2) (bitAt d 5)
  if p == .m then (if s.pmpOk h true k va && va < 2 ^ 44 then (s, .ok (va, 0)) else (s, .error (excAccess k)))
  else
    let was := (s.hart h).priv
    let (t, r) := (s.updHart h (fun u => { u with priv := p })).translate h k va
    (t.updHart h (fun u => { u with priv := was }), r)

/-- The access takes in an `ACC_WORLD` register. -/
def hitsAccWorld (a n : Nat) : Bool := (List.range 8).any (fun c => decide (a < ACC_WORLD c + 4) && decide (ACC_WORLD c < a + n))

/-- Access Memory at a physical address: with the debug attribute, its writes as from outside the cluster (R495, R497). -/
def State.absMemory (s : State) (h : Nat) (write : Bool) (pa n v : Nat) : State :=
  let a : Agent := .hart (Fin.ofNat 13 h)
  if s.isWindow pa then
    match s.winJudge a (s.hartSlice h) write pa n with
    | .ok => if write then (s.winWrite a (s.hartSlice h) pa n v).absEnd 0 else s.absData (s.winRead (s.hartSlice h) true pa n).2
    | .bad => s.absEnd 5
    | .refuse st => (s.sherdRefused a st (s.region pa) pa).absEnd 5
  else match s.physVerdict (s.hartWorld h) none (if write then .write else .read) pa with
    | .ok =>
      if s.windowAbsent pa then s.absEnd 5
      else if write then (s.memWrite (s.hartReq h) pa n v).absEnd 0
      else
        let (t, d, p) := s.normalRead h ⟨pa, pa, n, 0⟩
        if p then t.absEnd 5 else t.absData d
    | r => (s.physRefuse (s.hartReq h) true r pa).absEnd 5

/-- Access Memory. -/
def State.absAccess (s : State) (h : Nat) (write : Bool) (va n v : Nat) : State :=
  let va := va % 2 ^ hartXlen h
  if va % n != 0 then s.absEnd 5
  else match (s.sbDrainAll h).absTranslate h (if write then .write else .read) va with
    | (t, .error _) => t.absEnd 3
    | (t, .ok (pa, _)) => if t.absNormal h && hitsAccWorld pa n then t.absEnd 3 else t.absMemory h write pa n (v % 2 ^ (8 * n))

/-- An abstract command: for a halted hart, under the invasive enable of its world. -/
def State.abstract (s : State) (h : Nat) (c : AbsCmd) : State :=
  if !s.dbgm.active || !s.outOfReset AON then s
  else if !(s.hart h).halted || !s.invasive (s.hartWorld h) then s.absEnd 4
  else match c with
    | .readReg r => s.absRead h r.toNat
    | .writeReg r v => s.absWrite h r.toNat v.toNat
    | .readMem z va => s.absAccess h false va.toNat z.bytes 0
    | .writeMem z va v => s.absAccess h true va.toNat z.bytes v.toNat

def execAbstractCommand (h : Hart) (c : AbsCmd) (s : State) : Ans := .next (s.abstract (s.debugHart h.val) c)

end Sys2Proof.Machine
end

