-- ==== Sys2Proof/Machine/Dispatch.lean ====
section
/-! DEFINITION. One arm per command. -/

namespace Sys2Proof.Machine

def exec (i : Instr) (s : State) : Host.Outcome State Fault Refusal :=
  match i with
  | .registerWrite a addr bytes data => Sys2Proof.Machine.execRegisterWrite a addr bytes data s
  | .halfWriteStage a addr data => Sys2Proof.Machine.execHalfWriteStage a addr data s
  | .load h va size rd signed kind err => Sys2Proof.Machine.execLoad h va size rd signed kind err s
  | .store h va size data => Sys2Proof.Machine.execStore h va size data s
  | .storeBufferDrain h idx => Sys2Proof.Machine.execStoreBufferDrain h idx s
  | .deviceStoreAck h => Sys2Proof.Machine.execDeviceStoreAck h s
  | .amo h op va size rd src => Sys2Proof.Machine.execAmo h op va size rd src s
  | .loadReserved h va size rd => Sys2Proof.Machine.execLoadReserved h va size rd s
  | .storeConditional h va size rd data => Sys2Proof.Machine.execStoreConditional h va size rd data s
  | .fence h pi po pr pw si so sr sw => Sys2Proof.Machine.execFence h pi po pr pw si so sr sw s
  | .fenceI h => Sys2Proof.Machine.execFenceI h s
  | .sfenceVma h kind va asid => Sys2Proof.Machine.execSfenceVma h kind va asid s
  | .cboZero h va => Sys2Proof.Machine.execCboZero h va s
  | .csrAccess h csr op rd src => Sys2Proof.Machine.execCsrAccess h csr op rd src s
  | .modeCsrWrite h csr op rd src => Sys2Proof.Machine.execModeCsrWrite h csr op rd src s
  | .mret h => Sys2Proof.Machine.execMret h s
  | .sret h => Sys2Proof.Machine.execSret h s
  | .wfi h => Sys2Proof.Machine.execWfi h s
  | .trapEntry h cause tval => Sys2Proof.Machine.execTrapEntry h cause tval s
  | .mtimecmpMatch h => Sys2Proof.Machine.execMtimecmpMatch h s
  | .stimecmpMatch h guest => Sys2Proof.Machine.execStimecmpMatch h guest s
  | .supplyArrival vin cid => Sys2Proof.Machine.execSupplyArrival vin cid s
  | .porstNFall => Sys2Proof.Machine.execPorstNFall s
  | .porstNRise cid => Sys2Proof.Machine.execPorstNRise cid s
  | .chipReset => Sys2Proof.Machine.execChipReset s
  | .bootRomImageSelect badA badB => Sys2Proof.Machine.execBootRomImageSelect badA badB s
  | .bisqueApply => Sys2Proof.Machine.execBisqueApply s
  | .dramTrainingDone ok => Sys2Proof.Machine.execDramTrainingDone ok s
  | .bootWedgeDone => Sys2Proof.Machine.execBootWedgeDone s
  | .glostStage medians => Sys2Proof.Machine.execGlostStage medians s
  | .fireCommit a => Sys2Proof.Machine.execFireCommit a s
  | .fireNwrel a => Sys2Proof.Machine.execFireNwrel a s
  | .fireReboot a => Sys2Proof.Machine.execFireReboot a s
  | .fireTrialArm a tries => Sys2Proof.Machine.execFireTrialArm a tries s
  | .controlBlockWriteDone => Sys2Proof.Machine.execControlBlockWriteDone s
  | .flashErase a => Sys2Proof.Machine.execFlashErase a s
  | .flashProgram a => Sys2Proof.Machine.execFlashProgram a s
  | .flashOpDenied a => Sys2Proof.Machine.execFlashOpDenied a s
  | .flashCmdComplete => Sys2Proof.Machine.execFlashCmdComplete s
  | .flashDataRead a half => Sys2Proof.Machine.execFlashDataRead a half s
  | .coneBurn a cone expect value => Sys2Proof.Machine.execConeBurn a cone expect value s
  | .coneBurnComplete => Sys2Proof.Machine.execConeBurnComplete s
  | .burnRecordCopy n => Sys2Proof.Machine.execBurnRecordCopy n s
  | .vtSnap a => Sys2Proof.Machine.execVtSnap a s
  | .discSlew a d ppm => Sys2Proof.Machine.execDiscSlew a d ppm s
  | .discJumpBy a d ppm => Sys2Proof.Machine.execDiscJumpBy a d ppm s
  | .discJumpTo a d ppm => Sys2Proof.Machine.execDiscJumpTo a d ppm s
  | .jumpTakeEffect d => Sys2Proof.Machine.execJumpTakeEffect d s
  | .jumpDeliveryDone d => Sys2Proof.Machine.execJumpDeliveryDone d s
  | .slewComplete d => Sys2Proof.Machine.execSlewComplete d s
  | .rateWordWrite a d rate => Sys2Proof.Machine.execRateWordWrite a d rate s
  | .discCtlWrite a d mode preset swstate => Sys2Proof.Machine.execDiscCtlWrite a d mode preset swstate s
  | .syncReceived p dn phase origin => Sys2Proof.Machine.execSyncReceived p dn phase origin s
  | .followUpReceived p dn origin corr => Sys2Proof.Machine.execFollowUpReceived p dn origin corr s
  | .syncReceiptTimeout p d => Sys2Proof.Machine.execSyncReceiptTimeout p d s
  | .syncSend p d phase => Sys2Proof.Machine.execSyncSend p d phase s
  | .announceReceived p dn v => Sys2Proof.Machine.execAnnounceReceived p dn v s
  | .announceReceiptTimeout p d => Sys2Proof.Machine.execAnnounceReceiptTimeout p d s
  | .announceSend p d => Sys2Proof.Machine.execAnnounceSend p d s
  | .pdelayReqSend p phase => Sys2Proof.Machine.execPdelayReqSend p phase s
  | .pdelayReqReceived p phase => Sys2Proof.Machine.execPdelayReqReceived p phase s
  | .pdelayRespReceived p phase t2 t3 => Sys2Proof.Machine.execPdelayRespReceived p phase t2 t3 s
  | .signalingReceived p dn sync announce pdelay => Sys2Proof.Machine.execSignalingReceived p dn sync announce pdelay s
  | .tpLevelSet a n => Sys2Proof.Machine.execTpLevelSet a n s
  | .tpLevelClr a n => Sys2Proof.Machine.execTpLevelClr a n s
  | .tpGenRunStart a n => Sys2Proof.Machine.execTpGenRunStart a n s
  | .tpGenRunStop a n => Sys2Proof.Machine.execTpGenRunStop a n s
  | .tpGenParamWrite a n which v => Sys2Proof.Machine.execTpGenParamWrite a n which v s
  | .tpGenActivate n => Sys2Proof.Machine.execTpGenActivate n s
  | .tpGenDeactivate n => Sys2Proof.Machine.execTpGenDeactivate n s
  | .tpCaptureEdge n rising phase stableNs => Sys2Proof.Machine.execTpCaptureEdge n rising phase stableNs s
  | .tpCapRead a n half => Sys2Proof.Machine.execTpCapRead a n half s
  | .pulseTrailingEdge n => Sys2Proof.Machine.execPulseTrailingEdge n s
  | .vtRd h rd => Sys2Proof.Machine.execVtRd h rd s
  | .vtWt h target => Sys2Proof.Machine.execVtWt h target s
  | .vtWtEnd h => Sys2Proof.Machine.execVtWtEnd h s
  | .vtSta h va data rd => Sys2Proof.Machine.execVtSta h va data rd s
  | .vtStaW h va data rd => Sys2Proof.Machine.execVtStaW h va data rd s
  | .vtEv h va rd => Sys2Proof.Machine.execVtEv h va rd s
  | .vtAbt h handle rd => Sys2Proof.Machine.execVtAbt h handle rd s
  | .horizonAdmit idx => Sys2Proof.Machine.execHorizonAdmit idx s
  | .wheelFireImminent idx => Sys2Proof.Machine.execWheelFireImminent idx s
  | .calendarSweep => Sys2Proof.Machine.execCalendarSweep s
  | .wheelActionComplete idx ok => Sys2Proof.Machine.execWheelActionComplete idx ok s
  | .completionRecordWrite idx => Sys2Proof.Machine.execCompletionRecordWrite idx s
  | .wheelCalibrate a => Sys2Proof.Machine.execWheelCalibrate a s
  | .calibrationDone medians => Sys2Proof.Machine.execCalibrationDone medians s
  | .twhInspRead a half => Sys2Proof.Machine.execTwhInspRead a half s
  | .wheelQuotaWrite a sl quota => Sys2Proof.Machine.execWheelQuotaWrite a sl quota s
  | .csiPacketReceive p vc dt data hdrErr crcErr phase => Sys2Proof.Machine.execCsiPacketReceive p vc dt data hdrErr crcErr phase s
  | .ethFrameReceive p bytes fcsErr ipErr phase => Sys2Proof.Machine.execEthFrameReceive p bytes fcsErr ipErr phase s
  | .canFrameReceive c f => Sys2Proof.Machine.execCanFrameReceive c f s
  | .captureDescriptorWrite st => Sys2Proof.Machine.execCaptureDescriptorWrite st s
  | .frameIdleClose st => Sys2Proof.Machine.execFrameIdleClose st s
  | .captureWriteError e => Sys2Proof.Machine.execCaptureWriteError e s
  | .capRingEnable a sl r => Sys2Proof.Machine.execCapRingEnable a sl r s
  | .sttWrite a p idx expgen anygen => Sys2Proof.Machine.execSttWrite a p idx expgen anygen s
  | .sttWriteZero a p idx expgen anygen => Sys2Proof.Machine.execSttWriteZero a p idx expgen anygen s
  | .sttInvalidate a p idx expgen anygen => Sys2Proof.Machine.execSttInvalidate a p idx expgen anygen s
  | .sttPlace a p => Sys2Proof.Machine.execSttPlace a p s
  | .sttUpdReservedOp a p op => Sys2Proof.Machine.execSttUpdReservedOp a p op s
  | .sttUpdateComplete p => Sys2Proof.Machine.execSttUpdateComplete p s
  | .sttRdSnapshot a half => Sys2Proof.Machine.execSttRdSnapshot a half s
  | .sttProbe a key kind => Sys2Proof.Machine.execSttProbe a key kind s
  | .missqRead a half => Sys2Proof.Machine.execMissqRead a half s
  | .camPreset a v => Sys2Proof.Machine.execCamPreset a v s
  | .sliceBind a sl => Sys2Proof.Machine.execSliceBind a sl s
  | .sliceReset a sl => Sys2Proof.Machine.execSliceReset a sl s
  | .sliceUnbind a sl => Sys2Proof.Machine.execSliceUnbind a sl s
  | .sliceQuiet sl => Sys2Proof.Machine.execSliceQuiet sl s
  | .dbSubmission h r tail => Sys2Proof.Machine.execDbSubmission h r tail s
  | .dlQuery h stream => Sys2Proof.Machine.execDlQuery h stream s
  | .modHoldoffExpire sl r => Sys2Proof.Machine.execModHoldoffExpire sl r s
  | .mailboxSend a side expseq => Sys2Proof.Machine.execMailboxSend a side expseq s
  | .mailboxAck a side seq => Sys2Proof.Machine.execMailboxAck a side seq s
  | .egressSelect p phase => Sys2Proof.Machine.execEgressSelect p phase s
  | .frameTransmitEnd p => Sys2Proof.Machine.execFrameTransmitEnd p s
  | .gclEntryAdvance p => Sys2Proof.Machine.execGclEntryAdvance p s
  | .gclChange a p => Sys2Proof.Machine.execGclChange a p s
  | .gclChangeTakeEffect p => Sys2Proof.Machine.execGclChangeTakeEffect p s
  | .injDescTake r => Sys2Proof.Machine.execInjDescTake r s
  | .injDescComplete r => Sys2Proof.Machine.execInjDescComplete r s
  | .injRingEnable a r => Sys2Proof.Machine.execInjRingEnable a r s
  | .swUnpark a port queue tag => Sys2Proof.Machine.execSwUnpark a port queue tag s
  | .fdbWrite a => Sys2Proof.Machine.execFdbWrite a s
  | .fdbDelete a => Sys2Proof.Machine.execFdbDelete a s
  | .fdbRead a => Sys2Proof.Machine.execFdbRead a s
  | .fdbAgeExpire mac vid => Sys2Proof.Machine.execFdbAgeExpire mac vid s
  | .frerResetTimeout f => Sys2Proof.Machine.execFrerResetTimeout f s
  | .linkUp p rate master => Sys2Proof.Machine.execLinkUp p rate master s
  | .linkDown p => Sys2Proof.Machine.execLinkDown p s
  | .tc10SleepReq a p => Sys2Proof.Machine.execTc10SleepReq a p s
  | .tc10WakeCmd a p => Sys2Proof.Machine.execTc10WakeCmd a p s
  | .tc10PartnerSleepReq p => Sys2Proof.Machine.execTc10PartnerSleepReq p s
  | .tc10PartnerAck p => Sys2Proof.Machine.execTc10PartnerAck p s
  | .tc10PartnerReject p => Sys2Proof.Machine.execTc10PartnerReject p s
  | .tc10RequestTimeout p => Sys2Proof.Machine.execTc10RequestTimeout p s
  | .tc10WakePulse p => Sys2Proof.Machine.execTc10WakePulse p s
  | .tc10WakeTimeout p => Sys2Proof.Machine.execTc10WakeTimeout p s
  | .podlClassify => Sys2Proof.Machine.execPodlClassify s
  | .podlPowerArrive vin => Sys2Proof.Machine.execPodlPowerArrive vin s
  | .bcGpioCmd a n v => Sys2Proof.Machine.execBcGpioCmd a n v s
  | .bcI2cWriteCmd a n v => Sys2Proof.Machine.execBcI2cWriteCmd a n v s
  | .bcI2cReadCmd a n v => Sys2Proof.Machine.execBcI2cReadCmd a n v s
  | .bcAck n nack rdata => Sys2Proof.Machine.execBcAck n nack rdata s
  | .bcTimeout n => Sys2Proof.Machine.execBcTimeout n s
  | .camLinkUp n gear => Sys2Proof.Machine.execCamLinkUp n gear s
  | .camLinkDown n => Sys2Proof.Machine.execCamLinkDown n s
  | .canTxDescTake c => Sys2Proof.Machine.execCanTxDescTake c s
  | .canTxComplete c sofAgo => Sys2Proof.Machine.execCanTxComplete c sofAgo s
  | .canBusOff c => Sys2Proof.Machine.execCanBusOff c s
  | .canBusoffRecovery c => Sys2Proof.Machine.execCanBusoffRecovery c s
  | .ledgerRecordAccept r => Sys2Proof.Machine.execLedgerRecordAccept r s
  | .ledgerSwRecord a w typ len sub => Sys2Proof.Machine.execLedgerSwRecord a w typ len sub s
  | .blockCloseTimer => Sys2Proof.Machine.execBlockCloseTimer s
  | .ledgerFlush a => Sys2Proof.Machine.execLedgerFlush a s
  | .signatureReturn ok r s2 => Sys2Proof.Machine.execSignatureReturn ok r s2 s
  | .signTimeout => Sys2Proof.Machine.execSignTimeout s
  | .signRetry => Sys2Proof.Machine.execSignRetry s
  | .nvmeWriteComplete seq ok => Sys2Proof.Machine.execNvmeWriteComplete seq ok s
  | .ledgerResume a => Sys2Proof.Machine.execLedgerResume a s
  | .resumeReadComplete ok copies blocks => Sys2Proof.Machine.execResumeReadComplete ok copies blocks s
  | .ledgerReinit a => Sys2Proof.Machine.execLedgerReinit a s
  | .ledgerOrderlyClose reason => Sys2Proof.Machine.execLedgerOrderlyClose reason s
  | .orderlyCloseDone => Sys2Proof.Machine.execOrderlyCloseDone s
  | .replayCopy a => Sys2Proof.Machine.execReplayCopy a s
  | .replayCheck a => Sys2Proof.Machine.execReplayCheck a s
  | .replayCopyCheck a => Sys2Proof.Machine.execReplayCopyCheck a s
  | .replayDone blocks ok => Sys2Proof.Machine.execReplayDone blocks ok s
  | .tkRunStop a n => Sys2Proof.Machine.execTkRunStop a n s
  | .tkRunStart a n => Sys2Proof.Machine.execTkRunStart a n s
  | .tkMultiplyResult n op rd x y => Sys2Proof.Machine.execTkMultiplyResult n op rd x y s
  | .tkDivideResult n op rd x y => Sys2Proof.Machine.execTkDivideResult n op rd x y s
  | .fabricLoadResponse n => Sys2Proof.Machine.execFabricLoadResponse n s
  | .tkWriteBufferDrain n => Sys2Proof.Machine.execTkWriteBufferDrain n s
  | .lockstepDivergence p cause addr => Sys2Proof.Machine.execLockstepDivergence p cause addr s
  | .lockstepRestart a p => Sys2Proof.Machine.execLockstepRestart a p s
  | .lockstepInject a p => Sys2Proof.Machine.execLockstepInject a p s
  | .accWorldWrite a c next => Sys2Proof.Machine.execAccWorldWrite a c next s
  | .sagEnter h rd sag => Sys2Proof.Machine.execSagEnter h rd sag s
  | .sagExit h target => Sys2Proof.Machine.execSagExit h target s
  | .dmaRequest dev pasid write iova size data => Sys2Proof.Machine.execDmaRequest dev pasid write iova size data s
  | .pcieInboundRequest write off size data => Sys2Proof.Machine.execPcieInboundRequest write off size data s
  | .aplicSourceChange src => Sys2Proof.Machine.execAplicSourceChange src s
  | .msiWrite w addr data => Sys2Proof.Machine.execMsiWrite w addr data s
  | .localMsg a n eiid => Sys2Proof.Machine.execLocalMsg a n eiid s
  | .localClaim a n half => Sys2Proof.Machine.execLocalClaim a n half s
  | .cascadeWindowAccess a va addr write rd data answer => Sys2Proof.Machine.execCascadeWindowAccess a va addr write rd data answer s
  | .cascadeRemoteServe fromId write addr size data => Sys2Proof.Machine.execCascadeRemoteServe fromId write addr size data s
  | .readShared r line => Sys2Proof.Machine.execReadShared r line s
  | .readUnique r line mask data => Sys2Proof.Machine.execReadUnique r line mask data s
  | .upgrade c line => Sys2Proof.Machine.execUpgrade c line s
  | .writeback c line => Sys2Proof.Machine.execWriteback c line s
  | .evictNotice c line => Sys2Proof.Machine.execEvictNotice c line s
  | .stashHint r core line mask data => Sys2Proof.Machine.execStashHint r core line mask data s
  | .snpShared c line => Sys2Proof.Machine.execSnpShared c line s
  | .snpOnce c line => Sys2Proof.Machine.execSnpOnce c line s
  | .snpInvalid c line => Sys2Proof.Machine.execSnpInvalid c line s
  | .snoopResponse c line => Sys2Proof.Machine.execSnoopResponse c line s
  | .stashFill c line => Sys2Proof.Machine.execStashFill c line s
  | .coherentResponse line => Sys2Proof.Machine.execCoherentResponse line s
  | .nackRetry r line => Sys2Proof.Machine.execNackRetry r line s
  | .reservationWindowExpire slice => Sys2Proof.Machine.execReservationWindowExpire slice s
  | .holdTimeExpire c line => Sys2Proof.Machine.execHoldTimeExpire c line s
  | .dirInspect a line => Sys2Proof.Machine.execDirInspect a line s
  | .slcRetire a ways => Sys2Proof.Machine.execSlcRetire a ways s
  | .l2WayRetire a c ways => Sys2Proof.Machine.execL2WayRetire a c ways s
  | .dirWayRetire a ways => Sys2Proof.Machine.execDirWayRetire a ways s
  | .retirementDone => Sys2Proof.Machine.execRetirementDone s
  | .arbSlotBoundary => Sys2Proof.Machine.execArbSlotBoundary s
  | .arbRequest p => Sys2Proof.Machine.execArbRequest p s
  | .arbRequestDrop p => Sys2Proof.Machine.execArbRequestDrop p s
  | .arbSwap a => Sys2Proof.Machine.execArbSwap a s
  | .dramRead p line upset => Sys2Proof.Machine.execDramRead p line upset s
  | .dramWrite p line mask data upset => Sys2Proof.Machine.execDramWrite p line mask data upset s
  | .wedgeCmd a => Sys2Proof.Machine.execWedgeCmd a s
  | .wedgeTestCmd a fails => Sys2Proof.Machine.execWedgeTestCmd a fails s
  | .wedgeReservedOp a => Sys2Proof.Machine.execWedgeReservedOp a s
  | .wedgeDone => Sys2Proof.Machine.execWedgeDone s
  | .scrubRead upset => Sys2Proof.Machine.execScrubRead upset s
  | .sherdPop a => Sys2Proof.Machine.execSherdPop a s
  | .sherdHeadRead a half => Sys2Proof.Machine.execSherdHeadRead a half s
  | .crazingDecay => Sys2Proof.Machine.execCrazingDecay s
  | .crazingClear a => Sys2Proof.Machine.execCrazingClear a s
  | .pageRemap a page => Sys2Proof.Machine.execPageRemap a page s
  | .remapDone => Sys2Proof.Machine.execRemapDone s
  | .watermarkChange a new expect => Sys2Proof.Machine.execWatermarkChange a new expect s
  | .watermarkRaiseDone => Sys2Proof.Machine.execWatermarkRaiseDone s
  | .handoverRequest a w block => Sys2Proof.Machine.execHandoverRequest a w block s
  | .handoverWithdraw a w => Sys2Proof.Machine.execHandoverWithdraw a w s
  | .handoverGrant a => Sys2Proof.Machine.execHandoverGrant a s
  | .handoverRefuse a => Sys2Proof.Machine.execHandoverRefuse a s
  | .quiesceEnd dom blk => Sys2Proof.Machine.execQuiesceEnd dom blk s
  | .blockResetComplete dom blk => Sys2Proof.Machine.execBlockResetComplete dom blk s
  | .handoverReassign dom blk => Sys2Proof.Machine.execHandoverReassign dom blk s
  | .pmConsentGrant a => Sys2Proof.Machine.execPmConsentGrant a s
  | .pmConsentRefuse a => Sys2Proof.Machine.execPmConsentRefuse a s
  | .swdKick a c seq => Sys2Proof.Machine.execSwdKick a c seq s
  | .swdWarn c => Sys2Proof.Machine.execSwdWarn c s
  | .swdClass0Expire => Sys2Proof.Machine.execSwdClass0Expire s
  | .swdClass1Expire => Sys2Proof.Machine.execSwdClass1Expire s
  | .domainResetEnter d => Sys2Proof.Machine.execDomainResetEnter d s
  | .lockAcquire a n => Sys2Proof.Machine.execLockAcquire a n s
  | .lockRelease a n => Sys2Proof.Machine.execLockRelease a n s
  | .epochTimerCommit c => Sys2Proof.Machine.execEpochTimerCommit c s
  | .epochCommitCmd a c => Sys2Proof.Machine.execEpochCommitCmd a c s
  | .epochCommitDone c => Sys2Proof.Machine.execEpochCommitDone c s
  | .epochOutputRefused c idx status => Sys2Proof.Machine.execEpochOutputRefused c idx status s
  | .epochRollbackCmd a c => Sys2Proof.Machine.execEpochRollbackCmd a c s
  | .epochRollbackDone c => Sys2Proof.Machine.execEpochRollbackDone c s
  | .epochResume a c => Sys2Proof.Machine.execEpochResume a c s
  | .inputSwitchover toPodl vin => Sys2Proof.Machine.execInputSwitchover toPodl vin s
  | .vsupOutOfRange above vin => Sys2Proof.Machine.execVsupOutOfRange above vin s
  | .vsupRangeStable vin => Sys2Proof.Machine.execVsupRangeStable vin s
  | .modeRequest a w req => Sys2Proof.Machine.execModeRequest a w req s
  | .governorPowerSample draw => Sys2Proof.Machine.execGovernorPowerSample draw s
  | .keepEntry => Sys2Proof.Machine.execKeepEntry s
  | .sleepEntry => Sys2Proof.Machine.execSleepEntry s
  | .keepExit => Sys2Proof.Machine.execKeepExit s
  | .domainPowerDownReq a w d => Sys2Proof.Machine.execDomainPowerDownReq a w d s
  | .domainPowerUpReq a w d => Sys2Proof.Machine.execDomainPowerUpReq a w d s
  | .blockClockGate a w block => Sys2Proof.Machine.execBlockClockGate a w block s
  | .blockClockUngate a w block => Sys2Proof.Machine.execBlockClockUngate a w block s
  | .domainPllLock d => Sys2Proof.Machine.execDomainPllLock d s
  | .domainWedgeDone d => Sys2Proof.Machine.execDomainWedgeDone d s
  | .domainIsolated d => Sys2Proof.Machine.execDomainIsolated d s
  | .corePowerReq a c req => Sys2Proof.Machine.execCorePowerReq a c req s
  | .corePowerTransition c => Sys2Proof.Machine.execCorePowerTransition c s
  | .apcClockStep c => Sys2Proof.Machine.execApcClockStep c s
  | .aotAlarmFire => Sys2Proof.Machine.execAotAlarmFire s
  | .aotRateLearn period => Sys2Proof.Machine.execAotRateLearn period s
  | .wakeEvent src => Sys2Proof.Machine.execWakeEvent src s
  | .wakeSwRequest a => Sys2Proof.Machine.execWakeSwRequest a s
  | .dipStart vin => Sys2Proof.Machine.execDipStart vin s
  | .dipEnd => Sys2Proof.Machine.execDipEnd s
  | .supplyBelowReset vin => Sys2Proof.Machine.execSupplyBelowReset vin s
  | .holdupEnd => Sys2Proof.Machine.execHoldupEnd s
  | .resetRecovery => Sys2Proof.Machine.execResetRecovery s
  | .aonDropout => Sys2Proof.Machine.execAonDropout s
  | .haltRequest h => Sys2Proof.Machine.execHaltRequest h s
  | .resumeRequest h => Sys2Proof.Machine.execResumeRequest h s
  | .abstractCommand h c => Sys2Proof.Machine.execAbstractCommand h c s
  | .systemBusAccess write addr size data => Sys2Proof.Machine.execSystemBusAccess write addr size data s
  | .xtrgPulse a ch => Sys2Proof.Machine.execXtrgPulse a ch s
  | .dapLockRelease a n => Sys2Proof.Machine.execDapLockRelease a n s
  | .cwdKick a c => Sys2Proof.Machine.execCwdKick a c s
  | .cwdExpire c => Sys2Proof.Machine.execCwdExpire c s
  | .debugAttach => Sys2Proof.Machine.execDebugAttach s
  | .debugDetach => Sys2Proof.Machine.execDebugDetach s
  | .pmuCounterWrite a b k v inc => Sys2Proof.Machine.execPmuCounterWrite a b k v inc s
  | .pmuSnapRead a b => Sys2Proof.Machine.execPmuSnapRead a b s
  | .bwWindowEnd => Sys2Proof.Machine.execBwWindowEnd s
  | .bwWindowRestart a us => Sys2Proof.Machine.execBwWindowRestart a us s
  | .bwClearPeak a => Sys2Proof.Machine.execBwClearPeak a s
  | .heartbeatSend => Sys2Proof.Machine.execHeartbeatSend s
  | .heartbeatReceive l hb => Sys2Proof.Machine.execHeartbeatReceive l hb s
  | .moduleAbsent k => Sys2Proof.Machine.execModuleAbsent k s
  | .cascadeListenEnd => Sys2Proof.Machine.execCascadeListenEnd s
  | .cascadeLinkUp l partner sameKey => Sys2Proof.Machine.execCascadeLinkUp l partner sameKey s
  | .cascadeLinkDown l => Sys2Proof.Machine.execCascadeLinkDown l s
  | .cascadeLinkRetrain l partner sameKey => Sys2Proof.Machine.execCascadeLinkRetrain l partner sameKey s
  | .cascadePdelayMeasure l delay => Sys2Proof.Machine.execCascadePdelayMeasure l delay s
  | .cscKeyInstall a => Sys2Proof.Machine.execCscKeyInstall a s
  | .forwardRuleValid a n => Sys2Proof.Machine.execForwardRuleValid a n s
  | .forwardedUnitReceive u => Sys2Proof.Machine.execForwardedUnitReceive u s
  | .cascadeMbxSend a k expseq => Sys2Proof.Machine.execCascadeMbxSend a k expseq s
  | .cascadeMbxDeliver k m => Sys2Proof.Machine.execCascadeMbxDeliver k m s
  | .timeClockTick n => Sys2Proof.Machine.execTimeClockTick n s
  | .alwaysOnEdge => Sys2Proof.Machine.execAlwaysOnEdge s
  | .inputAboveRestore vin => Sys2Proof.Machine.execInputAboveRestore vin s
  | .pcieLinkUp => Sys2Proof.Machine.execPcieLinkUp s
  | .pcieLinkDown => Sys2Proof.Machine.execPcieLinkDown s
  | .canBusError c tec rec => Sys2Proof.Machine.execCanBusError c tec rec s

end Sys2Proof.Machine
end

