-- ==== Sys2Proof/Safety.lean ====
section
/-! DEFINITION. What counts as safe: the memory in its canonical form, and a step that does not stop. -/

namespace Sys2Proof.Machine

open Sys2Proof

/-- The memory is in its one canonical form: addresses strictly rising, no entry equal to what an unlisted address reads as. -/
def Memory.wf (t : Tab Byte) : Bool := tabWf byteDefault t

/-- What every command keeps of the module's storage: registers, memory, check bits, poison and flash in canonical form (R8, R12),
the miss queue and the FIFO of every capture pin at their 16 entries at most (R163, R108), the sherd log at its 4,096 (R394). -/
structure State.Inv (s : State) : Prop where
  regs : tabWf resetVal s.regs = true
  bytes : Memory.wf s.mem.bytes = true
  synd : tabWf (fun _ => 0) s.mem.synd = true
  sramPoison : tabWf (fun _ => false) s.mem.sramPoison = true
  flash : tabWf flashDefault s.boot.flash = true
  missq : s.cap.missq.length ≤ 16
  fifo : ∀ n, (tabGet (fun _ => PinSt.init) s.time.pins n).fifo.length ≤ 16
  sherd : s.mem.sherd.length ≤ 4096

/-- The step answers a next state. -/
def State.goesOn (s : State) : Prop := ∃ t, step s = .next t

/-- The command answers a next state of which `P` holds. -/
def Completes (c : Instr) (s : State) (P : State → Prop) : Prop := ∃ t, exec c s = .next t ∧ P t

/-- The register at `addr` is reached: its agent can make accesses, the debug module has the right the world debug enables give,
and the window answers `ok` (R11, R42, R43, R440, R491). -/
abbrev State.Reached (s : State) (a : Agent) (write : Bool) (addr bytes : Nat) : Prop :=
  s.agentLive a = true ∧ (isDap a = true → s.sbAllowed (s.agentWorld a) write addr = true) ∧ s.regVerdict a write addr bytes = .ok

/-- An access that was carried out ends: the debug module sees it in `SBSTATUS` (R494), another agent sees nothing more. -/
def State.ended (s : State) (a : Agent) : State := if isDap a then s.sbEnd 0 .ok else s

/-- Nothing stands around the next instruction of hart `h`: no halt request waits, no single step and no trigger is set (R490, R492). -/
structure State.Quiet (s : State) (h : Nat) : Prop where
  halt : tabGet (fun _ => false) s.dbgm.haltReq h = false
  step : bitAt (s.csr h csrDcsr) 2 = false
  trig : ∀ i p, s.trigMode h i p = false

/-- Hart `h` executes its next instruction with nothing before it: it runs, every older device access has been answered (R352), a
timekeeper has no interrupt to take first (R286), no commit falls due (R457). -/
structure State.Ready (s : State) (h : Nat) : Prop extends State.Quiet s h where
  free : s.hartFree h = true
  irq : s.tkIrqDue h = false
  commit : s.commitDue h = false

/-- From `s` to `t` hart `h` has executed one instruction and goes on at `pc`; of its integer registers those of `rs` can differ. -/
def State.Went (s t : State) (h pc : Nat) (rs : List Nat) : Prop :=
  (t.hart h).pc = pc % 2 ^ hartXlen h ∧ (t.hart h).pos = (s.hart h).pos + 1 ∧ (t.hart h).priv = (s.hart h).priv ∧
    (t.hart h).world = (s.hart h).world ∧ ∀ r, r ∉ rs → t.xreg h r = s.xreg h r

/-- `xepc`, `xcause`, `xtval` from the CSR `epc` on hold what a trap of hart `h` in state `s` saves there; the status CSR `st` of `t` has the
interrupt enable, at bit `ie`, moved to bit `pie`. -/
def State.Saved (s t : State) (h epc st ie pie : Nat) (irq : Bool) (code tval : Nat) : Prop :=
  let pc := if s.inSaggar h then s.get (SAG_DESC_ENTRY_ENTRY (bitsOf (s.csr h csrEzsag) 0 6)) else (s.hart h).pc
  t.csr h epc = pc % 2 ^ hartXlen h ∧
    t.csr h (epc + 1) = ((if irq then 2 ^ (hartXlen h - 1) else 0) + code) % 2 ^ hartXlen h ∧
    t.csr h (epc + 2) = (if s.inSaggar h then 0 else tval) % 2 ^ hartXlen h ∧
    bitAt (t.csr h st) ie = false ∧ bitAt (t.csr h st) pie = bitAt (s.csr h st) ie

/-- From `s` to `t` hart `h` has taken a trap to the mode that delegation gives (R297, R298). -/
def State.Took (s t : State) (h : Nat) (irq : Bool) (code tval : Nat) : Prop :=
  (t.hart h).resv = none ∧ (t.hart h).wfi = false ∧ (t.hart h).pos = (s.hart h).pos ∧
    match s.trapTarget h irq code with
    | .vs => s.Saved t h 0x241 csrVsstatus 1 5 irq (if irq then code - 1 else code) tval ∧ (t.hart h).priv = .vs ∧
      (t.hart h).world = (s.hart h).world ∧ (t.hart h).pc = vector (s.csr h 0x205) irq (if irq then code - 1 else code)
    | .s => s.Saved t h 0x141 csrMstatus 1 5 irq code tval ∧ (t.hart h).priv = .s ∧
      (t.hart h).world = (s.hart h).world ∧ (t.hart h).pc = vector (s.csr h 0x105) irq code
    | _ => s.Saved t h 0x341 csrMstatus 3 7 irq code tval ∧ (t.hart h).priv = .m ∧ bitsOf (t.csr h csrMstatus) 11 2 = privNum (s.hart h).priv ∧
      (t.hart h).world = .secure ∧ (t.hart h).pc = vector (s.csr h 0x305) irq code

end Sys2Proof.Machine
end

