-- ==== Sys2Proof/Certificates/Slice0/Obligations.lean ====
section
/-! DEFINITION. The statements. `Completes c s P`: command `c` answers a next state of which `P` holds; `Reached`: a register
access that its window permits; `ended`: what the end of an access leaves (only the debug module sees one). -/

open Sys2Proof Sys2Proof.Machine

/-- The block takes the command at the front of its queue, first in first out; with none waiting it idles (log entry 29). -/
def Obligations.StepRunsTheFrontCommand : Prop :=
  (∀ (c : Instr) (r : List Instr) (s : State), step { s with pending := c :: r } = exec c { s with pending := r }) ∧
  ∀ s : State, s.pending = [] → step s = .next s

/-- Right after power-on reset, before the supply arrives (log entry 1). That nothing is burnt is the model's choice (log entry 5). -/
def Obligations.ResetIsBlank : Prop :=
  State.reset.Inv ∧ (∀ a, State.reset.rd a = (resetVal a).toNat) ∧ (∀ c, State.reset.coneSteps c = 0) ∧
  (∀ i, (State.reset.went i).state = .free) ∧ (∀ d, State.reset.outOfReset d = false) ∧ State.reset.pending = []

/-- Every command of the table has an effect on every state; none stops the machine. -/
def Obligations.EveryCommandAnswersANextState : Prop := ∀ (c : Instr) (s : State), ∃ t, exec c s = .next t

/-- A command's effect is on everything but the queue, so each step shortens it by the one command it took. -/
def Obligations.ExecLeavesTheQueue : Prop :=
  (∀ (c : Instr) (s t : State), exec c s = .next t → t.pending = s.pending) ∧
  ∀ s t : State, step s = .next t → t.pending = s.pending.tail

/-- The miss queue has 16 entries (R163), a capture pin's FIFO 16 (R108), the sherd log 4,096 (R394); every table is canonical. -/
def Obligations.StepKeepsTheStorageInvariant : Prop := ∀ s t : State, s.Inv → step s = .next t → t.Inv

/-- The cones are one-time fuses: through every command, reset and loss of supply, the count of each only rises. -/
def Obligations.BurntStepsStayBurnt : Prop := ∀ (s t : State) (c : Nat), step s = .next t → s.coneSteps c ≤ t.coneSteps c

/-- R63: the conditions of its table, first that holds; otherwise OK and the burn begins. A request with the EXPECT of a burnt step is
TOO_LATE, so that two requests based on one reading act once. -/
def Obligations.ConeBurnIsJudged : Prop :=
  ∀ (a : Agent) (cone : BitVec 3) (expect : BitVec 7) (value : BitVec 4) (s : State), s.Reached a true CONE_BURN 4 →
    let st : Status :=
      if 4 < cone.toNat then .denied
      else if s.boot.burn.isSome then .unavailable
      else if s.get SUP_STATUS_VIN < s.get SUP_LEVELS_WARN then .unavailable
      else if expect.toNat ≠ s.coneSteps cone.toNat then .tooLate
      else if coneMax cone.toNat ≤ s.coneSteps cone.toNat then .full
      else if cone.toNat = 4 ∧ (s.boot.imageRunning = false ∨ s.keyProg ≠ s.runningKeyHash) then .denied
      else .ok
    Completes (.coneBurn a cone expect value) s fun t =>
      t.get CONE_RESULT_STATUS = st8 st ∧ t.boot.fuses = s.boot.fuses ∧
      (st = .ok → t.boot.burn = some ⟨cone.toNat, value.toNat, .software⟩ ∧ t.on CONE_RESULT_BUSY = true) ∧
      (st ≠ .ok → t.boot = s.boot ∧ t.get CONE_RESULT_BUSY = s.get CONE_RESULT_BUSY)

/-- R62 to R64 for burns; R53, R57 and R68 for the flash. -/
def Obligations.BurnsAndFlashComplete : Prop :=
  (∀ (s : State) (b : Burn), s.boot.burn = some b →
    Completes .coneBurnComplete s fun t => s.coneSteps b.cone < t.coneSteps b.cone ∧
      (b.src = .software → b.cone ≠ 2 → (∀ c, t.coneSteps c = if c = b.cone then s.coneSteps c + 1 else s.coneSteps c) ∧ t.boot.burn = none ∧
        t.on CONE_RESULT_BUSY = false ∧ t.get CONE_RESULT_NEW_STEP = (s.coneSteps b.cone + 1) % 128 ∧
        t.boot.fuses.record.length = s.boot.fuses.record.length + 1)) ∧
  (∀ (n : Fin 128) (s : State) (e : BurnEntry), s.boot.fuses.record[n.val]? = some e → e.ledgered = false → s.runs HST 2 = true →
    s.ldg.closed = none → s.ldg.gasp = false → 64 < ldgFree s.ldg →
    Completes (.burnRecordCopy n) s fun t => t.boot.fuses = { s.boot.fuses with record := s.boot.fuses.record.set n.val { e with ledgered := true } }) ∧
  (∀ (a : Agent) (s : State), s.Reached a true FIRE_FL_CMD 4 → s.on FIRE_FL_CMD_BUSY = false →
    Completes (.flashErase a) s (fun t => t.on FIRE_FL_CMD_BUSY = true ∧
      t.boot = { s.boot with flashCmd := some ⟨1, s.get FIRE_FL_ADDR_ADDR / 8 * 8, s.rd FIRE_FL_DATA⟩ }) ∧
    Completes (.flashProgram a) s (fun t => t.on FIRE_FL_CMD_BUSY = true ∧
      t.boot = { s.boot with flashCmd := some ⟨2, s.get FIRE_FL_ADDR_ADDR / 8 * 8, s.rd FIRE_FL_DATA⟩ }) ∧
    Completes (.flashOpDenied a) s (fun t => t.get FIRE_FL_STAT_STATUS = st8 .denied ∧ t.boot = s.boot)) ∧
  (∀ (s : State) (c : FlashCmd), s.boot.flashCmd = some c → s.outOfReset AON = true → c.op = 1 →
    let lo := 0x10000 * (c.addr / 0x10000)
    Completes .flashCmdComplete s fun t => t.boot.flashCmd = none ∧ t.on FIRE_FL_CMD_BUSY = false ∧
      (s.touchesRunning lo (lo + 0x10000) = true → t.get FIRE_FL_STAT_STATUS = st8 .denied ∧ t.boot.flash = s.boot.flash) ∧
      (s.touchesRunning lo (lo + 0x10000) = false → t.get FIRE_FL_STAT_STATUS = st8 .ok ∧
        ∀ k, tabGet flashDefault t.boot.flash k = if lo ≤ k ∧ k < lo + 0x10000 then 0xFF else tabGet flashDefault s.boot.flash k)) ∧
  (∀ (a : Agent) (s : State), s.Reached a false FIRE_FL_DATA 8 → s.debugRead a = false →
    Completes (.flashDataRead a .full) s fun t =>
      t.get FIRE_FL_ADDR_ADDR = (s.get FIRE_FL_ADDR_ADDR / 8 * 8 + 8) % 2 ^ FIRE_FL_ADDR_ADDR.w ∧ t.boot = s.boot)

/-- What starts a boot (R66, R538, R539, R542) and its stages (R55, R56, R60). -/
def Obligations.BootAdvancesStageByStage : Prop :=
  (∀ (vin : Nat) (cid : BitVec 2) (s : State), s.power.sup.supplied = false → 900 < vin → vin ≤ 6000 →
    Completes (.supplyArrival vin cid) s fun t => t.power.sup.supplied = true ∧ t.power.cid = cid.toNat ∧
      (s.power.porst = true → t.boot.booting = true ∧ t.mticks = 0 ∧ t.power.bootCause = 0)) ∧
  (∀ s : State, s.power.porst = true → Completes .porstNFall s fun t => t.power.porst = false ∧ t.boot.booting = false ∧
      t.boot.imageRunning = false ∧ t.power.riseCause = b2n s.power.sup.supplied) ∧
  (∀ (cid : BitVec 2) (s : State), s.power.porst = false →
    Completes (.porstNRise cid) s fun t => t.power.porst = true ∧ t.power.cid = cid.toNat ∧
      (s.power.sup.supplied = true → t.boot.booting = true ∧ t.power.bootCause = s.power.riseCause)) ∧
  (∀ (s : State) (cause : Nat), s.boot.resetWait = some cause → s.outOfReset AON = true → s.boot.burn = none → s.ldg.closing = none →
    Completes .chipReset s fun t => t.boot.booting = true ∧ t.boot.resetWait = none ∧ t.power.bootCause = cause) ∧
  (∀ (badA badB : Bool) (s : State), s.boot.booting = true → s.boot.imageRunning = false → s.fenceOpen SEC = true →
    Completes (.bootRomImageSelect badA badB) s fun t => t.boot.order.isSome = true ∧
      ((t.boot.imageRunning = true ∧ t.get FIRE_STATUS_STAGE = 1) ∨ (t.boot.unfired = true ∧ t.boot.booting = false))) ∧
  (∀ s : State, s.boot.booting = true → s.boot.imageRunning = true → s.boot.bisqued = false →
    Completes .bisqueApply s fun t => t.boot.bisqued = true) ∧
  (∀ s : State, s.boot.booting = true → s.boot.bisqued = true → s.boot.trained = false →
    Completes (.dramTrainingDone true) s (fun t => t.boot.trained = true ∧ t.boot.lastSlot = s.get FIRE_STATUS_SLOT) ∧
    Completes (.dramTrainingDone false) s (fun t => t.boot.imageRunning = false ∧ t.get FIRE_STATUS_REASON = 10)) ∧
  (∀ s : State, s.boot.booting = true → s.boot.trained = true → s.on FIRE_STATUS_STRUCT_LOCK = false →
    Completes .bootWedgeDone s fun t => t.on FIRE_STATUS_STRUCT_LOCK = true) ∧
  (∀ (medians : List Nat) (s : State), s.boot.booting = true → s.on FIRE_STATUS_STRUCT_LOCK = true →
    Completes (.glostStage medians) s fun t => t.boot.booting = false)

/-- R61 and R68; the control block of R54. -/
def Obligations.FireControlCompletes : Prop :=
  (∀ (a : Agent) (s : State), s.Reached a true FIRE_CTL 4 → s.boot.ctlBusy = false → s.boot.cbWrite = none →
    (s.boot.imageRunning = true → ¬ s.coneSteps 1 < s.get FIRE_STATUS_ROLLBACK →
      Completes (.fireCommit a) s fun t => t.boot.ctlBusy = true ∧
        ∃ w, t.boot.cbWrite = some w ∧ w.commit = true ∧ w.active = s.get FIRE_STATUS_SLOT ∧ w.trial = 0) ∧
    (s.get FIRE_STATUS_STAGE = 2 → s.boot.ctlDone = [] → Completes (.fireNwrel a) s fun t => t.get FIRE_RESULT_STATUS = st8 .ok) ∧
    (Completes (.fireReboot a) s fun t => t.boot.resetWait = some 2) ∧
    (∀ tries : BitVec 4, s.boot.imageRunning = true → s.boot.ctlDone = [] → Completes (.fireTrialArm a tries) s fun t =>
      if tries = 0 ∨ s.verify (s.slotBytes (1 - s.get FIRE_STATUS_SLOT)) false ≠ 0 then t.get FIRE_RESULT_STATUS = st8 .denied ∧ t.boot.cbWrite = none
      else ∃ w, t.boot.cbWrite = some w ∧ w.trial = 1 ∧ w.tries = tries.toNat ∧ w.active = s.get FIRE_STATUS_SLOT)) ∧
  (∀ (s : State) (w : CbWrite), s.boot.cbWrite = some w → s.outOfReset AON = true → s.boot.ctlQueue = [] →
    Completes .controlBlockWriteDone s fun t => t.boot.ctlBusy = false ∧ t.boot.cbWrite = none ∧
      (w.commit = true → t.on FIRE_STATUS_COMMITTED = true ∧ t.on FIRE_STATUS_TRIAL = false ∧ t.boot.lastTrial = false)) ∧
  (∀ (a : Agent) (tries : BitVec 4) (s : State), s.Reached a true FIRE_CTL 4 → s.boot.ctlBusy = true →
    Completes (.fireCommit a) s (fun t => t.get FIRE_RESULT_STATUS = st8 .unavailable ∧ t.boot = s.boot) ∧
    Completes (.fireNwrel a) s (fun t => t.get FIRE_RESULT_STATUS = st8 .unavailable ∧ t.boot = s.boot) ∧
    Completes (.fireReboot a) s (fun t => t.get FIRE_RESULT_STATUS = st8 .unavailable ∧ t.boot = s.boot) ∧
    Completes (.fireTrialArm a tries) s (fun t => t.get FIRE_RESULT_STATUS = st8 .unavailable ∧ t.boot = s.boot))

/-- R79, with the range of R72, for the three operations; the step that starts is R78's. -/
def Obligations.StepRequestsAreJudged : Prop :=
  ∀ (a : Agent) (d : Dom) (ppm : BitVec 10) (s : State), s.Reached a true (DISC_GO d.val) 4 →
    let step : Int := toSigned 64 (s.get (DISC_STEP_OFFSET d.val)) * 2 ^ 24
    let set : Nat := 2 ^ 40 * (1000000000 * s.get (DISC_SET_S_SEC d.val) + s.get (DISC_SET_NS_NS d.val))
    let away : Prop := (s.tdom d.val).acc + step < 0 ∨ 2 ^ 104 ≤ (s.tdom d.val).acc + step
    let judge (bad : Prop) (st : Status) : Prop :=
      (s.on (DISC_CTL_MODE d.val) = false → st = .denied) ∧
      (s.on (DISC_CTL_MODE d.val) = true → s.domEnabled d.val = false → st = .unavailable) ∧
      (s.on (DISC_CTL_MODE d.val) = true → s.domEnabled d.val = true → s.on (DISC_STATUS_BUSY d.val) = true → st = .unavailable) ∧
      (s.on (DISC_CTL_MODE d.val) = true → s.domEnabled d.val = true → s.on (DISC_STATUS_BUSY d.val) = false → bad ∨ 1000 < ppm.toNat → st = .denied) ∧
      (s.on (DISC_CTL_MODE d.val) = true → s.domEnabled d.val = true → s.on (DISC_STATUS_BUSY d.val) = false → ¬ bad → ppm.toNat ≤ 1000 → st = .ok)
    let same (t : State) : Prop := t.time = s.time ∧ t.get (DISC_STATUS_BUSY d.val) = s.get (DISC_STATUS_BUSY d.val) ∧
      t.get (DISC_STATUS_SLEWING d.val) = s.get (DISC_STATUS_SLEWING d.val)
    (∃ st, judge (away ∨ 1000000000 * 2 ^ 40 < step.natAbs) st ∧ Completes (.discSlew a d ppm) s fun t =>
      t.get (DISC_STATUS_RESULT d.val) = st8 st ∧ (t.tdom d.val).acc = (s.tdom d.val).acc ∧ (st ≠ .ok → same t) ∧
      (st = .ok → (t.tdom d.val).slew = step ∧ (t.tdom d.val).slewPpm = (if ppm = 0 then 100 else ppm.toNat) ∧ t.on (DISC_STATUS_SLEWING d.val) = true)) ∧
    (∃ st, judge away st ∧ Completes (.discJumpBy a d ppm) s fun t =>
      t.get (DISC_STATUS_RESULT d.val) = st8 st ∧ (t.tdom d.val).acc = (s.tdom d.val).acc ∧ (st ≠ .ok → same t) ∧
      (st = .ok → (t.tdom d.val).jumps = (s.tdom d.val).jumps ++ [⟨none, step, 0⟩] ∧ t.on (DISC_STATUS_BUSY d.val) = true)) ∧
    (∃ st, judge (2 ^ 104 ≤ set ∨ 1000000000 ≤ s.get (DISC_SET_NS_NS d.val)) st ∧ Completes (.discJumpTo a d ppm) s fun t =>
      t.get (DISC_STATUS_RESULT d.val) = st8 st ∧ (t.tdom d.val).acc = (s.tdom d.val).acc ∧ (st ≠ .ok → same t) ∧
      (st = .ok → (t.tdom d.val).jumps = (s.tdom d.val).jumps ++ [⟨some set, 0, 1⟩] ∧ t.on (DISC_STATUS_BUSY d.val) = true))

/-- R75, under the control of R82. -/
def Obligations.RateWordIsClamped : Prop :=
  ∀ (a : Agent) (d : Dom) (v : Word) (s : State), s.Reached a true (DISC_RATE d.val) 8 →
    (s.on (DISC_CTL_MODE d.val) = false → Completes (.rateWordWrite a d v) s fun t =>
      t.get (DISC_STATUS_RESULT d.val) = st8 .denied ∧ t.get (DISC_RATE_RATE d.val) = s.get (DISC_RATE_RATE d.val)) ∧
    (s.on (DISC_CTL_MODE d.val) = true → Completes (.rateWordWrite a d v) s fun t =>
      t.get (DISC_STATUS_RESULT d.val) = st8 .ok ∧ t.time = s.time ∧
      (v.toNat < 4393648464593 → t.get (DISC_RATE_RATE d.val) = 4393648464593 ∧ t.on (DISC_STATUS_CLAMPED d.val) = true ∧ t.on VT_IRQ_STATUS_CLAMP = true) ∧
      (4402444557615 < v.toNat → t.get (DISC_RATE_RATE d.val) = 4402444557615 ∧ t.on (DISC_STATUS_CLAMPED d.val) = true ∧ t.on VT_IRQ_STATUS_CLAMP = true) ∧
      (4393648464593 ≤ v.toNat → v.toNat ≤ 4402444557615 → t.get (DISC_RATE_RATE d.val) = v.toNat ∧
        t.get (DISC_STATUS_CLAMPED d.val) = s.get (DISC_STATUS_CLAMPED d.val) ∧ t.get VT_IRQ_STATUS_CLAMP = s.get VT_IRQ_STATUS_CLAMP))

/-- R74 for the counters, R77 for the snapshot, R78 and R81 for the ends of slews and jumps, R82 and R83 for `DISC_CTL`. -/
def Obligations.VehicleTimeCounts : Prop :=
  (∀ (n : Nat) (s : State), Completes (.timeClockTick n) s fun t =>
    t.ticks = s.ticks + n ∧ t.mticks = (if s.asleep then s.mticks else s.mticks + n) ∧ t.regs = s.regs ∧
    ∀ d < 4, (s.domEnabled d = false ∨ s.timeRuns = false → t.tdom d = s.tdom d) ∧
      (s.timeRuns = true → s.domEnabled d = true → (s.tdom d).slew = 0 →
        (t.tdom d).acc = (s.tdom d).acc + n * s.get (DISC_RATE_RATE d) ∧ (t.tdom d).slew = 0)) ∧
  (∀ (a : Agent) (s : State), s.Reached a true VT_CTL 4 → Completes (.vtSnap a) s fun t =>
    t.time = s.time ∧ (∀ d < 4,
      t.get (⟨VT_SNAP_LO d, 0, 16⟩) = (s.tdom d).acc / 2 ^ 24 % 2 ^ 16 ∧
      t.get (⟨VT_SNAP_LO d, 16, 32⟩) = (s.tdom d).acc / 2 ^ 40 % 1000000000 ∧
      t.get (⟨VT_SNAP_HI d, 0, 48⟩) = (s.tdom d).acc / 2 ^ 40 / 1000000000 % 2 ^ 48 ∧
      t.get (⟨VT_SNAP_HI d, 48, 16⟩) = s.get (VT_DSEQ_DSEQ d)) ∧
    ∀ k, (∀ d < 4, k ≠ VT_SNAP_LO d ∧ k ≠ VT_SNAP_HI d) → k ≠ DAP_STATUS → t.rd k = s.rd k) ∧
  (∀ (d : Dom) (s : State), s.on (DISC_STATUS_SLEWING d.val) = true → (s.tdom d.val).slew = 0 →
    Completes (.slewComplete d) s fun t => t.on (DISC_STATUS_SLEWING d.val) = false ∧ t.get (DISC_REMAIN_OFFSET d.val) = 0 ∧ t.time = s.time) ∧
  (∀ (d : Dom) (s : State), (s.tdom d.val).delivering = true →
    Completes (.jumpDeliveryDone d) s fun t => t.on (DISC_STATUS_BUSY d.val) = !(s.tdom d.val).jumps.isEmpty ∧ (t.tdom d.val).delivering = false) ∧
  (∀ (a : Agent) (d : Dom) (mode : Bool) (preset : BitVec 2) (sw : BitVec 3) (s : State), s.Reached a true (DISC_CTL d.val) 4 →
    Completes (.discCtlWrite a d mode preset sw) s fun t =>
      t.on (DISC_CTL_MODE d.val) = mode ∧ t.get (DISC_CTL_PRESET d.val) = preset.toNat ∧
      (preset.toNat = s.get (DISC_CTL_PRESET d.val) → t.rd (DISC_THR d.val) = s.rd (DISC_THR d.val)) ∧
      (preset.toNat ≠ s.get (DISC_CTL_PRESET d.val) → preset = 2 →
        t.get (DISC_THR_JUMP_THR d.val) = 1000 ∧ t.get (DISC_THR_LOCK_THR d.val) = 20 ∧ t.get (DISC_THR_LOCK_COUNT d.val) = 4) ∧
      (mode = false ∨ s.on (DISC_CTL_MODE d.val) = false ∨ 5 ≤ sw.toNat → t.syncState d.val = s.syncState d.val) ∧
      (mode = true → s.on (DISC_CTL_MODE d.val) = true → sw.toNat < 4 → t.syncState d.val = sw.toNat ∧ t.get (DISC_CTL_SWSTATE d.val) = sw.toNat))

/-- What each message does at a port that takes part (R92 to R99); the Sync receipt timeout of R85. -/
def Obligations.GptpMessagesComplete : Prop :=
  (∀ (p : PtpPort) (dn : BitVec 7) (v : PrioVec) (s : State) (d : Nat), s.dnDomain dn.toNat = some d → s.ptpUp = true → p.val ∈ s.domPorts d →
    s.extPorts d = false → v.steps < 255 → v.gm ≠ Config.eui % 2 ^ 64 →
    Completes (.announceReceived p dn v) s fun t => t.announceOf p.val d = some v) ∧
  (∀ (p : PtpPort) (d : Dom) (s : State), s.vtOn = true → s.extPorts d.val = false → (s.announceOf p.val d.val).isSome = true →
    Completes (.announceReceiptTimeout p d) s fun t => t.announceOf p.val d.val = none) ∧
  (∀ (p : PtpPort) (d : Dom) (s : State), s.ptpUp = true → s.get (PTP_P_STATE_STATE p.val d.val) = 1 → s.extPorts d.val = false →
    Completes (.announceSend p d) s fun t => t.regs = s.regs ∧ ∃ v, tabGet (fun _ => none) t.time.sent p.val =
        some (.announce (s.get (VT_DOM_CFG_GPTP_DN d.val)) v (s.get (VT_DOM_CFG_UTC_OFFSET d.val)) (s.get (PTP_D_PRIO_SOURCE d.val))) ∧
      (s.bestAnnounce d.val = none ∨ (s.tdom d.val).isGm = true → v = s.ownPrio d.val) ∧
      (∀ q b, s.bestAnnounce d.val = some (q, b) → (s.tdom d.val).isGm = false → v = { b with steps := b.steps + 1 })) ∧
  (∀ (p : PtpPort) (d : Dom) (phase : Fin 8) (s : State), s.ptpUp = true → s.get (PTP_P_STATE_STATE p.val d.val) = 1 → (s.tdom d.val).isGm = true →
    Completes (.syncSend p d phase) s fun t => t.regs = s.regs ∧
      let now := s.ptpStamp p.val d.val phase.val true
      tabGet (fun _ => none) t.time.sent p.val = some (.sync (s.get (VT_DOM_CFG_GPTP_DN d.val)) (now / 65536) ((now % 65536 : Nat) : Int)
        (s.get (PTP_D_GMINFO_TBI d.val)) (s.tdom d.val).gmPhase (s.on (PTP_P_CFG_ONESTEP p.val) && p.val != 16))) ∧
  (∀ (p : PtpPort) (phase : Fin 8) (s : State), s.pdPort p.val = true →
    Completes (.pdelayReqSend p phase) s (fun t => let t1 := s.ptpStamp p.val (s.pdDom p.val) phase.val true
      tabGet (fun _ => none) t.time.pdReq p.val = some t1 ∧ tabGet (fun _ => none) t.time.sent p.val = some (.pdelayReq t1) ∧ t.regs = s.regs) ∧
    Completes (.pdelayReqReceived p phase) s (fun t =>
      tabGet (fun _ => none) t.time.sent p.val = some (.pdelayResp (s.ptpStamp p.val (s.pdDom p.val) phase.val false)) ∧ t.regs = s.regs) ∧
    ∀ (t1 t2 t3 : Nat), tabGet (fun _ => none) s.time.pdReq p.val = some t1 → Completes (.pdelayRespReceived p phase t2 t3) s fun t =>
      let t4 := s.ptpStamp p.val (s.pdDom p.val) phase.val false
      tabGet (fun _ => none) t.time.pdReq p.val = none ∧ tabGet (fun _ => none) t.time.pdLast p.val = some (t3, t4) ∧
      t.get (PTP_P_PDLY_DELAY p.val) = ofSigned 64 (meanLinkDelay t1 t2 t3 t4 (toSigned 32 (t.get (PTP_P_NRR_OFFSET p.val))))) ∧
  (∀ (p : PtpPort) (dn sync : BitVec 7) (s : State) (d : Nat), s.dnDomain dn.toNat = some d → s.ptpUp = true → p.val ∈ s.domPorts d → sync.toNat < 126 →
    Completes (.signalingReceived p dn (some (sync.zeroExtend 8)) none none) s fun t =>
      tabGet (fun _ => none) t.time.intv (3 * (4 * p.val + d)) = some sync.toNat ∧ t.regs = s.regs) ∧
  (∀ (p : PtpPort) (dn : BitVec 7) (phase : Fin 8) (s : State) (d : Nat), s.dnDomain dn.toNat = some d → s.ptpUp = true →
    s.get (PTP_P_STATE_STATE p.val d) = 2 →
    let stamp := s.ptpStamp p.val d phase.val false
    Completes (.syncReceived p dn phase none) s (fun t => (t.tdom d).sync = some (stamp, p.val) ∧ t.regs = s.regs) ∧
    (∀ (o : Nat) (c : Int), Completes (.syncReceived p dn phase (some (o, c))) s fun t =>
      t.get (DISC_OFFSET_OFFSET d) = ofSigned 64 ((stamp : Int) - ((65536 * o : Nat) + c + s.linkDelay p.val))) ∧
    ∀ (st o : Nat) (c : Int), (s.tdom d).sync = some (st, p.val) → Completes (.followUpReceived p dn o c) s fun t =>
      t.get (DISC_OFFSET_OFFSET d) = ofSigned 64 ((st : Int) - ((65536 * o : Nat) + c + s.linkDelay p.val))) ∧
  (∀ (p : PtpPort) (d : Dom) (s : State), s.vtOn = true → s.get (PTP_P_STATE_STATE p.val d.val) = 2 →
    Completes (.syncReceiptTimeout p d) s fun t => t.get (PTP_P_CNT_SYNC_TO p.val) = (s.get (PTP_P_CNT_SYNC_TO p.val) + 1) % 2 ^ 16 ∧
      (s.on (DISC_CTL_MODE d.val) = false → s.syncState d.val = 3 → t.syncState d.val = 1))

/-- R104 for the levels, R106 for pulses, R107 for the generator, R108 for the capture FIFO. -/
def Obligations.TimePinsComplete : Prop :=
  (∀ (a : Agent) (n : Pin) (s : State), s.Reached a true (TP_CFG n.val) 4 →
    Completes (.tpLevelSet a n) s (fun t => (t.pin n.val).active = (s.pinOut n.val || (s.pin n.val).active) ∧ t.rd (TP_CFG n.val) = s.rd (TP_CFG n.val)) ∧
    Completes (.tpLevelClr a n) s (fun t => (t.pin n.val).active = (!s.pinOut n.val && (s.pin n.val).active) ∧ t.rd (TP_CFG n.val) = s.rd (TP_CFG n.val))) ∧
  (∀ (n : Pin) (s : State) (i : Nat), (s.pin n.val).pulse = some i → Completes (.pulseTrailingEdge n) s fun t =>
    (t.pin n.val).pulse = none ∧ (s.on (TP_CFG_SRC n.val) = false → (t.pin n.val).active = false)) ∧
  (∀ (a : Agent) (n : Pin) (s : State), s.Reached a true (TP_GEN_CTL n.val) 4 →
    let period := s.get (TP_GEN_PERIOD_NS n.val)
    let width := s.get (TP_GEN_WIDTH_NS n.val)
    let good := 8 ≤ period ∧ 0 < width ∧ width < period
    Completes (.tpGenRunStop a n) s (fun t => t.on (TP_GEN_CTL_RUN n.val) = false ∧ t.time = s.time) ∧
    (s.on (TP_GEN_CTL_RUN n.val) = false → ¬ good → Completes (.tpGenRunStart a n) s fun t => t.on (TP_GEN_CTL_RUN n.val) = false ∧ t.time = s.time) ∧
    (s.on (TP_GEN_CTL_RUN n.val) = false → good → Completes (.tpGenRunStart a n) s fun t => t.on (TP_GEN_CTL_RUN n.val) = true ∧
      let now := s.vt (s.get (TP_CFG_DOM n.val))
      let next := (t.pin n.val).genNext
      now ≤ next ∧ (now ≤ s.get (TP_GEN_ANCHOR_VT n.val) → next = s.get (TP_GEN_ANCHOR_VT n.val)) ∧
      (s.get (TP_GEN_ANCHOR_VT n.val) < now → next < now + period ∧ ∃ k, next = s.get (TP_GEN_ANCHOR_VT n.val) + k * period))) ∧
  (∀ (a : Agent) (n : Pin) (which : GenParam) (v : Word) (s : State),
    s.Reached a true (genField n.val which).reg (if which = .anchor then 8 else 4) → (which ≠ .anchor → v.toNat < 2 ^ 32) →
    (s.on (TP_GEN_CTL_RUN n.val) = false → Completes (.tpGenParamWrite a n which v) s fun t => t.get (genField n.val which) = v.toNat ∧ t.time = s.time) ∧
    (s.on (TP_GEN_CTL_RUN n.val) = true → which = .period → v.toNat ≤ s.get (TP_GEN_WIDTH_NS n.val) →
      Completes (.tpGenParamWrite a n which v) s fun t => t.get (genField n.val which) = s.get (genField n.val which) ∧ t.time = s.time)) ∧
  (∀ (n : Pin) (s : State), s.vtOn = true → s.clocked TKD 1 = true → s.on (TP_GEN_CTL_RUN n.val) = true → s.get (TP_CFG_FUNC n.val) = 1 →
    (s.pin n.val).genNext ≤ s.vt (s.get (TP_CFG_DOM n.val)) → Completes (.tpGenActivate n) s fun t =>
      t.on (TP_GEN_CTL_ACTIVE n.val) = true ∧ (t.pin n.val).genNext = (s.pin n.val).genNext + s.get (TP_GEN_PERIOD_NS n.val) ∧
      (s.on (TP_CFG_SRC n.val) = true → (t.pin n.val).active = true)) ∧
  (∀ (n : Pin) (s : State), s.on (TP_GEN_CTL_ACTIVE n.val) = true → Completes (.tpGenDeactivate n) s fun t =>
    t.on (TP_GEN_CTL_ACTIVE n.val) = false ∧ (s.on (TP_CFG_SRC n.val) = true → (t.pin n.val).active = false)) ∧
  (∀ (a : Agent) (n : Pin) (s : State) (e : CapEntry) (r : List CapEntry), s.Reached a false (TP_CAP n.val) 8 → s.debugRead a = false →
    (s.pin n.val).fifo = e :: r → Completes (.tpCapRead a n .full) s fun t =>
      (t.pin n.val).fifo = r ∧ t.get (TP_STAT_DEPTH n.val) = r.length % 32 ∧ (s.capPop n.val).2 = e.stamp.ns)

/-- R123 for the states, R125 and R126 for the return to FREE, R127 to R132 for the horizon and the calendar. -/
def Obligations.WheelEntriesMove : Prop :=
  (∀ (i : WIdx) (s : State), (s.went i.val).state = .armed → (s.went i.val).reserved = none → s.entryDue (s.went i.val) = false →
    (s.horizonFits i.val = true → s.wheel.live.length ≤ 64 → Completes (.horizonAdmit i) s fun t =>
      t.went i.val = { s.went i.val with state := .imminent } ∧ (∀ j, j ≠ i.val → t.went j = s.went j) ∧ t.time = s.time) ∧
    (s.horizonFits i.val = false → Completes (.horizonAdmit i) s fun t => t = s)) ∧
  (∀ (i : WIdx) (s : State), s.clocked TKD 2 = true → (s.dueOrder (fun e => e.state == .imminent)).head? = some i.val →
    (s.went i.val).action = 3 ∨ (s.went i.val).action = 7 → Completes (.wheelFireImminent i) s fun t =>
      (t.went i.val).state = .fired ∧ (t.went i.val).coarse = false ∧ (t.went i.val).late = s.timePassed (s.went i.val).time ∧
      (t.went i.val).issueVt = s.vt 0) ∧
  (∀ (i : Nat) (s : State), s.clocked TKD 2 = true → s.dueOrder (fun e => e.state == .armed) = [i] →
    (s.went i).action = 3 ∨ (s.went i).action = 7 → Completes .calendarSweep s fun t =>
      (t.went i).state = .fired ∧ (t.went i).coarse = true ∧ (t.went i).late = s.timePassed (s.went i).time) ∧
  (∀ (i : WIdx) (s : State) (ok : Bool), s.clocked TKD 2 = true → (s.went i.val).state = .fired → (s.went i.val).action = 3 ∨ (s.went i.val).action = 7 →
    Completes (.wheelActionComplete i ok) s fun t => (t.went i.val).state = .done ∨ (t.went i.val).state = .free) ∧
  (∀ (i : WIdx) (s : State), (s.went i.val).state = .done ∨ (s.went i.val).state = .aborted →
    let o := wOwner (s.went i.val)
    ((s.went i.val).notify = false ∨ s.on (ringEn o) = false → Completes (.completionRecordWrite i) s fun t =>
      t.went i.val = { s.went i.val with state := .free, gen := (s.went i.val).gen % 0x7FFF + 1, reserved := none } ∧
      (∀ j, j ≠ i.val → t.went j = s.went j) ∧ t.mem = s.mem) ∧
    ((s.went i.val).notify = true → s.on (ringEn o) = true → s.ringFull o = false →
      s.dataVerdict o.world .write (s.rd (ringBase o) + 16 * s.get (ringTail o)) = .ok →
      Completes (.completionRecordWrite i) s fun t => (t.went i.val).state = .free) ∧
    ((s.went i.val).notify = true → s.on (ringEn o) = true → s.ringFull o = true →
      Completes (.completionRecordWrite i) s fun t => (t.went i.val).state = (s.went i.val).state))

/-- The jump tick (R78, R87), and R81's one jump at a time. -/
def Obligations.JumpsTakeEffectInTurn : Prop :=
  ∀ (d : Dom) (s : State) (j : Jump) (r : List Jump), s.vtOn = true → (s.tdom d.val).jumps = j :: r →
    ((s.tdom d.val).delivering = true → Completes (.jumpTakeEffect d) s fun t => t = s) ∧
    ((s.tdom d.val).delivering = false →
      (∀ acc, jumpTarget (s.tdom d.val).acc j = some acc → Completes (.jumpTakeEffect d) s fun t =>
        (t.tdom d.val).delivering = true ∧ t.on (DISC_STATUS_BUSY d.val) = true ∧
        (d.val ≠ 0 → (t.tdom d.val).acc = acc ∧ (t.tdom d.val).jumps = r ∧
          t.get (VT_DSEQ_DSEQ d.val) = (s.get (VT_DSEQ_DSEQ d.val) + 1) % 2 ^ 16)) ∧
      (jumpTarget (s.tdom d.val).acc j = none → Completes (.jumpTakeEffect d) s fun t =>
        t.tdom d.val = { s.tdom d.val with jumps := r } ∧ t.on (DISC_STATUS_BUSY d.val) = !r.isEmpty))

/-- R135, R117 and R154. -/
def Obligations.WheelRegistersComplete : Prop :=
  (∀ (a : Agent) (s : State), s.Reached a true TWH_CTL 4 → Completes (.wheelCalibrate a) s fun t => t.on TWH_CTL_CALBUSY = true ∧ t.wheel = s.wheel) ∧
  (∀ (medians : List Nat) (s : State), s.on TWH_CTL_CALBUSY = true → Completes (.calibrationDone medians) s fun t =>
    t.on TWH_CTL_CALBUSY = false ∧ t.wheel = s.wheel ∧ ∀ k < 15,
      (s.classPresent k = true → t.on (TWH_LEAD_MEAS k) = true ∧ ∀ m, medians[k]? = some m → m < 65536 → t.get (TWH_LEAD_NS k) = m) ∧
      (s.classPresent k = false → t.on (TWH_LEAD_MEAS k) = false ∧ t.get (TWH_LEAD_NS k) = leadDefault k)) ∧
  (∀ (a : Agent) (n : Slice) (quota : Nat) (s : State), s.Reached a true (TWH_S_QUOTA n.val) 4 → quota < 2 ^ 17 →
    let room := s.partSize s.sliceOwner - s.quotasBut n.val
    Completes (.wheelQuotaWrite a n quota) s fun t =>
      (quota ≤ room → t.get (TWH_S_QUOTA_QUOTA n.val) = quota) ∧ (room < quota → t.get (TWH_S_QUOTA_QUOTA n.val) = room) ∧
      ∀ m < 64, m ≠ n.val → t.get (TWH_S_QUOTA_QUOTA m) = s.get (TWH_S_QUOTA_QUOTA m)) ∧
  (∀ (a : Agent) (s : State), s.Reached a false (TWH_INSP 0) 8 → s.debugRead a = false → Completes (.twhInspRead a .full) s fun t =>
    t.wheel = { s.wheel with insp := wEntryNat (s.went (s.get TWH_INSP_IDX_INDEX)) } ∧ t.time = s.time)

/-- R167 and R168 for updates, R191 for the preset, R163 for the miss queue, R194 for the registers. -/
def Obligations.StreamTableUpdatesComplete : Prop :=
  (∀ (a : Agent) (p : Fin 4) (idx : BitVec 18) (gen : BitVec 8) (any : Bool) (s : State), s.Reached a true (STT_UPD_CMD p.val) 8 →
    (s.on (STT_UPD_RES_BUSY p.val) = true → ∀ (op : BitVec 3), 4 < op.toNat →
      let same (c : Instr) := Completes c s fun t => t.on (STT_UPD_RES_IGNORED p.val) = true ∧ t.cap = s.cap ∧ t.on (STT_UPD_RES_BUSY p.val) = true
      same (.sttWrite a p idx gen any) ∧ same (.sttWriteZero a p idx gen any) ∧ same (.sttInvalidate a p idx gen any) ∧ same (.sttPlace a p) ∧
        same (.sttUpdReservedOp a p op)) ∧
    (s.on (STT_UPD_RES_BUSY p.val) = false →
      let v := sttFields (s.staged256 p.val)
      let old := s.stt idx.toNat
      let next := 2 ^ 8 * ((sttGen old + 1) % 256)
      let held (t : State) (st i g : Nat) := tabGet (fun _ => none) t.cap.upd p.val = some (st, i, g) ∧ t.on (STT_UPD_RES_BUSY p.val) = true
      (∀ op : BitVec 3, 4 < op.toNat → Completes (.sttUpdReservedOp a p op) s fun t =>
        t.cap.stt = s.cap.stt ∧ ∃ i g, held t (st8 .denied) i g) ∧
      (∀ n, any = true ∨ gen.toNat = sttGen old → s.sttSlice idx.toNat = some n →
        (Completes (.sttInvalidate a p idx gen any) s fun t =>
          sttValid (t.stt idx.toNat) = false ∧ (∀ j, j ≠ idx.toNat → t.stt j = s.stt j) ∧ held t (st8 .ok) idx.toNat ((sttGen old + 1) % 256)) ∧
        (entryOk v = true →
          sttValid v = false ∨ ((∃ b, s.bucket n (sttKind v) (sttKey v) = some b ∧ b ≤ idx.toNat ∧ idx.toNat < b + 8) ∧
            ∀ i, s.sttFind n (sttKind v) (sttKey v) = some i → i = idx.toNat) →
          (Completes (.sttWrite a p idx gen any) s fun t => t.stt idx.toNat = v + next + 2 ^ 64 * (bitsOf old 64 32 % 2 ^ 32) ∧
            (∀ j, j ≠ idx.toNat → t.stt j = s.stt j) ∧ held t (st8 .ok) idx.toNat ((sttGen old + 1) % 256)) ∧
          Completes (.sttWriteZero a p idx gen any) s fun t => t.stt idx.toNat = v + next ∧
            (∀ j, j ≠ idx.toNat → t.stt j = s.stt j) ∧ held t (st8 .ok) idx.toNat ((sttGen old + 1) % 256))) ∧
      (∀ (n b j : Nat), entryOk v = true → s.steer (sttKind v) (sttKey v) = some n →
        (sttValid v = true → s.sttFind n (sttKind v) (sttKey v) = none) →
        s.bucket n (sttKind v) (sttKey v) = some b → j < 8 → sttValid (s.stt (b + j)) = false → (∀ k < j, sttValid (s.stt (b + k)) = true) →
        Completes (.sttPlace a p) s fun t => t.stt (b + j) = v + 2 ^ 8 * ((sttGen (s.stt (b + j)) + 1) % 256) ∧ (∀ k, k ≠ b + j → t.stt k = s.stt k) ∧
          held t (st8 .ok) (b + j) ((sttGen (s.stt (b + j)) + 1) % 256)))) ∧
  (∀ (p : Fin 5) (s : State) (st i g : Nat), tabGet (fun _ => none) s.cap.upd p.val = some (st, i, g) → st < 256 → i < 2 ^ 18 → g < 256 →
    Completes (.sttUpdateComplete p) s fun t => tabGet (fun _ => none) t.cap.upd p.val = none ∧ t.cap.stt = s.cap.stt ∧
      (p.val < 4 → t.on (STT_UPD_RES_BUSY p.val) = false ∧ t.get (STT_UPD_RES_STATUS p.val) = st ∧ t.get (STT_UPD_RES_INDEX p.val) = i ∧
        t.get (STT_UPD_RES_NEWGEN p.val) = g) ∧
      (p.val = 4 → t.on CAP_PRESET_RES_BUSY = false ∧ t.get CAP_PRESET_RES_STATUS = st ∧ t.get CAP_PRESET_RES_INDEX = i)) ∧
  (∀ (a : Agent) (v : Word) (s : State), s.Reached a true CAP_CAM_PRESET 8 → v.toNat.testBit 31 = true →
    (s.on CAP_PRESET_RES_BUSY = false → Completes (.camPreset a v) s fun t => t.on CAP_PRESET_RES_BUSY = true ∧ (tabGet (fun _ => none) t.cap.upd 4).isSome = true) ∧
    (s.on CAP_PRESET_RES_BUSY = true → Completes (.camPreset a v) s fun t => t.get CAP_PRESET_RES_STATUS = st8 .unavailable ∧ t.cap = s.cap)) ∧
  (∀ (a : Agent) (s : State), s.Reached a false (STT_RD 0) 8 → s.debugRead a = false → Completes (.sttRdSnapshot a .full) s fun t =>
    t.cap = s.cap ∧ ∀ i < 4, t.get (STT_RD_WORD i) = bitsOf (s.stt (s.get STT_RD_IDX_INDEX)) (64 * i) 64) ∧
  (∀ (a : Agent) (key : BitVec 48) (kind : BitVec 2) (s : State), s.Reached a true STT_PROBE 8 → Completes (.sttProbe a key kind) s fun t =>
    t.cap = s.cap ∧ t.rd STT_PROBE_RES / 2 ^ 32 = keyHash kind.toNat key.toNat ∧
    ∀ n i, s.steer kind.toNat key.toNat = some n → s.sttFind n kind.toNat key.toNat = some i → i < 2 ^ 18 → n < 64 →
      bitsOf (t.rd STT_PROBE_RES) 0 18 = i ∧ bitsOf (t.rd STT_PROBE_RES) 24 6 = n ∧ bitsOf (t.rd STT_PROBE_RES) 30 2 = 3) ∧
  (∀ (a : Agent) (s : State) (m : Miss) (r : List Miss), s.Reached a false STT_MISSQ 8 → s.debugRead a = false → s.cap.missq = m :: r →
    Completes (.missqRead a .full) s fun t => t.cap = { s.cap with missq := r } ∧ t.get STT_MISSQ_CTL_DEPTH = r.length % 32)

/-- R158 to R164 for packets, R175 for the idle close, R183 and R193 for stops and enables, R184 for descriptors. -/
def Obligations.CaptureFramesComplete : Prop :=
  (∀ (p : Fin 8) (vc : Fin 16) (dt : BitVec 6) (data : List Byte) (crc : Bool) (phase : Fin 8) (s : State), s.on (CAM_LINK_UP p.val) = true →
    s.capOn = true → s.clocked SNS (0x10 + p.val) = true →
    (Completes (.csiPacketReceive p vc dt data true crc phase) s fun t =>
      t.get (CAP_CNT_COUNT 2) = (s.get (CAP_CNT_COUNT 2) + 1) % 2 ^ (CAP_CNT_COUNT 2).w ∧ t.cap = s.cap) ∧
    (s.hovClosed SNS (0x10 + p.val) = false → s.opens SNS (0x10 + p.val) = true → s.opens HST 3 = false → 16 ≤ dt.toNat →
      let key := p.val + 8 * vc.val + 128 * dt.toNat
      s.openFrame 0 key = none → s.steer 0 key = none → s.on STT_MISSQ_CTL_EN = true → s.cap.missq.length < 16 →
      Completes (.csiPacketReceive p vc dt data false crc phase) s fun t =>
        t.cap.missq = s.cap.missq ++ [⟨0, key, none⟩] ∧ t.get (STT_MISS_COUNT 0) = (s.get (STT_MISS_COUNT 0) + 1) % 2 ^ (STT_MISS_COUNT 0).w)) ∧
  (∀ (i : StreamIdx) (s : State) (c : FrameCtx), s.get CAP_CTL_IDLE_MS ≠ 0 → s.cap.ctx = [c] → c.stream = i.toNat → c.discard = false →
    Completes (.frameIdleClose i) s fun t => t.cap.ctx = [] ∧
      t.cap.descs = s.cap.descs ++ [⟨c.stream, c.slice, c.ring, c.entry, c.stamp, c.buf, c.len, c.total, c.first, true, Nat.lor c.fault 4, c.srcinfo⟩] ∧
      t.regs = s.regs) ∧
  (∀ (i : StreamIdx) (s : State) (d : PendDesc), s.cap.descs.find? (fun d => d.stream == i.toNat) = some d →
    Completes (.captureDescriptorWrite i) s fun t => d ∈ s.cap.descs ∧ t.cap.descs.length < s.cap.descs.length) ∧
  (∀ (n : Slice) (r : Fin 8) (s : State), s.on (CAP_RING_CFG_EN n.val r.val) = true → Completes (.captureWriteError (.ring n r)) s fun t =>
    t.on (CAP_RING_CFG_STOPPED n.val r.val) = true ∧ (∀ d ∈ t.cap.descs, ¬ (d.slice = n.val ∧ d.ring = r.val)) ∧
    ∀ c ∈ t.cap.ctx, c.slice = n.val → c.ring = r.val → c.discard = true) ∧
  (∀ (i : StreamIdx) (s : State) (c : FrameCtx), s.cap.ctx = [c] → c.stream = i.toNat → c.discard = false →
    Completes (.captureWriteError (.buffer i)) s fun t => t.cap.ctx = [{ c with first := false, discard := true, fault := Nat.lor c.fault 8 }] ∧
      t.cap.descs.length = s.cap.descs.length + 1) ∧
  (∀ (a : Agent) (n : Slice) (r : Fin 8) (s : State), s.Reached a true (CAP_RING_CFG n.val r.val) 4 → s.on (CAP_RING_CFG_EN n.val r.val) = false →
    Completes (.capRingEnable a n r) s fun t => t.on (CAP_RING_CFG_EN n.val r.val) = true ∧ t.on (CAP_RING_CFG_STOPPED n.val r.val) = false ∧
      t.rd (CAP_DRING_TAIL n.val r.val) = 0 ∧ t.rd (CAP_DRING_HEAD n.val r.val) = 0 ∧ t.rd (CAP_BRING_HEAD n.val r.val) = 0 ∧
      t.rd (CAP_BRING_TAIL n.val r.val) = 0)

/-- R196 to R200 for slices and doorbells, R205 for moderation, R206 for resets, R207 to R210 for mailboxes. -/
def Obligations.SlicesAndMailboxesComplete : Prop :=
  (∀ (a : Agent) (n : Slice) (s : State), s.Reached a true (CSL_CMD n.val) 4 →
    (s.get (CSL_STAT_STATE n.val) = 0 → s.keyOverlaps n.val (s.sliceKey n.val) = false → Completes (.sliceBind a n) s fun t =>
      t.get (CSL_STAT_STATE n.val) = 1 ∧ t.get (CSL_STAT_RESULT n.val) = st8 .ok ∧ (t.slice n.val).key = some (s.sliceKey n.val)) ∧
    (s.get (CSL_STAT_STATE n.val) ≠ 0 ∨ s.keyOverlaps n.val (s.sliceKey n.val) = true → Completes (.sliceBind a n) s fun t =>
      t.get (CSL_STAT_RESULT n.val) = st8 .denied ∧ t.slices = s.slices) ∧
    (s.get (CSL_STAT_STATE n.val) = 1 →
      Completes (.sliceReset a n) s (fun t => t.get (CSL_STAT_STATE n.val) = 2 ∧ (t.slice n.val).unbind = false ∧ ∀ r < 8, t.on (CAP_RING_CFG_EN n.val r) = false) ∧
      Completes (.sliceUnbind a n) s (fun t => t.get (CSL_STAT_STATE n.val) = 2 ∧ (t.slice n.val).unbind = true ∧ ∀ r < 8, t.on (CAP_RING_CFG_EN n.val r) = false))) ∧
  (∀ (n : Slice) (s : State), s.sliceResetting n.val = true → s.get (TWH_S_USED_USED n.val) = 0 → Completes (.sliceQuiet n) s fun t =>
    t.get (CSL_STAT_STATE n.val) = (if (s.slice n.val).unbind then 0 else 1) ∧
    (t.slice n.val).key = (if (s.slice n.val).unbind then none else (s.slice n.val).key)) ∧
  (∀ (h : Hart) (r : Fin 8) (tail : BitVec 16) (stream : BitVec 18) (n : Nat) (s : State), (s.hart h.val).running = true → s.fenceOpen SNS = true →
    s.hartSlice h.val = some n →
    (Completes (.dlQuery h stream) s fun t => t.get (DB_DL_QUERY_STREAM n) = stream.toNat ∧ t.get (DB_DL_HANDLE_HANDLE n) = s.dlHandle n stream.toNat % 2 ^ 32) ∧
    (let size := 2 ^ s.get (CAP_RING_CFG_BLOG2 n r.val)
     let old := s.get (CAP_BRING_TAIL_TAIL n r.val) % size
     let added := (tail.toNat % size + size - old) % size
     s.sliceResetting n = false → s.on (CAP_RING_CFG_EN n r.val) = true → s.on (CAP_RING_CFG_STOPPED n r.val) = false → added ≠ 0 →
     s.ringUsed n r.val + added < size - 1 → s.get (CAP_RING_CFG_BLOG2 n r.val) ≤ 16 →
      (s.outstanding n + added ≤ s.get (CSL_SHARE_DEPTH n) → Completes (.dbSubmission h r tail) s fun t =>
        t.get (CAP_BRING_TAIL_TAIL n r.val) = tail.toNat % size ∧ t.get (DB_RESULT_STATUS n) = st8 .ok ∧ t.get (DB_RESULT_RING n) = r.val) ∧
      (s.get (CSL_SHARE_DEPTH n) < s.outstanding n + added → Completes (.dbSubmission h r tail) s fun t =>
        t.get (CAP_BRING_TAIL_TAIL n r.val) = s.get (CAP_BRING_TAIL_TAIL n r.val) ∧ t.get (DB_RESULT_STATUS n) = st8 .full))) ∧
  (∀ (h : Hart) (r : Fin 8) (tail : BitVec 16) (s : State), (s.hart h.val).running = true → s.fenceOpen SNS = true → s.hartSlice h.val = none →
    Completes (.dbSubmission h r tail) s fun t => t.slices = s.slices ∧ t.get (DB_RESULT_STATUS 0) = s.get (DB_RESULT_STATUS 0)) ∧
  (∀ (a : Agent) (n : Slice) (seq : BitVec 16) (s : State), s.Reached a true (MBX_MCMD n.val) 4 → s.get (CSL_STAT_STATE n.val) = 1 →
    s.on (MBX_MSTAT_PEND n.val) = false →
    (seq.toNat = s.get (MBX_MSTAT_NEXTSEQ n.val) → Completes (.mailboxSend a (.manager n) seq) s fun t =>
      t.get (MBX_MSTAT_RESULT n.val) = st8 .ok ∧ t.on (MBX_MSTAT_PEND n.val) = true ∧ t.get (MBX_MSTAT_NEXTSEQ n.val) = mbxNext seq.toNat ∧
      t.get (DB_RX_SEQ_SEQ n.val) = seq.toNat ∧ t.on (DB_RX_SEQ_VALID n.val) = true ∧ ∀ i < 8, t.get (DB_RX_WORD n.val i) = s.get (MBX_MTX_WORD n.val i)) ∧
    (seq.toNat ≠ s.get (MBX_MSTAT_NEXTSEQ n.val) → Completes (.mailboxSend a (.manager n) seq) s fun t =>
      (t.get (MBX_MSTAT_RESULT n.val) = st8 .stale ∨ t.get (MBX_MSTAT_RESULT n.val) = st8 .tooLate) ∧ t.on (MBX_MSTAT_PEND n.val) = false)) ∧
  (∀ (a : Agent) (n : Slice) (seq : BitVec 16) (s : State), s.Reached a true (MBX_MACK n.val) 4 →
    (s.on (MBX_MRXSEQ_VALID n.val) = true → s.get (MBX_MRXSEQ_SEQ n.val) = seq.toNat → Completes (.mailboxAck a (.manager n) seq) s fun t =>
      t.on (MBX_MRXSEQ_VALID n.val) = false ∧ t.on (DB_TX_STAT_PEND n.val) = false) ∧
    (s.on (MBX_MRXSEQ_VALID n.val) = false → Completes (.mailboxAck a (.manager n) seq) s fun t =>
      t.get (MBX_DISC_BADACK n.val) = (s.get (MBX_DISC_BADACK n.val) + 1) % 2 ^ (MBX_DISC_BADACK n.val).w ∧ t.slices = s.slices)) ∧
  (∀ (n : Slice) (r : Fin 8) (s : State), s.get (CSL_MOD_HOLDOFF n.val) ≠ 0 → tabGet (fun _ => 0) (s.slice n.val).mod r.val ≠ 0 → s.sliceResetting n.val = false →
    Completes (.modHoldoffExpire n r) s fun t => t.on (⟨DB_IRQ_STATUS n.val, r.val, 1⟩) = true ∧ tabGet (fun _ => 0) (t.slice n.val).mod r.val = 0)

/-- R221 and R222 for the choice, R226 and R227 for the list, R233 for the completion of injected frames. -/
def Obligations.EgressAndGatesComplete : Prop :=
  (∀ (p : EthPort) (phase : Fin 8) (s : State) (q : Nat) (f : QFrame) (r : List QFrame), s.portUp p.val = true → s.txOf p.val = none →
    s.hovBusy NET (0x10 + p.val) = false → (∀ k ∈ s.sw.released, k.parked.port ≠ p.val) → q < 8 → s.queue p.val q = f :: r →
    (s.creditUp p.val).eligible p.val q = true → (∀ k, q < k → k < 8 → (s.creditUp p.val).eligible p.val k = false) →
    Completes (.egressSelect p phase) s fun t => t.txOf p.val = some ⟨f, q, s.stampIn 0 phase.val, none⟩ ∧ (t.queue p.val q).length = r.length ∧
      ∀ k < 8, k ≠ q → t.queue p.val k = s.queue p.val k) ∧
  (∀ (p : EthPort) (s : State) (x : TxFrame), s.txOf p.val = some x → Completes (.frameTransmitEnd p) s fun t => t.txOf p.val = none ∧
    (x.frame.inj = none → t.sw.done = s.sw.done) ∧
    ∀ ref, x.frame.inj = some ref → t.sw.done = s.sw.done ++ [⟨ref, .ok, false, some x.stamp⟩]) ∧
  (∀ (p : PtpPort) (s : State), s.opens NET (0x10 + p.val) = true → Completes (.gclEntryAdvance p) s fun t =>
    t.get (PORT_GCL_POS_ENTRY p.val) = (s.gateAt p.val (s.gclNow p.val)).1 % 2 ^ 8 ∧ t.sw.gcl = s.sw.gcl) ∧
  (∀ (a : Agent) (p : PtpPort) (s : State), s.Reached a true (PORT_GCL_CTL p.val) 4 →
    let len := s.get (PORT_GCL_CTL_LEN p.val)
    let cycle := s.get (PORT_GCL_CYCLE_NS p.val)
    let d := s.get (PORT_GCL_CTL_DOM p.val)
    let good := 0 < len ∧ len ≤ 256 ∧ 0 < cycle ∧ ∀ i < len, 32 ≤ s.get (PORT_GCL_ADMINENT_ENTRY p.val i) / 256
    (good → s.domEnabled d = true → s.on (PORT_GCL_CTL_PENDING p.val) = false → Completes (.gclChange a p) s fun t =>
      t.get (PORT_GCL_CTL_RESULT p.val) = st8 .ok ∧ t.on (PORT_GCL_CTL_PENDING p.val) = true ∧ ∃ at_ n, at_ = s.get (PORT_GCL_BASE_VT p.val) + n * cycle ∧
        s.vt d + 2000 ≤ at_ ∧ (t.gcl p.val).pend = some (at_, s.get (PORT_GCL_CYCLE_EXT p.val), d, s.get (PORT_GCL_BASE_VT p.val), cycle, len)) ∧
    (¬ good → Completes (.gclChange a p) s fun t => t.get (PORT_GCL_CTL_RESULT p.val) = st8 .denied ∧ t.sw = s.sw) ∧
    (good → s.domEnabled d = false ∨ s.on (PORT_GCL_CTL_PENDING p.val) = true → Completes (.gclChange a p) s fun t =>
      t.get (PORT_GCL_CTL_RESULT p.val) = st8 .unavailable ∧ t.sw = s.sw)) ∧
  (∀ (p : PtpPort) (s : State) (at_ ext d base cycle len : Nat), s.opens NET (0x10 + p.val) = true →
    (s.gcl p.val).pend = some (at_, ext, d, base, cycle, len) → at_ ≤ s.vt d → Completes (.gclChangeTakeEffect p) s fun t =>
      t.gcl p.val = ⟨d, base, cycle, len, none⟩ ∧ t.on (PORT_GCL_CTL_PENDING p.val) = false ∧ t.get (PORT_GCL_OPER_VT p.val) = at_ % 2 ^ 64 ∧
      ∀ i < 256, t.get (PORT_GCL_OPERENT_ENTRY p.val i) = s.get (PORT_GCL_ADMINENT_ENTRY p.val i))

/-- R219 for the database, R231 for redundancy, R217 to R220 for frames, R233 to R235 and R249 for injection. -/
def Obligations.SwitchCommandsComplete : Prop :=
  (∀ (a : Agent) (s : State), s.Reached a true SW_FDB_CMD 4 →
    let mac := s.get SW_FDB_KEY_MAC
    let vid := s.get SW_FDB_KEY_VID
    let set := s.sw.fdb.filter (fun x => !(x.mac == mac && x.vid == vid) && fdbSetOf x.mac x.vid == fdbSetOf mac vid)
    (s.on SW_FDB_DATA_VALID = true → Completes (.fdbWrite a) s fun t =>
      if 4 ≤ set.length ∧ ∀ x ∈ set, x.static = true then t.get SW_FDB_RES_STATUS = st8 .full ∧ t.sw = s.sw
      else t.get SW_FDB_RES_STATUS = st8 .ok ∧ t.fdbFind mac vid = some ⟨mac, vid, s.get SW_FDB_DATA_PORTS, s.on SW_FDB_DATA_STATIC, s.ticks⟩) ∧
    (s.on SW_FDB_DATA_VALID = false → Completes (.fdbWrite a) s fun t => t.get SW_FDB_RES_STATUS = st8 .ok ∧ t.fdbFind mac vid = none) ∧
    (Completes (.fdbDelete a) s fun t => t.get SW_FDB_RES_STATUS = st8 .ok ∧ t.fdbFind mac vid = none ∧
      ∀ m v, ¬ (m = mac ∧ v = vid) → t.fdbFind m v = s.fdbFind m v) ∧
    Completes (.fdbRead a) s fun t => t.get SW_FDB_RES_STATUS = st8 .ok ∧ t.sw = s.sw ∧ t.on SW_FDB_DATA_VALID = (s.fdbFind mac vid).isSome ∧
      ∀ e, s.fdbFind mac vid = some e → t.get SW_FDB_DATA_PORTS = e.ports % 2 ^ 19 ∧ t.on SW_FDB_DATA_STATIC = e.static) ∧
  (∀ (mac : BitVec 48) (vid : BitVec 12) (s : State) (e : FdbEntry), s.fdbFind mac.toNat vid.toNat = some e → s.opens NET 0 = true → e.static = false →
    250000000 * s.get SW_CTL_AGE_S ≤ s.ticks - e.seen → Completes (.fdbAgeExpire mac vid) s fun t => t.sw = { s.sw with fdb := s.sw.fdb.erase e } ∧ t.regs = s.regs) ∧
  (∀ (f : Fin 64) (s : State), s.opens NET 0 = true → s.on (SW_FRER_MATCH_VALID f.val) = true → s.on (SW_FRER_MATCH_RCV f.val) = true →
    (s.frer f.val).recov.isSome = true → Completes (.frerResetTimeout f) s fun t => (t.frer f.val).recov = none ∧
      t.get (SW_FRER_CNT_RESETS f.val) = (s.get (SW_FRER_CNT_RESETS f.val) + 1) % 2 ^ 16) ∧
  (∀ (p : EthPort) (b : List Byte) (phase : Fin 8) (s : State), s.portUp p.val = true →
    (s.get (PORT_CFG_MAXFRAME p.val) < b.length + 4 → Completes (.ethFrameReceive p b false false phase) s fun t => t.sw = s.sw ∧ t.cap = s.cap) ∧
    (b.length + 4 ≤ s.get (PORT_CFG_MAXFRAME p.val) → ethType b ≠ 0x88F7 → ptpInUdp b = false → ethTagged b = false →
      let vid := s.get (PORT_VLAN_PVID p.val)
      let q := bitsOf (s.get (PORT_PCPMAP_MAP p.val)) (3 * s.get (PORT_VLAN_DEFPCP p.val)) 3
      (bitAt (s.vlanData vid) p.val = false → Completes (.ethFrameReceive p b false false phase) s fun t => t.sw = s.sw ∧ t.cap = s.cap) ∧
      (bitAt (s.vlanData vid) p.val = true → s.capOn = false → s.opens HST 3 = false → s.frerOf vid (ethDst b) = none → bitAt (ethDst b) 40 = true →
        ethDst b / 16 ≠ 0x0180C200000 → ∀ e : EthPort, e.val ≠ p.val →
        putBits (Nat.land (Nat.land (s.vlanData vid) (2 ^ 19 - 1)) s.enabledPorts) p.val 1 0 = 2 ^ e.val →
        s.on (PORT_STATUS_LINK e.val) = true → s.get (PORT_STATUS_TC10 e.val) ≠ 2 →
        let out := s.egressBytes e.val ⟨some p.val, b, vid, s.get (PORT_VLAN_DEFPCP p.val), q, false, false, none⟩
        wireLen out ≤ s.maxSdu e.val q → (s.admits e.val q ⟨out, wireLen out, none, false, false, 0⟩).isSome = true →
        Completes (.ethFrameReceive p b false false phase) s fun t => ∃ f, t.queue e.val q = s.queue e.val q ++ [f] ∧ f.bytes = out))) ∧
  (∀ (a : Agent) (r : Fin 8) (s : State), s.Reached a true (SW_INJ_CFG r.val) 4 → s.on (SW_INJ_CFG_EN r.val) = false → Completes (.injRingEnable a r) s fun t =>
    t.on (SW_INJ_CFG_EN r.val) = true ∧ t.get (SW_INJ_TAIL_TAIL r.val) = 0 ∧ t.get (SW_INJ_HEAD_HEAD r.val) = 0 ∧ t.on (SW_INJ_CFG_STOPPED r.val) = false) ∧
  (∀ (r : Fin 8) (s u v : State) (ref : InjRef) (b : List Byte) (sh : Bool), s.injFetch r.val = (u, some ref) → u.injJudge ref.desc = .ok →
    u.injBuf ref = (v, some b) → bitsOf ref.desc 80 5 < 19 → bitAt ref.desc 88 = true →
    v.admits (bitsOf ref.desc 80 5) (bitsOf ref.desc 85 3) ⟨b, wireLen b, some ref, false, false, 0⟩ = some sh →
    Completes (.injDescTake r) s fun t => t.get (SW_INJ_HEAD_HEAD r.val) = ((v.get (SW_INJ_HEAD_HEAD r.val) + 1) % 2 ^ v.get (SW_INJ_CFG_LOG2 r.val)) % 2 ^ 16 ∧
      ∃ k, t.sw.parked = v.sw.parked ++ [k] ∧ k.port = bitsOf ref.desc 80 5 ∧ k.queue = bitsOf ref.desc 85 3 ∧ k.tag = bitsOf ref.desc 96 16 ∧ k.frame.bytes = b) ∧
  (∀ (r : Fin 8) (s : State) (d : InjDone), s.sw.done.find? (fun d => d.ref.ring == r.val) = some d → s.opens NET 0 = true →
    Completes (.injDescComplete r) s fun t => t.sw.done = s.sw.done.erase d) ∧
  (∀ (a : Agent) (port : BitVec 5) (queue : BitVec 3) (tag : BitVec 16) (s : State), s.Reached a true SW_UNPARK 4 →
    (∀ k, s.sw.parked.find? (fun k => k.port == port.toNat && k.queue == queue.toNat && k.tag == tag.toNat) = some k →
      Completes (.swUnpark a port queue tag) s fun t => t.sw.parked = s.sw.parked.erase k ∧ t.get SW_UNPARK_RES_STATUS = st8 .ok) ∧
    (s.sw.parked.find? (fun k => k.port == port.toNat && k.queue == queue.toNat && k.tag == tag.toNat) = none →
      Completes (.swUnpark a port queue tag) s fun t => t.sw = s.sw ∧
        (t.get SW_UNPARK_RES_STATUS = st8 .unavailable ∨ t.get SW_UNPARK_RES_STATUS = st8 .tooLate)))

/-- R216 and R217 for links, R238 and R239 for TC10, R462 for classification. -/
def Obligations.LinksSleepAndWake : Prop :=
  (∀ (p : PtpPort) (rate : BitVec 2) (master : Bool) (s : State), s.tc10On p.val = true → s.on (PORT_STATUS_LINK p.val) = false →
    s.get (PORT_STATUS_TC10 p.val) ≠ 2 → Completes (.linkUp p rate master) s fun t => t.on (PORT_STATUS_LINK p.val) = true ∧
      (s.on (PORT_CFG_ANEG p.val) = false → p.val < 4 → t.get (PORT_STATUS_RATE p.val) = s.get (PORT_CFG_SPEED p.val) % 4) ∧
      (4 ≤ p.val → t.get (PORT_STATUS_RATE p.val) = 0) ∧ t.on (PORT_IRQ_STATUS_LINK p.val) = true ∧ t.get (PORT_STATUS_TC10 p.val) ≠ 3) ∧
  (∀ (p : PtpPort) (s : State), s.fenceOpen NET = true → s.on (PORT_STATUS_LINK p.val) = true → Completes (.linkDown p) s fun t =>
    t.on (PORT_STATUS_LINK p.val) = false ∧ t.on (PORT_IRQ_STATUS_LINK p.val) = true ∧ ∀ k ∈ t.sw.parked, k.port ≠ p.val) ∧
  (∀ (a : Agent) (p : Fin 16) (s : State), s.Reached a true (PORT_TC10 p.val) 4 → s.tc10On p.val = true →
    (s.get (PORT_STATUS_TC10 p.val) = 0 → Completes (.tc10SleepReq a p) s fun t => t.get (PORT_STATUS_TC10 p.val) = 1) ∧
    (s.get (PORT_STATUS_TC10 p.val) = 1 → Completes (.tc10WakeCmd a p) s fun t => t.get (PORT_STATUS_TC10 p.val) = 0) ∧
    (s.get (PORT_STATUS_TC10 p.val) = 2 → Completes (.tc10WakeCmd a p) s fun t => t.get (PORT_STATUS_TC10 p.val) = 3)) ∧
  (∀ (p : Fin 16) (s : State), s.tc10On p.val = true →
    (s.get (PORT_STATUS_TC10 p.val) = 1 →
      Completes (.tc10PartnerAck p) s (fun t => t.get (PORT_STATUS_TC10 p.val) = 2 ∧ t.on (PORT_STATUS_LINK p.val) = false) ∧
      Completes (.tc10PartnerSleepReq p) s (fun t => t.get (PORT_STATUS_TC10 p.val) = 2 ∧ t.on (PORT_STATUS_LINK p.val) = false) ∧
      Completes (.tc10PartnerReject p) s (fun t => t.get (PORT_STATUS_TC10 p.val) = 0 ∧ t.on (PORT_IRQ_STATUS_SLEEPFAIL p.val) = true) ∧
      Completes (.tc10RequestTimeout p) s (fun t => t.get (PORT_STATUS_TC10 p.val) = 0 ∧ t.on (PORT_IRQ_STATUS_SLEEPFAIL p.val) = true)) ∧
    (s.get (PORT_STATUS_TC10 p.val) = 0 → Completes (.tc10PartnerSleepReq p) s fun t =>
      t.get (PORT_STATUS_TC10 p.val) = (if s.on (PORT_TC10_ACCEPT p.val) then 2 else 0)) ∧
    (s.get (PORT_STATUS_TC10 p.val) = 2 → Completes (.tc10WakePulse p) s fun t =>
      t.get (PORT_STATUS_TC10 p.val) = 3 ∧ t.on (PORT_IRQ_STATUS_WAKE p.val) = true) ∧
    (s.get (PORT_STATUS_TC10 p.val) = 3 → Completes (.tc10WakeTimeout p) s fun t =>
      t.get (PORT_STATUS_TC10 p.val) = 2 ∧ t.on (PORT_IRQ_STATUS_WAKEFAIL p.val) = true)) ∧
  (∀ s : State, Completes .podlClassify s fun t => t.power.sup.podlClass = s.get PODL_CFG_CLASS ∧ t.power.sup.classified = true ∧ t.regs = s.regs)

/-- R240 to R242 for the camera links, R244 to R247 for CAN. -/
def Obligations.BackChannelAndCan : Prop :=
  (∀ (a : Agent) (n : Fin 8) (v : Word) (s : State), s.Reached a true (CAM_BC_CMD n.val) 8 → v.toNat.testBit 63 = true →
    let cmd (c : Instr) : Prop :=
      (bcOk v.toNat = false → Completes c s fun t => t.get (CAM_BC_RES_STATUS n.val) = st8 .denied ∧ t.sw = s.sw) ∧
      (bcOk v.toNat = true → 16 ≤ (s.bc n.val).length → Completes c s fun t => t.get (CAM_BC_RES_STATUS n.val) = st8 .full ∧ t.sw = s.sw) ∧
      (bcOk v.toNat = true → (s.bc n.val).length < 16 → s.on (CAM_LINK_UP n.val) = false → Completes c s fun t =>
        t.get (CAM_BC_RES_STATUS n.val) = st8 .unavailable ∧ t.sw = s.sw) ∧
      (bcOk v.toNat = true → (s.bc n.val).length < 16 → s.on (CAM_LINK_UP n.val) = true → s.hovBusy SNS (0x10 + n.val) = false → Completes c s fun t =>
        t.bc n.val = s.bc n.val ++ [⟨v.toNat.testBit 56, v.toNat.testBit 57, bitsOf v.toNat 58 3, bitsOf v.toNat 0 56, none⟩] ∧
        t.on (CAM_BC_RES_BUSY n.val) = true ∧ t.get (CAM_BC_CFG_DEPTH n.val) = (s.bc n.val).length + 1)
    (v.toNat.testBit 56 = false → v.toNat.testBit 57 = false → cmd (.bcGpioCmd a n v)) ∧
    (v.toNat.testBit 56 = true → v.toNat.testBit 57 = false → cmd (.bcI2cWriteCmd a n v)) ∧
    (v.toNat.testBit 57 = true → cmd (.bcI2cReadCmd a n v))) ∧
  (∀ (n : Fin 8) (rdata : BitVec 32) (s : State) (c : BcCmd) (r : List BcCmd), s.opens SNS (0x10 + n.val) = true → s.bc n.val = c :: r → c.entry = none →
    Completes (.bcAck n false rdata) s (fun t => t.bc n.val = r ∧ t.get (CAM_BC_RES_STATUS n.val) = st8 .ok ∧
      (c.read = true → c.nbytes = 4 → t.get (CAM_BC_RES_RDATA n.val) = rdata.toNat)) ∧
    Completes (.bcAck n true rdata) s (fun t => t.bc n.val = r ∧ t.get (CAM_BC_RES_STATUS n.val) = st8 .unavailable) ∧
    Completes (.bcTimeout n) s (fun t => t.bc n.val = r ∧ t.get (CAM_BC_RES_STATUS n.val) = st8 .unavailable)) ∧
  (∀ (n : Fin 8) (gear : BitVec 3) (s : State), s.fenceOpen SNS = true → 1 ≤ gear.toNat → gear.toNat ≤ 5 → Completes (.camLinkUp n gear) s fun t =>
    t.on (CAM_LINK_UP n.val) = true ∧ t.get (CAM_LINK_GEAR n.val) = gear.toNat ∧ t.sw = s.sw) ∧
  (∀ (n : Fin 8) (s : State), s.on (CAM_LINK_UP n.val) = true → Completes (.camLinkDown n) s fun t => t.on (CAM_LINK_UP n.val) = false ∧ t.bc n.val = []) ∧
  (∀ (c : Fin 2) (f : CanFrame) (s : State), s.canOn c.val = true → f.fmt.val ≠ 2 → s.capOn = true → s.steer 2 (canKey c.val f) = none →
    s.on STT_MISSQ_CTL_EN = true → s.cap.missq.length < 16 → Completes (.canFrameReceive c f) s fun t =>
      t.cap.missq = s.cap.missq ++ [⟨2, canKey c.val f, none⟩] ∧ t.get (STT_MISS_COUNT 2) = (s.get (STT_MISS_COUNT 2) + 1) % 2 ^ (STT_MISS_COUNT 2).w) ∧
  (∀ (c : Fin 2) (s u v : State) (ref : InjRef) (b : List Byte), s.canOn c.val = true → s.on (CAN_CFG_LISTEN c.val) = false →
    tabGet (fun _ => none) s.sw.canTx c.val = none → s.injFetch (8 + c.val) = (u, some ref) → bitsOf ref.desc 80 8 = 0 → bitAt ref.desc 88 = false →
    bitsOf ref.desc 96 16 = 0 → u.injBuf ref = (v, some b) → Completes (.canTxDescTake c) s fun t => tabGet (fun _ => none) t.sw.canTx c.val = some ⟨ref, b⟩) ∧
  (∀ (c : Fin 2) (sof : Nat) (s : State), s.canOn c.val = true →
    Completes (.canTxComplete c sof) s (fun t => tabGet (fun _ => none) t.sw.canTx c.val = none) ∧
    Completes (.canBusOff c) s (fun t => tabGet (fun _ => none) t.sw.canTx c.val = none ∧ t.get (CAN_STATUS_STATE c.val) = 2) ∧
    ∀ tec rec : BitVec 8, Completes (.canBusError c tec rec) s fun t => t.get (CAN_STATUS_TEC c.val) = tec.toNat ∧ t.get (CAN_STATUS_REC c.val) = rec.toNat ∧
      (128 ≤ tec.toNat ∨ 128 ≤ rec.toNat → t.get (CAN_STATUS_STATE c.val) = 1) ∧
      (tec.toNat < 128 → rec.toNat < 128 → t.get (CAN_STATUS_STATE c.val) = 0) ∧ t.sw = s.sw) ∧
  (∀ (c : Fin 2) (s : State), s.opens NET (2 + c.val) = true → s.get (CAN_STATUS_STATE c.val) = 2 → s.on (CAN_CFG_AUTO_RECOVER c.val) = true →
    Completes (.canBusoffRecovery c) s fun t => t.rd (CAN_STATUS c.val) = 0 ∧ t.sw = s.sw)

/-- The commands of the ledger engine on an engine that runs (R253 to R268). -/
def Obligations.LedgerEngineCompletes : Prop :=
  (∀ (r : Rec) (s : State) (b : LBlock), s.runs HST 2 = true → s.ldg.gasp = false → s.ldg.closed = none → s.ldg.gap = none → s.ldg.opened = some b →
    (ldgRoom s.ldg r.typ = true → b.recs.length < 62 → Completes (.ledgerRecordAccept r) s fun t =>
      t.ldg = { s.ldg with opened := some { b with recs := b.recs ++ [r] } } ∧ t.regs = s.regs) ∧
    (ldgRoom s.ldg r.typ = false → Completes (.ledgerRecordAccept r) s fun t =>
      t.ldg.opened = s.ldg.opened ∧ t.get LDG_LOST_COUNT = (s.get LDG_LOST_COUNT + 1) % 2 ^ LDG_LOST_COUNT.w ∧ t.on LDG_IRQ_STATUS_LOST = true)) ∧
  (∀ (a : Agent) (w : World) (typ : BitVec 8) (len : BitVec 6) (sub : BitVec 16) (s : State) (b : LBlock), s.Reached a true (LDG_W_CMD (worldNum w)) 8 →
    s.on (LDG_W_RES_BUSY (worldNum w)) = false →
    (typ.toNat < 0x80 ∨ 48 < len.toNat → Completes (.ledgerSwRecord a w typ len sub) s fun t => t.get (LDG_W_RES_STATUS (worldNum w)) = st8 .denied ∧ t.ldg = s.ldg) ∧
    (0x80 ≤ typ.toNat → len.toNat ≤ 48 → s.runs HST 2 = true → s.ldg.gasp = false → s.ldg.closed = none → s.ldg.gap = none → s.ldg.opened = some b →
      (64 < ldgFree s.ldg → b.recs.length < 62 → Completes (.ledgerSwRecord a w typ len sub) s fun t => t.get (LDG_W_RES_STATUS (worldNum w)) = st8 .ok ∧
        ∃ r, t.ldg.opened = some { b with recs := b.recs ++ [r] } ∧ r.typ = typ.toNat ∧ r.len = len.toNat ∧ r.sub = sub.toNat ∧ r.nsw = (w == .normal)) ∧
      (ldgFree s.ldg ≤ 64 → Completes (.ledgerSwRecord a w typ len sub) s fun t => t.get (LDG_W_RES_STATUS (worldNum w)) = st8 .full ∧ t.ldg.opened = s.ldg.opened))) ∧
  (∀ (a : Agent) (s : State) (b : LBlock), s.ldg.opened = some b → b.recs ≠ [] →
    let closes (t : State) : Prop := ∃ c k, t.ldg.staged = s.ldg.staged ++ [c] ∧ c.seq = b.seq ∧ c.recs = b.recs ∧ t.ldg.opened = some k ∧ k.seq = b.seq + 1 ∧
      k.prev = blockHash c ∧ k.recs = []
    (s.Reached a true LDG_CTL 4 → Completes (.ledgerFlush a) s closes) ∧
    (s.runs HST 2 = true → s.get LDG_CTL_CLOSE_MS ≠ 0 → Completes .blockCloseTimer s closes)) ∧
  (∀ (reason : CloseFor) (s : State), s.ldg.closing = some reason →
    (s.ldg.closed = none → Completes (.ledgerOrderlyClose reason) s fun t => t.ldg.closed = some (s.vt 0, 0) ∧ t.ldg.closing = some reason) ∧
    (s.ldg.closed.isSome = true → Completes .orderlyCloseDone s fun t => t.ldg.closing = none ∧ t.ldg.closed = s.ldg.closed)) ∧
  (∀ (r s' : BitVec 256) (s : State) (seq : Nat) (cu : Bool), s.ldg.signReq = some (seq, cu) →
    (s.runs HST 2 = true → s.ldg.closed = none → s.ldg.gasp = false → 3 ≤ ldgFree s.ldg → s.ldg.signDue = none → Completes (.signatureReturn true r s') s fun t =>
      t.rd LDG_SIGNED = seq % 2 ^ 64 ∧ t.on LDG_STATUS_SIGUNAVAIL = false ∧ t.on LDG_IRQ_STATUS_SIGNED = true) ∧
    (s.runs HST 2 = true → Completes (.signatureReturn false r s') s fun t =>
      t.ldg = { s.ldg with signReq := none, signDue := none } ∧ t.on LDG_STATUS_SIGUNAVAIL = true ∧ t.on LDG_IRQ_STATUS_SIGFAIL = true) ∧
    (Completes .signTimeout s fun t => t.ldg = { s.ldg with signReq := none, signDue := none } ∧ t.on LDG_STATUS_SIGUNAVAIL = true ∧ t.on LDG_IRQ_STATUS_SIGFAIL = true)) ∧
  (∀ (s : State) (b : LBlock), s.ldg.opened = some b → s.on LDG_STATUS_SIGUNAVAIL = true → s.ldg.signReq = none → b.seq ≠ 0 →
    Completes .signRetry s fun t => t.ldg = { s.ldg with signReq := some (b.seq - 1, true) } ∧ t.regs = s.regs) ∧
  (∀ (seq : Nat) (s : State), s.runs HST 2 = true → seq ∈ s.ldg.outstanding →
    (s.pcieLink = true → s.ldg.gap = none → Completes (.nvmeWriteComplete seq true) s fun t =>
      t.ldg.staged = s.ldg.staged.filter (fun b => b.seq != seq) ∧ t.on LDG_IRQ_STATUS_WRITTEN = true) ∧
    (tabGet (fun _ => 0) s.ldg.fails seq < 3 → Completes (.nvmeWriteComplete seq false) s fun t =>
      tabGet (fun _ => 0) t.ldg.fails seq = tabGet (fun _ => 0) s.ldg.fails seq + 1 ∧ t.regs = s.regs) ∧
    (3 ≤ tabGet (fun _ => 0) s.ldg.fails seq → Completes (.nvmeWriteComplete seq false) s fun t =>
      t.get LDG_STATUS_STATE = 3 ∧ t.on LDG_STATUS_STORE_ERR = true ∧ t.ldg.staged = s.ldg.staged)) ∧
  (∀ (a : Agent) (s : State), s.Reached a true LDG_CTL 4 →
    (s.on LDG_CTL_EN = false → Completes (.ledgerResume a) s fun t => t.on LDG_CTL_EN = true ∧ t.get LDG_STATUS_STATE = 1 ∧ t.ldg.resuming = true) ∧
    (Completes (.ledgerReinit a) s fun t => t.ldg = { s.ldg with reinit := true })) ∧
  (∀ (copies : List (Option CtlCopy)) (blocks : List LBlock) (s : State), s.runs HST 2 = true → s.ldg.resuming = true →
    (Completes (.resumeReadComplete false copies blocks) s fun t => t.get LDG_STATUS_RESULT = st8 .unavailable ∧ t.get LDG_STATUS_STATE = 3 ∧ t.ldg.resuming = false) ∧
    (s.pcieLink = true → s.get LDG_NS_LBADS ≠ 12 ∨ s.get LDG_RING_LBAS < 66 → Completes (.resumeReadComplete true copies blocks) s fun t =>
      t.get LDG_STATUS_RESULT = st8 .denied ∧ t.get LDG_STATUS_STATE = 3) ∧
    (s.pcieLink = true → s.get LDG_NS_LBADS = 12 → 66 ≤ s.get LDG_RING_LBAS →
      (∀ i c, bestCopy copies = some (i, c) → s.ldg.reinit = false → c.ringlen = s.get LDG_RING_LBAS - 2) →
      Completes (.resumeReadComplete true copies blocks) s fun t => t.get LDG_STATUS_RESULT = st8 .ok ∧ t.get LDG_STATUS_STATE = 2)) ∧
  (∀ (a : Agent) (s : State), s.Reached a true LDG_RPL_CMD 4 → s.on LDG_RPL_RES_BUSY = false →
    let bad := s.get LDG_RPL_COUNT_COUNT ≠ 0 ∧ ((ldgNext s.ldg).1 < s.rd LDG_RPL_FIRST + s.get LDG_RPL_COUNT_COUNT ∨
      s.rd LDG_RPL_FIRST + s.ldg.ringlen < (ldgNext s.ldg).1 ∨ s.ldg.opened = none)
    let cmd (c : Instr) (op : Nat) : Prop :=
      (¬ bad → Completes c s fun t => t.on LDG_RPL_RES_BUSY = true ∧ t.ldg = { s.ldg with replay := some op }) ∧
      (bad → Completes c s fun t => t.get LDG_RPL_RES_STATUS = st8 .denied ∧ t.ldg = s.ldg)
    cmd (.replayCopy a) 1 ∧ cmd (.replayCheck a) 2 ∧ cmd (.replayCopyCheck a) 3) ∧
  (∀ (blocks : List LBlock) (ok : Bool) (s : State) (op : Nat), s.ldg.replay = some op → s.runs HST 2 = true → Completes (.replayDone blocks ok) s fun t =>
    t.ldg.replay = none ∧ t.on LDG_RPL_RES_BUSY = false ∧ t.on LDG_IRQ_STATUS_RPLDONE = true) ∧
  (∀ s : State, (s.fenceOpen HST = true → Completes .pcieLinkUp s fun t => t = { s with pcieLink := true }) ∧
    Completes .pcieLinkDown s fun t => t = { s with pcieLink := false })

/-- R388 to R391 for the arbiter, R373 and R386 for lines, R383 to R385 for wedging, R394 and R398 for the log, R399 and R401. -/
def Obligations.MemoryCommandsComplete : Prop :=
  (∀ s : State, s.runs MEM 1 = true → Completes .arbSlotBoundary s fun t => t.get ARB_STATUS_SLOT = (s.get ARB_STATUS_SLOT + 1) % 1024) ∧
  (∀ (p : ArbPort) (s : State), s.runs MEM 1 = true →
    (s.portPresent p.val = true → s.requesting p.val = false → s.mem.grant = none ∨ (∃ q, s.mem.grant = some ⟨q, true⟩) → s.curOwner = p.val →
      Completes (.arbRequest p) s fun t => t.mem.grant = some ⟨p.val, false⟩ ∧ t.requesting p.val = true) ∧
    (s.portPresent p.val = true → s.requesting p.val = false → ∀ q, s.mem.grant = some ⟨q, false⟩ → Completes (.arbRequest p) s fun t =>
      t.mem.grant = s.mem.grant ∧ t.requesting p.val = true) ∧
    (Completes (.arbRequestDrop p) s fun t => t.requesting p.val = false ∧ ∀ bg, t.mem.grant ≠ some ⟨p.val, bg⟩)) ∧
  (∀ (a : Agent) (s : State), s.Reached a true ARB_CTL 4 → Completes (.arbSwap a) s fun t => t.on ARB_STATUS_SWAPPENDING = true) ∧
  (∀ (p : ArbPort) (line : LineNo) (s : State), s.outOfReset MEM = true → lineCoherent line.toNat = true → s.wedgeWaits line.toNat = false →
    (s.synd line.toNat = 0 → Completes (.dramRead p line []) s fun t => t.mem.bytes = s.mem.bytes ∧ t.mem.synd = s.mem.synd ∧ t.mem.sherd = s.mem.sherd) ∧
    (∀ data : BitVec 512, s.on DMC_INJ_ARM = false → Completes (.dramWrite p line (BitVec.allOnes 64) data []) s fun t =>
      t.bytesAt (lineAddr line.toNat) 64 = data.toNat ∧ t.synd line.toNat = 0 ∧
      ∀ k, k < lineAddr line.toNat ∨ lineAddr line.toNat + 64 ≤ k → tabGet byteDefault t.mem.bytes k = tabGet byteDefault s.mem.bytes k)) ∧
  (∀ s : State, s.runs MEM 0 = true → s.get DMC_SCRUB_HOURS ≠ 0 → Completes (.scrubRead []) s fun t =>
    t.mem.scrubLine = (if s.mem.scrubLine = 63 then 0 else s.mem.scrubLine + 1)) ∧
  (∀ (a : Agent) (fails : List LineNo) (s : State), s.Reached a true WDG_CMD 4 →
    let lo := 4096 * s.get WDG_BASE_BASE
    let hi := lo + 4096 * s.get WDG_LEN_PAGES
    let good := 0 < s.get WDG_LEN_PAGES ∧ dramBase ≤ lo ∧ hi ≤ dramEnd ∧ s.wedgeAllowed (s.agentWorld a) lo hi = true
    (s.on WDG_RES_BUSY = false →
      (good → Completes (.wedgeCmd a) s (fun t => t.on WDG_RES_BUSY = true ∧ t.get WDG_RES_STATUS = st8 .ok ∧
          t.mem.wedge = some ⟨lo, s.get WDG_LEN_PAGES, false, false, []⟩) ∧
        Completes (.wedgeTestCmd a fails) s (fun t => t.on WDG_RES_BUSY = true ∧ t.get WDG_RES_STATUS = st8 .ok ∧
          t.mem.wedge = some ⟨lo, s.get WDG_LEN_PAGES, true, false, []⟩)) ∧
      (¬ good → Completes (.wedgeCmd a) s fun t => t.get WDG_RES_STATUS = st8 .denied ∧ t.mem = s.mem) ∧
      Completes (.wedgeReservedOp a) s fun t => t.get WDG_RES_STATUS = st8 .denied ∧ t.mem = s.mem) ∧
    (s.on WDG_RES_BUSY = true → Completes (.wedgeCmd a) s fun t => t.get WDG_RES_STATUS = st8 .unavailable ∧ t.mem = s.mem)) ∧
  (∀ (a : Agent) (s : State),
    (s.Reached a true SHD_POP 4 → s.mem.sherd.length ≤ 4096 → Completes (.sherdPop a) s fun t => t.mem.sherd = s.mem.sherd.tail ∧
      t.get SHD_STAT_COUNT = s.mem.sherd.length - 1) ∧
    (s.Reached a false (SHD_HEAD 0) 8 → s.debugRead a = false → ∀ e r, s.mem.sherd = e :: r → Completes (.sherdHeadRead a .full) s fun t =>
      t.mem.sherdLatch = s.sherdView e ∧ t.mem.sherd = s.mem.sherd) ∧
    (s.Reached a true SHD_CRZ_CNT 4 → Completes (.crazingClear a) s fun t => t.crazeAt (s.get SHD_CRZ_IDX_INDEX) = none ∧
      ∀ i, i ≠ s.get SHD_CRZ_IDX_INDEX → t.crazeAt i = s.crazeAt i)) ∧
  (∀ s : State, s.runs MEM 3 = true → s.get SHD_CRZ_CFG_DECAY_H ≠ 0 → Completes .crazingDecay s fun t =>
    ∀ i < 256, t.crazeAt i = (s.crazeAt i).map (fun e => { e with count := e.count / 2 })) ∧
  (∀ (a : Agent) (page : BitVec 32) (s : State), s.Reached a true DMC_REMAP_CMD 8 → s.on DMC_REMAP_RES_BUSY = false →
    dramBase ≤ 4096 * page.toNat → 4096 * page.toNat < dramEnd → s.agentWorld a = .secure ∨ s.watermark ≤ 4096 * page.toNat →
    (s.get DMC_REMAP_RES_USED < 1024 → Completes (.pageRemap a page) s fun t => t.on DMC_REMAP_RES_BUSY = true ∧ t.get DMC_REMAP_RES_STATUS = st8 .ok ∧
      t.get DMC_REMAP_RES_SPARE = s.get DMC_REMAP_RES_USED ∧ t.get DMC_REMAP_RES_USED = s.get DMC_REMAP_RES_USED + 1 ∧ t.mem.remap = some page.toNat) ∧
    (1024 ≤ s.get DMC_REMAP_RES_USED → Completes (.pageRemap a page) s fun t => t.get DMC_REMAP_RES_STATUS = st8 .full ∧ t.mem = s.mem)) ∧
  (∀ (s : State) (page : Nat), s.mem.remap = some page → s.runs MEM 0 = true → Completes .remapDone s fun t =>
    t.mem.remap = none ∧ t.on DMC_REMAP_RES_BUSY = false)

/-- R327 to R336 for the messages, R342 to R345 for retirement and inspection. -/
def Obligations.CoherenceCommandsComplete : Prop :=
  (∀ (r : Requester) (line : LineNo) (mask : BitVec 64) (data : BitVec 512) (core : AppCore) (s : State),
    let n := s.reqOf r
    let opens (k : CohKind) (t : State) : Prop := ∃ x, (t.dirAt line.toNat).txn = some x ∧ x.req = n ∧ x.kind = k ∧ x.answers = [] ∧ x.responded = false
    lineCoherent line.toNat = true → s.reqLive n = true → s.fenceOpen MEM = true →
    ((s.dirAt line.toNat).txn = none → s.resvFirst line.toNat = none →
      (n < 8 → s.l2 n line.toNat = none → ((s.coreCount n 33).dirAlloc (reqMem n .secure) line.toNat).isSome = true →
        Completes (.readShared r line) s (opens .readShared) ∧ Completes (.readUnique r line mask data) s (opens .readUnique)) ∧
      (8 ≤ n → Completes (.readUnique r line mask data) s (opens .write) ∧
        ((s.dirAt line.toNat).sharers ≠ 0 → Completes (.stashHint r core line mask data) s (opens (.stash (s.l2Of core.val)))))) ∧
    ((s.dirAt line.toNat).txn.isSome = true → 8 ≤ n → Completes (.readUnique r line mask data) s fun t =>
      (∃ k ∈ t.cpu.nacks, k.req = n ∧ k.line = line.toNat ∧ k.kind = .write) ∧ (t.dirAt line.toNat) = s.dirAt line.toNat)) ∧
  (∀ (c : AppCore) (line : LineNo) (s : State), lineCoherent line.toNat = true → s.outOfReset APC = true → s.fenceOpen MEM = true →
    (s.dirAt line.toNat).txn = none → s.resvFirst line.toNat = none → s.l2 (s.l2Of c.val) line.toNat = none →
    (s.dirAlloc (reqMem (s.l2Of c.val) .secure) line.toNat).isSome = true → Completes (.upgrade c line) s fun t =>
      ∃ x, (t.dirAt line.toNat).txn = some x ∧ x.req = s.l2Of c.val ∧ x.kind = .upgrade) ∧
  (∀ (c : AppCore) (line : LineNo) (s : State) (x : Txn), (s.dirAt line.toNat).txn = some x →
    let n := s.l2Of c.val
    let hold := ∃ v, s.l2 n line.toNat = some v ∧ v.hold = true
    let answers (t : State) : Prop := ∃ y, (t.dirAt line.toNat).txn = some y ∧ (∃ a, (n, a) ∈ y.answers) ∧ (∀ k, (n, k) ∉ y.toSnoop)
    (¬ hold → s.uncommitted (clusterOf n) line.toNat = false →
      ((n, SnpKind.shared) ∈ x.toSnoop → Completes (.snpShared c line) s fun t => ∀ v, s.l2 n line.toNat = some v → v.st ≠ .m →
        answers t ∧ t.l2 n line.toNat = some { v with st := .s }) ∧
      ((n, SnpKind.once) ∈ x.toSnoop → Completes (.snpOnce c line) s fun t => answers t ∧ t.l2 n line.toNat = s.l2 n line.toNat) ∧
      ((n, SnpKind.invalid) ∈ x.toSnoop → Completes (.snpInvalid c line) s fun t => answers t ∧ t.l2 n line.toNat = none)) ∧
    (Completes (.snoopResponse c line) s fun t => ∃ y, (t.dirAt line.toNat).txn = some y ∧ (∀ a, (n, a) ∉ y.answers) ∧ t.cpu.l2 = s.cpu.l2) ∧
    (txnReady x = true → x.responded = false → (∀ k, x.kind ≠ .stash k) → Completes (.coherentResponse line) s fun t => (t.dirAt line.toNat).txn = none ∧
      (x.kind = .readShared → x.req < 8 → (s.dirAt line.toNat).owner = none → (s.dirAt line.toNat).sharers = 0 → (t.dirAt line.toNat).owner = some x.req)) ∧
    (x.responded = true → x.kind = .stash n → Completes (.stashFill c line) s fun t => (t.dirAt line.toNat).txn = none ∧ (t.dirAt line.toNat).owner = some n)) ∧
  (∀ (r : Requester) (line : LineNo) (s : State) (k : NackReq), s.cpu.nacks.find? (fun k => k.req == s.reqOf r && k.line == line.toNat) = some k →
    k.kind = .write → lineCoherent line.toNat = true → s.reqLive (s.reqOf r) = true → s.fenceOpen MEM = true → (s.dirAt line.toNat).txn = none →
    s.resvFirst line.toNat = none → Completes (.nackRetry r line) s fun t => (∃ x, (t.dirAt line.toNat).txn = some x ∧ x.req = s.reqOf r ∧ x.kind = .write) ∧
      ∀ j ∈ t.cpu.nacks, ¬ (j.req = s.reqOf r ∧ j.line = line.toNat)) ∧
  (∀ (c : AppCore) (line : LineNo) (s : State) (v : L2Line), s.l2 (s.l2Of c.val) line.toNat = some v → (s.dirAt line.toNat).txn = none →
    (v.hold = false → v.st = .m → Completes (.writeback c line) s fun t => t.l2 (s.l2Of c.val) line.toNat = none) ∧
    (v.hold = false → v.st ≠ .m → Completes (.evictNotice c line) s fun t => t.l2 (s.l2Of c.val) line.toNat = none) ∧
    Completes (.holdTimeExpire c line) s fun t => t.l2 (s.l2Of c.val) line.toNat = some { v with hold := false } ∧ t.cpu.dir = s.cpu.dir) ∧
  (∀ (slice : Fin 4) (s : State) (p : Nat × Nat), (tabGet (fun _ => []) s.cpu.resvq slice.val).find? (fun p => (s.dirAt p.2).txn.isNone) = some p →
    Completes (.reservationWindowExpire slice) s fun t => tabGet (fun _ => []) t.cpu.resvq slice.val = (tabGet (fun _ => []) s.cpu.resvq slice.val).erase p) ∧
  (∀ (a : Agent) (line : LineNo) (s : State), s.Reached a true DIR_INSP_ADDR 8 → Completes (.dirInspect a line) s fun t => t.cpu = s.cpu ∧
    bitsOf (t.rd DIR_INSP_RES) 1 1 = b2n (s.dirAt line.toNat).txn.isSome ∧ bitsOf (t.rd DIR_INSP_RES) 16 2 = homeSlice line.toNat) ∧
  (∀ (a : Agent) (c : AppCore) (sw : BitVec 24) (l2w : BitVec 16) (dw : BitVec 12) (s : State),
    (s.Reached a true SLC_RETIRE 4 → s.on SLC_RET_RES_BUSY = false → s.on SLC_RET_RES_EPOCHWAIT = false → 
      (∀ w < 24, bitAt sw.toNat w = true → s.scratchWay w = false) → 4 ≤ s.waysLeft 0 (Nat.lor (s.get SLC_RETIRE_WAYS) sw.toNat) →
      s.epochMode 0 = false → s.epochMode 1 = false → Completes (.slcRetire a sw) s fun t => t.get SLC_RET_RES_STATUS = st8 .ok ∧ t.on SLC_RET_RES_BUSY = true ∧
        t.get SLC_RETIRE_WAYS = Nat.lor (s.get SLC_RETIRE_WAYS) sw.toNat) ∧
    (s.Reached a true (DIR_L2RET c.val) 4 → s.fused c.val = false → popCount 16 (Nat.lor (s.get (DIR_L2RET_WAYS c.val)) l2w.toNat) ≤ 4 →
      Completes (.l2WayRetire a c l2w) s fun t => t.get (DIR_L2RET_STATUS c.val) = st8 .ok ∧
        t.get (DIR_L2RET_WAYS c.val) = Nat.lor (s.get (DIR_L2RET_WAYS c.val)) l2w.toNat) ∧
    (s.Reached a true (DIR_L2RET c.val) 4 → s.fused c.val = false → 4 < popCount 16 (Nat.lor (s.get (DIR_L2RET_WAYS c.val)) l2w.toNat) →
      Completes (.l2WayRetire a c l2w) s fun t => t.get (DIR_L2RET_STATUS c.val) = st8 .denied ∧ t.cpu = s.cpu) ∧
    (s.Reached a true DIR_RETIRE 4 → popCount 12 (Nat.lor (s.get DIR_RETIRE_WAYS) dw.toNat) ≤ 4 → Completes (.dirWayRetire a dw) s fun t =>
      t.get DIR_RETIRE_STATUS = st8 .ok ∧ t.get DIR_RETIRE_WAYS = Nat.lor (s.get DIR_RETIRE_WAYS) dw.toNat ∧ t.on DIR_RETIRE_BUSY = true)) ∧
  (∀ (s : State) (j : Nat × Nat × Nat) (r : List (Nat × Nat × Nat)), s.cpu.retiring = j :: r → Completes .retirementDone s fun t =>
    t.on DIR_IRQ_STATUS_RETDONE = true)

/-- R314 and R315 for files, R313 for wired sources, R316 for local lines, R320 for timers, R299 and R319 for `ACC_WORLD`. -/
def Obligations.InterruptsComplete : Prop :=
  (∀ (w : World) (h : AppCore) (f : Fin 7) (data : BitVec 32) (addr : PAddr) (s : State), addr.toNat = imsicAddr h.val f.val → s.fileWorld h.val f.val = w →
    s.fenceOpen APC = true → 0 < data.toNat → data.toNat < 2048 → Completes (.msiWrite w addr data) s fun t =>
      bitAt (t.imsic h.val f.val).eip data.toNat = true ∧ (t.imsic h.val f.val).eie = (s.imsic h.val f.val).eie) ∧
  (∀ (w : World) (h : AppCore) (f : Fin 7) (data : BitVec 32) (addr : PAddr) (s : State), addr.toNat = imsicAddr h.val f.val → s.fileWorld h.val f.val ≠ w →
    Completes (.msiWrite w addr data) s fun t => t.cpu = s.cpu) ∧
  (∀ (i : BitVec 7) (s : State), sourceExists i.toNat = true → s.outOfReset APC = true → Completes (.aplicSourceChange i) s fun t =>
    tabGet (fun _ => false) t.cpu.levels i.toNat = s.sourceLevel i.toNat) ∧
  (∀ (a : Agent) (n : Lic) (eiid : BitVec 32) (s : State), s.Reached a true (if n.val < 4 then TKC_MSG n.val else WDN_MSG) 4 → s.licWorld n.val = s.agentWorld a →
    s.fenceOpen (if n.val < 4 then TKD else SEC) = true → 0 < eiid.toNat → eiid.toNat < 64 → Completes (.localMsg a n eiid) s fun t =>
      bitAt (t.get (licPend n.val)) (eiid.toNat - 1) = true) ∧
  (∀ (a : Agent) (n : Lic) (s : State), s.Reached a false (if n.val < 4 then TKC_CLAIM n.val else WDN_CLAIM) 8 → s.debugRead a = false → s.licTop n.val ≠ 0 →
    Completes (.localClaim a n .full) s fun t => bitAt (t.get (licPend n.val)) (s.licTop n.val - 1) = false ∧ t.cpu = s.cpu) ∧
  (∀ (h : AppCore) (s : State), (s.hart h.val).wfi = true → s.irqWaiting h.val = true →
    (s.timerDue h.val = true → Completes (.mtimecmpMatch h) s fun t => (t.hart h.val).wfi = false ∧ (t.hart h.val).pc = (s.hart h.val).pc) ∧
    ∀ guest : Bool, bitAt (s.mip h.val) (if guest then 6 else 5) = true → Completes (.stimecmpMatch h guest) s fun t =>
      (t.hart h.val).wfi = false ∧ (t.hart h.val).pc = (s.hart h.val).pc) ∧
  (∀ (a : Agent) (c : AppCore) (next : World) (s : State), s.Reached a true (ACC_WORLD c.val) 4 → s.fused c.val = false →
    ((s.hart c.val).priv = .m ∨ (s.hart c.val).halted = true ∨ s.get (ACC_STATUS_POWER c.val) = 0 → Completes (.accWorldWrite a c next) s fun t =>
      t.get (ACC_WORLD_NEXT c.val) = worldNum next ∧ t.get (ACC_WORLD_RESULT c.val) = st8 .ok ∧
      (worldOf (s.get (ACC_WORLD_NEXT c.val)) ≠ next → ∀ f, 1 ≤ f → f ≤ 6 → (t.imsic c.val f).eip = 0 ∧ (t.imsic c.val f).eie = 0)) ∧
    ((s.hart c.val).priv ≠ .m → (s.hart c.val).halted = false → s.get (ACC_STATUS_POWER c.val) ≠ 0 → Completes (.accWorldWrite a c next) s fun t =>
      t.get (ACC_WORLD_RESULT c.val) = st8 .unavailable ∧ t.get (ACC_WORLD_NEXT c.val) = s.get (ACC_WORLD_NEXT c.val) ∧ t.cpu = s.cpu))

/-- The instructions that order, return and wait, on a hart that can execute them. -/
def Obligations.FencesReturnsAndWaitsComplete : Prop :=
  ∀ (h : Hart) (s : State), s.Ready h.val →
    let next (t : State) : Prop := s.Went t h.val ((s.hart h.val).pc + 4) [] ∧ t.mem = s.mem
    (∀ pi po pr pw si so sr sw : Bool,
      (h.val < 8 → s.sb h.val = [] ∨ pw = false ∧ (s.fiom h.val && po) = false → Completes (.fence h pi po pr pw si so sr sw) s next) ∧
      (h.val < 8 → pw = true → sr = true → Completes (.fence h pi po pr pw si so sr sw) s fun t =>
        t = (((s.coreCount h.val 49).sbDrainAll h.val).retire h.val).afterInstr h.val (s.hart h.val)) ∧
      (h.val < 8 → pw = true → si = false → so = false → sr = false → Completes (.fence h pi po pr pw si so sr sw) s fun t => next t ∧
        t.sb h.val = s.sb h.val ∧ (t.hart h.val).fences = (s.hart h.val).fences + 1) ∧
      (8 ≤ h.val → ((s.hart h.val).wbuf = [] → Completes (.fence h pi po pr pw si so sr sw) s next) ∧
        ((s.hart h.val).wbuf ≠ [] → Completes (.fence h pi po pr pw si so sr sw) s fun t => t = s))) ∧
    Completes (.fenceI h) s (fun t => next t ∧ ∀ line, t.fetchForm h.val line = .new) ∧
    (∀ (k : FenceKind) (va : Option Word) (asid : Option Nat),
      (h.val < 8 → (s.sfenceCheck h.val k = none → Completes (.sfenceVma h k va asid) s next) ∧
        ∀ c, s.sfenceCheck h.val k = some c → Completes (.sfenceVma h k va asid) s fun t => s.Took t h.val false c 0) ∧
      (8 ≤ h.val → Completes (.sfenceVma h k va asid) s fun t => s.Took t h.val false 2 0)) ∧
    ((s.hart h.val).priv = .m → Completes (.mret h) s fun t => (t.hart h.val).pc = s.csr h.val 0x341 % 2 ^ hartXlen h.val ∧ t.mem = s.mem ∧
      bitAt (t.csr h.val csrMstatus) 3 = bitAt (s.csr h.val csrMstatus) 7 ∧ bitAt (t.csr h.val csrMstatus) 7 = true ∧
      (∀ r, t.xreg h.val r = s.xreg h.val r) ∧
      (h.val < 8 → (t.hart h.val).priv = privOf (bitsOf (s.csr h.val csrMstatus) 11 2) (bitAt (s.csr h.val csrMstatus) 39) ∧
        ((t.hart h.val).priv ≠ .m → (t.hart h.val).world = worldOf (s.get (ACC_WORLD_NEXT h.val))) ∧
        ((t.hart h.val).priv = .m → (t.hart h.val).world = .secure))) ∧
    ((s.hart h.val).priv ≠ .m → Completes (.mret h) s fun t => s.Took t h.val false 2 0) ∧
    (h.val < 8 → (s.sretCheck h.val = none → Completes (.sret h) s fun t => t.mem = s.mem ∧ (t.hart h.val).world = (s.hart h.val).world ∧
        (∀ r, t.xreg h.val r = s.xreg h.val r) ∧
        (virt (s.hart h.val).priv = true → (t.hart h.val).pc = s.csr h.val 0x241 % 2 ^ hartXlen h.val ∧
          (t.hart h.val).priv = (if bitAt (s.csr h.val csrVsstatus) 8 then .vs else .vu) ∧ bitAt (t.csr h.val csrVsstatus) 1 = bitAt (s.csr h.val csrVsstatus) 5) ∧
        (virt (s.hart h.val).priv = false → (t.hart h.val).pc = s.csr h.val 0x141 % 2 ^ hartXlen h.val ∧
          (t.hart h.val).priv = privOf (bitsOf (s.csr h.val csrMstatus) 8 1) (bitAt (s.csr h.val csrHstatus) 7) ∧
          bitAt (t.csr h.val csrMstatus) 1 = bitAt (s.csr h.val csrMstatus) 5)) ∧
      ∀ c, s.sretCheck h.val = some c → Completes (.sret h) s fun t => s.Took t h.val false c 0) ∧
    (8 ≤ h.val → Completes (.sret h) s fun t => s.Took t h.val false 2 0) ∧
    (s.wfiCheck h.val = none → Completes (.wfi h) s fun t => next t ∧ (t.hart h.val).wfi = !s.irqWaiting h.val) ∧
    (∀ c, s.wfiCheck h.val = some c → Completes (.wfi h) s fun t => s.Took t h.val false c 0)

/-- Trap entry on a hart around which no trigger, step or halt stands. -/
def Obligations.TrapsAreTaken : Prop :=
  ∀ (h : Hart) (cause tval : Word) (s : State),
    let x := hartXlen h.val
    let code := cause.toNat % 2 ^ (x - 1)
    let ebreak := code = 3 ∧ bitAt (s.csr h.val csrDcsr) (ebreakBit (s.hart h.val).priv) = true ∧ s.invasive (s.hartWorld h.val) = true
    (bitAt cause.toNat (x - 1) = false → s.Ready h.val →
      (s.excOk h.val code = true → ¬ ebreak → Completes (.trapEntry h cause tval) s fun t => s.Took t h.val false code (tval.toNat % 2 ^ x) ∧ t.mem = s.mem) ∧
      (s.excOk h.val code = true → ebreak → s.epochMode (clusterOf h.val) = false → s.get (XTRG_IN_CH h.val) = 0 →
        Completes (.trapEntry h cause tval) s fun t => (t.hart h.val).halted = true ∧ t.mem = s.mem) ∧
      (s.excOk h.val code = false → Completes (.trapEntry h cause tval) s fun t => t = s)) ∧
    (bitAt cause.toNat (x - 1) = true → s.Quiet h.val →
      (s.hartRuns h.val = true → s.devPending h.val = false → s.irqNext h.val = some code → Completes (.trapEntry h cause tval) s fun t =>
        s.Took t h.val true code 0 ∧ (t.hart h.val).waitVt = none ∧ t.mem = s.mem) ∧
      (s.irqNext h.val ≠ some code → Completes (.trapEntry h cause tval) s fun t => t = s))

/-- Xeztime on a hart that can execute it, and the results that arrive beside a timekeeper's pipe. -/
def Obligations.XeztimeInstructionsComplete : Prop :=
  (∀ (h : Hart) (s : State) (rd : RegIdx) (va data : Word) (handle : BitVec 32), s.Ready h.val →
    let a := va.toNat % 2 ^ hartXlen h.val
    let armed (t : State) (q : ArmReq) : Prop := s.Went t h.val ((s.hart h.val).pc + 4) [rd.val] ∧ (rd.val ≠ 0 → t.xreg h.val rd.val =
      (if (s.arm q).2.1 = .ok then (s.arm q).2.2.1 else stReg h.val (s.arm q).2.1) % 2 ^ hartXlen h.val)
    (s.xezCheck h.val = none →
      Completes (.vtRd h rd) s (fun t => s.Went t h.val ((s.hart h.val).pc + 4) [rd.val] ∧ (rd.val ≠ 0 → t.xreg h.val rd.val = s.vt 0 % 2 ^ hartXlen h.val) ∧
        (8 ≤ h.val → t.csr h.val 0xCC1 = s.vt 0 / 2 ^ 32 % 2 ^ 32) ∧ t.mem = s.mem) ∧
      (s.vtReached h.val a = true → Completes (.vtWt h va) s fun t => s.Went t h.val ((s.hart h.val).pc + 4) []) ∧
      (s.vtReached h.val a = false → Completes (.vtWt h va) s fun t => (t.hart h.val).waitVt = some a ∧ (t.hart h.val).pc = (s.hart h.val).pc) ∧
      (8 ≤ h.val → Completes (.vtSta h va data rd) s fun t => s.Took t h.val false 2 0) ∧
      (h.val < 8 → a % 8 ≠ 0 → Completes (.vtSta h va data rd) s fun t => s.Took t h.val false 6 a) ∧
      (a % 4 ≠ 0 → Completes (.vtStaW h va data rd) s fun t => s.Took t h.val false 6 a) ∧
      (a % 32 ≠ 0 → Completes (.vtEv h va rd) s fun t => s.Took t h.val false 4 a) ∧
      (∀ pa b, s.translate h.val .write a = (s, .ok (pa, b)) → s.armCluster h.val = none →
        (h.val < 8 → a % 8 = 0 → (s.arm (s.staReq h.val pa 8 data.toNat)).2.2.2 = false → Completes (.vtSta h va data rd) s fun t => armed t (s.staReq h.val pa 8 data.toNat)) ∧
        (a % 4 = 0 → (s.arm (s.staReq h.val pa 4 data.toNat)).2.2.2 = false → Completes (.vtStaW h va data rd) s fun t => armed t (s.staReq h.val pa 4 data.toNat)))) ∧
    (∀ c, s.xezCheck h.val = some c → ∀ i ∈ [Instr.vtRd h rd, .vtWt h va, .vtSta h va data rd, .vtStaW h va data rd, .vtEv h va rd, .vtAbt h handle rd],
      Completes i s fun t => s.Took t h.val false c 0) ∧
    (s.xezCheck h.val = none → s.armCluster h.val = none → Completes (.vtAbt h handle rd) s fun t =>
      (rd.val ≠ 0 → t.xreg h.val rd.val = stReg h.val (s.abort (s.armOwner h.val) handle.toNat).2 % 2 ^ hartXlen h.val) ∧
      ((s.went (handle.toNat % 65536)).state = .free → t.wheel = s.wheel)) ∧
    (∀ pa, s.xezCheck h.val = none → 8 ≤ h.val → s.sb h.val = [] → (s.hart h.val).wbuf = [] → a % 32 = 0 → s.translate h.val .read a = (s, .ok (pa, 0)) →
      s.ownLocal h.val pa = true → s.pieceCheck h.val none .read ⟨a, pa, 32, 0⟩ = .ok → s.sramPoisoned (pa / 64) = false →
      let d := s.bytesAt pa 32
      let q : ArmReq := ⟨bitsOf d 0 64, bitsOf d 64 64, bitsOf d 128 64, bitsOf d 192 4, bitAt d 196, bitAt d 197, bitAt d 198, bitsOf d 200 8,
        bitsOf d 208 16, s.armOwner h.val, h.val, bitAt (s.modeVal h.val 0x7C0) 3, s.armFile h.val, none⟩
      q.action ≠ 3 → q.action ≠ 7 → (s.arm q).2.2.2 = false → Completes (.vtEv h va rd) s fun t => armed t q)) ∧
  (∀ (h : Hart) (s : State) (target : Nat), (s.hart h.val).waitVt = some target → s.hartRuns h.val = true → s.Quiet h.val →
    (s.vtReached h.val target = true → Completes (.vtWtEnd h) s fun t => s.Went t h.val ((s.hart h.val).pc + 4) [] ∧ (t.hart h.val).waitVt = none) ∧
    (s.vtReached h.val target = false → Completes (.vtWtEnd h) s fun t => t = s)) ∧
  (∀ (n : TkCore) (rd : RegIdx) (x y : BitVec 32) (s : State), (s.hart (8 + n.val)).running = true → s.runs TKD (4 + n.val) = true → rd.val ≠ 0 →
    (∀ op, Completes (.tkMultiplyResult n op rd x y) s fun t => t.xreg (8 + n.val) rd.val = mulVal op x.toNat y.toNat % 2 ^ 32 ∧
      (∀ r, r ≠ rd.val → t.xreg (8 + n.val) r = s.xreg (8 + n.val) r) ∧ t.mem = s.mem) ∧
    (∀ op, Completes (.tkDivideResult n op rd x y) s fun t => t.xreg (8 + n.val) rd.val = divVal op x.toNat y.toNat % 2 ^ 32 ∧
      (y = 0 → op = .divu → t.xreg (8 + n.val) rd.val = 0xFFFFFFFF) ∧ (y = 0 → op = .remu → t.xreg (8 + n.val) rd.val = x.toNat) ∧
      (∀ r, r ≠ rd.val → t.xreg (8 + n.val) r = s.xreg (8 + n.val) r) ∧ t.mem = s.mem)) ∧
  (∀ (a : Agent) (n : TkCore) (s : State), s.Reached a true (TKC_CTL n.val) 4 →
    (s.on (TKC_CTL_RUN n.val) = true → Completes (.tkRunStop a n) s (fun t => t = (s.tkStop n.val).ended a) ∧ Completes (.tkRunStart a n) s fun t => t = s.ended a) ∧
    (s.on (TKC_CTL_RUN n.val) = false → Completes (.tkRunStop a n) s (fun t => t = s.ended a) ∧ Completes (.tkRunStart a n) s fun t =>
      t = ((s.put (TKC_CTL_RUN n.val) 1).tkStart n.val (s.get (TKC_RESETPC_OFFSET n.val))).ended a))

/-- The saggar instructions on a hart that can execute them. -/
def Obligations.SaggarsEnterAndExit : Prop :=
  ∀ (h : Hart) (s : State) (rd : RegIdx) (k : BitVec 6) (target : Word), s.Ready h.val →
    (h.val < 8 → s.sagCause h.val k.toNat = 0 → Completes (.sagEnter h rd k) s fun t => s.Went t h.val (s.get (SAG_DESC_ENTRY_ENTRY k.toNat)) [rd.val] ∧
      (rd.val ≠ 0 → t.xreg h.val rd.val = ((s.hart h.val).pc + 4) % 2 ^ 64) ∧ t.inSaggar h.val = true ∧ t.hartSag h.val = some k.toNat ∧
      bitAt (t.csr h.val csrEzsag) 14 = false ∧ t.mem = s.mem) ∧
    (h.val < 8 → s.sagCause h.val k.toNat ≠ 0 → Completes (.sagEnter h rd k) s fun t => (t.hart h.val).pos = (s.hart h.val).pos ∧
      bitsOf (t.csr h.val csrEzsag) 16 3 = s.sagCause h.val k.toNat ∧ t.inSaggar h.val = false ∧ t.mem = s.mem ∧
      ((t.hart h.val).priv = .m → t.csr h.val 0x342 = 2)) ∧
    (h.val < 8 → s.inSaggar h.val = true → Completes (.sagExit h target) s fun t => s.Went t h.val (target.toNat / 2 * 2) [] ∧
      t.inSaggar h.val = false ∧ t.mem = s.mem) ∧
    (s.inSaggar h.val = false → Completes (.sagExit h target) s fun t => s.Took t h.val false 2 0) ∧
    (8 ≤ h.val → Completes (.sagEnter h rd k) s fun t => s.Took t h.val false 2 0)

/-- Loads on a hart that can execute them, of an access that translates to one part. -/
def Obligations.LoadsComplete : Prop :=
  (∀ (h : Hart) (s : State) (va : Word) (size : AccSize) (rd : RegIdx) (sg : Bool), s.Ready h.val →
    let a := va.toNat % 2 ^ hartXlen h.val
    let n := size.bytes
    let ld (k : LoadKind) : Instr := .load h va size rd sg k .none
    let got (t : State) (v : Nat) : Prop := s.Went t h.val ((s.hart h.val).pc + 4) [rd.val] ∧
      (rd.val ≠ 0 → t.xreg h.val rd.val = loadExt h.val n sg v % 2 ^ hartXlen h.val) ∧ t.mem = s.mem
    (8 ≤ h.val → n = 8 → Completes (ld .int) s fun t => s.Took t h.val false 2 0) ∧
    (8 ≤ h.val → n ≠ 8 → a % n ≠ 0 → Completes (ld .int) s fun t => s.Took t h.val false 4 a) ∧
    (s.fpOn h.val = false → Completes (ld .float) s fun t => s.Took t h.val false 2 0) ∧
    (∀ c tv, (8 ≤ h.val → n ≠ 8 ∧ a % n = 0) → s.piecesOf h.val .read a n = (s, .error (c, tv)) → Completes (ld .int) s fun t => s.Took t h.val false c tv) ∧
    (∀ pa b, (8 ≤ h.val → n ≠ 8 ∧ a % n = 0) → s.piecesOf h.val .read a n = (s, .ok [⟨a, pa, n, b⟩]) →
      s.piecesCheck h.val (s.hartSag h.val) .read [⟨a, pa, n, b⟩] = (s, none) →
      (h.val < 8 → s.isDevice ⟨a, pa, n, b⟩ = false →
        (∀ e, s.sbYoungest h.val pa n = some e → Nat.land e.mask (lineMask pa n) = lineMask pa n →
          Completes (ld .int) s fun t => got t (bitsOf e.data (8 * (pa % 64)) (8 * n))) ∧
        (∀ v, s.sb h.val = [] → s.region pa = .dram → b ≠ 1 → (s.dirAt (pa / 64)).txn = none → s.l2 h.val (pa / 64) = some v →
          (v.poison = false → Completes (ld .int) s (fun t => got t (bitsOf v.data (8 * (pa % 64)) (8 * n))) ∧
            (s.fpOn h.val = true → n ≠ 1 → Completes (ld .float) s fun t => s.Went t h.val ((s.hart h.val).pc + 4) [] ∧ t.mem = s.mem ∧
              tabGet (fun _ => 0) (t.hart h.val).f rd.val = 2 ^ 64 - 2 ^ (8 * n) + bitsOf v.data (8 * (pa % 64)) (8 * n) % 2 ^ (8 * n))) ∧
          (v.poison = true → Completes (ld .int) s fun t => s.Took t h.val false 5 a)) ∧
        (∀ w o, s.sb h.val = [] → s.region pa = .scratch w o → s.sramPoisoned (pa / 64) = false → Completes (ld .int) s fun t => got t (s.bytesAt pa n))) ∧
      ((h.val < 8 ∨ h.val = 12) → s.isWindow pa = true → a % n = 0 → s.epochMode (clusterOf h.val) = false →
        (s.winJudge (.hart h) (s.hartSlice h.val) false pa n = .ok → rd.val ≠ 0 → Completes (ld .int) s fun t =>
          t.xreg h.val rd.val = loadExt h.val n sg (s.winRead (s.hartSlice h.val) false pa n).2 % 2 ^ hartXlen h.val) ∧
        (s.winJudge (.hart h) (s.hartSlice h.val) false pa n = .bad → Completes (ld .int) s fun t => s.Took t h.val false 5 a ∧ t.mem = s.mem) ∧
        ∀ st, s.winJudge (.hart h) (s.hartSlice h.val) false pa n = .refuse st → Completes (ld .int) s fun t => s.Took t h.val false 5 a) ∧
      (8 ≤ h.val → s.isDevice ⟨a, pa, n, b⟩ = false → s.ownLocal h.val pa = true ∨ h.val = 12 ∧ s.region pa = .secSram → s.sb h.val = [] → s.sramPoisoned (pa / 64) = false →
        Completes (ld .int) s fun t => got t (s.bytesAt pa n)) ∧
      (8 ≤ h.val → h.val < 12 → s.ownLocal h.val pa = false → Completes (ld .int) s fun t =>
        (t.hart h.val).fabric = some ⟨pa, n, rd.val, sg⟩ ∧ (t.hart h.val).pc = (s.hart h.val).pc ∧ (∀ r, t.xreg h.val r = s.xreg h.val r) ∧ t.mem = s.mem)) ∧
    (∀ pa v, h.val < 8 → s.piecesOf h.val .exec a n = (s, .ok [⟨a, pa, n, 0⟩]) → s.piecesCheck h.val (s.hartSag h.val) .exec [⟨a, pa, n, 0⟩] = (s, none) →
      s.sb h.val = [] → s.region pa = .dram → (s.dirAt (pa / 64)).txn = none → s.l2 h.val (pa / 64) = some v → v.poison = false →
      Completes (ld .fetch) s fun t => (t.hart h.val).pc = (s.hart h.val).pc ∧ (∀ r, t.xreg h.val r = s.xreg h.val r) ∧ t.mem = s.mem)) ∧
  (∀ (n : TkCore) (s : State) (l : FabLoad), (s.hart (8 + n.val)).fabric = some l → s.hartRuns (8 + n.val) = true → s.Quiet (8 + n.val) →
    ((s.hart (8 + n.val)).wbuf.any (fun d => wbufTouches d l.addr l.size) = true → Completes (.fabricLoadResponse n) s fun t => t = s) ∧
    (∀ w o, s.region l.addr = .scratch w o → (s.hart (8 + n.val)).wbuf.any (fun d => wbufTouches d l.addr l.size) = false → s.sramPoisoned (l.addr / 64) = false →
      (s.pieceCheck (8 + n.val) none .read ⟨l.addr, l.addr, l.size, 0⟩ = .ok → Completes (.fabricLoadResponse n) s fun t =>
        s.Went t (8 + n.val) ((s.hart (8 + n.val)).pc + 4) [l.rd] ∧ (t.hart (8 + n.val)).fabric = none ∧
        (l.rd ≠ 0 → t.xreg (8 + n.val) l.rd = loadExt (8 + n.val) l.size l.signed (s.bytesAt l.addr l.size) % 2 ^ 32) ∧ t.mem = s.mem) ∧
      (s.pieceCheck (8 + n.val) none .read ⟨l.addr, l.addr, l.size, 0⟩ = .denied → Completes (.fabricLoadResponse n) s fun t =>
        s.Took t (8 + n.val) false 5 l.addr ∧ (t.hart (8 + n.val)).fabric = none)))

/-- Stores on a hart that can execute them, of an access that translates to one part; then the buffers. -/
def Obligations.StoresComplete : Prop :=
  (∀ (h : Hart) (s : State) (va data : Word) (size : AccSize), s.Ready h.val →
    let a := va.toNat % 2 ^ hartXlen h.val
    let n := size.bytes
    let v := data.toNat % 2 ^ (8 * n)
    let st : Instr := .store h va size data
    let went (t : State) : Prop := s.Went t h.val ((s.hart h.val).pc + 4) []
    let stays (t : State) : Prop := (t.hart h.val).pc = (s.hart h.val).pc ∧ (∀ r, t.xreg h.val r = s.xreg h.val r) ∧ t.mem = s.mem
    let stored (t : State) (pa : Nat) : Prop := t.bytesAt pa n = v ∧
      ∀ k, k < pa ∨ pa + n ≤ k → tabGet byteDefault t.mem.bytes k = tabGet byteDefault s.mem.bytes k
    (8 ≤ h.val → n = 8 → Completes st s fun t => s.Took t h.val false 2 0) ∧
    (8 ≤ h.val → n ≠ 8 → a % n ≠ 0 → Completes st s fun t => s.Took t h.val false 6 a) ∧
    (∀ c tv, (8 ≤ h.val → n ≠ 8 ∧ a % n = 0) → s.piecesOf h.val .write a n = (s, .error (c, tv)) → Completes st s fun t => s.Took t h.val false c tv) ∧
    (∀ pa b, (8 ≤ h.val → n ≠ 8 ∧ a % n = 0) → s.piecesOf h.val .write a n = (s, .ok [⟨a, pa, n, b⟩]) →
      let p : Piece := ⟨a, pa, n, b⟩
      (∀ u tv, s.piecesCheck h.val (s.hartSag h.val) .write [p] = (u, some tv) → s.isDevice p = false → Completes st s fun t => s.Took t h.val false 7 tv) ∧
      (s.piecesCheck h.val (s.hartSag h.val) .write [p] = (s, none) →
        (h.val < 8 → s.isDevice p = false → s.sb h.val = [] → Completes st s fun t => went t ∧ t.mem = s.mem ∧
          t.sb h.val = [⟨pa / 64, lineMask pa n, v * 2 ^ (8 * (pa % 64)), false, b == 1, (s.hart h.val).fences, false, s.hartWorld h.val, s.hartSag h.val⟩]) ∧
        (h.val < 8 → s.isDevice p = true → a % n = 0 → s.epochMode (clusterOf h.val) = false → (s.sb h.val).length < 64 → Completes st s fun t => stays t ∧
          (t.hart h.val).dev = some ⟨pa, a, n, v, (s.hart h.val).pc, s.hartWorld h.val, false⟩ ∧ (t.sb h.val).length = (s.sb h.val).length + 1) ∧
        (8 ≤ h.val → h.val < 12 → s.isDevice p = false → s.ownLocal h.val pa = true → Completes st s fun t => went t ∧ stored t pa) ∧
        (8 ≤ h.val → h.val < 12 → s.ownLocal h.val pa = false → (s.hart h.val).wbuf.length < 4 → Completes st s fun t =>
          (t.hart h.val).wbuf = (s.hart h.val).wbuf ++ [⟨pa, a, n, v, (s.hart h.val).pc, s.hartWorld h.val, false⟩] ∧ t.mem = s.mem ∧
          (s.isDevice p = false → went t) ∧ (s.isDevice p = true → stays t)) ∧
        (8 ≤ h.val → h.val < 12 → s.ownLocal h.val pa = false → 4 ≤ (s.hart h.val).wbuf.length → Completes st s fun t => t = s) ∧
        (h.val = 12 → s.region pa = .secSram → s.fenceOpen SEC = true → Completes st s fun t => went t ∧ stored t pa)))) ∧
  (∀ (h : Hart) (s : State) (e : SbEntry) (r : List SbEntry), h.val < 8 → s.outOfReset APC = true → s.sb h.val = e :: r →
    (e.device = true → Completes (.storeBufferDrain h 0) s fun t => t.sb h.val = r ∧ t.mem = s.mem ∧ (t.hart h.val).dev = (s.hart h.val).dev) ∧
    (∀ v, e.device = false → e.nc = false → s.region (64 * e.line) = .dram → s.epochMode (clusterOf h.val) = false → (s.dirAt e.line).txn = none →
      s.l2 h.val e.line = some v → v.st ≠ .s → Completes (.storeBufferDrain h 0) s fun t => t.sb h.val = r ∧ t.mem = s.mem ∧ t.l2 h.val e.line =
        some { v with st := .m, data := mergeBytes 64 e.mask e.data v.data, poison := v.poison && e.mask != fullMask }) ∧
    (∀ i f, (s.sb h.val)[i]? = some f → s.sbPasses h.val f e = false → 0 < i → Completes (.storeBufferDrain h i) s fun t => t = s)) ∧
  (∀ (h : Hart) (s : State) (d : DevStore), h.val < 8 → s.outOfReset APC = true → (s.hart h.val).dev = some d →
    let u := s.updHart h.val (fun t => { t with dev := none })
    ((s.sb h.val).any (fun e => e.device) = true → Completes (.deviceStoreAck h) s fun t => t = s) ∧
    ((s.sb h.val).any (fun e => e.device) = false → s.isWindow d.addr = true →
      (u.winJudge (.hart h) (u.hartSlice h.val) true d.addr d.size = .ok → d.orphan = true → Completes (.deviceStoreAck h) s fun t =>
        t = u.winWrite (.hart h) (u.hartSlice h.val) d.addr d.size d.data) ∧
      (u.winJudge (.hart h) (u.hartSlice h.val) true d.addr d.size = .bad → d.orphan = false → s.hartRuns h.val = true → s.Quiet h.val →
        Completes (.deviceStoreAck h) s fun t => s.Took t h.val false 7 d.vaddr ∧ (t.hart h.val).dev = none)) ∧
    ((s.sb h.val).any (fun e => e.device) = false → s.region d.addr = .pcie → s.fenceOpen HST = true → d.orphan = false → s.hartRuns h.val = true →
      s.Quiet h.val → Completes (.deviceStoreAck h) s fun t => s.Went t h.val ((s.hart h.val).pc + 4) [] ∧ (t.hart h.val).dev = none ∧ t.mem = s.mem)) ∧
  (∀ (n : TkCore) (s : State), s.outOfReset TKD = true →
    ((s.hart (8 + n.val)).wbuf = [] → Completes (.tkWriteBufferDrain n) s fun t => t = s) ∧
    (∀ d r w o, (s.hart (8 + n.val)).wbuf = d :: r → s.region d.addr = .scratch w o → s.fenceOpen MEM = true → Completes (.tkWriteBufferDrain n) s fun t =>
      (t.hart (8 + n.val)).wbuf = r ∧ t.bytesAt d.addr d.size = d.data % 2 ^ (8 * d.size) ∧ (t.hart (8 + n.val)).pc = (s.hart (8 + n.val)).pc ∧
      ∀ k, k < d.addr ∨ d.addr + d.size ≤ k → tabGet byteDefault t.mem.bytes k = tabGet byteDefault s.mem.bytes k) ∧
    (∀ d r, (s.hart (8 + n.val)).wbuf = d :: r → s.region d.addr = .pcie → s.fenceOpen HST = true → d.orphan = false → s.hartRuns (8 + n.val) = true →
      s.Quiet (8 + n.val) → Completes (.tkWriteBufferDrain n) s fun t => (t.hart (8 + n.val)).wbuf = r ∧ s.Went t (8 + n.val) ((s.hart (8 + n.val)).pc + 4) []))

/-- Atomics on a hart that can execute them, of an access that translates to one part in DRAM. -/
def Obligations.AtomicsComplete : Prop :=
  ∀ (h : Hart) (s : State) (va src : Word) (size : AccSize) (rd : RegIdx) (op : AmoOp), s.Ready h.val →
    let a := va.toNat
    let n := size.bytes
    let went (t : State) : Prop := s.Went t h.val ((s.hart h.val).pc + 4) [rd.val] ∧ t.mem = s.mem
    let gets (t : State) (x : Nat) : Prop := rd.val ≠ 0 → t.xreg h.val rd.val = x
    ((8 ≤ h.val ∨ ¬ (n = 4 ∨ n = 8)) → ∀ i ∈ [Instr.amo h op va size rd src, .loadReserved h va size rd, .storeConditional h va size rd src],
      Completes i s fun t => s.Took t h.val false 2 0) ∧
    (h.val < 8 → n = 4 ∨ n = 8 → a % n ≠ 0 → Completes (.loadReserved h va size rd) s (fun t => s.Took t h.val false 4 a) ∧
      ∀ i ∈ [Instr.amo h op va size rd src, .storeConditional h va size rd src], Completes i s fun t => s.Took t h.val false 6 a) ∧
    (h.val < 8 → n = 4 ∨ n = 8 → a % n = 0 → ∀ pa v, s.region pa = .dram → s.epochMode (clusterOf h.val) = false → (s.dirAt (pa / 64)).txn = none →
      s.sb h.val = [] → s.l2 h.val (pa / 64) = some v → v.poison = false →
      let old := bitsOf v.data (8 * (pa % 64)) (8 * n)
      let line (x : Nat) : Nat := mergeBytes 64 (lineMask pa n) (x % 2 ^ (8 * n) * 2 ^ (8 * (pa % 64))) v.data
      let holds (t : State) (x : Nat) : Prop := t.l2 h.val (pa / 64) = some { v with st := .m, data := line x, poison := false }
      (s.piecesOf h.val .read a n = (s, .ok [⟨a, pa, n, 0⟩]) → s.piecesCheck h.val (s.hartSag h.val) .read [⟨a, pa, n, 0⟩] = (s, none) →
        Completes (.loadReserved h va size rd) s fun t => went t ∧ gets t (loadExt h.val n true old % 2 ^ 64) ∧ (t.hart h.val).resv = some (pa / 64)) ∧
      (s.piecesOf h.val .write a n = (s, .ok [⟨a, pa, n, 0⟩]) → s.piecesCheck h.val (s.hartSag h.val) .write [⟨a, pa, n, 0⟩] = (s, none) →
        (v.st ≠ .s → Completes (.amo h op va size rd src) s fun t => went t ∧ gets t (loadExt h.val n true old % 2 ^ 64) ∧
          holds t (amoVal op (8 * n) old src.toNat)) ∧
        (v.st ≠ .s → (s.hart h.val).resv = some (pa / 64) → Completes (.storeConditional h va size rd src) s fun t => went t ∧ gets t 0 ∧
          holds t src.toNat ∧ (t.hart h.val).resv = none) ∧
        ((s.hart h.val).resv ≠ some (pa / 64) → Completes (.storeConditional h va size rd src) s fun t => went t ∧ gets t 1 ∧
          t.cpu.l2 = s.cpu.l2 ∧ (t.hart h.val).resv = none))) ∧
    (8 ≤ h.val → Completes (.cboZero h va) s fun t => s.Took t h.val false 2 0) ∧
    (h.val < 8 → (∀ c, s.cbzeFault h.val = some c → Completes (.cboZero h va) s fun t => s.Took t h.val false c 0) ∧
      ∀ pa v, s.cbzeFault h.val = none → s.piecesOf h.val .write (a / 64 * 64) 64 = (s, .ok [⟨a / 64 * 64, pa, 64, 0⟩]) →
        s.piecesCheck h.val (s.hartSag h.val) .write [⟨a / 64 * 64, pa, 64, 0⟩] = (s, none) → s.region pa = .dram → s.sb h.val = [] →
        s.epochMode (clusterOf h.val) = false → (s.dirAt (pa / 64)).txn = none → s.l2 h.val (pa / 64) = some v → v.st ≠ .s →
        Completes (.cboZero h va) s fun t => s.Went t h.val ((s.hart h.val).pc + 4) [] ∧ t.mem = s.mem ∧
          t.l2 h.val (pa / 64) = some { v with st := .m, data := 0, poison := false })

/-- Acquire, release and break. -/
def Obligations.LocksAreHeldByOneHart : Prop :=
  (∀ (a : Agent) (n : LockIdx) (s : State), s.Reached a true (EPO_LOCK n.val) 4 →
    (∀ h, a = .hart h →
      (s.get (EPO_LOCK_OWNER n.val) = 0xF → Completes (.lockAcquire a n) s fun t => t.get (EPO_LOCK_OWNER n.val) = s.lockHart h.val ∧
        t.get (EPO_LOCK_BROKEN n.val) = s.get (EPO_LOCK_BROKEN n.val) ∧ t.mem = s.mem ∧ t.cpu = s.cpu ∧ ∀ k, k ≠ EPO_LOCK n.val → t.rd k = s.rd k) ∧
      (s.get (EPO_LOCK_OWNER n.val) ≠ 0xF → Completes (.lockAcquire a n) s fun t => t = s) ∧
      (s.get (EPO_LOCK_OWNER n.val) = s.lockHart h.val → Completes (.lockRelease a n) s fun t => t.get (EPO_LOCK_OWNER n.val) = 0xF ∧
        t.get (EPO_LOCK_BROKEN n.val) = 0 ∧ t.mem = s.mem ∧ t.cpu = s.cpu ∧ ∀ k, k ≠ EPO_LOCK n.val → t.rd k = s.rd k) ∧
      (s.get (EPO_LOCK_OWNER n.val) ≠ s.lockHart h.val → Completes (.lockRelease a n) s fun t => t = s)) ∧
    ((∀ h, a ≠ .hart h) → Completes (.lockAcquire a n) s (fun t => t = s.ended a) ∧ Completes (.lockRelease a n) s fun t => t = s.ended a)) ∧
  (∀ (a : Agent) (n : LockIdx) (s : State),
    (isDap a = true → s.Reached a true DAP_LOCKREL 4 →
      (s.get (EPO_LOCK_OWNER n.val) = 0xF → Completes (.dapLockRelease a n) s fun t => t.get DAP_LOCKRES_STATUS = st8 .tooLate ∧
        t.rd (EPO_LOCK n.val) = s.rd (EPO_LOCK n.val)) ∧
      (s.get (EPO_LOCK_OWNER n.val) ≠ 0xF → s.invasive (s.hartWorld (s.get (EPO_LOCK_OWNER n.val))) = false → Completes (.dapLockRelease a n) s fun t =>
        t.get DAP_LOCKRES_STATUS = st8 .denied ∧ t.rd (EPO_LOCK n.val) = s.rd (EPO_LOCK n.val)) ∧
      (s.get (EPO_LOCK_OWNER n.val) ≠ 0xF → s.invasive (s.hartWorld (s.get (EPO_LOCK_OWNER n.val))) = true → Completes (.dapLockRelease a n) s fun t =>
        t.get DAP_LOCKRES_STATUS = st8 .ok ∧ t.get DAP_LOCKRES_OWNER = s.get (EPO_LOCK_OWNER n.val) ∧ t.get (EPO_LOCK_OWNER n.val) = 0xF ∧
        t.on (EPO_LOCK_BROKEN n.val) = true)) ∧
    (isDap a = false → s.agentLive a = true → Completes (.dapLockRelease a n) s fun t => t.get DAP_LOCKRES_STATUS = st8 .denied ∧
      t.rd (EPO_LOCK n.val) = s.rd (EPO_LOCK n.val)))

/-- The epochs of a cluster, by state; what commands leave alone is their own `t = s`. -/
def Obligations.EpochsCommitAndRollBack : Prop :=
  (∀ (a : Agent) (c : Cluster) (s : State),
    let k := c.val
    let begun (t : State) : Prop := t.get (EPO_STATUS_STATE k) = 1 ∧ (t.epoch k).lines = [] ∧ (t.epoch k).outq = [] ∧
      (t.epoch k).released = (s.epoch k).released ++ (s.epoch k).outq ∧ t.get (EPO_OUTQ_USED k) = 0
    let rolled (t : State) (cause run : Nat) : Prop := t.get (EPO_STATUS_STATE k) = 2 ∧ (t.epoch k).lines = [] ∧ (t.epoch k).outq = [] ∧
      t.get (EPO_RBCAUSE_CAUSE k) = cause ∧ t.on (EPO_IRQ_STATUS_ROLLBACK k) = true ∧ t.get (EPO_STATUS_RBRUN k) = run
    (s.epochMode k = true → s.get (EPO_STATUS_STATE k) = 0 → Completes (.epochTimerCommit c) s begun ∧
      (s.Reached a true (EPO_CMD k) 4 → isDap a = false → Completes (.epochCommitCmd a c) s begun)) ∧
    (s.epochMode k = false → Completes (.epochTimerCommit c) s (fun t => t = s) ∧
      (s.Reached a true (EPO_CMD k) 4 → Completes (.epochCommitCmd a c) s fun t => t = s.ended a)) ∧
    (s.get (EPO_STATUS_STATE k) = 1 → (s.epoch k).released = [] → Completes (.epochCommitDone c) s fun t => t.get (EPO_STATUS_STATE k) = 0 ∧
      t.get (EPO_COMMITS_COUNT k) = (s.get (EPO_COMMITS_COUNT k) + 1) % 2 ^ (EPO_COMMITS_COUNT k).w ∧ t.get (EPO_LASTCOMMIT_VT k) = s.vt 0 ∧
      t.get (EPO_STATUS_RBRUN k) = 0 ∧ t.mem = s.mem) ∧
    (∀ h w sl addr n v x y, s.get (EPO_STATUS_STATE k) = 1 → (s.epoch k).released = [.store h w sl addr n v] → s.region addr = .scratch x y →
      s.outputStatus h w sl addr n = .ok → Completes (.epochCommitDone c) s fun t => t.get (EPO_STATUS_STATE k) = 0 ∧ (t.epoch k).released = [] ∧
        t.bytesAt addr n = v % 2 ^ (8 * n)) ∧
    (s.get (EPO_STATUS_STATE k) ≠ 1 → Completes (.epochCommitDone c) s fun t => t = s) ∧
    (s.Reached a true (EPO_CMD k) 4 → isDap a = false →
      (s.agentWorld a = .secure → s.epochMode k = true → s.get (EPO_STATUS_STATE k) = 0 → Completes (.epochRollbackCmd a c) s fun t =>
        rolled t 3 ((s.get (EPO_STATUS_RBRUN k) + 1) % 2 ^ (EPO_STATUS_RBRUN k).w) ∧
        t.get (EPO_CNT_ROLLBACKS k) = (s.get (EPO_CNT_ROLLBACKS k) + 1) % 2 ^ (EPO_CNT_ROLLBACKS k).w) ∧
      (s.agentWorld a = .normal → Completes (.epochRollbackCmd a c) s fun t => t = s) ∧
      (s.get (EPO_STATUS_STATE k) = 3 → Completes (.epochResume a c) s fun t => rolled t 3 0) ∧
      (s.get (EPO_STATUS_STATE k) ≠ 3 → Completes (.epochResume a c) s fun t => t = s)) ∧
    (s.get (EPO_STATUS_STATE k) ≠ 2 → Completes (.epochRollbackDone c) s fun t => t = s) ∧
    (s.get (EPO_STATUS_STATE k) = 2 →
      let limit := s.get (EPO_CFG_RBLIMIT k) ≠ 0 ∧ s.get (EPO_CFG_RBLIMIT k) ≤ s.get (EPO_STATUS_RBRUN k)
      (limit → Completes (.epochRollbackDone c) s fun t => t.get (EPO_STATUS_STATE k) = 3 ∧ t.on (EPO_IRQ_STATUS_FAILED k) = true ∧ t.cpu = s.cpu) ∧
      (¬ limit → Completes (.epochRollbackDone c) s fun t => t.get (EPO_STATUS_STATE k) = 0 ∧ t.cpu = s.cpu ∧ t.mem = s.mem))) ∧
  (∀ (c : Cluster) (idx : Nat) (st : Status) (s : State) (h : Nat) (w : World) (sl : Option Nat) (addr n v : Nat),
    (s.epoch c.val).released[idx]? = some (.store h w sl addr n v) → st ≠ .ok →
    (s.get (EPO_STATUS_STATE c.val) = 1 → s.outputStatus h w sl addr n = st → Completes (.epochOutputRefused c idx st) s fun t =>
      (t.epoch c.val).released = (s.epoch c.val).released.eraseIdx idx ∧ t.get (EPO_OUTREF_STATUS c.val) = st8 st ∧
      t.get (EPO_OUTREF_ADDR c.val) = addr % 2 ^ (EPO_OUTREF_ADDR c.val).w ∧ t.on (EPO_IRQ_STATUS_OUTREFUSED c.val) = true ∧ t.mem.bytes = s.mem.bytes) ∧
    (s.outputStatus h w sl addr n ≠ st → Completes (.epochOutputRefused c idx st) s fun t => t = s))

/-- The commands of the lockstep unit. -/
def Obligations.LockstepDivergesAndRestarts : Prop :=
  ∀ (a : Agent) (p : Pair) (cause : LksCause) (addr : PAddr) (s : State),
    let k := p.val
    let c := clusterOf (2 * k)
    (s.on (LKS_STATUS_FUSED k) = true → s.on (LKS_STATUS_STOPPED k) = false → (s.hart (2 * k)).running = true →
      (s.epochMode c = false → Completes (.lockstepDivergence p cause addr) s fun t => t.on (LKS_STATUS_STOPPED k) = true ∧
        t.get (LKS_STATUS_KIND k) = lksKind cause ∧ t.get (LKS_CNT_COUNT k) = (s.get (LKS_CNT_COUNT k) + 1) % 2 ^ (LKS_CNT_COUNT k).w ∧
        t.mem.bytes = s.mem.bytes ∧ ∀ n < 64, t.get (EPO_LOCK_OWNER n) ≠ 2 * k) ∧
      (s.epochMode c = true → s.get (EPO_STATUS_STATE c) = 0 → Completes (.lockstepDivergence p cause addr) s fun t =>
        t.get (EPO_STATUS_STATE c) = 2 ∧ t.get (EPO_RBCAUSE_CAUSE c) = 1 ∧ (t.epoch c).outq = [] ∧ t.get (LKS_STATUS_KIND k) = lksKind cause)) ∧
    (s.on (LKS_STATUS_FUSED k) = false → Completes (.lockstepDivergence p cause addr) s fun t => t = s) ∧
    (s.Reached a true (LKS_CTL k) 4 →
      (s.on (LKS_STATUS_STOPPED k) = true → Completes (.lockstepRestart a p) s fun t => t.on (LKS_STATUS_STOPPED k) = false ∧
        (t.hart (2 * k)).running = true ∧ (t.hart (2 * k)).priv = .m ∧ (t.hart (2 * k)).world = .secure ∧ (t.hart (2 * k)).pos = 0) ∧
      (s.on (LKS_STATUS_STOPPED k) = false → Completes (.lockstepRestart a p) s fun t => t = s.ended a) ∧
      (s.agentWorld a = .secure → s.on (LKS_STATUS_FUSED k) = true → isDap a = false → Completes (.lockstepInject a p) s fun t =>
        t = { s with guard := { s.guard with inject := tabSet (fun _ => false) s.guard.inject k true } }) ∧
      (s.agentWorld a = .normal → Completes (.lockstepInject a p) s fun t => t = s.ended a))

/-- The commands of the watermark unit, and the end of any wedge. -/
def Obligations.WatermarkMovesByABurn : Prop :=
  (∀ (a : Agent) (new expect : BitVec 8) (s : State), s.Reached a true WMK_REQ 4 →
    let n := s.get WMK_STATUS_N
    let busy := s.on WMK_STATUS_BUSY = true ∨ s.on WDG_RES_BUSY = true
    let bad := 224 < new.toNat ∨ new.toNat = n ∨ n < new.toNat ∧ s.saggarBelow new.toNat = true
    let refused (st : Status) : Prop := Completes (.watermarkChange a new expect) s fun t => t.get WMK_STATUS_RESULT = st8 st ∧
      t.boot = s.boot ∧ t.world = s.world ∧ t.mem = s.mem
    (busy → refused .unavailable) ∧ (¬ busy → bad → refused .denied) ∧ (¬ busy → ¬ bad → expect.toNat ≠ n → refused .tooLate) ∧
    (¬ busy → ¬ bad → expect.toNat = n → s.boot.burn = none → s.get SUP_LEVELS_WARN ≤ s.get SUP_STATUS_VIN → s.coneSteps 0 < coneMax 0 →
      Completes (.watermarkChange a new expect) s fun t => t.get WMK_STATUS_RESULT = st8 .ok ∧ t.on WMK_STATUS_BUSY = true ∧
        t.get WMK_STATUS_TARGET = new.toNat ∧ t.get WMK_STATUS_N = n ∧ t.boot = { s.boot with burn := some ⟨0, 0, .watermark⟩ } ∧
        t.world = { s.world with wmk := some ⟨n, new.toNat, false⟩ } ∧ t.mem = s.mem)) ∧
  (∀ (s : State), s.mem.wedge = none → Completes .wedgeDone s fun t => t = s) ∧
  (∀ (s : State) (j : WedgeJob), s.mem.wedge = some j → s.runs MEM 2 = true →
    Completes .wedgeDone s fun t => t.mem.wedge = none ∧ t.on WDG_RES_BUSY = false ∧
      (∀ k, j.base ≤ k / 64 * 64 → k / 64 * 64 < j.base + 4096 * j.pages → j.filled.contains (k / 64) = false → tabGet byteDefault t.mem.bytes k = byteDefault k) ∧
      (∀ k, k / 64 * 64 < j.base ∨ j.base + 4096 * j.pages ≤ k / 64 * 64 → tabGet byteDefault t.mem.bytes k = tabGet byteDefault s.mem.bytes k) ∧
      (∀ w, s.world.wmk = some w → j.forWmk = true → t.get WMK_STATUS_N = w.new % 256 ∧ t.on WMK_STATUS_BUSY = false ∧ t.on WMK_STATUS_CLOSED = false ∧
        t.world.wmk = none ∧ t.on WMK_IRQ_STATUS_DONE = true)) ∧
  (∀ (s : State), s.world.wmk = none → Completes .watermarkRaiseDone s fun t => t = s) ∧
  (∀ (s : State) (w : WmkChange), s.world.wmk = some w → w.burnt = true → w.old < w.new → Completes .watermarkRaiseDone s fun t =>
    t.get WMK_STATUS_N = w.new % 256 ∧ t.on WMK_STATUS_BUSY = false ∧ t.world.wmk = none ∧ t.on WMK_IRQ_STATUS_DONE = true ∧ t.mem = s.mem)

/-- The commands of the hand-over controller. `moved` is the list of hand-overs with `h` in a new stage. -/
def Obligations.BlocksAreHandedOver : Prop :=
  let moved (s : State) (h : HovReq) (st : HovState) := s.world.hov.map (fun k => if k == h then { h with stage := st } else k)
  (∀ (a : Agent) (w : World) (block : BitVec 16) (s : State), s.Reached a true (HOV_W_REQ (worldNum w)) 4 → isDap a = false →
    let d := block.toNat / 256
    let b := hovBlk d (block.toNat % 256)
    let bad := 8 ≤ d ∨ blockListed block.toNat = false ∨ hovExcluded d b = true ∨ s.domPresent d = false
    let idle := ∀ h ∈ s.world.hov, ¬ (h.dom = d ∧ h.blk = b)
    let refused (st : Status) : Prop := Completes (.handoverRequest a w block) s fun t => t.get (HOV_W_RES_STATUS (worldNum w)) = st8 st ∧
      t.get (HOV_W_RES_BLOCK (worldNum w)) = block.toNat ∧ t.world = s.world ∧ t.mem = s.mem
    let gives := s.owner d (blkFirst d (block.toNat % 256)) = w
    (bad → refused .denied) ∧
    (∀ h, ¬ bad → s.world.hov.find? (fun h => h.dom == d && h.blk == b) = some h →
      (¬ (w = .secure ∧ gives ∧ h.stage = .requested) → refused .unavailable) ∧
      (w = .secure → gives → h.stage = .requested → s.outOfReset d = true → Completes (.handoverRequest a w block) s fun t =>
        t.world.hov = moved s h .quiescing ∧ t.on HOV_S_PEND_VALID = false)) ∧
    (¬ bad → idle → w = .secure ∨ gives → s.outOfReset d = false → refused .fenced) ∧
    (¬ bad → idle → s.outOfReset d = true → gives → Completes (.handoverRequest a w block) s fun t =>
      t.world.hov = s.world.hov ++ [⟨d, b, w, otherWorld w, .quiescing, s.ticks⟩]) ∧
    (¬ bad → idle → s.outOfReset d = true → ¬ gives → w = .secure → Completes (.handoverRequest a w block) s fun t =>
      t.world.hov = s.world.hov ++ [⟨d, b, w, w, .quiescing, s.ticks⟩]) ∧
    (¬ bad → idle → s.outOfReset d = true → ¬ gives → w = .normal → (∀ h ∈ s.world.hov, h.stage ≠ .requested) →
      Completes (.handoverRequest a w block) s fun t => t.world.hov = s.world.hov ++ [⟨d, b, w, w, .requested, s.ticks⟩] ∧
        t.on HOV_S_PEND_VALID = true ∧ t.get HOV_S_PEND_BLOCK = block.toNat)) ∧
  (∀ (a : Agent) (w : World) (s : State), s.Reached a true (HOV_W_REQ (worldNum w)) 4 →
    ((∀ h ∈ s.world.hov, ¬ (h.stage = .requested ∧ h.req = w)) → Completes (.handoverWithdraw a w) s fun t =>
      t.get (HOV_W_RES_STATUS (worldNum w)) = st8 .tooLate ∧ t.world = s.world) ∧
    (∀ h, s.world.hov.find? (fun h => h.stage == .requested && h.req == w) = some h → Completes (.handoverWithdraw a w) s fun t =>
      t.world.hov = s.world.hov.filter (fun k => k != h) ∧ t.on HOV_S_PEND_VALID = false)) ∧
  (∀ (a : Agent) (s : State), s.Reached a true HOV_S_CONSENT 4 →
    (s.hovWaiting = none → Completes (.handoverGrant a) s (fun t => t = s.ended a) ∧ Completes (.handoverRefuse a) s fun t => t = s.ended a) ∧
    (∀ h, s.hovWaiting = some h → Completes (.handoverGrant a) s (fun t => t.world.hov = moved s h .quiescing ∧ t.on HOV_S_PEND_VALID = false) ∧
      Completes (.handoverRefuse a) s fun t => t.world.hov = s.world.hov.filter (fun k => k != h) ∧ t.on HOV_S_PEND_VALID = false)) ∧
  (∀ (dom : DomId) (blk : BitVec 8) (s : State),
    (∀ h, s.hovAt dom.val blk.toNat .quiescing = some h → Completes (.quiesceEnd dom blk) s fun t => t.world.hov = moved s h .resetting) ∧
    (s.hovAt dom.val blk.toNat .quiescing = none → Completes (.quiesceEnd dom blk) s fun t => t = s) ∧
    (∀ h, s.hovAt dom.val blk.toNat .resetting = some h → Completes (.blockResetComplete dom blk) s fun t => t.world.hov = moved s h .reassigning ∧
      t.mem = s.mem ∧ t.cpu = s.cpu) ∧
    (s.hovAt dom.val blk.toNat .resetting = none → Completes (.blockResetComplete dom blk) s fun t => t = s) ∧
    (∀ h, s.hovAt dom.val blk.toNat .reassigning = some h → s.world.pmPending = none → Completes (.handoverReassign dom blk) s fun t =>
      t.world.hov = s.world.hov.filter (fun k => k != h) ∧ t.owner h.dom h.blk = h.dst) ∧
    (s.hovAt dom.val blk.toNat .reassigning = none → Completes (.handoverReassign dom blk) s fun t => t = s))

/-- The commands of consent and of the secure watchdog. -/
def Obligations.ConsentAndWatchdogComplete : Prop :=
  (∀ (a : Agent) (s : State), s.Reached a true HOV_S_PMCONSENT 4 →
    (s.world.pmPending = none → Completes (.pmConsentGrant a) s (fun t => t = s.ended a) ∧ Completes (.pmConsentRefuse a) s fun t => t = s.ended a) ∧
    (∀ d src port, s.world.pmPending = some (d, src, port) → Completes (.pmConsentGrant a) s (fun t => t.world.pmPending = none) ∧
      Completes (.pmConsentRefuse a) s fun t => t.world.pmPending = none ∧ t.get (PWR_W_RES_STATUS 1) = st8 .denied ∧ t.on (PWR_W_RES_PEND 1) = false ∧
        (d < 8 → bitAt (t.get (PWR_W_DOMREQ_OFF 1)) d = false) ∧ t.on HOV_S_PMPEND_VALID = false)) ∧
  (∀ (a : Agent) (c : Fin 2) (seq : BitVec 16) (s : State), s.Reached a true (SWD_KICK c.val) 4 → isDap a = false →
    let late := tabGet (fun _ => none) s.world.swdExp c.val = some s.ticks
    (late → Completes (.swdKick a c seq) s fun t => t.get (SWD_CLS_RESULT c.val) = st8 .tooLate ∧ t.world = s.world) ∧
    (¬ late → seq.toNat ≠ s.get (SWD_CLS_NEXT c.val) → Completes (.swdKick a c seq) s fun t => t.get (SWD_CLS_RESULT c.val) = st8 .stale ∧
      t.get (SWD_CLS_NEXT c.val) = s.get (SWD_CLS_NEXT c.val) ∧ t.world = s.world) ∧
    (¬ late → seq.toNat = s.get (SWD_CLS_NEXT c.val) → Completes (.swdKick a c seq) s fun t => t.get (SWD_CLS_RESULT c.val) = st8 .ok ∧
      t.get (SWD_CLS_NEXT c.val) = (seq.toNat + 1) % 65536 ∧ tabGet (fun _ => 0) t.world.swdLeft c.val = 250000 * s.swdMs c.val ∧
      (c = 1 → t.on SWD_STATUS_TSDOWN = false ∧ t.get SWD_STATUS_TSEXP = 0) ∧ t.mem = s.mem)) ∧
  (∀ (c : Fin 2) (s : State),
    (s.swdRuns = true → Completes (.swdWarn c) s fun t => bitAt (t.get SWD_IRQ_STATUS_WARN) c.val = true ∧ t.world = s.world) ∧
    (s.swdRuns = false → Completes (.swdWarn c) s (fun t => t = s) ∧ Completes .swdClass0Expire s (fun t => t = s) ∧
      Completes .swdClass1Expire s fun t => t = s)) ∧
  (∀ s : State, s.swdRuns = true →
    (s.boot.resetWait = none → Completes .swdClass0Expire s fun t => t.boot = { s.boot with resetWait := some 3 } ∧
      tabGet (fun _ => none) t.world.swdExp 0 = some s.ticks) ∧
    Completes .swdClass1Expire s fun t => t.get SWD_STATUS_TSEXP = Nat.min 255 (s.get SWD_STATUS_TSEXP + 1) ∧ t.on SWD_STATUS_TSDOWN = true ∧
      t.on SWD_IRQ_STATUS_TSEXP = true ∧ (∀ n < 64, t.get (EPO_LOCK_OWNER n) ≠ 12) ∧ t.mem.bytes = s.mem.bytes ∧
      (s.boot.imageRunning = true → t.hart 12 = { HartSt.init with running := true, pc := s.world.wardenEntry }))

/-- Power states of domains, blocks and cores. -/
def Obligations.DomainsAndCoresChangePower : Prop :=
  (∀ (d : DomId) (s : State),
    (d.val = AON ∨ s.outOfReset d.val = false → Completes (.domainResetEnter d) s fun t => t = s) ∧
    (d.val ≠ AON → s.outOfReset d.val = true → Completes (.domainResetEnter d) s fun t => (t.dom d.val).inReset = true ∧ (t.dom d.val).fence = false) ∧
    (s.booted = true → (s.dom d.val).power = .up → (s.dom d.val).inReset = true → (d.val = APC → s.fenceOpen MEM = true) →
      Completes (.domainPllLock d) s fun t => (t.dom d.val).inReset = false ∧ (t.dom d.val).fence = false ∧ (t.dom d.val).power = .up) ∧
    (s.booted = true → (s.dom d.val).power = .up → (s.dom d.val).inReset = false → Completes (.domainWedgeDone d) s fun t =>
      (t.dom d.val).fence = true ∧ (t.dom d.val).power = .on ∧ t.get (PWR_DOMSTATE_STATE d.val) = 2) ∧
    ((s.dom d.val).power = .down → s.domQuiet d.val = true → Completes (.domainIsolated d) s fun t =>
      (t.dom d.val).power = .off ∧ (t.dom d.val).fence = false ∧ t.get (PWR_DOMSTATE_STATE d.val) = 0) ∧
    ((s.dom d.val).power = .down → s.domQuiet d.val = false → Completes (.domainIsolated d) s fun t => t = s)) ∧
  (∀ (a : Agent) (w : World) (d : DomId) (s : State), s.Reached a true (PWR_W_DOMREQ (worldNum w)) 4 →
    let status (t : State) (st : Status) (pend : Bool) : Prop := t.get (PWR_W_RES_STATUS (worldNum w)) = st8 st ∧ t.on (PWR_W_RES_PEND (worldNum w)) = pend
    let bit (t : State) : Bool := bitAt (t.get (PWR_W_DOMREQ_OFF (worldNum w))) d.val
    (d.val = AON ∨ d.val = SEC → Completes (.domainPowerDownReq a w d) s (fun t => status t .denied false ∧ bit t = bit s ∧ t.power = s.power) ∧
      Completes (.domainPowerUpReq a w d) s fun t => status t .denied false ∧ bit t = bit s ∧ t.power = s.power) ∧
    (d.val ≠ AON → d.val ≠ SEC →
      (w = .normal → s.world.pmPending.isSome = true → Completes (.domainPowerDownReq a w d) s fun t => status t .unavailable true ∧ t.power = s.power) ∧
      (w = .normal → s.world.pmPending = none → s.secureBlocks d.val = true → Completes (.domainPowerDownReq a w d) s fun t => status t .ok true ∧
        bit t = true ∧ t.world.pmPending = some (d.val, agentSrc a, agentPort a) ∧ t.power.gated = s.power.gated) ∧
      ((w = .secure ∨ s.world.pmPending = none ∧ s.secureBlocks d.val = false) → Completes (.domainPowerDownReq a w d) s fun t => status t .ok false ∧ bit t = true) ∧
      (∀ x y, w = .normal → s.world.pmPending = some (d.val, x, y) → Completes (.domainPowerUpReq a w d) s fun t => status t .ok false ∧ bit t = false ∧
        t.world.pmPending = none) ∧
      ((w = .secure ∨ s.world.pmPending = none) → Completes (.domainPowerUpReq a w d) s fun t => status t .ok false ∧ bit t = false))) ∧
  (∀ (a : Agent) (w : World) (block : BitVec 16) (s : State), s.Reached a true (PWR_W_GATE (worldNum w)) 4 → 
    let d := block.toNat / 256 % 8
    let b := block.toNat % 256
    let st (t : State) (x : Status) : Prop := t.get (PWR_W_RES_STATUS (worldNum w)) = st8 x
    (d = AON ∨ d = SEC ∨ w = .normal ∧ s.normalOwned d b = false → Completes (.blockClockGate a w block) s (fun t => st t .denied ∧ t.power = s.power) ∧
      Completes (.blockClockUngate a w block) s fun t => st t .denied ∧ t.power = s.power) ∧
    (d ≠ AON → d ≠ SEC → w = .secure ∨ s.normalOwned d b = true ∧ s.world.pmPending = none → block.toNat / 256 < 8 → blockListed block.toNat = true →
      s.blockUnpowered block.toNat = false → Completes (.blockClockUngate a w block) s (fun t => st t .ok ∧
        ((s.dom d).emul = false → t.clocked d b = true)) ∧
      (s.blockIdle d b = true → Completes (.blockClockGate a w block) s fun t => st t .ok ∧ t.clocked d b = false) ∧
      (s.blockIdle d b = false → Completes (.blockClockGate a w block) s fun t => st t .unavailable ∧ t.power = s.power))) ∧
  (∀ (a : Agent) (c : AppCore) (req : BitVec 2) (s : State), s.Reached a true (PWR_S_CORE c.val) 4 →
    (s.coreAbsent c.val = true ∨ req = 3 → Completes (.corePowerReq a c req) s fun t => t = s.ended a) ∧
    (s.coreAbsent c.val = false → req ≠ 3 → (req ≠ 0 → Completes (.corePowerReq a c req) s fun t => t.get (PWR_S_CORE_REQ c.val) = req.toNat ∧ t.cpu = s.cpu) ∧
      (req = 0 → s.get (PWR_S_CORE_STATE c.val) ≠ 0 → s.outOfReset APC = true → Completes (.corePowerReq a c req) s fun t =>
        (t.hart c.val).running = true ∧ t.get (PWR_S_CORE_STATE c.val) = 0))) ∧
  (∀ (c : AppCore) (s : State),
    let r := s.get (PWR_S_CORE_REQ c.val)
    let ready := s.coreAbsent c.val = false ∧ s.outOfReset APC = true ∧ (s.hart c.val).wfi = true ∧ (s.hart c.val).sb = [] ∧ (s.hart c.val).dev = none ∧
      s.get (PWR_S_CORE_STATE c.val) < r
    (ready → r = 1 → Completes (.corePowerTransition c) s fun t => (t.hart c.val).running = false ∧ t.get (PWR_S_CORE_STATE c.val) = 1 ∧ t.mem = s.mem) ∧
    (ready → r ≠ 1 → s.dbgm.active = false → Completes (.corePowerTransition c) s fun t => t.hart c.val = HartSt.init ∧
      t.get (ACC_STATUS_POWER c.val) = 0 ∧ t.get (PWR_S_CORE_STATE c.val) = 2) ∧
    (¬ ready → Completes (.corePowerTransition c) s fun t => t = s))

/-- Modes, clocks, timer and wake. -/
def Obligations.ModesAndWakeComplete : Prop :=
  (∀ (c : Cluster) (s : State), s.outOfReset APC = true → Completes (.apcClockStep c) s fun t =>
    let v := s.get (clkFld c.val)
    let l := s.apcLimit c.val
    t.get (clkFld c.val) = (if l < v then Nat.max l (v - 100) else Nat.min l (v + 100)) % 2 ^ (clkFld c.val).w ∧ t.power = s.power ∧ t.cpu = s.cpu) ∧
  (∀ (draw : BitVec 10) (s : State), s.outOfReset AON = true → s.power.layout < 2 → 2 ≤ s.get FIRE_STATUS_STAGE → Completes (.governorPowerSample draw) s fun t =>
    t.get PWR_GOV_DRAW = draw.toNat ∧ (s.effBudget < draw.toNat → ∀ c < 2, t.capOf c = Nat.max 400 (Nat.min (s.capOf c) (modeClock (s.get PWR_GOV_MODE)) - 100))) ∧
  (∀ (a : Agent) (w : World) (req : BitVec 2) (s : State), s.Reached a true (PWR_W_MODEREQ (worldNum w)) 4 → Completes (.modeRequest a w req) s fun t =>
    t.get (PWR_W_MODEREQ_REQ (worldNum w)) = req.toNat ∧ t.get PWR_GOV_EFFECTIVE = s.effBudget % 2 ^ PWR_GOV_EFFECTIVE.w) ∧
  (∀ s : State, s.ldg.closing = none → s.coresDrained = true → s.entering = true →
    (s.get PWR_GOV_MODE = 2 → Completes .keepEntry s fun t => t.power.layout = 2 ∧ (t.dom SEC).power = .ret ∧ (t.dom SEC).fence = false ∧
      (s.emulEntry = false → ∀ d ∈ [HST, SNS, APC, MEM], (t.dom d).power = .off)) ∧
    (s.get PWR_GOV_MODE = 3 → Completes .sleepEntry s fun t => t.power.layout = 3 ∧ (s.emulEntry = false → ∀ d ∈ downOrder, (t.dom d).power = .off))) ∧
  (∀ s : State, s.entering = false → Completes .keepEntry s (fun t => t = s) ∧ Completes .sleepEntry s fun t => t = s) ∧
  (∀ s : State, s.booted = true → 2 ≤ s.power.layout → s.get PWR_GOV_MODE < s.power.layout → s.asleep = false → s.get PWR_GOV_MODE < 2 →
    Completes .keepExit s fun t => t.power.layout = s.get PWR_GOV_MODE ∧ (t.dom SEC).power = .on ∧ (t.dom SEC).fence = true) ∧
  (∀ s : State, s.power.sup.supplied = true →
    (s.aotTracks = true → Completes .alwaysOnEdge s fun t => t.power.aot = 2 ^ 32 * s.vt 0 ∧ t.power.aotValid = true ∧ t.on AOT_STATUS_TRACKING = true) ∧
    (s.aotTracks = false → s.power.aotValid = true → Completes .alwaysOnEdge s fun t => t.power.aot = (s.power.aot + s.get AOT_RATE_RATE) % 2 ^ 96 ∧
      t.on AOT_STATUS_TRACKING = false ∧ t.time = s.time)) ∧
  (∀ (p : BitVec 48) (s : State), s.outOfReset AON = true → s.on AOT_STATUS_TRACKING = true → s.aotTracks = true → 3 ≤ s.syncState 0 → s.on AOT_CTL_LEARN = true →
    Completes (.aotRateLearn p) s fun t => t.get AOT_RATE_RATE = p.toNat ∧ t.on AOT_STATUS_LEARNED = true ∧ t.power = s.power) ∧
  (∀ s : State, s.outOfReset AON = true → s.on AOT_CTL_ALARM_EN = true → s.power.aotValid = true →
    (s.rd AOT_ALARM ≤ s.power.aot / 2 ^ 32 → s.wakeOn 0 = false → Completes .aotAlarmFire s fun t => t.on AOT_CTL_ALARM_EN = false ∧
      t.on AOT_IRQ_STATUS_ALARM = true ∧ t.power = s.power) ∧
    (s.power.aot / 2 ^ 32 < s.rd AOT_ALARM → Completes .aotAlarmFire s fun t => t = s)) ∧
  (∀ (n : Pin) (c : Fin 2) (s : State),
    (s.wakeOn 5 = true → bitAt (s.get WAKE_EN_PINS) n.val = true → s.asleep = false → Completes (.wakeEvent (.pin n)) s fun t =>
      bitAt (t.get WAKE_CAUSE_CAUSE) 5 = true ∧ t.get (PWR_W_MODEREQ_REQ 0) = 0 ∧ t.get (PWR_W_MODEREQ_REQ 1) = 0 ∧
      (s.get WAKE_CAUSE_FIRST = 0 → t.get WAKE_CAUSE_FIRST = 6)) ∧
    (s.wakeOn 5 = false ∨ bitAt (s.get WAKE_EN_PINS) n.val = false → Completes (.wakeEvent (.pin n)) s fun t => t = s) ∧
    (s.wakeOn (3 + c.val) = true → s.canArmed c.val = true → s.asleep = true → Completes (.wakeEvent (.can c)) s fun t =>
      t.boot.booting = true ∧ t.boot.wakeBoot = true ∧ t.power.bootCause = 4)) ∧
  (∀ (a : Agent) (s : State), s.Reached a true WAKE_SWREQ 4 →
    (∀ h, a = .hart h → 8 ≤ h.val → h.val < 12 → s.wakeOn 6 = true → s.get PWR_GOV_MODE = 2 → s.asleep = false → Completes (.wakeSwRequest a) s fun t =>
      bitAt (t.get WAKE_CAUSE_CAUSE) 6 = true ∧ t.get (PWR_W_MODEREQ_REQ 0) = 0) ∧
    (∀ h, a = .hart h → h.val < 8 ∨ h.val = 12 → Completes (.wakeSwRequest a) s fun t => t = s))

/-- The events of the supply monitor. -/
def Obligations.SupplyEventsComplete : Prop :=
  (∀ (vin : Nat) (s : State), s.outOfReset AON = true →
    (s.get SUP_STATUS_INPUT = 0 → s.on SUP_STATUS_PODL_OK = true → Completes (.inputSwitchover true vin) s fun t => t.get SUP_STATUS_INPUT = 1 ∧
      t.get SUP_LEVELS_WARN = nominal (podlNominal s.power.sup.podlClass) * 80 / 100 % 2 ^ SUP_LEVELS_WARN.w) ∧
    (s.get SUP_STATUS_INPUT = 1 → vsupIn vin = true → Completes (.inputSwitchover false vin) s fun t => t.get SUP_STATUS_INPUT = 0 ∧
      t.get SUP_LEVELS_WARN = nominal (vsupNominal vin) * 80 / 100 % 2 ^ SUP_LEVELS_WARN.w) ∧
    (s.get SUP_STATUS_INPUT = 0 → vsupIn vin = false → Completes (.inputSwitchover false vin) s fun t => t = s)) ∧
  (∀ (vin : Nat) (s : State),
    (s.power.sup.supplied = false → Completes (.podlPowerArrive vin) s fun t => t.power.sup.supplied = true ∧ t.get SUP_STATUS_INPUT = 1 ∧
      (s.power.porst = true → t.boot.booting = true ∧ t.power.bootCause = 0)) ∧
    (s.power.sup.supplied = true → s.get SUP_STATUS_INPUT = 1 → s.wakeOn 1 = false → Completes (.podlPowerArrive vin) s fun t =>
      t.on SUP_STATUS_PODL_OK = true ∧ t.power = { s.power with sup := { s.power.sup with podlVin := vin } })) ∧
  (∀ (vin : Nat) (s : State), s.supMon = true →
    (vin < s.get SUP_LEVELS_WARN →
      (s.on SUP_STATUS_DIP = false → Completes (.dipStart vin) s fun t => t.on SUP_STATUS_DIP = true ∧ t.get SUP_STATUS_VIN = vin ∧ t.on PWR_APCCLK_CLAMP = true ∧
        (∀ c < 2, t.get (clkFld c) ≤ 400) ∧ t.get SUP_DIPCNT_DIPS = (s.get SUP_DIPCNT_DIPS + 1) % 2 ^ SUP_DIPCNT_DIPS.w ∧ t.power.sup.lowest = vin) ∧
      (s.on SUP_STATUS_DIP = true → Completes (.dipStart vin) s fun t => t.power.sup.restoring = false ∧ t.power.sup.lowest = Nat.min s.power.sup.lowest vin)) ∧
    (s.get SUP_LEVELS_WARN ≤ vin → Completes (.dipStart vin) s fun t => t = s) ∧
    (s.get SUP_LEVELS_RESTORE ≤ vin → s.on SUP_STATUS_DIP = true → Completes (.inputAboveRestore vin) s fun t => t.power.sup.restoring = true ∧ t.mem = s.mem) ∧
    (s.on SUP_STATUS_DIP = true → s.power.sup.restoring = true → Completes .dipEnd s fun t => t.on SUP_STATUS_DIP = false ∧ t.on PWR_APCCLK_CLAMP = false ∧
      t.get SUP_DIPCNT_LONGEST = Nat.min (Nat.max (s.get SUP_DIPCNT_LONGEST) s.dipUs) (2 ^ 32 - 1) % 2 ^ SUP_DIPCNT_LONGEST.w ∧ t.power.sup.restoring = false) ∧
    (s.on SUP_STATUS_DIP = false ∨ s.power.sup.restoring = false → Completes .dipEnd s fun t => t = s) ∧
    (s.power.sup.supplyReset = false → vin < s.get SUP_LEVELS_RESET → Completes (.supplyBelowReset vin) s fun t => t.power.sup.holdup = true ∧
      t.on SUP_STATUS_DIP = false ∧ t.power.sup.overVolt = false) ∧
    (s.get SUP_STATUS_INPUT = 0 → s.on SUP_STATUS_PODL_OK = false →
      (6100 < vin → s.power.sup.supplyReset = false → Completes (.vsupOutOfRange true vin) s fun t => t.power.sup.holdup = true ∧ t.power.sup.overVolt = true ∧
        t.on SUP_STATUS_VSUP_OK = false) ∧
      (vin < 870 → Completes (.vsupOutOfRange false vin) s fun t => t.on SUP_STATUS_VSUP_OK = false ∧ t.get SUP_STATUS_VIN = vin ∧
        t.power.sup.holdup = s.power.sup.holdup)) ∧
    (s.power.sup.supplyReset = true → s.power.sup.restoring = true → s.power.sup.overVolt = false → Completes .resetRecovery s fun t =>
      t.boot.booting = true ∧ t.power.bootCause = 0 ∧ t.mticks = 0 ∧ t.power.sup.supplyReset = false) ∧
    (s.power.sup.supplyReset = true → s.power.sup.overVolt = true → vsupIn vin = true → Completes (.vsupRangeStable vin) s fun t =>
      t.boot.booting = true ∧ t.power.bootCause = 0 ∧ t.power.sup.overVolt = false)) ∧
  (∀ s : State, s.power.sup.holdup = true → Completes .holdupEnd s fun t => t.power.sup.holdup = false ∧ t.power.sup.supplyReset = true ∧
    (∀ d ∈ downOrder, (t.dom d).power = .off ∧ (t.dom d).inReset = true) ∧ t.boot.booting = false) ∧
  (∀ s : State, s.power.sup.holdup = false → Completes .holdupEnd s fun t => t = s) ∧
  (∀ s : State, s.power.sup.supplied = true → Completes .aonDropout s fun t => t.power.sup.supplied = false ∧ t.power.aotValid = false ∧
    (∀ d ∈ downOrder, (t.dom d).power = .off) ∧ t.dbgm = .init) ∧
  (∀ s : State, s.power.sup.supplied = false → Completes .aonDropout s fun t => t = s)

/-- The commands of the debug module and of the cross-trigger matrix. -/
def Obligations.DebugEntersAndResumes : Prop :=
  (∀ (h : Hart) (s : State),
    let k := s.debugHart h.val
    (s.dbgm.active = false ∨ s.outOfReset AON = false → Completes (.haltRequest h) s (fun t => t = s) ∧ Completes (.resumeRequest h) s fun t => t = s) ∧
    (s.dbgm.active = true → s.outOfReset AON = true →
      ((s.hart k).halted = true → Completes (.haltRequest h) s fun t => t = s) ∧
      ((s.hart k).halted = false → s.debugReach k = true → s.invasive (s.hartWorld k) = true → s.epochMode (clusterOf k) = false → s.get (XTRG_IN_CH k) = 0 →
        s.inSaggar k = false → Completes (.haltRequest h) s fun t => (t.hart k).halted = true ∧ t.csr k csrDpc = (s.hart k).pc % 2 ^ hartXlen k ∧
          bitsOf (t.csr k csrDcsr) 6 3 = 3 ∧ bitsOf (t.csr k csrDcsr) 0 2 = privNum (s.hart k).priv ∧ bitAt (t.csr k csrDcsr) 5 = virt (s.hart k).priv ∧
          (t.hart k).resv = none ∧ (∀ r, t.xreg k r = s.xreg k r) ∧ t.mem = s.mem) ∧
      ((s.hart k).halted = false → s.debugReach k = false ∨ s.invasive (s.hartWorld k) = false → Completes (.haltRequest h) s fun t =>
        tabGet (fun _ => false) t.dbgm.haltReq k = true ∧ t.cpu = s.cpu) ∧
      ((s.hart k).halted = true → s.debugReach k = true → Completes (.resumeRequest h) s fun t => (t.hart k).halted = false ∧
        (t.hart k).pc = s.csr k csrDpc ∧ (t.hart k).priv = privOf (bitsOf (s.csr k csrDcsr) 0 2) (bitAt (s.csr k csrDcsr) 5) ∧
        (∀ r, t.xreg k r = s.xreg k r) ∧ t.mem = s.mem) ∧
      ((s.hart k).halted = false → Completes (.resumeRequest h) s fun t => tabGet (fun _ => false) t.dbgm.haltReq k = false ∧ t.cpu = s.cpu))) ∧
  (∀ s : State, s.outOfReset AON = true →
    (s.dbgm.active = false → Completes .debugAttach s (fun t => t = { s with dbgm := { s.dbgm with active := true } }) ∧
      Completes .debugDetach s fun t => t = s) ∧
    (s.dbgm.active = true → Completes .debugAttach s (fun t => t = s) ∧ Completes .debugDetach s fun t => t.dbgm = .init)) ∧
  (∀ (a : Agent) (ch : BitVec 16) (s : State), s.Reached a true XTRG_PULSE 4 → ch ≠ 0 →
    ((∀ k < 29, Nat.land (s.get (XTRG_OUT_CH k)) ch.toNat = 0) → Completes (.xtrgPulse a ch) s fun t => t = (s.raise XTRG_STATUS_SEEN ch.toNat).ended a) ∧
    (∀ h : Hart, (∀ k < 29, k ≠ h.val → Nat.land (s.get (XTRG_OUT_CH k)) ch.toNat = 0) → Nat.land (s.get (XTRG_OUT_CH h.val)) ch.toNat ≠ 0 →
      s.debugReach h.val = true → s.debugHart h.val = h.val → (s.hart h.val).halted = false → s.epochMode (clusterOf h.val) = false →
      s.get (XTRG_IN_CH h.val) = 0 →
      (s.invasive (s.hartWorld h.val) = true → Completes (.xtrgPulse a ch) s fun t => (t.hart h.val).halted = true ∧ bitsOf (t.csr h.val csrDcsr) 6 3 = 6) ∧
      (s.invasive (s.hartWorld h.val) = false → Completes (.xtrgPulse a ch) s fun t => t.cpu = s.cpu ∧
        t.get XTRG_STATUS_DROPPED = (s.get XTRG_STATUS_DROPPED + 1) % 2 ^ XTRG_STATUS_DROPPED.w))) ∧
  (∀ (n : Pin) (rising : Bool) (phase : Fin 8) (ns : Nat) (s : State),
    (s.edgeTaken n.val rising phase.val ns = false → Completes (.tpCaptureEdge n rising phase ns) s fun t => t = s) ∧
    (s.edgeTaken n.val rising phase.val ns = true → s.get (XTRG_IN_CH (32 + n.val)) = 0 → (s.pin n.val).fifo.length < 16 →
      Completes (.tpCaptureEdge n rising phase ns) s fun t => (t.pin n.val).fifo.length = (s.pin n.val).fifo.length + 1)) ∧
  (∀ (h : Hart) (c : AbsCmd) (s : State), s.dbgm.active = true → s.outOfReset AON = true →
    let k := s.debugHart h.val
    ((s.hart k).halted = false ∨ s.invasive (s.hartWorld k) = false → Completes (.abstractCommand h c) s fun t => t = s.absEnd 4) ∧
    ((s.hart k).halted = true → s.invasive (s.hartWorld k) = true → ∀ (r : Fin 32) (v : Word),
      Completes (.abstractCommand h (.readReg (0x1000 + BitVec.ofNat 16 r.val))) s (fun t => t = s.absData (s.xreg k r.val)) ∧
      Completes (.abstractCommand h (.writeReg (0x1000 + BitVec.ofNat 16 r.val) v)) s (fun t => t.dbgm.cmderr = 0 ∧
        (r.val ≠ 0 → t.xreg k r.val = v.toNat % 2 ^ hartXlen k) ∧ (∀ q, q ≠ r.val → t.xreg k q = s.xreg k q) ∧ t.mem = s.mem) ∧
      (∀ no, csrKnown k no.toNat = false → no.toNat < 0x1000 → Completes (.abstractCommand h (.readReg no)) s fun t => t = s.absEnd 3) ∧
      (∀ va, va.toNat % 2 ^ hartXlen k % 4 ≠ 0 → Completes (.abstractCommand h (.readMem .b4 va)) s fun t => t = s.absEnd 5)))

/-- The commands of the watchdogs of the cores and of the performance counters. -/
def Obligations.CoreWatchdogsAndCountersComplete : Prop :=
  (∀ (a : Agent) (c : AppCore) (s : State), s.Reached a true (CWD_KICK c.val) 4 →
    (tabGet (fun _ => none) s.guard.cwdExp c.val = some s.ticks → Completes (.cwdKick a c) s fun t => t = s.ended a) ∧
    (tabGet (fun _ => none) s.guard.cwdExp c.val ≠ some s.ticks → Completes (.cwdKick a c) s fun t =>
      tabGet (fun _ => 0) t.guard.cwdLeft c.val = 250 * s.get (CWD_CFG_PERIOD_US c.val) ∧ t.cpu = s.cpu ∧ t.mem = s.mem)) ∧
  (∀ (c : AppCore) (s : State),
    (s.cwdRuns c.val = false → Completes (.cwdExpire c) s fun t => t = s) ∧
    (s.cwdRuns c.val = true → s.on (CWD_STATUS_EXPIRED c.val) = false → Completes (.cwdExpire c) s fun t => t.on (CWD_STATUS_EXPIRED c.val) = true ∧ t.cpu = s.cpu) ∧
    (s.cwdRuns c.val = true → s.on (CWD_STATUS_EXPIRED c.val) = true → s.on (CWD_CFG_RESTART c.val) = false → Completes (.cwdExpire c) s fun t => t.cpu = s.cpu) ∧
    (s.cwdRuns c.val = true → s.on (CWD_STATUS_EXPIRED c.val) = true → s.on (CWD_CFG_RESTART c.val) = true → Completes (.cwdExpire c) s fun t =>
      t.on (CWD_STATUS_RESTARTED c.val) = true ∧ (t.hart c.val).running = true ∧ (t.hart c.val).priv = .m ∧ (t.hart c.val).world = .secure ∧
      (t.hart c.val).pos = 0 ∧ (t.hart c.val).sb = (s.hart c.val).sb)) ∧
  (∀ (a : Agent) (b : PmuBlock) (i : BitVec 7) (v : BitVec 32) (s : State), s.Reached a true (PMU_CNT (pmuBase b) i.toNat) 4 →
    (pmuN (.page (pmuBase b)) ≤ i.toNat ∨ s.pmuMirror b = true → ∀ inc, Completes (.pmuCounterWrite a b i v inc) s fun t => t = s.ended a) ∧
    (i.toNat < pmuN (.page (pmuBase b)) → s.pmuMirror b = false →
      Completes (.pmuCounterWrite a b i v false) s (fun t => t = (s.put (pmuCnt (.page (pmuBase b)) i.toNat) v.toNat).ended a) ∧
      Completes (.pmuCounterWrite a b i v true) s fun t => t.get (pmuCnt (.page (pmuBase b)) i.toNat) = v.toNat ∧
        (s.get (pmuCnt (.page (pmuBase b)) i.toNat) = 0xFFFFFFFF → i.toNat = 0 → t.on (pmuOvf (.page (pmuBase b)) i.toNat) = true) ∧
        (s.get (pmuCnt (.page (pmuBase b)) i.toNat) ≠ 0xFFFFFFFF → t = (s.put (pmuCnt (.page (pmuBase b)) i.toNat) v.toNat).ended a))) ∧
  (∀ (a : Agent) (b : PmuBlock) (s : State), s.Reached a false (PMU_SNAP (pmuBase b)) 8 →
    let idx := s.get (PMU_SNAPSEL_IDX (pmuBase b))
    let p := PmuPlace.page (pmuBase b)
    (s.debugRead a = true → Completes (.pmuSnapRead a b) s fun t => t = s.ended a) ∧
    (s.debugRead a = false → isDap a = false → 0 < idx → idx < pmuN p → Completes (.pmuSnapRead a b) s fun t =>
      t.rd (PMU_SNAP (pmuBase b)) = s.get (pmuCnt p (idx - 1)) + 2 ^ 32 * s.get (pmuCnt p idx) ∧ t.cpu = s.cpu ∧ t.mem = s.mem)) ∧
  (∀ s : State, s.runs MEM 3 = true →
    (s.get (PMU_BWCFG_WIN_US pmuMemBase) = 0 → Completes .bwWindowEnd s fun t => t = s) ∧
    (s.get (PMU_BWCFG_WIN_US pmuMemBase) ≠ 0 → Completes .bwWindowEnd s fun t => t.pmu.bw = [] ∧
      t.get (PMU_BWSEQ_SEQ pmuMemBase) = (s.get (PMU_BWSEQ_SEQ pmuMemBase) + 1) % 2 ^ (PMU_BWSEQ_SEQ pmuMemBase).w ∧
      ∀ k < 11, t.rd (PMU_BWLAST pmuMemBase k) = tabGet (fun _ => 0) s.pmu.bw k % 2 ^ 64 ∧
        t.rd (PMU_BWPEAK pmuMemBase k) = Nat.max (tabGet (fun _ => 0) s.pmu.bw k) (s.rd (PMU_BWPEAK pmuMemBase k)) % 2 ^ 64)) ∧
  (∀ (a : Agent) (us : BitVec 20) (s : State), s.Reached a true (PMU_BWCFG pmuMemBase) 4 →
    Completes (.bwWindowRestart a us) s (fun t => t.pmu.bw = [] ∧ t.get (PMU_BWCFG_WIN_US pmuMemBase) = us.toNat ∧
      ∀ k < 11, t.rd (PMU_BWLAST pmuMemBase k) = 0 ∧ t.rd (PMU_BWPEAK pmuMemBase k) = 0) ∧
    Completes (.bwClearPeak a) s fun t => t.pmu = s.pmu ∧ ∀ k < 11, t.rd (PMU_BWPEAK pmuMemBase k) = 0 ∧
      t.rd (PMU_BWLAST pmuMemBase k) = s.rd (PMU_BWLAST pmuMemBase k))

/-- The commands of the cascade. -/
def Obligations.CascadeCommandsComplete : Prop :=
  (∀ (l : LinkIdx) (p : ModId) (same : Bool) (s : State), ∀ i ∈ [Instr.cascadeLinkUp l p same, .cascadeLinkRetrain l p same],
    (s.cscOn = false ∨ bitAt (s.get CSC_CTL_LINKEN) l.val = false ∨ s.on (CSC_LINK_UP l.val) = true → Completes i s fun t => t = s) ∧
    (s.cscOn = true → bitAt (s.get CSC_CTL_LINKEN) l.val = true → s.on (CSC_LINK_UP l.val) = false →
      (p.val = s.myId → Completes i s fun t => t.on (CSC_LINK_IDCLASH l.val) = true ∧ t.on (CSC_LINK_UP l.val) = false ∧ t.casc = s.casc) ∧
      (p.val ≠ s.myId → same = false → Completes i s fun t => t.on (CSC_LINK_AUTHFAIL l.val) = true ∧ t.on (CSC_LINK_UP l.val) = false ∧ t.casc = s.casc) ∧
      (p.val ≠ s.myId → same = true → Completes i s fun t => t.on (CSC_LINK_UP l.val) = true ∧ t.get (CSC_LINK_PARTNER l.val) = p.val ∧
        t.on CSC_IRQ_STATUS_LINK = true ∧ (s.cscIsolated = true → t.listens l.val = true)))) ∧
  (∀ (l : LinkIdx) (delay : Word) (s : State),
    (s.on (CSC_LINK_UP l.val) = false → Completes (.cascadeLinkDown l) s (fun t => t = s) ∧ Completes (.cascadePdelayMeasure l delay) s fun t => t = s) ∧
    (s.on (CSC_LINK_UP l.val) = true → Completes (.cascadeLinkDown l) s (fun t => t.on (CSC_LINK_UP l.val) = false ∧ t.on CSC_IRQ_STATUS_LINK = true ∧
        t.cscHops l.val = 255 ∧ t.listens l.val = false) ∧
      (s.cscOn = true → Completes (.cascadePdelayMeasure l delay) s fun t => t.get (CSC_PDLY_DELAY l.val) = delay.toNat ∧ t.casc = s.casc))) ∧
  (∀ s : State, s.cscOn = true →
    (s.casc.settled = false ∨ s.listens 0 = true ∨ s.listens 1 = true → Completes .cascadeListenEnd s fun t => t.get CSC_STATUS_MASTERID = s.lowestId % 4 ∧
      t.on CSC_STATUS_MASTER = (s.lowestId == s.myId) ∧ t.casc.settled = true) ∧
    (s.casc.settled = true → s.listens 0 = false → s.listens 1 = false → Completes .cascadeListenEnd s fun t => t = s) ∧
    Completes .heartbeatSend s fun t => (∀ k < 4, k ≠ s.myId → t.get (CSC_HBMISS_MISS k) = satAdd 8 (s.get (CSC_HBMISS_MISS k)) 1) ∧
      ∀ l < 2, s.on (CSC_LINK_UP l) = true → (tabGet (fun _ => none) t.casc.sent l).isSome = true) ∧
  (∀ s : State, s.cscOn = false → Completes .cascadeListenEnd s (fun t => t = s) ∧ Completes .heartbeatSend s fun t => t = s) ∧
  (∀ (l : LinkIdx) (hb : Heartbeat) (s : State),
    (s.cscOn = false ∨ s.on (CSC_LINK_UP l.val) = false ∨ hb.src.val = s.myId → Completes (.heartbeatReceive l hb) s fun t => t = s) ∧
    (s.cscOn = true → s.on (CSC_LINK_UP l.val) = true → hb.src.val ≠ s.myId → hb.master = false → Completes (.heartbeatReceive l hb) s fun t =>
      bitAt (t.get CSC_STATUS_PRESENT) hb.src.val = true ∧ t.get (CSC_HBMISS_MISS hb.src.val) = 0 ∧ t.cscHops l.val = Nat.min 255 hb.hops ∧
      (s.cscPresent hb.src.val = false → t.on CSC_IRQ_STATUS_JOIN = true))) ∧
  (∀ (k : ModId) (s : State),
    (s.cscOn = false ∨ s.cscPresent k.val = false ∨ s.get (CSC_HBMISS_MISS k.val) < 4 → Completes (.moduleAbsent k) s fun t => t = s) ∧
    (s.cscOn = true → s.cscPresent k.val = true → 4 ≤ s.get (CSC_HBMISS_MISS k.val) → Completes (.moduleAbsent k) s fun t => t.cscPresent k.val = false ∧
      t.on CSC_IRQ_STATUS_LOST = true ∧ t.on (CSC_MBX_TX_STAT_PEND k.val) = false ∧ ∀ m ∈ t.casc.mail, m.dest ≠ k.val)) ∧
  (∀ (a : Agent) (k : ModId) (e : BitVec 16) (s : State), s.Reached a true (CSC_MBX_TX_CMD k.val) 4 →
    let st := s.cscMbxJudge k.val e.toNat
    (st ≠ .ok → Completes (.cascadeMbxSend a k e) s fun t => t.get (CSC_MBX_TX_STAT_RESULT k.val) = st8 st ∧ t.casc = s.casc) ∧
    (st = .ok → Completes (.cascadeMbxSend a k e) s fun t => t.get (CSC_MBX_TX_STAT_RESULT k.val) = st8 .ok ∧ t.on (CSC_MBX_TX_STAT_PEND k.val) = true ∧
      t.casc = { s.casc with mail := s.casc.mail ++ [⟨k.val, (List.range 8).map (fun i => s.get (CSC_MBX_TX_WORD k.val i)), e.toNat⟩] })) ∧
  (∀ (k : ModId) (words : List (BitVec 32)) (seq : BitVec 16) (s : State), s.cscOn = true → s.cscPresent k.val = true →
    (s.on (CSC_MBX_RX_SEQ_VALID k.val) = false → Completes (.cascadeMbxDeliver k (.message words seq)) s fun t => t.on (CSC_MBX_RX_SEQ_VALID k.val) = true ∧
      t.get (CSC_MBX_RX_SEQ_SEQ k.val) = seq.toNat ∧ (∀ i < 8, t.get (CSC_MBX_RX_WORD k.val i) = (words.getD i 0).toNat) ∧ t.on CSC_IRQ_STATUS_MBX = true) ∧
    (s.on (CSC_MBX_RX_SEQ_VALID k.val) = true → Completes (.cascadeMbxDeliver k (.message words seq)) s fun t => t = s) ∧
    ((∃ m ∈ s.casc.mail, m.dest = k.val ∧ m.seq = seq.toNat) → Completes (.cascadeMbxDeliver k (.ack seq)) s fun t =>
      t.on (CSC_MBX_TX_STAT_PEND k.val) = false ∧ t.on CSC_IRQ_STATUS_MBXACK = true ∧ ∀ m ∈ t.casc.mail, m.dest ≠ k.val)) ∧
  (∀ (a : Agent) (n : Fin 64) (s : State), s.Reached a true (CSC_FWD_RULE n.val) 8 →
    let st := s.fwdJudge n.val
    (st ≠ .ok → Completes (.forwardRuleValid a n) s fun t => t.get (CSC_FWD_ID_STATUS n.val) = st8 st ∧ t.on (CSC_FWD_RULE_VALID n.val) = true ∧ t.casc = s.casc) ∧
    (st = .ok → Completes (.forwardRuleValid a n) s fun t => t.get (CSC_FWD_ID_STATUS n.val) = st8 .ok ∧ t.casc.csids = s.casc.csids + 1 ∧
      t.get (CSC_FWD_ID_CSID n.val) = s.casc.csids % 2 ^ (CSC_FWD_ID_CSID n.val).w)) ∧
  (∀ (u : FwdUnit) (s : State), (s.cscOn = false → Completes (.forwardedUnitReceive u) s fun t => t = s) ∧
    ∀ (p : Fin 8) (vc : Fin 16) (dt : BitVec 6) (d : List Byte) (crc lost : Bool) (st : Stamp), u = .csi p vc dt d crc lost st → s.cscOn = true →
      Completes (.forwardedUnitReceive u) s fun t => t = s.csiPacket p.val vc.val dt.toNat d false crc lost st) ∧
  (∀ (a : Agent) (s : State), s.Reached a true CSC_KEYCMD 4 →
    let st := s.coneJudge 3 (s.coneSteps 3)
    Completes (.cscKeyInstall a) s fun t => t.get CSC_KEYCMD_STATUS = st8 st ∧ t.boot.fuses = s.boot.fuses ∧ (st ≠ .ok → t.boot = s.boot) ∧
      (st = .ok → ∃ b, t.boot.burn = some b ∧ b.cone = 3))

/-- CSR instructions on a hart that can execute them. -/
def Obligations.CsrsAreReadAndWritten : Prop :=
  ∀ (h : Hart) (csr : BitVec 12) (op : CsrOp) (rd : RegIdx) (src : Word) (s : State), s.Ready h.val →
    let next (t : State) : Prop := s.Went t h.val ((s.hart h.val).pc + 4) [rd.val] ∧ t.mem = s.mem
    let src' := src.toNat % 2 ^ hartXlen h.val
    (∀ c, s.csrCheck h.val csr.toNat (op != .read) = some c → Completes (.csrAccess h csr op rd src) s fun t => s.Took t h.val false c 0) ∧
    (s.csrCheck h.val csr.toNat false = none → Completes (.csrAccess h csr .read rd src) s fun t => next t ∧
      (rd.val ≠ 0 → t.xreg h.val rd.val = (s.csrRead h.val (csrEff (s.hart h.val).priv csr.toNat)).2 % 2 ^ hartXlen h.val)) ∧
    ((s.hart h.val).priv = .m → op ≠ .read → Completes (.csrAccess h 0x340 op rd src) s fun t => next t ∧
      t.csr h.val 0x340 = csrNew op (s.csr h.val 0x340) src' % 2 ^ hartXlen h.val ∧
      (rd.val ≠ 0 → t.xreg h.val rd.val = s.csr h.val 0x340 % 2 ^ hartXlen h.val)) ∧
    ((s.hart h.val).priv = .m → h.val < 12 → (s.hart h.val).modeOld = [] → Completes (.modeCsrWrite h .mvtctl .write rd src) s fun t => next t ∧
      t.csr h.val 0x7C0 = merge 0x1F (s.csr h.val 0x7C0) src' % 2 ^ hartXlen h.val ∧
      ∀ n, (t.updHart h.val (fun k => { k with pos := (s.hart h.val).pos + n })).modeVal h.val 0x7C0 =
        if n < 3 then s.csr h.val 0x7C0 else t.csr h.val 0x7C0) ∧
    (virt (s.hart h.val).priv = true → Completes (.modeCsrWrite h .svtctl op rd src) s fun t => t = s) ∧
    (virt (s.hart h.val).priv = false → Completes (.modeCsrWrite h .vsvtctl op rd src) s fun t => t = s)

/-- Accesses that reach windows and memory from outside a hart's pipe, and cascade windows. -/
def Obligations.BusAccessesComplete : Prop :=
  let same (s t : State) (lo n : Nat) : Prop := ∀ k, k < lo ∨ lo + n ≤ k → tabGet byteDefault t.mem.bytes k = tabGet byteDefault s.mem.bytes k
  (∀ (a : Agent) (addr : PAddr) (bytes : Nat) (data : Word) (s : State),
    (s.isWindow addr.toNat = false → Completes (.registerWrite a addr bytes data) s fun t => t = s) ∧
    (s.isWindow addr.toNat = true → s.agentLive a = true → isDap a = false →
      (s.winJudge a (s.agentSlice a) true addr.toNat bytes = .ok → Completes (.registerWrite a addr bytes data) s (fun t =>
          t = s.winWrite a (s.agentSlice a) addr.toNat bytes data.toNat) ∧
        (addr.toNat = AOT_ALARM → bytes = 8 → Completes (.registerWrite a addr bytes data) s fun t => t.rd AOT_ALARM = data.toNat ∧
          (∀ k, k ≠ AOT_ALARM → t.rd k = s.rd k) ∧ t.mem = s.mem ∧ t.cpu = s.cpu)) ∧
      (∀ h, a = .hart h → s.winJudge a (s.agentSlice a) true addr.toNat bytes = .bad → Completes (.registerWrite a addr bytes data) s fun t =>
        s.Took t h.val false 7 addr.toNat ∧ t.mem = s.mem) ∧
      (∀ h st, a = .hart h → s.winJudge a (s.agentSlice a) true addr.toNat bytes = .refuse st → Completes (.registerWrite a addr bytes data) s fun t =>
        s.Took t h.val false 7 addr.toNat ∧ t.mem.bytes = s.mem.bytes))) ∧
  (∀ (a : Agent) (addr : PAddr) (data : BitVec 32) (s : State), s.agentLive a = true → isDap a = false →
    addr.toNat = LDG_W_CMD 0 ∨ addr.toNat = LDG_W_CMD 1 ∨ addr.toNat = DMC_REMAP_CMD ∨ addr.toNat = STT_PROBE →
    s.winJudge a (s.agentSlice a) true addr.toNat 4 = .ok → Completes (.halfWriteStage a addr data) s fun t =>
      tabGet (fun _ => none) t.staged addr.toNat = some data.toNat ∧ t.regs = s.regs ∧ t.mem = s.mem ∧ t.cpu = s.cpu) ∧
  (∀ (w : Bool) (addr : PAddr) (size : AccSize) (data : Word) (s : State),
    let n := size.bytes
    let a : Agent := .dap (worldOf (s.get DAP_SBCTL_WORLD))
    let may := s.sbAllowed (worldOf (s.get DAP_SBCTL_WORLD)) w addr.toNat = true
    (s.agentLive a = false → Completes (.systemBusAccess w addr size data) s fun t => t = s) ∧
    (s.agentLive a = true → ¬ may → Completes (.systemBusAccess w addr size data) s fun t => t = s.sbEnd 7 .denied) ∧
    (s.agentLive a = true → may → s.isWindow addr.toNat = false → addr.toNat % n ≠ 0 → Completes (.systemBusAccess w addr size data) s fun t =>
      t = { s with dbgm := { s.dbgm with sberror := 3 } }) ∧
    (s.agentLive a = true → may → s.isWindow addr.toNat = true → w = true → s.winJudge a (s.agentSlice a) true addr.toNat n = .ok →
      Completes (.systemBusAccess w addr size data) s fun t => t = (s.winWrite a (s.agentSlice a) addr.toNat n data.toNat).sbEnd 0 .ok) ∧
    (∀ x o, s.agentLive a = true → may → s.region addr.toNat = .scratch x o → addr.toNat % n = 0 →
      s.physVerdict (worldOf (s.get DAP_SBCTL_WORLD)) none (if w then .write else .read) addr.toNat = .ok →
      (w = true → Completes (.systemBusAccess w addr size data) s fun t => t.bytesAt addr.toNat n = data.toNat % 2 ^ (8 * n) ∧ same s t addr.toNat n ∧
        t.dbgm.sberror = 0) ∧
      (w = false → s.sramPoisoned (addr.toNat / 64) = false → Completes (.systemBusAccess w addr size data) s fun t =>
        t.dbgm.sbdata = s.bytesAt addr.toNat n ∧ t.dbgm.sberror = 0 ∧ t.mem = s.mem))) ∧
  (∀ (dev : DevId) (pasid : Option (BitVec 20)) (w : Bool) (iova : Word) (size : Nat) (data : List Byte) (s : State),
    (dmaBlock dev.toNat = none → Completes (.dmaRequest dev pasid w iova size data) s fun t => t = s) ∧
    (∀ d b, dmaBlock dev.toNat = some (d, b) → s.runs d b = false → Completes (.dmaRequest dev pasid w iova size data) s fun t => t = s) ∧
    (∀ d b pa x o, dmaBlock dev.toNat = some (d, b) → s.runs d b = true → d ≠ HST → 0 < data.length → data.length ≤ 64 - iova.toNat % 64 →
      s.dmaAddr (s.owner d b) (srcId d b) ⟨dev.toNat, none, true, iova.toNat⟩ = (s, .ok pa) → s.region pa = .scratch x o →
      Completes (.dmaRequest dev pasid true iova size data) s fun t => t.bytesAt pa data.length = leNat data ∧ same s t pa data.length)) ∧
  (∀ (w : Bool) (off : BitVec 20) (size : Nat) (data : List Byte) (s : State),
    let lo := 0x38000000 + off.toNat
    let takes := s.pcieLink = true ∧ s.fenceOpen HST = true ∧ s.owner HST 0 = s.owner HST 2 ∧ w = true ∧ Config.ldgCqAddr ≤ lo ∧
      lo + data.length ≤ Config.ldgCqAddr + 256
    (takes → Completes (.pcieInboundRequest w off size data) s fun t => t.regs = s.regs ∧ same s t lo data.length ∧
      ∀ i < data.length, t.byteAt (lo + i) = data.getD i 0) ∧
    (¬ takes → Completes (.pcieInboundRequest w off size data) s fun t => t = s)) ∧
  (∀ (k : ModId) (w : Bool) (addr : PAddr) (size : AccSize) (data : Word) (s : State),
    (s.cscPresent k.val = false ∨ s.cscOn = false ∨ s.serves addr.toNat = false ∨ addr.toNat % size.bytes ≠ 0 →
      Completes (.cascadeRemoteServe k w addr size data) s fun t => t = s) ∧
    (s.cscPresent k.val = true → s.cscOn = true → s.serves addr.toNat = true → s.region addr.toNat = .dram → addr.toNat % size.bytes = 0 →
      w = true → s.synd (addr.toNat / 64) = 0 → s.wedgeWaits (addr.toNat / 64) = false → s.on DMC_INJ_ARM = false →
      Completes (.cascadeRemoteServe k w addr size data) s fun t => t.bytesAt addr.toNat size.bytes = data.toNat % 2 ^ (8 * size.bytes) ∧
        same s t addr.toNat size.bytes)) ∧
  (∀ (h : Hart) (va : Word) (addr : PAddr) (w : Bool) (rd : RegIdx) (data : Word) (ans : RemoteAnswer) (s : State) (m o : Nat),
    s.region addr.toNat = .cascade m o → s.Ready h.val → s.epochMode (clusterOf h.val) = false →
    s.physVerdict (s.hartWorld h.val) (s.hartSag h.val) (if w then .write else .read) addr.toNat = .ok →
    let i : Instr := .cascadeWindowAccess (.hart h) va addr w rd data ans
    (s.cscPresent m = false → Completes i s fun t => s.Took t h.val false (if w then 7 else 5) va.toNat ∧ t.mem = s.mem) ∧
    (s.cscPresent m = true →
      (∀ v, ans = .data v → Completes i s fun t => s.Went t h.val ((s.hart h.val).pc + 4) (if w then [] else [rd.val]) ∧ t.mem = s.mem ∧
        (w = false → rd.val ≠ 0 → t.xreg h.val rd.val = v.toNat % 2 ^ hartXlen h.val)) ∧
      (∀ st, ans = .refused st → Completes i s fun t => s.Took t h.val false (if w then 7 else 5) va.toNat ∧ t.mem.bytes = s.mem.bytes)))
end

