-- ==== Sys2Proof/Laws/Tab.lean ====
section
/-! SUPPORT. Tables and bit fields: a read after a write, and the operations on tables keep their canonical form. -/

namespace Sys2Proof.Machine

variable {α : Type}

/-! ### Read after write -/

theorem tabGet_tabIns (d : Nat → α) (t : Tab α) (k k' : Nat) (v : α) :
    tabGet d (tabIns t k v) k' = if k' = k then v else tabGet d t k' := by
  induction t with
  | nil => simp only [tabIns, tabGet]; split_ifs <;> first | rfl | omega
  | cons e t ih =>
    obtain ⟨j, w⟩ := e
    rw [tabIns]
    split_ifs <;> simp only [tabGet, ih] <;> split_ifs <;> first | rfl | omega

theorem tabGet_tabDel (d : Nat → α) (t : Tab α) (k k' : Nat) :
    tabGet d (tabDel t k) k' = if k' = k then d k else tabGet d t k' := by
  induction t with
  | nil => by_cases h : k' = k <;> simp [tabDel, tabGet, h]
  | cons e t ih =>
    obtain ⟨j, w⟩ := e
    rw [tabDel]
    split_ifs <;> simp only [tabGet, ih] <;> split_ifs <;> first | rfl | omega

theorem tabGet_tabSet [DecidableEq α] (d : Nat → α) (t : Tab α) (k k' : Nat) (v : α) :
    tabGet d (tabSet d t k v) k' = if k' = k then v else tabGet d t k' := by
  unfold tabSet
  split
  · rw [tabGet_tabDel]; simp_all
  · exact tabGet_tabIns d t k k' v

@[simp] theorem tabGet_tabSet_self [DecidableEq α] (d : Nat → α) (t : Tab α) (k : Nat) (v : α) :
    tabGet d (tabSet d t k v) k = v := by simp [tabGet_tabSet]

theorem tabGet_tabSet_ne [DecidableEq α] (d : Nat → α) (t : Tab α) {k k' : Nat} (v : α) (h : k' ≠ k) :
    tabGet d (tabSet d t k v) k' = tabGet d t k' := by simp [tabGet_tabSet, h]

theorem tabGet_tabDrop (d : Nat → α) (t : Tab α) (lo hi k : Nat) :
    tabGet d (tabDrop t lo hi) k = if lo ≤ k ∧ k < hi then d k else tabGet d t k := by
  induction t with
  | nil => simp [tabDrop, tabGet]
  | cons e t ih =>
    obtain ⟨j, w⟩ := e
    have hd : tabDrop ((j, w) :: t) lo hi = if decide (j < lo) || decide (hi ≤ j) then (j, w) :: tabDrop t lo hi else tabDrop t lo hi := by
      simp only [tabDrop, List.filter_cons]
    rw [hd]
    split
    · simp only [tabGet, ih]
      split
      · subst_vars
        rw [if_neg]
        simp_all; omega
      · rfl
    · simp only [ih]
      rename_i hc
      simp only [Bool.or_eq_true, decide_eq_true_eq, not_or, Nat.not_lt, Nat.not_le] at hc
      by_cases hk : lo ≤ k ∧ k < hi
      · simp [hk]
      · have : j ≠ k := by omega
        simp [hk, tabGet, this]

/-! ### The canonical form -/

theorem tabAbove_mono {b c : Nat} {t : Tab α} (h : tabAbove c t = true) (hb : b ≤ c) : tabAbove b t = true := by
  cases t with
  | nil => rfl
  | cons e t =>
    simp only [tabAbove, Bool.and_eq_true, decide_eq_true_eq] at h ⊢
    exact ⟨by omega, h.2⟩

theorem tabAbove_tabIns {b k : Nat} {v : α} {t : Tab α} (h : tabAbove b t = true) (hk : b < k) :
    tabAbove b (tabIns t k v) = true := by
  induction t generalizing b with
  | nil => simp [tabIns, tabAbove, hk]
  | cons e t ih =>
    obtain ⟨j, w⟩ := e
    simp only [tabAbove, Bool.and_eq_true, decide_eq_true_eq] at h
    simp only [tabIns]
    split
    · subst_vars; simp [tabAbove, h]
    · split
      · simp_all [tabAbove]
      · simp only [tabAbove, Bool.and_eq_true, decide_eq_true_eq]
        exact ⟨h.1, ih h.2 (by omega)⟩

theorem tabAbove_filter {b : Nat} {t : Tab α} (p : Nat × α → Bool) (h : tabAbove b t = true) :
    tabAbove b (t.filter p) = true := by
  induction t generalizing b with
  | nil => rfl
  | cons e t ih =>
    obtain ⟨j, w⟩ := e
    simp only [tabAbove, Bool.and_eq_true, decide_eq_true_eq] at h
    rw [List.filter_cons]
    split
    · simp only [tabAbove, Bool.and_eq_true, decide_eq_true_eq]
      exact ⟨h.1, ih h.2⟩
    · exact ih (tabAbove_mono h.2 (by omega))

theorem tabDel_eq_filter (t : Tab α) (k : Nat) : tabDel t k = t.filter (fun e => e.1 ≠ k) := by
  induction t with
  | nil => rfl
  | cons e t ih =>
    obtain ⟨j, w⟩ := e
    simp only [tabDel, List.filter_cons, ih]
    split <;> simp_all

/-- The keys of a table rise strictly. -/
def tabRises : Tab α → Bool
  | [] => true
  | (j, _) :: r => tabAbove j r

theorem tabWf_iff [DecidableEq α] (d : Nat → α) (t : Tab α) :
    tabWf d t = true ↔ tabRises t = true ∧ ∀ e ∈ t, e.2 ≠ d e.1 := by
  cases t <;> simp [tabWf, tabRises]

theorem tabRises_filter {t : Tab α} (p : Nat × α → Bool) (h : tabRises t = true) : tabRises (t.filter p) = true := by
  cases t with
  | nil => rfl
  | cons e t =>
    obtain ⟨j, w⟩ := e
    rw [List.filter_cons]
    split
    · exact tabAbove_filter p h
    · have := tabAbove_filter p h
      cases hf : t.filter p with
      | nil => rfl
      | cons e' t' =>
        rw [hf] at this
        simp only [tabAbove, Bool.and_eq_true] at this
        exact this.2

theorem tabRises_tabIns {t : Tab α} {k : Nat} {v : α} (h : tabRises t = true) : tabRises (tabIns t k v) = true := by
  cases t with
  | nil => rfl
  | cons e t =>
    obtain ⟨j, w⟩ := e
    simp only [tabIns]
    split
    · subst_vars; exact h
    · split
      · simp only [tabRises, tabAbove, Bool.and_eq_true, decide_eq_true_eq]
        exact ⟨by assumption, h⟩
      · exact tabAbove_tabIns h (by omega)

theorem mem_tabIns {t : Tab α} {k : Nat} {v : α} {e : Nat × α} (h : e ∈ tabIns t k v) : e = (k, v) ∨ e ∈ t := by
  induction t with
  | nil => simpa [tabIns] using h
  | cons a t ih =>
    obtain ⟨j, w⟩ := a
    simp only [tabIns] at h
    split at h
    · simp only [List.mem_cons] at h ⊢; tauto
    · split at h
      · simp only [List.mem_cons] at h ⊢; tauto
      · simp only [List.mem_cons] at h ⊢
        rcases h with h | h
        · exact .inr (.inl h)
        · rcases ih h with h | h
          · exact .inl h
          · exact .inr (.inr h)

/-- A table in canonical form stays so when entries are left out. -/
theorem tabWf_filter [DecidableEq α] {d : Nat → α} {t : Tab α} (p : Nat × α → Bool) (h : tabWf d t = true) :
    tabWf d (t.filter p) = true := by
  rw [tabWf_iff] at h ⊢
  exact ⟨tabRises_filter p h.1, fun e he => h.2 e (List.mem_of_mem_filter he)⟩

theorem tabWf_tabDrop [DecidableEq α] {d : Nat → α} {t : Tab α} (lo hi : Nat) (h : tabWf d t = true) :
    tabWf d (tabDrop t lo hi) = true := tabWf_filter _ h

/-- A write keeps the canonical form. -/
theorem tabWf_tabSet [DecidableEq α] {d : Nat → α} {t : Tab α} (k : Nat) (v : α) (h : tabWf d t = true) :
    tabWf d (tabSet d t k v) = true := by
  unfold tabSet
  split
  · rw [tabDel_eq_filter]; exact tabWf_filter _ h
  · rename_i hv
    rw [tabWf_iff] at h ⊢
    refine ⟨tabRises_tabIns h.1, fun e he => ?_⟩
    rcases mem_tabIns he with rfl | he
    · exact hv
    · exact h.2 e he

/-- Writes one after another keep it. -/
theorem tabWf_foldl [DecidableEq α] {β : Type} {d : Nat → α} {f : Tab α → β → Tab α} (l : List β)
    (hf : ∀ t b, tabWf d t = true → tabWf d (f t b) = true) {t : Tab α} (h : tabWf d t = true) : tabWf d (l.foldl f t) = true := by
  induction l generalizing t with
  | nil => exact h
  | cons b l ih => exact ih (hf t b h)

/-! ### Bit fields -/

theorem bitsOf_lt (x lo w : Nat) : bitsOf x lo w < 2 ^ w := Nat.mod_lt _ (by positivity)

theorem putBits_eq (x lo w v : Nat) :
    putBits x lo w v = x / 2 ^ (lo + w) * 2 ^ (lo + w) + v % 2 ^ w * 2 ^ lo + x % 2 ^ lo := by
  rw [putBits, Nat.mul_comm, Nat.mul_comm (2 ^ lo)]

theorem putBits_lt {x lo w v : Nat} (hx : x < 2 ^ 64) (h : lo + w ≤ 64) : putBits x lo w v < 2 ^ 64 := by
  rw [putBits_eq]
  obtain ⟨k, hk⟩ : ∃ k, 64 = lo + w + k := ⟨64 - (lo + w), by omega⟩
  have h1 : x / 2 ^ (lo + w) < 2 ^ k := by
    rw [Nat.div_lt_iff_lt_mul (by positivity), ← pow_add, Nat.add_comm k, ← hk]; exact hx
  have h2 : v % 2 ^ w < 2 ^ w := Nat.mod_lt _ (by positivity)
  have h3 : x % 2 ^ lo < 2 ^ lo := Nat.mod_lt _ (by positivity)
  have h4 : v % 2 ^ w * 2 ^ lo + x % 2 ^ lo < 2 ^ (lo + w) := by
    rw [pow_add]; nlinarith [Nat.pos_of_ne_zero (pow_ne_zero lo (two_ne_zero (α := Nat)))]
  have h5 : x / 2 ^ (lo + w) * 2 ^ (lo + w) + 2 ^ (lo + w) ≤ 2 ^ 64 := by
    rw [hk, pow_add 2 (lo + w) k]
    nlinarith [Nat.pos_of_ne_zero (pow_ne_zero (lo + w) (two_ne_zero (α := Nat)))]
  omega

theorem bitsOf_putBits (x lo w v : Nat) : bitsOf (putBits x lo w v) lo w = v % 2 ^ w := by
  rw [putBits_eq]
  unfold bitsOf
  have h3 : x % 2 ^ lo < 2 ^ lo := Nat.mod_lt _ (by positivity)
  have e : x / 2 ^ (lo + w) * 2 ^ (lo + w) + v % 2 ^ w * 2 ^ lo + x % 2 ^ lo =
      x % 2 ^ lo + 2 ^ lo * (v % 2 ^ w + 2 ^ w * (x / 2 ^ (lo + w))) := by rw [pow_add]; ring
  rw [e, Nat.add_mul_div_left _ _ (by positivity), Nat.div_eq_of_lt h3, Nat.zero_add, Nat.add_mul_mod_self_left, Nat.mod_mod]

/-- A field below the one written. -/
theorem bitsOf_putBits_below {x lo w v lo' w' : Nat} (h : lo' + w' ≤ lo) : bitsOf (putBits x lo w v) lo' w' = bitsOf x lo' w' := by
  rw [putBits_eq]
  unfold bitsOf
  obtain ⟨k, rfl⟩ := Nat.exists_eq_add_of_le h
  have e : ∀ y, y / 2 ^ lo' % 2 ^ w' = y % 2 ^ (lo' + w') / 2 ^ lo' := fun y => by rw [pow_add, Nat.mod_mul_right_div_self]
  rw [e, e]
  congr 1
  rw [show x / 2 ^ (lo' + w' + k + w) * 2 ^ (lo' + w' + k + w) + v % 2 ^ w * 2 ^ (lo' + w' + k) + x % 2 ^ (lo' + w' + k) =
      x % 2 ^ (lo' + w' + k) + 2 ^ (lo' + w') * (2 ^ k * (x / 2 ^ (lo' + w' + k + w) * 2 ^ w + v % 2 ^ w)) by simp only [pow_add]; ring]
  rw [Nat.add_mul_mod_self_left, pow_add 2 (lo' + w') k, Nat.mod_mul_right_mod]

/-- A field above the one written. -/
theorem bitsOf_putBits_above {x lo w v lo' w' : Nat} (h : lo + w ≤ lo') : bitsOf (putBits x lo w v) lo' w' = bitsOf x lo' w' := by
  rw [putBits_eq]
  unfold bitsOf
  obtain ⟨k, rfl⟩ := Nat.exists_eq_add_of_le h
  congr 1
  have h2 : v % 2 ^ w < 2 ^ w := Nat.mod_lt _ (by positivity)
  have h3 : x % 2 ^ lo < 2 ^ lo := Nat.mod_lt _ (by positivity)
  have h4 : v % 2 ^ w * 2 ^ lo + x % 2 ^ lo < 2 ^ (lo + w) := by
    rw [pow_add]; nlinarith [Nat.pos_of_ne_zero (pow_ne_zero lo (two_ne_zero (α := Nat)))]
  rw [pow_add 2 (lo + w) k, ← Nat.div_div_eq_div_mul, ← Nat.div_div_eq_div_mul]
  congr 1
  rw [show x / 2 ^ (lo + w) * 2 ^ (lo + w) + v % 2 ^ w * 2 ^ lo + x % 2 ^ lo =
      (v % 2 ^ w * 2 ^ lo + x % 2 ^ lo) + 2 ^ (lo + w) * (x / 2 ^ (lo + w)) by ring]
  rw [Nat.add_mul_div_left _ _ (by positivity), Nat.div_eq_of_lt h4, Nat.zero_add]

end Sys2Proof.Machine
end

