-- ==== Sys2Proof/Laws/Regs.lean ====
section
/-! SUPPORT. Registers: what a read gives after a write (R9 to R12). -/

namespace Sys2Proof.Machine

/-- A field lies inside its register. -/
def Fld.fits (f : Fld) : Prop := f.lo + f.w ≤ 64

theorem State.rd_lt (s : State) (a : Nat) : s.rd a < 2 ^ 64 := (tabGet resetVal s.regs a).isLt

theorem State.rd_wr (s : State) (a v b : Nat) : (s.wr a v).rd b = if b = a then v % 2 ^ 64 else s.rd b := by
  unfold State.rd State.wr
  rw [tabGet_tabSet]
  split <;> simp

@[simp] theorem State.rd_wr_self (s : State) (a v : Nat) : (s.wr a v).rd a = v % 2 ^ 64 := by simp [State.rd_wr]

theorem State.rd_wr_ne (s : State) {a b : Nat} (v : Nat) (h : b ≠ a) : (s.wr a v).rd b = s.rd b := by simp [State.rd_wr, h]

theorem State.get_lt (s : State) (f : Fld) : s.get f < 2 ^ f.w := bitsOf_lt _ _ _

theorem State.rd_put_ne (s : State) {f : Fld} {a : Nat} (v : Nat) (h : a ≠ f.reg) : (s.put f v).rd a = s.rd a := State.rd_wr_ne _ _ h

theorem State.rd_put_self (s : State) {f : Fld} (v : Nat) (hf : f.fits) : (s.put f v).rd f.reg = putBits (s.rd f.reg) f.lo f.w v := by
  rw [State.put, State.rd_wr_self, Nat.mod_eq_of_lt (putBits_lt (s.rd_lt _) hf)]

/-- A field reads as written, cut to its width. -/
theorem State.get_put_self (s : State) {f : Fld} (v : Nat) (hf : f.fits) : (s.put f v).get f = v % 2 ^ f.w := by
  rw [State.get, State.rd_put_self s v hf, bitsOf_putBits]

/-- Fields that do not share a bit. -/
def Fld.apart (f g : Fld) : Prop := f.reg ≠ g.reg ∨ f.lo + f.w ≤ g.lo ∨ g.lo + g.w ≤ f.lo

/-- A write of a field leaves every other field. -/
theorem State.get_put_apart (s : State) {f g : Fld} (v : Nat) (hf : f.fits) (h : g.apart f) : (s.put f v).get g = s.get g := by
  by_cases hr : g.reg = f.reg
  · unfold State.get
    rw [hr, State.rd_put_self s v hf]
    rcases h with h | h | h
    · exact absurd hr h
    · exact bitsOf_putBits_below h
    · exact bitsOf_putBits_above h
  · unfold State.get
    rw [State.rd_put_ne s v hr]

theorem State.get_put_ne (s : State) {f g : Fld} (v : Nat) (h : g.reg ≠ f.reg) : (s.put f v).get g = s.get g := by
  unfold State.get
  rw [State.rd_put_ne s v h]

theorem State.get_wr_ne (s : State) {g : Fld} {a : Nat} (v : Nat) (h : g.reg ≠ a) : (s.wr a v).get g = s.get g := by
  unfold State.get
  rw [State.rd_wr_ne s v h]

theorem State.get_wr_self (s : State) (f : Fld) (v : Nat) (h : v < 2 ^ 64) : (s.wr f.reg v).get f = bitsOf v f.lo f.w := by
  rw [State.get, State.rd_wr_self, Nat.mod_eq_of_lt h]

theorem State.get_res_self (s : State) {f : Fld} (st : Status) (hf : f.fits) : (s.res f st).get f = st8 st % 2 ^ f.w := State.get_put_self _ _ hf

theorem State.get_res_ne (s : State) {f g : Fld} (st : Status) (h : g.reg ≠ f.reg) : (s.res f st).get g = s.get g := State.get_put_ne _ _ h

theorem State.rd_resetRegs (s : State) (lo hi a : Nat) :
    (s.resetRegs lo hi).rd a = if lo ≤ a ∧ a < hi then (resetVal a).toNat else s.rd a := by
  unfold State.rd State.resetRegs
  rw [tabGet_tabDrop]
  split <;> rfl

/-- Registers reset outside a field's register leave it. -/
theorem State.get_resetRegs_out (s : State) {lo hi : Nat} {f : Fld} (h : f.reg < lo ∨ hi ≤ f.reg) : (s.resetRegs lo hi).get f = s.get f := by
  unfold State.get
  rw [State.rd_resetRegs, if_neg (by omega)]

/-! ### Harts, domains of time and power: a read after a write -/

theorem State.hart_setHart (s : State) (h k : Nat) (v : HartSt) : (s.setHart h v).hart k = if k = h then v else s.hart k :=
  tabGet_tabSet _ _ _ _ _

@[simp] theorem State.hart_setHart_self (s : State) (h : Nat) (v : HartSt) : (s.setHart h v).hart h = v := by simp [State.hart_setHart]

theorem State.hart_setHart_ne (s : State) {h k : Nat} (v : HartSt) (hk : k ≠ h) : (s.setHart h v).hart k = s.hart k := by
  simp [State.hart_setHart, hk]

@[simp] theorem State.hart_updHart_self (s : State) (h : Nat) (f : HartSt → HartSt) : (s.updHart h f).hart h = f (s.hart h) := by
  simp [State.updHart]

theorem State.hart_updHart_ne (s : State) {h k : Nat} (f : HartSt → HartSt) (hk : k ≠ h) : (s.updHart h f).hart k = s.hart k := by
  simp [State.updHart, State.hart_setHart_ne _ _ hk]

theorem State.tdom_setTdom (s : State) (d k : Nat) (v : DomSt) : (s.setTdom d v).tdom k = if k = d then v else s.tdom k :=
  tabGet_tabSet _ _ _ _ _

@[simp] theorem State.tdom_setTdom_self (s : State) (d : Nat) (v : DomSt) : (s.setTdom d v).tdom d = v := by simp [State.tdom_setTdom]

theorem State.dom_setDom (s : State) (d k : Nat) (v : DomainSt) : (s.setDom d v).dom k = if k = d then v else s.dom k :=
  tabGet_tabSet _ _ _ _ _

@[simp] theorem State.dom_setDom_self (s : State) (d : Nat) (v : DomainSt) : (s.setDom d v).dom d = v := by simp [State.dom_setDom]

/-- An integer register other than `x0` reads as written, cut to the hart's width; `x0` stays 0. -/
theorem State.xreg_setX (s : State) (h r v : Nat) : (s.setX h r v).xreg h r = if r = 0 then 0 else v % 2 ^ hartXlen h := by
  unfold State.xreg State.setX
  by_cases hr : r = 0 <;> simp [hr, State.updHart]

/-- The other registers of the hart are as they were. -/
theorem State.xreg_setX_ne (s : State) (h : Nat) {r q : Nat} (v : Nat) (hq : q ≠ r) : (s.setX h r v).xreg h q = s.xreg h q := by
  unfold State.xreg State.setX
  by_cases hr : r = 0
  · simp [hr]
  · by_cases h0 : q = 0 <;> simp [hr, h0, State.updHart, tabGet_tabSet_ne _ _ _ hq]

end Sys2Proof.Machine
end

