-- ==== Sys2Proof/Laws/State.lean ====
section
/-! SUPPORT. Every named update of the state, field by field: what it leaves. -/

namespace Sys2Proof.Machine

/-! ### `wr` -/

@[simp] theorem State.ticks_wr (s : State) (a v : Nat) : (s.wr a v).ticks = s.ticks := rfl
@[simp] theorem State.mticks_wr (s : State) (a v : Nat) : (s.wr a v).mticks = s.mticks := rfl
@[simp] theorem State.staged_wr (s : State) (a v : Nat) : (s.wr a v).staged = s.staged := rfl
@[simp] theorem State.latch_wr (s : State) (a v : Nat) : (s.wr a v).latch = s.latch := rfl
@[simp] theorem State.boot_wr (s : State) (a v : Nat) : (s.wr a v).boot = s.boot := rfl
@[simp] theorem State.time_wr (s : State) (a v : Nat) : (s.wr a v).time = s.time := rfl
@[simp] theorem State.wheel_wr (s : State) (a v : Nat) : (s.wr a v).wheel = s.wheel := rfl
@[simp] theorem State.cap_wr (s : State) (a v : Nat) : (s.wr a v).cap = s.cap := rfl
@[simp] theorem State.slices_wr (s : State) (a v : Nat) : (s.wr a v).slices = s.slices := rfl
@[simp] theorem State.sw_wr (s : State) (a v : Nat) : (s.wr a v).sw = s.sw := rfl
@[simp] theorem State.ldg_wr (s : State) (a v : Nat) : (s.wr a v).ldg = s.ldg := rfl
@[simp] theorem State.cpu_wr (s : State) (a v : Nat) : (s.wr a v).cpu = s.cpu := rfl
@[simp] theorem State.mem_wr (s : State) (a v : Nat) : (s.wr a v).mem = s.mem := rfl
@[simp] theorem State.world_wr (s : State) (a v : Nat) : (s.wr a v).world = s.world := rfl
@[simp] theorem State.guard_wr (s : State) (a v : Nat) : (s.wr a v).guard = s.guard := rfl
@[simp] theorem State.power_wr (s : State) (a v : Nat) : (s.wr a v).power = s.power := rfl
@[simp] theorem State.dbgm_wr (s : State) (a v : Nat) : (s.wr a v).dbgm = s.dbgm := rfl
@[simp] theorem State.pmu_wr (s : State) (a v : Nat) : (s.wr a v).pmu = s.pmu := rfl
@[simp] theorem State.casc_wr (s : State) (a v : Nat) : (s.wr a v).casc = s.casc := rfl
@[simp] theorem State.pcieLink_wr (s : State) (a v : Nat) : (s.wr a v).pcieLink = s.pcieLink := rfl
@[simp] theorem State.freeCtr_wr (s : State) (a v : Nat) : (s.wr a v).freeCtr = s.freeCtr := rfl
@[simp] theorem State.pending_wr (s : State) (a v : Nat) : (s.wr a v).pending = s.pending := rfl
@[simp] theorem State.hart_wr (s : State) (a v : Nat) (k : Nat) : (s.wr a v).hart k = s.hart k := rfl
@[simp] theorem State.dom_wr (s : State) (a v : Nat) (k : Nat) : (s.wr a v).dom k = s.dom k := rfl
@[simp] theorem State.tdom_wr (s : State) (a v : Nat) (k : Nat) : (s.wr a v).tdom k = s.tdom k := rfl

/-! ### `put` -/

@[simp] theorem State.ticks_put (s : State) (f : Fld) (v : Nat) : (s.put f v).ticks = s.ticks := rfl
@[simp] theorem State.mticks_put (s : State) (f : Fld) (v : Nat) : (s.put f v).mticks = s.mticks := rfl
@[simp] theorem State.staged_put (s : State) (f : Fld) (v : Nat) : (s.put f v).staged = s.staged := rfl
@[simp] theorem State.latch_put (s : State) (f : Fld) (v : Nat) : (s.put f v).latch = s.latch := rfl
@[simp] theorem State.boot_put (s : State) (f : Fld) (v : Nat) : (s.put f v).boot = s.boot := rfl
@[simp] theorem State.time_put (s : State) (f : Fld) (v : Nat) : (s.put f v).time = s.time := rfl
@[simp] theorem State.wheel_put (s : State) (f : Fld) (v : Nat) : (s.put f v).wheel = s.wheel := rfl
@[simp] theorem State.cap_put (s : State) (f : Fld) (v : Nat) : (s.put f v).cap = s.cap := rfl
@[simp] theorem State.slices_put (s : State) (f : Fld) (v : Nat) : (s.put f v).slices = s.slices := rfl
@[simp] theorem State.sw_put (s : State) (f : Fld) (v : Nat) : (s.put f v).sw = s.sw := rfl
@[simp] theorem State.ldg_put (s : State) (f : Fld) (v : Nat) : (s.put f v).ldg = s.ldg := rfl
@[simp] theorem State.cpu_put (s : State) (f : Fld) (v : Nat) : (s.put f v).cpu = s.cpu := rfl
@[simp] theorem State.mem_put (s : State) (f : Fld) (v : Nat) : (s.put f v).mem = s.mem := rfl
@[simp] theorem State.world_put (s : State) (f : Fld) (v : Nat) : (s.put f v).world = s.world := rfl
@[simp] theorem State.guard_put (s : State) (f : Fld) (v : Nat) : (s.put f v).guard = s.guard := rfl
@[simp] theorem State.power_put (s : State) (f : Fld) (v : Nat) : (s.put f v).power = s.power := rfl
@[simp] theorem State.dbgm_put (s : State) (f : Fld) (v : Nat) : (s.put f v).dbgm = s.dbgm := rfl
@[simp] theorem State.pmu_put (s : State) (f : Fld) (v : Nat) : (s.put f v).pmu = s.pmu := rfl
@[simp] theorem State.casc_put (s : State) (f : Fld) (v : Nat) : (s.put f v).casc = s.casc := rfl
@[simp] theorem State.pcieLink_put (s : State) (f : Fld) (v : Nat) : (s.put f v).pcieLink = s.pcieLink := rfl
@[simp] theorem State.freeCtr_put (s : State) (f : Fld) (v : Nat) : (s.put f v).freeCtr = s.freeCtr := rfl
@[simp] theorem State.pending_put (s : State) (f : Fld) (v : Nat) : (s.put f v).pending = s.pending := rfl
@[simp] theorem State.hart_put (s : State) (f : Fld) (v : Nat) (k : Nat) : (s.put f v).hart k = s.hart k := rfl
@[simp] theorem State.dom_put (s : State) (f : Fld) (v : Nat) (k : Nat) : (s.put f v).dom k = s.dom k := rfl
@[simp] theorem State.tdom_put (s : State) (f : Fld) (v : Nat) (k : Nat) : (s.put f v).tdom k = s.tdom k := rfl

/-! ### `res` -/

@[simp] theorem State.ticks_res (s : State) (f : Fld) (st : Status) : (s.res f st).ticks = s.ticks := rfl
@[simp] theorem State.mticks_res (s : State) (f : Fld) (st : Status) : (s.res f st).mticks = s.mticks := rfl
@[simp] theorem State.staged_res (s : State) (f : Fld) (st : Status) : (s.res f st).staged = s.staged := rfl
@[simp] theorem State.latch_res (s : State) (f : Fld) (st : Status) : (s.res f st).latch = s.latch := rfl
@[simp] theorem State.boot_res (s : State) (f : Fld) (st : Status) : (s.res f st).boot = s.boot := rfl
@[simp] theorem State.time_res (s : State) (f : Fld) (st : Status) : (s.res f st).time = s.time := rfl
@[simp] theorem State.wheel_res (s : State) (f : Fld) (st : Status) : (s.res f st).wheel = s.wheel := rfl
@[simp] theorem State.cap_res (s : State) (f : Fld) (st : Status) : (s.res f st).cap = s.cap := rfl
@[simp] theorem State.slices_res (s : State) (f : Fld) (st : Status) : (s.res f st).slices = s.slices := rfl
@[simp] theorem State.sw_res (s : State) (f : Fld) (st : Status) : (s.res f st).sw = s.sw := rfl
@[simp] theorem State.ldg_res (s : State) (f : Fld) (st : Status) : (s.res f st).ldg = s.ldg := rfl
@[simp] theorem State.cpu_res (s : State) (f : Fld) (st : Status) : (s.res f st).cpu = s.cpu := rfl
@[simp] theorem State.mem_res (s : State) (f : Fld) (st : Status) : (s.res f st).mem = s.mem := rfl
@[simp] theorem State.world_res (s : State) (f : Fld) (st : Status) : (s.res f st).world = s.world := rfl
@[simp] theorem State.guard_res (s : State) (f : Fld) (st : Status) : (s.res f st).guard = s.guard := rfl
@[simp] theorem State.power_res (s : State) (f : Fld) (st : Status) : (s.res f st).power = s.power := rfl
@[simp] theorem State.dbgm_res (s : State) (f : Fld) (st : Status) : (s.res f st).dbgm = s.dbgm := rfl
@[simp] theorem State.pmu_res (s : State) (f : Fld) (st : Status) : (s.res f st).pmu = s.pmu := rfl
@[simp] theorem State.casc_res (s : State) (f : Fld) (st : Status) : (s.res f st).casc = s.casc := rfl
@[simp] theorem State.pcieLink_res (s : State) (f : Fld) (st : Status) : (s.res f st).pcieLink = s.pcieLink := rfl
@[simp] theorem State.freeCtr_res (s : State) (f : Fld) (st : Status) : (s.res f st).freeCtr = s.freeCtr := rfl
@[simp] theorem State.pending_res (s : State) (f : Fld) (st : Status) : (s.res f st).pending = s.pending := rfl
@[simp] theorem State.hart_res (s : State) (f : Fld) (st : Status) (k : Nat) : (s.res f st).hart k = s.hart k := rfl
@[simp] theorem State.dom_res (s : State) (f : Fld) (st : Status) (k : Nat) : (s.res f st).dom k = s.dom k := rfl
@[simp] theorem State.tdom_res (s : State) (f : Fld) (st : Status) (k : Nat) : (s.res f st).tdom k = s.tdom k := rfl

/-! ### `raise` -/

@[simp] theorem State.ticks_raise (s : State) (f : Fld) (m : Nat) : (s.raise f m).ticks = s.ticks := rfl
@[simp] theorem State.mticks_raise (s : State) (f : Fld) (m : Nat) : (s.raise f m).mticks = s.mticks := rfl
@[simp] theorem State.staged_raise (s : State) (f : Fld) (m : Nat) : (s.raise f m).staged = s.staged := rfl
@[simp] theorem State.latch_raise (s : State) (f : Fld) (m : Nat) : (s.raise f m).latch = s.latch := rfl
@[simp] theorem State.boot_raise (s : State) (f : Fld) (m : Nat) : (s.raise f m).boot = s.boot := rfl
@[simp] theorem State.time_raise (s : State) (f : Fld) (m : Nat) : (s.raise f m).time = s.time := rfl
@[simp] theorem State.wheel_raise (s : State) (f : Fld) (m : Nat) : (s.raise f m).wheel = s.wheel := rfl
@[simp] theorem State.cap_raise (s : State) (f : Fld) (m : Nat) : (s.raise f m).cap = s.cap := rfl
@[simp] theorem State.slices_raise (s : State) (f : Fld) (m : Nat) : (s.raise f m).slices = s.slices := rfl
@[simp] theorem State.sw_raise (s : State) (f : Fld) (m : Nat) : (s.raise f m).sw = s.sw := rfl
@[simp] theorem State.ldg_raise (s : State) (f : Fld) (m : Nat) : (s.raise f m).ldg = s.ldg := rfl
@[simp] theorem State.cpu_raise (s : State) (f : Fld) (m : Nat) : (s.raise f m).cpu = s.cpu := rfl
@[simp] theorem State.mem_raise (s : State) (f : Fld) (m : Nat) : (s.raise f m).mem = s.mem := rfl
@[simp] theorem State.world_raise (s : State) (f : Fld) (m : Nat) : (s.raise f m).world = s.world := rfl
@[simp] theorem State.guard_raise (s : State) (f : Fld) (m : Nat) : (s.raise f m).guard = s.guard := rfl
@[simp] theorem State.power_raise (s : State) (f : Fld) (m : Nat) : (s.raise f m).power = s.power := rfl
@[simp] theorem State.dbgm_raise (s : State) (f : Fld) (m : Nat) : (s.raise f m).dbgm = s.dbgm := rfl
@[simp] theorem State.pmu_raise (s : State) (f : Fld) (m : Nat) : (s.raise f m).pmu = s.pmu := rfl
@[simp] theorem State.casc_raise (s : State) (f : Fld) (m : Nat) : (s.raise f m).casc = s.casc := rfl
@[simp] theorem State.pcieLink_raise (s : State) (f : Fld) (m : Nat) : (s.raise f m).pcieLink = s.pcieLink := rfl
@[simp] theorem State.freeCtr_raise (s : State) (f : Fld) (m : Nat) : (s.raise f m).freeCtr = s.freeCtr := rfl
@[simp] theorem State.pending_raise (s : State) (f : Fld) (m : Nat) : (s.raise f m).pending = s.pending := rfl
@[simp] theorem State.hart_raise (s : State) (f : Fld) (m : Nat) (k : Nat) : (s.raise f m).hart k = s.hart k := rfl
@[simp] theorem State.dom_raise (s : State) (f : Fld) (m : Nat) (k : Nat) : (s.raise f m).dom k = s.dom k := rfl
@[simp] theorem State.tdom_raise (s : State) (f : Fld) (m : Nat) (k : Nat) : (s.raise f m).tdom k = s.tdom k := rfl

/-! ### `clear` -/

@[simp] theorem State.ticks_clear (s : State) (f : Fld) (m : Nat) : (s.clear f m).ticks = s.ticks := rfl
@[simp] theorem State.mticks_clear (s : State) (f : Fld) (m : Nat) : (s.clear f m).mticks = s.mticks := rfl
@[simp] theorem State.staged_clear (s : State) (f : Fld) (m : Nat) : (s.clear f m).staged = s.staged := rfl
@[simp] theorem State.latch_clear (s : State) (f : Fld) (m : Nat) : (s.clear f m).latch = s.latch := rfl
@[simp] theorem State.boot_clear (s : State) (f : Fld) (m : Nat) : (s.clear f m).boot = s.boot := rfl
@[simp] theorem State.time_clear (s : State) (f : Fld) (m : Nat) : (s.clear f m).time = s.time := rfl
@[simp] theorem State.wheel_clear (s : State) (f : Fld) (m : Nat) : (s.clear f m).wheel = s.wheel := rfl
@[simp] theorem State.cap_clear (s : State) (f : Fld) (m : Nat) : (s.clear f m).cap = s.cap := rfl
@[simp] theorem State.slices_clear (s : State) (f : Fld) (m : Nat) : (s.clear f m).slices = s.slices := rfl
@[simp] theorem State.sw_clear (s : State) (f : Fld) (m : Nat) : (s.clear f m).sw = s.sw := rfl
@[simp] theorem State.ldg_clear (s : State) (f : Fld) (m : Nat) : (s.clear f m).ldg = s.ldg := rfl
@[simp] theorem State.cpu_clear (s : State) (f : Fld) (m : Nat) : (s.clear f m).cpu = s.cpu := rfl
@[simp] theorem State.mem_clear (s : State) (f : Fld) (m : Nat) : (s.clear f m).mem = s.mem := rfl
@[simp] theorem State.world_clear (s : State) (f : Fld) (m : Nat) : (s.clear f m).world = s.world := rfl
@[simp] theorem State.guard_clear (s : State) (f : Fld) (m : Nat) : (s.clear f m).guard = s.guard := rfl
@[simp] theorem State.power_clear (s : State) (f : Fld) (m : Nat) : (s.clear f m).power = s.power := rfl
@[simp] theorem State.dbgm_clear (s : State) (f : Fld) (m : Nat) : (s.clear f m).dbgm = s.dbgm := rfl
@[simp] theorem State.pmu_clear (s : State) (f : Fld) (m : Nat) : (s.clear f m).pmu = s.pmu := rfl
@[simp] theorem State.casc_clear (s : State) (f : Fld) (m : Nat) : (s.clear f m).casc = s.casc := rfl
@[simp] theorem State.pcieLink_clear (s : State) (f : Fld) (m : Nat) : (s.clear f m).pcieLink = s.pcieLink := rfl
@[simp] theorem State.freeCtr_clear (s : State) (f : Fld) (m : Nat) : (s.clear f m).freeCtr = s.freeCtr := rfl
@[simp] theorem State.pending_clear (s : State) (f : Fld) (m : Nat) : (s.clear f m).pending = s.pending := rfl
@[simp] theorem State.hart_clear (s : State) (f : Fld) (m : Nat) (k : Nat) : (s.clear f m).hart k = s.hart k := rfl
@[simp] theorem State.dom_clear (s : State) (f : Fld) (m : Nat) (k : Nat) : (s.clear f m).dom k = s.dom k := rfl
@[simp] theorem State.tdom_clear (s : State) (f : Fld) (m : Nat) (k : Nat) : (s.clear f m).tdom k = s.tdom k := rfl

/-! ### `inc` -/

@[simp] theorem State.ticks_inc (s : State) (f : Fld) (n : Nat) : (s.inc f n).ticks = s.ticks := rfl
@[simp] theorem State.mticks_inc (s : State) (f : Fld) (n : Nat) : (s.inc f n).mticks = s.mticks := rfl
@[simp] theorem State.staged_inc (s : State) (f : Fld) (n : Nat) : (s.inc f n).staged = s.staged := rfl
@[simp] theorem State.latch_inc (s : State) (f : Fld) (n : Nat) : (s.inc f n).latch = s.latch := rfl
@[simp] theorem State.boot_inc (s : State) (f : Fld) (n : Nat) : (s.inc f n).boot = s.boot := rfl
@[simp] theorem State.time_inc (s : State) (f : Fld) (n : Nat) : (s.inc f n).time = s.time := rfl
@[simp] theorem State.wheel_inc (s : State) (f : Fld) (n : Nat) : (s.inc f n).wheel = s.wheel := rfl
@[simp] theorem State.cap_inc (s : State) (f : Fld) (n : Nat) : (s.inc f n).cap = s.cap := rfl
@[simp] theorem State.slices_inc (s : State) (f : Fld) (n : Nat) : (s.inc f n).slices = s.slices := rfl
@[simp] theorem State.sw_inc (s : State) (f : Fld) (n : Nat) : (s.inc f n).sw = s.sw := rfl
@[simp] theorem State.ldg_inc (s : State) (f : Fld) (n : Nat) : (s.inc f n).ldg = s.ldg := rfl
@[simp] theorem State.cpu_inc (s : State) (f : Fld) (n : Nat) : (s.inc f n).cpu = s.cpu := rfl
@[simp] theorem State.mem_inc (s : State) (f : Fld) (n : Nat) : (s.inc f n).mem = s.mem := rfl
@[simp] theorem State.world_inc (s : State) (f : Fld) (n : Nat) : (s.inc f n).world = s.world := rfl
@[simp] theorem State.guard_inc (s : State) (f : Fld) (n : Nat) : (s.inc f n).guard = s.guard := rfl
@[simp] theorem State.power_inc (s : State) (f : Fld) (n : Nat) : (s.inc f n).power = s.power := rfl
@[simp] theorem State.dbgm_inc (s : State) (f : Fld) (n : Nat) : (s.inc f n).dbgm = s.dbgm := rfl
@[simp] theorem State.pmu_inc (s : State) (f : Fld) (n : Nat) : (s.inc f n).pmu = s.pmu := rfl
@[simp] theorem State.casc_inc (s : State) (f : Fld) (n : Nat) : (s.inc f n).casc = s.casc := rfl
@[simp] theorem State.pcieLink_inc (s : State) (f : Fld) (n : Nat) : (s.inc f n).pcieLink = s.pcieLink := rfl
@[simp] theorem State.freeCtr_inc (s : State) (f : Fld) (n : Nat) : (s.inc f n).freeCtr = s.freeCtr := rfl
@[simp] theorem State.pending_inc (s : State) (f : Fld) (n : Nat) : (s.inc f n).pending = s.pending := rfl
@[simp] theorem State.hart_inc (s : State) (f : Fld) (n : Nat) (k : Nat) : (s.inc f n).hart k = s.hart k := rfl
@[simp] theorem State.dom_inc (s : State) (f : Fld) (n : Nat) (k : Nat) : (s.inc f n).dom k = s.dom k := rfl
@[simp] theorem State.tdom_inc (s : State) (f : Fld) (n : Nat) (k : Nat) : (s.inc f n).tdom k = s.tdom k := rfl

/-! ### `tookFree` -/

@[simp] theorem State.ticks_tookFree (s : State) : (s.tookFree).ticks = s.ticks := rfl
@[simp] theorem State.mticks_tookFree (s : State) : (s.tookFree).mticks = s.mticks := rfl
@[simp] theorem State.regs_tookFree (s : State) : (s.tookFree).regs = s.regs := rfl
@[simp] theorem State.staged_tookFree (s : State) : (s.tookFree).staged = s.staged := rfl
@[simp] theorem State.latch_tookFree (s : State) : (s.tookFree).latch = s.latch := rfl
@[simp] theorem State.boot_tookFree (s : State) : (s.tookFree).boot = s.boot := rfl
@[simp] theorem State.time_tookFree (s : State) : (s.tookFree).time = s.time := rfl
@[simp] theorem State.wheel_tookFree (s : State) : (s.tookFree).wheel = s.wheel := rfl
@[simp] theorem State.cap_tookFree (s : State) : (s.tookFree).cap = s.cap := rfl
@[simp] theorem State.slices_tookFree (s : State) : (s.tookFree).slices = s.slices := rfl
@[simp] theorem State.sw_tookFree (s : State) : (s.tookFree).sw = s.sw := rfl
@[simp] theorem State.ldg_tookFree (s : State) : (s.tookFree).ldg = s.ldg := rfl
@[simp] theorem State.cpu_tookFree (s : State) : (s.tookFree).cpu = s.cpu := rfl
@[simp] theorem State.mem_tookFree (s : State) : (s.tookFree).mem = s.mem := rfl
@[simp] theorem State.world_tookFree (s : State) : (s.tookFree).world = s.world := rfl
@[simp] theorem State.guard_tookFree (s : State) : (s.tookFree).guard = s.guard := rfl
@[simp] theorem State.power_tookFree (s : State) : (s.tookFree).power = s.power := rfl
@[simp] theorem State.dbgm_tookFree (s : State) : (s.tookFree).dbgm = s.dbgm := rfl
@[simp] theorem State.pmu_tookFree (s : State) : (s.tookFree).pmu = s.pmu := rfl
@[simp] theorem State.casc_tookFree (s : State) : (s.tookFree).casc = s.casc := rfl
@[simp] theorem State.pcieLink_tookFree (s : State) : (s.tookFree).pcieLink = s.pcieLink := rfl
@[simp] theorem State.pending_tookFree (s : State) : (s.tookFree).pending = s.pending := rfl
@[simp] theorem State.rd_tookFree (s : State) (k : Nat) : (s.tookFree).rd k = s.rd k := rfl
@[simp] theorem State.get_tookFree (s : State) (k : Fld) : (s.tookFree).get k = s.get k := rfl
@[simp] theorem State.on_tookFree (s : State) (k : Fld) : (s.tookFree).on k = s.on k := rfl

/-! ### `setDom` -/

@[simp] theorem State.ticks_setDom (s : State) (d : Nat) (v : DomainSt) : (s.setDom d v).ticks = s.ticks := rfl
@[simp] theorem State.mticks_setDom (s : State) (d : Nat) (v : DomainSt) : (s.setDom d v).mticks = s.mticks := rfl
@[simp] theorem State.regs_setDom (s : State) (d : Nat) (v : DomainSt) : (s.setDom d v).regs = s.regs := rfl
@[simp] theorem State.staged_setDom (s : State) (d : Nat) (v : DomainSt) : (s.setDom d v).staged = s.staged := rfl
@[simp] theorem State.latch_setDom (s : State) (d : Nat) (v : DomainSt) : (s.setDom d v).latch = s.latch := rfl
@[simp] theorem State.boot_setDom (s : State) (d : Nat) (v : DomainSt) : (s.setDom d v).boot = s.boot := rfl
@[simp] theorem State.time_setDom (s : State) (d : Nat) (v : DomainSt) : (s.setDom d v).time = s.time := rfl
@[simp] theorem State.wheel_setDom (s : State) (d : Nat) (v : DomainSt) : (s.setDom d v).wheel = s.wheel := rfl
@[simp] theorem State.cap_setDom (s : State) (d : Nat) (v : DomainSt) : (s.setDom d v).cap = s.cap := rfl
@[simp] theorem State.slices_setDom (s : State) (d : Nat) (v : DomainSt) : (s.setDom d v).slices = s.slices := rfl
@[simp] theorem State.sw_setDom (s : State) (d : Nat) (v : DomainSt) : (s.setDom d v).sw = s.sw := rfl
@[simp] theorem State.ldg_setDom (s : State) (d : Nat) (v : DomainSt) : (s.setDom d v).ldg = s.ldg := rfl
@[simp] theorem State.cpu_setDom (s : State) (d : Nat) (v : DomainSt) : (s.setDom d v).cpu = s.cpu := rfl
@[simp] theorem State.mem_setDom (s : State) (d : Nat) (v : DomainSt) : (s.setDom d v).mem = s.mem := rfl
@[simp] theorem State.world_setDom (s : State) (d : Nat) (v : DomainSt) : (s.setDom d v).world = s.world := rfl
@[simp] theorem State.guard_setDom (s : State) (d : Nat) (v : DomainSt) : (s.setDom d v).guard = s.guard := rfl
@[simp] theorem State.dbgm_setDom (s : State) (d : Nat) (v : DomainSt) : (s.setDom d v).dbgm = s.dbgm := rfl
@[simp] theorem State.pmu_setDom (s : State) (d : Nat) (v : DomainSt) : (s.setDom d v).pmu = s.pmu := rfl
@[simp] theorem State.casc_setDom (s : State) (d : Nat) (v : DomainSt) : (s.setDom d v).casc = s.casc := rfl
@[simp] theorem State.pcieLink_setDom (s : State) (d : Nat) (v : DomainSt) : (s.setDom d v).pcieLink = s.pcieLink := rfl
@[simp] theorem State.freeCtr_setDom (s : State) (d : Nat) (v : DomainSt) : (s.setDom d v).freeCtr = s.freeCtr := rfl
@[simp] theorem State.pending_setDom (s : State) (d : Nat) (v : DomainSt) : (s.setDom d v).pending = s.pending := rfl
@[simp] theorem State.rd_setDom (s : State) (d : Nat) (v : DomainSt) (k : Nat) : (s.setDom d v).rd k = s.rd k := rfl
@[simp] theorem State.get_setDom (s : State) (d : Nat) (v : DomainSt) (k : Fld) : (s.setDom d v).get k = s.get k := rfl
@[simp] theorem State.on_setDom (s : State) (d : Nat) (v : DomainSt) (k : Fld) : (s.setDom d v).on k = s.on k := rfl

/-! ### `setHart` -/

@[simp] theorem State.ticks_setHart (s : State) (h : Nat) (v : HartSt) : (s.setHart h v).ticks = s.ticks := rfl
@[simp] theorem State.mticks_setHart (s : State) (h : Nat) (v : HartSt) : (s.setHart h v).mticks = s.mticks := rfl
@[simp] theorem State.regs_setHart (s : State) (h : Nat) (v : HartSt) : (s.setHart h v).regs = s.regs := rfl
@[simp] theorem State.staged_setHart (s : State) (h : Nat) (v : HartSt) : (s.setHart h v).staged = s.staged := rfl
@[simp] theorem State.latch_setHart (s : State) (h : Nat) (v : HartSt) : (s.setHart h v).latch = s.latch := rfl
@[simp] theorem State.boot_setHart (s : State) (h : Nat) (v : HartSt) : (s.setHart h v).boot = s.boot := rfl
@[simp] theorem State.time_setHart (s : State) (h : Nat) (v : HartSt) : (s.setHart h v).time = s.time := rfl
@[simp] theorem State.wheel_setHart (s : State) (h : Nat) (v : HartSt) : (s.setHart h v).wheel = s.wheel := rfl
@[simp] theorem State.cap_setHart (s : State) (h : Nat) (v : HartSt) : (s.setHart h v).cap = s.cap := rfl
@[simp] theorem State.slices_setHart (s : State) (h : Nat) (v : HartSt) : (s.setHart h v).slices = s.slices := rfl
@[simp] theorem State.sw_setHart (s : State) (h : Nat) (v : HartSt) : (s.setHart h v).sw = s.sw := rfl
@[simp] theorem State.ldg_setHart (s : State) (h : Nat) (v : HartSt) : (s.setHart h v).ldg = s.ldg := rfl
@[simp] theorem State.mem_setHart (s : State) (h : Nat) (v : HartSt) : (s.setHart h v).mem = s.mem := rfl
@[simp] theorem State.world_setHart (s : State) (h : Nat) (v : HartSt) : (s.setHart h v).world = s.world := rfl
@[simp] theorem State.guard_setHart (s : State) (h : Nat) (v : HartSt) : (s.setHart h v).guard = s.guard := rfl
@[simp] theorem State.power_setHart (s : State) (h : Nat) (v : HartSt) : (s.setHart h v).power = s.power := rfl
@[simp] theorem State.dbgm_setHart (s : State) (h : Nat) (v : HartSt) : (s.setHart h v).dbgm = s.dbgm := rfl
@[simp] theorem State.pmu_setHart (s : State) (h : Nat) (v : HartSt) : (s.setHart h v).pmu = s.pmu := rfl
@[simp] theorem State.casc_setHart (s : State) (h : Nat) (v : HartSt) : (s.setHart h v).casc = s.casc := rfl
@[simp] theorem State.pcieLink_setHart (s : State) (h : Nat) (v : HartSt) : (s.setHart h v).pcieLink = s.pcieLink := rfl
@[simp] theorem State.freeCtr_setHart (s : State) (h : Nat) (v : HartSt) : (s.setHart h v).freeCtr = s.freeCtr := rfl
@[simp] theorem State.pending_setHart (s : State) (h : Nat) (v : HartSt) : (s.setHart h v).pending = s.pending := rfl
@[simp] theorem State.rd_setHart (s : State) (h : Nat) (v : HartSt) (k : Nat) : (s.setHart h v).rd k = s.rd k := rfl
@[simp] theorem State.get_setHart (s : State) (h : Nat) (v : HartSt) (k : Fld) : (s.setHart h v).get k = s.get k := rfl
@[simp] theorem State.on_setHart (s : State) (h : Nat) (v : HartSt) (k : Fld) : (s.setHart h v).on k = s.on k := rfl

/-! ### `updHart` -/

@[simp] theorem State.ticks_updHart (s : State) (h : Nat) (f : HartSt → HartSt) : (s.updHart h f).ticks = s.ticks := rfl
@[simp] theorem State.mticks_updHart (s : State) (h : Nat) (f : HartSt → HartSt) : (s.updHart h f).mticks = s.mticks := rfl
@[simp] theorem State.regs_updHart (s : State) (h : Nat) (f : HartSt → HartSt) : (s.updHart h f).regs = s.regs := rfl
@[simp] theorem State.staged_updHart (s : State) (h : Nat) (f : HartSt → HartSt) : (s.updHart h f).staged = s.staged := rfl
@[simp] theorem State.latch_updHart (s : State) (h : Nat) (f : HartSt → HartSt) : (s.updHart h f).latch = s.latch := rfl
@[simp] theorem State.boot_updHart (s : State) (h : Nat) (f : HartSt → HartSt) : (s.updHart h f).boot = s.boot := rfl
@[simp] theorem State.time_updHart (s : State) (h : Nat) (f : HartSt → HartSt) : (s.updHart h f).time = s.time := rfl
@[simp] theorem State.wheel_updHart (s : State) (h : Nat) (f : HartSt → HartSt) : (s.updHart h f).wheel = s.wheel := rfl
@[simp] theorem State.cap_updHart (s : State) (h : Nat) (f : HartSt → HartSt) : (s.updHart h f).cap = s.cap := rfl
@[simp] theorem State.slices_updHart (s : State) (h : Nat) (f : HartSt → HartSt) : (s.updHart h f).slices = s.slices := rfl
@[simp] theorem State.sw_updHart (s : State) (h : Nat) (f : HartSt → HartSt) : (s.updHart h f).sw = s.sw := rfl
@[simp] theorem State.ldg_updHart (s : State) (h : Nat) (f : HartSt → HartSt) : (s.updHart h f).ldg = s.ldg := rfl
@[simp] theorem State.mem_updHart (s : State) (h : Nat) (f : HartSt → HartSt) : (s.updHart h f).mem = s.mem := rfl
@[simp] theorem State.world_updHart (s : State) (h : Nat) (f : HartSt → HartSt) : (s.updHart h f).world = s.world := rfl
@[simp] theorem State.guard_updHart (s : State) (h : Nat) (f : HartSt → HartSt) : (s.updHart h f).guard = s.guard := rfl
@[simp] theorem State.power_updHart (s : State) (h : Nat) (f : HartSt → HartSt) : (s.updHart h f).power = s.power := rfl
@[simp] theorem State.dbgm_updHart (s : State) (h : Nat) (f : HartSt → HartSt) : (s.updHart h f).dbgm = s.dbgm := rfl
@[simp] theorem State.pmu_updHart (s : State) (h : Nat) (f : HartSt → HartSt) : (s.updHart h f).pmu = s.pmu := rfl
@[simp] theorem State.casc_updHart (s : State) (h : Nat) (f : HartSt → HartSt) : (s.updHart h f).casc = s.casc := rfl
@[simp] theorem State.pcieLink_updHart (s : State) (h : Nat) (f : HartSt → HartSt) : (s.updHart h f).pcieLink = s.pcieLink := rfl
@[simp] theorem State.freeCtr_updHart (s : State) (h : Nat) (f : HartSt → HartSt) : (s.updHart h f).freeCtr = s.freeCtr := rfl
@[simp] theorem State.pending_updHart (s : State) (h : Nat) (f : HartSt → HartSt) : (s.updHart h f).pending = s.pending := rfl
@[simp] theorem State.rd_updHart (s : State) (h : Nat) (f : HartSt → HartSt) (k : Nat) : (s.updHart h f).rd k = s.rd k := rfl
@[simp] theorem State.get_updHart (s : State) (h : Nat) (f : HartSt → HartSt) (k : Fld) : (s.updHart h f).get k = s.get k := rfl
@[simp] theorem State.on_updHart (s : State) (h : Nat) (f : HartSt → HartSt) (k : Fld) : (s.updHart h f).on k = s.on k := rfl

/-! ### `setTdom` -/

@[simp] theorem State.ticks_setTdom (s : State) (d : Nat) (v : DomSt) : (s.setTdom d v).ticks = s.ticks := rfl
@[simp] theorem State.mticks_setTdom (s : State) (d : Nat) (v : DomSt) : (s.setTdom d v).mticks = s.mticks := rfl
@[simp] theorem State.regs_setTdom (s : State) (d : Nat) (v : DomSt) : (s.setTdom d v).regs = s.regs := rfl
@[simp] theorem State.staged_setTdom (s : State) (d : Nat) (v : DomSt) : (s.setTdom d v).staged = s.staged := rfl
@[simp] theorem State.latch_setTdom (s : State) (d : Nat) (v : DomSt) : (s.setTdom d v).latch = s.latch := rfl
@[simp] theorem State.boot_setTdom (s : State) (d : Nat) (v : DomSt) : (s.setTdom d v).boot = s.boot := rfl
@[simp] theorem State.wheel_setTdom (s : State) (d : Nat) (v : DomSt) : (s.setTdom d v).wheel = s.wheel := rfl
@[simp] theorem State.cap_setTdom (s : State) (d : Nat) (v : DomSt) : (s.setTdom d v).cap = s.cap := rfl
@[simp] theorem State.slices_setTdom (s : State) (d : Nat) (v : DomSt) : (s.setTdom d v).slices = s.slices := rfl
@[simp] theorem State.sw_setTdom (s : State) (d : Nat) (v : DomSt) : (s.setTdom d v).sw = s.sw := rfl
@[simp] theorem State.ldg_setTdom (s : State) (d : Nat) (v : DomSt) : (s.setTdom d v).ldg = s.ldg := rfl
@[simp] theorem State.cpu_setTdom (s : State) (d : Nat) (v : DomSt) : (s.setTdom d v).cpu = s.cpu := rfl
@[simp] theorem State.mem_setTdom (s : State) (d : Nat) (v : DomSt) : (s.setTdom d v).mem = s.mem := rfl
@[simp] theorem State.world_setTdom (s : State) (d : Nat) (v : DomSt) : (s.setTdom d v).world = s.world := rfl
@[simp] theorem State.guard_setTdom (s : State) (d : Nat) (v : DomSt) : (s.setTdom d v).guard = s.guard := rfl
@[simp] theorem State.power_setTdom (s : State) (d : Nat) (v : DomSt) : (s.setTdom d v).power = s.power := rfl
@[simp] theorem State.dbgm_setTdom (s : State) (d : Nat) (v : DomSt) : (s.setTdom d v).dbgm = s.dbgm := rfl
@[simp] theorem State.pmu_setTdom (s : State) (d : Nat) (v : DomSt) : (s.setTdom d v).pmu = s.pmu := rfl
@[simp] theorem State.casc_setTdom (s : State) (d : Nat) (v : DomSt) : (s.setTdom d v).casc = s.casc := rfl
@[simp] theorem State.pcieLink_setTdom (s : State) (d : Nat) (v : DomSt) : (s.setTdom d v).pcieLink = s.pcieLink := rfl
@[simp] theorem State.freeCtr_setTdom (s : State) (d : Nat) (v : DomSt) : (s.setTdom d v).freeCtr = s.freeCtr := rfl
@[simp] theorem State.pending_setTdom (s : State) (d : Nat) (v : DomSt) : (s.setTdom d v).pending = s.pending := rfl
@[simp] theorem State.rd_setTdom (s : State) (d : Nat) (v : DomSt) (k : Nat) : (s.setTdom d v).rd k = s.rd k := rfl
@[simp] theorem State.get_setTdom (s : State) (d : Nat) (v : DomSt) (k : Fld) : (s.setTdom d v).get k = s.get k := rfl
@[simp] theorem State.on_setTdom (s : State) (d : Nat) (v : DomSt) (k : Fld) : (s.setTdom d v).on k = s.on k := rfl

/-! ### `setBoot` -/

@[simp] theorem State.ticks_setBoot (s : State) (v : BootSt) : (s.setBoot v).ticks = s.ticks := rfl
@[simp] theorem State.mticks_setBoot (s : State) (v : BootSt) : (s.setBoot v).mticks = s.mticks := rfl
@[simp] theorem State.regs_setBoot (s : State) (v : BootSt) : (s.setBoot v).regs = s.regs := rfl
@[simp] theorem State.staged_setBoot (s : State) (v : BootSt) : (s.setBoot v).staged = s.staged := rfl
@[simp] theorem State.latch_setBoot (s : State) (v : BootSt) : (s.setBoot v).latch = s.latch := rfl
@[simp] theorem State.time_setBoot (s : State) (v : BootSt) : (s.setBoot v).time = s.time := rfl
@[simp] theorem State.wheel_setBoot (s : State) (v : BootSt) : (s.setBoot v).wheel = s.wheel := rfl
@[simp] theorem State.cap_setBoot (s : State) (v : BootSt) : (s.setBoot v).cap = s.cap := rfl
@[simp] theorem State.slices_setBoot (s : State) (v : BootSt) : (s.setBoot v).slices = s.slices := rfl
@[simp] theorem State.sw_setBoot (s : State) (v : BootSt) : (s.setBoot v).sw = s.sw := rfl
@[simp] theorem State.ldg_setBoot (s : State) (v : BootSt) : (s.setBoot v).ldg = s.ldg := rfl
@[simp] theorem State.cpu_setBoot (s : State) (v : BootSt) : (s.setBoot v).cpu = s.cpu := rfl
@[simp] theorem State.mem_setBoot (s : State) (v : BootSt) : (s.setBoot v).mem = s.mem := rfl
@[simp] theorem State.world_setBoot (s : State) (v : BootSt) : (s.setBoot v).world = s.world := rfl
@[simp] theorem State.guard_setBoot (s : State) (v : BootSt) : (s.setBoot v).guard = s.guard := rfl
@[simp] theorem State.power_setBoot (s : State) (v : BootSt) : (s.setBoot v).power = s.power := rfl
@[simp] theorem State.dbgm_setBoot (s : State) (v : BootSt) : (s.setBoot v).dbgm = s.dbgm := rfl
@[simp] theorem State.pmu_setBoot (s : State) (v : BootSt) : (s.setBoot v).pmu = s.pmu := rfl
@[simp] theorem State.casc_setBoot (s : State) (v : BootSt) : (s.setBoot v).casc = s.casc := rfl
@[simp] theorem State.pcieLink_setBoot (s : State) (v : BootSt) : (s.setBoot v).pcieLink = s.pcieLink := rfl
@[simp] theorem State.freeCtr_setBoot (s : State) (v : BootSt) : (s.setBoot v).freeCtr = s.freeCtr := rfl
@[simp] theorem State.pending_setBoot (s : State) (v : BootSt) : (s.setBoot v).pending = s.pending := rfl
@[simp] theorem State.rd_setBoot (s : State) (v : BootSt) (k : Nat) : (s.setBoot v).rd k = s.rd k := rfl
@[simp] theorem State.get_setBoot (s : State) (v : BootSt) (k : Fld) : (s.setBoot v).get k = s.get k := rfl
@[simp] theorem State.on_setBoot (s : State) (v : BootSt) (k : Fld) : (s.setBoot v).on k = s.on k := rfl

/-! ### `setPow` -/

@[simp] theorem State.ticks_setPow (s : State) (v : PowerSt) : (s.setPow v).ticks = s.ticks := rfl
@[simp] theorem State.mticks_setPow (s : State) (v : PowerSt) : (s.setPow v).mticks = s.mticks := rfl
@[simp] theorem State.regs_setPow (s : State) (v : PowerSt) : (s.setPow v).regs = s.regs := rfl
@[simp] theorem State.staged_setPow (s : State) (v : PowerSt) : (s.setPow v).staged = s.staged := rfl
@[simp] theorem State.latch_setPow (s : State) (v : PowerSt) : (s.setPow v).latch = s.latch := rfl
@[simp] theorem State.boot_setPow (s : State) (v : PowerSt) : (s.setPow v).boot = s.boot := rfl
@[simp] theorem State.time_setPow (s : State) (v : PowerSt) : (s.setPow v).time = s.time := rfl
@[simp] theorem State.wheel_setPow (s : State) (v : PowerSt) : (s.setPow v).wheel = s.wheel := rfl
@[simp] theorem State.cap_setPow (s : State) (v : PowerSt) : (s.setPow v).cap = s.cap := rfl
@[simp] theorem State.slices_setPow (s : State) (v : PowerSt) : (s.setPow v).slices = s.slices := rfl
@[simp] theorem State.sw_setPow (s : State) (v : PowerSt) : (s.setPow v).sw = s.sw := rfl
@[simp] theorem State.ldg_setPow (s : State) (v : PowerSt) : (s.setPow v).ldg = s.ldg := rfl
@[simp] theorem State.cpu_setPow (s : State) (v : PowerSt) : (s.setPow v).cpu = s.cpu := rfl
@[simp] theorem State.mem_setPow (s : State) (v : PowerSt) : (s.setPow v).mem = s.mem := rfl
@[simp] theorem State.world_setPow (s : State) (v : PowerSt) : (s.setPow v).world = s.world := rfl
@[simp] theorem State.guard_setPow (s : State) (v : PowerSt) : (s.setPow v).guard = s.guard := rfl
@[simp] theorem State.dbgm_setPow (s : State) (v : PowerSt) : (s.setPow v).dbgm = s.dbgm := rfl
@[simp] theorem State.pmu_setPow (s : State) (v : PowerSt) : (s.setPow v).pmu = s.pmu := rfl
@[simp] theorem State.casc_setPow (s : State) (v : PowerSt) : (s.setPow v).casc = s.casc := rfl
@[simp] theorem State.pcieLink_setPow (s : State) (v : PowerSt) : (s.setPow v).pcieLink = s.pcieLink := rfl
@[simp] theorem State.freeCtr_setPow (s : State) (v : PowerSt) : (s.setPow v).freeCtr = s.freeCtr := rfl
@[simp] theorem State.pending_setPow (s : State) (v : PowerSt) : (s.setPow v).pending = s.pending := rfl
@[simp] theorem State.rd_setPow (s : State) (v : PowerSt) (k : Nat) : (s.setPow v).rd k = s.rd k := rfl
@[simp] theorem State.get_setPow (s : State) (v : PowerSt) (k : Fld) : (s.setPow v).get k = s.get k := rfl
@[simp] theorem State.on_setPow (s : State) (v : PowerSt) (k : Fld) : (s.setPow v).on k = s.on k := rfl

/-! ### `setSup` -/

@[simp] theorem State.ticks_setSup (s : State) (v : SupplySt) : (s.setSup v).ticks = s.ticks := rfl
@[simp] theorem State.mticks_setSup (s : State) (v : SupplySt) : (s.setSup v).mticks = s.mticks := rfl
@[simp] theorem State.regs_setSup (s : State) (v : SupplySt) : (s.setSup v).regs = s.regs := rfl
@[simp] theorem State.staged_setSup (s : State) (v : SupplySt) : (s.setSup v).staged = s.staged := rfl
@[simp] theorem State.latch_setSup (s : State) (v : SupplySt) : (s.setSup v).latch = s.latch := rfl
@[simp] theorem State.boot_setSup (s : State) (v : SupplySt) : (s.setSup v).boot = s.boot := rfl
@[simp] theorem State.time_setSup (s : State) (v : SupplySt) : (s.setSup v).time = s.time := rfl
@[simp] theorem State.wheel_setSup (s : State) (v : SupplySt) : (s.setSup v).wheel = s.wheel := rfl
@[simp] theorem State.cap_setSup (s : State) (v : SupplySt) : (s.setSup v).cap = s.cap := rfl
@[simp] theorem State.slices_setSup (s : State) (v : SupplySt) : (s.setSup v).slices = s.slices := rfl
@[simp] theorem State.sw_setSup (s : State) (v : SupplySt) : (s.setSup v).sw = s.sw := rfl
@[simp] theorem State.ldg_setSup (s : State) (v : SupplySt) : (s.setSup v).ldg = s.ldg := rfl
@[simp] theorem State.cpu_setSup (s : State) (v : SupplySt) : (s.setSup v).cpu = s.cpu := rfl
@[simp] theorem State.mem_setSup (s : State) (v : SupplySt) : (s.setSup v).mem = s.mem := rfl
@[simp] theorem State.world_setSup (s : State) (v : SupplySt) : (s.setSup v).world = s.world := rfl
@[simp] theorem State.guard_setSup (s : State) (v : SupplySt) : (s.setSup v).guard = s.guard := rfl
@[simp] theorem State.dbgm_setSup (s : State) (v : SupplySt) : (s.setSup v).dbgm = s.dbgm := rfl
@[simp] theorem State.pmu_setSup (s : State) (v : SupplySt) : (s.setSup v).pmu = s.pmu := rfl
@[simp] theorem State.casc_setSup (s : State) (v : SupplySt) : (s.setSup v).casc = s.casc := rfl
@[simp] theorem State.pcieLink_setSup (s : State) (v : SupplySt) : (s.setSup v).pcieLink = s.pcieLink := rfl
@[simp] theorem State.freeCtr_setSup (s : State) (v : SupplySt) : (s.setSup v).freeCtr = s.freeCtr := rfl
@[simp] theorem State.pending_setSup (s : State) (v : SupplySt) : (s.setSup v).pending = s.pending := rfl
@[simp] theorem State.rd_setSup (s : State) (v : SupplySt) (k : Nat) : (s.setSup v).rd k = s.rd k := rfl
@[simp] theorem State.get_setSup (s : State) (v : SupplySt) (k : Fld) : (s.setSup v).get k = s.get k := rfl
@[simp] theorem State.on_setSup (s : State) (v : SupplySt) (k : Fld) : (s.setSup v).on k = s.on k := rfl

/-! ### `setPin` -/

@[simp] theorem State.ticks_setPin (s : State) (n : Nat) (v : PinSt) : (s.setPin n v).ticks = s.ticks := rfl
@[simp] theorem State.mticks_setPin (s : State) (n : Nat) (v : PinSt) : (s.setPin n v).mticks = s.mticks := rfl
@[simp] theorem State.regs_setPin (s : State) (n : Nat) (v : PinSt) : (s.setPin n v).regs = s.regs := rfl
@[simp] theorem State.staged_setPin (s : State) (n : Nat) (v : PinSt) : (s.setPin n v).staged = s.staged := rfl
@[simp] theorem State.latch_setPin (s : State) (n : Nat) (v : PinSt) : (s.setPin n v).latch = s.latch := rfl
@[simp] theorem State.boot_setPin (s : State) (n : Nat) (v : PinSt) : (s.setPin n v).boot = s.boot := rfl
@[simp] theorem State.wheel_setPin (s : State) (n : Nat) (v : PinSt) : (s.setPin n v).wheel = s.wheel := rfl
@[simp] theorem State.cap_setPin (s : State) (n : Nat) (v : PinSt) : (s.setPin n v).cap = s.cap := rfl
@[simp] theorem State.slices_setPin (s : State) (n : Nat) (v : PinSt) : (s.setPin n v).slices = s.slices := rfl
@[simp] theorem State.sw_setPin (s : State) (n : Nat) (v : PinSt) : (s.setPin n v).sw = s.sw := rfl
@[simp] theorem State.ldg_setPin (s : State) (n : Nat) (v : PinSt) : (s.setPin n v).ldg = s.ldg := rfl
@[simp] theorem State.cpu_setPin (s : State) (n : Nat) (v : PinSt) : (s.setPin n v).cpu = s.cpu := rfl
@[simp] theorem State.mem_setPin (s : State) (n : Nat) (v : PinSt) : (s.setPin n v).mem = s.mem := rfl
@[simp] theorem State.world_setPin (s : State) (n : Nat) (v : PinSt) : (s.setPin n v).world = s.world := rfl
@[simp] theorem State.guard_setPin (s : State) (n : Nat) (v : PinSt) : (s.setPin n v).guard = s.guard := rfl
@[simp] theorem State.power_setPin (s : State) (n : Nat) (v : PinSt) : (s.setPin n v).power = s.power := rfl
@[simp] theorem State.dbgm_setPin (s : State) (n : Nat) (v : PinSt) : (s.setPin n v).dbgm = s.dbgm := rfl
@[simp] theorem State.pmu_setPin (s : State) (n : Nat) (v : PinSt) : (s.setPin n v).pmu = s.pmu := rfl
@[simp] theorem State.casc_setPin (s : State) (n : Nat) (v : PinSt) : (s.setPin n v).casc = s.casc := rfl
@[simp] theorem State.pcieLink_setPin (s : State) (n : Nat) (v : PinSt) : (s.setPin n v).pcieLink = s.pcieLink := rfl
@[simp] theorem State.freeCtr_setPin (s : State) (n : Nat) (v : PinSt) : (s.setPin n v).freeCtr = s.freeCtr := rfl
@[simp] theorem State.pending_setPin (s : State) (n : Nat) (v : PinSt) : (s.setPin n v).pending = s.pending := rfl
@[simp] theorem State.rd_setPin (s : State) (n : Nat) (v : PinSt) (k : Nat) : (s.setPin n v).rd k = s.rd k := rfl
@[simp] theorem State.get_setPin (s : State) (n : Nat) (v : PinSt) (k : Fld) : (s.setPin n v).get k = s.get k := rfl
@[simp] theorem State.on_setPin (s : State) (n : Nat) (v : PinSt) (k : Fld) : (s.setPin n v).on k = s.on k := rfl

/-! ### `setWent` -/

@[simp] theorem State.ticks_setWent (s : State) (i : Nat) (e : WEntry) : (s.setWent i e).ticks = s.ticks := rfl
@[simp] theorem State.mticks_setWent (s : State) (i : Nat) (e : WEntry) : (s.setWent i e).mticks = s.mticks := rfl
@[simp] theorem State.regs_setWent (s : State) (i : Nat) (e : WEntry) : (s.setWent i e).regs = s.regs := rfl
@[simp] theorem State.staged_setWent (s : State) (i : Nat) (e : WEntry) : (s.setWent i e).staged = s.staged := rfl
@[simp] theorem State.latch_setWent (s : State) (i : Nat) (e : WEntry) : (s.setWent i e).latch = s.latch := rfl
@[simp] theorem State.boot_setWent (s : State) (i : Nat) (e : WEntry) : (s.setWent i e).boot = s.boot := rfl
@[simp] theorem State.time_setWent (s : State) (i : Nat) (e : WEntry) : (s.setWent i e).time = s.time := rfl
@[simp] theorem State.cap_setWent (s : State) (i : Nat) (e : WEntry) : (s.setWent i e).cap = s.cap := rfl
@[simp] theorem State.slices_setWent (s : State) (i : Nat) (e : WEntry) : (s.setWent i e).slices = s.slices := rfl
@[simp] theorem State.sw_setWent (s : State) (i : Nat) (e : WEntry) : (s.setWent i e).sw = s.sw := rfl
@[simp] theorem State.ldg_setWent (s : State) (i : Nat) (e : WEntry) : (s.setWent i e).ldg = s.ldg := rfl
@[simp] theorem State.cpu_setWent (s : State) (i : Nat) (e : WEntry) : (s.setWent i e).cpu = s.cpu := rfl
@[simp] theorem State.mem_setWent (s : State) (i : Nat) (e : WEntry) : (s.setWent i e).mem = s.mem := rfl
@[simp] theorem State.world_setWent (s : State) (i : Nat) (e : WEntry) : (s.setWent i e).world = s.world := rfl
@[simp] theorem State.guard_setWent (s : State) (i : Nat) (e : WEntry) : (s.setWent i e).guard = s.guard := rfl
@[simp] theorem State.power_setWent (s : State) (i : Nat) (e : WEntry) : (s.setWent i e).power = s.power := rfl
@[simp] theorem State.dbgm_setWent (s : State) (i : Nat) (e : WEntry) : (s.setWent i e).dbgm = s.dbgm := rfl
@[simp] theorem State.pmu_setWent (s : State) (i : Nat) (e : WEntry) : (s.setWent i e).pmu = s.pmu := rfl
@[simp] theorem State.casc_setWent (s : State) (i : Nat) (e : WEntry) : (s.setWent i e).casc = s.casc := rfl
@[simp] theorem State.pcieLink_setWent (s : State) (i : Nat) (e : WEntry) : (s.setWent i e).pcieLink = s.pcieLink := rfl
@[simp] theorem State.freeCtr_setWent (s : State) (i : Nat) (e : WEntry) : (s.setWent i e).freeCtr = s.freeCtr := rfl
@[simp] theorem State.pending_setWent (s : State) (i : Nat) (e : WEntry) : (s.setWent i e).pending = s.pending := rfl
@[simp] theorem State.rd_setWent (s : State) (i : Nat) (e : WEntry) (k : Nat) : (s.setWent i e).rd k = s.rd k := rfl
@[simp] theorem State.get_setWent (s : State) (i : Nat) (e : WEntry) (k : Fld) : (s.setWent i e).get k = s.get k := rfl
@[simp] theorem State.on_setWent (s : State) (i : Nat) (e : WEntry) (k : Fld) : (s.setWent i e).on k = s.on k := rfl

/-! ### `setSlice` -/

@[simp] theorem State.ticks_setSlice (s : State) (n : Nat) (v : SliceSt) : (s.setSlice n v).ticks = s.ticks := rfl
@[simp] theorem State.mticks_setSlice (s : State) (n : Nat) (v : SliceSt) : (s.setSlice n v).mticks = s.mticks := rfl
@[simp] theorem State.regs_setSlice (s : State) (n : Nat) (v : SliceSt) : (s.setSlice n v).regs = s.regs := rfl
@[simp] theorem State.staged_setSlice (s : State) (n : Nat) (v : SliceSt) : (s.setSlice n v).staged = s.staged := rfl
@[simp] theorem State.latch_setSlice (s : State) (n : Nat) (v : SliceSt) : (s.setSlice n v).latch = s.latch := rfl
@[simp] theorem State.boot_setSlice (s : State) (n : Nat) (v : SliceSt) : (s.setSlice n v).boot = s.boot := rfl
@[simp] theorem State.time_setSlice (s : State) (n : Nat) (v : SliceSt) : (s.setSlice n v).time = s.time := rfl
@[simp] theorem State.wheel_setSlice (s : State) (n : Nat) (v : SliceSt) : (s.setSlice n v).wheel = s.wheel := rfl
@[simp] theorem State.cap_setSlice (s : State) (n : Nat) (v : SliceSt) : (s.setSlice n v).cap = s.cap := rfl
@[simp] theorem State.sw_setSlice (s : State) (n : Nat) (v : SliceSt) : (s.setSlice n v).sw = s.sw := rfl
@[simp] theorem State.ldg_setSlice (s : State) (n : Nat) (v : SliceSt) : (s.setSlice n v).ldg = s.ldg := rfl
@[simp] theorem State.cpu_setSlice (s : State) (n : Nat) (v : SliceSt) : (s.setSlice n v).cpu = s.cpu := rfl
@[simp] theorem State.mem_setSlice (s : State) (n : Nat) (v : SliceSt) : (s.setSlice n v).mem = s.mem := rfl
@[simp] theorem State.world_setSlice (s : State) (n : Nat) (v : SliceSt) : (s.setSlice n v).world = s.world := rfl
@[simp] theorem State.guard_setSlice (s : State) (n : Nat) (v : SliceSt) : (s.setSlice n v).guard = s.guard := rfl
@[simp] theorem State.power_setSlice (s : State) (n : Nat) (v : SliceSt) : (s.setSlice n v).power = s.power := rfl
@[simp] theorem State.dbgm_setSlice (s : State) (n : Nat) (v : SliceSt) : (s.setSlice n v).dbgm = s.dbgm := rfl
@[simp] theorem State.pmu_setSlice (s : State) (n : Nat) (v : SliceSt) : (s.setSlice n v).pmu = s.pmu := rfl
@[simp] theorem State.casc_setSlice (s : State) (n : Nat) (v : SliceSt) : (s.setSlice n v).casc = s.casc := rfl
@[simp] theorem State.pcieLink_setSlice (s : State) (n : Nat) (v : SliceSt) : (s.setSlice n v).pcieLink = s.pcieLink := rfl
@[simp] theorem State.freeCtr_setSlice (s : State) (n : Nat) (v : SliceSt) : (s.setSlice n v).freeCtr = s.freeCtr := rfl
@[simp] theorem State.pending_setSlice (s : State) (n : Nat) (v : SliceSt) : (s.setSlice n v).pending = s.pending := rfl
@[simp] theorem State.rd_setSlice (s : State) (n : Nat) (v : SliceSt) (k : Nat) : (s.setSlice n v).rd k = s.rd k := rfl
@[simp] theorem State.get_setSlice (s : State) (n : Nat) (v : SliceSt) (k : Fld) : (s.setSlice n v).get k = s.get k := rfl
@[simp] theorem State.on_setSlice (s : State) (n : Nat) (v : SliceSt) (k : Fld) : (s.setSlice n v).on k = s.on k := rfl

/-! ### `setLdg` -/

@[simp] theorem State.ticks_setLdg (s : State) (v : LdgSt) : (s.setLdg v).ticks = s.ticks := rfl
@[simp] theorem State.mticks_setLdg (s : State) (v : LdgSt) : (s.setLdg v).mticks = s.mticks := rfl
@[simp] theorem State.regs_setLdg (s : State) (v : LdgSt) : (s.setLdg v).regs = s.regs := rfl
@[simp] theorem State.staged_setLdg (s : State) (v : LdgSt) : (s.setLdg v).staged = s.staged := rfl
@[simp] theorem State.latch_setLdg (s : State) (v : LdgSt) : (s.setLdg v).latch = s.latch := rfl
@[simp] theorem State.boot_setLdg (s : State) (v : LdgSt) : (s.setLdg v).boot = s.boot := rfl
@[simp] theorem State.time_setLdg (s : State) (v : LdgSt) : (s.setLdg v).time = s.time := rfl
@[simp] theorem State.wheel_setLdg (s : State) (v : LdgSt) : (s.setLdg v).wheel = s.wheel := rfl
@[simp] theorem State.cap_setLdg (s : State) (v : LdgSt) : (s.setLdg v).cap = s.cap := rfl
@[simp] theorem State.slices_setLdg (s : State) (v : LdgSt) : (s.setLdg v).slices = s.slices := rfl
@[simp] theorem State.sw_setLdg (s : State) (v : LdgSt) : (s.setLdg v).sw = s.sw := rfl
@[simp] theorem State.cpu_setLdg (s : State) (v : LdgSt) : (s.setLdg v).cpu = s.cpu := rfl
@[simp] theorem State.mem_setLdg (s : State) (v : LdgSt) : (s.setLdg v).mem = s.mem := rfl
@[simp] theorem State.world_setLdg (s : State) (v : LdgSt) : (s.setLdg v).world = s.world := rfl
@[simp] theorem State.guard_setLdg (s : State) (v : LdgSt) : (s.setLdg v).guard = s.guard := rfl
@[simp] theorem State.power_setLdg (s : State) (v : LdgSt) : (s.setLdg v).power = s.power := rfl
@[simp] theorem State.dbgm_setLdg (s : State) (v : LdgSt) : (s.setLdg v).dbgm = s.dbgm := rfl
@[simp] theorem State.pmu_setLdg (s : State) (v : LdgSt) : (s.setLdg v).pmu = s.pmu := rfl
@[simp] theorem State.casc_setLdg (s : State) (v : LdgSt) : (s.setLdg v).casc = s.casc := rfl
@[simp] theorem State.pcieLink_setLdg (s : State) (v : LdgSt) : (s.setLdg v).pcieLink = s.pcieLink := rfl
@[simp] theorem State.freeCtr_setLdg (s : State) (v : LdgSt) : (s.setLdg v).freeCtr = s.freeCtr := rfl
@[simp] theorem State.pending_setLdg (s : State) (v : LdgSt) : (s.setLdg v).pending = s.pending := rfl
@[simp] theorem State.rd_setLdg (s : State) (v : LdgSt) (k : Nat) : (s.setLdg v).rd k = s.rd k := rfl
@[simp] theorem State.get_setLdg (s : State) (v : LdgSt) (k : Fld) : (s.setLdg v).get k = s.get k := rfl
@[simp] theorem State.on_setLdg (s : State) (v : LdgSt) (k : Fld) : (s.setLdg v).on k = s.on k := rfl

/-! ### `setImsic` -/

@[simp] theorem State.ticks_setImsic (s : State) (h f : Nat) (v : ImsicFile) : (s.setImsic h f v).ticks = s.ticks := rfl
@[simp] theorem State.mticks_setImsic (s : State) (h f : Nat) (v : ImsicFile) : (s.setImsic h f v).mticks = s.mticks := rfl
@[simp] theorem State.regs_setImsic (s : State) (h f : Nat) (v : ImsicFile) : (s.setImsic h f v).regs = s.regs := rfl
@[simp] theorem State.staged_setImsic (s : State) (h f : Nat) (v : ImsicFile) : (s.setImsic h f v).staged = s.staged := rfl
@[simp] theorem State.latch_setImsic (s : State) (h f : Nat) (v : ImsicFile) : (s.setImsic h f v).latch = s.latch := rfl
@[simp] theorem State.boot_setImsic (s : State) (h f : Nat) (v : ImsicFile) : (s.setImsic h f v).boot = s.boot := rfl
@[simp] theorem State.time_setImsic (s : State) (h f : Nat) (v : ImsicFile) : (s.setImsic h f v).time = s.time := rfl
@[simp] theorem State.wheel_setImsic (s : State) (h f : Nat) (v : ImsicFile) : (s.setImsic h f v).wheel = s.wheel := rfl
@[simp] theorem State.cap_setImsic (s : State) (h f : Nat) (v : ImsicFile) : (s.setImsic h f v).cap = s.cap := rfl
@[simp] theorem State.slices_setImsic (s : State) (h f : Nat) (v : ImsicFile) : (s.setImsic h f v).slices = s.slices := rfl
@[simp] theorem State.sw_setImsic (s : State) (h f : Nat) (v : ImsicFile) : (s.setImsic h f v).sw = s.sw := rfl
@[simp] theorem State.ldg_setImsic (s : State) (h f : Nat) (v : ImsicFile) : (s.setImsic h f v).ldg = s.ldg := rfl
@[simp] theorem State.mem_setImsic (s : State) (h f : Nat) (v : ImsicFile) : (s.setImsic h f v).mem = s.mem := rfl
@[simp] theorem State.world_setImsic (s : State) (h f : Nat) (v : ImsicFile) : (s.setImsic h f v).world = s.world := rfl
@[simp] theorem State.guard_setImsic (s : State) (h f : Nat) (v : ImsicFile) : (s.setImsic h f v).guard = s.guard := rfl
@[simp] theorem State.power_setImsic (s : State) (h f : Nat) (v : ImsicFile) : (s.setImsic h f v).power = s.power := rfl
@[simp] theorem State.dbgm_setImsic (s : State) (h f : Nat) (v : ImsicFile) : (s.setImsic h f v).dbgm = s.dbgm := rfl
@[simp] theorem State.pmu_setImsic (s : State) (h f : Nat) (v : ImsicFile) : (s.setImsic h f v).pmu = s.pmu := rfl
@[simp] theorem State.casc_setImsic (s : State) (h f : Nat) (v : ImsicFile) : (s.setImsic h f v).casc = s.casc := rfl
@[simp] theorem State.pcieLink_setImsic (s : State) (h f : Nat) (v : ImsicFile) : (s.setImsic h f v).pcieLink = s.pcieLink := rfl
@[simp] theorem State.freeCtr_setImsic (s : State) (h f : Nat) (v : ImsicFile) : (s.setImsic h f v).freeCtr = s.freeCtr := rfl
@[simp] theorem State.pending_setImsic (s : State) (h f : Nat) (v : ImsicFile) : (s.setImsic h f v).pending = s.pending := rfl
@[simp] theorem State.rd_setImsic (s : State) (h f : Nat) (v : ImsicFile) (k : Nat) : (s.setImsic h f v).rd k = s.rd k := rfl
@[simp] theorem State.get_setImsic (s : State) (h f : Nat) (v : ImsicFile) (k : Fld) : (s.setImsic h f v).get k = s.get k := rfl
@[simp] theorem State.on_setImsic (s : State) (h f : Nat) (v : ImsicFile) (k : Fld) : (s.setImsic h f v).on k = s.on k := rfl

/-! ### `setAplic` -/

@[simp] theorem State.ticks_setAplic (s : State) (d i : Nat) (v : AplicSrc) : (s.setAplic d i v).ticks = s.ticks := rfl
@[simp] theorem State.mticks_setAplic (s : State) (d i : Nat) (v : AplicSrc) : (s.setAplic d i v).mticks = s.mticks := rfl
@[simp] theorem State.regs_setAplic (s : State) (d i : Nat) (v : AplicSrc) : (s.setAplic d i v).regs = s.regs := rfl
@[simp] theorem State.staged_setAplic (s : State) (d i : Nat) (v : AplicSrc) : (s.setAplic d i v).staged = s.staged := rfl
@[simp] theorem State.latch_setAplic (s : State) (d i : Nat) (v : AplicSrc) : (s.setAplic d i v).latch = s.latch := rfl
@[simp] theorem State.boot_setAplic (s : State) (d i : Nat) (v : AplicSrc) : (s.setAplic d i v).boot = s.boot := rfl
@[simp] theorem State.time_setAplic (s : State) (d i : Nat) (v : AplicSrc) : (s.setAplic d i v).time = s.time := rfl
@[simp] theorem State.wheel_setAplic (s : State) (d i : Nat) (v : AplicSrc) : (s.setAplic d i v).wheel = s.wheel := rfl
@[simp] theorem State.cap_setAplic (s : State) (d i : Nat) (v : AplicSrc) : (s.setAplic d i v).cap = s.cap := rfl
@[simp] theorem State.slices_setAplic (s : State) (d i : Nat) (v : AplicSrc) : (s.setAplic d i v).slices = s.slices := rfl
@[simp] theorem State.sw_setAplic (s : State) (d i : Nat) (v : AplicSrc) : (s.setAplic d i v).sw = s.sw := rfl
@[simp] theorem State.ldg_setAplic (s : State) (d i : Nat) (v : AplicSrc) : (s.setAplic d i v).ldg = s.ldg := rfl
@[simp] theorem State.mem_setAplic (s : State) (d i : Nat) (v : AplicSrc) : (s.setAplic d i v).mem = s.mem := rfl
@[simp] theorem State.world_setAplic (s : State) (d i : Nat) (v : AplicSrc) : (s.setAplic d i v).world = s.world := rfl
@[simp] theorem State.guard_setAplic (s : State) (d i : Nat) (v : AplicSrc) : (s.setAplic d i v).guard = s.guard := rfl
@[simp] theorem State.power_setAplic (s : State) (d i : Nat) (v : AplicSrc) : (s.setAplic d i v).power = s.power := rfl
@[simp] theorem State.dbgm_setAplic (s : State) (d i : Nat) (v : AplicSrc) : (s.setAplic d i v).dbgm = s.dbgm := rfl
@[simp] theorem State.pmu_setAplic (s : State) (d i : Nat) (v : AplicSrc) : (s.setAplic d i v).pmu = s.pmu := rfl
@[simp] theorem State.casc_setAplic (s : State) (d i : Nat) (v : AplicSrc) : (s.setAplic d i v).casc = s.casc := rfl
@[simp] theorem State.pcieLink_setAplic (s : State) (d i : Nat) (v : AplicSrc) : (s.setAplic d i v).pcieLink = s.pcieLink := rfl
@[simp] theorem State.freeCtr_setAplic (s : State) (d i : Nat) (v : AplicSrc) : (s.setAplic d i v).freeCtr = s.freeCtr := rfl
@[simp] theorem State.pending_setAplic (s : State) (d i : Nat) (v : AplicSrc) : (s.setAplic d i v).pending = s.pending := rfl
@[simp] theorem State.rd_setAplic (s : State) (d i : Nat) (v : AplicSrc) (k : Nat) : (s.setAplic d i v).rd k = s.rd k := rfl
@[simp] theorem State.get_setAplic (s : State) (d i : Nat) (v : AplicSrc) (k : Fld) : (s.setAplic d i v).get k = s.get k := rfl
@[simp] theorem State.on_setAplic (s : State) (d i : Nat) (v : AplicSrc) (k : Fld) : (s.setAplic d i v).on k = s.on k := rfl

/-! ### `setL2` -/

@[simp] theorem State.ticks_setL2 (s : State) (c line : Nat) (v : Option L2Line) : (s.setL2 c line v).ticks = s.ticks := rfl
@[simp] theorem State.mticks_setL2 (s : State) (c line : Nat) (v : Option L2Line) : (s.setL2 c line v).mticks = s.mticks := rfl
@[simp] theorem State.regs_setL2 (s : State) (c line : Nat) (v : Option L2Line) : (s.setL2 c line v).regs = s.regs := rfl
@[simp] theorem State.staged_setL2 (s : State) (c line : Nat) (v : Option L2Line) : (s.setL2 c line v).staged = s.staged := rfl
@[simp] theorem State.latch_setL2 (s : State) (c line : Nat) (v : Option L2Line) : (s.setL2 c line v).latch = s.latch := rfl
@[simp] theorem State.boot_setL2 (s : State) (c line : Nat) (v : Option L2Line) : (s.setL2 c line v).boot = s.boot := rfl
@[simp] theorem State.time_setL2 (s : State) (c line : Nat) (v : Option L2Line) : (s.setL2 c line v).time = s.time := rfl
@[simp] theorem State.wheel_setL2 (s : State) (c line : Nat) (v : Option L2Line) : (s.setL2 c line v).wheel = s.wheel := rfl
@[simp] theorem State.cap_setL2 (s : State) (c line : Nat) (v : Option L2Line) : (s.setL2 c line v).cap = s.cap := rfl
@[simp] theorem State.slices_setL2 (s : State) (c line : Nat) (v : Option L2Line) : (s.setL2 c line v).slices = s.slices := rfl
@[simp] theorem State.sw_setL2 (s : State) (c line : Nat) (v : Option L2Line) : (s.setL2 c line v).sw = s.sw := rfl
@[simp] theorem State.ldg_setL2 (s : State) (c line : Nat) (v : Option L2Line) : (s.setL2 c line v).ldg = s.ldg := rfl
@[simp] theorem State.mem_setL2 (s : State) (c line : Nat) (v : Option L2Line) : (s.setL2 c line v).mem = s.mem := rfl
@[simp] theorem State.world_setL2 (s : State) (c line : Nat) (v : Option L2Line) : (s.setL2 c line v).world = s.world := rfl
@[simp] theorem State.guard_setL2 (s : State) (c line : Nat) (v : Option L2Line) : (s.setL2 c line v).guard = s.guard := rfl
@[simp] theorem State.power_setL2 (s : State) (c line : Nat) (v : Option L2Line) : (s.setL2 c line v).power = s.power := rfl
@[simp] theorem State.dbgm_setL2 (s : State) (c line : Nat) (v : Option L2Line) : (s.setL2 c line v).dbgm = s.dbgm := rfl
@[simp] theorem State.pmu_setL2 (s : State) (c line : Nat) (v : Option L2Line) : (s.setL2 c line v).pmu = s.pmu := rfl
@[simp] theorem State.casc_setL2 (s : State) (c line : Nat) (v : Option L2Line) : (s.setL2 c line v).casc = s.casc := rfl
@[simp] theorem State.pcieLink_setL2 (s : State) (c line : Nat) (v : Option L2Line) : (s.setL2 c line v).pcieLink = s.pcieLink := rfl
@[simp] theorem State.freeCtr_setL2 (s : State) (c line : Nat) (v : Option L2Line) : (s.setL2 c line v).freeCtr = s.freeCtr := rfl
@[simp] theorem State.pending_setL2 (s : State) (c line : Nat) (v : Option L2Line) : (s.setL2 c line v).pending = s.pending := rfl
@[simp] theorem State.rd_setL2 (s : State) (c line : Nat) (v : Option L2Line) (k : Nat) : (s.setL2 c line v).rd k = s.rd k := rfl
@[simp] theorem State.get_setL2 (s : State) (c line : Nat) (v : Option L2Line) (k : Fld) : (s.setL2 c line v).get k = s.get k := rfl
@[simp] theorem State.on_setL2 (s : State) (c line : Nat) (v : Option L2Line) (k : Fld) : (s.setL2 c line v).on k = s.on k := rfl

/-! ### `setSlc` -/

@[simp] theorem State.ticks_setSlc (s : State) (line : Nat) (v : Option SlcLine) : (s.setSlc line v).ticks = s.ticks := rfl
@[simp] theorem State.mticks_setSlc (s : State) (line : Nat) (v : Option SlcLine) : (s.setSlc line v).mticks = s.mticks := rfl
@[simp] theorem State.regs_setSlc (s : State) (line : Nat) (v : Option SlcLine) : (s.setSlc line v).regs = s.regs := rfl
@[simp] theorem State.staged_setSlc (s : State) (line : Nat) (v : Option SlcLine) : (s.setSlc line v).staged = s.staged := rfl
@[simp] theorem State.latch_setSlc (s : State) (line : Nat) (v : Option SlcLine) : (s.setSlc line v).latch = s.latch := rfl
@[simp] theorem State.boot_setSlc (s : State) (line : Nat) (v : Option SlcLine) : (s.setSlc line v).boot = s.boot := rfl
@[simp] theorem State.time_setSlc (s : State) (line : Nat) (v : Option SlcLine) : (s.setSlc line v).time = s.time := rfl
@[simp] theorem State.wheel_setSlc (s : State) (line : Nat) (v : Option SlcLine) : (s.setSlc line v).wheel = s.wheel := rfl
@[simp] theorem State.cap_setSlc (s : State) (line : Nat) (v : Option SlcLine) : (s.setSlc line v).cap = s.cap := rfl
@[simp] theorem State.slices_setSlc (s : State) (line : Nat) (v : Option SlcLine) : (s.setSlc line v).slices = s.slices := rfl
@[simp] theorem State.sw_setSlc (s : State) (line : Nat) (v : Option SlcLine) : (s.setSlc line v).sw = s.sw := rfl
@[simp] theorem State.ldg_setSlc (s : State) (line : Nat) (v : Option SlcLine) : (s.setSlc line v).ldg = s.ldg := rfl
@[simp] theorem State.mem_setSlc (s : State) (line : Nat) (v : Option SlcLine) : (s.setSlc line v).mem = s.mem := rfl
@[simp] theorem State.world_setSlc (s : State) (line : Nat) (v : Option SlcLine) : (s.setSlc line v).world = s.world := rfl
@[simp] theorem State.guard_setSlc (s : State) (line : Nat) (v : Option SlcLine) : (s.setSlc line v).guard = s.guard := rfl
@[simp] theorem State.power_setSlc (s : State) (line : Nat) (v : Option SlcLine) : (s.setSlc line v).power = s.power := rfl
@[simp] theorem State.dbgm_setSlc (s : State) (line : Nat) (v : Option SlcLine) : (s.setSlc line v).dbgm = s.dbgm := rfl
@[simp] theorem State.pmu_setSlc (s : State) (line : Nat) (v : Option SlcLine) : (s.setSlc line v).pmu = s.pmu := rfl
@[simp] theorem State.casc_setSlc (s : State) (line : Nat) (v : Option SlcLine) : (s.setSlc line v).casc = s.casc := rfl
@[simp] theorem State.pcieLink_setSlc (s : State) (line : Nat) (v : Option SlcLine) : (s.setSlc line v).pcieLink = s.pcieLink := rfl
@[simp] theorem State.freeCtr_setSlc (s : State) (line : Nat) (v : Option SlcLine) : (s.setSlc line v).freeCtr = s.freeCtr := rfl
@[simp] theorem State.pending_setSlc (s : State) (line : Nat) (v : Option SlcLine) : (s.setSlc line v).pending = s.pending := rfl
@[simp] theorem State.rd_setSlc (s : State) (line : Nat) (v : Option SlcLine) (k : Nat) : (s.setSlc line v).rd k = s.rd k := rfl
@[simp] theorem State.get_setSlc (s : State) (line : Nat) (v : Option SlcLine) (k : Fld) : (s.setSlc line v).get k = s.get k := rfl
@[simp] theorem State.on_setSlc (s : State) (line : Nat) (v : Option SlcLine) (k : Fld) : (s.setSlc line v).on k = s.on k := rfl

/-! ### `setDir` -/

@[simp] theorem State.ticks_setDir (s : State) (line : Nat) (v : DirEntry) : (s.setDir line v).ticks = s.ticks := rfl
@[simp] theorem State.mticks_setDir (s : State) (line : Nat) (v : DirEntry) : (s.setDir line v).mticks = s.mticks := rfl
@[simp] theorem State.regs_setDir (s : State) (line : Nat) (v : DirEntry) : (s.setDir line v).regs = s.regs := rfl
@[simp] theorem State.staged_setDir (s : State) (line : Nat) (v : DirEntry) : (s.setDir line v).staged = s.staged := rfl
@[simp] theorem State.latch_setDir (s : State) (line : Nat) (v : DirEntry) : (s.setDir line v).latch = s.latch := rfl
@[simp] theorem State.boot_setDir (s : State) (line : Nat) (v : DirEntry) : (s.setDir line v).boot = s.boot := rfl
@[simp] theorem State.time_setDir (s : State) (line : Nat) (v : DirEntry) : (s.setDir line v).time = s.time := rfl
@[simp] theorem State.wheel_setDir (s : State) (line : Nat) (v : DirEntry) : (s.setDir line v).wheel = s.wheel := rfl
@[simp] theorem State.cap_setDir (s : State) (line : Nat) (v : DirEntry) : (s.setDir line v).cap = s.cap := rfl
@[simp] theorem State.slices_setDir (s : State) (line : Nat) (v : DirEntry) : (s.setDir line v).slices = s.slices := rfl
@[simp] theorem State.sw_setDir (s : State) (line : Nat) (v : DirEntry) : (s.setDir line v).sw = s.sw := rfl
@[simp] theorem State.ldg_setDir (s : State) (line : Nat) (v : DirEntry) : (s.setDir line v).ldg = s.ldg := rfl
@[simp] theorem State.mem_setDir (s : State) (line : Nat) (v : DirEntry) : (s.setDir line v).mem = s.mem := rfl
@[simp] theorem State.world_setDir (s : State) (line : Nat) (v : DirEntry) : (s.setDir line v).world = s.world := rfl
@[simp] theorem State.guard_setDir (s : State) (line : Nat) (v : DirEntry) : (s.setDir line v).guard = s.guard := rfl
@[simp] theorem State.power_setDir (s : State) (line : Nat) (v : DirEntry) : (s.setDir line v).power = s.power := rfl
@[simp] theorem State.dbgm_setDir (s : State) (line : Nat) (v : DirEntry) : (s.setDir line v).dbgm = s.dbgm := rfl
@[simp] theorem State.pmu_setDir (s : State) (line : Nat) (v : DirEntry) : (s.setDir line v).pmu = s.pmu := rfl
@[simp] theorem State.casc_setDir (s : State) (line : Nat) (v : DirEntry) : (s.setDir line v).casc = s.casc := rfl
@[simp] theorem State.pcieLink_setDir (s : State) (line : Nat) (v : DirEntry) : (s.setDir line v).pcieLink = s.pcieLink := rfl
@[simp] theorem State.freeCtr_setDir (s : State) (line : Nat) (v : DirEntry) : (s.setDir line v).freeCtr = s.freeCtr := rfl
@[simp] theorem State.pending_setDir (s : State) (line : Nat) (v : DirEntry) : (s.setDir line v).pending = s.pending := rfl
@[simp] theorem State.rd_setDir (s : State) (line : Nat) (v : DirEntry) (k : Nat) : (s.setDir line v).rd k = s.rd k := rfl
@[simp] theorem State.get_setDir (s : State) (line : Nat) (v : DirEntry) (k : Fld) : (s.setDir line v).get k = s.get k := rfl
@[simp] theorem State.on_setDir (s : State) (line : Nat) (v : DirEntry) (k : Fld) : (s.setDir line v).on k = s.on k := rfl

/-! ### `setEpoch` -/

@[simp] theorem State.ticks_setEpoch (s : State) (c : Nat) (v : EpochSt) : (s.setEpoch c v).ticks = s.ticks := rfl
@[simp] theorem State.mticks_setEpoch (s : State) (c : Nat) (v : EpochSt) : (s.setEpoch c v).mticks = s.mticks := rfl
@[simp] theorem State.regs_setEpoch (s : State) (c : Nat) (v : EpochSt) : (s.setEpoch c v).regs = s.regs := rfl
@[simp] theorem State.staged_setEpoch (s : State) (c : Nat) (v : EpochSt) : (s.setEpoch c v).staged = s.staged := rfl
@[simp] theorem State.latch_setEpoch (s : State) (c : Nat) (v : EpochSt) : (s.setEpoch c v).latch = s.latch := rfl
@[simp] theorem State.boot_setEpoch (s : State) (c : Nat) (v : EpochSt) : (s.setEpoch c v).boot = s.boot := rfl
@[simp] theorem State.time_setEpoch (s : State) (c : Nat) (v : EpochSt) : (s.setEpoch c v).time = s.time := rfl
@[simp] theorem State.wheel_setEpoch (s : State) (c : Nat) (v : EpochSt) : (s.setEpoch c v).wheel = s.wheel := rfl
@[simp] theorem State.cap_setEpoch (s : State) (c : Nat) (v : EpochSt) : (s.setEpoch c v).cap = s.cap := rfl
@[simp] theorem State.slices_setEpoch (s : State) (c : Nat) (v : EpochSt) : (s.setEpoch c v).slices = s.slices := rfl
@[simp] theorem State.sw_setEpoch (s : State) (c : Nat) (v : EpochSt) : (s.setEpoch c v).sw = s.sw := rfl
@[simp] theorem State.ldg_setEpoch (s : State) (c : Nat) (v : EpochSt) : (s.setEpoch c v).ldg = s.ldg := rfl
@[simp] theorem State.cpu_setEpoch (s : State) (c : Nat) (v : EpochSt) : (s.setEpoch c v).cpu = s.cpu := rfl
@[simp] theorem State.mem_setEpoch (s : State) (c : Nat) (v : EpochSt) : (s.setEpoch c v).mem = s.mem := rfl
@[simp] theorem State.world_setEpoch (s : State) (c : Nat) (v : EpochSt) : (s.setEpoch c v).world = s.world := rfl
@[simp] theorem State.power_setEpoch (s : State) (c : Nat) (v : EpochSt) : (s.setEpoch c v).power = s.power := rfl
@[simp] theorem State.dbgm_setEpoch (s : State) (c : Nat) (v : EpochSt) : (s.setEpoch c v).dbgm = s.dbgm := rfl
@[simp] theorem State.pmu_setEpoch (s : State) (c : Nat) (v : EpochSt) : (s.setEpoch c v).pmu = s.pmu := rfl
@[simp] theorem State.casc_setEpoch (s : State) (c : Nat) (v : EpochSt) : (s.setEpoch c v).casc = s.casc := rfl
@[simp] theorem State.pcieLink_setEpoch (s : State) (c : Nat) (v : EpochSt) : (s.setEpoch c v).pcieLink = s.pcieLink := rfl
@[simp] theorem State.freeCtr_setEpoch (s : State) (c : Nat) (v : EpochSt) : (s.setEpoch c v).freeCtr = s.freeCtr := rfl
@[simp] theorem State.pending_setEpoch (s : State) (c : Nat) (v : EpochSt) : (s.setEpoch c v).pending = s.pending := rfl
@[simp] theorem State.rd_setEpoch (s : State) (c : Nat) (v : EpochSt) (k : Nat) : (s.setEpoch c v).rd k = s.rd k := rfl
@[simp] theorem State.get_setEpoch (s : State) (c : Nat) (v : EpochSt) (k : Fld) : (s.setEpoch c v).get k = s.get k := rfl
@[simp] theorem State.on_setEpoch (s : State) (c : Nat) (v : EpochSt) (k : Fld) : (s.setEpoch c v).on k = s.on k := rfl

/-! ### `setByte` -/

@[simp] theorem State.ticks_setByte (s : State) (a : Nat) (b : Byte) : (s.setByte a b).ticks = s.ticks := rfl
@[simp] theorem State.mticks_setByte (s : State) (a : Nat) (b : Byte) : (s.setByte a b).mticks = s.mticks := rfl
@[simp] theorem State.regs_setByte (s : State) (a : Nat) (b : Byte) : (s.setByte a b).regs = s.regs := rfl
@[simp] theorem State.staged_setByte (s : State) (a : Nat) (b : Byte) : (s.setByte a b).staged = s.staged := rfl
@[simp] theorem State.latch_setByte (s : State) (a : Nat) (b : Byte) : (s.setByte a b).latch = s.latch := rfl
@[simp] theorem State.boot_setByte (s : State) (a : Nat) (b : Byte) : (s.setByte a b).boot = s.boot := rfl
@[simp] theorem State.time_setByte (s : State) (a : Nat) (b : Byte) : (s.setByte a b).time = s.time := rfl
@[simp] theorem State.wheel_setByte (s : State) (a : Nat) (b : Byte) : (s.setByte a b).wheel = s.wheel := rfl
@[simp] theorem State.cap_setByte (s : State) (a : Nat) (b : Byte) : (s.setByte a b).cap = s.cap := rfl
@[simp] theorem State.slices_setByte (s : State) (a : Nat) (b : Byte) : (s.setByte a b).slices = s.slices := rfl
@[simp] theorem State.sw_setByte (s : State) (a : Nat) (b : Byte) : (s.setByte a b).sw = s.sw := rfl
@[simp] theorem State.ldg_setByte (s : State) (a : Nat) (b : Byte) : (s.setByte a b).ldg = s.ldg := rfl
@[simp] theorem State.cpu_setByte (s : State) (a : Nat) (b : Byte) : (s.setByte a b).cpu = s.cpu := rfl
@[simp] theorem State.world_setByte (s : State) (a : Nat) (b : Byte) : (s.setByte a b).world = s.world := rfl
@[simp] theorem State.guard_setByte (s : State) (a : Nat) (b : Byte) : (s.setByte a b).guard = s.guard := rfl
@[simp] theorem State.power_setByte (s : State) (a : Nat) (b : Byte) : (s.setByte a b).power = s.power := rfl
@[simp] theorem State.dbgm_setByte (s : State) (a : Nat) (b : Byte) : (s.setByte a b).dbgm = s.dbgm := rfl
@[simp] theorem State.pmu_setByte (s : State) (a : Nat) (b : Byte) : (s.setByte a b).pmu = s.pmu := rfl
@[simp] theorem State.casc_setByte (s : State) (a : Nat) (b : Byte) : (s.setByte a b).casc = s.casc := rfl
@[simp] theorem State.pcieLink_setByte (s : State) (a : Nat) (b : Byte) : (s.setByte a b).pcieLink = s.pcieLink := rfl
@[simp] theorem State.freeCtr_setByte (s : State) (a : Nat) (b : Byte) : (s.setByte a b).freeCtr = s.freeCtr := rfl
@[simp] theorem State.pending_setByte (s : State) (a : Nat) (b : Byte) : (s.setByte a b).pending = s.pending := rfl
@[simp] theorem State.rd_setByte (s : State) (a : Nat) (b : Byte) (k : Nat) : (s.setByte a b).rd k = s.rd k := rfl
@[simp] theorem State.get_setByte (s : State) (a : Nat) (b : Byte) (k : Fld) : (s.setByte a b).get k = s.get k := rfl
@[simp] theorem State.on_setByte (s : State) (a : Nat) (b : Byte) (k : Fld) : (s.setByte a b).on k = s.on k := rfl

/-! ### `setSynd` -/

@[simp] theorem State.ticks_setSynd (s : State) (line v : Nat) : (s.setSynd line v).ticks = s.ticks := rfl
@[simp] theorem State.mticks_setSynd (s : State) (line v : Nat) : (s.setSynd line v).mticks = s.mticks := rfl
@[simp] theorem State.regs_setSynd (s : State) (line v : Nat) : (s.setSynd line v).regs = s.regs := rfl
@[simp] theorem State.staged_setSynd (s : State) (line v : Nat) : (s.setSynd line v).staged = s.staged := rfl
@[simp] theorem State.latch_setSynd (s : State) (line v : Nat) : (s.setSynd line v).latch = s.latch := rfl
@[simp] theorem State.boot_setSynd (s : State) (line v : Nat) : (s.setSynd line v).boot = s.boot := rfl
@[simp] theorem State.time_setSynd (s : State) (line v : Nat) : (s.setSynd line v).time = s.time := rfl
@[simp] theorem State.wheel_setSynd (s : State) (line v : Nat) : (s.setSynd line v).wheel = s.wheel := rfl
@[simp] theorem State.cap_setSynd (s : State) (line v : Nat) : (s.setSynd line v).cap = s.cap := rfl
@[simp] theorem State.slices_setSynd (s : State) (line v : Nat) : (s.setSynd line v).slices = s.slices := rfl
@[simp] theorem State.sw_setSynd (s : State) (line v : Nat) : (s.setSynd line v).sw = s.sw := rfl
@[simp] theorem State.ldg_setSynd (s : State) (line v : Nat) : (s.setSynd line v).ldg = s.ldg := rfl
@[simp] theorem State.cpu_setSynd (s : State) (line v : Nat) : (s.setSynd line v).cpu = s.cpu := rfl
@[simp] theorem State.world_setSynd (s : State) (line v : Nat) : (s.setSynd line v).world = s.world := rfl
@[simp] theorem State.guard_setSynd (s : State) (line v : Nat) : (s.setSynd line v).guard = s.guard := rfl
@[simp] theorem State.power_setSynd (s : State) (line v : Nat) : (s.setSynd line v).power = s.power := rfl
@[simp] theorem State.dbgm_setSynd (s : State) (line v : Nat) : (s.setSynd line v).dbgm = s.dbgm := rfl
@[simp] theorem State.pmu_setSynd (s : State) (line v : Nat) : (s.setSynd line v).pmu = s.pmu := rfl
@[simp] theorem State.casc_setSynd (s : State) (line v : Nat) : (s.setSynd line v).casc = s.casc := rfl
@[simp] theorem State.pcieLink_setSynd (s : State) (line v : Nat) : (s.setSynd line v).pcieLink = s.pcieLink := rfl
@[simp] theorem State.freeCtr_setSynd (s : State) (line v : Nat) : (s.setSynd line v).freeCtr = s.freeCtr := rfl
@[simp] theorem State.pending_setSynd (s : State) (line v : Nat) : (s.setSynd line v).pending = s.pending := rfl
@[simp] theorem State.rd_setSynd (s : State) (line v : Nat) (k : Nat) : (s.setSynd line v).rd k = s.rd k := rfl
@[simp] theorem State.get_setSynd (s : State) (line v : Nat) (k : Fld) : (s.setSynd line v).get k = s.get k := rfl
@[simp] theorem State.on_setSynd (s : State) (line v : Nat) (k : Fld) : (s.setSynd line v).on k = s.on k := rfl

/-! ### `setFdb` -/

@[simp] theorem State.ticks_setFdb (s : State) (l : List FdbEntry) : (s.setFdb l).ticks = s.ticks := rfl
@[simp] theorem State.mticks_setFdb (s : State) (l : List FdbEntry) : (s.setFdb l).mticks = s.mticks := rfl
@[simp] theorem State.regs_setFdb (s : State) (l : List FdbEntry) : (s.setFdb l).regs = s.regs := rfl
@[simp] theorem State.staged_setFdb (s : State) (l : List FdbEntry) : (s.setFdb l).staged = s.staged := rfl
@[simp] theorem State.latch_setFdb (s : State) (l : List FdbEntry) : (s.setFdb l).latch = s.latch := rfl
@[simp] theorem State.boot_setFdb (s : State) (l : List FdbEntry) : (s.setFdb l).boot = s.boot := rfl
@[simp] theorem State.time_setFdb (s : State) (l : List FdbEntry) : (s.setFdb l).time = s.time := rfl
@[simp] theorem State.wheel_setFdb (s : State) (l : List FdbEntry) : (s.setFdb l).wheel = s.wheel := rfl
@[simp] theorem State.cap_setFdb (s : State) (l : List FdbEntry) : (s.setFdb l).cap = s.cap := rfl
@[simp] theorem State.slices_setFdb (s : State) (l : List FdbEntry) : (s.setFdb l).slices = s.slices := rfl
@[simp] theorem State.ldg_setFdb (s : State) (l : List FdbEntry) : (s.setFdb l).ldg = s.ldg := rfl
@[simp] theorem State.cpu_setFdb (s : State) (l : List FdbEntry) : (s.setFdb l).cpu = s.cpu := rfl
@[simp] theorem State.mem_setFdb (s : State) (l : List FdbEntry) : (s.setFdb l).mem = s.mem := rfl
@[simp] theorem State.world_setFdb (s : State) (l : List FdbEntry) : (s.setFdb l).world = s.world := rfl
@[simp] theorem State.guard_setFdb (s : State) (l : List FdbEntry) : (s.setFdb l).guard = s.guard := rfl
@[simp] theorem State.power_setFdb (s : State) (l : List FdbEntry) : (s.setFdb l).power = s.power := rfl
@[simp] theorem State.dbgm_setFdb (s : State) (l : List FdbEntry) : (s.setFdb l).dbgm = s.dbgm := rfl
@[simp] theorem State.pmu_setFdb (s : State) (l : List FdbEntry) : (s.setFdb l).pmu = s.pmu := rfl
@[simp] theorem State.casc_setFdb (s : State) (l : List FdbEntry) : (s.setFdb l).casc = s.casc := rfl
@[simp] theorem State.pcieLink_setFdb (s : State) (l : List FdbEntry) : (s.setFdb l).pcieLink = s.pcieLink := rfl
@[simp] theorem State.freeCtr_setFdb (s : State) (l : List FdbEntry) : (s.setFdb l).freeCtr = s.freeCtr := rfl
@[simp] theorem State.pending_setFdb (s : State) (l : List FdbEntry) : (s.setFdb l).pending = s.pending := rfl
@[simp] theorem State.rd_setFdb (s : State) (l : List FdbEntry) (k : Nat) : (s.setFdb l).rd k = s.rd k := rfl
@[simp] theorem State.get_setFdb (s : State) (l : List FdbEntry) (k : Fld) : (s.setFdb l).get k = s.get k := rfl
@[simp] theorem State.on_setFdb (s : State) (l : List FdbEntry) (k : Fld) : (s.setFdb l).on k = s.on k := rfl

/-! ### `setStt` -/

@[simp] theorem State.ticks_setStt (s : State) (i v : Nat) : (s.setStt i v).ticks = s.ticks := rfl
@[simp] theorem State.mticks_setStt (s : State) (i v : Nat) : (s.setStt i v).mticks = s.mticks := rfl
@[simp] theorem State.regs_setStt (s : State) (i v : Nat) : (s.setStt i v).regs = s.regs := rfl
@[simp] theorem State.staged_setStt (s : State) (i v : Nat) : (s.setStt i v).staged = s.staged := rfl
@[simp] theorem State.latch_setStt (s : State) (i v : Nat) : (s.setStt i v).latch = s.latch := rfl
@[simp] theorem State.boot_setStt (s : State) (i v : Nat) : (s.setStt i v).boot = s.boot := rfl
@[simp] theorem State.time_setStt (s : State) (i v : Nat) : (s.setStt i v).time = s.time := rfl
@[simp] theorem State.wheel_setStt (s : State) (i v : Nat) : (s.setStt i v).wheel = s.wheel := rfl
@[simp] theorem State.slices_setStt (s : State) (i v : Nat) : (s.setStt i v).slices = s.slices := rfl
@[simp] theorem State.sw_setStt (s : State) (i v : Nat) : (s.setStt i v).sw = s.sw := rfl
@[simp] theorem State.ldg_setStt (s : State) (i v : Nat) : (s.setStt i v).ldg = s.ldg := rfl
@[simp] theorem State.cpu_setStt (s : State) (i v : Nat) : (s.setStt i v).cpu = s.cpu := rfl
@[simp] theorem State.mem_setStt (s : State) (i v : Nat) : (s.setStt i v).mem = s.mem := rfl
@[simp] theorem State.world_setStt (s : State) (i v : Nat) : (s.setStt i v).world = s.world := rfl
@[simp] theorem State.guard_setStt (s : State) (i v : Nat) : (s.setStt i v).guard = s.guard := rfl
@[simp] theorem State.power_setStt (s : State) (i v : Nat) : (s.setStt i v).power = s.power := rfl
@[simp] theorem State.dbgm_setStt (s : State) (i v : Nat) : (s.setStt i v).dbgm = s.dbgm := rfl
@[simp] theorem State.pmu_setStt (s : State) (i v : Nat) : (s.setStt i v).pmu = s.pmu := rfl
@[simp] theorem State.casc_setStt (s : State) (i v : Nat) : (s.setStt i v).casc = s.casc := rfl
@[simp] theorem State.pcieLink_setStt (s : State) (i v : Nat) : (s.setStt i v).pcieLink = s.pcieLink := rfl
@[simp] theorem State.freeCtr_setStt (s : State) (i v : Nat) : (s.setStt i v).freeCtr = s.freeCtr := rfl
@[simp] theorem State.pending_setStt (s : State) (i v : Nat) : (s.setStt i v).pending = s.pending := rfl
@[simp] theorem State.rd_setStt (s : State) (i v : Nat) (k : Nat) : (s.setStt i v).rd k = s.rd k := rfl
@[simp] theorem State.get_setStt (s : State) (i v : Nat) (k : Fld) : (s.setStt i v).get k = s.get k := rfl
@[simp] theorem State.on_setStt (s : State) (i v : Nat) (k : Fld) : (s.setStt i v).on k = s.on k := rfl

/-! ### `setCraze` -/

@[simp] theorem State.ticks_setCraze (s : State) (i : Nat) (e : Option CrazeEntry) : (s.setCraze i e).ticks = s.ticks := rfl
@[simp] theorem State.mticks_setCraze (s : State) (i : Nat) (e : Option CrazeEntry) : (s.setCraze i e).mticks = s.mticks := rfl
@[simp] theorem State.regs_setCraze (s : State) (i : Nat) (e : Option CrazeEntry) : (s.setCraze i e).regs = s.regs := rfl
@[simp] theorem State.staged_setCraze (s : State) (i : Nat) (e : Option CrazeEntry) : (s.setCraze i e).staged = s.staged := rfl
@[simp] theorem State.latch_setCraze (s : State) (i : Nat) (e : Option CrazeEntry) : (s.setCraze i e).latch = s.latch := rfl
@[simp] theorem State.boot_setCraze (s : State) (i : Nat) (e : Option CrazeEntry) : (s.setCraze i e).boot = s.boot := rfl
@[simp] theorem State.time_setCraze (s : State) (i : Nat) (e : Option CrazeEntry) : (s.setCraze i e).time = s.time := rfl
@[simp] theorem State.wheel_setCraze (s : State) (i : Nat) (e : Option CrazeEntry) : (s.setCraze i e).wheel = s.wheel := rfl
@[simp] theorem State.cap_setCraze (s : State) (i : Nat) (e : Option CrazeEntry) : (s.setCraze i e).cap = s.cap := rfl
@[simp] theorem State.slices_setCraze (s : State) (i : Nat) (e : Option CrazeEntry) : (s.setCraze i e).slices = s.slices := rfl
@[simp] theorem State.sw_setCraze (s : State) (i : Nat) (e : Option CrazeEntry) : (s.setCraze i e).sw = s.sw := rfl
@[simp] theorem State.ldg_setCraze (s : State) (i : Nat) (e : Option CrazeEntry) : (s.setCraze i e).ldg = s.ldg := rfl
@[simp] theorem State.cpu_setCraze (s : State) (i : Nat) (e : Option CrazeEntry) : (s.setCraze i e).cpu = s.cpu := rfl
@[simp] theorem State.world_setCraze (s : State) (i : Nat) (e : Option CrazeEntry) : (s.setCraze i e).world = s.world := rfl
@[simp] theorem State.guard_setCraze (s : State) (i : Nat) (e : Option CrazeEntry) : (s.setCraze i e).guard = s.guard := rfl
@[simp] theorem State.power_setCraze (s : State) (i : Nat) (e : Option CrazeEntry) : (s.setCraze i e).power = s.power := rfl
@[simp] theorem State.dbgm_setCraze (s : State) (i : Nat) (e : Option CrazeEntry) : (s.setCraze i e).dbgm = s.dbgm := rfl
@[simp] theorem State.pmu_setCraze (s : State) (i : Nat) (e : Option CrazeEntry) : (s.setCraze i e).pmu = s.pmu := rfl
@[simp] theorem State.casc_setCraze (s : State) (i : Nat) (e : Option CrazeEntry) : (s.setCraze i e).casc = s.casc := rfl
@[simp] theorem State.pcieLink_setCraze (s : State) (i : Nat) (e : Option CrazeEntry) : (s.setCraze i e).pcieLink = s.pcieLink := rfl
@[simp] theorem State.freeCtr_setCraze (s : State) (i : Nat) (e : Option CrazeEntry) : (s.setCraze i e).freeCtr = s.freeCtr := rfl
@[simp] theorem State.pending_setCraze (s : State) (i : Nat) (e : Option CrazeEntry) : (s.setCraze i e).pending = s.pending := rfl
@[simp] theorem State.rd_setCraze (s : State) (i : Nat) (e : Option CrazeEntry) (k : Nat) : (s.setCraze i e).rd k = s.rd k := rfl
@[simp] theorem State.get_setCraze (s : State) (i : Nat) (e : Option CrazeEntry) (k : Fld) : (s.setCraze i e).get k = s.get k := rfl
@[simp] theorem State.on_setCraze (s : State) (i : Nat) (e : Option CrazeEntry) (k : Fld) : (s.setCraze i e).on k = s.on k := rfl

/-! ### `unstaged` -/

@[simp] theorem State.ticks_unstaged (s : State) (reg : Nat) : (s.unstaged reg).ticks = s.ticks := rfl
@[simp] theorem State.mticks_unstaged (s : State) (reg : Nat) : (s.unstaged reg).mticks = s.mticks := rfl
@[simp] theorem State.regs_unstaged (s : State) (reg : Nat) : (s.unstaged reg).regs = s.regs := rfl
@[simp] theorem State.latch_unstaged (s : State) (reg : Nat) : (s.unstaged reg).latch = s.latch := rfl
@[simp] theorem State.boot_unstaged (s : State) (reg : Nat) : (s.unstaged reg).boot = s.boot := rfl
@[simp] theorem State.time_unstaged (s : State) (reg : Nat) : (s.unstaged reg).time = s.time := rfl
@[simp] theorem State.wheel_unstaged (s : State) (reg : Nat) : (s.unstaged reg).wheel = s.wheel := rfl
@[simp] theorem State.cap_unstaged (s : State) (reg : Nat) : (s.unstaged reg).cap = s.cap := rfl
@[simp] theorem State.slices_unstaged (s : State) (reg : Nat) : (s.unstaged reg).slices = s.slices := rfl
@[simp] theorem State.sw_unstaged (s : State) (reg : Nat) : (s.unstaged reg).sw = s.sw := rfl
@[simp] theorem State.ldg_unstaged (s : State) (reg : Nat) : (s.unstaged reg).ldg = s.ldg := rfl
@[simp] theorem State.cpu_unstaged (s : State) (reg : Nat) : (s.unstaged reg).cpu = s.cpu := rfl
@[simp] theorem State.mem_unstaged (s : State) (reg : Nat) : (s.unstaged reg).mem = s.mem := rfl
@[simp] theorem State.world_unstaged (s : State) (reg : Nat) : (s.unstaged reg).world = s.world := rfl
@[simp] theorem State.guard_unstaged (s : State) (reg : Nat) : (s.unstaged reg).guard = s.guard := rfl
@[simp] theorem State.power_unstaged (s : State) (reg : Nat) : (s.unstaged reg).power = s.power := rfl
@[simp] theorem State.dbgm_unstaged (s : State) (reg : Nat) : (s.unstaged reg).dbgm = s.dbgm := rfl
@[simp] theorem State.pmu_unstaged (s : State) (reg : Nat) : (s.unstaged reg).pmu = s.pmu := rfl
@[simp] theorem State.casc_unstaged (s : State) (reg : Nat) : (s.unstaged reg).casc = s.casc := rfl
@[simp] theorem State.pcieLink_unstaged (s : State) (reg : Nat) : (s.unstaged reg).pcieLink = s.pcieLink := rfl
@[simp] theorem State.freeCtr_unstaged (s : State) (reg : Nat) : (s.unstaged reg).freeCtr = s.freeCtr := rfl
@[simp] theorem State.pending_unstaged (s : State) (reg : Nat) : (s.unstaged reg).pending = s.pending := rfl
@[simp] theorem State.rd_unstaged (s : State) (reg : Nat) (k : Nat) : (s.unstaged reg).rd k = s.rd k := rfl
@[simp] theorem State.get_unstaged (s : State) (reg : Nat) (k : Fld) : (s.unstaged reg).get k = s.get k := rfl
@[simp] theorem State.on_unstaged (s : State) (reg : Nat) (k : Fld) : (s.unstaged reg).on k = s.on k := rfl

end Sys2Proof.Machine
end

