-- ==== Sys2Proof/Laws/Access.lean ====
section
/-! SUPPORT. Register accesses: what a reached one does, what one turned away does, and the frame of its end. -/

namespace Sys2Proof.Machine

open Sys2Proof

/-- A reached access performs its operation, and nothing else. -/
theorem State.regAccess_reached {s : State} {a : Agent} {w : Bool} {addr n : Nat} (f : State → State) (h : s.Reached a w addr n) :
    s.regAccess a w addr n f = (f s).ended a := by
  obtain ⟨h1, h2, h3⟩ := h
  unfold State.regAccess State.ended
  by_cases hd : isDap a = true <;> simp_all

/-- A reached read performs its side effect, but for an agent whose reads have the debug attribute (R495). -/
theorem State.readCmd_reached {s : State} {a : Agent} {reg : Nat} {half : Half} (f : State → State × Nat)
    (h : s.Reached a false (halfAddr reg half) (halfSize half)) :
    s.readCmd a reg half f = (if s.debugRead a then s else (s.readEffect reg half f).1).ended a := by
  unfold State.readCmd
  exact State.regAccess_reached _ h

/-- An access the window refuses leaves its record and its fault, and nothing of its operation. -/
theorem State.regAccess_refused {s : State} {a : Agent} {w : Bool} {addr n : Nat} (f : State → State) {st : Status}
    (h1 : s.agentLive a = true) (h2 : isDap a = true → s.sbAllowed (s.agentWorld a) w addr = true)
    (h3 : s.regVerdict a w addr n = .refuse st) : s.regAccess a w addr n f = s.regRefused a w addr st := by
  unfold State.regAccess
  by_cases hd : isDap a = true <;> simp_all

/-! ### The end of an access: only `DAP_STATUS` and the debug module's error change -/

theorem State.get_ended (s : State) (a : Agent) {f : Fld} (h : f.reg ≠ DAP_STATUS) : (s.ended a).get f = s.get f := by
  unfold State.ended State.sbEnd
  split
  · rw [State.get_res_ne _ _ h]; rfl
  · rfl

theorem State.rd_ended (s : State) (a : Agent) {k : Nat} (h : k ≠ DAP_STATUS) : (s.ended a).rd k = s.rd k := by
  unfold State.ended State.sbEnd
  split
  · unfold State.res; rw [State.rd_put_ne _ _ h]; rfl
  · rfl

theorem State.on_ended (s : State) (a : Agent) {f : Fld} (h : f.reg ≠ DAP_STATUS) : (s.ended a).on f = s.on f := by
  unfold State.on; rw [State.get_ended s a h]

@[simp] theorem State.ticks_ended (s : State) (a : Agent) : (s.ended a).ticks = s.ticks := by
  unfold State.ended State.sbEnd
  split <;> rfl

@[simp] theorem State.mticks_ended (s : State) (a : Agent) : (s.ended a).mticks = s.mticks := by
  unfold State.ended State.sbEnd
  split <;> rfl

@[simp] theorem State.staged_ended (s : State) (a : Agent) : (s.ended a).staged = s.staged := by
  unfold State.ended State.sbEnd
  split <;> rfl

@[simp] theorem State.latch_ended (s : State) (a : Agent) : (s.ended a).latch = s.latch := by
  unfold State.ended State.sbEnd
  split <;> rfl

@[simp] theorem State.boot_ended (s : State) (a : Agent) : (s.ended a).boot = s.boot := by
  unfold State.ended State.sbEnd
  split <;> rfl

@[simp] theorem State.time_ended (s : State) (a : Agent) : (s.ended a).time = s.time := by
  unfold State.ended State.sbEnd
  split <;> rfl

@[simp] theorem State.wheel_ended (s : State) (a : Agent) : (s.ended a).wheel = s.wheel := by
  unfold State.ended State.sbEnd
  split <;> rfl

@[simp] theorem State.cap_ended (s : State) (a : Agent) : (s.ended a).cap = s.cap := by
  unfold State.ended State.sbEnd
  split <;> rfl

@[simp] theorem State.slices_ended (s : State) (a : Agent) : (s.ended a).slices = s.slices := by
  unfold State.ended State.sbEnd
  split <;> rfl

@[simp] theorem State.sw_ended (s : State) (a : Agent) : (s.ended a).sw = s.sw := by
  unfold State.ended State.sbEnd
  split <;> rfl

@[simp] theorem State.ldg_ended (s : State) (a : Agent) : (s.ended a).ldg = s.ldg := by
  unfold State.ended State.sbEnd
  split <;> rfl

@[simp] theorem State.cpu_ended (s : State) (a : Agent) : (s.ended a).cpu = s.cpu := by
  unfold State.ended State.sbEnd
  split <;> rfl

@[simp] theorem State.mem_ended (s : State) (a : Agent) : (s.ended a).mem = s.mem := by
  unfold State.ended State.sbEnd
  split <;> rfl

@[simp] theorem State.world_ended (s : State) (a : Agent) : (s.ended a).world = s.world := by
  unfold State.ended State.sbEnd
  split <;> rfl

@[simp] theorem State.guard_ended (s : State) (a : Agent) : (s.ended a).guard = s.guard := by
  unfold State.ended State.sbEnd
  split <;> rfl

@[simp] theorem State.power_ended (s : State) (a : Agent) : (s.ended a).power = s.power := by
  unfold State.ended State.sbEnd
  split <;> rfl

@[simp] theorem State.pmu_ended (s : State) (a : Agent) : (s.ended a).pmu = s.pmu := by
  unfold State.ended State.sbEnd
  split <;> rfl

@[simp] theorem State.casc_ended (s : State) (a : Agent) : (s.ended a).casc = s.casc := by
  unfold State.ended State.sbEnd
  split <;> rfl

@[simp] theorem State.pcieLink_ended (s : State) (a : Agent) : (s.ended a).pcieLink = s.pcieLink := by
  unfold State.ended State.sbEnd
  split <;> rfl

@[simp] theorem State.freeCtr_ended (s : State) (a : Agent) : (s.ended a).freeCtr = s.freeCtr := by
  unfold State.ended State.sbEnd
  split <;> rfl

@[simp] theorem State.pending_ended (s : State) (a : Agent) : (s.ended a).pending = s.pending := by
  unfold State.ended State.sbEnd
  split <;> rfl

@[simp] theorem State.hart_ended (s : State) (a : Agent) (k : Nat) : (s.ended a).hart k = s.hart k := by
  unfold State.hart; simp

@[simp] theorem State.dom_ended (s : State) (a : Agent) (k : Nat) : (s.ended a).dom k = s.dom k := by
  unfold State.dom; simp

@[simp] theorem State.tdom_ended (s : State) (a : Agent) (k : Nat) : (s.ended a).tdom k = s.tdom k := by
  unfold State.tdom; simp

end Sys2Proof.Machine
end

