-- ==== Sys2Proof/Laws/Frames.lean ====
section
/-! SUPPORT. What the ledger and the sherd log leave: an accepted record touches the ledger engine and its registers, a sherd
entry those and the memory system's log. -/

namespace Sys2Proof.Machine

open Sys2Proof

/-- The registers a record accepted by the ledger engine can change. -/
def ldgRegs : List Nat :=
  [LDG_STATUS, LDG_SEQ, LDG_LASTHASH 0, LDG_LASTHASH 1, LDG_LASTHASH 2, LDG_LASTHASH 3, LDG_LOST, LDG_IRQ_STATUS]

/-- `t` is `s` but for the ledger engine and the registers of `ldgRegs`. -/
structure LdgOnly (s t : State) : Prop where
  rest : t = { s with ldg := t.ldg, regs := t.regs }
  reg : ∀ k, k ∉ ldgRegs → t.rd k = s.rd k

theorem LdgOnly.refl (s : State) : LdgOnly s s := ⟨rfl, fun _ _ => rfl⟩

theorem LdgOnly.trans {s t u : State} (h : LdgOnly s t) (g : LdgOnly t u) : LdgOnly s u := by
  refine ⟨?_, fun k hk => (g.reg k hk).trans (h.reg k hk)⟩
  rw [g.rest, h.rest]

theorem LdgOnly.ldg (s : State) (v : LdgSt) : LdgOnly s { s with ldg := v } := ⟨rfl, fun _ _ => rfl⟩

theorem LdgOnly.put {s t : State} (h : LdgOnly s t) {f : Fld} (v : Nat) (hf : f.reg ∈ ldgRegs) : LdgOnly s (t.put f v) :=
  h.trans ⟨rfl, fun _ hk => State.rd_put_ne _ _ (fun e => hk (e ▸ hf))⟩

theorem LdgOnly.sync (s : State) : LdgOnly s s.ldgSync := by
  unfold State.ldgSync
  dsimp only
  split
  · exact ((LdgOnly.ldg s _).put _ (by decide)).put _ (by decide)
  · exact (LdgOnly.ldg s _).put _ (by decide)

theorem LdgOnly.close (s : State) (g : Bool) : LdgOnly s (s.ldgClose g) := by
  unfold State.ldgClose
  split
  · exact LdgOnly.refl s
  · dsimp only
    refine LdgOnly.trans ?_ (LdgOnly.sync _)
    have h : ∀ (u : State) (c : Bool) (f : State → State), LdgOnly s u → (∀ v, LdgOnly v (f v)) → LdgOnly s (u.when c f) := by
      intro u c f hu hf
      unfold State.when
      split
      · exact hu.trans (hf u)
      · exact hu
    refine h _ _ _ ?_ ?_
    · simp only [State.each, List.foldl_cons, List.foldl_nil]
      exact ((((LdgOnly.ldg s _).put _ (by decide)).put _ (by decide)).put _ (by decide)).put _ (by decide)
    · intro v
      split
      · exact LdgOnly.ldg v _
      · exact LdgOnly.ldg v _

theorem LdgOnly.append (s : State) (r : Rec) : LdgOnly s (s.ldgAppend r) := by
  unfold State.ldgAppend
  split
  · exact LdgOnly.ldg s _
  · dsimp only
    split
    · exact (LdgOnly.ldg s _).trans (LdgOnly.close _ _)
    · exact LdgOnly.ldg s _

theorem LdgOnly.refuse (s : State) (t : Nat) : LdgOnly s (s.ldgRefuse t) := by
  unfold State.ldgRefuse
  exact ((LdgOnly.ldg s _).put _ (by decide)).put _ (by decide)

theorem LdgOnly.gap (s : State) : LdgOnly s s.ldgGap := by
  unfold State.ldgGap
  split
  · exact LdgOnly.refl s
  · split
    · exact (LdgOnly.ldg s _).trans (LdgOnly.append _ _)
    · exact LdgOnly.refl s

/-- A record accepted, or refused, by the ledger engine changes the engine and its registers, nothing else. -/
theorem LdgOnly.accept (s : State) (r : Rec) : LdgOnly s (s.ldgAccept r) := by
  unfold State.ldgAccept
  split
  · exact LdgOnly.refl s
  split
  · exact LdgOnly.refuse s _
  split
  · exact ((LdgOnly.ldg s _).put _ (by decide)).put _ (by decide)
  · dsimp only
    split
    · exact (LdgOnly.gap s).trans (LdgOnly.append _ _)
    · exact (LdgOnly.gap s).trans (LdgOnly.refuse _ _)

/-- A register outside `ldgRegs` reads as before. -/
theorem State.rd_ldgAccept (s : State) (r : Rec) {k : Nat} (h : k ∉ ldgRegs) : (s.ldgAccept r).rd k = s.rd k := (LdgOnly.accept s r).reg k h

theorem State.get_ldgAccept (s : State) (r : Rec) {f : Fld} (h : f.reg ∉ ldgRegs) : (s.ldgAccept r).get f = s.get f := by
  unfold State.get; rw [State.rd_ldgAccept s r h]

/-- `t` is `s` but for the ledger engine, the memory system and the registers of the ledger and the sherd log. -/
structure LogOnly (s t : State) : Prop where
  rest : t = { s with ldg := t.ldg, regs := t.regs, mem := { s.mem with sherd := t.mem.sherd, sherdLost := t.mem.sherdLost, sherdNext := t.mem.sherdNext } }
  reg : ∀ k, k ∉ ldgRegs → k ≠ SHD_IRQ_STATUS → k ≠ SHD_STAT → t.rd k = s.rd k

theorem LogOnly.refl (s : State) : LogOnly s s := ⟨rfl, fun _ _ _ _ => rfl⟩

theorem LogOnly.trans {s t u : State} (h : LogOnly s t) (g : LogOnly t u) : LogOnly s u := by
  refine ⟨?_, fun k h1 h2 h3 => (g.reg k h1 h2 h3).trans (h.reg k h1 h2 h3)⟩
  rw [g.rest, h.rest]

theorem LogOnly.put {s t : State} (h : LogOnly s t) {f : Fld} (v : Nat) (hf : f.reg = SHD_IRQ_STATUS ∨ f.reg = SHD_STAT) : LogOnly s (t.put f v) := by
  refine h.trans ⟨rfl, fun k _ h2 h3 => State.rd_put_ne _ _ ?_⟩
  rcases hf with e | e <;> rw [e] <;> assumption

theorem LogOnly.when {s t : State} (h : LogOnly s t) (c : Bool) {f : State → State} (hf : LogOnly t (f t)) : LogOnly s (t.when c f) := by
  unfold State.when
  split
  · exact h.trans hf
  · exact h

theorem LogOnly.ofLdg {s t : State} (h : LdgOnly s t) : LogOnly s t := by
  refine ⟨?_, fun k h1 _ _ => h.reg k h1⟩
  rw [h.rest]

theorem LogOnly.log (s : State) (l : List SherdEntry) (b : Bool) (n : Nat) :
    LogOnly s { s with mem := { s.mem with sherd := l, sherdLost := b, sherdNext := n } } := ⟨rfl, fun _ _ _ _ => rfl⟩

/-- An entry of the sherd log changes the log, its registers and, through its record, the ledger. -/
theorem LogOnly.add (s : State) (e : SherdEntry) : LogOnly s (s.sherdAdd e) := by
  unfold State.sherdAdd
  split
  · exact ⟨rfl, fun _ _ _ _ => rfl⟩
  · dsimp only
    have h0 : LogOnly s (s.raise ⟨SHD_IRQ_STATUS, 0, 6⟩ (sherdIrq e)) := (LogOnly.refl s).put _ (.inl rfl)
    split
    · exact h0
    · have h1 := h0.trans (LogOnly.log (s.raise ⟨SHD_IRQ_STATUS, 0, 6⟩ (sherdIrq e))
        ((if decide (4096 ≤ s.mem.sherd.length) then s.mem.sherd.tail else s.mem.sherd) ++ [{ e with gap := s.mem.sherdLost }]) false ((s.mem.sherdNext + 1) % 4096))
      have h2 := LogOnly.when h1 (decide (4096 ≤ s.mem.sherd.length)) (f := fun t => t.inc SHD_STAT_OVERWRITTEN 1) ((LogOnly.refl _).put _ (.inr rfl))
      refine LogOnly.when (LogOnly.when (LogOnly.put h2 _ (.inr rfl)) _ ?_) _ ?_
      · exact (LogOnly.refl _).put _ (.inl rfl)
      · exact LogOnly.ofLdg (LdgOnly.accept _ _)

theorem LogOnly.sherd (s : State) (k : Nat) (st : Status) (src : Nat) (w : World) (rq a p y : Nat) :
    LogOnly s (s.sherd k st src w rq a p y) := LogOnly.add _ _

theorem LogOnly.scrub (s : State) (k : Nat) (st : Status) (src a y : Nat) : LogOnly s (s.sherdScrub k st src a y) := LogOnly.add _ _

/-- A refused register access leaves its entry only. -/
theorem LogOnly.refused (s : State) (a : Agent) (st : Status) (r : Region) (addr : Nat) : LogOnly s (s.sherdRefused a st r addr) := by
  unfold State.sherdRefused
  split <;> exact LogOnly.add _ _

end Sys2Proof.Machine
end

