-- ==== Sys2Proof/Laws/Kept.lean ====
section
/-! SUPPORT. What every operation keeps: the queue is not touched, a burnt step stays burnt, the storage invariant holds on. -/

namespace Sys2Proof.Machine

/-- From `r` to `t` nothing was done to the queue, no cone lost a step, and the storage invariant was kept. -/
structure Kept (r t : State) : Prop where
  queue : t.pending = r.pending
  cones : ∀ c, r.coneSteps c ≤ t.coneSteps c
  inv : r.Inv → t.Inv

@[simp] theorem Kept.refl (s : State) : Kept s s := ⟨rfl, fun _ => Nat.le_refl _, id⟩

theorem Kept.trans {r s t : State} (h : Kept r s) (g : Kept s t) : Kept r t :=
  ⟨g.queue.trans h.queue, fun c => (h.cones c).trans (g.cones c), fun i => g.inv (h.inv i)⟩

/-- A state that differs in nothing of what is kept. -/
theorem Kept.same {r t u : State} (h : Kept r t) (hq : u.pending = t.pending) (hc : u.boot.fuses.steps = t.boot.fuses.steps)
    (h1 : u.regs = t.regs) (h2 : u.mem.bytes = t.mem.bytes) (h3 : u.mem.synd = t.mem.synd)
    (h4 : u.mem.sramPoison = t.mem.sramPoison) (h5 : u.boot.flash = t.boot.flash) (h6 : u.cap.missq = t.cap.missq)
    (h7 : u.time.pins = t.time.pins) (h8 : u.mem.sherd = t.mem.sherd) : Kept r u := by
  refine h.trans ⟨hq, fun c => ?_, fun i => ?_⟩
  · simp [State.coneSteps, hc]
  · exact ⟨h1 ▸ i.regs, h2 ▸ i.bytes, h3 ▸ i.synd, h4 ▸ i.sramPoison, h5 ▸ i.flash, h6 ▸ i.missq, h7 ▸ i.fifo, h8 ▸ i.sherd⟩

/-- As `Kept.same`, part by part. -/
theorem Kept.parts {r t u : State} (h : Kept r t) (hq : u.pending = t.pending)
    (hc : ∀ c, tabGet (fun _ => 0) t.boot.fuses.steps c ≤ tabGet (fun _ => 0) u.boot.fuses.steps c)
    (h1 : tabWf resetVal t.regs = true → tabWf resetVal u.regs = true)
    (h2 : tabWf byteDefault t.mem.bytes = true → tabWf byteDefault u.mem.bytes = true)
    (h3 : tabWf (fun _ => 0) t.mem.synd = true → tabWf (fun _ => 0) u.mem.synd = true)
    (h4 : tabWf (fun _ => false) t.mem.sramPoison = true → tabWf (fun _ => false) u.mem.sramPoison = true)
    (h5 : tabWf flashDefault t.boot.flash = true → tabWf flashDefault u.boot.flash = true)
    (h6 : t.cap.missq.length ≤ 16 → u.cap.missq.length ≤ 16)
    (h7 : (∀ n, (tabGet (fun _ => PinSt.init) t.time.pins n).fifo.length ≤ 16) → ∀ n, (tabGet (fun _ => PinSt.init) u.time.pins n).fifo.length ≤ 16)
    (h8 : t.mem.sherd.length ≤ 4096 → u.mem.sherd.length ≤ 4096) : Kept r u :=
  h.trans ⟨hq, hc, fun i => ⟨h1 i.regs, h2 i.bytes, h3 i.synd, h4 i.sramPoison, h5 i.flash, h6 i.missq, h7 i.fifo, h8 i.sherd⟩⟩

theorem Kept.ite {r s t : State} {c : Prop} [Decidable c] (h : Kept r s) (g : Kept r t) : Kept r (if c then s else t) := by
  split <;> assumption

theorem Kept.foldl {α : Type} {r s : State} (l : List α) {f : State → α → State} (h : Kept r s) (hf : ∀ t a, Kept t (f t a)) :
    Kept r (l.foldl f s) := by
  induction l generalizing s with
  | nil => exact h
  | cons a l ih => exact ih (h.trans (hf s a))

/-- A fold that carries a state beside other data. -/
theorem Kept.foldlPair {α β : Type} {r : State} (l : List α) {f : State × β → α → State × β} (p : State × β) (h : Kept r p.1)
    (hf : ∀ q a, Kept q.1 (f q a).1) : Kept r (l.foldl f p).1 := by
  induction l generalizing p with
  | nil => exact h
  | cons a l ih => exact ih _ (h.trans (hf p a))

theorem Kept.wr {r s : State} (a v : Nat) (h : Kept r s) : Kept r (s.wr a v) :=
  h.parts rfl (fun _ => Nat.le_refl _) (fun i => tabWf_tabSet _ _ i) id id id id id id id

end Sys2Proof.Machine
end

