-- ==== Sys2Proof/Laws/KeptCore.lean ====
section
/-! SUPPORT. What no operation of the shared operations: registers, performance counters, the ledger, the sherd buffer, DRAM, the caches, trap entry and the register access does: each keeps the queue of commands, sets no burnt
step of the lifecycle back and keeps the storage invariant (`Kept`). -/

set_option linter.unusedTactic false
set_option linter.unreachableTactic false
set_option linter.unusedVariables false

namespace Sys2Proof.Machine
open Sys2Proof

/-! ### Machine/Ops -/

theorem State.wr_kept {r s : State} (a v : Nat) (h : Kept r s) : Kept r (s.wr a v) := h.wr a v

theorem State.put_kept {r : State} {s : State} (f : Fld) (v : ℕ) (hK : Kept r s) : Kept r (State.put s f v) := by
  unfold State.put
  repeat' first
    | with_reducible assumption
    | with_reducible exact Kept.refl _
    | exact id
    | exact tabWf_tabSet _ _
    | exact tabWf_tabDrop _ _
    | exact tabWf_filter _
    | intro _
    | exact Nat.zero_le _
    | with_reducible apply State.wr_kept

theorem State.raise_kept {r : State} {s : State} (f : Fld) (m : ℕ) (hK : Kept r s) : Kept r (State.raise s f m) := by
  unfold State.raise
  repeat' first
    | with_reducible assumption
    | with_reducible exact Kept.refl _
    | exact id
    | exact tabWf_tabSet _ _
    | exact tabWf_tabDrop _ _
    | exact tabWf_filter _
    | intro _
    | exact Nat.zero_le _
    | with_reducible apply State.put_kept

theorem State.clear_kept {r : State} {s : State} (f : Fld) (m : ℕ) (hK : Kept r s) : Kept r (State.clear s f m) := by
  unfold State.clear
  repeat' first
    | with_reducible assumption
    | with_reducible exact Kept.refl _
    | exact id
    | exact tabWf_tabSet _ _
    | exact tabWf_tabDrop _ _
    | exact tabWf_filter _
    | intro _
    | exact Nat.zero_le _
    | with_reducible apply State.put_kept

theorem State.inc_kept {r : State} {s : State} (f : Fld) (k : ℕ) (hK : Kept r s) : Kept r (State.inc s f k) := by
  unfold State.inc
  repeat' first
    | with_reducible assumption
    | with_reducible exact Kept.refl _
    | exact id
    | exact tabWf_tabSet _ _
    | exact tabWf_tabDrop _ _
    | exact tabWf_filter _
    | intro _
    | exact Nat.zero_le _
    | with_reducible apply State.put_kept

theorem State.res_kept {r : State} {s : State} (f : Fld) (st : Status) (hK : Kept r s) : Kept r (State.res s f st) := by
  unfold State.res
  repeat' first
    | with_reducible assumption
    | with_reducible exact Kept.refl _
    | exact id
    | exact tabWf_tabSet _ _
    | exact tabWf_tabDrop _ _
    | exact tabWf_filter _
    | intro _
    | exact Nat.zero_le _
    | with_reducible apply State.put_kept

theorem State.each_kept {r : State} {α : Type} (l : List α) (f : α → State → State) {s : State} (hK : Kept r s) (hf : ∀ a0 a1, Kept a1 (f a0 a1)) : Kept r (State.each l f s) := by
  unfold State.each
  repeat' first
    | with_reducible assumption
    | with_reducible exact Kept.refl _
    | exact id
    | exact tabWf_tabSet _ _
    | exact tabWf_tabDrop _ _
    | exact tabWf_filter _
    | intro _
    | exact Nat.zero_le _
    | refine Kept.trans ?_ (hf ..)
    | with_reducible apply Kept.ite
    | with_reducible apply Kept.foldl

theorem State.when_kept {r : State} {s : State} (c : Bool) (f : State → State) (hK : Kept r s) (hf : ∀ a0, Kept a0 (f a0)) : Kept r (State.when s c f) := by
  unfold State.when
  repeat' first
    | with_reducible assumption
    | with_reducible exact Kept.refl _
    | exact id
    | exact tabWf_tabSet _ _
    | exact tabWf_tabDrop _ _
    | exact tabWf_filter _
    | intro _
    | exact Nat.zero_le _
    | refine Kept.trans ?_ (hf ..)
    | with_reducible apply Kept.ite

theorem State.resetRegs_kept {r : State} {s : State} (lo hi : Nat) (hK : Kept r s) : Kept r (State.resetRegs s lo hi) :=
  hK.parts rfl (fun _ => Nat.le_refl _) (fun i => tabWf_tabDrop _ _ i) id id id id id id id

theorem State.tookFree_kept {r : State} {s : State} (hK : Kept r s) : Kept r (State.tookFree s) := by
  unfold State.tookFree
  repeat' first
    | with_reducible assumption
    | with_reducible exact Kept.refl _
    | exact id
    | exact tabWf_tabSet _ _
    | exact tabWf_tabDrop _ _
    | exact tabWf_filter _
    | intro _
    | exact Nat.zero_le _
    | with_reducible apply Kept.ite
    | dsimp only
    | (split <;> (try (rename_i e; replace e := congrArg Prod.fst e; dsimp only at e; subst e)))
    | (refine Kept.same (t := ?_) ?_ (by dsimp only; rfl) (by with_reducible rfl) (by with_reducible rfl) (by with_reducible rfl) (by with_reducible rfl) (by with_reducible rfl) (by with_reducible rfl) (by with_reducible rfl) (by with_reducible rfl) (by with_reducible rfl))

theorem State.setDom_kept {r : State} {s : State} (d : ℕ) (v : DomainSt) (hK : Kept r s) : Kept r (State.setDom s d v) := by
  unfold State.setDom
  repeat' first
    | with_reducible assumption
    | with_reducible exact Kept.refl _
    | exact id
    | exact tabWf_tabSet _ _
    | exact tabWf_tabDrop _ _
    | exact tabWf_filter _
    | intro _
    | exact Nat.zero_le _
    | with_reducible apply Kept.ite
    | dsimp only
    | (split <;> (try (rename_i e; replace e := congrArg Prod.fst e; dsimp only at e; subst e)))
    | (refine Kept.same (t := ?_) ?_ (by dsimp only; rfl) (by with_reducible rfl) (by with_reducible rfl) (by with_reducible rfl) (by with_reducible rfl) (by with_reducible rfl) (by with_reducible rfl) (by with_reducible rfl) (by with_reducible rfl) (by with_reducible rfl))

theorem State.setHart_kept {r : State} {s : State} (h : ℕ) (v : HartSt) (hK : Kept r s) : Kept r (State.setHart s h v) := by
  unfold State.setHart
  repeat' first
    | with_reducible assumption
    | with_reducible exact Kept.refl _
    | exact id
    | exact tabWf_tabSet _ _
    | exact tabWf_tabDrop _ _
    | exact tabWf_filter _
    | intro _
    | exact Nat.zero_le _
    | with_reducible apply Kept.ite
    | dsimp only
    | (split <;> (try (rename_i e; replace e := congrArg Prod.fst e; dsimp only at e; subst e)))
    | (refine Kept.same (t := ?_) ?_ (by dsimp only; rfl) (by with_reducible rfl) (by with_reducible rfl) (by with_reducible rfl) (by with_reducible rfl) (by with_reducible rfl) (by with_reducible rfl) (by with_reducible rfl) (by with_reducible rfl) (by with_reducible rfl))

theorem State.updHart_kept {r : State} {s : State} (h : ℕ) (f : HartSt → HartSt) (hK : Kept r s) : Kept r (State.updHart s h f) := by
  unfold State.updHart
  repeat' first
    | with_reducible assumption
    | with_reducible exact Kept.refl _
    | exact id
    | exact tabWf_tabSet _ _
    | exact tabWf_tabDrop _ _
    | exact tabWf_filter _
    | intro _
    | exact Nat.zero_le _
    | with_reducible apply State.setHart_kept

theorem State.setX_kept {r : State} {s : State} (h : ℕ) (r0 : ℕ) (v : ℕ) (hK : Kept r s) : Kept r (State.setX s h r0 v) := by
  unfold State.setX
  repeat' first
    | with_reducible assumption
    | with_reducible exact Kept.refl _
    | exact id
    | exact tabWf_tabSet _ _
    | exact tabWf_tabDrop _ _
    | exact tabWf_filter _
    | intro _
    | exact Nat.zero_le _
    | with_reducible apply State.updHart_kept
    | with_reducible apply Kept.ite

theorem State.setTdom_kept {r : State} {s : State} (d : ℕ) (v : DomSt) (hK : Kept r s) : Kept r (State.setTdom s d v) := by
  unfold State.setTdom
  repeat' first
    | with_reducible assumption
    | with_reducible exact Kept.refl _
    | exact id
    | exact tabWf_tabSet _ _
    | exact tabWf_tabDrop _ _
    | exact tabWf_filter _
    | intro _
    | exact Nat.zero_le _
    | with_reducible apply Kept.ite
    | dsimp only
    | (split <;> (try (rename_i e; replace e := congrArg Prod.fst e; dsimp only at e; subst e)))
    | (refine Kept.same (t := ?_) ?_ (by dsimp only; rfl) (by with_reducible rfl) (by with_reducible rfl) (by with_reducible rfl) (by with_reducible rfl) (by with_reducible rfl) (by with_reducible rfl) (by with_reducible rfl) (by with_reducible rfl) (by with_reducible rfl))

theorem State.cwdLoad_kept {r : State} {s : State} (c : ℕ) (us : ℕ) (hK : Kept r s) : Kept r (State.cwdLoad s c us) := by
  unfold State.cwdLoad
  repeat' first
    | with_reducible assumption
    | with_reducible exact Kept.refl _
    | exact id
    | exact tabWf_tabSet _ _
    | exact tabWf_tabDrop _ _
    | exact tabWf_filter _
    | intro _
    | exact Nat.zero_le _
    | with_reducible apply Kept.ite
    | dsimp only
    | (split <;> (try (rename_i e; replace e := congrArg Prod.fst e; dsimp only at e; subst e)))
    | (refine Kept.same (t := ?_) ?_ (by dsimp only; rfl) (by with_reducible rfl) (by with_reducible rfl) (by with_reducible rfl) (by with_reducible rfl) (by with_reducible rfl) (by with_reducible rfl) (by with_reducible rfl) (by with_reducible rfl) (by with_reducible rfl))

theorem State.dogTicks_kept {r : State} {s : State} (n : ℕ) (hK : Kept r s) : Kept r (State.dogTicks s n) := by
  unfold State.dogTicks
  repeat' first
    | with_reducible assumption
    | with_reducible exact Kept.refl _
    | exact id
    | exact tabWf_tabSet _ _
    | exact tabWf_tabDrop _ _
    | exact tabWf_filter _
    | intro _
    | exact Nat.zero_le _
    | with_reducible apply Kept.ite
    | with_reducible apply Kept.foldl
    | with_reducible apply Kept.foldlPair
    | dsimp only
    | (split <;> (try (rename_i e; replace e := congrArg Prod.fst e; dsimp only at e; subst e)))
    | (refine Kept.same (t := ?_) ?_ (by dsimp only; rfl) (by with_reducible rfl) (by with_reducible rfl) (by with_reducible rfl) (by with_reducible rfl) (by with_reducible rfl) (by with_reducible rfl) (by with_reducible rfl) (by with_reducible rfl) (by with_reducible rfl))

/-! ### Machine/Pmu -/

theorem State.pmuCarry_kept {r s : State} (p : PmuPlace) (f i k : Nat) (hK : Kept r s) : Kept r (s.pmuCarry p f i k) := by
  induction f generalizing s i k with
  | zero => exact hK
  | succ f ih =>
    rw [State.pmuCarry]
    dsimp only
    have h1 := fun v => State.put_kept (pmuCnt p i) v hK
    split
    · exact h1 _
    · exact Kept.ite (ih _ _ (State.put_kept _ _ (h1 _))) (State.put_kept _ _ (h1 _))

theorem State.pmuCount_kept {r : State} {s : State} (p : PmuPlace) (i : ℕ) (k : ℕ) (hK : Kept r s) : Kept r (State.pmuCount s p i k) := by
  unfold State.pmuCount
  repeat' first
    | with_reducible assumption
    | with_reducible exact Kept.refl _
    | exact id
    | exact tabWf_tabSet _ _
    | exact tabWf_tabDrop _ _
    | exact tabWf_filter _
    | intro _
    | exact Nat.zero_le _
    | with_reducible apply State.pmuCarry_kept
    | with_reducible apply Kept.ite

theorem State.memCount_kept {r : State} {s : State} (i : ℕ) (hK : Kept r s) : Kept r (State.memCount s i) := by
  unfold State.memCount
  repeat' first
    | with_reducible assumption
    | with_reducible exact Kept.refl _
    | exact id
    | exact tabWf_tabSet _ _
    | exact tabWf_tabDrop _ _
    | exact tabWf_filter _
    | intro _
    | exact Nat.zero_le _
    | with_reducible apply State.pmuCount_kept

theorem State.portCount_kept {r : State} {s : State} (p : ℕ) (i : ℕ) (k : ℕ) (hK : Kept r s) : Kept r (State.portCount s p i k) := by
  unfold State.portCount
  repeat' first
    | with_reducible assumption
    | with_reducible exact Kept.refl _
    | exact id
    | exact tabWf_tabSet _ _
    | exact tabWf_tabDrop _ _
    | exact tabWf_filter _
    | intro _
    | exact Nat.zero_le _
    | with_reducible apply State.pmuCount_kept

theorem State.sliceCount_kept {r : State} {s : State} (n : ℕ) (i : ℕ) (k : ℕ) (hK : Kept r s) : Kept r (State.sliceCount s n i k) := by
  unfold State.sliceCount
  repeat' first
    | with_reducible assumption
    | with_reducible exact Kept.refl _
    | exact id
    | exact tabWf_tabSet _ _
    | exact tabWf_tabDrop _ _
    | exact tabWf_filter _
    | intro _
    | exact Nat.zero_le _
    | with_reducible apply State.pmuCount_kept

theorem State.hpmCount_kept {r : State} {s : State} (c : ℕ) (i : ℕ) (hK : Kept r s) : Kept r (State.hpmCount s c i) := by
  unfold State.hpmCount
  repeat' first
    | with_reducible assumption
    | with_reducible exact Kept.refl _
    | exact id
    | exact tabWf_tabSet _ _
    | exact tabWf_tabDrop _ _
    | exact tabWf_filter _
    | intro _
    | exact Nat.zero_le _
    | with_reducible apply State.updHart_kept

theorem State.coreCount_kept {r : State} {s : State} (c : ℕ) (i : ℕ) (hK : Kept r s) : Kept r (State.coreCount s c i) := by
  unfold State.coreCount
  repeat' first
    | with_reducible assumption
    | with_reducible exact Kept.refl _
    | exact id
    | exact tabWf_tabSet _ _
    | exact tabWf_tabDrop _ _
    | exact tabWf_filter _
    | intro _
    | exact Nat.zero_le _
    | with_reducible apply State.pmuCount_kept
    | with_reducible apply State.hpmCount_kept
    | with_reducible apply Kept.ite

theorem State.bwCount_kept {r : State} {s : State} (port : ℕ) (hK : Kept r s) : Kept r (State.bwCount s port) := by
  unfold State.bwCount
  repeat' first
    | with_reducible assumption
    | with_reducible exact Kept.refl _
    | exact id
    | exact tabWf_tabSet _ _
    | exact tabWf_tabDrop _ _
    | exact tabWf_filter _
    | intro _
    | exact Nat.zero_le _
    | with_reducible apply State.when_kept
    | with_reducible apply State.pmuCount_kept
    | with_reducible apply Kept.ite
    | dsimp only
    | (split <;> (try (rename_i e; replace e := congrArg Prod.fst e; dsimp only at e; subst e)))
    | (refine Kept.same (t := ?_) ?_ (by dsimp only; rfl) (by with_reducible rfl) (by with_reducible rfl) (by with_reducible rfl) (by with_reducible rfl) (by with_reducible rfl) (by with_reducible rfl) (by with_reducible rfl) (by with_reducible rfl) (by with_reducible rfl))

/-! ### Machine/LedgerCore -/

theorem State.setLdg_kept {r : State} {s : State} (v : LdgSt) (hK : Kept r s) : Kept r (State.setLdg s v) := by
  unfold State.setLdg
  repeat' first
    | with_reducible assumption
    | with_reducible exact Kept.refl _
    | exact id
    | exact tabWf_tabSet _ _
    | exact tabWf_tabDrop _ _
    | exact tabWf_filter _
    | intro _
    | exact Nat.zero_le _
    | with_reducible apply Kept.ite
    | dsimp only
    | (split <;> (try (rename_i e; replace e := congrArg Prod.fst e; dsimp only at e; subst e)))
    | (refine Kept.same (t := ?_) ?_ (by dsimp only; rfl) (by with_reducible rfl) (by with_reducible rfl) (by with_reducible rfl) (by with_reducible rfl) (by with_reducible rfl) (by with_reducible rfl) (by with_reducible rfl) (by with_reducible rfl) (by with_reducible rfl))

theorem State.ldgSync_kept {r : State} {s : State} (hK : Kept r s) : Kept r (State.ldgSync s) := by
  unfold State.ldgSync
  repeat' first
    | with_reducible assumption
    | with_reducible exact Kept.refl _
    | exact id
    | exact tabWf_tabSet _ _
    | exact tabWf_tabDrop _ _
    | exact tabWf_filter _
    | intro _
    | exact Nat.zero_le _
    | with_reducible apply State.put_kept
    | with_reducible apply Kept.ite
    | dsimp only
    | (split <;> (try (rename_i e; replace e := congrArg Prod.fst e; dsimp only at e; subst e)))
    | (refine Kept.same (t := ?_) ?_ (by dsimp only; rfl) (by with_reducible rfl) (by with_reducible rfl) (by with_reducible rfl) (by with_reducible rfl) (by with_reducible rfl) (by with_reducible rfl) (by with_reducible rfl) (by with_reducible rfl) (by with_reducible rfl))

theorem State.ldgSign_kept {r : State} {s : State} (seq : ℕ) (catchUp : Bool) (hK : Kept r s) : Kept r (State.ldgSign s seq catchUp) := by
  unfold State.ldgSign
  repeat' first
    | with_reducible assumption
    | with_reducible exact Kept.refl _
    | exact id
    | exact tabWf_tabSet _ _
    | exact tabWf_tabDrop _ _
    | exact tabWf_filter _
    | intro _
    | exact Nat.zero_le _
    | with_reducible apply Kept.ite
    | dsimp only
    | (split <;> (try (rename_i e; replace e := congrArg Prod.fst e; dsimp only at e; subst e)))
    | (refine Kept.same (t := ?_) ?_ (by dsimp only; rfl) (by with_reducible rfl) (by with_reducible rfl) (by with_reducible rfl) (by with_reducible rfl) (by with_reducible rfl) (by with_reducible rfl) (by with_reducible rfl) (by with_reducible rfl) (by with_reducible rfl))

theorem State.ldgClose_kept {r : State} {s : State} (lastgasp : Bool) (hK : Kept r s) : Kept r (State.ldgClose s lastgasp) := by
  unfold State.ldgClose
  repeat' first
    | with_reducible assumption
    | with_reducible exact Kept.refl _
    | exact id
    | exact tabWf_tabSet _ _
    | exact tabWf_tabDrop _ _
    | exact tabWf_filter _
    | intro _
    | exact Nat.zero_le _
    | with_reducible apply State.put_kept
    | with_reducible apply State.each_kept
    | with_reducible apply State.when_kept
    | with_reducible apply State.ldgSync_kept
    | with_reducible apply State.ldgSign_kept
    | with_reducible apply Kept.ite
    | dsimp only
    | (split <;> (try (rename_i e; replace e := congrArg Prod.fst e; dsimp only at e; subst e)))
    | (refine Kept.same (t := ?_) ?_ (by dsimp only; rfl) (by with_reducible rfl) (by with_reducible rfl) (by with_reducible rfl) (by with_reducible rfl) (by with_reducible rfl) (by with_reducible rfl) (by with_reducible rfl) (by with_reducible rfl) (by with_reducible rfl))

theorem State.ldgAppend_kept {r : State} {s : State} (r0 : Rec) (hK : Kept r s) : Kept r (State.ldgAppend s r0) := by
  unfold State.ldgAppend
  repeat' first
    | with_reducible assumption
    | with_reducible exact Kept.refl _
    | exact id
    | exact tabWf_tabSet _ _
    | exact tabWf_tabDrop _ _
    | exact tabWf_filter _
    | intro _
    | exact Nat.zero_le _
    | with_reducible apply State.ldgClose_kept
    | with_reducible apply Kept.ite
    | dsimp only
    | (split <;> (try (rename_i e; replace e := congrArg Prod.fst e; dsimp only at e; subst e)))
    | (refine Kept.same (t := ?_) ?_ (by dsimp only; rfl) (by with_reducible rfl) (by with_reducible rfl) (by with_reducible rfl) (by with_reducible rfl) (by with_reducible rfl) (by with_reducible rfl) (by with_reducible rfl) (by with_reducible rfl) (by with_reducible rfl))

theorem State.ldgRefuse_kept {r : State} {s : State} (t : ℕ) (hK : Kept r s) : Kept r (State.ldgRefuse s t) := by
  unfold State.ldgRefuse
  repeat' first
    | with_reducible assumption
    | with_reducible exact Kept.refl _
    | exact id
    | exact tabWf_tabSet _ _
    | exact tabWf_tabDrop _ _
    | exact tabWf_filter _
    | intro _
    | exact Nat.zero_le _
    | with_reducible apply State.raise_kept
    | with_reducible apply State.inc_kept
    | with_reducible apply Kept.ite
    | dsimp only
    | (split <;> (try (rename_i e; replace e := congrArg Prod.fst e; dsimp only at e; subst e)))
    | (refine Kept.same (t := ?_) ?_ (by dsimp only; rfl) (by with_reducible rfl) (by with_reducible rfl) (by with_reducible rfl) (by with_reducible rfl) (by with_reducible rfl) (by with_reducible rfl) (by with_reducible rfl) (by with_reducible rfl) (by with_reducible rfl))

theorem State.ldgGap_kept {r : State} {s : State} (hK : Kept r s) : Kept r (State.ldgGap s) := by
  unfold State.ldgGap
  repeat' first
    | with_reducible assumption
    | with_reducible exact Kept.refl _
    | exact id
    | exact tabWf_tabSet _ _
    | exact tabWf_tabDrop _ _
    | exact tabWf_filter _
    | intro _
    | exact Nat.zero_le _
    | with_reducible apply State.ldgAppend_kept
    | with_reducible apply Kept.ite
    | dsimp only
    | (split <;> (try (rename_i e; replace e := congrArg Prod.fst e; dsimp only at e; subst e)))
    | (refine Kept.same (t := ?_) ?_ (by dsimp only; rfl) (by with_reducible rfl) (by with_reducible rfl) (by with_reducible rfl) (by with_reducible rfl) (by with_reducible rfl) (by with_reducible rfl) (by with_reducible rfl) (by with_reducible rfl) (by with_reducible rfl))

theorem State.ldgAccept_kept {r : State} {s : State} (r0 : Rec) (hK : Kept r s) : Kept r (State.ldgAccept s r0) := by
  unfold State.ldgAccept
  repeat' first
    | with_reducible assumption
    | with_reducible exact Kept.refl _
    | exact id
    | exact tabWf_tabSet _ _
    | exact tabWf_tabDrop _ _
    | exact tabWf_filter _
    | intro _
    | exact Nat.zero_le _
    | with_reducible apply State.raise_kept
    | with_reducible apply State.inc_kept
    | with_reducible apply State.ldgAppend_kept
    | with_reducible apply State.ldgRefuse_kept
    | with_reducible apply State.ldgGap_kept
    | with_reducible apply Kept.ite
    | dsimp only
    | (split <;> (try (rename_i e; replace e := congrArg Prod.fst e; dsimp only at e; subst e)))
    | (refine Kept.same (t := ?_) ?_ (by dsimp only; rfl) (by with_reducible rfl) (by with_reducible rfl) (by with_reducible rfl) (by with_reducible rfl) (by with_reducible rfl) (by with_reducible rfl) (by with_reducible rfl) (by with_reducible rfl) (by with_reducible rfl))

theorem State.ldgPair_kept {r : State} {s : State} (a : Rec) (b : Rec) (hK : Kept r s) : Kept r (State.ldgPair s a b) := by
  unfold State.ldgPair
  repeat' first
    | with_reducible assumption
    | with_reducible exact Kept.refl _
    | exact id
    | exact tabWf_tabSet _ _
    | exact tabWf_tabDrop _ _
    | exact tabWf_filter _
    | intro _
    | exact Nat.zero_le _
    | with_reducible apply State.ldgClose_kept
    | with_reducible apply State.ldgAppend_kept
    | with_reducible apply Kept.ite
    | dsimp only
    | (split <;> (try (rename_i e; replace e := congrArg Prod.fst e; dsimp only at e; subst e)))

theorem State.ldgCtlWrite_kept {r : State} {s : State} (hK : Kept r s) : Kept r (State.ldgCtlWrite s) := by
  unfold State.ldgCtlWrite
  repeat' first
    | with_reducible assumption
    | with_reducible exact Kept.refl _
    | exact id
    | exact tabWf_tabSet _ _
    | exact tabWf_tabDrop _ _
    | exact tabWf_filter _
    | intro _
    | exact Nat.zero_le _
    | with_reducible apply State.setLdg_kept

theorem State.ldgProvisional_kept {r : State} {s : State} (p : Bool) (hK : Kept r s) : Kept r (State.ldgProvisional s p) := by
  unfold State.ldgProvisional
  repeat' first
    | with_reducible assumption
    | with_reducible exact Kept.refl _
    | exact id
    | exact tabWf_tabSet _ _
    | exact tabWf_tabDrop _ _
    | exact tabWf_filter _
    | intro _
    | exact Nat.zero_le _
    | with_reducible apply State.put_kept

/-! ### Machine/Sherd -/

theorem State.sherdAdd_kept {r s : State} (e : SherdEntry) (hK : Kept r s) : Kept r (s.sherdAdd e) := by
  unfold State.sherdAdd
  have h1 := State.raise_kept ⟨SHD_IRQ_STATUS, 0, 6⟩ (sherdIrq e) hK
  generalize s.raise ⟨SHD_IRQ_STATUS, 0, 6⟩ (sherdIrq e) = t at h1
  dsimp only
  refine Kept.ite (hK.parts rfl (fun _ => Nat.le_refl _) id id id id id id id id) (Kept.ite h1 ?_)
  refine State.when_kept _ _ (State.when_kept _ _ (State.put_kept _ _ (State.when_kept _ _ ?_ fun u => State.inc_kept _ _ (Kept.refl u)))
    fun u => State.raise_kept _ _ (Kept.refl u)) fun u => State.ldgAccept_kept _ (Kept.refl u)
  refine h1.parts rfl (fun _ => Nat.le_refl _) id id id id id id id fun h => ?_
  dsimp only
  split <;> simp_all <;> omega

theorem State.sherd_kept {r : State} {s : State} (kind : ℕ) (st : Status) (source : ℕ) (w : World) (requester : ℕ) (addr : ℕ) (port : ℕ) (syndrome : ℕ) (hK : Kept r s) : Kept r (State.sherd s kind st source w requester addr port syndrome) := by
  unfold State.sherd
  repeat' first
    | with_reducible assumption
    | with_reducible exact Kept.refl _
    | exact id
    | exact tabWf_tabSet _ _
    | exact tabWf_tabDrop _ _
    | exact tabWf_filter _
    | intro _
    | exact Nat.zero_le _
    | with_reducible apply State.sherdAdd_kept

theorem State.sherdScrub_kept {r : State} {s : State} (kind : ℕ) (st : Status) (source : ℕ) (addr : ℕ) (syndrome : ℕ) (hK : Kept r s) : Kept r (State.sherdScrub s kind st source addr syndrome) := by
  unfold State.sherdScrub
  repeat' first
    | with_reducible assumption
    | with_reducible exact Kept.refl _
    | exact id
    | exact tabWf_tabSet _ _
    | exact tabWf_tabDrop _ _
    | exact tabWf_filter _
    | intro _
    | exact Nat.zero_le _
    | with_reducible apply State.sherdAdd_kept

theorem State.sherdRefused_kept {r : State} {s : State} (a : Agent) (st : Status) (r0 : Region) (addr : ℕ) (hK : Kept r s) : Kept r (State.sherdRefused s a st r0 addr) := by
  unfold State.sherdRefused
  repeat' first
    | with_reducible assumption
    | with_reducible exact Kept.refl _
    | exact id
    | exact tabWf_tabSet _ _
    | exact tabWf_tabDrop _ _
    | exact tabWf_filter _
    | intro _
    | exact Nat.zero_le _
    | with_reducible apply State.sherd_kept
    | with_reducible apply Kept.ite
    | dsimp only
    | (split <;> (try (rename_i e; replace e := congrArg Prod.fst e; dsimp only at e; subst e)))

theorem State.sherdRange_kept {r : State} {s : State} (a : Agent) (addr : ℕ) (hK : Kept r s) : Kept r (State.sherdRange s a addr) := by
  unfold State.sherdRange
  repeat' first
    | with_reducible assumption
    | with_reducible exact Kept.refl _
    | exact id
    | exact tabWf_tabSet _ _
    | exact tabWf_tabDrop _ _
    | exact tabWf_filter _
    | intro _
    | exact Nat.zero_le _
    | with_reducible apply State.sherd_kept
    | with_reducible apply Kept.ite
    | dsimp only
    | (split <;> (try (rename_i e; replace e := congrArg Prod.fst e; dsimp only at e; subst e)))

theorem State.setCraze_kept {r : State} {s : State} (i : ℕ) (e : Option CrazeEntry) (hK : Kept r s) : Kept r (State.setCraze s i e) := by
  unfold State.setCraze
  repeat' first
    | with_reducible assumption
    | with_reducible exact Kept.refl _
    | exact id
    | exact tabWf_tabSet _ _
    | exact tabWf_tabDrop _ _
    | exact tabWf_filter _
    | intro _
    | exact Nat.zero_le _
    | with_reducible apply Kept.ite
    | dsimp only
    | (split <;> (try (rename_i e; replace e := congrArg Prod.fst e; dsimp only at e; subst e)))
    | (refine Kept.same (t := ?_) ?_ (by dsimp only; rfl) (by with_reducible rfl) (by with_reducible rfl) (by with_reducible rfl) (by with_reducible rfl) (by with_reducible rfl) (by with_reducible rfl) (by with_reducible rfl) (by with_reducible rfl) (by with_reducible rfl))

theorem State.crazeCount_kept {r : State} {s : State} (source : ℕ) (ukind : ℕ) (unit : ℕ) (hK : Kept r s) : Kept r (State.crazeCount s source ukind unit) := by
  unfold State.crazeCount
  repeat' first
    | with_reducible assumption
    | with_reducible exact Kept.refl _
    | exact id
    | exact tabWf_tabSet _ _
    | exact tabWf_tabDrop _ _
    | exact tabWf_filter _
    | intro _
    | exact Nat.zero_le _
    | with_reducible apply State.raise_kept
    | with_reducible apply State.when_kept
    | with_reducible apply State.setCraze_kept
    | with_reducible apply Kept.ite
    | dsimp only
    | (split <;> (try (rename_i e; replace e := congrArg Prod.fst e; dsimp only at e; subst e)))
    | (refine Kept.same (t := ?_) ?_ (by dsimp only; rfl) (by with_reducible rfl) (by with_reducible rfl) (by with_reducible rfl) (by with_reducible rfl) (by with_reducible rfl) (by with_reducible rfl) (by with_reducible rfl) (by with_reducible rfl) (by with_reducible rfl))

/-! ### Machine/Dram -/

theorem State.setByte_kept {r : State} {s : State} (a : ℕ) (b : Byte) (hK : Kept r s) : Kept r (State.setByte s a b) := by
  unfold State.setByte
  repeat' first
    | with_reducible assumption
    | with_reducible exact Kept.refl _
    | exact id
    | exact tabWf_tabSet _ _
    | exact tabWf_tabDrop _ _
    | exact tabWf_filter _
    | intro _
    | exact Nat.zero_le _
    | with_reducible apply Kept.ite
    | dsimp only
    | (split <;> (try (rename_i e; replace e := congrArg Prod.fst e; dsimp only at e; subst e)))
    | (refine Kept.same (t := ?_) ?_ (by dsimp only; rfl) (by with_reducible rfl) (by with_reducible rfl) (by with_reducible rfl) (by with_reducible rfl) (by with_reducible rfl) (by with_reducible rfl) (by with_reducible rfl) (by with_reducible rfl) (by with_reducible rfl))
    | (refine Kept.parts (t := ?_) ?_ (by dsimp only; rfl) (fun _ => Nat.le_refl _) ?_ ?_ ?_ ?_ ?_ ?_ ?_ ?_)

theorem State.setBytes_kept {r s : State} (a v n : Nat) (hK : Kept r s) : Kept r (s.setBytes a v n) := by
  induction n generalizing s a v with
  | zero => exact hK
  | succ n ih => exact ih _ _ (State.setByte_kept _ _ hK)

theorem State.setSynd_kept {r : State} {s : State} (line : ℕ) (v : ℕ) (hK : Kept r s) : Kept r (State.setSynd s line v) := by
  unfold State.setSynd
  repeat' first
    | with_reducible assumption
    | with_reducible exact Kept.refl _
    | exact id
    | exact tabWf_tabSet _ _
    | exact tabWf_tabDrop _ _
    | exact tabWf_filter _
    | intro _
    | exact Nat.zero_le _
    | with_reducible apply Kept.ite
    | dsimp only
    | (split <;> (try (rename_i e; replace e := congrArg Prod.fst e; dsimp only at e; subst e)))
    | (refine Kept.same (t := ?_) ?_ (by dsimp only; rfl) (by with_reducible rfl) (by with_reducible rfl) (by with_reducible rfl) (by with_reducible rfl) (by with_reducible rfl) (by with_reducible rfl) (by with_reducible rfl) (by with_reducible rfl) (by with_reducible rfl))
    | (refine Kept.parts (t := ?_) ?_ (by dsimp only; rfl) (fun _ => Nat.le_refl _) ?_ ?_ ?_ ?_ ?_ ?_ ?_ ?_)

theorem State.flipBit_kept {r : State} {s : State} (line : ℕ) (w : ℕ) (b : ℕ) (hK : Kept r s) : Kept r (State.flipBit s line w b) := by
  unfold State.flipBit
  repeat' first
    | with_reducible assumption
    | with_reducible exact Kept.refl _
    | exact id
    | exact tabWf_tabSet _ _
    | exact tabWf_tabDrop _ _
    | exact tabWf_filter _
    | intro _
    | exact Nat.zero_le _
    | with_reducible apply State.setByte_kept
    | with_reducible apply State.setSynd_kept
    | with_reducible apply Kept.ite

theorem State.upset_kept {r : State} {s : State} (line : ℕ) (u : Upset) (hK : Kept r s) : Kept r (State.upset s line u) := by
  unfold State.upset
  repeat' first
    | with_reducible assumption
    | with_reducible exact Kept.refl _
    | exact id
    | exact tabWf_tabSet _ _
    | exact tabWf_tabDrop _ _
    | exact tabWf_filter _
    | intro _
    | exact Nat.zero_le _
    | with_reducible apply State.each_kept
    | with_reducible apply State.flipBit_kept

theorem State.wedgeTouch_kept {r : State} {s : State} (line : ℕ) (hK : Kept r s) : Kept r (State.wedgeTouch s line) := by
  unfold State.wedgeTouch
  repeat' first
    | with_reducible assumption
    | with_reducible exact Kept.refl _
    | exact id
    | exact tabWf_tabSet _ _
    | exact tabWf_tabDrop _ _
    | exact tabWf_filter _
    | intro _
    | exact Nat.zero_le _
    | with_reducible apply State.memCount_kept
    | with_reducible apply State.setBytes_kept
    | with_reducible apply State.setSynd_kept
    | with_reducible apply Kept.ite
    | dsimp only
    | (split <;> (try (rename_i e; replace e := congrArg Prod.fst e; dsimp only at e; subst e)))
    | (refine Kept.same (t := ?_) ?_ (by dsimp only; rfl) (by with_reducible rfl) (by with_reducible rfl) (by with_reducible rfl) (by with_reducible rfl) (by with_reducible rfl) (by with_reducible rfl) (by with_reducible rfl) (by with_reducible rfl) (by with_reducible rfl))

theorem State.dramRead_kept {r : State} {s : State} (q : MemReq) (line : ℕ) (scrub : Bool) (hK : Kept r s) : Kept r (State.dramRead s q line scrub).1 := by
  unfold State.dramRead
  repeat' first
    | with_reducible assumption
    | with_reducible exact Kept.refl _
    | exact id
    | exact tabWf_tabSet _ _
    | exact tabWf_tabDrop _ _
    | exact tabWf_filter _
    | intro _
    | exact Nat.zero_le _
    | with_reducible apply State.each_kept
    | with_reducible apply State.memCount_kept
    | with_reducible apply State.bwCount_kept
    | with_reducible apply State.sherd_kept
    | with_reducible apply State.sherdScrub_kept
    | with_reducible apply State.crazeCount_kept
    | with_reducible apply State.setSynd_kept
    | with_reducible apply State.flipBit_kept
    | with_reducible apply State.wedgeTouch_kept
    | with_reducible apply Kept.ite
    | dsimp only
    | (split <;> (try (rename_i e; replace e := congrArg Prod.fst e; dsimp only at e; subst e)))

theorem State.dmcInject_kept {r : State} {s : State} (line : ℕ) (hK : Kept r s) : Kept r (State.dmcInject s line) := by
  unfold State.dmcInject
  repeat' first
    | with_reducible assumption
    | with_reducible exact Kept.refl _
    | exact id
    | exact tabWf_tabSet _ _
    | exact tabWf_tabDrop _ _
    | exact tabWf_filter _
    | intro _
    | exact Nat.zero_le _
    | with_reducible apply State.put_kept
    | with_reducible apply State.flipBit_kept
    | with_reducible apply Kept.ite

theorem State.dramWrite_kept {r : State} {s : State} (q : MemReq) (line : ℕ) (mask : ℕ) (data : ℕ) (poison : Bool) (hK : Kept r s) : Kept r (State.dramWrite s q line mask data poison) := by
  unfold State.dramWrite
  repeat' first
    | with_reducible assumption
    | with_reducible exact Kept.refl _
    | exact id
    | exact tabWf_tabSet _ _
    | exact tabWf_tabDrop _ _
    | exact tabWf_filter _
    | intro _
    | exact Nat.zero_le _
    | with_reducible apply State.when_kept
    | with_reducible apply State.memCount_kept
    | with_reducible apply State.bwCount_kept
    | with_reducible apply State.sherd_kept
    | with_reducible apply State.setBytes_kept
    | with_reducible apply State.setSynd_kept
    | with_reducible apply State.wedgeTouch_kept
    | with_reducible apply State.dramRead_kept
    | with_reducible apply State.dmcInject_kept
    | with_reducible apply Kept.ite

theorem State.setSramPoison_kept {r : State} {s : State} (line : ℕ) (p : Bool) (hK : Kept r s) : Kept r (State.setSramPoison s line p) := by
  unfold State.setSramPoison
  repeat' first
    | with_reducible assumption
    | with_reducible exact Kept.refl _
    | exact id
    | exact tabWf_tabSet _ _
    | exact tabWf_tabDrop _ _
    | exact tabWf_filter _
    | intro _
    | exact Nat.zero_le _
    | with_reducible apply Kept.ite
    | dsimp only
    | (split <;> (try (rename_i e; replace e := congrArg Prod.fst e; dsimp only at e; subst e)))
    | (refine Kept.same (t := ?_) ?_ (by dsimp only; rfl) (by with_reducible rfl) (by with_reducible rfl) (by with_reducible rfl) (by with_reducible rfl) (by with_reducible rfl) (by with_reducible rfl) (by with_reducible rfl) (by with_reducible rfl) (by with_reducible rfl))
    | (refine Kept.parts (t := ?_) ?_ (by dsimp only; rfl) (fun _ => Nat.le_refl _) ?_ ?_ ?_ ?_ ?_ ?_ ?_ ?_)

theorem State.sramWrite_kept {r : State} {s : State} (q : MemReq) (src : ℕ) (a : ℕ) (v : ℕ) (n : ℕ) (hK : Kept r s) : Kept r (State.sramWrite s q src a v n) := by
  unfold State.sramWrite
  repeat' first
    | with_reducible assumption
    | with_reducible exact Kept.refl _
    | exact id
    | exact tabWf_tabSet _ _
    | exact tabWf_tabDrop _ _
    | exact tabWf_filter _
    | intro _
    | exact Nat.zero_le _
    | with_reducible apply State.when_kept
    | with_reducible apply State.sherd_kept
    | with_reducible apply State.setBytes_kept
    | with_reducible apply State.setSramPoison_kept
    | with_reducible apply Kept.ite

theorem State.wedgeArray_kept {r : State} {s : State} (lo : ℕ) (hi : ℕ) (hK : Kept r s) : Kept r (State.wedgeArray s lo hi) := by
  unfold State.wedgeArray
  repeat' first
    | with_reducible assumption
    | with_reducible exact Kept.refl _
    | exact id
    | exact tabWf_tabSet _ _
    | exact tabWf_tabDrop _ _
    | exact tabWf_filter _
    | intro _
    | exact Nat.zero_le _
    | with_reducible apply Kept.ite
    | dsimp only
    | (split <;> (try (rename_i e; replace e := congrArg Prod.fst e; dsimp only at e; subst e)))
    | (refine Kept.same (t := ?_) ?_ (by dsimp only; rfl) (by with_reducible rfl) (by with_reducible rfl) (by with_reducible rfl) (by with_reducible rfl) (by with_reducible rfl) (by with_reducible rfl) (by with_reducible rfl) (by with_reducible rfl) (by with_reducible rfl))
    | (refine Kept.parts (t := ?_) ?_ (by dsimp only; rfl) (fun _ => Nat.le_refl _) ?_ ?_ ?_ ?_ ?_ ?_ ?_ ?_)

/-! ### Machine/Coherence -/

theorem State.setL2_kept {r : State} {s : State} (c : ℕ) (line : ℕ) (v : Option L2Line) (hK : Kept r s) : Kept r (State.setL2 s c line v) := by
  unfold State.setL2
  repeat' first
    | with_reducible assumption
    | with_reducible exact Kept.refl _
    | exact id
    | exact tabWf_tabSet _ _
    | exact tabWf_tabDrop _ _
    | exact tabWf_filter _
    | intro _
    | exact Nat.zero_le _
    | with_reducible apply Kept.ite
    | dsimp only
    | (split <;> (try (rename_i e; replace e := congrArg Prod.fst e; dsimp only at e; subst e)))
    | (refine Kept.same (t := ?_) ?_ (by dsimp only; rfl) (by with_reducible rfl) (by with_reducible rfl) (by with_reducible rfl) (by with_reducible rfl) (by with_reducible rfl) (by with_reducible rfl) (by with_reducible rfl) (by with_reducible rfl) (by with_reducible rfl))

theorem State.setSlc_kept {r : State} {s : State} (line : ℕ) (v : Option SlcLine) (hK : Kept r s) : Kept r (State.setSlc s line v) := by
  unfold State.setSlc
  repeat' first
    | with_reducible assumption
    | with_reducible exact Kept.refl _
    | exact id
    | exact tabWf_tabSet _ _
    | exact tabWf_tabDrop _ _
    | exact tabWf_filter _
    | intro _
    | exact Nat.zero_le _
    | with_reducible apply Kept.ite
    | dsimp only
    | (split <;> (try (rename_i e; replace e := congrArg Prod.fst e; dsimp only at e; subst e)))
    | (refine Kept.same (t := ?_) ?_ (by dsimp only; rfl) (by with_reducible rfl) (by with_reducible rfl) (by with_reducible rfl) (by with_reducible rfl) (by with_reducible rfl) (by with_reducible rfl) (by with_reducible rfl) (by with_reducible rfl) (by with_reducible rfl))

theorem State.setDir_kept {r : State} {s : State} (line : ℕ) (v : DirEntry) (hK : Kept r s) : Kept r (State.setDir s line v) := by
  unfold State.setDir
  repeat' first
    | with_reducible assumption
    | with_reducible exact Kept.refl _
    | exact id
    | exact tabWf_tabSet _ _
    | exact tabWf_tabDrop _ _
    | exact tabWf_filter _
    | intro _
    | exact Nat.zero_le _
    | with_reducible apply Kept.ite
    | dsimp only
    | (split <;> (try (rename_i e; replace e := congrArg Prod.fst e; dsimp only at e; subst e)))
    | (refine Kept.same (t := ?_) ?_ (by dsimp only; rfl) (by with_reducible rfl) (by with_reducible rfl) (by with_reducible rfl) (by with_reducible rfl) (by with_reducible rfl) (by with_reducible rfl) (by with_reducible rfl) (by with_reducible rfl) (by with_reducible rfl))

theorem State.setEpoch_kept {r : State} {s : State} (c : ℕ) (v : EpochSt) (hK : Kept r s) : Kept r (State.setEpoch s c v) := by
  unfold State.setEpoch
  repeat' first
    | with_reducible assumption
    | with_reducible exact Kept.refl _
    | exact id
    | exact tabWf_tabSet _ _
    | exact tabWf_tabDrop _ _
    | exact tabWf_filter _
    | intro _
    | exact Nat.zero_le _
    | with_reducible apply Kept.ite
    | dsimp only
    | (split <;> (try (rename_i e; replace e := congrArg Prod.fst e; dsimp only at e; subst e)))
    | (refine Kept.same (t := ?_) ?_ (by dsimp only; rfl) (by with_reducible rfl) (by with_reducible rfl) (by with_reducible rfl) (by with_reducible rfl) (by with_reducible rfl) (by with_reducible rfl) (by with_reducible rfl) (by with_reducible rfl) (by with_reducible rfl))

theorem State.tickAge_kept {r : State} {s : State} (hK : Kept r s) : Kept r (State.tickAge s) := by
  unfold State.tickAge
  repeat' first
    | with_reducible assumption
    | with_reducible exact Kept.refl _
    | exact id
    | exact tabWf_tabSet _ _
    | exact tabWf_tabDrop _ _
    | exact tabWf_filter _
    | intro _
    | exact Nat.zero_le _
    | with_reducible apply Kept.ite
    | dsimp only
    | (split <;> (try (rename_i e; replace e := congrArg Prod.fst e; dsimp only at e; subst e)))
    | (refine Kept.same (t := ?_) ?_ (by dsimp only; rfl) (by with_reducible rfl) (by with_reducible rfl) (by with_reducible rfl) (by with_reducible rfl) (by with_reducible rfl) (by with_reducible rfl) (by with_reducible rfl) (by with_reducible rfl) (by with_reducible rfl))

theorem State.slcEvict_kept {r : State} {s : State} (q : MemReq) (line : ℕ) (hK : Kept r s) : Kept r (State.slcEvict s q line) := by
  unfold State.slcEvict
  repeat' first
    | with_reducible assumption
    | with_reducible exact Kept.refl _
    | exact id
    | exact tabWf_tabSet _ _
    | exact tabWf_tabDrop _ _
    | exact tabWf_filter _
    | intro _
    | exact Nat.zero_le _
    | with_reducible apply State.when_kept
    | with_reducible apply State.memCount_kept
    | with_reducible apply State.dramWrite_kept
    | with_reducible apply State.setSlc_kept
    | with_reducible apply Kept.ite
    | dsimp only
    | (split <;> (try (rename_i e; replace e := congrArg Prod.fst e; dsimp only at e; subst e)))

theorem State.slcPut_kept {r : State} {s : State} (q : MemReq) (line : ℕ) (data : ℕ) (dirty : Bool) (poison : Bool) (hK : Kept r s) : Kept r (State.slcPut s q line data dirty poison) := by
  unfold State.slcPut
  repeat' first
    | with_reducible assumption
    | with_reducible exact Kept.refl _
    | exact id
    | exact tabWf_tabSet _ _
    | exact tabWf_tabDrop _ _
    | exact tabWf_filter _
    | intro _
    | exact Nat.zero_le _
    | with_reducible apply State.when_kept
    | with_reducible apply State.tookFree_kept
    | with_reducible apply State.memCount_kept
    | with_reducible apply State.dramWrite_kept
    | with_reducible apply State.setSlc_kept
    | with_reducible apply State.tickAge_kept
    | with_reducible apply State.slcEvict_kept
    | with_reducible apply Kept.ite
    | dsimp only
    | (split <;> (try (rename_i e; replace e := congrArg Prod.fst e; dsimp only at e; subst e)))

theorem State.memLine_kept {r : State} {s : State} (q : MemReq) (line : ℕ) (hK : Kept r s) : Kept r (State.memLine s q line).1 := by
  unfold State.memLine
  repeat' first
    | with_reducible assumption
    | with_reducible exact Kept.refl _
    | exact id
    | exact tabWf_tabSet _ _
    | exact tabWf_tabDrop _ _
    | exact tabWf_filter _
    | intro _
    | exact Nat.zero_le _
    | with_reducible apply State.memCount_kept
    | with_reducible apply State.dramRead_kept
    | with_reducible apply Kept.ite
    | dsimp only
    | (split <;> (try (rename_i e; replace e := congrArg Prod.fst e; dsimp only at e; subst e)))

theorem State.memWriteLine_kept {r : State} {s : State} (q : MemReq) (line : ℕ) (mask : ℕ) (data : ℕ) (hK : Kept r s) : Kept r (State.memWriteLine s q line mask data) := by
  unfold State.memWriteLine
  repeat' first
    | with_reducible assumption
    | with_reducible exact Kept.refl _
    | exact id
    | exact tabWf_tabSet _ _
    | exact tabWf_tabDrop _ _
    | exact tabWf_filter _
    | intro _
    | exact Nat.zero_le _
    | with_reducible apply State.when_kept
    | with_reducible apply State.sherd_kept
    | with_reducible apply State.dramWrite_kept
    | with_reducible apply State.setSlc_kept
    | with_reducible apply Kept.ite
    | dsimp only
    | (split <;> (try (rename_i e; replace e := congrArg Prod.fst e; dsimp only at e; subst e)))

theorem State.epochRelease_kept {r : State} {s : State} (c : ℕ) (early : Bool) (hK : Kept r s) : Kept r (State.epochRelease s c early) := by
  unfold State.epochRelease
  repeat' first
    | with_reducible assumption
    | with_reducible exact Kept.refl _
    | exact id
    | exact tabWf_tabSet _ _
    | exact tabWf_tabDrop _ _
    | exact tabWf_filter _
    | intro _
    | exact Nat.zero_le _
    | with_reducible apply State.put_kept
    | with_reducible apply State.inc_kept
    | with_reducible apply State.each_kept
    | with_reducible apply State.when_kept
    | with_reducible apply State.dramWrite_kept
    | with_reducible apply State.setSlc_kept
    | with_reducible apply State.setEpoch_kept
    | with_reducible apply Kept.ite
    | dsimp only
    | (split <;> (try (rename_i e; replace e := congrArg Prod.fst e; dsimp only at e; subst e)))

theorem State.forceCommit_kept {r : State} {s : State} (line : ℕ) (outsideOf : ℕ → Bool) (hK : Kept r s) : Kept r (State.forceCommit s line outsideOf) := by
  unfold State.forceCommit
  repeat' first
    | with_reducible assumption
    | with_reducible exact Kept.refl _
    | exact id
    | exact tabWf_tabSet _ _
    | exact tabWf_tabDrop _ _
    | exact tabWf_filter _
    | intro _
    | exact Nat.zero_le _
    | with_reducible apply State.each_kept
    | with_reducible apply State.epochRelease_kept
    | with_reducible apply Kept.ite

theorem State.clearResv_kept {r : State} {s : State} (line : ℕ) (who : ℕ → Bool) (hK : Kept r s) : Kept r (State.clearResv s line who) := by
  unfold State.clearResv
  repeat' first
    | with_reducible assumption
    | with_reducible exact Kept.refl _
    | exact id
    | exact tabWf_tabSet _ _
    | exact tabWf_tabDrop _ _
    | exact tabWf_filter _
    | intro _
    | exact Nat.zero_le _
    | with_reducible apply Kept.ite
    | dsimp only
    | (split <;> (try (rename_i e; replace e := congrArg Prod.fst e; dsimp only at e; subst e)))
    | (refine Kept.same (t := ?_) ?_ (by dsimp only; rfl) (by with_reducible rfl) (by with_reducible rfl) (by with_reducible rfl) (by with_reducible rfl) (by with_reducible rfl) (by with_reducible rfl) (by with_reducible rfl) (by with_reducible rfl) (by with_reducible rfl))

theorem State.dirtyDown_kept {r : State} {s : State} (q : MemReq) (c : ℕ) (line : ℕ) (data : ℕ) (poison : Bool) (hK : Kept r s) : Kept r (State.dirtyDown s q c line data poison) := by
  unfold State.dirtyDown
  repeat' first
    | with_reducible assumption
    | with_reducible exact Kept.refl _
    | exact id
    | exact tabWf_tabSet _ _
    | exact tabWf_tabDrop _ _
    | exact tabWf_filter _
    | intro _
    | exact Nat.zero_le _
    | with_reducible apply State.setEpoch_kept
    | with_reducible apply State.slcPut_kept
    | with_reducible apply Kept.ite

theorem State.giveUp_kept {r : State} {s : State} (q : MemReq) (c : ℕ) (line : ℕ) (hK : Kept r s) : Kept r (State.giveUp s q c line) := by
  unfold State.giveUp
  repeat' first
    | with_reducible assumption
    | with_reducible exact Kept.refl _
    | exact id
    | exact tabWf_tabSet _ _
    | exact tabWf_tabDrop _ _
    | exact tabWf_filter _
    | intro _
    | exact Nat.zero_le _
    | with_reducible apply State.setL2_kept
    | with_reducible apply State.setDir_kept
    | with_reducible apply State.slcPut_kept
    | with_reducible apply State.clearResv_kept
    | with_reducible apply State.dirtyDown_kept
    | with_reducible apply Kept.ite
    | dsimp only
    | (split <;> (try (rename_i e; replace e := congrArg Prod.fst e; dsimp only at e; subst e)))

theorem State.backInvalidate_kept {r : State} {s : State} (q : MemReq) (line : ℕ) (hK : Kept r s) : Kept r (State.backInvalidate s q line) := by
  unfold State.backInvalidate
  repeat' first
    | with_reducible assumption
    | with_reducible exact Kept.refl _
    | exact id
    | exact tabWf_tabSet _ _
    | exact tabWf_tabDrop _ _
    | exact tabWf_filter _
    | intro _
    | exact Nat.zero_le _
    | with_reducible apply State.each_kept
    | with_reducible apply State.setDir_kept
    | with_reducible apply State.giveUp_kept

theorem State.l2Install_kept {r : State} {s : State} (q : MemReq) (c : ℕ) (line : ℕ) (st : Mesi) (data : ℕ) (poison : Bool) (hK : Kept r s) : Kept r (State.l2Install s q c line st data poison) := by
  unfold State.l2Install
  repeat' first
    | with_reducible assumption
    | with_reducible exact Kept.refl _
    | exact id
    | exact tabWf_tabSet _ _
    | exact tabWf_tabDrop _ _
    | exact tabWf_filter _
    | intro _
    | exact Nat.zero_le _
    | with_reducible apply State.tookFree_kept
    | with_reducible apply State.setL2_kept
    | with_reducible apply State.tickAge_kept
    | with_reducible apply State.giveUp_kept
    | with_reducible apply Kept.ite
    | dsimp only
    | (split <;> (try (rename_i e; replace e := congrArg Prod.fst e; dsimp only at e; subst e)))

theorem State.cohOpen_kept {r : State} {s : State} (r0 : ℕ) (k : CohKind) (line : ℕ) (mask : ℕ) (data : ℕ) (hK : Kept r s) : Kept r (State.cohOpen s r0 k line mask data) := by
  unfold State.cohOpen
  repeat' first
    | with_reducible assumption
    | with_reducible exact Kept.refl _
    | exact id
    | exact tabWf_tabSet _ _
    | exact tabWf_tabDrop _ _
    | exact tabWf_filter _
    | intro _
    | exact Nat.zero_le _
    | with_reducible apply State.setDir_kept

theorem State.snoopAct_kept {r : State} {s : State} (c : ℕ) (line : ℕ) (k : SnpKind) (hK : Kept r s) : Kept r (State.snoopAct s c line k) := by
  unfold State.snoopAct
  repeat' first
    | with_reducible assumption
    | with_reducible exact Kept.refl _
    | exact id
    | exact tabWf_tabSet _ _
    | exact tabWf_tabDrop _ _
    | exact tabWf_filter _
    | intro _
    | exact Nat.zero_le _
    | with_reducible apply State.setL2_kept
    | with_reducible apply State.setDir_kept
    | with_reducible apply State.clearResv_kept
    | with_reducible apply State.dirtyDown_kept
    | with_reducible apply Kept.ite
    | dsimp only
    | (split <;> (try (rename_i e; replace e := congrArg Prod.fst e; dsimp only at e; subst e)))

theorem State.answerAct_kept {r : State} {s : State} (c : ℕ) (line : ℕ) (hK : Kept r s) : Kept r (State.answerAct s c line) := by
  unfold State.answerAct
  repeat' first
    | with_reducible assumption
    | with_reducible exact Kept.refl _
    | exact id
    | exact tabWf_tabSet _ _
    | exact tabWf_tabDrop _ _
    | exact tabWf_filter _
    | intro _
    | exact Nat.zero_le _
    | with_reducible apply State.setDir_kept
    | with_reducible apply Kept.ite
    | dsimp only
    | (split <;> (try (rename_i e; replace e := congrArg Prod.fst e; dsimp only at e; subst e)))

theorem State.txnData_kept {r : State} {s : State} (q : MemReq) (t : Txn) (line : ℕ) (hK : Kept r s) : Kept r (State.txnData s q t line).1 := by
  unfold State.txnData
  repeat' first
    | with_reducible assumption
    | with_reducible exact Kept.refl _
    | exact id
    | exact tabWf_tabSet _ _
    | exact tabWf_tabDrop _ _
    | exact tabWf_filter _
    | intro _
    | exact Nat.zero_le _
    | with_reducible apply State.memLine_kept
    | with_reducible apply Kept.ite
    | dsimp only
    | (split <;> (try (rename_i e; replace e := congrArg Prod.fst e; dsimp only at e; subst e)))

theorem State.slcMove_kept {r : State} {s : State} (q : MemReq) (line : ℕ) (hK : Kept r s) : Kept r (State.slcMove s q line) := by
  unfold State.slcMove
  repeat' first
    | with_reducible assumption
    | with_reducible exact Kept.refl _
    | exact id
    | exact tabWf_tabSet _ _
    | exact tabWf_tabDrop _ _
    | exact tabWf_filter _
    | intro _
    | exact Nat.zero_le _
    | with_reducible apply State.slcEvict_kept

theorem State.placeTake_kept {r : State} {s : State} (line : ℕ) (hK : Kept r s) : Kept r (State.placeTake s line) := by
  unfold State.placeTake
  repeat' first
    | with_reducible assumption
    | with_reducible exact Kept.refl _
    | exact id
    | exact tabWf_tabSet _ _
    | exact tabWf_tabDrop _ _
    | exact tabWf_filter _
    | intro _
    | exact Nat.zero_le _
    | with_reducible apply State.each_kept
    | with_reducible apply State.setEpoch_kept

theorem State.grantAct_kept {r : State} {s : State} (line : ℕ) (hK : Kept r s) : Kept r (State.grantAct s line) := by
  unfold State.grantAct
  repeat' first
    | with_reducible assumption
    | with_reducible exact Kept.refl _
    | exact id
    | exact tabWf_tabSet _ _
    | exact tabWf_tabDrop _ _
    | exact tabWf_filter _
    | intro _
    | exact Nat.zero_le _
    | with_reducible apply State.when_kept
    | with_reducible apply State.memCount_kept
    | with_reducible apply State.setL2_kept
    | with_reducible apply State.setSlc_kept
    | with_reducible apply State.setDir_kept
    | with_reducible apply State.slcPut_kept
    | with_reducible apply State.memWriteLine_kept
    | with_reducible apply State.clearResv_kept
    | with_reducible apply State.l2Install_kept
    | with_reducible apply State.txnData_kept
    | with_reducible apply State.slcMove_kept
    | with_reducible apply State.placeTake_kept
    | with_reducible apply Kept.ite
    | with_reducible apply Kept.foldl
    | with_reducible apply Kept.foldlPair
    | dsimp only
    | (split <;> (try (rename_i e; replace e := congrArg Prod.fst e; dsimp only at e; subst e)))
    | (refine Kept.same (t := ?_) ?_ (by dsimp only; rfl) (by with_reducible rfl) (by with_reducible rfl) (by with_reducible rfl) (by with_reducible rfl) (by with_reducible rfl) (by with_reducible rfl) (by with_reducible rfl) (by with_reducible rfl) (by with_reducible rfl))

theorem State.stashFillAct_kept {r : State} {s : State} (c : ℕ) (line : ℕ) (hK : Kept r s) : Kept r (State.stashFillAct s c line) := by
  unfold State.stashFillAct
  repeat' first
    | with_reducible assumption
    | with_reducible exact Kept.refl _
    | exact id
    | exact tabWf_tabSet _ _
    | exact tabWf_tabDrop _ _
    | exact tabWf_filter _
    | intro _
    | exact Nat.zero_le _
    | with_reducible apply State.setDir_kept
    | with_reducible apply State.l2Install_kept
    | with_reducible apply Kept.ite
    | dsimp only
    | (split <;> (try (rename_i e; replace e := congrArg Prod.fst e; dsimp only at e; subst e)))
    | (refine Kept.same (t := ?_) ?_ (by dsimp only; rfl) (by with_reducible rfl) (by with_reducible rfl) (by with_reducible rfl) (by with_reducible rfl) (by with_reducible rfl) (by with_reducible rfl) (by with_reducible rfl) (by with_reducible rfl) (by with_reducible rfl))

theorem State.endHold_kept {r : State} {s : State} (c : ℕ) (line : ℕ) (hK : Kept r s) : Kept r (State.endHold s c line) := by
  unfold State.endHold
  repeat' first
    | with_reducible assumption
    | with_reducible exact Kept.refl _
    | exact id
    | exact tabWf_tabSet _ _
    | exact tabWf_tabDrop _ _
    | exact tabWf_filter _
    | intro _
    | exact Nat.zero_le _
    | with_reducible apply State.setL2_kept
    | with_reducible apply Kept.ite
    | dsimp only
    | (split <;> (try (rename_i e; replace e := congrArg Prod.fst e; dsimp only at e; subst e)))

theorem State.cohFinish_kept {r : State} {s : State} (line : ℕ) (hK : Kept r s) : Kept r (State.cohFinish s line) := by
  unfold State.cohFinish
  repeat' first
    | with_reducible assumption
    | with_reducible exact Kept.refl _
    | exact id
    | exact tabWf_tabSet _ _
    | exact tabWf_tabDrop _ _
    | exact tabWf_filter _
    | intro _
    | exact Nat.zero_le _
    | with_reducible apply State.each_kept
    | with_reducible apply State.forceCommit_kept
    | with_reducible apply State.snoopAct_kept
    | with_reducible apply State.answerAct_kept
    | with_reducible apply State.grantAct_kept
    | with_reducible apply State.stashFillAct_kept
    | with_reducible apply State.endHold_kept
    | with_reducible apply Kept.ite
    | dsimp only
    | (split <;> (try (rename_i e; replace e := congrArg Prod.fst e; dsimp only at e; subst e)))

theorem State.dirAlloc_kept {r s : State} (q : MemReq) (line : Nat) (hK : Kept r s) : Kept r ((s.dirAlloc q line).getD s) := by
  unfold State.dirAlloc
  dsimp only
  split
  · exact hK
  · split
    · exact State.tickAge_kept (State.setDir_kept _ _ hK)
    · split
      · exact State.tickAge_kept (State.setDir_kept _ _ (State.backInvalidate_kept _ _ (State.memCount_kept _ hK)))
      · exact hK

theorem State.cohServe_kept {r s : State} (p : Nat) (k : CohKind) (line mask data : Nat) (hK : Kept r s) :
    Kept r (s.cohServe p k line mask data) := by
  unfold State.cohServe
  have h1 := State.cohFinish_kept line hK
  refine State.cohFinish_kept _ (State.cohOpen_kept _ _ _ _ _ ?_)
  split
  all_goals first
    | exact State.dirAlloc_kept _ _ h1
    | exact Kept.ite (State.dirAlloc_kept _ _ h1) h1
    | exact h1

theorem State.l2Acquire_kept {r : State} {s : State} (c : ℕ) (line : ℕ) (unique : Bool) (hK : Kept r s) : Kept r (State.l2Acquire s c line unique) := by
  unfold State.l2Acquire
  repeat' first
    | with_reducible assumption
    | with_reducible exact Kept.refl _
    | exact id
    | exact tabWf_tabSet _ _
    | exact tabWf_tabDrop _ _
    | exact tabWf_filter _
    | intro _
    | exact Nat.zero_le _
    | with_reducible apply State.cohFinish_kept
    | with_reducible apply State.cohServe_kept
    | with_reducible apply Kept.ite
    | dsimp only
    | (split <;> (try (rename_i e; replace e := congrArg Prod.fst e; dsimp only at e; subst e)))

theorem State.devReadLine_kept {r : State} {s : State} (q : MemReq) (line : ℕ) (hK : Kept r s) : Kept r (State.devReadLine s q line).1 := by
  unfold State.devReadLine
  repeat' first
    | with_reducible assumption
    | with_reducible exact Kept.refl _
    | exact id
    | exact tabWf_tabSet _ _
    | exact tabWf_tabDrop _ _
    | exact tabWf_filter _
    | intro _
    | exact Nat.zero_le _
    | with_reducible apply State.memLine_kept
    | with_reducible apply State.forceCommit_kept
    | with_reducible apply State.cohFinish_kept
    | with_reducible apply Kept.ite
    | dsimp only
    | (split <;> (try (rename_i e; replace e := congrArg Prod.fst e; dsimp only at e; subst e)))

theorem State.devWriteLine_kept {r : State} {s : State} (r0 : ℕ) (line : ℕ) (mask : ℕ) (data : ℕ) (hK : Kept r s) : Kept r (State.devWriteLine s r0 line mask data) := by
  unfold State.devWriteLine
  repeat' first
    | with_reducible assumption
    | with_reducible exact Kept.refl _
    | exact id
    | exact tabWf_tabSet _ _
    | exact tabWf_tabDrop _ _
    | exact tabWf_filter _
    | intro _
    | exact Nat.zero_le _
    | with_reducible apply State.forceCommit_kept
    | with_reducible apply State.cohServe_kept

theorem State.stashLine_kept {r : State} {s : State} (r0 : ℕ) (c : ℕ) (line : ℕ) (mask : ℕ) (data : ℕ) (hK : Kept r s) : Kept r (State.stashLine s r0 c line mask data) := by
  unfold State.stashLine
  repeat' first
    | with_reducible assumption
    | with_reducible exact Kept.refl _
    | exact id
    | exact tabWf_tabSet _ _
    | exact tabWf_tabDrop _ _
    | exact tabWf_filter _
    | intro _
    | exact Nat.zero_le _
    | with_reducible apply State.forceCommit_kept
    | with_reducible apply State.cohServe_kept

theorem State.dropCopies_kept {r : State} {s : State} (line : ℕ) (hK : Kept r s) : Kept r (State.dropCopies s line) := by
  unfold State.dropCopies
  repeat' first
    | with_reducible assumption
    | with_reducible exact Kept.refl _
    | exact id
    | exact tabWf_tabSet _ _
    | exact tabWf_tabDrop _ _
    | exact tabWf_filter _
    | intro _
    | exact Nat.zero_le _
    | with_reducible apply State.each_kept
    | with_reducible apply State.setL2_kept
    | with_reducible apply State.setSlc_kept
    | with_reducible apply State.setDir_kept
    | with_reducible apply State.clearResv_kept

theorem State.flushCopies_kept {r : State} {s : State} (q : MemReq) (line : ℕ) (hK : Kept r s) : Kept r (State.flushCopies s q line) := by
  unfold State.flushCopies
  repeat' first
    | with_reducible assumption
    | with_reducible exact Kept.refl _
    | exact id
    | exact tabWf_tabSet _ _
    | exact tabWf_tabDrop _ _
    | exact tabWf_filter _
    | intro _
    | exact Nat.zero_le _
    | with_reducible apply State.slcEvict_kept
    | with_reducible apply State.backInvalidate_kept
    | with_reducible apply State.cohFinish_kept

theorem State.l2Drain_kept {r : State} {s : State} (c : ℕ) (hK : Kept r s) : Kept r (State.l2Drain s c) := by
  unfold State.l2Drain
  repeat' first
    | with_reducible assumption
    | with_reducible exact Kept.refl _
    | exact id
    | exact tabWf_tabSet _ _
    | exact tabWf_tabDrop _ _
    | exact tabWf_filter _
    | intro _
    | exact Nat.zero_le _
    | with_reducible apply State.each_kept
    | with_reducible apply State.giveUp_kept
    | with_reducible apply State.cohFinish_kept

theorem State.apcLost_kept {r : State} {s : State} (hK : Kept r s) : Kept r (State.apcLost s) := by
  unfold State.apcLost
  repeat' first
    | with_reducible assumption
    | with_reducible exact Kept.refl _
    | exact id
    | exact tabWf_tabSet _ _
    | exact tabWf_tabDrop _ _
    | exact tabWf_filter _
    | intro _
    | exact Nat.zero_le _
    | with_reducible apply State.each_kept
    | with_reducible apply State.setDir_kept
    | with_reducible apply State.slcPut_kept
    | with_reducible apply State.memLine_kept
    | with_reducible apply Kept.ite
    | dsimp only
    | (split <;> (try (rename_i e; replace e := congrArg Prod.fst e; dsimp only at e; subst e)))
    | (refine Kept.same (t := ?_) ?_ (by dsimp only; rfl) (by with_reducible rfl) (by with_reducible rfl) (by with_reducible rfl) (by with_reducible rfl) (by with_reducible rfl) (by with_reducible rfl) (by with_reducible rfl) (by with_reducible rfl) (by with_reducible rfl))

/-! ### Machine/Trap -/

theorem State.setCsr_kept {r : State} {s : State} (h : ℕ) (a : ℕ) (v : ℕ) (hK : Kept r s) : Kept r (State.setCsr s h a v) := by
  unfold State.setCsr
  repeat' first
    | with_reducible assumption
    | with_reducible exact Kept.refl _
    | exact id
    | exact tabWf_tabSet _ _
    | exact tabWf_tabDrop _ _
    | exact tabWf_filter _
    | intro _
    | exact Nat.zero_le _
    | with_reducible apply State.updHart_kept

theorem State.setModeCsr_kept {r : State} {s : State} (h : ℕ) (a : ℕ) (v : ℕ) (hK : Kept r s) : Kept r (State.setModeCsr s h a v) := by
  unfold State.setModeCsr
  repeat' first
    | with_reducible assumption
    | with_reducible exact Kept.refl _
    | exact id
    | exact tabWf_tabSet _ _
    | exact tabWf_tabDrop _ _
    | exact tabWf_filter _
    | intro _
    | exact Nat.zero_le _
    | with_reducible apply State.updHart_kept
    | with_reducible apply State.setCsr_kept

theorem State.modesNow_kept {r : State} {s : State} (h : ℕ) (hK : Kept r s) : Kept r (State.modesNow s h) := by
  unfold State.modesNow
  repeat' first
    | with_reducible assumption
    | with_reducible exact Kept.refl _
    | exact id
    | exact tabWf_tabSet _ _
    | exact tabWf_tabDrop _ _
    | exact tabWf_filter _
    | intro _
    | exact Nat.zero_le _
    | with_reducible apply State.updHart_kept

theorem State.countRetired_kept {r : State} {s : State} (h : ℕ) (hK : Kept r s) : Kept r (State.countRetired s h) := by
  unfold State.countRetired
  repeat' first
    | with_reducible assumption
    | with_reducible exact Kept.refl _
    | exact id
    | exact tabWf_tabSet _ _
    | exact tabWf_tabDrop _ _
    | exact tabWf_filter _
    | intro _
    | exact Nat.zero_le _
    | with_reducible apply State.when_kept
    | with_reducible apply State.updHart_kept
    | with_reducible apply State.coreCount_kept

theorem State.retireTo_kept {r : State} {s : State} (h : ℕ) (pc : ℕ) (hK : Kept r s) : Kept r (State.retireTo s h pc) := by
  unfold State.retireTo
  repeat' first
    | with_reducible assumption
    | with_reducible exact Kept.refl _
    | exact id
    | exact tabWf_tabSet _ _
    | exact tabWf_tabDrop _ _
    | exact tabWf_filter _
    | intro _
    | exact Nat.zero_le _
    | with_reducible apply State.updHart_kept
    | with_reducible apply State.countRetired_kept

theorem State.retire_kept {r : State} {s : State} (h : ℕ) (hK : Kept r s) : Kept r (State.retire s h) := by
  unfold State.retire
  repeat' first
    | with_reducible assumption
    | with_reducible exact Kept.refl _
    | exact id
    | exact tabWf_tabSet _ _
    | exact tabWf_tabDrop _ _
    | exact tabWf_filter _
    | intro _
    | exact Nat.zero_le _
    | with_reducible apply State.retireTo_kept

theorem State.saggarClear_kept {r : State} {s : State} (h : ℕ) (clr : ℕ) (hK : Kept r s) : Kept r (State.saggarClear s h clr) := by
  unfold State.saggarClear
  repeat' first
    | with_reducible assumption
    | with_reducible exact Kept.refl _
    | exact id
    | exact tabWf_tabSet _ _
    | exact tabWf_tabDrop _ _
    | exact tabWf_filter _
    | intro _
    | exact Nat.zero_le _
    | with_reducible apply State.each_kept
    | with_reducible apply State.when_kept
    | with_reducible apply State.updHart_kept
    | with_reducible apply State.setCsr_kept

theorem State.saggarLeave_kept {r : State} {s : State} (h : ℕ) (hK : Kept r s) : Kept r (State.saggarLeave s h) := by
  unfold State.saggarLeave
  repeat' first
    | with_reducible assumption
    | with_reducible exact Kept.refl _
    | exact id
    | exact tabWf_tabSet _ _
    | exact tabWf_tabDrop _ _
    | exact tabWf_filter _
    | intro _
    | exact Nat.zero_le _
    | with_reducible apply State.setCsr_kept
    | with_reducible apply State.saggarClear_kept

theorem State.trap_kept {r : State} {s : State} (h : ℕ) (irq : Bool) (code : ℕ) (tval : ℕ) (hK : Kept r s) : Kept r (State.trap s h irq code tval) := by
  unfold State.trap
  repeat' first
    | with_reducible assumption
    | with_reducible exact Kept.refl _
    | exact id
    | exact tabWf_tabSet _ _
    | exact tabWf_tabDrop _ _
    | exact tabWf_filter _
    | intro _
    | exact Nat.zero_le _
    | with_reducible apply State.when_kept
    | with_reducible apply State.updHart_kept
    | with_reducible apply State.coreCount_kept
    | with_reducible apply State.setCsr_kept
    | with_reducible apply State.modesNow_kept
    | with_reducible apply State.saggarLeave_kept
    | with_reducible apply Kept.ite
    | dsimp only
    | (split <;> (try (rename_i e; replace e := congrArg Prod.fst e; dsimp only at e; subst e)))

theorem State.exception_kept {r : State} {s : State} (h : ℕ) (code : ℕ) (tval : ℕ) (hK : Kept r s) : Kept r (State.exception s h code tval) := by
  unfold State.exception
  repeat' first
    | with_reducible assumption
    | with_reducible exact Kept.refl _
    | exact id
    | exact tabWf_tabSet _ _
    | exact tabWf_tabDrop _ _
    | exact tabWf_filter _
    | intro _
    | exact Nat.zero_le _
    | with_reducible apply State.trap_kept

theorem State.illegal_kept {r : State} {s : State} (h : ℕ) (hK : Kept r s) : Kept r (State.illegal s h) := by
  unfold State.illegal
  repeat' first
    | with_reducible assumption
    | with_reducible exact Kept.refl _
    | exact id
    | exact tabWf_tabSet _ _
    | exact tabWf_tabDrop _ _
    | exact tabWf_filter _
    | intro _
    | exact Nat.zero_le _
    | with_reducible apply State.exception_kept

theorem State.mret_kept {r : State} {s : State} (h : ℕ) (hK : Kept r s) : Kept r (State.mret s h) := by
  unfold State.mret
  repeat' first
    | with_reducible assumption
    | with_reducible exact Kept.refl _
    | exact id
    | exact tabWf_tabSet _ _
    | exact tabWf_tabDrop _ _
    | exact tabWf_filter _
    | intro _
    | exact Nat.zero_le _
    | with_reducible apply State.updHart_kept
    | with_reducible apply State.coreCount_kept
    | with_reducible apply State.setCsr_kept
    | with_reducible apply State.retireTo_kept

theorem State.sret_kept {r : State} {s : State} (h : ℕ) (hK : Kept r s) : Kept r (State.sret s h) := by
  unfold State.sret
  repeat' first
    | with_reducible assumption
    | with_reducible exact Kept.refl _
    | exact id
    | exact tabWf_tabSet _ _
    | exact tabWf_tabDrop _ _
    | exact tabWf_filter _
    | intro _
    | exact Nat.zero_le _
    | with_reducible apply State.updHart_kept
    | with_reducible apply State.coreCount_kept
    | with_reducible apply State.setCsr_kept
    | with_reducible apply State.retireTo_kept
    | with_reducible apply Kept.ite

/-! ### Machine/Access -/

theorem State.sbEnd_kept {r : State} {s : State} (err : ℕ) (st : Status) (hK : Kept r s) : Kept r (State.sbEnd s err st) := by
  unfold State.sbEnd
  repeat' first
    | with_reducible assumption
    | with_reducible exact Kept.refl _
    | exact id
    | exact tabWf_tabSet _ _
    | exact tabWf_tabDrop _ _
    | exact tabWf_filter _
    | intro _
    | exact Nat.zero_le _
    | with_reducible apply State.res_kept
    | with_reducible apply Kept.ite
    | dsimp only
    | (split <;> (try (rename_i e; replace e := congrArg Prod.fst e; dsimp only at e; subst e)))
    | (refine Kept.same (t := ?_) ?_ (by dsimp only; rfl) (by with_reducible rfl) (by with_reducible rfl) (by with_reducible rfl) (by with_reducible rfl) (by with_reducible rfl) (by with_reducible rfl) (by with_reducible rfl) (by with_reducible rfl) (by with_reducible rfl))

theorem State.accessFault_kept {r : State} {s : State} (h : ℕ) (write : Bool) (va : ℕ) (hK : Kept r s) : Kept r (State.accessFault s h write va) := by
  unfold State.accessFault
  repeat' first
    | with_reducible assumption
    | with_reducible exact Kept.refl _
    | exact id
    | exact tabWf_tabSet _ _
    | exact tabWf_tabDrop _ _
    | exact tabWf_filter _
    | intro _
    | exact Nat.zero_le _
    | with_reducible apply State.exception_kept

theorem State.regFault_kept {r : State} {s : State} (a : Agent) (write : Bool) (addr : ℕ) (hK : Kept r s) : Kept r (State.regFault s a write addr) := by
  unfold State.regFault
  repeat' first
    | with_reducible assumption
    | with_reducible exact Kept.refl _
    | exact id
    | exact tabWf_tabSet _ _
    | exact tabWf_tabDrop _ _
    | exact tabWf_filter _
    | intro _
    | exact Nat.zero_le _
    | with_reducible apply State.sbEnd_kept
    | with_reducible apply State.accessFault_kept
    | with_reducible apply Kept.ite
    | dsimp only
    | (split <;> (try (rename_i e; replace e := congrArg Prod.fst e; dsimp only at e; subst e)))

theorem State.regRefused_kept {r : State} {s : State} (a : Agent) (write : Bool) (addr : ℕ) (st : Status) (hK : Kept r s) : Kept r (State.regRefused s a write addr st) := by
  unfold State.regRefused
  repeat' first
    | with_reducible assumption
    | with_reducible exact Kept.refl _
    | exact id
    | exact tabWf_tabSet _ _
    | exact tabWf_tabDrop _ _
    | exact tabWf_filter _
    | intro _
    | exact Nat.zero_le _
    | with_reducible apply State.sherdRefused_kept
    | with_reducible apply State.sbEnd_kept
    | with_reducible apply State.regFault_kept
    | with_reducible apply Kept.ite

theorem State.regAccess_kept {r : State} {s : State} (a : Agent) (write : Bool) (addr : ℕ) (bytes : ℕ) (f : State → State) (hK : Kept r s) (hf : ∀ a0, Kept a0 (f a0)) : Kept r (State.regAccess s a write addr bytes f) := by
  unfold State.regAccess
  repeat' first
    | with_reducible assumption
    | with_reducible exact Kept.refl _
    | exact id
    | exact tabWf_tabSet _ _
    | exact tabWf_tabDrop _ _
    | exact tabWf_filter _
    | intro _
    | exact Nat.zero_le _
    | refine Kept.trans ?_ (hf ..)
    | with_reducible apply State.sbEnd_kept
    | with_reducible apply State.regFault_kept
    | with_reducible apply State.regRefused_kept
    | with_reducible apply Kept.ite
    | dsimp only
    | (split <;> (try (rename_i e; replace e := congrArg Prod.fst e; dsimp only at e; subst e)))

theorem State.readEffect_kept {r : State} {s : State} (reg : ℕ) (half : Half) (f : State → State × ℕ) (hK : Kept r s) (hf : ∀ a0, Kept a0 (f a0).1) : Kept r (State.readEffect s reg half f).1 := by
  unfold State.readEffect
  repeat' first
    | with_reducible assumption
    | with_reducible exact Kept.refl _
    | exact id
    | exact tabWf_tabSet _ _
    | exact tabWf_tabDrop _ _
    | exact tabWf_filter _
    | intro _
    | exact Nat.zero_le _
    | refine Kept.trans ?_ (hf ..)
    | with_reducible apply Kept.ite
    | dsimp only
    | (split <;> (try (rename_i e; replace e := congrArg Prod.fst e; dsimp only at e; subst e)))
    | (refine Kept.same (t := ?_) ?_ (by dsimp only; rfl) (by with_reducible rfl) (by with_reducible rfl) (by with_reducible rfl) (by with_reducible rfl) (by with_reducible rfl) (by with_reducible rfl) (by with_reducible rfl) (by with_reducible rfl) (by with_reducible rfl))

theorem State.unstaged_kept {r : State} {s : State} (reg : ℕ) (hK : Kept r s) : Kept r (State.unstaged s reg) := by
  unfold State.unstaged
  repeat' first
    | with_reducible assumption
    | with_reducible exact Kept.refl _
    | exact id
    | exact tabWf_tabSet _ _
    | exact tabWf_tabDrop _ _
    | exact tabWf_filter _
    | intro _
    | exact Nat.zero_le _
    | with_reducible apply Kept.ite
    | dsimp only
    | (split <;> (try (rename_i e; replace e := congrArg Prod.fst e; dsimp only at e; subst e)))
    | (refine Kept.same (t := ?_) ?_ (by dsimp only; rfl) (by with_reducible rfl) (by with_reducible rfl) (by with_reducible rfl) (by with_reducible rfl) (by with_reducible rfl) (by with_reducible rfl) (by with_reducible rfl) (by with_reducible rfl) (by with_reducible rfl))

theorem State.readCmd_kept {r : State} {s : State} (a : Agent) (reg : ℕ) (half : Half) (f : State → State × ℕ) (hK : Kept r s) (hf : ∀ a0, Kept a0 (f a0).1) : Kept r (State.readCmd s a reg half f) := by
  unfold State.readCmd
  repeat' first
    | with_reducible assumption
    | with_reducible exact Kept.refl _
    | exact id
    | exact tabWf_tabSet _ _
    | exact tabWf_tabDrop _ _
    | exact tabWf_filter _
    | intro _
    | exact Nat.zero_le _
    | refine Kept.trans ?_ (hf ..)
    | with_reducible apply State.regAccess_kept
    | with_reducible apply State.readEffect_kept
    | with_reducible apply Kept.ite

end Sys2Proof.Machine
end

