-- ==== Sys2Proof/Laws/KeptMemory.lean ====
section
/-! SUPPORT. What no operation of the cache commands, message-signalled interrupts, the physical memory path and address translation does: each keeps the queue of commands, sets no burnt
step of the lifecycle back and keeps the storage invariant (`Kept`). -/

set_option linter.unusedTactic false
set_option linter.unreachableTactic false
set_option linter.unusedVariables false

namespace Sys2Proof.Machine
open Sys2Proof

/-! ### Machine/CacheCmds -/

theorem State.nack_kept {r : State} {s : State} (r0 : ℕ) (k : CohKind) (line : ℕ) (mask : ℕ) (data : ℕ) (hK : Kept r s) : Kept r (State.nack s r0 k line mask data) := by
  unfold State.nack
  repeat' first
    | with_reducible assumption
    | with_reducible exact Kept.refl _
    | exact id
    | exact tabWf_tabSet _ _
    | exact tabWf_tabDrop _ _
    | exact tabWf_filter _
    | intro _
    | exact Nat.zero_le _
    | with_reducible apply State.raise_kept
    | with_reducible apply State.inc_kept
    | with_reducible apply State.memCount_kept
    | with_reducible apply State.coreCount_kept
    | with_reducible apply Kept.ite
    | dsimp only
    | (split <;> (try (rename_i e; replace e := congrArg Prod.fst e; dsimp only at e; subst e)))
    | (refine Kept.same (t := ?_) ?_ (by dsimp only; rfl) (by with_reducible rfl) (by with_reducible rfl) (by with_reducible rfl) (by with_reducible rfl) (by with_reducible rfl) (by with_reducible rfl) (by with_reducible rfl) (by with_reducible rfl) (by with_reducible rfl))

theorem State.cohAccept_kept {r : State} {s : State} (r0 : ℕ) (line : ℕ) (hK : Kept r s) : Kept r (State.cohAccept s r0 line) := by
  unfold State.cohAccept
  repeat' first
    | with_reducible assumption
    | with_reducible exact Kept.refl _
    | exact id
    | exact tabWf_tabSet _ _
    | exact tabWf_tabDrop _ _
    | exact tabWf_filter _
    | intro _
    | exact Nat.zero_le _
    | with_reducible apply Kept.ite
    | dsimp only
    | (split <;> (try (rename_i e; replace e := congrArg Prod.fst e; dsimp only at e; subst e)))
    | (refine Kept.same (t := ?_) ?_ (by dsimp only; rfl) (by with_reducible rfl) (by with_reducible rfl) (by with_reducible rfl) (by with_reducible rfl) (by with_reducible rfl) (by with_reducible rfl) (by with_reducible rfl) (by with_reducible rfl) (by with_reducible rfl))

theorem State.placeCommit_kept {r : State} {s : State} (r0 : ℕ) (line : ℕ) (hK : Kept r s) : Kept r (State.placeCommit s r0 line) := by
  unfold State.placeCommit
  repeat' first
    | with_reducible assumption
    | with_reducible exact Kept.refl _
    | exact id
    | exact tabWf_tabSet _ _
    | exact tabWf_tabDrop _ _
    | exact tabWf_filter _
    | intro _
    | exact Nat.zero_le _
    | with_reducible apply State.each_kept
    | with_reducible apply State.epochRelease_kept
    | with_reducible apply Kept.ite

theorem State.cohRequest_kept {r s : State} (p : Nat) (k : CohKind) (line mask data : Nat) (hK : Kept r s) :
    Kept r (s.cohRequest p k line mask data) := by
  have ht : ∀ (c : Prop) [Decidable c] (t : State), (if c then s.dirAlloc (reqMem p .secure) line else some s) = some t → Kept r t := by
    intro c _ t hm
    have h1 := State.dirAlloc_kept (reqMem p .secure) line hK
    split at hm
    · rwa [hm, Option.getD_some] at h1
    · cases hm; exact hK
  unfold State.cohRequest
  dsimp only
  repeat' first
    | exact hK
    | exact State.sherd_kept _ _ _ _ _ _ _ _ hK
    | exact State.nack_kept _ _ _ _ _ hK
    | (rename_i hm
       exact State.cohOpen_kept _ _ _ _ _ (State.cohAccept_kept _ _ (State.placeCommit_kept _ _ (ht _ _ hm))))
    | split

theorem State.readShared_kept {r : State} {s : State} (r0 : Requester) (line : ℕ) (hK : Kept r s) : Kept r (State.readShared s r0 line) := by
  unfold State.readShared
  repeat' first
    | with_reducible assumption
    | with_reducible exact Kept.refl _
    | exact id
    | exact tabWf_tabSet _ _
    | exact tabWf_tabDrop _ _
    | exact tabWf_filter _
    | intro _
    | exact Nat.zero_le _
    | with_reducible apply State.coreCount_kept
    | with_reducible apply State.cohRequest_kept
    | with_reducible apply Kept.ite

theorem State.readUnique_kept {r : State} {s : State} (r0 : Requester) (line : ℕ) (mask : ℕ) (data : ℕ) (hK : Kept r s) : Kept r (State.readUnique s r0 line mask data) := by
  unfold State.readUnique
  repeat' first
    | with_reducible assumption
    | with_reducible exact Kept.refl _
    | exact id
    | exact tabWf_tabSet _ _
    | exact tabWf_tabDrop _ _
    | exact tabWf_filter _
    | intro _
    | exact Nat.zero_le _
    | with_reducible apply State.coreCount_kept
    | with_reducible apply State.cohRequest_kept
    | with_reducible apply Kept.ite
    | dsimp only
    | (split <;> (try (rename_i e; replace e := congrArg Prod.fst e; dsimp only at e; subst e)))

theorem State.upgrade_kept {r : State} {s : State} (c : ℕ) (line : ℕ) (hK : Kept r s) : Kept r (State.upgrade s c line) := by
  unfold State.upgrade
  repeat' first
    | with_reducible assumption
    | with_reducible exact Kept.refl _
    | exact id
    | exact tabWf_tabSet _ _
    | exact tabWf_tabDrop _ _
    | exact tabWf_filter _
    | intro _
    | exact Nat.zero_le _
    | with_reducible apply State.cohRequest_kept
    | with_reducible apply Kept.ite
    | dsimp only
    | (split <;> (try (rename_i e; replace e := congrArg Prod.fst e; dsimp only at e; subst e)))

theorem State.l2Evict_kept {r : State} {s : State} (c : ℕ) (line : ℕ) (dirty : Bool) (hK : Kept r s) : Kept r (State.l2Evict s c line dirty) := by
  unfold State.l2Evict
  repeat' first
    | with_reducible assumption
    | with_reducible exact Kept.refl _
    | exact id
    | exact tabWf_tabSet _ _
    | exact tabWf_tabDrop _ _
    | exact tabWf_filter _
    | intro _
    | exact Nat.zero_le _
    | with_reducible apply State.inc_kept
    | with_reducible apply State.memCount_kept
    | with_reducible apply State.coreCount_kept
    | with_reducible apply State.giveUp_kept
    | with_reducible apply Kept.ite
    | dsimp only
    | (split <;> (try (rename_i e; replace e := congrArg Prod.fst e; dsimp only at e; subst e)))

theorem State.snoopReach_kept {r : State} {s : State} (c : ℕ) (line : ℕ) (k : SnpKind) (hK : Kept r s) : Kept r (State.snoopReach s c line k) := by
  unfold State.snoopReach
  repeat' first
    | with_reducible assumption
    | with_reducible exact Kept.refl _
    | exact id
    | exact tabWf_tabSet _ _
    | exact tabWf_tabDrop _ _
    | exact tabWf_filter _
    | intro _
    | exact Nat.zero_le _
    | with_reducible apply State.when_kept
    | with_reducible apply State.coreCount_kept
    | with_reducible apply State.setDir_kept
    | with_reducible apply State.epochRelease_kept
    | with_reducible apply State.snoopAct_kept
    | with_reducible apply Kept.ite
    | dsimp only
    | (split <;> (try (rename_i e; replace e := congrArg Prod.fst e; dsimp only at e; subst e)))

theorem State.nackRetry_kept {r : State} {s : State} (r0 : ℕ) (line : ℕ) (hK : Kept r s) : Kept r (State.nackRetry s r0 line) := by
  unfold State.nackRetry
  repeat' first
    | with_reducible assumption
    | with_reducible exact Kept.refl _
    | exact id
    | exact tabWf_tabSet _ _
    | exact tabWf_tabDrop _ _
    | exact tabWf_filter _
    | intro _
    | exact Nat.zero_le _
    | with_reducible apply State.coreCount_kept
    | with_reducible apply State.cohRequest_kept
    | with_reducible apply Kept.ite
    | dsimp only
    | (split <;> (try (rename_i e; replace e := congrArg Prod.fst e; dsimp only at e; subst e)))

theorem State.resvExpire_kept {r : State} {s : State} (slice : ℕ) (hK : Kept r s) : Kept r (State.resvExpire s slice) := by
  unfold State.resvExpire
  repeat' first
    | with_reducible assumption
    | with_reducible exact Kept.refl _
    | exact id
    | exact tabWf_tabSet _ _
    | exact tabWf_tabDrop _ _
    | exact tabWf_filter _
    | intro _
    | exact Nat.zero_le _
    | with_reducible apply Kept.ite
    | dsimp only
    | (split <;> (try (rename_i e; replace e := congrArg Prod.fst e; dsimp only at e; subst e)))
    | (refine Kept.same (t := ?_) ?_ (by dsimp only; rfl) (by with_reducible rfl) (by with_reducible rfl) (by with_reducible rfl) (by with_reducible rfl) (by with_reducible rfl) (by with_reducible rfl) (by with_reducible rfl) (by with_reducible rfl) (by with_reducible rfl))

theorem State.holdExpire_kept {r : State} {s : State} (c : ℕ) (line : ℕ) (hK : Kept r s) : Kept r (State.holdExpire s c line) := by
  unfold State.holdExpire
  repeat' first
    | with_reducible assumption
    | with_reducible exact Kept.refl _
    | exact id
    | exact tabWf_tabSet _ _
    | exact tabWf_tabDrop _ _
    | exact tabWf_filter _
    | intro _
    | exact Nat.zero_le _
    | with_reducible apply State.snoopAct_kept
    | with_reducible apply State.endHold_kept
    | with_reducible apply Kept.ite
    | dsimp only
    | (split <;> (try (rename_i e; replace e := congrArg Prod.fst e; dsimp only at e; subst e)))

theorem State.dirLookup_kept {r : State} {s : State} (line : ℕ) (hK : Kept r s) : Kept r (State.dirLookup s line) := by
  unfold State.dirLookup
  repeat' first
    | with_reducible assumption
    | with_reducible exact Kept.refl _
    | exact id
    | exact tabWf_tabSet _ _
    | exact tabWf_tabDrop _ _
    | exact tabWf_filter _
    | intro _
    | exact Nat.zero_le _
    | with_reducible apply State.wr_kept
    | with_reducible apply State.put_kept

theorem State.slcRetire_kept {r : State} {s : State} (ways : ℕ) (hK : Kept r s) : Kept r (State.slcRetire s ways) := by
  unfold State.slcRetire
  repeat' first
    | with_reducible assumption
    | with_reducible exact Kept.refl _
    | exact id
    | exact tabWf_tabSet _ _
    | exact tabWf_tabDrop _ _
    | exact tabWf_filter _
    | intro _
    | exact Nat.zero_le _
    | with_reducible apply State.put_kept
    | with_reducible apply State.res_kept
    | with_reducible apply Kept.ite
    | dsimp only
    | (split <;> (try (rename_i e; replace e := congrArg Prod.fst e; dsimp only at e; subst e)))
    | (refine Kept.same (t := ?_) ?_ (by dsimp only; rfl) (by with_reducible rfl) (by with_reducible rfl) (by with_reducible rfl) (by with_reducible rfl) (by with_reducible rfl) (by with_reducible rfl) (by with_reducible rfl) (by with_reducible rfl) (by with_reducible rfl))

theorem State.l2Retire_kept {r : State} {s : State} (c : ℕ) (ways : ℕ) (hK : Kept r s) : Kept r (State.l2Retire s c ways) := by
  unfold State.l2Retire
  repeat' first
    | with_reducible assumption
    | with_reducible exact Kept.refl _
    | exact id
    | exact tabWf_tabSet _ _
    | exact tabWf_tabDrop _ _
    | exact tabWf_filter _
    | intro _
    | exact Nat.zero_le _
    | with_reducible apply State.put_kept
    | with_reducible apply State.res_kept
    | with_reducible apply State.each_kept
    | with_reducible apply Kept.ite
    | dsimp only
    | (split <;> (try (rename_i e; replace e := congrArg Prod.fst e; dsimp only at e; subst e)))
    | (refine Kept.same (t := ?_) ?_ (by dsimp only; rfl) (by with_reducible rfl) (by with_reducible rfl) (by with_reducible rfl) (by with_reducible rfl) (by with_reducible rfl) (by with_reducible rfl) (by with_reducible rfl) (by with_reducible rfl) (by with_reducible rfl))

theorem State.dirRetire_kept {r : State} {s : State} (ways : ℕ) (hK : Kept r s) : Kept r (State.dirRetire s ways) := by
  unfold State.dirRetire
  repeat' first
    | with_reducible assumption
    | with_reducible exact Kept.refl _
    | exact id
    | exact tabWf_tabSet _ _
    | exact tabWf_tabDrop _ _
    | exact tabWf_filter _
    | intro _
    | exact Nat.zero_le _
    | with_reducible apply State.put_kept
    | with_reducible apply State.res_kept
    | with_reducible apply Kept.ite
    | dsimp only
    | (split <;> (try (rename_i e; replace e := congrArg Prod.fst e; dsimp only at e; subst e)))
    | (refine Kept.same (t := ?_) ?_ (by dsimp only; rfl) (by with_reducible rfl) (by with_reducible rfl) (by with_reducible rfl) (by with_reducible rfl) (by with_reducible rfl) (by with_reducible rfl) (by with_reducible rfl) (by with_reducible rfl) (by with_reducible rfl))

theorem State.retireDone_kept {r : State} {s : State} (hK : Kept r s) : Kept r (State.retireDone s) := by
  unfold State.retireDone
  repeat' first
    | with_reducible assumption
    | with_reducible exact Kept.refl _
    | exact id
    | exact tabWf_tabSet _ _
    | exact tabWf_tabDrop _ _
    | exact tabWf_filter _
    | intro _
    | exact Nat.zero_le _
    | with_reducible apply State.put_kept
    | with_reducible apply State.raise_kept
    | with_reducible apply State.each_kept
    | with_reducible apply State.slcEvict_kept
    | with_reducible apply State.giveUp_kept
    | with_reducible apply State.backInvalidate_kept
    | with_reducible apply State.cohFinish_kept
    | with_reducible apply Kept.ite
    | dsimp only
    | (split <;> (try (rename_i e; replace e := congrArg Prod.fst e; dsimp only at e; subst e)))
    | (refine Kept.same (t := ?_) ?_ (by dsimp only; rfl) (by with_reducible rfl) (by with_reducible rfl) (by with_reducible rfl) (by with_reducible rfl) (by with_reducible rfl) (by with_reducible rfl) (by with_reducible rfl) (by with_reducible rfl) (by with_reducible rfl))

/-! ### Machine/Msi -/

theorem State.setImsic_kept {r : State} {s : State} (h : ℕ) (f : ℕ) (v : ImsicFile) (hK : Kept r s) : Kept r (State.setImsic s h f v) := by
  unfold State.setImsic
  repeat' first
    | with_reducible assumption
    | with_reducible exact Kept.refl _
    | exact id
    | exact tabWf_tabSet _ _
    | exact tabWf_tabDrop _ _
    | exact tabWf_filter _
    | intro _
    | exact Nat.zero_le _
    | with_reducible apply Kept.ite
    | dsimp only
    | (split <;> (try (rename_i e; replace e := congrArg Prod.fst e; dsimp only at e; subst e)))
    | (refine Kept.same (t := ?_) ?_ (by dsimp only; rfl) (by with_reducible rfl) (by with_reducible rfl) (by with_reducible rfl) (by with_reducible rfl) (by with_reducible rfl) (by with_reducible rfl) (by with_reducible rfl) (by with_reducible rfl) (by with_reducible rfl))

theorem State.irqWake_kept {r : State} {s : State} (h : ℕ) (hK : Kept r s) : Kept r (State.irqWake s h) := by
  unfold State.irqWake
  repeat' first
    | with_reducible assumption
    | with_reducible exact Kept.refl _
    | exact id
    | exact tabWf_tabSet _ _
    | exact tabWf_tabDrop _ _
    | exact tabWf_filter _
    | intro _
    | exact Nat.zero_le _
    | with_reducible apply State.put_kept
    | with_reducible apply State.when_kept
    | with_reducible apply State.updHart_kept
    | with_reducible apply Kept.ite

theorem State.msiRefused_kept {r : State} {s : State} (w : World) (block : ℕ) (requester : ℕ) (addr : ℕ) (hK : Kept r s) : Kept r (State.msiRefused s w block requester addr) := by
  unfold State.msiRefused
  repeat' first
    | with_reducible assumption
    | with_reducible exact Kept.refl _
    | exact id
    | exact tabWf_tabSet _ _
    | exact tabWf_tabDrop _ _
    | exact tabWf_filter _
    | intro _
    | exact Nat.zero_le _
    | with_reducible apply State.sherd_kept

theorem State.noteArrival_kept {r : State} {s : State} (h : ℕ) (f : ℕ) (eiid : ℕ) (hK : Kept r s) : Kept r (State.noteArrival s h f eiid) := by
  unfold State.noteArrival
  repeat' first
    | with_reducible assumption
    | with_reducible exact Kept.refl _
    | exact id
    | exact tabWf_tabSet _ _
    | exact tabWf_tabDrop _ _
    | exact tabWf_filter _
    | intro _
    | exact Nat.zero_le _
    | with_reducible apply State.setEpoch_kept
    | with_reducible apply Kept.ite

theorem State.msiTo_kept {r : State} {s : State} (w : World) (src : ℕ) (h : ℕ) (f : ℕ) (eiid : ℕ) (hK : Kept r s) : Kept r (State.msiTo s w src h f eiid).1 := by
  unfold State.msiTo
  repeat' first
    | with_reducible assumption
    | with_reducible exact Kept.refl _
    | exact id
    | exact tabWf_tabSet _ _
    | exact tabWf_tabDrop _ _
    | exact tabWf_filter _
    | intro _
    | exact Nat.zero_le _
    | with_reducible apply State.raise_kept
    | with_reducible apply State.sherd_kept
    | with_reducible apply State.setImsic_kept
    | with_reducible apply State.irqWake_kept
    | with_reducible apply State.msiRefused_kept
    | with_reducible apply State.noteArrival_kept
    | with_reducible apply Kept.ite
    | dsimp only
    | (split <;> (try (rename_i e; replace e := congrArg Prod.fst e; dsimp only at e; subst e)))

theorem State.msiWrite_kept {r : State} {s : State} (w : World) (src : ℕ) (a : ℕ) (data : ℕ) (hK : Kept r s) : Kept r (State.msiWrite s w src a data) := by
  unfold State.msiWrite
  repeat' first
    | with_reducible assumption
    | with_reducible exact Kept.refl _
    | exact id
    | exact tabWf_tabSet _ _
    | exact tabWf_tabDrop _ _
    | exact tabWf_filter _
    | intro _
    | exact Nat.zero_le _
    | with_reducible apply State.msiRefused_kept
    | with_reducible apply State.msiTo_kept
    | with_reducible apply Kept.ite
    | dsimp only
    | (split <;> (try (rename_i e; replace e := congrArg Prod.fst e; dsimp only at e; subst e)))

theorem State.vecSend_kept {r : State} {s : State} (w : World) (src : ℕ) (vec : ℕ) (hK : Kept r s) : Kept r (State.vecSend s w src vec).1 := by
  unfold State.vecSend
  repeat' first
    | with_reducible assumption
    | with_reducible exact Kept.refl _
    | exact id
    | exact tabWf_tabSet _ _
    | exact tabWf_tabDrop _ _
    | exact tabWf_filter _
    | intro _
    | exact Nat.zero_le _
    | with_reducible apply State.msiRefused_kept
    | with_reducible apply State.msiTo_kept
    | with_reducible apply Kept.ite
    | dsimp only
    | (split <;> (try (rename_i e; replace e := congrArg Prod.fst e; dsimp only at e; subst e)))

theorem State.withVec_kept {r : State} {s : State} (summary : State → Bool) (w : World) (src : ℕ) (vec : ℕ) (f : State → State) (hK : Kept r s) (hf : ∀ a0, Kept a0 (f a0)) : Kept r (State.withVec s summary w src vec f) := by
  unfold State.withVec
  repeat' first
    | with_reducible assumption
    | with_reducible exact Kept.refl _
    | exact id
    | exact tabWf_tabSet _ _
    | exact tabWf_tabDrop _ _
    | exact tabWf_filter _
    | intro _
    | exact Nat.zero_le _
    | refine Kept.trans ?_ (hf ..)
    | with_reducible apply State.vecSend_kept
    | with_reducible apply Kept.ite

theorem State.setAplic_kept {r : State} {s : State} (d : ℕ) (i : ℕ) (v : AplicSrc) (hK : Kept r s) : Kept r (State.setAplic s d i v) := by
  unfold State.setAplic
  repeat' first
    | with_reducible assumption
    | with_reducible exact Kept.refl _
    | exact id
    | exact tabWf_tabSet _ _
    | exact tabWf_tabDrop _ _
    | exact tabWf_filter _
    | intro _
    | exact Nat.zero_le _
    | with_reducible apply Kept.ite
    | dsimp only
    | (split <;> (try (rename_i e; replace e := congrArg Prod.fst e; dsimp only at e; subst e)))
    | (refine Kept.same (t := ?_) ?_ (by dsimp only; rfl) (by with_reducible rfl) (by with_reducible rfl) (by with_reducible rfl) (by with_reducible rfl) (by with_reducible rfl) (by with_reducible rfl) (by with_reducible rfl) (by with_reducible rfl) (by with_reducible rfl))

theorem State.aplicForward_kept {r : State} {s : State} (d : ℕ) (i : ℕ) (hK : Kept r s) : Kept r (State.aplicForward s d i) := by
  unfold State.aplicForward
  repeat' first
    | with_reducible assumption
    | with_reducible exact Kept.refl _
    | exact id
    | exact tabWf_tabSet _ _
    | exact tabWf_tabDrop _ _
    | exact tabWf_filter _
    | intro _
    | exact Nat.zero_le _
    | with_reducible apply State.msiTo_kept
    | with_reducible apply State.setAplic_kept
    | with_reducible apply Kept.ite

theorem State.sourceChange_kept {r : State} {s : State} (i : ℕ) (hK : Kept r s) : Kept r (State.sourceChange s i) := by
  unfold State.sourceChange
  repeat' first
    | with_reducible assumption
    | with_reducible exact Kept.refl _
    | exact id
    | exact tabWf_tabSet _ _
    | exact tabWf_tabDrop _ _
    | exact tabWf_filter _
    | intro _
    | exact Nat.zero_le _
    | with_reducible apply State.setAplic_kept
    | with_reducible apply State.aplicForward_kept
    | with_reducible apply Kept.ite
    | dsimp only
    | (split <;> (try (rename_i e; replace e := congrArg Prod.fst e; dsimp only at e; subst e)))
    | (refine Kept.same (t := ?_) ?_ (by dsimp only; rfl) (by with_reducible rfl) (by with_reducible rfl) (by with_reducible rfl) (by with_reducible rfl) (by with_reducible rfl) (by with_reducible rfl) (by with_reducible rfl) (by with_reducible rfl) (by with_reducible rfl))

theorem State.aplicCfg_kept {r : State} {s : State} (d : ℕ) (i : ℕ) (v : ℕ) (hK : Kept r s) : Kept r (State.aplicCfg s d i v) := by
  unfold State.aplicCfg
  repeat' first
    | with_reducible assumption
    | with_reducible exact Kept.refl _
    | exact id
    | exact tabWf_tabSet _ _
    | exact tabWf_tabDrop _ _
    | exact tabWf_filter _
    | intro _
    | exact Nat.zero_le _
    | with_reducible apply State.setAplic_kept
    | with_reducible apply State.aplicForward_kept
    | with_reducible apply Kept.ite

theorem State.aplicPend_kept {r : State} {s : State} (d : ℕ) (i : ℕ) (set : Bool) (hK : Kept r s) : Kept r (State.aplicPend s d i set) := by
  unfold State.aplicPend
  repeat' first
    | with_reducible assumption
    | with_reducible exact Kept.refl _
    | exact id
    | exact tabWf_tabSet _ _
    | exact tabWf_tabDrop _ _
    | exact tabWf_filter _
    | intro _
    | exact Nat.zero_le _
    | with_reducible apply State.setAplic_kept
    | with_reducible apply State.aplicForward_kept
    | with_reducible apply Kept.ite

theorem State.aplicEn_kept {r : State} {s : State} (d : ℕ) (i : ℕ) (set : Bool) (hK : Kept r s) : Kept r (State.aplicEn s d i set) := by
  unfold State.aplicEn
  repeat' first
    | with_reducible assumption
    | with_reducible exact Kept.refl _
    | exact id
    | exact tabWf_tabSet _ _
    | exact tabWf_tabDrop _ _
    | exact tabWf_filter _
    | intro _
    | exact Nat.zero_le _
    | with_reducible apply State.setAplic_kept
    | with_reducible apply State.aplicForward_kept
    | with_reducible apply Kept.ite

theorem State.aplicBits_kept {r : State} {s : State} (word : ℕ) (v : ℕ) (f : ℕ → State → State) (hK : Kept r s) (hf : ∀ a0 a1, Kept a1 (f a0 a1)) : Kept r (State.aplicBits s word v f) := by
  unfold State.aplicBits
  repeat' first
    | with_reducible assumption
    | with_reducible exact Kept.refl _
    | exact id
    | exact tabWf_tabSet _ _
    | exact tabWf_tabDrop _ _
    | exact tabWf_filter _
    | intro _
    | exact Nat.zero_le _
    | refine Kept.trans ?_ (hf ..)
    | with_reducible apply State.each_kept

theorem State.aplicWrite_kept {r : State} {s : State} (d : ℕ) (o : ℕ) (v : ℕ) (hK : Kept r s) : Kept r (State.aplicWrite s d o v) := by
  unfold State.aplicWrite
  repeat' first
    | with_reducible assumption
    | with_reducible exact Kept.refl _
    | exact id
    | exact tabWf_tabSet _ _
    | exact tabWf_tabDrop _ _
    | exact tabWf_filter _
    | intro _
    | exact Nat.zero_le _
    | with_reducible apply State.each_kept
    | with_reducible apply State.msiTo_kept
    | with_reducible apply State.setAplic_kept
    | with_reducible apply State.aplicForward_kept
    | with_reducible apply State.aplicCfg_kept
    | with_reducible apply State.aplicPend_kept
    | with_reducible apply State.aplicEn_kept
    | with_reducible apply State.aplicBits_kept
    | with_reducible apply Kept.ite
    | dsimp only
    | (split <;> (try (rename_i e; replace e := congrArg Prod.fst e; dsimp only at e; subst e)))
    | (refine Kept.same (t := ?_) ?_ (by dsimp only; rfl) (by with_reducible rfl) (by with_reducible rfl) (by with_reducible rfl) (by with_reducible rfl) (by with_reducible rfl) (by with_reducible rfl) (by with_reducible rfl) (by with_reducible rfl) (by with_reducible rfl))

theorem State.sourceMove_kept {r : State} {s : State} (i : ℕ) (hK : Kept r s) : Kept r (State.sourceMove s i) := by
  unfold State.sourceMove
  repeat' first
    | with_reducible assumption
    | with_reducible exact Kept.refl _
    | exact id
    | exact tabWf_tabSet _ _
    | exact tabWf_tabDrop _ _
    | exact tabWf_filter _
    | intro _
    | exact Nat.zero_le _
    | with_reducible apply State.setAplic_kept

theorem State.localMsg_kept {r : State} {s : State} (a : Agent) (n : ℕ) (eiid : ℕ) (hK : Kept r s) : Kept r (State.localMsg s a n eiid) := by
  unfold State.localMsg
  repeat' first
    | with_reducible assumption
    | with_reducible exact Kept.refl _
    | exact id
    | exact tabWf_tabSet _ _
    | exact tabWf_tabDrop _ _
    | exact tabWf_filter _
    | intro _
    | exact Nat.zero_le _
    | with_reducible apply State.regAccess_kept
    | with_reducible apply State.msiTo_kept

theorem State.licClaim_kept {r : State} {s : State} (n : ℕ) (hK : Kept r s) : Kept r (State.licClaim s n).1 := by
  unfold State.licClaim
  repeat' first
    | with_reducible assumption
    | with_reducible exact Kept.refl _
    | exact id
    | exact tabWf_tabSet _ _
    | exact tabWf_tabDrop _ _
    | exact tabWf_filter _
    | intro _
    | exact Nat.zero_le _
    | with_reducible apply State.clear_kept
    | with_reducible apply Kept.ite
    | dsimp only
    | (split <;> (try (rename_i e; replace e := congrArg Prod.fst e; dsimp only at e; subst e)))

theorem State.worldWrite_kept {r : State} {s : State} (c : ℕ) (next : World) (hK : Kept r s) : Kept r (State.worldWrite s c next) := by
  unfold State.worldWrite
  repeat' first
    | with_reducible assumption
    | with_reducible exact Kept.refl _
    | exact id
    | exact tabWf_tabSet _ _
    | exact tabWf_tabDrop _ _
    | exact tabWf_filter _
    | intro _
    | exact Nat.zero_le _
    | with_reducible apply State.put_kept
    | with_reducible apply State.res_kept
    | with_reducible apply State.each_kept
    | with_reducible apply State.when_kept
    | with_reducible apply State.setImsic_kept
    | with_reducible apply Kept.ite

/-! ### Machine/Phys -/

theorem State.physRefuse_kept {r : State} {s : State} (q : MemReq) (isHart : Bool) (v : PhysVerdict) (a : ℕ) (hK : Kept r s) : Kept r (State.physRefuse s q isHart v a) := by
  unfold State.physRefuse
  repeat' first
    | with_reducible assumption
    | with_reducible exact Kept.refl _
    | exact id
    | exact tabWf_tabSet _ _
    | exact tabWf_tabDrop _ _
    | exact tabWf_filter _
    | intro _
    | exact Nat.zero_le _
    | with_reducible apply State.sherd_kept
    | with_reducible apply Kept.ite
    | dsimp only
    | (split <;> (try (rename_i e; replace e := congrArg Prod.fst e; dsimp only at e; subst e)))

theorem State.coreRead_kept {r : State} {s : State} (c : ℕ) (a : ℕ) (n : ℕ) (hK : Kept r s) : Kept r (State.coreRead s c a n).1 := by
  unfold State.coreRead
  repeat' first
    | with_reducible assumption
    | with_reducible exact Kept.refl _
    | exact id
    | exact tabWf_tabSet _ _
    | exact tabWf_tabDrop _ _
    | exact tabWf_filter _
    | intro _
    | exact Nat.zero_le _
    | with_reducible apply State.when_kept
    | with_reducible apply State.coreCount_kept
    | with_reducible apply State.l2Acquire_kept
    | with_reducible apply Kept.ite
    | dsimp only
    | (split <;> (try (rename_i e; replace e := congrArg Prod.fst e; dsimp only at e; subst e)))

theorem State.epochTake_kept {r : State} {s : State} (c : ℕ) (line : ℕ) (hK : Kept r s) : Kept r (State.epochTake s c line) := by
  unfold State.epochTake
  repeat' first
    | with_reducible assumption
    | with_reducible exact Kept.refl _
    | exact id
    | exact tabWf_tabSet _ _
    | exact tabWf_tabDrop _ _
    | exact tabWf_filter _
    | intro _
    | exact Nat.zero_le _
    | with_reducible apply State.put_kept
    | with_reducible apply State.coreCount_kept
    | with_reducible apply State.setEpoch_kept
    | with_reducible apply State.slcPut_kept
    | with_reducible apply Kept.ite
    | dsimp only
    | (split <;> (try (rename_i e; replace e := congrArg Prod.fst e; dsimp only at e; subst e)))

theorem State.coreWrite_kept {r : State} {s : State} (c : ℕ) (line : ℕ) (mask : ℕ) (data : ℕ) (hK : Kept r s) : Kept r (State.coreWrite s c line mask data) := by
  unfold State.coreWrite
  repeat' first
    | with_reducible assumption
    | with_reducible exact Kept.refl _
    | exact id
    | exact tabWf_tabSet _ _
    | exact tabWf_tabDrop _ _
    | exact tabWf_filter _
    | intro _
    | exact Nat.zero_le _
    | with_reducible apply State.when_kept
    | with_reducible apply State.coreCount_kept
    | with_reducible apply State.setL2_kept
    | with_reducible apply State.l2Acquire_kept
    | with_reducible apply State.epochTake_kept
    | with_reducible apply Kept.ite
    | dsimp only
    | (split <;> (try (rename_i e; replace e := congrArg Prod.fst e; dsimp only at e; subst e)))

theorem State.memRead_kept {r : State} {s : State} (q : MemReq) (a : ℕ) (n : ℕ) (hK : Kept r s) : Kept r (State.memRead s q a n).1 := by
  unfold State.memRead
  repeat' first
    | with_reducible assumption
    | with_reducible exact Kept.refl _
    | exact id
    | exact tabWf_tabSet _ _
    | exact tabWf_tabDrop _ _
    | exact tabWf_filter _
    | intro _
    | exact Nat.zero_le _
    | with_reducible apply State.tookFree_kept
    | with_reducible apply State.devReadLine_kept
    | with_reducible apply Kept.ite
    | dsimp only
    | (split <;> (try (rename_i e; replace e := congrArg Prod.fst e; dsimp only at e; subst e)))

theorem State.memWrite_kept {r : State} {s : State} (q : MemReq) (a : ℕ) (n : ℕ) (v : ℕ) (hK : Kept r s) : Kept r (State.memWrite s q a n v) := by
  unfold State.memWrite
  repeat' first
    | with_reducible assumption
    | with_reducible exact Kept.refl _
    | exact id
    | exact tabWf_tabSet _ _
    | exact tabWf_tabDrop _ _
    | exact tabWf_filter _
    | intro _
    | exact Nat.zero_le _
    | with_reducible apply State.sramWrite_kept
    | with_reducible apply State.clearResv_kept
    | with_reducible apply State.devWriteLine_kept
    | with_reducible apply Kept.ite
    | dsimp only
    | (split <;> (try (rename_i e; replace e := congrArg Prod.fst e; dsimp only at e; subst e)))

theorem State.memReadAll_kept {r : State} {s : State} (q : MemReq) (x1 : ℕ) (x2 : ℕ) (x3 : ℕ) (hK : Kept r s) : Kept r (State.memReadAll s q x1 x2 x3).1 := by
  induction x1 generalizing s q x2 x3 with
  | zero =>
    unfold State.memReadAll
    repeat' first
      | with_reducible assumption
  | succ m ih =>
    unfold State.memReadAll
    repeat' first
      | with_reducible assumption
      | with_reducible exact Kept.refl _
      | with_reducible apply ih
      | exact id
      | exact tabWf_tabSet _ _
      | exact tabWf_tabDrop _ _
      | exact tabWf_filter _
      | intro _
      | exact Nat.zero_le _
      | with_reducible apply State.memRead_kept
      | with_reducible apply Kept.ite
      | dsimp only
      | (split <;> (try (rename_i e; replace e := congrArg Prod.fst e; dsimp only at e; subst e)))

theorem State.memWriteAll_kept {r : State} {s : State} (q : MemReq) (x1 : ℕ) (x2 : ℕ) (x3 : List Byte) (hK : Kept r s) : Kept r (State.memWriteAll s q x1 x2 x3) := by
  induction x1 generalizing s q x2 x3 with
  | zero =>
    unfold State.memWriteAll
    repeat' first
      | with_reducible assumption
  | succ m ih =>
    unfold State.memWriteAll
    repeat' first
      | with_reducible assumption
      | with_reducible exact Kept.refl _
      | with_reducible apply ih
      | exact id
      | exact tabWf_tabSet _ _
      | exact tabWf_tabDrop _ _
      | exact tabWf_filter _
      | intro _
      | exact Nat.zero_le _
      | with_reducible apply State.memWrite_kept
      | with_reducible apply Kept.ite
      | dsimp only
      | (split <;> (try (rename_i e; replace e := congrArg Prod.fst e; dsimp only at e; subst e)))

theorem State.consumed_kept {r : State} {s : State} (h : ℕ) (a : ℕ) (hK : Kept r s) : Kept r (State.consumed s h a) := by
  unfold State.consumed
  repeat' first
    | with_reducible assumption
    | with_reducible exact Kept.refl _
    | exact id
    | exact tabWf_tabSet _ _
    | exact tabWf_tabDrop _ _
    | exact tabWf_filter _
    | intro _
    | exact Nat.zero_le _
    | with_reducible apply State.sherd_kept

/-! ### Machine/Translate -/

theorem State.pteRead_kept {r : State} {s : State} (k : Walker) (a : ℕ) (hK : Kept r s) : Kept r (State.pteRead s k a).1 := by
  unfold State.pteRead
  repeat' first
    | with_reducible assumption
    | with_reducible exact Kept.refl _
    | exact id
    | exact tabWf_tabSet _ _
    | exact tabWf_tabDrop _ _
    | exact tabWf_filter _
    | intro _
    | exact Nat.zero_le _
    | with_reducible apply State.physRefuse_kept
    | with_reducible apply State.coreRead_kept
    | with_reducible apply State.memRead_kept
    | with_reducible apply State.consumed_kept
    | with_reducible apply Kept.ite
    | dsimp only
    | (split <;> (try (rename_i e; replace e := congrArg Prod.fst e; dsimp only at e; subst e)))

theorem State.pteWrite_kept {r : State} {s : State} (k : Walker) (a : ℕ) (v : ℕ) (hK : Kept r s) : Kept r (State.pteWrite s k a v) := by
  unfold State.pteWrite
  repeat' first
    | with_reducible assumption
    | with_reducible exact Kept.refl _
    | exact id
    | exact tabWf_tabSet _ _
    | exact tabWf_tabDrop _ _
    | exact tabWf_filter _
    | intro _
    | exact Nat.zero_le _
    | with_reducible apply State.coreWrite_kept
    | with_reducible apply State.memWrite_kept
    | with_reducible apply Kept.ite
    | dsimp only
    | (split <;> (try (rename_i e; replace e := congrArg Prod.fst e; dsimp only at e; subst e)))

theorem State.walk_kept {r : State} (t : Stage) (tr : State → AccKind → ℕ → State × XOut) (extra : ℕ) (x1 : ℕ) {x2 : State} (x3 : ℕ) (hK : Kept r x2) (htr : ∀ a0 a1 a2, Kept a0 (tr a0 a1 a2).1) : Kept r (State.walk t tr extra x1 x2 x3).1 := by
  induction x1 generalizing t tr extra x2 x3 with
  | zero =>
    unfold State.walk
    repeat' first
      | with_reducible assumption
  | succ m ih =>
    unfold State.walk
    repeat' first
      | with_reducible assumption
      | with_reducible exact Kept.refl _
      | with_reducible apply ih
      | exact id
      | exact tabWf_tabSet _ _
      | exact tabWf_tabDrop _ _
      | exact tabWf_filter _
      | intro _
      | exact Nat.zero_le _
      | refine Kept.trans ?_ (htr ..)
      | with_reducible apply State.pteRead_kept
      | with_reducible apply State.pteWrite_kept
      | with_reducible apply Kept.ite
      | dsimp only
      | (split <;> (try (rename_i e; replace e := congrArg Prod.fst e; dsimp only at e; subst e)))

theorem plainTr_kept {r : State} {s : State} (x1 : AccKind) (a : ℕ) (hK : Kept r s) : Kept r (plainTr s x1 a).1 := by
  unfold plainTr
  repeat' first
    | with_reducible assumption

theorem State.gStage_kept {r : State} {s : State} (k : Walker) (atp : ℕ) (adue : Bool) (kind : AccKind) (gpa : ℕ) (hK : Kept r s) : Kept r (State.gStage s k atp adue kind gpa).1 := by
  unfold State.gStage
  repeat' first
    | with_reducible assumption
    | with_reducible exact Kept.refl _
    | exact id
    | exact tabWf_tabSet _ _
    | exact tabWf_tabDrop _ _
    | exact tabWf_filter _
    | intro _
    | exact Nat.zero_le _
    | with_reducible apply State.walk_kept
    | with_reducible apply plainTr_kept
    | with_reducible apply Kept.ite
    | dsimp only
    | (split <;> (try (rename_i e; replace e := congrArg Prod.fst e; dsimp only at e; subst e)))

theorem State.twoStage_kept {r : State} {s : State} (t : Stage) (atp : ℕ) (gatp : ℕ) (gadue : Bool) (hK : Kept r s) : Kept r (State.twoStage s t atp gatp gadue).1 := by
  unfold State.twoStage
  repeat' first
    | with_reducible assumption
    | with_reducible exact Kept.refl _
    | exact id
    | exact tabWf_tabSet _ _
    | exact tabWf_tabDrop _ _
    | exact tabWf_filter _
    | intro _
    | exact Nat.zero_le _
    | with_reducible apply State.walk_kept
    | with_reducible apply State.gStage_kept
    | with_reducible apply Kept.ite
    | dsimp only
    | (split <;> (try (rename_i e; replace e := congrArg Prod.fst e; dsimp only at e; subst e)))

theorem State.translate_kept {r : State} {s : State} (h : ℕ) (k : AccKind) (va : ℕ) (hK : Kept r s) : Kept r (State.translate s h k va).1 := by
  unfold State.translate
  repeat' first
    | with_reducible assumption
    | with_reducible exact Kept.refl _
    | exact id
    | exact tabWf_tabSet _ _
    | exact tabWf_tabDrop _ _
    | exact tabWf_filter _
    | intro _
    | exact Nat.zero_le _
    | with_reducible apply State.twoStage_kept
    | with_reducible apply Kept.ite
    | dsimp only
    | (split <;> (try (rename_i e; replace e := congrArg Prod.fst e; dsimp only at e; subst e)))

/-! ### Machine/Iommu -/

theorem State.ioRead8_kept {r : State} {s : State} (a : ℕ) (hK : Kept r s) : Kept r (State.ioRead8 s a).1 := by
  unfold State.ioRead8
  repeat' first
    | with_reducible assumption
    | with_reducible exact Kept.refl _
    | exact id
    | exact tabWf_tabSet _ _
    | exact tabWf_tabDrop _ _
    | exact tabWf_filter _
    | intro _
    | exact Nat.zero_le _
    | with_reducible apply State.pteRead_kept

theorem State.ioWriteAll_kept {r : State} {s : State} (a : ℕ) (bs : List Byte) (hK : Kept r s) : Kept r (State.ioWriteAll s a bs).1 := by
  unfold State.ioWriteAll
  repeat' first
    | with_reducible assumption
    | with_reducible exact Kept.refl _
    | exact id
    | exact tabWf_tabSet _ _
    | exact tabWf_tabDrop _ _
    | exact tabWf_filter _
    | intro _
    | exact Nat.zero_le _
    | with_reducible apply State.memWriteAll_kept
    | with_reducible apply Kept.ite
    | dsimp only
    | exact rfl
    | (split <;> (try (rename_i e; replace e := congrArg Prod.fst e; dsimp only at e; subst e)))

theorem State.ioFault_kept {r : State} {s : State} (r0 : DmaReq) (cause : ℕ) (iotval2 : ℕ) (hK : Kept r s) : Kept r (State.ioFault s r0 cause iotval2) := by
  unfold State.ioFault
  repeat' first
    | with_reducible assumption
    | with_reducible exact Kept.refl _
    | exact id
    | exact tabWf_tabSet _ _
    | exact tabWf_tabDrop _ _
    | exact tabWf_filter _
    | intro _
    | exact Nat.zero_le _
    | with_reducible apply State.wr_kept
    | with_reducible apply State.ioWriteAll_kept
    | with_reducible apply Kept.ite

theorem State.ddtWalk_kept {r : State} {s : State} (dev : ℕ) (hK : Kept r s) : Kept r (State.ddtWalk s dev).1 := by
  unfold State.ddtWalk
  repeat' first
    | with_reducible assumption
    | with_reducible exact Kept.refl _
    | exact id
    | exact tabWf_tabSet _ _
    | exact tabWf_tabDrop _ _
    | exact tabWf_filter _
    | intro _
    | exact Nat.zero_le _
    | with_reducible apply State.ioRead8_kept
    | with_reducible apply Kept.ite
    | dsimp only
    | exact rfl
    | (split <;> (try (rename_i e; replace e := congrArg Prod.fst e; dsimp only at e; subst e)))

theorem State.pdtGet_kept {r : State} {s : State} (gatp : ℕ) (gade : Bool) (a : ℕ) (hK : Kept r s) : Kept r (State.pdtGet s gatp gade a).1 := by
  unfold State.pdtGet
  repeat' first
    | with_reducible assumption
    | with_reducible exact Kept.refl _
    | exact id
    | exact tabWf_tabSet _ _
    | exact tabWf_tabDrop _ _
    | exact tabWf_filter _
    | intro _
    | exact Nat.zero_le _
    | with_reducible apply State.gStage_kept
    | with_reducible apply State.ioRead8_kept
    | with_reducible apply Kept.ite
    | dsimp only
    | exact rfl
    | (split <;> (try (rename_i e; replace e := congrArg Prod.fst e; dsimp only at e; subst e)))

theorem State.pdtDown_kept {r : State} {s : State} (gatp : ℕ) (gade : Bool) (a : ℕ) (hK : Kept r s) : Kept r (State.pdtDown s gatp gade a).1 := by
  unfold State.pdtDown
  repeat' first
    | with_reducible assumption
    | with_reducible exact Kept.refl _
    | exact id
    | exact tabWf_tabSet _ _
    | exact tabWf_tabDrop _ _
    | exact tabWf_filter _
    | intro _
    | exact Nat.zero_le _
    | with_reducible apply State.pdtGet_kept
    | with_reducible apply Kept.ite
    | dsimp only
    | exact rfl
    | (split <;> (try (rename_i e; replace e := congrArg Prod.fst e; dsimp only at e; subst e)))

theorem State.pdtLeaf_kept {r : State} {s : State} (gatp : ℕ) (gade : Bool) (pid : ℕ) (t : ℕ) (hK : Kept r s) : Kept r (State.pdtLeaf s gatp gade pid t).1 := by
  unfold State.pdtLeaf
  repeat' first
    | with_reducible assumption
    | with_reducible exact Kept.refl _
    | exact id
    | exact tabWf_tabSet _ _
    | exact tabWf_tabDrop _ _
    | exact tabWf_filter _
    | intro _
    | exact Nat.zero_le _
    | with_reducible apply State.pdtGet_kept
    | with_reducible apply Kept.ite
    | dsimp only
    | exact rfl
    | (split <;> (try (rename_i e; replace e := congrArg Prod.fst e; dsimp only at e; subst e)))

theorem State.pdtWalk_kept {r : State} {s : State} (pdtp : ℕ) (gatp : ℕ) (gade : Bool) (pid : ℕ) (hK : Kept r s) : Kept r (State.pdtWalk s pdtp gatp gade pid).1 := by
  unfold State.pdtWalk
  repeat' first
    | with_reducible assumption
    | with_reducible exact Kept.refl _
    | exact id
    | exact tabWf_tabSet _ _
    | exact tabWf_tabDrop _ _
    | exact tabWf_filter _
    | intro _
    | exact Nat.zero_le _
    | with_reducible apply State.pdtDown_kept
    | with_reducible apply State.pdtLeaf_kept
    | with_reducible apply Kept.ite
    | dsimp only
    | exact rfl
    | (split <;> (try (rename_i e; replace e := congrArg Prod.fst e; dsimp only at e; subst e)))

theorem State.ioTranslate_kept {r : State} {s : State} (r0 : DmaReq) (hK : Kept r s) : Kept r (State.ioTranslate s r0).1 := by
  unfold State.ioTranslate
  repeat' first
    | with_reducible assumption
    | with_reducible exact Kept.refl _
    | exact id
    | exact tabWf_tabSet _ _
    | exact tabWf_tabDrop _ _
    | exact tabWf_filter _
    | intro _
    | exact Nat.zero_le _
    | with_reducible apply State.twoStage_kept
    | with_reducible apply State.ioRead8_kept
    | with_reducible apply State.ddtWalk_kept
    | with_reducible apply State.pdtWalk_kept
    | with_reducible apply Kept.ite
    | dsimp only
    | exact rfl
    | (split <;> (try (rename_i e; replace e := congrArg Prod.fst e; dsimp only at e; subst e)))

theorem State.dmaAddr_kept {r : State} {s : State} (w : World) (src : ℕ) (r0 : DmaReq) (hK : Kept r s) : Kept r (State.dmaAddr s w src r0).1 := by
  unfold State.dmaAddr
  repeat' first
    | with_reducible assumption
    | with_reducible exact Kept.refl _
    | exact id
    | exact tabWf_tabSet _ _
    | exact tabWf_tabDrop _ _
    | exact tabWf_filter _
    | intro _
    | exact Nat.zero_le _
    | with_reducible apply State.sherd_kept
    | with_reducible apply State.physRefuse_kept
    | with_reducible apply State.ioFault_kept
    | with_reducible apply State.ioTranslate_kept
    | with_reducible apply Kept.ite
    | dsimp only
    | exact rfl
    | (split <;> (try (rename_i e; replace e := congrArg Prod.fst e; dsimp only at e; subst e)))

theorem State.dmaWrite_kept {r : State} {s : State} (w : World) (src : ℕ) (dev : ℕ) (x1 : ℕ) (x2 : ℕ) (x3 : List Byte) (hK : Kept r s) : Kept r (State.dmaWrite s w src dev x1 x2 x3).1 := by
  induction x1 generalizing s w src dev x2 x3 with
  | zero =>
    unfold State.dmaWrite
    repeat' first
      | with_reducible assumption
  | succ m ih =>
    unfold State.dmaWrite
    repeat' first
      | with_reducible assumption
      | with_reducible exact Kept.refl _
      | with_reducible apply ih
      | exact id
      | exact tabWf_tabSet _ _
      | exact tabWf_tabDrop _ _
      | exact tabWf_filter _
      | intro _
      | exact Nat.zero_le _
      | with_reducible apply State.memWrite_kept
      | with_reducible apply State.ioFault_kept
      | with_reducible apply State.dmaAddr_kept
      | with_reducible apply Kept.ite
      | dsimp only
      | exact rfl
      | (split <;> (try (rename_i e; replace e := congrArg Prod.fst e; dsimp only at e; subst e)))

theorem State.dmaRead_kept {r : State} {s : State} (w : World) (src : ℕ) (dev : ℕ) (x1 : ℕ) (x2 : ℕ) (x3 : ℕ) (hK : Kept r s) : Kept r (State.dmaRead s w src dev x1 x2 x3).1 := by
  induction x1 generalizing s w src dev x2 x3 with
  | zero =>
    unfold State.dmaRead
    repeat' first
      | with_reducible assumption
  | succ m ih =>
    unfold State.dmaRead
    repeat' first
      | with_reducible assumption
      | with_reducible exact Kept.refl _
      | with_reducible apply ih
      | exact id
      | exact tabWf_tabSet _ _
      | exact tabWf_tabDrop _ _
      | exact tabWf_filter _
      | intro _
      | exact Nat.zero_le _
      | with_reducible apply State.memRead_kept
      | with_reducible apply State.ioFault_kept
      | with_reducible apply State.dmaAddr_kept
      | with_reducible apply Kept.ite
      | dsimp only
      | exact rfl
      | (split <;> (try (rename_i e; replace e := congrArg Prod.fst e; dsimp only at e; subst e)))

theorem State.ioCommands_kept {r s : State} (fuel : Nat) (hK : Kept r s) : Kept r (s.ioCommands fuel) := by
  induction fuel generalizing s with
  | zero => exact hK
  | succ m ih =>
    unfold State.ioCommands
    extract_lets b size h a next
    have h1 := State.ioRead8_kept a hK
    have hn : ∀ {u}, Kept r u → Kept r (next u) := fun hu => State.wr_kept _ _ hu
    clear_value next
    split
    · exact hK
    · split
      · rename_i u lo _ hi e1 e2
        rw [e1] at h1
        dsimp only
        refine Kept.ite (ih (hn h1)) (Kept.ite (ih (hn ?_)) (Kept.ite (State.wr_kept _ _ (State.wr_kept _ _ h1)) (State.wr_kept _ _ h1)))
        have h2 := Kept.ite (c := bitAt lo 10 = true) (State.ioWriteAll_kept (hi % 2 ^ 62 * 4) (leBytes 4 (lo / 2 ^ 32)) h1) h1
        exact Kept.ite (State.wr_kept _ _ h2) h2
      · rename_i e1 _
        rw [e1] at h1
        exact Kept.ite (State.wr_kept _ _ (State.wr_kept _ _ h1)) (State.wr_kept _ _ h1)

theorem State.ioWrite_kept {r : State} {s : State} (o : ℕ) (n : ℕ) (v : ℕ) (hK : Kept r s) : Kept r (State.ioWrite s o n v) := by
  unfold State.ioWrite
  repeat' first
    | with_reducible assumption
    | with_reducible exact Kept.refl _
    | exact id
    | exact tabWf_tabSet _ _
    | exact tabWf_tabDrop _ _
    | exact tabWf_filter _
    | intro _
    | exact Nat.zero_le _
    | with_reducible apply State.wr_kept
    | with_reducible apply State.ioFault_kept
    | with_reducible apply State.ioTranslate_kept
    | with_reducible apply State.ioCommands_kept
    | with_reducible apply Kept.ite
    | dsimp only
    | exact rfl
    | (split <;> (try (rename_i e; replace e := congrArg Prod.fst e; dsimp only at e; subst e)))

end Sys2Proof.Machine
end

