-- ==== Sys2Proof/Laws/KeptTime.lean ====
section
/-! SUPPORT. What no operation of the timing wheels, the timestamp capture, the slices, the virtual time and the pins does: each keeps the queue of commands, sets no burnt
step of the lifecycle back and keeps the storage invariant (`Kept`). -/

set_option linter.unusedTactic false
set_option linter.unreachableTactic false
set_option linter.unusedVariables false

namespace Sys2Proof.Machine
open Sys2Proof

/-! ### Machine/Wheel -/

theorem State.setWent_kept {r : State} {s : State} (i : ℕ) (e : WEntry) (hK : Kept r s) : Kept r (State.setWent s i e) := by
  unfold State.setWent
  repeat' first
    | with_reducible assumption
    | with_reducible exact Kept.refl _
    | exact id
    | exact tabWf_tabSet _ _
    | exact tabWf_tabDrop _ _
    | exact tabWf_filter _
    | intro _
    | exact Nat.zero_le _
    | with_reducible apply Kept.ite
    | dsimp only
    | (split <;> (try (rename_i e; replace e := congrArg Prod.fst e; dsimp only at e; subst e)))
    | (refine Kept.same (t := ?_) ?_ (by dsimp only; rfl) (by with_reducible rfl) (by with_reducible rfl) (by with_reducible rfl) (by with_reducible rfl) (by with_reducible rfl) (by with_reducible rfl) (by with_reducible rfl) (by with_reducible rfl) (by with_reducible rfl))

theorem State.setSlice_kept {r : State} {s : State} (n : ℕ) (v : SliceSt) (hK : Kept r s) : Kept r (State.setSlice s n v) := by
  unfold State.setSlice
  repeat' first
    | with_reducible assumption
    | with_reducible exact Kept.refl _
    | exact id
    | exact tabWf_tabSet _ _
    | exact tabWf_tabDrop _ _
    | exact tabWf_filter _
    | intro _
    | exact Nat.zero_le _
    | with_reducible apply Kept.ite
    | dsimp only
    | (split <;> (try (rename_i e; replace e := congrArg Prod.fst e; dsimp only at e; subst e)))
    | (refine Kept.same (t := ?_) ?_ (by dsimp only; rfl) (by with_reducible rfl) (by with_reducible rfl) (by with_reducible rfl) (by with_reducible rfl) (by with_reducible rfl) (by with_reducible rfl) (by with_reducible rfl) (by with_reducible rfl) (by with_reducible rfl))

theorem State.sliceVec_kept {r : State} {s : State} (n : ℕ) (summary : State → Bool) (vec : ℕ) (f : State → State) (hK : Kept r s) (hf : ∀ a0, Kept a0 (f a0)) : Kept r (State.sliceVec s n summary vec f) := by
  unfold State.sliceVec
  repeat' first
    | with_reducible assumption
    | with_reducible exact Kept.refl _
    | exact id
    | exact tabWf_tabSet _ _
    | exact tabWf_tabDrop _ _
    | exact tabWf_filter _
    | intro _
    | exact Nat.zero_le _
    | refine Kept.trans ?_ (hf ..)
    | with_reducible apply State.when_kept
    | with_reducible apply State.sliceCount_kept
    | with_reducible apply State.vecSend_kept
    | with_reducible apply Kept.ite

theorem State.wheelIrq_kept {r : State} {s : State} (o : WOwner) (b : ℕ) (hK : Kept r s) : Kept r (State.wheelIrq s o b) := by
  unfold State.wheelIrq
  repeat' first
    | with_reducible assumption
    | with_reducible exact Kept.refl _
    | exact id
    | exact tabWf_tabSet _ _
    | exact tabWf_tabDrop _ _
    | exact tabWf_filter _
    | intro _
    | exact Nat.zero_le _
    | with_reducible apply State.raise_kept
    | with_reducible apply State.sliceVec_kept
    | with_reducible apply Kept.ite
    | dsimp only
    | (split <;> (try (rename_i e; replace e := congrArg Prod.fst e; dsimp only at e; subst e)))

theorem State.wheelFree_kept {r : State} {s : State} (i : ℕ) (hK : Kept r s) : Kept r (State.wheelFree s i) := by
  unfold State.wheelFree
  repeat' first
    | with_reducible assumption
    | with_reducible exact Kept.refl _
    | exact id
    | exact tabWf_tabSet _ _
    | exact tabWf_tabDrop _ _
    | exact tabWf_filter _
    | intro _
    | exact Nat.zero_le _
    | with_reducible apply State.put_kept
    | with_reducible apply State.setWent_kept
    | with_reducible apply Kept.ite
    | dsimp only
    | (split <;> (try (rename_i e; replace e := congrArg Prod.fst e; dsimp only at e; subst e)))
    | (refine Kept.same (t := ?_) ?_ (by dsimp only; rfl) (by with_reducible rfl) (by with_reducible rfl) (by with_reducible rfl) (by with_reducible rfl) (by with_reducible rfl) (by with_reducible rfl) (by with_reducible rfl) (by with_reducible rfl) (by with_reducible rfl))

theorem State.horizonCount_kept {r : State} {s : State} (hK : Kept r s) : Kept r (State.horizonCount s) := by
  unfold State.horizonCount
  repeat' first
    | with_reducible assumption
    | with_reducible exact Kept.refl _
    | exact id
    | exact tabWf_tabSet _ _
    | exact tabWf_tabDrop _ _
    | exact tabWf_filter _
    | intro _
    | exact Nat.zero_le _
    | with_reducible apply State.put_kept

theorem State.wheelPost_kept {r : State} {s : State} (i : ℕ) (hK : Kept r s) : Kept r (State.wheelPost s i) := by
  unfold State.wheelPost
  repeat' first
    | with_reducible assumption
    | with_reducible exact Kept.refl _
    | exact id
    | exact tabWf_tabSet _ _
    | exact tabWf_tabDrop _ _
    | exact tabWf_filter _
    | intro _
    | exact Nat.zero_le _
    | with_reducible apply State.when_kept
    | with_reducible apply State.wheelIrq_kept
    | with_reducible apply State.wheelFree_kept
    | with_reducible apply Kept.ite

theorem State.wheelFinish_kept {r : State} {s : State} (i : ℕ) (st : Status) (missed : Bool) (t : ℕ) (hK : Kept r s) : Kept r (State.wheelFinish s i st missed t) := by
  unfold State.wheelFinish
  repeat' first
    | with_reducible assumption
    | with_reducible exact Kept.refl _
    | exact id
    | exact tabWf_tabSet _ _
    | exact tabWf_tabDrop _ _
    | exact tabWf_filter _
    | intro _
    | exact Nat.zero_le _
    | with_reducible apply State.when_kept
    | with_reducible apply State.sliceCount_kept
    | with_reducible apply State.ldgAccept_kept
    | with_reducible apply State.setWent_kept
    | with_reducible apply State.wheelIrq_kept
    | with_reducible apply State.horizonCount_kept
    | with_reducible apply State.wheelPost_kept
    | with_reducible apply Kept.ite
    | dsimp only
    | (split <;> (try (rename_i e; replace e := congrArg Prod.fst e; dsimp only at e; subst e)))

theorem State.horizonTake_kept {r : State} {s : State} (i : ℕ) (hK : Kept r s) : Kept r (State.horizonTake s i) := by
  unfold State.horizonTake
  repeat' first
    | with_reducible assumption
    | with_reducible exact Kept.refl _
    | exact id
    | exact tabWf_tabSet _ _
    | exact tabWf_tabDrop _ _
    | exact tabWf_filter _
    | intro _
    | exact Nat.zero_le _
    | with_reducible apply State.setWent_kept
    | with_reducible apply State.horizonCount_kept
    | with_reducible apply Kept.ite
    | dsimp only
    | (split <;> (try (rename_i e; replace e := congrArg Prod.fst e; dsimp only at e; subst e)))

theorem State.horizonAdmit_kept {r : State} {s : State} (i : ℕ) (hK : Kept r s) : Kept r (State.horizonAdmit s i) := by
  unfold State.horizonAdmit
  repeat' first
    | with_reducible assumption
    | with_reducible exact Kept.refl _
    | exact id
    | exact tabWf_tabSet _ _
    | exact tabWf_tabDrop _ _
    | exact tabWf_filter _
    | intro _
    | exact Nat.zero_le _
    | with_reducible apply State.horizonTake_kept
    | with_reducible apply Kept.ite

theorem State.expectUpdate_kept {r : State} {s : State} (stream : ℕ) (hK : Kept r s) : Kept r (State.expectUpdate s stream) := by
  unfold State.expectUpdate
  repeat' first
    | with_reducible assumption
    | with_reducible exact Kept.refl _
    | exact id
    | exact tabWf_tabSet _ _
    | exact tabWf_tabDrop _ _
    | exact tabWf_filter _
    | intro _
    | exact Nat.zero_le _
    | with_reducible apply State.each_kept
    | with_reducible apply State.wheelFinish_kept
    | with_reducible apply Kept.ite

theorem State.noteFired_kept {r : State} {s : State} (handle : ℕ) (hK : Kept r s) : Kept r (State.noteFired s handle) := by
  unfold State.noteFired
  repeat' first
    | with_reducible assumption
    | with_reducible exact Kept.refl _
    | exact id
    | exact tabWf_tabSet _ _
    | exact tabWf_tabDrop _ _
    | exact tabWf_filter _
    | intro _
    | exact Nat.zero_le _
    | with_reducible apply Kept.ite
    | dsimp only
    | (split <;> (try (rename_i e; replace e := congrArg Prod.fst e; dsimp only at e; subst e)))
    | (refine Kept.same (t := ?_) ?_ (by dsimp only; rfl) (by with_reducible rfl) (by with_reducible rfl) (by with_reducible rfl) (by with_reducible rfl) (by with_reducible rfl) (by with_reducible rfl) (by with_reducible rfl) (by with_reducible rfl) (by with_reducible rfl))

theorem State.wheelFire_kept {r : State} {s : State} (i : ℕ) (coarse : Bool) (jumped : Bool) (hK : Kept r s) : Kept r (State.wheelFire s i coarse jumped).1 := by
  unfold State.wheelFire
  repeat' first
    | with_reducible assumption
    | with_reducible exact Kept.refl _
    | exact id
    | exact tabWf_tabSet _ _
    | exact tabWf_tabDrop _ _
    | exact tabWf_filter _
    | intro _
    | exact Nat.zero_le _
    | with_reducible apply State.inc_kept
    | with_reducible apply State.when_kept
    | with_reducible apply State.setWent_kept
    | with_reducible apply State.wheelIrq_kept
    | with_reducible apply State.horizonCount_kept
    | with_reducible apply State.wheelFinish_kept
    | with_reducible apply State.noteFired_kept
    | with_reducible apply Kept.ite
    | dsimp only
    | (split <;> (try (rename_i e; replace e := congrArg Prod.fst e; dsimp only at e; subst e)))

theorem State.wheelPlace_kept {r : State} {s : State} (i : ℕ) (hK : Kept r s) : Kept r (State.wheelPlace s i).1 := by
  unfold State.wheelPlace
  repeat' first
    | with_reducible assumption
    | with_reducible exact Kept.refl _
    | exact id
    | exact tabWf_tabSet _ _
    | exact tabWf_tabDrop _ _
    | exact tabWf_filter _
    | intro _
    | exact Nat.zero_le _
    | with_reducible apply State.wheelFinish_kept
    | with_reducible apply State.horizonAdmit_kept
    | with_reducible apply State.wheelFire_kept
    | with_reducible apply Kept.ite
    | dsimp only
    | (split <;> (try (rename_i e; replace e := congrArg Prod.fst e; dsimp only at e; subst e)))

/-- The state beside an allocated index. -/
theorem State.wAlloc_kept {r s t : State} (w : World) (i : Nat) (hK : Kept r s) (h : s.wAlloc w = some (i, t)) : Kept r t := by
  unfold State.wAlloc at h
  dsimp only at h
  repeat' split at h
  all_goals first
    | (cases h; done)
    | (obtain ⟨-, rfl⟩ := Prod.mk.inj (Option.some.inj h)
       try dsimp only
       exact hK.same rfl rfl rfl rfl rfl rfl rfl rfl rfl rfl)

theorem State.arm_kept {r s : State} (q : ArmReq) (hK : Kept r s) : Kept r (s.arm q).1 := by
  unfold State.arm
  dsimp only
  split
  · rename_i i t h1 h2
    have ht := State.wAlloc_kept _ _ hK h2
    have h3 : ∀ e, Kept r ((({ t with wheel := { t.wheel with nextSeq := t.wheel.nextSeq + 1, live := t.wheel.live ++ [i] } } : State).setWent i e).inc (wUsed q.owner) 1) :=
      fun e => State.inc_kept _ _ (State.setWent_kept _ _ (ht.same rfl rfl rfl rfl rfl rfl rfl rfl rfl rfl))
    repeat' first
      | with_reducible exact h3 _
      | with_reducible apply State.wheelPlace_kept
      | with_reducible apply State.sliceCount_kept
      | split
  · split
    · exact State.sliceCount_kept _ _ _ (State.wheelIrq_kept _ _ hK)
    · exact State.wheelIrq_kept _ _ hK
  · exact hK

theorem State.abort_kept {r : State} {s : State} (o : WOwner) (handle : ℕ) (hK : Kept r s) : Kept r (State.abort s o handle).1 := by
  unfold State.abort
  repeat' first
    | with_reducible assumption
    | with_reducible exact Kept.refl _
    | exact id
    | exact tabWf_tabSet _ _
    | exact tabWf_tabDrop _ _
    | exact tabWf_filter _
    | intro _
    | exact Nat.zero_le _
    | with_reducible apply State.setWent_kept
    | with_reducible apply State.wheelFree_kept
    | with_reducible apply State.horizonCount_kept
    | with_reducible apply State.wheelPost_kept
    | with_reducible apply Kept.ite
    | dsimp only
    | (split <;> (try (rename_i e; replace e := congrArg Prod.fst e; dsimp only at e; subst e)))

theorem State.ringDisabled_kept {r : State} {s : State} (o : WOwner) (hK : Kept r s) : Kept r (State.ringDisabled s o) := by
  unfold State.ringDisabled
  repeat' first
    | with_reducible assumption
    | with_reducible exact Kept.refl _
    | exact id
    | exact tabWf_tabSet _ _
    | exact tabWf_tabDrop _ _
    | exact tabWf_filter _
    | intro _
    | exact Nat.zero_le _
    | with_reducible apply State.each_kept
    | with_reducible apply State.wheelFree_kept
    | with_reducible apply Kept.ite

theorem State.recordWrite_kept {r : State} {s : State} (i : ℕ) (hK : Kept r s) : Kept r (State.recordWrite s i) := by
  unfold State.recordWrite
  repeat' first
    | with_reducible assumption
    | with_reducible exact Kept.refl _
    | exact id
    | exact tabWf_tabSet _ _
    | exact tabWf_tabDrop _ _
    | exact tabWf_filter _
    | intro _
    | exact Nat.zero_le _
    | with_reducible apply State.put_kept
    | with_reducible apply State.physRefuse_kept
    | with_reducible apply State.memWrite_kept
    | with_reducible apply State.wheelIrq_kept
    | with_reducible apply State.wheelFree_kept
    | with_reducible apply State.ringDisabled_kept
    | with_reducible apply Kept.ite
    | dsimp only
    | (split <;> (try (rename_i e; replace e := congrArg Prod.fst e; dsimp only at e; subst e)))

theorem State.wheelDrop_kept {r : State} {s : State} (hK : Kept r s) : Kept r (State.wheelDrop s) := by
  unfold State.wheelDrop
  repeat' first
    | with_reducible assumption
    | with_reducible exact Kept.refl _
    | exact id
    | exact tabWf_tabSet _ _
    | exact tabWf_tabDrop _ _
    | exact tabWf_filter _
    | intro _
    | exact Nat.zero_le _
    | with_reducible apply Kept.ite
    | dsimp only
    | (split <;> (try (rename_i e; replace e := congrArg Prod.fst e; dsimp only at e; subst e)))
    | (refine Kept.same (t := ?_) ?_ (by dsimp only; rfl) (by with_reducible rfl) (by with_reducible rfl) (by with_reducible rfl) (by with_reducible rfl) (by with_reducible rfl) (by with_reducible rfl) (by with_reducible rfl) (by with_reducible rfl) (by with_reducible rfl))

theorem State.wheelSliceReset_kept {r : State} {s : State} (n : ℕ) (hK : Kept r s) : Kept r (State.wheelSliceReset s n) := by
  unfold State.wheelSliceReset
  repeat' first
    | with_reducible assumption
    | with_reducible exact Kept.refl _
    | exact id
    | exact tabWf_tabSet _ _
    | exact tabWf_tabDrop _ _
    | exact tabWf_filter _
    | intro _
    | exact Nat.zero_le _
    | with_reducible apply State.put_kept
    | with_reducible apply State.each_kept
    | with_reducible apply State.wheelFree_kept
    | with_reducible apply State.horizonCount_kept
    | with_reducible apply Kept.ite

theorem State.horizonRelease_kept {r : State} {s : State} (hK : Kept r s) : Kept r (State.horizonRelease s) := by
  unfold State.horizonRelease
  repeat' first
    | with_reducible assumption
    | with_reducible exact Kept.refl _
    | exact id
    | exact tabWf_tabSet _ _
    | exact tabWf_tabDrop _ _
    | exact tabWf_filter _
    | intro _
    | exact Nat.zero_le _
    | with_reducible apply State.each_kept
    | with_reducible apply State.setWent_kept
    | with_reducible apply State.horizonCount_kept
    | with_reducible apply Kept.ite

theorem State.calibrated_kept {r : State} {s : State} (medians : List ℕ) (hK : Kept r s) : Kept r (State.calibrated s medians) := by
  unfold State.calibrated
  repeat' first
    | with_reducible assumption
    | with_reducible exact Kept.refl _
    | exact id
    | exact tabWf_tabSet _ _
    | exact tabWf_tabDrop _ _
    | exact tabWf_filter _
    | intro _
    | exact Nat.zero_le _
    | with_reducible apply State.put_kept
    | with_reducible apply State.each_kept

theorem State.inspRead_kept {r : State} {s : State} (hK : Kept r s) : Kept r (State.inspRead s).1 := by
  unfold State.inspRead
  repeat' first
    | with_reducible assumption
    | with_reducible exact Kept.refl _
    | exact id
    | exact tabWf_tabSet _ _
    | exact tabWf_tabDrop _ _
    | exact tabWf_filter _
    | intro _
    | exact Nat.zero_le _
    | with_reducible apply Kept.ite
    | dsimp only
    | (split <;> (try (rename_i e; replace e := congrArg Prod.fst e; dsimp only at e; subst e)))
    | (refine Kept.same (t := ?_) ?_ (by dsimp only; rfl) (by with_reducible rfl) (by with_reducible rfl) (by with_reducible rfl) (by with_reducible rfl) (by with_reducible rfl) (by with_reducible rfl) (by with_reducible rfl) (by with_reducible rfl) (by with_reducible rfl))

theorem State.quotaWrite_kept {r : State} {s : State} (n : ℕ) (q : ℕ) (hK : Kept r s) : Kept r (State.quotaWrite s n q) := by
  unfold State.quotaWrite
  repeat' first
    | with_reducible assumption
    | with_reducible exact Kept.refl _
    | exact id
    | exact tabWf_tabSet _ _
    | exact tabWf_tabDrop _ _
    | exact tabWf_filter _
    | intro _
    | exact Nat.zero_le _
    | with_reducible apply State.put_kept

/-! ### Machine/Slices -/

theorem State.doorbell_kept {r : State} {s : State} (h : ℕ) (write : Bool) (off : ℕ) (f : ℕ → State → State) (hK : Kept r s) (hf : ∀ a0 a1, Kept a1 (f a0 a1)) : Kept r (State.doorbell s h write off f) := by
  unfold State.doorbell
  repeat' first
    | with_reducible assumption
    | with_reducible exact Kept.refl _
    | exact id
    | exact tabWf_tabSet _ _
    | exact tabWf_tabDrop _ _
    | exact tabWf_filter _
    | intro _
    | exact Nat.zero_le _
    | refine Kept.trans ?_ (hf ..)
    | with_reducible apply State.regRefused_kept
    | with_reducible apply Kept.ite
    | dsimp only
    | (split <;> (try (rename_i e; replace e := congrArg Prod.fst e; dsimp only at e; subst e)))

theorem State.sliceIrq_kept {r : State} {s : State} (n : ℕ) (f : State → State) (hK : Kept r s) (hf : ∀ a0, Kept a0 (f a0)) : Kept r (State.sliceIrq s n f) := by
  unfold State.sliceIrq
  repeat' first
    | with_reducible assumption
    | with_reducible exact Kept.refl _
    | exact id
    | exact tabWf_tabSet _ _
    | exact tabWf_tabDrop _ _
    | exact tabWf_filter _
    | intro _
    | exact Nat.zero_le _
    | refine Kept.trans ?_ (hf ..)
    | with_reducible apply State.sliceVec_kept

theorem State.managerIrq_kept {r : State} {s : State} (n : ℕ) (f : State → State) (hK : Kept r s) (hf : ∀ a0, Kept a0 (f a0)) : Kept r (State.managerIrq s n f) := by
  unfold State.managerIrq
  repeat' first
    | with_reducible assumption
    | with_reducible exact Kept.refl _
    | exact id
    | exact tabWf_tabSet _ _
    | exact tabWf_tabDrop _ _
    | exact tabWf_filter _
    | intro _
    | exact Nat.zero_le _
    | refine Kept.trans ?_ (hf ..)
    | with_reducible apply State.withVec_kept

theorem State.complSet_kept {r : State} {s : State} (n : ℕ) (r0 : ℕ) (hK : Kept r s) : Kept r (State.complSet s n r0) := by
  unfold State.complSet
  repeat' first
    | with_reducible assumption
    | with_reducible exact Kept.refl _
    | exact id
    | exact tabWf_tabSet _ _
    | exact tabWf_tabDrop _ _
    | exact tabWf_filter _
    | intro _
    | exact Nat.zero_le _
    | with_reducible apply State.raise_kept
    | with_reducible apply State.setSlice_kept
    | with_reducible apply State.sliceIrq_kept

theorem State.complPost_kept {r : State} {s : State} (n : ℕ) (r0 : ℕ) (hK : Kept r s) : Kept r (State.complPost s n r0) := by
  unfold State.complPost
  repeat' first
    | with_reducible assumption
    | with_reducible exact Kept.refl _
    | exact id
    | exact tabWf_tabSet _ _
    | exact tabWf_tabDrop _ _
    | exact tabWf_filter _
    | intro _
    | exact Nat.zero_le _
    | with_reducible apply State.sliceCount_kept
    | with_reducible apply State.setSlice_kept
    | with_reducible apply State.complSet_kept
    | with_reducible apply Kept.ite

theorem State.submit_kept {r : State} {s : State} (n : ℕ) (r0 : ℕ) (tail : ℕ) (hK : Kept r s) : Kept r (State.submit s n r0 tail) := by
  unfold State.submit
  repeat' first
    | with_reducible assumption
    | with_reducible exact Kept.refl _
    | exact id
    | exact tabWf_tabSet _ _
    | exact tabWf_tabDrop _ _
    | exact tabWf_filter _
    | intro _
    | exact Nat.zero_le _
    | with_reducible apply State.put_kept
    | with_reducible apply State.res_kept
    | with_reducible apply State.sliceCount_kept
    | with_reducible apply Kept.ite
    | dsimp only
    | (split <;> (try (rename_i e; replace e := congrArg Prod.fst e; dsimp only at e; subst e)))

theorem State.dlQuery_kept {r : State} {s : State} (n : ℕ) (stream : ℕ) (hK : Kept r s) : Kept r (State.dlQuery s n stream) := by
  unfold State.dlQuery
  repeat' first
    | with_reducible assumption
    | with_reducible exact Kept.refl _
    | exact id
    | exact tabWf_tabSet _ _
    | exact tabWf_tabDrop _ _
    | exact tabWf_filter _
    | intro _
    | exact Nat.zero_le _
    | with_reducible apply State.put_kept

theorem State.mbxSend_kept {r : State} {s : State} (n : ℕ) (m2t : Bool) (expseq : ℕ) (hK : Kept r s) : Kept r (State.mbxSend s n m2t expseq) := by
  unfold State.mbxSend
  repeat' first
    | with_reducible assumption
    | with_reducible exact Kept.refl _
    | exact id
    | exact tabWf_tabSet _ _
    | exact tabWf_tabDrop _ _
    | exact tabWf_filter _
    | intro _
    | exact Nat.zero_le _
    | with_reducible apply State.put_kept
    | with_reducible apply State.raise_kept
    | with_reducible apply State.res_kept
    | with_reducible apply State.each_kept
    | with_reducible apply State.sliceCount_kept
    | with_reducible apply State.sliceIrq_kept
    | with_reducible apply State.managerIrq_kept
    | with_reducible apply Kept.ite

theorem State.mbxAck_kept {r : State} {s : State} (n : ℕ) (m2t : Bool) (seq : ℕ) (hK : Kept r s) : Kept r (State.mbxAck s n m2t seq) := by
  unfold State.mbxAck
  repeat' first
    | with_reducible assumption
    | with_reducible exact Kept.refl _
    | exact id
    | exact tabWf_tabSet _ _
    | exact tabWf_tabDrop _ _
    | exact tabWf_filter _
    | intro _
    | exact Nat.zero_le _
    | with_reducible apply State.put_kept
    | with_reducible apply State.raise_kept
    | with_reducible apply State.inc_kept
    | with_reducible apply State.sliceIrq_kept
    | with_reducible apply State.managerIrq_kept
    | with_reducible apply Kept.ite

theorem State.tenantAccess_kept {r : State} {s : State} (a : Agent) (write : Bool) (off : ℕ) (f : ℕ → State → State) (hK : Kept r s) (hf : ∀ a0 a1, Kept a1 (f a0 a1)) : Kept r (State.tenantAccess s a write off f) := by
  unfold State.tenantAccess
  repeat' first
    | with_reducible assumption
    | with_reducible exact Kept.refl _
    | exact id
    | exact tabWf_tabSet _ _
    | exact tabWf_tabDrop _ _
    | exact tabWf_filter _
    | intro _
    | exact Nat.zero_le _
    | refine Kept.trans ?_ (hf ..)
    | with_reducible apply State.regRefused_kept
    | with_reducible apply State.doorbell_kept
    | with_reducible apply Kept.ite
    | dsimp only
    | (split <;> (try (rename_i e; replace e := congrArg Prod.fst e; dsimp only at e; subst e)))

theorem State.mbxEmpty_kept {r : State} {s : State} (n : ℕ) (m2t : Bool) (hK : Kept r s) : Kept r (State.mbxEmpty s n m2t) := by
  unfold State.mbxEmpty
  repeat' first
    | with_reducible assumption
    | with_reducible exact Kept.refl _
    | exact id
    | exact tabWf_tabSet _ _
    | exact tabWf_tabDrop _ _
    | exact tabWf_filter _
    | intro _
    | exact Nat.zero_le _
    | with_reducible apply State.put_kept
    | with_reducible apply State.raise_kept
    | with_reducible apply State.inc_kept
    | with_reducible apply State.each_kept
    | with_reducible apply State.when_kept
    | with_reducible apply State.managerIrq_kept

theorem State.sliceStartReset_kept {r : State} {s : State} (n : ℕ) (unbind : Bool) (hK : Kept r s) : Kept r (State.sliceStartReset s n unbind) := by
  unfold State.sliceStartReset
  repeat' first
    | with_reducible assumption
    | with_reducible exact Kept.refl _
    | exact id
    | exact tabWf_tabSet _ _
    | exact tabWf_tabDrop _ _
    | exact tabWf_filter _
    | intro _
    | exact Nat.zero_le _
    | with_reducible apply State.wr_kept
    | with_reducible apply State.put_kept
    | with_reducible apply State.each_kept
    | with_reducible apply State.setSlice_kept
    | with_reducible apply State.wheelSliceReset_kept
    | with_reducible apply State.mbxEmpty_kept
    | with_reducible apply Kept.ite
    | dsimp only
    | (split <;> (try (rename_i e; replace e := congrArg Prod.fst e; dsimp only at e; subst e)))
    | (refine Kept.same (t := ?_) ?_ (by dsimp only; rfl) (by with_reducible rfl) (by with_reducible rfl) (by with_reducible rfl) (by with_reducible rfl) (by with_reducible rfl) (by with_reducible rfl) (by with_reducible rfl) (by with_reducible rfl) (by with_reducible rfl))

theorem State.sliceCmd_kept {r : State} {s : State} (n : ℕ) (op : ℕ) (hK : Kept r s) : Kept r (State.sliceCmd s n op) := by
  unfold State.sliceCmd
  repeat' first
    | with_reducible assumption
    | with_reducible exact Kept.refl _
    | exact id
    | exact tabWf_tabSet _ _
    | exact tabWf_tabDrop _ _
    | exact tabWf_filter _
    | intro _
    | exact Nat.zero_le _
    | with_reducible apply State.put_kept
    | with_reducible apply State.raise_kept
    | with_reducible apply State.res_kept
    | with_reducible apply State.setSlice_kept
    | with_reducible apply State.managerIrq_kept
    | with_reducible apply State.sliceStartReset_kept
    | with_reducible apply Kept.ite

theorem State.sliceQuiet_kept {r : State} {s : State} (n : ℕ) (hK : Kept r s) : Kept r (State.sliceQuiet s n) := by
  unfold State.sliceQuiet
  repeat' first
    | with_reducible assumption
    | with_reducible exact Kept.refl _
    | exact id
    | exact tabWf_tabSet _ _
    | exact tabWf_tabDrop _ _
    | exact tabWf_filter _
    | intro _
    | exact Nat.zero_le _
    | with_reducible apply State.put_kept
    | with_reducible apply State.raise_kept
    | with_reducible apply State.when_kept
    | with_reducible apply State.setSlice_kept
    | with_reducible apply State.sliceIrq_kept
    | with_reducible apply State.managerIrq_kept
    | with_reducible apply Kept.ite

/-! ### Machine/Capture -/

theorem State.setStt_kept {r : State} {s : State} (i : ℕ) (v : ℕ) (hK : Kept r s) : Kept r (State.setStt s i v) := by
  unfold State.setStt
  repeat' first
    | with_reducible assumption
    | with_reducible exact Kept.refl _
    | exact id
    | exact tabWf_tabSet _ _
    | exact tabWf_tabDrop _ _
    | exact tabWf_filter _
    | intro _
    | exact Nat.zero_le _
    | with_reducible apply Kept.ite
    | dsimp only
    | (split <;> (try (rename_i e; replace e := congrArg Prod.fst e; dsimp only at e; subst e)))
    | (refine Kept.same (t := ?_) ?_ (by dsimp only; rfl) (by with_reducible rfl) (by with_reducible rfl) (by with_reducible rfl) (by with_reducible rfl) (by with_reducible rfl) (by with_reducible rfl) (by with_reducible rfl) (by with_reducible rfl) (by with_reducible rfl))

theorem State.sttPut_kept {r : State} {s : State} (i : ℕ) (fields : ℕ) (count : ℕ) (hK : Kept r s) : Kept r (State.sttPut s i fields count).1 := by
  unfold State.sttPut
  repeat' first
    | with_reducible assumption
    | with_reducible exact Kept.refl _
    | exact id
    | exact tabWf_tabSet _ _
    | exact tabWf_tabDrop _ _
    | exact tabWf_filter _
    | intro _
    | exact Nat.zero_le _
    | with_reducible apply State.setStt_kept

theorem State.sttExec_kept {r s : State} (op idx expgen : Nat) (anygen : Bool) (staged : Nat) (hK : Kept r s) :
    Kept r (s.sttExec op idx expgen anygen staged).1 := by
  have h1 : ∀ i v g, Kept r (s.sttPut i v g).1 := fun i v g => State.sttPut_kept _ _ _ hK
  unfold State.sttExec
  extract_lets v kind key old refuse
  have hr : ∀ st, Kept r (refuse st).1 := fun _ => hK
  clear_value refuse
  repeat' first
    | with_reducible exact hr _
    | with_reducible exact h1 _ _ _
    | extract_lets
    | split

theorem State.updHold_kept {r : State} {s : State} (p : ℕ) (r0 : Status × ℕ × ℕ) (hK : Kept r s) : Kept r (State.updHold s p r0) := by
  unfold State.updHold
  repeat' first
    | with_reducible assumption
    | with_reducible exact Kept.refl _
    | exact id
    | exact tabWf_tabSet _ _
    | exact tabWf_tabDrop _ _
    | exact tabWf_filter _
    | intro _
    | exact Nat.zero_le _
    | with_reducible apply Kept.ite
    | dsimp only
    | (split <;> (try (rename_i e; replace e := congrArg Prod.fst e; dsimp only at e; subst e)))
    | (refine Kept.same (t := ?_) ?_ (by dsimp only; rfl) (by with_reducible rfl) (by with_reducible rfl) (by with_reducible rfl) (by with_reducible rfl) (by with_reducible rfl) (by with_reducible rfl) (by with_reducible rfl) (by with_reducible rfl) (by with_reducible rfl))

theorem State.sttCmd_kept {r : State} {s : State} (p : ℕ) (op : ℕ) (idx : ℕ) (expgen : ℕ) (anygen : Bool) (hK : Kept r s) : Kept r (State.sttCmd s p op idx expgen anygen) := by
  unfold State.sttCmd
  repeat' first
    | with_reducible assumption
    | with_reducible exact Kept.refl _
    | exact id
    | exact tabWf_tabSet _ _
    | exact tabWf_tabDrop _ _
    | exact tabWf_filter _
    | intro _
    | exact Nat.zero_le _
    | with_reducible apply State.put_kept
    | with_reducible apply State.raise_kept
    | with_reducible apply State.sttExec_kept
    | with_reducible apply State.updHold_kept
    | with_reducible apply Kept.ite

theorem State.updDone_kept {r : State} {s : State} (p : ℕ) (hK : Kept r s) : Kept r (State.updDone s p) := by
  unfold State.updDone
  repeat' first
    | with_reducible assumption
    | with_reducible exact Kept.refl _
    | exact id
    | exact tabWf_tabSet _ _
    | exact tabWf_tabDrop _ _
    | exact tabWf_filter _
    | intro _
    | exact Nat.zero_le _
    | with_reducible apply State.put_kept
    | with_reducible apply Kept.ite
    | dsimp only
    | (split <;> (try (rename_i e; replace e := congrArg Prod.fst e; dsimp only at e; subst e)))
    | (refine Kept.same (t := ?_) ?_ (by dsimp only; rfl) (by with_reducible rfl) (by with_reducible rfl) (by with_reducible rfl) (by with_reducible rfl) (by with_reducible rfl) (by with_reducible rfl) (by with_reducible rfl) (by with_reducible rfl) (by with_reducible rfl))

theorem State.presetWrite_kept {r s : State} (entry : Nat) (hK : Kept r s) : Kept r (s.presetWrite entry) :=
  State.updHold_kept _ _ (State.sttExec_kept _ _ _ _ _ hK)

theorem State.camPreset_kept {r : State} {s : State} (v : ℕ) (hK : Kept r s) : Kept r (State.camPreset s v) := by
  unfold State.camPreset
  repeat' first
    | with_reducible assumption
    | with_reducible exact Kept.refl _
    | exact id
    | exact tabWf_tabSet _ _
    | exact tabWf_tabDrop _ _
    | exact tabWf_filter _
    | intro _
    | exact Nat.zero_le _
    | with_reducible apply State.put_kept
    | with_reducible apply State.res_kept
    | with_reducible apply State.updHold_kept
    | with_reducible apply State.presetWrite_kept
    | with_reducible apply Kept.ite
    | dsimp only
    | (split <;> (try (rename_i e; replace e := congrArg Prod.fst e; dsimp only at e; subst e)))

theorem State.sttSnap_kept {r : State} {s : State} (hK : Kept r s) : Kept r (State.sttSnap s).1 := by
  unfold State.sttSnap
  repeat' first
    | with_reducible assumption
    | with_reducible exact Kept.refl _
    | exact id
    | exact tabWf_tabSet _ _
    | exact tabWf_tabDrop _ _
    | exact tabWf_filter _
    | intro _
    | exact Nat.zero_le _
    | with_reducible apply State.put_kept
    | with_reducible apply State.each_kept

theorem State.probe_kept {r : State} {s : State} (kind : ℕ) (key : ℕ) (hK : Kept r s) : Kept r (State.probe s kind key) := by
  unfold State.probe
  repeat' first
    | with_reducible assumption
    | with_reducible exact Kept.refl _
    | exact id
    | exact tabWf_tabSet _ _
    | exact tabWf_tabDrop _ _
    | exact tabWf_filter _
    | intro _
    | exact Nat.zero_le _
    | with_reducible apply State.wr_kept

theorem State.missPop_kept {r s : State} (hK : Kept r s) : Kept r s.missPop.1 := by
  unfold State.missPop
  split
  · exact hK
  · rename_i m l hl
    refine State.put_kept _ _ (hK.parts rfl (fun _ => Nat.le_refl _) id id id id id (fun h => ?_) id id)
    rw [hl, List.length_cons] at h
    exact Nat.le_of_succ_le h

theorem State.miss_kept {r s : State} (kind key : Nat) (n : Option Nat) (hK : Kept r s) : Kept r (s.miss kind key n) := by
  unfold State.miss
  dsimp only
  have h1 := State.inc_kept (STT_MISS_COUNT kind) 1 hK
  split
  · exact h1
  · split
    · exact State.inc_kept _ _ h1
    · rename_i hl
      refine State.raise_kept _ _ (State.put_kept _ _ (h1.parts rfl (fun _ => Nat.le_refl _) id id id id id (fun _ => ?_) id id))
      rw [ge_iff_le, Nat.not_le] at hl
      rw [List.length_append]
      exact hl

theorem State.classify_kept {r : State} {s : State} (kind : ℕ) (key : ℕ) (hK : Kept r s) : Kept r (State.classify s kind key).1 := by
  unfold State.classify
  repeat' first
    | with_reducible assumption
    | with_reducible exact Kept.refl _
    | exact id
    | exact tabWf_tabSet _ _
    | exact tabWf_tabDrop _ _
    | exact tabWf_filter _
    | intro _
    | exact Nat.zero_le _
    | with_reducible apply State.miss_kept
    | with_reducible apply Kept.ite
    | dsimp only
    | (split <;> (try (rename_i e; replace e := congrArg Prod.fst e; dsimp only at e; subst e)))

theorem State.capStop_kept {r : State} {s : State} (n : ℕ) (r0 : ℕ) (hK : Kept r s) : Kept r (State.capStop s n r0) := by
  unfold State.capStop
  repeat' first
    | with_reducible assumption
    | with_reducible exact Kept.refl _
    | exact id
    | exact tabWf_tabSet _ _
    | exact tabWf_tabDrop _ _
    | exact tabWf_filter _
    | intro _
    | exact Nat.zero_le _
    | with_reducible apply State.put_kept
    | with_reducible apply State.raise_kept
    | with_reducible apply Kept.ite
    | dsimp only
    | (split <;> (try (rename_i e; replace e := congrArg Prod.fst e; dsimp only at e; subst e)))
    | (refine Kept.same (t := ?_) ?_ (by dsimp only; rfl) (by with_reducible rfl) (by with_reducible rfl) (by with_reducible rfl) (by with_reducible rfl) (by with_reducible rfl) (by with_reducible rfl) (by with_reducible rfl) (by with_reducible rfl) (by with_reducible rfl))

theorem State.capTake_kept {r : State} {s : State} (n : ℕ) (r0 : ℕ) (needBuf : Bool) (hK : Kept r s) : Kept r (State.capTake s n r0 needBuf).1 := by
  unfold State.capTake
  repeat' first
    | with_reducible assumption
    | with_reducible exact Kept.refl _
    | exact id
    | exact tabWf_tabSet _ _
    | exact tabWf_tabDrop _ _
    | exact tabWf_filter _
    | intro _
    | exact Nat.zero_le _
    | with_reducible apply State.put_kept
    | with_reducible apply State.dmaRead_kept
    | with_reducible apply State.capStop_kept
    | with_reducible apply Kept.ite
    | dsimp only
    | (split <;> (try (rename_i e; replace e := congrArg Prod.fst e; dsimp only at e; subst e)))

theorem State.capDrop_kept {r : State} {s : State} (n : ℕ) (r0 : ℕ) (nobuf : Bool) (hK : Kept r s) : Kept r (State.capDrop s n r0 nobuf) := by
  unfold State.capDrop
  repeat' first
    | with_reducible assumption
    | with_reducible exact Kept.refl _
    | exact id
    | exact tabWf_tabSet _ _
    | exact tabWf_tabDrop _ _
    | exact tabWf_filter _
    | intro _
    | exact Nat.zero_le _
    | with_reducible apply State.raise_kept
    | with_reducible apply State.inc_kept
    | with_reducible apply State.when_kept
    | with_reducible apply State.sliceCount_kept

theorem State.setCtx_kept {r : State} {s : State} (c : FrameCtx) (hK : Kept r s) : Kept r (State.setCtx s c) := by
  unfold State.setCtx
  repeat' first
    | with_reducible assumption
    | with_reducible exact Kept.refl _
    | exact id
    | exact tabWf_tabSet _ _
    | exact tabWf_tabDrop _ _
    | exact tabWf_filter _
    | intro _
    | exact Nat.zero_le _
    | with_reducible apply Kept.ite
    | dsimp only
    | (split <;> (try (rename_i e; replace e := congrArg Prod.fst e; dsimp only at e; subst e)))
    | (refine Kept.same (t := ?_) ?_ (by dsimp only; rfl) (by with_reducible rfl) (by with_reducible rfl) (by with_reducible rfl) (by with_reducible rfl) (by with_reducible rfl) (by with_reducible rfl) (by with_reducible rfl) (by with_reducible rfl) (by with_reducible rfl))

theorem State.delCtx_kept {r : State} {s : State} (c : FrameCtx) (hK : Kept r s) : Kept r (State.delCtx s c) := by
  unfold State.delCtx
  repeat' first
    | with_reducible assumption
    | with_reducible exact Kept.refl _
    | exact id
    | exact tabWf_tabSet _ _
    | exact tabWf_tabDrop _ _
    | exact tabWf_filter _
    | intro _
    | exact Nat.zero_le _
    | with_reducible apply Kept.ite
    | dsimp only
    | (split <;> (try (rename_i e; replace e := congrArg Prod.fst e; dsimp only at e; subst e)))
    | (refine Kept.same (t := ?_) ?_ (by dsimp only; rfl) (by with_reducible rfl) (by with_reducible rfl) (by with_reducible rfl) (by with_reducible rfl) (by with_reducible rfl) (by with_reducible rfl) (by with_reducible rfl) (by with_reducible rfl) (by with_reducible rfl))

theorem State.capOpen_kept {r : State} {s : State} (n : ℕ) (i : ℕ) (stamp : Stamp) (srcinfo : ℕ) (hK : Kept r s) : Kept r (State.capOpen s n i stamp srcinfo).1 := by
  unfold State.capOpen
  repeat' first
    | with_reducible assumption
    | with_reducible exact Kept.refl _
    | exact id
    | exact tabWf_tabSet _ _
    | exact tabWf_tabDrop _ _
    | exact tabWf_filter _
    | intro _
    | exact Nat.zero_le _
    | with_reducible apply State.when_kept
    | with_reducible apply State.capTake_kept
    | with_reducible apply State.capDrop_kept
    | with_reducible apply Kept.ite
    | dsimp only
    | (split <;> (try (rename_i e; replace e := congrArg Prod.fst e; dsimp only at e; subst e)))
    | (refine Kept.same (t := ?_) ?_ (by dsimp only; rfl) (by with_reducible rfl) (by with_reducible rfl) (by with_reducible rfl) (by with_reducible rfl) (by with_reducible rfl) (by with_reducible rfl) (by with_reducible rfl) (by with_reducible rfl) (by with_reducible rfl))

theorem State.capPost_kept {r : State} {s : State} (c : FrameCtx) (last : Bool) (hK : Kept r s) : Kept r (State.capPost s c last) := by
  unfold State.capPost
  repeat' first
    | with_reducible assumption
    | with_reducible exact Kept.refl _
    | exact id
    | exact tabWf_tabSet _ _
    | exact tabWf_tabDrop _ _
    | exact tabWf_filter _
    | intro _
    | exact Nat.zero_le _
    | with_reducible apply State.setCtx_kept
    | with_reducible apply Kept.ite
    | dsimp only
    | (split <;> (try (rename_i e; replace e := congrArg Prod.fst e; dsimp only at e; subst e)))
    | (refine Kept.same (t := ?_) ?_ (by dsimp only; rfl) (by with_reducible rfl) (by with_reducible rfl) (by with_reducible rfl) (by with_reducible rfl) (by with_reducible rfl) (by with_reducible rfl) (by with_reducible rfl) (by with_reducible rfl) (by with_reducible rfl))

theorem State.capEnd_kept {r : State} {s : State} (c : FrameCtx) (fault : ℕ) (hK : Kept r s) : Kept r (State.capEnd s c fault) := by
  unfold State.capEnd
  repeat' first
    | with_reducible assumption
    | with_reducible exact Kept.refl _
    | exact id
    | exact tabWf_tabSet _ _
    | exact tabWf_tabDrop _ _
    | exact tabWf_filter _
    | intro _
    | exact Nat.zero_le _
    | with_reducible apply State.delCtx_kept
    | with_reducible apply State.capPost_kept
    | with_reducible apply Kept.ite

theorem State.capBytes_kept {r : State} {s : State} (n : ℕ) (k : ℕ) (hK : Kept r s) : Kept r (State.capBytes s n k) := by
  unfold State.capBytes
  repeat' first
    | with_reducible assumption
    | with_reducible exact Kept.refl _
    | exact id
    | exact tabWf_tabSet _ _
    | exact tabWf_tabDrop _ _
    | exact tabWf_filter _
    | intro _
    | exact Nat.zero_le _
    | with_reducible apply State.sliceCount_kept
    | with_reducible apply Kept.ite
    | dsimp only
    | (split <;> (try (rename_i e; replace e := congrArg Prod.fst e; dsimp only at e; subst e)))
    | (refine Kept.same (t := ?_) ?_ (by dsimp only; rfl) (by with_reducible rfl) (by with_reducible rfl) (by with_reducible rfl) (by with_reducible rfl) (by with_reducible rfl) (by with_reducible rfl) (by with_reducible rfl) (by with_reducible rfl) (by with_reducible rfl))

theorem State.dmaStash_kept {r : State} {s : State} (n : ℕ) (c : ℕ) (x1 : ℕ) (x2 : ℕ) (x3 : List Byte) (hK : Kept r s) : Kept r (State.dmaStash s n c x1 x2 x3).1 := by
  induction x1 generalizing s n c x2 x3 with
  | zero =>
    unfold State.dmaStash
    repeat' first
      | with_reducible assumption
  | succ m ih =>
    unfold State.dmaStash
    repeat' first
      | with_reducible assumption
      | with_reducible exact Kept.refl _
      | with_reducible apply ih
      | exact id
      | exact tabWf_tabSet _ _
      | exact tabWf_tabDrop _ _
      | exact tabWf_filter _
      | intro _
      | exact Nat.zero_le _
      | with_reducible apply State.sliceCount_kept
      | with_reducible apply State.stashLine_kept
      | with_reducible apply State.memWrite_kept
      | with_reducible apply State.dmaAddr_kept
      | with_reducible apply Kept.ite
      | dsimp only
      | (split <;> (try (rename_i e; replace e := congrArg Prod.fst e; dsimp only at e; subst e)))

theorem State.capWrite_kept {r : State} {s : State} (n : ℕ) (hint : Option ℕ) (iova : ℕ) (bs : List Byte) (hK : Kept r s) : Kept r (State.capWrite s n hint iova bs).1 := by
  unfold State.capWrite
  repeat' first
    | with_reducible assumption
    | with_reducible exact Kept.refl _
    | exact id
    | exact tabWf_tabSet _ _
    | exact tabWf_tabDrop _ _
    | exact tabWf_filter _
    | intro _
    | exact Nat.zero_le _
    | with_reducible apply State.dmaWrite_kept
    | with_reducible apply State.dmaStash_kept
    | with_reducible apply Kept.ite
    | dsimp only
    | (split <;> (try (rename_i e; replace e := congrArg Prod.fst e; dsimp only at e; subst e)))

theorem State.capFeed_kept {r : State} {s : State} (c : FrameCtx) (x1 : ℕ) (x2 : List Byte) (hK : Kept r s) : Kept r (State.capFeed s c x1 x2) := by
  induction x1 generalizing s c x2 with
  | zero =>
    unfold State.capFeed
    repeat' first
      | with_reducible assumption
  | succ m ih =>
    unfold State.capFeed
    repeat' first
      | with_reducible assumption
      | with_reducible exact Kept.refl _
      | with_reducible apply ih
      | exact id
      | exact tabWf_tabSet _ _
      | exact tabWf_tabDrop _ _
      | exact tabWf_filter _
      | intro _
      | exact Nat.zero_le _
      | with_reducible apply State.sliceCount_kept
      | with_reducible apply State.capTake_kept
      | with_reducible apply State.setCtx_kept
      | with_reducible apply State.capPost_kept
      | with_reducible apply State.capBytes_kept
      | with_reducible apply State.capWrite_kept
      | with_reducible apply Kept.ite
      | dsimp only
      | (split <;> (try (rename_i e; replace e := congrArg Prod.fst e; dsimp only at e; subst e)))

theorem State.capUnit_kept {r : State} {s : State} (c : FrameCtx) (fault : ℕ) (bs : List Byte) (hK : Kept r s) : Kept r (State.capUnit s c fault bs) := by
  unfold State.capUnit
  repeat' first
    | with_reducible assumption
    | with_reducible exact Kept.refl _
    | exact id
    | exact tabWf_tabSet _ _
    | exact tabWf_tabDrop _ _
    | exact tabWf_filter _
    | intro _
    | exact Nat.zero_le _
    | with_reducible apply State.setCtx_kept
    | with_reducible apply State.capFeed_kept
    | with_reducible apply Kept.ite

theorem State.capSingle_kept {r : State} {s : State} (n : ℕ) (i : ℕ) (stamp : Stamp) (srcinfo : ℕ) (fault : ℕ) (bs : List Byte) (hK : Kept r s) : Kept r (State.capSingle s n i stamp srcinfo fault bs) := by
  unfold State.capSingle
  repeat' first
    | with_reducible assumption
    | with_reducible exact Kept.refl _
    | exact id
    | exact tabWf_tabSet _ _
    | exact tabWf_tabDrop _ _
    | exact tabWf_filter _
    | intro _
    | exact Nat.zero_le _
    | with_reducible apply State.capOpen_kept
    | with_reducible apply State.capEnd_kept
    | with_reducible apply State.capUnit_kept

theorem State.csiStart_kept {r : State} {s : State} (pv : ℕ) (stamp : Stamp) (num : ℕ) (hK : Kept r s) : Kept r (State.csiStart s pv stamp num) := by
  unfold State.csiStart
  repeat' first
    | with_reducible assumption
    | with_reducible exact Kept.refl _
    | exact id
    | exact tabWf_tabSet _ _
    | exact tabWf_tabDrop _ _
    | exact tabWf_filter _
    | intro _
    | exact Nat.zero_le _
    | with_reducible apply State.each_kept
    | with_reducible apply State.capOpen_kept
    | with_reducible apply State.capEnd_kept
    | with_reducible apply Kept.ite
    | dsimp only
    | (split <;> (try (rename_i e; replace e := congrArg Prod.fst e; dsimp only at e; subst e)))

theorem State.csiPacket_kept {r : State} {s : State} (p : ℕ) (vc : ℕ) (dt : ℕ) (data : List Byte) (hdrErr : Bool) (crcErr : Bool) (lost : Bool) (stamp : Stamp) (hK : Kept r s) : Kept r (State.csiPacket s p vc dt data hdrErr crcErr lost stamp) := by
  unfold State.csiPacket
  repeat' first
    | with_reducible assumption
    | with_reducible exact Kept.refl _
    | exact id
    | exact tabWf_tabSet _ _
    | exact tabWf_tabDrop _ _
    | exact tabWf_filter _
    | intro _
    | exact Nat.zero_le _
    | with_reducible apply State.inc_kept
    | with_reducible apply State.each_kept
    | with_reducible apply State.when_kept
    | with_reducible apply State.miss_kept
    | with_reducible apply State.classify_kept
    | with_reducible apply State.capEnd_kept
    | with_reducible apply State.capUnit_kept
    | with_reducible apply State.capSingle_kept
    | with_reducible apply State.csiStart_kept
    | with_reducible apply Kept.ite
    | dsimp only
    | (split <;> (try (rename_i e; replace e := congrArg Prod.fst e; dsimp only at e; subst e)))

theorem State.canUnit_kept {r : State} {s : State} (c : ℕ) (f : CanFrame) (stamp : Stamp) (hK : Kept r s) : Kept r (State.canUnit s c f stamp) := by
  unfold State.canUnit
  repeat' first
    | with_reducible assumption
    | with_reducible exact Kept.refl _
    | exact id
    | exact tabWf_tabSet _ _
    | exact tabWf_tabDrop _ _
    | exact tabWf_filter _
    | intro _
    | exact Nat.zero_le _
    | with_reducible apply State.classify_kept
    | with_reducible apply State.capSingle_kept
    | with_reducible apply Kept.ite
    | dsimp only
    | (split <;> (try (rename_i e; replace e := congrArg Prod.fst e; dsimp only at e; subst e)))

theorem State.pinUnit_kept {r : State} {s : State} (p : ℕ) (rising : Bool) (stamp : Stamp) (hK : Kept r s) : Kept r (State.pinUnit s p rising stamp) := by
  unfold State.pinUnit
  repeat' first
    | with_reducible assumption
    | with_reducible exact Kept.refl _
    | exact id
    | exact tabWf_tabSet _ _
    | exact tabWf_tabDrop _ _
    | exact tabWf_filter _
    | intro _
    | exact Nat.zero_le _
    | with_reducible apply State.classify_kept
    | with_reducible apply State.capSingle_kept
    | with_reducible apply Kept.ite
    | dsimp only
    | (split <;> (try (rename_i e; replace e := congrArg Prod.fst e; dsimp only at e; subst e)))

theorem State.fwdUnit_kept {r : State} {s : State} (n : ℕ) (u : FwdUnit) (hK : Kept r s) : Kept r (State.fwdUnit s n u).1 := by
  unfold State.fwdUnit
  repeat' first
    | with_reducible assumption
    | with_reducible exact Kept.refl _
    | exact id
    | exact tabWf_tabSet _ _
    | exact tabWf_tabDrop _ _
    | exact tabWf_filter _
    | intro _
    | exact Nat.zero_le _
    | with_reducible apply State.put_kept
    | with_reducible apply State.inc_kept
    | with_reducible apply Kept.ite
    | dsimp only
    | (split <;> (try (rename_i e; replace e := congrArg Prod.fst e; dsimp only at e; subst e)))
    | (refine Kept.same (t := ?_) ?_ (by dsimp only; rfl) (by with_reducible rfl) (by with_reducible rfl) (by with_reducible rfl) (by with_reducible rfl) (by with_reducible rfl) (by with_reducible rfl) (by with_reducible rfl) (by with_reducible rfl) (by with_reducible rfl))

theorem State.csiForward_kept {r : State} {s : State} (p : ℕ) (vc : ℕ) (dt : ℕ) (data : List Byte) (crcErr : Bool) (stamp : Stamp) (hK : Kept r s) : Kept r (State.csiForward s p vc dt data crcErr stamp).1 := by
  unfold State.csiForward
  repeat' first
    | with_reducible assumption
    | with_reducible exact Kept.refl _
    | exact id
    | exact tabWf_tabSet _ _
    | exact tabWf_tabDrop _ _
    | exact tabWf_filter _
    | intro _
    | exact Nat.zero_le _
    | with_reducible apply State.fwdUnit_kept
    | with_reducible apply Kept.ite
    | dsimp only
    | (split <;> (try (rename_i e; replace e := congrArg Prod.fst e; dsimp only at e; subst e)))

theorem State.ethForward_kept {r : State} {s : State} (vid : ℕ) (b : List Byte) (fcsErr : Bool) (stamp : Stamp) (hK : Kept r s) : Kept r (State.ethForward s vid b fcsErr stamp).1 := by
  unfold State.ethForward
  repeat' first
    | with_reducible assumption
    | with_reducible exact Kept.refl _
    | exact id
    | exact tabWf_tabSet _ _
    | exact tabWf_tabDrop _ _
    | exact tabWf_filter _
    | intro _
    | exact Nat.zero_le _
    | with_reducible apply State.fwdUnit_kept
    | with_reducible apply Kept.ite
    | dsimp only
    | (split <;> (try (rename_i e; replace e := congrArg Prod.fst e; dsimp only at e; subst e)))

theorem State.ethLookup_kept {r : State} {s : State} (vid : ℕ) (b : List Byte) (hK : Kept r s) : Kept r (State.ethLookup s vid b).1 := by
  unfold State.ethLookup
  repeat' first
    | with_reducible assumption
    | with_reducible exact Kept.refl _
    | exact id
    | exact tabWf_tabSet _ _
    | exact tabWf_tabDrop _ _
    | exact tabWf_filter _
    | intro _
    | exact Nat.zero_le _
    | with_reducible apply State.classify_kept
    | with_reducible apply Kept.ite
    | dsimp only
    | (split <;> (try (rename_i e; replace e := congrArg Prod.fst e; dsimp only at e; subst e)))

theorem State.ethCapture_kept {r : State} {s : State} (n : ℕ) (i : ℕ) (e : ℕ) (port : ℕ) (b : List Byte) (fcsErr : Bool) (ipErr : Bool) (stamp : Stamp) (hK : Kept r s) : Kept r (State.ethCapture s n i e port b fcsErr ipErr stamp) := by
  unfold State.ethCapture
  repeat' first
    | with_reducible assumption
    | with_reducible exact Kept.refl _
    | exact id
    | exact tabWf_tabSet _ _
    | exact tabWf_tabDrop _ _
    | exact tabWf_filter _
    | intro _
    | exact Nat.zero_le _
    | with_reducible apply State.inc_kept
    | with_reducible apply State.setCtx_kept
    | with_reducible apply State.capOpen_kept
    | with_reducible apply State.capEnd_kept
    | with_reducible apply State.capUnit_kept
    | with_reducible apply State.capSingle_kept
    | with_reducible apply Kept.ite
    | dsimp only
    | (split <;> (try (rename_i e; replace e := congrArg Prod.fst e; dsimp only at e; subst e)))

theorem State.deadlineArm_kept {r : State} {s : State} (d : PendDesc) (frame : ℕ) (hK : Kept r s) : Kept r (State.deadlineArm s d frame) := by
  unfold State.deadlineArm
  repeat' first
    | with_reducible assumption
    | with_reducible exact Kept.refl _
    | exact id
    | exact tabWf_tabSet _ _
    | exact tabWf_tabDrop _ _
    | exact tabWf_filter _
    | intro _
    | exact Nat.zero_le _
    | with_reducible apply State.raise_kept
    | with_reducible apply State.inc_kept
    | with_reducible apply State.when_kept
    | with_reducible apply State.arm_kept
    | with_reducible apply Kept.ite
    | dsimp only
    | (split <;> (try (rename_i e; replace e := congrArg Prod.fst e; dsimp only at e; subst e)))
    | (refine Kept.same (t := ?_) ?_ (by dsimp only; rfl) (by with_reducible rfl) (by with_reducible rfl) (by with_reducible rfl) (by with_reducible rfl) (by with_reducible rfl) (by with_reducible rfl) (by with_reducible rfl) (by with_reducible rfl) (by with_reducible rfl))

theorem State.frameDone_kept {r : State} {s : State} (d : PendDesc) (frame : ℕ) (hK : Kept r s) : Kept r (State.frameDone s d frame) := by
  unfold State.frameDone
  repeat' first
    | with_reducible assumption
    | with_reducible exact Kept.refl _
    | exact id
    | exact tabWf_tabSet _ _
    | exact tabWf_tabDrop _ _
    | exact tabWf_filter _
    | intro _
    | exact Nat.zero_le _
    | with_reducible apply State.inc_kept
    | with_reducible apply State.when_kept
    | with_reducible apply State.sliceCount_kept
    | with_reducible apply State.ldgAccept_kept
    | with_reducible apply State.expectUpdate_kept
    | with_reducible apply State.setStt_kept
    | with_reducible apply State.deadlineArm_kept

theorem State.descWrite_kept {r : State} {s : State} (i : ℕ) (hK : Kept r s) : Kept r (State.descWrite s i) := by
  unfold State.descWrite
  repeat' first
    | with_reducible assumption
    | with_reducible exact Kept.refl _
    | exact id
    | exact tabWf_tabSet _ _
    | exact tabWf_tabDrop _ _
    | exact tabWf_filter _
    | intro _
    | exact Nat.zero_le _
    | with_reducible apply State.put_kept
    | with_reducible apply State.when_kept
    | with_reducible apply State.complPost_kept
    | with_reducible apply State.capStop_kept
    | with_reducible apply State.capBytes_kept
    | with_reducible apply State.capWrite_kept
    | with_reducible apply State.frameDone_kept
    | with_reducible apply Kept.ite
    | dsimp only
    | (split <;> (try (rename_i e; replace e := congrArg Prod.fst e; dsimp only at e; subst e)))
    | (refine Kept.same (t := ?_) ?_ (by dsimp only; rfl) (by with_reducible rfl) (by with_reducible rfl) (by with_reducible rfl) (by with_reducible rfl) (by with_reducible rfl) (by with_reducible rfl) (by with_reducible rfl) (by with_reducible rfl) (by with_reducible rfl))

theorem State.capRingEn_kept {r : State} {s : State} (n : ℕ) (r0 : ℕ) (en : Bool) (hK : Kept r s) : Kept r (State.capRingEn s n r0 en) := by
  unfold State.capRingEn
  repeat' first
    | with_reducible assumption
    | with_reducible exact Kept.refl _
    | exact id
    | exact tabWf_tabSet _ _
    | exact tabWf_tabDrop _ _
    | exact tabWf_filter _
    | intro _
    | exact Nat.zero_le _
    | with_reducible apply State.wr_kept
    | with_reducible apply State.put_kept
    | with_reducible apply Kept.ite
    | dsimp only
    | (split <;> (try (rename_i e; replace e := congrArg Prod.fst e; dsimp only at e; subst e)))
    | (refine Kept.same (t := ?_) ?_ (by dsimp only; rfl) (by with_reducible rfl) (by with_reducible rfl) (by with_reducible rfl) (by with_reducible rfl) (by with_reducible rfl) (by with_reducible rfl) (by with_reducible rfl) (by with_reducible rfl) (by with_reducible rfl))

/-! ### Machine/VTime -/

theorem State.domTicks_kept {r : State} {s : State} (n : ℕ) (d : ℕ) (hK : Kept r s) : Kept r (State.domTicks s n d) := by
  unfold State.domTicks
  repeat' first
    | with_reducible assumption
    | with_reducible exact Kept.refl _
    | exact id
    | exact tabWf_tabSet _ _
    | exact tabWf_tabDrop _ _
    | exact tabWf_filter _
    | intro _
    | exact Nat.zero_le _
    | with_reducible apply State.setTdom_kept

theorem State.tkCycles_kept {r : State} {s : State} (n : ℕ) (hK : Kept r s) : Kept r (State.tkCycles s n) := by
  unfold State.tkCycles
  repeat' first
    | with_reducible assumption
    | with_reducible exact Kept.refl _
    | exact id
    | exact tabWf_tabSet _ _
    | exact tabWf_tabDrop _ _
    | exact tabWf_filter _
    | intro _
    | exact Nat.zero_le _
    | with_reducible apply State.each_kept
    | with_reducible apply State.updHart_kept

theorem State.tick_kept {r : State} {s : State} (n : ℕ) (hK : Kept r s) : Kept r (State.tick s n) := by
  unfold State.tick
  repeat' first
    | with_reducible assumption
    | with_reducible exact Kept.refl _
    | exact id
    | exact tabWf_tabSet _ _
    | exact tabWf_tabDrop _ _
    | exact tabWf_filter _
    | intro _
    | exact Nat.zero_le _
    | with_reducible apply State.each_kept
    | with_reducible apply State.dogTicks_kept
    | with_reducible apply State.domTicks_kept
    | with_reducible apply State.tkCycles_kept
    | with_reducible apply Kept.ite
    | dsimp only
    | (split <;> (try (rename_i e; replace e := congrArg Prod.fst e; dsimp only at e; subst e)))
    | (refine Kept.same (t := ?_) ?_ (by dsimp only; rfl) (by with_reducible rfl) (by with_reducible rfl) (by with_reducible rfl) (by with_reducible rfl) (by with_reducible rfl) (by with_reducible rfl) (by with_reducible rfl) (by with_reducible rfl) (by with_reducible rfl))

theorem State.vtSnap_kept {r : State} {s : State} (hK : Kept r s) : Kept r (State.vtSnap s) := by
  unfold State.vtSnap
  repeat' first
    | with_reducible assumption
    | with_reducible exact Kept.refl _
    | exact id
    | exact tabWf_tabSet _ _
    | exact tabWf_tabDrop _ _
    | exact tabWf_filter _
    | intro _
    | exact Nat.zero_le _
    | with_reducible apply State.wr_kept
    | with_reducible apply State.each_kept

theorem State.setRate_kept {r : State} {s : State} (d : ℕ) (v : ℕ) (hK : Kept r s) : Kept r (State.setRate s d v) := by
  unfold State.setRate
  repeat' first
    | with_reducible assumption
    | with_reducible exact Kept.refl _
    | exact id
    | exact tabWf_tabSet _ _
    | exact tabWf_tabDrop _ _
    | exact tabWf_filter _
    | intro _
    | exact Nat.zero_le _
    | with_reducible apply State.put_kept
    | with_reducible apply State.raise_kept
    | with_reducible apply State.when_kept

theorem State.slewDiscard_kept {r : State} {s : State} (d : ℕ) (hK : Kept r s) : Kept r (State.slewDiscard s d) := by
  unfold State.slewDiscard
  repeat' first
    | with_reducible assumption
    | with_reducible exact Kept.refl _
    | exact id
    | exact tabWf_tabSet _ _
    | exact tabWf_tabDrop _ _
    | exact tabWf_filter _
    | intro _
    | exact Nat.zero_le _
    | with_reducible apply State.put_kept
    | with_reducible apply State.when_kept
    | with_reducible apply State.setTdom_kept

theorem State.slewStart_kept {r : State} {s : State} (d : ℕ) (off : ℤ) (ppm : ℕ) (hK : Kept r s) : Kept r (State.slewStart s d off ppm) := by
  unfold State.slewStart
  repeat' first
    | with_reducible assumption
    | with_reducible exact Kept.refl _
    | exact id
    | exact tabWf_tabSet _ _
    | exact tabWf_tabDrop _ _
    | exact tabWf_filter _
    | intro _
    | exact Nat.zero_le _
    | with_reducible apply State.put_kept
    | with_reducible apply State.setTdom_kept
    | with_reducible apply State.slewDiscard_kept

theorem State.jumpAccept_kept {r : State} {s : State} (d : ℕ) (j : Jump) (hK : Kept r s) : Kept r (State.jumpAccept s d j) := by
  unfold State.jumpAccept
  repeat' first
    | with_reducible assumption
    | with_reducible exact Kept.refl _
    | exact id
    | exact tabWf_tabSet _ _
    | exact tabWf_tabDrop _ _
    | exact tabWf_filter _
    | intro _
    | exact Nat.zero_le _
    | with_reducible apply State.put_kept
    | with_reducible apply State.setTdom_kept
    | with_reducible apply State.slewDiscard_kept

theorem State.vtRefused_kept {r : State} {s : State} (d : ℕ) (w : World) (requester : ℕ) (port : ℕ) (hK : Kept r s) : Kept r (State.vtRefused s d w requester port) := by
  unfold State.vtRefused
  repeat' first
    | with_reducible assumption
    | with_reducible exact Kept.refl _
    | exact id
    | exact tabWf_tabSet _ _
    | exact tabWf_tabDrop _ _
    | exact tabWf_filter _
    | intro _
    | exact Nat.zero_le _
    | with_reducible apply State.sherd_kept

/-- A capture FIFO with room for what it holds may be put back. -/
theorem State.setPin_kept {r s : State} (n : Nat) (v : PinSt) (hv : (s.pin n).fifo.length ≤ 16 → v.fifo.length ≤ 16) (hK : Kept r s) :
    Kept r (s.setPin n v) := by
  refine hK.parts rfl (fun _ => Nat.le_refl _) id id id id id id (fun h k => ?_) id
  simp only [State.setPin, tabGet_tabSet]
  split
  · exact hv (h n)
  · exact h k

theorem State.genAlign_kept {r : State} {s : State} (n : ℕ) (hK : Kept r s) : Kept r (State.genAlign s n) := by
  unfold State.genAlign
  repeat' first
    | with_reducible assumption
    | with_reducible exact Kept.refl _
    | exact id
    | exact tabWf_tabSet _ _
    | exact tabWf_tabDrop _ _
    | exact tabWf_filter _
    | intro _
    | exact Nat.zero_le _
    | with_reducible apply State.setPin_kept

theorem State.jumpApply_kept {r : State} {s : State} (d : ℕ) (j : Jump) (hK : Kept r s) : Kept r (State.jumpApply s d j).1 := by
  unfold State.jumpApply
  repeat' first
    | with_reducible assumption
    | with_reducible exact Kept.refl _
    | exact id
    | exact tabWf_tabSet _ _
    | exact tabWf_tabDrop _ _
    | exact tabWf_filter _
    | intro _
    | exact Nat.zero_le _
    | with_reducible apply State.wr_kept
    | with_reducible apply State.put_kept
    | with_reducible apply State.raise_kept
    | with_reducible apply State.inc_kept
    | with_reducible apply State.each_kept
    | with_reducible apply State.when_kept
    | with_reducible apply State.setTdom_kept
    | with_reducible apply State.ldgAccept_kept
    | with_reducible apply State.vtRefused_kept
    | with_reducible apply State.genAlign_kept
    | with_reducible apply Kept.ite
    | dsimp only
    | (split <;> (try (rename_i e; replace e := congrArg Prod.fst e; dsimp only at e; subst e)))
    | (refine Kept.same (t := ?_) ?_ (by dsimp only; rfl) (by with_reducible rfl) (by with_reducible rfl) (by with_reducible rfl) (by with_reducible rfl) (by with_reducible rfl) (by with_reducible rfl) (by with_reducible rfl) (by with_reducible rfl) (by with_reducible rfl))

theorem State.discGo_kept {r : State} {s : State} (a : Agent) (d : ℕ) (op : ℕ) (ppm : ℕ) (hK : Kept r s) : Kept r (State.discGo s a d op ppm) := by
  unfold State.discGo
  repeat' first
    | with_reducible assumption
    | with_reducible exact Kept.refl _
    | exact id
    | exact tabWf_tabSet _ _
    | exact tabWf_tabDrop _ _
    | exact tabWf_filter _
    | intro _
    | exact Nat.zero_le _
    | with_reducible apply State.res_kept
    | with_reducible apply State.when_kept
    | with_reducible apply State.slewStart_kept
    | with_reducible apply State.jumpAccept_kept
    | with_reducible apply State.vtRefused_kept
    | with_reducible apply Kept.ite

theorem State.rateWrite_kept {r : State} {s : State} (d : ℕ) (v : ℕ) (hK : Kept r s) : Kept r (State.rateWrite s d v) := by
  unfold State.rateWrite
  repeat' first
    | with_reducible assumption
    | with_reducible exact Kept.refl _
    | exact id
    | exact tabWf_tabSet _ _
    | exact tabWf_tabDrop _ _
    | exact tabWf_filter _
    | intro _
    | exact Nat.zero_le _
    | with_reducible apply State.res_kept
    | with_reducible apply State.setRate_kept
    | with_reducible apply Kept.ite

theorem State.setTState_kept {r : State} {s : State} (d : ℕ) (new : ℕ) (hK : Kept r s) : Kept r (State.setTState s d new) := by
  unfold State.setTState
  repeat' first
    | with_reducible assumption
    | with_reducible exact Kept.refl _
    | exact id
    | exact tabWf_tabSet _ _
    | exact tabWf_tabDrop _ _
    | exact tabWf_filter _
    | intro _
    | exact Nat.zero_le _
    | with_reducible apply State.put_kept
    | with_reducible apply State.raise_kept
    | with_reducible apply State.when_kept
    | with_reducible apply State.setTdom_kept
    | with_reducible apply State.ldgAccept_kept
    | with_reducible apply Kept.ite

theorem State.discCtl_kept {r : State} {s : State} (d : ℕ) (mode : Bool) (preset : ℕ) (sw : ℕ) (hK : Kept r s) : Kept r (State.discCtl s d mode preset sw) := by
  unfold State.discCtl
  repeat' first
    | with_reducible assumption
    | with_reducible exact Kept.refl _
    | exact id
    | exact tabWf_tabSet _ _
    | exact tabWf_tabDrop _ _
    | exact tabWf_filter _
    | intro _
    | exact Nat.zero_le _
    | with_reducible apply State.put_kept
    | with_reducible apply State.when_kept
    | with_reducible apply State.setTState_kept
    | with_reducible apply Kept.ite

theorem State.servoJump_kept {r : State} {s : State} (d : ℕ) (off : ℤ) (hK : Kept r s) : Kept r (State.servoJump s d off) := by
  unfold State.servoJump
  repeat' first
    | with_reducible assumption
    | with_reducible exact Kept.refl _
    | exact id
    | exact tabWf_tabSet _ _
    | exact tabWf_tabDrop _ _
    | exact tabWf_filter _
    | intro _
    | exact Nat.zero_le _
    | with_reducible apply State.jumpAccept_kept
    | with_reducible apply State.vtRefused_kept
    | with_reducible apply Kept.ite

theorem State.servoSlew_kept {r : State} {s : State} (d : ℕ) (off : ℤ) (hK : Kept r s) : Kept r (State.servoSlew s d off) := by
  unfold State.servoSlew
  repeat' first
    | with_reducible assumption
    | with_reducible exact Kept.refl _
    | exact id
    | exact tabWf_tabSet _ _
    | exact tabWf_tabDrop _ _
    | exact tabWf_filter _
    | intro _
    | exact Nat.zero_le _
    | with_reducible apply State.slewStart_kept
    | with_reducible apply Kept.ite

theorem State.servoRate_kept {r : State} {s : State} (d : ℕ) (off : ℤ) (hK : Kept r s) : Kept r (State.servoRate s d off) := by
  unfold State.servoRate
  repeat' first
    | with_reducible assumption
    | with_reducible exact Kept.refl _
    | exact id
    | exact tabWf_tabSet _ _
    | exact tabWf_tabDrop _ _
    | exact tabWf_filter _
    | intro _
    | exact Nat.zero_le _
    | with_reducible apply State.setTdom_kept
    | with_reducible apply State.setRate_kept

theorem State.syncCount_kept {r : State} {s : State} (d : ℕ) (hit : Bool) (hK : Kept r s) : Kept r (State.syncCount s d hit).1 := by
  unfold State.syncCount
  repeat' first
    | with_reducible assumption
    | with_reducible exact Kept.refl _
    | exact id
    | exact tabWf_tabSet _ _
    | exact tabWf_tabDrop _ _
    | exact tabWf_filter _
    | intro _
    | exact Nat.zero_le _
    | with_reducible apply State.setTdom_kept

theorem State.servo_kept {r : State} {s : State} (d : ℕ) (off : ℤ) (hK : Kept r s) : Kept r (State.servo s d off) := by
  unfold State.servo
  repeat' first
    | with_reducible assumption
    | with_reducible exact Kept.refl _
    | exact id
    | exact tabWf_tabSet _ _
    | exact tabWf_tabDrop _ _
    | exact tabWf_filter _
    | intro _
    | exact Nat.zero_le _
    | with_reducible apply State.put_kept
    | with_reducible apply State.setTdom_kept
    | with_reducible apply State.setTState_kept
    | with_reducible apply State.servoJump_kept
    | with_reducible apply State.servoSlew_kept
    | with_reducible apply State.servoRate_kept
    | with_reducible apply State.syncCount_kept
    | with_reducible apply Kept.ite

theorem State.rateFreeze_kept {r : State} {s : State} (d : ℕ) (hK : Kept r s) : Kept r (State.rateFreeze s d) := by
  unfold State.rateFreeze
  repeat' first
    | with_reducible assumption
    | with_reducible exact Kept.refl _
    | exact id
    | exact tabWf_tabSet _ _
    | exact tabWf_tabDrop _ _
    | exact tabWf_filter _
    | intro _
    | exact Nat.zero_le _
    | with_reducible apply State.setRate_kept
    | with_reducible apply Kept.ite

theorem State.setGm_kept {r : State} {s : State} (d : ℕ) (gm : Bool) (hK : Kept r s) : Kept r (State.setGm s d gm) := by
  unfold State.setGm
  repeat' first
    | with_reducible assumption
    | with_reducible exact Kept.refl _
    | exact id
    | exact tabWf_tabSet _ _
    | exact tabWf_tabDrop _ _
    | exact tabWf_filter _
    | intro _
    | exact Nat.zero_le _
    | with_reducible apply State.put_kept
    | with_reducible apply State.when_kept
    | with_reducible apply State.setTdom_kept
    | with_reducible apply State.setTState_kept
    | with_reducible apply Kept.ite

theorem State.ptpSelect_kept {r : State} {s : State} (d : ℕ) (hK : Kept r s) : Kept r (State.ptpSelect s d) := by
  unfold State.ptpSelect
  repeat' first
    | with_reducible assumption
    | with_reducible exact Kept.refl _
    | exact id
    | exact tabWf_tabSet _ _
    | exact tabWf_tabDrop _ _
    | exact tabWf_filter _
    | intro _
    | exact Nat.zero_le _
    | with_reducible apply State.put_kept
    | with_reducible apply State.each_kept
    | with_reducible apply State.setGm_kept
    | with_reducible apply Kept.ite
    | dsimp only
    | (split <;> (try (rename_i e; replace e := congrArg Prod.fst e; dsimp only at e; subst e)))

theorem State.ptpSelectAll_kept {r : State} {s : State} (hK : Kept r s) : Kept r (State.ptpSelectAll s) := by
  unfold State.ptpSelectAll
  repeat' first
    | with_reducible assumption
    | with_reducible exact Kept.refl _
    | exact id
    | exact tabWf_tabSet _ _
    | exact tabWf_tabDrop _ _
    | exact tabWf_filter _
    | intro _
    | exact Nat.zero_le _
    | with_reducible apply State.each_kept
    | with_reducible apply State.ptpSelect_kept

theorem State.ptpSend_kept {r : State} {s : State} (p : ℕ) (m : GptpSent) (hK : Kept r s) : Kept r (State.ptpSend s p m) := by
  unfold State.ptpSend
  repeat' first
    | with_reducible assumption
    | with_reducible exact Kept.refl _
    | exact id
    | exact tabWf_tabSet _ _
    | exact tabWf_tabDrop _ _
    | exact tabWf_filter _
    | intro _
    | exact Nat.zero_le _
    | with_reducible apply Kept.ite
    | dsimp only
    | (split <;> (try (rename_i e; replace e := congrArg Prod.fst e; dsimp only at e; subst e)))
    | (refine Kept.same (t := ?_) ?_ (by dsimp only; rfl) (by with_reducible rfl) (by with_reducible rfl) (by with_reducible rfl) (by with_reducible rfl) (by with_reducible rfl) (by with_reducible rfl) (by with_reducible rfl) (by with_reducible rfl) (by with_reducible rfl))

theorem State.setIntv_kept {r : State} {s : State} (p : ℕ) (d : ℕ) (k : ℕ) (v : Option (BitVec 8)) (hK : Kept r s) : Kept r (State.setIntv s p d k v) := by
  unfold State.setIntv
  repeat' first
    | with_reducible assumption
    | with_reducible exact Kept.refl _
    | exact id
    | exact tabWf_tabSet _ _
    | exact tabWf_tabDrop _ _
    | exact tabWf_filter _
    | intro _
    | exact Nat.zero_le _
    | with_reducible apply Kept.ite
    | dsimp only
    | (split <;> (try (rename_i e; replace e := congrArg Prod.fst e; dsimp only at e; subst e)))
    | (refine Kept.same (t := ?_) ?_ (by dsimp only; rfl) (by with_reducible rfl) (by with_reducible rfl) (by with_reducible rfl) (by with_reducible rfl) (by with_reducible rfl) (by with_reducible rfl) (by with_reducible rfl) (by with_reducible rfl) (by with_reducible rfl))

theorem State.syncMeasured_kept {r : State} {s : State} (p : ℕ) (d : ℕ) (stamp : ℕ) (origin : ℕ) (corr : ℤ) (hK : Kept r s) : Kept r (State.syncMeasured s p d stamp origin corr) := by
  unfold State.syncMeasured
  repeat' first
    | with_reducible assumption
    | with_reducible exact Kept.refl _
    | exact id
    | exact tabWf_tabSet _ _
    | exact tabWf_tabDrop _ _
    | exact tabWf_filter _
    | intro _
    | exact Nat.zero_le _
    | with_reducible apply State.setTdom_kept
    | with_reducible apply State.servo_kept

theorem State.vtLoad_kept {r s : State} (hK : Kept r s) : Kept r s.vtLoad := by
  unfold State.vtLoad
  dsimp only
  refine State.put_kept _ _ (State.each_kept _ _
    (hK.parts rfl (fun _ => Nat.le_refl _) id id id id id id (fun _ _ => Nat.zero_le _) id) fun d t => ?_)
  exact State.put_kept _ _ (State.put_kept _ _ (State.setTdom_kept _ _ (Kept.refl t)))

/-! ### Machine/Pins -/

theorem State.pinDrive_kept {r : State} {s : State} (n : ℕ) (active : Bool) (hK : Kept r s) : Kept r (State.pinDrive s n active) := by
  unfold State.pinDrive
  repeat' first
    | with_reducible assumption
    | with_reducible exact Kept.refl _
    | exact id
    | exact tabWf_tabSet _ _
    | exact tabWf_tabDrop _ _
    | exact tabWf_filter _
    | intro _
    | exact Nat.zero_le _
    | with_reducible apply State.setPin_kept

theorem State.pinLevels_kept {r : State} {s : State} (n : ℕ) (set : Bool) (clr : Bool) (hK : Kept r s) : Kept r (State.pinLevels s n set clr) := by
  unfold State.pinLevels
  repeat' first
    | with_reducible assumption
    | with_reducible exact Kept.refl _
    | exact id
    | exact tabWf_tabSet _ _
    | exact tabWf_tabDrop _ _
    | exact tabWf_filter _
    | intro _
    | exact Nat.zero_le _
    | with_reducible apply State.pinDrive_kept
    | with_reducible apply Kept.ite

theorem State.pinEdge_kept {r : State} {s : State} (n : ℕ) (active : Bool) (hK : Kept r s) : Kept r (State.pinEdge s n active) := by
  unfold State.pinEdge
  repeat' first
    | with_reducible assumption
    | with_reducible exact Kept.refl _
    | exact id
    | exact tabWf_tabSet _ _
    | exact tabWf_tabDrop _ _
    | exact tabWf_filter _
    | intro _
    | exact Nat.zero_le _
    | with_reducible apply State.inc_kept
    | with_reducible apply State.pinDrive_kept
    | with_reducible apply Kept.ite

theorem State.pinPulse_kept {r : State} {s : State} (n : ℕ) (i : ℕ) (t : ℕ) (hK : Kept r s) : Kept r (State.pinPulse s n i t).1 := by
  unfold State.pinPulse
  repeat' first
    | with_reducible assumption
    | with_reducible exact Kept.refl _
    | exact id
    | exact tabWf_tabSet _ _
    | exact tabWf_tabDrop _ _
    | exact tabWf_filter _
    | intro _
    | exact Nat.zero_le _
    | with_reducible apply State.inc_kept
    | with_reducible apply State.wheelFinish_kept
    | with_reducible apply State.setPin_kept
    | with_reducible apply Kept.ite
    | dsimp only
    | (split <;> (try (rename_i e; replace e := congrArg Prod.fst e; dsimp only at e; subst e)))

theorem State.genRun_kept {r : State} {s : State} (n : ℕ) (run : Bool) (hK : Kept r s) : Kept r (State.genRun s n run) := by
  unfold State.genRun
  repeat' first
    | with_reducible assumption
    | with_reducible exact Kept.refl _
    | exact id
    | exact tabWf_tabSet _ _
    | exact tabWf_tabDrop _ _
    | exact tabWf_filter _
    | intro _
    | exact Nat.zero_le _
    | with_reducible apply State.put_kept
    | with_reducible apply State.setPin_kept
    | with_reducible apply Kept.ite

theorem State.genParam_kept {r : State} {s : State} (n : ℕ) (k : GenParam) (v : ℕ) (hK : Kept r s) : Kept r (State.genParam s n k v) := by
  unfold State.genParam
  repeat' first
    | with_reducible assumption
    | with_reducible exact Kept.refl _
    | exact id
    | exact tabWf_tabSet _ _
    | exact tabWf_tabDrop _ _
    | exact tabWf_filter _
    | intro _
    | exact Nat.zero_le _
    | with_reducible apply State.put_kept
    | with_reducible apply State.genAlign_kept
    | with_reducible apply Kept.ite

theorem State.captureEdge_kept {r s : State} (n : Nat) (rising : Bool) (phase : Nat) (hK : Kept r s) :
    Kept r (s.captureEdge n rising phase) := by
  unfold State.captureEdge
  refine State.pinUnit_kept _ _ _ (State.when_kept _ _ ?_ fun t => State.ldgAccept_kept _ (Kept.refl t))
  split
  · exact State.put_kept _ _ (State.setPin_kept _ _ id hK)
  · rename_i hl
    refine State.raise_kept _ _ (State.put_kept _ _ (State.setPin_kept _ _ (fun _ => ?_) hK))
    rw [ge_iff_le, Nat.not_le] at hl
    rw [List.length_append]
    exact hl

theorem State.pinEdgeSeen_kept {r : State} {s : State} (n : ℕ) (rising : Bool) (phase : ℕ) (stableNs : ℕ) (hK : Kept r s) : Kept r (State.pinEdgeSeen s n rising phase stableNs) := by
  unfold State.pinEdgeSeen
  repeat' first
    | with_reducible assumption
    | with_reducible exact Kept.refl _
    | exact id
    | exact tabWf_tabSet _ _
    | exact tabWf_tabDrop _ _
    | exact tabWf_filter _
    | intro _
    | exact Nat.zero_le _
    | with_reducible apply State.setPin_kept
    | with_reducible apply State.captureEdge_kept
    | with_reducible apply Kept.ite

theorem State.capPop_kept {r s : State} (n : Nat) (hK : Kept r s) : Kept r (s.capPop n).1 := by
  unfold State.capPop
  split
  · exact hK
  · rename_i hl
    refine State.put_kept _ _ (State.setPin_kept _ _ (fun h => ?_) hK)
    rw [hl, List.length_cons] at h
    exact Nat.le_of_succ_le h

end Sys2Proof.Machine
end

