-- ==== Sys2Proof/Laws/KeptNet.lean ====
section
/-! SUPPORT. What no operation of the gates, the switch, the links, the FIRE commands, the memory commands, the ledger commands and the epochs does: each keeps the queue of commands, sets no burnt
step of the lifecycle back and keeps the storage invariant (`Kept`). -/

set_option linter.unusedTactic false
set_option linter.unreachableTactic false
set_option linter.unusedVariables false

namespace Sys2Proof.Machine
open Sys2Proof

/-! ### Machine/Gates -/

theorem State.setQueue_kept {r : State} {s : State} (p : ℕ) (q : ℕ) (l : List QFrame) (hK : Kept r s) : Kept r (State.setQueue s p q l) := by
  unfold State.setQueue
  repeat' first
    | with_reducible assumption
    | with_reducible exact Kept.refl _
    | exact id
    | exact tabWf_tabSet _ _
    | exact tabWf_tabDrop _ _
    | exact tabWf_filter _
    | intro _
    | exact Nat.zero_le _
    | with_reducible apply Kept.ite
    | dsimp only
    | (split <;> (try (rename_i e; replace e := congrArg Prod.fst e; dsimp only at e; subst e)))
    | (refine Kept.same (t := ?_) ?_ (by dsimp only; rfl) (by with_reducible rfl) (by with_reducible rfl) (by with_reducible rfl) (by with_reducible rfl) (by with_reducible rfl) (by with_reducible rfl) (by with_reducible rfl) (by with_reducible rfl) (by with_reducible rfl))

theorem State.setTx_kept {r : State} {s : State} (p : ℕ) (t : Option TxFrame) (hK : Kept r s) : Kept r (State.setTx s p t) := by
  unfold State.setTx
  repeat' first
    | with_reducible assumption
    | with_reducible exact Kept.refl _
    | exact id
    | exact tabWf_tabSet _ _
    | exact tabWf_tabDrop _ _
    | exact tabWf_filter _
    | intro _
    | exact Nat.zero_le _
    | with_reducible apply Kept.ite
    | dsimp only
    | (split <;> (try (rename_i e; replace e := congrArg Prod.fst e; dsimp only at e; subst e)))
    | (refine Kept.same (t := ?_) ?_ (by dsimp only; rfl) (by with_reducible rfl) (by with_reducible rfl) (by with_reducible rfl) (by with_reducible rfl) (by with_reducible rfl) (by with_reducible rfl) (by with_reducible rfl) (by with_reducible rfl) (by with_reducible rfl))

theorem State.setGcl_kept {r : State} {s : State} (p : ℕ) (g : GclSt) (hK : Kept r s) : Kept r (State.setGcl s p g) := by
  unfold State.setGcl
  repeat' first
    | with_reducible assumption
    | with_reducible exact Kept.refl _
    | exact id
    | exact tabWf_tabSet _ _
    | exact tabWf_tabDrop _ _
    | exact tabWf_filter _
    | intro _
    | exact Nat.zero_le _
    | with_reducible apply Kept.ite
    | dsimp only
    | (split <;> (try (rename_i e; replace e := congrArg Prod.fst e; dsimp only at e; subst e)))
    | (refine Kept.same (t := ?_) ?_ (by dsimp only; rfl) (by with_reducible rfl) (by with_reducible rfl) (by with_reducible rfl) (by with_reducible rfl) (by with_reducible rfl) (by with_reducible rfl) (by with_reducible rfl) (by with_reducible rfl) (by with_reducible rfl))

theorem State.setCredit_kept {r : State} {s : State} (p : ℕ) (q : ℕ) (c : ℤ) (hK : Kept r s) : Kept r (State.setCredit s p q c) := by
  unfold State.setCredit
  repeat' first
    | with_reducible assumption
    | with_reducible exact Kept.refl _
    | exact id
    | exact tabWf_tabSet _ _
    | exact tabWf_tabDrop _ _
    | exact tabWf_filter _
    | intro _
    | exact Nat.zero_le _
    | with_reducible apply Kept.ite
    | dsimp only
    | (split <;> (try (rename_i e; replace e := congrArg Prod.fst e; dsimp only at e; subst e)))
    | (refine Kept.same (t := ?_) ?_ (by dsimp only; rfl) (by with_reducible rfl) (by with_reducible rfl) (by with_reducible rfl) (by with_reducible rfl) (by with_reducible rfl) (by with_reducible rfl) (by with_reducible rfl) (by with_reducible rfl) (by with_reducible rfl))

theorem State.creditUp_kept {r : State} {s : State} (p : ℕ) (hK : Kept r s) : Kept r (State.creditUp s p) := by
  unfold State.creditUp
  repeat' first
    | with_reducible assumption
    | with_reducible exact Kept.refl _
    | exact id
    | exact tabWf_tabSet _ _
    | exact tabWf_tabDrop _ _
    | exact tabWf_filter _
    | intro _
    | exact Nat.zero_le _
    | with_reducible apply State.each_kept
    | with_reducible apply State.setCredit_kept
    | with_reducible apply Kept.ite

theorem State.injDone_kept {r : State} {s : State} (p : ℕ) (ref : Option InjRef) (st : Status) (unparked : Bool) (stamp : Option Stamp) (hK : Kept r s) : Kept r (State.injDone s p ref st unparked stamp) := by
  unfold State.injDone
  repeat' first
    | with_reducible assumption
    | with_reducible exact Kept.refl _
    | exact id
    | exact tabWf_tabSet _ _
    | exact tabWf_tabDrop _ _
    | exact tabWf_filter _
    | intro _
    | exact Nat.zero_le _
    | with_reducible apply State.when_kept
    | with_reducible apply State.portCount_kept
    | with_reducible apply Kept.ite
    | dsimp only
    | (split <;> (try (rename_i e; replace e := congrArg Prod.fst e; dsimp only at e; subst e)))
    | (refine Kept.same (t := ?_) ?_ (by dsimp only; rfl) (by with_reducible rfl) (by with_reducible rfl) (by with_reducible rfl) (by with_reducible rfl) (by with_reducible rfl) (by with_reducible rfl) (by with_reducible rfl) (by with_reducible rfl) (by with_reducible rfl))

theorem State.dequeue_kept {r : State} {s : State} (p : ℕ) (q : ℕ) (hK : Kept r s) : Kept r (State.dequeue s p q) := by
  unfold State.dequeue
  repeat' first
    | with_reducible assumption
    | with_reducible exact Kept.refl _
    | exact id
    | exact tabWf_tabSet _ _
    | exact tabWf_tabDrop _ _
    | exact tabWf_filter _
    | intro _
    | exact Nat.zero_le _
    | with_reducible apply State.setQueue_kept
    | with_reducible apply Kept.ite
    | dsimp only
    | (split <;> (try (rename_i e; replace e := congrArg Prod.fst e; dsimp only at e; subst e)))

theorem State.enqueue_kept {r : State} {s : State} (p : ℕ) (q : ℕ) (f : QFrame) (hK : Kept r s) : Kept r (State.enqueue s p q f) := by
  unfold State.enqueue
  repeat' first
    | with_reducible assumption
    | with_reducible exact Kept.refl _
    | exact id
    | exact tabWf_tabSet _ _
    | exact tabWf_tabDrop _ _
    | exact tabWf_filter _
    | intro _
    | exact Nat.zero_le _
    | with_reducible apply State.setQueue_kept
    | with_reducible apply State.creditUp_kept

theorem State.launch_kept {r : State} {s : State} (p : ℕ) (q : ℕ) (tag : ℕ) (entry : ℕ) (hK : Kept r s) : Kept r (State.launch s p q tag entry).1 := by
  unfold State.launch
  repeat' first
    | with_reducible assumption
    | with_reducible exact Kept.refl _
    | exact id
    | exact tabWf_tabSet _ _
    | exact tabWf_tabDrop _ _
    | exact tabWf_filter _
    | intro _
    | exact Nat.zero_le _
    | with_reducible apply State.portCount_kept
    | with_reducible apply Kept.ite
    | dsimp only
    | (split <;> (try (rename_i e; replace e := congrArg Prod.fst e; dsimp only at e; subst e)))
    | (refine Kept.same (t := ?_) ?_ (by dsimp only; rfl) (by with_reducible rfl) (by with_reducible rfl) (by with_reducible rfl) (by with_reducible rfl) (by with_reducible rfl) (by with_reducible rfl) (by with_reducible rfl) (by with_reducible rfl) (by with_reducible rfl))

theorem State.egressStart_kept {r : State} {s : State} (p : ℕ) (phase : ℕ) (hK : Kept r s) : Kept r (State.egressStart s p phase) := by
  unfold State.egressStart
  repeat' first
    | with_reducible assumption
    | with_reducible exact Kept.refl _
    | exact id
    | exact tabWf_tabSet _ _
    | exact tabWf_tabDrop _ _
    | exact tabWf_filter _
    | intro _
    | exact Nat.zero_le _
    | with_reducible apply State.wheelFinish_kept
    | with_reducible apply State.setTx_kept
    | with_reducible apply State.creditUp_kept
    | with_reducible apply State.dequeue_kept
    | with_reducible apply Kept.ite
    | dsimp only
    | (split <;> (try (rename_i e; replace e := congrArg Prod.fst e; dsimp only at e; subst e)))
    | (refine Kept.same (t := ?_) ?_ (by dsimp only; rfl) (by with_reducible rfl) (by with_reducible rfl) (by with_reducible rfl) (by with_reducible rfl) (by with_reducible rfl) (by with_reducible rfl) (by with_reducible rfl) (by with_reducible rfl) (by with_reducible rfl))

theorem State.egressEnd_kept {r : State} {s : State} (p : ℕ) (hK : Kept r s) : Kept r (State.egressEnd s p) := by
  unfold State.egressEnd
  repeat' first
    | with_reducible assumption
    | with_reducible exact Kept.refl _
    | exact id
    | exact tabWf_tabSet _ _
    | exact tabWf_tabDrop _ _
    | exact tabWf_filter _
    | intro _
    | exact Nat.zero_le _
    | with_reducible apply State.portCount_kept
    | with_reducible apply State.setTx_kept
    | with_reducible apply State.creditUp_kept
    | with_reducible apply State.injDone_kept
    | with_reducible apply Kept.ite
    | dsimp only
    | (split <;> (try (rename_i e; replace e := congrArg Prod.fst e; dsimp only at e; subst e)))

theorem State.gclMove_kept {r : State} {s : State} (p : ℕ) (hK : Kept r s) : Kept r (State.gclMove s p) := by
  unfold State.gclMove
  repeat' first
    | with_reducible assumption
    | with_reducible exact Kept.refl _
    | exact id
    | exact tabWf_tabSet _ _
    | exact tabWf_tabDrop _ _
    | exact tabWf_filter _
    | intro _
    | exact Nat.zero_le _
    | with_reducible apply State.put_kept
    | with_reducible apply State.creditUp_kept

theorem State.gateOverrun_kept {r : State} {s : State} (p : ℕ) (hK : Kept r s) : Kept r (State.gateOverrun s p) := by
  unfold State.gateOverrun
  repeat' first
    | with_reducible assumption
    | with_reducible exact Kept.refl _
    | exact id
    | exact tabWf_tabSet _ _
    | exact tabWf_tabDrop _ _
    | exact tabWf_filter _
    | intro _
    | exact Nat.zero_le _
    | with_reducible apply State.raise_kept
    | with_reducible apply State.each_kept
    | with_reducible apply State.portCount_kept
    | with_reducible apply State.injDone_kept
    | with_reducible apply State.dequeue_kept
    | with_reducible apply Kept.ite
    | dsimp only
    | (split <;> (try (rename_i e; replace e := congrArg Prod.fst e; dsimp only at e; subst e)))

theorem State.gclChange_kept {r : State} {s : State} (p : ℕ) (hK : Kept r s) : Kept r (State.gclChange s p) := by
  unfold State.gclChange
  repeat' first
    | with_reducible assumption
    | with_reducible exact Kept.refl _
    | exact id
    | exact tabWf_tabSet _ _
    | exact tabWf_tabDrop _ _
    | exact tabWf_filter _
    | intro _
    | exact Nat.zero_le _
    | with_reducible apply State.put_kept
    | with_reducible apply State.res_kept
    | with_reducible apply State.setGcl_kept
    | with_reducible apply Kept.ite

theorem State.gclTake_kept {r : State} {s : State} (p : ℕ) (hK : Kept r s) : Kept r (State.gclTake s p) := by
  unfold State.gclTake
  repeat' first
    | with_reducible assumption
    | with_reducible exact Kept.refl _
    | exact id
    | exact tabWf_tabSet _ _
    | exact tabWf_tabDrop _ _
    | exact tabWf_filter _
    | intro _
    | exact Nat.zero_le _
    | with_reducible apply State.put_kept
    | with_reducible apply State.each_kept
    | with_reducible apply State.setGcl_kept
    | with_reducible apply State.creditUp_kept
    | with_reducible apply State.gclMove_kept
    | with_reducible apply Kept.ite
    | dsimp only
    | (split <;> (try (rename_i e; replace e := congrArg Prod.fst e; dsimp only at e; subst e)))

theorem State.gclJump_kept {r : State} {s : State} (d : ℕ) (hK : Kept r s) : Kept r (State.gclJump s d) := by
  unfold State.gclJump
  repeat' first
    | with_reducible assumption
    | with_reducible exact Kept.refl _
    | exact id
    | exact tabWf_tabSet _ _
    | exact tabWf_tabDrop _ _
    | exact tabWf_filter _
    | intro _
    | exact Nat.zero_le _
    | with_reducible apply State.each_kept
    | with_reducible apply State.gclMove_kept
    | with_reducible apply State.gclTake_kept
    | with_reducible apply Kept.ite

/-! ### Machine/Switch -/

theorem State.vlanWrite_kept {r : State} {s : State} (v : ℕ) (hK : Kept r s) : Kept r (State.vlanWrite s v) := by
  unfold State.vlanWrite
  repeat' first
    | with_reducible assumption
    | with_reducible exact Kept.refl _
    | exact id
    | exact tabWf_tabSet _ _
    | exact tabWf_tabDrop _ _
    | exact tabWf_filter _
    | intro _
    | exact Nat.zero_le _
    | with_reducible apply Kept.ite
    | dsimp only
    | (split <;> (try (rename_i e; replace e := congrArg Prod.fst e; dsimp only at e; subst e)))
    | (refine Kept.same (t := ?_) ?_ (by dsimp only; rfl) (by with_reducible rfl) (by with_reducible rfl) (by with_reducible rfl) (by with_reducible rfl) (by with_reducible rfl) (by with_reducible rfl) (by with_reducible rfl) (by with_reducible rfl) (by with_reducible rfl))

theorem State.setFdb_kept {r : State} {s : State} (l : List FdbEntry) (hK : Kept r s) : Kept r (State.setFdb s l) := by
  unfold State.setFdb
  repeat' first
    | with_reducible assumption
    | with_reducible exact Kept.refl _
    | exact id
    | exact tabWf_tabSet _ _
    | exact tabWf_tabDrop _ _
    | exact tabWf_filter _
    | intro _
    | exact Nat.zero_le _
    | with_reducible apply Kept.ite
    | dsimp only
    | (split <;> (try (rename_i e; replace e := congrArg Prod.fst e; dsimp only at e; subst e)))
    | (refine Kept.same (t := ?_) ?_ (by dsimp only; rfl) (by with_reducible rfl) (by with_reducible rfl) (by with_reducible rfl) (by with_reducible rfl) (by with_reducible rfl) (by with_reducible rfl) (by with_reducible rfl) (by with_reducible rfl) (by with_reducible rfl))

theorem State.fdbPut_kept {r : State} {s : State} (e : FdbEntry) (hK : Kept r s) : Kept r (State.fdbPut s e).1 := by
  unfold State.fdbPut
  repeat' first
    | with_reducible assumption
    | with_reducible exact Kept.refl _
    | exact id
    | exact tabWf_tabSet _ _
    | exact tabWf_tabDrop _ _
    | exact tabWf_filter _
    | intro _
    | exact Nat.zero_le _
    | with_reducible apply State.tookFree_kept
    | with_reducible apply State.setFdb_kept
    | with_reducible apply Kept.ite
    | dsimp only
    | (split <;> (try (rename_i e; replace e := congrArg Prod.fst e; dsimp only at e; subst e)))

theorem State.fdbLearn_kept {r : State} {s : State} (p : ℕ) (mac : ℕ) (vid : ℕ) (hK : Kept r s) : Kept r (State.fdbLearn s p mac vid) := by
  unfold State.fdbLearn
  repeat' first
    | with_reducible assumption
    | with_reducible exact Kept.refl _
    | exact id
    | exact tabWf_tabSet _ _
    | exact tabWf_tabDrop _ _
    | exact tabWf_filter _
    | intro _
    | exact Nat.zero_le _
    | with_reducible apply State.fdbPut_kept
    | with_reducible apply Kept.ite

theorem State.fdbCmd_kept {r : State} {s : State} (op : ℕ) (hK : Kept r s) : Kept r (State.fdbCmd s op) := by
  unfold State.fdbCmd
  repeat' first
    | with_reducible assumption
    | with_reducible exact Kept.refl _
    | exact id
    | exact tabWf_tabSet _ _
    | exact tabWf_tabDrop _ _
    | exact tabWf_filter _
    | intro _
    | exact Nat.zero_le _
    | with_reducible apply State.wr_kept
    | with_reducible apply State.res_kept
    | with_reducible apply State.setFdb_kept
    | with_reducible apply State.fdbPut_kept
    | with_reducible apply Kept.ite
    | dsimp only
    | (split <;> (try (rename_i e; replace e := congrArg Prod.fst e; dsimp only at e; subst e)))

theorem State.meter_kept {r : State} {s : State} (m : ℕ) (len : ℕ) (hK : Kept r s) : Kept r (State.meter s m len).1 := by
  unfold State.meter
  repeat' first
    | with_reducible assumption
    | with_reducible exact Kept.refl _
    | exact id
    | exact tabWf_tabSet _ _
    | exact tabWf_tabDrop _ _
    | exact tabWf_filter _
    | intro _
    | exact Nat.zero_le _
    | with_reducible apply State.put_kept
    | with_reducible apply State.when_kept
    | with_reducible apply Kept.ite
    | dsimp only
    | (split <;> (try (rename_i e; replace e := congrArg Prod.fst e; dsimp only at e; subst e)))
    | (refine Kept.same (t := ?_) ?_ (by dsimp only; rfl) (by with_reducible rfl) (by with_reducible rfl) (by with_reducible rfl) (by with_reducible rfl) (by with_reducible rfl) (by with_reducible rfl) (by with_reducible rfl) (by with_reducible rfl) (by with_reducible rfl))

theorem State.filter_kept {r : State} {s : State} (p : ℕ) (e : ℕ) (b : List Byte) (hK : Kept r s) : Kept r (State.filter s p e b).1 := by
  unfold State.filter
  repeat' first
    | with_reducible assumption
    | with_reducible exact Kept.refl _
    | exact id
    | exact tabWf_tabSet _ _
    | exact tabWf_tabDrop _ _
    | exact tabWf_filter _
    | intro _
    | exact Nat.zero_le _
    | with_reducible apply State.put_kept
    | with_reducible apply State.inc_kept
    | with_reducible apply State.when_kept
    | with_reducible apply State.portCount_kept
    | with_reducible apply State.meter_kept
    | with_reducible apply Kept.ite
    | dsimp only
    | (split <;> (try (rename_i e; replace e := congrArg Prod.fst e; dsimp only at e; subst e)))

theorem State.setFrer_kept {r : State} {s : State} (f : ℕ) (v : FrerSt) (hK : Kept r s) : Kept r (State.setFrer s f v) := by
  unfold State.setFrer
  repeat' first
    | with_reducible assumption
    | with_reducible exact Kept.refl _
    | exact id
    | exact tabWf_tabSet _ _
    | exact tabWf_tabDrop _ _
    | exact tabWf_filter _
    | intro _
    | exact Nat.zero_le _
    | with_reducible apply Kept.ite
    | dsimp only
    | (split <;> (try (rename_i e; replace e := congrArg Prod.fst e; dsimp only at e; subst e)))
    | (refine Kept.same (t := ?_) ?_ (by dsimp only; rfl) (by with_reducible rfl) (by with_reducible rfl) (by with_reducible rfl) (by with_reducible rfl) (by with_reducible rfl) (by with_reducible rfl) (by with_reducible rfl) (by with_reducible rfl) (by with_reducible rfl))

theorem State.frerRecover_kept {r : State} {s : State} (p : ℕ) (f : ℕ) (seq : ℕ) (hK : Kept r s) : Kept r (State.frerRecover s p f seq).1 := by
  unfold State.frerRecover
  repeat' first
    | with_reducible assumption
    | with_reducible exact Kept.refl _
    | exact id
    | exact tabWf_tabSet _ _
    | exact tabWf_tabDrop _ _
    | exact tabWf_filter _
    | intro _
    | exact Nat.zero_le _
    | with_reducible apply State.inc_kept
    | with_reducible apply State.when_kept
    | with_reducible apply State.portCount_kept
    | with_reducible apply State.setFrer_kept
    | with_reducible apply Kept.ite
    | dsimp only
    | (split <;> (try (rename_i e; replace e := congrArg Prod.fst e; dsimp only at e; subst e)))

theorem State.egressCopy_kept {r : State} {s : State} (e : ℕ) (f : Fwd) (hK : Kept r s) : Kept r (State.egressCopy s e f).1 := by
  unfold State.egressCopy
  repeat' first
    | with_reducible assumption
    | with_reducible exact Kept.refl _
    | exact id
    | exact tabWf_tabSet _ _
    | exact tabWf_tabDrop _ _
    | exact tabWf_filter _
    | intro _
    | exact Nat.zero_le _
    | with_reducible apply State.raise_kept
    | with_reducible apply State.when_kept
    | with_reducible apply State.portCount_kept
    | with_reducible apply State.enqueue_kept
    | with_reducible apply Kept.ite
    | dsimp only
    | (split <;> (try (rename_i e; replace e := congrArg Prod.fst e; dsimp only at e; subst e)))

theorem State.egressAll_kept {r : State} {s : State} (f : Fwd) (mask : ℕ) (hK : Kept r s) : Kept r (State.egressAll s f mask).1 := by
  unfold State.egressAll
  repeat' first
    | with_reducible assumption
    | with_reducible exact Kept.refl _
    | exact id
    | exact tabWf_tabSet _ _
    | exact tabWf_tabDrop _ _
    | exact tabWf_filter _
    | intro _
    | exact Nat.zero_le _
    | with_reducible apply State.egressCopy_kept
    | with_reducible apply Kept.ite
    | with_reducible apply Kept.foldl
    | with_reducible apply Kept.foldlPair
    | dsimp only
    | (split <;> (try (rename_i e; replace e := congrArg Prod.fst e; dsimp only at e; subst e)))

theorem State.switch_kept {r : State} {s : State} (f : Fwd) (hK : Kept r s) : Kept r (State.switch s f).1 := by
  unfold State.switch
  repeat' first
    | with_reducible assumption
    | with_reducible exact Kept.refl _
    | exact id
    | exact tabWf_tabSet _ _
    | exact tabWf_tabDrop _ _
    | exact tabWf_filter _
    | intro _
    | exact Nat.zero_le _
    | with_reducible apply State.when_kept
    | with_reducible apply State.portCount_kept
    | with_reducible apply State.setFrer_kept
    | with_reducible apply State.frerRecover_kept
    | with_reducible apply State.egressAll_kept
    | with_reducible apply Kept.ite
    | dsimp only
    | (split <;> (try (rename_i e; replace e := congrArg Prod.fst e; dsimp only at e; subst e)))

theorem State.ethClassify_kept {r : State} {s : State} (p : ℕ) (b : List Byte) (fcsErr : Bool) (ipErr : Bool) (stamp : Stamp) (hK : Kept r s) : Kept r (State.ethClassify s p b fcsErr ipErr stamp) := by
  unfold State.ethClassify
  repeat' first
    | with_reducible assumption
    | with_reducible exact Kept.refl _
    | exact id
    | exact tabWf_tabSet _ _
    | exact tabWf_tabDrop _ _
    | exact tabWf_filter _
    | intro _
    | exact Nat.zero_le _
    | with_reducible apply State.portCount_kept
    | with_reducible apply State.ethForward_kept
    | with_reducible apply State.ethLookup_kept
    | with_reducible apply State.ethCapture_kept
    | with_reducible apply State.fdbLearn_kept
    | with_reducible apply State.filter_kept
    | with_reducible apply State.switch_kept
    | with_reducible apply Kept.ite
    | dsimp only
    | (split <;> (try (rename_i e; replace e := congrArg Prod.fst e; dsimp only at e; subst e)))

theorem State.ethReceive_kept {r : State} {s : State} (p : ℕ) (b : List Byte) (fcsErr : Bool) (ipErr : Bool) (phase : ℕ) (hK : Kept r s) : Kept r (State.ethReceive s p b fcsErr ipErr phase) := by
  unfold State.ethReceive
  repeat' first
    | with_reducible assumption
    | with_reducible exact Kept.refl _
    | exact id
    | exact tabWf_tabSet _ _
    | exact tabWf_tabDrop _ _
    | exact tabWf_filter _
    | intro _
    | exact Nat.zero_le _
    | with_reducible apply State.inc_kept
    | with_reducible apply State.when_kept
    | with_reducible apply State.portCount_kept
    | with_reducible apply State.ethClassify_kept
    | with_reducible apply Kept.ite

theorem State.setInjStopped_kept {r : State} {s : State} (r0 : ℕ) (v : Bool) (hK : Kept r s) : Kept r (State.setInjStopped s r0 v) := by
  unfold State.setInjStopped
  repeat' first
    | with_reducible assumption
    | with_reducible exact Kept.refl _
    | exact id
    | exact tabWf_tabSet _ _
    | exact tabWf_tabDrop _ _
    | exact tabWf_filter _
    | intro _
    | exact Nat.zero_le _
    | with_reducible apply State.put_kept
    | with_reducible apply Kept.ite
    | dsimp only
    | (split <;> (try (rename_i e; replace e := congrArg Prod.fst e; dsimp only at e; subst e)))
    | (refine Kept.same (t := ?_) ?_ (by dsimp only; rfl) (by with_reducible rfl) (by with_reducible rfl) (by with_reducible rfl) (by with_reducible rfl) (by with_reducible rfl) (by with_reducible rfl) (by with_reducible rfl) (by with_reducible rfl) (by with_reducible rfl))

theorem State.injStop_kept {r : State} {s : State} (r0 : ℕ) (hK : Kept r s) : Kept r (State.injStop s r0) := by
  unfold State.injStop
  repeat' first
    | with_reducible assumption
    | with_reducible exact Kept.refl _
    | exact id
    | exact tabWf_tabSet _ _
    | exact tabWf_tabDrop _ _
    | exact tabWf_filter _
    | intro _
    | exact Nat.zero_le _
    | with_reducible apply State.raise_kept
    | with_reducible apply State.when_kept
    | with_reducible apply State.setInjStopped_kept

theorem State.injWrite_kept {r : State} {s : State} (d : InjDone) (hK : Kept r s) : Kept r (State.injWrite s d) := by
  unfold State.injWrite
  repeat' first
    | with_reducible assumption
    | with_reducible exact Kept.refl _
    | exact id
    | exact tabWf_tabSet _ _
    | exact tabWf_tabDrop _ _
    | exact tabWf_filter _
    | intro _
    | exact Nat.zero_le _
    | with_reducible apply State.raise_kept
    | with_reducible apply State.dmaWrite_kept
    | with_reducible apply State.injStop_kept
    | with_reducible apply Kept.ite
    | dsimp only
    | (split <;> (try (rename_i e; replace e := congrArg Prod.fst e; dsimp only at e; subst e)))

theorem State.injRefuse_kept {r : State} {s : State} (p : ℕ) (ref : InjRef) (st : Status) (hK : Kept r s) : Kept r (State.injRefuse s p ref st) := by
  unfold State.injRefuse
  repeat' first
    | with_reducible assumption
    | with_reducible exact Kept.refl _
    | exact id
    | exact tabWf_tabSet _ _
    | exact tabWf_tabDrop _ _
    | exact tabWf_filter _
    | intro _
    | exact Nat.zero_le _
    | with_reducible apply State.when_kept
    | with_reducible apply State.portCount_kept
    | with_reducible apply State.injWrite_kept

theorem State.injNext_kept {r : State} {s : State} (r0 : ℕ) (hK : Kept r s) : Kept r (State.injNext s r0) := by
  unfold State.injNext
  repeat' first
    | with_reducible assumption
    | with_reducible exact Kept.refl _
    | exact id
    | exact tabWf_tabSet _ _
    | exact tabWf_tabDrop _ _
    | exact tabWf_filter _
    | intro _
    | exact Nat.zero_le _
    | with_reducible apply State.put_kept

theorem State.injFetch_kept {r : State} {s : State} (r0 : ℕ) (hK : Kept r s) : Kept r (State.injFetch s r0).1 := by
  unfold State.injFetch
  repeat' first
    | with_reducible assumption
    | with_reducible exact Kept.refl _
    | exact id
    | exact tabWf_tabSet _ _
    | exact tabWf_tabDrop _ _
    | exact tabWf_filter _
    | intro _
    | exact Nat.zero_le _
    | with_reducible apply State.dmaRead_kept
    | with_reducible apply State.injStop_kept
    | with_reducible apply Kept.ite
    | dsimp only
    | (split <;> (try (rename_i e; replace e := congrArg Prod.fst e; dsimp only at e; subst e)))

theorem State.injBuf_kept {r : State} {s : State} (ref : InjRef) (hK : Kept r s) : Kept r (State.injBuf s ref).1 := by
  unfold State.injBuf
  repeat' first
    | with_reducible assumption
    | with_reducible exact Kept.refl _
    | exact id
    | exact tabWf_tabSet _ _
    | exact tabWf_tabDrop _ _
    | exact tabWf_filter _
    | intro _
    | exact Nat.zero_le _
    | with_reducible apply State.dmaRead_kept
    | with_reducible apply State.injStop_kept
    | with_reducible apply Kept.ite
    | dsimp only
    | (split <;> (try (rename_i e; replace e := congrArg Prod.fst e; dsimp only at e; subst e)))

theorem State.injTake_kept {r : State} {s : State} (r0 : ℕ) (hK : Kept r s) : Kept r (State.injTake s r0) := by
  unfold State.injTake
  repeat' first
    | with_reducible assumption
    | with_reducible exact Kept.refl _
    | exact id
    | exact tabWf_tabSet _ _
    | exact tabWf_tabDrop _ _
    | exact tabWf_filter _
    | intro _
    | exact Nat.zero_le _
    | with_reducible apply State.portCount_kept
    | with_reducible apply State.injDone_kept
    | with_reducible apply State.enqueue_kept
    | with_reducible apply State.switch_kept
    | with_reducible apply State.injRefuse_kept
    | with_reducible apply State.injNext_kept
    | with_reducible apply State.injFetch_kept
    | with_reducible apply State.injBuf_kept
    | with_reducible apply Kept.ite
    | dsimp only
    | (split <;> (try (rename_i e; replace e := congrArg Prod.fst e; dsimp only at e; subst e)))
    | (refine Kept.same (t := ?_) ?_ (by dsimp only; rfl) (by with_reducible rfl) (by with_reducible rfl) (by with_reducible rfl) (by with_reducible rfl) (by with_reducible rfl) (by with_reducible rfl) (by with_reducible rfl) (by with_reducible rfl) (by with_reducible rfl))

theorem State.injComplete_kept {r : State} {s : State} (r0 : ℕ) (hK : Kept r s) : Kept r (State.injComplete s r0) := by
  unfold State.injComplete
  repeat' first
    | with_reducible assumption
    | with_reducible exact Kept.refl _
    | exact id
    | exact tabWf_tabSet _ _
    | exact tabWf_tabDrop _ _
    | exact tabWf_filter _
    | intro _
    | exact Nat.zero_le _
    | with_reducible apply State.injWrite_kept
    | with_reducible apply Kept.ite
    | dsimp only
    | (split <;> (try (rename_i e; replace e := congrArg Prod.fst e; dsimp only at e; subst e)))
    | (refine Kept.same (t := ?_) ?_ (by dsimp only; rfl) (by with_reducible rfl) (by with_reducible rfl) (by with_reducible rfl) (by with_reducible rfl) (by with_reducible rfl) (by with_reducible rfl) (by with_reducible rfl) (by with_reducible rfl) (by with_reducible rfl))

theorem State.injEnWrite_kept {r : State} {s : State} (r0 : ℕ) (en : Bool) (hK : Kept r s) : Kept r (State.injEnWrite s r0 en) := by
  unfold State.injEnWrite
  repeat' first
    | with_reducible assumption
    | with_reducible exact Kept.refl _
    | exact id
    | exact tabWf_tabSet _ _
    | exact tabWf_tabDrop _ _
    | exact tabWf_filter _
    | intro _
    | exact Nat.zero_le _
    | with_reducible apply State.put_kept
    | with_reducible apply State.setInjStopped_kept
    | with_reducible apply Kept.ite

theorem State.unpark_kept {r : State} {s : State} (p : ℕ) (q : ℕ) (tag : ℕ) (hK : Kept r s) : Kept r (State.unpark s p q tag) := by
  unfold State.unpark
  repeat' first
    | with_reducible assumption
    | with_reducible exact Kept.refl _
    | exact id
    | exact tabWf_tabSet _ _
    | exact tabWf_tabDrop _ _
    | exact tabWf_filter _
    | intro _
    | exact Nat.zero_le _
    | with_reducible apply State.res_kept
    | with_reducible apply State.injDone_kept
    | with_reducible apply Kept.ite
    | dsimp only
    | (split <;> (try (rename_i e; replace e := congrArg Prod.fst e; dsimp only at e; subst e)))
    | (refine Kept.same (t := ?_) ?_ (by dsimp only; rfl) (by with_reducible rfl) (by with_reducible rfl) (by with_reducible rfl) (by with_reducible rfl) (by with_reducible rfl) (by with_reducible rfl) (by with_reducible rfl) (by with_reducible rfl) (by with_reducible rfl))

theorem State.unparkAll_kept {r : State} {s : State} (p : ℕ) (st : Status) (hK : Kept r s) : Kept r (State.unparkAll s p st) := by
  unfold State.unparkAll
  repeat' first
    | with_reducible assumption
    | with_reducible exact Kept.refl _
    | exact id
    | exact tabWf_tabSet _ _
    | exact tabWf_tabDrop _ _
    | exact tabWf_filter _
    | intro _
    | exact Nat.zero_le _
    | with_reducible apply State.each_kept
    | with_reducible apply State.wheelFinish_kept
    | with_reducible apply State.injDone_kept
    | with_reducible apply Kept.ite
    | dsimp only
    | (split <;> (try (rename_i e; replace e := congrArg Prod.fst e; dsimp only at e; subst e)))
    | (refine Kept.same (t := ?_) ?_ (by dsimp only; rfl) (by with_reducible rfl) (by with_reducible rfl) (by with_reducible rfl) (by with_reducible rfl) (by with_reducible rfl) (by with_reducible rfl) (by with_reducible rfl) (by with_reducible rfl) (by with_reducible rfl))

/-! ### Machine/Links -/

theorem State.linkDrop_kept {r : State} {s : State} (p : ℕ) (hK : Kept r s) : Kept r (State.linkDrop s p) := by
  unfold State.linkDrop
  repeat' first
    | with_reducible assumption
    | with_reducible exact Kept.refl _
    | exact id
    | exact tabWf_tabSet _ _
    | exact tabWf_tabDrop _ _
    | exact tabWf_filter _
    | intro _
    | exact Nat.zero_le _
    | with_reducible apply State.put_kept
    | with_reducible apply State.raise_kept
    | with_reducible apply State.portCount_kept
    | with_reducible apply State.unparkAll_kept
    | with_reducible apply Kept.ite

theorem State.tc10Sleep_kept {r : State} {s : State} (p : ℕ) (hK : Kept r s) : Kept r (State.tc10Sleep s p) := by
  unfold State.tc10Sleep
  repeat' first
    | with_reducible assumption
    | with_reducible exact Kept.refl _
    | exact id
    | exact tabWf_tabSet _ _
    | exact tabWf_tabDrop _ _
    | exact tabWf_filter _
    | intro _
    | exact Nat.zero_le _
    | with_reducible apply State.put_kept
    | with_reducible apply State.portCount_kept
    | with_reducible apply State.linkDrop_kept

theorem State.linkRise_kept {r : State} {s : State} (p : ℕ) (rate : ℕ) (master : Bool) (hK : Kept r s) : Kept r (State.linkRise s p rate master) := by
  unfold State.linkRise
  repeat' first
    | with_reducible assumption
    | with_reducible exact Kept.refl _
    | exact id
    | exact tabWf_tabSet _ _
    | exact tabWf_tabDrop _ _
    | exact tabWf_filter _
    | intro _
    | exact Nat.zero_le _
    | with_reducible apply State.put_kept
    | with_reducible apply State.raise_kept
    | with_reducible apply Kept.ite

theorem State.tc10Request_kept {r : State} {s : State} (p : ℕ) (hK : Kept r s) : Kept r (State.tc10Request s p) := by
  unfold State.tc10Request
  repeat' first
    | with_reducible assumption
    | with_reducible exact Kept.refl _
    | exact id
    | exact tabWf_tabSet _ _
    | exact tabWf_tabDrop _ _
    | exact tabWf_filter _
    | intro _
    | exact Nat.zero_le _
    | with_reducible apply State.put_kept
    | with_reducible apply Kept.ite

theorem State.tc10Wake_kept {r : State} {s : State} (p : ℕ) (hK : Kept r s) : Kept r (State.tc10Wake s p) := by
  unfold State.tc10Wake
  repeat' first
    | with_reducible assumption
    | with_reducible exact Kept.refl _
    | exact id
    | exact tabWf_tabSet _ _
    | exact tabWf_tabDrop _ _
    | exact tabWf_filter _
    | intro _
    | exact Nat.zero_le _
    | with_reducible apply State.put_kept
    | with_reducible apply Kept.ite

theorem State.tc10Fail_kept {r : State} {s : State} (p : ℕ) (hK : Kept r s) : Kept r (State.tc10Fail s p) := by
  unfold State.tc10Fail
  repeat' first
    | with_reducible assumption
    | with_reducible exact Kept.refl _
    | exact id
    | exact tabWf_tabSet _ _
    | exact tabWf_tabDrop _ _
    | exact tabWf_filter _
    | intro _
    | exact Nat.zero_le _
    | with_reducible apply State.put_kept
    | with_reducible apply State.raise_kept
    | with_reducible apply Kept.ite

theorem State.tc10Pulse_kept {r : State} {s : State} (p : ℕ) (hK : Kept r s) : Kept r (State.tc10Pulse s p) := by
  unfold State.tc10Pulse
  repeat' first
    | with_reducible assumption
    | with_reducible exact Kept.refl _
    | exact id
    | exact tabWf_tabSet _ _
    | exact tabWf_tabDrop _ _
    | exact tabWf_filter _
    | intro _
    | exact Nat.zero_le _
    | with_reducible apply State.put_kept
    | with_reducible apply State.raise_kept
    | with_reducible apply State.each_kept
    | with_reducible apply Kept.ite

theorem State.setBc_kept {r : State} {s : State} (n : ℕ) (l : List BcCmd) (hK : Kept r s) : Kept r (State.setBc s n l) := by
  unfold State.setBc
  repeat' first
    | with_reducible assumption
    | with_reducible exact Kept.refl _
    | exact id
    | exact tabWf_tabSet _ _
    | exact tabWf_tabDrop _ _
    | exact tabWf_filter _
    | intro _
    | exact Nat.zero_le _
    | with_reducible apply State.put_kept
    | with_reducible apply Kept.ite
    | dsimp only
    | (split <;> (try (rename_i e; replace e := congrArg Prod.fst e; dsimp only at e; subst e)))
    | (refine Kept.same (t := ?_) ?_ (by dsimp only; rfl) (by with_reducible rfl) (by with_reducible rfl) (by with_reducible rfl) (by with_reducible rfl) (by with_reducible rfl) (by with_reducible rfl) (by with_reducible rfl) (by with_reducible rfl) (by with_reducible rfl))

theorem State.bcEnd_kept {r : State} {s : State} (n : ℕ) (c : BcCmd) (st : Status) (rdata : ℕ) (hK : Kept r s) : Kept r (State.bcEnd s n c st rdata) := by
  unfold State.bcEnd
  repeat' first
    | with_reducible assumption
    | with_reducible exact Kept.refl _
    | exact id
    | exact tabWf_tabSet _ _
    | exact tabWf_tabDrop _ _
    | exact tabWf_filter _
    | intro _
    | exact Nat.zero_le _
    | with_reducible apply State.put_kept
    | with_reducible apply State.res_kept
    | with_reducible apply State.wheelFinish_kept
    | with_reducible apply Kept.ite
    | dsimp only
    | (split <;> (try (rename_i e; replace e := congrArg Prod.fst e; dsimp only at e; subst e)))

theorem State.bcCmd_kept {r : State} {s : State} (n : ℕ) (v : ℕ) (hK : Kept r s) : Kept r (State.bcCmd s n v) := by
  unfold State.bcCmd
  repeat' first
    | with_reducible assumption
    | with_reducible exact Kept.refl _
    | exact id
    | exact tabWf_tabSet _ _
    | exact tabWf_tabDrop _ _
    | exact tabWf_filter _
    | intro _
    | exact Nat.zero_le _
    | with_reducible apply State.res_kept
    | with_reducible apply State.setBc_kept
    | with_reducible apply State.bcEnd_kept
    | with_reducible apply Kept.ite

theorem State.bcWheel_kept {r : State} {s : State} (n : ℕ) (i : ℕ) (sub : ℕ) (arg : ℕ) (hK : Kept r s) : Kept r (State.bcWheel s n i sub arg).1 := by
  unfold State.bcWheel
  repeat' first
    | with_reducible assumption
    | with_reducible exact Kept.refl _
    | exact id
    | exact tabWf_tabSet _ _
    | exact tabWf_tabDrop _ _
    | exact tabWf_filter _
    | intro _
    | exact Nat.zero_le _
    | with_reducible apply State.setBc_kept
    | with_reducible apply Kept.ite
    | dsimp only
    | (split <;> (try (rename_i e; replace e := congrArg Prod.fst e; dsimp only at e; subst e)))

theorem State.gpioSet_kept {r : State} {s : State} (n : ℕ) (arg : ℕ) (hK : Kept r s) : Kept r (State.gpioSet s n arg) := by
  unfold State.gpioSet
  repeat' first
    | with_reducible assumption
    | with_reducible exact Kept.refl _
    | exact id
    | exact tabWf_tabSet _ _
    | exact tabWf_tabDrop _ _
    | exact tabWf_filter _
    | intro _
    | exact Nat.zero_le _
    | with_reducible apply Kept.ite
    | dsimp only
    | (split <;> (try (rename_i e; replace e := congrArg Prod.fst e; dsimp only at e; subst e)))
    | (refine Kept.same (t := ?_) ?_ (by dsimp only; rfl) (by with_reducible rfl) (by with_reducible rfl) (by with_reducible rfl) (by with_reducible rfl) (by with_reducible rfl) (by with_reducible rfl) (by with_reducible rfl) (by with_reducible rfl) (by with_reducible rfl))

theorem State.bcServe_kept {r : State} {s : State} (n : ℕ) (st : Status) (rdata : ℕ) (hK : Kept r s) : Kept r (State.bcServe s n st rdata) := by
  unfold State.bcServe
  repeat' first
    | with_reducible assumption
    | with_reducible exact Kept.refl _
    | exact id
    | exact tabWf_tabSet _ _
    | exact tabWf_tabDrop _ _
    | exact tabWf_filter _
    | intro _
    | exact Nat.zero_le _
    | with_reducible apply State.when_kept
    | with_reducible apply State.setBc_kept
    | with_reducible apply State.bcEnd_kept
    | with_reducible apply State.gpioSet_kept
    | with_reducible apply Kept.ite
    | dsimp only
    | (split <;> (try (rename_i e; replace e := congrArg Prod.fst e; dsimp only at e; subst e)))

theorem State.camDrop_kept {r : State} {s : State} (n : ℕ) (hK : Kept r s) : Kept r (State.camDrop s n) := by
  unfold State.camDrop
  repeat' first
    | with_reducible assumption
    | with_reducible exact Kept.refl _
    | exact id
    | exact tabWf_tabSet _ _
    | exact tabWf_tabDrop _ _
    | exact tabWf_filter _
    | intro _
    | exact Nat.zero_le _
    | with_reducible apply State.wr_kept
    | with_reducible apply State.each_kept
    | with_reducible apply State.setBc_kept
    | with_reducible apply State.bcEnd_kept

theorem State.canTake_kept {r : State} {s : State} (c : ℕ) (hK : Kept r s) : Kept r (State.canTake s c) := by
  unfold State.canTake
  repeat' first
    | with_reducible assumption
    | with_reducible exact Kept.refl _
    | exact id
    | exact tabWf_tabSet _ _
    | exact tabWf_tabDrop _ _
    | exact tabWf_filter _
    | intro _
    | exact Nat.zero_le _
    | with_reducible apply State.injRefuse_kept
    | with_reducible apply State.injNext_kept
    | with_reducible apply State.injFetch_kept
    | with_reducible apply State.injBuf_kept
    | with_reducible apply Kept.ite
    | dsimp only
    | (split <;> (try (rename_i e; replace e := congrArg Prod.fst e; dsimp only at e; subst e)))
    | (refine Kept.same (t := ?_) ?_ (by dsimp only; rfl) (by with_reducible rfl) (by with_reducible rfl) (by with_reducible rfl) (by with_reducible rfl) (by with_reducible rfl) (by with_reducible rfl) (by with_reducible rfl) (by with_reducible rfl) (by with_reducible rfl))

theorem State.canEnd_kept {r : State} {s : State} (c : ℕ) (st : Status) (stamp : Option Stamp) (hK : Kept r s) : Kept r (State.canEnd s c st stamp) := by
  unfold State.canEnd
  repeat' first
    | with_reducible assumption
    | with_reducible exact Kept.refl _
    | exact id
    | exact tabWf_tabSet _ _
    | exact tabWf_tabDrop _ _
    | exact tabWf_filter _
    | intro _
    | exact Nat.zero_le _
    | with_reducible apply State.injWrite_kept
    | with_reducible apply Kept.ite
    | dsimp only
    | (split <;> (try (rename_i e; replace e := congrArg Prod.fst e; dsimp only at e; subst e)))
    | (refine Kept.same (t := ?_) ?_ (by dsimp only; rfl) (by with_reducible rfl) (by with_reducible rfl) (by with_reducible rfl) (by with_reducible rfl) (by with_reducible rfl) (by with_reducible rfl) (by with_reducible rfl) (by with_reducible rfl) (by with_reducible rfl))

/-! ### Machine/Fire -/

theorem State.issue_kept {r : State} {s : State} (i : ℕ) (hK : Kept r s) : Kept r (State.issue s i) := by
  unfold State.issue
  repeat' first
    | with_reducible assumption
    | with_reducible exact Kept.refl _
    | exact id
    | exact tabWf_tabSet _ _
    | exact tabWf_tabDrop _ _
    | exact tabWf_filter _
    | intro _
    | exact Nat.zero_le _
    | with_reducible apply State.msiTo_kept
    | with_reducible apply State.wheelFinish_kept
    | with_reducible apply State.pinEdge_kept
    | with_reducible apply State.pinPulse_kept
    | with_reducible apply State.launch_kept
    | with_reducible apply State.bcWheel_kept
    | with_reducible apply Kept.ite

theorem State.fireIssue_kept {r : State} {s : State} (i : ℕ) (coarse : Bool) (jumped : Bool) (hK : Kept r s) : Kept r (State.fireIssue s i coarse jumped) := by
  unfold State.fireIssue
  repeat' first
    | with_reducible assumption
    | with_reducible exact Kept.refl _
    | exact id
    | exact tabWf_tabSet _ _
    | exact tabWf_tabDrop _ _
    | exact tabWf_filter _
    | intro _
    | exact Nat.zero_le _
    | with_reducible apply State.wheelFire_kept
    | with_reducible apply State.issue_kept
    | with_reducible apply Kept.ite

theorem State.armIssue_kept {r : State} {s : State} (q : ArmReq) (hK : Kept r s) : Kept r (State.armIssue s q).1 := by
  unfold State.armIssue
  repeat' first
    | with_reducible assumption
    | with_reducible exact Kept.refl _
    | exact id
    | exact tabWf_tabSet _ _
    | exact tabWf_tabDrop _ _
    | exact tabWf_filter _
    | intro _
    | exact Nat.zero_le _
    | with_reducible apply State.arm_kept
    | with_reducible apply State.issue_kept
    | with_reducible apply Kept.ite

theorem State.jumpTick_kept {r : State} {s : State} (d : ℕ) (hK : Kept r s) : Kept r (State.jumpTick s d) := by
  unfold State.jumpTick
  repeat' first
    | with_reducible assumption
    | with_reducible exact Kept.refl _
    | exact id
    | exact tabWf_tabSet _ _
    | exact tabWf_tabDrop _ _
    | exact tabWf_filter _
    | intro _
    | exact Nat.zero_le _
    | with_reducible apply State.put_kept
    | with_reducible apply State.each_kept
    | with_reducible apply State.setTdom_kept
    | with_reducible apply State.horizonRelease_kept
    | with_reducible apply State.jumpApply_kept
    | with_reducible apply State.gclJump_kept
    | with_reducible apply State.fireIssue_kept
    | with_reducible apply Kept.ite
    | dsimp only
    | (split <;> (try (rename_i e; replace e := congrArg Prod.fst e; dsimp only at e; subst e)))

/-! ### Machine/MemCmds -/

theorem State.setGrant_kept {r : State} {s : State} (g : Option Grant) (hK : Kept r s) : Kept r (State.setGrant s g) := by
  unfold State.setGrant
  repeat' first
    | with_reducible assumption
    | with_reducible exact Kept.refl _
    | exact id
    | exact tabWf_tabSet _ _
    | exact tabWf_tabDrop _ _
    | exact tabWf_filter _
    | intro _
    | exact Nat.zero_le _
    | with_reducible apply State.put_kept
    | with_reducible apply Kept.ite
    | dsimp only
    | (split <;> (try (rename_i e; replace e := congrArg Prod.fst e; dsimp only at e; subst e)))
    | (refine Kept.same (t := ?_) ?_ (by dsimp only; rfl) (by with_reducible rfl) (by with_reducible rfl) (by with_reducible rfl) (by with_reducible rfl) (by with_reducible rfl) (by with_reducible rfl) (by with_reducible rfl) (by with_reducible rfl) (by with_reducible rfl))

theorem State.background_kept {r : State} {s : State} (hK : Kept r s) : Kept r (State.background s) := by
  unfold State.background
  repeat' first
    | with_reducible assumption
    | with_reducible exact Kept.refl _
    | exact id
    | exact tabWf_tabSet _ _
    | exact tabWf_tabDrop _ _
    | exact tabWf_filter _
    | intro _
    | exact Nat.zero_le _
    | with_reducible apply State.setGrant_kept
    | with_reducible apply Kept.ite
    | with_reducible apply Kept.foldl
    | with_reducible apply Kept.foldlPair
    | dsimp only
    | (split <;> (try (rename_i e; replace e := congrArg Prod.fst e; dsimp only at e; subst e)))
    | (refine Kept.same (t := ?_) ?_ (by dsimp only; rfl) (by with_reducible rfl) (by with_reducible rfl) (by with_reducible rfl) (by with_reducible rfl) (by with_reducible rfl) (by with_reducible rfl) (by with_reducible rfl) (by with_reducible rfl) (by with_reducible rfl))

theorem State.arbGrant_kept {r : State} {s : State} (hK : Kept r s) : Kept r (State.arbGrant s) := by
  unfold State.arbGrant
  repeat' first
    | with_reducible assumption
    | with_reducible exact Kept.refl _
    | exact id
    | exact tabWf_tabSet _ _
    | exact tabWf_tabDrop _ _
    | exact tabWf_filter _
    | intro _
    | exact Nat.zero_le _
    | with_reducible apply State.setGrant_kept
    | with_reducible apply State.background_kept
    | with_reducible apply Kept.ite

theorem State.arbCopy_kept {r : State} {s : State} (hK : Kept r s) : Kept r (State.arbCopy s) := by
  unfold State.arbCopy
  repeat' first
    | with_reducible assumption
    | with_reducible exact Kept.refl _
    | exact id
    | exact tabWf_tabSet _ _
    | exact tabWf_tabDrop _ _
    | exact tabWf_filter _
    | intro _
    | exact Nat.zero_le _
    | with_reducible apply State.wr_kept
    | with_reducible apply State.put_kept
    | with_reducible apply State.each_kept

theorem State.slotBoundary_kept {r : State} {s : State} (hK : Kept r s) : Kept r (State.slotBoundary s) := by
  unfold State.slotBoundary
  repeat' first
    | with_reducible assumption
    | with_reducible exact Kept.refl _
    | exact id
    | exact tabWf_tabSet _ _
    | exact tabWf_tabDrop _ _
    | exact tabWf_filter _
    | intro _
    | exact Nat.zero_le _
    | with_reducible apply State.put_kept
    | with_reducible apply State.inc_kept
    | with_reducible apply State.when_kept
    | with_reducible apply State.arbGrant_kept
    | with_reducible apply State.arbCopy_kept
    | with_reducible apply Kept.ite
    | dsimp only
    | (split <;> (try (rename_i e; replace e := congrArg Prod.fst e; dsimp only at e; subst e)))
    | (refine Kept.same (t := ?_) ?_ (by dsimp only; rfl) (by with_reducible rfl) (by with_reducible rfl) (by with_reducible rfl) (by with_reducible rfl) (by with_reducible rfl) (by with_reducible rfl) (by with_reducible rfl) (by with_reducible rfl) (by with_reducible rfl))

theorem State.arbDrop_kept {r : State} {s : State} (p : ℕ) (hK : Kept r s) : Kept r (State.arbDrop s p) := by
  unfold State.arbDrop
  repeat' first
    | with_reducible assumption
    | with_reducible exact Kept.refl _
    | exact id
    | exact tabWf_tabSet _ _
    | exact tabWf_tabDrop _ _
    | exact tabWf_filter _
    | intro _
    | exact Nat.zero_le _
    | with_reducible apply State.arbGrant_kept
    | with_reducible apply Kept.ite
    | dsimp only
    | (split <;> (try (rename_i e; replace e := congrArg Prod.fst e; dsimp only at e; subst e)))
    | (refine Kept.same (t := ?_) ?_ (by dsimp only; rfl) (by with_reducible rfl) (by with_reducible rfl) (by with_reducible rfl) (by with_reducible rfl) (by with_reducible rfl) (by with_reducible rfl) (by with_reducible rfl) (by with_reducible rfl) (by with_reducible rfl))

theorem State.arbWithdraw_kept {r : State} {s : State} (d : ℕ) (hK : Kept r s) : Kept r (State.arbWithdraw s d) := by
  unfold State.arbWithdraw
  repeat' first
    | with_reducible assumption
    | with_reducible exact Kept.refl _
    | exact id
    | exact tabWf_tabSet _ _
    | exact tabWf_tabDrop _ _
    | exact tabWf_filter _
    | intro _
    | exact Nat.zero_le _
    | with_reducible apply State.each_kept
    | with_reducible apply State.background_kept
    | with_reducible apply Kept.ite
    | dsimp only
    | (split <;> (try (rename_i e; replace e := congrArg Prod.fst e; dsimp only at e; subst e)))
    | (refine Kept.same (t := ?_) ?_ (by dsimp only; rfl) (by with_reducible rfl) (by with_reducible rfl) (by with_reducible rfl) (by with_reducible rfl) (by with_reducible rfl) (by with_reducible rfl) (by with_reducible rfl) (by with_reducible rfl) (by with_reducible rfl))

theorem State.arbSwap_kept {r : State} {s : State} (hK : Kept r s) : Kept r (State.arbSwap s) := by
  unfold State.arbSwap
  repeat' first
    | with_reducible assumption
    | with_reducible exact Kept.refl _
    | exact id
    | exact tabWf_tabSet _ _
    | exact tabWf_tabDrop _ _
    | exact tabWf_filter _
    | intro _
    | exact Nat.zero_le _
    | with_reducible apply State.put_kept
    | with_reducible apply Kept.ite
    | dsimp only
    | (split <;> (try (rename_i e; replace e := congrArg Prod.fst e; dsimp only at e; subst e)))
    | (refine Kept.same (t := ?_) ?_ (by dsimp only; rfl) (by with_reducible rfl) (by with_reducible rfl) (by with_reducible rfl) (by with_reducible rfl) (by with_reducible rfl) (by with_reducible rfl) (by with_reducible rfl) (by with_reducible rfl) (by with_reducible rfl))

theorem State.scrub_kept {r : State} {s : State} (u : Upset) (hK : Kept r s) : Kept r (State.scrub s u) := by
  unfold State.scrub
  repeat' first
    | with_reducible assumption
    | with_reducible exact Kept.refl _
    | exact id
    | exact tabWf_tabSet _ _
    | exact tabWf_tabDrop _ _
    | exact tabWf_filter _
    | intro _
    | exact Nat.zero_le _
    | with_reducible apply State.put_kept
    | with_reducible apply State.upset_kept
    | with_reducible apply State.dramRead_kept
    | with_reducible apply Kept.ite
    | dsimp only
    | (split <;> (try (rename_i e; replace e := congrArg Prod.fst e; dsimp only at e; subst e)))
    | (refine Kept.same (t := ?_) ?_ (by dsimp only; rfl) (by with_reducible rfl) (by with_reducible rfl) (by with_reducible rfl) (by with_reducible rfl) (by with_reducible rfl) (by with_reducible rfl) (by with_reducible rfl) (by with_reducible rfl) (by with_reducible rfl))

theorem State.wedgeStart_kept {r : State} {s : State} (lo : ℕ) (pages : ℕ) (test : Bool) (forWmk : Bool) (hK : Kept r s) : Kept r (State.wedgeStart s lo pages test forWmk) := by
  unfold State.wedgeStart
  repeat' first
    | with_reducible assumption
    | with_reducible exact Kept.refl _
    | exact id
    | exact tabWf_tabSet _ _
    | exact tabWf_tabDrop _ _
    | exact tabWf_filter _
    | intro _
    | exact Nat.zero_le _
    | with_reducible apply State.put_kept
    | with_reducible apply State.each_kept
    | with_reducible apply State.dropCopies_kept
    | with_reducible apply Kept.ite
    | dsimp only
    | (split <;> (try (rename_i e; replace e := congrArg Prod.fst e; dsimp only at e; subst e)))
    | (refine Kept.same (t := ?_) ?_ (by dsimp only; rfl) (by with_reducible rfl) (by with_reducible rfl) (by with_reducible rfl) (by with_reducible rfl) (by with_reducible rfl) (by with_reducible rfl) (by with_reducible rfl) (by with_reducible rfl) (by with_reducible rfl))

theorem State.wedgeFails_kept {r : State} {s : State} (lines : List ℕ) (hK : Kept r s) : Kept r (State.wedgeFails s lines) := by
  unfold State.wedgeFails
  repeat' first
    | with_reducible assumption
    | with_reducible exact Kept.refl _
    | exact id
    | exact tabWf_tabSet _ _
    | exact tabWf_tabDrop _ _
    | exact tabWf_filter _
    | intro _
    | exact Nat.zero_le _
    | with_reducible apply State.put_kept
    | with_reducible apply State.each_kept
    | with_reducible apply State.tookFree_kept
    | with_reducible apply State.sherdScrub_kept

theorem State.wedgeCmd_kept {r : State} {s : State} (w : World) (op : ℕ) (fails : List ℕ) (hK : Kept r s) : Kept r (State.wedgeCmd s w op fails) := by
  unfold State.wedgeCmd
  repeat' first
    | with_reducible assumption
    | with_reducible exact Kept.refl _
    | exact id
    | exact tabWf_tabSet _ _
    | exact tabWf_tabDrop _ _
    | exact tabWf_filter _
    | intro _
    | exact Nat.zero_le _
    | with_reducible apply State.res_kept
    | with_reducible apply State.wedgeStart_kept
    | with_reducible apply State.wedgeFails_kept
    | with_reducible apply Kept.ite

theorem State.wedgeFill_kept {r : State} {s : State} (j : WedgeJob) (hK : Kept r s) : Kept r (State.wedgeFill s j) := by
  unfold State.wedgeFill
  repeat' first
    | with_reducible assumption
    | with_reducible exact Kept.refl _
    | exact id
    | exact tabWf_tabSet _ _
    | exact tabWf_tabDrop _ _
    | exact tabWf_filter _
    | intro _
    | exact Nat.zero_le _
    | with_reducible apply State.put_kept
    | with_reducible apply Kept.ite
    | dsimp only
    | (split <;> (try (rename_i e; replace e := congrArg Prod.fst e; dsimp only at e; subst e)))
    | (refine Kept.same (t := ?_) ?_ (by dsimp only; rfl) (by with_reducible rfl) (by with_reducible rfl) (by with_reducible rfl) (by with_reducible rfl) (by with_reducible rfl) (by with_reducible rfl) (by with_reducible rfl) (by with_reducible rfl) (by with_reducible rfl))
    | (refine Kept.parts (t := ?_) ?_ (by dsimp only; rfl) (fun _ => Nat.le_refl _) ?_ ?_ ?_ ?_ ?_ ?_ ?_ ?_)

theorem State.sherdPop_kept {r s : State} (hK : Kept r s) : Kept r s.sherdPop := by
  refine State.put_kept _ _ (hK.parts rfl (fun _ => Nat.le_refl _) id id id id id id id fun h => ?_)
  exact Nat.le_trans (Nat.le_of_eq List.length_drop) (Nat.le_trans (Nat.sub_le _ _) h)

theorem State.sherdHead_kept {r s : State} (hK : Kept r s) : Kept r s.sherdHead.1 :=
  hK.same rfl rfl rfl rfl rfl rfl rfl rfl rfl rfl

theorem State.remapCmd_kept {r : State} {s : State} (w : World) (page : ℕ) (hK : Kept r s) : Kept r (State.remapCmd s w page) := by
  unfold State.remapCmd
  repeat' first
    | with_reducible assumption
    | with_reducible exact Kept.refl _
    | exact id
    | exact tabWf_tabSet _ _
    | exact tabWf_tabDrop _ _
    | exact tabWf_filter _
    | intro _
    | exact Nat.zero_le _
    | with_reducible apply State.put_kept
    | with_reducible apply State.res_kept
    | with_reducible apply Kept.ite
    | dsimp only
    | (split <;> (try (rename_i e; replace e := congrArg Prod.fst e; dsimp only at e; subst e)))
    | (refine Kept.same (t := ?_) ?_ (by dsimp only; rfl) (by with_reducible rfl) (by with_reducible rfl) (by with_reducible rfl) (by with_reducible rfl) (by with_reducible rfl) (by with_reducible rfl) (by with_reducible rfl) (by with_reducible rfl) (by with_reducible rfl))

theorem State.remapEnd_kept {r : State} {s : State} (page : ℕ) (hK : Kept r s) : Kept r (State.remapEnd s page) := by
  unfold State.remapEnd
  repeat' first
    | with_reducible assumption
    | with_reducible exact Kept.refl _
    | exact id
    | exact tabWf_tabSet _ _
    | exact tabWf_tabDrop _ _
    | exact tabWf_filter _
    | intro _
    | exact Nat.zero_le _
    | with_reducible apply State.put_kept
    | with_reducible apply State.each_kept
    | with_reducible apply State.dramRead_kept
    | with_reducible apply Kept.ite
    | dsimp only
    | (split <;> (try (rename_i e; replace e := congrArg Prod.fst e; dsimp only at e; subst e)))
    | (refine Kept.same (t := ?_) ?_ (by dsimp only; rfl) (by with_reducible rfl) (by with_reducible rfl) (by with_reducible rfl) (by with_reducible rfl) (by with_reducible rfl) (by with_reducible rfl) (by with_reducible rfl) (by with_reducible rfl) (by with_reducible rfl))

/-! ### Machine/LedgerCmds -/

theorem State.swRecord_kept {r : State} {s : State} (w : World) (typ : ℕ) (len : ℕ) (sub : ℕ) (hK : Kept r s) : Kept r (State.swRecord s w typ len sub) := by
  unfold State.swRecord
  repeat' first
    | with_reducible assumption
    | with_reducible exact Kept.refl _
    | exact id
    | exact tabWf_tabSet _ _
    | exact tabWf_tabDrop _ _
    | exact tabWf_filter _
    | intro _
    | exact Nat.zero_le _
    | with_reducible apply State.res_kept
    | with_reducible apply State.ldgGap_kept
    | with_reducible apply State.ldgAccept_kept
    | with_reducible apply Kept.ite

theorem State.ldgFlush_kept {r : State} {s : State} (hK : Kept r s) : Kept r (State.ldgFlush s) := by
  unfold State.ldgFlush
  repeat' first
    | with_reducible assumption
    | with_reducible exact Kept.refl _
    | exact id
    | exact tabWf_tabSet _ _
    | exact tabWf_tabDrop _ _
    | exact tabWf_filter _
    | intro _
    | exact Nat.zero_le _
    | with_reducible apply State.ldgClose_kept
    | with_reducible apply Kept.ite
    | dsimp only
    | (split <;> (try (rename_i e; replace e := congrArg Prod.fst e; dsimp only at e; subst e)))

theorem State.closeAsk_kept {r : State} {s : State} (reason : CloseFor) (hK : Kept r s) : Kept r (State.closeAsk s reason) := by
  unfold State.closeAsk
  repeat' first
    | with_reducible assumption
    | with_reducible exact Kept.refl _
    | exact id
    | exact tabWf_tabSet _ _
    | exact tabWf_tabDrop _ _
    | exact tabWf_filter _
    | intro _
    | exact Nat.zero_le _
    | with_reducible apply State.setLdg_kept
    | with_reducible apply Kept.ite

theorem State.orderlyClose_kept {r : State} {s : State} (hK : Kept r s) : Kept r (State.orderlyClose s) := by
  unfold State.orderlyClose
  repeat' first
    | with_reducible assumption
    | with_reducible exact Kept.refl _
    | exact id
    | exact tabWf_tabSet _ _
    | exact tabWf_tabDrop _ _
    | exact tabWf_filter _
    | intro _
    | exact Nat.zero_le _
    | with_reducible apply State.setLdg_kept
    | with_reducible apply State.ldgAccept_kept
    | with_reducible apply State.ldgFlush_kept
    | with_reducible apply Kept.ite
    | dsimp only
    | (split <;> (try (rename_i e; replace e := congrArg Prod.fst e; dsimp only at e; subst e)))

theorem State.closeDone_kept {r : State} {s : State} (hK : Kept r s) : Kept r (State.closeDone s) := by
  unfold State.closeDone
  repeat' first
    | with_reducible assumption
    | with_reducible exact Kept.refl _
    | exact id
    | exact tabWf_tabSet _ _
    | exact tabWf_tabDrop _ _
    | exact tabWf_filter _
    | intro _
    | exact Nat.zero_le _
    | with_reducible apply State.when_kept
    | with_reducible apply State.setLdg_kept
    | with_reducible apply State.ldgCtlWrite_kept
    | with_reducible apply Kept.ite

theorem State.ldgReopen_kept {r : State} {s : State} (hK : Kept r s) : Kept r (State.ldgReopen s) := by
  unfold State.ldgReopen
  repeat' first
    | with_reducible assumption
    | with_reducible exact Kept.refl _
    | exact id
    | exact tabWf_tabSet _ _
    | exact tabWf_tabDrop _ _
    | exact tabWf_filter _
    | intro _
    | exact Nat.zero_le _
    | with_reducible apply State.setLdg_kept
    | with_reducible apply State.ldgAccept_kept
    | with_reducible apply Kept.ite
    | dsimp only
    | (split <;> (try (rename_i e; replace e := congrArg Prod.fst e; dsimp only at e; subst e)))

theorem State.signFail_kept {r : State} {s : State} (hK : Kept r s) : Kept r (State.signFail s) := by
  unfold State.signFail
  repeat' first
    | with_reducible assumption
    | with_reducible exact Kept.refl _
    | exact id
    | exact tabWf_tabSet _ _
    | exact tabWf_tabDrop _ _
    | exact tabWf_filter _
    | intro _
    | exact Nat.zero_le _
    | with_reducible apply State.put_kept
    | with_reducible apply State.raise_kept
    | with_reducible apply State.setLdg_kept

theorem State.signAppend_kept {r : State} {s : State} (seq : ℕ) (catchUp : Bool) (r0 : ℕ) (t : ℕ) (hK : Kept r s) : Kept r (State.signAppend s seq catchUp r0 t) := by
  unfold State.signAppend
  repeat' first
    | with_reducible assumption
    | with_reducible exact Kept.refl _
    | exact id
    | exact tabWf_tabSet _ _
    | exact tabWf_tabDrop _ _
    | exact tabWf_filter _
    | intro _
    | exact Nat.zero_le _
    | with_reducible apply State.wr_kept
    | with_reducible apply State.put_kept
    | with_reducible apply State.raise_kept
    | with_reducible apply State.ldgAccept_kept
    | with_reducible apply State.ldgPair_kept
    | with_reducible apply Kept.ite

theorem State.signReturn_kept {r : State} {s : State} (ok : Bool) (r0 : ℕ) (t : ℕ) (hK : Kept r s) : Kept r (State.signReturn s ok r0 t) := by
  unfold State.signReturn
  repeat' first
    | with_reducible assumption
    | with_reducible exact Kept.refl _
    | exact id
    | exact tabWf_tabSet _ _
    | exact tabWf_tabDrop _ _
    | exact tabWf_filter _
    | intro _
    | exact Nat.zero_le _
    | with_reducible apply State.put_kept
    | with_reducible apply State.setLdg_kept
    | with_reducible apply State.ldgSign_kept
    | with_reducible apply State.signFail_kept
    | with_reducible apply State.signAppend_kept
    | with_reducible apply Kept.ite
    | dsimp only
    | (split <;> (try (rename_i e; replace e := congrArg Prod.fst e; dsimp only at e; subst e)))

theorem State.signRetry_kept {r : State} {s : State} (hK : Kept r s) : Kept r (State.signRetry s) := by
  unfold State.signRetry
  repeat' first
    | with_reducible assumption
    | with_reducible exact Kept.refl _
    | exact id
    | exact tabWf_tabSet _ _
    | exact tabWf_tabDrop _ _
    | exact tabWf_filter _
    | intro _
    | exact Nat.zero_le _
    | with_reducible apply State.ldgSign_kept
    | with_reducible apply Kept.ite
    | dsimp only
    | (split <;> (try (rename_i e; replace e := congrArg Prod.fst e; dsimp only at e; subst e)))

theorem State.nvmeDone_kept {r : State} {s : State} (seq : ℕ) (ok : Bool) (hK : Kept r s) : Kept r (State.nvmeDone s seq ok) := by
  unfold State.nvmeDone
  repeat' first
    | with_reducible assumption
    | with_reducible exact Kept.refl _
    | exact id
    | exact tabWf_tabSet _ _
    | exact tabWf_tabDrop _ _
    | exact tabWf_filter _
    | intro _
    | exact Nat.zero_le _
    | with_reducible apply State.put_kept
    | with_reducible apply State.raise_kept
    | with_reducible apply State.when_kept
    | with_reducible apply State.setLdg_kept
    | with_reducible apply State.ldgSync_kept
    | with_reducible apply State.ldgGap_kept
    | with_reducible apply State.ldgCtlWrite_kept
    | with_reducible apply Kept.ite

theorem State.ldgEnWrite_kept {r : State} {s : State} (en : Bool) (hK : Kept r s) : Kept r (State.ldgEnWrite s en) := by
  unfold State.ldgEnWrite
  repeat' first
    | with_reducible assumption
    | with_reducible exact Kept.refl _
    | exact id
    | exact tabWf_tabSet _ _
    | exact tabWf_tabDrop _ _
    | exact tabWf_filter _
    | intro _
    | exact Nat.zero_le _
    | with_reducible apply State.put_kept
    | with_reducible apply State.setLdg_kept
    | with_reducible apply Kept.ite

theorem State.resumeFail_kept {r : State} {s : State} (st : Status) (hK : Kept r s) : Kept r (State.resumeFail s st) := by
  unfold State.resumeFail
  repeat' first
    | with_reducible assumption
    | with_reducible exact Kept.refl _
    | exact id
    | exact tabWf_tabSet _ _
    | exact tabWf_tabDrop _ _
    | exact tabWf_filter _
    | intro _
    | exact Nat.zero_le _
    | with_reducible apply State.put_kept
    | with_reducible apply State.res_kept
    | with_reducible apply State.setLdg_kept

theorem State.ldgBegin_kept {r : State} {s : State} (seq : ℕ) (prev : ℕ) (hK : Kept r s) : Kept r (State.ldgBegin s seq prev) := by
  unfold State.ldgBegin
  repeat' first
    | with_reducible assumption
    | with_reducible exact Kept.refl _
    | exact id
    | exact tabWf_tabSet _ _
    | exact tabWf_tabDrop _ _
    | exact tabWf_filter _
    | intro _
    | exact Nat.zero_le _
    | with_reducible apply State.inc_kept
    | with_reducible apply State.each_kept
    | with_reducible apply State.when_kept
    | with_reducible apply State.setLdg_kept
    | with_reducible apply State.ldgAppend_kept
    | with_reducible apply State.ldgReopen_kept
    | with_reducible apply Kept.ite

theorem State.resumeRead_kept {r : State} {s : State} (copies : List (Option CtlCopy)) (blocks : List LBlock) (hK : Kept r s) : Kept r (State.resumeRead s copies blocks) := by
  unfold State.resumeRead
  repeat' first
    | with_reducible assumption
    | with_reducible exact Kept.refl _
    | exact id
    | exact tabWf_tabSet _ _
    | exact tabWf_tabDrop _ _
    | exact tabWf_filter _
    | intro _
    | exact Nat.zero_le _
    | with_reducible apply State.wr_kept
    | with_reducible apply State.put_kept
    | with_reducible apply State.res_kept
    | with_reducible apply State.when_kept
    | with_reducible apply State.setLdg_kept
    | with_reducible apply State.ldgSync_kept
    | with_reducible apply State.ldgSign_kept
    | with_reducible apply State.ldgCtlWrite_kept
    | with_reducible apply State.ldgReopen_kept
    | with_reducible apply State.resumeFail_kept
    | with_reducible apply State.ldgBegin_kept
    | with_reducible apply Kept.ite
    | dsimp only
    | (split <;> (try (rename_i e; replace e := congrArg Prod.fst e; dsimp only at e; subst e)))

theorem State.replayCmd_kept {r : State} {s : State} (op : ℕ) (hK : Kept r s) : Kept r (State.replayCmd s op) := by
  unfold State.replayCmd
  repeat' first
    | with_reducible assumption
    | with_reducible exact Kept.refl _
    | exact id
    | exact tabWf_tabSet _ _
    | exact tabWf_tabDrop _ _
    | exact tabWf_filter _
    | intro _
    | exact Nat.zero_le _
    | with_reducible apply State.put_kept
    | with_reducible apply State.res_kept
    | with_reducible apply State.setLdg_kept
    | with_reducible apply Kept.ite

theorem State.replayOut_kept {r : State} {s : State} (iova : ℕ) (x1 : List LBlock) (hK : Kept r s) : Kept r (State.replayOut s iova x1).1 := by
  induction x1 generalizing s iova with
  | nil =>
    unfold State.replayOut
    repeat' first
      | with_reducible assumption
  | cons a l ih =>
    unfold State.replayOut
    repeat' first
      | with_reducible assumption
      | with_reducible exact Kept.refl _
      | with_reducible apply ih
      | exact id
      | exact tabWf_tabSet _ _
      | exact tabWf_tabDrop _ _
      | exact tabWf_filter _
      | intro _
      | exact Nat.zero_le _
      | with_reducible apply State.dmaWrite_kept
      | with_reducible apply Kept.ite
      | dsimp only
      | (split <;> (try (rename_i e; replace e := congrArg Prod.fst e; dsimp only at e; subst e)))

theorem State.replayEnd_kept {r : State} {s : State} (op : ℕ) (blocks : List LBlock) (ok : Bool) (hK : Kept r s) : Kept r (State.replayEnd s op blocks ok) := by
  unfold State.replayEnd
  repeat' first
    | with_reducible assumption
    | with_reducible exact Kept.refl _
    | exact id
    | exact tabWf_tabSet _ _
    | exact tabWf_tabDrop _ _
    | exact tabWf_filter _
    | intro _
    | exact Nat.zero_le _
    | with_reducible apply State.wr_kept
    | with_reducible apply State.put_kept
    | with_reducible apply State.raise_kept
    | with_reducible apply State.res_kept
    | with_reducible apply State.tookFree_kept
    | with_reducible apply State.setLdg_kept
    | with_reducible apply State.replayOut_kept
    | with_reducible apply Kept.ite
    | dsimp only
    | (split <;> (try (rename_i e; replace e := congrArg Prod.fst e; dsimp only at e; subst e)))

/-! ### Machine/Epoch -/

theorem State.lockAcq_kept {r : State} {s : State} (a : Agent) (n : ℕ) (hK : Kept r s) : Kept r (State.lockAcq s a n) := by
  unfold State.lockAcq
  repeat' first
    | with_reducible assumption
    | with_reducible exact Kept.refl _
    | exact id
    | exact tabWf_tabSet _ _
    | exact tabWf_tabDrop _ _
    | exact tabWf_filter _
    | intro _
    | exact Nat.zero_le _
    | with_reducible apply State.put_kept
    | with_reducible apply Kept.ite
    | dsimp only
    | (split <;> (try (rename_i e; replace e := congrArg Prod.fst e; dsimp only at e; subst e)))

theorem State.lockRel_kept {r : State} {s : State} (a : Agent) (n : ℕ) (hK : Kept r s) : Kept r (State.lockRel s a n) := by
  unfold State.lockRel
  repeat' first
    | with_reducible assumption
    | with_reducible exact Kept.refl _
    | exact id
    | exact tabWf_tabSet _ _
    | exact tabWf_tabDrop _ _
    | exact tabWf_filter _
    | intro _
    | exact Nat.zero_le _
    | with_reducible apply State.put_kept
    | with_reducible apply Kept.ite
    | dsimp only
    | (split <;> (try (rename_i e; replace e := congrArg Prod.fst e; dsimp only at e; subst e)))

theorem State.lockBreak_kept {r : State} {s : State} (n : ℕ) (hK : Kept r s) : Kept r (State.lockBreak s n) := by
  unfold State.lockBreak
  repeat' first
    | with_reducible assumption
    | with_reducible exact Kept.refl _
    | exact id
    | exact tabWf_tabSet _ _
    | exact tabWf_tabDrop _ _
    | exact tabWf_filter _
    | intro _
    | exact Nat.zero_le _
    | with_reducible apply State.put_kept

theorem State.breakLocks_kept {r : State} {s : State} (who : ℕ → Bool) (hK : Kept r s) : Kept r (State.breakLocks s who) := by
  unfold State.breakLocks
  repeat' first
    | with_reducible assumption
    | with_reducible exact Kept.refl _
    | exact id
    | exact tabWf_tabSet _ _
    | exact tabWf_tabDrop _ _
    | exact tabWf_filter _
    | intro _
    | exact Nat.zero_le _
    | with_reducible apply State.each_kept
    | with_reducible apply State.lockBreak_kept
    | with_reducible apply Kept.ite

theorem State.epochStart_kept {r : State} {s : State} (c : ℕ) (hK : Kept r s) : Kept r (State.epochStart s c) := by
  unfold State.epochStart
  repeat' first
    | with_reducible assumption
    | with_reducible exact Kept.refl _
    | exact id
    | exact tabWf_tabSet _ _
    | exact tabWf_tabDrop _ _
    | exact tabWf_filter _
    | intro _
    | exact Nat.zero_le _
    | with_reducible apply State.setEpoch_kept
    | with_reducible apply Kept.ite

theorem State.rollback_kept {r : State} {s : State} (c : ℕ) (cause : ℕ) (hart : ℕ) (hK : Kept r s) : Kept r (State.rollback s c cause hart) := by
  unfold State.rollback
  repeat' first
    | with_reducible assumption
    | with_reducible exact Kept.refl _
    | exact id
    | exact tabWf_tabSet _ _
    | exact tabWf_tabDrop _ _
    | exact tabWf_filter _
    | intro _
    | exact Nat.zero_le _
    | with_reducible apply State.put_kept
    | with_reducible apply State.inc_kept
    | with_reducible apply State.each_kept
    | with_reducible apply State.setHart_kept
    | with_reducible apply State.coreCount_kept
    | with_reducible apply State.setL2_kept
    | with_reducible apply State.setDir_kept
    | with_reducible apply State.setEpoch_kept
    | with_reducible apply State.clearResv_kept
    | with_reducible apply State.setCsr_kept
    | with_reducible apply State.wheelFree_kept
    | with_reducible apply Kept.ite
    | dsimp only
    | (split <;> (try (rename_i e; replace e := congrArg Prod.fst e; dsimp only at e; subst e)))
    | (refine Kept.same (t := ?_) ?_ (by dsimp only; rfl) (by with_reducible rfl) (by with_reducible rfl) (by with_reducible rfl) (by with_reducible rfl) (by with_reducible rfl) (by with_reducible rfl) (by with_reducible rfl) (by with_reducible rfl) (by with_reducible rfl))

theorem State.rollbackOn_kept {r : State} {s : State} (c : ℕ) (cause : ℕ) (hart : ℕ) (hK : Kept r s) : Kept r (State.rollbackOn s c cause hart) := by
  unfold State.rollbackOn
  repeat' first
    | with_reducible assumption
    | with_reducible exact Kept.refl _
    | exact id
    | exact tabWf_tabSet _ _
    | exact tabWf_tabDrop _ _
    | exact tabWf_filter _
    | intro _
    | exact Nat.zero_le _
    | with_reducible apply State.rollback_kept
    | with_reducible apply Kept.ite

theorem State.epoCommit_kept {r : State} {s : State} (c : ℕ) (hK : Kept r s) : Kept r (State.epoCommit s c) := by
  unfold State.epoCommit
  repeat' first
    | with_reducible assumption
    | with_reducible exact Kept.refl _
    | exact id
    | exact tabWf_tabSet _ _
    | exact tabWf_tabDrop _ _
    | exact tabWf_filter _
    | intro _
    | exact Nat.zero_le _
    | with_reducible apply State.epochRelease_kept
    | with_reducible apply Kept.ite

theorem State.epoRollback_kept {r : State} {s : State} (a : Agent) (c : ℕ) (hK : Kept r s) : Kept r (State.epoRollback s a c) := by
  unfold State.epoRollback
  repeat' first
    | with_reducible assumption
    | with_reducible exact Kept.refl _
    | exact id
    | exact tabWf_tabSet _ _
    | exact tabWf_tabDrop _ _
    | exact tabWf_filter _
    | intro _
    | exact Nat.zero_le _
    | with_reducible apply State.rollbackOn_kept
    | with_reducible apply Kept.ite

theorem State.epoResume_kept {r : State} {s : State} (c : ℕ) (hK : Kept r s) : Kept r (State.epoResume s c) := by
  unfold State.epoResume
  repeat' first
    | with_reducible assumption
    | with_reducible exact Kept.refl _
    | exact id
    | exact tabWf_tabSet _ _
    | exact tabWf_tabDrop _ _
    | exact tabWf_filter _
    | intro _
    | exact Nat.zero_le _
    | with_reducible apply State.put_kept
    | with_reducible apply State.rollback_kept
    | with_reducible apply Kept.ite

theorem State.outputDrop_kept {r : State} {s : State} (c : ℕ) (idx : ℕ) (st : Status) (hK : Kept r s) : Kept r (State.outputDrop s c idx st) := by
  unfold State.outputDrop
  repeat' first
    | with_reducible assumption
    | with_reducible exact Kept.refl _
    | exact id
    | exact tabWf_tabSet _ _
    | exact tabWf_tabDrop _ _
    | exact tabWf_filter _
    | intro _
    | exact Nat.zero_le _
    | with_reducible apply State.put_kept
    | with_reducible apply State.res_kept
    | with_reducible apply State.sherdRefused_kept
    | with_reducible apply State.setEpoch_kept
    | with_reducible apply Kept.ite
    | dsimp only
    | (split <;> (try (rename_i e; replace e := congrArg Prod.fst e; dsimp only at e; subst e)))

theorem State.diverge_kept {r : State} {s : State} (p : ℕ) (kind : ℕ) (addr : ℕ) (hK : Kept r s) : Kept r (State.diverge s p kind addr) := by
  unfold State.diverge
  repeat' first
    | with_reducible assumption
    | with_reducible exact Kept.refl _
    | exact id
    | exact tabWf_tabSet _ _
    | exact tabWf_tabDrop _ _
    | exact tabWf_filter _
    | intro _
    | exact Nat.zero_le _
    | with_reducible apply State.put_kept
    | with_reducible apply State.raise_kept
    | with_reducible apply State.inc_kept
    | with_reducible apply State.coreCount_kept
    | with_reducible apply State.sherd_kept
    | with_reducible apply State.breakLocks_kept
    | with_reducible apply State.rollbackOn_kept
    | with_reducible apply Kept.ite
    | dsimp only
    | (split <;> (try (rename_i e; replace e := congrArg Prod.fst e; dsimp only at e; subst e)))
    | (refine Kept.same (t := ?_) ?_ (by dsimp only; rfl) (by with_reducible rfl) (by with_reducible rfl) (by with_reducible rfl) (by with_reducible rfl) (by with_reducible rfl) (by with_reducible rfl) (by with_reducible rfl) (by with_reducible rfl) (by with_reducible rfl))

theorem State.coreStart_kept {r : State} {s : State} (h : ℕ) (hK : Kept r s) : Kept r (State.coreStart s h) := by
  unfold State.coreStart
  repeat' first
    | with_reducible assumption
    | with_reducible exact Kept.refl _
    | exact id
    | exact tabWf_tabSet _ _
    | exact tabWf_tabDrop _ _
    | exact tabWf_filter _
    | intro _
    | exact Nat.zero_le _
    | with_reducible apply State.put_kept
    | with_reducible apply State.setHart_kept

theorem State.lksRestart_kept {r : State} {s : State} (p : ℕ) (hK : Kept r s) : Kept r (State.lksRestart s p) := by
  unfold State.lksRestart
  repeat' first
    | with_reducible assumption
    | with_reducible exact Kept.refl _
    | exact id
    | exact tabWf_tabSet _ _
    | exact tabWf_tabDrop _ _
    | exact tabWf_filter _
    | intro _
    | exact Nat.zero_le _
    | with_reducible apply State.put_kept
    | with_reducible apply State.l2Drain_kept
    | with_reducible apply State.coreStart_kept
    | with_reducible apply Kept.ite

theorem State.lksInject_kept {r : State} {s : State} (a : Agent) (p : ℕ) (hK : Kept r s) : Kept r (State.lksInject s a p) := by
  unfold State.lksInject
  repeat' first
    | with_reducible assumption
    | with_reducible exact Kept.refl _
    | exact id
    | exact tabWf_tabSet _ _
    | exact tabWf_tabDrop _ _
    | exact tabWf_filter _
    | intro _
    | exact Nat.zero_le _
    | with_reducible apply Kept.ite
    | dsimp only
    | (split <;> (try (rename_i e; replace e := congrArg Prod.fst e; dsimp only at e; subst e)))
    | (refine Kept.same (t := ?_) ?_ (by dsimp only; rfl) (by with_reducible rfl) (by with_reducible rfl) (by with_reducible rfl) (by with_reducible rfl) (by with_reducible rfl) (by with_reducible rfl) (by with_reducible rfl) (by with_reducible rfl) (by with_reducible rfl))

end Sys2Proof.Machine
end

