-- ==== Sys2Proof/Laws/KeptPower.lean ====
section
/-! SUPPORT. What no operation of the fuse cone, the boot images, the power domains, the supply, the worlds and the boot does: each keeps the queue of commands, sets no burnt
step of the lifecycle back and keeps the storage invariant (`Kept`). -/

set_option linter.unusedTactic false
set_option linter.unreachableTactic false
set_option linter.unusedVariables false

namespace Sys2Proof.Machine
open Sys2Proof

/-! ### Machine/Cone -/

theorem State.flashPut_kept {r s : State} (a : Nat) (bs : List Byte) (hK : Kept r s) : Kept r (s.flashPut a bs) := by
  refine hK.parts rfl (fun _ => Nat.le_refl _) id id id id (fun h => ?_) id id id
  exact tabWf_foldl _ (fun t i => tabWf_tabSet (a + i) (bs.getD i 0) (t := t)) h

theorem State.coneStart_kept {r : State} {s : State} (cone : ℕ) (expect : ℕ) (value : ℕ) (src : BurnFor) (hK : Kept r s) : Kept r (State.coneStart s cone expect value src).1 := by
  unfold State.coneStart
  repeat' first
    | with_reducible assumption
    | with_reducible exact Kept.refl _
    | exact id
    | exact tabWf_tabSet _ _
    | exact tabWf_tabDrop _ _
    | exact tabWf_filter _
    | intro _
    | exact Nat.zero_le _
    | with_reducible apply State.put_kept
    | with_reducible apply State.res_kept
    | with_reducible apply Kept.ite
    | dsimp only
    | (split <;> (try (rename_i e; replace e := congrArg Prod.fst e; dsimp only at e; subst e)))
    | (refine Kept.same (t := ?_) ?_ (by dsimp only; rfl) (by with_reducible rfl) (by with_reducible rfl) (by with_reducible rfl) (by with_reducible rfl) (by with_reducible rfl) (by with_reducible rfl) (by with_reducible rfl) (by with_reducible rfl) (by with_reducible rfl))

/-- One step more on a cone leaves no cone with fewer. -/
theorem State.coneSteps_step (s : State) (b c : Nat) :
    tabGet (fun _ => 0) s.boot.fuses.steps c ≤ tabGet (fun _ => 0) (tabSet (fun _ => 0) s.boot.fuses.steps b (s.coneSteps b + 1)) c := by
  rw [tabGet_tabSet]
  split
  · subst_vars; exact Nat.le_succ _
  · exact Nat.le_refl _

theorem State.coneBlow_kept {r s : State} (b : Burn) (hK : Kept r s) : Kept r (s.coneBlow b) :=
  State.put_kept _ _ (State.put_kept _ _ (hK.parts rfl (s.coneSteps_step b.cone) id id id id id id id id))

theorem State.burnCopy_kept {r : State} {s : State} (n : ℕ) (hK : Kept r s) : Kept r (State.burnCopy s n) := by
  unfold State.burnCopy
  repeat' first
    | with_reducible assumption
    | with_reducible exact Kept.refl _
    | exact id
    | exact tabWf_tabSet _ _
    | exact tabWf_tabDrop _ _
    | exact tabWf_filter _
    | intro _
    | exact Nat.zero_le _
    | with_reducible apply State.ldgAccept_kept
    | with_reducible apply Kept.ite
    | dsimp only
    | (split <;> (try (rename_i e; replace e := congrArg Prod.fst e; dsimp only at e; subst e)))
    | (refine Kept.same (t := ?_) ?_ (by dsimp only; rfl) (by with_reducible rfl) (by with_reducible rfl) (by with_reducible rfl) (by with_reducible rfl) (by with_reducible rfl) (by with_reducible rfl) (by with_reducible rfl) (by with_reducible rfl) (by with_reducible rfl))

theorem State.burnLost_kept {r s : State} (hK : Kept r s) : Kept r s.burnLost := by
  unfold State.burnLost
  split
  · exact hK
  · refine State.tookFree_kept (hK.parts rfl ?_ id id id id id id id id)
    dsimp only
    split
    · exact s.coneSteps_step _
    · exact fun _ => Nat.le_refl _

/-! ### Machine/Image -/

theorem State.loadParts_kept {r : State} {s : State} (b : List Byte) (hK : Kept r s) : Kept r (State.loadParts s b) := by
  unfold State.loadParts
  repeat' first
    | with_reducible assumption
    | with_reducible exact Kept.refl _
    | exact id
    | exact tabWf_tabSet _ _
    | exact tabWf_tabDrop _ _
    | exact tabWf_filter _
    | intro _
    | exact Nat.zero_le _
    | with_reducible apply State.put_kept
    | with_reducible apply State.each_kept

theorem State.loadEntries_kept {r s : State} (b : List Byte) (hK : Kept r s) : Kept r (s.loadEntries b).1 := by
  unfold State.loadEntries
  generalize List.range (rdN b 4 4) = l
  refine Kept.foldlPair l _ hK fun q j => ?_
  exact State.sttExec_kept _ _ _ _ _ (Kept.refl q.1)

theorem State.loadWorlds_kept {r : State} {s : State} (hK : Kept r s) : Kept r (State.loadWorlds s) := by
  unfold State.loadWorlds
  repeat' first
    | with_reducible assumption
    | with_reducible exact Kept.refl _
    | exact id
    | exact tabWf_tabSet _ _
    | exact tabWf_tabDrop _ _
    | exact tabWf_filter _
    | intro _
    | exact Nat.zero_le _
    | with_reducible apply State.wr_kept
    | with_reducible apply State.each_kept

theorem State.loadSaggars_kept {r : State} {s : State} (hK : Kept r s) : Kept r (State.loadSaggars s) := by
  unfold State.loadSaggars
  repeat' first
    | with_reducible assumption
    | with_reducible exact Kept.refl _
    | exact id
    | exact tabWf_tabSet _ _
    | exact tabWf_tabDrop _ _
    | exact tabWf_filter _
    | intro _
    | exact Nat.zero_le _
    | with_reducible apply State.wr_kept
    | with_reducible apply State.put_kept
    | with_reducible apply State.each_kept

theorem State.loadTkd_kept {r : State} {s : State} (hK : Kept r s) : Kept r (State.loadTkd s) := by
  unfold State.loadTkd
  repeat' first
    | with_reducible assumption
    | with_reducible exact Kept.refl _
    | exact id
    | exact tabWf_tabSet _ _
    | exact tabWf_tabDrop _ _
    | exact tabWf_filter _
    | intro _
    | exact Nat.zero_le _
    | with_reducible apply State.put_kept
    | with_reducible apply State.each_kept

theorem State.loadApc_kept {r : State} {s : State} (hK : Kept r s) : Kept r (State.loadApc s) := by
  unfold State.loadApc
  repeat' first
    | with_reducible assumption
    | with_reducible exact Kept.refl _
    | exact id
    | exact tabWf_tabSet _ _
    | exact tabWf_tabDrop _ _
    | exact tabWf_filter _
    | intro _
    | exact Nat.zero_le _
    | with_reducible apply State.wr_kept
    | with_reducible apply State.put_kept
    | with_reducible apply State.each_kept

theorem State.loadWays_kept {r : State} {s : State} (hK : Kept r s) : Kept r (State.loadWays s) := by
  unfold State.loadWays
  repeat' first
    | with_reducible assumption
    | with_reducible exact Kept.refl _
    | exact id
    | exact tabWf_tabSet _ _
    | exact tabWf_tabDrop _ _
    | exact tabWf_filter _
    | intro _
    | exact Nat.zero_le _
    | with_reducible apply State.put_kept
    | with_reducible apply State.each_kept

theorem State.loadSlots_kept {r : State} {s : State} (hK : Kept r s) : Kept r (State.loadSlots s) := by
  unfold State.loadSlots
  repeat' first
    | with_reducible assumption
    | with_reducible exact Kept.refl _
    | exact id
    | exact tabWf_tabSet _ _
    | exact tabWf_tabDrop _ _
    | exact tabWf_filter _
    | intro _
    | exact Nat.zero_le _
    | with_reducible apply State.wr_kept
    | with_reducible apply State.each_kept

theorem State.loadNet_kept {r : State} {s : State} (hK : Kept r s) : Kept r (State.loadNet s) := by
  unfold State.loadNet
  repeat' first
    | with_reducible assumption
    | with_reducible exact Kept.refl _
    | exact id
    | exact tabWf_tabSet _ _
    | exact tabWf_tabDrop _ _
    | exact tabWf_filter _
    | intro _
    | exact Nat.zero_le _
    | with_reducible apply State.put_kept
    | with_reducible apply State.each_kept

theorem State.loadSns_kept {r : State} {s : State} (hK : Kept r s) : Kept r (State.loadSns s) := by
  unfold State.loadSns
  repeat' first
    | with_reducible assumption
    | with_reducible exact Kept.refl _
    | exact id
    | exact tabWf_tabSet _ _
    | exact tabWf_tabDrop _ _
    | exact tabWf_filter _
    | intro _
    | exact Nat.zero_le _
    | with_reducible apply State.loadParts_kept

theorem State.loadStreams_kept {r : State} {s : State} (hK : Kept r s) : Kept r (State.loadStreams s) := by
  unfold State.loadStreams
  repeat' first
    | with_reducible assumption
    | with_reducible exact Kept.refl _
    | exact id
    | exact tabWf_tabSet _ _
    | exact tabWf_tabDrop _ _
    | exact tabWf_filter _
    | intro _
    | exact Nat.zero_le _
    | with_reducible apply State.loadEntries_kept
    | with_reducible apply Kept.ite
    | with_reducible apply Kept.foldl

/-! ### Machine/Domains -/

theorem State.setPower_kept {r : State} {s : State} (d : ℕ) (p : DomPower) (hK : Kept r s) : Kept r (State.setPower s d p) := by
  unfold State.setPower
  repeat' first
    | with_reducible assumption
    | with_reducible exact Kept.refl _
    | exact id
    | exact tabWf_tabSet _ _
    | exact tabWf_tabDrop _ _
    | exact tabWf_filter _
    | intro _
    | exact Nat.zero_le _
    | with_reducible apply State.put_kept
    | with_reducible apply State.setDom_kept

theorem State.domRegs_kept {r : State} {s : State} (d : ℕ) (cold : Bool) (hK : Kept r s) : Kept r (State.domRegs s d cold) := by
  unfold State.domRegs
  repeat' first
    | with_reducible assumption
    | with_reducible exact Kept.refl _
    | exact id
    | exact tabWf_tabSet _ _
    | exact tabWf_tabDrop _ _
    | exact tabWf_filter _
    | intro _
    | exact Nat.zero_le _
    | with_reducible apply State.wr_kept
    | with_reducible apply State.put_kept
    | with_reducible apply State.resetRegs_kept
    | with_reducible apply Kept.ite

theorem State.hartsLost_kept {r : State} {s : State} (who : ℕ → Bool) (hK : Kept r s) : Kept r (State.hartsLost s who) := by
  unfold State.hartsLost
  repeat' first
    | with_reducible assumption
    | with_reducible exact Kept.refl _
    | exact id
    | exact tabWf_tabSet _ _
    | exact tabWf_tabDrop _ _
    | exact tabWf_filter _
    | intro _
    | exact Nat.zero_le _
    | with_reducible apply Kept.ite
    | dsimp only
    | (split <;> (try (rename_i e; replace e := congrArg Prod.fst e; dsimp only at e; subst e)))
    | (refine Kept.same (t := ?_) ?_ (by dsimp only; rfl) (by with_reducible rfl) (by with_reducible rfl) (by with_reducible rfl) (by with_reducible rfl) (by with_reducible rfl) (by with_reducible rfl) (by with_reducible rfl) (by with_reducible rfl) (by with_reducible rfl))

theorem State.domState_kept {r : State} {s : State} (d : ℕ) (hK : Kept r s) : Kept r (State.domState s d) := by
  unfold State.domState
  repeat' first
    | with_reducible assumption
    | with_reducible exact Kept.refl _
    | exact id
    | exact tabWf_tabSet _ _
    | exact tabWf_tabDrop _ _
    | exact tabWf_filter _
    | intro _
    | exact Nat.zero_le _
    | with_reducible apply State.each_kept
    | with_reducible apply State.cohFinish_kept
    | with_reducible apply State.apcLost_kept
    | with_reducible apply State.wheelFinish_kept
    | with_reducible apply State.hartsLost_kept
    | with_reducible apply Kept.ite
    | dsimp only
    | (split <;> (try (rename_i e; replace e := congrArg Prod.fst e; dsimp only at e; subst e)))
    | (refine Kept.same (t := ?_) ?_ (by dsimp only; rfl) (by with_reducible rfl) (by with_reducible rfl) (by with_reducible rfl) (by with_reducible rfl) (by with_reducible rfl) (by with_reducible rfl) (by with_reducible rfl) (by with_reducible rfl) (by with_reducible rfl))
    | (refine Kept.parts (t := ?_) ?_ (by dsimp only; rfl) (fun _ => Nat.le_refl _) ?_ ?_ ?_ ?_ ?_ ?_ ?_ ?_)

theorem State.retainMem_kept {r : State} {s : State} (hK : Kept r s) : Kept r (State.retainMem s) := by
  unfold State.retainMem
  repeat' first
    | with_reducible assumption
    | with_reducible exact Kept.refl _
    | exact id
    | exact tabWf_tabSet _ _
    | exact tabWf_tabDrop _ _
    | exact tabWf_filter _
    | intro _
    | exact Nat.zero_le _
    | with_reducible apply Kept.ite
    | dsimp only
    | (split <;> (try (rename_i e; replace e := congrArg Prod.fst e; dsimp only at e; subst e)))
    | (refine Kept.same (t := ?_) ?_ (by dsimp only; rfl) (by with_reducible rfl) (by with_reducible rfl) (by with_reducible rfl) (by with_reducible rfl) (by with_reducible rfl) (by with_reducible rfl) (by with_reducible rfl) (by with_reducible rfl) (by with_reducible rfl))

theorem State.hovDomainReset_kept {r : State} {s : State} (d : ℕ) (hK : Kept r s) : Kept r (State.hovDomainReset s d) := by
  unfold State.hovDomainReset
  repeat' first
    | with_reducible assumption
    | with_reducible exact Kept.refl _
    | exact id
    | exact tabWf_tabSet _ _
    | exact tabWf_tabDrop _ _
    | exact tabWf_filter _
    | intro _
    | exact Nat.zero_le _
    | with_reducible apply Kept.ite
    | dsimp only
    | (split <;> (try (rename_i e; replace e := congrArg Prod.fst e; dsimp only at e; subst e)))
    | (refine Kept.same (t := ?_) ?_ (by dsimp only; rfl) (by with_reducible rfl) (by with_reducible rfl) (by with_reducible rfl) (by with_reducible rfl) (by with_reducible rfl) (by with_reducible rfl) (by with_reducible rfl) (by with_reducible rfl) (by with_reducible rfl))

theorem State.domDown_kept {r : State} {s : State} (d : ℕ) (p : DomPower) (cold : Bool) (hK : Kept r s) : Kept r (State.domDown s d p cold) := by
  unfold State.domDown
  repeat' first
    | with_reducible assumption
    | with_reducible exact Kept.refl _
    | exact id
    | exact tabWf_tabSet _ _
    | exact tabWf_tabDrop _ _
    | exact tabWf_filter _
    | intro _
    | exact Nat.zero_le _
    | with_reducible apply State.put_kept
    | with_reducible apply State.each_kept
    | with_reducible apply State.when_kept
    | with_reducible apply State.setDom_kept
    | with_reducible apply State.ptpSelectAll_kept
    | with_reducible apply State.arbWithdraw_kept
    | with_reducible apply State.breakLocks_kept
    | with_reducible apply State.setPower_kept
    | with_reducible apply State.domRegs_kept
    | with_reducible apply State.domState_kept
    | with_reducible apply State.retainMem_kept
    | with_reducible apply State.hovDomainReset_kept

theorem State.domLoad_kept {r : State} {s : State} (d : ℕ) (cold : Bool) (hK : Kept r s) : Kept r (State.domLoad s d cold) := by
  unfold State.domLoad
  repeat' first
    | with_reducible assumption
    | with_reducible exact Kept.refl _
    | exact id
    | exact tabWf_tabSet _ _
    | exact tabWf_tabDrop _ _
    | exact tabWf_filter _
    | intro _
    | exact Nat.zero_le _
    | with_reducible apply State.wr_kept
    | with_reducible apply State.put_kept
    | with_reducible apply State.each_kept
    | with_reducible apply State.ptpSelectAll_kept
    | with_reducible apply State.vtLoad_kept
    | with_reducible apply State.loadWorlds_kept
    | with_reducible apply State.loadSaggars_kept
    | with_reducible apply State.loadTkd_kept
    | with_reducible apply State.loadApc_kept
    | with_reducible apply State.loadWays_kept
    | with_reducible apply State.loadSlots_kept
    | with_reducible apply State.loadNet_kept
    | with_reducible apply State.loadSns_kept
    | with_reducible apply State.loadStreams_kept
    | with_reducible apply Kept.ite
    | dsimp only
    | (split <;> (try (rename_i e; replace e := congrArg Prod.fst e; dsimp only at e; subst e)))

theorem State.domUp_kept {r : State} {s : State} (d : ℕ) (cold : Bool) (hK : Kept r s) : Kept r (State.domUp s d cold) := by
  unfold State.domUp
  repeat' first
    | with_reducible assumption
    | with_reducible exact Kept.refl _
    | exact id
    | exact tabWf_tabSet _ _
    | exact tabWf_tabDrop _ _
    | exact tabWf_filter _
    | intro _
    | exact Nat.zero_le _
    | with_reducible apply State.setDom_kept
    | with_reducible apply State.setPower_kept
    | with_reducible apply State.domLoad_kept

theorem State.domWedge_kept {r : State} {s : State} (d : ℕ) (hK : Kept r s) : Kept r (State.domWedge s d) := by
  unfold State.domWedge
  repeat' first
    | with_reducible assumption
    | with_reducible exact Kept.refl _
    | exact id
    | exact tabWf_tabSet _ _
    | exact tabWf_tabDrop _ _
    | exact tabWf_filter _
    | intro _
    | exact Nat.zero_le _
    | with_reducible apply State.wedgeArray_kept
    | with_reducible apply Kept.ite
    | dsimp only
    | (split <;> (try (rename_i e; replace e := congrArg Prod.fst e; dsimp only at e; subst e)))

theorem State.fenceUp_kept {r : State} {s : State} (d : ℕ) (hK : Kept r s) : Kept r (State.fenceUp s d) := by
  unfold State.fenceUp
  repeat' first
    | with_reducible assumption
    | with_reducible exact Kept.refl _
    | exact id
    | exact tabWf_tabSet _ _
    | exact tabWf_tabDrop _ _
    | exact tabWf_filter _
    | intro _
    | exact Nat.zero_le _
    | with_reducible apply State.setDom_kept
    | with_reducible apply State.setPower_kept

theorem State.coresStart_kept {r : State} {s : State} (hK : Kept r s) : Kept r (State.coresStart s) := by
  unfold State.coresStart
  repeat' first
    | with_reducible assumption
    | with_reducible exact Kept.refl _
    | exact id
    | exact tabWf_tabSet _ _
    | exact tabWf_tabDrop _ _
    | exact tabWf_filter _
    | intro _
    | exact Nat.zero_le _
    | with_reducible apply State.put_kept
    | with_reducible apply State.each_kept
    | with_reducible apply State.epochStart_kept
    | with_reducible apply State.coreStart_kept
    | with_reducible apply Kept.ite

theorem State.tkStart_kept {r : State} {s : State} (n : ℕ) (off : ℕ) (hK : Kept r s) : Kept r (State.tkStart s n off) := by
  unfold State.tkStart
  repeat' first
    | with_reducible assumption
    | with_reducible exact Kept.refl _
    | exact id
    | exact tabWf_tabSet _ _
    | exact tabWf_tabDrop _ _
    | exact tabWf_filter _
    | intro _
    | exact Nat.zero_le _
    | with_reducible apply State.setHart_kept

theorem State.wardenStart_kept {r : State} {s : State} (hK : Kept r s) : Kept r (State.wardenStart s) := by
  unfold State.wardenStart
  repeat' first
    | with_reducible assumption
    | with_reducible exact Kept.refl _
    | exact id
    | exact tabWf_tabSet _ _
    | exact tabWf_tabDrop _ _
    | exact tabWf_filter _
    | intro _
    | exact Nat.zero_le _
    | with_reducible apply State.setHart_kept

theorem State.domStart_kept {r : State} {s : State} (d : ℕ) (hK : Kept r s) : Kept r (State.domStart s d) := by
  unfold State.domStart
  repeat' first
    | with_reducible assumption
    | with_reducible exact Kept.refl _
    | exact id
    | exact tabWf_tabSet _ _
    | exact tabWf_tabDrop _ _
    | exact tabWf_filter _
    | intro _
    | exact Nat.zero_le _
    | with_reducible apply State.each_kept
    | with_reducible apply State.coresStart_kept
    | with_reducible apply State.tkStart_kept
    | with_reducible apply Kept.ite
    | dsimp only
    | (split <;> (try (rename_i e; replace e := congrArg Prod.fst e; dsimp only at e; subst e)))

/-! ### Machine/Power -/

theorem State.setPow_kept {r : State} {s : State} (v : PowerSt) (hK : Kept r s) : Kept r (State.setPow s v) := by
  unfold State.setPow
  repeat' first
    | with_reducible assumption
    | with_reducible exact Kept.refl _
    | exact id
    | exact tabWf_tabSet _ _
    | exact tabWf_tabDrop _ _
    | exact tabWf_filter _
    | intro _
    | exact Nat.zero_le _
    | with_reducible apply Kept.ite
    | dsimp only
    | exact rfl
    | (split <;> (try (rename_i e; replace e := congrArg Prod.fst e; dsimp only at e; subst e)))
    | (refine Kept.same (t := ?_) ?_ (by dsimp only; rfl) (by with_reducible rfl) (by with_reducible rfl) (by with_reducible rfl) (by with_reducible rfl) (by with_reducible rfl) (by with_reducible rfl) (by with_reducible rfl) (by with_reducible rfl) (by with_reducible rfl))

theorem State.setSup_kept {r : State} {s : State} (v : SupplySt) (hK : Kept r s) : Kept r (State.setSup s v) := by
  unfold State.setSup
  repeat' first
    | with_reducible assumption
    | with_reducible exact Kept.refl _
    | exact id
    | exact tabWf_tabSet _ _
    | exact tabWf_tabDrop _ _
    | exact tabWf_filter _
    | intro _
    | exact Nat.zero_le _
    | with_reducible apply Kept.ite
    | dsimp only
    | exact rfl
    | (split <;> (try (rename_i e; replace e := congrArg Prod.fst e; dsimp only at e; subst e)))
    | (refine Kept.same (t := ?_) ?_ (by dsimp only; rfl) (by with_reducible rfl) (by with_reducible rfl) (by with_reducible rfl) (by with_reducible rfl) (by with_reducible rfl) (by with_reducible rfl) (by with_reducible rfl) (by with_reducible rfl) (by with_reducible rfl))

theorem State.allDown_kept {r : State} {s : State} (cold : Bool) (hK : Kept r s) : Kept r (State.allDown s cold) := by
  unfold State.allDown
  repeat' first
    | with_reducible assumption
    | with_reducible exact Kept.refl _
    | exact id
    | exact tabWf_tabSet _ _
    | exact tabWf_tabDrop _ _
    | exact tabWf_filter _
    | intro _
    | exact Nat.zero_le _
    | with_reducible apply State.each_kept
    | with_reducible apply State.domDown_kept

theorem State.swdStart_kept {r : State} {s : State} (hK : Kept r s) : Kept r (State.swdStart s) := by
  unfold State.swdStart
  repeat' first
    | with_reducible assumption
    | with_reducible exact Kept.refl _
    | exact id
    | exact tabWf_tabSet _ _
    | exact tabWf_tabDrop _ _
    | exact tabWf_filter _
    | intro _
    | exact Nat.zero_le _
    | with_reducible apply Kept.ite
    | dsimp only
    | exact rfl
    | (split <;> (try (rename_i e; replace e := congrArg Prod.fst e; dsimp only at e; subst e)))
    | (refine Kept.same (t := ?_) ?_ (by dsimp only; rfl) (by with_reducible rfl) (by with_reducible rfl) (by with_reducible rfl) (by with_reducible rfl) (by with_reducible rfl) (by with_reducible rfl) (by with_reducible rfl) (by with_reducible rfl) (by with_reducible rfl))

theorem State.coldState_kept {r : State} {s : State} (cause : ℕ) (wake : Bool) (hK : Kept r s) : Kept r (State.coldState s cause wake) := by
  unfold State.coldState
  repeat' first
    | with_reducible assumption
    | with_reducible exact Kept.refl _
    | exact id
    | exact tabWf_tabSet _ _
    | exact tabWf_tabDrop _ _
    | exact tabWf_filter _
    | intro _
    | exact Nat.zero_le _
    | with_reducible apply Kept.ite
    | dsimp only
    | exact rfl
    | (split <;> (try (rename_i e; replace e := congrArg Prod.fst e; dsimp only at e; subst e)))
    | (refine Kept.same (t := ?_) ?_ (by dsimp only; rfl) (by with_reducible rfl) (by with_reducible rfl) (by with_reducible rfl) (by with_reducible rfl) (by with_reducible rfl) (by with_reducible rfl) (by with_reducible rfl) (by with_reducible rfl) (by with_reducible rfl))
    | (refine Kept.parts (t := ?_) ?_ (by dsimp only; rfl) (fun _ => Nat.le_refl _) ?_ ?_ ?_ ?_ ?_ ?_ ?_ ?_)

theorem State.coldBoot_kept {r s : State} (cause : Nat) (wake : Bool) (hK : Kept r s) : Kept r (s.coldBoot cause wake) :=
  State.swdStart_kept (State.fenceUp_kept _ (State.domWedge_kept _ (State.setDom_kept _ _ (State.setPower_kept _ _
    (State.coldState_kept _ _ (State.wr_kept _ _ (State.wr_kept _ _ (State.resetRegs_kept _ _
      (State.domRegs_kept _ _ (State.allDown_kept _ hK))))))))))

theorem State.supIrq_kept {r : State} {s : State} (m : ℕ) (hK : Kept r s) : Kept r (State.supIrq s m) := by
  unfold State.supIrq
  repeat' first
    | with_reducible assumption
    | with_reducible exact Kept.refl _
    | exact id
    | exact tabWf_tabSet _ _
    | exact tabWf_tabDrop _ _
    | exact tabWf_filter _
    | intro _
    | exact Nat.zero_le _
    | with_reducible apply State.raise_kept
    | with_reducible apply State.each_kept
    | with_reducible apply State.withVec_kept

theorem State.supRec_kept {r : State} {s : State} (sub : ℕ) (lowest : ℕ) (us : ℕ) (hK : Kept r s) : Kept r (State.supRec s sub lowest us) := by
  unfold State.supRec
  repeat' first
    | with_reducible assumption
    | with_reducible exact Kept.refl _
    | exact id
    | exact tabWf_tabSet _ _
    | exact tabWf_tabDrop _ _
    | exact tabWf_filter _
    | intro _
    | exact Nat.zero_le _
    | with_reducible apply State.ldgAccept_kept

theorem State.takeInput_kept {r : State} {s : State} (podl : Bool) (vin : ℕ) (hK : Kept r s) : Kept r (State.takeInput s podl vin) := by
  unfold State.takeInput
  repeat' first
    | with_reducible assumption
    | with_reducible exact Kept.refl _
    | exact id
    | exact tabWf_tabSet _ _
    | exact tabWf_tabDrop _ _
    | exact tabWf_filter _
    | intro _
    | exact Nat.zero_le _
    | with_reducible apply State.put_kept

theorem State.vinNow_kept {r : State} {s : State} (vin : ℕ) (hK : Kept r s) : Kept r (State.vinNow s vin) := by
  unfold State.vinNow
  repeat' first
    | with_reducible assumption
    | with_reducible exact Kept.refl _
    | exact id
    | exact tabWf_tabSet _ _
    | exact tabWf_tabDrop _ _
    | exact tabWf_filter _
    | intro _
    | exact Nat.zero_le _
    | with_reducible apply State.put_kept
    | with_reducible apply State.when_kept
    | with_reducible apply State.setSup_kept

theorem State.clkStart_kept {r : State} {s : State} (hK : Kept r s) : Kept r (State.clkStart s) := by
  unfold State.clkStart
  repeat' first
    | with_reducible assumption
    | with_reducible exact Kept.refl _
    | exact id
    | exact tabWf_tabSet _ _
    | exact tabWf_tabDrop _ _
    | exact tabWf_filter _
    | intro _
    | exact Nat.zero_le _
    | with_reducible apply State.put_kept
    | with_reducible apply State.each_kept

theorem State.clkClamp_kept {r : State} {s : State} (hK : Kept r s) : Kept r (State.clkClamp s) := by
  unfold State.clkClamp
  repeat' first
    | with_reducible assumption
    | with_reducible exact Kept.refl _
    | exact id
    | exact tabWf_tabSet _ _
    | exact tabWf_tabDrop _ _
    | exact tabWf_filter _
    | intro _
    | exact Nat.zero_le _
    | with_reducible apply State.put_kept
    | with_reducible apply State.each_kept

theorem State.clkStep_kept {r : State} {s : State} (c : ℕ) (hK : Kept r s) : Kept r (State.clkStep s c) := by
  unfold State.clkStep
  repeat' first
    | with_reducible assumption
    | with_reducible exact Kept.refl _
    | exact id
    | exact tabWf_tabSet _ _
    | exact tabWf_tabDrop _ _
    | exact tabWf_filter _
    | intro _
    | exact Nat.zero_le _
    | with_reducible apply State.put_kept

theorem State.powerSample_kept {r : State} {s : State} (draw : ℕ) (hK : Kept r s) : Kept r (State.powerSample s draw) := by
  unfold State.powerSample
  repeat' first
    | with_reducible assumption
    | with_reducible exact Kept.refl _
    | exact id
    | exact tabWf_tabSet _ _
    | exact tabWf_tabDrop _ _
    | exact tabWf_filter _
    | intro _
    | exact Nat.zero_le _
    | with_reducible apply State.put_kept
    | with_reducible apply State.each_kept
    | with_reducible apply State.setPow_kept

theorem State.netArm_kept {r : State} {s : State} (hK : Kept r s) : Kept r (State.netArm s) := by
  unfold State.netArm
  repeat' first
    | with_reducible assumption
    | with_reducible exact Kept.refl _
    | exact id
    | exact tabWf_tabSet _ _
    | exact tabWf_tabDrop _ _
    | exact tabWf_filter _
    | intro _
    | exact Nat.zero_le _
    | with_reducible apply State.setPow_kept

theorem State.domOff_kept {r : State} {s : State} (d : ℕ) (hK : Kept r s) : Kept r (State.domOff s d) := by
  unfold State.domOff
  repeat' first
    | with_reducible assumption
    | with_reducible exact Kept.refl _
    | exact id
    | exact tabWf_tabSet _ _
    | exact tabWf_tabDrop _ _
    | exact tabWf_filter _
    | intro _
    | exact Nat.zero_le _
    | with_reducible apply State.each_kept
    | with_reducible apply State.when_kept
    | with_reducible apply State.slcEvict_kept
    | with_reducible apply State.l2Drain_kept
    | with_reducible apply State.domDown_kept
    | with_reducible apply State.netArm_kept
    | with_reducible apply Kept.ite

theorem State.emulOff_kept {r : State} {s : State} (d : ℕ) (hK : Kept r s) : Kept r (State.emulOff s d) := by
  unfold State.emulOff
  repeat' first
    | with_reducible assumption
    | with_reducible exact Kept.refl _
    | exact id
    | exact tabWf_tabSet _ _
    | exact tabWf_tabDrop _ _
    | exact tabWf_filter _
    | intro _
    | exact Nat.zero_le _
    | with_reducible apply State.put_kept
    | with_reducible apply State.each_kept
    | with_reducible apply State.when_kept
    | with_reducible apply State.setDom_kept
    | with_reducible apply Kept.ite

theorem State.emulBack_kept {r : State} {s : State} (d : ℕ) (hK : Kept r s) : Kept r (State.emulBack s d) := by
  unfold State.emulBack
  repeat' first
    | with_reducible assumption
    | with_reducible exact Kept.refl _
    | exact id
    | exact tabWf_tabSet _ _
    | exact tabWf_tabDrop _ _
    | exact tabWf_filter _
    | intro _
    | exact Nat.zero_le _
    | with_reducible apply State.put_kept
    | with_reducible apply State.each_kept
    | with_reducible apply State.when_kept
    | with_reducible apply State.setDom_kept
    | with_reducible apply State.ldgReopen_kept
    | with_reducible apply State.setPower_kept
    | with_reducible apply Kept.ite

theorem State.domStep_kept {r : State} {s : State} (d : ℕ) (hK : Kept r s) : Kept r (State.domStep s d) := by
  unfold State.domStep
  repeat' first
    | with_reducible assumption
    | with_reducible exact Kept.refl _
    | exact id
    | exact tabWf_tabSet _ _
    | exact tabWf_tabDrop _ _
    | exact tabWf_filter _
    | intro _
    | exact Nat.zero_le _
    | with_reducible apply State.when_kept
    | with_reducible apply State.closeAsk_kept
    | with_reducible apply State.ldgReopen_kept
    | with_reducible apply State.setPower_kept
    | with_reducible apply State.domDown_kept
    | with_reducible apply State.emulOff_kept
    | with_reducible apply State.emulBack_kept
    | with_reducible apply Kept.ite
    | dsimp only
    | exact rfl
    | (split <;> (try (rename_i e; replace e := congrArg Prod.fst e; dsimp only at e; subst e)))

theorem State.domSync_kept {r : State} {s : State} (hK : Kept r s) : Kept r (State.domSync s) := by
  unfold State.domSync
  repeat' first
    | with_reducible assumption
    | with_reducible exact Kept.refl _
    | exact id
    | exact tabWf_tabSet _ _
    | exact tabWf_tabDrop _ _
    | exact tabWf_filter _
    | intro _
    | exact Nat.zero_le _
    | with_reducible apply State.each_kept
    | with_reducible apply State.domStep_kept
    | with_reducible apply Kept.ite

theorem State.setMode_kept {r : State} {s : State} (m : ℕ) (hK : Kept r s) : Kept r (State.setMode s m) := by
  unfold State.setMode
  repeat' first
    | with_reducible assumption
    | with_reducible exact Kept.refl _
    | exact id
    | exact tabWf_tabSet _ _
    | exact tabWf_tabDrop _ _
    | exact tabWf_filter _
    | intro _
    | exact Nat.zero_le _
    | with_reducible apply State.put_kept
    | with_reducible apply State.closeAsk_kept
    | with_reducible apply State.setPow_kept
    | with_reducible apply State.supIrq_kept
    | with_reducible apply State.supRec_kept
    | with_reducible apply Kept.ite

theorem State.governNow_kept {r : State} {s : State} (hK : Kept r s) : Kept r (State.governNow s) := by
  unfold State.governNow
  repeat' first
    | with_reducible assumption
    | with_reducible exact Kept.refl _
    | exact id
    | exact tabWf_tabSet _ _
    | exact tabWf_tabDrop _ _
    | exact tabWf_filter _
    | intro _
    | exact Nat.zero_le _
    | with_reducible apply State.when_kept
    | with_reducible apply State.closeAsk_kept
    | with_reducible apply State.setMode_kept
    | with_reducible apply Kept.ite

theorem State.govern_kept {r : State} {s : State} (hK : Kept r s) : Kept r (State.govern s) := by
  unfold State.govern
  repeat' first
    | with_reducible assumption
    | with_reducible exact Kept.refl _
    | exact id
    | exact tabWf_tabSet _ _
    | exact tabWf_tabDrop _ _
    | exact tabWf_filter _
    | intro _
    | exact Nat.zero_le _
    | with_reducible apply State.put_kept
    | with_reducible apply State.governNow_kept
    | with_reducible apply Kept.ite

theorem State.secRetain_kept {r : State} {s : State} (hK : Kept r s) : Kept r (State.secRetain s) := by
  unfold State.secRetain
  repeat' first
    | with_reducible assumption
    | with_reducible exact Kept.refl _
    | exact id
    | exact tabWf_tabSet _ _
    | exact tabWf_tabDrop _ _
    | exact tabWf_filter _
    | intro _
    | exact Nat.zero_le _
    | with_reducible apply State.setDom_kept
    | with_reducible apply State.setPower_kept

theorem State.modeOff_kept {r : State} {s : State} (emul : Bool) (d : ℕ) (hK : Kept r s) : Kept r (State.modeOff s emul d) := by
  unfold State.modeOff
  repeat' first
    | with_reducible assumption
    | with_reducible exact Kept.refl _
    | exact id
    | exact tabWf_tabSet _ _
    | exact tabWf_tabDrop _ _
    | exact tabWf_filter _
    | intro _
    | exact Nat.zero_le _
    | with_reducible apply State.domOff_kept
    | with_reducible apply State.emulOff_kept
    | with_reducible apply Kept.ite

theorem State.keepEnter_kept {r : State} {s : State} (hK : Kept r s) : Kept r (State.keepEnter s) := by
  unfold State.keepEnter
  repeat' first
    | with_reducible assumption
    | with_reducible exact Kept.refl _
    | exact id
    | exact tabWf_tabSet _ _
    | exact tabWf_tabDrop _ _
    | exact tabWf_filter _
    | intro _
    | exact Nat.zero_le _
    | with_reducible apply State.each_kept
    | with_reducible apply State.setPow_kept
    | with_reducible apply State.govern_kept
    | with_reducible apply State.secRetain_kept
    | with_reducible apply State.modeOff_kept

theorem State.aotEdge_kept {r : State} {s : State} (hK : Kept r s) : Kept r (State.aotEdge s) := by
  unfold State.aotEdge
  repeat' first
    | with_reducible assumption
    | with_reducible exact Kept.refl _
    | exact id
    | exact tabWf_tabSet _ _
    | exact tabWf_tabDrop _ _
    | exact tabWf_filter _
    | intro _
    | exact Nat.zero_le _
    | with_reducible apply State.put_kept
    | with_reducible apply State.each_kept
    | with_reducible apply State.setTdom_kept
    | with_reducible apply State.setPow_kept
    | with_reducible apply Kept.ite

theorem State.sleepEnter_kept {r : State} {s : State} (hK : Kept r s) : Kept r (State.sleepEnter s) := by
  unfold State.sleepEnter
  repeat' first
    | with_reducible assumption
    | with_reducible exact Kept.refl _
    | exact id
    | exact tabWf_tabSet _ _
    | exact tabWf_tabDrop _ _
    | exact tabWf_filter _
    | intro _
    | exact Nat.zero_le _
    | with_reducible apply State.each_kept
    | with_reducible apply State.when_kept
    | with_reducible apply State.setPow_kept
    | with_reducible apply State.modeOff_kept
    | with_reducible apply State.aotEdge_kept
    | with_reducible apply Kept.ite
    | dsimp only
    | exact rfl
    | (split <;> (try (rename_i e; replace e := congrArg Prod.fst e; dsimp only at e; subst e)))
    | (refine Kept.same (t := ?_) ?_ (by dsimp only; rfl) (by with_reducible rfl) (by with_reducible rfl) (by with_reducible rfl) (by with_reducible rfl) (by with_reducible rfl) (by with_reducible rfl) (by with_reducible rfl) (by with_reducible rfl) (by with_reducible rfl))
    | (refine Kept.parts (t := ?_) ?_ (by dsimp only; rfl) (fun _ => Nat.le_refl _) ?_ ?_ ?_ ?_ ?_ ?_ ?_ ?_)

theorem State.keepExit_kept {r : State} {s : State} (hK : Kept r s) : Kept r (State.keepExit s) := by
  unfold State.keepExit
  repeat' first
    | with_reducible assumption
    | with_reducible exact Kept.refl _
    | exact id
    | exact tabWf_tabSet _ _
    | exact tabWf_tabDrop _ _
    | exact tabWf_filter _
    | intro _
    | exact Nat.zero_le _
    | with_reducible apply State.setDom_kept
    | with_reducible apply State.setPower_kept
    | with_reducible apply State.setPow_kept
    | with_reducible apply State.swdStart_kept
    | with_reducible apply State.domSync_kept
    | with_reducible apply State.secRetain_kept
    | with_reducible apply Kept.ite

theorem State.wake_kept {r : State} {s : State} (b : ℕ) (hK : Kept r s) : Kept r (State.wake s b) := by
  unfold State.wake
  repeat' first
    | with_reducible assumption
    | with_reducible exact Kept.refl _
    | exact id
    | exact tabWf_tabSet _ _
    | exact tabWf_tabDrop _ _
    | exact tabWf_filter _
    | intro _
    | exact Nat.zero_le _
    | with_reducible apply State.put_kept
    | with_reducible apply State.raise_kept
    | with_reducible apply State.when_kept
    | with_reducible apply State.ldgReopen_kept
    | with_reducible apply State.setPow_kept
    | with_reducible apply State.coldBoot_kept
    | with_reducible apply State.governNow_kept
    | with_reducible apply State.govern_kept
    | with_reducible apply Kept.ite

theorem State.alarmFire_kept {r : State} {s : State} (hK : Kept r s) : Kept r (State.alarmFire s) := by
  unfold State.alarmFire
  repeat' first
    | with_reducible assumption
    | with_reducible exact Kept.refl _
    | exact id
    | exact tabWf_tabSet _ _
    | exact tabWf_tabDrop _ _
    | exact tabWf_filter _
    | intro _
    | exact Nat.zero_le _
    | with_reducible apply State.put_kept
    | with_reducible apply State.raise_kept
    | with_reducible apply State.wake_kept
    | with_reducible apply Kept.ite

theorem State.wakeEvent_kept {r : State} {s : State} (src : WakeSrc) (hK : Kept r s) : Kept r (State.wakeEvent s src) := by
  unfold State.wakeEvent
  repeat' first
    | with_reducible assumption
    | with_reducible exact Kept.refl _
    | exact id
    | exact tabWf_tabSet _ _
    | exact tabWf_tabDrop _ _
    | exact tabWf_filter _
    | intro _
    | exact Nat.zero_le _
    | with_reducible apply State.put_kept
    | with_reducible apply State.when_kept
    | with_reducible apply State.setPow_kept
    | with_reducible apply State.wake_kept
    | with_reducible apply State.alarmFire_kept
    | with_reducible apply Kept.ite
    | dsimp only
    | exact rfl
    | (split <;> (try (rename_i e; replace e := congrArg Prod.fst e; dsimp only at e; subst e)))

theorem State.wakeSw_kept {r : State} {s : State} (a : Agent) (hK : Kept r s) : Kept r (State.wakeSw s a) := by
  unfold State.wakeSw
  repeat' first
    | with_reducible assumption
    | with_reducible exact Kept.refl _
    | exact id
    | exact tabWf_tabSet _ _
    | exact tabWf_tabDrop _ _
    | exact tabWf_filter _
    | intro _
    | exact Nat.zero_le _
    | with_reducible apply State.wake_kept
    | with_reducible apply Kept.ite
    | dsimp only
    | exact rfl
    | (split <;> (try (rename_i e; replace e := congrArg Prod.fst e; dsimp only at e; subst e)))

theorem State.pmRefused_kept {r : State} {s : State} (w : World) (src : ℕ) (port : ℕ) (d : ℕ) (b : ℕ) (power : Bool) (consent : Bool) (hK : Kept r s) : Kept r (State.pmRefused s w src port d b power consent) := by
  unfold State.pmRefused
  repeat' first
    | with_reducible assumption
    | with_reducible exact Kept.refl _
    | exact id
    | exact tabWf_tabSet _ _
    | exact tabWf_tabDrop _ _
    | exact tabWf_filter _
    | intro _
    | exact Nat.zero_le _
    | with_reducible apply State.sherd_kept

theorem State.pmRes_kept {r : State} {s : State} (w : World) (st : Status) (pend : Bool) (hK : Kept r s) : Kept r (State.pmRes s w st pend) := by
  unfold State.pmRes
  repeat' first
    | with_reducible assumption
    | with_reducible exact Kept.refl _
    | exact id
    | exact tabWf_tabSet _ _
    | exact tabWf_tabDrop _ _
    | exact tabWf_filter _
    | intro _
    | exact Nat.zero_le _
    | with_reducible apply State.put_kept
    | with_reducible apply State.res_kept

theorem State.hovIrq_kept {r : State} {s : State} (w : World) (f : State → State) (hK : Kept r s) (hf : ∀ a0, Kept a0 (f a0)) : Kept r (State.hovIrq s w f) := by
  unfold State.hovIrq
  repeat' first
    | with_reducible assumption
    | with_reducible exact Kept.refl _
    | exact id
    | exact tabWf_tabSet _ _
    | exact tabWf_tabDrop _ _
    | exact tabWf_filter _
    | intro _
    | exact Nat.zero_le _
    | refine Kept.trans ?_ (hf ..)
    | with_reducible apply State.withVec_kept

theorem State.setPending_kept {r : State} {s : State} (p : Option (ℕ × ℕ × ℕ)) (hK : Kept r s) : Kept r (State.setPending s p) := by
  unfold State.setPending
  repeat' first
    | with_reducible assumption
    | with_reducible exact Kept.refl _
    | exact id
    | exact tabWf_tabSet _ _
    | exact tabWf_tabDrop _ _
    | exact tabWf_filter _
    | intro _
    | exact Nat.zero_le _
    | with_reducible apply State.put_kept
    | with_reducible apply Kept.ite
    | dsimp only
    | exact rfl
    | (split <;> (try (rename_i e; replace e := congrArg Prod.fst e; dsimp only at e; subst e)))
    | (refine Kept.same (t := ?_) ?_ (by dsimp only; rfl) (by with_reducible rfl) (by with_reducible rfl) (by with_reducible rfl) (by with_reducible rfl) (by with_reducible rfl) (by with_reducible rfl) (by with_reducible rfl) (by with_reducible rfl) (by with_reducible rfl))

theorem State.domBit_kept {r : State} {s : State} (w : World) (d : ℕ) (v : ℕ) (hK : Kept r s) : Kept r (State.domBit s w d v) := by
  unfold State.domBit
  repeat' first
    | with_reducible assumption
    | with_reducible exact Kept.refl _
    | exact id
    | exact tabWf_tabSet _ _
    | exact tabWf_tabDrop _ _
    | exact tabWf_filter _
    | intro _
    | exact Nat.zero_le _
    | with_reducible apply State.put_kept

theorem State.domOffReq_kept {r : State} {s : State} (a : Agent) (w : World) (d : ℕ) (hK : Kept r s) : Kept r (State.domOffReq s a w d) := by
  unfold State.domOffReq
  repeat' first
    | with_reducible assumption
    | with_reducible exact Kept.refl _
    | exact id
    | exact tabWf_tabSet _ _
    | exact tabWf_tabDrop _ _
    | exact tabWf_filter _
    | intro _
    | exact Nat.zero_le _
    | with_reducible apply State.raise_kept
    | with_reducible apply State.domSync_kept
    | with_reducible apply State.pmRefused_kept
    | with_reducible apply State.pmRes_kept
    | with_reducible apply State.hovIrq_kept
    | with_reducible apply State.setPending_kept
    | with_reducible apply State.domBit_kept
    | with_reducible apply Kept.ite

theorem State.domOnReq_kept {r : State} {s : State} (a : Agent) (w : World) (d : ℕ) (hK : Kept r s) : Kept r (State.domOnReq s a w d) := by
  unfold State.domOnReq
  repeat' first
    | with_reducible assumption
    | with_reducible exact Kept.refl _
    | exact id
    | exact tabWf_tabSet _ _
    | exact tabWf_tabDrop _ _
    | exact tabWf_filter _
    | intro _
    | exact Nat.zero_le _
    | with_reducible apply State.domSync_kept
    | with_reducible apply State.pmRefused_kept
    | with_reducible apply State.pmRes_kept
    | with_reducible apply State.setPending_kept
    | with_reducible apply State.domBit_kept
    | with_reducible apply Kept.ite

theorem State.domReqWrite_kept {r : State} {s : State} (a : Agent) (w : World) (v : ℕ) (hK : Kept r s) : Kept r (State.domReqWrite s a w v) := by
  unfold State.domReqWrite
  repeat' first
    | with_reducible assumption
    | with_reducible exact Kept.refl _
    | exact id
    | exact tabWf_tabSet _ _
    | exact tabWf_tabDrop _ _
    | exact tabWf_filter _
    | intro _
    | exact Nat.zero_le _
    | with_reducible apply State.each_kept
    | with_reducible apply State.domOffReq_kept
    | with_reducible apply State.domOnReq_kept
    | with_reducible apply Kept.ite

theorem State.gateReq_kept {r : State} {s : State} (a : Agent) (w : World) (sid : ℕ) (gate : Bool) (hK : Kept r s) : Kept r (State.gateReq s a w sid gate) := by
  unfold State.gateReq
  repeat' first
    | with_reducible assumption
    | with_reducible exact Kept.refl _
    | exact id
    | exact tabWf_tabSet _ _
    | exact tabWf_tabDrop _ _
    | exact tabWf_filter _
    | intro _
    | exact Nat.zero_le _
    | with_reducible apply State.when_kept
    | with_reducible apply State.setPow_kept
    | with_reducible apply State.pmRefused_kept
    | with_reducible apply State.pmRes_kept
    | with_reducible apply Kept.ite

theorem State.corePower_kept {r : State} {s : State} (c : ℕ) (p : ℕ) (hK : Kept r s) : Kept r (State.corePower s c p) := by
  unfold State.corePower
  repeat' first
    | with_reducible assumption
    | with_reducible exact Kept.refl _
    | exact id
    | exact tabWf_tabSet _ _
    | exact tabWf_tabDrop _ _
    | exact tabWf_filter _
    | intro _
    | exact Nat.zero_le _
    | with_reducible apply State.put_kept
    | with_reducible apply State.when_kept

theorem State.coreReq_kept {r : State} {s : State} (c : ℕ) (req : ℕ) (hK : Kept r s) : Kept r (State.coreReq s c req) := by
  unfold State.coreReq
  repeat' first
    | with_reducible assumption
    | with_reducible exact Kept.refl _
    | exact id
    | exact tabWf_tabSet _ _
    | exact tabWf_tabDrop _ _
    | exact tabWf_filter _
    | intro _
    | exact Nat.zero_le _
    | with_reducible apply State.put_kept
    | with_reducible apply State.updHart_kept
    | with_reducible apply State.coreStart_kept
    | with_reducible apply State.corePower_kept
    | with_reducible apply Kept.ite
    | dsimp only
    | exact rfl
    | (split <;> (try (rename_i e; replace e := congrArg Prod.fst e; dsimp only at e; subst e)))
    | (refine Kept.same (t := ?_) ?_ (by dsimp only; rfl) (by with_reducible rfl) (by with_reducible rfl) (by with_reducible rfl) (by with_reducible rfl) (by with_reducible rfl) (by with_reducible rfl) (by with_reducible rfl) (by with_reducible rfl) (by with_reducible rfl))

theorem State.coreTransition_kept {r : State} {s : State} (c : ℕ) (hK : Kept r s) : Kept r (State.coreTransition s c) := by
  unfold State.coreTransition
  repeat' first
    | with_reducible assumption
    | with_reducible exact Kept.refl _
    | exact id
    | exact tabWf_tabSet _ _
    | exact tabWf_tabDrop _ _
    | exact tabWf_filter _
    | intro _
    | exact Nat.zero_le _
    | with_reducible apply State.put_kept
    | with_reducible apply State.setHart_kept
    | with_reducible apply State.updHart_kept
    | with_reducible apply State.l2Drain_kept
    | with_reducible apply State.breakLocks_kept
    | with_reducible apply State.corePower_kept
    | with_reducible apply Kept.ite
    | dsimp only
    | exact rfl
    | (split <;> (try (rename_i e; replace e := congrArg Prod.fst e; dsimp only at e; subst e)))
    | (refine Kept.same (t := ?_) ?_ (by dsimp only; rfl) (by with_reducible rfl) (by with_reducible rfl) (by with_reducible rfl) (by with_reducible rfl) (by with_reducible rfl) (by with_reducible rfl) (by with_reducible rfl) (by with_reducible rfl) (by with_reducible rfl))

theorem State.arrive_kept {r : State} {s : State} (podl : Bool) (vin : ℕ) (hK : Kept r s) : Kept r (State.arrive s podl vin) := by
  unfold State.arrive
  repeat' first
    | with_reducible assumption
    | with_reducible exact Kept.refl _
    | exact id
    | exact tabWf_tabSet _ _
    | exact tabWf_tabDrop _ _
    | exact tabWf_filter _
    | intro _
    | exact Nat.zero_le _
    | with_reducible apply State.put_kept
    | with_reducible apply State.resetRegs_kept
    | with_reducible apply State.setPow_kept
    | with_reducible apply State.coldBoot_kept
    | with_reducible apply State.takeInput_kept
    | with_reducible apply Kept.ite

theorem State.switchTo_kept {r : State} {s : State} (podl : Bool) (vin : ℕ) (hK : Kept r s) : Kept r (State.switchTo s podl vin) := by
  unfold State.switchTo
  repeat' first
    | with_reducible assumption
    | with_reducible exact Kept.refl _
    | exact id
    | exact tabWf_tabSet _ _
    | exact tabWf_tabDrop _ _
    | exact tabWf_filter _
    | intro _
    | exact Nat.zero_le _
    | with_reducible apply State.setSup_kept
    | with_reducible apply State.supIrq_kept
    | with_reducible apply State.supRec_kept
    | with_reducible apply State.takeInput_kept
    | with_reducible apply State.govern_kept

theorem State.podlArrive_kept {r : State} {s : State} (vin : ℕ) (hK : Kept r s) : Kept r (State.podlArrive s vin) := by
  unfold State.podlArrive
  repeat' first
    | with_reducible assumption
    | with_reducible exact Kept.refl _
    | exact id
    | exact tabWf_tabSet _ _
    | exact tabWf_tabDrop _ _
    | exact tabWf_filter _
    | intro _
    | exact Nat.zero_le _
    | with_reducible apply State.put_kept
    | with_reducible apply State.setSup_kept
    | with_reducible apply State.wakeEvent_kept
    | with_reducible apply State.arrive_kept
    | with_reducible apply State.switchTo_kept
    | with_reducible apply Kept.ite

theorem State.dipStart_kept {r : State} {s : State} (vin : ℕ) (hK : Kept r s) : Kept r (State.dipStart s vin) := by
  unfold State.dipStart
  repeat' first
    | with_reducible assumption
    | with_reducible exact Kept.refl _
    | exact id
    | exact tabWf_tabSet _ _
    | exact tabWf_tabDrop _ _
    | exact tabWf_filter _
    | intro _
    | exact Nat.zero_le _
    | with_reducible apply State.put_kept
    | with_reducible apply State.inc_kept
    | with_reducible apply State.setSup_kept
    | with_reducible apply State.supIrq_kept
    | with_reducible apply State.supRec_kept
    | with_reducible apply State.vinNow_kept
    | with_reducible apply State.clkClamp_kept
    | with_reducible apply Kept.ite

theorem State.dipOver_kept {r : State} {s : State} (hK : Kept r s) : Kept r (State.dipOver s) := by
  unfold State.dipOver
  repeat' first
    | with_reducible assumption
    | with_reducible exact Kept.refl _
    | exact id
    | exact tabWf_tabSet _ _
    | exact tabWf_tabDrop _ _
    | exact tabWf_filter _
    | intro _
    | exact Nat.zero_le _
    | with_reducible apply State.put_kept
    | with_reducible apply State.setSup_kept

theorem State.dipEnd_kept {r : State} {s : State} (hK : Kept r s) : Kept r (State.dipEnd s) := by
  unfold State.dipEnd
  repeat' first
    | with_reducible assumption
    | with_reducible exact Kept.refl _
    | exact id
    | exact tabWf_tabSet _ _
    | exact tabWf_tabDrop _ _
    | exact tabWf_filter _
    | intro _
    | exact Nat.zero_le _
    | with_reducible apply State.supIrq_kept
    | with_reducible apply State.supRec_kept
    | with_reducible apply State.dipOver_kept

theorem State.lastGasp_kept {r : State} {s : State} (low : ℕ) (us : ℕ) (hK : Kept r s) : Kept r (State.lastGasp s low us) := by
  unfold State.lastGasp
  repeat' first
    | with_reducible assumption
    | with_reducible exact Kept.refl _
    | exact id
    | exact tabWf_tabSet _ _
    | exact tabWf_tabDrop _ _
    | exact tabWf_filter _
    | intro _
    | exact Nat.zero_le _
    | with_reducible apply State.setLdg_kept
    | with_reducible apply State.ldgClose_kept
    | with_reducible apply State.supRec_kept
    | with_reducible apply Kept.ite
    | dsimp only
    | exact rfl
    | (split <;> (try (rename_i e; replace e := congrArg Prod.fst e; dsimp only at e; subst e)))

theorem State.supplyFall_kept {r : State} {s : State} (vin : ℕ) (cut : Bool) (hK : Kept r s) : Kept r (State.supplyFall s vin cut) := by
  unfold State.supplyFall
  repeat' first
    | with_reducible assumption
    | with_reducible exact Kept.refl _
    | exact id
    | exact tabWf_tabSet _ _
    | exact tabWf_tabDrop _ _
    | exact tabWf_filter _
    | intro _
    | exact Nat.zero_le _
    | with_reducible apply State.when_kept
    | with_reducible apply State.setSup_kept
    | with_reducible apply State.vinNow_kept
    | with_reducible apply State.dipOver_kept
    | with_reducible apply State.lastGasp_kept

theorem State.supplyHeld_kept {r : State} {s : State} (hK : Kept r s) : Kept r (State.supplyHeld s) := by
  unfold State.supplyHeld
  repeat' first
    | with_reducible assumption
    | with_reducible exact Kept.refl _
    | exact id
    | exact tabWf_tabSet _ _
    | exact tabWf_tabDrop _ _
    | exact tabWf_filter _
    | intro _
    | exact Nat.zero_le _
    | with_reducible apply Kept.ite
    | dsimp only
    | exact rfl
    | (split <;> (try (rename_i e; replace e := congrArg Prod.fst e; dsimp only at e; subst e)))
    | (refine Kept.same (t := ?_) ?_ (by dsimp only; rfl) (by with_reducible rfl) (by with_reducible rfl) (by with_reducible rfl) (by with_reducible rfl) (by with_reducible rfl) (by with_reducible rfl) (by with_reducible rfl) (by with_reducible rfl) (by with_reducible rfl))
    | (refine Kept.parts (t := ?_) ?_ (by dsimp only; rfl) (fun _ => Nat.le_refl _) ?_ ?_ ?_ ?_ ?_ ?_ ?_ ?_)

theorem State.holdupEnd_kept {r s : State} (hK : Kept r s) : Kept r s.holdupEnd :=
  State.supplyHeld_kept (State.allDown_kept _ (State.burnLost_kept hK))

theorem State.supplyBoot_kept {r : State} {s : State} (hK : Kept r s) : Kept r (State.supplyBoot s) := by
  unfold State.supplyBoot
  repeat' first
    | with_reducible assumption
    | with_reducible exact Kept.refl _
    | exact id
    | exact tabWf_tabSet _ _
    | exact tabWf_tabDrop _ _
    | exact tabWf_filter _
    | intro _
    | exact Nat.zero_le _
    | with_reducible apply State.setSup_kept
    | with_reducible apply State.coldBoot_kept

theorem State.unsupplied_kept {r : State} {s : State} (hK : Kept r s) : Kept r (State.unsupplied s) := by
  unfold State.unsupplied
  repeat' first
    | with_reducible assumption
    | with_reducible exact Kept.refl _
    | exact id
    | exact tabWf_tabSet _ _
    | exact tabWf_tabDrop _ _
    | exact tabWf_filter _
    | intro _
    | exact Nat.zero_le _
    | with_reducible apply Kept.ite
    | dsimp only
    | exact rfl
    | (split <;> (try (rename_i e; replace e := congrArg Prod.fst e; dsimp only at e; subst e)))
    | (refine Kept.same (t := ?_) ?_ (by dsimp only; rfl) (by with_reducible rfl) (by with_reducible rfl) (by with_reducible rfl) (by with_reducible rfl) (by with_reducible rfl) (by with_reducible rfl) (by with_reducible rfl) (by with_reducible rfl) (by with_reducible rfl))
    | (refine Kept.parts (t := ?_) ?_ (by dsimp only; rfl) (fun _ => Nat.le_refl _) ?_ ?_ ?_ ?_ ?_ ?_ ?_ ?_)

theorem State.aonDropout_kept {r s : State} (hK : Kept r s) : Kept r s.aonDropout :=
  State.unsupplied_kept (State.resetRegs_kept _ _ (State.allDown_kept _ (State.burnLost_kept hK)))

/-! ### Machine/Worlds -/

theorem State.wmkRequest_kept {r : State} {s : State} (new : ℕ) (expect : ℕ) (hK : Kept r s) : Kept r (State.wmkRequest s new expect) := by
  unfold State.wmkRequest
  repeat' first
    | with_reducible assumption
    | with_reducible exact Kept.refl _
    | exact id
    | exact tabWf_tabSet _ _
    | exact tabWf_tabDrop _ _
    | exact tabWf_filter _
    | intro _
    | exact Nat.zero_le _
    | with_reducible apply State.put_kept
    | with_reducible apply State.res_kept
    | with_reducible apply State.coneStart_kept
    | with_reducible apply Kept.ite
    | dsimp only
    | exact rfl
    | (split <;> (try (rename_i e; replace e := congrArg Prod.fst e; dsimp only at e; subst e)))
    | (refine Kept.same (t := ?_) ?_ (by dsimp only; rfl) (by with_reducible rfl) (by with_reducible rfl) (by with_reducible rfl) (by with_reducible rfl) (by with_reducible rfl) (by with_reducible rfl) (by with_reducible rfl) (by with_reducible rfl) (by with_reducible rfl))

theorem State.wmkBurnt_kept {r : State} {s : State} (hK : Kept r s) : Kept r (State.wmkBurnt s) := by
  unfold State.wmkBurnt
  repeat' first
    | with_reducible assumption
    | with_reducible exact Kept.refl _
    | exact id
    | exact tabWf_tabSet _ _
    | exact tabWf_tabDrop _ _
    | exact tabWf_filter _
    | intro _
    | exact Nat.zero_le _
    | with_reducible apply State.put_kept
    | with_reducible apply State.each_kept
    | with_reducible apply State.flushCopies_kept
    | with_reducible apply State.wedgeStart_kept
    | with_reducible apply Kept.ite
    | dsimp only
    | exact rfl
    | (split <;> (try (rename_i e; replace e := congrArg Prod.fst e; dsimp only at e; subst e)))
    | (refine Kept.same (t := ?_) ?_ (by dsimp only; rfl) (by with_reducible rfl) (by with_reducible rfl) (by with_reducible rfl) (by with_reducible rfl) (by with_reducible rfl) (by with_reducible rfl) (by with_reducible rfl) (by with_reducible rfl) (by with_reducible rfl))

theorem State.wmkEnd_kept {r : State} {s : State} (n : ℕ) (hK : Kept r s) : Kept r (State.wmkEnd s n) := by
  unfold State.wmkEnd
  repeat' first
    | with_reducible assumption
    | with_reducible exact Kept.refl _
    | exact id
    | exact tabWf_tabSet _ _
    | exact tabWf_tabDrop _ _
    | exact tabWf_filter _
    | intro _
    | exact Nat.zero_le _
    | with_reducible apply State.put_kept
    | with_reducible apply State.raise_kept
    | with_reducible apply Kept.ite
    | dsimp only
    | exact rfl
    | (split <;> (try (rename_i e; replace e := congrArg Prod.fst e; dsimp only at e; subst e)))
    | (refine Kept.same (t := ?_) ?_ (by dsimp only; rfl) (by with_reducible rfl) (by with_reducible rfl) (by with_reducible rfl) (by with_reducible rfl) (by with_reducible rfl) (by with_reducible rfl) (by with_reducible rfl) (by with_reducible rfl) (by with_reducible rfl))

theorem State.hovStage_kept {r : State} {s : State} (h : HovReq) (st : HovState) (hK : Kept r s) : Kept r (State.hovStage s h st) := by
  unfold State.hovStage
  repeat' first
    | with_reducible assumption
    | with_reducible exact Kept.refl _
    | exact id
    | exact tabWf_tabSet _ _
    | exact tabWf_tabDrop _ _
    | exact tabWf_filter _
    | intro _
    | exact Nat.zero_le _
    | with_reducible apply State.put_kept
    | with_reducible apply State.each_kept
    | with_reducible apply Kept.ite
    | dsimp only
    | exact rfl
    | (split <;> (try (rename_i e; replace e := congrArg Prod.fst e; dsimp only at e; subst e)))
    | (refine Kept.same (t := ?_) ?_ (by dsimp only; rfl) (by with_reducible rfl) (by with_reducible rfl) (by with_reducible rfl) (by with_reducible rfl) (by with_reducible rfl) (by with_reducible rfl) (by with_reducible rfl) (by with_reducible rfl) (by with_reducible rfl))

theorem State.hovOver_kept {r : State} {s : State} (h : HovReq) (st : Status) (withdrawn : Bool) (dur : ℕ) (hK : Kept r s) : Kept r (State.hovOver s h st withdrawn dur) := by
  unfold State.hovOver
  repeat' first
    | with_reducible assumption
    | with_reducible exact Kept.refl _
    | exact id
    | exact tabWf_tabSet _ _
    | exact tabWf_tabDrop _ _
    | exact tabWf_filter _
    | intro _
    | exact Nat.zero_le _
    | with_reducible apply State.put_kept
    | with_reducible apply State.raise_kept
    | with_reducible apply State.res_kept
    | with_reducible apply State.each_kept
    | with_reducible apply State.when_kept
    | with_reducible apply State.hovIrq_kept
    | with_reducible apply Kept.ite
    | dsimp only
    | exact rfl
    | (split <;> (try (rename_i e; replace e := congrArg Prod.fst e; dsimp only at e; subst e)))
    | (refine Kept.same (t := ?_) ?_ (by dsimp only; rfl) (by with_reducible rfl) (by with_reducible rfl) (by with_reducible rfl) (by with_reducible rfl) (by with_reducible rfl) (by with_reducible rfl) (by with_reducible rfl) (by with_reducible rfl) (by with_reducible rfl))

theorem State.hovRec_kept {r : State} {s : State} (h : HovReq) (st : Status) (dur : ℕ) (hK : Kept r s) : Kept r (State.hovRec s h st dur) := by
  unfold State.hovRec
  repeat' first
    | with_reducible assumption
    | with_reducible exact Kept.refl _
    | exact id
    | exact tabWf_tabSet _ _
    | exact tabWf_tabDrop _ _
    | exact tabWf_filter _
    | intro _
    | exact Nat.zero_le _
    | with_reducible apply State.ldgAccept_kept

theorem State.tkStop_kept {r : State} {s : State} (n : ℕ) (hK : Kept r s) : Kept r (State.tkStop s n) := by
  unfold State.tkStop
  repeat' first
    | with_reducible assumption
    | with_reducible exact Kept.refl _
    | exact id
    | exact tabWf_tabSet _ _
    | exact tabWf_tabDrop _ _
    | exact tabWf_filter _
    | intro _
    | exact Nat.zero_le _
    | with_reducible apply State.put_kept
    | with_reducible apply State.setHart_kept
    | with_reducible apply State.breakLocks_kept

theorem State.hovQuiesce_kept {r : State} {s : State} (h : HovReq) (hK : Kept r s) : Kept r (State.hovQuiesce s h) := by
  unfold State.hovQuiesce
  repeat' first
    | with_reducible assumption
    | with_reducible exact Kept.refl _
    | exact id
    | exact tabWf_tabSet _ _
    | exact tabWf_tabDrop _ _
    | exact tabWf_filter _
    | intro _
    | exact Nat.zero_le _
    | with_reducible apply State.each_kept
    | with_reducible apply State.sliceStartReset_kept
    | with_reducible apply State.setBc_kept
    | with_reducible apply State.bcEnd_kept
    | with_reducible apply State.closeAsk_kept
    | with_reducible apply State.hovStage_kept
    | with_reducible apply State.tkStop_kept
    | with_reducible apply Kept.ite

theorem State.hovPend_kept {r : State} {s : State} (v : Option ℕ) (hK : Kept r s) : Kept r (State.hovPend s v) := by
  unfold State.hovPend
  repeat' first
    | with_reducible assumption
    | with_reducible exact Kept.refl _
    | exact id
    | exact tabWf_tabSet _ _
    | exact tabWf_tabDrop _ _
    | exact tabWf_filter _
    | intro _
    | exact Nat.zero_le _
    | with_reducible apply State.put_kept
    | with_reducible apply Kept.ite
    | dsimp only
    | exact rfl
    | (split <;> (try (rename_i e; replace e := congrArg Prod.fst e; dsimp only at e; subst e)))

theorem State.hovRequest_kept {r : State} {s : State} (w : World) (sid : ℕ) (hK : Kept r s) : Kept r (State.hovRequest s w sid) := by
  unfold State.hovRequest
  repeat' first
    | with_reducible assumption
    | with_reducible exact Kept.refl _
    | exact id
    | exact tabWf_tabSet _ _
    | exact tabWf_tabDrop _ _
    | exact tabWf_filter _
    | intro _
    | exact Nat.zero_le _
    | with_reducible apply State.put_kept
    | with_reducible apply State.raise_kept
    | with_reducible apply State.res_kept
    | with_reducible apply State.hovIrq_kept
    | with_reducible apply State.hovStage_kept
    | with_reducible apply State.hovQuiesce_kept
    | with_reducible apply State.hovPend_kept
    | with_reducible apply Kept.ite
    | dsimp only
    | exact rfl
    | (split <;> (try (rename_i e; replace e := congrArg Prod.fst e; dsimp only at e; subst e)))
    | (refine Kept.same (t := ?_) ?_ (by dsimp only; rfl) (by with_reducible rfl) (by with_reducible rfl) (by with_reducible rfl) (by with_reducible rfl) (by with_reducible rfl) (by with_reducible rfl) (by with_reducible rfl) (by with_reducible rfl) (by with_reducible rfl))

theorem State.hovWithdraw_kept {r : State} {s : State} (w : World) (hK : Kept r s) : Kept r (State.hovWithdraw s w) := by
  unfold State.hovWithdraw
  repeat' first
    | with_reducible assumption
    | with_reducible exact Kept.refl _
    | exact id
    | exact tabWf_tabSet _ _
    | exact tabWf_tabDrop _ _
    | exact tabWf_filter _
    | intro _
    | exact Nat.zero_le _
    | with_reducible apply State.res_kept
    | with_reducible apply State.hovOver_kept
    | with_reducible apply State.hovPend_kept
    | with_reducible apply Kept.ite
    | dsimp only
    | exact rfl
    | (split <;> (try (rename_i e; replace e := congrArg Prod.fst e; dsimp only at e; subst e)))

theorem State.hovConsent_kept {r : State} {s : State} (grant : Bool) (refuse : Bool) (hK : Kept r s) : Kept r (State.hovConsent s grant refuse) := by
  unfold State.hovConsent
  repeat' first
    | with_reducible assumption
    | with_reducible exact Kept.refl _
    | exact id
    | exact tabWf_tabSet _ _
    | exact tabWf_tabDrop _ _
    | exact tabWf_filter _
    | intro _
    | exact Nat.zero_le _
    | with_reducible apply State.hovOver_kept
    | with_reducible apply State.hovRec_kept
    | with_reducible apply State.hovQuiesce_kept
    | with_reducible apply State.hovPend_kept
    | with_reducible apply Kept.ite
    | dsimp only
    | exact rfl
    | (split <;> (try (rename_i e; replace e := congrArg Prod.fst e; dsimp only at e; subst e)))

theorem State.hovRegs_kept {r : State} {s : State} (d : ℕ) (b : ℕ) (hK : Kept r s) : Kept r (State.hovRegs s d b) := by
  unfold State.hovRegs
  repeat' first
    | with_reducible assumption
    | with_reducible exact Kept.refl _
    | exact id
    | exact tabWf_tabSet _ _
    | exact tabWf_tabDrop _ _
    | exact tabWf_filter _
    | intro _
    | exact Nat.zero_le _
    | with_reducible apply State.wr_kept
    | with_reducible apply State.each_kept
    | with_reducible apply State.resetRegs_kept

theorem State.hovEngine_kept {r : State} {s : State} (d : ℕ) (b : ℕ) (hK : Kept r s) : Kept r (State.hovEngine s d b) := by
  unfold State.hovEngine
  repeat' first
    | with_reducible assumption
    | with_reducible exact Kept.refl _
    | exact id
    | exact tabWf_tabSet _ _
    | exact tabWf_tabDrop _ _
    | exact tabWf_filter _
    | intro _
    | exact Nat.zero_le _
    | with_reducible apply State.each_kept
    | with_reducible apply State.setHart_kept
    | with_reducible apply State.wedgeArray_kept
    | with_reducible apply State.flushCopies_kept
    | with_reducible apply State.wheelFinish_kept
    | with_reducible apply State.ptpSelectAll_kept
    | with_reducible apply State.unparkAll_kept
    | with_reducible apply State.epochStart_kept
    | with_reducible apply Kept.ite
    | dsimp only
    | exact rfl
    | (split <;> (try (rename_i e; replace e := congrArg Prod.fst e; dsimp only at e; subst e)))
    | (refine Kept.same (t := ?_) ?_ (by dsimp only; rfl) (by with_reducible rfl) (by with_reducible rfl) (by with_reducible rfl) (by with_reducible rfl) (by with_reducible rfl) (by with_reducible rfl) (by with_reducible rfl) (by with_reducible rfl) (by with_reducible rfl))
    | (refine Kept.parts (t := ?_) ?_ (by dsimp only; rfl) (fun _ => Nat.le_refl _) ?_ ?_ ?_ ?_ ?_ ?_ ?_ ?_)

theorem State.hovReset_kept {r : State} {s : State} (d : ℕ) (b : ℕ) (hK : Kept r s) : Kept r (State.hovReset s d b) := by
  unfold State.hovReset
  repeat' first
    | with_reducible assumption
    | with_reducible exact Kept.refl _
    | exact id
    | exact tabWf_tabSet _ _
    | exact tabWf_tabDrop _ _
    | exact tabWf_filter _
    | intro _
    | exact Nat.zero_le _
    | with_reducible apply State.hovRegs_kept
    | with_reducible apply State.hovEngine_kept

theorem State.setOwner_kept {r : State} {s : State} (d : ℕ) (b : ℕ) (w : World) (hK : Kept r s) : Kept r (State.setOwner s d b w) := by
  unfold State.setOwner
  repeat' first
    | with_reducible assumption
    | with_reducible exact Kept.refl _
    | exact id
    | exact tabWf_tabSet _ _
    | exact tabWf_tabDrop _ _
    | exact tabWf_filter _
    | intro _
    | exact Nat.zero_le _
    | with_reducible apply State.put_kept
    | with_reducible apply State.each_kept
    | with_reducible apply State.sourceMove_kept

theorem State.pmProceed_kept {r : State} {s : State} (hK : Kept r s) : Kept r (State.pmProceed s) := by
  unfold State.pmProceed
  repeat' first
    | with_reducible assumption
    | with_reducible exact Kept.refl _
    | exact id
    | exact tabWf_tabSet _ _
    | exact tabWf_tabDrop _ _
    | exact tabWf_filter _
    | intro _
    | exact Nat.zero_le _
    | with_reducible apply State.domSync_kept
    | with_reducible apply State.pmRes_kept
    | with_reducible apply State.setPending_kept
    | with_reducible apply Kept.ite
    | dsimp only
    | exact rfl
    | (split <;> (try (rename_i e; replace e := congrArg Prod.fst e; dsimp only at e; subst e)))

theorem State.hovGrant_kept {r : State} {s : State} (h : HovReq) (hK : Kept r s) : Kept r (State.hovGrant s h) := by
  unfold State.hovGrant
  repeat' first
    | with_reducible assumption
    | with_reducible exact Kept.refl _
    | exact id
    | exact tabWf_tabSet _ _
    | exact tabWf_tabDrop _ _
    | exact tabWf_filter _
    | intro _
    | exact Nat.zero_le _
    | with_reducible apply State.each_kept
    | with_reducible apply State.hovOver_kept
    | with_reducible apply State.hovRec_kept
    | with_reducible apply State.setOwner_kept
    | with_reducible apply State.pmProceed_kept
    | with_reducible apply Kept.ite
    | dsimp only
    | exact rfl
    | (split <;> (try (rename_i e; replace e := congrArg Prod.fst e; dsimp only at e; subst e)))

theorem State.pmConsent_kept {r : State} {s : State} (grant : Bool) (refuse : Bool) (hK : Kept r s) : Kept r (State.pmConsent s grant refuse) := by
  unfold State.pmConsent
  repeat' first
    | with_reducible assumption
    | with_reducible exact Kept.refl _
    | exact id
    | exact tabWf_tabSet _ _
    | exact tabWf_tabDrop _ _
    | exact tabWf_filter _
    | intro _
    | exact Nat.zero_le _
    | with_reducible apply State.pmRefused_kept
    | with_reducible apply State.pmRes_kept
    | with_reducible apply State.setPending_kept
    | with_reducible apply State.domBit_kept
    | with_reducible apply State.pmProceed_kept
    | with_reducible apply Kept.ite
    | dsimp only
    | exact rfl
    | (split <;> (try (rename_i e; replace e := congrArg Prod.fst e; dsimp only at e; subst e)))

theorem State.swdArm_kept {r : State} {s : State} (c : ℕ) (hK : Kept r s) : Kept r (State.swdArm s c) := by
  unfold State.swdArm
  repeat' first
    | with_reducible assumption
    | with_reducible exact Kept.refl _
    | exact id
    | exact tabWf_tabSet _ _
    | exact tabWf_tabDrop _ _
    | exact tabWf_filter _
    | intro _
    | exact Nat.zero_le _
    | with_reducible apply Kept.ite
    | dsimp only
    | exact rfl
    | (split <;> (try (rename_i e; replace e := congrArg Prod.fst e; dsimp only at e; subst e)))
    | (refine Kept.same (t := ?_) ?_ (by dsimp only; rfl) (by with_reducible rfl) (by with_reducible rfl) (by with_reducible rfl) (by with_reducible rfl) (by with_reducible rfl) (by with_reducible rfl) (by with_reducible rfl) (by with_reducible rfl) (by with_reducible rfl))

theorem State.swdKick_kept {r : State} {s : State} (c : ℕ) (seq : ℕ) (hK : Kept r s) : Kept r (State.swdKick s c seq) := by
  unfold State.swdKick
  repeat' first
    | with_reducible assumption
    | with_reducible exact Kept.refl _
    | exact id
    | exact tabWf_tabSet _ _
    | exact tabWf_tabDrop _ _
    | exact tabWf_filter _
    | intro _
    | exact Nat.zero_le _
    | with_reducible apply State.put_kept
    | with_reducible apply State.res_kept
    | with_reducible apply State.when_kept
    | with_reducible apply State.swdArm_kept
    | with_reducible apply Kept.ite

theorem State.swdExpired_kept {r : State} {s : State} (c : ℕ) (hK : Kept r s) : Kept r (State.swdExpired s c) := by
  unfold State.swdExpired
  repeat' first
    | with_reducible assumption
    | with_reducible exact Kept.refl _
    | exact id
    | exact tabWf_tabSet _ _
    | exact tabWf_tabDrop _ _
    | exact tabWf_filter _
    | intro _
    | exact Nat.zero_le _
    | with_reducible apply Kept.ite
    | dsimp only
    | exact rfl
    | (split <;> (try (rename_i e; replace e := congrArg Prod.fst e; dsimp only at e; subst e)))
    | (refine Kept.same (t := ?_) ?_ (by dsimp only; rfl) (by with_reducible rfl) (by with_reducible rfl) (by with_reducible rfl) (by with_reducible rfl) (by with_reducible rfl) (by with_reducible rfl) (by with_reducible rfl) (by with_reducible rfl) (by with_reducible rfl))

theorem State.swdSherd_kept {r : State} {s : State} (c : ℕ) (act : ℕ) (hK : Kept r s) : Kept r (State.swdSherd s c act) := by
  unfold State.swdSherd
  repeat' first
    | with_reducible assumption
    | with_reducible exact Kept.refl _
    | exact id
    | exact tabWf_tabSet _ _
    | exact tabWf_tabDrop _ _
    | exact tabWf_filter _
    | intro _
    | exact Nat.zero_le _
    | with_reducible apply State.sherd_kept

/-! ### Machine/Boot -/

theorem State.setBoot_kept {r s : State} (v : BootSt) (hf : v.fuses.steps = s.boot.fuses.steps)
    (hl : tabWf flashDefault s.boot.flash = true → tabWf flashDefault v.flash = true)
    (hK : Kept r s) : Kept r (s.setBoot v) :=
  hK.parts rfl (fun _ => Nat.le_of_eq (congrArg (fun t => tabGet (fun _ => 0) t _) hf.symm)) id id id id hl id id id

theorem State.putBytes_kept {r s : State} (a : Nat) (bs : List Byte) (hK : Kept r s) : Kept r (s.putBytes a bs) := by
  refine hK.parts rfl (fun _ => Nat.le_refl _) id (fun h => ?_) id id id id id id
  exact tabWf_foldl _ (fun t i => tabWf_tabSet (d := byteDefault) (a + i) (bs.getD i 0) (t := t)) (tabWf_tabDrop _ _ h)

theorem State.porstHeld_kept {r : State} {s : State} (hK : Kept r s) : Kept r (State.porstHeld s) := by
  unfold State.porstHeld
  repeat' first
    | with_reducible assumption
    | with_reducible exact Kept.refl _
    | exact id
    | exact tabWf_tabSet _ _
    | exact tabWf_tabDrop _ _
    | exact tabWf_filter _
    | intro _
    | exact Nat.zero_le _
    | with_reducible apply Kept.ite
    | dsimp only
    | exact rfl
    | (split <;> (try (rename_i e; replace e := congrArg Prod.fst e; dsimp only at e; subst e)))
    | (refine Kept.same (t := ?_) ?_ (by dsimp only; rfl) (by with_reducible rfl) (by with_reducible rfl) (by with_reducible rfl) (by with_reducible rfl) (by with_reducible rfl) (by with_reducible rfl) (by with_reducible rfl) (by with_reducible rfl) (by with_reducible rfl))
    | (refine Kept.parts (t := ?_) ?_ (by dsimp only; rfl) (fun _ => Nat.le_refl _) ?_ ?_ ?_ ?_ ?_ ?_ ?_ ?_)

theorem State.porstFall_kept {r s : State} (hK : Kept r s) : Kept r s.porstFall :=
  State.porstHeld_kept (State.wr_kept _ _ (State.wr_kept _ _ (State.domRegs_kept _ _ (State.allDown_kept _ (State.burnLost_kept hK)))))

theorem State.porstRise_kept {r : State} {s : State} (cid : ℕ) (hK : Kept r s) : Kept r (State.porstRise s cid) := by
  unfold State.porstRise
  repeat' first
    | with_reducible assumption
    | with_reducible exact Kept.refl _
    | exact id
    | exact tabWf_tabSet _ _
    | exact tabWf_tabDrop _ _
    | exact tabWf_filter _
    | intro _
    | exact Nat.zero_le _
    | with_reducible apply State.coldBoot_kept
    | with_reducible apply Kept.ite
    | dsimp only
    | exact rfl
    | (split <;> (try (rename_i e; replace e := congrArg Prod.fst e; dsimp only at e; subst e)))
    | (refine Kept.same (t := ?_) ?_ (by dsimp only; rfl) (by with_reducible rfl) (by with_reducible rfl) (by with_reducible rfl) (by with_reducible rfl) (by with_reducible rfl) (by with_reducible rfl) (by with_reducible rfl) (by with_reducible rfl) (by with_reducible rfl))

theorem State.ctlPut_kept {r : State} {s : State} (w : CbWrite) (hK : Kept r s) : Kept r (State.ctlPut s w) := by
  unfold State.ctlPut
  repeat' first
    | with_reducible assumption
    | with_reducible exact Kept.refl _
    | exact id
    | exact tabWf_tabSet _ _
    | exact tabWf_tabDrop _ _
    | exact tabWf_filter _
    | intro _
    | exact Nat.zero_le _
    | with_reducible apply State.flashPut_kept
    | with_reducible apply State.setBoot_kept
    | with_reducible apply Kept.ite
    | dsimp only

theorem State.slotOrder_kept {r : State} {s : State} (hK : Kept r s) : Kept r (State.slotOrder s).1 := by
  unfold State.slotOrder
  repeat' first
    | with_reducible assumption
    | with_reducible exact Kept.refl _
    | exact id
    | exact tabWf_tabSet _ _
    | exact tabWf_tabDrop _ _
    | exact tabWf_filter _
    | intro _
    | exact Nat.zero_le _
    | with_reducible apply State.ctlPut_kept
    | with_reducible apply Kept.ite
    | dsimp only
    | exact rfl
    | (split <;> (try (rename_i e; replace e := congrArg Prod.fst e; dsimp only at e; subst e)))

theorem State.imageTaken_kept {r : State} {s : State} (k : ℕ) (first : Bool) (trial : Bool) (rest : List ℕ) (hK : Kept r s) : Kept r (State.imageTaken s k first trial rest) := by
  unfold State.imageTaken
  repeat' first
    | with_reducible assumption
    | with_reducible exact Kept.refl _
    | exact id
    | exact tabWf_tabSet _ _
    | exact tabWf_tabDrop _ _
    | exact tabWf_filter _
    | intro _
    | exact Nat.zero_le _
    | with_reducible apply State.wr_kept
    | with_reducible apply State.put_kept
    | with_reducible apply State.each_kept
    | with_reducible apply State.setBoot_kept
    | with_reducible apply State.putBytes_kept
    | with_reducible apply Kept.ite
    | dsimp only

theorem State.trySlots_kept {r : State} (bad : ℕ → Bool) (trial : Bool) (x1 : List ℕ) (x2 : Bool) {x3 : State} (hK : Kept r x3) : Kept r (State.trySlots bad trial x1 x2 x3) := by
  induction x1 generalizing bad trial x2 x3 with
  | nil =>
    unfold State.trySlots
    repeat' first
      | with_reducible assumption
      | with_reducible exact Kept.refl _
      | exact id
      | exact tabWf_tabSet _ _
      | exact tabWf_tabDrop _ _
      | exact tabWf_filter _
      | intro _
      | exact Nat.zero_le _
      | with_reducible apply State.put_kept
      | with_reducible apply State.setBoot_kept
      | with_reducible apply State.imageTaken_kept
      | with_reducible apply Kept.ite
      | dsimp only
  | cons a l ih =>
    unfold State.trySlots
    repeat' first
      | with_reducible assumption
      | with_reducible exact Kept.refl _
      | with_reducible apply ih
      | exact id
      | exact tabWf_tabSet _ _
      | exact tabWf_tabDrop _ _
      | exact tabWf_filter _
      | intro _
      | exact Nat.zero_le _
      | with_reducible apply State.put_kept
      | with_reducible apply State.setBoot_kept
      | with_reducible apply State.imageTaken_kept
      | with_reducible apply Kept.ite

theorem State.romSelect_kept {r : State} {s : State} (badA : Bool) (badB : Bool) (hK : Kept r s) : Kept r (State.romSelect s badA badB) := by
  unfold State.romSelect
  repeat' first
    | with_reducible assumption
    | with_reducible exact Kept.refl _
    | exact id
    | exact tabWf_tabSet _ _
    | exact tabWf_tabDrop _ _
    | exact tabWf_filter _
    | intro _
    | exact Nat.zero_le _
    | with_reducible apply State.setBoot_kept
    | with_reducible apply State.slotOrder_kept
    | with_reducible apply State.trySlots_kept
    | with_reducible apply Kept.ite
    | dsimp only
    | exact rfl
    | (split <;> (try (rename_i e; replace e := congrArg Prod.fst e; dsimp only at e; subst e)))

theorem State.loadPower_kept {r : State} {s : State} (hK : Kept r s) : Kept r (State.loadPower s) := by
  unfold State.loadPower
  repeat' first
    | with_reducible assumption
    | with_reducible exact Kept.refl _
    | exact id
    | exact tabWf_tabSet _ _
    | exact tabWf_tabDrop _ _
    | exact tabWf_filter _
    | intro _
    | exact Nat.zero_le _
    | with_reducible apply State.put_kept
    | with_reducible apply State.setPow_kept

theorem State.bisque_kept {r : State} {s : State} (hK : Kept r s) : Kept r (State.bisque s) := by
  unfold State.bisque
  repeat' first
    | with_reducible assumption
    | with_reducible exact Kept.refl _
    | exact id
    | exact tabWf_tabSet _ _
    | exact tabWf_tabDrop _ _
    | exact tabWf_filter _
    | intro _
    | exact Nat.zero_le _
    | with_reducible apply State.each_kept
    | with_reducible apply State.domLoad_kept
    | with_reducible apply State.domUp_kept
    | with_reducible apply State.clkStart_kept
    | with_reducible apply State.setBoot_kept
    | with_reducible apply State.loadPower_kept
    | with_reducible apply Kept.ite
    | dsimp only

theorem State.imageUndone_kept {r : State} {s : State} (hK : Kept r s) : Kept r (State.imageUndone s) := by
  unfold State.imageUndone
  repeat' first
    | with_reducible assumption
    | with_reducible exact Kept.refl _
    | exact id
    | exact tabWf_tabSet _ _
    | exact tabWf_tabDrop _ _
    | exact tabWf_filter _
    | intro _
    | exact Nat.zero_le _
    | with_reducible apply Kept.ite
    | dsimp only
    | exact rfl
    | (split <;> (try (rename_i e; replace e := congrArg Prod.fst e; dsimp only at e; subst e)))
    | (refine Kept.same (t := ?_) ?_ (by dsimp only; rfl) (by with_reducible rfl) (by with_reducible rfl) (by with_reducible rfl) (by with_reducible rfl) (by with_reducible rfl) (by with_reducible rfl) (by with_reducible rfl) (by with_reducible rfl) (by with_reducible rfl))

theorem State.trainFail_kept {r s : State} (hK : Kept r s) : Kept r s.trainFail :=
  State.put_kept _ _ (State.wr_kept _ _ (State.imageUndone_kept (State.resetRegs_kept _ _ (State.resetRegs_kept _ _
    (State.each_kept _ _ hK fun _ t => State.domDown_kept _ _ _ (Kept.refl t))))))

theorem State.tc10Forward_kept {r : State} {s : State} (hK : Kept r s) : Kept r (State.tc10Forward s) := by
  unfold State.tc10Forward
  repeat' first
    | with_reducible assumption
    | with_reducible exact Kept.refl _
    | exact id
    | exact tabWf_tabSet _ _
    | exact tabWf_tabDrop _ _
    | exact tabWf_filter _
    | intro _
    | exact Nat.zero_le _
    | with_reducible apply State.put_kept
    | with_reducible apply State.raise_kept
    | with_reducible apply State.each_kept
    | with_reducible apply State.setPow_kept
    | with_reducible apply Kept.ite
    | dsimp only
    | exact rfl
    | (split <;> (try (rename_i e; replace e := congrArg Prod.fst e; dsimp only at e; subst e)))

theorem State.bootWedge_kept {r : State} {s : State} (hK : Kept r s) : Kept r (State.bootWedge s) := by
  unfold State.bootWedge
  repeat' first
    | with_reducible assumption
    | with_reducible exact Kept.refl _
    | exact id
    | exact tabWf_tabSet _ _
    | exact tabWf_tabDrop _ _
    | exact tabWf_filter _
    | intro _
    | exact Nat.zero_le _
    | with_reducible apply State.put_kept
    | with_reducible apply State.each_kept
    | with_reducible apply State.domWedge_kept
    | with_reducible apply State.fenceUp_kept
    | with_reducible apply State.tc10Forward_kept
    | with_reducible apply Kept.ite
    | dsimp only
    | exact rfl
    | (split <;> (try (rename_i e; replace e := congrArg Prod.fst e; dsimp only at e; subst e)))
    | (refine Kept.same (t := ?_) ?_ (by dsimp only; rfl) (by with_reducible rfl) (by with_reducible rfl) (by with_reducible rfl) (by with_reducible rfl) (by with_reducible rfl) (by with_reducible rfl) (by with_reducible rfl) (by with_reducible rfl) (by with_reducible rfl))
    | (refine Kept.parts (t := ?_) ?_ (by dsimp only; rfl) (fun _ => Nat.le_refl _) ?_ ?_ ?_ ?_ ?_ ?_ ?_ ?_)

theorem State.copyFirmware_kept {r : State} {s : State} (hK : Kept r s) : Kept r (State.copyFirmware s) := by
  unfold State.copyFirmware
  repeat' first
    | with_reducible assumption
    | with_reducible exact Kept.refl _
    | exact id
    | exact tabWf_tabSet _ _
    | exact tabWf_tabDrop _ _
    | exact tabWf_filter _
    | intro _
    | exact Nat.zero_le _
    | with_reducible apply State.putBytes_kept
    | with_reducible apply Kept.ite
    | with_reducible apply Kept.foldl
    | with_reducible apply Kept.foldlPair
    | dsimp only
    | exact rfl
    | (split <;> (try (rename_i e; replace e := congrArg Prod.fst e; dsimp only at e; subst e)))
    | (refine Kept.same (t := ?_) ?_ (by dsimp only; rfl) (by with_reducible rfl) (by with_reducible rfl) (by with_reducible rfl) (by with_reducible rfl) (by with_reducible rfl) (by with_reducible rfl) (by with_reducible rfl) (by with_reducible rfl) (by with_reducible rfl))

theorem State.glost_kept {r : State} {s : State} (medians : List ℕ) (hK : Kept r s) : Kept r (State.glost s medians) := by
  unfold State.glost
  repeat' first
    | with_reducible assumption
    | with_reducible exact Kept.refl _
    | exact id
    | exact tabWf_tabSet _ _
    | exact tabWf_tabDrop _ _
    | exact tabWf_filter _
    | intro _
    | exact Nat.zero_le _
    | with_reducible apply State.put_kept
    | with_reducible apply State.each_kept
    | with_reducible apply State.when_kept
    | with_reducible apply State.calibrated_kept
    | with_reducible apply State.coresStart_kept
    | with_reducible apply State.tkStart_kept
    | with_reducible apply State.wardenStart_kept
    | with_reducible apply State.govern_kept
    | with_reducible apply State.setBoot_kept
    | with_reducible apply State.copyFirmware_kept
    | with_reducible apply Kept.ite
    | dsimp only

theorem State.fireBegin_kept {r : State} {s : State} (op : FireOp) (hK : Kept r s) : Kept r (State.fireBegin s op).1 := by
  unfold State.fireBegin
  repeat' first
    | with_reducible assumption
    | with_reducible exact Kept.refl _
    | exact id
    | exact tabWf_tabSet _ _
    | exact tabWf_tabDrop _ _
    | exact tabWf_filter _
    | intro _
    | exact Nat.zero_le _
    | with_reducible apply State.put_kept
    | with_reducible apply State.ldgAccept_kept
    | with_reducible apply State.closeAsk_kept
    | with_reducible apply State.coneStart_kept
    | with_reducible apply State.setBoot_kept
    | with_reducible apply Kept.ite
    | dsimp only
    | exact rfl
    | (split <;> (try (rename_i e; replace e := congrArg Prod.fst e; dsimp only at e; subst e)))

theorem State.fireRun_kept {r : State} (x1 : List FireOp) {x2 : State} (hK : Kept r x2) : Kept r (State.fireRun x1 x2) := by
  induction x1 generalizing x2 with
  | nil =>
    unfold State.fireRun
    repeat' first
      | with_reducible assumption
      | with_reducible exact Kept.refl _
      | exact id
      | exact tabWf_tabSet _ _
      | exact tabWf_tabDrop _ _
      | exact tabWf_filter _
      | intro _
      | exact Nat.zero_le _
      | with_reducible apply State.res_kept
      | with_reducible apply State.setBoot_kept
      | with_reducible apply State.fireBegin_kept
      | with_reducible apply Kept.ite
      | dsimp only
      | exact rfl
  | cons a l ih =>
    unfold State.fireRun
    repeat' first
      | with_reducible assumption
      | with_reducible exact Kept.refl _
      | with_reducible apply ih
      | exact id
      | exact tabWf_tabSet _ _
      | exact tabWf_tabDrop _ _
      | exact tabWf_filter _
      | intro _
      | exact Nat.zero_le _
      | with_reducible apply State.res_kept
      | with_reducible apply State.setBoot_kept
      | with_reducible apply State.fireBegin_kept
      | with_reducible apply Kept.ite
      | dsimp only
      | exact rfl
      | (split <;> (try (rename_i e; replace e := congrArg Prod.fst e; dsimp only at e; subst e)))

theorem State.fireNext_kept {r : State} {s : State} (st : Status) (hK : Kept r s) : Kept r (State.fireNext s st) := by
  unfold State.fireNext
  repeat' first
    | with_reducible assumption
    | with_reducible exact Kept.refl _
    | exact id
    | exact tabWf_tabSet _ _
    | exact tabWf_tabDrop _ _
    | exact tabWf_filter _
    | intro _
    | exact Nat.zero_le _
    | with_reducible apply State.setBoot_kept
    | with_reducible apply State.fireRun_kept
    | with_reducible apply Kept.ite
    | dsimp only

theorem State.fireCtl_kept {r : State} {s : State} (ops : List FireOp) (hK : Kept r s) : Kept r (State.fireCtl s ops) := by
  unfold State.fireCtl
  repeat' first
    | with_reducible assumption
    | with_reducible exact Kept.refl _
    | exact id
    | exact tabWf_tabSet _ _
    | exact tabWf_tabDrop _ _
    | exact tabWf_filter _
    | intro _
    | exact Nat.zero_le _
    | with_reducible apply State.res_kept
    | with_reducible apply State.fireRun_kept
    | with_reducible apply Kept.ite

theorem State.ctlWritten_kept {r : State} {s : State} (w : CbWrite) (hK : Kept r s) : Kept r (State.ctlWritten s w) := by
  unfold State.ctlWritten
  repeat' first
    | with_reducible assumption
    | with_reducible exact Kept.refl _
    | exact id
    | exact tabWf_tabSet _ _
    | exact tabWf_tabDrop _ _
    | exact tabWf_filter _
    | intro _
    | exact Nat.zero_le _
    | with_reducible apply State.put_kept
    | with_reducible apply State.when_kept
    | with_reducible apply State.setBoot_kept
    | with_reducible apply State.ctlPut_kept
    | with_reducible apply State.fireNext_kept
    | with_reducible apply Kept.ite
    | dsimp only
    | exact rfl

theorem State.commitStep_kept {r : State} {s : State} (hK : Kept r s) : Kept r (State.commitStep s) := by
  unfold State.commitStep
  repeat' first
    | with_reducible assumption
    | with_reducible exact Kept.refl _
    | exact id
    | exact tabWf_tabSet _ _
    | exact tabWf_tabDrop _ _
    | exact tabWf_filter _
    | intro _
    | exact Nat.zero_le _
    | with_reducible apply State.fireBegin_kept
    | with_reducible apply State.fireNext_kept
    | with_reducible apply Kept.ite
    | dsimp only
    | exact rfl
    | (split <;> (try (rename_i e; replace e := congrArg Prod.fst e; dsimp only at e; subst e)))

theorem State.flashStart_kept {r : State} {s : State} (op : ℕ) (hK : Kept r s) : Kept r (State.flashStart s op) := by
  unfold State.flashStart
  repeat' first
    | with_reducible assumption
    | with_reducible exact Kept.refl _
    | exact id
    | exact tabWf_tabSet _ _
    | exact tabWf_tabDrop _ _
    | exact tabWf_filter _
    | intro _
    | exact Nat.zero_le _
    | with_reducible apply State.put_kept
    | with_reducible apply State.res_kept
    | with_reducible apply State.setBoot_kept
    | with_reducible apply Kept.ite
    | dsimp only

theorem State.flashDone_kept {r s : State} (c : FlashCmd) (hK : Kept r s) : Kept r (s.flashDone c) := by
  unfold State.flashDone
  extract_lets lo hi b t
  have ht : Kept r t := State.put_kept _ _ (State.setBoot_kept _ rfl id hK)
  repeat' first
    | exact ht
    | exact rfl
    | exact tabWf_tabDrop _ _
    | with_reducible apply State.res_kept
    | with_reducible apply State.setBoot_kept
    | with_reducible apply State.flashPut_kept
    | split

theorem State.flashData_kept {r : State} {s : State} (hK : Kept r s) : Kept r (State.flashData s).1 := by
  unfold State.flashData
  repeat' first
    | with_reducible assumption
    | with_reducible exact Kept.refl _
    | exact id
    | exact tabWf_tabSet _ _
    | exact tabWf_tabDrop _ _
    | exact tabWf_filter _
    | intro _
    | exact Nat.zero_le _
    | with_reducible apply State.put_kept

end Sys2Proof.Machine
end

