-- ==== Sys2Proof/Laws/KeptBus.lean ====
section
/-! SUPPORT. What no operation of the debug unit, the cascade and the register bus does: each keeps the queue of commands, sets no burnt
step of the lifecycle back and keeps the storage invariant (`Kept`). -/

set_option linter.unusedTactic false
set_option linter.unreachableTactic false
set_option linter.unusedVariables false

namespace Sys2Proof.Machine
open Sys2Proof

/-! ### Machine/Debug -/

theorem State.debugEnter_kept {r : State} {s : State} (h : ℕ) (cause : ℕ) (hK : Kept r s) : Kept r (State.debugEnter s h cause) := by
  unfold State.debugEnter
  repeat' first
    | with_reducible assumption
    | with_reducible exact Kept.refl _
    | exact id
    | exact tabWf_tabSet _ _
    | exact tabWf_tabDrop _ _
    | exact tabWf_filter _
    | intro _
    | exact Nat.zero_le _
    | with_reducible apply State.updHart_kept
    | with_reducible apply State.setCsr_kept
    | with_reducible apply State.modesNow_kept
    | with_reducible apply State.saggarLeave_kept
    | with_reducible apply Kept.ite
    | dsimp only
    | exact rfl
    | (split <;> (try (rename_i e; replace e := congrArg Prod.fst e; dsimp only at e; subst e)))
    | (refine Kept.same (t := ?_) ?_ (by dsimp only; rfl) (by with_reducible rfl) (by with_reducible rfl) (by with_reducible rfl) (by with_reducible rfl) (by with_reducible rfl) (by with_reducible rfl) (by with_reducible rfl) (by with_reducible rfl) (by with_reducible rfl))

theorem State.debugResume_kept {r : State} {s : State} (h : ℕ) (hK : Kept r s) : Kept r (State.debugResume s h) := by
  unfold State.debugResume
  repeat' first
    | with_reducible assumption
    | with_reducible exact Kept.refl _
    | exact id
    | exact tabWf_tabSet _ _
    | exact tabWf_tabDrop _ _
    | exact tabWf_filter _
    | intro _
    | exact Nat.zero_le _
    | with_reducible apply State.updHart_kept

theorem State.haltCommit_kept {r : State} {s : State} (h : ℕ) (hK : Kept r s) : Kept r (State.haltCommit s h) := by
  unfold State.haltCommit
  repeat' first
    | with_reducible assumption
    | with_reducible exact Kept.refl _
    | exact id
    | exact tabWf_tabSet _ _
    | exact tabWf_tabDrop _ _
    | exact tabWf_filter _
    | intro _
    | exact Nat.zero_le _
    | with_reducible apply State.epoCommit_kept
    | with_reducible apply Kept.ite

theorem State.xtrgDrop_kept {r : State} {s : State} (hK : Kept r s) : Kept r (State.xtrgDrop s) := by
  unfold State.xtrgDrop
  repeat' first
    | with_reducible assumption
    | with_reducible exact Kept.refl _
    | exact id
    | exact tabWf_tabSet _ _
    | exact tabWf_tabDrop _ _
    | exact tabWf_filter _
    | intro _
    | exact Nat.zero_le _
    | with_reducible apply State.inc_kept

theorem State.xtrgHart_kept {r : State} {s : State} (ch : ℕ) (h : ℕ) (hK : Kept r s) : Kept r (State.xtrgHart s ch h).1 := by
  unfold State.xtrgHart
  repeat' first
    | with_reducible assumption
    | with_reducible exact Kept.refl _
    | exact id
    | exact tabWf_tabSet _ _
    | exact tabWf_tabDrop _ _
    | exact tabWf_filter _
    | intro _
    | exact Nat.zero_le _
    | with_reducible apply State.debugEnter_kept
    | with_reducible apply State.debugResume_kept
    | with_reducible apply State.haltCommit_kept
    | with_reducible apply State.xtrgDrop_kept
    | with_reducible apply Kept.ite
    | dsimp only
    | exact rfl
    | (split <;> (try (rename_i e; replace e := congrArg Prod.fst e; dsimp only at e; subst e)))

theorem State.xtrgSend_kept {r : State} {s : State} (x1 : ℕ) (x2 : ℕ) (hK : Kept r s) : Kept r (State.xtrgSend s x1 x2) := by
  induction x1 generalizing s x2 with
  | zero =>
    unfold State.xtrgSend
    repeat' first
      | with_reducible assumption
  | succ m ih =>
    unfold State.xtrgSend
    repeat' first
      | with_reducible assumption
      | with_reducible exact Kept.refl _
      | with_reducible apply ih
      | exact id
      | exact tabWf_tabSet _ _
      | exact tabWf_tabDrop _ _
      | exact tabWf_filter _
      | intro _
      | exact Nat.zero_le _
      | with_reducible apply State.raise_kept
      | with_reducible apply State.xtrgHart_kept
      | with_reducible apply Kept.ite
      | with_reducible apply Kept.foldl
      | with_reducible apply Kept.foldlPair

theorem State.xtrgEvent_kept {r : State} {s : State} (i : ℕ) (hK : Kept r s) : Kept r (State.xtrgEvent s i) := by
  unfold State.xtrgEvent
  repeat' first
    | with_reducible assumption
    | with_reducible exact Kept.refl _
    | exact id
    | exact tabWf_tabSet _ _
    | exact tabWf_tabDrop _ _
    | exact tabWf_filter _
    | intro _
    | exact Nat.zero_le _
    | with_reducible apply State.xtrgSend_kept

theorem State.xtrgOfHart_kept {r : State} {s : State} (h : ℕ) (i : ℕ) (hK : Kept r s) : Kept r (State.xtrgOfHart s h i) := by
  unfold State.xtrgOfHart
  repeat' first
    | with_reducible assumption
    | with_reducible exact Kept.refl _
    | exact id
    | exact tabWf_tabSet _ _
    | exact tabWf_tabDrop _ _
    | exact tabWf_filter _
    | intro _
    | exact Nat.zero_le _
    | with_reducible apply State.when_kept
    | with_reducible apply State.xtrgEvent_kept

theorem State.debugHalt_kept {r : State} {s : State} (h : ℕ) (cause : ℕ) (hK : Kept r s) : Kept r (State.debugHalt s h cause) := by
  unfold State.debugHalt
  repeat' first
    | with_reducible assumption
    | with_reducible exact Kept.refl _
    | exact id
    | exact tabWf_tabSet _ _
    | exact tabWf_tabDrop _ _
    | exact tabWf_filter _
    | intro _
    | exact Nat.zero_le _
    | with_reducible apply State.debugEnter_kept
    | with_reducible apply State.xtrgOfHart_kept

theorem State.haltPend_kept {r : State} {s : State} (h : ℕ) (hK : Kept r s) : Kept r (State.haltPend s h) := by
  unfold State.haltPend
  repeat' first
    | with_reducible assumption
    | with_reducible exact Kept.refl _
    | exact id
    | exact tabWf_tabSet _ _
    | exact tabWf_tabDrop _ _
    | exact tabWf_filter _
    | intro _
    | exact Nat.zero_le _
    | with_reducible apply Kept.ite
    | dsimp only
    | exact rfl
    | (split <;> (try (rename_i e; replace e := congrArg Prod.fst e; dsimp only at e; subst e)))
    | (refine Kept.same (t := ?_) ?_ (by dsimp only; rfl) (by with_reducible rfl) (by with_reducible rfl) (by with_reducible rfl) (by with_reducible rfl) (by with_reducible rfl) (by with_reducible rfl) (by with_reducible rfl) (by with_reducible rfl) (by with_reducible rfl))

theorem State.haltRequest_kept {r : State} {s : State} (h : ℕ) (hK : Kept r s) : Kept r (State.haltRequest s h) := by
  unfold State.haltRequest
  repeat' first
    | with_reducible assumption
    | with_reducible exact Kept.refl _
    | exact id
    | exact tabWf_tabSet _ _
    | exact tabWf_tabDrop _ _
    | exact tabWf_filter _
    | intro _
    | exact Nat.zero_le _
    | with_reducible apply State.haltCommit_kept
    | with_reducible apply State.debugHalt_kept
    | with_reducible apply State.haltPend_kept
    | with_reducible apply Kept.ite

theorem State.pollHalt_kept {r : State} {s : State} (h : ℕ) (hK : Kept r s) : Kept r (State.pollHalt s h) := by
  unfold State.pollHalt
  repeat' first
    | with_reducible assumption
    | with_reducible exact Kept.refl _
    | exact id
    | exact tabWf_tabSet _ _
    | exact tabWf_tabDrop _ _
    | exact tabWf_filter _
    | intro _
    | exact Nat.zero_le _
    | with_reducible apply State.haltCommit_kept
    | with_reducible apply State.debugHalt_kept
    | with_reducible apply Kept.ite

theorem State.pollStep_kept {r : State} {s : State} (h : ℕ) (hK : Kept r s) : Kept r (State.pollStep s h) := by
  unfold State.pollStep
  repeat' first
    | with_reducible assumption
    | with_reducible exact Kept.refl _
    | exact id
    | exact tabWf_tabSet _ _
    | exact tabWf_tabDrop _ _
    | exact tabWf_filter _
    | intro _
    | exact Nat.zero_le _
    | with_reducible apply State.debugHalt_kept
    | with_reducible apply State.pollHalt_kept
    | with_reducible apply Kept.ite

theorem State.resumeRequest_kept {r : State} {s : State} (h : ℕ) (hK : Kept r s) : Kept r (State.resumeRequest s h) := by
  unfold State.resumeRequest
  repeat' first
    | with_reducible assumption
    | with_reducible exact Kept.refl _
    | exact id
    | exact tabWf_tabSet _ _
    | exact tabWf_tabDrop _ _
    | exact tabWf_filter _
    | intro _
    | exact Nat.zero_le _
    | with_reducible apply State.debugResume_kept
    | with_reducible apply Kept.ite
    | dsimp only
    | exact rfl
    | (split <;> (try (rename_i e; replace e := congrArg Prod.fst e; dsimp only at e; subst e)))
    | (refine Kept.same (t := ?_) ?_ (by dsimp only; rfl) (by with_reducible rfl) (by with_reducible rfl) (by with_reducible rfl) (by with_reducible rfl) (by with_reducible rfl) (by with_reducible rfl) (by with_reducible rfl) (by with_reducible rfl) (by with_reducible rfl))

theorem State.debugWithdrawn_kept {r : State} {s : State} (hK : Kept r s) : Kept r (State.debugWithdrawn s) := by
  unfold State.debugWithdrawn
  repeat' first
    | with_reducible assumption
    | with_reducible exact Kept.refl _
    | exact id
    | exact tabWf_tabSet _ _
    | exact tabWf_tabDrop _ _
    | exact tabWf_filter _
    | intro _
    | exact Nat.zero_le _
    | with_reducible apply State.each_kept
    | with_reducible apply State.debugResume_kept
    | with_reducible apply Kept.ite

theorem State.dapLockRel_kept {r : State} {s : State} (n : ℕ) (hK : Kept r s) : Kept r (State.dapLockRel s n) := by
  unfold State.dapLockRel
  repeat' first
    | with_reducible assumption
    | with_reducible exact Kept.refl _
    | exact id
    | exact tabWf_tabSet _ _
    | exact tabWf_tabDrop _ _
    | exact tabWf_filter _
    | intro _
    | exact Nat.zero_le _
    | with_reducible apply State.put_kept
    | with_reducible apply State.res_kept
    | with_reducible apply State.lockBreak_kept
    | with_reducible apply Kept.ite

theorem State.cwdKick_kept {r : State} {s : State} (c : ℕ) (hK : Kept r s) : Kept r (State.cwdKick s c) := by
  unfold State.cwdKick
  repeat' first
    | with_reducible assumption
    | with_reducible exact Kept.refl _
    | exact id
    | exact tabWf_tabSet _ _
    | exact tabWf_tabDrop _ _
    | exact tabWf_filter _
    | intro _
    | exact Nat.zero_le _
    | with_reducible apply State.cwdLoad_kept
    | with_reducible apply Kept.ite

theorem State.cwdRestart_kept {r : State} {s : State} (c : ℕ) (hK : Kept r s) : Kept r (State.cwdRestart s c) := by
  unfold State.cwdRestart
  repeat' first
    | with_reducible assumption
    | with_reducible exact Kept.refl _
    | exact id
    | exact tabWf_tabSet _ _
    | exact tabWf_tabDrop _ _
    | exact tabWf_filter _
    | intro _
    | exact Nat.zero_le _
    | with_reducible apply State.put_kept
    | with_reducible apply State.updHart_kept
    | with_reducible apply State.l2Drain_kept
    | with_reducible apply State.breakLocks_kept
    | with_reducible apply State.coreStart_kept

theorem State.cwdExpire_kept {r : State} {s : State} (c : ℕ) (hK : Kept r s) : Kept r (State.cwdExpire s c) := by
  unfold State.cwdExpire
  repeat' first
    | with_reducible assumption
    | with_reducible exact Kept.refl _
    | exact id
    | exact tabWf_tabSet _ _
    | exact tabWf_tabDrop _ _
    | exact tabWf_filter _
    | intro _
    | exact Nat.zero_le _
    | with_reducible apply State.put_kept
    | with_reducible apply State.when_kept
    | with_reducible apply State.cwdLoad_kept
    | with_reducible apply State.cwdRestart_kept
    | with_reducible apply Kept.ite
    | dsimp only
    | exact rfl
    | (split <;> (try (rename_i e; replace e := congrArg Prod.fst e; dsimp only at e; subst e)))
    | (refine Kept.same (t := ?_) ?_ (by dsimp only; rfl) (by with_reducible rfl) (by with_reducible rfl) (by with_reducible rfl) (by with_reducible rfl) (by with_reducible rfl) (by with_reducible rfl) (by with_reducible rfl) (by with_reducible rfl) (by with_reducible rfl))

theorem State.emulReal_kept {r : State} {s : State} (d : ℕ) (hK : Kept r s) : Kept r (State.emulReal s d) := by
  unfold State.emulReal
  repeat' first
    | with_reducible assumption
    | with_reducible exact Kept.refl _
    | exact id
    | exact tabWf_tabSet _ _
    | exact tabWf_tabDrop _ _
    | exact tabWf_filter _
    | intro _
    | exact Nat.zero_le _
    | with_reducible apply State.domOff_kept
    | with_reducible apply Kept.ite

theorem State.domsReal_kept {r : State} {s : State} (hK : Kept r s) : Kept r (State.domsReal s) := by
  unfold State.domsReal
  repeat' first
    | with_reducible assumption
    | with_reducible exact Kept.refl _
    | exact id
    | exact tabWf_tabSet _ _
    | exact tabWf_tabDrop _ _
    | exact tabWf_filter _
    | intro _
    | exact Nat.zero_le _
    | with_reducible apply State.each_kept
    | with_reducible apply State.when_kept
    | with_reducible apply State.emulBack_kept
    | with_reducible apply State.domSync_kept
    | with_reducible apply State.aotEdge_kept
    | with_reducible apply State.emulReal_kept
    | with_reducible apply Kept.ite
    | dsimp only
    | exact rfl
    | (split <;> (try (rename_i e; replace e := congrArg Prod.fst e; dsimp only at e; subst e)))
    | (refine Kept.same (t := ?_) ?_ (by dsimp only; rfl) (by with_reducible rfl) (by with_reducible rfl) (by with_reducible rfl) (by with_reducible rfl) (by with_reducible rfl) (by with_reducible rfl) (by with_reducible rfl) (by with_reducible rfl) (by with_reducible rfl))
    | (refine Kept.parts (t := ?_) ?_ (by dsimp only; rfl) (fun _ => Nat.le_refl _) ?_ ?_ ?_ ?_ ?_ ?_ ?_ ?_)

theorem State.coresReal_kept {r : State} {s : State} (hK : Kept r s) : Kept r (State.coresReal s) := by
  unfold State.coresReal
  repeat' first
    | with_reducible assumption
    | with_reducible exact Kept.refl _
    | exact id
    | exact tabWf_tabSet _ _
    | exact tabWf_tabDrop _ _
    | exact tabWf_filter _
    | intro _
    | exact Nat.zero_le _
    | with_reducible apply State.each_kept
    | with_reducible apply State.setHart_kept
    | with_reducible apply State.l2Drain_kept
    | with_reducible apply State.breakLocks_kept
    | with_reducible apply State.corePower_kept

theorem State.debugDetach_kept {r : State} {s : State} (hK : Kept r s) : Kept r (State.debugDetach s) := by
  unfold State.debugDetach
  repeat' first
    | with_reducible assumption
    | with_reducible exact Kept.refl _
    | exact id
    | exact tabWf_tabSet _ _
    | exact tabWf_tabDrop _ _
    | exact tabWf_filter _
    | intro _
    | exact Nat.zero_le _
    | with_reducible apply State.each_kept
    | with_reducible apply State.when_kept
    | with_reducible apply State.tookFree_kept
    | with_reducible apply State.debugResume_kept
    | with_reducible apply State.domsReal_kept
    | with_reducible apply State.coresReal_kept
    | with_reducible apply Kept.ite
    | dsimp only
    | exact rfl
    | (split <;> (try (rename_i e; replace e := congrArg Prod.fst e; dsimp only at e; subst e)))
    | (refine Kept.same (t := ?_) ?_ (by dsimp only; rfl) (by with_reducible rfl) (by with_reducible rfl) (by with_reducible rfl) (by with_reducible rfl) (by with_reducible rfl) (by with_reducible rfl) (by with_reducible rfl) (by with_reducible rfl) (by with_reducible rfl))

theorem State.pmuWrite_kept {r : State} {s : State} (p : PmuPlace) (i : ℕ) (v : ℕ) (inc : Bool) (hK : Kept r s) : Kept r (State.pmuWrite s p i v inc) := by
  unfold State.pmuWrite
  repeat' first
    | with_reducible assumption
    | with_reducible exact Kept.refl _
    | exact id
    | exact tabWf_tabSet _ _
    | exact tabWf_tabDrop _ _
    | exact tabWf_filter _
    | intro _
    | exact Nat.zero_le _
    | with_reducible apply State.put_kept
    | with_reducible apply State.when_kept
    | with_reducible apply State.pmuCarry_kept
    | with_reducible apply Kept.ite

theorem State.bwEnd_kept {r : State} {s : State} (hK : Kept r s) : Kept r (State.bwEnd s) := by
  unfold State.bwEnd
  repeat' first
    | with_reducible assumption
    | with_reducible exact Kept.refl _
    | exact id
    | exact tabWf_tabSet _ _
    | exact tabWf_tabDrop _ _
    | exact tabWf_filter _
    | intro _
    | exact Nat.zero_le _
    | with_reducible apply State.wr_kept
    | with_reducible apply State.inc_kept
    | with_reducible apply State.each_kept
    | with_reducible apply Kept.ite
    | dsimp only
    | exact rfl
    | (split <;> (try (rename_i e; replace e := congrArg Prod.fst e; dsimp only at e; subst e)))
    | (refine Kept.same (t := ?_) ?_ (by dsimp only; rfl) (by with_reducible rfl) (by with_reducible rfl) (by with_reducible rfl) (by with_reducible rfl) (by with_reducible rfl) (by with_reducible rfl) (by with_reducible rfl) (by with_reducible rfl) (by with_reducible rfl))

theorem State.bwClearPeak_kept {r : State} {s : State} (hK : Kept r s) : Kept r (State.bwClearPeak s) := by
  unfold State.bwClearPeak
  repeat' first
    | with_reducible assumption
    | with_reducible exact Kept.refl _
    | exact id
    | exact tabWf_tabSet _ _
    | exact tabWf_tabDrop _ _
    | exact tabWf_filter _
    | intro _
    | exact Nat.zero_le _
    | with_reducible apply State.wr_kept
    | with_reducible apply State.each_kept

theorem State.bwRestart_kept {r : State} {s : State} (us : ℕ) (hK : Kept r s) : Kept r (State.bwRestart s us) := by
  unfold State.bwRestart
  repeat' first
    | with_reducible assumption
    | with_reducible exact Kept.refl _
    | exact id
    | exact tabWf_tabSet _ _
    | exact tabWf_tabDrop _ _
    | exact tabWf_filter _
    | intro _
    | exact Nat.zero_le _
    | with_reducible apply State.wr_kept
    | with_reducible apply State.put_kept
    | with_reducible apply State.each_kept
    | with_reducible apply State.bwClearPeak_kept
    | with_reducible apply Kept.ite
    | dsimp only
    | exact rfl
    | (split <;> (try (rename_i e; replace e := congrArg Prod.fst e; dsimp only at e; subst e)))
    | (refine Kept.same (t := ?_) ?_ (by dsimp only; rfl) (by with_reducible rfl) (by with_reducible rfl) (by with_reducible rfl) (by with_reducible rfl) (by with_reducible rfl) (by with_reducible rfl) (by with_reducible rfl) (by with_reducible rfl) (by with_reducible rfl))

/-! ### Machine/Cascade -/

theorem State.setHops_kept {r : State} {s : State} (l : ℕ) (n : ℕ) (hK : Kept r s) : Kept r (State.setHops s l n) := by
  unfold State.setHops
  repeat' first
    | with_reducible assumption
    | with_reducible exact Kept.refl _
    | exact id
    | exact tabWf_tabSet _ _
    | exact tabWf_tabDrop _ _
    | exact tabWf_filter _
    | intro _
    | exact Nat.zero_le _
    | with_reducible apply Kept.ite
    | dsimp only
    | exact rfl
    | (split <;> (try (rename_i e; replace e := congrArg Prod.fst e; dsimp only at e; subst e)))
    | (refine Kept.same (t := ?_) ?_ (by dsimp only; rfl) (by with_reducible rfl) (by with_reducible rfl) (by with_reducible rfl) (by with_reducible rfl) (by with_reducible rfl) (by with_reducible rfl) (by with_reducible rfl) (by with_reducible rfl) (by with_reducible rfl))

theorem State.setListens_kept {r : State} {s : State} (l : ℕ) (v : Bool) (hK : Kept r s) : Kept r (State.setListens s l v) := by
  unfold State.setListens
  repeat' first
    | with_reducible assumption
    | with_reducible exact Kept.refl _
    | exact id
    | exact tabWf_tabSet _ _
    | exact tabWf_tabDrop _ _
    | exact tabWf_filter _
    | intro _
    | exact Nat.zero_le _
    | with_reducible apply Kept.ite
    | dsimp only
    | exact rfl
    | (split <;> (try (rename_i e; replace e := congrArg Prod.fst e; dsimp only at e; subst e)))
    | (refine Kept.same (t := ?_) ?_ (by dsimp only; rfl) (by with_reducible rfl) (by with_reducible rfl) (by with_reducible rfl) (by with_reducible rfl) (by with_reducible rfl) (by with_reducible rfl) (by with_reducible rfl) (by with_reducible rfl) (by with_reducible rfl))

theorem State.timeLinkSet_kept {r : State} {s : State} (hK : Kept r s) : Kept r (State.timeLinkSet s) := by
  unfold State.timeLinkSet
  repeat' first
    | with_reducible assumption
    | with_reducible exact Kept.refl _
    | exact id
    | exact tabWf_tabSet _ _
    | exact tabWf_tabDrop _ _
    | exact tabWf_filter _
    | intro _
    | exact Nat.zero_le _
    | with_reducible apply State.put_kept
    | with_reducible apply State.when_kept
    | with_reducible apply State.ptpSelectAll_kept
    | with_reducible apply Kept.ite

theorem State.masterHoldover_kept {r : State} {s : State} (hK : Kept r s) : Kept r (State.masterHoldover s) := by
  unfold State.masterHoldover
  repeat' first
    | with_reducible assumption
    | with_reducible exact Kept.refl _
    | exact id
    | exact tabWf_tabSet _ _
    | exact tabWf_tabDrop _ _
    | exact tabWf_filter _
    | intro _
    | exact Nat.zero_le _
    | with_reducible apply State.each_kept
    | with_reducible apply State.setTState_kept
    | with_reducible apply State.rateFreeze_kept

theorem State.setMaster_kept {r : State} {s : State} (m : ℕ) (hK : Kept r s) : Kept r (State.setMaster s m) := by
  unfold State.setMaster
  repeat' first
    | with_reducible assumption
    | with_reducible exact Kept.refl _
    | exact id
    | exact tabWf_tabSet _ _
    | exact tabWf_tabDrop _ _
    | exact tabWf_filter _
    | intro _
    | exact Nat.zero_le _
    | with_reducible apply State.put_kept
    | with_reducible apply State.when_kept
    | with_reducible apply State.timeLinkSet_kept
    | with_reducible apply State.masterHoldover_kept
    | with_reducible apply Kept.ite
    | dsimp only
    | exact rfl
    | (split <;> (try (rename_i e; replace e := congrArg Prod.fst e; dsimp only at e; subst e)))
    | (refine Kept.same (t := ?_) ?_ (by dsimp only; rfl) (by with_reducible rfl) (by with_reducible rfl) (by with_reducible rfl) (by with_reducible rfl) (by with_reducible rfl) (by with_reducible rfl) (by with_reducible rfl) (by with_reducible rfl) (by with_reducible rfl))

theorem State.masterHeard_kept {r : State} {s : State} (k : ℕ) (hK : Kept r s) : Kept r (State.masterHeard s k) := by
  unfold State.masterHeard
  repeat' first
    | with_reducible assumption
    | with_reducible exact Kept.refl _
    | exact id
    | exact tabWf_tabSet _ _
    | exact tabWf_tabDrop _ _
    | exact tabWf_filter _
    | intro _
    | exact Nat.zero_le _
    | with_reducible apply State.setListens_kept
    | with_reducible apply State.setMaster_kept
    | with_reducible apply Kept.ite

theorem State.setSent_kept {r : State} {s : State} (l : ℕ) (h : Heartbeat) (hK : Kept r s) : Kept r (State.setSent s l h) := by
  unfold State.setSent
  repeat' first
    | with_reducible assumption
    | with_reducible exact Kept.refl _
    | exact id
    | exact tabWf_tabSet _ _
    | exact tabWf_tabDrop _ _
    | exact tabWf_filter _
    | intro _
    | exact Nat.zero_le _
    | with_reducible apply Kept.ite
    | dsimp only
    | exact rfl
    | (split <;> (try (rename_i e; replace e := congrArg Prod.fst e; dsimp only at e; subst e)))
    | (refine Kept.same (t := ?_) ?_ (by dsimp only; rfl) (by with_reducible rfl) (by with_reducible rfl) (by with_reducible rfl) (by with_reducible rfl) (by with_reducible rfl) (by with_reducible rfl) (by with_reducible rfl) (by with_reducible rfl) (by with_reducible rfl))

theorem State.linkSync_kept {r : State} {s : State} (l : ℕ) (hb : Heartbeat) (hK : Kept r s) : Kept r (State.linkSync s l hb) := by
  unfold State.linkSync
  repeat' first
    | with_reducible assumption
    | with_reducible exact Kept.refl _
    | exact id
    | exact tabWf_tabSet _ _
    | exact tabWf_tabDrop _ _
    | exact tabWf_filter _
    | intro _
    | exact Nat.zero_le _
    | with_reducible apply State.each_kept
    | with_reducible apply State.servo_kept

theorem State.relay_kept {r : State} {s : State} (l : ℕ) (hb : Heartbeat) (hK : Kept r s) : Kept r (State.relay s l hb) := by
  unfold State.relay
  repeat' first
    | with_reducible assumption
    | with_reducible exact Kept.refl _
    | exact id
    | exact tabWf_tabSet _ _
    | exact tabWf_tabDrop _ _
    | exact tabWf_filter _
    | intro _
    | exact Nat.zero_le _
    | with_reducible apply State.setSent_kept
    | with_reducible apply Kept.ite

theorem State.heartbeatIn_kept {r : State} {s : State} (l : ℕ) (hb : Heartbeat) (hK : Kept r s) : Kept r (State.heartbeatIn s l hb) := by
  unfold State.heartbeatIn
  repeat' first
    | with_reducible assumption
    | with_reducible exact Kept.refl _
    | exact id
    | exact tabWf_tabSet _ _
    | exact tabWf_tabDrop _ _
    | exact tabWf_filter _
    | intro _
    | exact Nat.zero_le _
    | with_reducible apply State.put_kept
    | with_reducible apply State.raise_kept
    | with_reducible apply State.when_kept
    | with_reducible apply State.setHops_kept
    | with_reducible apply State.timeLinkSet_kept
    | with_reducible apply State.masterHeard_kept
    | with_reducible apply State.linkSync_kept
    | with_reducible apply State.relay_kept
    | with_reducible apply Kept.ite
    | dsimp only
    | exact rfl
    | (split <;> (try (rename_i e; replace e := congrArg Prod.fst e; dsimp only at e; subst e)))
    | (refine Kept.same (t := ?_) ?_ (by dsimp only; rfl) (by with_reducible rfl) (by with_reducible rfl) (by with_reducible rfl) (by with_reducible rfl) (by with_reducible rfl) (by with_reducible rfl) (by with_reducible rfl) (by with_reducible rfl) (by with_reducible rfl))

theorem State.linkTimeout_kept {r : State} {s : State} (hK : Kept r s) : Kept r (State.linkTimeout s) := by
  unfold State.linkTimeout
  repeat' first
    | with_reducible assumption
    | with_reducible exact Kept.refl _
    | exact id
    | exact tabWf_tabSet _ _
    | exact tabWf_tabDrop _ _
    | exact tabWf_filter _
    | intro _
    | exact Nat.zero_le _
    | with_reducible apply State.each_kept
    | with_reducible apply State.setTState_kept
    | with_reducible apply State.rateFreeze_kept
    | with_reducible apply Kept.ite

theorem State.cscMbxDrop_kept {r : State} {s : State} (k : ℕ) (hK : Kept r s) : Kept r (State.cscMbxDrop s k) := by
  unfold State.cscMbxDrop
  repeat' first
    | with_reducible assumption
    | with_reducible exact Kept.refl _
    | exact id
    | exact tabWf_tabSet _ _
    | exact tabWf_tabDrop _ _
    | exact tabWf_filter _
    | intro _
    | exact Nat.zero_le _
    | with_reducible apply State.put_kept
    | with_reducible apply State.each_kept
    | with_reducible apply Kept.ite
    | dsimp only
    | exact rfl
    | (split <;> (try (rename_i e; replace e := congrArg Prod.fst e; dsimp only at e; subst e)))
    | (refine Kept.same (t := ?_) ?_ (by dsimp only; rfl) (by with_reducible rfl) (by with_reducible rfl) (by with_reducible rfl) (by with_reducible rfl) (by with_reducible rfl) (by with_reducible rfl) (by with_reducible rfl) (by with_reducible rfl) (by with_reducible rfl))

theorem State.cscMbxSend_kept {r : State} {s : State} (k : ℕ) (expseq : ℕ) (hK : Kept r s) : Kept r (State.cscMbxSend s k expseq) := by
  unfold State.cscMbxSend
  repeat' first
    | with_reducible assumption
    | with_reducible exact Kept.refl _
    | exact id
    | exact tabWf_tabSet _ _
    | exact tabWf_tabDrop _ _
    | exact tabWf_filter _
    | intro _
    | exact Nat.zero_le _
    | with_reducible apply State.put_kept
    | with_reducible apply State.res_kept
    | with_reducible apply Kept.ite
    | dsimp only
    | exact rfl
    | (split <;> (try (rename_i e; replace e := congrArg Prod.fst e; dsimp only at e; subst e)))
    | (refine Kept.same (t := ?_) ?_ (by dsimp only; rfl) (by with_reducible rfl) (by with_reducible rfl) (by with_reducible rfl) (by with_reducible rfl) (by with_reducible rfl) (by with_reducible rfl) (by with_reducible rfl) (by with_reducible rfl) (by with_reducible rfl))

theorem State.cscMbxAck_kept {r : State} {s : State} (k : ℕ) (seq : ℕ) (hK : Kept r s) : Kept r (State.cscMbxAck s k seq) := by
  unfold State.cscMbxAck
  repeat' first
    | with_reducible assumption
    | with_reducible exact Kept.refl _
    | exact id
    | exact tabWf_tabSet _ _
    | exact tabWf_tabDrop _ _
    | exact tabWf_filter _
    | intro _
    | exact Nat.zero_le _
    | with_reducible apply State.put_kept
    | with_reducible apply Kept.ite

theorem State.cscMbxIn_kept {r : State} {s : State} (k : ℕ) (m : MbxIn) (hK : Kept r s) : Kept r (State.cscMbxIn s k m) := by
  unfold State.cscMbxIn
  repeat' first
    | with_reducible assumption
    | with_reducible exact Kept.refl _
    | exact id
    | exact tabWf_tabSet _ _
    | exact tabWf_tabDrop _ _
    | exact tabWf_filter _
    | intro _
    | exact Nat.zero_le _
    | with_reducible apply State.put_kept
    | with_reducible apply State.each_kept
    | with_reducible apply Kept.ite
    | dsimp only
    | exact rfl
    | (split <;> (try (rename_i e; replace e := congrArg Prod.fst e; dsimp only at e; subst e)))
    | (refine Kept.same (t := ?_) ?_ (by dsimp only; rfl) (by with_reducible rfl) (by with_reducible rfl) (by with_reducible rfl) (by with_reducible rfl) (by with_reducible rfl) (by with_reducible rfl) (by with_reducible rfl) (by with_reducible rfl) (by with_reducible rfl))

theorem State.windowsLost_kept {r : State} {s : State} (lost : ℕ → Bool) (hK : Kept r s) : Kept r (State.windowsLost s lost) := by
  unfold State.windowsLost
  repeat' first
    | with_reducible assumption
    | with_reducible exact Kept.refl _
    | exact id
    | exact tabWf_tabSet _ _
    | exact tabWf_tabDrop _ _
    | exact tabWf_filter _
    | intro _
    | exact Nat.zero_le _
    | with_reducible apply State.each_kept
    | with_reducible apply State.updHart_kept
    | with_reducible apply State.accessFault_kept
    | with_reducible apply Kept.ite
    | dsimp only
    | exact rfl
    | (split <;> (try (rename_i e; replace e := congrArg Prod.fst e; dsimp only at e; subst e)))

theorem State.moduleLost_kept {r : State} {s : State} (k : ℕ) (hK : Kept r s) : Kept r (State.moduleLost s k) := by
  unfold State.moduleLost
  repeat' first
    | with_reducible assumption
    | with_reducible exact Kept.refl _
    | exact id
    | exact tabWf_tabSet _ _
    | exact tabWf_tabDrop _ _
    | exact tabWf_filter _
    | intro _
    | exact Nat.zero_le _
    | with_reducible apply State.put_kept
    | with_reducible apply State.clear_kept
    | with_reducible apply State.setHops_kept
    | with_reducible apply State.setMaster_kept
    | with_reducible apply State.linkTimeout_kept
    | with_reducible apply State.cscMbxDrop_kept
    | with_reducible apply State.windowsLost_kept
    | with_reducible apply Kept.ite

theorem State.linkTrain_kept {r : State} {s : State} (l : ℕ) (partner : ℕ) (sameKey : Bool) (hK : Kept r s) : Kept r (State.linkTrain s l partner sameKey) := by
  unfold State.linkTrain
  repeat' first
    | with_reducible assumption
    | with_reducible exact Kept.refl _
    | exact id
    | exact tabWf_tabSet _ _
    | exact tabWf_tabDrop _ _
    | exact tabWf_filter _
    | intro _
    | exact Nat.zero_le _
    | with_reducible apply State.put_kept
    | with_reducible apply State.when_kept
    | with_reducible apply State.setListens_kept
    | with_reducible apply Kept.ite

theorem State.linkDown_kept {r : State} {s : State} (l : ℕ) (hK : Kept r s) : Kept r (State.linkDown s l) := by
  unfold State.linkDown
  repeat' first
    | with_reducible assumption
    | with_reducible exact Kept.refl _
    | exact id
    | exact tabWf_tabSet _ _
    | exact tabWf_tabDrop _ _
    | exact tabWf_filter _
    | intro _
    | exact Nat.zero_le _
    | with_reducible apply State.put_kept
    | with_reducible apply State.setHops_kept
    | with_reducible apply State.setListens_kept
    | with_reducible apply State.timeLinkSet_kept
    | with_reducible apply State.windowsLost_kept
    | with_reducible apply Kept.ite

theorem State.fwdValid_kept {r : State} {s : State} (n : ℕ) (hK : Kept r s) : Kept r (State.fwdValid s n) := by
  unfold State.fwdValid
  repeat' first
    | with_reducible assumption
    | with_reducible exact Kept.refl _
    | exact id
    | exact tabWf_tabSet _ _
    | exact tabWf_tabDrop _ _
    | exact tabWf_filter _
    | intro _
    | exact Nat.zero_le _
    | with_reducible apply State.put_kept
    | with_reducible apply State.res_kept
    | with_reducible apply Kept.ite
    | dsimp only
    | exact rfl
    | (split <;> (try (rename_i e; replace e := congrArg Prod.fst e; dsimp only at e; subst e)))
    | (refine Kept.same (t := ?_) ?_ (by dsimp only; rfl) (by with_reducible rfl) (by with_reducible rfl) (by with_reducible rfl) (by with_reducible rfl) (by with_reducible rfl) (by with_reducible rfl) (by with_reducible rfl) (by with_reducible rfl) (by with_reducible rfl))

theorem State.fwdReceive_kept {r : State} {s : State} (u : FwdUnit) (hK : Kept r s) : Kept r (State.fwdReceive s u) := by
  unfold State.fwdReceive
  repeat' first
    | with_reducible assumption
    | with_reducible exact Kept.refl _
    | exact id
    | exact tabWf_tabSet _ _
    | exact tabWf_tabDrop _ _
    | exact tabWf_filter _
    | intro _
    | exact Nat.zero_le _
    | with_reducible apply State.csiPacket_kept
    | with_reducible apply State.ethLookup_kept
    | with_reducible apply State.ethCapture_kept
    | with_reducible apply Kept.ite
    | dsimp only
    | exact rfl
    | (split <;> (try (rename_i e; replace e := congrArg Prod.fst e; dsimp only at e; subst e)))

theorem State.keyInstall_kept {r : State} {s : State} (hK : Kept r s) : Kept r (State.keyInstall s) := by
  unfold State.keyInstall
  repeat' first
    | with_reducible assumption
    | with_reducible exact Kept.refl _
    | exact id
    | exact tabWf_tabSet _ _
    | exact tabWf_tabDrop _ _
    | exact tabWf_filter _
    | intro _
    | exact Nat.zero_le _
    | with_reducible apply State.res_kept
    | with_reducible apply State.coneStart_kept

theorem State.burnThen_kept {r : State} {s : State} (b : Burn) (hK : Kept r s) : Kept r (State.burnThen s b) := by
  unfold State.burnThen
  repeat' first
    | with_reducible assumption
    | with_reducible exact Kept.refl _
    | exact id
    | exact tabWf_tabSet _ _
    | exact tabWf_tabDrop _ _
    | exact tabWf_filter _
    | intro _
    | exact Nat.zero_le _
    | with_reducible apply State.wmkBurnt_kept
    | with_reducible apply State.commitStep_kept
    | with_reducible apply Kept.ite
    | dsimp only
    | exact rfl
    | (split <;> (try (rename_i e; replace e := congrArg Prod.fst e; dsimp only at e; subst e)))
    | (refine Kept.same (t := ?_) ?_ (by dsimp only; rfl) (by with_reducible rfl) (by with_reducible rfl) (by with_reducible rfl) (by with_reducible rfl) (by with_reducible rfl) (by with_reducible rfl) (by with_reducible rfl) (by with_reducible rfl) (by with_reducible rfl))

/-! ### Machine/RegWrite -/

theorem State.plain_kept {r : State} {s : State} (w : RegWr) (hK : Kept r s) : Kept r (State.plain s w) := by
  unfold State.plain
  repeat' first
    | with_reducible assumption
    | with_reducible exact Kept.refl _
    | exact id
    | exact tabWf_tabSet _ _
    | exact tabWf_tabDrop _ _
    | exact tabWf_filter _
    | intro _
    | exact Nat.zero_le _
    | with_reducible apply State.wr_kept
    | with_reducible apply Kept.ite

theorem State.clampFld_kept {r : State} {s : State} (f : Fld) (lo : ℕ) (hi : ℕ) (hK : Kept r s) : Kept r (State.clampFld s f lo hi) := by
  unfold State.clampFld
  repeat' first
    | with_reducible assumption
    | with_reducible exact Kept.refl _
    | exact id
    | exact tabWf_tabSet _ _
    | exact tabWf_tabDrop _ _
    | exact tabWf_filter _
    | intro _
    | exact Nat.zero_le _
    | with_reducible apply State.put_kept

theorem State.supEnable_kept {r : State} {s : State} (w : RegWr) (hK : Kept r s) : Kept r (State.supEnable s w) := by
  unfold State.supEnable
  repeat' first
    | with_reducible assumption
    | with_reducible exact Kept.refl _
    | exact id
    | exact tabWf_tabSet _ _
    | exact tabWf_tabDrop _ _
    | exact tabWf_filter _
    | intro _
    | exact Nat.zero_le _
    | with_reducible apply State.withVec_kept
    | with_reducible apply State.plain_kept

theorem State.domCfg_kept {r : State} {s : State} (w : RegWr) (hK : Kept r s) : Kept r (State.domCfg s w) := by
  unfold State.domCfg
  repeat' first
    | with_reducible assumption
    | with_reducible exact Kept.refl _
    | exact id
    | exact tabWf_tabSet _ _
    | exact tabWf_tabDrop _ _
    | exact tabWf_filter _
    | intro _
    | exact Nat.zero_le _
    | with_reducible apply State.put_kept
    | with_reducible apply State.ptpSelectAll_kept
    | with_reducible apply State.plain_kept
    | with_reducible apply Kept.ite

theorem State.tkRun_kept {r : State} {s : State} (n : ℕ) (run : Bool) (hK : Kept r s) : Kept r (State.tkRun s n run) := by
  unfold State.tkRun
  repeat' first
    | with_reducible assumption
    | with_reducible exact Kept.refl _
    | exact id
    | exact tabWf_tabSet _ _
    | exact tabWf_tabDrop _ _
    | exact tabWf_filter _
    | intro _
    | exact Nat.zero_le _
    | with_reducible apply State.put_kept
    | with_reducible apply State.tkStart_kept
    | with_reducible apply State.tkStop_kept
    | with_reducible apply Kept.ite

theorem State.wheelRing_kept {r : State} {s : State} (w : RegWr) (o : WOwner) (hK : Kept r s) : Kept r (State.wheelRing s w o) := by
  unfold State.wheelRing
  repeat' first
    | with_reducible assumption
    | with_reducible exact Kept.refl _
    | exact id
    | exact tabWf_tabSet _ _
    | exact tabWf_tabDrop _ _
    | exact tabWf_filter _
    | intro _
    | exact Nat.zero_le _
    | with_reducible apply State.when_kept
    | with_reducible apply State.ringDisabled_kept
    | with_reducible apply State.plain_kept
    | with_reducible apply State.clampFld_kept

theorem State.epoCmd_kept {r : State} {s : State} (w : RegWr) (hK : Kept r s) : Kept r (State.epoCmd s w) := by
  unfold State.epoCmd
  repeat' first
    | with_reducible assumption
    | with_reducible exact Kept.refl _
    | exact id
    | exact tabWf_tabSet _ _
    | exact tabWf_tabDrop _ _
    | exact tabWf_filter _
    | intro _
    | exact Nat.zero_le _
    | with_reducible apply State.when_kept
    | with_reducible apply State.epoCommit_kept
    | with_reducible apply State.epoRollback_kept
    | with_reducible apply State.epoResume_kept

theorem State.lockCmd_kept {r : State} {s : State} (w : RegWr) (hK : Kept r s) : Kept r (State.lockCmd s w) := by
  unfold State.lockCmd
  repeat' first
    | with_reducible assumption
    | with_reducible exact Kept.refl _
    | exact id
    | exact tabWf_tabSet _ _
    | exact tabWf_tabDrop _ _
    | exact tabWf_filter _
    | intro _
    | exact Nat.zero_le _
    | with_reducible apply State.when_kept
    | with_reducible apply State.lockAcq_kept
    | with_reducible apply State.lockRel_kept

theorem State.cwdCfg_kept {r : State} {s : State} (w : RegWr) (hK : Kept r s) : Kept r (State.cwdCfg s w) := by
  unfold State.cwdCfg
  repeat' first
    | with_reducible assumption
    | with_reducible exact Kept.refl _
    | exact id
    | exact tabWf_tabSet _ _
    | exact tabWf_tabDrop _ _
    | exact tabWf_filter _
    | intro _
    | exact Nat.zero_le _
    | with_reducible apply State.when_kept
    | with_reducible apply State.cwdLoad_kept
    | with_reducible apply State.plain_kept

theorem State.shadowWrite_kept {r : State} {s : State} (f : State → State) (hK : Kept r s) (hf : ∀ a0, Kept a0 (f a0)) : Kept r (State.shadowWrite s f) := by
  unfold State.shadowWrite
  repeat' first
    | with_reducible assumption
    | with_reducible exact Kept.refl _
    | exact id
    | exact tabWf_tabSet _ _
    | exact tabWf_tabDrop _ _
    | exact tabWf_filter _
    | intro _
    | exact Nat.zero_le _
    | refine Kept.trans ?_ (hf ..)
    | with_reducible apply State.put_kept
    | with_reducible apply Kept.ite

theorem State.wdgWrite_kept {r : State} {s : State} (w : RegWr) (hK : Kept r s) : Kept r (State.wdgWrite s w) := by
  unfold State.wdgWrite
  repeat' first
    | with_reducible assumption
    | with_reducible exact Kept.refl _
    | exact id
    | exact tabWf_tabSet _ _
    | exact tabWf_tabDrop _ _
    | exact tabWf_filter _
    | intro _
    | exact Nat.zero_le _
    | with_reducible apply State.when_kept
    | with_reducible apply State.tookFree_kept
    | with_reducible apply State.wedgeCmd_kept
    | with_reducible apply Kept.ite

theorem State.tc10Write_kept {r : State} {s : State} (w : RegWr) (hK : Kept r s) : Kept r (State.tc10Write s w) := by
  unfold State.tc10Write
  repeat' first
    | with_reducible assumption
    | with_reducible exact Kept.refl _
    | exact id
    | exact tabWf_tabSet _ _
    | exact tabWf_tabDrop _ _
    | exact tabWf_filter _
    | intro _
    | exact Nat.zero_le _
    | with_reducible apply State.when_kept
    | with_reducible apply State.tc10Request_kept
    | with_reducible apply State.tc10Wake_kept
    | with_reducible apply State.plain_kept

theorem State.capRingCfg_kept {r : State} {s : State} (w : RegWr) (hK : Kept r s) : Kept r (State.capRingCfg s w) := by
  unfold State.capRingCfg
  repeat' first
    | with_reducible assumption
    | with_reducible exact Kept.refl _
    | exact id
    | exact tabWf_tabSet _ _
    | exact tabWf_tabDrop _ _
    | exact tabWf_filter _
    | intro _
    | exact Nat.zero_le _
    | with_reducible apply State.put_kept
    | with_reducible apply State.capRingEn_kept
    | with_reducible apply State.plain_kept
    | with_reducible apply State.clampFld_kept

theorem State.injCfg_kept {r : State} {s : State} (w : RegWr) (r0 : ℕ) (hK : Kept r s) : Kept r (State.injCfg s w r0) := by
  unfold State.injCfg
  repeat' first
    | with_reducible assumption
    | with_reducible exact Kept.refl _
    | exact id
    | exact tabWf_tabSet _ _
    | exact tabWf_tabDrop _ _
    | exact tabWf_filter _
    | intro _
    | exact Nat.zero_le _
    | with_reducible apply State.put_kept
    | with_reducible apply State.injEnWrite_kept
    | with_reducible apply State.plain_kept
    | with_reducible apply State.clampFld_kept

theorem State.ldgCtl_kept {r : State} {s : State} (w : RegWr) (hK : Kept r s) : Kept r (State.ldgCtl s w) := by
  unfold State.ldgCtl
  repeat' first
    | with_reducible assumption
    | with_reducible exact Kept.refl _
    | exact id
    | exact tabWf_tabSet _ _
    | exact tabWf_tabDrop _ _
    | exact tabWf_filter _
    | intro _
    | exact Nat.zero_le _
    | with_reducible apply State.put_kept
    | with_reducible apply State.when_kept
    | with_reducible apply State.setLdg_kept
    | with_reducible apply State.ldgFlush_kept
    | with_reducible apply State.ldgEnWrite_kept
    | with_reducible apply State.plain_kept

theorem State.cscCtl_kept {r : State} {s : State} (w : RegWr) (hK : Kept r s) : Kept r (State.cscCtl s w) := by
  unfold State.cscCtl
  repeat' first
    | with_reducible assumption
    | with_reducible exact Kept.refl _
    | exact id
    | exact tabWf_tabSet _ _
    | exact tabWf_tabDrop _ _
    | exact tabWf_filter _
    | intro _
    | exact Nat.zero_le _
    | with_reducible apply State.each_kept
    | with_reducible apply State.when_kept
    | with_reducible apply State.linkDown_kept
    | with_reducible apply State.plain_kept

theorem State.fwdRuleWrite_kept {r : State} {s : State} (w : RegWr) (hK : Kept r s) : Kept r (State.fwdRuleWrite s w) := by
  unfold State.fwdRuleWrite
  repeat' first
    | with_reducible assumption
    | with_reducible exact Kept.refl _
    | exact id
    | exact tabWf_tabSet _ _
    | exact tabWf_tabDrop _ _
    | exact tabWf_filter _
    | intro _
    | exact Nat.zero_le _
    | with_reducible apply State.when_kept
    | with_reducible apply State.fwdValid_kept
    | with_reducible apply State.plain_kept

theorem State.stage_kept {r : State} {s : State} (reg : ℕ) (v : ℕ) (hK : Kept r s) : Kept r (State.stage s reg v) := by
  unfold State.stage
  repeat' first
    | with_reducible assumption
    | with_reducible exact Kept.refl _
    | exact id
    | exact tabWf_tabSet _ _
    | exact tabWf_tabDrop _ _
    | exact tabWf_filter _
    | intro _
    | exact Nat.zero_le _
    | with_reducible apply Kept.ite
    | dsimp only
    | exact rfl
    | (split <;> (try (rename_i e; replace e := congrArg Prod.fst e; dsimp only at e; subst e)))
    | (refine Kept.same (t := ?_) ?_ (by dsimp only; rfl) (by with_reducible rfl) (by with_reducible rfl) (by with_reducible rfl) (by with_reducible rfl) (by with_reducible rfl) (by with_reducible rfl) (by with_reducible rfl) (by with_reducible rfl) (by with_reducible rfl))

/-- Every command register's operation keeps. -/
theorem startOps_kept {r s : State} {o : StartOp} (ho : o ∈ startOps) (w : RegWr) (hK : Kept r s) : Kept r (o.act w s) := by
  simp only [startOps, List.mem_cons, List.not_mem_nil, or_false] at ho
  rcases ho with rfl | rfl | rfl | rfl | rfl | rfl
  · exact State.sttCmd_kept _ _ _ _ _ hK
  · exact State.probe_kept _ _ hK
  · exact State.camPreset_kept _ hK
  · exact State.bcCmd_kept _ _ hK
  · exact State.swRecord_kept _ _ _ _ hK
  · exact State.remapCmd_kept _ _ hK

theorem State.startWrite_kept {r s : State} {o : StartOp} (ho : o ∈ startOps) (w : RegWr) (hK : Kept r s) : Kept r (s.startWrite o w) := by
  unfold State.startWrite
  have h1 := State.unstaged_kept w.reg hK
  dsimp only
  repeat' first
    | exact hK
    | with_reducible apply State.stage_kept
    | with_reducible apply startOps_kept ho
    | with_reducible apply State.unstaged_kept
    | split

theorem regOpsAon_kept {r s : State} {o : RegOp} (ho : o ∈ regOpsAon) (w : RegWr) (hK : Kept r s) : Kept r (o.act w s) := by
  simp only [regOpsAon, List.mem_cons, List.not_mem_nil, or_false] at ho
  rcases ho with rfl | rfl | rfl | rfl | rfl | rfl | rfl | rfl | rfl | rfl
  all_goals
    dsimp only
    repeat' first
      | with_reducible assumption
      | with_reducible exact Kept.refl _
      | intro _
      | with_reducible apply State.when_kept
      | with_reducible apply State.coneStart_kept
      | with_reducible apply State.govern_kept
      | with_reducible apply State.wakeSw_kept
      | with_reducible apply State.domReqWrite_kept
      | with_reducible apply State.gateReq_kept
      | with_reducible apply State.coreReq_kept
      | with_reducible apply State.fireCtl_kept
      | with_reducible apply State.flashStart_kept
      | with_reducible apply State.plain_kept
      | with_reducible apply State.supEnable_kept

theorem regOpsSec_kept {r s : State} {o : RegOp} (ho : o ∈ regOpsSec) (w : RegWr) (hK : Kept r s) : Kept r (o.act w s) := by
  simp only [regOpsSec, List.mem_cons, List.not_mem_nil, or_false] at ho
  rcases ho with rfl | rfl | rfl | rfl | rfl | rfl | rfl | rfl | rfl | rfl
  all_goals
    dsimp only
    repeat' first
      | with_reducible assumption
      | with_reducible exact Kept.refl _
      | intro _
      | with_reducible apply State.wr_kept
      | with_reducible apply State.when_kept
      | with_reducible apply State.irqWake_kept
      | with_reducible apply State.msiTo_kept
      | with_reducible apply State.hovIrq_kept
      | with_reducible apply State.wmkRequest_kept
      | with_reducible apply State.hovRequest_kept
      | with_reducible apply State.hovWithdraw_kept
      | with_reducible apply State.hovConsent_kept
      | with_reducible apply State.pmConsent_kept
      | with_reducible apply State.swdKick_kept
      | with_reducible apply State.plain_kept
      | with_reducible apply Kept.ite

theorem regOpsTkd_kept {r s : State} {o : RegOp} (ho : o ∈ regOpsTkd) (w : RegWr) (hK : Kept r s) : Kept r (o.act w s) := by
  simp only [regOpsTkd, List.mem_cons, List.not_mem_nil, or_false] at ho
  rcases ho with rfl | rfl | rfl | rfl | rfl | rfl | rfl | rfl | rfl | rfl | rfl | rfl | rfl | rfl | rfl | rfl | rfl | rfl | rfl | rfl
  all_goals
    dsimp only
    repeat' first
      | with_reducible assumption
      | with_reducible exact Kept.refl _
      | intro _
      | with_reducible apply State.put_kept
      | with_reducible apply State.when_kept
      | with_reducible apply State.irqWake_kept
      | with_reducible apply State.msiTo_kept
      | with_reducible apply State.sliceVec_kept
      | with_reducible apply State.quotaWrite_kept
      | with_reducible apply State.vtSnap_kept
      | with_reducible apply State.discGo_kept
      | with_reducible apply State.rateWrite_kept
      | with_reducible apply State.discCtl_kept
      | with_reducible apply State.ptpSelect_kept
      | with_reducible apply State.ptpSelectAll_kept
      | with_reducible apply State.pinLevels_kept
      | with_reducible apply State.genRun_kept
      | with_reducible apply State.genParam_kept
      | with_reducible apply State.plain_kept
      | with_reducible apply State.domCfg_kept
      | with_reducible apply State.tkRun_kept
      | with_reducible apply State.wheelRing_kept

theorem regOpsApc_kept {r s : State} {o : RegOp} (ho : o ∈ regOpsApc) (w : RegWr) (hK : Kept r s) : Kept r (o.act w s) := by
  simp only [regOpsApc, List.mem_cons, List.not_mem_nil, or_false] at ho
  rcases ho with rfl | rfl | rfl | rfl | rfl | rfl | rfl | rfl
  all_goals
    dsimp only
    repeat' first
      | with_reducible assumption
      | with_reducible exact Kept.refl _
      | intro _
      | with_reducible apply State.when_kept
      | with_reducible apply State.irqWake_kept
      | with_reducible apply State.worldWrite_kept
      | with_reducible apply State.lksRestart_kept
      | with_reducible apply State.lksInject_kept
      | with_reducible apply State.cwdKick_kept
      | with_reducible apply State.plain_kept
      | with_reducible apply State.clampFld_kept
      | with_reducible apply State.epoCmd_kept
      | with_reducible apply State.lockCmd_kept
      | with_reducible apply State.cwdCfg_kept

theorem regOpsMem_kept {r s : State} {o : RegOp} (ho : o ∈ regOpsMem) (w : RegWr) (hK : Kept r s) : Kept r (o.act w s) := by
  simp only [regOpsMem, List.mem_cons, List.not_mem_nil, or_false] at ho
  rcases ho with rfl | rfl | rfl | rfl | rfl | rfl | rfl | rfl | rfl | rfl | rfl | rfl
  all_goals
    dsimp only
    repeat' first
      | with_reducible assumption
      | with_reducible exact Kept.refl _
      | intro _
      | with_reducible apply State.wr_kept
      | with_reducible apply State.when_kept
      | with_reducible apply State.setCraze_kept
      | with_reducible apply State.dirLookup_kept
      | with_reducible apply State.slcRetire_kept
      | with_reducible apply State.l2Retire_kept
      | with_reducible apply State.dirRetire_kept
      | with_reducible apply State.arbSwap_kept
      | with_reducible apply State.sherdPop_kept
      | with_reducible apply State.bwClearPeak_kept
      | with_reducible apply State.bwRestart_kept
      | with_reducible apply State.plain_kept
      | with_reducible apply State.clampFld_kept
      | with_reducible apply State.shadowWrite_kept
      | with_reducible apply State.wdgWrite_kept

theorem regOpsNet_kept {r s : State} {o : RegOp} (ho : o ∈ regOpsNet) (w : RegWr) (hK : Kept r s) : Kept r (o.act w s) := by
  simp only [regOpsNet, List.mem_cons, List.not_mem_nil, or_false] at ho
  rcases ho with rfl | rfl | rfl | rfl | rfl | rfl | rfl
  all_goals
    dsimp only
    repeat' first
      | with_reducible assumption
      | with_reducible exact Kept.refl _
      | intro _
      | with_reducible apply State.when_kept
      | with_reducible apply State.gclChange_kept
      | with_reducible apply State.vlanWrite_kept
      | with_reducible apply State.fdbCmd_kept
      | with_reducible apply State.unpark_kept
      | with_reducible apply State.plain_kept
      | with_reducible apply State.tc10Write_kept
      | with_reducible apply State.injCfg_kept

theorem regOpsSns_kept {r s : State} {o : RegOp} (ho : o ∈ regOpsSns) (w : RegWr) (hK : Kept r s) : Kept r (o.act w s) := by
  simp only [regOpsSns, List.mem_cons, List.not_mem_nil, or_false] at ho
  rcases ho with rfl | rfl | rfl | rfl | rfl | rfl | rfl | rfl
  all_goals
    dsimp only
    repeat' first
      | with_reducible assumption
      | with_reducible exact Kept.refl _
      | intro _
      | with_reducible apply State.when_kept
      | with_reducible apply State.sliceIrq_kept
      | with_reducible apply State.managerIrq_kept
      | with_reducible apply State.mbxSend_kept
      | with_reducible apply State.mbxAck_kept
      | with_reducible apply State.sliceCmd_kept
      | with_reducible apply State.pmuWrite_kept
      | with_reducible apply State.plain_kept
      | with_reducible apply State.clampFld_kept
      | with_reducible apply State.capRingCfg_kept

theorem regOpsHst_kept {r s : State} {o : RegOp} (ho : o ∈ regOpsHst) (w : RegWr) (hK : Kept r s) : Kept r (o.act w s) := by
  simp only [regOpsHst, List.mem_cons, List.not_mem_nil, or_false] at ho
  rcases ho with rfl | rfl | rfl | rfl | rfl | rfl | rfl | rfl | rfl | rfl
  all_goals
    dsimp only
    repeat' first
      | with_reducible assumption
      | with_reducible exact Kept.refl _
      | intro _
      | with_reducible apply State.wr_kept
      | with_reducible apply State.when_kept
      | with_reducible apply State.replayCmd_kept
      | with_reducible apply State.xtrgSend_kept
      | with_reducible apply State.dapLockRel_kept
      | with_reducible apply State.cscMbxSend_kept
      | with_reducible apply State.cscMbxAck_kept
      | with_reducible apply State.keyInstall_kept
      | with_reducible apply State.ldgCtl_kept
      | with_reducible apply State.cscCtl_kept
      | with_reducible apply State.fwdRuleWrite_kept

theorem regOps_kept {r s : State} {o : RegOp} (ho : o ∈ regOps) (w : RegWr) (hK : Kept r s) : Kept r (o.act w s) := by
  simp only [regOps, List.mem_append] at ho
  rcases ho with ((((((h | h) | h) | h) | h) | h) | h) | h
  · exact regOpsAon_kept h w hK
  · exact regOpsSec_kept h w hK
  · exact regOpsTkd_kept h w hK
  · exact regOpsApc_kept h w hK
  · exact regOpsMem_kept h w hK
  · exact regOpsNet_kept h w hK
  · exact regOpsSns_kept h w hK
  · exact regOpsHst_kept h w hK

theorem State.regWrite_kept {r s : State} (a : Agent) (reg mask v : Nat) (hK : Kept r s) : Kept r (s.regWrite a reg mask v) := by
  unfold State.regWrite
  dsimp only
  split
  · exact hK
  · split
    · rename_i o n h
      obtain ⟨q, hq, h⟩ := List.exists_of_findSome?_eq_some h
      obtain ⟨k, -, h⟩ := Option.map_eq_some_iff.mp h
      cases h
      exact State.startWrite_kept hq _ hK
    · split
      · rename_i o n h
        obtain ⟨q, hq, h⟩ := List.exists_of_findSome?_eq_some h
        obtain ⟨k, -, h⟩ := Option.map_eq_some_iff.mp h
        cases h
        exact regOps_kept hq _ hK
      · split
        · exact State.pmuWrite_kept _ _ _ _ hK
        · exact State.plain_kept _ hK

theorem State.regWrite4_kept {r : State} {s : State} (a : Agent) (addr : ℕ) (v : ℕ) (hK : Kept r s) : Kept r (State.regWrite4 s a addr v) := by
  unfold State.regWrite4
  repeat' first
    | with_reducible assumption
    | with_reducible exact Kept.refl _
    | exact id
    | exact tabWf_tabSet _ _
    | exact tabWf_tabDrop _ _
    | exact tabWf_filter _
    | intro _
    | exact Nat.zero_le _
    | with_reducible apply State.regWrite_kept
    | with_reducible apply Kept.ite
    | dsimp only
    | exact rfl
    | (split <;> (try (rename_i e; replace e := congrArg Prod.fst e; dsimp only at e; subst e)))

theorem State.regStore_kept {r : State} {s : State} (a : Agent) (addr : ℕ) (bytes : ℕ) (v : ℕ) (hK : Kept r s) : Kept r (State.regStore s a addr bytes v) := by
  unfold State.regStore
  repeat' first
    | with_reducible assumption
    | with_reducible exact Kept.refl _
    | exact id
    | exact tabWf_tabSet _ _
    | exact tabWf_tabDrop _ _
    | exact tabWf_filter _
    | intro _
    | exact Nat.zero_le _
    | with_reducible apply State.regWrite_kept
    | with_reducible apply State.regWrite4_kept
    | with_reducible apply Kept.ite
    | dsimp only
    | exact rfl
    | (split <;> (try (rename_i e; replace e := congrArg Prod.fst e; dsimp only at e; subst e)))

/-! ### Machine/RegRead -/

/-- Every read with a side effect keeps. -/
theorem readOps_kept {r s : State} {o : ReadOp} (ho : o ∈ readOps) (n : Nat) (hK : Kept r s) : Kept r (o.act n s).1 := by
  simp only [readOps, List.mem_cons, List.not_mem_nil, or_false] at ho
  rcases ho with rfl | rfl | rfl | rfl | rfl | rfl | rfl | rfl
  · exact State.flashData_kept hK
  · exact State.licClaim_kept _ hK
  · exact State.capPop_kept _ hK
  · exact State.inspRead_kept hK
  · exact State.licClaim_kept _ hK
  · exact State.sherdHead_kept hK
  · exact State.sttSnap_kept hK
  · exact State.missPop_kept hK

theorem State.regRead_kept {r s : State} (dbg : Bool) (reg : Nat) (half : Half) (hK : Kept r s) : Kept r (s.regRead dbg reg half).1 := by
  unfold State.regRead
  dsimp only
  split
  · rename_i f h
    split
    · exact hK
    · refine State.readEffect_kept _ _ _ hK fun t => ?_
      obtain ⟨q, hq, h⟩ := List.exists_of_findSome?_eq_some h
      obtain ⟨k, -, h⟩ := Option.map_eq_some_iff.mp h
      cases h
      exact readOps_kept hq _ (Kept.refl t)
  · exact hK

theorem State.regRead4_kept {r : State} {s : State} (dbg : Bool) (addr : ℕ) (hK : Kept r s) : Kept r (State.regRead4 s dbg addr).1 := by
  unfold State.regRead4
  repeat' first
    | with_reducible assumption
    | with_reducible exact Kept.refl _
    | exact id
    | exact tabWf_tabSet _ _
    | exact tabWf_tabDrop _ _
    | exact tabWf_filter _
    | intro _
    | exact Nat.zero_le _
    | with_reducible apply State.regRead_kept
    | with_reducible apply Kept.ite
    | dsimp only
    | exact rfl
    | (split <;> (try (rename_i e; replace e := congrArg Prod.fst e; dsimp only at e; subst e)))

theorem State.regLoad_kept {r : State} {s : State} (dbg : Bool) (addr : ℕ) (bytes : ℕ) (hK : Kept r s) : Kept r (State.regLoad s dbg addr bytes).1 := by
  unfold State.regLoad
  repeat' first
    | with_reducible assumption
    | with_reducible exact Kept.refl _
    | exact id
    | exact tabWf_tabSet _ _
    | exact tabWf_tabDrop _ _
    | exact tabWf_filter _
    | intro _
    | exact Nat.zero_le _
    | with_reducible apply State.regRead_kept
    | with_reducible apply State.regRead4_kept
    | with_reducible apply Kept.ite
    | dsimp only
    | exact rfl
    | (split <;> (try (rename_i e; replace e := congrArg Prod.fst e; dsimp only at e; subst e)))

/-! ### Machine/Bus -/

theorem State.dbWrite_kept {r : State} {s : State} (n : ℕ) (o : ℕ) (v : ℕ) (hK : Kept r s) : Kept r (State.dbWrite s n o v) := by
  unfold State.dbWrite
  repeat' first
    | with_reducible assumption
    | with_reducible exact Kept.refl _
    | exact id
    | exact tabWf_tabSet _ _
    | exact tabWf_tabDrop _ _
    | exact tabWf_filter _
    | intro _
    | exact Nat.zero_le _
    | with_reducible apply State.put_kept
    | with_reducible apply State.clear_kept
    | with_reducible apply State.when_kept
    | with_reducible apply State.sliceIrq_kept
    | with_reducible apply State.submit_kept
    | with_reducible apply State.dlQuery_kept
    | with_reducible apply State.mbxSend_kept
    | with_reducible apply State.mbxAck_kept
    | with_reducible apply Kept.ite

theorem State.ioStore_kept {r : State} {s : State} (o : ℕ) (bytes : ℕ) (v : ℕ) (hK : Kept r s) : Kept r (State.ioStore s o bytes v) := by
  unfold State.ioStore
  repeat' first
    | with_reducible assumption
    | with_reducible exact Kept.refl _
    | exact id
    | exact tabWf_tabSet _ _
    | exact tabWf_tabDrop _ _
    | exact tabWf_filter _
    | intro _
    | exact Nat.zero_le _
    | with_reducible apply State.ioWrite_kept
    | with_reducible apply Kept.ite

theorem State.pieces_kept {r : State} {s : State} (bytes : ℕ) (v : ℕ) (f : ℕ → ℕ → State → State) (hK : Kept r s) (hf : ∀ a0 a1 a2, Kept a2 (f a0 a1 a2)) : Kept r (State.pieces s bytes v f) := by
  unfold State.pieces
  repeat' first
    | with_reducible assumption
    | with_reducible exact Kept.refl _
    | exact id
    | exact tabWf_tabSet _ _
    | exact tabWf_tabDrop _ _
    | exact tabWf_filter _
    | intro _
    | exact Nat.zero_le _
    | refine Kept.trans ?_ (hf ..)
    | with_reducible apply Kept.ite

theorem State.winWrite_kept {r : State} {s : State} (a : Agent) (sl : Option ℕ) (addr : ℕ) (bytes : ℕ) (v : ℕ) (hK : Kept r s) : Kept r (State.winWrite s a sl addr bytes v) := by
  unfold State.winWrite
  repeat' first
    | with_reducible assumption
    | with_reducible exact Kept.refl _
    | exact id
    | exact tabWf_tabSet _ _
    | exact tabWf_tabDrop _ _
    | exact tabWf_filter _
    | intro _
    | exact Nat.zero_le _
    | with_reducible apply State.msiWrite_kept
    | with_reducible apply State.aplicWrite_kept
    | with_reducible apply State.regStore_kept
    | with_reducible apply State.dbWrite_kept
    | with_reducible apply State.ioStore_kept
    | with_reducible apply State.pieces_kept
    | with_reducible apply Kept.ite
    | dsimp only
    | exact rfl
    | (split <;> (try (rename_i e; replace e := congrArg Prod.fst e; dsimp only at e; subst e)))

theorem State.winRead_kept {r : State} {s : State} (sl : Option ℕ) (dbg : Bool) (addr : ℕ) (bytes : ℕ) (hK : Kept r s) : Kept r (State.winRead s sl dbg addr bytes).1 := by
  unfold State.winRead
  repeat' first
    | with_reducible assumption
    | with_reducible exact Kept.refl _
    | exact id
    | exact tabWf_tabSet _ _
    | exact tabWf_tabDrop _ _
    | exact tabWf_filter _
    | intro _
    | exact Nat.zero_le _
    | with_reducible apply State.regLoad_kept
    | with_reducible apply Kept.ite
    | dsimp only
    | exact rfl
    | (split <;> (try (rename_i e; replace e := congrArg Prod.fst e; dsimp only at e; subst e)))

theorem State.busWrite_kept {r : State} {s : State} (a : Agent) (addr : ℕ) (bytes : ℕ) (v : ℕ) (hK : Kept r s) : Kept r (State.busWrite s a addr bytes v) := by
  unfold State.busWrite
  repeat' first
    | with_reducible assumption
    | with_reducible exact Kept.refl _
    | exact id
    | exact tabWf_tabSet _ _
    | exact tabWf_tabDrop _ _
    | exact tabWf_filter _
    | intro _
    | exact Nat.zero_le _
    | with_reducible apply State.res_kept
    | with_reducible apply State.when_kept
    | with_reducible apply State.sbEnd_kept
    | with_reducible apply State.regFault_kept
    | with_reducible apply State.regRefused_kept
    | with_reducible apply State.winWrite_kept
    | with_reducible apply Kept.ite
    | dsimp only
    | exact rfl
    | (split <;> (try (rename_i e; replace e := congrArg Prod.fst e; dsimp only at e; subst e)))

theorem State.remoteDenied_kept {r : State} {s : State} (q : MemReq) (addr : ℕ) (hK : Kept r s) : Kept r (State.remoteDenied s q addr) := by
  unfold State.remoteDenied
  repeat' first
    | with_reducible assumption
    | with_reducible exact Kept.refl _
    | exact id
    | exact tabWf_tabSet _ _
    | exact tabWf_tabDrop _ _
    | exact tabWf_filter _
    | intro _
    | exact Nat.zero_le _
    | with_reducible apply State.sherd_kept

theorem State.remoteDram_kept {r : State} {s : State} (write : Bool) (addr : ℕ) (n : ℕ) (v : ℕ) (hK : Kept r s) : Kept r (State.remoteDram s write addr n v) := by
  unfold State.remoteDram
  repeat' first
    | with_reducible assumption
    | with_reducible exact Kept.refl _
    | exact id
    | exact tabWf_tabSet _ _
    | exact tabWf_tabDrop _ _
    | exact tabWf_filter _
    | intro _
    | exact Nat.zero_le _
    | with_reducible apply State.dramRead_kept
    | with_reducible apply State.dramWrite_kept
    | with_reducible apply Kept.ite

theorem State.remoteServe_kept {r : State} {s : State} (write : Bool) (addr : ℕ) (n : ℕ) (v : ℕ) (hK : Kept r s) : Kept r (State.remoteServe s write addr n v) := by
  unfold State.remoteServe
  repeat' first
    | with_reducible assumption
    | with_reducible exact Kept.refl _
    | exact id
    | exact tabWf_tabSet _ _
    | exact tabWf_tabDrop _ _
    | exact tabWf_filter _
    | intro _
    | exact Nat.zero_le _
    | with_reducible apply State.winWrite_kept
    | with_reducible apply State.winRead_kept
    | with_reducible apply State.remoteDram_kept
    | with_reducible apply Kept.ite
    | dsimp only
    | exact rfl
    | (split <;> (try (rename_i e; replace e := congrArg Prod.fst e; dsimp only at e; subst e)))

theorem State.sbData_kept {r : State} {s : State} (v : ℕ) (hK : Kept r s) : Kept r (State.sbData s v) := by
  unfold State.sbData
  repeat' first
    | with_reducible assumption
    | with_reducible exact Kept.refl _
    | exact id
    | exact tabWf_tabSet _ _
    | exact tabWf_tabDrop _ _
    | exact tabWf_filter _
    | intro _
    | exact Nat.zero_le _
    | with_reducible apply Kept.ite
    | dsimp only
    | exact rfl
    | (split <;> (try (rename_i e; replace e := congrArg Prod.fst e; dsimp only at e; subst e)))
    | (refine Kept.same (t := ?_) ?_ (by dsimp only; rfl) (by with_reducible rfl) (by with_reducible rfl) (by with_reducible rfl) (by with_reducible rfl) (by with_reducible rfl) (by with_reducible rfl) (by with_reducible rfl) (by with_reducible rfl) (by with_reducible rfl))

theorem State.sbMemory_kept {r : State} {s : State} (w : World) (write : Bool) (addr : ℕ) (n : ℕ) (v : ℕ) (hK : Kept r s) : Kept r (State.sbMemory s w write addr n v) := by
  unfold State.sbMemory
  repeat' first
    | with_reducible assumption
    | with_reducible exact Kept.refl _
    | exact id
    | exact tabWf_tabSet _ _
    | exact tabWf_tabDrop _ _
    | exact tabWf_filter _
    | intro _
    | exact Nat.zero_le _
    | with_reducible apply State.sbEnd_kept
    | with_reducible apply State.physRefuse_kept
    | with_reducible apply State.memRead_kept
    | with_reducible apply State.memWrite_kept
    | with_reducible apply State.sbData_kept
    | with_reducible apply Kept.ite
    | dsimp only
    | exact rfl
    | (split <;> (try (rename_i e; replace e := congrArg Prod.fst e; dsimp only at e; subst e)))

theorem State.sysBus_kept {r : State} {s : State} (write : Bool) (addr : ℕ) (n : ℕ) (v : ℕ) (hK : Kept r s) : Kept r (State.sysBus s write addr n v) := by
  unfold State.sysBus
  repeat' first
    | with_reducible assumption
    | with_reducible exact Kept.refl _
    | exact id
    | exact tabWf_tabSet _ _
    | exact tabWf_tabDrop _ _
    | exact tabWf_filter _
    | intro _
    | exact Nat.zero_le _
    | with_reducible apply State.sbEnd_kept
    | with_reducible apply State.regRefused_kept
    | with_reducible apply State.winRead_kept
    | with_reducible apply State.busWrite_kept
    | with_reducible apply State.sbData_kept
    | with_reducible apply State.sbMemory_kept
    | with_reducible apply Kept.ite
    | dsimp only
    | exact rfl
    | (split <;> (try (rename_i e; replace e := congrArg Prod.fst e; dsimp only at e; subst e)))
    | (refine Kept.same (t := ?_) ?_ (by dsimp only; rfl) (by with_reducible rfl) (by with_reducible rfl) (by with_reducible rfl) (by with_reducible rfl) (by with_reducible rfl) (by with_reducible rfl) (by with_reducible rfl) (by with_reducible rfl) (by with_reducible rfl))

theorem State.dmaPiece_kept {r : State} {s : State} (w : World) (src : ℕ) (r0 : DmaReq) (pa : ℕ) (k : ℕ) (v : ℕ) (hK : Kept r s) : Kept r (State.dmaPiece s w src r0 pa k v).1 := by
  unfold State.dmaPiece
  repeat' first
    | with_reducible assumption
    | with_reducible exact Kept.refl _
    | exact id
    | exact tabWf_tabSet _ _
    | exact tabWf_tabDrop _ _
    | exact tabWf_filter _
    | intro _
    | exact Nat.zero_le _
    | with_reducible apply State.sherdRefused_kept
    | with_reducible apply State.memRead_kept
    | with_reducible apply State.memWrite_kept
    | with_reducible apply State.ioFault_kept
    | with_reducible apply State.winWrite_kept
    | with_reducible apply State.winRead_kept
    | with_reducible apply Kept.ite
    | dsimp only
    | exact rfl
    | (split <;> (try (rename_i e; replace e := congrArg Prod.fst e; dsimp only at e; subst e)))

theorem State.dmaAll_kept {r : State} {s : State} (w : World) (src : ℕ) (r0 : DmaReq) (x1 : ℕ) (x2 : ℕ) (x3 : ℕ) (x4 : List Byte) (hK : Kept r s) : Kept r (State.dmaAll s w src r0 x1 x2 x3 x4) := by
  induction x1 generalizing s w src r0 x2 x3 x4 with
  | zero =>
    unfold State.dmaAll
    repeat' first
      | with_reducible assumption
  | succ m ih =>
    unfold State.dmaAll
    repeat' first
      | with_reducible assumption
      | with_reducible exact Kept.refl _
      | with_reducible apply ih
      | exact id
      | exact tabWf_tabSet _ _
      | exact tabWf_tabDrop _ _
      | exact tabWf_filter _
      | intro _
      | exact Nat.zero_le _
      | with_reducible apply State.dmaAddr_kept
      | with_reducible apply State.dmaPiece_kept
      | with_reducible apply Kept.ite
      | dsimp only
      | exact rfl
      | (split <;> (try (rename_i e; replace e := congrArg Prod.fst e; dsimp only at e; subst e)))

theorem State.dmaRequest_kept {r : State} {s : State} (dev : ℕ) (pasid : Option ℕ) (write : Bool) (iova : ℕ) (n : ℕ) (bs : List Byte) (hK : Kept r s) : Kept r (State.dmaRequest s dev pasid write iova n bs) := by
  unfold State.dmaRequest
  repeat' first
    | with_reducible assumption
    | with_reducible exact Kept.refl _
    | exact id
    | exact tabWf_tabSet _ _
    | exact tabWf_tabDrop _ _
    | exact tabWf_filter _
    | intro _
    | exact Nat.zero_le _
    | with_reducible apply State.dmaAll_kept
    | with_reducible apply Kept.ite
    | dsimp only
    | exact rfl
    | (split <;> (try (rename_i e; replace e := congrArg Prod.fst e; dsimp only at e; subst e)))

theorem State.pcieInbound_kept {r : State} {s : State} (write : Bool) (off : ℕ) (bs : List Byte) (hK : Kept r s) : Kept r (State.pcieInbound s write off bs) := by
  unfold State.pcieInbound
  repeat' first
    | with_reducible assumption
    | with_reducible exact Kept.refl _
    | exact id
    | exact tabWf_tabSet _ _
    | exact tabWf_tabDrop _ _
    | exact tabWf_filter _
    | intro _
    | exact Nat.zero_le _
    | with_reducible apply State.putBytes_kept
    | with_reducible apply Kept.ite

theorem State.wheelReach_kept {r : State} {s : State} (w : World) (a : ℕ) (n : ℕ) (wr : Option ℕ) (hK : Kept r s) : Kept r (State.wheelReach s w a n wr).1 := by
  unfold State.wheelReach
  repeat' first
    | with_reducible assumption
    | with_reducible exact Kept.refl _
    | exact id
    | exact tabWf_tabSet _ _
    | exact tabWf_tabDrop _ _
    | exact tabWf_filter _
    | intro _
    | exact Nat.zero_le _
    | with_reducible apply State.sherdRefused_kept
    | with_reducible apply State.physRefuse_kept
    | with_reducible apply State.memRead_kept
    | with_reducible apply State.memWrite_kept
    | with_reducible apply State.winWrite_kept
    | with_reducible apply State.winRead_kept
    | with_reducible apply Kept.ite
    | dsimp only
    | exact rfl
    | (split <;> (try (rename_i e; replace e := congrArg Prod.fst e; dsimp only at e; subst e)))

theorem State.depositWrite_kept {r : State} {s : State} (w : World) (a : ℕ) (v : ℕ) (hK : Kept r s) : Kept r (State.depositWrite s w a v).1 := by
  unfold State.depositWrite
  repeat' first
    | with_reducible assumption
    | with_reducible exact Kept.refl _
    | exact id
    | exact tabWf_tabSet _ _
    | exact tabWf_tabDrop _ _
    | exact tabWf_filter _
    | intro _
    | exact Nat.zero_le _
    | with_reducible apply State.physRefuse_kept
    | with_reducible apply State.memWrite_kept
    | with_reducible apply Kept.ite
    | dsimp only
    | exact rfl
    | (split <;> (try (rename_i e; replace e := congrArg Prod.fst e; dsimp only at e; subst e)))

theorem State.land_kept {r : State} {s : State} (i : ℕ) (ok : Bool) (hK : Kept r s) : Kept r (State.land s i ok) := by
  unfold State.land
  repeat' first
    | with_reducible assumption
    | with_reducible exact Kept.refl _
    | exact id
    | exact tabWf_tabSet _ _
    | exact tabWf_tabDrop _ _
    | exact tabWf_filter _
    | intro _
    | exact Nat.zero_le _
    | with_reducible apply State.wheelFinish_kept
    | with_reducible apply State.wheelReach_kept
    | with_reducible apply State.depositWrite_kept
    | with_reducible apply Kept.ite
    | dsimp only
    | exact rfl
    | (split <;> (try (rename_i e; replace e := congrArg Prod.fst e; dsimp only at e; subst e)))

theorem State.releaseArm_kept {r : State} {s : State} (i : ℕ) (hK : Kept r s) : Kept r (State.releaseArm s i) := by
  unfold State.releaseArm
  repeat' first
    | with_reducible assumption
    | with_reducible exact Kept.refl _
    | exact id
    | exact tabWf_tabSet _ _
    | exact tabWf_tabDrop _ _
    | exact tabWf_filter _
    | intro _
    | exact Nat.zero_le _
    | with_reducible apply State.setWent_kept
    | with_reducible apply State.wheelPlace_kept
    | with_reducible apply State.issue_kept
    | with_reducible apply Kept.ite

theorem State.releaseStore_kept {r : State} {s : State} (h : ℕ) (w : World) (sl : Option ℕ) (addr : ℕ) (n : ℕ) (v : ℕ) (hK : Kept r s) : Kept r (State.releaseStore s h w sl addr n v) := by
  unfold State.releaseStore
  repeat' first
    | with_reducible assumption
    | with_reducible exact Kept.refl _
    | exact id
    | exact tabWf_tabSet _ _
    | exact tabWf_tabDrop _ _
    | exact tabWf_filter _
    | intro _
    | exact Nat.zero_le _
    | with_reducible apply State.updHart_kept
    | with_reducible apply State.memWrite_kept
    | with_reducible apply State.winWrite_kept
    | with_reducible apply Kept.ite

theorem State.releaseAll_kept {r : State} {s : State} (c : ℕ) (x1 : ℕ) (hK : Kept r s) : Kept r (State.releaseAll s c x1) := by
  induction x1 generalizing s c with
  | zero =>
    unfold State.releaseAll
    repeat' first
      | with_reducible assumption
  | succ m ih =>
    unfold State.releaseAll
    repeat' first
      | with_reducible assumption
      | with_reducible exact Kept.refl _
      | with_reducible apply ih
      | exact id
      | exact tabWf_tabSet _ _
      | exact tabWf_tabDrop _ _
      | exact tabWf_filter _
      | intro _
      | exact Nat.zero_le _
      | with_reducible apply State.setEpoch_kept
      | with_reducible apply State.outputDrop_kept
      | with_reducible apply State.releaseArm_kept
      | with_reducible apply State.releaseStore_kept
      | with_reducible apply Kept.ite
      | dsimp only
      | exact rfl
      | (split <;> (try (rename_i e; replace e := congrArg Prod.fst e; dsimp only at e; subst e)))

theorem State.commitDone_kept {r : State} {s : State} (c : ℕ) (hK : Kept r s) : Kept r (State.commitDone s c) := by
  unfold State.commitDone
  repeat' first
    | with_reducible assumption
    | with_reducible exact Kept.refl _
    | exact id
    | exact tabWf_tabSet _ _
    | exact tabWf_tabDrop _ _
    | exact tabWf_filter _
    | intro _
    | exact Nat.zero_le _
    | with_reducible apply State.put_kept
    | with_reducible apply State.inc_kept
    | with_reducible apply State.each_kept
    | with_reducible apply State.coreCount_kept
    | with_reducible apply State.releaseAll_kept
    | with_reducible apply Kept.ite

theorem State.commitNow_kept {r : State} {s : State} (h : ℕ) (hK : Kept r s) : Kept r (State.commitNow s h) := by
  unfold State.commitNow
  repeat' first
    | with_reducible assumption
    | with_reducible exact Kept.refl _
    | exact id
    | exact tabWf_tabSet _ _
    | exact tabWf_tabDrop _ _
    | exact tabWf_filter _
    | intro _
    | exact Nat.zero_le _
    | with_reducible apply State.coreCount_kept
    | with_reducible apply State.epochRelease_kept
    | with_reducible apply State.commitDone_kept

end Sys2Proof.Machine
end

