-- ==== Sys2Proof/Laws/KeptHart.lean ====
section
/-! SUPPORT. What no operation of the harts does: each keeps the queue of commands, sets no burnt
step of the lifecycle back and keeps the storage invariant (`Kept`). -/

set_option linter.unusedTactic false
set_option linter.unreachableTactic false
set_option linter.unusedVariables false

namespace Sys2Proof.Machine
open Sys2Proof

/-! ### Machine/Triggers -/

theorem State.trigFire_kept {r : State} {s : State} (h : ℕ) (i : ℕ) (va : ℕ) (hK : Kept r s) : Kept r (State.trigFire s h i va).1 := by
  unfold State.trigFire
  repeat' first
    | with_reducible assumption
    | with_reducible exact Kept.refl _
    | exact id
    | exact tabWf_tabSet _ _
    | exact tabWf_tabDrop _ _
    | exact tabWf_filter _
    | intro _
    | exact Nat.zero_le _
    | with_reducible apply State.exception_kept
    | with_reducible apply State.xtrgOfHart_kept
    | with_reducible apply State.debugHalt_kept
    | with_reducible apply Kept.ite
    | dsimp only
    | exact rfl
    | (split <;> (try (rename_i e; replace e := congrArg Prod.fst e; dsimp only at e; subst e)))

theorem State.trigAccess_kept {r : State} {s : State} (h : ℕ) (k : AccKind) (va : ℕ) (hK : Kept r s) : Kept r (State.trigAccess s h k va).1 := by
  unfold State.trigAccess
  repeat' first
    | with_reducible assumption
    | with_reducible exact Kept.refl _
    | exact id
    | exact tabWf_tabSet _ _
    | exact tabWf_tabDrop _ _
    | exact tabWf_filter _
    | intro _
    | exact Nat.zero_le _
    | with_reducible apply State.setCsr_kept
    | with_reducible apply State.trigFire_kept
    | with_reducible apply Kept.ite
    | dsimp only
    | exact rfl
    | (split <;> (try (rename_i e; replace e := congrArg Prod.fst e; dsimp only at e; subst e)))

theorem State.trigTrap_kept {r : State} {s : State} (h : ℕ) (from_ : Priv) (hK : Kept r s) : Kept r (State.trigTrap s h from_) := by
  unfold State.trigTrap
  repeat' first
    | with_reducible assumption
    | with_reducible exact Kept.refl _
    | exact id
    | exact tabWf_tabSet _ _
    | exact tabWf_tabDrop _ _
    | exact tabWf_filter _
    | intro _
    | exact Nat.zero_le _
    | with_reducible apply State.trigFire_kept
    | with_reducible apply Kept.ite

theorem State.trigCountDown_kept {r : State} {s : State} (h : ℕ) (from_ : Priv) (hK : Kept r s) : Kept r (State.trigCountDown s h from_) := by
  unfold State.trigCountDown
  repeat' first
    | with_reducible assumption
    | with_reducible exact Kept.refl _
    | exact id
    | exact tabWf_tabSet _ _
    | exact tabWf_tabDrop _ _
    | exact tabWf_filter _
    | intro _
    | exact Nat.zero_le _
    | with_reducible apply State.setCsr_kept
    | with_reducible apply State.trigFire_kept
    | with_reducible apply Kept.ite

theorem State.afterInstr_kept {r : State} {s : State} (h : ℕ) (was : HartSt) (hK : Kept r s) : Kept r (State.afterInstr s h was) := by
  unfold State.afterInstr
  repeat' first
    | with_reducible assumption
    | with_reducible exact Kept.refl _
    | exact id
    | exact tabWf_tabSet _ _
    | exact tabWf_tabDrop _ _
    | exact tabWf_filter _
    | intro _
    | exact Nat.zero_le _
    | with_reducible apply State.pollStep_kept
    | with_reducible apply State.trigTrap_kept
    | with_reducible apply State.trigCountDown_kept
    | with_reducible apply Kept.ite

theorem State.commitThen_kept {r : State} {s : State} (h : ℕ) (f : State → State) (hK : Kept r s) (hf : ∀ a0, Kept a0 (f a0)) : Kept r (State.commitThen s h f) := by
  unfold State.commitThen
  repeat' first
    | with_reducible assumption
    | with_reducible exact Kept.refl _
    | exact id
    | exact tabWf_tabSet _ _
    | exact tabWf_tabDrop _ _
    | exact tabWf_filter _
    | intro _
    | exact Nat.zero_le _
    | refine Kept.trans ?_ (hf ..)
    | with_reducible apply State.updHart_kept
    | with_reducible apply State.setCsr_kept
    | with_reducible apply State.epochStart_kept
    | with_reducible apply State.commitNow_kept
    | with_reducible apply Kept.ite

theorem State.instr_kept {r : State} {s : State} (h : ℕ) (f : State → State) (hK : Kept r s) (hf : ∀ a0, Kept a0 (f a0)) : Kept r (State.instr s h f) := by
  unfold State.instr
  repeat' first
    | with_reducible assumption
    | with_reducible exact Kept.refl _
    | exact id
    | exact tabWf_tabSet _ _
    | exact tabWf_tabDrop _ _
    | exact tabWf_filter _
    | intro _
    | exact Nat.zero_le _
    | refine Kept.trans ?_ (hf ..)
    | with_reducible apply State.trap_kept
    | with_reducible apply State.irqWake_kept
    | with_reducible apply State.pollHalt_kept
    | with_reducible apply State.trigAccess_kept
    | with_reducible apply State.afterInstr_kept
    | with_reducible apply State.commitThen_kept
    | with_reducible apply Kept.ite
    | dsimp only
    | exact rfl
    | (split <;> (try (rename_i e; replace e := congrArg Prod.fst e; dsimp only at e; subst e)))

theorem State.memInstr_kept {r : State} {s : State} (h : ℕ) (k : AccKind) (va : ℕ) (f : State → State) (hK : Kept r s) (hf : ∀ a0, Kept a0 (f a0)) : Kept r (State.memInstr s h k va f) := by
  unfold State.memInstr
  repeat' first
    | with_reducible assumption
    | with_reducible exact Kept.refl _
    | exact id
    | exact tabWf_tabSet _ _
    | exact tabWf_tabDrop _ _
    | exact tabWf_filter _
    | intro _
    | exact Nat.zero_le _
    | refine Kept.trans ?_ (hf ..)
    | with_reducible apply State.trigAccess_kept
    | with_reducible apply State.instr_kept
    | with_reducible apply Kept.ite
    | dsimp only
    | exact rfl
    | (split <;> (try (rename_i e; replace e := congrArg Prod.fst e; dsimp only at e; subst e)))

theorem State.appInstr_kept {r : State} {s : State} (h : ℕ) (f : State → State) (hK : Kept r s) (hf : ∀ a0, Kept a0 (f a0)) : Kept r (State.appInstr s h f) := by
  unfold State.appInstr
  repeat' first
    | with_reducible assumption
    | with_reducible exact Kept.refl _
    | exact id
    | exact tabWf_tabSet _ _
    | exact tabWf_tabDrop _ _
    | exact tabWf_filter _
    | intro _
    | exact Nat.zero_le _
    | refine Kept.trans ?_ (hf ..)
    | with_reducible apply State.illegal_kept
    | with_reducible apply State.instr_kept
    | with_reducible apply Kept.ite

/-! ### Machine/HartMem -/

theorem State.piecesOf_kept {r : State} {s : State} (h : ℕ) (k : AccKind) (va : ℕ) (n : ℕ) (hK : Kept r s) : Kept r (State.piecesOf s h k va n).1 := by
  unfold State.piecesOf
  repeat' first
    | with_reducible assumption
    | with_reducible exact Kept.refl _
    | exact id
    | exact tabWf_tabSet _ _
    | exact tabWf_tabDrop _ _
    | exact tabWf_filter _
    | intro _
    | exact Nat.zero_le _
    | with_reducible apply State.translate_kept
    | with_reducible apply Kept.ite
    | dsimp only
    | exact rfl
    | (split <;> (try (rename_i e; replace e := congrArg Prod.fst e; dsimp only at e; subst e)))

theorem State.piecesCheck_kept {r : State} {s : State} (h : ℕ) (sid : Option ℕ) (k : AccKind) (x1 : List Piece) (hK : Kept r s) : Kept r (State.piecesCheck s h sid k x1).1 := by
  induction x1 generalizing s h sid k with
  | nil =>
    unfold State.piecesCheck
    repeat' first
      | with_reducible assumption
  | cons a l ih =>
    unfold State.piecesCheck
    repeat' first
      | with_reducible assumption
      | with_reducible exact Kept.refl _
      | with_reducible apply ih
      | exact id
      | exact tabWf_tabSet _ _
      | exact tabWf_tabDrop _ _
      | exact tabWf_filter _
      | intro _
      | exact Nat.zero_le _
      | with_reducible apply State.physRefuse_kept
      | with_reducible apply Kept.ite
      | dsimp only
      | exact rfl
      | (split <;> (try (rename_i e; replace e := congrArg Prod.fst e; dsimp only at e; subst e)))

theorem State.withPieces_kept {r : State} {s : State} (h : ℕ) (k : AccKind) (va : ℕ) (n : ℕ) (f : List Piece → State → State) (hK : Kept r s) (hf : ∀ a0 a1, Kept a1 (f a0 a1)) : Kept r (State.withPieces s h k va n f) := by
  unfold State.withPieces
  repeat' first
    | with_reducible assumption
    | with_reducible exact Kept.refl _
    | exact id
    | exact tabWf_tabSet _ _
    | exact tabWf_tabDrop _ _
    | exact tabWf_filter _
    | intro _
    | exact Nat.zero_le _
    | refine Kept.trans ?_ (hf ..)
    | with_reducible apply State.exception_kept
    | with_reducible apply State.piecesOf_kept
    | with_reducible apply State.piecesCheck_kept
    | with_reducible apply Kept.ite
    | dsimp only
    | exact rfl
    | (split <;> (try (rename_i e; replace e := congrArg Prod.fst e; dsimp only at e; subst e)))

theorem State.setSb_kept {r : State} {s : State} (h : ℕ) (l : List SbEntry) (hK : Kept r s) : Kept r (State.setSb s h l) := by
  unfold State.setSb
  repeat' first
    | with_reducible assumption
    | with_reducible exact Kept.refl _
    | exact id
    | exact tabWf_tabSet _ _
    | exact tabWf_tabDrop _ _
    | exact tabWf_filter _
    | intro _
    | exact Nat.zero_le _
    | with_reducible apply State.updHart_kept

theorem State.maskWrite_kept {r : State} {s : State} (q : MemReq) (line : ℕ) (mask : ℕ) (data : ℕ) (hK : Kept r s) : Kept r (State.maskWrite s q line mask data) := by
  unfold State.maskWrite
  repeat' first
    | with_reducible assumption
    | with_reducible exact Kept.refl _
    | exact id
    | exact tabWf_tabSet _ _
    | exact tabWf_tabDrop _ _
    | exact tabWf_filter _
    | intro _
    | exact Nat.zero_le _
    | with_reducible apply State.each_kept
    | with_reducible apply State.memWrite_kept
    | with_reducible apply Kept.ite

theorem State.lineWrite_kept {r : State} {s : State} (h : ℕ) (w : World) (nc : Bool) (line : ℕ) (mask : ℕ) (data : ℕ) (hK : Kept r s) : Kept r (State.lineWrite s h w nc line mask data) := by
  unfold State.lineWrite
  repeat' first
    | with_reducible assumption
    | with_reducible exact Kept.refl _
    | exact id
    | exact tabWf_tabSet _ _
    | exact tabWf_tabDrop _ _
    | exact tabWf_filter _
    | intro _
    | exact Nat.zero_le _
    | with_reducible apply State.devWriteLine_kept
    | with_reducible apply State.physRefuse_kept
    | with_reducible apply State.coreWrite_kept
    | with_reducible apply State.commitNow_kept
    | with_reducible apply State.maskWrite_kept
    | with_reducible apply Kept.ite
    | dsimp only
    | exact rfl
    | (split <;> (try (rename_i e; replace e := congrArg Prod.fst e; dsimp only at e; subst e)))

theorem State.sbPerform_kept {r : State} {s : State} (h : ℕ) (e : SbEntry) (hK : Kept r s) : Kept r (State.sbPerform s h e) := by
  unfold State.sbPerform
  repeat' first
    | with_reducible assumption
    | with_reducible exact Kept.refl _
    | exact id
    | exact tabWf_tabSet _ _
    | exact tabWf_tabDrop _ _
    | exact tabWf_filter _
    | intro _
    | exact Nat.zero_le _
    | with_reducible apply State.lineWrite_kept

theorem State.sbDrain_kept {r : State} {s : State} (h : ℕ) (x1 : ℕ) (hK : Kept r s) : Kept r (State.sbDrain s h x1) := by
  induction x1 generalizing s h with
  | zero =>
    unfold State.sbDrain
    repeat' first
      | with_reducible assumption
  | succ m ih =>
    unfold State.sbDrain
    repeat' first
      | with_reducible assumption
      | with_reducible exact Kept.refl _
      | with_reducible apply ih
      | exact id
      | exact tabWf_tabSet _ _
      | exact tabWf_tabDrop _ _
      | exact tabWf_filter _
      | intro _
      | exact Nat.zero_le _
      | with_reducible apply State.setSb_kept
      | with_reducible apply State.sbPerform_kept
      | with_reducible apply Kept.ite
      | dsimp only
      | exact rfl
      | (split <;> (try (rename_i e; replace e := congrArg Prod.fst e; dsimp only at e; subst e)))

theorem State.sbDrainAll_kept {r : State} {s : State} (h : ℕ) (hK : Kept r s) : Kept r (State.sbDrainAll s h) := by
  unfold State.sbDrainAll
  repeat' first
    | with_reducible assumption
    | with_reducible exact Kept.refl _
    | exact id
    | exact tabWf_tabSet _ _
    | exact tabWf_tabDrop _ _
    | exact tabWf_filter _
    | intro _
    | exact Nat.zero_le _
    | with_reducible apply State.sbDrain_kept

theorem State.sbWait_kept {r : State} {s : State} (h : ℕ) (pa : ℕ) (n : ℕ) (hK : Kept r s) : Kept r (State.sbWait s h pa n) := by
  unfold State.sbWait
  repeat' first
    | with_reducible assumption
    | with_reducible exact Kept.refl _
    | exact id
    | exact tabWf_tabSet _ _
    | exact tabWf_tabDrop _ _
    | exact tabWf_filter _
    | intro _
    | exact Nat.zero_le _
    | with_reducible apply State.sbDrain_kept

theorem State.sbLeave_kept {r : State} {s : State} (h : ℕ) (i : ℕ) (hK : Kept r s) : Kept r (State.sbLeave s h i) := by
  unfold State.sbLeave
  repeat' first
    | with_reducible assumption
    | with_reducible exact Kept.refl _
    | exact id
    | exact tabWf_tabSet _ _
    | exact tabWf_tabDrop _ _
    | exact tabWf_filter _
    | intro _
    | exact Nat.zero_le _
    | with_reducible apply State.setSb_kept
    | with_reducible apply State.sbPerform_kept
    | with_reducible apply Kept.ite
    | dsimp only
    | exact rfl
    | (split <;> (try (rename_i e; replace e := congrArg Prod.fst e; dsimp only at e; subst e)))

theorem State.sbPush_kept {r : State} {s : State} (h : ℕ) (p : Piece) (v : ℕ) (hK : Kept r s) : Kept r (State.sbPush s h p v) := by
  unfold State.sbPush
  repeat' first
    | with_reducible assumption
    | with_reducible exact Kept.refl _
    | exact id
    | exact tabWf_tabSet _ _
    | exact tabWf_tabDrop _ _
    | exact tabWf_filter _
    | intro _
    | exact Nat.zero_le _
    | with_reducible apply State.setSb_kept
    | with_reducible apply Kept.ite
    | dsimp only
    | exact rfl
    | (split <;> (try (rename_i e; replace e := congrArg Prod.fst e; dsimp only at e; subst e)))

theorem State.ramMended_kept {r : State} {s : State} (h : ℕ) (kind : ℕ) (line : ℕ) (ukind : ℕ) (unit : ℕ) (hK : Kept r s) : Kept r (State.ramMended s h kind line ukind unit) := by
  unfold State.ramMended
  repeat' first
    | with_reducible assumption
    | with_reducible exact Kept.refl _
    | exact id
    | exact tabWf_tabSet _ _
    | exact tabWf_tabDrop _ _
    | exact tabWf_filter _
    | intro _
    | exact Nat.zero_le _
    | with_reducible apply State.tookFree_kept
    | with_reducible apply State.coreCount_kept
    | with_reducible apply State.sherd_kept
    | with_reducible apply State.crazeCount_kept

theorem State.ramLost_kept {r : State} {s : State} (h : ℕ) (line : ℕ) (hK : Kept r s) : Kept r (State.ramLost s h line) := by
  unfold State.ramLost
  repeat' first
    | with_reducible assumption
    | with_reducible exact Kept.refl _
    | exact id
    | exact tabWf_tabSet _ _
    | exact tabWf_tabDrop _ _
    | exact tabWf_filter _
    | intro _
    | exact Nat.zero_le _
    | with_reducible apply State.tookFree_kept
    | with_reducible apply State.sherd_kept

theorem State.ramError_kept {r : State} {s : State} (h : ℕ) (line : ℕ) (err : SramErr) (hK : Kept r s) : Kept r (State.ramError s h line err).1 := by
  unfold State.ramError
  repeat' first
    | with_reducible assumption
    | with_reducible exact Kept.refl _
    | exact id
    | exact tabWf_tabSet _ _
    | exact tabWf_tabDrop _ _
    | exact tabWf_filter _
    | intro _
    | exact Nat.zero_le _
    | with_reducible apply State.setSramPoison_kept
    | with_reducible apply State.setL2_kept
    | with_reducible apply State.setDir_kept
    | with_reducible apply State.rollbackOn_kept
    | with_reducible apply State.ramMended_kept
    | with_reducible apply State.ramLost_kept
    | with_reducible apply Kept.ite
    | dsimp only
    | exact rfl
    | (split <;> (try (rename_i e; replace e := congrArg Prod.fst e; dsimp only at e; subst e)))

theorem State.normalRead_kept {r : State} {s : State} (h : ℕ) (p : Piece) (hK : Kept r s) : Kept r (State.normalRead s h p).1 := by
  unfold State.normalRead
  repeat' first
    | with_reducible assumption
    | with_reducible exact Kept.refl _
    | exact id
    | exact tabWf_tabSet _ _
    | exact tabWf_tabDrop _ _
    | exact tabWf_filter _
    | intro _
    | exact Nat.zero_le _
    | with_reducible apply State.coreRead_kept
    | with_reducible apply State.memRead_kept
    | with_reducible apply Kept.ite
    | dsimp only
    | exact rfl
    | (split <;> (try (rename_i e; replace e := congrArg Prod.fst e; dsimp only at e; subst e)))

theorem State.partsRead_kept {r : State} {s : State} (h : ℕ) (x1 : List Piece) (hK : Kept r s) : Kept r (State.partsRead s h x1).1 := by
  induction x1 generalizing s h with
  | nil =>
    unfold State.partsRead
    repeat' first
      | with_reducible assumption
  | cons a l ih =>
    unfold State.partsRead
    repeat' first
      | with_reducible assumption
      | with_reducible exact Kept.refl _
      | with_reducible apply ih
      | exact id
      | exact tabWf_tabSet _ _
      | exact tabWf_tabDrop _ _
      | exact tabWf_filter _
      | intro _
      | exact Nat.zero_le _
      | with_reducible apply State.sbWait_kept
      | with_reducible apply State.normalRead_kept

theorem State.deviceRead_kept {r : State} {s : State} (h : ℕ) (p : Piece) (hK : Kept r s) : Kept r (State.deviceRead s h p).1 := by
  unfold State.deviceRead
  repeat' first
    | with_reducible assumption
    | with_reducible exact Kept.refl _
    | exact id
    | exact tabWf_tabSet _ _
    | exact tabWf_tabDrop _ _
    | exact tabWf_filter _
    | intro _
    | exact Nat.zero_le _
    | with_reducible apply State.sherdRefused_kept
    | with_reducible apply State.memRead_kept
    | with_reducible apply State.winRead_kept
    | with_reducible apply Kept.ite
    | dsimp only
    | exact rfl
    | (split <;> (try (rename_i e; replace e := congrArg Prod.fst e; dsimp only at e; subst e)))

theorem State.normalLoad_kept {r : State} {s : State} (h : ℕ) (ps : List Piece) (err : SramErr) (hK : Kept r s) : Kept r (State.normalLoad s h ps err).1 := by
  unfold State.normalLoad
  repeat' first
    | with_reducible assumption
    | with_reducible exact Kept.refl _
    | exact id
    | exact tabWf_tabSet _ _
    | exact tabWf_tabDrop _ _
    | exact tabWf_filter _
    | intro _
    | exact Nat.zero_le _
    | with_reducible apply State.when_kept
    | with_reducible apply State.coreCount_kept
    | with_reducible apply State.ramError_kept
    | with_reducible apply State.partsRead_kept
    | with_reducible apply Kept.ite
    | dsimp only
    | exact rfl
    | (split <;> (try (rename_i e; replace e := congrArg Prod.fst e; dsimp only at e; subst e)))

theorem State.setF_kept {r : State} {s : State} (h : ℕ) (r0 : ℕ) (n : ℕ) (v : ℕ) (hK : Kept r s) : Kept r (State.setF s h r0 n v) := by
  unfold State.setF
  repeat' first
    | with_reducible assumption
    | with_reducible exact Kept.refl _
    | exact id
    | exact tabWf_tabSet _ _
    | exact tabWf_tabDrop _ _
    | exact tabWf_filter _
    | intro _
    | exact Nat.zero_le _
    | with_reducible apply State.when_kept
    | with_reducible apply State.updHart_kept
    | with_reducible apply State.setCsr_kept

theorem State.loadRetire_kept {r : State} {s : State} (h : ℕ) (rd : ℕ) (n : ℕ) (signed : Bool) (kind : LoadKind) (v : ℕ) (hK : Kept r s) : Kept r (State.loadRetire s h rd n signed kind v) := by
  unfold State.loadRetire
  repeat' first
    | with_reducible assumption
    | with_reducible exact Kept.refl _
    | exact id
    | exact tabWf_tabSet _ _
    | exact tabWf_tabDrop _ _
    | exact tabWf_filter _
    | intro _
    | exact Nat.zero_le _
    | with_reducible apply State.setX_kept
    | with_reducible apply State.retire_kept
    | with_reducible apply State.setF_kept
    | with_reducible apply Kept.ite
    | dsimp only
    | exact rfl
    | (split <;> (try (rename_i e; replace e := congrArg Prod.fst e; dsimp only at e; subst e)))

theorem State.poisonTrap_kept {r : State} {s : State} (h : ℕ) (k : AccKind) (pa : ℕ) (va : ℕ) (hK : Kept r s) : Kept r (State.poisonTrap s h k pa va) := by
  unfold State.poisonTrap
  repeat' first
    | with_reducible assumption
    | with_reducible exact Kept.refl _
    | exact id
    | exact tabWf_tabSet _ _
    | exact tabWf_tabDrop _ _
    | exact tabWf_filter _
    | intro _
    | exact Nat.zero_le _
    | with_reducible apply State.exception_kept
    | with_reducible apply State.consumed_kept

theorem State.asCommitPoint_kept {r : State} {s : State} (h : ℕ) (f : State → State) (hK : Kept r s) (hf : ∀ a0, Kept a0 (f a0)) : Kept r (State.asCommitPoint s h f) := by
  unfold State.asCommitPoint
  repeat' first
    | with_reducible assumption
    | with_reducible exact Kept.refl _
    | exact id
    | exact tabWf_tabSet _ _
    | exact tabWf_tabDrop _ _
    | exact tabWf_filter _
    | intro _
    | exact Nat.zero_le _
    | refine Kept.trans ?_ (hf ..)
    | with_reducible apply State.coreCount_kept
    | with_reducible apply State.epochStart_kept
    | with_reducible apply State.commitNow_kept
    | with_reducible apply Kept.ite

theorem State.loadGo_kept {r : State} {s : State} (h : ℕ) (va : ℕ) (n : ℕ) (rd : ℕ) (signed : Bool) (kind : LoadKind) (err : SramErr) (ps : List Piece) (hK : Kept r s) : Kept r (State.loadGo s h va n rd signed kind err ps) := by
  unfold State.loadGo
  repeat' first
    | with_reducible assumption
    | with_reducible exact Kept.refl _
    | exact id
    | exact tabWf_tabSet _ _
    | exact tabWf_tabDrop _ _
    | exact tabWf_filter _
    | intro _
    | exact Nat.zero_le _
    | with_reducible apply State.when_kept
    | with_reducible apply State.updHart_kept
    | with_reducible apply State.coreCount_kept
    | with_reducible apply State.exception_kept
    | with_reducible apply State.deviceRead_kept
    | with_reducible apply State.normalLoad_kept
    | with_reducible apply State.loadRetire_kept
    | with_reducible apply State.poisonTrap_kept
    | with_reducible apply State.asCommitPoint_kept
    | with_reducible apply Kept.ite
    | dsimp only
    | exact rfl
    | (split <;> (try (rename_i e; replace e := congrArg Prod.fst e; dsimp only at e; subst e)))

theorem State.load_kept {r : State} {s : State} (h : ℕ) (va : ℕ) (n : ℕ) (rd : ℕ) (signed : Bool) (kind : LoadKind) (err : SramErr) (hK : Kept r s) : Kept r (State.load s h va n rd signed kind err) := by
  unfold State.load
  repeat' first
    | with_reducible assumption
    | with_reducible exact Kept.refl _
    | exact id
    | exact tabWf_tabSet _ _
    | exact tabWf_tabDrop _ _
    | exact tabWf_filter _
    | intro _
    | exact Nat.zero_le _
    | with_reducible apply State.exception_kept
    | with_reducible apply State.illegal_kept
    | with_reducible apply State.withPieces_kept
    | with_reducible apply State.loadGo_kept
    | with_reducible apply Kept.ite

theorem State.fabricResponse_kept {r : State} {s : State} (h : ℕ) (hK : Kept r s) : Kept r (State.fabricResponse s h) := by
  unfold State.fabricResponse
  repeat' first
    | with_reducible assumption
    | with_reducible exact Kept.refl _
    | exact id
    | exact tabWf_tabSet _ _
    | exact tabWf_tabDrop _ _
    | exact tabWf_filter _
    | intro _
    | exact Nat.zero_le _
    | with_reducible apply State.updHart_kept
    | with_reducible apply State.exception_kept
    | with_reducible apply State.physRefuse_kept
    | with_reducible apply State.afterInstr_kept
    | with_reducible apply State.normalRead_kept
    | with_reducible apply State.deviceRead_kept
    | with_reducible apply State.loadRetire_kept
    | with_reducible apply State.poisonTrap_kept
    | with_reducible apply Kept.ite
    | dsimp only
    | exact rfl
    | (split <;> (try (rename_i e; replace e := congrArg Prod.fst e; dsimp only at e; subst e)))

theorem State.smcNote_kept {r : State} {s : State} (h : ℕ) (ps : List Piece) (hK : Kept r s) : Kept r (State.smcNote s h ps) := by
  unfold State.smcNote
  repeat' first
    | with_reducible assumption
    | with_reducible exact Kept.refl _
    | exact id
    | exact tabWf_tabSet _ _
    | exact tabWf_tabDrop _ _
    | exact tabWf_filter _
    | intro _
    | exact Nat.zero_le _
    | with_reducible apply State.updHart_kept

theorem State.deviceWrite_kept {r : State} {s : State} (h : ℕ) (d : DevStore) (hK : Kept r s) : Kept r (State.deviceWrite s h d).1 := by
  unfold State.deviceWrite
  repeat' first
    | with_reducible assumption
    | with_reducible exact Kept.refl _
    | exact id
    | exact tabWf_tabSet _ _
    | exact tabWf_tabDrop _ _
    | exact tabWf_filter _
    | intro _
    | exact Nat.zero_le _
    | with_reducible apply State.res_kept
    | with_reducible apply State.when_kept
    | with_reducible apply State.sherdRefused_kept
    | with_reducible apply State.physRefuse_kept
    | with_reducible apply State.memWrite_kept
    | with_reducible apply State.winWrite_kept
    | with_reducible apply Kept.ite
    | dsimp only
    | exact rfl
    | (split <;> (try (rename_i e; replace e := congrArg Prod.fst e; dsimp only at e; subst e)))

theorem State.deviceAck_kept {r : State} {s : State} (h : ℕ) (hK : Kept r s) : Kept r (State.deviceAck s h) := by
  unfold State.deviceAck
  repeat' first
    | with_reducible assumption
    | with_reducible exact Kept.refl _
    | exact id
    | exact tabWf_tabSet _ _
    | exact tabWf_tabDrop _ _
    | exact tabWf_filter _
    | intro _
    | exact Nat.zero_le _
    | with_reducible apply State.updHart_kept
    | with_reducible apply State.retire_kept
    | with_reducible apply State.accessFault_kept
    | with_reducible apply State.afterInstr_kept
    | with_reducible apply State.deviceWrite_kept
    | with_reducible apply Kept.ite
    | dsimp only
    | exact rfl
    | (split <;> (try (rename_i e; replace e := congrArg Prod.fst e; dsimp only at e; subst e)))

theorem State.wbufDrain_kept {r : State} {s : State} (h : ℕ) (hK : Kept r s) : Kept r (State.wbufDrain s h) := by
  unfold State.wbufDrain
  repeat' first
    | with_reducible assumption
    | with_reducible exact Kept.refl _
    | exact id
    | exact tabWf_tabSet _ _
    | exact tabWf_tabDrop _ _
    | exact tabWf_filter _
    | intro _
    | exact Nat.zero_le _
    | with_reducible apply State.updHart_kept
    | with_reducible apply State.retire_kept
    | with_reducible apply State.accessFault_kept
    | with_reducible apply State.afterInstr_kept
    | with_reducible apply State.deviceWrite_kept
    | with_reducible apply Kept.ite
    | dsimp only
    | exact rfl
    | (split <;> (try (rename_i e; replace e := congrArg Prod.fst e; dsimp only at e; subst e)))

theorem State.epochStore_kept {r : State} {s : State} (h : ℕ) (va : ℕ) (pa : ℕ) (n : ℕ) (v : ℕ) (hK : Kept r s) : Kept r (State.epochStore s h va pa n v) := by
  unfold State.epochStore
  repeat' first
    | with_reducible assumption
    | with_reducible exact Kept.refl _
    | exact id
    | exact tabWf_tabSet _ _
    | exact tabWf_tabDrop _ _
    | exact tabWf_filter _
    | intro _
    | exact Nat.zero_le _
    | with_reducible apply State.put_kept
    | with_reducible apply State.coreCount_kept
    | with_reducible apply State.sherdRefused_kept
    | with_reducible apply State.setEpoch_kept
    | with_reducible apply State.retire_kept
    | with_reducible apply State.accessFault_kept
    | with_reducible apply State.commitNow_kept
    | with_reducible apply Kept.ite
    | dsimp only
    | exact rfl
    | (split <;> (try (rename_i e; replace e := congrArg Prod.fst e; dsimp only at e; subst e)))

theorem State.storeApp_kept {r : State} {s : State} (h : ℕ) (va : ℕ) (n : ℕ) (v : ℕ) (ps : List Piece) (hK : Kept r s) : Kept r (State.storeApp s h va n v ps) := by
  unfold State.storeApp
  repeat' first
    | with_reducible assumption
    | with_reducible exact Kept.refl _
    | exact id
    | exact tabWf_tabSet _ _
    | exact tabWf_tabDrop _ _
    | exact tabWf_filter _
    | intro _
    | exact Nat.zero_le _
    | with_reducible apply State.when_kept
    | with_reducible apply State.updHart_kept
    | with_reducible apply State.coreCount_kept
    | with_reducible apply State.retire_kept
    | with_reducible apply State.sbPush_kept
    | with_reducible apply State.smcNote_kept
    | with_reducible apply State.epochStore_kept
    | with_reducible apply Kept.ite
    | with_reducible apply Kept.foldl
    | with_reducible apply Kept.foldlPair
    | dsimp only
    | exact rfl
    | (split <;> (try (rename_i e; replace e := congrArg Prod.fst e; dsimp only at e; subst e)))

theorem State.storeTk_kept {r : State} {s : State} (h : ℕ) (va : ℕ) (n : ℕ) (v : ℕ) (ps : List Piece) (hK : Kept r s) : Kept r (State.storeTk s h va n v ps) := by
  unfold State.storeTk
  repeat' first
    | with_reducible assumption
    | with_reducible exact Kept.refl _
    | exact id
    | exact tabWf_tabSet _ _
    | exact tabWf_tabDrop _ _
    | exact tabWf_filter _
    | intro _
    | exact Nat.zero_le _
    | with_reducible apply State.updHart_kept
    | with_reducible apply State.retire_kept
    | with_reducible apply State.memWrite_kept
    | with_reducible apply State.smcNote_kept
    | with_reducible apply Kept.ite
    | dsimp only
    | exact rfl
    | (split <;> (try (rename_i e; replace e := congrArg Prod.fst e; dsimp only at e; subst e)))

theorem State.storeWarden_kept {r : State} {s : State} (h : ℕ) (va : ℕ) (n : ℕ) (v : ℕ) (ps : List Piece) (hK : Kept r s) : Kept r (State.storeWarden s h va n v ps) := by
  unfold State.storeWarden
  repeat' first
    | with_reducible assumption
    | with_reducible exact Kept.refl _
    | exact id
    | exact tabWf_tabSet _ _
    | exact tabWf_tabDrop _ _
    | exact tabWf_filter _
    | intro _
    | exact Nat.zero_le _
    | with_reducible apply State.retire_kept
    | with_reducible apply State.accessFault_kept
    | with_reducible apply State.smcNote_kept
    | with_reducible apply State.deviceWrite_kept
    | with_reducible apply Kept.ite
    | dsimp only
    | exact rfl
    | (split <;> (try (rename_i e; replace e := congrArg Prod.fst e; dsimp only at e; subst e)))

theorem State.store_kept {r : State} {s : State} (h : ℕ) (va : ℕ) (n : ℕ) (v : ℕ) (hK : Kept r s) : Kept r (State.store s h va n v) := by
  unfold State.store
  repeat' first
    | with_reducible assumption
    | with_reducible exact Kept.refl _
    | exact id
    | exact tabWf_tabSet _ _
    | exact tabWf_tabDrop _ _
    | exact tabWf_filter _
    | intro _
    | exact Nat.zero_le _
    | with_reducible apply State.exception_kept
    | with_reducible apply State.illegal_kept
    | with_reducible apply State.withPieces_kept
    | with_reducible apply State.storeApp_kept
    | with_reducible apply State.storeTk_kept
    | with_reducible apply State.storeWarden_kept
    | with_reducible apply Kept.ite

theorem State.atomic_kept {r : State} {s : State} (h : ℕ) (k : AccKind) (va : ℕ) (n : ℕ) (f : Piece → State → State) (hK : Kept r s) (hf : ∀ a0 a1, Kept a1 (f a0 a1)) : Kept r (State.atomic s h k va n f) := by
  unfold State.atomic
  repeat' first
    | with_reducible assumption
    | with_reducible exact Kept.refl _
    | exact id
    | exact tabWf_tabSet _ _
    | exact tabWf_tabDrop _ _
    | exact tabWf_filter _
    | intro _
    | exact Nat.zero_le _
    | refine Kept.trans ?_ (hf ..)
    | with_reducible apply State.exception_kept
    | with_reducible apply State.illegal_kept
    | with_reducible apply State.withPieces_kept
    | with_reducible apply State.sbWait_kept
    | with_reducible apply Kept.ite
    | dsimp only
    | exact rfl
    | (split <;> (try (rename_i e; replace e := congrArg Prod.fst e; dsimp only at e; subst e)))

theorem State.atomicWrite_kept {r : State} {s : State} (h : ℕ) (p : Piece) (v : ℕ) (hK : Kept r s) : Kept r (State.atomicWrite s h p v) := by
  unfold State.atomicWrite
  repeat' first
    | with_reducible assumption
    | with_reducible exact Kept.refl _
    | exact id
    | exact tabWf_tabSet _ _
    | exact tabWf_tabDrop _ _
    | exact tabWf_filter _
    | intro _
    | exact Nat.zero_le _
    | with_reducible apply State.updHart_kept
    | with_reducible apply State.lineWrite_kept
    | with_reducible apply Kept.ite
    | dsimp only
    | exact rfl
    | (split <;> (try (rename_i e; replace e := congrArg Prod.fst e; dsimp only at e; subst e)))

theorem State.amo_kept {r : State} {s : State} (h : ℕ) (op : AmoOp) (va : ℕ) (n : ℕ) (rd : ℕ) (src : ℕ) (hK : Kept r s) : Kept r (State.amo s h op va n rd src) := by
  unfold State.amo
  repeat' first
    | with_reducible assumption
    | with_reducible exact Kept.refl _
    | exact id
    | exact tabWf_tabSet _ _
    | exact tabWf_tabDrop _ _
    | exact tabWf_filter _
    | intro _
    | exact Nat.zero_le _
    | with_reducible apply State.setX_kept
    | with_reducible apply State.coreCount_kept
    | with_reducible apply State.retire_kept
    | with_reducible apply State.normalRead_kept
    | with_reducible apply State.poisonTrap_kept
    | with_reducible apply State.smcNote_kept
    | with_reducible apply State.atomic_kept
    | with_reducible apply State.atomicWrite_kept
    | with_reducible apply Kept.ite
    | dsimp only
    | exact rfl
    | (split <;> (try (rename_i e; replace e := congrArg Prod.fst e; dsimp only at e; subst e)))

theorem State.loadReserved_kept {r : State} {s : State} (h : ℕ) (va : ℕ) (n : ℕ) (rd : ℕ) (hK : Kept r s) : Kept r (State.loadReserved s h va n rd) := by
  unfold State.loadReserved
  repeat' first
    | with_reducible assumption
    | with_reducible exact Kept.refl _
    | exact id
    | exact tabWf_tabSet _ _
    | exact tabWf_tabDrop _ _
    | exact tabWf_filter _
    | intro _
    | exact Nat.zero_le _
    | with_reducible apply State.updHart_kept
    | with_reducible apply State.setX_kept
    | with_reducible apply State.retire_kept
    | with_reducible apply State.normalRead_kept
    | with_reducible apply State.poisonTrap_kept
    | with_reducible apply State.atomic_kept
    | with_reducible apply Kept.ite
    | dsimp only
    | exact rfl
    | (split <;> (try (rename_i e; replace e := congrArg Prod.fst e; dsimp only at e; subst e)))

theorem State.storeConditional_kept {r : State} {s : State} (h : ℕ) (va : ℕ) (n : ℕ) (rd : ℕ) (v : ℕ) (hK : Kept r s) : Kept r (State.storeConditional s h va n rd v) := by
  unfold State.storeConditional
  repeat' first
    | with_reducible assumption
    | with_reducible exact Kept.refl _
    | exact id
    | exact tabWf_tabSet _ _
    | exact tabWf_tabDrop _ _
    | exact tabWf_filter _
    | intro _
    | exact Nat.zero_le _
    | with_reducible apply State.updHart_kept
    | with_reducible apply State.setX_kept
    | with_reducible apply State.coreCount_kept
    | with_reducible apply State.retire_kept
    | with_reducible apply State.normalRead_kept
    | with_reducible apply State.poisonTrap_kept
    | with_reducible apply State.smcNote_kept
    | with_reducible apply State.atomic_kept
    | with_reducible apply State.atomicWrite_kept
    | with_reducible apply Kept.ite
    | dsimp only
    | exact rfl
    | (split <;> (try (rename_i e; replace e := congrArg Prod.fst e; dsimp only at e; subst e)))

theorem State.cboZero_kept {r : State} {s : State} (h : ℕ) (va : ℕ) (hK : Kept r s) : Kept r (State.cboZero s h va) := by
  unfold State.cboZero
  repeat' first
    | with_reducible assumption
    | with_reducible exact Kept.refl _
    | exact id
    | exact tabWf_tabSet _ _
    | exact tabWf_tabDrop _ _
    | exact tabWf_filter _
    | intro _
    | exact Nat.zero_le _
    | with_reducible apply State.retire_kept
    | with_reducible apply State.exception_kept
    | with_reducible apply State.illegal_kept
    | with_reducible apply State.withPieces_kept
    | with_reducible apply State.lineWrite_kept
    | with_reducible apply State.sbWait_kept
    | with_reducible apply State.smcNote_kept
    | with_reducible apply Kept.ite
    | dsimp only
    | exact rfl
    | (split <;> (try (rename_i e; replace e := congrArg Prod.fst e; dsimp only at e; subst e)))

theorem State.remoteEnd_kept {r : State} {s : State} (h : ℕ) (va : ℕ) (addr : ℕ) (write : Bool) (rd : ℕ) (ans : RemoteAnswer) (hK : Kept r s) : Kept r (State.remoteEnd s h va addr write rd ans) := by
  unfold State.remoteEnd
  repeat' first
    | with_reducible assumption
    | with_reducible exact Kept.refl _
    | exact id
    | exact tabWf_tabSet _ _
    | exact tabWf_tabDrop _ _
    | exact tabWf_filter _
    | intro _
    | exact Nat.zero_le _
    | with_reducible apply State.setX_kept
    | with_reducible apply State.retire_kept
    | with_reducible apply State.accessFault_kept
    | with_reducible apply State.remoteDenied_kept
    | with_reducible apply Kept.ite
    | dsimp only
    | exact rfl
    | (split <;> (try (rename_i e; replace e := congrArg Prod.fst e; dsimp only at e; subst e)))

theorem State.remoteAccess_kept {r : State} {s : State} (a : Agent) (va : ℕ) (addr : ℕ) (write : Bool) (rd : ℕ) (ans : RemoteAnswer) (hK : Kept r s) : Kept r (State.remoteAccess s a va addr write rd ans) := by
  unfold State.remoteAccess
  repeat' first
    | with_reducible assumption
    | with_reducible exact Kept.refl _
    | exact id
    | exact tabWf_tabSet _ _
    | exact tabWf_tabDrop _ _
    | exact tabWf_filter _
    | intro _
    | exact Nat.zero_le _
    | with_reducible apply State.when_kept
    | with_reducible apply State.sbEnd_kept
    | with_reducible apply State.accessFault_kept
    | with_reducible apply State.physRefuse_kept
    | with_reducible apply State.remoteDenied_kept
    | with_reducible apply State.sbData_kept
    | with_reducible apply State.remoteEnd_kept
    | with_reducible apply Kept.ite
    | dsimp only
    | exact rfl
    | (split <;> (try (rename_i e; replace e := congrArg Prod.fst e; dsimp only at e; subst e)))

/-! ### Machine/Csr -/

theorem State.mstatusWrite_kept {r : State} {s : State} (h : ℕ) (v : ℕ) (hK : Kept r s) : Kept r (State.mstatusWrite s h v) := by
  unfold State.mstatusWrite
  repeat' first
    | with_reducible assumption
    | with_reducible exact Kept.refl _
    | exact id
    | exact tabWf_tabSet _ _
    | exact tabWf_tabDrop _ _
    | exact tabWf_filter _
    | intro _
    | exact Nat.zero_le _
    | with_reducible apply State.setCsr_kept

theorem State.mipWrite_kept {r : State} {s : State} (h : ℕ) (mask : ℕ) (v : ℕ) (hK : Kept r s) : Kept r (State.mipWrite s h mask v) := by
  unfold State.mipWrite
  repeat' first
    | with_reducible assumption
    | with_reducible exact Kept.refl _
    | exact id
    | exact tabWf_tabSet _ _
    | exact tabWf_tabDrop _ _
    | exact tabWf_filter _
    | intro _
    | exact Nat.zero_le _
    | with_reducible apply State.setCsr_kept

theorem State.topeiClaim_kept {r : State} {s : State} (h : ℕ) (f : ℕ) (hK : Kept r s) : Kept r (State.topeiClaim s h f) := by
  unfold State.topeiClaim
  repeat' first
    | with_reducible assumption
    | with_reducible exact Kept.refl _
    | exact id
    | exact tabWf_tabSet _ _
    | exact tabWf_tabDrop _ _
    | exact tabWf_filter _
    | intro _
    | exact Nat.zero_le _
    | with_reducible apply State.setImsic_kept
    | with_reducible apply Kept.ite

theorem State.iregWrite_kept {r : State} {s : State} (h : ℕ) (f : ℕ) (sel : ℕ) (v : ℕ) (hK : Kept r s) : Kept r (State.iregWrite s h f sel v) := by
  unfold State.iregWrite
  repeat' first
    | with_reducible assumption
    | with_reducible exact Kept.refl _
    | exact id
    | exact tabWf_tabSet _ _
    | exact tabWf_tabDrop _ _
    | exact tabWf_filter _
    | intro _
    | exact Nat.zero_le _
    | with_reducible apply State.setImsic_kept
    | with_reducible apply Kept.ite

theorem State.pmpCfgWrite_kept {r : State} {s : State} (h : ℕ) (a : ℕ) (v : ℕ) (hK : Kept r s) : Kept r (State.pmpCfgWrite s h a v) := by
  unfold State.pmpCfgWrite
  repeat' first
    | with_reducible assumption
    | with_reducible exact Kept.refl _
    | exact id
    | exact tabWf_tabSet _ _
    | exact tabWf_tabDrop _ _
    | exact tabWf_filter _
    | intro _
    | exact Nat.zero_le _
    | with_reducible apply State.each_kept
    | with_reducible apply State.setCsr_kept
    | with_reducible apply Kept.ite

theorem State.mseccfgWrite_kept {r : State} {s : State} (h : ℕ) (v : ℕ) (hK : Kept r s) : Kept r (State.mseccfgWrite s h v) := by
  unfold State.mseccfgWrite
  repeat' first
    | with_reducible assumption
    | with_reducible exact Kept.refl _
    | exact id
    | exact tabWf_tabSet _ _
    | exact tabWf_tabDrop _ _
    | exact tabWf_filter _
    | intro _
    | exact Nat.zero_le _
    | with_reducible apply State.setCsr_kept

theorem State.modeCsrWrite_kept {r : State} {s : State} (h : ℕ) (p : Priv) (a : ℕ) (v : ℕ) (hK : Kept r s) : Kept r (State.modeCsrWrite s h p a v) := by
  unfold State.modeCsrWrite
  repeat' first
    | with_reducible assumption
    | with_reducible exact Kept.refl _
    | exact id
    | exact tabWf_tabSet _ _
    | exact tabWf_tabDrop _ _
    | exact tabWf_filter _
    | intro _
    | exact Nat.zero_le _
    | with_reducible apply State.setModeCsr_kept
    | with_reducible apply Kept.ite

theorem State.csrRead_kept {r : State} {s : State} (h : ℕ) (a : ℕ) (hK : Kept r s) : Kept r (State.csrRead s h a).1 := by
  unfold State.csrRead
  repeat' first
    | with_reducible assumption
    | with_reducible exact Kept.refl _
    | exact id
    | exact tabWf_tabSet _ _
    | exact tabWf_tabDrop _ _
    | exact tabWf_filter _
    | intro _
    | exact Nat.zero_le _
    | with_reducible apply State.tookFree_kept
    | with_reducible apply Kept.ite
    | dsimp only
    | exact rfl
    | (split <;> (try (rename_i e; replace e := congrArg Prod.fst e; dsimp only at e; subst e)))

theorem State.fpDirty_kept {r : State} {s : State} (h : ℕ) (lo : ℕ) (hK : Kept r s) : Kept r (State.fpDirty s h lo) := by
  unfold State.fpDirty
  repeat' first
    | with_reducible assumption
    | with_reducible exact Kept.refl _
    | exact id
    | exact tabWf_tabSet _ _
    | exact tabWf_tabDrop _ _
    | exact tabWf_filter _
    | intro _
    | exact Nat.zero_le _
    | with_reducible apply State.when_kept
    | with_reducible apply State.setCsr_kept

theorem State.atpWrite_kept {r : State} {s : State} (h : ℕ) (a : ℕ) (v : ℕ) (hK : Kept r s) : Kept r (State.atpWrite s h a v) := by
  unfold State.atpWrite
  repeat' first
    | with_reducible assumption
    | with_reducible exact Kept.refl _
    | exact id
    | exact tabWf_tabSet _ _
    | exact tabWf_tabDrop _ _
    | exact tabWf_filter _
    | intro _
    | exact Nat.zero_le _
    | with_reducible apply State.setCsr_kept
    | with_reducible apply Kept.ite

theorem State.menvcfgWrite_kept {r : State} {s : State} (h : ℕ) (v : ℕ) (hK : Kept r s) : Kept r (State.menvcfgWrite s h v) := by
  unfold State.menvcfgWrite
  repeat' first
    | with_reducible assumption
    | with_reducible exact Kept.refl _
    | exact id
    | exact tabWf_tabSet _ _
    | exact tabWf_tabDrop _ _
    | exact tabWf_filter _
    | intro _
    | exact Nat.zero_le _
    | with_reducible apply State.setCsr_kept

theorem State.trigWrite_kept {r : State} {s : State} (h : ℕ) (j : ℕ) (v : ℕ) (dbg : Bool) (hK : Kept r s) : Kept r (State.trigWrite s h j v dbg) := by
  unfold State.trigWrite
  repeat' first
    | with_reducible assumption
    | with_reducible exact Kept.refl _
    | exact id
    | exact tabWf_tabSet _ _
    | exact tabWf_tabDrop _ _
    | exact tabWf_filter _
    | intro _
    | exact Nat.zero_le _
    | with_reducible apply State.setCsr_kept
    | with_reducible apply Kept.ite

theorem State.csrWrite_kept {r : State} {s : State} (h : ℕ) (a : ℕ) (v : ℕ) (dbg : Bool) (hK : Kept r s) : Kept r (State.csrWrite s h a v dbg) := by
  unfold State.csrWrite
  repeat' first
    | with_reducible assumption
    | with_reducible exact Kept.refl _
    | exact id
    | exact tabWf_tabSet _ _
    | exact tabWf_tabDrop _ _
    | exact tabWf_filter _
    | intro _
    | exact Nat.zero_le _
    | with_reducible apply State.updHart_kept
    | with_reducible apply State.setCsr_kept
    | with_reducible apply State.mstatusWrite_kept
    | with_reducible apply State.mipWrite_kept
    | with_reducible apply State.topeiClaim_kept
    | with_reducible apply State.iregWrite_kept
    | with_reducible apply State.pmpCfgWrite_kept
    | with_reducible apply State.mseccfgWrite_kept
    | with_reducible apply State.modeCsrWrite_kept
    | with_reducible apply State.fpDirty_kept
    | with_reducible apply State.atpWrite_kept
    | with_reducible apply State.menvcfgWrite_kept
    | with_reducible apply State.trigWrite_kept
    | with_reducible apply Kept.ite
    | dsimp only
    | exact rfl
    | (split <;> (try (rename_i e; replace e := congrArg Prod.fst e; dsimp only at e; subst e)))

theorem State.csrDo_kept {r : State} {s : State} (h : ℕ) (a : ℕ) (op : CsrOp) (rd : ℕ) (src : ℕ) (hK : Kept r s) : Kept r (State.csrDo s h a op rd src) := by
  unfold State.csrDo
  repeat' first
    | with_reducible assumption
    | with_reducible exact Kept.refl _
    | exact id
    | exact tabWf_tabSet _ _
    | exact tabWf_tabDrop _ _
    | exact tabWf_filter _
    | intro _
    | exact Nat.zero_le _
    | with_reducible apply State.setX_kept
    | with_reducible apply State.retire_kept
    | with_reducible apply State.csrRead_kept
    | with_reducible apply State.csrWrite_kept
    | with_reducible apply Kept.ite

theorem State.csrInstr_kept {r : State} {s : State} (h : ℕ) (a : ℕ) (op : CsrOp) (rd : ℕ) (src : ℕ) (hK : Kept r s) : Kept r (State.csrInstr s h a op rd src) := by
  unfold State.csrInstr
  repeat' first
    | with_reducible assumption
    | with_reducible exact Kept.refl _
    | exact id
    | exact tabWf_tabSet _ _
    | exact tabWf_tabDrop _ _
    | exact tabWf_filter _
    | intro _
    | exact Nat.zero_le _
    | with_reducible apply State.exception_kept
    | with_reducible apply State.csrDo_kept
    | with_reducible apply Kept.ite
    | dsimp only
    | exact rfl
    | (split <;> (try (rename_i e; replace e := congrArg Prod.fst e; dsimp only at e; subst e)))

/-! ### Machine/Harts -/

theorem State.fence_kept {r : State} {s : State} (h : ℕ) (po : Bool) (pw : Bool) (si : Bool) (so : Bool) (sr : Bool) (hK : Kept r s) : Kept r (State.fence s h po pw si so sr) := by
  unfold State.fence
  repeat' first
    | with_reducible assumption
    | with_reducible exact Kept.refl _
    | exact id
    | exact tabWf_tabSet _ _
    | exact tabWf_tabDrop _ _
    | exact tabWf_filter _
    | intro _
    | exact Nat.zero_le _
    | with_reducible apply State.updHart_kept
    | with_reducible apply State.coreCount_kept
    | with_reducible apply State.retire_kept
    | with_reducible apply State.sbDrainAll_kept
    | with_reducible apply Kept.ite

theorem State.fenceI_kept {r : State} {s : State} (h : ℕ) (hK : Kept r s) : Kept r (State.fenceI s h) := by
  unfold State.fenceI
  repeat' first
    | with_reducible assumption
    | with_reducible exact Kept.refl _
    | exact id
    | exact tabWf_tabSet _ _
    | exact tabWf_tabDrop _ _
    | exact tabWf_filter _
    | intro _
    | exact Nat.zero_le _
    | with_reducible apply State.updHart_kept
    | with_reducible apply State.coreCount_kept
    | with_reducible apply State.retire_kept

theorem State.sfence_kept {r : State} {s : State} (h : ℕ) (kind : FenceKind) (hK : Kept r s) : Kept r (State.sfence s h kind) := by
  unfold State.sfence
  repeat' first
    | with_reducible assumption
    | with_reducible exact Kept.refl _
    | exact id
    | exact tabWf_tabSet _ _
    | exact tabWf_tabDrop _ _
    | exact tabWf_filter _
    | intro _
    | exact Nat.zero_le _
    | with_reducible apply State.coreCount_kept
    | with_reducible apply State.retire_kept
    | with_reducible apply State.exception_kept
    | with_reducible apply Kept.ite
    | dsimp only
    | exact rfl
    | (split <;> (try (rename_i e; replace e := congrArg Prod.fst e; dsimp only at e; subst e)))

theorem State.waitIrq_kept {r : State} {s : State} (h : ℕ) (hK : Kept r s) : Kept r (State.waitIrq s h) := by
  unfold State.waitIrq
  repeat' first
    | with_reducible assumption
    | with_reducible exact Kept.refl _
    | exact id
    | exact tabWf_tabSet _ _
    | exact tabWf_tabDrop _ _
    | exact tabWf_filter _
    | intro _
    | exact Nat.zero_le _
    | with_reducible apply State.updHart_kept
    | with_reducible apply State.retire_kept
    | with_reducible apply State.exception_kept
    | with_reducible apply Kept.ite
    | dsimp only
    | exact rfl
    | (split <;> (try (rename_i e; replace e := congrArg Prod.fst e; dsimp only at e; subst e)))

theorem State.takeIrq_kept {r : State} {s : State} (h : ℕ) (code : ℕ) (hK : Kept r s) : Kept r (State.takeIrq s h code) := by
  unfold State.takeIrq
  repeat' first
    | with_reducible assumption
    | with_reducible exact Kept.refl _
    | exact id
    | exact tabWf_tabSet _ _
    | exact tabWf_tabDrop _ _
    | exact tabWf_filter _
    | intro _
    | exact Nat.zero_le _
    | with_reducible apply State.trap_kept
    | with_reducible apply State.afterInstr_kept
    | with_reducible apply Kept.ite

theorem State.raiseExc_kept {r : State} {s : State} (h : ℕ) (code : ℕ) (tval : ℕ) (hK : Kept r s) : Kept r (State.raiseExc s h code tval) := by
  unfold State.raiseExc
  repeat' first
    | with_reducible assumption
    | with_reducible exact Kept.refl _
    | exact id
    | exact tabWf_tabSet _ _
    | exact tabWf_tabDrop _ _
    | exact tabWf_filter _
    | intro _
    | exact Nat.zero_le _
    | with_reducible apply State.exception_kept
    | with_reducible apply State.haltCommit_kept
    | with_reducible apply State.debugHalt_kept
    | with_reducible apply Kept.ite

theorem State.xezInstr_kept {r : State} {s : State} (h : ℕ) (f : State → State) (hK : Kept r s) (hf : ∀ a0, Kept a0 (f a0)) : Kept r (State.xezInstr s h f) := by
  unfold State.xezInstr
  repeat' first
    | with_reducible assumption
    | with_reducible exact Kept.refl _
    | exact id
    | exact tabWf_tabSet _ _
    | exact tabWf_tabDrop _ _
    | exact tabWf_filter _
    | intro _
    | exact Nat.zero_le _
    | refine Kept.trans ?_ (hf ..)
    | with_reducible apply State.exception_kept
    | with_reducible apply State.instr_kept
    | with_reducible apply Kept.ite
    | dsimp only
    | exact rfl
    | (split <;> (try (rename_i e; replace e := congrArg Prod.fst e; dsimp only at e; subst e)))

theorem State.vtRd_kept {r : State} {s : State} (h : ℕ) (rd : ℕ) (hK : Kept r s) : Kept r (State.vtRd s h rd) := by
  unfold State.vtRd
  repeat' first
    | with_reducible assumption
    | with_reducible exact Kept.refl _
    | exact id
    | exact tabWf_tabSet _ _
    | exact tabWf_tabDrop _ _
    | exact tabWf_filter _
    | intro _
    | exact Nat.zero_le _
    | with_reducible apply State.when_kept
    | with_reducible apply State.setX_kept
    | with_reducible apply State.setCsr_kept
    | with_reducible apply State.retire_kept

theorem State.vtWt_kept {r : State} {s : State} (h : ℕ) (target : ℕ) (hK : Kept r s) : Kept r (State.vtWt s h target) := by
  unfold State.vtWt
  repeat' first
    | with_reducible assumption
    | with_reducible exact Kept.refl _
    | exact id
    | exact tabWf_tabSet _ _
    | exact tabWf_tabDrop _ _
    | exact tabWf_filter _
    | intro _
    | exact Nat.zero_le _
    | with_reducible apply State.updHart_kept
    | with_reducible apply State.retire_kept
    | with_reducible apply Kept.ite

theorem State.vtWtEnd_kept {r : State} {s : State} (h : ℕ) (hK : Kept r s) : Kept r (State.vtWtEnd s h) := by
  unfold State.vtWtEnd
  repeat' first
    | with_reducible assumption
    | with_reducible exact Kept.refl _
    | exact id
    | exact tabWf_tabSet _ _
    | exact tabWf_tabDrop _ _
    | exact tabWf_filter _
    | intro _
    | exact Nat.zero_le _
    | with_reducible apply State.updHart_kept
    | with_reducible apply State.retire_kept
    | with_reducible apply State.afterInstr_kept
    | with_reducible apply Kept.ite
    | dsimp only
    | exact rfl
    | (split <;> (try (rename_i e; replace e := congrArg Prod.fst e; dsimp only at e; subst e)))

theorem State.armQueue_kept {r : State} {s : State} (h : ℕ) (c : ℕ) (i : ℕ) (hK : Kept r s) : Kept r (State.armQueue s h c i) := by
  unfold State.armQueue
  repeat' first
    | with_reducible assumption
    | with_reducible exact Kept.refl _
    | exact id
    | exact tabWf_tabSet _ _
    | exact tabWf_tabDrop _ _
    | exact tabWf_filter _
    | intro _
    | exact Nat.zero_le _
    | with_reducible apply State.put_kept
    | with_reducible apply State.coreCount_kept
    | with_reducible apply State.setEpoch_kept

theorem State.armRetire_kept {r : State} {s : State} (h : ℕ) (rd : ℕ) (st : Status) (handle : ℕ) (hK : Kept r s) : Kept r (State.armRetire s h rd st handle) := by
  unfold State.armRetire
  repeat' first
    | with_reducible assumption
    | with_reducible exact Kept.refl _
    | exact id
    | exact tabWf_tabSet _ _
    | exact tabWf_tabDrop _ _
    | exact tabWf_filter _
    | intro _
    | exact Nat.zero_le _
    | with_reducible apply State.when_kept
    | with_reducible apply State.setX_kept
    | with_reducible apply State.coreCount_kept
    | with_reducible apply State.sherd_kept
    | with_reducible apply State.retire_kept

theorem State.armInstr_kept {r : State} {s : State} (h : ℕ) (rd : ℕ) (q : ArmReq) (hK : Kept r s) : Kept r (State.armInstr s h rd q) := by
  unfold State.armInstr
  repeat' first
    | with_reducible assumption
    | with_reducible exact Kept.refl _
    | exact id
    | exact tabWf_tabSet _ _
    | exact tabWf_tabDrop _ _
    | exact tabWf_filter _
    | intro _
    | exact Nat.zero_le _
    | with_reducible apply State.when_kept
    | with_reducible apply State.arm_kept
    | with_reducible apply State.armIssue_kept
    | with_reducible apply State.commitNow_kept
    | with_reducible apply State.armQueue_kept
    | with_reducible apply State.armRetire_kept
    | with_reducible apply Kept.ite
    | dsimp only
    | exact rfl
    | (split <;> (try (rename_i e; replace e := congrArg Prod.fst e; dsimp only at e; subst e)))

theorem State.vtSta_kept {r : State} {s : State} (h : ℕ) (va : ℕ) (data : ℕ) (size : ℕ) (rd : ℕ) (hK : Kept r s) : Kept r (State.vtSta s h va data size rd) := by
  unfold State.vtSta
  repeat' first
    | with_reducible assumption
    | with_reducible exact Kept.refl _
    | exact id
    | exact tabWf_tabSet _ _
    | exact tabWf_tabDrop _ _
    | exact tabWf_filter _
    | intro _
    | exact Nat.zero_le _
    | with_reducible apply State.exception_kept
    | with_reducible apply State.illegal_kept
    | with_reducible apply State.translate_kept
    | with_reducible apply State.armInstr_kept
    | with_reducible apply Kept.ite
    | dsimp only
    | exact rfl
    | (split <;> (try (rename_i e; replace e := congrArg Prod.fst e; dsimp only at e; subst e)))

theorem State.descAddr_kept {r : State} {s : State} (h : ℕ) (use : Bool) (k : AccKind) (va : ℕ) (hK : Kept r s) : Kept r (State.descAddr s h use k va).1 := by
  unfold State.descAddr
  repeat' first
    | with_reducible assumption
    | with_reducible exact Kept.refl _
    | exact id
    | exact tabWf_tabSet _ _
    | exact tabWf_tabDrop _ _
    | exact tabWf_filter _
    | intro _
    | exact Nat.zero_le _
    | with_reducible apply State.translate_kept
    | with_reducible apply Kept.ite
    | dsimp only
    | exact rfl
    | (split <;> (try (rename_i e; replace e := congrArg Prod.fst e; dsimp only at e; subst e)))

theorem State.armDesc_kept {r : State} {s : State} (h : ℕ) (rd : ℕ) (d : ℕ) (hK : Kept r s) : Kept r (State.armDesc s h rd d) := by
  unfold State.armDesc
  repeat' first
    | with_reducible assumption
    | with_reducible exact Kept.refl _
    | exact id
    | exact tabWf_tabSet _ _
    | exact tabWf_tabDrop _ _
    | exact tabWf_filter _
    | intro _
    | exact Nat.zero_le _
    | with_reducible apply State.exception_kept
    | with_reducible apply State.armInstr_kept
    | with_reducible apply State.descAddr_kept
    | with_reducible apply Kept.ite
    | dsimp only
    | exact rfl
    | (split <;> (try (rename_i e; replace e := congrArg Prod.fst e; dsimp only at e; subst e)))

theorem State.vtEv_kept {r : State} {s : State} (h : ℕ) (va : ℕ) (rd : ℕ) (hK : Kept r s) : Kept r (State.vtEv s h va rd) := by
  unfold State.vtEv
  repeat' first
    | with_reducible assumption
    | with_reducible exact Kept.refl _
    | exact id
    | exact tabWf_tabSet _ _
    | exact tabWf_tabDrop _ _
    | exact tabWf_filter _
    | intro _
    | exact Nat.zero_le _
    | with_reducible apply State.exception_kept
    | with_reducible apply State.withPieces_kept
    | with_reducible apply State.partsRead_kept
    | with_reducible apply State.poisonTrap_kept
    | with_reducible apply State.armDesc_kept
    | with_reducible apply Kept.ite
    | dsimp only
    | exact rfl
    | (split <;> (try (rename_i e; replace e := congrArg Prod.fst e; dsimp only at e; subst e)))

theorem State.unqueue_kept {r : State} {s : State} (c : ℕ) (i : ℕ) (hK : Kept r s) : Kept r (State.unqueue s c i) := by
  unfold State.unqueue
  repeat' first
    | with_reducible assumption
    | with_reducible exact Kept.refl _
    | exact id
    | exact tabWf_tabSet _ _
    | exact tabWf_tabDrop _ _
    | exact tabWf_filter _
    | intro _
    | exact Nat.zero_le _
    | with_reducible apply State.put_kept
    | with_reducible apply State.setEpoch_kept

theorem State.vtAbt_kept {r : State} {s : State} (h : ℕ) (handle : ℕ) (rd : ℕ) (hK : Kept r s) : Kept r (State.vtAbt s h handle rd) := by
  unfold State.vtAbt
  repeat' first
    | with_reducible assumption
    | with_reducible exact Kept.refl _
    | exact id
    | exact tabWf_tabSet _ _
    | exact tabWf_tabDrop _ _
    | exact tabWf_filter _
    | intro _
    | exact Nat.zero_le _
    | with_reducible apply State.when_kept
    | with_reducible apply State.setX_kept
    | with_reducible apply State.sherd_kept
    | with_reducible apply State.retire_kept
    | with_reducible apply State.abort_kept
    | with_reducible apply State.epochStart_kept
    | with_reducible apply State.commitNow_kept
    | with_reducible apply State.unqueue_kept
    | with_reducible apply Kept.ite
    | dsimp only
    | exact rfl
    | (split <;> (try (rename_i e; replace e := congrArg Prod.fst e; dsimp only at e; subst e)))

theorem State.tkResult_kept {r : State} {s : State} (n : ℕ) (rd : ℕ) (v : ℕ) (hK : Kept r s) : Kept r (State.tkResult s n rd v) := by
  unfold State.tkResult
  repeat' first
    | with_reducible assumption
    | with_reducible exact Kept.refl _
    | exact id
    | exact tabWf_tabSet _ _
    | exact tabWf_tabDrop _ _
    | exact tabWf_filter _
    | intro _
    | exact Nat.zero_le _
    | with_reducible apply State.setX_kept
    | with_reducible apply Kept.ite

theorem State.sagEnter_kept {r : State} {s : State} (h : ℕ) (rd : ℕ) (k : ℕ) (hK : Kept r s) : Kept r (State.sagEnter s h rd k) := by
  unfold State.sagEnter
  repeat' first
    | with_reducible assumption
    | with_reducible exact Kept.refl _
    | exact id
    | exact tabWf_tabSet _ _
    | exact tabWf_tabDrop _ _
    | exact tabWf_filter _
    | intro _
    | exact Nat.zero_le _
    | with_reducible apply State.setX_kept
    | with_reducible apply State.coreCount_kept
    | with_reducible apply State.setCsr_kept
    | with_reducible apply State.retireTo_kept
    | with_reducible apply State.illegal_kept
    | with_reducible apply Kept.ite

theorem State.sagExit_kept {r : State} {s : State} (h : ℕ) (target : ℕ) (hK : Kept r s) : Kept r (State.sagExit s h target) := by
  unfold State.sagExit
  repeat' first
    | with_reducible assumption
    | with_reducible exact Kept.refl _
    | exact id
    | exact tabWf_tabSet _ _
    | exact tabWf_tabDrop _ _
    | exact tabWf_filter _
    | intro _
    | exact Nat.zero_le _
    | with_reducible apply State.setCsr_kept
    | with_reducible apply State.retireTo_kept
    | with_reducible apply State.illegal_kept
    | with_reducible apply Kept.ite

theorem State.apcFirst_kept {r : State} {s : State} (hK : Kept r s) : Kept r (State.apcFirst s) := by
  unfold State.apcFirst
  repeat' first
    | with_reducible assumption
    | with_reducible exact Kept.refl _
    | exact id
    | exact tabWf_tabSet _ _
    | exact tabWf_tabDrop _ _
    | exact tabWf_filter _
    | intro _
    | exact Nat.zero_le _
    | with_reducible apply State.each_kept
    | with_reducible apply State.domOff_kept
    | with_reducible apply State.sbDrainAll_kept

theorem State.domReset_kept {r : State} {s : State} (d : ℕ) (hK : Kept r s) : Kept r (State.domReset s d) := by
  unfold State.domReset
  repeat' first
    | with_reducible assumption
    | with_reducible exact Kept.refl _
    | exact id
    | exact tabWf_tabSet _ _
    | exact tabWf_tabDrop _ _
    | exact tabWf_filter _
    | intro _
    | exact Nat.zero_le _
    | with_reducible apply State.when_kept
    | with_reducible apply State.domDown_kept
    | with_reducible apply State.domSync_kept
    | with_reducible apply State.apcFirst_kept
    | with_reducible apply Kept.ite

theorem State.absEnd_kept {r : State} {s : State} (e : ℕ) (hK : Kept r s) : Kept r (State.absEnd s e) := by
  unfold State.absEnd
  repeat' first
    | with_reducible assumption
    | with_reducible exact Kept.refl _
    | exact id
    | exact tabWf_tabSet _ _
    | exact tabWf_tabDrop _ _
    | exact tabWf_filter _
    | intro _
    | exact Nat.zero_le _
    | with_reducible apply Kept.ite
    | dsimp only
    | exact rfl
    | (split <;> (try (rename_i e; replace e := congrArg Prod.fst e; dsimp only at e; subst e)))
    | (refine Kept.same (t := ?_) ?_ (by dsimp only; rfl) (by with_reducible rfl) (by with_reducible rfl) (by with_reducible rfl) (by with_reducible rfl) (by with_reducible rfl) (by with_reducible rfl) (by with_reducible rfl) (by with_reducible rfl) (by with_reducible rfl))

theorem State.absData_kept {r : State} {s : State} (v : ℕ) (hK : Kept r s) : Kept r (State.absData s v) := by
  unfold State.absData
  repeat' first
    | with_reducible assumption
    | with_reducible exact Kept.refl _
    | exact id
    | exact tabWf_tabSet _ _
    | exact tabWf_tabDrop _ _
    | exact tabWf_filter _
    | intro _
    | exact Nat.zero_le _
    | with_reducible apply Kept.ite
    | dsimp only
    | exact rfl
    | (split <;> (try (rename_i e; replace e := congrArg Prod.fst e; dsimp only at e; subst e)))
    | (refine Kept.same (t := ?_) ?_ (by dsimp only; rfl) (by with_reducible rfl) (by with_reducible rfl) (by with_reducible rfl) (by with_reducible rfl) (by with_reducible rfl) (by with_reducible rfl) (by with_reducible rfl) (by with_reducible rfl) (by with_reducible rfl))

theorem State.dcsrWrite_kept {r : State} {s : State} (h : ℕ) (v : ℕ) (hK : Kept r s) : Kept r (State.dcsrWrite s h v) := by
  unfold State.dcsrWrite
  repeat' first
    | with_reducible assumption
    | with_reducible exact Kept.refl _
    | exact id
    | exact tabWf_tabSet _ _
    | exact tabWf_tabDrop _ _
    | exact tabWf_filter _
    | intro _
    | exact Nat.zero_le _
    | with_reducible apply State.setCsr_kept

theorem State.absRead_kept {r : State} {s : State} (h : ℕ) (r0 : ℕ) (hK : Kept r s) : Kept r (State.absRead s h r0) := by
  unfold State.absRead
  repeat' first
    | with_reducible assumption
    | with_reducible exact Kept.refl _
    | exact id
    | exact tabWf_tabSet _ _
    | exact tabWf_tabDrop _ _
    | exact tabWf_filter _
    | intro _
    | exact Nat.zero_le _
    | with_reducible apply State.csrRead_kept
    | with_reducible apply State.absEnd_kept
    | with_reducible apply State.absData_kept
    | with_reducible apply Kept.ite

theorem State.absWrite_kept {r : State} {s : State} (h : ℕ) (r0 : ℕ) (v : ℕ) (hK : Kept r s) : Kept r (State.absWrite s h r0 v) := by
  unfold State.absWrite
  repeat' first
    | with_reducible assumption
    | with_reducible exact Kept.refl _
    | exact id
    | exact tabWf_tabSet _ _
    | exact tabWf_tabDrop _ _
    | exact tabWf_filter _
    | intro _
    | exact Nat.zero_le _
    | with_reducible apply State.updHart_kept
    | with_reducible apply State.setX_kept
    | with_reducible apply State.setCsr_kept
    | with_reducible apply State.modesNow_kept
    | with_reducible apply State.csrWrite_kept
    | with_reducible apply State.absEnd_kept
    | with_reducible apply State.dcsrWrite_kept
    | with_reducible apply Kept.ite

theorem State.absTranslate_kept {r : State} {s : State} (h : ℕ) (k : AccKind) (va : ℕ) (hK : Kept r s) : Kept r (State.absTranslate s h k va).1 := by
  unfold State.absTranslate
  repeat' first
    | with_reducible assumption
    | with_reducible exact Kept.refl _
    | exact id
    | exact tabWf_tabSet _ _
    | exact tabWf_tabDrop _ _
    | exact tabWf_filter _
    | intro _
    | exact Nat.zero_le _
    | with_reducible apply State.updHart_kept
    | with_reducible apply State.translate_kept
    | with_reducible apply Kept.ite
    | dsimp only
    | exact rfl
    | (split <;> (try (rename_i e; replace e := congrArg Prod.fst e; dsimp only at e; subst e)))

theorem State.absMemory_kept {r : State} {s : State} (h : ℕ) (write : Bool) (pa : ℕ) (n : ℕ) (v : ℕ) (hK : Kept r s) : Kept r (State.absMemory s h write pa n v) := by
  unfold State.absMemory
  repeat' first
    | with_reducible assumption
    | with_reducible exact Kept.refl _
    | exact id
    | exact tabWf_tabSet _ _
    | exact tabWf_tabDrop _ _
    | exact tabWf_filter _
    | intro _
    | exact Nat.zero_le _
    | with_reducible apply State.sherdRefused_kept
    | with_reducible apply State.physRefuse_kept
    | with_reducible apply State.memWrite_kept
    | with_reducible apply State.winWrite_kept
    | with_reducible apply State.winRead_kept
    | with_reducible apply State.normalRead_kept
    | with_reducible apply State.absEnd_kept
    | with_reducible apply State.absData_kept
    | with_reducible apply Kept.ite
    | dsimp only
    | exact rfl
    | (split <;> (try (rename_i e; replace e := congrArg Prod.fst e; dsimp only at e; subst e)))

theorem State.absAccess_kept {r : State} {s : State} (h : ℕ) (write : Bool) (va : ℕ) (n : ℕ) (v : ℕ) (hK : Kept r s) : Kept r (State.absAccess s h write va n v) := by
  unfold State.absAccess
  repeat' first
    | with_reducible assumption
    | with_reducible exact Kept.refl _
    | exact id
    | exact tabWf_tabSet _ _
    | exact tabWf_tabDrop _ _
    | exact tabWf_filter _
    | intro _
    | exact Nat.zero_le _
    | with_reducible apply State.sbDrainAll_kept
    | with_reducible apply State.absEnd_kept
    | with_reducible apply State.absTranslate_kept
    | with_reducible apply State.absMemory_kept
    | with_reducible apply Kept.ite
    | dsimp only
    | exact rfl
    | (split <;> (try (rename_i e; replace e := congrArg Prod.fst e; dsimp only at e; subst e)))

theorem State.abstract_kept {r : State} {s : State} (h : ℕ) (c : AbsCmd) (hK : Kept r s) : Kept r (State.abstract s h c) := by
  unfold State.abstract
  repeat' first
    | with_reducible assumption
    | with_reducible exact Kept.refl _
    | exact id
    | exact tabWf_tabSet _ _
    | exact tabWf_tabDrop _ _
    | exact tabWf_filter _
    | intro _
    | exact Nat.zero_le _
    | with_reducible apply State.absEnd_kept
    | with_reducible apply State.absRead_kept
    | with_reducible apply State.absWrite_kept
    | with_reducible apply State.absAccess_kept
    | with_reducible apply Kept.ite
    | dsimp only
    | exact rfl
    | (split <;> (try (rename_i e; replace e := congrArg Prod.fst e; dsimp only at e; subst e)))

end Sys2Proof.Machine
end

