-- ==== Sys2Proof/Laws/KeptExec.lean ====
section
/-! SUPPORT. Every meaning answers a next state that is `Kept`: the queue as it was, no burnt step
of the lifecycle set back, the storage invariant kept. One lemma per command. -/

set_option linter.unusedTactic false
set_option linter.unreachableTactic false
set_option linter.unusedVariables false

namespace Sys2Proof.Machine
open Sys2Proof

theorem execReadShared_kept (r0 : Requester) (line : LineNo) (s : State) : ∃ t, execReadShared r0 line s = .next t ∧ Kept s t := by
  refine ⟨_, rfl, ?_⟩
  repeat' first
    | with_reducible exact Kept.refl _
    | exact id
    | intro _
    | with_reducible apply State.readShared_kept

theorem execReadUnique_kept (r0 : Requester) (line : LineNo) (mask : BitVec 64) (data : BitVec 512) (s : State) : ∃ t, execReadUnique r0 line mask data s = .next t ∧ Kept s t := by
  refine ⟨_, rfl, ?_⟩
  repeat' first
    | with_reducible exact Kept.refl _
    | exact id
    | intro _
    | with_reducible apply State.readUnique_kept

theorem execUpgrade_kept (c : AppCore) (line : LineNo) (s : State) : ∃ t, execUpgrade c line s = .next t ∧ Kept s t := by
  refine ⟨_, rfl, ?_⟩
  repeat' first
    | with_reducible exact Kept.refl _
    | exact id
    | intro _
    | with_reducible apply State.upgrade_kept

theorem execWriteback_kept (c : AppCore) (line : LineNo) (s : State) : ∃ t, execWriteback c line s = .next t ∧ Kept s t := by
  refine ⟨_, rfl, ?_⟩
  repeat' first
    | with_reducible exact Kept.refl _
    | exact id
    | intro _
    | with_reducible apply State.l2Evict_kept

theorem execEvictNotice_kept (c : AppCore) (line : LineNo) (s : State) : ∃ t, execEvictNotice c line s = .next t ∧ Kept s t := by
  refine ⟨_, rfl, ?_⟩
  repeat' first
    | with_reducible exact Kept.refl _
    | exact id
    | intro _
    | with_reducible apply State.l2Evict_kept

theorem execStashHint_kept (r0 : Requester) (core : AppCore) (line : LineNo) (mask : BitVec 64) (data : BitVec 512) (s : State) :
    ∃ t, execStashHint r0 core line mask data s = .next t ∧ Kept s t := by
  cases r0 with
  | core c => exact ⟨s, rfl, Kept.refl s⟩
  | dev d => exact ⟨_, rfl, State.cohRequest_kept _ _ _ _ _ (Kept.refl s)⟩

theorem execSnpShared_kept (c : AppCore) (line : LineNo) (s : State) : ∃ t, execSnpShared c line s = .next t ∧ Kept s t := by
  refine ⟨_, rfl, ?_⟩
  repeat' first
    | with_reducible exact Kept.refl _
    | exact id
    | intro _
    | with_reducible apply State.snoopReach_kept

theorem execSnpOnce_kept (c : AppCore) (line : LineNo) (s : State) : ∃ t, execSnpOnce c line s = .next t ∧ Kept s t := by
  refine ⟨_, rfl, ?_⟩
  repeat' first
    | with_reducible exact Kept.refl _
    | exact id
    | intro _
    | with_reducible apply State.snoopReach_kept

theorem execSnpInvalid_kept (c : AppCore) (line : LineNo) (s : State) : ∃ t, execSnpInvalid c line s = .next t ∧ Kept s t := by
  refine ⟨_, rfl, ?_⟩
  repeat' first
    | with_reducible exact Kept.refl _
    | exact id
    | intro _
    | with_reducible apply State.snoopReach_kept

theorem execSnoopResponse_kept (c : AppCore) (line : LineNo) (s : State) : ∃ t, execSnoopResponse c line s = .next t ∧ Kept s t := by
  refine ⟨_, rfl, ?_⟩
  repeat' first
    | with_reducible exact Kept.refl _
    | exact id
    | intro _
    | with_reducible apply State.answerAct_kept

theorem execStashFill_kept (c : AppCore) (line : LineNo) (s : State) : ∃ t, execStashFill c line s = .next t ∧ Kept s t := by
  refine ⟨_, rfl, ?_⟩
  repeat' first
    | with_reducible exact Kept.refl _
    | exact id
    | intro _
    | with_reducible apply State.when_kept
    | with_reducible apply State.coreCount_kept
    | with_reducible apply State.stashFillAct_kept

theorem execCoherentResponse_kept (line : LineNo) (s : State) : ∃ t, execCoherentResponse line s = .next t ∧ Kept s t := by
  refine ⟨_, rfl, ?_⟩
  repeat' first
    | with_reducible exact Kept.refl _
    | exact id
    | intro _
    | with_reducible apply State.grantAct_kept

theorem execNackRetry_kept (r0 : Requester) (line : LineNo) (s : State) : ∃ t, execNackRetry r0 line s = .next t ∧ Kept s t := by
  refine ⟨_, rfl, ?_⟩
  repeat' first
    | with_reducible exact Kept.refl _
    | exact id
    | intro _
    | with_reducible apply State.nackRetry_kept

theorem execReservationWindowExpire_kept (slice : Fin 4) (s : State) : ∃ t, execReservationWindowExpire slice s = .next t ∧ Kept s t := by
  refine ⟨_, rfl, ?_⟩
  repeat' first
    | with_reducible exact Kept.refl _
    | exact id
    | intro _
    | with_reducible apply State.resvExpire_kept

theorem execHoldTimeExpire_kept (c : AppCore) (line : LineNo) (s : State) : ∃ t, execHoldTimeExpire c line s = .next t ∧ Kept s t := by
  refine ⟨_, rfl, ?_⟩
  repeat' first
    | with_reducible exact Kept.refl _
    | exact id
    | intro _
    | with_reducible apply State.holdExpire_kept

theorem execDirInspect_kept (a : Agent) (line : LineNo) (s : State) : ∃ t, execDirInspect a line s = .next t ∧ Kept s t := by
  refine ⟨_, rfl, ?_⟩
  repeat' first
    | with_reducible exact Kept.refl _
    | exact id
    | intro _
    | with_reducible apply State.regAccess_kept
    | with_reducible apply State.dirLookup_kept

theorem execSlcRetire_kept (a : Agent) (ways : BitVec 24) (s : State) : ∃ t, execSlcRetire a ways s = .next t ∧ Kept s t := by
  refine ⟨_, rfl, ?_⟩
  repeat' first
    | with_reducible exact Kept.refl _
    | exact id
    | intro _
    | with_reducible apply State.regAccess_kept
    | with_reducible apply State.slcRetire_kept

theorem execL2WayRetire_kept (a : Agent) (c : AppCore) (ways : BitVec 16) (s : State) : ∃ t, execL2WayRetire a c ways s = .next t ∧ Kept s t := by
  refine ⟨_, rfl, ?_⟩
  repeat' first
    | with_reducible exact Kept.refl _
    | exact id
    | intro _
    | with_reducible apply State.regAccess_kept
    | with_reducible apply State.l2Retire_kept

theorem execDirWayRetire_kept (a : Agent) (ways : BitVec 12) (s : State) : ∃ t, execDirWayRetire a ways s = .next t ∧ Kept s t := by
  refine ⟨_, rfl, ?_⟩
  repeat' first
    | with_reducible exact Kept.refl _
    | exact id
    | intro _
    | with_reducible apply State.regAccess_kept
    | with_reducible apply State.dirRetire_kept

theorem execRetirementDone_kept (s : State) : ∃ t, execRetirementDone s = .next t ∧ Kept s t := by
  refine ⟨_, rfl, ?_⟩
  repeat' first
    | with_reducible exact Kept.refl _
    | exact id
    | intro _
    | with_reducible apply State.retireDone_kept

theorem execMsiWrite_kept (w : World) (addr : PAddr) (data : BitVec 32) (s : State) : ∃ t, execMsiWrite w addr data s = .next t ∧ Kept s t := by
  refine ⟨_, rfl, ?_⟩
  repeat' first
    | with_reducible exact Kept.refl _
    | exact id
    | intro _
    | with_reducible apply State.msiWrite_kept

theorem execAplicSourceChange_kept (src : BitVec 7) (s : State) : ∃ t, execAplicSourceChange src s = .next t ∧ Kept s t := by
  refine ⟨_, rfl, ?_⟩
  repeat' first
    | with_reducible exact Kept.refl _
    | exact id
    | intro _
    | with_reducible apply State.sourceChange_kept

theorem execLocalMsg_kept (a : Agent) (n : Lic) (eiid : BitVec 32) (s : State) : ∃ t, execLocalMsg a n eiid s = .next t ∧ Kept s t := by
  refine ⟨_, rfl, ?_⟩
  repeat' first
    | with_reducible exact Kept.refl _
    | exact id
    | intro _
    | with_reducible apply State.localMsg_kept

theorem execLocalClaim_kept (a : Agent) (n : Lic) (half : Half) (s : State) : ∃ t, execLocalClaim a n half s = .next t ∧ Kept s t := by
  refine ⟨_, rfl, ?_⟩
  repeat' first
    | with_reducible exact Kept.refl _
    | exact id
    | intro _
    | with_reducible apply State.readCmd_kept
    | with_reducible apply State.licClaim_kept

theorem execMtimecmpMatch_kept (h : AppCore) (s : State) : ∃ t, execMtimecmpMatch h s = .next t ∧ Kept s t := by
  refine ⟨_, rfl, ?_⟩
  repeat' first
    | with_reducible exact Kept.refl _
    | exact id
    | intro _
    | with_reducible apply State.irqWake_kept
    | with_reducible apply Kept.ite

theorem execStimecmpMatch_kept (h : AppCore) (guest : Bool) (s : State) : ∃ t, execStimecmpMatch h guest s = .next t ∧ Kept s t := by
  refine ⟨_, rfl, ?_⟩
  repeat' first
    | with_reducible exact Kept.refl _
    | exact id
    | intro _
    | with_reducible apply State.irqWake_kept
    | with_reducible apply Kept.ite

theorem execAccWorldWrite_kept (a : Agent) (c : AppCore) (next : World) (s : State) : ∃ t, execAccWorldWrite a c next s = .next t ∧ Kept s t := by
  refine ⟨_, rfl, ?_⟩
  repeat' first
    | with_reducible exact Kept.refl _
    | exact id
    | intro _
    | with_reducible apply State.regAccess_kept
    | with_reducible apply State.worldWrite_kept

theorem execHorizonAdmit_kept (idx : WIdx) (s : State) : ∃ t, execHorizonAdmit idx s = .next t ∧ Kept s t := by
  refine ⟨_, rfl, ?_⟩
  repeat' first
    | with_reducible exact Kept.refl _
    | exact id
    | intro _
    | with_reducible apply State.horizonAdmit_kept

theorem execCompletionRecordWrite_kept (idx : WIdx) (s : State) : ∃ t, execCompletionRecordWrite idx s = .next t ∧ Kept s t := by
  refine ⟨_, rfl, ?_⟩
  repeat' first
    | with_reducible exact Kept.refl _
    | exact id
    | intro _
    | with_reducible apply State.recordWrite_kept

theorem execWheelCalibrate_kept (a : Agent) (s : State) : ∃ t, execWheelCalibrate a s = .next t ∧ Kept s t := by
  refine ⟨_, rfl, ?_⟩
  repeat' first
    | with_reducible exact Kept.refl _
    | exact id
    | intro _
    | with_reducible apply State.put_kept
    | with_reducible apply State.regAccess_kept

theorem execCalibrationDone_kept (medians : List ℕ) (s : State) : ∃ t, execCalibrationDone medians s = .next t ∧ Kept s t := by
  refine ⟨_, rfl, ?_⟩
  repeat' first
    | with_reducible exact Kept.refl _
    | exact id
    | intro _
    | with_reducible apply State.put_kept
    | with_reducible apply State.calibrated_kept
    | with_reducible apply Kept.ite

theorem execTwhInspRead_kept (a : Agent) (half : Half) (s : State) : ∃ t, execTwhInspRead a half s = .next t ∧ Kept s t := by
  refine ⟨_, rfl, ?_⟩
  repeat' first
    | with_reducible exact Kept.refl _
    | exact id
    | intro _
    | with_reducible apply State.readCmd_kept
    | with_reducible apply State.inspRead_kept

theorem execWheelQuotaWrite_kept (a : Agent) (n : Slice) (quota : ℕ) (s : State) : ∃ t, execWheelQuotaWrite a n quota s = .next t ∧ Kept s t := by
  refine ⟨_, rfl, ?_⟩
  repeat' first
    | with_reducible exact Kept.refl _
    | exact id
    | intro _
    | with_reducible apply State.regAccess_kept
    | with_reducible apply State.quotaWrite_kept

theorem execModHoldoffExpire_kept (n : Slice) (r0 : Fin 8) (s : State) : ∃ t, execModHoldoffExpire n r0 s = .next t ∧ Kept s t := by
  refine ⟨_, rfl, ?_⟩
  repeat' first
    | with_reducible exact Kept.refl _
    | exact id
    | intro _
    | with_reducible apply State.complSet_kept
    | with_reducible apply Kept.ite

theorem execDbSubmission_kept (h : Hart) (r0 : Fin 8) (tail : BitVec 16) (s : State) : ∃ t, execDbSubmission h r0 tail s = .next t ∧ Kept s t := by
  refine ⟨_, rfl, ?_⟩
  repeat' first
    | with_reducible exact Kept.refl _
    | exact id
    | intro _
    | with_reducible apply State.doorbell_kept
    | with_reducible apply State.submit_kept

theorem execDlQuery_kept (h : Hart) (stream : BitVec 18) (s : State) : ∃ t, execDlQuery h stream s = .next t ∧ Kept s t := by
  refine ⟨_, rfl, ?_⟩
  repeat' first
    | with_reducible exact Kept.refl _
    | exact id
    | intro _
    | with_reducible apply State.doorbell_kept
    | with_reducible apply State.dlQuery_kept

theorem execMailboxSend_kept (a : Agent) (side : MbxSide) (expseq : BitVec 16) (s : State) : ∃ t, execMailboxSend a side expseq s = .next t ∧ Kept s t := by
  refine ⟨_, rfl, ?_⟩
  repeat' first
    | with_reducible exact Kept.refl _
    | exact id
    | intro _
    | with_reducible apply State.regAccess_kept
    | with_reducible apply State.mbxSend_kept
    | with_reducible apply State.tenantAccess_kept
    | with_reducible apply Kept.ite
    | dsimp only
    | (split <;> (try (rename_i e; replace e := congrArg Prod.fst e; dsimp only at e; subst e)))

theorem execMailboxAck_kept (a : Agent) (side : MbxSide) (seq : BitVec 16) (s : State) : ∃ t, execMailboxAck a side seq s = .next t ∧ Kept s t := by
  refine ⟨_, rfl, ?_⟩
  repeat' first
    | with_reducible exact Kept.refl _
    | exact id
    | intro _
    | with_reducible apply State.regAccess_kept
    | with_reducible apply State.mbxAck_kept
    | with_reducible apply State.tenantAccess_kept
    | with_reducible apply Kept.ite
    | dsimp only
    | (split <;> (try (rename_i e; replace e := congrArg Prod.fst e; dsimp only at e; subst e)))

theorem execSliceBind_kept (a : Agent) (n : Slice) (s : State) : ∃ t, execSliceBind a n s = .next t ∧ Kept s t := by
  refine ⟨_, rfl, ?_⟩
  repeat' first
    | with_reducible exact Kept.refl _
    | exact id
    | intro _
    | with_reducible apply State.regAccess_kept
    | with_reducible apply State.sliceCmd_kept

theorem execSliceReset_kept (a : Agent) (n : Slice) (s : State) : ∃ t, execSliceReset a n s = .next t ∧ Kept s t := by
  refine ⟨_, rfl, ?_⟩
  repeat' first
    | with_reducible exact Kept.refl _
    | exact id
    | intro _
    | with_reducible apply State.regAccess_kept
    | with_reducible apply State.sliceCmd_kept

theorem execSliceUnbind_kept (a : Agent) (n : Slice) (s : State) : ∃ t, execSliceUnbind a n s = .next t ∧ Kept s t := by
  refine ⟨_, rfl, ?_⟩
  repeat' first
    | with_reducible exact Kept.refl _
    | exact id
    | intro _
    | with_reducible apply State.regAccess_kept
    | with_reducible apply State.sliceCmd_kept

theorem execSliceQuiet_kept (n : Slice) (s : State) : ∃ t, execSliceQuiet n s = .next t ∧ Kept s t := by
  refine ⟨_, rfl, ?_⟩
  repeat' first
    | with_reducible exact Kept.refl _
    | exact id
    | intro _
    | with_reducible apply State.sliceQuiet_kept

theorem execSttWrite_kept (a : Agent) (p : Fin 4) (idx : BitVec 18) (expgen : BitVec 8) (anygen : Bool) (s : State) : ∃ t, execSttWrite a p idx expgen anygen s = .next t ∧ Kept s t := by
  refine ⟨_, rfl, ?_⟩
  repeat' first
    | with_reducible exact Kept.refl _
    | exact id
    | intro _
    | with_reducible apply State.regAccess_kept
    | with_reducible apply State.unstaged_kept
    | with_reducible apply State.sttCmd_kept

theorem execSttWriteZero_kept (a : Agent) (p : Fin 4) (idx : BitVec 18) (expgen : BitVec 8) (anygen : Bool) (s : State) : ∃ t, execSttWriteZero a p idx expgen anygen s = .next t ∧ Kept s t := by
  refine ⟨_, rfl, ?_⟩
  repeat' first
    | with_reducible exact Kept.refl _
    | exact id
    | intro _
    | with_reducible apply State.regAccess_kept
    | with_reducible apply State.unstaged_kept
    | with_reducible apply State.sttCmd_kept

theorem execSttInvalidate_kept (a : Agent) (p : Fin 4) (idx : BitVec 18) (expgen : BitVec 8) (anygen : Bool) (s : State) : ∃ t, execSttInvalidate a p idx expgen anygen s = .next t ∧ Kept s t := by
  refine ⟨_, rfl, ?_⟩
  repeat' first
    | with_reducible exact Kept.refl _
    | exact id
    | intro _
    | with_reducible apply State.regAccess_kept
    | with_reducible apply State.unstaged_kept
    | with_reducible apply State.sttCmd_kept

theorem execSttPlace_kept (a : Agent) (p : Fin 4) (s : State) : ∃ t, execSttPlace a p s = .next t ∧ Kept s t := by
  refine ⟨_, rfl, ?_⟩
  repeat' first
    | with_reducible exact Kept.refl _
    | exact id
    | intro _
    | with_reducible apply State.regAccess_kept
    | with_reducible apply State.unstaged_kept
    | with_reducible apply State.sttCmd_kept

theorem execSttUpdReservedOp_kept (a : Agent) (p : Fin 4) (op : BitVec 3) (s : State) : ∃ t, execSttUpdReservedOp a p op s = .next t ∧ Kept s t := by
  refine ⟨_, rfl, ?_⟩
  repeat' first
    | with_reducible exact Kept.refl _
    | exact id
    | intro _
    | with_reducible apply State.regAccess_kept
    | with_reducible apply State.unstaged_kept
    | with_reducible apply State.sttCmd_kept
    | with_reducible apply Kept.ite

theorem execSttUpdateComplete_kept (p : Fin 5) (s : State) : ∃ t, execSttUpdateComplete p s = .next t ∧ Kept s t := by
  refine ⟨_, rfl, ?_⟩
  repeat' first
    | with_reducible exact Kept.refl _
    | exact id
    | intro _
    | with_reducible apply State.updDone_kept

theorem execCamPreset_kept (a : Agent) (v : Word) (s : State) : ∃ t, execCamPreset a v s = .next t ∧ Kept s t := by
  refine ⟨_, rfl, ?_⟩
  repeat' first
    | with_reducible exact Kept.refl _
    | exact id
    | intro _
    | with_reducible apply State.regAccess_kept
    | with_reducible apply State.unstaged_kept
    | with_reducible apply State.camPreset_kept
    | with_reducible apply Kept.ite

theorem execSttRdSnapshot_kept (a : Agent) (half : Half) (s : State) : ∃ t, execSttRdSnapshot a half s = .next t ∧ Kept s t := by
  refine ⟨_, rfl, ?_⟩
  repeat' first
    | with_reducible exact Kept.refl _
    | exact id
    | intro _
    | with_reducible apply State.readCmd_kept
    | with_reducible apply State.sttSnap_kept

theorem execSttProbe_kept (a : Agent) (key : BitVec 48) (kind : BitVec 2) (s : State) : ∃ t, execSttProbe a key kind s = .next t ∧ Kept s t := by
  refine ⟨_, rfl, ?_⟩
  repeat' first
    | with_reducible exact Kept.refl _
    | exact id
    | intro _
    | with_reducible apply State.regAccess_kept
    | with_reducible apply State.unstaged_kept
    | with_reducible apply State.probe_kept

theorem execMissqRead_kept (a : Agent) (half : Half) (s : State) : ∃ t, execMissqRead a half s = .next t ∧ Kept s t := by
  refine ⟨_, rfl, ?_⟩
  repeat' first
    | with_reducible exact Kept.refl _
    | exact id
    | intro _
    | with_reducible apply State.readCmd_kept
    | with_reducible apply State.missPop_kept

theorem execCsiPacketReceive_kept (p : Fin 8) (vc : Fin 16) (dt : BitVec 6) (data : List Byte) (hdrErr : Bool) (crcErr : Bool) (phase : Fin 8) (s : State) : ∃ t, execCsiPacketReceive p vc dt data hdrErr crcErr phase s = .next t ∧ Kept s t := by
  refine ⟨_, rfl, ?_⟩
  repeat' first
    | with_reducible exact Kept.refl _
    | exact id
    | intro _
    | with_reducible apply State.csiPacket_kept
    | with_reducible apply State.csiForward_kept
    | with_reducible apply Kept.ite

theorem execCaptureDescriptorWrite_kept (i : StreamIdx) (s : State) : ∃ t, execCaptureDescriptorWrite i s = .next t ∧ Kept s t := by
  refine ⟨_, rfl, ?_⟩
  repeat' first
    | with_reducible exact Kept.refl _
    | exact id
    | intro _
    | with_reducible apply State.descWrite_kept

theorem execFrameIdleClose_kept (i : StreamIdx) (s : State) : ∃ t, execFrameIdleClose i s = .next t ∧ Kept s t := by
  refine ⟨_, rfl, ?_⟩
  repeat' first
    | with_reducible exact Kept.refl _
    | exact id
    | intro _
    | with_reducible apply State.capEnd_kept
    | with_reducible apply Kept.ite
    | dsimp only
    | (split <;> (try (rename_i e; replace e := congrArg Prod.fst e; dsimp only at e; subst e)))

theorem execCaptureWriteError_kept (e : CapErr) (s : State) : ∃ t, execCaptureWriteError e s = .next t ∧ Kept s t := by
  refine ⟨_, rfl, ?_⟩
  repeat' first
    | with_reducible exact Kept.refl _
    | exact id
    | intro _
    | with_reducible apply State.sliceCount_kept
    | with_reducible apply State.capStop_kept
    | with_reducible apply State.capPost_kept
    | with_reducible apply Kept.ite
    | dsimp only
    | (split <;> (try (rename_i e; replace e := congrArg Prod.fst e; dsimp only at e; subst e)))

theorem execCapRingEnable_kept (a : Agent) (n : Slice) (r0 : Fin 8) (s : State) : ∃ t, execCapRingEnable a n r0 s = .next t ∧ Kept s t := by
  refine ⟨_, rfl, ?_⟩
  repeat' first
    | with_reducible exact Kept.refl _
    | exact id
    | intro _
    | with_reducible apply State.regAccess_kept
    | with_reducible apply State.capRingEn_kept

theorem execTimeClockTick_kept (n : ℕ) (s : State) : ∃ t, execTimeClockTick n s = .next t ∧ Kept s t := by
  refine ⟨_, rfl, ?_⟩
  repeat' first
    | with_reducible exact Kept.refl _
    | exact id
    | intro _
    | with_reducible apply State.tick_kept

theorem execVtSnap_kept (a : Agent) (s : State) : ∃ t, execVtSnap a s = .next t ∧ Kept s t := by
  refine ⟨_, rfl, ?_⟩
  repeat' first
    | with_reducible exact Kept.refl _
    | exact id
    | intro _
    | with_reducible apply State.regAccess_kept
    | with_reducible apply State.vtSnap_kept

theorem execJumpDeliveryDone_kept (d : Dom) (s : State) : ∃ t, execJumpDeliveryDone d s = .next t ∧ Kept s t := by
  refine ⟨_, rfl, ?_⟩
  repeat' first
    | with_reducible exact Kept.refl _
    | exact id
    | intro _
    | with_reducible apply State.put_kept
    | with_reducible apply State.setTdom_kept
    | with_reducible apply Kept.ite

theorem execSlewComplete_kept (d : Dom) (s : State) : ∃ t, execSlewComplete d s = .next t ∧ Kept s t := by
  refine ⟨_, rfl, ?_⟩
  repeat' first
    | with_reducible exact Kept.refl _
    | exact id
    | intro _
    | with_reducible apply State.put_kept
    | with_reducible apply Kept.ite

theorem execDiscSlew_kept (a : Agent) (d : Dom) (ppm : BitVec 10) (s : State) : ∃ t, execDiscSlew a d ppm s = .next t ∧ Kept s t := by
  refine ⟨_, rfl, ?_⟩
  repeat' first
    | with_reducible exact Kept.refl _
    | exact id
    | intro _
    | with_reducible apply State.regAccess_kept
    | with_reducible apply State.discGo_kept

theorem execDiscJumpBy_kept (a : Agent) (d : Dom) (ppm : BitVec 10) (s : State) : ∃ t, execDiscJumpBy a d ppm s = .next t ∧ Kept s t := by
  refine ⟨_, rfl, ?_⟩
  repeat' first
    | with_reducible exact Kept.refl _
    | exact id
    | intro _
    | with_reducible apply State.regAccess_kept
    | with_reducible apply State.discGo_kept

theorem execDiscJumpTo_kept (a : Agent) (d : Dom) (ppm : BitVec 10) (s : State) : ∃ t, execDiscJumpTo a d ppm s = .next t ∧ Kept s t := by
  refine ⟨_, rfl, ?_⟩
  repeat' first
    | with_reducible exact Kept.refl _
    | exact id
    | intro _
    | with_reducible apply State.regAccess_kept
    | with_reducible apply State.discGo_kept

theorem execRateWordWrite_kept (a : Agent) (d : Dom) (rate : Word) (s : State) : ∃ t, execRateWordWrite a d rate s = .next t ∧ Kept s t := by
  refine ⟨_, rfl, ?_⟩
  repeat' first
    | with_reducible exact Kept.refl _
    | exact id
    | intro _
    | with_reducible apply State.regAccess_kept
    | with_reducible apply State.rateWrite_kept

theorem execDiscCtlWrite_kept (a : Agent) (d : Dom) (mode : Bool) (preset : BitVec 2) (swstate : BitVec 3) (s : State) : ∃ t, execDiscCtlWrite a d mode preset swstate s = .next t ∧ Kept s t := by
  refine ⟨_, rfl, ?_⟩
  repeat' first
    | with_reducible exact Kept.refl _
    | exact id
    | intro _
    | with_reducible apply State.regAccess_kept
    | with_reducible apply State.discCtl_kept

theorem execSyncReceiptTimeout_kept (p : PtpPort) (d : Dom) (s : State) : ∃ t, execSyncReceiptTimeout p d s = .next t ∧ Kept s t := by
  refine ⟨_, rfl, ?_⟩
  repeat' first
    | with_reducible exact Kept.refl _
    | exact id
    | intro _
    | with_reducible apply State.inc_kept
    | with_reducible apply State.setTState_kept
    | with_reducible apply State.rateFreeze_kept
    | with_reducible apply Kept.ite

theorem execAnnounceReceived_kept (p : PtpPort) (dn : BitVec 7) (v : PrioVec) (s : State) : ∃ t, execAnnounceReceived p dn v s = .next t ∧ Kept s t := by
  refine ⟨_, rfl, ?_⟩
  repeat' first
    | with_reducible exact Kept.refl _
    | exact id
    | intro _
    | with_reducible apply State.ptpSelect_kept
    | with_reducible apply Kept.ite
    | dsimp only
    | (split <;> (try (rename_i e; replace e := congrArg Prod.fst e; dsimp only at e; subst e)))
    | (refine Kept.same (t := ?_) ?_ (by dsimp only; rfl) (by with_reducible rfl) (by with_reducible rfl) (by with_reducible rfl) (by with_reducible rfl) (by with_reducible rfl) (by with_reducible rfl) (by with_reducible rfl) (by with_reducible rfl) (by with_reducible rfl))

theorem execAnnounceReceiptTimeout_kept (p : PtpPort) (d : Dom) (s : State) : ∃ t, execAnnounceReceiptTimeout p d s = .next t ∧ Kept s t := by
  refine ⟨_, rfl, ?_⟩
  repeat' first
    | with_reducible exact Kept.refl _
    | exact id
    | intro _
    | with_reducible apply State.ptpSelect_kept
    | with_reducible apply Kept.ite
    | dsimp only
    | (split <;> (try (rename_i e; replace e := congrArg Prod.fst e; dsimp only at e; subst e)))
    | (refine Kept.same (t := ?_) ?_ (by dsimp only; rfl) (by with_reducible rfl) (by with_reducible rfl) (by with_reducible rfl) (by with_reducible rfl) (by with_reducible rfl) (by with_reducible rfl) (by with_reducible rfl) (by with_reducible rfl) (by with_reducible rfl))

theorem execAnnounceSend_kept (p : PtpPort) (d : Dom) (s : State) : ∃ t, execAnnounceSend p d s = .next t ∧ Kept s t := by
  refine ⟨_, rfl, ?_⟩
  repeat' first
    | with_reducible exact Kept.refl _
    | exact id
    | intro _
    | with_reducible apply State.ptpSend_kept
    | with_reducible apply Kept.ite

theorem execPdelayReqSend_kept (p : PtpPort) (phase : Fin 8) (s : State) : ∃ t, execPdelayReqSend p phase s = .next t ∧ Kept s t := by
  refine ⟨_, rfl, ?_⟩
  repeat' first
    | with_reducible exact Kept.refl _
    | exact id
    | intro _
    | with_reducible apply State.ptpSend_kept
    | with_reducible apply Kept.ite
    | dsimp only
    | (split <;> (try (rename_i e; replace e := congrArg Prod.fst e; dsimp only at e; subst e)))
    | (refine Kept.same (t := ?_) ?_ (by dsimp only; rfl) (by with_reducible rfl) (by with_reducible rfl) (by with_reducible rfl) (by with_reducible rfl) (by with_reducible rfl) (by with_reducible rfl) (by with_reducible rfl) (by with_reducible rfl) (by with_reducible rfl))

theorem execPdelayReqReceived_kept (p : PtpPort) (phase : Fin 8) (s : State) : ∃ t, execPdelayReqReceived p phase s = .next t ∧ Kept s t := by
  refine ⟨_, rfl, ?_⟩
  repeat' first
    | with_reducible exact Kept.refl _
    | exact id
    | intro _
    | with_reducible apply State.ptpSend_kept
    | with_reducible apply Kept.ite

theorem execPdelayRespReceived_kept (p : PtpPort) (phase : Fin 8) (t2 : ℕ) (t3 : ℕ) (s : State) : ∃ t, execPdelayRespReceived p phase t2 t3 s = .next t ∧ Kept s t := by
  refine ⟨_, rfl, ?_⟩
  repeat' first
    | with_reducible exact Kept.refl _
    | exact id
    | intro _
    | with_reducible apply State.put_kept
    | with_reducible apply Kept.ite
    | dsimp only
    | (split <;> (try (rename_i e; replace e := congrArg Prod.fst e; dsimp only at e; subst e)))
    | (refine Kept.same (t := ?_) ?_ (by dsimp only; rfl) (by with_reducible rfl) (by with_reducible rfl) (by with_reducible rfl) (by with_reducible rfl) (by with_reducible rfl) (by with_reducible rfl) (by with_reducible rfl) (by with_reducible rfl) (by with_reducible rfl))

theorem execSignalingReceived_kept (p : PtpPort) (dn : BitVec 7) (sync : Option (BitVec 8)) (announce : Option (BitVec 8)) (pdelay : Option (BitVec 8)) (s : State) : ∃ t, execSignalingReceived p dn sync announce pdelay s = .next t ∧ Kept s t := by
  refine ⟨_, rfl, ?_⟩
  repeat' first
    | with_reducible exact Kept.refl _
    | exact id
    | intro _
    | with_reducible apply State.setIntv_kept
    | with_reducible apply Kept.ite
    | dsimp only
    | (split <;> (try (rename_i e; replace e := congrArg Prod.fst e; dsimp only at e; subst e)))

theorem execSyncReceived_kept (p : PtpPort) (dn : BitVec 7) (phase : Fin 8) (origin : Option (ℕ × ℤ)) (s : State) : ∃ t, execSyncReceived p dn phase origin s = .next t ∧ Kept s t := by
  refine ⟨_, rfl, ?_⟩
  repeat' first
    | with_reducible exact Kept.refl _
    | exact id
    | intro _
    | with_reducible apply State.setTdom_kept
    | with_reducible apply State.syncMeasured_kept
    | with_reducible apply Kept.ite
    | dsimp only
    | (split <;> (try (rename_i e; replace e := congrArg Prod.fst e; dsimp only at e; subst e)))

theorem execFollowUpReceived_kept (p : PtpPort) (dn : BitVec 7) (origin : ℕ) (corr : ℤ) (s : State) : ∃ t, execFollowUpReceived p dn origin corr s = .next t ∧ Kept s t := by
  refine ⟨_, rfl, ?_⟩
  repeat' first
    | with_reducible exact Kept.refl _
    | exact id
    | intro _
    | with_reducible apply State.syncMeasured_kept
    | with_reducible apply Kept.ite
    | dsimp only
    | (split <;> (try (rename_i e; replace e := congrArg Prod.fst e; dsimp only at e; subst e)))

theorem execSyncSend_kept (p : PtpPort) (d : Dom) (phase : Fin 8) (s : State) : ∃ t, execSyncSend p d phase s = .next t ∧ Kept s t := by
  refine ⟨_, rfl, ?_⟩
  repeat' first
    | with_reducible exact Kept.refl _
    | exact id
    | intro _
    | with_reducible apply State.ptpSend_kept
    | with_reducible apply Kept.ite
    | dsimp only
    | (split <;> (try (rename_i e; replace e := congrArg Prod.fst e; dsimp only at e; subst e)))

theorem execTpLevelSet_kept (a : Agent) (n : Pin) (s : State) : ∃ t, execTpLevelSet a n s = .next t ∧ Kept s t := by
  refine ⟨_, rfl, ?_⟩
  repeat' first
    | with_reducible exact Kept.refl _
    | exact id
    | intro _
    | with_reducible apply State.regAccess_kept
    | with_reducible apply State.pinLevels_kept

theorem execTpLevelClr_kept (a : Agent) (n : Pin) (s : State) : ∃ t, execTpLevelClr a n s = .next t ∧ Kept s t := by
  refine ⟨_, rfl, ?_⟩
  repeat' first
    | with_reducible exact Kept.refl _
    | exact id
    | intro _
    | with_reducible apply State.regAccess_kept
    | with_reducible apply State.pinLevels_kept

theorem execPulseTrailingEdge_kept (n : Pin) (s : State) : ∃ t, execPulseTrailingEdge n s = .next t ∧ Kept s t := by
  refine ⟨_, rfl, ?_⟩
  repeat' first
    | with_reducible exact Kept.refl _
    | exact id
    | intro _
    | with_reducible apply State.wheelFinish_kept
    | with_reducible apply State.setPin_kept
    | with_reducible apply Kept.ite
    | dsimp only
    | (split <;> (try (rename_i e; replace e := congrArg Prod.fst e; dsimp only at e; subst e)))

theorem execTpGenRunStart_kept (a : Agent) (n : Pin) (s : State) : ∃ t, execTpGenRunStart a n s = .next t ∧ Kept s t := by
  refine ⟨_, rfl, ?_⟩
  repeat' first
    | with_reducible exact Kept.refl _
    | exact id
    | intro _
    | with_reducible apply State.regAccess_kept
    | with_reducible apply State.genRun_kept

theorem execTpGenRunStop_kept (a : Agent) (n : Pin) (s : State) : ∃ t, execTpGenRunStop a n s = .next t ∧ Kept s t := by
  refine ⟨_, rfl, ?_⟩
  repeat' first
    | with_reducible exact Kept.refl _
    | exact id
    | intro _
    | with_reducible apply State.regAccess_kept
    | with_reducible apply State.genRun_kept

theorem execTpGenParamWrite_kept (a : Agent) (n : Pin) (which : GenParam) (v : Word) (s : State) : ∃ t, execTpGenParamWrite a n which v s = .next t ∧ Kept s t := by
  refine ⟨_, rfl, ?_⟩
  repeat' first
    | with_reducible exact Kept.refl _
    | exact id
    | intro _
    | with_reducible apply State.regAccess_kept
    | with_reducible apply State.genParam_kept

theorem execTpGenActivate_kept (n : Pin) (s : State) : ∃ t, execTpGenActivate n s = .next t ∧ Kept s t := by
  refine ⟨_, rfl, ?_⟩
  repeat' first
    | with_reducible exact Kept.refl _
    | exact id
    | intro _
    | with_reducible apply State.put_kept
    | with_reducible apply State.setPin_kept
    | with_reducible apply Kept.ite

theorem execTpGenDeactivate_kept (n : Pin) (s : State) : ∃ t, execTpGenDeactivate n s = .next t ∧ Kept s t := by
  refine ⟨_, rfl, ?_⟩
  repeat' first
    | with_reducible exact Kept.refl _
    | exact id
    | intro _
    | with_reducible apply State.put_kept
    | with_reducible apply State.setPin_kept
    | with_reducible apply Kept.ite

theorem execTpCapRead_kept (a : Agent) (n : Pin) (half : Half) (s : State) : ∃ t, execTpCapRead a n half s = .next t ∧ Kept s t := by
  refine ⟨_, rfl, ?_⟩
  repeat' first
    | with_reducible exact Kept.refl _
    | exact id
    | intro _
    | with_reducible apply State.readCmd_kept
    | with_reducible apply State.capPop_kept

theorem execEgressSelect_kept (p : EthPort) (phase : Fin 8) (s : State) : ∃ t, execEgressSelect p phase s = .next t ∧ Kept s t := by
  refine ⟨_, rfl, ?_⟩
  repeat' first
    | with_reducible exact Kept.refl _
    | exact id
    | intro _
    | with_reducible apply State.egressStart_kept
    | with_reducible apply Kept.ite

theorem execFrameTransmitEnd_kept (p : EthPort) (s : State) : ∃ t, execFrameTransmitEnd p s = .next t ∧ Kept s t := by
  refine ⟨_, rfl, ?_⟩
  repeat' first
    | with_reducible exact Kept.refl _
    | exact id
    | intro _
    | with_reducible apply State.egressEnd_kept

theorem execGclEntryAdvance_kept (p : PtpPort) (s : State) : ∃ t, execGclEntryAdvance p s = .next t ∧ Kept s t := by
  refine ⟨_, rfl, ?_⟩
  repeat' first
    | with_reducible exact Kept.refl _
    | exact id
    | intro _
    | with_reducible apply State.gclMove_kept
    | with_reducible apply State.gateOverrun_kept
    | with_reducible apply Kept.ite

theorem execGclChange_kept (a : Agent) (p : PtpPort) (s : State) : ∃ t, execGclChange a p s = .next t ∧ Kept s t := by
  refine ⟨_, rfl, ?_⟩
  repeat' first
    | with_reducible exact Kept.refl _
    | exact id
    | intro _
    | with_reducible apply State.regAccess_kept
    | with_reducible apply State.gclChange_kept

theorem execGclChangeTakeEffect_kept (p : PtpPort) (s : State) : ∃ t, execGclChangeTakeEffect p s = .next t ∧ Kept s t := by
  refine ⟨_, rfl, ?_⟩
  repeat' first
    | with_reducible exact Kept.refl _
    | exact id
    | intro _
    | with_reducible apply State.gclTake_kept
    | with_reducible apply Kept.ite

theorem execFdbWrite_kept (a : Agent) (s : State) : ∃ t, execFdbWrite a s = .next t ∧ Kept s t := by
  refine ⟨_, rfl, ?_⟩
  repeat' first
    | with_reducible exact Kept.refl _
    | exact id
    | intro _
    | with_reducible apply State.regAccess_kept
    | with_reducible apply State.fdbCmd_kept

theorem execFdbDelete_kept (a : Agent) (s : State) : ∃ t, execFdbDelete a s = .next t ∧ Kept s t := by
  refine ⟨_, rfl, ?_⟩
  repeat' first
    | with_reducible exact Kept.refl _
    | exact id
    | intro _
    | with_reducible apply State.regAccess_kept
    | with_reducible apply State.fdbCmd_kept

theorem execFdbRead_kept (a : Agent) (s : State) : ∃ t, execFdbRead a s = .next t ∧ Kept s t := by
  refine ⟨_, rfl, ?_⟩
  repeat' first
    | with_reducible exact Kept.refl _
    | exact id
    | intro _
    | with_reducible apply State.regAccess_kept
    | with_reducible apply State.fdbCmd_kept

theorem execFdbAgeExpire_kept (mac : BitVec 48) (vid : BitVec 12) (s : State) : ∃ t, execFdbAgeExpire mac vid s = .next t ∧ Kept s t := by
  refine ⟨_, rfl, ?_⟩
  repeat' first
    | with_reducible exact Kept.refl _
    | exact id
    | intro _
    | with_reducible apply State.setFdb_kept
    | with_reducible apply Kept.ite
    | dsimp only
    | (split <;> (try (rename_i e; replace e := congrArg Prod.fst e; dsimp only at e; subst e)))

theorem execFrerResetTimeout_kept (f : Fin 64) (s : State) : ∃ t, execFrerResetTimeout f s = .next t ∧ Kept s t := by
  refine ⟨_, rfl, ?_⟩
  repeat' first
    | with_reducible exact Kept.refl _
    | exact id
    | intro _
    | with_reducible apply State.inc_kept
    | with_reducible apply State.setFrer_kept
    | with_reducible apply Kept.ite

theorem execEthFrameReceive_kept (p : EthPort) (bytes : List Byte) (fcsErr : Bool) (ipErr : Bool) (phase : Fin 8) (s : State) : ∃ t, execEthFrameReceive p bytes fcsErr ipErr phase s = .next t ∧ Kept s t := by
  refine ⟨_, rfl, ?_⟩
  repeat' first
    | with_reducible exact Kept.refl _
    | exact id
    | intro _
    | with_reducible apply State.ethReceive_kept

theorem execInjDescTake_kept (r0 : Fin 8) (s : State) : ∃ t, execInjDescTake r0 s = .next t ∧ Kept s t := by
  refine ⟨_, rfl, ?_⟩
  repeat' first
    | with_reducible exact Kept.refl _
    | exact id
    | intro _
    | with_reducible apply State.injTake_kept

theorem execInjDescComplete_kept (r0 : Fin 8) (s : State) : ∃ t, execInjDescComplete r0 s = .next t ∧ Kept s t := by
  refine ⟨_, rfl, ?_⟩
  repeat' first
    | with_reducible exact Kept.refl _
    | exact id
    | intro _
    | with_reducible apply State.injComplete_kept

theorem execInjRingEnable_kept (a : Agent) (r0 : Fin 8) (s : State) : ∃ t, execInjRingEnable a r0 s = .next t ∧ Kept s t := by
  refine ⟨_, rfl, ?_⟩
  repeat' first
    | with_reducible exact Kept.refl _
    | exact id
    | intro _
    | with_reducible apply State.regAccess_kept
    | with_reducible apply State.injEnWrite_kept

theorem execSwUnpark_kept (a : Agent) (port : BitVec 5) (queue : BitVec 3) (tag : BitVec 16) (s : State) : ∃ t, execSwUnpark a port queue tag s = .next t ∧ Kept s t := by
  refine ⟨_, rfl, ?_⟩
  repeat' first
    | with_reducible exact Kept.refl _
    | exact id
    | intro _
    | with_reducible apply State.regAccess_kept
    | with_reducible apply State.unpark_kept

theorem execLinkUp_kept (p : PtpPort) (rate : BitVec 2) (master : Bool) (s : State) : ∃ t, execLinkUp p rate master s = .next t ∧ Kept s t := by
  refine ⟨_, rfl, ?_⟩
  repeat' first
    | with_reducible exact Kept.refl _
    | exact id
    | intro _
    | with_reducible apply State.linkRise_kept

theorem execLinkDown_kept (p : PtpPort) (s : State) : ∃ t, execLinkDown p s = .next t ∧ Kept s t := by
  refine ⟨_, rfl, ?_⟩
  repeat' first
    | with_reducible exact Kept.refl _
    | exact id
    | intro _
    | with_reducible apply State.linkDrop_kept
    | with_reducible apply Kept.ite

theorem execTc10SleepReq_kept (a : Agent) (p : Fin 16) (s : State) : ∃ t, execTc10SleepReq a p s = .next t ∧ Kept s t := by
  refine ⟨_, rfl, ?_⟩
  repeat' first
    | with_reducible exact Kept.refl _
    | exact id
    | intro _
    | with_reducible apply State.regAccess_kept
    | with_reducible apply State.tc10Request_kept

theorem execTc10WakeCmd_kept (a : Agent) (p : Fin 16) (s : State) : ∃ t, execTc10WakeCmd a p s = .next t ∧ Kept s t := by
  refine ⟨_, rfl, ?_⟩
  repeat' first
    | with_reducible exact Kept.refl _
    | exact id
    | intro _
    | with_reducible apply State.regAccess_kept
    | with_reducible apply State.tc10Wake_kept

theorem execTc10PartnerSleepReq_kept (p : Fin 16) (s : State) : ∃ t, execTc10PartnerSleepReq p s = .next t ∧ Kept s t := by
  refine ⟨_, rfl, ?_⟩
  repeat' first
    | with_reducible exact Kept.refl _
    | exact id
    | intro _
    | with_reducible apply State.tc10Sleep_kept
    | with_reducible apply Kept.ite

theorem execTc10PartnerAck_kept (p : Fin 16) (s : State) : ∃ t, execTc10PartnerAck p s = .next t ∧ Kept s t := by
  refine ⟨_, rfl, ?_⟩
  repeat' first
    | with_reducible exact Kept.refl _
    | exact id
    | intro _
    | with_reducible apply State.tc10Sleep_kept
    | with_reducible apply Kept.ite

theorem execTc10PartnerReject_kept (p : Fin 16) (s : State) : ∃ t, execTc10PartnerReject p s = .next t ∧ Kept s t := by
  refine ⟨_, rfl, ?_⟩
  repeat' first
    | with_reducible exact Kept.refl _
    | exact id
    | intro _
    | with_reducible apply State.tc10Fail_kept

theorem execTc10RequestTimeout_kept (p : Fin 16) (s : State) : ∃ t, execTc10RequestTimeout p s = .next t ∧ Kept s t := by
  refine ⟨_, rfl, ?_⟩
  repeat' first
    | with_reducible exact Kept.refl _
    | exact id
    | intro _
    | with_reducible apply State.tc10Fail_kept

theorem execTc10WakePulse_kept (p : Fin 16) (s : State) : ∃ t, execTc10WakePulse p s = .next t ∧ Kept s t := by
  refine ⟨_, rfl, ?_⟩
  repeat' first
    | with_reducible exact Kept.refl _
    | exact id
    | intro _
    | with_reducible apply State.tc10Pulse_kept

theorem execTc10WakeTimeout_kept (p : Fin 16) (s : State) : ∃ t, execTc10WakeTimeout p s = .next t ∧ Kept s t := by
  refine ⟨_, rfl, ?_⟩
  repeat' first
    | with_reducible exact Kept.refl _
    | exact id
    | intro _
    | with_reducible apply State.put_kept
    | with_reducible apply State.raise_kept
    | with_reducible apply State.portCount_kept
    | with_reducible apply Kept.ite

theorem execPodlClassify_kept (s : State) : ∃ t, execPodlClassify s = .next t ∧ Kept s t := by
  refine ⟨_, rfl, ?_⟩
  repeat' first
    | with_reducible exact Kept.refl _
    | exact id
    | intro _
    | with_reducible apply Kept.ite
    | dsimp only
    | (split <;> (try (rename_i e; replace e := congrArg Prod.fst e; dsimp only at e; subst e)))
    | (refine Kept.same (t := ?_) ?_ (by dsimp only; rfl) (by with_reducible rfl) (by with_reducible rfl) (by with_reducible rfl) (by with_reducible rfl) (by with_reducible rfl) (by with_reducible rfl) (by with_reducible rfl) (by with_reducible rfl) (by with_reducible rfl))

theorem execBcGpioCmd_kept (a : Agent) (n : Fin 8) (v : Word) (s : State) : ∃ t, execBcGpioCmd a n v s = .next t ∧ Kept s t := by
  refine ⟨_, rfl, ?_⟩
  repeat' first
    | with_reducible exact Kept.refl _
    | exact id
    | intro _
    | with_reducible apply State.regAccess_kept
    | with_reducible apply State.unstaged_kept
    | with_reducible apply State.bcCmd_kept
    | with_reducible apply Kept.ite

theorem execBcI2cWriteCmd_kept (a : Agent) (n : Fin 8) (v : Word) (s : State) : ∃ t, execBcI2cWriteCmd a n v s = .next t ∧ Kept s t := by
  refine ⟨_, rfl, ?_⟩
  repeat' first
    | with_reducible exact Kept.refl _
    | exact id
    | intro _
    | with_reducible apply State.regAccess_kept
    | with_reducible apply State.unstaged_kept
    | with_reducible apply State.bcCmd_kept
    | with_reducible apply Kept.ite

theorem execBcI2cReadCmd_kept (a : Agent) (n : Fin 8) (v : Word) (s : State) : ∃ t, execBcI2cReadCmd a n v s = .next t ∧ Kept s t := by
  refine ⟨_, rfl, ?_⟩
  repeat' first
    | with_reducible exact Kept.refl _
    | exact id
    | intro _
    | with_reducible apply State.regAccess_kept
    | with_reducible apply State.unstaged_kept
    | with_reducible apply State.bcCmd_kept
    | with_reducible apply Kept.ite

theorem execBcAck_kept (n : Fin 8) (nack : Bool) (rdata : BitVec 32) (s : State) : ∃ t, execBcAck n nack rdata s = .next t ∧ Kept s t := by
  refine ⟨_, rfl, ?_⟩
  repeat' first
    | with_reducible exact Kept.refl _
    | exact id
    | intro _
    | with_reducible apply State.bcServe_kept
    | with_reducible apply Kept.ite

theorem execBcTimeout_kept (n : Fin 8) (s : State) : ∃ t, execBcTimeout n s = .next t ∧ Kept s t := by
  refine ⟨_, rfl, ?_⟩
  repeat' first
    | with_reducible exact Kept.refl _
    | exact id
    | intro _
    | with_reducible apply State.bcServe_kept
    | with_reducible apply Kept.ite

theorem execCamLinkUp_kept (n : Fin 8) (gear : BitVec 3) (s : State) : ∃ t, execCamLinkUp n gear s = .next t ∧ Kept s t := by
  refine ⟨_, rfl, ?_⟩
  repeat' first
    | with_reducible exact Kept.refl _
    | exact id
    | intro _
    | with_reducible apply State.put_kept
    | with_reducible apply Kept.ite

theorem execCamLinkDown_kept (n : Fin 8) (s : State) : ∃ t, execCamLinkDown n s = .next t ∧ Kept s t := by
  refine ⟨_, rfl, ?_⟩
  repeat' first
    | with_reducible exact Kept.refl _
    | exact id
    | intro _
    | with_reducible apply State.camDrop_kept
    | with_reducible apply Kept.ite

theorem execCanFrameReceive_kept (c : Fin 2) (f : CanFrame) (s : State) : ∃ t, execCanFrameReceive c f s = .next t ∧ Kept s t := by
  refine ⟨_, rfl, ?_⟩
  repeat' first
    | with_reducible exact Kept.refl _
    | exact id
    | intro _
    | with_reducible apply State.canUnit_kept
    | with_reducible apply Kept.ite

theorem execCanTxDescTake_kept (c : Fin 2) (s : State) : ∃ t, execCanTxDescTake c s = .next t ∧ Kept s t := by
  refine ⟨_, rfl, ?_⟩
  repeat' first
    | with_reducible exact Kept.refl _
    | exact id
    | intro _
    | with_reducible apply State.canTake_kept

theorem execCanTxComplete_kept (c : Fin 2) (sofAgo : ℕ) (s : State) : ∃ t, execCanTxComplete c sofAgo s = .next t ∧ Kept s t := by
  refine ⟨_, rfl, ?_⟩
  repeat' first
    | with_reducible exact Kept.refl _
    | exact id
    | intro _
    | with_reducible apply State.canEnd_kept
    | with_reducible apply Kept.ite

theorem execCanBusOff_kept (c : Fin 2) (s : State) : ∃ t, execCanBusOff c s = .next t ∧ Kept s t := by
  refine ⟨_, rfl, ?_⟩
  repeat' first
    | with_reducible exact Kept.refl _
    | exact id
    | intro _
    | with_reducible apply State.put_kept
    | with_reducible apply State.raise_kept
    | with_reducible apply State.canEnd_kept
    | with_reducible apply Kept.ite

theorem execCanBusoffRecovery_kept (c : Fin 2) (s : State) : ∃ t, execCanBusoffRecovery c s = .next t ∧ Kept s t := by
  refine ⟨_, rfl, ?_⟩
  repeat' first
    | with_reducible exact Kept.refl _
    | exact id
    | intro _
    | with_reducible apply State.wr_kept
    | with_reducible apply Kept.ite

theorem execCanBusError_kept (c : Fin 2) (tec : BitVec 8) (rec : BitVec 8) (s : State) : ∃ t, execCanBusError c tec rec s = .next t ∧ Kept s t := by
  refine ⟨_, rfl, ?_⟩
  repeat' first
    | with_reducible exact Kept.refl _
    | exact id
    | intro _
    | with_reducible apply State.put_kept
    | with_reducible apply State.raise_kept
    | with_reducible apply State.when_kept
    | with_reducible apply Kept.ite

theorem execWheelFireImminent_kept (idx : WIdx) (s : State) : ∃ t, execWheelFireImminent idx s = .next t ∧ Kept s t := by
  refine ⟨_, rfl, ?_⟩
  repeat' first
    | with_reducible exact Kept.refl _
    | exact id
    | intro _
    | with_reducible apply State.fireIssue_kept
    | with_reducible apply Kept.ite

theorem execCalendarSweep_kept (s : State) : ∃ t, execCalendarSweep s = .next t ∧ Kept s t := by
  refine ⟨_, rfl, ?_⟩
  repeat' first
    | with_reducible exact Kept.refl _
    | exact id
    | intro _
    | with_reducible apply State.each_kept
    | with_reducible apply State.fireIssue_kept
    | with_reducible apply Kept.ite

theorem execJumpTakeEffect_kept (d : Dom) (s : State) : ∃ t, execJumpTakeEffect d s = .next t ∧ Kept s t := by
  refine ⟨_, rfl, ?_⟩
  repeat' first
    | with_reducible exact Kept.refl _
    | exact id
    | intro _
    | with_reducible apply State.jumpTick_kept
    | with_reducible apply Kept.ite

theorem execArbSlotBoundary_kept (s : State) : ∃ t, execArbSlotBoundary s = .next t ∧ Kept s t := by
  refine ⟨_, rfl, ?_⟩
  repeat' first
    | with_reducible exact Kept.refl _
    | exact id
    | intro _
    | with_reducible apply State.slotBoundary_kept
    | with_reducible apply Kept.ite

theorem execArbRequest_kept (p : ArbPort) (s : State) : ∃ t, execArbRequest p s = .next t ∧ Kept s t := by
  refine ⟨_, rfl, ?_⟩
  repeat' first
    | with_reducible exact Kept.refl _
    | exact id
    | intro _
    | with_reducible apply State.setGrant_kept
    | with_reducible apply State.arbGrant_kept
    | with_reducible apply Kept.ite
    | dsimp only
    | (split <;> (try (rename_i e; replace e := congrArg Prod.fst e; dsimp only at e; subst e)))
    | (refine Kept.same (t := ?_) ?_ (by dsimp only; rfl) (by with_reducible rfl) (by with_reducible rfl) (by with_reducible rfl) (by with_reducible rfl) (by with_reducible rfl) (by with_reducible rfl) (by with_reducible rfl) (by with_reducible rfl) (by with_reducible rfl))

theorem execArbRequestDrop_kept (p : ArbPort) (s : State) : ∃ t, execArbRequestDrop p s = .next t ∧ Kept s t := by
  refine ⟨_, rfl, ?_⟩
  repeat' first
    | with_reducible exact Kept.refl _
    | exact id
    | intro _
    | with_reducible apply State.arbDrop_kept
    | with_reducible apply Kept.ite

theorem execArbSwap_kept (a : Agent) (s : State) : ∃ t, execArbSwap a s = .next t ∧ Kept s t := by
  refine ⟨_, rfl, ?_⟩
  repeat' first
    | with_reducible exact Kept.refl _
    | exact id
    | intro _
    | with_reducible apply State.regAccess_kept
    | with_reducible apply State.arbSwap_kept

theorem execDramRead_kept (p : ArbPort) (line : LineNo) (upset : Upset) (s : State) : ∃ t, execDramRead p line upset s = .next t ∧ Kept s t := by
  refine ⟨_, rfl, ?_⟩
  repeat' first
    | with_reducible exact Kept.refl _
    | exact id
    | intro _
    | with_reducible apply State.upset_kept
    | with_reducible apply State.dramRead_kept
    | with_reducible apply Kept.ite

theorem execDramWrite_kept (p : ArbPort) (line : LineNo) (mask : BitVec 64) (data : BitVec 512) (upset : Upset) (s : State) : ∃ t, execDramWrite p line mask data upset s = .next t ∧ Kept s t := by
  refine ⟨_, rfl, ?_⟩
  repeat' first
    | with_reducible exact Kept.refl _
    | exact id
    | intro _
    | with_reducible apply State.upset_kept
    | with_reducible apply State.dramWrite_kept
    | with_reducible apply Kept.ite

theorem execScrubRead_kept (upset : Upset) (s : State) : ∃ t, execScrubRead upset s = .next t ∧ Kept s t := by
  refine ⟨_, rfl, ?_⟩
  repeat' first
    | with_reducible exact Kept.refl _
    | exact id
    | intro _
    | with_reducible apply State.scrub_kept
    | with_reducible apply Kept.ite

theorem execWedgeCmd_kept (a : Agent) (s : State) : ∃ t, execWedgeCmd a s = .next t ∧ Kept s t := by
  refine ⟨_, rfl, ?_⟩
  repeat' first
    | with_reducible exact Kept.refl _
    | exact id
    | intro _
    | with_reducible apply State.regAccess_kept
    | with_reducible apply State.wedgeCmd_kept

theorem execWedgeTestCmd_kept (a : Agent) (fails : List LineNo) (s : State) : ∃ t, execWedgeTestCmd a fails s = .next t ∧ Kept s t := by
  refine ⟨_, rfl, ?_⟩
  repeat' first
    | with_reducible exact Kept.refl _
    | exact id
    | intro _
    | with_reducible apply State.regAccess_kept
    | with_reducible apply State.wedgeCmd_kept

theorem execWedgeReservedOp_kept (a : Agent) (s : State) : ∃ t, execWedgeReservedOp a s = .next t ∧ Kept s t := by
  refine ⟨_, rfl, ?_⟩
  repeat' first
    | with_reducible exact Kept.refl _
    | exact id
    | intro _
    | with_reducible apply State.regAccess_kept
    | with_reducible apply State.wedgeCmd_kept

theorem execSherdPop_kept (a : Agent) (s : State) : ∃ t, execSherdPop a s = .next t ∧ Kept s t := by
  refine ⟨_, rfl, ?_⟩
  repeat' first
    | with_reducible exact Kept.refl _
    | exact id
    | intro _
    | with_reducible apply State.regAccess_kept
    | with_reducible apply State.sherdPop_kept

theorem execSherdHeadRead_kept (a : Agent) (half : Half) (s : State) : ∃ t, execSherdHeadRead a half s = .next t ∧ Kept s t := by
  refine ⟨_, rfl, ?_⟩
  repeat' first
    | with_reducible exact Kept.refl _
    | exact id
    | intro _
    | with_reducible apply State.readCmd_kept
    | with_reducible apply State.sherdHead_kept

theorem execCrazingDecay_kept (s : State) : ∃ t, execCrazingDecay s = .next t ∧ Kept s t := by
  refine ⟨_, rfl, ?_⟩
  repeat' first
    | with_reducible exact Kept.refl _
    | exact id
    | intro _
    | with_reducible apply State.each_kept
    | with_reducible apply State.setCraze_kept
    | with_reducible apply Kept.ite
    | dsimp only
    | (split <;> (try (rename_i e; replace e := congrArg Prod.fst e; dsimp only at e; subst e)))

theorem execCrazingClear_kept (a : Agent) (s : State) : ∃ t, execCrazingClear a s = .next t ∧ Kept s t := by
  refine ⟨_, rfl, ?_⟩
  repeat' first
    | with_reducible exact Kept.refl _
    | exact id
    | intro _
    | with_reducible apply State.setCraze_kept
    | with_reducible apply State.regAccess_kept

theorem execPageRemap_kept (a : Agent) (page : BitVec 32) (s : State) : ∃ t, execPageRemap a page s = .next t ∧ Kept s t := by
  refine ⟨_, rfl, ?_⟩
  repeat' first
    | with_reducible exact Kept.refl _
    | exact id
    | intro _
    | with_reducible apply State.regAccess_kept
    | with_reducible apply State.unstaged_kept
    | with_reducible apply State.remapCmd_kept

theorem execRemapDone_kept (s : State) : ∃ t, execRemapDone s = .next t ∧ Kept s t := by
  refine ⟨_, rfl, ?_⟩
  repeat' first
    | with_reducible exact Kept.refl _
    | exact id
    | intro _
    | with_reducible apply State.remapEnd_kept
    | with_reducible apply Kept.ite
    | dsimp only
    | (split <;> (try (rename_i e; replace e := congrArg Prod.fst e; dsimp only at e; subst e)))

theorem execLedgerRecordAccept_kept (r0 : Rec) (s : State) : ∃ t, execLedgerRecordAccept r0 s = .next t ∧ Kept s t := by
  refine ⟨_, rfl, ?_⟩
  repeat' first
    | with_reducible exact Kept.refl _
    | exact id
    | intro _
    | with_reducible apply State.ldgAccept_kept

theorem execLedgerSwRecord_kept (a : Agent) (w : World) (typ : BitVec 8) (len : BitVec 6) (sub : BitVec 16) (s : State) : ∃ t, execLedgerSwRecord a w typ len sub s = .next t ∧ Kept s t := by
  refine ⟨_, rfl, ?_⟩
  repeat' first
    | with_reducible exact Kept.refl _
    | exact id
    | intro _
    | with_reducible apply State.regAccess_kept
    | with_reducible apply State.unstaged_kept
    | with_reducible apply State.swRecord_kept

theorem execBlockCloseTimer_kept (s : State) : ∃ t, execBlockCloseTimer s = .next t ∧ Kept s t := by
  refine ⟨_, rfl, ?_⟩
  repeat' first
    | with_reducible exact Kept.refl _
    | exact id
    | intro _
    | with_reducible apply State.ldgFlush_kept
    | with_reducible apply Kept.ite

theorem execLedgerFlush_kept (a : Agent) (s : State) : ∃ t, execLedgerFlush a s = .next t ∧ Kept s t := by
  refine ⟨_, rfl, ?_⟩
  repeat' first
    | with_reducible exact Kept.refl _
    | exact id
    | intro _
    | with_reducible apply State.regAccess_kept
    | with_reducible apply State.ldgFlush_kept

theorem execLedgerOrderlyClose_kept (reason : CloseFor) (s : State) : ∃ t, execLedgerOrderlyClose reason s = .next t ∧ Kept s t := by
  refine ⟨_, rfl, ?_⟩
  repeat' first
    | with_reducible exact Kept.refl _
    | exact id
    | intro _
    | with_reducible apply State.orderlyClose_kept
    | with_reducible apply Kept.ite

theorem execOrderlyCloseDone_kept (s : State) : ∃ t, execOrderlyCloseDone s = .next t ∧ Kept s t := by
  refine ⟨_, rfl, ?_⟩
  repeat' first
    | with_reducible exact Kept.refl _
    | exact id
    | intro _
    | with_reducible apply State.closeDone_kept

theorem execSignatureReturn_kept (ok : Bool) (r0 : BitVec 256) (s' : BitVec 256) (s : State) : ∃ t, execSignatureReturn ok r0 s' s = .next t ∧ Kept s t := by
  refine ⟨_, rfl, ?_⟩
  repeat' first
    | with_reducible exact Kept.refl _
    | exact id
    | intro _
    | with_reducible apply State.signReturn_kept
    | with_reducible apply Kept.ite

theorem execSignTimeout_kept (s : State) : ∃ t, execSignTimeout s = .next t ∧ Kept s t := by
  refine ⟨_, rfl, ?_⟩
  repeat' first
    | with_reducible exact Kept.refl _
    | exact id
    | intro _
    | with_reducible apply State.signFail_kept
    | with_reducible apply Kept.ite

theorem execSignRetry_kept (s : State) : ∃ t, execSignRetry s = .next t ∧ Kept s t := by
  refine ⟨_, rfl, ?_⟩
  repeat' first
    | with_reducible exact Kept.refl _
    | exact id
    | intro _
    | with_reducible apply State.signRetry_kept

theorem execNvmeWriteComplete_kept (seq : ℕ) (ok : Bool) (s : State) : ∃ t, execNvmeWriteComplete seq ok s = .next t ∧ Kept s t := by
  refine ⟨_, rfl, ?_⟩
  repeat' first
    | with_reducible exact Kept.refl _
    | exact id
    | intro _
    | with_reducible apply State.nvmeDone_kept
    | with_reducible apply Kept.ite

theorem execLedgerResume_kept (a : Agent) (s : State) : ∃ t, execLedgerResume a s = .next t ∧ Kept s t := by
  refine ⟨_, rfl, ?_⟩
  repeat' first
    | with_reducible exact Kept.refl _
    | exact id
    | intro _
    | with_reducible apply State.regAccess_kept
    | with_reducible apply State.ldgEnWrite_kept

theorem execLedgerReinit_kept (a : Agent) (s : State) : ∃ t, execLedgerReinit a s = .next t ∧ Kept s t := by
  refine ⟨_, rfl, ?_⟩
  repeat' first
    | with_reducible exact Kept.refl _
    | exact id
    | intro _
    | with_reducible apply State.setLdg_kept
    | with_reducible apply State.regAccess_kept

theorem execResumeReadComplete_kept (ok : Bool) (copies : List (Option CtlCopy)) (blocks : List LBlock) (s : State) : ∃ t, execResumeReadComplete ok copies blocks s = .next t ∧ Kept s t := by
  refine ⟨_, rfl, ?_⟩
  repeat' first
    | with_reducible exact Kept.refl _
    | exact id
    | intro _
    | with_reducible apply State.resumeFail_kept
    | with_reducible apply State.resumeRead_kept
    | with_reducible apply Kept.ite

theorem execReplayCopy_kept (a : Agent) (s : State) : ∃ t, execReplayCopy a s = .next t ∧ Kept s t := by
  refine ⟨_, rfl, ?_⟩
  repeat' first
    | with_reducible exact Kept.refl _
    | exact id
    | intro _
    | with_reducible apply State.regAccess_kept
    | with_reducible apply State.replayCmd_kept

theorem execReplayCheck_kept (a : Agent) (s : State) : ∃ t, execReplayCheck a s = .next t ∧ Kept s t := by
  refine ⟨_, rfl, ?_⟩
  repeat' first
    | with_reducible exact Kept.refl _
    | exact id
    | intro _
    | with_reducible apply State.regAccess_kept
    | with_reducible apply State.replayCmd_kept

theorem execReplayCopyCheck_kept (a : Agent) (s : State) : ∃ t, execReplayCopyCheck a s = .next t ∧ Kept s t := by
  refine ⟨_, rfl, ?_⟩
  repeat' first
    | with_reducible exact Kept.refl _
    | exact id
    | intro _
    | with_reducible apply State.regAccess_kept
    | with_reducible apply State.replayCmd_kept

theorem execReplayDone_kept (blocks : List LBlock) (ok : Bool) (s : State) : ∃ t, execReplayDone blocks ok s = .next t ∧ Kept s t := by
  refine ⟨_, rfl, ?_⟩
  repeat' first
    | with_reducible exact Kept.refl _
    | exact id
    | intro _
    | with_reducible apply State.replayEnd_kept
    | with_reducible apply Kept.ite
    | dsimp only
    | (split <;> (try (rename_i e; replace e := congrArg Prod.fst e; dsimp only at e; subst e)))

theorem execPcieLinkUp_kept (s : State) : ∃ t, execPcieLinkUp s = .next t ∧ Kept s t := by
  refine ⟨_, rfl, ?_⟩
  repeat' first
    | with_reducible exact Kept.refl _
    | exact id
    | intro _
    | with_reducible apply Kept.ite
    | dsimp only
    | (split <;> (try (rename_i e; replace e := congrArg Prod.fst e; dsimp only at e; subst e)))
    | (refine Kept.same (t := ?_) ?_ (by dsimp only; rfl) (by with_reducible rfl) (by with_reducible rfl) (by with_reducible rfl) (by with_reducible rfl) (by with_reducible rfl) (by with_reducible rfl) (by with_reducible rfl) (by with_reducible rfl) (by with_reducible rfl))

theorem execPcieLinkDown_kept (s : State) : ∃ t, execPcieLinkDown s = .next t ∧ Kept s t := by
  refine ⟨_, rfl, ?_⟩
  repeat' first
    | with_reducible exact Kept.refl _
    | exact id
    | intro _
    | with_reducible apply Kept.ite
    | dsimp only
    | (split <;> (try (rename_i e; replace e := congrArg Prod.fst e; dsimp only at e; subst e)))
    | (refine Kept.same (t := ?_) ?_ (by dsimp only; rfl) (by with_reducible rfl) (by with_reducible rfl) (by with_reducible rfl) (by with_reducible rfl) (by with_reducible rfl) (by with_reducible rfl) (by with_reducible rfl) (by with_reducible rfl) (by with_reducible rfl))

theorem execLockAcquire_kept (a : Agent) (n : LockIdx) (s : State) : ∃ t, execLockAcquire a n s = .next t ∧ Kept s t := by
  refine ⟨_, rfl, ?_⟩
  repeat' first
    | with_reducible exact Kept.refl _
    | exact id
    | intro _
    | with_reducible apply State.regAccess_kept
    | with_reducible apply State.lockAcq_kept

theorem execLockRelease_kept (a : Agent) (n : LockIdx) (s : State) : ∃ t, execLockRelease a n s = .next t ∧ Kept s t := by
  refine ⟨_, rfl, ?_⟩
  repeat' first
    | with_reducible exact Kept.refl _
    | exact id
    | intro _
    | with_reducible apply State.regAccess_kept
    | with_reducible apply State.lockRel_kept

theorem execEpochTimerCommit_kept (c : Cluster) (s : State) : ∃ t, execEpochTimerCommit c s = .next t ∧ Kept s t := by
  refine ⟨_, rfl, ?_⟩
  repeat' first
    | with_reducible exact Kept.refl _
    | exact id
    | intro _
    | with_reducible apply State.epochRelease_kept
    | with_reducible apply Kept.ite

theorem execEpochCommitCmd_kept (a : Agent) (c : Cluster) (s : State) : ∃ t, execEpochCommitCmd a c s = .next t ∧ Kept s t := by
  refine ⟨_, rfl, ?_⟩
  repeat' first
    | with_reducible exact Kept.refl _
    | exact id
    | intro _
    | with_reducible apply State.regAccess_kept
    | with_reducible apply State.epoCommit_kept

theorem execEpochRollbackCmd_kept (a : Agent) (c : Cluster) (s : State) : ∃ t, execEpochRollbackCmd a c s = .next t ∧ Kept s t := by
  refine ⟨_, rfl, ?_⟩
  repeat' first
    | with_reducible exact Kept.refl _
    | exact id
    | intro _
    | with_reducible apply State.regAccess_kept
    | with_reducible apply State.epoRollback_kept

theorem execEpochRollbackDone_kept (c : Cluster) (s : State) : ∃ t, execEpochRollbackDone c s = .next t ∧ Kept s t := by
  refine ⟨_, rfl, ?_⟩
  repeat' first
    | with_reducible exact Kept.refl _
    | exact id
    | intro _
    | with_reducible apply State.put_kept
    | with_reducible apply Kept.ite

theorem execEpochResume_kept (a : Agent) (c : Cluster) (s : State) : ∃ t, execEpochResume a c s = .next t ∧ Kept s t := by
  refine ⟨_, rfl, ?_⟩
  repeat' first
    | with_reducible exact Kept.refl _
    | exact id
    | intro _
    | with_reducible apply State.regAccess_kept
    | with_reducible apply State.epoResume_kept

theorem execEpochOutputRefused_kept (c : Cluster) (idx : ℕ) (status : Status) (s : State) : ∃ t, execEpochOutputRefused c idx status s = .next t ∧ Kept s t := by
  refine ⟨_, rfl, ?_⟩
  repeat' first
    | with_reducible exact Kept.refl _
    | exact id
    | intro _
    | with_reducible apply State.outputDrop_kept
    | with_reducible apply Kept.ite
    | dsimp only
    | (split <;> (try (rename_i e; replace e := congrArg Prod.fst e; dsimp only at e; subst e)))

theorem execLockstepDivergence_kept (p : Pair) (cause : LksCause) (addr : PAddr) (s : State) : ∃ t, execLockstepDivergence p cause addr s = .next t ∧ Kept s t := by
  refine ⟨_, rfl, ?_⟩
  repeat' first
    | with_reducible exact Kept.refl _
    | exact id
    | intro _
    | with_reducible apply State.diverge_kept
    | with_reducible apply Kept.ite

theorem execLockstepRestart_kept (a : Agent) (p : Pair) (s : State) : ∃ t, execLockstepRestart a p s = .next t ∧ Kept s t := by
  refine ⟨_, rfl, ?_⟩
  repeat' first
    | with_reducible exact Kept.refl _
    | exact id
    | intro _
    | with_reducible apply State.regAccess_kept
    | with_reducible apply State.lksRestart_kept

theorem execLockstepInject_kept (a : Agent) (p : Pair) (s : State) : ∃ t, execLockstepInject a p s = .next t ∧ Kept s t := by
  refine ⟨_, rfl, ?_⟩
  repeat' first
    | with_reducible exact Kept.refl _
    | exact id
    | intro _
    | with_reducible apply State.regAccess_kept
    | with_reducible apply State.lksInject_kept

theorem execConeBurn_kept (a : Agent) (cone : BitVec 3) (expect : BitVec 7) (value : BitVec 4) (s : State) : ∃ t, execConeBurn a cone expect value s = .next t ∧ Kept s t := by
  refine ⟨_, rfl, ?_⟩
  repeat' first
    | with_reducible exact Kept.refl _
    | exact id
    | intro _
    | with_reducible apply State.regAccess_kept
    | with_reducible apply State.coneStart_kept

theorem execBurnRecordCopy_kept (n : Fin 128) (s : State) : ∃ t, execBurnRecordCopy n s = .next t ∧ Kept s t := by
  refine ⟨_, rfl, ?_⟩
  repeat' first
    | with_reducible exact Kept.refl _
    | exact id
    | intro _
    | with_reducible apply State.burnCopy_kept

theorem execApcClockStep_kept (c : Cluster) (s : State) : ∃ t, execApcClockStep c s = .next t ∧ Kept s t := by
  refine ⟨_, rfl, ?_⟩
  repeat' first
    | with_reducible exact Kept.refl _
    | exact id
    | intro _
    | with_reducible apply State.clkStep_kept
    | with_reducible apply Kept.ite

theorem execGovernorPowerSample_kept (draw : BitVec 10) (s : State) : ∃ t, execGovernorPowerSample draw s = .next t ∧ Kept s t := by
  refine ⟨_, rfl, ?_⟩
  repeat' first
    | with_reducible exact Kept.refl _
    | exact id
    | intro _
    | with_reducible apply State.powerSample_kept
    | with_reducible apply Kept.ite

theorem execDomainPllLock_kept (d : DomId) (s : State) : ∃ t, execDomainPllLock d s = .next t ∧ Kept s t := by
  refine ⟨_, rfl, ?_⟩
  repeat' first
    | with_reducible exact Kept.refl _
    | exact id
    | intro _
    | with_reducible apply State.when_kept
    | with_reducible apply State.domUp_kept
    | with_reducible apply State.clkStart_kept
    | with_reducible apply Kept.ite

theorem execDomainWedgeDone_kept (d : DomId) (s : State) : ∃ t, execDomainWedgeDone d s = .next t ∧ Kept s t := by
  refine ⟨_, rfl, ?_⟩
  repeat' first
    | with_reducible exact Kept.refl _
    | exact id
    | intro _
    | with_reducible apply State.domWedge_kept
    | with_reducible apply State.fenceUp_kept
    | with_reducible apply State.domStart_kept
    | with_reducible apply Kept.ite

theorem execDomainIsolated_kept (d : DomId) (s : State) : ∃ t, execDomainIsolated d s = .next t ∧ Kept s t := by
  refine ⟨_, rfl, ?_⟩
  repeat' first
    | with_reducible exact Kept.refl _
    | exact id
    | intro _
    | with_reducible apply State.domOff_kept
    | with_reducible apply Kept.ite

theorem execKeepEntry_kept (s : State) : ∃ t, execKeepEntry s = .next t ∧ Kept s t := by
  refine ⟨_, rfl, ?_⟩
  repeat' first
    | with_reducible exact Kept.refl _
    | exact id
    | intro _
    | with_reducible apply State.keepEnter_kept
    | with_reducible apply Kept.ite

theorem execAlwaysOnEdge_kept (s : State) : ∃ t, execAlwaysOnEdge s = .next t ∧ Kept s t := by
  refine ⟨_, rfl, ?_⟩
  repeat' first
    | with_reducible exact Kept.refl _
    | exact id
    | intro _
    | with_reducible apply State.aotEdge_kept
    | with_reducible apply Kept.ite

theorem execAotRateLearn_kept (period : BitVec 48) (s : State) : ∃ t, execAotRateLearn period s = .next t ∧ Kept s t := by
  refine ⟨_, rfl, ?_⟩
  repeat' first
    | with_reducible exact Kept.refl _
    | exact id
    | intro _
    | with_reducible apply State.put_kept
    | with_reducible apply Kept.ite

theorem execSleepEntry_kept (s : State) : ∃ t, execSleepEntry s = .next t ∧ Kept s t := by
  refine ⟨_, rfl, ?_⟩
  repeat' first
    | with_reducible exact Kept.refl _
    | exact id
    | intro _
    | with_reducible apply State.sleepEnter_kept
    | with_reducible apply Kept.ite

theorem execKeepExit_kept (s : State) : ∃ t, execKeepExit s = .next t ∧ Kept s t := by
  refine ⟨_, rfl, ?_⟩
  repeat' first
    | with_reducible exact Kept.refl _
    | exact id
    | intro _
    | with_reducible apply State.keepExit_kept
    | with_reducible apply Kept.ite

theorem execModeRequest_kept (a : Agent) (w : World) (req : BitVec 2) (s : State) : ∃ t, execModeRequest a w req s = .next t ∧ Kept s t := by
  refine ⟨_, rfl, ?_⟩
  repeat' first
    | with_reducible exact Kept.refl _
    | exact id
    | intro _
    | with_reducible apply State.put_kept
    | with_reducible apply State.regAccess_kept
    | with_reducible apply State.govern_kept

theorem execAotAlarmFire_kept (s : State) : ∃ t, execAotAlarmFire s = .next t ∧ Kept s t := by
  refine ⟨_, rfl, ?_⟩
  repeat' first
    | with_reducible exact Kept.refl _
    | exact id
    | intro _
    | with_reducible apply State.alarmFire_kept

theorem execWakeEvent_kept (src : WakeSrc) (s : State) : ∃ t, execWakeEvent src s = .next t ∧ Kept s t := by
  refine ⟨_, rfl, ?_⟩
  repeat' first
    | with_reducible exact Kept.refl _
    | exact id
    | intro _
    | with_reducible apply State.wakeEvent_kept

theorem execWakeSwRequest_kept (a : Agent) (s : State) : ∃ t, execWakeSwRequest a s = .next t ∧ Kept s t := by
  refine ⟨_, rfl, ?_⟩
  repeat' first
    | with_reducible exact Kept.refl _
    | exact id
    | intro _
    | with_reducible apply State.regAccess_kept
    | with_reducible apply State.wakeSw_kept

theorem execDomainPowerDownReq_kept (a : Agent) (w : World) (d : DomId) (s : State) : ∃ t, execDomainPowerDownReq a w d s = .next t ∧ Kept s t := by
  refine ⟨_, rfl, ?_⟩
  repeat' first
    | with_reducible exact Kept.refl _
    | exact id
    | intro _
    | with_reducible apply State.regAccess_kept
    | with_reducible apply State.domOffReq_kept

theorem execDomainPowerUpReq_kept (a : Agent) (w : World) (d : DomId) (s : State) : ∃ t, execDomainPowerUpReq a w d s = .next t ∧ Kept s t := by
  refine ⟨_, rfl, ?_⟩
  repeat' first
    | with_reducible exact Kept.refl _
    | exact id
    | intro _
    | with_reducible apply State.regAccess_kept
    | with_reducible apply State.domOnReq_kept

theorem execBlockClockGate_kept (a : Agent) (w : World) (block : BitVec 16) (s : State) : ∃ t, execBlockClockGate a w block s = .next t ∧ Kept s t := by
  refine ⟨_, rfl, ?_⟩
  repeat' first
    | with_reducible exact Kept.refl _
    | exact id
    | intro _
    | with_reducible apply State.regAccess_kept
    | with_reducible apply State.gateReq_kept

theorem execBlockClockUngate_kept (a : Agent) (w : World) (block : BitVec 16) (s : State) : ∃ t, execBlockClockUngate a w block s = .next t ∧ Kept s t := by
  refine ⟨_, rfl, ?_⟩
  repeat' first
    | with_reducible exact Kept.refl _
    | exact id
    | intro _
    | with_reducible apply State.regAccess_kept
    | with_reducible apply State.gateReq_kept

theorem execCorePowerReq_kept (a : Agent) (c : AppCore) (req : BitVec 2) (s : State) : ∃ t, execCorePowerReq a c req s = .next t ∧ Kept s t := by
  refine ⟨_, rfl, ?_⟩
  repeat' first
    | with_reducible exact Kept.refl _
    | exact id
    | intro _
    | with_reducible apply State.regAccess_kept
    | with_reducible apply State.coreReq_kept

theorem execCorePowerTransition_kept (c : AppCore) (s : State) : ∃ t, execCorePowerTransition c s = .next t ∧ Kept s t := by
  refine ⟨_, rfl, ?_⟩
  repeat' first
    | with_reducible exact Kept.refl _
    | exact id
    | intro _
    | with_reducible apply State.coreTransition_kept

theorem execInputSwitchover_kept (toPodl : Bool) (vin : ℕ) (s : State) : ∃ t, execInputSwitchover toPodl vin s = .next t ∧ Kept s t := by
  refine ⟨_, rfl, ?_⟩
  repeat' first
    | with_reducible exact Kept.refl _
    | exact id
    | intro _
    | with_reducible apply State.put_kept
    | with_reducible apply State.switchTo_kept
    | with_reducible apply Kept.ite

theorem execPodlPowerArrive_kept (vin : ℕ) (s : State) : ∃ t, execPodlPowerArrive vin s = .next t ∧ Kept s t := by
  refine ⟨_, rfl, ?_⟩
  repeat' first
    | with_reducible exact Kept.refl _
    | exact id
    | intro _
    | with_reducible apply State.podlArrive_kept

theorem execDipStart_kept (vin : ℕ) (s : State) : ∃ t, execDipStart vin s = .next t ∧ Kept s t := by
  refine ⟨_, rfl, ?_⟩
  repeat' first
    | with_reducible exact Kept.refl _
    | exact id
    | intro _
    | with_reducible apply State.dipStart_kept
    | with_reducible apply Kept.ite

theorem execDipEnd_kept (s : State) : ∃ t, execDipEnd s = .next t ∧ Kept s t := by
  refine ⟨_, rfl, ?_⟩
  repeat' first
    | with_reducible exact Kept.refl _
    | exact id
    | intro _
    | with_reducible apply State.dipEnd_kept
    | with_reducible apply Kept.ite

theorem execInputAboveRestore_kept (vin : ℕ) (s : State) : ∃ t, execInputAboveRestore vin s = .next t ∧ Kept s t := by
  refine ⟨_, rfl, ?_⟩
  repeat' first
    | with_reducible exact Kept.refl _
    | exact id
    | intro _
    | with_reducible apply State.setSup_kept
    | with_reducible apply State.vinNow_kept
    | with_reducible apply Kept.ite

theorem execSupplyBelowReset_kept (vin : ℕ) (s : State) : ∃ t, execSupplyBelowReset vin s = .next t ∧ Kept s t := by
  refine ⟨_, rfl, ?_⟩
  repeat' first
    | with_reducible exact Kept.refl _
    | exact id
    | intro _
    | with_reducible apply State.supplyFall_kept
    | with_reducible apply Kept.ite

theorem execVsupOutOfRange_kept (above : Bool) (vin : ℕ) (s : State) : ∃ t, execVsupOutOfRange above vin s = .next t ∧ Kept s t := by
  refine ⟨_, rfl, ?_⟩
  repeat' first
    | with_reducible exact Kept.refl _
    | exact id
    | intro _
    | with_reducible apply State.put_kept
    | with_reducible apply State.vinNow_kept
    | with_reducible apply State.supplyFall_kept
    | with_reducible apply Kept.ite

theorem execHoldupEnd_kept (s : State) : ∃ t, execHoldupEnd s = .next t ∧ Kept s t := by
  refine ⟨_, rfl, ?_⟩
  repeat' first
    | with_reducible exact Kept.refl _
    | exact id
    | intro _
    | with_reducible apply State.holdupEnd_kept
    | with_reducible apply Kept.ite

theorem execResetRecovery_kept (s : State) : ∃ t, execResetRecovery s = .next t ∧ Kept s t := by
  refine ⟨_, rfl, ?_⟩
  repeat' first
    | with_reducible exact Kept.refl _
    | exact id
    | intro _
    | with_reducible apply State.supplyBoot_kept
    | with_reducible apply Kept.ite

theorem execVsupRangeStable_kept (vin : ℕ) (s : State) : ∃ t, execVsupRangeStable vin s = .next t ∧ Kept s t := by
  refine ⟨_, rfl, ?_⟩
  repeat' first
    | with_reducible exact Kept.refl _
    | exact id
    | intro _
    | with_reducible apply State.put_kept
    | with_reducible apply State.takeInput_kept
    | with_reducible apply State.supplyBoot_kept
    | with_reducible apply Kept.ite

theorem execAonDropout_kept (s : State) : ∃ t, execAonDropout s = .next t ∧ Kept s t := by
  refine ⟨_, rfl, ?_⟩
  repeat' first
    | with_reducible exact Kept.refl _
    | exact id
    | intro _
    | with_reducible apply State.aonDropout_kept
    | with_reducible apply Kept.ite

theorem execWatermarkChange_kept (a : Agent) (new : BitVec 8) (expect : BitVec 8) (s : State) : ∃ t, execWatermarkChange a new expect s = .next t ∧ Kept s t := by
  refine ⟨_, rfl, ?_⟩
  repeat' first
    | with_reducible exact Kept.refl _
    | exact id
    | intro _
    | with_reducible apply State.regAccess_kept
    | with_reducible apply State.wmkRequest_kept

theorem execWedgeDone_kept (s : State) : ∃ t, execWedgeDone s = .next t ∧ Kept s t := by
  refine ⟨_, rfl, ?_⟩
  repeat' first
    | with_reducible exact Kept.refl _
    | exact id
    | intro _
    | with_reducible apply State.wedgeFill_kept
    | with_reducible apply State.wmkEnd_kept
    | with_reducible apply Kept.ite
    | dsimp only
    | (split <;> (try (rename_i e; replace e := congrArg Prod.fst e; dsimp only at e; subst e)))

theorem execWatermarkRaiseDone_kept (s : State) : ∃ t, execWatermarkRaiseDone s = .next t ∧ Kept s t := by
  refine ⟨_, rfl, ?_⟩
  repeat' first
    | with_reducible exact Kept.refl _
    | exact id
    | intro _
    | with_reducible apply State.wmkEnd_kept
    | with_reducible apply Kept.ite
    | dsimp only
    | (split <;> (try (rename_i e; replace e := congrArg Prod.fst e; dsimp only at e; subst e)))

theorem execHandoverRequest_kept (a : Agent) (w : World) (block : BitVec 16) (s : State) : ∃ t, execHandoverRequest a w block s = .next t ∧ Kept s t := by
  refine ⟨_, rfl, ?_⟩
  repeat' first
    | with_reducible exact Kept.refl _
    | exact id
    | intro _
    | with_reducible apply State.regAccess_kept
    | with_reducible apply State.hovRequest_kept

theorem execHandoverWithdraw_kept (a : Agent) (w : World) (s : State) : ∃ t, execHandoverWithdraw a w s = .next t ∧ Kept s t := by
  refine ⟨_, rfl, ?_⟩
  repeat' first
    | with_reducible exact Kept.refl _
    | exact id
    | intro _
    | with_reducible apply State.regAccess_kept
    | with_reducible apply State.hovWithdraw_kept

theorem execHandoverGrant_kept (a : Agent) (s : State) : ∃ t, execHandoverGrant a s = .next t ∧ Kept s t := by
  refine ⟨_, rfl, ?_⟩
  repeat' first
    | with_reducible exact Kept.refl _
    | exact id
    | intro _
    | with_reducible apply State.regAccess_kept
    | with_reducible apply State.hovConsent_kept

theorem execHandoverRefuse_kept (a : Agent) (s : State) : ∃ t, execHandoverRefuse a s = .next t ∧ Kept s t := by
  refine ⟨_, rfl, ?_⟩
  repeat' first
    | with_reducible exact Kept.refl _
    | exact id
    | intro _
    | with_reducible apply State.regAccess_kept
    | with_reducible apply State.hovConsent_kept

theorem execQuiesceEnd_kept (dom : DomId) (blk : BitVec 8) (s : State) : ∃ t, execQuiesceEnd dom blk s = .next t ∧ Kept s t := by
  refine ⟨_, rfl, ?_⟩
  repeat' first
    | with_reducible exact Kept.refl _
    | exact id
    | intro _
    | with_reducible apply State.hovStage_kept
    | with_reducible apply State.hovReset_kept
    | with_reducible apply Kept.ite
    | dsimp only
    | (split <;> (try (rename_i e; replace e := congrArg Prod.fst e; dsimp only at e; subst e)))

theorem execBlockResetComplete_kept (dom : DomId) (blk : BitVec 8) (s : State) : ∃ t, execBlockResetComplete dom blk s = .next t ∧ Kept s t := by
  refine ⟨_, rfl, ?_⟩
  repeat' first
    | with_reducible exact Kept.refl _
    | exact id
    | intro _
    | with_reducible apply State.hovStage_kept
    | with_reducible apply Kept.ite
    | dsimp only
    | (split <;> (try (rename_i e; replace e := congrArg Prod.fst e; dsimp only at e; subst e)))

theorem execHandoverReassign_kept (dom : DomId) (blk : BitVec 8) (s : State) : ∃ t, execHandoverReassign dom blk s = .next t ∧ Kept s t := by
  refine ⟨_, rfl, ?_⟩
  repeat' first
    | with_reducible exact Kept.refl _
    | exact id
    | intro _
    | with_reducible apply State.hovGrant_kept
    | with_reducible apply Kept.ite
    | dsimp only
    | (split <;> (try (rename_i e; replace e := congrArg Prod.fst e; dsimp only at e; subst e)))

theorem execPmConsentGrant_kept (a : Agent) (s : State) : ∃ t, execPmConsentGrant a s = .next t ∧ Kept s t := by
  refine ⟨_, rfl, ?_⟩
  repeat' first
    | with_reducible exact Kept.refl _
    | exact id
    | intro _
    | with_reducible apply State.regAccess_kept
    | with_reducible apply State.pmConsent_kept

theorem execPmConsentRefuse_kept (a : Agent) (s : State) : ∃ t, execPmConsentRefuse a s = .next t ∧ Kept s t := by
  refine ⟨_, rfl, ?_⟩
  repeat' first
    | with_reducible exact Kept.refl _
    | exact id
    | intro _
    | with_reducible apply State.regAccess_kept
    | with_reducible apply State.pmConsent_kept

theorem execSwdKick_kept (a : Agent) (c : Fin 2) (seq : BitVec 16) (s : State) : ∃ t, execSwdKick a c seq s = .next t ∧ Kept s t := by
  refine ⟨_, rfl, ?_⟩
  repeat' first
    | with_reducible exact Kept.refl _
    | exact id
    | intro _
    | with_reducible apply State.regAccess_kept
    | with_reducible apply State.swdKick_kept

theorem execSwdWarn_kept (c : Fin 2) (s : State) : ∃ t, execSwdWarn c s = .next t ∧ Kept s t := by
  refine ⟨_, rfl, ?_⟩
  repeat' first
    | with_reducible exact Kept.refl _
    | exact id
    | intro _
    | with_reducible apply State.raise_kept
    | with_reducible apply Kept.ite

theorem execSwdClass0Expire_kept (s : State) : ∃ t, execSwdClass0Expire s = .next t ∧ Kept s t := by
  refine ⟨_, rfl, ?_⟩
  repeat' first
    | with_reducible exact Kept.refl _
    | exact id
    | intro _
    | with_reducible apply State.closeAsk_kept
    | with_reducible apply State.swdExpired_kept
    | with_reducible apply State.swdSherd_kept
    | with_reducible apply Kept.ite
    | dsimp only
    | (split <;> (try (rename_i e; replace e := congrArg Prod.fst e; dsimp only at e; subst e)))
    | (refine Kept.same (t := ?_) ?_ (by dsimp only; rfl) (by with_reducible rfl) (by with_reducible rfl) (by with_reducible rfl) (by with_reducible rfl) (by with_reducible rfl) (by with_reducible rfl) (by with_reducible rfl) (by with_reducible rfl) (by with_reducible rfl))

theorem execSwdClass1Expire_kept (s : State) : ∃ t, execSwdClass1Expire s = .next t ∧ Kept s t := by
  refine ⟨_, rfl, ?_⟩
  repeat' first
    | with_reducible exact Kept.refl _
    | exact id
    | intro _
    | with_reducible apply State.put_kept
    | with_reducible apply State.raise_kept
    | with_reducible apply State.when_kept
    | with_reducible apply State.breakLocks_kept
    | with_reducible apply State.wardenStart_kept
    | with_reducible apply State.swdArm_kept
    | with_reducible apply State.swdExpired_kept
    | with_reducible apply State.swdSherd_kept
    | with_reducible apply Kept.ite

theorem execSupplyArrival_kept (vin : ℕ) (cid : BitVec 2) (s : State) : ∃ t, execSupplyArrival vin cid s = .next t ∧ Kept s t := by
  refine ⟨_, rfl, ?_⟩
  repeat' first
    | with_reducible exact Kept.refl _
    | exact id
    | intro _
    | with_reducible apply State.arrive_kept
    | with_reducible apply Kept.ite
    | dsimp only
    | (split <;> (try (rename_i e; replace e := congrArg Prod.fst e; dsimp only at e; subst e)))
    | (refine Kept.same (t := ?_) ?_ (by dsimp only; rfl) (by with_reducible rfl) (by with_reducible rfl) (by with_reducible rfl) (by with_reducible rfl) (by with_reducible rfl) (by with_reducible rfl) (by with_reducible rfl) (by with_reducible rfl) (by with_reducible rfl))

theorem execPorstNFall_kept (s : State) : ∃ t, execPorstNFall s = .next t ∧ Kept s t := by
  refine ⟨_, rfl, ?_⟩
  repeat' first
    | with_reducible exact Kept.refl _
    | exact id
    | intro _
    | with_reducible apply State.porstFall_kept
    | with_reducible apply Kept.ite

theorem execPorstNRise_kept (cid : BitVec 2) (s : State) : ∃ t, execPorstNRise cid s = .next t ∧ Kept s t := by
  refine ⟨_, rfl, ?_⟩
  repeat' first
    | with_reducible exact Kept.refl _
    | exact id
    | intro _
    | with_reducible apply State.porstRise_kept
    | with_reducible apply Kept.ite

theorem execChipReset_kept (s : State) : ∃ t, execChipReset s = .next t ∧ Kept s t := by
  refine ⟨_, rfl, ?_⟩
  repeat' first
    | with_reducible exact Kept.refl _
    | exact id
    | intro _
    | with_reducible apply State.coldBoot_kept
    | with_reducible apply Kept.ite
    | dsimp only
    | (split <;> (try (rename_i e; replace e := congrArg Prod.fst e; dsimp only at e; subst e)))

theorem execBootRomImageSelect_kept (badA : Bool) (badB : Bool) (s : State) : ∃ t, execBootRomImageSelect badA badB s = .next t ∧ Kept s t := by
  refine ⟨_, rfl, ?_⟩
  repeat' first
    | with_reducible exact Kept.refl _
    | exact id
    | intro _
    | with_reducible apply State.romSelect_kept
    | with_reducible apply Kept.ite

theorem execBisqueApply_kept (s : State) : ∃ t, execBisqueApply s = .next t ∧ Kept s t := by
  refine ⟨_, rfl, ?_⟩
  repeat' first
    | with_reducible exact Kept.refl _
    | exact id
    | intro _
    | with_reducible apply State.bisque_kept
    | with_reducible apply Kept.ite

theorem execDramTrainingDone_kept (ok : Bool) (s : State) : ∃ t, execDramTrainingDone ok s = .next t ∧ Kept s t := by
  refine ⟨_, rfl, ?_⟩
  repeat' first
    | with_reducible exact Kept.refl _
    | exact id
    | intro _
    | with_reducible apply State.setBoot_kept
    | with_reducible apply State.trainFail_kept
    | with_reducible apply Kept.ite
    | dsimp only

theorem execBootWedgeDone_kept (s : State) : ∃ t, execBootWedgeDone s = .next t ∧ Kept s t := by
  refine ⟨_, rfl, ?_⟩
  repeat' first
    | with_reducible exact Kept.refl _
    | exact id
    | intro _
    | with_reducible apply State.bootWedge_kept
    | with_reducible apply Kept.ite

theorem execGlostStage_kept (medians : List ℕ) (s : State) : ∃ t, execGlostStage medians s = .next t ∧ Kept s t := by
  refine ⟨_, rfl, ?_⟩
  repeat' first
    | with_reducible exact Kept.refl _
    | exact id
    | intro _
    | with_reducible apply State.glost_kept
    | with_reducible apply Kept.ite

theorem execFireCommit_kept (a : Agent) (s : State) : ∃ t, execFireCommit a s = .next t ∧ Kept s t := by
  refine ⟨_, rfl, ?_⟩
  repeat' first
    | with_reducible exact Kept.refl _
    | exact id
    | intro _
    | with_reducible apply State.regAccess_kept
    | with_reducible apply State.fireCtl_kept

theorem execFireNwrel_kept (a : Agent) (s : State) : ∃ t, execFireNwrel a s = .next t ∧ Kept s t := by
  refine ⟨_, rfl, ?_⟩
  repeat' first
    | with_reducible exact Kept.refl _
    | exact id
    | intro _
    | with_reducible apply State.regAccess_kept
    | with_reducible apply State.fireCtl_kept

theorem execFireReboot_kept (a : Agent) (s : State) : ∃ t, execFireReboot a s = .next t ∧ Kept s t := by
  refine ⟨_, rfl, ?_⟩
  repeat' first
    | with_reducible exact Kept.refl _
    | exact id
    | intro _
    | with_reducible apply State.regAccess_kept
    | with_reducible apply State.fireCtl_kept

theorem execFireTrialArm_kept (a : Agent) (tries : BitVec 4) (s : State) : ∃ t, execFireTrialArm a tries s = .next t ∧ Kept s t := by
  refine ⟨_, rfl, ?_⟩
  repeat' first
    | with_reducible exact Kept.refl _
    | exact id
    | intro _
    | with_reducible apply State.regAccess_kept
    | with_reducible apply State.fireCtl_kept

theorem execControlBlockWriteDone_kept (s : State) : ∃ t, execControlBlockWriteDone s = .next t ∧ Kept s t := by
  refine ⟨_, rfl, ?_⟩
  repeat' first
    | with_reducible exact Kept.refl _
    | exact id
    | intro _
    | with_reducible apply State.ctlWritten_kept
    | with_reducible apply Kept.ite
    | dsimp only
    | (split <;> (try (rename_i e; replace e := congrArg Prod.fst e; dsimp only at e; subst e)))

theorem execFlashErase_kept (a : Agent) (s : State) : ∃ t, execFlashErase a s = .next t ∧ Kept s t := by
  refine ⟨_, rfl, ?_⟩
  repeat' first
    | with_reducible exact Kept.refl _
    | exact id
    | intro _
    | with_reducible apply State.regAccess_kept
    | with_reducible apply State.flashStart_kept

theorem execFlashProgram_kept (a : Agent) (s : State) : ∃ t, execFlashProgram a s = .next t ∧ Kept s t := by
  refine ⟨_, rfl, ?_⟩
  repeat' first
    | with_reducible exact Kept.refl _
    | exact id
    | intro _
    | with_reducible apply State.regAccess_kept
    | with_reducible apply State.flashStart_kept

theorem execFlashOpDenied_kept (a : Agent) (s : State) : ∃ t, execFlashOpDenied a s = .next t ∧ Kept s t := by
  refine ⟨_, rfl, ?_⟩
  repeat' first
    | with_reducible exact Kept.refl _
    | exact id
    | intro _
    | with_reducible apply State.regAccess_kept
    | with_reducible apply State.flashStart_kept

theorem execFlashCmdComplete_kept (s : State) : ∃ t, execFlashCmdComplete s = .next t ∧ Kept s t := by
  refine ⟨_, rfl, ?_⟩
  repeat' first
    | with_reducible exact Kept.refl _
    | exact id
    | intro _
    | with_reducible apply State.flashDone_kept
    | with_reducible apply Kept.ite
    | dsimp only
    | (split <;> (try (rename_i e; replace e := congrArg Prod.fst e; dsimp only at e; subst e)))

theorem execFlashDataRead_kept (a : Agent) (half : Half) (s : State) : ∃ t, execFlashDataRead a half s = .next t ∧ Kept s t := by
  refine ⟨_, rfl, ?_⟩
  repeat' first
    | with_reducible exact Kept.refl _
    | exact id
    | intro _
    | with_reducible apply State.readCmd_kept
    | with_reducible apply State.flashData_kept

theorem execXtrgPulse_kept (a : Agent) (ch : BitVec 16) (s : State) : ∃ t, execXtrgPulse a ch s = .next t ∧ Kept s t := by
  refine ⟨_, rfl, ?_⟩
  repeat' first
    | with_reducible exact Kept.refl _
    | exact id
    | intro _
    | with_reducible apply State.regAccess_kept
    | with_reducible apply State.xtrgSend_kept

theorem execTpCaptureEdge_kept (n : Pin) (rising : Bool) (phase : Fin 8) (stableNs : ℕ) (s : State) : ∃ t, execTpCaptureEdge n rising phase stableNs s = .next t ∧ Kept s t := by
  refine ⟨_, rfl, ?_⟩
  repeat' first
    | with_reducible exact Kept.refl _
    | exact id
    | intro _
    | with_reducible apply State.when_kept
    | with_reducible apply State.pinEdgeSeen_kept
    | with_reducible apply State.xtrgEvent_kept

theorem execHaltRequest_kept (h : Hart) (s : State) : ∃ t, execHaltRequest h s = .next t ∧ Kept s t := by
  refine ⟨_, rfl, ?_⟩
  repeat' first
    | with_reducible exact Kept.refl _
    | exact id
    | intro _
    | with_reducible apply State.haltRequest_kept

theorem execResumeRequest_kept (h : Hart) (s : State) : ∃ t, execResumeRequest h s = .next t ∧ Kept s t := by
  refine ⟨_, rfl, ?_⟩
  repeat' first
    | with_reducible exact Kept.refl _
    | exact id
    | intro _
    | with_reducible apply State.resumeRequest_kept

theorem execDapLockRelease_kept (a : Agent) (n : LockIdx) (s : State) : ∃ t, execDapLockRelease a n s = .next t ∧ Kept s t := by
  refine ⟨_, rfl, ?_⟩
  repeat' first
    | with_reducible exact Kept.refl _
    | exact id
    | intro _
    | with_reducible apply State.res_kept
    | with_reducible apply State.when_kept
    | with_reducible apply State.regAccess_kept
    | with_reducible apply State.dapLockRel_kept

theorem execCwdKick_kept (a : Agent) (c : AppCore) (s : State) : ∃ t, execCwdKick a c s = .next t ∧ Kept s t := by
  refine ⟨_, rfl, ?_⟩
  repeat' first
    | with_reducible exact Kept.refl _
    | exact id
    | intro _
    | with_reducible apply State.regAccess_kept
    | with_reducible apply State.cwdKick_kept

theorem execCwdExpire_kept (c : AppCore) (s : State) : ∃ t, execCwdExpire c s = .next t ∧ Kept s t := by
  refine ⟨_, rfl, ?_⟩
  repeat' first
    | with_reducible exact Kept.refl _
    | exact id
    | intro _
    | with_reducible apply State.cwdExpire_kept
    | with_reducible apply Kept.ite

theorem execDebugAttach_kept (s : State) : ∃ t, execDebugAttach s = .next t ∧ Kept s t := by
  refine ⟨_, rfl, ?_⟩
  repeat' first
    | with_reducible exact Kept.refl _
    | exact id
    | intro _
    | with_reducible apply Kept.ite
    | dsimp only
    | (split <;> (try (rename_i e; replace e := congrArg Prod.fst e; dsimp only at e; subst e)))
    | (refine Kept.same (t := ?_) ?_ (by dsimp only; rfl) (by with_reducible rfl) (by with_reducible rfl) (by with_reducible rfl) (by with_reducible rfl) (by with_reducible rfl) (by with_reducible rfl) (by with_reducible rfl) (by with_reducible rfl) (by with_reducible rfl))

theorem execDebugDetach_kept (s : State) : ∃ t, execDebugDetach s = .next t ∧ Kept s t := by
  refine ⟨_, rfl, ?_⟩
  repeat' first
    | with_reducible exact Kept.refl _
    | exact id
    | intro _
    | with_reducible apply State.debugDetach_kept
    | with_reducible apply Kept.ite

theorem execPmuCounterWrite_kept (a : Agent) (b : PmuBlock) (i : BitVec 7) (v : BitVec 32) (inc : Bool) (s : State) : ∃ t, execPmuCounterWrite a b i v inc s = .next t ∧ Kept s t := by
  refine ⟨_, rfl, ?_⟩
  repeat' first
    | with_reducible exact Kept.refl _
    | exact id
    | intro _
    | with_reducible apply State.regAccess_kept
    | with_reducible apply State.pmuWrite_kept
    | with_reducible apply Kept.ite

theorem execPmuSnapRead_kept (a : Agent) (b : PmuBlock) (s : State) : ∃ t, execPmuSnapRead a b s = .next t ∧ Kept s t := by
  refine ⟨_, rfl, ?_⟩
  repeat' first
    | with_reducible exact Kept.refl _
    | exact id
    | intro _
    | with_reducible apply State.wr_kept
    | with_reducible apply State.regAccess_kept
    | with_reducible apply Kept.ite

theorem execBwWindowEnd_kept (s : State) : ∃ t, execBwWindowEnd s = .next t ∧ Kept s t := by
  refine ⟨_, rfl, ?_⟩
  repeat' first
    | with_reducible exact Kept.refl _
    | exact id
    | intro _
    | with_reducible apply State.bwEnd_kept
    | with_reducible apply Kept.ite

theorem execBwWindowRestart_kept (a : Agent) (us : BitVec 20) (s : State) : ∃ t, execBwWindowRestart a us s = .next t ∧ Kept s t := by
  refine ⟨_, rfl, ?_⟩
  repeat' first
    | with_reducible exact Kept.refl _
    | exact id
    | intro _
    | with_reducible apply State.regAccess_kept
    | with_reducible apply State.bwRestart_kept

theorem execBwClearPeak_kept (a : Agent) (s : State) : ∃ t, execBwClearPeak a s = .next t ∧ Kept s t := by
  refine ⟨_, rfl, ?_⟩
  repeat' first
    | with_reducible exact Kept.refl _
    | exact id
    | intro _
    | with_reducible apply State.regAccess_kept
    | with_reducible apply State.bwClearPeak_kept

theorem execCascadeListenEnd_kept (s : State) : ∃ t, execCascadeListenEnd s = .next t ∧ Kept s t := by
  refine ⟨_, rfl, ?_⟩
  repeat' first
    | with_reducible exact Kept.refl _
    | exact id
    | intro _
    | with_reducible apply State.setListens_kept
    | with_reducible apply State.setMaster_kept
    | with_reducible apply Kept.ite

theorem execHeartbeatSend_kept (s : State) : ∃ t, execHeartbeatSend s = .next t ∧ Kept s t := by
  refine ⟨_, rfl, ?_⟩
  repeat' first
    | with_reducible exact Kept.refl _
    | exact id
    | intro _
    | with_reducible apply State.put_kept
    | with_reducible apply State.each_kept
    | with_reducible apply State.setSent_kept
    | with_reducible apply Kept.ite

theorem execHeartbeatReceive_kept (l : LinkIdx) (hb : Heartbeat) (s : State) : ∃ t, execHeartbeatReceive l hb s = .next t ∧ Kept s t := by
  refine ⟨_, rfl, ?_⟩
  repeat' first
    | with_reducible exact Kept.refl _
    | exact id
    | intro _
    | with_reducible apply State.heartbeatIn_kept

theorem execCascadeMbxSend_kept (a : Agent) (k : ModId) (expseq : BitVec 16) (s : State) : ∃ t, execCascadeMbxSend a k expseq s = .next t ∧ Kept s t := by
  refine ⟨_, rfl, ?_⟩
  repeat' first
    | with_reducible exact Kept.refl _
    | exact id
    | intro _
    | with_reducible apply State.regAccess_kept
    | with_reducible apply State.cscMbxSend_kept

theorem execCascadeMbxDeliver_kept (k : ModId) (m : MbxIn) (s : State) : ∃ t, execCascadeMbxDeliver k m s = .next t ∧ Kept s t := by
  refine ⟨_, rfl, ?_⟩
  repeat' first
    | with_reducible exact Kept.refl _
    | exact id
    | intro _
    | with_reducible apply State.cscMbxIn_kept

theorem execModuleAbsent_kept (k : ModId) (s : State) : ∃ t, execModuleAbsent k s = .next t ∧ Kept s t := by
  refine ⟨_, rfl, ?_⟩
  repeat' first
    | with_reducible exact Kept.refl _
    | exact id
    | intro _
    | with_reducible apply State.moduleLost_kept

theorem execCascadeLinkUp_kept (l : LinkIdx) (partner : ModId) (sameKey : Bool) (s : State) : ∃ t, execCascadeLinkUp l partner sameKey s = .next t ∧ Kept s t := by
  refine ⟨_, rfl, ?_⟩
  repeat' first
    | with_reducible exact Kept.refl _
    | exact id
    | intro _
    | with_reducible apply State.linkTrain_kept

theorem execCascadeLinkRetrain_kept (l : LinkIdx) (partner : ModId) (sameKey : Bool) (s : State) : ∃ t, execCascadeLinkRetrain l partner sameKey s = .next t ∧ Kept s t := by
  refine ⟨_, rfl, ?_⟩
  repeat' first
    | with_reducible exact Kept.refl _
    | exact id
    | intro _
    | with_reducible apply State.linkTrain_kept

theorem execCascadeLinkDown_kept (l : LinkIdx) (s : State) : ∃ t, execCascadeLinkDown l s = .next t ∧ Kept s t := by
  refine ⟨_, rfl, ?_⟩
  repeat' first
    | with_reducible exact Kept.refl _
    | exact id
    | intro _
    | with_reducible apply State.linkDown_kept

theorem execCascadePdelayMeasure_kept (l : LinkIdx) (delay : Word) (s : State) : ∃ t, execCascadePdelayMeasure l delay s = .next t ∧ Kept s t := by
  refine ⟨_, rfl, ?_⟩
  repeat' first
    | with_reducible exact Kept.refl _
    | exact id
    | intro _
    | with_reducible apply State.put_kept
    | with_reducible apply Kept.ite

theorem execForwardRuleValid_kept (a : Agent) (n : Fin 64) (s : State) : ∃ t, execForwardRuleValid a n s = .next t ∧ Kept s t := by
  refine ⟨_, rfl, ?_⟩
  repeat' first
    | with_reducible exact Kept.refl _
    | exact id
    | intro _
    | with_reducible apply State.regAccess_kept
    | with_reducible apply State.fwdValid_kept

theorem execForwardedUnitReceive_kept (u : FwdUnit) (s : State) : ∃ t, execForwardedUnitReceive u s = .next t ∧ Kept s t := by
  refine ⟨_, rfl, ?_⟩
  repeat' first
    | with_reducible exact Kept.refl _
    | exact id
    | intro _
    | with_reducible apply State.fwdReceive_kept

theorem execCscKeyInstall_kept (a : Agent) (s : State) : ∃ t, execCscKeyInstall a s = .next t ∧ Kept s t := by
  refine ⟨_, rfl, ?_⟩
  repeat' first
    | with_reducible exact Kept.refl _
    | exact id
    | intro _
    | with_reducible apply State.regAccess_kept
    | with_reducible apply State.keyInstall_kept

theorem execConeBurnComplete_kept (s : State) : ∃ t, execConeBurnComplete s = .next t ∧ Kept s t := by
  refine ⟨_, rfl, ?_⟩
  repeat' first
    | with_reducible exact Kept.refl _
    | exact id
    | intro _
    | with_reducible apply State.put_kept
    | with_reducible apply State.when_kept
    | with_reducible apply State.coneBlow_kept
    | with_reducible apply State.debugWithdrawn_kept
    | with_reducible apply State.burnThen_kept
    | with_reducible apply Kept.ite
    | dsimp only
    | (split <;> (try (rename_i e; replace e := congrArg Prod.fst e; dsimp only at e; subst e)))

theorem execRegisterWrite_kept (a : Agent) (addr : PAddr) (bytes : ℕ) (data : Word) (s : State) : ∃ t, execRegisterWrite a addr bytes data s = .next t ∧ Kept s t := by
  refine ⟨_, rfl, ?_⟩
  repeat' first
    | with_reducible exact Kept.refl _
    | exact id
    | intro _
    | with_reducible apply State.busWrite_kept
    | with_reducible apply Kept.ite

theorem execHalfWriteStage_kept (a : Agent) (addr : PAddr) (data : BitVec 32) (s : State) : ∃ t, execHalfWriteStage a addr data s = .next t ∧ Kept s t := by
  refine ⟨_, rfl, ?_⟩
  repeat' first
    | with_reducible exact Kept.refl _
    | exact id
    | intro _
    | with_reducible apply State.busWrite_kept
    | with_reducible apply Kept.ite

theorem execCascadeRemoteServe_kept (fromId : ModId) (write : Bool) (addr : PAddr) (size : AccSize) (data : Word) (s : State) : ∃ t, execCascadeRemoteServe fromId write addr size data s = .next t ∧ Kept s t := by
  refine ⟨_, rfl, ?_⟩
  repeat' first
    | with_reducible exact Kept.refl _
    | exact id
    | intro _
    | with_reducible apply State.remoteServe_kept
    | with_reducible apply Kept.ite

theorem execSystemBusAccess_kept (write : Bool) (addr : PAddr) (size : AccSize) (data : Word) (s : State) : ∃ t, execSystemBusAccess write addr size data s = .next t ∧ Kept s t := by
  refine ⟨_, rfl, ?_⟩
  repeat' first
    | with_reducible exact Kept.refl _
    | exact id
    | intro _
    | with_reducible apply State.sysBus_kept

theorem execDmaRequest_kept (dev : DevId) (pasid : Option (BitVec 20)) (write : Bool) (iova : Word) (size : ℕ) (data : List Byte) (s : State) : ∃ t, execDmaRequest dev pasid write iova size data s = .next t ∧ Kept s t := by
  refine ⟨_, rfl, ?_⟩
  repeat' first
    | with_reducible exact Kept.refl _
    | exact id
    | intro _
    | with_reducible apply State.dmaRequest_kept

theorem execPcieInboundRequest_kept (write : Bool) (off : BitVec 20) (_size : ℕ) (data : List Byte) (s : State) : ∃ t, execPcieInboundRequest write off _size data s = .next t ∧ Kept s t := by
  refine ⟨_, rfl, ?_⟩
  repeat' first
    | with_reducible exact Kept.refl _
    | exact id
    | intro _
    | with_reducible apply State.pcieInbound_kept

theorem execWheelActionComplete_kept (idx : WIdx) (ok : Bool) (s : State) : ∃ t, execWheelActionComplete idx ok s = .next t ∧ Kept s t := by
  refine ⟨_, rfl, ?_⟩
  repeat' first
    | with_reducible exact Kept.refl _
    | exact id
    | intro _
    | with_reducible apply State.land_kept
    | with_reducible apply Kept.ite

theorem execEpochCommitDone_kept (c : Cluster) (s : State) : ∃ t, execEpochCommitDone c s = .next t ∧ Kept s t := by
  refine ⟨_, rfl, ?_⟩
  repeat' first
    | with_reducible exact Kept.refl _
    | exact id
    | intro _
    | with_reducible apply State.commitDone_kept

theorem execStoreBufferDrain_kept (h : Hart) (idx : ℕ) (s : State) : ∃ t, execStoreBufferDrain h idx s = .next t ∧ Kept s t := by
  refine ⟨_, rfl, ?_⟩
  repeat' first
    | with_reducible exact Kept.refl _
    | exact id
    | intro _
    | with_reducible apply State.sbLeave_kept
    | with_reducible apply Kept.ite

theorem execLoad_kept (h : Hart) (va : Word) (size : AccSize) (rd : RegIdx) (signed : Bool) (kind : LoadKind) (err : SramErr) (s : State) : ∃ t, execLoad h va size rd signed kind err s = .next t ∧ Kept s t := by
  refine ⟨_, rfl, ?_⟩
  repeat' first
    | with_reducible exact Kept.refl _
    | exact id
    | intro _
    | with_reducible apply State.instr_kept
    | with_reducible apply State.memInstr_kept
    | with_reducible apply State.load_kept
    | with_reducible apply Kept.ite

theorem execFabricLoadResponse_kept (n : TkCore) (s : State) : ∃ t, execFabricLoadResponse n s = .next t ∧ Kept s t := by
  refine ⟨_, rfl, ?_⟩
  repeat' first
    | with_reducible exact Kept.refl _
    | exact id
    | intro _
    | with_reducible apply State.fabricResponse_kept
    | with_reducible apply Kept.ite

theorem execDeviceStoreAck_kept (h : Hart) (s : State) : ∃ t, execDeviceStoreAck h s = .next t ∧ Kept s t := by
  refine ⟨_, rfl, ?_⟩
  repeat' first
    | with_reducible exact Kept.refl _
    | exact id
    | intro _
    | with_reducible apply State.deviceAck_kept
    | with_reducible apply Kept.ite

theorem execTkWriteBufferDrain_kept (n : TkCore) (s : State) : ∃ t, execTkWriteBufferDrain n s = .next t ∧ Kept s t := by
  refine ⟨_, rfl, ?_⟩
  repeat' first
    | with_reducible exact Kept.refl _
    | exact id
    | intro _
    | with_reducible apply State.wbufDrain_kept
    | with_reducible apply Kept.ite

theorem execStore_kept (h : Hart) (va : Word) (size : AccSize) (data : Word) (s : State) : ∃ t, execStore h va size data s = .next t ∧ Kept s t := by
  refine ⟨_, rfl, ?_⟩
  repeat' first
    | with_reducible exact Kept.refl _
    | exact id
    | intro _
    | with_reducible apply State.memInstr_kept
    | with_reducible apply State.store_kept

theorem execAmo_kept (h : Hart) (op : AmoOp) (va : Word) (size : AccSize) (rd : RegIdx) (src : Word) (s : State) : ∃ t, execAmo h op va size rd src s = .next t ∧ Kept s t := by
  refine ⟨_, rfl, ?_⟩
  repeat' first
    | with_reducible exact Kept.refl _
    | exact id
    | intro _
    | with_reducible apply State.memInstr_kept
    | with_reducible apply State.amo_kept

theorem execLoadReserved_kept (h : Hart) (va : Word) (size : AccSize) (rd : RegIdx) (s : State) : ∃ t, execLoadReserved h va size rd s = .next t ∧ Kept s t := by
  refine ⟨_, rfl, ?_⟩
  repeat' first
    | with_reducible exact Kept.refl _
    | exact id
    | intro _
    | with_reducible apply State.memInstr_kept
    | with_reducible apply State.loadReserved_kept

theorem execStoreConditional_kept (h : Hart) (va : Word) (size : AccSize) (rd : RegIdx) (data : Word) (s : State) : ∃ t, execStoreConditional h va size rd data s = .next t ∧ Kept s t := by
  refine ⟨_, rfl, ?_⟩
  repeat' first
    | with_reducible exact Kept.refl _
    | exact id
    | intro _
    | with_reducible apply State.memInstr_kept
    | with_reducible apply State.storeConditional_kept

theorem execCboZero_kept (h : Hart) (va : Word) (s : State) : ∃ t, execCboZero h va s = .next t ∧ Kept s t := by
  refine ⟨_, rfl, ?_⟩
  repeat' first
    | with_reducible exact Kept.refl _
    | exact id
    | intro _
    | with_reducible apply State.memInstr_kept
    | with_reducible apply State.cboZero_kept

theorem execCascadeWindowAccess_kept (a : Agent) (va : Word) (addr : PAddr) (write : Bool) (rd : RegIdx) (data : Word) (answer : RemoteAnswer) (s : State) : ∃ t, execCascadeWindowAccess a va addr write rd data answer s = .next t ∧ Kept s t := by
  refine ⟨_, rfl, ?_⟩
  repeat' first
    | with_reducible exact Kept.refl _
    | exact id
    | intro _
    | with_reducible apply State.sbEnd_kept
    | with_reducible apply State.instr_kept
    | with_reducible apply State.asCommitPoint_kept
    | with_reducible apply State.remoteAccess_kept
    | with_reducible apply Kept.ite
    | dsimp only
    | (split <;> (try (rename_i e; replace e := congrArg Prod.fst e; dsimp only at e; subst e)))

theorem execCsrAccess_kept (h : Hart) (csr : BitVec 12) (op : CsrOp) (rd : RegIdx) (src : Word) (s : State) : ∃ t, execCsrAccess h csr op rd src s = .next t ∧ Kept s t := by
  refine ⟨_, rfl, ?_⟩
  repeat' first
    | with_reducible exact Kept.refl _
    | exact id
    | intro _
    | with_reducible apply State.instr_kept
    | with_reducible apply State.csrInstr_kept

theorem execModeCsrWrite_kept (h : Hart) (csr : ModeCsr) (op : CsrOp) (rd : RegIdx) (src : Word) (s : State) : ∃ t, execModeCsrWrite h csr op rd src s = .next t ∧ Kept s t := by
  refine ⟨_, rfl, ?_⟩
  repeat' first
    | with_reducible exact Kept.refl _
    | exact id
    | intro _
    | with_reducible apply State.instr_kept
    | with_reducible apply State.csrInstr_kept
    | with_reducible apply Kept.ite

theorem execFence_kept (h : Hart) (pi : Bool) (po : Bool) (pr : Bool) (pw : Bool) (si : Bool) (so : Bool) (sr : Bool) (sw : Bool) (s : State) : ∃ t, execFence h pi po pr pw si so sr sw s = .next t ∧ Kept s t := by
  refine ⟨_, rfl, ?_⟩
  repeat' first
    | with_reducible exact Kept.refl _
    | exact id
    | intro _
    | with_reducible apply State.instr_kept
    | with_reducible apply State.fence_kept

theorem execFenceI_kept (h : Hart) (s : State) : ∃ t, execFenceI h s = .next t ∧ Kept s t := by
  refine ⟨_, rfl, ?_⟩
  repeat' first
    | with_reducible exact Kept.refl _
    | exact id
    | intro _
    | with_reducible apply State.instr_kept
    | with_reducible apply State.fenceI_kept

theorem execSfenceVma_kept (h : Hart) (kind : FenceKind) (va : Option Word) (asid : Option ℕ) (s : State) : ∃ t, execSfenceVma h kind va asid s = .next t ∧ Kept s t := by
  refine ⟨_, rfl, ?_⟩
  repeat' first
    | with_reducible exact Kept.refl _
    | exact id
    | intro _
    | with_reducible apply State.appInstr_kept
    | with_reducible apply State.sfence_kept

theorem execMret_kept (h : Hart) (s : State) : ∃ t, execMret h s = .next t ∧ Kept s t := by
  refine ⟨_, rfl, ?_⟩
  repeat' first
    | with_reducible exact Kept.refl _
    | exact id
    | intro _
    | with_reducible apply State.illegal_kept
    | with_reducible apply State.mret_kept
    | with_reducible apply State.instr_kept
    | with_reducible apply Kept.ite

theorem execSret_kept (h : Hart) (s : State) : ∃ t, execSret h s = .next t ∧ Kept s t := by
  refine ⟨_, rfl, ?_⟩
  repeat' first
    | with_reducible exact Kept.refl _
    | exact id
    | intro _
    | with_reducible apply State.exception_kept
    | with_reducible apply State.sret_kept
    | with_reducible apply State.appInstr_kept
    | with_reducible apply Kept.ite
    | dsimp only
    | (split <;> (try (rename_i e; replace e := congrArg Prod.fst e; dsimp only at e; subst e)))

theorem execWfi_kept (h : Hart) (s : State) : ∃ t, execWfi h s = .next t ∧ Kept s t := by
  refine ⟨_, rfl, ?_⟩
  repeat' first
    | with_reducible exact Kept.refl _
    | exact id
    | intro _
    | with_reducible apply State.instr_kept
    | with_reducible apply State.waitIrq_kept

theorem execTrapEntry_kept (h : Hart) (cause : Word) (tval : Word) (s : State) : ∃ t, execTrapEntry h cause tval s = .next t ∧ Kept s t := by
  refine ⟨_, rfl, ?_⟩
  repeat' first
    | with_reducible exact Kept.refl _
    | exact id
    | intro _
    | with_reducible apply State.pollHalt_kept
    | with_reducible apply State.instr_kept
    | with_reducible apply State.takeIrq_kept
    | with_reducible apply State.raiseExc_kept
    | with_reducible apply Kept.ite

theorem execVtRd_kept (h : Hart) (rd : RegIdx) (s : State) : ∃ t, execVtRd h rd s = .next t ∧ Kept s t := by
  refine ⟨_, rfl, ?_⟩
  repeat' first
    | with_reducible exact Kept.refl _
    | exact id
    | intro _
    | with_reducible apply State.xezInstr_kept
    | with_reducible apply State.vtRd_kept

theorem execVtWt_kept (h : Hart) (target : Word) (s : State) : ∃ t, execVtWt h target s = .next t ∧ Kept s t := by
  refine ⟨_, rfl, ?_⟩
  repeat' first
    | with_reducible exact Kept.refl _
    | exact id
    | intro _
    | with_reducible apply State.xezInstr_kept
    | with_reducible apply State.vtWt_kept

theorem execVtWtEnd_kept (h : Hart) (s : State) : ∃ t, execVtWtEnd h s = .next t ∧ Kept s t := by
  refine ⟨_, rfl, ?_⟩
  repeat' first
    | with_reducible exact Kept.refl _
    | exact id
    | intro _
    | with_reducible apply State.vtWtEnd_kept

theorem execVtSta_kept (h : Hart) (va : Word) (data : Word) (rd : RegIdx) (s : State) : ∃ t, execVtSta h va data rd s = .next t ∧ Kept s t := by
  refine ⟨_, rfl, ?_⟩
  repeat' first
    | with_reducible exact Kept.refl _
    | exact id
    | intro _
    | with_reducible apply State.xezInstr_kept
    | with_reducible apply State.vtSta_kept

theorem execVtStaW_kept (h : Hart) (va : Word) (data : Word) (rd : RegIdx) (s : State) : ∃ t, execVtStaW h va data rd s = .next t ∧ Kept s t := by
  refine ⟨_, rfl, ?_⟩
  repeat' first
    | with_reducible exact Kept.refl _
    | exact id
    | intro _
    | with_reducible apply State.xezInstr_kept
    | with_reducible apply State.vtSta_kept

theorem execVtEv_kept (h : Hart) (va : Word) (rd : RegIdx) (s : State) : ∃ t, execVtEv h va rd s = .next t ∧ Kept s t := by
  refine ⟨_, rfl, ?_⟩
  repeat' first
    | with_reducible exact Kept.refl _
    | exact id
    | intro _
    | with_reducible apply State.xezInstr_kept
    | with_reducible apply State.vtEv_kept

theorem execVtAbt_kept (h : Hart) (handle : BitVec 32) (rd : RegIdx) (s : State) : ∃ t, execVtAbt h handle rd s = .next t ∧ Kept s t := by
  refine ⟨_, rfl, ?_⟩
  repeat' first
    | with_reducible exact Kept.refl _
    | exact id
    | intro _
    | with_reducible apply State.xezInstr_kept
    | with_reducible apply State.vtAbt_kept

theorem execTkRunStop_kept (a : Agent) (n : TkCore) (s : State) : ∃ t, execTkRunStop a n s = .next t ∧ Kept s t := by
  refine ⟨_, rfl, ?_⟩
  repeat' first
    | with_reducible exact Kept.refl _
    | exact id
    | intro _
    | with_reducible apply State.regAccess_kept
    | with_reducible apply State.tkRun_kept

theorem execTkRunStart_kept (a : Agent) (n : TkCore) (s : State) : ∃ t, execTkRunStart a n s = .next t ∧ Kept s t := by
  refine ⟨_, rfl, ?_⟩
  repeat' first
    | with_reducible exact Kept.refl _
    | exact id
    | intro _
    | with_reducible apply State.regAccess_kept
    | with_reducible apply State.tkRun_kept

theorem execTkMultiplyResult_kept (n : TkCore) (op : MulOp) (rd : RegIdx) (x : BitVec 32) (y : BitVec 32) (s : State) : ∃ t, execTkMultiplyResult n op rd x y s = .next t ∧ Kept s t := by
  refine ⟨_, rfl, ?_⟩
  repeat' first
    | with_reducible exact Kept.refl _
    | exact id
    | intro _
    | with_reducible apply State.tkResult_kept

theorem execTkDivideResult_kept (n : TkCore) (op : DivOp) (rd : RegIdx) (x : BitVec 32) (y : BitVec 32) (s : State) : ∃ t, execTkDivideResult n op rd x y s = .next t ∧ Kept s t := by
  refine ⟨_, rfl, ?_⟩
  repeat' first
    | with_reducible exact Kept.refl _
    | exact id
    | intro _
    | with_reducible apply State.tkResult_kept

theorem execSagEnter_kept (h : Hart) (rd : RegIdx) (sag : BitVec 6) (s : State) : ∃ t, execSagEnter h rd sag s = .next t ∧ Kept s t := by
  refine ⟨_, rfl, ?_⟩
  repeat' first
    | with_reducible exact Kept.refl _
    | exact id
    | intro _
    | with_reducible apply State.appInstr_kept
    | with_reducible apply State.sagEnter_kept

theorem execSagExit_kept (h : Hart) (target : Word) (s : State) : ∃ t, execSagExit h target s = .next t ∧ Kept s t := by
  refine ⟨_, rfl, ?_⟩
  repeat' first
    | with_reducible exact Kept.refl _
    | exact id
    | intro _
    | with_reducible apply State.appInstr_kept
    | with_reducible apply State.sagExit_kept

theorem execDomainResetEnter_kept (d : DomId) (s : State) : ∃ t, execDomainResetEnter d s = .next t ∧ Kept s t := by
  refine ⟨_, rfl, ?_⟩
  repeat' first
    | with_reducible exact Kept.refl _
    | exact id
    | intro _
    | with_reducible apply State.domReset_kept

theorem execAbstractCommand_kept (h : Hart) (c : AbsCmd) (s : State) : ∃ t, execAbstractCommand h c s = .next t ∧ Kept s t := by
  refine ⟨_, rfl, ?_⟩
  repeat' first
    | with_reducible exact Kept.refl _
    | exact id
    | intro _
    | with_reducible apply State.abstract_kept

end Sys2Proof.Machine
end

