-- ==== Sys2Proof/WellFormed.lean ====
section
/-! DEFINITION. Well-formed commands: operands lie in the ranges that the environment can present. Operands whose type is already bounded
need no check. The effect of a command is defined whether or not it is well formed. -/

namespace Sys2Proof

/-- A bound on a time in 2^-16 ns: 48 bits of seconds (R71). -/
def timeBound : Nat := 2 ^ 48 * 1000000000 * 65536

/-- Median lead times of the classes 0 to 14, in ns, 16 bits each (R135). -/
def mediansOk (l : List Nat) : Bool := decide (l.length ≤ 15) && l.all (fun n => decide (n < 65536))

/-- Each bit of a line is upset at most once (R373). -/
def upsetOk (u : Upset) : Bool := decide u.Nodup

/-- An input voltage in units of 10 mV, 16 bits (R485). -/
def vinOk (vin : Nat) : Bool := decide (vin < 65536)

/-- The command is well formed. -/
def Instr.wf : Instr → Bool
  | .registerWrite _ _ bytes _ => bytes == 1 || bytes == 2 || bytes == 4 || bytes == 8
  | .halfWriteStage _ _ _ => true
  | .load _ _ _ _ _ _ _ => true
  | .store _ _ _ _ => true
  | .storeBufferDrain _ idx => decide (idx < 64)
  | .deviceStoreAck _ => true
  | .amo _ _ _ _ _ _ => true
  | .loadReserved _ _ _ _ => true
  | .storeConditional _ _ _ _ _ => true
  | .fence _ _ _ _ _ _ _ _ _ => true
  | .fenceI _ => true
  | .sfenceVma _ _ _ asid => asid.all (fun n => decide (n < 65536))
  | .cboZero _ _ => true
  | .csrAccess _ _ _ _ _ => true
  | .modeCsrWrite _ _ _ _ _ => true
  | .mret _ => true
  | .sret _ => true
  | .wfi _ => true
  | .trapEntry _ _ _ => true
  | .mtimecmpMatch _ => true
  | .stimecmpMatch _ _ => true
  | .supplyArrival vin _ => vinOk vin
  | .porstNFall => true
  | .porstNRise _ => true
  | .chipReset => true
  | .bootRomImageSelect _ _ => true
  | .bisqueApply => true
  | .dramTrainingDone _ => true
  | .bootWedgeDone => true
  | .glostStage medians => mediansOk medians
  | .fireCommit _ => true
  | .fireNwrel _ => true
  | .fireReboot _ => true
  | .fireTrialArm _ _ => true
  | .controlBlockWriteDone => true
  | .flashErase _ => true
  | .flashProgram _ => true
  | .flashOpDenied _ => true
  | .flashCmdComplete => true
  | .flashDataRead _ _ => true
  | .coneBurn _ _ _ _ => true
  | .coneBurnComplete => true
  | .burnRecordCopy _ => true
  | .vtSnap _ => true
  | .discSlew _ _ _ => true
  | .discJumpBy _ _ _ => true
  | .discJumpTo _ _ _ => true
  | .jumpTakeEffect _ => true
  | .jumpDeliveryDone _ => true
  | .slewComplete _ => true
  | .rateWordWrite _ _ _ => true
  | .discCtlWrite _ _ _ _ _ => true
  | .syncReceived _ _ _ origin => origin.all (fun o => decide (o.1 < timeBound))
  | .followUpReceived _ _ origin _ => decide (origin < timeBound)
  | .syncReceiptTimeout _ _ => true
  | .syncSend _ _ _ => true
  | .announceReceived _ _ _ => true
  | .announceReceiptTimeout _ _ => true
  | .announceSend _ _ => true
  | .pdelayReqSend _ _ => true
  | .pdelayReqReceived _ _ => true
  | .pdelayRespReceived _ _ t2 t3 => decide (t2 < timeBound) && decide (t3 < timeBound)
  | .signalingReceived _ _ _ _ _ => true
  | .tpLevelSet _ _ => true
  | .tpLevelClr _ _ => true
  | .tpGenRunStart _ _ => true
  | .tpGenRunStop _ _ => true
  | .tpGenParamWrite _ _ _ _ => true
  | .tpGenActivate _ => true
  | .tpGenDeactivate _ => true
  | .tpCaptureEdge _ _ _ _ => true
  | .tpCapRead _ _ _ => true
  | .pulseTrailingEdge _ => true
  | .vtRd _ _ => true
  | .vtWt _ _ => true
  | .vtWtEnd _ => true
  | .vtSta _ _ _ _ => true
  | .vtStaW _ _ _ _ => true
  | .vtEv _ _ _ => true
  | .vtAbt _ _ _ => true
  | .horizonAdmit _ => true
  | .wheelFireImminent _ => true
  | .calendarSweep => true
  | .wheelActionComplete _ _ => true
  | .completionRecordWrite _ => true
  | .wheelCalibrate _ => true
  | .calibrationDone medians => mediansOk medians
  | .twhInspRead _ _ => true
  | .wheelQuotaWrite _ _ quota => decide (quota < 2 ^ 17)
  | .csiPacketReceive _ _ _ data _ _ _ => decide (data.length < 65536)
  | .ethFrameReceive _ bytes _ _ _ => decide (14 ≤ bytes.length) && decide (bytes.length < 65536)
  | .canFrameReceive _ _ => true
  | .captureDescriptorWrite _ => true
  | .frameIdleClose _ => true
  | .captureWriteError _ => true
  | .capRingEnable _ _ _ => true
  | .sttWrite _ _ _ _ _ => true
  | .sttWriteZero _ _ _ _ _ => true
  | .sttInvalidate _ _ _ _ _ => true
  | .sttPlace _ _ => true
  | .sttUpdReservedOp _ _ _ => true
  | .sttUpdateComplete _ => true
  | .sttRdSnapshot _ _ => true
  | .sttProbe _ _ _ => true
  | .missqRead _ _ => true
  | .camPreset _ _ => true
  | .sliceBind _ _ => true
  | .sliceReset _ _ => true
  | .sliceUnbind _ _ => true
  | .sliceQuiet _ => true
  | .dbSubmission _ _ _ => true
  | .dlQuery _ _ => true
  | .modHoldoffExpire _ _ => true
  | .mailboxSend _ _ _ => true
  | .mailboxAck _ _ _ => true
  | .egressSelect _ _ => true
  | .frameTransmitEnd _ => true
  | .gclEntryAdvance _ => true
  | .gclChange _ _ => true
  | .gclChangeTakeEffect _ => true
  | .injDescTake _ => true
  | .injDescComplete _ => true
  | .injRingEnable _ _ => true
  | .swUnpark _ _ _ _ => true
  | .fdbWrite _ => true
  | .fdbDelete _ => true
  | .fdbRead _ => true
  | .fdbAgeExpire _ _ => true
  | .frerResetTimeout _ => true
  | .linkUp _ _ _ => true
  | .linkDown _ => true
  | .tc10SleepReq _ _ => true
  | .tc10WakeCmd _ _ => true
  | .tc10PartnerSleepReq _ => true
  | .tc10PartnerAck _ => true
  | .tc10PartnerReject _ => true
  | .tc10RequestTimeout _ => true
  | .tc10WakePulse _ => true
  | .tc10WakeTimeout _ => true
  | .podlClassify => true
  | .podlPowerArrive vin => vinOk vin
  | .bcGpioCmd _ _ _ => true
  | .bcI2cWriteCmd _ _ _ => true
  | .bcI2cReadCmd _ _ _ => true
  | .bcAck _ _ _ => true
  | .bcTimeout _ => true
  | .camLinkUp _ _ => true
  | .camLinkDown _ => true
  | .canTxDescTake _ => true
  | .canTxComplete _ sofAgo => decide (sofAgo < 10 ^ 9)
  | .canBusOff _ => true
  | .canBusoffRecovery _ => true
  | .ledgerRecordAccept _ => true
  | .ledgerSwRecord _ _ _ _ _ => true
  | .blockCloseTimer => true
  | .ledgerFlush _ => true
  | .signatureReturn _ _ _ => true
  | .signTimeout => true
  | .signRetry => true
  | .nvmeWriteComplete seq _ => decide (seq < 2 ^ 64)
  | .ledgerResume _ => true
  | .resumeReadComplete _ copies _ => copies.length == 2
  | .ledgerReinit _ => true
  | .ledgerOrderlyClose _ => true
  | .orderlyCloseDone => true
  | .replayCopy _ => true
  | .replayCheck _ => true
  | .replayCopyCheck _ => true
  | .replayDone _ _ => true
  | .tkRunStop _ _ => true
  | .tkRunStart _ _ => true
  | .tkMultiplyResult _ _ _ _ _ => true
  | .tkDivideResult _ _ _ _ _ => true
  | .fabricLoadResponse _ => true
  | .tkWriteBufferDrain _ => true
  | .lockstepDivergence _ _ _ => true
  | .lockstepRestart _ _ => true
  | .lockstepInject _ _ => true
  | .accWorldWrite _ _ _ => true
  | .sagEnter _ _ _ => true
  | .sagExit _ _ => true
  | .dmaRequest _ _ write _ size data => if write then size == data.length else data.isEmpty
  | .pcieInboundRequest write off size data => decide (off.toNat + (if write then data.length else size) ≤ 2 ^ 20)
  | .aplicSourceChange _ => true
  | .msiWrite _ _ _ => true
  | .localMsg _ _ _ => true
  | .localClaim _ _ _ => true
  | .cascadeWindowAccess _ _ _ _ _ _ _ => true
  | .cascadeRemoteServe _ _ _ _ _ => true
  | .readShared _ _ => true
  | .readUnique _ _ _ _ => true
  | .upgrade _ _ => true
  | .writeback _ _ => true
  | .evictNotice _ _ => true
  | .stashHint _ _ _ _ _ => true
  | .snpShared _ _ => true
  | .snpOnce _ _ => true
  | .snpInvalid _ _ => true
  | .snoopResponse _ _ => true
  | .stashFill _ _ => true
  | .coherentResponse _ => true
  | .nackRetry _ _ => true
  | .reservationWindowExpire _ => true
  | .holdTimeExpire _ _ => true
  | .dirInspect _ _ => true
  | .slcRetire _ _ => true
  | .l2WayRetire _ _ _ => true
  | .dirWayRetire _ _ => true
  | .retirementDone => true
  | .arbSlotBoundary => true
  | .arbRequest _ => true
  | .arbRequestDrop _ => true
  | .arbSwap _ => true
  | .dramRead _ _ upset => upsetOk upset
  | .dramWrite _ _ _ _ upset => upsetOk upset
  | .wedgeCmd _ => true
  | .wedgeTestCmd _ fails => decide fails.Nodup
  | .wedgeReservedOp _ => true
  | .wedgeDone => true
  | .scrubRead upset => upsetOk upset
  | .sherdPop _ => true
  | .sherdHeadRead _ _ => true
  | .crazingDecay => true
  | .crazingClear _ => true
  | .pageRemap _ _ => true
  | .remapDone => true
  | .watermarkChange _ _ _ => true
  | .watermarkRaiseDone => true
  | .handoverRequest _ _ _ => true
  | .handoverWithdraw _ _ => true
  | .handoverGrant _ => true
  | .handoverRefuse _ => true
  | .quiesceEnd _ _ => true
  | .blockResetComplete _ _ => true
  | .handoverReassign _ _ => true
  | .pmConsentGrant _ => true
  | .pmConsentRefuse _ => true
  | .swdKick _ _ _ => true
  | .swdWarn _ => true
  | .swdClass0Expire => true
  | .swdClass1Expire => true
  | .domainResetEnter _ => true
  | .lockAcquire _ _ => true
  | .lockRelease _ _ => true
  | .epochTimerCommit _ => true
  | .epochCommitCmd _ _ => true
  | .epochCommitDone _ => true
  | .epochOutputRefused _ idx status => decide (idx < 256) && status != .ok
  | .epochRollbackCmd _ _ => true
  | .epochRollbackDone _ => true
  | .epochResume _ _ => true
  | .inputSwitchover _ vin => vinOk vin
  | .vsupOutOfRange _ vin => vinOk vin
  | .vsupRangeStable vin => vinOk vin
  | .modeRequest _ _ _ => true
  | .governorPowerSample _ => true
  | .keepEntry => true
  | .sleepEntry => true
  | .keepExit => true
  | .domainPowerDownReq _ _ _ => true
  | .domainPowerUpReq _ _ _ => true
  | .blockClockGate _ _ _ => true
  | .blockClockUngate _ _ _ => true
  | .domainPllLock _ => true
  | .domainWedgeDone _ => true
  | .domainIsolated _ => true
  | .corePowerReq _ _ _ => true
  | .corePowerTransition _ => true
  | .apcClockStep _ => true
  | .aotAlarmFire => true
  | .aotRateLearn _ => true
  | .wakeEvent _ => true
  | .wakeSwRequest _ => true
  | .dipStart vin => vinOk vin
  | .dipEnd => true
  | .supplyBelowReset vin => vinOk vin
  | .holdupEnd => true
  | .resetRecovery => true
  | .aonDropout => true
  | .haltRequest _ => true
  | .resumeRequest _ => true
  | .abstractCommand _ _ => true
  | .systemBusAccess _ _ _ _ => true
  | .xtrgPulse _ _ => true
  | .dapLockRelease _ _ => true
  | .cwdKick _ _ => true
  | .cwdExpire _ => true
  | .debugAttach => true
  | .debugDetach => true
  | .pmuCounterWrite _ _ _ _ _ => true
  | .pmuSnapRead _ _ => true
  | .bwWindowEnd => true
  | .bwWindowRestart _ _ => true
  | .bwClearPeak _ => true
  | .heartbeatSend => true
  | .heartbeatReceive _ _ => true
  | .moduleAbsent _ => true
  | .cascadeListenEnd => true
  | .cascadeLinkUp _ _ _ => true
  | .cascadeLinkDown _ => true
  | .cascadeLinkRetrain _ _ _ => true
  | .cascadePdelayMeasure _ _ => true
  | .cscKeyInstall _ => true
  | .forwardRuleValid _ _ => true
  | .forwardedUnitReceive _ => true
  | .cascadeMbxSend _ _ _ => true
  | .cascadeMbxDeliver _ _ => true
  | .timeClockTick _ => true
  | .alwaysOnEdge => true
  | .inputAboveRestore vin => vinOk vin
  | .pcieLinkUp => true
  | .pcieLinkDown => true
  | .canBusError _ _ _ => true

end Sys2Proof
end

