-- ==== Sys2Proof/Tests/Slice0.lean ====
section
/-! SUPPORT. Witnesses: for the hypotheses of each statement a concrete state and operands that meet them together, clause by clause,
at boundary values. With them the smoke test of `WellFormed` and a few checks of values that the specification gives. -/

namespace Sys2Proof.Tests

set_option Elab.async false

open Sys2Proof Sys2Proof.Machine

/-- A domain that is powered, out of reset and behind an open fence. -/
def domUp : DomainSt := ⟨.on, false, true, false⟩

/-- A core that runs. -/
def hartUp : HartSt := { HartSt.init with running := true }

/-- The module after boot: every domain up, every core running in M-mode of the secure world, the normal world released. -/
def up : State :=
  State.put { State.reset with
    boot := { BootSt.init with imageRunning := true, trained := true, bisqued := true }
    power := { PowerSt.init with doms := (List.range 7).map (fun d => (d + 1, domUp)), sup := { SupplySt.init with supplied := true } }
    dbgm := { DebugSt.init with active := true }
    cpu := { CpuSt.init with harts := (List.range 13).map (fun h => (h, hartUp)) } } FIRE_STATUS_STAGE 3

/-- The sender of most witnesses: application core 0. -/
def ac0 : Agent := .hart 0

/-- `up` with a field written. -/
def upW (l : List (Fld × Nat)) : State := l.foldl (fun s p => s.put p.1 p.2) up

def quietB (s : State) (h : Nat) : Bool :=
  h < 13 && !tabGet (fun _ => false) s.dbgm.haltReq h && !bitAt (s.csr h csrDcsr) 2 && (s.hart h).csr.all (fun p => p.1 < 0x10000)

def readyB (s : State) (h : Nat) : Bool := quietB s h && s.hartFree h && !s.tkIrqDue h && !s.commitDue h

theorem tabGet_out {α : Type} (d : Nat → α) (t : Tab α) (k : Nat) (h : ∀ p ∈ t, p.1 ≠ k) : tabGet d t k = d k := by
  induction t with
  | nil => rfl
  | cons p t ih =>
    obtain ⟨j, v⟩ := p
    have hj : j ≠ k := h (j, v) (by simp)
    simp only [tabGet, if_neg hj]
    exact ih (fun q hq => h q (by simp [hq]))

theorem quiet_of {s : State} {h : Nat} (w : quietB s h = true) : s.Quiet h := by
  simp only [quietB, Bool.and_eq_true, decide_eq_true_eq, Bool.not_eq_true', List.all_eq_true] at w
  obtain ⟨⟨⟨hh, h1⟩, h2⟩, h3⟩ := w
  refine ⟨h1, h2, fun i p => ?_⟩
  have e : s.csr h (trigCsr i 1) = 15 * 2 ^ (hartXlen h - 4) := by
    unfold State.csr
    rw [tabGet_out _ _ _ (fun q hq => by have := h3 q hq; simp only [trigCsr]; omega)]
    have e1 : ∀ c, c < 0x10000 → (trigCsr i 1 == c) = false := by intro c hc; simp only [trigCsr, beq_eq_false_iff_ne]; omega
    have e2 : trigCsr i 1 % 16 = 1 := by simp only [trigCsr]; omega
    have e3 : 0x10000 ≤ trigCsr i 1 := by simp only [trigCsr]; omega
    simp [csrDflt, e1, e2, e3]
  have n : s.trigOn h i = false := by
    unfold State.trigOn
    rw [e]
    have : 15 * 2 ^ (hartXlen h - 4) / 2 ^ (hartXlen h - 4) = 15 := Nat.mul_div_cancel _ (by positivity)
    rw [this]
    unfold trigType
    split <;> try split
    all_goals decide
  simp [State.trigMode, n]

theorem ready_of {s : State} {h : Nat} (w : readyB s h = true) : s.Ready h := by
  simp only [readyB, Bool.and_eq_true, Bool.not_eq_true'] at w
  exact ⟨quiet_of w.1.1.1, w.1.1.2, w.1.2, w.2⟩

def upB : State := { upW [(SUP_STATUS_VIN, 1000), (⟨CONE_KEYPROG 0, 0, 64⟩, 0x96a5b8206504c378), (⟨CONE_KEYPROG 1, 0, 64⟩, 0x6b40ba2b7e10dd09), (⟨CONE_KEYPROG 2, 0, 64⟩, 0x271f8735b3777c8f), (⟨CONE_KEYPROG 3, 0, 64⟩, 0xb6f7fe979e4b7392), (⟨CONE_KEYPROG 4, 0, 64⟩, 0x4bf6db7bd4111f5b), (⟨CONE_KEYPROG 5, 0, 64⟩, 0xa57dc3d74d6f18d9)] with boot := { up.boot with fuses := { FuseSt.blank with steps := [(0, 16)] } } }

theorem witness_cone_burn_is_judged :
    (up.Reached ac0 true CONE_BURN 4) ∧
    (upB.get SUP_LEVELS_WARN ≤ upB.get SUP_STATUS_VIN) ∧
    (upB.Reached ac0 true CONE_BURN 4) ∧
    ((upB.coneSteps 0 = 16)) ∧
    (coneMax 0 = 16) ∧
    ((upB.keyProg = upB.runningKeyHash)) ∧
    (upB.boot.imageRunning = true) := by decide +kernel

def upBurn : State := { up with boot := { up.boot with burn := some ⟨4, 0, .software⟩ } }

def upRec : State := { up with boot := { up.boot with fuses := { FuseSt.blank with record := List.replicate 128 ⟨0, 0, 0, 1, false, false⟩ } } }

def upFl (a : Nat) : State := { upW [(FIRE_FL_CMD_BUSY, 1)] with boot := { up.boot with flashCmd := some ⟨1, a, 0⟩, flash := [(a, 0)] } }

theorem witness_burns_and_flash_complete :
    ((upBurn.boot.burn = some ⟨4, 0, .software⟩)) ∧
    ((upRec.boot.fuses.record[(127 : Fin 128).val]? = some ⟨0, 0, 0, 1, false, false⟩)) ∧
    (upRec.runs HST 2 = true) ∧
    (upRec.ldg.closed = none) ∧
    (upRec.ldg.gasp = false) ∧
    (64 < ldgFree upRec.ldg) ∧
    (up.Reached ac0 true FIRE_FL_CMD 4) ∧
    (up.on FIRE_FL_CMD_BUSY = false) ∧
    (((upFl 0x100000).outOfReset AON = true)) ∧
    ((upFl 0x100000).touchesRunning 0x100000 0x110000 = true) ∧
    (((upFl 0x3FFFFF8).touchesRunning 0x3FF0000 0x4000000 = false)) ∧
    (up.Reached ac0 false FIRE_FL_DATA 8) ∧
    (up.debugRead ac0 = false) := by decide +kernel

def blankTot : Tab Byte := [(0x10000C, 64), (0x10000D, 0), (0x10000E, 0), (0x10000F, 0), (0x20000C, 64), (0x20000D, 0), (0x20000E, 0), (0x20000F, 0)]

def booting (f : BootSt → BootSt) : State := { up with boot := f { BootSt.init with booting := true, flash := blankTot } }

theorem witness_boot_advances_stage_by_stage :
    (State.reset.power.sup.supplied = false) ∧
    (State.reset.power.porst = true) ∧
    (up.power.porst = true) := by decide +kernel

def porLow : State := { up with power := { up.power with porst := false, riseCause := 1 } }

theorem witness_boot_advances_stage_by_stage_2 :
    (porLow.power.porst = false) ∧
    (porLow.power.sup.supplied = true) := by decide +kernel

def waitR : State := { up with boot := { up.boot with resetWait := some 2 } }

theorem witness_boot_advances_stage_by_stage_3 :
    (waitR.boot.resetWait = some 2) ∧
    (waitR.outOfReset AON = true) ∧
    (waitR.boot.burn = none) ∧
    (waitR.ldg.closing = none) ∧
    ((booting id).boot.booting = true) ∧
    ((booting id).boot.imageRunning = false) ∧
    ((booting id).fenceOpen SEC = true) := by decide +kernel

def running : State := booting (fun b => { b with imageRunning := true })

theorem witness_boot_advances_stage_by_stage_4 :
    (running.boot.booting = true) ∧
    (running.boot.imageRunning = true) ∧
    (running.boot.bisqued = false) := by decide +kernel

def bisqued : State := booting (fun b => { b with imageRunning := true, bisqued := true })

theorem witness_boot_advances_stage_by_stage_5 :
    (bisqued.boot.booting = true) ∧
    (bisqued.boot.bisqued = true) ∧
    (bisqued.boot.trained = false) := by decide +kernel

def trained : State := booting (fun b => { b with imageRunning := true, bisqued := true, trained := true })

theorem witness_boot_advances_stage_by_stage_6 :
    (trained.boot.booting = true) ∧
    (trained.boot.trained = true) ∧
    (trained.on FIRE_STATUS_STRUCT_LOCK = false) := by decide +kernel

def locked : State := trained.put FIRE_STATUS_STRUCT_LOCK 1

theorem witness_boot_advances_stage_by_stage_7 :
    (locked.boot.booting = true) ∧
    (locked.on FIRE_STATUS_STRUCT_LOCK = true) := by decide +kernel

def upTot : State := { up with boot := { up.boot with flash := blankTot } }

theorem witness_fire_control_completes :
    (up.boot.ctlDone = []) := by decide +kernel

def cbw (c : Bool) : State := { up with boot := { up.boot with cbWrite := some ⟨0, 1, 0, 0, 0, c⟩, ctlBusy := true } }

theorem witness_fire_control_completes_2 :
    (up.Reached ac0 true FIRE_CTL 4) ∧
    (up.boot.ctlBusy = false) ∧
    (up.boot.cbWrite = none) ∧
    (up.boot.imageRunning = true) ∧
    (¬ up.coneSteps 1 < up.get FIRE_STATUS_ROLLBACK) ∧
    ((upW [(FIRE_STATUS_STAGE, 2)]).Reached ac0 true FIRE_CTL 4) ∧
    ((upW [(FIRE_STATUS_STAGE, 2)]).get FIRE_STATUS_STAGE = 2) ∧
    ((upW [(FIRE_STATUS_STAGE, 2)]).boot.ctlDone = []) ∧
    ((cbw true).boot.cbWrite = some ⟨0, 1, 0, 0, 0, true⟩) ∧
    ((cbw true).outOfReset AON = true) ∧
    ((cbw true).boot.ctlQueue = []) ∧
    ((cbw false).Reached ac0 true FIRE_CTL 4) ∧
    ((cbw false).boot.ctlBusy = true) := by decide +kernel

def disc (l : List (Fld × Nat)) : State := { upW ([(VT_CTL_DOMEN, 7), (DISC_CTL_MODE 3, 1)] ++ l) with time := { TimeSt.init with doms := [(3, { DomSt.init with acc := 2 ^ 50 })] } }

theorem witness_step_requests_are_judged :
    ((disc []).Reached ac0 true (DISC_GO 3) 4) := by decide +kernel

theorem witness_rate_word_is_clamped :
    ((disc []).Reached ac0 true (DISC_RATE 3) 8) ∧
    ((disc []).on (DISC_CTL_MODE 3) = true) ∧
    (up.on (DISC_CTL_MODE 0) = false) ∧
    (up.Reached ac0 true (DISC_RATE 0) 8) := by decide +kernel

def timed (l : List (Fld × Nat)) : State := { upW ([(VT_CTL_DOMEN, 7), (VT_STATUS_STATE 0, 1), (VT_STATUS_STATE 3, 1)] ++ l) with time := { TimeSt.init with doms := [(0, { DomSt.init with acc := 2 ^ 80 + 7 }), (3, { DomSt.init with acc := 2 ^ 50 })] } }

theorem witness_vehicle_time_counts :
    ((timed []).timeRuns = true) ∧
    ((timed []).domEnabled 3 = true) ∧
    (((timed []).tdom 3).slew = 0) ∧
    (((timed [(VT_CTL_DOMEN, 3)]).domEnabled 3 = false)) ∧
    ((timed []).Reached ac0 true VT_CTL 4) ∧
    ((timed [(DISC_STATUS_SLEWING 3, 1)]).on (DISC_STATUS_SLEWING 3) = true) := by decide +kernel

def deliv (j : List Jump) : State := { timed [(DISC_STATUS_BUSY 3, 1)] with time := { TimeSt.init with doms := [(3, { DomSt.init with delivering := true, jumps := j })] } }

theorem witness_vehicle_time_counts_2 :
    (((deliv []).tdom 3).delivering = true) ∧
    (((deliv [⟨none, 0, 0⟩]).tdom 3).delivering = true) ∧
    ((timed []).Reached ac0 true (DISC_CTL 3) 4) ∧
    ((timed [(DISC_CTL_MODE 3, 1)]).on (DISC_CTL_MODE 3) = true) := by decide +kernel

def vec : PrioVec := ⟨1, 1, 1, 1, 1, 1, 254⟩

def ptp (l : List (Fld × Nat)) : State := upW ([(VT_CTL_DOMEN, 7), (PTP_P_CFG_DMASK 0, 8), (PTP_P_CFG_ROLE 0, 2)] ++ l)

def heard (l : List (Fld × Nat)) : State := { ptp l with time := { TimeSt.init with announce := [(3, some vec)], doms := [(3, { DomSt.init with sync := some (5, 0) })] } }

def asGm (l : List (Fld × Nat)) : State := { ptp l with time := { TimeSt.init with doms := [(3, { DomSt.init with isGm := true, acc := 2^60 })] } }

theorem witness_gptp_messages_complete :
    ((ptp []).dnDomain (3 : BitVec 7).toNat = some 3) ∧
    ((ptp []).ptpUp = true) ∧
    ((0 : PtpPort).val ∈ (ptp []).domPorts 3) ∧
    ((ptp []).extPorts 3 = false) ∧
    ((heard []).vtOn = true) ∧
    ((heard []).extPorts 3 = false) ∧
    (((heard []).announceOf 0 3).isSome = true) ∧
    ((heard [(PTP_P_STATE_STATE 0 3, 1)]).ptpUp = true) ∧
    ((heard [(PTP_P_STATE_STATE 0 3, 1)]).get (PTP_P_STATE_STATE 0 3) = 1) ∧
    ((heard [(PTP_P_STATE_STATE 0 3, 1)]).extPorts 3 = false) ∧
    ((asGm [(PTP_P_STATE_STATE 0 3, 1)]).ptpUp = true) ∧
    ((asGm [(PTP_P_STATE_STATE 0 3, 1)]).get (PTP_P_STATE_STATE 0 3) = 1) ∧
    (((asGm []).tdom 3).isGm = true) ∧
    ((ptp []).pdPort (0 : PtpPort).val = true) := by decide +kernel

def askd : State := { ptp [] with time := { TimeSt.init with pdReq := [(0, some 9)], doms := [(3, { DomSt.init with acc := 2 ^ 60 })] } }

theorem witness_gptp_messages_complete_2 :
    (tabGet (fun _ => none) askd.time.pdReq (0 : PtpPort).val = some 9) ∧
    (askd.pdPort (0 : PtpPort).val = true) ∧
    ((125 : BitVec 7).toNat < 126) ∧
    ((heard [(PTP_P_STATE_STATE 0 3, 2)]).dnDomain (3 : BitVec 7).toNat = some 3) ∧
    ((heard [(PTP_P_STATE_STATE 0 3, 2)]).ptpUp = true) ∧
    ((heard [(PTP_P_STATE_STATE 0 3, 2)]).get (PTP_P_STATE_STATE 0 3) = 2) ∧
    (((heard []).tdom 3).sync = some (5, (0 : PtpPort).val)) ∧
    ((heard [(PTP_P_STATE_STATE 0 3, 2), (VT_STATUS_STATE 3, 3)]).vtOn = true) ∧
    ((heard [(PTP_P_STATE_STATE 0 3, 2), (VT_STATUS_STATE 3, 3)]).get (PTP_P_STATE_STATE 0 3) = 2) ∧
    ((heard []).on (DISC_CTL_MODE 3) = false) ∧
    ((heard [(VT_STATUS_STATE 3, 3)]).syncState 3 = 3) := by decide +kernel

def pinned (l : List (Fld × Nat)) (p : PinSt) : State := { upW l with time := { TimeSt.init with pins := [(15, p)], doms := [(0, { DomSt.init with acc := 2^40 * 1000 })] } }

def gen : List (Fld × Nat) := [(TP_GEN_PERIOD_NS 15, 8), (TP_GEN_WIDTH_NS 15, 7), (TP_GEN_ANCHOR_VT 15, 3)]

theorem witness_time_pins_complete :
    (up.Reached ac0 true (TP_CFG 15) 4) ∧
    (((pinned [] { PinSt.init with active := true, pulse := some 3 }).pin 15).pulse = some 3) ∧
    ((pinned gen .init).Reached ac0 true (TP_GEN_CTL 15) 4) ∧
    ((pinned gen .init).on (TP_GEN_CTL_RUN 15) = false) ∧
    (up.Reached ac0 true (genField 15 .anchor).reg 8) ∧
    (up.Reached ac0 true (genField 15 .width).reg 4) := by decide +kernel

def genRun : State := pinned (gen ++ [(TP_GEN_CTL_RUN 15, 1), (TP_GEN_CTL_ACTIVE 15, 1), (TP_CFG_FUNC 15, 1), (TP_CFG_SRC 15, 1)]) { PinSt.init with genNext := 1000 }

theorem witness_time_pins_complete_2 :
    (genRun.vtOn = true) ∧
    (genRun.clocked TKD 1 = true) ∧
    (genRun.on (TP_GEN_CTL_RUN 15) = true) ∧
    (genRun.get (TP_CFG_FUNC 15) = 1) ∧
    ((genRun.pin 15).genNext ≤ genRun.vt (genRun.get (TP_CFG_DOM 15))) ∧
    (genRun.on (TP_GEN_CTL_ACTIVE 15) = true) := by decide +kernel

def stored : State := pinned [] { PinSt.init with fifo := [⟨⟨7, 0, 0, 0⟩, true, false⟩, ⟨⟨8, 0, 0, 0⟩, true, false⟩] }

theorem witness_time_pins_complete_3 :
    (stored.Reached ac0 false (TP_CAP 15) 8) ∧
    (stored.debugRead ac0 = false) ∧
    ((stored.pin 15).fifo = ⟨⟨7, 0, 0, 0⟩, true, false⟩ :: [⟨⟨8, 0, 0, 0⟩, true, false⟩]) := by decide +kernel

theorem witness_announce : vec.steps < 255 ∧ { vec with gm := Config.eui % 2 ^ 64 + 1 }.gm ≠ Config.eui % 2 ^ 64 := ⟨by decide, by simp only; omega⟩

def wst (e : WEntry) (l : List (Fld × Nat)) : State := { upW l with wheel := { WheelSt.init with entries := [(65535, e)], live := [65535], freshS := 32768, freshN := 32768, nextSeq := 1 }, time := { TimeSt.init with doms := [(0, { DomSt.init with acc := 2 ^ 40 * 5000000 })] } }

def wArm (time : Nat) : WEntry := { WEntry.init with state := .armed, time := time, action := 3 }

theorem witness_wheel_entries_move :
    (((wst (wArm 6000000) []).went 65535).state = .armed) ∧
    (((wst (wArm 6000000) []).went 65535).reserved = none) ∧
    ((wst (wArm 6000000) []).entryDue ((wst (wArm 6000000) []).went 65535) = false) ∧
    ((wst (wArm 6000000) []).horizonFits 65535 = true) ∧
    ((wst (wArm 6000000) []).wheel.live.length ≤ 64) ∧
    ((wst (wArm 6000001) []).entryDue ((wst (wArm 6000001) []).went 65535) = false) ∧
    ((wst (wArm 6000001) []).horizonFits 65535 = false) := by decide +kernel

def wImm : State := wst { wArm 5000000 with state := .imminent } []

theorem witness_wheel_entries_move_2 :
    (wImm.clocked TKD 2 = true) ∧
    ((wImm.dueOrder (fun e => e.state == .imminent)).head? = some (65535 : WIdx).val) ∧
    ((wImm.went 65535).action = 3) ∧
    (((wst (wArm 4999999) []).dueOrder (fun e => e.state == .armed) = [65535])) ∧
    (((wst (wArm 4999999) []).went 65535).action = 3) := by decide +kernel

def wFired : State := wst { wArm 5000000 with state := .fired } []

theorem witness_wheel_entries_move_3 :
    (wFired.clocked TKD 2 = true) ∧
    ((wFired.went 65535).state = .fired) ∧
    ((wFired.went 65535).action = 3) := by decide +kernel

def wDone (l : List (Fld × Nat)) : State := wst { wArm 5000000 with state := .done, notify := true, gen := 0x7FFF } l

theorem witness_wheel_entries_move_4 :
    (((wDone []).went 65535).state = .done) ∧
    ((wDone []).on (ringEn (wOwner ((wDone []).went 65535))) = false) := by decide +kernel

def wRing (head : Nat) : List (Fld × Nat) := [(TWH_W_RING_CFG_EN 0, 1), (TWH_W_RING_CFG_LOG2 0, 4), (TWH_W_RING_TAIL_TAIL 0, 15), (TWH_W_RING_HEAD_HEAD 0, head), (⟨TWH_W_RING_BASE 0, 0, 64⟩, 0x10000000)]

theorem witness_wheel_entries_move_5 :
    ((wDone (wRing 1)).on (ringEn (wOwner ((wDone (wRing 1)).went 65535))) = true) ∧
    ((wDone (wRing 1)).ringFull (wOwner ((wDone (wRing 1)).went 65535)) = false) ∧
    ((wDone (wRing 1)).dataVerdict .secure .write (0x10000000 + 16 * 15) = .ok) ∧
    ((wDone (wRing 0)).ringFull (wOwner ((wDone (wRing 0)).went 65535)) = true) := by decide +kernel

def jmp (delivering : Bool) (j : List Jump) : State := { timed [] with time := { TimeSt.init with doms := [(3, { DomSt.init with acc := 2 ^ 50, delivering := delivering, jumps := j })] } }

theorem witness_jumps_take_effect_in_turn :
    ((jmp true [⟨none, 1, 0⟩]).vtOn = true) ∧
    (((jmp true [⟨none, 1, 0⟩]).tdom 3).jumps = ⟨none, 1, 0⟩ :: []) ∧
    (((jmp true [⟨none, 1, 0⟩]).tdom 3).delivering = true) ∧
    (((jmp false [⟨none, 1, 0⟩]).tdom 3).delivering = false) ∧
    (jumpTarget ((jmp false [⟨none, 1, 0⟩]).tdom 3).acc ⟨none, 1, 0⟩ = some (2 ^ 50 + 1)) ∧
    (jumpTarget ((jmp false [⟨none, -2 ^ 60, 0⟩]).tdom 3).acc ⟨none, -2 ^ 60, 0⟩ = none) := by decide +kernel

theorem witness_wheel_registers_complete :
    (up.Reached ac0 true TWH_CTL 4) ∧
    ((upW [(TWH_CTL_CALBUSY, 1)]).on TWH_CTL_CALBUSY = true) ∧
    (up.classPresent 0 = true) ∧
    (up.classPresent 13 = false) ∧
    ([65535][0]? = some 65535) := by decide +kernel

def parted : State := upW [(TWH_PART_SECURE, 65536), (TWH_S_QUOTA_QUOTA 63, 1)]

theorem witness_wheel_registers_complete_2 :
    (parted.Reached ac0 true (TWH_S_QUOTA 0) 4) ∧
    (parted.partSize parted.sliceOwner - parted.quotasBut 0 = 65535) ∧
    (up.Reached ac0 false (TWH_INSP 0) 8) ∧
    (up.debugRead ac0 = false) := by decide +kernel

def camKey : Nat := 7 + 8 * 15 + 128 * 63

def camEntry : Nat := 1 + 2 ^ 16 * camKey

def sttOld : Nat := 2 ^ 8 * 255 + 2 ^ 64 * 0xFFFFFFFF

def cap0 (l : List (Fld × Nat)) (c : CapSt) : State := { upW ([(STT_PART_FIRST 63, 262136), (STT_PART_COUNT 63, 8), (STT_STEER_CSI_STEER 31 3, 0x80 + 63), (⟨STT_UPD_DATA 3 0, 0, 64⟩, camEntry)] ++ l) with cap := c }

def stt0 : State := cap0 [] { CapSt.init with stt := [(262143, sttOld)] }

theorem witness_stream_table_updates_complete :
    (up.Reached ac0 true (STT_UPD_CMD 3) 8) ∧
    ((upW [(STT_UPD_RES_BUSY 3, 1)]).on (STT_UPD_RES_BUSY 3) = true) ∧
    (4 < (5 : BitVec 3).toNat) ∧
    (stt0.on (STT_UPD_RES_BUSY 3) = false) ∧
    ((255 : BitVec 8).toNat = sttGen (stt0.stt 262143)) ∧
    (stt0.sttSlice 262143 = some 63) ∧
    ((let v := sttFields (stt0.staged256 3); entryOk v = true ∧ sttValid v = true ∧ stt0.bucket 63 (sttKind v) (sttKey v) = some 262136 ∧ 262143 < 262136 + 8 ∧ stt0.sttFind 63 (sttKind v) (sttKey v) = none ∧ stt0.steer (sttKind v) (sttKey v) = some 63)) ∧
    (sttValid (stt0.stt (262136 + 0)) = false) := by decide +kernel

def held (p : Nat) : State := cap0 [(STT_UPD_RES_BUSY 3, 1), (CAP_PRESET_RES_BUSY, 1)] { CapSt.init with upd := [(p, some (255, 262143, 255))] }

theorem witness_stream_table_updates_complete_2 :
    (tabGet (fun _ => none) (held 3).cap.upd (3 : Fin 5).val = some (255, 262143, 255)) ∧
    (tabGet (fun _ => none) (held 4).cap.upd (4 : Fin 5).val = some (255, 262143, 255)) ∧
    (up.Reached ac0 true CAP_CAM_PRESET 8) ∧
    ((0x80000000 : Word).toNat.testBit 31 = true) ∧
    (up.on CAP_PRESET_RES_BUSY = false) ∧
    ((held 4).on CAP_PRESET_RES_BUSY = true) ∧
    (up.Reached ac0 false (STT_RD 0) 8) ∧
    (up.debugRead ac0 = false) := by decide +kernel

def found : State := cap0 [] { CapSt.init with stt := [(262143, camEntry)] }

theorem witness_stream_table_updates_complete_3 :
    (up.Reached ac0 true STT_PROBE 8) ∧
    (found.steer 0 camKey = some 63) ∧
    (found.sttFind 63 0 camKey = some 262143) := by decide +kernel

def missed : State := cap0 [] { CapSt.init with missq := [⟨0, 5, none⟩, ⟨1, 6, some 3⟩] }

theorem witness_stream_table_updates_complete_4 :
    (up.Reached ac0 false STT_MISSQ 8) ∧
    (missed.cap.missq = ⟨0, 5, none⟩ :: [⟨1, 6, some 3⟩]) := by decide +kernel

def camUp (l : List (Fld × Nat)) : State := upW ([(CAM_LINK_UP 7, 1), (CAP_CTL_EN, 1), (STT_MISSQ_CTL_EN, 1)] ++ l)

theorem witness_capture_frames_complete :
    ((camUp []).on (CAM_LINK_UP (7 : Fin 8).val) = true) ∧
    ((camUp []).capOn = true) ∧
    ((camUp []).clocked SNS (0x10 + 7) = true) := by decide +kernel

def quietSns : State := { camUp [] with power := { (camUp []).power with doms := (camUp []).power.doms.map (fun p => if p.1 == HST then (p.1, { p.2 with fence := false }) else p) } }

theorem witness_capture_frames_complete_2 :
    (quietSns.capOn = true) ∧
    (quietSns.on (CAM_LINK_UP 7) = true) ∧
    (quietSns.clocked SNS (0x10 + 7) = true) ∧
    (quietSns.hovClosed SNS (0x10 + 7) = false) ∧
    (quietSns.opens SNS (0x10 + 7) = true) ∧
    (quietSns.opens HST 3 = false) ∧
    (16 ≤ (16 : BitVec 6).toNat) ∧
    (quietSns.openFrame 0 (7 + 8 * 15 + 128 * 16) = none) ∧
    (quietSns.steer 0 (7 + 8 * 15 + 128 * 16) = none) ∧
    (quietSns.on STT_MISSQ_CTL_EN = true) ∧
    (quietSns.cap.missq.length < 16) := by decide +kernel

def ctx1 : FrameCtx := ⟨262143, 63, 7, camEntry, ⟨1, 2, 3, 1⟩, 0x10000000, 5, 6, true, 0, 0, 0, false⟩

def framed : State := { camUp [(CAP_CTL_IDLE_MS, 1)] with cap := { CapSt.init with ctx := [ctx1] } }

theorem witness_capture_frames_complete_3 :
    (framed.get CAP_CTL_IDLE_MS ≠ 0) ∧
    (framed.cap.ctx = [ctx1]) ∧
    (ctx1.stream = (262143 : StreamIdx).toNat) ∧
    (ctx1.discard = false) := by decide +kernel

def desc1 : PendDesc := ⟨262143, 63, 7, camEntry, ⟨1, 2, 3, 1⟩, 0x10000000, 5, 6, true, true, 4, 0⟩

def descd : State := { camUp [(CAP_RING_CFG_EN 63 7, 1), (CAP_RING_CFG_DLOG2 63 7, 4), (⟨CAP_DRING_BASE 63 7, 0, 64⟩, 0x10000000)] with cap := { CapSt.init with descs := [desc1], ctx := [ctx1] } }

theorem witness_capture_frames_complete_4 :
    (descd.cap.descs.find? (fun d => d.stream == (262143 : StreamIdx).toNat) = some desc1) ∧
    (descd.on (CAP_RING_CFG_EN 63 7) = true) ∧
    (up.Reached ac0 true (CAP_RING_CFG 63 7) 4) ∧
    (up.on (CAP_RING_CFG_EN 63 7) = false) := by decide +kernel

def sl (l : List (Fld × Nat)) (v : SliceSt) : State := { upW l with slices := [(63, v)] }

theorem witness_slices_and_mailboxes_complete :
    (up.Reached ac0 true (CSL_CMD 63) 4) ∧
    (up.get (CSL_STAT_STATE 63) = 0) ∧
    (up.keyOverlaps 63 (up.sliceKey 63) = false) := by decide +kernel

def bound : State := sl [(CSL_STAT_STATE 63, 1), (CAP_RING_CFG_EN 63 7, 1), (CSL_STAT_STATE 5, 0)] { SliceSt.init with key := some (.secure, 0, 0, false) }

theorem witness_slices_and_mailboxes_complete_2 :
    (bound.keyOverlaps 5 (bound.sliceKey 5) = true) ∧
    (bound.get (CSL_STAT_STATE 63) = 1) := by decide +kernel

def resetting (u : Bool) : State := sl [(CSL_STAT_STATE 63, 2)] ⟨some (.secure, 1, 2, true), u, []⟩

theorem witness_slices_and_mailboxes_complete_3 :
    ((resetting true).sliceResetting 63 = true) ∧
    ((resetting true).get (TWH_S_USED_USED 63) = 0) ∧
    ((resetting false).sliceResetting 63 = true) := by decide +kernel

def inS (l : List (Fld × Nat)) : State := { sl ([(CSL_STAT_STATE 63, 1), (CAP_RING_CFG_EN 63 7, 1), (CAP_RING_CFG_BLOG2 63 7, 4), (CSL_SHARE_DEPTH 63, 13), (CAP_BRING_HEAD_HEAD 63 7, 1), (CAP_BRING_TAIL_TAIL 63 7, 1)] ++ l) ⟨some (.secure, 0, 0, false), false, []⟩ with cpu := { CpuSt.init with harts := [(0, { hartUp with priv := .s })] } }

theorem witness_slices_and_mailboxes_complete_4 :
    (((inS []).hart 0).running = true) ∧
    ((inS []).fenceOpen SNS = true) ∧
    ((inS []).hartSlice 0 = some 63) ∧
    ((inS []).sliceResetting 63 = false) ∧
    ((inS []).on (CAP_RING_CFG_EN 63 7) = true) ∧
    ((inS []).on (CAP_RING_CFG_STOPPED 63 7) = false) ∧
    ((inS []).ringUsed 63 7 + 14 < 2 ^ 4 - 1) ∧
    ((inS []).get (CAP_RING_CFG_BLOG2 63 7) = 4) ∧
    ((inS []).outstanding 63 + 13 ≤ (inS []).get (CSL_SHARE_DEPTH 63)) ∧
    ((inS []).get (CSL_SHARE_DEPTH 63) < (inS []).outstanding 63 + 14) ∧
    (up.hartSlice 0 = none) ∧
    ((up.hart 0).running = true) := by decide +kernel

def mbx (l : List (Fld × Nat)) : State := upW ([(CSL_STAT_STATE 63, 1), (MBX_MSTAT_NEXTSEQ 63, 65535), (MBX_MTX_WORD 63 7, 9)] ++ l)

theorem witness_slices_and_mailboxes_complete_5 :
    ((mbx []).Reached ac0 true (MBX_MCMD 63) 4) ∧
    ((mbx []).get (CSL_STAT_STATE 63) = 1) ∧
    ((mbx []).on (MBX_MSTAT_PEND 63) = false) ∧
    ((65535 : BitVec 16).toNat = (mbx []).get (MBX_MSTAT_NEXTSEQ 63)) := by decide +kernel

def rxd : State := mbx [(MBX_MRXSEQ_VALID 63, 1), (MBX_MRXSEQ_SEQ 63, 7), (DB_TX_STAT_PEND 63, 1)]

theorem witness_slices_and_mailboxes_complete_6 :
    (rxd.Reached ac0 true (MBX_MACK 63) 4) ∧
    (rxd.on (MBX_MRXSEQ_VALID 63) = true) ∧
    (rxd.get (MBX_MRXSEQ_SEQ 63) = (7 : BitVec 16).toNat) ∧
    (up.on (MBX_MRXSEQ_VALID 63) = false) := by decide +kernel

def modd : State := sl [(CSL_STAT_STATE 63, 1), (CSL_MOD_HOLDOFF 63, 1)] ⟨none, false, [(7, 1)]⟩

theorem witness_slices_and_mailboxes_complete_7 :
    (modd.get (CSL_MOD_HOLDOFF 63) ≠ 0) ∧
    (tabGet (fun _ => 0) (modd.slice 63).mod 7 ≠ 0) ∧
    (modd.sliceResetting 63 = false) := by decide +kernel

def qf : QFrame := ⟨List.replicate 60 0, 64, none, false, false, 0⟩

def net (q : List (Nat × List QFrame)) (tx : Tab (Option TxFrame)) (l : List (Fld × Nat)) : State := { upW ([(PORT_CFG_EN 15, 1), (PORT_STATUS_LINK 15, 1), (PORT_CFG_EN 14, 1), (PORT_STATUS_LINK 14, 1)] ++ l) with sw := { SwSt.init with queues := q, tx := tx } }

def n1 : State := net [(8 * 15 + 6, [qf, qf]), (8 * 15 + 0, [qf])] [] []

theorem witness_egress_and_gates_complete :
    (n1.portUp (15 : EthPort).val = true) ∧
    (n1.txOf 15 = none) ∧
    (n1.hovBusy NET (0x10 + 15) = false) ∧
    ((∀ k ∈ n1.sw.released, k.parked.port ≠ 15)) ∧
    (n1.queue 15 6 = qf :: [qf]) ∧
    ((n1.creditUp 15).eligible 15 6 = true) ∧
    ((n1.creditUp 15).eligible 15 7 = false) := by decide +kernel

def txd (i : Option InjRef) : State := net [] [(15, some ⟨{ qf with inj := i }, 6, ⟨1, 2, 3, 1⟩, none⟩)] []

theorem witness_egress_and_gates_complete_2 :
    ((txd none).txOf 15 = some ⟨{ qf with inj := none }, 6, ⟨1, 2, 3, 1⟩, none⟩) ∧
    ((txd (some ⟨7, 0x100, 5⟩)).txOf 15 = some ⟨{ qf with inj := some ⟨7, 0x100, 5⟩ }, 6, ⟨1, 2, 3, 1⟩, none⟩) ∧
    (up.opens NET (0x10 + 16) = true) := by decide +kernel

def gcl (l : List (Fld × Nat)) : State := { upW ([(PORT_GCL_CTL_LEN 16, 1), (PORT_GCL_CYCLE_NS 16, 32), (PORT_GCL_BASE_VT 16, 5), (PORT_GCL_ADMINENT_ENTRY 16 0, 32 * 256 + 255)] ++ l) with time := { TimeSt.init with doms := [(0, { DomSt.init with acc := 2 ^ 40 * 1000000 })] } }

theorem witness_egress_and_gates_complete_3 :
    ((gcl []).Reached ac0 true (PORT_GCL_CTL 16) 4) ∧
    ((gcl []).get (PORT_GCL_CTL_LEN 16) = 1) ∧
    ((gcl []).get (PORT_GCL_CYCLE_NS 16) = 32) ∧
    (32 ≤ (gcl []).get (PORT_GCL_ADMINENT_ENTRY 16 0) / 256) ∧
    ((gcl []).domEnabled 0 = true) ∧
    ((gcl []).on (PORT_GCL_CTL_PENDING 16) = false) ∧
    ((gcl [(PORT_GCL_ADMINENT_ENTRY 16 0, 31 * 256)]).get (PORT_GCL_ADMINENT_ENTRY 16 0) / 256 < 32) ∧
    ((gcl [(PORT_GCL_CTL_DOM 16, 3)]).domEnabled 3 = false) := by decide +kernel

def gclP : State := { gcl [(PORT_GCL_CTL_PENDING 16, 1)] with sw := { SwSt.init with gcl := [(16, ⟨0, 0, 1000000, 1, some (1000000, 3, 0, 5, 32, 1)⟩)] } }

theorem witness_egress_and_gates_complete_4 :
    (gclP.opens NET (0x10 + 16) = true) ∧
    ((gclP.gcl 16).pend = some (1000000, 3, 0, 5, 32, 1)) ∧
    (1000000 ≤ gclP.vt 0) := by decide +kernel

def fe (m v p : Nat) (st : Bool) : FdbEntry := ⟨m, v, p, st, 0⟩

def swK (l : List (Fld × Nat)) (f : List FdbEntry) : State := { upW ([(SW_FDB_KEY_MAC, 2 ^ 48 - 1), (SW_FDB_KEY_VID, 4095), (SW_FDB_DATA_VALID, 1), (SW_FDB_DATA_STATIC, 1), (SW_FDB_DATA_PORTS, 2 ^ 19 - 1)] ++ l) with sw := { SwSt.init with fdb := f } }

theorem witness_switch_commands_complete :
    ((swK [] []).Reached ac0 true SW_FDB_CMD 4) ∧
    ((swK [] []).on SW_FDB_DATA_VALID = true) ∧
    ((swK [(SW_FDB_DATA_VALID, 0)] []).on SW_FDB_DATA_VALID = false) := by decide +kernel

def aged : State := { swK [(SW_CTL_AGE_S, 1)] [⟨2 ^ 48 - 1, 4095, 1, false, 0⟩] with ticks := 250000000 }

theorem witness_switch_commands_complete_2 :
    (aged.fdbFind (2 ^ 48 - 1) 4095 = some ⟨2 ^ 48 - 1, 4095, 1, false, 0⟩) ∧
    (aged.opens NET 0 = true) ∧
    (250000000 * aged.get SW_CTL_AGE_S ≤ aged.ticks - 0) := by decide +kernel

def frr : State := { upW [(SW_FRER_MATCH_VALID 63, 1), (SW_FRER_MATCH_RCV 63, 1)] with sw := { SwSt.init with frer := [(63, ⟨0, some 65535, 1⟩)] } }

theorem witness_switch_commands_complete_3 :
    (frr.opens NET 0 = true) ∧
    (frr.on (SW_FRER_MATCH_VALID 63) = true) ∧
    (frr.on (SW_FRER_MATCH_RCV 63) = true) ∧
    ((frr.frer 63).recov.isSome = true) := by decide +kernel

def bcast : List Byte := List.replicate 6 0xFF ++ List.replicate 6 0 ++ [8, 0] ++ List.replicate 46 0

def ports (l : List (Fld × Nat)) : State := upW ([(PORT_CFG_EN 15, 1), (PORT_STATUS_LINK 15, 1), (PORT_CFG_EN 14, 1), (PORT_STATUS_LINK 14, 1)] ++ l)

theorem witness_switch_commands_complete_4 :
    ((ports []).portUp 15 = true) ∧
    ((ports [(PORT_CFG_MAXFRAME 15, 63)]).get (PORT_CFG_MAXFRAME 15) < bcast.length + 4) ∧
    ((let s := ports [(PORT_VLAN_PVID 15, 5)]; s.portUp 15 = true ∧ bitAt (s.vlanData (s.get (PORT_VLAN_PVID 15))) 15 = false)) := by decide +kernel

def portsQ : State := { ports [] with power := quietSns.power }

theorem witness_switch_commands_complete_5 :
    ((let s := portsQ; let vid := s.get (PORT_VLAN_PVID 15); let q := bitsOf (s.get (PORT_PCPMAP_MAP 15)) (3 * s.get (PORT_VLAN_DEFPCP 15)) 3; let out := s.egressBytes 14 ⟨some 15, bcast, vid, s.get (PORT_VLAN_DEFPCP 15), q, false, false, none⟩; s.portUp 15 = true ∧ bcast.length + 4 ≤ s.get (PORT_CFG_MAXFRAME 15) ∧ ethType bcast ≠ 0x88F7 ∧ ptpInUdp bcast = false ∧ ethTagged bcast = false ∧ bitAt (s.vlanData vid) 15 = true ∧ s.capOn = false ∧ s.opens HST 3 = false ∧ s.frerOf vid (ethDst bcast) = none ∧ bitAt (ethDst bcast) 40 = true ∧ ethDst bcast / 16 ≠ 0x0180C200000 ∧ putBits (Nat.land (Nat.land (s.vlanData vid) (2 ^ 19 - 1)) s.enabledPorts) 15 1 0 = 2 ^ 14 ∧ s.on (PORT_STATUS_LINK 14) = true ∧ s.get (PORT_STATUS_TC10 14) ≠ 2 ∧ wireLen out ≤ s.maxSdu 14 q ∧ (s.admits 14 q ⟨out, wireLen out, none, false, false, 0⟩).isSome = true)) ∧
    (up.Reached ac0 true (SW_INJ_CFG 7) 4) ∧
    (up.on (SW_INJ_CFG_EN 7) = false) := by decide +kernel

def mems (l : List (Fld × Nat)) (a : Nat) (bs : List Byte) : State := { upW l with mem := { MemSt.init with bytes := (bs.zipIdx.filter (fun p => p.1 != 0)).map (fun p => (a + p.2, p.1)) } }

def injD : Nat := 0x10001000 + 2 ^ 64 * 60 + 2 ^ 80 * 18 + 2 ^ 85 * 7 + 2 ^ 88 + 2 ^ 89 + 2 ^ 96 * 65535

def inj : State := mems [(⟨ioDdtp, 0, 64⟩, 1), (PORT_CFG_EN 18, 1), (PORT_STATUS_LINK 18, 1), (SW_INJ_CFG_EN 7, 1), (SW_INJ_CFG_LOG2 7, 4), (SW_INJ_TAIL_TAIL 7, 3), (SW_INJ_HEAD_HEAD 7, 15), (⟨SW_INJ_BASE 7, 0, 64⟩, 0x10000000)] 0x100001E0 (leBytes 32 injD)

def injRef : InjRef := ⟨7, 0x100001E0, injD⟩

theorem witness_switch_commands_complete_6 :
    ((inj.injFetch 7).2 = some injRef) ∧
    ((inj.injFetch 7).1.injJudge injRef.desc = .ok) ∧
    (((inj.injFetch 7).1.injBuf injRef).2 = some (List.replicate 60 0)) ∧
    (bitsOf injRef.desc 80 5 < 19) ∧
    (bitAt injRef.desc 88 = true) ∧
    ((((inj.injFetch 7).1.injBuf injRef).1.admits 18 7 ⟨List.replicate 60 0, wireLen (List.replicate 60 0), some injRef, false, false, 0⟩).isSome = true) := by decide +kernel

def injDn : State := { inj with sw := { SwSt.init with done := [⟨injRef, .ok, false, none⟩] } }

theorem witness_switch_commands_complete_7 :
    (injDn.sw.done.find? (fun d => d.ref.ring == (7 : Fin 8).val) = some ⟨injRef, .ok, false, none⟩) ∧
    (injDn.opens NET 0 = true) := by decide +kernel

def prk : Parked := ⟨18, 7, 65535, qf⟩

def parkd : State := { inj with sw := { SwSt.init with parked := [prk] } }

theorem witness_switch_commands_complete_8 :
    (parkd.Reached ac0 true SW_UNPARK 4) ∧
    (parkd.sw.parked.find? (fun k => k.port == (18 : BitVec 5).toNat && k.queue == (7 : BitVec 3).toNat && k.tag == (65535 : BitVec 16).toNat) = some prk) ∧
    (up.sw.parked.find? (fun k => k.port == (18 : BitVec 5).toNat && k.queue == (7 : BitVec 3).toNat && k.tag == (65535 : BitVec 16).toNat) = none) := by decide +kernel

def lk (p tc up_ : Nat) : State := upW [(PORT_CFG_EN p, 1), (PORT_STATUS_LINK p, up_), (PORT_STATUS_TC10 p, tc)]

theorem witness_links_sleep_and_wake :
    ((lk 16 0 0).tc10On 16 = true) ∧
    ((lk 16 0 0).on (PORT_STATUS_LINK 16) = false) ∧
    ((lk 16 0 0).get (PORT_STATUS_TC10 16) ≠ 2) ∧
    (((lk 3 0 0).put (PORT_CFG_ANEG 3) 0).on (PORT_CFG_ANEG 3) = false) ∧
    ((lk 16 0 1).fenceOpen NET = true) ∧
    ((lk 16 0 1).on (PORT_STATUS_LINK 16) = true) ∧
    ((lk 15 0 1).Reached ac0 true (PORT_TC10 15) 4) ∧
    ((lk 15 0 1).tc10On 15 = true) ∧
    ((lk 15 0 1).get (PORT_STATUS_TC10 15) = 0) ∧
    ((lk 15 1 1).get (PORT_STATUS_TC10 15) = 1) ∧
    ((lk 15 1 1).tc10On 15 = true) ∧
    ((lk 15 2 0).get (PORT_STATUS_TC10 15) = 2) ∧
    ((lk 15 2 0).tc10On 15 = true) ∧
    ((lk 15 3 0).tc10On 15 = true) ∧
    ((lk 15 3 0).get (PORT_STATUS_TC10 15) = 3) := by decide +kernel

def bcs (l : List BcCmd) (u : Nat) : State := { upW [(CAM_LINK_UP 7, u), (CAM_BC_RES_BUSY 7, 1), (CAM_BC_CFG_DEPTH 7, l.length)] with sw := { SwSt.init with bc := [(7, l)] } }

def bcQ : BcCmd := ⟨true, true, 4, 5, none⟩

def bcG : Word := 0x800000000000FFFF

def bcW : Word := 0x9100000000000001

def bcR : Word := 0x9300000000000001

theorem witness_back_channel_and_can :
    ((bcs [] 1).Reached ac0 true (CAM_BC_CMD 7) 8) ∧
    (bcG.toNat.testBit 63 = true) ∧
    (bcG.toNat.testBit 56 = false) ∧
    (bcG.toNat.testBit 57 = false) ∧
    (bcOk bcG.toNat = true) ∧
    ((bcs (List.replicate 15 bcQ) 1).on (CAM_LINK_UP 7) = true) ∧
    ((bcs (List.replicate 15 bcQ) 1).hovBusy SNS (0x10 + 7) = false) ∧
    (((bcs (List.replicate 15 bcQ) 1).bc 7).length < 16) ∧
    (16 ≤ ((bcs (List.replicate 16 bcQ) 1).bc 7).length) ∧
    (bcOk bcW.toNat = true) ∧
    (bcW.toNat.testBit 56 = true) ∧
    (bcW.toNat.testBit 57 = false) ∧
    (bcOk 0x8200000000000001 = false) ∧
    ((0x8200000000000001 : Word).toNat.testBit 57 = true) ∧
    ((bcs [] 0).on (CAM_LINK_UP 7) = false) ∧
    ((bcs [bcQ, bcQ] 1).opens SNS (0x10 + 7) = true) ∧
    ((bcs [bcQ, bcQ] 1).bc 7 = bcQ :: [bcQ]) ∧
    (bcQ.entry = none) := by decide +kernel

theorem witness_back_channel_and_can_2 :
    (up.fenceOpen SNS = true) ∧
    (1 ≤ (5 : BitVec 3).toNat) ∧
    ((5 : BitVec 3).toNat ≤ 5) ∧
    ((bcs [bcQ] 1).on (CAM_LINK_UP 7) = true) := by decide +kernel

def can (l : List (Fld × Nat)) : State := mems ([(CAN_CFG_EN 1, 1), (STT_MISSQ_CTL_EN, 1), (CAP_CTL_EN, 1), (⟨ioDdtp, 0, 64⟩, 1), (CAN_TX_CFG_LOG2 1, 4), (CAN_TX_CFG_EN 1, 1), (CAN_TX_TAIL_TAIL 1, 1), (⟨CAN_TX_BASE 1, 0, 64⟩, 0x10000000)] ++ l) 0x10000000 (leBytes 32 (0x10001000 + 2 ^ 64 * 16 + 2 ^ 89))

def canF : CanFrame := ⟨1, 0x1FFFFFFF, true, false, false, false, false, 15, 0, 0, 0, []⟩

def canR : InjRef := ⟨9, 0x10000000, 0x10001000 + 2 ^ 64 * 16 + 2 ^ 89⟩

theorem witness_back_channel_and_can_3 :
    ((can []).canOn 1 = true) ∧
    (canF.fmt.val ≠ 2) ∧
    ((can []).capOn = true) ∧
    ((can []).steer 2 (canKey 1 canF) = none) ∧
    ((can []).on STT_MISSQ_CTL_EN = true) ∧
    ((can []).cap.missq.length < 16) ∧
    ((can []).on (CAN_CFG_LISTEN 1) = false) ∧
    (tabGet (fun _ => none) (can []).sw.canTx 1 = none) ∧
    (((can []).injFetch 9).2 = some canR) ∧
    (bitsOf canR.desc 80 8 = 0) ∧
    (bitAt canR.desc 88 = false) ∧
    (bitsOf canR.desc 96 16 = 0) ∧
    ((((can []).injFetch 9).1.injBuf canR).2 = some (List.replicate 16 0)) := by decide +kernel

def canB : State := { can [] with sw := { SwSt.init with canTx := [(1, some ⟨canR, List.replicate 16 0⟩)] } }

theorem witness_back_channel_and_can_4 :
    (canB.canOn 1 = true) := by decide +kernel

def canO : State := can [(CAN_STATUS_STATE 1, 2), (CAN_CFG_AUTO_RECOVER 1, 1), (CAN_STATUS_TEC 1, 255)]

theorem witness_back_channel_and_can_5 :
    (canO.opens NET (2 + 1) = true) ∧
    (canO.get (CAN_STATUS_STATE 1) = 2) ∧
    (canO.on (CAN_CFG_AUTO_RECOVER 1) = true) := by decide +kernel

def rec1 : Rec := ⟨1, 0, 0, 0, false, false, 0x80, 48, 0, 0, 0⟩

def blk (seq : Nat) (l : List Rec) : LBlock := ⟨magicBlock, false, false, false, false, false, seq, 0, 0, 0, l⟩

def ldg (l : List (Fld × Nat)) (f : LdgSt → LdgSt) : State := { upW l with ldg := f { LdgSt.init with opened := some (blk 5 (List.replicate 61 rec1)), ringlen := 64 }, pcieLink := true }

def fullL (l : LdgSt) : LdgSt := { l with staged := (List.range 255).map (fun i => blk i []), opened := some (blk 255 (List.replicate 62 rec1)) }

theorem witness_ledger_engine_completes :
    ((ldg [] id).runs HST 2 = true) ∧
    ((ldg [] id).ldg.gasp = false) ∧
    ((ldg [] id).ldg.closed = none) ∧
    ((ldg [] id).ldg.gap = none) ∧
    ((ldg [] id).ldg.opened = some (blk 5 (List.replicate 61 rec1))) ∧
    (ldgRoom (ldg [] id).ldg rec1.typ = true) ∧
    (ldgRoom (ldg [] fullL).ldg rec1.typ = false) ∧
    ((ldg [] fullL).ldg.gap = none) ∧
    (up.Reached ac0 true (LDG_W_CMD (worldNum .secure)) 8) ∧
    (up.on (LDG_W_RES_BUSY (worldNum .secure)) = false) ∧
    ((127 : BitVec 8).toNat < 0x80) ∧
    (48 < (49 : BitVec 6).toNat) ∧
    (64 < ldgFree (ldg [] id).ldg) ∧
    (0x80 ≤ (128 : BitVec 8).toNat) ∧
    ((48 : BitVec 6).toNat ≤ 48) ∧
    (ldgFree (ldg [] fullL).ldg ≤ 64) ∧
    ((ldg [] id).Reached ac0 true LDG_CTL 4) ∧
    ((ldg [(LDG_CTL_CLOSE_MS, 1)] id).get LDG_CTL_CLOSE_MS ≠ 0) := by decide +kernel

def closingL (c : Option (Nat × Nat)) : State := ldg [] (fun l => { l with closing := some .powerDown, closed := c })

theorem witness_ledger_engine_completes_2 :
    ((closingL none).ldg.closing = some .powerDown) ∧
    ((closingL none).ldg.closed = none) ∧
    ((closingL (some (1, 0))).ldg.closed.isSome = true) := by decide +kernel

def signing : State := ldg [(LDG_STATUS_SIGUNAVAIL, 1)] (fun l => { l with signReq := some (2 ^ 64 - 1, true) })

theorem witness_ledger_engine_completes_3 :
    (signing.ldg.signReq = some (2 ^ 64 - 1, true)) ∧
    (signing.runs HST 2 = true) ∧
    (signing.ldg.closed = none) ∧
    (signing.ldg.gasp = false) ∧
    (3 ≤ ldgFree signing.ldg) ∧
    (signing.ldg.signDue = none) := by decide +kernel

def unsig : State := ldg [(LDG_STATUS_SIGUNAVAIL, 1)] id

theorem witness_ledger_engine_completes_4 :
    (unsig.on LDG_STATUS_SIGUNAVAIL = true) ∧
    (unsig.ldg.signReq = none) ∧
    ((blk 5 (List.replicate 61 rec1)).seq ≠ 0) := by decide +kernel

def nvm (f : Nat) : State := ldg [(LDG_STATUS_STATE, 2)] (fun l => { l with staged := [blk 4 []], outstanding := [4], fails := if f = 0 then [] else [(4, f)] })

theorem witness_ledger_engine_completes_5 :
    ((nvm 0).runs HST 2 = true) ∧
    (4 ∈ (nvm 0).ldg.outstanding) ∧
    ((nvm 0).pcieLink = true) ∧
    ((nvm 0).ldg.gap = none) ∧
    (tabGet (fun _ => 0) (nvm 2).ldg.fails 4 < 3) ∧
    (3 ≤ tabGet (fun _ => 0) (nvm 3).ldg.fails 4) ∧
    (up.on LDG_CTL_EN = false) := by decide +kernel

def resm (l : List (Fld × Nat)) : State := ldg l (fun x => { x with resuming := true })

theorem witness_ledger_engine_completes_6 :
    ((resm []).runs HST 2 = true) ∧
    ((resm []).ldg.resuming = true) ∧
    ((resm []).pcieLink = true) ∧
    ((resm [(LDG_RING_LBAS, 65), (LDG_NS_LBADS, 12)]).get LDG_RING_LBAS < 66) ∧
    ((resm [(LDG_RING_LBAS, 66), (LDG_NS_LBADS, 12)]).get LDG_NS_LBADS = 12) ∧
    (66 ≤ (resm [(LDG_RING_LBAS, 66), (LDG_NS_LBADS, 12)]).get LDG_RING_LBAS) ∧
    (bestCopy [] = none) := by decide +kernel

def rpl (l : List (Fld × Nat)) : State := ldg l (fun x => { x with staged := [blk 5 []], opened := some (blk 6 []) })

theorem witness_ledger_engine_completes_7 :
    ((rpl []).Reached ac0 true LDG_RPL_CMD 4) ∧
    ((rpl []).on LDG_RPL_RES_BUSY = false) ∧
    ((rpl [(LDG_RPL_COUNT_COUNT, 5)]).get LDG_RPL_COUNT_COUNT = (ldgNext (rpl []).ldg).1) ∧
    ((rpl [(LDG_RPL_COUNT_COUNT, 5)]).rd LDG_RPL_FIRST = 0) := by decide +kernel

def rply (op : Nat) : State := ldg [(LDG_RPL_RES_BUSY, 1)] (fun x => { x with replay := some op })

theorem witness_ledger_engine_completes_8 :
    ((rply 3).ldg.replay = some 3) ∧
    ((rply 3).runs HST 2 = true) ∧
    (up.fenceOpen HST = true) := by decide +kernel

theorem witness_memory_commands_complete :
    (up.runs MEM 1 = true) := by decide +kernel

def arb (o : Nat) (m : MemSt → MemSt) : State := { upW [(⟨ARB_ACTIVE 0, 0, 8⟩, o)] with mem := m MemSt.init }

theorem witness_memory_commands_complete_2 :
    ((arb 10 id).portPresent (10 : ArbPort).val = true) ∧
    ((arb 10 id).requesting 10 = false) ∧
    ((arb 10 id).mem.grant = none) ∧
    ((arb 10 id).curOwner = 10) ∧
    ((arb 10 (fun m => { m with grant := some ⟨3, true⟩ })).mem.grant = some ⟨3, true⟩) ∧
    ((arb 10 (fun m => { m with grant := some ⟨3, false⟩ })).mem.grant = some ⟨3, false⟩) ∧
    (up.Reached ac0 true ARB_CTL 4) := by decide +kernel

def lineA : LineNo := BitVec.ofNat _ (dramBase / 64)

def lineZ : LineNo := BitVec.ofNat _ (dramEnd / 64 - 1)

theorem witness_memory_commands_complete_3 :
    (up.outOfReset MEM = true) ∧
    (lineCoherent lineA.toNat = true) ∧
    (lineCoherent lineZ.toNat = true) ∧
    (up.wedgeWaits lineZ.toNat = false) ∧
    (up.synd lineZ.toNat = 0) := by decide +kernel

def lineOld : State := { up with mem := { MemSt.init with bytes := [(dramBase - 1, 9), (dramBase, 8), (dramBase + 64, 7)], synd := [(dramBase, 5)] } }

theorem witness_memory_commands_complete_4 :
    (lineOld.on DMC_INJ_ARM = false) ∧
    (up.runs MEM 0 = true) ∧
    ((upW [(DMC_SCRUB_HOURS, 1)]).get DMC_SCRUB_HOURS ≠ 0) := by decide +kernel

def wdg (b n busy : Nat) : State := upW [(WDG_BASE_BASE, b), (WDG_LEN_PAGES, n), (WDG_RES_BUSY, busy)]

theorem witness_memory_commands_complete_5 :
    ((wdg (dramEnd / 4096 - 1) 1 0).Reached ac0 true WDG_CMD 4) ∧
    ((wdg (dramEnd / 4096 - 1) 1 0).on WDG_RES_BUSY = false) ∧
    (4096 * (wdg (dramEnd / 4096 - 1) 1 0).get WDG_BASE_BASE + 4096 = dramEnd) ∧
    ((wdg (dramEnd / 4096 - 1) 1 0).wedgeAllowed .secure (dramEnd - 4096) dramEnd = true) ∧
    (dramEnd < 4096 * (wdg (dramEnd / 4096 - 1) 2 0).get WDG_BASE_BASE + 4096 * (wdg (dramEnd / 4096 - 1) 2 0).get WDG_LEN_PAGES) ∧
    ((wdg 0 0 1).on WDG_RES_BUSY = true) := by decide +kernel

def shE (a : Nat) : SherdEntry := ⟨a, 0, 0, .secure, false, false, 4, .denied, 0, 0, a, 0, 0, true⟩

def shd (l : List SherdEntry) : State := { upW [(SHD_STAT_COUNT, l.length)] with mem := { MemSt.init with sherd := l } }

theorem witness_memory_commands_complete_6 :
    ((shd [shE 1, shE 2]).Reached ac0 true SHD_POP 4) ∧
    ((shd [shE 1, shE 2]).mem.sherd.length ≤ 4096) ∧
    (up.Reached ac0 false (SHD_HEAD 0) 8) ∧
    (up.debugRead ac0 = false) ∧
    ((shd [shE 1, shE 2]).mem.sherd = shE 1 :: [shE 2]) := by decide +kernel

def crz : State := { upW [(SHD_CRZ_IDX_INDEX, 255), (SHD_CRZ_CFG_DECAY_H, 1)] with mem := { MemSt.init with craze := [(0, some ⟨1, 1, 1, 5, true, 0, 0⟩), (255, some ⟨1, 1, 2, 65535, true, 0, 0⟩)] } }

theorem witness_memory_commands_complete_7 :
    (crz.Reached ac0 true SHD_CRZ_CNT 4) ∧
    (crz.runs MEM 3 = true) ∧
    (crz.get SHD_CRZ_CFG_DECAY_H ≠ 0) := by decide +kernel

def rmp (u : Nat) : State := upW [(DMC_REMAP_RES_USED, u)]

def pgZ : BitVec 32 := BitVec.ofNat 32 (dramEnd / 4096 - 1)

theorem witness_memory_commands_complete_8 :
    (up.Reached ac0 true DMC_REMAP_CMD 8) ∧
    (up.on DMC_REMAP_RES_BUSY = false) ∧
    (dramBase ≤ 4096 * pgZ.toNat) ∧
    (4096 * pgZ.toNat < dramEnd) ∧
    (up.agentWorld ac0 = .secure) ∧
    ((rmp 1023).get DMC_REMAP_RES_USED < 1024) ∧
    (1024 ≤ (rmp 1024).get DMC_REMAP_RES_USED) := by decide +kernel

def rmpD : State := { upW [(DMC_REMAP_RES_BUSY, 1)] with mem := { MemSt.init with remap := some pgZ.toNat } }

theorem witness_memory_commands_complete_9 :
    (rmpD.mem.remap = some pgZ.toNat) ∧
    (rmpD.runs MEM 0 = true) := by decide +kernel

def coh (f : CpuSt → CpuSt) : State := { up with cpu := f up.cpu }

def lnA : Nat := dramBase / 64

def rq7 : Requester := .core 7

def rq6 : Requester := .dev 6

def tx (r : Nat) (k : CohKind) (sn : List (Nat × SnpKind)) (an : List (Nat × SnpAnswer)) (resp : Bool) : Txn := ⟨r, k, sn, [], an, none, 0, 0, none, resp⟩

def dirT (t : Option Txn) (sh : Nat) (l2 : Tab (Option L2Line)) : State := coh (fun c => { c with dir := [(lnA, ⟨sh, none, t, 0, 0⟩)], l2 := l2 })

theorem witness_coherence_commands_complete :
    (up.reqOf (.core 7) = 7) ∧
    (up.reqLive 7 = true) ∧
    (up.fenceOpen MEM = true) ∧
    ((up.dirAt lineA.toNat).txn = none) ∧
    (up.resvFirst lineA.toNat = none) ∧
    (up.l2 7 lineA.toNat = none) ∧
    (((up.coreCount 7 33).dirAlloc (reqMem 7 .secure) lineA.toNat).isSome = true) ∧
    (up.reqOf (.dev 6) = 14) ∧
    (up.reqLive 14 = true) ∧
    (((dirT none 3 []).dirAt lineA.toNat).sharers ≠ 0) ∧
    (((dirT (some (tx 1 .readShared [] [] true)) 3 []).dirAt lineA.toNat).txn.isSome = true) ∧
    (up.outOfReset APC = true) ∧
    (up.l2 (up.l2Of 7) lineA.toNat = none) ∧
    ((up.dirAlloc (reqMem (up.l2Of 7) .secure) lineA.toNat).isSome = true) := by decide +kernel

def l2k (c : Nat) (v : L2Line) : Tab (Option L2Line) := [(c * 2 ^ 38 + lnA, some v)]

def lv (st : Mesi) (h : Bool) : L2Line := ⟨st, 77, false, 3, h, 1⟩

def snoop (k : SnpKind) (st : Mesi) : State := dirT (some (tx 1 .readShared [(7, k)] [] false)) 0 (l2k 7 (lv st false))

theorem witness_coherence_commands_complete_2 :
    (((snoop .shared .e).dirAt lineA.toNat).txn = some (tx 1 .readShared [(7, .shared)] [] false)) ∧
    ((snoop .shared .e).l2Of 7 = 7) ∧
    ((snoop .shared .e).l2 7 lineA.toNat = some (lv .e false)) ∧
    ((snoop .shared .e).uncommitted (clusterOf 7) lineA.toNat = false) := by decide +kernel

def doneR : State := dirT (some (tx 5 .readShared [] [] false)) 0 []

theorem witness_coherence_commands_complete_3 :
    (txnReady (tx 5 .readShared [] [] false) = true) ∧
    ((doneR.dirAt lineA.toNat).txn = some (tx 5 .readShared [] [] false)) ∧
    ((doneR.dirAt lineA.toNat).owner = none) ∧
    ((doneR.dirAt lineA.toNat).sharers = 0) := by decide +kernel

def stsh : State := dirT (some (tx 14 (.stash 7) [] [] true)) 0 []

theorem witness_coherence_commands_complete_4 :
    ((stsh.dirAt lineA.toNat).txn = some (tx 14 (.stash 7) [] [] true)) := by decide +kernel

def nck : State := coh (fun c => { c with nacks := [⟨14, lnA, .write, 1, 2, 1⟩] })

theorem witness_coherence_commands_complete_5 :
    (nck.cpu.nacks.find? (fun k => k.req == nck.reqOf (.dev 6) && k.line == lineA.toNat) = some ⟨14, lnA, .write, 1, 2, 1⟩) ∧
    ((nck.dirAt lineA.toNat).txn = none) := by decide +kernel

def own (st : Mesi) (h : Bool) : State := coh (fun c => { c with dir := [(lnA, ⟨0, some 7, none, 0, 0⟩)], l2 := l2k 7 (lv st h) })

theorem witness_coherence_commands_complete_6 :
    ((own .m false).l2 ((own .m false).l2Of 7) lineA.toNat = some (lv .m false)) ∧
    (((own .m false).dirAt lineA.toNat).txn = none) := by decide +kernel

def rsv : State := coh (fun c => { c with resvq := [(homeSlice lnA, [(3, lnA), (4, lnA + 4)])] })

theorem witness_coherence_commands_complete_7 :
    ((tabGet (fun _ => []) rsv.cpu.resvq (homeSlice lnA)).find? (fun p => (rsv.dirAt p.2).txn.isNone) = some (3, lnA)) ∧
    (up.Reached ac0 true DIR_INSP_ADDR 8) ∧
    (up.Reached ac0 true SLC_RETIRE 4) ∧
    (up.on SLC_RET_RES_BUSY = false) ∧
    (up.on SLC_RET_RES_EPOCHWAIT = false) ∧
    (4 ≤ up.waysLeft 0 (Nat.lor (up.get SLC_RETIRE_WAYS) (0xFFFF0 : BitVec 24).toNat)) ∧
    ((List.range 24).all (fun w => !bitAt (0xFFFF0 : BitVec 24).toNat w || !up.scratchWay w) = true) ∧
    (up.epochMode 0 = false) ∧
    (up.epochMode 1 = false) ∧
    (up.Reached ac0 true (DIR_L2RET 7) 4) ∧
    (up.fused 7 = false) ∧
    (popCount 16 (Nat.lor (up.get (DIR_L2RET_WAYS 7)) (0xF000 : BitVec 16).toNat) ≤ 4) ∧
    (4 < popCount 16 (Nat.lor (up.get (DIR_L2RET_WAYS 7)) (0xF001 : BitVec 16).toNat)) ∧
    (up.Reached ac0 true DIR_RETIRE 4) ∧
    (popCount 12 (Nat.lor (up.get DIR_RETIRE_WAYS) (0xF00 : BitVec 12).toNat) ≤ 4) := by decide +kernel

def rtr : State := coh (fun c => { c with retiring := [(2, 0, 0xF00)] })

theorem witness_coherence_commands_complete_8 :
    (rtr.cpu.retiring = (2, 0, 0xF00) :: []) := by decide +kernel

def imA : PAddr := BitVec.ofNat _ (imsicAddr 7 6)

theorem witness_interrupts_complete :
    (imA.toNat = imsicAddr 7 6) ∧
    (up.fileWorld 7 6 = .secure) ∧
    (up.fenceOpen APC = true) ∧
    ((2047 : BitVec 32).toNat < 2048) ∧
    (sourceExists (65 : BitVec 7).toNat = true) ∧
    (up.outOfReset APC = true) ∧
    (up.Reached ac0 true (TKC_MSG 3) 4) ∧
    (up.Reached ac0 true WDN_MSG 4) ∧
    (up.licWorld 3 = up.agentWorld ac0) ∧
    (up.licWorld 4 = up.agentWorld ac0) ∧
    (up.fenceOpen TKD = true) ∧
    (up.fenceOpen SEC = true) := by decide +kernel

def lic : State := upW [(licPend 3, 2 ^ 62 + 2 ^ 5), (licPend 4, 1), (licEn 3, 2 ^ 62), (licEn 4, 1)]

theorem witness_interrupts_complete_2 :
    (lic.Reached ac0 false (TKC_CLAIM 3) 8) ∧
    (lic.Reached ac0 false WDN_CLAIM 8) ∧
    (lic.debugRead ac0 = false) ∧
    (lic.licTop 3 = 63) ∧
    (lic.licTop 4 = 1) := by decide +kernel

def asleep (csr : Tab Nat) : State := { upW [(⟨ACC_MTIMECMP 7, 0, 64⟩, 0)] with cpu := { up.cpu with harts := [(7, { hartUp with wfi := true, pc := 5, csr := csr })] } }

def tim : Tab Nat := [(0x30A, 2 ^ 63), (0x304, 2 ^ 7 + 2 ^ 5 + 2 ^ 6), (0x14D, 0), (0x24D, 0), (0x60A, 2 ^ 63)]

theorem witness_interrupts_complete_3 :
    (((asleep tim).hart 7).wfi = true) ∧
    ((asleep tim).irqWaiting 7 = true) ∧
    ((asleep tim).timerDue 7 = true) ∧
    (bitAt ((asleep tim).mip 7) 5 = true) ∧
    (bitAt ((asleep tim).mip 7) 6 = true) := by decide +kernel

def userC : State := { upW [(ACC_STATUS_POWER 7, 1)] with cpu := { up.cpu with harts := [(0, hartUp), (7, { hartUp with priv := .u, world := .normal })], imsic := [(57, ⟨0, 0, 6, 6⟩)] } }

theorem witness_interrupts_complete_4 :
    (up.Reached ac0 true (ACC_WORLD 7) 4) ∧
    (up.fused 7 = false) ∧
    ((up.hart 7).priv = .m) ∧
    (worldOf (up.get (ACC_WORLD_NEXT 7)) ≠ .normal) ∧
    (userC.Reached ac0 true (ACC_WORLD 7) 4) ∧
    (userC.fused 7 = false) ∧
    ((userC.hart 7).priv ≠ .m) ∧
    ((userC.hart 7).halted = false) ∧
    (userC.get (ACC_STATUS_POWER 7) ≠ 0) := by decide +kernel

def hs (h : Nat) (f : HartSt → HartSt) (l : List (Fld × Nat)) (g : CpuSt → CpuSt) : State := { upW l with cpu := g { CpuSt.init with harts := [(h, f hartUp)] } }

def sbe (line mask data fence : Nat) : SbEntry := ⟨line, mask, data, false, false, fence, false, .secure, none⟩

def went (s t : State) (h pc : Nat) (rs : List Nat) : Bool := (t.hart h).pc == pc % 2 ^ hartXlen h && (t.hart h).pos == (s.hart h).pos + 1 && (t.hart h).priv == (s.hart h).priv && (t.hart h).world == (s.hart h).world && (List.range 32).all (fun r => rs.contains r || t.xreg h r == s.xreg h r)

def pc7 (f : HartSt → HartSt) : State := hs 7 (fun t => f { t with pc := 2 ^ 64 - 4, x := [(31, 5)] }) [] id

def tk (f : HartSt → HartSt) : State := hs 11 (fun t => f { t with pc := 2 ^ 32 - 4, x := [(31, 5)] }) [] id

theorem witness_fences_returns_and_waits_complete :
    State.Ready (pc7 id) 7 ∧
    State.Ready (pc7 (fun t => { t with sb := [sbe (dramBase / 64) 1 9 0] })) 7 ∧
    State.Ready (tk id) 11 ∧
    ((pc7 id).sb 7 = []) ∧
    (((tk id).hart 11).wbuf = []) :=
  ⟨ready_of (by decide +kernel),
   ready_of (by decide +kernel),
   ready_of (by decide +kernel),
   by decide +kernel⟩

def tkW : State := tk (fun t => { t with wbuf := [⟨dramBase, dramBase, 4, 1, 0, .secure, false⟩] })

theorem witness_fences_returns_and_waits_complete_2 :
    State.Ready tkW 11 ∧
    ((tkW.hart 11).wbuf ≠ []) ∧
    ((pc7 id).sfenceCheck 7 .sfence = none) :=
  ⟨ready_of (by decide +kernel),
   by decide +kernel⟩

def usr : State := hs 7 (fun t => { t with priv := .u, pc := 2 ^ 64 - 4 }) [] id

theorem witness_fences_returns_and_waits_complete_3 :
    State.Ready usr 7 ∧
    (usr.sfenceCheck 7 .sfence = some 2) :=
  ⟨ready_of (by decide +kernel),
   by decide +kernel⟩

def mretS (h : Nat) : State := hs h (fun t => { t with csr := [(0x300, 2 ^ 7 + 2 ^ 11 * (if h < 8 then 1 else 3)), (0x341, 0x1234)], world := .secure }) [(ACC_WORLD_NEXT 7, 1)] id

theorem witness_fences_returns_and_waits_complete_4 :
    State.Ready (mretS 7) 7 ∧
    State.Ready (mretS 12) 12 ∧
    (((mretS 7).hart 7).priv = .m) ∧
    ((usr.hart 7).priv ≠ .m) :=
  ⟨ready_of (by decide +kernel),
   ready_of (by decide +kernel),
   by decide +kernel⟩

def sretS (p : Priv) (c : Tab Nat) : State := hs 7 (fun t => { t with priv := p, csr := c }) [] id

def sretC : Tab Nat := [(0x141, 0x1238), (0x300, 2 ^ 5 + 2 ^ 8)]

def vsC : Tab Nat := [(0x200, 2 ^ 5 + 2 ^ 8), (0x241, 0x1238)]

theorem witness_fences_returns_and_waits_complete_5 :
    State.Ready (sretS .s sretC) 7 ∧
    State.Ready (sretS .vs vsC) 7 ∧
    ((sretS .s sretC).sretCheck 7 = none) ∧
    ((sretS .vs vsC).sretCheck 7 = none) ∧
    (virt ((sretS .vs vsC).hart 7).priv = true) ∧
    (usr.sretCheck 7 = some 2) ∧
    ((pc7 id).wfiCheck 7 = none) :=
  ⟨ready_of (by decide +kernel),
   ready_of (by decide +kernel),
   by decide +kernel⟩

def usrTw : State := hs 7 (fun t => { t with priv := .u, csr := [(0x300, 2 ^ 21)] }) [] id

theorem witness_fences_returns_and_waits_complete_6 :
    State.Ready usrTw 7 ∧
    (usrTw.wfiCheck 7 = some 2) :=
  ⟨ready_of (by decide +kernel),
   by decide +kernel⟩

def trp (p : Priv) (c : Tab Nat) : State := hs 7 (fun t => { t with priv := p, pc := 0x1000, world := .normal, csr := c, resv := some 3 }) [] id

theorem witness_traps_are_taken :
    State.Ready (trp .u [(0x305, 0x4001)]) 7 ∧
    State.Ready (trp .u [(0x105, 0x4000), (0x302, 2 ^ 8), (0x300, 2)]) 7 ∧
    State.Ready (trp .vu [(0x205, 0x4000), (0x302, 2 ^ 8), (0x602, 2 ^ 8)]) 7 ∧
    ((trp .u [(0x305, 0x4001)]).excOk 7 8 = true) ∧
    ((trp .u [(0x105, 0x4000), (0x302, 2 ^ 8), (0x300, 2)]).trapTarget 7 false 8 = .s) ∧
    ((trp .vu [(0x205, 0x4000), (0x302, 2 ^ 8), (0x602, 2 ^ 8)]).trapTarget 7 false 8 = .vs) :=
  ⟨ready_of (by decide +kernel),
   ready_of (by decide +kernel),
   ready_of (by decide +kernel),
   by decide +kernel⟩

def ebk : State := hs 7 (fun t => { t with csr := [(csrDcsr, 0x4000B003)] }) [] id

theorem witness_traps_are_taken_2 :
    State.Ready ebk 7 ∧
    (ebk.excOk 7 3 = true) ∧
    (bitAt (ebk.csr 7 csrDcsr) (ebreakBit (ebk.hart 7).priv) = true) ∧
    (ebk.invasive (ebk.hartWorld 7) = true) ∧
    (ebk.epochMode (clusterOf 7) = false) ∧
    (ebk.get (XTRG_IN_CH 7) = 0) ∧
    (ebk.excOk 7 63 = false) :=
  ⟨ready_of (by decide +kernel),
   by decide +kernel⟩

def irqd : State := { hs 7 (fun t => { t with csr := [(0x300, 8), (0x304, 2 ^ 7), (0x305, 0x4001)] }) [(⟨ACC_MTIMECMP 7, 0, 64⟩, 0)] id with ticks := 9, mticks := 9 }

theorem witness_traps_are_taken_3 :
    State.Quiet irqd 7 ∧
    (irqd.hartRuns 7 = true) ∧
    (irqd.devPending 7 = false) ∧
    (irqd.irqNext 7 = some 7) ∧
    (irqd.irqNext 7 ≠ some 11) :=
  ⟨quiet_of (by decide +kernel),
   by decide +kernel⟩

def vts (h : Nat) (f : HartSt → HartSt) : State := { hs h (fun t => f { t with pc := 0x1000 }) [] id with time := { TimeSt.init with doms := [(0, { DomSt.init with acc := 2 ^ 40 * 6000000000 })] } }

def usrX (p : Priv) : State := vts 7 (fun t => { t with priv := p, csr := [(0x7C0, 0)] })

theorem witness_xeztime_instructions_complete :
    State.Ready (vts 7 id) 7 ∧
    State.Ready (vts 11 id) 11 ∧
    ((vts 7 id).xezCheck 7 = none) ∧
    ((vts 11 id).xezCheck 11 = none) ∧
    ((vts 7 id).vtReached 7 6000000000 = true) ∧
    ((vts 7 id).vtReached 7 6000000001 = false) ∧
    ((4 : Word).toNat % 8 ≠ 0) ∧
    ((2 : Word).toNat % 4 ≠ 0) ∧
    ((16 : Word).toNat % 32 ≠ 0) :=
  ⟨ready_of (by decide +kernel),
   ready_of (by decide +kernel),
   by decide +kernel⟩

def armX (h : Nat) : State := { vts h (fun t => { t with csr := if h < 8 then [(0x800, 7000000000)] else [(0x800, 7000000000 % 2 ^ 32), (0x880, 1)] }) with regs := (upW [(TWH_PART_SECURE, 65536)]).regs }

theorem witness_xeztime_instructions_complete_2 :
    State.Ready (armX 7) 7 ∧
    State.Ready (usrX .u) 7 ∧
    ((armX 7).translate 7 .write 0x10000008 = (armX 7, .ok (0x10000008, 0))) ∧
    ((armX 7).armCluster 7 = none) ∧
    (((armX 7).arm ((armX 7).staReq 7 0x10000008 8 5)).2.2.2 = false) ∧
    (((armX 7).arm ((armX 7).staReq 7 0x10000004 4 5)).2.2.2 = false) ∧
    ((armX 7).translate 7 .write 0x10000004 = (armX 7, .ok (0x10000004, 0))) ∧
    ((usrX .u).xezCheck 7 = some 2) ∧
    ((usrX .vs).xezCheck 7 = some 2) :=
  ⟨ready_of (by decide +kernel),
   ready_of (by decide +kernel),
   by decide +kernel⟩

def evD : Nat := 7000000000 + 2 ^ 64 * 5 + 2 ^ 128 * 0x10000008 + 2 ^ 192 * 1 + 2 ^ 196

def evS : State := { armX 11 with mem := { MemSt.init with bytes := ((leBytes 32 evD).zipIdx.filter (fun p => p.1 != 0)).map (fun p => (0x20180000 + p.2, p.1)) } }

def evQ : ArmReq := ⟨7000000000, 5, 0x10000008, 1, true, false, false, 0, 0, evS.armOwner 11, 11, bitAt (evS.modeVal 11 0x7C0) 3, evS.armFile 11, none⟩

theorem witness_xeztime_instructions_complete_3 :
    State.Ready evS 11 ∧
    (evS.xezCheck 11 = none) ∧
    (evS.sb 11 = []) ∧
    ((evS.hart 11).wbuf = []) ∧
    (evS.translate 11 .read 0x20180000 = (evS, .ok (0x20180000, 0))) ∧
    (evS.ownLocal 11 0x20180000 = true) ∧
    (evS.pieceCheck 11 none .read ⟨0x20180000, 0x20180000, 32, 0⟩ = .ok) ∧
    (evS.sramPoisoned (0x20180000 / 64) = false) ∧
    (evS.bytesAt 0x20180000 32 = evD) ∧
    ((evS.arm evQ).2.2.2 = false) :=
  ⟨ready_of (by decide +kernel),
   by decide +kernel⟩

def wtS (now : Nat) : State := vts 7 (fun t => { t with waitVt := some now })

theorem witness_xeztime_instructions_complete_4 :
    State.Quiet (wtS 6000000000) 7 ∧
    ((wtS 6000000000).hartRuns 7 = true) ∧
    ((wtS 6000000000).vtReached 7 6000000000 = true) ∧
    ((wtS 6000000001).vtReached 7 6000000001 = false) ∧
    (((vts 11 id).hart (8 + 3)).running = true) ∧
    ((vts 11 id).runs TKD (4 + 3) = true) :=
  ⟨quiet_of (by decide +kernel),
   by decide +kernel⟩

def tkc (run : Nat) : State := { upW [(TKC_CTL_RUN 3, run), (TKC_RESETPC_OFFSET 3, 0x40)] with cpu := up.cpu }

theorem witness_xeztime_instructions_complete_5 :
    ((tkc 1).Reached ac0 true (TKC_CTL 3) 4) ∧
    ((tkc 1).on (TKC_CTL_RUN 3) = true) ∧
    ((tkc 0).on (TKC_CTL_RUN 3) = false) := by decide +kernel

def sag (l : List (Fld × Nat)) (c : Tab Nat) : State := hs 7 (fun t => { t with pc := 0x1000, priv := .s, world := .normal, csr := c }) ([(SAG_DESC_ENTRY_ENTRY 63, dramBase), (SAG_DESC_ATTR_MODES 63, 15), (SAG_DESC_ATTR_VMIDANY 63, 1), (SAG_STATUS_NSAG, 64)] ++ l) id

theorem witness_saggars_enter_and_exit :
    State.Ready (sag [] []) 7 ∧
    ((sag [] []).sagCause 7 63 = 0) ∧
    ((sag [(SAG_STATUS_NSAG, 63)] []).sagCause 7 63 ≠ 0) :=
  ⟨ready_of (by decide +kernel),
   by decide +kernel⟩

def sagIn : State := match execSagEnter 7 31 63 (sag [] []) with | .next t => t | _ => up

theorem witness_saggars_enter_and_exit_2 :
    State.Ready sagIn 7 ∧
    (sagIn.inSaggar 7 = true) ∧
    ((sag [] []).inSaggar 7 = false) :=
  ⟨ready_of (by decide +kernel),
   by decide +kernel⟩

def a0 : Nat := 0x800000008

def mm (h : Nat) (f : HartSt → HartSt) (v : L2Line) : State := hs h (fun t => f { t with pc := 0x1000 }) [] (fun c => { c with l2 := [(h * 2 ^ 38 + a0 / 64, some v)], dir := [(a0 / 64, ⟨0, some h, none, 0, 0⟩)] })

def dl : L2Line := { lv .m false with data := 2 ^ (8 * 8 + 31) + 2 ^ (8 * 8) * 5 }

def loc : State := { vts 11 id with mem := { MemSt.init with bytes := [(0x20180000, 0x80), (0x20180003, 0x80)] } }

theorem witness_loads_complete :
    State.Ready (vts 11 id) 11 ∧
    State.Ready (mm 7 id dl) 7 ∧
    ((mm 7 id dl).fpOn 7 = false) ∧
    ((mm 7 id dl).piecesOf 7 .read a0 4 = (mm 7 id dl, .ok [⟨a0, a0, 4, 0⟩])) ∧
    ((mm 7 id dl).piecesCheck 7 ((mm 7 id dl).hartSag 7) .read [⟨a0, a0, 4, 0⟩] = (mm 7 id dl, none)) ∧
    ((mm 7 id dl).isDevice ⟨a0, a0, 4, 0⟩ = false) ∧
    ((mm 7 id dl).region a0 = .dram) ∧
    (((mm 7 id dl).dirAt (a0 / 64)).txn = none) ∧
    ((mm 7 id dl).l2 7 (a0 / 64) = some dl) :=
  ⟨ready_of (by decide +kernel),
   ready_of (by decide +kernel),
   by decide +kernel⟩

def fwd : State := mm 7 (fun t => { t with sb := [sbe (a0 / 64) (255 * 2 ^ 8) (2 ^ 64 * 77) 0] }) dl

theorem witness_loads_complete_2 :
    (fwd.sbYoungest 7 a0 4 = some (sbe (a0 / 64) (255 * 2 ^ 8) (2 ^ 64 * 77) 0)) ∧
    (Nat.land (255 * 2 ^ 8) (lineMask a0 4) = lineMask a0 4) := by decide +kernel

def fps : State := mm 7 (fun t => { t with csr := [(0x300, 2 ^ 13)] }) dl

theorem witness_loads_complete_3 :
    State.Ready fps 7 ∧
    (fps.fpOn 7 = true) :=
  ⟨ready_of (by decide +kernel),
   by decide +kernel⟩

def scr : State := { vts 7 id with mem := { MemSt.init with bytes := [(scratchBase, 7)] }, regs := (upW [(SLC_WAYMAP_WAY 0, 2)]).regs }

theorem witness_loads_complete_4 :
    State.Ready scr 7 ∧
    (scr.region scratchBase = .scratch 0 0) ∧
    (scr.sramPoisoned (scratchBase / 64) = false) ∧
    (scr.piecesOf 7 .read scratchBase 8 = (scr, .ok [⟨scratchBase, scratchBase, 8, 0⟩])) ∧
    (scr.piecesCheck 7 (scr.hartSag 7) .read [⟨scratchBase, scratchBase, 8, 0⟩] = (scr, none)) ∧
    (scr.isDevice ⟨scratchBase, scratchBase, 8, 0⟩ = false) :=
  ⟨ready_of (by decide +kernel),
   by decide +kernel⟩

def vtn : Nat := VT_NOW 0

theorem witness_loads_complete_5 :
    State.Ready loc 11 ∧
    ((vts 7 id).piecesOf 7 .read vtn 8 = (vts 7 id, .ok [⟨vtn, vtn, 8, 0⟩])) ∧
    ((vts 7 id).piecesCheck 7 ((vts 7 id).hartSag 7) .read [⟨vtn, vtn, 8, 0⟩] = (vts 7 id, none)) ∧
    ((vts 7 id).isWindow vtn = true) ∧
    ((vts 7 id).epochMode (clusterOf 7) = false) ∧
    ((vts 7 id).winJudge (.hart 7) ((vts 7 id).hartSlice 7) false vtn 8 = .ok) ∧
    ((vts 7 id).winJudge (.hart 7) ((vts 7 id).hartSlice 7) false vtn 2 = .bad) ∧
    ((vts 7 id).piecesCheck 7 ((vts 7 id).hartSag 7) .read [⟨vtn, vtn, 2, 0⟩] = (vts 7 id, none)) ∧
    (loc.isDevice ⟨0x20180000, 0x20180000, 4, 0⟩ = false) ∧
    (loc.ownLocal 11 0x20180000 = true) ∧
    (loc.sb 11 = []) ∧
    (loc.sramPoisoned (0x20180000 / 64) = false) ∧
    (loc.piecesOf 11 .read 0x20180000 4 = (loc, .ok [⟨0x20180000, 0x20180000, 4, 0⟩])) ∧
    (loc.piecesCheck 11 (loc.hartSag 11) .read [⟨0x20180000, 0x20180000, 4, 0⟩] = (loc, none)) ∧
    (loc.ownLocal 11 0x10000000 = false) ∧
    (loc.piecesOf 11 .read 0x10000000 4 = (loc, .ok [⟨0x10000000, 0x10000000, 4, 0⟩])) ∧
    (loc.piecesCheck 11 (loc.hartSag 11) .read [⟨0x10000000, 0x10000000, 4, 0⟩] = (loc, none)) :=
  ⟨ready_of (by decide +kernel),
   by decide +kernel⟩

theorem witness_loads_complete_6 :
    ((mm 7 id dl).piecesOf 7 .exec a0 4 = (mm 7 id dl, .ok [⟨a0, a0, 4, 0⟩])) ∧
    ((mm 7 id dl).piecesCheck 7 ((mm 7 id dl).hartSag 7) .exec [⟨a0, a0, 4, 0⟩] = (mm 7 id dl, none)) := by decide +kernel

def fab (a : Nat) (w : List DevStore) : State := { vts 11 (fun t => { t with fabric := some ⟨a, 4, 31, true⟩, wbuf := w }) with mem := { MemSt.init with bytes := [(scratchBase, 7)] }, regs := (upW [(SLC_WAYMAP_WAY 0, 2)]).regs }

def dst (a : Nat) : DevStore := ⟨a, a, 4, 9, 0x1000, .secure, false⟩

theorem witness_loads_complete_7 :
    State.Quiet (fab scratchBase [dst scratchBase]) 11 ∧
    State.Quiet (fab scratchBase []) 11 ∧
    ((fab scratchBase [dst scratchBase]).hartRuns 11 = true) ∧
    ([dst scratchBase].any (fun d => wbufTouches d scratchBase 4) = true) ∧
    (((fab scratchBase []).hart (8 + 3)).fabric = some ⟨scratchBase, 4, 31, true⟩) ∧
    ((fab scratchBase []).region scratchBase = .scratch 0 0) ∧
    ((fab scratchBase []).sramPoisoned (scratchBase / 64) = false) ∧
    ((fab scratchBase []).pieceCheck 11 none .read ⟨scratchBase, scratchBase, 4, 0⟩ = .ok) :=
  ⟨quiet_of (by decide +kernel),
   quiet_of (by decide +kernel),
   by decide +kernel⟩

def nrm : State := hs 7 (fun t => { t with pc := 0x1000, priv := .s, world := .normal }) [] id

theorem witness_loads_complete_8 :
    State.Ready nrm 7 ∧
    (nrm.winJudge (.hart 7) (nrm.hartSlice 7) false CONE_STEPS 8 = .refuse .denied) ∧
    (nrm.piecesCheck 7 (nrm.hartSag 7) .read [⟨CONE_STEPS, CONE_STEPS, 8, 0⟩] = (nrm, none)) :=
  ⟨ready_of (by decide +kernel),
   by decide +kernel⟩

def one (h a n : Nat) (s : State) : Bool := s.piecesOf h .write a n == (s, .ok [⟨a, a, n, 0⟩]) && s.piecesCheck h (s.hartSag h) .write [⟨a, a, n, 0⟩] == (s, none)

theorem witness_stores_complete :
    State.Ready (vts 11 id) 11 ∧
    State.Ready nrm 7 ∧
    State.Ready (mm 7 id dl) 7 ∧
    (nrm.isDevice ⟨a0, a0, 4, 0⟩ = false) ∧
    ((nrm.piecesCheck 7 (nrm.hartSag 7) .write [⟨0x10000000, 0x10000000, 4, 0⟩]).2 = some 0x10000000) ∧
    (one 7 a0 4 (mm 7 id dl) = true) ∧
    ((mm 7 id dl).isDevice ⟨a0, a0, 4, 0⟩ = false) ∧
    ((mm 7 id dl).sb 7 = []) :=
  ⟨ready_of (by decide +kernel),
   ready_of (by decide +kernel),
   ready_of (by decide +kernel),
   by decide +kernel⟩

def full7 (n : Nat) : State := vts 7 (fun t => { t with sb := List.replicate n (sbe 5 1 1 0) })

theorem witness_stores_complete_2 :
    State.Ready (full7 63) 7 ∧
    (one 7 (EPO_LOCK 0) 4 (full7 63) = true) ∧
    ((full7 63).isDevice ⟨(EPO_LOCK 0), (EPO_LOCK 0), 4, 0⟩ = true) ∧
    ((EPO_LOCK 0) % 4 = 0) ∧
    ((full7 63).epochMode (clusterOf 7) = false) ∧
    (((full7 63).sb 7).length < 64) ∧
    (one 11 0x20180000 4 loc = true) ∧
    (loc.ownLocal 11 0x20180000 = true) :=
  ⟨ready_of (by decide +kernel),
   by decide +kernel⟩

def tkB (n : Nat) : State := vts 11 (fun t => { t with wbuf := List.replicate n (dst scratchBase) })

theorem witness_stores_complete_3 :
    State.Ready (tkB 3) 11 ∧
    State.Ready (tkB 4) 11 ∧
    State.Ready (vts 12 id) 12 ∧
    (one 11 0x10000000 4 (tkB 3) = true) ∧
    ((tkB 3).ownLocal 11 0x10000000 = false) ∧
    (((tkB 3).hart 11).wbuf.length < 4) ∧
    ((tkB 3).isDevice ⟨0x10000000, 0x10000000, 4, 0⟩ = false) ∧
    (one 11 (EPO_LOCK 0) 4 (tkB 0) = true) ∧
    ((tkB 0).isDevice ⟨(EPO_LOCK 0), (EPO_LOCK 0), 4, 0⟩ = true) ∧
    (one 11 0x10000000 4 (tkB 4) = true) ∧
    (4 ≤ ((tkB 4).hart 11).wbuf.length) ∧
    (one 12 0x10000000 4 (vts 12 id) = true) ∧
    ((vts 12 id).region 0x10000000 = .secSram) ∧
    (up.fenceOpen SEC = true) :=
  ⟨ready_of (by decide +kernel),
   ready_of (by decide +kernel),
   ready_of (by decide +kernel),
   by decide +kernel⟩

def sbD : SbEntry := ⟨(EPO_LOCK 0) / 64, 15, 5, true, false, 0, false, .secure, none⟩

def drn (l : List SbEntry) : State := mm 7 (fun t => { t with sb := l }) dl

theorem witness_stores_complete_4 :
    ((drn [sbD]).outOfReset APC = true) ∧
    ((drn [sbD]).sb 7 = sbD :: []) ∧
    (sbD.device = true) ∧
    ((drn [sbe (a0 / 64) (15 * 2 ^ 8) (2 ^ 64 * 77) 0]).region (64 * (a0 / 64)) = .dram) ∧
    ((drn []).epochMode (clusterOf 7) = false) ∧
    (((drn []).dirAt (a0 / 64)).txn = none) ∧
    ((drn []).l2 7 (a0 / 64) = some dl) ∧
    (dl.st ≠ .s) ∧
    ((drn [sbe 9 1 1 0, sbe 9 1 1 0]).sbPasses 7 (sbe 9 1 1 0) (sbe 9 1 1 0) = false) := by decide +kernel

def ack (a : Nat) (n : Nat) (o : Bool) (l : List SbEntry) : State := vts 7 (fun t => { t with sb := l, dev := some ⟨a, a, n, 5, 0x1000, .secure, o⟩ })

theorem witness_stores_complete_5 :
    (((ack SHD_POP 4 true [sbD]).sb 7).any (fun e => e.device) = true) := by decide +kernel

def ackU : State := (ack (TP_CFG 15) 4 true []).updHart 7 (fun t => { t with dev := none })

theorem witness_stores_complete_6 :
    State.Quiet (ack (TP_CFG 15) 2 false []) 7 ∧
    ((ack (TP_CFG 15) 4 true []).isWindow (TP_CFG 15) = true) ∧
    (ackU.winJudge (.hart 7) (ackU.hartSlice 7) true (TP_CFG 15) 4 = .ok) ∧
    (((ack (TP_CFG 15) 4 true []).sb 7).any (fun e => e.device) = false) ∧
    (ackU.winJudge (.hart 7) (ackU.hartSlice 7) true (TP_CFG 15) 2 = .bad) ∧
    ((ack (TP_CFG 15) 2 false []).hartRuns 7 = true) :=
  ⟨quiet_of (by decide +kernel),
   by decide +kernel⟩

def pciA : Nat := 0x1000000000

theorem witness_stores_complete_7 :
    State.Quiet (ack pciA 4 false []) 7 ∧
    ((ack pciA 4 false []).region pciA = .pcie) ∧
    (up.fenceOpen HST = true) ∧
    (((vts 11 id).hart (8 + 3)).wbuf = []) :=
  ⟨quiet_of (by decide +kernel),
   by decide +kernel⟩

def drT (a : Nat) : State := { vts 11 (fun t => { t with wbuf := [⟨a, a, 4, 0xFF00000009, 0x1000, .secure, false⟩] }) with regs := scr.regs }

theorem witness_stores_complete_8 :
    State.Quiet (drT pciA) 11 ∧
    ((drT scratchBase).region scratchBase = .scratch 0 0) ∧
    ((drT scratchBase).fenceOpen MEM = true) ∧
    ((drT pciA).region pciA = .pcie) ∧
    ((drT pciA).hartRuns 11 = true) :=
  ⟨quiet_of (by decide +kernel),
   by decide +kernel⟩

def at_ (st : Mesi) (r : Option Nat) : State := mm 7 (fun t => { t with resv := r, x := [(31, 3)] }) { dl with st := st, data := 2 ^ 64 * (2 ^ 32 - 1) }

theorem witness_atomics_complete :
    State.Ready (at_ .m none) 7 ∧
    State.Ready (vts 11 id) 11 ∧
    State.Ready nrm 7 ∧
    (¬ (AccSize.bytes .b2 = 4 ∨ AccSize.bytes .b2 = 8)) ∧
    ((0x80000000C : Word).toNat % 8 ≠ 0) ∧
    ((at_ .m none).region a0 = .dram) ∧
    ((at_ .m none).epochMode (clusterOf 7) = false) ∧
    (((at_ .m none).dirAt (a0 / 64)).txn = none) ∧
    ((at_ .m none).sb 7 = []) ∧
    ((at_ .m none).l2 7 (a0 / 64) = some { dl with st := .m, data := 2 ^ 64 * (2 ^ 32 - 1) }) ∧
    ((at_ .m none).piecesOf 7 .read a0 4 = (at_ .m none, .ok [⟨a0, a0, 4, 0⟩])) ∧
    ((at_ .m none).piecesCheck 7 ((at_ .m none).hartSag 7) .read [⟨a0, a0, 4, 0⟩] = (at_ .m none, none)) ∧
    (one 7 a0 4 (at_ .m none) = true) ∧
    (one 7 a0 4 (at_ .e (some (a0 / 64))) = true) ∧
    (((at_ .e (some (a0 / 64))).hart 7).resv = some (a0 / 64)) ∧
    (one 7 a0 4 (at_ .s (some 3)) = true) ∧
    (((at_ .s (some 3)).hart 7).resv ≠ some (a0 / 64)) ∧
    (nrm.cbzeFault 7 = some 2) :=
  ⟨ready_of (by decide +kernel),
   ready_of (by decide +kernel),
   ready_of (by decide +kernel),
   by decide +kernel⟩

theorem witness_atomics_complete_2 :
    ((at_ .m none).cbzeFault 7 = none) ∧
    (one 7 (a0 / 64 * 64) 64 (at_ .m none) = true) := by decide +kernel

def lks (o b : Nat) : State := upW [(EPO_LOCK_OWNER 63, o), (EPO_LOCK_BROKEN 63, b), (DAP_SBCTL_WORLD, 0)]

def dapS : Agent := .dap .secure

theorem witness_locks_are_held_by_one_hart :
    ((lks 15 1).Reached (.hart 7) true (EPO_LOCK 63) 4) ∧
    ((lks 15 1).get (EPO_LOCK_OWNER 63) = 0xF) ∧
    ((lks 6 1).get (EPO_LOCK_OWNER 63) ≠ 0xF) ∧
    ((lks 7 1).get (EPO_LOCK_OWNER 63) = (lks 7 1).lockHart 7) ∧
    ((lks 6 1).get (EPO_LOCK_OWNER 63) ≠ (lks 6 1).lockHart 7) ∧
    ((lks 6 0).Reached dapS true (EPO_LOCK 63) 4) ∧
    (isDap dapS = true) ∧
    ((lks 15 0).Reached dapS true DAP_LOCKREL 4) ∧
    ((lks 15 0).get (EPO_LOCK_OWNER 63) = 0xF) := by decide +kernel

def noInv : State := { lks 6 0 with boot := { up.boot with fuses := { FuseSt.blank with dbg := [3] } }, cpu := { up.cpu with harts := up.cpu.harts.map (fun p => (p.1, { p.2 with world := .normal })) } }

theorem witness_locks_are_held_by_one_hart_2 :
    (noInv.Reached dapS true DAP_LOCKREL 4) ∧
    (noInv.get (EPO_LOCK_OWNER 63) ≠ 0xF) ∧
    (noInv.invasive (noInv.hartWorld 6) = false) ∧
    ((lks 6 0).invasive ((lks 6 0).hartWorld 6) = true) ∧
    (isDap ac0 = false) ∧
    ((lks 6 0).agentLive ac0 = true) := by decide +kernel

def epo (st : Nat) (l : List (Fld × Nat)) (e : EpochSt) : State := { upW ([(EPO_CFG_EPOCH 1, 1), (EPO_STATUS_STATE 1, st), (SLC_WAYMAP_WAY 0, 2)] ++ l) with guard := { GuardSt.init with epoch := [(1, e)] } }

def sout (a v : Nat) : EpochOut := .store 7 .secure none a 4 v

def ep0 : State := epo 0 [(EPO_OUTQ_USED 1, 1)] { EpochSt.init with outq := [sout scratchBase 9], lines := [5] }

theorem witness_epochs_commit_and_roll_back :
    (ep0.epochMode 1 = true) ∧
    (ep0.get (EPO_STATUS_STATE 1) = 0) ∧
    (ep0.Reached (.hart 7) true (EPO_CMD 1) 4) ∧
    (isDap (.hart 7) = false) ∧
    (up.epochMode 1 = false) ∧
    (up.Reached (.hart 7) true (EPO_CMD 1) 4) := by decide +kernel

def ep1 (l : List EpochOut) : State := epo 1 [(EPO_STATUS_RBRUN 1, 3), (EPO_COMMITS_COUNT 1, 2 ^ 32 - 1)] { EpochSt.init with released := l }

theorem witness_epochs_commit_and_roll_back_2 :
    ((ep1 []).get (EPO_STATUS_STATE 1) = 1) ∧
    (((ep1 []).epoch 1).released = []) ∧
    ((ep1 [sout scratchBase 9]).get (EPO_STATUS_STATE 1) = 1) ∧
    (((ep1 [sout scratchBase 9]).epoch 1).released = [.store 7 .secure none scratchBase 4 9]) ∧
    ((ep1 [sout scratchBase 9]).region scratchBase = .scratch 0 0) ∧
    ((ep1 [sout scratchBase 9]).outputStatus 7 .secure none scratchBase 4 = .ok) ∧
    (ep0.get (EPO_STATUS_STATE 1) ≠ 1) ∧
    (isDap (.hart 7) = false) ∧
    (ep0.agentWorld (.hart 7) = .secure) := by decide +kernel

def ownN : List (Fld × Nat) := (List.range 4).map (fun k => (⟨HOV_OWN APC k, 0, 64⟩, 2 ^ 64 - 1))

def epN : State := { epo 0 ownN { EpochSt.init with outq := [sout scratchBase 9], lines := [5] } with cpu := { up.cpu with harts := (up.cpu.harts).map (fun p => (p.1, { p.2 with world := .normal })) } }

theorem witness_epochs_commit_and_roll_back_3 :
    (epN.agentWorld (.hart 7) = .normal) ∧
    (epN.Reached (.hart 7) true (EPO_CMD 1) 4) := by decide +kernel

def ep3 (s : Nat) (l : List (Fld × Nat)) : State := epo s l EpochSt.init

theorem witness_epochs_commit_and_roll_back_4 :
    ((ep3 3 []).Reached (.hart 7) true (EPO_CMD 1) 4) ∧
    ((ep3 3 []).get (EPO_STATUS_STATE 1) = 3) ∧
    (ep0.get (EPO_STATUS_STATE 1) ≠ 3) ∧
    (ep0.get (EPO_STATUS_STATE 1) ≠ 2) ∧
    ((ep3 2 [(EPO_CFG_RBLIMIT 1, 3), (EPO_STATUS_RBRUN 1, 3)]).get (EPO_STATUS_STATE 1) = 2) ∧
    ((ep3 2 [(EPO_CFG_RBLIMIT 1, 3), (EPO_STATUS_RBRUN 1, 3)]).get (EPO_CFG_RBLIMIT 1) ≠ 0 ∧ (ep3 2 [(EPO_CFG_RBLIMIT 1, 3), (EPO_STATUS_RBRUN 1, 3)]).get (EPO_CFG_RBLIMIT 1) ≤ (ep3 2 [(EPO_CFG_RBLIMIT 1, 3), (EPO_STATUS_RBRUN 1, 3)]).get (EPO_STATUS_RBRUN 1)) ∧
    ((ep3 2 [(EPO_CFG_RBLIMIT 1, 3), (EPO_STATUS_RBRUN 1, 2)]).get (EPO_STATUS_STATE 1) = 2) ∧
    (¬ ((ep3 2 [(EPO_CFG_RBLIMIT 1, 3), (EPO_STATUS_RBRUN 1, 2)]).get (EPO_CFG_RBLIMIT 1) ≤ (ep3 2 [(EPO_CFG_RBLIMIT 1, 3), (EPO_STATUS_RBRUN 1, 2)]).get (EPO_STATUS_RBRUN 1))) := by decide +kernel

def epR : State := ep1 [sout scratchBase 9, .store 7 .secure none 0x28000000 4 9]

theorem witness_epochs_commit_and_roll_back_5 :
    ((epR.epoch 1).released[1]? = some (.store 7 .secure none 0x28000000 4 9)) ∧
    (epR.outputStatus 7 .secure none 0x28000000 4 = .denied) ∧
    ((epR.epoch 1).released[0]? = some (.store 7 .secure none scratchBase 4 9)) ∧
    (epR.outputStatus 7 .secure none scratchBase 4 ≠ .denied) := by decide +kernel

def fus (e st sp : Nat) : State := upW [(LKS_STATUS_FUSED 3, 1), (LKS_STATUS_STOPPED 3, sp), (EPO_LOCK_OWNER 63, 6), (EPO_CFG_EPOCH 1, e), (EPO_STATUS_STATE 1, st), (LKS_CNT_COUNT 3, 2 ^ 32 - 1)]

theorem witness_lockstep_diverges_and_restarts :
    ((fus 0 0 0).on (LKS_STATUS_FUSED 3) = true) ∧
    ((fus 0 0 0).on (LKS_STATUS_STOPPED 3) = false) ∧
    (((fus 0 0 0).hart 6).running = true) ∧
    ((fus 0 0 0).epochMode 1 = false) ∧
    ((fus 1 0 0).on (LKS_STATUS_FUSED 3) = true) ∧
    ((fus 1 0 0).on (LKS_STATUS_STOPPED 3) = false) ∧
    (((fus 1 0 0).hart 6).running = true) ∧
    ((fus 1 0 0).epochMode 1 = true) ∧
    ((fus 1 0 0).get (EPO_STATUS_STATE 1) = 0) ∧
    (up.on (LKS_STATUS_FUSED 3) = false) ∧
    ((fus 0 0 1).Reached ac0 true (LKS_CTL 3) 4) ∧
    ((fus 0 0 1).on (LKS_STATUS_STOPPED 3) = true) ∧
    ((fus 0 0 0).Reached ac0 true (LKS_CTL 3) 4) ∧
    (isDap ac0 = false) ∧
    ((fus 0 0 0).agentWorld ac0 = .secure) := by decide +kernel

def fusN : State := { upW ([(LKS_STATUS_FUSED 3, 1)] ++ ownN) with cpu := epN.cpu }

theorem witness_lockstep_diverges_and_restarts_2 :
    (fusN.Reached ac0 true (LKS_CTL 3) 4) ∧
    (fusN.agentWorld ac0 = .normal) := by decide +kernel

def wmk (n : Nat) (l : List (Fld × Nat)) : State := upW ([(WMK_STATUS_N, n), (SUP_STATUS_VIN, 1000)] ++ l)

def wmkB : State := wmk 7 [(WMK_STATUS_BUSY, 1)]

theorem witness_watermark_moves_by_a_burn :
    (wmkB.Reached ac0 true WMK_REQ 4) ∧
    (wmkB.on WMK_STATUS_BUSY = true) := by decide +kernel

def wmkW : State := wmk 7 [(WDG_RES_BUSY, 1)]

theorem witness_watermark_moves_by_a_burn_2 :
    (wmkW.Reached ac0 true WMK_REQ 4) ∧
    (wmkW.on WDG_RES_BUSY = true) := by decide +kernel

def wmkS : State := wmk 7 [(SAG_RNG_ATTR_VALID 255, 1), (SAG_RNG_PAGE_BASE 255, dramBase / 4096 + 0x4000 * 8 - 1)]

theorem witness_watermark_moves_by_a_burn_3 :
    (wmkS.Reached ac0 true WMK_REQ 4) ∧
    (wmkS.get WMK_STATUS_N = 7) ∧
    (wmkS.saggarBelow 8 = true) ∧
    (wmkS.on WMK_STATUS_BUSY = false) ∧
    (wmkS.on WDG_RES_BUSY = false) ∧
    ((wmk 223 []).Reached ac0 true WMK_REQ 4) ∧
    ((wmk 223 []).saggarBelow 224 = false) ∧
    ((wmk 223 []).get WMK_STATUS_N = 223) ∧
    ((wmk 223 []).boot.burn = none) ∧
    ((wmk 223 []).get SUP_LEVELS_WARN ≤ (wmk 223 []).get SUP_STATUS_VIN) ∧
    ((wmk 223 []).coneSteps 0 < coneMax 0) ∧
    (up.mem.wedge = none) := by decide +kernel

def wjob : WedgeJob := ⟨dramBase + 4096, 1, false, true, [dramBase / 64 + 65]⟩

def wjb : State := { wmk 7 [(WMK_STATUS_BUSY, 1), (WMK_STATUS_CLOSED, 1), (WDG_RES_BUSY, 1)] with mem := { MemSt.init with bytes := [(dramBase + 4095, 1), (dramBase + 4096, 2), (dramBase + 4160, 3), (dramBase + 8191, 4), (dramBase + 8192, 5)], wedge := some wjob }, world := { WorldSt.init with wmk := some ⟨7, 6, true⟩ } }

theorem witness_watermark_moves_by_a_burn_4 :
    (wjb.mem.wedge = some wjob) ∧
    (wjb.runs MEM 2 = true) ∧
    (wjb.world.wmk = some ⟨7, 6, true⟩) ∧
    (wjob.forWmk = true) ∧
    (up.world.wmk = none) := by decide +kernel

def wrs : State := { wmk 7 [(WMK_STATUS_BUSY, 1)] with world := { WorldSt.init with wmk := some ⟨7, 224, true⟩ } }

theorem witness_watermark_moves_by_a_burn_5 :
    (wrs.world.wmk = some ⟨7, 224, true⟩) ∧
    ((⟨7, 224, true⟩ : WmkChange).burnt = true) ∧
    ((⟨7, 224, true⟩ : WmkChange).old < (⟨7, 224, true⟩ : WmkChange).new) := by decide +kernel

def hov (l : List HovReq) (r : List (Fld × Nat)) : State := { upW r with world := { WorldSt.init with hov := l }, boot := { up.boot with sections := [⟨1, [0xFF, 0, 0, 0, 0, 0, 0, 0]⟩] } }

def nOwn (d : Nat) : List (Fld × Nat) := (List.range 4).map (fun k => (⟨HOV_OWN d k, 0, 64⟩, 2 ^ 64 - 1))

def hv (d b : Nat) (r s : World) (st : HovState) : HovReq := ⟨d, b, r, s, st, 0⟩

theorem witness_blocks_are_handed_over :
    ((hov [] []).Reached ac0 true (HOV_W_REQ 0) 4) ∧
    (isDap ac0 = false) ∧
    (blockListed 0x0523 = false) ∧
    ((hov [hv 5 0x22 .secure .secure .quiescing] []).Reached ac0 true (HOV_W_REQ 0) 4) ∧
    ((hov [hv 5 0x22 .secure .secure .quiescing] []).world.hov.find? (fun h => h.dom == 5 && h.blk == hovBlk 5 0x22) = some (hv 5 0x22 .secure .secure .quiescing)) ∧
    ((hov [hv 6 0 .normal .normal .requested] [(HOV_S_PEND_VALID, 1)]).Reached ac0 true (HOV_W_REQ 0) 4) ∧
    (blockListed 0x0603 = true) ∧
    (hovExcluded 6 0 = false) ∧
    ((hov [] []).domPresent 6 = true) ∧
    ((hov [hv 6 0 .normal .normal .requested] [(HOV_S_PEND_VALID, 1)]).world.hov.find? (fun h => h.dom == 6 && h.blk == hovBlk 6 3) = some (hv 6 0 .normal .normal .requested)) ∧
    ((hov [hv 6 0 .normal .normal .requested] [(HOV_S_PEND_VALID, 1)]).owner 6 3 = .secure) ∧
    ((hov [hv 6 0 .normal .normal .requested] [(HOV_S_PEND_VALID, 1)]).outOfReset 6 = true) := by decide +kernel

def hovR : State := { hov [] [] with power := { up.power with doms := (List.range 7).map (fun d => (d + 1, if d + 1 = 6 then { domUp with inReset := true } else domUp)) } }

theorem witness_blocks_are_handed_over_2 :
    (hovR.Reached ac0 true (HOV_W_REQ 0) 4) ∧
    (hovR.outOfReset 6 = false) ∧
    (hovR.domPresent 6 = true) ∧
    (blockListed 0x0522 = true) ∧
    (hovExcluded 5 0x22 = false) ∧
    ((hov [] []).domPresent 5 = true) ∧
    ((hov [] []).outOfReset 5 = true) ∧
    ((hov [] []).owner 5 0x22 = .secure) ∧
    ((hov [] (nOwn 5)).Reached ac0 true (HOV_W_REQ 0) 4) ∧
    ((hov [] (nOwn 5)).owner 5 0x22 = .normal) := by decide +kernel

def norm (s : State) : State := { s with cpu := { s.cpu with harts := s.cpu.harts.map (fun p => (p.1, { p.2 with world := .normal })) } }

theorem witness_blocks_are_handed_over_3 :
    ((norm (hov [] [])).Reached ac0 true (HOV_W_REQ 1) 4) ∧
    ((norm (hov [] [])).outOfReset 5 = true) ∧
    ((norm (hov [hv 5 0x22 .secure .secure .quiescing] [])).Reached ac0 true (HOV_W_REQ 1) 4) ∧
    ((norm (hov [hv 5 0x22 .secure .secure .quiescing] [])).world.hov.find? (fun h => h.stage == .requested && h.req == .normal) = none) := by decide +kernel

def hovQ : State := norm (hov [hv 4 1 .secure .secure .quiescing, hv 5 0x22 .normal .normal .requested] [(HOV_S_PEND_VALID, 1)])

theorem witness_blocks_are_handed_over_4 :
    (hovQ.Reached ac0 true (HOV_W_REQ 1) 4) ∧
    (hovQ.world.hov.find? (fun h => h.stage == .requested && h.req == .normal) = some (hv 5 0x22 .normal .normal .requested)) ∧
    ((hov [] []).Reached ac0 true HOV_S_CONSENT 4) ∧
    ((hov [] []).hovWaiting = none) := by decide +kernel

def hovW : State := hov [hv 4 1 .secure .secure .quiescing, hv 5 0x22 .normal .normal .requested] [(HOV_S_PEND_VALID, 1)]

theorem witness_blocks_are_handed_over_5 :
    (hovW.Reached ac0 true HOV_S_CONSENT 4) ∧
    (hovW.hovWaiting = some (hv 5 0x22 .normal .normal .requested)) ∧
    (hovW.hovAt 4 1 .quiescing = some (hv 4 1 .secure .secure .quiescing)) ∧
    (hovW.hovAt 5 0x22 .quiescing = none) := by decide +kernel

def hovS (st : HovState) : State := hov [hv 5 0x22 .normal .normal st] []

theorem witness_blocks_are_handed_over_6 :
    ((hovS .resetting).hovAt 5 0x22 .resetting = some (hv 5 0x22 .normal .normal .resetting)) ∧
    ((hovS .quiescing).hovAt 5 0x22 .resetting = none) ∧
    ((hovS .reassigning).hovAt 5 0x22 .reassigning = some (hv 5 0x22 .normal .normal .reassigning)) ∧
    (up.world.pmPending = none) ∧
    ((hovS .resetting).hovAt 5 0x22 .reassigning = none) := by decide +kernel

def pmp (p : Option (Nat × Nat × Nat)) : State := { upW [(PWR_W_RES_PEND 1, 1), (PWR_W_DOMREQ_OFF 1, 255), (HOV_S_PMPEND_VALID, 1)] with world := { WorldSt.init with pmPending := p } }

theorem witness_consent_and_watchdog_complete :
    ((pmp none).Reached ac0 true HOV_S_PMCONSENT 4) ∧
    ((pmp none).world.pmPending = none) ∧
    ((pmp (some (7, 1, 2))).Reached ac0 true HOV_S_PMCONSENT 4) ∧
    ((pmp (some (7, 1, 2))).world.pmPending = some (7, 1, 2)) := by decide +kernel

def swd (e : Tab (Option Nat)) : State := { upW [(SWD_CLS_NEXT 1, 65535), (SWD_STATUS_TSDOWN, 1), (SWD_STATUS_TSEXP, 255)] with world := { WorldSt.init with swdExp := e, wardenEntry := 0x30000100 } }

theorem witness_consent_and_watchdog_complete_2 :
    ((swd [(1, some 0)]).Reached ac0 true (SWD_KICK 1) 4) ∧
    (tabGet (fun _ => none) (swd [(1, some 0)]).world.swdExp 1 = some (swd [(1, some 0)]).ticks) ∧
    ((swd []).Reached ac0 true (SWD_KICK 1) 4) ∧
    (tabGet (fun _ => none) (swd []).world.swdExp 1 ≠ some (swd []).ticks) ∧
    ((0 : BitVec 16).toNat ≠ (swd []).get (SWD_CLS_NEXT 1)) ∧
    ((65535 : BitVec 16).toNat = (swd []).get (SWD_CLS_NEXT 1)) ∧
    ((swd []).swdRuns = true) ∧
    (State.reset.swdRuns = false) ∧
    ((swd []).boot.resetWait = none) ∧
    ((swd []).boot.imageRunning = true) := by decide +kernel

def dmv (d : Nat) (v : DomainSt) (s : State) : State := { s with power := { s.power with doms := s.power.doms.map (fun p => if p.1 = d then (p.1, v) else p) } }

theorem witness_domains_and_cores_change_power :
    (up.outOfReset 0 = true) ∧
    ((dmv 7 DomainSt.init up).outOfReset 7 = false) ∧
    (up.outOfReset 7 = true) := by decide +kernel

def pll : State := dmv APC ⟨.up, true, false, false⟩ up

theorem witness_domains_and_cores_change_power_2 :
    (pll.booted = true) ∧
    ((pll.dom 3).power = .up) ∧
    ((pll.dom 3).inReset = true) ∧
    (pll.fenceOpen MEM = true) := by decide +kernel

def wdn : State := dmv NET ⟨.up, false, false, false⟩ up

theorem witness_domains_and_cores_change_power_3 :
    (wdn.booted = true) ∧
    ((wdn.dom 5).power = .up) ∧
    ((wdn.dom 5).inReset = false) := by decide +kernel

def iso (apc : DomainSt) : State := dmv APC apc (dmv MEM ⟨.down, true, false, false⟩ up)

theorem witness_domains_and_cores_change_power_4 :
    (((iso DomainSt.init).dom 4).power = .down) ∧
    ((iso DomainSt.init).domQuiet 4 = true) ∧
    (((iso domUp).dom 4).power = .down) ∧
    ((iso domUp).domQuiet 4 = false) := by decide +kernel

def pmq (p : Option (Nat × Nat × Nat)) (l : List (Fld × Nat)) : State := norm { upW l with world := { WorldSt.init with pmPending := p } }

theorem witness_domains_and_cores_change_power_5 :
    (up.Reached ac0 true (PWR_W_DOMREQ 0) 4) ∧
    ((pmq (some (6, 1, 2)) []).Reached ac0 true (PWR_W_DOMREQ 1) 4) ∧
    ((pmq (some (6, 1, 2)) []).world.pmPending.isSome = true) ∧
    ((pmq none []).Reached ac0 true (PWR_W_DOMREQ 1) 4) ∧
    ((pmq none []).world.pmPending = none) ∧
    ((pmq none []).secureBlocks 7 = true) ∧
    ((pmq none (nOwn 7)).Reached ac0 true (PWR_W_DOMREQ 1) 4) ∧
    ((pmq none (nOwn 7)).world.pmPending = none) ∧
    ((pmq none (nOwn 7)).secureBlocks 7 = false) ∧
    ((pmq (some (7, 1, 2)) [(PWR_W_DOMREQ_OFF 1, 255)]).Reached ac0 true (PWR_W_DOMREQ 1) 4) ∧
    ((pmq (some (7, 1, 2)) [(PWR_W_DOMREQ_OFF 1, 255)]).world.pmPending = some (7, 1, 2)) ∧
    (up.Reached ac0 true (PWR_W_GATE 0) 4) ∧
    ((pmq none []).Reached ac0 true (PWR_W_GATE 1) 4) ∧
    ((pmq none []).normalOwned 5 0x22 = false) := by decide +kernel

theorem witness_domains_and_cores_change_power_6 :
    ((pmq none (nOwn 5)).Reached ac0 true (PWR_W_GATE 1) 4) ∧
    ((pmq none (nOwn 5)).normalOwned 5 0x22 = true) ∧
    ((pmq none (nOwn 5)).world.pmPending = none) ∧
    (blockListed 0x0522 = true) ∧
    (up.blockUnpowered 0x0522 = false) ∧
    ((pmq none (nOwn 5)).blockIdle 5 0x22 = true) ∧
    ((up.dom 5).emul = false) ∧
    (blockListed 0x0307 = true) ∧
    (up.blockUnpowered 0x0307 = false) ∧
    (up.blockIdle 3 7 = false) ∧
    ((fus 0 0 0).Reached ac0 true (PWR_S_CORE 7) 4) ∧
    ((fus 0 0 0).coreAbsent 7 = true) ∧
    (up.Reached ac0 true (PWR_S_CORE 7) 4) ∧
    (up.coreAbsent 7 = false) ∧
    ((2 : BitVec 2) ≠ 3) := by decide +kernel

def coff : State := { upW [(PWR_S_CORE_STATE 7, 2), (PWR_S_CORE_REQ 7, 2)] with cpu := { up.cpu with harts := [(0, hartUp)] } }

theorem witness_domains_and_cores_change_power_7 :
    (coff.Reached ac0 true (PWR_S_CORE 7) 4) ∧
    (coff.coreAbsent 7 = false) ∧
    (coff.get (PWR_S_CORE_STATE 7) ≠ 0) ∧
    (coff.outOfReset APC = true) := by decide +kernel

def cwf (r : Nat) (d : Bool) : State := { hs 7 (fun t => { t with wfi := true }) [(PWR_S_CORE_REQ 7, r)] id with dbgm := { DebugSt.init with active := d } }

theorem witness_domains_and_cores_change_power_8 :
    ((cwf 1 true).coreAbsent 7 = false) ∧
    ((cwf 1 true).outOfReset APC = true) ∧
    (((cwf 1 true).hart 7).wfi = true) ∧
    (((cwf 1 true).hart 7).sb = []) ∧
    (((cwf 1 true).hart 7).dev = none) ∧
    ((cwf 1 true).get (PWR_S_CORE_STATE 7) < (cwf 1 true).get (PWR_S_CORE_REQ 7)) ∧
    ((cwf 1 true).get (PWR_S_CORE_REQ 7) = 1) ∧
    ((cwf 2 false).coreAbsent 7 = false) ∧
    ((cwf 2 false).outOfReset APC = true) ∧
    (((cwf 2 false).hart 7).wfi = true) ∧
    (((cwf 2 false).hart 7).sb = []) ∧
    (((cwf 2 false).hart 7).dev = none) ∧
    ((cwf 2 false).get (PWR_S_CORE_STATE 7) < (cwf 2 false).get (PWR_S_CORE_REQ 7)) ∧
    ((cwf 2 false).get (PWR_S_CORE_REQ 7) ≠ 1) ∧
    ((cwf 2 false).dbgm.active = false) ∧
    ((up.hart 7).wfi = false) := by decide +kernel

def gov (m : Nat) (l : List (Fld × Nat)) (f : PowerSt → PowerSt) : State := { upW ([(PWR_GOV_MODE, m)] ++ l) with power := f up.power }

theorem witness_modes_and_wake_complete :
    ((gov 0 [(PWR_APCCLK_CLK1, 2350)] id).outOfReset APC = true) ∧
    ((gov 0 [(PWR_GOV_BUDGET, 300)] id).outOfReset AON = true) ∧
    ((gov 0 [(PWR_GOV_BUDGET, 300)] id).power.layout < 2) ∧
    (2 ≤ (gov 0 [(PWR_GOV_BUDGET, 300)] id).get FIRE_STATUS_STAGE) ∧
    ((gov 0 [(PWR_GOV_BUDGET, 300)] id).effBudget < (1023 : BitVec 10).toNat) ∧
    ((gov 0 [] id).Reached ac0 true (PWR_W_MODEREQ 0) 4) := by decide +kernel

def keepS (m : Nat) : State := { gov m [] (fun p => { p with layout := 1 }) with dbgm := DebugSt.init }

theorem witness_modes_and_wake_complete_2 :
    ((keepS 2).ldg.closing = none) ∧
    ((keepS 2).coresDrained = true) ∧
    ((keepS 2).entering = true) ∧
    ((keepS 2).get PWR_GOV_MODE = 2) ∧
    ((keepS 2).emulEntry = false) ∧
    ((keepS 3).ldg.closing = none) ∧
    ((keepS 3).coresDrained = true) ∧
    ((keepS 3).entering = true) ∧
    ((keepS 3).get PWR_GOV_MODE = 3) ∧
    ((keepS 3).emulEntry = false) ∧
    (up.entering = false) := by decide +kernel

def keepX : State := dmv SEC ⟨.ret, false, false, false⟩ (gov 1 [] (fun p => { p with layout := 2 }))

theorem witness_modes_and_wake_complete_3 :
    (keepX.booted = true) ∧
    (2 ≤ keepX.power.layout) ∧
    (keepX.get PWR_GOV_MODE < keepX.power.layout) ∧
    (keepX.asleep = false) ∧
    (keepX.get PWR_GOV_MODE < 2) := by decide +kernel

def aotS (f : PowerSt → PowerSt) (l : List (Fld × Nat)) : State := { upW l with power := f { up.power with aotValid := true, aot := 2 ^ 96 - 1 }, time := (vts 7 id).time }

theorem witness_modes_and_wake_complete_4 :
    ((aotS id []).power.sup.supplied = true) ∧
    ((aotS id []).aotTracks = true) := by decide +kernel

def aotO : State := dmv TKD DomainSt.init (aotS id [(AOT_RATE_RATE, 7)])

theorem witness_modes_and_wake_complete_5 :
    (aotO.power.sup.supplied = true) ∧
    (aotO.aotTracks = false) ∧
    (aotO.power.aotValid = true) := by decide +kernel

def aotL : State := aotS id [(AOT_STATUS_TRACKING, 1), (VT_STATUS_STATE 0, 3), (AOT_CTL_LEARN, 1)]

theorem witness_modes_and_wake_complete_6 :
    (aotL.outOfReset AON = true) ∧
    (aotL.on AOT_STATUS_TRACKING = true) ∧
    (aotL.aotTracks = true) ∧
    (3 ≤ aotL.syncState 0) ∧
    (aotL.on AOT_CTL_LEARN = true) := by decide +kernel

def aotA (v : Nat) : State := aotS id [(AOT_CTL_ALARM_EN, 1), (⟨AOT_ALARM, 0, 64⟩, v)]

theorem witness_modes_and_wake_complete_7 :
    ((aotA (2 ^ 64 - 1)).outOfReset AON = true) ∧
    ((aotA (2 ^ 64 - 1)).on AOT_CTL_ALARM_EN = true) ∧
    ((aotA (2 ^ 64 - 1)).power.aotValid = true) ∧
    ((aotA (2 ^ 64 - 1)).rd AOT_ALARM ≤ (aotA (2 ^ 64 - 1)).power.aot / 2 ^ 32) ∧
    ((aotA (2 ^ 64 - 1)).wakeOn 0 = false) := by decide +kernel

def aotE : State := { aotA 9 with power := { (aotA 9).power with aot := 2 ^ 32 * 9 - 1 } }

theorem witness_modes_and_wake_complete_8 :
    (aotE.power.aot / 2 ^ 32 < aotE.rd AOT_ALARM) ∧
    (aotE.power.aotValid = true) ∧
    (aotE.on AOT_CTL_ALARM_EN = true) := by decide +kernel

def wk (m : Nat) (e p : Nat) : State := gov m [(⟨WAKE_EN, 0, 16⟩, e), (WAKE_EN_PINS, p), (PWR_W_MODEREQ_REQ 0, m), (PWR_W_MODEREQ_REQ 1, m)] (fun x => { x with layout := m, canWake := 2 })

theorem witness_modes_and_wake_complete_9 :
    ((wk 2 (2 ^ 5) (2 ^ 15)).wakeOn 5 = true) ∧
    (bitAt ((wk 2 (2 ^ 5) (2 ^ 15)).get WAKE_EN_PINS) 15 = true) ∧
    ((wk 2 (2 ^ 5) (2 ^ 15)).asleep = false) ∧
    ((wk 2 (2 ^ 5) (2 ^ 15)).get WAKE_CAUSE_FIRST = 0) ∧
    (bitAt ((wk 2 (2 ^ 5) (2 ^ 14)).get WAKE_EN_PINS) 15 = false) ∧
    ((wk 2 0 (2 ^ 15)).wakeOn 5 = false) := by decide +kernel

def wkZ : State := dmv NET DomainSt.init (dmv SEC DomainSt.init (wk 3 (2 ^ 4) 0))

theorem witness_modes_and_wake_complete_10 :
    (wkZ.wakeOn (3 + 1) = true) ∧
    (wkZ.canArmed 1 = true) ∧
    (wkZ.asleep = true) ∧
    ((wk 2 (2 ^ 6) 0).Reached (.hart 11) true WAKE_SWREQ 4) ∧
    ((wk 2 (2 ^ 6) 0).wakeOn 6 = true) ∧
    ((wk 2 (2 ^ 6) 0).get PWR_GOV_MODE = 2) ∧
    ((wk 2 (2 ^ 6) 0).Reached (.hart 12) true WAKE_SWREQ 4) := by decide +kernel

def sup (l : List (Fld × Nat)) (f : SupplySt → SupplySt) : State := { upW ([(SUP_STATUS_NOMINAL, 0), (SUP_LEVELS_WARN, 960), (SUP_LEVELS_RESTORE, 1000), (SUP_LEVELS_RESET, 800)] ++ l) with power := { up.power with sup := f up.power.sup } }

theorem witness_supply_events_complete :
    ((sup [(SUP_STATUS_PODL_OK, 1)] id).outOfReset AON = true) ∧
    ((sup [(SUP_STATUS_PODL_OK, 1)] id).get SUP_STATUS_INPUT = 0) ∧
    ((sup [(SUP_STATUS_PODL_OK, 1)] id).on SUP_STATUS_PODL_OK = true) ∧
    ((sup [(SUP_STATUS_INPUT, 1)] id).get SUP_STATUS_INPUT = 1) ∧
    (vsupIn 901 = true) ∧
    ((sup [] id).get SUP_STATUS_INPUT = 0) ∧
    (vsupIn 900 = false) := by decide +kernel

def supN (por : Bool) : State := { State.reset with power := { PowerSt.init with porst := por } }

theorem witness_supply_events_complete_2 :
    ((supN true).power.sup.supplied = false) ∧
    ((supN true).power.porst = true) ∧
    ((supN false).power.sup.supplied = false) ∧
    ((sup [(SUP_STATUS_INPUT, 1)] id).power.sup.supplied = true) ∧
    ((sup [(SUP_STATUS_INPUT, 1)] id).wakeOn 1 = false) := by decide +kernel

def dip (r : Bool) : State := sup [(SUP_STATUS_DIP, 1), (PWR_APCCLK_CLAMP, 1), (SUP_DIPCNT_LONGEST, 5)] (fun x => { x with lowest := 900, restoring := r })

theorem witness_supply_events_complete_3 :
    ((sup [(PWR_APCCLK_CLK0, 2400)] id).supMon = true) ∧
    (959 < (sup [] id).get SUP_LEVELS_WARN) ∧
    ((sup [] id).on SUP_STATUS_DIP = false) ∧
    ((dip true).supMon = true) ∧
    (959 < (dip true).get SUP_LEVELS_WARN) ∧
    ((dip true).on SUP_STATUS_DIP = true) ∧
    ((sup [] id).get SUP_LEVELS_WARN ≤ 960) ∧
    ((dip false).supMon = true) ∧
    ((dip false).on SUP_STATUS_DIP = true) ∧
    ((dip false).get SUP_LEVELS_RESTORE ≤ 1000) ∧
    ((dip true).power.sup.restoring = true) ∧
    ((dip false).power.sup.restoring = false) ∧
    ((dip false).power.sup.supplyReset = false) ∧
    (799 < (dip false).get SUP_LEVELS_RESET) ∧
    ((sup [(SUP_STATUS_VSUP_OK, 1)] id).get SUP_STATUS_INPUT = 0) ∧
    ((sup [(SUP_STATUS_VSUP_OK, 1)] id).supMon = true) ∧
    ((sup [(SUP_STATUS_VSUP_OK, 1)] id).on SUP_STATUS_PODL_OK = false) ∧
    ((sup [(SUP_STATUS_VSUP_OK, 1)] id).power.sup.supplyReset = false) := by decide +kernel

def srs (o r : Bool) : State := sup [] (fun x => { x with supplyReset := true, restoring := r, overVolt := o })

theorem witness_supply_events_complete_4 :
    ((srs false true).supMon = true) ∧
    ((srs false true).power.sup.supplyReset = true) ∧
    ((srs false true).power.sup.restoring = true) ∧
    ((srs false true).power.sup.overVolt = false) ∧
    ((srs true false).supMon = true) ∧
    ((srs true false).power.sup.overVolt = true) ∧
    ((srs true false).power.sup.supplyReset = true) ∧
    (vsupIn 6000 = true) ∧
    ((sup [] (fun x => { x with holdup := true })).power.sup.holdup = true) ∧
    (up.power.sup.holdup = false) ∧
    (up.power.sup.supplied = true) ∧
    (State.reset.power.sup.supplied = false) := by decide +kernel

def dbgS (a : Bool) (f : HartSt → HartSt) (l : List (Fld × Nat)) (en : Nat) : State := { hs 7 (fun t => f { t with pc := 0x1000, priv := .vs, world := .normal, resv := some 3, x := [(31, 9)] }) l id with dbgm := { DebugSt.init with active := a }, boot := { up.boot with fuses := { FuseSt.blank with dbg := [en] } } }

theorem witness_debug_enters_and_resumes :
    ((dbgS false id [] 15).dbgm.active = false) := by decide +kernel

def hlt (d : Nat) : State := dbgS true (fun t => { t with halted := true, csr := [(csrDcsr, d), (csrDpc, 2 ^ 64 - 2)] }) [] 15

theorem witness_debug_enters_and_resumes_2 :
    ((hlt 1).dbgm.active = true) ∧
    ((hlt 1).outOfReset AON = true) ∧
    (((hlt 1).hart ((hlt 1).debugHart 7)).halted = true) ∧
    (((dbgS true id [] 15).hart ((dbgS true id [] 15).debugHart 7)).halted = false) ∧
    ((dbgS true id [] 15).debugReach ((dbgS true id [] 15).debugHart 7) = true) ∧
    ((dbgS true id [] 15).invasive ((dbgS true id [] 15).hartWorld ((dbgS true id [] 15).debugHart 7)) = true) ∧
    ((dbgS true id [] 15).epochMode (clusterOf ((dbgS true id [] 15).debugHart 7)) = false) ∧
    ((dbgS true id [] 15).get (XTRG_IN_CH ((dbgS true id [] 15).debugHart 7)) = 0) ∧
    ((dbgS true id [] 15).inSaggar ((dbgS true id [] 15).debugHart 7) = false) ∧
    (((dbgS true id [] 3).hart ((dbgS true id [] 3).debugHart 7)).halted = false) ∧
    ((dbgS true id [] 3).invasive ((dbgS true id [] 3).hartWorld ((dbgS true id [] 3).debugHart 7)) = false) ∧
    ((hlt 1).debugReach ((hlt 1).debugHart 7) = true) ∧
    ((dbgS true id [] 15).outOfReset AON = true) ∧
    ((dbgS false id [] 15).outOfReset AON = true) := by decide +kernel

def xtr (w : World) (en : Nat) (l : List (Fld × Nat)) : State := { dbgS true (fun t => { t with world := w, priv := .m }) l en with cpu := { CpuSt.init with harts := [(0, hartUp), (7, { hartUp with world := w })] } }

theorem witness_debug_enters_and_resumes_3 :
    ((xtr .secure 15 []).Reached ac0 true XTRG_PULSE 4) ∧
    ((0x8000 : BitVec 16) ≠ 0) ∧
    ((List.range 29).all (fun k => Nat.land ((xtr .secure 15 []).get (XTRG_OUT_CH k)) 0x8000 == 0) = true) := by decide +kernel

def xo : List (Fld × Nat) := [(XTRG_OUT_CH 7, 0x8001)]

theorem witness_debug_enters_and_resumes_4 :
    ((xtr .secure 15 xo).Reached ac0 true XTRG_PULSE 4) ∧
    ((List.range 29).all (fun k => k == 7 || Nat.land ((xtr .secure 15 xo).get (XTRG_OUT_CH k)) 0x8000 == 0) = true) ∧
    (Nat.land ((xtr .secure 15 xo).get (XTRG_OUT_CH 7)) 0x8000 ≠ 0) ∧
    ((xtr .secure 15 xo).debugReach 7 = true) ∧
    ((xtr .secure 15 xo).debugHart 7 = 7) ∧
    (((xtr .secure 15 xo).hart 7).halted = false) ∧
    ((xtr .secure 15 xo).epochMode (clusterOf 7) = false) ∧
    ((xtr .secure 15 xo).get (XTRG_IN_CH 7) = 0) ∧
    ((xtr .secure 15 xo).invasive ((xtr .secure 15 xo).hartWorld 7) = true) ∧
    ((xtr .normal 3 xo).Reached ac0 true XTRG_PULSE 4) ∧
    ((List.range 29).all (fun k => k == 7 || Nat.land ((xtr .normal 3 xo).get (XTRG_OUT_CH k)) 0x8000 == 0) = true) ∧
    ((xtr .normal 3 xo).debugReach 7 = true) ∧
    ((xtr .normal 3 xo).epochMode (clusterOf 7) = false) ∧
    ((xtr .normal 3 xo).invasive ((xtr .normal 3 xo).hartWorld 7) = false) := by decide +kernel

def cpt (d : Nat) : State := { upW [(TP_CFG_FUNC 15, 2), (TP_CFG_EDGE 15, 2), (TP_CFG_DEGLITCH 15, d)] with time := { (vts 7 id).time with pins := [(15, { PinSt.init with fifo := List.replicate 15 ⟨⟨1, 2, 3, 1⟩, true, false⟩ })] } }

theorem witness_debug_enters_and_resumes_5 :
    ((cpt 1).edgeTaken 15 false 7 4 = false) ∧
    ((cpt 1).edgeTaken 15 false 7 5 = true) ∧
    ((cpt 1).get (XTRG_IN_CH (32 + 15)) = 0) ∧
    (((cpt 1).pin 15).fifo.length < 16) ∧
    ((dbgS true id [] 15).dbgm.active = true) ∧
    (((dbgS true id [] 15).hart ((dbgS true id [] 15).debugHart 7)).halted = false) ∧
    ((hlt 1).invasive ((hlt 1).hartWorld ((hlt 1).debugHart 7)) = true) ∧
    ((0x101F : BitVec 16) = 0x1000 + BitVec.ofNat 16 (31 : Fin 32).val) ∧
    (csrKnown ((hlt 1).debugHart 7) (0xFFF : BitVec 16).toNat = false) ∧
    ((0xFFF : BitVec 16).toNat < 0x1000) ∧
    ((0x80000002 : Word).toNat % 2 ^ hartXlen ((hlt 1).debugHart 7) % 4 ≠ 0) := by decide +kernel

def cwd (e : Tab (Option Nat)) : State := { upW [(CWD_CFG_PERIOD_US 7, 2 ^ 20)] with guard := { GuardSt.init with cwdExp := e } }

theorem witness_core_watchdogs_and_counters_complete :
    ((cwd [(7, some 0)]).Reached ac0 true (CWD_KICK 7) 4) ∧
    (tabGet (fun _ => none) (cwd [(7, some 0)]).guard.cwdExp 7 = some (cwd [(7, some 0)]).ticks) ∧
    ((cwd []).Reached ac0 true (CWD_KICK 7) 4) ∧
    (tabGet (fun _ => none) (cwd []).guard.cwdExp 7 ≠ some (cwd []).ticks) := by decide +kernel

def cwr (e r : Nat) : State := hs 7 (fun t => { t with pos := 5, priv := .u, sb := [sbe 5 1 1 0] }) [(CWD_CFG_EN 7, 1), (CWD_STATUS_EXPIRED 7, e), (CWD_CFG_RESTART 7, r), (ACC_STATUS_POWER 7, 1)] id

theorem witness_core_watchdogs_and_counters_complete_2 :
    (up.cwdRuns 7 = false) ∧
    ((cwr 0 1).cwdRuns 7 = true) ∧
    ((cwr 0 1).on (CWD_STATUS_EXPIRED 7) = false) ∧
    ((cwr 1 0).cwdRuns 7 = true) ∧
    ((cwr 1 0).on (CWD_STATUS_EXPIRED 7) = true) ∧
    ((cwr 1 0).on (CWD_CFG_RESTART 7) = false) ∧
    ((cwr 1 1).cwdRuns 7 = true) ∧
    ((cwr 1 1).on (CWD_STATUS_EXPIRED 7) = true) ∧
    ((cwr 1 1).on (CWD_CFG_RESTART 7) = true) ∧
    (up.Reached ac0 true (PMU_CNT (pmuBase .mem) 64) 4) ∧
    (pmuN (.page (pmuBase .mem)) ≤ 64) ∧
    ((fus 0 0 0).Reached ac0 true (PMU_CNT (pmuBase (.core 7)) 95) 4) ∧
    ((fus 0 0 0).pmuMirror (.core 7) = true) ∧
    (up.Reached ac0 true (PMU_CNT (pmuBase (.core 7)) 95) 4) ∧
    (95 < pmuN (.page (pmuBase (.core 7)))) ∧
    (up.pmuMirror (.core 7) = false) ∧
    (up.get (pmuCnt (.page (pmuBase (.core 7))) 95) ≠ 0xFFFFFFFF) := by decide +kernel

theorem witness_core_watchdogs_and_counters_complete_3 :
    ((upW [(pmuCnt (.page (pmuBase (.port 3))) 0, 0xFFFFFFFF)]).Reached ac0 true (PMU_CNT (pmuBase (.port 3)) 0) 4) ∧
    (0 < pmuN (.page (pmuBase (.port 3)))) ∧
    ((upW [(pmuCnt (.page (pmuBase (.port 3))) 0, 0xFFFFFFFF)]).get (pmuCnt (.page (pmuBase (.port 3))) 0) = 0xFFFFFFFF) := by decide +kernel

def pms (i : Nat) : State := upW [(PMU_SNAPSEL_IDX pmuMemBase, i), (pmuCnt (.page pmuMemBase) 62, 7), (pmuCnt (.page pmuMemBase) 63, 9)]

def pmd : State := { pms 63 with dbgm := up.dbgm, cpu := { up.cpu with harts := [(0, { hartUp with halted := true })] } }

theorem witness_core_watchdogs_and_counters_complete_4 :
    (pmd.Reached ac0 false (PMU_SNAP (pmuBase .mem)) 8) ∧
    (pmd.debugRead ac0 = true) ∧
    ((pms 63).Reached ac0 false (PMU_SNAP (pmuBase .mem)) 8) ∧
    ((pms 63).debugRead ac0 = false) ∧
    (isDap ac0 = false) ∧
    (0 < (pms 63).get (PMU_SNAPSEL_IDX (pmuBase .mem))) ∧
    ((pms 63).get (PMU_SNAPSEL_IDX (pmuBase .mem)) < pmuN (.page (pmuBase .mem))) := by decide +kernel

def bww (u : Nat) : State := { upW [(PMU_BWCFG_WIN_US pmuMemBase, u), (⟨PMU_BWPEAK pmuMemBase 10, 0, 64⟩, 5), (⟨PMU_BWPEAK pmuMemBase 9, 0, 64⟩, 50)] with pmu := ⟨[(9, 7), (10, 7)]⟩ }

theorem witness_core_watchdogs_and_counters_complete_5 :
    ((bww 0).runs MEM 3 = true) ∧
    ((bww 0).get (PMU_BWCFG_WIN_US pmuMemBase) = 0) ∧
    ((bww 1).runs MEM 3 = true) ∧
    ((bww 1).get (PMU_BWCFG_WIN_US pmuMemBase) ≠ 0) ∧
    ((bww 1).Reached ac0 true (PMU_BWCFG pmuMemBase) 4) := by decide +kernel

def csc (l : List (Fld × Nat)) (f : CascadeSt → CascadeSt) : State := { upW ([(CSC_STATUS_MYID, 1), (CSC_CTL_LINKEN, 3)] ++ l) with casc := f CascadeSt.init }

def cle : State := upW [(CSC_CTL_LINKEN, 1)]

theorem witness_cascade_commands_complete :
    (cle.cscOn = true) ∧
    (bitAt (cle.get CSC_CTL_LINKEN) 1 = false) ∧
    ((csc [(CSC_LINK_UP 1, 1)] id).on (CSC_LINK_UP 1) = true) ∧
    (quietSns.cscOn = false) ∧
    ((csc [] id).cscOn = true) ∧
    (bitAt ((csc [] id).get CSC_CTL_LINKEN) 1 = true) ∧
    ((csc [] id).on (CSC_LINK_UP 1) = false) ∧
    ((csc [] id).myId = 1) ∧
    ((2 : ModId).val ≠ (csc [] id).myId) ∧
    ((csc [] id).cscIsolated = true) := by decide +kernel

def cup (l : List (Fld × Nat)) (f : CascadeSt → CascadeSt) : State := csc ([(CSC_LINK_UP 0, 1), (CSC_LINK_UP 1, 1), (CSC_STATUS_PRESENT, 2)] ++ l) f

theorem witness_cascade_commands_complete_2 :
    ((cup [] id).on (CSC_LINK_UP 1) = true) ∧
    ((cup [] id).cscOn = true) ∧
    ((cup [] id).casc.settled = false) ∧
    ((cup [] (fun c => { c with settled := true })).cscOn = true) ∧
    ((cup [] (fun c => { c with settled := true })).casc.settled = true) ∧
    ((cup [] (fun c => { c with settled := true })).listens 0 = false) ∧
    ((cup [] (fun c => { c with settled := true })).listens 1 = false) ∧
    ((cup [(CSC_HBMISS_MISS 3, 255)] id).cscOn = true) := by decide +kernel

def hb (src : ModId) (m : Bool) : Heartbeat := ⟨src, m, 1, 300, 0, []⟩

theorem witness_cascade_commands_complete_3 :
    ((hb 1 false).src.val = (cup [] id).myId) ∧
    ((hb 2 false).src.val ≠ (cup [] id).myId) ∧
    ((hb 2 false).master = false) ∧
    ((cup [] id).cscPresent 2 = false) ∧
    ((cup [] id).on (CSC_LINK_UP 1) = true) := by decide +kernel

def cpr (m : Nat) (l : List (Fld × Nat)) : State := cup ([(CSC_STATUS_PRESENT, 6), (CSC_HBMISS_MISS 2, m), (CSC_MBX_TX_STAT_NEXTSEQ 2, 7)] ++ l) (fun c => { c with mail := [⟨2, [], 6⟩] })

theorem witness_cascade_commands_complete_4 :
    ((cpr 3 []).get (CSC_HBMISS_MISS 2) < 4) ∧
    ((cpr 4 [(CSC_MBX_TX_STAT_PEND 2, 1)]).cscOn = true) ∧
    ((cpr 4 [(CSC_MBX_TX_STAT_PEND 2, 1)]).cscPresent 2 = true) ∧
    (4 ≤ (cpr 4 [(CSC_MBX_TX_STAT_PEND 2, 1)]).get (CSC_HBMISS_MISS 2)) ∧
    ((cpr 0 []).Reached ac0 true (CSC_MBX_TX_CMD 2) 4) ∧
    ((cpr 0 []).cscMbxJudge 2 6 ≠ .ok) ∧
    ((cpr 0 [(CSC_MBX_TX_WORD 2 7, 9)]).cscMbxJudge 2 7 = .ok) ∧
    ((cpr 0 []).cscOn = true) ∧
    ((cpr 0 []).cscPresent 2 = true) ∧
    ((cpr 0 []).on (CSC_MBX_RX_SEQ_VALID 2) = false) ∧
    ((cpr 0 [(CSC_MBX_RX_SEQ_VALID 2, 1)]).on (CSC_MBX_RX_SEQ_VALID 2) = true) ∧
    ((cpr 0 [(CSC_MBX_RX_SEQ_VALID 2, 1)]).cscPresent 2 = true) ∧
    (((cpr 0 []).casc.mail.any (fun m => m.dest == 2 && m.seq == 6)) = true) := by decide +kernel

def fwr (l : List (Fld × Nat)) : State := cpr 0 ([(CSC_FWD_RULE_DEST 63, 2)] ++ l)

theorem witness_cascade_commands_complete_5 :
    ((cpr 0 []).Reached ac0 true (CSC_FWD_RULE 63) 8) ∧
    ((cpr 0 []).fwdJudge 63 ≠ .ok) ∧
    ((fwr []).Reached ac0 true (CSC_FWD_RULE 63) 8) ∧
    ((fwr []).fwdJudge 63 = .ok) := by decide +kernel

def fwu : FwdUnit := .csi 7 15 63 [1, 2, 3] false false ⟨1, 2, 3, 1⟩

theorem witness_cascade_commands_complete_6 :
    ((dmv 7 DomainSt.init up).cscOn = false) ∧
    ((camUp []).cscOn = true) ∧
    (upB.Reached ac0 true CSC_KEYCMD 4) ∧
    (upB.coneJudge 3 (upB.coneSteps 3) = .ok) ∧
    (upBurn.Reached ac0 true CSC_KEYCMD 4) ∧
    (upBurn.coneJudge 3 (upBurn.coneSteps 3) ≠ .ok) := by decide +kernel

def csrS (p : Priv) (c : Tab Nat) : State := vts 7 (fun t => { t with priv := p, csr := c, pos := 9 })

theorem witness_csrs_are_read_and_written :
    State.Ready (csrS .u []) 7 ∧
    State.Ready (csrS .m [(0x340, 5)]) 7 ∧
    State.Ready (csrS .vs []) 7 ∧
    ((csrS .u []).csrCheck 7 0x340 (CsrOp.read != .read) = some 2) ∧
    ((csrS .m [(0x340, 5)]).csrCheck 7 0x340 false = none) ∧
    (((csrS .m [(0x340, 5)]).hart 7).priv = .m) ∧
    (CsrOp.set ≠ .read) ∧
    (7 < 12) ∧
    (((csrS .m [(0x7C0, 4)]).hart 7).modeOld = []) ∧
    (virt ((csrS .vs []).hart 7).priv = true) ∧
    (virt ((csrS .m [(0x340, 5)]).hart 7).priv = false) :=
  ⟨ready_of (by decide +kernel),
   ready_of (by decide +kernel),
   ready_of (by decide +kernel),
   by decide +kernel⟩

theorem witness_bus_accesses_complete :
    (up.isWindow (0x800000000 : PAddr).toNat = false) := by decide +kernel

def aal : PAddr := BitVec.ofNat _ AOT_ALARM

theorem witness_bus_accesses_complete_2 :
    (up.isWindow aal.toNat = true) ∧
    (up.agentLive ac0 = true) ∧
    (isDap ac0 = false) ∧
    (up.winJudge ac0 (up.agentSlice ac0) true aal.toNat 8 = .ok) ∧
    (aal.toNat = AOT_ALARM) ∧
    (up.winJudge ac0 (up.agentSlice ac0) true aal.toNat 2 = .bad) ∧
    ((norm up).agentLive ac0 = true) ∧
    ((norm up).isWindow CONE_STEPS = true) ∧
    ((norm up).winJudge ac0 ((norm up).agentSlice ac0) true (BitVec.ofNat 44 CONE_STEPS).toNat 8 = .refuse .denied) ∧
    (up.winJudge ac0 (up.agentSlice ac0) true (LDG_W_CMD 0) 4 = .ok) ∧
    ((BitVec.ofNat 44 (LDG_W_CMD 0)).toNat = LDG_W_CMD 0) ∧
    (up.winJudge ac0 (up.agentSlice ac0) true STT_PROBE 4 = .ok) ∧
    ((BitVec.ofNat 44 STT_PROBE).toNat = STT_PROBE) := by decide +kernel

def sbd : State := { scr with regs := (scr.put DAP_SBCTL_WORLD 0).regs }

def scA : PAddr := BitVec.ofNat _ scratchBase

theorem witness_bus_accesses_complete_3 :
    (State.reset.agentLive (.dap (worldOf (State.reset.get DAP_SBCTL_WORLD))) = false) := by decide +kernel

def sbN : State := { sbd with boot := { up.boot with fuses := { FuseSt.blank with dbg := [2] } } }

theorem witness_bus_accesses_complete_4 :
    (sbN.agentLive (.dap (worldOf (sbN.get DAP_SBCTL_WORLD))) = true) ∧
    (sbN.sbAllowed (worldOf (sbN.get DAP_SBCTL_WORLD)) true scA.toNat ≠ true) ∧
    (sbd.agentLive (.dap (worldOf (sbd.get DAP_SBCTL_WORLD))) = true) ∧
    (sbd.sbAllowed (worldOf (sbd.get DAP_SBCTL_WORLD)) true (0x80000002 : PAddr).toNat = true) ∧
    (sbd.isWindow (0x80000002 : PAddr).toNat = false) ∧
    ((0x80000002 : PAddr).toNat % AccSize.bytes .b4 ≠ 0) ∧
    (sbd.isWindow aal.toNat = true) ∧
    (sbd.sbAllowed (worldOf (sbd.get DAP_SBCTL_WORLD)) true aal.toNat = true) ∧
    (sbd.winJudge (.dap (worldOf (sbd.get DAP_SBCTL_WORLD))) (sbd.agentSlice (.dap (worldOf (sbd.get DAP_SBCTL_WORLD)))) true aal.toNat 8 = .ok) ∧
    (sbd.sbAllowed (worldOf (sbd.get DAP_SBCTL_WORLD)) true scA.toNat = true) ∧
    (sbd.sbAllowed (worldOf (sbd.get DAP_SBCTL_WORLD)) false scA.toNat = true) ∧
    (sbd.region scA.toNat = .scratch 0 0) ∧
    (scA.toNat % AccSize.bytes .b8 = 0) ∧
    (sbd.physVerdict (worldOf (sbd.get DAP_SBCTL_WORLD)) none .write scA.toNat = .ok) ∧
    (sbd.physVerdict (worldOf (sbd.get DAP_SBCTL_WORLD)) none .read scA.toNat = .ok) ∧
    (sbd.sramPoisoned (scA.toNat / 64) = false) ∧
    (dmaBlock (0x140 : DevId).toNat = none) := by decide +kernel

def dmx : State := { scr with power := (dmv 6 DomainSt.init up).power }

theorem witness_bus_accesses_complete_5 :
    (dmaBlock (0x13F : DevId).toNat = some (SNS, 0)) ∧
    (dmx.runs SNS 0 = false) := by decide +kernel

def dms : State := { scr with regs := (scr.put ⟨ioDdtp, 0, 64⟩ 1).regs, cpu := up.cpu }

theorem witness_bus_accesses_complete_6 :
    (dms.runs SNS 0 = true) ∧
    (SNS ≠ HST) ∧
    (0 < [(5 : Byte), 6].length) ∧
    ([(5 : Byte), 6].length ≤ 64 - (0x8000003E : Word).toNat % 64) ∧
    (dms.dmaAddr (dms.owner SNS 0) (srcId SNS 0) ⟨(0x13F : DevId).toNat, none, true, (0x8000003E : Word).toNat⟩ = (dms, .ok 0x8000003E)) ∧
    (dms.region 0x8000003E = .scratch 0 62) := by decide +kernel

def pci : State := { up with pcieLink := true }

def cqO (k : Nat) : BitVec 20 := BitVec.ofNat _ (4096 * Config.ldgCqPage.toNat + k)

/-- The last byte of the completion queue, wherever it lies in the window. -/
theorem witness_inbound_takes : (pci.pcieLink = true ∧ pci.fenceOpen HST = true ∧ pci.owner HST 0 = pci.owner HST 2) ∧
    Config.ldgCqAddr ≤ 0x38000000 + (cqO 254).toNat ∧ 0x38000000 + (cqO 254).toNat + [(5 : Byte), 0].length ≤ Config.ldgCqAddr + 256 ∧
    ¬ 0x38000000 + (cqO 254).toNat + [(5 : Byte), 0, 1].length ≤ Config.ldgCqAddr + 256 := by
  refine ⟨by decide +kernel, ?_⟩
  have h := Config.ldgCqPage.isLt
  have e : (cqO 254).toNat = 4096 * Config.ldgCqPage.toNat + 254 := by simp only [cqO, BitVec.toNat_ofNat]; omega
  simp only [e, Config.ldgCqAddr, List.length_cons, List.length_nil]
  omega

def rms : State := cpr 0 []

def rmA : PAddr := BitVec.ofNat _ (dramEnd - 8)

theorem witness_bus_accesses_complete_7 :
    (rms.cscPresent 3 = false) ∧
    (rms.serves (dramBase - 8) = false) ∧
    ((rmA.toNat + 2) % AccSize.bytes .b4 ≠ 0) ∧
    (rms.cscPresent 2 = true) ∧
    (rms.cscOn = true) ∧
    (rms.serves rmA.toNat = true) ∧
    (rms.region rmA.toNat = .dram) ∧
    (rmA.toNat % AccSize.bytes .b8 = 0) ∧
    (rms.synd (rmA.toNat / 64) = 0) ∧
    (rms.wedgeWaits (rmA.toNat / 64) = false) ∧
    (rms.on DMC_INJ_ARM = false) := by decide +kernel

def cwA : PAddr := BitVec.ofNat _ (0x2000000000 + 0x1000000000 * 2 + 8)

def cwS (p : Nat) : State := { vts 7 id with regs := (cup [(CSC_STATUS_PRESENT, p)] id).regs }

theorem witness_bus_accesses_complete_8 :
    State.Ready (cwS 2) 7 ∧
    State.Ready (cwS 6) 7 ∧
    ((cwS 2).region cwA.toNat = .cascade 2 8) ∧
    ((cwS 2).epochMode (clusterOf 7) = false) ∧
    ((cwS 2).physVerdict ((cwS 2).hartWorld 7) ((cwS 2).hartSag 7) .write cwA.toNat = .ok) ∧
    ((cwS 2).physVerdict ((cwS 2).hartWorld 7) ((cwS 2).hartSag 7) .read cwA.toNat = .ok) ∧
    ((cwS 2).cscPresent 2 = false) ∧
    ((cwS 6).region cwA.toNat = .cascade 2 8) ∧
    ((cwS 6).epochMode (clusterOf 7) = false) ∧
    ((cwS 6).physVerdict ((cwS 6).hartWorld 7) ((cwS 6).hartSag 7) .write cwA.toNat = .ok) ∧
    ((cwS 6).physVerdict ((cwS 6).hartWorld 7) ((cwS 6).hartSag 7) .read cwA.toNat = .ok) ∧
    ((cwS 6).cscPresent 2 = true) :=
  ⟨ready_of (by decide +kernel),
   ready_of (by decide +kernel),
   by decide +kernel⟩

theorem witness_step_runs_the_front_command :
    (up.pending = []) := by decide +kernel

/-! ### The machine's own statements -/

/-- The hypotheses of `ExecLeavesTheQueue` and `BurntStepsStayBurnt`: a command and a step that answer a next state. -/
theorem witness_exec_answers : exec .pcieLinkUp up = .next { up with pcieLink := true } := rfl

theorem witness_step_answers : step { up with pending := [.pcieLinkUp, .pcieLinkDown] } =
    .next { up with pcieLink := true, pending := [.pcieLinkDown] } := rfl

/-- A state with the storage invariant of which a step answers a next state: a full miss queue, a pin with a full FIFO, registers and bytes that
differ from what an unlisted address reads as. -/
def full : State :=
  { cpt 1 with
    time := { TimeSt.init with pins := [(15, { PinSt.init with fifo := List.replicate 16 ⟨⟨1, 2, 3, 1⟩, true, false⟩ })] }
    cap := { CapSt.init with missq := List.replicate 16 ⟨0, 1, none⟩ }
    mem := { MemSt.init with bytes := [(0x10000000, 1), (scratchBase, 2)], synd := [(dramBase, 5)], sherd := List.replicate 9 (shE 5) }
    pending := [.pcieLinkUp] }

theorem full_fifo (n : Nat) : (tabGet (fun _ => PinSt.init) full.time.pins n).fifo.length ≤ 16 := by
  show (tabGet (fun _ => PinSt.init) [(15, { PinSt.init with fifo := List.replicate 16 ⟨⟨1, 2, 3, 1⟩, true, false⟩ })] n).fifo.length ≤ 16
  simp only [tabGet]
  split
  · simp
  · simp [PinSt.init]

theorem witness_step_keeps_the_storage_invariant : full.Inv ∧ step full = .next { full with pcieLink := true, pending := [] } :=
  ⟨⟨by decide +kernel, by decide +kernel, by decide +kernel, by decide +kernel, by decide +kernel, by decide +kernel, full_fifo, by decide +kernel⟩, rfl⟩

/-! ### Values the specification writes out -/

/-- `WellFormed` refuses an ill-formed command for each of its checks. -/
theorem smoke_ill_formed : [
    Instr.registerWrite ac0 0 3 0, .storeBufferDrain 0 64, .sfenceVma 0 .sfence none (some 65536), .supplyArrival 65536 0,
    .glostStage [65536], .syncReceived 0 0 0 (some (timeBound, 0)), .followUpReceived 0 0 timeBound 0, .pdelayRespReceived 0 0 timeBound 0,
    .pdelayRespReceived 0 0 0 timeBound, .calibrationDone (List.replicate 16 0), .wheelQuotaWrite ac0 0 (2 ^ 17),
    .ethFrameReceive 0 (List.replicate 13 0) false false 0, .podlPowerArrive 65536].all (fun i => !i.wf) = true := by decide +kernel

theorem smoke_ill_formed_2 : [
    Instr.canTxComplete 0 (10 ^ 9), .nvmeWriteComplete (2 ^ 64) true, .resumeReadComplete true [none] [], .dmaRequest 0 none true 0 2 [0],
    .dmaRequest 0 none false 0 0 [0], .pcieInboundRequest false 0xFFFFF 2 [], .dramRead 0 0 [(0, 0), (0, 0)],
    .dramWrite 0 0 0 0 [(0, 0), (0, 0)], .wedgeTestCmd ac0 [0, 0], .scrubRead [(0, 0), (0, 0)], .epochOutputRefused 0 256 .denied,
    .epochOutputRefused 0 0 .ok].all (fun i => !i.wf) = true := by decide +kernel

theorem smoke_ill_formed_3 : [
    Instr.inputSwitchover true 65536, .vsupOutOfRange true 65536, .vsupRangeStable 65536, .dipStart 65536, .supplyBelowReset 65536,
    .inputAboveRestore 65536, .csiPacketReceive 0 0 0 (List.replicate 65536 0) false false 0,
    .ethFrameReceive 0 (List.replicate 65536 0) false false 0].all (fun i => !i.wf) = true := by decide +kernel

/-- R34 and R316: the worked example that locates two addresses. -/
theorem test_addresses : up.region 0x20120100 = .tkLocal 2 0x20100 ∧ imsicAddr 5 4 = 0x4322B000 := by decide +kernel

/-- R556: an injected error flips data bit 0, or bits 0 and 1. -/
theorem test_syndromes : column 0 = 7 ∧ Nat.xor (column 0) (column 1) = 0xC ∧ bitOfSyndrome 0xC = none := by decide +kernel

/-- R18: TOO_LATE in an 8-bit field. -/
theorem test_status_byte : st8 .tooLate = 0xFD := by decide

/-- The check values of CRC-32 and CRC-32C over the digits 1 to 9, which name the polynomials of R54 and R163. -/
theorem test_crc : crc32 (List.map (BitVec.ofNat 8) [49, 50, 51, 52, 53, 54, 55, 56, 57]) = 0xCBF43926 ∧
    crc32c (List.map (BitVec.ofNat 8) [49, 50, 51, 52, 53, 54, 55, 56, 57]) = 0xE3069283 := by decide +kernel

/-- R107: a generator started past its second grid instant continues at the third. -/
theorem test_grid : gridAfter 1760000000100000000 33333333 1760000000180000000 = 1760000000199999999 := by decide +kernel

/-- SHA-256 and SHA-384 of the empty message and of "abc" (FIPS 180-4, which R48 and R258 name): their first four bytes. -/
theorem test_sha : (sha256 [0x61, 0x62, 0x63]).take 4 = [0xBA, 0x78, 0x16, 0xBF] ∧ (sha384 [0x61, 0x62, 0x63]).take 4 = [0xCB, 0x00, 0x75, 0x3F] := by
  decide +kernel

end Sys2Proof.Tests
end

section
/-! One fact about every command of the table, by cases on the command: it answers a next state, and that state keeps what `Kept` names. -/

namespace Sys2Proof.Machine

open Sys2Proof

/-- No command stops the machine; none touches the queue, un-burns a step or breaks the storage invariant. Each arm cites its command's
own law. -/
theorem exec_kept : ∀ (c : Instr) (s : State), ∃ t, exec c s = .next t ∧ Kept s t
  | .registerWrite .., _ => execRegisterWrite_kept ..
  | .halfWriteStage .., _ => execHalfWriteStage_kept ..
  | .load .., _ => execLoad_kept ..
  | .store .., _ => execStore_kept ..
  | .storeBufferDrain .., _ => execStoreBufferDrain_kept ..
  | .deviceStoreAck .., _ => execDeviceStoreAck_kept ..
  | .amo .., _ => execAmo_kept ..
  | .loadReserved .., _ => execLoadReserved_kept ..
  | .storeConditional .., _ => execStoreConditional_kept ..
  | .fence h pi po pr pw si so sr sw, s => execFence_kept h pi po pr pw si so sr sw s
  | .fenceI .., _ => execFenceI_kept ..
  | .sfenceVma h kind va asid, s => execSfenceVma_kept h kind va asid s
  | .cboZero .., _ => execCboZero_kept ..
  | .csrAccess .., _ => execCsrAccess_kept ..
  | .modeCsrWrite .., _ => execModeCsrWrite_kept ..
  | .mret .., _ => execMret_kept ..
  | .sret .., _ => execSret_kept ..
  | .wfi .., _ => execWfi_kept ..
  | .trapEntry .., _ => execTrapEntry_kept ..
  | .mtimecmpMatch .., _ => execMtimecmpMatch_kept ..
  | .stimecmpMatch .., _ => execStimecmpMatch_kept ..
  | .supplyArrival .., _ => execSupplyArrival_kept ..
  | .porstNFall .., _ => execPorstNFall_kept ..
  | .porstNRise .., _ => execPorstNRise_kept ..
  | .chipReset .., _ => execChipReset_kept ..
  | .bootRomImageSelect .., _ => execBootRomImageSelect_kept ..
  | .bisqueApply .., _ => execBisqueApply_kept ..
  | .dramTrainingDone .., _ => execDramTrainingDone_kept ..
  | .bootWedgeDone .., _ => execBootWedgeDone_kept ..
  | .glostStage .., _ => execGlostStage_kept ..
  | .fireCommit .., _ => execFireCommit_kept ..
  | .fireNwrel .., _ => execFireNwrel_kept ..
  | .fireReboot .., _ => execFireReboot_kept ..
  | .fireTrialArm .., _ => execFireTrialArm_kept ..
  | .controlBlockWriteDone .., _ => execControlBlockWriteDone_kept ..
  | .flashErase .., _ => execFlashErase_kept ..
  | .flashProgram .., _ => execFlashProgram_kept ..
  | .flashOpDenied .., _ => execFlashOpDenied_kept ..
  | .flashCmdComplete .., _ => execFlashCmdComplete_kept ..
  | .flashDataRead .., _ => execFlashDataRead_kept ..
  | .coneBurn .., _ => execConeBurn_kept ..
  | .coneBurnComplete .., _ => execConeBurnComplete_kept ..
  | .burnRecordCopy .., _ => execBurnRecordCopy_kept ..
  | .vtSnap .., _ => execVtSnap_kept ..
  | .discSlew .., _ => execDiscSlew_kept ..
  | .discJumpBy .., _ => execDiscJumpBy_kept ..
  | .discJumpTo .., _ => execDiscJumpTo_kept ..
  | .jumpTakeEffect .., _ => execJumpTakeEffect_kept ..
  | .jumpDeliveryDone .., _ => execJumpDeliveryDone_kept ..
  | .slewComplete .., _ => execSlewComplete_kept ..
  | .rateWordWrite .., _ => execRateWordWrite_kept ..
  | .discCtlWrite .., _ => execDiscCtlWrite_kept ..
  | .syncReceived .., _ => execSyncReceived_kept ..
  | .followUpReceived .., _ => execFollowUpReceived_kept ..
  | .syncReceiptTimeout .., _ => execSyncReceiptTimeout_kept ..
  | .syncSend .., _ => execSyncSend_kept ..
  | .announceReceived .., _ => execAnnounceReceived_kept ..
  | .announceReceiptTimeout .., _ => execAnnounceReceiptTimeout_kept ..
  | .announceSend .., _ => execAnnounceSend_kept ..
  | .pdelayReqSend .., _ => execPdelayReqSend_kept ..
  | .pdelayReqReceived .., _ => execPdelayReqReceived_kept ..
  | .pdelayRespReceived .., _ => execPdelayRespReceived_kept ..
  | .signalingReceived .., _ => execSignalingReceived_kept ..
  | .tpLevelSet .., _ => execTpLevelSet_kept ..
  | .tpLevelClr .., _ => execTpLevelClr_kept ..
  | .tpGenRunStart .., _ => execTpGenRunStart_kept ..
  | .tpGenRunStop .., _ => execTpGenRunStop_kept ..
  | .tpGenParamWrite .., _ => execTpGenParamWrite_kept ..
  | .tpGenActivate .., _ => execTpGenActivate_kept ..
  | .tpGenDeactivate .., _ => execTpGenDeactivate_kept ..
  | .tpCaptureEdge .., _ => execTpCaptureEdge_kept ..
  | .tpCapRead .., _ => execTpCapRead_kept ..
  | .pulseTrailingEdge .., _ => execPulseTrailingEdge_kept ..
  | .vtRd .., _ => execVtRd_kept ..
  | .vtWt .., _ => execVtWt_kept ..
  | .vtWtEnd .., _ => execVtWtEnd_kept ..
  | .vtSta .., _ => execVtSta_kept ..
  | .vtStaW .., _ => execVtStaW_kept ..
  | .vtEv .., _ => execVtEv_kept ..
  | .vtAbt .., _ => execVtAbt_kept ..
  | .horizonAdmit .., _ => execHorizonAdmit_kept ..
  | .wheelFireImminent .., _ => execWheelFireImminent_kept ..
  | .calendarSweep .., _ => execCalendarSweep_kept ..
  | .wheelActionComplete .., _ => execWheelActionComplete_kept ..
  | .completionRecordWrite .., _ => execCompletionRecordWrite_kept ..
  | .wheelCalibrate .., _ => execWheelCalibrate_kept ..
  | .calibrationDone .., _ => execCalibrationDone_kept ..
  | .twhInspRead .., _ => execTwhInspRead_kept ..
  | .wheelQuotaWrite .., _ => execWheelQuotaWrite_kept ..
  | .csiPacketReceive .., _ => execCsiPacketReceive_kept ..
  | .ethFrameReceive .., _ => execEthFrameReceive_kept ..
  | .canFrameReceive .., _ => execCanFrameReceive_kept ..
  | .captureDescriptorWrite .., _ => execCaptureDescriptorWrite_kept ..
  | .frameIdleClose .., _ => execFrameIdleClose_kept ..
  | .captureWriteError .., _ => execCaptureWriteError_kept ..
  | .capRingEnable .., _ => execCapRingEnable_kept ..
  | .sttWrite .., _ => execSttWrite_kept ..
  | .sttWriteZero .., _ => execSttWriteZero_kept ..
  | .sttInvalidate .., _ => execSttInvalidate_kept ..
  | .sttPlace .., _ => execSttPlace_kept ..
  | .sttUpdReservedOp .., _ => execSttUpdReservedOp_kept ..
  | .sttUpdateComplete .., _ => execSttUpdateComplete_kept ..
  | .sttRdSnapshot .., _ => execSttRdSnapshot_kept ..
  | .sttProbe .., _ => execSttProbe_kept ..
  | .missqRead .., _ => execMissqRead_kept ..
  | .camPreset .., _ => execCamPreset_kept ..
  | .sliceBind .., _ => execSliceBind_kept ..
  | .sliceReset .., _ => execSliceReset_kept ..
  | .sliceUnbind .., _ => execSliceUnbind_kept ..
  | .sliceQuiet .., _ => execSliceQuiet_kept ..
  | .dbSubmission .., _ => execDbSubmission_kept ..
  | .dlQuery .., _ => execDlQuery_kept ..
  | .modHoldoffExpire .., _ => execModHoldoffExpire_kept ..
  | .mailboxSend .., _ => execMailboxSend_kept ..
  | .mailboxAck .., _ => execMailboxAck_kept ..
  | .egressSelect .., _ => execEgressSelect_kept ..
  | .frameTransmitEnd .., _ => execFrameTransmitEnd_kept ..
  | .gclEntryAdvance .., _ => execGclEntryAdvance_kept ..
  | .gclChange .., _ => execGclChange_kept ..
  | .gclChangeTakeEffect .., _ => execGclChangeTakeEffect_kept ..
  | .injDescTake .., _ => execInjDescTake_kept ..
  | .injDescComplete .., _ => execInjDescComplete_kept ..
  | .injRingEnable .., _ => execInjRingEnable_kept ..
  | .swUnpark .., _ => execSwUnpark_kept ..
  | .fdbWrite .., _ => execFdbWrite_kept ..
  | .fdbDelete .., _ => execFdbDelete_kept ..
  | .fdbRead .., _ => execFdbRead_kept ..
  | .fdbAgeExpire .., _ => execFdbAgeExpire_kept ..
  | .frerResetTimeout .., _ => execFrerResetTimeout_kept ..
  | .linkUp .., _ => execLinkUp_kept ..
  | .linkDown .., _ => execLinkDown_kept ..
  | .tc10SleepReq .., _ => execTc10SleepReq_kept ..
  | .tc10WakeCmd .., _ => execTc10WakeCmd_kept ..
  | .tc10PartnerSleepReq .., _ => execTc10PartnerSleepReq_kept ..
  | .tc10PartnerAck .., _ => execTc10PartnerAck_kept ..
  | .tc10PartnerReject .., _ => execTc10PartnerReject_kept ..
  | .tc10RequestTimeout .., _ => execTc10RequestTimeout_kept ..
  | .tc10WakePulse .., _ => execTc10WakePulse_kept ..
  | .tc10WakeTimeout .., _ => execTc10WakeTimeout_kept ..
  | .podlClassify .., _ => execPodlClassify_kept ..
  | .podlPowerArrive .., _ => execPodlPowerArrive_kept ..
  | .bcGpioCmd .., _ => execBcGpioCmd_kept ..
  | .bcI2cWriteCmd .., _ => execBcI2cWriteCmd_kept ..
  | .bcI2cReadCmd .., _ => execBcI2cReadCmd_kept ..
  | .bcAck .., _ => execBcAck_kept ..
  | .bcTimeout .., _ => execBcTimeout_kept ..
  | .camLinkUp .., _ => execCamLinkUp_kept ..
  | .camLinkDown .., _ => execCamLinkDown_kept ..
  | .canTxDescTake .., _ => execCanTxDescTake_kept ..
  | .canTxComplete .., _ => execCanTxComplete_kept ..
  | .canBusOff .., _ => execCanBusOff_kept ..
  | .canBusoffRecovery .., _ => execCanBusoffRecovery_kept ..
  | .ledgerRecordAccept .., _ => execLedgerRecordAccept_kept ..
  | .ledgerSwRecord .., _ => execLedgerSwRecord_kept ..
  | .blockCloseTimer .., _ => execBlockCloseTimer_kept ..
  | .ledgerFlush .., _ => execLedgerFlush_kept ..
  | .signatureReturn .., _ => execSignatureReturn_kept ..
  | .signTimeout .., _ => execSignTimeout_kept ..
  | .signRetry .., _ => execSignRetry_kept ..
  | .nvmeWriteComplete .., _ => execNvmeWriteComplete_kept ..
  | .ledgerResume .., _ => execLedgerResume_kept ..
  | .resumeReadComplete .., _ => execResumeReadComplete_kept ..
  | .ledgerReinit .., _ => execLedgerReinit_kept ..
  | .ledgerOrderlyClose .., _ => execLedgerOrderlyClose_kept ..
  | .orderlyCloseDone .., _ => execOrderlyCloseDone_kept ..
  | .replayCopy .., _ => execReplayCopy_kept ..
  | .replayCheck .., _ => execReplayCheck_kept ..
  | .replayCopyCheck .., _ => execReplayCopyCheck_kept ..
  | .replayDone .., _ => execReplayDone_kept ..
  | .tkRunStop .., _ => execTkRunStop_kept ..
  | .tkRunStart .., _ => execTkRunStart_kept ..
  | .tkMultiplyResult .., _ => execTkMultiplyResult_kept ..
  | .tkDivideResult .., _ => execTkDivideResult_kept ..
  | .fabricLoadResponse .., _ => execFabricLoadResponse_kept ..
  | .tkWriteBufferDrain .., _ => execTkWriteBufferDrain_kept ..
  | .lockstepDivergence .., _ => execLockstepDivergence_kept ..
  | .lockstepRestart .., _ => execLockstepRestart_kept ..
  | .lockstepInject .., _ => execLockstepInject_kept ..
  | .accWorldWrite .., _ => execAccWorldWrite_kept ..
  | .sagEnter .., _ => execSagEnter_kept ..
  | .sagExit .., _ => execSagExit_kept ..
  | .dmaRequest .., _ => execDmaRequest_kept ..
  | .pcieInboundRequest write off size data, s => execPcieInboundRequest_kept write off size data s
  | .aplicSourceChange .., _ => execAplicSourceChange_kept ..
  | .msiWrite .., _ => execMsiWrite_kept ..
  | .localMsg .., _ => execLocalMsg_kept ..
  | .localClaim .., _ => execLocalClaim_kept ..
  | .cascadeWindowAccess a va addr write rd data ans, s => execCascadeWindowAccess_kept a va addr write rd data ans s
  | .cascadeRemoteServe .., _ => execCascadeRemoteServe_kept ..
  | .readShared .., _ => execReadShared_kept ..
  | .readUnique .., _ => execReadUnique_kept ..
  | .upgrade .., _ => execUpgrade_kept ..
  | .writeback .., _ => execWriteback_kept ..
  | .evictNotice .., _ => execEvictNotice_kept ..
  | .stashHint .., _ => execStashHint_kept ..
  | .snpShared .., _ => execSnpShared_kept ..
  | .snpOnce .., _ => execSnpOnce_kept ..
  | .snpInvalid .., _ => execSnpInvalid_kept ..
  | .snoopResponse .., _ => execSnoopResponse_kept ..
  | .stashFill .., _ => execStashFill_kept ..
  | .coherentResponse .., _ => execCoherentResponse_kept ..
  | .nackRetry .., _ => execNackRetry_kept ..
  | .reservationWindowExpire .., _ => execReservationWindowExpire_kept ..
  | .holdTimeExpire .., _ => execHoldTimeExpire_kept ..
  | .dirInspect .., _ => execDirInspect_kept ..
  | .slcRetire .., _ => execSlcRetire_kept ..
  | .l2WayRetire .., _ => execL2WayRetire_kept ..
  | .dirWayRetire .., _ => execDirWayRetire_kept ..
  | .retirementDone .., _ => execRetirementDone_kept ..
  | .arbSlotBoundary .., _ => execArbSlotBoundary_kept ..
  | .arbRequest .., _ => execArbRequest_kept ..
  | .arbRequestDrop .., _ => execArbRequestDrop_kept ..
  | .arbSwap .., _ => execArbSwap_kept ..
  | .dramRead .., _ => execDramRead_kept ..
  | .dramWrite .., _ => execDramWrite_kept ..
  | .wedgeCmd .., _ => execWedgeCmd_kept ..
  | .wedgeTestCmd .., _ => execWedgeTestCmd_kept ..
  | .wedgeReservedOp .., _ => execWedgeReservedOp_kept ..
  | .wedgeDone .., _ => execWedgeDone_kept ..
  | .scrubRead .., _ => execScrubRead_kept ..
  | .sherdPop .., _ => execSherdPop_kept ..
  | .sherdHeadRead .., _ => execSherdHeadRead_kept ..
  | .crazingDecay .., _ => execCrazingDecay_kept ..
  | .crazingClear .., _ => execCrazingClear_kept ..
  | .pageRemap .., _ => execPageRemap_kept ..
  | .remapDone .., _ => execRemapDone_kept ..
  | .watermarkChange .., _ => execWatermarkChange_kept ..
  | .watermarkRaiseDone .., _ => execWatermarkRaiseDone_kept ..
  | .handoverRequest .., _ => execHandoverRequest_kept ..
  | .handoverWithdraw .., _ => execHandoverWithdraw_kept ..
  | .handoverGrant .., _ => execHandoverGrant_kept ..
  | .handoverRefuse .., _ => execHandoverRefuse_kept ..
  | .quiesceEnd .., _ => execQuiesceEnd_kept ..
  | .blockResetComplete .., _ => execBlockResetComplete_kept ..
  | .handoverReassign .., _ => execHandoverReassign_kept ..
  | .pmConsentGrant .., _ => execPmConsentGrant_kept ..
  | .pmConsentRefuse .., _ => execPmConsentRefuse_kept ..
  | .swdKick .., _ => execSwdKick_kept ..
  | .swdWarn .., _ => execSwdWarn_kept ..
  | .swdClass0Expire .., _ => execSwdClass0Expire_kept ..
  | .swdClass1Expire .., _ => execSwdClass1Expire_kept ..
  | .domainResetEnter .., _ => execDomainResetEnter_kept ..
  | .lockAcquire .., _ => execLockAcquire_kept ..
  | .lockRelease .., _ => execLockRelease_kept ..
  | .epochTimerCommit .., _ => execEpochTimerCommit_kept ..
  | .epochCommitCmd .., _ => execEpochCommitCmd_kept ..
  | .epochCommitDone .., _ => execEpochCommitDone_kept ..
  | .epochOutputRefused .., _ => execEpochOutputRefused_kept ..
  | .epochRollbackCmd .., _ => execEpochRollbackCmd_kept ..
  | .epochRollbackDone .., _ => execEpochRollbackDone_kept ..
  | .epochResume .., _ => execEpochResume_kept ..
  | .inputSwitchover .., _ => execInputSwitchover_kept ..
  | .vsupOutOfRange .., _ => execVsupOutOfRange_kept ..
  | .vsupRangeStable .., _ => execVsupRangeStable_kept ..
  | .modeRequest .., _ => execModeRequest_kept ..
  | .governorPowerSample .., _ => execGovernorPowerSample_kept ..
  | .keepEntry .., _ => execKeepEntry_kept ..
  | .sleepEntry .., _ => execSleepEntry_kept ..
  | .keepExit .., _ => execKeepExit_kept ..
  | .domainPowerDownReq .., _ => execDomainPowerDownReq_kept ..
  | .domainPowerUpReq .., _ => execDomainPowerUpReq_kept ..
  | .blockClockGate .., _ => execBlockClockGate_kept ..
  | .blockClockUngate .., _ => execBlockClockUngate_kept ..
  | .domainPllLock .., _ => execDomainPllLock_kept ..
  | .domainWedgeDone .., _ => execDomainWedgeDone_kept ..
  | .domainIsolated .., _ => execDomainIsolated_kept ..
  | .corePowerReq .., _ => execCorePowerReq_kept ..
  | .corePowerTransition .., _ => execCorePowerTransition_kept ..
  | .apcClockStep .., _ => execApcClockStep_kept ..
  | .aotAlarmFire .., _ => execAotAlarmFire_kept ..
  | .aotRateLearn .., _ => execAotRateLearn_kept ..
  | .wakeEvent .., _ => execWakeEvent_kept ..
  | .wakeSwRequest .., _ => execWakeSwRequest_kept ..
  | .dipStart .., _ => execDipStart_kept ..
  | .dipEnd .., _ => execDipEnd_kept ..
  | .supplyBelowReset .., _ => execSupplyBelowReset_kept ..
  | .holdupEnd .., _ => execHoldupEnd_kept ..
  | .resetRecovery .., _ => execResetRecovery_kept ..
  | .aonDropout .., _ => execAonDropout_kept ..
  | .haltRequest .., _ => execHaltRequest_kept ..
  | .resumeRequest .., _ => execResumeRequest_kept ..
  | .abstractCommand .., _ => execAbstractCommand_kept ..
  | .systemBusAccess .., _ => execSystemBusAccess_kept ..
  | .xtrgPulse .., _ => execXtrgPulse_kept ..
  | .dapLockRelease .., _ => execDapLockRelease_kept ..
  | .cwdKick .., _ => execCwdKick_kept ..
  | .cwdExpire .., _ => execCwdExpire_kept ..
  | .debugAttach .., _ => execDebugAttach_kept ..
  | .debugDetach .., _ => execDebugDetach_kept ..
  | .pmuCounterWrite .., _ => execPmuCounterWrite_kept ..
  | .pmuSnapRead .., _ => execPmuSnapRead_kept ..
  | .bwWindowEnd .., _ => execBwWindowEnd_kept ..
  | .bwWindowRestart .., _ => execBwWindowRestart_kept ..
  | .bwClearPeak .., _ => execBwClearPeak_kept ..
  | .heartbeatSend .., _ => execHeartbeatSend_kept ..
  | .heartbeatReceive .., _ => execHeartbeatReceive_kept ..
  | .moduleAbsent .., _ => execModuleAbsent_kept ..
  | .cascadeListenEnd .., _ => execCascadeListenEnd_kept ..
  | .cascadeLinkUp .., _ => execCascadeLinkUp_kept ..
  | .cascadeLinkDown .., _ => execCascadeLinkDown_kept ..
  | .cascadeLinkRetrain .., _ => execCascadeLinkRetrain_kept ..
  | .cascadePdelayMeasure .., _ => execCascadePdelayMeasure_kept ..
  | .cscKeyInstall .., _ => execCscKeyInstall_kept ..
  | .forwardRuleValid .., _ => execForwardRuleValid_kept ..
  | .forwardedUnitReceive .., _ => execForwardedUnitReceive_kept ..
  | .cascadeMbxSend .., _ => execCascadeMbxSend_kept ..
  | .cascadeMbxDeliver .., _ => execCascadeMbxDeliver_kept ..
  | .timeClockTick .., _ => execTimeClockTick_kept ..
  | .alwaysOnEdge .., _ => execAlwaysOnEdge_kept ..
  | .inputAboveRestore .., _ => execInputAboveRestore_kept ..
  | .pcieLinkUp .., _ => execPcieLinkUp_kept ..
  | .pcieLinkDown .., _ => execPcieLinkDown_kept ..
  | .canBusError .., _ => execCanBusError_kept ..

/-- The next state a command answers keeps what `Kept` names. -/
theorem kept_of_exec {c : Instr} {s t : State} (h : exec c s = .next t) : Kept s t := by
  obtain ⟨u, hu, hk⟩ := exec_kept c s
  rw [hu] at h
  cases h
  exact hk

/-! ### A step: the empty queue, and a command at its front -/

theorem step_of_pending_nil {s : State} (h : s.pending = []) : step s = .next s := by
  unfold step; rw [h]

theorem step_of_pending_cons {s : State} {c : Instr} {r : List Instr} (h : s.pending = c :: r) :
    step s = exec c { s with pending := r } := by
  unfold step; rw [h]

/-- The storage invariant does not speak of the queue. -/
theorem State.Inv.withPending {s : State} (h : s.Inv) (r : List Instr) : State.Inv { s with pending := r } :=
  ⟨h.regs, h.bytes, h.synd, h.sramPoison, h.flash, h.missq, h.fifo, h.sherd⟩

theorem State.Inv.step {s t : State} (h : s.Inv) (hs : step s = .next t) : t.Inv := by
  cases hp : s.pending with
  | nil =>
    rw [step_of_pending_nil hp] at hs
    cases hs
    exact h
  | cons c r =>
    rw [step_of_pending_cons hp] at hs
    exact (kept_of_exec hs).inv (h.withPending r)

end Sys2Proof.Machine
end


section
/-! The statements about the machine as a whole: its step, its reset state, the storage invariant. -/

namespace Sys2Proof.Machine

open Sys2Proof

/-- Settles O5: the command a step runs keeps the invariant (`kept_of_exec`), and taking it off the queue does too. -/
theorem stepKeepsTheStorageInvariant : Obligations.StepKeepsTheStorageInvariant :=
  fun _ _ => State.Inv.step

/-- Settles O3, by cases on the command (`exec_kept`). -/
theorem everyCommandAnswersANextState : Obligations.EveryCommandAnswersANextState := fun c s =>
  (exec_kept c s).imp fun _ h => h.1

/-- Settles O1. -/
theorem stepRunsTheFrontCommand : Obligations.StepRunsTheFrontCommand :=
  ⟨fun _ _ _ => step_of_pending_cons rfl, fun _ => step_of_pending_nil⟩

/-- Nothing is stored at reset, so every table is in canonical form and every log empty. -/
theorem State.reset_inv : State.reset.Inv where
  regs := rfl
  bytes := rfl
  synd := rfl
  sramPoison := rfl
  flash := rfl
  missq := Nat.zero_le _
  fifo _ := Nat.zero_le _
  sherd := Nat.zero_le _

/-- Every domain starts in reset: AON for want of a supply, the others by their own reset. -/
theorem State.reset_outOfReset (d : Nat) : State.reset.outOfReset d = false := by
  unfold State.outOfReset
  split <;> rfl

/-- Settles O2: at reset every table is empty, so each read gives the default of its table. -/
theorem resetIsBlank : Obligations.ResetIsBlank :=
  ⟨State.reset_inv, fun _ => rfl, fun _ => rfl, fun _ => rfl, State.reset_outOfReset, rfl⟩

end Sys2Proof.Machine
end

section
/-! Bytes of memory: what a store of bytes leaves at each address, part of a line merged over another, and writes of memory past the
caches: to the scratch window and to lines of DRAM (R8, R374, R378, R506). -/

namespace Sys2Proof.Machine

open Sys2Proof

/-! ### Byte `i` of a number -/

/-- Byte `i` of `x`, byte 0 least significant (R8). -/
def byteOf (x i : Nat) : Byte := BitVec.ofNat 8 (x / 256 ^ i)

theorem byteOf_div (x i : Nat) : byteOf (x / 256) i = byteOf x (i + 1) := by
  rw [byteOf, byteOf, Nat.div_div_eq_div_mul, pow_succ']

theorem byteOf_zero (x : Nat) : byteOf x 0 = BitVec.ofNat 8 x := by rw [byteOf, pow_zero, Nat.div_one]

theorem byteOf_cons (x i : Nat) (b : Byte) : byteOf (b.toNat + 256 * x) (i + 1) = byteOf x i := by
  rw [← byteOf_div]
  congr 1
  have := b.isLt
  omega

theorem byteOf_cons_zero (x : Nat) (b : Byte) : byteOf (b.toNat + 256 * x) 0 = b := by
  have := b.isLt
  apply BitVec.eq_of_toNat_eq
  simp only [byteOf_zero, BitVec.toNat_ofNat]
  omega

theorem byteOf_mod {n i : Nat} (x : Nat) (h : i < n) : byteOf (x % 2 ^ (8 * n)) i = byteOf x i := by
  apply BitVec.eq_of_toNat_eq
  obtain ⟨k, rfl⟩ := Nat.exists_eq_add_of_lt h
  have e : (2 : Nat) ^ (8 * (i + k + 1)) = 256 ^ i * (256 * 256 ^ k) := by
    rw [pow_mul, show (2 : Nat) ^ 8 = 256 by norm_num]; ring
  simp only [byteOf, BitVec.toNat_ofNat, e, Nat.mod_mul_right_div_self, show (2 : Nat) ^ 8 = 256 by norm_num, Nat.mod_mul_right_mod]

/-- A value moved up by `o` bytes. -/
theorem byteOf_shift (x o j : Nat) : byteOf (x * 2 ^ (8 * o)) (o + j) = byteOf x j := by
  rw [byteOf, byteOf, pow_mul, show (2 : Nat) ^ 8 = 256 by norm_num, pow_add, ← Nat.div_div_eq_div_mul, Nat.mul_div_cancel _ (by positivity)]

/-! ### Numbers that memory holds -/

theorem State.byteOf_bytesAt (s : State) {i n : Nat} (a : Nat) (h : i < n) : byteOf (s.bytesAt a n) i = s.byteAt (a + i) := by
  induction n generalizing a i with
  | zero => omega
  | succ n ih =>
    rw [State.bytesAt]
    cases i with
    | zero => rw [byteOf_cons_zero, Nat.add_zero]
    | succ i => rw [byteOf_cons, ih (a + 1) (by omega), Nat.add_right_comm, Nat.add_assoc]

/-- The number that bytes hold is the one whose bytes they are. -/
theorem State.bytesAt_eq_of_bytes {s : State} {n : Nat} (a v : Nat) (h : ∀ i < n, s.byteAt (a + i) = byteOf v i) :
    s.bytesAt a n = v % 2 ^ (8 * n) := by
  induction n generalizing a v with
  | zero => rw [State.bytesAt, Nat.mul_zero, pow_zero, Nat.mod_one]
  | succ n ih =>
    have hd : s.byteAt a = BitVec.ofNat 8 v := by rw [← byteOf_zero]; exact h 0 (by omega)
    have tl : s.bytesAt (a + 1) n = v / 256 % 2 ^ (8 * n) := ih (a + 1) (v / 256) fun i hi => by
      rw [byteOf_div, ← h (i + 1) (by omega), Nat.add_right_comm, Nat.add_assoc]
    rw [State.bytesAt, hd, tl, BitVec.toNat_ofNat, show 8 * (n + 1) = 8 + 8 * n by ring, pow_add, Nat.mod_mul, show (2 : Nat) ^ 8 = 256 by norm_num]

theorem State.bytesAt_congr {s t : State} (h : t.mem.bytes = s.mem.bytes) (a n : Nat) : t.bytesAt a n = s.bytesAt a n := by
  induction n generalizing a with
  | zero => rfl
  | succ n ih => rw [State.bytesAt, State.bytesAt, ih, State.byteAt, h, State.byteAt]

/-- The number a list of bytes holds is below 256 for each byte. -/
theorem leNat_lt (l : List Byte) : leNat l < 2 ^ (8 * l.length) := by
  induction l with
  | nil => decide
  | cons b l ih =>
    have := b.isLt
    rw [leNat, List.length_cons, show 8 * (l.length + 1) = 8 + 8 * l.length by ring, pow_add]
    omega

/-! ### Stores -/

theorem State.byteAt_setByte (s : State) (a k : Nat) (b : Byte) : (s.setByte a b).byteAt k = if k = a then b else s.byteAt k :=
  tabGet_tabSet _ _ _ _ _

/-- A store changes the bytes from `a` on, each to its byte of the value. -/
theorem State.byteAt_setBytes (s : State) (a v n k : Nat) :
    (s.setBytes a v n).byteAt k = if a ≤ k ∧ k < a + n then byteOf v (k - a) else s.byteAt k := by
  induction n generalizing s a v with
  | zero => rw [State.setBytes, if_neg (by omega)]
  | succ n ih =>
    rw [State.setBytes, ih, State.byteAt_setByte]
    by_cases h : a + 1 ≤ k ∧ k < a + 1 + n
    · rw [if_pos h, if_pos (by omega), byteOf_div, show k - (a + 1) + 1 = k - a by omega]
    · by_cases ha : k = a
      · subst ha
        rw [if_neg h, if_pos rfl, if_pos (by omega), Nat.sub_self, byteOf_zero]
      · rw [if_neg h, if_neg ha, if_neg (by omega)]

/-- A store touches the bytes alone. -/
theorem State.setBytes_eq (s : State) (a v n : Nat) :
    s.setBytes a v n = { s with mem := { s.mem with bytes := (s.setBytes a v n).mem.bytes } } := by
  induction n generalizing s a v with
  | zero => rfl
  | succ n ih => rw [State.setBytes, ih]; rfl

theorem State.on_setBytes (s : State) (a v n : Nat) (f : Fld) : (s.setBytes a v n).on f = s.on f := by
  rw [State.setBytes_eq]; rfl

/-- The bytes of a state are those that a store of `v` at `[a, a + n)` leaves of `s`: the value is there, and nothing else changed. -/
structure State.Stored (s t : State) (a v n : Nat) : Prop where
  inside : ∀ i < n, t.byteAt (a + i) = byteOf v i
  outside : ∀ k, k < a ∨ a + n ≤ k → t.byteAt k = s.byteAt k

theorem State.stored_setBytes (s : State) (a v n : Nat) : s.Stored (s.setBytes a v n) a v n where
  inside i hi := by rw [State.byteAt_setBytes, if_pos (by omega), Nat.add_sub_cancel_left]
  outside k hk := by rw [State.byteAt_setBytes, if_neg (by omega)]

theorem State.Stored.bytesAt {s t : State} {a v n : Nat} (h : s.Stored t a v n) : t.bytesAt a n = v % 2 ^ (8 * n) :=
  State.bytesAt_eq_of_bytes a v h.inside

/-- Only the bytes count. -/
theorem State.Stored.congr {s t u : State} {a v n : Nat} (h : s.Stored t a v n) (hb : u.mem.bytes = t.mem.bytes) : s.Stored u a v n where
  inside i hi := by rw [← h.inside i hi, State.byteAt, State.byteAt, hb]
  outside k hk := by rw [← h.outside k hk, State.byteAt, State.byteAt, hb]

theorem State.Stored.of_bytes {r s t : State} {a v n : Nat} (h : s.Stored t a v n) (hb : s.mem.bytes = r.mem.bytes) : r.Stored t a v n where
  inside := h.inside
  outside k hk := by rw [h.outside k hk, State.byteAt, State.byteAt, hb]

/-! ### A list of bytes stored -/

theorem tabGet_foldl_putBytes (a : Nat) (bs : List Byte) (n k : Nat) (t : Tab Byte) :
    tabGet byteDefault ((List.range n).foldl (fun t i => tabSet (fun _ => 0) t (a + i) (bs.getD i 0)) t) k =
      if a ≤ k ∧ k < a + n then bs.getD (k - a) 0 else tabGet byteDefault t k := by
  induction n with
  | zero => rw [List.range_zero, List.foldl_nil, if_neg (by omega)]
  | succ n ih =>
    rw [List.range_succ, List.foldl_append, List.foldl_cons, List.foldl_nil]
    refine (tabGet_tabSet byteDefault _ _ _ _).trans ?_
    rw [ih]
    by_cases hk : k = a + n
    · rw [if_pos hk, if_pos (by omega), hk, Nat.add_sub_cancel_left]
    · rw [if_neg hk]
      by_cases h : a ≤ k ∧ k < a + n
      · rw [if_pos h, if_pos (by omega)]
      · rw [if_neg h, if_neg (by omega)]

theorem State.byteAt_putBytes (s : State) (a : Nat) (bs : List Byte) (k : Nat) :
    (s.putBytes a bs).byteAt k = if a ≤ k ∧ k < a + bs.length then bs.getD (k - a) 0 else s.byteAt k := by
  refine (tabGet_foldl_putBytes a bs _ k _).trans ?_
  by_cases h : a ≤ k ∧ k < a + bs.length
  · rw [if_pos h, if_pos h]
  · rw [if_neg h, if_neg h, tabGet_tabDrop, if_neg h, State.byteAt]

/-! ### Part of a line over another (R378) -/

theorem byteOf_mergeBytes {n i : Nat} (mask new old : Nat) (h : i < n) :
    byteOf (mergeBytes n mask new old) i = if mask.testBit i then byteOf new i else byteOf old i := by
  induction n generalizing mask new old i with
  | zero => omega
  | succ n ih =>
    have e : mergeBytes (n + 1) mask new old =
        (if mask.testBit 0 then byteOf new 0 else byteOf old 0).toNat + 256 * mergeBytes n (mask / 2) (new / 256) (old / 256) := by
      rw [mergeBytes, Nat.testBit_zero]
      by_cases hm : mask % 2 = 1 <;> simp [hm, byteOf_zero]
    rw [e]
    cases i with
    | zero => exact byteOf_cons_zero _ _
    | succ i => rw [byteOf_cons, ih _ _ _ (by omega), byteOf_div, byteOf_div, Nat.testBit_succ]

/-- The mask of an access within a line names its bytes. -/
theorem testBit_lineMask (a n i : Nat) : (lineMask a n).testBit i = decide (i < 64 ∧ a % 64 ≤ i ∧ i < a % 64 + n) := by
  rw [lineMask, Nat.testBit_mod_two_pow, Nat.testBit_mul_two_pow, Nat.testBit_two_pow_sub_one]
  rw [Bool.eq_iff_iff]
  simp only [Bool.and_eq_true, decide_eq_true_eq]
  omega

/-! ### Counters -/

/-- From `s` to `t` events were counted, in registers from `lo` on and in the bandwidth window; nothing else changed. -/
structure CountsAbove (lo : Nat) (s t : State) : Prop where
  rest : t = { s with regs := t.regs, pmu := t.pmu }
  reg : ∀ k < lo, t.rd k = s.rd k

theorem CountsAbove.refl (lo : Nat) (s : State) : CountsAbove lo s s := ⟨rfl, fun _ _ => rfl⟩

theorem CountsAbove.trans {lo : Nat} {s t u : State} (h : CountsAbove lo s t) (g : CountsAbove lo t u) : CountsAbove lo s u := by
  refine ⟨?_, fun k hk => (g.reg k hk).trans (h.reg k hk)⟩
  rw [g.rest, h.rest]

theorem CountsAbove.put {lo : Nat} (s : State) {f : Fld} (v : Nat) (hf : lo ≤ f.reg) : CountsAbove lo s (s.put f v) :=
  ⟨rfl, fun _ hk => State.rd_put_ne s v (by omega)⟩

theorem CountsAbove.mem {lo : Nat} {s t : State} (h : CountsAbove lo s t) : t.mem = s.mem := by rw [h.rest]

theorem CountsAbove.cpu {lo : Nat} {s t : State} (h : CountsAbove lo s t) : t.cpu = s.cpu := by rw [h.rest]

theorem CountsAbove.on {lo : Nat} {s t : State} (h : CountsAbove lo s t) {f : Fld} (hf : f.reg < lo) : t.on f = s.on f := by
  unfold State.on State.get
  rw [h.reg _ hf]

/-- The counters of a page and their overflow bits stand in its second half. -/
theorem CountsAbove.carry (b fuel : Nat) (s : State) (i k : Nat) : CountsAbove (b + 0xF000) s (s.pmuCarry (.page b) fuel i k) := by
  induction fuel generalizing s i k with
  | zero => exact .refl _ _
  | succ fuel ih =>
    have hc : CountsAbove (b + 0xF000) s (s.put (pmuCnt (.page b) i) (s.get (pmuCnt (.page b) i) + k)) :=
      .put _ _ (Nat.le_add_right _ _)
    rw [State.pmuCarry]
    dsimp only
    split
    · exact hc
    · have ho := hc.trans (.put _ (f := pmuOvf (.page b) i) 1 (by simp only [pmuOvf, PMU_OVF]; omega))
      split
      · exact ho.trans (ih _ _ _)
      · exact ho

theorem CountsAbove.count (b : Nat) (s : State) (i k : Nat) : CountsAbove (b + 0xF000) s (s.pmuCount (.page b) i k) := by
  unfold State.pmuCount
  split
  · exact .refl _ _
  · exact .carry ..

theorem CountsAbove.memCount (s : State) (i : Nat) : CountsAbove (pmuMemBase + 0xF000) s (s.memCount i) := .count ..

theorem CountsAbove.bwCount (s : State) (p : Nat) : CountsAbove (pmuMemBase + 0xF000) s (s.bwCount p) := by
  unfold State.bwCount
  have h : CountsAbove (pmuMemBase + 0xF000) s (s.when (p < 11) (fun t => t.pmuCount (.page pmuMemBase) (22 + p) 1)) := by
    unfold State.when
    split
    · exact .count ..
    · exact .refl _ _
  dsimp only
  split
  · exact h
  · exact h.trans ⟨rfl, fun _ _ => rfl⟩

/-! ### The scratch window -/

theorem LogOnly.mem_bytes {s t : State} (h : LogOnly s t) : t.mem.bytes = s.mem.bytes := by rw [h.rest]

theorem LogOnly.cpu {s t : State} (h : LogOnly s t) : t.cpu = s.cpu := by rw [h.rest]

theorem State.bytes_sramWrite (s : State) (q : MemReq) (src a v n : Nat) :
    (s.sramWrite q src a v n).mem.bytes = (s.setBytes a v n).mem.bytes := by
  unfold State.sramWrite
  dsimp only
  split
  · rfl
  · unfold State.when
    split
    · exact (LogOnly.sherd ..).mem_bytes
    · rfl

/-- A write of the scratch window past the caches stores its bytes. -/
theorem State.stored_memWrite_scratch (s : State) (q : MemReq) {a x o : Nat} (v n : Nat) (hr : s.region a = .scratch x o) :
    s.Stored (s.memWrite q a n v) a v n := by
  refine (s.stored_setBytes a v n).congr ?_
  unfold State.memWrite
  rw [hr]
  exact s.bytes_sramWrite q _ a v n

theorem State.memRead_scratch (s : State) (q : MemReq) {a x o : Nat} (n : Nat) (hr : s.region a = .scratch x o) :
    s.memRead q a n = (s, s.bytesAt a n, s.sramPoisoned (a / 64)) := by
  unfold State.memRead
  rw [hr]
  rfl

/-! ### A line of DRAM that has no error -/

/-- A line without an error, which no wedge is to fill first, reads as stored; the read is only counted. -/
theorem State.dramRead_clean (s : State) (q : MemReq) (line : Nat) (hy : s.synd line = 0) (hw : s.wedgeWaits line = false) :
    ∃ t, CountsAbove (pmuMemBase + 0xF000) s t ∧ s.dramRead q line false = (t, s.bytesAt (lineAddr line) 64, false) := by
  have hc := (CountsAbove.memCount s 44).trans (CountsAbove.bwCount _ q.port)
  refine ⟨_, hc, ?_⟩
  have hs : ((s.memCount 44).bwCount q.port).synd line = 0 := by rw [State.synd, hc.mem]; exact hy
  have ht : s.wedgeTouch line = s := by rw [State.wedgeTouch, hw]; rfl
  have hb : ((s.memCount 44).bwCount q.port).bytesAt (lineAddr line) 64 = s.bytesAt (lineAddr line) 64 := 
    State.bytesAt_congr (by rw [hc.mem]) _ _
  unfold State.dramRead
  simp only [ht, Bool.false_eq_true, if_false, hs, beq_self_eq_true, if_true, hb]

theorem State.bytes_setSynd (s : State) (line v : Nat) : (s.setSynd line v).mem.bytes = s.mem.bytes := rfl

/-- Bytes of a line merged into it are stored as by themselves. -/
theorem State.stored_mergeLine (s : State) {a n : Nat} (v : Nat) (hn : a % 64 + n ≤ 64) :
    s.Stored (s.setBytes (lineAddr (a / 64))
      (mergeBytes 64 (lineMask a n) (v % 2 ^ (8 * n) * 2 ^ (8 * (a % 64))) (s.bytesAt (lineAddr (a / 64)) 64)) 64) a v n where
  inside i hi := by
    have e : a + i - lineAddr (a / 64) = a % 64 + i := by rw [lineAddr]; omega
    rw [State.byteAt_setBytes, if_pos (by rw [lineAddr]; omega), e, byteOf_mergeBytes _ _ _ (by omega), testBit_lineMask,
      if_pos (by simp only [decide_eq_true_eq]; omega), byteOf_shift, byteOf_mod _ hi]
  outside k hk := by
    rw [State.byteAt_setBytes]
    split
    · rename_i hl
      rw [lineAddr] at hl ⊢
      rw [byteOf_mergeBytes _ _ _ (by omega), testBit_lineMask, if_neg (by simp only [decide_eq_true_eq]; omega),
        State.byteOf_bytesAt _ _ (by omega), show 64 * (a / 64) + (k - 64 * (a / 64)) = k by omega]
    · rfl

theorem lineMask_ne_full {a n : Nat} (h : n < 64) : lineMask a n ≠ fullMask := by
  intro hm
  have full : ∀ i < 64, a % 64 ≤ i ∧ i < a % 64 + n := fun i hi => by
    have ht : (lineMask a n).testBit i = true := by rw [hm, fullMask, Nat.testBit_two_pow_sub_one]; exact decide_eq_true hi
    rw [testBit_lineMask, decide_eq_true_eq] at ht
    exact ht.2
  have h0 := full 0 (by omega)
  have h63 := full 63 (by omega)
  omega

theorem State.dmcInject_off {s : State} (line : Nat) (h : s.on DMC_INJ_ARM = false) : s.dmcInject line = s := by
  unfold State.dmcInject
  rw [h]
  rfl

/-- A write of part of a line without an error, with no wedge under way there and no flip armed, stores its bytes. -/
theorem State.stored_dramWrite {s : State} (q : MemReq) {a n : Nat} (v : Nat) (hn : a % 64 + n ≤ 64) (hp : n < 64)
    (hy : s.synd (a / 64) = 0) (hw : s.wedgeWaits (a / 64) = false) (hi : s.on DMC_INJ_ARM = false) :
    s.Stored (s.dramWrite q (a / 64) (lineMask a n) (v % 2 ^ (8 * n) * 2 ^ (8 * (a % 64))) false) a v n := by
  have hc := (CountsAbove.memCount s 45).trans (CountsAbove.memCount _ 46)
  obtain ⟨t, ht, hr⟩ := State.dramRead_clean ((s.memCount 45).memCount 46) q (a / 64)
    (by rw [State.synd, hc.mem]; exact hy) (by rw [State.wedgeWaits, hc.mem]; exact hw)
  have hst := hc.trans ht
  have hb : t.mem.bytes = s.mem.bytes := by rw [hst.mem]
  have ho : ((s.memCount 45).memCount 46).bytesAt (lineAddr (a / 64)) 64 = t.bytesAt (lineAddr (a / 64)) 64 :=
    (State.bytesAt_congr (by rw [ht.mem]) _ _).symm
  have hl := t.stored_mergeLine v hn
  unfold State.dramWrite
  rw [if_neg (by simpa using lineMask_ne_full hp), hr, ho]
  simp only [State.when, Bool.false_eq_true, if_false, Bool.or_self]
  rw [State.dmcInject_off]
  · exact (hl.congr (State.bytes_setSynd _ _ _)).of_bytes hb
  · rw [State.on_setSynd, State.on_setBytes, hst.on (by decide), hi]

end Sys2Proof.Machine
end

section
/-! What a hart's own operations leave: CSR writes, its event counters, retirement, trap entry, and what stands around an instruction
(R278, R297, R298, R419, R490, R492, R506, R512). -/

namespace Sys2Proof.Machine

open Sys2Proof

/-! ### CSRs -/

theorem State.csr_congr {s t : State} {h : Nat} (hc : (t.hart h).csr = (s.hart h).csr) (a : Nat) : t.csr h a = s.csr h a := by
  unfold State.csr
  rw [hc]

theorem State.csr_setCsr (s : State) (h a v b : Nat) : (s.setCsr h a v).csr h b = if b = a then v % 2 ^ hartXlen h else s.csr h b := by
  unfold State.csr State.setCsr
  rw [State.hart_updHart_self]
  exact tabGet_tabSet _ _ _ _ _

@[simp] theorem State.csr_setCsr_self (s : State) (h a v : Nat) : (s.setCsr h a v).csr h a = v % 2 ^ hartXlen h := by
  rw [State.csr_setCsr, if_pos rfl]

theorem State.csr_setCsr_ne (s : State) (h v : Nat) {a b : Nat} (hb : b ≠ a) : (s.setCsr h a v).csr h b = s.csr h b := by
  rw [State.csr_setCsr, if_neg hb]

/-- A table written by way of another default reads the same at other keys. -/
theorem tabGet_tabSet_other {α : Type} [DecidableEq α] (d d' : Nat → α) (t : Tab α) {k k' : Nat} (v : α) (h : k' ≠ k) :
    tabGet d (tabSet d' t k v) k' = tabGet d t k' := by
  unfold tabSet
  split
  · rw [tabGet_tabDel, if_neg h]
  · rw [tabGet_tabIns, if_neg h]

/-! ### Event counting of a core (R506, R512) -/

/-- The Zihpm counters and selectors, and `mip` for LCOFIP: the CSRs that counting changes. -/
def hpmCsr (a : Nat) : Prop := a = 0x344 ∨ (0x323 ≤ a ∧ a < 0x340) ∨ (0xB03 ≤ a ∧ a < 0xB20)

/-- From `k` to `k'` hart `h` has counted events in its CSRs. -/
structure HpmOnly (h : Nat) (k k' : HartSt) : Prop where
  rest : k' = { k with csr := k'.csr }
  csr : ∀ a, ¬ hpmCsr a → tabGet (csrDflt h) k'.csr a = tabGet (csrDflt h) k.csr a

theorem HpmOnly.refl (h : Nat) (k : HartSt) : HpmOnly h k k := ⟨rfl, fun _ _ => rfl⟩

theorem HpmOnly.trans {h : Nat} {k k' k'' : HartSt} (p : HpmOnly h k k') (q : HpmOnly h k' k'') : HpmOnly h k k'' :=
  ⟨by rw [q.rest, p.rest], fun a ha => (q.csr a ha).trans (p.csr a ha)⟩

theorem HpmOnly.set (h : Nat) (k : HartSt) {a : Nat} (v : Nat) (ha : hpmCsr a) :
    HpmOnly h k { k with csr := tabSet (fun _ => 0) k.csr a v } where
  rest := rfl
  csr b hb := by
    have hne : b ≠ a := by rintro rfl; exact hb ha
    exact tabGet_tabSet_other (csrDflt h) (fun _ => 0) k.csr v hne

theorem HpmOnly.foldl {h : Nat} (l : List Nat) (f : HartSt → Nat → HartSt) (hf : ∀ j ∈ l, ∀ k, HpmOnly h k (f k j)) (k : HartSt) :
    HpmOnly h k (l.foldl f k) := by
  induction l generalizing k with
  | nil => exact .refl h k
  | cons j l ih => exact (hf j (by simp) k).trans (ih (fun i hi => hf i (by simp [hi])) _)

/-- From `s` to `t` events of hart `h` were counted: on its counter page, in its Zihpm counters and in `minstret`. -/
structure Counted (h : Nat) (s t : State) : Prop where
  rest : t = { s with regs := t.regs, pmu := t.pmu, cpu := { s.cpu with harts := t.cpu.harts } }
  reg : ∀ k < 0x4300F000, t.rd k = s.rd k
  hart : t.hart h = { s.hart h with csr := (t.hart h).csr, instret := (t.hart h).instret }
  csr : ∀ a, ¬ hpmCsr a → t.csr h a = s.csr h a

theorem Counted.refl (h : Nat) (s : State) : Counted h s s := ⟨rfl, fun _ _ => rfl, rfl, fun _ _ => rfl⟩

theorem Counted.trans {h : Nat} {s t u : State} (p : Counted h s t) (q : Counted h t u) : Counted h s u where
  rest := by rw [q.rest, p.rest]
  reg k hk := (q.reg k hk).trans (p.reg k hk)
  hart := by rw [q.hart, p.hart]
  csr a ha := (q.csr a ha).trans (p.csr a ha)

theorem Counted.when {h : Nat} (s : State) (c : Bool) {f : State → State} (hf : Counted h s (f s)) : Counted h s (s.when c f) := by
  unfold State.when
  split
  · exact hf
  · exact .refl h s

theorem Counted.instret (h : Nat) (s : State) (n : Nat) : Counted h s (s.updHart h (fun k => { k with instret := n })) where
  rest := rfl
  reg _ _ := rfl
  hart := by rw [State.hart_updHart_self]
  csr _ _ := State.csr_congr (by rw [State.hart_updHart_self]) _

theorem HpmOnly.counted {h : Nat} (s : State) (f : HartSt → HartSt) (p : HpmOnly h (s.hart h) (f (s.hart h))) :
    Counted h s (s.updHart h f) where
  rest := rfl
  reg _ _ := rfl
  hart := by rw [State.hart_updHart_self, p.rest]
  csr a ha := by
    unfold State.csr
    rw [State.hart_updHart_self]
    exact p.csr a ha

theorem Counted.hpm (h : Nat) (s : State) (i : Nat) : Counted h s (s.hpmCount h i) := by
  unfold State.hpmCount
  refine HpmOnly.counted s _ ?_
  refine HpmOnly.foldl _ _ (fun j hj k => ?_) _
  have hj : j < 29 := List.mem_range.mp (List.mem_of_mem_filter hj)
  have hB : hpmCsr (0xB03 + j) := .inr (.inr ⟨by omega, by omega⟩)
  have hS : hpmCsr (0x323 + j) := .inr (.inl ⟨by omega, by omega⟩)
  dsimp only
  split
  · exact .set h k _ hB
  · split
    · exact (HpmOnly.set h k _ hB).trans (.set h _ _ hS)
    · exact ((HpmOnly.set h k _ hB).trans (.set h _ _ (.inl rfl))).trans (.set h _ _ hS)

theorem CountsAbove.hart {lo : Nat} {s t : State} (p : CountsAbove lo s t) (h : Nat) : t.hart h = s.hart h := by
  rw [State.hart, State.hart, p.cpu]

theorem CountsAbove.counted {h lo : Nat} {s t : State} (p : CountsAbove lo s t) (hl : 0x4300F000 ≤ lo) : Counted h s t where
  rest := by rw [p.rest]
  reg k hk := p.reg k (by omega)
  hart := by rw [p.hart]
  csr _ _ := State.csr_congr (by rw [p.hart]) _

/-- An event of the hart's own core. -/
theorem Counted.core (h : Nat) (s : State) (i : Nat) : Counted h s (s.coreCount h i) := by
  unfold State.coreCount
  split
  · exact .refl h s
  · exact ((CountsAbove.count _ s i 1).counted (by rw [pmuCoreBase]; omega)).trans (.hpm h _ i)

/-- Retiring an instruction counts it, and no more. -/
theorem Counted.retired (h : Nat) (s : State) : Counted h s (s.countRetired h) := by
  unfold State.countRetired
  dsimp only
  exact (((Counted.when s _ (.instret h s _)).trans (.core h _ _)).trans (.core h _ _)).trans (.when _ _ (.core h _ _))

/-! ### Trap entry (R297, R298, R419) -/

/-- The CSRs that a trap clears on leaving a saggar, or counts in, before it writes its own. -/
def enterCsr (a : Nat) : Prop := hpmCsr a ∨ a = csrEzsag ∨ a = 0x003 ∨ a = 0x008 ∨ a = 0xC20 ∨ a = 0xC21

/-- What trap entry of hart `h` does before it writes the trap's CSRs: it counts, and leaves a saggar. The CSRs of `C` can change. -/
structure Entering (C : Nat → Prop) (h : Nat) (s t : State) : Prop where
  rest : t = { s with regs := t.regs, pmu := t.pmu, cpu := { s.cpu with harts := t.cpu.harts } }
  reg : ∀ k < 0x4300F000, t.rd k = s.rd k
  pos : (t.hart h).pos = (s.hart h).pos
  world : (t.hart h).world = (s.hart h).world
  csr : ∀ a, ¬ C a → t.csr h a = s.csr h a

section
variable {C : Nat → Prop} {h : Nat} {s t u : State}

theorem Entering.refl (C : Nat → Prop) (h : Nat) (s : State) : Entering C h s s := ⟨rfl, fun _ _ => rfl, rfl, rfl, fun _ _ => rfl⟩

theorem Entering.trans (p : Entering C h s t) (q : Entering C h t u) : Entering C h s u where
  rest := by rw [q.rest, p.rest]
  reg k hk := (q.reg k hk).trans (p.reg k hk)
  pos := q.pos.trans p.pos
  world := q.world.trans p.world
  csr a ha := (q.csr a ha).trans (p.csr a ha)

theorem Entering.mono {D : Nat → Prop} (p : Entering C h s t) (hD : ∀ a, C a → D a) : Entering D h s t :=
  { p with csr := fun a ha => p.csr a (fun hc => ha (hD a hc)) }

theorem Entering.mem (p : Entering C h s t) : t.mem = s.mem := by rw [p.rest]

theorem Entering.dbgm (p : Entering C h s t) : t.dbgm = s.dbgm := by rw [p.rest]

theorem Counted.entering (p : Counted h s t) : Entering enterCsr h s t where
  rest := p.rest
  reg := p.reg
  pos := by rw [p.hart]
  world := by rw [p.hart]
  csr a ha := p.csr a (fun hc => ha (.inl hc))

theorem Entering.when (s : State) (c : Bool) {f : State → State} (hf : Entering C h s (f s)) : Entering C h s (s.when c f) := by
  unfold State.when
  split
  · exact hf
  · exact .refl C h s

/-- A change of the hart that is not one of its CSRs, position or world. -/
theorem Entering.upd (C : Nat → Prop) (h : Nat) (s : State) (f : HartSt → HartSt)
    (hp : (f (s.hart h)).pos = (s.hart h).pos) (hw : (f (s.hart h)).world = (s.hart h).world) (hc : (f (s.hart h)).csr = (s.hart h).csr) :
    Entering C h s (s.updHart h f) where
  rest := rfl
  reg _ _ := rfl
  pos := by rw [State.hart_updHart_self, hp]
  world := by rw [State.hart_updHart_self, hw]
  csr _ _ := State.csr_congr (by rw [State.hart_updHart_self, hc]) _

theorem Entering.setCsr (h : Nat) (s : State) {a : Nat} (v : Nat) (ha : C a) : Entering C h s (s.setCsr h a v) where
  rest := rfl
  reg _ _ := rfl
  pos := by rw [State.setCsr, State.hart_updHart_self]
  world := by rw [State.setCsr, State.hart_updHart_self]
  csr b hb := State.csr_setCsr_ne s h v (by rintro rfl; exact hb ha)

end

theorem Entering.saggarClear (h : Nat) (s : State) (n : Nat) : Entering enterCsr h s (s.saggarClear h n) := by
  unfold State.saggarClear
  refine (Entering.when s _ (.upd _ h s _ rfl rfl rfl)).trans (.when _ _ ?_)
  have hx : enterCsr 0x003 ∧ enterCsr 0x008 ∧ enterCsr 0xC20 ∧ enterCsr 0xC21 := by simp [enterCsr]
  obtain ⟨h3, h8, h20, h21⟩ := hx
  exact ((((Entering.upd _ h _ _ rfl rfl rfl).trans (.setCsr h _ 0 h3)).trans (.setCsr h _ 0 h8)).trans (.setCsr h _ 0 h20)).trans
    (.setCsr h _ 0 h21)

theorem Entering.saggarLeave (h : Nat) (s : State) : Entering enterCsr h s (s.saggarLeave h) :=
  (Entering.setCsr h s _ (.inr (.inl rfl))).trans (.saggarClear h _ _)

/-- The state in which a trap of hart `h` to mode `tgt` writes its CSRs: out of any saggar, counted, the reservation and the wait gone. -/
def State.trapEntered (s : State) (h : Nat) (irq : Bool) (tgt : Priv) : State :=
  let s := if s.inSaggar h then (s.saggarLeave h).coreCount h 59 else s
  let s := ((s.modesNow h).coreCount h (if irq then 11 else 10)).when (tgt == .m) (fun u => u.coreCount h 63)
  s.updHart h (fun u => { u with resv := none, wfi := false, waitVt := none })

theorem State.trapEntered_entering (s : State) (h : Nat) (irq : Bool) (tgt : Priv) : Entering enterCsr h s (s.trapEntered h irq tgt) := by
  have hs : Entering enterCsr h s (if s.inSaggar h then (s.saggarLeave h).coreCount h 59 else s) := by
    split
    · exact (Entering.saggarLeave h s).trans (Counted.core h _ _).entering
    · exact .refl _ h s
  unfold State.trapEntered
  dsimp only
  refine Entering.trans ?_ (.upd _ h _ _ rfl rfl rfl)
  refine Entering.trans ?_ (.when _ _ (Counted.core h _ _).entering)
  exact (hs.trans (.upd _ h _ _ rfl rfl rfl)).trans (Counted.core h _ _).entering

/-- The CSRs that a trap writes: `xepc` at `epc`, `xcause` and `xtval` after it, and the status at `st`. -/
def State.trapWrites (s : State) (h epc st pc cause tval m : Nat) : State :=
  (((s.setCsr h epc pc).setCsr h (epc + 1) cause).setCsr h (epc + 2) tval).setCsr h st m

theorem State.csr_trapWrites_ne (s : State) (h st pc cause tval m : Nat) {epc a : Nat} (he : a < epc ∨ epc + 2 < a) (hs : a ≠ st) :
    (s.trapWrites h epc st pc cause tval m).csr h a = s.csr h a := by
  unfold State.trapWrites
  rw [State.csr_setCsr_ne _ _ _ hs, State.csr_setCsr_ne _ _ _ (by omega), State.csr_setCsr_ne _ _ _ (by omega),
    State.csr_setCsr_ne _ _ _ (by omega)]

/-- The four CSRs as written. -/
theorem State.csr_trapWrites (s : State) (h pc cause tval m : Nat) {epc st : Nat} (hs : st < epc ∨ epc + 2 < st) :
    let t := s.trapWrites h epc st pc cause tval m
    t.csr h epc = pc % 2 ^ hartXlen h ∧ t.csr h (epc + 1) = cause % 2 ^ hartXlen h ∧ t.csr h (epc + 2) = tval % 2 ^ hartXlen h ∧
      t.csr h st = m % 2 ^ hartXlen h := by
  refine ⟨?_, ?_, ?_, State.csr_setCsr_self _ _ _ _⟩
  · rw [State.trapWrites, State.csr_setCsr_ne _ _ _ (by omega), State.csr_setCsr_ne _ _ _ (by omega),
      State.csr_setCsr_ne _ _ _ (by omega), State.csr_setCsr_self]
  · rw [State.trapWrites, State.csr_setCsr_ne _ _ _ (by omega), State.csr_setCsr_ne _ _ _ (by omega), State.csr_setCsr_self]
  · rw [State.trapWrites, State.csr_setCsr_ne _ _ _ (by omega), State.csr_setCsr_self]

/-! ### The status CSR on trap entry -/

theorem bitsOf_mod {lo w n : Nat} (x : Nat) (h : lo + w ≤ n) : bitsOf (x % 2 ^ n) lo w = bitsOf x lo w := by
  obtain ⟨k, rfl⟩ := Nat.exists_eq_add_of_le h
  unfold bitsOf
  rw [show 2 ^ (lo + w + k) = 2 ^ lo * (2 ^ w * 2 ^ k) by rw [pow_add, pow_add, Nat.mul_assoc], Nat.mod_mul_right_div_self,
    Nat.mod_mul_right_mod]

theorem le_hartXlen (h : Nat) : 32 ≤ hartXlen h := by
  unfold hartXlen
  split <;> omega

/-- The status `m` with its interrupt enable, bit `ie`, moved to bit `pie` and `p` in the `w` bits of the previous mode. -/
def trapStatus (m ie pie lo w p : Nat) : Nat := putBits (putBits (putBits m pie 1 (bitsOf m ie 1)) ie 1 0) lo w p

theorem trapStatus_spec (m w p : Nat) {ie pie lo : Nat} (h1 : ie < pie) (h2 : pie < lo) :
    bitAt (trapStatus m ie pie lo w p) ie = false ∧ bitAt (trapStatus m ie pie lo w p) pie = bitAt m ie ∧
      bitsOf (trapStatus m ie pie lo w p) lo w = p % 2 ^ w := by
  unfold bitAt trapStatus
  refine ⟨?_, ?_, bitsOf_putBits _ _ _ _⟩
  · rw [bitsOf_putBits_below (by omega), bitsOf_putBits]; rfl
  · rw [bitsOf_putBits_below (by omega), bitsOf_putBits_above (by omega), bitsOf_putBits]
    unfold bitsOf
    rw [Nat.mod_mod]

/-! ### The trap, mode by mode -/

theorem State.trapTarget_cases (s : State) (h : Nat) (irq : Bool) (code : Nat) :
    s.trapTarget h irq code = .m ∨ s.trapTarget h irq code = .s ∨ s.trapTarget h irq code = .vs := by
  have pick : ∀ b c : Bool, let p : Priv := if b then .m else if c then .vs else .s
      p = .m ∨ p = .s ∨ p = .vs := by decide
  exact pick _ _

/-- Where a trap of hart `h` resumes: the entry of the saggar it leaves, else its own address (R419). -/
def State.trapPc (s : State) (h : Nat) : Nat :=
  if s.inSaggar h then s.get (SAG_DESC_ENTRY_ENTRY (bitsOf (s.csr h csrEzsag) 0 6)) else (s.hart h).pc

/-- The value for `xtval`, which a saggar keeps to itself (R419). -/
def State.trapTval (s : State) (h tval : Nat) : Nat := if s.inSaggar h then 0 else tval

theorem State.trap_m (s : State) (h : Nat) (irq : Bool) (code tval : Nat) (ht : s.trapTarget h irq code = .m) :
    s.trap h irq code tval =
      let u := s.trapEntered h irq .m
      let m := trapStatus (u.csr h csrMstatus) 3 7 11 2 (privNum (s.hart h).priv)
      let t := u.trapWrites h 0x341 csrMstatus (s.trapPc h) ((if irq then 2 ^ (hartXlen h - 1) else 0) + code) (s.trapTval h tval)
        (if h < 8 then putBits m 39 1 (b2n (virt (s.hart h).priv)) else m)
      t.updHart h (fun k => { k with priv := .m, world := .secure, pc := vector (t.csr h 0x305) irq code }) := by
  unfold State.trap
  rw [ht]
  rfl

theorem State.trap_s (s : State) (h : Nat) (irq : Bool) (code tval : Nat) (ht : s.trapTarget h irq code = .s) :
    s.trap h irq code tval =
      let u := s.trapEntered h irq .s
      let hs := putBits (u.csr h csrHstatus) 7 1 (b2n (virt (s.hart h).priv))
      let t := (u.trapWrites h 0x141 csrMstatus (s.trapPc h) ((if irq then 2 ^ (hartXlen h - 1) else 0) + code) (s.trapTval h tval)
        (trapStatus (u.csr h csrMstatus) 1 5 8 1 (privNum (s.hart h).priv))).setCsr h csrHstatus
          (if virt (s.hart h).priv then putBits hs 8 1 (privNum (s.hart h).priv) else hs)
      t.updHart h (fun k => { k with priv := .s, pc := vector (t.csr h 0x105) irq code }) := by
  unfold State.trap
  rw [ht]
  rfl

theorem State.trap_vs (s : State) (h : Nat) (irq : Bool) (code tval : Nat) (ht : s.trapTarget h irq code = .vs) :
    s.trap h irq code tval =
      let u := s.trapEntered h irq .vs
      let c := if irq then code - 1 else code
      let t := u.trapWrites h 0x241 csrVsstatus (s.trapPc h) ((if irq then 2 ^ (hartXlen h - 1) else 0) + c) (s.trapTval h tval)
        (trapStatus (u.csr h csrVsstatus) 1 5 8 1 (privNum (s.hart h).priv))
      t.updHart h (fun k => { k with priv := .vs, pc := vector (t.csr h 0x205) irq c }) := by
  unfold State.trap
  rw [ht]
  rfl

/-! ### What a trap leaves behind -/

/-- The CSRs that a trap can write. -/
def trapCsr (a : Nat) : Prop :=
  enterCsr a ∨ a = csrMstatus ∨ a = csrVsstatus ∨ a = csrHstatus ∨ (0x141 ≤ a ∧ a ≤ 0x143) ∨ (0x241 ≤ a ∧ a ≤ 0x243) ∨ (0x341 ≤ a ∧ a ≤ 0x343)

/-- The reservation and the wait are gone once a trap has been entered, whatever mode takes it. -/
theorem State.trapEntered_hart (s : State) (h : Nat) (irq : Bool) (tgt : Priv) :
    ((s.trapEntered h irq tgt).hart h).resv = none ∧ ((s.trapEntered h irq tgt).hart h).wfi = false := by
  unfold State.trapEntered
  dsimp only
  rw [State.hart_updHart_self]
  exact ⟨rfl, rfl⟩

theorem Entering.writes {C : Nat → Prop} (s : State) (h pc cause tval m : Nat) {epc st : Nat} (he : C epc ∧ C (epc + 1) ∧ C (epc + 2))
    (hs : C st) : Entering C h s (s.trapWrites h epc st pc cause tval m) :=
  (((Entering.setCsr h s pc he.1).trans (.setCsr h _ cause he.2.1)).trans (.setCsr h _ tval he.2.2)).trans (.setCsr h _ m hs)

@[simp] theorem State.hart_setCsr (s : State) (h a v : Nat) :
    (s.setCsr h a v).hart h = { s.hart h with csr := tabSet (csrDflt h) (s.hart h).csr a (v % 2 ^ hartXlen h) } := by
  rw [State.setCsr, State.hart_updHart_self]

theorem State.hart_trapWrites (s : State) (h epc st pc cause tval m : Nat) :
    (s.trapWrites h epc st pc cause tval m).hart h = { s.hart h with csr := ((s.trapWrites h epc st pc cause tval m).hart h).csr } := by
  simp [State.trapWrites]

theorem State.csr_updHart (s : State) (h : Nat) {f : HartSt → HartSt} (hf : (f (s.hart h)).csr = (s.hart h).csr) (a : Nat) :
    (s.updHart h f).csr h a = s.csr h a := State.csr_congr (by rw [State.hart_updHart_self, hf]) a

/-- The handler's mode and address are all that is left to set once the CSRs are written. -/
theorem State.trap_last (s : State) (h : Nat) (irq : Bool) (code tval : Nat) :
    ∃ (t : State) (f : HartSt → HartSt), Entering trapCsr h s t ∧ s.trap h irq code tval = t.updHart h f ∧
      ∀ k, (f k).csr = k.csr ∧ (f k).pos = k.pos ∧ (f k).resv = k.resv ∧ (f k).wfi = k.wfi := by
  have hE : ∀ tgt, Entering trapCsr h s (s.trapEntered h irq tgt) := fun tgt => (s.trapEntered_entering h irq tgt).mono fun _ => .inl
  rcases s.trapTarget_cases h irq code with ht | ht | ht
  · rw [State.trap_m _ _ _ _ _ ht]
    exact ⟨_, _, (hE .m).trans (.writes _ h _ _ _ _ (by simp [trapCsr]) (by simp [trapCsr])), rfl, fun _ => ⟨rfl, rfl, rfl, rfl⟩⟩
  · rw [State.trap_s _ _ _ _ _ ht]
    exact ⟨_, _, ((hE .s).trans (.writes _ h _ _ _ _ (by simp [trapCsr]) (by simp [trapCsr]))).trans (.setCsr h _ _ (by simp [trapCsr])), rfl,
      fun _ => ⟨rfl, rfl, rfl, rfl⟩⟩
  · rw [State.trap_vs _ _ _ _ _ ht]
    exact ⟨_, _, (hE .vs).trans (.writes _ h _ _ _ _ (by simp [trapCsr]) (by simp [trapCsr])), rfl, fun _ => ⟨rfl, rfl, rfl, rfl⟩⟩

/-- A trap leaves memory, the debug module and every CSR it does not write. -/
theorem State.trap_frame (s : State) (h : Nat) (irq : Bool) (code tval : Nat) :
    (s.trap h irq code tval).mem = s.mem ∧ (s.trap h irq code tval).dbgm = s.dbgm ∧
      ∀ a, ¬ trapCsr a → (s.trap h irq code tval).csr h a = s.csr h a := by
  obtain ⟨t, f, hE, he, hf⟩ := s.trap_last h irq code tval
  rw [he]
  refine ⟨hE.mem, hE.dbgm, fun a ha => ?_⟩
  rw [← hE.csr a ha]
  exact t.csr_updHart h (hf _).1 a

/-- What the CSRs of a trap hold once they are written, from a state `u` that trap entry has reached. -/
theorem State.saved_writes {s u t : State} {h epc st ie pie m : Nat} {irq : Bool} {code tval : Nat} (hE : Entering enterCsr h s u)
    (hs : st < epc ∨ epc + 2 < st) (he : ¬ enterCsr st) (h1 : ie < pie) (h2 : pie < 32)
    (hm : bitAt m ie = false ∧ bitAt m pie = bitAt (u.csr h st) ie)
    (ht : ∀ a, a = epc ∨ a = epc + 1 ∨ a = epc + 2 ∨ a = st →
      t.csr h a = (u.trapWrites h epc st (s.trapPc h) ((if irq then 2 ^ (hartXlen h - 1) else 0) + code) (s.trapTval h tval) m).csr h a) :
    s.Saved t h epc st ie pie irq code tval := by
  have hx := le_hartXlen h
  obtain ⟨e0, e1, e2, e3⟩ := u.csr_trapWrites h (s.trapPc h) ((if irq then 2 ^ (hartXlen h - 1) else 0) + code) (s.trapTval h tval) m hs
  have cut : ∀ i < 32, bitAt (m % 2 ^ hartXlen h) i = bitAt m i := fun i hi => by
    unfold bitAt
    rw [bitsOf_mod _ (by omega)]
  refine ⟨(ht _ (by simp)).trans e0, (ht _ (by simp)).trans e1, (ht _ (by simp)).trans e2, ?_, ?_⟩
  · rw [ht st (by simp), e3, cut ie (by omega), hm.1]
  · rw [ht st (by simp), e3, cut pie h2, hm.2, hE.csr st he]

theorem privNum_mod (p : Priv) : privNum p % 2 ^ 2 = privNum p := by cases p <;> rfl

/-- The vector bases are not among what trap entry touches. -/
theorem not_enterCsr : ¬ enterCsr csrMstatus ∧ ¬ enterCsr csrVsstatus ∧ ¬ enterCsr 0x105 ∧ ¬ enterCsr 0x205 ∧ ¬ enterCsr 0x305 := by
  simp [enterCsr, hpmCsr, csrMstatus, csrVsstatus, csrEzsag]

theorem State.took_m {s : State} {h : Nat} {irq : Bool} {code : Nat} (tval : Nat) (ht : s.trapTarget h irq code = .m) :
    s.Took (s.trap h irq code tval) h irq code tval := by
  have hE := s.trapEntered_entering h irq .m
  obtain ⟨hr, hw⟩ := s.trapEntered_hart h irq .m
  obtain ⟨nm, -, -, -, nb⟩ := not_enterCsr
  rw [State.Took, ht, State.trap_m s h irq code tval ht]
  dsimp only
  generalize s.trapEntered h irq .m = u at hE hr hw ⊢
  generalize hm : (if h < 8 then _ else _) = m
  have hM : bitAt m 3 = false ∧ bitAt m 7 = bitAt (u.csr h csrMstatus) 3 ∧ bitsOf m 11 2 = privNum (s.hart h).priv := by
    have hS := trapStatus_spec (u.csr h csrMstatus) 2 (privNum (s.hart h).priv) (show 3 < 7 by omega) (show 7 < 11 by omega)
    rw [privNum_mod] at hS
    subst hm
    split
    · unfold bitAt at hS ⊢
      simpa only [bitsOf_putBits_below (show 3 + 1 ≤ 39 by omega), bitsOf_putBits_below (show 7 + 1 ≤ 39 by omega),
        bitsOf_putBits_below (show 11 + 2 ≤ 39 by omega)] using hS
    · exact hS
  obtain ⟨h3, h7, h11⟩ := hM
  rw [State.hart_updHart_self, State.hart_trapWrites]
  refine ⟨hr, hw, hE.pos, State.saved_writes hE (by decide) nm (by omega) (by omega) ⟨h3, h7⟩ (fun a _ => State.csr_updHart _ _ rfl a),
    rfl, ?_, rfl, ?_⟩
  · rw [State.csr_updHart _ _ rfl, (u.csr_trapWrites h _ _ _ m (by decide)).2.2.2, bitsOf_mod _ (by have := le_hartXlen h; omega), h11]
  · rw [State.csr_trapWrites_ne _ _ _ _ _ _ _ (by decide) (by decide), hE.csr _ nb]

theorem State.took_s {s : State} {h : Nat} {irq : Bool} {code : Nat} (tval : Nat) (ht : s.trapTarget h irq code = .s) :
    s.Took (s.trap h irq code tval) h irq code tval := by
  have hE := s.trapEntered_entering h irq .s
  obtain ⟨hr, hw⟩ := s.trapEntered_hart h irq .s
  obtain ⟨nm, -, nb, -, -⟩ := not_enterCsr
  rw [State.Took, ht, State.trap_s s h irq code tval ht]
  dsimp only
  generalize s.trapEntered h irq .s = u at hE hr hw ⊢
  generalize (if virt _ then putBits _ 8 1 _ else _) = v
  obtain ⟨h1, h5, -⟩ := trapStatus_spec (u.csr h csrMstatus) 1 (privNum (s.hart h).priv) (show 1 < 5 by omega) (show 5 < 8 by omega)
  rw [State.hart_updHart_self, State.hart_setCsr, State.hart_trapWrites]
  refine ⟨hr, hw, hE.pos, State.saved_writes hE (by decide) nm (by omega) (by omega) ⟨h1, h5⟩ (fun a ha => ?_), rfl, hE.world, ?_⟩
  · rw [State.csr_updHart _ _ rfl, State.csr_setCsr_ne]
    simp only [csrHstatus, csrMstatus] at ha ⊢
    omega
  · rw [State.csr_setCsr_ne _ _ _ (by decide), State.csr_trapWrites_ne _ _ _ _ _ _ _ (by decide) (by decide), hE.csr _ nb]

theorem State.took_vs {s : State} {h : Nat} {irq : Bool} {code : Nat} (tval : Nat) (ht : s.trapTarget h irq code = .vs) :
    s.Took (s.trap h irq code tval) h irq code tval := by
  have hE := s.trapEntered_entering h irq .vs
  obtain ⟨hr, hw⟩ := s.trapEntered_hart h irq .vs
  obtain ⟨-, nm, -, nb, -⟩ := not_enterCsr
  rw [State.Took, ht, State.trap_vs s h irq code tval ht]
  dsimp only
  generalize s.trapEntered h irq .vs = u at hE hr hw ⊢
  obtain ⟨h1, h5, -⟩ := trapStatus_spec (u.csr h csrVsstatus) 1 (privNum (s.hart h).priv) (show 1 < 5 by omega) (show 5 < 8 by omega)
  rw [State.hart_updHart_self, State.hart_trapWrites]
  refine ⟨hr, hw, hE.pos, State.saved_writes hE (by decide) nm (by omega) (by omega) ⟨h1, h5⟩ (fun a _ => State.csr_updHart _ _ rfl a),
    rfl, hE.world, ?_⟩
  rw [State.csr_trapWrites_ne _ _ _ _ _ _ _ (by decide) (by decide), hE.csr _ nb]

/-- A trap is taken to the mode that delegation gives (R297, R298). -/
theorem State.trap_took (s : State) (h : Nat) (irq : Bool) (code tval : Nat) : s.Took (s.trap h irq code tval) h irq code tval := by
  rcases s.trapTarget_cases h irq code with ht | ht | ht
  · exact State.took_m tval ht
  · exact State.took_s tval ht
  · exact State.took_vs tval ht

/-- Taking a trap is seen in the harts alone, and in the entry address of a saggar it leaves. -/
theorem State.Took.congr {s u t v : State} {h : Nat} {irq : Bool} {code tval : Nat} (p : u.Took t h irq code tval) (hs : u.cpu = s.cpu)
    (hg : ∀ k < 64, u.get (SAG_DESC_ENTRY_ENTRY k) = s.get (SAG_DESC_ENTRY_ENTRY k)) (ht : v.cpu = t.cpu) :
    s.Took v h irq code tval := by
  have hu : u.hart h = s.hart h := by rw [State.hart, State.hart, hs]
  have hv : v.hart h = t.hart h := by rw [State.hart, State.hart, ht]
  have cu : ∀ a, u.csr h a = s.csr h a := State.csr_congr (by rw [hu])
  have cv : ∀ a, v.csr h a = t.csr h a := State.csr_congr (by rw [hv])
  have hk : u.get (SAG_DESC_ENTRY_ENTRY (bitsOf (s.csr h csrEzsag) 0 6)) = s.get (SAG_DESC_ENTRY_ENTRY (bitsOf (s.csr h csrEzsag) 0 6)) :=
    hg _ (bitsOf_lt _ _ _)
  have tg : u.trapTarget h irq code = s.trapTarget h irq code := by simp only [State.trapTarget, hu, cu]
  have sg : u.inSaggar h = s.inSaggar h := by simp only [State.inSaggar, cu]
  have sv : ∀ epc st ie pie c, u.Saved t h epc st ie pie irq c tval ↔ s.Saved v h epc st ie pie irq c tval := fun _ _ _ _ _ => by
    simp only [State.Saved, sg, hu, cu, cv, hk]
  simpa only [State.Took, tg, sv, hu, hv, cu, cv] using p

/-- A record in the logs before the trap. -/
theorem State.Took.ofLog {s u t : State} {h : Nat} {irq : Bool} {code tval : Nat} (p : u.Took t h irq code tval) (hl : LogOnly s u) :
    s.Took t h irq code tval := by
  refine p.congr hl.cpu (fun k hk => ?_) rfl
  have hr : (SAG_DESC_ENTRY_ENTRY k).reg < 0x41032000 := by simp only [SAG_DESC_ENTRY_ENTRY, SAG_DESC_ENTRY]; omega
  have ho : ∀ r ∈ ldgRegs, 0x41032000 ≤ r := by decide
  unfold State.get
  rw [hl.reg]
  · intro hm
    have := ho _ hm
    omega
  · have : 0x41032000 ≤ SHD_IRQ_STATUS := by decide
    omega
  · have : 0x41032000 ≤ SHD_STAT := by decide
    omega

theorem State.accessFault_took (s : State) (h : Nat) (w : Bool) (va : Nat) :
    s.Took (s.accessFault h w va) h false (if w then 7 else 5) va := s.trap_took ..

theorem State.mem_accessFault (s : State) (h : Nat) (w : Bool) (va : Nat) : (s.accessFault h w va).mem = s.mem := (s.trap_frame ..).1

/-! ### Around an instruction on which nothing waits (R490, R492) -/

theorem not_trapCsr_debug {a : Nat} (ha : a = csrDcsr ∨ 0x10000 ≤ a) : ¬ trapCsr a := by
  simp only [trapCsr, enterCsr, hpmCsr, csrDcsr, csrEzsag, csrMstatus, csrVsstatus, csrHstatus] at ha ⊢
  omega

/-- The debug module and the CSRs of the debugger decide whether a hart is quiet. -/
theorem State.Quiet.congr {s t : State} {h : Nat} (q : s.Quiet h) (hd : t.dbgm = s.dbgm)
    (hc : ∀ a, a = csrDcsr ∨ 0x10000 ≤ a → t.csr h a = s.csr h a) : t.Quiet h where
  halt := by rw [hd]; exact q.halt
  step := by rw [hc _ (.inl rfl)]; exact q.step
  trig i p := by
    have e := hc (trigCsr i 1) (.inr (by unfold trigCsr; omega))
    have := q.trig i p
    simpa only [State.trigMode, State.trigOn, e] using this

theorem State.Quiet.trap {s : State} {h : Nat} (q : s.Quiet h) (irq : Bool) (code tval : Nat) : (s.trap h irq code tval).Quiet h :=
  have hf := s.trap_frame h irq code tval
  q.congr hf.2.1 fun a ha => hf.2.2 a (not_trapCsr_debug ha)

theorem State.Quiet.pollHalt {s : State} {h : Nat} (q : s.Quiet h) : s.pollHalt h = s := by
  unfold State.pollHalt
  rw [q.halt]
  simp

theorem State.Quiet.pollStep {s : State} {h : Nat} (q : s.Quiet h) : s.pollStep h = s := by
  unfold State.pollStep
  rw [q.step]
  simpa using q.pollHalt

theorem State.Quiet.trigAccess {s : State} {h : Nat} (q : s.Quiet h) (k : AccKind) (va : Nat) : s.trigAccess h k va = (s, false) := by
  have hn : (List.range (trigCount h)).find? (fun i => s.trigMatch h k va i) = none :=
    List.find?_eq_none.mpr fun i _ => by simp [State.trigMatch, q.trig]
  rw [State.trigAccess, hn]

theorem State.Quiet.afterInstr {s : State} {h : Nat} (q : s.Quiet h) (was : HartSt) : s.afterInstr h was = s := by
  have hc : s.trigCountDown h was.priv = s := by simp [State.trigCountDown, q.trig]
  have ht : s.trigTrap h was.priv = s := by simp [State.trigTrap, q.trig]
  unfold State.afterInstr
  dsimp only
  rw [hc, ht, q.pollStep]
  split_ifs <;> rfl

/-- A ready hart executes its instruction, and nothing else. -/
theorem State.Ready.instr {s : State} {h : Nat} (r : s.Ready h) {f : State → State} (q : (f s).Quiet h) : s.instr h f = f s := by
  have hw : s.irqWake h = s := by
    have hf := r.free
    simp only [State.hartFree, Bool.and_eq_true, Bool.not_eq_true'] at hf
    unfold State.irqWake
    rw [hf.1.1.2]
    rfl
  unfold State.instr State.commitThen
  simp only [r.toQuiet.pollHalt, hw, r.free, r.irq, r.commit, r.toQuiet.trigAccess, q.afterInstr, Bool.not_true, Bool.not_false,
    Bool.false_eq_true, if_false, if_true]

/-! ### An instruction that retires -/

theorem Counted.quiet {s t : State} {h : Nat} (c : Counted h s t) (q : s.Quiet h) : t.Quiet h :=
  q.congr c.entering.dbgm fun a ha => c.csr a fun hc => not_trapCsr_debug ha (.inl (.inl hc))

theorem State.Quiet.retire {s : State} {h : Nat} (q : s.Quiet h) : (s.retire h).Quiet h :=
  ((Counted.retired h s).quiet q).congr rfl fun a _ => State.csr_updHart _ _ rfl a

theorem State.mem_retire (s : State) (h : Nat) : (s.retire h).mem = s.mem := (Counted.retired h s).entering.mem

/-- An instruction that retires goes on at the next one; what it wrote before are the registers of `rs`. -/
theorem State.went_retire {s t : State} {h : Nat} {rs : List Nat} (hp : (t.hart h).pc = (s.hart h).pc)
    (hq : (t.hart h).pos = (s.hart h).pos) (hm : (t.hart h).priv = (s.hart h).priv) (hw : (t.hart h).world = (s.hart h).world)
    (hx : ∀ r, r ∉ rs → t.xreg h r = s.xreg h r) : s.Went (t.retire h) h ((s.hart h).pc + 4) rs := by
  have hc := (Counted.retired h t).hart
  unfold State.Went State.retire State.retireTo
  rw [State.hart_updHart_self, hc, hp]
  refine ⟨rfl, congrArg (· + 1) hq, hm, hw, fun r hr => ?_⟩
  rw [← hx r hr, State.xreg, State.xreg, State.hart_updHart_self, hc]

theorem State.xreg_retire (s : State) (h r : Nat) : (s.retire h).xreg h r = s.xreg h r := by
  unfold State.xreg State.retire State.retireTo
  rw [State.hart_updHart_self, (Counted.retired h s).hart]

theorem State.hart_setX (s : State) (h r v : Nat) : (s.setX h r v).hart h = { s.hart h with x := ((s.setX h r v).hart h).x } := by
  unfold State.setX
  split
  · rfl
  · rw [State.hart_updHart_self]

theorem State.mem_setX (s : State) (h r v : Nat) : (s.setX h r v).mem = s.mem := by
  unfold State.setX
  split <;> rfl

theorem State.Quiet.setX {s : State} {h : Nat} (q : s.Quiet h) (r v : Nat) : (s.setX h r v).Quiet h := by
  refine q.congr ?_ fun a _ => State.csr_congr (by rw [State.hart_setX]) a
  unfold State.setX
  split <;> rfl

end Sys2Proof.Machine
end

section
/-! Accesses from outside a hart's pipe (R11, R33, R36, R42, R43, R306, R491, R494, R532, R558), one clause of the statement at a time. -/

namespace Sys2Proof.Machine

open Sys2Proof

/-- A command whose next state is known. -/
theorem Completes.of {c : Instr} {s t : State} {P : State → Prop} (h : exec c s = .next t) (hP : P t) : Completes c s P := ⟨t, h, hP⟩

/-! ### Register windows -/

theorem State.isWindow_of_region {s : State} {a : Nat} {r : Region} (h : s.region a = r)
    (hr : ∀ d b o, r ≠ .regs d b o) (hd : ∀ b o, r ≠ .debug b o) : s.isWindow a = false := by
  unfold State.isWindow
  rw [h]
  cases r with
  | regs d b o => exact absurd rfl (hr d b o)
  | debug b o => exact absurd rfl (hd b o)
  | _ => rfl

theorem State.isWindow_scratch {s : State} {a x o : Nat} (h : s.region a = .scratch x o) : s.isWindow a = false :=
  State.isWindow_of_region h (by simp) (by simp)

theorem State.windowAbsent_scratch {s : State} {a x o : Nat} (h : s.region a = .scratch x o) : s.windowAbsent a = false := by
  unfold State.windowAbsent
  rw [h]

section
variable {s : State} {a : Agent} {addr n v : Nat}

/-- What a live agent other than the debug module does to a window is what the window answers. -/
theorem State.busWrite_ok (hl : s.agentLive a = true) (hd : isDap a = false) (hj : s.winJudge a (s.agentSlice a) true addr n = .ok) :
    s.busWrite a addr n v = s.winWrite a (s.agentSlice a) addr n v := by
  unfold State.busWrite
  simp only [hl, hd, hj, Bool.not_true, Bool.false_and, Bool.false_eq_true, if_false]

theorem State.busWrite_bad (hl : s.agentLive a = true) (hd : isDap a = false) (hj : s.winJudge a (s.agentSlice a) true addr n = .bad) :
    s.busWrite a addr n v = s.regFault a true addr := by
  unfold State.busWrite
  simp only [hl, hd, hj, Bool.not_true, Bool.false_and, Bool.false_eq_true, if_false]

theorem State.busWrite_refuse {st : Status} (hl : s.agentLive a = true) (hd : isDap a = false)
    (hj : s.winJudge a (s.agentSlice a) true addr n = .refuse st) :
    s.busWrite a addr n v =
      (s.regRefused a true addr st).when (addr / 8 == DAP_LOCKREL / 8 && !isDap a) (fun t => t.res DAP_LOCKRES_STATUS .denied) := by
  unfold State.busWrite
  simp only [hl, hd, hj, Bool.not_true, Bool.false_and, Bool.false_eq_true, if_false]

/-- The debug module's write of a window that permits it. -/
theorem State.busWrite_dap {w : World} (hl : s.agentLive (.dap w) = true) (hb : s.sbAllowed w true addr = true)
    (hj : s.winJudge (.dap w) (s.agentSlice (.dap w)) true addr n = .ok) :
    s.busWrite (.dap w) addr n v = (s.winWrite (.dap w) (s.agentSlice (.dap w)) addr n v).sbEnd 0 .ok := by
  unfold State.busWrite
  simp only [hl, hj, isDap, State.agentWorld, hb, Bool.not_true, Bool.and_false, Bool.false_eq_true, if_false, if_true]

end

/-- A window whose writes go to its registers: not the doorbell page, an interrupt file, the IOMMU or an APLIC. -/
def regsPage (a : Nat) : Bool :=
  !(isDoorbell a || imsicPage a || a / 0x10000 == IOMMU / 0x10000 || a / 0x10000 == 0x4330 || a / 0x10000 == 0x4331)

theorem State.winWrite_regs (s : State) (a : Agent) (sl : Option Nat) {addr : Nat} (n v : Nat) (h : regsPage addr = true) :
    s.winWrite a sl addr n v = s.regStore a addr n v := by
  simp only [regsPage, Bool.not_eq_true', Bool.or_eq_false_iff] at h
  obtain ⟨⟨⟨⟨h1, h2⟩, h3⟩, h4⟩, h5⟩ := h
  unfold State.winWrite
  simp only [h1, h2, h3, h4, h5, Bool.or_self, Bool.false_eq_true, if_false]

/-- Outside the core blocks no register is a shadow. -/
theorem State.shadowBlock_out (s : State) {a : Nat} (h : within a 0x43000000 0x43080000 = false) : s.shadowBlock a = false := by
  rw [State.shadowBlock, h]
  rfl

/-! ### `AOT_ALARM`, a register of one 64-bit field -/

/-- Every bit of the value is written. -/
theorem mixBits_full {x v : Nat} (hx : x < 2 ^ 64) (hv : v < 2 ^ 64) : mixBits x (2 ^ 64 - 1) v = v := by
  have ho : x ||| (2 ^ 64 - 1) = 2 ^ 64 - 1 := by
    refine Nat.eq_of_testBit_eq fun i => ?_
    rw [Nat.testBit_or, Nat.testBit_two_pow_sub_one]
    by_cases hi : i < 64
    · simp [hi]
    · simp [hi, Nat.testBit_lt_two_pow (lt_of_lt_of_le hx (Nat.pow_le_pow_right (by omega) (Nat.le_of_not_lt hi)))]
  have ha : v &&& (2 ^ 64 - 1) = v := by rw [Nat.and_two_pow_sub_one_eq_mod, Nat.mod_eq_of_lt hv]
  change (x ||| (2 ^ 64 - 1)) - (2 ^ 64 - 1) ||| (v &&& (2 ^ 64 - 1)) = v
  rw [ho, ha, Nat.sub_self, Nat.zero_or]

theorem regRowAt_aotAlarm : regRowAt AOT_ALARM = some ⟨AOT_ALARM, [], 8, [⟨0, 64, .rw, 0⟩]⟩ := by decide +kernel

/-- The alarm has no operation of its own: its write follows the access code of its field. -/
theorem State.regStore_aotAlarm (s : State) (a : Agent) {v : Nat} (hv : v < 2 ^ 64) : s.regStore a AOT_ALARM 8 v = s.wr AOT_ALARM v := by
  have hp : s.regWrite a AOT_ALARM (2 ^ 64 - 1) v = s.plain ⟨a, 0, AOT_ALARM, 2 ^ 64 - 1, v⟩ := by
    have h1 : (s.shadowBlock AOT_ALARM || portAbsent AOT_ALARM) = false := by
      rw [State.shadowBlock_out s (by decide)]
      decide
    have h2 : startAt AOT_ALARM = none := rfl
    have h3 : opAt AOT_ALARM = none := rfl
    have h4 : counterAt AOT_ALARM = none := by decide +kernel
    unfold State.regWrite
    simp only [h1, h2, h3, h4, Bool.false_eq_true, if_false]
  have hw : s.codeWrite ⟨a, 0, AOT_ALARM, 2 ^ 64 - 1, v⟩ = v := by
    have hm : rowMask ⟨AOT_ALARM, [], 8, [⟨0, 64, .rw, 0⟩]⟩ .rw = 2 ^ 64 - 1 ∧ rowMask ⟨AOT_ALARM, [], 8, [⟨0, 64, .rw, 0⟩]⟩ .w1c = 0 := by
      decide
    have hl : Nat.land (2 ^ 64 - 1) (2 ^ 64 - 1) = 2 ^ 64 - 1 := Nat.and_self _
    have hz : Nat.land v 0 = 0 := Nat.and_zero v
    have ho : Nat.lor v 0 = v := Nat.or_zero v
    simp only [State.codeWrite, regRowAt_aotAlarm, hm.1, hm.2, hl, hz, mixBits_full (s.rd_lt _) hv, ho, Nat.sub_zero]
  unfold State.regStore
  simp only [regRowAt_aotAlarm, show ((8 : Nat) == 4) = false from rfl, Bool.false_eq_true, if_false, beq_self_eq_true, if_true, hp,
    State.plain, hw, Option.isSome_some]

/-! ### The half of a command register that does not start it (R558) -/

/-- Facts about the registers: `a` is a 64-bit command register whose high half holds the start field. -/
structure StartsHigh (a : Nat) : Prop where
  page : regsPage a = true
  aligned : a % 8 = 0
  wide : (regRowAt a).map (fun r => r.bytes) = some 8
  core : within a 0x43000000 0x43080000 = false
  port : portAbsent a = false
  start : ∃ o n, startAt a = some (o, n) ∧ o.high = true

theorem startsHigh_of_mem {a : Nat} (h : a = LDG_W_CMD 0 ∨ a = LDG_W_CMD 1 ∨ a = DMC_REMAP_CMD ∨ a = STT_PROBE) : StartsHigh a := by
  rcases h with rfl | rfl | rfl | rfl <;>
    exact ⟨by decide, by decide, by decide +kernel, by decide, by decide, _, _, rfl, rfl⟩

theorem StartsHigh.stageHalf {a : Nat} (h : StartsHigh a) : stageHalf a = true := by
  obtain ⟨o, n, hs, ho⟩ := h.start
  have e : a / 8 * 8 = a := by have := h.aligned; omega
  rw [Sys2Proof.Machine.stageHalf, e, hs]
  simp [ho, h.aligned]

/-- A write of its low half is kept for the write that starts the command. -/
theorem StartsHigh.regStore {a : Nat} (h : StartsHigh a) (s : State) (g : Agent) {v : Nat} (hv : v < 2 ^ 32) :
    s.regStore g a 4 v = s.stage a v := by
  obtain ⟨o, n, hs, ho⟩ := h.start
  obtain ⟨r, hr, hb⟩ := Option.map_eq_some_iff.mp h.wide
  have e : a / 8 * 8 = a := by have := h.aligned; omega
  have hw : s.regWrite g a (2 ^ 32 - 1) v = s.stage a v := by
    unfold State.regWrite
    simp only [s.shadowBlock_out h.core, h.port, hs, State.startWrite, ho, Bool.or_self, Bool.false_eq_true, if_false]
    rfl
  simp only [State.regStore, State.regWrite4, beq_self_eq_true, if_true, e, hr, hb, h.aligned, Nat.mul_zero, pow_zero, Nat.mul_one,
    Nat.mod_eq_of_lt hv, hw]

/-! ### Register writes -/

theorem exec_registerWrite (a : Agent) (addr : PAddr) (n : Nat) (data : Word) (s : State) : exec (.registerWrite a addr n data) s =
    .next (if s.isWindow addr.toNat then s.busWrite a addr.toNat n data.toNat else s) := rfl

section
variable {s : State} {a : Agent} {addr : PAddr} {n : Nat} {data : Word}

theorem registerWrite_outside (hw : s.isWindow addr.toNat = false) : Completes (.registerWrite a addr n data) s fun t => t = s :=
  .of (exec_registerWrite ..) (by rw [hw]; rfl)

theorem registerWrite_ok (hw : s.isWindow addr.toNat = true) (hl : s.agentLive a = true) (hd : isDap a = false)
    (hj : s.winJudge a (s.agentSlice a) true addr.toNat n = .ok) :
    Completes (.registerWrite a addr n data) s fun t => t = s.winWrite a (s.agentSlice a) addr.toNat n data.toNat :=
  .of (exec_registerWrite ..) (by rw [hw, if_pos rfl, State.busWrite_ok hl hd hj])

theorem registerWrite_aotAlarm (hw : s.isWindow addr.toNat = true) (hl : s.agentLive a = true) (hd : isDap a = false)
    (hj : s.winJudge a (s.agentSlice a) true addr.toNat 8 = .ok) (ha : addr.toNat = AOT_ALARM) :
    Completes (.registerWrite a addr 8 data) s fun t =>
      t.rd AOT_ALARM = data.toNat ∧ (∀ k, k ≠ AOT_ALARM → t.rd k = s.rd k) ∧ t.mem = s.mem ∧ t.cpu = s.cpu := by
  obtain ⟨t, ht, rfl⟩ := registerWrite_ok (data := data) hw hl hd hj
  refine ⟨_, ht, ?_⟩
  rw [ha, s.winWrite_regs a _ _ _ (show regsPage AOT_ALARM = true by decide), s.regStore_aotAlarm a data.isLt]
  exact ⟨by rw [State.rd_wr_self, Nat.mod_eq_of_lt data.isLt], fun k hk => s.rd_wr_ne _ hk, rfl, rfl⟩

variable {h : Hart}

/-- A malformed write of a hart: the fault, without a record. -/
theorem registerWrite_bad (hw : s.isWindow addr.toNat = true) (hl : s.agentLive (.hart h) = true)
    (hj : s.winJudge (.hart h) (s.agentSlice (.hart h)) true addr.toNat n = .bad) :
    Completes (.registerWrite (.hart h) addr n data) s fun t => s.Took t h.val false 7 addr.toNat ∧ t.mem = s.mem :=
  .of (exec_registerWrite ..) (by
    rw [hw, if_pos rfl, State.busWrite_bad hl rfl hj]
    exact ⟨s.accessFault_took h.val true addr.toNat, s.mem_accessFault ..⟩)

/-- A refused write of a hart: the record, then the fault. -/
theorem registerWrite_refuse {st : Status} (hw : s.isWindow addr.toNat = true) (hl : s.agentLive (.hart h) = true)
    (hj : s.winJudge (.hart h) (s.agentSlice (.hart h)) true addr.toNat n = .refuse st) :
    Completes (.registerWrite (.hart h) addr n data) s fun t => s.Took t h.val false 7 addr.toNat ∧ t.mem.bytes = s.mem.bytes := by
  refine .of (exec_registerWrite ..) ?_
  rw [hw, if_pos rfl, State.busWrite_refuse hl rfl hj]
  have hlog := LogOnly.refused s (.hart h) st (s.region addr.toNat) addr.toNat
  have ht : s.Took (s.regRefused (.hart h) true addr.toNat st) h.val false 7 addr.toNat :=
    (State.accessFault_took _ h.val true addr.toNat).ofLog hlog
  have hm : (s.regRefused (.hart h) true addr.toNat st).mem.bytes = s.mem.bytes :=
    (congrArg (·.bytes) (State.mem_accessFault _ h.val true addr.toNat)).trans hlog.mem_bytes
  unfold State.when
  split
  · exact ⟨ht.congr rfl (fun _ _ => rfl) rfl, hm⟩
  · exact ⟨ht, hm⟩

end

theorem exec_halfWriteStage (a : Agent) (addr : PAddr) (data : BitVec 32) (s : State) : exec (.halfWriteStage a addr data) s =
    .next (if stageHalf addr.toNat then s.busWrite a addr.toNat 4 data.toNat else s) := rfl

theorem halfWriteStage_staged {s : State} {a : Agent} {addr : PAddr} (data : BitVec 32) (hl : s.agentLive a = true) (hd : isDap a = false)
    (ha : StartsHigh addr.toNat) (hj : s.winJudge a (s.agentSlice a) true addr.toNat 4 = .ok) :
    Completes (.halfWriteStage a addr data) s fun t =>
      tabGet (fun _ => none) t.staged addr.toNat = some data.toNat ∧ t.regs = s.regs ∧ t.mem = s.mem ∧ t.cpu = s.cpu := by
  refine .of (exec_halfWriteStage ..) ?_
  rw [ha.stageHalf, if_pos rfl, State.busWrite_ok hl hd hj, s.winWrite_regs a _ _ _ ha.page, ha.regStore s a data.isLt]
  exact ⟨tabGet_tabSet_self (fun _ => none) s.staged addr.toNat (some data.toNat), rfl, rfl, rfl⟩

/-! ### The system bus of the debug module (R491, R494) -/

/-- The agent of a system bus access: the debug module in the world `DAP_SBCTL` gives it. -/
abbrev State.sbAgent (s : State) : Agent := .dap (worldOf (s.get DAP_SBCTL_WORLD))

theorem exec_systemBusAccess (w : Bool) (addr : PAddr) (size : AccSize) (data : Word) (s : State) :
    exec (.systemBusAccess w addr size data) s = .next (s.sysBus w addr.toNat size.bytes data.toNat) := rfl

theorem State.dbgm_sbEnd (s : State) (e : Nat) (st : Status) : (s.sbEnd e st).dbgm = { s.dbgm with sberror := e } := rfl

theorem State.mem_sbEnd (s : State) (e : Nat) (st : Status) : (s.sbEnd e st).mem = s.mem := rfl

section
variable {s : State} {w : Bool} {addr n v : Nat}

theorem State.sysBus_dead (hl : s.agentLive s.sbAgent = false) : s.sysBus w addr n v = s := by
  unfold State.sysBus
  simp only [hl, Bool.not_false, if_true]

theorem State.sysBus_denied (hl : s.agentLive s.sbAgent = true) (hb : s.sbAllowed (worldOf (s.get DAP_SBCTL_WORLD)) w addr ≠ true) :
    s.sysBus w addr n v = s.sbEnd 7 .denied := by
  unfold State.sysBus
  simp only [hl, Bool.eq_false_iff.mpr hb, Bool.not_true, Bool.not_false, Bool.false_eq_true, if_false, if_true]

section
variable (hl : s.agentLive s.sbAgent = true) (hb : s.sbAllowed (worldOf (s.get DAP_SBCTL_WORLD)) w addr = true)
include hl hb

/-- Outside the windows a permitted access needs alignment, then goes to memory. -/
theorem State.sysBus_memory (hw : s.isWindow addr = false) : s.sysBus w addr n v =
    if addr % n != 0 then { s with dbgm := { s.dbgm with sberror := 3 } } else s.sbMemory (worldOf (s.get DAP_SBCTL_WORLD)) w addr n v := by
  unfold State.sysBus
  simp only [hl, hb, hw, Bool.not_true, Bool.false_eq_true, if_false]

theorem State.sysBus_window (hw : s.isWindow addr = true) (hr : w = true)
    (hj : s.winJudge s.sbAgent (s.agentSlice s.sbAgent) true addr n = .ok) :
    s.sysBus w addr n v = (s.winWrite s.sbAgent (s.agentSlice s.sbAgent) addr n v).sbEnd 0 .ok := by
  subst hr
  rw [← State.busWrite_dap hl hb hj]
  unfold State.sysBus
  simp only [hl, hb, hw, Bool.not_true, Bool.false_eq_true, if_false, if_true]

end

variable {x o : Nat} (hr : s.region addr = .scratch x o)
include hr

theorem State.sbMemory_write (d : World) (hp : s.physVerdict d none .write addr = .ok) :
    s.sbMemory d true addr n v = (s.memWrite (s.memReq (.dap d)) addr n v).sbEnd 0 .ok := by
  unfold State.sbMemory
  simp only [hp, if_true, State.windowAbsent_scratch hr, Bool.false_eq_true, if_false]

theorem State.sbMemory_read (d : World) (hp : s.physVerdict d none .read addr = .ok) (hq : s.sramPoisoned (addr / 64) = false) :
    s.sbMemory d false addr n v = (s.sbData (s.bytesAt addr n)).sbEnd 0 .ok := by
  unfold State.sbMemory
  simp only [hp, Bool.false_eq_true, if_false, State.windowAbsent_scratch hr, State.memRead_scratch s _ n hr, hq]

end

/-! ### DMA (R306 to R308) -/

theorem exec_dmaRequest (dev : DevId) (pasid : Option (BitVec 20)) (w : Bool) (iova : Word) (size : Nat) (data : List Byte) (s : State) :
    exec (.dmaRequest dev pasid w iova size data) s =
      .next (s.dmaRequest dev.toNat (pasid.map (fun p => p.toNat)) w iova.toNat (if w then data.length else size) data) := rfl

theorem State.dmaRequest_noBlock {s : State} {dev : Nat} (p : Option Nat) (w : Bool) (iova n : Nat) (bs : List Byte) (hb : dmaBlock dev = none) :
    s.dmaRequest dev p w iova n bs = s := by
  unfold State.dmaRequest
  rw [hb]

theorem State.dmaRequest_stopped {s : State} {dev d b : Nat} (p : Option Nat) (w : Bool) (iova n : Nat) (bs : List Byte)
    (hb : dmaBlock dev = some (d, b)) (hr : s.runs d b = false) : s.dmaRequest dev p w iova n bs = s := by
  unfold State.dmaRequest
  simp only [hb, hr, Bool.not_false, Bool.true_or, if_true]

theorem State.dmaAll_zero (s : State) (w : World) (src : Nat) (r : DmaReq) (fuel iova : Nat) (bs : List Byte) :
    s.dmaAll w src r fuel iova 0 bs = s := by
  cases fuel <;> rfl

/-- A write that ends within its line, once translated to the scratch window, is one write of memory. -/
theorem State.dmaRequest_write {s : State} {dev d b iova pa x o : Nat} (p : Option Nat) {bs : List Byte} (hb : dmaBlock dev = some (d, b))
    (hr : s.runs d b = true) (hd : d ≠ HST) (h0 : 0 < bs.length) (hn : bs.length ≤ 64 - iova % 64)
    (ha : s.dmaAddr (s.owner d b) (srcId d b) ⟨dev, none, true, iova⟩ = (s, .ok pa)) (hg : s.region pa = .scratch x o) :
    ∃ q, s.dmaRequest dev p true iova bs.length bs = s.memWrite q pa bs.length (leNat bs) := by
  refine ⟨s.memReq (.device (BitVec.ofNat 16 (srcId d b)) (s.owner d b)), ?_⟩
  have hk : chunk iova bs.length = bs.length := Nat.min_eq_left hn
  have hz : (bs.length == 0) = false := by simpa using List.length_pos_iff.mp h0
  have hp : ∀ k v, s.dmaPiece (s.owner d b) (srcId d b) ⟨dev, none, true, iova⟩ pa k v =
      (s.memWrite (s.memReq (.device (BitVec.ofNat 16 (srcId d b)) (s.owner d b))) pa k v, true) := fun k v => by
    unfold State.dmaPiece
    simp only [State.isWindow_scratch hg, State.windowAbsent_scratch hg, Bool.false_eq_true, if_false, if_true]
  unfold State.dmaRequest
  simp only [hb, hr, beq_eq_false_iff_ne.mpr hd, Bool.false_and, Bool.not_true, Bool.or_self, Bool.false_eq_true, if_false, if_true]
  rw [State.dmaAll]
  simp only [hz, Bool.false_eq_true, if_false, ha, hp, hk, List.take_length, Nat.sub_self, State.dmaAll_zero]

/-! ### Inbound PCIe (R33) -/

/-- What the staging window takes: a write of completion queue entries while the link, the fence and the owners permit it. -/
def State.pcieTakes (s : State) (w : Bool) (lo n : Nat) : Prop :=
  s.pcieLink = true ∧ s.fenceOpen HST = true ∧ s.owner HST 0 = s.owner HST 2 ∧ w = true ∧ Config.ldgCqAddr ≤ lo ∧ lo + n ≤ Config.ldgCqAddr + 256

theorem exec_pcieInboundRequest (w : Bool) (off : BitVec 20) (size : Nat) (data : List Byte) (s : State) :
    exec (.pcieInboundRequest w off size data) s = .next (s.pcieInbound w off.toNat data) := rfl

theorem State.pcieInbound_takes {s : State} {w : Bool} {off : Nat} {bs : List Byte} (h : s.pcieTakes w (0x38000000 + off) bs.length) :
    s.pcieInbound w off bs = s.putBytes (0x38000000 + off) bs := by
  obtain ⟨h1, h2, h3, h4, h5, h6⟩ := h
  unfold State.pcieInbound
  simp only [h1, h2, h3, h4, h5, h6, beq_self_eq_true, decide_true, Bool.and_self, if_true]

theorem State.pcieInbound_refused {s : State} {w : Bool} {off : Nat} {bs : List Byte} (h : ¬ s.pcieTakes w (0x38000000 + off) bs.length) :
    s.pcieInbound w off bs = s := by
  unfold State.pcieInbound
  refine if_neg fun hc => h ?_
  simp only [Bool.and_eq_true, beq_iff_eq, decide_eq_true_eq] at hc
  obtain ⟨⟨⟨⟨⟨h1, h2⟩, h3⟩, h4⟩, h5⟩, h6⟩ := hc
  exact ⟨h1, h2, h3, h4, h5, h6⟩

/-! ### Accesses of another module (R36) -/

theorem exec_cascadeRemoteServe (k : ModId) (w : Bool) (addr : PAddr) (size : AccSize) (data : Word) (s : State) :
    exec (.cascadeRemoteServe k w addr size data) s =
      .next (if s.cscPresent k.val then s.remoteServe w addr.toNat size.bytes data.toNat else s) := rfl

theorem State.remoteServe_refused {s : State} {w : Bool} {addr n v : Nat} (h : s.cscOn = false ∨ s.serves addr = false ∨ addr % n ≠ 0) :
    s.remoteServe w addr n v = s := by
  unfold State.remoteServe
  refine if_pos ?_
  rcases h with h | h | h <;> simp [h]

theorem State.remoteServe_dram {s : State} {addr n v : Nat} (hc : s.cscOn = true) (hs : s.serves addr = true) (ha : addr % n = 0)
    (hr : s.region addr = .dram) : s.remoteServe true addr n v =
      s.dramWrite (s.memReq remoteAgent) (addr / 64) (lineMask addr n) (v % 2 ^ (8 * n) * 2 ^ (8 * (addr % 64))) false := by
  unfold State.remoteServe State.remoteDram
  simp only [hc, hs, ha, hr, Bool.not_true, Bool.or_self, bne_self_eq_false, Bool.false_eq_true, if_false, if_true]

/-- An aligned access of a register's size stays within its line. -/
theorem accSize_within_line (z : AccSize) {a : Nat} (h : a % z.bytes = 0) : a % 64 + z.bytes ≤ 64 ∧ z.bytes < 64 := by
  cases z <;> simp only [AccSize.bytes] at h ⊢ <;> omega

/-! ### Cascade windows (R36, R532) -/

section
variable {s : State} {h : Hart} {va : Word} {addr : PAddr} {w : Bool} {rd : RegIdx} {data : Word} {ans : RemoteAnswer} {m o : Nat}

/-- On a ready hart the access is this module's check and what follows it. -/
theorem exec_cascadeWindowAccess (hr : s.region addr.toNat = .cascade m o) (hh : s.Ready h.val) (he : s.epochMode (clusterOf h.val) = false)
    (hq : (s.remoteAccess (.hart h) va.toNat addr.toNat w rd.val ans).Quiet h.val) :
    exec (.cascadeWindowAccess (.hart h) va addr w rd data ans) s = .next (s.remoteAccess (.hart h) va.toNat addr.toNat w rd.val ans) := by
  have hc : s.asCommitPoint h.val (fun t => t.remoteAccess (.hart h) va.toNat addr.toNat w rd.val ans) =
      s.remoteAccess (.hart h) va.toNat addr.toNat w rd.val ans := by
    unfold State.asCommitPoint
    simp only [he, Bool.and_false, Bool.false_eq_true, if_false]
  have hi := hh.instr (f := fun t => t.asCommitPoint h.val (fun t => t.remoteAccess (.hart h) va.toNat addr.toNat w rd.val ans))
    (by simpa only [hc] using hq)
  rw [hc] at hi
  show Host.Outcome.next _ = _
  rw [hr]
  exact congrArg _ hi

theorem State.windowAbsent_cascade (hr : s.region addr.toNat = .cascade m o) : s.windowAbsent addr.toNat = !s.cscPresent m := by
  unfold State.windowAbsent
  rw [hr]

theorem State.remoteAccess_hart (hr : s.region addr.toNat = .cascade m o)
    (hp : s.physVerdict (s.hartWorld h.val) (s.hartSag h.val) (if w then .write else .read) addr.toNat = .ok) :
    s.remoteAccess (.hart h) va.toNat addr.toNat w rd.val ans =
      if s.cscPresent m then s.remoteEnd h.val va.toNat addr.toNat w rd.val ans else s.accessFault h.val w va.toNat := by
  unfold State.remoteAccess
  simp only [State.agentWorld, hp, State.windowAbsent_cascade hr]
  cases s.cscPresent m <;> rfl

theorem State.Quiet.accessFault (q : s.Quiet h.val) (w : Bool) (va : Nat) : (s.accessFault h.val w va).Quiet h.val := q.trap ..

/-- The record of a remote module's refusal, where it makes one. -/
theorem State.remoteRefused_log (q : MemReq) (a : Nat) (st : Status) : LogOnly s (if st == .denied then s.remoteDenied q a else s) := by
  split
  · exact .sherd ..
  · exact .refl s

theorem LogOnly.quiet {t : State} {k : Nat} (l : LogOnly s t) (q : s.Quiet k) : t.Quiet k :=
  q.congr (by rw [l.rest]) fun a _ => State.csr_congr (by rw [State.hart, State.hart, l.cpu]) a

section
variable (hr : s.region addr.toNat = .cascade m o) (hh : s.Ready h.val) (he : s.epochMode (clusterOf h.val) = false)
  (hp : s.physVerdict (s.hartWorld h.val) (s.hartSag h.val) (if w then .write else .read) addr.toNat = .ok)
include hr hh he hp

theorem cascadeWindow_absent (hc : s.cscPresent m = false) : Completes (.cascadeWindowAccess (.hart h) va addr w rd data ans) s fun t =>
    s.Took t h.val false (if w then 7 else 5) va.toNat ∧ t.mem = s.mem := by
  have e : s.remoteAccess (.hart h) va.toNat addr.toNat w rd.val ans = s.accessFault h.val w va.toNat := by
    rw [State.remoteAccess_hart hr hp, hc]; rfl
  refine .of (exec_cascadeWindowAccess hr hh he ?_) ?_
  · rw [e]; exact hh.toQuiet.accessFault ..
  · rw [e]; exact ⟨s.accessFault_took .., s.mem_accessFault ..⟩

theorem cascadeWindow_refused {st : Status} (hc : s.cscPresent m = true) :
    Completes (.cascadeWindowAccess (.hart h) va addr w rd data (.refused st)) s fun t =>
      s.Took t h.val false (if w then 7 else 5) va.toNat ∧ t.mem.bytes = s.mem.bytes := by
  have hl := State.remoteRefused_log (s := s) (s.hartReq h.val) addr.toNat st
  have e : s.remoteAccess (.hart h) va.toNat addr.toNat w rd.val (.refused st) =
      (if st == .denied then s.remoteDenied (s.hartReq h.val) addr.toNat else s).accessFault h.val w va.toNat := by
    rw [State.remoteAccess_hart hr hp, hc]; rfl
  refine .of (exec_cascadeWindowAccess hr hh he ?_) ?_
  · rw [e]; exact (hl.quiet hh.toQuiet).accessFault ..
  · rw [e]; exact ⟨(State.accessFault_took ..).ofLog hl, by rw [State.mem_accessFault, hl.mem_bytes]⟩

theorem cascadeWindow_data {v : Word} (hc : s.cscPresent m = true) :
    Completes (.cascadeWindowAccess (.hart h) va addr w rd data (.data v)) s fun t =>
      s.Went t h.val ((s.hart h.val).pc + 4) (if w then [] else [rd.val]) ∧ t.mem = s.mem ∧
        (w = false → rd.val ≠ 0 → t.xreg h.val rd.val = v.toNat % 2 ^ hartXlen h.val) := by
  have e : s.remoteAccess (.hart h) va.toNat addr.toNat w rd.val (.data v) =
      if w then s.retire h.val else (s.setX h.val rd.val v.toNat).retire h.val := by
    rw [State.remoteAccess_hart hr hp, hc]; rfl
  cases w with
  | true =>
    refine .of (exec_cascadeWindowAccess hr hh he ?_) ?_
    · rw [e]; exact hh.toQuiet.retire
    · rw [e]; exact ⟨State.went_retire rfl rfl rfl rfl fun _ _ => rfl, s.mem_retire _, by simp⟩
  | false =>
    refine .of (exec_cascadeWindowAccess hr hh he ?_) ?_
    · rw [e]; exact (hh.toQuiet.setX ..).retire
    · rw [e]
      have hx := s.hart_setX h.val rd.val v.toNat
      refine ⟨State.went_retire (by rw [hx]) (by rw [hx]) (by rw [hx]) (by rw [hx]) fun r hn => ?_, ?_, fun _ h0 => ?_⟩
      · exact State.xreg_setX_ne _ _ _ (by simpa using hn)
      · exact (State.mem_retire _ _).trans (State.mem_setX ..)
      · exact (State.xreg_retire ..).trans ((State.xreg_setX ..).trans (if_neg h0))

end

end

/-! ### The clauses of O50 that name what memory holds -/

theorem systemBus_scratch_write {s : State} {addr : PAddr} {size : AccSize} (data : Word) {x o : Nat} (hl : s.agentLive s.sbAgent = true)
    (hb : s.sbAllowed (worldOf (s.get DAP_SBCTL_WORLD)) true addr.toNat = true) (hr : s.region addr.toNat = .scratch x o)
    (ha : addr.toNat % size.bytes = 0) (hp : s.physVerdict (worldOf (s.get DAP_SBCTL_WORLD)) none .write addr.toNat = .ok) :
    Completes (.systemBusAccess true addr size data) s fun t =>
      s.Stored t addr.toNat data.toNat size.bytes ∧ t.dbgm.sberror = 0 := by
  refine .of (exec_systemBusAccess ..) ?_
  rw [State.sysBus_memory hl hb (State.isWindow_scratch hr), if_neg (by simp [ha]), State.sbMemory_write hr _ hp]
  exact ⟨(State.stored_memWrite_scratch _ _ _ _ hr).congr (by rw [State.mem_sbEnd]), by rw [State.dbgm_sbEnd]⟩

theorem systemBus_scratch_read {s : State} {addr : PAddr} {size : AccSize} (data : Word) {x o : Nat} (hl : s.agentLive s.sbAgent = true)
    (hb : s.sbAllowed (worldOf (s.get DAP_SBCTL_WORLD)) false addr.toNat = true) (hr : s.region addr.toNat = .scratch x o)
    (ha : addr.toNat % size.bytes = 0) (hp : s.physVerdict (worldOf (s.get DAP_SBCTL_WORLD)) none .read addr.toNat = .ok)
    (hq : s.sramPoisoned (addr.toNat / 64) = false) :
    Completes (.systemBusAccess false addr size data) s fun t =>
      t.dbgm.sbdata = s.bytesAt addr.toNat size.bytes ∧ t.dbgm.sberror = 0 ∧ t.mem = s.mem := by
  refine .of (exec_systemBusAccess ..) ?_
  rw [State.sysBus_memory hl hb (State.isWindow_scratch hr), if_neg (by simp [ha]), State.sbMemory_read hr _ hp hq]
  exact ⟨rfl, rfl, rfl⟩

theorem cascadeServe_dram {s : State} {k : ModId} {addr : PAddr} {size : AccSize} (data : Word) (hk : s.cscPresent k.val = true)
    (hc : s.cscOn = true) (hs : s.serves addr.toNat = true) (hr : s.region addr.toNat = .dram) (ha : addr.toNat % size.bytes = 0)
    (hy : s.synd (addr.toNat / 64) = 0) (hw : s.wedgeWaits (addr.toNat / 64) = false) (hi : s.on DMC_INJ_ARM = false) :
    Completes (.cascadeRemoteServe k true addr size data) s fun t => s.Stored t addr.toNat data.toNat size.bytes := by
  obtain ⟨hn, hp⟩ := accSize_within_line size ha
  refine .of (exec_cascadeRemoteServe ..) ?_
  rw [hk, if_pos rfl, State.remoteServe_dram hc hs ha hr]
  exact State.stored_dramWrite _ _ hn hp hy hw hi

/-- Settles O50, clause by clause in the order of the statement: a write past the caches stores its bytes (`State.Stored`), and an access
of a hart that is malformed, refused or unanswered ends in its trap (`State.accessFault_took`). -/
theorem busAccessesComplete : Obligations.BusAccessesComplete := by
  refine ⟨?registers, ?halves, ?systemBus, ?dma, ?pcie, ?serve, ?windows⟩
  case registers =>
    intro a addr n data s
    refine ⟨registerWrite_outside, fun hw hl hd => ⟨fun hj => ⟨registerWrite_ok hw hl hd hj, ?_⟩, ?_, ?_⟩⟩
    · rintro ha rfl
      exact registerWrite_aotAlarm hw hl hd hj ha
    · rintro h rfl hj
      exact registerWrite_bad hw hl hj
    · rintro h st rfl hj
      exact registerWrite_refuse hw hl hj
  case halves =>
    intro a addr data s hl hd ha hj
    exact halfWriteStage_staged data hl hd (startsHigh_of_mem ha) hj
  case systemBus =>
    intro w addr size data s
    refine ⟨fun hl => ?_, fun hl hb => ?_, fun hl hb hw ha => ?_, fun hl hb hw hr hj => ?_, fun x o hl hb hr ha hp => ⟨?_, ?_⟩⟩
    · exact .of (exec_systemBusAccess ..) (State.sysBus_dead hl)
    · exact .of (exec_systemBusAccess ..) (State.sysBus_denied hl hb)
    · exact .of (exec_systemBusAccess ..) ((State.sysBus_memory hl hb hw).trans (if_pos (by simpa using ha)))
    · exact .of (exec_systemBusAccess ..) (State.sysBus_window hl hb hw hr hj)
    · rintro rfl
      obtain ⟨t, ht, hst, he⟩ := systemBus_scratch_write data hl hb hr ha hp
      exact ⟨t, ht, hst.bytesAt, hst.outside, he⟩
    · rintro rfl hq
      exact systemBus_scratch_read data hl hb hr ha hp hq
  case dma =>
    intro dev pasid w iova size data s
    refine ⟨fun hb => ?_, fun d b hb hr => ?_, fun d b pa x o hb hr hd h0 hn ha hg => ?_⟩
    · exact .of (exec_dmaRequest ..) (State.dmaRequest_noBlock _ _ _ _ _ hb)
    · exact .of (exec_dmaRequest ..) (State.dmaRequest_stopped _ _ _ _ _ hb hr)
    · obtain ⟨q, hq⟩ := State.dmaRequest_write (pasid.map (fun p => p.toNat)) hb hr hd h0 hn ha hg
      have hst := s.stored_memWrite_scratch q (leNat data) data.length hg
      refine .of (exec_dmaRequest ..) ?_
      rw [if_pos rfl, hq]
      exact ⟨hst.bytesAt.trans (Nat.mod_eq_of_lt (leNat_lt data)), hst.outside⟩
  case pcie =>
    intro w off size data s
    refine ⟨fun ht => ?_, fun ht => ?_⟩
    · refine .of (exec_pcieInboundRequest ..) ?_
      rw [State.pcieInbound_takes ht]
      refine ⟨rfl, fun k hk => ?_, fun i hi => ?_⟩
      · exact (s.byteAt_putBytes _ data k).trans (if_neg (by omega))
      · rw [State.byteAt_putBytes, if_pos (by omega), Nat.add_sub_cancel_left]
    · exact .of (exec_pcieInboundRequest ..) (State.pcieInbound_refused ht)
  case serve =>
    intro k w addr size data s
    refine ⟨fun hn => ?_, fun hk hc hs hr ha hw hy hg hi => ?_⟩
    · refine .of (exec_cascadeRemoteServe ..) ?_
      rcases hn with hk | hn
      · exact if_neg (by simp [hk])
      · rw [State.remoteServe_refused hn, ite_self]
    · subst hw
      obtain ⟨t, ht, hst⟩ := cascadeServe_dram data hk hc hs hr ha hy hg hi
      exact ⟨t, ht, hst.bytesAt, hst.outside⟩
  case windows =>
    intro h va addr w rd data ans s m o hr hh he hp
    refine ⟨cascadeWindow_absent hr hh he hp, fun hc => ⟨?_, ?_⟩⟩
    · rintro v rfl
      exact cascadeWindow_data hr hh he hp hc
    · rintro st rfl
      exact cascadeWindow_refused hr hh he hp hc

end Sys2Proof.Machine
end

section
/-! Interrupts and where they go (R299, R311, R313 to R316, R319, R320): delivery to interrupt files and local lines, the wake-up it
brings, claims, and the world of a core's lower files. -/

namespace Sys2Proof.Machine

open Sys2Proof

/-! ### Bits of pending arrays -/

theorem bitAt_eq_testBit (x i : Nat) : bitAt x i = x.testBit i := by
  rw [Nat.testBit_eq_decide_div_mod_eq]
  rfl

/-- A bit set in a field below its width (R13). -/
theorem bitAt_lor_two_pow {i w : Nat} (x : Nat) (hi : i < w) : bitAt (Nat.lor x (2 ^ i) % 2 ^ w) i = true := by
  change bitAt ((x ||| 2 ^ i) % 2 ^ w) i = true
  rw [bitAt_eq_testBit, Nat.testBit_mod_two_pow, Nat.testBit_or, Nat.testBit_two_pow_self, Bool.or_true, Bool.and_true]
  exact decide_eq_true hi

/-- A bit cleared in a field: `State.clear` sets it first, so taking its weight away clears it alone. -/
theorem bitAt_lor_sub_two_pow (x i w : Nat) : bitAt ((Nat.lor x (2 ^ i) - 2 ^ i) % 2 ^ w) i = false := by
  change bitAt (((x ||| 2 ^ i) - 2 ^ i) % 2 ^ w) i = false
  have hset : (2 ^ i + ((x ||| 2 ^ i) - 2 ^ i)).testBit i = true := by
    rw [Nat.add_sub_cancel' Nat.right_le_or, Nat.testBit_or, Nat.testBit_two_pow_self, Bool.or_true]
  rw [Nat.testBit_two_pow_add_eq, Bool.not_eq_true'] at hset
  rw [bitAt_eq_testBit, Nat.testBit_mod_two_pow, hset, Bool.and_false]

/-! ### The wake-up of a hart (R474) -/

/-- From `s` to `t` hart `h` may have left its wait; nothing else changed but the power state `PWR_S_CORE` shows of it. -/
structure Woken (h : Nat) (s t : State) : Prop where
  rest : t = { s with regs := t.regs, cpu := { s.cpu with harts := t.cpu.harts } }
  reg : ∀ k, k ≠ PWR_S_CORE h → t.rd k = s.rd k

theorem State.irqWake_woken (s : State) (h : Nat) : Woken h s (s.irqWake h) := by
  unfold State.irqWake
  split
  · unfold State.when
    dsimp only
    split
    · exact ⟨rfl, fun k hk => State.rd_put_ne _ _ hk⟩
    · exact ⟨rfl, fun _ _ => rfl⟩
  · exact ⟨rfl, fun _ _ => rfl⟩

theorem Woken.get {h : Nat} {s t : State} (w : Woken h s t) {f : Fld} (hf : f.reg ≠ PWR_S_CORE h) : t.get f = s.get f := by
  unfold State.get
  rw [w.reg _ hf]

/-- A hart that waits goes on where it stands once an interrupt it enables is pending. -/
theorem State.hart_irqWake {s : State} {h : Nat} (hw : (s.hart h).wfi = true) (hi : s.irqWaiting h = true) :
    ((s.irqWake h).hart h).wfi = false ∧ ((s.irqWake h).hart h).pc = (s.hart h).pc := by
  unfold State.irqWake State.when
  dsimp only
  rw [hw, hi, Bool.and_self, if_pos rfl]
  split
  · simp only [State.hart_put, State.hart_updHart_self, and_self]
  · simp only [State.hart_updHart_self, and_self]

/-! ### Interrupt files -/

/-- Pairs stay fused, or not, while their status registers stay. -/
theorem State.l2Of_congr {s t : State} {c : Nat} (h : t.rd (LKS_STATUS (c / 2)) = s.rd (LKS_STATUS (c / 2))) : t.l2Of c = s.l2Of c := by
  have hf : t.fused c = s.fused c := by
    unfold State.fused State.on State.get
    rw [show (LKS_STATUS_FUSED (c / 2)).reg = LKS_STATUS (c / 2) from rfl, h]
  unfold State.l2Of
  rw [hf]

/-- A file depends on the table of files and on which pairs are fused. -/
theorem State.imsic_congr {s t : State} {c : Nat} (hi : t.cpu.imsic = s.cpu.imsic)
    (h : t.rd (LKS_STATUS (c / 2)) = s.rd (LKS_STATUS (c / 2))) (f : Nat) : t.imsic c f = s.imsic c f := by
  unfold State.imsic State.imsicKey
  rw [hi, State.l2Of_congr h]

theorem State.imsic_setImsic (s : State) (h f g : Nat) (v : ImsicFile) :
    (s.setImsic h f v).imsic h g = if g = f then v else s.imsic h g := by
  refine (tabGet_tabSet _ _ _ _ _).trans ?_
  have hk : (s.setImsic h f v).imsicKey h g = s.imsicKey h f ↔ g = f := by
    change 8 * s.l2Of h + g = 8 * s.l2Of h + f ↔ g = f
    omega
  by_cases hg : g = f
  · rw [if_pos (hk.mpr hg), if_pos hg]
  · rw [if_neg (mt hk.mp hg), if_neg hg]
    rfl

/-- The note of an arrival is the epoch's alone (R454). -/
theorem State.noteArrival_frame (s : State) (h f e : Nat) : (s.noteArrival h f e).cpu = s.cpu ∧ (s.noteArrival h f e).regs = s.regs := by
  unfold State.noteArrival
  dsimp only
  split <;> exact ⟨rfl, rfl⟩

/-! ### Delivery of an identity (R314 to R316) -/

/-- Identity `e` becomes pending in file `f` of hart `h`. -/
def State.fileArrive (s : State) (h f e : Nat) : State :=
  ((s.setImsic h f { s.imsic h f with eip := putBits (s.imsic h f).eip e 1 1 }).noteArrival h f e).irqWake h

/-- Line `e` becomes pending at local controller `n`. -/
def State.lineArrive (s : State) (n e : Nat) : State := (s.raise (licPend n) (2 ^ (e - 1))).irqWake (8 + n)

/-- All that a delivery can do: leave a record or nothing, or set the bit of a file or of a local line. -/
theorem State.msiTo_cases (s : State) (w : World) (src h f e : Nat) :
    LogOnly s (s.msiTo w src h f e).1 ∨ (s.msiTo w src h f e).1 = s.fileArrive h f e ∨
      ∃ n, h = 8 + n ∧ (s.msiTo w src h f e).1 = s.lineArrive n e := by
  unfold State.msiTo
  split
  case isTrue =>
    split
    · exact .inl (.sherd ..)
    split
    · exact .inl (.sherd ..)
    split
    · exact .inl (.refl s)
    · exact .inr (.inl rfl)
  case isFalse h8 =>
    split
    case isTrue =>
      dsimp only
      generalize (if h - 8 < 4 then TKD else SEC) = d
      split
      · exact .inl (.sherd ..)
      split
      · exact .inl (.sherd ..)
      split
      · exact .inl (.sherd ..)
      split
      · exact .inl (.refl s)
      · have e8 : h = 8 + (h - 8) := by omega
        exact .inr (.inr ⟨h - 8, e8, by rw [State.lineArrive, ← e8]⟩)
    case isFalse => exact .inl (.sherd ..)

section
variable {s : State} {w : World} {src h f e n : Nat}

/-- A file takes an identity it has from a sender of its own world, while the fence of the cores is open. -/
theorem State.msiTo_file (hh : h < 8) (hf : f < 7) (hw : s.fileWorld h f = w) (ho : s.fenceOpen APC = true) (h0 : 0 < e) (h1 : e < 2048) :
    (s.msiTo w src h f e).1 = s.fileArrive h f e := by
  have hr : (e == 0 || decide (2048 ≤ e) || decide (7 ≤ f)) = false := by
    simp only [Bool.or_eq_false_iff, beq_eq_false_iff_ne, decide_eq_false_iff_not]
    omega
  unfold State.msiTo
  simp only [hh, hw, ho, hr, bne_self_eq_false, Bool.not_true, Bool.false_eq_true, if_true, if_false]
  rfl

/-- A sender of the other world leaves its record, whatever it sends. -/
theorem State.msiTo_foreign (hh : h < 8) (hw : s.fileWorld h f ≠ w) : LogOnly s (s.msiTo w src h f e).1 := by
  unfold State.msiTo
  rw [if_pos hh, if_pos (bne_iff_ne.mpr hw)]
  exact .sherd ..

/-- A local controller takes a line it has from a sender of its own world, while the fence of its domain is open. -/
theorem State.msiTo_line (hn : n < 5) (hw : s.licWorld n = w) (ho : s.fenceOpen (if n < 4 then TKD else SEC) = true) (h0 : 0 < e)
    (h1 : e < 64) : (s.msiTo w src (8 + n) f e).1 = s.lineArrive n e := by
  have hr : ¬ 8 + n < 8 ∧ 8 + n < 13 ∧ ¬ 64 ≤ e := by omega
  have he : (e == 0) = false := beq_eq_false_iff_ne.mpr (by omega)
  unfold State.msiTo
  simp only [hr, hw, ho, he, Nat.add_sub_cancel_left, bne_self_eq_false, Bool.not_true, Bool.false_eq_true, if_true, if_false]
  rfl

/-- A file that is written stays so through the note of the arrival and the wake-up. -/
theorem State.imsic_arrive (s : State) (hh : h < 8) (f e : Nat) (v : ImsicFile) :
    (((s.setImsic h f v).noteArrival h f e).irqWake h).imsic h f = v := by
  obtain ⟨hc, hr⟩ := (s.setImsic h f v).noteArrival_frame h f e
  have hw := ((s.setImsic h f v).noteArrival h f e).irqWake_woken h
  calc (((s.setImsic h f v).noteArrival h f e).irqWake h).imsic h f
      _ = ((s.setImsic h f v).noteArrival h f e).imsic h f :=
        State.imsic_congr (by rw [hw.rest]) (hw.reg _ (by simp only [LKS_STATUS, PWR_S_CORE]; omega)) f
      _ = (s.setImsic h f v).imsic h f := State.imsic_congr (by rw [hc]) (by rw [State.rd, hr, State.rd]) f
      _ = v := by rw [State.imsic_setImsic, if_pos rfl]

/-- The identity is pending afterwards, and the rest of the file is as before. -/
theorem State.imsic_fileArrive (s : State) (hh : h < 8) (f e : Nat) :
    (s.fileArrive h f e).imsic h f = { s.imsic h f with eip := putBits (s.imsic h f).eip e 1 1 } := s.imsic_arrive hh f e _

/-- The pending fields of the local controllers: 63 bits of a register that is neither a core's power register nor the debug module's. -/
theorem licPend_place (hn : n < 5) : (licPend n).lo = 1 ∧ (licPend n).w = 63 ∧ (licPend n).reg ≠ PWR_S_CORE (8 + n) ∧
    (licPend n).reg ≠ DAP_STATUS := by
  unfold licPend
  split <;> simp only [TKC_IPEND_PEND, TKC_IPEND, WDN_IPEND_PEND, WDN_IPEND, PWR_S_CORE, DAP_STATUS, true_and] <;> omega

theorem licPend_fits (hn : n < 5) : (licPend n).fits := by
  obtain ⟨hlo, hw, -, -⟩ := licPend_place hn
  rw [Fld.fits, hlo, hw]

/-- The line is pending afterwards. -/
theorem State.bitAt_lineArrive (s : State) (hn : n < 5) (h0 : 0 < e) (h1 : e < 64) :
    bitAt ((s.lineArrive n e).get (licPend n)) (e - 1) = true := by
  obtain ⟨-, hw, hp, -⟩ := licPend_place hn
  rw [State.lineArrive, (State.irqWake_woken _ _).get hp, State.raise, State.get_put_self _ _ (licPend_fits hn), hw]
  exact bitAt_lor_two_pow _ (by omega)

/-- No delivery touches the levels the APLIC sees. -/
theorem State.levels_msiTo (s : State) (w : World) (src h f e : Nat) : (s.msiTo w src h f e).1.cpu.levels = s.cpu.levels := by
  rcases s.msiTo_cases w src h f e with hl | hf | ⟨n, -, hn⟩
  · rw [hl.cpu]
  · rw [hf, State.fileArrive, (State.irqWake_woken _ _).rest]
    change ((s.setImsic h f _).noteArrival h f e).cpu.levels = _
    rw [(State.noteArrival_frame _ h f e).1]
    rfl
  · rw [hn, State.lineArrive, (State.irqWake_woken _ _).rest]
    rfl

end

/-! ### Messages to files (R37, R314, R315) -/

/-- The address of a file names that file, in the byte order of the message. -/
theorem msiTarget_imsicAddr {h f : Nat} (hh : h < 8) (hf : f < 7) : msiTarget (imsicAddr h f) = some (h, f, 0) := by
  unfold imsicAddr
  by_cases h0 : f = 0
  · have hin : within (0x43100000 + 0x1000 * h) 0x43100000 0x43108000 = true := by
      simp only [within, Bool.and_eq_true, decide_eq_true_eq]
      omega
    have hk : (0x43100000 + 0x1000 * h - 0x43100000) / 0x1000 = h ∧ (0x43100000 + 0x1000 * h) % 0x1000 = 0 := by omega
    rw [h0, if_pos (beq_self_eq_true 0), msiTarget, if_pos hin, hk.1, hk.2]
  · have hout : ¬ within (0x43200000 + 0x8000 * h + 0x1000 * (f - 1)) 0x43100000 0x43108000 = true := by
      simp only [within, Bool.and_eq_true, decide_eq_true_eq]
      omega
    have hin : within (0x43200000 + 0x8000 * h + 0x1000 * (f - 1)) 0x43200000 0x43240000 = true := by
      simp only [within, Bool.and_eq_true, decide_eq_true_eq]
      omega
    have hk : (0x43200000 + 0x8000 * h + 0x1000 * (f - 1) - 0x43200000) / 0x8000 = h ∧
        1 + (0x43200000 + 0x8000 * h + 0x1000 * (f - 1) - 0x43200000) % 0x8000 / 0x1000 = f ∧
        (0x43200000 + 0x8000 * h + 0x1000 * (f - 1)) % 0x1000 = 0 := by omega
    rw [if_neg (by simpa using h0), msiTarget, if_neg hout, if_pos hin, hk.1, hk.2.1, hk.2.2]

/-- A message to a file's address is a delivery to the file. -/
theorem State.msiWrite_imsicAddr (s : State) (w : World) (src v : Nat) {h f : Nat} (hh : h < 8) (hf : f < 7) :
    s.msiWrite w src (imsicAddr h f) v = (s.msiTo w src h f v).1 := by
  have hr : (decide (h < 8) && decide (7 ≤ f)) = false := by simp [hf]
  unfold State.msiWrite
  rw [msiTarget_imsicAddr hh hf]
  simp only [hr, beq_self_eq_true, Bool.false_eq_true, if_false, if_true]

theorem exec_msiWrite (w : World) (addr : PAddr) (data : BitVec 32) (s : State) :
    exec (.msiWrite w addr data) s = .next (s.msiWrite w 0xFFFF addr.toNat data.toNat) := rfl

section
variable {s : State} {w : World} {h : AppCore} {f : Fin 7} {addr : PAddr} {data : BitVec 32} (ha : addr.toNat = imsicAddr h.val f.val)
include ha

theorem msiWrite_pends (hw : s.fileWorld h.val f.val = w) (ho : s.fenceOpen APC = true) (h0 : 0 < data.toNat) (h1 : data.toNat < 2048) :
    Completes (.msiWrite w addr data) s fun t =>
      bitAt (t.imsic h.val f.val).eip data.toNat = true ∧ (t.imsic h.val f.val).eie = (s.imsic h.val f.val).eie := by
  refine .of (exec_msiWrite ..) ?_
  rw [ha, s.msiWrite_imsicAddr _ _ _ h.isLt f.isLt, State.msiTo_file h.isLt f.isLt hw ho h0 h1, s.imsic_fileArrive h.isLt]
  refine ⟨?_, rfl⟩
  rw [bitAt, bitsOf_putBits]
  rfl

theorem msiWrite_foreign (hw : s.fileWorld h.val f.val ≠ w) : Completes (.msiWrite w addr data) s fun t => t.cpu = s.cpu := by
  refine .of (exec_msiWrite ..) ?_
  rw [ha, s.msiWrite_imsicAddr _ _ _ h.isLt f.isLt]
  exact (State.msiTo_foreign h.isLt hw).cpu

end

/-! ### Wired sources (R311, R313) -/

/-- Forwarding a source is a delivery: it leaves the levels. -/
theorem State.levels_aplicForward (s : State) (d i : Nat) : (s.aplicForward d i).cpu.levels = s.cpu.levels := by
  unfold State.aplicForward
  dsimp only
  split
  · exact State.levels_msiTo ..
  · rfl

theorem State.levels_sourceChange {s : State} {i : Nat} (hi : sourceExists i = true) (ho : s.outOfReset APC = true) :
    (s.sourceChange i).cpu.levels = tabSet (fun _ => false) s.cpu.levels i (s.sourceLevel i) := by
  unfold State.sourceChange
  simp only [hi, ho, Bool.not_true, Bool.or_self, Bool.false_eq_true, if_false]
  rw [State.levels_aplicForward]
  split
  · rfl
  · split <;> rfl

theorem exec_aplicSourceChange (i : BitVec 7) (s : State) : exec (.aplicSourceChange i) s = .next (s.sourceChange i.toNat) := rfl

theorem aplicSourceChange_level {s : State} {i : BitVec 7} (hi : sourceExists i.toNat = true) (ho : s.outOfReset APC = true) :
    Completes (.aplicSourceChange i) s fun t => tabGet (fun _ => false) t.cpu.levels i.toNat = s.sourceLevel i.toNat := by
  refine .of (exec_aplicSourceChange ..) ?_
  rw [State.levels_sourceChange hi ho]
  exact tabGet_tabSet_self ..

/-! ### Local lines (R316) -/

theorem exec_localMsg (a : Agent) (n : Lic) (e : BitVec 32) (s : State) : exec (.localMsg a n e) s = .next (s.localMsg a n.val e.toNat) := rfl

theorem exec_localClaim (a : Agent) (n : Lic) (half : Half) (s : State) : exec (.localClaim a n half) s =
    .next (s.readCmd a (if n.val < 4 then TKC_CLAIM n.val else WDN_CLAIM) half (fun t => t.licClaim n.val)) := rfl

section
variable {s : State} {a : Agent} {n : Lic}

theorem localMsg_pends {e : BitVec 32} (hr : s.Reached a true (if n.val < 4 then TKC_MSG n.val else WDN_MSG) 4)
    (hw : s.licWorld n.val = s.agentWorld a) (ho : s.fenceOpen (if n.val < 4 then TKD else SEC) = true) (h0 : 0 < e.toNat) (h1 : e.toNat < 64) :
    Completes (.localMsg a n e) s fun t => bitAt (t.get (licPend n.val)) (e.toNat - 1) = true := by
  obtain ⟨-, -, -, hd⟩ := licPend_place n.isLt
  refine .of (exec_localMsg ..) ?_
  rw [State.localMsg, State.regAccess_reached _ hr, State.get_ended _ _ hd, State.msiTo_line n.isLt hw ho h0 h1]
  exact s.bitAt_lineArrive n.isLt h0 h1

theorem localClaim_clears (hr : s.Reached a false (if n.val < 4 then TKC_CLAIM n.val else WDN_CLAIM) 8) (hd : s.debugRead a = false)
    (ht : s.licTop n.val ≠ 0) :
    Completes (.localClaim a n .full) s fun t => bitAt (t.get (licPend n.val)) (s.licTop n.val - 1) = false ∧ t.cpu = s.cpu := by
  obtain ⟨-, hw, -, hp⟩ := licPend_place n.isLt
  have hc : (s.licClaim n.val).1 = s.clear (licPend n.val) (2 ^ (s.licTop n.val - 1)) := by
    unfold State.licClaim
    dsimp only
    rw [if_neg (by simpa using ht)]
  refine .of (exec_localClaim ..) ?_
  rw [State.readCmd_reached (reg := if n.val < 4 then TKC_CLAIM n.val else WDN_CLAIM) (half := .full) _ hr, hd,
    if_neg (by decide), State.readEffect, hc]
  refine ⟨?_, State.cpu_ended ..⟩
  rw [State.get_ended _ _ hp, State.clear, State.get_put_self _ _ (licPend_fits n.isLt), hw]
  exact bitAt_lor_sub_two_pow ..

end

/-! ### Timers (R320, R474) -/

theorem exec_mtimecmpMatch (h : AppCore) (s : State) :
    exec (.mtimecmpMatch h) s = .next (if s.timerDue h.val then s.irqWake h.val else s) := rfl

theorem exec_stimecmpMatch (h : AppCore) (guest : Bool) (s : State) :
    exec (.stimecmpMatch h guest) s = .next (if bitAt (s.mip h.val) (if guest then 6 else 5) then s.irqWake h.val else s) := rfl

/-! ### The world of a core's lower files (R299, R319) -/

/-- File `f` of core `c` as a change of its world leaves it. -/
def State.clearFile (s : State) (c f : Nat) : State := s.setImsic c f { s.imsic c f with eidelivery := 0, eip := 0, eie := 0 }

theorem State.imsic_clearFile (s : State) (c f g : Nat) : (s.clearFile c f).imsic c g =
    if g = f then { s.imsic c f with eidelivery := 0, eip := 0, eie := 0 } else s.imsic c g := State.imsic_setImsic ..

/-- A cleared file has nothing pending and nothing enabled. -/
def State.FileClear (s : State) (c f : Nat) : Prop := (s.imsic c f).eip = 0 ∧ (s.imsic c f).eie = 0

theorem State.FileClear.keep {s : State} {c f : Nat} (h : s.FileClear c f) (g : Nat) : (s.clearFile c g).FileClear c f := by
  unfold State.FileClear
  rw [State.imsic_clearFile]
  split
  · exact ⟨rfl, rfl⟩
  · exact h

theorem State.fileClear_each {c : Nat} (l : List Nat) (s : State) {f : Nat} (h : f ∈ l ∨ s.FileClear c f) :
    (s.each l (fun g v => v.clearFile c g)).FileClear c f := by
  induction l generalizing s with
  | nil => exact h.resolve_left (by simp)
  | cons g l ih =>
    refine ih _ ?_
    rcases h with h | h
    · rcases List.mem_cons.mp h with rfl | h
      · exact .inr (by unfold State.FileClear; rw [State.imsic_clearFile, if_pos rfl]; exact ⟨rfl, rfl⟩)
      · exact .inl h
    · exact .inr (h.keep g)

theorem State.worldWrite_refused {s : State} {c : Nat} (next : World) (hf : s.fused c = false) (hp : (s.hart c).priv ≠ .m)
    (hh : (s.hart c).halted = false) (ho : s.get (ACC_STATUS_POWER c) ≠ 0) :
    s.worldWrite c next = s.res (ACC_WORLD_RESULT c) .unavailable := by
  unfold State.worldWrite
  simp only [hf, hh, beq_eq_false_iff_ne.mpr hp, beq_eq_false_iff_ne.mpr ho, Bool.false_and, Bool.or_self, Bool.false_eq_true, if_false]

theorem State.worldWrite_taken {s : State} {c : Nat} (next : World) (hf : s.fused c = false)
    (hp : (s.hart c).priv = .m ∨ (s.hart c).halted = true ∨ s.get (ACC_STATUS_POWER c) = 0) :
    s.worldWrite c next = ((s.put (ACC_WORLD_NEXT c) (worldNum next)).res (ACC_WORLD_RESULT c) .ok).when
      (worldOf (s.get (ACC_WORLD_NEXT c)) != next) (State.each [1, 2, 3, 4, 5, 6] fun f v => v.clearFile c f) := by
  have hg : ((s.hart c).priv == .m || (s.hart c).halted || s.get (ACC_STATUS_POWER c) == 0) = true := by
    simpa only [Bool.or_eq_true, beq_iff_eq, or_assoc] using hp
  unfold State.worldWrite
  simp only [hf, hg, Bool.false_and, Bool.false_eq_true, if_false, if_true]
  rfl

/-- The files that clear leave the registers. -/
theorem State.regs_clearFiles (s : State) (c : Nat) (l : List Nat) : (s.each l (fun f v => v.clearFile c f)).regs = s.regs := by
  induction l generalizing s with
  | nil => rfl
  | cons f l ih => exact ih (s.clearFile c f)

/-- The two fields of `ACC_WORLD`, in a register of the cores' own blocks. -/
theorem accWorld_place (c : AppCore) : (ACC_WORLD_NEXT c.val).fits ∧ (ACC_WORLD_RESULT c.val).fits ∧
    (ACC_WORLD_NEXT c.val).apart (ACC_WORLD_RESULT c.val) ∧ ACC_WORLD c.val ≠ DAP_STATUS := by
  simp only [Fld.fits, Fld.apart, ACC_WORLD_NEXT, ACC_WORLD_RESULT, ACC_WORLD, DAP_STATUS]
  omega

/-- `NEXT` and `RESULT` as a permitted write leaves them. -/
theorem State.get_worldWrite_taken {s : State} {c : AppCore} (next : World) (hf : s.fused c.val = false)
    (hp : (s.hart c.val).priv = .m ∨ (s.hart c.val).halted = true ∨ s.get (ACC_STATUS_POWER c.val) = 0) :
    (s.worldWrite c.val next).get (ACC_WORLD_NEXT c.val) = worldNum next ∧ (s.worldWrite c.val next).get (ACC_WORLD_RESULT c.val) = st8 .ok := by
  obtain ⟨fn, fr, ha, -⟩ := accWorld_place c
  have hr : (s.worldWrite c.val next).regs = ((s.put (ACC_WORLD_NEXT c.val) (worldNum next)).res (ACC_WORLD_RESULT c.val) .ok).regs := by
    rw [State.worldWrite_taken next hf hp, State.when]
    split
    · exact State.regs_clearFiles ..
    · rfl
  have hg : ∀ f, (s.worldWrite c.val next).get f = ((s.put (ACC_WORLD_NEXT c.val) (worldNum next)).res (ACC_WORLD_RESULT c.val) .ok).get f := by
    intro f
    rw [State.get, State.rd, hr, State.get, State.rd]
  refine ⟨?_, ?_⟩
  · rw [hg, State.res, State.get_put_apart _ _ fr ha, State.get_put_self _ _ fn]
    cases next <;> rfl
  · rw [hg, State.get_res_self _ _ fr]
    rfl

theorem exec_accWorldWrite (a : Agent) (c : AppCore) (next : World) (s : State) :
    exec (.accWorldWrite a c next) s = .next (s.regAccess a true (ACC_WORLD c.val) 4 (fun t => t.worldWrite c.val next)) := rfl

section
variable {s : State} {a : Agent} {c : AppCore} (next : World) (hr : s.Reached a true (ACC_WORLD c.val) 4) (hf : s.fused c.val = false)
include hr hf

theorem accWorldWrite_taken
    (hp : (s.hart c.val).priv = .m ∨ (s.hart c.val).halted = true ∨ s.get (ACC_STATUS_POWER c.val) = 0) :
    Completes (.accWorldWrite a c next) s fun t =>
      t.get (ACC_WORLD_NEXT c.val) = worldNum next ∧ t.get (ACC_WORLD_RESULT c.val) = st8 .ok ∧
      (worldOf (s.get (ACC_WORLD_NEXT c.val)) ≠ next → ∀ f, 1 ≤ f → f ≤ 6 → t.FileClear c.val f) := by
  obtain ⟨-, -, -, hd⟩ := accWorld_place c
  obtain ⟨hn, hk⟩ := State.get_worldWrite_taken next hf hp
  refine .of (exec_accWorldWrite ..) ?_
  rw [State.regAccess_reached _ hr]
  refine ⟨(State.get_ended _ _ hd).trans hn, (State.get_ended _ _ hd).trans hk, fun hw f h1 h6 => ?_⟩
  have hm : f ∈ [1, 2, 3, 4, 5, 6] := by
    simp only [List.mem_cons, List.not_mem_nil, or_false]
    omega
  have hl : LKS_STATUS (c.val / 2) ≠ DAP_STATUS := by
    simp only [LKS_STATUS, DAP_STATUS]
    omega
  unfold State.FileClear
  rw [State.imsic_congr (congrArg (·.imsic) (State.cpu_ended ..)) (State.rd_ended _ _ hl), State.worldWrite_taken next hf hp, State.when,
    if_pos (bne_iff_ne.mpr hw)]
  exact State.fileClear_each _ _ (.inl hm)

theorem accWorldWrite_refused (hp : (s.hart c.val).priv ≠ .m) (hh : (s.hart c.val).halted = false) (ho : s.get (ACC_STATUS_POWER c.val) ≠ 0) :
    Completes (.accWorldWrite a c next) s fun t =>
      t.get (ACC_WORLD_RESULT c.val) = st8 .unavailable ∧ t.get (ACC_WORLD_NEXT c.val) = s.get (ACC_WORLD_NEXT c.val) ∧ t.cpu = s.cpu := by
  obtain ⟨-, fr, ha, hd⟩ := accWorld_place c
  refine .of (exec_accWorldWrite ..) ?_
  rw [State.regAccess_reached _ hr, State.worldWrite_refused next hf hp hh ho]
  refine ⟨(State.get_ended _ _ hd).trans ((State.get_res_self _ _ fr).trans rfl), ?_, State.cpu_ended ..⟩
  exact (State.get_ended _ _ hd).trans (State.get_put_apart _ _ fr ha)

end

/-- Settles O29, clause by clause: a message or a change of a source is a delivery (`State.msiTo_cases`), a timer that is due wakes the hart
(`State.hart_irqWake`), and a change of the world clears the lower files one after another (`State.fileClear_each`). -/
theorem interruptsComplete : Obligations.InterruptsComplete := by
  refine ⟨?files, ?foreign, ?sources, ?lines, ?claims, ?timers, ?worlds⟩
  case files => exact fun _ _ _ _ _ _ ha hw ho h0 h1 => msiWrite_pends ha hw ho h0 h1
  case foreign => exact fun _ _ _ _ _ _ ha hw => msiWrite_foreign ha hw
  case sources => exact fun _ _ hi ho => aplicSourceChange_level hi ho
  case lines => exact fun _ _ _ _ hr hw ho h0 h1 => localMsg_pends hr hw ho h0 h1
  case claims => exact fun _ _ _ hr hd ht => localClaim_clears hr hd ht
  case timers =>
    intro h s hw hi
    refine ⟨fun hd => .of (exec_mtimecmpMatch ..) ?_, fun guest hd => .of (exec_stimecmpMatch ..) ?_⟩
    · rw [if_pos hd]
      exact State.hart_irqWake hw hi
    · rw [if_pos hd]
      exact State.hart_irqWake hw hi
  case worlds =>
    intro a c next s hr hf
    exact ⟨accWorldWrite_taken next hr hf, accWorldWrite_refused next hr hf⟩

end Sys2Proof.Machine
end

section
/-! The cone fuse array: no step takes a burnt step back (R62, R65), the judging of a request (R63), the end of a burn and the copy of
its record to the ledger (R64). -/

namespace Sys2Proof.Machine

open Sys2Proof

/-! ### A burnt step stays burnt -/

theorem State.coneSteps_le_of_step {s t : State} (h : step s = .next t) (c : Nat) : s.coneSteps c ≤ t.coneSteps c := by
  cases hp : s.pending with
  | nil =>
    rw [step_of_pending_nil hp] at h
    cases h
    exact Nat.le_refl _
  | cons i r =>
    rw [step_of_pending_cons hp] at h
    exact (kept_of_exec h).cones c

/-- Settles O6: each command keeps the burnt steps of every cone (`kept_of_exec`), and taking it off the queue changes no fuse. -/
theorem burntStepsStayBurnt : Obligations.BurntStepsStayBurnt :=
  fun _ _ c h => State.coneSteps_le_of_step h c

/-! ### The fields of `CONE_RESULT` -/

/-- A status reads back whole from a field of 8 bits. -/
theorem State.get_res_byte (s : State) {f : Fld} (st : Status) (hf : f.fits) (hw : f.w = 8) : (s.res f st).get f = st8 st := by
  rw [State.get_res_self _ _ hf, hw]
  cases st <;> rfl

theorem coneResult_fits : CONE_RESULT_STATUS.fits ∧ CONE_RESULT_BUSY.fits ∧ CONE_RESULT_NEW_STEP.fits := by
  unfold Fld.fits
  decide

theorem coneResult_apart : CONE_RESULT_STATUS.apart CONE_RESULT_BUSY ∧ CONE_RESULT_BUSY.apart CONE_RESULT_STATUS ∧
    CONE_RESULT_BUSY.apart CONE_RESULT_NEW_STEP := by
  unfold Fld.apart
  decide

theorem coneResult_ne_dapStatus : CONE_RESULT ≠ DAP_STATUS := by decide

/-! ### A request to burn a step (R63) -/

/-- The table of R63 as the first of its conditions that holds. With no image running there is no running key hash, and the model takes
every hash to differ from it. -/
theorem State.coneJudge_eq (s : State) (cone expect : Nat) : s.coneJudge cone expect =
    if 4 < cone then .denied
    else if s.boot.burn.isSome then .unavailable
    else if s.get SUP_STATUS_VIN < s.get SUP_LEVELS_WARN then .unavailable
    else if expect ≠ s.coneSteps cone then .tooLate
    else if coneMax cone ≤ s.coneSteps cone then .full
    else if cone = 4 ∧ (s.boot.imageRunning = false ∨ s.keyProg ≠ s.runningKeyHash) then .denied
    else .ok := by
  simp only [State.coneJudge, firstThat, State.supplyLow, decide_eq_true_eq, bne_iff_ne, ne_eq, Bool.and_eq_true, Bool.or_eq_true,
    beq_iff_eq, Bool.not_eq_true']

section
variable {s : State} {cone expect : Nat} (value : Nat) (src : BurnFor)

/-- A request that is judged OK starts its burn. -/
theorem State.coneStart_ok (h : s.coneJudge cone expect = .ok) : s.coneStart cone expect value src =
    (((s.res CONE_RESULT_STATUS .ok).setBoot { s.boot with burn := some ⟨cone, value, src⟩ }).put CONE_RESULT_BUSY 1, .ok) := by
  unfold State.coneStart
  simp only [h, beq_self_eq_true, if_true]
  rfl

/-- A request that is turned away leaves its status, and starts nothing. -/
theorem State.coneStart_refused (h : s.coneJudge cone expect ≠ .ok) : s.coneStart cone expect value src =
    (s.res CONE_RESULT_STATUS (s.coneJudge cone expect), s.coneJudge cone expect) := by
  unfold State.coneStart
  simp only [beq_iff_eq, h, if_false]

/-- Either way the status is reported and no fuse is blown yet. -/
theorem State.coneStart_reports (s : State) (cone expect : Nat) :
    (s.coneStart cone expect value src).1.get CONE_RESULT_STATUS = st8 (s.coneJudge cone expect) ∧
      (s.coneStart cone expect value src).1.boot.fuses = s.boot.fuses := by
  obtain ⟨fs, fb, -⟩ := coneResult_fits
  obtain ⟨ab, -, -⟩ := coneResult_apart
  by_cases h : s.coneJudge cone expect = .ok
  · rw [State.coneStart_ok value src h, h]
    exact ⟨by rw [State.get_put_apart _ _ fb ab, State.get_setBoot, State.get_res_byte _ _ fs rfl], rfl⟩
  · rw [State.coneStart_refused value src h]
    exact ⟨State.get_res_byte _ _ fs rfl, rfl⟩

end

theorem exec_coneBurn (a : Agent) (cone : BitVec 3) (expect : BitVec 7) (value : BitVec 4) (s : State) :
    exec (.coneBurn a cone expect value) s =
      .next (s.regAccess a true CONE_BURN 4 fun t => (t.coneStart cone.toNat expect.toNat value.toNat .software).1) := rfl

/-- Settles O7: `coneJudge` is the table of R63 (`State.coneJudge_eq`); on OK the burn starts (`State.coneStart_ok`), else nothing
but the status changes (`State.coneStart_refused`). -/
theorem coneBurnIsJudged : Obligations.ConeBurnIsJudged := by
  intro a cone expect value s hr
  obtain ⟨fs, fb, -⟩ := coneResult_fits
  obtain ⟨-, ba, -⟩ := coneResult_apart
  have hd := coneResult_ne_dapStatus
  dsimp only
  rw [← State.coneJudge_eq]
  refine .of (exec_coneBurn ..) ?_
  rw [State.regAccess_reached _ hr]
  obtain ⟨hst, hfu⟩ := s.coneStart_reports value.toNat .software cone.toNat expect.toNat
  refine ⟨(State.get_ended _ _ hd).trans hst, by rw [State.boot_ended, hfu], fun h => ?_, fun h => ?_⟩
  · rw [State.coneStart_ok _ _ h]
    refine ⟨by rw [State.boot_ended]; rfl, ?_⟩
    rw [State.on_ended _ _ hd, State.on, State.get_put_self _ _ fb]
    rfl
  · rw [State.coneStart_refused _ _ h]
    exact ⟨State.boot_ended .., (State.get_ended _ _ hd).trans (State.get_put_apart _ _ fs ba)⟩

/-! ### The end of a burn (R62, R64) -/

theorem State.coneSteps_coneBlow (s : State) (b : Burn) (c : Nat) :
    (s.coneBlow b).coneSteps c = if c = b.cone then s.coneSteps b.cone + 1 else s.coneSteps c := by
  change tabGet (fun _ => 0) (tabSet (fun _ => 0) s.boot.fuses.steps b.cone (s.coneSteps b.cone + 1)) c = _
  rw [tabGet_tabSet]
  rfl

/-- Each burn writes one entry of the burn record. -/
theorem State.record_coneBlow (s : State) (b : Burn) :
    (s.coneBlow b).boot.fuses.record.length = s.boot.fuses.record.length + 1 := by
  simp [State.coneBlow]

theorem State.coneResult_coneBlow (s : State) (b : Burn) : (s.coneBlow b).get CONE_RESULT_BUSY = 0 ∧
    (s.coneBlow b).get CONE_RESULT_NEW_STEP = (s.coneSteps b.cone + 1) % 128 := by
  obtain ⟨-, fb, fn⟩ := coneResult_fits
  obtain ⟨-, -, bn⟩ := coneResult_apart
  unfold State.coneBlow
  exact ⟨by rw [State.get_put_apart _ _ fn bn, State.get_put_self _ _ fb]; rfl, State.get_put_self _ _ fn⟩

/-- The state after the fuses of a burn are blown and what follows from the cone itself is done: withdrawn debug enables (cone 2),
the end of the provisional state (cone 4). -/
def State.coneBurnt (s : State) (b : Burn) : State :=
  ((s.coneBlow b).when (b.cone == 2) State.debugWithdrawn).when (b.cone == 4) fun t =>
    (t.put FIRE_STATUS_PROVISIONAL 0).put LDG_STATUS_PROVISIONAL 0

theorem exec_coneBurnComplete {s : State} {b : Burn} (h : s.boot.burn = some b) :
    exec .coneBurnComplete s = .next ((s.coneBurnt b).burnThen b) := by
  change execConeBurnComplete s = _
  unfold execConeBurnComplete
  rw [h]
  rfl

theorem State.coneBurnt_kept (s : State) (b : Burn) : Kept (s.coneBlow b) (s.coneBurnt b) :=
  State.when_kept _ _ (State.when_kept _ _ (Kept.refl _) fun t => State.debugWithdrawn_kept (Kept.refl t)) fun t =>
    State.put_kept _ _ (State.put_kept _ _ (Kept.refl t))

/-- Whatever a burn is for, its cone has a step more. -/
theorem State.coneSteps_lt_burnThen (s : State) (b : Burn) : s.coneSteps b.cone < ((s.coneBurnt b).burnThen b).coneSteps b.cone := by
  have hk : Kept (s.coneBlow b) ((s.coneBurnt b).burnThen b) := State.burnThen_kept b (s.coneBurnt_kept b)
  calc s.coneSteps b.cone < (s.coneBlow b).coneSteps b.cone := by rw [State.coneSteps_coneBlow, if_pos rfl]; exact Nat.lt_succ_self _
    _ ≤ _ := hk.cones b.cone

/-- A burn that software asked for ends with what the fuses and `CONE_RESULT` took; nothing goes on. -/
theorem State.burnThen_software (s : State) {b : Burn} (h : b.src = .software) : s.burnThen b = s := by
  unfold State.burnThen
  rw [h]

/-- Outside the debug cone at most the two PROVISIONAL flags follow the blown fuses. -/
theorem State.coneBurnt_frame (s : State) {b : Burn} (h : b.cone ≠ 2) :
    (s.coneBurnt b).boot = (s.coneBlow b).boot ∧ (s.coneBurnt b).rd CONE_RESULT = (s.coneBlow b).rd CONE_RESULT := by
  have h2 : (b.cone == 2) = false := beq_eq_false_iff_ne.mpr h
  unfold State.coneBurnt State.when
  simp only [h2, Bool.false_eq_true, if_false]
  split
  · exact ⟨rfl, by rw [State.rd_put_ne _ _ (by decide), State.rd_put_ne _ _ (by decide)]⟩
  · exact ⟨rfl, rfl⟩

theorem coneBurnComplete_raises {s : State} {b : Burn} (h : s.boot.burn = some b) :
    Completes .coneBurnComplete s fun t => s.coneSteps b.cone < t.coneSteps b.cone ∧
      (b.src = .software → b.cone ≠ 2 → (∀ c, t.coneSteps c = if c = b.cone then s.coneSteps c + 1 else s.coneSteps c) ∧
        t.boot.burn = none ∧ t.on CONE_RESULT_BUSY = false ∧ t.get CONE_RESULT_NEW_STEP = (s.coneSteps b.cone + 1) % 128 ∧
        t.boot.fuses.record.length = s.boot.fuses.record.length + 1) := by
  refine .of (exec_coneBurnComplete h) ⟨s.coneSteps_lt_burnThen b, fun hs hc => ?_⟩
  rw [State.burnThen_software _ hs]
  obtain ⟨hb, hr⟩ := s.coneBurnt_frame hc
  obtain ⟨hbusy, hnew⟩ := s.coneResult_coneBlow b
  have hg : ∀ f : Fld, f.reg = CONE_RESULT → (s.coneBurnt b).get f = (s.coneBlow b).get f := fun f hf => by
    rw [State.get, State.get, hf, hr]
  refine ⟨fun c => ?_, by rw [hb]; rfl, ?_, (hg _ rfl).trans hnew, by rw [hb, State.record_coneBlow]⟩
  · rw [State.coneSteps, hb]
    refine (s.coneSteps_coneBlow b c).trans ?_
    split
    · subst_vars; rfl
    · rfl
  · rw [State.on, hg _ rfl, hbusy]
    rfl

/-! ### The copy of a burn record entry (R64) -/

/-- Accepting a record leaves boot and fuses. -/
theorem State.boot_ldgAccept (s : State) (r : Rec) : (s.ldgAccept r).boot = s.boot := by
  rw [(LdgOnly.accept s r).rest]

theorem exec_burnRecordCopy (n : Fin 128) (s : State) : exec (.burnRecordCopy n) s = .next (s.burnCopy n.val) := rfl

theorem burnRecordCopy_ledgered {n : Fin 128} {s : State} {e : BurnEntry} (he : s.boot.fuses.record[n.val]? = some e)
    (hl : e.ledgered = false) (hr : s.runs HST 2 = true) (hc : s.ldg.closed = none) (hg : s.ldg.gasp = false) (hf : 64 < ldgFree s.ldg) :
    Completes (.burnRecordCopy n) s fun t =>
      t.boot.fuses = { s.boot.fuses with record := s.boot.fuses.record.set n.val { e with ledgered := true } } := by
  refine .of (exec_burnRecordCopy ..) ?_
  unfold State.burnCopy
  simp only [he, hl, hr, hc, hg, Nat.not_le.mpr hf, Option.isSome_none, Bool.not_true, Bool.or_self, Bool.false_eq_true,
    decide_false, if_false, State.boot_ldgAccept]

end Sys2Proof.Machine
end

section
/-! The commands of the boot flash and the read of its bytes (R53, R57, R68), and the clauses of O8. -/

namespace Sys2Proof.Machine

open Sys2Proof

/-! ### A command that starts -/

theorem flashCmdBusy_fits : FIRE_FL_CMD_BUSY.fits := by
  unfold Fld.fits
  decide

theorem flashStat_fits : FIRE_FL_STAT_STATUS.fits := by
  unfold Fld.fits
  decide

theorem State.get_flashStat (s : State) (st : Status) : (s.res FIRE_FL_STAT_STATUS st).get FIRE_FL_STAT_STATUS = st8 st :=
  State.get_res_byte _ _ flashStat_fits rfl

theorem exec_flashErase (a : Agent) (s : State) :
    exec (.flashErase a) s = .next (s.regAccess a true FIRE_FL_CMD 4 fun t => t.flashStart 1) := rfl

theorem exec_flashProgram (a : Agent) (s : State) :
    exec (.flashProgram a) s = .next (s.regAccess a true FIRE_FL_CMD 4 fun t => t.flashStart 2) := rfl

theorem exec_flashOpDenied (a : Agent) (s : State) :
    exec (.flashOpDenied a) s = .next (s.regAccess a true FIRE_FL_CMD 4 fun t => t.flashStart 3) := rfl

section
variable {s : State} (hb : s.on FIRE_FL_CMD_BUSY = false)
include hb

/-- Erase and program hold their operation, with ADDR and DATA, and set BUSY. -/
theorem State.flashStart_holds {op : Nat} (h : op = 1 ∨ op = 2) : (s.flashStart op).on FIRE_FL_CMD_BUSY = true ∧
    (s.flashStart op).boot = { s.boot with flashCmd := some ⟨op, s.get FIRE_FL_ADDR_ADDR / 8 * 8, s.rd FIRE_FL_DATA⟩ } := by
  have h0 : (op == 0) = false := by rcases h with rfl | rfl <;> rfl
  have h3 : (op == 3) = false := by rcases h with rfl | rfl <;> rfl
  unfold State.flashStart
  simp only [hb, h0, h3, Bool.or_self, Bool.false_eq_true, if_false]
  refine ⟨?_, rfl⟩
  rw [State.on, State.get_put_self _ _ flashCmdBusy_fits]
  rfl

/-- The reserved operation is refused. -/
theorem State.flashStart_three : s.flashStart 3 = s.res FIRE_FL_STAT_STATUS .denied := by
  unfold State.flashStart
  simp [hb]

variable {a : Agent} (hr : s.Reached a true FIRE_FL_CMD 4)
include hr

/-- A write of `FIRE_FL_CMD` that starts an operation. -/
theorem State.regAccess_flashStart {op : Nat} (h : op = 1 ∨ op = 2) :
    (s.regAccess a true FIRE_FL_CMD 4 fun t => t.flashStart op).on FIRE_FL_CMD_BUSY = true ∧
    (s.regAccess a true FIRE_FL_CMD 4 fun t => t.flashStart op).boot =
      { s.boot with flashCmd := some ⟨op, s.get FIRE_FL_ADDR_ADDR / 8 * 8, s.rd FIRE_FL_DATA⟩ } := by
  obtain ⟨hon, hboot⟩ := State.flashStart_holds hb h
  rw [State.regAccess_reached _ hr]
  exact ⟨(State.on_ended _ _ (by decide)).trans hon, (State.boot_ended ..).trans hboot⟩

theorem flashOpDenied_denied : Completes (.flashOpDenied a) s fun t => t.get FIRE_FL_STAT_STATUS = st8 .denied ∧ t.boot = s.boot := by
  refine .of (exec_flashOpDenied ..) ?_
  rw [State.regAccess_reached _ hr, State.flashStart_three hb]
  exact ⟨(State.get_ended _ _ (by decide)).trans (State.get_flashStat ..), State.boot_ended ..⟩

end

/-! ### A command that ends (R57) -/

theorem exec_flashCmdComplete {s : State} {c : FlashCmd} (hc : s.boot.flashCmd = some c) (ho : s.outOfReset AON = true) :
    exec .flashCmdComplete s = .next (s.flashDone c) := by
  change execFlashCmdComplete s = _
  unfold execFlashCmdComplete
  simp only [hc, ho, if_true]

/-- The flash unit with its command taken away and BUSY 0. -/
def State.flashIdle (s : State) : State := (s.setBoot { s.boot with flashCmd := none }).put FIRE_FL_CMD_BUSY 0

theorem State.on_flashIdle (s : State) : s.flashIdle.on FIRE_FL_CMD_BUSY = false := by
  rw [State.on, State.flashIdle, State.get_put_self _ _ flashCmdBusy_fits]
  rfl

/-- Which slot runs does not depend on the flash unit. -/
theorem State.touchesRunning_flashIdle (s : State) (lo hi : Nat) : s.flashIdle.touchesRunning lo hi = s.touchesRunning lo hi := by
  have h : s.flashIdle.get FIRE_STATUS_SLOT = s.get FIRE_STATUS_SLOT := State.get_put_ne _ _ (by decide)
  unfold State.touchesRunning
  rw [h]
  rfl

/-- The end of an erase: refused where it touches the running slot, else the sector is blank. -/
theorem State.flashDone_erase (s : State) {c : FlashCmd} (h : c.op = 1) : s.flashDone c =
    if s.touchesRunning (0x10000 * (c.addr / 0x10000)) (0x10000 * (c.addr / 0x10000) + 0x10000) then
      s.flashIdle.res FIRE_FL_STAT_STATUS .denied
    else (s.flashIdle.setBoot { s.flashIdle.boot with
      flash := tabDrop s.boot.flash (0x10000 * (c.addr / 0x10000)) (0x10000 * (c.addr / 0x10000) + 0x10000) }).res FIRE_FL_STAT_STATUS .ok := by
  rw [← State.touchesRunning_flashIdle]
  unfold State.flashDone
  simp only [h, beq_self_eq_true, if_true]
  rfl

theorem flashCmdComplete_erase {s : State} {c : FlashCmd} (hc : s.boot.flashCmd = some c) (ho : s.outOfReset AON = true) (h1 : c.op = 1) :
    let lo := 0x10000 * (c.addr / 0x10000)
    Completes .flashCmdComplete s fun t => t.boot.flashCmd = none ∧ t.on FIRE_FL_CMD_BUSY = false ∧
      (s.touchesRunning lo (lo + 0x10000) = true → t.get FIRE_FL_STAT_STATUS = st8 .denied ∧ t.boot.flash = s.boot.flash) ∧
      (s.touchesRunning lo (lo + 0x10000) = false → t.get FIRE_FL_STAT_STATUS = st8 .ok ∧
        ∀ k, tabGet flashDefault t.boot.flash k = if lo ≤ k ∧ k < lo + 0x10000 then 0xFF else tabGet flashDefault s.boot.flash k) := by
  intro lo
  have hbusy : ∀ (t : State) (st : Status), t.on FIRE_FL_CMD_BUSY = false → (t.res FIRE_FL_STAT_STATUS st).on FIRE_FL_CMD_BUSY = false :=
    fun t st h => by rw [State.on, State.get_res_ne _ _ (by decide)]; exact h
  refine .of (exec_flashCmdComplete hc ho) ?_
  rw [State.flashDone_erase s h1]
  by_cases ht : s.touchesRunning lo (lo + 0x10000) = true
  · rw [if_pos ht]
    exact ⟨rfl, hbusy _ _ s.on_flashIdle, fun _ => ⟨State.get_flashStat .., rfl⟩, fun hf => absurd ht (by simp [hf])⟩
  · rw [if_neg ht]
    exact ⟨rfl, hbusy _ _ s.on_flashIdle, fun hf => absurd hf ht, fun _ =>
      ⟨State.get_flashStat .., tabGet_tabDrop flashDefault s.boot.flash _ _⟩⟩

/-! ### The read of 8 bytes -/

theorem exec_flashDataRead (a : Agent) (half : Half) (s : State) :
    exec (.flashDataRead a half) s = .next (s.readCmd a FIRE_FL_DATA half State.flashData) := rfl

theorem flashDataRead_advances {a : Agent} {s : State} (hr : s.Reached a false FIRE_FL_DATA 8) (hd : s.debugRead a = false) :
    Completes (.flashDataRead a .full) s fun t =>
      t.get FIRE_FL_ADDR_ADDR = (s.get FIRE_FL_ADDR_ADDR / 8 * 8 + 8) % 2 ^ FIRE_FL_ADDR_ADDR.w ∧ t.boot = s.boot := by
  have hf : FIRE_FL_ADDR_ADDR.fits := by unfold Fld.fits; decide
  refine .of (exec_flashDataRead ..) ?_
  rw [State.readCmd_reached (reg := FIRE_FL_DATA) (half := .full) _ hr, hd, if_neg (by decide)]
  exact ⟨(State.get_ended _ _ (by decide)).trans (State.get_put_self _ _ hf), State.boot_ended ..⟩

/-- Settles O8, clause by clause: the fuses a burn blows (`State.coneBlow`) keep through what follows it, the ledger takes a record
without touching the fuses (`LdgOnly.accept`), and each flash command is one equation of `State.flashStart` or `State.flashDone`. -/
theorem burnsAndFlashComplete : Obligations.BurnsAndFlashComplete := by
  refine ⟨?burns, ?copies, ?starts, ?erases, ?reads⟩
  case burns => exact fun _ _ h => coneBurnComplete_raises h
  case copies => exact fun _ _ _ he hl hr hc hg hf => burnRecordCopy_ledgered he hl hr hc hg hf
  case starts =>
    intro a s hr hb
    exact ⟨.of (exec_flashErase ..) (State.regAccess_flashStart hb hr (.inl rfl)),
      .of (exec_flashProgram ..) (State.regAccess_flashStart hb hr (.inr rfl)), flashOpDenied_denied hb hr⟩
  case erases => exact fun _ _ hc ho h1 => flashCmdComplete_erase hc ho h1
  case reads => exact fun _ _ hr hd => flashDataRead_advances hr hd

end Sys2Proof.Machine
end

section
/-! Fields of one bit and of several after a write, repeated operations, and what the logs leave: the small rules the statements about
vehicle time and power share (R9 to R13, R254, R394). -/

namespace Sys2Proof.Machine

open Sys2Proof

/-! ### Fields -/

theorem State.on_put_apart (s : State) {f g : Fld} (v : Nat) (hf : f.fits) (h : g.apart f) : (s.put f v).on g = s.on g := by
  rw [State.on, State.get_put_apart s v hf h, State.on]

theorem State.on_put_ne (s : State) {f g : Fld} (v : Nat) (h : g.reg ≠ f.reg) : (s.put f v).on g = s.on g := by
  rw [State.on, State.get_put_ne s v h, State.on]

/-- A one-bit field holds the truth value written to it. -/
theorem State.on_put_b2n (s : State) {f : Fld} (b : Bool) (hf : f.fits) (hw : f.w = 1) : (s.put f (b2n b)).on f = b := by
  rw [State.on, State.get_put_self s _ hf, hw]
  cases b <;> rfl

theorem State.on_put_one (s : State) {f : Fld} (hf : f.fits) (hw : f.w = 1) : (s.put f 1).on f = true := s.on_put_b2n true hf hw

theorem State.on_put_zero (s : State) {f : Fld} (hf : f.fits) (hw : f.w = 1) : (s.put f 0).on f = false := s.on_put_b2n false hf hw

/-- A value that the field can hold is read back. -/
theorem State.get_put_small (s : State) {f : Fld} {v : Nat} (hf : f.fits) (hv : v < 2 ^ f.w) : (s.put f v).get f = v := by
  rw [State.get_put_self s v hf, Nat.mod_eq_of_lt hv]

/-- A one-bit status field that is set reads 1 (R13). -/
theorem State.on_raise_one (s : State) {f : Fld} (hf : f.fits) (hw : f.w = 1) : (s.raise f 1).on f = true := by
  have h : s.get f < 2 := by simpa [hw] using s.get_lt f
  rw [State.on, State.raise, State.get_put_self s _ hf, hw]
  interval_cases s.get f <;> rfl

/-! ### Operations under a condition, and repeated ones -/

@[simp] theorem State.when_true (s : State) (f : State → State) : s.when true f = f s := rfl

@[simp] theorem State.when_false (s : State) (f : State → State) : s.when false f = s := rfl

/-- What an operation leaves, it leaves under a condition. -/
theorem State.when_same {α : Type} (π : State → α) (s : State) (c : Bool) {f : State → State} (h : π (f s) = π s) : π (s.when c f) = π s := by
  cases c
  · rfl
  · exact h

/-- A property that each operation of a series keeps, the series keeps. -/
theorem State.each_keeps {α : Type} {P : State → Prop} {s : State} (l : List α) {f : α → State → State} (h0 : P s)
    (h : ∀ a ∈ l, ∀ t, P t → P (f a t)) : P (s.each l f) := by
  induction l generalizing s with
  | nil => exact h0
  | cons a l ih => exact ih (h a List.mem_cons_self s h0) fun b hb => h b (List.mem_cons_of_mem a hb)

/-- What each operation of a series leaves, the series leaves. -/
theorem State.each_same {α β : Type} (π : State → β) (l : List α) {f : α → State → State} (h : ∀ a ∈ l, ∀ t, π (f a t) = π t) (s : State) :
    π (s.each l f) = π s := by
  induction l generalizing s with
  | nil => rfl
  | cons a l ih =>
    exact (ih (fun b hb => h b (List.mem_cons_of_mem a hb)) (f a s)).trans (h a List.mem_cons_self s)

/-! ### The logs -/

/-- The registers that an entry of the ledger or of the sherd log can change. -/
def logRegs : List Nat := SHD_IRQ_STATUS :: SHD_STAT :: ldgRegs

section
variable {s t : State}

theorem LogOnly.rd (h : LogOnly s t) {k : Nat} (hk : k ∉ logRegs) : t.rd k = s.rd k := by
  simp only [logRegs, List.mem_cons, not_or] at hk
  exact h.reg k hk.2.2 hk.1 hk.2.1

theorem LogOnly.get (h : LogOnly s t) {f : Fld} (hf : f.reg ∉ logRegs) : t.get f = s.get f := by
  unfold State.get
  rw [h.rd hf]

theorem LogOnly.time (h : LogOnly s t) : t.time = s.time := by rw [h.rest]

theorem LogOnly.power (h : LogOnly s t) : t.power = s.power := by rw [h.rest]

theorem LogOnly.tdom (h : LogOnly s t) (d : Nat) : t.tdom d = s.tdom d := by rw [State.tdom, h.time, State.tdom]

end

end Sys2Proof.Machine
end

section
/-! Steps of vehicle time: the judging of a step request, the clamp of a rate word, and what starts a slew or accepts a jump
(R72, R75, R78 to R82). -/

namespace Sys2Proof.Machine

open Sys2Proof

/-! ### `DISC_STATUS` -/

theorem discStatus_fits (d : Nat) :
    (DISC_STATUS_RESULT d).fits ∧ (DISC_STATUS_BUSY d).fits ∧ (DISC_STATUS_SLEWING d).fits ∧ (DISC_STATUS_CLAMPED d).fits := by
  simp [Fld.fits, DISC_STATUS_RESULT, DISC_STATUS_BUSY, DISC_STATUS_SLEWING, DISC_STATUS_CLAMPED]

theorem discStatus_apart (d : Nat) : (DISC_STATUS_RESULT d).apart (DISC_STATUS_BUSY d) ∧ (DISC_STATUS_RESULT d).apart (DISC_STATUS_SLEWING d) ∧
    (DISC_STATUS_BUSY d).apart (DISC_STATUS_SLEWING d) ∧ (DISC_STATUS_BUSY d).apart (DISC_STATUS_RESULT d) ∧
    (DISC_STATUS_SLEWING d).apart (DISC_STATUS_RESULT d) ∧ (DISC_STATUS_RESULT d).apart (DISC_STATUS_CLAMPED d) ∧
    (DISC_STATUS_CLAMPED d).apart (DISC_STATUS_RESULT d) := by
  simp [Fld.apart, DISC_STATUS_RESULT, DISC_STATUS_BUSY, DISC_STATUS_SLEWING, DISC_STATUS_CLAMPED]

/-- The registers of a time domain's discipline are neither the logs' nor the debug module's. -/
theorem disc_outside : ∀ d < 4, ∀ k ∈ [DISC_CTL d, DISC_RATE d, DISC_STATUS d, DISC_REMAIN d, DISC_OFFSET d, DISC_THR d, VT_DSEQ d, VT_STATUS],
    k ∉ logRegs ∧ k ≠ DAP_STATUS := by decide

/-! ### The start of a slew and the acceptance of a jump (R78, R80) -/

/-- A field that the end of a slew in progress does not show. -/
def besideSlew (d : Nat) (f : Fld) : Prop := f.reg ≠ DISC_REMAIN d ∧ f.apart (DISC_STATUS_SLEWING d)

theorem State.get_slewDiscard (s : State) (d : Nat) {f : Fld} (hf : besideSlew d f) : (s.slewDiscard d).get f = s.get f := by
  obtain ⟨-, -, fs, -⟩ := discStatus_fits d
  unfold State.slewDiscard
  rw [State.get_put_apart _ _ fs hf.2, State.get_setTdom]
  exact State.when_same (State.get · f) s _ (State.get_put_ne _ _ hf.1)

theorem State.tdom_slewDiscard (s : State) (d : Nat) : (s.slewDiscard d).tdom d = { s.tdom d with slew := 0 } := by
  unfold State.slewDiscard
  rw [State.tdom_put, State.tdom_setTdom_self]

theorem State.get_slewStart (s : State) (d : Nat) (off : Int) (ppm : Nat) {f : Fld} (hf : besideSlew d f) :
    (s.slewStart d off ppm).get f = s.get f := by
  obtain ⟨-, -, fs, -⟩ := discStatus_fits d
  unfold State.slewStart
  rw [State.get_put_apart _ _ fs hf.2, State.get_setTdom, State.get_slewDiscard _ _ hf]

theorem State.tdom_slewStart (s : State) (d : Nat) (off : Int) (ppm : Nat) :
    (s.slewStart d off ppm).tdom d = { s.tdom d with slew := off, slewPpm := ppm } := by
  unfold State.slewStart
  rw [State.tdom_put, State.tdom_setTdom_self, State.tdom_slewDiscard]

theorem State.on_slewStart (s : State) (d : Nat) (off : Int) (ppm : Nat) : (s.slewStart d off ppm).on (DISC_STATUS_SLEWING d) = true := by
  obtain ⟨-, -, fs, -⟩ := discStatus_fits d
  exact State.on_put_one _ fs rfl

theorem State.get_jumpAccept (s : State) (d : Nat) (j : Jump) {f : Fld} (hf : besideSlew d f) (hb : f.apart (DISC_STATUS_BUSY d)) :
    (s.jumpAccept d j).get f = s.get f := by
  obtain ⟨-, fb, -, -⟩ := discStatus_fits d
  unfold State.jumpAccept
  rw [State.get_put_apart _ _ fb hb, State.get_setTdom, State.get_slewDiscard _ _ hf]

theorem State.tdom_jumpAccept (s : State) (d : Nat) (j : Jump) :
    (s.jumpAccept d j).tdom d = { s.tdom d with slew := 0, jumps := (s.tdom d).jumps ++ [j] } := by
  unfold State.jumpAccept
  rw [State.tdom_put, State.tdom_setTdom_self, State.tdom_slewDiscard]

theorem State.on_jumpAccept (s : State) (d : Nat) (j : Jump) : (s.jumpAccept d j).on (DISC_STATUS_BUSY d) = true := by
  obtain ⟨-, fb, -, -⟩ := discStatus_fits d
  exact State.on_put_one _ fb rfl

/-! ### Where a jump leads (R72) -/

theorem jumpTarget_delta (acc c : Nat) (x : Int) :
    (jumpTarget acc ⟨none, x, c⟩).isNone = decide ((acc : Int) + x < 0 ∨ 2 ^ 104 ≤ (acc : Int) + x) := by
  unfold jumpTarget
  dsimp only
  split
  case isTrue h =>
    rw [Bool.and_eq_true, decide_eq_true_eq, decide_eq_true_eq] at h
    exact (decide_eq_false (by omega)).symm
  case isFalse h =>
    rw [Bool.and_eq_true, decide_eq_true_eq, decide_eq_true_eq] at h
    exact (decide_eq_true (by omega)).symm

theorem jumpTarget_set (acc c v : Nat) (x : Int) : (jumpTarget acc ⟨some v, x, c⟩).isNone = decide (2 ^ 104 ≤ v) := by
  unfold jumpTarget
  dsimp only
  split
  case isTrue h => exact (decide_eq_false (Nat.not_le.mpr h)).symm
  case isFalse h => exact (decide_eq_true (Nat.not_lt.mp h)).symm

/-! ### The table of R79 -/

/-- The outcome for the mode, the enable and BUSY of a domain, and whether the request is bad in itself. -/
def goTable (mode enabled busy bad : Bool) : Status :=
  firstThat [(!mode, .denied), (!enabled, .unavailable), (busy, .unavailable), (bad, .denied)] .ok

/-- The table, row by row. -/
theorem goTable_rows (mode enabled busy bad : Bool) :
    (mode = false → goTable mode enabled busy bad = .denied) ∧
    (mode = true → enabled = false → goTable mode enabled busy bad = .unavailable) ∧
    (mode = true → enabled = true → busy = true → goTable mode enabled busy bad = .unavailable) ∧
    (mode = true → enabled = true → busy = false → bad = true → goTable mode enabled busy bad = .denied) ∧
    (mode = true → enabled = true → busy = false → bad = false → goTable mode enabled busy bad = .ok) := by
  decide +revert

theorem goTable_ok {mode enabled busy bad : Bool} (h : goTable mode enabled busy bad = .ok) : bad = false := by
  decide +revert

/-- The jump a write of `DISC_GO` asks for. -/
def State.goJump (s : State) (d op : Nat) : Jump :=
  if op == 3 then ⟨some (2 ^ 40 * (1000000000 * s.get (DISC_SET_S_SEC d) + s.get (DISC_SET_NS_NS d))), 0, 1⟩
  else ⟨none, toSigned 64 (s.get (DISC_STEP_OFFSET d)) * 2 ^ 24, 0⟩

/-- The step or set lies outside the range of R72. -/
def State.goAway (s : State) (d op : Nat) : Bool :=
  (jumpTarget (s.tdom d).acc (s.goJump d op)).isNone || (op == 3 && decide (1000000000 ≤ s.get (DISC_SET_NS_NS d)))

/-- A slew by more than 1 s. -/
def State.goBig (s : State) (d op : Nat) : Bool :=
  op == 1 && decide (1000000000 * 2 ^ 40 < (toSigned 64 (s.get (DISC_STEP_OFFSET d)) * 2 ^ 24).natAbs)

/-- SLEW_PPM, where 0 selects 100. -/
def goPpm (ppm : Nat) : Nat := if ppm == 0 then 100 else ppm

/-- The outcome of a write of `DISC_GO`. -/
def State.goStatus (s : State) (d op ppm : Nat) : Status :=
  goTable (s.on (DISC_CTL_MODE d)) (s.domEnabled d) (s.on (DISC_STATUS_BUSY d)) (s.goAway d op || s.goBig d op || decide (1000 < goPpm ppm))

section
variable {s : State} {d op ppm : Nat} (a : Agent) (h0 : op ≠ 0)
include h0

/-- The outcome is reported, a request out of range recorded (R72), and only then does the step start. -/
theorem State.discGo_eq : s.discGo a d op ppm =
    let u := (s.res (DISC_STATUS_RESULT d) (s.goStatus d op ppm)).when
      (s.on (DISC_CTL_MODE d) && s.domEnabled d && !s.on (DISC_STATUS_BUSY d) && s.goAway d op)
      (fun t => t.vtRefused d (t.agentWorld a) (agentSrc a) (agentPort a))
    if s.goStatus d op ppm != .ok then u
    else if op == 1 then u.slewStart d (toSigned 64 (s.get (DISC_STEP_OFFSET d)) * 2 ^ 24) (goPpm ppm) else u.jumpAccept d (s.goJump d op) := by
  unfold State.discGo
  dsimp only
  rw [if_neg (by simpa using h0)]
  rfl

/-- A request with any outcome but OK reports it, and at most leaves an entry in the sherd log. -/
theorem State.discGo_refused (h : s.goStatus d op ppm ≠ .ok) :
    LogOnly (s.res (DISC_STATUS_RESULT d) (s.goStatus d op ppm)) (s.discGo a d op ppm) := by
  rw [State.discGo_eq a h0]
  dsimp only
  rw [if_pos (bne_iff_ne.mpr h)]
  exact LogOnly.when (.refl _) _ (.sherd ..)

/-- A request with OK starts the slew or puts the jump last in line. -/
theorem State.discGo_ok (h : s.goStatus d op ppm = .ok) : s.discGo a d op ppm =
    if op == 1 then (s.res (DISC_STATUS_RESULT d) .ok).slewStart d (toSigned 64 (s.get (DISC_STEP_OFFSET d)) * 2 ^ 24) (goPpm ppm)
    else (s.res (DISC_STATUS_RESULT d) .ok).jumpAccept d (s.goJump d op) := by
  have haway : s.goAway d op = false := (Bool.or_eq_false_iff.mp (Bool.or_eq_false_iff.mp (goTable_ok h)).1).1
  rw [State.discGo_eq a h0, h, haway, Bool.and_false]
  rfl

end

/-! ### The outcome, seen after the write (R79) -/

/-- The outcome is in RESULT, the present time stands, and with any outcome but OK so do the time and BUSY and SLEWING. -/
def State.GoReported (s t : State) (d : Nat) (st : Status) : Prop :=
  t.get (DISC_STATUS_RESULT d) = st8 st ∧ (t.tdom d).acc = (s.tdom d).acc ∧
    (st ≠ .ok → t.time = s.time ∧ t.get (DISC_STATUS_BUSY d) = s.get (DISC_STATUS_BUSY d) ∧
      t.get (DISC_STATUS_SLEWING d) = s.get (DISC_STATUS_SLEWING d))

theorem besideSlew_result (d : Nat) : besideSlew d (DISC_STATUS_RESULT d) := by
  obtain ⟨-, hs, -⟩ := discStatus_apart d
  exact ⟨by simp [DISC_STATUS_RESULT, DISC_STATUS, DISC_REMAIN], hs⟩

section
variable {s : State} {a : Agent} {d op ppm : Nat} (hd : d < 4) (h0 : op ≠ 0)
include hd h0

theorem State.discGo_reported : s.GoReported ((s.discGo a d op ppm).ended a) d (s.goStatus d op ppm) := by
  obtain ⟨fr, -⟩ := discStatus_fits d
  obtain ⟨hrb, hrs, -, hbr, hsr, -⟩ := discStatus_apart d
  obtain ⟨hlog, hdap⟩ := disc_outside d hd (DISC_STATUS d) (by simp)
  have hres : (s.res (DISC_STATUS_RESULT d) (s.goStatus d op ppm)).get (DISC_STATUS_RESULT d) = st8 (s.goStatus d op ppm) :=
    State.get_res_byte _ _ fr rfl
  by_cases h : s.goStatus d op ppm = .ok
  · rw [h] at hres ⊢
    refine ⟨?_, ?_, fun hn => absurd rfl hn⟩
    · rw [State.get_ended _ _ hdap, State.discGo_ok a h0 h, ← hres]
      split
      · exact State.get_slewStart _ _ _ _ (besideSlew_result d)
      · exact State.get_jumpAccept _ _ _ (besideSlew_result d) hrb
    · rw [State.tdom_ended, State.discGo_ok a h0 h]
      split
      · rw [State.tdom_slewStart, State.tdom_res]
      · rw [State.tdom_jumpAccept, State.tdom_res]
  · have hl := State.discGo_refused a h0 h
    refine ⟨?_, ?_, fun _ => ⟨?_, ?_, ?_⟩⟩
    · rw [State.get_ended _ _ hdap, hl.get hlog, hres]
    · rw [State.tdom_ended, hl.tdom, State.tdom_res]
    · rw [State.time_ended, hl.time, State.time_res]
    · rw [State.get_ended _ _ hdap, hl.get hlog]
      exact State.get_put_apart _ _ fr hbr
    · rw [State.get_ended _ _ hdap, hl.get hlog]
      exact State.get_put_apart _ _ fr hsr

end

theorem goPpm_bound (ppm : Nat) : 1000 < goPpm ppm ↔ 1000 < ppm := by
  unfold goPpm
  split <;> simp_all

/-- The rows of the table where `bad` says what makes the step itself refused. -/
theorem State.goStatus_rows (s : State) (d op ppm : Nat) {bad : Prop} (hb : (s.goAway d op || s.goBig d op) = true ↔ bad) :
    (s.on (DISC_CTL_MODE d) = false → s.goStatus d op ppm = .denied) ∧
    (s.on (DISC_CTL_MODE d) = true → s.domEnabled d = false → s.goStatus d op ppm = .unavailable) ∧
    (s.on (DISC_CTL_MODE d) = true → s.domEnabled d = true → s.on (DISC_STATUS_BUSY d) = true → s.goStatus d op ppm = .unavailable) ∧
    (s.on (DISC_CTL_MODE d) = true → s.domEnabled d = true → s.on (DISC_STATUS_BUSY d) = false → bad ∨ 1000 < ppm → s.goStatus d op ppm = .denied) ∧
    (s.on (DISC_CTL_MODE d) = true → s.domEnabled d = true → s.on (DISC_STATUS_BUSY d) = false → ¬ bad → ppm ≤ 1000 → s.goStatus d op ppm = .ok) := by
  obtain ⟨h1, h2, h3, h4, h5⟩ := goTable_rows (s.on (DISC_CTL_MODE d)) (s.domEnabled d) (s.on (DISC_STATUS_BUSY d))
    (s.goAway d op || s.goBig d op || decide (1000 < goPpm ppm))
  refine ⟨h1, h2, h3, fun m e b hx => h4 m e b ?_, fun m e b hn hp => h5 m e b ?_⟩
  · rw [Bool.or_eq_true, hb, decide_eq_true_eq, goPpm_bound]
    exact hx
  · rw [Bool.or_eq_false_iff, ← Bool.not_eq_true, hb, decide_eq_false_iff_not, goPpm_bound]
    exact ⟨hn, Nat.not_lt.mpr hp⟩

/-- What makes a slew, a jump by STEP and a jump to SET bad in themselves. -/
theorem State.goBad_slew (s : State) (d : Nat) :
    let step : Int := toSigned 64 (s.get (DISC_STEP_OFFSET d)) * 2 ^ 24
    (s.goAway d 1 || s.goBig d 1) = true ↔
      ((s.tdom d).acc + step < 0 ∨ 2 ^ 104 ≤ (s.tdom d).acc + step) ∨ 1000000000 * 2 ^ 40 < step.natAbs := by
  change ((jumpTarget _ ⟨none, _, 0⟩).isNone || false || decide _) = true ↔ _
  rw [jumpTarget_delta, Bool.or_false, Bool.or_eq_true, decide_eq_true_eq, decide_eq_true_eq]

theorem State.goBad_jumpBy (s : State) (d : Nat) :
    let step : Int := toSigned 64 (s.get (DISC_STEP_OFFSET d)) * 2 ^ 24
    (s.goAway d 2 || s.goBig d 2) = true ↔ (s.tdom d).acc + step < 0 ∨ 2 ^ 104 ≤ (s.tdom d).acc + step := by
  change ((jumpTarget _ ⟨none, _, 0⟩).isNone || false || false) = true ↔ _
  rw [jumpTarget_delta, Bool.or_false, Bool.or_false, decide_eq_true_eq]

theorem State.goBad_jumpTo (s : State) (d : Nat) :
    (s.goAway d 3 || s.goBig d 3) = true ↔
      2 ^ 104 ≤ 2 ^ 40 * (1000000000 * s.get (DISC_SET_S_SEC d) + s.get (DISC_SET_NS_NS d)) ∨ 1000000000 ≤ s.get (DISC_SET_NS_NS d) := by
  change ((jumpTarget _ ⟨some _, 0, 1⟩).isNone || decide _ || false) = true ↔ _
  rw [jumpTarget_set, Bool.or_false, Bool.or_eq_true, decide_eq_true_eq, decide_eq_true_eq]

theorem goPpm_toNat (ppm : BitVec 10) : goPpm ppm.toNat = if ppm = 0 then 100 else ppm.toNat := by
  unfold goPpm
  by_cases h : ppm = 0
  · subst h
    rfl
  · rw [if_neg h, if_neg]
    simpa [BitVec.toNat_eq] using h

theorem exec_discSlew (a : Agent) (d : Dom) (ppm : BitVec 10) (s : State) :
    exec (.discSlew a d ppm) s = .next (s.regAccess a true (DISC_GO d.val) 4 fun t => t.discGo a d.val 1 ppm.toNat) := rfl

theorem exec_discJumpBy (a : Agent) (d : Dom) (ppm : BitVec 10) (s : State) :
    exec (.discJumpBy a d ppm) s = .next (s.regAccess a true (DISC_GO d.val) 4 fun t => t.discGo a d.val 2 ppm.toNat) := rfl

theorem exec_discJumpTo (a : Agent) (d : Dom) (ppm : BitVec 10) (s : State) :
    exec (.discJumpTo a d ppm) s = .next (s.regAccess a true (DISC_GO d.val) 4 fun t => t.discGo a d.val 3 ppm.toNat) := rfl

section
variable {s : State} {a : Agent} {d op ppm : Nat} (hd : d < 4)
include hd

/-- A slew that is accepted holds the whole offset and the rate, with SLEWING 1. -/
theorem State.discGo_slews (h : s.goStatus d 1 ppm = .ok) :
    let t := (s.discGo a d 1 ppm).ended a
    (t.tdom d).slew = toSigned 64 (s.get (DISC_STEP_OFFSET d)) * 2 ^ 24 ∧ (t.tdom d).slewPpm = goPpm ppm ∧
      t.on (DISC_STATUS_SLEWING d) = true := by
  have hdap := (disc_outside d hd (DISC_STATUS d) (by simp)).2
  dsimp only
  rw [State.tdom_ended, State.on_ended _ _ hdap, State.discGo_ok a (by decide) h, if_pos (beq_self_eq_true 1), State.tdom_slewStart]
  exact ⟨rfl, rfl, State.on_slewStart ..⟩

/-- A jump that is accepted waits last in line, with BUSY 1. -/
theorem State.discGo_jumps (h0 : op ≠ 0) (h1 : op ≠ 1) (h : s.goStatus d op ppm = .ok) :
    let t := (s.discGo a d op ppm).ended a
    (t.tdom d).jumps = (s.tdom d).jumps ++ [s.goJump d op] ∧ t.on (DISC_STATUS_BUSY d) = true := by
  have hdap := (disc_outside d hd (DISC_STATUS d) (by simp)).2
  dsimp only
  rw [State.tdom_ended, State.on_ended _ _ hdap, State.discGo_ok a h0 h, if_neg (by simpa using h1), State.tdom_jumpAccept, State.tdom_res]
  exact ⟨rfl, State.on_jumpAccept ..⟩

end

/-- Settles O11: the three operations share one judge (`State.goStatus_rows`) and one report (`State.discGo_reported`); they differ in
what makes the step bad in itself, and in what starts with OK. -/
theorem stepRequestsAreJudged : Obligations.StepRequestsAreJudged := by
  intro a d ppm s hr
  refine ⟨⟨s.goStatus d.val 1 ppm.toNat, s.goStatus_rows _ _ _ (s.goBad_slew d.val), .of (exec_discSlew ..) ?slew⟩,
    ⟨s.goStatus d.val 2 ppm.toNat, s.goStatus_rows _ _ _ (s.goBad_jumpBy d.val), .of (exec_discJumpBy ..) ?jumpBy⟩,
    ⟨s.goStatus d.val 3 ppm.toNat, s.goStatus_rows _ _ _ (s.goBad_jumpTo d.val), .of (exec_discJumpTo ..) ?jumpTo⟩⟩
  case slew =>
    rw [State.regAccess_reached _ hr, ← goPpm_toNat]
    obtain ⟨hst, hacc, hsame⟩ := State.discGo_reported (a := a) d.isLt (show 1 ≠ 0 by decide)
    exact ⟨hst, hacc, hsame, State.discGo_slews d.isLt⟩
  case jumpBy =>
    rw [State.regAccess_reached _ hr]
    obtain ⟨hst, hacc, hsame⟩ := State.discGo_reported (a := a) d.isLt (show 2 ≠ 0 by decide)
    exact ⟨hst, hacc, hsame, State.discGo_jumps d.isLt (by decide) (by decide)⟩
  case jumpTo =>
    rw [State.regAccess_reached _ hr]
    obtain ⟨hst, hacc, hsame⟩ := State.discGo_reported (a := a) d.isLt (show 3 ≠ 0 by decide)
    exact ⟨hst, hacc, hsame, State.discGo_jumps d.isLt (by decide) (by decide)⟩

/-! ### A rate word (R75) -/

theorem discRate_fits (d : Nat) : (DISC_RATE_RATE d).fits := by simp [Fld.fits, DISC_RATE_RATE]

theorem vtIrqClamp_fits : VT_IRQ_STATUS_CLAMP.fits := by simp [Fld.fits, VT_IRQ_STATUS_CLAMP]

/-- The rate word that stands for a written one. -/
def rateClamp (v : Nat) : Nat := min (max v rateMin) rateMax

theorem rateClamp_lt (v : Nat) : rateClamp v < 2 ^ 64 := lt_of_le_of_lt (Nat.min_le_right _ _) (by decide)

theorem rateClamp_below {v : Nat} (h : v < rateMin) : rateClamp v = rateMin := by
  have : rateMin ≤ rateMax := by decide
  rw [rateClamp, Nat.max_eq_right h.le, Nat.min_eq_left this]

theorem rateClamp_above {v : Nat} (h : rateMax < v) : rateClamp v = rateMax := by
  have : rateMin ≤ rateMax := by decide
  rw [rateClamp, Nat.max_eq_left (this.trans h.le), Nat.min_eq_right h.le]

theorem rateClamp_within {v : Nat} (h : rateMin ≤ v) (g : v ≤ rateMax) : rateClamp v = v := by
  rw [rateClamp, Nat.max_eq_left h, Nat.min_eq_left g]

theorem State.setRate_eq (s : State) (d v : Nat) : s.setRate d v = (s.put (DISC_RATE_RATE d) (rateClamp v)).when (rateClamp v != v)
    (fun t => (t.raise (DISC_STATUS_CLAMPED d) 1).raise VT_IRQ_STATUS_CLAMP 1) := rfl

section
variable (s : State) (d v : Nat)

/-- Setting a rate word leaves every other field but CLAMPED and its interrupt bit. -/
theorem State.get_setRate {f : Fld} (hr : f.reg ≠ DISC_RATE d) (hc : f.apart (DISC_STATUS_CLAMPED d)) (hi : f.apart VT_IRQ_STATUS_CLAMP) :
    (s.setRate d v).get f = s.get f := by
  obtain ⟨-, -, -, fc⟩ := discStatus_fits d
  rw [State.setRate_eq, ← State.get_put_ne s (f := DISC_RATE_RATE d) (rateClamp v) hr]
  exact State.when_same (State.get · f) _ _
    ((State.get_put_apart _ _ vtIrqClamp_fits hi).trans (State.get_put_apart _ _ fc hc))

theorem State.time_setRate : (s.setRate d v).time = s.time := by
  rw [State.setRate_eq]
  exact State.when_same State.time _ _ rfl

theorem State.rate_setRate : (s.setRate d v).get (DISC_RATE_RATE d) = rateClamp v := by
  have hs : DISC_RATE d ≠ DISC_STATUS d := by simp [DISC_RATE, DISC_STATUS]
  have hi : DISC_RATE d ≠ VT_IRQ_STATUS := by simp only [DISC_RATE, VT_IRQ_STATUS]; omega
  refine (State.when_same (State.get · (DISC_RATE_RATE d)) _ _ ?_).trans (State.get_put_small s (discRate_fits d) (rateClamp_lt v))
  exact (State.get_put_ne _ _ hi).trans (State.get_put_ne _ _ hs)

/-- A word that is cut to a limit is reported. -/
theorem State.setRate_clamped (h : rateClamp v ≠ v) :
    (s.setRate d v).on (DISC_STATUS_CLAMPED d) = true ∧ (s.setRate d v).on VT_IRQ_STATUS_CLAMP = true := by
  obtain ⟨-, -, -, fc⟩ := discStatus_fits d
  have hne : (DISC_STATUS_CLAMPED d).reg ≠ VT_IRQ_STATUS_CLAMP.reg := by
    simp only [DISC_STATUS_CLAMPED, DISC_STATUS, VT_IRQ_STATUS_CLAMP, VT_IRQ_STATUS]
    omega
  rw [State.setRate_eq, bne_iff_ne.mpr h, State.when_true]
  exact ⟨(State.on_put_ne _ _ hne).trans (State.on_raise_one _ fc rfl), State.on_raise_one _ vtIrqClamp_fits rfl⟩

theorem State.setRate_unclamped (h : rateClamp v = v) : s.setRate d v = s.put (DISC_RATE_RATE d) v := by
  rw [State.setRate_eq, h, bne_self_eq_false, State.when_false]

end

theorem exec_rateWordWrite (a : Agent) (d : Dom) (v : Word) (s : State) :
    exec (.rateWordWrite a d v) s = .next (s.regAccess a true (DISC_RATE d.val) 8 fun t => t.rateWrite d.val v.toNat) := rfl

/-- Settles O12: in basic control RESULT alone is written; in expert control the word is set (`State.setRate_eq`), which reports where it
was cut. -/
theorem rateWordIsClamped : Obligations.RateWordIsClamped := by
  intro a d v s hr
  obtain ⟨fr, -, -, -⟩ := discStatus_fits d.val
  obtain ⟨-, -, -, -, -, hrc, hcr⟩ := discStatus_apart d.val
  have hstat := (disc_outside d.val d.isLt (DISC_STATUS d.val) (by simp)).2
  have hrate := (disc_outside d.val d.isLt (DISC_RATE d.val) (by simp)).2
  have hsr : DISC_STATUS d.val ≠ DISC_RATE d.val := by simp [DISC_STATUS, DISC_RATE]
  have hvs : VT_IRQ_STATUS ≠ DISC_STATUS d.val ∧ VT_IRQ_STATUS ≠ DISC_RATE d.val := by simp only [VT_IRQ_STATUS, DISC_STATUS, DISC_RATE]; omega
  have hvd : VT_IRQ_STATUS ≠ DAP_STATUS := by decide
  refine ⟨fun hm => .of (exec_rateWordWrite ..) ?basic, fun hm => .of (exec_rateWordWrite ..) ?expert⟩
  case basic =>
    rw [State.regAccess_reached _ hr, State.get_ended _ _ hstat, State.get_ended _ _ hrate, State.rateWrite, hm]
    exact ⟨State.get_res_byte _ _ fr rfl, State.get_res_ne _ _ hsr.symm⟩
  case expert =>
    rw [State.regAccess_reached _ hr, State.get_ended _ _ hstat, State.get_ended _ _ hrate, State.get_ended _ _ hstat,
      State.get_ended _ _ hvd, State.on_ended _ _ hstat, State.on_ended _ _ hvd, State.time_ended, State.rateWrite, hm]
    simp only [Bool.not_true, Bool.false_eq_true, if_false]
    refine ⟨?_, (State.time_setRate ..).trans (State.time_res ..), fun h => ?_, fun h => ?_, fun h g => ?_⟩
    · exact (State.get_setRate _ _ _ hsr hrc (.inl hvs.1.symm)).trans (State.get_res_byte _ _ fr rfl)
    · have hc := rateClamp_below h
      exact ⟨(State.rate_setRate ..).trans hc, State.setRate_clamped _ _ _ (by rw [hc]; exact h.ne')⟩
    · have hc := rateClamp_above h
      exact ⟨(State.rate_setRate ..).trans hc, State.setRate_clamped _ _ _ (by rw [hc]; exact h.ne)⟩
    · have hc := rateClamp_within h g
      refine ⟨(State.rate_setRate ..).trans hc, ?_, ?_⟩
      · rw [State.setRate_unclamped _ _ _ hc, State.get_put_ne _ _ hsr]
        exact State.get_put_apart _ _ fr hcr
      · rw [State.setRate_unclamped _ _ _ hc, State.get_put_ne _ _ hvs.2]
        exact State.get_res_ne _ _ hvs.1

end Sys2Proof.Machine
end

section
/-! The counters of vehicle time, snapshots, the ends of slews and jumps, and the control write of a domain's discipline
(R74, R77, R78, R81 to R83, R85, R320). -/

namespace Sys2Proof.Machine

open Sys2Proof

/-! ### One element of a series of operations -/

/-- Of operations on different things, that on `a` alone sets `π`: from what the others leave (`ρ`) it follows what `π` is afterwards. -/
theorem State.each_once {α β γ : Type} (ρ : State → γ) (π : State → β) {l : List α} {f : α → State → State} {a : α} {v : β} (s : State)
    (hl : l.Nodup) (ha : a ∈ l) (hv : ∀ t, ρ t = ρ s → π (f a t) = v)
    (ho : ∀ b ∈ l, b ≠ a → ∀ t, ρ (f b t) = ρ t ∧ π (f b t) = π t) : π (s.each l f) = v := by
  have key : ∀ (l : List α), l.Nodup → a ∈ l → (∀ b ∈ l, b ≠ a → ∀ t, ρ (f b t) = ρ t ∧ π (f b t) = π t) →
      ∀ t, ρ t = ρ s → π (t.each l f) = v := by
    intro l
    induction l with
    | nil => exact fun _ h => absurd h List.not_mem_nil
    | cons b l ih =>
      intro hl ha ho t ht
      obtain ⟨hb, hl⟩ := List.nodup_cons.mp hl
      by_cases hba : b = a
      · subst hba
        exact (State.each_same π l (fun c hc u => (ho c (.tail _ hc) (fun e => hb (e ▸ hc)) u).2) _).trans (hv t ht)
      · exact ih hl ((List.mem_cons.mp ha).resolve_left (Ne.symm hba)) (fun c hc => ho c (.tail _ hc)) _
          ((ho b (.head _) hba t).1.trans ht)
  exact key l hl ha ho s rfl

/-! ### Clocks (R74, R78, R320) -/

/-- A domain `n` clocks later, at rate word `rate`. -/
def domAfter (v : DomSt) (rate n : Nat) : DomSt :=
  let most : Nat := n * (rate * v.slewPpm / 1000000)
  let part : Int := if 0 ≤ v.slew then min v.slew most else max v.slew (-(most : Int))
  { v with acc := ((v.acc + n * rate : Nat) + part).toNat, slew := v.slew - part }

theorem State.domTicks_eq (s : State) (n d : Nat) :
    s.domTicks n d = s.setTdom d (domAfter (s.tdom d) (s.get (DISC_RATE_RATE d)) n) := rfl

/-- With no slew in progress the rate word alone counts. -/
theorem domAfter_of_slew_zero {v : DomSt} (h : v.slew = 0) (rate n : Nat) :
    (domAfter v rate n).acc = v.acc + n * rate ∧ (domAfter v rate n).slew = 0 := by
  have hmin (m : Nat) : min (0 : Int) m = 0 := min_eq_left (Int.natCast_nonneg m)
  unfold domAfter
  simp only [h, le_refl, if_true, hmin, add_zero, Int.toNat_natCast, sub_zero, and_self]

/-- The clocks of the enabled domains: each counts by itself, and no other moves. -/
theorem State.tdom_domTicks (s : State) (n : Nat) {l : List Nat} (hl : l.Nodup) (d : Nat) : (s.each l (fun d t => t.domTicks n d)).tdom d =
    if d ∈ l then domAfter (s.tdom d) (s.get (DISC_RATE_RATE d)) n else s.tdom d := by
  split
  case isTrue hd =>
    refine State.each_once (fun t => (t.tdom d, t.get (DISC_RATE_RATE d))) (fun t => t.tdom d) s hl hd (fun t ht => ?_) fun b _ hb t => ?_
    · obtain ⟨h1, h2⟩ := Prod.mk.inj ht
      rw [State.domTicks_eq, State.tdom_setTdom_self, h1, h2]
    · have hk : (t.domTicks n b).tdom d = t.tdom d := by rw [State.domTicks_eq, State.tdom_setTdom, if_neg (Ne.symm hb)]
      exact ⟨Prod.ext hk rfl, hk⟩
  case isFalse hd =>
    refine State.each_same (fun t => t.tdom d) l (fun b hb t => ?_) s
    rw [State.domTicks_eq, State.tdom_setTdom, if_neg (fun e : d = b => hd (e ▸ hb))]

/-- The watchdogs count in their own parts of the state. -/
theorem State.dogTicks_frame (s : State) (n : Nat) : ∃ w g, s.dogTicks n = { s with world := w, guard := g } := by
  unfold State.dogTicks
  dsimp only
  split <;> exact ⟨_, _, rfl⟩

/-- The timekeepers count in their harts. -/
theorem State.tkCycles_frame (s : State) (n : Nat) : ∃ c, s.tkCycles n = { s with cpu := c } :=
  State.each_keeps (P := fun t => ∃ c, t = { s with cpu := c }) _ ⟨s.cpu, rfl⟩ (by rintro k - t ⟨c, rfl⟩; exact ⟨_, rfl⟩)

/-- The domains count in the time unit. -/
theorem State.domTicks_frame (s : State) (n : Nat) (l : List Nat) : ∃ τ, s.each l (fun d t => t.domTicks n d) = { s with time := τ } :=
  State.each_keeps (P := fun t => ∃ τ, t = { s with time := τ }) l ⟨s.time, rfl⟩ (by rintro d - t ⟨τ, rfl⟩; exact ⟨_, rfl⟩)

/-- The domains that count. -/
def State.counting (s : State) (d : Nat) : Bool := s.timeRuns && s.domEnabled d

/-- Every counter of the time unit after `n` clocks. -/
theorem State.tick_counts (s : State) (n : Nat) :
    (s.tick n).ticks = s.ticks + n ∧ (s.tick n).mticks = (if s.asleep then s.mticks else s.mticks + n) ∧ (s.tick n).regs = s.regs ∧
      ∀ d < 4, (s.tick n).tdom d = if s.counting d then domAfter (s.tdom d) (s.get (DISC_RATE_RATE d)) n else s.tdom d := by
  obtain ⟨w, g, hu⟩ := ({ s with ticks := s.ticks + n, mticks := if s.asleep then s.mticks else s.mticks + n }).dogTicks_frame n
  unfold State.tick
  rw [hu]
  dsimp only
  generalize hv : (State.mk _ _ _ _ _ _ _ _ _ _ _ _ _ _ _ _ _ _ _ _ _ _ _ : State) = u
  have hrun : u.timeRuns = s.timeRuns := by subst hv; rfl
  have hdom : ∀ d, u.domEnabled d = s.domEnabled d ∧ u.tdom d = s.tdom d ∧ u.get (DISC_RATE_RATE d) = s.get (DISC_RATE_RATE d) :=
    fun d => by subst hv; exact ⟨rfl, rfl, rfl⟩
  have hcount : u.ticks = s.ticks + n ∧ u.mticks = (if s.asleep then s.mticks else s.mticks + n) ∧ u.regs = s.regs := by
    subst hv; exact ⟨rfl, rfl, rfl⟩
  obtain ⟨hticks, hmticks, hregs⟩ := hcount
  rw [hrun]
  cases hr : s.timeRuns with
  | false =>
    obtain ⟨c, hc⟩ := u.tkCycles_frame n
    simp only [Bool.false_eq_true, if_false, hc]
    refine ⟨hticks, hmticks, hregs, fun d _ => ?_⟩
    rw [State.counting, hr]
    exact (hdom d).2.1
  | true =>
    have hl : ((List.range 4).filter fun d => u.domEnabled d).Nodup := List.nodup_range.filter _
    have htd := u.tdom_domTicks n hl
    obtain ⟨τ, hτ⟩ := u.domTicks_frame n ((List.range 4).filter fun d => u.domEnabled d)
    obtain ⟨c, hc⟩ := ({ u with time := τ } : State).tkCycles_frame n
    rw [hτ] at htd
    simp only [if_true, hτ, hc]
    refine ⟨hticks, hmticks, hregs, fun d hd => ?_⟩
    rw [State.counting, hr, Bool.true_and, ← (hdom d).1, ← (hdom d).2.1, ← (hdom d).2.2]
    refine (htd d).trans ?_
    simp only [List.mem_filter, List.mem_range, hd, true_and]

theorem exec_timeClockTick (n : Nat) (s : State) : exec (.timeClockTick n) s = .next (s.tick n) := rfl

theorem timeClockTick_counts (n : Nat) (s : State) : Completes (.timeClockTick n) s fun t =>
    t.ticks = s.ticks + n ∧ t.mticks = (if s.asleep then s.mticks else s.mticks + n) ∧ t.regs = s.regs ∧
    ∀ d < 4, (s.domEnabled d = false ∨ s.timeRuns = false → t.tdom d = s.tdom d) ∧
      (s.timeRuns = true → s.domEnabled d = true → (s.tdom d).slew = 0 →
        (t.tdom d).acc = (s.tdom d).acc + n * s.get (DISC_RATE_RATE d) ∧ (t.tdom d).slew = 0) := by
  obtain ⟨hticks, hmticks, hregs, htd⟩ := s.tick_counts n
  refine .of (exec_timeClockTick ..) ⟨hticks, hmticks, hregs, fun d hd => ⟨fun h => ?_, fun hr he hs => ?_⟩⟩
  · have hc : s.counting d = false := by rcases h with h | h <;> simp [State.counting, h]
    rw [htd d hd, hc]
    rfl
  · rw [htd d hd, State.counting, hr, he]
    exact domAfter_of_slew_zero hs _ _

/-! ### Snapshots (R77) -/

/-- The snapshot of one domain. -/
def State.snapOne (s : State) (d : Nat) : State :=
  (s.wr (VT_SNAP_LO d) (packBits [(0, 16, (s.tdom d).acc / 2 ^ 24), (16, 32, (s.tdom d).acc / 2 ^ 40 % 1000000000)])).wr (VT_SNAP_HI d)
    (packBits [(0, 48, (s.tdom d).acc / 2 ^ 40 / 1000000000), (48, 16, s.get (VT_DSEQ_DSEQ d))])

theorem State.vtSnap_eq (s : State) : s.vtSnap = s.each (List.range 4) (fun d t => t.snapOne d) := rfl

theorem packBits_snapLo (x y : Nat) : packBits [(0, 16, x), (16, 32, y)] < 2 ^ 64 ∧
    bitsOf (packBits [(0, 16, x), (16, 32, y)]) 0 16 = x % 2 ^ 16 ∧ bitsOf (packBits [(0, 16, x), (16, 32, y)]) 16 32 = y % 2 ^ 32 := by
  simp only [packBits, bitsOf]
  omega

theorem packBits_snapHi (x y : Nat) : packBits [(0, 48, x), (48, 16, y)] < 2 ^ 64 ∧
    bitsOf (packBits [(0, 48, x), (48, 16, y)]) 0 48 = x % 2 ^ 48 ∧ bitsOf (packBits [(0, 48, x), (48, 16, y)]) 48 16 = y % 2 ^ 16 := by
  simp only [packBits, bitsOf]
  omega

theorem vtSnap_ne (d b : Nat) : VT_SNAP_LO d ≠ VT_SNAP_HI b ∧ (d ≠ b → VT_SNAP_LO d ≠ VT_SNAP_LO b ∧ VT_SNAP_HI d ≠ VT_SNAP_HI b) := by
  simp only [VT_SNAP_LO, VT_SNAP_HI]
  omega

/-- A snapshot writes its two registers alone. -/
theorem State.rd_snapOne_ne (s : State) {d k : Nat} (hl : k ≠ VT_SNAP_LO d) (hh : k ≠ VT_SNAP_HI d) : (s.snapOne d).rd k = s.rd k := by
  rw [State.snapOne, State.rd_wr_ne _ _ hh, State.rd_wr_ne _ _ hl]

theorem State.rd_snapOne (s : State) (d : Nat) :
    (s.snapOne d).rd (VT_SNAP_LO d) = packBits [(0, 16, (s.tdom d).acc / 2 ^ 24), (16, 32, (s.tdom d).acc / 2 ^ 40 % 1000000000)] ∧
    (s.snapOne d).rd (VT_SNAP_HI d) = packBits [(0, 48, (s.tdom d).acc / 2 ^ 40 / 1000000000), (48, 16, s.get (VT_DSEQ_DSEQ d))] := by
  rw [State.snapOne, State.rd_wr_ne _ _ (vtSnap_ne d d).1, State.rd_wr_self, State.rd_wr_self,
    Nat.mod_eq_of_lt (packBits_snapLo ..).1, Nat.mod_eq_of_lt (packBits_snapHi ..).1]
  exact ⟨rfl, rfl⟩

theorem vtDseq_ne_snap : ∀ d < 4, ∀ b < 4, VT_DSEQ d ≠ VT_SNAP_LO b ∧ VT_DSEQ d ≠ VT_SNAP_HI b := by decide

/-- The two registers of a domain after the snapshot of all. -/
theorem State.rd_vtSnap (s : State) {d : Nat} (hd : d < 4) :
    (s.vtSnap.rd (VT_SNAP_LO d), s.vtSnap.rd (VT_SNAP_HI d)) =
      (packBits [(0, 16, (s.tdom d).acc / 2 ^ 24), (16, 32, (s.tdom d).acc / 2 ^ 40 % 1000000000)],
        packBits [(0, 48, (s.tdom d).acc / 2 ^ 40 / 1000000000), (48, 16, s.get (VT_DSEQ_DSEQ d))]) := by
  rw [State.vtSnap_eq]
  refine State.each_once (fun t => (t.tdom d, t.get (VT_DSEQ_DSEQ d))) (fun t => (t.rd (VT_SNAP_LO d), t.rd (VT_SNAP_HI d))) s
    List.nodup_range (List.mem_range.mpr hd) (fun t ht => ?_) fun b hb hne t => ?_
  · obtain ⟨h1, h2⟩ := Prod.mk.inj ht
    rw [(t.rd_snapOne d).1, (t.rd_snapOne d).2, h1, h2]
  · obtain ⟨hlo, hhi⟩ := (vtSnap_ne d b).2 (Ne.symm hne)
    obtain ⟨hql, hqh⟩ := vtDseq_ne_snap d hd b (List.mem_range.mp hb)
    refine ⟨Prod.ext rfl (congrArg (bitsOf · 0 16) (t.rd_snapOne_ne hql hqh)), Prod.ext ?_ ?_⟩
    · exact t.rd_snapOne_ne hlo (vtSnap_ne d b).1
    · exact t.rd_snapOne_ne (vtSnap_ne b d).1.symm hhi

theorem exec_vtSnap (a : Agent) (s : State) : exec (.vtSnap a) s = .next (s.regAccess a true VT_CTL 4 State.vtSnap) := rfl

theorem vtSnap_latches {a : Agent} {s : State} (hr : s.Reached a true VT_CTL 4) : Completes (.vtSnap a) s fun t =>
    t.time = s.time ∧ (∀ d < 4,
      t.get (⟨VT_SNAP_LO d, 0, 16⟩) = (s.tdom d).acc / 2 ^ 24 % 2 ^ 16 ∧
      t.get (⟨VT_SNAP_LO d, 16, 32⟩) = (s.tdom d).acc / 2 ^ 40 % 1000000000 ∧
      t.get (⟨VT_SNAP_HI d, 0, 48⟩) = (s.tdom d).acc / 2 ^ 40 / 1000000000 % 2 ^ 48 ∧
      t.get (⟨VT_SNAP_HI d, 48, 16⟩) = s.get (VT_DSEQ_DSEQ d)) ∧
    ∀ k, (∀ d < 4, k ≠ VT_SNAP_LO d ∧ k ≠ VT_SNAP_HI d) → k ≠ DAP_STATUS → t.rd k = s.rd k := by
  have hdap : ∀ d < 4, VT_SNAP_LO d ≠ DAP_STATUS ∧ VT_SNAP_HI d ≠ DAP_STATUS := by decide
  refine .of (exec_vtSnap ..) ?_
  rw [State.regAccess_reached _ hr]
  refine ⟨?_, fun d hd => ?_, fun k hk hkd => ?_⟩
  · rw [State.time_ended, State.vtSnap_eq]
    exact State.each_same State.time _ (f := fun d t => t.snapOne d) (fun _ _ _ => rfl) s
  · obtain ⟨hlo, hhi⟩ := hdap d hd
    obtain ⟨h1, h2⟩ := Prod.mk.inj (s.rd_vtSnap hd)
    have hns : (s.tdom d).acc / 2 ^ 40 % 1000000000 < 2 ^ 32 := lt_trans (Nat.mod_lt _ (by decide)) (by decide)
    have hq : s.get (VT_DSEQ_DSEQ d) < 2 ^ 16 := s.get_lt _
    obtain ⟨-, hl1, hl2⟩ := packBits_snapLo ((s.tdom d).acc / 2 ^ 24) ((s.tdom d).acc / 2 ^ 40 % 1000000000)
    obtain ⟨-, hh1, hh2⟩ := packBits_snapHi ((s.tdom d).acc / 2 ^ 40 / 1000000000) (s.get (VT_DSEQ_DSEQ d))
    simp only [State.get, State.rd_ended _ _ hlo, State.rd_ended _ _ hhi, h1, h2]
    exact ⟨hl1, hl2.trans (Nat.mod_eq_of_lt hns), hh1, hh2.trans (Nat.mod_eq_of_lt hq)⟩
  · rw [State.rd_ended _ _ hkd, State.vtSnap_eq]
    exact State.each_same (State.rd · k) _ (fun d hd t => by
      obtain ⟨hl, hh⟩ := hk d (List.mem_range.mp hd)
      exact t.rd_snapOne_ne hl hh) s

/-! ### The end of a slew and of a jump's delivery (R78, R81) -/

theorem exec_slewComplete (d : Dom) (s : State) : exec (.slewComplete d) s =
    .next (if s.on (DISC_STATUS_SLEWING d.val) && (s.tdom d.val).slew == 0
      then (s.put (DISC_STATUS_SLEWING d.val) 0).put (DISC_REMAIN_OFFSET d.val) 0 else s) := rfl

theorem slewComplete_clears {d : Dom} {s : State} (ho : s.on (DISC_STATUS_SLEWING d.val) = true) (hz : (s.tdom d.val).slew = 0) :
    Completes (.slewComplete d) s fun t =>
      t.on (DISC_STATUS_SLEWING d.val) = false ∧ t.get (DISC_REMAIN_OFFSET d.val) = 0 ∧ t.time = s.time := by
  obtain ⟨-, -, fs, -⟩ := discStatus_fits d.val
  have fr : (DISC_REMAIN_OFFSET d.val).fits := by simp [Fld.fits, DISC_REMAIN_OFFSET]
  have hne : DISC_STATUS d.val ≠ DISC_REMAIN d.val := by simp [DISC_STATUS, DISC_REMAIN]
  refine .of (exec_slewComplete d s) ?_
  rw [ho, hz, Bool.true_and, if_pos (beq_self_eq_true _)]
  exact ⟨(State.on_put_ne _ _ hne).trans (State.on_put_zero _ fs rfl), State.get_put_self _ _ fr, rfl⟩

theorem exec_jumpDeliveryDone (d : Dom) (s : State) : exec (.jumpDeliveryDone d) s =
    .next (if (s.tdom d.val).delivering then
      (s.setTdom d.val { s.tdom d.val with delivering := false }).put (DISC_STATUS_BUSY d.val) (b2n (!(s.tdom d.val).jumps.isEmpty)) else s) := rfl

theorem jumpDeliveryDone_clears {d : Dom} {s : State} (hd : (s.tdom d.val).delivering = true) : Completes (.jumpDeliveryDone d) s fun t =>
    t.on (DISC_STATUS_BUSY d.val) = !(s.tdom d.val).jumps.isEmpty ∧ (t.tdom d.val).delivering = false := by
  obtain ⟨-, fb, -⟩ := discStatus_fits d.val
  refine .of (exec_jumpDeliveryDone d s) ?_
  rw [hd, if_pos rfl]
  exact ⟨State.on_put_b2n _ _ fb rfl, by rw [State.tdom_put, State.tdom_setTdom_self]⟩

/-! ### The synchronisation state (R85) -/

theorem vtState_fits {d : Nat} (hd : d < 4) : (VT_STATUS_STATE d).fits := by
  simp only [Fld.fits, VT_STATUS_STATE]
  omega

theorem discCtl_fits (d : Nat) : (DISC_CTL_MODE d).fits ∧ (DISC_CTL_PRESET d).fits ∧ (DISC_CTL_SWSTATE d).fits := by
  simp [Fld.fits, DISC_CTL_MODE, DISC_CTL_PRESET, DISC_CTL_SWSTATE]

/-- A domain enters a state: what `VT_STATUS` shows, and what the domain counts toward the next. -/
def State.enterState (s : State) (d new : Nat) : State :=
  (s.put (VT_STATUS_STATE d) new).setTdom d
    { s.tdom d with syncRun := 0, fromMaster := false, everLocked := (s.tdom d).everLocked || new == 3 }

/-- The registers that show a change of state, before its record. -/
def State.showState (s : State) (d new : Nat) : State :=
  ((s.enterState d new).when (!(s.enterState d new).on (DISC_CTL_MODE d)) (fun u => u.put (DISC_CTL_SWSTATE d) new)).raise
    VT_IRQ_STATUS_STATE (2 ^ d)

theorem State.get_enterState (s : State) (d new : Nat) {f : Fld} (h : f.reg ≠ VT_STATUS) : (s.enterState d new).get f = s.get f := by
  rw [State.enterState, State.get_setTdom, State.get_put_ne _ _ h]

/-- A field outside the interrupt register shows the state entered, and the software state where the mode is basic. -/
theorem State.get_showState (s : State) (d new : Nat) {f : Fld} (hi : f.reg ≠ VT_IRQ_STATUS)
    (hc : f.apart (DISC_CTL_SWSTATE d) ∨ (s.enterState d new).on (DISC_CTL_MODE d) = true) :
    (s.showState d new).get f = (s.enterState d new).get f := by
  have fc : (DISC_CTL_SWSTATE d).fits := by simp [Fld.fits, DISC_CTL_SWSTATE]
  rw [State.showState, State.raise, State.get_put_ne _ _ hi]
  rcases hc with hc | hm
  · exact State.when_same (fun t => t.get f) _ _ (State.get_put_apart _ _ fc hc)
  · rw [hm, Bool.not_true, State.when_false]

/-- A state that stays leaves everything; one that changes is shown and recorded. -/
theorem State.setTState_cases (s : State) (d new : Nat) :
    (s.syncState d = new ∧ s.setTState d new = s) ∨ (s.syncState d ≠ new ∧ LogOnly (s.showState d new) (s.setTState d new)) := by
  unfold State.setTState
  dsimp only
  split
  case isTrue h => exact .inl ⟨eq_of_beq h, rfl⟩
  case isFalse h => exact .inr ⟨fun e => h (beq_iff_eq.mpr e), .ofLdg (.accept ..)⟩

/-- A change of state leaves a field that shows no state. -/
theorem State.get_setTState (s : State) {d new : Nat} {f : Fld} (hs : f.reg ≠ VT_STATUS) (hi : f.reg ≠ VT_IRQ_STATUS) (hl : f.reg ∉ logRegs)
    (hc : f.apart (DISC_CTL_SWSTATE d) ∨ s.on (DISC_CTL_MODE d) = true) : (s.setTState d new).get f = s.get f := by
  have hcs : DISC_CTL d ≠ VT_STATUS := by simp only [DISC_CTL, VT_STATUS]; omega
  have hmode : (s.enterState d new).on (DISC_CTL_MODE d) = s.on (DISC_CTL_MODE d) := congrArg (· == 1) (s.get_enterState d new hcs)
  rcases s.setTState_cases d new with ⟨-, h⟩ | ⟨-, h⟩
  · rw [h]
  · rw [h.get hl, State.get_showState _ _ _ hi (by rwa [hmode]), State.get_enterState _ _ _ hs]

/-- The state is the one set. -/
theorem State.syncState_setTState (s : State) {d new : Nat} (hd : d < 4) (hn : new < 8) : (s.setTState d new).syncState d = new := by
  have hsc : VT_STATUS ≠ DISC_CTL d ∧ VT_STATUS ≠ VT_IRQ_STATUS := by simp only [DISC_CTL, VT_STATUS, VT_IRQ_STATUS]; omega
  rcases s.setTState_cases d new with ⟨hs, h⟩ | ⟨-, h⟩
  · rw [h, hs]
  · rw [State.syncState, h.get (disc_outside d hd VT_STATUS (by simp)).1, State.get_showState _ _ _ hsc.2 (.inl (.inl hsc.1)),
      State.enterState, State.get_setTdom]
    exact State.get_put_small s (vtState_fits hd) hn

/-! ### `DISC_CTL` (R82, R83) -/

/-- The thresholds of a preset go to `DISC_THR`. -/
def State.loadPreset (s : State) (d preset : Nat) : State :=
  let (j, l, c) := presetThr preset (s.get (DISC_THR_JUMP_THR d))
  ((s.put (DISC_THR_JUMP_THR d) j).put (DISC_THR_LOCK_THR d) l).put (DISC_THR_LOCK_COUNT d) c

/-- `DISC_CTL` with its mode and preset, the thresholds of a new preset loaded. -/
def State.ctlStored (s : State) (d : Nat) (mode : Bool) (preset : Nat) : State :=
  ((s.when (preset != s.get (DISC_CTL_PRESET d)) (fun t => t.loadPreset d preset)).put (DISC_CTL_PRESET d) preset).put (DISC_CTL_MODE d) (b2n mode)

theorem State.discCtl_eq (s : State) (d : Nat) (mode : Bool) (preset sw : Nat) : s.discCtl d mode preset sw =
    if s.on (DISC_CTL_MODE d) && mode && (sw < 4 || (sw == 4 && ((s.ctlStored d mode preset).tdom d).isGm)) then
      ((s.ctlStored d mode preset).put (DISC_CTL_SWSTATE d) sw).setTState d sw
    else s.ctlStored d mode preset := rfl

theorem discCtl_apart (d : Nat) : (DISC_CTL_MODE d).apart (DISC_CTL_SWSTATE d) ∧ (DISC_CTL_PRESET d).apart (DISC_CTL_SWSTATE d) ∧
    (DISC_CTL_PRESET d).apart (DISC_CTL_MODE d) := by
  simp [Fld.apart, DISC_CTL_MODE, DISC_CTL_PRESET, DISC_CTL_SWSTATE]

theorem discThr_ne (d : Nat) : DISC_THR d ≠ DISC_CTL d ∧ DISC_THR d ≠ VT_STATUS ∧ DISC_THR d ≠ VT_IRQ_STATUS := by
  simp only [DISC_THR, DISC_CTL, VT_STATUS, VT_IRQ_STATUS]
  omega

/-- A register is its own field of 64 bits. -/
theorem State.get_whole (s : State) (k : Nat) : s.get ⟨k, 0, 64⟩ = s.rd k := by
  rw [State.get, bitsOf, pow_zero, Nat.div_one, Nat.mod_eq_of_lt (s.rd_lt k)]

section
variable (s : State) (d : Nat) (mode : Bool) {preset : Nat}

theorem State.ctlStored_ctl (hp : preset < 4) :
    (s.ctlStored d mode preset).on (DISC_CTL_MODE d) = mode ∧ (s.ctlStored d mode preset).get (DISC_CTL_PRESET d) = preset := by
  obtain ⟨fm, fp, -⟩ := discCtl_fits d
  obtain ⟨-, -, hpm⟩ := discCtl_apart d
  exact ⟨State.on_put_b2n _ _ fm rfl, (State.get_put_apart _ _ fm hpm).trans (State.get_put_small _ fp hp)⟩

/-- Storing mode and preset leaves the registers besides `DISC_CTL` and `DISC_THR`. -/
theorem State.get_ctlStored {f : Fld} (hc : f.reg ≠ DISC_CTL d) (ht : f.reg ≠ DISC_THR d) : (s.ctlStored d mode preset).get f = s.get f := by
  rw [State.ctlStored, State.get_put_ne _ _ hc, State.get_put_ne _ _ hc]
  refine State.when_same (fun t => t.get f) s _ ?_
  rw [State.loadPreset]
  dsimp only
  rw [State.get_put_ne _ _ ht, State.get_put_ne _ _ ht, State.get_put_ne _ _ ht]

/-- The thresholds stay with a preset that stays. -/
theorem State.thr_ctlStored_same (hp : preset = s.get (DISC_CTL_PRESET d)) (f : Fld) (ht : f.reg = DISC_THR d) :
    (s.ctlStored d mode preset).get f = s.get f := by
  obtain ⟨htc, -, -⟩ := discThr_ne d
  rw [← ht] at htc
  rw [State.ctlStored, State.get_put_ne _ _ htc, State.get_put_ne _ _ htc, hp, bne_self_eq_false, State.when_false]

/-- The thresholds of preset 2. -/
theorem State.thr_ctlStored_two (hp : 2 ≠ s.get (DISC_CTL_PRESET d)) : (s.ctlStored d mode 2).get (DISC_THR_JUMP_THR d) = 1000 ∧
    (s.ctlStored d mode 2).get (DISC_THR_LOCK_THR d) = 20 ∧ (s.ctlStored d mode 2).get (DISC_THR_LOCK_COUNT d) = 4 := by
  obtain ⟨htc, -, -⟩ := discThr_ne d
  have fits : (DISC_THR_JUMP_THR d).fits ∧ (DISC_THR_LOCK_THR d).fits ∧ (DISC_THR_LOCK_COUNT d).fits := by
    simp [Fld.fits, DISC_THR_JUMP_THR, DISC_THR_LOCK_THR, DISC_THR_LOCK_COUNT]
  have ap : (DISC_THR_JUMP_THR d).apart (DISC_THR_LOCK_THR d) ∧ (DISC_THR_JUMP_THR d).apart (DISC_THR_LOCK_COUNT d) ∧
      (DISC_THR_LOCK_THR d).apart (DISC_THR_LOCK_COUNT d) := by
    simp [Fld.apart, DISC_THR_JUMP_THR, DISC_THR_LOCK_THR, DISC_THR_LOCK_COUNT]
  obtain ⟨fj, fl, fc⟩ := fits
  obtain ⟨hjl, hjc, hlc⟩ := ap
  have hstored (f : Fld) (hf : f.reg = DISC_THR d) : (s.ctlStored d mode 2).get f = (s.loadPreset d 2).get f := by
    rw [← hf] at htc
    rw [State.ctlStored, State.get_put_ne _ _ htc, State.get_put_ne _ _ htc, bne_iff_ne.mpr hp, State.when_true]
  have hload : s.loadPreset d 2 = ((s.put (DISC_THR_JUMP_THR d) 1000).put (DISC_THR_LOCK_THR d) 20).put (DISC_THR_LOCK_COUNT d) 4 := rfl
  rw [hstored _ rfl, hstored _ rfl, hstored _ rfl, hload, State.get_put_apart _ _ fc hjc, State.get_put_apart _ _ fl hjl,
    State.get_put_apart _ _ fc hlc]
  exact ⟨State.get_put_small _ fj (show 1000 < 2 ^ 32 by decide), State.get_put_small _ fl (show 20 < 2 ^ 16 by decide),
    State.get_put_small _ fc (show 4 < 2 ^ 8 by decide)⟩

/-- Whatever is declared, a field that shows no state is as stored. -/
theorem State.get_discCtl (sw : Nat) {f : Fld} (hs : f.reg ≠ VT_STATUS) (hi : f.reg ≠ VT_IRQ_STATUS) (hl : f.reg ∉ logRegs)
    (hc : f.apart (DISC_CTL_SWSTATE d)) : (s.discCtl d mode preset sw).get f = (s.ctlStored d mode preset).get f := by
  rw [State.discCtl_eq]
  split
  · rw [State.get_setTState _ hs hi hl (.inl hc), State.get_put_apart _ _ (discCtl_fits d).2.2 hc]
  · rfl

/-- No state is declared in basic control, nor by a reserved value. -/
theorem State.syncState_discCtl_kept {sw : Nat} (h : mode = false ∨ s.on (DISC_CTL_MODE d) = false ∨ 5 ≤ sw) :
    (s.discCtl d mode preset sw).syncState d = s.syncState d := by
  have hsc : VT_STATUS ≠ DISC_CTL d ∧ VT_STATUS ≠ DISC_THR d := by simp only [VT_STATUS, DISC_CTL, DISC_THR]; omega
  have hno : (s.on (DISC_CTL_MODE d) && mode && (sw < 4 || (sw == 4 && ((s.ctlStored d mode preset).tdom d).isGm))) = false := by
    rcases h with h | h | h
    · simp [h]
    · simp [h]
    · simp [show ¬ sw < 4 by omega, show sw ≠ 4 by omega]
  rw [State.discCtl_eq, hno, if_neg (by decide)]
  exact s.get_ctlStored d mode hsc.1 hsc.2

/-- In expert control a state is declared. -/
theorem State.discCtl_declares {sw : Nat} (hd : d < 4) (hm : s.on (DISC_CTL_MODE d) = true) (hs : sw < 4) :
    (s.discCtl d true preset sw).syncState d = sw ∧ (s.discCtl d true preset sw).get (DISC_CTL_SWSTATE d) = sw := by
  obtain ⟨fm, -, fs⟩ := discCtl_fits d
  have hcs : DISC_CTL d ≠ VT_STATUS ∧ DISC_CTL d ≠ VT_IRQ_STATUS := by simp only [DISC_CTL, VT_STATUS, VT_IRQ_STATUS]; omega
  have hmode : ((s.ctlStored d true preset).put (DISC_CTL_SWSTATE d) sw).on (DISC_CTL_MODE d) = true :=
    (State.on_put_apart _ _ fs (discCtl_apart d).1).trans (State.on_put_b2n _ true fm rfl)
  rw [State.discCtl_eq, hm, decide_eq_true hs, Bool.true_or, Bool.and_self, Bool.and_self, if_pos rfl]
  refine ⟨State.syncState_setTState _ hd (by omega), ?_⟩
  rw [State.get_setTState _ hcs.1 hcs.2 (disc_outside d hd (DISC_CTL d) (by simp)).1 (.inr hmode)]
  exact State.get_put_small _ fs (lt_trans hs (show 4 < 2 ^ 3 by decide))

end

theorem exec_discCtlWrite (a : Agent) (d : Dom) (mode : Bool) (preset : BitVec 2) (sw : BitVec 3) (s : State) :
    exec (.discCtlWrite a d mode preset sw) s =
      .next (s.regAccess a true (DISC_CTL d.val) 4 fun t => t.discCtl d.val mode preset.toNat sw.toNat) := rfl

theorem discCtlWrite_stores {a : Agent} {d : Dom} {s : State} (mode : Bool) (preset : BitVec 2) (sw : BitVec 3)
    (hr : s.Reached a true (DISC_CTL d.val) 4) : Completes (.discCtlWrite a d mode preset sw) s fun t =>
      t.on (DISC_CTL_MODE d.val) = mode ∧ t.get (DISC_CTL_PRESET d.val) = preset.toNat ∧
      (preset.toNat = s.get (DISC_CTL_PRESET d.val) → t.rd (DISC_THR d.val) = s.rd (DISC_THR d.val)) ∧
      (preset.toNat ≠ s.get (DISC_CTL_PRESET d.val) → preset = 2 →
        t.get (DISC_THR_JUMP_THR d.val) = 1000 ∧ t.get (DISC_THR_LOCK_THR d.val) = 20 ∧ t.get (DISC_THR_LOCK_COUNT d.val) = 4) ∧
      (mode = false ∨ s.on (DISC_CTL_MODE d.val) = false ∨ 5 ≤ sw.toNat → t.syncState d.val = s.syncState d.val) ∧
      (mode = true → s.on (DISC_CTL_MODE d.val) = true → sw.toNat < 4 →
        t.syncState d.val = sw.toNat ∧ t.get (DISC_CTL_SWSTATE d.val) = sw.toNat) := by
  obtain ⟨hcl, hcd⟩ := disc_outside d.val d.isLt (DISC_CTL d.val) (by simp)
  obtain ⟨htl, htd⟩ := disc_outside d.val d.isLt (DISC_THR d.val) (by simp)
  have hsd : VT_STATUS ≠ DAP_STATUS := by decide
  obtain ⟨htc, hts, hti⟩ := discThr_ne d.val
  have hcs : DISC_CTL d.val ≠ VT_STATUS ∧ DISC_CTL d.val ≠ VT_IRQ_STATUS := by simp only [DISC_CTL, VT_STATUS, VT_IRQ_STATUS]; omega
  obtain ⟨hms, hps, -⟩ := discCtl_apart d.val
  obtain ⟨hmode, hpreset⟩ := s.ctlStored_ctl d.val mode preset.isLt
  have hctl {f : Fld} (hf : f.reg = DISC_CTL d.val) (ha : f.apart (DISC_CTL_SWSTATE d.val)) :
      ((s.discCtl d.val mode preset.toNat sw.toNat).ended a).get f = (s.ctlStored d.val mode preset.toNat).get f := by
    rw [State.get_ended _ _ (hf ▸ hcd), State.get_discCtl _ _ _ _ (hf ▸ hcs.1) (hf ▸ hcs.2) (hf ▸ hcl) ha]
  have hthr {f : Fld} (hf : f.reg = DISC_THR d.val) :
      ((s.discCtl d.val mode preset.toNat sw.toNat).ended a).get f = (s.ctlStored d.val mode preset.toNat).get f := by
    rw [State.get_ended _ _ (hf ▸ htd), State.get_discCtl _ _ _ _ (hf ▸ hts) (hf ▸ hti) (hf ▸ htl) (.inl (hf ▸ htc))]
  have hstate : ((s.discCtl d.val mode preset.toNat sw.toNat).ended a).syncState d.val =
      (s.discCtl d.val mode preset.toNat sw.toNat).syncState d.val := State.get_ended _ _ hsd
  refine .of (exec_discCtlWrite ..) ?_
  rw [State.regAccess_reached _ hr]
  refine ⟨?_, (hctl rfl hps).trans hpreset, fun h => ?_, fun h h2 => ?_, fun h => ?_, fun h hm hs => ?_⟩
  · exact (congrArg (· == 1) (hctl rfl hms)).trans hmode
  · rw [← State.get_whole, hthr rfl, s.thr_ctlStored_same d.val mode h _ rfl, State.get_whole]
  · subst h2
    rw [hthr rfl, hthr rfl, hthr rfl]
    exact s.thr_ctlStored_two d.val mode h
  · exact hstate.trans (s.syncState_discCtl_kept d.val mode h)
  · subst h
    obtain ⟨h1, h2⟩ := s.discCtl_declares d.val (preset := preset.toNat) d.isLt hm hs
    exact ⟨hstate.trans h1, (State.get_ended _ _ hcd).trans h2⟩

/-- Settles O13, clause by clause: the tick is counted by each part alone (`State.tick_counts`), a snapshot by each domain in its own two
registers (`State.rd_vtSnap`), and the control write stores before it declares (`State.discCtl_eq`). -/
theorem vehicleTimeCounts : Obligations.VehicleTimeCounts :=
  ⟨timeClockTick_counts, fun _ _ hr => vtSnap_latches hr, fun _ _ ho hz => slewComplete_clears ho hz,
    fun _ _ hd => jumpDeliveryDone_clears hd, fun _ _ mode preset sw _ hr => discCtlWrite_stores mode preset sw hr⟩

end Sys2Proof.Machine
end

section
/-! The tick at which a jump takes effect: the new time and sequence of its domain, and what the gates of the switch follow of it
(R72, R78, R81, R87, R88, R228). -/

namespace Sys2Proof.Machine

open Sys2Proof

/-! ### The gates of the switch (R226 to R228) -/

/-- From `s` to `t` the switch and registers of its ports may differ: nothing of the time unit, and no register below those of NET's ports. -/
structure PortsOnly (s t : State) : Prop where
  time : t.time = s.time
  reg : ∀ k < 0x45100000, t.rd k = s.rd k

theorem PortsOnly.refl (s : State) : PortsOnly s s := ⟨rfl, fun _ _ => rfl⟩

theorem PortsOnly.trans {s t u : State} (h : PortsOnly s t) (g : PortsOnly t u) : PortsOnly s u :=
  ⟨g.time.trans h.time, fun k hk => (g.reg k hk).trans (h.reg k hk)⟩

theorem PortsOnly.put {s t : State} (h : PortsOnly s t) {f : Fld} (v : Nat) (hf : 0x45100000 ≤ f.reg) : PortsOnly s (t.put f v) :=
  h.trans ⟨rfl, fun _ hk => State.rd_put_ne _ _ (by omega)⟩

theorem PortsOnly.each {α : Type} {s t : State} (h : PortsOnly s t) (l : List α) {f : α → State → State} (hf : ∀ a u, PortsOnly u (f a u)) :
    PortsOnly s (t.each l f) := State.each_keeps l h fun a _ u hu => hu.trans (hf a u)

theorem PortsOnly.tdom {s t : State} (h : PortsOnly s t) (d : Nat) : t.tdom d = s.tdom d := by rw [State.tdom, h.time, State.tdom]

theorem PortsOnly.get {s t : State} (h : PortsOnly s t) {f : Fld} (hf : f.reg < 0x45100000) : t.get f = s.get f := by
  unfold State.get
  rw [h.reg _ hf]

theorem PortsOnly.setGcl (s : State) (p : Nat) (g : GclSt) : PortsOnly s (s.setGcl p g) := ⟨rfl, fun _ _ => rfl⟩

theorem PortsOnly.creditUp (s : State) (p : Nat) : PortsOnly s (s.creditUp p) := by
  refine (PortsOnly.refl s).each _ fun q u => ?_
  split <;> exact ⟨rfl, fun _ _ => rfl⟩

theorem PortsOnly.gclMove (s : State) (p : Nat) : PortsOnly s (s.gclMove p) :=
  (PortsOnly.creditUp s p).put _ (by simp only [PORT_GCL_POS_ENTRY, PORT_GCL_POS]; omega)

theorem PortsOnly.gclTake (s : State) (p : Nat) : PortsOnly s (s.gclTake p) := by
  have hent (i : Nat) : 0x45100000 ≤ (PORT_GCL_OPERENT_ENTRY p i).reg := by simp only [PORT_GCL_OPERENT_ENTRY, PORT_GCL_OPERENT]; omega
  have hoper : 0x45100000 ≤ (PORT_GCL_OPER_VT p).reg := by simp only [PORT_GCL_OPER_VT, PORT_GCL_OPER]; omega
  have hctl : 0x45100000 ≤ (PORT_GCL_CTL_PENDING p).reg := by simp only [PORT_GCL_CTL_PENDING, PORT_GCL_CTL]; omega
  unfold State.gclTake
  split
  · exact .refl s
  · split
    · exact .refl s
    · refine PortsOnly.trans ?_ (.gclMove _ p)
      refine PortsOnly.put (PortsOnly.put (PortsOnly.trans ?_ (.setGcl ..)) _ hoper) _ hctl
      exact (PortsOnly.creditUp s p).each _ fun i u => (PortsOnly.refl u).put _ (hent i)

/-- The gates follow a jump in the switch alone. -/
theorem PortsOnly.gclJump (s : State) (d : Nat) : PortsOnly s (s.gclJump d) := by
  unfold State.gclJump
  split
  · exact .refl s
  · refine (PortsOnly.refl s).each _ fun p u => ?_
    dsimp only
    split
    · exact (PortsOnly.gclTake u p).trans (.gclMove _ p)
    · exact .gclTake u p

/-! ### The jump itself (R72, R87, R88) -/

/-- Domain `d` with its time moved to `a`. -/
def State.jumpMoved (s : State) (d a : Nat) : State :=
  s.setTdom d { s.tdom d with
    acc := a, gmPhase := if (s.tdom d).isGm then ((a : Int) - (s.tdom d).acc) / 2 ^ 24 else (s.tdom d).gmPhase, sync := none }

/-- The sequence, the interrupt and the time base indicator of a domain whose time has moved. -/
def State.jumpCounted (s : State) (d : Nat) (gm : Bool) : State :=
  ((s.inc (VT_DSEQ_DSEQ d) 1).raise VT_IRQ_STATUS_DISC (2 ^ d)).when gm (fun u => u.inc (PTP_D_GMINFO_TBI d) 1)

/-- The registers of the last jump. -/
def State.jumpShown (s : State) (d cause old : Nat) : State :=
  ((s.put VT_LASTJ_OLD_VT old).put VT_LASTJ_NEW_VT ((s.put VT_LASTJ_OLD_VT old).vt d)).wr VT_LASTJ_INFO
    (packBits [(0, 2, d), (2, 2, cause), (16, 16, s.get (VT_DSEQ_DSEQ d))])

/-- What follows a jump: the record, gPTP's stamps forgotten, the generators of the domain re-aligned. -/
def State.jumpFollowed (s : State) (d : Nat) (q : Rec) : State :=
  let t := s.ldgAccept q
  let t := { t with time := { t.time with pdReq := [], pdLast := [] } }
  t.each ((List.range 16).filter fun n => t.on (TP_GEN_CTL_RUN n) && t.get (TP_CFG_DOM n) == d) (fun n u => u.genAlign n)

theorem State.time_jumpShown (s : State) (d cause old : Nat) : (s.jumpShown d cause old).time = s.time := by
  rw [State.jumpShown, State.time_wr, State.time_put, State.time_put]

theorem State.time_jumpCounted (s : State) (d : Nat) (gm : Bool) : (s.jumpCounted d gm).time = s.time := by
  rw [State.jumpCounted, State.when_same State.time _ gm (State.time_inc ..), State.time_raise, State.time_inc]

theorem vtDseq_alone : ∀ d < 4, VT_DSEQ d ≠ VT_IRQ_STATUS ∧ VT_DSEQ d ≠ PTP_D_GMINFO d ∧ VT_DSEQ d ≠ VT_LASTJ_OLD ∧
    VT_DSEQ d ≠ VT_LASTJ_NEW ∧ VT_DSEQ d ≠ VT_LASTJ_INFO ∧ VT_DSEQ d ≠ DISC_STATUS d := by decide

theorem State.dseq_jumpShown (s : State) {d : Nat} (hd : d < 4) (cause old : Nat) :
    (s.jumpShown d cause old).get (VT_DSEQ_DSEQ d) = s.get (VT_DSEQ_DSEQ d) := by
  obtain ⟨-, -, hold, hnew, hinfo, -⟩ := vtDseq_alone d hd
  rw [State.jumpShown, State.get_wr_ne _ _ hinfo, State.get_put_ne _ _ hnew, State.get_put_ne _ _ hold]

theorem State.dseq_jumpCounted (s : State) {d : Nat} (hd : d < 4) (gm : Bool) :
    (s.jumpCounted d gm).get (VT_DSEQ_DSEQ d) = (s.get (VT_DSEQ_DSEQ d) + 1) % 2 ^ 16 := by
  obtain ⟨hirq, hgm, -⟩ := vtDseq_alone d hd
  have fq : (VT_DSEQ_DSEQ d).fits := by simp [Fld.fits, VT_DSEQ_DSEQ]
  have hwhen (u : State) : (u.when gm (fun t => t.inc (PTP_D_GMINFO_TBI d) 1)).get (VT_DSEQ_DSEQ d) = u.get (VT_DSEQ_DSEQ d) := by
    cases gm
    · rfl
    · rw [State.when_true, State.inc, State.get_put_ne _ _ hgm]
  have hraise (u : State) : (u.raise VT_IRQ_STATUS_DISC (2 ^ d)).get (VT_DSEQ_DSEQ d) = u.get (VT_DSEQ_DSEQ d) := by
    rw [State.raise, State.get_put_ne _ _ hirq]
  rw [State.jumpCounted, hwhen, hraise, State.inc, State.get_put_self _ _ fq]
  rfl

theorem State.tdom_genAligns (s : State) (l : List Nat) (k : Nat) : (s.each l (fun n u => u.genAlign n)).tdom k = s.tdom k :=
  State.each_same (fun t => t.tdom k) l (f := fun n u => u.genAlign n) (fun _ _ _ => rfl) s

theorem State.tdom_jumpFollowed (s : State) (d : Nat) (q : Rec) (k : Nat) : (s.jumpFollowed d q).tdom k = s.tdom k := by
  rw [State.jumpFollowed]
  dsimp only
  rw [State.tdom_genAligns]
  exact (LogOnly.ofLdg (.accept s q)).tdom k

theorem State.dseq_jumpFollowed (s : State) {d : Nat} (hd : d < 4) (q : Rec) :
    (s.jumpFollowed d q).get (VT_DSEQ_DSEQ d) = s.get (VT_DSEQ_DSEQ d) := by
  obtain ⟨hlog, -⟩ := disc_outside d hd (VT_DSEQ d) (by simp)
  rw [State.jumpFollowed]
  exact (State.each_same (fun t => t.get (VT_DSEQ_DSEQ d)) _ (f := fun n u => u.genAlign n) (fun _ _ _ => rfl) _).trans
    ((LogOnly.ofLdg (.accept s q)).get hlog)

section
variable {s : State} {d : Nat} {j : Jump}

/-- A jump out of range leaves a record. -/
theorem State.jumpApply_none (h : jumpTarget (s.tdom d).acc j = none) :
    (s.jumpApply d j).2 = false ∧ LogOnly s (s.jumpApply d j).1 := by
  unfold State.jumpApply
  simp only [h]
  exact ⟨trivial, .sherd ..⟩

/-- A jump within range moves the time, is counted and shown, and the rest follows. -/
theorem State.jumpApply_some {a : Nat} (h : jumpTarget (s.tdom d).acc j = some a) :
    ∃ q, s.jumpApply d j = ((((s.jumpMoved d a).jumpCounted d (s.tdom d).isGm).jumpShown d j.cause (s.vt d)).jumpFollowed d q, true) := by
  unfold State.jumpApply
  simp only [h]
  exact ⟨_, rfl⟩

end

/-! ### The jump tick (R78, R81) -/

section
variable {s : State} {d : Nat} {j : Jump} {r : List Jump} (hj : (s.tdom d).jumps = j :: r)
include hj

/-- While a delivery lasts no further jump takes effect. -/
theorem State.jumpTick_delivering (hd : (s.tdom d).delivering = true) : s.jumpTick d = s := by
  unfold State.jumpTick
  simp only [hj, hd, if_true]

variable (hd : (s.tdom d).delivering = false)
include hd

/-- The domain with the jump taken from its queue. -/
theorem State.jumpTick_refused (ht : jumpTarget (s.tdom d).acc j = none) :
    ∃ t, LogOnly (s.setTdom d { s.tdom d with jumps := r }) t ∧ s.jumpTick d = t.put (DISC_STATUS_BUSY d) (b2n (!r.isEmpty)) := by
  obtain ⟨hdone, hlog⟩ := State.jumpApply_none (s := s.setTdom d { s.tdom d with jumps := r }) (d := d) (j := j)
    (by rw [State.tdom_setTdom_self]; exact ht)
  refine ⟨_, hlog, ?_⟩
  unfold State.jumpTick
  dsimp only
  rw [hj]
  dsimp only
  rw [if_neg (by simp [hd]), hdone]
  rfl

/-- A jump within range begins its delivery; in domains 1 to 3 nothing but the gates of the switch follows it. -/
theorem State.jumpTick_taken {a : Nat} (ht : jumpTarget (s.tdom d).acc j = some a) :
    ∃ t, s.jumpTick d = (t.setTdom d { t.tdom d with delivering := true }).put (DISC_STATUS_BUSY d) 1 ∧
      (d ≠ 0 → PortsOnly ((s.setTdom d { s.tdom d with jumps := r }).jumpApply d j).1 t) := by
  obtain ⟨q, hq⟩ := State.jumpApply_some (s := s.setTdom d { s.tdom d with jumps := r }) (d := d) (j := j) (a := a)
    (by rw [State.tdom_setTdom_self]; exact ht)
  unfold State.jumpTick
  dsimp only
  rw [hj]
  dsimp only
  rw [if_neg (by simp [hd]), hq]
  refine ⟨_, rfl, fun h0 => ?_⟩
  rw [if_pos (bne_iff_ne.mpr h0)]
  exact .gclJump _ d

end

/-- The domain and its sequence after a jump within range. -/
theorem State.jumpApply_dom {s : State} {d a : Nat} {j : Jump} (hd : d < 4) (h : jumpTarget (s.tdom d).acc j = some a) :
    ((s.jumpApply d j).1.tdom d).acc = a ∧ ((s.jumpApply d j).1.tdom d).jumps = (s.tdom d).jumps ∧
      (s.jumpApply d j).1.get (VT_DSEQ_DSEQ d) = (s.get (VT_DSEQ_DSEQ d) + 1) % 2 ^ 16 := by
  obtain ⟨q, hq⟩ := State.jumpApply_some h
  have hdom : (s.jumpApply d j).1.tdom d = (s.jumpMoved d a).tdom d := by
    rw [hq, State.tdom_jumpFollowed, State.tdom, State.time_jumpShown, State.time_jumpCounted, ← State.tdom]
  have hmoved : (s.jumpMoved d a).tdom d = _ := State.tdom_setTdom_self ..
  refine ⟨by rw [hdom, hmoved], by rw [hdom, hmoved], ?_⟩
  rw [hq, State.dseq_jumpFollowed _ hd, State.dseq_jumpShown _ hd, State.dseq_jumpCounted _ hd]
  rfl

theorem exec_jumpTakeEffect (d : Dom) (s : State) : exec (.jumpTakeEffect d) s = .next (if s.vtOn then s.jumpTick d.val else s) := rfl

/-- Settles O17: the first jump in line is held back by a delivery (`State.jumpTick_delivering`), dropped out of range
(`State.jumpTick_refused`) or taken (`State.jumpTick_taken`). -/
theorem jumpsTakeEffectInTurn : Obligations.JumpsTakeEffectInTurn := by
  intro d s j r hv hj
  have fb := (discStatus_fits d.val).2.1
  refine ⟨fun hd => .of (exec_jumpTakeEffect d s) ?lasts, fun hd => ⟨fun a ht => .of (exec_jumpTakeEffect d s) ?taken,
    fun ht => .of (exec_jumpTakeEffect d s) ?refused⟩⟩
  case lasts => rw [hv, if_pos rfl, State.jumpTick_delivering hj hd]
  case taken =>
    obtain ⟨t, htick, hdom⟩ := State.jumpTick_taken hj hd ht
    rw [hv, if_pos rfl, htick, State.tdom_put, State.tdom_setTdom_self]
    refine ⟨rfl, State.on_put_one _ fb rfl, fun h0 => ?_⟩
    obtain ⟨-, -, -, -, -, hbusy⟩ := vtDseq_alone d.val d.isLt
    have hlow : VT_DSEQ d.val < 0x45100000 := by simp only [VT_DSEQ]; omega
    obtain ⟨hacc, hjumps, hseq⟩ := State.jumpApply_dom (s := s.setTdom d.val { s.tdom d.val with jumps := r }) (j := j) (a := a) d.isLt
      (by rw [State.tdom_setTdom_self]; exact ht)
    rw [State.tdom_setTdom_self] at hjumps
    rw [(hdom h0).tdom, State.get_put_ne _ _ hbusy, State.get_setTdom, (hdom h0).get hlow]
    exact ⟨hacc, hjumps, hseq⟩
  case refused =>
    obtain ⟨t, hlog, htick⟩ := State.jumpTick_refused hj hd ht
    rw [hv, if_pos rfl, htick, State.tdom_put, hlog.tdom, State.tdom_setTdom_self]
    exact ⟨rfl, State.on_put_b2n _ _ fb rfl⟩

end Sys2Proof.Machine
end

section
/-! What interrupts, counters and the completion of a wheel entry leave: the time unit and the power states (R123 to R125, R204, R314 to
R316, R506). -/

namespace Sys2Proof.Machine

open Sys2Proof

/-- From `s` to `t` neither the time unit's state nor the power states changed. -/
structure ClocksKept (s t : State) : Prop where
  time : t.time = s.time
  power : t.power = s.power

theorem ClocksKept.refl (s : State) : ClocksKept s s := ⟨rfl, rfl⟩

theorem ClocksKept.trans {s t u : State} (h : ClocksKept s t) (g : ClocksKept t u) : ClocksKept s u :=
  ⟨g.time.trans h.time, g.power.trans h.power⟩

theorem ClocksKept.put (s : State) (f : Fld) (v : Nat) : ClocksKept s (s.put f v) := ⟨rfl, rfl⟩

theorem ClocksKept.when (s : State) (c : Bool) {f : State → State} (hf : ClocksKept s (f s)) : ClocksKept s (s.when c f) := by
  cases c
  · exact .refl s
  · exact hf

theorem LogOnly.clocks {s t : State} (h : LogOnly s t) : ClocksKept s t := ⟨h.time, h.power⟩

theorem ClocksKept.ldgAccept (s : State) (q : Rec) : ClocksKept s (s.ldgAccept q) := (LogOnly.ofLdg (.accept s q)).clocks

theorem ClocksKept.sherd (s : State) (k : Nat) (st : Status) (src : Nat) (w : World) (rq a p y : Nat) :
    ClocksKept s (s.sherd k st src w rq a p y) := (LogOnly.sherd s k st src w rq a p y).clocks

/-! ### Interrupts -/

theorem ClocksKept.irqWake (s : State) (h : Nat) : ClocksKept s (s.irqWake h) := by
  rw [(State.irqWake_woken s h).rest]
  exact ⟨rfl, rfl⟩

theorem ClocksKept.noteArrival (s : State) (h f e : Nat) : ClocksKept s (s.noteArrival h f e) := by
  unfold State.noteArrival
  dsimp only
  split <;> exact ⟨rfl, rfl⟩

theorem ClocksKept.msiTo (s : State) (w : World) (src h f e : Nat) : ClocksKept s (s.msiTo w src h f e).1 := by
  rcases s.msiTo_cases w src h f e with hlog | hfile | ⟨n, -, hline⟩
  · exact hlog.clocks
  · rw [hfile]
    exact (show ClocksKept s (s.setImsic h f _) from ⟨rfl, rfl⟩).trans ((ClocksKept.noteArrival _ h f e).trans (.irqWake _ h))
  · rw [hline]
    exact (ClocksKept.put s _ _).trans (.irqWake _ _)

theorem ClocksKept.vecSend (s : State) (w : World) (src vec : Nat) : ClocksKept s (s.vecSend w src vec).1 := by
  unfold State.vecSend
  dsimp only
  split
  · exact .refl s
  split
  · exact .sherd ..
  · exact .msiTo ..

/-! ### Counters -/

theorem ClocksKept.pmuCarry (p : PmuPlace) (n : Nat) : ∀ (s : State) (i k : Nat), ClocksKept s (s.pmuCarry p n i k) := by
  induction n with
  | zero => exact fun s _ _ => .refl s
  | succ n ih =>
    intro s i k
    unfold State.pmuCarry
    dsimp only
    split
    · exact .put ..
    split
    · exact ((ClocksKept.put ..).trans (.put ..)).trans (ih ..)
    · exact (ClocksKept.put ..).trans (.put ..)

theorem ClocksKept.pmuCount (s : State) (p : PmuPlace) (i k : Nat) : ClocksKept s (s.pmuCount p i k) := by
  unfold State.pmuCount
  split
  · exact .refl s
  · exact .pmuCarry ..

/-! ### The wheel -/

theorem ClocksKept.sliceVec (s : State) (n : Nat) (summary : State → Bool) (vec : Nat) {f : State → State} (hf : ClocksKept s (f s)) :
    ClocksKept s (s.sliceVec n summary vec f) := by
  unfold State.sliceVec
  dsimp only
  split
  · exact (hf.trans (.vecSend ..)).trans (.when _ _ (.pmuCount ..))
  · exact hf

theorem ClocksKept.wheelIrq (s : State) (o : WOwner) (b : Nat) : ClocksKept s (s.wheelIrq o b) := by
  unfold State.wheelIrq
  split
  · exact .sliceVec _ _ _ _ (.put ..)
  · exact .put ..

theorem ClocksKept.wheelFree (s : State) (i : Nat) : ClocksKept s (s.wheelFree i) := by
  unfold State.wheelFree
  dsimp only
  split
  · exact .refl s
  · exact ⟨rfl, rfl⟩

theorem ClocksKept.wheelPost (s : State) (i : Nat) : ClocksKept s (s.wheelPost i) := by
  unfold State.wheelPost
  dsimp only
  split
  · exact .wheelFree ..
  · exact .when _ _ (.wheelIrq ..)

/-- The completion of an entry is the wheel's, the logs' and its owner's. -/
theorem ClocksKept.wheelFinish (s : State) (i : Nat) (st : Status) (missed : Bool) (t : Nat) : ClocksKept s (s.wheelFinish i st missed t) := by
  unfold State.wheelFinish
  dsimp only
  refine ClocksKept.trans ?_ (.wheelPost ..)
  refine ClocksKept.trans ?_ (.when _ _ ?late)
  case late =>
    have hirq (u : State) (c : Bool) (q : Rec) (o : WOwner) : ClocksKept u ((u.when c fun v => v.ldgAccept q).wheelIrq o 2) :=
      (ClocksKept.when u c (.ldgAccept ..)).trans (.wheelIrq ..)
    split
    · exact (hirq ..).trans (.pmuCount ..)
    · exact hirq ..
  refine ClocksKept.trans ?_ (.when _ _ (.ldgAccept ..))
  exact (show ClocksKept s (s.setWent i _) from ⟨rfl, rfl⟩).trans (.put ..)

end Sys2Proof.Machine
end

section
/-! The time pins: levels, pulses, generators and captures (R103 to R108). -/

namespace Sys2Proof.Machine

open Sys2Proof

/-! ### Pins -/

@[simp] theorem State.pin_setPin (s : State) (n : Nat) (v : PinSt) : (s.setPin n v).pin n = v := tabGet_tabSet_self ..

@[simp] theorem State.pin_put (s : State) (f : Fld) (v n : Nat) : (s.put f v).pin n = s.pin n := rfl

theorem State.pin_ended (s : State) (a : Agent) (n : Nat) : (s.ended a).pin n = s.pin n := by
  rw [State.pin, State.time_ended, State.pin]

theorem ClocksKept.pin {s t : State} (h : ClocksKept s t) (n : Nat) : t.pin n = s.pin n := by
  rw [State.pin, h.time, State.pin]

theorem tpRegs_beside : ∀ n < 16, TP_CFG n ≠ DAP_STATUS ∧ TP_GEN_CTL n ≠ DAP_STATUS ∧ TP_STAT n ≠ DAP_STATUS ∧
    TP_GEN_ANCHOR n ≠ DAP_STATUS ∧ TP_GEN_PERIOD n ≠ DAP_STATUS ∧ TP_GEN_WIDTH n ≠ DAP_STATUS := by decide

/-! ### Levels (R104) -/

/-- A level write drives an output pin and leaves every other. -/
theorem State.pinLevels_active (s : State) (n : Nat) (b : Bool) :
    ((s.pinLevels n b (!b)).pin n).active = if s.pinOut n then b else (s.pin n).active := by
  unfold State.pinLevels State.pinDrive
  cases s.pinOut n <;> cases b <;> simp

theorem State.regs_pinLevels (s : State) (n : Nat) (set clr : Bool) : (s.pinLevels n set clr).regs = s.regs := by
  unfold State.pinLevels State.pinDrive
  split <;> rfl

theorem State.rd_pinLevels (s : State) (n : Nat) (set clr : Bool) (k : Nat) : (s.pinLevels n set clr).rd k = s.rd k := by
  rw [State.rd, State.regs_pinLevels, State.rd]

theorem exec_tpLevelSet (a : Agent) (n : Pin) (s : State) :
    exec (.tpLevelSet a n) s = .next (s.regAccess a true (TP_CFG n.val) 4 (fun t => t.pinLevels n.val true false)) := rfl

theorem exec_tpLevelClr (a : Agent) (n : Pin) (s : State) :
    exec (.tpLevelClr a n) s = .next (s.regAccess a true (TP_CFG n.val) 4 (fun t => t.pinLevels n.val false true)) := rfl

theorem levelWrites {a : Agent} {n : Pin} {s : State} (h : s.Reached a true (TP_CFG n.val) 4) :
    Completes (.tpLevelSet a n) s (fun t => (t.pin n.val).active = (s.pinOut n.val || (s.pin n.val).active) ∧ t.rd (TP_CFG n.val) = s.rd (TP_CFG n.val)) ∧
    Completes (.tpLevelClr a n) s (fun t => (t.pin n.val).active = (!s.pinOut n.val && (s.pin n.val).active) ∧ t.rd (TP_CFG n.val) = s.rd (TP_CFG n.val)) := by
  have hcfg := (tpRegs_beside n.val n.isLt).1
  have hset := s.pinLevels_active n.val true
  have hclr := s.pinLevels_active n.val false
  constructor
  · refine .of (exec_tpLevelSet a n s) ?_
    rw [State.regAccess_reached _ h, State.pin_ended, State.rd_ended _ _ hcfg, State.rd_pinLevels]
    refine ⟨hset.trans ?_, rfl⟩
    cases s.pinOut n.val <;> simp
  · refine .of (exec_tpLevelClr a n s) ?_
    rw [State.regAccess_reached _ h, State.pin_ended, State.rd_ended _ _ hcfg, State.rd_pinLevels]
    refine ⟨hclr.trans ?_, rfl⟩
    cases s.pinOut n.val <;> simp

/-! ### Pulses (R106) -/

theorem exec_pulseTrailingEdge {n : Pin} {s : State} {i : Nat} (h : (s.pin n.val).pulse = some i) : exec (.pulseTrailingEdge n) s =
    .next ((s.setPin n.val { s.pin n.val with active := if s.on (TP_CFG_SRC n.val) then (s.pin n.val).active else false, pulse := none }).wheelFinish
      i .ok false (s.vt 0)) := by
  change execPulseTrailingEdge n s = _
  unfold execPulseTrailingEdge
  rw [h]

theorem trailingEdge_ends {n : Pin} {s : State} {i : Nat} (h : (s.pin n.val).pulse = some i) : Completes (.pulseTrailingEdge n) s fun t =>
    (t.pin n.val).pulse = none ∧ (s.on (TP_CFG_SRC n.val) = false → (t.pin n.val).active = false) := by
  refine .of (exec_pulseTrailingEdge h) ?_
  rw [(ClocksKept.wheelFinish ..).pin, State.pin_setPin]
  exact ⟨rfl, fun hsrc => by simp [hsrc]⟩

/-! ### Generators (R107) -/

/-- The first grid instant after the one before `now` is the first not before `now`. -/
theorem gridAfter_pred {anchor period now : Nat} (hp : 0 < period) (h0 : now ≠ 0) :
    now ≤ gridAfter anchor period (now - 1) ∧ (now ≤ anchor → gridAfter anchor period (now - 1) = anchor) ∧
      (anchor < now → gridAfter anchor period (now - 1) < now + period ∧ ∃ k, gridAfter anchor period (now - 1) = anchor + k * period) := by
  unfold gridAfter
  split
  case isTrue h => exact ⟨by omega, fun _ => rfl, fun h => by omega⟩
  case isFalse h =>
    have hdiv := Nat.div_add_mod (now - 1 - anchor) period
    have hmod := Nat.mod_lt (now - 1 - anchor) hp
    have hstep : ((now - 1 - anchor) / period + 1) * period = period * ((now - 1 - anchor) / period) + period := by ring
    exact ⟨by omega, fun h => by omega, fun _ => ⟨by omega, _, rfl⟩⟩

/-- The first grid instant not before `now`. -/
def gridFrom (anchor period now : Nat) : Nat := if now == 0 then anchor else gridAfter anchor period (now - 1)

theorem gridFrom_first {anchor period : Nat} (now : Nat) (hp : 0 < period) :
    now ≤ gridFrom anchor period now ∧ (now ≤ anchor → gridFrom anchor period now = anchor) ∧
      (anchor < now → gridFrom anchor period now < now + period ∧ ∃ k, gridFrom anchor period now = anchor + k * period) := by
  unfold gridFrom
  by_cases h0 : now = 0
  · rw [if_pos (beq_iff_eq.mpr h0)]
    exact ⟨by omega, fun _ => rfl, fun h => by omega⟩
  · rw [if_neg (by simp [h0])]
    exact gridAfter_pred hp h0

theorem genOk_iff {p w : Nat} : genOk p w = true ↔ 8 ≤ p ∧ 0 < w ∧ w < p := by
  simp [genOk, Nat.pos_iff_ne_zero, and_assoc]

section
variable {s : State} {n : Nat}

theorem genCtl_fits (n : Nat) : (TP_GEN_CTL_RUN n).fits ∧ (TP_GEN_CTL_ACTIVE n).fits := by simp [Fld.fits, TP_GEN_CTL_RUN, TP_GEN_CTL_ACTIVE]

/-- RUN 1 with bad parameters changes nothing. -/
theorem State.genRun_bad (hb : ¬ (8 ≤ s.get (TP_GEN_PERIOD_NS n) ∧ 0 < s.get (TP_GEN_WIDTH_NS n) ∧
    s.get (TP_GEN_WIDTH_NS n) < s.get (TP_GEN_PERIOD_NS n))) : s.genRun n true = s := by
  have hok : genOk (s.get (TP_GEN_PERIOD_NS n)) (s.get (TP_GEN_WIDTH_NS n)) = false := by rwa [← Bool.not_eq_true, genOk_iff]
  simp [State.genRun, hok]

/-- RUN 1 with good parameters starts the generator at the next grid instant. -/
theorem State.genRun_good (hr : s.on (TP_GEN_CTL_RUN n) = false) (hg : 8 ≤ s.get (TP_GEN_PERIOD_NS n) ∧ 0 < s.get (TP_GEN_WIDTH_NS n) ∧
    s.get (TP_GEN_WIDTH_NS n) < s.get (TP_GEN_PERIOD_NS n)) :
    s.genRun n true = (s.setPin n { s.pin n with
      genNext := gridFrom (s.get (TP_GEN_ANCHOR_VT n)) (s.get (TP_GEN_PERIOD_NS n)) (s.vt (s.get (TP_CFG_DOM n))) }).put (TP_GEN_CTL_RUN n) 1 := by
  have hok := genOk_iff.mpr hg
  unfold State.genRun
  rw [if_pos rfl, if_neg (by simp [hr, hok])]
  rfl

end

theorem exec_tpGenRunStart (a : Agent) (n : Pin) (s : State) :
    exec (.tpGenRunStart a n) s = .next (s.regAccess a true (TP_GEN_CTL n.val) 4 (fun t => t.genRun n.val true)) := rfl

theorem exec_tpGenRunStop (a : Agent) (n : Pin) (s : State) :
    exec (.tpGenRunStop a n) s = .next (s.regAccess a true (TP_GEN_CTL n.val) 4 (fun t => t.genRun n.val false)) := rfl

theorem genRunWrites {a : Agent} {n : Pin} {s : State} (h : s.Reached a true (TP_GEN_CTL n.val) 4) :
    let period := s.get (TP_GEN_PERIOD_NS n.val)
    let width := s.get (TP_GEN_WIDTH_NS n.val)
    let good := 8 ≤ period ∧ 0 < width ∧ width < period
    Completes (.tpGenRunStop a n) s (fun t => t.on (TP_GEN_CTL_RUN n.val) = false ∧ t.time = s.time) ∧
    (s.on (TP_GEN_CTL_RUN n.val) = false → ¬ good → Completes (.tpGenRunStart a n) s fun t => t.on (TP_GEN_CTL_RUN n.val) = false ∧ t.time = s.time) ∧
    (s.on (TP_GEN_CTL_RUN n.val) = false → good → Completes (.tpGenRunStart a n) s fun t => t.on (TP_GEN_CTL_RUN n.val) = true ∧
      let now := s.vt (s.get (TP_CFG_DOM n.val))
      let next := (t.pin n.val).genNext
      now ≤ next ∧ (now ≤ s.get (TP_GEN_ANCHOR_VT n.val) → next = s.get (TP_GEN_ANCHOR_VT n.val)) ∧
      (s.get (TP_GEN_ANCHOR_VT n.val) < now → next < now + period ∧ ∃ k, next = s.get (TP_GEN_ANCHOR_VT n.val) + k * period)) := by
  have hctl := (tpRegs_beside n.val n.isLt).2.1
  have hfit := (genCtl_fits n.val).1
  refine ⟨.of (exec_tpGenRunStop a n s) ?stop, fun hr hb => .of (exec_tpGenRunStart a n s) ?bad, fun hr hg => .of (exec_tpGenRunStart a n s) ?good⟩
  all_goals rw [State.regAccess_reached _ h]
  case stop =>
    rw [State.on_ended _ _ hctl, State.time_ended]
    exact ⟨State.on_put_zero _ hfit rfl, rfl⟩
  case bad =>
    rw [State.on_ended _ _ hctl, State.time_ended, State.genRun_bad hb]
    exact ⟨hr, rfl⟩
  case good =>
    rw [State.on_ended _ _ hctl, State.pin_ended, State.genRun_good hr hg, State.pin_put, State.pin_setPin]
    exact ⟨State.on_put_one _ hfit rfl, gridFrom_first _ (by omega)⟩

theorem genField_fits (n : Nat) (k : GenParam) : (genField n k).fits := by
  cases k <;> simp [Fld.fits, genField, TP_GEN_ANCHOR_VT, TP_GEN_PERIOD_NS, TP_GEN_WIDTH_NS]

theorem genField_beside {n : Nat} (hn : n < 16) (k : GenParam) : (genField n k).reg ≠ DAP_STATUS := by
  obtain ⟨-, -, -, hanchor, hperiod, hwidth⟩ := tpRegs_beside n hn
  cases k
  · exact hanchor
  · exact hperiod
  · exact hwidth

theorem exec_tpGenParamWrite {a : Agent} {n : Pin} {k : GenParam} (v : Word) {s : State}
    (h : s.Reached a true (genField n.val k).reg (if k = .anchor then 8 else 4)) :
    exec (.tpGenParamWrite a n k v) s = .next ((s.genParam n.val k v.toNat).ended a) := by
  have hsize : (if k == .anchor then 8 else 4) = if k = .anchor then 8 else 4 := by cases k <;> rfl
  change execTpGenParamWrite a n k v s = _
  rw [execTpGenParamWrite, hsize, State.regAccess_reached _ h]

theorem genParamWrites {a : Agent} {n : Pin} {k : GenParam} {v : Word} {s : State}
    (h : s.Reached a true (genField n.val k).reg (if k = .anchor then 8 else 4)) (hv : k ≠ .anchor → v.toNat < 2 ^ 32) :
    (s.on (TP_GEN_CTL_RUN n.val) = false → Completes (.tpGenParamWrite a n k v) s fun t => t.get (genField n.val k) = v.toNat ∧ t.time = s.time) ∧
    (s.on (TP_GEN_CTL_RUN n.val) = true → k = .period → v.toNat ≤ s.get (TP_GEN_WIDTH_NS n.val) →
      Completes (.tpGenParamWrite a n k v) s fun t => t.get (genField n.val k) = s.get (genField n.val k) ∧ t.time = s.time) := by
  have hdap := genField_beside n.isLt k
  refine ⟨fun hr => .of (exec_tpGenParamWrite v h) ?stopped, fun hr hk hw => .of (exec_tpGenParamWrite v h) ?running⟩
  case stopped =>
    have hv' : v.toNat < 2 ^ (genField n.val k).w := by
      cases k
      · exact v.isLt
      · exact hv (by decide)
      · exact hv (by decide)
    have hput : s.genParam n.val k v.toNat = s.put (genField n.val k) v.toNat := by simp [State.genParam, hr]
    rw [State.get_ended _ _ hdap, State.time_ended, hput]
    exact ⟨State.get_put_small _ (genField_fits _ _) hv', rfl⟩
  case running =>
    subst hk
    have hkeep : s.genParam n.val .period v.toNat = s := by
      have hp : (s.put (genField n.val .period) v.toNat).get (TP_GEN_PERIOD_NS n.val) = v.toNat :=
        State.get_put_small _ (genField_fits _ _) (hv (by decide))
      have hwid : (s.put (genField n.val .period) v.toNat).get (TP_GEN_WIDTH_NS n.val) = s.get (TP_GEN_WIDTH_NS n.val) :=
        State.get_put_ne _ _ (by simp only [TP_GEN_WIDTH_NS, TP_GEN_WIDTH, genField, TP_GEN_PERIOD_NS, TP_GEN_PERIOD]; omega)
      have hbad : genOk v.toNat (s.get (TP_GEN_WIDTH_NS n.val)) = false := by
        rw [← Bool.not_eq_true, genOk_iff]
        omega
      unfold State.genParam
      dsimp only
      rw [hp, hwid, hbad, hr]
      rfl
    rw [State.get_ended _ _ hdap, State.time_ended, hkeep]
    exact ⟨rfl, rfl⟩

theorem exec_tpGenActivate {n : Pin} {s : State} (hc : (s.vtOn && s.clocked TKD 1 && s.on (TP_GEN_CTL_RUN n.val) && s.get (TP_CFG_FUNC n.val) == 1 &&
      decide ((s.pin n.val).genNext ≤ s.vt (s.get (TP_CFG_DOM n.val)))) = true) : exec (.tpGenActivate n) s = .next
    ((s.setPin n.val { s.pin n.val with
      genNext := (s.pin n.val).genNext + s.get (TP_GEN_PERIOD_NS n.val), genWidth := s.get (TP_GEN_WIDTH_NS n.val),
      active := (s.pin n.val).active || s.on (TP_CFG_SRC n.val) }).put (TP_GEN_CTL_ACTIVE n.val) 1) := by
  change execTpGenActivate n s = _
  unfold execTpGenActivate
  dsimp only
  rw [if_pos hc]

/-- At its grid instant the generator makes the pin active and takes the next instant. -/
theorem genActivate_starts {n : Pin} {s : State} (hv : s.vtOn = true) (hc : s.clocked TKD 1 = true) (hr : s.on (TP_GEN_CTL_RUN n.val) = true)
    (hf : s.get (TP_CFG_FUNC n.val) = 1) (hn : (s.pin n.val).genNext ≤ s.vt (s.get (TP_CFG_DOM n.val))) : Completes (.tpGenActivate n) s fun t =>
      t.on (TP_GEN_CTL_ACTIVE n.val) = true ∧ (t.pin n.val).genNext = (s.pin n.val).genNext + s.get (TP_GEN_PERIOD_NS n.val) ∧
      (s.on (TP_CFG_SRC n.val) = true → (t.pin n.val).active = true) := by
  have hcond : (s.vtOn && s.clocked TKD 1 && s.on (TP_GEN_CTL_RUN n.val) && s.get (TP_CFG_FUNC n.val) == 1 &&
      decide ((s.pin n.val).genNext ≤ s.vt (s.get (TP_CFG_DOM n.val)))) = true := by simp [hv, hc, hr, hf, hn]
  refine .of (exec_tpGenActivate hcond) ?_
  rw [State.pin_put, State.pin_setPin]
  exact ⟨State.on_put_one _ (genCtl_fits n.val).2 rfl, rfl, fun hsrc => by simp [hsrc]⟩

theorem exec_tpGenDeactivate {n : Pin} {s : State} (ha : s.on (TP_GEN_CTL_ACTIVE n.val) = true) : exec (.tpGenDeactivate n) s = .next
    ((s.setPin n.val { s.pin n.val with active := if s.on (TP_CFG_SRC n.val) then false else (s.pin n.val).active }).put
      (TP_GEN_CTL_ACTIVE n.val) 0) := by
  change execTpGenDeactivate n s = _
  rw [execTpGenDeactivate, if_pos ha]

/-- At the end of its width the generator makes the pin inactive. -/
theorem genDeactivate_ends {n : Pin} {s : State} (ha : s.on (TP_GEN_CTL_ACTIVE n.val) = true) : Completes (.tpGenDeactivate n) s fun t =>
    t.on (TP_GEN_CTL_ACTIVE n.val) = false ∧ (s.on (TP_CFG_SRC n.val) = true → (t.pin n.val).active = false) := by
  refine .of (exec_tpGenDeactivate ha) ?_
  rw [State.pin_put, State.pin_setPin]
  exact ⟨State.on_put_zero _ (genCtl_fits n.val).2 rfl, fun hsrc => by simp [hsrc]⟩

/-! ### Captures (R108) -/

theorem State.capPop_cons {s : State} {n : Nat} {e : CapEntry} {r : List CapEntry} (h : (s.pin n).fifo = e :: r) :
    s.capPop n = ((s.setPin n { s.pin n with fifo := r }).put (TP_STAT_DEPTH n) r.length, e.stamp.ns) := by
  unfold State.capPop
  rw [h]

theorem exec_tpCapRead (a : Agent) (n : Pin) (half : Half) (s : State) :
    exec (.tpCapRead a n half) s = .next (s.readCmd a (TP_CAP n.val) half (fun t => t.capPop n.val)) := rfl

theorem capRead_pops {a : Agent} {n : Pin} {s : State} {e : CapEntry} {r : List CapEntry} (h : s.Reached a false (TP_CAP n.val) 8)
    (hd : s.debugRead a = false) (hf : (s.pin n.val).fifo = e :: r) : Completes (.tpCapRead a n .full) s fun t =>
      (t.pin n.val).fifo = r ∧ t.get (TP_STAT_DEPTH n.val) = r.length % 32 ∧ (s.capPop n.val).2 = e.stamp.ns := by
  have hstat := (tpRegs_beside n.val n.isLt).2.2.1
  have hfit : (TP_STAT_DEPTH n.val).fits := by simp [Fld.fits, TP_STAT_DEPTH]
  refine .of (exec_tpCapRead a n .full s) ?_
  rw [State.readCmd_reached (reg := TP_CAP n.val) (half := .full) _ h, hd, if_neg Bool.false_ne_true, State.readEffect, State.pin_ended, State.get_ended _ _ hstat, State.capPop_cons hf, State.pin_put,
    State.pin_setPin, State.get_put_self _ _ hfit]
  exact ⟨rfl, rfl, rfl⟩

/-- Settles O15, command by command and event by event. -/
theorem timePinsComplete : Obligations.TimePinsComplete :=
  ⟨fun _ _ _ h => levelWrites h, fun _ _ _ h => trailingEdge_ends h, fun _ _ _ h => genRunWrites h,
    fun _ _ _ _ _ h hv => genParamWrites h hv, fun _ _ hv hc hr hf hn => genActivate_starts hv hc hr hf hn,
    fun _ _ ha => genDeactivate_ends ha, fun _ _ _ _ _ h hd hf => capRead_pops h hd hf⟩

end Sys2Proof.Machine
end

section
/-! The servo of a domain and the messages of the port engines (R82 to R85, R92 to R99). -/

namespace Sys2Proof.Machine

open Sys2Proof

/-! ### What the servo writes (R82 to R85) -/

/-- A field in none of the registers that the servo, or the loss of the master, writes. -/
def besideServo (d : Nat) (f : Fld) : Prop :=
  f.reg ∉ logRegs ∧ f.reg ≠ VT_STATUS ∧ f.reg ≠ VT_IRQ_STATUS ∧ f.reg ≠ DISC_CTL d ∧ f.reg ≠ DISC_RATE d ∧ f.reg ≠ DISC_STATUS d ∧
    f.reg ≠ DISC_REMAIN d

theorem besideServo_offset : ∀ d < 4, besideServo d (DISC_OFFSET_OFFSET d) := by
  unfold besideServo
  decide

theorem besideServo_syncTo {p d : Nat} (hp : p < 17) (hd : d < 4) : besideServo d (PTP_P_CNT_SYNC_TO p) := by
  have hlog : ∀ p < 17, PTP_P_CNT p ∉ logRegs := by decide
  refine ⟨hlog p hp, ?_⟩
  simp only [PTP_P_CNT_SYNC_TO, PTP_P_CNT, VT_STATUS, VT_IRQ_STATUS, DISC_CTL, DISC_RATE, DISC_STATUS, DISC_REMAIN]
  omega

section
variable (s : State) (d : Nat) {f : Fld} (hf : besideServo d f)
include hf

theorem State.get_setTState_beside (new : Nat) : (s.setTState d new).get f = s.get f := by
  obtain ⟨hl, hs, hi, hc, -⟩ := hf
  exact s.get_setTState hs hi hl (.inl (.inl hc))

theorem State.get_setRate_beside (v : Nat) : (s.setRate d v).get f = s.get f := by
  obtain ⟨-, -, hi, -, hr, hd, -⟩ := hf
  exact s.get_setRate d v hr (.inl hd) (.inl hi)

theorem State.get_servoJump (off : Int) : (s.servoJump d off).get f = s.get f := by
  obtain ⟨hl, -, -, -, -, hd, hr⟩ := hf
  unfold State.servoJump
  dsimp only
  split
  · exact (LogOnly.sherd ..).get hl
  · exact s.get_jumpAccept d _ ⟨hr, .inl hd⟩ (.inl hd)

theorem State.get_servoSlew (off : Int) : (s.servoSlew d off).get f = s.get f := by
  obtain ⟨-, -, -, -, -, hd, hr⟩ := hf
  unfold State.servoSlew
  split
  · rfl
  · exact s.get_slewStart d _ _ ⟨hr, .inl hd⟩

theorem State.get_servoRate (off : Int) : (s.servoRate d off).get f = s.get f := by
  unfold State.servoRate
  dsimp only
  rw [State.get_setTdom, State.get_setRate_beside _ _ hf]

theorem State.get_rateFreeze : (s.rateFreeze d).get f = s.get f := by
  unfold State.rateFreeze
  dsimp only
  split
  · rfl
  · exact s.get_setRate_beside d hf _

/-- The correction of rate and time at a Sync. -/
theorem State.get_servoCorrect (off : Int) : ((s.servoRate d off).servoSlew d off).get f = s.get f := by
  rw [State.get_servoSlew _ _ hf, State.get_servoRate _ _ hf]

/-- The correction, and the change of state it may end in. -/
theorem State.get_servoEnd (off : Int) (c : Prop) [Decidable c] (new : Nat) :
    (if c then ((s.servoRate d off).servoSlew d off).setTState d new else (s.servoRate d off).servoSlew d off).get f = s.get f := by
  split
  · rw [State.get_setTState_beside _ _ hf, State.get_servoCorrect _ _ hf]
  · rw [State.get_servoCorrect _ _ hf]

end

theorem discOffset_fits (d : Nat) : (DISC_OFFSET_OFFSET d).fits := by simp [Fld.fits, DISC_OFFSET_OFFSET]

theorem ofSigned_lt (w : Nat) (i : Int) : ofSigned w i < 2 ^ w := by
  have hw : (0 : Int) < (2 ^ w : Nat) := by positivity
  have hlt := Int.emod_lt_of_pos i hw
  have h0 := Int.emod_nonneg i hw.ne'
  unfold ofSigned
  omega

/-- `DISC_OFFSET` shows the offset measured, whatever the servo makes of it. -/
theorem State.offset_servo (s : State) {d : Nat} (hd : d < 4) (off : Int) : (s.servo d off).get (DISC_OFFSET_OFFSET d) = ofSigned 64 off := by
  have hf := besideServo_offset d hd
  refine Eq.trans ?_ (State.get_put_small s (discOffset_fits d) (ofSigned_lt 64 off))
  unfold State.servo
  generalize s.put (DISC_OFFSET_OFFSET d) (ofSigned 64 off) = t
  dsimp only [State.syncCount]
  split
  · rfl
  split
  · rw [State.get_servoJump _ _ hf, State.get_setTState_beside _ _ hf]
  split
  · split
    · rw [State.get_servoJump _ _ hf, State.get_setTdom, State.get_setTState_beside _ _ hf]
    · rw [State.get_servoCorrect _ _ hf, State.get_setTdom, State.get_setTState_beside _ _ hf]
  split
  · split
    · rw [State.get_servoJump _ _ hf, State.get_setTdom]
    · rw [State.get_servoEnd _ _ hf, State.get_setTdom]
  · split
    · rw [State.get_servoJump _ _ hf, State.get_setTState_beside _ _ hf, State.get_setTdom]
    · rw [State.get_servoEnd _ _ hf, State.get_setTdom]

/-! ### The Announces held while ports are selected (R92 to R94) -/

/-- The Announces that the ports hold. -/
def State.announces (s : State) : Tab (Option PrioVec) := s.time.announce

@[simp] theorem State.announces_put (s : State) (f : Fld) (v : Nat) : (s.put f v).announces = s.announces := rfl

@[simp] theorem State.announces_setTdom (s : State) (d : Nat) (v : DomSt) : (s.setTdom d v).announces = s.announces := rfl

@[simp] theorem State.announces_setTState (s : State) (d new : Nat) : (s.setTState d new).announces = s.announces := by
  rcases s.setTState_cases d new with ⟨-, h⟩ | ⟨-, h⟩
  · rw [h]
  · have hshow : (s.showState d new).announces = s.announces := by
      rw [State.showState, State.raise, State.announces_put, State.when_same State.announces _ _ (State.announces_put ..), State.enterState,
        State.announces_setTdom, State.announces_put]
    rw [State.announces, h.time, ← State.announces, hshow]

@[simp] theorem State.announces_setGm (s : State) (d : Nat) (gm : Bool) : (s.setGm d gm).announces = s.announces := by
  have hwhen : ((s.setTdom d { s.tdom d with isGm := gm }).when gm fun t => t.put (DISC_OFFSET_OFFSET d) 0).announces = s.announces :=
    State.when_same State.announces _ gm rfl
  unfold State.setGm
  dsimp only
  split
  · exact hwhen
  split
  · rw [State.announces_setTState, hwhen]
  split
  · rw [State.announces_setTdom, State.announces_setTState, hwhen]
  · exact hwhen

theorem State.announces_states (s : State) (d : Nat) (l : List Nat) (g : Nat → Nat) :
    (s.each l fun p u => u.put (PTP_P_STATE_STATE p d) (g p)).announces = s.announces :=
  State.each_same State.announces l (f := fun p u => u.put (PTP_P_STATE_STATE p d) (g p)) (fun _ _ _ => rfl) s

/-- The selection of port states keeps the Announces it weighs. -/
theorem State.announces_ptpSelect (s : State) (d : Nat) : (s.ptpSelect d).announces = s.announces := by
  unfold State.ptpSelect
  dsimp only
  repeat' split
  all_goals simp only [State.announces_put, State.announces_setGm, State.announces_states]

theorem State.announceOf_ptpSelect (s : State) (d q e : Nat) : (s.ptpSelect d).announceOf q e = s.announceOf q e := by
  rw [State.announceOf, ← State.announces, State.announces_ptpSelect]
  rfl

/-- Port `p` holds `v` as the Announce of domain `d`. -/
def State.setAnnounce (s : State) (p d : Nat) (v : Option PrioVec) : State :=
  { s with time := { s.time with announce := tabSet (fun _ => none) s.time.announce (4 * p + d) v } }

theorem State.announceOf_setAnnounce (s : State) (p d : Nat) (v : Option PrioVec) : (s.setAnnounce p d v).announceOf p d = v := tabGet_tabSet_self ..

/-! ### Announce (R92 to R94) -/

theorem exec_announceReceived (p : PtpPort) (dn : BitVec 7) (v : PrioVec) {s : State} {d : Nat} (h : s.dnDomain dn.toNat = some d) :
    exec (.announceReceived p dn v) s =
      .next (if s.ptpUp && (s.domPorts d).contains p.val && !s.extPorts d && v.steps < 255 && v.gm != Config.eui % 2 ^ 64 then
        (s.setAnnounce p.val d (some v)).ptpSelect d else s) := by
  change execAnnounceReceived p dn v s = _
  unfold execAnnounceReceived
  rw [h]
  rfl

theorem announce_held {p : PtpPort} {dn : BitVec 7} {v : PrioVec} {s : State} {d : Nat} (hdn : s.dnDomain dn.toNat = some d) (hu : s.ptpUp = true)
    (hp : p.val ∈ s.domPorts d) (hx : s.extPorts d = false) (hs : v.steps < 255) (hg : v.gm ≠ Config.eui % 2 ^ 64) :
    Completes (.announceReceived p dn v) s fun t => t.announceOf p.val d = some v := by
  have hcond : (s.ptpUp && (s.domPorts d).contains p.val && !s.extPorts d && v.steps < 255 && v.gm != Config.eui % 2 ^ 64) = true := by
    simp only [hu, List.contains_iff_mem.mpr hp, hx, decide_eq_true hs, bne_iff_ne.mpr hg, Bool.not_false, Bool.and_self]
  refine .of (exec_announceReceived p dn v hdn) ?_
  rw [hcond, if_pos rfl, State.announceOf_ptpSelect, State.announceOf_setAnnounce]

theorem exec_announceReceiptTimeout (p : PtpPort) (d : Dom) (s : State) : exec (.announceReceiptTimeout p d) s =
    .next (if s.vtOn && !s.extPorts d.val && (s.announceOf p.val d.val).isSome then (s.setAnnounce p.val d.val none).ptpSelect d.val else s) := rfl

theorem announce_forgotten {p : PtpPort} {d : Dom} {s : State} (hv : s.vtOn = true) (hx : s.extPorts d.val = false)
    (ha : (s.announceOf p.val d.val).isSome = true) :
    Completes (.announceReceiptTimeout p d) s fun t => t.announceOf p.val d.val = none := by
  refine .of (exec_announceReceiptTimeout p d s) ?_
  rw [hv, hx, ha, Bool.not_false, Bool.and_self, Bool.and_self, if_pos rfl, State.announceOf_ptpSelect, State.announceOf_setAnnounce]

/-- The vector a master port announces. -/
def State.announced (s : State) (d : Nat) : PrioVec :=
  match s.bestAnnounce d with
  | some (_, b) => if (s.tdom d).isGm then s.ownPrio d else { b with steps := b.steps + 1 }
  | none => s.ownPrio d

theorem State.announced_own {s : State} {d : Nat} (h : s.bestAnnounce d = none ∨ (s.tdom d).isGm = true) : s.announced d = s.ownPrio d := by
  unfold State.announced
  rcases h with h | h
  · rw [h]
  · split
    · rw [if_pos h]
    · rfl

theorem State.announced_received {s : State} {d q : Nat} {b : PrioVec} (h : s.bestAnnounce d = some (q, b)) (hg : (s.tdom d).isGm = false) :
    s.announced d = { b with steps := b.steps + 1 } := by
  unfold State.announced
  rw [h, hg]
  rfl

theorem State.sent_ptpSend (s : State) (p : Nat) (m : GptpSent) : tabGet (fun _ => none) (s.ptpSend p m).time.sent p = some m := by
  rw [State.ptpSend, tabGet_tabSet_self]

theorem exec_announceSend (p : PtpPort) (d : Dom) (s : State) : exec (.announceSend p d) s =
    .next (if s.ptpUp && s.get (PTP_P_STATE_STATE p.val d.val) == 1 && !s.extPorts d.val then
      s.ptpSend p.val (.announce (s.get (VT_DOM_CFG_GPTP_DN d.val)) (s.announced d.val) (s.get (VT_DOM_CFG_UTC_OFFSET d.val))
        (s.get (PTP_D_PRIO_SOURCE d.val))) else s) := rfl

theorem announce_sent {p : PtpPort} {d : Dom} {s : State} (hu : s.ptpUp = true) (hm : s.get (PTP_P_STATE_STATE p.val d.val) = 1)
    (hx : s.extPorts d.val = false) :
    Completes (.announceSend p d) s fun t => t.regs = s.regs ∧ ∃ v, tabGet (fun _ => none) t.time.sent p.val =
        some (.announce (s.get (VT_DOM_CFG_GPTP_DN d.val)) v (s.get (VT_DOM_CFG_UTC_OFFSET d.val)) (s.get (PTP_D_PRIO_SOURCE d.val))) ∧
      (s.bestAnnounce d.val = none ∨ (s.tdom d.val).isGm = true → v = s.ownPrio d.val) ∧
      (∀ q b, s.bestAnnounce d.val = some (q, b) → (s.tdom d.val).isGm = false → v = { b with steps := b.steps + 1 }) := by
  refine .of (exec_announceSend p d s) ?_
  rw [hu, hm, hx, if_pos (by rfl)]
  exact ⟨rfl, s.announced d.val, State.sent_ptpSend .., State.announced_own, fun _ _ => State.announced_received⟩

/-! ### Sync as grandmaster (R92, R99) -/

theorem sync_sent {p : PtpPort} {d : Dom} {phase : Fin 8} {s : State} (hu : s.ptpUp = true) (hm : s.get (PTP_P_STATE_STATE p.val d.val) = 1)
    (hg : (s.tdom d.val).isGm = true) :
    Completes (.syncSend p d phase) s fun t => t.regs = s.regs ∧
      let now := s.ptpStamp p.val d.val phase.val true
      tabGet (fun _ => none) t.time.sent p.val = some (.sync (s.get (VT_DOM_CFG_GPTP_DN d.val)) (now / 65536) ((now % 65536 : Nat) : Int)
        (s.get (PTP_D_GMINFO_TBI d.val)) (s.tdom d.val).gmPhase (s.on (PTP_P_CFG_ONESTEP p.val) && p.val != 16)) := by
  have hexec : exec (.syncSend p d phase) s = .next (s.ptpSend p.val (.sync (s.get (VT_DOM_CFG_GPTP_DN d.val))
      (s.ptpStamp p.val d.val phase.val true / 65536) ((s.ptpStamp p.val d.val phase.val true % 65536 : Nat) : Int)
      (s.get (PTP_D_GMINFO_TBI d.val)) (s.tdom d.val).gmPhase (s.on (PTP_P_CFG_ONESTEP p.val) && p.val != 16))) := by
    change execSyncSend p d phase s = _
    unfold execSyncSend
    rw [hu, hm, if_pos (by rfl)]
    dsimp only
    rw [hg]
  exact .of hexec ⟨rfl, State.sent_ptpSend ..⟩

/-! ### Path delay (R98) -/

theorem ptpDelay_fits (p : Nat) : (PTP_P_PDLY_DELAY p).fits := by simp [Fld.fits, PTP_P_PDLY_DELAY]

/-- The neighbour's rate ratio, measured where an earlier exchange is known. -/
def State.nrrMeasured (s : State) (p t3 t4 : Nat) : State :=
  match tabGet (fun _ => none) s.time.pdLast p with
  | some (u3, u4) =>
    if u4 < t4 then s.put (PTP_P_NRR_OFFSET p) (ofSigned 32 ((((t3 : Int) - u3) - ((t4 : Int) - u4)) * 2 ^ 41 / ((t4 : Int) - u4))) else s
  | none => s

/-- The link delay of an exchange is shown. -/
def State.delayShown (s : State) (p t1 t2 t3 t4 : Nat) : State :=
  s.put (PTP_P_PDLY_DELAY p) (ofSigned 64 (meanLinkDelay t1 t2 t3 t4 (toSigned 32 (s.get (PTP_P_NRR_OFFSET p)))))

/-- Port `p` ends its request and keeps the exchange for the next rate ratio. -/
def State.exchanged (s : State) (p t3 t4 : Nat) : State :=
  { s with time := { s.time with
    pdReq := tabSet (fun _ => none) s.time.pdReq p none, pdLast := tabSet (fun _ => none) s.time.pdLast p (some (t3, t4)) } }

theorem State.get_exchanged (s : State) (p t3 t4 : Nat) (f : Fld) : (s.exchanged p t3 t4).get f = s.get f := rfl

theorem State.time_exchanged (s : State) (p t3 t4 : Nat) : tabGet (fun _ => none) (s.exchanged p t3 t4).time.pdReq p = none ∧
    tabGet (fun _ => none) (s.exchanged p t3 t4).time.pdLast p = some (t3, t4) := by
  rw [State.exchanged, tabGet_tabSet_self, tabGet_tabSet_self]
  exact ⟨rfl, rfl⟩

/-- The delay shown is the one of the rate ratio shown. -/
theorem State.get_delayShown (s : State) (p t1 t2 t3 t4 : Nat) : (s.delayShown p t1 t2 t3 t4).get (PTP_P_PDLY_DELAY p) =
    ofSigned 64 (meanLinkDelay t1 t2 t3 t4 (toSigned 32 ((s.delayShown p t1 t2 t3 t4).get (PTP_P_NRR_OFFSET p)))) := by
  have hne : (PTP_P_NRR_OFFSET p).reg ≠ (PTP_P_PDLY_DELAY p).reg := by
    simp only [PTP_P_NRR_OFFSET, PTP_P_NRR, PTP_P_PDLY_DELAY, PTP_P_PDLY]
    omega
  have hnrr : (s.delayShown p t1 t2 t3 t4).get (PTP_P_NRR_OFFSET p) = s.get (PTP_P_NRR_OFFSET p) := State.get_put_ne _ _ hne
  rw [hnrr]
  exact State.get_put_small s (ptpDelay_fits p) (ofSigned_lt 64 _)

theorem State.exchange_measured (s : State) (p t1 t2 t3 t4 : Nat) :
    tabGet (fun _ => none) ((s.delayShown p t1 t2 t3 t4).exchanged p t3 t4).time.pdReq p = none ∧
      tabGet (fun _ => none) ((s.delayShown p t1 t2 t3 t4).exchanged p t3 t4).time.pdLast p = some (t3, t4) ∧
      ((s.delayShown p t1 t2 t3 t4).exchanged p t3 t4).get (PTP_P_PDLY_DELAY p) = ofSigned 64
        (meanLinkDelay t1 t2 t3 t4 (toSigned 32 (((s.delayShown p t1 t2 t3 t4).exchanged p t3 t4).get (PTP_P_NRR_OFFSET p)))) := by
  obtain ⟨hreq, hlast⟩ := State.time_exchanged (s.delayShown p t1 t2 t3 t4) p t3 t4
  rw [State.get_exchanged, State.get_exchanged]
  exact ⟨hreq, hlast, s.get_delayShown ..⟩

theorem exec_pdelayRespReceived (p : PtpPort) (phase : Fin 8) (t2 t3 : Nat) {s : State} {t1 : Nat} (h : s.pdPort p.val = true)
    (ht : tabGet (fun _ => none) s.time.pdReq p.val = some t1) : exec (.pdelayRespReceived p phase t2 t3) s =
      let t4 := s.ptpStamp p.val (s.pdDom p.val) phase.val false
      .next (((s.nrrMeasured p.val t3 t4).delayShown p.val t1 t2 t3 t4).exchanged p.val t3 t4) := by
  change execPdelayRespReceived p phase t2 t3 s = _
  unfold execPdelayRespReceived
  rw [h, ht]
  rfl

/-- Port `p` remembers when its request left. -/
def State.setPdReq (s : State) (p t1 : Nat) : State :=
  { s with time := { s.time with pdReq := tabSet (fun _ => none) s.time.pdReq p (some t1) } }

theorem State.pdReq_setPdReq (s : State) (p t1 : Nat) : tabGet (fun _ => none) (s.setPdReq p t1).time.pdReq p = some t1 := by
  rw [State.setPdReq, tabGet_tabSet_self]

theorem exec_pdelayReqSend (p : PtpPort) (phase : Fin 8) (s : State) : exec (.pdelayReqSend p phase) s = .next (if s.pdPort p.val then
    (s.setPdReq p.val (s.ptpStamp p.val (s.pdDom p.val) phase.val true)).ptpSend p.val
      (.pdelayReq (s.ptpStamp p.val (s.pdDom p.val) phase.val true)) else s) := rfl

theorem exec_pdelayReqReceived (p : PtpPort) (phase : Fin 8) (s : State) : exec (.pdelayReqReceived p phase) s =
    .next (if s.pdPort p.val then s.ptpSend p.val (.pdelayResp (s.ptpStamp p.val (s.pdDom p.val) phase.val false)) else s) := rfl

theorem pathDelay_measured {p : PtpPort} {phase : Fin 8} {s : State} (h : s.pdPort p.val = true) :
    Completes (.pdelayReqSend p phase) s (fun t => let t1 := s.ptpStamp p.val (s.pdDom p.val) phase.val true
      tabGet (fun _ => none) t.time.pdReq p.val = some t1 ∧ tabGet (fun _ => none) t.time.sent p.val = some (.pdelayReq t1) ∧ t.regs = s.regs) ∧
    Completes (.pdelayReqReceived p phase) s (fun t =>
      tabGet (fun _ => none) t.time.sent p.val = some (.pdelayResp (s.ptpStamp p.val (s.pdDom p.val) phase.val false)) ∧ t.regs = s.regs) ∧
    ∀ (t1 t2 t3 : Nat), tabGet (fun _ => none) s.time.pdReq p.val = some t1 → Completes (.pdelayRespReceived p phase t2 t3) s fun t =>
      let t4 := s.ptpStamp p.val (s.pdDom p.val) phase.val false
      tabGet (fun _ => none) t.time.pdReq p.val = none ∧ tabGet (fun _ => none) t.time.pdLast p.val = some (t3, t4) ∧
      t.get (PTP_P_PDLY_DELAY p.val) = ofSigned 64 (meanLinkDelay t1 t2 t3 t4 (toSigned 32 (t.get (PTP_P_NRR_OFFSET p.val)))) := by
  refine ⟨.of (exec_pdelayReqSend p phase s) ?_, .of (exec_pdelayReqReceived p phase s) ?_,
    fun t1 t2 t3 ht => .of (exec_pdelayRespReceived p phase t2 t3 h ht) ?_⟩
  · rw [if_pos h]
    exact ⟨State.pdReq_setPdReq .., State.sent_ptpSend .., rfl⟩
  · rw [if_pos h]
    exact ⟨State.sent_ptpSend .., rfl⟩
  · exact State.exchange_measured ..

/-! ### Signaling (R95) -/

theorem exec_signalingReceived (p : PtpPort) (dn : BitVec 7) (y : Option (BitVec 8)) {s : State} {d : Nat} (h : s.dnDomain dn.toNat = some d) :
    exec (.signalingReceived p dn y none none) s =
      .next (if s.ptpUp && (s.domPorts d).contains p.val then s.setIntv p.val d 0 y else s) := by
  change execSignalingReceived p dn y none none s = _
  unfold execSignalingReceived
  rw [h]
  rfl

theorem interval_set {p : PtpPort} {dn sync : BitVec 7} {s : State} {d : Nat} (hdn : s.dnDomain dn.toNat = some d) (hu : s.ptpUp = true)
    (hp : p.val ∈ s.domPorts d) (hs : sync.toNat < 126) :
    Completes (.signalingReceived p dn (some (sync.zeroExtend 8)) none none) s fun t =>
      tabGet (fun _ => none) t.time.intv (3 * (4 * p.val + d)) = some sync.toNat ∧ t.regs = s.regs := by
  have hcond : (s.ptpUp && (s.domPorts d).contains p.val) = true := by simp [hu, hp]
  have hval : (sync.zeroExtend 8).toNat = sync.toNat := BitVec.toNat_setWidth_of_le (by decide)
  have hset : s.setIntv p.val d 0 (some (sync.zeroExtend 8)) =
      { s with time := { s.time with intv := tabSet (fun _ => none) s.time.intv (3 * (4 * p.val + d)) (some sync.toNat) } } := by
    unfold State.setIntv
    dsimp only
    rw [hval, if_neg (by simp; omega), if_neg (by simp; omega)]
    rfl
  refine .of (exec_signalingReceived p dn _ hdn) ?_
  rw [hcond, if_pos rfl, hset]
  exact ⟨by rw [tabGet_tabSet_self], rfl⟩

/-! ### Sync and Follow_Up on the slave port (R85, R99) -/

theorem State.dnDomain_lt {s : State} {dn d : Nat} (h : s.dnDomain dn = some d) : d < 4 := List.mem_range.mp (List.mem_of_find?_eq_some h)

/-- The offset of a Sync whose origin is known. -/
theorem State.offset_syncMeasured (s : State) {d : Nat} (hd : d < 4) (p stamp origin : Nat) (c : Int) :
    (s.syncMeasured p d stamp origin c).get (DISC_OFFSET_OFFSET d) =
      ofSigned 64 ((stamp : Int) - ((65536 * origin : Nat) + c + s.linkDelay p)) := State.offset_servo _ hd _

theorem exec_syncReceived_twoStep (p : PtpPort) (dn : BitVec 7) (phase : Fin 8) {s : State} {d : Nat} (hdn : s.dnDomain dn.toNat = some d)
    (hu : s.ptpUp = true) (hs : s.get (PTP_P_STATE_STATE p.val d) = 2) : exec (.syncReceived p dn phase none) s =
      .next (s.setTdom d { s.tdom d with sync := some (s.ptpStamp p.val d phase.val false, p.val) }) := by
  change execSyncReceived p dn phase none s = _
  unfold execSyncReceived
  rw [hdn]
  dsimp only
  rw [hu, hs, if_pos (by simp)]

theorem exec_syncReceived_oneStep (p : PtpPort) (dn : BitVec 7) (phase : Fin 8) (o : Nat) (c : Int) {s : State} {d : Nat}
    (hdn : s.dnDomain dn.toNat = some d) (hu : s.ptpUp = true) (hs : s.get (PTP_P_STATE_STATE p.val d) = 2) :
    exec (.syncReceived p dn phase (some (o, c))) s = .next (s.syncMeasured p.val d (s.ptpStamp p.val d phase.val false) o c) := by
  change execSyncReceived p dn phase (some (o, c)) s = _
  unfold execSyncReceived
  rw [hdn]
  dsimp only
  rw [hu, hs, if_pos (by simp)]

theorem exec_followUpReceived (p : PtpPort) (dn : BitVec 7) (o : Nat) (c : Int) {s : State} {d st : Nat}
    (hdn : s.dnDomain dn.toNat = some d) (hu : s.ptpUp = true) (hs : s.get (PTP_P_STATE_STATE p.val d) = 2)
    (hw : (s.tdom d).sync = some (st, p.val)) : exec (.followUpReceived p dn o c) s = .next (s.syncMeasured p.val d st o c) := by
  change execFollowUpReceived p dn o c s = _
  unfold execFollowUpReceived
  rw [hdn]
  dsimp only
  rw [hw]
  dsimp only
  rw [hu, hs, if_pos (by simp)]

theorem sync_measured {p : PtpPort} {dn : BitVec 7} {phase : Fin 8} {s : State} {d : Nat} (hdn : s.dnDomain dn.toNat = some d)
    (hu : s.ptpUp = true) (hs : s.get (PTP_P_STATE_STATE p.val d) = 2) :
    let stamp := s.ptpStamp p.val d phase.val false
    Completes (.syncReceived p dn phase none) s (fun t => (t.tdom d).sync = some (stamp, p.val) ∧ t.regs = s.regs) ∧
    (∀ (o : Nat) (c : Int), Completes (.syncReceived p dn phase (some (o, c))) s fun t =>
      t.get (DISC_OFFSET_OFFSET d) = ofSigned 64 ((stamp : Int) - ((65536 * o : Nat) + c + s.linkDelay p.val))) ∧
    ∀ (st o : Nat) (c : Int), (s.tdom d).sync = some (st, p.val) → Completes (.followUpReceived p dn o c) s fun t =>
      t.get (DISC_OFFSET_OFFSET d) = ofSigned 64 ((st : Int) - ((65536 * o : Nat) + c + s.linkDelay p.val)) := by
  have hd := State.dnDomain_lt hdn
  refine ⟨.of (exec_syncReceived_twoStep p dn phase hdn hu hs) ⟨?_, rfl⟩,
    fun o c => .of (exec_syncReceived_oneStep p dn phase o c hdn hu hs) (s.offset_syncMeasured hd ..),
    fun st o c hw => .of (exec_followUpReceived p dn o c hdn hu hs hw) (s.offset_syncMeasured hd ..)⟩
  rw [State.tdom_setTdom_self]

/-! ### The Sync receipt timeout (R85) -/

theorem syncTo_fits (p : Nat) : (PTP_P_CNT_SYNC_TO p).fits := by simp [Fld.fits, PTP_P_CNT_SYNC_TO]

/-- What the loss of the master makes of a domain. -/
def State.masterLost (s : State) (d : Nat) : State :=
  if s.on (DISC_CTL_MODE d) then s
  else if s.syncState d == 3 then (s.rateFreeze d).setTState d 1
  else if s.syncState d == 2 then (s.rateFreeze d).setTState d (if (s.tdom d).everLocked then 1 else 0)
  else s

theorem exec_syncReceiptTimeout (p : PtpPort) (d : Dom) (s : State) : exec (.syncReceiptTimeout p d) s =
    .next (if s.vtOn && s.get (PTP_P_STATE_STATE p.val d.val) == 2 then (s.inc (PTP_P_CNT_SYNC_TO p.val) 1).masterLost d.val else s) := rfl

theorem State.get_masterLost (s : State) (d : Nat) {f : Fld} (hf : besideServo d f) : (s.masterLost d).get f = s.get f := by
  unfold State.masterLost
  split
  · rfl
  split
  · rw [State.get_setTState_beside _ _ hf, State.get_rateFreeze _ _ hf]
  split
  · rw [State.get_setTState_beside _ _ hf, State.get_rateFreeze _ _ hf]
  · rfl

/-- A locked domain in basic control holds over. -/
theorem State.syncState_masterLost {s : State} {d : Nat} (hd : d < 4) (hm : s.on (DISC_CTL_MODE d) = false) (hs : s.syncState d = 3) :
    (s.masterLost d).syncState d = 1 := by
  unfold State.masterLost
  rw [hm, hs, if_neg Bool.false_ne_true, if_pos (by rfl)]
  exact State.syncState_setTState _ hd (by decide)

theorem syncTimeout_counted {p : PtpPort} {d : Dom} {s : State} (hv : s.vtOn = true) (hs : s.get (PTP_P_STATE_STATE p.val d.val) = 2) :
    Completes (.syncReceiptTimeout p d) s fun t => t.get (PTP_P_CNT_SYNC_TO p.val) = (s.get (PTP_P_CNT_SYNC_TO p.val) + 1) % 2 ^ 16 ∧
      (s.on (DISC_CTL_MODE d.val) = false → s.syncState d.val = 3 → t.syncState d.val = 1) := by
  have hf := besideServo_syncTo p.isLt d.isLt
  have hcount : (s.inc (PTP_P_CNT_SYNC_TO p.val) 1).get (PTP_P_CNT_SYNC_TO p.val) = (s.get (PTP_P_CNT_SYNC_TO p.val) + 1) % 2 ^ 16 :=
    State.get_put_self s _ (syncTo_fits p.val)
  have hmode : (s.inc (PTP_P_CNT_SYNC_TO p.val) 1).on (DISC_CTL_MODE d.val) = s.on (DISC_CTL_MODE d.val) :=
    State.on_put_ne s _ (Ne.symm hf.2.2.2.1)
  have hstate : (s.inc (PTP_P_CNT_SYNC_TO p.val) 1).syncState d.val = s.syncState d.val := State.get_put_ne s _ (Ne.symm hf.2.1)
  refine .of (exec_syncReceiptTimeout p d s) ?_
  rw [hv, hs, if_pos (by rfl), State.get_masterLost _ _ hf, hcount]
  exact ⟨rfl, fun hm h3 => State.syncState_masterLost d.isLt (hmode.trans hm) (hstate.trans h3)⟩

/-- Settles O14, message by message: the selection of ports keeps the Announces (`State.announceOf_ptpSelect`), and `DISC_OFFSET` shows what
was measured whatever the servo does (`State.offset_servo`). -/
theorem gptpMessagesComplete : Obligations.GptpMessagesComplete :=
  ⟨fun _ _ _ _ _ hdn hu hp hx hs hg => announce_held hdn hu hp hx hs hg, fun _ _ _ hv hx ha => announce_forgotten hv hx ha,
    fun _ _ _ hu hm hx => announce_sent hu hm hx, fun _ _ _ _ hu hm hg => sync_sent hu hm hg, fun _ _ _ h => pathDelay_measured h,
    fun _ _ _ _ _ hdn hu hp hs => interval_set hdn hu hp hs, fun _ _ _ _ _ hdn hu hs => sync_measured hdn hu hs,
    fun _ _ _ hv hs => syncTimeout_counted hv hs⟩

end Sys2Proof.Machine
end

section
/-! The power states under the coherent mesh and the memory controller, which a domain drives as it goes down: none of their operations
changes one (R321 to R341, R372 to R386, R450). -/

namespace Sys2Proof.Machine

open Sys2Proof

/-! ### Repeated and conditional operations -/

@[simp] theorem State.power_when (s : State) (c : Bool) (f : State → State) : (s.when c f).power = if c then (f s).power else s.power := by
  cases c <;> rfl

theorem State.power_each {α : Type} (s : State) (l : List α) {f : α → State → State} (h : ∀ a t, (f a t).power = t.power) :
    (s.each l f).power = s.power := State.each_same State.power l (fun a _ t => h a t) s

@[simp] theorem State.power_pmuCount (s : State) (p : PmuPlace) (i k : Nat) : (s.pmuCount p i k).power = s.power := (ClocksKept.pmuCount ..).power

@[simp] theorem State.power_memCount (s : State) (i : Nat) : (s.memCount i).power = s.power := s.power_pmuCount ..

@[simp] theorem State.power_sherd (s : State) (k : Nat) (st : Status) (src : Nat) (w : World) (rq a p y : Nat) :
    (s.sherd k st src w rq a p y).power = s.power := (LogOnly.sherd ..).power

@[simp] theorem State.power_sherdScrub (s : State) (k : Nat) (st : Status) (src a y : Nat) : (s.sherdScrub k st src a y).power = s.power :=
  (LogOnly.scrub ..).power

@[simp] theorem State.power_wheelFinish (s : State) (i : Nat) (st : Status) (missed : Bool) (t : Nat) :
    (s.wheelFinish i st missed t).power = s.power := (ClocksKept.wheelFinish ..).power

/-! ### The memory controller (R372 to R386) -/

@[simp] theorem State.power_bwCount (s : State) (p : Nat) : (s.bwCount p).power = s.power := by
  unfold State.bwCount
  dsimp only
  split <;> simp

@[simp] theorem State.power_setBytes (s : State) (a v n : Nat) : (s.setBytes a v n).power = s.power := by
  induction n generalizing s a v with
  | zero => rfl
  | succ n ih => simp [State.setBytes, ih]

@[simp] theorem State.power_flipBit (s : State) (l w b : Nat) : (s.flipBit l w b).power = s.power := by
  unfold State.flipBit
  dsimp only
  split <;> simp

@[simp] theorem State.power_wedgeTouch (s : State) (l : Nat) : (s.wedgeTouch l).power = s.power := by
  unfold State.wedgeTouch
  dsimp only
  repeat' split
  all_goals simp

@[simp] theorem State.power_crazeCount (s : State) (a b c : Nat) : (s.crazeCount a b c).power = s.power := by
  unfold State.crazeCount
  dsimp only
  repeat' split
  all_goals simp

@[simp] theorem State.power_dramRead (s : State) (q : MemReq) (l : Nat) (scrub : Bool) : (s.dramRead q l scrub).1.power = s.power := by
  unfold State.dramRead
  dsimp only
  repeat' split
  all_goals simp
  all_goals
    rw [State.power_each]
    · simp
    · intro p t
      split <;> simp

@[simp] theorem State.power_dmcInject (s : State) (l : Nat) : (s.dmcInject l).power = s.power := by
  unfold State.dmcInject
  dsimp only
  repeat' split
  all_goals simp

@[simp] theorem State.power_dramWrite (s : State) (q : MemReq) (l m v : Nat) (p : Bool) : (s.dramWrite q l m v p).power = s.power := by
  unfold State.dramWrite
  dsimp only
  split
  · rw [State.power_dmcInject, State.power_setSynd, State.power_setBytes, State.power_bwCount, State.power_memCount, State.power_wedgeTouch]
  · rw [State.power_dmcInject, State.power_setSynd, State.power_when, State.power_sherd, ite_self, State.power_setBytes, State.power_dramRead,
      State.power_memCount, State.power_memCount]

/-! ### The mesh (R321 to R341) -/

@[simp] theorem State.power_slcEvict (s : State) (q : MemReq) (l : Nat) : (s.slcEvict q l).power = s.power := by
  unfold State.slcEvict
  split <;> simp

@[simp] theorem State.power_slcPut (s : State) (q : MemReq) (l v : Nat) (d p : Bool) : (s.slcPut q l v d p).power = s.power := by
  unfold State.slcPut State.tickAge
  dsimp only
  repeat' split
  all_goals simp

@[simp] theorem State.power_memLine (s : State) (q : MemReq) (l : Nat) : (s.memLine q l).1.power = s.power := by
  unfold State.memLine
  repeat' split
  all_goals simp

@[simp] theorem State.power_memWriteLine (s : State) (q : MemReq) (l m v : Nat) : (s.memWriteLine q l m v).power = s.power := by
  unfold State.memWriteLine
  split <;> simp

@[simp] theorem State.power_epochRelease (s : State) (c : Nat) (early : Bool) : (s.epochRelease c early).power = s.power := by
  unfold State.epochRelease
  dsimp only
  split
  · rfl
  · simp
    refine State.power_each _ _ fun p t => ?_
    split <;> simp

@[simp] theorem State.power_forceCommit (s : State) (l : Nat) (who : Nat → Bool) : (s.forceCommit l who).power = s.power := by
  unfold State.forceCommit
  refine State.power_each _ _ fun c t => ?_
  split <;> simp

@[simp] theorem State.power_clearResv (s : State) (l : Nat) (who : Nat → Bool) : (s.clearResv l who).power = s.power := rfl

@[simp] theorem State.power_dirtyDown (s : State) (q : MemReq) (c l v : Nat) (p : Bool) : (s.dirtyDown q c l v p).power = s.power := by
  unfold State.dirtyDown
  dsimp only
  split <;> simp

@[simp] theorem State.power_giveUp (s : State) (q : MemReq) (c l : Nat) : (s.giveUp q c l).power = s.power := by
  unfold State.giveUp
  dsimp only
  repeat' split
  all_goals simp

@[simp] theorem State.power_l2Install (s : State) (q : MemReq) (c l : Nat) (st : Mesi) (v : Nat) (p : Bool) :
    (s.l2Install q c l st v p).power = s.power := by
  unfold State.l2Install State.tickAge
  dsimp only
  split <;> simp

@[simp] theorem State.power_snoopAct (s : State) (c l : Nat) (k : SnpKind) : (s.snoopAct c l k).power = s.power := by
  unfold State.snoopAct
  dsimp only
  repeat' split
  all_goals simp

@[simp] theorem State.power_answerAct (s : State) (c l : Nat) : (s.answerAct c l).power = s.power := by
  unfold State.answerAct
  dsimp only
  split <;> simp

@[simp] theorem State.power_txnData (s : State) (q : MemReq) (t : Txn) (l : Nat) : (s.txnData q t l).1.power = s.power := by
  unfold State.txnData
  split <;> simp

@[simp] theorem State.power_slcMove (s : State) (q : MemReq) (l : Nat) : (s.slcMove q l).power = s.power := s.power_slcEvict q l

@[simp] theorem State.power_placeTake (s : State) (l : Nat) : (s.placeTake l).power = s.power := 
  State.power_each _ _ fun _ _ => rfl

@[simp] theorem State.power_grantAct (s : State) (l : Nat) : (s.grantAct l).power = s.power := by
  unfold State.grantAct
  dsimp only
  repeat' split
  all_goals simp

@[simp] theorem State.power_stashFillAct (s : State) (c l : Nat) : (s.stashFillAct c l).power = s.power := by
  unfold State.stashFillAct
  dsimp only
  repeat' split
  all_goals simp

@[simp] theorem State.power_endHold (s : State) (c l : Nat) : (s.endHold c l).power = s.power := by
  unfold State.endHold
  split <;> simp

@[simp] theorem State.power_cohFinish (s : State) (l : Nat) : (s.cohFinish l).power = s.power := by
  have hsnoop (u : State) (cs : List Nat) (k : Nat → SnpKind) : (u.each cs fun c t => (t.endHold c l).snoopAct c l (k c)).power = u.power :=
    State.power_each _ _ fun _ _ => by simp
  have hanswer (u : State) (cs : List Nat) : (u.each cs fun c t => t.answerAct c l).power = u.power := State.power_each _ _ fun _ _ => by simp
  unfold State.cohFinish
  dsimp only
  repeat' split
  all_goals simp [hsnoop, hanswer]

@[simp] theorem State.power_l2Drain (s : State) (c : Nat) : (s.l2Drain c).power = s.power := 
  State.power_each _ _ fun _ _ => by simp

@[simp] theorem State.power_apcLost (s : State) : s.apcLost.power = s.power := by
  unfold State.apcLost
  refine State.power_each _ _ fun e t => ?_
  dsimp only
  repeat' split
  all_goals simp

end Sys2Proof.Machine
end

section
/-! The power states of the other domains while one domain goes down or comes up (R392, R427, R439 to R445, R467 to R473, R503). -/

namespace Sys2Proof.Machine

open Sys2Proof

/-- From `s` to `t` the power state of domain `d` may differ, and what AON keeps of it; neither another domain's nor the layout does. -/
structure DomOnly (d : Nat) (s t : State) : Prop where
  layout : t.power.layout = s.power.layout
  other : ∀ k, k ≠ d → t.dom k = s.dom k

theorem DomOnly.of_power {d : Nat} {s t : State} (h : t.power = s.power) : DomOnly d s t :=
  ⟨by rw [h], fun k _ => by rw [State.dom, h, State.dom]⟩

theorem DomOnly.refl (d : Nat) (s : State) : DomOnly d s s := .of_power rfl

theorem DomOnly.trans {d : Nat} {s t u : State} (h : DomOnly d s t) (g : DomOnly d t u) : DomOnly d s u :=
  ⟨g.layout.trans h.layout, fun k hk => (g.other k hk).trans (h.other k hk)⟩

/-- What changes no power state may follow. -/
theorem DomOnly.then {d : Nat} {s t u : State} (h : DomOnly d s t) (g : u.power = t.power) : DomOnly d s u := h.trans (.of_power g)

theorem DomOnly.thenWhen {d : Nat} {s t : State} {c : Bool} {f : State → State} (g : ∀ u, (f u).power = u.power) (h : DomOnly d s t) :
    DomOnly d s (t.when c f) := h.then (State.when_same State.power t c (g t))

theorem DomOnly.thenEach {α : Type} {d : Nat} {s t : State} {l : List α} {f : α → State → State} (g : ∀ a u, (f a u).power = u.power)
    (h : DomOnly d s t) : DomOnly d s (t.each l f) := h.then (State.power_each t l g)

theorem DomOnly.setDom (s : State) (d : Nat) (v : DomainSt) : DomOnly d s (s.setDom d v) :=
  ⟨rfl, fun k hk => by rw [State.dom_setDom, if_neg hk]⟩

theorem DomOnly.setPower (s : State) (d : Nat) (p : DomPower) : DomOnly d s (s.setPower d p) := by
  unfold State.setPower
  exact (DomOnly.setDom ..).then (State.power_put ..)

theorem DomOnly.when {d : Nat} {s : State} (c : Bool) {f : State → State} (h : DomOnly d s (f s)) : DomOnly d s (s.when c f) := by
  cases c
  · exact .refl d s
  · exact h

@[simp] theorem State.dom_setPower (s : State) (d : Nat) (p : DomPower) : (s.setPower d p).dom d = { s.dom d with power := p } := by
  rw [State.setPower, State.dom_put, State.dom_setDom_self]

/-! ### What a domain drives as it goes down -/

@[simp] theorem State.power_setGrant (s : State) (g : Option Grant) : (s.setGrant g).power = s.power := by
  unfold State.setGrant
  dsimp only
  split <;> rfl

@[simp] theorem State.power_background (s : State) : s.background.power = s.power := by
  unfold State.background
  dsimp only
  split <;> simp

@[simp] theorem State.power_arbWithdraw (s : State) (d : Nat) : (s.arbWithdraw d).power = s.power := by
  refine State.power_each _ _ fun p t => ?_
  dsimp only
  repeat' split
  all_goals simp

@[simp] theorem State.power_breakLocks (s : State) (who : Nat → Bool) : (s.breakLocks who).power = s.power := by
  refine State.power_each _ _ fun n t => ?_
  dsimp only [State.lockBreak]
  split <;> rfl

@[simp] theorem State.power_hovDomainReset (s : State) (d : Nat) : (s.hovDomainReset d).power = s.power := rfl

@[simp] theorem State.power_setTState (s : State) (d new : Nat) : (s.setTState d new).power = s.power := by
  rcases s.setTState_cases d new with ⟨-, h⟩ | ⟨-, h⟩
  · rw [h]
  · rw [h.power, State.showState, State.power_raise, State.power_when, State.power_put, ite_self, State.enterState, State.power_setTdom,
      State.power_put]

@[simp] theorem State.power_setGm (s : State) (d : Nat) (gm : Bool) : (s.setGm d gm).power = s.power := by
  unfold State.setGm
  dsimp only
  repeat' split
  all_goals simp

theorem State.power_portStates (s : State) (d : Nat) (l : List Nat) (g : Nat → Nat) :
    (s.each l fun p u => u.put (PTP_P_STATE_STATE p d) (g p)).power = s.power := State.power_each _ _ fun _ _ => rfl

@[simp] theorem State.power_ptpSelect (s : State) (d : Nat) : (s.ptpSelect d).power = s.power := by
  unfold State.ptpSelect
  dsimp only
  repeat' split
  all_goals simp only [State.power_put, State.power_setGm, State.power_portStates]

@[simp] theorem State.power_ptpSelectAll (s : State) : s.ptpSelectAll.power = s.power := State.power_each _ _ fun _ _ => by simp

/-- The engines and arrays of a domain are not its power state. -/
@[simp] theorem State.power_domState (s : State) (d : Nat) : (s.domState d).power = s.power := by
  have hfinish (u : State) (l : List Nat) : (u.each l fun k t => t.cohFinish k).power = u.power := State.power_each _ _ fun _ _ => by simp
  unfold State.domState State.hartsLost
  split
  · rfl
  · rfl
  · simp [hfinish]
  · rfl
  · exact State.power_each _ _ fun _ _ => by simp
  · refine State.power_each _ _ fun c t => ?_
    split <;> simp
  · rfl
  · rfl

@[simp] theorem State.power_domRegs (s : State) (d : Nat) (cold : Bool) : (s.domRegs d cold).power = s.power := by
  unfold State.domRegs
  dsimp only
  repeat' split
  all_goals rfl

@[simp] theorem State.power_closeAsk (s : State) (r : CloseFor) : (s.closeAsk r).power = s.power := by
  unfold State.closeAsk
  split <;> rfl

@[simp] theorem State.power_ldgReopen (s : State) : s.ldgReopen.power = s.power := by
  unfold State.ldgReopen
  split
  · rfl
  · exact (ClocksKept.ldgAccept ..).power

/-! ### A domain goes down (R442, R503) -/

/-- The copies AON keeps of MEM are no power state. -/
theorem DomOnly.retainMem (d : Nat) (s : State) : DomOnly d s s.retainMem := ⟨rfl, fun _ _ => rfl⟩

theorem DomOnly.netArm (d : Nat) (s : State) : DomOnly d s s.netArm := ⟨rfl, fun _ _ => rfl⟩

theorem DomOnly.domDown (s : State) (d : Nat) (p : DomPower) (cold : Bool) : DomOnly d s (s.domDown d p cold) := by
  unfold State.domDown
  dsimp only
  refine DomOnly.trans ?_ (.setPower ..)
  refine .thenWhen State.power_ptpSelectAll (.thenEach (fun _ _ => rfl) ?_)
  refine DomOnly.then ?_ (State.power_domRegs ..)
  refine DomOnly.then ?_ (State.power_domState ..)
  refine DomOnly.trans ?_ (.setDom ..)
  refine DomOnly.trans ?_ (.when _ (.retainMem ..))
  exact .of_power (by rw [State.power_hovDomainReset, State.power_breakLocks, State.power_arbWithdraw])

theorem State.dom_domDown (s : State) (d : Nat) (p : DomPower) (cold : Bool) : ((s.domDown d p cold).dom d).power = p := by
  unfold State.domDown
  dsimp only
  rw [State.dom_setPower]

theorem DomOnly.domOff (s : State) (d : Nat) : DomOnly d s (s.domOff d) := by
  unfold State.domOff
  split
  · exact .refl d s
  · dsimp only
    refine DomOnly.trans ?_ (.domDown ..)
    refine DomOnly.trans ?_ (.when _ (.netArm ..))
    refine .thenWhen (fun u => State.power_each _ _ fun _ _ => by simp) ?_
    exact .thenWhen (fun u => State.power_each _ _ fun _ _ => by simp) (.refl d s)

/-- An orderly power-down ends with the domain off. -/
theorem State.dom_domOff (s : State) (d : Nat) : ((s.domOff d).dom d).power = .off := by
  unfold State.domOff
  split
  case isTrue h => exact eq_of_beq h
  case isFalse => exact State.dom_domDown ..

theorem DomOnly.emulOff (s : State) (d : Nat) : DomOnly d s (s.emulOff d) := by
  unfold State.emulOff
  split
  · exact .refl d s
  · dsimp only
    refine .thenWhen (fun u => State.power_each _ _ fun c u => ?_) ((DomOnly.setDom ..).then (State.power_put ..))
    split <;> rfl

theorem DomOnly.modeOff (s : State) (e : Bool) (d : Nat) : DomOnly d s (s.modeOff e d) := by
  unfold State.modeOff
  split
  · exact .emulOff ..
  · exact .domOff ..

theorem DomOnly.secRetain (s : State) : DomOnly SEC s s.secRetain := (DomOnly.setDom ..).trans (.setPower ..)

/-! ### A domain moves toward what is wanted of it (R470, R473) -/

theorem DomOnly.emulBack (s : State) (d : Nat) : DomOnly d s (s.emulBack d) := by
  unfold State.emulBack
  split
  · exact .refl d s
  · dsimp only
    refine .thenWhen State.power_ldgReopen ?_
    refine .thenWhen (fun u => State.power_each _ _ fun c u => ?_) ((DomOnly.setDom ..).trans (.setPower ..))
    split <;> rfl

theorem DomOnly.domStep (s : State) (d : Nat) : DomOnly d s (s.domStep d) := by
  unfold State.domStep
  dsimp only
  split
  · split
    · exact .emulBack ..
    split
    · exact .setPower ..
    · exact .thenWhen State.power_ldgReopen (.setPower ..)
    · exact .refl d s
  · split
    · split
      · exact .refl d s
      split
      · exact .emulOff ..
      · exact .thenWhen (fun u => u.power_closeAsk _) (.setPower ..)
    · exact .domDown ..
    · exact .refl d s

/-- Operations on the domains of a list leave the layout and the domains outside it. -/
theorem DomOnly.each_outside {s : State} (l : List Nat) {f : Nat → State → State} (h : ∀ d t, DomOnly d t (f d t)) :
    (s.each l f).power.layout = s.power.layout ∧ ∀ k, k ∉ l → (s.each l f).dom k = s.dom k := by
  refine State.each_keeps (P := fun t => t.power.layout = s.power.layout ∧ ∀ k, k ∉ l → t.dom k = s.dom k) l ⟨rfl, fun _ _ => rfl⟩ ?_
  rintro d hd t ⟨hl, hk⟩
  exact ⟨(h d t).layout.trans hl, fun k hkl => ((h d t).other k fun e => hkl (e ▸ hd)).trans (hk k hkl)⟩

/-- What such an operation makes of its domain stands at the end, each domain taken once. -/
theorem DomOnly.each_inside {P : DomainSt → Prop} {f : Nat → State → State} (h : ∀ d t, DomOnly d t (f d t))
    (hp : ∀ d t, P ((f d t).dom d)) (l : List Nat) (hl : l.Nodup) (s : State) : ∀ d ∈ l, P ((s.each l f).dom d) := by
  induction l generalizing s with
  | nil => simp
  | cons a l ih =>
    obtain ⟨ha, hl⟩ := List.nodup_cons.mp hl
    intro d hd
    rcases List.mem_cons.mp hd with rfl | hd
    · exact ((each_outside l h).2 d ha).symm ▸ hp d s
    · exact ih hl (f a s) d hd

end Sys2Proof.Machine
end

section
/-! The governor: what its records and interrupts change, modes and their requests, the entry into Keep and Sleep and the way back (R465 to
R470, R476, R483). -/

namespace Sys2Proof.Machine

open Sys2Proof

/-! ### Records and interrupts of AON's blocks (R254, R314, R315, R483) -/

/-- The registers that a record, the supply pages' interrupt status and the delivery of their vectors can change. -/
def alertRegs : List Nat :=
  logRegs ++ [SUP_W_IRQ_STATUS 0, SUP_W_IRQ_STATUS 1, WDN_IPEND] ++ (List.range 4).map TKC_IPEND ++ (List.range 8).map PWR_S_CORE

/-- From `s` to `t` no power state changed, and no register but those of an alert. -/
structure Alerted (s t : State) : Prop where
  power : t.power = s.power
  reg : ∀ k ∉ alertRegs, t.rd k = s.rd k

theorem Alerted.refl (s : State) : Alerted s s := ⟨rfl, fun _ _ => rfl⟩

theorem Alerted.trans {s t u : State} (h : Alerted s t) (g : Alerted t u) : Alerted s u :=
  ⟨g.power.trans h.power, fun k hk => (g.reg k hk).trans (h.reg k hk)⟩

theorem Alerted.put (s : State) {f : Fld} (v : Nat) (hf : f.reg ∈ alertRegs) : Alerted s (s.put f v) :=
  ⟨rfl, fun _ hk => State.rd_put_ne _ _ fun e => hk (e ▸ hf)⟩

theorem Alerted.get {s t : State} (h : Alerted s t) {f : Fld} (hf : f.reg ∉ alertRegs) : t.get f = s.get f := by
  unfold State.get
  rw [h.reg _ hf]

theorem LogOnly.alerted {s t : State} (h : LogOnly s t) : Alerted s t :=
  ⟨h.power, fun _ hk => h.rd fun hl => hk (by simp [alertRegs, hl])⟩

theorem Alerted.irqWake (s : State) (h : Nat) : Alerted s (s.irqWake h) := by
  refine ⟨(ClocksKept.irqWake s h).power, fun k hk => ?_⟩
  by_cases h8 : h < 8
  · refine (State.irqWake_woken s h).reg k fun e => hk ?_
    rw [e, alertRegs]
    exact List.mem_append_right _ (List.mem_map_of_mem (List.mem_range.mpr h8))
  · unfold State.irqWake
    dsimp only
    rw [decide_eq_false h8, Bool.false_and, Bool.false_and, State.when_false]
    split <;> rfl

theorem licPend_alert (n : Nat) : (licPend n).reg ∈ alertRegs := by
  have hlines : ∀ n < 4, TKC_IPEND n ∈ alertRegs := by decide
  have hwarden : WDN_IPEND ∈ alertRegs := by decide
  unfold licPend
  split
  case isTrue h => exact hlines n h
  case isFalse => exact hwarden

theorem Alerted.msiTo (s : State) (w : World) (src h f e : Nat) : Alerted s (s.msiTo w src h f e).1 := by
  rcases s.msiTo_cases w src h f e with hlog | hfile | ⟨n, -, hline⟩
  · exact hlog.alerted
  · have hnote (u : State) : Alerted u (u.noteArrival h f e) :=
      ⟨(ClocksKept.noteArrival u h f e).power, fun k _ => by rw [State.rd, (State.noteArrival_frame u h f e).2, State.rd]⟩
    rw [hfile]
    exact (show Alerted s (s.setImsic h f _) from ⟨rfl, fun _ _ => rfl⟩).trans ((hnote _).trans (.irqWake _ h))
  · rw [hline]
    exact (Alerted.put s _ (licPend_alert n)).trans (.irqWake _ _)

theorem Alerted.vecSend (s : State) (w : World) (src vec : Nat) : Alerted s (s.vecSend w src vec).1 := by
  unfold State.vecSend
  dsimp only
  split
  · exact .refl s
  split
  · exact (LogOnly.sherd ..).alerted
  · exact .msiTo ..

theorem Alerted.supIrq (s : State) (m : Nat) : Alerted s (s.supIrq m) := by
  have hpages : ∀ w ∈ [0, 1], SUP_W_IRQ_STATUS w ∈ alertRegs := by decide
  refine State.each_keeps (P := Alerted s) _ (.refl s) fun w hw t ht => ht.trans ?_
  have hraise : Alerted t (t.raise ⟨SUP_W_IRQ_STATUS w, 0, 4⟩ m) := .put t _ (hpages w hw)
  unfold State.withVec
  dsimp only
  split
  · exact hraise.trans (.vecSend ..)
  · exact hraise

theorem Alerted.closeAsk (s : State) (r : CloseFor) : Alerted s (s.closeAsk r) := by
  refine ⟨s.power_closeAsk r, fun _ _ => ?_⟩
  unfold State.closeAsk
  split <;> rfl

theorem Alerted.setLdg (s : State) (v : LdgSt) : Alerted s (s.setLdg v) := ⟨rfl, fun _ _ => rfl⟩

theorem Alerted.ldgReopen (s : State) : Alerted s s.ldgReopen := by
  unfold State.ldgReopen
  split
  · exact .setLdg ..
  · exact (Alerted.setLdg ..).trans (LogOnly.ofLdg (.accept ..)).alerted

/-! ### The mode is computed anew (R466) -/

theorem govFields_fit : PWR_GOV_MODE.fits ∧ PWR_GOV_BMODE.fits ∧ PWR_GOV_EFFECTIVE.fits ∧ PWR_GOV_DRAW.fits := by
  simp [Fld.fits, PWR_GOV_MODE, PWR_GOV_BMODE, PWR_GOV_EFFECTIVE, PWR_GOV_DRAW]

section
variable (s : State) {f : Fld} (ha : f.reg ∉ alertRegs) (hs : f.reg ≠ PWR_STATUS) (hm : f.apart PWR_GOV_MODE)
include ha hs hm

/-- A change of mode leaves a field that shows neither the mode, the last one nor an alert. -/
theorem State.get_setMode (m : Nat) : (s.setMode m).get f = s.get f := by
  have hshow : (((s.put PWR_STATUS_LASTMODE (s.get PWR_GOV_MODE)).put PWR_GOV_MODE m)).get f = s.get f := by
    rw [State.get_put_apart _ _ govFields_fit.1 hm, State.get_put_ne _ _ hs]
  have halert (u : State) (a b c d : Nat) : ((u.supRec a b c).supIrq d).get f = u.get f := by
    rw [(Alerted.supIrq ..).get ha, State.supRec, (LogOnly.ofLdg (.accept ..)).alerted.get ha]
  unfold State.setMode
  dsimp only
  split
  · rw [State.get_setPow, halert, hshow]
  split
  · rw [(Alerted.closeAsk ..).get ha, halert, hshow]
  · rw [halert, hshow]

theorem State.get_governNow : s.governNow.get f = s.get f := by
  unfold State.governNow
  dsimp only
  split
  · exact State.when_same (fun t => t.get f) _ _ ((Alerted.closeAsk ..).get ha)
  · exact s.get_setMode ha hs hm _

/-- The governor's shown values. -/
def State.govShown (s : State) : State := (s.put PWR_GOV_BMODE s.budgetMode).put PWR_GOV_EFFECTIVE s.effBudget

omit ha hs hm in
theorem State.govern_cases (s : State) : s.govern = s.govShown ∨ s.govern = s.govShown.governNow := by
  unfold State.govern
  dsimp only
  split
  · exact .inl rfl
  · exact .inr rfl

/-- The governor leaves what shows neither its register, its status nor an alert. -/
theorem State.get_govern (hg : f.reg ≠ PWR_GOV) : s.govern.get f = s.get f := by
  have hshown : s.govShown.get f = s.get f := by
    rw [State.govShown, State.get_put_ne _ _ hg, State.get_put_ne _ _ hg]
  rcases s.govern_cases with h | h
  · rw [h, hshown]
  · rw [h, State.get_governNow _ ha hs hm, hshown]

end

theorem effective_apart : PWR_GOV_EFFECTIVE.apart PWR_GOV_MODE := by simp [Fld.apart, PWR_GOV_EFFECTIVE, PWR_GOV_MODE]

/-- The budget in effect is shown. -/
theorem State.effective_govern (s : State) : s.govern.get PWR_GOV_EFFECTIVE = s.effBudget % 2 ^ PWR_GOV_EFFECTIVE.w := by
  have ha : PWR_GOV ∉ alertRegs := by decide
  have hs : PWR_GOV ≠ PWR_STATUS := by decide
  have hshown : s.govShown.get PWR_GOV_EFFECTIVE = s.effBudget % 2 ^ PWR_GOV_EFFECTIVE.w := State.get_put_self _ _ govFields_fit.2.2.1
  rcases s.govern_cases with h | h
  · rw [h, hshown]
  · rw [h, State.get_governNow _ ha hs effective_apart, hshown]

/-- In Keep and Sleep the governor leaves the power states. -/
theorem State.power_govern {s : State} (hl : 2 ≤ s.power.layout) : s.govern.power = s.power := by
  have hmode (u : State) (m : Nat) (hu : u.power = s.power) : (u.setMode m).power = s.power := by
    have halert (v : State) (a b c d : Nat) : ((v.supRec a b c).supIrq d).power = v.power := by
      rw [(Alerted.supIrq ..).power, State.supRec, (ClocksKept.ldgAccept ..).power]
    unfold State.setMode
    dsimp only
    rw [halert, State.power_put, State.power_put, hu, decide_eq_false (by omega), Bool.false_and, if_neg Bool.false_ne_true]
    split
    · rw [State.power_closeAsk, halert, State.power_put, State.power_put, hu]
    · rw [halert, State.power_put, State.power_put, hu]
  have hshown : s.govShown.power = s.power := rfl
  rcases s.govern_cases with h | h
  · rw [h, hshown]
  · rw [h]
    unfold State.governNow
    dsimp only
    split
    · exact (State.when_same State.power _ _ (State.power_closeAsk ..)).trans hshown
    · exact hmode _ _ hshown

/-! ### Clocks, samples and requests (R465, R466, R468, R476) -/

theorem clkFld_fits (c : Nat) : (clkFld c).fits := by
  unfold clkFld
  split <;> simp [Fld.fits, PWR_APCCLK_CLK0, PWR_APCCLK_CLK1]

theorem exec_apcClockStep (c : Cluster) (s : State) : exec (.apcClockStep c) s = .next (if s.outOfReset APC then s.clkStep c.val else s) := rfl

theorem clockStep_moves {c : Cluster} {s : State} (h : s.outOfReset APC = true) : Completes (.apcClockStep c) s fun t =>
    let v := s.get (clkFld c.val)
    let l := s.apcLimit c.val
    t.get (clkFld c.val) = (if l < v then Nat.max l (v - 100) else Nat.min l (v + 100)) % 2 ^ (clkFld c.val).w ∧ t.power = s.power ∧ t.cpu = s.cpu := by
  refine .of (exec_apcClockStep c s) ?_
  rw [if_pos h]
  exact ⟨State.get_put_self _ _ (clkFld_fits _), rfl, rfl⟩

/-- The cap of a cluster after a sample of `draw` against the budget `e` in a mode of clock `m` (R468). -/
def capAfter (v e m draw : Nat) : Nat :=
  let v := Nat.min v m
  if e < draw then Nat.max 400 (v - 100) else if draw * 100 < e * 95 then Nat.min m (v + 100) else v

def State.setCap (s : State) (c v : Nat) : State := s.setPow { s.power with cap := tabSet (fun _ => 2400) s.power.cap c v }

theorem State.capOf_setCap (s : State) (c v k : Nat) : (s.setCap c v).capOf k = if k = c then v else s.capOf k := tabGet_tabSet ..

/-- The draw shown, before the caps follow it. -/
def State.drawn (s : State) (draw : Nat) : State := s.put PWR_GOV_DRAW draw

theorem State.powerSample_eq (s : State) (draw : Nat) : s.powerSample draw = (s.drawn draw).each [0, 1] fun c t =>
    t.setCap c (capAfter (t.capOf c) (s.drawn draw).effBudget (modeClock ((s.drawn draw).get PWR_GOV_MODE)) draw) := rfl

theorem State.effBudget_congr {s t : State} (hb : t.get PWR_GOV_BUDGET = s.get PWR_GOV_BUDGET) (hi : t.get SUP_STATUS_INPUT = s.get SUP_STATUS_INPUT)
    (hp : t.power = s.power) : t.effBudget = s.effBudget := by
  unfold State.effBudget
  rw [hb, hi, hp]

theorem drawn_apart : PWR_GOV_BUDGET.apart PWR_GOV_DRAW ∧ SUP_STATUS_INPUT.apart PWR_GOV_DRAW ∧ PWR_GOV_MODE.apart PWR_GOV_DRAW := by
  simp [Fld.apart, PWR_GOV_BUDGET, PWR_GOV_DRAW, SUP_STATUS_INPUT, PWR_GOV_MODE, SUP_STATUS, PWR_GOV]

theorem exec_governorPowerSample (draw : BitVec 10) (s : State) : exec (.governorPowerSample draw) s =
    .next (if s.outOfReset AON && decide (s.power.layout < 2) && decide (2 ≤ s.get FIRE_STATUS_STAGE) then s.powerSample draw.toNat else s) := rfl

theorem powerSample_caps {draw : BitVec 10} {s : State} (ho : s.outOfReset AON = true) (hl : s.power.layout < 2) (hf : 2 ≤ s.get FIRE_STATUS_STAGE) :
    Completes (.governorPowerSample draw) s fun t => t.get PWR_GOV_DRAW = draw.toNat ∧
      (s.effBudget < draw.toNat → ∀ c < 2, t.capOf c = Nat.max 400 (Nat.min (s.capOf c) (modeClock (s.get PWR_GOV_MODE)) - 100)) := by
  obtain ⟨-, -, -, fd⟩ := govFields_fit
  obtain ⟨hbudget, hinput, hmode⟩ := drawn_apart
  have heff : (s.drawn draw.toNat).effBudget = s.effBudget :=
    State.effBudget_congr (State.get_put_apart s _ fd hbudget) (State.get_put_apart s _ fd hinput) rfl
  have hm : (s.drawn draw.toNat).get PWR_GOV_MODE = s.get PWR_GOV_MODE := State.get_put_apart s _ fd hmode
  refine .of (exec_governorPowerSample draw s) ?_
  rw [ho, decide_eq_true hl, decide_eq_true hf, if_pos (by rfl), State.powerSample_eq, heff, hm]
  refine ⟨?_, fun hover c hc => ?_⟩
  · exact (State.each_same (fun t => t.get PWR_GOV_DRAW) [0, 1] (f := fun c t => t.setCap c _) (fun _ _ _ => rfl) _).trans
      (State.get_put_small s fd draw.isLt)
  · refine State.each_once (fun t => t.capOf c) (fun t => t.capOf c) (s.drawn draw.toNat) (by decide) (a := c) ?_ (fun t ht => ?_) fun b _ hb t => ?_
    · interval_cases c <;> simp
    · rw [State.capOf_setCap, if_pos rfl, ht, capAfter, if_pos hover]
      rfl
    · rw [State.capOf_setCap, if_neg (Ne.symm hb)]
      exact ⟨rfl, rfl⟩

theorem exec_modeRequest (a : Agent) (w : World) (req : BitVec 2) (s : State) : exec (.modeRequest a w req) s =
    .next (s.regAccess a true (PWR_W_MODEREQ (worldNum w)) 4 fun t => (t.put (PWR_W_MODEREQ_REQ (worldNum w)) req.toNat).govern) := rfl

/-- The mode requests are no register of an alert, of the governor or of the debug module. -/
theorem modeReq_outside (w : World) : PWR_W_MODEREQ (worldNum w) ∉ alertRegs ∧ PWR_W_MODEREQ (worldNum w) ≠ PWR_STATUS ∧
    PWR_W_MODEREQ (worldNum w) ≠ PWR_GOV ∧ PWR_W_MODEREQ (worldNum w) ≠ DAP_STATUS ∧ PWR_W_MODEREQ (worldNum w) ≠ SUP_STATUS := by
  cases w <;> decide

theorem modeReq_fits (w : Nat) : (PWR_W_MODEREQ_REQ w).fits := by simp [Fld.fits, PWR_W_MODEREQ_REQ]

theorem modeRequest_stored {a : Agent} {w : World} {req : BitVec 2} {s : State} (hr : s.Reached a true (PWR_W_MODEREQ (worldNum w)) 4) :
    Completes (.modeRequest a w req) s fun t =>
      t.get (PWR_W_MODEREQ_REQ (worldNum w)) = req.toNat ∧ t.get PWR_GOV_EFFECTIVE = s.effBudget % 2 ^ PWR_GOV_EFFECTIVE.w := by
  obtain ⟨halert, hstatus, hgov, hdap, hsup⟩ := modeReq_outside w
  have hgd : PWR_GOV ≠ DAP_STATUS := by decide
  have heff : (s.put (PWR_W_MODEREQ_REQ (worldNum w)) req.toNat).effBudget = s.effBudget :=
    State.effBudget_congr (State.get_put_ne s _ (Ne.symm hgov)) (State.get_put_ne s _ (Ne.symm hsup)) rfl
  refine .of (exec_modeRequest a w req s) ?_
  rw [State.regAccess_reached _ hr, State.get_ended _ _ hdap, State.get_ended _ _ hgd, State.effective_govern, heff,
    State.get_govern _ halert hstatus (.inl hgov) hgov]
  exact ⟨State.get_put_small s (modeReq_fits _) req.isLt, rfl⟩

/-! ### Keep and Sleep are entered, Keep is left (R467, R469, R470) -/

theorem State.dom_secRetain (s : State) : s.secRetain.dom SEC = { s.dom SEC with power := .ret, fence := false, emul := false } := by
  rw [State.secRetain, State.dom_setPower, State.dom_setDom_self]

theorem State.dom_congr {s t : State} (h : t.power = s.power) (k : Nat) : t.dom k = s.dom k := by rw [State.dom, h, State.dom]

/-- Domains taken down without emulation are off. -/
theorem modeOff_each {l : List Nat} (hl : l.Nodup) (s : State) : ∀ d ∈ l, ((s.each l fun d t => t.modeOff false d).dom d).power = .off :=
  DomOnly.each_inside (P := fun v => v.power = .off) (fun d t => .modeOff t false d) (fun d t => State.dom_domOff t d) l hl s

/-- The domains that a mode takes down, the others as they were. -/
theorem modeOff_outside (s : State) (e : Bool) (l : List Nat) {k : Nat} (hk : k ∉ l) : (s.each l fun d t => t.modeOff e d).dom k = s.dom k :=
  (DomOnly.each_outside l fun d t => .modeOff t e d).2 k hk

theorem State.power_keepEnter (s : State) : s.keepEnter.power =
    { (s.each [HST, SNS, APC, MEM] fun d t => t.modeOff s.emulEntry d).secRetain.power with layout := 2 } :=
  State.power_govern (Nat.le_refl 2)

theorem State.keepEnter_doms (s : State) : s.keepEnter.power.layout = 2 ∧ (s.keepEnter.dom SEC).power = .ret ∧ (s.keepEnter.dom SEC).fence = false ∧
    (s.emulEntry = false → ∀ d ∈ [HST, SNS, APC, MEM], (s.keepEnter.dom d).power = .off) := by
  have hdom (k : Nat) : s.keepEnter.dom k = (s.each [HST, SNS, APC, MEM] fun d t => t.modeOff s.emulEntry d).secRetain.dom k := by
    rw [State.dom, State.power_keepEnter, State.dom]
  have hsec : ∀ d ∈ [HST, SNS, APC, MEM], d ≠ SEC := by decide
  refine ⟨by rw [State.power_keepEnter], by rw [hdom, State.dom_secRetain], by rw [hdom, State.dom_secRetain], fun he d hd => ?_⟩
  rw [hdom, (DomOnly.secRetain _).other d (hsec d hd), he]
  exact modeOff_each (by decide) s d hd

theorem State.dom_aotEdge (s : State) (k : Nat) : s.aotEdge.dom k = s.dom k := by
  have hoff (u : State) (l : List Nat) (f : Nat → State → DomSt) : (u.each l fun d t => t.setTdom d (f d t)).power = u.power :=
    State.power_each _ _ fun _ _ => rfl
  unfold State.aotEdge
  dsimp only
  split
  · exact State.dom_congr (hoff s [1, 2, 3] fun d t =>
      { t.tdom d with aotOffset := if t.domEnabled d then some ((t.vt d : Int) - s.vt 0) else none }) k
  split
  · rfl
  · rfl

/-- The domains that Sleep takes down, the time recorded between (R469). -/
def State.sleepDown (s : State) (e : Bool) : State :=
  (s.each [HST, SNS, APC, MEM, NET] fun d t => t.modeOff e d).aotEdge.each [TKD, SEC] fun d t => t.modeOff e d

/-- DRAM loses its contents. -/
def State.dramLost (s : State) : State := { s with mem := { s.mem with bytes := tabDrop s.mem.bytes dramBase dramEnd } }

/-- A layout is entered. -/
def State.setLayout (s : State) (n : Nat) : State := s.setPow { s.power with layout := n }

theorem State.sleepEnter_eq (s : State) :
    s.sleepEnter = ((s.sleepDown s.emulEntry).when (!s.emulEntry) State.dramLost).setLayout 3 := rfl

theorem State.dom_sleepDown (s : State) : ∀ d ∈ downOrder, ((s.sleepDown false).dom d).power = .off := by
  have hfirst : ∀ d ∈ downOrder, d ∉ [TKD, SEC] → d ∈ [HST, SNS, APC, MEM, NET] := by decide
  intro d hd
  unfold State.sleepDown
  by_cases hin : d ∈ [TKD, SEC]
  · exact modeOff_each (by decide) _ d hin
  · rw [modeOff_outside _ _ _ hin, State.dom_aotEdge]
    exact modeOff_each (by decide) s d (hfirst d hd hin)

/-- Sleep takes every domain but AON down. -/
theorem State.sleepEnter_doms (s : State) : s.sleepEnter.power.layout = 3 ∧
    (s.emulEntry = false → ∀ d ∈ downOrder, (s.sleepEnter.dom d).power = .off) := by
  have hlayout (u : State) : (u.setLayout 3).power.layout = 3 := rfl
  have hdom (u : State) (k : Nat) : (u.dramLost.setLayout 3).dom k = u.dom k := rfl
  rw [State.sleepEnter_eq]
  refine ⟨hlayout _, fun he d hd => ?_⟩
  rw [he, Bool.not_false, State.when_true, hdom]
  exact s.dom_sleepDown d hd

theorem exec_keepEntry (s : State) : exec .keepEntry s =
    .next (if s.get PWR_GOV_MODE == 2 && s.entering && s.ldg.closing.isNone && s.coresDrained then s.keepEnter else s) := rfl

theorem exec_sleepEntry (s : State) : exec .sleepEntry s =
    .next (if s.get PWR_GOV_MODE == 3 && s.entering && s.ldg.closing.isNone && s.coresDrained then s.sleepEnter else s) := rfl

theorem modeEntries_complete {s : State} (hc : s.ldg.closing = none) (hd : s.coresDrained = true) (he : s.entering = true) :
    (s.get PWR_GOV_MODE = 2 → Completes .keepEntry s fun t => t.power.layout = 2 ∧ (t.dom SEC).power = .ret ∧ (t.dom SEC).fence = false ∧
      (s.emulEntry = false → ∀ d ∈ [HST, SNS, APC, MEM], (t.dom d).power = .off)) ∧
    (s.get PWR_GOV_MODE = 3 → Completes .sleepEntry s fun t => t.power.layout = 3 ∧
      (s.emulEntry = false → ∀ d ∈ downOrder, (t.dom d).power = .off)) := by
  refine ⟨fun hm => .of (exec_keepEntry s) ?_, fun hm => .of (exec_sleepEntry s) ?_⟩
  · rw [hm, he, hc, hd, if_pos (by rfl)]
    exact s.keepEnter_doms
  · rw [hm, he, hc, hd, if_pos (by rfl)]
    exact s.sleepEnter_doms

theorem modeEntries_idle {s : State} (he : s.entering = false) :
    Completes .keepEntry s (fun t => t = s) ∧ Completes .sleepEntry s fun t => t = s := by
  refine ⟨.of (exec_keepEntry s) ?_, .of (exec_sleepEntry s) ?_⟩
  · rw [he, Bool.and_false, Bool.false_and, Bool.false_and, if_neg Bool.false_ne_true]
  · rw [he, Bool.and_false, Bool.false_and, Bool.false_and, if_neg Bool.false_ne_true]

/-- Moving every domain toward what is wanted leaves the layout and SEC. -/
theorem State.domSync_sec (s : State) : s.domSync.power.layout = s.power.layout ∧ s.domSync.dom SEC = s.dom SEC := by
  have hup : SEC ∉ upOrder := by decide
  have hdown : SEC ∉ [APC, MEM, TKD, NET, SNS, HST] := by decide
  unfold State.domSync
  split
  · exact ⟨rfl, rfl⟩
  split
  · obtain ⟨hl, ho⟩ := DomOnly.each_outside (s := s) upOrder fun d t => .domStep t d
    exact ⟨hl, ho SEC hup⟩
  · obtain ⟨hl, ho⟩ := DomOnly.each_outside (s := s) [APC, MEM, TKD, NET, SNS, HST] fun d t => .domStep t d
    exact ⟨hl, ho SEC hdown⟩

/-- SEC runs again behind its open fence. -/
def State.secBack (s : State) : State := ((s.setDom SEC { s.dom SEC with fence := true, emul := false }).setPower SEC .on).swdStart

theorem State.power_swdStart (s : State) : s.swdStart.power = s.power := rfl

theorem State.secBack_sec (s : State) : s.secBack.power.layout = s.power.layout ∧
    s.secBack.dom SEC = { s.dom SEC with power := .on, fence := true, emul := false } := by
  have hstart (u : State) : u.swdStart.dom SEC = u.dom SEC := State.dom_congr u.power_swdStart SEC
  refine ⟨rfl, ?_⟩
  rw [State.secBack, hstart, State.dom_setPower, State.dom_setDom_self]

theorem State.keepExit_eq {s : State} (hm : s.get PWR_GOV_MODE < 2) :
    s.keepExit = (s.setPow { s.power with layout := s.get PWR_GOV_MODE }).secBack.domSync := by
  unfold State.keepExit
  dsimp only
  rw [if_pos hm]
  rfl

theorem exec_keepExit (s : State) : exec .keepExit s = .next
    (if s.booted && decide (2 ≤ s.power.layout) && decide (s.get PWR_GOV_MODE < s.power.layout) && !s.asleep then s.keepExit else s) := rfl

theorem keepExit_lays {s : State} (hb : s.booted = true) (hl : 2 ≤ s.power.layout) (hm : s.get PWR_GOV_MODE < s.power.layout) (ha : s.asleep = false)
    (h2 : s.get PWR_GOV_MODE < 2) : Completes .keepExit s fun t =>
      t.power.layout = s.get PWR_GOV_MODE ∧ (t.dom SEC).power = .on ∧ (t.dom SEC).fence = true := by
  obtain ⟨hlayout, hsec⟩ := State.secBack_sec (s.setPow { s.power with layout := s.get PWR_GOV_MODE })
  obtain ⟨hsl, hss⟩ := State.domSync_sec (s.setPow { s.power with layout := s.get PWR_GOV_MODE }).secBack
  refine .of (exec_keepExit s) ?_
  rw [hb, decide_eq_true hl, decide_eq_true hm, ha, if_pos (by rfl), State.keepExit_eq h2, hsl, hlayout, hss, hsec]
  exact ⟨rfl, rfl, rfl⟩

end Sys2Proof.Machine
end

section
/-! The always-on timer and the wake events (R100, R470, R477 to R481). -/

namespace Sys2Proof.Machine

open Sys2Proof

/-! ### The always-on timer (R100, R477, R478) -/

theorem aotFields_fit : AOT_STATUS_VALID.fits ∧ AOT_STATUS_TRACKING.fits ∧ AOT_STATUS_LEARNED.fits ∧ AOT_RATE_RATE.fits ∧ AOT_CTL_ALARM_EN.fits ∧
    AOT_IRQ_STATUS_ALARM.fits := by
  simp [Fld.fits, AOT_STATUS_VALID, AOT_STATUS_TRACKING, AOT_STATUS_LEARNED, AOT_RATE_RATE, AOT_CTL_ALARM_EN, AOT_IRQ_STATUS_ALARM]

/-- The timer copies domain 0. -/
theorem State.aotEdge_tracks {s : State} (h : s.aotTracks = true) :
    s.aotEdge.power.aot = 2 ^ 32 * s.vt 0 ∧ s.aotEdge.power.aotValid = true ∧ s.aotEdge.on AOT_STATUS_TRACKING = true := by
  unfold State.aotEdge
  dsimp only
  rw [if_pos h]
  exact ⟨rfl, rfl, State.on_put_one _ aotFields_fit.2.1 rfl⟩

/-- The timer counts by its rate. -/
theorem State.aotEdge_counts {s : State} (h : s.aotTracks = false) (hv : s.power.aotValid = true) :
    s.aotEdge = (s.put AOT_STATUS_TRACKING 0).setPow { s.power with aot := (s.power.aot + (s.put AOT_STATUS_TRACKING 0).get AOT_RATE_RATE) % 2 ^ 96 } := by
  unfold State.aotEdge
  dsimp only
  rw [h, if_neg Bool.false_ne_true, State.power_put, if_pos hv]

theorem exec_alwaysOnEdge (s : State) : exec .alwaysOnEdge s = .next (if s.power.sup.supplied then s.aotEdge else s) := rfl

theorem alwaysOnEdge_counts {s : State} (hs : s.power.sup.supplied = true) :
    (s.aotTracks = true → Completes .alwaysOnEdge s fun t => t.power.aot = 2 ^ 32 * s.vt 0 ∧ t.power.aotValid = true ∧ t.on AOT_STATUS_TRACKING = true) ∧
    (s.aotTracks = false → s.power.aotValid = true → Completes .alwaysOnEdge s fun t => t.power.aot = (s.power.aot + s.get AOT_RATE_RATE) % 2 ^ 96 ∧
      t.on AOT_STATUS_TRACKING = false ∧ t.time = s.time) := by
  have hrate : (s.put AOT_STATUS_TRACKING 0).get AOT_RATE_RATE = s.get AOT_RATE_RATE := State.get_put_ne s _ (by decide)
  have hpow (u : State) (v : PowerSt) : (u.setPow v).on AOT_STATUS_TRACKING = u.on AOT_STATUS_TRACKING := rfl
  refine ⟨fun h => .of (exec_alwaysOnEdge s) ?_, fun h hv => .of (exec_alwaysOnEdge s) ?_⟩
  · rw [if_pos hs]
    exact State.aotEdge_tracks h
  · rw [if_pos hs, State.aotEdge_counts h hv, hrate, hpow]
    exact ⟨rfl, State.on_put_zero s aotFields_fit.2.1 rfl, rfl⟩

theorem exec_aotRateLearn (p : BitVec 48) (s : State) : exec (.aotRateLearn p) s =
    .next (if s.outOfReset AON && s.on AOT_STATUS_TRACKING && s.aotTracks && decide (3 ≤ s.syncState 0) && s.on AOT_CTL_LEARN
      then (s.put AOT_RATE_RATE p.toNat).put AOT_STATUS_LEARNED 1 else s) := rfl

theorem rate_learned {p : BitVec 48} {s : State} (ho : s.outOfReset AON = true) (ht : s.on AOT_STATUS_TRACKING = true) (ha : s.aotTracks = true)
    (hs : 3 ≤ s.syncState 0) (hl : s.on AOT_CTL_LEARN = true) : Completes (.aotRateLearn p) s fun t =>
      t.get AOT_RATE_RATE = p.toNat ∧ t.on AOT_STATUS_LEARNED = true ∧ t.power = s.power := by
  obtain ⟨-, -, flearned, frate, -⟩ := aotFields_fit
  have hne : AOT_RATE_RATE.reg ≠ AOT_STATUS_LEARNED.reg := by decide
  refine .of (exec_aotRateLearn p s) ?_
  rw [ho, ht, ha, decide_eq_true hs, hl, if_pos (by rfl), State.get_put_ne _ _ hne]
  exact ⟨State.get_put_small s frate p.isLt, State.on_put_one _ flearned rfl, rfl⟩

/-- The alarm disarms and shows itself. -/
def State.alarmShown (s : State) : State := (s.put AOT_CTL_ALARM_EN 0).raise AOT_IRQ_STATUS_ALARM 1

theorem exec_aotAlarmFire (s : State) : exec .aotAlarmFire s =
    .next (if s.outOfReset AON && s.on AOT_CTL_ALARM_EN && s.power.aotValid && decide (s.rd AOT_ALARM ≤ s.power.aot / 2 ^ 32) then
      (if s.alarmShown.wakeOn 0 then s.alarmShown.wake 0 else s.alarmShown) else s) := rfl

/-- What wakes depends on the enables, not on the alarm's own registers. -/
theorem State.wakeOn_alarmShown (s : State) (b : Nat) : s.alarmShown.wakeOn b = s.wakeOn b := by
  have hget {f : Fld} (h1 : f.reg ≠ AOT_CTL) (h2 : f.reg ≠ AOT_IRQ_STATUS) : s.alarmShown.get f = s.get f := by
    rw [State.alarmShown, State.raise, State.get_put_ne _ _ h2, State.get_put_ne _ _ h1]
  have hen : s.alarmShown.rd WAKE_EN = s.rd WAKE_EN := by
    rw [State.alarmShown, State.raise, State.rd_put_ne _ _ (by decide), State.rd_put_ne _ _ (by decide)]
  have hstage : s.alarmShown.get FIRE_STATUS_STAGE = s.get FIRE_STATUS_STAGE := hget (by decide) (by decide)
  have hmode : s.alarmShown.get PWR_GOV_MODE = s.get PWR_GOV_MODE := hget (by decide) (by decide)
  have hboot : s.alarmShown.booted = s.booted := congrArg (fun v => !s.boot.booting && decide (2 ≤ v)) hstage
  unfold State.wakeOn
  rw [hen, hboot, hmode]
  rfl

theorem alarm_fires {s : State} (ho : s.outOfReset AON = true) (he : s.on AOT_CTL_ALARM_EN = true) (hv : s.power.aotValid = true) :
    (s.rd AOT_ALARM ≤ s.power.aot / 2 ^ 32 → s.wakeOn 0 = false → Completes .aotAlarmFire s fun t => t.on AOT_CTL_ALARM_EN = false ∧
      t.on AOT_IRQ_STATUS_ALARM = true ∧ t.power = s.power) ∧
    (s.power.aot / 2 ^ 32 < s.rd AOT_ALARM → Completes .aotAlarmFire s fun t => t = s) := by
  obtain ⟨-, -, -, -, fen, firq⟩ := aotFields_fit
  have hne : AOT_CTL_ALARM_EN.reg ≠ AOT_IRQ_STATUS_ALARM.reg := by decide
  refine ⟨fun hd hw => .of (exec_aotAlarmFire s) ?_, fun hd => .of (exec_aotAlarmFire s) ?_⟩
  · rw [ho, he, hv, decide_eq_true hd, if_pos (by rfl), State.wakeOn_alarmShown, hw, if_neg Bool.false_ne_true]
    refine ⟨?_, State.on_raise_one _ firq rfl, rfl⟩
    rw [State.alarmShown, State.raise, State.on_put_ne _ _ hne]
    exact State.on_put_zero s fen rfl
  · rw [decide_eq_false (by omega), Bool.and_false, if_neg Bool.false_ne_true]

/-! ### A wake event (R470, R480, R481) -/

theorem wakeFields_fit : WAKE_CAUSE_CAUSE.fits ∧ WAKE_CAUSE_FIRST.fits ∧ WAKE_CAUSE_PIN.fits := by
  simp [Fld.fits, WAKE_CAUSE_CAUSE, WAKE_CAUSE_FIRST, WAKE_CAUSE_PIN]

/-- The cause of a wake event is shown: its bit, and its number where it is the first. -/
def State.causeShown (s : State) (b : Nat) : State :=
  (s.raise WAKE_CAUSE_CAUSE (2 ^ b)).when
    (s.get WAKE_CAUSE_FIRST == 0 || ((s.power.wakeTick == some s.ticks) && b + 1 < s.get WAKE_CAUSE_FIRST)) fun t => t.put WAKE_CAUSE_FIRST (b + 1)

/-- Both worlds' requests stand at Full, on the clock of the event. -/
def State.fullAsked (s : State) : State :=
  ((s.setPow { s.power with wakeTick := some s.ticks }).put (PWR_W_MODEREQ_REQ 0) 0).put (PWR_W_MODEREQ_REQ 1) 0

theorem State.wake_eq (s : State) (b : Nat) : s.wake b =
    if (s.causeShown b).fullAsked.asleep then (s.causeShown b).fullAsked.coldBoot 4 true
    else if (s.causeShown b).fullAsked.entering then (s.causeShown b).fullAsked.ldgReopen.governNow
    else (s.causeShown b).fullAsked.govern := rfl

theorem State.power_causeShown (s : State) (b : Nat) : (s.causeShown b).power = s.power := State.when_same State.power _ _ rfl

theorem State.asleep_congr {s t : State} (hl : t.power.layout = s.power.layout) (hd : t.dom SEC = s.dom SEC) : t.asleep = s.asleep := by
  unfold State.asleep
  rw [hl, hd]

theorem State.asleep_marked (s : State) (b : Nat) : (s.causeShown b).fullAsked.asleep = s.asleep := by
  have hfull (u : State) : u.fullAsked.asleep = u.asleep := rfl
  rw [hfull]
  exact State.asleep_congr (by rw [State.power_causeShown]) (State.dom_congr (s.power_causeShown b) SEC)

theorem State.get_fullAsked (s : State) {f : Fld} (h0 : f.reg ≠ PWR_W_MODEREQ 0) (h1 : f.reg ≠ PWR_W_MODEREQ 1) : s.fullAsked.get f = s.get f := by
  rw [State.fullAsked, State.get_put_ne _ _ h1, State.get_put_ne _ _ h0]
  rfl

theorem State.modeReq_fullAsked (s : State) : s.fullAsked.get (PWR_W_MODEREQ_REQ 0) = 0 ∧ s.fullAsked.get (PWR_W_MODEREQ_REQ 1) = 0 := by
  have hne : (PWR_W_MODEREQ_REQ 0).reg ≠ (PWR_W_MODEREQ_REQ 1).reg := by decide
  refine ⟨?_, State.get_put_small _ (modeReq_fits 1) (by decide)⟩
  rw [State.fullAsked, State.get_put_ne _ _ hne]
  exact State.get_put_small _ (modeReq_fits 0) (by decide)

theorem State.cause_causeShown (s : State) {b : Nat} (hb : b < 7) : bitAt ((s.causeShown b).get WAKE_CAUSE_CAUSE) b = true := by
  have hap : WAKE_CAUSE_CAUSE.apart WAKE_CAUSE_FIRST := by simp [Fld.apart, WAKE_CAUSE_CAUSE, WAKE_CAUSE_FIRST]
  have hfirst : (s.causeShown b).get WAKE_CAUSE_CAUSE = (s.raise WAKE_CAUSE_CAUSE (2 ^ b)).get WAKE_CAUSE_CAUSE :=
    State.when_same (fun t => t.get WAKE_CAUSE_CAUSE) _ _ (State.get_put_apart _ _ wakeFields_fit.2.1 hap)
  rw [hfirst, State.raise, State.get_put_self _ _ wakeFields_fit.1]
  exact bitAt_lor_two_pow _ hb

theorem State.first_causeShown {s : State} {b : Nat} (hb : b < 7) (h : s.get WAKE_CAUSE_FIRST = 0) :
    (s.causeShown b).get WAKE_CAUSE_FIRST = b + 1 := by
  rw [State.causeShown, h, beq_self_eq_true, Bool.true_or, State.when_true]
  exact State.get_put_small _ wakeFields_fit.2.1 (Nat.succ_lt_succ hb)

/-- Awake, a wake event hands its marks to the governor, which keeps them. -/
theorem State.get_wake {s : State} (b : Nat) (ha : s.asleep = false) {f : Fld} (hl : f.reg ∉ alertRegs) (hs : f.reg ≠ PWR_STATUS)
    (hg : f.reg ≠ PWR_GOV) : (s.wake b).get f = (s.causeShown b).fullAsked.get f := by
  rw [State.wake_eq, State.asleep_marked, ha, if_neg Bool.false_ne_true]
  split
  · rw [State.get_governNow _ hl hs (.inl hg), (Alerted.ldgReopen _).get hl]
  · rw [State.get_govern _ hl hs (.inl hg) hg]

theorem wakeRegs_outside : ∀ k ∈ [WAKE_CAUSE, PWR_W_MODEREQ 0, PWR_W_MODEREQ 1],
    k ∉ alertRegs ∧ k ≠ PWR_STATUS ∧ k ≠ PWR_GOV ∧ k ≠ DAP_STATUS := by decide

/-- What a wake event shows while the module is awake. -/
theorem State.wake_awake {s : State} {b : Nat} (hb : b < 7) (ha : s.asleep = false) :
    bitAt ((s.wake b).get WAKE_CAUSE_CAUSE) b = true ∧ (s.wake b).get (PWR_W_MODEREQ_REQ 0) = 0 ∧ (s.wake b).get (PWR_W_MODEREQ_REQ 1) = 0 ∧
      (s.get WAKE_CAUSE_FIRST = 0 → (s.wake b).get WAKE_CAUSE_FIRST = b + 1) := by
  obtain ⟨hcl, hcs, hcg, -⟩ := wakeRegs_outside WAKE_CAUSE (by simp)
  obtain ⟨h0l, h0s, h0g, -⟩ := wakeRegs_outside (PWR_W_MODEREQ 0) (by simp)
  obtain ⟨h1l, h1s, h1g, -⟩ := wakeRegs_outside (PWR_W_MODEREQ 1) (by simp)
  have hm0 : WAKE_CAUSE ≠ PWR_W_MODEREQ 0 := by decide
  have hm1 : WAKE_CAUSE ≠ PWR_W_MODEREQ 1 := by decide
  obtain ⟨hr0, hr1⟩ := (s.causeShown b).modeReq_fullAsked
  refine ⟨?_, (State.get_wake b ha h0l h0s h0g).trans hr0, (State.get_wake b ha h1l h1s h1g).trans hr1, fun hf => ?_⟩
  · rw [State.get_wake b ha hcl hcs hcg, State.get_fullAsked _ hm0 hm1]
    exact s.cause_causeShown hb
  · rw [State.get_wake b ha hcl hcs hcg, State.get_fullAsked _ hm0 hm1]
    exact State.first_causeShown hb hf

/-- SEC starts behind its open fence, with the secure watchdog. -/
def State.secStart (s : State) : State := (((s.setDom SEC { s.dom SEC with power := .on, inReset := false }).domWedge SEC).fenceUp SEC).swdStart

theorem State.boot_secStart (s : State) : s.secStart.boot = s.boot ∧ s.secStart.power.bootCause = s.power.bootCause := by
  have hwedge (u : State) : (u.domWedge SEC).boot = u.boot ∧ (u.domWedge SEC).power = u.power := by
    unfold State.domWedge
    split <;> exact ⟨rfl, rfl⟩
  have hfence (u : State) : (u.fenceUp SEC).boot = u.boot ∧ (u.fenceUp SEC).power.bootCause = u.power.bootCause := ⟨rfl, rfl⟩
  have hdom (u : State) (v : DomainSt) : (u.setDom SEC v).boot = u.boot ∧ (u.setDom SEC v).power.bootCause = u.power.bootCause := ⟨rfl, rfl⟩
  have hswd (u : State) : u.swdStart.boot = u.boot ∧ u.swdStart.power = u.power := ⟨rfl, rfl⟩
  unfold State.secStart
  rw [(hswd _).1, (hswd _).2, (hfence _).1, (hfence _).2, (hwedge _).1, (hwedge _).2, (hdom ..).1, (hdom ..).2]
  exact ⟨rfl, rfl⟩

/-- A cold boot begins with its cause. -/
theorem State.coldBoot_begins (s : State) (cause : Nat) (wake : Bool) : (s.coldBoot cause wake).boot.booting = true ∧
    (s.coldBoot cause wake).boot.wakeBoot = wake ∧ (s.coldBoot cause wake).power.bootCause = cause := by
  have hcold (u : State) : ((u.coldState cause wake).setPower AON .on).boot.booting = true ∧
      ((u.coldState cause wake).setPower AON .on).boot.wakeBoot = wake ∧ ((u.coldState cause wake).setPower AON .on).power.bootCause = cause :=
    ⟨rfl, rfl, rfl⟩
  obtain ⟨u, hu⟩ : ∃ u : State, s.coldBoot cause wake = ((u.coldState cause wake).setPower AON .on).secStart := ⟨_, rfl⟩
  obtain ⟨hboot, hcause⟩ := State.boot_secStart ((u.coldState cause wake).setPower AON .on)
  rw [hu, hboot, hcause]
  exact hcold u

/-- Asleep, a wake event is the cold boot that ends Sleep. -/
theorem State.wake_asleep {s : State} (b : Nat) (ha : s.asleep = true) :
    (s.wake b).boot.booting = true ∧ (s.wake b).boot.wakeBoot = true ∧ (s.wake b).power.bootCause = 4 := by
  rw [State.wake_eq, State.asleep_marked, ha, if_pos rfl]
  exact State.coldBoot_begins _ 4 true

/-- The pin that woke the module, where no pin had. -/
def State.pinShown (s : State) (n : Nat) : State := s.when (s.get WAKE_CAUSE_CAUSE / 32 % 2 == 0) fun t => t.put WAKE_CAUSE_PIN n

theorem exec_wakeEvent_pin (n : Pin) (s : State) : exec (.wakeEvent (.pin n)) s =
    .next (if s.wakeOn 5 && bitAt (s.get WAKE_EN_PINS) n.val then (s.pinShown n.val).wake 5 else s) := rfl

theorem exec_wakeEvent_can (c : Fin 2) (s : State) : exec (.wakeEvent (.can c)) s =
    .next (if s.wakeOn (3 + c.val) && s.canArmed c.val then s.wake (3 + c.val) else s) := rfl

theorem wakeEvents_recorded {n : Pin} {c : Fin 2} {s : State} :
    (s.wakeOn 5 = true → bitAt (s.get WAKE_EN_PINS) n.val = true → s.asleep = false → Completes (.wakeEvent (.pin n)) s fun t =>
      bitAt (t.get WAKE_CAUSE_CAUSE) 5 = true ∧ t.get (PWR_W_MODEREQ_REQ 0) = 0 ∧ t.get (PWR_W_MODEREQ_REQ 1) = 0 ∧
      (s.get WAKE_CAUSE_FIRST = 0 → t.get WAKE_CAUSE_FIRST = 6)) ∧
    (s.wakeOn 5 = false ∨ bitAt (s.get WAKE_EN_PINS) n.val = false → Completes (.wakeEvent (.pin n)) s fun t => t = s) ∧
    (s.wakeOn (3 + c.val) = true → s.canArmed c.val = true → s.asleep = true → Completes (.wakeEvent (.can c)) s fun t =>
      t.boot.booting = true ∧ t.boot.wakeBoot = true ∧ t.power.bootCause = 4) := by
  have hpower : (s.pinShown n.val).power = s.power := State.when_same State.power _ _ rfl
  have hap : WAKE_CAUSE_FIRST.apart WAKE_CAUSE_PIN := by simp [Fld.apart, WAKE_CAUSE_FIRST, WAKE_CAUSE_PIN]
  have hfirst : (s.pinShown n.val).get WAKE_CAUSE_FIRST = s.get WAKE_CAUSE_FIRST :=
    State.when_same (fun t => t.get WAKE_CAUSE_FIRST) _ _ (State.get_put_apart _ _ wakeFields_fit.2.2 hap)
  refine ⟨fun hw hp ha => .of (exec_wakeEvent_pin n s) ?_, fun h => .of (exec_wakeEvent_pin n s) ?_, fun hw hc ha => .of (exec_wakeEvent_can c s) ?_⟩
  · have hasleep : (s.pinShown n.val).asleep = false :=
      (State.asleep_congr (by rw [hpower]) (State.dom_congr hpower SEC)).trans ha
    rw [hw, hp, if_pos (by rfl), ← hfirst]
    exact State.wake_awake (by decide) hasleep
  · have hno : (s.wakeOn 5 && bitAt (s.get WAKE_EN_PINS) n.val) = false := by
      rcases h with h | h <;> simp [h]
    rw [hno, if_neg Bool.false_ne_true]
  · rw [hw, hc, if_pos (by rfl)]
    exact State.wake_asleep _ ha

/-! ### The wake request of a timekeeper (R480) -/

theorem exec_wakeSwRequest (a : Agent) (s : State) : exec (.wakeSwRequest a) s = .next (s.regAccess a true WAKE_SWREQ 4 fun t => t.wakeSw a) := rfl

theorem State.wakeSw_hart (s : State) (h : Fin 13) : s.wakeSw (.hart h) =
    if 8 ≤ h.val && h.val < 12 && s.wakeOn 6 && s.get PWR_GOV_MODE == 2 then s.wake 6 else s := rfl

theorem swRequest_wakes {a : Agent} {s : State} (hr : s.Reached a true WAKE_SWREQ 4) :
    (∀ h, a = .hart h → 8 ≤ h.val → h.val < 12 → s.wakeOn 6 = true → s.get PWR_GOV_MODE = 2 → s.asleep = false → Completes (.wakeSwRequest a) s fun t =>
      bitAt (t.get WAKE_CAUSE_CAUSE) 6 = true ∧ t.get (PWR_W_MODEREQ_REQ 0) = 0) ∧
    (∀ h, a = .hart h → h.val < 8 ∨ h.val = 12 → Completes (.wakeSwRequest a) s fun t => t = s) := by
  obtain ⟨-, -, -, hcause⟩ := wakeRegs_outside WAKE_CAUSE (by simp)
  obtain ⟨-, -, -, hreq⟩ := wakeRegs_outside (PWR_W_MODEREQ 0) (by simp)
  refine ⟨fun h ha h8 h12 hw hm hs => .of (exec_wakeSwRequest a s) ?_, fun h ha hh => .of (exec_wakeSwRequest a s) ?_⟩
  · obtain ⟨hbit, hr0, -⟩ := State.wake_awake (b := 6) (by decide) hs
    rw [State.regAccess_reached _ hr, State.get_ended _ _ hcause, State.get_ended _ _ hreq, ha, State.wakeSw_hart, decide_eq_true h8,
      decide_eq_true h12, hw, hm, if_pos (by rfl)]
    exact ⟨hbit, hr0⟩
  · have hno : (decide (8 ≤ h.val) && decide (h.val < 12)) = false := by
      rcases hh with hh | hh <;> simp [hh]
    rw [State.regAccess_reached _ hr, ha, State.wakeSw_hart, hno, Bool.false_and, Bool.false_and, if_neg Bool.false_ne_true]
    rfl

/-- Settles O44, clause by clause: entering a mode touches each domain in its own state alone (`DomOnly.each_inside`), the governor keeps what
is not its own (`State.get_govern`, `State.power_govern`), and a wake event marks its cause before the governor or the boot acts
(`State.wake_eq`). -/
theorem modesAndWakeComplete : Obligations.ModesAndWakeComplete :=
  ⟨fun _ _ ho => clockStep_moves ho, fun _ _ ho hl hf => powerSample_caps ho hl hf, fun _ _ _ _ hr => modeRequest_stored hr,
    fun _ hc hd he => modeEntries_complete hc hd he, fun _ he => modeEntries_idle he, fun _ hb hl hm ha h2 => keepExit_lays hb hl hm ha h2,
    fun _ hs => alwaysOnEdge_counts hs, fun _ _ ho ht ha hs hl => rate_learned ho ht ha hs hl, fun _ ho he hv => alarm_fires ho he hv,
    fun _ _ _ => wakeEvents_recorded, fun _ _ hr => swRequest_wakes hr⟩

end Sys2Proof.Machine
end

section
/-! An instruction of a hart until it retires: what it leaves of the hart while it executes, how it ends, and what an exception or an entry into
debug mode makes of it (R278, R297, R298, R492, R496). -/

namespace Sys2Proof.Machine

open Sys2Proof

theorem Completes.imp {c : Instr} {s : State} {P Q : State → Prop} (h : Completes c s P) (hQ : ∀ t, P t → Q t) : Completes c s Q := by
  obtain ⟨t, ht, hP⟩ := h
  exact ⟨t, ht, hQ t hP⟩

/-! ### A hart that executes -/

/-- What an instruction under way leaves of its hart: where it stands, its mode and world, its registers and CSRs. -/
def sameRun (k k' : HartSt) : Prop :=
  k'.pc = k.pc ∧ k'.pos = k.pos ∧ k'.priv = k.priv ∧ k'.world = k.world ∧ k'.x = k.x ∧ k'.csr = k.csr

/-- From `s` to `t` an instruction of hart `h` is under way: the hart stands where it stood, of its integer registers those of `rs` can differ,
and nothing that decides whether it is quiet has changed. -/
structure Executing (h : Nat) (rs : List Nat) (s t : State) : Prop where
  pc : (t.hart h).pc = (s.hart h).pc
  pos : (t.hart h).pos = (s.hart h).pos
  priv : (t.hart h).priv = (s.hart h).priv
  world : (t.hart h).world = (s.hart h).world
  x : ∀ r, r ∉ rs → t.xreg h r = s.xreg h r
  dbgm : t.dbgm = s.dbgm
  csr : ∀ a, a = csrDcsr ∨ 0x10000 ≤ a → t.csr h a = s.csr h a

section
variable {h : Nat} {rs : List Nat} {s t u : State}

theorem Executing.trans (p : Executing h rs s t) (q : Executing h rs t u) : Executing h rs s u where
  pc := q.pc.trans p.pc
  pos := q.pos.trans p.pos
  priv := q.priv.trans p.priv
  world := q.world.trans p.world
  x r hr := (q.x r hr).trans (p.x r hr)
  dbgm := q.dbgm.trans p.dbgm
  csr a ha := (q.csr a ha).trans (p.csr a ha)

/-- A step that moves no hart's program, registers or CSRs, and not the debug module. -/
theorem Executing.of_same (hh : sameRun (s.hart h) (t.hart h)) (hd : t.dbgm = s.dbgm) : Executing h rs s t := by
  obtain ⟨hpc, hpos, hpriv, hworld, hx, hcsr⟩ := hh
  exact ⟨hpc, hpos, hpriv, hworld, fun r _ => by rw [State.xreg, State.xreg, hx], hd, fun a _ => State.csr_congr hcsr a⟩

theorem sameRun.refl (k : HartSt) : sameRun k k := ⟨rfl, rfl, rfl, rfl, rfl, rfl⟩

/-- A step outside the harts and the debug module. -/
theorem Executing.aside (hc : t.cpu.harts = s.cpu.harts) (hd : t.dbgm = s.dbgm) : Executing h rs s t := by
  refine .of_same ?_ hd
  rw [State.hart, State.hart, hc]
  exact .refl _

theorem Executing.refl (h : Nat) (rs : List Nat) (s : State) : Executing h rs s s := .aside rfl rfl

theorem Executing.put (s : State) (f : Fld) (v : Nat) : Executing h rs s (s.put f v) := .aside rfl rfl

theorem Executing.when (s : State) (c : Bool) {f : State → State} (hf : Executing h rs s (f s)) : Executing h rs s (s.when c f) := by
  cases c
  · exact .refl h rs s
  · exact hf

/-- A hart, this one or another, changes in what no instruction names. -/
theorem Executing.updHart (s : State) (k : Nat) {f : HartSt → HartSt} (hf : sameRun (s.hart k) (f (s.hart k))) :
    Executing h rs s (s.updHart k f) := by
  refine .of_same ?_ rfl
  by_cases hk : h = k
  · rw [hk, State.hart_updHart_self]
    exact hf
  · rw [State.hart_updHart_ne _ _ hk]
    exact .refl _

theorem Executing.setX (s : State) (v : Nat) {r : Nat} (hr : r ∈ rs) : Executing h rs s (s.setX h r v) := by
  have hx := s.hart_setX h r v
  refine ⟨by rw [hx], by rw [hx], by rw [hx], by rw [hx], fun q hq => ?_, ?_, fun a _ => State.csr_congr (by rw [hx]) a⟩
  · exact State.xreg_setX_ne _ _ _ (by rintro rfl; exact hq hr)
  · unfold State.setX
    split <;> rfl

theorem Executing.setCsr (s : State) (v : Nat) {a : Nat} (ha : a ≠ csrDcsr ∧ a < 0x10000) : Executing h rs s (s.setCsr h a v) where
  pc := by rw [State.hart_setCsr]
  pos := by rw [State.hart_setCsr]
  priv := by rw [State.hart_setCsr]
  world := by rw [State.hart_setCsr]
  x r _ := by rw [State.xreg, State.hart_setCsr, State.xreg]
  dbgm := rfl
  csr b hb := State.csr_setCsr_ne _ _ _ (by rintro rfl; omega)

theorem LogOnly.executing (l : LogOnly s t) : Executing h rs s t := .aside (by rw [l.cpu]) (by rw [l.rest])

theorem Counted.executing (c : Counted h s t) : Executing h rs s t where
  pc := by rw [c.hart]
  pos := by rw [c.hart]
  priv := by rw [c.hart]
  world := by rw [c.hart]
  x r _ := by rw [State.xreg, State.xreg, c.hart]
  dbgm := c.entering.dbgm
  csr a ha := c.csr a fun hc => not_trapCsr_debug ha (.inl (.inl hc))

/-! ### The end of an instruction -/

theorem Executing.quiet (e : Executing h rs s t) (q : s.Quiet h) : t.Quiet h := q.congr e.dbgm e.csr

theorem Executing.went (e : Executing h rs s t) : s.Went (t.retire h) h ((s.hart h).pc + 4) rs :=
  State.went_retire e.pc e.pos e.priv e.world e.x

theorem State.csr_retire (s : State) (h : Nat) {a : Nat} (ha : ¬ hpmCsr a) : (s.retire h).csr h a = s.csr h a :=
  (State.csr_updHart _ h (by rfl) a).trans ((Counted.retired h s).csr a ha)

/-- What retirement leaves of the hart: it counts, and goes on. -/
theorem State.hart_retire (s : State) (h : Nat) : (s.retire h).hart h =
    { s.hart h with csr := ((s.retire h).hart h).csr, instret := ((s.retire h).hart h).instret, pc := ((s.retire h).hart h).pc,
                    pos := ((s.retire h).hart h).pos } := by
  unfold State.retire State.retireTo
  rw [State.hart_updHart_self, (Counted.retired h s).hart]

theorem State.wheel_retire (s : State) (h : Nat) : (s.retire h).wheel = s.wheel := by
  change (s.countRetired h).wheel = s.wheel
  rw [(Counted.retired h s).rest]

theorem State.wheel_setX (s : State) (h r v : Nat) : (s.setX h r v).wheel = s.wheel := by
  unfold State.setX
  split <;> rfl

/-- A register written just before the instruction retires. -/
theorem State.xreg_setX_retire (s : State) (h v : Nat) {r : Nat} (hr : r ≠ 0) : ((s.setX h r v).retire h).xreg h r = v % 2 ^ hartXlen h := by
  rw [State.xreg_retire, State.xreg_setX, if_neg hr]

end

/-! ### An instruction on a ready hart -/

/-- A ready hart executes its instruction, and only what follows one comes after it. -/
theorem State.Ready.instr_after {s : State} {h : Nat} (r : s.Ready h) (f : State → State) : s.instr h f = (f s).afterInstr h (s.hart h) := by
  have hw : s.irqWake h = s := by
    have hf := r.free
    simp only [State.hartFree, Bool.and_eq_true, Bool.not_eq_true'] at hf
    unfold State.irqWake
    rw [hf.1.1.2]
    rfl
  unfold State.instr State.commitThen
  simp only [r.toQuiet.pollHalt, hw, r.free, r.irq, r.commit, r.toQuiet.trigAccess, Bool.not_true, Bool.not_false, Bool.false_eq_true, if_false,
    if_true]

section
variable {c : Instr} {s t : State} {h code tval : Nat} {f : State → State}

theorem State.Ready.completes (r : s.Ready h) {P : State → Prop} (hc : exec c s = .next (s.instr h f)) (hf : f s = t) (q : t.Quiet h) (hP : P t) :
    Completes c s P := by
  subst hf
  exact .of (hc.trans (congrArg _ (r.instr q))) hP

/-- An instruction that raises an exception takes it, and does nothing else. -/
theorem State.Ready.completes_exception (r : s.Ready h) (hc : exec c s = .next (s.instr h f)) (hf : f s = s.exception h code tval) :
    Completes c s fun t => s.Took t h false code tval ∧ t.mem = s.mem :=
  r.completes hc hf (r.toQuiet.trap ..) ⟨s.trap_took .., (s.trap_frame ..).1⟩

/-- An instruction that ends by writing `rd` retires with it. -/
theorem State.Ready.completes_setX (r : s.Ready h) {rd v : Nat} (hc : exec c s = .next (s.instr h f)) (hf : f s = (t.setX h rd v).retire h)
    (e : Executing h [rd] s t) : Completes c s fun u => s.Went u h ((s.hart h).pc + 4) [rd] ∧ (rd ≠ 0 → u.xreg h rd = v % 2 ^ hartXlen h) := by
  have e' : Executing h [rd] s (t.setX h rd v) := e.trans (.setX t v (List.mem_singleton.mpr rfl))
  exact r.completes hc hf (e'.quiet r.toQuiet).retire ⟨e'.went, fun h0 => State.xreg_setX_retire _ _ _ h0⟩

end

end Sys2Proof.Machine
end

section
/-! Traps that instructions raise, interrupts taken between two of them, and EBREAK into debug mode (R138, R286, R297, R298, R353, R492). -/

namespace Sys2Proof.Machine

open Sys2Proof

/-! ### Entry into debug mode by EBREAK (R492, R496, R497) -/

/-- Leaving a saggar changes the hart alone. -/
theorem State.saggarLeave_same {α : Type} (π : State → α) (hπ : ∀ t k f, π (State.updHart t k f) = π t) (s : State) (h : Nat) :
    π (s.saggarLeave h) = π s := by
  have hcsr : ∀ (t : State) (a v : Nat), π (t.setCsr h a v) = π t := fun _ _ _ => hπ _ _ _
  have hclear : ∀ (t : State) (n : Nat), π (t.saggarClear h n) = π t := fun t n => by
    unfold State.saggarClear
    refine (State.when_same π _ _ ?_).trans (State.when_same π _ _ (hπ _ _ _))
    exact (State.each_same π _ (fun _ _ u => hcsr u _ _) _).trans (hπ _ _ _)
  exact (hclear _ _).trans (hcsr _ _ _)

/-- Entry into debug mode changes the hart and the debug module. -/
theorem State.debugEnter_same {α : Type} (π : State → α) (hπ : ∀ t k f, π (State.updHart t k f) = π t)
    (hd : ∀ (t : State) (d : DebugSt), π { t with dbgm := d } = π t) (s : State) (h cause : Nat) : π (s.debugEnter h cause) = π s := by
  unfold State.debugEnter
  refine (hπ _ _ _).trans ((hd _ _).trans ((hπ _ _ _).trans ((hπ _ _ _).trans ((hπ _ _ _).trans ?_))))
  split
  · exact State.saggarLeave_same π hπ s h
  · rfl

theorem State.regs_debugEnter (s : State) (h cause : Nat) : (s.debugEnter h cause).regs = s.regs :=
  State.debugEnter_same State.regs (fun _ _ _ => rfl) (fun _ _ => rfl) s h cause

theorem State.mem_debugEnter (s : State) (h cause : Nat) : (s.debugEnter h cause).mem = s.mem :=
  State.debugEnter_same State.mem (fun _ _ _ => rfl) (fun _ _ => rfl) s h cause

theorem State.halted_debugEnter (s : State) (h cause : Nat) : ((s.debugEnter h cause).hart h).halted = true := by
  unfold State.debugEnter
  dsimp only
  rw [State.hart_updHart_self]

/-- An entry whose hart names no channel of the cross-trigger matrix ends with the hart itself. -/
theorem State.debugHalt_silent {s : State} {h : Nat} (cause : Nat) (hx : s.get (XTRG_IN_CH h) = 0) : s.debugHalt h cause = s.debugEnter h cause := by
  have hg : (s.debugEnter h cause).get (XTRG_IN_CH h) = 0 := by
    rw [← hx, State.get, State.rd, s.regs_debugEnter h cause, State.get, State.rd]
  refine State.when_same id _ _ ?_
  rw [State.xtrgEvent, hg]
  rfl

theorem State.haltCommit_outside {s : State} {h : Nat} (he : s.epochMode (clusterOf h) = false) : s.haltCommit h = s := by
  have hc : s.epoCommit (clusterOf h) = s := by rw [State.epoCommit, he]; rfl
  unfold State.haltCommit
  rw [hc, ite_self]

/-! ### What an instruction raises -/

/-- EBREAK enters debug mode here. -/
def State.ebreakHalts (s : State) (h code : Nat) : Prop :=
  code = 3 ∧ bitAt (s.csr h csrDcsr) (ebreakBit (s.hart h).priv) = true ∧ s.invasive (s.hartWorld h) = true

section
variable {s : State} {h code tval : Nat}

theorem State.raiseExc_not (hk : s.excOk h code = false) : s.raiseExc h code tval = s := by
  unfold State.raiseExc
  rw [hk]
  rfl

theorem State.raiseExc_taken (hk : s.excOk h code = true) (hb : ¬ s.ebreakHalts h code) : s.raiseExc h code tval = s.exception h code tval := by
  have hc : (code == 3 && bitAt (s.csr h csrDcsr) (ebreakBit (s.hart h).priv) && s.invasive (s.hartWorld h)) = false := by
    rw [← Bool.not_eq_true, Bool.and_eq_true, Bool.and_eq_true, beq_iff_eq, and_assoc]
    exact hb
  unfold State.raiseExc
  rw [hk, hc]
  rfl

theorem State.raiseExc_halts (hk : s.excOk h code = true) (hb : s.ebreakHalts h code) : s.raiseExc h code tval = (s.haltCommit h).debugHalt h 1 := by
  obtain ⟨rfl, hd, hi⟩ := hb
  unfold State.raiseExc
  rw [hk, hd, hi]
  rfl

end

theorem exec_trapEntry (h : Hart) (cause tval : Word) (s : State) : exec (.trapEntry h cause tval) s = .next
    (if bitAt cause.toNat (hartXlen h.val - 1) then (s.pollHalt h.val).takeIrq h.val (cause.toNat % 2 ^ (hartXlen h.val - 1))
      else s.instr h.val (fun t => t.raiseExc h.val (cause.toNat % 2 ^ (hartXlen h.val - 1)) (tval.toNat % 2 ^ hartXlen h.val))) := rfl

section
variable {h : Hart} {cause tval : Word} {s : State}

theorem exec_trapEntry_exception (he : bitAt cause.toNat (hartXlen h.val - 1) = false) : exec (.trapEntry h cause tval) s = .next
    (s.instr h.val (fun t => t.raiseExc h.val (cause.toNat % 2 ^ (hartXlen h.val - 1)) (tval.toNat % 2 ^ hartXlen h.val))) := by
  rw [exec_trapEntry, he, if_neg Bool.false_ne_true]

theorem exec_trapEntry_interrupt (hi : bitAt cause.toNat (hartXlen h.val - 1) = true) (q : s.Quiet h.val) : exec (.trapEntry h cause tval) s =
    .next (s.takeIrq h.val (cause.toNat % 2 ^ (hartXlen h.val - 1))) := by
  rw [exec_trapEntry, hi, if_pos rfl, q.pollHalt]

/-- EBREAK of a hart outside epoch mode, whose entry no channel carries on. -/
theorem trapEntry_halts (he : bitAt cause.toNat (hartXlen h.val - 1) = false) (r : s.Ready h.val)
    (hk : s.excOk h.val (cause.toNat % 2 ^ (hartXlen h.val - 1)) = true) (hb : s.ebreakHalts h.val (cause.toNat % 2 ^ (hartXlen h.val - 1)))
    (hm : s.epochMode (clusterOf h.val) = false) (hx : s.get (XTRG_IN_CH h.val) = 0) :
    Completes (.trapEntry h cause tval) s fun t => (t.hart h.val).halted = true ∧ t.mem = s.mem := by
  have hh := s.halted_debugEnter h.val 1
  have hf : s.raiseExc h.val (cause.toNat % 2 ^ (hartXlen h.val - 1)) (tval.toNat % 2 ^ hartXlen h.val) = s.debugEnter h.val 1 := by
    rw [State.raiseExc_halts hk hb, State.haltCommit_outside hm, State.debugHalt_silent 1 hx]
  refine .of ((exec_trapEntry_exception he).trans (congrArg _ (r.instr_after _))) ?_
  rw [hf, State.afterInstr, hh, if_pos rfl]
  exact ⟨hh, s.mem_debugEnter ..⟩

/-! ### An interrupt between two instructions -/

/-- A trap ends the wait of `vt.wt` (R138). -/
theorem State.waitVt_trap (s : State) (h : Nat) (irq : Bool) (code tval : Nat) : ((s.trap h irq code tval).hart h).waitVt = none := by
  have hw : ∀ tgt, ((s.trapEntered h irq tgt).hart h).waitVt = none := fun tgt => by
    unfold State.trapEntered
    dsimp only
    rw [State.hart_updHart_self]
  rcases s.trapTarget_cases h irq code with ht | ht | ht
  · rw [State.trap_m _ _ _ _ _ ht]
    dsimp only
    rw [State.hart_updHart_self, State.hart_trapWrites]
    exact hw .m
  · rw [State.trap_s _ _ _ _ _ ht]
    dsimp only
    rw [State.hart_updHart_self, State.hart_setCsr, State.hart_trapWrites]
    exact hw .s
  · rw [State.trap_vs _ _ _ _ _ ht]
    dsimp only
    rw [State.hart_updHart_self, State.hart_trapWrites]
    exact hw .vs

theorem State.takeIrq_next {s : State} {h code : Nat} (q : s.Quiet h) (hr : s.hartRuns h = true) (hd : s.devPending h = false)
    (hn : s.irqNext h = some code) : s.takeIrq h code = s.trap h true code 0 := by
  unfold State.takeIrq
  rw [hr, hd, hn, if_pos (by simp), (q.trap ..).afterInstr]

theorem State.takeIrq_other {s : State} {h code : Nat} (hn : s.irqNext h ≠ some code) : s.takeIrq h code = s := by
  unfold State.takeIrq
  rw [if_neg (by simp [hn])]

end

/-- Settles O31: on a quiet hart nothing follows the trap, and a trap goes where delegation sends it (`State.trap_took`). -/
theorem trapsAreTaken : Obligations.TrapsAreTaken := by
  intro h cause tval s
  refine ⟨fun he r => ⟨fun hk hb => ?_, fun hk hb hm hx => trapEntry_halts he r hk hb hm hx, fun hk => ?_⟩,
    fun hi q => ⟨fun hr hd hn => ?_, fun hn => ?_⟩⟩
  · exact r.completes_exception (exec_trapEntry_exception he) (State.raiseExc_taken hk hb)
  · exact r.completes (exec_trapEntry_exception he) (State.raiseExc_not hk) r.toQuiet rfl
  · refine .of ((exec_trapEntry_interrupt hi q).trans (congrArg _ (State.takeIrq_next q hr hd hn))) ?_
    exact ⟨s.trap_took .., s.waitVt_trap .., (s.trap_frame ..).1⟩
  · exact .of (exec_trapEntry_interrupt hi q) (State.takeIrq_other hn)

end Sys2Proof.Machine
end

section
/-! CSR instructions: what traps, what is read, what `mscratch` and `mvtctl` store, and from which instruction on a mode is in force (R141, R142,
R277, R278, R297). -/

namespace Sys2Proof.Machine

open Sys2Proof

/-! ### CSR instructions in general -/

theorem exec_csrAccess (h : Hart) (csr : BitVec 12) (op : CsrOp) (rd : RegIdx) (src : Word) (s : State) : exec (.csrAccess h csr op rd src) s =
    .next (s.instr h.val (fun t => t.csrInstr h.val csr.toNat op rd.val src.toNat)) := rfl

theorem exec_modeCsrWrite_here {h : Hart} {csr : ModeCsr} {op : CsrOp} {rd : RegIdx} {src : Word} {s : State}
    (hc : modeCsrHere csr (s.hart h.val).priv = true) : exec (.modeCsrWrite h csr op rd src) s =
    .next (s.instr h.val (fun t => t.csrInstr h.val (modeCsrAddr csr) op rd.val src.toNat)) := congrArg Host.Outcome.next (if_pos hc)

theorem exec_modeCsrWrite_absent {h : Hart} {csr : ModeCsr} {op : CsrOp} {rd : RegIdx} {src : Word} {s : State}
    (hc : modeCsrHere csr (s.hart h.val).priv = false) : exec (.modeCsrWrite h csr op rd src) s = .next s :=
  congrArg Host.Outcome.next (if_neg (by simp [hc]))

section
variable {s : State} {h a rd src : Nat} {op : CsrOp}

theorem State.csrInstr_refused {c : Nat} (hc : s.csrCheck h a (op != .read) = some c) : s.csrInstr h a op rd src = s.exception h c 0 := by
  rw [State.csrInstr, hc]

theorem State.csrInstr_taken (hc : s.csrCheck h a (op != .read) = none) : s.csrInstr h a op rd src = s.csrDo h a op rd (src % 2 ^ hartXlen h) := by
  rw [State.csrInstr, hc]

/-- A read of a CSR takes at most a free value. -/
theorem State.csrRead_frame (s : State) (h a : Nat) : (s.csrRead h a).1 = s ∨ (s.csrRead h a).1 = s.tookFree := by
  unfold State.csrRead
  split
  · exact .inr rfl
  · exact .inl rfl

theorem Executing.csrRead {rs : List Nat} (s : State) (h a : Nat) : Executing h rs s (s.csrRead h a).1 := by
  rcases s.csrRead_frame h a with e | e <;> rw [e]
  · exact .refl h rs s
  · exact .aside rfl rfl

theorem State.mem_csrRead (s : State) (h a : Nat) : (s.csrRead h a).1.mem = s.mem := by
  rcases s.csrRead_frame h a with e | e <;> rw [e]
  exact s.mem_tookFree

theorem State.csrDo_read : s.csrDo h a .read rd src =
    ((s.csrRead h (csrEff (s.hart h).priv a)).1.setX h rd (s.csrRead h (csrEff (s.hart h).priv a)).2).retire h := rfl

/-- A write of a CSR that M-mode names directly and that is not a counter: rd takes the value read, then the new one is stored. -/
theorem State.csrDo_write (hp : (s.hart h).priv = .m) (ho : op ≠ .read) (ha : within a 0xB00 0xC00 = false) (hm : a ≠ 0x344)
    (hr : s.csrRead h a = (s, s.csr h a)) : s.csrDo h a op rd src =
      ((s.setX h rd (s.csr h a)).csrWrite h a (csrNew op (s.csr h a) src % 2 ^ hartXlen h) false).retire h := by
  have he : csrEff (s.hart h).priv a = a := by rw [hp]; rfl
  have hb : (op == .read) = false := beq_eq_false_iff_ne.mpr ho
  have hw : s.csrRmw h a (s.csr h a) = s.csr h a := if_neg (by simpa using hm)
  unfold State.csrDo
  simp only [he, hr, hb, ha, hw, Bool.false_eq_true, if_false]

end

section
variable {s : State} {h : Hart} {csr : BitVec 12} {op : CsrOp} {rd : RegIdx} {src : Word}

theorem csrAccess_refused {c : Nat} (r : s.Ready h.val) (hc : s.csrCheck h.val csr.toNat (op != .read) = some c) :
    Completes (.csrAccess h csr op rd src) s fun t => s.Took t h.val false c 0 :=
  (r.completes_exception (exec_csrAccess ..) (State.csrInstr_refused hc)).imp fun _ ht => ht.1

theorem csrAccess_read (r : s.Ready h.val) (hc : s.csrCheck h.val csr.toNat false = none) :
    Completes (.csrAccess h csr .read rd src) s fun t => (s.Went t h.val ((s.hart h.val).pc + 4) [rd.val] ∧ t.mem = s.mem) ∧
      (rd.val ≠ 0 → t.xreg h.val rd.val = (s.csrRead h.val (csrEff (s.hart h.val).priv csr.toNat)).2 % 2 ^ hartXlen h.val) := by
  generalize he : csrEff (s.hart h.val).priv csr.toNat = e
  have hf : s.csrInstr h.val csr.toNat .read rd.val src.toNat = ((s.csrRead h.val e).1.setX h.val rd.val (s.csrRead h.val e).2).retire h.val := by
    rw [State.csrInstr_taken hc, State.csrDo_read, he]
  have hE : Executing h.val [rd.val] s ((s.csrRead h.val e).1.setX h.val rd.val (s.csrRead h.val e).2) :=
    (Executing.csrRead ..).trans (.setX _ _ (by simp))
  refine r.completes (exec_csrAccess ..) hf (hE.quiet r.toQuiet).retire ⟨⟨hE.went, ?_⟩, fun h0 => State.xreg_setX_retire _ _ _ h0⟩
  rw [State.mem_retire, State.mem_setX, State.mem_csrRead]

/-! ### `mscratch` (R297) -/

theorem csrCheck_mscratch (w : Bool) (hp : (s.hart h.val).priv = .m) : s.csrCheck h.val 0x340 w = none := by
  have hk : ∀ k : Hart, csrKnown k.val 0x340 = true := by decide
  unfold State.csrCheck State.csrGate
  rw [hk, hp]
  cases w <;> rfl

theorem State.csrRead_mscratch (s : State) (h : Nat) : s.csrRead h 0x340 = (s, s.csr h 0x340) := rfl

theorem State.csrWrite_mscratch (s : State) (h v : Nat) : s.csrWrite h 0x340 v false = s.setCsr h 0x340 v := by
  have hm : csrMask h 0x340 = none := by simp [csrMask, within]
  simp [State.csrWrite, isModeCsr, within, csrEzsag, csrEzpm, csrEzepoch, hm]

theorem mscratch_written (r : s.Ready h.val) (hp : (s.hart h.val).priv = .m) (ho : op ≠ .read) :
    Completes (.csrAccess h 0x340 op rd src) s fun t => (s.Went t h.val ((s.hart h.val).pc + 4) [rd.val] ∧ t.mem = s.mem) ∧
      t.csr h.val 0x340 = csrNew op (s.csr h.val 0x340) (src.toNat % 2 ^ hartXlen h.val) % 2 ^ hartXlen h.val ∧
      (rd.val ≠ 0 → t.xreg h.val rd.val = s.csr h.val 0x340 % 2 ^ hartXlen h.val) := by
  have hf := State.csrInstr_taken (rd := rd.val) (src := src.toNat) (csrCheck_mscratch (op != .read) hp)
  rw [State.csrDo_write hp ho rfl (by decide) (s.csrRead_mscratch h.val), State.csrWrite_mscratch] at hf
  generalize csrNew op (s.csr h.val 0x340) (src.toNat % 2 ^ hartXlen h.val) = v at hf ⊢
  have hE : Executing h.val [rd.val] s ((s.setX h.val rd.val (s.csr h.val 0x340)).setCsr h.val 0x340 (v % 2 ^ hartXlen h.val)) :=
    (Executing.setX s _ (by simp)).trans (.setCsr _ _ (by decide))
  refine r.completes (exec_csrAccess ..) hf (hE.quiet r.toQuiet).retire ⟨⟨hE.went, ?_⟩, ?_, fun h0 => ?_⟩
  · exact (State.mem_retire ..).trans (State.mem_setX ..)
  · rw [State.csr_retire _ _ (by simp [hpmCsr]), State.csr_setCsr_self, Nat.mod_mod]
  · rw [State.xreg_retire, State.xreg, State.hart_setCsr, ← State.xreg, State.xreg_setX, if_neg h0]

/-! ### `mvtctl`, and when a mode is in force (R141, R278) -/

theorem csrCheck_mvtctl (w : Bool) (hp : (s.hart h.val).priv = .m) (hh : h.val < 12) : s.csrCheck h.val 0x7C0 w = none := by
  have hk : ∀ k : Hart, k.val < 12 → csrKnown k.val 0x7C0 = true := by decide
  unfold State.csrCheck State.csrGate
  rw [hk h hh, hp]
  cases w <;> rfl

theorem State.csrRead_mvtctl (s : State) (h : Nat) : s.csrRead h 0x7C0 = (s, s.csr h 0x7C0) := rfl

theorem State.csrWrite_mvtctl (s : State) (h v : Nat) : s.csrWrite h 0x7C0 v false = s.setModeCsr h 0x7C0 (merge 0x1F (s.csr h 0x7C0) v) := rfl

/-- The value stored, and the value it replaces, which waits until the third instruction after the write. -/
theorem State.setModeCsr_stored {s : State} {h : Nat} (a v : Nat) (ho : (s.hart h).modeOld = []) :
    (s.setModeCsr h a v).csr h a = v % 2 ^ hartXlen h ∧ ((s.setModeCsr h a v).hart h).modeOld = [(a, s.csr h a, (s.hart h).pos + 3)] := by
  refine ⟨(State.csr_updHart _ h (by rfl) a).trans (State.csr_setCsr_self ..), ?_⟩
  rw [State.setModeCsr, State.hart_updHart_self, State.hart_setCsr]
  simp [ho]

theorem Executing.setModeCsr {rs : List Nat} (s : State) (v : Nat) {h a : Nat} (ha : a ≠ csrDcsr ∧ a < 0x10000) :
    Executing h rs s (s.setModeCsr h a v) := by
  unfold State.setModeCsr
  exact (Executing.setCsr s v ha).trans (.updHart _ _ ⟨rfl, rfl, rfl, rfl, rfl, rfl⟩)

/-- Of one write that waits, the value it replaces is in force for the two instructions that follow it (R278). -/
theorem State.modeVal_after {s : State} {h a old p : Nat} (hm : (s.hart h).modeOld = [(a, old, p + 3)]) (n : Nat) :
    (s.updHart h (fun k => { k with pos := p + n })).modeVal h a = if n < 3 then old else s.csr h a := by
  unfold State.modeVal
  rw [State.hart_updHart_self, State.csr_updHart _ _ rfl]
  dsimp only
  rw [hm]
  by_cases hn : n < 3
  · simp [hn]
  · simp [hn]

theorem mvtctl_written (r : s.Ready h.val) (hp : (s.hart h.val).priv = .m) (hh : h.val < 12) (hm : (s.hart h.val).modeOld = []) :
    Completes (.modeCsrWrite h .mvtctl .write rd src) s fun t => (s.Went t h.val ((s.hart h.val).pc + 4) [rd.val] ∧ t.mem = s.mem) ∧
      t.csr h.val 0x7C0 = merge 0x1F (s.csr h.val 0x7C0) (src.toNat % 2 ^ hartXlen h.val) % 2 ^ hartXlen h.val ∧
      ∀ n, (t.updHart h.val (fun k => { k with pos := (s.hart h.val).pos + n })).modeVal h.val 0x7C0 =
        if n < 3 then s.csr h.val 0x7C0 else t.csr h.val 0x7C0 := by
  have hx := s.hart_setX h.val rd.val (s.csr h.val 0x7C0)
  have hc : (s.setX h.val rd.val (s.csr h.val 0x7C0)).csr h.val 0x7C0 = s.csr h.val 0x7C0 := State.csr_congr (by rw [hx]) _
  have hf := State.csrInstr_taken (op := .write) (rd := rd.val) (src := src.toNat) (csrCheck_mvtctl true hp hh)
  rw [State.csrDo_write hp (by decide) rfl (by decide) (s.csrRead_mvtctl h.val), State.csrWrite_mvtctl, hc, csrNew, Nat.mod_mod] at hf
  generalize merge 0x1F (s.csr h.val 0x7C0) (src.toNat % 2 ^ hartXlen h.val) = v at hf ⊢
  generalize hu : s.setX h.val rd.val (s.csr h.val 0x7C0) = u at hf hx hc
  obtain ⟨hcsr, hold⟩ := State.setModeCsr_stored (s := u) (h := h.val) 0x7C0 v (by rw [hx]; exact hm)
  have hE : Executing h.val [rd.val] s (u.setModeCsr h.val 0x7C0 v) := by
    rw [← hu]
    exact (Executing.setX s _ (by simp)).trans (.setModeCsr _ _ (by decide))
  have hcr : ((u.setModeCsr h.val 0x7C0 v).retire h.val).csr h.val 0x7C0 = (u.setModeCsr h.val 0x7C0 v).csr h.val 0x7C0 :=
    State.csr_retire _ _ (by simp [hpmCsr])
  refine r.completes (exec_modeCsrWrite_here rfl) hf (hE.quiet r.toQuiet).retire ⟨⟨hE.went, ?_⟩, hcr.trans hcsr, State.modeVal_after ?_⟩
  · rw [State.mem_retire, ← hu]
    exact State.mem_setX ..
  · rw [State.hart_retire]
    dsimp only
    rw [hold, hc, hx]

end

/-- Settles O49: what stands in the way is judged first, the rest reads, stores and retires. -/
theorem csrsAreReadAndWritten : Obligations.CsrsAreReadAndWritten := by
  intro h csr op rd src s r
  refine ⟨fun c hc => csrAccess_refused r hc, fun hc => csrAccess_read r hc, fun hp ho => mscratch_written r hp ho,
    fun hp hh hm => mvtctl_written r hp hh hm, fun hv => .of (exec_modeCsrWrite_absent ?_) rfl, fun hv => .of (exec_modeCsrWrite_absent hv) rfl⟩
  rw [modeCsrHere, hv]
  rfl

end Sys2Proof.Machine
end

section
/-! What the wheel does for an instruction that arms or aborts, interrupts included, while the instruction is under way: no hart's program,
registers or CSRs, and not the debug module (R116 to R131, R144 to R148, R204, R314 to R316, R506). -/

namespace Sys2Proof.Machine

open Sys2Proof

section
variable {h : Nat} {rs : List Nat}

/-! ### Interrupts and counters -/

theorem Executing.irqWake (s : State) (k : Nat) : Executing h rs s (s.irqWake k) := by
  unfold State.irqWake
  split
  · refine Executing.trans (.updHart s k ⟨rfl, rfl, rfl, rfl, rfl, rfl⟩) (.when _ _ ?_)
    exact (Executing.updHart _ k ⟨rfl, rfl, rfl, rfl, rfl, rfl⟩).trans (.put ..)
  · exact .refl h rs s

theorem Executing.noteArrival (s : State) (k f e : Nat) : Executing h rs s (s.noteArrival k f e) := by
  refine .aside (by rw [(s.noteArrival_frame k f e).1]) ?_
  unfold State.noteArrival
  dsimp only
  split <;> rfl

theorem Executing.msiTo (s : State) (w : World) (src k f e : Nat) : Executing h rs s (s.msiTo w src k f e).1 := by
  rcases s.msiTo_cases w src k f e with hlog | hfile | ⟨n, -, hline⟩
  · exact hlog.executing
  · rw [hfile]
    exact (show Executing h rs s (s.setImsic k f _) from .aside rfl rfl).trans ((Executing.noteArrival _ k f e).trans (.irqWake _ k))
  · rw [hline]
    exact (Executing.put s _ _).trans (.irqWake _ _)

theorem Executing.vecSend (s : State) (w : World) (src vec : Nat) : Executing h rs s (s.vecSend w src vec).1 := by
  unfold State.vecSend
  dsimp only
  split
  · exact .refl h rs s
  split
  · exact (LogOnly.sherd ..).executing
  · exact .msiTo ..

/-- Counting an event changes registers alone. -/
theorem State.pmuCarry_regs (p : PmuPlace) (n : Nat) : ∀ (s : State) (i k : Nat), ∃ r, s.pmuCarry p n i k = { s with regs := r } := by
  induction n with
  | zero => exact fun s _ _ => ⟨s.regs, rfl⟩
  | succ n ih =>
    intro s i k
    unfold State.pmuCarry
    dsimp only
    split
    · exact ⟨_, rfl⟩
    split
    · obtain ⟨r, hr⟩ := ih ((s.put (pmuCnt p i) (s.get (pmuCnt p i) + k)).put (pmuOvf p i) 1) (i + 1) ((s.get (pmuCnt p i) + k) / 2 ^ 32)
      exact ⟨r, hr⟩
    · exact ⟨_, rfl⟩

theorem Executing.pmuCount (s : State) (p : PmuPlace) (i k : Nat) : Executing h rs s (s.pmuCount p i k) := by
  unfold State.pmuCount
  split
  · exact .refl h rs s
  · obtain ⟨r, hr⟩ := State.pmuCarry_regs p (pmuN p) s i k
    rw [hr]
    exact .aside rfl rfl

theorem Executing.sliceCount (s : State) (n i k : Nat) : Executing h rs s (s.sliceCount n i k) := .pmuCount ..

theorem Executing.wheelIrq (s : State) (o : WOwner) (b : Nat) : Executing h rs s (s.wheelIrq o b) := by
  unfold State.wheelIrq State.sliceVec
  dsimp only
  split
  · split
    · exact ((Executing.put ..).trans (.vecSend ..)).trans (.when _ _ (.sliceCount ..))
    · exact .put ..
  · exact .put ..

/-! ### Entries that end (R123 to R126, R131) -/

theorem Executing.wheelFree (s : State) (i : Nat) : Executing h rs s (s.wheelFree i) := by
  unfold State.wheelFree
  dsimp only
  split
  · exact .refl h rs s
  · exact .aside rfl rfl

theorem Executing.wheelPost (s : State) (i : Nat) : Executing h rs s (s.wheelPost i) := by
  unfold State.wheelPost
  dsimp only
  split
  · exact .wheelFree ..
  · exact .when _ _ (.wheelIrq ..)

theorem Executing.ldgAccept (s : State) (r : Rec) : Executing h rs s (s.ldgAccept r) := (LogOnly.ofLdg (.accept s r)).executing

/-- An entry takes its next state, and the count of the horizon with it. -/
theorem Executing.setWent_counted (s : State) (i : Nat) (e : WEntry) : Executing h rs s (s.setWent i e).horizonCount := .aside rfl rfl

theorem Executing.wheelFinish (s : State) (i : Nat) (st : Status) (missed : Bool) (t : Nat) : Executing h rs s (s.wheelFinish i st missed t) := by
  have hmissed (u : State) (c : Bool) (r : Rec) (o : WOwner) : Executing h rs u ((u.when c fun v => v.ldgAccept r).wheelIrq o 2) :=
    (Executing.when u c (.ldgAccept ..)).trans (.wheelIrq ..)
  unfold State.wheelFinish
  dsimp only
  refine Executing.trans ?_ (.wheelPost ..)
  refine Executing.trans ((Executing.setWent_counted ..).trans (.when _ _ (.ldgAccept ..))) (.when _ _ ?_)
  split
  · exact (hmissed ..).trans (.sliceCount ..)
  · exact hmissed ..

/-! ### Entries that are placed (R116, R118, R123, R127 to R130) -/

theorem Executing.wheelFire (s : State) (i : Nat) (coarse jumped : Bool) : Executing h rs s (s.wheelFire i coarse jumped).1 := by
  have hfired (u : State) (e : WEntry) (k : Nat) : Executing h rs u (((u.setWent i e).horizonCount).noteFired k) := .aside rfl rfl
  have hlate (u : State) (c : Bool) (o : WOwner) : Executing h rs u (u.when c fun t => (t.inc TWH_LATECNT_LATE 1).wheelIrq o 3) :=
    .when _ _ ((Executing.put ..).trans (.wheelIrq ..))
  have hcoarse (u : State) : Executing h rs u (u.when coarse fun t => t.inc TWH_HORIZON_COARSE 1) := .when _ _ (.put ..)
  unfold State.wheelFire
  dsimp only
  split
  · exact (((hfired ..).trans (hlate ..)).trans (hcoarse _)).trans (.wheelFinish ..)
  · exact ((hfired ..).trans (hlate ..)).trans (hcoarse _)

theorem Executing.horizonAdmit (s : State) (i : Nat) : Executing h rs s (s.horizonAdmit i) := by
  unfold State.horizonAdmit State.horizonTake
  dsimp only
  split
  · split
    · exact .setWent_counted ..
    split
    · exact (Executing.setWent_counted ..).trans (.setWent_counted ..)
    · exact .setWent_counted ..
  · exact .refl h rs s

theorem Executing.wheelPlace (s : State) (i : Nat) : Executing h rs s (s.wheelPlace i).1 := by
  unfold State.wheelPlace
  dsimp only
  split
  · exact .wheelFinish ..
  split
  · exact .wheelFire ..
  · exact .horizonAdmit ..

/-- An index is taken from the wheel's own lists. -/
theorem State.wAlloc_wheel {s t : State} {w : World} {i : Nat} (ha : s.wAlloc w = some (i, t)) : ∃ k, t = { s with wheel := k } := by
  unfold State.wAlloc at ha
  dsimp only at ha
  generalize (if w == World.secure then s.wheel.freshS else s.wheel.freshN) = fresh at ha
  generalize (if w == World.secure then s.wheel.freedS else s.wheel.freedN) = freed at ha
  by_cases hf : fresh < s.partSize w
  · rw [if_pos hf] at ha
    exact ⟨_, (Prod.mk.inj (Option.some.inj ha)).2.symm⟩
  · rw [if_neg hf] at ha
    cases freed with
    | nil => cases ha
    | cons j r => exact ⟨_, (Prod.mk.inj (Option.some.inj ha)).2.symm⟩

theorem Executing.arm (s : State) (q : ArmReq) : Executing h rs s (s.arm q).1 := by
  unfold State.arm
  dsimp only
  split
  case h_1 i t _ ha =>
    obtain ⟨k, rfl⟩ := State.wAlloc_wheel ha
    have hentered (e : WEntry) (o : WOwner) (m : WheelSt) :
        Executing h rs s ((State.setWent { s with wheel := m } i e).inc (wUsed o) 1) := .aside rfl rfl
    have hcounted (u : State) : Executing h rs u (match q.owner.slice with
      | some n => u.sliceCount n 8 1
      | none => u) := by
      split
      · exact .sliceCount ..
      · exact .refl h rs u
    split
    · exact (hentered _ _ _).trans (hcounted _)
    · exact ((hentered _ _ _).trans (hcounted _)).trans (.wheelPlace ..)
  case h_2 =>
    split
    · exact (Executing.wheelIrq ..).trans (.sliceCount ..)
    · exact .wheelIrq ..
  case h_3 => exact .refl h rs s

/-! ### Aborts (R144 to R148) -/

theorem Executing.abort (s : State) (o : WOwner) (handle : Nat) : Executing h rs s (s.abort o handle).1 := by
  unfold State.abort
  dsimp only
  generalize highest _ = st
  split
  · exact .refl h rs s
  split
  · exact .wheelFree ..
  have hend (c : Bool) (e : WEntry) (i : Nat) :
      Executing h rs s (if c then (s, Status.tooLate) else (((s.setWent i e).horizonCount).wheelPost i, Status.ok)).1 := by
    cases c
    · exact (Executing.setWent_counted ..).trans (.wheelPost ..)
    · exact .refl h rs s
  split
  · exact hend ..
  · exact hend ..
  · exact .refl h rs s
  · exact .refl h rs s

end

end Sys2Proof.Machine
end

section
/-! Xeztime: reading and waiting for vehicle time, arming and aborting, and the results that arrive beside a timekeeper's pipe (R136 to R139, R142,
R144, R285, R290, R355). -/

namespace Sys2Proof.Machine

open Sys2Proof

/-! ### Where Xeztime is permitted (R142) -/

/-- An Xeztime instruction once its hart executes it. -/
def State.xezDo (s : State) (h : Nat) (f : State → State) : State :=
  match s.xezCheck h with
  | some c => s.exception h c 0
  | none => f s

section
variable {s : State} {h : Nat} {f : State → State}

theorem State.xezDo_refused {c : Nat} (hc : s.xezCheck h = some c) : s.xezDo h f = s.exception h c 0 := by rw [State.xezDo, hc]

theorem State.xezDo_permitted (hc : s.xezCheck h = none) : s.xezDo h f = f s := by rw [State.xezDo, hc]

theorem State.Ready.completes_xezRefused {i : Instr} {c : Nat} (r : s.Ready h) (hi : exec i s = .next (s.instr h fun t => t.xezDo h f))
    (hc : s.xezCheck h = some c) : Completes i s fun t => s.Took t h false c 0 :=
  (r.completes_exception hi (State.xezDo_refused hc)).imp fun _ ht => ht.1

end

theorem exec_vtRd (h : Hart) (rd : RegIdx) (s : State) : exec (.vtRd h rd) s =
    .next (s.instr h.val fun u => u.xezDo h.val fun t => t.vtRd h.val rd.val) := rfl

theorem exec_vtWt (h : Hart) (va : Word) (s : State) : exec (.vtWt h va) s =
    .next (s.instr h.val fun u => u.xezDo h.val fun t => t.vtWt h.val (va.toNat % 2 ^ hartXlen h.val)) := rfl

theorem exec_vtSta (h : Hart) (va data : Word) (rd : RegIdx) (s : State) : exec (.vtSta h va data rd) s =
    .next (s.instr h.val fun u => u.xezDo h.val fun t => t.vtSta h.val (va.toNat % 2 ^ hartXlen h.val) data.toNat 8 rd.val) := rfl

theorem exec_vtStaW (h : Hart) (va data : Word) (rd : RegIdx) (s : State) : exec (.vtStaW h va data rd) s =
    .next (s.instr h.val fun u => u.xezDo h.val fun t => t.vtSta h.val (va.toNat % 2 ^ hartXlen h.val) data.toNat 4 rd.val) := rfl

theorem exec_vtEv (h : Hart) (va : Word) (rd : RegIdx) (s : State) : exec (.vtEv h va rd) s =
    .next (s.instr h.val fun u => u.xezDo h.val fun t => t.vtEv h.val (va.toNat % 2 ^ hartXlen h.val) rd.val) := rfl

theorem exec_vtAbt (h : Hart) (handle : BitVec 32) (rd : RegIdx) (s : State) : exec (.vtAbt h handle rd) s =
    .next (s.instr h.val fun u => u.xezDo h.val fun t => t.vtAbt h.val handle.toNat rd.val) := rfl

/-- Each of the six asks first whether its mode may use Xeztime. -/
theorem xezInstructions_ask (h : Hart) (rd : RegIdx) (va data : Word) (handle : BitVec 32) (s : State) :
    ∀ i ∈ [Instr.vtRd h rd, .vtWt h va, .vtSta h va data rd, .vtStaW h va data rd, .vtEv h va rd, .vtAbt h handle rd],
      ∃ f, exec i s = .next (s.instr h.val fun t => t.xezDo h.val f) := by
  intro i hi
  simp only [List.mem_cons, List.not_mem_nil, or_false] at hi
  rcases hi with rfl | rfl | rfl | rfl | rfl | rfl
  · exact ⟨_, exec_vtRd ..⟩
  · exact ⟨_, exec_vtWt ..⟩
  · exact ⟨_, exec_vtSta ..⟩
  · exact ⟨_, exec_vtStaW ..⟩
  · exact ⟨_, exec_vtEv ..⟩
  · exact ⟨_, exec_vtAbt ..⟩

/-! ### Reading time and waiting for it (R137 to R139) -/

section
variable {s : State} {h : Hart} {rd : RegIdx} {va : Word} (r : s.Ready h.val) (hx : s.xezCheck h.val = none)
include r hx

theorem vtRd_reads : Completes (.vtRd h rd) s fun t => s.Went t h.val ((s.hart h.val).pc + 4) [rd.val] ∧
    (rd.val ≠ 0 → t.xreg h.val rd.val = s.vt 0 % 2 ^ hartXlen h.val) ∧ (8 ≤ h.val → t.csr h.val 0xCC1 = s.vt 0 / 2 ^ 32 % 2 ^ 32) ∧
    t.mem = s.mem := by
  obtain ⟨u, hu⟩ : ∃ u, u = s.when (8 ≤ h.val) fun t => t.setCsr h.val 0xCC1 (s.vt 0 / 2 ^ 32) := ⟨_, rfl⟩
  have hf : s.xezDo h.val (fun t => t.vtRd h.val rd.val) = (u.setX h.val rd.val (s.vt 0)).retire h.val := by
    rw [State.xezDo_permitted hx, hu, State.vtRd]
  have hE : Executing h.val [rd.val] s u := by
    rw [hu]
    exact .when _ _ (.setCsr _ _ (by decide))
  have hE' := hE.trans (.setX u (s.vt 0) (List.mem_singleton.mpr rfl))
  refine r.completes (exec_vtRd ..) hf (hE'.quiet r.toQuiet).retire ⟨hE'.went, fun h0 => State.xreg_setX_retire _ _ _ h0, fun h8 => ?_, ?_⟩
  · have hlen : hartXlen h.val = 32 := if_neg (by omega)
    have hcsr : (u.setX h.val rd.val (s.vt 0)).csr h.val 0xCC1 = u.csr h.val 0xCC1 := State.csr_congr (by rw [State.hart_setX]) _
    rw [State.csr_retire _ _ (by simp [hpmCsr]), hcsr, hu, decide_eq_true h8, State.when_true, State.csr_setCsr_self, hlen]
  · rw [State.mem_retire, State.mem_setX, hu]
    exact State.when_same State.mem _ _ rfl

theorem vtWt_reached (hv : s.vtReached h.val (va.toNat % 2 ^ hartXlen h.val) = true) :
    Completes (.vtWt h va) s fun t => s.Went t h.val ((s.hart h.val).pc + 4) [] := by
  have hf : s.xezDo h.val (fun t => t.vtWt h.val (va.toNat % 2 ^ hartXlen h.val)) = s.retire h.val := by
    rw [State.xezDo_permitted hx, State.vtWt, hv, if_pos rfl]
  exact r.completes (exec_vtWt ..) hf r.toQuiet.retire (Executing.refl ..).went

theorem vtWt_waits (hv : s.vtReached h.val (va.toNat % 2 ^ hartXlen h.val) = false) : Completes (.vtWt h va) s fun t =>
    (t.hart h.val).waitVt = some (va.toNat % 2 ^ hartXlen h.val) ∧ (t.hart h.val).pc = (s.hart h.val).pc := by
  have hf : s.xezDo h.val (fun t => t.vtWt h.val (va.toNat % 2 ^ hartXlen h.val)) =
      s.updHart h.val (fun t => { t with waitVt := some (va.toNat % 2 ^ hartXlen h.val) }) := by
    rw [State.xezDo_permitted hx, State.vtWt, hv, if_neg Bool.false_ne_true]
  have hE : Executing h.val [] s (s.updHart h.val (fun t => { t with waitVt := some (va.toNat % 2 ^ hartXlen h.val) })) :=
    .updHart _ _ ⟨rfl, rfl, rfl, rfl, rfl, rfl⟩
  refine r.completes (exec_vtWt ..) hf (hE.quiet r.toQuiet) ⟨?_, hE.pc⟩
  rw [State.hart_updHart_self]

end

theorem exec_vtWtEnd (h : Hart) (s : State) : exec (.vtWtEnd h) s = .next (s.vtWtEnd h.val) := rfl

section
variable {s : State} {h : Hart} {target : Nat} (hw : (s.hart h.val).waitVt = some target)
include hw

theorem vtWtEnd_retires (hr : s.hartRuns h.val = true) (q : s.Quiet h.val) (hv : s.vtReached h.val target = true) :
    Completes (.vtWtEnd h) s fun t => s.Went t h.val ((s.hart h.val).pc + 4) [] ∧ (t.hart h.val).waitVt = none := by
  have hE : Executing h.val [] s (s.updHart h.val (fun t => { t with waitVt := none })) := .updHart _ _ ⟨rfl, rfl, rfl, rfl, rfl, rfl⟩
  have hf : s.vtWtEnd h.val = (s.updHart h.val (fun t => { t with waitVt := none })).retire h.val := by
    unfold State.vtWtEnd
    rw [hw]
    dsimp only
    rw [hr, hv, if_pos (by rfl), (hE.quiet q).retire.afterInstr]
  refine .of ((exec_vtWtEnd h s).trans (congrArg _ hf)) ⟨hE.went, ?_⟩
  rw [State.hart_retire, State.hart_updHart_self]

theorem vtWtEnd_waits (hv : s.vtReached h.val target = false) : Completes (.vtWtEnd h) s fun t => t = s := by
  refine .of (exec_vtWtEnd h s) ?_
  unfold State.vtWtEnd
  rw [hw]
  dsimp only
  rw [hv, Bool.and_false, if_neg Bool.false_ne_true]

end

/-! ### Arming (R136, R137) -/

/-- What an arm leaves in rd: the handle, or the status. -/
def armResult (h : Nat) (st : Status) (handle : Nat) : Nat := if st = .ok then handle else stReg h st

/-- The outcome of an arm, counted, and a refusal by the fence recorded. -/
def State.armSeen (s : State) (h : Nat) (st : Status) : State :=
  (s.coreCount h (if st == .ok then 55 else 56)).when (st == .fenced) fun t =>
    t.sherd kFenced .fenced (srcId TKD 2) (t.hartWorld h) (hartSrc h) 0 (t.hartReq h).port TKD

theorem Executing.armSeen {h : Nat} {rs : List Nat} (s : State) (st : Status) : Executing h rs s (s.armSeen h st) :=
  (Counted.core h s _).executing.trans (.when _ _ (LogOnly.sherd ..).executing)

theorem State.armRetire_eq (s : State) (h rd : Nat) (st : Status) (handle : Nat) :
    s.armRetire h rd st handle = ((s.armSeen h st).setX h rd (armResult h st handle)).retire h := by
  unfold State.armRetire State.armSeen armResult
  simp only [beq_iff_eq]

/-- Outside epoch mode, and with nothing to issue at once, an arming instruction is the arm and its outcome. -/
theorem State.armInstr_eq {s : State} {q : ArmReq} (h rd : Nat) (he : q.epoch = none) (hg : (s.arm q).2.2.2 = false) :
    s.armInstr h rd q = (s.arm q).1.armRetire h rd (s.arm q).2.1 (s.arm q).2.2.1 := by
  unfold State.armInstr State.armIssue
  rw [he]
  simp only [State.when_false, hg, Bool.false_eq_true, if_false]

theorem State.Ready.completes_arm {s : State} {h rd : Nat} {q : ArmReq} {c : Instr} {f : State → State} (r : s.Ready h)
    (hc : exec c s = .next (s.instr h f)) (hf : f s = s.armInstr h rd q) (he : q.epoch = none) (hg : (s.arm q).2.2.2 = false) :
    Completes c s fun t => s.Went t h ((s.hart h).pc + 4) [rd] ∧
      (rd ≠ 0 → t.xreg h rd = armResult h (s.arm q).2.1 (s.arm q).2.2.1 % 2 ^ hartXlen h) := by
  have hend := (State.armInstr_eq h rd he hg).trans (State.armRetire_eq ..)
  exact r.completes_setX hc (hf.trans hend) ((Executing.arm s q).trans (.armSeen ..))

/-! ### `vt.sta` and `vt.sta.w` (R136, R137, R139) -/

section
variable {s : State} {h va data size rd : Nat}

theorem State.vtSta_rv32 (h8 : 8 ≤ h) : s.vtSta h va data 8 rd = s.illegal h := if_pos (by simp [h8])

theorem State.vtSta_misaligned (hz : h < 8 ∨ size ≠ 8) (ha : va % size ≠ 0) : s.vtSta h va data size rd = s.exception h 6 va := by
  unfold State.vtSta
  rw [if_neg (by simpa using hz.imp_left Nat.not_le.mpr |>.neg_resolve_left), if_pos (by simpa using ha)]
  rfl

theorem State.vtSta_arms {pa b : Nat} (hz : h < 8 ∨ size ≠ 8) (ha : va % size = 0) (ht : s.translate h .write va = (s, .ok (pa, b))) :
    s.vtSta h va data size rd = s.armInstr h rd (s.staReq h pa size data) := by
  unfold State.vtSta
  rw [if_neg (by simpa using hz.imp_left Nat.not_le.mpr |>.neg_resolve_left), if_neg (by simpa using ha), ht]

end

/-! ### `vt.ev` from a timekeeper's own memory (R137, R355) -/

theorem State.ownLocal_region {s : State} {h a : Nat} (hl : s.ownLocal h a = true) : ∃ n o, s.region a = .tkLocal n o := by
  unfold State.ownLocal at hl
  split at hl
  · exact ⟨_, _, ‹_›⟩
  · cases hl

/-- An access within a line, translated and permitted. -/
theorem State.withPieces_one {s : State} {h va n pa b : Nat} {k : AccKind} (f : List Piece → State → State) (hk : k ≠ .exec)
    (hm : chunk va n = n) (ht : s.translate h k va = (s, .ok (pa, b))) (hd : s.isDevice ⟨va, pa, n, b⟩ = false)
    (hp : s.pieceCheck h (s.hartSag h) k ⟨va, pa, n, b⟩ = .ok) : s.withPieces h k va n f = f [⟨va, pa, n, b⟩] s := by
  have hps : s.piecesOf h k va n = (s, .ok [⟨va, pa, n, b⟩]) := by
    unfold State.piecesOf
    dsimp only
    rw [ht, hm]
    dsimp only
    rw [if_pos (beq_self_eq_true n)]
  have hcheck : s.piecesCheck h (s.hartSag h) k [⟨va, pa, n, b⟩] = (s, none) := by
    unfold State.piecesCheck
    rw [hp]
    rfl
  unfold State.withPieces
  rw [hps]
  dsimp only
  rw [if_neg (by simp [hd]), if_neg (by simp [hk]), hcheck]

/-- A timekeeper with nothing in its buffers reads its own memory as it is. -/
theorem State.partsRead_ownLocal {s : State} {h va pa n b : Nat} (hl : s.ownLocal h pa = true) (hs : s.sb h = [])
    (hq : s.sramPoisoned (pa / 64) = false) : s.partsRead h [⟨va, pa, n, b⟩] = (s, s.bytesAt pa n, false) := by
  obtain ⟨k, o, hr⟩ := State.ownLocal_region hl
  have hw : s.sbWait h pa n = s := by
    unfold State.sbWait
    rw [hs]
    rfl
  have hread : s.normalRead h ⟨va, pa, n, b⟩ = (s, s.bytesAt pa n, false) := by
    unfold State.normalRead State.memRead State.sramRead
    simp only [hr, hq]
  unfold State.partsRead
  dsimp only
  rw [hw, hread]
  simp only [State.partsRead, Nat.zero_mul, Nat.add_zero, Bool.or_self]

/-- What the descriptor `d` asks for where no field of it is an address. -/
def State.descReq (s : State) (h d : Nat) : ArmReq :=
  ⟨bitsOf d 0 64, bitsOf d 64 64, bitsOf d 128 64, bitsOf d 192 4, bitAt d 196, bitAt d 197, bitAt d 198, bitsOf d 200 8, bitsOf d 208 16,
    s.armOwner h, h, bitAt (s.modeVal h 0x7C0) 3, s.armFile h, none⟩

theorem State.armDesc_plain {s : State} {h rd d : Nat} (hc : s.armCluster h = none) (h3 : bitsOf d 192 4 ≠ 3) (h7 : bitsOf d 192 4 ≠ 7) :
    s.armDesc h rd d = s.armInstr h rd (s.descReq h d) := by
  have e3 : (bitsOf d 192 4 == 3) = false := beq_eq_false_iff_ne.mpr h3
  have e7 : (bitsOf d 192 4 == 7) = false := beq_eq_false_iff_ne.mpr h7
  unfold State.armDesc State.descAddr State.descReq
  simp only [e3, e7, hc, Bool.or_self, Bool.not_false, if_true]

theorem State.vtEv_misaligned {s : State} {h va rd : Nat} (ha : va % 32 ≠ 0) : s.vtEv h va rd = s.exception h 4 va :=
  if_pos (by simpa using ha)

theorem State.vtEv_ownLocal {s : State} {h va pa rd : Nat} (h8 : 8 ≤ h) (hs : s.sb h = []) (hb : (s.hart h).wbuf = []) (ha : va % 32 = 0)
    (ht : s.translate h .read va = (s, .ok (pa, 0))) (hl : s.ownLocal h pa = true) (hp : s.pieceCheck h none .read ⟨va, pa, 32, 0⟩ = .ok)
    (hq : s.sramPoisoned (pa / 64) = false) : s.vtEv h va rd = s.armDesc h rd (s.bytesAt pa 32) := by
  have hd : s.isDevice ⟨va, pa, 32, 0⟩ = false := by
    obtain ⟨n, o, hr⟩ := State.ownLocal_region hl
    rw [State.isDevice, hr]
    rfl
  have hsag : s.hartSag h = none := by
    unfold State.hartSag State.inSaggar
    rw [decide_eq_false (Nat.not_lt.mpr h8)]
    rfl
  have hm : chunk va 32 = 32 := by
    unfold chunk
    exact Nat.min_eq_left (by omega)
  unfold State.vtEv
  rw [if_neg (by simpa using ha), State.withPieces_one _ (by decide) hm ht hd (hsag ▸ hp)]
  simp only [List.any_cons, List.any_nil, hd, hb, Bool.or_self, Bool.false_eq_true, if_false]
  rw [State.partsRead_ownLocal hl hs hq]

/-! ### `vt.abt` (R144) -/

/-- A condition of the table that holds is no success. -/
theorem highest_ne_ok {rows : List (Bool × Status)} {st : Status} (h : (true, st) ∈ rows) (hs : st ≠ .ok) : highest rows ≠ .ok := by
  unfold highest
  split
  next st' hf =>
    have hmem := List.mem_of_find?_eq_some hf
    rintro rfl
    simp at hmem
  next hf =>
    have hall := List.find?_eq_none.mp hf st (by cases st <;> simp at hs ⊢)
    exact absurd (List.any_eq_true.mpr ⟨_, h, by simp⟩) hall

/-- Nothing to abort: the entry is free, and nothing changes. -/
theorem State.abort_free {s : State} {handle : Nat} (o : WOwner) (hf : (s.went (handle % 65536)).state = .free) : (s.abort o handle).1 = s := by
  unfold State.abort
  dsimp only
  rw [if_pos]
  refine bne_iff_ne.mpr (highest_ne_ok (st := if s.firedNow handle then .tooLate else .stale) ?_ ?_)
  · simp [hf]
  · split <;> decide

/-- The abort of hart `h` as it leaves the wheel, a reservation out of its cluster's queue, and a refusal by the fence recorded. -/
def State.abtSeen (s : State) (h handle : Nat) : State :=
  let r := s.abort (s.armOwner h) handle
  let t := match (s.went (handle % 65536)).reserved with
    | some c => r.1.when (r.2 == Status.ok) fun u => u.unqueue c (handle % 65536)
    | none => r.1
  t.when (r.2 == Status.fenced) fun u => u.sherd kFenced .fenced (srcId TKD 2) (u.hartWorld h) (hartSrc h) 0 (u.hartReq h).port TKD

theorem Executing.abtSeen {h : Nat} {rs : List Nat} (s : State) (handle : Nat) : Executing h rs s (s.abtSeen h handle) := by
  unfold State.abtSeen
  dsimp only
  refine Executing.trans ?_ (.when _ _ (LogOnly.sherd ..).executing)
  split
  · exact (Executing.abort ..).trans (.when _ _ (.aside rfl rfl))
  · exact .abort ..

theorem State.wheel_abtSeen (s : State) (h handle : Nat) : (s.abtSeen h handle).wheel = (s.abort (s.armOwner h) handle).1.wheel := by
  unfold State.abtSeen
  dsimp only
  refine (State.when_same State.wheel _ _ (by rw [(LogOnly.sherd ..).rest])).trans ?_
  split
  · exact State.when_same State.wheel _ _ rfl
  · rfl

theorem State.vtAbt_eq {s : State} {h : Nat} (handle rd : Nat) (hc : s.armCluster h = none) : s.vtAbt h handle rd =
    ((s.abtSeen h handle).setX h rd (stReg h (s.abort (s.armOwner h) handle).2)).retire h := by
  unfold State.vtAbt
  simp only [hc, Option.isSome_none, Bool.and_false, Bool.false_eq_true, if_false]
  rfl

theorem vtAbt_answers {s : State} {h : Hart} {rd : RegIdx} {handle : BitVec 32} (r : s.Ready h.val) (hx : s.xezCheck h.val = none)
    (hc : s.armCluster h.val = none) : Completes (.vtAbt h handle rd) s fun t =>
      (rd.val ≠ 0 → t.xreg h.val rd.val = stReg h.val (s.abort (s.armOwner h.val) handle.toNat).2 % 2 ^ hartXlen h.val) ∧
      ((s.went (handle.toNat % 65536)).state = .free → t.wheel = s.wheel) := by
  have hE : Executing h.val [rd.val] s ((s.abtSeen h.val handle.toNat).setX h.val rd.val (stReg h.val (s.abort (s.armOwner h.val) handle.toNat).2)) :=
    (Executing.abtSeen ..).trans (.setX _ _ (List.mem_singleton.mpr rfl))
  refine r.completes (exec_vtAbt ..) ((State.xezDo_permitted hx).trans (State.vtAbt_eq _ _ hc)) (hE.quiet r.toQuiet).retire
    ⟨fun h0 => State.xreg_setX_retire _ _ _ h0, fun hf => ?_⟩
  rw [State.wheel_retire, State.wheel_setX, State.wheel_abtSeen, State.abort_free _ hf]

/-! ### Results beside a timekeeper's pipe (R285), start and stop (R290) -/

section
variable {n : TkCore} {s : State}

theorem exec_tkMultiplyResult (op : MulOp) (rd : RegIdx) (x y : BitVec 32) : exec (.tkMultiplyResult n op rd x y) s =
    .next (s.tkResult n.val rd.val (mulVal op x.toNat y.toNat)) := rfl

theorem exec_tkDivideResult (op : DivOp) (rd : RegIdx) (x y : BitVec 32) : exec (.tkDivideResult n op rd x y) s =
    .next (s.tkResult n.val rd.val (divVal op x.toNat y.toNat)) := rfl

theorem exec_tkRunStop (a : Agent) : exec (.tkRunStop a n) s = .next (s.regAccess a true (TKC_CTL n.val) 4 (fun t => t.tkRun n.val false)) := rfl

theorem exec_tkRunStart (a : Agent) : exec (.tkRunStart a n) s = .next (s.regAccess a true (TKC_CTL n.val) 4 (fun t => t.tkRun n.val true)) := rfl

/-- A result reaches its register while its core and block run, and nothing else. -/
theorem State.tkResult_arrives (hr : (s.hart (8 + n.val)).running = true) (hb : s.runs TKD (4 + n.val) = true) {rd : Nat} (h0 : rd ≠ 0) (v : Nat) :
    (s.tkResult n.val rd v).xreg (8 + n.val) rd = v % 2 ^ 32 ∧
      (∀ r, r ≠ rd → (s.tkResult n.val rd v).xreg (8 + n.val) r = s.xreg (8 + n.val) r) ∧ (s.tkResult n.val rd v).mem = s.mem := by
  have hlen : hartXlen (8 + n.val) = 32 := if_neg (by omega)
  have hf : s.tkResult n.val rd v = s.setX (8 + n.val) rd v := by
    unfold State.tkResult
    rw [hr, hb, if_pos (by rfl)]
  rw [hf]
  refine ⟨?_, fun r hne => State.xreg_setX_ne _ _ _ hne, State.mem_setX ..⟩
  rw [State.xreg_setX, if_neg h0, hlen]

theorem tkRun_commands {a : Agent} (hr : s.Reached a true (TKC_CTL n.val) 4) :
    (s.on (TKC_CTL_RUN n.val) = true → Completes (.tkRunStop a n) s (fun t => t = (s.tkStop n.val).ended a) ∧
      Completes (.tkRunStart a n) s fun t => t = s.ended a) ∧
    (s.on (TKC_CTL_RUN n.val) = false → Completes (.tkRunStop a n) s (fun t => t = s.ended a) ∧ Completes (.tkRunStart a n) s fun t =>
      t = ((s.put (TKC_CTL_RUN n.val) 1).tkStart n.val (s.get (TKC_RESETPC_OFFSET n.val))).ended a) := by
  have hstop := (exec_tkRunStop a).trans (congrArg Host.Outcome.next (State.regAccess_reached (fun t => t.tkRun n.val false) hr))
  have hstart := (exec_tkRunStart a).trans (congrArg Host.Outcome.next (State.regAccess_reached (fun t => t.tkRun n.val true) hr))
  refine ⟨fun ho => ⟨.of hstop ?_, .of hstart ?_⟩, fun ho => ⟨.of hstop ?_, .of hstart ?_⟩⟩ <;> rw [State.tkRun, ho] <;> rfl

end

/-- The rows of the divider's table for a divisor of 0 (R283). -/
theorem divVal_zero (x : Nat) : divVal .divu x 0 = 0xFFFFFFFF ∧ divVal .remu x 0 = x := ⟨rfl, rfl⟩

/-- Settles O32: each instruction asks for its permission, does its part under way (`Executing`) and retires, or traps. -/
theorem xeztimeInstructionsComplete : Obligations.XeztimeInstructionsComplete := by
  refine ⟨fun h s rd va data handle r => ⟨fun hx => ?_, fun c hc i hi => ?_, fun hx hc => vtAbt_answers r hx hc, ?_⟩,
    fun h s target hw hr q => ⟨vtWtEnd_retires hw hr q, vtWtEnd_waits hw⟩, fun n rd x y s hr hb h0 => ⟨fun op => ?_, fun op => ?_⟩,
    fun a n s hr => tkRun_commands hr⟩
  · refine ⟨vtRd_reads r hx, vtWt_reached r hx, vtWt_waits r hx, fun h8 => ?_, fun h8 ha => ?_, fun ha => ?_, fun ha => ?_,
      fun pa b ht hc => ⟨fun h8 ha hg => ?_, fun ha hg => ?_⟩⟩
    · exact (r.completes_exception (exec_vtSta ..) ((State.xezDo_permitted hx).trans (State.vtSta_rv32 h8))).imp fun _ ht => ht.1
    · exact (r.completes_exception (exec_vtSta ..) ((State.xezDo_permitted hx).trans (State.vtSta_misaligned (.inl h8) ha))).imp fun _ ht => ht.1
    · exact (r.completes_exception (exec_vtStaW ..) ((State.xezDo_permitted hx).trans (State.vtSta_misaligned (.inr (by decide)) ha))).imp
        fun _ ht => ht.1
    · exact (r.completes_exception (exec_vtEv ..) ((State.xezDo_permitted hx).trans (State.vtEv_misaligned ha))).imp fun _ ht => ht.1
    · exact r.completes_arm (exec_vtSta ..) ((State.xezDo_permitted hx).trans (State.vtSta_arms (.inl h8) ha ht)) hc hg
    · exact r.completes_arm (exec_vtStaW ..) ((State.xezDo_permitted hx).trans (State.vtSta_arms (.inr (by decide)) ha ht)) hc hg
  · obtain ⟨f, hf⟩ := xezInstructions_ask h rd va data handle s i hi
    exact r.completes_xezRefused hf hc
  · intro pa hx h8 hs hb ha ht hl hp hq d q h3 h7 hg
    have hc : s.armCluster h.val = none := if_neg (by simp [Nat.not_lt.mpr h8])
    have hf : s.xezDo h.val (fun t => t.vtEv h.val (va.toNat % 2 ^ hartXlen h.val) rd.val) =
        s.armInstr h.val rd.val (s.descReq h.val (s.bytesAt pa 32)) := by
      rw [State.xezDo_permitted hx, State.vtEv_ownLocal h8 hs hb ha ht hl hp hq, State.armDesc_plain hc h3 h7]
    exact r.completes_arm (exec_vtEv ..) hf rfl hg
  · exact .of (exec_tkMultiplyResult ..) (State.tkResult_arrives hr hb h0 _)
  · obtain ⟨hv, hrest⟩ := State.tkResult_arrives hr hb h0 (divVal op x.toNat y.toNat)
    refine .of (exec_tkDivideResult ..) ⟨hv, ?_, ?_, hrest⟩
    · rintro rfl rfl
      exact hv
    · rintro rfl rfl
      exact hv.trans (Nat.mod_eq_of_lt x.isLt)

end Sys2Proof.Machine
end

section
/-! The registers of the wheel: the request and the end of a calibration, the quotas of slices and the inspection of an entry (R117, R135, R154). -/

namespace Sys2Proof.Machine

open Sys2Proof

/-! ### Calibration (R135) -/

theorem twhCalbusy_fits : TWH_CTL_CALBUSY.fits := by simp [Fld.fits, TWH_CTL_CALBUSY]

theorem twhLead_fits (k : Nat) : (TWH_LEAD_NS k).fits ∧ (TWH_LEAD_MEAS k).fits := by simp [Fld.fits, TWH_LEAD_NS, TWH_LEAD_MEAS]

theorem twhLead_apart (k : Nat) : (TWH_LEAD_NS k).apart (TWH_LEAD_MEAS k) := by simp [Fld.apart, TWH_LEAD_NS, TWH_LEAD_MEAS]

theorem exec_wheelCalibrate (a : Agent) (s : State) : exec (.wheelCalibrate a) s =
    .next (s.regAccess a true TWH_CTL 4 (fun t => t.put TWH_CTL_CALBUSY 1)) := rfl

theorem wheelCalibrate_busy {a : Agent} {s : State} (hr : s.Reached a true TWH_CTL 4) :
    Completes (.wheelCalibrate a) s fun t => t.on TWH_CTL_CALBUSY = true ∧ t.wheel = s.wheel := by
  refine .of (exec_wheelCalibrate a s) ?_
  rw [State.regAccess_reached _ hr, State.on_ended _ _ (by decide)]
  exact ⟨State.on_put_one _ twhCalbusy_fits rfl, State.wheel_ended ..⟩

/-- The lead time of class `k` as a calibration leaves it: measured while the class is present, else the default. -/
def State.leadSet (s : State) (medians : List Nat) (k : Nat) : State :=
  (s.put (TWH_LEAD_NS k) (if s.classPresent k then Nat.min (medians.getD k (leadDefault k)) 65535 else leadDefault k)).put (TWH_LEAD_MEAS k)
    (b2n (s.classPresent k))

theorem State.calibrated_eq (s : State) (medians : List Nat) : s.calibrated medians = s.each (List.range 15) fun k t => t.leadSet medians k := rfl

/-- What decides which classes are present: the state of the domains, the ways of the SLC, the cascade and PCIe; no lead time. -/
theorem State.classPresent_leadSet (s : State) (medians : List Nat) {k : Nat} (hk : k < 15) (j : Nat) :
    (s.leadSet medians k).classPresent j = s.classPresent j := by
  have hrd : ∀ a, a = SLC_WAYMAP ∨ a = CSC_STATUS → (s.leadSet medians k).rd a = s.rd a := fun a ha => by
    have hne : a ≠ TWH_LEAD k := by
      rcases ha with rfl | rfl <;> simp only [SLC_WAYMAP, CSC_STATUS, TWH_LEAD] <;> omega
    exact (State.rd_put_ne _ _ hne).trans (State.rd_put_ne _ _ hne)
  have hway : ∀ w, (s.leadSet medians k).scratchWay w = s.scratchWay w := fun w => by
    unfold State.scratchWay
    rw [hrd _ (.inl rfl)]
  have hcsc : ∀ f : Fld, f.reg = CSC_STATUS → (s.leadSet medians k).get f = s.get f := fun f hf => by
    rw [State.get, hrd _ (.inr hf), State.get]
  have hopen : ∀ d, (s.leadSet medians k).fenceOpen d = s.fenceOpen d := fun _ => rfl
  have hlink : (s.leadSet medians k).pcieLink = s.pcieLink := rfl
  unfold State.classPresent
  simp only [hway, hopen, hlink, hcsc _ (show CSC_STATUS_MYID.reg = CSC_STATUS from rfl),
    hcsc _ (show CSC_STATUS_PRESENT.reg = CSC_STATUS from rfl)]

theorem leadDefault_lt (k : Nat) : leadDefault k < 65536 := by
  unfold leadDefault
  split_ifs <;> decide

section
variable (s : State) (medians : List Nat) {k : Nat}

theorem State.leadSet_fields : (s.leadSet medians k).on (TWH_LEAD_MEAS k) = s.classPresent k ∧ (s.leadSet medians k).get (TWH_LEAD_NS k) =
    if s.classPresent k then Nat.min (medians.getD k (leadDefault k)) 65535 else leadDefault k := by
  obtain ⟨hns, hmeas⟩ := twhLead_fits k
  refine ⟨State.on_put_b2n _ _ hmeas rfl, ?_⟩
  rw [State.leadSet, State.get_put_apart _ _ hmeas (twhLead_apart k)]
  refine State.get_put_small _ hns (show _ < 65536 from ?_)
  split
  · exact Nat.lt_succ_of_le (Nat.min_le_right _ _)
  · exact leadDefault_lt k

/-- Of the classes, each sets its own fields. -/
theorem State.calibrated_fields (hk : k < 15) : (s.calibrated medians).on (TWH_LEAD_MEAS k) = s.classPresent k ∧
    (s.calibrated medians).get (TWH_LEAD_NS k) =
      if s.classPresent k then Nat.min (medians.getD k (leadDefault k)) 65535 else leadDefault k := by
  have hother : ∀ j ∈ List.range 15, j ≠ k → ∀ t : State, (t.leadSet medians j).classPresent k = t.classPresent k ∧
      ((t.leadSet medians j).on (TWH_LEAD_MEAS k), (t.leadSet medians j).get (TWH_LEAD_NS k)) = (t.on (TWH_LEAD_MEAS k), t.get (TWH_LEAD_NS k)) := by
    intro j hj hne t
    have hreg : TWH_LEAD k ≠ TWH_LEAD j := by simp only [TWH_LEAD]; omega
    have hget : ∀ f : Fld, f.reg = TWH_LEAD k → (t.leadSet medians j).get f = t.get f := fun f hf =>
      (State.get_put_ne _ _ (hf ▸ hreg)).trans (State.get_put_ne _ _ (hf ▸ hreg))
    refine ⟨State.classPresent_leadSet t medians (List.mem_range.mp hj) k, ?_⟩
    rw [State.on, hget _ rfl, hget _ rfl, State.on]
  have hall := State.each_once (fun t => t.classPresent k) (fun t => (t.on (TWH_LEAD_MEAS k), t.get (TWH_LEAD_NS k)))
    (v := (s.classPresent k, if s.classPresent k then Nat.min (medians.getD k (leadDefault k)) 65535 else leadDefault k))
    (f := fun j t => t.leadSet medians j) s (List.nodup_range) (List.mem_range.mpr hk)
    (fun t ht => Prod.ext ((t.leadSet_fields medians).1.trans ht) ((t.leadSet_fields medians).2.trans (by rw [ht]))) hother
  exact Prod.mk.inj hall

theorem State.wheel_leadSet (k : Nat) : (s.leadSet medians k).wheel = s.wheel := (State.wheel_put ..).trans (State.wheel_put ..)

theorem State.wheel_calibrated : (s.calibrated medians).wheel = s.wheel := by
  rw [State.calibrated_eq]
  exact State.each_same State.wheel _ (fun j _ t => t.wheel_leadSet medians j) s

end

theorem exec_calibrationDone {medians : List Nat} {s : State} (hb : s.on TWH_CTL_CALBUSY = true) :
    exec (.calibrationDone medians) s =
    .next ((s.calibrated medians).put TWH_CTL_CALBUSY 0) := congrArg Host.Outcome.next (if_pos hb)

theorem calibrationDone_sets {medians : List Nat} {s : State} (hb : s.on TWH_CTL_CALBUSY = true) :
    Completes (.calibrationDone medians) s fun t =>
    t.on TWH_CTL_CALBUSY = false ∧ t.wheel = s.wheel ∧ ∀ k < 15,
      (s.classPresent k = true → t.on (TWH_LEAD_MEAS k) = true ∧ ∀ m, medians[k]? = some m → m < 65536 → t.get (TWH_LEAD_NS k) = m) ∧
      (s.classPresent k = false → t.on (TWH_LEAD_MEAS k) = false ∧ t.get (TWH_LEAD_NS k) = leadDefault k) := by
  refine .of (exec_calibrationDone hb) ⟨State.on_put_zero _ twhCalbusy_fits rfl, (State.wheel_put ..).trans (s.wheel_calibrated medians), fun k hk => ?_⟩
  have hreg : TWH_LEAD k ≠ TWH_CTL := by simp only [TWH_LEAD, TWH_CTL]; omega
  obtain ⟨hmeas, hns⟩ := s.calibrated_fields medians hk
  rw [State.on_put_ne (f := TWH_CTL_CALBUSY) (g := TWH_LEAD_MEAS k) _ _ hreg,
    State.get_put_ne (f := TWH_CTL_CALBUSY) (g := TWH_LEAD_NS k) _ _ hreg, hmeas, hns]
  refine ⟨fun hp => ⟨hp, fun m hm hlt => ?_⟩, fun hp => ⟨hp, by rw [hp, if_neg Bool.false_ne_true]⟩⟩
  rw [hp, if_pos rfl, List.getD_eq_getElem?_getD, hm]
  exact Nat.min_eq_left (Nat.le_of_lt_succ hlt)

/-! ### The quotas of slices (R117) -/

theorem exec_wheelQuotaWrite (a : Agent) (n : Slice) (quota : Nat) (s : State) : exec (.wheelQuotaWrite a n quota) s =
    .next (s.regAccess a true (TWH_S_QUOTA n.val) 4 (fun t => t.quotaWrite n.val quota)) := rfl

theorem wheelQuota_largest {a : Agent} {n : Slice} {quota : Nat} {s : State} (hr : s.Reached a true (TWH_S_QUOTA n.val) 4) (hq : quota < 2 ^ 17) :
    let room := s.partSize s.sliceOwner - s.quotasBut n.val
    Completes (.wheelQuotaWrite a n quota) s fun t =>
      (quota ≤ room → t.get (TWH_S_QUOTA_QUOTA n.val) = quota) ∧ (room < quota → t.get (TWH_S_QUOTA_QUOTA n.val) = room) ∧
      ∀ m < 64, m ≠ n.val → t.get (TWH_S_QUOTA_QUOTA m) = s.get (TWH_S_QUOTA_QUOTA m) := by
  intro room
  have hdap : ∀ m < 64, TWH_S_QUOTA m ≠ DAP_STATUS := fun m hm => by simp only [TWH_S_QUOTA, DAP_STATUS]; omega
  have hput : s.quotaWrite n.val quota = s.put (TWH_S_QUOTA_QUOTA n.val) (Nat.min quota room) := by
    rw [State.quotaWrite, Nat.mod_eq_of_lt hq]
  have hn : ((s.quotaWrite n.val quota).ended a).get (TWH_S_QUOTA_QUOTA n.val) = Nat.min quota room := by
    rw [State.get_ended _ _ (hdap n.val n.isLt), hput]
    exact State.get_put_small _ (by simp [Fld.fits, TWH_S_QUOTA_QUOTA]) (lt_of_le_of_lt (Nat.min_le_left _ _) hq)
  refine .of (exec_wheelQuotaWrite a n quota s) ?_
  rw [State.regAccess_reached _ hr, hn]
  refine ⟨fun hle => Nat.min_eq_left hle, fun hlt => Nat.min_eq_right (Nat.le_of_lt hlt), fun m hm hne => ?_⟩
  have hreg : TWH_S_QUOTA m ≠ TWH_S_QUOTA n.val := by simp only [TWH_S_QUOTA]; omega
  rw [State.get_ended _ _ (hdap m hm), hput]
  exact State.get_put_ne _ _ hreg

/-! ### The inspection of an entry (R154) -/

theorem exec_twhInspRead (a : Agent) (s : State) : exec (.twhInspRead a .full) s = .next (s.readCmd a (TWH_INSP 0) .full State.inspRead) := rfl

theorem State.inspRead_snapshot (s : State) : (s.inspRead.1).wheel = { s.wheel with insp := wEntryNat (s.went (s.get TWH_INSP_IDX_INDEX)) } ∧
    (s.inspRead.1).time = s.time := by
  rw [State.inspRead]
  generalize wEntryNat _ = v
  exact ⟨rfl, rfl⟩

theorem twhInspRead_takes {a : Agent} {s : State} (hr : s.Reached a false (TWH_INSP 0) 8) (hd : s.debugRead a = false) :
    Completes (.twhInspRead a .full) s fun t =>
      t.wheel = { s.wheel with insp := wEntryNat (s.went (s.get TWH_INSP_IDX_INDEX)) } ∧ t.time = s.time := by
  refine .of (exec_twhInspRead a s) ?_
  rw [State.readCmd_reached (reg := TWH_INSP 0) (half := .full) _ hr, hd, if_neg Bool.false_ne_true,
    State.readEffect, State.wheel_ended, State.time_ended]
  exact s.inspRead_snapshot

/-- Settles O18: the fields of each class stand in a register of their own, and no lead time decides which classes are present
(`State.calibrated_fields`). -/
theorem wheelRegistersComplete : Obligations.WheelRegistersComplete :=
  ⟨fun _ _ hr => wheelCalibrate_busy hr, fun _ _ hb => calibrationDone_sets hb, fun _ _ _ _ hr hq => wheelQuota_largest hr hq,
    fun _ _ hr hd => twhInspRead_takes hr hd⟩

end Sys2Proof.Machine
end

section
/-! What interrupts, counters, traps and the wheel leave of capture slices: their state, and the registers of slices, rings, mailboxes and
doorbell pages (R204 to R206, R297, R314 to R316, R506, R507). -/

namespace Sys2Proof.Machine

open Sys2Proof

/-- The registers of the capture engine, the stream table, the slices and their rings (R192 to R194, R212), counters and their overflow aside. -/
def bindingReg (k : Nat) : Prop := 0x46000000 ≤ k ∧ k < 0x4602F000 ∧ k % 0x80 ≠ 0x60

/-- Those, and the mailboxes and doorbell pages (R213, R214). -/
def sliceReg (k : Nat) : Prop := bindingReg k ∨ (0x46030000 ≤ k ∧ k < 0x47000000) ∨ 0x100000000000 ≤ k

theorem bindingReg.slice {k : Nat} (h : bindingReg k) : sliceReg k := .inl h

/-- From `s` to `t` no slice changed its state, and no register of `K` its value. -/
structure SliceKept (K : Nat → Prop) (s t : State) : Prop where
  slices : t.slices = s.slices
  reg : ∀ k, K k → t.rd k = s.rd k

section
variable {K : Nat → Prop} {s t u : State}

theorem SliceKept.refl (K : Nat → Prop) (s : State) : SliceKept K s s := ⟨rfl, fun _ _ => rfl⟩

theorem SliceKept.trans (h : SliceKept K s t) (g : SliceKept K t u) : SliceKept K s u :=
  ⟨g.slices.trans h.slices, fun k hk => (g.reg k hk).trans (h.reg k hk)⟩

theorem SliceKept.binding (h : SliceKept sliceReg s t) : SliceKept bindingReg s t := ⟨h.slices, fun k hk => h.reg k hk.slice⟩

theorem SliceKept.wr (s : State) {a : Nat} (v : Nat) (ha : ¬ K a) : SliceKept K s (s.wr a v) :=
  ⟨rfl, fun _ hk => State.rd_wr_ne s v fun e => ha (e ▸ hk)⟩

theorem SliceKept.put (s : State) {f : Fld} (v : Nat) (hf : ¬ K f.reg) : SliceKept K s (s.put f v) := .wr s _ hf

theorem SliceKept.when (s : State) (c : Bool) {f : State → State} (hf : SliceKept K s (f s)) : SliceKept K s (s.when c f) := by
  cases c
  · exact .refl K s
  · exact hf

theorem SliceKept.each {α : Type} (l : List α) {f : α → State → State} (h : ∀ a ∈ l, ∀ t, SliceKept K t (f a t)) (s : State) :
    SliceKept K s (s.each l f) := State.each_keeps (P := SliceKept K s) l (.refl K s) fun a ha t ht => ht.trans (h a ha t)

theorem SliceKept.get (h : SliceKept K s t) {f : Fld} (hf : K f.reg) : t.get f = s.get f := by
  rw [State.get, h.reg _ hf, State.get]

theorem SliceKept.on (h : SliceKept K s t) {f : Fld} (hf : K f.reg) : t.on f = s.on f := by
  rw [State.on, h.get hf, State.on]

theorem SliceKept.slice (h : SliceKept K s t) (n : Nat) : t.slice n = s.slice n := by
  rw [State.slice, h.slices, State.slice]

/-- An event is counted in the counters of its place and their overflow bits. -/
theorem SliceKept.pmuCarry {p : PmuPlace} (hp : ∀ j < pmuN p, ¬ K (pmuCnt p j).reg ∧ ¬ K (pmuOvf p j).reg) (fuel : Nat) :
    ∀ (s : State) (i k : Nat), i < pmuN p → SliceKept K s (s.pmuCarry p fuel i k) := by
  induction fuel with
  | zero => exact fun s _ _ _ => .refl K s
  | succ fuel ih =>
    intro s i k hi
    obtain ⟨hc, ho⟩ := hp i hi
    unfold State.pmuCarry
    dsimp only
    split
    · exact .put _ _ hc
    split
    case isTrue h =>
      have hnext : i + 1 < pmuN p := of_decide_eq_true (Bool.and_eq_true_iff.mp h).1
      exact ((SliceKept.put _ _ hc).trans (.put _ _ ho)).trans (ih _ _ _ hnext)
    case isFalse => exact (SliceKept.put _ _ hc).trans (.put _ _ ho)

theorem SliceKept.pmuCount {p : PmuPlace} (hp : ∀ j < pmuN p, ¬ K (pmuCnt p j).reg ∧ ¬ K (pmuOvf p j).reg) (s : State) {i : Nat} (k : Nat)
    (hi : i < pmuN p) : SliceKept K s (s.pmuCount p i k) := by
  unfold State.pmuCount
  split
  · exact .refl K s
  · exact .pmuCarry hp _ _ _ _ hi

end

/-! ### Counters -/

theorem SliceKept.sliceCount (s : State) {n i : Nat} (k : Nat) (hn : n < 64) (hi : i < 16) : SliceKept sliceReg s (s.sliceCount n i k) := by
  refine .pmuCount (p := .slice n) (fun j hj => ?_) s k hi
  have hj : j < 16 := hj
  simp only [sliceReg, bindingReg, pmuCnt, pmuOvf, CSL_CNT_COUNT, CSL_CNT, CSL_PMU_OVF]
  omega

/-- The counters of a core stand on its own page. -/
theorem SliceKept.coreCount (s : State) (h : Nat) {i : Nat} (hi : i < 96) : SliceKept sliceReg s (s.coreCount h i) := by
  unfold State.coreCount
  split
  case isTrue => exact .refl _ s
  case isFalse hc =>
    have h8 : h < 8 := by
      simp only [Bool.or_eq_true, decide_eq_true_eq, not_or] at hc
      omega
    have hN : pmuN (.page (pmuCoreBase h)) = 96 := by
      have hne : (pmuCoreBase h == pmuMemBase) = false := beq_eq_false_iff_ne.mpr (by simp only [pmuCoreBase, pmuMemBase]; omega)
      have hlt : pmuCoreBase h < pmuMemBase := by simp only [pmuCoreBase, pmuMemBase]; omega
      rw [pmuN, hne, if_neg Bool.false_ne_true, if_pos hlt]
    refine SliceKept.trans (.pmuCount (fun j hj => ?_) s 1 (hN ▸ hi)) ⟨rfl, fun _ _ => rfl⟩
    rw [hN] at hj
    simp only [sliceReg, bindingReg, pmuCnt, pmuOvf, PMU_CNT_COUNT, PMU_CNT, PMU_OVF, pmuCoreBase]
    omega

/-! ### Records and interrupts (R204, R205, R314 to R316) -/

theorem alertRegs_outside {k : Nat} (hk : k ∈ alertRegs) : ¬ sliceReg k := by
  have hplace : ∀ k ∈ alertRegs, k < 0x46000000 ∨ (0x47000000 ≤ k ∧ k < 0x100000000000) := by decide
  have := hplace k hk
  simp only [sliceReg, bindingReg]
  omega

theorem Alerted.sliceKept {s t : State} (h : Alerted s t) (hs : t.slices = s.slices) : SliceKept sliceReg s t :=
  ⟨hs, fun _ hk => h.reg _ fun ha => alertRegs_outside ha hk⟩

theorem LogOnly.sliceKept {s t : State} (h : LogOnly s t) : SliceKept sliceReg s t := h.alerted.sliceKept (by rw [h.rest])

theorem State.slices_irqWake (s : State) (h : Nat) : (s.irqWake h).slices = s.slices := by rw [(s.irqWake_woken h).rest]

theorem State.slices_noteArrival (s : State) (h f e : Nat) : (s.noteArrival h f e).slices = s.slices := by
  unfold State.noteArrival
  dsimp only
  split <;> rfl

theorem State.slices_msiTo (s : State) (w : World) (src h f e : Nat) : (s.msiTo w src h f e).1.slices = s.slices := by
  rcases s.msiTo_cases w src h f e with hlog | hfile | ⟨n, -, hline⟩
  · exact hlog.sliceKept.slices
  · rw [hfile, State.fileArrive, State.slices_irqWake, State.slices_noteArrival]
    rfl
  · rw [hline, State.lineArrive, State.slices_irqWake, State.slices_raise]

theorem SliceKept.vecSend (s : State) (w : World) (src vec : Nat) : SliceKept sliceReg s (s.vecSend w src vec).1 := by
  refine (Alerted.vecSend s w src vec).sliceKept ?_
  unfold State.vecSend
  dsimp only
  split
  · rfl
  split
  · exact (LogOnly.sherd ..).sliceKept.slices
  · exact State.slices_msiTo ..

section
variable (s : State) {n : Nat} (f : State → State)

theorem SliceKept.sliceVec (hn : n < 64) (summary : State → Bool) (vec : Nat) : SliceKept sliceReg (f s) (s.sliceVec n summary vec f) := by
  unfold State.sliceVec
  dsimp only
  split
  · exact (SliceKept.vecSend ..).trans (.when _ _ (.sliceCount _ _ hn (by decide)))
  · exact .refl ..

/-- After a change of a slice's interrupt state its vectors follow, which leave it. -/
theorem SliceKept.sliceIrq (hn : n < 64) : SliceKept sliceReg (f s) (s.sliceIrq n f) :=
  (SliceKept.sliceVec s f hn (mbxSummary n) (CSL_VEC_MBX n)).trans
    (.sliceVec s (fun t => t.sliceVec n (mbxSummary n) (CSL_VEC_MBX n) f) hn (complSummary n) (CSL_VEC_COMPL n))

theorem SliceKept.managerIrq : SliceKept sliceReg (f s) (s.managerIrq n f) := by
  unfold State.managerIrq State.withVec
  dsimp only
  split
  · exact .vecSend ..
  · exact .refl ..

theorem SliceKept.managerIrq_binding (hf : SliceKept bindingReg s (f s)) : SliceKept bindingReg s (s.managerIrq n f) :=
  hf.trans (SliceKept.managerIrq s f).binding

theorem SliceKept.sliceIrq_binding (hn : n < 64) (hf : SliceKept bindingReg s (f s)) : SliceKept bindingReg s (s.sliceIrq n f) :=
  hf.trans (SliceKept.sliceIrq s f hn).binding

end

theorem SliceKept.ended (s : State) (a : Agent) : SliceKept sliceReg s (s.ended a) :=
  ⟨State.slices_ended .., fun _ hk => State.rd_ended _ _ (by rintro rfl; revert hk; simp only [sliceReg, bindingReg, DAP_STATUS]; omega)⟩

/-! ### Traps and refusals (R42, R297) -/

section
variable {K : Nat → Prop} (s : State) (h : Nat)

theorem SliceKept.updHart (f : HartSt → HartSt) : SliceKept K s (s.updHart h f) := ⟨rfl, fun _ _ => rfl⟩

theorem SliceKept.setCsr (a v : Nat) : SliceKept K s (s.setCsr h a v) := .updHart ..

theorem SliceKept.trapWrites (epc st pc cause tval m : Nat) : SliceKept K s (s.trapWrites h epc st pc cause tval m) :=
  (((SliceKept.setCsr ..).trans (.setCsr ..)).trans (.setCsr ..)).trans (.setCsr ..)

theorem SliceKept.saggarLeave : SliceKept K s (s.saggarLeave h) := by
  unfold State.saggarLeave State.saggarClear
  dsimp only
  refine ((SliceKept.setCsr ..).trans (.when _ _ (.updHart ..))).trans (.when _ _ ?_)
  exact (SliceKept.updHart ..).trans (.each _ (fun a _ t => .setCsr t h a 0) _)

theorem SliceKept.trapEntered (irq : Bool) (tgt : Priv) : SliceKept sliceReg s (s.trapEntered h irq tgt) := by
  have hleave : SliceKept sliceReg s (if s.inSaggar h then (s.saggarLeave h).coreCount h 59 else s) := by
    split
    · exact (SliceKept.saggarLeave s h).trans (.coreCount _ h (by decide))
    · exact .refl _ s
  have hcause : (if irq then 11 else 10) < 96 := by cases irq <;> decide
  have hmode (u : State) : SliceKept sliceReg u (u.when (tgt == .m) fun v => v.coreCount h 63) := .when _ _ (.coreCount _ h (by decide))
  unfold State.trapEntered
  dsimp only
  exact (((hleave.trans (.updHart ..)).trans (.coreCount _ h hcause)).trans (hmode _)).trans (.updHart ..)

theorem SliceKept.trap (irq : Bool) (code tval : Nat) : SliceKept sliceReg s (s.trap h irq code tval) := by
  rcases s.trapTarget_cases h irq code with ht | ht | ht
  · rw [State.trap_m _ _ _ _ _ ht]
    exact ((SliceKept.trapEntered ..).trans (.trapWrites ..)).trans (.updHart ..)
  · rw [State.trap_s _ _ _ _ _ ht]
    exact (((SliceKept.trapEntered ..).trans (.trapWrites ..)).trans (.setCsr ..)).trans (.updHart ..)
  · rw [State.trap_vs _ _ _ _ _ ht]
    exact ((SliceKept.trapEntered ..).trans (.trapWrites ..)).trans (.updHart ..)

end

/-- A register access of a hart that is refused leaves its record and its trap. -/
theorem SliceKept.regRefused (s : State) (h : Hart) (w : Bool) (addr : Nat) (st : Status) :
    SliceKept sliceReg s (s.regRefused (.hart h) w addr st) :=
  (LogOnly.refused s (.hart h) st (s.region addr) addr).sliceKept.trans (.trap ..)

/-! ### The wheel and the mailboxes at a slice's reset (R206, R211) -/

/-- An entry that a slice is charged for returns to its quota. -/
theorem SliceKept.wheelFree {s : State} {n i : Nat} (hn : n < 64) (he : (s.went i).slice = some n) : SliceKept sliceReg s (s.wheelFree i) := by
  have hused : ¬ sliceReg (wUsed (wOwner (s.went i))).reg := by
    rw [wOwner, he]
    simp only [wUsed, sliceReg, bindingReg, TWH_S_USED_USED, TWH_S_USED]
    omega
  unfold State.wheelFree
  dsimp only
  split
  · exact .refl _ s
  · exact (SliceKept.put s _ hused).trans ⟨rfl, fun _ _ => rfl⟩

theorem SliceKept.wheelSliceReset (s : State) {n : Nat} (hn : n < 64) : SliceKept sliceReg s (s.wheelSliceReset n) := by
  have hring : ¬ sliceReg (TWH_S_RING_CFG_EN n).reg := by
    simp only [sliceReg, bindingReg, TWH_S_RING_CFG_EN, TWH_S_RING_CFG]
    omega
  have hhorizon : ¬ sliceReg TWH_HORIZON_USED.reg := by
    simp only [sliceReg, bindingReg, TWH_HORIZON_USED, TWH_HORIZON]
    omega
  unfold State.wheelSliceReset
  refine ((SliceKept.put s _ hring).trans (.each _ (fun i _ t => ?_) _)).trans (.put _ _ hhorizon)
  dsimp only
  split
  case isTrue h => exact .wheelFree hn (beq_iff_eq.mp (Bool.and_eq_true_iff.mp h).1)
  case isFalse => exact .refl _ t

theorem mbxDir_beside (n : Nat) (m2t : Bool) : let d := if m2t then mbxM2T n else mbxT2M n
    ¬ bindingReg d.valid.reg ∧ ¬ bindingReg d.pend.reg ∧ ∀ i, ¬ bindingReg (d.stage i).reg := by
  cases m2t
  · simp only [mbxT2M, bindingReg, MBX_MRXSEQ_VALID, MBX_MRXSEQ, DB_TX_STAT_PEND, DB_TX_STAT, DB_TX_WORD, DB_TX, Bool.false_eq_true, if_false]
    exact ⟨by omega, by omega, fun i => by omega⟩
  · simp only [mbxM2T, bindingReg, DB_RX_SEQ_VALID, DB_RX_SEQ, MBX_MSTAT_PEND, MBX_MSTAT, MBX_MTX_WORD, MBX_MTX, if_true]
    exact ⟨by omega, by omega, fun i => by omega⟩

/-- The mailboxes of a slice are emptied beside the slices and rings. -/
theorem SliceKept.mbxEmpty (s : State) (n : Nat) (m2t : Bool) : SliceKept bindingReg s (s.mbxEmpty n m2t) := by
  obtain ⟨hvalid, hpend, hstage⟩ := mbxDir_beside n m2t
  have hdisc (u : State) (v : Nat) : SliceKept bindingReg u (u.put (MBX_DISC_DROPPED n) v) := .put _ _ (by
    simp only [bindingReg, MBX_DISC_DROPPED, MBX_DISC]
    omega)
  have hevent (u : State) : SliceKept bindingReg u (u.managerIrq n fun v => v.raise (MBX_MEVT_DISCARD n) 1) := by
    refine .managerIrq_binding u _ (.put _ _ ?_)
    simp only [bindingReg, MBX_MEVT_DISCARD, MBX_MEVT]
    omega
  unfold State.mbxEmpty
  dsimp only
  refine SliceKept.trans (.when _ _ ?_) (.each _ (fun i _ t => .put t _ (hstage i)) _)
  exact (((SliceKept.put s _ hvalid).trans (.put _ _ hpend)).trans (hdisc ..)).trans (hevent _)

end Sys2Proof.Machine
end

section
/-! Capture slices: bindings and resets, submissions and deadline queries at the doorbell page, mailboxes and moderation (R187, R196 to R210). -/

namespace Sys2Proof.Machine

open Sys2Proof

/-! ### Slices -/

@[simp] theorem State.slice_put (s : State) (f : Fld) (v n : Nat) : (s.put f v).slice n = s.slice n := rfl

@[simp] theorem State.slice_res (s : State) (f : Fld) (st : Status) (n : Nat) : (s.res f st).slice n = s.slice n := rfl

@[simp] theorem State.slice_setSlice (s : State) (n : Nat) (v : SliceSt) : (s.setSlice n v).slice n = v := tabGet_tabSet_self ..

theorem cslStat_fits (n : Nat) : (CSL_STAT_STATE n).fits ∧ (CSL_STAT_RESULT n).fits := by
  simp [Fld.fits, CSL_STAT_STATE, CSL_STAT_RESULT]

theorem cslStat_apart (n : Nat) : (CSL_STAT_STATE n).apart (CSL_STAT_RESULT n) := by simp [Fld.apart, CSL_STAT_STATE, CSL_STAT_RESULT]

theorem cslStat_binding {n : Nat} (hn : n < 64) : bindingReg (CSL_STAT n) := by
  simp only [bindingReg, CSL_STAT]
  omega

theorem doorbellReg_slice (n : Nat) : sliceReg (DB_RESULT n) ∧ sliceReg (DB_IRQ_STATUS n) ∧ sliceReg (DB_TX_STAT n) ∧ sliceReg (DB_RX_SEQ n) ∧
    ∀ i, sliceReg (DB_RX n i) := by
  simp only [sliceReg, DB_RESULT, DB_IRQ_STATUS, DB_TX_STAT, DB_RX_SEQ, DB_RX]
  exact ⟨by omega, by omega, by omega, by omega, fun i => by omega⟩

theorem capRingCfg_binding {n r : Nat} (hn : n < 64) (hr : r < 8) : bindingReg (CAP_RING_CFG n r) := by
  simp only [bindingReg, CAP_RING_CFG]
  omega

/-! ### Binding (R196, R197) -/

theorem exec_sliceBind (a : Agent) (n : Slice) (s : State) : exec (.sliceBind a n) s =
    .next (s.regAccess a true (CSL_CMD n.val) 4 (fun t => t.sliceCmd n.val 1)) := rfl

theorem exec_sliceReset (a : Agent) (n : Slice) (s : State) : exec (.sliceReset a n) s =
    .next (s.regAccess a true (CSL_CMD n.val) 4 (fun t => t.sliceCmd n.val 2)) := rfl

theorem exec_sliceUnbind (a : Agent) (n : Slice) (s : State) : exec (.sliceUnbind a n) s =
    .next (s.regAccess a true (CSL_CMD n.val) 4 (fun t => t.sliceCmd n.val 3)) := rfl

section
variable {a : Agent} {n : Slice} {s : State} (hr : s.Reached a true (CSL_CMD n.val) 4)
include hr

theorem sliceBind_binds (h0 : s.get (CSL_STAT_STATE n.val) = 0) (ho : s.keyOverlaps n.val (s.sliceKey n.val) = false) :
    Completes (.sliceBind a n) s fun t =>
      t.get (CSL_STAT_STATE n.val) = 1 ∧ t.get (CSL_STAT_RESULT n.val) = st8 .ok ∧ (t.slice n.val).key = some (s.sliceKey n.val) := by
  obtain ⟨hstate, hresult⟩ := cslStat_fits n.val
  have hplace := (cslStat_binding n.isLt).slice
  have hcmd : s.sliceCmd n.val 1 = ((s.setSlice n.val { s.slice n.val with key := some (s.sliceKey n.val), unbind := false }).put
      (CSL_STAT_STATE n.val) 1).res (CSL_STAT_RESULT n.val) .ok := by
    unfold State.sliceCmd
    simp [h0, ho]
  have hend := SliceKept.ended (s.sliceCmd n.val 1) a
  refine .of (exec_sliceBind a n s) ?_
  rw [State.regAccess_reached _ hr, hend.get (f := CSL_STAT_STATE n.val) hplace, hend.get (f := CSL_STAT_RESULT n.val) hplace,
    hend.slice, hcmd, State.slice_res, State.slice_put, State.slice_setSlice]
  exact ⟨(State.get_put_apart _ _ hresult (cslStat_apart n.val)).trans (State.get_put_self _ _ hstate), State.get_res_self _ _ hresult, rfl⟩

theorem sliceBind_denied (h : s.get (CSL_STAT_STATE n.val) ≠ 0 ∨ s.keyOverlaps n.val (s.sliceKey n.val) = true) :
    Completes (.sliceBind a n) s fun t => t.get (CSL_STAT_RESULT n.val) = st8 .denied ∧ t.slices = s.slices := by
  have hc : (s.get (CSL_STAT_STATE n.val) != 0 || s.keyOverlaps n.val (s.sliceKey n.val)) = true := by
    rw [Bool.or_eq_true, bne_iff_ne]
    exact h
  have hcmd : s.sliceCmd n.val 1 = s.res (CSL_STAT_RESULT n.val) .denied := if_pos hc
  have hend := SliceKept.ended (s.sliceCmd n.val 1) a
  refine .of (exec_sliceBind a n s) ?_
  rw [State.regAccess_reached _ hr, hend.get (f := CSL_STAT_RESULT n.val) (cslStat_binding n.isLt).slice, hend.slices, hcmd]
  exact ⟨State.get_res_self _ _ (cslStat_fits n.val).2, rfl⟩

end

/-! ### Reset and unbinding (R198, R206) -/

/-- The rings of a slice, disabled. -/
def State.ringsOff (s : State) (n : Nat) : State := s.each (List.range 8) fun r t => t.put (CAP_RING_CFG_EN n r) 0

theorem State.on_ringsOff (s : State) (n : Nat) {r : Nat} (hr : r < 8) : (s.ringsOff n).on (CAP_RING_CFG_EN n r) = false := by
  refine State.each_once (fun _ => ()) (fun t => t.on (CAP_RING_CFG_EN n r)) s List.nodup_range (List.mem_range.mpr hr)
    (fun t _ => State.on_put_zero _ (by simp [Fld.fits, CAP_RING_CFG_EN]) rfl) fun q _ hq t => ⟨rfl, State.on_put_ne _ _ ?_⟩
  simp only [CAP_RING_CFG_EN, CAP_RING_CFG]
  omega

theorem State.get_ringsOff (s : State) (n : Nat) {f : Fld} (hf : ∀ r < 8, f.reg ≠ CAP_RING_CFG n r) : (s.ringsOff n).get f = s.get f :=
  State.each_same (State.get · f) _ (fun r hr _ => State.get_put_ne _ _ (hf r (List.mem_range.mp hr))) s

theorem State.slice_ringsOff (s : State) (n m : Nat) : (s.ringsOff n).slice m = s.slice m :=
  State.each_same (State.slice · m) _ (fun r _ t => t.slice_put (CAP_RING_CFG_EN n r) 0 m) s

/-- Of its own registers a slice that starts its reset changes the state and the rings; the rest concerns frames, wheel and mailboxes. -/
theorem SliceKept.sliceStartReset (s : State) {n : Nat} (hn : n < 64) (unbind : Bool) :
    SliceKept bindingReg (((s.setSlice n { s.slice n with unbind := unbind, mod := [] }).put (CSL_STAT_STATE n) 2).ringsOff n)
      (s.sliceStartReset n unbind) := by
  have hstatus : ¬ bindingReg (DB_IRQ_STATUS n) := by
    simp only [bindingReg, DB_IRQ_STATUS]
    omega
  have hframes (t : State) (c : CapSt) : SliceKept bindingReg t { t with cap := c } := ⟨rfl, fun _ _ => rfl⟩
  unfold State.sliceStartReset State.ringsOff
  dsimp only
  exact ((((hframes ..).trans (SliceKept.wheelSliceReset _ hn).binding).trans (.mbxEmpty ..)).trans (.mbxEmpty ..)).trans (.wr _ _ hstatus)

theorem State.sliceStartReset_enters (s : State) {n : Nat} (hn : n < 64) (unbind : Bool) :
    (s.sliceStartReset n unbind).get (CSL_STAT_STATE n) = 2 ∧ ((s.sliceStartReset n unbind).slice n).unbind = unbind ∧
      ∀ r < 8, (s.sliceStartReset n unbind).on (CAP_RING_CFG_EN n r) = false := by
  have hkept := SliceKept.sliceStartReset s hn unbind
  refine ⟨?_, ?_, fun r hr => ?_⟩
  · rw [hkept.get (cslStat_binding hn), State.get_ringsOff, State.get_put_self _ _ (cslStat_fits n).1]
    · rfl
    · intro r hr
      simp only [CSL_STAT_STATE, CSL_STAT, CAP_RING_CFG]
      omega
  · rw [hkept.slice, State.slice_ringsOff, State.slice_put, State.slice_setSlice]
  · rw [hkept.on (capRingCfg_binding hn hr), State.on_ringsOff _ _ hr]

/-- RESET (2) and UNBIND (3) of a bound slice. -/
theorem State.sliceCmd_bound {s : State} {n op : Nat} (h1 : s.get (CSL_STAT_STATE n) = 1) (hop : op = 2 ∨ op = 3) :
    s.sliceCmd n op = (s.res (CSL_STAT_RESULT n) .ok).sliceStartReset n (op == 3) := by
  unfold State.sliceCmd
  rcases hop with rfl | rfl <;> simp [h1]

section
variable {a : Agent} {n : Slice} {s : State} (hr : s.Reached a true (CSL_CMD n.val) 4) (h1 : s.get (CSL_STAT_STATE n.val) = 1)
include hr h1

theorem State.regAccess_resets {op : Nat} (hop : op = 2 ∨ op = 3) {t : State}
    (ht : s.regAccess a true (CSL_CMD n.val) 4 (fun t => t.sliceCmd n.val op) = t) :
    t.get (CSL_STAT_STATE n.val) = 2 ∧ (t.slice n.val).unbind = (op == 3) ∧ ∀ r < 8, t.on (CAP_RING_CFG_EN n.val r) = false := by
  obtain ⟨hstate, hunbind, hrings⟩ := (s.res (CSL_STAT_RESULT n.val) .ok).sliceStartReset_enters n.isLt (op == 3)
  rw [State.regAccess_reached _ hr, State.sliceCmd_bound h1 hop] at ht
  have hend := SliceKept.ended ((s.res (CSL_STAT_RESULT n.val) .ok).sliceStartReset n.val (op == 3)) a
  rw [ht] at hend
  exact ⟨(hend.get (cslStat_binding n.isLt).slice).trans hstate, (congrArg SliceSt.unbind (hend.slice _)).trans hunbind,
    fun r hr => (hend.on (capRingCfg_binding n.isLt hr).slice).trans (hrings r hr)⟩

theorem sliceReset_starts : Completes (.sliceReset a n) s fun t =>
    t.get (CSL_STAT_STATE n.val) = 2 ∧ (t.slice n.val).unbind = false ∧ ∀ r < 8, t.on (CAP_RING_CFG_EN n.val r) = false :=
  .of (exec_sliceReset a n s) (State.regAccess_resets hr h1 (.inl rfl) rfl)

theorem sliceUnbind_starts : Completes (.sliceUnbind a n) s fun t =>
    t.get (CSL_STAT_STATE n.val) = 2 ∧ (t.slice n.val).unbind = true ∧ ∀ r < 8, t.on (CAP_RING_CFG_EN n.val r) = false :=
  .of (exec_sliceUnbind a n s) (State.regAccess_resets hr h1 (.inr rfl) rfl)

end

/-! ### The end of a reset (R198, R206) -/

theorem exec_sliceQuiet (n : Slice) (s : State) : exec (.sliceQuiet n) s = .next (s.sliceQuiet n.val) := rfl

/-- A quiet slice with the state and the key it leaves its reset with. -/
def State.sliceSettled (s : State) (n : Nat) (u : Bool) : State :=
  (s.put (CSL_STAT_STATE n) (if u then 0 else 1)).when u fun t => t.setSlice n { t.slice n with key := none, unbind := false }

/-- What follows are the events of the manager and of the tenant. -/
theorem SliceKept.sliceQuiet {s : State} {n : Nat} (hn : n < 64) (hr : s.sliceResetting n = true) (h0 : s.get (TWH_S_USED_USED n) = 0) :
    SliceKept bindingReg (s.sliceSettled n (s.slice n).unbind) (s.sliceQuiet n) := by
  have hdone : ¬ bindingReg (MBX_MEVT_RESET_DONE n).reg := by
    simp only [bindingReg, MBX_MEVT_RESET_DONE, MBX_MEVT]
    omega
  have htenant : ¬ bindingReg (DB_IRQ_STATUS_TRESET n).reg := by
    simp only [bindingReg, DB_IRQ_STATUS_TRESET, DB_IRQ_STATUS]
    omega
  unfold State.sliceQuiet
  rw [hr, h0, if_pos (by rfl)]
  exact (SliceKept.managerIrq_binding _ _ (.put _ _ hdone)).trans (.when _ _ (.sliceIrq_binding _ _ hn (.put _ _ htenant)))

theorem sliceQuiet_settles {n : Slice} {s : State} (hr : s.sliceResetting n.val = true) (h0 : s.get (TWH_S_USED_USED n.val) = 0) :
    Completes (.sliceQuiet n) s fun t => t.get (CSL_STAT_STATE n.val) = (if (s.slice n.val).unbind then 0 else 1) ∧
      (t.slice n.val).key = (if (s.slice n.val).unbind then none else (s.slice n.val).key) := by
  have hkept := SliceKept.sliceQuiet n.isLt hr h0
  have hstate := fun v => State.get_put_self s v (cslStat_fits n.val).1
  refine .of (exec_sliceQuiet n s) ?_
  rw [hkept.get (cslStat_binding n.isLt), hkept.slice, State.sliceSettled]
  cases (s.slice n.val).unbind
  · exact ⟨hstate 1, rfl⟩
  · exact ⟨hstate 0, congrArg SliceSt.key (State.slice_setSlice ..)⟩

/-! ### The doorbell page (R196, R199) -/

section
variable {s : State} {h : Hart} {w : Bool} {off : Nat} {f : Nat → State → State} (hrun : (s.hart h.val).running = true)
  (hopen : s.fenceOpen SNS = true)
include hrun hopen

/-- An access goes to the slice whose binding matches the hart's key. -/
theorem State.doorbell_routed {n : Nat} (hn : s.hartSlice h.val = some n) : s.doorbell h.val w off f = f n s := by
  unfold State.doorbell
  simp [hrun, hopen, hn]

theorem State.doorbell_refused (hn : s.hartSlice h.val = none) :
    s.doorbell h.val w off f = s.regRefused (.hart h) w (doorbellBase + off) .denied := by
  have hh : Fin.ofNat 13 h.val = h := Fin.ext (Nat.mod_eq_of_lt h.isLt)
  unfold State.doorbell
  simp only [hrun, hopen, hn, hh, Bool.not_true, Bool.false_eq_true, if_false]

end

theorem State.hartSlice_lt {s : State} {h n : Nat} (hn : s.hartSlice h = some n) : n < 64 := by
  unfold State.hartSlice at hn
  dsimp only at hn
  split at hn
  · cases hn
  · exact List.mem_range.mp (List.mem_of_find?_eq_some hn)

/-! ### Deadline queries (R187, R213) -/

theorem exec_dlQuery (h : Hart) (stream : BitVec 18) (s : State) : exec (.dlQuery h stream) s =
    .next (s.doorbell h.val true 0x310 (fun n t => t.dlQuery n stream.toNat)) := rfl

/-- The handle depends on the stream partition and the wheel, not on the query. -/
theorem State.dlHandle_query (s : State) (n v stream : Nat) : (s.put (DB_DL_QUERY_STREAM n) v).dlHandle n stream = s.dlHandle n stream := by
  have hne : STT_PART n ≠ DB_DL_QUERY n := by
    simp only [STT_PART, DB_DL_QUERY]
    omega
  have hpart : (s.put (DB_DL_QUERY_STREAM n) v).inPart n stream = s.inPart n stream := by
    rw [State.inPart, State.get_put_ne (f := DB_DL_QUERY_STREAM n) (g := STT_PART_FIRST n) _ _ hne,
      State.get_put_ne (f := DB_DL_QUERY_STREAM n) (g := STT_PART_COUNT n) _ _ hne, State.inPart]
  rw [State.dlHandle, hpart, State.dlHandle]
  rfl

theorem dlQuery_latches {h : Hart} {stream : BitVec 18} {n : Nat} {s : State} (hrun : (s.hart h.val).running = true)
    (hopen : s.fenceOpen SNS = true) (hn : s.hartSlice h.val = some n) :
    Completes (.dlQuery h stream) s fun t =>
      t.get (DB_DL_QUERY_STREAM n) = stream.toNat ∧ t.get (DB_DL_HANDLE_HANDLE n) = s.dlHandle n stream.toNat % 2 ^ 32 := by
  have hne : (DB_DL_QUERY_STREAM n).reg ≠ (DB_DL_HANDLE_HANDLE n).reg := by
    simp only [DB_DL_QUERY_STREAM, DB_DL_QUERY, DB_DL_HANDLE_HANDLE, DB_DL_HANDLE]
    omega
  refine .of (exec_dlQuery ..) ?_
  rw [State.doorbell_routed hrun hopen hn, State.dlQuery, Nat.mod_eq_of_lt stream.isLt, State.dlHandle_query]
  refine ⟨?_, State.get_put_self _ _ (by simp [Fld.fits, DB_DL_HANDLE_HANDLE])⟩
  rw [State.get_put_ne _ _ hne]
  exact State.get_put_small _ (by simp [Fld.fits, DB_DL_QUERY_STREAM]) stream.isLt

/-! ### Submissions (R199, R200) -/

theorem exec_dbSubmission (h : Hart) (r : Fin 8) (tail : BitVec 16) (s : State) : exec (.dbSubmission h r tail) s =
    .next (s.doorbell h.val true (0x10 * r.val) (fun n t => t.submit n r.val tail.toNat)) := rfl

theorem dbResult_fits (n : Nat) : (DB_RESULT_STATUS n).fits ∧ (DB_RESULT_RING n).fits := by simp [Fld.fits, DB_RESULT_STATUS, DB_RESULT_RING]

theorem dbResult_apart (n : Nat) : (DB_RESULT_STATUS n).apart (DB_RESULT_RING n) := by simp [Fld.apart, DB_RESULT_STATUS, DB_RESULT_RING]

theorem capBringTail_slice {n r : Nat} (hn : n < 64) (hr : r < 8) : sliceReg (CAP_BRING_TAIL n r) := by
  simp only [sliceReg, bindingReg, CAP_BRING_TAIL]
  omega

/-- A ring index that advances by the distance to another, modulo the ring's size, reaches it. -/
theorem ring_advance {old tail size : Nat} (h : old < size) : (old + (tail % size + size - old) % size) % size = tail % size := by
  rw [Nat.add_mod_mod, Nat.add_sub_cancel' (by omega), Nat.add_mod_right, Nat.mod_mod]

/-- What a submission answers at `DB_RESULT`. -/
def State.submitAnswer (s : State) (n r : Nat) (st : Status) : State := (s.res (DB_RESULT_STATUS n) st).put (DB_RESULT_RING n) r

theorem State.submitAnswer_fields (s : State) {n r : Nat} (hr : r < 8) (st : Status) :
    (s.submitAnswer n r st).get (DB_RESULT_STATUS n) = st8 st % 2 ^ 8 ∧ (s.submitAnswer n r st).get (DB_RESULT_RING n) = r := by
  obtain ⟨hstatus, hring⟩ := dbResult_fits n
  refine ⟨?_, State.get_put_small _ hring hr⟩
  rw [State.submitAnswer, State.get_put_apart _ _ hring (dbResult_apart n), State.get_res_self _ _ hstatus]
  rfl

/-- The entries of a ring's buffer ring (R193). -/
def State.ringSize (s : State) (n r : Nat) : Nat := 2 ^ s.get (CAP_RING_CFG_BLOG2 n r)

/-- The buffers that a submission of `tail` adds to a ring. -/
def State.ringAdded (s : State) (n r tail : Nat) : Nat :=
  (tail % s.ringSize n r + s.ringSize n r - s.get (CAP_BRING_TAIL_TAIL n r) % s.ringSize n r) % s.ringSize n r

/-- A submission that its ring can take, whatever the slice's share says: the ring runs and has room for the buffers it adds (R200). -/
structure State.Submittable (s : State) (n r tail : Nat) : Prop where
  settled : s.sliceResetting n = false
  enabled : s.on (CAP_RING_CFG_EN n r) = true
  runs : s.on (CAP_RING_CFG_STOPPED n r) = false
  adds : s.ringAdded n r tail ≠ 0
  room : s.ringUsed n r + s.ringAdded n r tail < s.ringSize n r - 1

theorem State.ringAdded_reaches (s : State) (n r tail : Nat) :
    (s.get (CAP_BRING_TAIL_TAIL n r) % s.ringSize n r + s.ringAdded n r tail) % s.ringSize n r = tail % s.ringSize n r :=
  ring_advance (Nat.mod_lt _ (Nat.two_pow_pos _))

section
variable {s : State} {n r tail : Nat} (q : s.Submittable n r tail) (htail : tail < 2 ^ 16)
include q htail

/-- The share decides on a submission that the ring can take. -/
theorem State.submit_eq : s.submit n r tail =
    if s.get (CSL_SHARE_DEPTH n) < s.outstanding n + s.ringAdded n r tail then (s.submitAnswer n r .full).sliceCount n 3 1
    else ((s.submitAnswer n r .ok).put (CAP_BRING_TAIL_TAIL n r) (tail % s.ringSize n r)).sliceCount n 2 (s.ringAdded n r tail) := by
  have hsize : 2 ^ s.get (CAP_RING_CFG_BLOG2 n r) = s.ringSize n r := rfl
  have hadded : (tail % s.ringSize n r + s.ringSize n r - s.get (CAP_BRING_TAIL_TAIL n r) % s.ringSize n r) % s.ringSize n r =
      s.ringAdded n r tail := rfl
  rw [← s.ringAdded_reaches]
  unfold State.submit
  simp only [firstThat, hsize, Nat.mod_eq_of_lt htail, hadded, q.settled, q.enabled, q.runs, beq_eq_false_iff_ne.mpr q.adds,
    Nat.not_le.mpr q.room, decide_false, decide_eq_true_eq, Bool.not_true, Bool.or_self, Bool.false_eq_true, if_false]
  by_cases hshare : s.get (CSL_SHARE_DEPTH n) < s.outstanding n + s.ringAdded n r tail
  · rw [if_pos hshare, if_pos hshare]
    rfl
  · rw [if_neg hshare, if_neg hshare]
    rfl

end

section
variable {h : Hart} {r : Fin 8} {tail : BitVec 16} {n : Nat} {s : State} (hrun : (s.hart h.val).running = true)
  (hopen : s.fenceOpen SNS = true) (hn : s.hartSlice h.val = some n) (q : s.Submittable n r.val tail.toNat)
include hrun hopen hn q

theorem dbSubmission_fits (hshare : s.outstanding n + s.ringAdded n r.val tail.toNat ≤ s.get (CSL_SHARE_DEPTH n)) :
    Completes (.dbSubmission h r tail) s fun t => t.get (CAP_BRING_TAIL_TAIL n r.val) = tail.toNat % s.ringSize n r.val ∧
      t.get (DB_RESULT_STATUS n) = st8 .ok ∧ t.get (DB_RESULT_RING n) = r.val := by
  have h64 := State.hartSlice_lt hn
  have hne : DB_RESULT n ≠ CAP_BRING_TAIL n r.val := by
    simp only [DB_RESULT, CAP_BRING_TAIL]
    omega
  have hsmall : tail.toNat % s.ringSize n r.val < 2 ^ 16 := lt_of_le_of_lt (Nat.mod_le _ _) tail.isLt
  obtain ⟨hstatus, hring⟩ := s.submitAnswer_fields (n := n) r.isLt .ok
  obtain ⟨hresult, -, -, -, -⟩ := doorbellReg_slice n
  have hkept := SliceKept.sliceCount ((s.submitAnswer n r.val .ok).put (CAP_BRING_TAIL_TAIL n r.val) (tail.toNat % s.ringSize n r.val))
    (i := 2) (s.ringAdded n r.val tail.toNat) h64 (by decide)
  refine .of (exec_dbSubmission ..) ?_
  rw [State.doorbell_routed hrun hopen hn, State.submit_eq q tail.isLt, if_neg (Nat.not_lt.mpr hshare),
    hkept.get (f := CAP_BRING_TAIL_TAIL n r.val) (capBringTail_slice h64 r.isLt), hkept.get (f := DB_RESULT_STATUS n) hresult,
    hkept.get (f := DB_RESULT_RING n) hresult, State.get_put_ne (f := CAP_BRING_TAIL_TAIL n r.val) (g := DB_RESULT_STATUS n) _ _ hne,
    State.get_put_ne (f := CAP_BRING_TAIL_TAIL n r.val) (g := DB_RESULT_RING n) _ _ hne]
  exact ⟨State.get_put_small _ (by simp [Fld.fits, CAP_BRING_TAIL_TAIL]) hsmall, hstatus, hring⟩

theorem dbSubmission_full (hshare : s.get (CSL_SHARE_DEPTH n) < s.outstanding n + s.ringAdded n r.val tail.toNat) :
    Completes (.dbSubmission h r tail) s fun t =>
      t.get (CAP_BRING_TAIL_TAIL n r.val) = s.get (CAP_BRING_TAIL_TAIL n r.val) ∧ t.get (DB_RESULT_STATUS n) = st8 .full := by
  have h64 := State.hartSlice_lt hn
  have hne : CAP_BRING_TAIL n r.val ≠ DB_RESULT n := by
    simp only [DB_RESULT, CAP_BRING_TAIL]
    omega
  obtain ⟨hresult, -, -, -, -⟩ := doorbellReg_slice n
  have hkept := SliceKept.sliceCount (s.submitAnswer n r.val .full) (i := 3) 1 h64 (by decide)
  refine .of (exec_dbSubmission ..) ?_
  rw [State.doorbell_routed hrun hopen hn, State.submit_eq q tail.isLt, if_pos hshare,
    hkept.get (f := CAP_BRING_TAIL_TAIL n r.val) (capBringTail_slice h64 r.isLt), hkept.get (f := DB_RESULT_STATUS n) hresult]
  exact ⟨(State.get_put_ne _ _ hne).trans (State.get_res_ne _ _ hne), (s.submitAnswer_fields r.isLt .full).1⟩

end

theorem dbSubmission_refused {h : Hart} {r : Fin 8} {tail : BitVec 16} {s : State} (hrun : (s.hart h.val).running = true)
    (hopen : s.fenceOpen SNS = true) (hn : s.hartSlice h.val = none) : Completes (.dbSubmission h r tail) s fun t =>
      t.slices = s.slices ∧ t.get (DB_RESULT_STATUS 0) = s.get (DB_RESULT_STATUS 0) := by
  refine .of (exec_dbSubmission ..) ?_
  rw [State.doorbell_refused hrun hopen hn]
  have hkept := SliceKept.regRefused s h true (doorbellBase + 0x10 * r.val) .denied
  exact ⟨hkept.slices, hkept.get (doorbellReg_slice 0).1⟩

/-! ### Mailboxes: SEND (R208, R209) -/

theorem exec_mailboxSend (a : Agent) (n : Slice) (seq : BitVec 16) (s : State) : exec (.mailboxSend a (.manager n) seq) s =
    .next (s.regAccess a true (MBX_MCMD n.val) 4 (fun t => t.mbxSend n.val true seq.toNat)) := rfl

theorem exec_mailboxAck (a : Agent) (n : Slice) (seq : BitVec 16) (s : State) : exec (.mailboxAck a (.manager n) seq) s =
    .next (s.regAccess a true (MBX_MACK n.val) 4 (fun t => t.mbxAck n.val false seq.toNat)) := rfl

theorem mailboxReg_slice {n k : Nat} (hn : n < 64) (hk : k = MBX_MSTAT n ∨ k = MBX_MRXSEQ n ∨ k = MBX_DISC n) : sliceReg k := by
  simp only [sliceReg, bindingReg, MBX_MSTAT, MBX_MRXSEQ, MBX_DISC] at hk ⊢
  omega

theorem mbxNext_ne (q : Nat) : mbxNext q ≠ q := by
  unfold mbxNext
  split
  case isTrue h => exact fun e => absurd ((beq_iff_eq.mp h).symm.trans e.symm) (by decide)
  case isFalse => omega

theorem mbxNext_lt {q : Nat} (h : q < 2 ^ 16) : mbxNext q < 2 ^ 16 := by
  unfold mbxNext
  split
  case isTrue => decide
  case isFalse hq =>
    have : q ≠ 65535 := by simpa using hq
    omega

theorem mbxM2T_fit (n : Nat) : (MBX_MSTAT_RESULT n).fits ∧ (MBX_MSTAT_PEND n).fits ∧ (MBX_MSTAT_NEXTSEQ n).fits ∧ (DB_RX_SEQ_SEQ n).fits ∧
    (DB_RX_SEQ_VALID n).fits := by
  simp [Fld.fits, MBX_MSTAT_RESULT, MBX_MSTAT_PEND, MBX_MSTAT_NEXTSEQ, DB_RX_SEQ_SEQ, DB_RX_SEQ_VALID]

theorem mbxM2T_apart (n : Nat) : (MBX_MSTAT_RESULT n).apart (MBX_MSTAT_PEND n) ∧ (MBX_MSTAT_RESULT n).apart (MBX_MSTAT_NEXTSEQ n) ∧
    (MBX_MSTAT_PEND n).apart (MBX_MSTAT_RESULT n) ∧ (MBX_MSTAT_NEXTSEQ n).apart (MBX_MSTAT_PEND n) ∧
    (DB_RX_SEQ_SEQ n).apart (DB_RX_SEQ_VALID n) := by
  simp [Fld.apart, MBX_MSTAT_RESULT, MBX_MSTAT_PEND, MBX_MSTAT_NEXTSEQ, DB_RX_SEQ_SEQ, DB_RX_SEQ_VALID]

/-- The eight words of the manager's mailbox reach the tenant. -/
def State.mbxMove (s : State) (n : Nat) : State := s.each (List.range 8) fun i t => t.put (DB_RX_WORD n i) (t.get (MBX_MTX_WORD n i))

theorem State.get_mbxMove_word (s : State) (n : Nat) {i : Nat} (hi : i < 8) : (s.mbxMove n).get (DB_RX_WORD n i) = s.get (MBX_MTX_WORD n i) := by
  have hstage : ∀ j, (MBX_MTX_WORD n i).reg ≠ (DB_RX_WORD n j).reg := fun j => by
    simp only [MBX_MTX_WORD, MBX_MTX, DB_RX_WORD, DB_RX]
    omega
  have hword : ∀ j, j ≠ i → (DB_RX_WORD n i).reg ≠ (DB_RX_WORD n j).reg := fun j hj => by
    simp only [DB_RX_WORD, DB_RX]
    omega
  have hlands (t : State) : (t.put (DB_RX_WORD n i) (t.get (MBX_MTX_WORD n i))).get (DB_RX_WORD n i) = t.get (MBX_MTX_WORD n i) :=
    State.get_put_small _ (by simp [Fld.fits, DB_RX_WORD]) (t.get_lt (MBX_MTX_WORD n i))
  unfold State.mbxMove
  exact State.each_once (fun t => t.get (MBX_MTX_WORD n i)) (fun t => t.get (DB_RX_WORD n i)) s List.nodup_range (List.mem_range.mpr hi)
    (fun t ht => (hlands t).trans ht) fun j _ hj t => ⟨State.get_put_ne _ _ (hstage j), State.get_put_ne _ _ (hword j hj)⟩

/-- The move touches no register but those of the received words. -/
theorem State.get_mbxMove_ne (s : State) (n : Nat) {f : Fld} (hf : ∀ i < 8, f.reg ≠ DB_RX n i) : (s.mbxMove n).get f = s.get f :=
  State.each_same (State.get · f) _ (fun i hi _ => State.get_put_ne _ _ (hf i (List.mem_range.mp hi))) s

/-- A message of the manager that is sent: the words, its sequence, VALID, the next sequence and PEND (R209). -/
def State.mbxSent (s : State) (n seq : Nat) : State :=
  (((((s.res (MBX_MSTAT_RESULT n) .ok).mbxMove n).put (DB_RX_SEQ_SEQ n) seq).put (DB_RX_SEQ_VALID n) 1).put (MBX_MSTAT_NEXTSEQ n) (mbxNext seq)).put
    (MBX_MSTAT_PEND n) 1

section
variable {s : State} {n seq : Nat} (h1 : s.get (CSL_STAT_STATE n) = 1) (hp : s.on (MBX_MSTAT_PEND n) = false)
include h1 hp

theorem State.mbxSend_next (hs : seq = s.get (MBX_MSTAT_NEXTSEQ n)) : s.mbxSend n true seq =
    ((s.mbxSent n seq).sliceIrq n fun t => t.raise (DB_IRQ_STATUS_MBX n) 1).sliceCount n 12 1 := by
  have hnext : (mbxNext seq == seq) = false := beq_eq_false_iff_ne.mpr (mbxNext_ne seq)
  unfold State.mbxSend
  simp only [mbxM2T, firstThat, h1, hp, ← hs, hnext, bne_self_eq_false, Bool.false_and, Bool.false_eq_true, if_false, if_true]
  rfl

theorem State.mbxSend_other (hs : seq ≠ s.get (MBX_MSTAT_NEXTSEQ n)) :
    ∃ st, (st = .stale ∨ st = .tooLate) ∧ s.mbxSend n true seq = s.res (MBX_MSTAT_RESULT n) st := by
  unfold State.mbxSend
  simp only [mbxM2T, firstThat, h1, hp, bne_iff_ne.mpr hs, bne_self_eq_false, Bool.false_eq_true, if_false, if_true]
  split
  · exact ⟨.tooLate, .inr rfl, rfl⟩
  · exact ⟨.stale, .inl rfl, rfl⟩

end

theorem mbxM2T_distinct (n : Nat) : DB_RX_SEQ n ≠ MBX_MSTAT n ∧ DB_IRQ_STATUS n ≠ MBX_MSTAT n ∧ DB_IRQ_STATUS n ≠ DB_RX_SEQ n ∧
    (∀ i < 8, MBX_MSTAT n ≠ DB_RX n i) ∧
    ∀ i < 8, DB_RX n i ≠ MBX_MSTAT n ∧ DB_RX n i ≠ DB_RX_SEQ n ∧ DB_RX n i ≠ DB_IRQ_STATUS n ∧ MBX_MTX n i ≠ MBX_MSTAT n := by
  simp only [DB_RX_SEQ, DB_RX, DB_IRQ_STATUS, MBX_MSTAT, MBX_MTX]
  exact ⟨by omega, by omega, by omega, fun i hi => by omega, fun i hi => by omega⟩

section
variable (s : State) (n : Nat) {seq : Nat}

theorem State.mbxSent_status (hq : seq < 2 ^ 16) : (s.mbxSent n seq).get (MBX_MSTAT_RESULT n) = st8 .ok ∧
    (s.mbxSent n seq).on (MBX_MSTAT_PEND n) = true ∧ (s.mbxSent n seq).get (MBX_MSTAT_NEXTSEQ n) = mbxNext seq := by
  obtain ⟨fresult, fpend, fnext, -, -⟩ := mbxM2T_fit n
  obtain ⟨apend, anext, -, aboth, -⟩ := mbxM2T_apart n
  obtain ⟨hseq, -, -, hmove, -⟩ := mbxM2T_distinct n
  refine ⟨?_, State.on_put_one _ fpend rfl, ?_⟩
  · rw [State.mbxSent, State.get_put_apart _ _ fpend apend, State.get_put_apart _ _ fnext anext,
      State.get_put_ne (f := DB_RX_SEQ_VALID n) (g := MBX_MSTAT_RESULT n) _ _ hseq.symm,
      State.get_put_ne (f := DB_RX_SEQ_SEQ n) (g := MBX_MSTAT_RESULT n) _ _ hseq.symm,
      State.get_mbxMove_ne _ n (f := MBX_MSTAT_RESULT n) hmove, State.get_res_self _ _ fresult]
    rfl
  · rw [State.mbxSent, State.get_put_apart _ _ fpend aboth, State.get_put_small _ fnext (mbxNext_lt hq)]

theorem State.mbxSent_seq (hq : seq < 2 ^ 16) :
    (s.mbxSent n seq).get (DB_RX_SEQ_SEQ n) = seq ∧ (s.mbxSent n seq).on (DB_RX_SEQ_VALID n) = true := by
  obtain ⟨-, -, -, fseq, fvalid⟩ := mbxM2T_fit n
  obtain ⟨-, -, -, -, aseq⟩ := mbxM2T_apart n
  obtain ⟨hne, -, -, -, -⟩ := mbxM2T_distinct n
  rw [State.mbxSent, State.get_put_ne (f := MBX_MSTAT_PEND n) (g := DB_RX_SEQ_SEQ n) _ _ hne,
    State.get_put_ne (f := MBX_MSTAT_NEXTSEQ n) (g := DB_RX_SEQ_SEQ n) _ _ hne, State.get_put_apart _ _ fvalid aseq,
    State.get_put_small _ fseq hq, State.on_put_ne (f := MBX_MSTAT_PEND n) (g := DB_RX_SEQ_VALID n) _ _ hne,
    State.on_put_ne (f := MBX_MSTAT_NEXTSEQ n) (g := DB_RX_SEQ_VALID n) _ _ hne]
  exact ⟨rfl, State.on_put_one _ fvalid rfl⟩

theorem State.mbxSent_words (seq : Nat) {i : Nat} (hi : i < 8) : (s.mbxSent n seq).get (DB_RX_WORD n i) = s.get (MBX_MTX_WORD n i) := by
  obtain ⟨-, -, -, -, hword⟩ := mbxM2T_distinct n
  obtain ⟨hstat, hseq, -, hstage⟩ := hword i hi
  rw [State.mbxSent, State.get_put_ne (f := MBX_MSTAT_PEND n) (g := DB_RX_WORD n i) _ _ hstat,
    State.get_put_ne (f := MBX_MSTAT_NEXTSEQ n) (g := DB_RX_WORD n i) _ _ hstat,
    State.get_put_ne (f := DB_RX_SEQ_VALID n) (g := DB_RX_WORD n i) _ _ hseq,
    State.get_put_ne (f := DB_RX_SEQ_SEQ n) (g := DB_RX_WORD n i) _ _ hseq, State.get_mbxMove_word _ n hi,
    State.get_res_ne (f := MBX_MSTAT_RESULT n) (g := MBX_MTX_WORD n i) _ _ hstage]

end

section
variable {a : Agent} {n : Slice} {seq : BitVec 16} {s : State} (hr : s.Reached a true (MBX_MCMD n.val) 4)
  (h1 : s.get (CSL_STAT_STATE n.val) = 1) (hp : s.on (MBX_MSTAT_PEND n.val) = false)
include hr h1 hp

theorem mailboxSend_next (hs : seq.toNat = s.get (MBX_MSTAT_NEXTSEQ n.val)) : Completes (.mailboxSend a (.manager n) seq) s fun t =>
    t.get (MBX_MSTAT_RESULT n.val) = st8 .ok ∧ t.on (MBX_MSTAT_PEND n.val) = true ∧ t.get (MBX_MSTAT_NEXTSEQ n.val) = mbxNext seq.toNat ∧
      t.get (DB_RX_SEQ_SEQ n.val) = seq.toNat ∧ t.on (DB_RX_SEQ_VALID n.val) = true ∧
      ∀ i < 8, t.get (DB_RX_WORD n.val i) = s.get (MBX_MTX_WORD n.val i) := by
  obtain ⟨t, ht⟩ : ∃ t, t = (s.mbxSend n.val true seq.toNat).ended a := ⟨_, rfl⟩
  have hkept : SliceKept sliceReg ((s.mbxSent n.val seq.toNat).raise (DB_IRQ_STATUS_MBX n.val) 1) t := by
    rw [ht, State.mbxSend_next h1 hp hs]
    exact ((SliceKept.sliceIrq _ (fun u => u.raise (DB_IRQ_STATUS_MBX n.val) 1) n.isLt).trans (.sliceCount _ _ n.isLt (by decide))).trans (.ended ..)
  have hget : ∀ f : Fld, sliceReg f.reg → f.reg ≠ DB_IRQ_STATUS n.val → t.get f = (s.mbxSent n.val seq.toNat).get f := fun f hf hne =>
    (hkept.get hf).trans (State.get_put_ne (f := DB_IRQ_STATUS_MBX n.val) _ _ hne)
  have hon : ∀ f : Fld, sliceReg f.reg → f.reg ≠ DB_IRQ_STATUS n.val → t.on f = (s.mbxSent n.val seq.toNat).on f := fun f hf hne => by
    rw [State.on, hget f hf hne, State.on]
  obtain ⟨-, hstat, hseq, -, hrx⟩ := mbxM2T_distinct n.val
  obtain ⟨sresult, spend, snext⟩ := s.mbxSent_status n.val seq.isLt
  obtain ⟨sseq, svalid⟩ := s.mbxSent_seq n.val seq.isLt
  have kstat := mailboxReg_slice n.isLt (.inl rfl)
  obtain ⟨-, -, -, kseq, krx⟩ := doorbellReg_slice n.val
  refine .of ((exec_mailboxSend ..).trans (congrArg _ ((State.regAccess_reached _ hr).trans ht.symm))) ⟨?_, ?_, ?_, ?_, ?_, fun i hi => ?_⟩
  · exact (hget (MBX_MSTAT_RESULT n.val) kstat hstat.symm).trans sresult
  · exact (hon (MBX_MSTAT_PEND n.val) kstat hstat.symm).trans spend
  · exact (hget (MBX_MSTAT_NEXTSEQ n.val) kstat hstat.symm).trans snext
  · exact (hget (DB_RX_SEQ_SEQ n.val) kseq hseq.symm).trans sseq
  · exact (hon (DB_RX_SEQ_VALID n.val) kseq hseq.symm).trans svalid
  · obtain ⟨-, -, hirq, -⟩ := hrx i hi
    exact (hget (DB_RX_WORD n.val i) (krx i) hirq).trans (s.mbxSent_words n.val _ hi)

theorem mailboxSend_other (hs : seq.toNat ≠ s.get (MBX_MSTAT_NEXTSEQ n.val)) : Completes (.mailboxSend a (.manager n) seq) s fun t =>
    (t.get (MBX_MSTAT_RESULT n.val) = st8 .stale ∨ t.get (MBX_MSTAT_RESULT n.val) = st8 .tooLate) ∧ t.on (MBX_MSTAT_PEND n.val) = false := by
  obtain ⟨st, hst, hsend⟩ := State.mbxSend_other h1 hp hs
  obtain ⟨fresult, -, -, -, -⟩ := mbxM2T_fit n.val
  obtain ⟨-, -, apend, -, -⟩ := mbxM2T_apart n.val
  have hplace := mailboxReg_slice n.isLt (.inl rfl)
  have hend := SliceKept.ended (s.res (MBX_MSTAT_RESULT n.val) st) a
  refine .of (exec_mailboxSend ..) ?_
  rw [State.regAccess_reached _ hr, hsend, hend.get (f := MBX_MSTAT_RESULT n.val) hplace, hend.on (f := MBX_MSTAT_PEND n.val) hplace,
    State.get_res_self _ _ fresult]
  refine ⟨?_, (State.on_put_apart _ _ fresult apend).trans hp⟩
  rcases hst with rfl | rfl
  · exact .inl rfl
  · exact .inr rfl

end

/-! ### Mailboxes: acknowledgement (R210) -/

section
variable {a : Agent} {n : Slice} {seq : BitVec 16} {s : State} (hr : s.Reached a true (MBX_MACK n.val) 4)
include hr

theorem mailboxAck_valid (hv : s.on (MBX_MRXSEQ_VALID n.val) = true) (hs : s.get (MBX_MRXSEQ_SEQ n.val) = seq.toNat) :
    Completes (.mailboxAck a (.manager n) seq) s fun t => t.on (MBX_MRXSEQ_VALID n.val) = false ∧ t.on (DB_TX_STAT_PEND n.val) = false := by
  have hack : s.mbxAck n.val false seq.toNat = ((s.put (MBX_MRXSEQ_VALID n.val) 0).put (DB_TX_STAT_PEND n.val) 0).sliceIrq n.val
      fun t => t.raise (DB_IRQ_STATUS_MBXACK n.val) 1 := by
    unfold State.mbxAck
    simp only [mbxT2M, hv, hs, beq_self_eq_true, Bool.and_self, Bool.false_eq_true, if_false, if_true]
  have hdistinct : MBX_MRXSEQ n.val ≠ DB_IRQ_STATUS n.val ∧ DB_TX_STAT n.val ≠ DB_IRQ_STATUS n.val ∧
      MBX_MRXSEQ n.val ≠ DB_TX_STAT n.val := by
    simp only [MBX_MRXSEQ, DB_TX_STAT, DB_IRQ_STATUS]
    omega
  obtain ⟨hvalid, hpend, hboth⟩ := hdistinct
  have hkept := (SliceKept.sliceIrq ((s.put (MBX_MRXSEQ_VALID n.val) 0).put (DB_TX_STAT_PEND n.val) 0)
    (fun t => t.raise (DB_IRQ_STATUS_MBXACK n.val) 1) n.isLt).trans (.ended _ a)
  obtain ⟨-, -, kpend, -, -⟩ := doorbellReg_slice n.val
  refine .of (exec_mailboxAck ..) ?_
  rw [State.regAccess_reached _ hr, hack, hkept.on (f := MBX_MRXSEQ_VALID n.val) (mailboxReg_slice n.isLt (.inr (.inl rfl))),
    hkept.on (f := DB_TX_STAT_PEND n.val) kpend, State.raise,
    State.on_put_ne (f := DB_IRQ_STATUS_MBXACK n.val) (g := MBX_MRXSEQ_VALID n.val) _ _ hvalid,
    State.on_put_ne (f := DB_IRQ_STATUS_MBXACK n.val) (g := DB_TX_STAT_PEND n.val) _ _ hpend,
    State.on_put_ne (f := DB_TX_STAT_PEND n.val) (g := MBX_MRXSEQ_VALID n.val) _ _ hboth]
  exact ⟨State.on_put_zero _ (by simp [Fld.fits, MBX_MRXSEQ_VALID]) rfl, State.on_put_zero _ (by simp [Fld.fits, DB_TX_STAT_PEND]) rfl⟩

theorem mailboxAck_invalid (hv : s.on (MBX_MRXSEQ_VALID n.val) = false) : Completes (.mailboxAck a (.manager n) seq) s fun t =>
    t.get (MBX_DISC_BADACK n.val) = (s.get (MBX_DISC_BADACK n.val) + 1) % 2 ^ (MBX_DISC_BADACK n.val).w ∧ t.slices = s.slices := by
  have hack : s.mbxAck n.val false seq.toNat = s.inc (MBX_DISC_BADACK n.val) 1 := by
    unfold State.mbxAck
    simp only [mbxT2M, hv, Bool.false_and, Bool.false_eq_true, if_false]
  have hend := SliceKept.ended (s.inc (MBX_DISC_BADACK n.val) 1) a
  refine .of (exec_mailboxAck ..) ?_
  rw [State.regAccess_reached _ hr, hack, hend.get (f := MBX_DISC_BADACK n.val) (mailboxReg_slice n.isLt (.inr (.inr rfl))), hend.slices]
  exact ⟨State.get_put_self _ _ (by simp [Fld.fits, MBX_DISC_BADACK]), rfl⟩

end

/-! ### Moderation (R205) -/

theorem exec_modHoldoffExpire (n : Slice) (r : Fin 8) (s : State) : exec (.modHoldoffExpire n r) s = execModHoldoffExpire n r s := rfl

/-- A bit of COMPL that is raised reads 1. -/
theorem State.on_raise_compl (s : State) (n : Nat) {r : Nat} (hr : r < 8) :
    (s.raise (DB_IRQ_STATUS_COMPL n) (2 ^ r)).on ⟨DB_IRQ_STATUS n, r, 1⟩ = true := by
  obtain ⟨t, ht⟩ : ∃ t, t = s.raise (DB_IRQ_STATUS_COMPL n) (2 ^ r) := ⟨_, rfl⟩
  have hfield : bitAt (t.get (DB_IRQ_STATUS_COMPL n)) r = true := by
    rw [ht, State.raise, State.get_put_self _ _ (by simp [Fld.fits, DB_IRQ_STATUS_COMPL])]
    exact bitAt_lor_two_pow _ hr
  have hbit : t.get ⟨DB_IRQ_STATUS n, r, 1⟩ = bitsOf (t.get (DB_IRQ_STATUS_COMPL n)) r 1 := by
    change _ = bitsOf (t.rd (DB_IRQ_STATUS n) / 2 ^ 0 % 2 ^ 8) r 1
    rw [pow_zero, Nat.div_one, bitsOf_mod _ hr]
    rfl
  rw [← ht, State.on, hbit]
  exact hfield

theorem modHoldoffExpire_completes {n : Slice} {r : Fin 8} {s : State} (hm : s.get (CSL_MOD_HOLDOFF n.val) ≠ 0)
    (hc : tabGet (fun _ => 0) (s.slice n.val).mod r.val ≠ 0) (hr : s.sliceResetting n.val = false) :
    Completes (.modHoldoffExpire n r) s fun t =>
      t.on ⟨DB_IRQ_STATUS n.val, r.val, 1⟩ = true ∧ tabGet (fun _ => 0) (t.slice n.val).mod r.val = 0 := by
  obtain ⟨u, hu⟩ : ∃ u, u = s.setSlice n.val { s.slice n.val with mod := tabSet (fun _ => 0) (s.slice n.val).mod r.val 0 } := ⟨_, rfl⟩
  have hexec : exec (.modHoldoffExpire n r) s = .next (u.sliceIrq n.val fun t => t.raise (DB_IRQ_STATUS_COMPL n.val) (2 ^ r.val)) := by
    rw [exec_modHoldoffExpire, execModHoldoffExpire, bne_iff_ne.mpr hm, bne_iff_ne.mpr hc, hr, hu]
    rfl
  have hkept := SliceKept.sliceIrq u (fun t => t.raise (DB_IRQ_STATUS_COMPL n.val) (2 ^ r.val)) n.isLt
  obtain ⟨-, kstatus, -, -, -⟩ := doorbellReg_slice n.val
  refine .of hexec ⟨(hkept.on (f := ⟨DB_IRQ_STATUS n.val, r.val, 1⟩) kstatus).trans (u.on_raise_compl n.val r.isLt), ?_⟩
  rw [hkept.slice, State.raise, State.slice_put, hu, State.slice_setSlice]
  exact tabGet_tabSet_self (fun _ => 0) (s.slice n.val).mod r.val 0

/-- Settles O21: a slice's commands change its own registers first; the vectors, counters and wheel entries that follow leave them
(`SliceKept`). -/
theorem slicesAndMailboxesComplete : Obligations.SlicesAndMailboxesComplete := by
  refine ⟨fun a n s hr => ⟨sliceBind_binds hr, sliceBind_denied hr, fun h1 => ⟨sliceReset_starts hr h1, sliceUnbind_starts hr h1⟩⟩,
    fun n s => sliceQuiet_settles, fun h r tail stream n s hrun hopen hn => ⟨dlQuery_latches hrun hopen hn, ?_⟩,
    fun h r tail s => dbSubmission_refused, fun a n seq s hr h1 hp => ⟨mailboxSend_next hr h1 hp, mailboxSend_other hr h1 hp⟩,
    fun a n seq s hr => ⟨mailboxAck_valid hr, mailboxAck_invalid hr⟩, fun n r s => modHoldoffExpire_completes⟩
  intro size old added hreset hen hstop h0 hroom _
  have q : s.Submittable n r.val tail.toNat := ⟨hreset, hen, hstop, h0, hroom⟩
  exact ⟨dbSubmission_fits hrun hopen hn q, dbSubmission_full hrun hopen hn q⟩

end Sys2Proof.Machine
end

section
/-! What the memory system, the logs and DMA leave of the network domain: the switch, the state of its controllers and links, and NET's
registers (R306 to R309, R321 to R341, R372 to R386, R394). -/

namespace Sys2Proof.Machine

open Sys2Proof

/-- What a state holds of the network domain: the switch and its links, and NET's registers by their offset. -/
def State.net (s : State) : SwSt × (Nat → Nat) := (s.sw, fun k => s.rd (0x45000000 + k % 0x1000000))

section
variable {s t : State} (h : t.net = s.net)
include h

theorem State.sw_of_net : t.sw = s.sw := congrArg Prod.fst h

theorem State.get_of_net {f : Fld} (hlo : 0x45000000 ≤ f.reg) (hhi : f.reg < 0x46000000) : t.get f = s.get f := by
  have hk : 0x45000000 + (f.reg - 0x45000000) % 0x1000000 = f.reg := by omega
  have hrd := congrFun (congrArg Prod.snd h) (f.reg - 0x45000000)
  simp only [State.net, hk] at hrd
  rw [State.get, hrd, State.get]

end

/-! ### Registers of other domains -/

theorem State.net_wr (s : State) {a : Nat} (v : Nat) (h : a < 0x45000000 ∨ 0x46000000 ≤ a) : (s.wr a v).net = s.net := by
  unfold State.net
  congr 1
  funext k
  exact State.rd_wr_ne s v (by omega)

theorem State.net_put (s : State) {f : Fld} (v : Nat) (h : f.reg < 0x45000000 ∨ 0x46000000 ≤ f.reg) : (s.put f v).net = s.net := s.net_wr _ h

theorem State.net_each {α : Type} (s : State) (l : List α) {f : α → State → State} (h : ∀ a t, (f a t).net = t.net) :
    (s.each l f).net = s.net := State.each_same State.net l (fun a _ t => h a t) s

@[simp] theorem State.net_when (s : State) (c : Bool) (f : State → State) : (s.when c f).net = if c then (f s).net else s.net := by
  cases c <;> rfl

theorem LogOnly.net {s t : State} (h : LogOnly s t) : t.net = s.net := by
  have hlow : ∀ r ∈ logRegs, r < 0x45000000 ∨ 0x46000000 ≤ r := by decide
  unfold State.net
  rw [show t.sw = s.sw by rw [h.rest]]
  congr 1
  funext k
  exact h.rd fun hm => by have := hlow _ hm; omega

@[simp] theorem State.net_sherd (s : State) (k : Nat) (st : Status) (src : Nat) (w : World) (rq a p y : Nat) :
    (s.sherd k st src w rq a p y).net = s.net := (LogOnly.sherd ..).net

@[simp] theorem State.net_sherdScrub (s : State) (k : Nat) (st : Status) (src a y : Nat) : (s.sherdScrub k st src a y).net = s.net :=
  (LogOnly.scrub ..).net

/-- The counters of the MEM domain stand on its own page. -/
theorem State.net_memPage (s : State) {i : Nat} (hi : i < 64) (k : Nat) : (s.pmuCount (.page pmuMemBase) i k).net = s.net := by
  have h : ∀ j < pmuN (.page pmuMemBase),
      ¬ (0x45000000 ≤ (pmuCnt (.page pmuMemBase) j).reg) ∧ ¬ (0x45000000 ≤ (pmuOvf (.page pmuMemBase) j).reg) :=
    fun j hj => by
      have hj : j < 64 := hj
      simp only [pmuCnt, pmuOvf, PMU_CNT_COUNT, PMU_CNT, PMU_OVF, pmuMemBase]
      omega
  have hk := SliceKept.pmuCount (K := fun k => 0x45000000 ≤ k) h s k (i := i) hi
  have hsw : (s.pmuCount (.page pmuMemBase) i k).sw = s.sw := by
    unfold State.pmuCount
    split
    · rfl
    · obtain ⟨r, hr⟩ := State.pmuCarry_regs (.page pmuMemBase) (pmuN (.page pmuMemBase)) s i k
      rw [hr]
  unfold State.net
  rw [hsw]
  congr 1
  funext j
  exact hk.reg _ (by omega)

/-! ### Parts of the processor, of memory and of the guarantees -/

section
variable (s : State)

@[simp] theorem State.net_setL2 (c l : Nat) (v : Option L2Line) : (s.setL2 c l v).net = s.net := rfl

@[simp] theorem State.net_setSlc (l : Nat) (v : Option SlcLine) : (s.setSlc l v).net = s.net := rfl

@[simp] theorem State.net_setDir (l : Nat) (v : DirEntry) : (s.setDir l v).net = s.net := rfl

@[simp] theorem State.net_setEpoch (c : Nat) (v : EpochSt) : (s.setEpoch c v).net = s.net := rfl

@[simp] theorem State.net_setByte (a : Nat) (b : Byte) : (s.setByte a b).net = s.net := rfl

@[simp] theorem State.net_setSynd (l v : Nat) : (s.setSynd l v).net = s.net := rfl

@[simp] theorem State.net_setCraze (i : Nat) (e : Option CrazeEntry) : (s.setCraze i e).net = s.net := rfl

@[simp] theorem State.net_setSramPoison (l : Nat) (p : Bool) : (s.setSramPoison l p).net = s.net := rfl

@[simp] theorem State.net_tookFree : s.tookFree.net = s.net := rfl

@[simp] theorem State.net_tickAge : s.tickAge.net = s.net := rfl

@[simp] theorem State.net_clearResv (l : Nat) (who : Nat → Bool) : (s.clearResv l who).net = s.net := rfl

theorem State.net_withCpu (v : CpuSt) : State.net { s with cpu := v } = s.net := rfl

theorem State.net_withMem (v : MemSt) : State.net { s with mem := v } = s.net := rfl

@[simp] theorem State.net_memCount {i : Nat} (hi : i < 64) : (s.memCount i).net = s.net := s.net_memPage hi 1

/-! ### The memory controller (R372 to R386) -/

@[simp] theorem State.net_bwCount (p : Nat) : (s.bwCount p).net = s.net := by
  have h : (s.when (p < 11) fun t => t.pmuCount (.page pmuMemBase) (22 + p) 1).net = s.net := by
    by_cases hp : p < 11
    · rw [decide_eq_true hp]
      exact s.net_memPage (by omega) 1
    · rw [decide_eq_false hp]
      rfl
  unfold State.bwCount
  dsimp only
  split
  · exact h
  · exact h

@[simp] theorem State.net_setBytes (a v n : Nat) : (s.setBytes a v n).net = s.net := by
  rw [State.setBytes_eq]
  rfl

@[simp] theorem State.net_flipBit (l w b : Nat) : (s.flipBit l w b).net = s.net := by
  unfold State.flipBit
  dsimp only
  split <;> rfl

@[simp] theorem State.net_wedgeTouch (l : Nat) : (s.wedgeTouch l).net = s.net := by
  unfold State.wedgeTouch
  dsimp only
  split
  · split <;> simp [↓State.net_withMem]
  · rfl

theorem State.net_put_shd {f : Fld} (v : Nat) (h : f.reg = SHD_IRQ_STATUS ∨ f.reg = DMC_INJ) : (s.put f v).net = s.net :=
  s.net_put v (by rcases h with h | h <;> rw [h] <;> decide)

@[simp] theorem State.net_crazeCount (a b c : Nat) : (s.crazeCount a b c).net = s.net := by
  have hadvice (t : State) : (t.raise SHD_IRQ_STATUS_ADVICE 1).net = t.net := t.net_put_shd _ (.inl rfl)
  unfold State.crazeCount
  dsimp only
  repeat' split
  all_goals simp [hadvice, ↓State.net_withMem]

@[simp] theorem State.net_dramRead (q : MemReq) (l : Nat) (scrub : Bool) : (s.dramRead q l scrub).1.net = s.net := by
  have hflip (u : State) (p : Nat × Nat) (o : Option Nat) : (match o with | some b => u.flipBit l p.1 b | none => u).net = u.net := by
    split <;> simp
  unfold State.dramRead
  dsimp only
  repeat' split
  all_goals simp
  all_goals
    refine (State.net_each _ _ fun p t => ?_).trans ?_
    · exact hflip t p _
    · simp

@[simp] theorem State.net_dmcInject (l : Nat) : (s.dmcInject l).net = s.net := by
  have hspent : (s.put DMC_INJ_ARM 0).net = s.net := s.net_put_shd _ (.inr rfl)
  unfold State.dmcInject
  dsimp only
  repeat' split
  all_goals simp [hspent]

@[simp] theorem State.net_dramWrite (q : MemReq) (l m v : Nat) (p : Bool) : (s.dramWrite q l m v p).net = s.net := by
  unfold State.dramWrite
  dsimp only
  split <;> simp

@[simp] theorem State.net_sramWrite (q : MemReq) (src a v n : Nat) : (s.sramWrite q src a v n).net = s.net := by
  unfold State.sramWrite
  dsimp only
  split <;> simp

/-! ### The mesh (R321 to R341) -/

@[simp] theorem State.net_slcEvict (q : MemReq) (l : Nat) : (s.slcEvict q l).net = s.net := by
  unfold State.slcEvict
  split <;> simp

@[simp] theorem State.net_slcPut (q : MemReq) (l v : Nat) (d p : Bool) : (s.slcPut q l v d p).net = s.net := by
  unfold State.slcPut
  dsimp only
  repeat' split
  all_goals simp

@[simp] theorem State.net_memLine (q : MemReq) (l : Nat) : (s.memLine q l).1.net = s.net := by
  unfold State.memLine
  repeat' split
  all_goals simp

@[simp] theorem State.net_memWriteLine (q : MemReq) (l m v : Nat) : (s.memWriteLine q l m v).net = s.net := by
  unfold State.memWriteLine
  split <;> simp

end

/-- The registers of the two clusters' epochs are APC's. -/
theorem State.net_epochRelease (s : State) {c : Nat} (hc : c < 2) (early : Bool) : (s.epochRelease c early).net = s.net := by
  have hput (t : State) (f : Fld) (v : Nat) (h : f.reg ≤ EPO_CNT c) : (t.put f v).net = t.net := t.net_put v (.inl (by
    simp only [EPO_CNT] at h
    omega))
  have hstate (t : State) (v : Nat) : (t.put (EPO_STATUS_STATE c) v).net = t.net :=
    hput t _ v (by simp only [EPO_STATUS_STATE, EPO_STATUS, EPO_CNT]; omega)
  have houtq (t : State) (v : Nat) : (t.put (EPO_OUTQ_USED c) v).net = t.net := hput t _ v (by simp only [EPO_OUTQ_USED, EPO_OUTQ, EPO_CNT]; omega)
  have hstore (t : State) (v : Nat) : (t.put (EPO_STORE_USED c) v).net = t.net :=
    hput t _ v (by simp only [EPO_STORE_USED, EPO_STORE, EPO_CNT]; omega)
  have hearly (t : State) : (t.inc (EPO_CNT_EARLY c) 1).net = t.net := hput t _ _ le_rfl
  unfold State.epochRelease
  dsimp only
  split
  · rfl
  · simp only [State.net_when, hearly, ite_self, hstate, houtq, hstore, State.net_setEpoch]
    refine State.net_each _ _ fun p t => ?_
    split <;> simp

section
variable (s : State)

@[simp] theorem State.net_forceCommit (l : Nat) (who : Nat → Bool) : (s.forceCommit l who).net = s.net := by
  refine State.each_same State.net _ (fun c hc t => ?_) s
  have hc : c < 2 := by simp at hc; omega
  split
  · exact t.net_epochRelease hc true
  · rfl

@[simp] theorem State.net_dirtyDown (q : MemReq) (c l v : Nat) (p : Bool) : (s.dirtyDown q c l v p).net = s.net := by
  unfold State.dirtyDown
  dsimp only
  split <;> simp

@[simp] theorem State.net_giveUp (q : MemReq) (c l : Nat) : (s.giveUp q c l).net = s.net := by
  unfold State.giveUp
  dsimp only
  repeat' split
  all_goals simp

@[simp] theorem State.net_backInvalidate (q : MemReq) (l : Nat) : (s.backInvalidate q l).net = s.net :=
  (State.net_setDir ..).trans (State.net_each _ _ fun _ _ => by simp)

@[simp] theorem State.net_l2Install (q : MemReq) (c l : Nat) (st : Mesi) (v : Nat) (p : Bool) : (s.l2Install q c l st v p).net = s.net := by
  unfold State.l2Install
  dsimp only
  split <;> simp

@[simp] theorem State.net_snoopAct (c l : Nat) (k : SnpKind) : (s.snoopAct c l k).net = s.net := by
  unfold State.snoopAct
  dsimp only
  repeat' split
  all_goals simp

@[simp] theorem State.net_answerAct (c l : Nat) : (s.answerAct c l).net = s.net := by
  unfold State.answerAct
  dsimp only
  split <;> simp

@[simp] theorem State.net_txnData (q : MemReq) (t : Txn) (l : Nat) : (s.txnData q t l).1.net = s.net := by
  unfold State.txnData
  split <;> simp

@[simp] theorem State.net_slcMove (q : MemReq) (l : Nat) : (s.slcMove q l).net = s.net := s.net_slcEvict q l

@[simp] theorem State.net_placeTake (l : Nat) : (s.placeTake l).net = s.net := State.net_each _ _ fun _ _ => rfl

@[simp] theorem State.net_grantAct (l : Nat) : (s.grantAct l).net = s.net := by
  unfold State.grantAct
  dsimp only
  repeat' split
  all_goals simp [↓State.net_setDir, ↓State.net_withCpu]

@[simp] theorem State.net_stashFillAct (c l : Nat) : (s.stashFillAct c l).net = s.net := by
  unfold State.stashFillAct
  dsimp only
  repeat' split
  all_goals simp [↓State.net_setDir, ↓State.net_withCpu]

@[simp] theorem State.net_endHold (c l : Nat) : (s.endHold c l).net = s.net := by
  unfold State.endHold
  split <;> simp

@[simp] theorem State.net_cohFinish (l : Nat) : (s.cohFinish l).net = s.net := by
  have hsnoop (u : State) (cs : List Nat) (k : Nat → SnpKind) : (u.each cs fun c t => (t.endHold c l).snoopAct c l (k c)).net = u.net :=
    State.net_each _ _ fun _ _ => by simp
  have hanswer (u : State) (cs : List Nat) : (u.each cs fun c t => t.answerAct c l).net = u.net := State.net_each _ _ fun _ _ => by simp
  unfold State.cohFinish
  dsimp only
  repeat' split
  all_goals simp [hsnoop, hanswer]

theorem State.net_dirAlloc (q : MemReq) (l : Nat) : ((s.dirAlloc q l).getD s).net = s.net := by
  unfold State.dirAlloc
  dsimp only
  repeat' split
  all_goals simp

@[simp] theorem State.net_cohServe (r : Nat) (k : CohKind) (l m v : Nat) : (s.cohServe r k l m v).net = s.net := by
  have halloc : (((s.cohFinish l).dirAlloc (reqMem r .secure) l).getD (s.cohFinish l)).net = s.net := by
    rw [State.net_dirAlloc, State.net_cohFinish]
  have hopen (u : State) : (u.cohOpen r k l m v).net = u.net := rfl
  unfold State.cohServe
  dsimp only
  repeat' split
  all_goals simp [hopen, halloc]

@[simp] theorem State.net_devReadLine (q : MemReq) (l : Nat) : (s.devReadLine q l).1.net = s.net := by
  unfold State.devReadLine
  dsimp only
  repeat' split
  all_goals simp

@[simp] theorem State.net_memRead (q : MemReq) (a n : Nat) : (s.memRead q a n).1.net = s.net := by
  unfold State.memRead
  split <;> simp

@[simp] theorem State.net_memWrite (q : MemReq) (a n v : Nat) : (s.memWrite q a n v).net = s.net := by
  unfold State.memWrite State.devWriteLine
  split <;> simp

@[simp] theorem State.net_memWriteAll (q : MemReq) (fuel a : Nat) (bs : List Byte) : (s.memWriteAll q fuel a bs).net = s.net := by
  induction fuel generalizing s a bs with
  | zero => rfl
  | succ fuel ih =>
    unfold State.memWriteAll
    split
    · rfl
    · rw [ih, State.net_memWrite]

/-! ### Walks of the IOMMU (R306 to R308) -/

@[simp] theorem State.net_physRefuse (q : MemReq) (hart : Bool) (v : PhysVerdict) (a : Nat) : (s.physRefuse q hart v a).net = s.net := by
  unfold State.physRefuse
  dsimp only
  repeat' split
  all_goals simp

@[simp] theorem State.net_pteRead_iommu (w : World) (a : Nat) : (s.pteRead (.iommu w) a).1.net = s.net := by
  unfold State.pteRead
  dsimp only
  repeat' split
  all_goals simp

@[simp] theorem State.net_pteWrite_iommu (w : World) (a v : Nat) : (s.pteWrite (.iommu w) a v).net = s.net := s.net_memWrite ..

end

end Sys2Proof.Machine
end

section
/-! What DMA leaves of the network domain: the walks of the IOMMU, its faults and the writes themselves (R45, R306 to R309, R377). -/

namespace Sys2Proof.Machine

open Sys2Proof

/-! ### The tables (R300, R306) -/

/-- A walk leaves what the translation of its own addresses leaves. -/
theorem State.net_walk {w : World} {t : Stage} (hk : t.k = .iommu w) {tr : State → AccKind → Nat → State × XOut}
    (htr : ∀ u k a, (tr u k a).1.net = u.net) (extra l : Nat) (s : State) (table : Nat) : (State.walk t tr extra l s table).1.net = s.net := by
  have hread (u : State) (a : Nat) : (u.pteRead t.k a).1.net = u.net := by rw [hk]; exact u.net_pteRead_iommu w a
  have hwrite (u : State) (a v : Nat) : (u.pteWrite t.k a v).net = u.net := by rw [hk]; exact u.net_pteWrite_iommu w a v
  induction l generalizing extra s table with
  | zero => rfl
  | succ l ih =>
    rw [State.walk]
    dsimp only
    generalize htable : table + 8 * bitsOf t.va (12 + 9 * l) (9 + extra) = a
    have hfirst := htr s .read a
    split
    · next u pa b hu =>
      rw [hu] at hfirst
      have hpte := hread u pa
      split
      · next v hv => rw [hv] at hpte; exact hpte.trans hfirst
      · next v pte hv =>
        rw [hv] at hpte
        have hdone : v.net = s.net := hpte.trans hfirst
        have hsecond := htr v .write a
        repeat' split
        all_goals simp_all
    · next hne => exact hfirst

section
variable (s : State)

@[simp] theorem State.net_gStage_iommu (w : World) (atp : Nat) (adue : Bool) (kind : AccKind) (gpa : Nat) :
    (s.gStage (.iommu w) atp adue kind gpa).1.net = s.net := by
  have hwalk (t : Stage) (hk : t.k = .iommu w) (l table : Nat) : (State.walk t plainTr 2 l s table).1.net = s.net :=
    State.net_walk hk (fun _ _ _ => rfl) 2 l s table
  unfold State.gStage
  dsimp only
  split
  · rfl
  split
  · rfl
  generalize hp : State.walk _ plainTr 2 _ s _ = p
  have hnet : p.1.net = s.net := hp ▸ hwalk _ rfl _ _
  split <;> exact hnet

/-- The state beside a result. -/
theorem State.net_beside {α : Type} {p : State × α} {u t : State} {x : α} (heq : p = (u, x)) (h : p.1.net = t.net) : u.net = t.net := by
  rw [heq] at h
  exact h

theorem State.net_twoStage {w : World} {t : Stage} (hk : t.k = .iommu w) (atp gatp : Nat) (gadue : Bool) :
    (s.twoStage t atp gatp gadue).1.net = s.net := by
  have hstage (u : State) (kind : AccKind) (a : Nat) : (u.gStage t.k gatp gadue kind a).1.net = u.net := by
    rw [hk]
    exact u.net_gStage_iommu w gatp gadue kind a
  have hwalk (l table : Nat) : (State.walk t (fun u kind a => u.gStage t.k gatp gadue kind a) 0 l s table).1.net = s.net :=
    State.net_walk hk hstage _ _ s _
  unfold State.twoStage
  dsimp only
  split
  · next u gpa b heq =>
    have hfirst : u.net = s.net := by
      split at heq
      · exact State.net_beside heq rfl
      split at heq
      · exact State.net_beside heq rfl
      · exact State.net_beside heq (hwalk ..)
    have hsecond := hstage u t.kind gpa
    split
    · next h2 => exact (State.net_beside h2 hsecond).trans hfirst
    · exact hsecond.trans hfirst
  · repeat' split
    · rfl
    · rfl
    · exact hwalk ..

@[simp] theorem State.net_ioRead8 (a : Nat) : (s.ioRead8 a).1.net = s.net := s.net_pteRead_iommu ..

@[simp] theorem State.net_pdtGet (gatp : Nat) (gade : Bool) (a : Nat) : (s.pdtGet gatp gade a).1.net = s.net := by
  have hstage := s.net_gStage_iommu s.ioWorld gatp gade .read a
  unfold State.pdtGet
  split
  · next u pa b heq => exact (u.net_ioRead8 pa).trans (State.net_beside heq hstage)
  · next u _ heq => exact State.net_beside heq hstage

@[simp] theorem State.net_pdtDown (gatp : Nat) (gade : Bool) (a : Nat) : (s.pdtDown gatp gade a).1.net = s.net := by
  have hget := s.net_pdtGet gatp gade a
  unfold State.pdtDown
  grind

@[simp] theorem State.net_pdtLeaf (gatp : Nat) (gade : Bool) (pid a : Nat) : (s.pdtLeaf gatp gade pid a).1.net = s.net := by
  have hget := fun (u : State) b => u.net_pdtGet gatp gade b
  unfold State.pdtLeaf
  grind

@[simp] theorem State.net_pdtWalk (pdtp gatp : Nat) (gade : Bool) (pid : Nat) : (s.pdtWalk pdtp gatp gade pid).1.net = s.net := by
  have hdown := fun (u : State) b => u.net_pdtDown gatp gade b
  have hleaf := fun (u : State) b => u.net_pdtLeaf gatp gade pid b
  unfold State.pdtWalk
  grind

/-- One level of the device directory (R306). -/
def State.ddtDown (s : State) (a : Nat) : State × Except Nat Nat :=
  match s.ioRead8 a with
  | (u, none) => (u, .error 257)
  | (u, some e) =>
    if !bitAt e 0 then (u, .error 258)
    else if bitsOf e 1 9 != 0 || bitsOf e 54 10 != 0 then (u, .error 259)
    else (u, .ok (4096 * bitsOf e 10 44))

theorem State.ddtWalk_eq (dev : Nat) : s.ddtWalk dev =
    let root := 4096 * bitsOf (s.rd ioDdtp) 10 44
    let leaf (r : State × Except Nat Nat) : State × Except Nat Nat := match r with
      | (u, .ok t) => (u, .ok (t + 32 * bitsOf dev 0 7))
      | r => r
    if s.rd ioDdtp % 16 == 2 then if dev / 2 ^ 7 != 0 then (s, .error 260) else (s, .ok (root + 32 * bitsOf dev 0 7))
    else if s.rd ioDdtp % 16 == 3 then if dev / 2 ^ 16 != 0 then (s, .error 260) else leaf (s.ddtDown (root + 8 * bitsOf dev 7 9))
    else if s.rd ioDdtp % 16 == 4 then match s.ddtDown (root + 8 * bitsOf dev 16 8) with
      | (u, .ok t) => leaf (u.ddtDown (t + 8 * bitsOf dev 7 9))
      | r => r
    else (s, .error 259) := rfl

theorem State.net_ddtDown (a : Nat) : (s.ddtDown a).1.net = s.net := by
  have hread := s.net_ioRead8 a
  unfold State.ddtDown
  grind

@[simp] theorem State.net_ddtWalk (dev : Nat) : (s.ddtWalk dev).1.net = s.net := by
  have hdown := fun (u : State) a => u.net_ddtDown a
  rw [State.ddtWalk_eq]
  grind

/-- Both stages of a device's address, by the contexts found for it. -/
def State.ioStages (s : State) (r : DmaReq) (tc gatp atp : Nat) (sum : Bool) : State × Except Nat Nat :=
  let kind : AccKind := if r.write then .write else .read
  match s.twoStage ⟨.iommu s.ioWorld, kind, r.iova, false, true, sum, false, bitAt tc 8, true⟩ atp gatp (bitAt tc 7) with
  | (u, .ok pa _) => (u, .ok pa)
  | (u, .page) => (u, .error (excPage kind))
  | (u, .guest) => (u, .error (excGuest kind))
  | (u, .access) => (u, .error (excAccess kind))

/-- The translation by a device context whose first word is `tc` and whose stages have the roots `gatp` and `fsc`. -/
def State.ioByContext (s : State) (r : DmaReq) (tc gatp fsc : Nat) : State × Except Nat Nat :=
  if bitAt tc 5 then
    match (if r.pasid.isSome then r.pasid else if bitAt tc 9 then some 0 else none) with
    | none => s.ioStages r tc gatp 0 false
    | some p => match s.pdtWalk fsc gatp (bitAt tc 7) p with
      | (u, .ok (atp, sum)) => u.ioStages r tc gatp atp sum
      | (u, .error c) => (u, .error c)
  else if r.pasid.isSome then (s, .error 260)
  else s.ioStages r tc gatp fsc false

theorem State.ioTranslate_eq (r : DmaReq) : s.ioTranslate r =
    if s.rd ioDdtp % 16 == 0 then (s, .error 256)
    else if s.rd ioDdtp % 16 == 1 then (s, .ok r.iova)
    else match s.ddtWalk r.dev with
      | (u, .error c) => (u, .error c)
      | (u, .ok dc) => match u.ioRead8 dc with
        | (u, none) => (u, .error 257)
        | (u, some tc) =>
          if !bitAt tc 0 then (u, .error 258)
          else match u.ioRead8 (dc + 8) with
            | (u, g) => match u.ioRead8 (dc + 24) with
              | (u, f) => match g, f with
                | some gatp, some fsc => u.ioByContext r tc gatp fsc
                | _, _ => (u, .error 257) := by
  unfold State.ioTranslate
  rfl

theorem State.net_ioStages (r : DmaReq) (tc gatp atp : Nat) (sum : Bool) : (s.ioStages r tc gatp atp sum).1.net = s.net := by
  unfold State.ioStages
  dsimp only
  generalize hp : s.twoStage _ atp gatp _ = p
  have hnet : p.1.net = s.net := hp ▸ s.net_twoStage rfl atp gatp _
  split <;> exact hnet

theorem State.net_ioByContext (r : DmaReq) (tc gatp fsc : Nat) : (s.ioByContext r tc gatp fsc).1.net = s.net := by
  have hstages := fun (u : State) atp sum => u.net_ioStages r tc gatp atp sum
  have hwalk := fun p => s.net_pdtWalk fsc gatp (bitAt tc 7) p
  unfold State.ioByContext
  grind

@[simp] theorem State.net_ioTranslate (r : DmaReq) : (s.ioTranslate r).1.net = s.net := by
  have hread := fun (u : State) a => u.net_ioRead8 a
  have hdir := s.net_ddtWalk r.dev
  have hcontext := fun (u : State) tc gatp fsc => u.net_ioByContext r tc gatp fsc
  rw [State.ioTranslate_eq]
  grind

/-! ### Faults and writes (R307, R308, R377) -/

theorem State.net_ioReg {a : Nat} (v : Nat) (h : 0x46000000 ≤ a) : (s.wr a v).net = s.net := s.net_wr v (.inr h)

@[simp] theorem State.net_ioWriteAll (a : Nat) (bs : List Byte) : (s.ioWriteAll a bs).1.net = s.net := by
  unfold State.ioWriteAll
  split <;> simp

@[simp] theorem State.net_ioFault (r : DmaReq) (cause iotval2 : Nat) : (s.ioFault r cause iotval2).net = s.net := by
  have hio : 0x46000000 ≤ ioIpsr ∧ 0x46000000 ≤ ioFqcsr ∧ 0x46000000 ≤ ioFqt := by decide
  obtain ⟨hip, hcsr, htail⟩ := hio
  unfold State.ioFault
  dsimp only
  repeat' split
  all_goals simp [State.net_ioReg, hip, hcsr, htail]

@[simp] theorem State.net_dmaAddr (w : World) (src : Nat) (r : DmaReq) : (s.dmaAddr w src r).1.net = s.net := by
  unfold State.dmaAddr
  dsimp only
  split
  · exact s.net_sherd ..
  generalize hp : (if w == .secure && s.owner HST 1 == .normal then (s, Except.ok r.iova) else s.ioTranslate r) = p
  have hnet : p.1.net = s.net := by
    rw [← hp]
    split
    · rfl
    · exact s.net_ioTranslate r
  split
  · exact (State.net_ioFault ..).trans hnet
  · next u pa =>
    refine Eq.trans ?_ hnet
    repeat' split
    all_goals simp

theorem State.net_dmaWrite (w : World) (src dev fuel iova : Nat) (bs : List Byte) : (s.dmaWrite w src dev fuel iova bs).1.net = s.net := by
  induction fuel generalizing s iova bs with
  | zero => rfl
  | succ fuel ih =>
    have haddr := s.net_dmaAddr w src ⟨dev, none, true, iova⟩
    unfold State.dmaWrite
    split
    · rfl
    · dsimp only
      split
      · next heq => exact State.net_beside heq haddr
      · next u pa heq =>
        have hu := State.net_beside heq haddr
        split
        · exact (u.net_ioFault ..).trans hu
        · exact (ih ..).trans ((u.net_memWrite ..).trans hu)

end

end Sys2Proof.Machine
end

section
/-! What events, interrupts and the completion of a wheel entry leave of the switch, the ports and the camera links (R123 to R125, R204, R248,
R506). -/

namespace Sys2Proof.Machine

open Sys2Proof

/-! ### Events of a port (R248, R506) -/

/-- Counters are registers. -/
theorem State.portCount_regs (s : State) (p i k : Nat) : ∃ r, s.portCount p i k = { s with regs := r } := by
  unfold State.portCount State.pmuCount
  split
  · exact ⟨s.regs, rfl⟩
  · exact State.pmuCarry_regs ..

@[simp] theorem State.sw_portCount (s : State) (p i k : Nat) : (s.portCount p i k).sw = s.sw := by
  obtain ⟨r, hr⟩ := s.portCount_regs p i k
  rw [hr]

@[simp] theorem State.cap_portCount (s : State) (p i k : Nat) : (s.portCount p i k).cap = s.cap := by
  obtain ⟨r, hr⟩ := s.portCount_regs p i k
  rw [hr]

/-- The counters of the ports stand in the last sixteenth of each block's window (R515). -/
theorem State.rd_portCount (s : State) (p : Nat) {i : Nat} (hi : i < 32) (n : Nat) {k : Nat} (hk : k % 0x10000 < 0xF000) :
    (s.portCount p i n).rd k = s.rd k := by
  have hN : pmuN (.page (pmuPortBase p)) = 32 := by
    have hne : (pmuPortBase p == pmuMemBase) = false := beq_eq_false_iff_ne.mpr (by simp only [pmuPortBase, pmuMemBase]; omega)
    have hlt : ¬ pmuPortBase p < pmuMemBase := by simp only [pmuPortBase, pmuMemBase]; omega
    rw [pmuN, hne, if_neg Bool.false_ne_true, if_neg hlt]
  refine (SliceKept.pmuCount (K := fun k => k % 0x10000 < 0xF000) (fun j hj => ?_) s n (hN ▸ hi)).reg k hk
  rw [hN] at hj
  simp only [pmuCnt, pmuOvf, PMU_CNT_COUNT, PMU_CNT, PMU_OVF, pmuPortBase]
  omega

theorem State.get_portCount (s : State) (p : Nat) {i : Nat} (hi : i < 32) (n : Nat) {f : Fld} (hf : f.reg % 0x10000 < 0xF000) :
    (s.portCount p i n).get f = s.get f := by
  rw [State.get, State.rd_portCount s p hi n hf, State.get]

theorem State.on_portCount (s : State) (p : Nat) {i : Nat} (hi : i < 32) (n : Nat) {f : Fld} (hf : f.reg % 0x10000 < 0xF000) :
    (s.portCount p i n).on f = s.on f := by
  rw [State.on, State.get_portCount s p hi n hf, State.on]

/-! ### Interrupts and the wheel (R123 to R125, R204) -/

/-- Registers of NET's blocks and of the camera links that are not where, at the same distance, a slice's registers of the wheel stand, and not in
the pages of counters. -/
def wireReg (k : Nat) : Prop := 0x45000000 ≤ k ∧ k < 0x46200000 ∧ k % 0x40 ≠ 0x08 ∧ k % 0x40 ≠ 0x30 ∧ k % 0x10000 < 0xF000

theorem wireReg.beforeCounters {k : Nat} (h : wireReg k) : k % 0x10000 < 0xF000 := by
  obtain ⟨-, -, -, -, h⟩ := h
  exact h

/-- From `s` to `t` nothing of the switch and its links changed, and no register of `wireReg`. -/
structure WireKept (s t : State) : Prop where
  sw : t.sw = s.sw
  reg : ∀ k, wireReg k → t.rd k = s.rd k

section
variable {s t u : State}

theorem WireKept.refl (s : State) : WireKept s s := ⟨rfl, fun _ _ => rfl⟩

theorem WireKept.trans (h : WireKept s t) (g : WireKept t u) : WireKept s u :=
  ⟨g.sw.trans h.sw, fun k hk => (g.reg k hk).trans (h.reg k hk)⟩

theorem WireKept.put (s : State) {f : Fld} (v : Nat) (hf : ¬ wireReg f.reg) : WireKept s (s.put f v) :=
  ⟨rfl, fun _ hk => State.rd_put_ne s v fun e => hf (e ▸ hk)⟩

theorem WireKept.when (s : State) (c : Bool) {f : State → State} (hf : WireKept s (f s)) : WireKept s (s.when c f) := by
  cases c
  · exact .refl s
  · exact hf

theorem WireKept.get (h : WireKept s t) {f : Fld} (hf : wireReg f.reg) : t.get f = s.get f := by
  rw [State.get, h.reg _ hf, State.get]

theorem WireKept.on (h : WireKept s t) {f : Fld} (hf : wireReg f.reg) : t.on f = s.on f := by
  rw [State.on, h.get hf, State.on]

theorem alertRegs_beside {k : Nat} (hk : k ∈ alertRegs) : ¬ wireReg k := by
  have hplace : ∀ k ∈ alertRegs, k < 0x45000000 ∨ 0x46200000 ≤ k := by decide
  have := hplace k hk
  simp only [wireReg]
  omega

theorem Alerted.wireKept (h : Alerted s t) (hs : t.sw = s.sw) : WireKept s t :=
  ⟨hs, fun _ hk => h.reg _ fun ha => alertRegs_beside ha hk⟩

theorem LogOnly.wireKept (h : LogOnly s t) : WireKept s t := h.alerted.wireKept (by rw [h.rest])

end

theorem State.sw_irqWake (s : State) (h : Nat) : (s.irqWake h).sw = s.sw := by rw [(s.irqWake_woken h).rest]

theorem State.sw_noteArrival (s : State) (h f e : Nat) : (s.noteArrival h f e).sw = s.sw := by
  unfold State.noteArrival
  dsimp only
  split <;> rfl

theorem State.sw_msiTo (s : State) (w : World) (src h f e : Nat) : (s.msiTo w src h f e).1.sw = s.sw := by
  rcases s.msiTo_cases w src h f e with hlog | hfile | ⟨n, -, hline⟩
  · exact hlog.wireKept.sw
  · rw [hfile, State.fileArrive, State.sw_irqWake, State.sw_noteArrival]
    rfl
  · rw [hline, State.lineArrive, State.sw_irqWake, State.sw_raise]

theorem WireKept.vecSend (s : State) (w : World) (src vec : Nat) : WireKept s (s.vecSend w src vec).1 := by
  refine (Alerted.vecSend s w src vec).wireKept ?_
  unfold State.vecSend
  dsimp only
  split
  · rfl
  split
  · exact (LogOnly.sherd ..).wireKept.sw
  · exact State.sw_msiTo ..

theorem twhIrqStatus_beside (n : Nat) : ¬ wireReg (TWH_S_IRQ_STATUS n) ∧ ∀ w : World, ¬ wireReg (TWH_W_IRQ_STATUS (worldNum w)) := by
  refine ⟨?_, fun w => ?_⟩
  · simp only [wireReg, TWH_S_IRQ_STATUS]
    omega
  · cases w <;> simp [wireReg, TWH_W_IRQ_STATUS, worldNum]

/-- The vector of a slice's wheel interrupts is not the one whose messages are counted. -/
theorem WireKept.wheelIrq (s : State) (o : WOwner) (b : Nat) : WireKept s (s.wheelIrq o b) := by
  unfold State.wheelIrq
  split
  · next n heq =>
    have hvec : (CSL_VEC_WHEEL n == CSL_VEC_COMPL n) = false := beq_eq_false_iff_ne.mpr (by simp only [CSL_VEC_WHEEL, CSL_VEC_COMPL]; omega)
    have hraise : WireKept s (s.raise ⟨TWH_S_IRQ_STATUS n, 0, 6⟩ (2 ^ b)) := .put s _ (twhIrqStatus_beside n).1
    unfold State.sliceVec
    dsimp only
    split
    · rw [hvec, Bool.and_false, State.when_false]
      exact hraise.trans (.vecSend ..)
    · exact hraise
  · exact .put s _ ((twhIrqStatus_beside 0).2 _)

theorem WireKept.wheelFree (s : State) (i : Nat) : WireKept s (s.wheelFree i) := by
  have hused (o : WOwner) : ¬ wireReg (wUsed o).reg := by
    obtain ⟨w, n⟩ := o
    cases n with
    | none => cases w <;> simp [wUsed, wireReg, TWH_W_POOL_USED, TWH_W_POOL, worldNum]
    | some n =>
      simp only [wUsed, wireReg, TWH_S_USED_USED, TWH_S_USED]
      omega
  unfold State.wheelFree
  dsimp only
  split
  · exact .refl s
  · exact (WireKept.put s _ (hused _)).trans ⟨rfl, fun _ _ => rfl⟩

theorem WireKept.wheelPost (s : State) (i : Nat) : WireKept s (s.wheelPost i) := by
  unfold State.wheelPost
  dsimp only
  split
  · exact .wheelFree ..
  · exact .when _ _ (.wheelIrq ..)

/-- The completion of an entry that was not missed is the wheel's, the ledger's and its owner's. -/
theorem WireKept.wheelFinish (s : State) (i : Nat) (st : Status) (t : Nat) : WireKept s (s.wheelFinish i st false t) := by
  have hset (e : WEntry) : WireKept s (s.setWent i e).horizonCount :=
    (show WireKept s (s.setWent i e) from ⟨rfl, fun _ _ => rfl⟩).trans (.put _ _ (by simp [wireReg, TWH_HORIZON_USED, TWH_HORIZON]))
  unfold State.wheelFinish
  dsimp only
  rw [State.when_false]
  exact ((hset _).trans (.when _ _ (LogOnly.ofLdg (.accept ..)).wireKept)).trans (.wheelPost ..)

end Sys2Proof.Machine
end

section
/-! Egress of a switch port: the choice of the next frame and the end of one, the position in the gate control list, a change of the list and
its effect (R221, R222, R226, R227, R229, R233). -/

namespace Sys2Proof.Machine

open Sys2Proof

/-! ### Queues, transmission and credits -/

section
variable (s : State) (p q : Nat)

@[simp] theorem State.queue_setQueue (l : List QFrame) : (s.setQueue p q l).queue p q = l := tabGet_tabSet_self ..

theorem State.queue_setQueue_ne {k : Nat} (l : List QFrame) (h : k ≠ q) : (s.setQueue p q l).queue p k = s.queue p k :=
  tabGet_tabSet_ne _ _ _ (by omega)

@[simp] theorem State.txOf_setQueue (l : List QFrame) : (s.setQueue p q l).txOf p = s.txOf p := rfl

@[simp] theorem State.txOf_setTx (x : Option TxFrame) : (s.setTx p x).txOf p = x := tabGet_tabSet_self ..

@[simp] theorem State.queue_setTx (x : Option TxFrame) : (s.setTx p x).queue p q = s.queue p q := rfl

/-- The credits are the switch's own. -/
theorem State.creditUp_eq : ∃ c, s.creditUp p = { s with sw := { s.sw with credit := c } } :=
  State.each_keeps (P := fun t => ∃ c, t = { s with sw := { s.sw with credit := c } }) _ ⟨_, rfl⟩ fun q _ t ⟨c, ht⟩ => by
    subst ht
    split <;> exact ⟨_, rfl⟩

@[simp] theorem State.queue_creditUp : (s.creditUp p).queue p q = s.queue p q := by
  obtain ⟨c, hc⟩ := s.creditUp_eq p
  rw [hc]
  rfl

@[simp] theorem State.regs_creditUp : (s.creditUp p).regs = s.regs := by
  obtain ⟨c, hc⟩ := s.creditUp_eq p
  rw [hc]

@[simp] theorem State.get_creditUp (f : Fld) : (s.creditUp p).get f = s.get f := by
  unfold State.get State.rd
  rw [State.regs_creditUp]

/-- The next frame of a queue becomes its head. -/
theorem State.dequeue_cons {s : State} {p q : Nat} {f : QFrame} {r : List QFrame} (h : s.queue p q = f :: r) :
    ∃ l, s.dequeue p q = s.setQueue p q l ∧ l.length = r.length := by
  unfold State.dequeue
  rw [h, List.drop_one, List.tail_cons]
  split
  · exact ⟨[], rfl, rfl⟩
  · exact ⟨_, rfl, rfl⟩

end

/-- The last number of a range that meets a condition. -/
theorem find?_reverse_range {n q : Nat} {c : Nat → Bool} (hq : q < n) (h : c q = true) (ho : ∀ k, q < k → k < n → c k = false) :
    (List.range n).reverse.find? c = some q := by
  rw [List.find?_eq_some_iff_getElem]
  refine ⟨h, n - 1 - q, ?_, ?_, fun j hj => ?_⟩
  · rw [List.length_reverse, List.length_range]
    omega
  · rw [List.getElem_reverse, List.getElem_range, List.length_range]
    omega
  · rw [List.getElem_reverse, List.getElem_range, List.length_range, ho _ (by omega) (by omega)]
    rfl

/-! ### The choice of the next frame (R221, R222) -/

theorem exec_egressSelect (p : EthPort) (phase : Fin 8) (s : State) : exec (.egressSelect p phase) s =
    .next (if s.portUp p.val && (s.txOf p.val).isNone && !s.hovBusy NET (0x10 + p.val) then s.egressStart p.val phase.val else s) := rfl

/-- With no launched frame waiting, the head of the highest eligible queue goes into transmission. -/
theorem State.egressStart_queued {s : State} {p q : Nat} {f : QFrame} {r : List QFrame} (phase : Nat)
    (hrel : ∀ k ∈ s.sw.released, k.parked.port ≠ p) (hq : q < 8) (hf : s.queue p q = f :: r) (he : (s.creditUp p).eligible p q = true)
    (ho : ∀ k, q < k → k < 8 → (s.creditUp p).eligible p k = false) :
    s.egressStart p phase = ((s.creditUp p).setTx p (some ⟨f, q, s.stampIn 0 phase, none⟩)).dequeue p q := by
  have hnone : (s.creditUp p).sw.released.find? (fun r => r.parked.port == p) = none := by
    obtain ⟨c, hc⟩ := s.creditUp_eq p
    rw [hc]
    exact List.find?_eq_none.mpr fun k hk => by simpa using hrel k hk
  have hstamp : (s.creditUp p).stampIn 0 phase = s.stampIn 0 phase := by
    obtain ⟨c, hc⟩ := s.creditUp_eq p
    rw [hc]
    rfl
  unfold State.egressStart
  simp only [hnone, find?_reverse_range (c := fun k => (s.creditUp p).eligible p k) hq he ho, State.queue_creditUp, hf, hstamp]

theorem egressSelect_starts {p : EthPort} {phase : Fin 8} {s : State} {q : Nat} {f : QFrame} {r : List QFrame} (hup : s.portUp p.val = true)
    (htx : s.txOf p.val = none) (hhov : s.hovBusy NET (0x10 + p.val) = false) (hrel : ∀ k ∈ s.sw.released, k.parked.port ≠ p.val) (hq : q < 8)
    (hf : s.queue p.val q = f :: r) (he : (s.creditUp p.val).eligible p.val q = true)
    (ho : ∀ k, q < k → k < 8 → (s.creditUp p.val).eligible p.val k = false) :
    Completes (.egressSelect p phase) s fun t => t.txOf p.val = some ⟨f, q, s.stampIn 0 phase.val, none⟩ ∧
      (t.queue p.val q).length = r.length ∧ ∀ k < 8, k ≠ q → t.queue p.val k = s.queue p.val k := by
  have hcond : (s.portUp p.val && (s.txOf p.val).isNone && !s.hovBusy NET (0x10 + p.val)) = true := by rw [hup, htx, hhov]; rfl
  have hhead : ((s.creditUp p.val).setTx p.val (some ⟨f, q, s.stampIn 0 phase.val, none⟩)).queue p.val q = f :: r := by
    rw [State.queue_setTx, State.queue_creditUp, hf]
  obtain ⟨l, hdeq, hlen⟩ := State.dequeue_cons hhead
  refine .of (exec_egressSelect ..) ?_
  rw [if_pos hcond, State.egressStart_queued phase.val hrel hq hf he ho, hdeq]
  refine ⟨?_, ?_, fun k _ hk => ?_⟩
  · rw [State.txOf_setQueue, State.txOf_setTx]
  · rw [State.queue_setQueue, hlen]
  · rw [State.queue_setQueue_ne _ _ _ _ hk, State.queue_setTx, State.queue_creditUp]

/-! ### The end of a frame (R233) -/

theorem exec_frameTransmitEnd (p : EthPort) (s : State) : exec (.frameTransmitEnd p) s = .next (s.egressEnd p.val) := rfl

@[simp] theorem State.injDone_none (s : State) (p : Nat) (st : Status) (un : Bool) (stamp : Option Stamp) : s.injDone p none st un stamp = s := rfl

/-- A frame of a descriptor waits for its write-back. -/
theorem State.sw_injDone_some (s : State) (p : Nat) (ref : InjRef) (st : Status) (un : Bool) (stamp : Option Stamp) :
    (s.injDone p (some ref) st un stamp).sw = { s.sw with done := s.sw.done ++ [⟨ref, st, un, stamp⟩] } := by
  unfold State.injDone State.when
  dsimp only
  split
  · rw [State.sw_portCount]
  · rfl

/-- Whatever completes, the switch changes in its completions alone. -/
theorem State.sw_injDone (s : State) (p : Nat) (ref : Option InjRef) (st : Status) (un : Bool) (stamp : Option Stamp) :
    ∃ l, (s.injDone p ref st un stamp).sw = { s.sw with done := l } := by
  cases ref with
  | none => exact ⟨s.sw.done, rfl⟩
  | some r => exact ⟨_, s.sw_injDone_some p r st un stamp⟩

theorem State.rd_injDone (s : State) (p : Nat) (ref : Option InjRef) (st : Status) (un : Bool) (stamp : Option Stamp) {k : Nat}
    (hk : k % 0x10000 < 0xF000) : (s.injDone p ref st un stamp).rd k = s.rd k := by
  cases ref with
  | none => rfl
  | some r =>
    unfold State.injDone State.when
    dsimp only
    split
    · exact State.rd_portCount _ p (by decide) 1 hk
    · rfl

theorem State.get_injDone (s : State) (p : Nat) (ref : Option InjRef) (st : Status) (un : Bool) (stamp : Option Stamp) {f : Fld}
    (hf : f.reg % 0x10000 < 0xF000) : (s.injDone p ref st un stamp).get f = s.get f := by
  rw [State.get, State.rd_injDone _ _ _ _ _ _ hf, State.get]

theorem frameTransmitEnd_completes {p : EthPort} {s : State} {x : TxFrame} (hx : s.txOf p.val = some x) :
    Completes (.frameTransmitEnd p) s fun t => t.txOf p.val = none ∧ (x.frame.inj = none → t.sw.done = s.sw.done) ∧
      ∀ ref, x.frame.inj = some ref → t.sw.done = s.sw.done ++ [⟨ref, .ok, false, some x.stamp⟩] := by
  obtain ⟨c, hc⟩ := s.creditUp_eq p.val
  obtain ⟨u, hu⟩ : ∃ u, u = (((((s.creditUp p.val).setTx p.val none).portCount p.val 2 1).portCount p.val 3 ((x.frame.len + 63) / 64)).portCount
      p.val (8 + x.queue) 1) := ⟨_, rfl⟩
  have hsw : u.sw = ((s.creditUp p.val).setTx p.val none).sw := by
    rw [hu, State.sw_portCount, State.sw_portCount, State.sw_portCount]
  have htx : u.txOf p.val = none := by rw [State.txOf, hsw]; exact State.txOf_setTx ..
  have hdone : u.sw.done = s.sw.done := by rw [hsw, hc]; rfl
  have hend : s.egressEnd p.val = u.injDone p.val x.frame.inj .ok false (some x.stamp) := by
    unfold State.egressEnd
    rw [hx, hu]
  refine .of (exec_frameTransmitEnd ..) ?_
  rw [hend]
  refine ⟨?_, fun hn => ?_, fun ref hr => ?_⟩
  · obtain ⟨l, hl⟩ := u.sw_injDone p.val x.frame.inj .ok false (some x.stamp)
    rw [State.txOf, hl]
    exact htx
  · rw [hn, State.injDone_none, hdone]
  · rw [hr, State.sw_injDone_some, hdone]

/-! ### The position in the list (R226, R228) -/

theorem exec_gclEntryAdvance (p : PtpPort) (s : State) : exec (.gclEntryAdvance p) s =
    .next (if s.opens NET (0x10 + p.val) then (s.gclMove p.val).gateOverrun p.val else s) := rfl

theorem gclPos_fits (p : Nat) : (PORT_GCL_POS_ENTRY p).fits := by simp [Fld.fits, PORT_GCL_POS_ENTRY]

theorem State.gateAt_creditUp (s : State) (p t : Nat) : (s.creditUp p).gateAt p t = s.gateAt p t := by
  obtain ⟨c, hc⟩ := s.creditUp_eq p
  rw [hc]
  rfl

theorem State.gclNow_creditUp (s : State) (p : Nat) : (s.creditUp p).gclNow p = s.gclNow p := by
  obtain ⟨c, hc⟩ := s.creditUp_eq p
  rw [hc]
  rfl

/-- The credits come up to date and the position is stored. -/
theorem State.gclMove_eq (s : State) (p : Nat) : s.gclMove p = (s.creditUp p).put (PORT_GCL_POS_ENTRY p) (s.gateAt p (s.gclNow p)).1 := by
  rw [State.gclMove, State.gateAt_creditUp, State.gclNow_creditUp]

theorem State.gcls_creditUp (s : State) (p : Nat) : (s.creditUp p).sw.gcl = s.sw.gcl := by
  obtain ⟨c, hc⟩ := s.creditUp_eq p
  rw [hc]

theorem State.gcls_gclMove (s : State) (p : Nat) : (s.gclMove p).sw.gcl = s.sw.gcl := s.gcls_creditUp p

theorem State.get_gclMove (s : State) (p : Nat) {f : Fld} (hf : f.reg ≠ PORT_GCL_POS p) : (s.gclMove p).get f = s.get f := by
  rw [State.gclMove_eq, State.get_put_ne _ _ hf, State.get_creditUp]

theorem State.on_gclMove (s : State) (p : Nat) {f : Fld} (hf : f.reg ≠ PORT_GCL_POS p) : (s.gclMove p).on f = s.on f := by
  rw [State.on, State.get_gclMove s p hf, State.on]

theorem State.dequeue_eq (s : State) (p q : Nat) : ∃ l, s.dequeue p q = s.setQueue p q l := by
  unfold State.dequeue
  split
  · exact ⟨_, rfl⟩
  · exact ⟨_, rfl⟩

/-- A head that is dropped leaves the list and its position. -/
theorem State.overrun_keeps (s : State) (p q : Nat) (f : QFrame) :
    let t := (((s.dequeue p q).portCount p 16 1).raise (PORT_IRQ_STATUS_OVERRUN p) 1).injDone p f.inj .ok false none
    t.get (PORT_GCL_POS_ENTRY p) = s.get (PORT_GCL_POS_ENTRY p) ∧ t.sw.gcl = s.sw.gcl := by
  have hplace : (PORT_GCL_POS_ENTRY p).reg % 0x10000 < 0xF000 := by simp only [PORT_GCL_POS_ENTRY, PORT_GCL_POS]; omega
  have hirq : (PORT_GCL_POS_ENTRY p).reg ≠ (PORT_IRQ_STATUS_OVERRUN p).reg := by
    simp only [PORT_GCL_POS_ENTRY, PORT_GCL_POS, PORT_IRQ_STATUS_OVERRUN, PORT_IRQ_STATUS]
    omega
  obtain ⟨l, hl⟩ := s.dequeue_eq p q
  dsimp only
  constructor
  · rw [State.get_injDone _ _ _ _ _ _ hplace, State.raise, State.get_put_ne _ _ hirq, State.get_portCount _ p (by decide) 1 hplace, hl]
    rfl
  · obtain ⟨d, hd⟩ := (((s.dequeue p q).portCount p 16 1).raise (PORT_IRQ_STATUS_OVERRUN p) 1).sw_injDone p f.inj .ok false none
    rw [hd, State.sw_raise, State.sw_portCount, hl]
    rfl

theorem State.gateOverrun_keeps (s : State) (p : Nat) :
    ((s.gateOverrun p).get (PORT_GCL_POS_ENTRY p), (s.gateOverrun p).sw.gcl) = (s.get (PORT_GCL_POS_ENTRY p), s.sw.gcl) := by
  unfold State.gateOverrun
  split
  · rfl
  · refine State.each_same (fun t => (t.get (PORT_GCL_POS_ENTRY p), t.sw.gcl)) _ (fun q _ t => ?_) s
    split
    · rfl
    · next f r hq =>
      split
      · obtain ⟨hpos, hgcl⟩ := t.overrun_keeps p q f
        exact Prod.ext hpos hgcl
      · rfl

theorem gclEntryAdvance_follows {p : PtpPort} {s : State} (ho : s.opens NET (0x10 + p.val) = true) : Completes (.gclEntryAdvance p) s fun t =>
    t.get (PORT_GCL_POS_ENTRY p.val) = (s.gateAt p.val (s.gclNow p.val)).1 % 2 ^ 8 ∧ t.sw.gcl = s.sw.gcl := by
  obtain ⟨hpos, hgcl⟩ := Prod.mk.inj ((s.gclMove p.val).gateOverrun_keeps p.val)
  refine .of (exec_gclEntryAdvance ..) ?_
  rw [if_pos ho, hpos, hgcl, State.gcls_gclMove, State.gclMove_eq]
  exact ⟨State.get_put_self _ _ (gclPos_fits p.val), rfl⟩

/-! ### A change of the list (R227) -/

theorem exec_gclChange (a : Agent) (p : PtpPort) (s : State) : exec (.gclChange a p) s =
    .next (s.regAccess a true (PORT_GCL_CTL p.val) 4 (fun t => t.gclChange p.val)) := rfl

/-- The list written for port `p` can be put in force: its length, its cycle and each of its entries (R226, R227). -/
def State.gclGood (s : State) (p : Nat) : Prop :=
  0 < s.get (PORT_GCL_CTL_LEN p) ∧ s.get (PORT_GCL_CTL_LEN p) ≤ 256 ∧ 0 < s.get (PORT_GCL_CYCLE_NS p) ∧
    ∀ i < s.get (PORT_GCL_CTL_LEN p), 32 ≤ s.get (PORT_GCL_ADMINENT_ENTRY p i) / 256

/-- The first condition of the change's table. -/
theorem State.gclGood_iff (s : State) (p : Nat) : (s.get (PORT_GCL_CTL_LEN p) == 0 || decide (256 < s.get (PORT_GCL_CTL_LEN p)) ||
    s.get (PORT_GCL_CYCLE_NS p) == 0 ||
    (List.range (s.get (PORT_GCL_CTL_LEN p))).any fun i => decide (s.get (PORT_GCL_ADMINENT_ENTRY p i) / 256 < 32)) = false ↔ s.gclGood p := by
  simp only [State.gclGood, Bool.or_eq_false_iff, beq_eq_false_iff_ne, decide_eq_false_iff_not, List.any_eq_false, List.mem_range, decide_eq_true_eq,
    Nat.not_lt, Nat.pos_iff_ne_zero, and_assoc]

/-- The table of a change. -/
def State.gclJudge (s : State) (p : Nat) : Status :=
  firstThat [(s.get (PORT_GCL_CTL_LEN p) == 0 || decide (256 < s.get (PORT_GCL_CTL_LEN p)) || s.get (PORT_GCL_CYCLE_NS p) == 0 ||
      (List.range (s.get (PORT_GCL_CTL_LEN p))).any fun i => decide (s.get (PORT_GCL_ADMINENT_ENTRY p i) / 256 < 32), .denied),
    (!s.domEnabled (s.get (PORT_GCL_CTL_DOM p)), .unavailable), (s.on (PORT_GCL_CTL_PENDING p), .unavailable)] .ok

theorem State.gclJudge_bad {s : State} {p : Nat} (h : ¬ s.gclGood p) : s.gclJudge p = .denied :=
  if_pos (Bool.not_eq_false _ ▸ mt (s.gclGood_iff p).mp h)

theorem State.gclJudge_good {s : State} {p : Nat} (h : s.gclGood p) :
    s.gclJudge p = if s.domEnabled (s.get (PORT_GCL_CTL_DOM p)) && !s.on (PORT_GCL_CTL_PENDING p) then .ok else .unavailable := by
  unfold State.gclJudge
  rw [(s.gclGood_iff p).mpr h]
  cases s.domEnabled (s.get (PORT_GCL_CTL_DOM p)) <;> cases s.on (PORT_GCL_CTL_PENDING p) <;> rfl

theorem State.gclChange_refused {s : State} {p : Nat} (h : s.gclJudge p ≠ .ok) :
    s.gclChange p = s.res (PORT_GCL_CTL_RESULT p) (s.gclJudge p) := if_pos (bne_iff_ne.mpr h)

/-- The list that a change of `s` at port `p` leaves pending. -/
def State.gclPending (s : State) (p : Nat) : GclSt :=
  let base := s.get (PORT_GCL_BASE_VT p)
  let cycle := s.get (PORT_GCL_CYCLE_NS p)
  let d := s.get (PORT_GCL_CTL_DOM p)
  { s.gcl p with pend := some (firstCycle base cycle (s.vt d + 2000), s.get (PORT_GCL_CYCLE_EXT p), d, base, cycle, s.get (PORT_GCL_CTL_LEN p)) }

theorem State.gclChange_taken {s : State} {p : Nat} (h : s.gclJudge p = .ok) :
    s.gclChange p = ((s.res (PORT_GCL_CTL_RESULT p) .ok).setGcl p (s.gclPending p)).put (PORT_GCL_CTL_PENDING p) 1 := by
  have hres (f : Fld) (hf : f.reg ≠ PORT_GCL_CTL p) : (s.res (PORT_GCL_CTL_RESULT p) .ok).get f = s.get f := State.get_res_ne _ _ hf
  have hbase := hres (PORT_GCL_BASE_VT p) (by simp only [PORT_GCL_BASE_VT, PORT_GCL_BASE, PORT_GCL_CTL]; omega)
  have hext := hres (PORT_GCL_CYCLE_EXT p) (by simp only [PORT_GCL_CYCLE_EXT, PORT_GCL_CYCLE, PORT_GCL_CTL]; omega)
  unfold State.gclJudge at h
  unfold State.gclChange
  dsimp only
  rw [h, if_neg (by decide), hbase, hext]
  rfl

theorem gclCtl_fits (p : Nat) : (PORT_GCL_CTL_RESULT p).fits ∧ (PORT_GCL_CTL_PENDING p).fits := by
  simp [Fld.fits, PORT_GCL_CTL_RESULT, PORT_GCL_CTL_PENDING]

theorem gclCtl_apart (p : Nat) : (PORT_GCL_CTL_RESULT p).apart (PORT_GCL_CTL_PENDING p) := by
  simp [Fld.apart, PORT_GCL_CTL_RESULT, PORT_GCL_CTL_PENDING]

theorem portReg_dap {k : Nat} (p : Nat) (h : k < 0x45110000 + 0x10000 * p) (hp : p < 19) : k ≠ DAP_STATUS := by
  simp only [DAP_STATUS]
  omega

@[simp] theorem State.gcl_put (s : State) (f : Fld) (v p : Nat) : (s.put f v).gcl p = s.gcl p := rfl

theorem State.gcl_gclMove (s : State) (p q : Nat) : (s.gclMove p).gcl q = s.gcl q := by
  rw [State.gcl, State.gcls_gclMove, State.gcl]

@[simp] theorem State.get_setGcl (s : State) (p : Nat) (g : GclSt) (f : Fld) : (s.setGcl p g).get f = s.get f := rfl

@[simp] theorem State.gcl_setGcl (s : State) (p : Nat) (g : GclSt) : (s.setGcl p g).gcl p = g := tabGet_tabSet_self ..

/-- The first cycle of a list that begins no earlier than `t`. -/
theorem firstCycle_spec (base t : Nat) {cycle : Nat} (hc : 0 < cycle) :
    ∃ n, firstCycle base cycle t = base + n * cycle ∧ t ≤ firstCycle base cycle t := by
  unfold firstCycle
  split
  · next h => exact ⟨0, by omega, h⟩
  · next h =>
    refine ⟨_, rfl, ?_⟩
    have hdiv := Nat.div_add_mod (t - base + cycle - 1) cycle
    have hmod := Nat.mod_lt (t - base + cycle - 1) hc
    rw [Nat.mul_comm] at hdiv
    omega

section
variable {a : Agent} {p : PtpPort} {s : State} (hr : s.Reached a true (PORT_GCL_CTL p.val) 4)
include hr

theorem gclChange_takes (hg : s.gclGood p.val) (hd : s.domEnabled (s.get (PORT_GCL_CTL_DOM p.val)) = true)
    (hn : s.on (PORT_GCL_CTL_PENDING p.val) = false) : Completes (.gclChange a p) s fun t =>
      t.get (PORT_GCL_CTL_RESULT p.val) = st8 .ok ∧ t.on (PORT_GCL_CTL_PENDING p.val) = true ∧ (t.gcl p.val).pend = (s.gclPending p.val).pend := by
  obtain ⟨hresult, hpending⟩ := gclCtl_fits p.val
  have hdap : PORT_GCL_CTL p.val ≠ DAP_STATUS := portReg_dap p.val (by simp only [PORT_GCL_CTL]; omega) (by omega)
  have hok : s.gclJudge p.val = .ok := by rw [State.gclJudge_good hg, hd, hn]; rfl
  refine .of (exec_gclChange ..) ?_
  rw [State.regAccess_reached _ hr, State.get_ended (f := PORT_GCL_CTL_RESULT p.val) _ _ hdap,
    State.on_ended (f := PORT_GCL_CTL_PENDING p.val) _ _ hdap, State.gcl, State.sw_ended, ← State.gcl, State.gclChange_taken hok,
    State.get_put_apart _ _ hpending (gclCtl_apart p.val), State.get_setGcl, State.on_put_one _ hpending rfl]
  exact ⟨State.get_res_self _ _ hresult, rfl, by rw [State.gcl_put, State.gcl_setGcl]⟩

theorem gclChange_refuses {st : Status} (hj : s.gclJudge p.val = st) (hst : st ≠ .ok) : Completes (.gclChange a p) s fun t =>
    t.get (PORT_GCL_CTL_RESULT p.val) = st8 st % 2 ^ 8 ∧ t.sw = s.sw := by
  have hdap : PORT_GCL_CTL p.val ≠ DAP_STATUS := portReg_dap p.val (by simp only [PORT_GCL_CTL]; omega) (by omega)
  refine .of (exec_gclChange ..) ?_
  rw [State.regAccess_reached _ hr, State.get_ended (f := PORT_GCL_CTL_RESULT p.val) _ _ hdap, State.sw_ended,
    State.gclChange_refused (hj ▸ hst), hj]
  exact ⟨State.get_res_self _ _ (gclCtl_fits p.val).1, rfl⟩

end

/-! ### A pending list takes effect (R227) -/

theorem exec_gclChangeTakeEffect (p : PtpPort) (s : State) : exec (.gclChangeTakeEffect p) s =
    .next (if s.opens NET (0x10 + p.val) then s.gclTake p.val else s) := rfl

/-- The first `n` entries written, put in force. -/
def State.gclCopied (s : State) (p n : Nat) : State :=
  s.each (List.range n) fun i u => u.put (PORT_GCL_OPERENT_ENTRY p i) (u.get (PORT_GCL_ADMINENT_ENTRY p i))

theorem State.gclCopied_entry (s : State) (p : Nat) {n i : Nat} (hn : n ≤ 256) (hi : i < n) :
    (s.gclCopied p n).get (PORT_GCL_OPERENT_ENTRY p i) = s.get (PORT_GCL_ADMINENT_ENTRY p i) := by
  have hadmin : ∀ j < 256, ∀ k < 256, (PORT_GCL_ADMINENT_ENTRY p j).reg ≠ (PORT_GCL_OPERENT_ENTRY p k).reg := fun j hj k hk => by
    simp only [PORT_GCL_ADMINENT_ENTRY, PORT_GCL_ADMINENT, PORT_GCL_OPERENT_ENTRY, PORT_GCL_OPERENT]
    omega
  refine State.each_once (fun t => t.get (PORT_GCL_ADMINENT_ENTRY p i)) (fun t => t.get (PORT_GCL_OPERENT_ENTRY p i)) s List.nodup_range
    (List.mem_range.mpr hi) (fun t ht => ?_) fun k hk hne t =>
      ⟨State.get_put_ne _ _ (hadmin i (by omega) k (by have := List.mem_range.mp hk; omega)), State.get_put_ne _ _ ?_⟩
  · rw [← ht]
    exact State.get_put_small _ (by simp [Fld.fits, PORT_GCL_OPERENT_ENTRY]) (t.get_lt (PORT_GCL_ADMINENT_ENTRY p i))
  · simp only [PORT_GCL_OPERENT_ENTRY, PORT_GCL_OPERENT]
    omega

theorem State.gclTake_due {s : State} {p at_ ext d base cycle len : Nat} (hpend : (s.gcl p).pend = some (at_, ext, d, base, cycle, len))
    (hdue : at_ ≤ s.vt d) : s.gclTake p =
      ((((((s.creditUp p).gclCopied p 256).setGcl p ⟨d, base, cycle, len, none⟩).put (PORT_GCL_OPER_VT p) at_).put
        (PORT_GCL_CTL_PENDING p) 0)).gclMove p := by
  unfold State.gclTake
  rw [hpend]
  exact if_neg (Nat.not_lt.mpr hdue)

theorem gclChangeTakeEffect_swaps {p : PtpPort} {s : State} {at_ ext d base cycle len : Nat} (ho : s.opens NET (0x10 + p.val) = true)
    (hpend : (s.gcl p.val).pend = some (at_, ext, d, base, cycle, len)) (hdue : at_ ≤ s.vt d) : Completes (.gclChangeTakeEffect p) s fun t =>
      t.gcl p.val = ⟨d, base, cycle, len, none⟩ ∧ t.on (PORT_GCL_CTL_PENDING p.val) = false ∧ t.get (PORT_GCL_OPER_VT p.val) = at_ % 2 ^ 64 ∧
      ∀ i < 256, t.get (PORT_GCL_OPERENT_ENTRY p.val i) = s.get (PORT_GCL_ADMINENT_ENTRY p.val i) := by
  have hctl : (PORT_GCL_CTL_PENDING p.val).reg ≠ PORT_GCL_POS p.val := by
    simp only [PORT_GCL_CTL_PENDING, PORT_GCL_CTL, PORT_GCL_POS]
    omega
  have hoper : (PORT_GCL_OPER_VT p.val).reg ≠ PORT_GCL_POS p.val ∧ (PORT_GCL_OPER_VT p.val).reg ≠ (PORT_GCL_CTL_PENDING p.val).reg := by
    simp only [PORT_GCL_CTL_PENDING, PORT_GCL_CTL, PORT_GCL_POS, PORT_GCL_OPER_VT, PORT_GCL_OPER]
    omega
  have hent (i : Nat) : (PORT_GCL_OPERENT_ENTRY p.val i).reg ≠ PORT_GCL_POS p.val ∧
      (PORT_GCL_OPERENT_ENTRY p.val i).reg ≠ (PORT_GCL_CTL_PENDING p.val).reg ∧
      (PORT_GCL_OPERENT_ENTRY p.val i).reg ≠ (PORT_GCL_OPER_VT p.val).reg := by
    simp only [PORT_GCL_CTL_PENDING, PORT_GCL_CTL, PORT_GCL_POS, PORT_GCL_OPER_VT, PORT_GCL_OPER, PORT_GCL_OPERENT_ENTRY, PORT_GCL_OPERENT]
    omega
  refine .of (exec_gclChangeTakeEffect ..) ?_
  rw [if_pos ho, State.gclTake_due hpend hdue]
  refine ⟨?_, ?_, ?_, fun i hi => ?_⟩
  · rw [State.gcl_gclMove, State.gcl_put, State.gcl_put, State.gcl_setGcl]
  · rw [State.on_gclMove _ p.val (f := PORT_GCL_CTL_PENDING p.val) hctl]
    rw [State.on_put_zero _ (gclCtl_fits p.val).2 rfl]
  · rw [State.get_gclMove _ p.val (f := PORT_GCL_OPER_VT p.val) hoper.1, State.get_put_ne _ _ hoper.2]
    exact State.get_put_self _ _ (by simp [Fld.fits, PORT_GCL_OPER_VT])
  · obtain ⟨hpos, hpending, hvt⟩ := hent i
    rw [State.get_gclMove _ p.val (f := PORT_GCL_OPERENT_ENTRY p.val i) hpos, State.get_put_ne _ _ hpending, State.get_put_ne _ _ hvt,
      State.get_setGcl, State.gclCopied_entry _ _ le_rfl hi, State.get_creditUp]

/-- Settles O22: the choice and the end of a frame change the switch alone, a change of a list the port's registers, and the list in force is
the one that was pending. -/
theorem egressAndGatesComplete : Obligations.EgressAndGatesComplete := by
  refine ⟨fun p phase s q f r => egressSelect_starts, fun p s x => frameTransmitEnd_completes, fun p s => gclEntryAdvance_follows,
    fun a p s hr => ⟨fun hg hd hn => ?_, fun hbad => ?_, fun hg hbusy => ?_⟩, fun p s at_ ext d base cycle len => gclChangeTakeEffect_swaps⟩
  · have ⟨_, _, hcycle, _⟩ := hg
    obtain ⟨n, hat, hlate⟩ := firstCycle_spec (s.get (PORT_GCL_BASE_VT p.val)) (s.vt (s.get (PORT_GCL_CTL_DOM p.val)) + 2000) hcycle
    obtain ⟨t, ht, hresult, hpending, hpend⟩ := gclChange_takes hr hg hd hn
    exact ⟨t, ht, hresult, hpending, _, n, hat, hlate, hpend⟩
  · exact gclChange_refuses hr (State.gclJudge_bad hbad) (by decide)
  · have hjudge : s.gclJudge p.val = .unavailable := by
      rw [State.gclJudge_good hg]
      rcases hbusy with h | h <;> simp [h]
    exact gclChange_refuses hr hjudge (by decide)

end Sys2Proof.Machine
end

section
/-! Links that rise and drop, TC10 sleep and wake, and PoDL classification (R216, R217, R235, R238, R239, R462). -/

namespace Sys2Proof.Machine

open Sys2Proof

/-! ### The fields of a port's status -/

theorem Fld.apart.symm {f g : Fld} (h : f.apart g) : g.apart f := by
  rcases h with h | h | h
  · exact .inl h.symm
  · exact .inr (.inr h)
  · exact .inr (.inl h)

theorem portStatus_fits (p : Nat) : (PORT_STATUS_LINK p).fits ∧ (PORT_STATUS_RATE p).fits ∧ (PORT_STATUS_MASTER p).fits ∧
    (PORT_STATUS_TC10 p).fits := by
  simp [Fld.fits, PORT_STATUS_LINK, PORT_STATUS_RATE, PORT_STATUS_MASTER, PORT_STATUS_TC10]

theorem portLink_apart (p : Nat) : (PORT_STATUS_LINK p).apart (PORT_STATUS_RATE p) ∧ (PORT_STATUS_LINK p).apart (PORT_STATUS_MASTER p) ∧
    (PORT_STATUS_LINK p).apart (PORT_STATUS_TC10 p) := by
  simp [Fld.apart, PORT_STATUS_LINK, PORT_STATUS_RATE, PORT_STATUS_MASTER, PORT_STATUS_TC10]

theorem portRate_apart (p : Nat) : (PORT_STATUS_RATE p).apart (PORT_STATUS_MASTER p) ∧ (PORT_STATUS_RATE p).apart (PORT_STATUS_TC10 p) ∧
    (PORT_STATUS_TC10 p).apart (PORT_STATUS_MASTER p) := by
  simp [Fld.apart, PORT_STATUS_RATE, PORT_STATUS_MASTER, PORT_STATUS_TC10]

theorem portIrq_fits (p : Nat) : (PORT_IRQ_STATUS_LINK p).fits ∧ (PORT_IRQ_STATUS_SLEEPFAIL p).fits ∧ (PORT_IRQ_STATUS_WAKE p).fits ∧
    (PORT_IRQ_STATUS_WAKEFAIL p).fits := by
  simp [Fld.fits, PORT_IRQ_STATUS_LINK, PORT_IRQ_STATUS_SLEEPFAIL, PORT_IRQ_STATUS_WAKE, PORT_IRQ_STATUS_WAKEFAIL]

theorem portStatus_ne_irq (p q : Nat) : PORT_STATUS p ≠ PORT_IRQ_STATUS q := by
  simp only [PORT_STATUS, PORT_IRQ_STATUS]
  omega

theorem portStatus_beforeCounters (p : Nat) : PORT_STATUS p % 0x10000 < 0xF000 ∧ PORT_IRQ_STATUS p % 0x10000 < 0xF000 := by
  simp only [PORT_STATUS, PORT_IRQ_STATUS]
  omega

theorem portStatus_wire {p : Nat} (hp : p < 19) : wireReg (PORT_STATUS p) ∧ wireReg (PORT_IRQ_STATUS p) := by
  simp only [wireReg, PORT_STATUS, PORT_IRQ_STATUS]
  omega

/-! ### A link that rises (R216, R217) -/

theorem exec_linkUp (p : PtpPort) (rate : BitVec 2) (master : Bool) (s : State) : exec (.linkUp p rate master) s =
    .next (s.linkRise p.val rate.toNat master) := rfl

/-- The rate that a link of port `p` comes up with. -/
def State.riseRate (s : State) (p rate : Nat) : Nat :=
  if p < 4 then (if s.on (PORT_CFG_ANEG p) then Nat.min rate 2 else s.get (PORT_CFG_SPEED p)) else 0

/-- What a link that comes up shows, with the rate and the role resolved. -/
def State.risen (s : State) (p rate : Nat) (master : Bool) : State :=
  (((s.put (PORT_STATUS_LINK p) 1).put (PORT_STATUS_RATE p) rate).put (PORT_STATUS_MASTER p) (b2n master)).raise (PORT_IRQ_STATUS_LINK p) 1

section
variable (s : State) (p rate : Nat) (master : Bool)

theorem State.risen_fields : (s.risen p rate master).on (PORT_STATUS_LINK p) = true ∧ (s.risen p rate master).get (PORT_STATUS_RATE p) = rate % 4 ∧
    (s.risen p rate master).get (PORT_STATUS_TC10 p) = s.get (PORT_STATUS_TC10 p) ∧ (s.risen p rate master).on (PORT_IRQ_STATUS_LINK p) = true := by
  obtain ⟨flink, frate, fmaster, -⟩ := portStatus_fits p
  obtain ⟨alr, alm, alt⟩ := portLink_apart p
  obtain ⟨arm, art, atm⟩ := portRate_apart p
  have hne (f : Fld) (hf : f.reg = PORT_STATUS p) (u : State) : (u.raise (PORT_IRQ_STATUS_LINK p) 1).get f = u.get f :=
    State.get_put_ne _ _ (hf ▸ portStatus_ne_irq p p)
  unfold State.risen
  refine ⟨?_, ?_, ?_, State.on_raise_one _ (portIrq_fits p).1 rfl⟩
  · rw [State.on, hne _ rfl, State.get_put_apart _ _ fmaster alm, State.get_put_apart _ _ frate alr]
    exact State.on_put_one s flink rfl
  · rw [hne _ rfl, State.get_put_apart _ _ fmaster arm]
    exact State.get_put_self _ _ frate
  · rw [hne _ rfl, State.get_put_apart _ _ fmaster atm, State.get_put_apart _ _ frate art.symm, State.get_put_apart _ _ flink alt.symm]

/-- A port that was waking is awake once its link is up. -/
theorem State.linkRise_eq {s : State} {p : Nat} (hon : s.tc10On p = true) (hl : s.on (PORT_STATUS_LINK p) = false)
    (ht : s.get (PORT_STATUS_TC10 p) ≠ 2) : ∃ m, s.linkRise p rate master =
      if s.get (PORT_STATUS_TC10 p) = 3 then (s.risen p (s.riseRate p rate) m).put (PORT_STATUS_TC10 p) 0 else s.risen p (s.riseRate p rate) m := by
  refine ⟨if p < 16 then (if s.on (PORT_CFG_ANEG p) then master else s.on (PORT_CFG_MSREQ p)) else false, ?_⟩
  generalize hm : (if p < 16 then (if s.on (PORT_CFG_ANEG p) then master else s.on (PORT_CFG_MSREQ p)) else false) = m
  obtain ⟨-, -, htc, -⟩ := s.risen_fields p (s.riseRate p rate) m
  have hgo : (!s.tc10On p || s.on (PORT_STATUS_LINK p) || s.get (PORT_STATUS_TC10 p) == 2) = false := by
    rw [hon, hl, beq_eq_false_iff_ne.mpr ht]
    rfl
  rw [← htc]
  unfold State.linkRise
  rw [hgo, if_neg Bool.false_ne_true]
  dsimp only
  rw [hm]
  simp only [beq_iff_eq]
  rfl

end

theorem linkUp_rises {p : PtpPort} {rate : BitVec 2} {master : Bool} {s : State} (hon : s.tc10On p.val = true)
    (hl : s.on (PORT_STATUS_LINK p.val) = false) (ht : s.get (PORT_STATUS_TC10 p.val) ≠ 2) : Completes (.linkUp p rate master) s fun t =>
      t.on (PORT_STATUS_LINK p.val) = true ∧
      (s.on (PORT_CFG_ANEG p.val) = false → p.val < 4 → t.get (PORT_STATUS_RATE p.val) = s.get (PORT_CFG_SPEED p.val) % 4) ∧
      (4 ≤ p.val → t.get (PORT_STATUS_RATE p.val) = 0) ∧ t.on (PORT_IRQ_STATUS_LINK p.val) = true ∧ t.get (PORT_STATUS_TC10 p.val) ≠ 3 := by
  obtain ⟨-, -, -, ftc⟩ := portStatus_fits p.val
  obtain ⟨-, -, alt⟩ := portLink_apart p.val
  obtain ⟨-, art, -⟩ := portRate_apart p.val
  obtain ⟨m, hm⟩ := State.linkRise_eq rate.toNat master hon hl ht
  obtain ⟨hlink, hrate, htc, hirq⟩ := s.risen_fields p.val (s.riseRate p.val rate.toNat) m
  have hspeed : s.on (PORT_CFG_ANEG p.val) = false → p.val < 4 → s.riseRate p.val rate.toNat = s.get (PORT_CFG_SPEED p.val) := fun ha h4 => by
    rw [State.riseRate, if_pos h4, ha, if_neg Bool.false_ne_true]
  have hslow : 4 ≤ p.val → s.riseRate p.val rate.toNat = 0 := fun h4 => if_neg (by omega)
  refine .of (exec_linkUp ..) ?_
  rw [hm]
  split
  · rw [State.on_put_apart _ _ ftc alt, State.get_put_apart _ _ ftc art, State.on_put_ne _ _ (portStatus_ne_irq p.val p.val).symm,
      State.get_put_small _ ftc (Nat.two_pow_pos _), hrate]
    exact ⟨hlink, fun ha h4 => by rw [hspeed ha h4], fun h4 => by rw [hslow h4], hirq, by decide⟩
  · next hne =>
    rw [hrate, htc]
    exact ⟨hlink, fun ha h4 => by rw [hspeed ha h4], fun h4 => by rw [hslow h4], hirq, hne⟩

/-! ### A link that drops (R217, R235) -/

/-- Parked frames of the port complete and leave; no register of a port's status changes. -/
theorem State.unparkAll_keeps (s : State) (p : Nat) (st : Status) : (s.unparkAll p st).sw.parked = s.sw.parked.filter (fun k => k.port != p) ∧
    ∀ k, wireReg k → (s.unparkAll p st).rd k = s.rd k := by
  have hdone (u t : State) (ref : Option InjRef) (h : t.sw.parked = u.sw.parked ∧ ∀ k, wireReg k → t.rd k = u.rd k) :
      (t.injDone p ref st false none).sw.parked = u.sw.parked ∧ ∀ k, wireReg k → (t.injDone p ref st false none).rd k = u.rd k := by
    obtain ⟨hp, hr⟩ := h
    obtain ⟨l, hl⟩ := t.sw_injDone p ref st false none
    exact ⟨by rw [hl]; exact hp, fun k hk => (t.rd_injDone p ref st false none hk.beforeCounters).trans (hr k hk)⟩
  unfold State.unparkAll
  dsimp only
  generalize hu : ({ s with sw := { s.sw with
    parked := s.sw.parked.filter (fun k => k.port != p), released := s.sw.released.filter (fun r => r.parked.port != p) } } : State) = u
  have hpark : u.sw.parked = s.sw.parked.filter (fun k => k.port != p) := by rw [← hu]
  have hregs (k : Nat) : u.rd k = s.rd k := by rw [← hu]; rfl
  rw [← hpark]
  simp only [← hregs]
  refine State.each_keeps (P := fun t => t.sw.parked = u.sw.parked ∧ ∀ k, wireReg k → t.rd k = u.rd k) _ ?_ fun k _ t ht => hdone u t _ ht
  refine State.each_keeps (P := fun t => t.sw.parked = u.sw.parked ∧ ∀ k, wireReg k → t.rd k = u.rd k) _ ⟨rfl, fun _ _ => rfl⟩ fun r _ t ht => ?_
  obtain ⟨hp, hr⟩ := hdone u t r.parked.frame.inj ht
  have hwheel := WireKept.wheelFinish (t.injDone p r.parked.frame.inj st false none) r.entry st (t.vt 0)
  exact ⟨by rw [hwheel.sw]; exact hp, fun k hk => (hwheel.reg k hk).trans (hr k hk)⟩

section
variable {s : State} {p : Nat}

/-- What a drop of the link shows. -/
theorem State.linkDrop_fields (hp : p < 19) (hl : s.on (PORT_STATUS_LINK p) = true) :
    (s.linkDrop p).on (PORT_STATUS_LINK p) = false ∧ (s.linkDrop p).on (PORT_IRQ_STATUS_LINK p) = true ∧
      ∀ k ∈ (s.linkDrop p).sw.parked, k.port ≠ p := by
  obtain ⟨wstatus, wirq⟩ := portStatus_wire hp
  obtain ⟨cstatus, cirq⟩ := portStatus_beforeCounters p
  obtain ⟨u, hu⟩ : ∃ u, u = ((s.put (PORT_STATUS_LINK p) 0).raise (PORT_IRQ_STATUS_LINK p) 1).portCount p 29 1 := ⟨_, rfl⟩
  have hdrop : s.linkDrop p = u.unparkAll p .unavailable := by
    unfold State.linkDrop
    rw [hl, hu]
    rfl
  obtain ⟨hparked, hreg⟩ := u.unparkAll_keeps p .unavailable
  have hon (f : Fld) (hf : wireReg f.reg) : (u.unparkAll p .unavailable).on f = u.on f := by
    rw [State.on, State.get, hreg _ hf, State.on, State.get]
  rw [hdrop, hon (PORT_STATUS_LINK p) wstatus, hon (PORT_IRQ_STATUS_LINK p) wirq, hparked, hu]
  refine ⟨?_, ?_, fun k hk => ?_⟩
  · rw [State.on_portCount _ p (by decide) 1 (f := PORT_STATUS_LINK p) cstatus, State.raise,
      State.on_put_ne (f := PORT_IRQ_STATUS_LINK p) (g := PORT_STATUS_LINK p) _ _ (portStatus_ne_irq p p),
      State.on_put_zero _ (portStatus_fits p).1 rfl]
  · rw [State.on_portCount _ p (by decide) 1 (f := PORT_IRQ_STATUS_LINK p) cirq, State.on_raise_one _ (portIrq_fits p).1 rfl]
  · simpa using (List.mem_filter.mp hk).2

theorem State.linkDrop_off (hp : p < 19) : (s.linkDrop p).on (PORT_STATUS_LINK p) = false := by
  cases hl : s.on (PORT_STATUS_LINK p)
  · unfold State.linkDrop
    rw [hl]
    exact hl
  · exact (State.linkDrop_fields hp hl).1

end

theorem exec_linkDown (p : PtpPort) (s : State) : exec (.linkDown p) s = .next (if s.fenceOpen NET then s.linkDrop p.val else s) := rfl

theorem linkDown_drops {p : PtpPort} {s : State} (hf : s.fenceOpen NET = true) (hl : s.on (PORT_STATUS_LINK p.val) = true) :
    Completes (.linkDown p) s fun t => t.on (PORT_STATUS_LINK p.val) = false ∧ t.on (PORT_IRQ_STATUS_LINK p.val) = true ∧
      ∀ k ∈ t.sw.parked, k.port ≠ p.val := by
  refine .of (exec_linkDown ..) ?_
  rw [if_pos hf]
  exact State.linkDrop_fields (by omega) hl

/-! ### TC10: the commands (R239) -/

theorem exec_tc10SleepReq (a : Agent) (p : Fin 16) (s : State) : exec (.tc10SleepReq a p) s =
    .next (s.regAccess a true (PORT_TC10 p.val) 4 (fun t => t.tc10Request p.val)) := rfl

theorem exec_tc10WakeCmd (a : Agent) (p : Fin 16) (s : State) : exec (.tc10WakeCmd a p) s =
    .next (s.regAccess a true (PORT_TC10 p.val) 4 (fun t => t.tc10Wake p.val)) := rfl

/-- A TC10 state is stored. -/
theorem State.tc10_put (s : State) (p : Nat) {v : Nat} (hv : v < 8) : (s.put (PORT_STATUS_TC10 p) v).get (PORT_STATUS_TC10 p) = v := by
  obtain ⟨-, -, -, ftc⟩ := portStatus_fits p
  exact State.get_put_small _ ftc hv

section
variable {a : Agent} {p : Fin 16} {s : State}

theorem State.tc10_ended (s : State) (a : Agent) (p : Fin 16) : (s.ended a).get (PORT_STATUS_TC10 p.val) = s.get (PORT_STATUS_TC10 p.val) :=
  State.get_ended _ _ (f := PORT_STATUS_TC10 p.val) (portReg_dap p.val (by simp only [PORT_STATUS_TC10, PORT_STATUS]; omega) (by omega))

variable (hr : s.Reached a true (PORT_TC10 p.val) 4) (hon : s.tc10On p.val = true)
include hr hon

theorem tc10SleepReq_requests (h : s.get (PORT_STATUS_TC10 p.val) = 0) :
    Completes (.tc10SleepReq a p) s fun t => t.get (PORT_STATUS_TC10 p.val) = 1 := by
  have hreq : s.tc10Request p.val = s.put (PORT_STATUS_TC10 p.val) 1 := if_pos (by rw [hon, h]; rfl)
  refine .of (exec_tc10SleepReq ..) ?_
  rw [State.regAccess_reached _ hr, State.tc10_ended, hreq, State.tc10_put _ _ (by decide)]

theorem tc10WakeCmd_withdraws (h : s.get (PORT_STATUS_TC10 p.val) = 1) :
    Completes (.tc10WakeCmd a p) s fun t => t.get (PORT_STATUS_TC10 p.val) = 0 := by
  have hwake : s.tc10Wake p.val = s.put (PORT_STATUS_TC10 p.val) 0 := by
    unfold State.tc10Wake
    simp [hon, h]
  refine .of (exec_tc10WakeCmd ..) ?_
  rw [State.regAccess_reached _ hr, State.tc10_ended, hwake, State.tc10_put _ _ (by decide)]

theorem tc10WakeCmd_wakes (h : s.get (PORT_STATUS_TC10 p.val) = 2) :
    Completes (.tc10WakeCmd a p) s fun t => t.get (PORT_STATUS_TC10 p.val) = 3 := by
  have hwake : s.tc10Wake p.val = s.put (PORT_STATUS_TC10 p.val) 3 := by
    unfold State.tc10Wake
    simp [hon, h]
  refine .of (exec_tc10WakeCmd ..) ?_
  rw [State.regAccess_reached _ hr, State.tc10_ended, hwake, State.tc10_put _ _ (by decide)]

end

/-! ### TC10: the partner and the timers (R239) -/

theorem exec_tc10PartnerAck (p : Fin 16) (s : State) : exec (.tc10PartnerAck p) s =
    .next (if s.tc10On p.val && s.get (PORT_STATUS_TC10 p.val) == 1 then s.tc10Sleep p.val else s) := rfl

theorem exec_tc10PartnerSleepReq (p : Fin 16) (s : State) : exec (.tc10PartnerSleepReq p) s =
    .next (if !s.tc10On p.val then s
      else if s.get (PORT_STATUS_TC10 p.val) == 0 then (if s.on (PORT_TC10_ACCEPT p.val) then s.tc10Sleep p.val else s)
      else if s.get (PORT_STATUS_TC10 p.val) == 1 then s.tc10Sleep p.val else s) := rfl

theorem exec_tc10PartnerReject (p : Fin 16) (s : State) : exec (.tc10PartnerReject p) s = .next (s.tc10Fail p.val) := rfl

theorem exec_tc10RequestTimeout (p : Fin 16) (s : State) : exec (.tc10RequestTimeout p) s = .next (s.tc10Fail p.val) := rfl

theorem exec_tc10WakePulse (p : Fin 16) (s : State) : exec (.tc10WakePulse p) s = .next (s.tc10Pulse p.val) := rfl

theorem exec_tc10WakeTimeout (p : Fin 16) (s : State) : exec (.tc10WakeTimeout p) s =
    .next (if s.tc10On p.val && s.get (PORT_STATUS_TC10 p.val) == 3 then
        ((s.put (PORT_STATUS_TC10 p.val) 2).raise (PORT_IRQ_STATUS_WAKEFAIL p.val) 1).portCount p.val 30 1 else s) := rfl

/-- A port that sleeps reports no link. -/
theorem State.tc10Sleep_fields (s : State) {p : Nat} (hp : p < 19) :
    (s.tc10Sleep p).get (PORT_STATUS_TC10 p) = 2 ∧ (s.tc10Sleep p).on (PORT_STATUS_LINK p) = false := by
  obtain ⟨cstatus, -⟩ := portStatus_beforeCounters p
  obtain ⟨-, -, -, ftc⟩ := portStatus_fits p
  obtain ⟨-, -, alt⟩ := portLink_apart p
  unfold State.tc10Sleep
  rw [State.get_portCount _ p (by decide) 1 (f := PORT_STATUS_TC10 p) cstatus, State.on_portCount _ p (by decide) 1 (f := PORT_STATUS_LINK p) cstatus,
    State.tc10_put _ _ (by decide), State.on_put_apart _ _ ftc alt, State.linkDrop_off hp]
  exact ⟨rfl, rfl⟩

/-- A request that fails returns to idle with its event. -/
theorem State.tc10Fail_fields {s : State} {p : Nat} (hon : s.tc10On p = true) (h : s.get (PORT_STATUS_TC10 p) = 1) :
    (s.tc10Fail p).get (PORT_STATUS_TC10 p) = 0 ∧ (s.tc10Fail p).on (PORT_IRQ_STATUS_SLEEPFAIL p) = true := by
  obtain ⟨-, fsleep, -, -⟩ := portIrq_fits p
  have hfail : s.tc10Fail p = (s.put (PORT_STATUS_TC10 p) 0).raise (PORT_IRQ_STATUS_SLEEPFAIL p) 1 := if_pos (by rw [hon, h]; rfl)
  rw [hfail, State.on_raise_one _ fsleep rfl, State.raise,
    State.get_put_ne (f := PORT_IRQ_STATUS_SLEEPFAIL p) (g := PORT_STATUS_TC10 p) _ _ (portStatus_ne_irq p p), State.tc10_put _ _ (by decide)]
  exact ⟨rfl, rfl⟩

section
variable {p : Fin 16} {s : State} (hon : s.tc10On p.val = true)
include hon

theorem tc10PartnerAck_sleeps (h : s.get (PORT_STATUS_TC10 p.val) = 1) : Completes (.tc10PartnerAck p) s fun t =>
    t.get (PORT_STATUS_TC10 p.val) = 2 ∧ t.on (PORT_STATUS_LINK p.val) = false := by
  refine .of (exec_tc10PartnerAck ..) ?_
  rw [if_pos (by rw [hon, h]; rfl)]
  exact s.tc10Sleep_fields (by omega)

theorem tc10PartnerSleepReq_sleeps (h : s.get (PORT_STATUS_TC10 p.val) = 1) : Completes (.tc10PartnerSleepReq p) s fun t =>
    t.get (PORT_STATUS_TC10 p.val) = 2 ∧ t.on (PORT_STATUS_LINK p.val) = false := by
  refine .of (exec_tc10PartnerSleepReq ..) ?_
  simp only [hon, h, Bool.not_true, Bool.false_eq_true, if_false, beq_self_eq_true, if_true, show ((1 : Nat) == 0) = false from rfl]
  exact s.tc10Sleep_fields (by omega)

theorem tc10PartnerSleepReq_idle (h : s.get (PORT_STATUS_TC10 p.val) = 0) : Completes (.tc10PartnerSleepReq p) s fun t =>
    t.get (PORT_STATUS_TC10 p.val) = if s.on (PORT_TC10_ACCEPT p.val) then 2 else 0 := by
  refine .of (exec_tc10PartnerSleepReq ..) ?_
  simp only [hon, h, Bool.not_true, Bool.false_eq_true, if_false, beq_self_eq_true, if_true]
  split
  · exact (s.tc10Sleep_fields (by omega)).1
  · exact h

theorem tc10WakePulse_wakes (h : s.get (PORT_STATUS_TC10 p.val) = 2) : Completes (.tc10WakePulse p) s fun t =>
    t.get (PORT_STATUS_TC10 p.val) = 3 ∧ t.on (PORT_IRQ_STATUS_WAKE p.val) = true := by
  obtain ⟨-, -, fwake, -⟩ := portIrq_fits p.val
  refine .of (exec_tc10WakePulse ..) ?_
  unfold State.tc10Pulse
  rw [if_pos (by rw [hon, h]; rfl)]
  refine State.each_keeps (P := fun t => t.get (PORT_STATUS_TC10 p.val) = 3 ∧ t.on (PORT_IRQ_STATUS_WAKE p.val) = true) _ ⟨?_, ?_⟩
    fun q _ t ⟨htc, hwake⟩ => ?_
  · rw [State.raise, State.get_put_ne (f := PORT_IRQ_STATUS_WAKE p.val) (g := PORT_STATUS_TC10 p.val) _ _ (portStatus_ne_irq p.val p.val),
      State.tc10_put _ _ (by decide)]
  · exact State.on_raise_one _ fwake rfl
  · split
    · next hq =>
      have hne : q ≠ p.val := fun e => by
        rw [e, htc] at hq
        simp at hq
      have hreg : (PORT_STATUS_TC10 p.val).reg ≠ (PORT_STATUS_TC10 q).reg := by simp only [PORT_STATUS_TC10, PORT_STATUS]; omega
      rw [State.get_put_ne _ _ hreg, State.on_put_ne (f := PORT_STATUS_TC10 q) (g := PORT_IRQ_STATUS_WAKE p.val) _ _ (portStatus_ne_irq q p.val).symm]
      exact ⟨htc, hwake⟩
    · exact ⟨htc, hwake⟩

theorem tc10WakeTimeout_sleeps (h : s.get (PORT_STATUS_TC10 p.val) = 3) : Completes (.tc10WakeTimeout p) s fun t =>
    t.get (PORT_STATUS_TC10 p.val) = 2 ∧ t.on (PORT_IRQ_STATUS_WAKEFAIL p.val) = true := by
  obtain ⟨cstatus, cirq⟩ := portStatus_beforeCounters p.val
  obtain ⟨-, -, -, ffail⟩ := portIrq_fits p.val
  refine .of (exec_tc10WakeTimeout ..) ?_
  rw [if_pos (by rw [hon, h]; rfl), State.get_portCount _ _ (by decide) 1 (f := PORT_STATUS_TC10 p.val) cstatus,
    State.on_portCount _ _ (by decide) 1 (f := PORT_IRQ_STATUS_WAKEFAIL p.val) cirq, State.on_raise_one _ ffail rfl, State.raise,
    State.get_put_ne (f := PORT_IRQ_STATUS_WAKEFAIL p.val) (g := PORT_STATUS_TC10 p.val) _ _ (portStatus_ne_irq p.val p.val),
    State.tc10_put _ _ (by decide)]
  exact ⟨rfl, rfl⟩

end

/-! ### PoDL (R462) -/

theorem podlClassify_presents (s : State) : Completes .podlClassify s fun t =>
    t.power.sup.podlClass = s.get PODL_CFG_CLASS ∧ t.power.sup.classified = true ∧ t.regs = s.regs := ⟨_, rfl, rfl, rfl, rfl⟩

/-- Settles O24: the registers of a port's status are among those that the completion of parked frames and wheel entries leaves
(`State.unparkAll_keeps`). -/
theorem linksSleepAndWake : Obligations.LinksSleepAndWake :=
  ⟨fun _ _ _ _ => linkUp_rises, fun _ _ => linkDown_drops,
    fun _ _ _ hr hon => ⟨tc10SleepReq_requests hr hon, tc10WakeCmd_withdraws hr hon, tc10WakeCmd_wakes hr hon⟩,
    fun p _ hon => ⟨fun h => ⟨tc10PartnerAck_sleeps hon h, tc10PartnerSleepReq_sleeps hon h,
        .of (exec_tc10PartnerReject p _) (State.tc10Fail_fields hon h), .of (exec_tc10RequestTimeout p _) (State.tc10Fail_fields hon h)⟩,
      tc10PartnerSleepReq_idle hon, tc10WakePulse_wakes hon, tc10WakeTimeout_sleeps hon⟩, podlClassify_presents⟩

end Sys2Proof.Machine
end

section
/-! The camera back channel, the camera links and the CAN controllers (R240 to R247). -/

namespace Sys2Proof.Machine

open Sys2Proof

/-! ### The list of a port's commands (R241) -/

theorem camBc_fits (n : Nat) : (CAM_BC_RES_STATUS n).fits ∧ (CAM_BC_RES_BUSY n).fits ∧ (CAM_BC_RES_RDATA n).fits ∧ (CAM_BC_CFG_DEPTH n).fits := by
  simp [Fld.fits, CAM_BC_RES_STATUS, CAM_BC_RES_BUSY, CAM_BC_RES_RDATA, CAM_BC_CFG_DEPTH]

theorem camBc_apart (n : Nat) : (CAM_BC_RES_STATUS n).apart (CAM_BC_RES_BUSY n) ∧ (CAM_BC_RES_STATUS n).apart (CAM_BC_RES_RDATA n) ∧
    (CAM_BC_RES_RDATA n).apart (CAM_BC_RES_BUSY n) := by
  simp [Fld.apart, CAM_BC_RES_STATUS, CAM_BC_RES_BUSY, CAM_BC_RES_RDATA]

/-- The registers of a port's camera link stand apart. -/
theorem camRegs_ne (n : Nat) : CAM_BC_RES n ≠ CAM_BC_CFG n ∧ CAM_LINK n ≠ CAM_BC_CFG n ∧ CAM_LINK n ≠ CAM_BC_RES n := by
  simp only [CAM_BC_RES, CAM_BC_CFG, CAM_LINK]
  omega

theorem camRegs_dap (n : Nat) : CAM_BC_RES n ≠ DAP_STATUS ∧ CAM_BC_CFG n ≠ DAP_STATUS := by
  simp only [CAM_BC_RES, CAM_BC_CFG, DAP_STATUS]
  omega

section
variable (s : State) (n : Nat) (l : List BcCmd)

@[simp] theorem State.bc_setBc : (s.setBc n l).bc n = l := tabGet_tabSet_self ..

/-- A list shows its length and whether software waits for it. -/
theorem State.setBc_shown : (s.setBc n l).get (CAM_BC_CFG_DEPTH n) = l.length % 2 ^ 5 ∧
    (s.setBc n l).on (CAM_BC_RES_BUSY n) = l.any (fun c => c.entry.isNone) := by
  obtain ⟨-, fbusy, -, fdepth⟩ := camBc_fits n
  obtain ⟨hres, -, -⟩ := camRegs_ne n
  unfold State.setBc
  dsimp only
  refine ⟨?_, State.on_put_b2n _ _ fbusy rfl⟩
  rw [State.get_put_ne (f := CAM_BC_RES_BUSY n) (g := CAM_BC_CFG_DEPTH n) _ _ hres.symm]
  exact State.get_put_self _ _ fdepth

/-- The last answer stays as it is. -/
theorem State.setBc_answer {f : Fld} (hf : f.reg = CAM_BC_RES n) (ha : f.apart (CAM_BC_RES_BUSY n)) : (s.setBc n l).get f = s.get f := by
  obtain ⟨-, fbusy, -, -⟩ := camBc_fits n
  obtain ⟨hres, -, -⟩ := camRegs_ne n
  unfold State.setBc
  dsimp only
  rw [State.get_put_apart _ _ fbusy ha, State.get_put_ne (f := CAM_BC_CFG_DEPTH n) (g := f) _ _ (hf ▸ hres)]
  rfl

theorem State.setBc_link {f : Fld} (hf : f.reg = CAM_LINK n) : (s.setBc n l).on f = s.on f := by
  obtain ⟨-, hcfg, hres⟩ := camRegs_ne n
  unfold State.setBc
  dsimp only
  rw [State.on_put_ne (f := CAM_BC_RES_BUSY n) (g := f) _ _ (hf ▸ hres), State.on_put_ne (f := CAM_BC_CFG_DEPTH n) (g := f) _ _ (hf ▸ hcfg)]
  rfl

end

/-! ### Commands of software (R241, R242) -/

section
variable {s : State} {n v rdata : Nat} {c : BcCmd} {st : Status}

/-- A command of software ends with its status and what was read. -/
theorem State.bcEnd_soft (hc : c.entry = none) : s.bcEnd n c st rdata =
    if c.read && st == .ok then (s.res (CAM_BC_RES_STATUS n) st).put (CAM_BC_RES_RDATA n) (bitsOf rdata 0 (8 * c.nbytes))
    else s.res (CAM_BC_RES_STATUS n) st := by
  unfold State.bcEnd
  rw [hc]

theorem State.get_camAnswer (s : State) (n : Nat) (st : Status) : (s.res (CAM_BC_RES_STATUS n) st).get (CAM_BC_RES_STATUS n) = st8 st :=
  State.get_res_byte _ _ (camBc_fits n).1 rfl

theorem State.bcEnd_status (hc : c.entry = none) : (s.bcEnd n c st rdata).get (CAM_BC_RES_STATUS n) = st8 st := by
  obtain ⟨-, -, frdata, -⟩ := camBc_fits n
  obtain ⟨-, ardata, -⟩ := camBc_apart n
  rw [State.bcEnd_soft hc]
  split
  · rw [State.get_put_apart _ _ frdata ardata, State.get_camAnswer]
  · exact State.get_camAnswer ..

theorem State.bcEnd_read (hc : c.entry = none) (hread : c.read = true) (hn : c.nbytes = 4) (hv : rdata < 2 ^ 32) :
    (s.bcEnd n c .ok rdata).get (CAM_BC_RES_RDATA n) = rdata := by
  obtain ⟨-, -, frdata, -⟩ := camBc_fits n
  have hbits : bitsOf rdata 0 (8 * 4) = rdata := by
    rw [bitsOf, pow_zero, Nat.div_one, Nat.mod_eq_of_lt hv]
  rw [State.bcEnd_soft hc, hread, hn, hbits, Bool.true_and, if_pos (show (Status.ok == Status.ok) = true from rfl), State.get_put_small _ frdata hv]

/-- What a written command does, in the order of R242. -/
theorem State.bcCmd_go (hgo : v.testBit 63 = true) : s.bcCmd n v =
    if bcOk v = false then s.res (CAM_BC_RES_STATUS n) .denied
    else if 16 ≤ (s.bc n).length then s.res (CAM_BC_RES_STATUS n) .full
    else if s.on (CAM_LINK_UP n) = false ∨ s.hovBusy SNS (0x10 + n) = true then s.res (CAM_BC_RES_STATUS n) .unavailable
    else s.setBc n (s.bc n ++ [⟨v.testBit 56, v.testBit 57, bitsOf v 58 3, bitsOf v 0 56, none⟩]) := by
  have hsoft : s.bcEnd n ⟨v.testBit 56, v.testBit 57, bitsOf v 58 3, bitsOf v 0 56, none⟩ .unavailable 0 =
      s.res (CAM_BC_RES_STATUS n) .unavailable := by
    rw [State.bcEnd_soft rfl, show (Status.unavailable == Status.ok) = false from rfl, Bool.and_false, if_neg Bool.false_ne_true]
  unfold State.bcCmd
  simp only [bitAt_eq_testBit, hgo, hsoft, Bool.not_true, Bool.false_eq_true, if_false, Bool.not_eq_true', Bool.or_eq_true]

end

theorem exec_bcGpioCmd (a : Agent) (n : Fin 8) (v : Word) (s : State) : exec (.bcGpioCmd a n v) s =
    .next (if !bitAt v.toNat 63 || bitAt v.toNat 56 || bitAt v.toNat 57 then s
      else s.regAccess a true (CAM_BC_CMD n.val) 8 (fun t => (t.unstaged (CAM_BC_CMD n.val)).bcCmd n.val v.toNat)) := rfl

theorem exec_bcI2cWriteCmd (a : Agent) (n : Fin 8) (v : Word) (s : State) : exec (.bcI2cWriteCmd a n v) s =
    .next (if !bitAt v.toNat 63 || !bitAt v.toNat 56 || bitAt v.toNat 57 then s
      else s.regAccess a true (CAM_BC_CMD n.val) 8 (fun t => (t.unstaged (CAM_BC_CMD n.val)).bcCmd n.val v.toNat)) := rfl

theorem exec_bcI2cReadCmd (a : Agent) (n : Fin 8) (v : Word) (s : State) : exec (.bcI2cReadCmd a n v) s =
    .next (if !bitAt v.toNat 63 || !bitAt v.toNat 57 then s
      else s.regAccess a true (CAM_BC_CMD n.val) 8 (fun t => (t.unstaged (CAM_BC_CMD n.val)).bcCmd n.val v.toNat)) := rfl

section
variable {a : Agent} {n : Fin 8} {v : Word} {s : State} {c : Instr}
  (hexec : exec c s = .next (s.regAccess a true (CAM_BC_CMD n.val) 8 fun t => (t.unstaged (CAM_BC_CMD n.val)).bcCmd n.val v.toNat))
  (hr : s.Reached a true (CAM_BC_CMD n.val) 8) (hgo : v.toNat.testBit 63 = true)
include hexec hr

/-- A command that is answered at once. -/
theorem bcCmd_answered {st : Status} (h : (s.unstaged (CAM_BC_CMD n.val)).bcCmd n.val v.toNat =
    (s.unstaged (CAM_BC_CMD n.val)).res (CAM_BC_RES_STATUS n.val) st) :
    Completes c s fun t => t.get (CAM_BC_RES_STATUS n.val) = st8 st ∧ t.sw = s.sw := by
  refine .of hexec ?_
  rw [State.regAccess_reached _ hr, h, State.get_ended (f := CAM_BC_RES_STATUS n.val) _ _ (camRegs_dap n.val).1, State.get_camAnswer, State.sw_ended]
  exact ⟨rfl, rfl⟩

include hgo

theorem bcCmd_denied (h : bcOk v.toNat = false) : Completes c s fun t => t.get (CAM_BC_RES_STATUS n.val) = st8 .denied ∧ t.sw = s.sw :=
  bcCmd_answered hexec hr (by rw [State.bcCmd_go hgo, if_pos h])

variable (hok : bcOk v.toNat = true)
include hok

theorem bcCmd_full (h : 16 ≤ (s.bc n.val).length) : Completes c s fun t => t.get (CAM_BC_RES_STATUS n.val) = st8 .full ∧ t.sw = s.sw :=
  bcCmd_answered hexec hr (by
    rw [State.bcCmd_go hgo, if_neg (by rw [hok]; decide)]
    exact if_pos h)

variable (hroom : (s.bc n.val).length < 16)
include hroom

theorem bcCmd_unavailable (h : s.on (CAM_LINK_UP n.val) = false) :
    Completes c s fun t => t.get (CAM_BC_RES_STATUS n.val) = st8 .unavailable ∧ t.sw = s.sw :=
  bcCmd_answered hexec hr (by
    rw [State.bcCmd_go hgo, if_neg (by rw [hok]; decide)]
    exact (if_neg (by exact hroom.not_ge)).trans (if_pos (.inl h)))

theorem bcCmd_joins (hup : s.on (CAM_LINK_UP n.val) = true) (hhov : s.hovBusy SNS (0x10 + n.val) = false) : Completes c s fun t =>
    t.bc n.val = s.bc n.val ++ [⟨v.toNat.testBit 56, v.toNat.testBit 57, bitsOf v.toNat 58 3, bitsOf v.toNat 0 56, none⟩] ∧
    t.on (CAM_BC_RES_BUSY n.val) = true ∧ t.get (CAM_BC_CFG_DEPTH n.val) = (s.bc n.val).length + 1 := by
  obtain ⟨hres, hcfg⟩ := camRegs_dap n.val
  obtain ⟨u, hu⟩ : ∃ u, u = s.unstaged (CAM_BC_CMD n.val) := ⟨_, rfl⟩
  have hbc : u.bc n.val = s.bc n.val := by rw [hu]; rfl
  have hjoin : u.bcCmd n.val v.toNat = u.setBc n.val (s.bc n.val ++ [⟨v.toNat.testBit 56, v.toNat.testBit 57, bitsOf v.toNat 58 3,
      bitsOf v.toNat 0 56, none⟩]) := by
    have hgoes : ¬ (u.on (CAM_LINK_UP n.val) = false ∨ u.hovBusy SNS (0x10 + n.val) = true) := by
      rw [hu, State.on_unstaged, hup, show (s.unstaged (CAM_BC_CMD n.val)).hovBusy SNS (0x10 + n.val) = false from hhov]
      decide
    rw [State.bcCmd_go hgo, if_neg (by rw [hok]; decide), hbc, if_neg hroom.not_ge, if_neg hgoes]
  refine .of hexec ?_
  rw [State.regAccess_reached _ hr, ← hu, hjoin]
  generalize hl : s.bc n.val ++ [(⟨v.toNat.testBit 56, v.toNat.testBit 57, bitsOf v.toNat 58 3, bitsOf v.toNat 0 56, none⟩ : BcCmd)] = l
  obtain ⟨hdepth, hbusy⟩ := u.setBc_shown n.val l
  refine ⟨?_, ?_, ?_⟩
  · rw [State.bc, State.sw_ended]
    exact u.bc_setBc n.val l
  · rw [State.on_ended (f := CAM_BC_RES_BUSY n.val) _ _ hres, hbusy, ← hl, List.any_append]
    exact Bool.or_true _
  · rw [State.get_ended (f := CAM_BC_CFG_DEPTH n.val) _ _ hcfg, hdepth, ← hl, List.length_append, List.length_singleton]
    exact Nat.mod_eq_of_lt (by omega)

end

/-! ### The end of the command being served (R241, R242) -/

theorem exec_bcAck (n : Fin 8) (nack : Bool) (rdata : BitVec 32) (s : State) : exec (.bcAck n nack rdata) s =
    .next (if s.opens SNS (0x10 + n.val) then s.bcServe n.val (if nack then .unavailable else .ok) rdata.toNat else s) := rfl

theorem exec_bcTimeout (n : Fin 8) (s : State) : exec (.bcTimeout n) s =
    .next (if s.opens SNS (0x10 + n.val) then s.bcServe n.val .unavailable 0 else s) := rfl

section
variable {s : State} {c : BcCmd} {r : List BcCmd}

/-- The head of the list is served: it leaves, and software has its answer. -/
theorem State.bcServe_soft {n : Nat} (st : Status) (rdata : Nat) (hbc : s.bc n = c :: r) (hc : c.entry = none) :
    (s.bcServe n st rdata).bc n = r ∧ (s.bcServe n st rdata).get (CAM_BC_RES_STATUS n) = st8 st ∧
      (st = .ok → c.read = true → c.nbytes = 4 → rdata < 2 ^ 32 → (s.bcServe n st rdata).get (CAM_BC_RES_RDATA n) = rdata) := by
  obtain ⟨abusy, -, ardata⟩ := camBc_apart n
  unfold State.bcServe
  rw [hbc]
  dsimp only
  rw [State.bc_setBc, State.setBc_answer (f := CAM_BC_RES_STATUS n) _ _ _ rfl abusy, State.setBc_answer (f := CAM_BC_RES_RDATA n) _ _ _ rfl ardata]
  refine ⟨rfl, State.bcEnd_status hc, fun hok hread hn hv => ?_⟩
  rw [hok, State.bcEnd_read hc hread hn hv]

variable {n : Fin 8} (ho : s.opens SNS (0x10 + n.val) = true) (hbc : s.bc n.val = c :: r) (hc : c.entry = none)
include ho hbc hc

theorem bcAck_ok (rdata : BitVec 32) : Completes (.bcAck n false rdata) s fun t => t.bc n.val = r ∧ t.get (CAM_BC_RES_STATUS n.val) = st8 .ok ∧
    (c.read = true → c.nbytes = 4 → t.get (CAM_BC_RES_RDATA n.val) = rdata.toNat) := by
  obtain ⟨hlist, hstatus, hread⟩ := State.bcServe_soft .ok rdata.toNat hbc hc
  refine .of (exec_bcAck ..) ?_
  rw [if_pos ho, if_neg Bool.false_ne_true]
  exact ⟨hlist, hstatus, fun h4 hn => hread rfl h4 hn rdata.isLt⟩

theorem bcAck_nack (rdata : BitVec 32) : Completes (.bcAck n true rdata) s fun t =>
    t.bc n.val = r ∧ t.get (CAM_BC_RES_STATUS n.val) = st8 .unavailable := by
  obtain ⟨hlist, hstatus, -⟩ := State.bcServe_soft .unavailable rdata.toNat hbc hc
  refine .of (exec_bcAck ..) ?_
  rw [if_pos ho, if_pos rfl]
  exact ⟨hlist, hstatus⟩

theorem bcTimeout_unavailable : Completes (.bcTimeout n) s fun t => t.bc n.val = r ∧ t.get (CAM_BC_RES_STATUS n.val) = st8 .unavailable := by
  obtain ⟨hlist, hstatus, -⟩ := State.bcServe_soft .unavailable 0 hbc hc
  refine .of (exec_bcTimeout ..) ?_
  rw [if_pos ho]
  exact ⟨hlist, hstatus⟩

end

/-! ### Camera links (R240) -/

theorem exec_camLinkUp (n : Fin 8) (gear : BitVec 3) (s : State) : exec (.camLinkUp n gear) s =
    .next (if s.fenceOpen SNS && decide (1 ≤ gear.toNat) && decide (gear.toNat ≤ 5) then
        (s.put (CAM_LINK_UP n.val) 1).put (CAM_LINK_GEAR n.val) gear.toNat else s) := rfl

theorem exec_camLinkDown (n : Fin 8) (s : State) : exec (.camLinkDown n) s = .next (if s.on (CAM_LINK_UP n.val) then s.camDrop n.val else s) := rfl

theorem camLink_fits (n : Nat) : (CAM_LINK_UP n).fits ∧ (CAM_LINK_GEAR n).fits ∧ (CAM_LINK_UP n).apart (CAM_LINK_GEAR n) := by
  simp [Fld.fits, Fld.apart, CAM_LINK_UP, CAM_LINK_GEAR]

theorem camLink_wire {n : Nat} (hn : n < 8) : wireReg (CAM_LINK n) := by
  simp only [wireReg, CAM_LINK]
  omega

theorem camLinkUp_rises {n : Fin 8} {gear : BitVec 3} {s : State} (hf : s.fenceOpen SNS = true) (h1 : 1 ≤ gear.toNat) (h5 : gear.toNat ≤ 5) :
    Completes (.camLinkUp n gear) s fun t => t.on (CAM_LINK_UP n.val) = true ∧ t.get (CAM_LINK_GEAR n.val) = gear.toNat ∧ t.sw = s.sw := by
  obtain ⟨fup, fgear, apart⟩ := camLink_fits n.val
  have hcond : (s.fenceOpen SNS && decide (1 ≤ gear.toNat) && decide (gear.toNat ≤ 5)) = true := by
    rw [hf, decide_eq_true h1, decide_eq_true h5]
    rfl
  refine .of (exec_camLinkUp ..) ?_
  rw [if_pos hcond, State.on_put_apart _ _ fgear apart, State.on_put_one _ fup rfl, State.get_put_small _ fgear gear.isLt]
  exact ⟨rfl, rfl, rfl⟩

/-- The loss of a link ends its commands: no list grows, and the link stays down. -/
theorem State.camDrop_fields (s : State) {n : Nat} (hn : n < 8) : (s.camDrop n).on (CAM_LINK_UP n) = false ∧ (s.camDrop n).bc n = [] := by
  obtain ⟨-, -, hne⟩ := camRegs_ne n
  unfold State.camDrop
  dsimp only
  refine State.each_keeps (P := fun t => t.on (CAM_LINK_UP n) = false ∧ t.bc n = []) _ ⟨?_, State.bc_setBc ..⟩ fun c _ t ⟨hup, hbc⟩ => ?_
  · have hzero : (s.wr (CAM_LINK n) 0).get (CAM_LINK_UP n) = 0 := (s.get_wr_self (CAM_LINK_UP n) 0 (by decide)).trans (by simp [bitsOf])
    rw [State.setBc_link _ _ _ (f := CAM_LINK_UP n) rfl, State.on, hzero]
    rfl
  · cases hc : c.entry with
    | some i =>
      have hkept := WireKept.wheelFinish t i .unavailable (t.vt 0)
      have hend : t.bcEnd n c .unavailable 0 = t.wheelFinish i .unavailable false (t.vt 0) := by
        unfold State.bcEnd
        rw [hc]
      rw [hend, hkept.on (f := CAM_LINK_UP n) (camLink_wire hn), State.bc, hkept.sw]
      exact ⟨hup, hbc⟩
    | none =>
      have hend : t.bcEnd n c .unavailable 0 = t.res (CAM_BC_RES_STATUS n) .unavailable := by
        rw [State.bcEnd_soft hc, show (Status.unavailable == Status.ok) = false from rfl, Bool.and_false, if_neg Bool.false_ne_true]
      rw [hend, State.res, State.on_put_ne (f := CAM_BC_RES_STATUS n) (g := CAM_LINK_UP n) _ _ hne]
      exact ⟨hup, hbc⟩

theorem camLinkDown_drops {n : Fin 8} {s : State} (hup : s.on (CAM_LINK_UP n.val) = true) :
    Completes (.camLinkDown n) s fun t => t.on (CAM_LINK_UP n.val) = false ∧ t.bc n.val = [] := by
  refine .of (exec_camLinkDown ..) ?_
  rw [if_pos hup]
  exact s.camDrop_fields n.isLt

/-! ### A frame from the bus (R163, R244) -/

theorem exec_canFrameReceive (c : Fin 2) (f : CanFrame) (s : State) : exec (.canFrameReceive c f) s =
    .next (if s.canOn c.val && (f.fmt.val != 2 || s.on (CAN_CFG_XL_EN c.val)) then s.canUnit c.val f (s.stampNow 0 0) else s) := rfl

/-- A miss with room in the queue is queued and counted. -/
theorem State.miss_queued {s : State} {kind : Nat} (key : Nat) (n : Option Nat) (hk : kind < 4) (hen : s.on STT_MISSQ_CTL_EN = true)
    (hroom : s.cap.missq.length < 16) : (s.miss kind key n).cap.missq = s.cap.missq ++ [⟨kind, key, n⟩] ∧
      (s.miss kind key n).get (STT_MISS_COUNT kind) = (s.get (STT_MISS_COUNT kind) + 1) % 2 ^ (STT_MISS_COUNT kind).w := by
  have hctl : STT_MISS kind ≠ STT_MISSQ_CTL := by simp only [STT_MISS, STT_MISSQ_CTL]; omega
  have hfits : (STT_MISS_COUNT kind).fits := by simp [Fld.fits, STT_MISS_COUNT]
  have hirq : STT_MISS kind ≠ CAP_IRQ_STATUS := by simp only [STT_MISS, CAP_IRQ_STATUS]; omega
  have hen' : (s.inc (STT_MISS_COUNT kind) 1).on STT_MISSQ_CTL_EN = true := by
    rw [State.inc, State.on_put_ne (f := STT_MISS_COUNT kind) (g := STT_MISSQ_CTL_EN) _ _ hctl.symm, hen]
  unfold State.miss
  dsimp only
  rw [hen', Bool.not_true, if_neg Bool.false_ne_true, State.cap_inc, if_neg (by omega)]
  generalize hu : ({ s.inc (STT_MISS_COUNT kind) 1 with cap := { s.cap with missq := s.cap.missq ++ [⟨kind, key, n⟩] } } : State) = u
  have hcount : u.get (STT_MISS_COUNT kind) = (s.inc (STT_MISS_COUNT kind) 1).get (STT_MISS_COUNT kind) := by rw [← hu]; rfl
  refine ⟨by rw [← hu]; rfl, ?_⟩
  rw [State.raise, State.get_put_ne (f := CAP_IRQ_STATUS_MISSQ) (g := STT_MISS_COUNT kind) _ _ hirq,
    State.get_put_ne (f := STT_MISSQ_CTL_DEPTH) (g := STT_MISS_COUNT kind) _ _ hctl, hcount, State.inc, State.get_put_self _ _ hfits]

theorem canFrameReceive_misses {c : Fin 2} {f : CanFrame} {s : State} (hon : s.canOn c.val = true) (hf : f.fmt.val ≠ 2) (hcap : s.capOn = true)
    (hst : s.steer 2 (canKey c.val f) = none) (hen : s.on STT_MISSQ_CTL_EN = true) (hroom : s.cap.missq.length < 16) :
    Completes (.canFrameReceive c f) s fun t => t.cap.missq = s.cap.missq ++ [⟨2, canKey c.val f, none⟩] ∧
      t.get (STT_MISS_COUNT 2) = (s.get (STT_MISS_COUNT 2) + 1) % 2 ^ (STT_MISS_COUNT 2).w := by
  have hunit : s.canUnit c.val f (s.stampNow 0 0) = s.miss 2 (canKey c.val f) none := by
    unfold State.canUnit State.classify
    rw [hcap, hst]
    rfl
  refine .of (exec_canFrameReceive ..) ?_
  rw [if_pos (by rw [hon, bne_iff_ne.mpr hf]; rfl), hunit]
  exact State.miss_queued _ _ (by decide) hen hroom

/-! ### Transmission (R233, R245) -/

theorem exec_canTxDescTake (c : Fin 2) (s : State) : exec (.canTxDescTake c) s = .next (s.canTake c.val) := rfl

theorem canTxDescTake_transmits {c : Fin 2} {s u v : State} {ref : InjRef} {b : List Byte} (hon : s.canOn c.val = true)
    (hl : s.on (CAN_CFG_LISTEN c.val) = false) (hidle : tabGet (fun _ => none) s.sw.canTx c.val = none)
    (hfetch : s.injFetch (8 + c.val) = (u, some ref)) (hport : bitsOf ref.desc 80 8 = 0) (hhold : bitAt ref.desc 88 = false)
    (htag : bitsOf ref.desc 96 16 = 0) (hbuf : u.injBuf ref = (v, some b)) :
    Completes (.canTxDescTake c) s fun t => tabGet (fun _ => none) t.sw.canTx c.val = some ⟨ref, b⟩ := by
  have hgo : (!s.canOn c.val || s.on (CAN_CFG_LISTEN c.val) || (tabGet (fun _ => none) s.sw.canTx c.val).isSome) = false := by
    rw [hon, hl, hidle]
    rfl
  obtain ⟨hp, hq⟩ : bitsOf ref.desc 80 5 = 0 ∧ bitsOf ref.desc 85 3 = 0 := by
    simp only [bitsOf] at hport ⊢
    omega
  have hgood : (bitsOf ref.desc 80 5 != 0 || bitsOf ref.desc 85 3 != 0 || bitAt ref.desc 88 || bitsOf ref.desc 96 16 != 0) = false := by
    rw [hp, hq, hhold, htag]
    rfl
  have htake : s.canTake c.val =
      ({ v with sw := { v.sw with canTx := tabSet (fun _ => none) v.sw.canTx c.val (some ⟨ref, b⟩) } }).injNext (8 + c.val) := by
    unfold State.canTake
    rw [if_neg (by rw [hgo]; decide), hfetch]
    dsimp only
    rw [if_neg (by rw [hgood]; decide), hbuf]
  refine .of (exec_canTxDescTake ..) ?_
  rw [htake, State.injNext, State.sw_put]
  exact tabGet_tabSet_self (fun _ => none) v.sw.canTx c.val (some ⟨ref, b⟩)

/-- The IOMMU's stop of a ring leaves all but what says that the ring is stopped. -/
theorem State.injStop_keeps (s : State) (r : Nat) : (∃ l, (s.injStop r).sw = { s.sw with canStop := l }) ∧
    ∀ k, k ≠ SW_IRQ_STATUS → (∀ r < 8, k ≠ SW_INJ_CFG r) → (s.injStop r).rd k = s.rd k := by
  unfold State.injStop State.setInjStopped
  by_cases hr : r < 8
  · rw [if_pos hr, decide_eq_true hr]
    exact ⟨⟨s.sw.canStop, rfl⟩, fun k hk hcfg => (State.rd_put_ne _ _ hk).trans (State.rd_put_ne _ _ (hcfg r hr))⟩
  · rw [if_neg hr, decide_eq_false hr]
    exact ⟨⟨_, rfl⟩, fun _ _ _ => rfl⟩

/-- The write of a finished descriptor leaves the switch, but for a stopped ring, and the registers of NET that neither report an interrupt nor
configure a ring. -/
theorem State.injWrite_keeps (s : State) (d : InjDone) : (∃ l, (s.injWrite d).sw = { s.sw with canStop := l }) ∧
    ∀ f : Fld, 0x45000000 ≤ f.reg → f.reg < 0x46000000 → f.reg ≠ SW_IRQ_STATUS → (∀ r < 8, f.reg ≠ SW_INJ_CFG r) →
      (∀ c, f.reg ≠ CAN_IRQ_STATUS c) → (s.injWrite d).get f = s.get f := by
  have hsame : (∃ l, s.sw = { s.sw with canStop := l }) := ⟨s.sw.canStop, rfl⟩
  have hnet := s.net_dmaWrite (s.injWorld d.ref.ring) (srcId NET (injBlk d.ref.ring)) (injDev d.ref.ring) 2 d.ref.addr (leBytes 32 (injBack d))
  unfold State.injWrite
  dsimp only
  split
  · exact ⟨hsame, fun _ _ _ _ _ _ => rfl⟩
  split
  · next t heq =>
    rw [heq] at hnet
    have hsw := State.sw_of_net hnet
    split
    · exact ⟨⟨s.sw.canStop, hsw⟩, fun f hlo hhi hirq _ _ => (State.get_put_ne _ _ hirq).trans (State.get_of_net hnet hlo hhi)⟩
    · exact ⟨⟨s.sw.canStop, hsw⟩, fun f hlo hhi _ _ hcan => (State.get_put_ne _ _ (hcan _)).trans (State.get_of_net hnet hlo hhi)⟩
  · next t st _ heq =>
    rw [heq] at hnet
    obtain ⟨⟨l, hl⟩, hreg⟩ := t.injStop_keeps d.ref.ring
    refine ⟨⟨l, by rw [hl, State.sw_of_net hnet]⟩, fun f hlo hhi hirq hcfg _ => ?_⟩
    rw [State.get, hreg _ hirq hcfg, ← State.get, State.get_of_net hnet hlo hhi]

theorem canStatus_kept {c : Nat} (hc : c < 2) : 0x45000000 ≤ CAN_STATUS c ∧ CAN_STATUS c < 0x46000000 ∧ CAN_STATUS c ≠ SW_IRQ_STATUS ∧
    (∀ r < 8, CAN_STATUS c ≠ SW_INJ_CFG r) ∧ ∀ k, CAN_STATUS c ≠ CAN_IRQ_STATUS k := by
  refine ⟨?_, ?_, ?_, fun r _ => ?_, fun k => ?_⟩
  all_goals
    simp only [CAN_STATUS, SW_IRQ_STATUS, SW_INJ_CFG, CAN_IRQ_STATUS]
    omega

/-- The end of a controller's frame: it is in transmission no more, and the state of the bus is as before. -/
theorem State.canEnd_keeps (s : State) {c : Nat} (hc : c < 2) (st : Status) (stamp : Option Stamp) :
    tabGet (fun _ => none) (s.canEnd c st stamp).sw.canTx c = none ∧
      (s.canEnd c st stamp).get (CAN_STATUS_STATE c) = s.get (CAN_STATUS_STATE c) := by
  obtain ⟨hlo, hhi, hirq, hcfg, hcan⟩ := canStatus_kept hc
  unfold State.canEnd
  split
  · next hidle => exact ⟨hidle, rfl⟩
  · next t _ =>
    generalize hu : ({ s with sw := { s.sw with canTx := tabSet (fun _ => none) s.sw.canTx c none } } : State) = u
    obtain ⟨⟨l, hl⟩, hreg⟩ := u.injWrite_keeps ⟨t.ref, st, false, stamp⟩
    rw [hl, hreg (CAN_STATUS_STATE c) hlo hhi hirq hcfg hcan, ← hu]
    exact ⟨tabGet_tabSet_self (fun _ => none) s.sw.canTx c none, rfl⟩

/-! ### The state of the bus (R246, R247) -/

theorem exec_canTxComplete (c : Fin 2) (sofAgo : Nat) (s : State) : exec (.canTxComplete c sofAgo) s =
    .next (if s.canOn c.val then
      s.canEnd c.val .ok (some (s.stampAt 0 ((s.tdom 0).acc - sofAgo * s.get (DISC_RATE_RATE 0) / 4))) else s) := rfl

theorem exec_canBusOff (c : Fin 2) (s : State) : exec (.canBusOff c) s =
    .next (if s.canOn c.val then
      ((s.put (CAN_STATUS_STATE c.val) 2).raise (CAN_IRQ_STATUS_BUSOFF c.val) 1).canEnd c.val .unavailable none else s) := rfl

theorem exec_canBusoffRecovery (c : Fin 2) (s : State) : exec (.canBusoffRecovery c) s =
    .next (if s.opens NET (2 + c.val) && s.get (CAN_STATUS_STATE c.val) == 2 && s.on (CAN_CFG_AUTO_RECOVER c.val) then s.wr (CAN_STATUS c.val) 0
      else s) := rfl

theorem canStatus_fits (c : Nat) : (CAN_STATUS_STATE c).fits ∧ (CAN_STATUS_TEC c).fits ∧ (CAN_STATUS_REC c).fits := by
  simp [Fld.fits, CAN_STATUS_STATE, CAN_STATUS_TEC, CAN_STATUS_REC]

theorem canStatus_apart (c : Nat) : (CAN_STATUS_TEC c).apart (CAN_STATUS_REC c) ∧ (CAN_STATUS_TEC c).apart (CAN_STATUS_STATE c) ∧
    (CAN_STATUS_REC c).apart (CAN_STATUS_STATE c) := by
  simp [Fld.apart, CAN_STATUS_STATE, CAN_STATUS_TEC, CAN_STATUS_REC]

/-- The counters of errors as they are shown, and whether the controller is passive. -/
def State.canCounted (s : State) (c tec rec : Nat) : State :=
  ((s.put (CAN_STATUS_TEC c) tec).put (CAN_STATUS_REC c) rec).put (CAN_STATUS_STATE c) (b2n (decide (128 ≤ tec) || decide (128 ≤ rec)))

theorem exec_canBusError (c : Fin 2) (tec rec : BitVec 8) (s : State) : exec (.canBusError c tec rec) s =
    .next (if s.canOn c.val then
      (s.canCounted c.val tec.toNat rec.toNat).when
        ((decide (128 ≤ tec.toNat) || decide (128 ≤ rec.toNat)) && !(s.get (CAN_STATUS_STATE c.val) == 1)) (fun t => t.raise (CAN_IRQ_STATUS_PASSIVE c.val) 1) else s) := rfl

theorem State.canCounted_fields (s : State) (c : Nat) {tec rec : Nat} (ht : tec < 2 ^ 8) (hr : rec < 2 ^ 8) :
    (s.canCounted c tec rec).get (CAN_STATUS_TEC c) = tec ∧ (s.canCounted c tec rec).get (CAN_STATUS_REC c) = rec ∧
      (s.canCounted c tec rec).get (CAN_STATUS_STATE c) = b2n (decide (128 ≤ tec) || decide (128 ≤ rec)) := by
  obtain ⟨fstate, ftec, frec⟩ := canStatus_fits c
  obtain ⟨atr, ats, ars⟩ := canStatus_apart c
  have hbit (b : Bool) : b2n b < 2 ^ 2 := by cases b <;> decide
  unfold State.canCounted
  rw [State.get_put_apart _ _ fstate ats, State.get_put_apart _ _ frec atr, State.get_put_small _ ftec ht, State.get_put_apart _ _ fstate ars,
    State.get_put_small _ frec hr, State.get_put_small _ fstate (hbit _)]
  exact ⟨rfl, rfl, rfl⟩

section
variable {c : Fin 2} {s : State} (hon : s.canOn c.val = true)
include hon

theorem canTxComplete_ends (sof : Nat) : Completes (.canTxComplete c sof) s fun t => tabGet (fun _ => none) t.sw.canTx c.val = none := by
  refine .of (exec_canTxComplete ..) ?_
  rw [if_pos hon]
  exact (State.canEnd_keeps _ c.isLt ..).1

theorem canBusOff_ends : Completes (.canBusOff c) s fun t =>
    tabGet (fun _ => none) t.sw.canTx c.val = none ∧ t.get (CAN_STATUS_STATE c.val) = 2 := by
  obtain ⟨-, -, -, -, hcan⟩ := canStatus_kept c.isLt
  obtain ⟨fstate, -, -⟩ := canStatus_fits c.val
  obtain ⟨hidle, hstate⟩ :=
    ((s.put (CAN_STATUS_STATE c.val) 2).raise (CAN_IRQ_STATUS_BUSOFF c.val) 1).canEnd_keeps c.isLt .unavailable none
  refine .of (exec_canBusOff ..) ?_
  rw [if_pos hon]
  refine ⟨hidle, hstate.trans ?_⟩
  rw [State.raise, State.get_put_ne (f := CAN_IRQ_STATUS_BUSOFF c.val) (g := CAN_STATUS_STATE c.val) _ _ (hcan _)]
  exact State.get_put_small _ fstate (show 2 < 2 ^ 2 by decide)

theorem canBusError_counts (tec rec : BitVec 8) : Completes (.canBusError c tec rec) s fun t =>
    t.get (CAN_STATUS_TEC c.val) = tec.toNat ∧ t.get (CAN_STATUS_REC c.val) = rec.toNat ∧
      (128 ≤ tec.toNat ∨ 128 ≤ rec.toNat → t.get (CAN_STATUS_STATE c.val) = 1) ∧
      (tec.toNat < 128 → rec.toNat < 128 → t.get (CAN_STATUS_STATE c.val) = 0) ∧ t.sw = s.sw := by
  obtain ⟨-, -, -, -, hcan⟩ := canStatus_kept c.isLt
  obtain ⟨htec, hrec, hstate⟩ := s.canCounted_fields c.val tec.isLt rec.isLt
  have hpassive : 128 ≤ tec.toNat ∨ 128 ≤ rec.toNat → b2n (decide (128 ≤ tec.toNat) || decide (128 ≤ rec.toNat)) = 1 := fun h => by
    simp [b2n, h]
  have hactive : tec.toNat < 128 → rec.toNat < 128 → b2n (decide (128 ≤ tec.toNat) || decide (128 ≤ rec.toNat)) = 0 := fun ht hr => by
    simp [b2n, ht, hr]
  have hraise (f : Fld) (hf : f.reg = CAN_STATUS c.val) (b : Bool) (u : State) :
      (u.when b (fun t => t.raise (CAN_IRQ_STATUS_PASSIVE c.val) 1)).get f = u.get f := by
    cases b
    · rfl
    · exact State.get_put_ne _ _ (hf ▸ hcan c.val)
  have hsw (b : Bool) (u : State) : (u.when b (fun t => t.raise (CAN_IRQ_STATUS_PASSIVE c.val) 1)).sw = u.sw := by cases b <;> rfl
  refine .of (exec_canBusError ..) ?_
  rw [if_pos hon, hraise _ rfl, hraise _ rfl, hraise _ rfl, htec, hrec, hstate, hsw]
  exact ⟨rfl, rfl, hpassive, hactive, rfl⟩

end

theorem canBusoffRecovery_clears {c : Fin 2} {s : State} (ho : s.opens NET (2 + c.val) = true) (hs : s.get (CAN_STATUS_STATE c.val) = 2)
    (ha : s.on (CAN_CFG_AUTO_RECOVER c.val) = true) : Completes (.canBusoffRecovery c) s fun t => t.rd (CAN_STATUS c.val) = 0 ∧ t.sw = s.sw := by
  refine .of (exec_canBusoffRecovery ..) ?_
  rw [if_pos (by rw [ho, hs, ha]; rfl), State.rd_wr_self]
  exact ⟨rfl, rfl⟩

/-- Settles O25: what the DMA of a finished descriptor changes leaves the controllers (`State.injWrite_keeps`), as the completion of wheel entries
leaves the camera links. -/
theorem backChannelAndCan : Obligations.BackChannelAndCan := by
  refine ⟨fun a n v s hr hgo => ?_,
    fun n rdata s c r ho hbc hc => ⟨bcAck_ok ho hbc hc rdata, bcAck_nack ho hbc hc rdata, bcTimeout_unavailable ho hbc hc⟩,
    fun _ _ _ => camLinkUp_rises, fun _ _ => camLinkDown_drops, fun _ _ _ => canFrameReceive_misses,
    fun _ _ _ _ _ _ => canTxDescTake_transmits,
    fun c sof s hon => ⟨canTxComplete_ends hon sof, canBusOff_ends hon, canBusError_counts hon⟩, fun _ _ => canBusoffRecovery_clears⟩
  have hall {c : Instr} (hexec : exec c s = .next (s.regAccess a true (CAM_BC_CMD n.val) 8 fun t =>
      (t.unstaged (CAM_BC_CMD n.val)).bcCmd n.val v.toNat)) := And.intro (bcCmd_denied hexec hr hgo) <| And.intro
    (bcCmd_full hexec hr hgo) <| And.intro (bcCmd_unavailable hexec hr hgo) (bcCmd_joins hexec hr hgo)
  have hbit (k : Nat) : bitAt v.toNat k = v.toNat.testBit k := bitAt_eq_testBit ..
  exact ⟨fun h56 h57 => hall ((exec_bcGpioCmd ..).trans (by rw [hbit, hbit, hbit, hgo, h56, h57]; rfl)),
    fun h56 h57 => hall ((exec_bcI2cWriteCmd ..).trans (by rw [hbit, hbit, hbit, hgo, h56, h57]; rfl)),
    fun h57 => hall ((exec_bcI2cReadCmd ..).trans (by rw [hbit, hbit, hgo, h57]; rfl))⟩

end Sys2Proof.Machine
end

section
/-! The switch: its database, redundancy, frames from the wire and injection (R217 to R220, R230, R231, R233 to R235, R237, R249). -/

namespace Sys2Proof.Machine

open Sys2Proof

/-! ### The ways of a set (R219) -/

/-- The entries of other keys. -/
def State.fdbOthers (s : State) (mac vid : Nat) : List FdbEntry := s.sw.fdb.filter (fun x => !(x.mac == mac && x.vid == vid))

/-- The entries of other keys in the set of a key. -/
def State.fdbWays (s : State) (mac vid : Nat) : List FdbEntry := (s.fdbOthers mac vid).filter (fun x => fdbSetOf x.mac x.vid == fdbSetOf mac vid)

section
variable {s : State} {mac vid : Nat}

theorem State.fdbWays_eq (s : State) (mac vid : Nat) : s.fdbWays mac vid =
    s.sw.fdb.filter (fun x => !(x.mac == mac && x.vid == vid) && fdbSetOf x.mac x.vid == fdbSetOf mac vid) := by
  unfold State.fdbWays State.fdbOthers
  rw [List.filter_filter]
  exact List.filter_congr fun x _ => Bool.and_comm ..

theorem State.mem_fdbOthers {x : FdbEntry} (hx : x ∈ s.fdbOthers mac vid) : ¬ (x.mac == mac && x.vid == vid) = true := fun hkey => by
  have hother := (List.mem_filter.mp hx).2
  rw [hkey] at hother
  exact Bool.false_ne_true hother

/-- A list without a key, with an entry of that key behind it, shows that entry. -/
theorem find?_key_append {l : List FdbEntry} (hl : ∀ x ∈ l, x ∈ s.fdbOthers mac vid) (e : FdbEntry) (hm : e.mac = mac) (hv : e.vid = vid) :
    (l ++ [e]).find? (fun x => x.mac == mac && x.vid == vid) = some e := by
  have hnone : l.find? (fun x => x.mac == mac && x.vid == vid) = none := List.find?_eq_none.mpr fun x hx =>
    State.mem_fdbOthers (hl x hx)
  rw [List.find?_append, hnone, hm.symm, hv.symm]
  simp

/-- Without its entry a key is not found, and every other key is found as before. -/
theorem State.find?_others (s : State) (mac vid m v : Nat) : (s.fdbOthers mac vid).find? (fun x => x.mac == m && x.vid == v) =
    if m = mac ∧ v = vid then none else s.fdbFind m v := by
  split
  · next h =>
    rw [h.1, h.2]
    exact List.find?_eq_none.mpr fun x hx => State.mem_fdbOthers hx
  · next h =>
    unfold State.fdbOthers State.fdbFind
    rw [List.find?_filter]
    congr 1
    funext x
    by_cases hx : x.mac = m ∧ x.vid = v
    · obtain ⟨hm, hv⟩ := hx
      have hkey : (x.mac == mac && x.vid == vid) = false := by
        rw [hm, hv]
        simpa using h
      simp [hkey, ← Bool.beq_eq_decide_eq]
    · have hkey : (x.mac == m && x.vid == v) = false := by simpa using hx
      simp [hkey]

theorem State.fdbPut_eq (s : State) (e : FdbEntry) : s.fdbPut e =
    if (s.fdbWays e.mac e.vid).length < 4 then (s.setFdb (s.fdbOthers e.mac e.vid ++ [e]), true)
    else match ((s.fdbWays e.mac e.vid).filter (fun x => !x.static))[s.freeNat %
        Nat.max ((s.fdbWays e.mac e.vid).filter (fun x => !x.static)).length 1]? with
      | some v => (s.tookFree.setFdb ((s.fdbOthers e.mac e.vid).erase v ++ [e]), true)
      | none => (s, false) := rfl

/-- Four static ways take nothing more. -/
theorem State.fdbPut_full {e : FdbEntry} (hm : e.mac = mac) (hv : e.vid = vid) (h4 : 4 ≤ (s.fdbWays mac vid).length)
    (hst : ∀ x ∈ s.fdbWays mac vid, x.static = true) : s.fdbPut e = (s, false) := by
  subst hm hv
  have hdyn : (s.fdbWays e.mac e.vid).filter (fun x => !x.static) = [] := List.filter_eq_nil_iff.mpr fun x hx => by simp [hst x hx]
  rw [State.fdbPut_eq, if_neg h4.not_gt, hdyn, List.getElem?_nil]

/-- With a free way, or a dynamic entry to give way, the entry goes in. -/
theorem State.fdbPut_takes {e : FdbEntry} (hm : e.mac = mac) (hv : e.vid = vid)
    (h : ¬ (4 ≤ (s.fdbWays mac vid).length ∧ ∀ x ∈ s.fdbWays mac vid, x.static = true)) :
    ∃ l n, s.fdbPut e = ({ s with freeCtr := n, sw := { s.sw with fdb := l ++ [e] } }, true) ∧ ∀ x ∈ l, x ∈ s.fdbOthers mac vid := by
  subst hm hv
  rw [State.fdbPut_eq]
  split
  · exact ⟨s.fdbOthers e.mac e.vid, s.freeCtr, rfl, fun _ hx => hx⟩
  · next h4 =>
    obtain ⟨y, hy, hdyn⟩ : ∃ y ∈ s.fdbWays e.mac e.vid, y.static = false := by
      by_contra hall
      exact h ⟨by omega, fun x hx => by simpa using fun hs => hall ⟨x, hx, hs⟩⟩
    generalize hd : (s.fdbWays e.mac e.vid).filter (fun x => !x.static) = dyn
    have hlen : 0 < dyn.length := List.length_pos_of_mem (hd ▸ List.mem_filter.mpr ⟨hy, by rw [hdyn]; rfl⟩)
    have hlt : s.freeNat % Nat.max dyn.length 1 < dyn.length := by
      rw [show Nat.max dyn.length 1 = dyn.length from Nat.max_eq_left hlen]
      exact Nat.mod_lt _ hlen
    rw [List.getElem?_eq_getElem hlt]
    exact ⟨_, s.freeCtr + 1, rfl, fun x hx => List.mem_of_mem_erase hx⟩

end

/-! ### Commands of the database (R219) -/

theorem exec_fdbWrite (a : Agent) (s : State) : exec (.fdbWrite a) s = .next (s.regAccess a true SW_FDB_CMD 4 (fun t => t.fdbCmd 1)) := rfl

theorem exec_fdbDelete (a : Agent) (s : State) : exec (.fdbDelete a) s = .next (s.regAccess a true SW_FDB_CMD 4 (fun t => t.fdbCmd 2)) := rfl

theorem exec_fdbRead (a : Agent) (s : State) : exec (.fdbRead a) s = .next (s.regAccess a true SW_FDB_CMD 4 (fun t => t.fdbCmd 3)) := rfl

/-- What `SW_FDB_DATA` shows of an entry. -/
def State.fdbShown (s : State) : Option FdbEntry → Nat
  | some e => packBits [(0, 19, e.ports), (19, 1, b2n e.static), (20, 1, 1), (32, 16, Nat.min 65535 ((s.ticks - e.seen) / 250000000))]
  | none => 0

theorem packBits_fdbData (ports age : Nat) {b w : Nat} (hb : b < 2) (hw : w = packBits [(0, 19, ports), (19, 1, b), (20, 1, 1), (32, 16, age)]) :
    w < 2 ^ 64 ∧ bitsOf w 20 1 = 1 ∧ bitsOf w 0 19 = ports % 2 ^ 19 ∧ bitsOf w 19 1 = b := by
  simp only [packBits, bitsOf] at hw ⊢
  omega

theorem State.fdbShown_fields (s : State) (r : Option FdbEntry) : s.fdbShown r < 2 ^ 64 ∧ (bitsOf (s.fdbShown r) 20 1 == 1) = r.isSome ∧
    ∀ e, r = some e → bitsOf (s.fdbShown r) 0 19 = e.ports % 2 ^ 19 ∧ (bitsOf (s.fdbShown r) 19 1 == 1) = e.static := by
  cases r with
  | none => exact ⟨Nat.two_pow_pos 64, show (bitsOf 0 20 1 == 1) = false by decide, nofun⟩
  | some e =>
    have hbit : b2n e.static < 2 ∧ (b2n e.static == 1) = e.static := by cases e.static <;> decide
    obtain ⟨hlt, hvalid, hports, hstatic⟩ := packBits_fdbData (w := s.fdbShown (some e)) e.ports _ hbit.1 rfl
    rw [hvalid, hports, hstatic]
    refine ⟨hlt, rfl, fun x hx => ?_⟩
    rw [← Option.some.inj hx]
    exact ⟨rfl, hbit.2⟩

section
variable {a : Agent} {s : State} (hr : s.Reached a true SW_FDB_CMD 4)
include hr

/-- An answer of the database, over the switch that it leaves. -/
theorem fdb_answered {c : Instr} {op : Nat} {u : State} {st : Status} (hexec : exec c s = .next (s.regAccess a true SW_FDB_CMD 4 fun t => t.fdbCmd op))
    (h : s.fdbCmd op = u.res SW_FDB_RES_STATUS st) : ∃ t, exec c s = .next t ∧ t.get SW_FDB_RES_STATUS = st8 st ∧ t.sw = u.sw ∧
      ∀ f : Fld, f.reg = SW_FDB_DATA → t.get f = u.get f := by
  have hdata : SW_FDB_DATA ≠ DAP_STATUS ∧ SW_FDB_DATA ≠ SW_FDB_RES := by decide
  obtain ⟨hdap, hres⟩ := hdata
  refine ⟨_, hexec, ?_⟩
  rw [State.regAccess_reached _ hr, h, State.get_ended (f := SW_FDB_RES_STATUS) _ _ (by decide), State.sw_ended]
  refine ⟨State.get_res_byte _ _ (by simp [Fld.fits, SW_FDB_RES_STATUS]) rfl, rfl, fun f hf => ?_⟩
  rw [State.get_ended _ _ (hf ▸ hdap), State.get_res_ne _ _ (hf ▸ hres)]

theorem fdbWrite_valid (hv : s.on SW_FDB_DATA_VALID = true) : Completes (.fdbWrite a) s fun t =>
    if 4 ≤ (s.fdbWays (s.get SW_FDB_KEY_MAC) (s.get SW_FDB_KEY_VID)).length ∧
        ∀ x ∈ s.fdbWays (s.get SW_FDB_KEY_MAC) (s.get SW_FDB_KEY_VID), x.static = true then
      t.get SW_FDB_RES_STATUS = st8 .full ∧ t.sw = s.sw
    else t.get SW_FDB_RES_STATUS = st8 .ok ∧ t.fdbFind (s.get SW_FDB_KEY_MAC) (s.get SW_FDB_KEY_VID) =
      some ⟨s.get SW_FDB_KEY_MAC, s.get SW_FDB_KEY_VID, s.get SW_FDB_DATA_PORTS, s.on SW_FDB_DATA_STATIC, s.ticks⟩ := by
  have hcmd (p : State × Bool)
      (hp : s.fdbPut ⟨s.get SW_FDB_KEY_MAC, s.get SW_FDB_KEY_VID, s.get SW_FDB_DATA_PORTS, s.on SW_FDB_DATA_STATIC, s.ticks⟩ = p) :
      s.fdbCmd 1 = if p.2 then p.1.res SW_FDB_RES_STATUS .ok else s.res SW_FDB_RES_STATUS .full := by
    unfold State.fdbCmd
    simp only [hv, if_true, hp]
    obtain ⟨u, b⟩ := p
    cases b <;> rfl
  by_cases h : 4 ≤ (s.fdbWays (s.get SW_FDB_KEY_MAC) (s.get SW_FDB_KEY_VID)).length ∧
      ∀ x ∈ s.fdbWays (s.get SW_FDB_KEY_MAC) (s.get SW_FDB_KEY_VID), x.static = true
  · obtain ⟨t, ht, hstatus, hsw, -⟩ := fdb_answered hr (exec_fdbWrite a s) (hcmd _ (State.fdbPut_full rfl rfl h.1 h.2))
    exact .of ht (by rw [if_pos h]; exact ⟨hstatus, hsw⟩)
  · obtain ⟨l, n, hput, hl⟩ := State.fdbPut_takes
      (e := ⟨s.get SW_FDB_KEY_MAC, s.get SW_FDB_KEY_VID, s.get SW_FDB_DATA_PORTS, s.on SW_FDB_DATA_STATIC, s.ticks⟩) rfl rfl h
    obtain ⟨t, ht, hstatus, hsw, -⟩ := fdb_answered hr (exec_fdbWrite a s) (hcmd _ hput)
    refine .of ht ?_
    rw [if_neg h, State.fdbFind, hsw]
    exact ⟨hstatus, find?_key_append hl _ rfl rfl⟩

/-- The command that leaves no entry of the key. -/
theorem fdb_deleted {c : Instr} {op : Nat} (hexec : exec c s = .next (s.regAccess a true SW_FDB_CMD 4 fun t => t.fdbCmd op))
    (h : s.fdbCmd op = (s.setFdb (s.fdbOthers (s.get SW_FDB_KEY_MAC) (s.get SW_FDB_KEY_VID))).res SW_FDB_RES_STATUS .ok) :
    Completes c s fun t => t.get SW_FDB_RES_STATUS = st8 .ok ∧ t.fdbFind (s.get SW_FDB_KEY_MAC) (s.get SW_FDB_KEY_VID) = none ∧
      ∀ m v, ¬ (m = s.get SW_FDB_KEY_MAC ∧ v = s.get SW_FDB_KEY_VID) → t.fdbFind m v = s.fdbFind m v := by
  obtain ⟨t, ht, hstatus, hsw, -⟩ := fdb_answered hr hexec h
  have hfind (m v : Nat) : t.fdbFind m v = (s.fdbOthers (s.get SW_FDB_KEY_MAC) (s.get SW_FDB_KEY_VID)).find? (fun x => x.mac == m && x.vid == v) := by
    rw [State.fdbFind, hsw]
    rfl
  refine .of ht ⟨hstatus, ?_, fun m v hne => ?_⟩
  · rw [hfind, State.find?_others, if_pos ⟨rfl, rfl⟩]
  · rw [hfind, State.find?_others, if_neg hne]

theorem fdbWrite_invalid (hv : s.on SW_FDB_DATA_VALID = false) : Completes (.fdbWrite a) s fun t =>
    t.get SW_FDB_RES_STATUS = st8 .ok ∧ t.fdbFind (s.get SW_FDB_KEY_MAC) (s.get SW_FDB_KEY_VID) = none := by
  obtain ⟨t, ht, hstatus, hnone, -⟩ := fdb_deleted hr (exec_fdbWrite a s) (by unfold State.fdbCmd; simp only [hv]; rfl)
  exact .of ht ⟨hstatus, hnone⟩

theorem fdbDelete_deletes : Completes (.fdbDelete a) s fun t => t.get SW_FDB_RES_STATUS = st8 .ok ∧
    t.fdbFind (s.get SW_FDB_KEY_MAC) (s.get SW_FDB_KEY_VID) = none ∧
    ∀ m v, ¬ (m = s.get SW_FDB_KEY_MAC ∧ v = s.get SW_FDB_KEY_VID) → t.fdbFind m v = s.fdbFind m v :=
  fdb_deleted hr (exec_fdbDelete a s) rfl

theorem fdbRead_shows : Completes (.fdbRead a) s fun t => t.get SW_FDB_RES_STATUS = st8 .ok ∧ t.sw = s.sw ∧
    t.on SW_FDB_DATA_VALID = (s.fdbFind (s.get SW_FDB_KEY_MAC) (s.get SW_FDB_KEY_VID)).isSome ∧
    ∀ e, s.fdbFind (s.get SW_FDB_KEY_MAC) (s.get SW_FDB_KEY_VID) = some e →
      t.get SW_FDB_DATA_PORTS = e.ports % 2 ^ 19 ∧ t.on SW_FDB_DATA_STATIC = e.static := by
  generalize hf : s.fdbFind (s.get SW_FDB_KEY_MAC) (s.get SW_FDB_KEY_VID) = r
  obtain ⟨hlt, hvalid, hentry⟩ := s.fdbShown_fields r
  obtain ⟨t, ht, hstatus, hsw, hdata⟩ := fdb_answered (u := s.wr SW_FDB_DATA (s.fdbShown r)) (st := .ok) hr (exec_fdbRead a s) (by
    unfold State.fdbCmd
    simp only [hf]
    cases r <;> rfl)
  have hget (f : Fld) (h : f.reg = SW_FDB_DATA) : t.get f = bitsOf (s.fdbShown r) f.lo f.w := by
    rw [hdata f h, ← h, State.get_wr_self _ _ _ hlt]
  refine .of ht ⟨hstatus, hsw, ?_, fun e he => ?_⟩
  · rw [State.on, hget SW_FDB_DATA_VALID rfl]
    exact hvalid
  · rw [State.on, hget SW_FDB_DATA_PORTS rfl, hget SW_FDB_DATA_STATIC rfl]
    exact hentry e he

end

/-! ### Ageing and redundancy (R219, R231) -/

theorem exec_fdbAgeExpire (mac : BitVec 48) (vid : BitVec 12) (s : State) : exec (.fdbAgeExpire mac vid) s =
    .next (match s.fdbFind mac.toNat vid.toNat with
      | some e =>
        if s.opens NET 0 && !e.static && decide (250000000 * s.get SW_CTL_AGE_S ≤ s.ticks - e.seen) then s.setFdb (s.sw.fdb.erase e) else s
      | none => s) := rfl

theorem fdbAgeExpire_forgets {mac : BitVec 48} {vid : BitVec 12} {s : State} {e : FdbEntry} (hf : s.fdbFind mac.toNat vid.toNat = some e)
    (ho : s.opens NET 0 = true) (hst : e.static = false) (hage : 250000000 * s.get SW_CTL_AGE_S ≤ s.ticks - e.seen) :
    Completes (.fdbAgeExpire mac vid) s fun t => t.sw = { s.sw with fdb := s.sw.fdb.erase e } ∧ t.regs = s.regs := by
  refine .of (exec_fdbAgeExpire ..) ?_
  rw [hf]
  dsimp only
  rw [if_pos (by rw [ho, hst, decide_eq_true hage]; rfl)]
  exact ⟨rfl, rfl⟩

theorem exec_frerResetTimeout (f : Fin 64) (s : State) : exec (.frerResetTimeout f) s =
    .next (if s.opens NET 0 && s.on (SW_FRER_MATCH_VALID f.val) && s.on (SW_FRER_MATCH_RCV f.val) && (s.frer f.val).recov.isSome then
        (s.setFrer f.val { s.frer f.val with recov := none, hist := 0 }).inc (SW_FRER_CNT_RESETS f.val) 1
      else s) := rfl

theorem State.frer_setFrer (s : State) (f : Nat) (v : FrerSt) : (s.setFrer f v).frer f = v := tabGet_tabSet_self ..

theorem frerResetTimeout_resets {f : Fin 64} {s : State} (ho : s.opens NET 0 = true) (hv : s.on (SW_FRER_MATCH_VALID f.val) = true)
    (hrcv : s.on (SW_FRER_MATCH_RCV f.val) = true) (hs : (s.frer f.val).recov.isSome = true) :
    Completes (.frerResetTimeout f) s fun t => (t.frer f.val).recov = none ∧
      t.get (SW_FRER_CNT_RESETS f.val) = (s.get (SW_FRER_CNT_RESETS f.val) + 1) % 2 ^ 16 := by
  have hfits : (SW_FRER_CNT_RESETS f.val).fits := by simp [Fld.fits, SW_FRER_CNT_RESETS]
  refine .of (exec_frerResetTimeout ..) ?_
  rw [if_pos (by rw [ho, hv, hrcv, hs]; rfl), State.frer, State.sw_inc, ← State.frer, State.frer_setFrer]
  exact ⟨rfl, State.get_put_self _ _ hfits⟩

end Sys2Proof.Machine
end

section
/-! Frames that the switch forwards or drops, and the descriptors of the injection rings (R217 to R220, R224, R225, R233 to R235, R237, R249). -/

namespace Sys2Proof.Machine

open Sys2Proof

/-! ### What counters and learning leave (R219, R248) -/

/-- From `s` to `t` only counters of events, the database and the supply of free values moved on. -/
structure SwitchKept (s t : State) : Prop where
  rest : ∃ r n l, t = { s with regs := r, freeCtr := n, sw := { s.sw with fdb := l } }
  reg : ∀ k, k % 0x10000 < 0xF000 → t.rd k = s.rd k

/-- The registers of a port that the switch uses stand before its counters. -/
theorem portRegs_beforeCounters (p : Nat) : PORT_CFG p % 0x10000 < 0xF000 ∧ PORT_VLAN p % 0x10000 < 0xF000 ∧ PORT_PCPMAP p % 0x10000 < 0xF000 ∧
    PORT_BUF p % 0x10000 < 0xF000 ∧ ∀ q < 8, PORT_Q p q % 0x10000 < 0xF000 := by
  refine ⟨?_, ?_, ?_, ?_, fun q hq => ?_⟩
  all_goals
    simp only [PORT_CFG, PORT_VLAN, PORT_PCPMAP, PORT_BUF, PORT_Q]
    omega

section
variable {s t u : State}

theorem SwitchKept.refl (s : State) : SwitchKept s s := ⟨⟨s.regs, s.freeCtr, s.sw.fdb, rfl⟩, fun _ _ => rfl⟩

theorem SwitchKept.trans (h : SwitchKept s t) (g : SwitchKept t u) : SwitchKept s u := by
  obtain ⟨⟨r, n, l, hu⟩, greg⟩ := g
  obtain ⟨⟨r', n', l', ht⟩, hreg⟩ := h
  exact ⟨⟨r, n, l, by rw [hu, ht]⟩, fun k hk => (greg k hk).trans (hreg k hk)⟩

theorem SwitchKept.portCount (s : State) (p : Nat) {i : Nat} (hi : i < 32) (n : Nat) : SwitchKept s (s.portCount p i n) := by
  obtain ⟨r, hr⟩ := s.portCount_regs p i n
  exact ⟨⟨r, s.freeCtr, s.sw.fdb, hr⟩, fun k hk => s.rd_portCount p hi n hk⟩

theorem SwitchKept.when (s : State) (c : Bool) {f : State → State} (hf : SwitchKept s (f s)) : SwitchKept s (s.when c f) := by
  cases c
  · exact .refl s
  · exact hf

theorem SwitchKept.fdbPut (s : State) (e : FdbEntry) : SwitchKept s (s.fdbPut e).1 := by
  by_cases h : 4 ≤ (s.fdbWays e.mac e.vid).length ∧ ∀ x ∈ s.fdbWays e.mac e.vid, x.static = true
  · rw [State.fdbPut_full rfl rfl h.1 h.2]
    exact .refl s
  · obtain ⟨l, n, hput, -⟩ := State.fdbPut_takes (e := e) rfl rfl h
    rw [hput]
    exact ⟨⟨s.regs, n, l ++ [e], rfl⟩, fun _ _ => rfl⟩

theorem SwitchKept.fdbLearn (s : State) (p mac vid : Nat) : SwitchKept s (s.fdbLearn p mac vid) := by
  unfold State.fdbLearn
  split <;> split
  exacts [.refl s, .fdbPut .., .refl s, .fdbPut ..]

variable (h : SwitchKept s t)
include h

theorem SwitchKept.get {f : Fld} (hf : f.reg % 0x10000 < 0xF000) : t.get f = s.get f := by
  rw [State.get, h.reg _ hf, State.get]

theorem SwitchKept.on {f : Fld} (hf : f.reg % 0x10000 < 0xF000) : t.on f = s.on f := by
  rw [State.on, h.get hf, State.on]

theorem SwitchKept.opens (d b : Nat) : t.opens d b = s.opens d b := by
  obtain ⟨⟨r, n, l, rfl⟩, -⟩ := h
  rfl

theorem SwitchKept.queue (p q : Nat) : t.queue p q = s.queue p q := by
  obtain ⟨⟨r, n, l, rfl⟩, -⟩ := h
  rfl

theorem SwitchKept.capOn : t.capOn = s.capOn := by
  rw [State.capOn, h.opens, h.on (f := CAP_CTL_EN) (by decide), State.capOn]

theorem SwitchKept.enabledPorts : t.enabledPorts = s.enabledPorts := by
  have hen (p : Nat) : t.get (PORT_CFG_EN p) = s.get (PORT_CFG_EN p) := h.get (f := PORT_CFG_EN p) (portRegs_beforeCounters p).1
  unfold State.enabledPorts
  simp only [hen]

theorem SwitchKept.vlanData (vid : Nat) : t.vlanData vid = s.vlanData vid := by
  have hen := h.enabledPorts
  obtain ⟨⟨r, n, l, rfl⟩, -⟩ := h
  unfold State.vlanData
  rw [hen]

theorem SwitchKept.frerOf_none {vid dst : Nat} (hn : s.frerOf vid dst = none) : t.frerOf vid dst = none := by
  refine List.find?_eq_none.mpr fun f hf => ?_
  have hlt : f < 64 := List.mem_range.mp hf
  have hmatch : SW_FRER_MATCH f % 0x10000 < 0xF000 := by simp only [SW_FRER_MATCH]; omega
  rw [h.on (f := SW_FRER_MATCH_VALID f) hmatch, h.get (f := SW_FRER_MATCH_VID f) hmatch, h.get (f := SW_FRER_MATCH_DMAC f) hmatch]
  exact List.find?_eq_none.mp hn f hf

theorem SwitchKept.egressBytes (e : Nat) (f : Fwd) : t.egressBytes e f = s.egressBytes e f := by
  unfold State.egressBytes
  rw [h.vlanData]

theorem SwitchKept.maxSdu (p : Nat) {q : Nat} (hq : q < 8) : t.maxSdu p q = s.maxSdu p q := by
  obtain ⟨hcfg, -, -, -, hqueue⟩ := portRegs_beforeCounters p
  unfold State.maxSdu
  rw [h.get (f := PORT_Q_MAXSDU p q) (hqueue q hq), h.get (f := PORT_CFG_MAXFRAME p) hcfg]

theorem SwitchKept.admits (p : Nat) {q : Nat} (hq : q < 8) (f : QFrame) : t.admits p q f = s.admits p q f := by
  obtain ⟨-, -, -, -, hqueue⟩ := portRegs_beforeCounters p
  have hlimit := h.get (f := PORT_Q_LIMIT p q) (hqueue q hq)
  have hreserve (k : Nat) : t.get (PORT_BUF_RESERVE k) = s.get (PORT_BUF_RESERVE k) := by
    obtain ⟨-, -, -, hbuf, -⟩ := portRegs_beforeCounters k
    exact h.get (f := PORT_BUF_RESERVE k) hbuf
  have hsize : t.sharedSize = s.sharedSize := by
    unfold State.sharedSize
    simp only [hreserve]
  unfold State.admits
  rw [hlimit, hreserve, hsize]
  obtain ⟨⟨r, n, l, rfl⟩, -⟩ := h
  rfl

end

/-! ### The copies of a frame (R220, R224, R225) -/

theorem foldl_unmoved {α β : Type} {g : β → α → β} {l : List α} (h : ∀ b ∈ l, ∀ x, g x b = x) (x : β) : l.foldl g x = x := by
  induction l with
  | nil => rfl
  | cons b r ih =>
    rw [List.foldl_cons, h b List.mem_cons_self]
    exact ih fun c hc => h c (List.mem_cons_of_mem b hc)

/-- A fold in which one member moves the result. -/
theorem foldl_once {α β : Type} {g : β → α → β} {l : List α} {a : α} (hl : l.Nodup) (ha : a ∈ l)
    (h : ∀ b ∈ l, b ≠ a → ∀ x, g x b = x) (x : β) : l.foldl g x = g x a := by
  induction l generalizing x with
  | nil => exact absurd ha List.not_mem_nil
  | cons b r ih =>
    obtain ⟨hb, hr⟩ := List.nodup_cons.mp hl
    rw [List.foldl_cons]
    rcases List.mem_cons.mp ha with rfl | har
    · exact foldl_unmoved (fun c hc => h c (List.mem_cons_of_mem _ hc) fun e => hb (e ▸ hc)) _
    · rw [h b List.mem_cons_self (fun e => hb (e ▸ har))]
      exact ih hr har (fun c hc => h c (List.mem_cons_of_mem _ hc)) x

section
variable {s : State} {e : Nat} {f : Fwd}

/-- A mask of one port. -/
theorem State.egressAll_one {mask : Nat} (he : e < 19) (hmask : ∀ k < 19, bitAt mask k = decide (k = e)) :
    s.egressAll f mask = s.egressCopy e f := by
  unfold State.egressAll
  rw [foldl_once (a := e) List.nodup_range (List.mem_range.mpr he) fun k hk hne r => by
    rw [hmask k (List.mem_range.mp hk), decide_eq_false hne, if_neg Bool.false_ne_true]]
  rw [hmask e he, decide_eq_true rfl, if_pos rfl, if_neg Bool.false_ne_true]
  rfl

theorem State.enqueue_queue (s : State) (p q : Nat) (f : QFrame) :
    ∃ g, (s.enqueue p q f).queue p q = s.queue p q ++ [g] ∧ g.bytes = f.bytes := by
  unfold State.enqueue
  dsimp only
  rw [State.queue_setQueue, State.queue_creditUp]
  exact ⟨_, rfl, rfl⟩

/-- A port whose link is up and that has room takes a copy of a good frame that is not too long. -/
theorem State.egressCopy_taken (hlink : s.on (PORT_STATUS_LINK e) = true) (htc : s.get (PORT_STATUS_TC10 e) ≠ 2) (hf : f.fcsErr = false)
    (hlen : wireLen (s.egressBytes e f) ≤ s.maxSdu e f.queue)
    (hroom : (s.admits e f.queue ⟨s.egressBytes e f, wireLen (s.egressBytes e f), f.inj, false, false, 0⟩).isSome = true) :
    ∃ g, (s.egressCopy e f).1.queue e f.queue = s.queue e f.queue ++ [g] ∧ g.bytes = s.egressBytes e f := by
  obtain ⟨sh, hadm⟩ := Option.isSome_iff_exists.mp hroom
  unfold State.egressCopy
  dsimp only
  rw [beq_eq_false_iff_ne.mpr htc, if_neg Bool.false_ne_true, hlink, hf, decide_eq_false hlen.not_gt]
  simp only [Bool.or_false, Bool.and_false, Bool.not_true, Bool.false_eq_true, if_false, hadm]
  generalize hu : s.when (s.cutThrough e f) (fun t => (t.portCount e 18 1).when false (fun u => u.portCount e 19 1)) = u
  have hkept : SwitchKept s u := hu ▸ SwitchKept.when s _ (SwitchKept.portCount s e (by decide) 1)
  rw [← hkept.queue]
  exact u.enqueue_queue ..

end

/-! ### Frames from the wire (R217 to R220) -/

theorem exec_ethFrameReceive (p : EthPort) (b : List Byte) (fcsErr ipErr : Bool) (phase : Fin 8) (s : State) :
    exec (.ethFrameReceive p b fcsErr ipErr phase) s = .next (s.ethReceive p.val b fcsErr ipErr phase.val) := rfl

/-- The counts of a good frame that arrives. -/
def State.ethCounted (s : State) (p : Nat) (b : List Byte) : State := (s.portCount p 0 1).portCount p 1 ((b.length + 4 + 63) / 64)

theorem SwitchKept.ethCounted (s : State) (p : Nat) (b : List Byte) : SwitchKept s (s.ethCounted p b) :=
  (SwitchKept.portCount s p (by decide) 1).trans (.portCount _ p (by decide) _)

theorem State.sw_ethCounted (s : State) (p : Nat) (b : List Byte) : (s.ethCounted p b).sw = s.sw := by
  rw [State.ethCounted, State.sw_portCount, State.sw_portCount]

theorem State.cap_ethCounted (s : State) (p : Nat) (b : List Byte) : (s.ethCounted p b).cap = s.cap := by
  rw [State.ethCounted, State.cap_portCount, State.cap_portCount]

section
variable {p phase : Nat} {b : List Byte} {s : State} (hup : s.portUp p = true)
include hup

theorem State.ethReceive_long (hlong : s.get (PORT_CFG_MAXFRAME p) < b.length + 4) :
    s.ethReceive p b false false phase = (s.ethCounted p b).portCount p 5 1 := by
  rw [← (SwitchKept.ethCounted s p b).get (f := PORT_CFG_MAXFRAME p) (portRegs_beforeCounters p).1] at hlong
  unfold State.ethReceive
  rw [hup]
  exact if_pos hlong

theorem State.ethReceive_classified (hfit : b.length + 4 ≤ s.get (PORT_CFG_MAXFRAME p)) (htype : ethType b ≠ 0x88F7) (hptp : ptpInUdp b = false) :
    s.ethReceive p b false false phase = (s.ethCounted p b).ethClassify p b false false ((s.ethCounted p b).stampNow 0 phase) := by
  rw [← (SwitchKept.ethCounted s p b).get (f := PORT_CFG_MAXFRAME p) (portRegs_beforeCounters p).1] at hfit
  unfold State.ethReceive
  rw [hup, hptp]
  exact (if_neg hfit.not_gt).trans (if_neg fun h => htype (beq_iff_eq.mp h))

end

section
variable {p : Nat} {b : List Byte} {s : State} {stamp : Stamp} (htag : ethTagged b = false)
include htag

/-- A frame of a VLAN that the port is not a member of. -/
theorem State.ethClassify_foreign (hv : bitAt (s.vlanData (s.get (PORT_VLAN_PVID p))) p = false) :
    s.ethClassify p b false false stamp = s.portCount p 25 1 := by
  unfold State.ethClassify
  rw [htag]
  exact if_pos (show (!bitAt (s.vlanData (s.get (PORT_VLAN_PVID p))) p) = true by rw [hv]; rfl)

/-- With no forward rule and no capture, a frame is learned from and switched. -/
theorem State.ethClassify_switched (hv : bitAt (s.vlanData (s.get (PORT_VLAN_PVID p))) p = true) (hcap : s.capOn = false)
    (hfwd : s.opens HST 3 = false) : s.ethClassify p b false false stamp =
      ((s.fdbLearn p (ethSrc b) (s.get (PORT_VLAN_PVID p))).switch ⟨some p, b, s.get (PORT_VLAN_PVID p), s.get (PORT_VLAN_DEFPCP p),
        bitsOf (s.get (PORT_PCPMAP_MAP p)) (3 * s.get (PORT_VLAN_DEFPCP p)) 3, false, false, none⟩).1 := by
  obtain ⟨here, hhere⟩ : ∃ here, (if 17 ≤ p then (s, false) else s.ethForward (s.get (PORT_VLAN_PVID p)) b false stamp) = (s, here) := by
    unfold State.ethForward State.fwdRule
    rw [hfwd]
    split
    · exact ⟨false, rfl⟩
    · exact ⟨true, rfl⟩
  unfold State.ethClassify
  simp only [htag, Bool.false_eq_true, if_false, beq_self_eq_true, if_true, hv, Bool.not_true, hhere, hcap, Bool.not_false, Bool.true_or]

end

/-- The ports that a frame reaches, where only one member of its VLAN besides its own port takes it. -/
theorem bitAt_oneMember {members enabled p e : Nat} (hp : e ≠ p)
    (hone : putBits (Nat.land members enabled) p 1 0 = 2 ^ e) (k : Nat) :
    bitAt (Nat.land (Nat.lor (putBits (Nat.land members enabled) p 1 0) 0) enabled) k = decide (k = e) := by
  have hkept : bitAt (putBits (Nat.land members enabled) p 1 0) e = bitAt (Nat.land members enabled) e := by
    unfold bitAt
    rcases Nat.lt_or_gt_of_ne hp with h | h
    · rw [bitsOf_putBits_below (by omega)]
    · rw [bitsOf_putBits_above (by omega)]
  have hen : enabled.testBit e = true := by
    rw [hone, bitAt_eq_testBit, Nat.testBit_two_pow_self, bitAt_eq_testBit, show Nat.land members enabled = members &&& enabled from rfl,
      Nat.testBit_and] at hkept
    exact (Bool.and_eq_true_iff.mp hkept.symm).2
  rw [hone, bitAt_eq_testBit, show Nat.land (Nat.lor (2 ^ e) 0) enabled = (2 ^ e ||| 0) &&& enabled from rfl, Nat.or_zero, Nat.testBit_and,
    Nat.testBit_two_pow]
  by_cases hk : k = e
  · rw [hk, hen]
    simp
  · simp [hk, Ne.symm hk]

section
variable {p e : Nat} {f : Fwd} {s : State} (hin : f.ingress = some p) (hfn : s.frerOf f.vid (ethDst f.bytes) = none)
  (hgroup : bitAt (ethDst f.bytes) 40 = true) (hlink : ethDst f.bytes / 16 ≠ 0x0180C200000) (he : e < 19) (hne : e ≠ p)
  (hone : putBits (Nat.land (Nat.land (s.vlanData f.vid) (2 ^ 19 - 1)) s.enabledPorts) p 1 0 = 2 ^ e)
include hin hfn hgroup hlink he hne hone

/-- A multicast frame of no stream whose VLAN has one other port. -/
theorem State.switch_oneMember : ∃ u, SwitchKept s u ∧ s.switch f = u.egressCopy e f := by
  have hports : s.fwdPorts (some p) f.vid (ethDst f.bytes) =
      (putBits (Nat.land (Nat.land (s.vlanData f.vid) (2 ^ 19 - 1)) s.enabledPorts) p 1 0, true) := by
    unfold State.fwdPorts
    exact (if_neg (fun h => hlink (beq_iff_eq.mp h))).trans (if_pos hgroup)
  have hkept : SwitchKept s (s.when (true && decide (p < 19)) fun t => t.portCount p 7 1) := .when _ _ (.portCount _ _ (by decide) 1)
  refine ⟨_, hkept, ?_⟩
  rw [← State.egressAll_one he fun k _ => bitAt_oneMember hne hone k]
  unfold State.switch
  simp only [hfn, hports, hin, Bool.not_true, Bool.false_eq_true, if_false, Option.getD_some]
  rw [hkept.enabledPorts]

end

section
variable {p e : EthPort} {b : List Byte} {phase : Fin 8} {s : State} (hup : s.portUp p.val = true)
include hup

theorem ethFrameReceive_long (hlong : s.get (PORT_CFG_MAXFRAME p.val) < b.length + 4) :
    Completes (.ethFrameReceive p b false false phase) s fun t => t.sw = s.sw ∧ t.cap = s.cap := by
  refine .of (exec_ethFrameReceive ..) ?_
  rw [State.ethReceive_long hup hlong, State.sw_portCount, State.cap_portCount]
  exact ⟨State.sw_ethCounted .., State.cap_ethCounted ..⟩

variable (hfit : b.length + 4 ≤ s.get (PORT_CFG_MAXFRAME p.val)) (htype : ethType b ≠ 0x88F7)
  (hptp : ptpInUdp b = false) (htag : ethTagged b = false)
include hfit htype hptp htag

theorem ethFrameReceive_foreign (hv : bitAt (s.vlanData (s.get (PORT_VLAN_PVID p.val))) p.val = false) :
    Completes (.ethFrameReceive p b false false phase) s fun t => t.sw = s.sw ∧ t.cap = s.cap := by
  have hkept := SwitchKept.ethCounted s p.val b
  obtain ⟨-, hvlan, -, -, -⟩ := portRegs_beforeCounters p.val
  have hpvid := hkept.get (f := PORT_VLAN_PVID p.val) hvlan
  refine .of (exec_ethFrameReceive ..) ?_
  rw [State.ethReceive_classified hup hfit htype hptp, State.ethClassify_foreign htag (by rw [hpvid, hkept.vlanData, hv]), State.sw_portCount,
    State.cap_portCount]
  exact ⟨State.sw_ethCounted .., State.cap_ethCounted ..⟩

theorem ethFrameReceive_queued (hv : bitAt (s.vlanData (s.get (PORT_VLAN_PVID p.val))) p.val = true) (hcap : s.capOn = false)
    (hfwd : s.opens HST 3 = false) (hfn : s.frerOf (s.get (PORT_VLAN_PVID p.val)) (ethDst b) = none) (hgroup : bitAt (ethDst b) 40 = true)
    (hlocal : ethDst b / 16 ≠ 0x0180C200000) (hne : e.val ≠ p.val)
    (hone : putBits (Nat.land (Nat.land (s.vlanData (s.get (PORT_VLAN_PVID p.val))) (2 ^ 19 - 1)) s.enabledPorts) p.val 1 0 = 2 ^ e.val)
    (hlink : s.on (PORT_STATUS_LINK e.val) = true) (htc : s.get (PORT_STATUS_TC10 e.val) ≠ 2) {q : Nat} {f : Fwd}
    (hq : q = bitsOf (s.get (PORT_PCPMAP_MAP p.val)) (3 * s.get (PORT_VLAN_DEFPCP p.val)) 3)
    (hf : f = ⟨some p.val, b, s.get (PORT_VLAN_PVID p.val), s.get (PORT_VLAN_DEFPCP p.val), q, false, false, none⟩)
    (hlen : wireLen (s.egressBytes e.val f) ≤ s.maxSdu e.val q)
    (hroom : (s.admits e.val q ⟨s.egressBytes e.val f, wireLen (s.egressBytes e.val f), none, false, false, 0⟩).isSome = true) :
    Completes (.ethFrameReceive p b false false phase) s fun t =>
      ∃ g, t.queue e.val q = s.queue e.val q ++ [g] ∧ g.bytes = s.egressBytes e.val f := by
  obtain ⟨-, hvlan, hpcp, -, -⟩ := portRegs_beforeCounters p.val
  obtain ⟨hstatus, -⟩ := portStatus_beforeCounters e.val
  have hq8 : q < 8 := hq ▸ bitsOf_lt ..
  have hcount := SwitchKept.ethCounted s p.val b
  have hlearn := hcount.trans (.fdbLearn _ p.val (ethSrc b) (s.get (PORT_VLAN_PVID p.val)))
  have hpvid := hcount.get (f := PORT_VLAN_PVID p.val) hvlan
  have hprio := hcount.get (f := PORT_VLAN_DEFPCP p.val) hvlan
  have hmap := hcount.get (f := PORT_PCPMAP_MAP p.val) hpcp
  obtain ⟨u, hflood, hswitch⟩ := State.switch_oneMember (s := (s.ethCounted p.val b).fdbLearn p.val (ethSrc b) (s.get (PORT_VLAN_PVID p.val)))
    (p := p.val) (e := e.val) (f := f) (by rw [hf]) (by rw [hf]; exact hlearn.frerOf_none hfn) (by rw [hf]; exact hgroup) (by rw [hf]; exact hlocal)
    (by omega) hne (by rw [hf, hlearn.vlanData, hlearn.enabledPorts]; exact hone)
  have hkept := hlearn.trans hflood
  have hqueue : f.queue = q := by rw [hf]
  have hinj : f.inj = none := by rw [hf]
  obtain ⟨g, hg, hbytes⟩ := u.egressCopy_taken (e := e.val) (f := f) (by rw [hkept.on (f := PORT_STATUS_LINK e.val) hstatus, hlink])
    (by rw [hkept.get (f := PORT_STATUS_TC10 e.val) hstatus]; exact htc) (by rw [hf])
    (by rw [hqueue, hkept.egressBytes, hkept.maxSdu _ hq8]; exact hlen) (by rw [hqueue, hinj, hkept.egressBytes, hkept.admits _ hq8]; exact hroom)
  refine .of (exec_ethFrameReceive ..) ?_
  rw [State.ethReceive_classified hup hfit htype hptp, State.ethClassify_switched htag (by rw [hpvid, hcount.vlanData, hv]) (by rw [hcount.capOn, hcap])
    (by rw [hcount.opens, hfwd]), hpvid, hprio, hmap, ← hq, ← hf, hswitch]
  rw [hqueue, hkept.queue] at hg
  exact ⟨g, hg, by rw [hbytes, hkept.egressBytes]⟩

end

/-! ### Injection rings (R233 to R235, R249) -/

theorem injRing_fits (r : Nat) : (SW_INJ_CFG_EN r).fits ∧ (SW_INJ_CFG_STOPPED r).fits ∧ (SW_INJ_TAIL_TAIL r).fits ∧ (SW_INJ_HEAD_HEAD r).fits ∧
    (SW_INJ_CFG_EN r).apart (SW_INJ_CFG_STOPPED r) := by
  simp [Fld.fits, Fld.apart, SW_INJ_CFG_EN, SW_INJ_CFG_STOPPED, SW_INJ_TAIL_TAIL, SW_INJ_HEAD_HEAD]

theorem injRing_ne {r : Nat} (hr : r < 8) : SW_INJ_CFG r ≠ SW_INJ_TAIL r ∧ SW_INJ_CFG r ≠ SW_INJ_HEAD r ∧ SW_INJ_TAIL r ≠ SW_INJ_HEAD r ∧
    SW_INJ_CFG r ≠ DAP_STATUS ∧ SW_INJ_TAIL r ≠ DAP_STATUS ∧ SW_INJ_HEAD r ≠ DAP_STATUS := by
  simp only [SW_INJ_CFG, SW_INJ_TAIL, SW_INJ_HEAD, DAP_STATUS]
  omega

theorem exec_injRingEnable (a : Agent) (r : Fin 8) (s : State) : exec (.injRingEnable a r) s =
    .next (s.regAccess a true (SW_INJ_CFG r.val) 4 (fun t => t.injEnWrite r.val true)) := rfl

/-- A ring as it starts. -/
def State.injStarted (s : State) (r : Nat) : State :=
  (((s.put (SW_INJ_CFG_EN r) 1).put (SW_INJ_TAIL_TAIL r) 0).put (SW_INJ_HEAD_HEAD r) 0).put (SW_INJ_CFG_STOPPED r) 0

theorem State.injStarted_fields (s : State) {r : Nat} (hr : r < 8) : (s.injStarted r).on (SW_INJ_CFG_EN r) = true ∧
    (s.injStarted r).get (SW_INJ_TAIL_TAIL r) = 0 ∧ (s.injStarted r).get (SW_INJ_HEAD_HEAD r) = 0 ∧
    (s.injStarted r).on (SW_INJ_CFG_STOPPED r) = false := by
  obtain ⟨fen, fstop, ftail, fhead, apart⟩ := injRing_fits r
  obtain ⟨hct, hch, hth, -, -, -⟩ := injRing_ne hr
  unfold State.injStarted
  refine ⟨?_, ?_, ?_, State.on_put_zero _ fstop rfl⟩
  · rw [State.on_put_apart _ _ fstop apart, State.on_put_ne (f := SW_INJ_HEAD_HEAD r) (g := SW_INJ_CFG_EN r) _ _ hch,
      State.on_put_ne (f := SW_INJ_TAIL_TAIL r) (g := SW_INJ_CFG_EN r) _ _ hct, State.on_put_one _ fen rfl]
  · rw [State.get_put_ne (f := SW_INJ_CFG_STOPPED r) (g := SW_INJ_TAIL_TAIL r) _ _ hct.symm,
      State.get_put_ne (f := SW_INJ_HEAD_HEAD r) (g := SW_INJ_TAIL_TAIL r) _ _ hth, State.get_put_small _ ftail (Nat.two_pow_pos _)]
  · rw [State.get_put_ne (f := SW_INJ_CFG_STOPPED r) (g := SW_INJ_HEAD_HEAD r) _ _ hch.symm, State.get_put_small _ fhead (Nat.two_pow_pos _)]

theorem injRingEnable_starts {a : Agent} {r : Fin 8} {s : State} (hr : s.Reached a true (SW_INJ_CFG r.val) 4)
    (hoff : s.on (SW_INJ_CFG_EN r.val) = false) : Completes (.injRingEnable a r) s fun t => t.on (SW_INJ_CFG_EN r.val) = true ∧
      t.get (SW_INJ_TAIL_TAIL r.val) = 0 ∧ t.get (SW_INJ_HEAD_HEAD r.val) = 0 ∧ t.on (SW_INJ_CFG_STOPPED r.val) = false := by
  obtain ⟨-, -, -, hcfg, htail, hhead⟩ := injRing_ne r.isLt
  have hstart : s.injEnWrite r.val true = s.injStarted r.val := by
    unfold State.injEnWrite injEn injTail injHead State.setInjStopped
    simp only [if_pos r.isLt, hoff, Bool.not_false, Bool.and_true, if_true]
    rfl
  refine .of (exec_injRingEnable ..) ?_
  rw [State.regAccess_reached _ hr, hstart, State.on_ended (f := SW_INJ_CFG_EN r.val) _ _ hcfg, State.get_ended (f := SW_INJ_TAIL_TAIL r.val) _ _ htail,
    State.get_ended (f := SW_INJ_HEAD_HEAD r.val) _ _ hhead, State.on_ended (f := SW_INJ_CFG_STOPPED r.val) _ _ hcfg]
  exact s.injStarted_fields r.isLt

theorem exec_injDescTake (r : Fin 8) (s : State) : exec (.injDescTake r) s = .next (s.injTake r.val) := rfl

theorem injDescTake_parks {r : Fin 8} {s u v : State} {ref : InjRef} {b : List Byte} {sh : Bool} (hfetch : s.injFetch r.val = (u, some ref))
    (hjudge : u.injJudge ref.desc = .ok) (hbuf : u.injBuf ref = (v, some b)) (hport : bitsOf ref.desc 80 5 < 19) (hhold : bitAt ref.desc 88 = true)
    (hroom : v.admits (bitsOf ref.desc 80 5) (bitsOf ref.desc 85 3) ⟨b, wireLen b, some ref, false, false, 0⟩ = some sh) :
    Completes (.injDescTake r) s fun t =>
      t.get (SW_INJ_HEAD_HEAD r.val) = ((v.get (SW_INJ_HEAD_HEAD r.val) + 1) % 2 ^ v.get (SW_INJ_CFG_LOG2 r.val)) % 2 ^ 16 ∧
      ∃ k, t.sw.parked = v.sw.parked ++ [k] ∧ k.port = bitsOf ref.desc 80 5 ∧ k.queue = bitsOf ref.desc 85 3 ∧ k.tag = bitsOf ref.desc 96 16 ∧
        k.frame.bytes = b := by
  obtain ⟨-, -, -, fhead, -⟩ := injRing_fits r.val
  obtain ⟨k, hk, hpark⟩ : ∃ k : Parked, (k.port = bitsOf ref.desc 80 5 ∧ k.queue = bitsOf ref.desc 85 3 ∧ k.tag = bitsOf ref.desc 96 16 ∧
      k.frame.bytes = b) ∧ s.injTake r.val = ({ v with sw := { v.sw with parked := v.sw.parked ++ [k] } } : State).injNext r.val := by
    refine ⟨⟨bitsOf ref.desc 80 5, bitsOf ref.desc 85 3, bitsOf ref.desc 96 16, ⟨b, wireLen b, some ref, false, sh, v.ticks⟩⟩,
      ⟨rfl, rfl, rfl, rfl⟩, ?_⟩
    have hok : (Status.ok != Status.ok) = false := rfl
    unfold State.injTake
    simp only [hfetch, hjudge, hok, Bool.false_eq_true, if_false, hbuf, if_pos hport, hroom, hhold, if_true]
  refine .of (exec_injDescTake ..) ?_
  rw [hpark, State.injNext, injHead, injLog, if_pos r.isLt, if_pos r.isLt, State.get_put_self _ _ fhead]
  exact ⟨rfl, k, rfl, hk⟩

theorem exec_injDescComplete (r : Fin 8) (s : State) : exec (.injDescComplete r) s = .next (s.injComplete r.val) := rfl

theorem injDescComplete_leaves {r : Fin 8} {s : State} {d : InjDone} (hd : s.sw.done.find? (fun d => d.ref.ring == r.val) = some d)
    (ho : s.opens NET 0 = true) : Completes (.injDescComplete r) s fun t => t.sw.done = s.sw.done.erase d := by
  obtain ⟨⟨l, hl⟩, -⟩ := State.injWrite_keeps ({ s with sw := { s.sw with done := s.sw.done.erase d } } : State) d
  refine .of (exec_injDescComplete ..) ?_
  unfold State.injComplete
  rw [hd]
  dsimp only
  rw [if_pos ho, hl]

/-! ### Taking a parked frame back (R235, R237) -/

theorem exec_swUnpark (a : Agent) (port : BitVec 5) (queue : BitVec 3) (tag : BitVec 16) (s : State) : exec (.swUnpark a port queue tag) s =
    .next (s.regAccess a true SW_UNPARK 4 (fun t => t.unpark port.toNat queue.toNat tag.toNat)) := rfl

theorem State.get_unparkRes (s : State) (a : Agent) (st : Status) : ((s.res SW_UNPARK_RES_STATUS st).ended a).get SW_UNPARK_RES_STATUS = st8 st := by
  rw [State.get_ended (f := SW_UNPARK_RES_STATUS) _ _ (by decide)]
  exact State.get_res_byte _ _ (by simp [Fld.fits, SW_UNPARK_RES_STATUS]) rfl

section
variable {a : Agent} {port : BitVec 5} {queue : BitVec 3} {tag : BitVec 16} {s : State} (hr : s.Reached a true SW_UNPARK 4)
include hr

theorem swUnpark_takes {k : Parked}
    (hk : s.sw.parked.find? (fun k => k.port == port.toNat && k.queue == queue.toNat && k.tag == tag.toNat) = some k) :
    Completes (.swUnpark a port queue tag) s fun t => t.sw.parked = s.sw.parked.erase k ∧ t.get SW_UNPARK_RES_STATUS = st8 .ok := by
  have hunpark : s.unpark port.toNat queue.toNat tag.toNat = (({ s with sw := { s.sw with parked := s.sw.parked.erase k } } : State).injDone
      port.toNat k.frame.inj .ok true none).res SW_UNPARK_RES_STATUS .ok := by
    unfold State.unpark
    rw [hk]
  obtain ⟨l, hl⟩ := ({ s with sw := { s.sw with parked := s.sw.parked.erase k } } : State).sw_injDone port.toNat k.frame.inj .ok true none
  refine .of (exec_swUnpark ..) ?_
  rw [State.regAccess_reached _ hr, hunpark, State.get_unparkRes, State.sw_ended, State.sw_res, hl]
  exact ⟨rfl, rfl⟩

theorem swUnpark_late (hk : s.sw.parked.find? (fun k => k.port == port.toNat && k.queue == queue.toNat && k.tag == tag.toNat) = none) :
    Completes (.swUnpark a port queue tag) s fun t => t.sw = s.sw ∧
      (t.get SW_UNPARK_RES_STATUS = st8 .unavailable ∨ t.get SW_UNPARK_RES_STATUS = st8 .tooLate) := by
  have hunpark : s.unpark port.toNat queue.toNat tag.toNat = s.res SW_UNPARK_RES_STATUS
      (if s.sw.lastLaunch == some (s.ticks, port.toNat, queue.toNat, tag.toNat) then .tooLate else .unavailable) := by
    unfold State.unpark
    rw [hk]
  refine .of (exec_swUnpark ..) ?_
  rw [State.regAccess_reached _ hr, hunpark, State.get_unparkRes, State.sw_ended, State.sw_res]
  split
  · exact ⟨rfl, .inr rfl⟩
  · exact ⟨rfl, .inl rfl⟩

end

/-- Settles O23: the entry written has no other entry of its key before it (`find?_key_append`), and what a frame counts and teaches leaves the
port that takes its copy (`SwitchKept`). -/
theorem switchCommandsComplete : Obligations.SwitchCommandsComplete := by
  refine ⟨fun a s hr => ?_, fun _ _ _ _ => fdbAgeExpire_forgets, fun _ _ => frerResetTimeout_resets, fun p b phase s hup => ?_,
    fun _ _ _ => injRingEnable_starts, fun _ _ _ _ _ _ _ => injDescTake_parks, fun _ _ _ => injDescComplete_leaves,
    fun _ _ _ _ _ hr => ⟨fun _ => swUnpark_takes hr, swUnpark_late hr⟩⟩
  · dsimp only
    rw [← State.fdbWays_eq]
    exact ⟨fdbWrite_valid hr, fdbWrite_invalid hr, fdbDelete_deletes hr, fdbRead_shows hr⟩
  · refine ⟨ethFrameReceive_long hup, fun hfit htype hptp htag => ⟨ethFrameReceive_foreign hup hfit htype hptp htag, ?_⟩⟩
    exact fun hv hcap hfwd hfn hgroup hlocal e hne hone hlink htc hlen hroom =>
      ethFrameReceive_queued hup hfit htype hptp htag hv hcap hfwd hfn hgroup hlocal hne hone hlink htc rfl rfl hlen hroom

end Sys2Proof.Machine
end

section
/-! The ledger engine's operations on records and blocks: a block that closes, a record that joins the open block or is refused, and what
of the engine and of `LDG_STATUS` each of them leaves (R253, R256, R260, R266). -/

namespace Sys2Proof.Machine

open Sys2Proof

@[simp] theorem State.ldg_setLdg (s : State) (v : LdgSt) : (s.setLdg v).ldg = v := rfl

/-! ### The fields of the engine's registers -/

theorem ldgStatus_fits : LDG_STATUS_STATE.fits ∧ LDG_STATUS_SIGUNAVAIL.fits ∧ LDG_STATUS_STORE_ERR.fits ∧ LDG_STATUS_RESULT.fits := by
  unfold Fld.fits
  decide

theorem ldgStaged_fits : LDG_STATUS_STAGED.fits := by
  unfold Fld.fits
  decide

theorem ldgEn_fits : LDG_CTL_EN.fits := by
  unfold Fld.fits
  decide

theorem ldgLost_fits : LDG_LOST_COUNT.fits := by
  unfold Fld.fits
  decide

theorem ldgReplay_fits : LDG_RPL_RES_STATUS.fits ∧ LDG_RPL_RES_BUSY.fits := by
  unfold Fld.fits
  decide

theorem ldgIrq_fits : LDG_IRQ_STATUS_WRITTEN.fits ∧ LDG_IRQ_STATUS_SIGFAIL.fits ∧ LDG_IRQ_STATUS_SIGNED.fits ∧ LDG_IRQ_STATUS_LOST.fits ∧
    LDG_IRQ_STATUS_RPLDONE.fits := by
  unfold Fld.fits
  decide

/-- The fields of `LDG_STATUS` share no bit with STAGED, and STATE none with STORE_ERR and RESULT. -/
theorem ldgStatus_apart : LDG_STATUS_STATE.apart LDG_STATUS_STAGED ∧ LDG_STATUS_SIGUNAVAIL.apart LDG_STATUS_STAGED ∧
    LDG_STATUS_RESULT.apart LDG_STATUS_STAGED ∧ LDG_STATUS_STORE_ERR.apart LDG_STATUS_STATE ∧ LDG_STATUS_RESULT.apart LDG_STATUS_STATE ∧
    LDG_STATUS_STATE.apart LDG_STATUS_RESULT := by
  unfold Fld.apart
  decide

theorem ldgPage_place (w : World) : (LDG_W_RES_STATUS (worldNum w)).fits ∧ LDG_W_RES (worldNum w) ≠ DAP_STATUS := by
  unfold Fld.fits
  cases w <;> decide

/-! ### What records and blocks leave -/

/-- From `s` to `t` records and blocks moved on: an orderly close under way stays so, and of `LDG_STATUS` STAGED alone changed. -/
structure RecordsOnly (s t : State) : Prop where
  closing : t.ldg.closing = s.ldg.closing
  get : ∀ f : Fld, f.reg = LDG_STATUS → f.apart LDG_STATUS_STAGED → t.get f = s.get f

namespace RecordsOnly

theorem refl (s : State) : RecordsOnly s s := ⟨rfl, fun _ _ _ => rfl⟩

theorem trans {s t u : State} (h : RecordsOnly s t) (g : RecordsOnly t u) : RecordsOnly s u :=
  ⟨g.closing.trans h.closing, fun f hf ha => (g.get f hf ha).trans (h.get f hf ha)⟩

/-- The engine's own state changes, but not the orderly close. -/
theorem ldg (s : State) (v : LdgSt) (h : v.closing = s.ldg.closing := by rfl) : RecordsOnly s { s with ldg := v } := ⟨h, fun _ _ _ => rfl⟩

theorem put {s t : State} (h : RecordsOnly s t) {f : Fld} (v : Nat) (hf : LDG_STATUS ≠ f.reg) : RecordsOnly s (t.put f v) :=
  h.trans ⟨rfl, fun _ hg _ => State.get_put_ne _ _ (hg ▸ hf)⟩

theorem putStaged {s t : State} (h : RecordsOnly s t) (v : Nat) : RecordsOnly s (t.put LDG_STATUS_STAGED v) :=
  h.trans ⟨rfl, fun _ _ ha => State.get_put_apart _ _ ldgStaged_fits ha⟩

theorem sync (s : State) : RecordsOnly s s.ldgSync := by
  unfold State.ldgSync
  dsimp only
  split
  · exact ((ldg s _).putStaged _).put _ (by decide)
  · exact (ldg s _).putStaged _

theorem when (s : State) (c : Bool) {f : State → State} (h : RecordsOnly s (f s)) : RecordsOnly s (s.when c f) := by
  cases c
  · exact refl s
  · exact h

theorem close (s : State) (g : Bool) : RecordsOnly s (s.ldgClose g) := by
  unfold State.ldgClose
  split
  · exact refl s
  · dsimp only
    refine .trans (.trans (State.each_keeps (P := RecordsOnly s) _ (ldg s _) fun i hi t ht => ht.put _ ?hash) (when _ _ ?sign)) (sync _)
    case hash =>
      simp only [LDG_STATUS, LDG_LASTHASH_HASH, LDG_LASTHASH]
      omega
    case sign => split <;> exact ldg _ _

theorem append (s : State) (r : Rec) : RecordsOnly s (s.ldgAppend r) := by
  unfold State.ldgAppend
  split
  · exact ldg s _
  · dsimp only
    split
    · exact (ldg s _).trans (close ..)
    · exact ldg s _

theorem refuse (s : State) (t : Nat) : RecordsOnly s (s.ldgRefuse t) := by
  unfold State.ldgRefuse
  exact ((ldg s _).put _ (by decide)).put _ (by decide)

theorem gap (s : State) : RecordsOnly s s.ldgGap := by
  unfold State.ldgGap
  split
  · exact refl s
  · split
    · exact (ldg s _).trans (append ..)
    · exact refl s

theorem accept (s : State) (r : Rec) : RecordsOnly s (s.ldgAccept r) := by
  unfold State.ldgAccept
  split
  · exact refl s
  split
  · exact refuse ..
  split
  · exact ((ldg s _).put _ (by decide)).put _ (by decide)
  · dsimp only
    split
    · exact (gap s).trans (append ..)
    · exact (gap s).trans (refuse ..)

theorem flush (s : State) : RecordsOnly s s.ldgFlush := by
  unfold State.ldgFlush
  split
  · split
    · exact refl s
    · exact close ..
  · exact refl s

theorem pair (s : State) (a b : Rec) : RecordsOnly s (s.ldgPair a b) := by
  unfold State.ldgPair
  refine .trans ?_ ((append ..).trans (append ..))
  split
  · split
    · exact close ..
    · exact refl s
  · exact refl s

end RecordsOnly

/-! ### The writes issued, a gap -/

/-- Bringing the registers up to the engine issues writes; nothing else of the engine changes (R264). -/
theorem State.ldg_ldgSync (s : State) : ∃ out, s.ldgSync.ldg = { s.ldg with outstanding := out } := by
  unfold State.ldgSync
  dsimp only
  split <;> exact ⟨_, rfl⟩

theorem State.on_ldgSync_written (s : State) : s.ldgSync.on LDG_IRQ_STATUS_WRITTEN = s.on LDG_IRQ_STATUS_WRITTEN := by
  unfold State.ldgSync
  dsimp only
  split
  · exact (State.on_put_ne _ _ (by decide)).trans (State.on_put_ne _ _ (by decide))
  · exact State.on_put_ne _ _ (by decide)

theorem State.ldgGap_none {s : State} (h : s.ldg.gap = none) : s.ldgGap = s := by
  unfold State.ldgGap
  rw [h]

/-! ### A block that closes (R260) -/

/-- The open block `b` as it closes. -/
def State.shut (s : State) (b : LBlock) (lastgasp : Bool) : LBlock :=
  { b with short := decide (b.recs.length < 63), unsigned := s.on LDG_STATUS_SIGUNAVAIL, lastgasp := lastgasp,
           provisional := s.on LDG_STATUS_PROVISIONAL }

/-- The block `c` joins the closed ones, and its successor opens with its hash (R259, R260). -/
def State.ldgStage (s : State) (c : LBlock) : State :=
  s.setLdg { s.ldg with staged := s.ldg.staged ++ [c], lastHash := blockHash c, opened := some (s.newBlock (c.seq + 1) (blockHash c)) }

/-- The block `seq` ends a group: its signature is asked for, or due after the one outstanding (R261). -/
def State.endGroup (s : State) (seq : Nat) : State :=
  if s.ldg.signReq.isNone then s.ldgSign seq false else { s with ldg := { s.ldg with signDue := some seq } }

/-- `LDG_LASTHASH` shows the hash of the last closed block. -/
def State.showHash (s : State) (h : Nat) : State := s.each [0, 1, 2, 3] fun i t => t.put (LDG_LASTHASH_HASH i) (h / 2 ^ (64 * i))

@[simp] theorem State.ldg_showHash (s : State) (h : Nat) : (s.showHash h).ldg = s.ldg :=
  State.each_same State.ldg _ (f := fun i t => t.put (LDG_LASTHASH_HASH i) (h / 2 ^ (64 * i))) (fun _ _ _ => rfl) s

theorem State.ldgClose_eq {s : State} {b : LBlock} (g : Bool) (h : s.ldg.opened = some b) : s.ldgClose g =
    (((s.ldgStage (s.shut b g)).showHash (blockHash (s.shut b g))).when (b.seq % 64 == 63 && !s.on LDG_STATUS_SIGUNAVAIL)
      fun t => t.endGroup b.seq).ldgSync := by
  unfold State.ldgClose
  rw [h]
  rfl

theorem State.ldg_endGroup (s : State) (seq : Nat) : ∃ req due, (s.endGroup seq).ldg = { s.ldg with signReq := req, signDue := due } := by
  unfold State.endGroup
  split <;> exact ⟨_, _, rfl⟩

/-- The closed block is staged and its successor opens; only writes issued and signing follow. -/
theorem State.ldgClose_stages {s : State} {b : LBlock} (g : Bool) (h : s.ldg.opened = some b) :
    (s.ldgClose g).ldg.staged = s.ldg.staged ++ [s.shut b g] ∧
    (s.ldgClose g).ldg.opened = some (s.newBlock (b.seq + 1) (blockHash (s.shut b g))) := by
  rw [State.ldgClose_eq g h]
  generalize (b.seq % 64 == 63 && !s.on LDG_STATUS_SIGUNAVAIL) = c
  obtain ⟨out, hout⟩ := (((s.ldgStage (s.shut b g)).showHash (blockHash (s.shut b g))).when c fun t => t.endGroup b.seq).ldg_ldgSync
  rw [hout]
  cases c
  · rw [State.when_false, State.ldg_showHash]
    exact ⟨rfl, rfl⟩
  · obtain ⟨req, due, hgroup⟩ := ((s.ldgStage (s.shut b g)).showHash (blockHash (s.shut b g))).ldg_endGroup b.seq
    rw [State.when_true, hgroup, State.ldg_showHash]
    exact ⟨rfl, rfl⟩

/-! ### A record that joins the open block, or is refused (R253, R256) -/

/-- The engine runs with the open block `b`, and nothing keeps a record from it but room: no last gasp, no orderly close, no gap to write. -/
structure State.Recording (s : State) (b : LBlock) : Prop where
  runs : s.runs HST 2 = true
  gasp : s.ldg.gasp = false
  closed : s.ldg.closed = none
  gap : s.ldg.gap = none
  opened : s.ldg.opened = some b

section
variable {s : State} {b : LBlock} (h : s.Recording b)
include h

theorem State.Recording.unstaged (reg : Nat) : (s.unstaged reg).Recording b := ⟨h.runs, h.gasp, h.closed, h.gap, h.opened⟩

theorem State.Recording.accept (r : Rec) : s.ldgAccept r = if ldgRoom s.ldg r.typ then s.ldgAppend r else s.ldgRefuse r.vt := by
  unfold State.ldgAccept
  rw [h.runs, h.gasp, h.closed, State.ldgGap_none h.gap]
  rfl

theorem State.Recording.append (r : Rec) (hl : b.recs.length < 62) :
    s.ldgAppend r = s.setLdg { s.ldg with opened := some { b with recs := b.recs ++ [r] } } := by
  have hopen : ¬ (b.recs ++ [r]).length = 63 := by
    rw [List.length_append, List.length_singleton]
    omega
  unfold State.ldgAppend
  simp only [h.opened, beq_iff_eq, if_neg hopen]
  rfl

theorem State.Recording.joins {r : Rec} (hroom : ldgRoom s.ldg r.typ = true) (hl : b.recs.length < 62) :
    s.ldgAccept r = s.setLdg { s.ldg with opened := some { b with recs := b.recs ++ [r] } } := by
  rw [h.accept, if_pos hroom, h.append r hl]

theorem State.Recording.refuses {r : Rec} (hroom : ldgRoom s.ldg r.typ = false) : s.ldgAccept r = s.ldgRefuse r.vt := by
  rw [h.accept, hroom, if_neg Bool.false_ne_true]

end

theorem State.ldgRefuse_counts (s : State) (t : Nat) : (s.ldgRefuse t).ldg.opened = s.ldg.opened ∧
    (s.ldgRefuse t).get LDG_LOST_COUNT = (s.get LDG_LOST_COUNT + 1) % 2 ^ LDG_LOST_COUNT.w ∧ (s.ldgRefuse t).on LDG_IRQ_STATUS_LOST = true := by
  obtain ⟨-, -, -, hlost, -⟩ := ldgIrq_fits
  refine ⟨rfl, ?_, State.on_raise_one _ hlost rfl⟩
  rw [State.ldgRefuse, State.raise, State.get_put_ne _ _ (by decide), State.inc, State.get_put_self _ _ ldgLost_fits]
  rfl

end Sys2Proof.Machine
end

section
/-! The commands that write records and close blocks: hardware and software records, FLUSH and the timer, the orderly close (R253, R256,
R258, R260, R266). -/

namespace Sys2Proof.Machine

open Sys2Proof

/-! ### A hardware record -/

theorem exec_ledgerRecordAccept (r : Rec) (s : State) : exec (.ledgerRecordAccept r) s = .next (s.ldgAccept r) := rfl

section
variable {s : State} {b : LBlock} {r : Rec} (h : s.Recording b)
include h

theorem ledgerRecordAccept_joins (hroom : ldgRoom s.ldg r.typ = true) (hl : b.recs.length < 62) :
    Completes (.ledgerRecordAccept r) s fun t =>
      t.ldg = { s.ldg with opened := some { b with recs := b.recs ++ [r] } } ∧ t.regs = s.regs :=
  .of ((exec_ledgerRecordAccept ..).trans (congrArg _ (h.joins hroom hl))) ⟨rfl, rfl⟩

theorem ledgerRecordAccept_refused (hroom : ldgRoom s.ldg r.typ = false) : Completes (.ledgerRecordAccept r) s fun t =>
    t.ldg.opened = s.ldg.opened ∧ t.get LDG_LOST_COUNT = (s.get LDG_LOST_COUNT + 1) % 2 ^ LDG_LOST_COUNT.w ∧ t.on LDG_IRQ_STATUS_LOST = true :=
  .of ((exec_ledgerRecordAccept ..).trans (congrArg _ (h.refuses hroom))) (s.ldgRefuse_counts r.vt)

end

/-! ### A software record (R258) -/

/-- No type that software writes has a share in the slots reserved (R256). -/
theorem ldgRoom_software (l : LdgSt) {typ : Nat} (h : 0x80 ≤ typ) : ldgRoom l typ = decide (64 < ldgFree l) := by
  have hr : recReserved typ = false := by
    simp only [recReserved, List.contains_eq_mem, List.mem_cons, List.not_mem_nil, or_false, decide_eq_false_iff_not]
    omega
  rw [ldgRoom, hr, if_neg Bool.false_ne_true]

theorem exec_ledgerSwRecord (a : Agent) (w : World) (typ : BitVec 8) (len : BitVec 6) (sub : BitVec 16) (s : State) :
    exec (.ledgerSwRecord a w typ len sub) s = .next (s.regAccess a true (LDG_W_CMD (worldNum w)) 8 fun t =>
      (t.unstaged (LDG_W_CMD (worldNum w))).swRecord w typ.toNat len.toNat sub.toNat) := rfl

section
variable {s : State} {w : World} {typ len sub : Nat} (hb : s.on (LDG_W_RES_BUSY (worldNum w)) = false)
include hb

theorem State.swRecord_denied (h : typ < 0x80 ∨ 48 < len) : s.swRecord w typ len sub = s.res (LDG_W_RES_STATUS (worldNum w)) .denied := by
  unfold State.swRecord
  simp only [hb, Bool.false_eq_true, if_false, Bool.or_eq_true, decide_eq_true_eq, if_pos h]

/-- A record that the table of R258 lets through is offered to the engine, and the room decides the status. -/
theorem State.swRecord_offered {b : LBlock} (h : s.Recording b) (htyp : 0x80 ≤ typ) (hlen : len ≤ 48) :
    ∃ r : Rec, (r.typ = typ ∧ r.len = len ∧ r.sub = sub ∧ r.nsw = (w == .normal)) ∧ s.swRecord w typ len sub =
      (s.ldgAccept r).res (LDG_W_RES_STATUS (worldNum w)) (if ldgFree s.ldg ≤ 64 then .full else .ok) := by
  have hgood : ¬ (typ < 0x80 ∨ 48 < len) := by omega
  unfold State.swRecord
  simp only [hb, h.closed, h.gasp, State.ldgGap_none h.gap, Bool.false_eq_true, if_false, Bool.or_eq_true, decide_eq_true_eq, if_neg hgood,
    Option.isNone_none, Bool.not_false, Bool.and_self, if_true]
  exact ⟨_, ⟨rfl, rfl, rfl, rfl⟩, rfl⟩

end

section
variable {a : Agent} {w : World} {typ : BitVec 8} {len : BitVec 6} {sub : BitVec 16} {s : State} {b : LBlock}
  (hr : s.Reached a true (LDG_W_CMD (worldNum w)) 8) (hb : s.on (LDG_W_RES_BUSY (worldNum w)) = false)
include hr hb

theorem ledgerSwRecord_denied (h : typ.toNat < 0x80 ∨ 48 < len.toNat) : Completes (.ledgerSwRecord a w typ len sub) s fun t =>
    t.get (LDG_W_RES_STATUS (worldNum w)) = st8 .denied ∧ t.ldg = s.ldg := by
  obtain ⟨hf, hd⟩ := ldgPage_place w
  refine .of (exec_ledgerSwRecord ..) ?_
  rw [State.regAccess_reached _ hr, State.swRecord_denied (s := s.unstaged _) hb h]
  exact ⟨(State.get_ended _ a hd).trans (State.get_res_byte _ _ hf rfl), State.ldg_ended ..⟩

variable (h : s.Recording b) (htyp : 0x80 ≤ typ.toNat) (hlen : len.toNat ≤ 48)
include h htyp hlen

theorem ledgerSwRecord_ok (hroom : 64 < ldgFree s.ldg) (hl : b.recs.length < 62) : Completes (.ledgerSwRecord a w typ len sub) s fun t =>
    t.get (LDG_W_RES_STATUS (worldNum w)) = st8 .ok ∧
    ∃ r, t.ldg.opened = some { b with recs := b.recs ++ [r] } ∧ r.typ = typ.toNat ∧ r.len = len.toNat ∧ r.sub = sub.toNat ∧
      r.nsw = (w == .normal) := by
  obtain ⟨hf, hd⟩ := ldgPage_place w
  have hu := h.unstaged (LDG_W_CMD (worldNum w))
  obtain ⟨r, hshape, heq⟩ := State.swRecord_offered (s := s.unstaged _) (sub := sub.toNat) hb hu htyp hlen
  have hfits : ldgRoom s.ldg r.typ = true := by rw [hshape.1, ldgRoom_software _ htyp, decide_eq_true hroom]
  rw [State.ldg_unstaged, if_neg (Nat.not_le.mpr hroom)] at heq
  refine .of (exec_ledgerSwRecord ..) ?_
  rw [State.regAccess_reached _ hr, heq, hu.joins hfits hl, State.ldg_ended, State.get_ended _ a hd]
  exact ⟨State.get_res_byte _ _ hf rfl, r, rfl, hshape⟩

theorem ledgerSwRecord_full (hroom : ldgFree s.ldg ≤ 64) : Completes (.ledgerSwRecord a w typ len sub) s fun t =>
    t.get (LDG_W_RES_STATUS (worldNum w)) = st8 .full ∧ t.ldg.opened = s.ldg.opened := by
  obtain ⟨hf, hd⟩ := ldgPage_place w
  have hu := h.unstaged (LDG_W_CMD (worldNum w))
  obtain ⟨r, ⟨htype, -⟩, heq⟩ := State.swRecord_offered (s := s.unstaged _) (sub := sub.toNat) hb hu htyp hlen
  have hfull : ldgRoom s.ldg r.typ = false := by rw [htype, ldgRoom_software _ htyp, decide_eq_false (Nat.not_lt.mpr hroom)]
  rw [State.ldg_unstaged, if_pos hroom] at heq
  refine .of (exec_ledgerSwRecord ..) ?_
  rw [State.regAccess_reached _ hr, heq, hu.refuses hfull, State.ldg_ended, State.get_ended _ a hd]
  exact ⟨State.get_res_byte _ _ hf rfl, rfl⟩

end

/-! ### FLUSH and the timer (R260) -/

theorem exec_ledgerFlush (a : Agent) (s : State) : exec (.ledgerFlush a) s = .next (s.regAccess a true LDG_CTL 4 State.ldgFlush) := rfl

theorem exec_blockCloseTimer (s : State) :
    exec .blockCloseTimer s = .next (if s.runs HST 2 && s.get LDG_CTL_CLOSE_MS != 0 then s.ldgFlush else s) := rfl

/-- From `s` to `t` the open block `b` closes: it is staged, and its successor carries its hash. -/
def State.Closes (s t : State) (b : LBlock) : Prop :=
  ∃ c k, t.ldg.staged = s.ldg.staged ++ [c] ∧ c.seq = b.seq ∧ c.recs = b.recs ∧ t.ldg.opened = some k ∧ k.seq = b.seq + 1 ∧
    k.prev = blockHash c ∧ k.recs = []

section
variable {s : State} {b : LBlock} (ho : s.ldg.opened = some b) (hne : b.recs ≠ [])
include ho hne

theorem State.ldgFlush_closes : s.Closes s.ldgFlush b := by
  have hflush : s.ldgFlush = s.ldgClose false := by
    unfold State.ldgFlush
    simp only [ho, List.isEmpty_iff, if_neg hne]
  obtain ⟨hstaged, hopened⟩ := State.ldgClose_stages false ho
  rw [hflush]
  exact ⟨s.shut b false, _, hstaged, rfl, rfl, hopened, rfl, rfl, rfl⟩

theorem ledgerFlush_closes {a : Agent} (hr : s.Reached a true LDG_CTL 4) : Completes (.ledgerFlush a) s fun t => s.Closes t b := by
  refine .of (exec_ledgerFlush ..) ?_
  rw [State.regAccess_reached _ hr, State.Closes, State.ldg_ended]
  exact State.ldgFlush_closes ho hne

theorem blockCloseTimer_closes (hr : s.runs HST 2 = true) (hc : s.get LDG_CTL_CLOSE_MS ≠ 0) :
    Completes .blockCloseTimer s fun t => s.Closes t b := by
  refine .of (exec_blockCloseTimer s) ?_
  rw [hr, bne_iff_ne.mpr hc, Bool.and_self, if_pos rfl]
  exact State.ldgFlush_closes ho hne

end

/-! ### The orderly close (R266) -/

theorem exec_ledgerOrderlyClose (reason : CloseFor) (s : State) :
    exec (.ledgerOrderlyClose reason) s = .next (if s.ldg.closing == some reason then s.orderlyClose else s) := rfl

theorem exec_orderlyCloseDone (s : State) : exec .orderlyCloseDone s = .next s.closeDone := rfl

section
variable {s : State} {reason : CloseFor} (h : s.ldg.closing = some reason)
include h

theorem ledgerOrderlyClose_closes (hc : s.ldg.closed = none) : Completes (.ledgerOrderlyClose reason) s fun t =>
    t.ldg.closed = some (s.vt 0, 0) ∧ t.ldg.closing = some reason := by
  have heq : s.orderlyClose =
      let u := (s.ldgAccept (s.recNow 0 0x02 0 ldgSrc (closeSub reason) 0)).ldgFlush
      u.setLdg { u.ldg with closed := some (s.vt 0, 0) } := by
    unfold State.orderlyClose
    rw [h, hc]
    rfl
  refine .of (exec_ledgerOrderlyClose ..) ?_
  rw [h, beq_self_eq_true, if_pos rfl, heq]
  exact ⟨rfl, (((RecordsOnly.accept ..).trans (.flush _)).closing).trans h⟩

theorem orderlyCloseDone_ends (hc : s.ldg.closed.isSome = true) : Completes .orderlyCloseDone s fun t =>
    t.ldg.closing = none ∧ t.ldg.closed = s.ldg.closed := by
  refine .of (exec_orderlyCloseDone s) ?_
  unfold State.closeDone
  rw [h, hc, Option.isSome_some, Bool.and_self, if_pos rfl]
  exact ⟨rfl, State.when_same (fun t => t.ldg.closed) s _ rfl⟩

end

end Sys2Proof.Machine
end

section
/-! Signing and the NVMe store: a signature that returns or fails, the retry, and the writes of blocks (R255, R261, R262, R264). -/

namespace Sys2Proof.Machine

open Sys2Proof

/-! ### Signing -/

theorem exec_signatureReturn (ok : Bool) (r v : BitVec 256) (s : State) :
    exec (.signatureReturn ok r v) s = .next (if s.runs HST 2 then s.signReturn ok r.toNat v.toNat else s) := rfl

theorem exec_signTimeout (s : State) : exec .signTimeout s = .next (if s.ldg.signReq.isSome then s.signFail else s) := rfl

theorem exec_signRetry (s : State) : exec .signRetry s = .next s.signRetry := rfl

/-- A failed request leaves SIGUNAVAIL and SIGFAIL set, and no request. -/
theorem State.signFail_shows (s : State) : s.signFail.ldg = { s.ldg with signReq := none, signDue := none } ∧
    s.signFail.on LDG_STATUS_SIGUNAVAIL = true ∧ s.signFail.on LDG_IRQ_STATUS_SIGFAIL = true := by
  obtain ⟨-, hunav, -⟩ := ldgStatus_fits
  obtain ⟨-, hfail, -⟩ := ldgIrq_fits
  refine ⟨rfl, ?_, State.on_raise_one _ hfail rfl⟩
  exact (State.on_put_ne _ _ (by decide)).trans (State.on_put_one _ hunav rfl)

/-- A request answered is no longer outstanding, and signing is available. -/
def State.signAnswered (s : State) : State := (s.setLdg { s.ldg with signReq := none, signDue := none }).put LDG_STATUS_SIGUNAVAIL 0

section
variable {s : State} {seq : Nat} {cu : Bool} (h : s.ldg.signReq = some (seq, cu))
include h

/-- With room for the pair, a signature returned is appended and reported. -/
theorem State.signReturn_appends (r v : Nat) (hc : s.ldg.closed = none) (hg : s.ldg.gasp = false) (hf : 3 ≤ ldgFree s.ldg)
    (hd : s.ldg.signDue = none) : ∃ p q key, s.signReturn true r v =
      (((s.signAnswered.ldgPair p q).wr LDG_SIGNED seq).put LDG_KEYID_KEYID key).raise LDG_IRQ_STATUS_SIGNED 1 := by
  have hroom : ¬ (s.signAnswered.ldg.closed.isSome || s.signAnswered.ldg.gasp || decide (ldgFree s.signAnswered.ldg < 3)) = true := by
    have hfree : ldgFree s.signAnswered.ldg = ldgFree s.ldg := rfl
    have hkept : s.signAnswered.ldg.closed = none ∧ s.signAnswered.ldg.gasp = false := ⟨hc, hg⟩
    rw [hfree, hkept.1, hkept.2, decide_eq_false (Nat.not_lt.mpr hf)]
    decide
  have heq : s.signReturn true r v = s.signAnswered.signAppend seq cu r v := by
    unfold State.signReturn
    rw [h, hd]
    rfl
  rw [heq]
  unfold State.signAppend
  exact ⟨_, _, _, if_neg hroom⟩

theorem signatureReturn_signs (r v : BitVec 256) (hr : s.runs HST 2 = true) (hc : s.ldg.closed = none) (hg : s.ldg.gasp = false)
    (hf : 3 ≤ ldgFree s.ldg) (hd : s.ldg.signDue = none) : Completes (.signatureReturn true r v) s fun t =>
      t.rd LDG_SIGNED = seq % 2 ^ 64 ∧ t.on LDG_STATUS_SIGUNAVAIL = false ∧ t.on LDG_IRQ_STATUS_SIGNED = true := by
  obtain ⟨-, hunav, -⟩ := ldgStatus_fits
  obtain ⟨-, -, hsigned, -⟩ := ldgIrq_fits
  obtain ⟨-, hapart, -⟩ := ldgStatus_apart
  obtain ⟨p, q, key, heq⟩ := State.signReturn_appends h r.toNat v.toNat hc hg hf hd
  refine .of (exec_signatureReturn ..) ?_
  rw [hr, if_pos rfl, heq]
  refine ⟨?_, ?_, State.on_raise_one _ hsigned rfl⟩
  · rw [State.raise, State.rd_put_ne _ _ (by decide), State.rd_put_ne _ _ (by decide), State.rd_wr_self]
  · rw [State.raise, State.on_put_ne _ _ (by decide), State.on_put_ne _ _ (by decide), State.on, State.get_wr_ne _ _ (by decide),
      (RecordsOnly.pair ..).get _ rfl hapart]
    exact State.on_put_zero _ hunav rfl

theorem signatureReturn_fails (r v : BitVec 256) (hr : s.runs HST 2 = true) : Completes (.signatureReturn false r v) s fun t =>
    t.ldg = { s.ldg with signReq := none, signDue := none } ∧ t.on LDG_STATUS_SIGUNAVAIL = true ∧ t.on LDG_IRQ_STATUS_SIGFAIL = true := by
  have heq : s.signReturn false r.toNat v.toNat = s.signFail := by
    unfold State.signReturn
    rw [h]
    rfl
  refine .of (exec_signatureReturn ..) ?_
  rw [hr, if_pos rfl, heq]
  exact s.signFail_shows

theorem signTimeout_fails : Completes .signTimeout s fun t =>
    t.ldg = { s.ldg with signReq := none, signDue := none } ∧ t.on LDG_STATUS_SIGUNAVAIL = true ∧ t.on LDG_IRQ_STATUS_SIGFAIL = true := by
  refine .of (exec_signTimeout s) ?_
  rw [h, Option.isSome_some, if_pos rfl]
  exact s.signFail_shows

end

theorem signRetry_asks {s : State} {b : LBlock} (ho : s.ldg.opened = some b) (hu : s.on LDG_STATUS_SIGUNAVAIL = true)
    (hq : s.ldg.signReq = none) (hseq : b.seq ≠ 0) :
    Completes .signRetry s fun t => t.ldg = { s.ldg with signReq := some (b.seq - 1, true) } ∧ t.regs = s.regs := by
  have heq : s.signRetry = s.ldgSign (b.seq - 1) true := by
    unfold State.signRetry
    simp only [ho, hu, hq, Option.isNone_none, bne_iff_ne.mpr hseq, Bool.and_self, if_true]
  exact .of ((exec_signRetry s).trans (congrArg _ heq)) ⟨rfl, rfl⟩

/-! ### The writes of blocks (R264) -/

theorem exec_nvmeWriteComplete (seq : Nat) (ok : Bool) (s : State) :
    exec (.nvmeWriteComplete seq ok) s = .next (if s.runs HST 2 then s.nvmeDone seq (ok && s.pcieLink) else s) := rfl

/-- The block `seq` is written: it leaves staging, which WRITTEN shows. -/
def State.blockWritten (s : State) (seq : Nat) : State :=
  (s.setLdg { s.ldg with staged := s.ldg.staged.filter (fun b => b.seq != seq), outstanding := s.ldg.outstanding.filter (· != seq),
                         fails := tabSet (fun _ => 0) s.ldg.fails seq 0 }).raise LDG_IRQ_STATUS_WRITTEN 1

section
variable {s : State} {seq : Nat} (ho : seq ∈ s.ldg.outstanding)
include ho

/-- After a write without a gap to record, only the control copy may follow. -/
theorem State.nvmeDone_ok (hgap : s.ldg.gap = none) : ∃ c, s.nvmeDone seq true = ((s.blockWritten seq).when c State.ldgCtlWrite).ldgSync := by
  refine ⟨!(s.blockWritten seq).ldg.gasp && decide ((ldgNext s.ldg).1 / 64 < (ldgNext (s.blockWritten seq).ldg).1 / 64), ?_⟩
  have hkept (c : Bool) : ((s.blockWritten seq).when c State.ldgCtlWrite).ldg.gap = none :=
    (State.when_same (fun t => t.ldg.gap) _ c rfl).trans hgap
  have hnogap (c d : Bool) : ((s.blockWritten seq).when c State.ldgCtlWrite).when d State.ldgGap = (s.blockWritten seq).when c State.ldgCtlWrite :=
    State.when_same id _ d (State.ldgGap_none (hkept c))
  unfold State.nvmeDone
  rw [List.contains_iff_mem.mpr ho, Bool.not_true, if_neg Bool.false_ne_true, if_pos rfl]
  exact congrArg State.ldgSync (hnogap ..)

theorem nvmeWriteComplete_written (hr : s.runs HST 2 = true) (hlink : s.pcieLink = true) (hgap : s.ldg.gap = none) :
    Completes (.nvmeWriteComplete seq true) s fun t =>
      t.ldg.staged = s.ldg.staged.filter (fun b => b.seq != seq) ∧ t.on LDG_IRQ_STATUS_WRITTEN = true := by
  obtain ⟨hwritten, -⟩ := ldgIrq_fits
  obtain ⟨c, heq⟩ := State.nvmeDone_ok ho hgap
  obtain ⟨out, hout⟩ := ((s.blockWritten seq).when c State.ldgCtlWrite).ldg_ldgSync
  refine .of (exec_nvmeWriteComplete ..) ?_
  rw [hr, if_pos rfl, hlink, Bool.and_self, heq, hout]
  refine ⟨State.when_same (fun t => t.ldg.staged) _ c rfl, ?_⟩
  rw [State.on_ldgSync_written]
  exact (State.when_same (fun t => t.on LDG_IRQ_STATUS_WRITTEN) _ c rfl).trans (State.on_raise_one _ hwritten rfl)

/-- A failed write is counted, or stops the store. -/
theorem State.nvmeDone_failed : s.nvmeDone seq false =
    if tabGet (fun _ => 0) s.ldg.fails seq < 3 then
      s.setLdg { s.ldg with fails := tabSet (fun _ => 0) s.ldg.fails seq (tabGet (fun _ => 0) s.ldg.fails seq + 1) }
    else (((s.setLdg { s.ldg with fails := [], outstanding := [] }).put LDG_STATUS_STORE_ERR 1).put LDG_STATUS_STATE 3).raise
      LDG_IRQ_STATUS_STORE_ERR 1 := by
  unfold State.nvmeDone
  rw [List.contains_iff_mem.mpr ho, Bool.not_true, if_neg Bool.false_ne_true, if_neg Bool.false_ne_true]
  rfl

theorem nvmeWriteComplete_counted (hr : s.runs HST 2 = true) (hn : tabGet (fun _ => 0) s.ldg.fails seq < 3) :
    Completes (.nvmeWriteComplete seq false) s fun t =>
      tabGet (fun _ => 0) t.ldg.fails seq = tabGet (fun _ => 0) s.ldg.fails seq + 1 ∧ t.regs = s.regs := by
  refine .of (exec_nvmeWriteComplete ..) ?_
  rw [hr, if_pos rfl, Bool.false_and, State.nvmeDone_failed ho, if_pos hn]
  refine ⟨?_, rfl⟩
  simp only [State.ldg_setLdg, tabGet_tabSet_self]

theorem nvmeWriteComplete_stops (hr : s.runs HST 2 = true) (hn : 3 ≤ tabGet (fun _ => 0) s.ldg.fails seq) :
    Completes (.nvmeWriteComplete seq false) s fun t =>
      t.get LDG_STATUS_STATE = 3 ∧ t.on LDG_STATUS_STORE_ERR = true ∧ t.ldg.staged = s.ldg.staged := by
  obtain ⟨hstate, -, herr, -⟩ := ldgStatus_fits
  obtain ⟨-, -, -, hapart, -⟩ := ldgStatus_apart
  refine .of (exec_nvmeWriteComplete ..) ?_
  rw [hr, if_pos rfl, Bool.false_and, State.nvmeDone_failed ho, if_neg (Nat.not_lt.mpr hn), State.raise]
  refine ⟨?_, ?_, rfl⟩
  · rw [State.get_put_ne _ _ (by decide), State.get_put_small _ hstate (by decide)]
  · rw [State.on_put_ne _ _ (by decide), State.on_put_apart _ _ hstate hapart, State.on_put_one _ herr rfl]

end

end Sys2Proof.Machine
end

section
/-! EN and REINIT, the reads of the resume, the replay, the PCIe link, and the clauses of O26 (R135, R265, R268). -/

namespace Sys2Proof.Machine

open Sys2Proof

/-! ### EN and REINIT (R265) -/

theorem exec_ledgerResume (a : Agent) (s : State) :
    exec (.ledgerResume a) s = .next (s.regAccess a true LDG_CTL 4 fun t => t.ldgEnWrite true) := rfl

theorem exec_ledgerReinit (a : Agent) (s : State) :
    exec (.ledgerReinit a) s = .next (s.regAccess a true LDG_CTL 4 fun t => t.setLdg { t.ldg with reinit := true }) := rfl

section
variable {a : Agent} {s : State} (hr : s.Reached a true LDG_CTL 4)
include hr

theorem ledgerResume_starts (he : s.on LDG_CTL_EN = false) : Completes (.ledgerResume a) s fun t =>
    t.on LDG_CTL_EN = true ∧ t.get LDG_STATUS_STATE = 1 ∧ t.ldg.resuming = true := by
  obtain ⟨hstate, -⟩ := ldgStatus_fits
  have heq : s.ldgEnWrite true = ((s.put LDG_CTL_EN 1).put LDG_STATUS_STATE 1).setLdg { s.ldg with resuming := true, fails := [] } := by
    unfold State.ldgEnWrite
    rw [he]
    rfl
  refine .of (exec_ledgerResume ..) ?_
  rw [State.regAccess_reached _ hr, heq, State.on_ended _ _ (by decide), State.get_ended _ _ (by decide), State.ldg_ended,
    State.on_setLdg, State.on_put_ne _ _ (by decide), State.on_put_one _ ldgEn_fits rfl, State.get_setLdg, State.get_put_small _ hstate (by decide)]
  exact ⟨rfl, rfl, rfl⟩

theorem ledgerReinit_marks : Completes (.ledgerReinit a) s fun t => t.ldg = { s.ldg with reinit := true } := by
  refine .of (exec_ledgerReinit ..) ?_
  rw [State.regAccess_reached _ hr, State.ldg_ended]
  rfl

end

/-! ### The reads of the resume (R265) -/

theorem exec_resumeReadComplete (ok : Bool) (copies : List (Option CtlCopy)) (blocks : List LBlock) (s : State) :
    exec (.resumeReadComplete ok copies blocks) s = .next (if !s.runs HST 2 || !s.ldg.resuming then s
      else if !ok || !s.pcieLink then s.resumeFail .unavailable else s.resumeRead copies blocks) := rfl

theorem State.resumeFail_shows (s : State) (st : Status) : (s.resumeFail st).get LDG_STATUS_RESULT = st8 st ∧
    (s.resumeFail st).get LDG_STATUS_STATE = 3 ∧ (s.resumeFail st).ldg.resuming = false := by
  obtain ⟨hstate, -, -, hresult⟩ := ldgStatus_fits
  obtain ⟨-, -, -, -, hapart, -⟩ := ldgStatus_apart
  rw [State.resumeFail, State.get_setLdg, State.get_setLdg, State.get_put_apart _ _ hstate hapart, State.get_put_small _ hstate (by decide)]
  exact ⟨State.get_res_byte _ _ hresult rfl, rfl, rfl⟩

/-- The resume ends well: RUNNING, the GAP record of a chain that was kept, a signature of blocks not yet signed. -/
def State.resumed (s : State) (kept : Bool) : State :=
  let s := ((s.put LDG_STATUS_STORE_ERR 0).put LDG_STATUS_STATE 2).res LDG_STATUS_RESULT .ok
  let s := s.when kept State.ldgReopen
  let seq := match s.ldg.opened with | some b => b.seq | none => 0
  (s.when (s.ldg.signReq.isNone && !s.on LDG_STATUS_SIGUNAVAIL && signedCount (s.rd LDG_SIGNED) < seq && !kept)
    fun t => t.ldgSign (seq - 1) true).ldgSync

section
variable {s : State} {copies : List (Option CtlCopy)} (blocks : List LBlock)

theorem State.resumeRead_denied (h : s.get LDG_NS_LBADS ≠ 12 ∨ s.get LDG_RING_LBAS < 66) :
    s.resumeRead copies blocks = s.resumeFail .denied := by
  unfold State.resumeRead
  extract_lets lbas init best wrong
  refine if_pos ?_
  simp only [Bool.or_eq_true, bne_iff_ne, decide_eq_true_eq]
  exact .inl h

/-- A ring that fits resumes: whatever the chain is, the resume ends the same way. -/
theorem State.resumeRead_resumed (hl : s.get LDG_NS_LBADS = 12) (hn : 66 ≤ s.get LDG_RING_LBAS)
    (hw : ∀ i c, bestCopy copies = some (i, c) → s.ldg.reinit = false → c.ringlen = s.get LDG_RING_LBAS - 2) :
    ∃ u kept, s.resumeRead copies blocks = State.resumed u kept := by
  unfold State.resumeRead
  extract_lets lbas init best wrong
  have hring : wrong = false := by
    dsimp only [wrong, best, init, lbas]
    split
    case h_1 i c hbest =>
      cases hi : s.ldg.reinit
      · rw [hw i c hbest hi, bne_self_eq_false, Bool.and_false]
      · rfl
    case h_2 => rfl
  have hgood : ¬ (s.get LDG_NS_LBADS != 12 || decide (lbas < 66) || wrong) = true := by
    rw [hl, hring, decide_eq_false (Nat.not_lt.mpr hn)]
    decide
  exact ⟨_, _, if_neg hgood⟩

theorem State.get_ldgReopen (s : State) {f : Fld} (hf : f.reg = LDG_STATUS) (ha : f.apart LDG_STATUS_STAGED) : s.ldgReopen.get f = s.get f := by
  unfold State.ldgReopen
  split
  · rfl
  · exact (RecordsOnly.accept ..).get f hf ha

theorem State.resumed_shows (s : State) (kept : Bool) :
    (s.resumed kept).get LDG_STATUS_RESULT = st8 .ok ∧ (s.resumed kept).get LDG_STATUS_STATE = 2 := by
  obtain ⟨hstate, -, -, hresult⟩ := ldgStatus_fits
  obtain ⟨hst, -, hres, -, -, hapart⟩ := ldgStatus_apart
  have hlast {f : Fld} (hf : f.reg = LDG_STATUS) (ha : f.apart LDG_STATUS_STAGED) : (s.resumed kept).get f =
      (((s.put LDG_STATUS_STORE_ERR 0).put LDG_STATUS_STATE 2).res LDG_STATUS_RESULT .ok).get f := by
    refine ((RecordsOnly.sync _).get f hf ha).trans ((State.when_same (fun t => t.get f) _ _ rfl).trans ?_)
    exact State.when_same (fun t => t.get f) _ kept (State.get_ldgReopen _ hf ha)
  rw [hlast rfl hres, hlast rfl hst]
  exact ⟨State.get_res_byte _ _ hresult rfl, (State.get_put_apart _ _ hresult hapart).trans (State.get_put_small _ hstate (by decide))⟩

variable (hr : s.runs HST 2 = true) (hq : s.ldg.resuming = true)
include hr hq

theorem resumeReadComplete_unavailable : Completes (.resumeReadComplete false copies blocks) s fun t =>
    t.get LDG_STATUS_RESULT = st8 .unavailable ∧ t.get LDG_STATUS_STATE = 3 ∧ t.ldg.resuming = false := by
  refine .of (exec_resumeReadComplete ..) ?_
  rw [hr, hq]
  exact s.resumeFail_shows .unavailable

variable (hlink : s.pcieLink = true)
include hlink

theorem exec_resumeReadComplete_read :
    exec (.resumeReadComplete true copies blocks) s = .next (s.resumeRead copies blocks) := by
  rw [exec_resumeReadComplete, hr, hq, hlink]
  rfl

theorem resumeReadComplete_denied (h : s.get LDG_NS_LBADS ≠ 12 ∨ s.get LDG_RING_LBAS < 66) :
    Completes (.resumeReadComplete true copies blocks) s fun t => t.get LDG_STATUS_RESULT = st8 .denied ∧ t.get LDG_STATUS_STATE = 3 := by
  obtain ⟨hresult, hstate, -⟩ := s.resumeFail_shows .denied
  refine .of (exec_resumeReadComplete_read blocks hr hq hlink) ?_
  rw [State.resumeRead_denied blocks h]
  exact ⟨hresult, hstate⟩

theorem resumeReadComplete_ok (hl : s.get LDG_NS_LBADS = 12) (hn : 66 ≤ s.get LDG_RING_LBAS)
    (hw : ∀ i c, bestCopy copies = some (i, c) → s.ldg.reinit = false → c.ringlen = s.get LDG_RING_LBAS - 2) :
    Completes (.resumeReadComplete true copies blocks) s fun t => t.get LDG_STATUS_RESULT = st8 .ok ∧ t.get LDG_STATUS_STATE = 2 := by
  obtain ⟨u, kept, heq⟩ := State.resumeRead_resumed blocks hl hn hw
  refine .of (exec_resumeReadComplete_read blocks hr hq hlink) ?_
  rw [heq]
  exact u.resumed_shows kept

end

/-! ### Replay (R268) -/

/-- The blocks asked for are not all among the last RINGLEN written, or no chain has begun; a count of 0 asks for none. -/
abbrev State.replayBad (s : State) : Prop :=
  s.get LDG_RPL_COUNT_COUNT ≠ 0 ∧ ((ldgNext s.ldg).1 < s.rd LDG_RPL_FIRST + s.get LDG_RPL_COUNT_COUNT ∨
    s.rd LDG_RPL_FIRST + s.ldg.ringlen < (ldgNext s.ldg).1 ∨ s.ldg.opened = none)

section
variable {s : State} {op : Nat} (h0 : op ≠ 0) (hb : s.on LDG_RPL_RES_BUSY = false)
include h0 hb

theorem State.replayCmd_eq : s.replayCmd op = if s.replayBad then s.res LDG_RPL_RES_STATUS .denied
    else (s.setLdg { s.ldg with replay := some op }).put LDG_RPL_RES_BUSY 1 := by
  unfold State.replayCmd
  simp only [hb, beq_iff_eq, h0, Bool.or_false, if_false, Bool.and_eq_true, Bool.or_eq_true, bne_iff_ne, decide_eq_true_eq,
    Option.isNone_iff_eq_none, or_assoc]

variable {a : Agent} (hr : s.Reached a true LDG_RPL_CMD 4) {c : Instr}
  (hc : exec c s = .next (s.regAccess a true LDG_RPL_CMD 4 fun t => t.replayCmd op))
include hr hc

/-- Each of the three commands runs, or is refused. -/
theorem replayCmd_completes :
    (¬ s.replayBad → Completes c s fun t => t.on LDG_RPL_RES_BUSY = true ∧ t.ldg = { s.ldg with replay := some op }) ∧
    (s.replayBad → Completes c s fun t => t.get LDG_RPL_RES_STATUS = st8 .denied ∧ t.ldg = s.ldg) := by
  obtain ⟨hstatus, hbusy⟩ := ldgReplay_fits
  refine ⟨fun h => .of hc ?_, fun h => .of hc ?_⟩
  · rw [State.regAccess_reached _ hr, State.replayCmd_eq h0 hb, if_neg h, State.on_ended _ _ (by decide), State.ldg_ended]
    exact ⟨State.on_put_one _ hbusy rfl, rfl⟩
  · rw [State.regAccess_reached _ hr, State.replayCmd_eq h0 hb, if_pos h, State.get_ended _ _ (by decide), State.ldg_ended]
    exact ⟨State.get_res_byte _ _ hstatus rfl, rfl⟩

end

theorem exec_replayDone (blocks : List LBlock) (ok : Bool) (s : State) : exec (.replayDone blocks ok) s = .next (match s.ldg.replay with
    | some op => if s.runs HST 2 then s.replayEnd op blocks ok else s
    | none => s) := rfl

theorem State.replayEnd_eq (s : State) (op : Nat) (blocks : List LBlock) (ok : Bool) : ∃ u : State,
    s.replayEnd op blocks ok = ((u.setLdg { u.ldg with replay := none }).put LDG_RPL_RES_BUSY 0).raise LDG_IRQ_STATUS_RPLDONE 1 := ⟨_, rfl⟩

theorem replayDone_ends {blocks : List LBlock} {ok : Bool} {s : State} {op : Nat} (h : s.ldg.replay = some op) (hr : s.runs HST 2 = true) :
    Completes (.replayDone blocks ok) s fun t =>
      t.ldg.replay = none ∧ t.on LDG_RPL_RES_BUSY = false ∧ t.on LDG_IRQ_STATUS_RPLDONE = true := by
  obtain ⟨-, hbusy⟩ := ldgReplay_fits
  obtain ⟨-, -, -, -, hdone⟩ := ldgIrq_fits
  obtain ⟨u, heq⟩ := s.replayEnd_eq op blocks ok
  refine .of (exec_replayDone ..) ?_
  rw [h, hr]
  simp only [if_true, heq]
  refine ⟨rfl, ?_, State.on_raise_one _ hdone rfl⟩
  exact (State.on_put_ne _ _ (by decide)).trans (State.on_put_zero _ hbusy rfl)

/-! ### The PCIe link (R135, R265) -/

theorem exec_pcieLinkUp (s : State) : exec .pcieLinkUp s = .next (if s.fenceOpen HST then { s with pcieLink := true } else s) := rfl

theorem exec_pcieLinkDown (s : State) : exec .pcieLinkDown s = .next { s with pcieLink := false } := rfl

/-- Settles O26, command by command: the engine's operations on records and blocks leave an orderly close and the fields of `LDG_STATUS`
(`RecordsOnly`), a block that closes is staged (`State.ldgClose_stages`), and every resume of a ring that fits ends alike (`State.resumed`). -/
theorem ledgerEngineCompletes : Obligations.LedgerEngineCompletes := by
  unfold Obligations.LedgerEngineCompletes
  refine ⟨?record, ?software, ?close, ?orderly, ?sign, ?retry, ?store, ?enable, ?resume, ?replay, ?replayed, ?link⟩
  case record => exact fun _ _ _ hr hg hc hn ho =>
    ⟨ledgerRecordAccept_joins ⟨hr, hg, hc, hn, ho⟩, ledgerRecordAccept_refused ⟨hr, hg, hc, hn, ho⟩⟩
  case software => exact fun _ _ _ _ _ _ _ hreach hb => ⟨ledgerSwRecord_denied hreach hb, fun htyp hlen hr hg hc hn ho =>
    ⟨ledgerSwRecord_ok hreach hb ⟨hr, hg, hc, hn, ho⟩ htyp hlen, ledgerSwRecord_full hreach hb ⟨hr, hg, hc, hn, ho⟩ htyp hlen⟩⟩
  case close => exact fun _ _ _ ho hne => ⟨ledgerFlush_closes ho hne, blockCloseTimer_closes ho hne⟩
  case orderly => exact fun _ _ h => ⟨ledgerOrderlyClose_closes h, orderlyCloseDone_ends h⟩
  case sign => exact fun r v _ _ _ h => ⟨signatureReturn_signs h r v, signatureReturn_fails h r v, signTimeout_fails h⟩
  case retry => exact fun _ _ => signRetry_asks
  case store => exact fun _ _ hr ho =>
    ⟨nvmeWriteComplete_written ho hr, nvmeWriteComplete_counted ho hr, nvmeWriteComplete_stops ho hr⟩
  case enable => exact fun _ _ hreach => ⟨ledgerResume_starts hreach, ledgerReinit_marks hreach⟩
  case resume => exact fun _ blocks _ hr hq =>
    ⟨resumeReadComplete_unavailable blocks hr hq, resumeReadComplete_denied blocks hr hq, resumeReadComplete_ok blocks hr hq⟩
  case replay => exact fun _ _ hreach hb => ⟨replayCmd_completes (op := 1) (by decide) hb hreach rfl,
    replayCmd_completes (op := 2) (by decide) hb hreach rfl, replayCmd_completes (op := 3) (by decide) hb hreach rfl⟩
  case replayed => exact fun _ _ _ _ => replayDone_ends
  case link => exact fun s => ⟨fun h => .of ((exec_pcieLinkUp s).trans (congrArg _ (if_pos h))) rfl, .of (exec_pcieLinkDown s) rfl⟩

end Sys2Proof.Machine
end

section
/-! Instructions that order, return and wait: fences, trap returns and WFI in the modes that may execute them (R276, R281, R284, R287,
R297, R298, R352, R354). -/

namespace Sys2Proof.Machine

open Sys2Proof

/-! ### Instructions that go on elsewhere -/

section
variable {c : Instr} {h : Nat} {rs : List Nat} {s t u : State} {f : State → State}

/-- An instruction that ends by retiring, with what it did under way. -/
theorem State.Ready.retires (r : s.Ready h) {P : State → Prop} (hc : exec c s = .next (s.instr h f)) (hf : f s = t.retire h)
    (e : Executing h rs s t) (hP : P (t.retire h)) : Completes c s fun u => s.Went u h ((s.hart h).pc + 4) rs ∧ P u :=
  r.completes hc hf (e.quiet r.toQuiet).retire ⟨e.went, hP⟩

/-- A change of the hart beside its program and registers does not move it. -/
theorem State.Went.same {pc : Nat} (w : s.Went t h pc rs) (hk : sameRun (t.hart h) (u.hart h)) : s.Went u h pc rs := by
  obtain ⟨wpc, wpos, wpriv, wworld, wx⟩ := w
  obtain ⟨kpc, kpos, kpriv, kworld, kx, -⟩ := hk
  refine ⟨kpc.trans wpc, kpos.trans wpos, kpriv.trans wpriv, kworld.trans wworld, fun r hr => ?_⟩
  rw [← wx r hr, State.xreg, State.xreg, kx]

theorem State.hart_retireTo (s : State) (h pc : Nat) : (s.retireTo h pc).hart h =
    { s.hart h with csr := ((s.retireTo h pc).hart h).csr, instret := ((s.retireTo h pc).hart h).instret, pc := pc % 2 ^ hartXlen h,
                    pos := (s.hart h).pos + 1 } := by
  unfold State.retireTo
  rw [State.hart_updHart_self, (Counted.retired h s).hart]

theorem State.csr_retireTo (s : State) (h pc : Nat) {a : Nat} (ha : ¬ hpmCsr a) : (s.retireTo h pc).csr h a = s.csr h a :=
  (State.csr_updHart _ h (by rfl) a).trans ((Counted.retired h s).csr a ha)

theorem State.mem_retireTo (s : State) (h pc : Nat) : (s.retireTo h pc).mem = s.mem := (Counted.retired h s).entering.mem

theorem State.dbgm_retireTo (s : State) (h pc : Nat) : (s.retireTo h pc).dbgm = s.dbgm := (Counted.retired h s).entering.dbgm

end

/-- The status CSRs, the exception addresses and those of the debugger are none of the counters'. -/
theorem not_hpmCsr : ¬ hpmCsr csrMstatus ∧ ¬ hpmCsr csrVsstatus ∧ ¬ hpmCsr csrHstatus ∧ ¬ hpmCsr 0x141 ∧ ¬ hpmCsr 0x241 := by
  simp [hpmCsr, csrMstatus, csrVsstatus, csrHstatus]

/-! ### FENCE (R276, R284, R352, R354) -/

theorem exec_fence (h : Hart) (pi po pr pw si so sr sw : Bool) (s : State) : exec (.fence h pi po pr pw si so sr sw) s =
    .next (s.instr h.val (fun t => t.fence h.val po pw si so sr)) := rfl

/-- What a fence of an application core does with its store buffer: where stores come before it, they drain if loads or device accesses
come after it, else they are numbered. -/
def State.fenced (s : State) (h : Nat) (stores later : Bool) : State :=
  if stores && later then s.sbDrainAll h else if stores then s.updHart h (fun t => { t with fences := t.fences + 1 }) else s

section
variable {s : State} {h : Nat} {po pw si so sr : Bool}

theorem State.fence_app (h8 : h < 8) : s.fence h po pw si so sr =
    ((s.coreCount h 49).fenced h (pw || (s.fiom h && po)) (sr || si || so)).retire h := if_neg (Nat.not_le.mpr h8)

theorem State.fence_tk (h8 : 8 ≤ h) : s.fence h po pw si so sr = if (s.hart h).wbuf.isEmpty then s.retire h else s := if_pos h8

theorem State.sbDrainAll_nil (hb : s.sb h = []) : s.sbDrainAll h = s := by
  unfold State.sbDrainAll
  rw [hb]
  rfl

theorem Counted.sb {t : State} (k : Counted h s t) : t.sb h = s.sb h := by
  unfold State.sb
  rw [k.hart]

theorem Executing.fences (s : State) (h : Nat) : Executing h [] s (s.updHart h fun t => { t with fences := t.fences + 1 }) :=
  .updHart s h ⟨rfl, rfl, rfl, rfl, rfl, rfl⟩

/-- With no store in the buffer, or none ordered, nothing drains. -/
theorem Executing.fenced {stores : Bool} (later : Bool) (hn : s.sb h = [] ∨ stores = false) :
    Executing h [] s (s.fenced h stores later) ∧ (s.fenced h stores later).mem = s.mem := by
  unfold State.fenced
  split
  case isTrue hs =>
    have hb : s.sb h = [] := hn.resolve_right (by simp [(Bool.and_eq_true_iff.mp hs).1])
    rw [State.sbDrainAll_nil hb]
    exact ⟨.refl .., rfl⟩
  split
  · exact ⟨.fences s h, rfl⟩
  · exact ⟨.refl .., rfl⟩

end

section
variable {s : State} {h : Hart} {pi po pr pw si so sr sw : Bool}

theorem fence_still (r : s.Ready h.val) (h8 : h.val < 8) (hn : s.sb h.val = [] ∨ pw = false ∧ (s.fiom h.val && po) = false) :
    Completes (.fence h pi po pr pw si so sr sw) s fun t => s.Went t h.val ((s.hart h.val).pc + 4) [] ∧ t.mem = s.mem := by
  have hc := Counted.core h.val s 49
  have hn' : (s.coreCount h.val 49).sb h.val = [] ∨ (pw || (s.fiom h.val && po)) = false :=
    hn.imp (hc.sb.trans ·) fun ⟨hp, hm⟩ => by rw [hp, hm]; rfl
  obtain ⟨he, hmem⟩ := Executing.fenced (sr || si || so) hn'
  exact r.retires (exec_fence ..) (State.fence_app h8) (hc.executing.trans he)
    ((State.mem_retire ..).trans (hmem.trans hc.entering.mem))

theorem fence_drains (r : s.Ready h.val) (h8 : h.val < 8) (hw : pw = true) (hr : sr = true) :
    Completes (.fence h pi po pr pw si so sr sw) s fun t =>
      t = (((s.coreCount h.val 49).sbDrainAll h.val).retire h.val).afterInstr h.val (s.hart h.val) := by
  refine .of ((exec_fence ..).trans (congrArg _ (r.instr_after _))) ?_
  rw [State.fence_app h8, State.fenced, hw, hr]
  rfl

/-- Where only later stores follow, the stores before the fence are numbered (R354). -/
theorem fence_numbers (r : s.Ready h.val) (h8 : h.val < 8) (hw : pw = true) (hi : si = false) (ho : so = false) (hr : sr = false) :
    Completes (.fence h pi po pr pw si so sr sw) s fun t => (s.Went t h.val ((s.hart h.val).pc + 4) [] ∧ t.mem = s.mem) ∧
      t.sb h.val = s.sb h.val ∧ (t.hart h.val).fences = (s.hart h.val).fences + 1 := by
  have hc := Counted.core h.val s 49
  have hf : s.fence h.val po pw si so sr =
      ((s.coreCount h.val 49).updHart h.val fun t => { t with fences := t.fences + 1 }).retire h.val := by
    rw [State.fence_app h8, State.fenced, hw, hi, ho, hr]
    rfl
  refine (r.retires (P := fun t => t.mem = s.mem ∧ t.sb h.val = s.sb h.val ∧ (t.hart h.val).fences = (s.hart h.val).fences + 1)
    (exec_fence ..) hf (hc.executing.trans (.fences _ _)) ⟨?_, ?_, ?_⟩).imp
    fun _ ⟨hwent, hmem, hsb, hfences⟩ => ⟨⟨hwent, hmem⟩, hsb, hfences⟩
  · exact (State.mem_retire ..).trans hc.entering.mem
  · rw [State.sb, State.hart_retire, State.hart_updHart_self, hc.hart]
    rfl
  · rw [State.hart_retire, State.hart_updHart_self, hc.hart]

theorem fence_tk_goes (r : s.Ready h.val) (h8 : 8 ≤ h.val) (hb : (s.hart h.val).wbuf = []) :
    Completes (.fence h pi po pr pw si so sr sw) s fun t => s.Went t h.val ((s.hart h.val).pc + 4) [] ∧ t.mem = s.mem :=
  r.retires (exec_fence ..) ((State.fence_tk h8).trans (by rw [hb]; rfl)) (.refl ..) (State.mem_retire ..)

theorem fence_tk_waits (r : s.Ready h.val) (h8 : 8 ≤ h.val) (hb : (s.hart h.val).wbuf ≠ []) :
    Completes (.fence h pi po pr pw si so sr sw) s fun t => t = s :=
  r.completes (exec_fence ..) ((State.fence_tk h8).trans (if_neg (by simpa using hb))) r.toQuiet rfl

/-! ### FENCE.I and the translation fences (R281, R287) -/

theorem exec_fenceI (s : State) : exec (.fenceI h) s = .next (s.instr h.val (fun t => t.fenceI h.val)) := rfl

theorem exec_sfenceVma (k : FenceKind) (va : Option Word) (asid : Option Nat) (s : State) : exec (.sfenceVma h k va asid) s =
    .next (s.instr h.val (fun t => if h.val < 8 then t.sfence h.val k else t.illegal h.val)) := rfl

theorem fenceI_completes (r : s.Ready h.val) : Completes (.fenceI h) s fun t =>
    (s.Went t h.val ((s.hart h.val).pc + 4) [] ∧ t.mem = s.mem) ∧ ∀ line, t.fetchForm h.val line = .new := by
  have hc := Counted.core h.val (s.updHart h.val fun t => { t with smc := [] }) 50
  have hs : Executing h.val [] s (s.updHart h.val fun t => { t with smc := [] }) := .updHart s h.val ⟨rfl, rfl, rfl, rfl, rfl, rfl⟩
  refine (r.retires (P := fun t => t.mem = s.mem ∧ ∀ line, t.fetchForm h.val line = .new) (exec_fenceI s) rfl (hs.trans hc.executing)
    ⟨(State.mem_retire ..).trans hc.entering.mem, fun line => ?_⟩).imp fun _ ⟨hwent, hmem, hform⟩ => ⟨⟨hwent, hmem⟩, hform⟩
  unfold State.fetchForm
  rw [State.hart_retire, hc.hart, State.hart_updHart_self]
  rfl

section
variable {k : FenceKind} {va : Option Word} {asid : Option Nat}

theorem sfenceVma_retires (r : s.Ready h.val) (h8 : h.val < 8) (hk : s.sfenceCheck h.val k = none) :
    Completes (.sfenceVma h k va asid) s fun t => s.Went t h.val ((s.hart h.val).pc + 4) [] ∧ t.mem = s.mem := by
  have hc := Counted.core h.val s 51
  refine r.retires (exec_sfenceVma ..) (t := s.coreCount h.val 51) ?_ hc.executing ((State.mem_retire ..).trans hc.entering.mem)
  rw [if_pos h8, State.sfence, hk]

theorem sfenceVma_traps (r : s.Ready h.val) (h8 : h.val < 8) {c : Nat} (hk : s.sfenceCheck h.val k = some c) :
    Completes (.sfenceVma h k va asid) s fun t => s.Took t h.val false c 0 :=
  (r.completes_exception (exec_sfenceVma ..) (by rw [if_pos h8, State.sfence, hk])).imp fun _ ht => ht.1

theorem sfenceVma_absent (r : s.Ready h.val) (h8 : 8 ≤ h.val) :
    Completes (.sfenceVma h k va asid) s fun t => s.Took t h.val false 2 0 :=
  (r.completes_exception (exec_sfenceVma ..) (if_neg (Nat.not_lt.mpr h8))).imp fun _ ht => ht.1

end

end

/-! ### MRET (R297, R298) -/

/-- The mode MRET returns to. -/
def State.mretPriv (s : State) (h : Nat) : Priv :=
  let m := s.csr h csrMstatus
  if h < 8 then privOf (bitsOf m 11 2) (bitAt m 39) else if h == 12 then privOf (bitsOf m 11 2) false else .m

/-- `mstatus` as MRET leaves it. -/
def State.mretStatus (s : State) (h : Nat) : Nat :=
  let m := s.csr h csrMstatus
  let m' := putBits (putBits (putBits m 3 1 (bitsOf m 7 1)) 7 1 1) 11 2 (if h < 8 || h == 12 then 0 else 3)
  if h < 8 then putBits (if s.mretPriv h == .m then m' else putBits m' 17 1 0) 39 1 0 else m'

section
variable {s : State} {h : Nat}

theorem State.mret_eq (s : State) (h : Nat) : s.mret h =
    (((s.setCsr h csrMstatus (s.mretStatus h)).retireTo h (s.csr h 0x341)).coreCount h 94).updHart h (fun t =>
      { t with priv := s.mretPriv h, world := if h < 8 then (if s.mretPriv h == .m then .secure else worldOf (s.get (ACC_WORLD_NEXT h))) else t.world }) :=
  rfl

/-- A return of a trap moves the enable bit back from bit `pie`, which it sets. -/
theorem putBits_return (m v : Nat) {ie pie lo w : Nat} (hp : ie + 1 ≤ pie) (hl : pie + 1 ≤ lo) :
    let m' := putBits (putBits (putBits m ie 1 (bitsOf m pie 1)) pie 1 1) lo w v
    bitsOf m' ie 1 = bitsOf m pie 1 ∧ bitsOf m' pie 1 = 1 := by
  constructor
  · rw [bitsOf_putBits_below (by omega), bitsOf_putBits_below hp, bitsOf_putBits, Nat.mod_eq_of_lt (bitsOf_lt ..)]
  · rw [bitsOf_putBits_below hl, bitsOf_putBits]
    rfl

theorem State.mretStatus_bits (s : State) (h : Nat) : bitAt (s.mretStatus h) 3 = bitAt (s.csr h csrMstatus) 7 ∧ bitAt (s.mretStatus h) 7 = true := by
  unfold State.mretStatus bitAt
  dsimp only
  generalize (if h < 8 || h == 12 then 0 else 3) = v
  obtain ⟨h3, h7⟩ := putBits_return (s.csr h csrMstatus) v (ie := 3) (pie := 7) (lo := 11) (w := 2) (by omega) (by omega)
  by_cases h8 : h < 8
  case neg => rw [if_neg h8, h3, h7]; simp
  rw [if_pos h8, bitsOf_putBits_below (by omega), bitsOf_putBits_below (by omega)]
  by_cases hm : s.mretPriv h == .m
  · rw [if_pos hm, h3, h7]
    simp
  · rw [if_neg hm, bitsOf_putBits_below (show 3 + 1 ≤ 17 by omega), bitsOf_putBits_below (show 7 + 1 ≤ 17 by omega), h3, h7]
    simp

end

/-! ### The return itself (R297, R298) -/

/-- From `s` to `t` hart `h` has gone on at `pc` in mode `p`, its integer registers and memory as they were. -/
structure State.Returned (s t : State) (h pc : Nat) (p : Priv) : Prop where
  pc : (t.hart h).pc = pc % 2 ^ hartXlen h
  priv : (t.hart h).priv = p
  x : ∀ r, t.xreg h r = s.xreg h r
  mem : t.mem = s.mem
  quiet : s.Quiet h → t.Quiet h

section
variable {s t u : State} {h pc : Nat} {p : Priv} {w : World → World}

/-- A hart that retires to `pc` and enters mode `p`. -/
theorem Executing.returned (e : Executing h [] s t) (hm : t.mem = s.mem) (k : Counted h (t.retireTo h pc) u) :
    s.Returned (u.updHart h fun k => { k with priv := p, world := w k.world }) h pc p where
  pc := by rw [State.hart_updHart_self, k.hart, State.hart_retireTo]
  priv := by rw [State.hart_updHart_self]
  x r := by
    rw [← e.x r List.not_mem_nil]
    unfold State.xreg
    rw [State.hart_updHart_self, k.hart, State.hart_retireTo]
  mem := k.entering.mem.trans ((State.mem_retireTo ..).trans hm)
  quiet q := by
    refine q.congr (k.entering.dbgm.trans ((State.dbgm_retireTo ..).trans e.dbgm)) fun a ha => ?_
    have hn : ¬ hpmCsr a := fun hc => not_trapCsr_debug ha (.inl (.inl hc))
    rw [State.csr_updHart _ h (by rfl), k.csr a hn, State.csr_retireTo _ _ _ hn, e.csr a ha]

theorem Counted.csr_returned (k : Counted h (t.retireTo h pc) u) {a : Nat} (ha : ¬ hpmCsr a) {f : HartSt → HartSt}
    (hf : (f (u.hart h)).csr = (u.hart h).csr) : (u.updHart h f).csr h a = t.csr h a := by
  rw [State.csr_updHart _ h hf, k.csr a ha, State.csr_retireTo _ _ _ ha]

theorem Counted.world_returned (k : Counted h (t.retireTo h pc) u) :
    ((u.updHart h fun k => { k with priv := p, world := w k.world }).hart h).world = w (t.hart h).world := by
  rw [State.hart_updHart_self, k.hart, State.hart_retireTo]

theorem bitAt_csr_setCsr (s : State) (h a v : Nat) {i : Nat} (hi : i < 32) : bitAt ((s.setCsr h a v).csr h a) i = bitAt v i := by
  have hx := le_hartXlen h
  rw [State.csr_setCsr_self, bitAt, bitAt, bitsOf_mod v (by omega)]

end

/-! ### MRET -/

section
variable {s : State} {h : Hart}

theorem exec_mret (s : State) : exec (.mret h) s =
    .next (s.instr h.val (fun t => if (t.hart h.val).priv == .m then t.mret h.val else t.illegal h.val)) := rfl

theorem State.mret_returned (s : State) (h : Nat) : s.Returned (s.mret h) h (s.csr h 0x341) (s.mretPriv h) :=
  Executing.returned (w := fun w => if h < 8 then (if s.mretPriv h == .m then .secure else worldOf (s.get (ACC_WORLD_NEXT h))) else w)
    (.setCsr s _ (by decide)) rfl (.core ..)

theorem State.csr_mret (s : State) (h : Nat) {i : Nat} (hi : i < 32) : bitAt ((s.mret h).csr h csrMstatus) i = bitAt (s.mretStatus h) i := by
  rw [State.mret_eq, Counted.csr_returned (.core ..) not_hpmCsr.1 rfl]
  exact bitAt_csr_setCsr _ _ _ _ hi

theorem State.world_mret (s : State) {h : Nat} (h8 : h < 8) : ((s.mret h).hart h).world =
    if s.mretPriv h == .m then .secure else worldOf (s.get (ACC_WORLD_NEXT h)) := by
  rw [State.mret_eq, State.hart_updHart_self]
  exact if_pos h8

theorem mret_completes (r : s.Ready h.val) (hm : (s.hart h.val).priv = .m) : Completes (.mret h) s fun t =>
    (t.hart h.val).pc = s.csr h.val 0x341 % 2 ^ hartXlen h.val ∧ t.mem = s.mem ∧
    bitAt (t.csr h.val csrMstatus) 3 = bitAt (s.csr h.val csrMstatus) 7 ∧ bitAt (t.csr h.val csrMstatus) 7 = true ∧
    (∀ r, t.xreg h.val r = s.xreg h.val r) ∧
    (h.val < 8 → (t.hart h.val).priv = privOf (bitsOf (s.csr h.val csrMstatus) 11 2) (bitAt (s.csr h.val csrMstatus) 39) ∧
      ((t.hart h.val).priv ≠ .m → (t.hart h.val).world = worldOf (s.get (ACC_WORLD_NEXT h.val))) ∧
      ((t.hart h.val).priv = .m → (t.hart h.val).world = .secure)) := by
  have hr := s.mret_returned h.val
  obtain ⟨h3, h7⟩ := s.mretStatus_bits h.val
  refine r.completes (exec_mret s) (t := s.mret h.val) (by rw [hm]; rfl) (hr.quiet r.toQuiet) ⟨hr.pc, hr.mem, (s.csr_mret _ (by omega)).trans h3,
    (s.csr_mret _ (by omega)).trans h7, hr.x, fun h8 => ⟨hr.priv.trans (if_pos h8), fun hp => ?_, fun hp => ?_⟩⟩
  · rw [s.world_mret h8, if_neg]
    rwa [beq_iff_eq, ← hr.priv]
  · rw [s.world_mret h8, if_pos]
    rwa [beq_iff_eq, ← hr.priv]

theorem mret_illegal (r : s.Ready h.val) (hm : (s.hart h.val).priv ≠ .m) : Completes (.mret h) s fun t => s.Took t h.val false 2 0 :=
  (r.completes_exception (exec_mret s) (if_neg (by simpa using hm))).imp fun _ ht => ht.1

/-! ### SRET -/

theorem exec_sret (s : State) : exec (.sret h) s = .next (s.instr h.val (fun t => if h.val < 8 then
    (match t.sretCheck h.val with
      | some c => t.exception h.val c 0
      | none => t.sret h.val) else t.illegal h.val)) := rfl

theorem State.sret_virt {s : State} {h : Nat} (hv : virt (s.hart h).priv = true) : s.sret h =
    let c := s.coreCount h 95
    let m := c.csr h csrVsstatus
    ((c.setCsr h csrVsstatus (putBits (putBits (putBits m 1 1 (bitsOf m 5 1)) 5 1 1) 8 1 0)).retireTo h (c.csr h 0x241)).updHart h
      fun t => { t with priv := if bitAt m 8 then .vs else .vu } := if_pos hv

theorem State.sret_plain {s : State} {h : Nat} (hv : virt (s.hart h).priv = false) : s.sret h =
    let c := s.coreCount h 95
    let m := c.csr h csrMstatus
    (((c.setCsr h csrMstatus (putBits (putBits (putBits (putBits m 1 1 (bitsOf m 5 1)) 5 1 1) 8 1 0) 17 1 0)).setCsr h csrHstatus
      (putBits (c.csr h csrHstatus) 7 1 0)).retireTo h (c.csr h 0x141)).updHart h
      fun t => { t with priv := privOf (bitsOf m 8 1) (bitAt (c.csr h csrHstatus) 7) } := if_neg (by rw [hv]; exact Bool.false_ne_true)

theorem sretVirt_returned {s : State} {h : Nat} (hv : virt (s.hart h).priv = true) :
    s.Returned (s.sret h) h (s.csr h 0x241) (if bitAt (s.csr h csrVsstatus) 8 then .vs else .vu) ∧
      ((s.sret h).hart h).world = (s.hart h).world ∧
      bitAt ((s.sret h).csr h csrVsstatus) 1 = bitAt (s.csr h csrVsstatus) 5 := by
  have hc := Counted.core h s 95
  obtain ⟨-, hvs, -, -, hepc⟩ := not_hpmCsr
  rw [State.sret_virt hv]
  dsimp only
  rw [hc.csr _ hvs, hc.csr _ hepc]
  refine ⟨Executing.returned (w := id) (hc.executing.trans (.setCsr _ _ (by decide))) hc.entering.mem (.refl ..), ?_, ?_⟩
  · refine (Counted.world_returned (w := id) (.refl ..)).trans ?_
    rw [State.hart_setCsr, hc.hart]
    rfl
  · rw [Counted.csr_returned (.refl ..) hvs rfl, bitAt_csr_setCsr _ _ _ _ (by omega)]
    exact congrArg (· == 1) (putBits_return _ _ (by omega) (by omega)).1

theorem sretPlain_returned {s : State} {h : Nat} (hv : virt (s.hart h).priv = false) :
    s.Returned (s.sret h) h (s.csr h 0x141) (privOf (bitsOf (s.csr h csrMstatus) 8 1) (bitAt (s.csr h csrHstatus) 7)) ∧
      ((s.sret h).hart h).world = (s.hart h).world ∧
      bitAt ((s.sret h).csr h csrMstatus) 1 = bitAt (s.csr h csrMstatus) 5 := by
  have hc := Counted.core h s 95
  obtain ⟨hms, -, hhs, hepc, -⟩ := not_hpmCsr
  rw [State.sret_plain hv]
  dsimp only
  rw [hc.csr _ hms, hc.csr _ hhs, hc.csr _ hepc]
  refine ⟨Executing.returned (w := id) ((hc.executing.trans (.setCsr _ _ (by decide))).trans (.setCsr _ _ (by decide))) hc.entering.mem (.refl ..), ?_, ?_⟩
  · refine (Counted.world_returned (w := id) (.refl ..)).trans ?_
    rw [State.hart_setCsr, State.hart_setCsr, hc.hart]
    rfl
  · rw [Counted.csr_returned (.refl ..) hms rfl, State.csr_setCsr_ne _ _ _ (by decide), bitAt_csr_setCsr _ _ _ _ (by omega), bitAt,
      bitsOf_putBits_below (by omega)]
    exact congrArg (· == 1) (putBits_return _ _ (by omega) (by omega)).1

theorem sret_completes (r : s.Ready h.val) (h8 : h.val < 8) (hn : s.sretCheck h.val = none) {P : State → Prop}
    (q : (s.sret h.val).Quiet h.val) (hP : P (s.sret h.val)) : Completes (.sret h) s P :=
  r.completes (exec_sret s) (by rw [if_pos h8, hn]) q hP

theorem sret_returns (r : s.Ready h.val) (h8 : h.val < 8) (hn : s.sretCheck h.val = none) : Completes (.sret h) s fun t =>
    t.mem = s.mem ∧ (t.hart h.val).world = (s.hart h.val).world ∧ (∀ r, t.xreg h.val r = s.xreg h.val r) ∧
    (virt (s.hart h.val).priv = true → (t.hart h.val).pc = s.csr h.val 0x241 % 2 ^ hartXlen h.val ∧
      (t.hart h.val).priv = (if bitAt (s.csr h.val csrVsstatus) 8 then .vs else .vu) ∧
      bitAt (t.csr h.val csrVsstatus) 1 = bitAt (s.csr h.val csrVsstatus) 5) ∧
    (virt (s.hart h.val).priv = false → (t.hart h.val).pc = s.csr h.val 0x141 % 2 ^ hartXlen h.val ∧
      (t.hart h.val).priv = privOf (bitsOf (s.csr h.val csrMstatus) 8 1) (bitAt (s.csr h.val csrHstatus) 7) ∧
      bitAt (t.csr h.val csrMstatus) 1 = bitAt (s.csr h.val csrMstatus) 5) := by
  cases hv : virt (s.hart h.val).priv
  case true =>
    obtain ⟨hr, hw, hie⟩ := sretVirt_returned hv
    exact sret_completes r h8 hn (hr.quiet r.toQuiet) ⟨hr.mem, hw, hr.x, fun _ => ⟨hr.pc, hr.priv, hie⟩, nofun⟩
  case false =>
    obtain ⟨hr, hw, hie⟩ := sretPlain_returned hv
    exact sret_completes r h8 hn (hr.quiet r.toQuiet) ⟨hr.mem, hw, hr.x, nofun, fun _ => ⟨hr.pc, hr.priv, hie⟩⟩

theorem sret_traps (r : s.Ready h.val) (h8 : h.val < 8) {c : Nat} (hc : s.sretCheck h.val = some c) :
    Completes (.sret h) s fun t => s.Took t h.val false c 0 :=
  (r.completes_exception (exec_sret s) (by rw [if_pos h8, hc])).imp fun _ ht => ht.1

theorem sret_absent (r : s.Ready h.val) (h8 : 8 ≤ h.val) : Completes (.sret h) s fun t => s.Took t h.val false 2 0 :=
  (r.completes_exception (exec_sret s) (if_neg (Nat.not_lt.mpr h8))).imp fun _ ht => ht.1

/-! ### WFI (R284) -/

theorem exec_wfi (s : State) : exec (.wfi h) s = .next (s.instr h.val (fun t => t.waitIrq h.val)) := rfl

theorem State.Ready.wfi {s : State} {h : Nat} (r : s.Ready h) : (s.hart h).wfi = false := by
  have hf := r.free
  simp only [State.hartFree, Bool.and_eq_true, Bool.not_eq_true'] at hf
  exact hf.1.1.2

theorem wfi_retires (r : s.Ready h.val) (hn : s.wfiCheck h.val = none) : Completes (.wfi h) s fun t =>
    (s.Went t h.val ((s.hart h.val).pc + 4) [] ∧ t.mem = s.mem) ∧ (t.hart h.val).wfi = !s.irqWaiting h.val := by
  have hw : s.Went (s.retire h.val) h.val ((s.hart h.val).pc + 4) [] := (Executing.refl h.val [] s).went
  have hq : (s.retire h.val).Quiet h.val := r.toQuiet.retire
  cases hi : s.irqWaiting h.val
  case true =>
    refine r.completes (exec_wfi s) (t := s.retire h.val) (by simp only [State.waitIrq, hn, hi, if_true]) hq ⟨⟨hw, State.mem_retire ..⟩, ?_⟩
    rw [State.hart_retire, r.wfi]
    rfl
  case false =>
    have hk : sameRun ((s.retire h.val).hart h.val) { (s.retire h.val).hart h.val with wfi := true } := ⟨rfl, rfl, rfl, rfl, rfl, rfl⟩
    refine r.completes (exec_wfi s) (t := (s.retire h.val).updHart h.val fun t => { t with wfi := true })
      (by simp only [State.waitIrq, hn, hi, Bool.false_eq_true, if_false]) ((Executing.updHart (rs := []) _ h.val hk).quiet hq)
      ⟨⟨hw.same ?_, State.mem_retire ..⟩, ?_⟩
    · rw [State.hart_updHart_self]
      exact hk
    · rw [State.hart_updHart_self]
      rfl

theorem wfi_traps (r : s.Ready h.val) {c : Nat} (hc : s.wfiCheck h.val = some c) : Completes (.wfi h) s fun t => s.Took t h.val false c 0 :=
  (r.completes_exception (exec_wfi s) (by simp only [State.waitIrq, hc])).imp fun _ ht => ht.1

end

/-- Settles O30, by the instruction: each ends by retiring, by a return to a mode, or by an exception. -/
theorem fencesReturnsAndWaitsComplete : Obligations.FencesReturnsAndWaitsComplete := by
  intro h s r
  refine ⟨fun pi po pr pw si so sr sw => ⟨fence_still r, fence_drains r, fence_numbers r, fun h8 => ⟨fence_tk_goes r h8, fence_tk_waits r h8⟩⟩,
    fenceI_completes r, fun k va asid => ⟨fun h8 => ⟨sfenceVma_retires r h8, fun _ => sfenceVma_traps r h8⟩, sfenceVma_absent r⟩,
    mret_completes r, mret_illegal r, fun h8 => ⟨sret_returns r h8, fun _ => sret_traps r h8⟩, sret_absent r, wfi_retires r, fun _ => wfi_traps r⟩

end Sys2Proof.Machine
end

section
/-! Locks: taken by a hart, released by the owner, broken by the debug module (R293, R443, R445, R500). -/

namespace Sys2Proof.Machine

open Sys2Proof

/-! ### Registers outside the counter pages of the cores -/

/-- No counter page of an application core holds the register. -/
def counterless (k : Nat) : Prop := k < 0x4300F000 ∨ 0x43080000 ≤ k

section
variable {s : State} {h : Nat}

theorem coreCount_counterless (s : State) (h : Nat) {i : Nat} (hi : i < 96) : SliceKept counterless s (s.coreCount h i) := by
  unfold State.coreCount
  split
  case isTrue => exact .refl _ s
  case isFalse hc =>
    have h8 : h < 8 := by
      simp only [Bool.or_eq_true, decide_eq_true_eq, not_or] at hc
      omega
    have hN : pmuN (.page (pmuCoreBase h)) = 96 := by
      have hne : (pmuCoreBase h == pmuMemBase) = false := beq_eq_false_iff_ne.mpr (by simp only [pmuCoreBase, pmuMemBase]; omega)
      have hlt : pmuCoreBase h < pmuMemBase := by simp only [pmuCoreBase, pmuMemBase]; omega
      rw [pmuN, hne, if_neg Bool.false_ne_true, if_pos hlt]
    refine SliceKept.trans (.pmuCount (fun j hj => ?_) s 1 (hN ▸ hi)) ⟨rfl, fun _ _ => rfl⟩
    rw [hN] at hj
    simp only [counterless, pmuCnt, pmuOvf, PMU_CNT_COUNT, PMU_CNT, PMU_OVF, pmuCoreBase]
    omega

theorem trapEntered_counterless (s : State) (h : Nat) (irq : Bool) (tgt : Priv) : SliceKept counterless s (s.trapEntered h irq tgt) := by
  have hleave : SliceKept counterless s (if s.inSaggar h then (s.saggarLeave h).coreCount h 59 else s) := by
    split
    · exact (SliceKept.saggarLeave s h).trans (coreCount_counterless _ h (by decide))
    · exact .refl _ s
  have hcause : (if irq then 11 else 10) < 96 := by cases irq <;> decide
  have hmode (u : State) : SliceKept counterless u (u.when (tgt == .m) fun v => v.coreCount h 63) :=
    .when _ _ (coreCount_counterless _ h (by decide))
  unfold State.trapEntered
  dsimp only
  exact (((hleave.trans (.updHart ..)).trans (coreCount_counterless _ h hcause)).trans (hmode _)).trans (.updHart ..)

/-- A trap counts, and changes no other register. -/
theorem trap_counterless (s : State) (h : Nat) (irq : Bool) (code tval : Nat) : SliceKept counterless s (s.trap h irq code tval) := by
  rcases s.trapTarget_cases h irq code with ht | ht | ht
  · rw [State.trap_m _ _ _ _ _ ht]
    exact ((trapEntered_counterless ..).trans (.trapWrites ..)).trans (.updHart ..)
  · rw [State.trap_s _ _ _ _ _ ht]
    exact (((trapEntered_counterless ..).trans (.trapWrites ..)).trans (.setCsr ..)).trans (.updHart ..)
  · rw [State.trap_vs _ _ _ _ _ ht]
    exact ((trapEntered_counterless ..).trans (.trapWrites ..)).trans (.updHart ..)

end

/-! ### The fields of a lock and of `DAP_LOCKRES` -/

theorem epoLock_fits (n : Nat) : (EPO_LOCK_OWNER n).fits ∧ (EPO_LOCK_BROKEN n).fits := by
  simp [Fld.fits, EPO_LOCK_OWNER, EPO_LOCK_BROKEN]

theorem epoLock_apart (n : Nat) : (EPO_LOCK_OWNER n).apart (EPO_LOCK_BROKEN n) ∧ (EPO_LOCK_BROKEN n).apart (EPO_LOCK_OWNER n) := by
  simp [Fld.apart, EPO_LOCK_OWNER, EPO_LOCK_BROKEN]

theorem lockres_fits : DAP_LOCKRES_STATUS.fits ∧ DAP_LOCKRES_OWNER.fits := by
  unfold Fld.fits
  decide

theorem lockres_apart : DAP_LOCKRES_STATUS.apart DAP_LOCKRES_OWNER := by
  unfold Fld.apart
  decide

theorem lock_apart {n : Nat} (hn : n < 64) :
    EPO_LOCK n ≠ DAP_LOCKRES ∧ EPO_LOCK n ≠ DAP_STATUS ∧ counterless (EPO_LOCK n) ∧ EPO_LOCK n ∉ logRegs := by
  have hlog : ∀ n < 64, EPO_LOCK n ∉ logRegs := by decide
  refine ⟨?_, ?_, .inr (by unfold EPO_LOCK; omega), hlog n hn⟩ <;> simp only [EPO_LOCK, DAP_LOCKRES, DAP_STATUS] <;> omega

section
variable {s : State} {a : Agent} {n : LockIdx} {h : Hart}

/-- A hart's number as an owner fits the field, and is not that of a free lock. -/
theorem State.lockHart_lt (s : State) (h : Hart) : s.lockHart h.val < 2 ^ 4 := by
  unfold State.lockHart State.l2Of
  have := h.isLt
  split_ifs <;> omega

/-! ### A hart takes and releases a lock (R443) -/

theorem exec_lockAcquire (a : Agent) (n : LockIdx) (s : State) :
    exec (.lockAcquire a n) s = .next (s.regAccess a true (EPO_LOCK n.val) 4 fun t => t.lockAcq a n.val) := rfl

theorem exec_lockRelease (a : Agent) (n : LockIdx) (s : State) :
    exec (.lockRelease a n) s = .next (s.regAccess a true (EPO_LOCK n.val) 4 fun t => t.lockRel a n.val) := rfl

theorem lockAcquire_reached (hr : s.Reached a true (EPO_LOCK n.val) 4) {P : State → Prop} (hP : P ((s.lockAcq a n.val).ended a)) :
    Completes (.lockAcquire a n) s P :=
  .of ((exec_lockAcquire a n s).trans (congrArg _ (State.regAccess_reached _ hr))) hP

theorem lockRelease_reached (hr : s.Reached a true (EPO_LOCK n.val) 4) {P : State → Prop} (hP : P ((s.lockRel a n.val).ended a)) :
    Completes (.lockRelease a n) s P :=
  .of ((exec_lockRelease a n s).trans (congrArg _ (State.regAccess_reached _ hr))) hP

theorem State.lockAcq_free (ho : s.get (EPO_LOCK_OWNER n.val) = 0xF) :
    s.lockAcq (.hart h) n.val = s.put (EPO_LOCK_OWNER n.val) (s.lockHart h.val) := if_pos (beq_iff_eq.mpr ho)

theorem State.lockAcq_taken (ho : s.get (EPO_LOCK_OWNER n.val) ≠ 0xF) : s.lockAcq (.hart h) n.val = s := if_neg (mt beq_iff_eq.mp ho)

theorem State.lockRel_own (ho : s.get (EPO_LOCK_OWNER n.val) = s.lockHart h.val) :
    s.lockRel (.hart h) n.val = (s.put (EPO_LOCK_OWNER n.val) 0xF).put (EPO_LOCK_BROKEN n.val) 0 := if_pos (beq_iff_eq.mpr ho)

theorem State.lockRel_other (ho : s.get (EPO_LOCK_OWNER n.val) ≠ s.lockHart h.val) : s.lockRel (.hart h) n.val = s := if_neg (mt beq_iff_eq.mp ho)

theorem lockAcquire_takes (hr : s.Reached (.hart h) true (EPO_LOCK n.val) 4) (ho : s.get (EPO_LOCK_OWNER n.val) = 0xF) :
    Completes (.lockAcquire (.hart h) n) s fun t => t.get (EPO_LOCK_OWNER n.val) = s.lockHart h.val ∧
      t.get (EPO_LOCK_BROKEN n.val) = s.get (EPO_LOCK_BROKEN n.val) ∧ t.mem = s.mem ∧ t.cpu = s.cpu ∧ ∀ k, k ≠ EPO_LOCK n.val → t.rd k = s.rd k := by
  refine lockAcquire_reached hr ?_
  rw [State.lockAcq_free ho]
  exact ⟨State.get_put_small _ (epoLock_fits _).1 (s.lockHart_lt h), State.get_put_apart _ _ (epoLock_fits _).1 (epoLock_apart _).2, rfl, rfl,
    fun _ hk => State.rd_put_ne _ _ hk⟩

theorem lockRelease_frees (hr : s.Reached (.hart h) true (EPO_LOCK n.val) 4) (ho : s.get (EPO_LOCK_OWNER n.val) = s.lockHart h.val) :
    Completes (.lockRelease (.hart h) n) s fun t => t.get (EPO_LOCK_OWNER n.val) = 0xF ∧
      t.get (EPO_LOCK_BROKEN n.val) = 0 ∧ t.mem = s.mem ∧ t.cpu = s.cpu ∧ ∀ k, k ≠ EPO_LOCK n.val → t.rd k = s.rd k := by
  obtain ⟨hfo, hfb⟩ := epoLock_fits n.val
  refine lockRelease_reached hr ?_
  rw [State.lockRel_own ho]
  refine ⟨?_, State.get_put_small _ hfb (Nat.two_pow_pos _), rfl, rfl, fun _ hk => ?_⟩
  · exact (State.get_put_apart _ _ hfb (epoLock_apart _).1).trans (State.get_put_small _ hfo (show 0xF < 2 ^ 4 by decide))
  · exact (State.rd_put_ne _ _ hk).trans (State.rd_put_ne _ _ hk)

/-- An agent that is no hart owns nothing. -/
theorem State.lock_noHart (hn : ∀ h, a ≠ .hart h) : s.lockAcq a n.val = s ∧ s.lockRel a n.val = s := by
  cases a with
  | hart h => exact absurd rfl (hn h)
  | dap w => exact ⟨rfl, rfl⟩
  | device src w => exact ⟨rfl, rfl⟩

/-! ### `DAP_LOCKREL` (R500) -/

theorem exec_dapLockRelease (a : Agent) (n : LockIdx) (s : State) : exec (.dapLockRelease a n) s =
    .next ((s.regAccess a true DAP_LOCKREL 4 fun t => t.dapLockRel n.val).when (s.agentLive a && !isDap a)
      fun t => t.res DAP_LOCKRES_STATUS .denied) := rfl

/-- A broken lock is free, and says that it was broken. -/
theorem State.lockBreak_get (s : State) (n : Nat) :
    (s.lockBreak n).get (EPO_LOCK_OWNER n) = 0xF ∧ (s.lockBreak n).on (EPO_LOCK_BROKEN n) = true := by
  obtain ⟨hfo, hfb⟩ := epoLock_fits n
  exact ⟨(State.get_put_apart _ _ hfb (epoLock_apart n).1).trans (State.get_put_small _ hfo (show 0xF < 2 ^ 4 by decide)), State.on_put_one _ hfb rfl⟩

theorem dapLockRelease_reached (hd : isDap a = true) (hr : s.Reached a true DAP_LOCKREL 4) {P : State → Prop} {t : State}
    (ht : s.dapLockRel n.val = t) (hP : P (t.ended a)) : Completes (.dapLockRelease a n) s P := by
  refine .of ((exec_dapLockRelease a n s).trans (congrArg _ ?_)) hP
  rw [State.regAccess_reached _ hr, hd, Bool.not_true, Bool.and_false, ht]
  rfl

/-- An answer without a release: the status says why, and no lock changes. -/
theorem dapLockRelease_answers (hd : isDap a = true) (hr : s.Reached a true DAP_LOCKREL 4) {st : Status}
    (ht : s.dapLockRel n.val = s.res DAP_LOCKRES_STATUS st) : Completes (.dapLockRelease a n) s fun t =>
      t.get DAP_LOCKRES_STATUS = st8 st ∧ t.rd (EPO_LOCK n.val) = s.rd (EPO_LOCK n.val) := by
  obtain ⟨hres, hdap, -⟩ := lock_apart n.isLt
  refine dapLockRelease_reached hd hr ht ⟨?_, ?_⟩
  · rw [State.get_ended _ _ (by decide), State.get_res_byte _ _ lockres_fits.1 rfl]
  · exact (State.rd_ended _ _ hdap).trans (State.rd_put_ne _ _ hres)

theorem dapLockRelease_free (hd : isDap a = true) (hr : s.Reached a true DAP_LOCKREL 4) (ho : s.get (EPO_LOCK_OWNER n.val) = 0xF) :
    Completes (.dapLockRelease a n) s fun t => t.get DAP_LOCKRES_STATUS = st8 .tooLate ∧ t.rd (EPO_LOCK n.val) = s.rd (EPO_LOCK n.val) :=
  dapLockRelease_answers hd hr (if_pos (beq_iff_eq.mpr ho))

theorem dapLockRelease_denied (hd : isDap a = true) (hr : s.Reached a true DAP_LOCKREL 4) (ho : s.get (EPO_LOCK_OWNER n.val) ≠ 0xF)
    (hi : s.invasive (s.hartWorld (s.get (EPO_LOCK_OWNER n.val))) = false) :
    Completes (.dapLockRelease a n) s fun t => t.get DAP_LOCKRES_STATUS = st8 .denied ∧ t.rd (EPO_LOCK n.val) = s.rd (EPO_LOCK n.val) :=
  dapLockRelease_answers hd hr ((if_neg (mt beq_iff_eq.mp ho)).trans (if_pos (by rw [hi]; rfl)))

theorem dapLockRelease_breaks (hd : isDap a = true) (hr : s.Reached a true DAP_LOCKREL 4) (ho : s.get (EPO_LOCK_OWNER n.val) ≠ 0xF)
    (hi : s.invasive (s.hartWorld (s.get (EPO_LOCK_OWNER n.val))) = true) : Completes (.dapLockRelease a n) s fun t =>
      t.get DAP_LOCKRES_STATUS = st8 .ok ∧ t.get DAP_LOCKRES_OWNER = s.get (EPO_LOCK_OWNER n.val) ∧ t.get (EPO_LOCK_OWNER n.val) = 0xF ∧
      t.on (EPO_LOCK_BROKEN n.val) = true := by
  obtain ⟨hres, hdap, -⟩ := lock_apart n.isLt
  obtain ⟨hfs, hfo⟩ := lockres_fits
  obtain ⟨hfree, hbroken⟩ := s.lockBreak_get n.val
  have howner : s.get (EPO_LOCK_OWNER n.val) < 2 ^ DAP_LOCKRES_OWNER.w := bitsOf_lt ..
  refine dapLockRelease_reached hd hr ((if_neg (mt beq_iff_eq.mp ho)).trans (if_neg (by rw [hi]; exact Bool.false_ne_true))) ⟨?_, ?_, ?_, ?_⟩
  · rw [State.get_ended _ _ (by decide), State.get_put_apart _ _ hfo lockres_apart, State.get_res_byte _ _ hfs rfl]
  · rw [State.get_ended _ _ (by decide), State.get_put_small _ hfo howner]
  · rw [State.get_ended _ _ hdap, State.get_put_ne _ _ hres, State.get_res_ne _ _ hres, hfree]
  · rw [State.on_ended _ _ hdap, State.on_put_ne _ _ hres, State.on, State.get_res_ne _ _ hres]
    exact hbroken

/-- A refused register access of an agent beside the debug module: its record and its trap, which no lock sees. -/
theorem regRefused_lock (s : State) {a : Agent} (hd : isDap a = false) (st : Status) (addr : Nat) {k : Nat} (hc : counterless k)
    (hl : k ∉ logRegs) : (s.regRefused a true addr st).rd k = s.rd k := by
  have hlog : (s.sherdRefused a st (s.region addr) addr).rd k = s.rd k := (LogOnly.refused s a st (s.region addr) addr).rd hl
  cases a with
  | hart h => exact ((trap_counterless ..).reg k hc).trans hlog
  | dap w => cases hd
  | device src w => exact hlog

theorem dapLockRelease_refused (hd : isDap a = false) (hl : s.agentLive a = true) : Completes (.dapLockRelease a n) s fun t =>
    t.get DAP_LOCKRES_STATUS = st8 .denied ∧ t.rd (EPO_LOCK n.val) = s.rd (EPO_LOCK n.val) := by
  obtain ⟨hres, -, hc, hlog⟩ := lock_apart n.isLt
  have hv : s.regVerdict a true DAP_LOCKREL 4 = .refuse .denied := by
    have hreg : s.region DAP_LOCKREL = .debug 0 0x10 := rfl
    unfold State.regVerdict
    rw [hreg, hd]
    rfl
  refine .of (exec_dapLockRelease a n s) ?_
  rw [State.regAccess_refused _ hl (fun h => absurd h (by rw [hd]; exact Bool.false_ne_true)) hv, hl, hd]
  exact ⟨State.get_res_byte _ _ lockres_fits.1 rfl, (State.rd_put_ne _ _ hres).trans (regRefused_lock s hd _ _ hc hlog)⟩

end

/-- Settles O37: what each write does, by the owner it finds. -/
theorem locksAreHeldByOneHart : Obligations.LocksAreHeldByOneHart := by
  refine ⟨fun a n s hr => ⟨?_, fun hn => ?_⟩, fun a n s => ⟨fun hd hr => ?_, dapLockRelease_refused⟩⟩
  · rintro h rfl
    refine ⟨lockAcquire_takes hr, fun ho => ?_, lockRelease_frees hr, fun ho => ?_⟩
    · exact lockAcquire_reached hr (State.lockAcq_taken ho)
    · exact lockRelease_reached hr (State.lockRel_other ho)
  · obtain ⟨hacq, hrel⟩ := State.lock_noHart (s := s) (n := n) hn
    exact ⟨lockAcquire_reached hr (by rw [hacq]), lockRelease_reached hr (by rw [hrel])⟩
  · exact ⟨dapLockRelease_free hd hr, dapLockRelease_denied hd hr, dapLockRelease_breaks hd hr⟩

end Sys2Proof.Machine
end

section
/-! The watchdogs of the cores, writes and snapshots of counters, and the bandwidth windows (R293, R501, R506 to R509, R511, R514, R515). -/

namespace Sys2Proof.Machine

open Sys2Proof

/-! ### The watchdogs (R501) -/

section
variable {a : Agent} {c : AppCore} {s : State}

theorem exec_cwdKick (a : Agent) (c : AppCore) (s : State) :
    exec (.cwdKick a c) s = .next (s.regAccess a true (CWD_KICK c.val) 4 fun t => t.cwdKick c.val) := rfl

theorem exec_cwdExpire (c : AppCore) (s : State) : exec (.cwdExpire c) s = .next (if s.cwdRuns c.val then s.cwdExpire c.val else s) := rfl

theorem cwdStatus_fits (c : Nat) : (CWD_STATUS_EXPIRED c).fits ∧ (CWD_STATUS_RESTARTED c).fits := by
  simp [Fld.fits, CWD_STATUS_EXPIRED, CWD_STATUS_RESTARTED]

/-- A period starts: only the guard's own counters change. -/
theorem State.cwdLeft_cwdLoad (s : State) (c us : Nat) : tabGet (fun _ => 0) (s.cwdLoad c us).guard.cwdLeft c = 250 * us :=
  tabGet_tabSet_self ..

theorem cwdKick_late (hr : s.Reached a true (CWD_KICK c.val) 4) (hx : tabGet (fun _ => none) s.guard.cwdExp c.val = some s.ticks) :
    Completes (.cwdKick a c) s fun t => t = s.ended a := by
  refine .of ((exec_cwdKick a c s).trans (congrArg _ (State.regAccess_reached _ hr))) ?_
  rw [State.cwdKick, if_pos (beq_iff_eq.mpr hx)]

theorem cwdKick_loads (hr : s.Reached a true (CWD_KICK c.val) 4) (hx : tabGet (fun _ => none) s.guard.cwdExp c.val ≠ some s.ticks) :
    Completes (.cwdKick a c) s fun t =>
      tabGet (fun _ => 0) t.guard.cwdLeft c.val = 250 * s.get (CWD_CFG_PERIOD_US c.val) ∧ t.cpu = s.cpu ∧ t.mem = s.mem := by
  refine .of ((exec_cwdKick a c s).trans (congrArg _ (State.regAccess_reached _ hr))) ?_
  rw [State.cwdKick, if_neg (mt beq_iff_eq.mp hx), State.guard_ended, State.cpu_ended, State.mem_ended]
  exact ⟨State.cwdLeft_cwdLoad .., rfl, rfl⟩

/-- An expiry notes its clock and starts a period anew. -/
def State.cwdAgain (s : State) (c : Nat) : State :=
  ({ s with guard := { s.guard with cwdExp := tabSet (fun _ => none) s.guard.cwdExp c (some s.ticks) } }).cwdLoad c
    (tabGet (fun _ => 100000) s.guard.cwdPeriod c)

theorem State.cwdExpire_eq (s : State) (c : Nat) : s.cwdExpire c = if s.on (CWD_STATUS_EXPIRED c) then
    (s.cwdAgain c).when (s.on (CWD_CFG_RESTART c)) (fun t => t.cwdRestart c) else (s.cwdAgain c).put (CWD_STATUS_EXPIRED c) 1 := rfl

theorem cwdExpire_stopped (hr : s.cwdRuns c.val = false) : Completes (.cwdExpire c) s fun t => t = s :=
  .of (exec_cwdExpire c s) (if_neg (by rw [hr]; exact Bool.false_ne_true))

theorem cwdExpire_runs (hr : s.cwdRuns c.val = true) {P : State → Prop} {t : State} (ht : s.cwdExpire c.val = t) (hP : P t) :
    Completes (.cwdExpire c) s P :=
  .of ((exec_cwdExpire c s).trans (congrArg _ ((if_pos hr).trans ht))) hP

theorem cwdExpire_first (hr : s.cwdRuns c.val = true) (he : s.on (CWD_STATUS_EXPIRED c.val) = false) :
    Completes (.cwdExpire c) s fun t => t.on (CWD_STATUS_EXPIRED c.val) = true ∧ t.cpu = s.cpu :=
  cwdExpire_runs hr ((s.cwdExpire_eq _).trans (if_neg (by rw [he]; exact Bool.false_ne_true)))
    ⟨State.on_put_one _ (cwdStatus_fits _).1 rfl, rfl⟩

theorem cwdExpire_warns (hr : s.cwdRuns c.val = true) (he : s.on (CWD_STATUS_EXPIRED c.val) = true)
    (hn : s.on (CWD_CFG_RESTART c.val) = false) : Completes (.cwdExpire c) s fun t => t.cpu = s.cpu := by
  refine cwdExpire_runs hr ((s.cwdExpire_eq _).trans (if_pos he)) ?_
  rw [hn]
  rfl

/-- The restarted core begins anew, with the stores it has executed. -/
theorem State.cwdRestart_facts (s : State) (c : Nat) : (s.cwdRestart c).on (CWD_STATUS_RESTARTED c) = true ∧
    ((s.cwdRestart c).hart c).running = true ∧ ((s.cwdRestart c).hart c).priv = .m ∧ ((s.cwdRestart c).hart c).world = .secure ∧
    ((s.cwdRestart c).hart c).pos = 0 ∧ ((s.cwdRestart c).hart c).sb = (s.hart c).sb := by
  unfold State.cwdRestart State.coreStart
  dsimp only
  refine ⟨State.on_put_one _ (cwdStatus_fits _).2 rfl, ?_⟩
  simp only [State.hart_put, State.hart_updHart_self, State.hart_setHart_self]
  exact ⟨trivial, rfl, rfl, rfl, trivial⟩

theorem cwdExpire_restarts (hr : s.cwdRuns c.val = true) (he : s.on (CWD_STATUS_EXPIRED c.val) = true)
    (hn : s.on (CWD_CFG_RESTART c.val) = true) : Completes (.cwdExpire c) s fun t => t.on (CWD_STATUS_RESTARTED c.val) = true ∧
      (t.hart c.val).running = true ∧ (t.hart c.val).priv = .m ∧ (t.hart c.val).world = .secure ∧ (t.hart c.val).pos = 0 ∧
      (t.hart c.val).sb = (s.hart c.val).sb := by
  refine cwdExpire_runs hr ((s.cwdExpire_eq _).trans (if_pos he)) ?_
  rw [hn]
  exact (s.cwdAgain c.val).cwdRestart_facts c.val

end

/-! ### Counters (R506 to R509) -/

theorem pmuBase_range (b : PmuBlock) : 0x43000000 ≤ pmuBase b ∧ pmuBase b < 0x46000000 := by
  cases b with
  | core c => simp only [pmuBase, pmuCoreBase]; omega
  | mem => simp only [pmuBase, pmuMemBase]; omega
  | port p => simp only [pmuBase, pmuPortBase]; omega

theorem pmuN_le (b : Nat) : pmuN (.page b) ≤ 96 := by
  simp only [pmuN]
  split_ifs <;> omega

theorem pmuCnt_fits (b i : Nat) : (pmuCnt (.page b) i).fits ∧ (pmuCnt (.page b) i).w = 32 := by
  simp [Fld.fits, pmuCnt, PMU_CNT_COUNT]

theorem pmuOvf_fits (b i : Nat) : (pmuOvf (.page b) i).fits ∧ (pmuOvf (.page b) i).w = 1 := by
  have := Nat.mod_lt i (show 0 < 64 by decide)
  simp only [Fld.fits, pmuOvf, and_true]
  omega

/-- The overflow bits stand above the counters. -/
theorem pmuOvf_ne_pmuCnt (b j : Nat) {i : Nat} (hi : i < 96) : (pmuOvf (.page b) j).reg ≠ (pmuCnt (.page b) i).reg := by
  simp only [pmuOvf, pmuCnt, PMU_OVF, PMU_CNT_COUNT, PMU_CNT]
  omega

theorem pmuOvf_apart (b : Nat) {i : Nat} (hi : 0 < i) : (pmuOvf (.page b) 0).apart (pmuOvf (.page b) i) := by
  simp only [Fld.apart, pmuOvf, PMU_OVF]
  omega

/-- A carry into the counters above the first leaves its overflow bit. -/
theorem State.on_pmuCarry_first (b fuel : Nat) : ∀ (s : State) (i k : Nat), 0 < i → i < pmuN (.page b) →
    (s.pmuCarry (.page b) fuel i k).on (pmuOvf (.page b) 0) = s.on (pmuOvf (.page b) 0) := by
  induction fuel with
  | zero => exact fun _ _ _ _ _ => rfl
  | succ fuel ih =>
    intro s i k h0 hi
    have hcnt : ∀ v, (s.put (pmuCnt (.page b) i) v).on (pmuOvf (.page b) 0) = s.on (pmuOvf (.page b) 0) := fun v =>
      State.on_put_ne _ _ (pmuOvf_ne_pmuCnt b 0 (hi.trans_le (pmuN_le b)))
    have hovf : ∀ t : State, (t.put (pmuOvf (.page b) i) 1).on (pmuOvf (.page b) 0) = t.on (pmuOvf (.page b) 0) := fun t =>
      State.on_put_apart _ _ (pmuOvf_fits b i).1 (pmuOvf_apart b h0)
    unfold State.pmuCarry
    dsimp only
    split
    · exact hcnt _
    split
    case isTrue hn =>
      rw [ih _ _ _ (by omega) (of_decide_eq_true (Bool.and_eq_true_iff.mp hn).1), hovf, hcnt]
    case isFalse => rw [hovf, hcnt]

section
variable {a : Agent} {b : PmuBlock} {i : BitVec 7} {v : BitVec 32} {inc : Bool} {s : State}

/-- What the wrap of an increment on the same clock leaves: the overflow bit, and a carry into a chained counter above. -/
def State.pmuWrap (s : State) (p : PmuPlace) (i : Nat) : State :=
  let t := s.put (pmuOvf p i) 1
  if i + 1 < pmuN p && t.on (pmuChain p (i + 1)) then t.pmuCarry p (pmuN p) (i + 1) 1 else t

theorem State.pmuWrite_eq (s : State) (p : PmuPlace) (i v : Nat) (inc : Bool) : s.pmuWrite p i v inc =
    (s.when (inc && s.get (pmuCnt p i) == 0xFFFFFFFF && !(i != 0 && s.on (pmuChain p i))) (fun t => t.pmuWrap p i)).put (pmuCnt p i) v := rfl

theorem State.on_pmuWrap_first (s : State) (b : Nat) : (s.pmuWrap (.page b) 0).on (pmuOvf (.page b) 0) = true := by
  obtain ⟨hf, hw⟩ := pmuOvf_fits b 0
  unfold State.pmuWrap
  dsimp only
  split
  case isTrue hn => rw [State.on_pmuCarry_first b _ _ _ _ Nat.one_pos (of_decide_eq_true (Bool.and_eq_true_iff.mp hn).1), State.on_put_one _ hf hw]
  case isFalse => exact State.on_put_one _ hf hw

theorem State.pmuWrite_plain {s : State} {p : PmuPlace} {i : Nat} {inc : Bool} (v : Nat) (h : inc = false ∨ s.get (pmuCnt p i) ≠ 0xFFFFFFFF) :
    s.pmuWrite p i v inc = s.put (pmuCnt p i) v := by
  have hw : (inc && s.get (pmuCnt p i) == 0xFFFFFFFF && !(i != 0 && s.on (pmuChain p i))) = false := by
    rcases h with rfl | h
    · rfl
    · rw [beq_eq_false_iff_ne.mpr h, Bool.and_false, Bool.false_and]
  rw [State.pmuWrite_eq, hw]
  rfl

theorem State.pmuWrite_wraps {s : State} {p : PmuPlace} (v : Nat) (h : s.get (pmuCnt p 0) = 0xFFFFFFFF) :
    s.pmuWrite p 0 v true = (s.pmuWrap p 0).put (pmuCnt p 0) v := by
  rw [State.pmuWrite_eq, h]
  rfl

theorem exec_pmuCounterWrite (a : Agent) (b : PmuBlock) (i : BitVec 7) (v : BitVec 32) (inc : Bool) (s : State) :
    exec (.pmuCounterWrite a b i v inc) s = .next (s.regAccess a true (PMU_CNT (pmuBase b) i.toNat) 4 fun t =>
      if i.toNat < pmuN (.page (pmuBase b)) && !t.pmuMirror b then t.pmuWrite (.page (pmuBase b)) i.toNat v.toNat inc else t) := rfl

theorem pmuCounterWrite_absent (hr : s.Reached a true (PMU_CNT (pmuBase b) i.toNat) 4)
    (hn : pmuN (.page (pmuBase b)) ≤ i.toNat ∨ s.pmuMirror b = true) :
    Completes (.pmuCounterWrite a b i v inc) s fun t => t = s.ended a := by
  refine .of ((exec_pmuCounterWrite a b i v inc s).trans (congrArg _ (State.regAccess_reached _ hr))) ?_
  rw [if_neg]
  rintro h
  obtain ⟨hlt, hm⟩ := Bool.and_eq_true_iff.mp h
  rcases hn with hle | hmir
  · exact absurd (of_decide_eq_true hlt) (Nat.not_lt.mpr hle)
  · rw [hmir] at hm
    exact Bool.false_ne_true hm

theorem pmuCounterWrite_present (hr : s.Reached a true (PMU_CNT (pmuBase b) i.toNat) 4) (hi : i.toNat < pmuN (.page (pmuBase b)))
    (hm : s.pmuMirror b = false) {P : State → Prop} (hP : P ((s.pmuWrite (.page (pmuBase b)) i.toNat v.toNat inc).ended a)) :
    Completes (.pmuCounterWrite a b i v inc) s P := by
  refine .of ((exec_pmuCounterWrite a b i v inc s).trans (congrArg _ (State.regAccess_reached _ hr))) ?_
  rwa [if_pos (by rw [decide_eq_true hi, hm]; rfl)]

theorem pmuCounterWrite_wraps (hr : s.Reached a true (PMU_CNT (pmuBase b) i.toNat) 4) (hi : i.toNat < pmuN (.page (pmuBase b)))
    (hm : s.pmuMirror b = false) : Completes (.pmuCounterWrite a b i v true) s fun t =>
      t.get (pmuCnt (.page (pmuBase b)) i.toNat) = v.toNat ∧
      (s.get (pmuCnt (.page (pmuBase b)) i.toNat) = 0xFFFFFFFF → i.toNat = 0 → t.on (pmuOvf (.page (pmuBase b)) i.toNat) = true) ∧
      (s.get (pmuCnt (.page (pmuBase b)) i.toNat) ≠ 0xFFFFFFFF → t = (s.put (pmuCnt (.page (pmuBase b)) i.toNat) v.toNat).ended a) := by
  obtain ⟨hfits, hw⟩ := pmuCnt_fits (pmuBase b) i.toNat
  obtain ⟨hlo, hhi⟩ := pmuBase_range b
  have hdap : (pmuCnt (.page (pmuBase b)) i.toNat).reg ≠ DAP_STATUS ∧ (pmuOvf (.page (pmuBase b)) 0).reg ≠ DAP_STATUS := by
    have := pmuN_le (pmuBase b)
    simp only [pmuCnt, pmuOvf, PMU_CNT_COUNT, PMU_CNT, PMU_OVF, DAP_STATUS]
    omega
  refine pmuCounterWrite_present hr hi hm ⟨?_, fun hc h0 => ?_, fun hc => by rw [State.pmuWrite_plain _ (.inr hc)]⟩
  · rw [State.get_ended _ _ hdap.1, State.pmuWrite_eq, State.get_put_self _ _ hfits, hw, Nat.mod_eq_of_lt v.isLt]
  · rw [h0] at hc ⊢
    rw [State.on_ended _ _ hdap.2, State.pmuWrite_wraps _ hc, State.on_put_ne _ _ (pmuOvf_ne_pmuCnt _ _ (by decide)), State.on_pmuWrap_first]

/-! ### Snapshots (R508) -/

theorem exec_pmuSnapRead (a : Agent) (b : PmuBlock) (s : State) :
    exec (.pmuSnapRead a b) s = .next (s.regAccess a false (PMU_SNAP (pmuBase b)) 8 fun t => if t.debugRead a then t else
      t.wr (PMU_SNAP (pmuBase b)) (t.snapValue (.page (pmuBase b)) (t.get (PMU_SNAPSEL_IDX (pmuBase b))))) := rfl

theorem pmuSnapRead_debug (hr : s.Reached a false (PMU_SNAP (pmuBase b)) 8) (hd : s.debugRead a = true) :
    Completes (.pmuSnapRead a b) s fun t => t = s.ended a := by
  refine .of ((exec_pmuSnapRead a b s).trans (congrArg _ (State.regAccess_reached _ hr))) ?_
  rw [if_pos hd]

theorem State.snapValue_pair (s : State) {p : PmuPlace} {idx : Nat} (h0 : 0 < idx) (hi : idx < pmuN p) :
    s.snapValue p idx = s.get (pmuCnt p (idx - 1)) % 2 ^ 32 + 2 ^ 32 * (s.get (pmuCnt p idx) % 2 ^ 32) := by
  rw [State.snapValue, if_neg]
  · simp only [packBits]
    omega
  · simp only [Bool.or_eq_true, beq_iff_eq, decide_eq_true_eq, not_or]
    omega

theorem pmuSnapRead_latches (hr : s.Reached a false (PMU_SNAP (pmuBase b)) 8) (hd : s.debugRead a = false) (ha : isDap a = false)
    (h0 : 0 < s.get (PMU_SNAPSEL_IDX (pmuBase b))) (hi : s.get (PMU_SNAPSEL_IDX (pmuBase b)) < pmuN (.page (pmuBase b))) :
    Completes (.pmuSnapRead a b) s fun t => t.rd (PMU_SNAP (pmuBase b)) =
      s.get (pmuCnt (.page (pmuBase b)) (s.get (PMU_SNAPSEL_IDX (pmuBase b)) - 1)) +
        2 ^ 32 * s.get (pmuCnt (.page (pmuBase b)) (s.get (PMU_SNAPSEL_IDX (pmuBase b)))) ∧ t.cpu = s.cpu ∧ t.mem = s.mem := by
  have hlt : ∀ j, s.get (pmuCnt (.page (pmuBase b)) j) < 2 ^ 32 := fun j => bitsOf_lt ..
  refine .of ((exec_pmuSnapRead a b s).trans (congrArg _ (State.regAccess_reached _ hr))) ?_
  rw [if_neg (by rw [hd]; exact Bool.false_ne_true), State.ended, ha, if_neg Bool.false_ne_true, State.snapValue_pair s h0 hi,
    Nat.mod_eq_of_lt (hlt _), Nat.mod_eq_of_lt (hlt _), State.rd_wr_self]
  refine ⟨Nat.mod_eq_of_lt ?_, State.cpu_wr .., State.mem_wr ..⟩
  have h1 := hlt (s.get (PMU_SNAPSEL_IDX (pmuBase b)) - 1)
  have h2 := hlt (s.get (PMU_SNAPSEL_IDX (pmuBase b)))
  omega

end

/-! ### Bandwidth windows (R511, R514) -/

/-- The LAST and PEAK registers of the ports are all different. -/
theorem bwLast_ne {k j : Nat} (hk : k < 11) (hj : j < 11) :
    PMU_BWLAST pmuMemBase k ≠ PMU_BWPEAK pmuMemBase j ∧ PMU_BWPEAK pmuMemBase j ≠ PMU_BWLAST pmuMemBase k ∧
    (j ≠ k → PMU_BWLAST pmuMemBase k ≠ PMU_BWLAST pmuMemBase j ∧ PMU_BWPEAK pmuMemBase k ≠ PMU_BWPEAK pmuMemBase j) := by
  simp only [PMU_BWLAST, PMU_BWPEAK, pmuMemBase]
  omega

/-- They are no control register of the windows, nor the debug module's. -/
theorem bwPort_ne (k : Nat) (hk : k < 11) : ∀ r ∈ [PMU_BWLAST pmuMemBase k, PMU_BWPEAK pmuMemBase k],
    r ≠ PMU_BWSEQ pmuMemBase ∧ r ≠ PMU_BWCFG pmuMemBase ∧ r ≠ DAP_STATUS := by
  simp only [List.mem_cons, List.not_mem_nil, or_false, forall_eq_or_imp, forall_eq, PMU_BWLAST, PMU_BWPEAK, PMU_BWSEQ, PMU_BWCFG, pmuMemBase,
    DAP_STATUS]
  omega

section
variable {a : Agent} {s : State} {k : Nat}

/-- At a window's end port `k` shows the bytes it has counted, and the most of a window. -/
def State.bwPort (s : State) (k : Nat) : State :=
  (s.wr (PMU_BWLAST pmuMemBase k) (tabGet (fun _ => 0) s.pmu.bw k)).wr (PMU_BWPEAK pmuMemBase k)
    (Nat.max (tabGet (fun _ => 0) s.pmu.bw k) (s.rd (PMU_BWPEAK pmuMemBase k)))

/-- A window begins: no port has counted. -/
def State.bwBegin (s : State) : State := { s with pmu := { s.pmu with bw := [] } }

theorem State.bwBegin_frame (s : State) : s.bwBegin.pmu.bw = [] ∧ (∀ r, s.bwBegin.rd r = s.rd r) ∧ ∀ f, s.bwBegin.get f = s.get f :=
  ⟨rfl, fun _ => rfl, fun _ => rfl⟩

theorem State.bwEnd_eq (s : State) :
    s.bwEnd = (s.each (List.range 11) fun k t => t.bwPort k).bwBegin.inc (PMU_BWSEQ_SEQ pmuMemBase) 1 := rfl

/-- What a port's end of window leaves alone. -/
theorem State.rd_bwPort_ne (s : State) {r : Nat} (hl : r ≠ PMU_BWLAST pmuMemBase k) (hp : r ≠ PMU_BWPEAK pmuMemBase k) :
    (s.bwPort k).rd r = s.rd r := (State.rd_wr_ne _ _ hp).trans (State.rd_wr_ne _ _ hl)

theorem State.rd_bwPort (s : State) (hk : k < 11) :
    (s.bwPort k).rd (PMU_BWLAST pmuMemBase k) = tabGet (fun _ => 0) s.pmu.bw k % 2 ^ 64 ∧
    (s.bwPort k).rd (PMU_BWPEAK pmuMemBase k) = Nat.max (tabGet (fun _ => 0) s.pmu.bw k) (s.rd (PMU_BWPEAK pmuMemBase k)) % 2 ^ 64 :=
  ⟨(State.rd_wr_ne _ _ (bwLast_ne hk hk).1).trans (State.rd_wr_self ..), State.rd_wr_self ..⟩

theorem State.rd_bwPorts (s : State) (hk : k < 11) :
    ((s.each (List.range 11) fun k t => t.bwPort k).rd (PMU_BWLAST pmuMemBase k),
      (s.each (List.range 11) fun k t => t.bwPort k).rd (PMU_BWPEAK pmuMemBase k)) =
    (tabGet (fun _ => 0) s.pmu.bw k % 2 ^ 64, Nat.max (tabGet (fun _ => 0) s.pmu.bw k) (s.rd (PMU_BWPEAK pmuMemBase k)) % 2 ^ 64) := by
  refine State.each_once (fun t => (t.pmu, t.rd (PMU_BWPEAK pmuMemBase k)))
    (fun t => (t.rd (PMU_BWLAST pmuMemBase k), t.rd (PMU_BWPEAK pmuMemBase k))) s List.nodup_range (List.mem_range.mpr hk) (fun t ht => ?_)
    fun j hj hne t => ?_
  · obtain ⟨hpmu, hpeak⟩ := Prod.mk.inj ht
    obtain ⟨h1, h2⟩ := t.rd_bwPort hk
    rw [h1, h2, hpmu, hpeak]
  · obtain ⟨hlp, hpl, hd⟩ := bwLast_ne hk (List.mem_range.mp hj)
    obtain ⟨hll, hpp⟩ := hd hne
    obtain ⟨-, hpl', -⟩ := bwLast_ne (List.mem_range.mp hj) hk
    have hlast := t.rd_bwPort_ne (k := j) hll hlp
    have hpeak := t.rd_bwPort_ne (k := j) hpl' hpp
    exact ⟨Prod.ext rfl hpeak, Prod.ext hlast hpeak⟩

theorem exec_bwWindowEnd (s : State) :
    exec .bwWindowEnd s = .next (if s.runs MEM 3 && s.get (PMU_BWCFG_WIN_US pmuMemBase) != 0 then s.bwEnd else s) := rfl

theorem bwWindowEnd_off (hw : s.get (PMU_BWCFG_WIN_US pmuMemBase) = 0) : Completes .bwWindowEnd s fun t => t = s := by
  refine .of (exec_bwWindowEnd s) ?_
  rw [hw, if_neg (by simp)]

theorem bwWindowEnd_on (hr : s.runs MEM 3 = true) (hw : s.get (PMU_BWCFG_WIN_US pmuMemBase) ≠ 0) :
    Completes .bwWindowEnd s fun t => t.pmu.bw = [] ∧
      t.get (PMU_BWSEQ_SEQ pmuMemBase) = (s.get (PMU_BWSEQ_SEQ pmuMemBase) + 1) % 2 ^ (PMU_BWSEQ_SEQ pmuMemBase).w ∧
      ∀ k < 11, t.rd (PMU_BWLAST pmuMemBase k) = tabGet (fun _ => 0) s.pmu.bw k % 2 ^ 64 ∧
        t.rd (PMU_BWPEAK pmuMemBase k) = Nat.max (tabGet (fun _ => 0) s.pmu.bw k) (s.rd (PMU_BWPEAK pmuMemBase k)) % 2 ^ 64 := by
  refine .of ((exec_bwWindowEnd s).trans (congrArg _ (if_pos (by rw [hr, bne_iff_ne.mpr hw]; rfl)))) ?_
  have hseq : (s.each (List.range 11) fun k t => t.bwPort k).get (PMU_BWSEQ_SEQ pmuMemBase) = s.get (PMU_BWSEQ_SEQ pmuMemBase) :=
    State.each_same (fun t => t.get (PMU_BWSEQ_SEQ pmuMemBase)) _ (fun j hj t => by
      have hne := bwPort_ne j (List.mem_range.mp hj)
      exact congrArg (bitsOf · 0 32) (State.rd_bwPort_ne _ (hne _ (by simp)).1.symm (hne _ (by simp)).1.symm)) s
  rw [State.bwEnd_eq]
  generalize hu : (s.each (List.range 11) fun k t => t.bwPort k) = u at hseq
  obtain ⟨hbw, hrd, hget⟩ := u.bwBegin_frame
  refine ⟨hbw, ?_, fun k hk => ?_⟩
  · rw [State.inc, State.get_put_self _ _ (by unfold Fld.fits; decide), hget, hseq]
  · have hne := bwPort_ne k hk
    obtain ⟨h1, h2⟩ := Prod.mk.inj (s.rd_bwPorts hk)
    rw [hu] at h1 h2
    rw [State.inc, State.rd_put_ne _ _ (hne _ (by simp)).1, State.rd_put_ne _ _ (hne _ (by simp)).1, hrd, hrd]
    exact ⟨h1, h2⟩

/-! ### Restart and clear -/

theorem State.rd_bwClearPeak (s : State) (hk : k < 11) : s.bwClearPeak.rd (PMU_BWPEAK pmuMemBase k) = 0 := by
  refine State.each_once (fun _ => ()) (fun t => t.rd (PMU_BWPEAK pmuMemBase k)) s List.nodup_range (List.mem_range.mpr hk)
    (fun t _ => State.rd_wr_self ..) fun j hj hne t => ⟨rfl, State.rd_wr_ne _ _ ?_⟩
  exact ((bwLast_ne hk (List.mem_range.mp hj)).2.2 hne).2

theorem State.rd_bwClearPeak_ne (s : State) {r : Nat} (hr : ∀ j < 11, r ≠ PMU_BWPEAK pmuMemBase j) : s.bwClearPeak.rd r = s.rd r :=
  State.each_same (fun t => t.rd r) _ (fun j hj _ => State.rd_wr_ne _ _ (hr j (List.mem_range.mp hj))) s

theorem State.pmu_bwClearPeak (s : State) : s.bwClearPeak.pmu = s.pmu :=
  State.each_same State.pmu (List.range 11) (f := fun k t => t.wr (PMU_BWPEAK pmuMemBase k) 0) (fun _ _ _ => rfl) s

/-- LAST of every port cleared. -/
def State.bwClearLast (s : State) : State := s.each (List.range 11) fun k t => t.wr (PMU_BWLAST pmuMemBase k) 0

theorem State.rd_bwClearLast (s : State) (hk : k < 11) : s.bwClearLast.rd (PMU_BWLAST pmuMemBase k) = 0 := by
  refine State.each_once (fun _ => ()) (fun t => t.rd (PMU_BWLAST pmuMemBase k)) s List.nodup_range (List.mem_range.mpr hk)
    (fun t _ => State.rd_wr_self ..) fun j hj hne t => ⟨rfl, State.rd_wr_ne _ _ ?_⟩
  exact ((bwLast_ne hk (List.mem_range.mp hj)).2.2 hne).1

theorem State.bwRestart_eq (s : State) (us : Nat) : s.bwRestart us =
    s.bwClearLast.bwClearPeak.bwBegin.put (PMU_BWCFG_WIN_US pmuMemBase) us := rfl

theorem exec_bwWindowRestart (a : Agent) (us : BitVec 20) (s : State) : exec (.bwWindowRestart a us) s =
    .next (s.regAccess a true (PMU_BWCFG pmuMemBase) 4 fun t => t.bwRestart us.toNat) := rfl

theorem exec_bwClearPeak (a : Agent) (s : State) :
    exec (.bwClearPeak a) s = .next (s.regAccess a true (PMU_BWCFG pmuMemBase) 4 State.bwClearPeak) := rfl

theorem bwWindowRestart_restarts (hr : s.Reached a true (PMU_BWCFG pmuMemBase) 4) (us : BitVec 20) :
    Completes (.bwWindowRestart a us) s fun t => t.pmu.bw = [] ∧ t.get (PMU_BWCFG_WIN_US pmuMemBase) = us.toNat ∧
      ∀ k < 11, t.rd (PMU_BWLAST pmuMemBase k) = 0 ∧ t.rd (PMU_BWPEAK pmuMemBase k) = 0 := by
  refine .of ((exec_bwWindowRestart a us s).trans (congrArg _ (State.regAccess_reached _ hr))) ?_
  rw [State.bwRestart_eq]
  obtain ⟨hbw, hrd, -⟩ := s.bwClearLast.bwClearPeak.bwBegin_frame
  refine ⟨by rw [State.pmu_ended, State.pmu_put, hbw], ?_, fun k hk => ?_⟩
  · rw [State.get_ended _ _ (by decide), State.get_put_small _ (by unfold Fld.fits; decide) us.isLt]
  · obtain ⟨-, hlc, hld⟩ := bwPort_ne k hk _ (List.mem_cons_self ..)
    obtain ⟨-, hpc, hpd⟩ := bwPort_ne k hk (PMU_BWPEAK pmuMemBase k) (by simp)
    rw [State.rd_ended _ _ hld, State.rd_ended _ _ hpd, State.rd_put_ne _ _ hlc, State.rd_put_ne _ _ hpc, hrd, hrd]
    exact ⟨(State.rd_bwClearPeak_ne _ fun j hj => (bwLast_ne hk hj).1).trans (s.rd_bwClearLast hk), State.rd_bwClearPeak _ hk⟩

theorem bwClearPeak_clears (hr : s.Reached a true (PMU_BWCFG pmuMemBase) 4) : Completes (.bwClearPeak a) s fun t =>
    t.pmu = s.pmu ∧ ∀ k < 11, t.rd (PMU_BWPEAK pmuMemBase k) = 0 ∧ t.rd (PMU_BWLAST pmuMemBase k) = s.rd (PMU_BWLAST pmuMemBase k) := by
  refine .of ((exec_bwClearPeak a s).trans (congrArg _ (State.regAccess_reached _ hr))) ⟨?_, fun k hk => ?_⟩
  · rw [State.pmu_ended, State.pmu_bwClearPeak]
  · obtain ⟨-, -, hld⟩ := bwPort_ne k hk _ (List.mem_cons_self ..)
    obtain ⟨-, -, hpd⟩ := bwPort_ne k hk (PMU_BWPEAK pmuMemBase k) (by simp)
    rw [State.rd_ended _ _ hld, State.rd_ended _ _ hpd]
    exact ⟨s.rd_bwClearPeak hk, s.rd_bwClearPeak_ne fun j hj => (bwLast_ne hk hj).1⟩

end

/-- Settles O47, by the command and the state it finds. -/
theorem coreWatchdogsAndCountersComplete : Obligations.CoreWatchdogsAndCountersComplete := by
  refine ⟨fun a c s hr => ⟨cwdKick_late hr, cwdKick_loads hr⟩,
    fun c s => ⟨cwdExpire_stopped, cwdExpire_first, cwdExpire_warns, cwdExpire_restarts⟩,
    fun a b i v s hr => ⟨fun hn inc => pmuCounterWrite_absent hr hn, fun hi hm => ⟨?_, pmuCounterWrite_wraps hr hi hm⟩⟩,
    fun a b s hr => ⟨pmuSnapRead_debug hr, pmuSnapRead_latches hr⟩, fun s hr => ⟨bwWindowEnd_off, bwWindowEnd_on hr⟩,
    fun a us s hr => ⟨bwWindowRestart_restarts hr us, bwClearPeak_clears hr⟩⟩
  exact pmuCounterWrite_present hr hi hm (by rw [State.pmuWrite_plain _ (.inl rfl)])

end Sys2Proof.Machine
end

section
/-! Lockstep pairs: a divergence stops the pair or rolls its cluster back, RESTART starts the even core, INJECT provokes a divergence
(R294, R445, R447, R455, R461). -/

namespace Sys2Proof.Machine

open Sys2Proof

/-- A field reads the same where its register does. -/
theorem State.get_of_rd {s t : State} {f : Fld} (h : t.rd f.reg = s.rd f.reg) : t.get f = s.get f := congrArg (bitsOf · f.lo f.w) h

theorem State.on_of_rd {s t : State} {f : Fld} (h : t.rd f.reg = s.rd f.reg) : t.on f = s.on f := by
  rw [State.on, State.get_of_rd h, State.on]

/-! ### Withdrawn grants (R445) -/

section
variable {s : State} {who : Nat → Bool}

/-- A lock that one of `who` owns is broken. -/
def State.lockWithdraw (who : Nat → Bool) (n : Nat) (s : State) : State :=
  if s.get (EPO_LOCK_OWNER n) != 0xF && who (s.get (EPO_LOCK_OWNER n)) then s.lockBreak n else s

theorem State.breakLocks_eq (s : State) (who : Nat → Bool) : s.breakLocks who = s.each (List.range 64) (State.lockWithdraw who) := rfl

theorem State.rd_lockWithdraw_ne (s : State) {n r : Nat} (hr : r ≠ EPO_LOCK n) : (s.lockWithdraw who n).rd r = s.rd r := by
  unfold State.lockWithdraw State.lockBreak
  split
  · exact (State.rd_put_ne _ _ hr).trans (State.rd_put_ne _ _ hr)
  · rfl

theorem State.mem_lockWithdraw (s : State) (n : Nat) : (s.lockWithdraw who n).mem = s.mem := by
  unfold State.lockWithdraw
  split <;> rfl

theorem State.rd_breakLocks_ne (s : State) (who : Nat → Bool) {r : Nat} (hr : ∀ n < 64, r ≠ EPO_LOCK n) : (s.breakLocks who).rd r = s.rd r :=
  State.each_same (fun t => t.rd r) _ (fun n hn t => t.rd_lockWithdraw_ne (hr n (List.mem_range.mp hn))) s

theorem State.mem_breakLocks (s : State) (who : Nat → Bool) : (s.breakLocks who).mem = s.mem :=
  State.each_same State.mem (List.range 64) (f := State.lockWithdraw who) (fun n _ t => t.mem_lockWithdraw n) s

/-- No owner whose grants are withdrawn holds a lock afterwards. -/
theorem State.breakLocks_owner (s : State) {who : Nat → Bool} {o n : Nat} (ho : who o = true) (ho' : o ≠ 0xF) (hn : n < 64) :
    (s.breakLocks who).get (EPO_LOCK_OWNER n) ≠ o := by
  refine of_decide_eq_true (State.each_once (fun _ => ()) (fun t => decide (t.get (EPO_LOCK_OWNER n) ≠ o)) s List.nodup_range (List.mem_range.mpr hn)
    (f := State.lockWithdraw who) (v := true) (fun t _ => decide_eq_true ?_) fun m _ hne t => ⟨rfl, ?_⟩)
  · unfold State.lockWithdraw
    split
    case isTrue => rw [(t.lockBreak_get n).1]; exact ho'.symm
    case isFalse h =>
      rintro rfl
      exact h (by rw [ho, bne_iff_ne.mpr ho']; rfl)
  · have hr : EPO_LOCK n ≠ EPO_LOCK m := by simp only [EPO_LOCK]; omega
    have hk : (t.lockWithdraw who m).get (EPO_LOCK_OWNER n) = t.get (EPO_LOCK_OWNER n) := State.get_of_rd (t.rd_lockWithdraw_ne hr)
    rw [hk]

end

/-! ### Rollback: what it leaves of the registers, and where it stands (R454) -/

section
variable {s : State} {c cause hart : Nat}

/-- The uncommitted line `l` is invalidated in the L2s of a cluster. -/
def State.lineDropped (s : State) (c l : Nat) : State :=
  s.each (clusterHarts c) fun k u => ((u.setL2 k l none).clearResv l (fun h => h == k)).setDir l (dirDrop (u.dirAt l) k)

/-- An output of the queue that has not gone is discarded. -/
def State.outDropped (s : State) : EpochOut → State
  | .arm i => s.wheelFree i
  | .store _ _ _ _ _ _ => s

/-- A hart returns to the checkpoint. -/
def State.hartRolled (s : State) (ckpt : Tab HartSt) (h : Nat) : State :=
  let t := s.setHart h (rolledHart (s.hart h) (tabGet (fun _ => HartSt.init) ckpt h))
  t.setCsr h csrEzepoch (putBits (t.csr h csrEzepoch) 2 1 1)

/-- An interrupt file returns to the checkpoint. -/
def State.fileRolled (s : State) (e : EpochSt) (k : Nat) : State :=
  let f := tabGet (fun _ => ImsicFile.init) e.ckptImsic k
  let f := { f with eip := Nat.lor f.eip (tabGet (fun _ => 0) e.arrived k) }
  { s with cpu := { s.cpu with imsic := tabSet (fun _ => ImsicFile.init) s.cpu.imsic k f } }

/-- The cluster's lines, outputs, harts and files as a rollback leaves them. -/
def State.rolledBack (s : State) (c : Nat) : State :=
  let e := s.epoch c
  let s := (s.each e.lines fun l t => t.lineDropped c l).each e.outq fun o t => t.outDropped o
  (s.each ((clusterHarts c).filter fun h => !(s.hart h).halted) fun h t => t.hartRolled e.ckptHarts h).each (List.range 32)
    fun i t => t.fileRolled e (32 * c + i)

/-- The rollback counts, its epoch is empty. -/
def State.rollbackCounted (s : State) (c : Nat) (e : EpochSt) : State :=
  (s.setEpoch c { e with lines := [], places := [], outq := [] }).each (clusterHarts c) fun h t => t.coreCount h 66

/-- The registers of the epoch show the rollback. -/
def State.rollbackShown (s : State) (c cause hart : Nat) : State :=
  let s := (((s.put (EPO_STATUS_STATE c) 2).inc (EPO_STATUS_RBRUN c) 1).inc (EPO_CNT_ROLLBACKS c) 1).put (EPO_LASTRB_VT c) (s.vt 0)
  let s := ((s.put (EPO_RBCAUSE_CAUSE c) cause).put (EPO_RBCAUSE_HART c) hart).put (EPO_IRQ_STATUS_ROLLBACK c) 1
  (s.put (EPO_OUTQ_USED c) 0).put (EPO_STORE_USED c) 0

theorem State.rollback_eq (s : State) (c cause hart : Nat) :
    s.rollback c cause hart = ((s.rolledBack c).rollbackCounted c (s.epoch c)).rollbackShown c cause hart := by
  rfl

/-- A rollback changes no register beside the pools of the wheel, the counters and the epoch's own. -/
theorem rolledBack_kept {K : Nat → Prop} (hK : ∀ o, ¬ K (wUsed o).reg) (s : State) (c : Nat) : SliceKept K s (s.rolledBack c) := by
  have hout : ∀ o t, SliceKept K t (State.outDropped t o) := fun o t => by
    cases o with
    | store h w sl a n v => exact .refl K t
    | arm i =>
      unfold State.outDropped State.wheelFree
      dsimp only
      split
      · exact .refl K t
      · exact (SliceKept.put t _ (hK _)).trans ⟨rfl, fun _ _ => rfl⟩
  unfold State.rolledBack
  dsimp only
  refine SliceKept.trans (.trans (.trans (.each _ (fun l _ t => ?_) s) (.each _ (fun o _ t => hout o t) _)) (.each _ (fun h _ t => ?_) _))
    (.each _ (fun i _ t => ?_) _)
  · unfold State.lineDropped
    refine .each _ (fun k _ u => ?_) t
    exact ⟨rfl, fun _ _ => rfl⟩
  · exact ⟨rfl, fun _ _ => rfl⟩
  · exact ⟨rfl, fun _ _ => rfl⟩

theorem rollbackCounted_kept (s : State) (c : Nat) (e : EpochSt) : SliceKept counterless s (s.rollbackCounted c e) :=
  SliceKept.trans (⟨rfl, fun _ _ => rfl⟩ : SliceKept counterless s (s.setEpoch c _)) (.each _ (fun h _ t => coreCount_counterless t h (by decide)) _)

theorem State.guard_coreCount (s : State) (h i : Nat) : (s.coreCount h i).guard = s.guard := by
  rw [(Counted.core h s i).rest]

/-- The output queue is empty after a rollback. -/
theorem State.outq_rollbackCounted (s : State) (c : Nat) (e : EpochSt) : ((s.rollbackCounted c e).epoch c).outq = [] := by
  have hg : (s.rollbackCounted c e).guard = (s.setEpoch c { e with lines := [], places := [], outq := [] }).guard :=
    State.each_same State.guard _ (fun h _ t => t.guard_coreCount h 66) _
  have he : ((s.setEpoch c { e with lines := [], places := [], outq := [] }).epoch c) = { e with lines := [], places := [], outq := [] } :=
    tabGet_tabSet_self ..
  rw [State.epoch, hg]
  exact congrArg EpochSt.outq he

theorem epoFlds_fit (c : Nat) : (EPO_STATUS_STATE c).fits ∧ (EPO_STATUS_RBRUN c).fits ∧ (EPO_RBCAUSE_CAUSE c).fits ∧ (EPO_RBCAUSE_HART c).fits := by
  simp [Fld.fits, EPO_STATUS_STATE, EPO_STATUS_RBRUN, EPO_RBCAUSE_CAUSE, EPO_RBCAUSE_HART]

theorem epoFlds_apart (c : Nat) : (EPO_STATUS_STATE c).apart (EPO_STATUS_RBRUN c) ∧ (EPO_RBCAUSE_CAUSE c).apart (EPO_RBCAUSE_HART c) := by
  simp [Fld.apart, EPO_STATUS_STATE, EPO_STATUS_RBRUN, EPO_RBCAUSE_CAUSE, EPO_RBCAUSE_HART]

/-- The registers that show a rollback of cluster `c` are all different. -/
theorem epoRegs_ne (c : Nat) : [EPO_STATUS c, EPO_CNT c, EPO_LASTRB c, EPO_RBCAUSE c, EPO_IRQ_STATUS c, EPO_OUTQ c, EPO_STORE c].Nodup := by
  simp [EPO_STATUS, EPO_CNT, EPO_LASTRB, EPO_RBCAUSE, EPO_IRQ_STATUS, EPO_OUTQ, EPO_STORE]

theorem State.rollbackShown_get (s : State) (c : Nat) {cause : Nat} (hart : Nat) (hc : cause < 4) :
    (s.rollbackShown c cause hart).get (EPO_STATUS_STATE c) = 2 ∧ (s.rollbackShown c cause hart).get (EPO_RBCAUSE_CAUSE c) = cause := by
  obtain ⟨hfs, hfr, hfc, hfh⟩ := epoFlds_fit c
  obtain ⟨hsr, hch⟩ := epoFlds_apart c
  have hne := epoRegs_ne c
  simp only [List.nodup_cons, List.mem_cons, not_or] at hne
  obtain ⟨⟨hs1, hs2, hs3, hs4, hs5, hs6, -⟩, -, -, ⟨hr1, hr2, hr3, -⟩, -⟩ := hne
  unfold State.rollbackShown State.inc
  dsimp only
  constructor
  · rw [State.get_put_ne _ _ hs6, State.get_put_ne _ _ hs5, State.get_put_ne _ _ hs4, State.get_put_ne _ _ hs3, State.get_put_ne _ _ hs3,
      State.get_put_ne _ _ hs2, State.get_put_ne _ _ hs1, State.get_put_apart _ _ hfr hsr]
    exact State.get_put_small _ hfs (by simp [EPO_STATUS_STATE])
  · rw [State.get_put_ne _ _ hr3, State.get_put_ne _ _ hr2, State.get_put_ne _ _ hr1, State.get_put_apart _ _ hfh hch]
    exact State.get_put_small _ hfc hc

theorem State.guard_rollbackShown (s : State) (c cause hart : Nat) : (s.rollbackShown c cause hart).guard = s.guard := by
  simp only [State.rollbackShown, State.guard_put, State.guard_inc]

theorem State.rd_rollbackShown_ne (s : State) {c r : Nat} (cause hart : Nat)
    (hr : r ∉ [EPO_STATUS c, EPO_CNT c, EPO_LASTRB c, EPO_RBCAUSE c, EPO_IRQ_STATUS c, EPO_OUTQ c, EPO_STORE c]) :
    (s.rollbackShown c cause hart).rd r = s.rd r := by
  simp only [List.mem_cons, not_or] at hr
  obtain ⟨h1, h2, h3, h4, h5, h6, h7, -⟩ := hr
  unfold State.rollbackShown State.inc
  dsimp only
  rw [State.rd_put_ne _ _ h7, State.rd_put_ne _ _ h6, State.rd_put_ne _ _ h5, State.rd_put_ne _ _ h4, State.rd_put_ne _ _ h4,
    State.rd_put_ne _ _ h3, State.rd_put_ne _ _ h2, State.rd_put_ne _ _ h1, State.rd_put_ne _ _ h1]

/-- What a rollback shows, and what it leaves of a lockstep pair. -/
theorem rollback_shows (s : State) (c : Nat) {cause : Nat} (hart p : Nat) (hc : cause < 4) (hc2 : c < 2) :
    (s.rollback c cause hart).get (EPO_STATUS_STATE c) = 2 ∧ (s.rollback c cause hart).get (EPO_RBCAUSE_CAUSE c) = cause ∧
      ((s.rollback c cause hart).epoch c).outq = [] ∧ (s.rollback c cause hart).rd (LKS_STATUS p) = s.rd (LKS_STATUS p) := by
  obtain ⟨hstate, hcause⟩ := ((s.rolledBack c).rollbackCounted c (s.epoch c)).rollbackShown_get c hart hc
  rw [State.rollback_eq]
  refine ⟨hstate, hcause, ?_, ?_⟩
  · rw [State.epoch, State.guard_rollbackShown]
    exact State.outq_rollbackCounted ..
  · rw [State.rd_rollbackShown_ne _ _ _ (by
      simp only [LKS_STATUS, EPO_STATUS, EPO_CNT, EPO_LASTRB, EPO_RBCAUSE, EPO_IRQ_STATUS, EPO_OUTQ, EPO_STORE, List.mem_cons, List.not_mem_nil,
        or_false, not_or]
      omega), (rollbackCounted_kept ..).reg _ (.inr (by unfold LKS_STATUS; omega))]
    refine (rolledBack_kept (K := (· = LKS_STATUS p)) (fun o => ?_) s c).reg _ rfl
    obtain ⟨w, sl⟩ := o
    cases sl
    · cases w <;> simp [wUsed, TWH_W_POOL_USED, TWH_W_POOL, worldNum, LKS_STATUS] <;> omega
    · simp only [wUsed, TWH_S_USED_USED, TWH_S_USED, LKS_STATUS]
      omega

end

/-! ### Divergence (R294, R461) -/

section
variable {p : Pair} {cause : LksCause} {addr : PAddr} {s : State}

theorem exec_lockstepDivergence (p : Pair) (cause : LksCause) (addr : PAddr) (s : State) : exec (.lockstepDivergence p cause addr) s =
    .next (if s.on (LKS_STATUS_FUSED p.val) && !s.on (LKS_STATUS_STOPPED p.val) && (s.hart (2 * p.val)).running
      then s.diverge p.val (lksKind cause) addr.toNat else s) := rfl

/-- The pair's registers show the divergence. -/
def State.lksShown (s : State) (k kind : Nat) : State :=
  (((s.put (LKS_STATUS_KIND k) kind).put (LKS_PC_PC k) (s.hart (2 * k)).pc).inc (LKS_CNT_COUNT k) 1).raise LKS_IRQ_STATUS_DIV (2 ^ k)

/-- A divergence recorded, shown and counted. -/
def State.diverged (s : State) (k kind addr : Nat) : State :=
  let s' := { s with guard := { s.guard with inject := tabSet (fun _ => false) s.guard.inject k false } }
  ((s'.sherd kLockstep .ok (srcId APC 9) (s.hartWorld (2 * k)) 0xFFFF (if kind == 3 || kind == 4 then addr else 0) 0xF
    (packBits [(0, 2, k), (2, 1, b2n (s.epochMode (clusterOf (2 * k)))), (8, 8, kind)])).lksShown k kind).coreCount (2 * k) 71

theorem State.diverge_eq (s : State) (k kind addr : Nat) : s.diverge k kind addr = if s.epochMode (clusterOf (2 * k)) then
    (s.diverged k kind addr).rollbackOn (clusterOf (2 * k)) 1 (2 * k)
    else ((s.diverged k kind addr).put (LKS_STATUS_STOPPED k) 1).breakLocks (fun o => o == 2 * k) := rfl

theorem lks_fits (k : Nat) : (LKS_STATUS_KIND k).fits ∧ (LKS_STATUS_STOPPED k).fits ∧ (LKS_CNT_COUNT k).fits := by
  simp [Fld.fits, LKS_STATUS_KIND, LKS_STATUS_STOPPED, LKS_CNT_COUNT]

theorem lks_apart (k : Nat) : (LKS_STATUS_KIND k).apart (LKS_STATUS_STOPPED k) := by
  simp [Fld.apart, LKS_STATUS_KIND, LKS_STATUS_STOPPED]

/-- The registers of the pairs are all different. -/
theorem lksRegs_ne {k : Nat} (hk : k < 4) : LKS_STATUS k ≠ LKS_PC k ∧ LKS_STATUS k ≠ LKS_CNT k ∧ LKS_STATUS k ≠ LKS_IRQ_STATUS ∧
    LKS_CNT k ≠ LKS_STATUS k ∧ LKS_CNT k ≠ LKS_PC k ∧ LKS_CNT k ≠ LKS_IRQ_STATUS := by
  simp only [LKS_STATUS, LKS_PC, LKS_CNT, LKS_IRQ_STATUS]
  omega

theorem lksKind_lt (cause : LksCause) : lksKind cause < 2 ^ 8 := by cases cause <;> decide

theorem State.lksShown_get (s : State) {k kind : Nat} (hk : k < 4) (hkind : kind < 2 ^ 8) :
    (s.lksShown k kind).get (LKS_STATUS_KIND k) = kind ∧
    (s.lksShown k kind).get (LKS_CNT_COUNT k) = (s.get (LKS_CNT_COUNT k) + 1) % 2 ^ (LKS_CNT_COUNT k).w := by
  obtain ⟨hfk, -, hfc⟩ := lks_fits k
  obtain ⟨hs1, hs2, hs3, hc1, hc2, hc3⟩ := lksRegs_ne hk
  unfold State.lksShown State.raise State.inc
  constructor
  · rw [State.get_put_ne _ _ hs3, State.get_put_ne _ _ hs2, State.get_put_ne _ _ hs1]
    exact State.get_put_small _ hfk hkind
  · rw [State.get_put_ne _ _ hc3, State.get_put_self _ _ hfc, State.get_put_ne _ _ hc2, State.get_put_ne _ _ hc1]

theorem State.rd_lksShown_ne (s : State) {k r : Nat} (kind : Nat) (hr : r ∉ [LKS_STATUS k, LKS_PC k, LKS_CNT k, LKS_IRQ_STATUS]) :
    (s.lksShown k kind).rd r = s.rd r := by
  simp only [List.mem_cons, not_or] at hr
  obtain ⟨h1, h2, h3, h4, -⟩ := hr
  unfold State.lksShown State.raise State.inc
  rw [State.rd_put_ne _ _ h4, State.rd_put_ne _ _ h3, State.rd_put_ne _ _ h2, State.rd_put_ne _ _ h1]

/-- What a divergence leaves before it stops or rolls back the pair. -/
theorem State.diverged_facts (s : State) {k kind : Nat} (addr : Nat) (hk : k < 4) (hkind : kind < 2 ^ 8) :
    (s.diverged k kind addr).get (LKS_STATUS_KIND k) = kind ∧
    (s.diverged k kind addr).get (LKS_CNT_COUNT k) = (s.get (LKS_CNT_COUNT k) + 1) % 2 ^ (LKS_CNT_COUNT k).w ∧
    (s.diverged k kind addr).mem.bytes = s.mem.bytes ∧
    ∀ r, 0x43080000 ≤ r → r < 0x43081000 → (s.diverged k kind addr).rd r = s.rd r := by
  have hcount (t : State) : SliceKept counterless t (t.coreCount (2 * k) 71) := coreCount_counterless t (2 * k) (by decide)
  have hpage : counterless (LKS_STATUS k) ∧ counterless (LKS_CNT k) := by
    simp only [counterless, LKS_STATUS, LKS_CNT]
    omega
  have hlogc : LKS_CNT k ∉ logRegs := (show ∀ k < 4, LKS_CNT k ∉ logRegs by decide) k hk
  have hlogged := LogOnly.sherd { s with guard := { s.guard with inject := tabSet (fun _ => false) s.guard.inject k false } } kLockstep .ok
    (srcId APC 9) (s.hartWorld (2 * k)) 0xFFFF (if kind == 3 || kind == 4 then addr else 0) 0xF
    (packBits [(0, 2, k), (2, 1, b2n (s.epochMode (clusterOf (2 * k)))), (8, 8, kind)])
  unfold State.diverged
  dsimp only
  revert hlogged
  generalize State.sherd _ _ _ _ _ _ _ _ _ = u
  intro hlogged
  obtain ⟨hgk, hgc⟩ := u.lksShown_get hk hkind
  refine ⟨((hcount _).get hpage.1).trans hgk, ((hcount _).get hpage.2).trans ?_, ?_, fun r hlo hhi => ?_⟩
  · rw [hgc, hlogged.get hlogc]
    rfl
  · rw [(Counted.core (2 * k) _ 71).entering.mem]
    exact hlogged.mem_bytes
  · have hlks : r ∉ [LKS_STATUS k, LKS_PC k, LKS_CNT k, LKS_IRQ_STATUS] := by
      simp only [List.mem_cons, List.not_mem_nil, or_false, not_or, LKS_STATUS, LKS_PC, LKS_CNT, LKS_IRQ_STATUS]
      omega
    have hlog : r ∉ logRegs := fun hm => by
      have hout : ∀ r ∈ logRegs, ¬ (0x43080000 ≤ r ∧ r < 0x43081000) := by decide
      exact hout r hm ⟨hlo, hhi⟩
    rw [(hcount _).reg r (.inr hlo), State.rd_lksShown_ne _ _ hlks, hlogged.rd hlog]
    rfl

theorem lockstepDivergence_diverges (hf : s.on (LKS_STATUS_FUSED p.val) = true) (hs : s.on (LKS_STATUS_STOPPED p.val) = false)
    (hr : (s.hart (2 * p.val)).running = true) {P : State → Prop} {t : State} (ht : s.diverge p.val (lksKind cause) addr.toNat = t) (hP : P t) :
    Completes (.lockstepDivergence p cause addr) s P :=
  .of ((exec_lockstepDivergence p cause addr s).trans (congrArg _ ((if_pos (by rw [hf, hs, hr]; rfl)).trans ht))) hP

theorem lockstepDivergence_stops (hf : s.on (LKS_STATUS_FUSED p.val) = true) (hs : s.on (LKS_STATUS_STOPPED p.val) = false)
    (hr : (s.hart (2 * p.val)).running = true) (he : s.epochMode (clusterOf (2 * p.val)) = false) :
    Completes (.lockstepDivergence p cause addr) s fun t => t.on (LKS_STATUS_STOPPED p.val) = true ∧
      t.get (LKS_STATUS_KIND p.val) = lksKind cause ∧
      t.get (LKS_CNT_COUNT p.val) = (s.get (LKS_CNT_COUNT p.val) + 1) % 2 ^ (LKS_CNT_COUNT p.val).w ∧
      t.mem.bytes = s.mem.bytes ∧ ∀ n < 64, t.get (EPO_LOCK_OWNER n) ≠ 2 * p.val := by
  obtain ⟨hkind, hcnt, hmem, -⟩ := s.diverged_facts addr.toNat p.isLt (lksKind_lt cause)
  obtain ⟨-, hfs, -⟩ := lks_fits p.val
  obtain ⟨-, -, -, hne, -⟩ := lksRegs_ne p.isLt
  have hlock : ∀ n < 64, LKS_STATUS p.val ≠ EPO_LOCK n ∧ LKS_CNT p.val ≠ EPO_LOCK n := fun n hn => by
    simp only [LKS_STATUS, LKS_CNT, EPO_LOCK]
    omega
  have hst := State.rd_breakLocks_ne ((s.diverged p.val (lksKind cause) addr.toNat).put (LKS_STATUS_STOPPED p.val) 1) (fun o => o == 2 * p.val)
    fun n hn => (hlock n hn).1
  have hct := State.rd_breakLocks_ne ((s.diverged p.val (lksKind cause) addr.toNat).put (LKS_STATUS_STOPPED p.val) 1) (fun o => o == 2 * p.val)
    fun n hn => (hlock n hn).2
  refine lockstepDivergence_diverges hf hs hr ((s.diverge_eq ..).trans (if_neg (by rw [he]; exact Bool.false_ne_true))) ⟨?_, ?_, ?_, ?_, ?_⟩
  · exact (State.on_of_rd (f := LKS_STATUS_STOPPED p.val) hst).trans (State.on_put_one _ hfs rfl)
  · exact (State.get_of_rd (f := LKS_STATUS_KIND p.val) hst).trans ((State.get_put_apart _ _ hfs (lks_apart _)).trans hkind)
  · exact (State.get_of_rd (f := LKS_CNT_COUNT p.val) hct).trans ((State.get_put_ne _ _ hne).trans hcnt)
  · rw [State.mem_breakLocks]
    exact hmem
  · exact fun n hn => State.breakLocks_owner _ (beq_self_eq_true _) (by have := p.isLt; omega) hn

theorem lockstepDivergence_rollsBack (hf : s.on (LKS_STATUS_FUSED p.val) = true) (hs : s.on (LKS_STATUS_STOPPED p.val) = false)
    (hr : (s.hart (2 * p.val)).running = true) (he : s.epochMode (clusterOf (2 * p.val)) = true)
    (h0 : s.get (EPO_STATUS_STATE (clusterOf (2 * p.val))) = 0) : Completes (.lockstepDivergence p cause addr) s fun t =>
      t.get (EPO_STATUS_STATE (clusterOf (2 * p.val))) = 2 ∧ t.get (EPO_RBCAUSE_CAUSE (clusterOf (2 * p.val))) = 1 ∧
      (t.epoch (clusterOf (2 * p.val))).outq = [] ∧ t.get (LKS_STATUS_KIND p.val) = lksKind cause := by
  have hc : clusterOf (2 * p.val) < 2 := by
    have := p.isLt
    unfold clusterOf
    omega
  obtain ⟨hkind, -, -, hrd⟩ := s.diverged_facts addr.toNat p.isLt (lksKind_lt cause)
  have he' : (s.diverged p.val (lksKind cause) addr.toNat).epochMode (clusterOf (2 * p.val)) = true :=
    (State.on_of_rd (f := EPO_CFG_EPOCH _) (hrd (EPO_CFG _) (by unfold EPO_CFG; omega) (by unfold EPO_CFG; omega))).trans he
  have h0' : (s.diverged p.val (lksKind cause) addr.toNat).get (EPO_STATUS_STATE (clusterOf (2 * p.val))) = 0 :=
    (State.get_of_rd (f := EPO_STATUS_STATE _) (hrd (EPO_STATUS _) (by unfold EPO_STATUS; omega) (by unfold EPO_STATUS; omega))).trans h0
  obtain ⟨hstate, hcause, houtq, hlks⟩ := rollback_shows (s.diverged p.val (lksKind cause) addr.toNat) (clusterOf (2 * p.val)) (cause := 1)
    (2 * p.val) p.val (by decide) hc
  refine lockstepDivergence_diverges hf hs hr ((s.diverge_eq ..).trans ((if_pos he).trans (if_pos (by rw [he', h0']; rfl))))
    ⟨hstate, hcause, houtq, (State.get_of_rd (f := LKS_STATUS_KIND p.val) hlks).trans hkind⟩

theorem lockstepDivergence_notFused (hf : s.on (LKS_STATUS_FUSED p.val) = false) : Completes (.lockstepDivergence p cause addr) s fun t => t = s :=
  .of (exec_lockstepDivergence p cause addr s) (if_neg (by rw [hf]; exact Bool.false_ne_true))

end

/-! ### RESTART and INJECT (R447, R461) -/

section
variable {a : Agent} {p : Pair} {s : State}

theorem exec_lockstepRestart (a : Agent) (p : Pair) (s : State) :
    exec (.lockstepRestart a p) s = .next (s.regAccess a true (LKS_CTL p.val) 4 fun t => t.lksRestart p.val) := rfl

theorem exec_lockstepInject (a : Agent) (p : Pair) (s : State) :
    exec (.lockstepInject a p) s = .next (s.regAccess a true (LKS_CTL p.val) 4 fun t => t.lksInject a p.val) := rfl

theorem lockstepRestart_reached (hr : s.Reached a true (LKS_CTL p.val) 4) {P : State → Prop} {t : State} (ht : s.lksRestart p.val = t)
    (hP : P (t.ended a)) : Completes (.lockstepRestart a p) s P :=
  .of ((exec_lockstepRestart a p s).trans (congrArg _ ((State.regAccess_reached _ hr).trans (by rw [ht])))) hP

theorem lockstepRestart_starts (hr : s.Reached a true (LKS_CTL p.val) 4) (hs : s.on (LKS_STATUS_STOPPED p.val) = true) :
    Completes (.lockstepRestart a p) s fun t => t.on (LKS_STATUS_STOPPED p.val) = false ∧ (t.hart (2 * p.val)).running = true ∧
      (t.hart (2 * p.val)).priv = .m ∧ (t.hart (2 * p.val)).world = .secure ∧ (t.hart (2 * p.val)).pos = 0 := by
  have hdap : LKS_STATUS p.val ≠ DAP_STATUS := by
    have := p.isLt
    simp only [LKS_STATUS, DAP_STATUS]
    omega
  obtain ⟨-, hfs, -⟩ := lks_fits p.val
  refine lockstepRestart_reached hr (if_pos hs) ⟨?_, ?_⟩
  · rw [State.on_ended _ _ hdap, State.on_put_zero _ hfs rfl]
  · rw [State.hart_ended, State.hart_put, State.coreStart, State.hart_put, State.hart_setHart_self]
    exact ⟨rfl, rfl, rfl, rfl⟩

theorem lockstepRestart_notStopped (hr : s.Reached a true (LKS_CTL p.val) 4) (hs : s.on (LKS_STATUS_STOPPED p.val) = false) :
    Completes (.lockstepRestart a p) s fun t => t = s.ended a :=
  lockstepRestart_reached hr (if_neg (by rw [hs]; exact Bool.false_ne_true)) rfl

theorem lockstepInject_reached (hr : s.Reached a true (LKS_CTL p.val) 4) {P : State → Prop} {t : State} (ht : s.lksInject a p.val = t)
    (hP : P (t.ended a)) : Completes (.lockstepInject a p) s P :=
  .of ((exec_lockstepInject a p s).trans (congrArg _ ((State.regAccess_reached _ hr).trans (by rw [ht])))) hP

theorem lockstepInject_waits (hr : s.Reached a true (LKS_CTL p.val) 4) (hw : s.agentWorld a = .secure)
    (hf : s.on (LKS_STATUS_FUSED p.val) = true) (hd : isDap a = false) : Completes (.lockstepInject a p) s fun t =>
      t = { s with guard := { s.guard with inject := tabSet (fun _ => false) s.guard.inject p.val true } } :=
  lockstepInject_reached hr (if_pos (by rw [hw, hf]; rfl)) (by rw [State.ended, hd, if_neg Bool.false_ne_true])

theorem lockstepInject_normal (hr : s.Reached a true (LKS_CTL p.val) 4) (hw : s.agentWorld a = .normal) :
    Completes (.lockstepInject a p) s fun t => t = s.ended a :=
  lockstepInject_reached hr (if_neg (by rw [hw]; simp)) rfl

end

/-- Settles O39, by the command and the mode of the cluster. -/
theorem lockstepDivergesAndRestarts : Obligations.LockstepDivergesAndRestarts := by
  intro a p cause addr s
  exact ⟨fun hf hs hr => ⟨lockstepDivergence_stops hf hs hr, lockstepDivergence_rollsBack hf hs hr⟩, lockstepDivergence_notFused,
    fun hr => ⟨lockstepRestart_starts hr, lockstepRestart_notStopped hr, lockstepInject_waits hr, lockstepInject_normal hr⟩⟩

end Sys2Proof.Machine
end

section
/-! Accesses of the harts to memory: what counting leaves of the caches and the memory map, what stands before a trap, and how an access
reaches its part (R31, R274, R301, R305, R326, R347, R376). -/

namespace Sys2Proof.Machine

open Sys2Proof

/-! ### Counting leaves everything but the counters -/

/-- From `s` to `t` events of hart `h` were counted; no register outside the counter pages has changed. -/
structure Tallied (h : Nat) (s t : State) : Prop extends Counted h s t where
  kept : ∀ k, counterless k → t.rd k = s.rd k

section
variable {h : Nat} {s t u : State}

theorem Tallied.refl (h : Nat) (s : State) : Tallied h s s := ⟨.refl h s, fun _ _ => rfl⟩

theorem Tallied.trans (p : Tallied h s t) (q : Tallied h t u) : Tallied h s u :=
  ⟨p.toCounted.trans q.toCounted, fun k hk => (q.kept k hk).trans (p.kept k hk)⟩

theorem Tallied.core (h : Nat) (s : State) {i : Nat} (hi : i < 96) : Tallied h s (s.coreCount h i) :=
  ⟨.core h s i, (coreCount_counterless s h hi).reg⟩

theorem Tallied.when (s : State) (c : Bool) {f : State → State} (hf : Tallied h s (f s)) : Tallied h s (s.when c f) := by
  cases c
  · exact .refl h s
  · exact hf

theorem Tallied.mem (p : Tallied h s t) : t.mem = s.mem := by rw [p.rest]

theorem Tallied.l2 (p : Tallied h s t) (c line : Nat) : t.l2 c line = s.l2 c line := by
  rw [State.l2, p.rest, State.l2]

theorem Tallied.dirAt (p : Tallied h s t) (line : Nat) : t.dirAt line = s.dirAt line := by
  rw [State.dirAt, p.rest, State.dirAt]

theorem Tallied.bytesAt (p : Tallied h s t) (a n : Nat) : t.bytesAt a n = s.bytesAt a n :=
  State.bytesAt_congr (by rw [p.mem]) a n

theorem Tallied.sramPoisoned (p : Tallied h s t) (line : Nat) : t.sramPoisoned line = s.sramPoisoned line := by
  rw [State.sramPoisoned, p.mem, State.sramPoisoned]

theorem Tallied.region (p : Tallied h s t) (a : Nat) : t.region a = s.region a := by
  have hway : t.rd SLC_WAYMAP = s.rd SLC_WAYMAP := p.kept _ (.inr (by decide))
  have hid : t.get CSC_STATUS_MYID = s.get CSC_STATUS_MYID := State.get_of_rd (p.kept _ (.inr (by decide)))
  unfold State.region State.scratchWay
  rw [hway, hid]

theorem Tallied.isDevice (p : Tallied h s t) (q : Piece) : t.isDevice q = s.isDevice q := by
  rw [State.isDevice, p.region, State.isDevice]

theorem Tallied.ownLocal (p : Tallied h s t) (k a : Nat) : t.ownLocal k a = s.ownLocal k a := by
  rw [State.ownLocal, p.region, State.ownLocal]

theorem Tallied.epochMode (p : Tallied h s t) {c : Nat} (hc : c < 2) : t.epochMode c = s.epochMode c :=
  State.on_of_rd (p.kept _ (.inr (by simp only [EPO_CFG_EPOCH, EPO_CFG]; omega)))

theorem Tallied.sb (p : Tallied h s t) : t.sb h = s.sb h := p.toCounted.sb

theorem Tallied.executing {rs : List Nat} (p : Tallied h s t) : Executing h rs s t := p.toCounted.executing

theorem Tallied.world (p : Tallied h s t) : (t.hart h).world = (s.hart h).world := by rw [p.hart]

theorem Tallied.hartSag (p : Tallied h s t) : t.hartSag h = s.hartSag h := by
  have hc : t.csr h csrEzsag = s.csr h csrEzsag := p.csr _ (by simp [hpmCsr, csrEzsag])
  unfold State.hartSag State.inSaggar
  rw [hc]

end

/-! ### What stands before a trap (R297, R298) -/

/-- From `s` to `t` hart `h` stands where it stood, and a trap would find all it saves and reads as it was. -/
structure Standing (h : Nat) (s t : State) : Prop where
  pc : (t.hart h).pc = (s.hart h).pc
  pos : (t.hart h).pos = (s.hart h).pos
  priv : (t.hart h).priv = (s.hart h).priv
  world : (t.hart h).world = (s.hart h).world
  csr : ∀ a, ¬ hpmCsr a → t.csr h a = s.csr h a
  entry : ∀ k < 64, t.get (SAG_DESC_ENTRY_ENTRY k) = s.get (SAG_DESC_ENTRY_ENTRY k)
  dbgm : t.dbgm = s.dbgm

section
variable {h : Nat} {s t u : State} {irq : Bool} {code tval : Nat}

theorem Standing.refl (h : Nat) (s : State) : Standing h s s := ⟨rfl, rfl, rfl, rfl, fun _ _ => rfl, fun _ _ => rfl, rfl⟩

theorem Standing.trans (p : Standing h s t) (q : Standing h t u) : Standing h s u where
  pc := q.pc.trans p.pc
  pos := q.pos.trans p.pos
  priv := q.priv.trans p.priv
  world := q.world.trans p.world
  csr a ha := (q.csr a ha).trans (p.csr a ha)
  entry k hk := (q.entry k hk).trans (p.entry k hk)
  dbgm := q.dbgm.trans p.dbgm

/-- A hart changes in what no trap reads. -/
theorem Standing.updHart (s : State) (h : Nat) {f : HartSt → HartSt} (hf : sameRun (s.hart h) (f (s.hart h))) : Standing h s (s.updHart h f) := by
  obtain ⟨hpc, hpos, hpriv, hworld, -, hcsr⟩ := hf
  refine ⟨?_, ?_, ?_, ?_, fun a _ => State.csr_congr (by rw [State.hart_updHart_self, hcsr]) a, fun _ _ => rfl, rfl⟩ <;>
    rw [State.hart_updHart_self] <;> assumption

theorem sagEntry_lt {k : Nat} (hk : k < 64) : (SAG_DESC_ENTRY_ENTRY k).reg < 0x41032000 := by
  simp only [SAG_DESC_ENTRY_ENTRY, SAG_DESC_ENTRY]
  omega

theorem LogOnly.standing (l : LogOnly s t) : Standing h s t := by
  have hh : t.hart h = s.hart h := by rw [State.hart, State.hart, l.cpu]
  refine ⟨by rw [hh], by rw [hh], by rw [hh], by rw [hh], fun a _ => State.csr_congr (by rw [hh]) a, fun k hk => l.get ?_, by rw [l.rest]⟩
  have hout : ∀ r ∈ logRegs, 0x41032000 ≤ r := by decide
  exact fun hm => absurd (hout _ hm) (Nat.not_le.mpr (sagEntry_lt hk))

theorem Tallied.standing (p : Tallied h s t) : Standing h s t :=
  ⟨by rw [p.hart], by rw [p.hart], by rw [p.hart], by rw [p.hart], p.csr,
    fun k hk => State.get_of_rd (p.kept _ (.inl (by have := sagEntry_lt hk; omega))), by rw [p.rest]⟩

theorem Standing.quiet (p : Standing h s t) (q : s.Quiet h) : t.Quiet h :=
  q.congr p.dbgm fun a ha => p.csr a fun hc => not_trapCsr_debug ha (.inl (.inl hc))

/-- A trap is the same whatever was counted or recorded before it. -/
theorem Standing.took (p : Standing h s u) (ht : u.Took t h irq code tval) : s.Took t h irq code tval := by
  have hc : ∀ a ∈ [0x302, 0x303, 0x602, 0x603, 0x105, 0x205, 0x305, csrEzsag, csrMstatus, csrVsstatus], u.csr h a = s.csr h a := fun a ha =>
    p.csr a (by
      revert a
      simp [hpmCsr, csrEzsag, csrMstatus, csrVsstatus])
  simp only [List.forall_mem_cons] at hc
  obtain ⟨c1, c2, c3, c4, c5, c6, c7, c8, c9, c10, -⟩ := hc
  have tg : u.trapTarget h irq code = s.trapTarget h irq code := by
    cases irq <;> simp only [State.trapTarget, p.priv, c1, c2, c3, c4, if_true, if_false, Bool.false_eq_true]
  have sg : u.inSaggar h = s.inSaggar h := by rw [State.inSaggar, c8, State.inSaggar]
  have hk : u.get (SAG_DESC_ENTRY_ENTRY (bitsOf (s.csr h csrEzsag) 0 6)) = s.get (SAG_DESC_ENTRY_ENTRY (bitsOf (s.csr h csrEzsag) 0 6)) :=
    p.entry _ (bitsOf_lt _ _ _)
  simpa only [State.Took, State.Saved, tg, sg, hk, p.pc, p.pos, p.priv, p.world, c5, c6, c7, c8, c9, c10] using ht

/-- An instruction that ends in an exception after counting and recording. -/
theorem State.Ready.completes_trap (r : s.Ready h) {c : Instr} {f : State → State} (hc : exec c s = .next (s.instr h f))
    (hf : f s = u.exception h code tval) (p : Standing h s u) : Completes c s fun t => s.Took t h false code tval :=
  r.completes hc hf ((p.quiet r.toQuiet).trap ..) (p.took (u.trap_took ..))

end

/-! ### What a trap leaves of a hart's buffers -/

/-- The buffers of a hart: its store buffer, the device store it waits for, the write buffer and the load in the fabric. -/
def HartSt.buffers (k : HartSt) : List SbEntry × Option DevStore × List DevStore × Option FabLoad := (k.sb, k.dev, k.wbuf, k.fabric)

/-- From `s` to `t` the buffers of hart `h` are as they were. -/
structure Buffered (h : Nat) (s t : State) : Prop where
  same : (t.hart h).buffers = (s.hart h).buffers

section
variable {h : Nat} {s t u : State}

theorem Buffered.refl (h : Nat) (s : State) : Buffered h s s := ⟨rfl⟩

theorem Buffered.trans (p : Buffered h s t) (q : Buffered h t u) : Buffered h s u := ⟨q.same.trans p.same⟩

theorem Buffered.updHart (s : State) (h : Nat) {f : HartSt → HartSt} (hf : ∀ k, (f k).buffers = k.buffers := by exact fun _ => rfl) :
    Buffered h s (s.updHart h f) := ⟨by rw [State.hart_updHart_self, hf]⟩

theorem Buffered.when (s : State) (c : Bool) {f : State → State} (hf : Buffered h s (f s)) : Buffered h s (s.when c f) := by
  cases c
  · exact .refl h s
  · exact hf

theorem Counted.buffered (c : Counted h s t) : Buffered h s t := ⟨by rw [c.hart]; rfl⟩

theorem Buffered.setCsr (s : State) (h a v : Nat) : Buffered h s (s.setCsr h a v) := .updHart s h

theorem Buffered.saggarLeave (s : State) (h : Nat) : Buffered h s (s.saggarLeave h) := by
  have hclear : ∀ (l : List Nat) (t : State), Buffered h t (t.each l fun a u => u.setCsr h a 0) := fun l t =>
    State.each_keeps (P := Buffered h t) l (.refl h t) fun a _ u hu => hu.trans (.setCsr u h a 0)
  unfold State.saggarLeave State.saggarClear
  dsimp only
  refine Buffered.trans (.trans (.setCsr s h _ _) (.when _ _ (.updHart _ h))) (.when _ _ ?_)
  exact Buffered.trans (.updHart _ h) (hclear _ _)

theorem Buffered.trapEntered (s : State) (h : Nat) (irq : Bool) (tgt : Priv) : Buffered h s (s.trapEntered h irq tgt) := by
  have hleave : Buffered h s (if s.inSaggar h then (s.saggarLeave h).coreCount h 59 else s) := by
    split
    · exact (Buffered.saggarLeave s h).trans (Counted.core h _ 59).buffered
    · exact .refl h s
  unfold State.trapEntered
  dsimp only
  refine Buffered.trans ?_ (.updHart _ h)
  refine Buffered.trans ?_ (.when _ _ (Counted.core h _ 63).buffered)
  exact Buffered.trans (.trans hleave (.updHart _ h)) (Counted.core h _ _).buffered

theorem Buffered.trapWrites (s : State) (h epc st pc cause tval m : Nat) : Buffered h s (s.trapWrites h epc st pc cause tval m) :=
  Buffered.trans (.trans (.trans (.setCsr ..) (.setCsr ..)) (.setCsr ..)) (.setCsr ..)

/-- A trap leaves what the hart has in its buffers. -/
theorem Buffered.trap (s : State) (h : Nat) (irq : Bool) (code tval : Nat) : Buffered h s (s.trap h irq code tval) := by
  rcases s.trapTarget_cases h irq code with ht | ht | ht
  · rw [State.trap_m _ _ _ _ _ ht]
    exact Buffered.trans (.trans (.trapEntered ..) (.trapWrites ..)) (.updHart _ h)
  · rw [State.trap_s _ _ _ _ _ ht]
    exact Buffered.trans (.trans (.trans (.trapEntered ..) (.trapWrites ..)) (.setCsr ..)) (.updHart _ h)
  · rw [State.trap_vs _ _ _ _ _ ht]
    exact Buffered.trans (.trans (.trapEntered ..) (.trapWrites ..)) (.updHart _ h)

end

/-! ### An access on a hart around which no trigger stands -/

/-- An access at `va`, which the triggers of its kind see first. -/
def State.accessed (h : Nat) (k : AccKind) (va : Nat) (f : State → State) (s : State) : State :=
  match s.trigAccess h k va with
  | (u, true) => u
  | (u, false) => f u

theorem State.memInstr_eq (s : State) (h : Nat) (k : AccKind) (va : Nat) (f : State → State) :
    s.memInstr h k va f = s.instr h (State.accessed h k va f) := rfl

theorem State.Quiet.accessed {s : State} {h : Nat} (q : s.Quiet h) (k : AccKind) (va : Nat) (f : State → State) :
    State.accessed h k va f s = f s := by
  unfold State.accessed
  rw [q.trigAccess]

/-! ### The part of an access -/

section
variable {s u : State} {h va n : Nat} {k : AccKind} {p : Piece} {f : List Piece → State → State}

theorem State.withPieces_error {c tv : Nat} (hp : s.piecesOf h k va n = (s, .error (c, tv))) : s.withPieces h k va n f = s.exception h c tv := by
  unfold State.withPieces
  rw [hp]

/-- The one part of an access before its physical check: a device region takes it aligned, a fetch reaches memory it can execute. -/
theorem State.withPieces_part (hp : s.piecesOf h k va n = (s, .ok [p])) (hd : s.isDevice p = true → va % n = 0)
    (hx : k = .exec → s.execRegion h p.pa = true ∧ p.pbmt ≠ 2) : s.withPieces h k va n f =
      match s.piecesCheck h (s.hartSag h) k [p] with
      | (s, some tv) => s.exception h (excAccess k) tv
      | (s, none) => f [p] s := by
  have hdev : ([p].any (fun p => s.isDevice p) && (va % n != 0 || decide (1 < [p].length))) = false := by
    cases hpd : s.isDevice p
    · simp [hpd]
    · simp [hd hpd]
  have hexe : (k == .exec && !([p].all fun p => s.execRegion h p.pa && p.pbmt != 2)) = false := by
    by_cases hk : k = .exec
    · obtain ⟨hreg, hpb⟩ := hx hk
      simp [hreg, hpb]
    · simp [hk]
  unfold State.withPieces
  rw [hp]
  dsimp only
  rw [hdev, hexe]
  rfl

theorem State.withPieces_goes (hp : s.piecesOf h k va n = (s, .ok [p])) (hc : s.piecesCheck h (s.hartSag h) k [p] = (s, none))
    (hd : s.isDevice p = true → va % n = 0) (hx : k = .exec → s.execRegion h p.pa = true ∧ p.pbmt ≠ 2) :
    s.withPieces h k va n f = f [p] s := by
  rw [State.withPieces_part hp hd hx, hc]

theorem State.withPieces_refused {tv : Nat} (hp : s.piecesOf h k va n = (s, .ok [p]))
    (hc : s.piecesCheck h (s.hartSag h) k [p] = (u, some tv)) (hd : s.isDevice p = false) (hk : k ≠ .exec) :
    s.withPieces h k va n f = u.exception h (excAccess k) tv := by
  rw [State.withPieces_part hp (fun h => absurd h (by rw [hd]; exact Bool.false_ne_true)) (fun h => absurd h hk), hc]

theorem LogOnly.physRefuse (s : State) (q : MemReq) (isHart : Bool) (v : PhysVerdict) (a : Nat) : LogOnly s (s.physRefuse q isHart v a) := by
  unfold State.physRefuse
  dsimp only
  split
  · exact .refl s
  · exact .sherd ..
  · exact .sherd ..
  split
  · exact .sherd ..
  split
  · exact .refl s
  · exact .sherd ..

/-- A refusal of the physical check is recorded. -/
theorem State.piecesCheck_refused {sid : Option Nat} {tv : Nat} (hc : s.piecesCheck h sid k [p] = (u, some tv)) : LogOnly s u := by
  simp only [State.piecesCheck] at hc
  split at hc
  · cases hc
  · obtain ⟨rfl, -⟩ := Prod.mk.inj hc
    exact .physRefuse ..

end

/-! ### A line that the core's L2 holds (R325, R326, R376, R378) -/

section
variable {s : State} {c line : Nat} {v : L2Line}

theorem State.cohFinish_still (ht : (s.dirAt line).txn = none) : s.cohFinish line = s := by
  unfold State.cohFinish
  rw [ht]

/-- A line that the L2 holds as it is wanted needs no request. -/
theorem State.l2Acquire_hit {unique : Bool} (ht : (s.dirAt line).txn = none) (hv : s.l2 c line = some v)
    (hu : unique = true → v.st ≠ .s) : s.l2Acquire c line unique = s := by
  unfold State.l2Acquire
  rw [State.cohFinish_still ht]
  dsimp only
  rw [hv]
  dsimp only
  rw [if_neg]
  intro hn
  obtain ⟨h1, h2⟩ := Bool.and_eq_true_iff.mp hn
  exact hu h1 (beq_iff_eq.mp h2)

/-- A read that hits counts the access, and answers what the line holds. -/
theorem State.coreRead_hit {a : Nat} (n : Nat) (ht : (s.dirAt (a / 64)).txn = none) (hv : s.l2 c (a / 64) = some v) :
    s.coreRead c a n = (s.coreCount c 32, bitsOf v.data (8 * (a % 64)) (8 * n), v.poison) := by
  have hc := Tallied.core c s (i := 32) (by decide)
  have ht' : ((s.coreCount c 32).dirAt (a / 64)).txn = none := by rw [hc.dirAt, ht]
  have hv' : (s.coreCount c 32).l2 c (a / 64) = some v := by rw [hc.l2, hv]
  unfold State.coreRead
  simp only [hv, Option.isSome_some, Bool.not_true, State.when, Bool.false_eq_true, if_false,
    State.l2Acquire_hit ht' hv' Bool.false_ne_true.elim, hv']

/-- A write that hits, outside epoch mode: the line holds the bytes, modified. -/
theorem State.coreWrite_hit (mask data : Nat) (hc2 : c < 8) (he : s.epochMode (clusterOf c) = false) (ht : (s.dirAt line).txn = none)
    (hv : s.l2 c line = some v) (hs : v.st ≠ .s) : s.coreWrite c line mask data = (s.coreCount c 32).setL2 c line
      (some { v with st := .m, data := mergeBytes 64 mask data v.data, poison := v.poison && mask != fullMask }) := by
  have hc := Tallied.core c s (i := 32) (by decide)
  have ht' : ((s.coreCount c 32).dirAt line).txn = none := by rw [hc.dirAt, ht]
  have hv' : (s.coreCount c 32).l2 c line = some v := by rw [hc.l2, hv]
  have he' : (s.coreCount c 32).epochMode (clusterOf c) = false := by
    rw [hc.epochMode (by unfold clusterOf; omega), he]
  have htake : (s.coreCount c 32).epochTake c line = s.coreCount c 32 := by
    unfold State.epochTake
    dsimp only
    rw [he', Bool.false_and, if_neg Bool.false_ne_true]
  unfold State.coreWrite
  simp only [hv, Option.isNone_some, State.when, Bool.false_eq_true, if_false, State.l2Acquire_hit ht' hv' fun _ => hs, htake, hv']

theorem State.l2_setL2_self (s : State) (c line : Nat) (v : Option L2Line) : (s.setL2 c line v).l2 c line = v := tabGet_tabSet_self ..

end

end Sys2Proof.Machine
end

section
/-! Loads and fetches of the harts, and the responses that a timekeeper's loads take from the fabric (R274, R283, R288, R289, R303, R352, R357,
R364, R376). -/

namespace Sys2Proof.Machine

open Sys2Proof

/-! ### Reads of a register window with their side effects (R557) -/

/-- A read of a window changes neither a hart nor the debug module. -/
structure ReadOnly (s t : State) : Prop where
  cpu : t.cpu = s.cpu
  dbgm : t.dbgm = s.dbgm

section
variable {s t u : State}

theorem ReadOnly.refl (s : State) : ReadOnly s s := ⟨rfl, rfl⟩

theorem ReadOnly.trans (p : ReadOnly s t) (q : ReadOnly t u) : ReadOnly s u := ⟨q.cpu.trans p.cpu, q.dbgm.trans p.dbgm⟩

theorem ReadOnly.executing {h : Nat} {rs : List Nat} (p : ReadOnly s t) : Executing h rs s t := .aside (by rw [p.cpu]) p.dbgm

theorem ReadOnly.licClaim (s : State) (n : Nat) : ReadOnly s (s.licClaim n).1 := by
  unfold State.licClaim
  dsimp only
  split <;> exact ⟨rfl, rfl⟩

theorem ReadOnly.capPop (s : State) (n : Nat) : ReadOnly s (s.capPop n).1 := by
  unfold State.capPop
  split <;> exact ⟨rfl, rfl⟩

theorem ReadOnly.missPop (s : State) : ReadOnly s s.missPop.1 := by
  unfold State.missPop
  split <;> exact ⟨rfl, rfl⟩

theorem ReadOnly.flashData (s : State) : ReadOnly s s.flashData.1 := by
  unfold State.flashData
  exact ⟨rfl, rfl⟩

theorem ReadOnly.inspRead (s : State) : ReadOnly s s.inspRead.1 := by
  unfold State.inspRead
  exact ⟨rfl, rfl⟩

theorem ReadOnly.sherdHead (s : State) : ReadOnly s s.sherdHead.1 := by
  unfold State.sherdHead
  exact ⟨rfl, rfl⟩

theorem ReadOnly.sttSnap (s : State) : ReadOnly s s.sttSnap.1 := by
  have hput : ∀ (l : List Nat) (e : Nat), ReadOnly s (s.each l fun i t => t.put (STT_RD_WORD i) (bitsOf e (64 * i) 64)) := fun l e =>
    State.each_keeps (P := ReadOnly s) l (.refl s) fun _ _ _ ht => ht.trans ⟨rfl, rfl⟩
  exact hput _ _

theorem ReadOnly.readAt {a : Nat} {f : State → State × Nat} (hf : readAt a = some f) (s : State) : ReadOnly s (f s).1 := by
  have hops : ∀ o ∈ readOps, ∀ n t, ReadOnly t (o.act n t).1 := by
    simp only [readOps, List.forall_mem_cons, List.not_mem_nil, false_implies, implies_true, and_true]
    exact ⟨fun _ t => .flashData t, fun _ t => .licClaim t 4, fun n t => .capPop t n, fun _ t => .inspRead t, fun n t => .licClaim t n,
      fun _ t => .sherdHead t, fun _ t => .sttSnap t, fun _ t => .missPop t⟩
  obtain ⟨o, ho, hn⟩ := List.exists_of_findSome?_eq_some hf
  obtain ⟨n, -, rfl⟩ := Option.map_eq_some_iff.mp hn
  exact hops o ho n s

theorem ReadOnly.readEffect (s : State) (reg : Nat) (half : Half) {f : State → State × Nat} (hf : ReadOnly s (f s).1) :
    ReadOnly s (s.readEffect reg half f).1 := by
  cases half with
  | full => exact hf
  | low => exact ⟨hf.cpu, hf.dbgm⟩
  | high => exact .refl s

theorem ReadOnly.regRead (s : State) (reg : Nat) (half : Half) : ReadOnly s (s.regRead false reg half).1 := by
  unfold State.regRead
  dsimp only
  split
  case h_1 f hf => exact .readEffect s _ half (.readAt hf s)
  case h_2 => exact .refl s

theorem ReadOnly.regRead4 (s : State) (addr : Nat) : ReadOnly s (s.regRead4 false addr).1 := by
  unfold State.regRead4
  split
  case h_1 r hr => split <;> exact .regRead ..
  case h_2 => exact .regRead ..

theorem ReadOnly.regLoad (s : State) (addr n : Nat) : ReadOnly s (s.regLoad false addr n).1 := by
  have htwo : ReadOnly s ((s.regRead4 false addr).1.regRead4 false (addr + 4)).1 := (ReadOnly.regRead4 ..).trans (.regRead4 ..)
  unfold State.regLoad
  dsimp only
  split
  · exact .regRead4 ..
  split
  case h_1 r hr =>
    split
    · exact .regRead ..
    · exact htwo
  case h_2 => exact htwo

theorem ReadOnly.winRead (s : State) (sl : Option Nat) (addr n : Nat) : ReadOnly s (s.winRead sl false addr n).1 := by
  unfold State.winRead
  dsimp only
  split
  · exact .refl s
  split
  · exact .refl s
  split
  · exact .refl s
  split
  · exact .refl s
  · exact .regLoad ..

end

/-! ### The load itself, before its part -/

/-- The address that hart `h` accesses at `va`. -/
abbrev hartAddr (h : Hart) (va : Word) : Nat := va.toNat % 2 ^ hartXlen h.val

/-- An access has one part, which translation and the physical check let through. -/
structure State.Reaches (s : State) (h : Nat) (k : AccKind) (a n : Nat) (p : Piece) : Prop where
  parts : s.piecesOf h k a n = (s, .ok [p])
  passed : s.piecesCheck h (s.hartSag h) k [p] = (s, none)

/-- From `s` to `t` hart `h` has executed a load that reads `v`. -/
def State.Loaded (s t : State) (h rd n : Nat) (sg : Bool) (v : Nat) : Prop :=
  s.Went t h ((s.hart h).pc + 4) [rd] ∧ (rd ≠ 0 → t.xreg h rd = loadExt h n sg v % 2 ^ hartXlen h) ∧ t.mem = s.mem

section
variable {h : Hart} {s t : State} {va : Word} {size : AccSize} {rd : RegIdx} {sg : Bool} {kind : LoadKind}

theorem exec_load (hk : kind ≠ .fetch) (s : State) : exec (.load h va size rd sg kind .none) s =
    .next (s.instr h.val (State.accessed h.val .read (hartAddr h va)
      fun t => t.load h.val (hartAddr h va) size.bytes rd.val sg kind .none)) := by
  cases kind with
  | fetch => exact absurd rfl hk
  | int => rfl
  | float => rfl

theorem exec_fetch (s : State) : exec (.load h va size rd sg .fetch .none) s =
    .next (s.instr h.val fun t => t.load h.val (hartAddr h va) size.bytes rd.val sg .fetch .none) := rfl

theorem load_completes (r : s.Ready h.val) (hk : kind ≠ .fetch)
    (hf : s.load h.val (hartAddr h va) size.bytes rd.val sg kind .none = t) (q : t.Quiet h.val) {P : State → Prop} (hP : P t) :
    Completes (.load h va size rd sg kind .none) s P :=
  r.completes (exec_load hk s) ((r.toQuiet.accessed ..).trans hf) q hP

/-- A load that ends in an exception takes it, whatever was counted or recorded before. -/
theorem load_traps (r : s.Ready h.val) (hk : kind ≠ .fetch) {u : State} {code tval : Nat}
    (hf : s.load h.val (hartAddr h va) size.bytes rd.val sg kind .none = u.exception h.val code tval) (p : Standing h.val s u) :
    Completes (.load h va size rd sg kind .none) s fun t => s.Took t h.val false code tval :=
  r.completes_trap (exec_load hk s) ((r.toQuiet.accessed ..).trans hf) p

end

section
variable {s : State} {h a n rd : Nat} {sg : Bool} {kind : LoadKind} {err : SramErr}

theorem State.load_absent (h8 : 8 ≤ h) (hn : n = 8) : s.load h a n rd sg .int err = s.illegal h := by
  unfold State.load
  rw [if_neg (by simp), if_pos (by simp [h8, hn])]

theorem State.load_misaligned (h8 : 8 ≤ h) (hn : n ≠ 8) (ha : a % n ≠ 0) : s.load h a n rd sg .int err = s.exception h excLoadMisaligned a := by
  unfold State.load
  rw [if_neg (by simp), if_neg (by simp [hn]), if_pos (by simp [h8, ha])]

theorem State.load_fpOff (hf : s.fpOn h = false) : s.load h a n rd sg .float err = s.illegal h := by
  unfold State.load
  rw [if_pos (by simp [hf])]

theorem State.load_int (hw : 8 ≤ h → n ≠ 8 ∧ a % n = 0) :
    s.load h a n rd sg .int err = s.withPieces h .read a n fun ps t => t.loadGo h a n rd sg .int err ps := by
  unfold State.load
  rw [if_neg (by simp), if_neg (by simpa using fun h8 => (hw h8).1), if_neg (by simpa using fun h8 => (hw h8).2)]
  rfl

theorem State.load_float (h8 : h < 8) (hf : s.fpOn h = true) (hn : n ≠ 1) :
    s.load h a n rd sg .float err = s.withPieces h .read a n fun ps t => t.loadGo h a n rd sg .float err ps := by
  unfold State.load
  rw [if_neg (by simp [hf, hn]), if_neg (by simp; omega), if_neg (by simp; omega)]
  rfl

theorem State.load_fetch (h8 : h < 8) :
    s.load h a n rd sg .fetch err = s.withPieces h .exec a n fun ps t => t.loadGo h a n rd sg .fetch err ps := by
  unfold State.load
  rw [if_neg (by simp), if_neg (by simp; omega), if_neg (by simp)]
  rfl

end

/-! ### A load of a normal region (R364, R376) -/

section
variable {s t : State} {h a n rd : Nat} {sg : Bool} {kind : LoadKind} {p : Piece} {v : Nat} {b : Bool}

/-- A load of a normal region is counted. -/
def State.loadCounted (s : State) (h va n : Nat) (kind : LoadKind) (p : Piece) : State :=
  let s := (s.when (kind != .fetch) (fun t => t.coreCount h 18)).when (va % n != 0) (fun t => t.coreCount h 25)
  s.when ((match s.region p.pa with
    | .scratch _ _ => true
    | _ => false)) (fun t => t.coreCount h 86)

theorem Tallied.loadCounted (s : State) (h va n : Nat) (kind : LoadKind) (p : Piece) : Tallied h s (s.loadCounted h va n kind p) := by
  unfold State.loadCounted
  dsimp only
  exact ((Tallied.when s _ (.core h s (i := 18) (by decide))).trans (.when _ _ (.core h _ (i := 25) (by decide)))).trans
    (.when _ _ (.core h _ (i := 86) (by decide)))

/-- The access a load makes. -/
def loadAcc (kind : LoadKind) : AccKind := if kind == .fetch then .exec else .read

/-- How a load of a normal region ends. -/
def State.loadEnds (h va n rd : Nat) (sg : Bool) (kind : LoadKind) (p : Piece) : State × LdOut × Bool → State
  | (s, _, true) => s
  | (s, .ok v, _) => s.loadRetire h rd n sg kind v
  | (s, _, _) => s.poisonTrap h (loadAcc kind) p.pa va

theorem State.loadGo_normal (hd : s.isDevice p = false) (hown : h < 8 ∨ 12 ≤ h ∨ s.ownLocal h p.pa = true) :
    s.loadGo h a n rd sg kind .none [p] =
      State.loadEnds h a n rd sg kind p ((s.loadCounted h a n kind p).normalLoad h [p] .none) := by
  have hfab : (decide (8 ≤ h) && decide (h < 12) && !s.ownLocal h p.pa) = false := by
    rcases hown with h8 | h12 | hl
    · simp; omega
    · simp; omega
    · simp [hl]
  unfold State.loadGo
  dsimp only
  rw [if_neg (by simp [hd]), hfab]
  rfl

/-- A load that the youngest store of the buffer covers takes its bytes from there. -/
theorem State.normalLoad_forwarded {e : SbEntry} (he : s.sbYoungest h p.pa p.n = some e)
    (hm : Nat.land e.mask (lineMask p.pa p.n) = lineMask p.pa p.n) (err : SramErr) :
    s.normalLoad h [p] err = (s.coreCount h 23, .ok (bitsOf e.data (8 * (p.pa % 64)) (8 * p.n)), false) := by
  unfold State.normalLoad
  simp only [he, hm, beq_self_eq_true, if_true]

theorem State.sbYoungest_nil (hs : s.sb h = []) (pa n : Nat) : s.sbYoungest h pa n = none := by
  rw [State.sbYoungest, hs]
  rfl

theorem State.sbWait_nil (hs : s.sb h = []) (pa n : Nat) : s.sbWait h pa n = s := by
  rw [State.sbWait, hs]
  rfl

/-- With nothing in the buffer a part is read as it stands. -/
theorem State.partsRead_one (hs : s.sb h = []) (hr : s.normalRead h p = (t, v, b)) : s.partsRead h [p] = (t, v, b) := by
  unfold State.partsRead
  dsimp only
  rw [State.sbWait_nil hs, hr]
  simp [State.partsRead]

theorem State.normalLoad_read (hs : s.sb h = []) (hr : s.normalRead h p = (t, v, b)) :
    s.normalLoad h [p] .none = (t, if b then .poison else .ok v, false) := by
  have hy := State.sbYoungest_nil hs p.pa p.n
  have hp := State.partsRead_one hs hr
  unfold State.normalLoad
  simp only [hy, List.any_cons, List.any_nil, Option.isSome_none, Bool.or_self, State.when, Bool.false_eq_true, if_false, beq_self_eq_true, if_true,
    State.ramError, hp]

/-- A line in the core's L2 answers a read of DRAM that no page makes uncached. -/
theorem State.normalRead_dram {l : L2Line} (h8 : h < 8) (hr : s.region p.pa = .dram) (hb : p.pbmt ≠ 1)
    (ht : (s.dirAt (p.pa / 64)).txn = none) (hl : s.l2 h (p.pa / 64) = some l) :
    s.normalRead h p = (s.coreCount h 32, bitsOf l.data (8 * (p.pa % 64)) (8 * p.n), l.poison) := by
  unfold State.normalRead
  rw [hr]
  dsimp only
  rw [if_neg (by simp [hb]; omega), State.coreRead_hit p.n ht hl]

/-- An array that no cache covers: the scratch window, a timekeeper's own memory, the security subsystem's SRAM. -/
def arrayRegion : Region → Bool
  | .scratch _ _ | .tkLocal _ _ | .secSram => true
  | _ => false

theorem State.normalRead_array (hr : arrayRegion (s.region p.pa) = true) :
    s.normalRead h p = (s, s.bytesAt p.pa p.n, s.sramPoisoned (p.pa / 64)) := by
  unfold arrayRegion at hr
  unfold State.normalRead State.memRead State.sramRead
  split at hr
  case h_1 he | h_2 he | h_3 he => simp only [he]
  case h_4 => cases hr

theorem State.arrayRegion_own {c : Prop} (ho : s.ownLocal h p.pa = true ∨ c ∧ s.region p.pa = .secSram) : arrayRegion (s.region p.pa) = true := by
  rcases ho with hl | ⟨-, hs⟩
  · obtain ⟨k, o, hr⟩ := State.ownLocal_region hl
    rw [hr]
    rfl
  · rw [hs]
    rfl

/-- A load of a normal region with nothing in the buffer: what the part reads as, with the poison flag. -/
theorem State.loadGo_reads (hd : s.isDevice p = false) (hown : h < 8 ∨ 12 ≤ h ∨ s.ownLocal h p.pa = true) (hs : s.sb h = [])
    (hread : ∀ u, Tallied h s u → ∃ t, Tallied h u t ∧ u.normalRead h p = (t, v, b)) :
    ∃ u, Tallied h s u ∧ s.loadGo h a n rd sg kind .none [p] =
      if b then u.poisonTrap h (loadAcc kind) p.pa a else u.loadRetire h rd n sg kind v := by
  have hc := Tallied.loadCounted s h a n kind p
  obtain ⟨t, ht, hr⟩ := hread _ hc
  refine ⟨t, hc.trans ht, ?_⟩
  rw [State.loadGo_normal hd hown, State.normalLoad_read (hc.sb.trans hs) hr]
  cases b <;> rfl

theorem State.loadGo_forwards (hd : s.isDevice p = false) (h8 : h < 8) {e : SbEntry} (he : s.sbYoungest h p.pa p.n = some e)
    (hm : Nat.land e.mask (lineMask p.pa p.n) = lineMask p.pa p.n) : ∃ u, Tallied h s u ∧
      s.loadGo h a n rd sg kind .none [p] = u.loadRetire h rd n sg kind (bitsOf e.data (8 * (p.pa % 64)) (8 * p.n)) := by
  have hc := Tallied.loadCounted s h a n kind p
  have he' : (s.loadCounted h a n kind p).sbYoungest h p.pa p.n = some e := by
    rw [State.sbYoungest, hc.sb]
    exact he
  refine ⟨_, hc.trans (.core h _ (i := 23) (by decide)), ?_⟩
  rw [State.loadGo_normal hd (.inl h8), State.normalLoad_forwarded he' hm]
  rfl

/-- Reads of the L2 and of the arrays, whatever was counted before. -/
theorem Tallied.reads_dram {l : L2Line} (h8 : h < 8) (hr : s.region p.pa = .dram) (hb : p.pbmt ≠ 1)
    (ht : (s.dirAt (p.pa / 64)).txn = none) (hl : s.l2 h (p.pa / 64) = some l) : ∀ u, Tallied h s u →
      ∃ t, Tallied h u t ∧ u.normalRead h p = (t, bitsOf l.data (8 * (p.pa % 64)) (8 * p.n), l.poison) := fun u hu =>
  ⟨_, .core h u (i := 32) (by decide), State.normalRead_dram h8 ((hu.region _).trans hr) hb (by rw [hu.dirAt, ht]) ((hu.l2 ..).trans hl)⟩

theorem Tallied.reads_array (hr : arrayRegion (s.region p.pa) = true) (hp : s.sramPoisoned (p.pa / 64) = false) : ∀ u, Tallied h s u →
      ∃ t, Tallied h u t ∧ u.normalRead h p = (t, s.bytesAt p.pa p.n, false) := fun u hu =>
  ⟨u, .refl h u, by rw [State.normalRead_array (by rw [hu.region, hr]), hu.bytesAt, hu.sramPoisoned, hp]⟩

end

/-! ### How a load retires -/

section
variable {h : Hart} {s u : State} {va : Word} {size : AccSize} {rd : RegIdx} {sg : Bool} {v : Nat}

/-- An integer load that was only counted retires with its value. -/
theorem load_gets (r : s.Ready h.val) (hu : Tallied h.val s u)
    (hf : s.load h.val (hartAddr h va) size.bytes rd.val sg .int .none = u.loadRetire h.val rd.val size.bytes sg .int v) :
    Completes (.load h va size rd sg .int .none) s fun t => s.Loaded t h.val rd.val size.bytes sg v := by
  have e : Executing h.val [rd.val] s (u.setX h.val rd.val (loadExt h.val size.bytes sg v)) :=
    hu.executing.trans (.setX u _ (List.mem_singleton.mpr rfl))
  exact load_completes r (by simp) hf (e.quiet r.toQuiet).retire
    ⟨e.went, State.xreg_setX_retire _ _ _, (State.mem_retire ..).trans ((State.mem_setX ..).trans hu.mem)⟩

/-- A floating-point register receives `box`, and FS becomes dirty. -/
def State.putF (s : State) (h r box : Nat) : State :=
  let s := s.updHart h (fun k => { k with f := tabSet (fun _ => 0) k.f r box })
  let s := s.setCsr h csrMstatus (putBits (putBits (s.csr h csrMstatus) 13 2 3) 63 1 1)
  s.when (virt (s.hart h).priv) (fun t => t.setCsr h csrVsstatus (putBits (putBits (t.csr h csrVsstatus) 13 2 3) 63 1 1))

theorem State.setF_eq (s : State) (h r n v : Nat) : s.setF h r n v = s.putF h r (2 ^ 64 - 2 ^ (8 * n) + v % 2 ^ (8 * n)) := rfl

/-- It is written beside the integer registers and the program. -/
theorem Executing.putF (s : State) (h r box : Nat) : Executing h [] s (s.putF h r box) := by
  unfold State.putF
  dsimp only
  exact Executing.trans (.trans (.updHart s h ⟨rfl, rfl, rfl, rfl, rfl, rfl⟩) (.setCsr _ _ (a := csrMstatus) (by decide)))
    (.when _ _ (.setCsr _ _ (a := csrVsstatus) (by decide)))

theorem State.f_setCsr (s : State) (h a v : Nat) : ((s.setCsr h a v).hart h).f = (s.hart h).f := by rw [State.hart_setCsr]

theorem State.f_putF (s : State) (h r box : Nat) : tabGet (fun _ => 0) ((s.putF h r box).hart h).f r = box := by
  have hf : ((s.putF h r box).hart h).f = tabSet (fun _ => 0) (s.hart h).f r box := by
    refine (State.when_same (fun t => (t.hart h).f) _ _ (State.f_setCsr ..)).trans ((State.f_setCsr ..).trans ?_)
    rw [State.hart_updHart_self]
  rw [hf, tabGet_tabSet_self]

theorem State.mem_putF (s : State) (h r box : Nat) : (s.putF h r box).mem = s.mem := by
  have hcsr : ∀ (t : State) (a v : Nat), (t.setCsr h a v).mem = t.mem := fun _ _ _ => rfl
  unfold State.putF
  dsimp only
  rw [State.when_same State.mem _ _ (hcsr ..), hcsr, State.mem_updHart]

theorem load_getsF (r : s.Ready h.val) (hu : Tallied h.val s u)
    (hf : s.load h.val (hartAddr h va) size.bytes rd.val sg .float .none = u.loadRetire h.val rd.val size.bytes sg .float v) :
    Completes (.load h va size rd sg .float .none) s fun t => s.Went t h.val ((s.hart h.val).pc + 4) [] ∧ t.mem = s.mem ∧
      tabGet (fun _ => 0) (t.hart h.val).f rd.val = 2 ^ 64 - 2 ^ (8 * size.bytes) + v % 2 ^ (8 * size.bytes) := by
  rw [State.loadRetire, State.setF_eq] at hf
  generalize 2 ^ 64 - 2 ^ (8 * size.bytes) + v % 2 ^ (8 * size.bytes) = box at hf ⊢
  have e : Executing h.val [] s (u.putF h.val rd.val box) := hu.executing.trans (.putF ..)
  refine load_completes r (by simp) hf (e.quiet r.toQuiet).retire ⟨e.went, (State.mem_retire ..).trans ((State.mem_putF ..).trans hu.mem), ?_⟩
  rw [State.hart_retire]
  exact State.f_putF ..

/-- Poisoned data are recorded and raise the access fault of the load. -/
theorem load_poisoned (r : s.Ready h.val) (hu : Tallied h.val s u) {pa : Nat}
    (hf : s.load h.val (hartAddr h va) size.bytes rd.val sg .int .none =
      u.poisonTrap h.val .read pa (hartAddr h va)) :
    Completes (.load h va size rd sg .int .none) s fun t => s.Took t h.val false 5 (hartAddr h va) :=
  load_traps r (by simp) hf (hu.standing.trans (LogOnly.sherd ..).standing)

end

/-! ### The clauses of one part, by the region that serves it -/

section
variable {h : Hart} {s : State} {va : Word} {size : AccSize} {rd : RegIdx} {sg : Bool} {p : Piece}

/-- The one part of an integer load, checked. -/
theorem load_part (hw : 8 ≤ h.val → size.bytes ≠ 8 ∧ hartAddr h va % size.bytes = 0) (hp : s.Reaches h.val .read (hartAddr h va) size.bytes p)
    (hd : s.isDevice p = true → hartAddr h va % size.bytes = 0) :
    s.load h.val (hartAddr h va) size.bytes rd.val sg .int .none = s.loadGo h.val (hartAddr h va) size.bytes rd.val sg .int .none [p] := by
  rw [State.load_int hw, State.withPieces_goes hp.parts hp.passed hd (by simp)]

theorem load_forwarded (r : s.Ready h.val) (h8 : h.val < 8) (hp : s.Reaches h.val .read (hartAddr h va) size.bytes p) (hn : p.n = size.bytes)
    (hd : s.isDevice p = false) {e : SbEntry} (he : s.sbYoungest h.val p.pa p.n = some e)
    (hm : Nat.land e.mask (lineMask p.pa p.n) = lineMask p.pa p.n) : Completes (.load h va size rd sg .int .none) s fun t =>
      s.Loaded t h.val rd.val size.bytes sg (bitsOf e.data (8 * (p.pa % 64)) (8 * size.bytes)) := by
  obtain ⟨u, hu, hgo⟩ := State.loadGo_forwards (a := hartAddr h va) (n := size.bytes) (rd := rd.val) (sg := sg) (kind := .int) hd h8 he hm
  rw [hn] at hgo
  exact load_gets r hu ((load_part (by omega) hp (by simp [hd])).trans hgo)

/-- A load of a normal region that reads `v`, unpoisoned. -/
theorem load_reads (r : s.Ready h.val) (hw : 8 ≤ h.val → size.bytes ≠ 8 ∧ hartAddr h va % size.bytes = 0)
    (hp : s.Reaches h.val .read (hartAddr h va) size.bytes p) (hd : s.isDevice p = false)
    (hown : h.val < 8 ∨ 12 ≤ h.val ∨ s.ownLocal h.val p.pa = true) (hs : s.sb h.val = []) {v : Nat}
    (hread : ∀ u, Tallied h.val s u → ∃ t, Tallied h.val u t ∧ u.normalRead h.val p = (t, v, false)) :
    Completes (.load h va size rd sg .int .none) s fun t => s.Loaded t h.val rd.val size.bytes sg v := by
  obtain ⟨u, hu, hgo⟩ := State.loadGo_reads (a := hartAddr h va) (n := size.bytes) (rd := rd.val) (sg := sg) (kind := .int) hd hown hs hread
  exact load_gets r hu ((load_part hw hp (by simp [hd])).trans hgo)

/-- A load of a poisoned line. -/
theorem load_readsPoison (r : s.Ready h.val) (h8 : h.val < 8) (hp : s.Reaches h.val .read (hartAddr h va) size.bytes p) (hd : s.isDevice p = false)
    (hs : s.sb h.val = []) {v : Nat} (hread : ∀ u, Tallied h.val s u → ∃ t, Tallied h.val u t ∧ u.normalRead h.val p = (t, v, true)) :
    Completes (.load h va size rd sg .int .none) s fun t => s.Took t h.val false 5 (hartAddr h va) := by
  obtain ⟨u, hu, hgo⟩ := State.loadGo_reads (a := hartAddr h va) (n := size.bytes) (rd := rd.val) (sg := sg) (kind := .int) hd (.inl h8) hs hread
  exact load_poisoned r hu ((load_part (by omega) hp (by simp [hd])).trans hgo)

theorem load_readsF (r : s.Ready h.val) (hf : s.fpOn h.val = true) (h1 : size.bytes ≠ 1) (h8 : h.val < 8)
    (hp : s.Reaches h.val .read (hartAddr h va) size.bytes p) (hd : s.isDevice p = false) (hs : s.sb h.val = []) {v : Nat}
    (hread : ∀ u, Tallied h.val s u → ∃ t, Tallied h.val u t ∧ u.normalRead h.val p = (t, v, false)) :
    Completes (.load h va size rd sg .float .none) s fun t => s.Went t h.val ((s.hart h.val).pc + 4) [] ∧ t.mem = s.mem ∧
      tabGet (fun _ => 0) (t.hart h.val).f rd.val = 2 ^ 64 - 2 ^ (8 * size.bytes) + v % 2 ^ (8 * size.bytes) := by
  obtain ⟨u, hu, hgo⟩ := State.loadGo_reads (a := hartAddr h va) (n := size.bytes) (rd := rd.val) (sg := sg) (kind := .float) hd (.inl h8)
    hs hread
  refine load_getsF r hu (Eq.trans ?_ hgo)
  rw [State.load_float h8 hf h1, State.withPieces_goes hp.parts hp.passed (by simp [hd]) (by simp)]

/-- A fetch writes no register. -/
theorem fetch_reads (r : s.Ready h.val) (h8 : h.val < 8) (hp : s.Reaches h.val .exec (hartAddr h va) size.bytes p) (hd : s.isDevice p = false)
    (hx : s.execRegion h.val p.pa = true ∧ p.pbmt ≠ 2) (hs : s.sb h.val = []) {v : Nat}
    (hread : ∀ u, Tallied h.val s u → ∃ t, Tallied h.val u t ∧ u.normalRead h.val p = (t, v, false)) :
    Completes (.load h va size rd sg .fetch .none) s fun t =>
      (t.hart h.val).pc = (s.hart h.val).pc ∧ (∀ r, t.xreg h.val r = s.xreg h.val r) ∧ t.mem = s.mem := by
  obtain ⟨u, hu, hgo⟩ := State.loadGo_reads (a := hartAddr h va) (n := size.bytes) (rd := rd.val) (sg := sg) (kind := .fetch) hd (.inl h8)
    hs hread
  have e : Executing h.val [] s u := hu.executing
  refine r.completes (exec_fetch s) (t := u) (Eq.trans ?_ hgo) (e.quiet r.toQuiet) ⟨e.pc, fun r => e.x r List.not_mem_nil, hu.mem⟩
  rw [State.load_fetch h8, State.withPieces_goes hp.parts hp.passed (by simp [hd]) fun _ => hx]

/-! ### Register windows and the fabric -/

theorem ofNat_hart (h : Hart) : Fin.ofNat 13 h.val = h := Fin.ext (Nat.mod_eq_of_lt h.isLt)

/-- A register window lies in a device region. -/
theorem State.isDevice_window (hw : s.isWindow p.pa = true) : s.isDevice p = true := by
  unfold State.isWindow at hw
  unfold State.isDevice
  split at hw
  case h_1 hr => rw [hr]; rfl
  case h_2 hr => rw [hr]; rfl
  case h_3 => cases hw

/-- How a load of a device region ends. -/
def State.deviceEnds (h va n rd : Nat) (sg : Bool) (kind : LoadKind) (p : Piece) : State × LdOut → State
  | (u, .ok v) => ((u.coreCount h 52).coreCount h 87).loadRetire h rd n sg kind v
  | (u, .poison) => u.poisonTrap h (loadAcc kind) p.pa va
  | (u, .refused) => u.exception h excLoadAccess va

theorem State.loadGo_device {h a n rd : Nat} {kind : LoadKind} (h8 : h < 8 ∨ h = 12) (hd : s.isDevice p = true)
    (he : s.epochMode (clusterOf h) = false) :
    s.loadGo h a n rd sg kind .none [p] = State.deviceEnds h a n rd sg kind p (s.deviceRead h p) := by
  have hfab : (decide (8 ≤ h) && decide (h < 12)) = false := by
    rcases h8 with h8 | rfl
    · simp; omega
    · rfl
  unfold State.loadGo State.asCommitPoint
  dsimp only
  rw [if_pos (by simp [hd]), hfab, he, Bool.and_false, if_neg Bool.false_ne_true, if_neg Bool.false_ne_true]
  rfl

theorem State.loadGo_fabric {h a n rd : Nat} {kind : LoadKind} (h8 : 8 ≤ h) (h12 : h < 12) (hl : s.ownLocal h p.pa = false) :
    s.loadGo h a n rd sg kind .none [p] = s.updHart h fun t => { t with fabric := some ⟨p.pa, n, rd, sg⟩ } := by
  have hfab : (decide (8 ≤ h) && decide (h < 12)) = true := by simp [h8, h12]
  unfold State.loadGo
  dsimp only
  rw [hfab, hl]
  split
  · rfl
  · exact if_pos rfl

section
variable (hw : s.isWindow p.pa = true)
include hw

theorem State.deviceRead_windowOk (hj : s.winJudge (.hart h) (s.hartSlice h.val) false p.pa p.n = .ok) : s.deviceRead h.val p =
    ((s.winRead (s.hartSlice h.val) false p.pa p.n).1, .ok (s.winRead (s.hartSlice h.val) false p.pa p.n).2) := by
  unfold State.deviceRead
  dsimp only
  rw [if_pos hw, ofNat_hart, hj]

theorem State.deviceRead_windowBad (hj : s.winJudge (.hart h) (s.hartSlice h.val) false p.pa p.n = .bad) : s.deviceRead h.val p = (s, .refused) := by
  unfold State.deviceRead
  dsimp only
  rw [if_pos hw, ofNat_hart, hj]

theorem State.deviceRead_windowRefused {st : Status} (hj : s.winJudge (.hart h) (s.hartSlice h.val) false p.pa p.n = .refuse st) :
    s.deviceRead h.val p = (s.sherdRefused (.hart h) st (s.region p.pa) p.pa, .refused) := by
  unfold State.deviceRead
  dsimp only
  rw [if_pos hw, ofNat_hart, hj]

end

section
variable (r : s.Ready h.val) (h8 : h.val < 8 ∨ h.val = 12) (hp : s.Reaches h.val .read (hartAddr h va) size.bytes p) (hn : p.n = size.bytes)
  (hw : s.isWindow p.pa = true) (ha : hartAddr h va % size.bytes = 0) (he : s.epochMode (clusterOf h.val) = false)
  (hb : 8 ≤ h.val → size.bytes ≠ 8)
include h8 hp hw ha he hb

theorem load_window : s.load h.val (hartAddr h va) size.bytes rd.val sg .int .none =
    State.deviceEnds h.val (hartAddr h va) size.bytes rd.val sg .int p (s.deviceRead h.val p) := by
  rw [load_part (fun h => ⟨hb h, ha⟩) hp fun _ => ha, State.loadGo_device h8 (State.isDevice_window hw) he]

include r hn

theorem load_windowOk (hj : s.winJudge (.hart h) (s.hartSlice h.val) false p.pa size.bytes = .ok) (h0 : rd.val ≠ 0) :
    Completes (.load h va size rd sg .int .none) s fun t => t.xreg h.val rd.val =
      loadExt h.val size.bytes sg (s.winRead (s.hartSlice h.val) false p.pa size.bytes).2 % 2 ^ hartXlen h.val := by
  rw [← hn] at hj
  have hread := State.deviceRead_windowOk hw hj
  rw [hn] at hread
  have e := (ReadOnly.winRead s (s.hartSlice h.val) p.pa size.bytes).executing (h := h.val) (rs := [])
  have hq := (((e.trans (Counted.core h.val _ 52).executing).trans (Counted.core h.val _ 87).executing).quiet r.toQuiet)
  refine load_completes r (by simp) ((load_window h8 hp hw ha he hb).trans (congrArg _ hread)) (hq.setX _ _).retire ?_
  exact State.xreg_setX_retire _ _ _ h0

theorem load_windowBad (hj : s.winJudge (.hart h) (s.hartSlice h.val) false p.pa size.bytes = .bad) :
    Completes (.load h va size rd sg .int .none) s fun t => s.Took t h.val false 5 (hartAddr h va) ∧ t.mem = s.mem := by
  have hread := State.deviceRead_windowBad hw (hn ▸ hj)
  exact r.completes_exception (exec_load (by simp) s)
    ((r.toQuiet.accessed ..).trans ((load_window h8 hp hw ha he hb).trans (congrArg _ hread)))

theorem load_windowRefused {st : Status} (hj : s.winJudge (.hart h) (s.hartSlice h.val) false p.pa size.bytes = .refuse st) :
    Completes (.load h va size rd sg .int .none) s fun t => s.Took t h.val false 5 (hartAddr h va) := by
  have hread := State.deviceRead_windowRefused hw (hn ▸ hj)
  exact load_traps r (by simp) ((load_window h8 hp hw ha he hb).trans (congrArg _ hread)) (LogOnly.refused ..).standing

end

/-- A timekeeper's load of anything but its own memory goes to the fabric. -/
theorem load_toFabric (r : s.Ready h.val) (h8 : 8 ≤ h.val) (h12 : h.val < 12)
    (hw : size.bytes ≠ 8 ∧ hartAddr h va % size.bytes = 0) (hp : s.Reaches h.val .read (hartAddr h va) size.bytes p)
    (hl : s.ownLocal h.val p.pa = false) : Completes (.load h va size rd sg .int .none) s fun t =>
      (t.hart h.val).fabric = some ⟨p.pa, size.bytes, rd.val, sg⟩ ∧ (t.hart h.val).pc = (s.hart h.val).pc ∧
      (∀ r, t.xreg h.val r = s.xreg h.val r) ∧ t.mem = s.mem := by
  have e : Executing h.val [] s (s.updHart h.val fun t => { t with fabric := some ⟨p.pa, size.bytes, rd.val, sg⟩ }) :=
    .updHart s h.val ⟨rfl, rfl, rfl, rfl, rfl, rfl⟩
  refine load_completes r (by simp) ((load_part (fun _ => hw) hp fun _ => hw.2).trans (State.loadGo_fabric h8 h12 hl)) (e.quiet r.toQuiet)
    ⟨?_, e.pc, fun r => e.x r List.not_mem_nil, rfl⟩
  rw [State.hart_updHart_self]

/-! ### The response of the fabric (R289, R357) -/

section
variable {n : TkCore} {l : FabLoad}

/-- The load that the fabric answers, as a part. -/
def FabLoad.part (l : FabLoad) : Piece := ⟨l.addr, l.addr, l.size, 0⟩

theorem exec_fabricLoadResponse (n : TkCore) (s : State) :
    exec (.fabricLoadResponse n) s = .next (if s.hartRuns (8 + n.val) then s.fabricResponse (8 + n.val) else s) := rfl

theorem fabricLoadResponse_runs (hr : s.hartRuns (8 + n.val) = true) {t : State} (ht : s.fabricResponse (8 + n.val) = t) {P : State → Prop}
    (hP : P t) :
    Completes (.fabricLoadResponse n) s P :=
  .of ((exec_fabricLoadResponse n s).trans (congrArg _ ((if_pos hr).trans ht))) hP

/-- A response waits for the stores of the write buffer that overlap its load. -/
theorem fabricLoadResponse_waits (hf : (s.hart (8 + n.val)).fabric = some l) (hr : s.hartRuns (8 + n.val) = true)
    (hb : (s.hart (8 + n.val)).wbuf.any (fun d => wbufTouches d l.addr l.size) = true) :
    Completes (.fabricLoadResponse n) s fun t => t = s := by
  refine fabricLoadResponse_runs hr ?_ rfl
  unfold State.fabricResponse
  rw [hf]
  dsimp only
  rw [hb, Bool.or_true, if_pos rfl]

/-- The load leaves the fabric. -/
def State.fabricTaken (s : State) (h : Nat) : State := s.updHart h fun t => { t with fabric := none }

section
variable {h : Nat} (hf : (s.hart h).fabric = some l) (hb : (s.hart h).wbuf.any (fun d => wbufTouches d l.addr l.size) = false)
  (hd : s.isDevice l.part = false)
include hf hb hd

/-- A response of a normal region brings what the region reads as. -/
theorem State.fabricResponse_gets (hc : (s.fabricTaken h).pieceCheck h none .read l.part = .ok) {u : State} {v : Nat}
    (hr : (s.fabricTaken h).normalRead h l.part = (u, v, false)) :
    s.fabricResponse h = (u.loadRetire h l.rd l.size l.signed .int v).afterInstr h (s.hart h) := by
  unfold State.fabricTaken FabLoad.part at hc hr
  unfold FabLoad.part at hd
  unfold State.fabricResponse
  simp only [hf, hb, hd, hc, hr, Bool.false_and, Bool.or_self, Bool.false_eq_true, if_false]

theorem State.fabricResponse_denied (hc : (s.fabricTaken h).pieceCheck h none .read l.part = .denied) : s.fabricResponse h =
    (((s.fabricTaken h).physRefuse ((s.fabricTaken h).hartReq h) true .denied l.addr).exception h excLoadAccess l.addr).afterInstr h (s.hart h) := by
  unfold State.fabricTaken FabLoad.part at hc
  unfold FabLoad.part at hd
  unfold State.fabricResponse State.fabricTaken
  simp only [hf, hb, hd, hc, Bool.false_and, Bool.or_self, Bool.false_eq_true, if_false]

end

theorem State.hartWorld_fabricTaken : (s.fabricTaken (8 + n.val)).hartWorld (8 + n.val) = s.hartWorld (8 + n.val) := by
  have h8 : ¬ 8 + n.val < 8 := by omega
  have h12 : 8 + n.val < 12 := by omega
  simp only [State.hartWorld, h8, h12, if_false, if_true]
  rfl

theorem State.pieceCheck_fabricTaken (p : Piece) : (s.fabricTaken (8 + n.val)).pieceCheck (8 + n.val) none .read p =
    s.pieceCheck (8 + n.val) none .read p := by
  unfold State.pieceCheck
  rw [State.hartWorld_fabricTaken]
  rfl

section
variable (hf : (s.hart (8 + n.val)).fabric = some l) (hr : s.hartRuns (8 + n.val) = true) (q : s.Quiet (8 + n.val)) {w o : Nat}
  (hg : s.region l.addr = .scratch w o) (hb : (s.hart (8 + n.val)).wbuf.any (fun d => wbufTouches d l.addr l.size) = false)
include hf hr q hg hb

omit hf hr q hb in
theorem State.isDevice_scratch : s.isDevice l.part = false := by
  unfold State.isDevice FabLoad.part
  rw [hg]
  rfl

theorem fabricLoadResponse_gets (hp : s.sramPoisoned (l.addr / 64) = false)
    (hc : s.pieceCheck (8 + n.val) none .read ⟨l.addr, l.addr, l.size, 0⟩ = .ok) : Completes (.fabricLoadResponse n) s fun t =>
      s.Went t (8 + n.val) ((s.hart (8 + n.val)).pc + 4) [l.rd] ∧ (t.hart (8 + n.val)).fabric = none ∧
      (l.rd ≠ 0 → t.xreg (8 + n.val) l.rd = loadExt (8 + n.val) l.size l.signed (s.bytesAt l.addr l.size) % 2 ^ 32) ∧ t.mem = s.mem := by
  have hread : (s.fabricTaken (8 + n.val)).normalRead (8 + n.val) l.part = (s.fabricTaken (8 + n.val), s.bytesAt l.addr l.size, false) := by
    have hreg : (s.fabricTaken (8 + n.val)).region l.part.pa = .scratch w o := hg
    have hbytes : (s.fabricTaken (8 + n.val)).bytesAt l.addr l.size = s.bytesAt l.addr l.size :=
      State.bytesAt_congr (s := s) (t := s.fabricTaken (8 + n.val)) rfl ..
    have hpois : (s.fabricTaken (8 + n.val)).sramPoisoned (l.addr / 64) = false := hp
    rw [State.normalRead_array (by rw [hreg]; rfl), FabLoad.part, hbytes, hpois]
  have e : Executing (8 + n.val) [l.rd] s ((s.fabricTaken (8 + n.val)).setX (8 + n.val) l.rd
      (loadExt (8 + n.val) l.size l.signed (s.bytesAt l.addr l.size))) :=
    (Executing.updHart s _ ⟨rfl, rfl, rfl, rfl, rfl, rfl⟩).trans (.setX _ _ (List.mem_singleton.mpr rfl))
  have hx : hartXlen (8 + n.val) = 32 := if_neg (by omega)
  refine fabricLoadResponse_runs hr ((State.fabricResponse_gets hf hb (State.isDevice_scratch hg) ((State.pieceCheck_fabricTaken _).trans hc)
    hread).trans ((e.quiet q).retire.afterInstr _)) ⟨e.went, ?_, fun h0 => ?_, ?_⟩
  · rw [State.hart_retire, State.hart_setX, State.fabricTaken, State.hart_updHart_self]
  · rw [← hx]
    exact State.xreg_setX_retire _ _ _ h0
  · exact (State.mem_retire ..).trans (State.mem_setX ..)

theorem fabricLoadResponse_denied (hc : s.pieceCheck (8 + n.val) none .read ⟨l.addr, l.addr, l.size, 0⟩ = .denied) :
    Completes (.fabricLoadResponse n) s fun t => s.Took t (8 + n.val) false 5 l.addr ∧ (t.hart (8 + n.val)).fabric = none := by
  have hlog := LogOnly.physRefuse (s.fabricTaken (8 + n.val)) ((s.fabricTaken (8 + n.val)).hartReq (8 + n.val)) true .denied l.addr
  have st : Standing (8 + n.val) s _ := (Standing.updHart s _ ⟨rfl, rfl, rfl, rfl, rfl, rfl⟩).trans hlog.standing
  refine fabricLoadResponse_runs hr ((State.fabricResponse_denied hf hb (State.isDevice_scratch hg)
    ((State.pieceCheck_fabricTaken _).trans hc)).trans (((st.quiet q).trap ..).afterInstr _)) ⟨st.took (State.trap_took ..), ?_⟩
  refine (congrArg (fun b => b.2.2.2) (Buffered.trap _ (8 + n.val) false excLoadAccess l.addr).same).trans ?_
  change (State.hart _ _).fabric = none
  rw [State.hart, hlog.cpu]
  exact congrArg HartSt.fabric (State.hart_updHart_self ..)

end

end

end

/-- Settles O34, by the region the part lies in and what serves it. -/
theorem loadsComplete : Obligations.LoadsComplete := by
  refine ⟨fun h s va size rd sg r => ?_, fun n s l hf hr q => ⟨fabricLoadResponse_waits hf hr, fun w o hg hb hp =>
    ⟨fabricLoadResponse_gets hf hr q hg hb hp, fabricLoadResponse_denied hf hr q hg hb⟩⟩⟩
  have still := Standing.refl h.val s
  refine ⟨fun h8 hn => load_traps r (by simp) (State.load_absent h8 hn) still,
    fun h8 hn ha => load_traps r (by simp) (State.load_misaligned h8 hn ha) still,
    fun hf => load_traps r (by simp) (State.load_fpOff hf) still,
    fun c tv hw hp => load_traps r (by simp) ((State.load_int hw).trans (State.withPieces_error hp)) still,
    fun pa b hw hparts hpassed => ?_, fun pa v h8 hparts hpassed hs hreg ht hv hp => ?_⟩
  case refine_1 =>
    have hp : s.Reaches h.val .read (hartAddr h va) size.bytes ⟨hartAddr h va, pa, size.bytes, b⟩ := ⟨hparts, hpassed⟩
    refine ⟨fun h8 hd => ⟨fun e he hm => load_forwarded r h8 hp rfl hd he hm,
      fun v hs hreg hb ht hv => ⟨fun hpois => ⟨?_, fun hf h1 => ?_⟩, fun hpois => ?_⟩,
      fun w o hs hreg hpois => ?_⟩, fun h8 hwin ha he => ?_, fun h8 hd hown hs hpois => ?_, fun h8 h12 hl => ?_⟩
    · exact load_reads r hw hp hd (.inl h8) hs (hpois ▸ Tallied.reads_dram h8 hreg hb ht hv)
    · exact load_readsF r hf h1 h8 hp hd hs (hpois ▸ Tallied.reads_dram h8 hreg hb ht hv)
    · exact load_readsPoison r h8 hp hd hs (hpois ▸ Tallied.reads_dram h8 hreg hb ht hv)
    · exact load_reads r hw hp hd (.inl h8) hs (Tallied.reads_array (by rw [hreg]; rfl) hpois)
    · exact ⟨load_windowOk r h8 hp rfl hwin ha he fun h => (hw h).1, load_windowBad r h8 hp rfl hwin ha he fun h => (hw h).1,
        fun st => load_windowRefused r h8 hp rfl hwin ha he fun h => (hw h).1⟩
    · exact load_reads r hw hp hd (hown.elim (fun hl => .inr (.inr hl)) fun hs => .inr (.inl hs.1.ge)) hs
        (Tallied.reads_array (State.arrayRegion_own hown) hpois)
    · exact load_toFabric r h8 h12 (hw h8) hp hl
  case refine_2 =>
    have hd : s.isDevice ⟨hartAddr h va, pa, size.bytes, 0⟩ = false := by
      unfold State.isDevice
      rw [hreg]
      rfl
    have hx : s.execRegion h.val pa = true := by
      unfold State.execRegion
      rw [hreg]
      exact decide_eq_true h8
    exact fetch_reads r h8 ⟨hparts, hpassed⟩ hd ⟨hx, by simp⟩ hs (hp ▸ Tallied.reads_dram h8 hreg (by simp) ht hv)

end Sys2Proof.Machine
end

section
/-! Stores: how a hart executes one, how it enters the store buffer or the write buffer, and how it leaves them (R275, R289, R303, R347, R348,
R352, R353, R357, R358). -/

namespace Sys2Proof.Machine

open Sys2Proof

/-! ### Writes of memory -/

section
variable {s t : State} {h : Nat}

/-- A cleared reservation is all that changes of a hart. -/
theorem tabGet_clearResv (line : Nat) (who : Nat → Bool) (h : Nat) (l : Tab HartSt) : ∃ r,
    tabGet (fun _ => HartSt.init) (l.map fun p => if p.1 < 8 && who p.1 && p.2.resv == some line then (p.1, { p.2 with resv := none }) else p) h =
      { tabGet (fun _ => HartSt.init) l h with resv := r } := by
  induction l with
  | nil => exact ⟨HartSt.init.resv, rfl⟩
  | cons p l ih =>
    obtain ⟨j, k⟩ := p
    rw [List.map_cons]
    by_cases hj : j = h
    · have hk : tabGet (fun _ => HartSt.init) ((j, k) :: l) h = k := if_pos hj
      rw [hk]
      split
      · exact ⟨none, if_pos hj⟩
      · exact ⟨k.resv, if_pos hj⟩
    · have hk : tabGet (fun _ => HartSt.init) ((j, k) :: l) h = tabGet (fun _ => HartSt.init) l h := if_neg hj
      rw [hk]
      obtain ⟨r, hr⟩ := ih
      refine ⟨r, Eq.trans ?_ hr⟩
      split <;> exact if_neg hj

theorem State.hart_clearResv (s : State) (line : Nat) (who : Nat → Bool) (h : Nat) :
    ∃ r, (s.clearResv line who).hart h = { s.hart h with resv := r } := tabGet_clearResv line who h _

/-- From `s` to `t` a write past the caches stored `v` at `[a, a + n)`; hart `h` stands where it stood. -/
structure ArrayWritten (h : Nat) (s t : State) (a v n : Nat) : Prop where
  stored : s.Stored t a v n
  executing : Executing h [] s t
  buffered : Buffered h s t

theorem State.cpu_sramWrite (s : State) (q : MemReq) (src a v n : Nat) :
    (s.sramWrite q src a v n).cpu = s.cpu ∧ (s.sramWrite q src a v n).dbgm = s.dbgm := by
  have hbytes : (s.setBytes a v n).cpu = s.cpu ∧ (s.setBytes a v n).dbgm = s.dbgm := by rw [State.setBytes_eq]; exact ⟨rfl, rfl⟩
  unfold State.sramWrite
  dsimp only
  split
  · exact hbytes
  · unfold State.when
    split
    · have hlog := LogOnly.sherd (s.setBytes a v n) kPartial .poison src q.world q.src a q.port ((2 ^ n - 1) * 2 ^ (a % 64) % 2 ^ 64)
      exact ⟨hlog.cpu.trans hbytes.1, (congrArg State.dbgm hlog.rest).trans hbytes.2⟩
    · exact hbytes

theorem ArrayWritten.memWrite (h : Nat) (s : State) (q : MemReq) {a : Nat} (v n : Nat) (hr : arrayRegion (s.region a) = true) :
    ArrayWritten h s (s.memWrite q a n v) a v n := by
  have hw : s.memWrite q a n v = (s.sramWrite q (regionSrc (s.region a)) a v n).clearResv (a / 64) fun _ => true := by
    unfold arrayRegion at hr
    unfold State.memWrite
    split at hr
    case h_1 he | h_2 he | h_3 he => simp only [he]
    case h_4 => cases hr
  obtain ⟨hcpu, hdbgm⟩ := s.cpu_sramWrite q (regionSrc (s.region a)) a v n
  obtain ⟨r, hh⟩ := (s.sramWrite q (regionSrc (s.region a)) a v n).hart_clearResv (a / 64) (fun _ => true) h
  have hsame : (s.sramWrite q (regionSrc (s.region a)) a v n).hart h = s.hart h := by rw [State.hart, hcpu, State.hart]
  rw [hsame] at hh
  rw [hw]
  exact ⟨(s.stored_setBytes a v n).congr (s.bytes_sramWrite q _ a v n), .of_same (by rw [hh]; exact ⟨rfl, rfl, rfl, rfl, rfl, rfl⟩) hdbgm,
    ⟨by rw [hh]; rfl⟩⟩

/-- A line that the core's L2 may write takes the bytes at once. -/
theorem State.lineWrite_hit {line mask data : Nat} {v : L2Line} (w : World) (h8 : h < 8) (hr : s.region (64 * line) = .dram)
    (he : s.epochMode (clusterOf h) = false) (ht : (s.dirAt line).txn = none) (hv : s.l2 h line = some v) (hs : v.st ≠ .s) :
    s.lineWrite h w false line mask data = (s.coreCount h 32).setL2 h line
      (some { v with st := .m, data := mergeBytes 64 mask data v.data, poison := v.poison && mask != fullMask }) := by
  have hfull : s.epochFull (clusterOf h) line = false := by rw [State.epochFull, he]; rfl
  unfold State.lineWrite
  dsimp only
  rw [hr]
  dsimp only
  rw [hfull, if_neg (by simp; omega), if_neg Bool.false_ne_true, State.coreWrite_hit mask data h8 he ht hv hs]

/-- Register windows and the windows of other modules apart, a region is written as memory. -/
def memRegion : Region → Bool
  | .regs _ _ _ | .debug _ _ | .cascade _ _ => false
  | _ => true

theorem State.deviceWrite_mem {d : DevStore} {m : Nat} (hr : memRegion (s.region d.addr) = true) (hm : regionDom (s.region d.addr) = some m)
    (hf : s.fenceOpen m = true) :
    s.deviceWrite h d = (s.memWrite ⟨d.world, hartSrc h, (s.hartReq h).port⟩ d.addr d.size d.data, true) := by
  have hwin : s.isWindow d.addr = false := State.isWindow_of_region rfl (fun _ _ _ he => by rw [he] at hr; cases hr) fun _ _ he => by
    rw [he] at hr; cases hr
  have habs : s.windowAbsent d.addr = false := by
    unfold State.windowAbsent
    split
    · rename_i he
      rw [he] at hr
      cases hr
    · rfl
  unfold State.deviceWrite
  dsimp only
  rw [hwin, habs, hm]
  exact if_pos hf

theorem State.memWrite_pcie (q : MemReq) {a : Nat} (n v : Nat) (hr : s.region a = .pcie) : s.memWrite q a n v = s := by
  unfold State.memWrite
  rw [hr]

end

/-! ### A store before its parts -/

/-- What a store of hart `h` does once its parts are checked. -/
def State.storeGo (s : State) (h va n v : Nat) (ps : List Piece) : State :=
  if h < 8 then s.storeApp h va n v ps else if h < 12 then s.storeTk h va n v ps else s.storeWarden h va n v ps

/-- From `s` to `t` a store of hart `h` waits: the hart stands where it stood. -/
def State.Stays (s t : State) (h : Nat) : Prop :=
  (t.hart h).pc = (s.hart h).pc ∧ (∀ r, t.xreg h r = s.xreg h r) ∧ t.mem = s.mem

section
variable {h : Nat} {s t : State}

theorem Executing.stays (e : Executing h [] s t) (hm : t.mem = s.mem) : s.Stays t h := ⟨e.pc, fun r => e.x r List.not_mem_nil, hm⟩

theorem Executing.smcNote (s : State) (h : Nat) (ps : List Piece) : Executing h [] s (s.smcNote h ps) := by
  unfold State.smcNote
  exact .updHart s h ⟨rfl, rfl, rfl, rfl, rfl, rfl⟩

theorem Buffered.smcNote (s : State) (h : Nat) (ps : List Piece) : Buffered h s (s.smcNote h ps) := by
  unfold State.smcNote
  exact .updHart s h

theorem Buffered.retire (s : State) (h : Nat) : Buffered h s (s.retire h) := ⟨by rw [State.hart_retire]; rfl⟩

theorem Executing.setSb (s : State) (h : Nat) (l : List SbEntry) : Executing h [] s (s.setSb h l) := .updHart s h ⟨rfl, rfl, rfl, rfl, rfl, rfl⟩

theorem State.sb_setSb (s : State) (h : Nat) (l : List SbEntry) : (s.setSb h l).sb h = l := by
  rw [State.sb, State.setSb, State.hart_updHart_self]

theorem Buffered.sb (p : Buffered h s t) : t.sb h = s.sb h := congrArg Prod.fst p.same

theorem Buffered.dev (p : Buffered h s t) : (t.hart h).dev = (s.hart h).dev := congrArg (fun b => b.2.1) p.same

theorem Buffered.wbuf (p : Buffered h s t) : (t.hart h).wbuf = (s.hart h).wbuf := congrArg (fun b => b.2.2.1) p.same

end

section
variable {s : State} {h a n x : Nat}

theorem State.store_absent (h8 : 8 ≤ h) (hn : n = 8) : s.store h a n x = s.illegal h := if_pos (by simp [h8, hn])

theorem State.store_misaligned (h8 : 8 ≤ h) (hn : n ≠ 8) (ha : a % n ≠ 0) : s.store h a n x = s.exception h excStoreMisaligned a := by
  unfold State.store
  dsimp only
  rw [if_neg (by simp [hn]), if_pos (by simp [h8, ha])]

theorem State.store_parts (hw : 8 ≤ h → n ≠ 8 ∧ a % n = 0) :
    s.store h a n x = s.withPieces h .write a n fun ps t => t.storeGo h a n (x % 2 ^ (8 * n)) ps := by
  unfold State.store
  dsimp only
  rw [if_neg (by simpa using fun h8 => (hw h8).1), if_neg (by simpa using fun h8 => (hw h8).2)]
  rfl

theorem State.store_part {p : Piece} (hw : 8 ≤ h → n ≠ 8 ∧ a % n = 0) (hp : s.Reaches h .write a n p)
    (hd : s.isDevice p = true → a % n = 0) :
    s.store h a n x = s.storeGo h a n (x % 2 ^ (8 * n)) [p] := by
  rw [State.store_parts hw, State.withPieces_goes hp.parts hp.passed hd (by simp)]

end

section
variable {h : Hart} {s t : State} {va data : Word} {size : AccSize}

theorem exec_store (s : State) : exec (.store h va size data) s = .next (s.instr h.val (State.accessed h.val .write (hartAddr h va)
    fun t => t.store h.val (hartAddr h va) size.bytes data.toNat)) := rfl

theorem store_completes (r : s.Ready h.val) (hf : s.store h.val (hartAddr h va) size.bytes data.toNat = t) (q : t.Quiet h.val)
    {P : State → Prop} (hP : P t) : Completes (.store h va size data) s P :=
  r.completes (exec_store s) ((r.toQuiet.accessed ..).trans hf) q hP

theorem store_traps (r : s.Ready h.val) {u : State} {code tval : Nat}
    (hf : s.store h.val (hartAddr h va) size.bytes data.toNat = u.exception h.val code tval) (p : Standing h.val s u) :
    Completes (.store h va size data) s fun t => s.Took t h.val false code tval :=
  r.completes_trap (exec_store s) ((r.toQuiet.accessed ..).trans hf) p

end

/-! ### Stores of the application cores (R275, R347, R348, R352) -/

section
variable {s t : State} {h va n v : Nat} {p : Piece}

/-- A store of an application core is counted. -/
def State.storeCounted (s : State) (h va n : Nat) : State := (s.coreCount h 19).when (va % n != 0) fun t => t.coreCount h 25

theorem Tallied.storeCounted (s : State) (h va n : Nat) : Tallied h s (s.storeCounted h va n) :=
  (Tallied.core h s (i := 19) (by decide)).trans (.when _ _ (.core h _ (i := 25) (by decide)))

/-- The entry of its own that a store takes in the buffer. -/
def State.sbEntry (s : State) (h : Nat) (p : Piece) (v : Nat) : SbEntry :=
  ⟨p.pa / 64, lineMask p.pa p.n, v % 2 ^ (8 * p.n) * 2 ^ (8 * (p.pa % 64)), s.isDevice p, p.pbmt == 1, (s.hart h).fences, false, s.hartWorld h,
    s.hartSag h⟩

theorem Tallied.hartWorld (k : Tallied h s t) (h8 : h < 8) : t.hartWorld h = s.hartWorld h := by
  simp only [State.hartWorld, h8, if_true, k.world]

theorem Tallied.sbEntry (k : Tallied h s t) (h8 : h < 8) (p : Piece) (v : Nat) : t.sbEntry h p v = s.sbEntry h p v := by
  have hf : (t.hart h).fences = (s.hart h).fences := by rw [k.hart]
  rw [State.sbEntry, k.isDevice, hf, k.hartWorld h8, k.hartSag, State.sbEntry]

theorem State.sbPush_nil (v : Nat) (hs : s.sb h = []) : s.sbPush h p v = s.setSb h [s.sbEntry h p v] := by
  have hk : (s.hart h).sb = [] := hs
  unfold State.sbPush
  dsimp only
  rw [hk]
  rfl

/-- A device store takes an entry of its own. -/
theorem State.sbPush_device (v : Nat) (hd : s.isDevice p = true) : s.sbPush h p v = s.setSb h (s.sb h ++ [s.sbEntry h p v]) := by
  unfold State.sbPush
  dsimp only
  split
  · rw [hd, if_neg (by simp), State.sbEntry, hd]
    rfl
  · rename_i hl
    have hk : s.sb h = [] := List.getLast?_eq_none_iff.mp hl
    rw [hk]
    rfl

theorem partData_whole (hp : p.va = va) : partData va v p = v % 2 ^ (8 * p.n) := by
  rw [partData, hp, Nat.sub_self, Nat.mul_zero, pow_zero, Nat.div_one]

theorem State.storeApp_buffers (hd : s.isDevice p = false) (hs : s.sb h = []) (hp : p.va = va) : s.storeApp h va n v [p] =
    (((s.storeCounted h va n).setSb h [(s.storeCounted h va n).sbEntry h p v]).smcNote h [p]).retire h := by
  have hc := Tallied.storeCounted s h va n
  have hd' : (s.storeCounted h va n).isDevice p = false := (hc.isDevice p).trans hd
  have hentry : (s.storeCounted h va n).sbEntry h p (partData va v p) = (s.storeCounted h va n).sbEntry h p v := by
    rw [State.sbEntry, partData_whole hp, Nat.mod_mod, State.sbEntry]
  have hpush : [p].foldl (fun t q => t.sbPush h q (partData va v q)) (s.storeCounted h va n) =
      (s.storeCounted h va n).setSb h [(s.storeCounted h va n).sbEntry h p v] := by
    rw [List.foldl_cons, List.foldl_nil, State.sbPush_nil _ (hc.sb.trans hs), hentry]
  unfold State.storeCounted at *
  unfold State.storeApp
  dsimp only
  rw [hd', if_neg Bool.false_ne_true, hpush, State.sb_setSb, if_neg (by simp)]

/-- The store that an application core waits for. -/
def State.devStore (s : State) (h : Nat) (p : Piece) (va n v : Nat) : DevStore := ⟨p.pa, va, n, v, (s.hart h).pc, s.hartWorld h, false⟩

theorem State.storeApp_waits (h8 : h < 8) (hd : s.isDevice p = true) (he : s.epochMode (clusterOf h) = false) (hl : (s.sb h).length < 64) :
    ∃ u, Tallied h s u ∧ s.storeApp h va n v [p] =
      (u.setSb h (s.sb h ++ [s.sbEntry h p v])).updHart h fun t => { t with dev := some (s.devStore h p va n v) } := by
  have hc := Tallied.storeCounted s h va n
  have hu := hc.trans (.core h _ (i := 53) (by decide))
  refine ⟨(s.storeCounted h va n).coreCount h 53, hu, ?_⟩
  have hd' : (s.storeCounted h va n).isDevice p = true := (hc.isDevice p).trans hd
  have he' : ((s.storeCounted h va n).coreCount h 53).epochMode (clusterOf h) = false := (hu.epochMode (by unfold clusterOf; omega)).trans he
  have hpush : ((s.storeCounted h va n).coreCount h 53).sbPush h p v =
      ((s.storeCounted h va n).coreCount h 53).setSb h (s.sb h ++ [s.sbEntry h p v]) := by
    rw [State.sbPush_device _ ((hu.isDevice p).trans hd), hu.sb, hu.sbEntry h8]
  have hl' : ¬ 64 ≤ (((s.storeCounted h va n).coreCount h 53).sb h).length := by rw [hu.sb]; omega
  have hpc : ((((s.storeCounted h va n).coreCount h 53).setSb h (s.sb h ++ [s.sbEntry h p v])).hart h).pc = (s.hart h).pc :=
    (Executing.setSb ..).pc.trans (hu.executing (rs := [])).pc
  have hw := hu.hartWorld h8
  unfold State.storeCounted at *
  unfold State.storeApp
  dsimp only
  rw [hd', if_pos rfl, he', if_neg Bool.false_ne_true, if_neg hl', hpush, hw]
  exact congrArg (fun pc => State.updHart _ h fun t => { t with dev := some ⟨p.pa, va, n, v, pc, s.hartWorld h, false⟩ }) hpc

end

section
variable {h : Hart} {s : State} {va data : Word} {size : AccSize} {p : Piece}

/-- The value of a store. -/
abbrev storeVal (data : Word) (size : AccSize) : Nat := data.toNat % 2 ^ (8 * size.bytes)

theorem storeVal_mod (data : Word) (size : AccSize) : storeVal data size % 2 ^ (8 * size.bytes) = storeVal data size := Nat.mod_mod _ _

theorem store_buffers (r : s.Ready h.val) (h8 : h.val < 8) (hp : s.Reaches h.val .write (hartAddr h va) size.bytes p)
    (hv : p.va = hartAddr h va) (hd : s.isDevice p = false) (hs : s.sb h.val = []) : Completes (.store h va size data) s fun t =>
      s.Went t h.val ((s.hart h.val).pc + 4) [] ∧ t.mem = s.mem ∧ t.sb h.val = [s.sbEntry h.val p (storeVal data size)] := by
  have hc := Tallied.storeCounted s h.val (hartAddr h va) size.bytes
  have e : Executing h.val [] s _ := (hc.executing.trans (.setSb _ _ [s.sbEntry h.val p (storeVal data size)])).trans (.smcNote _ _ [p])
  have hgo := State.storeApp_buffers (va := hartAddr h va) (n := size.bytes) (v := storeVal data size) hd hs hv
  rw [hc.sbEntry h8] at hgo
  refine store_completes r ((State.store_part (by omega) hp (by simp [hd])).trans ((if_pos h8).trans hgo)) (e.quiet r.toQuiet).retire
    ⟨e.went, (State.mem_retire ..).trans hc.mem, ?_⟩
  exact ((Buffered.smcNote _ _ [p]).trans (.retire ..)).sb.trans (State.sb_setSb ..)

theorem store_waits (r : s.Ready h.val) (h8 : h.val < 8) (hp : s.Reaches h.val .write (hartAddr h va) size.bytes p) (hd : s.isDevice p = true)
    (ha : hartAddr h va % size.bytes = 0) (he : s.epochMode (clusterOf h.val) = false) (hl : (s.sb h.val).length < 64) :
    Completes (.store h va size data) s fun t => s.Stays t h.val ∧
      (t.hart h.val).dev = some (s.devStore h.val p (hartAddr h va) size.bytes (storeVal data size)) ∧
      (t.sb h.val).length = (s.sb h.val).length + 1 := by
  obtain ⟨u, hu, hgo⟩ := State.storeApp_waits (va := hartAddr h va) (n := size.bytes) (v := storeVal data size) h8 hd he hl
  generalize s.sbEntry h.val p (storeVal data size) = e at hgo
  generalize s.devStore h.val p (hartAddr h va) size.bytes (storeVal data size) = d at hgo ⊢
  have ex : Executing h.val [] s ((u.setSb h.val (s.sb h.val ++ [e])).updHart h.val fun t => { t with dev := some d }) :=
    (hu.executing.trans (.setSb ..)).trans (.updHart _ _ ⟨rfl, rfl, rfl, rfl, rfl, rfl⟩)
  refine store_completes r ((State.store_part (by omega) hp fun _ => ha).trans ((if_pos h8).trans hgo)) (ex.quiet r.toQuiet)
    ⟨ex.stays hu.mem, ?_, ?_⟩
  · rw [State.hart_updHart_self]
  · rw [State.sb, State.hart_updHart_self, ← List.length_singleton (a := e), ← List.length_append]
    exact congrArg List.length (State.sb_setSb u ..)

/-! ### Stores of the timekeepers and of the warden core (R288, R289, R353, R357, R358) -/

theorem State.storeGo_tk {h a n v : Nat} {ps : List Piece} (h8 : 8 ≤ h) (h12 : h < 12) : s.storeGo h a n v ps = s.storeTk h a n v ps := by
  unfold State.storeGo
  rw [if_neg (by omega), if_pos h12]

/-- A store past the caches has been performed, and the hart goes on. -/
theorem ArrayWritten.completes {t : State} {a : Nat} (r : s.Ready h.val) (w : ArrayWritten h.val s t a (storeVal data size) size.bytes)
    (hf : s.store h.val (hartAddr h va) size.bytes data.toNat = (t.smcNote h.val [p]).retire h.val) :
    Completes (.store h va size data) s fun t => s.Went t h.val ((s.hart h.val).pc + 4) [] ∧ t.bytesAt a size.bytes = storeVal data size ∧
      ∀ k, k < a ∨ a + size.bytes ≤ k → tabGet byteDefault t.mem.bytes k = tabGet byteDefault s.mem.bytes k := by
  have e : Executing h.val [] s (t.smcNote h.val [p]) := w.executing.trans (.smcNote ..)
  have hst : s.Stored ((t.smcNote h.val [p]).retire h.val) a (storeVal data size) size.bytes := w.stored.congr (by rw [State.mem_retire]; rfl)
  exact store_completes r hf (e.quiet r.toQuiet).retire ⟨e.went, hst.bytesAt.trans (storeVal_mod ..), hst.outside⟩

section
variable (r : s.Ready h.val) (h8 : 8 ≤ h.val) (h12 : h.val < 12) (hw : size.bytes ≠ 8 ∧ hartAddr h va % size.bytes = 0)
  (hp : s.Reaches h.val .write (hartAddr h va) size.bytes p)
include r h8 h12 hw hp

theorem store_ownLocal (hl : s.ownLocal h.val p.pa = true) : Completes (.store h va size data) s fun t =>
    s.Went t h.val ((s.hart h.val).pc + 4) [] ∧ t.bytesAt p.pa size.bytes = storeVal data size ∧
      ∀ k, k < p.pa ∨ p.pa + size.bytes ≤ k → tabGet byteDefault t.mem.bytes k = tabGet byteDefault s.mem.bytes k := by
  have hreg : arrayRegion (s.region p.pa) = true := State.arrayRegion_own (c := False) (.inl hl)
  refine (ArrayWritten.memWrite h.val s (s.hartReq h.val) (storeVal data size) size.bytes hreg).completes r (p := p) ?_
  rw [State.store_part (fun _ => hw) hp fun _ => hw.2, State.storeGo_tk h8 h12]
  exact if_pos hl

theorem store_writeBuffer (hl : s.ownLocal h.val p.pa = false) (hb : (s.hart h.val).wbuf.length < 4) :
    Completes (.store h va size data) s fun t =>
      (t.hart h.val).wbuf = (s.hart h.val).wbuf ++ [s.devStore h.val p (hartAddr h va) size.bytes (storeVal data size)] ∧ t.mem = s.mem ∧
      (s.isDevice p = false → s.Went t h.val ((s.hart h.val).pc + 4) []) ∧ (s.isDevice p = true → s.Stays t h.val) := by
  have hgo : s.store h.val (hartAddr h va) size.bytes data.toNat = s.storeTk h.val (hartAddr h va) size.bytes (storeVal data size) [p] :=
    (State.store_part (fun _ => hw) hp fun _ => hw.2).trans (State.storeGo_tk h8 h12)
  unfold State.storeTk at hgo
  dsimp only at hgo
  rw [hl, if_neg Bool.false_ne_true, if_neg (by omega)] at hgo
  have e : Executing h.val [] s (s.updHart h.val fun t =>
      { t with wbuf := t.wbuf ++ [⟨p.pa, hartAddr h va, size.bytes, storeVal data size, t.pc, s.hartWorld h.val, false⟩] }) :=
    .updHart s h.val ⟨rfl, rfl, rfl, rfl, rfl, rfl⟩
  cases hd : s.isDevice p with
  | true =>
    rw [hd, if_pos rfl] at hgo
    refine store_completes r hgo (e.quiet r.toQuiet) ⟨?_, rfl, by simp, fun _ => e.stays rfl⟩
    rw [State.hart_updHart_self]
    rfl
  | false =>
    rw [hd, if_neg Bool.false_ne_true] at hgo
    refine store_completes r hgo (e.quiet r.toQuiet).retire ⟨?_, State.mem_retire .., fun _ => e.went, by simp⟩
    rw [(Buffered.retire _ h.val).wbuf, State.hart_updHart_self]
    rfl

theorem store_writeBufferFull (hl : s.ownLocal h.val p.pa = false) (hb : 4 ≤ (s.hart h.val).wbuf.length) :
    Completes (.store h va size data) s fun t => t = s := by
  refine store_completes r ?_ r.toQuiet rfl
  rw [State.store_part (fun _ => hw) hp fun _ => hw.2, State.storeGo_tk h8 h12, State.storeTk]
  dsimp only
  rw [hl, if_neg Bool.false_ne_true, if_pos hb]

end

theorem store_warden (r : s.Ready h.val) (h12 : h.val = 12) (hw : size.bytes ≠ 8 ∧ hartAddr h va % size.bytes = 0)
    (hp : s.Reaches h.val .write (hartAddr h va) size.bytes p) (hg : s.region p.pa = .secSram) (hf : s.fenceOpen SEC = true) :
    Completes (.store h va size data) s fun t => s.Went t h.val ((s.hart h.val).pc + 4) [] ∧ t.bytesAt p.pa size.bytes = storeVal data size ∧
      ∀ k, k < p.pa ∨ p.pa + size.bytes ≤ k → tabGet byteDefault t.mem.bytes k = tabGet byteDefault s.mem.bytes k := by
  refine (ArrayWritten.memWrite h.val s ⟨.secure, hartSrc h.val, (s.hartReq h.val).port⟩ (a := p.pa) (storeVal data size) size.bytes
    (by rw [hg]; rfl)).completes r (p := p) ?_
  have hdw := State.deviceWrite_mem (h := h.val) (d := ⟨p.pa, hartAddr h va, size.bytes, storeVal data size, (s.hart h.val).pc, .secure, false⟩)
    (m := SEC) (by rw [hg]; rfl) (by rw [hg]; rfl) hf
  rw [State.store_part (fun _ => hw) hp fun _ => hw.2, State.storeGo, if_neg (by omega), if_neg (by omega), State.storeWarden, hdw]

end

/-! ### Entries leave the store buffer (R348, R350) -/

section
variable {h : Hart} {s : State} {e : SbEntry} {l : List SbEntry} {i : Nat}

theorem exec_storeBufferDrain (h : Hart) (i : Nat) (s : State) : exec (.storeBufferDrain h i) s =
    .next (if s.outOfReset APC && h.val < 8 then s.sbLeave h.val i else s) := rfl

theorem storeBufferDrain_runs (h8 : h.val < 8) (ho : s.outOfReset APC = true) {t : State} (ht : s.sbLeave h.val i = t) {P : State → Prop}
    (hP : P t) :
    Completes (.storeBufferDrain h i) s P :=
  .of ((exec_storeBufferDrain h i s).trans (congrArg _ ((if_pos (by simp [ho, h8])).trans ht))) hP

/-- The first entry leaves in any case. -/
theorem State.sbLeave_first {h : Nat} (hs : s.sb h = e :: l) :
    s.sbLeave h 0 = if e.device then s.setSb h l else (s.setSb h l).sbPerform h e := by
  unfold State.sbLeave
  rw [hs]
  rfl

theorem storeBufferDrain_device (h8 : h.val < 8) (ho : s.outOfReset APC = true) (hs : s.sb h.val = e :: l) (hd : e.device = true) :
    Completes (.storeBufferDrain h 0) s fun t => t.sb h.val = l ∧ t.mem = s.mem ∧ (t.hart h.val).dev = (s.hart h.val).dev := by
  refine storeBufferDrain_runs h8 ho ((State.sbLeave_first hs).trans (if_pos hd)) ⟨State.sb_setSb .., rfl, ?_⟩
  rw [State.setSb, State.hart_updHart_self]

theorem storeBufferDrain_line {v : L2Line} (h8 : h.val < 8) (ho : s.outOfReset APC = true) (hs : s.sb h.val = e :: l) (hd : e.device = false)
    (hn : e.nc = false) (hr : s.region (64 * e.line) = .dram) (he : s.epochMode (clusterOf h.val) = false) (ht : (s.dirAt e.line).txn = none)
    (hv : s.l2 h.val e.line = some v) (hst : v.st ≠ .s) : Completes (.storeBufferDrain h 0) s fun t =>
      t.sb h.val = l ∧ t.mem = s.mem ∧ t.l2 h.val e.line =
        some { v with st := .m, data := mergeBytes 64 e.mask e.data v.data, poison := v.poison && e.mask != fullMask } := by
  have hgo := State.lineWrite_hit (s := s.setSb h.val l) (mask := e.mask) (data := e.data) e.world h8 hr he ht hv hst
  rw [← hn] at hgo
  have hc := Tallied.core h.val (s.setSb h.val l) (i := 32) (by decide)
  refine storeBufferDrain_runs h8 ho ((State.sbLeave_first hs).trans ((if_neg (by simp [hd])).trans hgo)) ⟨?_, hc.mem, State.l2_setL2_self ..⟩
  exact hc.sb.trans (State.sb_setSb ..)

theorem storeBufferDrain_held {f : SbEntry} (h8 : h.val < 8) (ho : s.outOfReset APC = true) (hs : s.sb h.val = e :: l)
    (hi : (s.sb h.val)[i]? = some f) (hp : s.sbPasses h.val f e = false) (h0 : 0 < i) : Completes (.storeBufferDrain h i) s fun t => t = s := by
  have hall : ((s.sb h.val).take i).all (fun o => s.sbPasses h.val f o) = false := by
    obtain ⟨j, rfl⟩ := Nat.exists_eq_succ_of_ne_zero h0.ne'
    rw [hs, List.take_succ_cons, List.all_cons, hp, Bool.false_and]
  refine storeBufferDrain_runs h8 ho ?_ rfl
  unfold State.sbLeave
  rw [hi]
  dsimp only
  rw [hall, Bool.not_false, if_pos rfl]

end

/-! ### The acknowledgement of a device store (R353) -/

section
variable {h : Hart} {s : State} {d : DevStore}

theorem exec_deviceStoreAck (h : Hart) (s : State) : exec (.deviceStoreAck h) s =
    .next (if s.outOfReset APC && h.val < 8 then s.deviceAck h.val else s) := rfl

theorem deviceStoreAck_runs (h8 : h.val < 8) (ho : s.outOfReset APC = true) {t : State} (ht : s.deviceAck h.val = t) {P : State → Prop} (hP : P t) :
    Completes (.deviceStoreAck h) s P :=
  .of ((exec_deviceStoreAck h s).trans (congrArg _ ((if_pos (by simp [ho, h8])).trans ht))) hP

/-- The hart's device store has been answered. -/
def State.devTaken (s : State) (h : Nat) : State := s.updHart h fun t => { t with dev := none }

theorem Executing.devTaken (s : State) (h : Nat) : Executing h [] s (s.devTaken h) := .updHart s h ⟨rfl, rfl, rfl, rfl, rfl, rfl⟩

theorem State.dev_devTaken (s : State) (h : Nat) : ((s.devTaken h).hart h).dev = none := by rw [State.devTaken, State.hart_updHart_self]

/-- Whether a hart runs does not turn on its buffers. -/
theorem State.hartRuns_updHart (s : State) (h : Nat) {f : HartSt → HartSt} (hr : (f (s.hart h)).running = (s.hart h).running)
    (hh : (f (s.hart h)).halted = (s.hart h).halted) : (s.updHart h f).hartRuns h = s.hartRuns h := by
  unfold State.hartRuns
  rw [State.hart_updHart_self, hr, hh]
  rfl

section
variable {h : Nat} (hd : (s.hart h).dev = some d)
include hd

theorem State.deviceAck_waits (hb : (s.sb h).any (fun e => e.device) = true) : s.deviceAck h = s := by
  unfold State.deviceAck
  rw [hd]
  exact if_pos hb

theorem State.deviceAck_answered {t : State} {ok : Bool} (hb : (s.sb h).any (fun e => e.device) = false)
    (hw : (s.devTaken h).deviceWrite h d = (t, ok)) : s.deviceAck h =
      if d.orphan || !t.hartRuns h then t else (if ok then t.retire h else t.accessFault h true d.vaddr).afterInstr h (s.hart h) := by
  unfold State.devTaken at hw
  unfold State.deviceAck
  rw [hd]
  dsimp only
  rw [hb, if_neg Bool.false_ne_true, hw]

end

theorem State.deviceWrite_window (hw : s.isWindow d.addr = true) {v : RegVerdict}
    (hj : s.winJudge (.hart h) (s.hartSlice h.val) true d.addr d.size = v)
    (hv : ∀ st, v ≠ .refuse st) : s.deviceWrite h.val d =
      if v = .ok then (s.winWrite (.hart h) (s.hartSlice h.val) d.addr d.size d.data, true) else (s, false) := by
  unfold State.deviceWrite
  dsimp only
  rw [if_pos hw, ofNat_hart, hj]
  cases v with
  | ok => rfl
  | bad => rfl
  | refuse st => exact absurd rfl (hv st)

section
variable (h8 : h.val < 8) (ho : s.outOfReset APC = true) (hd : (s.hart h.val).dev = some d)
include h8 ho hd

theorem deviceStoreAck_waits (hb : (s.sb h.val).any (fun e => e.device) = true) : Completes (.deviceStoreAck h) s fun t => t = s :=
  deviceStoreAck_runs h8 ho (State.deviceAck_waits hd hb) rfl

variable (hb : (s.sb h.val).any (fun e => e.device) = false)
include hb

theorem deviceStoreAck_orphan (hw : s.isWindow d.addr = true)
    (hj : (s.devTaken h.val).winJudge (.hart h) ((s.devTaken h.val).hartSlice h.val) true d.addr d.size = .ok) (hor : d.orphan = true) :
    Completes (.deviceStoreAck h) s fun t =>
      t = (s.devTaken h.val).winWrite (.hart h) ((s.devTaken h.val).hartSlice h.val) d.addr d.size d.data := by
  have hdw := State.deviceWrite_window (s := s.devTaken h.val) hw hj fun _ => by simp
  exact deviceStoreAck_runs h8 ho ((State.deviceAck_answered hd hb (hdw.trans (if_pos rfl))).trans (if_pos (by simp [hor]))) rfl

variable (hor : d.orphan = false) (hr : s.hartRuns h.val = true) (q : s.Quiet h.val)
include hor hr q

theorem deviceStoreAck_faults (hw : s.isWindow d.addr = true)
    (hj : (s.devTaken h.val).winJudge (.hart h) ((s.devTaken h.val).hartSlice h.val) true d.addr d.size = .bad) :
    Completes (.deviceStoreAck h) s fun t => s.Took t h.val false 7 d.vaddr ∧ (t.hart h.val).dev = none := by
  have hdw := State.deviceWrite_window (s := s.devTaken h.val) hw hj fun _ => by simp
  have hrun : (s.devTaken h.val).hartRuns h.val = true := (s.hartRuns_updHart h.val rfl rfl).trans hr
  have st : Standing h.val s (s.devTaken h.val) := .updHart s h.val ⟨rfl, rfl, rfl, rfl, rfl, rfl⟩
  refine deviceStoreAck_runs h8 ho ((State.deviceAck_answered hd hb (hdw.trans (if_neg (by simp)))).trans ((if_neg (by simp [hor, hrun])).trans
    (((st.quiet q).accessFault true d.vaddr).afterInstr _))) ⟨st.took (State.accessFault_took ..), ?_⟩
  exact (Buffered.trap ..).dev.trans (s.dev_devTaken h.val)

theorem deviceStoreAck_retires (hg : s.region d.addr = .pcie) (hf : s.fenceOpen HST = true) : Completes (.deviceStoreAck h) s fun t =>
    s.Went t h.val ((s.hart h.val).pc + 4) [] ∧ (t.hart h.val).dev = none ∧ t.mem = s.mem := by
  have hg' : (s.devTaken h.val).region d.addr = .pcie := hg
  have hdw := State.deviceWrite_mem (s := s.devTaken h.val) (d := d) (h := h.val) (m := HST) (by rw [hg']; rfl) (by rw [hg']; rfl) hf
  rw [State.memWrite_pcie _ _ _ hg'] at hdw
  have hrun : (s.devTaken h.val).hartRuns h.val = true := (s.hartRuns_updHart h.val rfl rfl).trans hr
  have e := Executing.devTaken s h.val
  refine deviceStoreAck_runs h8 ho ((State.deviceAck_answered hd hb hdw).trans ((if_neg (by simp [hor, hrun])).trans
    ((e.quiet q).retire.afterInstr _))) ⟨e.went, (Buffered.retire ..).dev.trans (s.dev_devTaken h.val), State.mem_retire ..⟩

end

end

/-! ### The drain of a timekeeper's write buffer (R289, R357) -/

section
variable {n : TkCore} {s : State} {d : DevStore} {l : List DevStore}

theorem exec_tkWriteBufferDrain (n : TkCore) (s : State) : exec (.tkWriteBufferDrain n) s =
    .next (if s.outOfReset TKD then s.wbufDrain (8 + n.val) else s) := rfl

theorem tkWriteBufferDrain_runs (ho : s.outOfReset TKD = true) {t : State} (ht : s.wbufDrain (8 + n.val) = t) {P : State → Prop} (hP : P t) :
    Completes (.tkWriteBufferDrain n) s P :=
  .of ((exec_tkWriteBufferDrain n s).trans (congrArg _ ((if_pos ho).trans ht))) hP

/-- The oldest store has left the write buffer of hart `h`. -/
def State.wbufTaken (s : State) (h : Nat) (l : List DevStore) : State := s.updHart h fun t => { t with wbuf := l }

theorem Executing.wbufTaken (s : State) (h : Nat) (l : List DevStore) : Executing h [] s (s.wbufTaken h l) :=
  .updHart s h ⟨rfl, rfl, rfl, rfl, rfl, rfl⟩

theorem State.wbuf_wbufTaken (s : State) (h : Nat) (l : List DevStore) : ((s.wbufTaken h l).hart h).wbuf = l := by
  rw [State.wbufTaken, State.hart_updHart_self]

theorem State.wbufDrain_nil {h : Nat} (hb : (s.hart h).wbuf = []) : s.wbufDrain h = s := by
  unfold State.wbufDrain
  rw [hb]

theorem State.wbufDrain_cons {h : Nat} {t : State} (hb : (s.hart h).wbuf = d :: l) (hw : (s.wbufTaken h l).deviceWrite h d = (t, true)) :
    s.wbufDrain h = if d.orphan || !regionIo (s.region d.addr) || !t.hartRuns h then t else (t.retire h).afterInstr h (s.hart h) := by
  unfold State.wbufTaken at hw
  unfold State.wbufDrain
  rw [hb]
  dsimp only
  rw [hw]
  rfl

theorem tkWriteBufferDrain_stores {w o : Nat} (ho : s.outOfReset TKD = true) (hb : (s.hart (8 + n.val)).wbuf = d :: l)
    (hg : s.region d.addr = .scratch w o) (hf : s.fenceOpen MEM = true) : Completes (.tkWriteBufferDrain n) s fun t =>
      (t.hart (8 + n.val)).wbuf = l ∧ t.bytesAt d.addr d.size = d.data % 2 ^ (8 * d.size) ∧ (t.hart (8 + n.val)).pc = (s.hart (8 + n.val)).pc ∧
      ∀ k, k < d.addr ∨ d.addr + d.size ≤ k → tabGet byteDefault t.mem.bytes k = tabGet byteDefault s.mem.bytes k := by
  have hg' : (s.wbufTaken (8 + n.val) l).region d.addr = .scratch w o := hg
  have hdw := State.deviceWrite_mem (s := s.wbufTaken (8 + n.val) l) (d := d) (h := 8 + n.val) (m := MEM) (by rw [hg']; rfl) (by rw [hg']; rfl) hf
  have aw := ArrayWritten.memWrite (8 + n.val) (s.wbufTaken (8 + n.val) l) ⟨d.world, hartSrc (8 + n.val), (s.hartReq (8 + n.val)).port⟩
    d.data d.size (by rw [hg']; rfl)
  refine tkWriteBufferDrain_runs ho ((State.wbufDrain_cons hb hdw).trans (if_pos (by rw [hg]; simp [regionIo])))
    ⟨aw.buffered.wbuf.trans (s.wbuf_wbufTaken ..), aw.stored.bytesAt, aw.executing.pc.trans (Executing.wbufTaken ..).pc, aw.stored.outside⟩

theorem tkWriteBufferDrain_retires (ho : s.outOfReset TKD = true) (hb : (s.hart (8 + n.val)).wbuf = d :: l) (hg : s.region d.addr = .pcie)
    (hf : s.fenceOpen HST = true) (hor : d.orphan = false) (hr : s.hartRuns (8 + n.val) = true) (q : s.Quiet (8 + n.val)) :
    Completes (.tkWriteBufferDrain n) s fun t =>
      (t.hart (8 + n.val)).wbuf = l ∧ s.Went t (8 + n.val) ((s.hart (8 + n.val)).pc + 4) [] := by
  have hg' : (s.wbufTaken (8 + n.val) l).region d.addr = .pcie := hg
  have hdw := State.deviceWrite_mem (s := s.wbufTaken (8 + n.val) l) (d := d) (h := 8 + n.val) (m := HST) (by rw [hg']; rfl) (by rw [hg']; rfl) hf
  rw [State.memWrite_pcie _ _ _ hg'] at hdw
  have hrun : (s.wbufTaken (8 + n.val) l).hartRuns (8 + n.val) = true := (s.hartRuns_updHart (8 + n.val) rfl rfl).trans hr
  have e := Executing.wbufTaken s (8 + n.val) l
  refine tkWriteBufferDrain_runs ho ((State.wbufDrain_cons hb hdw).trans ((if_neg (by rw [hg]; simp [regionIo, hor, hrun])).trans
    ((e.quiet q).retire.afterInstr _))) ⟨(Buffered.retire ..).wbuf.trans (s.wbuf_wbufTaken ..), e.went⟩

end

/-- Settles O35, by the core that stores and what takes the store. -/
theorem storesComplete : Obligations.StoresComplete := by
  refine ⟨fun h s va data size r => ?_, fun h s e l h8 ho hs => ⟨storeBufferDrain_device h8 ho hs,
    fun v hd hn hr he ht hv hst => storeBufferDrain_line h8 ho hs hd hn hr he ht hv hst,
    fun i f hi hp h0 => storeBufferDrain_held h8 ho hs hi hp h0⟩,
    fun h s d h8 ho hd => ⟨deviceStoreAck_waits h8 ho hd, fun hb hw => ⟨deviceStoreAck_orphan h8 ho hd hb hw,
      fun hj hor hr q => deviceStoreAck_faults h8 ho hd hb hor hr q hw hj⟩,
      fun hb hg hf hor hr q => deviceStoreAck_retires h8 ho hd hb hor hr q hg hf⟩,
    fun n s ho => ⟨fun hb => tkWriteBufferDrain_runs ho (State.wbufDrain_nil hb) rfl, fun d l w o hb => tkWriteBufferDrain_stores ho hb,
      fun d l hb => tkWriteBufferDrain_retires ho hb⟩⟩
  have still := Standing.refl h.val s
  refine ⟨fun h8 hn => store_traps r (State.store_absent h8 hn) still, fun h8 hn ha => store_traps r (State.store_misaligned h8 hn ha) still,
    fun c tv hw hp => store_traps r ((State.store_parts hw).trans (State.withPieces_error hp)) still,
    fun pa b hw hparts => ⟨fun u tv hc hd => ?_, fun hc => ?_⟩⟩
  · exact store_traps r ((State.store_parts hw).trans (State.withPieces_refused hparts hc hd (by simp))) (State.piecesCheck_refused hc).standing
  have hp : s.Reaches h.val .write (hartAddr h va) size.bytes ⟨hartAddr h va, pa, size.bytes, b⟩ := ⟨hparts, hc⟩
  refine ⟨fun h8 hd hs => ?_, fun h8 hd ha he hl => store_waits r h8 hp hd ha he hl, fun h8 h12 hd hl => store_ownLocal r h8 h12 (hw h8) hp hl,
    fun h8 h12 hl hb => store_writeBuffer r h8 h12 (hw h8) hp hl hb, fun h8 h12 hl hb => store_writeBufferFull r h8 h12 (hw h8) hp hl hb,
    fun h12 hg hf => store_warden r h12 (hw (by omega)) hp hg hf⟩
  have hb := store_buffers (data := data) r h8 hp rfl hd hs
  simpa only [State.sbEntry, hd, storeVal_mod] using hb

end Sys2Proof.Machine
end

section
/-! Atomics and `cbo.zero` on a line that the core's L2 may write (R274, R303, R329, R348, R362, R378). -/

namespace Sys2Proof.Machine

open Sys2Proof

/-! ### A line of DRAM in the core's L2 -/

section
variable {s t u : State} {h pa : Nat} {v : L2Line}

theorem State.region_dram_iff {a : Nat} : s.region a = .dram ↔ dramBase ≤ a ∧ a < dramEnd := by
  unfold State.region within scratchBase dramBase dramEnd
  simp only [Bool.and_eq_true, decide_eq_true_eq]
  constructor
  · intro hr
    by_contra hn
    rw [if_neg hn] at hr
    revert hr
    repeat' split
    all_goals exact nofun
  · rintro ⟨hlo, hhi⟩
    rw [if_neg (by omega), if_neg (by omega), if_neg (by omega), if_neg (by omega), if_neg (by omega), if_neg (by omega), if_neg (by omega),
      if_neg (by omega), if_pos ⟨hlo, hhi⟩]

/-- DRAM is whole lines. -/
theorem State.region_lineStart (hr : s.region pa = .dram) : s.region (64 * (pa / 64)) = .dram := by
  rw [State.region_dram_iff, dramBase, dramEnd] at hr ⊢
  omega

/-- Application core `h` holds the line of `pa` in DRAM as `v`, outside epoch mode, with nothing open on it and nothing in its store buffer. -/
structure State.HoldsLine (s : State) (h pa : Nat) (v : L2Line) : Prop where
  core : h < 8
  dram : s.region pa = .dram
  progress : s.epochMode (clusterOf h) = false
  idle : (s.dirAt (pa / 64)).txn = none
  drained : s.sb h = []
  held : s.l2 h (pa / 64) = some v

theorem Tallied.holdsLine (p : Tallied h s t) (k : s.HoldsLine h pa v) : t.HoldsLine h pa v where
  core := k.core
  dram := (p.region pa).trans k.dram
  progress := (p.epochMode (by have := k.core; unfold clusterOf; omega)).trans k.progress
  idle := by rw [p.dirAt, k.idle]
  drained := p.sb.trans k.drained
  held := (p.l2 ..).trans k.held

theorem State.HoldsLine.notDevice (k : s.HoldsLine h pa v) (a n : Nat) : s.isDevice ⟨a, pa, n, 0⟩ = false := by
  unfold State.isDevice
  rw [k.dram]
  rfl

theorem State.HoldsLine.normalRead (k : s.HoldsLine h pa v) (a n : Nat) :
    s.normalRead h ⟨a, pa, n, 0⟩ = (s.coreCount h 32, bitsOf v.data (8 * (pa % 64)) (8 * n), v.poison) :=
  State.normalRead_dram k.core k.dram (by simp) k.idle k.held

/-- The line after a write of the bytes `mask` names. -/
def L2Line.written (v : L2Line) (mask data : Nat) : L2Line :=
  { v with st := .m, data := mergeBytes 64 mask data v.data, poison := v.poison && mask != fullMask }

theorem State.HoldsLine.lineWrite (k : s.HoldsLine h pa v) (hs : v.st ≠ .s) (w : World) (mask data : Nat) :
    s.lineWrite h w false (pa / 64) mask data = (s.coreCount h 32).setL2 h (pa / 64) (some (v.written mask data)) :=
  State.lineWrite_hit w k.core (State.region_lineStart k.dram) k.progress k.idle k.held hs

/-- From `s` to `t` core `h` has written the line of `pa`, which its L2 holds as `v` now. -/
structure LineWritten (h pa : Nat) (v : L2Line) (s t : State) : Prop where
  executing : Executing h [] s t
  mem : t.mem = s.mem
  line : t.l2 h (pa / 64) = some v

theorem State.HoldsLine.written (k : s.HoldsLine h pa v) (hs : v.st ≠ .s) (w : World) (mask data : Nat) :
    LineWritten h pa (v.written mask data) s (s.lineWrite h w false (pa / 64) mask data) := by
  have hc := Tallied.core h s (i := 32) (by decide)
  rw [k.lineWrite hs]
  exact ⟨hc.executing.trans (.aside rfl rfl), hc.mem, State.l2_setL2_self ..⟩

theorem State.HoldsLine.atomicWrite (k : s.HoldsLine h pa v) (hs : v.st ≠ .s) (a n x : Nat) :
    LineWritten h pa (v.written (lineMask pa n) (x % 2 ^ (8 * n) * 2 ^ (8 * (pa % 64)))) s (s.atomicWrite h ⟨a, pa, n, 0⟩ x) := by
  unfold State.atomicWrite
  dsimp only
  rw [k.dram]
  exact k.written hs ..

/-! ### The end of an atomic -/

/-- From `s` to `t` the L2 caches and memory are as they were, and so is the reservation of hart `h`. -/
structure Settled (h : Nat) (s t : State) : Prop where
  l2 : t.cpu.l2 = s.cpu.l2
  mem : t.mem = s.mem
  resv : (t.hart h).resv = (s.hart h).resv

theorem Settled.trans (p : Settled h s t) (q : Settled h t u) : Settled h s u := ⟨q.l2.trans p.l2, q.mem.trans p.mem, q.resv.trans p.resv⟩

theorem Settled.updHart (s : State) (h : Nat) {f : HartSt → HartSt} (hf : (f (s.hart h)).resv = (s.hart h).resv) : Settled h s (s.updHart h f) :=
  ⟨rfl, rfl, by rw [State.hart_updHart_self, hf]⟩

theorem Counted.settled (c : Counted h s t) : Settled h s t := ⟨by rw [c.rest], by rw [c.rest], by rw [c.hart]⟩

theorem Settled.setX (s : State) (h r x : Nat) : Settled h s (s.setX h r x) := by
  refine ⟨?_, State.mem_setX .., by rw [State.hart_setX]⟩
  unfold State.setX
  split <;> rfl

theorem Settled.retire (s : State) (h : Nat) : Settled h s (s.retire h) := by
  unfold State.retire State.retireTo
  exact (Counted.retired h s).settled.trans (.updHart _ h rfl)

theorem Settled.smcNote (s : State) (h : Nat) (ps : List Piece) : Settled h s (s.smcNote h ps) := by
  unfold State.smcNote
  exact .updHart s h rfl

theorem Settled.line (p : Settled h s t) (c l : Nat) : t.l2 c l = s.l2 c l := by rw [State.l2, p.l2, State.l2]

/-- An atomic ends: `rd` is written, an event is counted, and it retires. -/
def State.atomicEnd (s : State) (h rd x i : Nat) : State := ((s.setX h rd x).coreCount h i).retire h

theorem Settled.atomicEnd (s : State) (h rd x i : Nat) : Settled h s (s.atomicEnd h rd x i) :=
  (Settled.setX s h rd x).trans ((Counted.core h _ i).settled.trans (.retire _ h))

theorem State.xreg_atomicEnd (s : State) {h rd : Nat} (x i : Nat) (h0 : rd ≠ 0) : (s.atomicEnd h rd x i).xreg h rd = x % 2 ^ hartXlen h :=
  (State.xreg_retire ..).trans (((Counted.core h (s.setX h rd x) i).executing.x rd List.not_mem_nil).trans ((State.xreg_setX ..).trans (if_neg h0)))

theorem Executing.atomicEnd (e : Executing h [] s t) (q : s.Quiet h) (rd x i : Nat) :
    s.Went (t.atomicEnd h rd x i) h ((s.hart h).pc + 4) [rd] ∧ (t.atomicEnd h rd x i).Quiet h := by
  have es : Executing h [rd] s ((t.setX h rd x).coreCount h i) :=
    .trans ⟨e.pc, e.pos, e.priv, e.world, fun r _ => e.x r List.not_mem_nil, e.dbgm, e.csr⟩
      ((Executing.setX t x (List.mem_singleton.mpr rfl)).trans (Counted.core h _ i).executing)
  exact ⟨es.went, (es.quiet q).retire⟩

end

/-! ### An atomic before its operation -/

section
variable {s : State} {h a n pa : Nat} {k : AccKind} {f : Piece → State → State} {v : L2Line}

theorem State.atomic_illegal (hn : 8 ≤ h ∨ ¬ (n = 4 ∨ n = 8)) : s.atomic h k a n f = s.illegal h := by
  unfold State.atomic
  rw [if_pos (by simpa [not_or] using hn)]

theorem State.atomic_misaligned (h8 : h < 8) (hn : n = 4 ∨ n = 8) (ha : a % n ≠ 0) :
    s.atomic h k a n f = s.exception h (if k == .read then excLoadMisaligned else excStoreMisaligned) a := by
  unfold State.atomic
  rw [if_neg (by rcases hn with rfl | rfl <;> simpa using h8), if_pos (by simp [ha])]

theorem State.HoldsLine.atomic (l : s.HoldsLine h pa v) (hn : n = 4 ∨ n = 8) (ha : a % n = 0) (hk : k ≠ .exec)
    (hp : s.Reaches h k a n ⟨a, pa, n, 0⟩) : s.atomic h k a n f = f ⟨a, pa, n, 0⟩ s := by
  have hreg : s.atomicRegion ⟨a, pa, n, 0⟩ = true := by
    unfold State.atomicRegion
    rw [l.dram]
    rfl
  have hd := l.notDevice a n
  unfold State.atomic
  rw [if_neg (by rcases hn with rfl | rfl <;> simpa using l.core), if_neg (by simp [ha]),
    State.withPieces_goes hp.parts hp.passed (by simp [hd]) (by simp [hk])]
  dsimp only
  rw [hreg, if_pos rfl, State.sbWait_nil l.drained]

end

section
variable {h : Hart} {s : State} {va src : Word} {size : AccSize} {rd : RegIdx} {op : AmoOp}

theorem exec_amo (s : State) : exec (.amo h op va size rd src) s = .next (s.instr h.val (State.accessed h.val .write va.toNat
    fun t => t.amo h.val op va.toNat size.bytes rd.val src.toNat)) := rfl

theorem exec_loadReserved (s : State) : exec (.loadReserved h va size rd) s = .next (s.instr h.val (State.accessed h.val .read va.toNat
    fun t => t.loadReserved h.val va.toNat size.bytes rd.val)) := rfl

theorem exec_storeConditional (s : State) : exec (.storeConditional h va size rd src) s = .next (s.instr h.val
    (State.accessed h.val .write va.toNat fun t => t.storeConditional h.val va.toNat size.bytes rd.val src.toNat)) := rfl

theorem exec_cboZero (s : State) : exec (.cboZero h va) s = .next (s.instr h.val (State.accessed h.val .write va.toNat
    fun t => t.cboZero h.val va.toNat)) := rfl

end

section
variable {s t : State} {h a code tval : Nat} {k : AccKind} {c : Instr} {f : State → State}

theorem State.Ready.access (r : s.Ready h) (hc : exec c s = .next (s.instr h (State.accessed h k a f))) (hf : f s = t) (q : t.Quiet h)
    {P : State → Prop} (hP : P t) : Completes c s P := r.completes hc ((r.toQuiet.accessed ..).trans hf) q hP

theorem State.Ready.access_traps (r : s.Ready h) (hc : exec c s = .next (s.instr h (State.accessed h k a f))) (hf : f s = s.exception h code tval) :
    Completes c s fun t => s.Took t h false code tval := r.completes_trap hc ((r.toQuiet.accessed ..).trans hf) (.refl h s)

end

/-! ### The atomics, one at a time -/

section
variable {h : Hart} {s : State} {va src : Word} {size : AccSize} {rd : RegIdx} {op : AmoOp} {pa : Nat} {v : L2Line}

theorem atomics_illegal (r : s.Ready h.val) (hn : 8 ≤ h.val ∨ ¬ (size.bytes = 4 ∨ size.bytes = 8)) :
    ∀ i ∈ [Instr.amo h op va size rd src, .loadReserved h va size rd, .storeConditional h va size rd src],
      Completes i s fun t => s.Took t h.val false 2 0 := by
  simp only [List.forall_mem_cons, List.not_mem_nil, false_implies, implies_true, and_true]
  exact ⟨r.access_traps (exec_amo s) (State.atomic_illegal hn), r.access_traps (exec_loadReserved s) (State.atomic_illegal hn),
    r.access_traps (exec_storeConditional s) (State.atomic_illegal hn)⟩

section
variable (r : s.Ready h.val) (h8 : h.val < 8) (hn : size.bytes = 4 ∨ size.bytes = 8) (ha : va.toNat % size.bytes ≠ 0)
include r h8 hn ha

theorem loadReserved_misaligned : Completes (.loadReserved h va size rd) s fun t => s.Took t h.val false 4 va.toNat :=
  r.access_traps (exec_loadReserved s) (State.atomic_misaligned h8 hn ha)

theorem atomics_misaligned : ∀ i ∈ [Instr.amo h op va size rd src, .storeConditional h va size rd src],
    Completes i s fun t => s.Took t h.val false 6 va.toNat := by
  simp only [List.forall_mem_cons, List.not_mem_nil, false_implies, implies_true, and_true]
  exact ⟨r.access_traps (exec_amo s) (State.atomic_misaligned h8 hn ha),
    r.access_traps (exec_storeConditional s) (State.atomic_misaligned h8 hn ha)⟩

end

section
variable (r : s.Ready h.val) (l : s.HoldsLine h.val pa v) (hn : size.bytes = 4 ∨ size.bytes = 8) (ha : va.toNat % size.bytes = 0)
include r l hn ha

theorem loadReserved_reserves (hv : v.poison = false) (hp : s.Reaches h.val .read va.toNat size.bytes ⟨va.toNat, pa, size.bytes, 0⟩) :
    Completes (.loadReserved h va size rd) s fun t => (s.Went t h.val ((s.hart h.val).pc + 4) [rd.val] ∧ t.mem = s.mem) ∧
      (rd.val ≠ 0 → t.xreg h.val rd.val =
        loadExt h.val size.bytes true (bitsOf v.data (8 * (pa % 64)) (8 * size.bytes)) % 2 ^ hartXlen h.val) ∧
      (t.hart h.val).resv = some (pa / 64) := by
  have hc := Tallied.core h.val s (i := 32) (by decide)
  generalize hx : loadExt h.val size.bytes true (bitsOf v.data (8 * (pa % 64)) (8 * size.bytes)) = x
  have hgo : s.loadReserved h.val va.toNat size.bytes rd.val =
      (((s.coreCount h.val 32).updHart h.val fun k => { k with resv := some (pa / 64) }).setX h.val rd.val x).retire h.val := by
    refine (l.atomic hn ha (by simp) hp).trans ?_
    rw [l.normalRead, hv, ← hx]
  have e : Executing h.val [rd.val] s (((s.coreCount h.val 32).updHart h.val fun k => { k with resv := some (pa / 64) }).setX h.val rd.val x) :=
    (hc.executing.trans (.updHart _ _ ⟨rfl, rfl, rfl, rfl, rfl, rfl⟩)).trans (.setX _ _ (List.mem_singleton.mpr rfl))
  have st := (Settled.setX ((s.coreCount h.val 32).updHart h.val fun k => { k with resv := some (pa / 64) }) h.val rd.val x).trans (.retire _ _)
  refine r.access (exec_loadReserved s) hgo (e.quiet r.toQuiet).retire ⟨⟨e.went, st.mem.trans hc.mem⟩, State.xreg_setX_retire _ _ _,
    st.resv.trans ?_⟩
  rw [State.hart_updHart_self]

variable (hp : s.Reaches h.val .write va.toNat size.bytes ⟨va.toNat, pa, size.bytes, 0⟩)
include hp

theorem amo_completes (hv : v.poison = false) (hs : v.st ≠ .s) : Completes (.amo h op va size rd src) s fun t =>
    (s.Went t h.val ((s.hart h.val).pc + 4) [rd.val] ∧ t.mem = s.mem) ∧
      (rd.val ≠ 0 → t.xreg h.val rd.val =
        loadExt h.val size.bytes true (bitsOf v.data (8 * (pa % 64)) (8 * size.bytes)) % 2 ^ hartXlen h.val) ∧
      t.l2 h.val (pa / 64) = some (v.written (lineMask pa size.bytes)
        (amoVal op (8 * size.bytes) (bitsOf v.data (8 * (pa % 64)) (8 * size.bytes)) src.toNat % 2 ^ (8 * size.bytes) * 2 ^ (8 * (pa % 64)))) := by
  have hc := Tallied.core h.val s (i := 32) (by decide)
  generalize hold : bitsOf v.data (8 * (pa % 64)) (8 * size.bytes) = old
  have w := (hc.holdsLine l).atomicWrite hs va.toNat size.bytes (amoVal op (8 * size.bytes) old src.toNat)
  generalize hu : (s.coreCount h.val 32).atomicWrite h.val ⟨va.toNat, pa, size.bytes, 0⟩ (amoVal op (8 * size.bytes) old src.toNat) = u at w
  have hgo : s.amo h.val op va.toNat size.bytes rd.val src.toNat =
      (u.smcNote h.val [⟨va.toNat, pa, size.bytes, 0⟩]).atomicEnd h.val rd.val (loadExt h.val size.bytes true old) 48 := by
    refine (l.atomic hn ha (by simp) hp).trans ?_
    rw [l.normalRead, hv, hold]
    dsimp only
    rw [hu]
    rfl
  have e : Executing h.val [] s (u.smcNote h.val [⟨va.toNat, pa, size.bytes, 0⟩]) := (hc.executing.trans w.executing).trans (.smcNote ..)
  have st := (Settled.smcNote u h.val [⟨va.toNat, pa, size.bytes, 0⟩]).trans (.atomicEnd _ h.val rd.val (loadExt h.val size.bytes true old) 48)
  obtain ⟨hwent, hq⟩ := e.atomicEnd r.toQuiet rd.val (loadExt h.val size.bytes true old) 48
  exact r.access (exec_amo s) hgo hq ⟨⟨hwent, st.mem.trans (w.mem.trans hc.mem)⟩, State.xreg_atomicEnd _ _ _, (st.line ..).trans w.line⟩

/-- A hart's reservation is gone. -/
def State.resvCleared (s : State) (h : Nat) : State := s.updHart h fun k => { k with resv := none }

omit r l hn ha hp in
theorem Executing.resvCleared (s : State) (h : Nat) : Executing h [] s (s.resvCleared h) := .updHart s h ⟨rfl, rfl, rfl, rfl, rfl, rfl⟩

omit r l hn ha hp in
theorem State.resv_resvCleared (s : State) (h : Nat) : ((s.resvCleared h).hart h).resv = none := by rw [State.resvCleared, State.hart_updHart_self]

theorem storeConditional_writes (hv : v.poison = false) (hs : v.st ≠ .s) (hr : (s.hart h.val).resv = some (pa / 64)) :
    Completes (.storeConditional h va size rd src) s fun t =>
      (s.Went t h.val ((s.hart h.val).pc + 4) [rd.val] ∧ t.mem = s.mem) ∧ (rd.val ≠ 0 → t.xreg h.val rd.val = 0) ∧
      t.l2 h.val (pa / 64) =
        some (v.written (lineMask pa size.bytes) (src.toNat % 2 ^ (8 * size.bytes) * 2 ^ (8 * (pa % 64)))) ∧ (t.hart h.val).resv = none := by
  have hc := Tallied.core h.val s (i := 32) (by decide)
  have w := (hc.holdsLine l).atomicWrite hs va.toNat size.bytes src.toNat
  generalize hu : (s.coreCount h.val 32).atomicWrite h.val ⟨va.toNat, pa, size.bytes, 0⟩ src.toNat = u at w
  have hgo : s.storeConditional h.val va.toNat size.bytes rd.val src.toNat =
      ((u.resvCleared h.val).smcNote h.val [⟨va.toNat, pa, size.bytes, 0⟩]).atomicEnd h.val rd.val 0 46 := by
    refine (l.atomic hn ha (by simp) hp).trans ?_
    dsimp only
    rw [hr, if_neg (by simp), l.normalRead, hv]
    dsimp only
    rw [hu]
    rfl
  have e : Executing h.val [] s ((u.resvCleared h.val).smcNote h.val [⟨va.toNat, pa, size.bytes, 0⟩]) :=
    ((hc.executing.trans w.executing).trans (.resvCleared u h.val)).trans (.smcNote ..)
  have st := (Settled.smcNote (u.resvCleared h.val) h.val [⟨va.toNat, pa, size.bytes, 0⟩]).trans (.atomicEnd _ h.val rd.val 0 46)
  obtain ⟨hwent, hq⟩ := e.atomicEnd r.toQuiet rd.val 0 46
  exact r.access (exec_storeConditional s) hgo hq ⟨⟨hwent, st.mem.trans (w.mem.trans hc.mem)⟩,
    fun h0 => (State.xreg_atomicEnd _ _ _ h0).trans (Nat.zero_mod _), (st.line ..).trans w.line, st.resv.trans (u.resv_resvCleared h.val)⟩

theorem storeConditional_fails (hr : (s.hart h.val).resv ≠ some (pa / 64)) : Completes (.storeConditional h va size rd src) s fun t =>
    (s.Went t h.val ((s.hart h.val).pc + 4) [rd.val] ∧ t.mem = s.mem) ∧ (rd.val ≠ 0 → t.xreg h.val rd.val = 1) ∧
      t.cpu.l2 = s.cpu.l2 ∧ (t.hart h.val).resv = none := by
  have hgo : s.storeConditional h.val va.toNat size.bytes rd.val src.toNat = (s.resvCleared h.val).atomicEnd h.val rd.val 1 47 :=
    (l.atomic hn ha (by simp) hp).trans (if_pos (by simpa using hr))
  have st := Settled.atomicEnd (s.resvCleared h.val) h.val rd.val 1 47
  obtain ⟨hwent, hq⟩ := (Executing.resvCleared s h.val).atomicEnd r.toQuiet rd.val 1 47
  have hone : 1 % 2 ^ hartXlen h.val = 1 := Nat.mod_eq_of_lt (Nat.one_lt_two_pow (by unfold hartXlen; split <;> decide))
  exact r.access (exec_storeConditional s) hgo hq
    ⟨⟨hwent, st.mem⟩, fun h0 => (State.xreg_atomicEnd _ _ _ h0).trans hone, st.l2, st.resv.trans (s.resv_resvCleared h.val)⟩

end

/-! ### `cbo.zero` (R378) -/

theorem mergeBytes_zero (n d : Nat) : mergeBytes n (2 ^ n - 1) 0 d = 0 := by
  induction n generalizing d with
  | zero => rfl
  | succ n ih =>
    have hodd : (2 ^ (n + 1) - 1) % 2 = 1 := by have := Nat.two_pow_pos n; omega
    have hhalf : (2 ^ (n + 1) - 1) / 2 = 2 ^ n - 1 := by have := Nat.two_pow_pos n; omega
    rw [mergeBytes, hodd, hhalf, Nat.zero_div, ih]
    rfl

theorem cboZero_absent (r : s.Ready h.val) (h8 : 8 ≤ h.val) : Completes (.cboZero h va) s fun t => s.Took t h.val false 2 0 :=
  r.access_traps (exec_cboZero s) (if_pos h8)

theorem cboZero_disabled (r : s.Ready h.val) (h8 : h.val < 8) {c : Nat} (hc : s.cbzeFault h.val = some c) :
    Completes (.cboZero h va) s fun t => s.Took t h.val false c 0 := by
  refine r.access_traps (exec_cboZero s) ?_
  rw [State.cboZero, if_neg (by omega), hc]

theorem cboZero_zeroes (r : s.Ready h.val) (l : s.HoldsLine h.val pa v) (hs : v.st ≠ .s) (hc : s.cbzeFault h.val = none)
    (hp : s.Reaches h.val .write (va.toNat / 64 * 64) 64 ⟨va.toNat / 64 * 64, pa, 64, 0⟩) : Completes (.cboZero h va) s fun t =>
      s.Went t h.val ((s.hart h.val).pc + 4) [] ∧ t.mem = s.mem ∧
      t.l2 h.val (pa / 64) = some { v with st := .m, data := 0, poison := false } := by
  have hd := l.notDevice (va.toNat / 64 * 64) 64
  have w := l.written hs (s.hartWorld h.val) fullMask 0
  generalize hu : s.lineWrite h.val (s.hartWorld h.val) false (pa / 64) fullMask 0 = u at w
  have hgo : s.cboZero h.val va.toNat = (u.smcNote h.val [⟨va.toNat / 64 * 64, pa, 64, 0⟩]).retire h.val := by
    rw [State.cboZero, if_neg (by have := l.core; omega), hc, State.withPieces_goes hp.parts hp.passed (by simp [hd]) (by simp)]
    dsimp only
    rw [hd, if_neg Bool.false_ne_true, State.sbWait_nil l.drained]
    exact congrArg (fun t => (State.smcNote t h.val _).retire h.val) hu
  have e : Executing h.val [] s (u.smcNote h.val [⟨va.toNat / 64 * 64, pa, 64, 0⟩]) := w.executing.trans (.smcNote ..)
  have st := (Settled.smcNote u h.val [⟨va.toNat / 64 * 64, pa, 64, 0⟩]).trans (.retire _ h.val)
  have hzero : v.written fullMask 0 = { v with st := .m, data := 0, poison := false } := by
    rw [L2Line.written, fullMask, mergeBytes_zero, bne_self_eq_false, Bool.and_false]
  exact r.access (exec_cboZero s) hgo (e.quiet r.toQuiet).retire ⟨e.went, st.mem.trans w.mem,
    (st.line ..).trans (w.line.trans (congrArg some hzero))⟩

end

/-- Settles O36, one atomic at a time. -/
theorem atomicsComplete : Obligations.AtomicsComplete := by
  intro h s va src size rd op r
  refine ⟨atomics_illegal r, fun h8 hn ha => ⟨loadReserved_misaligned r h8 hn ha, atomics_misaligned r h8 hn ha⟩,
    fun h8 hn ha pa v hg he ht hb hl hv => ?_, cboZero_absent r, fun h8 => ⟨fun c hc => cboZero_disabled r h8 hc,
      fun pa v hc hparts hpassed hg hb he ht hl hs => cboZero_zeroes r ⟨h8, hg, he, ht, hb, hl⟩ hs hc ⟨hparts, hpassed⟩⟩⟩
  have l : s.HoldsLine h.val pa v := ⟨h8, hg, he, ht, hb, hl⟩
  have hx : hartXlen h.val = 64 := if_pos h8
  have hholds : ∀ data, v.written (lineMask pa size.bytes) data =
      { v with st := .m, data := mergeBytes 64 (lineMask pa size.bytes) data v.data, poison := false } := fun data => by
    rw [L2Line.written, hv, Bool.false_and]
  have hread := fun hp => loadReserved_reserves (rd := rd) r l hn ha hv hp
  have hamo := fun hp => amo_completes (op := op) (src := src) (rd := rd) r l hn ha hp hv
  have hsc := fun hp => storeConditional_writes (src := src) (rd := rd) r l hn ha hp hv
  simp only [hx, hholds] at hread hamo hsc
  exact ⟨fun hparts hpassed => hread ⟨hparts, hpassed⟩, fun hparts hpassed => ⟨hamo ⟨hparts, hpassed⟩, hsc ⟨hparts, hpassed⟩,
    storeConditional_fails r l hn ha ⟨hparts, hpassed⟩⟩⟩

end Sys2Proof.Machine
end
